-- ==== Sys2Proof/Word.lean ====
section
/-! DEFINITION. The words of the module: bytes, register words, floating-point patterns, and the two
sparse containers (tables keyed by a number, and byte memories) whose canonical form makes equal
contents equal data. -/

namespace Sys2Proof

/-- A byte of a memory, a message or a record. -/
abbrev Byte := BitVec 8

/-- A 32-bit register word (R6), also the pattern of an FP32 value. -/
abbrev Word := BitVec 32

/-- The pattern of a BF16 value. -/
abbrev Half := BitVec 16

/-- A sparse table: entries by key, keys strictly rising, no entry equal to the table's default. -/
abbrev Tab (α : Type) := List (Nat × α)

/-- A byte memory: the cells that differ from 0, addresses strictly rising. -/
abbrev Mem := List (Nat × Byte)

/-- An FP32 pair of the wide accumulator: leading value and compensation (R134). -/
structure Pair where
  s : Word
  c : Word
  deriving DecidableEq, Repr, Inhabited

/-- The pair (+0, +0). -/
def Pair.zero : Pair := ⟨0, 0⟩

end Sys2Proof
end

