-- ==== Sys2Proof/Machine/Tab.lean ====
section
/-! DEFINITION. The operations on sparse tables and byte memories. Every one keeps the canonical form:
keys strictly rising, no entry equal to what an unlisted key reads as. -/

namespace Sys2Proof.Machine

/-- The value at key `k`; an unlisted key reads as `d`. -/
def tget {α : Type} (d : α) : Tab α → Nat → α
  | [], _ => d
  | (k0, v0) :: t, k => if k = k0 then v0 else tget d t k

/-- A new key takes its place among the others. -/
def tins {α : Type} (k : Nat) (v : α) : Tab α → Tab α
  | [] => [(k, v)]
  | (k0, v0) :: t => if k < k0 then (k, v) :: (k0, v0) :: t else (k0, v0) :: tins k v t

/-- The table with `v` at key `k`; a value equal to the default leaves no entry. -/
def tput {α : Type} [DecidableEq α] (d : α) (t : Tab α) (k : Nat) (v : α) : Tab α :=
  let u := t.filter fun e => e.1 != k
  if v = d then u else tins k v u

/-- The table with the value at `k` replaced by its image. -/
def tmod {α : Type} [DecidableEq α] (d : α) (t : Tab α) (k : Nat) (f : α → α) : Tab α :=
  tput d t k (f (tget d t k))

/-- The canonical form of a table from key `lo` on. -/
def tabWfFrom {α : Type} [DecidableEq α] (d : α) : Nat → Tab α → Bool
  | _, [] => true
  | lo, (k, v) :: t => decide (lo ≤ k) && decide (v ≠ d) && tabWfFrom d (k + 1) t

/-- The canonical form of a table. -/
def tabWf {α : Type} [DecidableEq α] (d : α) (t : Tab α) : Bool := tabWfFrom d 0 t

/-- The entries of a table whose keys satisfy a test: dropping entries keeps the canonical form. -/
def tkeep {α : Type} (p : Nat → Bool) (t : Tab α) : Tab α := t.filter fun e => p e.1

/-- The table with every value replaced by its image; a value that becomes the default leaves no entry. -/
def tmapv {α : Type} [DecidableEq α] (d : α) (f : α → α) (t : Tab α) : Tab α := (t.map fun e => (e.1, f e.2)).filter fun e => e.2 ≠ d

/-! ## Byte memories -/

/-- The canonical form of a memory: addresses strictly rising, no byte listed that reads as an unlisted one does. -/
def Memory.wf (m : Mem) : Bool := tabWf (0 : Byte) m

/-- One byte of a memory; a byte nothing has written reads as 0 (log entry 14). -/
def rdByte (m : Mem) (a : Nat) : Byte := tget 0 m a

/-- A memory with one byte written. -/
def wrByte (m : Mem) (a : Nat) (b : Byte) : Mem := tput 0 m a b

/-- `n` bytes from `a` upwards. -/
def rdBytes (m : Mem) (a : Nat) : Nat → List Byte
  | 0 => []
  | n + 1 => rdByte m a :: rdBytes m (a + 1) n

/-- Bytes written from `a` upwards. -/
def wrBytes (m : Mem) (a : Nat) : List Byte → Mem
  | [] => m
  | b :: bs => wrBytes (wrByte m a b) (a + 1) bs

/-- The little-endian number in a byte string (R6, R185). -/
def leNat : List Byte → Nat
  | [] => 0
  | b :: bs => b.toNat + 256 * leNat bs

/-- The `n` little-endian bytes of a number. -/
def leBytes (v : Nat) : Nat → List Byte
  | 0 => []
  | n + 1 => BitVec.ofNat 8 v :: leBytes (v / 256) n

/-- A little-endian 32-bit word of a memory. -/
def rdWord (m : Mem) (a : Nat) : Word := BitVec.ofNat 32 (leNat (rdBytes m a 4))

/-- A memory with a little-endian 32-bit word written. -/
def wrWord (m : Mem) (a : Nat) (w : Word) : Mem := wrBytes m a (leBytes w.toNat 4)

/-- A little-endian 16-bit value of a memory. -/
def rdHalf (m : Mem) (a : Nat) : Half := BitVec.ofNat 16 (leNat (rdBytes m a 2))

/-- A memory with a little-endian 16-bit value written. -/
def wrHalf (m : Mem) (a : Nat) (h : Half) : Mem := wrBytes m a (leBytes h.toNat 2)

/-- A memory with the cells of `[a, a + n)` set to 0 (a scrub, R470). -/
def zeroRange (m : Mem) (a n : Nat) : Mem := m.filter fun c => c.1 < a || a + n ≤ c.1

/-- An FP32 pair held in 8 bytes, leading value first (R134, R136). -/
def rdPair (m : Mem) (a : Nat) : Pair := ⟨rdWord m a, rdWord m (a + 4)⟩

/-- A memory with an FP32 pair written. -/
def wrPair (m : Mem) (a : Nat) (p : Pair) : Mem := wrWord (wrWord m a p.s) (a + 4) p.c

/-! ## Bit fields of numbers -/

/-- Bits `[lo + len - 1 : lo]` of a number. -/
def fld (w lo len : Nat) : Nat := w / 2 ^ lo % 2 ^ len

/-- Bit `i` of a number. -/
def bitOf (w i : Nat) : Bool := w / 2 ^ i % 2 == 1

/-- 1 for true, 0 for false. -/
def b2n (b : Bool) : Nat := if b then 1 else 0

/-- A saturating sum of a counter of `w` bits (R565). -/
def satAdd (w a b : Nat) : Nat := min (a + b) (2 ^ w - 1)

/-- `n` mod 2^w read as a two's-complement number. -/
def sext (w n : Nat) : Int :=
  let m := n % 2 ^ w
  if m < 2 ^ (w - 1) then (m : Int) else (m : Int) - (2 ^ w : Nat)

/-- A number as `w` bits of two's complement. -/
def trunc (w : Nat) (i : Int) : Nat := (i % ((2 ^ w : Nat) : Int)).toNat

/-- The set bits of a mask below `n`, ascending. -/
def maskBits (m n : Nat) : List Nat := (List.range n).filter (bitOf m)

/-- The first position of a list element that passes a test. -/
def findIx {α : Type} (p : α → Bool) : List α → Nat → Option Nat
  | [], _ => none
  | x :: xs, i => if p x then some i else findIx p xs (i + 1)

/-- A list with element `i` replaced by its image. -/
def modAt {α : Type} (f : α → α) : List α → Nat → List α
  | [], _ => []
  | x :: xs, 0 => f x :: xs
  | x :: xs, i + 1 => x :: modAt f xs i

/-- Element `i` of a list, or a default. -/
def nth {α : Type} (d : α) (l : List α) (i : Nat) : α := (l[i]?).getD d

/-- The sum of integers. -/
def isum (l : List Int) : Int := l.foldl (· + ·) 0

/-- Bytes to a padded list of `n` bytes. -/
def padTo (n : Nat) (l : List Byte) : List Byte := (l ++ List.replicate n 0).take n

/-! ## CRC-32C, the check of tables, images, records and copies (R99, R179, R420, R498) -/

/-- One bit of the reflected CRC-32C register. -/
def crcBit (c : Nat) : Nat := if c % 2 = 1 then (c / 2) ^^^ 0x82F63B78 else c / 2

/-- One byte taken into the CRC register. -/
def crcByte (c : Nat) (b : Byte) : Nat :=
  crcBit (crcBit (crcBit (crcBit (crcBit (crcBit (crcBit (crcBit (c ^^^ b.toNat))))))))

/-- CRC-32C of a byte string. -/
def crc32c (bs : List Byte) : Word := BitVec.ofNat 32 ((bs.foldl crcByte 0xFFFFFFFF) ^^^ 0xFFFFFFFF)

end Sys2Proof.Machine
end

