-- ==== Sys2Proof/Syntax.lean ====
section
/-! DEFINITION. The commands of the block, one constructor of `Instr` for each row of the opcode table,
with the operands the spec gives the row: slot fields for sequencer instructions (R195 to R214), message
fields for host commands (R391 to R393), token fields for token arrivals (R232), and, for events, what the
world outside the module brings (a measured value, a received frame, the outcome of a signature check). -/

namespace Sys2Proof

/-! ## Operand groups of the sequencer slots -/

/-- The issue of an instruction: the sequencer that issues it, named by the 17 bits of a token's SRC field
(R232), the kind of its repetition group (0 none, 1 lanes, 2 positions) and its iteration (R192), the
segment its bundle belongs to (R226), and the WAITM field of its bundle's header (R186). -/
structure Iss where
  sid  : Nat
  reps : Nat
  r    : Nat
  seg  : Nat
  waitm : Nat := 0
  deriving DecidableEq, Repr, Inhabited

/-- Fields of STRK and STKV (R195). -/
structure StrokeF where
  emask : Nat
  amask : Nat
  plane : Nat
  ibs   : Nat
  esh   : Nat
  ifmt  : Nat
  band  : Nat
  gsz   : Nat
  ntr   : Nat
  deriving DecidableEq, Repr, Inhabited

/-- Fields of the reductions (R201). -/
structure RedF where
  src  : Nat
  dst  : Nat
  dsr  : Nat
  nt   : Nat
  idxb : Nat
  deriving DecidableEq, Repr, Inhabited

/-- Fields of the tile-term instructions GCOL to GTNT (R205). -/
structure GlzF where
  eng   : Nat
  grp   : Nat
  plane : Nat
  tile  : Nat
  tid   : Nat
  vp    : Nat
  ph    : Nat
  lix   : Nat
  deriving DecidableEq, Repr, Inhabited

/-- SRC, DST, LEN and TY of the element instructions (R205). -/
structure ElF where
  src : Nat
  dst : Nat
  len : Nat
  ty  : Nat
  deriving DecidableEq, Repr, Inhabited

/-- Fields of ECVT (R205). -/
structure EcvtF where
  src  : Nat
  dst  : Nat
  nblk : Nat
  sfmt : Nat
  tfmt : Nat
  mode : Nat
  lix  : Nat
  deriving DecidableEq, Repr, Inhabited

/-- A token of the token network (R232), with the plane its copy came on (R28). -/
structure Token where
  kind  : Nat
  att   : Nat
  step  : Nat
  src   : Nat
  seq   : Nat
  arg   : Nat
  plane : Nat
  deriving DecidableEq, Repr, Inhabited

/-! ## Host messages -/

/-- What identifies a host command: the session it came on, its submission queue, the PTN field of an
operator's header, its TAG and the handle it names (R391). -/
structure Hdr where
  ses    : Nat
  queue  : Nat
  ptn    : Nat
  tag    : Nat
  handle : Nat
  deriving DecidableEq, Repr, Inhabited

/-- The sampling controls of lane descriptor words 8 to 13 (R302). -/
structure Ctl where
  temp   : Half
  topk   : Nat
  topp   : Half
  minp   : Half
  rpen   : Half
  rscope : Nat
  seed   : Nat
  nprop  : Nat
  psrc   : Nat
  tree   : Nat
  deriving DecidableEq, Repr, Inhabited

/-- The body of SUBMIT and CONTINUE (R393). -/
structure SubmitBody where
  cq       : Nat
  prio     : Nat
  keep     : Bool
  noa8     : Bool
  part     : Bool
  mask     : Bool
  endrule  : Nat
  tint     : Nat
  tbound   : Bool
  maxnew   : Nat
  deadline : Nat
  ttl      : Nat
  ctl      : Ctl
  nprompt  : Nat
  masklen  : Nat
  prompt   : List Nat
  maskArea : List Byte
  deriving DecidableEq, Repr, Inhabited

/-! ## Dolotte bundles: R217, R225 and R464 name their parts and give no byte layout, so a bundle is the
structure its parts make (log entry 13). -/

/-- One plane image of the weight section: where it is placed, its format (0 W4, 1 W3, 2 WT, 3 W8 low,
4 W8 high), its range coefficient, its column scales, its nibbles in the layout of R111 and the CRC-32C that is held with them (R99). -/
structure PlaneImage where
  array  : Nat
  plane  : Nat
  fmt    : Nat
  coeff  : Nat
  scales : List Half
  bytes  : List Byte
  crc    : Word
  deriving DecidableEq, Repr, Inhabited

/-- An entry of an outlier list (R162): value, tile row and column. -/
structure OutEntry where
  value : Byte
  row   : Nat
  col   : Nat
  deriving DecidableEq, Repr, Inhabited

/-- The excluded weights of an engine tile, named by engine, group and plane as one address (R162, R163). -/
structure OutList where
  tile  : Nat
  cells : List OutEntry
  deriving DecidableEq, Repr, Inhabited

/-- An envelope (R183): bounds, variance bound, initial estimate and tint widening factor, in BF16. -/
structure Envelope where
  lo    : Half
  hi    : Half
  vmax  : Half
  vinit : Half
  widen : Half
  deriving DecidableEq, Repr, Inhabited

/-- A layer-input record (R193): predicted exponent, group size, number of the channel set and the input index in it of the first element that
the record's conversion covers, checkpoint address and per-lane stride, location of the gain vector in cluster SRAM, its ε and its length. -/
structure LixRec where
  pred   : Nat
  group  : Nat
  chans  : Nat
  first  : Nat
  ckpt   : Nat
  stride : Int
  gain   : Nat
  eps    : Word
  len    : Nat
  deriving DecidableEq, Repr, Inhabited

/-- The table of one sequencer in a template variant (R225): the sequencer, its bundles as 256-bit words, the
segment of each, its stride record, its layer-input records, its routes (destination, space, address, arrival credit or 0), the token counter of each channel it
waits on, the credit counter of each credit channel it owns, the rows of its credit table (row × 4096 + counter, value) and its
rewind table: segment, table index of the resume sequence, credit-table row. -/
structure SeqTable where
  sid     : Nat
  bundles : List Nat
  segs    : List Nat
  strides : List Int
  lix     : List (Nat × LixRec)
  routes  : List (Nat × Nat × Nat × Nat)
  chans   : List (Nat × Nat)
  cctr    : List (Nat × Nat)
  credits : List (Nat × Nat)
  resumes : List (Nat × Nat × Nat)
  deriving DecidableEq, Repr, Inhabited

/-- The declarations of a variant (R225): most lanes, positions, verify width and context, worst-case step time in µs. -/
structure Decls where
  lanes  : Nat
  npos   : Nat
  wmax   : Nat
  ctx    : Nat
  wUs    : Nat
  deriving DecidableEq, Repr, Inhabited

/-- One variant of a step template (R225): its tables; for each token channel its destinations (key the channel; key 4096 + channel:
the owner of a credit channel) and its sending sequencers; the recorded reduction orders (key sequencer × 2048 + tile; + 1024 + register for a scalar register), and the tiles whose sum crosses a
core; the replay windows (key sequencer × 128 + segment, table index of the bundle that opens it, slots); the glaze-table fetches in
their order (cluster, segment, table); where embedding rows land in the head clusters' working SRAM; and the declarations. -/
structure Variant where
  tables  : List SeqTable
  chanTo  : List (Nat × List Nat)
  chanFrom : List (Nat × List Nat)
  redOrd  : List (Nat × List Nat)
  crosses : List Nat
  windows : List (Nat × Nat × Nat)
  fetches : List (Nat × Nat × Nat)
  embAt   : Nat
  decl    : Decls
  deriving DecidableEq, Repr, Inhabited

/-- A step template (R225): variant 0 in the compiled format, variant 1 in A8. -/
structure Template where
  v0     : Variant
  hasA8  : Bool
  v1     : Variant
  deriving DecidableEq, Repr, Inhabited

/-- An attention layer record (R284). -/
structure AttnRec where
  layer : Nat
  win   : Nat
  kscl  : List Half
  vscl  : List Half
  sbnd  : Half
  deriving DecidableEq, Repr, Inhabited

/-- A projection (R175): its TID, its input and output width, and whether it is one of the sketch model's. -/
structure Projection where
  tid    : Nat
  inW    : Nat
  outW   : Nat
  sketch : Bool
  deriving DecidableEq, Repr, Inhabited

/-- A Dolotte bundle (R5, R82, R99, R112, R163, R183, R225, R300, R308, R464). `tileLayer` names the layer of each engine tile, `policy` the
outlier threshold in 0.01 weight units and the kept rank of each layer (R82, R173), `tileCol` the first output column of each engine tile in its
projection, `tileIn` the channel set whose layer input feeds each engine tile and the index of its first row there, `dir` the
glaze-table directory (cluster position and TID, engine tile), `glazeMiB` the size of the glaze region of each cluster (R178), `embed` the rows of the
embedding table, of `hidden` elements each, `calVecs` the 32 calibration vectors of the retention check (R106). -/
structure Bundle where
  hash      : Nat
  sigOk     : Bool
  paramset  : Nat
  images    : List PlaneImage
  outliers  : List OutList
  tileLayer : List (Nat × Nat)
  policy    : List (Nat × Nat × Nat)
  channels  : List (Nat × List Nat)
  envelopes : List (Nat × Envelope)
  stats     : List (Nat × Half × Half)
  freqs     : List (Nat × List Word)
  templates : List Template
  projs     : List Projection
  tileCol   : List (Nat × Nat)
  tileIn    : List (Nat × Nat × Nat)
  dir       : List (Nat × Nat × Nat)
  glazeMiB  : List (Nat × Nat)
  hidden    : Nat
  embed     : List (List Half)
  attn      : List AttnRec
  kvHeads   : Nat
  layers    : Nat
  vocab     : Nat
  ends      : List Nat
  sketch    : Bool
  heads     : Nat
  attHeads  : Nat
  calVecs   : List (List Int)
  deriving DecidableEq, Repr, Inhabited

/-- A tint (R175): one adapter pair per projection, with rank, scale and the two matrices in BF16. -/
structure TintPair where
  tid   : Nat
  rank  : Nat
  alpha : Half
  a     : List (List Half)
  b     : List (List Half)
  deriving DecidableEq, Repr, Inhabited

/-- An export package as IMPORT receives it (R353, R354): `kv` committed slots, and the pages by layer, page and FILL. -/
structure Package where
  sigOk    : Bool
  forUs    : Bool
  peer     : Nat
  serial   : Nat
  hash     : Nat
  kvfmt    : Nat
  tokens   : List Nat
  ctl      : Ctl
  tint     : Nat
  tbound   : Bool
  tintHash : Nat
  ttlLeft  : Nat
  kv       : Nat
  frames   : Nat
  pages    : List (Nat × Nat × Nat × List Byte)
  deriving DecidableEq, Repr, Inhabited

/-! ## Segments, frames, records -/

/-- A received Onanas segment (R361) after the tag check of R362, whose outcome is `tagOk`; `fill` is how full the port's receive buffer then is,
in percent (R360). -/
structure Segment where
  port   : Nat
  vid    : Nat
  path   : Nat
  sid    : Nat
  seq    : Nat
  msgid  : Nat
  segix  : Nat
  segcnt : Nat
  tsval  : Nat
  ce     : Bool
  retx   : Bool
  secure : Bool
  tagOk  : Bool
  fill   : Nat
  body   : List Byte
  deriving DecidableEq, Repr, Inhabited

/-- An acknowledgement (R375): CUMACK, the bits of its bitmap, ECE. -/
structure AckInfo where
  port   : Nat
  vid    : Nat
  path   : Nat
  sid    : Nat
  seq    : Nat
  cum    : Nat
  bits   : List Nat
  ece    : Bool
  tsval  : Nat
  tagOk  : Bool
  deriving DecidableEq, Repr, Inhabited

/-- HS_INIT (R367) with what the certificate check of R368 finds, and its bytes, which the signature of R366 covers. -/
structure HsInit where
  port    : Nat
  vid     : Nat
  hsid    : Nat
  role    : Nat
  flags   : Nat
  idle    : Nat
  hnonce  : Nat
  attach  : Nat
  certOk  : Bool
  certRole : Nat
  msg     : List Byte
  deriving DecidableEq, Repr, Inhabited

/-- Converter codes of one calibration measurement (R428): for a converter, the S2 and S3 codes of the
32 vectors in pass a and pass b; for a swatch column, its codes in both passes and no second list. -/
structure CalMeas where
  array : Nat
  conv  : Nat
  swatch : Bool
  a2    : List Int
  a3    : List Int
  b2    : List Int
  b3    : List Int
  deriving DecidableEq, Repr, Inhabited

/-- The outcome of one boot (R449): which image slots pass, the configuration copies, the key store and
the unit-history copies, as the security core reads them; `badKeys` the partitions whose sealed key fails its check (R469). -/
structure BootFind where
  puf      : Bool
  secA     : Bool
  secB     : Bool
  cfgA     : Bool
  cfgB     : Bool
  cfgSeqA  : Nat
  cfgSeqB  : Nat
  cfgSame  : Bool
  cfgSig   : Bool
  otherA   : List Bool
  otherB   : List Bool
  keysOk   : Bool
  badKeys  : List Nat
  histA    : Bool
  histB    : Bool
  histSeqA : Nat
  histSeqB : Nat
  histSame : Bool
  histRecA : Nat
  histRecB : Nat
  histPermA : Nat
  histPermB : Nat
  evrGood  : Nat
  deriving DecidableEq, Repr, Inhabited

/-- A unit that fails self-test (R537): kind 0 core, 1 cluster unit, 2 one token plane, 3 both planes,
4 link, 5 memory, 6 attention or head cluster unit. -/
structure TestFail where
  kind  : Nat
  unit  : Nat
  level : Nat
  deriving DecidableEq, Repr, Inhabited

/-- The three access paths of R547. -/
inductive Path where
  | operator (ses : Nat) (ptn : Nat)
  | partition (ses : Nat) (ptn : Nat)
  | sideband
  deriving DecidableEq, Repr, Inhabited

/-- The regions of R298. -/
inductive FarRegion where
  | image (canvas : Nat) (plane : Nat)
  | residual (plane : Nat)
  | paused (index : Nat)
  | region
  | staged (canvas : Nat)
  deriving DecidableEq, Repr, Inhabited

/-- The commands of the module: the rows of the table of operations and events. -/
inductive Instr where
  -- ARRAY slot, core sequencers
  | nopa (i : Iss)
  | strk (i : Iss) (f : StrokeF)
  | stkv (i : Iss) (f : StrokeF)
  | psel (i : Iss) (emask amask plane : Nat)
  | strokeEnd (engine : Nat) (dev : Tab Int) (tree : Nat)
  | strokeFlagsReport (engine : Nat)
  -- ACC slot
  | aclr (i : Iss) (tile count : Nat)
  | acn (i : Iss) (ntrm : Nat)
  | apro (i : Iss) (eng ntr tile vp : Nat)
  | awid (i : Iss) (dtile srcsp saddr tcnt fold : Nat)
  | rsum (i : Iss) (f : RedF) (sq : Nat)
  | rmax (i : Iss) (f : RedF)
  | rmin (i : Iss) (f : RedF)
  | rarg (i : Iss) (f : RedF)
  | rand (i : Iss) (f : RedF)
  | ror (i : Iss) (f : RedF)
  | rxor (i : Iss) (f : RedF)
  | rcnt (i : Iss) (f : RedF)
  -- GLAZE slot
  | nopg (i : Iss)
  | gcol (i : Iss) (f : GlzF)
  | gout (i : Iss) (f : GlzF)
  | gact (i : Iss) (f : GlzF)
  | glr (i : Iss) (f : GlzF)
  | gtnt (i : Iss) (f : GlzF)
  | enorm (i : Iss) (f : ElF) (sr lix : Nat)
  | eact (i : Iss) (f : ElF) (fn : Nat)
  | emul (i : Iss) (f : ElF) (srcb : Nat)
  | eadd (i : Iss) (f : ElF) (srcb : Nat)
  | erot (i : Iss) (f : ElF) (fid pair : Nat)
  | ecvt (i : Iss) (f : EcvtF)
  -- MOVE slot
  | nopm (i : Iss)
  | mvb (i : Iss) (ssp dsp saddr daddr len ty : Nat)
  | mvf (i : Iss) (ssp saddr route len ty : Nat)
  | mvk (i : Iss) (ssp saddr layer kind vp : Nat)
  | mck (i : Iss) (ssp saddr len lix : Nat)
  -- SYNC slot
  | twait (i : Iss) (tch count : Nat)
  | tsend (i : Iss) (tch : Nat)
  | cred (i : Iss) (cch op n : Nat)
  | chk (i : Iss) (tile vp eid : Nat)
  | csum (i : Iss) (emask ntr : Nat)
  | flor (i : Iss)
  | step (i : Iss)
  | rplw (i : Iss) (close : Nat)
  | replaySlot (i : Iss)
  -- attention and head sequencers
  | score (i : Iss) (kvh layer qaddr sbuf mask nqh : Nat)
  | snorm (i : Iss) (sbuf paddr nqh : Nat)
  | smix (i : Iss) (kvh layer paddr oaddr mask nqh : Nat)
  | kvput (i : Iss) (kvh layer kaddr : Nat)
  | samp (i : Iss) (laddr pos : Nat)
  | skdr (i : Iss) (nprop tree daddr : Nat) (cands : List (List (Nat × Word)))
  | vrfy (i : Iss) (laddr daddr tree : Nat)
  -- fabric, tokens, scheduling
  | fabricDelivery (ix : Nat)
  | glazeTableFetch (cluster tid : Nat) (crcOk again : Bool)
  | flagSegmentClose (sid flagIx : Nat)
  | syncToken (dest : Nat) (tok : Token)
  | credit (dest : Nat) (tok : Token)
  | stepBoundary (dest : Nat) (tok : Token)
  | stepDone (tok : Token)
  | segment (tok : Token)
  | retract (dest : Nat) (tok : Token)
  | rewindGatherExpiry
  | rewind (dest : Nat) (tok : Token)
  | quiesced (tok : Token)
  | resumeToken (dest : Nat) (tok : Token)
  | commit
  | laneKill (dest : Nat) (tok : Token)
  | seqFault (tok : Token)
  | abandon (dest : Nat) (tok : Token)
  | stepWatchdogExpiry
  | stepCompose
  | hotCacheFill (cluster slice : Nat)
  | spacingTimeout
  | energyMeterSample (uj : Nat)
  | formatFloorExpiry (canvas : Nat)
  | persistentColumnRelease (core array plane col : Nat)
  | runtimeChannelAdd (canvas set index : Nat)
  | runtimeChannelLeave (canvas set index : Nat)
  | digcolEntryFetch (core array plane col : Nat)
  -- calibration
  | calibrationGapOpen (meas : List CalMeas)
  | calibrationGapClose
  | calIntervalExpiry (cluster : Nat)
  | driftTableSave (cluster : Nat)
  -- integrity
  | fenceStart (core : Nat)
  | fenceComplete (cluster : Nat)
  | drainBudgetExpiry
  | replaceEntry
  | unitHistoryPeriodicWrite
  | auditRotation (cluster : Nat)
  | auditArbitration (cluster : Nat) (again : List Int)
  | tokenPlaneFailure (plane hop : Nat)
  -- writing weights
  | programIteration (array plane row : Nat) (read : List (Nat × Nat × Nat))
  | planeWriteComplete (array plane : Nat)
  | programmingWaveStart (canvas : Nat)
  | loadComplete (canvas : Nat)
  | canvasRecordDurable (canvas : Nat)
  | eraseComplete
  | stagePartTimeout (canvas : Nat)
  -- memory
  | farTierPatrol (hub : Nat)
  | farTierUncorrectable (r : FarRegion)
  | masterCopyReadback (canvas plane : Nat) (crcOk : Bool)
  | memoryCorrectableError (tier : Nat)
  | hotCacheUncorrectable (cluster slice : Nat)
  | poisonRepair (index : Nat)
  -- requests
  | submit (h : Hdr) (b : SubmitBody)
  | prompt (h : Hdr) (words : List Nat) (maskBytes : List Byte) (last : Bool)
  | commandPartTimeout (ptn queue : Nat)
  | continue_ (h : Hdr) (b : SubmitBody)
  | cancel (h : Hdr)
  | pause (h : Hdr)
  | resume (h : Hdr)
  | discard (h : Hdr)
  | export_ (h : Hdr) (release : Bool) (peer : Nat)
  | exportRelease (index : Nat)
  | import_ (h : Hdr) (p : Package)
  | tintLoad (h : Hdr) (slot : Nat) (rebind whole : Bool) (hash : Nat) (pairs : List TintPair)
  | tintDelete (h : Hdr) (slot : Nat)
  | cqRead (h : Hdr) (cq count : Nat)
  | regRead (h : Hdr) (addr count : Nat)
  | regWrite (h : Hdr) (addr count : Nat) (values : List Word)
  | attest (h : Hdr) (nonce : Nat)
  | stage (h : Hdr) (canvas offset len total : Nat) (bundle : Bundle)
  | load (h : Hdr) (canvas : Nat)
  | abort (h : Hdr) (canvas : Nat)
  | erase (h : Hdr) (canvas : Nat) (module_ : Bool)
  | cfgWrite (h : Hdr) (sigOk : Bool) (svn : Nat) (owner : List Nat)
  | cfgResolve (h : Hdr) (copy : Nat) (copyOk : Bool)
  | fwStage (h : Hdr) (cls imgCls svn : Nat) (sigOk raise : Bool) (rlo rhi wr : Nat) (meas : Nat)
  | fwUpdate (h : Hdr) (cls : Nat)
  | fwProvisionalEnd
  | fwRevert
  | fwFloor (h : Hdr) (cls : Nat)
  | fwActivate (h : Hdr) (cls : Nat)
  | firmwareWatchdog (cls unit : Nat)
  | claim (h : Hdr) (key : Nat)
  | ownerRotate (h : Hdr) (key : Nat) (sigOk : Bool)
  | release (h : Hdr) (sigOk : Bool)
  | keyRotate (h : Hdr)
  | admissionWaitExpiry (index : Nat)
  | deadlineExpiry (index : Nat)
  | timeToLiveExpiry (index : Nat)
  | idleThresholdExpiry (index : Nat)
  | pauseMoveComplete (index : Nat)
  | resumeMoveComplete (index : Nat)
  | frameScrubComplete (ptn frame : Nat) (far : Bool)
  | loadDrainExpiry (canvas : Nat)
  | leaseTest
  | graceExpiry (ses : Nat)
  | tokensSend (index : Nat)
  | eventCoalesceExpiry (ptn : Nat)
  -- transport
  | dataSegmentReceive (g : Segment)
  | ackReceive (a : AckInfo)
  | ackTimer (ses path : Nat)
  | retransmitTimeout (ses seq : Nat)
  | hsInit (m : HsInit)
  | hsKey (port hsid : Nat) (sigOk : Bool) (secret : Nat)
  | handshakeTimeout (hsid : Nat)
  | announceTimer (port : Nat)
  | solicit (port : Nat)
  | probe (g : Segment) (pnum : Nat)
  | probeAck (g : Segment) (pnum : Nat)
  | pathProbeTimer (ses net : Nat)
  | close (g : Segment) (reason : Nat) (keep : Bool)
  | portLinkLoss (port : Nat)
  | lldpTimer (port : Nat)
  | lldpReceive (port chassis portid : Nat)
  | pfcPauseReceive (port prio quanta : Nat)
  -- register writes with a row of their own
  | calCmdAll (path : Path) (v : Word)
  | clear (path : Path) (v : Word)
  | recorderClearEnd
  | swtrig (path : Path) (v : Word)
  | holdReq (path : Path) (v : Word)
  | plim (path : Path) (v : Word)
  | ptnEnable (path : Path) (n : Nat) (v : Word)
  | cnvEnable (path : Path) (c : Nat) (v : Word)
  | sketchEn (path : Path) (c : Nat) (v : Word)
  | auditEn (path : Path) (v : Word)
  | query (path : Path) (v : Word)
  | registerWrite (path : Path) (addr : Nat) (v : Word)
  -- sideband
  | addr (pecOk : Bool) (a : Word)
  | read (pecOk : Bool) (n : Nat)
  | write (pecOk : Bool) (vs : List Word)
  | status (pecOk : Bool)
  | rcvStatus (pecOk : Bool)
  | rcvData (pecOk : Bool) (bytes : List Byte)
  | rcvDone (pecOk : Bool) (byte : Byte) (imageOk : Bool)
  | entdaa (a : Nat)
  | setdasa (static_ dyn : Nat)
  | tapInstructionLoad (tap : Nat) (op : Nat)
  -- start, power, pins
  | pwrEnAssert
  | securityBoot (f : BootFind)
  | selfTest (fails : List TestFail) (kept regionOk : Bool)
  | retentionCheck (canvas : Nat) (recOk crcOk : Bool) (gains : List (Nat × Word × Word)) (offsets : List (Nat × Int))
  | readyEntry
  | pwrEnDeassert
  | shutdownComplete
  | resetNAssert (long : Bool)
  | resetNRelease (straps : Nat)
  | pwrwarnNAssert
  | pwrwarnNRelease
  | holdNAssert
  | holdQuiesceTimeout
  | holdNRelease
  | moduleRemoval
  | inputOvervoltage (mv : Nat)
  | inputUndervoltage (mv : Nat)
  | inputLockout (mv : Nat)
  | inputReconnect (mv : Nat)
  | thermalComparatorTrip (unit : Nat)
  | droopDetect (cluster : Nat) (mv : Nat)
  | stretchEnd (cluster : Nat) (cycles : Nat)
  | peakLimit (watts : Nat)
  | housekeepingChannel (ch : Nat) (value : Int) (valid : Bool)
  | housekeepingRoundEnd (watts pump : Nat)
  | recordWrite
  | recorderCommit
  | inputApplied (mv : Nat)
  | inputUvRelease (mv : Nat)
  | inputStageDisconnect (mv : Nat)
  | powerGood (ok : Bool)
  | portLinkUp (port : Nat)
  | mkaFrameReceive (port : Nat) (up : Bool)
  | ipv6NeighbourDiscovery (port : Nat) (solicitation : Bool) (prefix_ : Nat) (plen : Nat)
  | pfcReceiveBufferDrain (port : Nat) (percent : Nat)
  | nonfenceFaultDetect (unit level cause : Nat)
  | calModuleEventTimer
  | smbusClockLowTimeout (ms : Nat)
  | enec (bits : Nat)
  | trstNAssert
  | cfgResolveReset
  | standbyReadingRefresh (mv ma10 : Nat) (board : List (Int × Bool))
  deriving DecidableEq, Repr

end Sys2Proof
end

