-- ==== Sys2Proof/WellFormed.lean ====
section
/-! DEFINITION. Legal field values of the sequencer instructions (R195, R201, R205, R208, R210, R212, R214): what a slot may
say. Commands that are no slot of a sequencer have no such form and are well formed as they stand. -/

namespace Sys2Proof

/-- A value of a field of `n` bits. -/
def bits (n v : Nat) : Bool := decide (v < 2 ^ n)

/-- STRK and STKV (R195): nonzero masks, an IB slot, no reserved BAND or GSZ. -/
def StrokeF.wf (f : StrokeF) : Bool :=
  bits 16 f.emask && f.emask != 0 && bits 16 f.amask && f.amask != 0 && bits 4 f.plane && decide (f.ibs ≤ 7942)
    && bits 1 f.esh && bits 2 f.ifmt && decide (f.band ≤ 4) && decide (f.gsz ≤ 2) && bits 3 f.ntr

/-- A reduction (R201). -/
def RedF.wf (f : RedF) : Bool :=
  bits 10 f.src && bits 10 f.dst && bits 1 f.dsr && decide (1 ≤ f.nt) && bits 6 f.nt && bits 16 f.idxb

/-- A tile-term instruction (R205); PH is 0 but for GLR and GTNT. -/
def GlzF.wf (f : GlzF) (phased : Bool) : Bool :=
  bits 4 f.eng && bits 2 f.grp && bits 4 f.plane && bits 10 f.tile && bits 16 f.tid && bits 1 f.vp
    && (if phased then bits 1 f.ph else f.ph == 0) && bits 6 f.lix

/-- SRC, DST, LEN and TY of an element instruction. -/
def ElF.wf (f : ElF) : Bool := bits 11 f.src && bits 11 f.dst && bits 8 f.len && bits 1 f.ty

/-- ECVT (R205): an IB slot as destination, no reserved MODE. -/
def EcvtF.wf (f : EcvtF) : Bool :=
  bits 11 f.src && decide (f.dst ≤ 7942) && bits 8 f.nblk && bits 2 f.sfmt && bits 2 f.tfmt && decide (f.mode ≤ 2) && bits 6 f.lix

/-- A query, key or output operand of the attention sequencers (R212). -/
def attWf (kvh layer addr : Nat) : Bool := bits 3 kvh && bits 7 layer && bits 16 addr

/-- NQH (R212). -/
def nqhWf (n : Nat) : Bool := decide (1 ≤ n) && bits 4 n

/-- Legal fields of an instruction. -/
def Instr.wf : Instr → Bool
  | .strk _ f | .stkv _ f => f.wf
  | .psel _ e a p => bits 16 e && e != 0 && bits 16 a && a != 0 && bits 4 p
  | .aclr _ t c => bits 10 t && decide (c ≤ 1024)
  | .acn _ m => bits 8 m
  | .apro _ e n t v => bits 4 e && bits 3 n && bits 10 t && bits 1 v
  | .awid _ d sp a t f => bits 10 d && bits 1 sp && bits 10 a && decide (1 ≤ t) && decide (t ≤ 16) && bits 1 f
  | .rsum _ f sq => f.wf && bits 1 sq
  | .rmax _ f | .rmin _ f | .rarg _ f | .rand _ f | .ror _ f | .rxor _ f | .rcnt _ f => f.wf
  | .gcol _ f | .gout _ f | .gact _ f => f.wf false
  | .glr _ f | .gtnt _ f => f.wf true
  | .enorm _ f sr lix => f.wf && bits 3 sr && bits 6 lix
  | .eact _ f fn => f.wf && bits 2 fn
  | .emul _ f b | .eadd _ f b => f.wf && bits 11 b
  | .erot _ f fid pair => f.wf && bits 10 fid && bits 1 pair
  | .ecvt _ f => f.wf
  | .mvb _ s d sa da l ty => bits 2 s && bits 2 d && bits 14 sa && bits 14 da && bits 3 l && bits 1 ty
  | .mvf _ s a r l ty => bits 2 s && bits 14 a && bits 10 r && decide (l ≤ 12) && bits 1 ty
  | .mvk _ s a l k v => bits 2 s && bits 14 a && bits 7 l && decide (k ≤ 2) && bits 1 v
  | .mck _ s a l x => bits 2 s && bits 14 a && decide (l ≤ 7) && bits 6 x
  | .twait _ c n => bits 12 c && (if c = 0 then n == 0 else decide (1 ≤ n) && bits 4 n)
  | .tsend _ c => bits 12 c && c != 0
  | .cred _ c op n => bits 12 c && c != 0 && bits 1 op && decide (1 ≤ n) && bits 4 n
  | .chk _ t v e => bits 10 t && bits 1 v && bits 9 e
  | .csum _ e n => bits 16 e && bits 3 n
  | .rplw _ c => bits 1 c
  | .score _ h l q s m n => attWf h l q && bits 4 s && bits 2 m && nqhWf n
  | .snorm _ s p n => bits 4 s && bits 16 p && nqhWf n
  | .smix _ h l p o m n => attWf h l p && bits 16 o && bits 2 m && nqhWf n
  | .kvput _ h l k => attWf h l k
  | .samp _ a p => bits 16 a && bits 3 p
  | .skdr _ n t a c => decide (1 ≤ n) && decide (n ≤ if t = 1 then 16 else 8) && bits 1 t && bits 16 a && c.isEmpty
  | .vrfy _ a d t => bits 16 a && bits 16 d && bits 1 t
  | _ => true

end Sys2Proof
end

