-- ==== Sys2Proof/Decode.lean ====
section
/-! DEFINITION. Words and the commands they spell. The opcode table gives no row any bits (every row's list of fields is empty), so no
table word spells a command. The bundles of the sequencer tables do have bits (R185 to R214): the module reads them when it checks a
step template at staging (R217), and `decodeSlot` and `encodeSlot` are those bits, slot by slot. -/

namespace Sys2Proof

open Sys2Proof.Machine

/-- The command that the low `nbits` bits of `w` spell: none, since no row of the table has bits (log entry 18). -/
def decodeTableWord (_nbits _w : Nat) : Option Instr := none

/-! ## Bundles (R185, R186) -/

/-- A 256-bit bundle: the header fields and the five slots. -/
structure BundleWord where
  dwell : Nat
  waitm : Nat
  sbm   : Bool
  rwm   : Bool
  cls   : Nat
  reps  : Nat
  rgrp  : Nat
  array : Nat
  acc   : Nat
  glaze : Nat
  move  : Nat
  sync  : Nat
  deriving DecidableEq, Repr

/-- The parts of a bundle's word. -/
def splitBundle (w : Nat) : BundleWord :=
  { dwell := fld w 0 12, waitm := fld w 12 8, sbm := bitOf w 20, rwm := bitOf w 21, cls := fld w 22 2, reps := fld w 24 2
    rgrp := fld w 26 6, array := fld w 32 64, acc := fld w 96 48, glaze := fld w 144 48, move := fld w 192 40, sync := fld w 232 24 }

/-- The five slots of a bundle. -/
inductive SlotKind where
  | array
  | acc
  | glaze
  | move
  | sync
  deriving DecidableEq, Repr

/-- Width of a slot. -/
def SlotKind.width : SlotKind → Nat
  | .array => 64
  | .acc => 48
  | .glaze => 48
  | .move => 40
  | .sync => 24

/-! ## Field groups -/

def strokeOf (w : Nat) : StrokeF :=
  { emask := fld w 4 16, amask := fld w 20 16, plane := fld w 36 4, ibs := fld w 40 13, esh := fld w 53 1, ifmt := fld w 54 2
    band := fld w 56 3, gsz := fld w 59 2, ntr := fld w 61 3 }

def strokeBits (f : StrokeF) : Nat :=
  f.emask * 2 ^ 4 + f.amask * 2 ^ 20 + f.plane * 2 ^ 36 + f.ibs * 2 ^ 40 + f.esh * 2 ^ 53 + f.ifmt * 2 ^ 54 + f.band * 2 ^ 56
    + f.gsz * 2 ^ 59 + f.ntr * 2 ^ 61

def redOf (w : Nat) : RedF := { src := fld w 4 10, dst := fld w 14 10, dsr := fld w 24 1, nt := fld w 25 6, idxb := fld w 32 16 }

def redBits (f : RedF) : Nat := f.src * 2 ^ 4 + f.dst * 2 ^ 14 + f.dsr * 2 ^ 24 + f.nt * 2 ^ 25 + f.idxb * 2 ^ 32

def glzOf (w : Nat) : GlzF :=
  { eng := fld w 4 4, grp := fld w 8 2, plane := fld w 10 4, tile := fld w 14 10, tid := fld w 24 16, vp := fld w 40 1, ph := fld w 41 1
    lix := fld w 42 6 }

def glzBits (f : GlzF) : Nat :=
  f.eng * 2 ^ 4 + f.grp * 2 ^ 8 + f.plane * 2 ^ 10 + f.tile * 2 ^ 14 + f.tid * 2 ^ 24 + f.vp * 2 ^ 40 + f.ph * 2 ^ 41 + f.lix * 2 ^ 42

def elOf (w : Nat) : ElF := { src := fld w 4 11, dst := fld w 15 11, len := fld w 26 8, ty := fld w 34 1 }

def elBits (f : ElF) : Nat := f.src * 2 ^ 4 + f.dst * 2 ^ 15 + f.len * 2 ^ 26 + f.ty * 2 ^ 34

def ecvtOf (w : Nat) : EcvtF :=
  { src := fld w 4 11, dst := fld w 15 13, nblk := fld w 28 8, sfmt := fld w 36 2, tfmt := fld w 38 2, mode := fld w 40 2, lix := fld w 42 6 }

def ecvtBits (f : EcvtF) : Nat :=
  f.src * 2 ^ 4 + f.dst * 2 ^ 15 + f.nblk * 2 ^ 28 + f.sfmt * 2 ^ 36 + f.tfmt * 2 ^ 38 + f.mode * 2 ^ 40 + f.lix * 2 ^ 42

/-! ## Slots -/

/-- The instruction that a slot's opcode and fields name, before any check; none for a reserved opcode or one of another sequencer
class (R191: 0 core, 1 attention, 2 head). -/
def rawSlot (cls : Nat) (k : SlotKind) (i : Iss) (w : Nat) : Option Instr :=
  match k, w % 16 with
  | .array, 0 => some (.nopa i)
  | .array, 1 => if cls = 0 then some (.strk i (strokeOf w)) else none
  | .array, 2 => if cls = 0 then some (.stkv i (strokeOf w)) else none
  | .array, 3 => if cls = 0 then some (.psel i (fld w 4 16) (fld w 20 16) (fld w 36 4)) else none
  | .array, 8 => if cls = 1 then some (.score i (fld w 4 3) (fld w 7 7) (fld w 14 16) (fld w 30 4) (fld w 34 2) (fld w 36 4)) else none
  | .array, 9 => if cls = 1 then some (.snorm i (fld w 4 4) (fld w 8 16) (fld w 24 4)) else none
  | .array, 10 => if cls = 1 then some (.smix i (fld w 4 3) (fld w 7 7) (fld w 14 16) (fld w 30 16) (fld w 46 2) (fld w 48 4)) else none
  | .array, 11 => if cls = 1 then some (.kvput i (fld w 4 3) (fld w 7 7) (fld w 14 16)) else none
  | .array, 12 => if cls = 2 then some (.samp i (fld w 4 16) (fld w 20 3)) else none
  | .array, 13 => if cls = 2 then some (.skdr i (fld w 4 5) (fld w 9 1) (fld w 10 16) []) else none
  | .array, 14 => if cls = 2 then some (.vrfy i (fld w 4 16) (fld w 20 16) (fld w 36 1)) else none
  | .acc, 0 => some (.aclr i (fld w 4 10) (fld w 14 11))
  | .acc, 1 => some (.acn i (fld w 4 8))
  | .acc, 2 => some (.apro i (fld w 4 4) (fld w 8 3) (fld w 11 10) (fld w 21 1))
  | .acc, 3 => some (.awid i (fld w 4 10) (fld w 14 1) (fld w 15 10) (fld w 25 5) (fld w 30 1))
  | .acc, 4 => some (.rsum i (redOf w) (fld w 31 1))
  | .acc, 5 => some (.rmax i (redOf w))
  | .acc, 6 => some (.rmin i (redOf w))
  | .acc, 7 => some (.rarg i (redOf w))
  | .acc, 8 => some (.rand i (redOf w))
  | .acc, 9 => some (.ror i (redOf w))
  | .acc, 10 => some (.rxor i (redOf w))
  | .acc, 11 => some (.rcnt i (redOf w))
  | .glaze, 0 => some (.nopg i)
  | .glaze, 1 => some (.gcol i (glzOf w))
  | .glaze, 2 => some (.gout i (glzOf w))
  | .glaze, 3 => some (.gact i (glzOf w))
  | .glaze, 4 => some (.glr i (glzOf w))
  | .glaze, 5 => some (.gtnt i (glzOf w))
  | .glaze, 6 => some (.enorm i (elOf w) (fld w 35 3) (fld w 38 6))
  | .glaze, 7 => some (.eact i (elOf w) (fld w 35 2))
  | .glaze, 8 => some (.emul i (elOf w) (fld w 35 11))
  | .glaze, 9 => some (.eadd i (elOf w) (fld w 35 11))
  | .glaze, 10 => some (.erot i (elOf w) (fld w 35 10) (fld w 45 1))
  | .glaze, 11 => some (.ecvt i (ecvtOf w))
  | .move, 0 => some (.nopm i)
  | .move, 1 => some (.mvb i (fld w 4 2) (fld w 6 2) (fld w 8 14) (fld w 22 14) (fld w 36 3) (fld w 39 1))
  | .move, 2 => some (.mvf i (fld w 4 2) (fld w 6 14) (fld w 20 10) (fld w 30 4) (fld w 34 1))
  | .move, 3 => some (.mvk i (fld w 4 2) (fld w 6 14) (fld w 20 7) (fld w 27 2) (fld w 29 1))
  | .move, 4 => some (.mck i (fld w 4 2) (fld w 6 14) (fld w 20 4) (fld w 24 6))
  | .sync, 0 => some (.twait i (fld w 4 12) (fld w 16 4))
  | .sync, 1 => some (.tsend i (fld w 4 12))
  | .sync, 2 => some (.cred i (fld w 4 12) (fld w 16 1) (fld w 17 4))
  | .sync, 3 => some (.chk i (fld w 4 10) (fld w 14 1) (fld w 15 9))
  | .sync, 4 => some (.csum i (fld w 4 16) (fld w 20 3))
  | .sync, 5 => some (.flor i)
  | .sync, 6 => some (.step i)
  | .sync, 7 => some (.rplw i (fld w 4 1))
  | _, _ => none

/-- The slot and the word of a sequencer instruction: its opcode in bits [3:0], its fields, reserved bits 0. A command that is no slot
has none. -/
def encodeSlot : Instr → Option (SlotKind × Nat)
  | .nopa _ => some (.array, 0)
  | .strk _ f => some (.array, 1 + strokeBits f)
  | .stkv _ f => some (.array, 2 + strokeBits f)
  | .psel _ e a p => some (.array, 3 + e * 2 ^ 4 + a * 2 ^ 20 + p * 2 ^ 36)
  | .score _ h l q s m n =>
    some (.array, 8 + h * 2 ^ 4 + l * 2 ^ 7 + q * 2 ^ 14 + s * 2 ^ 30 + m * 2 ^ 34 + n * 2 ^ 36)
  | .snorm _ s p n => some (.array, 9 + s * 2 ^ 4 + p * 2 ^ 8 + n * 2 ^ 24)
  | .smix _ h l p o m n =>
    some (.array, 10 + h * 2 ^ 4 + l * 2 ^ 7 + p * 2 ^ 14 + o * 2 ^ 30 + m * 2 ^ 46 + n * 2 ^ 48)
  | .kvput _ h l k => some (.array, 11 + h * 2 ^ 4 + l * 2 ^ 7 + k * 2 ^ 14)
  | .samp _ a p => some (.array, 12 + a * 2 ^ 4 + p * 2 ^ 20)
  | .skdr _ n t a _ => some (.array, 13 + n * 2 ^ 4 + t * 2 ^ 9 + a * 2 ^ 10)
  | .vrfy _ a d t => some (.array, 14 + a * 2 ^ 4 + d * 2 ^ 20 + t * 2 ^ 36)
  | .aclr _ t c => some (.acc, t * 2 ^ 4 + c * 2 ^ 14)
  | .acn _ m => some (.acc, 1 + m * 2 ^ 4)
  | .apro _ e n t v => some (.acc, 2 + e * 2 ^ 4 + n * 2 ^ 8 + t * 2 ^ 11 + v * 2 ^ 21)
  | .awid _ d sp a t f => some (.acc, 3 + d * 2 ^ 4 + sp * 2 ^ 14 + a * 2 ^ 15 + t * 2 ^ 25 + f * 2 ^ 30)
  | .rsum _ f sq => some (.acc, 4 + redBits f + sq * 2 ^ 31)
  | .rmax _ f => some (.acc, 5 + redBits f)
  | .rmin _ f => some (.acc, 6 + redBits f)
  | .rarg _ f => some (.acc, 7 + redBits f)
  | .rand _ f => some (.acc, 8 + redBits f)
  | .ror _ f => some (.acc, 9 + redBits f)
  | .rxor _ f => some (.acc, 10 + redBits f)
  | .rcnt _ f => some (.acc, 11 + redBits f)
  | .nopg _ => some (.glaze, 0)
  | .gcol _ f => some (.glaze, 1 + glzBits f)
  | .gout _ f => some (.glaze, 2 + glzBits f)
  | .gact _ f => some (.glaze, 3 + glzBits f)
  | .glr _ f => some (.glaze, 4 + glzBits f)
  | .gtnt _ f => some (.glaze, 5 + glzBits f)
  | .enorm _ f sr lix => some (.glaze, 6 + elBits f + sr * 2 ^ 35 + lix * 2 ^ 38)
  | .eact _ f fn => some (.glaze, 7 + elBits f + fn * 2 ^ 35)
  | .emul _ f b => some (.glaze, 8 + elBits f + b * 2 ^ 35)
  | .eadd _ f b => some (.glaze, 9 + elBits f + b * 2 ^ 35)
  | .erot _ f fid pair => some (.glaze, 10 + elBits f + fid * 2 ^ 35 + pair * 2 ^ 45)
  | .ecvt _ f => some (.glaze, 11 + ecvtBits f)
  | .nopm _ => some (.move, 0)
  | .mvb _ s d sa da l ty => some (.move, 1 + s * 2 ^ 4 + d * 2 ^ 6 + sa * 2 ^ 8 + da * 2 ^ 22 + l * 2 ^ 36 + ty * 2 ^ 39)
  | .mvf _ s a r l ty => some (.move, 2 + s * 2 ^ 4 + a * 2 ^ 6 + r * 2 ^ 20 + l * 2 ^ 30 + ty * 2 ^ 34)
  | .mvk _ s a l k v => some (.move, 3 + s * 2 ^ 4 + a * 2 ^ 6 + l * 2 ^ 20 + k * 2 ^ 27 + v * 2 ^ 29)
  | .mck _ s a l x => some (.move, 4 + s * 2 ^ 4 + a * 2 ^ 6 + l * 2 ^ 20 + x * 2 ^ 24)
  | .twait _ c n => some (.sync, c * 2 ^ 4 + n * 2 ^ 16)
  | .tsend _ c => some (.sync, 1 + c * 2 ^ 4)
  | .cred _ c op n => some (.sync, 2 + c * 2 ^ 4 + op * 2 ^ 16 + n * 2 ^ 17)
  | .chk _ t v e => some (.sync, 3 + t * 2 ^ 4 + v * 2 ^ 14 + e * 2 ^ 15)
  | .csum _ e n => some (.sync, 4 + e * 2 ^ 4 + n * 2 ^ 20)
  | .flor _ => some (.sync, 5)
  | .step _ => some (.sync, 6)
  | .rplw _ c => some (.sync, 7 + c * 2 ^ 4)
  | _ => none

/-- The class of sequencer that an instruction is built for (R191); the instructions that every class accepts answer 0. -/
def Instr.cls : Instr → Nat
  | .score .. | .snorm .. | .smix .. | .kvput .. => 1
  | .samp .. | .skdr .. | .vrfy .. => 2
  | _ => 0

/-- What a class accepts of a slot (R191): attention and head sequencers hold their ACC and GLAZE slots empty, move in space 2 only, with MVB and
MVF, and have no CHK and no CSUM. -/
def slotInClass (cls : Nat) (k : SlotKind) (w : Nat) (c : Instr) : Bool :=
  if cls = 0 then true
  else match k, c with
    | .array, _ => true
    | .acc, _ => w == 0
    | .glaze, _ => w == 0
    | .move, .nopm _ => true
    | .move, .mvb _ s d _ _ _ _ => s == 2 && d == 2
    | .move, .mvf _ s _ _ _ _ => s == 2
    | .move, _ => false
    | .sync, .chk _ _ _ _ => false
    | .sync, .csum _ _ _ => false
    | .sync, _ => true

/-- The instruction of a slot of a sequencer of class `cls`: a reserved opcode, a value marked reserved, a reserved field that is not 0,
or an instruction of another class is refused (R191, R217). -/
def decodeSlot (cls : Nat) (k : SlotKind) (i : Iss) (w : Nat) : Option Instr :=
  match rawSlot cls k i w with
  | some c => if c.wf && slotInClass cls k w c && encodeSlot c == some (k, w) then some c else none
  | none => none

end Sys2Proof
end

