-- ==== Sys2Proof/Config.lean ====
section
/-! DEFINITION. What an implementation fixes and what the manual leaves open. Every constant here has
no body: nothing can prove a value of it, so a theorem holds whatever the value is. -/

namespace Sys2Proof.Config

/-- Free value number `n`, drawn by advancing the counter `State.free` (log entry 1). -/
opaque freeValue : Nat → BitVec 64

/-- Sign and payload of the NaN that an FP32 operation on these operands yields: IEEE 754 leaves
them open and R135 does not choose (log entry 2). -/
opaque nanBits : Word → Word → Word

/-- The error term of a sum or product whose leading result is not finite: R133 and R134 define the
error only for finite results (log entry 3). -/
opaque errBits : Word → Word → Word

/-- Which of the two FP32 neighbours of exp x the exponential unit yields: R281 and R304 bound it to one
unit in the last place (log entry 4). -/
opaque expUp : Word → Bool

/-- Which of the two FP32 neighbours of SiLU (0) or GELU-tanh (1) the glaze unit yields: R207 computes them in FP32 and states no rounding
(log entry 5). -/
opaque actUp : Nat → Word → Bool

/-- Which of the two FP32 neighbours of each rotated value the glaze unit yields: R207 states no rounding (log entry 6). -/
opaque rotUp : Word → Word → Nat → Word → Bool × Bool

/-- Row permutation of a plane under a scramble generation (R71, R72): the physical row of each logical
row; R72 does not give the derivation (log entry 7). -/
opaque scrambleRows : Nat → Nat → List Nat

/-- Column permutation of an array under a scramble generation (R71, R72) (log entry 7). -/
opaque scrambleCols : Nat → Nat → List Nat

/-- Sign flips of a plane's data columns under a scramble generation (R71, R72) (log entry 7). -/
opaque scrambleFlips : Nat → Nat → List Bool

/-- The factor pairs of a best rank-8 approximation (R82) of a matrix given row by row, in decreasing singular value (R173): of each pair the
vector over the rows and the vector over the columns, in FP32, with their product as the rank-1 term. The pairs are not unique (log entry 8). -/
opaque rank8 : List (List Int) → List (List Word × List Word)

/-- An RSA signature of the identity key over these bytes (R447 fixes the scheme, not the bits)
(log entry 9). -/
opaque sign : Nat → List Byte → List Byte

/-- SHA-512 of a byte string, as 64 bytes (log entry 10). -/
opaque sha512 : List Byte → List Byte

/-- A key the security core generates from its entropy source (R387, R460), by draw number (log
entry 1). -/
opaque keyBits : Nat → BitVec 256

/-- The audit sampling draw of a cluster (R408: a per-cluster pseudo-random draw) (log entry 11). -/
opaque auditDraw : Nat → Nat → Nat

/-- The AES-256-GCM or XTS form in which a package or page leaves a unit (R353, R295): the ciphertext of
these bytes under this key (log entry 12). -/
opaque sealed : Nat → List Byte → List Byte

/-- A package key wrapped for a peer module (R353, RSA-OAEP): the peer's certificate, then the key (log entry 12). -/
opaque wrapKey : Nat → Nat → List Byte

/-- The two session keys of a handshake (R366, HKDF with SHA-512): input key, then salt (log entry 10). -/
opaque hkdf : Nat → List Byte → BitVec 512

/-- The device certificate in DER (R461 names what it carries) (log entry 10). -/
opaque deviceCert : List Byte

/-- Bytes of the far tier that the request region takes, at most the whole of its 1 TiB (R19, R540, R566): the spec gives no size
(log entry 98). -/
opaque regionBytes : Fin (2 ^ 40 + 1)

/-- The bytes of a configuration record with this owner section (R465 lays none out) (log entry 10). -/
opaque cfgRecord : List Nat → List Byte

end Sys2Proof.Config
end

