-- ==== Sys2Proof/Machine/Float.lean ====
section
/-! DEFINITION. The number formats: FP32, BF16, FP8 E4M3 and E5M2, FP4 E2M1, and the exact arithmetic
behind them. A finite value is a dyadic number; every rounding is to nearest with ties to even unless the
definition says otherwise (R121, R123, R135). -/

namespace Sys2Proof.Machine

/-- The dyadic number m × 2^e. -/
structure Dy where
  m : Int
  e : Int
  deriving DecidableEq, Repr, Inhabited

/-- A decoded value: not a number, an infinity with its sign, or a finite value with the sign of its
zero. -/
inductive Fv where
  | nan
  | inf (neg : Bool)
  | fin (neg : Bool) (d : Dy)
  deriving DecidableEq, Repr, Inhabited

/-! ## Exact arithmetic -/

/-- 2^k as a number, for k at least 0. -/
def p2 (k : Int) : Int := ((2 ^ k.toNat : Nat) : Int)

def dyZero : Dy := ⟨0, 0⟩
def dyOfInt (i : Int) : Dy := ⟨i, 0⟩
def dyNeg (a : Dy) : Dy := ⟨-a.m, a.e⟩
def dyMul (a b : Dy) : Dy := ⟨a.m * b.m, a.e + b.e⟩

/-- Exact sum, aligned to the smaller exponent. -/
def dyAdd (a b : Dy) : Dy :=
  if a.m = 0 then b else if b.m = 0 then a else
  let e := min a.e b.e
  ⟨a.m * p2 (a.e - e) + b.m * p2 (b.e - e), e⟩

def dySub (a b : Dy) : Dy := dyAdd a (dyNeg b)
def dyScale (a : Dy) (k : Int) : Dy := ⟨a.m, a.e + k⟩
def dySign (a : Dy) : Int := a.m.sign
def dyLt (a b : Dy) : Bool := decide ((dySub a b).m < 0)
def dyLe (a b : Dy) : Bool := decide ((dySub a b).m ≤ 0)
def dyAbs (a : Dy) : Dy := ⟨a.m.natAbs, a.e⟩
def dySum (l : List Dy) : Dy := l.foldl dyAdd dyZero
def dyMax (a b : Dy) : Dy := if dyLt a b then b else a

/-! ## Rounding a positive quotient to a format -/

/-- How a rounding treats a discarded remainder. -/
inductive Rnd where
  | near
  | down
  | up
  deriving DecidableEq, Repr, Inhabited

/-- Quotient rounded to an integer. -/
def divRnd (r : Rnd) (n d : Nat) : Nat :=
  let q := n / d
  let m := n % d
  match r with
  | .down => q
  | .up => if m = 0 then q else q + 1
  | .near => if 2 * m < d then q else if d < 2 * m then q + 1 else q + q % 2

/-- The exponent of the leading bit of n / d, for positive n and d. -/
def lead (n d : Nat) : Int :=
  let k : Int := (Nat.log2 n : Int) - (Nat.log2 d : Int)
  let lt : Bool := if 0 ≤ k then decide (n < d * 2 ^ k.toNat) else decide (n * 2 ^ (-k).toNat < d)
  if lt then k - 1 else k

/-- Significand and exponent of n / d × 2^e rounded to `p` bits, no finer than 2^emin. -/
def roundPos (r : Rnd) (p : Nat) (emin : Int) (n d : Nat) (e : Int) : Nat × Int :=
  let q := max (lead n d + e - ((p : Int) - 1)) emin
  let s := e - q
  let mant := if 0 ≤ s then divRnd r (n * 2 ^ s.toNat) d else divRnd r n (d * 2 ^ (-s).toNat)
  (mant, q)

/-- A binary format: significand bits with the hidden one, exponent of its smallest step, stored fraction
bits, the code above its largest finite magnitude. -/
structure Fmt where
  p    : Nat
  emin : Int
  mb   : Nat
  top  : Nat
  deriving DecidableEq, Repr

def fp32F : Fmt := ⟨24, -149, 23, 0x7F800000⟩
def bf16F : Fmt := ⟨8, -133, 7, 0x7F80⟩
def e4m3F : Fmt := ⟨4, -9, 3, 0x7F⟩
def e2m1F : Fmt := ⟨2, -1, 1, 0x8⟩

/-- Code of the magnitude n / d × 2^e in a format, before any limit. -/
def magCode (f : Fmt) (r : Rnd) (n d : Nat) (e : Int) : Nat :=
  if n = 0 then 0 else
  let (m, q) := roundPos r f.p f.emin n d e
  if m < 2 ^ f.mb then m
  else (q - f.emin + 1).toNat * 2 ^ f.mb + (m - 2 ^ f.mb)

/-- FP32 of an exact quotient d / den, rounded once; an exact zero gives the sign asked for (R135). -/
def toF32q (r : Rnd) (negZero : Bool) (d : Dy) (den : Nat) : Word :=
  if d.m = 0 then (if negZero then 0x80000000 else 0) else
  let c := min (magCode fp32F r d.m.natAbs den d.e) 0x7F800000
  BitVec.ofNat 32 (c + (if d.m < 0 then 0x80000000 else 0))

/-- FP32 of an exact value, rounded once, zero as +0 (R135). -/
def toF32 (d : Dy) : Word := toF32q .near false d 1

/-- BF16 of an exact value, rounded once. -/
def toBf16r (r : Rnd) (d : Dy) : Half :=
  if d.m = 0 then 0 else
  let c := min (magCode bf16F r d.m.natAbs 1 d.e) 0x7F80
  BitVec.ofNat 16 (c + (if d.m < 0 then 0x8000 else 0))

def toBf16 (d : Dy) : Half := toBf16r .near d

/-! ## Decoding -/

/-- Decodes an IEEE-like code of `eb` exponent and `mb` fraction bits with infinities and NaNs. -/
def decIeee (eb mb : Nat) (bias : Int) (w : Nat) : Fv :=
  let neg := fld w (eb + mb) 1 == 1
  let ex := fld w mb eb
  let fr := fld w 0 mb
  if ex = 2 ^ eb - 1 then (if fr = 0 then .inf neg else .nan) else
  let m : Int := if ex = 0 then (fr : Int) else ((fr + 2 ^ mb : Nat) : Int)
  let e : Int := (if ex = 0 then 1 else (ex : Int)) - bias - mb
  .fin neg ⟨if neg then -m else m, e⟩

def decF32 (w : Word) : Fv := decIeee 8 23 127 w.toNat
def decBf16 (h : Half) : Fv := decIeee 8 7 127 h.toNat
def decE5m2 (b : Byte) : Fv := decIeee 5 2 15 b.toNat

/-- FP8 E4M3: no infinity; S.1111.111 is NaN (R121). -/
def decE4m3 (b : Byte) : Fv :=
  let w := b.toNat
  let neg := w / 128 == 1
  let ex := fld w 3 4
  let fr := fld w 0 3
  if fld w 0 7 = 127 then .nan else
  let m : Int := if ex = 0 then (fr : Int) else ((fr + 8 : Nat) : Int)
  let e : Int := (if ex = 0 then 1 else (ex : Int)) - 7 - 3
  .fin neg ⟨if neg then -m else m, e⟩

/-- FP4 E2M1: every code is finite (R121, R267). -/
def decE2m1 (w : Nat) : Dy :=
  let ex := fld w 1 2
  let fr := fld w 0 1
  let m : Int := if ex = 0 then (fr : Int) else ((fr + 2 : Nat) : Int)
  let e : Int := (if ex = 0 then 1 else (ex : Int)) - 1 - 1
  ⟨if fld w 3 1 = 1 then -m else m, e⟩

/-- The exact value of a finite code, 0 for a value that is not finite. -/
def fvDy : Fv → Dy
  | .fin _ d => d
  | _ => dyZero

def isFin : Fv → Bool
  | .fin _ _ => true
  | _ => false

def bfDy (h : Half) : Dy := fvDy (decBf16 h)
def f32Dy (w : Word) : Dy := fvDy (decF32 w)
def e4Dy (b : Byte) : Dy := fvDy (decE4m3 b)
def fin32 (w : Word) : Bool := isFin (decF32 w)
def nan32 (w : Word) : Bool := decF32 w == .nan
def bfToF32 (h : Half) : Word := BitVec.ofNat 32 (h.toNat * 65536)

/-- The NaN an operation on two operands yields: quiet, with sign and payload left free (log entry 2). -/
def mkNan (a b : Word) : Word := 0x7FC00000 ||| (Config.nanBits a b &&& 0x803FFFFF)

/-! ## FP32 operations (R135) -/

def fneg (a : Word) : Word := a ^^^ 0x80000000
def fabs (a : Word) : Word := a &&& 0x7FFFFFFF

/-- FP32 sum, round to nearest even. -/
def fadd (a b : Word) : Word :=
  match decF32 a, decF32 b with
  | .nan, _ => mkNan a b
  | _, .nan => mkNan a b
  | .inf x, .inf y => if x = y then a else mkNan a b
  | .inf _, _ => a
  | _, .inf _ => b
  | .fin x d, .fin y e => toF32q .near (x && y) (dyAdd d e) 1

def fsub (a b : Word) : Word := fadd a (fneg b)

/-- FP32 product. -/
def fmul (a b : Word) : Word :=
  match decF32 a, decF32 b with
  | .nan, _ => mkNan a b
  | _, .nan => mkNan a b
  | .inf x, .inf y => if x = y then 0x7F800000 else 0xFF800000
  | .inf x, .fin y d => if d.m = 0 then mkNan a b else if x = y then 0x7F800000 else 0xFF800000
  | .fin x d, .inf y => if d.m = 0 then mkNan a b else if x = y then 0x7F800000 else 0xFF800000
  | .fin x d, .fin y e => toF32q .near (x != y) (dyMul d e) 1

/-- FP32 quotient. -/
def fdiv (a b : Word) : Word :=
  match decF32 a, decF32 b with
  | .nan, _ => mkNan a b
  | _, .nan => mkNan a b
  | .inf _, .inf _ => mkNan a b
  | .inf x, .fin y _ => if x = y then 0x7F800000 else 0xFF800000
  | .fin x _, .inf y => if x = y then 0 else 0x80000000
  | .fin x d, .fin y e =>
    if e.m = 0 then (if d.m = 0 then mkNan a b else if x = y then 0x7F800000 else 0xFF800000)
    else toF32q .near (x != y) ⟨if x = y then (d.m.natAbs : Int) else -(d.m.natAbs : Int), d.e - e.e⟩ e.m.natAbs

/-- FP32 square root: the radicand is scaled so that the integer root carries more bits than the
significand, with a sticky bit for an inexact root. -/
def fsqrt (a : Word) : Word :=
  match decF32 a with
  | .nan => mkNan a a
  | .inf x => if x then mkNan a a else a
  | .fin _ d =>
    if d.m = 0 then a else if d.m < 0 then mkNan a a else
    let sh : Int := if d.e % 2 = 0 then 64 else 65
    let n := d.m.natAbs * 2 ^ sh.toNat
    let r := Nat.sqrt n
    let r2 := if r * r = n then 2 * r else 2 * r + 1
    toF32q .near false ⟨(r2 : Int), (d.e - sh) / 2 - 1⟩ 1

/-- FP32 order key: -0 below +0, numbers by value (R140). -/
def fKey (w : Word) : Int :=
  if w.toNat < 0x80000000 then (w.toNat : Int) else -((w.toNat - 0x80000000 : Nat) : Int) - 1

/-- Strict FP32 comparison of two values that are no NaN; zeros are equal. -/
def fLt (a b : Word) : Bool :=
  if nan32 a || nan32 b then false
  else if fabs a == 0 && fabs b == 0 then false else decide (fKey a < fKey b)

def fLe (a b : Word) : Bool :=
  if nan32 a || nan32 b then false else !fLt b a

def canonNan : Word := 0x7FC00000
def negInf : Word := 0xFF800000
def posInf : Word := 0x7F800000

/-! ## Pairs (R133, R134) -/

/-- The leading sum and its exact error. -/
def twoSum (s a : Word) : Word × Word :=
  let t := fadd s a
  (t, if fin32 s && fin32 a && fin32 t then toF32 (dySub (dyAdd (f32Dy s) (f32Dy a)) (f32Dy t))
      else Config.errBits s a)

/-- The leading product and its exact error. -/
def twoProd (w s : Word) : Pair :=
  let p := fmul w s
  ⟨p, if fin32 w && fin32 s && fin32 p then toF32 (dySub (dyMul (f32Dy w) (f32Dy s)) (f32Dy p))
      else Config.errBits w s⟩

/-- AWID of a pair into an entry (R134). -/
def awidP (acc x : Pair) : Pair :=
  let (t, d) := twoSum acc.s x.s
  ⟨t, fadd acc.c (fadd d x.c)⟩

/-- The single rounding of s + c to FP32 (R135). -/
def readF32 (p : Pair) : Word :=
  if fin32 p.s && fin32 p.c then toF32 (dyAdd (f32Dy p.s) (f32Dy p.c)) else fadd p.s p.c

/-- BF16 of an FP32 value, one rounding. -/
def f32ToBf16 (w : Word) : Half :=
  match decF32 w with
  | .nan => BitVec.ofNat 16 (0x7FC0 ||| (w.toNat / 65536 % 65536))
  | .inf x => if x then 0xFF80 else 0x7F80
  | .fin neg d => if d.m = 0 then (if neg then 0x8000 else 0) else toBf16 d

/-- The single rounding of s + c to BF16 (R135). -/
def readBf16 (p : Pair) : Half :=
  if fin32 p.s && fin32 p.c then toBf16 (dyAdd (f32Dy p.s) (f32Dy p.c)) else f32ToBf16 (fadd p.s p.c)

/-- An exact product of two finite values as a pair: value and error. -/
def pairOfDy (d : Dy) : Pair :=
  let t := toF32 d
  ⟨t, if fin32 t then toF32 (dySub d (f32Dy t)) else 0⟩

/-- A compensated sum of pairs, in list order. -/
def sumPairs (l : List Pair) : Pair := l.foldl awidP Pair.zero

/-! ## The exponential (R281, R304) -/

/-- A dyadic number cut to its leading 200 bits. -/
def dyTrim (a : Dy) : Dy :=
  let b := Nat.log2 a.m.natAbs
  if b ≤ 200 then a else ⟨a.m / p2 (b - 200), a.e + (b - 200)⟩

/-- Partial sums of the exponential series of x, from term k downwards by Horner's rule. -/
def expSeries (x : Dy) : Nat → Dy → Dy
  | 0, acc => acc
  | k + 1, acc =>
    let t := dyMul acc x
    expSeries x k (dyTrim (dyAdd (dyOfInt 1) ⟨t.m * p2 220 / ((k + 1 : Nat) : Int), t.e - 220⟩))

/-- Repeated squaring. -/
def dySquares (a : Dy) : Nat → Dy
  | 0 => a
  | n + 1 => dySquares (dyTrim (dyMul a a)) n

/-- exp x to about 190 bits for |x| below 256. -/
def expDy (x : Dy) : Dy := dySquares (expSeries (dyScale x (-9)) 40 (dyOfInt 1)) 9

/-- exp x in FP32 within one unit in the last place (R281, R304): exp 0 is 1, and elsewhere the exact value
lies between two neighbours of which `Config.expUp` names the one taken (log entry 4). -/
def fexp (x : Word) : Word :=
  match decF32 x with
  | .nan => mkNan x x
  | .inf neg => if neg then 0 else posInf
  | .fin _ d =>
    if d.m = 0 then 0x3F800000
    else if dyLt (dyOfInt 100) d then (if Config.expUp x then posInf else 0x7F7FFFFF)
    else if dyLt d (dyOfInt (-110)) then (if Config.expUp x then 1 else 0)
    else toF32q (if Config.expUp x then .up else .down) false (expDy d) 1

/-! ## The element functions (R205, R207) -/

/-- FP32 of an exact quotient within one unit in the last place: one of the two neighbours (log entries 5, 6). -/
def faithful (up : Bool) (d : Dy) (den : Nat) : Word := toF32q (if up then .up else .down) false d den

/-- x / (1 + exp (-u)), where u is cut to ±200, beyond which the neighbours no longer change. -/
def sigMul (up : Bool) (x u : Dy) : Word :=
  let v := if dyLt (dyOfInt 200) u then dyOfInt 200 else if dyLt u (dyOfInt (-200)) then dyOfInt (-200) else u
  let d := dyAdd (dyOfInt 1) (expDy (dyNeg v))
  faithful up ⟨x.m, x.e - d.e⟩ d.m.natAbs

/-- The SiLU of an FP32 value: x / (1 + exp (-x)). Zeros stand; an infinity follows the IEEE 754 operations of the formula. -/
def siluW (x : Word) : Word :=
  match decF32 x with
  | .nan => mkNan x x
  | .inf neg => if neg then mkNan x x else posInf
  | .fin _ d => if d.m = 0 then x else sigMul (Config.actUp 0 x) d d

/-- 2 sqrt (2 / pi), to 200 bits. -/
def geluC : Dy := ⟨2564302111361999733652018494719322688786496876685806081368833, -200⟩

/-- The tanh form of the GELU, 0.5 x (1 + tanh (sqrt (2 / pi) (x + 0.044715 x³))), as x / (1 + exp (-2 sqrt (2 / pi) (x + 0.044715 x³))). -/
def geluW (x : Word) : Word :=
  match decF32 x with
  | .nan => mkNan x x
  | .inf neg => if neg then mkNan x x else posInf
  | .fin _ d =>
    let c := dyMul d (dyMul d d)
    let t := dyAdd d ⟨c.m * 44715 * p2 220 / 1000000, c.e - 220⟩
    if d.m = 0 then x else sigMul (Config.actUp 1 x) d (dyTrim (dyMul geluC t))

/-- 2 pi, to 320 bits. -/
def twoPi : Dy :=
  ⟨13420802360424337830311681948440006481608388178854297901454212848703426437343610760199000777828079, -320⟩

/-- An angle taken to within pi of 0. -/
def angleCut (a : Dy) : Dy :=
  let k : Int := if 0 ≤ a.e + 320 then (a.m * p2 (a.e + 320)) / twoPi.m else a.m / (twoPi.m * p2 (-(a.e + 320)))
  dySub a (dyMul (dyOfInt k) twoPi)

/-- Horner's rule for the even (`odd` 0) or odd (1) part of the sine and cosine series of x, with y = x², from term k downwards. -/
def trigSeries (y : Dy) (odd : Nat) : Nat → Dy → Dy
  | 0, acc => acc
  | k + 1, acc =>
    let t := dyMul acc y
    let den : Nat := (2 * (k + 1) + odd) * (2 * (k + 1) + odd - 1)
    trigSeries y odd k (dyTrim (dySub (dyOfInt 1) ⟨t.m * p2 220 / (den : Int), t.e - 220⟩))

/-- Doubling of an angle given by its cosine and sine. -/
def doubleAngle : Nat → Dy × Dy → Dy × Dy
  | 0, p => p
  | n + 1, p => doubleAngle n (dyTrim (dySub (dyMul p.1 p.1) (dyMul p.2 p.2)), dyTrim (dyScale (dyMul p.1 p.2) 1))

/-- Cosine and sine of an angle in radians, to about 180 bits. -/
def cosSin (a : Dy) : Dy × Dy :=
  let x := dyTrim (dyScale (angleCut a) (-8))
  let y := dyTrim (dyMul x x)
  doubleAngle 8 (trigSeries y 0 16 (dyOfInt 1), dyTrim (dyMul x (trigSeries y 1 16 (dyOfInt 1))))

/-- The rotation of a pair of FP32 values by position times frequency, in radians, counter-clockwise (R207; log entry 6): the exact values within
one unit in the last place; operands that are not finite follow the IEEE 754 operations. -/
def rotateW (x y : Word) (pos : Nat) (f : Word) : Word × Word :=
  match decF32 x, decF32 y, decF32 f with
  | .fin _ a, .fin _ b, .fin _ w =>
    let (c, s) := cosSin (dyMul (dyOfInt pos) w)
    let up := Config.rotUp x y pos f
    (faithful up.1 (dySub (dyMul a c) (dyMul b s)) 1, faithful up.2 (dyAdd (dyMul a s) (dyMul b c)) 1)
  | _, _, _ =>
    let t := fmul (toF32 (dyOfInt pos)) f
    let (c, s) := match decF32 t with | .fin _ d => cosSin d | _ => (dyZero, dyZero)
    let (cw, sw) := if fin32 t then (toF32 c, toF32 s) else (mkNan t t, mkNan t t)
    (fsub (fmul x cw) (fmul y sw), fadd (fmul x sw) (fmul y cw))

/-! ## Fixed-point roundings -/

/-- Nearest integer to n / d with ties away from zero (R81, R430). -/
def rndAway (n : Int) (d : Nat) : Int :=
  let q : Int := ((2 * n.natAbs + d) / (2 * d) : Nat)
  if n < 0 then -q else q

/-- Nearest integer to n / d with ties to even (R123). -/
def rndEven (n : Int) (d : Nat) : Int :=
  let q : Int := (divRnd .near n.natAbs d : Nat)
  if n < 0 then -q else q

/-- Nearest integer to a dyadic number, ties to even. -/
def dyRne (a : Dy) : Int :=
  if 0 ≤ a.e then a.m * p2 a.e else rndEven a.m (2 ^ (-a.e).toNat)

/-- Nearest integer to a dyadic number, ties away from zero. -/
def dyAway (a : Dy) : Int :=
  if 0 ≤ a.e then a.m * p2 a.e else rndAway a.m (2 ^ (-a.e).toNat)

/-! ## FP8 and FP4 targets (R164, R269) -/

/-- E4M3 of an exact quotient d / den to nearest even, with the saturation of R269: the code and whether it
saturated. -/
def toE4m3 (d : Dy) (den : Nat) : Byte × Bool :=
  if d.m = 0 then (0, false) else
  let c := magCode e4m3F .near d.m.natAbs den d.e
  let sgn := if d.m < 0 then 128 else 0
  if c ≤ 0x7E then (BitVec.ofNat 8 (c + sgn), false) else (BitVec.ofNat 8 (0x7E + sgn), true)

/-- E2M1 to nearest even with magnitudes above 6 cut to 6. -/
def toE2m1 (d : Dy) : Nat :=
  if d.m = 0 then 0 else min (magCode e2m1F .near d.m.natAbs 1 d.e) 7 + (if d.m < 0 then 8 else 0)

/-- Floor of the binary logarithm of a positive dyadic number. -/
def dyLog2 (d : Dy) : Int := (Nat.log2 d.m.natAbs : Int) + d.e

end Sys2Proof.Machine
end

