-- ==== Sys2Proof/Machine/State.lean ====
section
/-! DEFINITION. The state of the module as plain data, and the state after reset. It is grouped by the
part of the module that holds it; each group's docstring names the rules that give it. Tables are sparse:
an unlisted key holds the default named at the field. Unit addresses are packed as R9 packs them, with the
fields below the named level 0. -/

namespace Sys2Proof.Machine

/-! ## Stops -/

/-- Why a command stops the machine. -/
inductive Fault where
  /-- The command names a unit, an index or an operand that the module does not have (R9, R16, R194, R217):
  raised by every meaning that takes such an operand. Safe: nothing is concluded about such a command. -/
  | noSuchUnit
  deriving DecidableEq, Repr

/-- Why a command has no meaning. -/
inductive Refusal where
  /-- The command has no meaning yet: raised by a refused arm of `exec` only. Safe. -/
  | notModelled (mnemonic : String)
  deriving DecidableEq, Repr

/-! ## Time (R29, R500) -/

/-- The hub clock in microseconds, the operating hours in 0.1 s with the microseconds inside them, and the
power-cycle count (R420, R500). -/
structure ClkSt where
  us     : Nat
  hours  : Nat
  micro  : Nat
  cycles : Nat
  deriving DecidableEq, Repr, Inhabited

/-! ## The arrays (R36 to R75, R77 to R109, R156, R159) -/

/-- One band of a stroke on one array: its first physical row, its rows, its gain, σ and α (R52). -/
structure Band where
  row   : Nat
  rows  : Nat
  half  : Bool
  sigma : Int
  alpha : Int
  deriving DecidableEq, Repr, Inhabited

/-- One array of a stroke, as the sparsity detector left it (R52 to R58). -/
structure ArrStroke where
  arr   : Nat
  slot  : Nat
  idle  : Bool
  ovf   : Bool
  eps   : Int
  x     : List Int
  bands : List Band
  deriving DecidableEq, Repr, Inhabited

/-- A stroke in an engine's queue: who issued it, on which plane, with which groups of which arrays, into which narrow
tile register, which registers of its engine ACN names (R202), for which lane and position (`desc`: it belongs to that lane, R219); the replay
window that covers it and its number among the strokes of its sequencer's segment (R246, R250); whether it replays, and then the faults
(kind, unit, level, detail) whose class its outcome decides (R405). -/
structure Stroke where
  sid    : Nat
  seg    : Nat
  flagIx : Nat
  plane  : Nat
  gsz    : Nat
  amask  : Nat
  ntr    : Nat
  acn    : Nat
  low    : Bool
  lane   : Nat
  desc   : Bool
  posIx  : Nat
  ibs    : Nat
  f      : StrokeF
  win    : Nat
  ord    : Nat
  replay : Bool
  pend   : List (Nat × Nat × Nat × Nat)
  arrays : List ArrStroke
  deriving DecidableEq, Repr, Inhabited

/-- What one array brings to a run (R128, R157): its column values in full-gain LSB, exponent, bound, band count and
input sum. -/
structure Contrib where
  array : Nat
  c     : List Int
  eps   : Int
  beta  : Nat
  f     : Nat
  sig   : Int
  deriving DecidableEq, Repr, Inhabited

/-- A run of the narrow adder (R130). -/
structure Run where
  n  : List Int
  e  : Int
  b  : Nat
  ks : List Contrib
  deriving DecidableEq, Repr, Inhabited

/-- A narrow tile register (R196): closed runs in closing order, the open run, whether the tile has
closed, how many tiles its stroke made, its engine tile, lane and position, the columns of each array that are finished by D16. -/
structure Tile where
  closed : List Run
  opened : Option Run
  ready  : Bool
  tiles  : Nat
  plane  : Nat
  grp    : Nat
  lane   : Nat
  posIx  : Nat
  d16    : List (Nat × List Nat)
  deriving DecidableEq, Repr, Inhabited

/-- The flags of one ended stroke on their way to the cluster (R51, R398): per band the two comparisons,
saturated columns per array, overflowed arrays, CSUM differences. -/
structure StrokeFlags where
  sid    : Nat
  seg    : Nat
  flagIx : Nat
  stroke : Stroke
  bands  : List (Nat × Bool × Bool)
  sat    : List (Nat × List Nat)
  ovf    : List Nat
  csum   : Nat
  deriving DecidableEq, Repr, Inhabited

/-- The plane being written (R77, R78): its row, the iterations done, the columns that have passed, the level-0 conductance, each
column's last reading in 0.01 µS, the columns with a failed cell, and the columns the pass writes (all when none is named, R85). -/
structure RowProg where
  row   : Nat
  iters : Nat
  done  : Bool
  g0    : Nat
  passed : List Nat
  reads : Tab (Nat × Nat)
  failed : List Nat
  only   : List Nat
  deriving DecidableEq, Repr, Inhabited

/-- An entry of a core's digital column list (R159, R161, R146), with the column's 64 master weights once they are fetched. -/
structure DigCol where
  array  : Nat
  plane  : Nat
  col    : Nat
  w      : List Int
  active : Bool
  persist : Bool
  clean  : Nat
  remap  : Bool
  deriving DecidableEq, Repr, Inhabited

/-- The resistive arrays and what each engine keeps about them. `stroked`, `listedSat` and `d16Cols` are what the step in flight has
stroked (planes), saturated in listed columns, and finished in D16 after FOUR (columns, with the segment); COMMIT counts them
(R146). -/
structure ArrSt where
  cells   : Tab Int
  coeff   : Tab Nat
  fmt     : Tab Nat
  scale   : Tab Half
  remap   : Tab (List Nat)
  remapWant : List (Nat × Nat)
  scrGen  : Nat
  sel     : Tab Nat
  pend    : Tab Nat
  swcal   : Tab (Int × Int)
  conv    : Tab (Int × Int)
  drift   : Tab (Int × Int)
  lone    : Tab (List Nat)
  strokes : Tab (List Stroke)
  waiting : Tab (List StrokeFlags)
  treeErr : Tab Nat
  tileFl  : Tab (Option StrokeFlags)
  rows    : Tab RowProg
  written : Tab Bool
  incomplete : List Nat
  satHist : Tab (List Bool)
  digcol  : Tab (List DigCol)
  exhausted : List Nat
  stroked : List Nat
  listedSat : List Nat
  d16Cols : List (Nat × Nat)
  deriving DecidableEq, Repr, Inhabited

/-! ## The cores' data path (R110 to R149, R187 to R209) -/

/-- What drove an engine tile's rows (R152): per array its IB slot, exponent and elements in logical order, one entry per
stroke; the columns D16 replaced, or the whole tile; and the tile of AB (plus 1) that an APRO of the step promoted it into. -/
structure TileIn where
  gsz    : Nat
  inputs : List (Nat × Nat × Int × List Int)
  d16    : List (Nat × List Nat)
  whole  : Bool
  ab     : Nat
  deriving DecidableEq, Repr, Inhabited

/-- The tables GCOL binds to the APRO of its bundle (R206). -/
structure GBind where
  eng   : Nat
  grp   : Nat
  plane : Nat
  tid   : Nat
  deriving DecidableEq, Repr, Inhabited

/-- A sample for the drift statistics (R433, R434): tile key, column values and input sum, all scaled,
the columns that are not sampled, and the raw magnitude of the input sum. -/
structure Sample where
  seg   : Nat
  tile  : Nat
  u     : List Dy
  skip  : List Nat
  sig   : Dy
  mag   : Nat
  deriving DecidableEq, Repr, Inhabited

/-- The cores' memories and registers. `prov` says, for an IB slot that ECVT wrote, where the checkpoint of the block's
values stands (its byte address + 1), the channel set of the layer input, the index of its first element there and the block's number in its
conversion; `bind` holds the bindings that GCOL made and no APRO has taken; `ckForm` says which checkpoints (by byte address) are in FP32; `rxKill` the receive slots
that hold a killed transfer (R219). Core-local memories are keyed by core number times the size of the
space; cluster memories by cluster number. -/
structure CoreSt where
  ib    : Mem
  ob    : Mem
  ab    : Mem
  rx    : Mem
  sram  : Mem
  prov  : Tab (Nat × Nat × Nat × Nat)
  ntr   : Tab Tile
  tin   : Tab TileIn
  sr    : Tab Pair
  acn   : Tab Nat
  bind  : Tab (List GBind)
  ckForm : Tab Bool
  glrT  : Tab (List Pair)
  tintH : Tab (List Nat × List Pair)
  rxKill : List Nat
  samples : List Sample
  deriving DecidableEq, Repr, Inhabited

/-! ## The glaze tables (R150 to R184) -/

/-- A stored GLR table (R173). -/
structure GlrTab where
  k  : Nat
  u  : List (List Int)
  v  : List (List Int)
  su : List Half
  sv : List Half
  deriving DecidableEq, Repr, Inhabited

/-- One channel of a layer input's channel set (R166); `rows` is the copy of its row of every plane that the input feeds: plane, weights. -/
structure Chan where
  index   : Nat
  runtime : Bool
  active  : Bool
  rows    : List (Nat × List Int)
  deriving DecidableEq, Repr, Inhabited

/-- Running column statistics of one tile half (R433): count, Σσ̃, Σ|sig|, Σũ and Σũ² per column. -/
structure Stats where
  n    : Nat
  ssig : Word
  sabs : Word
  su   : List Word
  su2  : List Word
  deriving DecidableEq, Repr, Inhabited

/-- A ramp of one table entry (R440): which table, its key, the old and new values, the increment. -/
structure Ramp where
  drift : Bool
  key   : Nat
  old   : Int × Int
  new   : Int × Int
  k     : Nat
  deriving DecidableEq, Repr, Inhabited

/-- Glaze tables, envelopes, statistics, range monitor. `dir` is the glaze-table directory of each cluster
by canvas (R205); `residLost` the planes whose residual table is lost (R107, R298); `fetched` the tables that the step's fetches have brought (R178). `saved` holds the drift entries of the canvas record, `savedT` the tiles they are of (R437). `kvSat` and `bound` hold the counts of the last 65,536 committed steps of a
canvas by layer, as (step, count) (R269, R285). -/
structure GlzSt where
  outl    : Tab (List OutEntry × List OutEntry)
  glr     : Tab GlrTab
  chans   : Tab (List Chan)
  freq    : Tab (List Word)
  env     : Tab Envelope
  expect  : Tab (Half × Half)
  resid   : Tab Int
  residLost : List Nat
  dir     : Tab Nat
  fetched : List Nat
  varEst  : Tab Word
  varNew  : Tab (Option (Word × Nat))
  varReset : List (Nat × Word)
  rep     : List (Nat × Nat)
  chanWant : List (Nat × Nat)
  repHist : Tab (List Nat)
  stats   : Tab Stats
  ramps   : List Ramp
  saved   : Tab (Int × Int)
  savedT  : List Nat
  kvSat   : Tab (List (Nat × Nat))
  kvNew   : Tab Nat
  bound   : Tab (List (Nat × Nat))
  boundNew : Tab Nat
  deriving DecidableEq, Repr, Inhabited

/-! ## Sequencers (R187 to R192, R220 to R246) -/

/-- What a sequencer waits for before its bundle: tokens on a channel, credits on a credit channel, an
arrival credit of a receive slot. -/
inductive Wait where
  | none
  | tokens (ch n : Nat)
  | credits (ch n : Nat)
  | arrival (slot : Nat)
  | held
  deriving DecidableEq, Repr, Inhabited

/-- A replay entry (R248, R249): the failed stroke's bundle fields, its group and register, the window and the place among its segment's
strokes of the stroke it replaces. `kind`: 0 the group stroked again, with the arrays of `four` in FOUR; 1 and 2 the high and low digits of
the arrays of `a8` (R146); 4 the arrays of `four` finished by D16 in place (R252). `glr` says that the original bundle held GLR PH 0 (R248);
`issued` that a slot has taken the entry in this attempt. `kept` is the replay store (R251): the tile of the entry's replay stroke with the columns
D16 finishes, which a later attempt reloads without a stroke. `pend` are the faults that the outcome classes. -/
structure Replay where
  engine : Nat
  f      : StrokeF
  seg    : Nat
  lane   : Nat
  desc   : Bool
  posIx  : Nat
  ibs    : Nat
  acn    : Nat
  grp    : Nat
  ntr    : Nat
  win    : Nat
  ord    : Nat
  kind   : Nat
  four   : List Nat
  a8     : List Nat
  glr    : Bool
  issued : Bool
  kept   : Option (Tile × TileIn)
  pend   : List (Nat × Nat × Nat × Nat)
  deriving DecidableEq, Repr, Inhabited

/-- One sequencer. `phase`: 0 waits for a step boundary, 1 issues, 2 stopped by a rewind, an abandon or a
fault, 3 past its STEP. `held` are the instructions whose bundles have not issued (R187), `ops` those of the ACC and GLAZE queues and the checks that have
issued and not begun, with their flag segment (R189); `winSeg` and `winNo` say how many replay windows the segment has opened so far, `ord` how
many strokes it has issued (R246, R250); `glrAt` the strokes whose bundles held GLR PH 0. `access` is the lane, layer and page of an attention sequencer's last page access, which a memory error of
R276 concerns; `resumeSeg` the segment a rewind resumes at. -/
structure Seq where
  phase   : Nat
  wait    : Wait
  step    : Nat
  att     : Nat
  canvas  : Nat
  tmpl    : Nat
  var     : Nat
  lanes   : List Nat
  stopSeg : Option Nat
  fwded   : Bool
  segs    : List (Nat × Nat × Nat)
  flagIx  : Nat
  curSeg  : Option Nat
  chkFlags : Nat
  envTile : List (Nat × Nat)
  held    : List Instr
  ops     : List (Nat × Instr)
  window  : Bool
  winSeg  : Nat
  winNo   : Nat
  ord     : Nat
  glrAt   : List Nat
  replays : List Replay
  failed  : List (Nat × StrokeFlags)
  tok     : Tab Nat
  cred    : Tab Nat
  sendSeq : Nat
  seen    : Tab Nat
  killed  : List Nat
  access  : Option (Nat × Nat × Nat)
  resumeSeg : Nat
  deriving DecidableEq, Repr, Inhabited

/-- A fabric transfer in flight (R24, R25): source and destination, where it lands, its arrival credit,
its step tag and tentative mark, its kill mark, the layer of keys and values (R209) and its bytes. -/
structure Xfer where
  src   : Nat
  dst   : Nat
  space : Nat
  addr  : Nat
  cred  : Nat
  step  : Nat
  att   : Nat
  tent  : Bool
  kill  : Bool
  layer : Nat
  bytes : List Byte
  prov  : List (Nat × Nat × Nat × Nat)
  deriving DecidableEq, Repr, Inhabited

/-- Sequencers, tokens sent and not yet received, transfers in flight, sequencer tables, and the descriptor areas of the clusters: the 16 words of
each lane descriptor (R228, R230), by cluster address plus lane. -/
structure SeqSt where
  seqs   : Tab Seq
  sent   : List (Nat × Token)
  fabric : List Xfer
  tables : Tab (List Template)
  planeBad : List (Nat × Nat)
  descs  : Tab (List Nat)
  deriving DecidableEq, Repr, Inhabited

/-! ## Steps and the scheduler core (R225 to R262, R322 to R356) -/

/-- A lane descriptor (R228) with the lane's input tokens. -/
structure Lane where
  lane   : Nat
  index  : Nat
  handle : Nat
  ptn    : Nat
  canvas : Nat
  floor  : Nat
  w      : Nat
  mask   : Nat
  pos    : Nat
  ctx    : Nat
  ptroot : Nat
  mroot  : Nat
  tint   : Nat
  tbound : Bool
  tver   : Nat
  npos   : Nat
  ctl    : Ctl
  parent : List Nat
  inputs : List Nat
  last   : Bool
  deriving DecidableEq, Repr, Inhabited

/-- What VRFY or SAMP left for a lane (R317); `daddr` is where VRFY wrote its record. -/
structure Verdict where
  lane  : Nat
  acc   : Nat
  bonus : Nat
  path  : List Nat
  toks  : List Nat
  ghit  : Bool
  daddr : Option Nat
  deriving DecidableEq, Repr, Inhabited

/-- The step in flight as the scheduler core sees it. -/
structure StepRec where
  num     : Nat
  canvas  : Nat
  tmpl    : Nat
  var     : Nat
  att     : Nat
  lanes   : List Lane
  parts   : List Nat
  done    : List Nat
  segs    : List (Nat × Nat × Nat × Nat)
  gather  : Option Nat
  gatherUs : Nat
  rewind  : Option Nat
  abandoning : Bool
  quiet   : List Nat
  rewinds : Nat
  reexec  : Bool
  redo    : Bool
  wdFired : Bool
  missing : List Nat
  killed  : List Nat
  withheld : List Nat
  envFail : List (Nat × Nat × Nat)
  d16Tile : List (Nat × Nat)
  verdicts : List Verdict
  startUs : Nat
  cmtReady : Bool
  seqSrc  : List Nat
  deriving DecidableEq, Repr, Inhabited

/-- The scheduler core's own state: the step in flight, numbering, the energy account (R478), turns. -/
structure SchedSt where
  cur      : Option StepRec
  stepNo   : Nat
  lastStep : Nat
  lastCv   : Nat
  lastV    : Bool
  turn     : Nat
  steps    : Nat
  account  : Int
  lastBndUs : Nat
  spaced   : Bool
  deriving DecidableEq, Repr, Inhabited

/-! ## Key-value cache (R263 to R298) -/

/-- A slice of a page as the hot page cache sees it, by request, page, layer and head. -/
structure SliceId where
  index : Nat
  page  : Nat
  layer : Nat
  head  : Nat
  deriving DecidableEq, Repr, Inhabited

/-- Near tier, page frames, hot page cache, score buffers, page walkers. -/
structure KvSt where
  near     : Mem
  window   : Tab Nat
  owner    : Tab Nat
  retired  : List Nat
  retiredFar : Nat
  scrub    : List (Nat × Nat × Nat)
  scrubFar : List (Nat × Nat)
  plan     : Tab (List SliceId)
  filled   : Tab (List SliceId)
  sbuf     : Mem
  sinfo    : Tab (List Nat)
  attn     : Tab AttnRec
  wrote    : List (Nat × Nat × Nat × Nat)
  opened   : List (Nat × Nat × Nat × Nat)
  look     : List (Nat × Nat × Nat)
  dirs     : List (Nat × Nat × Nat)
  master   : Tab (Option PlaneImage)
  lostImg  : List (Nat × Nat)
  nearKept : Bool
  farKept  : Bool
  keptMark : Bool
  selfRef  : Bool
  patrol   : Tab Nat
  deriving DecidableEq, Repr, Inhabited

/-! ## Head dies (R299 to R321) -/

/-- A node of a draft (R312). -/
structure Node where
  token  : Nat
  parent : Nat
  logp   : Word
  deriving DecidableEq, Repr, Inhabited

/-- Presence sets by request, drafts by lane. -/
structure HeadSt where
  presence : Tab (List Nat)
  drafts   : Tab (List Node)
  deriving DecidableEq, Repr, Inhabited

/-! ## Requests (R322 to R356) -/

/-- The states of R325, with the two ends of an entry's life: a free entry, and one that is retired once its frames are scrubbed
(R336). -/
inductive RState where
  | free
  | queued
  | prefill
  | decode
  | idle
  | held
  | suspended
  | pausing
  | paused
  | resuming
  | retiring
  deriving DecidableEq, Repr, Inhabited

/-- What a CONTINUE that waits for its canvas has changed, for its refusal (R329, R330). -/
structure Saved where
  st       : RState
  len      : Nat
  maxnew   : Nat
  gend     : Nat
  delivered : Nat
  deadline : Nat
  admUs    : Nat
  ctl      : Ctl
  keep     : Bool
  noa8     : Bool
  endrule  : Nat
  cq       : Nat
  ses      : Nat
  fin      : Option Nat
  resv     : Nat
  bound    : Nat
  ttl      : Nat
  maskArea : List Byte
  maskBase : Nat
  deriving DecidableEq, Repr, Inhabited

/-- A request table entry (R324). `pend*` are the pending command flags; `out` the released tokens not yet
sent; `fin` the completion status once the request has completed, and `finPend` that its message waits for the last tokens. `pages` are the
page numbers it holds, `tpages` those of its table pages with `tblk` blocks in use, `mxf` and `sff` the MXFP4 page and scale frames with `mxn`
pages in them, `mpages` its mask pages; `bound` is the token count its reservation covers; `farPages` the pages moved to the far tier, by
layer, page and FILL; `ex*` an export in progress with its peer, package key and serial; the rows of the mask area belong to the sequence from `maskBase` on. -/
structure Entry where
  st       : RState
  ret      : RState
  gen      : Nat
  ptn      : Nat
  ses      : Nat
  canvas   : Nat
  hash     : Nat
  prio     : Nat
  admUs    : Nat
  deadline : Nat
  maxnew   : Nat
  endrule  : Nat
  keep     : Bool
  noa8     : Bool
  cq       : Nat
  toks     : List Nat
  kv       : Nat
  gend     : Nat
  delivered : Nat
  tint     : Nat
  tbound   : Bool
  tver     : Nat
  ctl      : Ctl
  ptroot   : Nat
  pages    : List Nat
  resv     : Nat
  kvfmt    : Nat
  maskArea : List Byte
  maskBase : Nat
  mroot    : Nat
  far      : Nat
  farPages : List (Nat × Nat × Nat × List Byte)
  tpages   : List Nat
  tblk     : Nat
  mxn      : Nat
  mxf      : List Nat
  sff      : List Nat
  mpages   : List Nat
  bound    : Nat
  ttl      : Nat
  ttlEnd   : Nat
  lastAct  : Nat
  fin      : Option Nat
  pendCancel : Option Nat
  pendPause : Bool
  pendResume : Bool
  pendRebind : Bool
  pendDiscard : Bool
  cont     : Bool
  next     : List Node
  poison   : List (Nat × Nat)
  exporting : Bool
  exRelease : Bool
  exSession : Nat
  exPeer   : Nat
  exKey    : Nat
  exSerial : Nat
  lastStep : Nat
  waitHdr  : Option Hdr
  waitEnd  : Nat
  saved    : Option Saved
  exWait   : List (Hdr × Option SubmitBody)
  firstOut : Nat
  out      : List Nat
  outStep  : Nat
  sentUs   : Nat
  sentAny  : Bool
  drainPause : Bool
  killAcct : Bool
  finPend  : Bool
  deriving DecidableEq, Repr, Inhabited

/-- A completion-queue entry (R384, R392): handle, status, delivered count, last sequence index. -/
structure CqEnt where
  handle : Nat
  status : Nat
  count  : Nat
  lastIx : Nat
  ses    : Nat
  deriving DecidableEq, Repr, Inhabited

/-- A live tint version (R339); `gone` says that its tint has been deleted (R340). -/
structure TintVer where
  ver    : Nat
  frames : Nat
  hash   : Nat
  pairs  : List TintPair
  current : Bool
  gone   : Bool
  deriving DecidableEq, Repr, Inhabited

/-- A tint slot: its last version number and its live versions. -/
structure TintSlot where
  last : Nat
  live : List TintVer
  deriving DecidableEq, Repr, Inhabited

/-- The far tier's request region (R540): the request table, the sessions with their roles and attach tokens, the completion queues by partition
and queue, and the live tints by partition and slot. -/
structure Region where
  entries : Tab Entry
  retired : List Nat
  fresh   : Nat
  sess    : Tab (Nat × Nat)
  cqs     : Tab (List CqEnt)
  tints   : Tab TintSlot
  deriving DecidableEq, Repr, Inhabited

/-- The request table with the order of retirement, and the serials imported (R354). -/
structure ReqSt where
  entries : Tab Entry
  retired : List Nat
  fresh   : Nat
  imported : List (Nat × Nat)
  expSerial : Nat
  region  : Option Region
  deriving DecidableEq, Repr, Inhabited

/-! ## Canvases (R94 to R109, R146, R261, R561) -/

/-- One canvas. `st` is the STATE field (0 empty, 1 loading, 2 serving, 3 held); `stagedLen` the length of the staged bundle; `rec` the canvas record (0 none,
1 loading, 2 complete), `recPend` that the complete record is being written since the canvas began to serve (R101); `loadPh` the phase of a load (0 none, 1 draining, 2 first wave, 3 a later wave); `lostHold` a hold for a lost master image (R298); `stGen` the owner generation at the start of a staging (R463). -/
structure Canvas where
  enable   : Bool
  enabled  : Bool
  sketchEn : Bool
  sketchOn : Bool
  st       : Nat
  await    : Bool
  awaitImg : Bool
  floor    : Bool
  floorLeft : Nat
  fence    : Bool
  neighbour : Bool
  watchdog : Nat
  admWait  : Nat
  loadDrain : Nat
  bundle   : Option Bundle
  staged   : Option Bundle
  stNext   : Nat
  stTotal  : Nat
  stagedLen : Nat
  stHdr    : Hdr
  stUs     : Nat
  stOpen   : Bool
  stGen    : Nat
  ownerGen : Nat
  stagedGen : Nat
  recSt    : Nat
  recHash  : Nat
  recDurable : Bool
  recPend  : Bool
  loadPh   : Nat
  loadHdr  : Hdr
  loadUs   : Nat
  loadEnd  : Nat
  waveCores : Nat
  sameHash : Bool
  aborting : Option Hdr
  erasing  : Option Hdr
  steps    : Nat
  rewinds  : Nat
  reexecs  : Nat
  abandons : Nat
  d16Tiles : Nat
  floorRises : Nat
  consec   : Nat
  lostHold : Bool
  reprog   : List Nat
  warm     : Bool
  deriving DecidableEq, Repr, Inhabited

/-! ## Partitions (R382 to R390, R396) -/

/-- An event (R388): type, flags, handle or unit address with its level, arguments. -/
structure Event where
  ty    : Nat
  flags : Nat
  unit  : Nat
  level : Nat
  args  : List Nat
  deriving DecidableEq, Repr, Inhabited

/-- A command being received in parts (R393). -/
structure PartCmd where
  h     : Hdr
  cont  : Bool
  b     : SubmitBody
  us    : Nat
  deriving DecidableEq, Repr, Inhabited

/-- One partition: the fields of its block and what it owns. -/
structure Ptn where
  enable   : Bool
  enabled  : Bool
  sealed   : Bool
  canvas   : Nat
  kvfmt    : Nat
  prioMin  : Nat
  nearQ    : Nat
  farQ     : Nat
  share    : Nat
  entryMax : Nat
  lease    : Nat
  grace    : Nat
  idleThr  : Nat
  coal     : Nat
  evqOvf   : Bool
  vidA     : Nat
  pcpA     : Nat
  vidB     : Nat
  pcpB     : Nat
  tokens   : Nat
  tints    : Tab TintSlot
  key      : Nat
  keyBad   : Bool
  cqs      : Tab (List CqEnt)
  events   : List Event
  unacked  : Nat
  lost     : Nat
  coalUs   : Option Nat
  parts    : Tab (Option PartCmd)
  deriving DecidableEq, Repr, Inhabited

/-! ## Sessions and ports (R357 to R381, R395) -/

/-- A message the module sends (R391): its header fields and its body bytes from byte 16; how many events its
acknowledgement clears (R389), and the completion-queue entry it takes away (R384). -/
structure Msg where
  ty     : Nat
  queue  : Nat
  tag    : Nat
  handle : Nat
  status : Nat
  arg    : Nat
  body   : List Byte
  evN    : Nat
  cqe    : Option (Nat × Nat)
  deriving DecidableEq, Repr, Inhabited

/-- A path of a session on one network (R378, R379). -/
structure PathRec where
  open_  : Bool
  up     : Bool
  port   : Nat
  tmo    : Nat
  fails  : Nat
  acks   : Nat
  pnum   : Nat
  await  : Bool
  window : Nat
  growAt : Nat
  tsecr  : Nat
  deriving DecidableEq, Repr, Inhabited

/-- A DATA segment sent and not yet acknowledged (R376, R377), as it was sent last. -/
structure OutSeg where
  seq   : Nat
  msgid : Nat
  six   : Nat
  cnt   : Nat
  net   : Nat
  sentUs : Nat
  retx  : Bool
  miss  : Nat
  body  : List Byte
  deriving DecidableEq, Repr, Inhabited

/-- A session (R365 to R379). `role` is 16 for an operator session, 17 for a claim session, and otherwise the
partition. `txIx` counts the segments sent of the message at the front of `queue`; `sent` holds the messages not wholly acknowledged; `probesOut`
the probes and answers sent (kind, network, PNUM); `offer` the ports offered as replacement paths; `ended` a session that the host closed with
KEEP. -/
structure Ses where
  sid    : Nat
  role   : Nat
  live   : Bool
  lapsed : Bool
  closed : Bool
  keys   : Nat
  pref   : Nat
  segsz  : Nat
  idle   : Nat
  leaseEnd : Nat
  graceEnd : Nat
  attach : Nat
  attachOk : Bool
  pathA  : PathRec
  pathB  : PathRec
  rxMax  : Nat
  rxSeen : List Nat
  rxCum  : Nat
  rxSince : Nat
  rxCe   : Bool
  ackUs  : Option Nat
  ackPath : Nat
  asm    : List (Nat × Nat × Nat × List Byte)
  rxMsg  : Nat
  inbox  : List (List Byte)
  ctlSeen : List Nat
  txSeq  : Nat
  txMsg  : Nat
  txCtl  : Nat
  queue  : List Msg
  txIx   : Nat
  sent   : List (Nat × Msg)
  flight : List OutSeg
  acksOut : List (Nat × Nat × List Nat × Bool)
  probesOut : List (Nat × Nat × Nat)
  offer  : List Nat
  closeOut : Option Nat
  cmds   : Tab Nat
  qAddr  : Word
  closing : Bool
  ended  : Bool
  deriving DecidableEq, Repr, Inhabited

/-- One Ethernet port with its register set (R357 to R360, R395). -/
structure Port where
  enable  : Bool
  macsec  : Bool
  ipv4En  : Bool
  slaac   : Bool
  pfcEn   : Bool
  pfcPrio : Nat
  link    : Bool
  macUp   : Bool
  nbrchg  : Bool
  ipv6    : Nat
  slaacAddr : Nat
  plen6   : Nat
  ipv4    : Nat
  plen4   : Nat
  udp     : Nat
  mgmtVid : Nat
  fecCorr : Nat
  fecUnc  : Nat
  rxDrop  : Nat
  chassis : Nat
  portid  : Nat
  pauseTx : Bool
  pauseRx : Nat
  announces : Nat
  lldps   : Nat
  ndAnswers : Nat
  solUs   : Nat
  solCnt  : Nat
  deriving DecidableEq, Repr, Inhabited

/-- A handshake message the module sends (R367): the handshake identifier, HSTYPE, the reason or SID, nonce and signature of HS_REPLY, and
the fields of HS_DONE; `port` is the port whose address on the other network it carries. -/
structure HsOut where
  hsid  : Nat
  ty    : Nat
  arg   : Nat
  nonce : List Byte
  sig   : List Byte
  attach : Nat
  lease : Nat
  grace : Nat
  idle  : Nat
  port  : Nat
  segsz : Nat
  deriving DecidableEq, Repr, Inhabited

/-- A handshake in progress, or one just done (R366 to R368): its answer, which a repeat gets again. -/
structure Hs where
  hsid   : Nat
  m      : HsInit
  us     : Nat
  answer : HsOut
  done   : Bool
  deriving DecidableEq, Repr, Inhabited

structure NetSt where
  ports  : Tab Port
  sess   : Tab Ses
  nextSid : Nat
  shakes : List Hs
  hsOut  : List HsOut
  announce : List (Nat × Nat × List Byte)
  deriving DecidableEq, Repr, Inhabited

/-! ## Integrity and unit history (R397 to R423, R563) -/

/-- A fault record (R421). -/
structure FaultRec where
  unit    : Nat
  level   : Nat
  perm    : Bool
  suspect : Bool
  kind    : Nat
  detail  : Nat
  hours   : Nat
  cycles  : Nat
  deriving DecidableEq, Repr, Inhabited

/-- A fence due, waiting or in progress (R414, R415). `ph`: 0 due, 1 in progress. -/
structure Fence where
  core  : Nat
  spare : Nat
  ph    : Nat
  us    : Nat
  deriving DecidableEq, Repr, Inhabited

/-- An audit sample (R408): the stroke, the tile group, the original's values after GCOL and GLR in product
units, and the audit copy's. -/
structure AuditRec where
  stroke : Stroke
  grp    : Nat
  engine : Nat
  step   : Nat
  canvas : Nat
  orig   : List Int
  copy   : List Int
  bad    : Bool
  deriving DecidableEq, Repr, Inhabited

/-- Audit state of a cluster (R407): the audited position, when it was written, its queue, and the settings in force since (R564). -/
structure AuditCl where
  pos    : Nat
  us     : Nat
  ready  : Bool
  queue  : List AuditRec
  draws  : Nat
  stopped : Bool
  frac   : Nat
  period : Nat
  deriving DecidableEq, Repr, Inhabited

/-- What a flash copy of unit history holds (R420). -/
structure UhCopy where
  recs   : List FaultRec
  remap  : Tab (Nat × Nat)
  cycles : Tab Nat
  repl   : Bool
  cause  : Nat
  deriving DecidableEq, Repr, Inhabited

/-- Unit history with its two copies in flash, faults, fences, drain, audit and the counters of the HLTH block. -/
structure HistSt where
  remap    : Tab (Nat × Nat)
  cycles   : Tab Nat
  records  : List FaultRec
  window   : Tab Nat
  seqA     : Nat
  seqB     : Nat
  dirty    : Bool
  lastWr   : Nat
  inRepl   : Bool
  draining : Bool
  drainUs  : Nat
  budgetNow : Bool
  cause    : Nat
  fences   : List Fence
  toknet   : Bool
  auditEn  : Bool
  frac     : Nat
  period   : Nat
  audit    : Tab AuditCl
  faultsT  : Nat
  faultsP  : Nat
  ceNear   : Nat
  ceFar    : Nat
  ceCache  : Nat
  skips    : Nat
  diffs    : Nat
  loneCnt  : Nat
  sbQuery  : Word
  copyA    : UhCopy
  copyB    : UhCopy
  deriving DecidableEq, Repr, Inhabited

/-! ## Calibration (R424 to R444) -/

/-- Calibration of one cluster: causes due as a mask of codes, its last accepted calibration. -/
structure CalCl where
  due     : Nat
  count   : Nat
  last    : Nat
  tlast   : Nat
  cause   : Nat
  hot     : Nat
  discs   : Nat
  gapDisc : Bool
  gapCause : Nat
  lastSave : Nat
  deriving DecidableEq, Repr, Inhabited

/-- The CAL block and the gap. -/
structure CalSt where
  tempEn  : Bool
  tdelta  : Nat
  gapMin  : Nat
  maxint  : Nat
  gap     : Bool
  gapUs   : Nat
  anyGap  : Bool
  gapSet  : List Nat
  placing : List Ramp
  whole   : List (Nat × Nat × (Int × Int))
  modCount : Nat
  modLast : Nat
  evUs    : Nat
  evAny   : Bool
  evDue   : Bool
  discards : Nat
  calRemaps : Nat
  cls     : Tab CalCl
  disc    : Tab Nat
  deriving DecidableEq, Repr, Inhabited

/-! ## Firmware and security (R445 to R473) -/

/-- A firmware image in a slot: valid or empty, SVN, RAISE_FLOOR, the schemas it reads and writes,
measurement. -/
structure Img where
  valid : Bool
  svn   : Nat
  raise_ : Bool
  rlo   : Nat
  rhi   : Nat
  wr    : Nat
  meas  : Nat
  deriving DecidableEq, Repr, Inhabited

/-- A class of firmware image: its slots, the active one, its floor. -/
structure FwCls where
  a      : Img
  b      : Img
  actB   : Bool
  floor  : Nat
  staged : Bool
  deriving DecidableEq, Repr, Inhabited

/-- A live update (R455). -/
structure FwUpd where
  cls   : Nat
  h     : Hdr
  us    : Nat
  step  : Nat
  deriving DecidableEq, Repr, Inhabited

/-- A configuration copy (R465): intact, sequence, the owner section's settings as an opaque list. -/
structure CfgCopy where
  ok   : Bool
  seq  : Nat
  own  : List Nat
  deriving DecidableEq, Repr, Inhabited

structure SecSt where
  claimed  : Bool
  ownerKey : Nat
  ownerGen : Nat
  scrGen   : Nat
  scrUse   : Nat
  safe     : Bool
  cause    : Nat
  cfgConf  : Bool
  recovery : Bool
  romRec   : Bool
  rcv      : Nat
  rcvBytes : List Byte
  boots    : Nat
  attests  : Nat
  serial   : Nat
  hsFail   : Nat
  sigFail  : Nat
  fw       : Tab FwCls
  upd      : Option FwUpd
  updNow   : Bool
  revert   : Nat
  fwSeen   : List (Nat × Nat)
  cfgA     : CfgCopy
  cfgB     : CfgCopy
  cfgFloor : Nat
  resolve  : Option Nat
  modErase : Option Hdr
  relErase : Option Hdr
  stepping : Nat
  paramset : Nat
  order    : List Word
  serialNo : List Word
  macs     : Tab Nat
  deriving DecidableEq, Repr, Inhabited

/-! ## Power and thermal (R474 to R493) -/

/-- Limits, readings and events of the power-management core. `stale` holds for each channel twice the rounds in a row that it has been invalid,
plus 1 once it has been valid since start (R425, R486); `clear` the clear rounds of R480. -/
structure PwrSt where
  state    : Nat
  off      : Bool
  plim     : Nat
  holdReq  : Bool
  flowchk  : Bool
  droopTh  : Nat
  lim      : Nat
  thrott   : Bool
  holdPin  : Bool
  warnPin  : Bool
  intWarn  : Bool
  tjHold   : Bool
  flowLow  : Bool
  inletHot : Bool
  hotch    : Nat
  pin      : Nat
  pump     : Nat
  iin      : Nat
  vin      : Nat
  tjHot    : Nat
  events   : Nat
  rounds   : Nat
  energy   : Nat
  uj       : Nat
  warn     : Tab (Nat × Bool)
  chans    : Tab (Nat × Bool)
  stale    : Tab Nat
  stretch  : Tab Nat
  stretching : List Nat
  clear    : Nat
  inletRun : Nat
  flowRun  : Nat
  tshutAo  : Bool
  needEdge : Bool
  holdUs   : Nat
  disconn  : Bool
  deriving DecidableEq, Repr, Inhabited

/-! ## Event recorder (R494 to R509) -/

/-- A record (R498). -/
structure EvRec where
  hours  : Nat
  cycles : Nat
  trig   : Nat
  supp   : Nat
  unit   : Nat
  level  : Nat
  code   : Nat
  detail : Nat
  stepw  : Nat
  arg    : Nat
  snap   : List Word
  micro  : Nat
  epoch  : Nat
  deriving DecidableEq, Repr, Inhabited

/-- A trigger's configuration and its hold-off. -/
structure Trig where
  en      : Bool
  list    : Nat
  holdoff : Nat
  supp    : Nat
  lastUs  : Nat
  fired   : Bool
  deriving DecidableEq, Repr, Inhabited

structure EvrSt where
  arm      : Bool
  count    : Nat
  full     : Bool
  clearing : Bool
  epoch    : Nat
  cursor   : Nat
  dropped  : Nat
  lost     : Nat
  lastCmt  : Nat
  swarg    : Word
  trigs    : Tab (Option Trig)
  listN    : Tab Nat
  lists    : Tab Word
  recs     : Tab (Option EvRec)
  queue    : List EvRec
  uncomm   : Nat
  cmtWait  : Bool
  dueUs    : Nat
  fCount   : Nat
  fEpoch   : Nat
  fRecs    : Tab (Option EvRec)
  deriving DecidableEq, Repr, Inhabited

/-! ## Board side: pins, straps, sideband, boundary scan (R510 to R529) -/

structure BrdSt where
  pwrEn   : Bool
  resetN  : Bool
  prsnt   : Bool
  straps  : Nat
  ptr     : Nat
  sbLast  : Nat
  sbOut   : List Word
  sbNack  : Bool
  dynAddr : Option Nat
  enec    : Nat
  ibi     : Nat
  trst    : Bool
  taps    : Tab Nat
  pwrEnUs : Nat
  deriving DecidableEq, Repr, Inhabited

/-! ## Start-up (R533 to R545) and the DEV settings (R560) -/

/-- Rows of the start table reached: 0 off, 1 rails, 2 internal reset released, 3 booted, 4 self-tested,
5 retention checked, 6 calibrated, 7 ready; and the settings of the DEV block. -/
structure DevSt where
  row      : Nat
  railsOk  : Bool
  mstate   : Nat
  shutting : Bool
  locate   : Bool
  opLease  : Nat
  opGrace  : Nat
  budget   : Nat
  scratch  : Word
  keyCtr   : Nat
  deriving DecidableEq, Repr, Inhabited

/-! ## The state -/

/-- The module. `pending` is the queue of waiting commands; `free` counts the free values drawn (the model's own
fields). -/
structure State where
  clk   : ClkSt
  arr   : ArrSt
  core  : CoreSt
  glz   : GlzSt
  seq   : SeqSt
  sch   : SchedSt
  kv    : KvSt
  head  : HeadSt
  req   : ReqSt
  cnv   : Tab Canvas
  ptn   : Tab Ptn
  net   : NetSt
  hist  : HistSt
  cal   : CalSt
  sec   : SecSt
  pwr   : PwrSt
  evr   : EvrSt
  brd   : BrdSt
  dev   : DevSt
  free  : Nat
  pending : List Instr
  deriving DecidableEq, Repr

/-! ## What an unlisted entry of each table is: the reset values of the blocks' fields and of the units -/

/-- A sequencer after reset: it waits for a step boundary, its counters are 0. -/
def Seq.init : Seq :=
  { phase := 0, wait := .none, step := 0, att := 0, canvas := 0, tmpl := 0, var := 0, lanes := [],
    stopSeg := none, fwded := false, segs := [], flagIx := 0, curSeg := none, chkFlags := 0, envTile := [],
    held := [], ops := [], window := false, winSeg := 0, winNo := 0, ord := 0, glrAt := [], replays := [], failed := [], tok := [], cred := [], sendSeq := 0, seen := [],
    killed := [], access := none, resumeSeg := 0 }

/-- A narrow tile register after reset: empty. -/
def Tile.init : Tile :=
  { closed := [], opened := none, ready := false, tiles := 0, plane := 0, grp := 0, lane := 0, posIx := 0, d16 := [] }

/-- An engine tile not stroked. -/
def TileIn.init : TileIn := { gsz := 16, inputs := [], d16 := [], whole := false, ab := 0 }

/-- No sampling control in force (R302): greedy, every filter off, no penalty. -/
def Ctl.init : Ctl :=
  { temp := 0, topk := 0, topp := 0x3F80, minp := 0, rpen := 0x3F80, rscope := 0, seed := 0, nprop := 0,
    psrc := 0, tree := 0 }

/-- The header of no command. -/
def Hdr.init : Hdr := { ses := 0, queue := 0, ptn := 0, tag := 0, handle := 0 }

/-- A free request table entry (R323: generation 0 is never issued). -/
def Entry.init : Entry :=
  { st := .free, ret := .free, gen := 0, ptn := 0, ses := 0, canvas := 0, hash := 0, prio := 0, admUs := 0,
    deadline := 0, maxnew := 0, endrule := 0, keep := false, noa8 := false, cq := 0, toks := [], kv := 0,
    gend := 0, delivered := 0, tint := 0, tbound := false, tver := 0, ctl := Ctl.init, ptroot := 0, pages := [],
    resv := 0, kvfmt := 0, maskArea := [], maskBase := 0, mroot := 0, far := 0, farPages := [], tpages := [], tblk := 0, mxn := 0, mxf := [], sff := [], mpages := [], bound := 0, ttl := 600, ttlEnd := 0, lastAct := 0,
    fin := none, pendCancel := none, pendPause := false, pendResume := false, pendRebind := false,
    pendDiscard := false, cont := false, next := [], poison := [], exporting := false, exRelease := false,
    exSession := 0, exPeer := 0, exKey := 0, exSerial := 0, lastStep := 0, waitHdr := none, waitEnd := 0, saved := none, exWait := [], firstOut := 0, out := [], outStep := 0,
    sentUs := 0, sentAny := false, drainPause := false, killAcct := false, finPend := false }

/-- A canvas after reset (R561), empty. -/
def Canvas.init : Canvas :=
  { enable := true, enabled := true, sketchEn := true, sketchOn := true, st := 0, await := false,
    awaitImg := false, floor := false, floorLeft := 0, fence := false, neighbour := false, watchdog := 50,
    admWait := 20, loadDrain := 10, bundle := none, staged := none, stNext := 0, stTotal := 0, stagedLen := 0,
    stHdr := Hdr.init, stUs := 0, stOpen := false, stGen := 0, ownerGen := 0, stagedGen := 0, recSt := 0, recHash := 0,
    recDurable := false, recPend := false, loadPh := 0, loadHdr := Hdr.init, loadUs := 0,
    loadEnd := 0, waveCores := 0, sameHash := false, aborting := none, erasing := none,
    steps := 0, rewinds := 0, reexecs := 0, abandons := 0, d16Tiles := 0, floorRises := 0, consec := 0,
    lostHold := false, reprog := [], warm := false }

/-- A partition after reset (R396). -/
def Ptn.init : Ptn :=
  { enable := false, enabled := false, sealed := false, canvas := 0, kvfmt := 0, prioMin := 3, nearQ := 0,
    farQ := 0, share := 0, entryMax := 0, lease := 10, grace := 120, idleThr := 60, coal := 100,
    evqOvf := false, vidA := 0, pcpA := 3, vidB := 0, pcpB := 3, tokens := 0, tints := [], key := 0,
    keyBad := false, cqs := [], events := [], unacked := 0, lost := 0, coalUs := none, parts := [] }

/-- A port after reset (R395). -/
def Port.init : Port :=
  { enable := true, macsec := false, ipv4En := false, slaac := true, pfcEn := false, pfcPrio := 3,
    link := false, macUp := false, nbrchg := false, ipv6 := 0, slaacAddr := 0, plen6 := 64, ipv4 := 0,
    plen4 := 24, udp := 0xB8CE, mgmtVid := 0, fecCorr := 0, fecUnc := 0, rxDrop := 0, chassis := 0, portid := 0,
    pauseTx := false, pauseRx := 0, announces := 0, lldps := 0, ndAnswers := 0, solUs := 0, solCnt := 0 }

/-- A path not opened (R376: a timeout starts at 1 ms, in units of 1 ms; the window starts at 256, log
entry 15). -/
def PathRec.init : PathRec :=
  { open_ := false, up := false, port := 0, tmo := 1, fails := 0, acks := 0, pnum := 0, await := false, window := 256,
    growAt := 0, tsecr := 0 }

/-- No session. -/
def Ses.init : Ses :=
  { sid := 0, role := 16, live := false, lapsed := false, closed := false, keys := 0, pref := 0,
    segsz := 1024, idle := 0, leaseEnd := 0, graceEnd := 0, attach := 0, attachOk := false,
    pathA := PathRec.init, pathB := PathRec.init, rxMax := 0, rxSeen := [], rxCum := 0, rxSince := 0,
    rxCe := false, ackUs := none, ackPath := 0, asm := [], rxMsg := 0, inbox := [], ctlSeen := [], txSeq := 0,
    txMsg := 0, txCtl := 0, queue := [], txIx := 0, sent := [], flight := [], acksOut := [], probesOut := [], offer := [], closeOut := none,
    cmds := [], qAddr := 0, closing := false, ended := false }

/-- A cluster never calibrated (R443). -/
def CalCl.init : CalCl :=
  { due := 0, count := 0, last := 0, tlast := 0, cause := 0, hot := 0, discs := 0, gapDisc := false,
    gapCause := 0, lastSave := 0 }

/-- A cluster without an audit copy (R407). -/
def AuditCl.init : AuditCl :=
  { pos := 0, us := 0, ready := false, queue := [], draws := 0, stopped := false, frac := 9, period := 600 }

/-- A copy of unit history as it leaves manufacture. -/
def UhCopy.init : UhCopy := { recs := [], remap := [], cycles := [], repl := false, cause := 0 }

/-- An empty image slot. -/
def Img.init : Img :=
  { valid := false, svn := 0, raise_ := false, rlo := 0, rhi := 0, wr := 0, meas := 0 }

/-- A firmware class as it leaves manufacture: an image in slot A, none in slot B (log entry 16). -/
def FwCls.init : FwCls :=
  { a := { Img.init with valid := true }, b := Img.init, actB := false, floor := 0, staged := false }

/-- Empty statistics (R433). -/
def Stats.init : Stats := { n := 0, ssig := 0, sabs := 0, su := [], su2 := [] }

/-- An empty GLR table. -/
def GlrTab.init : GlrTab := { k := 0, u := [], v := [], su := [], sv := [] }

/-- The envelope of a tile that has none: all bounds 0. -/
def Envelope.init : Envelope := { lo := 0, hi := 0, vmax := 0, vinit := 0, widen := 0x4000 }

/-- A row not begun (R77). -/
def RowProg.init : RowProg :=
  { row := 0, iters := 0, done := false, g0 := 50, passed := [], reads := [], failed := [], only := [] }

/-- An attention layer record not written (R284). -/
def AttnRec.init : AttnRec := { layer := 0, win := 0, kscl := [], vscl := [], sbnd := 0 }

/-- A tint slot never loaded. -/
def TintSlot.init : TintSlot := { last := 0, live := [] }

/-! ## Reset -/

/-- The machine right after reset: internal reset has just been released in the first start of a module as it
left manufacture, the rails are good, the straps of an open board have been latched (R518, R524, R533, R542).
Every register field has the reset value of its table; a field whose reset is from flash or always-on has the
value of an unclaimed module with no canvas, no record and no fault (log entries 16 and 17). -/
def State.reset : State :=
  { clk := { us := 0, hours := 0, micro := 0, cycles := 1 }
    arr := { cells := [], coeff := [], fmt := [], scale := [], remap := [], remapWant := [], scrGen := 0,
             sel := [], pend := [], swcal := [], conv := [], drift := [], lone := [], strokes := [], waiting := [],
             treeErr := [], tileFl := [], rows := [], written := [], incomplete := [], satHist := [], digcol := [], exhausted := [], stroked := [], listedSat := [], d16Cols := [] }
    core := { ib := [], ob := [], ab := [], rx := [], sram := [], prov := [], ntr := [], tin := [], sr := [], acn := [], bind := [],
              ckForm := [], glrT := [], tintH := [], rxKill := [], samples := [] }
    glz := { outl := [], glr := [], chans := [], freq := [], env := [], expect := [], resid := [], residLost := [], dir := [], fetched := [], varEst := [], varNew := [], varReset := [], rep := [], chanWant := [], repHist := [], stats := [],
             ramps := [], saved := [], savedT := [], kvSat := [], kvNew := [], bound := [], boundNew := [] }
    seq := { seqs := [], sent := [], fabric := [], tables := [], planeBad := [], descs := [] }
    sch := { cur := none, stepNo := 0, lastStep := 0, lastCv := 0, lastV := false, turn := 3, steps := 0,
             account := 0, lastBndUs := 0, spaced := false, }
    kv := { near := [], window := [], owner := [], retired := [], retiredFar := 0, scrub := [], scrubFar := [],
            plan := [], filled := [], sbuf := [], sinfo := [], attn := [], wrote := [], opened := [], look := [],
            dirs := [], master := [], lostImg := [], nearKept := false, farKept := false, keptMark := false, selfRef := true,
            patrol := [] }
    head := { presence := [], drafts := [] }
    req := { entries := [], retired := [], fresh := 0, imported := [], expSerial := 0, region := none }
    cnv := []
    ptn := []
    net := { ports := [], sess := [], nextSid := 1, shakes := [], hsOut := [], announce := [] }
    hist := { remap := [], cycles := [], records := [], window := [], seqA := 0, seqB := 0, dirty := false,
              lastWr := 0, inRepl := false, draining := false, drainUs := 0, budgetNow := false, cause := 0,
              fences := [], toknet := false, auditEn := false, frac := 9, period := 600,
              audit := [], faultsT := 0, faultsP := 0, ceNear := 0, ceFar := 0, ceCache := 0, skips := 0,
              diffs := 0, loneCnt := 0, sbQuery := 0, copyA := UhCopy.init, copyB := UhCopy.init }
    cal := { tempEn := true, tdelta := 8, gapMin := 8, maxint := 900, gap := false, gapUs := 0, anyGap := false,
             gapSet := [], placing := [], whole := [], modCount := 0, modLast := 0, evUs := 0,
             evAny := false, evDue := false, discards := 0, calRemaps := 0, cls := [], disc := [] }
    sec := { claimed := false, ownerKey := 0, ownerGen := 0, scrGen := 1, scrUse := 1, safe := false, cause := 0,
             cfgConf := false, recovery := false, romRec := false, rcv := 0, rcvBytes := [], boots := 0,
             attests := 0, serial := 0, hsFail := 0, sigFail := 0, fw := [], upd := none, updNow := false, revert := 0,
             fwSeen := [], cfgA := { ok := true, seq := 0, own := [] }, cfgB := { ok := true, seq := 0, own := [] },
             cfgFloor := 0, resolve := none, modErase := none, relErase := none, stepping := 1,
             paramset := 1, order := [0x532D5943, 0x3034394C, 0x38344D2D, 0x00000000], serialNo := [], macs := [] }
    pwr := { state := 1, off := false, plim := 580, holdReq := false, flowchk := true, droopTh := 22, lim := 580,
             thrott := false, holdPin := false, warnPin := false, intWarn := false, tjHold := false,
             flowLow := false, inletHot := false, hotch := 0, pin := 0, pump := 0, iin := 0, vin := 0, tjHot := 0,
             events := 0, rounds := 0, energy := 0, uj := 0, warn := [], chans := [], stale := [], stretch := [],
             stretching := [], clear := 0, inletRun := 0, flowRun := 0, tshutAo := false, needEdge := false, holdUs := 0,
             disconn := false }
    evr := { arm := true, count := 0, full := false, clearing := false, epoch := 1, cursor := 0, dropped := 0,
             lost := 0, lastCmt := 0, swarg := 0, trigs := [], listN := [], lists := [], recs := [], queue := [],
             uncomm := 0, cmtWait := false, dueUs := 0, fCount := 0, fEpoch := 1, fRecs := [] }
    brd := { pwrEn := true, resetN := true, prsnt := true, straps := 3, ptr := 0, sbLast := 0, sbOut := [],
             sbNack := false, dynAddr := none, enec := 0, ibi := 0, trst := true,
             taps := [], pwrEnUs := 0 }
    dev := { row := 2, railsOk := true, mstate := 0, shutting := false, locate := false,
             opLease := 10, opGrace := 120, budget := 10, scratch := 0, keyCtr := 0 }
    free := 0
    pending := [] }

end Sys2Proof.Machine
end

