-- ==== Sys2Proof/Machine/Mesh.lean ====
section
/-! DEFINITION. The dies and what joins them (R10, R13, R15, R19, R20, R22 to R24, R26): die codes, ports and memory devices of each die, the
mesh of links, and the route of a transfer or a token. -/

namespace Sys2Proof.Machine

/-! ## Dies (R10, R13) -/

def isArrayMeshDie (d : Nat) : Bool := decide (d < 24)
def isContextDie (d : Nat) : Bool := decide (24 ≤ d) && decide (d < 32)
def isHeadDie (d : Nat) : Bool := decide (32 ≤ d) && decide (d < 34)
def isPortDie (d : Nat) : Bool := decide (34 ≤ d) && decide (d < 38)
def isHubDie (d : Nat) : Bool := decide (38 ≤ d) && decide (d < 40)

/-- The port die of a port; NA0 to NA3 are ports 0 to 3, NB0 to NB3 ports 4 to 7 (R15). -/
def portDie (port : Nat) : Nat := 34 + port / 2

/-- The ports of a port die. -/
def portsOfDie (d : Nat) : List Nat := (List.range 8).filter fun p => portDie p == d

/-- The near-tier stacks, 32 GiB each, of a context die (R19, R20). -/
def stacksOfDie (d : Nat) : List Nat := if isContextDie d then [2 * (d - 24), 2 * (d - 24) + 1] else []

/-- The far-tier packages, 64 GiB each, of a hub die (R19, R20). -/
def packagesOfDie (d : Nat) : List Nat := if isHubDie d then (List.range 8).map fun k => 8 * (d - 38) + k else []

/-- Bytes of a near-tier stack, of the near tier, of a far-tier package and of the far tier (R19). -/
def stackBytes : Nat := 32 * 2 ^ 30
def nearTierBytes : Nat := 16 * stackBytes
def farPackageBytes : Nat := 64 * 2 ^ 30
def farTierBytes : Nat := 16 * farPackageBytes

/-! ## The mesh (R22, R23) -/

/-- The four edges of an array die. -/
inductive Edge where
  | north | south | west | east
  deriving DecidableEq, Repr

def meshRow (d : Nat) : Nat := d / 6
def meshCol (d : Nat) : Nat := d % 6
def meshDie (row col : Nat) : Nat := 6 * row + col

/-- The die behind an edge of an array die: its mesh neighbour, or what the table of R23 attaches to the outer edge. -/
def edgeDie (d : Nat) (e : Edge) : Option Nat :=
  if 24 ≤ d then none
  else match e with
    | .north => if 6 ≤ d then some (d - 6) else some (nth 0 [38, 38, 32, 33, 39, 39] d)
    | .south => if d < 18 then some (d + 6) else nth none [some 34, some 35, none, none, some 36, some 37] (d - 18)
    | .west => if meshCol d = 0 then some (24 + meshRow d) else some (d - 1)
    | .east => if meshCol d = 5 then some (28 + meshRow d) else some (d + 1)

/-- Dies that an array die's links reach. -/
def linksOf (d : Nat) : List Nat := [Edge.north, .south, .west, .east].filterMap (edgeDie d)

/-- Two dies are joined by a link. -/
def linked (a b : Nat) : Bool := (linksOf a).contains b || (linksOf b).contains a

/-- Array dies by which a die stands on the mesh: itself, or those it is attached to. -/
def gatesOf (d : Nat) : List Nat := if d < 24 then [d] else (List.range 24).filter fun a => (linksOf a).contains d

/-! ## Routes (R24) -/

/-- Numbers from `a` towards `b`, `b` the last. -/
def towards (a b : Nat) : List Nat :=
  if a ≤ b then (List.range (b - a)).map fun k => a + k + 1 else (List.range (a - b)).map fun k => a - (k + 1)

/-- Dies passed from one array die to another: along the column first, then along the row. -/
def meshRoute (a b : Nat) : List Nat :=
  (towards (meshRow a) (meshRow b)).map (fun r => meshDie r (meshCol a)) ++ (towards (meshCol a) (meshCol b)).map fun c => meshDie (meshRow b) c

/-- The dies a transfer enters from one die to another. -/
def viaGates (a b g h : Nat) : List Nat := (if a = g then [] else [g]) ++ meshRoute g h ++ (if b = h then [] else [b])

/-- The route between two dies; a hub die uses the link of the shorter route, the lower array die of equals (log entry 84). -/
def dieRoute (a b : Nat) : List Nat :=
  if a = b then []
  else
    let all := (gatesOf a).flatMap fun g => (gatesOf b).map (viaGates a b g)
    (all.find? fun r => all.all fun q => decide (r.length ≤ q.length)).getD []

/-- A hop: the two dies of a link as one number, the lower die code first. -/
def hopOf (a b : Nat) : Nat := 64 * min a b + max a b

/-- A number that names a hop. -/
def isHop (h : Nat) : Bool := decide (h / 64 < h % 64) && linked (h / 64) (h % 64)

/-- The hops of a route. -/
def hopsOf (a b : Nat) : List Nat := ((a :: dieRoute a b).zip (dieRoute a b)).map fun p => hopOf p.1 p.2

end Sys2Proof.Machine
end

