-- ==== Sys2Proof/Machine/Units.lean ====
section
/-! DEFINITION. Units and their addresses (R9 to R12), cluster numbers (R443), sequencer identifiers (R232), the
roles of cores (R222) and the defaults of tables whose unlisted entries depend on the key. -/

namespace Sys2Proof.Machine

/-- A meaning's answer. -/
abbrev Out := Host.Outcome State Fault Refusal

/-- The next state when the command's operands name things the module has; the stop of log entry 20 otherwise. -/
def okIf (b : Bool) (s : State) : Out := if b then .next s else .fault .noSuchUnit

/-! ## Packed addresses (R9) -/

def dieOf (u : Nat) : Nat := fld u 26 6
def clusterNo (u : Nat) : Nat := fld u 21 5
def coreNo (u : Nat) : Nat := fld u 16 5
def engineNo (u : Nat) : Nat := fld u 12 4
def arrayNo (u : Nat) : Nat := fld u 8 4
def planeNo (u : Nat) : Nat := fld u 4 4

/-- The unit that holds `u` at a level: the address with every field below the level 0 (R12). -/
def upTo (sh u : Nat) : Nat := u / 2 ^ sh * 2 ^ sh
def dieKey (u : Nat) : Nat := upTo 26 u
def clusterOf (u : Nat) : Nat := upTo 21 u
def coreOf (u : Nat) : Nat := upTo 16 u
def engineOf (u : Nat) : Nat := upTo 12 u
def arrayOf (u : Nat) : Nat := upTo 8 u

def mkCluster (die cl : Nat) : Nat := die * 2 ^ 26 + cl * 2 ^ 21
def mkCore (cl c : Nat) : Nat := cl + c * 2 ^ 16
def mkEngine (core e : Nat) : Nat := core + e * 2 ^ 12
def mkArray (eng a : Nat) : Nat := eng + a * 2 ^ 8

/-- A die with array clusters: A00 to A23, H0, H1. -/
def isArrayDie (d : Nat) : Bool := d < 24 || d == 32 || d == 33

/-- A cluster of an array die or of a head die (R9, R13). -/
def isArrCluster (u : Nat) : Bool :=
  decide (u < 2 ^ 32) && clusterOf u == u &&
    ((decide (dieOf u < 24) && decide (clusterNo u < 16)) || ((dieOf u == 32 || dieOf u == 33) && decide (clusterNo u < 4)))

/-- A core. -/
def isCore (u : Nat) : Bool := coreOf u == u && isArrCluster (clusterOf u)

/-- An engine. -/
def isEngine (u : Nat) : Bool := engineOf u == u && isCore (coreOf u)

/-- An array. -/
def isArray (u : Nat) : Bool := arrayOf u == u && isEngine (engineOf u)

/-- A plane. -/
def isPlane (u : Nat) : Bool := upTo 4 u == u && isArray (arrayOf u)

/-- An attention cluster: dies C0 to C7, clusters 0 to 3 (R18). -/
def isAttCluster (u : Nat) : Bool :=
  decide (u < 2 ^ 32) && clusterOf u == u && decide (24 ≤ dieOf u) && decide (dieOf u < 32) && decide (clusterNo u < 4)

/-- An address that names a unit of the module at a level, every field below the level 0 (R9, R10, R12): port and hub dies have no unit below
the die, context dies none below the cluster. -/
def unitOk (u level : Nat) : Bool :=
  match level with
  | 0 => dieKey u == u && decide (dieOf u < 40) && decide (u < 2 ^ 32)
  | 1 => isArrCluster u || isAttCluster u
  | 2 => isCore u
  | 3 => isEngine u
  | 4 => isArray u
  | 5 => isPlane u
  | _ => false

/-- A head cluster. -/
def isHeadCluster (u : Nat) : Bool := isArrCluster u && (dieOf u == 32 || dieOf u == 33)

/-- The number of an array or head cluster in the CAL, HLTH and PWR blocks (R443). -/
def clNum (u : Nat) : Nat :=
  if dieOf u < 24 then 16 * dieOf u + clusterNo u else 384 + 4 * (dieOf u - 32) + clusterNo u

/-- The cluster with that number. -/
def clAt (n : Nat) : Nat :=
  if n < 384 then mkCluster (n / 16) (n % 16) else mkCluster (32 + (n - 384) / 4) ((n - 384) % 4)

/-- Every array and head cluster, in number order. -/
def allClusters : List Nat := (List.range 392).map clAt

/-- Every core of a cluster, in core order. -/
def coresOf (cl : Nat) : List Nat := (List.range 32).map (mkCore cl)

/-- The index of a core among all cores, by which core-local memories are laid out. -/
def coreIx (core : Nat) : Nat := clNum (clusterOf core) * 32 + coreNo core

/-! ## Sequencer identifiers: the 17 bits of SRC (R232) -/

def sidDie (sid : Nat) : Nat := fld sid 11 6
def sidCl (sid : Nat) : Nat := fld sid 6 5
def sidUnit (sid : Nat) : Nat := fld sid 0 6
def sidCluster (sid : Nat) : Nat := mkCluster (sidDie sid) (sidCl sid)

/-- The core whose sequencer has this identifier. -/
def sidCore (sid : Nat) : Nat := mkCore (sidCluster sid) (sidUnit sid)

/-- The sequencer of a core. -/
def coreSid (core : Nat) : Nat := dieOf core * 2 ^ 11 + clusterNo core * 2 ^ 6 + coreNo core

/-- The cluster control core of a cluster, as a source. -/
def cccSid (cl : Nat) : Nat := dieOf cl * 2 ^ 11 + clusterNo cl * 2 ^ 6 + 32

/-- The attention sequencer of an attention cluster. -/
def attSid (cl : Nat) : Nat := dieOf cl * 2 ^ 11 + clusterNo cl * 2 ^ 6 + 33

/-- The head sequencer of a head cluster. -/
def headSid (cl : Nat) : Nat := dieOf cl * 2 ^ 11 + clusterNo cl * 2 ^ 6 + 34

/-- The scheduler core on M0. -/
def schedSid : Nat := 38 * 2 ^ 11 + 35

def isCoreSid (sid : Nat) : Bool := decide (sid < 2 ^ 17) && decide (sidUnit sid < 32) && isArrCluster (sidCluster sid)
def isAttSid (sid : Nat) : Bool := decide (sid < 2 ^ 17) && sidUnit sid == 33 && isAttCluster (sidCluster sid)
def isHeadSid (sid : Nat) : Bool := decide (sid < 2 ^ 17) && sidUnit sid == 34 && isHeadCluster (sidCluster sid)
def isSid (sid : Nat) : Bool := isCoreSid sid || isAttSid sid || isHeadSid sid

/-- The unit address and level that name the unit holding a sequencer (R12, R412). -/
def sidUnitAddr (sid : Nat) : Nat × Nat :=
  if sidUnit sid < 32 then (sidCore sid, 2) else (sidCluster sid, 1)

/-! ## Roles of cores: the remap table (R11, R222) -/

/-- POS and STATE of a core in the initial remap table. -/
def remapInit (core : Nat) : Nat × Nat := if coreNo core < 30 then (coreNo core, 0) else (31, 1)

/-- POS and STATE of a core. -/
def roleOf (s : State) (core : Nat) : Nat × Nat := tget (remapInit core) s.hist.remap core

/-- The module with the role of a core set. -/
def setRole (core pos st : Nat) (s : State) : State :=
  { s with hist := { s.hist with remap := tput (remapInit core) s.hist.remap core (pos, st) } }

/-- Cores of a cluster in a state, in core order. -/
def coresIn (s : State) (cl st : Nat) : List Nat := (coresOf cl).filter fun c => (roleOf s c).2 == st

/-- How many listed cores are in state `st`, and how many of those whose initial state is `st` are not. -/
def roleCount (s : State) (st : Nat) : Nat :=
  let base := if st = 1 then 784 else if st = 0 then 11760 else 0
  let plus := s.hist.remap.foldl (fun n e => n + b2n (e.2.2 == st && (remapInit e.1).2 != st)) 0
  let minus := s.hist.remap.foldl (fun n e => n + b2n (e.2.2 != st && (remapInit e.1).2 == st)) 0
  base + plus - minus

/-- The physical core that holds a logical position of a cluster, when one does (R223). -/
def corePos (s : State) (cl pos : Nat) : Option Nat :=
  (coresOf cl).find? fun c => roleOf s c == (pos, 0)

/-- The sequencer a template's sequencer table drives: its unit is a logical position on array and head clusters (R221,
R223), and the unit itself elsewhere. -/
def seqOfTable (s : State) (sid : Nat) : Option Nat :=
  if sidUnit sid < 32 then (corePos s (sidCluster sid) (sidUnit sid)).map coreSid else some sid

/-- The table a sequencer runs: its core's position. -/
def tableSid (s : State) (sid : Nat) : Nat :=
  if sidUnit sid < 32 then coreSid (mkCore (sidCluster sid) (roleOf s (sidCore sid)).1) else sid

/-! ## Lookups with defaults -/

def cnvOf (s : State) (c : Nat) : Canvas := tget Canvas.init s.cnv c
def ptnOf (s : State) (n : Nat) : Ptn := tget Ptn.init s.ptn n
def portOf (s : State) (n : Nat) : Port := tget Port.init s.net.ports n
def sesOf (s : State) (k : Nat) : Ses := tget Ses.init s.net.sess k
def entryOf (s : State) (ix : Nat) : Entry := tget Entry.init s.req.entries ix
def seqOf (s : State) (sid : Nat) : Seq := tget Seq.init s.seq.seqs sid
def calOf (s : State) (cl : Nat) : CalCl := tget CalCl.init s.cal.cls cl

def modCnv (c : Nat) (f : Canvas → Canvas) (s : State) : State := { s with cnv := tmod Canvas.init s.cnv c f }
def modPtn (n : Nat) (f : Ptn → Ptn) (s : State) : State := { s with ptn := tmod Ptn.init s.ptn n f }
def modPort (n : Nat) (f : Port → Port) (s : State) : State :=
  { s with net := { s.net with ports := tmod Port.init s.net.ports n f } }
def modSes (k : Nat) (f : Ses → Ses) (s : State) : State :=
  { s with net := { s.net with sess := tmod Ses.init s.net.sess k f } }
def modEntry (ix : Nat) (f : Entry → Entry) (s : State) : State :=
  { s with req := { s.req with entries := tmod Entry.init s.req.entries ix f } }
def modSeq (sid : Nat) (f : Seq → Seq) (s : State) : State :=
  { s with seq := { s.seq with seqs := tmod Seq.init s.seq.seqs sid f } }
def modCal (cl : Nat) (f : CalCl → CalCl) (s : State) : State :=
  { s with cal := { s.cal with cls := tmod CalCl.init s.cal.cls cl f } }

/-- The Dolotte bundle whose declarations a canvas shows: the loading one during a load (R562). -/
def cnvBundle (c : Canvas) : Option Bundle :=
  if c.st = 1 then (match c.staged with | some b => some b | none => c.bundle) else c.bundle

def maxOf (l : List Nat) : Nat := l.foldl max 0

def variantsOf (t : Template) : List Variant := [t.v0, t.v1]

/-- The declarations that a step of a template keeps to: those of both variants, since a step in variant 0 may be executed again in
variant 1 (R67, R225). -/
def declOf (t : Template) : Decls :=
  { lanes := min t.v0.decl.lanes t.v1.decl.lanes, npos := min t.v0.decl.npos t.v1.decl.npos
    wmax := min t.v0.decl.wmax t.v1.decl.wmax, ctx := min t.v0.decl.ctx t.v1.decl.ctx, wUs := max t.v0.decl.wUs t.v1.decl.wUs }

/-- Largest declared worst-case step time of a Dolotte bundle (R261, R561). -/
def wStep (b : Bundle) : Nat := maxOf (b.templates.map fun t => (declOf t).wUs)

/-- Declared context of a Dolotte bundle (R329, R561). -/
def maxCtx (b : Bundle) : Nat := maxOf (b.templates.map fun t => (declOf t).ctx)

/-- Largest declared verify width of a Dolotte bundle. -/
def wMax (b : Bundle) : Nat := maxOf (b.templates.map fun t => (declOf t).wmax)

/-! ## Request table views -/

/-- The entries that are held, with their indices. -/
def heldEntries (s : State) : List (Nat × Entry) := s.req.entries.filter fun e => e.2.st != .free

/-- Frames of the near tier that a partition reserves or holds: reservations and live tint versions (R178, R294, R339). -/
def nearUsed (s : State) (n : Nat) : Nat :=
  ((heldEntries s).filter fun e => e.2.ptn == n).foldl (fun a e => a + e.2.resv) 0
    + (ptnOf s n).tints.foldl (fun a t => a + t.2.live.foldl (fun b v => b + v.frames) 0) 0

/-- Frames of the far tier that a partition's paused requests hold (R296). -/
def farUsed (s : State) (n : Nat) : Nat :=
  ((heldEntries s).filter fun e => e.2.ptn == n).foldl (fun a e => a + e.2.far) 0

/-- Request table entries of a partition. -/
def entryUsed (s : State) (n : Nat) : Nat := ((heldEntries s).filter fun e => e.2.ptn == n).length

/-- Live sessions of a role. -/
def sesCount (s : State) (role : Nat) : Nat := (s.net.sess.filter fun e => e.2.live && !e.2.ended && e.2.role == role).length

/-! ## Recorder configuration (R496, R503) -/

/-- A trigger at manufacture: enabled but for REWIND, PEAK and LEASE. -/
def trigInit (t : Nat) : Trig :=
  { en := t != 4 && t != 18 && t != 30, list := 0, holdoff := 0, supp := 0, lastUs := 0, fired := false }

def trigOf (s : State) (t : Nat) : Trig := (tget none s.evr.trigs t).getD (trigInit t)

def listNInit (l : Nat) : Nat := if l = 0 then 4 else 0
def listNOf (s : State) (l : Nat) : Nat := tget (listNInit l) s.evr.listN l

/-- List 0 at manufacture: PWR_STATUS, L_EFF, P_IN, TJ_HOT. -/
def listInit (k : Nat) : Word :=
  if k = 0 then 0x00010004 else if k = 1 then 0x00010008 else if k = 2 then 0x0001000C
  else if k = 3 then 0x00010014 else 0

/-- Entry `i` of list `l`. -/
def listAt (s : State) (l i : Nat) : Word := tget (listInit (48 * l + i)) s.evr.lists (48 * l + i)

/-! ## Faults in a core's window (R413) -/

/-- Records of a core, its engines, arrays and planes in the last 1,000 operating hours, and the faults the record area
could not store. -/
def windowOf (s : State) (core : Nat) : Nat :=
  (s.hist.records.filter fun r =>
    decide (2 ≤ r.level) && coreOf r.unit == core && decide (s.clk.hours ≤ r.hours + 36000000)).length
    + tget 0 s.hist.window core

end Sys2Proof.Machine
end

