-- ==== Sys2Proof/Machine/Regs.lean ====
section
/-! DEFINITION. The register space (R546 to R564): what every register reads as, block by block, from the tables
of R395, R396, R443, R473, R493, R509, R560, R561 and R563. An address with no register reads as `none`. Reading
here has no side effect; the side effects of an access are in `RegAccess.lean`. -/

namespace Sys2Proof.Machine

/-- Low and high words of a 64-bit counter (R556). -/
def lo32 (n : Nat) : Nat := n % 2 ^ 32
def hi32 (n : Nat) : Nat := n / 2 ^ 32 % 2 ^ 32

/-- Bits set for the indices below `n` that pass a test. -/
def maskOf (n : Nat) (p : Nat → Bool) : Nat := (List.range n).foldl (fun a i => a + b2n (p i) * 2 ^ i) 0

/-- A word of an ASCII string held as words (R560). -/
def strWord (l : List Word) (i : Nat) : Nat := (nth 0 l i).toNat

/-- The DEV block (R560). -/
def devReg (s : State) (o : Nat) : Option Nat :=
  if o = 0x000 then some (0x0940 + 0xC31E * 65536)
  else if o = 0x004 then some (s.sec.stepping % 256 + s.sec.paramset % 256 * 256)
  else if 0x008 ≤ o ∧ o ≤ 0x014 then some (strWord s.sec.order ((o - 8) / 4))
  else if 0x018 ≤ o ∧ o ≤ 0x024 then some (strWord s.sec.serialNo ((o - 0x18) / 4))
  else if o = 0x028 then some (s.dev.mstate % 8 + b2n s.sec.claimed * 8 + b2n s.sec.safe * 16)
  else if o = 0x02C then some (maskOf 12 fun n => (ptnOf s n).enabled)
  else if o = 0x030 then some (s.clk.hours % 2 ^ 32)
  else if o = 0x034 then some (s.clk.cycles % 2 ^ 32)
  else if o = 0x038 then some (s.sch.lastStep % 2 ^ 24 + s.sch.lastCv % 4 * 2 ^ 24 + b2n s.sch.lastV * 2 ^ 26)
  else if o = 0x03C then some 0
  else if o = 0x040 then some (b2n s.dev.locate)
  else if o = 0x044 then some (s.dev.opLease % 256 + s.dev.opGrace % 4096 * 256)
  else if o = 0x048 then some (s.dev.budget % 1024)
  else if o = 0x04C then
    some ((heldEntries s).length % 2 ^ 15 + sesCount s 16 % 8 * 2 ^ 16
      + (s.net.sess.filter fun e => e.2.live && !e.2.ended).length % 128 * 2 ^ 24)
  else if o = 0x050 then some s.dev.scratch.toNat
  else if o = 0x058 then some (lo32 s.sch.steps)
  else if o = 0x05C then some (hi32 s.sch.steps)
  else none

/-- The PWR block (R493). -/
def pwrReg (s : State) (o : Nat) : Option Nat :=
  let p := s.pwr
  if o = 0x000 then some (p.plim % 1024 + b2n p.holdReq * 2 ^ 10 + b2n p.flowchk * 2 ^ 11 + p.droopTh % 32 * 2 ^ 12)
  else if o = 0x004 then
    some (p.state % 8 + b2n p.thrott * 8 + b2n p.holdPin * 16 + b2n p.warnPin * 32 + b2n p.intWarn * 64
      + b2n p.tjHold * 128 + b2n p.flowLow * 256 + b2n p.inletHot * 512 + p.hotch % 256 * 2 ^ 16)
  else if o = 0x008 then some (p.lim % 1024)
  else if o = 0x00C then some (p.pin % 65536 + p.iin % 65536 * 65536)
  else if o = 0x010 then some (p.vin % 65536)
  else if o = 0x014 then some (p.tjHot % 4096)
  else if o = 0x018 then some (p.events % 8192)
  else if o = 0x01C then some (p.rounds % 2 ^ 32)
  else if o = 0x020 then some (lo32 p.energy)
  else if o = 0x024 then some (hi32 p.energy)
  else if 0x040 ≤ o ∧ o < 0x060 then
    let w := tget (340, true) p.warn ((o - 0x40) / 4)
    some (w.1 % 4096 + b2n w.2 * 4096)
  else if 0x800 ≤ o ∧ o < 0xC00 then
    let c := tget (0, false) p.chans ((o - 0x800) / 4)
    some (c.1 % 65536 + b2n c.2 * 65536)
  else if 0x1000 ≤ o ∧ o < 0x1620 then some (tget 0 p.stretch ((o - 0x1000) / 4) % 2 ^ 32)
  else none

/-- The valid mark of a filled slot (R499). -/
def validMark (epoch slot : Nat) : Nat := epoch * 65536 + 0x8000 + slot

/-- The words of a record (R498): 64 of them, the CRC over the first 62 and the mark last. -/
def recWords (slot : Nat) (mark : Nat) (r : EvRec) : List Nat :=
  let head := [slot, r.hours, r.cycles, r.trig + r.snap.length * 256 + r.supp * 65536, r.unit,
    r.level + r.code % 256 * 256 + r.detail % 65536 * 65536, r.stepw, r.arg % 2 ^ 32]
  let snap := (List.range 48).map fun i => (nth 0 r.snap i).toNat
  let body := head ++ snap ++ [r.micro] ++ List.replicate 5 0
  body ++ [(crc32c (body.flatMap fun w => leBytes w 4)).toNat, mark]

/-- The words the record window shows at the cursor (R507): an empty slot's mark is 0. -/
def windowWords (s : State) : List Nat :=
  let k := s.evr.cursor
  match tget none s.evr.recs k with
  | none => List.replicate 64 0
  | some r => recWords k (if k < s.evr.count then validMark r.epoch k else 0) r

/-- The EVR block (R509). -/
def evrReg (s : State) (o : Nat) : Option Nat :=
  let e := s.evr
  if o = 0x000 then some (b2n e.arm)
  else if o = 0x004 then
    some (e.count % 2 ^ 15 + b2n e.full * 2 ^ 15 + b2n e.clearing * 2 ^ 16 + b2n (e.uncomm != 0) * 2 ^ 17)
  else if o = 0x008 then some (e.epoch % 65536)
  else if o = 0x00C then some (e.cursor % 16384)
  else if o = 0x010 then some (e.dropped % 2 ^ 32)
  else if o = 0x014 then some (e.lost % 2 ^ 32)
  else if o = 0x018 then some (e.lastCmt % 2 ^ 32)
  else if o = 0x01C then some e.swarg.toNat
  else if 0x100 ≤ o ∧ o < 0x180 then
    let t := trigOf s ((o - 0x100) / 4)
    some (b2n t.en + t.list % 8 * 2 + t.holdoff % 4096 * 16 + t.supp % 65536 * 65536)
  else if 0x200 ≤ o ∧ o < 0x220 then some (listNOf s ((o - 0x200) / 4) % 64)
  else if 0x400 ≤ o ∧ o < 0xA00 then some (listAt s ((o - 0x400) / 192) ((o - 0x400) % 192 / 4)).toNat
  else if 0x1000 ≤ o ∧ o < 0x1100 then some (nth 0 (windowWords s) ((o - 0x1000) / 4) % 2 ^ 32)
  else none

/-- The CAL block (R443). -/
def calReg (s : State) (o : Nat) : Option Nat :=
  let c := s.cal
  if o = 0x000 then some (b2n c.tempEn + c.tdelta % 128 * 2 + c.gapMin % 256 * 256 + c.maxint % 65536 * 65536)
  else if o = 0x004 then some 0
  else if o = 0x008 then
    some (b2n c.gap + b2n (!s.glz.ramps.isEmpty) * 2 + (c.cls.filter fun e => e.2.due != 0).length % 512 * 4)
  else if o = 0x00C then some (c.modCount % 2 ^ 32)
  else if o = 0x010 then some (c.modLast % 2 ^ 32)
  else if o = 0x014 then some (c.discards % 2 ^ 32)
  else if o = 0x018 then some (c.calRemaps % 2 ^ 32)
  else if 0x1000 ≤ o ∧ o < 0x2880 then
    let k := calOf s (clAt ((o - 0x1000) / 16))
    let r := (o - 0x1000) % 16 / 4
    if r = 0 then some (k.count % 2 ^ 32) else if r = 1 then some (k.last % 2 ^ 32)
    else if r = 2 then some (k.tlast % 4096 + k.cause % 16 * 4096 + k.discs % 4 * 65536) else some 0
  else none

/-- The cores a health register ranges over: those whose program cycles are not 0 (R102), with their counts. -/
def worn (s : State) : List (Nat × Nat) := s.hist.cycles.filter fun e => (roleOf s e.1).2 != 3

/-- The core with the highest program-cycle count of those not fenced, with its count; the lowest address of equals. -/
def wearMax (s : State) : Nat × Nat :=
  (worn s).foldl (fun a e => if a.2 < e.2 then e else a) (0, 0)

/-- The last permanent fault record. -/
def lastPerm (s : State) : Option FaultRec := (s.hist.records.filter (·.perm)).getLast?

/-- The Q fields for a query value (R563, R564). -/
def queryReg (s : State) (q : Word) : Nat :=
  let u := q.toNat
  if isCore u then
    (roleOf s u).1 % 32 + (roleOf s u).2 % 8 * 32 + min (tget 0 s.hist.cycles u) (2 ^ 14 - 1) * 256
      + min (windowOf s u) 63 * 2 ^ 24 + 2 ^ 30
  else 31

/-- The HLTH block (R563), with the query value of the path that reads. -/
def hlthReg (s : State) (q : Word) (o : Nat) : Option Nat :=
  let h := s.hist
  if o = 0x000 then some (b2n h.draining + b2n h.inRepl * 2 + h.cause % 16 * 4 + b2n h.toknet * 64)
  else if o = 0x004 then some (b2n h.auditEn + h.frac % 16 * 2 + h.period % 2 ^ 17 * 2 ^ 15)
  else if o = 0x008 then some (roleCount s 3 % 1024 + roleCount s 1 % 1024 * 65536)
  else if o = 0x00C then some (match lastPerm s with | some r => r.unit | none => 0)
  else if o = 0x010 then some (match lastPerm s with | some r => r.level + r.kind * 256 | none => 0)
  else if o = 0x014 then some (match lastPerm s with | some r => r.hours % 2 ^ 32 | none => 0)
  else if o = 0x018 then some (h.faultsT % 2 ^ 32)
  else if o = 0x01C then some (h.faultsP % 2 ^ 32)
  else if o = 0x020 then some (h.ceNear % 2 ^ 32)
  else if o = 0x024 then some (h.ceFar % 2 ^ 32)
  else if o = 0x028 then some (h.ceCache % 2 ^ 32)
  else if o = 0x02C then some (min (s.kv.retired.length + s.kv.retiredFar) (2 ^ 22 - 1))
  else if o = 0x030 then some (h.skips % 2 ^ 32)
  else if o = 0x034 then some (h.diffs % 2 ^ 32)
  else if o = 0x038 then some (h.loneCnt % 2 ^ 32)
  else if o = 0x03C then some (min (wearMax s).2 (2 ^ 14 - 1))
  else if o = 0x040 then some (wearMax s).1
  else if o = 0x048 then some (lo32 (max h.seqA h.seqB))
  else if o = 0x04C then some (hi32 (max h.seqA h.seqB))
  else if o = 0x050 then some (h.records.length % 2 ^ 17)
  else if o = 0x080 then some q.toNat
  else if o = 0x084 then some (queryReg s q)
  else if 0x1000 ≤ o ∧ o < 0x1620 then
    let cl := clAt ((o - 0x1000) / 4)
    some ((coresIn s cl 1).length % 4 + b2n (!(coresIn s cl 2).isEmpty) * 4
      + b2n (h.fences.any fun f => f.ph != 0 && clusterOf f.core == cl) * 8 + (coresIn s cl 3).length % 4 * 16
      + min (maxOf ((coresOf cl).map fun c => tget 0 h.cycles c)) (2 ^ 14 - 1) * 256)
  else none

/-- The CNV block of a canvas (R561). -/
def cnvReg (s : State) (c : Nat) (o : Nat) : Option Nat :=
  let v := cnvOf s c
  let b := if v.st = 0 then none else cnvBundle v
  let ofB (f : Bundle → Nat) : Nat := match b with | some x => f x | none => 0
  if o = 0x000 then some (b2n v.enable + b2n v.sketchEn * 2)
  else if o = 0x004 then
    some (v.st % 8 + b2n v.await * 8 + b2n v.floor * 16 + ofB (fun x => b2n x.sketch) * 32
      + ofB (fun x => b2n (x.heads != 0)) * 64 + b2n v.fence * 128 + b2n v.neighbour * 256
      + ofB (fun x => (x.templates.length - 1) % 16) * 2 ^ 12 + ofB (fun x => wMax x % 16) * 2 ^ 16)
  else if o = 0x008 then some (v.watchdog % 1024)
  else if o = 0x00C then some (v.admWait % 1024 + v.loadDrain % 1024 * 65536)
  else if o = 0x010 then some (v.floorLeft % 8192)
  else if o = 0x014 then some (ofB wStep % 2 ^ 20)
  else if o = 0x018 then some (ofB (fun x => x.images.length) % 2 ^ 32)
  else if o = 0x01C then
    some (maskOf 12 (fun n => (ptnOf s n).enabled && (ptnOf s n).canvas == c)
      + (if v.st = 0 then 0 else v.ownerGen % 65536) * 65536)
  else if o = 0x020 then some (lo32 v.steps)
  else if o = 0x024 then some (hi32 v.steps)
  else if o = 0x028 then some (v.rewinds % 2 ^ 32)
  else if o = 0x02C then some (v.reexecs % 2 ^ 32)
  else if o = 0x030 then some (v.abandons % 2 ^ 32)
  else if o = 0x034 then some (v.d16Tiles % 2 ^ 32)
  else if o = 0x038 then some (v.floorRises % 2 ^ 32)
  else if o = 0x03C then some (ofB maxCtx % 2 ^ 20)
  else if 0x040 ≤ o ∧ o < 0x080 then some (ofB fun x => x.hash / 2 ^ (8 * (o - 0x40)) % 2 ^ 32)
  else none

/-- The register set of a port (R395). -/
def portReg (s : State) (n : Nat) (o : Nat) : Option Nat :=
  let p := portOf s n
  let paths := s.net.sess.foldl (fun a e =>
    a + b2n (e.2.live && e.2.pathA.open_ && e.2.pathA.port == n) + b2n (e.2.live && e.2.pathB.open_ && e.2.pathB.port == n)) 0
  if o = 0x000 then
    some (b2n p.enable + b2n p.macsec * 2 + b2n p.ipv4En * 4 + b2n p.slaac * 8 + b2n p.pfcEn * 16 + p.pfcPrio % 8 * 32)
  else if o = 0x004 then some (b2n p.link + b2n p.macUp * 2 + b2n p.nbrchg * 4 + paths % 256 * 256)
  else if o = 0x008 then some (lo32 (tget 0 s.sec.macs n))
  else if o = 0x00C then some (tget 0 s.sec.macs n / 2 ^ 32 % 2 ^ 16)
  else if 0x010 ≤ o ∧ o < 0x020 then some (p.ipv6 / 2 ^ (8 * (o - 0x10)) % 2 ^ 32)
  else if o = 0x020 then some (p.plen6 % 256)
  else if o = 0x024 then some (p.ipv4 % 2 ^ 32)
  else if o = 0x028 then some (p.plen4 % 64)
  else if o = 0x02C then some (p.udp % 65536)
  else if o = 0x030 then some (p.mgmtVid % 4096)
  else if o = 0x040 then some (p.fecCorr % 2 ^ 32)
  else if o = 0x044 then some (p.fecUnc % 2 ^ 32)
  else if o = 0x048 then some (p.rxDrop % 2 ^ 32)
  else none

/-- SHA-512 digest word of the owner key (R473); 0 when the module is unclaimed. -/
def ownerHash (s : State) (i : Nat) : Nat :=
  if s.sec.claimed then leNat (((Config.sha512 (leBytes s.sec.ownerKey 512)).drop (4 * i)).take 4) else 0

/-- The SEC block (R473). -/
def secReg (s : State) (o : Nat) : Option Nat :=
  let c := s.sec
  if o = 0x000 then
    some (b2n c.claimed + b2n c.safe * 2 + c.cause % 16 * 4 + b2n c.cfgConf * 64 + b2n c.recovery * 128)
  else if o = 0x004 then some (c.ownerGen % 65536 + c.scrGen % 65536 * 65536)
  else if o = 0x008 then some (maskOf 12 fun n => (ptnOf s n).key != 0)
  else if 0x010 ≤ o ∧ o < 0x030 then some (ownerHash s ((o - 0x10) / 4))
  else if o = 0x030 then some (c.boots % 2 ^ 32)
  else if o = 0x034 then some (c.attests % 2 ^ 32)
  else if o = 0x038 then some (c.hsFail % 2 ^ 32)
  else if o = 0x03C then some (c.sigFail % 2 ^ 32)
  else none

/-- The block of a partition (R396). -/
def ptnReg (s : State) (n : Nat) (o : Nat) : Option Nat :=
  let p := ptnOf s n
  if o = 0x000 then
    some (b2n p.enable + b2n p.sealed * 2 + p.canvas % 4 * 4 + p.kvfmt % 2 * 16 + p.prioMin % 4 * 32)
  else if o = 0x004 then
    some (b2n p.enabled + b2n (p.enabled && (cnvOf s p.canvas).st != 2) * 2 + sesCount s n % 16 * 4)
  else if o = 0x008 then some (p.nearQ % 2 ^ 21)
  else if o = 0x00C then some (p.farQ % 2 ^ 22)
  else if o = 0x010 then some (nearUsed s n % 2 ^ 21)
  else if o = 0x014 then some (farUsed s n % 2 ^ 22)
  else if o = 0x018 then some (p.share % 512)
  else if o = 0x01C then some (p.entryMax % 2 ^ 15 + entryUsed s n % 2 ^ 15 * 65536)
  else if o = 0x020 then some (p.lease % 256 + p.grace % 4096 * 256)
  else if o = 0x024 then some (p.idleThr % 2 ^ 17)
  else if o = 0x028 then some (p.coal % 1024 + b2n p.evqOvf * 65536)
  else if o = 0x02C then some (p.vidA % 4096 + p.pcpA % 8 * 4096 + p.vidB % 4096 * 65536 + p.pcpB % 8 * 2 ^ 28)
  else if o = 0x030 then some (maskOf 16 fun t => (tget TintSlot.init p.tints t).live.any (·.current))
  else if o = 0x038 then some (lo32 p.tokens)
  else if o = 0x03C then some (hi32 p.tokens)
  else none

/-- The blocks of R546. -/
inductive Block where
  | dev | pwr | evr | cal | hlth | cnv (c : Nat) | port (n : Nat) | sec | ptn (n : Nat)
  deriving DecidableEq, Repr

/-- The block and the offset of an address (R546); the alias of R548 is resolved before. -/
def blockOf (a : Nat) : Option (Block × Nat) :=
  if a < 0x100 then some (.dev, a)
  else if 0x10000 ≤ a ∧ a < 0x11620 then some (.pwr, a - 0x10000)
  else if 0x20000 ≤ a ∧ a < 0x21100 then some (.evr, a - 0x20000)
  else if 0x30000 ≤ a ∧ a < 0x32880 then some (.cal, a - 0x30000)
  else if 0x40000 ≤ a ∧ a < 0x41620 then some (.hlth, a - 0x40000)
  else if 0x50000 ≤ a ∧ a < 0x54000 ∧ a % 0x1000 < 0x100 then some (.cnv ((a - 0x50000) / 0x1000), a % 0x1000)
  else if 0x60000 ≤ a ∧ a < 0x68000 ∧ a % 0x1000 < 0x50 then some (.port ((a - 0x60000) / 0x1000), a % 0x1000)
  else if 0x70000 ≤ a ∧ a < 0x70040 then some (.sec, a - 0x70000)
  else if 0x100000 ≤ a ∧ a < 0x1C0000 ∧ a % 0x10000 < 0x40 then some (.ptn ((a - 0x100000) / 0x10000), a % 0x10000)
  else none

/-- The value of a register, by block. -/
def blockReg (s : State) (q : Word) : Block → Nat → Option Nat
  | .dev, o => devReg s o
  | .pwr, o => pwrReg s o
  | .evr, o => evrReg s o
  | .cal, o => calReg s o
  | .hlth, o => hlthReg s q o
  | .cnv c, o => cnvReg s c o
  | .port n, o => portReg s n o
  | .sec, o => secReg s o
  | .ptn n, o => ptnReg s n o

/-- The value of the register at a 4-byte-aligned address, with the query value of the path that reads; no value where
the address has no register. -/
def regVal (s : State) (q : Word) (a : Nat) : Option Nat :=
  if a % 4 = 0 then (match blockOf a with | some (b, o) => blockReg s q b o | none => none) else none

/-- The word a snapshot takes of an address (R501): 0 where nothing is mapped. -/
def snapWord (s : State) (a : Word) : Word :=
  BitVec.ofNat 32 ((regVal s s.hist.sbQuery a.toNat).getD 0)

end Sys2Proof.Machine
end

