-- ==== Sys2Proof/Machine/Ops.lean ====
section
/-! DEFINITION. The operations that commands of every family share: drawing a free value, the event recorder's
queue (R496 to R505), messages and events to the host (R384, R388 to R392), the module state of R380, unit history
(R420 to R423), fault records and their class (R412, R413), and the drain decision (R417, R418). -/

namespace Sys2Proof.Machine

/-! ## Free values and the clock -/

/-- The next free value, and the module with its counter advanced (log entry 1). -/
def draw (s : State) : BitVec 64 × State := (Config.freeValue s.free, { s with free := s.free + 1 })

/-- Operating hours count in every power state but OFF and STANDBY and saturate (R500). -/
def tickClk (counting : Bool) (c : ClkSt) : ClkSt :=
  if counting then
    (if c.micro + 1 < 100000 then { c with us := c.us + 1, micro := c.micro + 1 }
     else { c with us := c.us + 1, micro := 0, hours := satAdd 32 c.hours 1 })
  else { c with us := c.us + 1 }

/-! ## The event recorder's queue -/

/-- The STEP, CANVAS, STEPV and LIST bits of a record (R498). -/
def stepBits (s : State) (list : Nat) : Nat :=
  (match s.sch.cur with
    | some c => c.num % 2 ^ 24 + c.canvas % 4 * 2 ^ 24 + 2 ^ 26
    | none => s.sch.lastStep % 2 ^ 24 + s.sch.lastCv % 4 * 2 ^ 24 + b2n s.sch.lastV * 2 ^ 26) + list % 8 * 2 ^ 27

/-- The record an event makes at its detection, with its snapshot (R498, R500, R501). -/
def mkRec (t unit level code detail arg : Nat) (s : State) : EvRec :=
  let tr := trigOf s t
  { hours := s.clk.hours, cycles := s.clk.cycles, trig := t, supp := tr.supp, unit := unit, level := level,
    code := code, detail := detail, stepw := stepBits s tr.list, arg := arg,
    snap := (List.range (listNOf s tr.list)).map fun i => snapWord s (listAt s tr.list i),
    micro := s.clk.micro, epoch := 0 }

/-- An event of trigger `t` (R496, R497, R502, R504): suppressed within the hold-off, dropped when the recorder is
full, lost when its queue holds 64, queued otherwise. -/
def fireArg (t unit level code detail arg : Nat) (s : State) : State :=
  let e := s.evr
  let tr := trigOf s t
  if !e.arm || !tr.en then s
  else if tr.holdoff != 0 && tr.fired && decide (s.clk.us < tr.lastUs + 1000 * tr.holdoff) then
    { s with evr := { e with trigs := tput none e.trigs t (some { tr with supp := satAdd 16 tr.supp 1 }) } }
  else if e.full && !e.clearing then { s with evr := { e with dropped := satAdd 32 e.dropped 1 } }
  else if 64 ≤ e.queue.length then { s with evr := { e with lost := satAdd 32 e.lost 1 } }
  else
    { s with evr := { e with queue := e.queue ++ [mkRec t unit level code detail arg s]
                             trigs := tput none e.trigs t (some { tr with supp := 0, lastUs := s.clk.us, fired := true }) } }

def fire (t unit level code detail : Nat) (s : State) : State := fireArg t unit level code detail 0 s

/-- A commit of the recorder to flash: the records held and a header with EPOCH and COUNT; it waits while a clear runs
(R505). -/
def evrCommit (s : State) : State :=
  let e := s.evr
  if e.clearing then { s with evr := { e with cmtWait := true } }
  else { s with evr := { e with fCount := e.count, fEpoch := e.epoch, fRecs := e.recs, uncomm := 0,
                                lastCmt := s.clk.hours, dueUs := s.clk.us, cmtWait := false } }

/-! ## Messages to the host -/

/-- A message put at the end of a session's outgoing queue (R377, R384); a closed session takes none (R372). -/
def post (k : Nat) (m : Msg) (s : State) : State :=
  if (sesOf s k).closed || (sesOf s k).sid != k then s
  else modSes k (fun e => { e with queue := e.queue ++ [m] }) s

/-- The reply to a command (R384, R391): the command is no longer outstanding on its queue (R383). -/
def replyFull (h : Hdr) (status arg handle : Nat) (body : List Byte) (s : State) : State :=
  post h.ses { ty := 0x80, queue := h.queue, tag := h.tag, handle := handle, status := status, arg := arg,
               body := body, evN := 0, cqe := none } s

def reply (h : Hdr) (status : Nat) (s : State) : State := replyFull h status 0 h.handle [] s

/-- A reply to a command that was left outstanding: it leaves its queue's count. -/
def replyLate (h : Hdr) (status arg handle : Nat) (body : List Byte) (s : State) : State :=
  replyFull h status arg handle body
    (modSes h.ses (fun e => { e with cmds := tmod 0 e.cmds h.queue (· - 1) }) s)

/-- A command stays outstanding on its submission queue until its late reply (R383). -/
def leaveOut (h : Hdr) (s : State) : State :=
  modSes h.ses (fun e => { e with cmds := tmod 0 e.cmds h.queue (· + 1) }) s

/-- Live sessions of a partition, in order. -/
def liveSes (s : State) (n : Nat) : List Nat := (s.net.sess.filter fun e => e.2.live && !e.2.ended && e.2.role == n).map (·.1)

/-! ## Events to partitions (R388, R389) -/

/-- An event as its 32 bytes (R388). -/
def eventBytes (e : Event) : List Byte :=
  leBytes e.ty 2 ++ leBytes e.flags 2 ++ leBytes e.unit 4 ++ leBytes e.level 1
    ++ padTo 23 (e.args.flatMap fun a => leBytes a 4)

/-- Sends every pending event of a partition in one EVENT message to each live session; with no live session the
events stay pending (log entry 21). -/
def flushEvents (n : Nat) (s : State) : State :=
  let p := ptnOf s n
  let evs := p.events.take 256
    ++ (if p.lost = 0 then [] else [{ ty := 15, flags := 0, unit := 0, level := 0, args := [p.lost] }])
  match liveSes s n with
  | [] => s
  | k :: ks =>
    if evs.isEmpty then modPtn n (fun q => { q with coalUs := none }) s else
    let msg (c : Nat) : Msg :=
      { ty := 0x83, queue := 0, tag := 0, handle := 0, status := 0, arg := 0,
        body := padTo 16 (leBytes evs.length 2) ++ evs.flatMap eventBytes, evN := c, cqe := none }
    let s1 := ks.foldl (fun t j => post j (msg 0) t) (post k (msg evs.length) s)
    modPtn n (fun q => { q with events := [], lost := 0, unacked := q.unacked + evs.length, coalUs := none }) s1

/-- An event for a partition: lost beyond 256 awaiting acknowledgement, sent at once with COAL_US 0, and otherwise sent
when the timer that the first one starts expires (R389). -/
def raise (n : Nat) (e : Event) (s : State) : State :=
  let p := ptnOf s n
  if 256 ≤ p.unacked + p.events.length then modPtn n (fun q => { q with lost := satAdd 32 q.lost 1, evqOvf := true }) s
  else
    let s1 := modPtn n (fun q => { q with events := q.events ++ [e], coalUs := some (q.coalUs.getD s.clk.us) }) s
    if p.coal = 0 then flushEvents n s1 else s1

def raiseAll (ns : List Nat) (e : Event) (s : State) : State := ns.foldl (fun t n => raise n e t) s

def allPtns : List Nat := List.range 12
def enabledPtns (s : State) : List Nat := allPtns.filter fun n => (ptnOf s n).enabled

/-- Partitions bound to a canvas: the enabled ones whose CANVAS names it. -/
def boundTo (s : State) (c : Nat) : List Nat := (enabledPtns s).filter fun n => (ptnOf s n).canvas == c

/-- A CANVAS event: the canvas and its new STATE, on every partition bound to it (R388). -/
def canvasEvent (c what : Nat) (s : State) : State :=
  raiseAll (boundTo s c) { ty := 4, flags := what, unit := 0, level := 0, args := [c] } s

/-- A HEALTH event about a unit on the partitions of one canvas. -/
def healthCanvas (c unit level what : Nat) (s : State) : State :=
  raiseAll (boundTo s c) { ty := 3, flags := what, unit := unit, level := level, args := [c] } s

/-- Whether a canvas uses a cluster: a plane image of it lies there, or a sequencer of one of its templates does. -/
def usesCluster (b : Bundle) (cl : Nat) : Bool :=
  b.images.any (fun m => clusterOf m.array == cl) ||
  b.templates.any fun t => (t.v0.tables ++ t.v1.tables).any fun q => sidCluster q.sid == cl

/-- Canvases with a position in a cluster (R224, R414). -/
def canvasesOn (s : State) (cl : Nat) : List Nat :=
  (List.range 4).filter fun c => match (cnvOf s c).bundle with | some b => usesCluster b cl | none => false

/-- A HEALTH event on every canvas that a unit of a cluster touches. -/
def healthUnit (unit level what : Nat) (s : State) : State :=
  (canvasesOn s (clusterOf unit)).foldl (fun t c => healthCanvas c unit level what t) s

/-! ## Module state (R380, trigger STATE) -/

/-- A change of the module state of R380, recorded under trigger 0 (R496). -/
def setMstate (n : Nat) (s : State) : State :=
  if s.dev.mstate = n then s
  else fire 0 0 0 n s.dev.mstate { s with dev := { s.dev with mstate := n } }

/-! ## Unit history (R420 to R423) -/

/-- What a copy written now holds. -/
def uhNow (h : HistSt) : UhCopy := { recs := h.records, remap := h.remap, cycles := h.cycles, repl := h.inRepl, cause := h.cause }

/-- A new copy with a sequence number one above the highest, written over the other copy (R422). -/
def uhWrite (s : State) : State :=
  let h := s.hist
  let n := max h.seqA h.seqB + 1
  let h1 := { h with dirty := false, lastWr := s.clk.us }
  { s with hist := if h.seqA ≤ h.seqB then { h1 with copyA := uhNow h, seqA := n } else { h1 with copyB := uhNow h, seqB := n } }

/-- A stored record takes its place in the record area; a full area first drops the oldest transient record outside every
window, else the oldest transient one, and stores nothing when it holds none (R421). -/
def storeRecord (r : FaultRec) (s : State) : State :=
  let h := s.hist
  if h.records.length < 65536 then { s with hist := { h with records := h.records ++ [r], dirty := true } }
  else
    let old := findIx (fun q => !q.perm && decide (q.hours + 36000000 < s.clk.hours)) h.records 0
    let any := findIx (fun q => !q.perm) h.records 0
    match old <|> any with
    | some i => { s with hist := { h with records := h.records.eraseIdx i ++ [r], dirty := true } }
    | none => { s with hist := { h with window := tmod 0 h.window (coreOf r.unit) (· + 1), dirty := true } }

/-! ## Audit copies (R407, R564) -/

/-- The core that holds a cluster's audit copy. -/
def auditSpare (s : State) (cl : Nat) : Option Nat := (coresIn s cl 2).head?

def auditOf (s : State) (cl : Nat) : AuditCl := tget AuditCl.init s.hist.audit cl
def modAudit (cl : Nat) (f : AuditCl → AuditCl) (s : State) : State :=
  { s with hist := { s.hist with audit := tmod AuditCl.init s.hist.audit cl f } }

/-- A core holds the weights of no position any more. -/
def clearPos (core : Nat) (s : State) : State :=
  { s with
    kv := { s.kv with master := tkeep (fun k => coreOf k != core) s.kv.master }
    glz := { s.glz with outl := tkeep (fun k => coreOf k != core) s.glz.outl
                        expect := tkeep (fun k => coreOf (k / 64) != core) s.glz.expect }
    arr := { s.arr with rows := tkeep (fun k => coreOf k != core) s.arr.rows } }

/-- A plane in the middle of a pass over its rows. -/
def inPass (r : RowProg) : Bool := r.row != 0 || r.iters != 0

/-- A plane of a core is in the middle of a pass. -/
def coreInPass (s : State) (core : Nat) : Bool := s.arr.rows.any fun e => coreOf e.1 == core && inPass e.2

/-- A clear of AUDIT_EN returns every audit spare (R564), at a step boundary (R224), once its plane is done; a cluster where audit had stopped takes part again when it is
next set. -/
def auditOff (s : State) : State :=
  if s.sch.cur.isSome || s.hist.auditEn then s
  else s.hist.audit.foldl (fun t e =>
    let t1 := match auditSpare t e.1 with | some c => clearPos c (setRole c 31 1 t) | none => t
    if (auditSpare t e.1).any (coreInPass t) then t else modAudit e.1 (fun x => { AuditCl.init with draws := x.draws }) t1) s

/-! ## Fences due (R413 to R416) -/

/-- Cores of a cluster that can still take a fenced core's place, less the fences already due there (R414, R416). -/
def sparesLeft (s : State) (cl : Nat) : Nat :=
  (coresIn s cl 1).length + (coresIn s cl 2).length
    - (s.hist.fences.filter fun f => f.ph == 0 && clusterOf f.core == cl && (roleOf s f.core).2 != 4).length

/-- A core with a fence due, or fenced, is never written again (R93, R416). -/
def barred (s : State) (core : Nat) : Bool := (roleOf s core).2 == 3 || s.hist.fences.any (·.core == core)

/-! ## Tokens of the scheduler core, abandoning, and the end of a live update -/

/-- A plane of the token network carries a token from one unit to another: no hop between their dies has failed on it (R26, R28). -/
def planeCarries (s : State) (plane src dest : Nat) : Bool :=
  s.seq.planeBad.isEmpty || (hopsOf (sidDie src) (sidDie dest)).all fun h => !s.seq.planeBad.contains (plane, h)

/-- A token put on the planes that carry it (R28). -/
def putToken (dest : Nat) (t : Token) (s : State) : State :=
  { s with seq := { s.seq with sent := s.seq.sent
      ++ (([0, 1].filter fun p => planeCarries s p t.src dest).map fun p => (dest, { t with plane := p })) } }

/-- A token sent on both planes with a step tag of its own (R28, R232). -/
def sendTagged (src kind arg step att dest : Nat) (s : State) : State :=
  let q := seqOf s src
  let t : Token := { kind := kind, att := att % 16, step := step % 2 ^ 24, src := src, seq := q.sendSeq % 2 ^ 15,
                     arg := arg, plane := 0 }
  putToken dest t (modSeq src (fun e => { e with sendSeq := (e.sendSeq + 1) % 2 ^ 15 }) s)

/-- A token of the scheduler core to every participant of the step in flight. -/
def schedToAll (kind arg att : Nat) (s : State) : State :=
  match s.sch.cur with
  | some c => c.parts.foldl (fun t d => sendTagged schedSid kind arg c.num att d t) s
  | none => s

/-- Changes the step in flight. -/
def modCur (f : StepRec → StepRec) (s : State) : State :=
  { s with sch := { s.sch with cur := s.sch.cur.map f } }

/-- The step in flight at its next attempt, which every participant must quiesce for. -/
def nextAtt (seg : Nat) (c : StepRec) : StepRec :=
  { c with att := c.att + 1, rewind := some seg, gather := none, quiet := [], done := [], cmtReady := false }

/-- The same attempt begun as a new execution: its count of rewinds and its tile marks start again. -/
def newExec (c : StepRec) : StepRec := { c with rewinds := 0, envFail := [], d16Tile := [], verdicts := [] }

/-- Audit samples of results that will not be committed, those of a step's segments from `seg` on, leave their queues (R408). -/
def dropSamples (step seg : Nat) (s : State) : State :=
  { s with hist := { s.hist with audit := tmapv AuditCl.init (fun a =>
      { a with queue := a.queue.filter fun r => !(r.step == step && decide (seg ≤ r.stroke.seg)) }) s.hist.audit } }

/-- ABANDON (R262): counted on its canvas; the step executes again from segment 0, or ends once every participant is quiet. -/
def sendAbandon (again : Bool) (s : State) : State :=
  match s.sch.cur with
  | some c =>
    let s1 := modCnv c.canvas (fun v => { v with abandons := satAdd 32 v.abandons 1 }) (dropSamples c.num 0 s)
    schedToAll 12 0 (c.att + 1) (modCur (fun k => { newExec (nextAtt 0 k) with abandoning := !again, redo := false }) s1)
  | none => s

/-- A live update ends with the old image (R455, R458): its reply carries outcome 4, and for SCH and CCC the step in flight is abandoned without
re-execution. -/
def updRevert (s : State) : State :=
  match s.sec.upd with
  | none => s
  | some u =>
    let s1 := if (u.cls = 2 ∨ u.cls = 4) ∧ !s.sec.updNow then sendAbandon false s else s
    let s2 := fire 24 0 0 4 u.cls { s1 with sec := { s1.sec with upd := none, updNow := false } }
    replyLate u.h 8 0 u.h.handle (leBytes 4 4) s2

/-- The drain decision (R351, R418): unit history and the recorder are committed, HEALTH and MODULE events are raised on
every partition, and the module shows DRAINING. -/
def drainDecision (cause unit level : Nat) (s : State) : State :=
  if s.hist.draining || s.hist.inRepl then s
  else
    let s0 := updRevert s
    let s1 := { s0 with hist := { s0.hist with draining := true, drainUs := s.clk.us, cause := cause } }
    let s2 := fire 3 unit level 0 cause s1
    let s3 := raiseAll allPtns { ty := 3, flags := 0, unit := unit, level := level, args := [cause] } s2
    let s4 := raiseAll allPtns { ty := 5, flags := 1, unit := 0, level := 0, args := [cause] } s3
    evrCommit (setMstate 3 (uhWrite s4))

/-- A core becomes due for a fence; with no spare left the module drains (R413, R414, R416, R417). A fence behind another of its cluster
makes a record (R416). -/
def addFence (core : Nat) (s : State) : State :=
  let cl := clusterOf core
  if sparesLeft s cl = 0 then drainDecision 1 core 2 s
  else
    let f : Fence := { core := core, spare := 0, ph := 0, us := s.clk.us }
    let s1 := { s with hist := { s.hist with fences := s.hist.fences ++ [f] } }
    if s.hist.fences.any fun g => g.ph != 0 && clusterOf g.core == cl then fire 29 cl 1 0 (clNum cl) s1 else s1

/-- A core that holds no position goes to STATE 3: at once between steps, at the boundary otherwise, since a remap table changes only there
(R224, R416). -/
def retireSpare (core : Nat) (s : State) : State :=
  if s.sch.cur.isNone then setRole core 31 3 s
  else { s with hist := { s.hist with fences := s.hist.fences ++ [{ core := core, spare := 0, ph := 0, us := s.clk.us }] } }

/-- A spare that fails while it is written is fenced, and the fence it served is due again, with the next spare (R415). -/
def nextSpare (core : Nat) (s : State) : State :=
  let s1 := retireSpare core { s with hist := { s.hist with fences := s.hist.fences.map fun f =>
    if f.spare == core && f.ph != 0 then { f with ph := 0, spare := 0, us := s.clk.us } else f } }
  if ((coresIn s1 (clusterOf core) 1 ++ coresIn s1 (clusterOf core) 2).filter fun c => !barred s1 c).isEmpty then drainDecision 1 core 2 s1
  else s1

/-- A core with a permanent fault is fenced (R413 to R416): a core that holds no position as `retireSpare` says, a spare being written as
`nextSpare` says, any other core at a step boundary. -/
def fenceDue (core : Nat) (s : State) : State :=
  let st := (roleOf s core).2
  if st = 3 || s.hist.fences.any (·.core == core) then s
  else if s.hist.fences.any fun f => f.spare == core && f.ph != 0 then nextSpare core s
  else if st = 1 || st = 2 then retireSpare core s
  else addFence core s

/-- The drain cause of a permanent fault of a unit outside the cores (R417, R563). -/
def drainCauseOf (unit level : Nat) : Nat :=
  if 38 ≤ dieOf unit then 2 else if 34 ≤ dieOf unit then 3
  else if 24 ≤ dieOf unit ∧ dieOf unit < 32 then (if level = 0 then 5 else 7)
  else if 32 ≤ dieOf unit then 7 else 6

/-- Kinds whose faults are always permanent (R413); kind 7 is permanent after recurrence, which `recurs` says. -/
def alwaysPermanent (kind : Nat) : Bool := [2, 8, 9, 10, 12].contains kind

/-- The class of a fault when it is recorded (R413). -/
def faultPermanent (unit level kind : Nat) (recurs : Bool) (s : State) : Bool :=
  alwaysPermanent kind || recurs || (decide (2 ≤ level) && decide (3 ≤ windowOf s (coreOf unit) + 1))

/-- Records a fault (R412, R413, R421): its class, its record, its counter and its FAULT event; a permanent fault commits
unit history and fences its core, or drains the module when its unit cannot be fenced. -/
def recordFault (unit level kind detail : Nat) (recurs : Bool) (s : State) : State :=
  let perm := faultPermanent unit level kind recurs s
  let suspect := kind == 5 || kind == 6 || kind == 11
  let r : FaultRec := { unit := unit, level := level, perm := perm, suspect := suspect, kind := kind, detail := detail,
                        hours := s.clk.hours, cycles := s.clk.cycles }
  let s1 := storeRecord r s
  let s2 := { s1 with hist := { s1.hist with faultsT := if perm then s1.hist.faultsT else satAdd 32 s1.hist.faultsT 1
                                             faultsP := if perm then satAdd 32 s1.hist.faultsP 1 else s1.hist.faultsP } }
  let s3 := fire 1 unit level kind detail s2
  let s4 := if suspect then healthUnit unit level kind s3 else s3
  if !perm then s4
  else if 2 ≤ level then fenceDue (coreOf unit) (uhWrite s4)
  else drainDecision (drainCauseOf unit level) unit level (uhWrite s4)

/-! ## Handles (R323) -/

def handleOf (ptn ix gen : Nat) : Nat := ptn * 2 ^ 28 + ix * 2 ^ 14 + gen
def hIndex (h : Nat) : Nat := fld h 14 14
def hGen (h : Nat) : Nat := fld h 0 14
def hPtn (h : Nat) : Nat := fld h 28 4

/-- The handle of an entry. -/
def entryHandle (ix : Nat) (e : Entry) : Nat := handleOf e.ptn ix e.gen

end Sys2Proof.Machine
end

