-- ==== Sys2Proof/Machine/Operands.lean ====
section
/-! DEFINITION. Operand forms of the sequencer instructions: whether a sequencer issues (R187, R218, R219, R245), the
current lane and position (R192), the address spaces and strides (R193, R194), and the reading and writing of B4
blocks, tiles and vectors in them (R116, R120, R134, R194). -/

namespace Sys2Proof.Machine

/-! ## Lanes and positions of the step -/

/-- Lane descriptors of the step in flight that a sequencer's lane list names (R228, R229). -/
def lanesOf (s : State) (q : Seq) : List Lane :=
  match s.sch.cur with
  | some c => q.lanes.filterMap fun k => c.lanes.find? (·.lane == k)
  | none => []

/-- The lane and position inside the lane of global position `r` (R192). -/
def posAt : List Lane → Nat → Option (Lane × Nat)
  | [], _ => none
  | l :: ls, r => if r < l.npos then some (l, r) else posAt ls (r - l.npos)

/-- The current lane and position of an issue (R192): lane `r`, position `r` of all lanes, or the first lane's first. -/
def curLane (s : State) (i : Iss) : Option (Lane × Nat) :=
  let ls := lanesOf s (seqOf s i.sid)
  if i.reps = 1 then (ls[i.r]?).map fun l => (l, 0)
  else if i.reps = 2 then posAt ls i.r
  else ls.head?.map fun l => (l, 0)

/-- Verify width of the current lane; 1 when no step is in flight. -/
def curW (s : State) (i : Iss) : Nat := match curLane s i with | some (l, _) => l.w | none => 1

/-- The lane number of the current lane. -/
def curLaneNo (s : State) (i : Iss) : Nat := match curLane s i with | some (l, _) => l.lane | none => 0

/-- Positions an instruction with a VP bit covers. -/
def vpList (s : State) (i : Iss) (vp : Nat) : List Nat := if vp = 0 then [0] else List.range (curW s i)

/-! ## The sequencer's tables (R193, R225) -/

/-- The variant of the step template a sequencer runs. -/
def variantOf (s : State) (q : Seq) : Option Variant :=
  match (cnvOf s q.canvas).bundle with
  | some b => (b.templates[q.tmpl]?).map fun t => if q.var = 1 then t.v1 else t.v0
  | none => none

/-- The declared maximum verify width of the variant a sequencer runs (R225); 8 with none. -/
def declaredW (s : State) (sid : Nat) : Nat :=
  match variantOf s (seqOf s sid) with
  | some v => v.decl.wmax
  | none => 8

/-- The sequencer table that a sequencer runs. -/
def tableOf (s : State) (sid : Nat) : Option SeqTable :=
  match variantOf s (seqOf s sid) with
  | some v => v.tables.find? (·.sid == tableSid s sid)
  | none => none

/-- The recorded reduction order of a core's tile, or of a scalar register (key `srOrder`; R137, R202, R225): the cores named after this one. -/
def redOrder (s : State) (sid tile : Nat) : List Nat :=
  match variantOf s (seqOf s sid) with
  | some v => tget [] v.redOrd (tableSid s sid * 2048 + tile)
  | none => []

/-- The place of scalar register SR n among the reduction orders of a core. -/
def srOrder (n : Nat) : Nat := 1024 + n % 8

/-! ## Issue (R187, R189) -/

/-- A sequencer that takes part in steps: an active core, or an attention or head sequencer (R223). -/
def takesPart (s : State) (sid : Nat) : Bool := decide (32 ≤ sidUnit sid) || (roleOf s (sidCore sid)).2 == 0

/-- The execution queues an instruction goes through (R189): 1 ACC, 2 GLAZE, 4 the AB queue, 8 the checks that WAITM bit CHKQ waits for. The input side of
GLR goes with its bundle's stroke, and ACN and GCOL bind to their bundle's stroke and APRO; none of them waits. -/
def opClass : Instr → Nat
  | .aclr _ _ _ => 5
  | .apro _ _ _ _ _ => 5
  | .awid _ _ _ _ _ _ => 5
  | .rsum _ _ _ => 5
  | .rmax _ _ => 5
  | .rmin _ _ => 5
  | .rarg _ _ => 5
  | .rand _ _ => 5
  | .ror _ _ => 5
  | .rxor _ _ => 5
  | .rcnt _ _ => 5
  | .gout _ _ => 6
  | .gact _ _ => 6
  | .glr _ f => if f.ph = 0 then 0 else 6
  | .gtnt _ f => if f.ph = 0 then 2 else 6
  | .enorm _ _ _ _ => 2
  | .eact _ _ _ => 2
  | .emul _ _ _ => 2
  | .eadd _ _ _ => 2
  | .erot _ _ _ _ => 2
  | .ecvt _ _ => 2
  | .csum _ _ _ => 8
  | _ => 0

/-- An operation of one of the queues has issued and not begun. -/
def opsOf (q : Seq) (cls : Nat) : Bool := q.ops.any fun e => opClass e.2 &&& cls != 0

/-- Every glaze-table fetch that the template orders for a cluster up to a segment has arrived (R178, R186). -/
def fetchesIn (s : State) (i : Iss) : Bool :=
  match variantOf s (seqOf s i.sid) with
  | some v => v.fetches.all fun f => f.1 != sidCluster i.sid || decide (i.seg < f.2.1) || s.glz.fetched.contains (f.1 + f.2.2)
  | none => true

/-- The operations that a bundle's WAITM field waits for have completed (R186). MOVE operations complete as they issue. -/
def waitmOk (s : State) (i : Iss) : Bool :=
  let q := seqOf s i.sid
  (!bitOf i.waitm 0 || !(s.arr.strokes.any fun e => e.2.any (·.sid == i.sid)))
    && (!bitOf i.waitm 1 || !opsOf q 1) && (!bitOf i.waitm 2 || !opsOf q 2) && (!bitOf i.waitm 4 || !opsOf q 8)
    && (!bitOf i.waitm 5 || fetchesIn s i)

/-- A sequencer is in a step, and no retraction stops the bundle's segment (R187, R245; log entry 86). -/
def inStep (s : State) (i : Iss) : Bool :=
  let q := seqOf s i.sid
  q.phase == 1 && (match q.stopSeg with | some k => decide (i.seg < k) | none => true)

/-- A sequencer issues the bundle now: it is in a step, no earlier bundle is held, and the bundle's waits are met (R187). -/
def issuing (s : State) (i : Iss) : Bool :=
  inStep s i && (seqOf s i.sid).wait == .none && (seqOf s i.sid).held.isEmpty && waitmOk s i

/-- An instruction whose bundle is held stands behind the earlier ones (R187). -/
def hold (c : Instr) (i : Iss) (s : State) : State := modSeq i.sid (fun q => { q with held := q.held ++ [c] }) s

/-- An instruction of a sequencer: `run` when its bundle issues; held when the bundle waits; a sequencer outside a step, stopped or passive
takes nothing (R187, R223). -/
def slotOp (c : Instr) (i : Iss) (ok : Bool) (run : State → State) (s : State) : Out :=
  okIf ok (if !takesPart s i.sid || !inStep s i then s else if issuing s i then run s else hold c i s)

/-- A core instruction: its sequencer is a core's (R191). -/
def coreOp (c : Instr) (i : Iss) (ok : Bool) (run : State → State) (s : State) : Out := slotOp c i (isCoreSid i.sid && ok) run s

/-- An instruction that every class of sequencer has. -/
def anyOp (c : Instr) (i : Iss) (ok : Bool) (run : State → State) (s : State) : Out := slotOp c i (isSid i.sid && ok) run s

/-- An operation of the ACC or GLAZE queue, or a check: it begins at once when no earlier one of its queues stands before it and what it waits for is
there, and waits in its queue otherwise, with the flag segment open at its issue (R189, R203). -/
def enqueueOp (c : Instr) (i : Iss) (rdy : State → Bool) (act : State → State) (s : State) : State :=
  if !opsOf (seqOf s i.sid) (opClass c) && rdy s then act s
  else modSeq i.sid (fun q => { q with ops := q.ops ++ [(q.flagIx, c)] }) s

/-! ## Killed lanes and issue-time checks (R218, R219) -/

/-- The operation belongs to a killed lane (R219): it is in that lane's iteration, or it reads that lane's descriptor. -/
def laneDead (s : State) (i : Iss) (reads : Bool) : Bool :=
  (i.reps != 0 || reads) && (seqOf s i.sid).killed.contains (curLaneNo s i)

/-- An operation of a killed lane is empty (R219). -/
def alive (i : Iss) (reads : Bool) (op : State → State) (s : State) : State := if laneDead s i reads then s else op s

/-- An operation that reads the current lane's descriptor (R219). -/
def laneOp (i : Iss) (op : Lane → State → State) (s : State) : State :=
  match curLane s i with
  | some (l, _) => alive i true (op l) s
  | none => s

/-- A token of a sequencer with its step tag and next sequence number, on both planes (R28, R232). -/
def sendToken (src : Nat) (kind arg dest : Nat) (s : State) : State :=
  let q := seqOf s src
  let t : Token := { kind := kind, att := q.att % 16, step := q.step % 2 ^ 24, src := src, seq := q.sendSeq % 2 ^ 15,
                     arg := arg, plane := 0 }
  putToken dest t (modSeq src (fun e => { e with sendSeq := (e.sendSeq + 1) % 2 ^ 15 }) s)

/-- A failed issue-time check (R218): the sequencer stops at the bundle and a SEQ_FAULT token goes to the scheduler core. -/
def seqFault (sid cause : Nat) (s : State) : State :=
  sendToken sid 11 cause schedSid (modSeq sid (fun q => { q with phase := 2 }) s)

/-- A SEQ_FAULT whose cause code the spec does not give (R218, R234, R235): the code is a free value. -/
def seqFaultOpen (sid : Nat) (s : State) : State :=
  let (v, s1) := draw s
  seqFault sid (v.toNat % 256) s1

/-- The issue-time check of a verify width (R218). -/
def widthOk (s : State) (i : Iss) : Bool := decide (1 ≤ curW s i) && decide (curW s i ≤ min 8 (declaredW s i.sid))

/-- An operation that takes the verify width from the lane's descriptor: a width outside 1 to the declared maximum is a failed issue-time
check (R218, R231). -/
def checkWidth (i : Iss) (op : State → State) (s : State) : State := if widthOk s i then op s else seqFaultOpen i.sid s

/-- `checkWidth` for an instruction whose VP bit makes it cover every position. -/
def checkVp (i : Iss) (vp : Nat) (op : State → State) (s : State) : State := if vp = 0 then op s else checkWidth i op s

/-! ## Records of the sequencer (R193) -/

def lixOf (s : State) (sid lix : Nat) : LixRec :=
  match tableOf s sid with
  | some t => tget { pred := 0, group := 4, chans := 0, first := 0, ckpt := 0, stride := 0, gain := 0, eps := 0, len := 64 } t.lix lix
  | none => { pred := 0, group := 4, chans := 0, first := 0, ckpt := 0, stride := 0, gain := 0, eps := 0, len := 64 }

/-- Stride of an address space: 0 OB, 1 AB, 2 SRAM, 3 IB, 4 RX. -/
def strideOf (s : State) (sid space : Nat) : Int :=
  match tableOf s sid with
  | some t => nth 0 t.strides space
  | none => 0

/-- An address field offset by the iteration times the stride of its space (R192). -/
def offset (s : State) (i : Iss) (space a : Nat) : Nat :=
  if i.reps = 0 then a else ((a : Int) + (i.r : Int) * strideOf s i.sid space).toNat

/-! ## Spaces -/

def obBase (core : Nat) : Nat := coreIx core * 262144
def ibBase (core : Nat) : Nat := coreIx core * 262144
def abBase (core : Nat) : Nat := coreIx core * 524288
def rxBase (core : Nat) : Nat := coreIx core * 131072

/-- The index of a cluster's SRAM: array and head clusters by number, then attention clusters, then the working SRAM of the head
sequencers (log entry 22). -/
def sramIx (sid : Nat) : Nat :=
  if sidUnit sid == 34 then 424 + (sidDie sid - 32) * 4 + sidCl sid
  else if 24 ≤ sidDie sid ∧ sidDie sid < 32 then 392 + (sidDie sid - 24) * 4 + sidCl sid
  else clNum (sidCluster sid)

/-- The SRAM a sequencer sees in space 2 (R194). -/
def sramBase (sid : Nat) : Nat := sramIx sid * 25165824

/-- Bytes of one unit of space 2 (R194). -/
def sramUnit (sid : Nat) : Nat := if sidUnit sid < 32 then 2048 else 64

/-- Address fields within their space's range (R194). -/
def inSpace (sid space a : Nat) : Bool :=
  match space with
  | 0 => decide (a < 2048)
  | 1 => decide (a < 1024)
  | 2 => decide (a < if sidUnit sid < 32 then 12288 else 65536)
  | 3 => decide (a < 7943)
  | _ => decide (a < 256)

/-! ## B4 blocks (R116, R117, R120) -/

/-- The elements and the exponent byte of the block in an IB slot. -/
def readBlock (s : State) (core slot : Nat) : List Int × Nat :=
  let b := ibBase core + 33 * slot
  ((List.range 32).flatMap fun k =>
      let v := (rdByte s.core.ib (b + k)).toNat
      [sext 4 (v % 16), sext 4 (v / 16)],
   (rdByte s.core.ib (b + 32)).toNat)

/-- The 33 bytes of a block. -/
def blockBytes (x : List Int) (e : Nat) : List Byte :=
  ((List.range 32).map fun k => BitVec.ofNat 8 (trunc 4 (nth 0 x (2 * k)) + trunc 4 (nth 0 x (2 * k + 1)) * 16))
    ++ [BitVec.ofNat 8 e]

/-! ## The accumulator bank (R134) -/

def abAddr (core tile col : Nat) : Nat := abBase core + tile * 512 + col * 8

def abGet (s : State) (core tile col : Nat) : Pair := rdPair s.core.ab (abAddr core tile col)

/-- The accumulator bank with the pairs of a tile replaced. -/
def setAb (ab : Mem) (core tile : Nat) (ps : List Pair) : Mem :=
  (ps.zipIdx).foldl (fun m p => wrPair m (abAddr core tile p.2) p.1) ab

def abTile (s : State) (core tile : Nat) : List Pair := (List.range 64).map fun j => abGet s core tile j

/-- AWID of a pair per column into a tile (R134). -/
def abAdd (core tile : Nat) (ps : List Pair) (s : State) : State :=
  { s with core := { s.core with
      ab := setAb s.core.ab core tile ((List.range 64).map fun j => awidP (abGet s core tile j) (nth Pair.zero ps j)) } }

/-- AWID of some columns only. -/
def abAddCols (core tile : Nat) (cols : List (Nat × Pair)) (s : State) : State :=
  cols.foldl (fun t c =>
    { t with core := { t.core with ab := wrPair t.core.ab (abAddr core tile c.1) (awidP (abGet t core tile c.1) c.2) } }) s

/-! ## Checkpoints (R145, R193) -/

/-- Byte address of a layer input's checkpoint for a lane, in the cluster SRAM of the sequencer. -/
def ckptAddr (s : State) (sid lix lane : Nat) : Nat :=
  let l := lixOf s sid lix
  (((sramBase sid + l.ckpt * 2048 : Nat) : Int) + (lane : Int) * (l.stride * 2048)).toNat

/-- The checkpoint value of element `k` in the form that MCK left it in: FP32 where it came from AB, BF16 otherwise (R145; log entry 92). -/
def ckptF32 (s : State) (addr k : Nat) : Word :=
  if tget false s.core.ckForm addr then rdWord s.core.sram (addr + 4 * k) else bfToF32 (rdHalf s.core.sram (addr + 2 * k))

/-- The BF16 checkpoint value of element `k`. -/
def ckptVal (s : State) (addr k : Nat) : Half :=
  if tget false s.core.ckForm addr then f32ToBf16 (ckptF32 s addr k) else rdHalf s.core.sram (addr + 2 * k)

/-- The elements a vector operand names in OB, as FP32 (R205: TY 0 BF16, 1 FP32). -/
def obElem (s : State) (core unit ty k : Nat) : Word :=
  if ty = 1 then rdWord s.core.ob (obBase core + unit * 128 + 4 * k)
  else bfToF32 (rdHalf s.core.ob (obBase core + unit * 128 + 2 * k))

/-- OB with element `k` of a vector written in format TY, one rounding to BF16. -/
def obPut (m : Mem) (core unit ty k : Nat) (w : Word) : Mem :=
  if ty = 1 then wrWord m (obBase core + unit * 128 + 4 * k) w
  else wrHalf m (obBase core + unit * 128 + 2 * k) (f32ToBf16 w)

/-- A length field in which 0 stands for 256 (R205). -/
def len256 (n : Nat) : Nat := if n = 0 then 256 else n

end Sys2Proof.Machine
end

