-- ==== Sys2Proof/Machine/Stroke.lean ====
section
/-! DEFINITION. The stroke (R36 to R75): scrambling, the sparsity detector, converter codes, the narrow adder and its
runs (R128 to R132), and the swatch comparison. -/

namespace Sys2Proof.Machine

/-! ## Scrambling (R71 to R75) -/

/-- A list that names every number below `n` once. -/
def isPerm (n : Nat) (l : List Nat) : Bool := l.length == n && (List.range n).all l.contains

/-- Physical row of each logical row of a plane; the identity in generation 0, whose routing controls are not written. -/
def rowPerm (s : State) (plane : Nat) : List Nat :=
  let l := if s.arr.scrGen = 0 then List.range 64 else Config.scrambleRows s.arr.scrGen plane
  if isPerm 64 l then l else List.range 64

/-- Physical data column of each logical column of an array. -/
def colPerm (s : State) (array : Nat) : List Nat :=
  let l := if s.arr.scrGen = 0 then List.range 64 else Config.scrambleCols s.arr.scrGen array
  if isPerm 64 l then l else List.range 64

/-- Sign flip of a logical column of a plane. -/
def flipOf (s : State) (plane col : Nat) : Bool :=
  if s.arr.scrGen = 0 then false else nth false (Config.scrambleFlips s.arr.scrGen plane) col

/-- Inputs in physical row order. -/
def toPhys (perm : List Nat) (x : List Int) : List Int :=
  (List.range 64).map fun p => nth 0 x ((findIx (· == p) perm 0).getD p)

/-- Physical column of a logical column, after the remap to a spare (R42, R85, R74). -/
def physCol (s : State) (array col : Nat) : Nat :=
  let p := nth col (colPerm s array) col
  match findIx (· == p) (tget [] s.arr.remap array) 0 with
  | some k => 68 + k
  | none => p

/-! ## Cells (R36, R37, R60) -/

/-- Key of a plane of an array: its packed address. -/
def planeKey (array plane : Nat) : Nat := array + plane * 16

/-- Key of a cell: plane, physical row, physical column. -/
def cellKey (plane row col : Nat) : Nat := plane / 16 * 8192 + row * 128 + col

/-- The fixed weight of a swatch column at a physical row (R60). -/
def swatchWeight (col row : Nat) : Int :=
  if col = 64 then 1 else if col = 65 then (if row % 2 = 0 then 1 else -1) else if col = 66 then 4 else 0

/-- The weight of a cell: swatch columns hold theirs once the plane is written. -/
def cellAt (s : State) (plane row col : Nat) : Int :=
  if 64 ≤ col ∧ col < 68 then (if tget false s.arr.written plane then swatchWeight col row else 0)
  else tget 0 s.arr.cells (cellKey plane row col)

/-! ## The sparsity detector (R52 to R57) -/

/-- Inputs of rows `row` to `row + n - 1`, with their physical row numbers. -/
def bandRows (x : List Int) (row n : Nat) : List (Nat × Int) := (List.range n).map fun k => (row + k, nth 0 x (row + k))

def magSum (x : List Int) (row n : Nat) : Nat := (bandRows x row n).foldl (fun a r => a + r.2.natAbs) 0
def sigmaSum (x : List Int) (row n : Nat) : Int := (bandRows x row n).foldl (fun a r => a + r.2) 0
def alphaSum (x : List Int) (row n : Nat) : Int :=
  (bandRows x row n).foldl (fun a r => a + (if r.1 % 2 = 0 then r.2 else -r.2)) 0

/-- The coefficient in force, in 1/32: 7 for 0x00 and for a value above 7 (R53). -/
def coeffOf (c : Nat) : Nat := if c = 0 then 224 else min c 224

def mkBand (x : List Int) (row n : Nat) (half : Bool) : Band :=
  { row := row, rows := n, half := half, sigma := sigmaSum x row n, alpha := alphaSum x row n }

/-- A band of TWO or FOUR, with the gain that its predicted range gives: full up to 224 product units. -/
def autoBand (c : Nat) (x : List Int) (row n : Nat) : Band := mkBand x row n (decide (7168 < c * magSum x row n))

/-- The band modes of R55. -/
inductive Mode where
  | idle | one | half | two | four
  deriving DecidableEq, Repr

/-- The mode of an array for a STRK's BAND field (R54, R57, R58). -/
def bandMode (c band : Nat) (x : List Int) : Mode :=
  if x.all (· == 0) then .idle
  else if band = 1 then .one else if band = 2 then .half else if band = 3 then .two else if band = 4 then .four
  else if c * magSum x 0 64 ≤ 7168 then .one else if c * magSum x 0 64 ≤ 14336 then .half else .two

/-- The bands of a mode. -/
def modeBands (c : Nat) (x : List Int) : Mode → List Band
  | .idle => []
  | .one => [mkBand x 0 64 false]
  | .half => [mkBand x 0 64 true]
  | .two => [autoBand c x 0 32, autoBand c x 32 32]
  | .four => [autoBand c x 0 16, autoBand c x 16 16, autoBand c x 32 16, autoBand c x 48 16]

/-- The stroke end of a mode in ns after stroke start (R47). -/
def modeEnd : Mode → Nat
  | .idle => 0
  | .one => 160
  | .half => 160
  | .two => 300
  | .four => 580

/-- One array of a stroke as the detector leaves it: idle when its block is marked 0xFF, with the overflow flag (R126). -/
def detect (s : State) (core array plane slot band : Nat) : ArrStroke :=
  let (xl, e) := readBlock s core slot
  let pk := planeKey array plane
  let x := toPhys (rowPerm s pk) xl
  let c := coeffOf (tget 0 s.arr.coeff pk)
  let ovf := e == 255
  let m := if ovf then Mode.idle else bandMode c band x
  { arr := array, slot := slot, idle := m == .idle, ovf := ovf, eps := (e : Int),
    x := if m == .idle then List.replicate 64 0 else x, bands := modeBands c x m }

/-! ## Converter codes (R43 to R45) -/

/-- LSB of a column in product units: 2 or 4 for data, four times that for the swatch columns (R44, R61). -/
def lsbOf (col : Nat) (half : Bool) : Nat :=
  (if half then 4 else 2) * (if 64 ≤ col ∧ col < 68 then 4 else 1)

/-- Analogue sum of a band on a physical column. -/
def bandSum (s : State) (plane : Nat) (x : List Int) (b : Band) (col : Nat) : Int :=
  (bandRows x b.row b.rows).foldl (fun a r => a + r.2 * cellAt s plane r.1 col) 0

/-- The converter code of an analogue sum with LSB `u`: `dev` is the column's whole error in 1/256 LSB, which the analogue
side gives (R43, R45). -/
def codeOf (sum : Int) (u : Nat) (dev : Int) : Nat :=
  let num := 256 * (u : Int) * 128 + 256 * sum + dev * (u : Int)
  let d := 256 * (u : Int)
  let r := (2 * num + d) / (2 * d)
  (max 0 (min 255 r)).toNat

/-- Key of an analogue deviation: array, band, physical column. -/
def devKey (array band col : Nat) : Nat := (array * 4 + band) * 128 + col

/-- Codes of one physical column in every band of an array. -/
def bandCodes (s : State) (plane : Nat) (a : ArrStroke) (dev : Tab Int) (col : Nat) : List (Band × Nat) :=
  a.bands.zipIdx.map fun b =>
    (b.1, codeOf (bandSum s plane a.x b.1 col) (lsbOf col b.1.half) (tget 0 dev (devKey (arrayNo a.arr) b.2 col)))

/-- A column's value in full-gain LSB: code - 128, doubled at half gain, summed over the bands (R59), with the sign flip of
R71. -/
def colValue (flip : Bool) (codes : List (Band × Nat)) : Int :=
  let v := codes.foldl (fun a c => a + ((c.2 : Int) - 128) * (if c.1.half then 2 else 1)) 0
  if flip then -v else v

/-- A saturated column: code 0 or 255 in some band (R45). -/
def isSat (codes : List (Band × Nat)) : Bool := codes.any fun c => c.2 == 0 || c.2 == 255

/-! ## Digital columns (R159, R160) -/

/-- The plane's format; W8 arrays stand in pairs (R113). -/
def fmtOf (s : State) (array plane : Nat) : Nat := tget 0 s.arr.fmt (planeKey array plane)

/-- The other array of a W8 pair. -/
def pairOf (array : Nat) : Nat := if arrayNo array % 2 = 0 then array + 256 else array - 256

/-- Whether a listed column covers a column of an array; an entry for one digit of a W8 pair covers both (R159). -/
def listed (s : State) (array plane col : Nat) : Bool :=
  (tget [] s.arr.digcol (coreOf array)).any fun d =>
    d.active && d.plane == plane && d.col == col &&
      (d.array == array || (decide (3 ≤ fmtOf s array plane) && d.array == pairOf array))

/-- A flag list of columns finished by D16, both digits of a W8 pair together. -/
def d16Has (s : State) (d : List (Nat × List Nat)) (array plane col : Nat) : Bool :=
  d.any fun e => e.2.contains col && (e.1 == array || (decide (3 ≤ fmtOf s array plane) && e.1 == pairOf array))

/-! ## The narrow adder (R128 to R132) -/

/-- The bound of a contribution: 127 per full-gain band, 254 per half-gain band. -/
def betaOf (a : ArrStroke) : Nat := a.bands.foldl (fun t b => t + if b.half then 254 else 127) 0

/-- Band count f of R157. -/
def fOf (a : ArrStroke) : Nat := a.bands.foldl (fun t b => t + if b.half then 2 else 1) 0

/-- What an array brings to its tile (R128): the high array of a W8 pair counts 16 times. Listed columns count zero (R160). -/
def contribOf (s : State) (plane : Nat) (a : ArrStroke) (dev : Tab Int) : Contrib :=
  { array := a.arr
    c := (List.range 64).map fun j =>
      if listed s a.arr plane j then 0
      else colValue (flipOf s (planeKey a.arr plane) j) (bandCodes s (planeKey a.arr plane) a dev (physCol s a.arr j))
    eps := a.eps + (if fmtOf s a.arr plane = 4 then 4 else 0)
    beta := betaOf a
    f := fOf a
    sig := a.bands.foldl (fun t b => t + b.sigma) 0 }

/-- A scaled column vector. -/
def vscale (k : Nat) (v : List Int) : List Int := v.map fun x => x * (2 ^ k : Nat)

/-- One contribution taken into the run in progress (R129, R130); idle contributions never split a run. -/
def addContrib (t : List Run × Option Run) (k : Contrib) : List Run × Option Run :=
  if k.beta = 0 then t else
  match t.2 with
  | none => (t.1, some { n := k.c, e := k.eps, b := k.beta, ks := [k] })
  | some r =>
    if r.e ≤ k.eps ∧ r.b + k.beta * 2 ^ (k.eps - r.e).toNat ≤ 32767 then
      (t.1, some { n := List.zipWith (· + ·) r.n (vscale (k.eps - r.e).toNat k.c), e := r.e,
                   b := r.b + k.beta * 2 ^ (k.eps - r.e).toNat, ks := r.ks ++ [k] })
    else if k.eps < r.e ∧ r.b * 2 ^ (r.e - k.eps).toNat + k.beta ≤ 32767 then
      (t.1, some { n := List.zipWith (· + ·) (vscale (r.e - k.eps).toNat r.n) k.c, e := k.eps,
                   b := r.b * 2 ^ (r.e - k.eps).toNat + k.beta, ks := r.ks ++ [k] })
    else (t.1 ++ [r], some { n := k.c, e := k.eps, b := k.beta, ks := [k] })

/-- Contributions taken in order. -/
def addContribs (t : List Run × Option Run) (ks : List Contrib) : List Run × Option Run := ks.foldl addContrib t

/-- Runs of a tile in closing order, the open run last (R130). -/
def tileRuns (t : Tile) : List Run := t.closed ++ t.opened.toList

/-! ## Groups and tiles (R68 to R70, R197) -/

/-- Arrays of a group. -/
def groupSize (gsz : Nat) : Nat := if gsz = 0 then 4 else if gsz = 1 then 8 else 16

/-- Groups with a named array, in order. -/
def groupsOf (gsz amask : Nat) : List Nat :=
  (List.range (16 / groupSize gsz)).filter fun g => (maskBits amask 16).any fun a => a / groupSize gsz == g

/-- Tiles of one stroke. -/
def tileCount (f : StrokeF) : Nat := (groupsOf f.gsz f.amask).length

/-- Key of an engine tile: engine, group, plane. -/
def tileKey (eng grp plane : Nat) : Nat := eng + grp * 256 + plane * 16

/-- Key of a narrow tile register. -/
def ntrKey (eng n : Nat) : Nat := eng * 8 + n

/-! ## The swatch comparison (R62) -/

/-- Whether a swatch code lies more than 2 LSB from its expected code; o in 1/16 LSB, g in 2^-12. -/
def swatchFails (code : Nat) (cal : Int × Int) (sum : Int) (half : Bool) : Bool :=
  let e := 65536 * 128 + cal.1 * 4096 + (4096 + cal.2) * sum * (if half then 1 else 2)
  decide (131072 < ((65536 * (code : Int)) - e).natAbs)

/-- The two comparisons of every band of an array: (key array*4 + band, S0 fails, S1 fails). -/
def swatchOf (s : State) (plane : Nat) (a : ArrStroke) (dev : Tab Int) : List (Nat × Bool × Bool) :=
  let pk := planeKey a.arr plane
  a.bands.zipIdx.map fun b =>
    let code (c : Nat) :=
      codeOf (bandSum s pk a.x b.1 c) (lsbOf c b.1.half) (tget 0 dev (devKey (arrayNo a.arr) b.2 c))
    (arrayNo a.arr * 4 + b.2,
     swatchFails (code 64) (tget (0, 0) s.arr.swcal (a.arr / 256 * 4)) b.1.sigma b.1.half,
     swatchFails (code 65) (tget (0, 0) s.arr.swcal (a.arr / 256 * 4 + 1)) b.1.alpha b.1.half)

/-- Saturated logical columns of an array that are not listed (R45, R160). -/
def satCols (s : State) (plane : Nat) (a : ArrStroke) (dev : Tab Int) : List Nat :=
  (List.range 64).filter fun j =>
    !listed s a.arr plane j && isSat (bandCodes s (planeKey a.arr plane) a dev (physCol s a.arr j))

end Sys2Proof.Machine
end

