-- ==== Sys2Proof/Machine/Array.lean ====
section
/-! DEFINITION. The ARRAY slot of the core sequencers (R195 to R200) and what the arrays do by themselves: the end of
a stroke (R46 to R51, R69, R130) and the report of its flags (R62, R182, R398, R399). -/

namespace Sys2Proof.Machine

/-! ## Plane selection (R38, R39, R199) -/

/-- An array has a stroke that has not ended. -/
def arrayBusy (s : State) (array : Nat) : Bool :=
  (tget [] s.arr.strokes (engineOf array)).any fun k => k.arrays.any (·.arr == array)

/-- Selects a plane; during a stroke the switch waits for its end (R39). -/
def selectPlane (plane : Nat) (s : State) (array : Nat) : State :=
  if arrayBusy s array then { s with arr := { s.arr with pend := tput 0 s.arr.pend array (plane + 1) } }
  else { s with arr := { s.arr with sel := tput 0 s.arr.sel array plane, pend := tput 0 s.arr.pend array 0 } }

/-- Arrays that masks of engines and arrays name. -/
def namedArrays (core emask amask : Nat) : List Nat :=
  (maskBits emask 16).flatMap fun e => (maskBits amask 16).map fun a => mkArray (mkEngine core e) a

/-! ## Strokes (R197, R198) -/

/-- IB slot of an array's block (R197). -/
def slotOf (f : StrokeF) (ibs e a p : Nat) : Nat :=
  let d := if f.ifmt = 0 then 1 else 2
  let lo := if f.ifmt = 2 then 1 else 0
  ibs + d * a + lo + (if f.esh = 1 then 16 * d * e else 0) + p * 16 * d * (if f.esh = 1 then 16 else 1)

/-- The number of the next stroke of a segment among the strokes that its sequencer issues there (R250). -/
def ordOf (q : Seq) (seg : Nat) : Nat := if q.winSeg = seg then q.ord else 0

/-- The window that would cover a stroke issued now (R246): the number of windows its segment has opened so far. -/
def winIndex (q : Seq) (seg : Nat) : Nat := if q.winSeg = seg then q.winNo else 0

/-- A replay entry stands for stroke `ord` of a segment, on an engine, for a lane and a position (R250). -/
def entryFor (r : Replay) (eng seg ord lane p : Nat) : Bool :=
  r.engine == eng && r.seg == seg && r.ord == ord && r.lane == lane && r.posIx == p

/-- Entries of a sequencer for one stroke on an engine. -/
def entriesFor (s : State) (sid eng seg ord lane p : Nat) : List Replay :=
  (seqOf s sid).replays.filter fun r => entryFor r eng seg ord lane p

/-- A tile of AB of a core is marked for D16 in the attempt (R402). -/
def tileMarked (s : State) (sid tile : Nat) : Bool :=
  match s.sch.cur with
  | some c => c.d16Tile.any fun m => m.2 == tile && (m.1 == sid || (redOrder s m.1 tile).contains (tableSid s sid))
  | none => false

/-- An engine tile that an APRO of the step has promoted into a tile now marked for D16: its strokes do not issue (R402). -/
def wholeD16 (s : State) (sid eng grp plane p : Nat) : Bool :=
  match (tget TileIn.init s.core.tin (tileKey eng grp plane * 8 + p)).ab with
  | 0 => false
  | t + 1 => tileMarked s sid t

/-- Whether a group of a stroke does not issue: a replay entry fills its register (R250), or its tile is computed in D16 (R402). -/
def groupHeld (s : State) (i : Iss) (f : StrokeF) (eng p g : Nat) : Bool :=
  ((entriesFor s i.sid eng i.seg (ordOf (seqOf s i.sid) i.seg) (curLaneNo s i) p).any fun r => r.grp == g && r.kind != 4)
    || wholeD16 s i.sid eng g f.plane p

/-- One digit of a stroke on one engine, as it enters the engine's queue. -/
def mkStroke (s : State) (i : Iss) (f : StrokeF) (ibs p : Nat) (desc low : Bool) (e : Nat) : Stroke :=
  let core := sidCore i.sid
  let eng := mkEngine core e
  let q := seqOf s i.sid
  { sid := i.sid, seg := i.seg, flagIx := q.flagIx, plane := f.plane, gsz := f.gsz, amask := f.amask
    ntr := f.ntr + p * tileCount f, acn := tget 0 s.core.acn core, low := low, lane := curLaneNo s i, desc := desc, posIx := p
    ibs := ibs, f := f, win := winIndex q i.seg, ord := ordOf q i.seg, replay := false, pend := []
    arrays := ((maskBits f.amask 16).filter fun a => !groupHeld s i f eng p (a / groupSize f.gsz)).map fun a =>
      detect s core (mkArray eng a) f.plane (slotOf f ibs e a p + b2n low) f.band }

/-- A stroke at the end of its engine's queue; the arrays that no earlier stroke holds switch to the plane it names (R38, R39, R50). A stroke
that names no array is none. -/
def enqueueStroke (eng : Nat) (k : Stroke) (s : State) : State :=
  if k.arrays.isEmpty then s else
  { s with arr := { s.arr with
      strokes := tput [] s.arr.strokes eng (tget [] s.arr.strokes eng ++ [k])
      sel := (k.arrays.filter fun a => !arrayBusy s a.arr).foldl (fun t a => tput 0 t a.arr k.plane) s.arr.sel
      stroked := (k.arrays.map fun a => planeKey a.arr k.plane).foldl
        (fun l x => if l.contains x then l else l ++ [x]) s.arr.stroked } }

/-- A narrow tile register that a stroke is to fill holds no closed tile until then (R203). A tile computed whole in D16 has no stroke to wait
for (R402). The register of a group that a replay entry fills is cleared here unless ACN names it, with what the tile's terms keep of its inputs, and
the entry's stroke adds to it (R250). -/
def pendReg (i : Iss) (f : StrokeF) (p eng : Nat) (s : State) (g : Nat × Nat) : State :=
  let n := f.ntr + p * tileCount f + g.2
  let nk := ntrKey eng n
  let ik := tileKey eng g.1 f.plane * 8 + p
  let whole := wholeD16 s i.sid eng g.1 f.plane p
  let clear := groupHeld s i f eng p g.1 && !whole && !bitOf (tget 0 s.core.acn (sidCore i.sid)) n
  let t : Tile := { (if whole || clear then Tile.init else tget Tile.init s.core.ntr nk) with
    ready := whole, tiles := tileCount f, plane := f.plane, grp := g.1, lane := curLaneNo s i, posIx := p }
  { s with core := { s.core with
      ntr := tput Tile.init s.core.ntr nk t
      tin := if clear then tmod TileIn.init s.core.tin ik (fun e => { e with inputs := [] }) else s.core.tin
      glrT := if clear then tput [] s.core.glrT ik [] else s.core.glrT } }

/-- The strokes of one position on one engine: one, or two for an A8 pair. -/
def strokePos (i : Iss) (f : StrokeF) (ibs p : Nat) (desc : Bool) (s : State) (e : Nat) : State :=
  let eng := mkEngine (sidCore i.sid) e
  let s1 := ((groupsOf f.gsz f.amask).zipIdx).foldl (pendReg i f p eng) s
  let s2 := enqueueStroke eng (mkStroke s1 i f ibs p desc false e) s1
  if f.ifmt = 3 then enqueueStroke eng (mkStroke s2 i f ibs p desc true e) s2 else s2

/-- The ACN binding of a core is used up by its bundle's stroke (R202). -/
def clearAcn (core : Nat) (s : State) : State :=
  { s with core := { s.core with acn := tput 0 s.core.acn core 0 } }

/-- A stroke's flags belong to the open flag segment of its sequencer (R243). -/
def openSeg (i : Iss) (s : State) : State :=
  modSeq i.sid (fun q => { q with curSeg := some i.seg }) s

/-- A sequencer's counts of strokes and windows begin anew with each segment (R246, R250). -/
def enterSeg (seg : Nat) (q : Seq) : Seq := if q.winSeg = seg then q else { q with winSeg := seg, winNo := 0, ord := 0 }

/-- STRK on every named engine for the listed positions; `desc`: the instruction reads the lane's descriptor or stands in its iteration (R219). -/
def strokeAll (i : Iss) (f : StrokeF) (desc : Bool) (ps : List Nat) (s : State) : State :=
  let ibs := offset s i 3 f.ibs
  let s1 := ps.foldl (fun t p => (maskBits f.emask 16).foldl (fun u e => strokePos i f ibs p desc u e) t) s
  clearAcn (sidCore i.sid) (openSeg i s1)

/-- A stroke instruction counts in its segment, also when its lane is killed. -/
def countStroke (i : Iss) (op : State → State) (s : State) : State :=
  modSeq i.sid (fun q => { q with ord := q.ord + 1 }) (op (modSeq i.sid (enterSeg i.seg) s))

/-- Legal fields of a stroke (R195). -/
def strokeOk (f : StrokeF) : Bool :=
  decide (0 < f.emask) && decide (f.emask < 65536) && decide (0 < f.amask) && decide (f.amask < 65536)
    && decide (f.plane < 16) && decide (f.ibs < 7943) && decide (f.esh < 2) && decide (f.ifmt < 4) && decide (f.band < 4)
    && decide (f.gsz < 3) && decide (f.ntr < 8)

/-- NOPA (R195) issues and does nothing. -/
def execNopa (i : Iss) (s : State) : Out := anyOp (.nopa i) i true id s

/-- STRK (R197). -/
def strkAct (i : Iss) (f : StrokeF) (s : State) : State := countStroke i (alive i false (strokeAll i f (i.reps != 0) [0])) s

def execStrk (i : Iss) (f : StrokeF) (s : State) : Out := coreOp (.strk i f) i (strokeOk f) (strkAct i f) s

/-- STKV (R198): STRK for each verify position of the current lane; a verify width outside 1 to the declared maximum is a failed
issue check (R218). -/
def stkvAct (i : Iss) (f : StrokeF) (s : State) : State :=
  countStroke i (alive i true fun t => checkWidth i (strokeAll i f true (List.range (curW t i))) t) s

def execStkv (i : Iss) (f : StrokeF) (s : State) : Out := coreOp (.stkv i f) i (strokeOk f) (stkvAct i f) s

/-- PSEL (R199). -/
def pselAct (i : Iss) (emask amask plane : Nat) (s : State) : State :=
  alive i false (fun t => (namedArrays (sidCore i.sid) emask amask).foldl (selectPlane plane) t) s

def execPsel (i : Iss) (emask amask plane : Nat) (s : State) : Out :=
  coreOp (.psel i emask amask plane) i
    (decide (0 < emask) && decide (emask < 65536) && decide (0 < amask) && decide (amask < 65536) && decide (plane < 16))
    (pselAct i emask amask plane) s

/-! ## Stroke end (R47, R49, R69, R130) -/

/-- A register of a stroke is added to, not cleared: ACN names it, or the stroke is the low digits of a pair (R197, R202). -/
def keepsReg (k : Stroke) (n : Nat) : Bool := k.low || bitOf k.acn n

/-- The tile a group's contributions make in its narrow tile register: cleared first unless the stroke keeps it. -/
def tileAfter (old : Tile) (k : Stroke) (n grp : Nat) (ks : List Contrib) : Tile :=
  let t := if keepsReg k n then old else Tile.init
  let r := addContribs (t.closed, t.opened) ks
  { closed := r.1, opened := r.2, ready := true, tiles := tileCount k.f, plane := k.plane, grp := grp, lane := k.lane, posIx := k.posIx, d16 := t.d16 }

/-- Elements of an array's block in logical order, as they drove the rows. -/
def logicalX (s : State) (plane : Nat) (a : ArrStroke) : List Int :=
  let p := rowPerm s (planeKey a.arr plane)
  (List.range 64).map fun r => nth 0 a.x (nth r p r)

/-- What drove an engine tile's rows, after one more stroke into register `n`. -/
def tinAfter (s : State) (old : TileIn) (k : Stroke) (n : Nat) (as : List ArrStroke) : TileIn :=
  { gsz := groupSize k.gsz
    inputs := (if keepsReg k n then old.inputs else []) ++ as.map fun a => (a.arr, a.slot, a.eps, logicalX s k.plane a)
    d16 := [], whole := false, ab := old.ab }

/-- Arrays of a stroke that D16 in place stands for (R252): their codes count as zero and raise no flag. -/
def inPlaceArrays (s : State) (eng : Nat) (k : Stroke) : List Nat :=
  ((entriesFor s k.sid eng k.seg k.ord k.lane k.posIx).filter fun r => r.kind == 4).flatMap fun r => r.four.map (mkArray eng)

/-- D16 in place for a stroke's group: the failed arrays with all their columns. -/
def inPlace (s : State) (eng : Nat) (k : Stroke) (grp : Nat) : List (Nat × List Nat) :=
  ((inPlaceArrays s eng k).dedup.filter fun a => arrayNo a / groupSize k.gsz == grp).map fun a => (a, List.range 64)

/-- Groups whose register the stroke fills: a group that does not issue has no array in the stroke, and keeps its register (R250). -/
def ownGroups (k : Stroke) : List (Nat × Nat) :=
  ((groupsOf k.gsz k.amask).zipIdx).filter fun g => k.arrays.any fun a => arrayNo a.arr / groupSize k.gsz == g.1

/-- What an array of a stroke brings to its tile, nothing where D16 in place stands for it. -/
def strokeContrib (s : State) (eng : Nat) (k : Stroke) (dev : Tab Int) (a : ArrStroke) : Contrib :=
  let c := contribOf s k.plane a dev
  if (inPlaceArrays s eng k).contains a.arr then { c with c := List.replicate 64 0 } else c

/-- The tiles of a stroke loaded into the narrow tile registers, group by group (R69). -/
def loadTiles (s : State) (eng : Nat) (k : Stroke) (dev : Tab Int) : State :=
  (ownGroups k).foldl (fun t g =>
    let as := k.arrays.filter fun a => arrayNo a.arr / groupSize k.gsz == g.1
    let nk := ntrKey eng (k.ntr + g.2)
    let ik := tileKey eng g.1 k.plane * 8 + k.posIx
    let tile0 := tileAfter (tget Tile.init t.core.ntr nk) k (k.ntr + g.2) g.1 (as.map (strokeContrib s eng k dev))
    let tile := { tile0 with d16 := tile0.d16 ++ inPlace s eng k g.1 }
    { t with core := { t.core with
        ntr := tput Tile.init t.core.ntr nk tile
        tin := tput TileIn.init t.core.tin ik (tinAfter s (tget TileIn.init t.core.tin ik) k (k.ntr + g.2) as) } }) s

/-- The first stroke in an engine's queue that names an array. -/
def nextStroke (s : State) (array : Nat) : Option Stroke :=
  (tget [] s.arr.strokes (engineOf array)).find? fun k => k.arrays.any (·.arr == array)

/-- At a stroke's end a plane switch that waited on its arrays takes effect (R39); the next stroke of an array, if one is held
(R50), then begins on the plane it names. -/
def releasePlanes (as : List ArrStroke) (s : State) : State :=
  as.foldl (fun t a =>
    let sel := match nextStroke t a.arr with
      | some k => k.plane
      | none => (match tget 0 t.arr.pend a.arr with | 0 => tget 0 t.arr.sel a.arr | p + 1 => p)
    { t with arr := { t.arr with sel := tput 0 t.arr.sel a.arr sel, pend := tput 0 t.arr.pend a.arr 0 } }) s

/-- The flags of an ended stroke (R51, R182). -/
def flagsOf (s : State) (eng : Nat) (k : Stroke) (dev : Tab Int) : StrokeFlags :=
  let mine := k.arrays.filter fun a => !(inPlaceArrays s eng k).contains a.arr
  let live := mine.filter fun a => !a.idle
  { sid := k.sid, seg := k.seg, flagIx := k.flagIx, stroke := k,
    bands := live.flatMap fun a => swatchOf s k.plane a dev,
    sat := (live.map fun a => (a.arr, satCols s k.plane a dev)).filter fun e => !e.2.isEmpty,
    ovf := (mine.filter (·.ovf)).map (·.arr), csum := 0 }

/-- Listed columns whose code saturates in a stroke (R146). -/
def listedSats (s : State) (k : Stroke) (dev : Tab Int) : List Nat :=
  k.arrays.flatMap fun a => ((List.range 64).filter fun j =>
    listed s a.arr k.plane j && isSat (bandCodes s (planeKey a.arr k.plane) a dev (physCol s a.arr j))).map
      fun j => planeKey a.arr k.plane * 64 + j

/-- A stroke that belongs to a killed lane drops its tiles when it ends (R219). -/
def strokeDropped (s : State) (k : Stroke) : Bool := k.desc && (seqOf s k.sid).killed.contains k.lane

/-- A replay stroke completes its group's tile: the only stroke of its entry, or the low digits of a pair (R146, R249). -/
def lastReplay (s : State) (eng : Nat) (k : Stroke) : Bool :=
  k.replay && (k.low || (k.f.ifmt != 3 && !(entriesFor s k.sid eng k.seg k.ord k.lane k.posIx).any (·.kind == 1)))

/-- The replay store (R251) takes the tile of a replay stroke: the entries of its group keep it. -/
def keepTiles (s : State) (eng : Nat) (k : Stroke) : State :=
  if !lastReplay s eng k then s
  else (ownGroups k).foldl (fun t g =>
    let tile := tget Tile.init t.core.ntr (ntrKey eng (k.ntr + g.2))
    let tin := tget TileIn.init t.core.tin (tileKey eng g.1 k.plane * 8 + k.posIx)
    let keep (r : Replay) : Replay :=
      if entryFor r eng k.seg k.ord k.lane k.posIx && r.grp == g.1 && r.kind != 4 then { r with kept := some (tile, tin) } else r
    modSeq k.sid (fun q => { q with replays := q.replays.map keep }) t) s

/-- The sums of a stroke's registers that the adder tree and the engine's check logic formed differently, as CSUM will find them (R211): a
register that is added to keeps the differences it has. -/
def treeDiff (s : State) (eng : Nat) (k : Stroke) (tree : Nat) : Tab Nat :=
  (ownGroups k).foldl (fun t g =>
    let n := ntrKey eng (k.ntr + g.2)
    tput 0 t n ((if keepsReg k (k.ntr + g.2) then tget 0 t n else 0) ||| tree % 4)) s.arr.treeErr

/-- A killed lane's strokes that have not begun are not stroked (R219): those that wait for an earlier stroke on one of their arrays. -/
def dropQueued (sid lane : Nat) : List Stroke → List Stroke → List Stroke
  | _, [] => []
  | before, k :: ks =>
    let begun := !(k.arrays.any fun a => before.any fun b => b.arrays.any (·.arr == a.arr))
    if k.sid == sid && k.desc && k.lane == lane && !begun then dropQueued sid lane before ks
    else k :: dropQueued sid lane (before ++ [k]) ks

/-- The end of the front stroke of an engine: its codes reach the narrow adder, the tree emits the tiles, the flags set out,
and a difference of the tree stands for CSUM. Strokes of one engine end in the order they were issued (log entry 87). -/
def strokeEndOp (eng : Nat) (dev : Tab Int) (tree : Nat) (s : State) : State :=
  match tget [] s.arr.strokes eng with
  | [] => s
  | k :: ks =>
    let s1 := { s with arr := { s.arr with strokes := tput [] s.arr.strokes eng ks } }
    let s2 := releasePlanes k.arrays s1
    if strokeDropped s k then s2
    else
      let s3 := keepTiles (loadTiles s2 eng k dev) eng k
      let fl := flagsOf s eng k dev
      let nks := (ownGroups k).map fun g => ntrKey eng (k.ntr + g.2)
      { s3 with arr := { s3.arr with
          listedSat := (s3.arr.listedSat ++ listedSats s k dev).dedup
          waiting := tput [] s3.arr.waiting eng (tget [] s3.arr.waiting eng ++ [fl])
          treeErr := treeDiff s3 eng k tree
          tileFl := nks.foldl (fun t n => tput none t n (some fl)) s3.arr.tileFl } }

end Sys2Proof.Machine
end

