-- ==== Sys2Proof/Machine/Flags.lean ====
section
/-! DEFINITION. Check flags: the flag byte of a stroke (R182), swatch arbitration and lone counts (R398, R399). -/

namespace Sys2Proof.Machine

/-- Flag bits of R182. -/
def flSat : Nat := 1
def flSw0 : Nat := 2
def flSw1 : Nat := 4
def flOvf : Nat := 8
def flEnvr : Nat := 16
def flEnvv : Nat := 32

/-- Arrays of a stroke with SW0 and SW1 in one band (R398). -/
def pairArrays (f : StrokeFlags) : List Nat :=
  ((f.bands.filter fun b => b.2.1 && b.2.2).map fun b => b.1 / 4).dedup

/-- The flag byte that remains of a stroke after arbitration (R398): lone swatch flags are removed, CSUM flags are kept. -/
def flagByte (f : StrokeFlags) : Nat :=
  (if f.sat.isEmpty then 0 else flSat)
    ||| (if (pairArrays f).isEmpty then 0 else flSw0 ||| flSw1)
    ||| (if f.ovf.isEmpty then 0 else flOvf) ||| f.csum

/-- Whether an array has a lone flag of S0 or of S1 in some band. -/
def loneOf (f : StrokeFlags) (a : Nat) : Bool × Bool :=
  let bs := f.bands.filter fun b => b.1 / 4 == a
  (bs.any fun b => b.2.1 && !b.2.2, bs.any fun b => b.2.2 && !b.2.1)

/-- Lone flags removed, over all bands. -/
def loneRemoved (f : StrokeFlags) : Nat := (f.bands.filter fun b => b.2.1 != b.2.2).length

/-- Key of a swatch column's lone history. -/
def loneKey (array col : Nat) : Nat := array / 256 * 4 + col

/-- A column's history over the array's last 256 non-idle strokes, one more stroke taken in (R399). -/
def pushLone (h : List Nat) (lone : Bool) : List Nat := (b2n lone :: h).take 256

/-- A failed swatch column: its array is exhausted, SWATCH_COL is recorded, and the core is fenced (R87, R399). -/
def swatchFailed (array col : Nat) (s : State) : State :=
  if s.arr.exhausted.contains array then s
  else recordFault array 4 2 (64 + col) false { s with arr := { s.arr with exhausted := s.arr.exhausted ++ [array] } }

/-- Counts a stroke toward one swatch column of an array. -/
def countLone (array col : Nat) (lone : Bool) (s : State) : State :=
  let h := pushLone (tget [] s.arr.lone (loneKey array col)) lone
  let s1 := { s with arr := { s.arr with lone := tput [] s.arr.lone (loneKey array col) h } }
  if 8 ≤ h.foldl (· + ·) 0 then swatchFailed array col s1 else s1

/-- Arbitration of a stroke's swatch flags: each non-idle array counts once for each column (R398, R399). -/
def arbitrate (f : StrokeFlags) (s : State) : State :=
  let s1 := (f.stroke.arrays.filter fun a => !a.idle).foldl (fun t a =>
    let l := loneOf f (arrayNo a.arr)
    countLone a.arr 1 l.2 (countLone a.arr 0 l.1 t)) s
  { s1 with hist := { s1.hist with loneCnt := satAdd 32 s1.hist.loneCnt (loneRemoved f) } }

/-- The report of the oldest ended stroke of an engine (R51): arbitration, then its flag byte joins its flag segment; a replay
stroke is kept there whatever its flags, since it classes the faults that wait for it (R405). -/
def reportFlags (eng : Nat) (s : State) : State :=
  match tget [] s.arr.waiting eng with
  | [] => s
  | f :: fs =>
    let s1 := arbitrate f { s with arr := { s.arr with waiting := tput [] s.arr.waiting eng fs } }
    if flagByte f = 0 ∧ f.stroke.replay = false then s1 else modSeq f.sid (fun q => { q with failed := q.failed ++ [(f.flagIx, f)] }) s1

/-- STROKE_FLAGS_REPORT. -/
def execStrokeFlagsReport (engine : Nat) (s : State) : Out := okIf (isEngine engine) (reportFlags engine s)

end Sys2Proof.Machine
end

