-- ==== Sys2Proof/Machine/GlazeOps.lean ====
section
/-! DEFINITION. The terms of the glaze path: column correction (R156, R157), D16 columns (R144, R147), outlier weights
(R152, R162), outlier activation channels (R168), the residual correction (R174) and tints (R176). -/

namespace Sys2Proof.Machine

/-! ## Where the inputs of an engine tile come from (R145, R152) -/

/-- Key of the channel set of a layer input on a canvas. -/
def chanKey (canvas set : Nat) : Nat := canvas * 65536 + set

/-- The active channels of a set in ascending input index (R166, R168). -/
def activeChans (s : State) (key : Nat) : List Chan :=
  let l := (tget [] s.glz.chans key).filter (·.active)
  l.foldl (fun a c => a.filter (fun d => decide (d.index < c.index)) ++ [c] ++ a.filter (fun d => decide (c.index < d.index))) []

/-- Their input indices. -/
def channels (s : State) (key : Nat) : List Nat := (activeChans s key).map (·.index)

/-- Where an IB slot's values stand before conversion: checkpoint, channel set, input index, block. -/
def provOf (s : State) (core slot : Nat) : Nat × Nat × Nat × Nat := tget (0, 0, 0, 0) s.core.prov (coreIx core * 8192 + slot)

/-- The checkpoint value of row `r` of a slot; a free value where no ECVT of this cluster wrote the slot (log entry 23). -/
def ckptRow (s : State) (core slot r : Nat) : Half :=
  match provOf s core slot with
  | (0, _, _, _) => BitVec.ofNat 16 (Config.freeValue (s.free + 64 * (slot % 8192) + r)).toNat
  | (a + 1, _, _, b) => ckptVal s a (64 * b + r)

/-- Free values that the checkpoint of one operation can take. -/
def ckptFree : Nat := 524288

/-- Whether row `r` of a slot is a channel of its layer input's set. -/
def isChan (s : State) (core slot r : Nat) : Bool :=
  let (a, k, f, _) := provOf s core slot
  a != 0 && (channels s k).contains (f + r)

/-- Slot of an array's first block in a tile. -/
def slotIn (t : TileIn) (array : Nat) : Nat :=
  match t.inputs.find? (·.1 == array) with
  | some e => e.2.1
  | none => 0

/-- Arrays of a tile, in the order they drove it. -/
def tileArrays (t : TileIn) : List Nat := (t.inputs.map (·.1)).dedup

/-- The element of layer input LIX that row `r` of an array of a tile holds: its place in the checkpoint and its input index. Blocks that no
ECVT wrote count from the tile's first array (log entry 23). -/
def lixIx (s : State) (sid lix : Nat) (t : TileIn) (array r : Nat) : Nat × Nat :=
  match provOf s (coreOf array) (slotIn t array) with
  | (0, _, _, _) =>
    let k := (findIx (· == array) (tileArrays t) 0).getD 0
    (64 * k + r, (lixOf s sid lix).first + 64 * k + r)
  | (_, _, f, b) => (64 * b + r, f + r)

/-- The checkpoint value of layer input LIX that met a row, for the current lane (R145, R206). -/
def lixVal (s : State) (i : Iss) (lix : Nat) (t : TileIn) (array r : Nat) : Half :=
  ckptVal s (ckptAddr s i.sid lix (curLaneNo s i)) (lixIx s i.sid lix t array r).1

/-- The channel set of layer input LIX. -/
def lixSet (s : State) (sid lix : Nat) : Nat := chanKey (seqOf s sid).canvas (lixOf s sid lix).chans

/-- Whether a row of a tile is a channel of layer input LIX. -/
def isLixChan (s : State) (sid lix : Nat) (t : TileIn) (array r : Nat) : Bool :=
  (channels s (lixSet s sid lix)).contains (lixIx s sid lix t array r).2

/-! ## The glaze-table directory (R205, R206) -/

/-- Key of an entry of a canvas's directory in a cluster. -/
def dirKey (canvas cl tid : Nat) : Nat := (canvas * 512 + clNum cl) * 65536 + tid

/-- The engine tile whose table directory entry TID of a core's cluster names; the tile the instruction names where the directory has no entry
(log entry 88). -/
def dirTile (s : State) (canvas core tid dflt : Nat) : Nat :=
  match tget 0 s.glz.dir (dirKey canvas (clusterOf core) tid) with
  | 0 => dflt
  | t + 1 => core + t % 65536

/-- An engine tile, or an array, by the logical position of its core (R180, R223). -/
def logicalTile (s : State) (tile : Nat) : Nat := mkCore (clusterOf tile) (roleOf s (coreOf tile)).1 + tile % 65536

/-- The first output column of an engine tile in its projection. -/
def tileColOf (s : State) (canvas tile : Nat) : Nat :=
  match (cnvOf s canvas).bundle with
  | some b => tget 0 b.tileCol (logicalTile s tile)
  | none => 0

/-! ## Master weights (R99, R111, R144) -/

/-- A nibble of a plane image in the W4 layout. -/
def nibble (m : PlaneImage) (i j : Nat) : Int :=
  let v := (nth 0 m.bytes (32 * i + j / 2)).toNat
  sext 4 (if j % 2 = 0 then v % 16 else v / 16)

/-- The master weight of an array's logical row and column; 16 h + l for a W8 pair. -/
def masterW (s : State) (array plane i j : Nat) : Int :=
  let w (a : Nat) : Int := match tget none s.kv.master (planeKey a plane) with | some m => nibble m i j | none => 0
  if fmtOf s array plane = 3 then 16 * w (pairOf array) + w array
  else if fmtOf s array plane = 4 then 16 * w array + w (pairOf array)
  else w array

/-- The array whose scale and place stand for an array's columns: the high one of a W8 pair (R115). -/
def leadArray (s : State) (array plane : Nat) : Nat := if fmtOf s array plane = 3 then pairOf array else array

/-- BF16 scale of a logical column of a plane. -/
def colScale (s : State) (array plane col : Nat) : Half :=
  tget 0 s.arr.scale (planeKey (leadArray s array plane) plane * 4 + col)

/-! ## D16 (R144) -/

/-- The weight that D16 takes for a column's row: the digital column list's copy where the column is listed, the master copy otherwise (R144,
R159). -/
def d16Weight (s : State) (array plane r col : Nat) : Int :=
  match (tget [] s.arr.digcol (coreOf array)).find? fun d =>
      d.active && d.plane == plane && d.col == col && (d.array == array || (decide (3 ≤ fmtOf s array plane) && d.array == pairOf array)) with
  | some d => nth 0 d.w r
  | none => masterW s array plane r col

/-- The D16 sum of one array's column: exact products in FP32 pairs, ascending rows, channels taken as zero, read out
once. -/
def d16Sum (s : State) (array plane slot col : Nat) : Word :=
  let core := coreOf array
  readF32 ((List.range 64).foldl (fun p r =>
    if isChan s core slot r then p
    else awidP p ⟨fmul (bfToF32 (ckptRow s core slot r)) (toF32 (dyOfInt (d16Weight s array plane r col))), 0⟩) Pair.zero)

/-- The D16 pair of one array's column. -/
def d16Pair (s : State) (array plane slot col : Nat) : Pair :=
  twoProd (d16Sum s array plane slot col) (bfToF32 (colScale s array plane col))

/-! ## GCOL (R157) -/

/-- Columns of an array that D16 replaces in a tile: listed columns and the columns its replay left (R147, R160). -/
def replaced (s : State) (d16 : List (Nat × List Nat)) (array plane col : Nat) : Bool :=
  listed s array plane col || d16Has s d16 array plane col

/-- A run's value in a column, with replaced arrays counted as zero. -/
def runN (s : State) (d16 : List (Nat × List Nat)) (plane : Nat) (r : Run) (col : Nat) : Int :=
  r.ks.foldl (fun a k =>
    a + (if replaced s d16 k.array plane col then 0 else nth 0 k.c col * ((2 ^ (k.eps - r.e).toNat : Nat) : Int))) 0

/-- The corrected value u of a run in a column, evaluated exactly and rounded once. -/
def gcolU (s : State) (d16 : List (Nat × List Nat)) (tile plane : Nat) (r : Run) (col : Nat) : Word :=
  let sh (k : Contrib) : Nat := 2 ^ (k.eps - r.e).toNat
  let conv (k : Contrib) : Int × Int := tget (0, 0) s.arr.conv (k.array / 256 * 64 + col)
  let off := r.ks.foldl (fun a k =>
    a + (if replaced s d16 k.array plane col then 0 else ((sh k * k.f : Nat) : Int) * (conv k).1)) 0
  let sig := r.ks.foldl (fun a k => a + ((sh k : Nat) : Int) * k.sig) 0
  let w := r.ks.foldl (fun a k => a + k.beta * sh k) 0
  let kap := r.ks.foldl (fun a k => a + ((k.beta * sh k : Nat) : Int) * (4096 + (conv k).2)) 0
  let d := tget (0, 0) s.arr.drift (tile * 64 + col)
  let num := kap * (16 * runN s d16 plane r col - off) * (65536 + d.1) - d.2 * sig * (w : Int) * 131072
  toF32q .near false ⟨num, -32⟩ w

/-- Promotion of a run's column (R133): u × 2^(e - 126), exactly, times the column's scale. -/
def promoteCol (s : State) (d16 : List (Nat × List Nat)) (tile plane : Nat) (r : Run) (sc : Half) (col : Nat) : Pair :=
  let u := gcolU s d16 tile plane r col
  let w := if fin32 u then toF32 (dyScale (f32Dy u) (r.e - 126)) else u
  twoProd w (bfToF32 sc)

/-! ## The order of an engine tile's additions (R137, R147) -/

/-- Columns of an array that D16 finishes, once per pair for W8. -/
def d16Cols (s : State) (d16 : List (Nat × List Nat)) (plane array : Nat) : List Nat :=
  if leadArray s array plane = array then (List.range 64).filter fun j => replaced s d16 array plane j else []

/-- AWID of the D16 pairs of an array into a tile. -/
def addD16 (core abTile plane : Nat) (t : TileIn) (array : Nat) (cols : List Nat) (s : State) : State :=
  abAddCols core abTile (cols.map fun j => (j, d16Pair s array plane (slotIn t array) j)) s

/-- A run, then the D16 pairs of the arrays it is the first to hold (log entry 89). -/
def addRun (core abTile tile plane : Nat) (d16 : List (Nat × List Nat)) (t : TileIn) (sc : Nat → Half)
    (z : State × List Nat) (r : Run) : State × List Nat :=
  let s := z.1
  let s1 := abAdd core abTile ((List.range 64).map fun j => promoteCol s d16 tile plane r (sc j) j) s
  let new := ((r.ks.map (·.array)).dedup).filter fun a => !z.2.contains a
  (new.foldl (fun u a => addD16 core abTile plane t a (d16Cols s d16 plane a) u) s1, z.2 ++ new)

/-- APRO of one tile, with the drift table of engine tile `gt`: each run in closing order, each followed by its D16 pairs; arrays no run holds
last (log entry 89). A tile marked for D16 is computed whole in D16, with no run (R144, R402). -/
def aproTile (core abTile eng n gt : Nat) (whole : Bool) (s : State) : State :=
  let tl := tget Tile.init s.core.ntr (ntrKey eng n)
  let ik := tileKey eng tl.grp tl.plane * 8 + tl.posIx
  let t := tget TileIn.init s.core.tin ik
  let arrays := tileArrays t
  let sc (j : Nat) : Half := match arrays with | a :: _ => colScale s a tl.plane j | [] => 0
  let z := if whole then (s, []) else
    (tileRuns tl).foldl (addRun core abTile gt tl.plane tl.d16 t sc) (s, [])
  let s2 := (arrays.filter fun a => !z.2.contains a).foldl (fun u a =>
    addD16 core abTile tl.plane t a
      (if whole then (if leadArray s a tl.plane = a then List.range 64 else []) else d16Cols s tl.d16 tl.plane a) u) z.1
  { s2 with core := { s2.core with tin := tput TileIn.init s2.core.tin ik { t with d16 := tl.d16, whole := whole, ab := abTile + 1 } }
            free := s2.free + ckptFree }

/-! ## GOUT (R152, R162) -/

/-- The array and row of a tile row. -/
def rowOf (t : TileIn) (eng grp row : Nat) : Nat × Nat := (mkArray eng (grp * t.gsz + row / 64), row % 64)

/-- The value that met a cell: the sum over an array's blocks of element × 2^(E - 127). -/
def b4Value (t : TileIn) (array r : Nat) : Dy :=
  dySum ((t.inputs.filter (·.1 == array)).map fun e => ⟨nth 0 e.2.2.2 r, e.2.2.1 - 127⟩)

/-- The term of an excluded weight: the checkpoint value on a channel's row and in a D16 tile, the B4 value elsewhere (log entry 90). -/
def outTerm (s : State) (i : Iss) (lix : Nat) (t : TileIn) (eng grp : Nat) (o : OutEntry) : Pair :=
  let (a, r) := rowOf t eng grp o.row
  if t.whole || isLixChan s i.sid lix t a r then twoProd (toF32 (e4Dy o.value)) (bfToF32 (lixVal s i lix t a r))
  else pairOfDy (dyMul (e4Dy o.value) (b4Value t a r))

/-- Whether a residual entry applies: not on a channel's row, in a D16 tile or in a replaced column (R152). -/
def residApplies (s : State) (i : Iss) (lix : Nat) (t : TileIn) (eng grp plane : Nat) (o : OutEntry) : Bool :=
  let (a, r) := rowOf t eng grp o.row
  !t.whole && !isLixChan s i.sid lix t a r && !replaced s t.d16 a plane o.col

/-- The term of a column, summed, read once and scaled (R153; log entry 91). -/
def scaled (s : State) (array plane col : Nat) (p : Pair) : Pair :=
  twoProd (readF32 p) (bfToF32 (colScale s array plane col))

/-- First array of a tile, whose scale the tile's terms take. -/
def firstArray (t : TileIn) (eng grp : Nat) : Nat :=
  match t.inputs with | e :: _ => e.1 | [] => mkArray eng (grp * t.gsz)

/-- What drove an engine tile at a position. -/
def tinOf (s : State) (eng grp plane p : Nat) : TileIn := tget TileIn.init s.core.tin (tileKey eng grp plane * 8 + p)

/-- GOUT of one engine tile into a tile of AB, for one position, with the outlier list of engine tile `gt`. -/
def goutTile (i : Iss) (lix eng grp plane gt abTile p : Nat) (s : State) : State :=
  let t := tinOf s eng grp plane p
  let l := tget ([], []) s.glz.outl gt
  let es := l.1.map (fun o => (o, true)) ++ l.2.map (fun o => (o, false))
  let term (j : Nat) : Pair := es.foldl (fun q e =>
    if e.1.col = j ∧ (e.2 ∨ residApplies s i lix t eng grp plane e.1) then awidP q (outTerm s i lix t eng grp e.1) else q) Pair.zero
  let cols := (List.range 64).filter fun j => es.any fun e => e.1.col == j
  abAddCols (sidCore i.sid) abTile (cols.map fun j => (j, scaled s (firstArray t eng grp) plane j (term j))) s

/-! ## GACT (R168) -/

/-- The row copies that a channel holds of an engine tile's arrays: plane, weights (R166). -/
def rowCopies (s : State) (t : TileIn) (plane : Nat) (c : Chan) : List (List Int) :=
  ((tileArrays t).filter fun a => leadArray s a plane == a).filterMap fun a =>
    (c.rows.find? (·.1 == planeKey (logicalTile s a) plane)).map (·.2)

/-- GACT of one engine tile into a tile of AB, for one position: the set of layer input LIX, products in ascending channel index. -/
def gactTile (i : Iss) (lix eng grp plane abTile p : Nat) (s : State) : State :=
  let t := tinOf s eng grp plane p
  let ck := ckptAddr s i.sid lix (curLaneNo s i)
  let lead := match tileArrays t with | a :: _ => lixIx s i.sid lix t a 0 | [] => (0, 0)
  let cs := (activeChans s (lixSet s i.sid lix)).flatMap fun c => (rowCopies s t plane c).map fun w => (c.index, w)
  let term (j : Nat) : Pair := cs.foldl (fun q c =>
    awidP q (twoProd (bfToF32 (ckptVal s ck (lead.1 + c.1 - lead.2))) (toF32 (dyOfInt (nth 0 c.2 j))))) Pair.zero
  if cs.isEmpty then s
  else abAddCols (sidCore i.sid) abTile ((List.range 64).map fun j => (j, scaled s (firstArray t eng grp) plane j (term j))) s

/-! ## GLR (R173, R174) -/

/-- t_m of a stroke's tile: the sum of x × U over the tile's rows, ascending. -/
def glrT (s : State) (g : GlrTab) (grp gsz : Nat) (as : List ArrStroke) (plane m : Nat) (p0 : Pair) : Pair :=
  as.foldl (fun p a =>
    let base := (arrayNo a.arr - grp * gsz) * 64
    let x := logicalX s plane a
    (List.range 64).foldl (fun q r =>
      let u := nth 0 (nth [] g.u (base + r)) m
      if nth 0 x r = 0 then q
      else awidP q (pairOfDy (dyMul (dyMul ⟨nth 0 x r, a.eps - 127⟩ (dyOfInt u)) (bfDy (nth 0 g.su m))))) p) p0

/-- t of the engine tiles of one stroke: of the groups that issue, added to where the stroke adds to its register. -/
def glrStroke (s : State) (k : Stroke) : State :=
  (ownGroups k).foldl (fun v g =>
    let tk := tileKey (engineOf (match k.arrays with | a :: _ => a.arr | [] => 0)) g.1 k.plane
    let tab := tget GlrTab.init v.glz.glr tk
    let as := k.arrays.filter fun a => arrayNo a.arr / groupSize k.gsz == g.1
    let old := if keepsReg k (k.ntr + g.2) then tget [] v.core.glrT (tk * 8 + k.posIx) else []
    { v with core := { v.core with
        glrT := tput [] v.core.glrT (tk * 8 + k.posIx)
          ((List.range tab.k).map fun m => glrT v tab g.1 (groupSize k.gsz) as k.plane m (nth Pair.zero old m)) } }) s

/-- The strokes of a sequencer's last stroke instruction that stand in its engines' queues. -/
def bundleStrokes (s : State) (i : Iss) : List Stroke :=
  (List.range 16).flatMap fun e => (tget [] s.arr.strokes (mkEngine (sidCore i.sid) e)).filter fun k =>
    k.sid == i.sid && !k.replay && k.seg == i.seg && k.ord + 1 == ordOf (seqOf s i.sid) i.seg

/-- Key of a stroke instruction of a segment whose bundle holds GLR PH 0. -/
def glrKey (seg ord : Nat) : Nat := seg * 65536 + ord

/-- GLR PH 0 for every engine tile of the bundle's stroke, which a replay forms again (R248). -/
def glrIn (i : Iss) (s : State) : State :=
  modSeq i.sid (fun q => { q with glrAt := q.glrAt ++ [glrKey i.seg (ordOf q i.seg - 1)] })
    ((bundleStrokes s i).foldl glrStroke s)

/-- GLR PH 1: t · V of the factors of engine tile `gt` into a tile of AB; omitted for a tile computed in D16 (R152). -/
def glrOut (core eng grp plane gt abTile p : Nat) (s : State) : State :=
  let tab := tget GlrTab.init s.glz.glr gt
  let t := tinOf s eng grp plane p
  let ts := tget [] s.core.glrT (tileKey eng grp plane * 8 + p)
  let term (j : Nat) : Pair := (List.range tab.k).foldl (fun q m =>
    awidP q (twoProd (readF32 (nth Pair.zero ts m))
      (toF32 (dyMul (dyOfInt (nth 0 (nth [] tab.v m) j)) (bfDy (nth 0 tab.sv m)))))) Pair.zero
  if t.whole || tab.k == 0 then s
  else abAddCols core abTile ((List.range 64).map fun j => (j, scaled s (firstArray t eng grp) plane j (term j))) s

/-! ## GTNT (R175, R176) -/

/-- The adapter pair of a lane's tint on a projection, at the bound version. -/
def tintPair (s : State) (l : Lane) (tid : Nat) : Option TintPair :=
  if !l.tbound then none else
  match (tget TintSlot.init (ptnOf s l.ptn).tints l.tint).live.find? (·.ver == l.tver) with
  | some v => v.pairs.find? (·.tid == tid)
  | none => none

/-- Key of a partial h: core, projection, lane, position. -/
def hKey (core tid lane p : Nat) : Nat := ((coreIx core * 65536 + tid) * 256 + lane) * 512 + p

/-- GTNT PH 0: the partial h = x · A over the rows of the engine tile, in ascending order, from the checkpoint of layer input LIX; it goes on from
the partial of the core's other tiles of the projection. -/
def gtntIn (i : Iss) (lix eng grp plane p : Nat) (l : Lane) (tid : Nat) (s : State) : State :=
  match tintPair s l tid with
  | none => s
  | some q =>
    let t := tinOf s eng grp plane p
    let tk := tileKey eng grp plane
    let hk := hKey (sidCore i.sid) tid l.lane p
    let rows := ((tileArrays t).filter fun a => leadArray s a plane == a).flatMap fun a => (List.range 64).map fun r => (a, r)
    let old := tget ([], []) s.core.tintH hk
    let again := old.1.contains tk
    let h (m : Nat) : Pair := rows.foldl (fun z ar =>
      awidP z (twoProd (bfToF32 (lixVal s i lix t ar.1 ar.2)) (bfToF32 (nth 0 (nth [] q.a (lixIx s i.sid lix t ar.1 ar.2).2) m))))
      (if again then Pair.zero else nth Pair.zero old.2 m)
    { s with core := { s.core with
        tintH := tput ([], []) s.core.tintH hk ((if again then [tk] else old.1 ++ [tk]), (List.range q.rank).map h) } }

/-- GTNT PH 1: α × Σ h_m × B_mj, scaled as R153 scales every term (log entry 24), into the tile, with the partials of every
core of the reduction order added. -/
def gtntOut (sid eng grp plane abTile p : Nat) (l : Lane) (tid : Nat) (s : State) : State :=
  match tintPair s l tid with
  | none => s
  | some q =>
    let core := sidCore sid
    let cores := core :: (redOrder s sid abTile).filterMap fun r => (seqOfTable s r).map sidCore
    let h (m : Nat) : Pair := sumPairs (cores.map fun c => nth Pair.zero (tget ([], []) s.core.tintH (hKey c tid l.lane p)).2 m)
    let col := tileColOf s (seqOf s sid).canvas (tileKey eng grp plane)
    let term (j : Nat) : Pair := (List.range q.rank).foldl (fun z m =>
      awidP z (twoProd (readF32 (h m)) (bfToF32 (nth 0 (nth [] q.b m) (col + j))))) Pair.zero
    abAdd core abTile ((List.range 64).map fun j =>
      scaled s (firstArray (tinOf s eng grp plane p) eng grp) plane j (twoProd (readF32 (term j)) (bfToF32 q.alpha))) s

end Sys2Proof.Machine
end

