-- ==== Sys2Proof/Machine/Acc.lean ====
section
/-! DEFINITION. The ACC slot of the core sequencers (R201 to R204): clearing, promotion, wide addition and the
reductions of R140. -/

namespace Sys2Proof.Machine

/-! ## ACLR, ACN, APRO -/

/-- ACLR (R202, R134): tiles TILE to TILE + COUNT - 1 become (+0, +0). -/
def aclrAct (i : Iss) (tile count : Nat) (s : State) : State :=
  alive i false (fun t => { t with core := { t.core with
    ab := zeroRange t.core.ab (abAddr (sidCore i.sid) (offset t i 1 tile) 0) (count * 512) } }) s

def aclrRun (i : Iss) (tile count : Nat) : State → State := enqueueOp (.aclr i tile count) i (fun _ => true) (aclrAct i tile count)

def execAclr (i : Iss) (tile count : Nat) (s : State) : Out :=
  coreOp (.aclr i tile count) i (decide (tile + count ≤ 1024)) (aclrRun i tile count) s

/-- ACN (R202): binds the registers that the bundle's stroke adds into; it stands until that stroke issues. -/
def acnAct (i : Iss) (ntrm : Nat) (s : State) : State :=
  alive i false (fun t => { t with core := { t.core with acn := tput 0 t.core.acn (sidCore i.sid) ntrm } }) s

def execAcn (i : Iss) (ntrm : Nat) (s : State) : Out := coreOp (.acn i ntrm) i (decide (ntrm < 256)) (acnAct i ntrm) s

/-- The registers an APRO reads: one per position, spaced by the tiles of one stroke (R198, R202). -/
def aproRegs (s : State) (i : Iss) (eng ntr vp : Nat) : List Nat :=
  let e := mkEngine (sidCore i.sid) eng
  let d := if vp = 0 then 0 else (tget Tile.init s.core.ntr (ntrKey e ntr)).tiles
  (vpList s i vp).map fun p => ntr + p * d

/-- The binding of an APRO: the first that a GCOL of its engine made (R206). -/
def bindOf (s : State) (core eng : Nat) : Option GBind := (tget [] s.core.bind core).find? (·.eng == eng)

/-- APRO waits until its GCOL is bound and every tile it reads has closed (R203, R206); one of a killed lane waits for nothing. -/
def aproReady (s : State) (i : Iss) (eng ntr vp : Nat) : Bool :=
  let core := sidCore i.sid
  laneDead s i (vp != 0) || ((bindOf s core eng).isSome &&
    (aproRegs s i eng ntr vp).all fun n => (tget Tile.init s.core.ntr (ntrKey (mkEngine core eng) n)).ready)

/-- The sample of a tile for the drift statistics (R433): its columns after GCOL and its input sum, scaled by 2^(e - 127). Listed
columns and columns finished by D16 are left out (R434). -/
def sampleOf (s : State) (seg eng n : Nat) : Sample :=
  let tl := tget Tile.init s.core.ntr (ntrKey eng n)
  let tile := tileKey eng tl.grp tl.plane
  let runs := tileRuns tl
  let sg (r : Run) : Int := isum (r.ks.map fun k => ((2 ^ (k.eps - r.e).toNat : Nat) : Int) * k.sig)
  { seg := seg, tile := tile
    u := (List.range 64).map fun j => dySum (runs.map fun r => dyScale (f32Dy (gcolU s tl.d16 tile tl.plane r j)) (r.e - 126))
    skip := (List.range 64).filter fun j => runs.any fun r => r.ks.any fun k => replaced s tl.d16 k.array tl.plane j
    sig := dySum (runs.map fun r => ⟨sg r, r.e - 127⟩)
    mag := (isum (runs.map sg)).natAbs }

/-- The samples of an APRO: one for each position of a lane without a tint, none of a tile computed whole in D16 (R434). -/
def aproSamples (s : State) (i : Iss) (eng ntr vp a : Nat) : List Sample :=
  match curLane s i with
  | some (l, _) =>
    if l.tbound then []
    else ((aproRegs s i eng ntr vp).zipIdx.filter fun n => !tileMarked s i.sid (a + n.2)).map fun n =>
      sampleOf s i.seg (mkEngine (sidCore i.sid) eng) n.1
  | none => []

/-- The first binding of an engine is used up. -/
def dropBind (eng : Nat) : List GBind → List GBind
  | [] => []
  | b :: bs => if b.eng = eng then bs else b :: dropBind eng bs

/-- APRO (R202, R133, R147): promotes the closed runs of each position's tile in closing order, with the tables that its GCOL binds. -/
def aproAll (i : Iss) (eng ntr tile vp : Nat) (s : State) : State :=
  let core := sidCore i.sid
  let e := mkEngine core eng
  let a := offset s i 1 tile
  let gt := match bindOf s core eng with
    | some b => dirTile s (seqOf s i.sid).canvas core b.tid (tileKey e b.grp b.plane)
    | none => 0
  let s1 := ((aproRegs s i eng ntr vp).zipIdx).foldl (fun t n => aproTile core (a + n.2) e n.1 gt (tileMarked s i.sid (a + n.2)) t) s
  { s1 with core := { s1.core with bind := tput [] s1.core.bind core (dropBind eng (tget [] s1.core.bind core))
                                   samples := s1.core.samples ++ aproSamples s i eng ntr vp a } }

def aproAct (i : Iss) (eng ntr tile vp : Nat) (s : State) : State :=
  alive i (vp != 0) (checkVp i vp (aproAll i eng ntr tile vp)) s

def aproRun (i : Iss) (eng ntr tile vp : Nat) : State → State :=
  enqueueOp (.apro i eng ntr tile vp) i (fun t => aproReady t i eng ntr vp) (aproAct i eng ntr tile vp)

def execApro (i : Iss) (eng ntr tile vp : Nat) (s : State) : Out :=
  coreOp (.apro i eng ntr tile vp) i (decide (eng < 16) && decide (ntr < 8) && decide (tile < 1024) && decide (vp < 2))
    (aproRun i eng ntr tile vp) s

/-! ## AWID (R202, R203) -/

/-- Pairs of a receive slot; a slot that holds a killed transfer adds nothing (R219). -/
def rxTile (s : State) (core slot : Nat) : List Pair :=
  (List.range 64).map fun j => rdPair s.core.rx (rxBase core + slot * 512 + 8 * j)

/-- The credit counter of a credit channel: the channel table maps each to one of 256 (R225, R235). -/
def credCtr (s : State) (sid ch : Nat) : Nat :=
  match tableOf s sid with
  | some t => tget (ch % 256) t.cctr ch % 256
  | none => ch % 256

/-- The arrival credit of a receive slot: the one that the route entries which deliver to the slot name; 0 for none (R203, R235). -/
def rxCred (s : State) (sid slot : Nat) : Nat :=
  match variantOf s (seqOf s sid) with
  | some v => ((v.tables.flatMap fun t => t.routes.filterMap fun r =>
      if r.1 == tableSid s sid && r.2.1 == 4 && r.2.2.1 == slot then some r.2.2.2 else none).find? (· != 0)).getD 0
  | none => 0

/-- One source tile added into a destination; from RX it takes the slot's arrival credit. A slot that holds a killed transfer adds nothing. -/
def awidOne (sid srcsp src dst : Nat) (s : State) : State :=
  let core := sidCore sid
  if srcsp = 0 then abAdd core dst (abTile s core src) s
  else
    let c := rxCred s sid src
    let s1 := if c = 0 then s else modSeq sid (fun q => { q with cred := tmod 0 q.cred (credCtr s sid c) (· - 1) }) s
    if s.core.rxKill.contains (coreIx core * 256 + src) then
      { s1 with core := { s1.core with rxKill := s1.core.rxKill.filter (· != coreIx core * 256 + src) } }
    else abAdd core dst (rxTile s core src) s1

/-- The credit counters that an AWID takes from, one for each receive slot it reads. -/
def awidCreds (s : State) (i : Iss) (saddr tcnt : Nat) : List Nat :=
  ((List.range tcnt).filterMap fun k => match rxCred s i.sid (offset s i 4 saddr + k) with | 0 => none | c => some (credCtr s i.sid c))

/-- Every receive slot an AWID reads holds an arrival credit (R203); one of a killed lane waits for nothing. -/
def awidReady (s : State) (i : Iss) (srcsp saddr tcnt : Nat) : Bool :=
  laneDead s i false || srcsp == 0 ||
    (let cs := awidCreds s i saddr tcnt
     cs.all fun c => decide ((cs.filter (· == c)).length ≤ tget 0 (seqOf s i.sid).cred c))

def awidAll (i : Iss) (dtile srcsp saddr tcnt fold : Nat) (s : State) : State :=
  let src := offset s i (if srcsp = 0 then 1 else 4) saddr
  let dst := offset s i 1 dtile
  (List.range tcnt).foldl (fun t k => awidOne i.sid srcsp (src + k) (if fold = 1 then dst else dst + k) t) s

def awidAct (i : Iss) (dtile srcsp saddr tcnt fold : Nat) (s : State) : State := alive i false (awidAll i dtile srcsp saddr tcnt fold) s

def awidRun (i : Iss) (dtile srcsp saddr tcnt fold : Nat) : State → State :=
  enqueueOp (.awid i dtile srcsp saddr tcnt fold) i (fun t => awidReady t i srcsp saddr tcnt) (awidAct i dtile srcsp saddr tcnt fold)

/-- AWID (R202). -/
def execAwid (i : Iss) (dtile srcsp saddr tcnt fold : Nat) (s : State) : Out :=
  coreOp (.awid i dtile srcsp saddr tcnt fold) i
    (decide (dtile < 1024) && decide (srcsp < 2) && decide (saddr < if srcsp = 0 then 1024 else 256)
      && decide (1 ≤ tcnt) && decide (tcnt ≤ 16) && decide (fold < 2))
    (awidRun i dtile srcsp saddr tcnt fold) s

/-! ## Reductions (R140, R141, R202, R204) -/

/-- Elements of the tiles a reduction names, in order, with their indices. -/
def redElems (s : State) (core src nt idxb : Nat) : List (Pair × Nat) :=
  (List.range nt).flatMap fun t => (List.range 64).map fun j => (abGet s core (src + t) j, idxb * 64 + 64 * t + j)

/-- The compensated sum of pairs; of squares, each an exact product in a pair (R204). -/
def redSum (sq : Nat) (es : List (Pair × Nat)) : Pair :=
  es.foldl (fun a e => awidP a (if sq = 1 then twoProd (readF32 e.1) (readF32 e.1) else e.1)) Pair.zero

/-- The larger of two FP32 values by the order of R140; any NaN gives 0x7FC0_0000. -/
def maxW (a b : Word) : Word :=
  if nan32 a || nan32 b then canonNan else if fKey a < fKey b then b else a

def minW (a b : Word) : Word :=
  if nan32 a || nan32 b then canonNan else if fKey b < fKey a then b else a

/-- The better of two candidates of RARG: NaN above every number, the larger value, then the lower index. -/
def argBetter (a b : Word × Nat) : Word × Nat :=
  if nan32 a.1 then (if nan32 b.1 ∧ b.2 < a.2 then (canonNan, b.2) else (canonNan, a.2))
  else if nan32 b.1 then (canonNan, b.2)
  else if fKey a.1 < fKey b.1 then b
  else if fKey b.1 < fKey a.1 then a
  else if b.2 < a.2 then b else a

/-- The set bits of a word. -/
def popc (w : Word) : Nat := (List.range 32).foldl (fun n k => n + b2n (bitOf w.toNat k)) 0

/-- A fold over the elements of a list that starts with its first. -/
def fold1 {α : Type} (f : α → α → α) (d : α) : List α → α
  | [] => d
  | x :: xs => xs.foldl f x

/-- Where a reduction's result lies in a core: SR or column 0 of DST. -/
def redGet (s : State) (core dst dsr : Nat) : Pair :=
  if dsr = 1 then tget Pair.zero s.core.sr (coreIx core * 8 + dst % 8) else abGet s core dst 0

def redPut (core dst dsr : Nat) (p : Pair) (s : State) : State :=
  if dsr = 1 then { s with core := { s.core with sr := tput Pair.zero s.core.sr (coreIx core * 8 + dst % 8) p } }
  else { s with core := { s.core with ab := wrPair s.core.ab (abAddr core dst 0) p } }

/-- A reduction: within the core, then over the recorded reduction order, whose cores hold their partial results at the same
place (R137, R202; log entry 25). -/
def reduce (i : Iss) (f : RedF) (loc : List (Pair × Nat) → Pair) (comb : Pair → Pair → Pair) (s : State) : State :=
  let core := sidCore i.sid
  let src := offset s i 1 f.src
  let dst := if f.dsr = 1 then f.dst else offset s i 1 f.dst
  let own := loc (redElems s core src f.nt f.idxb)
  let others := ((redOrder s i.sid (if f.dsr = 1 then srOrder f.dst else dst)).filterMap (seqOfTable s)).map fun r =>
    redGet s (sidCore r) dst f.dsr
  redPut core dst f.dsr (others.foldl comb own) s

def redOk (f : RedF) : Bool :=
  decide (f.src < 1024) && decide (f.dst < 1024) && decide (f.dsr < 2) && decide (1 ≤ f.nt) && decide (f.nt ≤ 63)
    && decide (f.idxb < 65536)

/-- An FP32 or word result in the leading half of a pair. -/
def lead1 (w : Word) : Pair := ⟨w, 0⟩

/-- The reductions of each mnemonic, within a core and across cores (R140). -/
def rsumAct (i : Iss) (f : RedF) (sq : Nat) (s : State) : State := alive i false (reduce i f (redSum sq) awidP) s

/-- RMAX: maximum of the FP32 roundings of the pairs (R140, R141). -/
def rmaxAct (i : Iss) (f : RedF) (s : State) : State :=
  alive i false (reduce i f (fun es => lead1 (fold1 maxW negInf (es.map fun e => readF32 e.1))) fun a b => lead1 (maxW a.s b.s)) s

def rminAct (i : Iss) (f : RedF) (s : State) : State :=
  alive i false (reduce i f (fun es => lead1 (fold1 minW posInf (es.map fun e => readF32 e.1))) fun a b => lead1 (minW a.s b.s)) s

/-- RARG: value in the leading half, index in the other (R204). -/
def rargAct (i : Iss) (f : RedF) (s : State) : State :=
  alive i false (reduce i f
    (fun es =>
      let r := fold1 argBetter (negInf, 0) (es.map fun e => (readF32 e.1, e.2))
      ⟨if nan32 r.1 then canonNan else r.1, BitVec.ofNat 32 r.2⟩)
    fun a b =>
      let r := argBetter (a.s, a.c.toNat) (b.s, b.c.toNat)
      ⟨r.1, BitVec.ofNat 32 r.2⟩) s

/-- RAND: bitwise AND of the elements' leading words. -/
def randAct (i : Iss) (f : RedF) (s : State) : State :=
  alive i false (reduce i f (fun es => lead1 (fold1 (· &&& ·) 0 (es.map fun e => e.1.s))) fun a b => lead1 (a.s &&& b.s)) s

def rorAct (i : Iss) (f : RedF) (s : State) : State :=
  alive i false (reduce i f (fun es => lead1 (fold1 (· ||| ·) 0 (es.map fun e => e.1.s))) fun a b => lead1 (a.s ||| b.s)) s

def rxorAct (i : Iss) (f : RedF) (s : State) : State :=
  alive i false (reduce i f (fun es => lead1 (fold1 (· ^^^ ·) 0 (es.map fun e => e.1.s))) fun a b => lead1 (a.s ^^^ b.s)) s

/-- RCNT: the count of set bits. -/
def rcntAct (i : Iss) (f : RedF) (s : State) : State :=
  alive i false
    (reduce i f (fun es => lead1 (BitVec.ofNat 32 (es.foldl (fun n e => n + popc e.1.s) 0))) fun a b => lead1 (a.s + b.s)) s

/-- A reduction waits for nothing but its place in the ACC and AB queues. -/
def redRun (c : Instr) (i : Iss) (act : State → State) : State → State := enqueueOp c i (fun _ => true) act

def execRsum (i : Iss) (f : RedF) (sq : Nat) (s : State) : Out :=
  coreOp (.rsum i f sq) i (redOk f && decide (sq < 2)) (redRun (.rsum i f sq) i (rsumAct i f sq)) s

def execRmax (i : Iss) (f : RedF) (s : State) : Out := coreOp (.rmax i f) i (redOk f) (redRun (.rmax i f) i (rmaxAct i f)) s

def execRmin (i : Iss) (f : RedF) (s : State) : Out := coreOp (.rmin i f) i (redOk f) (redRun (.rmin i f) i (rminAct i f)) s

def execRarg (i : Iss) (f : RedF) (s : State) : Out := coreOp (.rarg i f) i (redOk f) (redRun (.rarg i f) i (rargAct i f)) s

def execRand (i : Iss) (f : RedF) (s : State) : Out := coreOp (.rand i f) i (redOk f) (redRun (.rand i f) i (randAct i f)) s

def execRor (i : Iss) (f : RedF) (s : State) : Out := coreOp (.ror i f) i (redOk f) (redRun (.ror i f) i (rorAct i f)) s

def execRxor (i : Iss) (f : RedF) (s : State) : Out := coreOp (.rxor i f) i (redOk f) (redRun (.rxor i f) i (rxorAct i f)) s

def execRcnt (i : Iss) (f : RedF) (s : State) : Out := coreOp (.rcnt i f) i (redOk f) (redRun (.rcnt i f) i (rcntAct i f)) s

end Sys2Proof.Machine
end

