-- ==== Sys2Proof/Machine/Kv.lean ====
section
/-! DEFINITION. The key-value cache: the near tier's slices (R265 to R267), page tables and their walk (R272 to R276),
masks (R286 to R289), and what COMMIT does to the pages (R271, R315). A page frame of a die holds at most eight head slices of
64 KiB; a byte of the near tier is named by die, frame and offset. -/

namespace Sys2Proof.Machine

/-! ## Frames (R265, R266, R272) -/

/-- Near-tier address of a byte of a die's slice frame. -/
def nearAddr (n frame off : Nat) : Nat := (n * 2 ^ 28 + frame) * 524288 + off

/-- The page frame that a partition's memory window gives for a page number (R266). -/
def frameOf (s : State) (ptn page : Nat) : Option Nat :=
  match tget 0 s.kv.window (ptn * 2 ^ 28 + page) with
  | 0 => none
  | f + 1 => some f

/-- The first number from `k` on that passes a test, within `n` numbers. -/
def firstFree (p : Nat → Bool) : Nat → Nat → Nat
  | 0, k => k
  | n + 1, k => if p k then k else firstFree p n (k + 1)

/-- A physical frame of the near tier that nothing holds, that is not retired, and that has been scrubbed. -/
def frameFree (s : State) (f : Nat) : Bool :=
  tget 0 s.kv.owner f == 0 && !s.kv.retired.contains f

/-- Bytes that a page of a partition takes on the eight dies: 64 KiB for each KV head of its canvas (R265). -/
def pageBytes (s : State) (ptn : Nat) : Nat :=
  65536 * match (cnvOf s (ptnOf s ptn).canvas).bundle with | some b => b.kvHeads | none => 8

/-- Bytes of the glaze tables, whose home is the near tier (R162, R173, R178). -/
def glazeBytes (g : GlzSt) : Nat :=
  g.outl.foldl (fun a e => a + 4 + 3 * (e.2.1.length + e.2.2.length)) 0
    + g.glr.foldl (fun a e => a + e.2.k * (e.2.u.length + 64) / 2 + 4 * e.2.k) 0

/-- Bytes of the near tier in use (R19, R300): page frames, retired frames, embedding tables of the resident canvases, glaze tables. -/
def nearBytes (s : State) : Nat :=
  s.kv.owner.foldl (fun a e => a + pageBytes s (e.2 - 1)) 0 + 524288 * s.kv.retired.length
    + (List.range 4).foldl (fun a c => a + match (cnvOf s c).bundle with | some b => 2 * b.hidden * b.embed.length | none => 0) 0
    + glazeBytes s.glz

/-- A free frame for a page number, in the stack of its parity on every die (R266); none when the near tier's 512 GiB have no room for it. -/
def freshFrame (s : State) (ptn page : Nat) : Option Nat :=
  if nearTierBytes < nearBytes s + pageBytes s ptn then none
  else some (2 * firstFree (fun k => frameFree s (2 * k + page % 2)) 524288 0 + page % 2)

/-- Where the embedding table of a canvas lies: on context die `n`, a word's stripe of `len` bytes (R300). -/
def embedAddr (c n word len : Nat) : Nat := 2 ^ 50 + c * 2 ^ 46 + n * 2 ^ 40 + word * len

/-- A leaf entry of a page table as the walk finds it on one die (R273). -/
structure Leaf where
  frame  : Nat
  mx     : Bool
  half   : Nat
  fill   : Nat
  sframe : Nat
  sslot  : Nat
  addr   : Nat
  deriving DecidableEq, Repr, Inhabited

/-- A little-endian number of `n` bytes in the near tier. -/
def nearNat (s : State) (a n : Nat) : Nat := leNat (rdBytes s.kv.near a n)

/-- A page-table root, directory or leaf as it stands in the near tier: an address, or the fault cause of R276. -/
inductive Walk (α : Type) where
  | at (a : α)
  | fault (cause : Nat)
  deriving Repr

/-- The table block that a pointer names (R272): page number in bits [31:4], block in bits [3:0]. -/
def tableBlock (s : State) (n ptn ptr : Nat) : Walk Nat :=
  match frameOf s ptn (ptr / 16) with
  | some f => .at (nearAddr n f (ptr % 16 * 4096))
  | none => .fault 0x21

/-- Follows a valid 8-byte table entry to the block it names. -/
def follow (s : State) (n ptn a : Nat) : Walk Nat :=
  let e := nearNat s a 8
  if bitOf e 32 then tableBlock s n ptn (e % 2 ^ 32) else .fault 0x20

/-- A leaf entry read: not valid, or its page outside the window, or its page poisoned (R276). -/
def readLeaf (s : State) (ptn a : Nat) : Walk Leaf :=
  let w := nearNat s a 4
  if !bitOf w 28 then .fault 0x20
  else match frameOf s ptn (w % 2 ^ 28) with
    | none => .fault 0x21
    | some f =>
      if bitOf w 31 then .fault 0x28
      else if bitOf w 29 then
        (match frameOf s ptn (nearNat s (a + 8) 4 % 2 ^ 28) with
          | none => .fault 0x21
          | some sf => .at { frame := f, mx := true, half := fld w 30 1, fill := nearNat s (a + 4) 4 % 512, sframe := sf,
                             sslot := nearNat s (a + 12) 4 % 32, addr := a })
      else .at { frame := f, mx := false, half := 0, fill := nearNat s (a + 4) 4 % 512, sframe := 0, sslot := 0, addr := a }

/-- The walk of R274 on die `n` for page `j` of a layer. -/
def walkPage (s : State) (n ptn root layer j : Nat) : Walk Leaf :=
  match frameOf s ptn root with
  | none => .fault 0x21
  | some rf =>
    match follow s n ptn (nearAddr n rf (8 * (layer / 8))) with
    | .fault c => .fault c
    | .at dir =>
      match follow s n ptn (dir + 8 * (j / 8)) with
      | .fault c => .fault c
      | .at leaf => readLeaf s ptn (leaf + 64 * (layer % 8 * 8 + j % 8))

/-! ## Look-aside buffer and directory cache (R274, R275) -/

/-- An entry taken into a least-recently-used buffer of `cap` entries. -/
def lruTouch (cap : Nat) (same : Nat × Nat × Nat → Bool) (e : Nat × Nat × Nat) (l : List (Nat × Nat × Nat)) :
    List (Nat × Nat × Nat) :=
  let mine := (e :: l.filter fun x => same x && x != e).take cap
  mine ++ l.filter fun x => !same x

/-- A walk of page `j` of a layer leaves its tags in the cluster's buffers: 64 leaf entries and 16 directory entries. -/
def touchWalk (cl root layer j : Nat) (s : State) : State :=
  { s with kv := { s.kv with
      look := lruTouch 64 (fun x => x.1 == cl) (cl, root, layer * 2048 + j) s.kv.look
      dirs := lruTouch 16 (fun x => x.1 == cl) (cl, root, layer / 8 * 256 + j / 8) s.kv.dirs } }

/-! ## Elements (R267) -/

/-- Offset of local head `u`'s element `d` of slot `t` in its slice, for keys (0) or values (1). -/
def elemOff (p : Leaf) (u kind t d : Nat) : Nat :=
  if p.mx then u * 65536 + p.half * 32768 + kind * 16384 + 64 * t + d / 2
  else u * 65536 + kind * 32768 + 128 * t + d

/-- Address of the E8M0 scale of slot `t`, dimensions 32b to 32b + 31, in a scale frame. -/
def mxScaleAddr (n : Nat) (p : Leaf) (u kind t b : Nat) : Nat :=
  nearAddr n p.sframe (u * 65536 + p.sslot * 2048 + kind * 1024 + 4 * t + b)

/-- The exponent X - 127 of an MXFP4 block. -/
def mxExp (s : State) (n : Nat) (p : Leaf) (u kind t b : Nat) : Int :=
  ((rdByte s.kv.near (mxScaleAddr n p u kind t b)).toNat : Int) - 127

/-- An element without its scale. -/
def elemDy (s : State) (n : Nat) (p : Leaf) (u kind t d : Nat) : Dy :=
  let b := rdByte s.kv.near (nearAddr n p.frame (elemOff p u kind t d))
  if p.mx then decE2m1 (if d % 2 = 0 then b.toNat % 16 else b.toNat / 16) else e4Dy b

/-- The page's FP8 scale of a local head: keys or values. -/
def pageScale (s : State) (p : Leaf) (u kind : Nat) : Half := rdHalf s.kv.near (p.addr + 16 + 4 * u + 2 * kind)

/-! ## Masks (R286 to R289) -/

/-- The attention layer record of a canvas's layer (R284). -/
def attnRec (s : State) (canvas layer : Nat) : AttnRec := tget AttnRec.init s.kv.attn (canvas * 128 + layer)

/-- The mode a MASK field and a lane give (R286): 0 CAUSAL, 1 SKIP, 2 BITMAP. -/
def maskMode (mask laneMask win : Nat) : Nat :=
  if mask = 3 then (if laneMask = 2 then 2 else if win = 0 then 0 else 1) else mask

/-- A byte of a lane's mask area; the area may pass to consecutive page numbers (R289). -/
def maskByte (s : State) (n ptn mroot x : Nat) : Nat :=
  match frameOf s ptn (mroot + x / 65536) with
  | some f => (rdByte s.kv.near (nearAddr n f (x % 65536))).toNat
  | none => 0

/-- A little-endian number of a mask area. -/
def maskNat (s : State) (n ptn mroot x len : Nat) : Nat :=
  (List.range len).foldl (fun a k => a + maskByte s n ptn mroot (x + k) * 256 ^ k) 0

/-- The header of a mask area: rows, coded blocks, base, offset of the bitmaps in 32-byte units. -/
structure MaskHdr where
  nrow  : Nat
  nblk  : Nat
  base  : Nat
  bmoff : Nat
  deriving DecidableEq, Repr

def maskHdr (s : State) (n ptn mroot : Nat) : MaskHdr :=
  let w := maskNat s n ptn mroot 0 4
  { nrow := fld w 0 10, nblk := fld w 10 10, base := maskNat s n ptn mroot 4 4, bmoff := maskNat s n ptn mroot 8 4 }

/-- The code of coded block `b` in row `r`. -/
def maskCode (s : State) (n ptn mroot r b : Nat) : Nat :=
  maskByte s n ptn mroot (64 + 256 * r + b / 4) / 4 ^ (b % 4) % 4

/-- A malformed mask area (R276 cause 0x22): its rows differ from NPOS, a count is out of range, a reserved field is not 0,
or a code is reserved. -/
def maskBad (s : State) (n ptn mroot npos : Nat) : Bool :=
  let h := maskHdr s n ptn mroot
  h.nrow != npos || h.nblk == 0 || decide (512 < h.nblk) || fld (maskNat s n ptn mroot 0 4) 20 12 != 0
    || (List.range 52).any (fun k => maskByte s n ptn mroot (12 + k) != 0)
    || (List.range npos).any fun r => (List.range h.nblk).any (fun b => maskCode s n ptn mroot r b == 3)
      || (List.range 124).any fun k => maskByte s n ptn mroot (64 + 256 * r + 132 + k) != 0

/-- A coded block's bitmap: the row's code-2 blocks take bitmap blocks in order from BIX. -/
def maskBit (s : State) (n ptn mroot r b k : Nat) : Bool :=
  let h := maskHdr s n ptn mroot
  let bix := maskNat s n ptn mroot (64 + 256 * r + 128) 4
  let ord := ((List.range b).filter fun x => maskCode s n ptn mroot r x == 2).length
  bitOf (maskByte s n ptn mroot (32 * (h.bmoff + bix + ord) + k % 256 / 8)) (k % 8)

/-- What the mask of a BITMAP lane says of page `j` in row `r`: 0 all masked, 1 all visible, 2 its bitmap decides. -/
def blockCode (s : State) (n ptn mroot r j : Nat) : Nat :=
  let h := maskHdr s n ptn mroot
  if j < h.base then 1 else if h.base + h.nblk ≤ j then 0 else maskCode s n ptn mroot r (j - h.base)

/-- Whether slot `k` lies in the window of a query at `q`. -/
def inWin (win q k : Nat) : Bool := win == 0 || decide (q < k + win)

/-- Visibility of slot `k` for position `p` (R287). -/
def visible (s : State) (n : Nat) (l : Lane) (mode win p k : Nat) : Bool :=
  let q := l.ctx + p
  if l.ctx + l.npos ≤ k then false
  else if mode = 0 then decide (k ≤ q)
  else if mode = 1 then decide (k ≤ q) && inWin win q k
  else inWin win q k &&
    (match blockCode s n l.ptn l.mroot p (k / 256) with
      | 0 => false
      | 1 => true
      | _ => maskBit s n l.ptn l.mroot p (k / 256 - (maskHdr s n l.ptn l.mroot).base) k)

/-- Whether an issue reads page `j` (R288): some slot is unmasked for some position; under BITMAP the block codes decide. -/
def pageRead (s : State) (n : Nat) (l : Lane) (mode win j : Nat) : Bool :=
  (List.range l.npos).any fun p => (List.range 256).any fun t =>
    let k := 256 * j + t
    let q := l.ctx + p
    if l.ctx + l.npos ≤ k then false
    else if mode = 0 then decide (k ≤ q)
    else if mode = 1 then decide (k ≤ q) && inWin win q k
    else inWin win q k && blockCode s n l.ptn l.mroot p j != 0

/-- Pages of a lane that a cluster reads, ascending (R264, R288). -/
def pagesRead (s : State) (n c : Nat) (l : Lane) (mode win : Nat) : List Nat :=
  (List.range ((l.ctx + l.npos + 255) / 256)).filter fun j => j % 4 == c && pageRead s n l mode win j

/-- The walks of a list of pages: every leaf, or the first fault. -/
def walkAll (s : State) (n ptn root layer : Nat) : List Nat → Walk (List (Nat × Leaf))
  | [] => .at []
  | j :: js =>
    match walkPage s n ptn root layer j with
    | .fault c => .fault c
    | .at p =>
      match walkAll s n ptn root layer js with
      | .fault c => .fault c
      | .at ps => .at ((j, p) :: ps)

/-- The descriptor's page-table root and context lie inside the partition's window (R218). -/
def laneInWindow (s : State) (l : Lane) : Bool :=
  (frameOf s l.ptn l.ptroot).isSome && decide (l.ctx + l.npos ≤ 524288)

/-! ## Tables written by the scheduler core (R272, R273) -/

/-- The dies' copies of a table block written alike at the same place. -/
def nearAll (frame off : Nat) (bs : List Byte) (s : State) : State :=
  { s with kv := { s.kv with near := (List.range 8).foldl (fun m n => wrBytes m (nearAddr n frame off) bs) s.kv.near } }

/-- FILL of a leaf entry set (R271). -/
def setFill (p : Leaf) (v : Nat) (s : State) : State :=
  { s with kv := { s.kv with near := wrBytes s.kv.near (p.addr + 4) (leBytes (v % 512) 4) } }

/-- Marks a page of a request POISON in every die's copy (R297). -/
def markPoison (ptn root layer j : Nat) (s : State) : State :=
  (List.range 8).foldl (fun t n =>
    match walkPage t n ptn root layer j with
    | .at p => { t with kv := { t.kv with near := wrBytes t.kv.near p.addr (leBytes (nearNat t p.addr 4 ||| 2 ^ 31) 4) } }
    | .fault _ => t) s

/-! ## COMMIT on the pages (R271, R315) -/

/-- One slot's bytes of a slice copied to another slot: keys, values and, for MXFP4, their scales. -/
def copySlot (n : Nat) (src dst : Leaf) (ts td : Nat) (s : State) : State :=
  let w := if src.mx then 64 else 128
  let m := (List.range 8).foldl (fun m u =>
    [0, 1].foldl (fun m k =>
      let m1 := wrBytes m (nearAddr n dst.frame (elemOff dst u k td 0)) (rdBytes m (nearAddr n src.frame (elemOff src u k ts 0)) w)
      if src.mx then wrBytes m1 (mxScaleAddr n dst u k td 0) (rdBytes m1 (mxScaleAddr n src u k ts 0) 4) else m1) m) s.kv.near
  { s with kv := { s.kv with near := m } }

/-- The accepted node at depth `d` moves from slot CTX + node to slot CTX + d, on every die, for a layer (R315). -/
def moveNode (l : Lane) (layer node d : Nat) (s : State) : State :=
  if node = d then s
  else (List.range 8).foldl (fun t n =>
    match walkPage t n l.ptn l.ptroot layer ((l.ctx + node) / 256), walkPage t n l.ptn l.ptroot layer ((l.ctx + d) / 256) with
    | .at a, .at b => copySlot n a b ((l.ctx + node) % 256) ((l.ctx + d) % 256) t
    | _, _ => t) s

/-- FILL of page `j` of a layer on one die becomes the count of its committed slots below `upto` (R271). -/
def fillPage (l : Lane) (upto n layer j : Nat) (s : State) : State :=
  match walkPage s n l.ptn l.ptroot layer j with
  | .at p => setFill p (min 256 (upto - 256 * j)) s
  | .fault _ => s

end Sys2Proof.Machine
end

