-- ==== Sys2Proof/Machine/Glaze.lean ====
section
/-! DEFINITION. The tile-term instructions of the GLAZE slot (R205, R206). -/

namespace Sys2Proof.Machine

/-- Legal fields of the tile-term instructions. -/
def glzOk (f : GlzF) : Bool :=
  decide (f.eng < 16) && decide (f.grp < 4) && decide (f.plane < 16) && decide (f.tile < 1024) && decide (f.tid < 65536)
    && decide (f.vp < 2) && decide (f.ph < 2) && decide (f.lix < 64)

/-- A term for each position that the instruction covers, into TILE + p. -/
def eachPos (i : Iss) (f : GlzF) (term : Nat → Nat → State → State) (s : State) : State :=
  let a := offset s i 1 f.tile
  (vpList s i f.vp).foldl (fun t p => term p (a + p) t) s

/-- A tile-term instruction on an engine tile, for the positions it covers; one that takes the verify width checks it (R218), and one of a killed
lane is empty. -/
def glzAct (i : Iss) (f : GlzF) (term : Nat → Nat → State → State) (s : State) : State :=
  alive i (f.vp != 0) (checkVp i f.vp (eachPos i f term)) s

/-- The engine of a tile-term instruction, and the engine tile whose table its TID names. -/
def glzEng (i : Iss) (f : GlzF) : Nat := mkEngine (sidCore i.sid) f.eng
def glzTab (s : State) (i : Iss) (f : GlzF) : Nat := dirTile s (seqOf s i.sid).canvas (sidCore i.sid) f.tid (tileKey (glzEng i f) f.grp f.plane)

/-- A tile-term instruction waits for nothing but its place in the GLAZE and AB queues. -/
def glzRun (c : Instr) (i : Iss) (act : State → State) : State → State := enqueueOp c i (fun _ => true) act

/-- NOPG. -/
def execNopg (i : Iss) (s : State) : Out := coreOp (.nopg i) i true id s

/-- GCOL (R206): binds the converter and drift tables to the APRO of its bundle. -/
def gcolAct (i : Iss) (f : GlzF) (s : State) : State :=
  alive i (f.vp != 0) (fun t => { t with core := { t.core with
    bind := tput [] t.core.bind (sidCore i.sid)
      (tget [] t.core.bind (sidCore i.sid) ++ [{ eng := f.eng, grp := f.grp, plane := f.plane, tid := f.tid }]) } }) s

def gcolOk (f : GlzF) : Bool := glzOk f && f.tile == 0 && f.ph == 0

/-- GOUT (R162). -/
def goutAct (i : Iss) (f : GlzF) (s : State) : State :=
  glzAct i f (fun p a => goutTile i f.lix (glzEng i f) f.grp f.plane (glzTab s i f) a p) s

def execGout (i : Iss) (f : GlzF) (s : State) : Out :=
  coreOp (.gout i f) i (glzOk f && f.ph == 0) (glzRun (.gout i f) i (goutAct i f)) s

/-- GACT (R168). -/
def gactAct (i : Iss) (f : GlzF) (s : State) : State :=
  glzAct i f (fun p a => gactTile i f.lix (glzEng i f) f.grp f.plane a p) s

def execGact (i : Iss) (f : GlzF) (s : State) : Out :=
  coreOp (.gact i f) i (glzOk f && f.ph == 0) (glzRun (.gact i f) i (gactAct i f)) s

/-- GLR (R174): PH 0 forms t for the bundle's strokes as they are issued, PH 1 adds t · V. -/
def glrAct (i : Iss) (f : GlzF) (s : State) : State :=
  if f.ph = 0 then alive i (f.vp != 0) (glrIn i) s
  else glzAct i f (fun p a => glrOut (sidCore i.sid) (glzEng i f) f.grp f.plane (glzTab s i f) a p) s

def glrRun (i : Iss) (f : GlzF) : State → State := if f.ph = 0 then glrAct i f else glzRun (.glr i f) i (glrAct i f)

def execGlr (i : Iss) (f : GlzF) (s : State) : Out :=
  coreOp (.glr i f) i (glzOk f && (f.ph == 1 || (f.eng == 0 && f.grp == 0 && f.tile == 0))) (glrRun i f) s

/-- A lane bound to a tint whose version is not resident (R218). -/
def tintMissing (s : State) (l : Lane) : Bool :=
  l.tbound && !(tget TintSlot.init (ptnOf s l.ptn).tints l.tint).live.any (·.ver == l.tver)

/-- GTNT of the current lane (R176, R218). -/
def gtntAll (i : Iss) (f : GlzF) (s : State) : State :=
  match curLane s i with
  | none => s
  | some (l, _) =>
    if tintMissing s l then seqFaultOpen i.sid s
    else if f.ph = 0 then eachPos i f (fun p _ => gtntIn i f.lix (glzEng i f) f.grp f.plane p l f.tid) s
    else eachPos i f (fun p a => gtntOut i.sid (glzEng i f) f.grp f.plane a p l f.tid) s

def gtntAct (i : Iss) (f : GlzF) (s : State) : State := alive i true (checkVp i f.vp (gtntAll i f)) s

def execGtnt (i : Iss) (f : GlzF) (s : State) : Out := coreOp (.gtnt i f) i (glzOk f) (glzRun (.gtnt i f) i (gtntAct i f)) s

end Sys2Proof.Machine
end

