-- ==== Sys2Proof/Machine/Element.lean ====
section
/-! DEFINITION. The element instructions of the GLAZE slot (R205, R207) and the conversion to B4 (R121 to R125, R167,
R169). -/

namespace Sys2Proof.Machine

/-- Legal fields of the element instructions. -/
def elOk (f : ElF) : Bool := decide (f.src < 2048) && decide (f.dst < 2048) && decide (f.len < 256) && decide (f.ty < 2)

/-- Elements of a vector instruction. -/
def elCount (f : ElF) : Nat := len256 f.len * 64

/-- Writes computed elements in the TY format. -/
def elWrite (i : Iss) (f : ElF) (vals : List Word) (s : State) : State :=
  let d := offset s i 0 f.dst
  { s with core := { s.core with
      ob := (vals.zipIdx).foldl (fun m v => obPut m (sidCore i.sid) d f.ty v.2 v.1) s.core.ob } }

/-- An elementwise function of one operand. -/
def elMap (i : Iss) (f : ElF) (g : Nat → Word → Word) (s : State) : State :=
  let a := offset s i 0 f.src
  elWrite i f ((List.range (elCount f)).map fun k => g k (obElem s (sidCore i.sid) a f.ty k)) s

/-- The RMS denominator: sqrt(sr / n + ε), each operation rounded once (log entry 26). -/
def rmsDen (sr : Pair) (n : Nat) (eps : Word) : Word :=
  fsqrt (fadd (fdiv (readF32 sr) (toF32 (dyOfInt n))) eps)

/-- An element instruction waits for nothing but its place in the GLAZE queue; one of a killed lane is empty (R189, R219). -/
def elRun (c : Instr) (i : Iss) (act : State → State) : State → State := enqueueOp c i (fun _ => true) act

/-- ENORM (R207): x g / sqrt(sr / n + ε), with the gain vector in BF16 in cluster SRAM (log entry 26). -/
def enormAct (i : Iss) (f : ElF) (sr lix : Nat) (s : State) : State :=
  alive i false (fun t =>
    let l := lixOf t i.sid lix
    let d := rmsDen (tget Pair.zero t.core.sr (coreIx (sidCore i.sid) * 8 + sr)) l.len l.eps
    elMap i f (fun k x =>
      fdiv (fmul x (bfToF32 (rdHalf t.core.sram (sramBase i.sid + l.gain * 2048 + 2 * k)))) d) t) s

def execEnorm (i : Iss) (f : ElF) (sr lix : Nat) (s : State) : Out :=
  coreOp (.enorm i f sr lix) i (elOk f && decide (sr < 8) && decide (lix < 64)) (elRun (.enorm i f sr lix) i (enormAct i f sr lix)) s

/-- The functions of EACT (R205): SiLU, GELU-tanh, squared ReLU, identity. -/
def actFn (fn : Nat) (x : Word) : Word :=
  if fn = 0 then siluW x
  else if fn = 1 then geluW x
  else if fn = 2 then (if nan32 x then mkNan x x else if fLt 0 x then fmul x x else 0)
  else x

def eactAct (i : Iss) (f : ElF) (fn : Nat) (s : State) : State := alive i false (elMap i f fun _ x => actFn fn x) s

def execEact (i : Iss) (f : ElF) (fn : Nat) (s : State) : Out :=
  coreOp (.eact i f fn) i (elOk f && decide (fn < 4)) (elRun (.eact i f fn) i (eactAct i f fn)) s

/-- A function of two operands, element by element. -/
def elZip (i : Iss) (f : ElF) (srcb : Nat) (g : Word → Word → Word) (s : State) : State :=
  alive i false (fun t => elMap i f (fun k x => g x (obElem t (sidCore i.sid) (offset t i 0 srcb) f.ty k)) t) s

/-- EMUL: one FP32 product per element. -/
def emulAct (i : Iss) (f : ElF) (srcb : Nat) (s : State) : State := elZip i f srcb fmul s

def execEmul (i : Iss) (f : ElF) (srcb : Nat) (s : State) : Out :=
  coreOp (.emul i f srcb) i (elOk f && decide (srcb < 2048)) (elRun (.emul i f srcb) i (emulAct i f srcb)) s

/-- EADD: one FP32 sum per element. -/
def eaddAct (i : Iss) (f : ElF) (srcb : Nat) (s : State) : State := elZip i f srcb fadd s

def execEadd (i : Iss) (f : ElF) (srcb : Nat) (s : State) : Out :=
  coreOp (.eadd i f srcb) i (elOk f && decide (srcb < 2048)) (elRun (.eadd i f srcb) i (eaddAct i f srcb)) s

/-! ## The current position (R192, R302, R315) -/

/-- Parent of a node of a lane's pass: the node before it in a linear pass. -/
def parentOf (l : Lane) (p : Nat) : Nat := if l.ctl.tree = 1 then nth 0 l.parent p else p - 1

/-- The nodes from position 1 to `p` along the path, root first. -/
def pathTo (l : Lane) (p : Nat) : Nat → List Nat
  | 0 => []
  | n + 1 => if p = 0 then [] else pathTo l (parentOf l p) n ++ [p]

/-- Depth of a node. -/
def depthOf (l : Lane) (p : Nat) : Nat := (pathTo l p 8).length

/-- Sequence index of the current position: a node of a tree pass stands at its depth (R192, R228, R315). -/
def curPos (s : State) (i : Iss) : Nat :=
  match curLane s i with
  | some (l, p) => l.pos + (if 2 ≤ l.w ∧ l.ctl.tree = 1 then depthOf l p else p)
  | none => 0

/-- The partner of element `k` in its rotation, whether `k` is the first of the two, and its frequency index (R205). -/
def rotPair (pair k : Nat) : Nat × Bool × Nat :=
  let h := k / 128 * 128
  let o := k % 128
  if pair = 0 then (if o % 2 = 0 then (k + 1, true, o / 2) else (k - 1, false, o / 2))
  else if o < 64 then (h + o + 64, true, o) else (h + o - 64, false, o - 64)

/-- EROT (R207): rotation of each pair by position times frequency. -/
def erotAct (i : Iss) (f : ElF) (fid pair : Nat) (s : State) : State :=
  alive i true (fun t =>
    let tab := tget [] t.glz.freq ((seqOf t i.sid).canvas * 1024 + fid)
    let a := offset t i 0 f.src
    elMap i f (fun k x =>
      let r := rotPair pair k
      let y := obElem t (sidCore i.sid) a f.ty r.1
      if r.2.1 then (rotateW x y (curPos t i) (nth 0 tab r.2.2)).1
      else (rotateW y x (curPos t i) (nth 0 tab r.2.2)).2) t) s

def execErot (i : Iss) (f : ElF) (fid pair : Nat) (s : State) : Out :=
  coreOp (.erot i f fid pair) i (elOk f && decide (fid < 1024) && decide (pair < 2)) (elRun (.erot i f fid pair) i (erotAct i f fid pair)) s

/-! ## Conversion (R121 to R125) -/

/-- Largest magnitude of a target format (R118). -/
def qOf (tfmt : Nat) : Nat := if tfmt = 0 then 7 else if tfmt = 1 then 3 else if tfmt = 2 then 1 else 119

/-- A source value, decoded exactly (R121). -/
def srcVal (s : State) (core unit sfmt k : Nat) : Fv :=
  let b := obBase core + unit * 128
  if sfmt = 0 then decBf16 (rdHalf s.core.ob (b + 2 * k))
  else if sfmt = 1 then decE4m3 (rdByte s.core.ob (b + k))
  else if sfmt = 2 then decE5m2 (rdByte s.core.ob (b + k))
  else
    let sc := (rdByte s.core.ob (b + 32 + k / 32)).toNat
    let v := (rdByte s.core.ob (b + k / 2)).toNat
    if sc = 255 then .nan
    else .fin false (dyScale (decE2m1 (if k % 2 = 0 then v % 16 else v / 16)) ((sc : Int) - 127))

/-- The values of one block, channels of the set taken as 0 (R167). -/
def srcBlock (s : State) (core unit sfmt : Nat) (chans : List Nat) (first : Nat) : List Fv :=
  (List.range 64).map fun k =>
    if chans.contains (first + k) then .fin false dyZero else srcVal s core unit sfmt k

/-- Largest magnitude of a block. -/
def blockMax (v : List Fv) : Dy := v.foldl (fun a x => dyMax a (dyAbs (fvDy x))) dyZero

def allFinite (v : List Fv) : Bool := v.all isFin

/-- The smallest E from 0 to 254 whose Q × 2^(E - 127) covers a magnitude; 254 when none does (R122). -/
def blockExp (q : Nat) (m : Dy) : Nat :=
  if m.m = 0 then 0 else
  let k0 := dyLog2 m - (Nat.log2 q : Int)
  let k := if dyLe m ⟨(q : Int), k0⟩ then k0 else k0 + 1
  (max 0 (min 254 (k + 127))).toNat

/-- One block on the grid of Q at exponent `e` (R123, R124): elements, exponent byte, clamped positions. -/
def convBlock (q e : Nat) (v : List Fv) : List Int × Nat × List Nat :=
  if !allFinite v then (List.replicate 64 0, 255, [])
  else
    let t := v.map fun x => dyRne (dyScale (fvDy x) (127 - (e : Int)))
    let cl := (List.range 64).filter fun k => decide (q < (nth 0 t k).natAbs)
    let x := t.map fun a => if q < a.natAbs then a.sign * (q : Int) else a
    (x, if !cl.isEmpty then 255 else if x.all (· == 0) then 0 else e, cl)

/-- High and low digits of an A8 value (R119). -/
def digitHi (v : Int) : Int := (v + 8) / 16
def digitLo (v : Int) : Int := v - 16 * digitHi v

/-- The one or two blocks that a conversion writes (R123, R125): the high block's exponent is the low block's plus 4, also where every digit is
0 (R119; log entry 34). -/
def outBlocks (tfmt e : Nat) (v : List Fv) : List (List Byte) × List Nat :=
  let (x, eb, cl) := convBlock (qOf tfmt) e v
  if tfmt ≠ 3 then ([blockBytes x eb], cl)
  else
    let bad := decide (250 < e) || eb == 255
    ([blockBytes (x.map digitHi) (if bad then 255 else eb + 4), blockBytes (x.map digitLo) (if bad then 255 else eb)], cl)

/-- The largest magnitude of some values: `none` stands for an infinity; a NaN has no magnitude (log entry 93). -/
def topMag (v : List Fv) : Option Dy :=
  v.foldl (fun a x => match a, x with
    | some m, .fin _ d => some (dyMax m (dyAbs d))
    | some m, .nan => some m
    | _, _ => none) (some dyZero)

/-- The element of a block's largest magnitude, the lowest of equals. -/
def topIx (v : List Fv) : Nat :=
  let top := topMag v
  ((List.range 64).find? fun k => match nth .nan v k, top with
    | .inf _, none => true
    | .fin _ d, some m => dyAbs d == m || (dyLe m (dyAbs d) && dyLe (dyAbs d) m)
    | _, _ => false).getD 0

/-- A block is dominated: its largest magnitude is at least 8 times the second-largest (R169). -/
def dominated (v : List Fv) : Bool :=
  match topMag v, topMag (v.eraseIdx (topIx v)) with
  | some m, some n => m.m != 0 && dyLe (dyScale n 3) m
  | none, some _ => true
  | _, none => false

/-- The range-monitor reports of a block (R169), taken before the set's channels are zeroed: the dominant input index, and the indices that PRED
mode clamped. -/
def reports (v : List Fv) (cl : List Nat) (mode first : Nat) : List Nat :=
  ((if dominated v then [first + topIx v] else []) ++ (if mode = 2 then cl.map (first + ·) else [])).dedup

/-- Exponent of block `b` of a conversion in its mode (R122). -/
def modeExp (blocks : List (List Fv)) (q mode group pred b : Nat) : Nat :=
  if mode = 2 then pred
  else if mode = 0 then blockExp q (blockMax (nth [] blocks b))
  else
    let g := if group = 8 then 8 else if group = 16 then 16 else 4
    let grp := ((blocks.drop (b / g * g)).take g).filter allFinite
    blockExp q (grp.foldl (fun a v => dyMax a (blockMax v)) dyZero)

/-- The input index of the first element of block `b` of a layer input's conversion (R166, R193). -/
def inputIx (l : LixRec) (b : Nat) : Nat := (l.first + 64 * b) % max 64 l.len

/-- ECVT of all its blocks: B4 blocks into IB, their provenance, the monitor's reports. -/
def ecvtAll (i : Iss) (f : EcvtF) (s : State) : State :=
  let core := sidCore i.sid
  let l := lixOf s i.sid f.lix
  let key := chanKey (seqOf s i.sid).canvas l.chans
  let src := offset s i 0 f.src
  let dst := offset s i 3 f.dst
  let n := len256 f.nblk
  let d := if f.tfmt = 3 then 2 else 1
  let ck := ckptAddr s i.sid f.lix (curLaneNo s i)
  let blocks := (List.range n).map fun b => srcBlock s core (src + b) f.sfmt (channels s key) (inputIx l b)
  (List.range n).foldl (fun t b =>
    let o := outBlocks f.tfmt (modeExp blocks (qOf f.tfmt) f.mode l.group l.pred b) (nth [] blocks b)
    { t with
      core := { t.core with
        ib := wrBytes t.core.ib (ibBase core + 33 * (dst + d * b)) (o.1.flatten)
        prov := (List.range d).foldl (fun p k =>
          tput (0, 0, 0, 0) p (coreIx core * 8192 + dst + d * b + k) (ck + 1, key, inputIx l b, b)) t.core.prov }
      glz := { t.glz with rep := t.glz.rep ++
        (reports (srcBlock s core (src + b) f.sfmt [] 0) o.2 f.mode (inputIx l b)).map fun x => (i.seg, key * 1048576 + x) } }) s

def ecvtAct (i : Iss) (f : EcvtF) (s : State) : State := alive i false (ecvtAll i f) s

/-- ECVT (R207). -/
def execEcvt (i : Iss) (f : EcvtF) (s : State) : Out :=
  coreOp (.ecvt i f) i (decide (f.src < 2048) && decide (f.dst < 7943) && decide (f.nblk < 256) && decide (f.sfmt < 4)
      && decide (f.tfmt < 4) && decide (f.mode < 3) && decide (f.lix < 64))
    (elRun (.ecvt i f) i (ecvtAct i f)) s

end Sys2Proof.Machine
end

