-- ==== Sys2Proof/Machine/Move.lean ====
section
/-! DEFINITION. The MOVE slot (R208, R209) and the delivery of fabric transfers (R24, R25, R235, R242). -/

namespace Sys2Proof.Machine

/-! ## Bytes of a space -/

/-- The memory of a space: 0 OB, 1 AB, 2 SRAM, 3 IB, 4 RX. -/
def spaceMem (s : State) (space : Nat) : Mem :=
  if space = 0 then s.core.ob else if space = 1 then s.core.ab else if space = 2 then s.core.sram
  else if space = 3 then s.core.ib else s.core.rx

def setSpaceMem (space : Nat) (m : Mem) (s : State) : State :=
  { s with core :=
      if space = 0 then { s.core with ob := m } else if space = 1 then { s.core with ab := m }
      else if space = 2 then { s.core with sram := m } else if space = 3 then { s.core with ib := m }
      else { s.core with rx := m } }

/-- First byte of an address of a space, as a sequencer sees it (R120, R194). -/
def spaceByte (sid space a : Nat) : Nat :=
  let core := sidCore sid
  if space = 0 then obBase core + 128 * a else if space = 1 then abBase core + 512 * a
  else if space = 2 then sramBase sid + sramUnit sid * a else if space = 3 then ibBase core + 33 * a
  else rxBase core + 512 * a

/-- Bytes a move carries into a space: 128 × 2^LEN, or 2^LEN blocks into IB (R209). -/
def moveLen (dsp len : Nat) : Nat := if dsp = 3 then 33 * 2 ^ len else 128 * 2 ^ len

/-- The read-out of pairs from AB: FP32 or BF16 with one rounding of s + c (R135, R209). -/
def readOut (s : State) (core tile : Nat) (half : Bool) (n : Nat) : List Byte :=
  if half then
    ((List.range (n / 2)).flatMap fun k => leBytes (readBf16 (abGet s core (tile + k / 64) (k % 64))).toNat 2)
  else
    ((List.range (n / 4)).flatMap fun k => leBytes (readF32 (abGet s core (tile + k / 64) (k % 64))).toNat 4)

/-- Source bytes of a move: raw, but for a read-out of AB. -/
def moveBytes (s : State) (sid ssp a n : Nat) (half : Bool) : List Byte :=
  if ssp = 1 then readOut s (sidCore sid) a half n else rdBytes (spaceMem s ssp) (spaceByte sid ssp a) n

/-- The provenance of IB slots that a move fills: kept from IB, none from elsewhere. -/
def moveProv (s : State) (sid ssp a n : Nat) : List (Nat × Nat × Nat × Nat) :=
  (List.range n).map fun k => if ssp = 3 then provOf s (sidCore sid) (a + k) else (0, 0, 0, 0)

def setProv (core a : Nat) (ps : List (Nat × Nat × Nat × Nat)) (s : State) : State :=
  { s with core := { s.core with
      prov := (ps.zipIdx).foldl (fun t p => tput (0, 0, 0, 0) t (coreIx core * 8192 + a + p.2) p.1) s.core.prov } }

/-- Spaces a sequencer's moves may name: attention and head sequencers space 2 only (R191). -/
def spaceOk (sid sp : Nat) : Bool := if sidUnit sid < 32 then decide (sp < 4) else sp == 2

/-- NOPM. -/
def execNopm (i : Iss) (s : State) : Out := anyOp (.nopm i) i true id s

/-- MVB (R209): a copy within the core and its cluster. -/
def mvbAll (i : Iss) (ssp dsp saddr daddr len ty : Nat) (s : State) : State :=
  let a := offset s i ssp saddr
  let d := offset s i dsp daddr
  let bs := moveBytes s i.sid ssp a (moveLen dsp len) (ty == 1)
  let s1 := setSpaceMem dsp (wrBytes (spaceMem s dsp) (spaceByte i.sid dsp d) bs) s
  if dsp = 3 then setProv (sidCore i.sid) d (moveProv s i.sid ssp a (2 ^ len)) s1 else s1

def mvbAct (i : Iss) (ssp dsp saddr daddr len ty : Nat) (s : State) : State :=
  alive i false (mvbAll i ssp dsp saddr daddr len ty) s

def execMvb (i : Iss) (ssp dsp saddr daddr len ty : Nat) (s : State) : Out :=
  anyOp (.mvb i ssp dsp saddr daddr len ty) i
    (spaceOk i.sid ssp && spaceOk i.sid dsp && inSpace i.sid ssp saddr && inSpace i.sid dsp daddr && decide (len < 8) && decide (ty < 2))
    (mvbAct i ssp dsp saddr daddr len ty) s

/-- A route table entry: destination sequencer, space, address, arrival credit; a destination that names a logical position is
translated by the remap table of its cluster (R223, R225). -/
def routeOf (s : State) (sid k : Nat) : Option (Nat × Nat × Nat × Nat) :=
  match tableOf s sid with
  | some t =>
    match t.routes[k]? with
    | some r => (seqOfTable s r.1).map fun d => (d, r.2)
    | none => none
  | none => none

/-- A transfer put on the fabric with the step tag and the tentative mark (R25, R242). -/
def sendXfer (sid dst space addr cred : Nat) (kill : Bool) (layer : Nat) (bytes : List Byte) (prov : List (Nat × Nat × Nat × Nat)) (s : State) :
    State :=
  let q := seqOf s sid
  { s with seq := { s.seq with fabric := s.seq.fabric ++
      [{ src := sid, dst := dst, space := space, addr := addr, cred := cred, step := q.step, att := q.att, tent := true, kill := kill,
         layer := layer, bytes := bytes, prov := prov }] } }

/-- MVF (R209): pairs go unchanged from AB with TY 0 (R136); a killed lane's transfer is a header with a kill mark (R219). -/
def mvfAct (i : Iss) (ssp saddr route len ty : Nat) (s : State) : State :=
  match routeOf s i.sid route with
  | none => s
  | some (dst, space, addr, cred) =>
    if laneDead s i false then sendXfer i.sid dst space addr cred true 0 [] [] s
    else
      let a := offset s i ssp saddr
      let n := moveLen space len
      let bs := if ssp = 1 ∧ ty = 0 then rdBytes s.core.ab (spaceByte i.sid 1 a) n else moveBytes s i.sid ssp a n true
      sendXfer i.sid dst space addr cred false 0 bs (if space = 3 then moveProv s i.sid ssp a (2 ^ len) else []) s

def execMvf (i : Iss) (ssp saddr route len ty : Nat) (s : State) : Out :=
  anyOp (.mvf i ssp saddr route len ty) i
    (spaceOk i.sid ssp && inSpace i.sid ssp saddr && decide (route < 1024) && decide (len ≤ 12) && decide (ty < 2))
    (mvfAct i ssp saddr route len ty) s

/-- Bytes of one position's keys, values, or both (R208, R269). -/
def mvkLen (kind : Nat) : Nat := if kind = 2 then 512 else 256

/-- MVK (R209): one transfer per position, with its layer, to the attention cluster of the position's page (R264). A position's slot follows from
POS, which is what a core sequencer reads (R231). Every die holds a head slice of the page, and which of them these keys belong to, and the
working-SRAM address there, are in no field of the instruction: free values (log entry 27). -/
def mvkAll (i : Iss) (ssp saddr layer kind vp : Nat) (s : State) : State :=
  match curLane s i with
  | none => s
  | some (l, p) =>
    let a := offset s i ssp saddr
    let n := mvkLen kind
    let src (k : Nat) : List Byte :=
      if ssp = 1 then (readOut s (sidCore i.sid) a true (n * (k + 1))).drop (n * k)
      else rdBytes (spaceMem s ssp) (spaceByte i.sid ssp a + n * k) n
    (vpList s i vp).foldl (fun t k =>
      let (v, t1) := draw t
      let cl := mkCluster (24 + v.toNat % 8) ((l.pos + p + k) / 256 % 4)
      sendXfer i.sid (attSid cl) 2 (v.toNat / 8 % 65536) 0 false layer (src k) [] t1) s

def mvkAct (i : Iss) (ssp saddr layer kind vp : Nat) (s : State) : State :=
  alive i true (checkVp i vp (mvkAll i ssp saddr layer kind vp)) s

def execMvk (i : Iss) (ssp saddr layer kind vp : Nat) (s : State) : Out :=
  coreOp (.mvk i ssp saddr layer kind vp) i
    (decide (ssp < 4) && inSpace i.sid ssp saddr && decide (layer < 128) && decide (kind < 3) && decide (vp < 2))
    (mvkAct i ssp saddr layer kind vp) s

/-- MCK (R209, R145): the layer input to the checkpoint of record LIX for the current lane; from AB it is read out in FP32, the form that TY 0
names (log entry 92). -/
def mckAll (i : Iss) (ssp saddr len lix : Nat) (s : State) : State :=
  let a := offset s i ssp saddr
  let bs := moveBytes s i.sid ssp a (128 * 2 ^ len) false
  let ck := ckptAddr s i.sid lix (curLaneNo s i)
  { s with core := { s.core with sram := wrBytes s.core.sram ck bs, ckForm := tput false s.core.ckForm ck (ssp == 1) } }

def mckAct (i : Iss) (ssp saddr len lix : Nat) (s : State) : State := alive i true (mckAll i ssp saddr len lix) s

def execMck (i : Iss) (ssp saddr len lix : Nat) (s : State) : Out :=
  coreOp (.mck i ssp saddr len lix) i (decide (ssp < 4) && inSpace i.sid ssp saddr && decide (len < 8) && decide (lix < 64))
    (mckAct i ssp saddr len lix) s

/-! ## Delivery -/

/-- One credit on a counter; a return that would pass 4,095 is a sequencer fault (R235). -/
def addCredit (sid ch n : Nat) (s : State) : State :=
  if 4095 < tget 0 (seqOf s sid).cred ch + n then seqFaultOpen sid s
  else modSeq sid (fun q => { q with cred := tmod 0 q.cred ch (· + n) }) s

/-- A sequencer that waits issues on once what it waits for is there, and takes it (R187, R211). -/
def tryWait (sid : Nat) (s : State) : State :=
  let q := seqOf s sid
  match q.wait with
  | .tokens ch n =>
    if n ≤ tget 0 q.tok ch then modSeq sid (fun e => { e with wait := .none, tok := tmod 0 e.tok ch (· - n) }) s else s
  | .credits ch n =>
    if n ≤ tget 0 q.cred ch then modSeq sid (fun e => { e with wait := .none, cred := tmod 0 e.cred ch (· - n) }) s else s
  | _ => s

/-- The receiver takes a transfer of its current step and attempt only (R242). -/
def xferCurrent (s : State) (x : Xfer) : Bool :=
  let q := seqOf s x.dst
  q.step == x.step && q.att == x.att

/-- A transfer's bytes land in its space, and the arrival credit that its route entry names is added (R235, R219). -/
def landXfer (x : Xfer) (s : State) : State :=
  let core := sidCore x.dst
  let s1 :=
    if x.kill then
      (if x.space = 4 then { s with core := { s.core with rxKill := s.core.rxKill ++ [coreIx core * 256 + x.addr] } } else s)
    else
      let t := setSpaceMem x.space (wrBytes (spaceMem s x.space) (spaceByte x.dst x.space x.addr) x.bytes) s
      if x.space = 3 then setProv core x.addr x.prov t else t
  if x.cred = 0 then s1 else tryWait x.dst (addCredit x.dst (credCtr s x.dst x.cred) 1 s1)

/-- The position in the fabric of the first transfer between the same two units as transfer `ix` (R24). -/
def fabricFirst (s : State) (x : Xfer) : Nat :=
  (findIx (fun y => y.src == x.src && y.dst == x.dst) s.seq.fabric 0).getD 0

/-- The oldest transfer between the two units that transfer `ix` joins arrives (R24); one of another step or attempt is discarded (R242). -/
def deliver (x0 : Xfer) (s : State) : State :=
  let k := fabricFirst s x0
  let x := (s.seq.fabric[k]?).getD x0
  let s1 := { s with seq := { s.seq with fabric := s.seq.fabric.eraseIdx k } }
  if xferCurrent s x then landXfer x s1 else s1

end Sys2Proof.Machine
end

