-- ==== Sys2Proof/Machine/Sync.lean ====
section
/-! DEFINITION. The SYNC slot (R210, R211): waits, tokens and credits (R234, R235), the envelope check (R182 to R184,
R403), CSUM, flag segments (R243), the step-done token and replay windows (R246). -/

namespace Sys2Proof.Machine

/-! ## Tokens of the scheduler core and of the clusters -/

/-- A lane killed by the scheduler core (R233, R336, R403): its tokens are withheld, LANE_KILL goes to every participant. -/
def killLane (lane : Nat) (s : State) : State :=
  match s.sch.cur with
  | some c =>
    if c.killed.contains lane then s
    else schedToAll 10 (lane % 256) c.att
      (modCur (fun k => { k with killed := k.killed ++ [lane], withheld := (k.withheld ++ [lane]).dedup }) s)
  | none => s

/-! ## TWAIT, TSEND, CRED -/

/-- The counter of a token channel, one of 256 (R234). -/
def tokCtr (s : State) (sid ch : Nat) : Nat :=
  match tableOf s sid with
  | some t => tget (ch % 256) t.chans ch % 256
  | none => ch % 256

/-- Destinations of a token channel, or the owner of a credit channel (key 4096 + channel), as sequencers (R225). -/
def chanDests (s : State) (sid key : Nat) : List Nat :=
  match variantOf s (seqOf s sid) with
  | some v => (tget [] v.chanTo key).filterMap (seqOfTable s)
  | none => []

/-- TWAIT (R211): takes COUNT tokens, or holds the bundle until they have arrived. -/
def twaitOp (sid ch count : Nat) (s : State) : State :=
  tryWait sid (modSeq sid (fun q => { q with wait := .tokens (tokCtr s sid ch) count }) s)

def twaitAct (i : Iss) (tch count : Nat) : State → State := if tch = 0 then id else twaitOp i.sid tch count

def execTwait (i : Iss) (tch count : Nat) (s : State) : Out :=
  anyOp (.twait i tch count) i (decide (tch < 4096) && (if tch = 0 then count == 0 else decide (1 ≤ count) && decide (count ≤ 15)))
    (twaitAct i tch count) s

/-- TSEND (R211, R219): one token on the channel to each destination. -/
def tsendOp (sid tch : Nat) (s : State) : State :=
  (chanDests s sid tch).foldl (fun t d => sendToken sid 0 tch d t) s

def execTsend (i : Iss) (tch : Nat) (s : State) : Out :=
  anyOp (.tsend i tch) i (decide (1 ≤ tch) && decide (tch < 4096)) (tsendOp i.sid tch) s

/-- CRED (R211): OP 0 takes N credits or holds the bundle; OP 1 returns them to the channel's owner. -/
def credOp (sid cch op n : Nat) (s : State) : State :=
  if op = 0 then tryWait sid (modSeq sid (fun q => { q with wait := .credits (credCtr s sid cch) n }) s)
  else (chanDests s sid (4096 + cch)).foldl (fun t d => sendToken sid 1 (cch + n * 4096) d t) s

def execCred (i : Iss) (cch op n : Nat) (s : State) : Out :=
  anyOp (.cred i cch op n) i (decide (1 ≤ cch) && decide (cch < 4096) && decide (op < 2) && decide (1 ≤ n) && decide (n ≤ 15))
    (credOp i.sid cch op n) s

/-! ## CHK (R182 to R184, R177, R402, R403) -/

/-- Key of an envelope: canvas, table, EID. -/
def envKey (s : State) (sid eid : Nat) : Nat := (seqOf s sid).canvas * 2 ^ 26 + tableSid s sid * 512 + eid

/-- The variance of 64 values about their mean, rounded once (log entry 28). -/
def varianceOf (v : List Word) : Word :=
  let d := v.map f32Dy
  let sum := dySum d
  let sq := dySum (d.map fun x => dyMul x x)
  toF32 (dySub (dyScale sq (-6)) (dyScale (dyMul sum sum) (-12)))

/-- R := R + (v - R) × 2^-12 (R184). -/
def varStep (r v : Word) : Word := fadd r (fmul (fsub v r) 0x39800000)

/-- Bounds of the range check, widened for a tint lane (R177). -/
def envBounds (e : Envelope) (tint : Bool) : Dy × Dy :=
  if tint then (dyMul (bfDy e.lo) (bfDy e.widen), dyMul (bfDy e.hi) (bfDy e.widen)) else (bfDy e.lo, bfDy e.hi)

/-- A column outside the envelope: non-finite, below the minimum or above the maximum. -/
def outOfRange (b : Dy × Dy) (w : Word) : Bool := !fin32 w || dyLt (f32Dy w) b.1 || dyLt b.2 (f32Dy w)

/-- The variance estimate in force inside the step. -/
def varNow (s : State) (key : Nat) : Word :=
  match tget none s.glz.varNew key with
  | some r => r.1
  | none => tget 0 s.glz.varEst key

/-- Flags of one position of a tile, and the estimate after it. -/
def chkPos (s : State) (core tile : Nat) (e : Envelope) (tint : Bool) (r : Word) : Nat × Word × Bool :=
  let v := (List.range 64).map fun j => readF32 (abGet s core tile j)
  let range := v.any (outOfRange (envBounds e tint))
  let fin := v.all fin32
  let r' := if tint || !fin then r else varStep r (varianceOf v)
  ((if range then flEnvr else 0) ||| (if !tint && dyLt (bfDy e.vmax) (f32Dy r') then flEnvv else 0), r', fin)

/-- All positions of a check: flags, final estimate, whether every value is finite. -/
def chkRun (s : State) (core tile : Nat) (e : Envelope) (tint : Bool) (ps : List Nat) (r : Word) : Nat × Word × Bool :=
  ps.foldl (fun a p =>
    let c := chkPos s core (tile + p) e tint a.2.1
    (a.1 ||| c.1, c.2.1, a.2.2 && c.2.2)) (0, r, true)

/-- The step's estimate of a tile. -/
def setVar (key seg : Nat) (r : Word) (s : State) : State :=
  { s with glz := { s.glz with varNew := tput none s.glz.varNew key (some (r, seg)) } }

/-- A tile computed in D16 that fails again (R403): the flag is suppressed. A finite value stands, with its estimate reset at
commit and an event; a non-finite one kills its lane, whose request is retired with BAD_REQUEST, and raises HEALTH. -/
def d16Failed (sid eid seg key : Nat) (e : Envelope) (fin : Bool) (lane : Option Lane) (s : State) : State :=
  if fin then
    fireArg 9 (sidUnitAddr sid).1 (sidUnitAddr sid).2 1 eid ((seqOf s sid).canvas * 256 + seg % 256)
      { s with glz := { s.glz with varReset := s.glz.varReset ++ [(key, bfToF32 e.vinit)] } }
  else match lane with
    | some l =>
      raise l.ptn { ty := 3, flags := 0, unit := 0, level := 0, args := [seg] }
        (modEntry l.index (fun x => { x with pendCancel := some (x.pendCancel.getD 8) }) (killLane l.lane s))
    | none => s

/-- CHK (R211). -/
def chkAll (i : Iss) (tile vp eid : Nat) (s : State) : State :=
  let core := sidCore i.sid
  let a := offset s i 1 tile
  let key := envKey s i.sid eid
  let e := tget Envelope.init s.glz.env key
  let lane := (curLane s i).map (·.1)
  let tint := match lane with | some l => l.tbound | none => false
  let (fl, r, fin) := chkRun s core a e tint (vpList s i vp) (varNow s key)
  let s1 := if tint then s else setVar key i.seg r s
  if fl = 0 then openSeg i s1
  else if tileMarked s i.sid a then d16Failed i.sid eid i.seg key e fin lane (openSeg i s1)
  else modSeq i.sid (fun q => { q with chkFlags := q.chkFlags ||| fl, envTile := q.envTile ++ [(a, eid)] }) (openSeg i s1)

def chkAct (i : Iss) (tile vp eid : Nat) (s : State) : State := alive i true (checkVp i vp (chkAll i tile vp eid)) s

def execChk (i : Iss) (tile vp eid : Nat) (s : State) : Out :=
  coreOp (.chk i tile vp eid) i (decide (tile < 1024) && decide (vp < 2) && decide (eid < 512)) (chkAct i tile vp eid) s

/-! ## CSUM -/

/-- The tree difference of one engine's tile sets SW0 or SW1 of its stroke, in the flag segment that the CSUM issued in (R211, R243, R398). -/
def csumEng (i : Iss) (fx ntr : Nat) (s : State) (e : Nat) : State :=
  let k := ntrKey (mkEngine (sidCore i.sid) e) ntr
  let d := tget 0 s.arr.treeErr k
  match tget none s.arr.tileFl k with
  | some f =>
    if d = 0 then s
    else modSeq i.sid (fun q => { q with failed := q.failed ++
      [(fx, { f with seg := i.seg, flagIx := fx, bands := [], sat := [], ovf := [],
                     csum := (if bitOf d 0 then flSw0 else 0) ||| (if bitOf d 1 then flSw1 else 0) })] }) s
  | none => s

/-- CSUM waits for the strokes that fill its register on the named engines (R211, R216); one of a killed lane waits for nothing. -/
def csumReady (s : State) (i : Iss) (emask ntr : Nat) : Bool :=
  laneDead s i false || (maskBits emask 16).all fun e =>
    !((tget [] s.arr.strokes (mkEngine (sidCore i.sid) e)).any fun k => (ownGroups k).any fun g => k.ntr + g.2 == ntr)

/-- The comparison of a CSUM that issued in flag segment `fx`. -/
def csumAct (i : Iss) (emask ntr fx : Nat) (s : State) : State := alive i false (fun t => (maskBits emask 16).foldl (csumEng i fx ntr) t) s

/-- A CSUM belongs to the flag segment open at its issue (R243). -/
def csumRun (i : Iss) (emask ntr : Nat) (s : State) : State :=
  enqueueOp (.csum i emask ntr) i (fun t => csumReady t i emask ntr) (csumAct i emask ntr (seqOf s i.sid).flagIx) (alive i false (openSeg i) s)

def execCsum (i : Iss) (emask ntr : Nat) (s : State) : Out :=
  coreOp (.csum i emask ntr) i (decide (emask < 65536) && decide (ntr < 8)) (csumRun i emask ntr) s

/-! ## FLOR, STEP, RPLW -/

/-- Closes the open flag segment: the strokes and checks issued before it belong to it (R211, R243). -/
def closeSeg (i : Iss) (s : State) : State :=
  modSeq i.sid (fun q =>
    { q with segs := q.segs ++ [(q.flagIx, i.seg, q.chkFlags)], flagIx := q.flagIx + 1, chkFlags := 0, curSeg := none }) s

def execFlor (i : Iss) (s : State) : Out := anyOp (.flor i) i true (closeSeg i) s

/-- STEP (R211): closes any open segment and sends the step-done token. -/
def stepOp (i : Iss) (s : State) : State :=
  let s1 := if (seqOf s i.sid).curSeg.isSome then closeSeg i s else s
  sendToken i.sid 3 0 schedSid (modSeq i.sid (fun q => { q with phase := 3 }) s1)

def execStep (i : Iss) (s : State) : Out := anyOp (.step i) i true (stepOp i) s

/-- RPLW (R211, R246): opens or closes the replay window; a window opened is the next of its segment. -/
def rplwAct (i : Iss) (close : Nat) (s : State) : State :=
  modSeq i.sid (fun q =>
    let e := enterSeg i.seg q
    if close = 0 then { e with window := true, winNo := e.winNo + 1 } else { e with window := false }) s

def execRplw (i : Iss) (close : Nat) (s : State) : Out := anyOp (.rplw i close) i (decide (close < 2)) (rplwAct i close) s

end Sys2Proof.Machine
end

