-- ==== Sys2Proof/Machine/Attention.lean ====
section
/-! DEFINITION. The attention sequencers (R212, R213, R269, R270, R277 to R288): SCORE, SNORM, SMIX, KVPUT. -/

namespace Sys2Proof.Machine

/-! ## Shared forms -/

/-- An attention instruction: its sequencer is an attention cluster's. -/
def attOp (c : Instr) (i : Iss) (ok : Bool) (run : State → State) (s : State) : Out := slotOp c i (isAttSid i.sid && ok) run s

/-- Die index and cluster of an attention sequencer. -/
def attDie (sid : Nat) : Nat := sidDie sid - 24
def attCl (sid : Nat) : Nat := sidCl sid

/-- Working-SRAM byte address of a 64-byte unit. -/
def attAddr (sid u : Nat) : Nat := sramBase sid + 64 * u

/-- The sequencer's last page access, which a memory-error fault of R276 concerns. -/
def noteAccess (sid lane layer j : Nat) (s : State) : State := modSeq sid (fun q => { q with access := some (lane, layer, j) }) s

/-- A fault of a walk (R276) on some page of a lane. -/
def walkFault (sid cause : Nat) (l : Lane) (layer j : Nat) (s : State) : State :=
  seqFault sid cause (noteAccess sid l.lane layer j s)

/-- The page of a list whose walk fails first. -/
def firstBad (s : State) (n : Nat) (l : Lane) (layer : Nat) (js : List Nat) : Nat :=
  (js.find? fun j => match walkPage s n l.ptn l.ptroot layer j with | .fault _ => true | .at _ => false).getD 0

/-- The pages of an issue with their leaves, or the fault that stops the sequencer: a descriptor outside the window (R218), a
malformed mask, a failed walk. -/
def issuePages (sid : Nat) (l : Lane) (layer mask : Nat) (k : List (Nat × Leaf) → State → State) (s : State) : State :=
  let n := attDie sid
  let win := (attnRec s l.canvas layer).win
  let mode := maskMode mask l.mask win
  if !laneInWindow s l then seqFaultOpen sid s
  else if mode = 2 ∧ (frameOf s l.ptn l.mroot).isNone then seqFault sid 0x21 s
  else if mode = 2 ∧ maskBad s n l.ptn l.mroot l.npos then seqFault sid 0x22 s
  else
    let js := pagesRead s n (attCl sid) l mode win
    match walkAll s n l.ptn l.ptroot layer js with
    | .fault c => walkFault sid c l layer (firstBad s n l layer js) s
    | .at ps =>
      let s1 := js.foldl (fun t j => touchWalk (sidCluster sid) l.ptroot layer j t) s
      k ps (match js.getLast? with | some j => noteAccess sid l.lane layer j s1 | none => s1)

/-! ## SCORE (R280) -/

/-- Element `d` of query row `r`. -/
def queryElem (s : State) (sid qaddr r d : Nat) : Word := bfToF32 (rdHalf s.core.sram (attAddr sid (qaddr + 4 * r) + 2 * d))

/-- A dot product over some dimensions, each product exact. -/
def dotPart (s : State) (sid qaddr r n : Nat) (p : Leaf) (u t lo cnt : Nat) : Pair :=
  (List.range cnt).foldl (fun a d =>
    awidP a (twoProd (queryElem s sid qaddr r (lo + d)) (toF32 (elemDy s n p u 0 t (lo + d))))) Pair.zero

/-- A pair times a power of two, exactly. -/
def pairScale (p : Pair) (k : Int) : Pair :=
  ⟨if fin32 p.s then toF32 (dyScale (f32Dy p.s) k) else p.s, if fin32 p.c then toF32 (dyScale (f32Dy p.c) k) else p.c⟩

/-- The score of a slot, before masking. -/
def scoreOf (s : State) (sid qaddr r n : Nat) (p : Leaf) (u t : Nat) : Word :=
  let dot :=
    if p.mx then (List.range 4).foldl (fun a b =>
      awidP a (pairScale (dotPart s sid qaddr r n p u t (32 * b) 32) (mxExp s n p u 0 t b))) Pair.zero
    else dotPart s sid qaddr r n p u t 0 128
  let ks := if p.mx then 0x3F80 else pageScale s p u 0
  let x := if fin32 dot.s && fin32 dot.c && isFin (decBf16 ks)
    then toF32 (dyMul (dyAdd (f32Dy dot.s) (f32Dy dot.c)) (bfDy ks)) else fmul (fadd dot.s dot.c) (bfToF32 ks)
  fmul x 0x3DB504F3

/-- Byte address of a score buffer of a cluster. -/
def sbufAddr (sid sbuf : Nat) : Nat := sramIx sid * 16777216 + sbuf * 524288

/-- A row of scores over the pages read. -/
def scoreRow (s : State) (sid : Nat) (l : Lane) (qaddr nqh u mode win : Nat) (ps : List (Nat × Leaf)) (p i : Nat) : List Word :=
  ps.flatMap fun jp => (List.range 256).map fun t =>
    if visible s (attDie sid) l mode win p (256 * jp.1 + t) then scoreOf s sid qaddr (p * nqh + i) (attDie sid) jp.2 u t else negInf

/-- The walker fetches the next layer's leaf entries of this cluster's pages (R275). -/
def prefetchNext (sid : Nat) (l : Lane) (layer : Nat) (s : State) : State :=
  if 127 ≤ layer then s
  else ((List.range ((l.ctx + l.npos + 255) / 256)).filter fun j => j % 4 == attCl sid).foldl
    (fun t j => touchWalk (sidCluster sid) l.ptroot (layer + 1) j t) s

/-- SCORE: rows of scores into the score buffers; a run that would pass SBUF 15 is cause 0x23. -/
def scoreAll (i : Iss) (kvh layer qaddr sbuf mask nqh : Nat) (l : Lane) (s : State) : State :=
  issuePages i.sid l layer mask (fun ps t =>
    let lam := 256 * ps.length
    let win := (attnRec t l.canvas layer).win
    let mode := maskMode mask l.mask win
    if 131072 * (16 - sbuf) < nqh * l.npos * lam then seqFault i.sid 0x23 t
    else
      let rows := (List.range l.npos).flatMap fun p => (List.range nqh).flatMap fun h =>
        scoreRow t i.sid l qaddr nqh kvh mode win ps p h
      let t1 := { t with kv := { t.kv with
        sbuf := wrBytes t.kv.sbuf (sbufAddr i.sid sbuf) (rows.flatMap fun w => leBytes w.toNat 4)
        sinfo := tput [] t.kv.sinfo (sramIx i.sid * 16 + sbuf) [lam, layer, i.seg] } }
      prefetchNext i.sid l layer t1) s

/-- Legal fields of the attention instructions (R212). -/
def attOk (kvh layer a mask nqh : Nat) : Bool :=
  decide (kvh < 8) && decide (layer < 128) && decide (a < 65536) && decide (mask < 4) && decide (1 ≤ nqh) && decide (nqh < 16)

def scoreAct (i : Iss) (kvh layer qaddr sbuf mask nqh : Nat) (s : State) : State :=
  laneOp i (scoreAll i kvh layer (offset s i 2 qaddr) sbuf mask nqh) s

def execScore (i : Iss) (kvh layer qaddr sbuf mask nqh : Nat) (s : State) : Out :=
  attOp (.score i kvh layer qaddr sbuf mask nqh) i (attOk kvh layer qaddr mask nqh && decide (sbuf < 16))
    (scoreAct i kvh layer qaddr sbuf mask nqh) s

/-! ## SNORM (R281, R282) -/

/-- Score `k` of a row in a cluster's buffer. -/
def scoreAt (s : State) (sid sbuf lam r k : Nat) : Word := rdWord s.kv.sbuf (sbufAddr sid sbuf + 4 * (r * lam + k))

/-- Λ of the last SCORE into a buffer of a cluster. -/
def lamOf (s : State) (sid sbuf : Nat) : Nat := nth 0 (tget [] s.kv.sinfo (sramIx sid * 16 + sbuf)) 0

/-- The four attention sequencers of a die, in cluster order. -/
def dieSids (sid : Nat) : List Nat := (List.range 4).map fun c => attSid (mkCluster (sidDie sid) c)

/-- Largest score of a row in a cluster. -/
def rowMax (s : State) (sid sbuf r : Nat) : Word :=
  (List.range (lamOf s sid sbuf)).foldl (fun a k =>
    let x := scoreAt s sid sbuf (lamOf s sid sbuf) r k
    if nan32 a || nan32 x then canonNan else if fKey a < fKey x then x else a) negInf

/-- e(k), 0 where the score is -infinity. -/
def expScore (x m : Word) : Word := if x = negInf then 0 else fexp (fsub x m)

/-- z of a row in a cluster: the sum of e in ascending slot order. -/
def rowSum (s : State) (sid sbuf r : Nat) (m : Word) : Pair :=
  (List.range (lamOf s sid sbuf)).foldl (fun a k =>
    awidP a ⟨expScore (scoreAt s sid sbuf (lamOf s sid sbuf) r k) m, 0⟩) Pair.zero

/-- m and Z of a row over the die's four clusters (R281). -/
def rowStats (s : State) (sid sbuf r : Nat) : Word × Word :=
  let m := (dieSids sid).foldl (fun a q =>
    let x := rowMax s q sbuf r
    if nan32 a || nan32 x then canonNan else if fKey a < fKey x then x else a) negInf
  let zs := (dieSids sid).map fun q => rowSum s q sbuf r m
  (m, readF32 (match zs with | z :: rest => rest.foldl awidP z | [] => Pair.zero))

/-- BF16 of the quotient e / z, rounded once. -/
def probOf (e z : Word) : Half :=
  if fin32 e && fin32 z && (f32Dy z).m != 0 then
    let a := f32Dy e
    let b := f32Dy z
    if a.m = 0 then 0 else BitVec.ofNat 16 (magCode bf16F .near a.m.natAbs b.m.natAbs (a.e - b.e))
  else f32ToBf16 (fdiv e z)

/-- One row of SNORM: its probabilities, then its pair (m, Z) after the last row. -/
def snormRow (i : Iss) (sbuf paddr rows : Nat) (s : State) (r : Nat) : State :=
  let lam := lamOf s i.sid sbuf
  let (m, z) := rowStats s i.sid sbuf r
  let pr (k : Nat) : Half := if m = negInf then 0 else probOf (expScore (scoreAt s i.sid sbuf lam r k) m) z
  let bytes := (List.range lam).flatMap fun k => leBytes (pr k).toNat 2
  let at_ := sbufAddr i.sid sbuf + 4 * rows * lam + 8 * r
  let m1 := wrBytes s.core.sram (attAddr i.sid paddr + 2 * r * lam) bytes
  let m2 := wrWord (wrWord s.kv.sbuf at_ m) (at_ + 4) z
  { s with core := { s.core with sram := m1 }, kv := { s.kv with sbuf := m2 } }

/-- Rows whose m exceeds SBND count toward their layer (R285); cluster 0 of a die counts for its row. -/
def countBound (i : Iss) (sbuf rows : Nat) (l : Lane) (s : State) : State :=
  let layer := nth 0 (tget [] s.kv.sinfo (sramIx i.sid * 16 + sbuf)) 1
  let b := bfDy (attnRec s l.canvas layer).sbnd
  let n := ((List.range rows).filter fun r => fLt (toF32 b) (rowStats s i.sid sbuf r).1).length
  if attCl i.sid = 0 then { s with glz := { s.glz with boundNew := tmod 0 s.glz.boundNew (i.seg * 128 + layer) (· + n) } } else s

def snormAll (i : Iss) (sbuf paddr nqh : Nat) (l : Lane) (s : State) : State :=
  (List.range (nqh * l.npos)).foldl (snormRow i sbuf paddr (nqh * l.npos)) (countBound i sbuf (nqh * l.npos) l s)

def snormAct (i : Iss) (sbuf paddr nqh : Nat) (s : State) : State := laneOp i (snormAll i sbuf (offset s i 2 paddr) nqh) s

def execSnorm (i : Iss) (sbuf paddr nqh : Nat) (s : State) : Out :=
  attOp (.snorm i sbuf paddr nqh) i (attOk 0 0 paddr 0 nqh && decide (sbuf < 16)) (snormAct i sbuf paddr nqh) s

/-! ## SMIX (R283) -/

/-- Probability `k` of a row. -/
def probAt (s : State) (sid paddr lam r k : Nat) : Word := bfToF32 (rdHalf s.core.sram (attAddr sid paddr + 2 * (r * lam + k)))

/-- A value element with an MXFP4 block's scale. -/
def valElem (s : State) (n : Nat) (p : Leaf) (u t d : Nat) : Word :=
  toF32 (if p.mx then dyScale (elemDy s n p u 1 t d) (mxExp s n p u 1 t (d / 32)) else elemDy s n p u 1 t d)

/-- A pair times a BF16 value, exactly, as a pair (log entry 29). -/
def pairMul (p : Pair) (h : Half) : Pair :=
  if fin32 p.s && fin32 p.c && isFin (decBf16 h) then pairOfDy (dyMul (dyAdd (f32Dy p.s) (f32Dy p.c)) (bfDy h))
  else twoProd (readF32 p) (bfToF32 h)

/-- A page's share of one output element. -/
def mixPage (s : State) (sid paddr lam r n u d ix : Nat) (vis : Nat → Bool) (p : Leaf) : Pair :=
  let inner := (List.range 256).foldl (fun a t =>
    if vis t then awidP a (twoProd (probAt s sid paddr lam r (256 * ix + t)) (valElem s n p u t d)) else a) Pair.zero
  if p.mx then inner else pairMul inner (pageScale s p u 1)

/-- One output element of a row: the pages in ascending order. -/
def mixElem (s : State) (i : Iss) (paddr lam r u mode win : Nat) (l : Lane) (ps : List (Nat × Leaf)) (p d : Nat) : Pair :=
  (ps.zipIdx).foldl (fun a e =>
    awidP a (mixPage s i.sid paddr lam r (attDie i.sid) u d e.2
      (fun t => visible s (attDie i.sid) l mode win p (256 * e.1.1 + t)) e.1.2)) Pair.zero

def smixAll (i : Iss) (kvh layer paddr oaddr mask nqh : Nat) (l : Lane) (s : State) : State :=
  issuePages i.sid l layer mask (fun ps t =>
    let lam := 256 * ps.length
    let win := (attnRec t l.canvas layer).win
    let mode := maskMode mask l.mask win
    let bytes (p h : Nat) : List Byte := (List.range 128).flatMap fun d =>
      let e := mixElem t i paddr lam (p * nqh + h) kvh mode win l ps p d
      leBytes e.s.toNat 4 ++ leBytes e.c.toNat 4
    let all := (List.range l.npos).flatMap fun p => (List.range nqh).flatMap fun h => bytes p h
    { t with core := { t.core with sram := wrBytes t.core.sram (attAddr i.sid oaddr) all } }) s

def smixAct (i : Iss) (kvh layer paddr oaddr mask nqh : Nat) (s : State) : State :=
  laneOp i (smixAll i kvh layer (offset s i 2 paddr) (offset s i 2 oaddr) mask nqh) s

def execSmix (i : Iss) (kvh layer paddr oaddr mask nqh : Nat) (s : State) : Out :=
  attOp (.smix i kvh layer paddr oaddr mask nqh) i (attOk kvh layer paddr mask nqh && decide (oaddr < 65536))
    (smixAct i kvh layer paddr oaddr mask nqh) s

/-! ## KVPUT (R269, R270) -/

/-- Element `d` of a position's key (0) or value (1) at KADDR. -/
def kvIn (s : State) (sid kaddr pos kind d : Nat) : Half := rdHalf s.core.sram (attAddr sid (kaddr + 8 * pos) + 256 * kind + 2 * d)

/-- The smallest BF16 value not below a positive dyadic over 448, or the predicted scale if that is larger (R270). -/
def newScale (p : Half) (m : Dy) : Half :=
  let q : Half := if m.m = 0 then 0 else BitVec.ofNat 16 (magCode bf16F .up m.m.natAbs 448 m.e)
  if dyLt (bfDy p) (bfDy q) then q else p

/-- Largest finite magnitude a KVPUT writes into a page, of a kind. -/
def pageMax (s : State) (sid kaddr kind : Nat) (ps : List Nat) : Dy :=
  ps.foldl (fun a p => (List.range 128).foldl (fun b d => dyMax b (dyAbs (bfDy (kvIn s sid kaddr p kind d)))) a) dyZero

/-- An FP8 element of a value under a scale, and whether it counts as saturated (R269). -/
def fp8Elem (v sc : Half) : Byte × Bool :=
  match decBf16 v with
  | .nan => (0, false)
  | .inf neg => (if neg then 0xFE else 0x7E, true)
  | .fin _ d =>
    let b := bfDy sc
    if d.m = 0 then (0, false)
    else if b.m = 0 then (if d.m < 0 then 0xFE else 0x7E, true)
    else toE4m3 ⟨d.m, d.e - b.e⟩ b.m.natAbs

/-- X of an MXFP4 block. -/
def mxX (vs : List Half) : Nat :=
  let m := vs.foldl (fun a v => dyMax a (dyAbs (bfDy v))) dyZero
  if m.m = 0 then 0 else (dyLog2 m + 125).toNat

/-- An MXFP4 element under its block's exponent. -/
def mxElem (v : Half) (x : Nat) : Nat :=
  match decBf16 v with
  | .nan => 0
  | .inf neg => if neg then 15 else 7
  | .fin _ d => toE2m1 (dyScale d (127 - (x : Int)))

/-- The bytes of 128 elements of one kind, with the block scales (MXFP4) and the count of saturated elements (FP8). -/
def kvBytes (s : State) (sid kaddr pos kind : Nat) (p : Leaf) (sc : Half) : List Byte × List Byte × Nat :=
  let v (d : Nat) : Half := kvIn s sid kaddr pos kind d
  if p.mx then
    let x (b : Nat) : Nat := mxX ((List.range 32).map fun d => v (32 * b + d))
    ((List.range 64).map fun k => BitVec.ofNat 8 (mxElem (v (2 * k)) (x (k / 16)) + mxElem (v (2 * k + 1)) (x (k / 16)) * 16),
     (List.range 4).map fun b => BitVec.ofNat 8 (x b), 0)
  else
    let es := (List.range 128).map fun d => fp8Elem (v d) sc
    (es.map (·.1), [], (es.filter (·.2)).length)

/-- Whether this KVPUT opens a page for a head in the attempt. -/
def opensPage (s : State) (p : Leaf) (key : Nat × Nat × Nat × Nat) : Bool := p.fill == 0 && !s.kv.opened.contains key

/-- The scales of an open page set by the first KVPUT of the attempt into it (R270). -/
def setScales (sid kvh kaddr layer j : Nat) (l : Lane) (p : Leaf) (ps : List Nat) (s : State) : State :=
  let key := (sid, l.lane, layer * 2048 + j, kvh)
  if p.mx || !opensPage s p key then s
  else
    let r := attnRec s l.canvas layer
    let h := kvh * 8 + attDie sid
    let ks := newScale (nth 0 r.kscl h) (pageMax s sid kaddr 0 ps)
    let vs := newScale (nth 0 r.vscl h) (pageMax s sid kaddr 1 ps)
    { s with kv := { s.kv with
        near := wrHalf (wrHalf s.kv.near (p.addr + 16 + 4 * kvh) ks) (p.addr + 18 + 4 * kvh) vs
        opened := s.kv.opened ++ [key] } }

/-- One position into its slot of a page. -/
def putPos (i : Iss) (kvh layer kaddr : Nat) (l : Lane) (p : Leaf) (s : State) (pos : Nat) : State :=
  let n := attDie i.sid
  let t := (l.ctx + pos) % 256
  [0, 1].foldl (fun u kind =>
    let (bs, sc, sat) := kvBytes u i.sid kaddr pos kind p (pageScale u p kvh kind)
    let m := wrBytes u.kv.near (nearAddr n p.frame (elemOff p kvh kind t 0)) bs
    { u with
      kv := { u.kv with near := if p.mx then wrBytes m (mxScaleAddr n p kvh kind t 0) sc else m }
      glz := { u.glz with kvNew := tmod 0 u.glz.kvNew (i.seg * 128 + layer) (· + sat) } }) s

/-- KVPUT into one page of the cluster. -/
def putPage (i : Iss) (kvh layer kaddr : Nat) (l : Lane) (s : State) (j : Nat) : State :=
  if (seqOf s i.sid).phase != 1 then s
  else
    let ps := (List.range l.npos).filter fun p => (l.ctx + p) / 256 == j
    let s1 := noteAccess i.sid l.lane layer j (touchWalk (sidCluster i.sid) l.ptroot layer j s)
    match walkPage s1 (attDie i.sid) l.ptn l.ptroot layer j with
    | .fault c => seqFault i.sid c s1
    | .at p =>
      let s2 := ps.foldl (putPos i kvh layer kaddr l p) (setScales i.sid kvh kaddr layer j l p ps s1)
      { s2 with kv := { s2.kv with wrote := if s2.kv.wrote.contains (attDie i.sid, l.lane, layer, j) then s2.kv.wrote
                                            else s2.kv.wrote ++ [(attDie i.sid, l.lane, layer, j)] } }

def kvputAll (i : Iss) (kvh layer kaddr : Nat) (l : Lane) (s : State) : State :=
  if !laneInWindow s l then seqFaultOpen i.sid s
  else
    let js := (List.range ((l.ctx + l.npos + 255) / 256)).filter fun j =>
      decide (l.ctx / 256 ≤ j) && j % 4 == attCl i.sid
    js.foldl (putPage i kvh layer kaddr l) s

def kvputAct (i : Iss) (kvh layer kaddr : Nat) (s : State) : State := laneOp i (kvputAll i kvh layer (offset s i 2 kaddr)) s

def execKvput (i : Iss) (kvh layer kaddr : Nat) (s : State) : Out :=
  attOp (.kvput i kvh layer kaddr) i (attOk kvh layer kaddr 0 1) (kvputAct i kvh layer kaddr) s

end Sys2Proof.Machine
end

