-- ==== Sys2Proof/Machine/Aes.lean ====
section
/-! DEFINITION. AES-128 encryption of one block (FIPS 197, named by R306), and the counter-based
generator built on it. -/

namespace Sys2Proof.Machine

/-- Doubling in the AES field. -/
def xtime (a : Nat) : Nat := if a < 128 then 2 * a else ((2 * a) ^^^ 0x11B)

/-- Product in the AES field over `n` bits of the second factor. -/
def gmul (a b : Nat) : Nat → Nat
  | 0 => 0
  | n + 1 => (if b % 2 = 1 then a else 0) ^^^ gmul (xtime a) (b / 2) n

/-- `x` to the power 2^k - 2 for k = 8 in the AES field: the inverse, 0 for 0. -/
def ginv (x : Nat) : Nat :=
  let s (a : Nat) := gmul a a 8
  let x2 := s x
  let x4 := s x2
  let x8 := s x4
  let x16 := s x8
  let x32 := s x16
  let x64 := s x32
  let x128 := s x64
  gmul (gmul (gmul x2 x4 8) (gmul x8 x16 8) 8) (gmul (gmul x32 x64 8) x128 8) 8

/-- Left rotation of a byte. -/
def rotl8 (x k : Nat) : Nat := (x * 2 ^ k % 256) + x / 2 ^ (8 - k)

/-- The S-box: inverse, then the affine map. -/
def subByte (x : Nat) : Nat :=
  let b := ginv x
  b ^^^ rotl8 b 1 ^^^ rotl8 b 2 ^^^ rotl8 b 3 ^^^ rotl8 b 4 ^^^ 0x63

/-- Bytewise exclusive or. -/
def xorBytes (a b : List Nat) : List Nat := List.zipWith (· ^^^ ·) a b

/-- The next round key from one of 16 bytes. -/
def nextKey (k : List Nat) (rcon : Nat) : List Nat :=
  let w (i : Nat) := (k.drop (4 * i)).take 4
  let t := (w 3)
  let g := [subByte (nth 0 t 1) ^^^ rcon, subByte (nth 0 t 2), subByte (nth 0 t 3), subByte (nth 0 t 0)]
  let w0 := xorBytes (w 0) g
  let w1 := xorBytes (w 1) w0
  let w2 := xorBytes (w 2) w1
  let w3 := xorBytes (w 3) w2
  w0 ++ w1 ++ w2 ++ w3

/-- ShiftRows on a state of 16 bytes in column order. -/
def shiftRows (s : List Nat) : List Nat :=
  (List.range 16).map fun i => nth 0 s ((i + 4 * (i % 4)) % 16)

/-- MixColumns on one column. -/
def mixCol (c : List Nat) : List Nat :=
  let a := nth 0 c 0
  let b := nth 0 c 1
  let d := nth 0 c 2
  let e := nth 0 c 3
  let t := a ^^^ b ^^^ d ^^^ e
  [a ^^^ t ^^^ xtime (a ^^^ b), b ^^^ t ^^^ xtime (b ^^^ d), d ^^^ t ^^^ xtime (d ^^^ e),
   e ^^^ t ^^^ xtime (e ^^^ a)]

def mixColumns (s : List Nat) : List Nat :=
  mixCol (s.take 4) ++ mixCol ((s.drop 4).take 4) ++ mixCol ((s.drop 8).take 4) ++ mixCol (s.drop 12)

/-- The rounds of AES-128 after the first key addition, one round constant each; the last has no
MixColumns. -/
def aesRounds (s k : List Nat) : List Nat → List Nat
  | [] => s
  | r :: rs =>
    let k' := nextKey k r
    let t := shiftRows (s.map subByte)
    let u := if rs.isEmpty then t else mixColumns t
    aesRounds (xorBytes u k') k' rs

/-- AES-128 of a 16-byte block under a 16-byte key. -/
def aes128 (key block : List Nat) : List Nat :=
  aesRounds (xorBytes block key) key [0x01, 0x02, 0x04, 0x08, 0x10, 0x20, 0x40, 0x80, 0x1B, 0x36]

/-- A number as 16 little-endian bytes. -/
def le16 (v : Nat) : List Nat := (List.range 16).map fun i => v / 256 ^ i % 256

/-- Bits [31:0] of the ciphertext of gen(seed, i); u is this number times 2^-32 (R306). -/
def genBits (seed i : Nat) : Nat :=
  let c := aes128 (le16 (seed % 2 ^ 64)) (le16 (i % 2 ^ 64))
  nth 0 c 0 + 256 * nth 0 c 1 + 65536 * nth 0 c 2 + 16777216 * nth 0 c 3

end Sys2Proof.Machine
end

