-- ==== Sys2Proof/Machine/Head.lean ====
section
/-! DEFINITION. The head sequencers (R214, R215, R299 to R317, R567): SAMP, VRFY and SKDR. The sketch model's own strokes
are instructions of the head cores; what its output layer prefers is an operand of SKDR. -/

namespace Sys2Proof.Machine

/-! ## Words and logits (R299, R301) -/

/-- The head sequencers in the order of R299. -/
def headSids : List Nat := (List.range 8).map fun k => headSid (mkCluster (32 + k / 4) (k % 4))

/-- Words of a lane's canvas in one slice. -/
def sliceWords (s : State) (canvas : Nat) : Nat :=
  match (cnvOf s canvas).bundle with
  | some b => b.vocab / 8
  | none => 0

/-- Working-SRAM byte address of a 64-byte unit of a head cluster. -/
def headAddr (sid u : Nat) : Nat := sramBase sid + 64 * u

/-- Committed logits of position `p`, by word, over the eight slices. -/
def logits (s : State) (canvas laddr p : Nat) : List Word :=
  let n := sliceWords s canvas
  headSids.flatMap fun sid => (List.range n).map fun j =>
    rdWord s.core.sram (headAddr sid (laddr + p * ((4 * n + 63) / 64)) + 4 * j)

/-! ## Sequence indices (R301) -/

/-- Sequence index of the token that position `p` predicts: a prefill lane's only logits are its last position's (R301). -/
def sampleIndex (l : Lane) (p : Nat) : Nat :=
  if 2 ≤ l.w then l.pos + depthOf l p + 1 else l.pos + l.npos

/-! ## Sampling (R304 to R307, R567) -/

/-- The presence set that holds when position `p` is sampled (R307). -/
def presentAt (s : State) (l : Lane) (p : Nat) : List Nat :=
  tget [] s.head.presence l.index ++ (if 2 ≤ l.w then (pathTo l p 8).map fun k => nth 0 l.inputs k else [])

/-- A logit after the repetition penalty. -/
def penalised (rpen : Half) (x : Word) : Word :=
  if fLt 0 x then fdiv x (bfToF32 rpen) else fmul x (bfToF32 rpen)

/-- Logits after the penalty, with their words. -/
def penalisedAll (ctl : Ctl) (pres : List Nat) (ls : List Word) : List (Nat × Word) :=
  (ls.zipIdx).map fun e =>
    (e.2, if dyLt (dyOfInt 1) (bfDy ctl.rpen) && pres.contains e.2 then penalised ctl.rpen e.1 else e.1)

/-- A kept word goes before another in descending e, the lower index first among equals. -/
def before (a b : Nat × Word) : Bool :=
  if fKey a.2 = fKey b.2 then decide (a.1 < b.1) else decide (fKey b.2 < fKey a.2)

/-- Insertion in descending order of e. -/
def insertDesc (x : Nat × Word) : List (Nat × Word) → List (Nat × Word)
  | [] => [x]
  | y :: ys => if before x y then x :: y :: ys else y :: insertDesc x ys

/-- Descending order of e, lower index first among equals. -/
def sortDesc (l : List (Nat × Word)) : List (Nat × Word) := l.foldl (fun a x => insertDesc x a) []

/-- The sum of e over a list, as a pair. -/
def sumE (l : List (Nat × Word)) : Pair := l.foldl (fun a x => awidP a ⟨x.2, 0⟩) Pair.zero

/-- The shortest prefix whose read-out running sum reaches the threshold. -/
def prefixUpTo (thr : Word) : List (Nat × Word) → Pair → List (Nat × Word)
  | [], _ => []
  | x :: xs, acc =>
    let a := awidP acc ⟨x.2, 0⟩
    if fLe thr (readF32 a) then [x] else x :: prefixUpTo thr xs a

/-- TOPK in force (R305). -/
def topkOf (c : Ctl) : Nat :=
  if c.topk = 0 ∧ (dyLt (bfDy c.topp) (dyOfInt 1) || dyLt dyZero (bfDy c.minp)) then 1024 else c.topk

/-- The words kept by the filters of R304, in descending order of e. -/
def filtered (c : Ctl) (es : List (Nat × Word)) : List (Nat × Word) :=
  let d := sortDesc es
  let k1 := if topkOf c = 0 then d else d.take (topkOf c)
  let k2 := if dyLt (bfDy c.topp) (dyOfInt 1)
    then prefixUpTo (fmul (bfToF32 c.topp) (readF32 (sumE k1))) k1 Pair.zero else k1
  if dyLt dyZero (bfDy c.minp) then k2.filter fun e => !fLt e.2 (bfToF32 c.minp) else k2

/-- The lowest word whose read-out cumulative sum exceeds a bound; the last word when none does. -/
def drawFrom (bound : Word) : List (Nat × Word) → Pair → Nat → Nat
  | [], _, last => last
  | x :: xs, acc, _ =>
    let a := awidP acc ⟨x.2, 0⟩
    if fLt bound (readF32 a) then x.1 else drawFrom bound xs a x.1

/-- Kept words in ascending index. -/
def byIndex (n : Nat) (k : List (Nat × Word)) : List (Nat × Word) :=
  (List.range n).filterMap fun j => k.find? (·.1 == j)

/-- Greedy choice: the largest logit as RARG orders (R140), the lowest index of equals. -/
def greedy (ls : List (Nat × Word)) : Nat := (fold1 argBetter (negInf, 0) (ls.map fun e => (e.2, e.1))).2

/-- e of every word: a NaN logit counts as -infinity. -/
def expAll (temp : Half) (ls : List (Nat × Word)) : List (Nat × Word) :=
  let ts := ls.map fun e => (e.1, if nan32 e.2 then negInf else fdiv e.2 (bfToF32 temp))
  let mx := fold1 maxW negInf (ts.map (·.2))
  ts.map fun e => (e.1, if e.2 = negInf then 0 else fexp (fsub e.2 mx))

/-- The token drawn by inverse cumulative probability with u = bits × 2^-32. -/
def drawTok (n bits : Nat) (k : List (Nat × Word)) : Nat :=
  let a := byIndex n k
  let c := readF32 (sumE a)
  let bound := if fin32 c then toF32 (dyMul ⟨bits, -32⟩ (f32Dy c)) else c
  drawFrom bound a Pair.zero 0

/-- The token of position `p` (R304). -/
def sampTok (s : State) (l : Lane) (laddr p : Nat) : Nat :=
  let ls := penalisedAll l.ctl (presentAt s l p) (logits s l.canvas laddr (if 2 ≤ l.w then p else 0))
  if (bfDy l.ctl.temp).m = 0 then greedy ls
  else drawTok ls.length (genBits l.ctl.seed (sampleIndex l p)) (filtered l.ctl (expAll l.ctl.temp ls))

/-! ## Verification (R215, R317) -/

/-- The child of a node whose token is `t`, lowest index first. -/
def childWith (l : Lane) (p t : Nat) : Option Nat :=
  (List.range l.w).find? fun k => k != 0 && parentOf l k == p && nth 0 l.inputs k == t

/-- The walk of VRFY from node `p`: accepted nodes from the root on, and the bonus token. -/
def vrfyWalk (s : State) (l : Lane) (laddr p : Nat) (path : List Nat) : Nat → List Nat × Nat
  | 0 => (path, sampTok s l laddr p)
  | n + 1 =>
    let t := sampTok s l laddr p
    match childWith l p t with
    | some k => vrfyWalk s l laddr k (path ++ [k]) n
    | none => (path, t)

/-- Whether the bonus token equals node 0 of the draft made in this pass. -/
def ghitOf (s : State) (lane bonus : Nat) : Bool :=
  match tget [] s.head.drafts lane with
  | d :: _ => d.token == bonus
  | [] => false

/-- A verdict kept for a lane: a later one of the same attempt replaces it. -/
def setVerdict (v : Verdict) (s : State) : State :=
  modCur (fun c => { c with verdicts := c.verdicts.filter (·.lane != v.lane) ++ [v] }) s

/-- The 64-byte record of VRFY (R317); STOP is set by the scheduler core when it cuts the delivery. -/
def vrfyBytes (v : Verdict) : List Byte :=
  padTo 64 (leBytes (v.acc % 16 + b2n v.ghit * 32) 4 ++ leBytes (v.bonus % 2 ^ 18) 4
    ++ padTo 8 (v.path.map fun k => BitVec.ofNat 8 k))

/-- A head instruction: its sequencer is a head cluster's. -/
def headOp (c : Instr) (i : Iss) (ok : Bool) (run : State → State) (s : State) : Out := slotOp c i (isHeadSid i.sid && ok) run s

/-- SAMP (R215): the token of a position, over all eight slices. -/
def sampAll (laddr pos : Nat) (l : Lane) (s : State) : State :=
  let t := sampTok s l laddr pos
  setVerdict { lane := l.lane, acc := 0, bonus := t, path := [0], toks := [t], ghit := ghitOf s l.lane t, daddr := none } s

def sampAct (i : Iss) (laddr pos : Nat) (s : State) : State := laneOp i (sampAll (offset s i 2 laddr) pos) s

def execSamp (i : Iss) (laddr pos : Nat) (s : State) : Out :=
  headOp (.samp i laddr pos) i (decide (laddr < 65536) && decide (pos < 8)) (sampAct i laddr pos) s

/-- VRFY (R215): accepted proposals and the bonus token; a verify width out of range is a failed issue check (R218). -/
def vrfyAll (i : Iss) (laddr daddr : Nat) (l : Lane) (s : State) : State :=
  checkWidth i (fun t =>
    let (path, bonus) := vrfyWalk t l laddr 0 [0] 8
    let v : Verdict := { lane := l.lane, acc := path.length - 1, bonus := bonus, path := path,
                         toks := (path.drop 1).map (fun k => nth 0 l.inputs k) ++ [bonus], ghit := ghitOf t l.lane bonus,
                         daddr := some daddr }
    let s1 := setVerdict v t
    { s1 with core := { s1.core with sram := wrBytes s1.core.sram (headAddr i.sid daddr) (vrfyBytes v) } }) s

/-- TREE of the instruction gives the walk its shape. -/
def vrfyAct (i : Iss) (laddr daddr tree : Nat) (s : State) : State :=
  laneOp i (fun l => vrfyAll i (offset s i 2 laddr) (offset s i 2 daddr) { l with ctl := { l.ctl with tree := tree } }) s

def execVrfy (i : Iss) (laddr daddr tree : Nat) (s : State) : Out :=
  headOp (.vrfy i laddr daddr tree) i (decide (laddr < 65536) && decide (daddr < 65536) && decide (tree < 2))
    (vrfyAct i laddr daddr tree) s

/-! ## SKDR (R311, R312) -/

/-- The open node of greatest LOGP; the lowest index of equals. -/
def openBest (ns : List Node) (done : List Nat) : Option Nat :=
  ((ns.zipIdx).filter fun e => !done.contains e.2).foldl (fun a e =>
    match a with
    | none => some e.2
    | some k => if fLt (nth default ns k).logp e.1.logp then some e.2 else a) none

/-- Children of a node, at most four, in the sketch's order of preference. -/
def children (ns : List Node) (k room : Nat) (cs : List (Nat × Word)) : List Node :=
  (cs.take (min 4 room)).map fun c => { token := c.1 % 2 ^ 18, parent := k, logp := fadd (nth default ns k).logp c.2 }

/-- A tree draft grown by one expansion after another. -/
def growTree (n : Nat) : List (List (Nat × Word)) → List Node → List Nat → List Node
  | [], ns, _ => ns
  | cs :: rest, ns, done =>
    if n ≤ ns.length then ns
    else match openBest ns done with
      | none => ns
      | some k => growTree n rest (ns ++ children ns k (n - ns.length) cs) (k :: done)

/-- A linear draft: node k is the child of node k - 1. -/
def growLine (n : Nat) : List (List (Nat × Word)) → List Node → List Node
  | [], ns => ns
  | cs :: rest, ns =>
    if n ≤ ns.length then ns
    else match cs with
      | [] => ns
      | _ :: _ => growLine n rest (ns ++ children ns (ns.length - 1) 1 cs)

/-- A draft of `n` nodes: node 0 is the guess of the bonus token. -/
def draftOf (n tree : Nat) (cands : List (List (Nat × Word))) : List Node :=
  match cands with
  | (c :: _) :: rest =>
    let root : Node := { token := c.1 % 2 ^ 18, parent := 0, logp := c.2 }
    if tree = 1 then growTree n rest [root] [] else growLine n rest [root]
  | _ => []

/-- The records of a draft (R312). -/
def draftBytes (d : List Node) : List Byte :=
  d.flatMap fun x => leBytes (x.token % 2 ^ 18 + x.parent % 16 * 2 ^ 18) 4 ++ leBytes x.logp.toNat 4

/-- SKDR for a lane with proposals of the sketch model: as many nodes as the instruction and the descriptor ask for (R294, R311). -/
def skdrAll (i : Iss) (nprop tree daddr : Nat) (cands : List (List (Nat × Word))) (l : Lane) (s : State) : State :=
  if l.ctl.nprop < 2 ∨ l.ctl.psrc = 1 then s
  else
    let d := draftOf (min nprop l.ctl.nprop) tree cands
    { s with
      head := { s.head with drafts := tput [] s.head.drafts l.lane d }
      core := { s.core with sram := wrBytes s.core.sram (headAddr i.sid daddr) (draftBytes d) } }

def skdrAct (i : Iss) (nprop tree daddr : Nat) (cands : List (List (Nat × Word))) (s : State) : State :=
  laneOp i (skdrAll i nprop tree (offset s i 2 daddr) cands) s

def execSkdr (i : Iss) (nprop tree daddr : Nat) (cands : List (List (Nat × Word))) (s : State) : Out :=
  headOp (.skdr i nprop tree daddr cands) i (decide (1 ≤ nprop) && decide (nprop ≤ if tree = 1 then 16 else 8) && decide (tree < 2) && decide (daddr < 65536))
    (skdrAct i nprop tree daddr cands) s

end Sys2Proof.Machine
end

