-- ==== Sys2Proof/Machine/Life.lean ====
section
/-! DEFINITION. The life of a request table entry (R322 to R356): page and table frames (R266, R272, R273, R294, R295), masks
written by the scheduler core (R290, R314), completions (R356, R384, R390) and retirement (R325, R336). -/

namespace Sys2Proof.Machine

/-! ## The reservation (R294) -/

def ceilDiv (a b : Nat) : Nat := (a + b - 1) / b

/-- Layers that attend in the main model: its own, then the extra output heads' (R226, R320). -/
def mainLayers (b : Bundle) : Nat := b.layers + b.attHeads

/-- Frames of the pages and table pages that `main` slots on the main layers and `sk` slots on the sketch layers 120 to 127
need (R265, R267, R272, R273). -/
def kvFrames (b : Bundle) (main sk fmt : Nat) : Nat :=
  let pm := ceilDiv main 256
  let ps := if b.sketch then ceilDiv sk 256 else 0
  let pages := mainLayers b * pm + 8 * ps
  let frames := if fmt = 1 then ceilDiv pages 2 + ceilDiv pages 32 else pages
  let blocks := 1 + (if pm = 0 then 0 else ceilDiv (mainLayers b) 8 * (1 + ceilDiv pm 8)) + (if ps = 0 then 0 else 1 + ceilDiv ps 8)
  frames + ceilDiv blocks 16

/-- The reservation for a bound of `n` tokens: 8 further slots on the main layers, 24 on the sketch layers (R294). -/
def resvFor (b : Bundle) (n fmt : Nat) : Nat := kvFrames b (n + 8) (n + 24) fmt

/-- A reservation of `n` frames for an entry fits its partition's near-tier quota; the entry's present reservation counts
toward it (R348). -/
def resvFits (s : State) (ptn ix n : Nat) : Bool :=
  decide (nearUsed s ptn + n ≤ (ptnOf s ptn).nearQ + (if (entryOf s ix).st != .free then (entryOf s ix).resv else 0))

/-! ## Frames (R266, R295, R297) -/

/-- `n` consecutive page numbers of a partition that its window does not map. -/
def pagesFree (s : State) (ptn n k : Nat) : Bool := (List.range n).all fun j => tget 0 s.kv.window (ptn * 2 ^ 28 + k + j) == 0

/-- Maps a page number of a partition to a fresh frame, when the near tier has room for it. -/
def mapPage (ptn page : Nat) (s : State) : State :=
  match freshFrame s ptn page with
  | some f => { s with kv := { s.kv with window := tput 0 s.kv.window (ptn * 2 ^ 28 + page) (f + 1)
                                         owner := tput 0 s.kv.owner f (ptn + 1) } }
  | none => s

/-- `n` consecutive pages for an entry: the first page number, and the module with the pages held by the entry. -/
def takePages (ix n : Nat) (s : State) : Nat × State :=
  let ptn := (entryOf s ix).ptn
  let k := firstFree (pagesFree s ptn n) 2097152 0
  (k, modEntry ix (fun e => { e with pages := e.pages ++ (List.range n).map (k + ·) })
        ((List.range n).foldl (fun t j => mapPage ptn (k + j) t) s))

/-- A page's frame leaves the partition's window: its contents are to be scrubbed before any reuse (R295). -/
def freePage (ptn ix page : Nat) (s : State) : State :=
  match frameOf s ptn page with
  | some f => { s with kv := { s.kv with window := tput 0 s.kv.window (ptn * 2 ^ 28 + page) 0
                                         scrub := s.kv.scrub ++ [(ptn, f, ix)] } }
  | none => s

/-- Every frame of an entry set free; `ix` + 1 marks frames whose scrub retires the entry, 0 none (R336). -/
def freePages (ix mark : Nat) (s : State) : State :=
  let e := entryOf s ix
  let s1 := e.pages.foldl (fun t p => freePage e.ptn mark p t) s
  let s2 := modEntry ix (fun x => { x with pages := [], tpages := [], tblk := 0, mxn := 0, mxf := [], sff := [], mpages := [],
                                           ptroot := 0, mroot := 0 }) s1
  { s2 with kv := { s2.kv with plan := tmapv [] (fun l => l.filter (·.index != ix)) s2.kv.plan
                               filled := tmapv [] (fun l => l.filter (·.index != ix)) s2.kv.filled } }

/-! ## Page tables written by the scheduler core (R272, R273, R294) -/

/-- A new 4 KiB table block of an entry: its table pointer. -/
def newBlock (ix : Nat) (s : State) : Nat × State :=
  let e := entryOf s ix
  let r := if e.tblk % 16 = 0 then
      let k := takePages ix 1 s
      (k.1, modEntry ix (fun x => { x with tpages := x.tpages ++ [k.1] }) k.2)
    else (nth 0 e.tpages (e.tblk / 16), s)
  (r.1 * 16 + e.tblk % 16, modEntry ix (fun x => { x with tblk := x.tblk + 1 }) r.2)

/-- Frame and offset of a table block. -/
def blockAt (s : State) (ptn ptr : Nat) : Nat × Nat := ((frameOf s ptn (ptr / 16)).getD 0, ptr % 16 * 4096)

/-- The 8-byte entry at `off` of a table block: if it is not valid, a new block is made and named there, on every die. -/
def ensureEntry (ix ptr off : Nat) (s : State) : Nat × State :=
  let ptn := (entryOf s ix).ptn
  let (f, o) := blockAt s ptn ptr
  let e := nearNat s (nearAddr 0 f (o + off)) 8
  if bitOf e 32 then (e % 2 ^ 32, s)
  else
    let p := newBlock ix s
    (p.1, nearAll f (o + off) (leBytes (p.1 + 2 ^ 32) 8) p.2)

/-- The first 16 bytes of a leaf entry. -/
def leafHead (frame fmt half sframe sslot : Nat) : List Byte :=
  leBytes (frame % 2 ^ 28 + 2 ^ 28 + fmt * 2 ^ 29 + half * 2 ^ 30) 4 ++ leBytes 0 4 ++ leBytes sframe 4 ++ leBytes sslot 4

/-- The page that holds the next MXFP4 page's elements: a new one for every second of them (R297). -/
def dataPage (ix : Nat) (e : Entry) (s : State) : Nat × State :=
  if e.mxn % 2 = 0 then
    let k := takePages ix 1 s
    (k.1, modEntry ix (fun x => { x with mxf := x.mxf ++ [k.1] }) k.2)
  else (nth 0 e.mxf (e.mxn / 2), s)

/-- The page that holds its scales: a new one for every 32nd. -/
def scalePage (ix : Nat) (e : Entry) (s : State) : Nat × State :=
  if e.mxn % 32 = 0 then
    let k := takePages ix 1 s
    (k.1, modEntry ix (fun x => { x with sff := x.sff ++ [k.1] }) k.2)
  else (nth 0 e.sff (e.mxn / 32), s)

/-- A page frame for an entry in its format: frame, half, scale frame and scale slot. -/
def newPage (ix : Nat) (s : State) : (Nat × Nat × Nat × Nat) × State :=
  let e := entryOf s ix
  if e.kvfmt = 0 then
    let k := takePages ix 1 s
    ((k.1, 0, 0, 0), k.2)
  else
    let n := e.mxn
    let a := dataPage ix e s
    let c := scalePage ix e a.2
    ((a.1, n % 2, c.1, n % 32), modEntry ix (fun x => { x with mxn := x.mxn + 1 }) c.2)

/-- The root block of an entry's page table. -/
def ensureRoot (ix : Nat) (s : State) : State :=
  if (entryOf s ix).tblk = 0 then
    let (p, t) := newBlock ix s
    modEntry ix (fun x => { x with ptroot := p / 16 }) t
  else s

/-- Page `j` of a layer of an entry, taken from the reservation when it is first to be written (R294). -/
def ensurePage (ix layer j : Nat) (s : State) : State :=
  let s0 := ensureRoot ix s
  let (dir, s1) := ensureEntry ix ((entryOf s0 ix).ptroot * 16) (8 * (layer / 8)) s0
  let (leaf, s2) := ensureEntry ix dir (8 * (j / 8)) s1
  let (f, o) := blockAt s2 (entryOf s2 ix).ptn leaf
  let off := o + 64 * (layer % 8 * 8 + j % 8)
  if bitOf (nearNat s2 (nearAddr 0 f off) 4) 28 then s2
  else
    let (p, s3) := newPage ix s2
    nearAll f off (leafHead p.1 (entryOf s3 ix).kvfmt p.2.1 p.2.2.1 p.2.2.2) s3

/-- Pages of the slots from `lo` to below `hi` on a list of layers. -/
def ensureSlots (ix : Nat) (layers : List Nat) (lo hi : Nat) (s : State) : State :=
  layers.foldl (fun t l =>
    ((List.range (ceilDiv hi 256)).filter fun j => decide (lo / 256 ≤ j)).foldl (fun u j => ensurePage ix l j u) t) s

/-- Layers of a bundle's page tables. -/
def mainLayerList (b : Bundle) : List Nat := List.range (mainLayers b)
def sketchLayerList (b : Bundle) : List Nat := if b.sketch then (List.range 8).map (120 + ·) else []

/-! ## Masks written by the scheduler core (R289, R290) -/

/-- Writes a mask area into the mask pages of an entry, every die alike; pages are taken as it needs them. -/
def writeMask (ix : Nat) (area : List Byte) (s : State) : State :=
  let n := ceilDiv area.length 65536
  let e := entryOf s ix
  let s1 := if e.mpages.length < n then
      let (k, t) := takePages ix n s
      modEntry ix (fun x => { x with mpages := (List.range n).map (k + ·), mroot := k }) t
    else s
  let e1 := entryOf s1 ix
  (e1.mpages.zipIdx).foldl (fun t p => match frameOf t e1.ptn p.1 with
    | some f => nearAll f 0 ((area.drop (65536 * p.2)).take 65536) t
    | none => t) s1

/-- The header of a mask area. -/
def maskHead (nrow nblk base bmoff : Nat) : List Byte := padTo 64 (leBytes (nrow + nblk * 1024) 4 ++ leBytes base 4 ++ leBytes bmoff 4)

/-- The part of a host's mask area for a chunk of `n` rows from row `r0`: its rows move up, its bitmaps stay where they are. -/
def chunkMask (area : List Byte) (r0 n : Nat) : List Byte :=
  let w := leNat (area.take 4)
  let head := leBytes (n + w / 1024 * 1024) 4 ++ (area.drop 4).take 60
  head ++ (area.drop (64 + 256 * r0)).take (256 * n) ++ area.drop (64 + 256 * n)

/-- Ancestors of a node, itself included. -/
def ancestors (parent : List Nat) (p : Nat) : Nat → List Nat
  | 0 => [p]
  | n + 1 => if p = 0 then [0] else p :: ancestors parent (nth 0 parent p) n

/-- One bitmap block of a tree pass: slots before the pass, and the slots of a node's ancestors. -/
def treeBlock (ctx : Nat) (anc : List Nat) (j : Nat) : List Byte :=
  (List.range 32).map fun k => BitVec.ofNat 8 (maskOf 8 fun b =>
    let slot := 256 * j + 8 * k + b
    decide (slot < ctx) || anc.any fun a => ctx + a == slot)

/-- The mask area of a tree pass (R290, R314): every block from the context's last on is coded by a bitmap. -/
def treeMask (ctx w : Nat) (parent : List Nat) : List Byte :=
  let base := ctx / 256
  let n := (ctx + w - 1) / 256 - base + 1
  let row (r : Nat) : List Byte := padTo 256 (padTo 128 ((List.range 128).map fun x => BitVec.ofNat 8
    ((List.range 4).foldl (fun a y => a + (if 4 * x + y < n then 2 * 4 ^ y else 0)) 0)) ++ leBytes (r * n) 4)
  maskHead w n base (2 + 8 * w) ++ (List.range w).flatMap row
    ++ (List.range w).flatMap fun r => (List.range n).flatMap fun b => treeBlock ctx (ancestors parent r 8) (base + b)

/-! ## Pages to and from the far tier (R296) -/

/-- The bytes of a page over the eight dies: FILL apart, its scales and its head slices' rows. -/
def pageImage (s : State) (ptn root layer j : Nat) : List Byte :=
  (List.range 8).flatMap fun n => match walkPage s n ptn root layer j with
    | .at p => rdBytes s.kv.near (p.addr + 16) 32 ++
        (List.range 8).flatMap fun u => [0, 1].flatMap fun k => (List.range 256).flatMap fun t =>
          rdBytes s.kv.near (nearAddr n p.frame (elemOff p u k t 0)) (if p.mx then 64 else 128)
            ++ (if p.mx then rdBytes s.kv.near (mxScaleAddr n p u k t 0) 4 else [])
    | .fault _ => []

/-- A page image written back into a page. -/
def putImage (ptn root layer j fill : Nat) (bs : List Byte) (s : State) : State :=
  (List.range 8).foldl (fun t n => match walkPage t n ptn root layer j with
    | .at p =>
      let w := if p.mx then 68 else 128
      let d := bs.drop (n * (32 + 4096 * w))
      let m0 := wrBytes (wrBytes t.kv.near (p.addr + 16) (d.take 32)) (p.addr + 4) (leBytes fill 4)
      let m := (List.range 8).foldl (fun m u => [0, 1].foldl (fun m k => (List.range 256).foldl (fun m q =>
        let r := (d.drop (32 + ((u * 2 + k) * 256 + q) * w)).take w
        let m1 := wrBytes m (nearAddr n p.frame (elemOff p u k q 0)) (if p.mx then r.take 64 else r)
        if p.mx then wrBytes m1 (mxScaleAddr n p u k q 0) (r.drop 64) else m1) m) m) m0
      { t with kv := { t.kv with near := m } }
    | .fault _ => t) s

/-- The pages of an entry that hold committed slots, by layer and page. -/
def keptPages (b : Bundle) (e : Entry) : List (Nat × Nat) :=
  (mainLayerList b ++ sketchLayerList b).flatMap fun l => (List.range (ceilDiv e.kv 256)).map fun j => (l, j)

/-- Everything the far tier takes of an entry: layer, page, FILL, bytes. -/
def farCopy (s : State) (ix : Nat) : List (Nat × Nat × Nat × List Byte) :=
  let e := entryOf s ix
  match (cnvOf s e.canvas).bundle with
  | none => []
  | some b => (keptPages b e).filterMap fun p => match walkPage s 0 e.ptn e.ptroot p.1 p.2 with
    | .at l => some (p.1, p.2, l.fill, pageImage s e.ptn e.ptroot p.1 p.2)
    | .fault _ => none

/-- Far-tier frames of an entry: its pages and table pages that hold committed slots, and its mask pages (R296). -/
def farFrames (s : State) (ix : Nat) : Nat :=
  let e := entryOf s ix
  match (cnvOf s e.canvas).bundle with
  | none => e.pages.length
  | some b => if e.kv = 0 then 0 else kvFrames b e.kv e.kv e.kvfmt + e.mpages.length

/-- An entry's pages return to newly allocated frames, its table pointers written anew (R296). -/
def farReturn (ix : Nat) (s : State) : State :=
  let ps := (entryOf s ix).farPages
  let s1 := ps.foldl (fun t p =>
    let t1 := ensurePage ix p.1 p.2.1 t
    let e := entryOf t1 ix
    putImage e.ptn e.ptroot p.1 p.2.1 p.2.2.1 p.2.2.2 t1) s
  modEntry ix (fun x => { x with farPages := [], far := 0 }) s1

/-! ## Completions (R356, R384, R390) -/

/-- The completion of a request: an entry of its completion queue, and a message to its owning session. -/
def sendCompletion (ix : Nat) (s : State) : State :=
  let e := entryOf s ix
  let st := e.fin.getD 0
  let h := entryHandle ix e
  let c : CqEnt := { handle := h, status := st, count := e.delivered, lastIx := e.toks.length - 1, ses := e.ses }
  let s1 := modPtn e.ptn (fun p => { p with cqs := tmod [] p.cqs e.cq (· ++ [c]) }) s
  let s2 := modEntry ix (fun x => { x with finPend := false }) s1
  post e.ses { ty := 0x81, queue := e.cq, tag := 0, handle := h, status := st, arg := 0,
               body := leBytes e.delivered 4 ++ leBytes c.lastIx 4, evN := 0, cqe := some (e.ptn * 4 + e.cq, h) } s2

/-- Commands that wait on an entry are answered before it ends: the one that waits for its canvas with `status`, those that wait for an export
with `after` (log entry 101). -/
def answerWaiting (ix status after : Nat) (s : State) : State :=
  let e := entryOf s ix
  if e.waitHdr.isNone && e.exWait.isEmpty then s
  else
    let s1 := modEntry ix (fun x => { x with waitHdr := none, saved := none, exWait := [] }) s
    let s2 := match e.waitHdr with | some h => replyLate h status 0 (entryHandle ix e) [] s1 | none => s1
    e.exWait.foldl (fun t w => replyLate w.1 after 0 w.1.handle [] t) s2

/-- A request completes; its completion waits for its last TOKENS message (R390). A second completion of one request has no effect. -/
def complete (ix status : Nat) (s : State) : State :=
  if (entryOf s ix).fin.isSome then s
  else
    let s1 := modEntry ix (fun x => { x with fin := some status, finPend := true }) (answerWaiting ix 0 8 s)
    if (entryOf s ix).out.isEmpty then sendCompletion ix s1 else s1

/-- The tokens released and not yet sent, as the body of a TOKENS message (R394). -/
def tokensBody (e : Entry) : List Byte :=
  leBytes e.firstOut 4 ++ leBytes e.out.length 2 ++ leBytes 0 2 ++ leBytes (e.outStep % 2 ^ 24) 4 ++ leBytes 0 4
    ++ e.out.flatMap fun t => leBytes (t % 2 ^ 18) 4

/-- A TOKENS message of an entry, and the completion that waited for it. -/
def sendTokens (ix : Nat) (s : State) : State :=
  let e := entryOf s ix
  if e.out.isEmpty then s
  else
    let s1 := post e.ses { ty := 0x82, queue := e.cq, tag := 0, handle := entryHandle ix e, status := 0, arg := 0,
                           body := tokensBody e, evN := 0, cqe := none } s
    let s2 := modEntry ix (fun x => { x with out := [], sentUs := s.clk.us, sentAny := true }) s1
    if e.finPend then sendCompletion ix s2 else s2

/-! ## Retirement (R323, R325, R336) -/

/-- The entry becomes free; it keeps its generation until it is reused (R323). -/
def freeEntry (ix : Nat) (s : State) : State :=
  let s1 := modEntry ix (fun e => { e with st := .free, resv := 0, far := 0, farPages := [], poison := [], pendCancel := none,
                                           pendPause := false, pendResume := false, pendRebind := false, pendDiscard := false,
                                           killAcct := false, next := [] }) s
  { s1 with req := { s1.req with retired := s1.req.retired ++ [ix] }
            head := { s1.head with presence := tput [] s1.head.presence ix [] } }

/-- Frames of the far tier set free, to be scrubbed. -/
def freeFar (ix mark : Nat) (s : State) : State :=
  let e := entryOf s ix
  if e.far = 0 then s
  else { (modEntry ix (fun x => { x with far := 0, farPages := [] }) s) with
         kv := { s.kv with scrubFar := s.kv.scrubFar ++ List.replicate e.far (e.ptn, mark) } }

/-- An entry is retired: its pages are freed; on a sealed partition it is held until its frames have been scrubbed (R295, R336). -/
def retire (ix : Nat) (s : State) : State :=
  let e := entryOf s ix
  let s0 := answerWaiting ix 8 8 s
  if e.st = .free ∨ e.st = .retiring then s
  else if (ptnOf s e.ptn).sealed ∧ (e.pages ≠ [] ∨ e.far ≠ 0) then
    modEntry ix (fun x => { x with st := .retiring, killAcct := false }) (freePages ix (ix + 1) (freeFar ix (ix + 1) s0))
  else freeEntry ix (freePages ix 0 (freeFar ix 0 s0))

/-- Retired with a completion status. -/
def retireWith (ix status : Nat) (s : State) : State := retire ix (complete ix status s)

/-- The lane of an entry in the step in flight. -/
def laneOfEntry (s : State) (ix : Nat) : Option Nat :=
  match s.sch.cur with
  | some c => (c.lanes.find? (·.index == ix)).map (·.lane)
  | none => none

/-- On a sealed partition a request ends at once (R336): its lane is killed and withheld, its completion released; its frames are
scrubbed once the step has ended. -/
def killNow (ix status : Nat) (s : State) : State :=
  match laneOfEntry s ix with
  | some l => modEntry ix (fun e => { e with killAcct := true, pendCancel := none }) (complete ix status (killLane l s))
  | none => retireWith ix status s

/-- A request that runs, waits or moves: neither free, kept, nor ended. -/
def running (e : Entry) : Bool :=
  e.st != .free && e.st != .idle && e.st != .paused && e.st != .retiring && !e.killAcct

/-- An event that ends a running request (R326): at once on a sealed partition, else at the next step boundary; the first such event
decides the status. -/
def endRequest (ix status : Nat) (s : State) : State :=
  let e := entryOf s ix
  if !running e then s
  else if (ptnOf s e.ptn).sealed then killNow ix status s
  else modEntry ix (fun x => { x with pendCancel := some (x.pendCancel.getD status) }) s

/-- EXPIRED raised for a conversation that is lost (R343, R346, R298). -/
def raiseExpired (ix : Nat) (s : State) : State :=
  let e := entryOf s ix
  raise e.ptn { ty := 1, flags := 0, unit := entryHandle ix e, level := 0, args := [] } s

/-- A kept conversation is discarded; one paused before its completion is also retired with EXPIRED (R298, R346), as commands that wait for it are
answered. -/
def expire (ix : Nat) (s : State) : State :=
  let s1 := raiseExpired ix (answerWaiting ix 11 11 s)
  if (entryOf s ix).fin.isNone then retireWith ix 11 s1 else retire ix s1

/-- The entries of a partition, or of a canvas, that pass a test. -/
def entriesWhere (s : State) (p : Entry → Bool) : List Nat := (s.req.entries.filter fun e => p e.2).map (·.1)

/-- A deadline has passed (R337, R338). -/
def deadlinePassed (s : State) (e : Entry) : Bool := e.deadline != 0 && decide (e.admUs + e.deadline ≤ s.clk.us) && e.fin.isNone

/-! ## Tints (R339, R340) -/

def tintSlot (s : State) (n k : Nat) : TintSlot := tget TintSlot.init (ptnOf s n).tints k

/-- The current version of a slot; 0 when it is empty. -/
def tintCurrent (s : State) (n k : Nat) : Nat :=
  match (tintSlot s n k).live.find? (·.current) with
  | some v => v.ver
  | none => 0

/-- A version to which some entry is bound. -/
def tintBound (s : State) (n k v : Nat) : Bool :=
  s.req.entries.any fun e => e.2.st != .free && e.2.ptn == n && e.2.tbound && e.2.tint == k && e.2.tver == v

/-- Old versions to which no entry is bound any more, and versions of a deleted tint, are freed at the boundary, each with a TINT event
(R340, R388). -/
def freeTints (n k : Nat) (s : State) : State :=
  let sl := tintSlot s n k
  let gone := sl.live.filter fun v => v.gone || (!v.current && !tintBound s n k v.ver)
  if gone.isEmpty then s
  else gone.foldl (fun t v => raise n { ty := 6, flags := 0, unit := 0, level := 0, args := [k, v.ver] } t)
    (modPtn n (fun p => { p with tints := tput TintSlot.init p.tints k { sl with live := sl.live.filter fun v => !gone.contains v } }) s)

/-! ## The far tier's free space (R566) -/

/-- Bytes of a bundle's plane images with their scales, coefficients and CRCs (R99). -/
def weightBytes (b : Bundle) : Nat := b.images.length * 2181

/-- Bytes of the far tier that bundles take: master copies and residual tables of resident canvases, staged bundles at their length. -/
def farOfBundles (s : State) : Nat :=
  (List.range 4).foldl (fun a c =>
    let v := cnvOf s c
    a + (match v.bundle with | some b => weightBytes b + b.images.length * 4608 | none => 0)
      + (match v.staged with | some _ => if v.loadPh ≤ 1 then v.stagedLen else 0 | none => 0)) 0

/-- Bytes of the far tier in use: what bundles take, the request region, moved pages and retired frames. -/
def farBytes (s : State) : Nat :=
  farOfBundles s + Config.regionBytes.val + 524288 * (allPtns.foldl (fun a n => a + farUsed s n) 0 + s.kv.retiredFar)

/-- `n` further bytes fit the far tier. -/
def farFits (s : State) (n : Nat) : Bool := decide (farBytes s + n ≤ farTierBytes)

/-- Pages that accepted pauses have still to move: those of entries that are being paused or will be at the next step boundary, `ix` apart. -/
def farPromised (s : State) (p : Entry → Bool) (ix : Nat) : Nat :=
  ((heldEntries s).filter fun e => e.1 != ix && p e.2 && e.2.st != .paused && (e.2.pendPause || e.2.st == .pausing)).foldl
    (fun a e => a + farFrames s e.1) 0

/-- `n` bytes fit beside what the far tier holds and what accepted pauses will bring; `ix` is the entry they belong to. -/
def farTakes (s : State) (ix n : Nat) : Bool := farFits s (524288 * farPromised s (fun _ => true) ix + n)

/-- `k` frames fit a partition's quota and the free far tier, with what accepted pauses will bring (R346, R566). -/
def quotaTakes (s : State) (n ix k : Nat) : Bool :=
  decide (farUsed s n + farPromised s (fun e => e.ptn == n) ix + k ≤ (ptnOf s n).farQ) && farTakes s ix (524288 * k)

/-- The far tier takes an entry's pages. -/
def pauseFits (s : State) (ix : Nat) : Bool := quotaTakes s (entryOf s ix).ptn ix (farFrames s ix)

/-- Idle threshold of an entry's session in seconds, its partition's default when the session is gone (R369). -/
def idleLimit (s : State) (e : Entry) : Nat := if (sesOf s e.ses).idle = 0 then (ptnOf s e.ptn).idleThr else (sesOf s e.ses).idle

/-- A conversation has reached its idle threshold (R345). -/
def idleDue (s : State) (e : Entry) : Bool := e.st == .idle && decide (e.lastAct + 1000000 * idleLimit s e ≤ s.clk.us)

end Sys2Proof.Machine
end

