-- ==== Sys2Proof/Machine/Replay.lean ====
section
/-! DEFINITION. Failed checks: replay entries and their slots (R65, R66, R146, R245 to R253, R397 to R405), and the close
of a flag segment (R244). -/

namespace Sys2Proof.Machine

/-! ## What failed in a stroke -/

/-- Arrays of a group that a stroke names. -/
def groupArrays (k : Stroke) (g : Nat) : List Nat :=
  (maskBits k.amask 16).filter fun a => a / groupSize k.gsz == g

/-- Engine of a stroke record. -/
def flEngine (x : StrokeFlags) : Nat :=
  match x.stroke.arrays with
  | a :: _ => engineOf a.arr
  | [] => sidCore x.sid

/-- The failed arrays of a group of a stroke: saturated, overflowed, with a failed pair of swatch comparisons, or all of them after a CSUM
difference. -/
def failedArrays (x : StrokeFlags) (g : Nat) : List Nat :=
  (groupArrays x.stroke g).filter fun a =>
    x.csum != 0 || x.sat.any (fun e => arrayNo e.1 == a) || x.ovf.any (fun b => arrayNo b == a) || (pairArrays x).contains a

/-- Groups of a failed stroke that hold a failed array, with the place of each among the stroke's tiles. -/
def failedGroups (x : StrokeFlags) : List (Nat × Nat) :=
  ((groupsOf x.stroke.gsz x.stroke.amask).zipIdx).filter fun g => !(failedArrays x g.1).isEmpty

/-- Faults that a failed group puts under suspicion (R397): kind, unit, level, DETAIL. A CSUM difference is the engine's, named once. -/
def suspects (x : StrokeFlags) (g : Nat) : List (Nat × Nat × Nat × Nat) :=
  ((pairArrays x).filter fun a => a / groupSize x.stroke.gsz == g).map (fun a => (1, mkArray (flEngine x) a, 4, flagByte x % 64))
    ++ (if x.csum = 0 ∨ (failedGroups x).head?.map (·.1) ≠ some g then [] else [(3, flEngine x, 3, x.csum)])

/-- A fault recurs when the next stroke of the same group fails in the same way (R405). -/
def recurs (x : StrokeFlags) (p : Nat × Nat × Nat × Nat) : Bool :=
  if p.1 = 1 then (pairArrays x).contains (arrayNo p.2.1) else x.csum != 0

/-- Columns of a replay's arrays that are finished by D16: the saturated ones, or every column of an array whose pair or tree
failed (R65, R400). -/
def reloadCols (x : StrokeFlags) (g : Nat) : List (Nat × List Nat) :=
  (groupArrays x.stroke g).filterMap fun a =>
    let arr := mkArray (flEngine x) a
    if x.csum ≠ 0 ∨ x.ovf.contains arr ∨ (pairArrays x).contains a then some (arr, List.range 64)
    else (x.sat.find? fun e => e.1 == arr)

/-! ## Entries (R248 to R252) -/

/-- The failed group of a stroke as a replay entry: the group stroked again (R248, R249). -/
def mkEntry (s : State) (x : StrokeFlags) (g : Nat × Nat) : Replay :=
  let k := x.stroke
  let mine (l : List Nat) : List Nat := (l.map arrayNo).filter fun a => a / groupSize k.gsz == g.1
  { engine := flEngine x, f := k.f, seg := k.seg, lane := k.lane, desc := k.desc, posIx := k.posIx, ibs := k.ibs, acn := k.acn, grp := g.1
    ntr := k.ntr + g.2, win := k.win, ord := k.ord, kind := 0, four := mine (x.sat.map (·.1)), a8 := mine x.ovf
    glr := (seqOf s x.sid).glrAt.contains (glrKey k.seg k.ord), issued := false, kept := none, pend := suspects x g.1 }

/-- Two entries stand for the same group of the same stroke. -/
def sameGroup (r q : Replay) : Bool := entryFor r q.engine q.seg q.ord q.lane q.posIx && r.grp == q.grp

/-- An entry taken into a list in which each group stands once: one repeat covers all that failed in it, in both digits of a pair (R146, R397). -/
def mergeEntry (l : List Replay) (r : Replay) : List Replay :=
  if l.any (sameGroup r) then
    l.map fun q => if sameGroup r q then
      { q with four := (q.four ++ r.four).dedup, a8 := (q.a8 ++ r.a8).dedup, pend := (q.pend ++ r.pend).dedup } else q
  else l ++ [r]

/-- The place of an entry among those of its window: the order of the strokes they replace (R250). -/
def entryRank (r : Replay) : Nat := (((r.ord * 8 + r.posIx) * 16 + engineNo r.engine) * 4 + r.grp) * 8 + r.kind

def insertEntry (r : Replay) : List Replay → List Replay
  | [] => [r]
  | q :: qs => if entryRank r ≤ entryRank q then r :: q :: qs else q :: insertEntry r qs

/-- The failed groups of first strokes, each once, in the order of the strokes. -/
def groupFails (s : State) (xs : List StrokeFlags) : List Replay :=
  ((xs.flatMap fun x => (failedGroups x).map (mkEntry s x)).foldl mergeEntry []).foldr insertEntry []

/-- Every failed array of a group, over the strokes that make it. -/
def failedOf (xs : List StrokeFlags) (r : Replay) : List Nat :=
  ((xs.filter fun x => entryFor r (flEngine x) x.stroke.seg x.stroke.ord x.stroke.lane x.stroke.posIx).flatMap
    fun x => failedArrays x r.grp).dedup

/-- The entries of a group's repeat: the group again, or the A8 digit strokes of R146 in consecutive slots, whose second classes the faults. -/
def entriesOf (r : Replay) : List Replay :=
  if r.a8.isEmpty then [r] else [{ r with kind := 1, pend := [] }, { r with kind := 2 }]

/-- Slots of window `win` of a segment of a sequencer, in table order; none where no such window stands (R246, R252). -/
def windowSlots (s : State) (sid seg win : Nat) : Nat :=
  match variantOf s (seqOf s sid) with
  | some v =>
    let ws := (v.windows.filter fun w => w.1 == tableSid s sid * 128 + seg).map (·.2)
    ((ws.find? fun w => (ws.filter fun u => decide (u.1 < w.1)).length == win).map (·.2)).getD 0
  | none => 0

/-- The step in flight runs its A8 variant again under R67. -/
def inReexec (s : State) : Bool := match s.sch.cur with | some c => c.reexec | none => false

/-- Tiles a set of entries finishes in D16, counted on their canvas (R561). -/
def countD16 (canvas n : Nat) (s : State) : State := modCnv canvas (fun c => { c with d16Tiles := satAdd 32 c.d16Tiles n }) s

/-- D16 in place of failed groups, whose failed arrays `four` names: an event (trigger D16), the count, the entries, and the suspects' faults, which
have no replay to wait for (R252, R405). -/
def finishInPlace (sid : Nat) (rs : List Replay) (s : State) : State :=
  rs.foldl (fun t r =>
    let t1 := r.pend.foldl (fun u p => recordFault p.2.1 p.2.2.1 p.1 p.2.2.2 false u) t
    countD16 (seqOf t sid).canvas 1
      (modSeq sid (fun q => { q with replays := q.replays ++ [{ r with kind := 4, pend := [] }] }) (fire 9 r.engine 3 0 0 t1))) s

/-- The outcome of a replay stroke classes the faults that waited for it (R405, R413). -/
def classReplay (x : StrokeFlags) (s : State) : State :=
  x.stroke.pend.foldl (fun t p => recordFault p.2.1 p.2.2.1 p.1 p.2.2.2 (recurs x p) t) s

/-- The columns of failed replay strokes are left to D16 in the tiles that the replay store keeps (R65, R249). -/
def markKept (again : List StrokeFlags) (r : Replay) : Replay :=
  match r.kept with
  | none => r
  | some (t, tin) =>
    let cols := (again.filter fun x => entryFor r (flEngine x) x.stroke.seg x.stroke.ord x.stroke.lane x.stroke.posIx).flatMap
      fun x => reloadCols x r.grp
    { r with kept := some ({ t with d16 := t.d16 ++ cols }, tin) }

/-- Columns of failed replays finished in D16 for saturation alone, with their segment (R65, R146). -/
def satReloads (x : StrokeFlags) : List (Nat × Nat) :=
  x.sat.flatMap fun e => e.2.map fun j => (x.stroke.seg, (e.1 + x.stroke.plane * 16) * 64 + j)

/-- The failed replay strokes of a flag segment: their kept tiles, the tiles D16 finishes, the columns that R146 counts. -/
def failReplays (sid : Nat) (again : List StrokeFlags) (s : State) : State :=
  let s1 := modSeq sid (fun q => { q with replays := q.replays.map (markKept again) }) s
  countD16 (seqOf s sid).canvas (again.flatMap failedGroups).length
    { s1 with arr := { s1.arr with d16Cols := (s1.arr.d16Cols ++ again.flatMap satReloads).dedup } }

/-- Slots of an entry's window that entries of a sequencer take already. -/
def slotsTaken (rs : List Replay) (r : Replay) : Nat := (rs.filter fun q => q.seg == r.seg && q.win == r.win && q.kind != 4).length

/-- Entries that find slots in their windows, and the groups that find none, taken in order. -/
def fitEntries (s : State) (sid : Nat) : List Replay → List Replay → List Replay → List Replay × List Replay
  | [], got, left => (got, left)
  | r :: rs, got, left =>
    if slotsTaken ((seqOf s sid).replays ++ got) r + (entriesOf r).length ≤ windowSlots s sid r.seg r.win
    then fitEntries s sid rs (got ++ entriesOf r) left else fitEntries s sid rs got (left ++ [r])

/-- Builds the replay entries of a sequencer's failed strokes of one segment (R245, R249, R253). A first failure takes slots of its window; past
them the step is executed again with its A8 variant, once, unless its REWIND is sent already; after that the excess is D16 in place, as is what no
window covers and what overflows at A8 in a step that runs its A8 variant (R146, R252). -/
def buildEntries (sid seg : Nat) (xs : List StrokeFlags) (s : State) : State :=
  let bad := xs.filter fun x => flagByte x != 0
  let first := bad.filter fun x => !x.stroke.replay
  let s1 := failReplays sid (bad.filter (·.stroke.replay)) ((xs.filter (·.stroke.replay)).foldl (fun t x => classReplay x t) s)
  let place (r : Replay) : Replay := { r with four := (failedOf first r).filter fun a => r.kind == 0 || r.a8.contains a }
  let gs := groupFails s1 first
  let a8 := (seqOf s1 sid).var == 1
  let late := if a8 then (gs.filter fun r => !r.a8.isEmpty).map fun r => place { r with kind := 4, pend := [] } else []
  let again := if a8 then (gs.filter fun r => r.a8.isEmpty || decide ((failedOf first r).length > r.a8.length)).map fun r => { r with a8 := [] }
    else gs
  let uncovered := again.filter fun r => windowSlots s1 sid r.seg r.win == 0
  let s2 := finishInPlace sid (late ++ uncovered.map place) s1
  let (got, left) := fitEntries s2 sid (again.filter fun r => windowSlots s1 sid r.seg r.win != 0) [] []
  let s3 := modSeq sid (fun q => { q with replays := q.replays ++ got }) s2
  if left.isEmpty then s3
  else if inReexec s3 then fire 5 0 0 1 seg (finishInPlace sid (left.map place) s3)
  else modCur (fun c => if c.rewind.isNone then { c with redo := true } else c) s3

/-! ## Flag segments (R243 to R245) -/

/-- A flag segment's strokes have all ended and reported, and its checks have formed their flags. -/
def segKnown (s : State) (sid flagIx : Nat) : Bool :=
  !(s.arr.strokes.any fun e => e.2.any fun k => k.sid == sid && k.flagIx == flagIx)
    && !(s.arr.waiting.any fun e => e.2.any fun x => x.sid == sid && x.flagIx == flagIx)
    && !((seqOf s sid).ops.any fun e => e.1 == flagIx && opClass e.2 == 8)

/-- Route entries that a segment's strokes feed: those that the MVFs of its bundles name (R208, R226, R245). -/
def segRoutes (t : SeqTable) (seg : Nat) : List Nat :=
  (((t.bundles.zip t.segs).filter fun b => b.2 == seg && fld b.1 192 4 == 2).map fun b => fld b.1 212 10).dedup

/-- RETRACT along every route that the failed segment feeds (R233, R245). -/
def sendRetract (sid seg flags : Nat) (s : State) : State :=
  match tableOf s sid with
  | some t => (((segRoutes t seg).filterMap fun n => (t.routes[n]?).bind fun r => seqOfTable s r.1).dedup).foldl
      (fun u d => sendToken sid 5 (flags % 256 + seg * 256) d u) s
  | none => s

/-- The tiles whose envelope failed, reported along with the segment (R401). -/
def reportEnv (sid : Nat) (tiles : List (Nat × Nat)) (s : State) : State :=
  modCur (fun c => { c with envFail := c.envFail ++ tiles.map fun t => (sid, t.1, t.2) }) s

/-- A closed flag segment whose flags are all known: SEGMENT goes to the scheduler core; a failure also sends RETRACT and
builds replay entries. -/
def closeFlags (sid flagIx : Nat) (s : State) : State :=
  let q := seqOf s sid
  match q.segs.find? (·.1 == flagIx) with
  | none => s
  | some (_, seg, chk) =>
    if !segKnown s sid flagIx then s
    else
      let xs := (q.failed.filter (·.1 == flagIx)).map (·.2)
      let fl := xs.foldl (fun a x => a ||| flagByte x) chk
      let s1 := modSeq sid (fun e =>
        { e with segs := e.segs.filter (·.1 != flagIx), failed := e.failed.filter (·.1 != flagIx), envTile := [] }) s
      let s2 := sendToken sid 4 (fl % 256 + seg * 256 + flagIx % 4096 * 32768) schedSid s1
      let s3 := if xs.isEmpty then s2 else buildEntries sid seg xs s2
      if fl = 0 then s3
      else sendRetract sid seg fl (if chk = 0 then s3 else reportEnv sid q.envTile s3)

/-- FLAG_SEGMENT_CLOSE. -/
def execFlagSegmentClose (sid flagIx : Nat) (s : State) : Out := okIf (isSid sid) (closeFlags sid flagIx s)

/-! ## Replay slots (R247, R250) -/

/-- A checkpoint value of a slot's row in the form in which the checkpoint holds it. -/
def ckptRowF32 (s : State) (core slot r : Nat) : Word :=
  match provOf s core slot with
  | (0, _, _, _) => bfToF32 (ckptRow s core slot r)
  | (a + 1, _, _, b) => ckptF32 s a (64 * b + r)

/-- A block's digits at A8 in BLOCK mode from the checkpoint (R146): elements, exponent; high digits or low. -/
def a8Digits (s : State) (core slot : Nat) (high : Bool) : List Int × Nat :=
  let v := (List.range 64).map fun r =>
    if isChan s core slot r then Fv.fin false dyZero else decF32 (ckptRowF32 s core slot r)
  let e := blockExp 119 (blockMax (v.filter isFin))
  let (x, eb, _) := convBlock 119 e v
  if 250 < e ∨ eb = 255 then (List.replicate 64 0, 255)
  else if high then (x.map digitHi, eb + 4) else (x.map digitLo, eb)

/-- One array of a replay stroke, from a block given as elements and exponent. -/
def detectBlock (s : State) (array plane slot band : Nat) (b : List Int × Nat) : ArrStroke :=
  let pk := planeKey array plane
  let x := toPhys (rowPerm s pk) b.1
  let c := coeffOf (tget 0 s.arr.coeff pk)
  let ovf := b.2 == 255
  let m := if ovf then Mode.idle else bandMode c band x
  { arr := array, slot := slot, idle := m == .idle, ovf := ovf, eps := (b.2 : Int),
    x := if m == .idle then List.replicate 64 0 else x, bands := modeBands c x m }

/-- Band field of an array in a replay: FOUR for the saturated ones, the original field for the others (R65). -/
def replayBand (r : Replay) (a : Nat) : Nat := if r.four.contains a then 4 else r.f.band

/-- One array of a replay entry's stroke; `low`: of the low digits. -/
def replayArray (s : State) (core : Nat) (r : Replay) (low : Bool) (a : Nat) : ArrStroke :=
  let arr := mkArray r.engine a
  let slot := slotOf r.f r.ibs (engineNo r.engine) a r.posIx
  if r.a8.contains a ∧ r.kind ≠ 0 then detectBlock s arr r.f.plane slot r.f.band (a8Digits s core slot (!low))
  else detect s core arr r.f.plane (slot + b2n low * b2n (r.f.ifmt == 3)) (replayBand r a)

/-- One stroke of a replay entry, of the arrays it names; it adds to the register that its original bundle cleared (R250). -/
def replayStroke (s : State) (i : Iss) (r : Replay) (low : Bool) (as : List Nat) : Stroke :=
  { sid := i.sid, seg := r.seg, flagIx := (seqOf s i.sid).flagIx, plane := r.f.plane, gsz := r.f.gsz
    amask := as.foldl (fun m a => m + 2 ^ a) 0, ntr := r.ntr, acn := 255, low := low, lane := r.lane, desc := r.desc, posIx := r.posIx
    ibs := r.ibs, f := r.f, win := r.win, ord := r.ord, replay := true, pend := r.pend
    arrays := as.map fun a => replayArray s (sidCore i.sid) r low a }

/-- The strokes of a replay entry (R146, R249): the group with both its digits; the high digits of every array of the group; the low digits of the
overflowed ones, and of the others where the original stroke took them too. -/
def replayStrokes (s : State) (i : Iss) (r : Replay) : List Stroke :=
  let all := (maskBits r.f.amask 16).filter fun a => a / groupSize r.f.gsz == r.grp
  if r.kind = 0 then
    (if r.f.ifmt = 3 then [{ replayStroke s i r false all with pend := [] }, replayStroke s i r true all] else [replayStroke s i r false all])
  else if r.kind = 1 then [replayStroke s i r false all]
  else [replayStroke s i r true (if r.f.ifmt = 3 then all else all.filter r.a8.contains)]

/-- A reload entry puts the tile that the replay store keeps back into its register without a stroke (R249, R251). -/
def reloadTile (r : Replay) (t : Tile) (tin : TileIn) (s : State) : State :=
  { s with core := { s.core with
      ntr := tput Tile.init s.core.ntr (ntrKey r.engine r.ntr) { t with ready := true }
      tin := tput TileIn.init s.core.tin (tileKey r.engine r.grp r.f.plane * 8 + r.posIx) tin } }

/-- An entry at its slot: its kept tile, or its strokes, with GLR PH 0 where the original bundle held it (R248). -/
def runEntry (i : Iss) (r : Replay) (s : State) : State :=
  match r.kept with
  | some (t, tin) => reloadTile r t tin s
  | none =>
    let ks := replayStrokes s i r
    let s1 := ks.foldl (fun t k => enqueueStroke r.engine k t) (openSeg i s)
    let s2 := if r.glr then ks.foldl glrStroke s1 else s1
    { s2 with free := s2.free + ckptFree }

/-- The entry that a slot of the open window takes: the first of the window that has not issued, while slots are left (R238, R247, R250). -/
def nextEntry (s : State) (i : Iss) : Option Replay :=
  let q := seqOf s i.sid
  let w := q.winNo - 1
  let mine := q.replays.filter fun r => r.seg == i.seg && r.win == w && r.kind != 4
  if !q.window || q.winSeg != i.seg || decide (windowSlots s i.sid i.seg w ≤ (mine.filter (·.issued)).length) then none
  else ((mine.filter fun r => !r.issued).foldr insertEntry []).head?

/-- A replay slot: the next entry of its window, or an empty bundle; an entry of a killed lane is empty (R219). -/
def replaySlotAct (i : Iss) (s : State) : State :=
  match nextEntry s i with
  | none => s
  | some r =>
    let taken (q : Replay) : Replay := if sameGroup r q && q.kind == r.kind then { q with issued := true } else q
    let s1 := modSeq i.sid (fun e => { e with replays := e.replays.map taken }) s
    if r.desc && (seqOf s i.sid).killed.contains r.lane then s1 else runEntry i r s1

end Sys2Proof.Machine
end

