-- ==== Sys2Proof/Machine/Queue.lean ====
section
/-! DEFINITION. What lets waiting instructions go on (R187, R189, R203): the bundles that a sequencer holds and the operations in its execution
queues, and FABRIC_DELIVERY, GCOL and the replay slot, whose effect can end such a wait. -/

namespace Sys2Proof.Machine

/-- The issue of a sequencer's instruction. -/
def slotIss : Instr → Iss
  | .nopa i | .strk i _ | .stkv i _ | .psel i _ _ _ | .aclr i _ _ | .acn i _ | .apro i _ _ _ _ | .awid i _ _ _ _ _ | .rsum i _ _ | .rmax i _
  | .rmin i _ | .rarg i _ | .rand i _ | .ror i _ | .rxor i _ | .rcnt i _ | .nopg i | .gcol i _ | .gout i _ | .gact i _ | .glr i _ | .gtnt i _
  | .enorm i _ _ _ | .eact i _ _ | .emul i _ _ | .eadd i _ _ | .erot i _ _ _ | .ecvt i _ | .nopm i | .mvb i _ _ _ _ _ _ | .mvf i _ _ _ _ _
  | .mvk i _ _ _ _ _ | .mck i _ _ _ _ | .twait i _ _ | .tsend i _ | .cred i _ _ _ | .chk i _ _ _ | .csum i _ _ | .flor i | .step i | .rplw i _
  | .replaySlot i | .score i _ _ _ _ _ _ | .snorm i _ _ _ | .smix i _ _ _ _ _ _ | .kvput i _ _ _ | .samp i _ _ | .skdr i _ _ _ _
  | .vrfy i _ _ _ => i
  | _ => default

/-- What an instruction does as its bundle issues: its effect, or its entry into the execution queue. -/
def slotRun : Instr → State → State
  | .strk i f => strkAct i f
  | .stkv i f => stkvAct i f
  | .psel i e a p => pselAct i e a p
  | .aclr i t c => aclrRun i t c
  | .acn i n => acnAct i n
  | .apro i e n t v => aproRun i e n t v
  | .awid i d sp a n f => awidRun i d sp a n f
  | .rsum i f q => redRun (.rsum i f q) i (rsumAct i f q)
  | .rmax i f => redRun (.rmax i f) i (rmaxAct i f)
  | .rmin i f => redRun (.rmin i f) i (rminAct i f)
  | .rarg i f => redRun (.rarg i f) i (rargAct i f)
  | .rand i f => redRun (.rand i f) i (randAct i f)
  | .ror i f => redRun (.ror i f) i (rorAct i f)
  | .rxor i f => redRun (.rxor i f) i (rxorAct i f)
  | .rcnt i f => redRun (.rcnt i f) i (rcntAct i f)
  | .gcol i f => gcolAct i f
  | .gout i f => glzRun (.gout i f) i (goutAct i f)
  | .gact i f => glzRun (.gact i f) i (gactAct i f)
  | .glr i f => glrRun i f
  | .gtnt i f => glzRun (.gtnt i f) i (gtntAct i f)
  | .enorm i f r l => elRun (.enorm i f r l) i (enormAct i f r l)
  | .eact i f n => elRun (.eact i f n) i (eactAct i f n)
  | .emul i f b => elRun (.emul i f b) i (emulAct i f b)
  | .eadd i f b => elRun (.eadd i f b) i (eaddAct i f b)
  | .erot i f d p => elRun (.erot i f d p) i (erotAct i f d p)
  | .ecvt i f => elRun (.ecvt i f) i (ecvtAct i f)
  | .mvb i sp dp sa da l ty => mvbAct i sp dp sa da l ty
  | .mvf i sp sa r l ty => mvfAct i sp sa r l ty
  | .mvk i sp sa la k v => mvkAct i sp sa la k v
  | .mck i sp sa l x => mckAct i sp sa l x
  | .twait i ch n => twaitAct i ch n
  | .tsend i ch => tsendOp i.sid ch
  | .cred i ch op n => credOp i.sid ch op n
  | .chk i t v e => chkAct i t v e
  | .csum i m n => csumRun i m n
  | .flor i => closeSeg i
  | .step i => stepOp i
  | .rplw i c => rplwAct i c
  | .replaySlot i => replaySlotAct i
  | .score i k l q b m n => scoreAct i k l q b m n
  | .snorm i b p n => snormAct i b p n
  | .smix i k l p o m n => smixAct i k l p o m n
  | .kvput i k l a => kvputAct i k l a
  | .samp i l p => sampAct i l p
  | .skdr i n t d c => skdrAct i n t d c
  | .vrfy i l d t => vrfyAct i l d t
  | _ => id

/-- The effect of an operation that waited in an execution queue, issued in flag segment `fx`. -/
def beginOp (fx : Nat) : Instr → State → State
  | .aclr i t c => aclrAct i t c
  | .apro i e n t v => aproAct i e n t v
  | .awid i d sp a n f => awidAct i d sp a n f
  | .rsum i f q => rsumAct i f q
  | .rmax i f => rmaxAct i f
  | .rmin i f => rminAct i f
  | .rarg i f => rargAct i f
  | .rand i f => randAct i f
  | .ror i f => rorAct i f
  | .rxor i f => rxorAct i f
  | .rcnt i f => rcntAct i f
  | .gout i f => goutAct i f
  | .gact i f => gactAct i f
  | .glr i f => glrAct i f
  | .gtnt i f => gtntAct i f
  | .enorm i f r l => enormAct i f r l
  | .eact i f n => eactAct i f n
  | .emul i f b => emulAct i f b
  | .eadd i f b => eaddAct i f b
  | .erot i f d p => erotAct i f d p
  | .ecvt i f => ecvtAct i f
  | .csum i m n => csumAct i m n fx
  | _ => id

/-- What an operation waits for is there (R203, R206, R211). -/
def opReady (s : State) : Instr → Bool
  | .apro i e n _ v => aproReady s i e n v
  | .awid i _ sp a n _ => awidReady s i sp a n
  | .csum i m n => csumReady s i m n
  | _ => true

/-- An operation of a queue can begin: none of its queues holds an earlier one, and it waits for nothing. -/
def canBegin (s : State) (ops : List (Nat × Instr)) (k : Nat) (c : Instr) : Bool :=
  (ops.take k).all (fun e => opClass e.2 &&& opClass c == 0) && opReady s c

/-- The first operation of a sequencer's queues that can begin, with its place. -/
def nextOp (s : State) (sid : Nat) : Option ((Nat × Instr) × Nat) :=
  let ops := (seqOf s sid).ops
  ops.zipIdx.find? fun e => canBegin s ops e.2 e.1.2

/-- A sequencer goes on as far as it can, for `n` operations or instructions: operations of its queues begin, then the instructions of the next
bundle it holds issue. -/
def settleN (sid : Nat) : Nat → State → State
  | 0, s => s
  | n + 1, s =>
    match nextOp s sid with
    | some (e, k) => settleN sid n (beginOp e.1 e.2 (modSeq sid (fun q => { q with ops := q.ops.eraseIdx k }) s))
    | none =>
      match (seqOf s sid).held with
      | [] => s
      | c :: cs =>
        let s1 := modSeq sid (fun q => { q with held := [] }) s
        if issuing s1 (slotIss c) then
          settleN sid n (modSeq sid (fun q => { q with held := cs }) (slotRun c s1))
        else s

/-- A sequencer goes on until it waits again. -/
def settle (sid : Nat) (s : State) : State :=
  settleN sid (2 * (seqOf s sid).held.length + (seqOf s sid).ops.length) s

/-- Sequencers of a cluster's cores go on. -/
def settleCores (cl : Nat) (s : State) : State := (coresOf cl).foldl (fun t c => settle (coreSid c) t) s

/-- FABRIC_DELIVERY. -/
def execFabricDelivery (ix : Nat) (s : State) : Out :=
  .next (match s.seq.fabric[ix]? with
    | none => s
    | some x => settle x.dst (deliver x s))

/-- GCOL (R206); an APRO of its bundle that stands in the queue finds its tables. -/
def execGcol (i : Iss) (f : GlzF) (s : State) : Out :=
  coreOp (.gcol i f) i (gcolOk f) (fun t => settle i.sid (gcolAct i f t)) s

/-- REPLAY_SLOT. -/
def execReplaySlot (i : Iss) (s : State) : Out :=
  coreOp (.replaySlot i) i true (fun t => settle i.sid (replaySlotAct i t)) s

end Sys2Proof.Machine
end

