-- ==== Sys2Proof/Machine/Tokens.lean ====
section
/-! DEFINITION. Tokens that arrive (R28, R232 to R237, R242, R245) at sequencers: SYNC, CREDIT, STEP_BOUNDARY, RETRACT, REWIND,
RESUME, LANE_KILL and ABANDON. -/

namespace Sys2Proof.Machine

/-! ## Receiving -/

/-- A token is a second copy: its sequence number does not lie after the last one taken from its source (R28, R237). -/
def isDup (q : Seq) (t : Token) : Bool :=
  match tget 0 q.seen t.src with
  | 0 => false
  | n + 1 => decide ((n + 32768 - t.seq % 32768) % 32768 < 16384)

/-- A token that the network carries behind an earlier one of the same source and destination, which has not arrived (R237). -/
def behind (s : State) (dest : Nat) (t : Token) : Bool :=
  let due := s.seq.sent.filter fun e => e.1 == dest && e.2.src == t.src && !isDup (seqOf s dest) e.2
  match due with
  | e :: rest => e.2.seq != t.seq && rest.any (·.2.seq == t.seq)
  | [] => false

/-- A token taken off the network at its destination: the first copy acts, the second is discarded (R28). The network keeps the tokens of one
source to one destination in order (R237): one that is still behind another does not arrive yet (log entry 95). -/
def takeToken (dest : Nat) (t : Token) (act : State → State) (s : State) : State :=
  if behind s dest t then s else
  let s1 := { s with seq := { s.seq with sent := s.seq.sent.erase (dest, t) } }
  if isDup (seqOf s dest) t then s1
  else act (modSeq dest (fun q => { q with seen := tput 0 q.seen t.src (t.seq % 32768 + 1) }) s1)

/-- A token of the receiver's current step and attempt (R242). -/
def current (s : State) (dest : Nat) (t : Token) : Bool :=
  let q := seqOf s dest
  t.step == q.step && t.att == q.att

/-- The 96 bits of a token (R232): KIND, ATT, STEP, SRC, SEQ, ARG from bit 0 up. -/
def tokenWord (t : Token) : Nat :=
  t.kind + t.att * 2 ^ 4 + t.step * 2 ^ 8 + t.src * 2 ^ 32 + t.seq * 2 ^ 49 + t.arg * 2 ^ 64

/-- The token that 96 bits spell, as its copy on a plane. -/
def tokenOfWord (w plane : Nat) : Token :=
  { kind := w % 2 ^ 4, att := w / 2 ^ 4 % 2 ^ 4, step := w / 2 ^ 8 % 2 ^ 24, src := w / 2 ^ 32 % 2 ^ 17, seq := w / 2 ^ 49 % 2 ^ 15
    arg := w / 2 ^ 64 % 2 ^ 32, plane := plane }

/-- Fields of a token (R232, R233). -/
def tokenOk (t : Token) (kind : Nat) : Bool :=
  t.kind == kind && decide (t.att < 16) && decide (t.step < 2 ^ 24) && decide (t.src < 2 ^ 17) && decide (t.seq < 2 ^ 15)
    && decide (t.arg < 2 ^ 32) && decide (t.plane < 2)

/-- A token for a sequencer. -/
def seqToken (dest : Nat) (t : Token) (kind : Nat) (act : State → State) (s : State) : Out :=
  okIf (isSid dest && tokenOk t kind) (if takesPart s dest then takeToken dest t act s else s)

/-- A token of the current step and attempt for a sequencer. -/
def currentToken (dest : Nat) (t : Token) (kind : Nat) (act : State → State) (s : State) : Out :=
  seqToken dest t kind (fun u => if current u dest t then act u else u) s

/-! ## SYNC and CREDIT -/

/-- SYNC (R234): one more token on the channel's counter; a counter at 255 does not change and the sequencer faults. -/
def syncOp (dest ch : Nat) (s : State) : State :=
  let k := tokCtr s dest ch
  if 255 ≤ tget 0 (seqOf s dest).tok k then seqFaultOpen dest s
  else tryWait dest (modSeq dest (fun q => { q with tok := tmod 0 q.tok k (· + 1) }) s)

def execSyncToken (dest : Nat) (tok : Token) (s : State) : Out :=
  currentToken dest tok 0 (fun t => settle dest (syncOp dest (tok.arg % 4096) t)) s

/-- CREDIT (R235). -/
def execCredit (dest : Nat) (tok : Token) (s : State) : Out :=
  currentToken dest tok 1 (fun t =>
    settle dest (tryWait dest (addCredit dest (credCtr t dest (tok.arg % 4096)) (fld tok.arg 12 4) t))) s

/-! ## STEP_BOUNDARY (R236) -/

/-- The row of the credit table that a sequencer's rewind table names for a segment; row 0 at the step's start (R225). -/
def creditRow (t : SeqTable) (seg : Nat) : Nat := ((t.resumes.find? (·.1 == seg)).map (·.2.2)).getD 0

/-- The credit counters of a resume point (R225, R235, R236). -/
def creditTable (s : State) (sid row : Nat) : Tab Nat :=
  match tableOf s sid with
  | some t => t.credits.foldl (fun c e => if e.1 / 4096 = row then tput 0 c (e.1 % 4096 % 256) (min e.2 4095) else c) []
  | none => []

/-- The credit counters with which a segment resumes. -/
def resumeCredits (s : State) (sid seg : Nat) : Tab Nat :=
  match tableOf s sid with
  | some t => creditTable s sid (creditRow t seg)
  | none => []

/-- A sequencer at the start of an attempt of a step. -/
def latchStep (dest : Nat) (t : Token) (s : State) : State :=
  let lanes := match s.sch.cur with | some c => c.lanes.map (·.lane) | none => []
  let s1 := modSeq dest (fun q =>
    { Seq.init with
      phase := 1, step := t.step, att := t.att, canvas := fld t.arg 5 2, tmpl := fld t.arg 0 4, var := fld t.arg 4 1
      lanes := lanes, sendSeq := q.sendSeq, seen := q.seen, killed := if q.step = t.step then q.killed else [] }) s
  modSeq dest (fun q => { q with cred := creditTable s1 dest 0 }) s1

/-- The look-aside buffers and directory caches of an attention cluster are cleared (R275). -/
def clearWalks (dest : Nat) (s : State) : State :=
  if isAttSid dest then
    { s with kv := { s.kv with look := s.kv.look.filter (·.1 != sidCluster dest)
                               dirs := s.kv.dirs.filter (·.1 != sidCluster dest) } }
  else s

def execStepBoundary (dest : Nat) (tok : Token) (s : State) : Out :=
  seqToken dest tok 2 (fun t => clearWalks dest (latchStep dest tok t)) s

/-! ## RETRACT (R245) -/

/-- A retraction stops the bundles of its segment and of later ones, and is forwarded once. -/
def retractOp (dest : Nat) (tok : Token) (s : State) : State :=
  let seg := fld tok.arg 8 7
  let q := seqOf s dest
  let s1 := modSeq dest (fun e => { e with stopSeg := some (match e.stopSeg with | some k => min k seg | none => seg), fwded := true }) s
  if q.fwded then s1 else sendRetract dest seg (tok.arg % 256) s1

def execRetract (dest : Nat) (tok : Token) (s : State) : Out := currentToken dest tok 5 (retractOp dest tok) s

/-! ## Quiescing for REWIND and ABANDON (R254, R256, R262) -/

/-- Strokes of a sequencer in segments `seg` or later end without a tile, and their flags report nothing (R254). -/
def dropStrokes (sid seg : Nat) (s : State) : State :=
  let gone (k : Stroke) : Bool := k.sid == sid && decide (seg ≤ k.seg)
  let ended := s.arr.strokes.flatMap fun e => (e.2.filter gone).flatMap (·.arrays)
  let s1 := { s with arr := { s.arr with
    strokes := (s.arr.strokes.map fun e => (e.1, e.2.filter fun k => !gone k)).filter fun e => !e.2.isEmpty
    waiting := (s.arr.waiting.map fun e => (e.1, e.2.filter fun f => !gone f.stroke)).filter fun e => !e.2.isEmpty } }
  releasePlanes ended s1

/-- Tentative updates of segments `seg` or later are discarded: variance estimates, statistics, monitor reports, counts
(R184, R434, R259, R270). -/
def dropTentative (seg : Nat) (s : State) : State :=
  { s with
    glz := { s.glz with
      varNew := s.glz.varNew.filter fun e => match e.2 with | some r => decide (r.2 < seg) | none => false
      rep := s.glz.rep.filter fun e => decide (e.1 < seg)
      kvNew := tkeep (fun k => decide (k / 128 < seg)) s.glz.kvNew
      boundNew := tkeep (fun k => decide (k / 128 < seg)) s.glz.boundNew }
    core := { s.core with samples := s.core.samples.filter fun x => decide (x.seg < seg) }
    arr := { s.arr with d16Cols := s.arr.d16Cols.filter fun e => decide (e.1 ≤ seg) }
    kv := { s.kv with opened := [] } }

/-- A participant stops issuing, ends its operations of segments `seg` or later, resets its counters, discards the replay entries of later
segments (R251, R256; log entry 94), and sends QUIESCED under the new attempt. -/
def quiesce (dest seg att : Nat) (keep : Bool) (s : State) : State :=
  let s1 := dropTentative seg (dropStrokes dest seg s)
  let s2 := modSeq dest (fun q =>
    { q with phase := 2, wait := .none, held := [], ops := q.ops.filter (fun e => decide ((slotIss e.2).seg < seg)), att := att
             resumeSeg := seg, stopSeg := none, fwded := false, winNo := 0, ord := 0
             glrAt := q.glrAt.filter fun k => decide (k / 65536 < seg)
             segs := q.segs.filter fun x => decide (x.2.1 < seg)
             failed := q.failed.filter fun x => decide (x.2.seg < seg)
             curSeg := none, chkFlags := 0, envTile := [], window := false
             replays := if keep then (q.replays.filter fun r => decide (r.seg ≤ seg)).map fun r => { r with issued := false } else []
             tok := [], cred := resumeCredits s1 dest seg }) s1
  sendToken dest 7 0 schedSid s2

/-- REWIND and ABANDON name the next attempt of the receiver's step. -/
def nextAttempt (s : State) (dest : Nat) (t : Token) : Bool :=
  let q := seqOf s dest
  t.step == q.step && t.att == (q.att + 1) % 16 && q.phase != 0

/-- REWIND (R254). -/
def execRewind (dest : Nat) (tok : Token) (s : State) : Out :=
  seqToken dest tok 6 (fun t => if nextAttempt t dest tok then quiesce dest (tok.arg % 128) tok.att true t else t) s

/-- ABANDON (R262): as a rewind to segment 0, and every tentative result is discarded. -/
def execAbandon (dest : Nat) (tok : Token) (s : State) : Out :=
  seqToken dest tok 12 (fun t => if nextAttempt t dest tok then quiesce dest 0 tok.att false t else t) s

/-- RESUME (R254 to R256): the participant resumes at the resume sequence of its segment, its counters reset. -/
def resumeOp (dest : Nat) (s : State) : State :=
  modSeq dest (fun q => if q.phase = 2 then { q with phase := 1, tok := [], cred := resumeCredits s dest q.resumeSeg } else q) s

def execResumeToken (dest : Nat) (tok : Token) (s : State) : Out := currentToken dest tok 8 (resumeOp dest) s

/-- LANE_KILL (R219): the lane's operations are empty from here on, in this attempt and in every later one of the step; its strokes that have not
begun are not stroked. -/
def laneKillOp (dest lane : Nat) (s : State) : State :=
  let s1 := modSeq dest (fun q => { q with killed := if q.killed.contains lane then q.killed else q.killed ++ [lane] }) s
  settle dest { s1 with arr := { s1.arr with
    strokes := (s1.arr.strokes.map fun e => (e.1, dropQueued dest lane [] e.2)).filter fun e => !e.2.isEmpty } }

def execLaneKill (dest : Nat) (tok : Token) (s : State) : Out := currentToken dest tok 10 (laneKillOp dest (tok.arg % 256)) s

end Sys2Proof.Machine
end

