-- ==== Sys2Proof/Machine/Rewind.lean ====
section
/-! DEFINITION. The scheduler core's side of a step in flight (R242 to R262): STEP_DONE, SEGMENT, the gathering time, rewinds,
re-executions (R67, R253), SEQ_FAULT (R218, R297), the step watchdog, and the issue of COMMIT. -/

namespace Sys2Proof.Machine

/-! ## Receiving at the scheduler core -/

/-- A token of the step in flight and its current attempt, from a participant (R242). -/
def schedCurrent (c : StepRec) (t : Token) : Bool :=
  t.step == c.num % 2 ^ 24 && t.att == c.att % 16 && c.parts.contains t.src

/-- A token for the scheduler core: its first copy acts when it belongs to the current attempt. -/
def schedToken (t : Token) (kind : Nat) (act : StepRec → State → State) (s : State) : Out :=
  okIf (tokenOk t kind)
    (takeToken schedSid t (fun u => match u.sch.cur with
      | some c => if schedCurrent c t then act c u else u
      | none => u) s)

/-! ## Commit conditions (R257, R327) -/

/-- A SEGMENT report of the current attempt that has not arrived. -/
def reportPending (s : State) (c : StepRec) (src : Nat → Bool) : Bool :=
  s.seq.sent.any fun e => e.1 == schedSid && e.2.kind == 4 && schedCurrent c e.2 && src e.2.src && !isDup (seqOf s schedSid) e.2

/-- A participant whose flag segments have all been reported. -/
def reported (s : State) (p : Nat) : Bool := (seqOf s p).segs.isEmpty && (seqOf s p).curSeg.isNone

/-- The conditions of R257 hold. -/
def commitReady (s : State) (c : StepRec) : Bool :=
  c.parts.all (fun p => c.done.contains p && reported s p) && !reportPending s c (fun _ => true)
    && c.gather.isNone && c.rewind.isNone && !c.abandoning && !c.cmtReady

/-- A disable of an entry's partition or canvas that has not taken effect. -/
def disabling (s : State) (e : Entry) : Bool :=
  ((ptnOf s e.ptn).enabled && !(ptnOf s e.ptn).enable) || ((cnvOf s e.canvas).enabled && !(cnvOf s e.canvas).enable)

/-- An event before the COMMIT token that withholds a lane's tokens: a cancel, a passed deadline, a disable or a tint deletion; it is
decided here, in the queue's order. -/
def withhold (l : Lane) (s : State) : State :=
  let e := entryOf s l.index
  let s1 := if deadlinePassed s e then modEntry l.index (fun x => { x with pendCancel := some (x.pendCancel.getD 3) }) s else s
  if (entryOf s1 l.index).pendCancel.isSome || disabling s1 e then
    modCur (fun c => { c with withheld := if c.withheld.contains l.lane then c.withheld else c.withheld ++ [l.lane] }) s1
  else s1

/-- The port dies as destinations of tokens (R9, R233). -/
def portSids : List Nat := (List.range 4).map fun n => (34 + n) * 2 ^ 11

/-- COMMIT goes to every participant and to the port dies (R233). -/
def sendCommit (c : StepRec) (s : State) : State :=
  portSids.foldl (fun t d => sendTagged schedSid 9 0 c.num c.att d t) (schedToAll 9 0 c.att s)

/-- COMMIT is sent once its conditions hold. -/
def tryCommit (s : State) : State :=
  match s.sch.cur with
  | some c =>
    if commitReady s c then
      sendCommit c (modCur (fun k => { k with cmtReady := true }) (c.lanes.foldl (fun t l => withhold l t) s))
    else s
  | none => s

/-- STEP_DONE. -/
def stepDoneOp (t : Token) (s : State) : State :=
  tryCommit (modCur (fun c => { c with done := if c.done.contains t.src then c.done else c.done ++ [t.src] }) s)

def execStepDone (tok : Token) (s : State) : Out := schedToken tok 3 (fun _ => stepDoneOp tok) s

/-- SEGMENT (R244, R254): a clear report counts toward the commit; a failed one starts or joins the gathering time. -/
def segmentOp (t : Token) (s : State) : State :=
  let seg := fld t.arg 8 7
  if t.arg % 256 = 0 then tryCommit (modCur (fun c => { c with segs := c.segs ++ [(t.src, fld t.arg 15 12, seg, 0)] }) s)
  else modCur (fun c =>
    { c with segs := c.segs ++ [(t.src, fld t.arg 15 12, seg, t.arg % 256)]
             gather := some (match c.gather with | some g => min g seg | none => seg)
             gatherUs := if c.gather.isNone then s.clk.us else c.gatherUs }) s

def execSegment (tok : Token) (s : State) : Out := schedToken tok 4 (fun _ => segmentOp tok) s

/-! ## The end of a step -/

/-- Everything the step held is let go; its sequencers wait for the next step boundary (R184, R251, R258, R259). -/
def clearStep (s : State) : State :=
  match s.sch.cur with
  | none => s
  | some c =>
    let s1 := c.parts.foldl (fun t p => modSeq p (fun q => { Seq.init with sendSeq := q.sendSeq, seen := q.seen, step := q.step }) t) s
    { s1 with
      sch := { s1.sch with cur := none, lastStep := c.num % 2 ^ 24, lastCv := c.canvas, lastV := true }
      core := { s1.core with samples := [], rxKill := [], tintH := [], bind := [] }
      glz := { s1.glz with varNew := [], varReset := [], rep := [], kvNew := [], boundNew := [], fetched := [] }
      arr := { s1.arr with stroked := [], listedSat := [], d16Cols := [] }
      kv := { s1.kv with wrote := [], opened := [] }
      head := { s1.head with drafts := [] } }

/-- Entries of killed lanes are retired at the step's end: their frames are scrubbed, their presence sets cleared (R336). -/
def retireKilled (s : State) : State :=
  (entriesWhere s fun e => e.killAcct && e.st != .retiring).foldl (fun t ix => retire ix t) s

/-- A step that ends without commit changes no entry (R328). -/
def endAbandoned (s : State) : State := retireKilled (clearStep s)

/-! ## REWIND, re-execution, ABANDON (R253, R254, R262) -/

/-- REWIND to a segment. -/
def sendRewind (seg : Nat) (s : State) : State :=
  match s.sch.cur with
  | some c => fire 4 0 0 seg ((c.att + 1) % 16) (schedToAll 6 seg (c.att + 1) (modCur (nextAtt seg) (dropSamples c.num seg s)))
  | none => s

/-- The re-execution of R67: from segment 0 with variant 1. -/
def reexecute (seg : Nat) (s : State) : State :=
  match s.sch.cur with
  | some c =>
    let s1 := modCnv c.canvas (fun v => { v with reexecs := satAdd 32 v.reexecs 1 }) (fire 5 0 0 0 seg s)
    sendRewind 0 (modCur (fun k => { newExec k with reexec := true, redo := true, var := 1 }) s1)
  | none => s

/-- Tiles whose envelope has failed twice in this execution are marked for D16 (R402). -/
def markEnvelopes (s : State) : State :=
  match s.sch.cur with
  | none => s
  | some c =>
    let twice := (c.envFail.map fun e => (e.1, e.2.1)).dedup.filter fun t =>
      decide (2 ≤ (c.envFail.filter fun e => e.1 == t.1 && e.2.1 == t.2).length) && !c.d16Tile.contains t
    countD16 c.canvas twice.length (modCur (fun k => { k with d16Tile := k.d16Tile ++ twice }) s)

/-- Planes from which the replays of the step need D16 (R252, R298). -/
def d16Planes (s : State) (c : StepRec) : List Nat :=
  c.parts.flatMap fun p => (seqOf s p).replays.flatMap fun r =>
    let kept : List Nat := match r.kept with | some t => t.1.d16.map (fun e => e.1) | none => []
    let bad : List Nat := if r.kind = 4 then r.four.map (mkArray r.engine) else []
    (kept ++ bad).map fun a => planeKey a r.f.plane

/-- A replay needs D16 from a plane whose master image is lost (R298). -/
def needsLost (s : State) (c : StepRec) : Bool :=
  (d16Planes s c).any fun k => s.kv.lostImg.contains (c.canvas, k)

/-- A canvas goes to HELD, with its event (R344, R388). -/
def holdCanvas (c : Nat) (s : State) : State :=
  if (cnvOf s c).st = 2 then canvasEvent c 3 (modCnv c (fun v => { v with st := 3 }) s) else s

/-- The gathering time ends (R254): the rewind, the re-execution of R253, or the end of a step that cannot be replayed. -/
def gatherEnd (c : StepRec) (seg : Nat) (s : State) : State :=
  if needsLost s c then modCnv c.canvas (fun v => { v with lostHold := true }) (holdCanvas c.canvas (sendAbandon false s))
  else if (c.redo || decide (8 ≤ c.rewinds)) && !c.reexec then reexecute seg s
  else
    sendRewind seg (modCur (fun k => { k with rewinds := k.rewinds + 1 })
      (modCnv c.canvas (fun v => { v with rewinds := satAdd 32 v.rewinds 1 }) (markEnvelopes s)))

/-- REWIND_GATHER_EXPIRY. -/
def gatherExpiry (s : State) : State :=
  match s.sch.cur with
  | some c => (match c.gather with | some seg => gatherEnd c seg s | none => s)
  | none => s

def execRewindGatherExpiry (s : State) : Out := .next (gatherExpiry s)

/-! ## QUIESCED (R254, R262) -/

/-- ARG of a step-boundary token (R233). -/
def boundaryArg (c : StepRec) : Nat :=
  c.tmpl % 16 + c.var % 2 * 16 + c.canvas % 4 * 32 + c.lanes.length % 512 * 128
    + (c.lanes.foldl (fun a l => a + l.npos) 0) % 1024 * 65536

/-- Bytes of a word's embedding row on one context die (R300). -/
def stripeBytes (b : Bundle) : Nat := 2 * (b.hidden / 8)

/-- The embedding rows of the step's input tokens, position after position, in the working SRAM of the head clusters: head cluster `k` fetches the
stripe of context die `k` (R300; log entry 100). -/
def fetchRows (s : State) : State :=
  match s.sch.cur with
  | none => s
  | some c =>
    match (cnvOf s c.canvas).bundle with
    | none => s
    | some b =>
      let at_ := match b.templates[c.tmpl]? with | some t => (if c.var = 1 then t.v1 else t.v0).embAt | none => 0
      let toks := c.lanes.flatMap fun l => (List.range l.npos).map (nth 0 l.inputs)
      let len := stripeBytes b
      let row (m : Mem) (x : Nat × Nat) : Mem := (headSids.zipIdx).foldl (fun m h =>
        wrBytes m (headAddr h.1 (at_ + x.2 * ceilDiv len 64)) (rdBytes s.kv.near (embedAddr c.canvas h.2 x.1 len) len)) m
      { s with core := { s.core with sram := (toks.zipIdx).foldl row s.core.sram } }

/-- Every participant is quiet: RESUME; for the re-execution of R67, which changes the variant, a step boundary; or the step's end. -/
def allQuiet (s : State) : State :=
  match s.sch.cur with
  | none => s
  | some c =>
    if c.abandoning then endAbandoned s
    else if c.redo then schedToAll 2 (boundaryArg c) c.att (fetchRows (modCur (fun k => { k with rewind := none, redo := false }) s))
    else schedToAll 8 0 c.att (modCur (fun k => { k with rewind := none }) s)

def quiescedOp (t : Token) (s : State) : State :=
  let s1 := modCur (fun c => { c with quiet := if c.quiet.contains t.src then c.quiet else c.quiet ++ [t.src] }) s
  match s1.sch.cur with
  | some c => if c.rewind.isSome && c.parts.all c.quiet.contains then allQuiet s1 else s1
  | none => s1

def execQuiesced (tok : Token) (s : State) : Out := schedToken tok 7 (fun _ => quiescedOp tok) s

/-! ## SEQ_FAULT (R218, R276, R297) -/

/-- A frame is retired from the module's pool; its page, with what it holds, goes to a new frame (R297). -/
def moveFrame (ptn page : Nat) (s : State) : State :=
  match frameOf s ptn page, freshFrame s ptn page with
  | some f, some g =>
    let m := (List.range 8).foldl (fun m n =>
      let lo := nearAddr n f 0
      (m.filter fun c => decide (lo ≤ c.1) && decide (c.1 < lo + 524288)).foldl
        (fun k c => wrByte k (nearAddr n g (c.1 - lo)) c.2) (zeroRange m lo 524288)) s.kv.near
    { s with kv := { s.kv with near := m, window := tput 0 s.kv.window (ptn * 2 ^ 28 + page) (g + 1)
                               owner := tput 0 (tput 0 s.kv.owner f 0) g (ptn + 1)
                               retired := if s.kv.retired.contains f then s.kv.retired else s.kv.retired ++ [f] } }
  | _, _ => s

/-- Page numbers of a lane that an error of cause 0x29 or 0x2A concerns: the page written, or the table block's page. -/
def faultPage (s : State) (l : Lane) (layer j cause : Nat) : Option Nat :=
  match frameOf s l.ptn l.ptroot with
  | none => none
  | some rf =>
    let dirPtr := nearNat s (nearAddr 0 rf (8 * (layer / 8))) 8 % 2 ^ 32
    let (f, o) := blockAt s l.ptn dirPtr
    let leafPtr := nearNat s (nearAddr 0 f (o + 8 * (j / 8))) 8 % 2 ^ 32
    let (lf, lo) := blockAt s l.ptn leafPtr
    if cause = 0x2A then some (leafPtr / 16)
    else some (nearNat s (nearAddr 0 lf (lo + 64 * (layer % 8 * 8 + j % 8))) 4 % 2 ^ 28)

/-- The frame of a page leaves the module's pool for good (R297). -/
def retireFrameOf (ptn page : Nat) (s : State) : State :=
  match frameOf s ptn page with
  | some f => { s with kv := { s.kv with retired := if s.kv.retired.contains f then s.kv.retired else s.kv.retired ++ [f] } }
  | none => s

/-- An uncorrectable near-tier error of a page access (R297). -/
def memFault (l : Lane) (layer j cause : Nat) (s : State) : State :=
  let s1 := fire 14 0 0 cause 0 s
  match faultPage s1 l layer j cause with
  | none => s1
  | some p =>
    if cause = 0x28 then
      retireFrameOf l.ptn p (killLane l.lane (markPoison l.ptn l.ptroot layer j
        (modEntry l.index (fun e => { e with poison := if e.poison.contains (layer, j) then e.poison else e.poison ++ [(layer, j)] }) s1)))
    else moveFrame l.ptn p s1

/-- The lane that a sequencer's last page access concerns. -/
def accessLane (s : State) (c : StepRec) (src : Nat) : Option (Lane × Nat × Nat) :=
  match (seqOf s src).access with
  | some (lane, layer, j) => (c.lanes.find? (·.lane == lane)).map fun l => (l, layer, j)
  | none => none

/-- A sequencer fault: a memory error is repaired; the first other fault of a step executes it once more; the second ends it, and
is permanent when it recurs at its unit. -/
def seqFaultAct (t : Token) (c : StepRec) (s : State) : State :=
  let cause := t.arg % 256
  let (unit, level) := sidUnitAddr t.src
  let acc := accessLane s c t.src
  let s1 := fire 7 unit level cause (match acc with | some a => a.1.lane | none => 0) s
  if 0x28 ≤ cause ∧ cause ≤ 0x2A then
    sendRewind 0 (modCur newExec (match acc with | some (l, layer, j) => memFault l layer j cause s1 | none => fire 14 0 0 cause 0 s1))
  else if c.seqSrc.isEmpty then
    sendRewind 0 (modCur (fun k => { newExec k with seqSrc := [t.src] }) (recordFault unit level 7 cause false s1))
  else sendAbandon false (recordFault unit level 7 cause (c.seqSrc.contains t.src) s1)

def execSeqFault (tok : Token) (s : State) : Out := schedToken tok 11 (seqFaultAct tok) s

/-! ## The step watchdog (R261, R262) -/

/-- Participants whose STEP_DONE or SEGMENT is missing. -/
def missingParts (s : State) (c : StepRec) : List Nat :=
  c.parts.filter fun p => !c.done.contains p || !reported s p || reportPending s c (· == p)

/-- The step in flight has run past its watchdog and has not committed. -/
def watchdogDue (s : State) (c : StepRec) : Bool :=
  !c.cmtReady && !c.abandoning && decide (c.startUs + 1000 * (cnvOf s c.canvas).watchdog ≤ s.clk.us)

/-- The events that name the missing participants. -/
def nameMissing (n : Nat) (ms : List Nat) (s : State) : State :=
  ms.foldl (fun t p => fire 6 (sidUnitAddr p).1 (sidUnitAddr p).2 n ms.length t) s

/-- No participant is missing: the fault is in the scheduler core or the token network, and the module drains. -/
def watchdogDrain (s : State) : State :=
  let s1 := drainDecision 8 0 0 (sendAbandon false s)
  { s1 with hist := { s1.hist with budgetNow := true } }

def watchdogOp (c : StepRec) (s : State) : State :=
  let ms := missingParts s c
  let s1 := nameMissing (if c.wdFired then 2 else 1) ms s
  if ms.isEmpty then watchdogDrain s1
  else if !c.wdFired then
    sendAbandon true (modCur (fun k => { k with wdFired := true, missing := ms, startUs := s.clk.us }) s1)
  else
    sendAbandon false ((ms.filter c.missing.contains).foldl
      (fun t p => recordFault (sidUnitAddr p).1 (sidUnitAddr p).2 8 0 true t) s1)

def stepWatchdog (s : State) : State :=
  match s.sch.cur with
  | some c => if watchdogDue s c then watchdogOp c s else s
  | none => s

def execStepWatchdogExpiry (s : State) : Out := .next (stepWatchdog s)

end Sys2Proof.Machine
end

