-- ==== Sys2Proof/Machine/Commit.lean ====
section
/-! DEFINITION. COMMIT (R257 to R259, R327): what each holder of tentative state does with it, and the outcome of the step on every
request table entry (R271, R307, R315, R317, R318). -/

namespace Sys2Proof.Machine

/-! ## Calibration causes (R424) -/

/-- A cluster becomes due for a cause. -/
def calDue (cause cl : Nat) (s : State) : State :=
  modCal cl (fun k => { k with due := if bitOf k.due cause then k.due else k.due + 2 ^ cause }) s

/-- Clusters that hold a plane of a canvas. -/
def clustersWith (b : Bundle) : List Nat := (b.images.map fun m => clusterOf m.array).dedup

/-! ## What a lane delivers (R318) -/

/-- An end token of a canvas. -/
def isEnd (s : State) (canvas t : Nat) : Bool :=
  match (cnvOf s canvas).bundle with
  | some b => b.ends.contains t
  | none => false

/-- The tokens that enter the committed sequence, up to the stopping point, and whether they reach it: an end token under ENDRULE 0
or 1, or the token limit. -/
def cutTokens (stops : Nat → Bool) : Nat → List Nat → List Nat × Bool
  | _, [] => ([], false)
  | 0, _ => ([], true)
  | room + 1, t :: ts =>
    if stops t ∨ room = 0 then ([t], true)
    else
      let r := cutTokens stops room ts
      (t :: r.1, r.2)

/-- Whether a token ends a request's delivery. -/
def stopsAt (s : State) (e : Entry) (t : Nat) : Bool := e.endrule != 2 && isEnd s e.canvas t

/-- The delivered part of committed tokens: an end token is withheld under ENDRULE 1. -/
def deliveredOf (s : State) (e : Entry) (ts : List Nat) : List Nat :=
  if e.endrule = 1 then ts.filter fun t => !isEnd s e.canvas t else ts

/-! ## Outcomes of a lane (R259, R325, R327) -/

/-- STOP set in the VRFY record of every head cluster (R317). -/
def setStop (v : Verdict) (s : State) : State :=
  match v.daddr with
  | some d => { s with core := { s.core with
      sram := headSids.foldl (fun m sid => wrByte m (headAddr sid d) (rdByte m (headAddr sid d) ||| 0x10)) s.core.sram } }
  | none => s

/-- Tokens released to the owning session: queued for TOKENS, counted, and set in the presence set (R259, R307, R390). -/
def release (ix num : Nat) (ts : List Nat) (s : State) : State :=
  let e := entryOf s ix
  let s1 := modEntry ix (fun x =>
    { x with out := x.out ++ ts, firstOut := if x.out.isEmpty then e.toks.length else x.firstOut, outStep := num
             delivered := x.delivered + ts.length }) s
  let s2 := modPtn e.ptn (fun p => { p with tokens := satAdd 64 p.tokens ts.length }) s1
  { s2 with head := { s2.head with presence := tput [] s2.head.presence ix ((tget [] s2.head.presence ix ++ ts).dedup) } }

/-- The request reached its end: IDLE when KEEP is set, else retired, with OK (R325). -/
def finish (ix : Nat) (s : State) : State :=
  if (entryOf s ix).keep then
    modEntry ix (fun x => { x with st := .idle, lastAct := s.clk.us, next := [] }) (complete ix 0 s)
  else retireWith ix 0 s

/-- The proposals for a lane's next pass: the sketch's draft, or the extra heads' words, which the spec gives no number for. -/
def nextDraft (l : Lane) (s : State) : List Node × State :=
  if l.ctl.nprop < 2 then ([], s)
  else if l.ctl.psrc = 0 then (tget [] s.head.drafts l.lane, s)
  else
    let heads := match (cnvOf s l.canvas).bundle with | some b => b.heads | none => 0
    (List.range (min l.ctl.nprop (heads + 1))).foldl (fun a k =>
      let (v, t) := draw a.2
      (a.1 ++ [{ token := v.toNat % 2 ^ 18, parent := k - 1, logp := 0 }], t)) (([] : List Node), s)

/-- Tokens of a lane's pass enter its entry: `kv` committed slots, `ts` generated tokens. -/
def advance (l : Lane) (num kv : Nat) (v : Verdict) (ts : List Nat) (fin : Bool) (s : State) : State :=
  let e := entryOf s l.index
  let s0 := if fin then setStop v s else s
  let s1 := release l.index num (deliveredOf s e ts) s0
  let (nx, s2) := if fin then ([], s1) else nextDraft l s1
  let s3 := modEntry l.index (fun x =>
    { x with toks := x.toks ++ ts, kv := kv, gend := x.gend + ts.length, next := nx, st := .decode, lastStep := num,
             lastAct := s.clk.us }) s2
  if fin then finish l.index s3 else s3

/-- FILL of every page that the lane wrote (R271). -/
def fillLane (l : Lane) (kv : Nat) (s : State) : State :=
  (s.kv.wrote.filter fun w => w.2.1 == l.lane).foldl (fun t w => fillPage l kv w.1 w.2.2.1 w.2.2.2 t) s

/-- The accepted nodes of a tree pass take the slots of their depths, on every layer (R315). -/
def moveTree (l : Lane) (path : List Nat) (s : State) : State :=
  match (cnvOf s l.canvas).bundle with
  | some b =>
    if l.ctl.tree = 1 ∧ 2 ≤ l.w then
      ((path.zipIdx).drop 1).foldl (fun t p =>
        (mainLayerList b ++ sketchLayerList b).foldl (fun u k => moveNode l k p.1 p.2 u) t) s
    else s
  | none => s

/-- The outcome of a step for one lane; a killed or withheld lane has none. -/
def laneOutcome (c : StepRec) (l : Lane) (s : State) : State :=
  if c.killed.contains l.lane || c.withheld.contains l.lane then s
  else
    let e := entryOf s l.index
    match c.verdicts.find? (·.lane == l.lane) with
    | some v =>
      if e.st = .prefill ∧ !l.last then
        modEntry l.index (fun x => { x with kv := e.kv + l.npos, lastStep := c.num, lastAct := s.clk.us }) (fillLane l (e.kv + l.npos) s)
      else
        let (ts, fin) := cutTokens (stopsAt s e) (e.maxnew - e.gend) v.toks
        let kv := if 2 ≤ l.w then e.kv + min ts.length v.acc + 1 else e.kv + l.npos
        advance l c.num kv v ts fin (fillLane l kv (moveTree l (v.path.take (min ts.length v.acc + 1)) s))
    | none =>
      modEntry l.index (fun x => { x with kv := e.kv + l.npos, lastStep := c.num, lastAct := s.clk.us }) (fillLane l (e.kv + l.npos) s)

/-! ## Columns that saturate persistently (R146, R148, R159) -/

/-- An entry asked of a core's digital column list, fetched before it takes effect; a full list takes none, and says so (R159, R161). -/
def addDigCol (array plane col : Nat) (persist : Bool) (s : State) : State :=
  let core := coreOf array
  let l := tget [] s.arr.digcol core
  if l.any fun d => d.array == array && d.plane == plane && d.col == col then s
  else if 32 ≤ l.length then fire 10 (planeKey array plane) 5 1 col s
  else
    let d : DigCol := { array := array, plane := plane, col := col, w := [], active := false, persist := persist, clean := 0, remap := false }
    let s1 := { s with arr := { s.arr with digcol := tput [] s.arr.digcol core (l ++ [d]) } }
    fire 10 (planeKey array plane) 5 0 col s1

/-- A digital column list entry, as a row of it names it. -/
def isDigCol (array plane col : Nat) (d : DigCol) : Bool := d.array == array && d.plane == plane && d.col == col

/-- The digital column list of a core changed. -/
def modDigcol (core : Nat) (f : List DigCol → List DigCol) (s : State) : State :=
  { s with arr := { s.arr with digcol := tmod [] s.arr.digcol core f } }

/-- One column of a stroked plane over the last 8 committed steps. -/
def satColumn (pk col : Nat) (s : State) : State :=
  let k := pk * 64 + col
  let now := s.arr.d16Cols.any fun e => e.2 == k
  let h := tget [] s.arr.satHist k
  if h.isEmpty && !now then s
  else
    let h1 := (h ++ [now]).drop (h.length + 1 - 8)
    if 3 ≤ h1.countP id then
      addDigCol (pk / 256 * 256) (planeNo pk) col true { s with arr := { s.arr with satHist := tput [] s.arr.satHist k [] } }
    else { s with arr := { s.arr with satHist := tput [] s.arr.satHist k (if h1.any id then h1 else []) } }

/-- Columns that have a history or were finished in D16 in this step, on the planes that the step stroked. -/
def satCommit (s : State) : State :=
  s.arr.stroked.foldl (fun t pk => (List.range 64).foldl (fun u j => satColumn pk j u) t) s

/-- A committed step passes over the persistent entries: one whose code saturated starts its count again (R146). -/
def cleanCommit (s : State) : State :=
  { s with arr := { s.arr with digcol := s.arr.digcol.map fun e =>
      (e.1, e.2.map fun d =>
        if s.arr.listedSat.contains (planeKey d.array d.plane * 64 + d.col) then { d with clean := 0 }
        else { d with clean := d.clean + 1 }) } }

/-! ## The range monitor and counts by layer (R170, R269, R285) -/

/-- The layer that a channel set is of: that of the engine tiles its input feeds (R170). -/
def layerOfSet (s : State) (set : Nat) : Nat :=
  match (cnvOf s (set / 65536)).bundle with
  | some b => (match b.tileIn.find? (·.2.1 == set % 65536) with
    | some e => (match b.tileLayer.find? (·.1 == e.1) with | some p => p.2 | none => 0)
    | none => 0)
  | none => 0

/-- One report of a committed step of a canvas: the sets are one per layer input, so the counts are per layer and input index (R170). -/
def countReport (step : Nat) (k : Nat) (s : State) : State :=
  let h := tget [] s.glz.repHist k ++ [step]
  let h1 := h.drop (h.length - 32)
  let set := k / 1048576
  let ix := k % 1048576
  let s1 := { s with glz := { s.glz with repHist := tput [] s.glz.repHist k h1 } }
  let l := tget [] s1.glz.chans set
  if h1.length < 32 ∨ h1.headD 0 + 1024 ≤ step ∨ (l.any fun c => c.index == ix) ∨ s1.glz.chanWant.contains (set, ix) then s1
  else if 32 ≤ l.length + (s1.glz.chanWant.filter fun w => w.1 == set).length then
    fireArg 11 0 0 0 (layerOfSet s1 set) ix s1
  else { s1 with glz := { s1.glz with chanWant := s1.glz.chanWant ++ [(set, ix)] } }

def reportCommit (step : Nat) (s : State) : State := s.glz.rep.foldl (fun t r => countReport step r.2 t) s

/-- A count by layer over 65,536 committed steps passes its limit. -/
def passes (limit step n : Nat) (h : List (Nat × Nat)) : List (Nat × Nat) × Bool :=
  let old := h.filter fun e => decide (step < e.1 + 65536)
  let tot := old.foldl (fun a e => a + e.2) 0
  (old ++ [(step, n)], decide (tot ≤ limit) && decide (limit < tot + n))

/-- Saturated key-value elements, and rows over the score bound. -/
def layerCounts (canvas step : Nat) (s : State) : State :=
  let s1 := s.glz.kvNew.foldl (fun t e =>
    let k := canvas * 128 + e.1 % 128
    let (h, ev) := passes 256 step e.2 (tget [] t.glz.kvSat k)
    let u := { t with glz := { t.glz with kvSat := tput [] t.glz.kvSat k h } }
    if ev then fireArg 11 0 0 2 (e.1 % 128) canvas u else u) s
  s.glz.boundNew.foldl (fun t e =>
    let k := canvas * 128 + e.1 % 128
    let (h, ev) := passes 1024 step e.2 (tget [] t.glz.bound k)
    let u := { t with glz := { t.glz with bound := tput [] t.glz.bound k h } }
    if ev then fireArg 11 0 0 3 (e.1 % 128) canvas u else u) s1

/-! ## Variance estimates, statistics, ramps (R184, R434, R440) -/

def varCommit (s : State) : State :=
  let v := s.glz.varNew.foldl (fun t e => match e.2 with | some r => tput 0 t e.1 r.1 | none => t) s.glz.varEst
  { s with glz := { s.glz with varEst := s.glz.varReset.foldl (fun t e => tput 0 t e.1 e.2) v } }

/-- A list of 64 sums with one sample added, but for the columns left out. -/
def addCols (skip : List Nat) (old : List Word) (new : List Word) : List Word :=
  (List.range 64).map fun j => if skip.contains j then nth 0 old j else fadd (nth 0 old j) (nth 0 new j)

/-- One sample added to a half of its tile's statistics. -/
def addSample (half : Nat) (x : Sample) (s : State) : State :=
  let k := x.tile * 2 + half
  let t := tget Stats.init s.glz.stats k
  let u := x.u.map toF32
  let t1 : Stats := { n := t.n + 1, ssig := fadd t.ssig (toF32 x.sig), sabs := fadd t.sabs (toF32 (dyOfInt x.mag)),
                      su := addCols x.skip t.su u, su2 := addCols x.skip t.su2 (x.u.map fun d => toF32 (dyMul d d)) }
  { s with glz := { s.glz with stats := tput Stats.init s.glz.stats k t1 } }

def statCommit (num : Nat) (s : State) : State := s.core.samples.foldl (fun t x => addSample (num % 2) x t) s

/-- The value of a ramp after increment `k` of 64. -/
def rampVal (r : Ramp) (k : Nat) : Int × Int :=
  (r.old.1 + rndAway ((r.new.1 - r.old.1) * k) 64, r.old.2 + rndAway ((r.new.2 - r.old.2) * k) 64)

/-- A table entry takes a value. -/
def setEntry (drift : Bool) (key : Nat) (v : Int × Int) (s : State) : State :=
  if drift then { s with arr := { s.arr with drift := tput (0, 0) s.arr.drift key v } }
  else { s with arr := { s.arr with conv := tput (0, 0) s.arr.conv key v } }

/-- Every ramp that passes a test advances by one increment; a ramp at 64 has ended. -/
def stepRamps (p : Ramp → Bool) (s : State) : State :=
  let s1 := (s.glz.ramps.filter p).foldl (fun t r => setEntry r.drift r.key (rampVal r (r.k + 1)) t) s
  { s1 with glz := { s1.glz with ramps := (s1.glz.ramps.map fun r => if p r then { r with k := r.k + 1 } else r).filter (·.k < 64) } }

/-! ## The canvas floor (R146, R561) -/

/-- Raises a canvas's floor to A8 for 4,096 committed steps. -/
def raiseFloor (c : Nat) (s : State) : State :=
  let s1 := modCnv c (fun v => { v with floor := true, floorLeft := 4096, consec := 0, floorRises := satAdd 32 v.floorRises 1 }) s
  let s2 := raiseAll (boundTo s1 c) { ty := 2, flags := 1, unit := 0, level := 0, args := [c] } (fire 8 0 0 1 c s1)
  match (cnvOf s2 c).bundle with
  | some b => (clustersWith b).foldl (fun t cl => calDue 5 cl t) s2
  | none => s2

/-- The floor's count of steps, and two re-executed steps in a row. -/
def floorCommit (c : StepRec) (s : State) : State :=
  let s1 := modCnv c.canvas (fun v =>
    { v with floorLeft := v.floorLeft - 1, consec := if c.reexec then v.consec + 1 else 0, steps := satAdd 64 v.steps 1 }) s
  if 2 ≤ (cnvOf s1 c.canvas).consec then raiseFloor c.canvas s1 else s1

/-! ## COMMIT -/

/-- Everything COMMIT does while the step is still in flight. -/
def commitHolders (c : StepRec) (s : State) : State :=
  let n := (cnvOf s c.canvas).steps + 1
  let s1 := c.lanes.foldl (fun t l => laneOutcome c l t) s
  let s2 := layerCounts c.canvas n (reportCommit n (cleanCommit (satCommit s1)))
  floorCommit c (stepRamps (fun r => 1 ≤ r.k) (statCommit c.num (varCommit s2)))

/-- The results of a committed step are no longer tentative, and its COMMIT tokens have arrived (R25, R233). -/
def settleXfers (c : StepRec) (s : State) : State :=
  { s with seq := { s.seq with
    fabric := s.seq.fabric.map fun x => if x.step = c.num % 2 ^ 24 then { x with tent := false } else x
    sent := s.seq.sent.filter fun e => e.2.kind != 9 } }

/-- One more executed step. -/
def countStep (s : State) : State := { s with sch := { s.sch with steps := satAdd 64 s.sch.steps 1 } }

/-- COMMIT: the step ends at a boundary. -/
def commitOp (s : State) : State :=
  match s.sch.cur with
  | some c =>
    if c.cmtReady then countStep (retireKilled (clearStep (commitHolders c (settleXfers c s)))) else s
  | none => s

def execCommit (s : State) : Out := .next (commitOp s)

end Sys2Proof.Machine
end

