-- ==== Sys2Proof/Machine/Boundary.lean ====
section
/-! DEFINITION. What takes effect at a step boundary before the next step is composed (R325, R332 to R350): ends, discards,
pauses, resumes, suspensions, holds, rebinds, disables, freed tints; and the conditions under which no step may begin (R260, R350,
R414, R426, R478, R490, R491). -/

namespace Sys2Proof.Machine

/-! ## Conditions -/

/-- A hold, a power warning or a junction hold keeps steps from beginning (R487, R490, R491). -/
def holding (s : State) : Bool :=
  s.pwr.holdPin || s.pwr.holdReq || s.pwr.tjHold || s.pwr.warnPin || s.pwr.intWarn

/-- The canvas serves steps: its STATE is serving and nothing holds it. -/
def serving (s : State) (c : Nat) : Bool := (cnvOf s c).st == 2 && !(cnvOf s c).fence && !(cnvOf s c).neighbour

/-- A canvas that admission waits for: loading, held or paused for a fence (R329). -/
def admitting (s : State) (c : Nat) : Bool := serving s c && (cnvOf s c).loadPh == 0

/-- The cause codes that need no spacing of gaps: START and PROGRAM (R426). -/
def gapAtOnce (due : Nat) : Bool := bitOf due 1 || bitOf due 2

/-- A calibration gap opens at the next boundary (R426): a cluster is due for START or PROGRAM, or another cause and GAP_MIN has passed
since the last gap. -/
def gapDue (s : State) : Bool :=
  !holding s && s.cal.cls.any fun e => e.2.due != 0 &&
    (gapAtOnce e.2.due || !s.cal.anyGap || decide (s.cal.gapUs + 250000 * s.cal.gapMin ≤ s.clk.us))

/-- A due fence can start: no other fence runs in its cluster (R414, R416), and no image that it needs is lost (R298). -/
def fenceStartable (s : State) (f : Fence) : Bool :=
  f.ph == 0 && !(s.hist.fences.any fun g => g.ph != 0 && clusterOf g.core == clusterOf f.core)
    && !(s.kv.lostImg.any fun i => coreOf i.2 == f.core)

/-- Steps may be composed (R260, R350, R414, R426, R478): the module is active, none is in flight, no gap is due or open, no fence is
to start, and the energy account or the 25.6 ms bound allows it. -/
def mayStep (s : State) : Bool :=
  s.sch.cur.isNone && s.pwr.state == 2 && s.dev.row == 7 && !holding s && !s.cal.gap && !gapDue s
    && !(s.hist.fences.any (fenceStartable s)) && !s.hist.inRepl && (decide (0 ≤ s.sch.account) || s.sch.spaced)

/-! ## States (R325) -/

/-- The state under a hold or a suspension. -/
def baseState (e : Entry) : RState := if e.st = .held ∨ e.st = .suspended then e.ret else e.st

/-- QUEUED, PREFILL or DECODE. -/
def stepping (st : RState) : Bool := st == .queued || st == .prefill || st == .decode

/-- TIME of expiry of a timer in seconds that runs in operating hours (R541). -/
def afterSec (s : State) (sec : Nat) : Nat := s.clk.hours + 10 * sec

/-- A request leaves the steps for the far tier; a queued one has no pages to move (R325, R345). -/
def beginPause (ix : Nat) (s : State) : State :=
  let e := entryOf s ix
  let b := baseState e
  if b = .queued ∧ e.pages = [] then
    let s1 := modEntry ix (fun x => { x with st := .paused, ret := .queued, resv := 0, pendPause := false, ttlEnd := afterSec s e.ttl }) s
    if e.drainPause then complete ix 10 s1 else s1
  else modEntry ix (fun x => { x with st := .pausing, ret := b, pendPause := false }) s

/-- A resume granted earlier takes effect: PAUSED to RESUMING, or PAUSING back to its return state (R325, R347). -/
def beginResume (ix : Nat) (s : State) : State :=
  let e := entryOf s ix
  if e.exporting then s
  else if e.st = .paused then modEntry ix (fun x => { x with st := .resuming, pendResume := false }) s
  else if e.st = .pausing then
    modEntry ix (fun x => { x with st := if e.cont then .prefill else e.ret, cont := false, pendResume := false }) s
  else modEntry ix (fun x => { x with pendResume := false }) s

/-- Suspension with its session's lease, and its end (R349). -/
def suspendOp (ix : Nat) (s : State) : State :=
  let e := entryOf s ix
  let q := sesOf s e.ses
  if q.lapsed && (stepping e.st || e.st == .held) then modEntry ix (fun x => { x with st := .suspended, ret := baseState e }) s
  else if !q.lapsed && q.live && e.st == .suspended then modEntry ix (fun x => { x with st := e.ret }) s
  else s

/-- HELD while the canvas does not serve or the module holds, and its end (R344, R350). -/
def heldOp (ix : Nat) (s : State) : State :=
  let e := entryOf s ix
  let hold := !serving s e.canvas || holding s
  if hold && stepping e.st && e.waitHdr.isNone then modEntry ix (fun x => { x with st := .held, ret := e.st }) s
  else if !hold && e.st == .held then modEntry ix (fun x => { x with st := e.ret }) s
  else s

/-- A submission that waited for its canvas is admitted once it serves (R329). -/
def admitWaiting (ix : Nat) (s : State) : State :=
  let e := entryOf s ix
  match e.waitHdr with
  | some h => if admitting s e.canvas then
      replyLate h 0 0 (entryHandle ix e) [] (modEntry ix (fun x =>
        { x with waitHdr := none, saved := none, pendResume := x.pendResume || (x.saved.isSome && x.st == .paused)
                 cont := x.cont || (x.saved.isSome && x.st == .paused)
                 st := if x.saved.isSome ∧ x.st = .queued then .prefill else x.st }) s)
    else s
  | none => s

/-- Every pending event of one entry, in the order of R325. -/
def boundaryEntry (s : State) (ix : Nat) : State :=
  let e := entryOf s ix
  if e.st = .free ∨ e.st = .retiring then s
  else if e.pendDiscard && (e.st == .idle || e.st == .paused) && !e.exporting then retire ix s
  else
    let dead := running e && e.st != .pausing && deadlinePassed s e
    let why := if e.pendCancel.isSome then e.pendCancel else if dead then some 3
      else if disabling s e && running e then some 4 else none
    match why with
    | some st => if running e || (e.st == .paused && e.fin.isNone) then retireWith ix st s
      else modEntry ix (fun x => { x with pendCancel := none }) s
    | none =>
      let s1 := if e.pendRebind then
          modEntry ix (fun x => { x with pendRebind := false, tver := tintCurrent s e.ptn e.tint }) s else s
      let due := e.pendPause || (idleDue s e && e.waitHdr.isNone && pauseFits s ix)
      let s2 := if due && e.poison.isEmpty && (running e || e.st == .idle) && e.st != .pausing && e.st != .resuming then beginPause ix s1 else s1
      let s3 := if e.pendResume then beginResume ix s2 else s2
      heldOp ix (suspendOp ix (admitWaiting ix s3))

/-! ## Partitions, canvases, tints (R340 to R342, R387) -/

/-- A disable of a partition takes effect; a disabled sealed partition that holds no entry loses its key (R341, R387). -/
def disablePtn (s : State) (n : Nat) : State :=
  let p := ptnOf s n
  if p.enable then s
  else if p.enabled || (p.key != 0 && p.sealed) then
    modPtn n (fun q => { q with enabled := false, key := if p.sealed ∧ entryUsed s n = 0 then 0 else q.key }) s
  else s

/-- The enables of a canvas and of its sketch model take effect; drafts of a disabled sketch are discarded (R341, R342). -/
def settleCnv (s : State) (c : Nat) : State :=
  let v := cnvOf s c
  let s1 := if v.sketchOn && !v.sketchEn then
      (entriesWhere s fun e => e.canvas == c && e.ctl.psrc == 0).foldl (fun t ix => modEntry ix (fun x => { x with next := [] }) t) s
    else s
  if v.enabled == v.enable && v.sketchOn == v.sketchEn then s1
  else modCnv c (fun x => { x with enabled := x.enable, sketchOn := x.sketchEn }) s1

/-- A canvas has a plane in a physical engine. -/
def engineUsed (s : State) (c eng : Nat) : Bool :=
  match (cnvOf s c).bundle with
  | some b => b.images.any fun m => engineNo m.array == engineNo eng && corePos s (clusterOf m.array) (coreNo m.array) == some (coreOf eng)
  | none => false

/-- Canvases that are held while a lost master image is read back (R298): those with a plane in its engine. -/
def holdLost (s : State) : State :=
  (s.kv.lostImg.filter fun i => !(cnvOf s i.1).awaitImg).foldl (fun t i =>
    ((List.range 4).filter fun c => (cnvOf t c).st == 2 && engineUsed t c (engineOf i.2)).foldl
      (fun u c => modCnv c (fun v => { v with lostHold := true }) (holdCanvas c u)) t) s

/-- A live update of SCH or CCC takes the boundary; while it is provisional each boundary writes a revert record (R455, R456). -/
def updateWork (s : State) : State :=
  match s.sec.upd with
  | some u =>
    if s.sec.updNow then { s with sec := { s.sec with upd := some { u with us := s.clk.us, step := s.sch.stepNo }, updNow := false } }
    else if u.cls = 2 ∨ u.cls = 4 then { s with sec := { s.sec with revert := s.sch.stepNo } }
    else s
  | none => s

/-- Everything pending takes effect at the boundary. -/
def boundaryWork (s : State) : State :=
  let s0 := updateWork (holdLost (auditOff s))
  let s1 := ((heldEntries s0).map (·.1)).foldl boundaryEntry s0
  let s2 := (List.range 4).foldl settleCnv (allPtns.foldl disablePtn s1)
  s2.ptn.foldl (fun t p => p.2.tints.foldl (fun u k => freeTints p.1 k.1 u) t) s2

/-- The copy of the request table in the far tier's region (R540). -/
def writeRegion (s : State) : State :=
  let parts (n : Nat) : List (Nat × Nat) := allPtns.flatMap fun p => (List.range n).map fun k => (p, p * n + k)
  let r : Region :=
    { entries := s.req.entries, retired := s.req.retired, fresh := s.req.fresh
      sess := (s.net.sess.filter fun e => e.2.live && e.2.attachOk).map fun e => (e.1, (e.2.role, e.2.attach))
      cqs := (parts 4).foldl (fun t x => tput [] t x.2 (tget [] (ptnOf s x.1).cqs (x.2 % 4))) []
      tints := (parts 16).foldl (fun t x => tput TintSlot.init t x.2 (tintSlot s x.1 (x.2 % 16))) [] }
  { s with req := { s.req with region := some r } }

end Sys2Proof.Machine
end

