-- ==== Sys2Proof/Machine/Compose.lean ====
section
/-! DEFINITION. Step composition (R227 to R231, R292, R294, R314, R332, R333): the choice of canvas, requests, positions, template
and variant, the lanes' descriptors, and the STEP_BOUNDARY tokens; and the scheduler's small events. -/

namespace Sys2Proof.Machine

/-! ## The next pass of a request (R314, R320) -/

/-- The kept nodes of a tree draft: node 0, then greatest LOGP among the nodes whose parent is kept, lowest index of equals. -/
def keepNodes (ns : List Node) : Nat → List Nat → List Nat
  | 0, ks => ks
  | n + 1, ks =>
    let open_ := (ns.zipIdx).filter fun e => !ks.contains e.2 && ks.contains e.1.parent
    match open_.foldl (fun (a : Option (Node × Nat)) e => match a with
        | none => some e
        | some b => if fLt b.1.logp e.1.logp then some e else a) none with
    | some e => keepNodes ns n (ks ++ [e.2])
    | none => ks

/-- A tree pass of at most `w` nodes: parents and tokens, with the bonus token at node 0. -/
def treePass (ns : List Node) (w last : Nat) : List Nat × List Nat :=
  let kept := (List.range ns.length).filter (keepNodes ns (w - 1) [0]).contains
  let ix (p : Nat) : Nat := (findIx (· == p) kept 0).getD 0
  (kept.map fun k => ix (nth default ns k).parent, last :: (kept.drop 1).map fun k => (nth default ns k).token)

/-- Parents and inputs of a request's next pass, at most `w` wide. -/
def nextPass (s : State) (e : Entry) (w : Nat) : List Nat × List Nat :=
  let last := e.toks.getLast?.getD 0
  if e.next.isEmpty || decide (w < 2) || (e.ctl.psrc == 0 && !(cnvOf s e.canvas).sketchOn) then ([0], [last])
  else if e.ctl.tree = 1 then treePass e.next w last
  else
    let ns := e.next.take w
    ((List.range ns.length).map (· - 1), last :: (ns.drop 1).map (·.token))

/-! ## Order and choice (R332, R333) -/

/-- A request that can run: its state, no page awaiting repair, nothing that waits for admission. -/
def isReady (e : Entry) : Bool := stepping e.st && e.poison.isEmpty && !e.killAcct && e.waitHdr.isNone

/-- Order of requests: priority class, then deadline with none last, then admission time. -/
def goesFirst (a b : Nat × Entry) : Bool :=
  let dl (e : Entry) : Nat := if e.deadline = 0 then 2 ^ 128 else e.admUs + e.deadline
  if a.2.prio ≠ b.2.prio then decide (a.2.prio < b.2.prio)
  else if dl a.2 ≠ dl b.2 then decide (dl a.2 < dl b.2)
  else decide (a.2.admUs < b.2.admUs)

def insertBy {α : Type} (before : α → α → Bool) (x : α) : List α → List α
  | [] => [x]
  | y :: ys => if before x y then x :: y :: ys else y :: insertBy before x ys

/-- A stable order: an element goes before those it precedes, after its equals. -/
def orderBy {α : Type} (before : α → α → Bool) (l : List α) : List α := l.foldl (fun a x => insertBy before x a) []

/-- Ready requests of a canvas in order. -/
def readyOf (s : State) (c : Nat) : List (Nat × Entry) :=
  orderBy goesFirst (s.req.entries.filter fun e => e.2.canvas == c && isReady e.2)

/-- Pass 1 takes each partition's requests up to its lane share; pass 2 the rest. -/
def takeOrder (s : State) (r : List (Nat × Entry)) : List (Nat × Entry) :=
  let p1 := allPtns.flatMap fun n => (r.filter fun e => e.2.ptn == n).take (ptnOf s n).share
  p1 ++ r.filter fun e => !p1.any fun x => x.1 == e.1

/-- The canvas whose turn it is: the next one after the last served that is enabled, serves, and has a ready request. -/
def nextCanvas (s : State) : Option Nat :=
  ([1, 2, 3, 4].map fun k => (s.sch.turn + k) % 4).find? fun c =>
    serving s c && (cnvOf s c).bundle.isSome && !(readyOf s c).isEmpty

/-! ## Positions (R276, R279, R294) -/

/-- The SCORE instructions of a canvas's templates: SBUF and NQH (R212). -/
def scoresOf (b : Bundle) : List (Nat × Nat) :=
  (b.templates.flatMap fun t => (t.v0.tables ++ t.v1.tables).flatMap fun q =>
    if sidUnit q.sid = 33 then (q.bundles.filter fun w => fld w 32 4 == 8).map fun w => (fld w 62 4, fld w 68 4) else []).dedup

/-- A lane's scores fit in the score buffers. -/
def scoreFits (sc : List (Nat × Nat)) (ctx n : Nat) : Bool :=
  sc.all fun q => decide (q.2 * n * (256 * ceilDiv (ceilDiv (ctx + n) 256) 4) ≤ 131072 * (16 - q.1))

/-- The most positions up to `n` that fit. -/
def mostPos (sc : List (Nat × Nat)) (ctx : Nat) : Nat → Nat
  | 0 => 0
  | n + 1 => if scoreFits sc ctx (n + 1) then n + 1 else mostPos sc ctx n

/-- Some template covers the lanes, positions, verify width and context of a step. -/
def covers (t : Template) (lanes pos w ctx : Nat) : Bool :=
  let d := declOf t
  decide (lanes ≤ d.lanes) && decide (pos ≤ d.npos) && decide (w ≤ d.wmax) && decide (ctx ≤ d.ctx)

/-- Templates that cover a step, with their numbers. -/
def covering (b : Bundle) (lanes pos w ctx : Nat) : List (Template × Nat) :=
  (b.templates.zipIdx).filter fun t => covers t.1 lanes pos w ctx

/-- The smaller of two templates: by lanes, positions, verify width, context. -/
def smaller (a b : Template × Nat) : Bool :=
  let d := declOf a.1
  let e := declOf b.1
  if d.lanes ≠ e.lanes then decide (d.lanes < e.lanes)
  else if d.npos ≠ e.npos then decide (d.npos < e.npos)
  else if d.wmax ≠ e.wmax then decide (d.wmax < e.wmax)
  else decide (d.ctx < e.ctx)

/-- Lanes, positions, verify width and context taken so far. -/
structure Load where
  lanes : Nat
  pos   : Nat
  w     : Nat
  ctx   : Nat
  deriving DecidableEq, Repr

/-- The widest pass of at most `n` positions that some template still covers beside the lanes taken; `wide` says that each position widens the
verify width (R332; log entry 102). -/
def mostCovered (b : Bundle) (a : Load) (ctx : Nat) (wide : Bool) : Nat → Nat
  | 0 => 0
  | n + 1 =>
    if (covering b (a.lanes + 1) (a.pos + (n + 1)) (max a.w (if wide then n + 1 else 1)) (max a.ctx (ctx + (n + 1)))).isEmpty
    then mostCovered b a ctx wide n else n + 1

/-- A lane for a request of the step, or none when the step has no room for it. -/
def laneFor (s : State) (b : Bundle) (a : Load) (lane ix : Nat) (e : Entry) : Option Lane :=
  let room := 512 - a.pos
  let base : Lane :=
    { lane := lane, index := ix, handle := entryHandle ix e, ptn := e.ptn, canvas := e.canvas,
      floor := b2n (cnvOf s e.canvas).floor, w := 1, mask := 0, pos := e.kv, ctx := e.kv, ptroot := e.ptroot, mroot := 0,
      tint := e.tint, tbound := e.tbound, tver := e.tver, npos := 1, ctl := e.ctl, parent := [0], inputs := [], last := true }
  if e.st = .decode then
    let wide := mostCovered b a e.kv true (mostPos (scoresOf b) e.kv (min (min (wMax b) 8) (min room (e.bound + 8 - e.kv))))
    let p := nextPass s e wide
    let w := p.2.length
    if wide = 0 then none
    else some { base with
      w := w, npos := w, parent := p.1, inputs := p.2
      mask := if e.ctl.tree = 1 ∧ 2 ≤ w then 2 else 0
      ctl := { e.ctl with nprop := min e.ctl.nprop (e.bound + 24 - (e.kv + w)) } }
  else
    let left := e.toks.length - e.kv
    let masked := !e.maskArea.isEmpty && decide (e.maskBase ≤ e.kv)
    let n := mostCovered b a e.kv false (mostPos (scoresOf b) e.kv (min (if e.maskArea.isEmpty || masked then left else e.maskBase - e.kv) room))
    if n = 0 then none
    else some { base with
      npos := n, inputs := (e.toks.drop e.kv).take n, last := n == left
      mask := if masked then 2 else 0 }

/-- The load with one lane more. -/
def addLoad (a : Load) (l : Lane) : Load :=
  { lanes := a.lanes + 1, pos := a.pos + l.npos, w := max a.w l.w, ctx := max a.ctx (l.ctx + l.npos) }

/-- Lanes in order until the step is full or no template covers one more; a request that no template covers by itself keeps no other from it. -/
def takeLanes (s : State) (b : Bundle) : List (Nat × Entry) → Load → List Lane → List Lane
  | [], _, ls => ls
  | e :: es, a, ls =>
    if 256 ≤ a.lanes then ls
    else match laneFor s b a a.lanes e.1 e.2 with
      | none => if ls.isEmpty then takeLanes s b es a ls else ls
      | some l =>
        let a1 := addLoad a l
        if (covering b a1.lanes a1.pos a1.w a1.ctx).isEmpty then ls else takeLanes s b es a1 (ls ++ [l])

/-! ## What the scheduler core writes before the step (R230, R290, R294) -/

/-- Pages and masks of a lane, and its entry's new state. -/
def prepareLane (b : Bundle) (s : State) (l : Lane) : State :=
  let e := entryOf s l.index
  let s1 := ensureSlots l.index (mainLayerList b) l.ctx (l.ctx + l.npos) s
  let s2 := ensureSlots l.index (sketchLayerList b) l.ctx (l.ctx + l.npos + (if l.ctl.psrc = 0 ∧ 2 ≤ l.ctl.nprop then l.ctl.nprop else 0)) s1
  let s3 := if l.mask ≠ 2 then s2
    else if 2 ≤ l.w then writeMask l.index (treeMask l.ctx l.w l.parent) s2
    else writeMask l.index (chunkMask e.maskArea (l.ctx - e.maskBase) l.npos) s2
  modEntry l.index (fun x => { x with st := if x.st = .queued then .prefill else x.st, lastStep := s.sch.stepNo + 1 }) s3

/-- The descriptor's roots, once the pages stand (R228). -/
def withRoots (s : State) (l : Lane) : Lane :=
  let e := entryOf s l.index
  { l with ptroot := e.ptroot, mroot := if l.mask = 2 then e.mroot else 0 }

/-! ## The hot page cache's resident set (R292, R293) -/

/-- Active requests: a lane in one of the last 16 steps; by priority class, then admission time. -/
def activeEntries (s : State) : List (Nat × Entry) :=
  orderBy (fun a b => if a.2.prio ≠ b.2.prio then decide (a.2.prio < b.2.prio) else decide (a.2.admUs < b.2.admUs))
    (s.req.entries.filter fun e => e.2.st != .free && e.2.lastStep != 0 && decide (s.sch.stepNo < e.2.lastStep + 16))

/-- Slices of a request in a cluster, most recent page first, with their sizes in 2 KiB lines. -/
def slicesOf (s : State) (die cl : Nat) (ix : Nat) (e : Entry) : List (SliceId × Nat) :=
  match (cnvOf s e.canvas).bundle with
  | none => []
  | some b =>
    ((List.range (ceilDiv e.kv 256)).reverse.filter fun j => j % 4 == cl).flatMap fun j =>
      (mainLayerList b ++ sketchLayerList b).flatMap fun k =>
        ((List.range 8).filter fun u => decide (u * 8 + die < b.kvHeads)).map fun u =>
          ({ index := ix, page := j, layer := k, head := u }, if e.kvfmt = 1 then 17 else 32)

/-- Slices taken while the space lasts; the first that does not fit ends the plan. -/
def takeSpace : Nat → List (SliceId × Nat) → List SliceId
  | _, [] => []
  | sp, x :: xs => if sp < x.2 then [] else x.1 :: takeSpace (sp - x.2) xs

/-- A cluster's plan `p`: a slice that leaves the resident set is dropped. -/
def setPlan (cl : Nat) (p : List SliceId) (s : State) : State :=
  { s with kv := { s.kv with plan := tput [] s.kv.plan cl p
                             filled := tput [] s.kv.filled cl ((tget [] s.kv.filled cl).filter p.contains) } }

/-- The plan of every attention cluster. -/
def planCaches (s : State) : State :=
  let act := activeEntries s
  (List.range 32).foldl (fun t k => setPlan (mkCluster (24 + k / 4) (k % 4))
    (takeSpace 49152 (act.flatMap fun e => slicesOf s (k / 4) (k % 4) e.1 e.2)) t) s

/-! ## STEP_COMPOSE -/

/-- NOA8 requests whose step would run variant 1 are retired (R356). -/
def retireNoa8 (c : Nat) (s : State) : State :=
  if (cnvOf s c).floor then
    ((readyOf s c).filter fun e => e.2.noa8).foldl (fun t e => retireWith e.1 12 t) s
  else s

/-- The sequencers that take part in a variant of a template. -/
def partsOf (s : State) (v : Variant) : List Nat := (v.tables.filterMap fun t => seqOfTable s t.sid).dedup

/-! ### Lane descriptors (R228, R230, R302) -/

/-- PARENT of word 14: three bits for each node from 1 to 7. -/
def parentWord (p : List Nat) : Nat := (List.range 7).foldl (fun a k => a + nth 0 p (k + 1) % 8 * 8 ^ k) 0

/-- The 16 words of a valid lane descriptor. -/
def descWords (l : Lane) : List Nat :=
  let c := l.ctl
  [l.lane % 256 + 2 ^ 8 + l.floor % 2 * 2 ^ 9 + l.w % 16 * 2 ^ 10 + l.mask % 4 * 2 ^ 14 + l.ptn % 16 * 2 ^ 16 + l.canvas % 4 * 2 ^ 20,
   l.handle % 2 ^ 32, l.pos % 2 ^ 32, l.ctx % 2 ^ 32, l.ptroot % 2 ^ 32, l.mroot % 2 ^ 32,
   l.tint % 16 + b2n l.tbound * 2 ^ 4 + l.tver % 2 ^ 16 * 2 ^ 16, l.npos % 1024,
   c.temp.toNat + c.topk % 2 ^ 11 * 2 ^ 16, c.topp.toNat + c.minp.toNat * 2 ^ 16, c.rpen.toNat + c.rscope % 2 * 2 ^ 16,
   c.seed % 2 ^ 32, c.seed / 2 ^ 32 % 2 ^ 32, c.nprop % 32 + c.psrc % 2 * 2 ^ 5 + c.tree % 2 * 2 ^ 6, parentWord l.parent, 0]

/-- The descriptors of a step in the descriptor area of one participating cluster; those of the last step are gone. -/
def writeDescs (ls : List Lane) (s : State) (cl : Nat) : State :=
  let old : Tab (List Nat) := tkeep (fun k => k / 256 * 256 != cl) s.seq.descs
  { s with seq := { s.seq with descs := ls.foldl (fun t l => tput [] t (cl + l.lane) (descWords l)) old } }

/-- Every descriptor of a step in every participating cluster, each write acknowledged (R230; log entry 96). -/
def sendDescs (r : StepRec) (s : State) : State := (r.parts.map sidCluster).dedup.foldl (writeDescs r.lanes) s

/-- The step of a canvas: its lanes, template and variant; its pages, masks, descriptors and embedding rows; STEP_BOUNDARY to every participant. -/
def startStep (b : Bundle) (c : Nat) (s : State) : State :=
  let ls := takeLanes s b (takeOrder s (readyOf s c)) { lanes := 0, pos := 0, w := 1, ctx := 0 } []
  let a := ls.foldl addLoad { lanes := 0, pos := 0, w := 1, ctx := 0 }
  match ls, (orderBy smaller (covering b a.lanes a.pos a.w a.ctx)).head? with
  | _ :: _, some t =>
    let var := b2n (cnvOf s c).floor
    let v := if var = 1 then t.1.v1 else t.1.v0
    let s1 := stepRamps (fun r => r.k == 0) (ls.foldl (prepareLane b) s)
    let n := s.sch.stepNo + 1
    let r : StepRec :=
      { num := n, canvas := c, tmpl := t.2, var := var, att := 0, lanes := ls.map (withRoots s1)
        parts := partsOf s1 v, done := [], segs := [], gather := none, gatherUs := 0,
        rewind := none, abandoning := false, quiet := [], rewinds := 0, reexec := false, redo := false,
        wdFired := false, missing := [], killed := [], withheld := [], envFail := [], d16Tile := [], verdicts := [],
        startUs := s.clk.us, cmtReady := false, seqSrc := [] }
    let s2 := { s1 with sch := { s1.sch with cur := some r, stepNo := n, turn := c, lastBndUs := s.clk.us,
                                             spaced := false } }
    schedToAll 2 (boundaryArg r) 0 (fetchRows (sendDescs r s2))
  | _, _ => s

/-- The boundary's transitions, the copy of the request table, the cache plan, and the next step when one may begin. -/
def composeOp (s : State) : State :=
  if s.sch.cur.isSome || s.cal.gap || s.dev.row != 7 then s
  else
    let s1 := planCaches (writeRegion (boundaryWork s))
    if !mayStep s1 then s1
    else match nextCanvas s1 with
      | none => s1
      | some c => match (cnvOf s1 c).bundle with
        | some b => startStep b c (retireNoa8 c s1)
        | none => s1

def execStepCompose (s : State) : Out := .next (composeOp s)

/-! ## The scheduler's small events -/

/-- HOT_CACHE_FILL (R293): the fill of a planned slice is complete. -/
def execHotCacheFill (cluster slice : Nat) (s : State) : Out :=
  okIf (isAttCluster cluster)
    (match (tget [] s.kv.plan cluster)[slice]? with
      | some x =>
        let f := tget [] s.kv.filled cluster
        { s with kv := { s.kv with filled := tput [] s.kv.filled cluster (if f.contains x then f else f ++ [x]) } }
      | none => s)

/-- SPACING_TIMEOUT (R478): 25.6 ms have passed since the last STEP_BOUNDARY. -/
def execSpacingTimeout (s : State) : Out :=
  .next (if s.sch.lastBndUs + 25600 ≤ s.clk.us then { s with sch := { s.sch with spaced := true } } else s)

/-- The energy account's cap, and its gain in 10 µs, in µJ (R478): L is in 10 W. -/
def accountCap (s : State) : Int := ((s.pwr.lim * 256000 : Nat) : Int)

/-- ENERGY_METER_SAMPLE (R478, R493): 10 µs of L gained, the metered energy lost; the ENERGY counter takes whole joules. It runs in every
state from STARTING on, but not in SHUTDOWN. -/
def energySample (uj : Nat) (s : State) : State :=
  if s.pwr.off || s.pwr.state == 0 || s.pwr.state == 5 then s
  else
    let a := min (accountCap s) (s.sch.account + ((s.pwr.lim * 100 : Nat) : Int) - ((uj : Nat) : Int))
    { s with
      sch := { s.sch with account := a }
      pwr := { s.pwr with uj := (s.pwr.uj + uj) % 1000000, energy := satAdd 64 s.pwr.energy ((s.pwr.uj + uj) / 1000000) } }

def execEnergyMeterSample (uj : Nat) (s : State) : Out := .next (energySample uj s)

/-- FORMAT_FLOOR_EXPIRY (R146): 4,096 committed steps after its rise the floor is released. -/
def floorExpire (c : Nat) (s : State) : State :=
  let v := cnvOf s c
  if v.floor && v.floorLeft == 0 then
    raiseAll (boundTo s c) { ty := 2, flags := 0, unit := 0, level := 0, args := [c] }
      (fire 8 0 0 0 c (modCnv c (fun x => { x with floor := false }) s))
  else s

def execFormatFloorExpiry (canvas : Nat) (s : State) : Out := okIf (decide (canvas < 4)) (floorExpire canvas s)

end Sys2Proof.Machine
end

