-- ==== Sys2Proof/Machine/Calibrate.lean ====
section
/-! DEFINITION. Calibration (R424 to R444): the gap, the fits of converters and swatch columns, the drift estimates, the agreement
tests, ramps and whole writes, and the CAL events. -/

namespace Sys2Proof.Machine

/-! ## Temperatures (R425, R483) -/

/-- The diode channel of an array or head cluster. -/
def diodeOf (cl : Nat) : Nat :=
  if dieOf cl < 24 then 4 * dieOf cl + clusterNo cl / 4 else 96 + 4 * (dieOf cl - 32) + clusterNo cl

/-- The last valid reading of a cluster's diode, in 0.25 °C as its 16 bits; none before the first. -/
def clusterTemp (s : State) (cl : Nat) : Option Nat :=
  if tget 0 s.pwr.stale (diodeOf cl) % 2 = 1 then some (tget (0, false) s.pwr.chans (diodeOf cl)).1 else none

/-! ## Exhausted arrays (R87, R88) -/

/-- An array is exhausted: EXHAUSTED is recorded, and its core is due for a fence. -/
def exhaustArray (array detail : Nat) (s : State) : State :=
  if s.arr.exhausted.contains array then s
  else recordFault array 4 9 detail true { s with arr := { s.arr with exhausted := s.arr.exhausted ++ [array] } }

/-- A remap that R89 asks for: the column of every named array joins the list and is remapped at the next programming. -/
def wantRemap (array plane col : Nat) (s : State) : State :=
  let s1 := addDigCol array plane col false s
  modDigcol (coreOf array) (fun l => l.map fun d => if isDigCol array plane col d then { d with remap := true } else d)
    { s1 with arr := { s1.arr with remapWant := if s1.arr.remapWant.contains (array, col) then s1.arr.remapWant
                                                else s1.arr.remapWant ++ [(array, col)] } }

/-! ## Fits (R428 to R432) -/

/-- 2v - 31 for vector `v`. -/
def calY (v : Nat) : Int := 2 * (v : Int) - 31

/-- Sum of the codes about 128: 32 times the mean code. -/
def offSum (cs : List Int) : Int := isum (cs.map (· - 128))

/-- Sum of the codes about 128 times 2v - 31; the offset drops out, because these numbers add to 0. -/
def slopeSum (cs : List Int) : Int := isum ((cs.zipIdx).map fun c => (c.1 - 128) * calY c.2)

/-- The two passes agree (R438): gains within 0.004, offsets within 0.5 LSB; `den` is the slope sum of a gain of 1. -/
def passAgree (den : Int) (m : CalMeas) (oa ob : Int) : Bool :=
  decide (1000 * (slopeSum m.a2 - slopeSum m.b2).natAbs ≤ 4 * den.natAbs) && decide ((oa - ob).natAbs ≤ 16)

/-- A pair of table entries lies in their ranges (R432). -/
def inRange (o g : Int) : Bool := decide (-128 ≤ o) && decide (o ≤ 127) && decide (-128 ≤ g) && decide (g ≤ 127)

/-- Slope sum of a converter's gain of 1: the sum of (2v - 31) × 2 (2v - 31). -/
def convDen : Int := 21824

/-- Slope sum of a swatch column's gain of 1: 7/8 of the sum of (2v - 31)^2. -/
def swDen : Int := 9548

/-- Converter-table entry of a converter for a column (R430): o of both passes about S3, c_g; none when it has no gain. -/
def convEntry (m : CalMeas) (flip : Bool) : Option (Int × Int) :=
  let o := offSum m.a3 + offSum m.b3
  let g := slopeSum m.a2 + slopeSum m.b2
  if g ≤ 0 then none
  else
    some (rndAway ((if flip then -o else o) * 16) 64, rndAway ((2 * convDen - g) * 4096) g.natAbs)

/-- Offset and gain error of a swatch column (R431). -/
def swEntry (m : CalMeas) : Int × Int :=
  (rndAway ((offSum m.a2 + offSum m.b2) * 16) 64,
   rndAway ((slopeSum m.a2 + slopeSum m.b2 - 2 * swDen) * 4096) (2 * swDen).natAbs)

/-- Logical columns that a converter converts (R41, R42). -/
def colsOf (s : State) (array conv : Nat) : List Nat := (List.range 64).filter fun j => nth j (colPerm s array) j % 8 == conv

/-- The sign flip that a converter-table column takes: that of the array's first written plane. -/
def colFlip (s : State) (array col : Nat) : Bool :=
  match (List.range 16).find? fun p => tget false s.arr.written (planeKey array p) with
  | some p => flipOf s (planeKey array p) col
  | none => false

/-! ## Where accepted values go (R441, R442) -/

/-- A canvas that serves has a position on this core. -/
def servesCore (s : State) (core : Nat) : Bool :=
  (roleOf s core).2 == 0 && (List.range 4).any fun c => (cnvOf s c).st == 2 &&
    match (cnvOf s c).bundle with
    | some b => b.images.any fun m => clusterOf m.array == clusterOf core && coreNo m.array == (roleOf s core).1
    | none => false

/-- A core takes its values whole: at start, and under PROGRAM when it held no serving position before the gap. -/
def wholeCore (s : State) (core : Nat) : Bool :=
  let due := (calOf s (clusterOf core)).due
  bitOf due 1 || (bitOf due 2 && !servesCore s core)

/-- An accepted value of the converter table or the drift table, placed until the gap's end. -/
def place (core : Nat) (drift : Bool) (key : Nat) (v : Int × Int) (s : State) : State :=
  if wholeCore s core then { s with cal := { s.cal with whole := s.cal.whole ++ [(b2n drift, key, v)] } }
  else { s with cal := { s.cal with placing := s.cal.placing ++ [{ drift := drift, key := key, old := (0, 0), new := v, k := 0 }] } }

/-! ## Discards (R439) -/

/-- One measurement of a cluster is discarded: its count, the event, the cluster's RETRY. -/
def discard (cl key unit level col : Nat) (s : State) : State :=
  let n := tget 0 s.cal.disc key + 1
  let s1 := { s with cal := { s.cal with disc := tput 0 s.cal.disc key n, discards := satAdd 32 s.cal.discards 1 } }
  fire 12 unit level 0 col (modCal cl (fun k => { k with gapDisc := true, discs := max k.discs (min n 3) }) s1)

/-- An accepted measurement clears its count. -/
def accept (key : Nat) (s : State) : State := { s with cal := { s.cal with disc := tput 0 s.cal.disc key 0 } }

def convKey (array conv : Nat) : Nat := (array / 256 * 8 + conv) * 4
def swKey (array ix : Nat) : Nat := (array / 256 * 8 + ix) * 4 + 1
def driftKey (tile col : Nat) : Nat := (tile * 64 + col) * 4 + 2

/-! ## One measurement -/

/-- A converter's measurement (R428 to R430, R432, R438). -/
def measConv (m : CalMeas) (s : State) : State :=
  let cl := clusterOf m.array
  let key := convKey m.array m.conv
  if !passAgree convDen m (offSum m.a3) (offSum m.b3) then
    let s1 := discard cl key m.array 4 m.conv s
    if 3 ≤ tget 0 s1.cal.disc key then exhaustArray m.array m.conv s1 else s1
  else
    let es := (colsOf s m.array m.conv).map fun j => (j, convEntry m (colFlip s m.array j))
    if es.any fun e => match e.2 with | some v => !inRange v.1 v.2 | none => true then exhaustArray m.array m.conv s
    else
      es.foldl (fun t e => match e.2 with
        | some v => place (coreOf m.array) false (m.array / 256 * 64 + e.1) v t
        | none => t) (accept key s)

/-- A swatch column's measurement: its values are written whole at the gap's end. -/
def measSwatch (m : CalMeas) (s : State) : State :=
  let cl := clusterOf m.array
  let key := swKey m.array m.conv
  if !passAgree swDen m (offSum m.a2) (offSum m.b2) then
    let s1 := discard cl key m.array 4 (64 + m.conv) s
    if 3 ≤ tget 0 s1.cal.disc key then exhaustArray m.array (64 + m.conv) s1 else s1
  else
    let v := swEntry m
    if !inRange v.1 v.2 then exhaustArray m.array (64 + m.conv) s
    else
      let s1 := accept key s
      { s1 with cal := { s1.cal with whole := s1.cal.whole ++ [(2, m.array / 256 * 4 + m.conv, v)] } }

/-- A core that calibrates in the gap: its cluster is due, it is not fenced, and it is not being written (R427). -/
def calibrates (s : State) (core : Nat) : Bool :=
  s.cal.gapSet.contains (clusterOf core) && (roleOf s core).2 != 3 &&
    !(s.hist.fences.any fun f => f.spare == core && f.ph == 1) && !(s.arr.rows.any fun r => coreOf r.1 == core)

/-- A measurement of the gap: 32 codes of each list. -/
def measOk (m : CalMeas) : Bool :=
  m.a2.length == 32 && m.b2.length == 32 && (if m.swatch then decide (m.conv < 2)
    else decide (m.conv < 8) && m.a3.length == 32 && m.b3.length == 32)

def measure (s : State) (m : CalMeas) : State :=
  if calibrates s (coreOf m.array) && measOk m then (if m.swatch then measSwatch m s else measConv m s) else s

/-! ## Drift (R433 to R436) -/

/-- Observed mean and spread of one half's column, with its residual gain a and drift b; none when the spread is not positive. -/
def halfEst (t : Stats) (me ve : Half) (col : Nat) : Option (Word × Word) :=
  let n := toF32 (dyOfInt t.n)
  let mo := fdiv (nth 0 t.su col) n
  let vo := fsub (fdiv (nth 0 t.su2 col) n) (fmul mo mo)
  let ms := fdiv t.ssig n
  if !fLt 0 vo then none
  else
    let a := fsqrt (fdiv vo (bfToF32 ve))
    let b := if fLe 0x3E000000 (fabs ms) then fdiv (fsub mo (fmul a (bfToF32 me))) ms else 0
    some (a, b)

/-- The two halves agree (R438). -/
def driftAgree (h0 h1 : Stats) (p q : Word × Word) : Bool :=
  let a0 := f32Dy p.1; let a1 := f32Dy q.1
  let b0 := f32Dy p.2; let b1 := f32Dy q.2
  dyLe (dyMul (dyOfInt 1000) (dyAbs (dySub a0 a1))) (dyMul (dyOfInt 2) (dyAdd a0 a1)) &&
    dyLe (dyMul (dyAbs (dySub b0 b1)) (dyAdd (f32Dy h0.sabs) (f32Dy h1.sabs))) (dyOfInt (h0.n + h1.n))

/-- A dyadic divided by a positive dyadic and rounded away from zero, in units. -/
def dyDivAway (x y : Dy) : Int :=
  let k := x.e - y.e
  if y.m ≤ 0 then 0
  else if 0 ≤ k then rndAway (x.m * 2 ^ k.toNat) y.m.natAbs else rndAway x.m (y.m.natAbs * 2 ^ (-k).toNat)

/-- The new drift entry in table units: δ in 2^-16, ζ in 2^-14. -/
def newDrift (old : Int × Int) (p q : Word × Word) : Int × Int :=
  let a := dyScale (dyAdd (f32Dy p.1) (f32Dy q.1)) (-1)
  let b := dyScale (dyAdd (f32Dy p.2) (f32Dy q.2)) (-1)
  (dyDivAway (dyOfInt (65536 + old.1)) a - 65536, dyDivAway (dyAdd (dyOfInt old.2) (dyScale b 14)) a)

/-- Arrays of an engine tile. -/
def engineTileArrays (s : State) (tile : Nat) : List Nat :=
  let g := (tget TileIn.init s.core.tin (tile * 8)).gsz
  (List.range g).map fun k => mkArray (engineOf tile) (arrayNo tile * g + k)

/-- A column leaves the arrays for D16: its entries, its count, HEALTH and the event (R89, R436, R439). -/
def sendColumn (tile col : Nat) (s : State) : State :=
  let s1 := (engineTileArrays s tile).foldl (fun t a => wantRemap a (planeNo tile) col t) s
  let s2 := { s1 with cal := { s1.cal with calRemaps := satAdd 32 s1.cal.calRemaps 1 } }
  healthUnit (engineOf tile) 3 col (fire 12 (engineOf tile) 3 1 col s2)

/-- One column of an engine tile. -/
def measDrift (tile : Nat) (h0 h1 : Stats) (s : State) (col : Nat) : State :=
  let (me, ve) := tget (0, 0) s.glz.expect (tile * 64 + col)
  let key := driftKey tile col
  let cl := clusterOf tile
  let bad (t : State) : State :=
    let t1 := discard cl key (engineOf tile) 3 col t
    if 3 ≤ tget 0 t1.cal.disc key then recordFault (coreOf tile) 2 11 col false (sendColumn tile col t1) else t1
  match halfEst h0 me ve col, halfEst h1 me ve col with
  | some p, some q =>
    if !driftAgree h0 h1 p q then bad s
    else
      let v := newDrift (tget (0, 0) s.arr.drift (tile * 64 + col)) p q
      if 65536 < 20 * v.1.natAbs ∨ 8192 < v.2.natAbs then sendColumn tile col (accept key s)
      else place (coreOf tile) true (tile * 64 + col) v (accept key s)
  | _, _ => bad s

/-- Both halves of a tile hold 2,048 samples. -/
def sampled (s : State) (tile : Nat) : Bool :=
  decide (2048 ≤ (tget Stats.init s.glz.stats (tile * 2)).n) && decide (2048 ≤ (tget Stats.init s.glz.stats (tile * 2 + 1)).n)

/-- Engine tiles of calibrating cores with statistics enough. -/
def driftTiles (s : State) : List Nat :=
  ((s.glz.stats.map fun e => e.1 / 2).dedup).filter fun t => calibrates s (coreOf t) && sampled s t

def measTile (s : State) (tile : Nat) : State :=
  (List.range 64).foldl (measDrift tile (tget Stats.init s.glz.stats (tile * 2)) (tget Stats.init s.glz.stats (tile * 2 + 1))) s

/-! ## The gap (R426, R427, R443, R444) -/

/-- The MODULE event that carries the counts of gaps. -/
def calEvent (s : State) : State :=
  raiseAll (enabledPtns s) { ty := 5, flags := 3, unit := 0, level := 0, args := [s.cal.modCount, s.cal.modLast] }
    { s with cal := { s.cal with evUs := s.clk.us, evAny := true, evDue := false } }

/-- Lowest cause code of a due mask. -/
def lowCause (due : Nat) : Nat := ((List.range 8).find? (bitOf due)).getD 0

/-- The gap opens: every due cluster measures; accepted values are placed, discarded ones counted. -/
def gapOpen (meas : List CalMeas) (s : State) : State :=
  let due := (s.cal.cls.filter fun e => e.2.due != 0).map (·.1)
  let s1 := { s with cal := { s.cal with gap := true, gapUs := s.clk.us, anyGap := true, gapSet := due, placing := [], whole := [],
                                         modCount := satAdd 32 s.cal.modCount 1, modLast := s.clk.hours } }
  let s2 := if !s1.cal.evAny || decide (s1.cal.evUs + 60000000 ≤ s1.clk.us) then calEvent s1
    else { s1 with cal := { s1.cal with evDue := true } }
  let s3 := due.foldl (fun t cl => modCal cl (fun k =>
    { k with gapDisc := false, gapCause := lowCause k.due, discs := 0, tlast := (clusterTemp t cl).getD k.tlast % 4096 }) t) s2
  (driftTiles s3).foldl measTile (meas.foldl measure s3)

/-- CALIBRATION_GAP_OPEN. -/
def execCalibrationGapOpen (meas : List CalMeas) (s : State) : Out :=
  okIf (meas.all fun m => isArray m.array)
    (if s.sch.cur.isNone && !s.cal.gap && gapDue s && s.dev.row != 0 then gapOpen meas s else s)

/-- A value written whole at the gap's end: converter table, drift table, swatch columns. -/
def writeWhole (w : Nat × Nat × (Int × Int)) (s : State) : State :=
  if w.1 = 2 then { s with arr := { s.arr with swcal := tput (0, 0) s.arr.swcal w.2.1 w.2.2 } }
  else setEntry (w.1 == 1) w.2.1 w.2.2
    { s with glz := { s.glz with ramps := s.glz.ramps.filter fun r => !(r.key == w.2.1 && r.drift == (w.1 == 1)) } }

/-- A new ramp starts from the entry's current value and ends an earlier one (R440, R442). -/
def startRamp (r : Ramp) (s : State) : State :=
  let old := tget (0, 0) (if r.drift then s.arr.drift else s.arr.conv) r.key
  { s with glz := { s.glz with ramps :=
      (s.glz.ramps.filter fun q => !(q.key == r.key && q.drift == r.drift)) ++ [{ r with old := old, k := 0 }] } }

/-- A cluster's calibration is accepted when nothing of it was discarded: its counters, and its due causes cleared; otherwise it is due
for RETRY. -/
def closeCluster (s : State) (cl : Nat) : State :=
  let k := calOf s cl
  if k.gapDisc then calDue 7 cl s
  else
    let tiles := ((s.glz.stats.map fun e => e.1 / 2).dedup).filter fun t => clusterOf t == cl && calibrates s (coreOf t) && sampled s t
    let s1 := { s with glz := { s.glz with stats := tkeep (fun x => !tiles.contains (x / 2)) s.glz.stats } }
    modCal cl (fun c => { c with count := satAdd 32 c.count 1, last := s.clk.hours, cause := c.gapCause, due := 0, hot := 0 }) s1

/-- The planes of a logical position that hold weights for any canvas: array inside the core, plane (R407, R415). -/
def needPlanes (s : State) (cl pos : Nat) : List (Nat × Nat) :=
  (List.range 4).flatMap fun c => match (cnvOf s c).bundle with
    | some b => (b.images.filter fun m => clusterOf m.array == cl && coreNo m.array == pos).map fun m => (m.array % 65536, m.plane)
    | none => []

/-- Every plane of a position stands written on a core. -/
def coreWritten (s : State) (core pos : Nat) : Bool :=
  (needPlanes s (clusterOf core) pos).all fun q => tget false s.arr.written (planeKey (core + q.1) q.2)

/-- The audit copy of a cluster is written. -/
def auditWritten (s : State) (cl pos : Nat) : Bool :=
  match coresIn s cl 2 with
  | c :: _ => coreWritten s c pos
  | [] => false

/-- Spares and audit copies of a calibrated cluster hold their tables now (R407, R415). -/
def settleSpares (s : State) : State :=
  { s with hist := { s.hist with
      fences := s.hist.fences.map fun f => if f.ph == 2 && s.cal.gapSet.contains (clusterOf f.core) then { f with ph := 3 } else f
      audit := s.hist.audit.map fun e => if s.cal.gapSet.contains e.1 && auditWritten s e.1 e.2.pos then (e.1, { e.2 with ready := true }) else e } }

/-- CALIBRATION_GAP_CLOSE, 1.2 ms after its opening. -/
def gapClose (s : State) : State :=
  if s.cal.gap && decide (s.cal.gapUs + 1200 ≤ s.clk.us) then
    let s1 := s.cal.placing.foldl (fun t r => startRamp r t) (s.cal.whole.foldl (fun t w => writeWhole w t) s)
    let s2 := settleSpares (s.cal.gapSet.foldl closeCluster s1)
    { s2 with cal := { s2.cal with gap := false, gapSet := [], placing := [], whole := [] } }
  else s

/-! ## Causes and saves -/

/-- CAL_INTERVAL_EXPIRY (R424): MAXINT seconds of operating hours since the last accepted calibration. -/
def execCalIntervalExpiry (cluster : Nat) (s : State) : Out :=
  okIf (isArrCluster cluster)
    (if s.cal.maxint != 0 && decide ((calOf s cluster).last + 10 * s.cal.maxint ≤ s.clk.hours) then calDue 4 cluster s else s)

/-- CAL_MODULE_EVENT_TIMER (R444): 60 s after the last event, when a gap opened sooner. -/
def execCalModuleEventTimer (s : State) : Out :=
  .next (if s.cal.evDue && decide (s.cal.evUs + 60000000 ≤ s.clk.us) then calEvent s else s)

end Sys2Proof.Machine
end

