-- ==== Sys2Proof/Machine/Integrity.lean ====
section
/-! DEFINITION. Integrity (R14, R17, R28, R406 to R423): the end of a stroke with its audit sample, audit arbitration and rotation,
fences, the drain, unit history, and faults outside the cores. -/

namespace Sys2Proof.Machine

/-! ## Audit samples (R408, R409) -/

/-- The GLR term of a column of a tile, over its strokes' inputs (R173, R174). -/
def glrTerm (s : State) (eng grp gsz plane : Nat) (as : List ArrStroke) (j : Nat) : Dy :=
  let tab := tget GlrTab.init s.glz.glr (tileKey eng grp plane)
  f32Dy (readF32 ((List.range tab.k).foldl (fun q m =>
    awidP q (twoProd (readF32 (glrT s tab grp gsz as plane m Pair.zero))
      (toF32 (dyMul (dyOfInt (nth 0 (nth [] tab.v m) j)) (bfDy (nth 0 tab.sv m)))))) Pair.zero))

/-- A tile's columns after GCOL and GLR, in 2^-16 product units at its largest exponent. -/
def auditVals (s : State) (eng grp gsz plane : Nat) (as : List ArrStroke) (t : Tile) : List Int :=
  let runs := tileRuns t
  let top := runs.foldl (fun m r => max m r.e) 0
  (List.range 64).map fun j =>
    dyAway (dyScale (dyAdd
      (dySum (runs.map fun r => dyScale (f32Dy (gcolU s t.d16 (tileKey eng grp plane) plane r j)) (r.e - top + 1)))
      (dyScale (glrTerm s eng grp gsz plane as j) (127 - top))) 16)

/-- A group of a stroke on the audit copy: the same blocks and band modes, scrambled for the spare (R72, R408). -/
def copyArrays (s : State) (spare : Nat) (k : Stroke) (as : List ArrStroke) : List ArrStroke :=
  as.map fun a => detectBlock s (spare + a.arr % 65536) k.plane a.slot k.f.band (logicalX s k.plane a, a.eps.toNat)

/-- The tile that a group's arrays make. -/
def soloTile (s : State) (k : Stroke) (grp : Nat) (as : List ArrStroke) (dev : Tab Int) : Tile :=
  tileAfter Tile.init { k with low := false, acn := 0 } 0 grp (as.map fun a => contribOf s k.plane a dev)

/-- Deviations of the audit copy's converters: those of an engine's arrays 16 to 31 in the operand. -/
def copyDev (dev : Tab Int) : Tab Int := (dev.filter fun e => decide (8192 ≤ e.1)).map fun e => (e.1 - 8192, e.2)

/-- Two values agree (R409): within 8 + 0.005 of the larger magnitude, in product units. -/
def auditAgree (a b : Int) : Bool :=
  decide (1000 * (a - b).natAbs ≤ 8000 * 65536 + 5 * max a.natAbs b.natAbs)

def auditAgreeAll (a b : List Int) : Bool := (List.range 64).all fun j => auditAgree (nth 0 a j) (nth 0 b j)

/-- One group of a stroke of the audited core: drawn or not; a drawn one is queued with both values, or skipped when the queue is full. -/
def sampleGroup (eng spare : Nat) (k : Stroke) (dev : Tab Int) (s : State) (grp : Nat) : State :=
  let cl := clusterOf eng
  let c := auditOf s cl
  let s1 := modAudit cl (fun x => { x with draws := x.draws + 1 }) s
  if Config.auditDraw cl c.draws % 2 ^ c.frac ≠ 0 then s1
  else if 16 ≤ c.queue.length then { s1 with hist := { s1.hist with skips := satAdd 32 s1.hist.skips 1 } }
  else
    let as := k.arrays.filter fun a => arrayNo a.arr / groupSize k.gsz == grp
    let bs := copyArrays s spare k as
    let orig := auditVals s eng grp (groupSize k.gsz) k.plane as (soloTile s k grp as dev)
    let copy := auditVals s (spare + eng % 65536) grp (groupSize k.gsz) k.plane bs (soloTile s k grp bs (copyDev dev))
    let r : AuditRec := { stroke := k, grp := grp, engine := eng, step := s.sch.stepNo, canvas := (seqOf s k.sid).canvas,
                          orig := orig, copy := copy, bad := !auditAgreeAll orig copy }
    modAudit cl (fun x => { x with queue := x.queue ++ [r] }) s1

/-- The sample of a stroke that ends, on the audited core of a cluster whose copy is in use. -/
def auditSample (eng : Nat) (k : Stroke) (dev : Tab Int) (s : State) : State :=
  let cl := clusterOf eng
  let c := auditOf s cl
  match auditSpare s cl with
  | some spare =>
    if s.hist.auditEn && c.ready && !c.stopped && roleOf s (coreOf eng) == (c.pos, 0) then
      (groupsOf k.gsz k.f.amask).foldl (sampleGroup eng spare k dev) s
    else s
  | none => s

/-- STROKE_END: the front stroke of the engine ends; an audited one may be sampled; what waited for it goes on. -/
def strokeEndAll (eng : Nat) (dev : Tab Int) (tree : Nat) (s : State) : State :=
  match tget [] s.arr.strokes eng with
  | [] => s
  | k :: _ => if strokeDropped s k then strokeEndOp eng dev tree s else auditSample eng k dev (strokeEndOp eng dev tree s)

def execStrokeEnd (engine : Nat) (dev : Tab Int) (tree : Nat) (s : State) : Out :=
  okIf (isEngine engine && decide (tree < 4)) (settle (coreSid (coreOf engine)) (strokeEndAll engine dev tree s))

/-! ## Audit arbitration (R410, R411) -/

/-- A HEALTH event that names the step of a result found wrong. -/
def auditHealth (r : AuditRec) (s : State) : State :=
  raiseAll (boundTo s r.canvas) { ty := 3, flags := 20, unit := r.engine, level := 3, args := [r.step % 2 ^ 24] } s

/-- The first column in which two values disagree. -/
def badCol (a b : List Int) : Nat := ((List.range 64).find? fun j => !auditAgree (nth 0 a j) (nth 0 b j)).getD 0

/-- A disagreement settled by the original's replay: `again` are its values in 2^-16 product units. -/
def settleAudit (spare : Nat) (r : AuditRec) (again : List Int) (s : State) : State :=
  let o := auditAgreeAll again r.orig
  let c := auditAgreeAll again r.copy
  let col := badCol r.orig r.copy
  let se := spare + r.engine % 65536
  let row (n : Nat) (t : State) : State := fire 13 r.engine 3 n col t
  let s1 := { s with hist := { s.hist with diffs := satAdd 32 s.hist.diffs 1 } }
  let fenced := (roleOf s (coreOf r.engine)).2 == 3
  if (o && c) && !fenced then row 0 s1
  else if o && !fenced then recordFault se 3 5 col false (row 1 s1)
  else if c && !fenced then auditHealth r (recordFault r.engine 3 4 col false (row 2 s1))
  else auditHealth r (recordFault se 3 6 col false (recordFault r.engine 3 6 col false (row 3 s1)))

/-- AUDIT_ARBITRATION: at a boundary, the oldest sample of the cluster is settled. -/
def auditArbitrate (cl : Nat) (again : List Int) (s : State) : State :=
  match (auditOf s cl).queue, auditSpare s cl with
  | r :: rs, some spare =>
    if s.sch.cur.isSome then s
    else
      let s1 := modAudit cl (fun x => { x with queue := rs }) s
      if r.bad then settleAudit spare r again s1 else s1
  | _, _ => s

def execAuditArbitration (cluster : Nat) (again : List Int) (s : State) : Out :=
  okIf (isArrCluster cluster) (auditArbitrate cluster again s)

/-! ## Wear (R102, R103) -/

/-- A write of a core adds one program cycle; at 9,000 a HEALTH event names it. -/
def addCycle (core : Nat) (s : State) : State :=
  let n := satAdd 16 (tget 0 s.hist.cycles core) 1
  let s1 := { s with hist := { s.hist with cycles := tput 0 s.hist.cycles core n, dirty := true } }
  if n = 9000 then healthUnit core 2 18 s1 else s1

/-- A write of a core, or, at its rated cycles, its retirement: its spare is written instead. -/
def wearCore (s : State) (core : Nat) : State :=
  if 10000 ≤ tget 0 s.hist.cycles core then recordFault core 2 10 0 true s else addCycle core s

/-- Planes of a core are to be written anew. -/
def unwrite (core : Nat) (s : State) : State :=
  { s with arr := { s.arr with written := tkeep (fun k => coreOf k != core) s.arr.written
                               rows := tkeep (fun k => coreOf k != core) s.arr.rows } }

/-! ## Who holds what -/

/-- The core that serves a position: the active one, or the spare of a running fence (R223, R415). -/
def homeCore (s : State) (cl pos : Nat) : Option Nat :=
  match corePos s cl pos with
  | some c => some c
  | none => (s.hist.fences.find? fun f => f.ph != 0 && clusterOf f.core == cl && (roleOf s f.core).1 == pos).map (·.spare)

/-- The position whose weights a physical core holds or receives. -/
def posServed (s : State) (core : Nat) : Option Nat :=
  let r := roleOf s core
  if r.2 = 0 then some r.1
  else if r.2 = 2 then some (auditOf s (clusterOf core)).pos
  else (s.hist.fences.find? fun f => f.ph != 0 && f.spare == core).map fun f => (roleOf s f.core).1

/-- The physical plane of an image. -/
def homePlane (s : State) (m : PlaneImage) : Option Nat :=
  (homeCore s (clusterOf m.array) (coreNo m.array)).map fun c => planeKey (c + m.array % 65536) m.plane

/-- A plane that is to be written: its master image is there, and it does not stand written. -/
def toWrite (s : State) (array plane : Nat) : Bool :=
  (tget none s.kv.master (planeKey array plane)).isSome && !tget false s.arr.written (planeKey array plane)

/-- A plane of an engine is to be written. -/
def engineToWrite (s : State) (eng : Nat) : Bool :=
  s.kv.master.any fun e => engineOf e.1 == eng && !tget false s.arr.written e.1

/-- A canvas waits for writes: a plane in an engine that it uses is to be written (R86, R93). -/
def mustWait (s : State) (c : Nat) : Bool :=
  match (cnvOf s c).bundle with
  | some b => b.images.any fun m => match homePlane s m with | some pk => engineToWrite s (engineOf pk) | none => false
  | none => false

/-! ## Column remaps and the programming of an engine (R85 to R89, R161) -/

/-- A pass over one column of a plane, beside those that are pending on it; it begins at the first row. -/
def sparePass (col : Nat) (s : State) (pk : Nat) : State :=
  let r := tget RowProg.init s.arr.rows pk
  { s with arr := { s.arr with
      written := tput false s.arr.written pk false
      rows := tput RowProg.init s.arr.rows pk { RowProg.init with only := (r.only ++ [col]).dedup, g0 := r.g0 } } }

/-- Planes of an array that hold weights: they stand written, or wait for a pass over some columns. -/
def heldPlanes (s : State) (array : Nat) : List Nat :=
  ((List.range 16).map (planeKey array)).filter fun pk =>
    tget false s.arr.written pk || !(tget RowProg.init s.arr.rows pk).only.isEmpty

/-- A data column, by its physical place, is remapped to the lowest free spare, on every plane that holds weights; a spare that stood for it before is
left. A fifth remap exhausts the array. The passes add a program cycle, if there are any; a core at its rated cycles is retired instead (R102,
R103). -/
def remapCol (array col : Nat) (s : State) : State :=
  let r := (tget [] s.arr.remap array).map fun c => if c = col then 255 else c
  let planes := heldPlanes s array
  if 4 ≤ r.length then exhaustArray array col s
  else if !planes.isEmpty && decide (10000 ≤ tget 0 s.hist.cycles (coreOf array)) then wearCore s (coreOf array)
  else
    let s1 := { s with arr := { s.arr with remap := tput [] s.arr.remap array (r ++ [col]) } }
    planes.foldl (sparePass (68 + r.length)) (if planes.isEmpty then s1 else addCycle (coreOf array) s1)

/-- Programming an engine: the remaps that R89 asked for on its arrays are made, and its list entries leave (R161). -/
def programEngine (eng : Nat) (s : State) : State :=
  let want := s.arr.remapWant.filter fun w => engineOf w.1 == eng
  let s1 := { s with arr := { s.arr with
    remapWant := s.arr.remapWant.filter fun w => engineOf w.1 != eng
    digcol := s.arr.digcol.foldl (fun t e => tput [] t e.1 (e.2.filter fun d => engineOf d.array != eng)) [] } }
  want.foldl (fun t w => remapCol w.1 (nth w.2 (colPerm t w.1) w.2) t) s1

/-- Programming a whole core. -/
def programCore (core : Nat) (s : State) : State := (List.range 16).foldl (fun t e => programEngine (mkEngine core e) t) s

/-- What belongs to a position goes from one core to another: its master images, its excluded weights, its expected statistics. -/
def copyPos (src dst : Nat) (s : State) : State :=
  let s1 := clearPos dst s
  { s1 with
    kv := { s1.kv with master := (tkeep (fun k => coreOf k == src) s.kv.master).foldl (fun t e => tput none t (dst + e.1 % 65536) e.2) s1.kv.master }
    glz := { s1.glz with
      outl := (tkeep (fun k => coreOf k == src) s.glz.outl).foldl (fun t e => tput ([], []) t (dst + e.1 % 65536) (e.2.1, [])) s1.glz.outl
      expect := (tkeep (fun k => coreOf (k / 64) == src) s.glz.expect).foldl
        (fun t e => tput (0, 0) t ((dst + e.1 / 64 % 65536) * 64 + e.1 % 64) e.2) s1.glz.expect } }

/-! ## Audit rotation (R406, R407, R411) -/

/-- Audit mode stops in a cluster; its spare returns to STATE 1. -/
def auditStop (cl : Nat) (s : State) : State :=
  let s1 := match auditSpare s cl with | some c => clearPos c (setRole c 31 1 s) | none => s
  fire 13 cl 1 4 0 (modAudit cl (fun x => { x with stopped := true, ready := false, queue := [] }) s1)

/-- What belongs to a core's silicon is dropped: its digital column list and its statistics (R180, R434). -/
def dropSilicon (core : Nat) (s : State) : State :=
  { s with
    arr := { s.arr with digcol := tput [] s.arr.digcol core [] }
    glz := { s.glz with stats := tkeep (fun k => coreOf (k / 2) != core) s.glz.stats } }

/-- A spare takes what belongs to the position of a core, and is to be written with it: its own list starts empty, and wanted remaps are made
(R89, R180). -/
def fillSpare (core spare : Nat) (s : State) : State :=
  addCycle spare (programCore spare (dropSilicon spare (unwrite spare (copyPos core spare s))))

/-- The copy of a cluster moves to a position: every plane of it is written onto the spare. -/
def auditMove (cl spare pos : Nat) (s : State) : State :=
  modAudit cl (fun x => { x with pos := pos, us := s.clk.us, ready := false, queue := [], frac := s.hist.frac, period := s.hist.period })
    (match corePos s cl pos with | some c => fillSpare c spare (setRole spare 31 2 s) | none => setRole spare 31 2 s)

/-- AUDIT_ROTATION: at a step boundary (R224; log entry 60), the first copy of a cluster, or the next position once the period has passed; a copy whose core has
reached 9,000 cycles is given up (R411). -/
def auditRotate (cl : Nat) (s : State) : State :=
  let c := auditOf s cl
  if s.sch.cur.isSome || !s.hist.auditEn || c.stopped || holding s || s.hist.fences.any (fun f => clusterOf f.core == cl) then s
  else match auditSpare s cl with
    | some spare =>
      if 9000 ≤ tget 0 s.hist.cycles spare then (if coreInPass s spare then s else auditStop cl s)
      else if s.clk.us < c.us + 1000000 * c.period then s
      else auditMove cl spare ((c.pos + 1) % 30) s
    | none => match (coresIn s cl 1).getLast? with
      | some spare => if 9000 ≤ tget 0 s.hist.cycles spare then auditStop cl s else auditMove cl spare c.pos s
      | none => s

def execAuditRotation (cluster : Nat) (s : State) : Out := okIf (isArrCluster cluster) (auditRotate cluster s)

/-! ## Fences (R180, R414 to R416) -/

/-- The canvases that are held for fences: those with a position in a cluster that is fencing. -/
def fenceCanvases (s : State) : List Nat :=
  (s.hist.fences.filter (·.ph != 0)).flatMap fun f => canvasesOn s (clusterOf f.core)

/-- A canvas goes to HELD for a fence. -/
def holdForFence (s : State) (c : Nat) : State := modCnv c (fun v => { v with fence := true }) (holdCanvas c s)

/-- A canvas that nothing holds any more serves again. -/
def unhold (c : Nat) (s : State) : State :=
  let v := cnvOf s c
  if v.st = 3 && !v.fence && !v.neighbour && !v.lostHold && !v.warm && (!v.await || v.awaitImg) && !mustWait s c then canvasEvent c 2 (modCnv c (fun x => { x with st := 2 }) s) else s

/-- The spare for a fence: the lowest core in STATE 1, else the audit copy; a core at its rated cycles is not written (R103). -/
def spareFor (s : State) (cl : Nat) : Option Nat :=
  ((coresIn s cl 1 ++ coresIn s cl 2).filter fun c => !barred s c && decide (tget 0 s.hist.cycles c < 10000)).head?

/-- A spare with nothing to write is written at once. -/
def settleWrite (s : State) : State :=
  let done (f : Fence) : Bool := f.ph == 1 && coreWritten s f.spare (roleOf s f.core).1
  let s1 := { s with hist := { s.hist with fences := s.hist.fences.map fun f => if done f then { f with ph := 2 } else f } }
  (s.hist.fences.filter done).foldl (fun t f => calDue 2 (clusterOf f.core) t) s1

/-- A fence starts with a spare. -/
def beginFence (core spare : Nat) (s : State) : State :=
  let cl := clusterOf core
  let s0 := if (roleOf s spare).2 = 2 then fire 2 cl 1 2 (coreNo spare) (auditStop cl s) else s
  let s1 := setRole spare 31 4 (setRole core (roleOf s core).1 3 s0)
  let s2 := { s1 with hist := { s1.hist with fences := s1.hist.fences.map fun f =>
    if f.core == core then { f with spare := spare, ph := 1, us := s.clk.us } else f } }
  let s3 := (canvasesOn s2 cl).foldl holdForFence (dropSilicon core (fillSpare core spare s2))
  settleWrite (uhWrite (fire 2 core 2 0 (coreNo spare) (healthUnit core 2 16 s3)))

/-- FENCE_START: at a boundary, a core that holds no position goes to STATE 3; any other is fenced once no other fence runs in the cluster,
and an audit copy that it needs has ended its plane (R411). -/
def fenceStart (core : Nat) (s : State) : State :=
  match s.hist.fences.find? (·.core == core) with
  | some f =>
    if s.sch.cur.isSome then s
    else if (roleOf s core).2 != 0 && (roleOf s core).2 != 3 then
      setRole core 31 3 { s with hist := { s.hist with fences := s.hist.fences.filter (·.core != core) } }
    else if s.cal.gap || holding s || !fenceStartable s f then s
    else match spareFor s (clusterOf core) with
      | some sp => if (roleOf s sp).2 = 2 ∧ coreInPass s sp then s else beginFence core sp s
      | none => drainDecision 1 core 2 s
  | none => s

def execFenceStart (core : Nat) (s : State) : Out := okIf (isCore core) (fenceStart core s)

/-- A calibrated spare takes the fenced core's position; the canvases serve again (R224, R415). -/
def endFence (f : Fence) (s : State) : State :=
  let cl := clusterOf f.core
  let s1 := setRole f.spare (roleOf s f.core).1 0 s
  let s2 := clearPos f.core { s1 with hist := { s1.hist with fences := s1.hist.fences.filter (·.core != f.core) } }
  let free := (canvasesOn s2 cl).filter fun c => !(fenceCanvases s2).contains c
  let s3 := free.foldl (fun t c => unhold c (modCnv c (fun v => { v with fence := false }) t)) s2
  uhWrite (fire 2 f.core 2 1 (coreNo f.spare) (healthUnit f.core 2 17 s3))

/-- FENCE_COMPLETE. -/
def fenceComplete (cl : Nat) (s : State) : State :=
  match s.hist.fences.find? fun f => f.ph == 3 && clusterOf f.core == cl with
  | some f => if s.sch.cur.isSome || s.cal.gap then s else endFence f s
  | none => s

def execFenceComplete (cluster : Nat) (s : State) : Out := okIf (isArrCluster cluster) (fenceComplete cluster s)

/-! ## Drain and REPLACE (R351, R418, R419) -/

/-- DRAIN_BUDGET_EXPIRY: the requests that remain are paused, and complete with REPLACED once they are. -/
def drainBudget (s : State) : State :=
  if s.hist.draining && (s.hist.budgetNow || decide (s.hist.drainUs + 1000000 * s.dev.budget ≤ s.clk.us)) then
    (entriesWhere s fun e => running e && e.st != .pausing).foldl
      (fun t ix => modEntry ix (fun e => { e with pendPause := true, drainPause := true }) t) s
  else s

def execDrainBudgetExpiry (s : State) : Out := .next (drainBudget s)

/-- A session that the module closes: CLOSE with its reason goes out on its paths (R372). -/
def moduleClose (reason k : Nat) (s : State) : State :=
  modSes k (fun e => { e with closeOut := some reason }) s

/-- REPLACE_ENTRY: no request runs or moves any more. Code 4 of R380. -/
def replaceEntry (s : State) : State :=
  if s.hist.draining && !s.hist.inRepl && s.sch.cur.isNone
      && (entriesWhere s fun e => running e).isEmpty then
    let s1 := fire 3 0 0 1 s.hist.cause { s with hist := { s.hist with inRepl := true, draining := false } }
    let s2 := raiseAll allPtns { ty := 5, flags := 2, unit := 0, level := 0, args := [s.hist.cause] } (uhWrite s1)
    ((s2.net.sess.filter fun e => e.2.live).map (·.1)).foldl (fun t k => moduleClose 2 k t) (setMstate 4 s2)
  else s

def execReplaceEntry (s : State) : Out := .next (replaceEntry s)

/-! ## Unit history -/

/-- UNIT_HISTORY_PERIODIC_WRITE (R422): every 60 s when the history has changed. -/
def execUnitHistoryPeriodicWrite (s : State) : Out :=
  .next (if s.hist.dirty && decide (s.hist.lastWr + 60000000 ≤ s.clk.us) then uhWrite s else s)

/-! ## Faults outside the cores -/

/-- A permanent fault that cannot be fenced: the drain decision with its cause, and the NONFENCE record (R412, R417, R418). -/
def nonfence (unit level cause : Nat) (s : State) : State :=
  let s1 := drainDecision cause unit level s
  recordFault unit level 12 0 true
    (if cause = 2 ∨ cause = 4 then { s1 with hist := { s1.hist with budgetNow := true } } else s1)

/-- TOKEN_PLANE_FAILURE (R28): a hop is a link between two dies. The spec names no unit for a fault of the network past its duplication: the
model names the hop's die of the lower code, at level 0 (log entry 85). -/
def planeFailure (plane hop : Nat) (s : State) : State :=
  if s.seq.planeBad.contains (plane, hop) then s
  else
    let s1 := { s with seq := { s.seq with planeBad := s.seq.planeBad ++ [(plane, hop)] }, hist := { s.hist with toknet := true } }
    let s2 := fire 15 0 0 plane hop s1
    if s2.seq.planeBad.contains (1 - plane, hop) then nonfence (hop / 64 * 2 ^ 26) 0 4 s2 else s2

def execTokenPlaneFailure (plane hop : Nat) (s : State) : Out := okIf (decide (plane < 2) && isHop hop) (planeFailure plane hop s)

end Sys2Proof.Machine
end

