-- ==== Sys2Proof/Machine/HostCmd.lean ====
section
/-! DEFINITION. What every host command meets before its own effect (R97, R383, R391 to R393): its session, the depth of its submission
queue, the commands it interrupts, and its session's rights. -/

namespace Sys2Proof.Machine

/-! ## Headers -/

/-- Fields of a message header (R391). -/
def hdrOk (h : Hdr) : Bool :=
  decide (h.ses < 2 ^ 32) && decide (h.queue < 4) && decide (h.ptn < 16) && decide (h.tag < 2 ^ 32) && decide (h.handle < 2 ^ 32)

/-- The session of a command is live. -/
def sesLive (s : State) (h : Hdr) : Bool := (sesOf s h.ses).live && !(sesOf s h.ses).ended && (sesOf s h.ses).sid == h.ses

/-- Role of a command's session: 16 operator, 17 claim, else the partition. -/
def roleH (s : State) (h : Hdr) : Nat := (sesOf s h.ses).role

/-- The partition that a command is for: an operator names it in the header (R391). -/
def cmdPtn (s : State) (h : Hdr) : Nat := if roleH s h = 16 then h.ptn else roleH s h

/-- Commands outstanding on a submission queue: the queue is its partition's; an operator's or claimant's is its session's (R382, R383). -/
def outstanding (s : State) (h : Hdr) : Nat :=
  if 12 ≤ roleH s h then tget 0 (sesOf s h.ses).cmds h.queue
  else (s.net.sess.filter fun e => e.2.role == roleH s h).foldl (fun a e => a + tget 0 e.2.cmds h.queue) 0

/-! ## Replies with an outcome (R96, R98) -/

/-- The reply to a command of R96: the outcome in bytes 16 to 19, STATUS OK for 0 and BAD_REQUEST otherwise. -/
def replyOutcome (h : Hdr) (o : Nat) (s : State) : State := replyFull h (if o = 0 then 0 else 8) 0 h.handle (leBytes o 4) s

/-- The same for a command that was left outstanding. -/
def replyOutcomeLate (h : Hdr) (o : Nat) (s : State) : State := replyLate h (if o = 0 then 0 else 8) 0 h.handle (leBytes o 4) s

/-! ## Commands received in parts -/

/-- A staging ends with outcome 7, answered to its last accepted part; its partial contents are discarded (R97). -/
def endStaging (c : Nat) (s : State) : State :=
  let v := cnvOf s c
  replyOutcome v.stHdr 7 (modCnv c (fun x => { x with stOpen := false, stNext := 0, stTotal := if x.staged.isSome then x.stTotal else 0 }) s)

/-- Open stagings of a session's submission queue that a command other than their next part interrupts. -/
def breakStaging (h : Hdr) (own : Option Nat) (s : State) : State :=
  ((List.range 4).filter fun c => (cnvOf s c).stOpen && (cnvOf s c).stHdr.ses == h.ses && (cnvOf s c).stHdr.queue == h.queue
    && own != some c).foldl (fun t c => endStaging c t) s

/-- An incomplete command of a partition's submission queue is answered BAD_REQUEST (R393). -/
def breakParts (n queue : Nat) (s : State) : State :=
  match tget none (ptnOf s n).parts queue with
  | some p => replyLate p.h 8 0 p.h.handle [] (modPtn n (fun q => { q with parts := tput none q.parts queue none }) s)
  | none => s

/-! ## Rights (R392) -/

/-- Who may send a command. -/
inductive Rights where
  | partition
  | operator_
  | claimant
  | any
  deriving DecidableEq, Repr

/-- The session may send the command: an operator every command, a partition session those marked P, a claim session CLAIM; `any` for a
command that decides by itself. -/
def mayClass (s : State) (r : Rights) (h : Hdr) : Bool :=
  match r with
  | .partition => roleH s h < 12 || (roleH s h == 16 && decide (h.ptn < 12))
  | .operator_ => roleH s h == 16
  | .claimant => roleH s h == 16 || roleH s h == 17
  | .any => true

/-- The message of a command leaves the messages its session has delivered (R374). -/
def takeMessage (h : Hdr) (s : State) : State := modSes h.ses (fun e => { e with inbox := e.inbox.tail }) s

/-- The command stands between the parts of another on its submission queue (R382, R393): a partition's own command or one for it does, and
any other of the operator session that sent the parts. -/
def interrupts (r : Rights) (h : Hdr) (s : State) : Bool :=
  match tget none (ptnOf s (cmdPtn s h)).parts h.queue with
  | some p => roleH s h < 12 || r = .partition || p.h.ses == h.ses
  | none => false

/-- Depth and rights; `own` is the canvas of a STAGE, `cont` says that the command is a PROMPT, `safe` that safe state accepts it: there only an
operator's command, and only one of those of R451, goes further. -/
def hostBody (r : Rights) (h : Hdr) (own : Option Nat) (cont safe : Bool) (act : State → State) (s : State) : State :=
  if !sesLive s h then s
  else if 64 ≤ outstanding s h then reply h 8 (takeMessage h s)
  else
    let s1 := breakStaging h own (takeMessage h s)
    let s2 := if !cont && interrupts r h s1 then breakParts (cmdPtn s1 h) h.queue s1 else s1
    if mayClass s2 r h && (!s2.sec.safe || safe) then act s2 else reply h 8 s2

/-- A host command whose operands are in range. -/
def hostCmd (r : Rights) (h : Hdr) (ok : Bool) (act : State → State) (s : State) : Out :=
  okIf (hdrOk h && ok) (hostBody r h none false false act s)

/-- The same for a command that safe state accepts from an operator (R451). -/
def hostCmdSafe (r : Rights) (h : Hdr) (ok : Bool) (act : State → State) (s : State) : Out :=
  okIf (hdrOk h && ok) (hostBody r h none false (roleH s h == 16) act s)

/-- The entry that a command's handle names, of the command's own partition, with its present generation (R323, R392). -/
def handleEntry (s : State) (h : Hdr) : Option Nat :=
  let ix := hIndex h.handle
  let e := entryOf s ix
  if hPtn h.handle = cmdPtn s h ∧ e.st ≠ .free ∧ e.gen = hGen h.handle ∧ e.ptn = cmdPtn s h then some ix else none

/-- The handle names the last life of an entry that has been retired and not reused (R323). -/
def handleRetired (s : State) (h : Hdr) : Bool :=
  let e := entryOf s (hIndex h.handle)
  hPtn h.handle == cmdPtn s h && e.st == .free && e.gen == hGen h.handle && e.gen != 0 && e.ptn == cmdPtn s h

end Sys2Proof.Machine
end

