-- ==== Sys2Proof/Machine/Staging.lean ====
section
/-! DEFINITION. The checks of a Dolotte bundle at the last part of its staging (R97), in their order: R464, R5, R112, R163, R165, R308,
R138, R225, R217 and R240. -/

namespace Sys2Proof.Machine

/-! ## Images and outlier lists (R110 to R113, R163, R165) -/

/-- The nibbles of a byte. -/
def nibblesOf (b : Byte) : List Nat := [b.toNat % 16, b.toNat / 16]

/-- Nibbles that a plane format refuses (R112): 0 W4, 1 W3, 2 WT, 3 and 4 the digits of W8. -/
def nibbleOk (fmt n : Nat) : Bool :=
  if fmt = 1 then decide (n ≤ 3) || decide (13 ≤ n)
  else if fmt = 2 then decide (n ≤ 1) || n == 15
  else n != 8

/-- An image lies on a plane of a position that the module has, in a format of R110, with its bytes and scales, and its nibbles are
legal. -/
def imageOk (m : PlaneImage) : Bool :=
  isArray m.array && decide (coreNo m.array < 30) && decide (m.plane < 16) && decide (m.fmt < 5) && decide (m.coeff < 256)
    && m.scales.length == 64 && m.bytes.length == 2048 && m.bytes.all fun b => (nibblesOf b).all (nibbleOk m.fmt)

/-- The image of a logical array's plane in a bundle. -/
def imageAt (b : Bundle) (array plane : Nat) : Option PlaneImage := b.images.find? fun m => m.array == array && m.plane == plane

/-- The digits of a W8 plane lie in the two arrays of a pair of one engine, low in the even one, on one plane (R113). -/
def pairPlaced (b : Bundle) (m : PlaneImage) : Bool :=
  decide (m.fmt < 3) || (decide (m.fmt = 3 + arrayNo m.array % 2) &&
    match imageAt b (pairOf m.array) m.plane with
    | some o => o.fmt == 7 - m.fmt
    | none => false)

/-- Every image is legal, no two take one plane, and W8 planes are placed in pairs (R112, R113). -/
def imagesOk (b : Bundle) : Bool :=
  b.images.all imageOk && decide ((b.images.map fun m => planeKey m.array m.plane).Nodup) && b.images.all (pairPlaced b)

/-- The nibbles of a slot's bundles that name an engine tile. -/
def strokesOf (w : Nat) : Option StrokeF :=
  let a := (splitBundle w).array
  if a % 16 = 1 ∨ a % 16 = 2 then some (strokeOf a) else none

/-- Group size of the engine tile that an array's plane belongs to: that of the strokes of the templates that name it (R195). -/
def groupSizeOf (b : Bundle) (array plane : Nat) : Nat :=
  let sid := coreSid (coreOf array)
  match (b.templates.flatMap fun t => (t.v0.tables.filter fun q => q.sid == sid).flatMap fun q => q.bundles.filterMap strokesOf).find?
    fun f => f.plane == plane && bitOf f.emask (engineNo array) && bitOf f.amask (arrayNo array) with
  | some f => groupSize f.gsz
  | none => 16

/-- The engine tile, as engine, group and plane, of a logical array's plane. -/
def tileOfPlane (b : Bundle) (array plane : Nat) : Nat :=
  tileKey (engineOf array) (arrayNo array / groupSizeOf b array plane) plane

/-- Cell of an entry of a tile's list, when an image holds it: the image, its row and column. -/
def entryCell (b : Bundle) (tile g : Nat) (o : OutEntry) : Option (PlaneImage × Nat × Nat) :=
  (imageAt b (mkArray (engineOf tile) (arrayNo tile * g + o.row / 64)) (planeNo tile)).map fun m => (m, o.row % 64, o.col)

/-- Group size of a tile's lists. -/
def listGroup (b : Bundle) (tile : Nat) : Nat :=
  match b.images.find? fun m => tileOfPlane b m.array m.plane == tile with
  | some m => groupSizeOf b m.array m.plane
  | none => 16

/-- An excluded weight: a number of E4M3, at a cell of its tile that holds 0 in its image (R162, R163). -/
def excludedOk (b : Bundle) (l : OutList) (o : OutEntry) : Bool :=
  o.value.toNat % 128 != 127 && decide (o.col < 64) && decide (o.row < 64 * listGroup b l.tile) &&
    match entryCell b l.tile (listGroup b l.tile) o with
    | some c => nibble c.1 c.2.1 c.2.2 == 0
    | none => false

/-- Layer of an engine tile. -/
def layerOf (b : Bundle) (tile : Nat) : Nat := match b.tileLayer.find? (·.1 == tile) with | some p => p.2 | none => 0

/-- Array weights of a layer: 4,096 for each image of its tiles, a W8 pair counting once (R165). -/
def layerWeights (b : Bundle) (layer : Nat) : Nat :=
  (b.images.filter fun m => m.fmt != 3 && layerOf b (tileOfPlane b m.array m.plane) == layer).length * 4096

/-- Excluded-weight entries of a layer. -/
def layerExcluded (b : Bundle) (layer : Nat) : Nat :=
  (b.outliers.filter fun l => layerOf b l.tile == layer).foldl (fun a l => a + l.cells.length) 0

/-- The limits of R165. -/
def outlierLimits (b : Bundle) : Bool :=
  b.outliers.all fun l => decide (l.cells.length ≤ 64 * listGroup b l.tile)
    && decide (100 * layerExcluded b (layerOf b l.tile) ≤ layerWeights b (layerOf b l.tile))

/-! ## Head-die capacity (R308) -/

/-- Images on the head dies, a W8 pair taking two. -/
def headImages (b : Bundle) : Nat := b.images.countP fun m => dieOf m.array == 32 || dieOf m.array == 33

/-- 61,440 active arrays of 16 planes (R16). -/
def headFits (b : Bundle) : Bool := decide (headImages b ≤ 983040)

/-! ## Forms that no bundle may have (R217) -/

/-- Class of a sequencer (R191). -/
def classOf (sid : Nat) : Nat := if sidUnit sid = 33 then 1 else if sidUnit sid = 34 then 2 else 0

/-- The five instructions of a bundle, if each slot is legal for its class and no reserved bit of WAITM is set (R186, R191). -/
def slotsOf (sid seg w : Nat) : Option (List Instr) :=
  let b := splitBundle w
  let i : Iss := { sid := sid, reps := 0, r := 0, seg := seg, waitm := b.waitm }
  let c := classOf sid
  match decodeSlot c .array i b.array, decodeSlot c .acc i b.acc, decodeSlot c .glaze i b.glaze, decodeSlot c .move i b.move,
    decodeSlot c .sync i b.sync with
  | some a, some x, some g, some m, some y => if b.cls = c ∧ b.waitm < 64 then some [a, x, g, m, y] else none
  | _, _, _, _, _ => none

/-- The stroke of a bundle: its fields, and the tiles it writes for `w` verify positions. -/
def bundleStroke (w : Nat) : List Instr → Option (StrokeF × Nat)
  | .strk _ f :: _ => some (f, tileCount f)
  | .stkv _ f :: _ => some (f, tileCount f * w)
  | _ => none

/-- Registers that ACN of a bundle names are ones that its stroke writes (R202). -/
def acnFits (st : Option (StrokeF × Nat)) (mask : Nat) : Bool :=
  match st with
  | some (f, n) => (maskBits mask 8).all fun k => decide (f.ntr ≤ k) && decide (k < f.ntr + n)
  | none => false

/-- A W8 plane that a stroke names is named with both arrays of its pair (R113). -/
def pairsNamed (b : Bundle) (sid : Nat) (f : StrokeF) : Bool :=
  (maskBits f.emask 16).all fun e => (maskBits f.amask 16).all fun a =>
    let array := mkArray (mkEngine (sidCore sid) e) a
    match imageAt b array f.plane with
    | some m => decide (m.fmt < 3) || bitOf f.amask (arrayNo (pairOf array))
    | none => true

/-- One instruction against the others of its bundle. -/
def slotFits (b : Bundle) (sid w : Nat) (all : List Instr) (c : Instr) : Bool :=
  let st := bundleStroke w all
  match c with
  | .strk _ f => f.band != 4 && decide (f.ntr + tileCount f ≤ 8) && pairsNamed b sid f
  | .stkv _ f => f.band != 4 && decide (f.ntr + w * tileCount f ≤ 8) && pairsNamed b sid f
  | .acn _ m => acnFits st m
  | .apro _ e _ _ _ => all.any fun d => match d with | .gcol _ f => f.eng == e | _ => false
  | .gcol _ f => f.tile == 0 && all.any fun d => match d with | .apro _ e _ _ _ => f.eng == e | _ => false
  | .glr _ f => f.ph != 0 || (st.isSome && f.eng == 0 && f.grp == 0 && f.tile == 0)
  | .score _ u _ _ _ _ _ => decide (u < b.kvHeads / 8)
  | .smix _ u _ _ _ _ _ => decide (u < b.kvHeads / 8)
  | .kvput _ u _ _ => decide (u < b.kvHeads / 8)
  | _ => true

/-! ### Address ranges (R192, R194) -/

/-- Units of OB that `n` vectors of 64 elements take in BF16 or FP32. -/
def obUnits (ty n : Nat) : Nat := if ty = 1 then 2 * n else n

/-- IB slots from IBS to the last that a stroke of `w` positions reads (R197, R198). -/
def slotSpan (f : StrokeF) (w : Nat) : Nat :=
  let d := if f.ifmt = 0 then 1 else 2
  d * (maxOf (maskBits f.amask 16) + 1) + (if f.esh = 1 then 16 * d * maxOf (maskBits f.emask 16) else 0)
    + (w - 1) * 16 * d * (if f.esh = 1 then 16 else 1)

/-- Units of a space that `n` bytes from a unit on take. -/
def unitsOf (sid space n : Nat) : Nat :=
  if space = 0 then ceilDiv n 128 else if space = 2 then ceilDiv n (if sidUnit sid < 32 then 2048 else 64)
  else if space = 3 then ceilDiv n 33 else ceilDiv n 512

/-- Units of the source of a move of `n` bytes: from AB, tiles of 64 pairs read out in FP32 (`ty` 0), in BF16 (1), or sent as they are (2). -/
def srcUnits (sid ssp ty n : Nat) : Nat :=
  if ssp = 1 then ceilDiv n (if ty = 0 then 256 else if ty = 1 then 128 else 512) else unitsOf sid ssp n

/-- A reduction's tiles, and the one it leaves its result in. -/
def redRange (f : RedF) : List (Nat × Nat × Nat) := [(1, f.src, f.nt), (1, if f.dsr = 1 then 0 else f.dst, 1)]

/-- The vectors of an element instruction. -/
def elRange (f : ElF) (more : List Nat) : List (Nat × Nat × Nat) :=
  (f.src :: f.dst :: more).map fun a => (0, a, obUnits f.ty (len256 f.len))

/-- The address ranges that an instruction names: space (as `inSpace`), first unit, units. Attention operands take a row for each query head and
position; probabilities, whose rows depend on the context of the run, count with their first unit. -/
def rangesOf (b : Bundle) (sid : Nat) (d : Decls) : Instr → List (Nat × Nat × Nat)
  | .strk _ f => [(3, f.ibs, slotSpan f 1)]
  | .stkv _ f => [(3, f.ibs, slotSpan f d.wmax)]
  | .aclr _ t n => [(1, t, n)]
  | .apro _ _ _ t vp => [(1, t, if vp = 1 then d.wmax else 1)]
  | .awid _ t sp a n fold => [(1, t, if fold = 1 then 1 else n), (if sp = 1 then 4 else 1, a, n)]
  | .rsum _ f _ => redRange f
  | .rmax _ f => redRange f
  | .rmin _ f => redRange f
  | .rarg _ f => redRange f
  | .rand _ f => redRange f
  | .ror _ f => redRange f
  | .rxor _ f => redRange f
  | .rcnt _ f => redRange f
  | .gout _ f => [(1, f.tile, if f.vp = 1 then d.wmax else 1)]
  | .gact _ f => [(1, f.tile, if f.vp = 1 then d.wmax else 1)]
  | .glr _ f => [(1, f.tile, if f.vp = 1 then d.wmax else 1)]
  | .gtnt _ f => [(1, f.tile, if f.vp = 1 then d.wmax else 1)]
  | .enorm _ f _ _ => elRange f []
  | .eact _ f _ => elRange f []
  | .emul _ f c => elRange f [c]
  | .eadd _ f c => elRange f [c]
  | .erot _ f _ _ => elRange f []
  | .ecvt _ f => [(0, f.src, len256 f.nblk), (3, f.dst, (if f.tfmt = 3 then 2 else 1) * len256 f.nblk)]
  | .mvb _ sp dp sa da len ty =>
    let n := if dp = 3 then 33 * 2 ^ len else 128 * 2 ^ len
    [(sp, sa, srcUnits sid sp ty n), (dp, da, unitsOf sid dp n)]
  | .mvf _ sp a _ len ty => [(sp, a, srcUnits sid sp (if ty = 0 then 2 else 1) (128 * 2 ^ len))]
  | .mvk _ sp a _ kind vp => [(sp, a, srcUnits sid sp 1 ((if kind = 2 then 512 else 256) * (if vp = 1 then d.wmax else 1)))]
  | .mck _ sp a len _ => [(sp, a, srcUnits sid sp 0 (128 * 2 ^ len))]
  | .chk _ t vp _ => [(1, t, if vp = 1 then d.wmax else 1)]
  | .snorm _ _ a _ => [(2, a, 1)]
  | .score _ _ _ a _ _ n => [(2, a, 4 * n * d.npos)]
  | .smix _ _ _ p o _ n => [(2, p, 1), (2, o, 8 * n * d.npos)]
  | .kvput _ _ _ a => [(2, a, 8 * d.npos)]
  | .samp _ a p => [(2, a, (p + 1) * ceilDiv (4 * (b.vocab / 8)) 64)]
  | .vrfy _ a r _ => [(2, a, d.wmax * ceilDiv (4 * (b.vocab / 8)) 64), (2, r, 1)]
  | .skdr _ n _ a _ => [(2, a, ceilDiv (8 * n) 64)]
  | _ => []

/-- A range lies in its space when iteration `r` has offset it (R192, R194). -/
def rangeIn (sid : Nat) (strides : List Int) (r : Nat) (a : Nat × Nat × Nat) : Bool :=
  let lo : Int := (a.2.1 : Int) + (r : Int) * nth 0 strides a.1
  decide (0 ≤ lo) && (a.2.2 == 0 || inSpace sid a.1 (lo.toNat + a.2.2 - 1))

/-! ### Repetition groups (R192) -/

/-- The bundles of a repetition group of `n` further bundles: none opens a group or pauses at a boundary, and all have one RWM (R192). -/
def groupOk (rwm : Bool) (n : Nat) (rest : List Nat) : Bool :=
  decide (n ≤ rest.length) && (rest.take n).all fun w =>
    (splitBundle w).reps == 0 && !(splitBundle w).sbm && (splitBundle w).rwm == rwm

/-- The repetition kind of each bundle of a table: 0 none, 1 lanes, 2 positions. -/
def repsFrom : List Nat → Nat → Nat → List Nat
  | [], _, _ => []
  | w :: rest, reps, left =>
    let h := splitBundle w
    if left = 0 then h.reps :: repsFrom rest h.reps (if h.reps = 0 then 0 else h.rgrp) else reps :: repsFrom rest reps (left - 1)

def repsOf (ws : List Nat) : List Nat := repsFrom ws 0 0

/-- The most iterations of a bundle of a repetition kind. -/
def mostIter (d : Decls) (reps : Nat) : Nat := if reps = 1 then d.lanes else if reps = 2 then d.npos else 1

/-- Every bundle of a table, with its repetition kind. -/
def bundlesOk (b : Bundle) (d : Decls) (q : SeqTable) : List Nat → List Nat → Bool
  | w :: rest, k :: ks =>
    let h := splitBundle w
    (match slotsOf q.sid 0 w with
      | some cs => cs.all (slotFits b q.sid d.wmax cs) && cs.all fun c => (rangesOf b q.sid d c).all fun a =>
          rangeIn q.sid q.strides 0 a && rangeIn q.sid q.strides (mostIter d k - 1) a
      | none => false)
      && (h.reps == 0 || (decide (h.reps < 3) && !h.sbm && groupOk h.rwm h.rgrp rest))
      && bundlesOk b d q rest ks
  | _, _ => true

/-! ### Replay windows (R239, R246) -/

/-- The windows of a stretch of a table: for each RPLW open the index of its bundle, its segment, the RWM marks of the bundles up to the close. -/
def windowsIn : List (Nat × Nat) → Nat → Option (Nat × Nat × List Bool) → List (Nat × Nat × List Bool)
  | [], _, o => o.toList
  | (w, seg) :: rest, ix, o =>
    let h := splitBundle w
    if h.sync % 16 = 7 ∧ fld h.sync 4 1 = 0 then o.toList ++ windowsIn rest (ix + 1) (some (ix, seg, []))
    else if h.sync % 16 = 7 then o.toList ++ windowsIn rest (ix + 1) none
    else windowsIn rest (ix + 1) (o.map fun x => (x.1, x.2.1, x.2.2 ++ [h.rwm]))

/-- The windows of a table are those that the variant records, with as many slots as they have bundles, all of them RWM bundles; at most 64 slots
each and 256 together (R225, R239, R246; log entry 97). -/
def windowsOk (v : Variant) (q : SeqTable) : Bool :=
  let ws := windowsIn (q.bundles.zip q.segs) 0 none
  let mine := v.windows.filter fun x => x.1 / 128 == q.sid
  ws.all (fun x => x.2.2.all id && decide (x.2.2.length ≤ 64) && mine.contains (q.sid * 128 + x.2.1, x.1, x.2.2.length))
    && decide (mine.length = ws.length) && decide ((ws.foldl (fun a x => a + x.2.2.length) 0) ≤ 256)

/-- A sequencer table of a variant: its sequencer, its length (R221), its segments (R226), its counters (R234, R235), its windows, its bundles. -/
def tableOk (b : Bundle) (v : Variant) (q : SeqTable) : Bool :=
  isSid q.sid && (decide (32 ≤ sidUnit q.sid) || decide (sidUnit q.sid < 30)) && decide (q.bundles.length ≤ 8192)
    && q.segs.length == q.bundles.length && q.segs.all (fun k => decide (k < 128))
    && decide (q.routes.length ≤ 1024) && q.chans.all (fun c => decide (c.2 < 256)) && q.cctr.all (fun c => decide (c.2 < 256))
    && windowsOk v q && bundlesOk b v.decl q q.bundles (repsOf q.bundles)

/-! ## Reduction orders (R138) -/

/-- Tiles of a core that sums received from other cores enter, in every iteration (R137, R201). -/
def crossTiles (d : Decls) (q : SeqTable) : List Nat :=
  if 32 ≤ sidUnit q.sid then [] else
  ((q.bundles.zip (repsOf q.bundles)).flatMap fun p =>
    match decodeSlot 0 .acc default (splitBundle p.1).acc with
    | some (.awid _ t 1 _ n fold) => (List.range (mostIter d p.2)).flatMap fun r =>
        (List.range (if fold = 1 then 1 else n)).map fun k => ((t + k : Nat) + (r : Int) * nth 0 q.strides 1).toNat
    | _ => []).dedup

/-- Every tile whose sum crosses a core has a recorded order: those the variant names and those that its tables show. -/
def ordersOk (v : Variant) : Bool :=
  let has (k : Nat) : Bool := v.redOrd.any fun e => e.1 == k
  v.crosses.all has && v.tables.all fun q => (crossTiles v.decl q).all fun t => has (q.sid * 2048 + t)

/-! ## Counts (R226, R240) -/

/-- A count that depends on the step: a part done once, a part for each lane, a part for each position. -/
structure Count where
  once : Nat
  lane : Nat
  pos  : Nat
  deriving DecidableEq, Repr

/-- `n` for each bundle of a list of repetition kinds. -/
def countOf (l : List (Nat × Nat)) : Count :=
  let sum (k : Nat) : Nat := (l.filter (·.2 == k)).foldl (fun a x => a + x.1) 0
  { once := sum 0, lane := sum 1, pos := sum 2 }

def addCount (a b : Count) : Count := { once := a.once + b.once, lane := a.lane + b.lane, pos := a.pos + b.pos }

/-- SYNC slots of a table from an index up to its STEP, with the segment and the repetition kind of each: one path of the sequencer. -/
def pathFrom (q : SeqTable) (ix : Nat) : List (Nat × Nat × Nat) :=
  let l := ((q.bundles.map fun w => (splitBundle w).sync).zip (q.segs.zip (repsOf q.bundles))).drop ix
  let n := (findIx (fun y => y.1 % 16 == 6) l 0).getD l.length
  l.take (n + 1)

/-- Where a sequencer resumes at a segment: at its resume sequence, or at the first bundle of the segment (R225, R255). -/
def startAt (q : SeqTable) (seg : Nat) : Nat :=
  if seg = 0 then 0
  else match q.resumes.find? (·.1 == seg) with
    | some r => r.2.1
    | none => (findIx (fun k => decide (seg ≤ k)) q.segs 0).getD q.segs.length

/-- The segments at which an attempt of the step can begin. -/
def resumeSegs (v : Variant) : List Nat := (0 :: v.tables.flatMap fun q => q.resumes.map (·.1)).dedup

/-- Tokens that a path sends on a channel, and tokens that it waits for on it. -/
def sendsIn (p : List (Nat × Nat × Nat)) (tch : Nat) : Count :=
  countOf ((p.filter fun y => y.1 % 16 == 1 && fld y.1 4 12 == tch).map fun y => (1, y.2.2))
def waitsIn (p : List (Nat × Nat × Nat)) (tch : Nat) : Count :=
  countOf ((p.filter fun y => y.1 % 16 == 0 && fld y.1 4 12 == tch).map fun y => (fld y.1 16 4, y.2.2))

/-- Token channels that a variant's tables send on or wait for. -/
def tokenChans (v : Variant) : List Nat :=
  (v.tables.flatMap fun q => (q.bundles.map fun w => (splitBundle w).sync).filterMap fun y =>
    if y % 16 = 1 ∨ (y % 16 = 0 ∧ fld y 4 12 ≠ 0) then some (fld y 4 12) else none).dedup

/-- On every channel and every path the sends of the channel's senders are as many as each destination waits for, no other sequencer sends on it, and
none but its destinations waits (R225, R240). -/
def channelsAgree (v : Variant) : Bool :=
  (resumeSegs v).all fun seg => (tokenChans v).all fun c =>
    let paths := v.tables.map fun q => (q.sid, pathFrom q (startAt q seg))
    let none_ : Count := { once := 0, lane := 0, pos := 0 }
    let sent := paths.foldl (fun a p => addCount a (sendsIn p.2 c)) none_
    paths.all fun p =>
      ((tget [] v.chanFrom c).contains p.1 || sendsIn p.2 c == none_) &&
      waitsIn p.2 c == (if (tget [] v.chanTo c).contains p.1 then sent else none_)

/-- Credits that a path takes (`op` 0) or returns (1) on a credit channel below a segment. -/
def creditsIn (p : List (Nat × Nat × Nat)) (cch op below : Nat) : Count :=
  countOf ((p.filter fun y => y.1 % 16 == 2 && fld y.1 4 12 == cch && fld y.1 16 1 == op && decide (y.2.1 < below)).map
    fun y => (fld y.1 17 4, y.2.2))

/-- Credits that a variant's main paths take or return on a channel below a segment. -/
def creditsOn (v : Variant) (cch op below : Nat) : Count :=
  v.tables.foldl (fun a q => addCount a (creditsIn (pathFrom q 0) cch op below)) { once := 0, lane := 0, pos := 0 }

/-- Credit channels of a variant. -/
def creditChans (v : Variant) : List Nat :=
  (v.tables.flatMap fun q => (q.bundles.map fun w => (splitBundle w).sync).filterMap fun y => if y % 16 = 2 then some (fld y 4 12) else none).dedup

/-- The value of a credit channel's counter in a row of its owner's credit table. -/
def creditAt (q : SeqTable) (cch row : Nat) : Nat :=
  ((q.credits.find? fun e => e.1 == row * 4096 + tget (cch % 256) q.cctr cch).map (·.2)).getD 0

/-- Takes and returns balance over the step, and the credit table of the channel's owner holds the balance at every resume point (R240). -/
def creditsBalance (v : Variant) : Bool :=
  (creditChans v).all fun c => creditsOn v c 0 128 == creditsOn v c 1 128 &&
    (v.tables.filter fun q => (tget [] v.chanTo (4096 + c)).contains q.sid).all fun q => q.resumes.all fun r =>
      let took := creditsOn v c 0 r.1
      let back := creditsOn v c 1 r.1
      creditAt q c r.2.2 + took.once == creditAt q c 0 + back.once && took.lane == back.lane && took.pos == back.pos

/-- No flag segment mixes segments: between two FLORs a table's strokes, CHKs and CSUMs belong to one segment. -/
def floorsOk : List (Nat × Nat) → Option Nat → Bool
  | [], _ => true
  | (w, seg) :: rest, open_ =>
    let h := splitBundle w
    let work := h.cls == 0 && (h.array % 16 == 1 || h.array % 16 == 2 || h.sync % 16 == 3 || h.sync % 16 == 4)
    (!work || open_.all (· == seg)) &&
      floorsOk rest (if h.sync % 16 = 5 ∨ h.sync % 16 = 6 then none else if work then some seg else open_)

/-- Flag segments that a path of a sequencer closes at the most (R239). -/
def flagSegs (d : Decls) (p : List (Nat × Nat × Nat)) : Nat :=
  (p.filter fun y => y.1 % 16 == 5 || y.1 % 16 == 6).foldl (fun a y => a + mostIter d y.2.2) 0

def variantOk (v : Variant) : Bool :=
  channelsAgree v && creditsBalance v
    && v.tables.all fun q => floorsOk (q.bundles.zip q.segs) none
        && (resumeSegs v).all fun k => decide (flagSegs v.decl (pathFrom q (startAt q k)) ≤ 4096)

/-- Layers, key-value heads and declarations (R225, R226, R263). -/
def limitsOk (b : Bundle) : Bool :=
  decide (b.layers + b.heads ≤ 124) && (!b.sketch || decide (b.layers + b.attHeads ≤ 120))
    && [8, 16, 32, 64].contains b.kvHeads
    && b.templates.all fun t => (variantsOf t).all fun v =>
        let d := v.decl
        decide (d.ctx ≤ 524264) && decide (1 ≤ d.wmax) && decide (d.wmax ≤ 8) && decide (1 ≤ d.lanes) && decide (d.lanes ≤ 256)
          && decide (1 ≤ d.npos) && decide (d.npos ≤ 512)

/-! ## Regions of a cluster's SRAM (R178, R221, R240, R258) -/

/-- Bundles that a Dolotte bundle gives a sequencer, over every template, variant and resume sequence. -/
def bundlesAt (b : Bundle) (sid : Nat) : Nat :=
  b.templates.foldl (fun a u => a + (variantsOf u).foldl (fun x y =>
    x + (y.tables.filter fun r => r.sid == sid).foldl (fun n r => n + r.bundles.length) 0) 0) 0

/-- Sequencers that a Dolotte bundle has tables for. -/
def sidsOf (b : Bundle) : List Nat := (b.templates.flatMap fun t => (variantsOf t).flatMap fun v => v.tables.map (·.sid)).dedup

/-- At most 8,192 bundles for each sequencer, over every canvas that is resident with it (R221). -/
def tablesFit (s : State) (c : Nat) (b : Bundle) : Bool :=
  (sidsOf b).all fun sid => decide (bundlesAt b sid + ((List.range 4).filter (· != c)).foldl (fun a d =>
    a + match (cnvOf s d).bundle with | some o => bundlesAt o sid | none => 0) 0 ≤ 8192)

/-- First and last byte of the checkpoints of a table's MCKs, over the lanes of its variant. -/
def ckptSpan (d : Decls) (q : SeqTable) : List (Int × Int) :=
  q.bundles.filterMap fun w =>
    match decodeSlot 0 .move default (splitBundle w).move with
    | some (.mck _ _ _ len lix) => (q.lix.find? (·.1 == lix)).map fun r =>
        let a : Int := (r.2.ckpt : Int) * 2048
        let z := a + (d.lanes - 1 : Nat) * (r.2.stride * 2048)
        (min a z, max a z + 128 * 2 ^ len)
    | _ => none

/-- Bytes of a cluster's checkpoint region in a variant. -/
def ckptBytes (v : Variant) (cl : Nat) : Int :=
  let l := (v.tables.filter fun q => decide (sidUnit q.sid < 32) && sidCluster q.sid == cl).flatMap (ckptSpan v.decl)
  match l with
  | [] => 0
  | x :: xs => (xs.foldl (fun a y => max a y.2) x.2) - xs.foldl (fun a y => min a y.1) x.1

/-- MiB of a cluster's glaze region: 4 where the placement map gives none (R178). -/
def glazeOf (b : Bundle) (cl : Nat) : Nat := tget 4 b.glazeMiB cl

/-- Table region of 7.5 MiB, glaze region, checkpoints, 256 descriptors and the replay store's 64 tiles within the 24 MiB of each array cluster that
takes part. -/
def regionsFit (b : Bundle) : Bool :=
  ((sidsOf b).filter fun k => decide (sidUnit k < 32)).all fun k =>
    let cl := sidCluster k
    decide (4 ≤ glazeOf b cl) && decide (glazeOf b cl ≤ 16) && b.templates.all fun t => (variantsOf t).all fun v =>
      decide ((7864320 + glazeOf b cl * 1048576 + 16384 + 32768 : Nat) + ckptBytes v cl ≤ 25165824)

/-! ## The outcome -/

/-- The outcome of the checks at staging (R97, R98): the first that fails decides. -/
def stageOutcome (s : State) (c total : Nat) (b : Bundle) : Nat :=
  let room := if (cnvOf s c).staged.isSome then (cnvOf s c).stagedLen else 0
  if !b.sigOk then 1
  else if b.paramset ≠ s.sec.paramset then 2
  else if !imagesOk b then 3
  else if !(b.outliers.all fun l => l.cells.all (excludedOk b l)) then 3
  else if !outlierLimits b then 3
  else if !headFits b then 5
  else if !(b.templates.all fun t => (variantsOf t).all ordersOk) then 4
  else if b.templates.isEmpty ∨ 16 < b.templates.length ∨ !(b.templates.all (·.hasA8)) then 4
  else if !(b.templates.all fun t => (variantsOf t).all fun v => v.tables.all (tableOk b v)) then 4
  else if !(limitsOk b && tablesFit s c b && regionsFit b && b.templates.all fun t => (variantsOf t).all variantOk) then 4
  else if !farTakes s 16384 (total - room) then 5
  else 0

end Sys2Proof.Machine
end

