-- ==== Sys2Proof/Machine/Program.lean ====
section
/-! DEFINITION. Writing weights (R77 to R109): rows and planes, residuals and the corrections derived from them, column remaps, loads,
erases, and the commands STAGE, LOAD, ABORT and ERASE. -/

namespace Sys2Proof.Machine

/-! ## Who holds what -/

/-- The address in bundles of a physical array. -/
def logicalArray (s : State) (array : Nat) : Option Nat :=
  (posServed s (coreOf array)).map fun p => mkCore (clusterOf array) p + array % 65536

/-- The canvas and the bundle that own a plane of a physical array. -/
def ownerOf (s : State) (array plane : Nat) : Option (Nat × Bundle) :=
  match logicalArray s array with
  | some a => (List.range 4).findSome? fun c => match (cnvOf s c).bundle with
    | some b => if (imageAt b a plane).isSome then some (c, b) else none
    | none => none
  | none => none

/-- The cores that hold a position's weights: the one that serves it, and an audit copy of it. -/
def holders (s : State) (cl pos : Nat) : List Nat := (coresOf cl).filter fun c => posServed s c == some pos

/-- The physical planes of an image. -/
def imagePlanes (s : State) (m : PlaneImage) : List Nat :=
  (holders s (clusterOf m.array) (coreNo m.array)).map fun c => planeKey (c + m.array % 65536) m.plane

/-- The cores that a bundle's planes lie on, in the order of its images. -/
def bundleCores (s : State) (b : Bundle) : List Nat :=
  (b.images.filterMap fun m => homeCore s (clusterOf m.array) (coreNo m.array)).dedup

/-- Engines that a bundle's planes lie in, by address in bundles. -/
def bundleEngines (b : Bundle) : List Nat := (b.images.map fun m => engineOf m.array).dedup

/-- Two bundles have planes in one engine. -/
def sharesEngine (b o : Bundle) : Bool := o.images.any fun m => (bundleEngines b).contains (engineOf m.array)

/-- Other canvases with a plane in an engine that a bundle writes (R93). -/
def neighboursOf (s : State) (c : Nat) (b : Bundle) : List Nat :=
  (List.range 4).filter fun d => d != c && match (cnvOf s d).bundle with | some o => sharesEngine b o | none => false

/-- The canvas record holds every section of the bundle but the weight images; of these it keeps the placement, the settings and the CRC (R100). -/
def recordOf (b : Bundle) : Bundle := { b with images := b.images.map fun m => { m with bytes := [] } }

/-! ## When the module writes (R78, R91 to R93, R95, R476) -/

/-- The module writes in STARTING and ACTIVE, unless a hold or a power warning stops it. -/
def mayWrite (s : State) : Bool := (s.pwr.state == 1 || s.pwr.state == 2) && !holding s

/-- No plane of a core is to be written any more. -/
def coreDone (s : State) (core : Nat) : Bool :=
  (s.kv.master.filter fun e => coreOf e.1 == core).all fun e => tget false s.arr.written e.1

/-- Planes of a bundle on a core, in address order, for each of its engines (R90). -/
def enginePlanes (s : State) (b : Bundle) (core : Nat) : List (List Nat) :=
  let l := (b.images.filterMap (homePlane s)).filter fun pk => coreOf pk == core
  (List.range 16).map fun e => orderBy (fun x y => decide (x < y)) (l.filter fun pk => engineNo pk == e)

/-- The plane count of a core: that of its busiest engine, since its engines write together. -/
def coreLoad (s : State) (b : Bundle) (core : Nat) : Nat := maxOf ((enginePlanes s b core).map (·.length))

/-- The wave length: the plane count of the busiest array-die core (R92). -/
def waveLen (s : State) (b : Bundle) : Nat :=
  maxOf (((bundleCores s b).filter fun c => decide (dieOf c < 24)).map (coreLoad s b))

/-- A core that holds more planes than the wave length writes in both waves. -/
def isLarge (s : State) (b : Bundle) (core : Nat) : Bool := decide (waveLen s b < coreLoad s b core)

/-- The cores of a load in the order in which waves take them: those that write in both waves first (log entry 62). -/
def waveOrder (s : State) (b : Bundle) : List Nat :=
  (bundleCores s b).filter (isLarge s b) ++ (bundleCores s b).filter fun c => !isLarge s b c

/-- The planes of a core that belong to the waves up to the present one: half of each engine's for a core that writes in both waves. -/
def wavePlanes (s : State) (first : Bool) (b : Bundle) (core : Nat) : List Nat :=
  (enginePlanes s b core).flatMap fun l => if first && isLarge s b core then l.take ((l.length + 1) / 2) else l

/-- The cores that a load's waves have taken so far. -/
def takenCores (s : State) (c : Nat) (b : Bundle) : List Nat := (waveOrder s b).take (cnvOf s c).waveCores

/-- A load keeps a plane from being written: it waits for its wave, or the load is being aborted and the plane would begin (R95). -/
def loadBlocks (s : State) (array plane : Nat) : Bool :=
  let pk := planeKey array plane
  match ownerOf s array plane with
  | some (c, b) =>
    let v := cnvOf s c
    2 ≤ v.loadPh && (roleOf s (coreOf array)).2 == 0 &&
      (!((takenCores s c b).contains (coreOf array) && (wavePlanes s (v.loadPh == 2) b (coreOf array)).contains pk)
        || (v.aborting.isSome && !inPass (tget RowProg.init s.arr.rows pk)))
  | none => false

/-- An audit copy begins no plane once AUDIT_EN is clear, or while a fence of its cluster is due (R411, R564). -/
def auditBlocks (s : State) (array plane : Nat) : Bool :=
  (roleOf s (coreOf array)).2 == 2 && !inPass (tget RowProg.init s.arr.rows (planeKey array plane))
    && (!s.hist.auditEn || s.hist.fences.any fun f => f.ph == 0 && clusterOf f.core == clusterOf array)

/-- Another plane of the engine is in the middle of a pass: its one pump writes one plane after another (R78, R90). -/
def engineBusy (s : State) (array plane : Nat) : Bool :=
  s.arr.rows.any fun e => e.1 != planeKey array plane && engineOf e.1 == engineOf array && inPass e.2

/-- Cores that write now. -/
def writingCores (s : State) : List Nat := ((s.arr.rows.filter fun e => inPass e.2).map fun e => coreOf e.1).dedup

/-- Cores that a wave may write (R91): 6,144, less in proportion when L leaves under 600 W above serving power, rounded down (log entry 62). -/
def waveLimit (s : State) : Nat :=
  let serving := s.pwr.pin - s.pwr.pump
  let room := s.pwr.lim * 10 - serving
  if 600 ≤ room then 6144 else 6144 * room / 600

/-- Cores of a load's present wave that are not done. -/
def loadCores (s : State) (c : Nat) : List Nat :=
  match (cnvOf s c).bundle with
  | some b => if 2 ≤ (cnvOf s c).loadPh then (takenCores s c b).filter fun k => !coreDone s k else []
  | none => []

/-- Cores that write beside the load of a canvas: those of other loads' waves, and spares, audit copies and reprogrammed cores. -/
def otherWriters (s : State) (c : Nat) : Nat :=
  let mine := loadCores s c
  let others := (((List.range 4).filter (· != c)).flatMap (loadCores s)).dedup
  others.length + ((writingCores s).filter fun k => !mine.contains k && !others.contains k).length

/-- Fences whose spare has not begun to write: they take the pump budget first (R415). -/
def waitingSpares (s : State) : Nat :=
  (s.hist.fences.filter fun f => f.ph == 1 && !coreInPass s f.spare && !coreDone s f.spare).length

/-- The pumps' budget lets a core write (R91): it writes already, or one more core is within the limit, that of the wave for a core of a load. -/
def pumpFree (s : State) (core : Nat) : Bool :=
  let spare := s.hist.fences.any fun f => f.ph == 1 && f.spare == core
  let loading := (List.range 4).any fun c => (loadCores s c).contains core
  coreInPass s core ||
    decide ((writingCores s).length + (if spare then 0 else waitingSpares s) < if loading || spare then 6144 else waveLimit s)

/-- A plane may be written now (R78, R91 to R93, R95, R298). -/
def mayProgram (s : State) (array plane : Nat) : Bool :=
  toWrite s array plane && !(s.kv.lostImg.any (·.2 == planeKey array plane)) && mayWrite s && !loadBlocks s array plane && !auditBlocks s array plane && !barred s (coreOf array)
    && !engineBusy s array plane && pumpFree s (coreOf array)

/-! ## Targets and rows (R36, R78 to R81) -/

/-- The logical column that a physical column stands for: its own, or the one a spare has replaced; none for a swatch column, an unused
spare, and a column left to a spare. -/
def logicalCol (s : State) (array col : Nat) : Option Nat :=
  let r := tget [] s.arr.remap array
  let p := if col < 64 then (if r.contains col then none else some col) else if 68 ≤ col then r[col - 68]? else none
  match p with
  | some q => if q < 64 then findIx (· == q) (colPerm s array) 0 else none
  | none => none

/-- The weight that a physical cell of a plane is to hold: the scrambled image, or the fixed weight of a swatch column (R60, R71, R74). -/
def targetOf (s : State) (m : PlaneImage) (array row col : Nat) : Option Int :=
  let pk := planeKey array m.plane
  if 64 ≤ col ∧ col < 68 then some (swatchWeight col row)
  else match logicalCol s array col with
    | some j =>
      let w := nibble m ((findIx (· == row) (rowPerm s pk) 0).getD row) j
      some (if flipOf s pk j then -w else w)
    | none => none

/-- The columns of a pass (R78, R85). -/
def passCols (s : State) (m : PlaneImage) (r : RowProg) (array : Nat) : List Nat :=
  (List.range 72).filter fun col => (targetOf s m array 0 col).isSome && (r.only.isEmpty || r.only.contains col)

/-- A device passes verify (R80): within 0.10 µS of its level above the level-0 conductance; in 0.01 µS. -/
def devicePass (g0 level g : Nat) : Bool := decide (g ≤ g0 + 100 * level + 10) && decide (g0 + 100 * level ≤ g + 10)

/-- Both devices of a cell pass, in one and the same verify read (R80; log entry 62). -/
def cellPass (g0 : Nat) (w : Int) (g : Nat × Nat) : Bool :=
  devicePass g0 w.toNat g.1 && devicePass g0 (-w).toNat g.2

/-- Difference of a cell's devices from its weight, in 0.01 weight units (R81). -/
def devOf (w : Int) (g : Nat × Nat) : Int := (g.1 : Int) - (g.2 : Int) - 100 * w

/-- The residual as recorded, free of the scramble's sign: 1/64 weight units, nearest, ties away from zero, in 8 bits. -/
def residualOf (flip : Bool) (w : Int) (g : Nat × Nat) : Int :=
  max (-128) (min 127 (rndAway (64 * (if flip then -devOf w g else devOf w g)) 100))

/-- A cell that has failed at the end of its row. -/
def cellFails (passed : Bool) (w : Int) (g : Nat × Nat) : Bool := !passed && decide (45 < (devOf w g).natAbs)

/-- The weight that a failed cell is nearest to. -/
def nearestWeight (g : Nat × Nat) : Int := max (-7) (min 7 (rndAway ((g.1 : Int) - (g.2 : Int)) 100))

/-- One cell at the end of its row: its weight, and its residual by logical row and column, free of the scramble's sign. -/
def endCell (m : PlaneImage) (array : Nat) (r : RowProg) (s : State) (col : Nat) : State :=
  match targetOf s m array r.row col with
  | none => s
  | some w =>
    let pk := planeKey array m.plane
    let g := tget (0, 0) r.reads col
    let v := if cellFails (r.passed.contains col) w g then nearestWeight g else w
    let s1 := { s with arr := { s.arr with cells := tput 0 s.arr.cells (cellKey pk r.row col) v } }
    match logicalCol s array col with
    | some j =>
      let i := (findIx (· == r.row) (rowPerm s pk) 0).getD r.row
      { s1 with glz := { s1.glz with resid := tput 0 s1.glz.resid (cellKey pk i j) (residualOf (flipOf s pk j) w g) } }
    | none => s1

/-- A row after one more iteration with its verify read. -/
def rowAfter (s : State) (m : PlaneImage) (array : Nat) (r : RowProg) (read : List (Nat × Nat × Nat)) : RowProg :=
  let g0 := if r.row = 0 ∧ r.iters = 0 then (match read.find? (·.1 == 72) with | some e => e.2.1 | none => r.g0) else r.g0
  let cols := passCols s m r array
  let reads := (read.filter fun e => cols.contains e.1).foldl (fun t e => tput (0, 0) t e.1 e.2) r.reads
  let passed := cols.filter fun c => r.passed.contains c ||
    ((read.any fun e => e.1 == c) && match targetOf s m array r.row c with | some w => cellPass g0 w (tget (0, 0) reads c) | none => false)
  let done := decide (24 ≤ r.iters + 1) || cols.all passed.contains
  let bad := if done then cols.filter fun c => match targetOf s m array r.row c with
    | some w => cellFails (passed.contains c) w (tget (0, 0) reads c)
    | none => false else []
  { r with iters := r.iters + 1, g0 := g0, reads := reads, passed := passed, done := done, failed := (r.failed ++ bad).dedup }

/-- The row that an iteration works on: the next one when the last has ended. -/
def nextRow (r : RowProg) : RowProg := if r.done then { r with row := r.row + 1, iters := 0, done := false, passed := [], reads := [] } else r

/-- PROGRAM_ITERATION: one iteration of the row in turn. -/
def programRow (array plane row : Nat) (read : List (Nat × Nat × Nat)) (s : State) : State :=
  let pk := planeKey array plane
  let r := nextRow (tget RowProg.init s.arr.rows pk)
  match tget none s.kv.master pk with
  | none => s
  | some m =>
    if !mayProgram s array plane || row ≠ r.row || 64 ≤ row then s
    else
      let r1 := rowAfter s m array r read
      let s1 := { s with arr := { s.arr with
        rows := tput RowProg.init s.arr.rows pk r1
        incomplete := if row = 0 then s.arr.incomplete.filter (· != pk) else s.arr.incomplete } }
      if r1.done then (passCols s m r1 array).foldl (endCell m array r1) s1 else s1

def execProgramIteration (array plane row : Nat) (read : List (Nat × Nat × Nat)) (s : State) : Out :=
  okIf (isArray array && decide (plane < 16) && decide (row < 64) && read.all fun e => decide (e.1 ≤ 72))
    (programRow array plane row read s)

/-- Writing stops at the end of the iteration: planes in progress are incomplete and begin again at their first row. -/
def stopWrites (s : State) : State :=
  let some_ := s.arr.rows.filter fun e => inPass e.2
  let back := s.arr.rows.foldl (fun t e => tput RowProg.init t e.1 { RowProg.init with only := e.2.only }) []
  { s with arr := { s.arr with rows := back, incomplete := (s.arr.incomplete ++ some_.map (·.1)).dedup } }

/-! ## Corrections from residuals (R82 to R84, R164, R165, R173) -/

/-- A residual of an engine tile by tile row and column, the high digits of a W8 pair carrying 16 times their weight (R114). -/
def tileResid (s : State) (eng grp g plane i j : Nat) : Int :=
  let a := mkArray eng (grp * g + i / 64)
  tget 0 s.glz.resid (cellKey (planeKey a plane) (i % 64) j) * (if fmtOf s a plane = 4 then 16 else 1)

/-- Cells of an engine tile in the order of their 16-bit index. -/
def tileCells (g : Nat) : List (Nat × Nat) := (List.range (g * 64)).flatMap fun i => (List.range 64).map fun j => (i, j)

/-- The residual entry of a cell: -r in E4M3, nearest, ties to even. -/
def residEntry (i j : Nat) (r : Int) : OutEntry := { value := (toE4m3 ⟨-r, -6⟩ 1).1, row := i, col := j }

/-- A residual above its layer's threshold: the engine tile as bundles name it, the core that holds it, tile row and column, the value. -/
structure Cand where
  tile : Nat
  core : Nat
  row  : Nat
  col  : Nat
  r    : Int
  deriving DecidableEq, Repr

/-- The key of a bundle's engine tile on a core. -/
def siteKey (x : Nat × Nat) : Nat := x.2 + x.1 % 65536

/-- Residuals of an engine tile (tile, core) above a threshold in 0.01 weight units, in the order of their index. -/
def tauCands (s : State) (b : Bundle) (tau : Nat) (x : Nat × Nat) : List Cand :=
  let g := listGroup b x.1
  (tileCells g).filterMap fun c =>
    let r := tileResid s (engineOf (siteKey x)) (arrayNo x.1) g (planeNo x.1) c.1 c.2
    if 64 * tau < 100 * r.natAbs then some { tile := x.1, core := x.2, row := c.1, col := c.2, r := r } else none

/-- Largest magnitude first; equal ones stay in the order of tile and index. -/
def byMagnitude (l : List Cand) : List Cand := orderBy (fun a c => decide (c.r.natAbs < a.r.natAbs)) l

/-- Candidates of a tile within its list's capacity, 64 entries for each array of the tile (R165). -/
def tileCands (s : State) (b : Bundle) (tau : Nat) (x : Nat × Nat) : List Cand :=
  (byMagnitude (tauCands s b tau x)).take (64 * listGroup b x.1 - (tget ([], []) s.glz.outl (siteKey x)).1.length)

/-- Every plane of an engine tile stands written. -/
def tileWritten (s : State) (b : Bundle) (tile core : Nat) : Bool :=
  (b.images.filter fun m => tileOfPlane b m.array m.plane == tile).all fun m =>
    tget false s.arr.written (planeKey (core + m.array % 65536) m.plane)

/-- The engine tiles of a layer, each on its home core, those of `core`'s own position on `core`. -/
def layerTiles (s : State) (b : Bundle) (layer core : Nat) : List (Nat × Nat) :=
  (b.tileLayer.filter (·.2 == layer)).filterMap fun p =>
    (if clusterOf p.1 = clusterOf core ∧ posServed s core = some (coreNo p.1) then some core
      else homeCore s (clusterOf p.1) (coreNo p.1)).map fun c => (p.1, c)

/-- The residual table of a tile's planes is lost: its corrections stand (R107, R298). -/
def residGone (s : State) (b : Bundle) (x : Nat × Nat) : Bool :=
  (b.images.filter fun m => tileOfPlane b m.array m.plane == x.1).any fun m =>
    s.glz.residLost.contains (planeKey (x.2 + m.array % 65536) m.plane)

/-- The written tiles of a layer whose residuals are there. -/
def layerSites (s : State) (b : Bundle) (layer core : Nat) : List (Nat × Nat) :=
  (layerTiles s b layer core).filter fun x => tileWritten s b x.1 x.2 && !residGone s b x

/-- Residual entries of a layer that stand though the residuals they come from are lost. -/
def standing (s : State) (b : Bundle) (layer core : Nat) : Nat :=
  ((layerTiles s b layer core).filter (residGone s b)).foldl (fun a x => a + (tget ([], []) s.glz.outl (siteKey x)).2.length) 0

/-- The residual entries that a layer keeps (R83, R165): the largest of all its tiles within 1 % of its array weights, less the excluded weights. -/
def layerKept (s : State) (b : Bundle) (layer core tau : Nat) : List Cand :=
  (byMagnitude ((layerSites s b layer core).flatMap (tileCands s b tau))).take
    (layerWeights b layer / 100 - layerExcluded b layer - standing s b layer core)

/-- A factor vector quantised (R173): its scale in BF16, its elements from -7 to 7, nearest, ties to even. -/
def quantise (v : List Dy) : Half × List Int :=
  let top := v.foldl (fun a x => dyMax a (dyAbs x)) dyZero
  let sc : Half := if top.m = 0 then 0 else BitVec.ofNat 16 (magCode bf16F .near top.m.natAbs 7 top.e)
  let d := bfDy sc
  let one (x : Dy) : Int :=
    if d.m = 0 then 0
    else if d.e ≤ x.e then rndEven (x.m * p2 (x.e - d.e)) d.m.natAbs else rndEven x.m (d.m.natAbs * 2 ^ (d.e - x.e).toNat)
  (sc, v.map fun x => max (-7) (min 7 (one x)))

/-- The residual correction of a tile (R82, R173): the leading factor pairs of the residuals in 1/64 weight units, u · v subtracted. -/
def glrTable (k g : Nat) (mat : List (List Int)) : GlrTab :=
  let fs := ((Config.rank8 mat).take 8).take k
  let us := fs.map fun f => quantise ((f.1.take (64 * g)).map fun w => dyScale (f32Dy w) (-6))
  let vs := fs.map fun f => quantise ((f.2.take 64).map fun w => dyNeg (f32Dy w))
  { k := fs.length, u := (List.range (64 * g)).map fun i => us.map fun u => nth 0 u.2 i, v := vs.map (·.2)
    su := us.map (·.1), sv := vs.map (·.1) }

/-- The corrections of one engine tile, with the residual entries that its layer keeps of it; what is folded back stays in the remainder. -/
def writeCorr (b : Bundle) (k : Nat) (kept : List Cand) (s : State) (x : Nat × Nat) : State :=
  let g := listGroup b x.1
  let mine := kept.filter fun c => c.tile == x.1 && c.core == x.2
  let es := orderBy (fun (a c : OutEntry) => decide (a.row * 64 + a.col < c.row * 64 + c.col)) (mine.map fun c => residEntry c.row c.col c.r)
  let mat := (List.range (g * 64)).map fun i => (List.range 64).map fun j =>
    if mine.any fun c => c.row == i && c.col == j then 0 else tileResid s (engineOf (siteKey x)) (arrayNo x.1) g (planeNo x.1) i j
  { s with glz := { s.glz with
    outl := tput ([], []) s.glz.outl (siteKey x) ((tget ([], []) s.glz.outl (siteKey x)).1, es)
    glr := tput GlrTab.init s.glz.glr (siteKey x) (if k = 0 then GlrTab.init else glrTable k g mat) } }

/-- The policy of a layer: its threshold in 0.01 weight units, its kept rank (R82, R173). -/
def policyOf (b : Bundle) (layer : Nat) : Nat × Nat := match b.policy.find? (·.1 == layer) with | some p => p.2 | none => (45, 0)

/-- The corrections of an engine tile of a core are derived (R82, R83). Tiles of its layer that lose entries to it are written again; those folded
are counted and recorded. -/
def deriveTile (b : Bundle) (tile core : Nat) (s : State) : State :=
  let layer := layerOf b tile
  let (tau, k) := policyOf b layer
  let kept := layerKept s b layer core tau
  let count (x : Nat × Nat) : Nat := (kept.filter fun c => c.tile == x.1 && c.core == x.2).length
  let changed := (layerSites s b layer core).filter fun x =>
    x == (tile, core) || ((roleOf s core).2 != 2 && count x != (tget ([], []) s.glz.outl (siteKey x)).2.length)
  let fold := changed.foldl (fun a x => a + ((tauCands s b tau x).length - count x)) 0
  let s1 := changed.foldl (writeCorr b k kept) s
  if fold = 0 then s1 else fireArg 11 (engineOf (core + tile % 65536)) 3 1 layer fold s1

/-- The corrections of the engine tile that a written plane belongs to; without its residuals, those in force stand. -/
def deriveFor (array plane : Nat) (s : State) : State :=
  match ownerOf s array plane, logicalArray s array with
  | some (_, b), some a =>
    let tile := tileOfPlane b a plane
    if tileWritten s b tile (coreOf array) && !residGone s b (tile, coreOf array) then deriveTile b tile (coreOf array) s else s
  | _, _ => s

/-! ## Failed columns (R80, R85, R88) -/

/-- A failed column, by its physical number: a data column, or a spare that stands for one, is remapped; a swatch column exhausts its array. -/
def failColumn (array : Nat) (s : State) (col : Nat) : State :=
  if col < 64 then remapCol array col s
  else if col < 68 then exhaustArray array col s
  else
    let c := nth 255 (tget [] s.arr.remap array) (col - 68)
    if c = 255 then s else remapCol array c s

/-! ## A plane's end (R80 to R87) -/

/-- What is written with a plane: its format, coefficient and scales (R53, R115, R196); a pass over all columns makes a new residual table. -/
def installPlane (array : Nat) (m : PlaneImage) (s : State) : State :=
  let pk := planeKey array m.plane
  let lost := if (tget RowProg.init s.arr.rows pk).only.isEmpty then s.glz.residLost.filter (· != pk) else s.glz.residLost
  { s with
    arr := { s.arr with
      fmt := tput 0 s.arr.fmt pk m.fmt
      coeff := tput 0 s.arr.coeff pk m.coeff
      scale := (m.scales.zipIdx).foldl (fun t p => tput 0 t (pk * 4 + p.2) p.1) s.arr.scale
      written := tput false s.arr.written pk true
      rows := tput RowProg.init s.arr.rows pk RowProg.init }
    glz := { s.glz with residLost := lost } }

/-- The statistics of a tile begin again at each write of its plane (R434); a newly written plane starts with drift entries 0 (R437). -/
def freshTile (array plane : Nat) (whole : Bool) (s : State) : State :=
  match ownerOf s array plane, logicalArray s array with
  | some (_, b), some a =>
    let key := tileKey (engineOf array) (arrayNo (tileOfPlane b a plane)) plane
    { s with
      glz := { s.glz with stats := tkeep (fun k => k / 2 != key) s.glz.stats
                          saved := if whole then tkeep (fun k => k / 64 != key) s.glz.saved else s.glz.saved
                          savedT := if whole then s.glz.savedT.filter (· != key) else s.glz.savedT
                          ramps := if whole then s.glz.ramps.filter fun r => !(r.drift && r.key / 64 == key) else s.glz.ramps }
      arr := { s.arr with drift := if whole then tkeep (fun k => k / 64 != key) s.arr.drift else s.arr.drift } }
  | _, _ => s

/-- The spare that a fence, or an audit copy that a rotation, waits for is done; the cluster becomes due for PROGRAM (R424). -/
def coreEnds (core : Nat) (s : State) : State :=
  if coreDone s core then settleWrite (calDue 2 (clusterOf core) s) else s

/-! ## The end of an abort (R95) -/

/-- Master copies, residuals and corrections that a bundle put on the module leave it, audit copies included. -/
def dropBundle (b : Bundle) (s : State) : State :=
  let pks := b.images.flatMap (imagePlanes s)
  let tiles := (b.images.flatMap fun m => (holders s (clusterOf m.array) (coreNo m.array)).map fun c =>
    c + tileOfPlane b m.array m.plane % 65536).dedup
  { s with
    kv := { s.kv with master := tkeep (fun k => !pks.contains k) s.kv.master
                      lostImg := s.kv.lostImg.filter fun i => !pks.contains i.2 }
    arr := { s.arr with rows := tkeep (fun k => !pks.contains k) s.arr.rows
                        incomplete := s.arr.incomplete.filter fun k => !pks.contains k
                        written := tkeep (fun k => !pks.contains k) s.arr.written }
    glz := { s.glz with resid := tkeep (fun k => !pks.contains (k / 8192 * 16)) s.glz.resid
                        residLost := s.glz.residLost.filter (fun k => !pks.contains k)
                        outl := tkeep (fun k => !tiles.contains k) s.glz.outl
                        glr := tkeep (fun k => !tiles.contains k) s.glz.glr
                        expect := tkeep (fun k => !tiles.contains (k / 64)) s.glz.expect } }

/-- The canvas tables of a bundle leave the module. -/
def dropTables (c : Nat) (s : State) : State :=
  { s with
    seq := { s.seq with tables := tput [] s.seq.tables c [] }
    glz := { s.glz with freq := tkeep (fun k => k / 1024 != c) s.glz.freq
                        chans := tkeep (fun k => k / 65536 != c) s.glz.chans
                        dir := tkeep (fun k => k / 65536 / 512 != c) s.glz.dir
                        env := tkeep (fun k => k / 67108864 != c) s.glz.env
                        varEst := tkeep (fun k => k / 67108864 != c) s.glz.varEst
                        kvSat := tkeep (fun k => k / 128 != c) s.glz.kvSat
                        bound := tkeep (fun k => k / 128 != c) s.glz.bound }
    kv := { s.kv with near := zeroRange s.kv.near (2 ^ 50 + c * 2 ^ 46) (2 ^ 46)
                      attn := tkeep (fun k => k / 128 != c) s.kv.attn } }

/-- A load or an erase of another canvas keeps a canvas drained (R93). -/
def keptDrained (s : State) (d : Nat) : Bool :=
  match (cnvOf s d).bundle with
  | some o => (List.range 4).any fun c => c != d &&
      (((cnvOf s c).loadPh != 0 && (cnvOf s c).staged.any (sharesEngine · o)) || ((cnvOf s c).erasing.isSome && (cnvOf s c).bundle.any (sharesEngine · o)))
  | none => false

/-- Canvases serve again that no load or erase keeps drained, and whose engines have no plane to write (R86, R93). -/
def settleHolds (s : State) : State :=
  (List.range 4).foldl (fun t c =>
    unhold c (if keptDrained t c || mustWait t c then t else modCnv c (fun v => { v with neighbour := false }) t)) s

/-- A canvas is left empty: nothing of its resident bundle stays (R95, R104). -/
def emptyCanvas (c : Nat) (s : State) : State :=
  let v := cnvOf s c
  let s1 := match v.bundle with | some b => dropBundle b s | none => s
  dropTables c (modCnv c (fun x =>
    { x with bundle := none, st := 0, loadPh := 0, waveCores := 0, recSt := 0, recHash := 0, recDurable := false, recPend := false,
             await := false, awaitImg := false, floor := false, floorLeft := 0, reprog := [], warm := false }) s1)

/-- Planes of a bundle in the middle of being written. -/
def midPlane (s : State) (b : Bundle) : Bool :=
  b.images.any fun m => match homePlane s m with
    | some pk => inPass (tget RowProg.init s.arr.rows pk)
    | none => false

/-- The load of a canvas stops: LOAD is answered `o`, the staged bundle stays staged unless it was lost. -/
def stopLoad (c o : Nat) (s : State) : State :=
  let v := cnvOf s c
  let s1 := settleHolds (emptyCanvas c s)
  canvasEvent c 0 (fire 28 0 0 2 c (if v.loadPh = 0 then s1 else replyOutcomeLate v.loadHdr o s1))

/-- An abort takes effect at the plane boundary (R95); one without a session is the stop for a staged bundle lost in its load (R298). -/
def tryAbort (c : Nat) (s : State) : State :=
  let v := cnvOf s c
  match v.aborting with
  | some h =>
    if decide (2 ≤ v.loadPh) && v.bundle.any (midPlane s) then s
    else
      let s1 := modCnv c (fun x => { x with aborting := none }) (stopLoad c (if h.ses = 0 then 9 else 8) s)
      if h.ses = 0 then modCnv c (fun x => { x with staged := none }) s1 else replyOutcomeLate h 0 s1
  | none => s

/-- PLANE_WRITE_COMPLETE. -/
def planeEnd (array plane : Nat) (s : State) : State :=
  let pk := planeKey array plane
  let r := tget RowProg.init s.arr.rows pk
  match tget none s.kv.master pk with
  | none => s
  | some m =>
    if !(r.done && r.row == 63) then s
    else
      let s1 := r.failed.foldl (failColumn array) (freshTile array plane r.only.isEmpty (installPlane array m s))
      let s2 := coreEnds (coreOf array) (deriveFor array plane s1)
      settleHolds ((List.range 4).foldl (fun t c => tryAbort c t) s2)

def execPlaneWriteComplete (array plane : Nat) (s : State) : Out :=
  okIf (isArray array && decide (plane < 16)) (planeEnd array plane s)

/-! ## Waves (R91 to R94, R101 to R103) -/

/-- A request of a canvas still runs. -/
def canvasBusy (s : State) (c : Nat) : Bool :=
  (s.sch.cur.any fun k => k.canvas == c) || !(entriesWhere s fun e => e.canvas == c && running e && e.waitHdr.isNone).isEmpty

/-- A step of a canvas is in flight. -/
def cnvInStep (s : State) (c : Nat) : Bool := s.sch.cur.any fun k => k.canvas == c

/-- One image of the bundle being loaded takes its place, on the core that serves its position and on an audit copy. -/
def placeImage (s : State) (m : PlaneImage) : State :=
  (imagePlanes s m).foldl (fun t pk =>
    { t with kv := { t.kv with master := tput none t.kv.master pk (some m) }
             arr := { t.arr with written := tput false t.arr.written pk false
                                 rows := tput RowProg.init t.arr.rows pk RowProg.init } }) s

/-- The key of a tile of a bundle on its home core. -/
def homeTile (s : State) (tile : Nat) : Option Nat := (homeCore s (clusterOf tile) (coreNo tile)).map fun c => c + tile % 65536

/-- Excluded-weight entries of the bundle, in ascending order of their index (R162). -/
def placeOutliers (b : Bundle) (s : State) : State :=
  b.outliers.foldl (fun t l => (holders t (clusterOf l.tile) (coreNo l.tile)).foldl (fun u c =>
    let cells := orderBy (fun (a e : OutEntry) => decide (a.row * 64 + a.col < e.row * 64 + e.col)) l.cells
    { u with glz := { u.glz with outl := tput ([], []) u.glz.outl (c + l.tile % 65536) (cells, []) } }) t) s

/-- Audit copies of positions that a bundle writes are not in use until they are written and calibrated again (R407). -/
def staleAudits (b : Bundle) (s : State) : State :=
  (clustersWith b).foldl (fun t cl =>
    if b.images.any fun m => clusterOf m.array == cl && coreNo m.array == (auditOf t cl).pos then
      modAudit cl (fun x => { x with ready := false, queue := [] }) t
    else t) s

/-- The scramble in force is the present key's once no other canvas is resident: a changed key takes effect when every canvas is reprogrammed. -/
def takeScramble (c : Nat) (s : State) : State :=
  if (List.range 4).any fun d => d != c && (cnvOf s d).bundle.isSome then s
  else { s with arr := { s.arr with scrGen := s.sec.scrGen }, sec := { s.sec with scrUse := s.sec.scrGen } }

/-- The first wave begins: the old bundle's far-tier space is released, the record is written in the loading state. -/
def beginLoad (c : Nat) (b : Bundle) (s : State) : State :=
  let v := cnvOf s c
  let s1 := modCnv c (fun x => { x with
    bundle := some (recordOf b), st := 1, loadPh := 2, recSt := 1, recHash := b.hash, recDurable := false
    sameHash := (match v.bundle with | some o => o.hash == b.hash | none => v.recHash == b.hash)
    ownerGen := v.stagedGen }) (takeScramble c (emptyCanvas c s))
  let s2 := staleAudits b (placeOutliers b (b.images.foldl placeImage s1))
  let cores := (b.images.flatMap (imagePlanes s2)).map coreOf
  let engs := ((b.images.flatMap (imagePlanes s2)).map engineOf).dedup
  let s3 := cores.dedup.foldl wearCore (engs.foldl (fun t e => programEngine e t) s2)
  canvasEvent c 1 (modCnv c (fun x => { x with waveCores := min (waveLimit s3 - otherWriters s3 c) (bundleCores s3 b).length }) s3)

/-- Every plane that the waves so far have taken stands written. -/
def waveDone (s : State) (c : Nat) (b : Bundle) : Bool :=
  (takenCores s c b).all fun core => (wavePlanes s ((cnvOf s c).loadPh == 2) b core).all fun pk => tget false s.arr.written pk

/-- A later wave: the cores that write in both waves count in it again (R92). -/
def nextWave (c : Nat) (b : Bundle) (s : State) : State :=
  let again := if (cnvOf s c).loadPh = 2 then ((takenCores s c b).filter (isLarge s b)).length else 0
  let room := waveLimit s - otherWriters s c - again
  modCnv c (fun x => { x with loadPh := 3, waveCores := min (x.waveCores + room) (bundleCores s b).length }) s

/-- PROGRAMMING_WAVE_START: the first wave once the canvas and its neighbours are drained, each later one after the last; none while the pumps'
budget has room for no core. -/
def waveStart (c : Nat) (s : State) : State :=
  let v := cnvOf s c
  match v.staged with
  | none => s
  | some b =>
    if !mayWrite s || v.aborting.isSome || waveLimit s - otherWriters s c = 0 then s
    else if v.loadPh = 1 then
      if canvasBusy s c || (neighboursOf s c b).any (cnvInStep s) then s else beginLoad c b s
    else if 2 ≤ v.loadPh && waveDone s c b && (decide (v.waveCores < (bundleCores s b).length) || v.loadPh == 2) then nextWave c b s
    else s

def execProgrammingWaveStart (canvas : Nat) (s : State) : Out := okIf (decide (canvas < 4)) (waveStart canvas s)

/-! ## Readback (R107, R298) -/

/-- A plane image read back from the cells over the verify path: each cell is the nearest weight, and the scramble is undone. -/
def readImage (s : State) (pk : Nat) (m : PlaneImage) : PlaneImage :=
  let w (i j : Nat) : Int :=
    let v := cellAt s pk (nth i (rowPerm s pk) i) (physCol s (arrayOf pk) j)
    if flipOf s pk j then -v else v
  { m with bytes := (List.range 64).flatMap fun i => (List.range 32).map fun k =>
      BitVec.ofNat 8 (trunc 4 (w i (2 * k)) + 16 * trunc 4 (w i (2 * k + 1))) }

/-- The image that the cells hold has the CRC-32C recorded for it. -/
def imageMatches (s : State) (pk : Nat) (m : PlaneImage) : Bool := crc32c (readImage s pk m).bytes == m.crc

/-! ## The canvas serves (R94, R101, R221, R343) -/

/-- Envelopes of a bundle under their keys, with the initial variance estimates (R183, R184). -/
def placeEnvelopes (c : Nat) (b : Bundle) (g : GlzSt) : GlzSt :=
  b.envelopes.foldl (fun t e => { t with env := tput Envelope.init t.env (c * 67108864 + e.1) e.2
                                         varEst := tput 0 t.varEst (c * 67108864 + e.1) (bfToF32 e.2.vinit) }) g

/-- The copies of a channel's row in the planes that a layer input feeds, by the planes' keys in the bundle: the master weights of its row in each
array that leads (R111, R166). -/
def rowsOf (s : State) (b : Bundle) (set index : Nat) : List (Nat × List Int) :=
  (b.tileIn.filter (·.2.1 == set)).flatMap fun x =>
    let lead := (b.images.filter fun m => m.fmt != 3 && tileOfPlane b m.array m.plane == x.1).map (·.array)
    let arrays := orderBy (fun a c => decide (a < c)) lead
    match arrays[(index - x.2.2) / 64]? with
    | some a => if index < x.2.2 then [] else
        (match homeCore s (clusterOf a) (coreNo a) with
          | some c => [(planeKey a (planeNo x.1), (List.range 64).map fun j =>
              masterW s (c + a % 65536) (planeNo x.1) ((index - x.2.2) % 64) j)]
          | none => [])
    | none => []

/-- Compiled channels of a channel set, in ascending index, with their row copies (R166). -/
def compiledChans (s : State) (b : Bundle) (set : Nat) (l : List Nat) : List Chan :=
  (orderBy (fun i j => decide (i < j)) (l.take 32)).map fun i => { index := i, runtime := false, active := true, rows := rowsOf s b set i }

/-- The embedding table in the near tier: each word's row striped over the eight context dies (R300). -/
def placeEmbed (c : Nat) (b : Bundle) (m : Mem) : Mem :=
  (b.embed.zipIdx).foldl (fun m w => (List.range 8).foldl (fun m n =>
    wrBytes m (embedAddr c n w.2 (stripeBytes b)) (((w.1.drop (n * (b.hidden / 8))).take (b.hidden / 8)).flatMap fun h => leBytes h.toNat 2)) m) m

/-- Every table that the module writes when a canvas begins to serve. -/
def installTables (c : Nat) (b : Bundle) (s : State) : State :=
  let g0 := placeEnvelopes c b s.glz
  let st := b.stats.foldl (fun t e => match homeTile s (e.1 / 64) with
    | some k => tput (0, 0) t (k * 64 + e.1 % 64) e.2
    | none => t) g0.expect
  { s with
    seq := { s.seq with tables := tput [] s.seq.tables c b.templates }
    glz := { g0 with
      chans := b.channels.foldl (fun t e => tput [] t (chanKey c e.1) (compiledChans s b e.1 e.2)) g0.chans
      freq := b.freqs.foldl (fun t e => tput [] t (c * 1024 + e.1 % 1024) e.2) g0.freq
      dir := b.dir.foldl (fun t e => tput 0 t (dirKey c e.1 e.2.1) (e.2.2 + 1)) g0.dir
      expect := st }
    kv := { s.kv with
      near := placeEmbed c b s.kv.near
      attn := b.attn.foldl (fun t r => tput AttnRec.init t (c * 128 + r.layer % 128) r) s.kv.attn } }

/-- Conversations of another bundle are discarded, each with EXPIRED (R343). -/
def dropConversations (c : Nat) (s : State) : State :=
  (entriesWhere s fun e => e.canvas == c && (e.st == .idle || e.st == .paused || e.saved.isSome)).foldl (fun t ix => expire ix t) s

/-- Everything of a load is done: its planes stand written, passes over shared engines are too, and its clusters are calibrated. -/
def loadReady (s : State) (c : Nat) (b : Bundle) : Bool :=
  decide (2 ≤ (cnvOf s c).loadPh) && (cnvOf s c).aborting.isNone && decide ((bundleCores s b).length ≤ (cnvOf s c).waveCores)
    && (bundleCores s b).all (coreDone s) && (clustersWith b).all fun cl => !bitOf (calOf s cl).due 2

/-- A canvas begins to serve (R94); its complete record is being written from now on (R101). -/
def serveCanvas (c : Nat) (b : Bundle) (s : State) : State :=
  canvasEvent c 2 (modCnv c (fun x => { x with st := 2, await := false, awaitImg := false, recPend := true }) (installTables c b s))

/-- LOAD_COMPLETE. -/
def loadDone (c : Nat) (s : State) : State :=
  let v := cnvOf s c
  match v.staged with
  | none => s
  | some b =>
    if loadReady s c b then
      let s1 := serveCanvas c b (if v.sameHash then s else dropConversations c s)
      let s2 := modCnv c (fun x => { x with staged := none, loadPh := 0, waveCores := 0 }) s1
      replyOutcomeLate v.loadHdr 0 (fire 28 0 0 1 c (settleHolds s2))
    else s

def execLoadComplete (canvas : Nat) (s : State) : Out := okIf (decide (canvas < 4)) (loadDone canvas s)

/-- The engine tiles of a bundle on a cluster, on their home cores. -/
def bundleTiles (s : State) (b : Bundle) (cl : Nat) : List Nat :=
  ((b.images.filter fun m => clusterOf m.array == cl).filterMap fun m => (homeCore s cl (coreNo m.array)).map fun core =>
    tileKey (core + engineOf m.array % 65536) (arrayNo (tileOfPlane b m.array m.plane)) m.plane).dedup

/-- The engine tiles of the resident canvases on a cluster. -/
def clusterTiles (s : State) (cl : Nat) : List Nat :=
  (List.range 4).flatMap fun c => match (cnvOf s c).bundle with | some b => bundleTiles s b cl | none => []

/-- A cluster's drift tables saved to the canvas record (R437). -/
def saveDrift (cl : Nat) (s : State) : State :=
  let rest := tkeep (fun k => clusterOf (k / 64) != cl) s.glz.saved
  let now := (s.arr.drift.map (·.1)).filter fun k => clusterOf (k / 64) == cl
  modCal cl (fun k => { k with lastSave := s.clk.hours })
    { s with glz := { s.glz with
      saved := now.foldl (fun t k => tput (0, 0) t k (tget (0, 0) s.arr.drift k)) rest
      savedT := (s.glz.savedT.filter fun k => clusterOf k != cl) ++ clusterTiles s cl } }

/-- DRIFT_TABLE_SAVE: at most once per 3,600 s of operating hours. -/
def execDriftTableSave (cluster : Nat) (s : State) : Out :=
  okIf (isArrCluster cluster)
    (if (calOf s cluster).lastSave + 36000 ≤ s.clk.hours then saveDrift cluster s else s)

/-- CANVAS_RECORD_DURABLE (R101): the complete record, whose writing began when the canvas began to serve. -/
def recordDurable (c : Nat) (s : State) : State :=
  if (cnvOf s c).recPend then modCnv c (fun x => { x with recSt := 2, recDurable := true, recPend := false }) s else s

def execCanvasRecordDurable (canvas : Nat) (s : State) : Out := okIf (decide (canvas < 4)) (recordDurable canvas s)

/-! ## Staging (R96 to R98) -/

/-- The present state refuses STAGE, LOAD, ABORT and ERASE of a canvas (outcome 6 of R98). -/
def cnvBlocked (s : State) (c : Nat) : Bool :=
  s.hist.draining || s.hist.inRepl || holding s || (cnvOf s c).erasing.isSome || s.sec.modErase.isSome || s.sec.relErase.isSome

/-- A staged image takes the place of a lost one (R298). -/
def putLost (c : Nat) (s : State) (m : PlaneImage) : State :=
  match homePlane s m with
  | some pk => if s.kv.lostImg.contains (c, pk) then
      { s with kv := { s.kv with master := tput none s.kv.master pk (some m), lostImg := s.kv.lostImg.filter (· != (c, pk)) } }
    else s
  | none => s

/-- The last part of a Dolotte bundle: it becomes the canvas's staged bundle, or restores lost images (R298). -/
def acceptBundle (c total : Nat) (b : Bundle) (s : State) : State :=
  let v := cnvOf s c
  let s1 := modCnv c (fun x => { x with staged := some b, stagedLen := total, stagedGen := x.stGen }) s
  if v.awaitImg && (v.bundle.any fun o => o.hash == b.hash) then
    let s2 := modCnv c (fun x => { x with await := false, awaitImg := false, lostHold := false }) s1
    unhold c (b.images.foldl (putLost c) s2)
  else s1

/-- The part of a STAGE that follows the open staging's last part, or begins one. -/
def stagePart (h : Hdr) (c off len total : Nat) (b : Bundle) (s : State) : State :=
  let s1 := modCnv c (fun x => { x with stOpen := true, stHdr := h, stNext := off + len, stTotal := total, stUs := s.clk.us }) s
  if off + len = total then
    let o := stageOutcome s1 c total b
    let s2 := modCnv c (fun x => { x with stOpen := false, stNext := 0, stTotal := 0 }) s1
    let s3 := if o = 1 then fire 25 0 0 1 (s2.sec.ownerGen % 65536)
        { s2 with sec := { s2.sec with sigFail := satAdd 32 s2.sec.sigFail 1 } } else s2
    replyOutcome h o (if o = 0 then acceptBundle c total b s3 else s3)
  else s1

/-- A staging whose last part is more than 1 s old ends (R97). -/
def lateStaging (c : Nat) (s : State) : State :=
  if (cnvOf s c).stOpen && decide ((cnvOf s c).stUs + 1000000 < s.clk.us) then endStaging c s else s

/-- A part of a STAGE that arrives in time. One that the present state refuses is answered 6 at once, the last or not, and an open staging stays open
(log entry 62). -/
def stageIn (h : Hdr) (c off len total : Nat) (b : Bundle) (s : State) : State :=
  let v := cnvOf s c
  if cnvBlocked s c || v.loadPh != 0 then replyOutcome h 6 s
  else if off = 0 then
    let s1 := if v.stOpen then endStaging c s else s
    if total < len then replyOutcome h 7 s1
    else stagePart h c 0 len total b (modCnv c (fun x => { x with stGen := s.sec.ownerGen }) s1)
  else if v.stOpen && v.stHdr.ses == h.ses && v.stHdr.queue == h.queue && v.stNext == off && v.stTotal == total
      && decide (off + len ≤ total) then stagePart h c off len total b s
  else replyOutcome h 7 (if v.stOpen then modCnv c (fun x => { x with stOpen := false, stNext := 0, stTotal := 0 }) s else s)

/-- STAGE. -/
def stageOp (h : Hdr) (c off len total : Nat) (b : Bundle) (s : State) : State := stageIn h c off len total b (lateStaging c s)

def execStage (h : Hdr) (canvas offset len total : Nat) (bundle : Bundle) (s : State) : Out :=
  okIf (hdrOk h && decide (canvas < 4) && decide (offset < 2 ^ 64) && decide (total < 2 ^ 64))
    (hostBody .operator_ h (some canvas) false false (stageOp h canvas offset len total bundle) s)

/-- STAGE_PART_TIMEOUT: 1 s after a part with no next part. -/
def execStagePartTimeout (canvas : Nat) (s : State) : Out :=
  okIf (decide (canvas < 4))
    (if (cnvOf s canvas).stOpen && decide ((cnvOf s canvas).stUs + 1000000 ≤ s.clk.us) then endStaging canvas s else s)

/-! ## LOAD and ABORT -/

/-- The planes of a bundle fit those that the other resident canvases leave free (R16). -/
def planesFree (s : State) (c : Nat) (b : Bundle) : Bool :=
  (List.range 4).all fun d => d == c || match (cnvOf s d).bundle with
    | some o => !(b.images.any fun m => (imageAt o m.array m.plane).isSome)
    | none => true

/-- A LOAD's outcome when it is refused (R97, R98, R261); tables that the canvases resident by now leave no room for are a lack of capacity (log
entry 97). -/
def loadRefused (s : State) (c : Nat) : Option Nat :=
  let v := cnvOf s c
  if cnvBlocked s c || v.loadPh != 0 then some 6
  else match v.staged with
    | none => some 9
    | some b =>
      if (v.recSt = 1 ∨ v.await) ∧ v.recHash ≠ b.hash then some 9
      else if !planesFree s c b || !tablesFit s c b then some 5
      else if 1000 * v.watchdog < 2 * wStep b then some 10
      else none

/-- A neighbour goes to HELD until the load or erase ends (R93, R344). -/
def drainNeighbour (s : State) (d : Nat) : State := modCnv d (fun v => { v with neighbour := true }) (holdCanvas d s)

/-- LOAD. -/
def loadOp (h : Hdr) (c : Nat) (s : State) : State :=
  match loadRefused s c, (cnvOf s c).staged with
  | none, some b =>
    let s1 := modCnv c (fun x => { x with loadPh := 1, loadHdr := h, loadUs := s.clk.us,
                                          loadEnd := s.clk.us + 1000000 * x.loadDrain }) (leaveOut h s)
    fire 28 0 0 0 c ((neighboursOf s1 c b).foldl drainNeighbour s1)
  | some o, _ => replyOutcome h o s
  | none, none => replyOutcome h 9 s

def execLoad (h : Hdr) (canvas : Nat) (s : State) : Out := hostCmd .operator_ h (decide (canvas < 4)) (loadOp h canvas) s

/-- ABORT: the load stops at the next plane boundary. With no load, 11 goes before 6; a second ABORT while one waits is answered 6 (log entry 62). -/
def abortOp (h : Hdr) (c : Nat) (s : State) : State :=
  if (cnvOf s c).loadPh = 0 then replyOutcome h 11 s
  else if cnvBlocked s c || (cnvOf s c).aborting.isSome then replyOutcome h 6 s
  else tryAbort c (modCnv c (fun x => { x with aborting := some h }) (leaveOut h s))

def execAbort (h : Hdr) (canvas : Nat) (s : State) : Out := hostCmd .operator_ h (decide (canvas < 4)) (abortOp h canvas) s

/-! ## ERASE (R104, R105) -/

/-- Some load runs. -/
def anyLoad (s : State) : Bool := (List.range 4).any fun c => (cnvOf s c).loadPh != 0

/-- Some erase runs. -/
def anyErase (s : State) : Bool := s.sec.modErase.isSome || s.sec.relErase.isSome || (List.range 4).any fun c => (cnvOf s c).erasing.isSome

/-- A canvas's erase is accepted: it reads empty, and its neighbours drain. -/
def startErase (c : Nat) (s : State) : State :=
  let ns := match (cnvOf s c).bundle with | some b => neighboursOf s c b | none => []
  canvasEvent c 0 (ns.foldl drainNeighbour (modCnv c (fun x => { x with st := 0 }) s))

/-- ERASE. That of the module is refused while a load or an erase of any canvas runs (log entry 62). -/
def eraseOp (h : Hdr) (c : Nat) (all : Bool) (s : State) : State :=
  if s.hist.draining || s.hist.inRepl || holding s then replyOutcome h 6 s
  else if all then
    if anyLoad s || anyErase s || !(enabledPtns s).isEmpty then replyOutcome h 6 s
    else
      let s1 := (List.range 4).foldl (fun t d => modCnv d (fun x => { x with st := 0 }) t) (leaveOut h s)
      { s1 with sec := { s1.sec with modErase := some h } }
  else if cnvBlocked s c || (cnvOf s c).loadPh != 0 || !(boundTo s c).isEmpty then replyOutcome h 6 s
  else startErase c (modCnv c (fun x => { x with erasing := some h }) (leaveOut h s))

def execErase (h : Hdr) (canvas : Nat) (module_ : Bool) (s : State) : Out :=
  hostCmd .operator_ h (decide (canvas < 4)) (eraseOp h canvas module_) s

/-- Every cell of planes goes to level 0 by the loops of R77, swatch and spare columns included; their formats and residuals go too (R104). -/
def clearPlanes (p : Nat → Bool) (s : State) : State :=
  { s with
    arr := { s.arr with cells := tkeep (fun k => !p (k / 8192 * 16)) s.arr.cells
                        written := tkeep (fun k => !p k) s.arr.written
                        fmt := tkeep (fun k => !p k) s.arr.fmt
                        coeff := tkeep (fun k => !p k) s.arr.coeff
                        scale := tkeep (fun k => !p (k / 4 / 16 * 16)) s.arr.scale
                        rows := tkeep (fun k => !p k) s.arr.rows
                        incomplete := s.arr.incomplete.filter fun k => !p k }
    glz := { s.glz with resid := tkeep (fun k => !p (k / 8192 * 16)) s.glz.resid } }

/-- Cores that an erase of a canvas writes: those of its planes, audit copies included, but for cores that are retired (R93, R102). -/
def eraseCores (s : State) (c : Nat) : List Nat :=
  match (cnvOf s c).bundle with
  | some b => (((b.images.flatMap (imagePlanes s)).map coreOf).dedup).filter fun k => !barred s k
  | none => []

/-- Every core of the module that is not retired. -/
def allCores (s : State) : List Nat := (allClusters.flatMap coresOf).filter fun k => !barred s k

/-- A canvas without its planes: master copy, residuals, record and staged bundle gone; a staging that is open ends (R97, R105). -/
def wipeCanvas (c : Nat) (s : State) : State :=
  let s1 := if (cnvOf s c).stOpen then endStaging c s else s
  modCnv c (fun x => { x with staged := none }) (emptyCanvas c s1)

/-- The cells of a canvas go to level 0, on the cores that their own write does not retire (R103, R104). -/
def eraseCells (c : Nat) (s : State) : State :=
  let s1 := (eraseCores s c).foldl wearCore s
  let pks := match (cnvOf s c).bundle with
    | some b => (b.images.flatMap (imagePlanes s)).filter fun pk => !barred s1 (coreOf pk)
    | none => []
  clearPlanes pks.contains s1

/-- The cells of the whole module, and the column remaps of every array whose core is not retired (R104, R105). -/
def wipeModule (s : State) : State :=
  let s1 := (allCores s).foldl wearCore s
  let s2 := clearPlanes (fun k => !barred s1 (coreOf k)) ((List.range 4).foldl (fun t c => wipeCanvas c t) s1)
  { s2 with arr := { s2.arr with remap := tkeep (fun a => barred s2 (coreOf a)) s2.arr.remap
                                 remapWant := s2.arr.remapWant.filter fun w => barred s2 (coreOf w.1) } }

/-- The end of a RELEASE (R462): every partition key destroyed, the owner key removed, the module unclaimed. -/
def endRelease (s : State) : State :=
  let s1 := allPtns.foldl (fun t n => modPtn n (fun p => { p with key := 0 }) t) (wipeModule s)
  fire 25 0 0 3 (s1.sec.ownerGen % 65536) { s1 with sec := { s1.sec with relErase := none, claimed := false, ownerKey := 0, ownerGen := 0 } }

/-- A canvas's erase waits for its neighbours' steps in flight (R93). -/
def eraseWaits (s : State) (c : Nat) : Bool :=
  cnvInStep s c || match (cnvOf s c).bundle with | some b => (neighboursOf s c b).any (cnvInStep s) | none => false

/-- A canvas's finished erase. -/
def eraseCanvas (s : State) (c : Nat) : State :=
  match (cnvOf s c).erasing with
  | some h => if eraseWaits s c then s else
      replyOutcomeLate h 0 (settleHolds (modCnv c (fun x => { x with erasing := none }) (wipeCanvas c (eraseCells c s))))
  | none => s

/-- A finished module erase. -/
def eraseModule (s : State) : State :=
  match s.sec.modErase with
  | some h => if s.sch.cur.isSome then s else
    let w := wipeModule s
    replyOutcomeLate h 0 { w with sec := { w.sec with modErase := none } }
  | none => s

/-- A finished release. -/
def eraseRelease (s : State) : State :=
  match s.sec.relErase with
  | some h => if s.sch.cur.isSome then s else replyLate h 0 0 h.handle [] (endRelease s)
  | none => s

/-- ERASE_COMPLETE: every erase that runs ends with its reply; that of a RELEASE ends the release (R462). -/
def eraseDone (s : State) : State :=
  if mayWrite s then eraseRelease (eraseModule ((List.range 4).foldl eraseCanvas s)) else s

def execEraseComplete (s : State) : Out := .next (eraseDone s)

end Sys2Proof.Machine
end

