-- ==== Sys2Proof/Machine/Tables.lean ====
section
/-! DEFINITION. The glaze tables while a canvas serves (R146, R159 to R162, R166 to R173, R178, R179): digital column lists, channel sets,
the bytes of outlier lists, and the fetch of tables from the near tier. -/

namespace Sys2Proof.Machine

/-! ## The digital column list (R146, R159, R161) -/

/-- PERSISTENT_COLUMN_RELEASE (R146): 4,096 consecutive committed steps without saturation. -/
def execPersistentColumnRelease (core array plane col : Nat) (s : State) : Out :=
  okIf (isCore core && isArray array && coreOf array == core && decide (plane < 16) && decide (col < 64))
    (modDigcol core (fun l => l.filter fun d => !(isDigCol array plane col d && d.persist && decide (4096 ≤ d.clean))) s)

/-- The 64 master weights of a logical column (R159). -/
def columnWeights (s : State) (array plane col : Nat) : List Int := (List.range 64).map fun r => masterW s array plane r col

/-- DIGCOL_ENTRY_FETCH (R161): the column's master weights have arrived, and the entry takes effect at the boundary. -/
def fetchColumn (core array plane col : Nat) (s : State) : State :=
  if s.sch.cur.isSome then s
  else modDigcol core (fun l => l.map fun d =>
    if isDigCol array plane col d then { d with w := columnWeights s array plane col, active := true } else d) s

def execDigcolEntryFetch (core array plane col : Nat) (s : State) : Out :=
  okIf (isCore core && isArray array && coreOf array == core && decide (plane < 16) && decide (col < 64)) (fetchColumn core array plane col s)

/-! ## Channel sets (R166, R170 to R172) -/

/-- The engine tiles, on their home cores, that a layer input feeds. -/
def fedTiles (s : State) (canvas set : Nat) : List Nat :=
  match (cnvOf s canvas).bundle with
  | some b => (b.tileIn.filter (·.2.1 == set)).filterMap fun x => homeTile s x.1
  | none => []

/-- Statistics of every engine tile fed by a layer input start again when its channel set changes (R172). -/
def resetSetStats (canvas set : Nat) (s : State) : State :=
  let fed := fedTiles s canvas set
  { s with glz := { s.glz with stats := tkeep (fun k => !fed.contains (k / 2)) s.glz.stats } }

/-- The row copies that a new channel takes from the master copy. -/
def channelRows (s : State) (canvas set index : Nat) : List (Nat × List Int) :=
  match (cnvOf s canvas).bundle with
  | some b => rowsOf s b set index
  | none => []

/-- RUNTIME_CHANNEL_ADD (R170, R172): at a boundary, once every core holds the row copies. -/
def channelAdd (canvas set index : Nat) (s : State) : State :=
  let k := chanKey canvas set
  if s.sch.cur.isSome || !s.glz.chanWant.contains (k, index) then s
  else
    let new : Chan := { index := index, runtime := true, active := true, rows := channelRows s canvas set index }
    let l := insertBy (fun a b => decide (a.index < b.index)) new (tget [] s.glz.chans k)
    fireArg 11 0 0 0 (layerOfSet s k) index (resetSetStats canvas set
      { s with glz := { s.glz with chans := tput [] s.glz.chans k l, chanWant := s.glz.chanWant.erase (k, index) } })

def execRuntimeChannelAdd (canvas set index : Nat) (s : State) : Out :=
  okIf (decide (canvas < 4) && decide (set < 65536) && decide (index < 1048576)) (channelAdd canvas set index s)

/-- RUNTIME_CHANNEL_LEAVE (R171, R172): no report in 65,536 consecutive committed steps. -/
def channelLeave (canvas set index : Nat) (s : State) : State :=
  let k := chanKey canvas set
  let l := tget [] s.glz.chans k
  let last := (tget [] s.glz.repHist (k * 1048576 + index)).getLast?.getD 0
  if s.sch.cur.isSome || !(l.any fun c => c.index == index && c.runtime) || decide ((cnvOf s canvas).steps < last + 65536) then s
  else resetSetStats canvas set { s with glz := { s.glz with chans := tput [] s.glz.chans k (l.filter fun c => c.index != index)
                                                             repHist := tput [] s.glz.repHist (k * 1048576 + index) [] } }

def execRuntimeChannelLeave (canvas set index : Nat) (s : State) : Out :=
  okIf (decide (canvas < 4) && decide (set < 65536) && decide (index < 1048576)) (channelLeave canvas set index s)

/-! ## The fetch of glaze tables (R162, R178, R179) -/

/-- The bytes of an outlier list (R162): the two counts, then value and index of each entry, the excluded weights first. -/
def outlierBytes (l : List OutEntry × List OutEntry) : List Byte :=
  leBytes l.1.length 2 ++ leBytes l.2.length 2 ++ (l.1 ++ l.2).flatMap fun e => e.value :: leBytes (e.row * 64 + e.col) 2

/-- The CRC-32C that an outlier list carries (R179). -/
def outlierCrc (l : List OutEntry × List OutEntry) : Word := crc32c (outlierBytes l)

/-- The tables of the step in flight that a cluster still fetches, in the order of its template (R178). -/
def fetchQueue (s : State) (cluster : Nat) : List Nat :=
  match s.sch.cur with
  | none => []
  | some c =>
    match (cnvOf s c.canvas).bundle with
    | some b => (match b.templates[c.tmpl]? with
      | some t => ((if c.var = 1 then t.v1 else t.v0).fetches.filter fun f => f.1 == cluster && !s.glz.fetched.contains (f.1 + f.2.2)).map (·.2.2)
      | none => [])
    | none => []

/-- A fetched table is there; what waited for it goes on. -/
def tableHere (cluster tid : Nat) (s : State) : State :=
  settleCores cluster { s with glz := { s.glz with fetched := s.glz.fetched ++ [cluster + tid] } }

/-- The corrections of a table are derived again from the residuals and the record (R84, R179). -/
def deriveAgain (cluster tid : Nat) (s : State) : State :=
  match s.sch.cur with
  | none => s
  | some c =>
    match (cnvOf s c.canvas).bundle, tget 0 s.glz.dir (dirKey c.canvas cluster tid) with
    | some b, t + 1 => (match homeCore s cluster (coreNo t) with | some k => if residGone s b (t, k) then s else deriveTile b t k s | none => s)
    | _, _ => s

/-- The step in flight is retracted to its first segment. -/
def retractStep (s : State) : State :=
  match s.sch.cur with
  | some c => if c.rewind.isNone && !c.cmtReady then sendRewind 0 s else s
  | none => s

/-- GLAZE_TABLE_FETCH (R178, R179): the next table of the template's order has arrived for a cluster. One that fails its CRC is fetched again; one
that fails again is derived again and taken, and the step in flight is retracted. -/
def tableFetch (cluster tid : Nat) (crcOk again : Bool) (s : State) : State :=
  if (fetchQueue s cluster).head? != some tid then s
  else if crcOk then tableHere cluster tid s
  else if again then retractStep (tableHere cluster tid (deriveAgain cluster tid (fire 16 cluster 1 1 0 s)))
  else fire 16 cluster 1 0 0 s

def execGlazeTableFetch (cluster tid : Nat) (crcOk again : Bool) (s : State) : Out :=
  okIf (isArrCluster cluster && decide (tid < 65536)) (tableFetch cluster tid crcOk again s)

end Sys2Proof.Machine
end

