-- ==== Sys2Proof/Machine/Memory.lean ====
section
/-! DEFINITION. Errors of the near tier, the far tier and the hot page cache (R107, R297, R298). -/

namespace Sys2Proof.Machine

/-! ## Corrected errors -/

/-- MEMORY_CORRECTABLE_ERROR (R297): corrected in flight and counted; tier 0 near, 1 far, 2 the hot page cache. -/
def countCe (tier : Nat) (s : State) : State :=
  { s with hist := { s.hist with
      ceNear := if tier = 0 then satAdd 32 s.hist.ceNear 1 else s.hist.ceNear
      ceFar := if tier = 1 then satAdd 32 s.hist.ceFar 1 else s.hist.ceFar
      ceCache := if tier = 2 then satAdd 32 s.hist.ceCache 1 else s.hist.ceCache } }

def execMemoryCorrectableError (tier : Nat) (s : State) : Out := okIf (decide (tier < 3)) (countCe tier s)

/-- FAR_TIER_PATROL (R298): one pass over the far-tier units of a hub die; the module keeps when it ended. -/
def execFarTierPatrol (hub : Nat) (s : State) : Out :=
  okIf (decide (hub < 2)) { s with kv := { s.kv with patrol := tput 0 s.kv.patrol hub (s.clk.hours + 1) } }

/-- HOT_CACHE_UNCORRECTABLE (R297): the slice leaves the cache; the near tier serves the read. -/
def dropSlice (cluster slice : Nat) (s : State) : State :=
  fire 14 cluster 1 0 0 { s with kv := { s.kv with filled := tput [] s.kv.filled cluster ((tget [] s.kv.filled cluster).eraseIdx slice) } }

def execHotCacheUncorrectable (cluster slice : Nat) (s : State) : Out :=
  okIf (isAttCluster cluster)
    (if decide (slice < (tget [] s.kv.filled cluster).length) then dropSlice cluster slice s else s)

/-! ## The far tier (R298) -/

/-- A conversation lost to a far-tier error. -/
def losePaused (ix : Nat) (s : State) : State :=
  let e := entryOf s ix
  if (e.st = .paused ∨ e.st = .resuming) ∧ e.far ≠ 0 then expire ix s else s

/-- A staged Dolotte bundle is lost: discarded, or, while it is being loaded, its load stops at the next plane boundary. -/
def loseStaged (c : Nat) (s : State) : State :=
  let v := cnvOf s c
  if v.staged.isNone then s
  else if v.loadPh = 0 then canvasEvent c v.st (modCnv c (fun x => { x with staged := none }) s)
  else if v.aborting.isSome then s
  else tryAbort c (modCnv c (fun x => { x with aborting := some Hdr.init }) s)

/-- What is lost, by region. -/
def loseRegion (r : FarRegion) (s : State) : State :=
  match r with
  | .image c pk =>
    if (tget none s.kv.master pk).isSome && !s.kv.lostImg.contains (c, pk) then
      { s with kv := { s.kv with lostImg := s.kv.lostImg ++ [(c, pk)] } }
    else s
  | .residual pk =>
    { s with glz := { s.glz with
      resid := tkeep (fun k => k / 8192 * 16 != pk) s.glz.resid
      residLost := if s.glz.residLost.contains pk then s.glz.residLost else s.glz.residLost ++ [pk] } }
  | .paused ix => losePaused ix s
  | .region => { s with req := { s.req with region := none } }
  | .staged c => loseStaged c s

/-- The operands of a region name something the module has. -/
def regionExists : FarRegion → Bool
  | .image c pk => decide (c < 4) && isArray (arrayOf pk) && planeKey (arrayOf pk) (planeNo pk) == pk
  | .residual pk => isArray (arrayOf pk) && planeKey (arrayOf pk) (planeNo pk) == pk
  | .paused ix => decide (ix < 16384)
  | .region => true
  | .staged c => decide (c < 4)

/-- FAR_TIER_UNCORRECTABLE: the frame is retired and counted, MEMERR is recorded, and the region decides the rest. -/
def farError (r : FarRegion) (s : State) : State :=
  loseRegion r (fire 14 0 0 0 1 { s with kv := { s.kv with retiredFar := satAdd 22 s.kv.retiredFar 1 } })

def execFarTierUncorrectable (r : FarRegion) (s : State) : Out := okIf (regionExists r) (farError r s)

/-- Canvases held for an image's readback serve again. -/
def endReadback (eng : Nat) (s : State) : State :=
  ((List.range 4).filter fun c => (cnvOf s c).lostHold && engineUsed s c eng).foldl
    (fun t c => unhold c (modCnv c (fun v => { v with lostHold := false }) t)) s

/-- MASTER_COPY_READBACK: an image that matches its recorded CRC is written into a new frame; otherwise the canvas keeps serving and awaits the
bundle. -/
def readback (c pk : Nat) (crcOk : Bool) (s : State) : State :=
  let found := (tget none s.kv.master pk).map (readImage s pk)
  if !s.kv.lostImg.contains (c, pk) || (cnvOf s c).awaitImg || !(cnvOf s c).lostHold then s
  else if crcOk && (tget none s.kv.master pk).any (imageMatches s pk) then
    endReadback (engineOf pk) { s with kv := { s.kv with master := tput none s.kv.master pk found
                                                         lostImg := s.kv.lostImg.filter (· != (c, pk)) } }
  else
    let s1 := endReadback (engineOf pk) s
    healthCanvas c pk 5 19 (modCnv c (fun v => { v with await := true, awaitImg := true }) s1)

def execMasterCopyReadback (canvas plane : Nat) (crcOk : Bool) (s : State) : Out :=
  okIf (regionExists (.image canvas plane)) (readback canvas plane crcOk s)

/-! ## Poisoned pages (R297) -/

/-- Frame and offset of the leaf entry of a page. -/
def leafAt (s : State) (ptn root layer j : Nat) : Option (Nat × Nat) :=
  match frameOf s ptn root with
  | none => none
  | some rf =>
    let (f, o) := blockAt s ptn (nearNat s (nearAddr 0 rf (8 * (layer / 8))) 8 % 2 ^ 32)
    let (lf, lo) := blockAt s ptn (nearNat s (nearAddr 0 f (o + 8 * (j / 8))) 8 % 2 ^ 32)
    some (lf, lo + 64 * (layer % 8 * 8 + j % 8))

/-- One poisoned page of an entry: its committed slots stand again in a new frame, and the mark is gone. -/
def repairPage (ix : Nat) (s : State) (p : Nat × Nat) : State :=
  let e := entryOf s ix
  match leafAt s e.ptn e.ptroot p.1 p.2 with
  | some (f, o) =>
    let w := nearNat s (nearAddr 0 f o) 4
    moveFrame e.ptn (w % 2 ^ 28) (nearAll f o (leBytes (w % 2 ^ 31) 4) s)
  | none => s

/-- POISON_REPAIR: between steps, every poisoned page of the entry. -/
def repairPoison (ix : Nat) (s : State) : State :=
  if s.sch.cur.isSome then s
  else modEntry ix (fun e => { e with poison := [] }) ((entryOf s ix).poison.foldl (repairPage ix) s)

def execPoisonRepair (index : Nat) (s : State) : Out := okIf (decide (index < 16384)) (repairPoison index s)

end Sys2Proof.Machine
end

