-- ==== Sys2Proof/Machine/Requests.lean ====
section
/-! DEFINITION. The host commands that name requests, tints and completion queues, and the timers and moves of a request's life (R322 to
R356, R382 to R393). -/

namespace Sys2Proof.Machine

/-! ## Legal values (R302, R303, R393) -/

/-- A BF16 number between two others. -/
def bfBetween (lo hi : Half) (h : Half) : Bool := isFin (decBf16 h) && dyLe (bfDy lo) (bfDy h) && dyLe (bfDy h) (bfDy hi)

/-- TEMP: 0 for greedy, or 0.05 to 4.0; 0.05 is not a BF16 number, so it is compared as 1/20. -/
def tempOk (h : Half) : Bool := h == 0 || (isFin (decBf16 h) && dyLe (dyOfInt 1) (dyMul (dyOfInt 20) (bfDy h)) && dyLe (bfDy h) (dyOfInt 4))

/-- Sampling controls within R302. -/
def ctlOk (c : Ctl) : Bool :=
  tempOk c.temp && decide (c.topk ≤ 1024) && bfBetween 0 0x3F80 c.topp && decide (0 < (bfDy c.topp).m) && bfBetween 0 0x3F80 c.minp
    && bfBetween 0x3F80 0x4000 c.rpen && decide (c.rscope < 2) && decide (c.seed < 2 ^ 64) && decide (c.psrc < 2) && decide (c.tree < 2)
    && decide (c.nprop ≤ if c.tree = 1 then 16 else 8)

/-- Controls that a canvas can serve (R303). -/
def ctlServed (b : Bundle) (c : Ctl) : Bool := decide (c.nprop < 2) || (if c.psrc = 0 then b.sketch else decide (0 < b.heads))

/-- A mask area is laid out as R289 says, with NROW equal to NPROMPT. -/
def maskOk (area : List Byte) (nprompt : Nat) : Bool :=
  let w := leNat (area.take 4)
  let nrow := w % 1024
  let nblk := w / 1024 % 1024
  let bm := leNat ((area.drop 8).take 4) * 32
  nrow == nprompt && decide (1 ≤ nrow) && decide (nrow ≤ 512) && decide (1 ≤ nblk) && decide (nblk ≤ 512) && decide (w < 2 ^ 20)
    && decide (area.length ≤ 1048576) && ((area.drop 12).take 52).all (· == 0) && decide (64 + 256 * nrow ≤ area.length)
    && (List.range nrow).all fun r =>
      let row := (area.drop (64 + 256 * r)).take 256
      let code (b : Nat) : Nat := (nth 0 row (b / 4)).toNat / 4 ^ (b % 4) % 4
      let n := ((List.range nblk).filter fun b => code b == 2).length
      (List.range nblk).all (fun b => code b != 3) && (row.drop 132).all (· == 0)
        && (n == 0 || decide (bm + 32 * (leNat ((row.drop 128).take 4) + n) ≤ area.length))

/-- Fields of a SUBMIT or CONTINUE body (R393); `old` is the length of the conversation it appends to. -/
def bodyOk (b : SubmitBody) (old : Nat) : Bool :=
  decide (b.cq < 4) && decide (b.endrule < 3) && decide (1 ≤ b.maxnew) && decide (b.maxnew ≤ 524263) && decide (b.deadline < 2 ^ 32)
    && decide (b.ttl ≤ 86400) && ctlOk b.ctl && decide (1 ≤ b.nprompt) && decide (old + b.nprompt + b.maxnew ≤ 524264)
    && b.prompt.length == b.nprompt && b.prompt.all (fun t => decide (t < 2 ^ 18)) && b.maskArea.length == b.masklen
    && (if b.mask then maskOk b.maskArea b.nprompt else b.masklen == 0)

/-! ## Replies that may be late -/

/-- The reply to a command, which a command received in parts or one that waited gets late (R383). -/
def answer (late : Bool) (h : Hdr) (st arg handle : Nat) (s : State) : State :=
  if late then replyLate h st arg handle [] s else replyFull h st arg handle [] s

/-! ## RETRY_AFTER (R330) -/

/-- The planes of one engine that the longest part of a wave writes (R92). -/
def wavePart (s : State) (b : Bundle) : Nat :=
  maxOf ((bundleCores s b).map fun k => if isLarge s b k then (coreLoad s b k + 1) / 2 else coreLoad s b k)

/-- Worst-case µs of a load from its command: 4.69 ms for each plane of the longest part of each wave, then 60 ms (R90, R92, R94). -/
def loadTime (s : State) (b : Bundle) : Nat :=
  ceilDiv ((bundleCores s b).length + ((bundleCores s b).filter (isLarge s b)).length) 6144 * wavePart s b * 4690 + 60000

/-- What remains of a load, in µs. -/
def loadLeft (s : State) (c : Nat) : Nat :=
  let v := cnvOf s c
  match v.staged with
  | some b => if v.loadPh = 0 then 0 else v.loadUs + loadTime s b - s.clk.us
  | none => 0

/-- What remains of the fences that hold a canvas, in µs (R415). -/
def fenceLeft (s : State) (c : Nat) : Nat :=
  maxOf ((s.hist.fences.filter fun f => f.ph != 0 && (canvasesOn s (clusterOf f.core)).contains c).map fun f => f.us + 1500000 - s.clk.us)

/-- The estimate until a canvas serves, in ms, rounded up; 1,000 where no bound exists. -/
def retryMs (s : State) (c : Nat) : Nat :=
  let v := cnvOf s c
  if holding s || v.await || v.lostHold || s.dev.shutting then 1000
  else
    let us := max (max (fenceLeft s c) (loadLeft s c))
      (if v.neighbour then maxOf ((List.range 4).map fun d => if d = c then 0 else loadLeft s d) else 0)
    if us = 0 then 1000 else ceilDiv us 1000

/-! ## Taking an entry (R322, R323) -/

/-- The entry for a new request: a fresh one, then the one retired longest ago that has nothing left to send. -/
def freeIndex (s : State) : Option Nat :=
  if s.req.fresh < 16384 then some s.req.fresh
  else s.req.retired.find? fun ix => (entryOf s ix).out.isEmpty && !(entryOf s ix).finPend

/-- The entry is taken, its generation one higher. -/
def takeEntry (ix : Nat) (e : Entry) (s : State) : State :=
  let g := (entryOf s ix).gen
  let s1 := modEntry ix (fun _ => { e with gen := if g = 16383 then 1 else g + 1 }) s
  { s1 with req := { s1.req with fresh := if ix = s1.req.fresh then ix + 1 else s1.req.fresh
                                 retired := s1.req.retired.erase ix } }

/-- The presence set of a request (R307): every token with RSCOPE 1, else what the request has generated. -/
def presenceOf (e : Entry) : List Nat := ((if e.ctl.rscope = 1 then e.toks else e.toks.drop (e.toks.length - e.gend))).dedup

def setPresence (ix : Nat) (s : State) : State :=
  { s with head := { s.head with presence := tput [] s.head.presence ix (presenceOf (entryOf s ix)) } }

/-! ## Admission (R329 to R331) -/

/-- The bundle whose declarations a canvas shows. -/
def declared (s : State) (c : Nat) : Option Bundle := cnvBundle (cnvOf s c)

/-- Conditions of R329 up to the tint, in their order: the status of the first that applies, with its ARG. `ok` says that the fields are
legal, `total` the length with the maximum new tokens. -/
def refuse (s : State) (n : Nat) (ok : Bool) (total : Nat) (noa8 : Bool) (ctl : Ctl) : Option (Nat × Nat) :=
  let p := ptnOf s n
  let v := cnvOf s p.canvas
  if s.hist.draining || s.hist.inRepl then some (9, 0)
  else if holding s || s.dev.shutting then some (5, 1000)
  else match declared s p.canvas with
    | none => some (8, 0)
    | some b =>
      if !ok || decide (maxCtx b < total) || !ctlServed b ctl then some (8, 0)
      else if !p.enabled || !p.enable || !v.enabled || !v.enable then some (4, 0)
      else if noa8 && v.floor then some (12, 0)
      else none

/-- The new entry of a SUBMIT. -/
def newEntry (s : State) (h : Hdr) (n : Nat) (b : SubmitBody) (d : Bundle) : Entry :=
  let p := ptnOf s n
  { Entry.init with
    st := .queued, ptn := n, ses := h.ses, canvas := p.canvas, hash := d.hash, prio := b.prio, admUs := s.clk.us, deadline := b.deadline
    maxnew := b.maxnew, endrule := b.endrule, keep := b.keep, noa8 := b.noa8, cq := b.cq, toks := b.prompt, tint := b.tint
    tbound := b.tbound, tver := if b.tbound then tintCurrent s n b.tint else 0, ctl := b.ctl
    bound := b.nprompt + b.maxnew, resv := resvFor d (b.nprompt + b.maxnew) p.kvfmt, kvfmt := p.kvfmt
    maskArea := if b.mask then b.maskArea else [], ttl := if b.ttl = 0 then 600 else b.ttl, lastAct := s.clk.us }

/-- A request that is admitted, or that waits for its canvas. -/
def admitEntry (late : Bool) (h : Hdr) (ix c : Nat) (sv : Option Saved) (s : State) : State :=
  if admitting s c then answer late h 0 0 (entryHandle ix (entryOf s ix)) s
  else
    let s1 := modEntry ix (fun e => { e with waitHdr := some h, waitEnd := s.clk.us + 100000 * (cnvOf s c).admWait, saved := sv }) s
    if late then s1 else leaveOut h s1

/-- The decision on a SUBMIT (R329). -/
def submitDecide (late : Bool) (h : Hdr) (b : SubmitBody) (s : State) : State :=
  let n := cmdPtn s h
  let p := ptnOf s n
  let ok := bodyOk b 0 && decide (b.prio < 4) && decide (p.prioMin ≤ b.prio) && decide (b.tint < 16)
  match refuse s n ok (b.nprompt + b.maxnew) b.noa8 b.ctl with
  | some (st, arg) => answer late h st arg h.handle s
  | none =>
    match declared s p.canvas, freeIndex s with
    | some d, some ix =>
      let e := newEntry s h n b d
      if b.tbound && tintCurrent s n b.tint == 0 then answer late h 7 0 h.handle s
      else if p.entryMax ≤ entryUsed s n || !(decide (nearUsed s n + e.resv ≤ p.nearQ)) then answer late h 6 0 h.handle s
      else admitEntry late h ix p.canvas none (setPresence ix (takeEntry ix e s))
    | _, _ => answer late h 6 0 h.handle s

/-! ## CONTINUE (R348) -/

/-- The tint version that an entry is bound to is gone (R340). -/
def tintGone (s : State) (e : Entry) : Bool :=
  e.tbound && !((tintSlot s e.ptn e.tint).live.any fun v => v.ver == e.tver && !v.gone)

/-- What a waiting CONTINUE may have to put back. -/
def savedOf (e : Entry) : Saved :=
  { st := e.st, len := e.toks.length, maxnew := e.maxnew, gend := e.gend, delivered := e.delivered, deadline := e.deadline,
    admUs := e.admUs, ctl := e.ctl, keep := e.keep, noa8 := e.noa8, endrule := e.endrule, cq := e.cq, ses := e.ses, fin := e.fin,
    resv := e.resv, bound := e.bound, ttl := e.ttl, maskArea := e.maskArea, maskBase := e.maskBase }

/-- The entry with a CONTINUE's tokens, limits and controls; the seed, the tint and the priority stay. -/
def continued (s : State) (h : Hdr) (b : SubmitBody) (d : Bundle) (e : Entry) : Entry :=
  let len := e.toks.length + b.nprompt
  { e with
    toks := e.toks ++ b.prompt, maxnew := b.maxnew, gend := 0, delivered := 0, deadline := b.deadline, admUs := s.clk.us
    ctl := { b.ctl with seed := e.ctl.seed }, keep := b.keep, noa8 := b.noa8, endrule := b.endrule, cq := b.cq, ses := h.ses
    fin := none, resv := resvFor d (len + b.maxnew) e.kvfmt, bound := len + b.maxnew, ttl := if b.ttl = 0 then 600 else b.ttl
    maskArea := if b.mask then b.maskArea else [], maskBase := e.toks.length, lastAct := s.clk.us, next := [] }

/-- The decision on a CONTINUE. -/
def continueDecide (late : Bool) (h : Hdr) (b : SubmitBody) (s : State) : State :=
  let n := cmdPtn s h
  match handleEntry s h with
  | none =>
    match refuse s n true 0 false Ctl.init with
    | some (9, _) => answer late h 9 0 h.handle s
    | some (5, a) => answer late h 5 a h.handle s
    | _ => answer late h 8 0 h.handle s
  | some ix =>
    let e := entryOf s ix
    let kept := (e.st == .idle || e.st == .paused) && !e.pendDiscard && e.waitHdr.isNone
    match refuse s n (bodyOk b e.toks.length && kept) (e.toks.length + b.nprompt + b.maxnew) b.noa8 b.ctl with
    | some (st, arg) => answer late h st arg h.handle s
    | none =>
      match declared s e.canvas with
      | none => answer late h 8 0 h.handle s
      | some d =>
        let need := resvFor d (e.toks.length + b.nprompt + b.maxnew) e.kvfmt
        if tintGone s e then answer late h 7 0 h.handle (modEntry ix (fun x => { x with pendDiscard := true }) s)
        else if !resvFits s n ix need then answer late h 6 0 h.handle s
        else
          let s1 := setPresence ix (modEntry ix (continued s h b d) s)
          let now := admitting s e.canvas
          let s2 := modEntry ix (fun x =>
            { x with st := if e.st = .idle then (if now then .prefill else .queued) else .paused
                     pendResume := x.pendResume || (now && e.st == .paused), cont := now && e.st == .paused }) s1
          admitEntry late h ix e.canvas (some (savedOf e)) s2

/-! ## Commands that wait for an export (R352) -/

/-- The entry that a command's handle names, while it is being exported. -/
def exportOf (s : State) (h : Hdr) : Option Nat := (handleEntry s h).filter fun ix => (entryOf s ix).exporting

/-- A RESUME, or a CONTINUE with its body, that waits until an export of its conversation ends. -/
def holdForExport (ix : Nat) (h : Hdr) (b : Option SubmitBody) (s : State) : State :=
  modEntry ix (fun x => { x with exWait := x.exWait ++ [(h, b)] }) s

/-- CONTINUE: one of a conversation that is being exported waits, as a RESUME does (log entry 101). -/
def continueCmd (late : Bool) (h : Hdr) (b : SubmitBody) (s : State) : State :=
  match exportOf s h with
  | some ix => holdForExport ix h (some b) (if late then s else leaveOut h s)
  | none => continueDecide late h b s

/-! ## SUBMIT, CONTINUE and PROMPT as messages (R393) -/

/-- A body whose further parts follow in PROMPT messages is kept until the last. -/
def openParts (h : Hdr) (cont : Bool) (b : SubmitBody) (s : State) : State :=
  leaveOut h (modPtn (cmdPtn s h) (fun p =>
    { p with parts := tput none p.parts h.queue (some { h := h, cont := cont, b := b, us := s.clk.us }) }) s)

def execSubmit (h : Hdr) (b : SubmitBody) (s : State) : Out :=
  hostCmd .partition h true (fun t => if b.part then openParts h false b t else submitDecide false h b t) s

def execContinue (h : Hdr) (b : SubmitBody) (s : State) : Out :=
  hostCmd .partition h true (fun t => if b.part then openParts h true b t else continueCmd false h b t) s

/-- A PROMPT joins the open command of its queue; the last one lets the command be decided. -/
def promptOp (h : Hdr) (words : List Nat) (bytes : List Byte) (last : Bool) (s : State) : State :=
  let n := cmdPtn s h
  match tget none (ptnOf s n).parts h.queue with
  | none => reply h 8 s
  | some p =>
    let b := { p.b with prompt := p.b.prompt ++ words, maskArea := p.b.maskArea ++ bytes }
    if last || (decide (b.nprompt ≤ b.prompt.length) && decide (b.masklen ≤ b.maskArea.length)) then
      let s1 := modPtn n (fun q => { q with parts := tput none q.parts h.queue none }) s
      if p.cont then continueCmd true p.h b s1 else submitDecide true p.h b s1
    else modPtn n (fun q => { q with parts := tput none q.parts h.queue (some { p with b := b, us := s.clk.us }) }) s

def execPrompt (h : Hdr) (words : List Nat) (maskBytes : List Byte) (last : Bool) (s : State) : Out :=
  okIf (hdrOk h) (hostBody .partition h none true false (promptOp h words maskBytes last) s)

/-- COMMAND_PART_TIMEOUT: more than 1 s between parts. -/
def execCommandPartTimeout (ptn queue : Nat) (s : State) : Out :=
  okIf (decide (ptn < 12) && decide (queue < 4))
    (match tget none (ptnOf s ptn).parts queue with
      | some p => if p.us + 1000000 ≤ s.clk.us then breakParts ptn queue s else s
      | none => s)

/-! ## CANCEL, PAUSE, RESUME, DISCARD -/

/-- A request that has not completed is cancelled (R334, R336). -/
def cancelEntry (ix : Nat) (s : State) : State :=
  let e := entryOf s ix
  if e.st = .free ∨ e.fin.isSome ∨ e.st = .idle then s
  else if e.st = .paused then
    (if (ptnOf s e.ptn).sealed then retireWith ix 1 s else modEntry ix (fun x => { x with pendCancel := some 1 }) s)
  else endRequest ix 1 s

/-- CANCEL (R334, R336). -/
def cancelOp (h : Hdr) (s : State) : State :=
  if handleRetired s h then reply h 2 s
  else match handleEntry s h with
    | none => reply h 8 s
    | some ix =>
      let e := entryOf s ix
      if e.fin.isSome || e.st == .idle then reply h 2 s else reply h 0 (cancelEntry ix s)

def execCancel (h : Hdr) (s : State) : Out := hostCmd .partition h true (cancelOp h) s

/-- PAUSE (R345, R346). -/
def pauseOp (h : Hdr) (s : State) : State :=
  match handleEntry s h with
  | none => reply h 8 s
  | some ix =>
    let e := entryOf s ix
    if !(running e || e.st == .idle) || e.st == .pausing || e.waitHdr.isSome then reply h 8 s
    else if !pauseFits s ix then reply h 6 s
    else reply h 0 (modEntry ix (fun x => { x with pendPause := true }) s)

def execPause (h : Hdr) (s : State) : Out := hostCmd .partition h true (pauseOp h) s

/-- The decision on a RESUME (R347): the reservation is made again, and the pages return at the next step boundary. -/
def resumeDecide (late : Bool) (h : Hdr) (s : State) : State :=
  let no (st : Nat) (t : State) : State := answer late h st 0 h.handle t
  match handleEntry s h with
  | none => no 8 s
  | some ix =>
    let e := entryOf s ix
    let p := ptnOf s e.ptn
    if (e.st != .paused && e.st != .pausing) || e.pendDiscard || e.waitHdr.isSome then no 8 s
    else if !p.enabled || !(cnvOf s e.canvas).enabled then no 4 s
    else if tintGone s e then no 7 (modEntry ix (fun x => { x with pendDiscard := true }) s)
    else if e.st = .pausing then no 0 (modEntry ix (fun x => { x with pendResume := true }) s)
    else match declared s e.canvas with
      | none => no 8 s
      | some d =>
        let need := resvFor d e.bound e.kvfmt
        if !resvFits s e.ptn ix need then no 6 s
        else no 0 (modEntry ix (fun x => { x with resv := need, pendResume := true }) s)

/-- A RESUME waits until an export of its conversation ends (R352). -/
def resumeCmd (h : Hdr) (s : State) : State :=
  match exportOf s h with
  | some ix => holdForExport ix h none (leaveOut h s)
  | none => resumeDecide false h s

def execResume (h : Hdr) (s : State) : Out := hostCmd .partition h true (resumeCmd h) s

/-- DISCARD (R335). -/
def discardOp (h : Hdr) (s : State) : State :=
  match handleEntry s h with
  | none => reply h 8 s
  | some ix =>
    let e := entryOf s ix
    if (e.st == .idle || e.st == .paused) && e.waitHdr.isNone then reply h 0 (modEntry ix (fun x => { x with pendDiscard := true }) s)
    else reply h 8 s

def execDiscard (h : Hdr) (s : State) : Out := hostCmd .partition h true (discardOp h) s

/-! ## EXPORT and IMPORT (R352 to R354) -/

/-- The header of an export package: format version 1, certificate, serial, hash and KV format. -/
def packageHead (e : Entry) : List Byte :=
  leBytes 1 4 ++ Config.deviceCert ++ leBytes e.exSerial 8 ++ leBytes e.hash 64 ++ leBytes e.kvfmt 1

/-- The sections after the wrapped key, in the clear. -/
def packageBytes (s : State) (e : Entry) : List Byte :=
  let ver := (tintSlot s e.ptn e.tint).live.find? fun v => v.ver == e.tver
  leBytes e.toks.length 4 ++ e.toks.flatMap (fun t => leBytes t 4)
    ++ leBytes e.ctl.seed 8 ++ leBytes e.ctl.temp.toNat 2 ++ leBytes e.ctl.topk 2 ++ leBytes e.ctl.topp.toNat 2
    ++ leBytes e.ctl.minp.toNat 2 ++ leBytes e.ctl.rpen.toNat 2 ++ leBytes e.ctl.rscope 1 ++ leBytes e.tint 1 ++ leBytes (b2n e.tbound) 1
    ++ leBytes (match ver with | some v => v.hash | none => 0) 64 ++ leBytes ((e.ttlEnd - s.clk.hours) / 10) 4 ++ leBytes e.kv 4
    ++ e.farPages.flatMap fun p => leBytes p.1 1 ++ leBytes p.2.1 2 ++ leBytes p.2.2.1 4 ++ p.2.2.2

/-- The whole package with its trailer, the signature over every section. -/
def packageAll (s : State) (e : Entry) : List Byte :=
  let bs := packageHead e ++ Config.wrapKey e.exPeer e.exKey ++ Config.sealed e.exKey (packageBytes s e)
  bs ++ Config.sign 0 (Config.sha512 bs)

/-- A byte string in parts of at most `n` bytes. -/
def partsBy (n : Nat) : Nat → List Byte → List (List Byte)
  | 0, _ => []
  | k + 1, l => if l.length ≤ n then [l] else l.take n :: partsBy n k (l.drop n)

/-- The package of a paused conversation goes, in messages of at most 64 KiB, to the session that asked for it. -/
def sendPackage (ix : Nat) (s : State) : State :=
  let e := entryOf s ix
  let bs := packageAll s e
  if e.exporting && e.st == .paused then
    (partsBy 65520 (bs.length + 1) bs).foldl (fun t p =>
      post e.exSession { ty := 0x84, queue := e.cq, tag := 0, handle := entryHandle ix e, status := 0, arg := 0, body := p, evN := 0,
                         cqe := none } t) s
  else s

/-- Parts of the package wait for the host's acknowledgement. -/
def packageOut (ix : Nat) (s : State) : Bool :=
  let e := entryOf s ix
  let q := sesOf s e.exSession
  (q.queue ++ q.sent.map (·.2)).any fun m => m.ty == 0x84 && m.handle == entryHandle ix e

/-- EXPORT. -/
def exportOp (h : Hdr) (release : Bool) (peer : Nat) (s : State) : State :=
  match handleEntry s h with
  | none => reply h 8 s
  | some ix =>
    let e := entryOf s ix
    if !(e.st == .idle || e.st == .paused) || e.exporting || e.pendDiscard || e.waitHdr.isSome then reply h 8 s
    else if e.st = .idle ∧ !pauseFits s ix then reply h 6 s
    else
      let s1 := { s with req := { s.req with expSerial := (s.req.expSerial + 1) % 2 ^ 64 }, dev := { s.dev with keyCtr := s.dev.keyCtr + 1 } }
      let s2 := modEntry ix (fun x => { x with
        exporting := true, exRelease := release, exSession := h.ses, exPeer := peer, exKey := (Config.keyBits s.dev.keyCtr).toNat
        exSerial := s.req.expSerial, pendPause := x.pendPause || e.st == .idle }) s1
      sendPackage ix (reply h 0 s2)

def execExport (h : Hdr) (release : Bool) (peer : Nat) (s : State) : Out := hostCmd .partition h true (exportOp h release peer) s

/-- A command that waited for an export is decided. -/
def decideWaiting (s : State) (w : Hdr × Option SubmitBody) : State :=
  match w.2 with
  | some b => continueDecide true w.1 b s
  | none => resumeDecide true w.1 s

/-- EXPORT_RELEASE: the package's last message is acknowledged, or its session is gone, and the export ends; it releases the conversation only when
the host has acknowledged the package. Commands that waited for it are decided. -/
def exportEnd (ix : Nat) (s : State) : State :=
  let e := entryOf s ix
  if e.exporting && e.st == .paused && !packageOut ix s then
    let s1 := modEntry ix (fun x => { x with exporting := false, exRelease := false, exWait := [] }) s
    e.exWait.foldl decideWaiting (if e.exRelease && (sesOf s e.exSession).live then retire ix s1 else s1)
  else s

def execExportRelease (index : Nat) (s : State) : Out := okIf (decide (index < 16384)) (exportEnd index s)

/-- The version of a slot with a hash. -/
def tintWithHash (s : State) (n k hash : Nat) : Option Nat :=
  ((tintSlot s n k).live.find? fun v => v.hash == hash && !v.gone).map (·.ver)

/-- The entry that a package makes: PAUSED, with its remaining time to live. -/
def importEntry (s : State) (h : Hdr) (n : Nat) (p : Package) (ver : Nat) : Entry :=
  { Entry.init with
    st := .paused, ret := .idle, ptn := n, ses := h.ses, canvas := (ptnOf s n).canvas, hash := p.hash, prio := (ptnOf s n).prioMin
    admUs := s.clk.us, keep := true, cq := 0, toks := p.tokens, kv := p.kv, tint := p.tint, tbound := p.tbound, tver := ver, ctl := p.ctl
    kvfmt := p.kvfmt, far := p.frames, farPages := p.pages, ttl := p.ttlLeft, ttlEnd := afterSec s p.ttlLeft, fin := some 0
    bound := p.tokens.length, lastAct := s.clk.us }

/-- A partition or its canvas is disabled: commands that bring it work or tables are answered so (log entry 103). -/
def ptnClosed (s : State) (n : Nat) : Bool :=
  let p := ptnOf s n
  let v := cnvOf s p.canvas
  !p.enabled || !p.enable || !v.enabled || !v.enable

/-- IMPORT: the first row of R354 that applies. -/
def importOp (h : Hdr) (p : Package) (s : State) : State :=
  let n := cmdPtn s h
  let hash := match (cnvOf s (ptnOf s n).canvas).bundle with | some b => b.hash | none => 0
  let ver := tintWithHash s n p.tint p.tintHash
  if s.hist.draining || s.hist.inRepl then reply h 9 s
  else if ptnClosed s n then reply h 4 s
  else if !p.sigOk || !p.forUs then reply h 8 s
  else if s.req.imported.contains (p.peer, p.serial) then reply h 8 s
  else if hash ≠ p.hash || (cnvOf s (ptnOf s n).canvas).bundle.isNone then reply h 8 s
  else if p.tbound && ver.isNone then reply h 7 s
  else match freeIndex s with
    | none => reply h 6 s
    | some ix =>
      if (ptnOf s n).entryMax ≤ entryUsed s n || !quotaTakes s n 16384 p.frames
      then reply h 6 s
      else
        let s1 := takeEntry ix (importEntry s h n p (ver.getD 0)) s
        let mine := (s1.req.imported.filter fun i => i.1 == p.peer) ++ [(p.peer, p.serial)]
        let s2 := { s1 with req := { s1.req with
          imported := (s1.req.imported.filter fun i => i.1 != p.peer) ++ mine.drop (mine.length - 4096) } }
        replyFull h 0 0 (entryHandle ix (entryOf s2 ix)) [] s2

def execImport (h : Hdr) (p : Package) (s : State) : Out := hostCmd .partition h true (importOp h p) s

/-! ## Tints (R175, R178, R339, R340) -/

/-- A pair has a rank from 4 to 64 in steps of 4, and names a projection of its canvas that is none of the sketch model's; A is of the
projection's input width × the rank, B of the rank × its output width (R175). -/
def pairOk (b : Bundle) (p : TintPair) : Bool :=
  decide (4 ≤ p.rank) && decide (p.rank ≤ 64) && p.rank % 4 == 0 && b.projs.any fun q =>
    q.tid == p.tid && !q.sketch && p.a.length == q.inW && p.a.all (·.length == p.rank) && p.b.length == p.rank && p.b.all (·.length == q.outW)

/-- Frames of 512 KiB that the pairs of a tint take of the near-tier quota, all numbers in BF16 (R178). -/
def tintFrames (pairs : List TintPair) : Nat :=
  ceilDiv (pairs.foldl (fun a p => a + 2 + 2 * (p.a.foldl (fun k r => k + r.length) 0 + p.b.foldl (fun k r => k + r.length) 0)) 0) 524288

/-- TINT_LOAD. -/
def tintLoadOp (h : Hdr) (slot : Nat) (rebind : Bool) (hash : Nat) (pairs : List TintPair) (s : State) : State :=
  let n := cmdPtn s h
  let sl := tintSlot s n slot
  let frames := tintFrames pairs
  if ptnClosed s n then reply h 4 s
  else if !(declared s (ptnOf s n).canvas).any (fun b => pairs.all (pairOk b)) then reply h 8 s
  else if 4 ≤ (sl.live.filter fun v => !v.gone && tintBound s n slot v.ver).length
      || decide ((ptnOf s n).nearQ < nearUsed s n + frames) then reply h 6 s
  else
    let ver := if sl.last = 65535 then 1 else sl.last + 1
    let v : TintVer := { ver := ver, frames := frames, hash := hash, pairs := pairs, current := true, gone := false }
    let new : TintSlot := { last := ver, live := sl.live.map (fun x => { x with current := false }) ++ [v] }
    let s1 := modPtn n (fun p => { p with tints := tput TintSlot.init p.tints slot new }) s
    let s2 := if rebind then
        (entriesWhere s1 fun e => e.ptn == n && e.tbound && e.tint == slot).foldl
          (fun t ix => modEntry ix (fun e => { e with pendRebind := true }) t) s1
      else s1
    reply h 0 s2

/-- TINT_LOAD as a message; `whole` is false when its parts broke off (R393). -/
def execTintLoad (h : Hdr) (slot : Nat) (rebind whole : Bool) (hash : Nat) (pairs : List TintPair) (s : State) : Out :=
  hostCmd .partition h true (fun t => if 16 ≤ slot ∨ whole = false then reply h 8 t else tintLoadOp h slot rebind hash pairs t) s

/-- TINT_DELETE: running requests bound to any version of the slot end with TINT_GONE; kept conversations stay. -/
def tintDeleteOp (h : Hdr) (slot : Nat) (s : State) : State :=
  let n := cmdPtn s h
  if tintCurrent s n slot = 0 then reply h 7 s
  else
    let s1 := (entriesWhere s fun e => e.ptn == n && e.tbound && e.tint == slot && running e).foldl (fun t ix => endRequest ix 7 t) s
    let sl := tintSlot s1 n slot
    let new : TintSlot := { sl with live := sl.live.map fun v => { v with current := false, gone := true } }
    reply h 0 (modPtn n (fun p => { p with tints := tput TintSlot.init p.tints slot new }) s1)

def execTintDelete (h : Hdr) (slot : Nat) (s : State) : Out := hostCmd .partition h true (fun t => if 16 ≤ slot then reply h 8 t else tintDeleteOp h slot t) s

/-! ## CQ_READ (R384) -/

/-- A completion-queue entry as bytes: handle, status, delivered count, last sequence index. -/
def cqBytes (c : CqEnt) : List Byte := leBytes c.handle 4 ++ leBytes c.status 4 ++ leBytes c.count 4 ++ leBytes c.lastIx 4

/-- The message of a completion that CQ_READ took is not sent to an owner whose lease has lapsed, unless a part of it has been (R384). -/
def dropCompletion (q : Nat) (s : State) (c : CqEnt) : State :=
  modSes c.ses (fun e => { e with
    queue := (e.queue.zipIdx).filterMap fun m =>
      if e.lapsed ∧ m.1.cqe = some (q, c.handle) ∧ (m.2 ≠ 0 ∨ e.txIx = 0) then none else some m.1 }) s

/-- CQ_READ takes up to `count` entries. -/
def cqReadOp (h : Hdr) (cq count : Nat) (s : State) : State :=
  let n := cmdPtn s h
  let q := tget [] (ptnOf s n).cqs cq
  replyFull h 0 0 h.handle ((q.take count).flatMap cqBytes)
    ((q.take count).foldl (dropCompletion (n * 4 + cq)) (modPtn n (fun p => { p with cqs := tput [] p.cqs cq (q.drop count) }) s))

def execCqRead (h : Hdr) (cq count : Nat) (s : State) : Out :=
  hostCmd .partition h (decide (cq < 4)) (fun t => if 64 < count then reply h 8 t else cqReadOp h cq count t) s

/-! ## Timers of a request -/

/-- A waiting CONTINUE is refused: the conversation is as it was. -/
def putBack (v : Saved) (e : Entry) : Entry :=
  { e with
    st := v.st, toks := e.toks.take v.len, maxnew := v.maxnew, gend := v.gend, delivered := v.delivered, deadline := v.deadline
    admUs := v.admUs, ctl := v.ctl, keep := v.keep, noa8 := v.noa8, endrule := v.endrule, cq := v.cq, ses := v.ses, fin := v.fin
    resv := v.resv, bound := v.bound, ttl := v.ttl, maskArea := v.maskArea, maskBase := v.maskBase, waitHdr := none, saved := none }

/-- ADMISSION_WAIT_EXPIRY (R329, R330). -/
def admissionWait (ix : Nat) (s : State) : State :=
  let e := entryOf s ix
  match e.waitHdr with
  | none => s
  | some h =>
    if s.clk.us < e.waitEnd || admitting s e.canvas then s
    else
      let s1 := match e.saved with
        | some v => setPresence ix (modEntry ix (putBack v) s)
        | none => freeEntry ix (modEntry ix (fun x => { x with waitHdr := none }) s)
      replyLate h 5 (retryMs s e.canvas) h.handle [] s1

def execAdmissionWaitExpiry (index : Nat) (s : State) : Out := okIf (decide (index < 16384)) (admissionWait index s)

/-- DEADLINE_EXPIRY (R338): a paused or moving request completes at once; a sealed one in a step ends as a cancel does; the others end at
the next step boundary. -/
def deadlineOp (ix : Nat) (s : State) : State :=
  let e := entryOf s ix
  if e.st = .free || !deadlinePassed s e then s
  else if e.st = .pausing ∨ e.st = .paused then
    if e.keep then complete ix 3 s else retireWith ix 3 s
  else if (ptnOf s e.ptn).sealed && (laneOfEntry s ix).isSome then killNow ix 3 s
  else s

def execDeadlineExpiry (index : Nat) (s : State) : Out := okIf (decide (index < 16384)) (deadlineOp index s)

/-- TIME_TO_LIVE_EXPIRY (R346); an export in progress is not cut short (R352). -/
def ttlOp (ix : Nat) (s : State) : State :=
  let e := entryOf s ix
  if e.st = .paused && decide (e.ttlEnd ≤ s.clk.hours) && !e.exporting then expire ix s else s

def execTimeToLiveExpiry (index : Nat) (s : State) : Out := okIf (decide (index < 16384)) (ttlOp index s)

/-- IDLE_THRESHOLD_EXPIRY (R345, R566): a conversation that does not fit the far tier stays IDLE and is tried again. -/
def idleOp (ix : Nat) (s : State) : State :=
  let e := entryOf s ix
  if idleDue s e && pauseFits s ix then
    modEntry ix (fun x => { x with pendPause := true }) s
  else s

def execIdleThresholdExpiry (index : Nat) (s : State) : Out := okIf (decide (index < 16384)) (idleOp index s)

/-! ## Moves and scrubs -/

/-- PAUSE_MOVE_COMPLETE (R296, R345, R351). -/
def pauseDone (ix : Nat) (s : State) : State :=
  let e := entryOf s ix
  if e.st ≠ .pausing then s
  else
    let far := farFrames s ix
    let pages := farCopy s ix
    let s1 := freePages ix 0 s
    let s2 := modEntry ix (fun x => { x with st := .paused, far := far, farPages := pages, resv := 0, ttlEnd := afterSec s x.ttl,
                                             pendResume := false }) s1
    sendPackage ix (if e.drainPause then complete ix 10 s2 else s2)

def execPauseMoveComplete (index : Nat) (s : State) : Out := okIf (decide (index < 16384)) (pauseDone index s)

/-- RESUME_MOVE_COMPLETE (R296, R307, R347, R348). -/
def resumeDone (ix : Nat) (s : State) : State :=
  let e := entryOf s ix
  if e.st ≠ .resuming then s
  else
    let s1 := farReturn ix s
    let s2 := { s1 with kv := { s1.kv with scrubFar := s1.kv.scrubFar ++ List.replicate e.far (e.ptn, 0) } }
    setPresence ix (modEntry ix (fun x => { x with st := if x.cont then .prefill else x.ret, cont := false, lastAct := s.clk.us }) s2)

def execResumeMoveComplete (index : Nat) (s : State) : Out := okIf (decide (index < 16384)) (resumeDone index s)

/-- The entry that waited for its frames' scrub is retired with the last of them (R336). -/
def scrubEnds (mark : Nat) (s : State) : State :=
  if mark = 0 || s.kv.scrub.any (fun x => x.2.2 == mark) || s.kv.scrubFar.any (fun x => x.2 == mark) then s
  else if (entryOf s (mark - 1)).st = .retiring then freeEntry (mark - 1) s else s

/-- FRAME_SCRUB_COMPLETE (R295, R470): a freed frame is zeros on every die and returns to its partition's pool. -/
def scrubbed (ptn frame : Nat) (far : Bool) (s : State) : State :=
  if far then
    match s.kv.scrubFar.find? (·.1 == ptn) with
    | some x => scrubEnds x.2 { s with kv := { s.kv with scrubFar := s.kv.scrubFar.erase x } }
    | none => s
  else
    match s.kv.scrub.find? fun x => x.1 == ptn && x.2.1 == frame with
    | some x =>
      let m := (List.range 8).foldl (fun m n => zeroRange m (nearAddr n frame 0) 524288) s.kv.near
      scrubEnds x.2.2 { s with kv := { s.kv with near := m, scrub := s.kv.scrub.erase x, owner := tput 0 s.kv.owner frame 0 } }
    | none => s

def execFrameScrubComplete (ptn frame : Nat) (far : Bool) (s : State) : Out :=
  okIf (decide (ptn < 12) && (far || decide (frame < 1048576))) (scrubbed ptn frame far s)

/-- LOAD_DRAIN_EXPIRY (R343): the requests that still run are retired with DISABLED. -/
def loadDrain (c : Nat) (s : State) : State :=
  let v := cnvOf s c
  if v.loadPh = 1 && decide (v.loadEnd ≤ s.clk.us) then
    (entriesWhere s fun e => e.canvas == c && running e && e.waitHdr.isNone).foldl (fun t ix => endRequest ix 4 t) s
  else s

def execLoadDrainExpiry (canvas : Nat) (s : State) : Out := okIf (decide (canvas < 4)) (loadDrain canvas s)

/-! ## Leases (R349, R370) -/

/-- A LEASE event: 0 lapsed, 1 attached, 2 lost. -/
def leaseEvent (role what ses : Nat) (s : State) : State :=
  let s1 := fireArg 30 0 0 what (role % 65536) 0 s
  if role < 12 then raise role { ty := 8, flags := what, unit := 0, level := 0, args := [ses] } s1 else s1

/-- Grace in seconds of a role's sessions. -/
def graceOf (s : State) (role : Nat) : Nat := if role < 12 then (ptnOf s role).grace else s.dev.opGrace

/-- LEASE_TEST: sessions whose lease has run out lapse, and grace begins. -/
def leaseTest (s : State) : State :=
  ((s.net.sess.map (·.1)).dedup.filter fun k =>
      (sesOf s k).live && !(sesOf s k).lapsed && decide ((sesOf s k).leaseEnd ≤ s.clk.hours)).foldl (fun t k =>
    leaseEvent (sesOf s k).role 0 k
      (modSes k (fun x => { x with lapsed := true, graceEnd := afterSec s (graceOf s (sesOf s k).role) }) t)) s

def execLeaseTest (s : State) : Out := .next (leaseTest s)

/-- A session is over: what it has not delivered is dropped, and events that it held no longer await acknowledgement (R372, R377). -/
def endSession (k : Nat) (s : State) : State :=
  let e := sesOf s k
  let n := (e.queue ++ e.sent.map (·.2)).foldl (fun a m => a + m.evN) 0
  let s1 := if e.role < 12 then modPtn e.role (fun p => { p with unacked := p.unacked - n }) s else s
  modSes k (fun x => { x with live := false, closed := true, attachOk := false, queue := [], txIx := 0, sent := [], flight := [] }) s1

/-- Grace is over: running requests end with SESSION_LOST, queued messages and released tokens are dropped (R349, R390). -/
def graceOver (k : Nat) (s : State) : State :=
  let e := sesOf s k
  if e.live && e.lapsed && decide (e.graceEnd ≤ s.clk.hours) then
    let s1 := (entriesWhere s fun x => x.ses == k).foldl (fun t ix => modEntry ix (fun x => { x with out := [] }) t) s
    let s2 := (entriesWhere s1 fun x => x.ses == k && running x).foldl (fun t ix => endRequest ix 13 t) s1
    leaseEvent e.role 2 k (endSession k s2)
  else s

def execGraceExpiry (ses : Nat) (s : State) : Out := okIf (decide (ses < 2 ^ 32)) (graceOver ses s)

/-! ## Tokens and events on their way (R389, R390) -/

/-- TOKENS_SEND: at most once per 50 µs per request. -/
def execTokensSend (index : Nat) (s : State) : Out :=
  okIf (decide (index < 16384))
    (if !(entryOf s index).sentAny || decide ((entryOf s index).sentUs + 50 ≤ s.clk.us) then sendTokens index s else s)

/-- EVENT_COALESCE_EXPIRY. -/
def execEventCoalesceExpiry (ptn : Nat) (s : State) : Out :=
  okIf (decide (ptn < 12))
    (match (ptnOf s ptn).coalUs with
      | some t => if t + (ptnOf s ptn).coal ≤ s.clk.us then flushEvents ptn s else s
      | none => s)

end Sys2Proof.Machine
end

