-- ==== Sys2Proof/Machine/Net.lean ====
section
/-! DEFINITION. Ports and sessions (R357 to R381): segments and acknowledgements, handshakes, paths, discovery, the attachment frames, and
what a port sends as time passes. -/

namespace Sys2Proof.Machine

/-! ## Ports and paths -/

/-- Network of a port: 0 for A, 1 for B (R15). -/
def netOf (port : Nat) : Nat := port / 4

def pathOf (e : Ses) (net : Nat) : PathRec := if net = 0 then e.pathA else e.pathB

def setPath (net : Nat) (p : PathRec) (e : Ses) : Ses := if net = 0 then { e with pathA := p } else { e with pathB := p }

def modPath (k net : Nat) (f : PathRec → PathRec) (s : State) : State := modSes k (fun e => setPath net (f (pathOf e net)) e) s

/-- The network a session sends on: the preferred one while its path is up, else the other (R379). -/
def sendNet (e : Ses) : Option Nat :=
  if (pathOf e e.pref).up then some e.pref else if (pathOf e (1 - e.pref)).up then some (1 - e.pref) else none

/-- The port takes frames. -/
def portServes (s : State) (n : Nat) : Bool := decide (n < 8) && (portOf s n).enable && (portOf s n).link

/-- Frames of a port are taken under its MACsec setting (R359); a frame whose protection the command does not state is protected when the
association is in service. -/
def portTakes (s : State) (n : Nat) : Bool := portServes s n && (!(portOf s n).macsec || (portOf s n).macUp)

/-- Paths of live sessions on a port. -/
def pathsOn (s : State) (n : Nat) : Nat :=
  s.net.sess.foldl (fun a e =>
    a + b2n (e.2.live && e.2.pathA.open_ && e.2.pathA.port == n) + b2n (e.2.live && e.2.pathB.open_ && e.2.pathB.port == n)) 0

/-- The serving port of a network with the fewest paths, `but` excepted (R378). -/
def leastPort (s : State) (net but : Nat) : Option Nat :=
  ((List.range 4).map fun i => 4 * net + i).foldl (fun a n =>
    if !portServes s n || n == but then a
    else match a with
      | none => some n
      | some b => if pathsOn s n < pathsOn s b then some n else a) none

/-- A port's global IPv6 address in use (R358). -/
def globalAddr (p : Port) : Nat := if p.ipv6 ≠ 0 then p.ipv6 else if p.slaac then p.slaacAddr else 0

/-! ## Sending (R361 to R364, R376, R377) -/

/-- A message as its bytes (R391). -/
def msgBytes (m : Msg) : List Byte :=
  leBytes m.ty 1 ++ leBytes m.queue 1 ++ [0, 0] ++ leBytes m.tag 4 ++ leBytes m.handle 4 ++ leBytes m.status 1 ++ leBytes m.arg 3 ++ m.body

/-- Segments of a message. -/
def segCount (size : Nat) (m : Msg) : Nat := max 1 (ceilDiv (msgBytes m).length size)

/-- The next segment of the message at the front of a session's queue goes out on the path in use, within the window; `free` says which
ports are not paused. -/
def pumpOne (now : Nat) (free : Nat → Bool) (e : Ses) : Ses :=
  match e.queue, sendNet e with
  | m :: rest, some n =>
    if e.closing || e.ended || e.closed || decide (min 256 (pathOf e n).window ≤ e.flight.length) || !free (pathOf e n).port then e
    else
      let cnt := segCount e.segsz m
      let g : OutSeg := { seq := e.txSeq, msgid := e.txMsg, six := e.txIx, cnt := cnt, net := n, sentUs := now, retx := false, miss := 0,
                          body := ((msgBytes m).drop (e.txIx * e.segsz)).take e.segsz }
      let e1 := { e with flight := e.flight ++ [g], txSeq := e.txSeq + 1, sent := if e.txIx = 0 then e.sent ++ [(e.txMsg, m)] else e.sent }
      if e.txIx + 1 = cnt then { e1 with queue := rest, txIx := 0, txMsg := e.txMsg + 1 } else { e1 with txIx := e.txIx + 1 }
  | _, _ => e

/-- CLOSE from the module (R372, R373): REKEY at once; the others when every message has been acknowledged, after which the session is over. Code
0 ends a CLAIM session so without a CLOSE (R462). -/
def pumpClose (e : Ses) : Ses :=
  match e.closeOut with
  | some r =>
    if e.closing || !e.live then e
    else
      let n := 3 * (b2n e.pathA.up + b2n e.pathB.up)
      if r = 1 then { e with closing := true, txCtl := e.txCtl + n }
      else if e.queue.isEmpty && e.flight.isEmpty then
        { e with closing := true, txCtl := if r = 0 then e.txCtl else e.txCtl + n, live := false, closed := true }
      else e
  | none => e

/-- What one session sends in a microsecond. A DATA space that has reached 0xF000_0000 asks for a new session (R363). -/
def pumpSes (now : Nat) (free : Nat → Bool) (e : Ses) : Ses :=
  let e1 := (List.range 256).foldl (fun x _ => pumpOne now free x) { e with acksOut := [], probesOut := [] }
  pumpClose (if 0xF0000000 ≤ e1.txSeq ∧ e1.closeOut = none then { e1 with closeOut := some 1 } else e1)

/-- Every session sends what it may; answers and announcements of the last microsecond have left (R377). -/
def pumpAll (s : State) : State :=
  let free (n : Nat) : Bool := (portOf s n).pauseRx == 0
  { s with net := { s.net with sess := tmapv Ses.init (pumpSes s.clk.us free) s.net.sess, hsOut := [], announce := [] } }

/-- A port's received pause runs down: 512 bit times at 400 Gb/s are 1.28 ns, kept in units of 10 ps (R360). -/
def pauseRuns (p : Port) : Port := { p with pauseRx := p.pauseRx - 100000 }

/-- The sessions' and the eight ports' share of a tick. -/
def netTick (s : State) : State :=
  { pumpAll s with net := { (pumpAll s).net with
      ports := (List.range 8).foldl (fun t n => tmod Port.init t n pauseRuns) s.net.ports } }

/-- A segment sent again, on a network. -/
def resend (now net : Nat) (x : OutSeg) : OutSeg := { x with net := net, sentUs := now, retx := true, miss := 0 }

/-- Every unacknowledged segment is sent again on the path in use; with none up, segments wait. -/
def resendAll (k : Nat) (s : State) : State :=
  modSes k (fun e => match sendNet e with
    | some n => { e with flight := e.flight.map (resend s.clk.us n) }
    | none => e) s

/-! ## PATH events (R379, R388) -/

/-- 0 path down, 1 path up, 2 replacement offered. An operator session has no event queue and gets the message at once. -/
def pathEvent (k what port : Nat) (s : State) : State :=
  let e : Event := { ty := 7, flags := what, unit := 0, level := 0, args := [k, port] }
  let role := (sesOf s k).role
  if role < 12 then raise role e s
  else post k { ty := 0x83, queue := 0, tag := 0, handle := 0, status := 0, arg := 0,
                body := padTo 16 (leBytes 1 2) ++ eventBytes e, evN := 0, cqe := none } s

/-- A path goes down: what is unacknowledged goes out again on the other path. -/
def pathDown (k net : Nat) (s : State) : State :=
  let p := pathOf (sesOf s k) net
  pathEvent k 0 p.port (resendAll k (modPath k net (fun p => { p with up := false, fails := 0, acks := 0, await := false }) s))

/-- A path is up again; segments that waited are sent. -/
def pathUp (k net : Nat) (s : State) : State :=
  let waited := (sendNet (sesOf s k)).isNone
  let s1 := modPath k net (fun p => { p with up := true, fails := 0, tmo := 1, acks := 0, await := false }) s
  let s2 := if waited then resendAll k s1 else s1
  pathEvent k 1 (pathOf (sesOf s k) net).port s2

/-! ## Receiving (R359, R362, R370, R374, R375) -/

/-- A segment discarded and counted. -/
def dropSeg (port : Nat) (s : State) : State := modPort port (fun p => { p with rxDrop := satAdd 32 p.rxDrop 1 }) s

/-- Lease of a role's sessions in seconds. -/
def leaseOf (s : State) (role : Nat) : Nat := if role < 12 then (ptnOf s role).lease else s.dev.opLease

/-- An authenticated segment renews the lease, unless it has lapsed, and brings the peer's clock for its path. -/
def renew (k net tsval : Nat) (s : State) : State :=
  modPath k net (fun p => { p with tsecr := tsval })
    (modSes k (fun e => { e with leaseEnd := if e.lapsed then e.leaseEnd else afterSec s (leaseOf s e.role) }) s)

/-- The session that a segment names takes segments. -/
def sesTakes (s : State) (sid : Nat) : Bool := (sesOf s sid).live && !(sesOf s sid).ended && (sesOf s sid).sid == sid

/-- The VLAN of a frame suits its session's role on a port (R378, R395, R396): the partition's on that network, any where its field is 0; an
operator's is that of the port, 0 untagged. -/
def vlanOk (s : State) (port role vid : Nat) : Bool :=
  if role < 12 then
    let want := if netOf port = 0 then (ptnOf s role).vidA else (ptnOf s role).vidB
    want == 0 || vid == want
  else vid == (portOf s port).mgmtVid

/-- A protected segment: refused by the port or on a VLAN that is not its session's, discarded and counted, a copy of a CLOSE already acted on, or authenticated. -/
def segIn (port vid sid seq tsval : Nat) (taken good : Bool) (act : State → State) (s : State) : State :=
  if !taken || (sesTakes s sid && !vlanOk s port (sesOf s sid).role vid) then s
  else if (sesOf s sid).ctlSeen.contains seq && !sesTakes s sid then s
  else if !good || !sesTakes s sid then dropSeg port s
  else act (renew sid (netOf port) tsval s)

/-- The port takes a segment (R358, R359). -/
def takesSeg (s : State) (g : Segment) : Bool := portServes s g.port && (!(portOf s g.port).macsec || g.secure)

/-- An ACK goes out (R375). -/
def sendAck (net : Nat) (e : Ses) : Ses :=
  if e.closing then e
  else
    let bits := (e.rxSeen.filter fun q => decide (e.rxCum < q) && decide (q ≤ e.rxCum + 256)).map (· - e.rxCum - 1)
    { e with acksOut := e.acksOut ++ [(net, e.rxCum, bits, e.rxCe)], rxSince := 0, rxCe := false, ackUs := none, txCtl := e.txCtl + 1 }

/-- The lowest SEQ not received, with the later ones kept. -/
def rxAdvance : Nat → Nat → List Nat → Nat × List Nat
  | 0, c, l => (c, l)
  | n + 1, c, l => if l.contains c then rxAdvance n (c + 1) (l.erase c) else (c, l)

/-- Whole messages pass to the receiver in MSGID order (R374). -/
def deliverMsgs : Nat → Ses → Ses
  | 0, e => e
  | n + 1, e =>
    let mine := e.asm.filter fun x => x.1 == e.rxMsg
    match mine.head? with
    | none => e
    | some f =>
      if (List.range f.2.2.1).all fun i => mine.any fun x => x.2.1 == i then
        let bs := (List.range f.2.2.1).flatMap fun i => match mine.find? fun x => x.2.1 == i with | some x => x.2.2.2 | none => []
        deliverMsgs n { e with inbox := e.inbox ++ [bs], rxMsg := e.rxMsg + 1, asm := e.asm.filter fun x => x.1 != e.rxMsg }
      else e

/-- A DATA segment in a session: known ones are discarded, and each is acknowledged. -/
def takeData (now : Nat) (g : Segment) (e : Ses) : Ses :=
  let known := decide (g.seq < e.rxCum) || e.rxSeen.contains g.seq || decide (g.seq + 65536 < e.rxMax)
  let e1 : Ses := if known then e else
    let r := rxAdvance (e.rxSeen.length + 1) e.rxCum (g.seq :: e.rxSeen)
    let e2 : Ses := { e with rxMax := max e.rxMax g.seq, rxCum := r.1, rxSeen := r.2
                             asm := if g.msgid < e.rxMsg then e.asm else e.asm ++ [(g.msgid, g.segix, g.segcnt, g.body)] }
    deliverMsgs (e2.asm.length + 1) e2
  let e3 : Ses := { e1 with rxSince := e1.rxSince + 1, rxCe := e1.rxCe || g.ce, ackUs := some (e1.ackUs.getD now), ackPath := netOf g.port }
  let e4 : Ses := if 4 ≤ e3.rxSince then sendAck (netOf g.port) e3 else e3
  if 0xF0000000 ≤ g.seq ∧ e4.closeOut = none then { e4 with closeOut := some 1 } else e4

/-- A full receive buffer sends pause (R360). -/
def bufferFill (port fill : Nat) (s : State) : State :=
  if 75 < fill ∧ (portOf s port).pfcEn then modPort port (fun p => { p with pauseTx := true }) s else s

/-- A DATA segment whose fields agree. -/
def dataOk (s : State) (g : Segment) : Bool :=
  g.tagOk && decide (1 ≤ g.segcnt) && decide (g.segcnt ≤ 64) && decide (g.segix < g.segcnt) && decide (g.body.length ≤ (sesOf s g.sid).segsz)

/-- Fields of a segment header within their widths (R361). -/
def segFields (g : Segment) : Bool :=
  decide (g.port < 8) && decide (g.sid < 2 ^ 32) && decide (g.seq < 2 ^ 32) && decide (g.msgid < 2 ^ 32) && decide (g.segix < 256)
    && decide (g.segcnt < 256) && decide (g.tsval < 2 ^ 32) && decide (g.fill ≤ 100) && decide (g.vid < 4096)

/-- DATA_SEGMENT_RECEIVE. -/
def execDataSegmentReceive (g : Segment) (s : State) : Out :=
  okIf (segFields g) (bufferFill g.port g.fill
    (segIn g.port g.vid g.sid g.seq g.tsval (takesSeg s g) (dataOk s g) (fun t => modSes g.sid (takeData t.clk.us g) t) s))

/-! ## Acknowledgements (R376, R384, R389) -/

/-- What a message's acknowledgement clears: the events it carried, and the completion-queue entry it answers for. -/
def ackedMsg (role : Nat) (m : Msg) (s : State) : State :=
  let s1 := if role < 12 then modPtn role (fun p => { p with unacked := p.unacked - m.evN }) s else s
  match m.cqe with
  | some (q, h) => modPtn (q / 4) (fun p => { p with cqs := tmod [] p.cqs (q % 4) fun l => l.eraseP fun c => c.handle == h }) s1
  | none => s1

/-- A segment that an ACK covers. -/
def ackCovers (a : AckInfo) (x : OutSeg) : Bool := decide (x.seq < a.cum) || (decide (a.cum < x.seq) && a.bits.contains (x.seq - a.cum - 1))

/-- The sender's window after an ACK (R376): halved by ECE, one more for each round trip without it. -/
def windowAfter (a : AckInfo) (tx : Nat) (p : PathRec) : PathRec :=
  if a.ece then { p with tmo := 1, fails := 0, window := max 4 (p.window / 2) }
  else if p.growAt < a.cum then { p with tmo := 1, fails := 0, window := min 256 (p.window + 1), growAt := tx }
  else { p with tmo := 1, fails := 0 }

/-- Segments left in flight: one that a later selective acknowledgement of its path has passed 3 times goes out again at once. -/
def missOne (now : Nat) (a : AckInfo) (cur : Option Nat) (x : OutSeg) : OutSeg :=
  if x.net == netOf a.port && a.bits.any (fun b => decide (x.seq < a.cum + 1 + b)) then
    (if x.miss + 1 < 3 then { x with miss := x.miss + 1 } else resend now (cur.getD x.net) x)
  else x

/-- An ACK in its session. -/
def takeAck (a : AckInfo) (s : State) : State :=
  let e := sesOf s a.sid
  let left := (e.flight.filter fun x => !ackCovers a x).map (missOne s.clk.us a (sendNet e))
  let wholly (m : Nat × Msg) : Bool := decide (m.1 < e.txMsg) && !left.any fun x => x.msgid == m.1
  let s1 := modSes a.sid (fun x =>
    setPath (netOf a.port) (windowAfter a e.txSeq (pathOf e (netOf a.port))) { x with flight := left, sent := e.sent.filter fun m => !wholly m }) s
  (e.sent.filter wholly).foldl (fun t m => ackedMsg e.role m.2 t) s1

/-- ACK_RECEIVE. -/
def execAckReceive (a : AckInfo) (s : State) : Out :=
  okIf (decide (a.port < 8) && decide (a.vid < 4096) && decide (a.sid < 2 ^ 32) && decide (a.seq < 2 ^ 32) && a.bits.all fun b => decide (b < 256))
    (segIn a.port a.vid a.sid a.seq a.tsval (portTakes s a.port) a.tagOk (takeAck a) s)

/-- ACK_TIMER: 20 µs after a DATA segment. -/
def execAckTimer (ses path : Nat) (s : State) : Out :=
  okIf (decide (ses < 2 ^ 32) && decide (path < 2))
    (match (sesOf s ses).ackUs with
      | some t => if t + 20 ≤ s.clk.us ∧ (sesOf s ses).ackPath = path then modSes ses (sendAck path) s else s
      | none => s)

/-- The oldest unacknowledged segment of its path has waited for the path's timeout. -/
def timesOut (s : State) (e : Ses) (x : OutSeg) : Bool :=
  (pathOf e x.net).up && decide (x.sentUs + 1000 * (pathOf e x.net).tmo ≤ s.clk.us) && e.flight.all fun y => y.net != x.net || decide (x.seq ≤ y.seq)

/-- RETRANSMIT_TIMEOUT (R376). -/
def retransmit (k seq : Nat) (s : State) : State :=
  let e := sesOf s k
  match e.flight.find? fun x => x.seq == seq with
  | none => s
  | some x =>
    if !e.live || e.closing || e.ended || !timesOut s e x then s
    else
      let p := pathOf e x.net
      let s1 := modPath k x.net (fun p => { p with tmo := min 64 (2 * p.tmo), fails := p.fails + 1 }) s
      if p.fails + 1 = 3 then pathDown k x.net s1
      else modSes k (fun q => { q with flight := q.flight.map fun y => if y.seq == seq then resend s.clk.us ((sendNet q).getD y.net) y else y }) s1

def execRetransmitTimeout (ses seq : Nat) (s : State) : Out :=
  okIf (decide (ses < 2 ^ 32) && decide (seq < 2 ^ 32)) (retransmit ses seq s)

/-! ## Handshakes (R365 to R369, R371) -/

/-- A handshake message goes out. -/
def sendHs (o : HsOut) (s : State) : State := { s with net := { s.net with hsOut := s.net.hsOut ++ [o] } }

def HsOut.reject (hsid reason : Nat) : HsOut :=
  { hsid := hsid, ty := 5, arg := reason, nonce := [], sig := [], attach := 0, lease := 0, grace := 0, idle := 0, port := 0, segsz := 0 }

/-- HS_REJECT: counted, and recorded under SECURITY (R473, R496). -/
def rejectHs (hsid reason : Nat) (s : State) : State :=
  let s1 := { s with sec := { s.sec with hsFail := satAdd 32 s.sec.hsFail 1 } }
  sendHs (HsOut.reject hsid reason) (fire 25 0 0 reason s.sec.ownerGen s1)

/-- The session role that ROLE names: 16 operator, 17 claim, else the partition. -/
def roleCode (role : Nat) : Nat := if role = 0 then 16 else if role = 13 then 17 else role - 1

/-- The session limit of a role is reached (R365). -/
def sesFull (s : State) (role : Nat) : Bool :=
  decide (100 ≤ (s.net.sess.filter fun e => e.2.live && !e.2.ended).length) || (if role = 0 then decide (4 ≤ sesCount s 16)
    else if role = 13 then false else decide (8 ≤ sesCount s (role - 1)))

/-- The security core hands off to its new image, which takes at most 20 ms (R455). -/
def secHandoff (s : State) : Bool := s.sec.upd.any fun u => u.cls == 1 && decide (s.clk.us < u.us + 20000)

/-- The first reason of R368 that applies to an HS_INIT. -/
def hsReason (s : State) (m : HsInit) : Option Nat :=
  if !m.certOk || m.certRole != m.role || decide (13 < m.role) || (m.role == 13 && s.sec.claimed) then some 1
  else if sesFull s m.role then some 2
  else if decide (64 ≤ (s.net.shakes.filter fun x => !x.done).length) || secHandoff s then some 3
  else if s.hist.inRepl || (!s.sec.claimed && m.role != 13) then some 4
  else if decide (86400 < m.idle) || decide (4 ≤ m.flags) then some 5
  else none

/-- 32 bytes that the security core draws. -/
def drawKey (s : State) : Nat × State := ((Config.keyBits s.dev.keyCtr).toNat, { s with dev := { s.dev with keyCtr := s.dev.keyCtr + 1 } })

/-- HS_INIT: a repeat gets the answer again; a refusal comes before any signature; else HS_REPLY (R366, R367). -/
def hsInit (m : HsInit) (s : State) : State :=
  match s.net.shakes.find? fun x => x.hsid == m.hsid with
  | some x => sendHs x.answer s
  | none =>
    match hsReason s m with
    | some r => rejectHs m.hsid r s
    | none =>
      let d := drawKey s
      let nonce := leBytes d.1 32
      let o : HsOut := { HsOut.reject m.hsid 0 with ty := 2, nonce := nonce, sig := Config.sign 0 (Config.sha512 (m.msg ++ nonce)) }
      let s1 := d.2
      sendHs o { s1 with net := { s1.net with shakes := s1.net.shakes ++ [{ hsid := m.hsid, m := m, us := s.clk.us, answer := o, done := false }] } }

def execHsInit (m : HsInit) (s : State) : Out :=
  okIf (decide (m.port < 8) && decide (m.vid < 4096) && decide (m.hsid < 2 ^ 32) && decide (m.role < 256) && decide (m.flags < 256) && decide (m.idle < 2 ^ 32))
    (if portTakes s m.port && vlanOk s m.port (roleCode m.role) m.vid && !s.sec.romRec then hsInit m s else s)

/-- The earlier session whose attach token a handshake carries (R371). -/
def attachTo (s : State) (m : HsInit) : Option Nat :=
  if m.attach = 0 then none
  else (s.net.sess.find? fun e => e.2.live && e.2.attachOk && e.2.attach == m.attach && e.2.role == roleCode m.role).map (·.1)

/-- A message is still to be delivered: a completion only while its completion-queue entry stands (R384). -/
def stillDue (s : State) (m : Msg) : Bool :=
  match m.cqe with
  | some (q, h) => (tget [] (ptnOf s (q / 4)).cqs (q % 4)).any fun c => c.handle == h
  | none => true

/-- An attach moves requests, completions to be delivered and messages to the new session; the earlier one is closed without a message. -/
def attachFrom (old new : Nat) (s : State) : State :=
  let e := sesOf s old
  let mine := ((e.sent.filter fun m => decide (m.1 < e.txMsg)).map (·.2) ++ e.queue).filter (stillDue s)
  let s1 := (entriesWhere s fun x => x.ses == old || x.exSession == old).foldl (fun t ix => modEntry ix (fun x =>
    { x with ses := if x.ses = old then new else x.ses, exSession := if x.exSession = old then new else x.exSession }) t) s
  let s2 := if e.role < 12 then modPtn e.role (fun p =>
      { p with cqs := tmapv [] (fun l => l.map fun c => if c.ses = old then { c with ses := new } else c) p.cqs }) s1
    else s1
  let s3 := modSes new (fun q => { q with queue := mine ++ q.queue }) s2
  let s4 := modSes old (fun q => { q with live := false, closed := true, attachOk := false, queue := [], txIx := 0, sent := [], flight := [] }) s3
  leaseEvent e.role 1 new s4

/-- Idle threshold in force: 0 takes the partition's default (R369). -/
def idleOf (s : State) (m : HsInit) : Nat :=
  if m.idle ≠ 0 then m.idle else if 1 ≤ m.role ∧ m.role ≤ 12 then (ptnOf s (m.role - 1)).idleThr else 60

/-- The session of a handshake, on the port of its network that carries the fewest paths (R366, R378). -/
def newSes (s : State) (m : HsInit) (nonce : List Byte) (secret sid token : Nat) : Ses :=
  let net := netOf m.port
  let role := roleCode m.role
  let p : PathRec := { PathRec.init with open_ := true, up := true, port := (leastPort s net 8).getD m.port }
  setPath net p { Ses.init with
    sid := sid, role := role, live := true, keys := (Config.hkdf secret (leBytes m.hnonce 32 ++ nonce)).toNat, pref := m.flags % 2
    segsz := if bitOf m.flags 1 then 8192 else 1024, idle := idleOf s m, leaseEnd := afterSec s (leaseOf s role), attach := token
    attachOk := true }

/-- The first session number from `n` on that is not 0 and names no session that is held. -/
def freeSid (s : State) : Nat → Nat → Nat
  | 0, n => n
  | k + 1, n => if n = 0 ∨ (sesOf s n).sid = n then freeSid s k ((n + 1) % 2 ^ 32) else n

/-- HS_DONE, and the session. -/
def establish (x : Hs) (secret : Nat) (s : State) : State :=
  let d := drawKey s
  let sid := freeSid d.2 (s.net.sess.length + 2) d.2.net.nextSid
  let e := newSes d.2 x.m x.answer.nonce secret sid d.1
  let old := attachTo s x.m
  let other := leastPort d.2 (1 - netOf x.m.port) 8
  let o : HsOut := { HsOut.reject x.hsid sid with
    ty := 4, attach := d.1, lease := leaseOf s e.role, grace := graceOf s e.role, idle := e.idle, port := other.getD (4 * (1 - netOf x.m.port))
    segsz := e.segsz }
  let s1 := d.2
  let s2 := { s1 with net := { s1.net with sess := tput Ses.init s1.net.sess sid e, nextSid := (sid + 1) % 2 ^ 32
                                           shakes := s1.net.shakes.map fun y => if y.hsid == x.hsid then { y with answer := o, done := true } else y } }
  sendHs o (match old with | some k => attachFrom k sid s2 | none => s2)

/-- A handshake is dropped. -/
def dropShake (hsid : Nat) (s : State) : State := { s with net := { s.net with shakes := s.net.shakes.filter fun x => x.hsid != hsid } }

/-- HS_KEY: within 2 s of HS_REPLY, with the host's signature. -/
def hsKey (hsid : Nat) (sigOk : Bool) (secret : Nat) (s : State) : State :=
  match s.net.shakes.find? fun x => x.hsid == hsid with
  | none => s
  | some x =>
    if x.done then sendHs x.answer s
    else if x.us + 2000000 < s.clk.us then s
    else if !sigOk then rejectHs hsid 1 (dropShake hsid s)
    else if sesFull s x.m.role then rejectHs hsid 2 (dropShake hsid s)
    else establish x secret s

def execHsKey (port hsid : Nat) (sigOk : Bool) (secret : Nat) (s : State) : Out :=
  okIf (decide (port < 8) && decide (hsid < 2 ^ 32) && decide (secret < 2 ^ 512)) (if portTakes s port then hsKey hsid sigOk secret s else s)

/-- HANDSHAKE_TIMEOUT: 2 s after HS_REPLY; a handshake that was not completed counts as abandoned (R368, R473). -/
def execHandshakeTimeout (hsid : Nat) (s : State) : Out :=
  okIf (decide (hsid < 2 ^ 32))
    (match s.net.shakes.find? fun x => x.hsid == hsid with
      | some x =>
        if x.us + 2000000 ≤ s.clk.us then
          let s1 := dropShake hsid s
          if x.done then s1 else { s1 with sec := { s1.sec with hsFail := satAdd 32 s1.sec.hsFail 1 } }
        else s
      | none => s)

/-! ## Probes and paths (R373, R378, R379) -/

/-- A probe or its answer goes out on a network. -/
def sendProbe (kind net pnum : Nat) (e : Ses) : Ses :=
  if e.closing then e else { e with probesOut := e.probesOut ++ [(kind, net, pnum)], txCtl := e.txCtl + 1 }

/-- PROBE: opens a path on a network where the session has none, or moves it to an offered port; it is answered on the same path. -/
def takeProbe (port pnum k : Nat) (s : State) : State :=
  let e := sesOf s k
  let net := netOf port
  let old := pathOf e net
  let s1 :=
    if !old.open_ || e.offer.contains port then
      let waited := (sendNet e).isNone
      let s2 := modSes k (fun q => setPath net { PathRec.init with open_ := true, up := true, port := port, tsecr := old.tsecr }
        { q with offer := q.offer.filter (· != port) }) s
      let s3 := if waited then resendAll k s2 else s2
      if old.open_ && !old.up then pathEvent k 1 port s3 else s3
    else s
  modSes k (sendProbe 6 net pnum) s1

def execProbe (g : Segment) (pnum : Nat) (s : State) : Out :=
  okIf (segFields g && decide (pnum < 2 ^ 32)) (segIn g.port g.vid g.sid g.seq g.tsval (takesSeg s g) g.tagOk (takeProbe g.port pnum g.sid) s)

/-- PROBE_ACK: the third in a row brings a down path up. -/
def takeProbeAck (net pnum k : Nat) (s : State) : State :=
  let p := pathOf (sesOf s k) net
  if !p.open_ || p.up || !p.await || pnum + 1 != p.pnum then s
  else if p.acks + 1 < 3 then modPath k net (fun q => { q with acks := q.acks + 1, await := false }) s
  else pathUp k net s

def execProbeAck (g : Segment) (pnum : Nat) (s : State) : Out :=
  okIf (segFields g && decide (pnum < 2 ^ 32))
    (segIn g.port g.vid g.sid g.seq g.tsval (takesSeg s g) g.tagOk (takeProbeAck (netOf g.port) pnum g.sid) s)

/-- PATH_PROBE_TIMER: a down path whose port has link is probed every 100 ms; an unanswered probe breaks the row. -/
def pathProbe (k net : Nat) (s : State) : State :=
  let e := sesOf s k
  let p := pathOf e net
  if !e.live || e.ended || !p.open_ || p.up || !portServes s p.port then s
  else modSes k (fun q => sendProbe 5 net p.pnum (setPath net
    { p with pnum := (p.pnum + 1) % 2 ^ 32, acks := if p.await then 0 else p.acks, await := true } q)) s

def execPathProbeTimer (ses net : Nat) (s : State) : Out := okIf (decide (ses < 2 ^ 32) && decide (net < 2)) (pathProbe ses net s)

/-- CLOSE from the host (R372): with KEEP as a lease lapse, else every request of the session is cancelled and the session is over. -/
def takeClose (seq k : Nat) (keep : Bool) (s : State) : State :=
  let s1 := modSes k (fun e => { e with ctlSeen := seq :: e.ctlSeen }) s
  let e := sesOf s1 k
  if keep then
    (if e.lapsed then modSes k (fun x => { x with ended := true }) s1
     else leaseEvent e.role 0 k (modSes k (fun x => { x with ended := true, lapsed := true, graceEnd := afterSec s1 (graceOf s1 e.role) }) s1))
  else endSession k ((entriesWhere s1 fun x => x.ses == k).foldl (fun t ix => cancelEntry ix t) s1)

def execClose (g : Segment) (reason : Nat) (keep : Bool) (s : State) : Out :=
  okIf (segFields g && decide (reason < 256))
    (segIn g.port g.vid g.sid g.seq g.tsval (takesSeg s g) (g.tagOk && reason == 0) (takeClose g.seq g.sid keep) s)

/-- A session that loses the port of a path: the path goes down, and another port of the network is offered. -/
def losePath (port k : Nat) (s : State) : State :=
  let net := netOf port
  let p := pathOf (sesOf s k) net
  if !(sesOf s k).live || !p.open_ || p.port != port then s
  else
    let s1 := if p.up then pathDown k net s else s
    match leastPort s1 net port with
    | some q => pathEvent k 2 q (modSes k (fun e => { e with offer := [q] }) s1)
    | none => s1

/-- PORT_LINK_LOSS. -/
def portLoss (port : Nat) (s : State) : State :=
  if !(portOf s port).link then s
  else
    let s1 := fire 26 0 0 0 port (modPort port (fun p => { p with link := false, macUp := false, pauseTx := false, pauseRx := 0 }) s)
    (s1.net.sess.map (·.1)).foldl (fun t k => losePath port k t) s1

def execPortLinkLoss (port : Nat) (s : State) : Out := okIf (decide (port < 8)) (portLoss port s)

/-- The port die of a port has a permanent fault on record (R15, R417). -/
def portDieFailed (s : State) (port : Nat) : Bool := s.hist.records.any fun r => r.perm && r.level == 0 && r.unit == portDie port * 2 ^ 26

/-- A permanent fault of a unit that cannot be fenced; one of a port die takes its two ports away (R15). -/
def unitFailure (unit level cause : Nat) (s : State) : State :=
  (portsOfDie (dieOf unit)).foldl (fun t p => portLoss p t) (nonfence unit level cause s)

/-- Units whose permanent fault drains the module, with the drain's cause (R417): a hub or port die, a context die's memory controller, a unit of
a cluster outside its cores. -/
def drainsOn (unit level cause : Nat) : Bool :=
  unitOk unit level && (if dieOf unit < 24 ∨ 32 ≤ dieOf unit ∧ dieOf unit < 34 then level == 1 else decide (level < 2)) &&
    cause == drainCauseOf unit level

/-- NONFENCE_FAULT_DETECT (R14, R20, R417). -/
def execNonfenceFaultDetect (unit level cause : Nat) (s : State) : Out := okIf (drainsOn unit level cause) (unitFailure unit level cause s)

/-- PORT_LINK_UP (R357, R496). -/
def execPortLinkUp (port : Nat) (s : State) : Out :=
  okIf (decide (port < 8))
    (if (portOf s port).enable && !(portOf s port).link && !portDieFailed s port then fire 26 0 0 0 port (modPort port (fun p => { p with link := true }) s) else s)

/-! ## Discovery (R380, R381) -/

/-- Byte 32 of ANNOUNCE. -/
def announceByte (s : State) (port : Nat) : Nat := netOf port + port % 4 * 2 + s.dev.mstate % 16 * 16

/-- The ANNOUNCE payload of a port. -/
def announceBytes (s : State) (port : Nat) : List Byte :=
  let p := portOf s port
  let ascii (l : List Word) : List Byte := padTo 16 (l.flatMap fun w => leBytes w.toNat 4)
  ascii s.sec.order ++ ascii s.sec.serialNo ++ leBytes (announceByte s port) 1 ++ leBytes (b2n s.sec.claimed) 1
    ++ leBytes (maskOf 12 fun n => (ptnOf s n).enabled) 2 ++ leBytes (globalAddr p) 16 ++ leBytes (if p.ipv4En then p.ipv4 else 0) 4
    ++ leBytes p.udp 2 ++ List.replicate 6 0

/-- A frame of a port's own: destination 0 ff02::1, 1 the IPv4 broadcast address, 2 the asker, 3 the LLDP group. -/
def sendFrame (port dst : Nat) (bs : List Byte) (s : State) : State :=
  { s with net := { s.net with announce := s.net.announce ++ [(port, dst, bs)] } }

/-- ANNOUNCE_TIMER: every second. -/
def announce (port : Nat) (s : State) : State :=
  if !portServes s port then s
  else
    let s1 := sendFrame port 0 (announceBytes s port) (modPort port (fun p => { p with announces := p.announces + 1 }) s)
    if (portOf s port).ipv4En then sendFrame port 1 (announceBytes s port) s1 else s1

def execAnnounceTimer (port : Nat) (s : State) : Out := okIf (decide (port < 8)) (announce port s)

/-- SOLICIT: at most 100 answers per second and port. -/
def solicited (port : Nat) (s : State) : State :=
  let p := portOf s port
  if !portTakes s port then s
  else
    let fresh := p.solCnt == 0 || decide (p.solUs + 1000000 ≤ s.clk.us)
    if !fresh && decide (100 ≤ p.solCnt) then s
    else sendFrame port 2 (announceBytes s port) (modPort port (fun q =>
      { q with solUs := if fresh then s.clk.us else q.solUs, solCnt := if fresh then 1 else q.solCnt + 1 }) s)

def execSolicit (port : Nat) (s : State) : Out := okIf (decide (port < 8)) (solicited port s)

/-- Port name, NA0 to NB3 (R395). -/
def portName (port : Nat) : List Byte := [0x4E, BitVec.ofNat 8 (0x41 + netOf port), BitVec.ofNat 8 (0x30 + port % 4)]

/-- LLDP_TIMER: chassis ID, port ID, time to live 120 s, management address, byte 32 of ANNOUNCE. -/
def lldpSend (port : Nat) (s : State) : State :=
  if !portServes s port then s
  else
    let bs := (s.sec.serialNo.flatMap fun w => leBytes w.toNat 4) ++ portName port ++ leBytes 120 2 ++ leBytes (globalAddr (portOf s port)) 16
      ++ leBytes (announceByte s port) 1
    sendFrame port 3 bs (modPort port (fun p => { p with lldps := p.lldps + 1 }) s)

def execLldpTimer (port : Nat) (s : State) : Out := okIf (decide (port < 8)) (lldpSend port s)

/-- LLDP_RECEIVE: a changed neighbour sets NBRCHG and makes a record. -/
def lldpTake (port chassis portid : Nat) (s : State) : State :=
  let p := portOf s port
  if !portServes s port || (p.chassis == chassis && p.portid == portid) then s
  else fire 26 0 0 2 port (modPort port (fun q => { q with chassis := chassis, portid := portid, nbrchg := true }) s)

def execLldpReceive (port chassis portid : Nat) (s : State) : Out := okIf (decide (port < 8)) (lldpTake port chassis portid s)

/-! ## Flow control, MACsec, neighbour discovery (R358 to R360) -/

/-- PFC_PAUSE_RECEIVE: honoured on the Onanas priority. -/
def execPfcPauseReceive (port prio quanta : Nat) (s : State) : Out :=
  okIf (decide (port < 8) && decide (prio < 8) && decide (quanta < 65536))
    (if portServes s port && (portOf s port).pfcEn && (portOf s port).pfcPrio == prio then
      modPort port (fun p => { p with pauseRx := 128 * quanta }) s
     else s)

/-- PFC_RECEIVE_BUFFER_DRAIN: below 50 % the pause is released. -/
def execPfcReceiveBufferDrain (port percent : Nat) (s : State) : Out :=
  okIf (decide (port < 8) && decide (percent ≤ 100)) (if percent < 50 then modPort port (fun p => { p with pauseTx := false }) s else s)

/-- MKA_FRAME_RECEIVE: the secure association comes into or goes out of service. -/
def execMkaFrameReceive (port : Nat) (up : Bool) (s : State) : Out :=
  okIf (decide (port < 8))
    (if portServes s port && (portOf s port).macUp != up then fire 26 0 0 1 port (modPort port (fun p => { p with macUp := up }) s) else s)

/-- The interface identifier of a MAC address (IEEE EUI-64). -/
def eui64 (mac : Nat) : Nat := (mac / 2 ^ 24 ^^^ 0x020000) * 2 ^ 40 + 0xFFFE * 2 ^ 24 + mac % 2 ^ 24

/-- IPV6_NEIGHBOUR_DISCOVERY: a solicitation is answered; an advertised prefix of 64 bits gives the address of autoconfiguration. -/
def neighbour (port : Nat) (sol : Bool) (pre plen : Nat) (s : State) : State :=
  if !portTakes s port then s
  else if sol then modPort port (fun p => { p with ndAnswers := p.ndAnswers + 1 }) s
  else if (portOf s port).slaac && (portOf s port).ipv6 == 0 && plen == 64 then
    modPort port (fun p => { p with slaacAddr := pre / 2 ^ 64 * 2 ^ 64 + eui64 (tget 0 s.sec.macs port) }) s
  else s

def execIpv6NeighbourDiscovery (port : Nat) (solicitation : Bool) (prefix_ : Nat) (plen : Nat) (s : State) : Out :=
  okIf (decide (port < 8) && decide (prefix_ < 2 ^ 128) && decide (plen ≤ 128)) (neighbour port solicitation prefix_ plen s)

end Sys2Proof.Machine
end

