-- ==== Sys2Proof/Machine/Firmware.lean ====
section
/-! DEFINITION. Firmware images, live update, identity, owner claim, the configuration record and attestation (R445 to R473). Classes are
those of R456: 1 SEC, 2 SCH, 3 PMC, 4 CCC. -/

namespace Sys2Proof.Machine

/-! ## Image slots (R445, R449, R453) -/

def fwOf (s : State) (cls : Nat) : FwCls := tget FwCls.init s.sec.fw cls
def modFw (cls : Nat) (f : FwCls → FwCls) (s : State) : State := { s with sec := { s.sec with fw := tmod FwCls.init s.sec.fw cls f } }

def activeImg (c : FwCls) : Img := if c.actB then c.b else c.a
def spareImg (c : FwCls) : Img := if c.actB then c.a else c.b
def setSpare (m : Img) (c : FwCls) : FwCls := if c.actB then { c with a := m, staged := true } else { c with b := m, staged := true }

/-- The image that runs: the new one while its update is provisional (R455, R472). -/
def runningImg (s : State) (cls : Nat) : Img :=
  if s.sec.upd.any (fun u => u.cls == cls) && !s.sec.updNow then spareImg (fwOf s cls) else activeImg (fwOf s cls)

/-- A refused signature is counted and recorded (R473, R496). -/
def badSig (s : State) : State :=
  fire 25 0 0 1 (s.sec.ownerGen % 65536) { s with sec := { s.sec with sigFail := satAdd 32 s.sec.sigFail 1 } }

/-! ## FW_STAGE, FW_UPDATE and the end of an update (R454 to R458) -/

/-- A class of R456; a command that names another is answered BAD_REQUEST (log entry 104). -/
def fwClassOk (cls : Nat) : Bool := decide (1 ≤ cls) && decide (cls ≤ 4)

/-- Why an image is not staged (R454). -/
def stageFwOutcome (s : State) (cls imgCls svn : Nat) (sigOk : Bool) : Nat :=
  if s.sec.upd.any fun u => u.cls == cls then 6
  else if !sigOk then 1
  else if imgCls ≠ cls ∨ !fwClassOk cls then 3
  else if svn < (fwOf s cls).floor then 2
  else 0

/-- FW_STAGE. -/
def fwStageOp (h : Hdr) (cls imgCls : Nat) (m : Img) (sigOk : Bool) (s : State) : State :=
  let o := stageFwOutcome s cls imgCls m.svn sigOk
  replyOutcome h o (if o = 0 then modFw cls (setSpare m) s else if o = 1 then badSig s else s)

def execFwStage (h : Hdr) (cls imgCls svn : Nat) (sigOk raise : Bool) (rlo rhi wr meas : Nat) (s : State) : Out :=
  hostCmdSafe .operator_ h (decide (svn < 65536) && decide (meas < 2 ^ 512))
    (fwStageOp h cls imgCls { valid := true, svn := svn, raise_ := raise, rlo := rlo, rhi := rhi, wr := wr, meas := meas } sigOk) s

/-- The new image reads the old one's state schema and writes it for a revert (R457). -/
def schemaOk (old new : Img) : Bool := decide (new.rlo ≤ old.wr) && decide (old.wr ≤ new.rhi) && new.wr == old.wr

/-- Why an update is refused (R454, R457, R458). -/
def updateOutcome (s : State) (cls : Nat) : Nat :=
  let c := fwOf s cls
  if !c.staged || !(spareImg c).valid then 5
  else if s.sec.upd.isSome || s.hist.draining || s.hist.inRepl || holding s || !schemaOk (activeImg c) (spareImg c)
    || decide ((spareImg c).svn < c.floor) then 6
  else 0

/-- FW_UPDATE: SCH and CCC take a step boundary, at once when no step is in flight; PMC and SEC pause no step. -/
def fwUpdateOp (h : Hdr) (cls : Nat) (s : State) : State :=
  let o := updateOutcome s cls
  if o ≠ 0 then replyOutcome h o s
  else
    let wait := (cls == 2 || cls == 4) && s.sch.cur.isSome
    let s1 := leaveOut h s
    { s1 with sec := { s1.sec with upd := some { cls := cls, h := h, us := s.clk.us, step := s.sch.stepNo }, updNow := wait
                                   revert := s.sch.stepNo } }

def execFwUpdate (h : Hdr) (cls : Nat) (s : State) : Out :=
  hostCmd .operator_ h true (fun t => if fwClassOk cls then fwUpdateOp h cls t else reply h 8 t) s

/-- FW_PROVISIONAL_END: every instance acknowledges 400 ms after it read the record; the slot becomes active, and an image with RAISE_FLOOR
raises its floor (R453, R455). -/
def provisionalEnd (s : State) : State :=
  match s.sec.upd with
  | some u =>
    if s.sec.updNow || decide (s.clk.us < u.us + 400000) || s.pwr.warnPin || s.pwr.intWarn then s
    else
      let m := spareImg (fwOf s u.cls)
      let s1 := modFw u.cls (fun c => { c with actB := !c.actB, staged := false, floor := if m.raise_ then max c.floor m.svn else c.floor }) s
      replyOutcomeLate u.h 0 (fire 24 0 0 0 u.cls { s1 with sec := { s1.sec with upd := none } })
  | none => s

def execFwProvisionalEnd (s : State) : Out := .next (provisionalEnd s)

/-- FW_REVERT: no acknowledgement by 500 ms. -/
def execFwRevert (s : State) : Out :=
  .next (if s.sec.upd.any (fun u => decide (u.us + 500000 ≤ s.clk.us)) && !s.sec.updNow then updRevert s else s)

/-- FW_FLOOR: the floor of a class becomes the SVN of its active image; a floor never decreases. -/
def execFwFloor (h : Hdr) (cls : Nat) (s : State) : Out :=
  hostCmd .operator_ h true
    (fun t => if fwClassOk cls then replyOutcome h 0 (modFw cls (fun c => { c with floor := max c.floor (activeImg c).svn }) t) else reply h 8 t) s

/-- FW_ACTIVATE: valid in safe state only; an image below its floor is never activated. -/
def fwActivateOp (h : Hdr) (cls : Nat) (s : State) : State :=
  let c := fwOf s cls
  if !s.sec.safe then replyOutcome h 6 s
  else if !(spareImg c).valid then replyOutcome h 5 s
  else if (spareImg c).svn < c.floor then replyOutcome h 2 s
  else replyOutcome h 0 (modFw cls (fun x => { x with actB := !x.actB, staged := false }) s)

def execFwActivate (h : Hdr) (cls : Nat) (s : State) : Out :=
  hostCmdSafe .operator_ h true (fun t => if fwClassOk cls then fwActivateOp h cls t else reply h 8 t) s

/-! ## Firmware watchdogs (R455, R459) -/

/-- The unit of a firmware processor: the die of its class, or a cluster control core's cluster. -/
def fwUnit (cls unit : Nat) : Nat × Nat := if cls = 4 then (unit, 1) else if cls = 3 then (39 * 2 ^ 26, 0) else (38 * 2 ^ 26, 0)

/-- The unit names a firmware processor of the class. -/
def fwUnitOk (cls unit : Nat) : Bool :=
  decide (1 ≤ cls) && decide (cls ≤ 4) && (if cls = 4 then isArrCluster unit || isAttCluster unit else unit == 0)

/-- FIRMWARE_WATCHDOG: during the provisional period of its class the update is reverted; a first expiry restarts the processor and abandons the
step in flight; a second within 1,000 operating hours is a permanent fault, recorded as NONFENCE. -/
def fwWatchdog (cls unit : Nat) (s : State) : State :=
  let key := cls * 2 ^ 32 + unit
  if s.sec.upd.any (fun u => u.cls == cls) && !s.sec.updNow then updRevert s
  else
    let s0 := fire 24 (fwUnit cls unit).1 (fwUnit cls unit).2 9 cls s
    if s.sec.fwSeen.any fun e => e.1 == key && decide (s.clk.hours ≤ e.2 + 36000000) then
      nonfence (fwUnit cls unit).1 (fwUnit cls unit).2 10 s0
    else
      sendAbandon false { s0 with sec := { s0.sec with fwSeen := s0.sec.fwSeen.filter (·.1 != key) ++ [(key, s.clk.hours)] } }

def execFirmwareWatchdog (cls unit : Nat) (s : State) : Out := okIf (fwUnitOk cls unit) (fwWatchdog cls unit s)

/-! ## Claim, owner and keys (R462, R463) -/

/-- CLAIM: generation 1; the CLAIM session ends once its reply has been acknowledged. -/
def claimOp (h : Hdr) (key : Nat) (s : State) : State :=
  if s.sec.claimed || roleH s h != 17 then reply h 8 s
  else
    let s1 := { s with sec := { s.sec with claimed := true, ownerKey := key, ownerGen := 1 } }
    modSes h.ses (fun e => { e with closeOut := some 0 }) (reply h 0 (fire 25 0 0 4 1 s1))

def execClaim (h : Hdr) (key : Nat) (s : State) : Out := hostCmd .claimant h (decide (key < 2 ^ 4096)) (claimOp h key) s

/-- OWNER_ROTATE: signed by the present owner key. -/
def ownerRotateOp (h : Hdr) (key : Nat) (sigOk : Bool) (s : State) : State :=
  if !sigOk then reply h 8 (badSig s)
  else
    let s1 := { s with sec := { s.sec with ownerKey := key, ownerGen := s.sec.ownerGen + 1 } }
    reply h 0 (fire 25 0 0 5 (s1.sec.ownerGen % 65536) s1)

def execOwnerRotate (h : Hdr) (key : Nat) (sigOk : Bool) (s : State) : Out :=
  hostCmd .operator_ h (decide (key < 2 ^ 4096)) (ownerRotateOp h key sigOk) s

/-- RELEASE: an operator's with the owner key's signature, or any session's under STRAP_BOOT 1. The erase of the module it starts, with the rest
of its effect at its end, is that of R104 and R105 (`endRelease`). -/
def releaseOp (h : Hdr) (sigOk : Bool) (s : State) : State :=
  if !s.sec.recovery && roleH s h != 16 then reply h 8 s
  else if !s.sec.recovery && !sigOk then reply h 8 (badSig s)
  else if anyLoad s || anyErase s || s.hist.draining || s.hist.inRepl || holding s || !(enabledPtns s).isEmpty then reply h 8 s
  else
    let s1 := (List.range 4).foldl (fun t d => modCnv d (fun x => { x with st := 0 }) t) (leaveOut h s)
    { s1 with sec := { s1.sec with relErase := some h } }

def execRelease (h : Hdr) (sigOk : Bool) (s : State) : Out :=
  okIf (hdrOk h) (hostBody .any h none false s.sec.recovery (releaseOp h sigOk) s)

/-- A canvas is resident or being loaded or erased. -/
def anyResident (s : State) : Bool :=
  anyErase s || (List.range 4).any fun c => (cnvOf s c).bundle.isSome || (cnvOf s c).loadPh != 0

/-- KEY_ROTATE: a new scramble key. -/
def keyRotateOp (h : Hdr) (s : State) : State :=
  if anyResident s then reply h 8 s
  else
    let s1 := { s with sec := { s.sec with scrGen := s.sec.scrGen + 1 } }
    reply h 0 (fire 25 0 0 6 (s1.sec.ownerGen % 65536) s1)

def execKeyRotate (h : Hdr) (s : State) : Out := hostCmd .operator_ h true (keyRotateOp h) s

/-! ## The configuration record (R465 to R467) -/

/-- CFG_WRITE: the copy with the lower sequence number takes the new owner section, in force from the next start. -/
def cfgWriteOp (h : Hdr) (sigOk : Bool) (svn : Nat) (own : List Nat) (s : State) : State :=
  let a := s.sec.cfgA
  let b := s.sec.cfgB
  if s.hist.draining || s.hist.inRepl then replyOutcome h 6 s
  else if !sigOk then replyOutcome h 1 (badSig s)
  else if svn < s.sec.cfgFloor then replyOutcome h 2 s
  else
    let c : CfgCopy := { ok := true, seq := max a.seq b.seq + 1, own := own }
    replyOutcome h 0 { s with sec := if a.seq ≤ b.seq then { s.sec with cfgA := c } else { s.sec with cfgB := c } }

def execCfgWrite (h : Hdr) (sigOk : Bool) (svn : Nat) (owner : List Nat) (s : State) : Out :=
  hostCmd .operator_ h (decide (svn < 65536)) (cfgWriteOp h sigOk svn owner) s

/-- CFG_RESOLVE: the named copy is written over the other, and the module resets 100 ms after the reply. -/
def cfgResolveOp (h : Hdr) (copy : Nat) (copyOk : Bool) (s : State) : State :=
  if !s.sec.cfgConf then replyOutcome h 6 s
  else if !copyOk then replyOutcome h 1 s
  else
    let sec := if copy = 0 then { s.sec with cfgB := s.sec.cfgA } else { s.sec with cfgA := s.sec.cfgB }
    replyOutcome h 0 { s with sec := { sec with resolve := some s.clk.us } }

def execCfgResolve (h : Hdr) (copy : Nat) (copyOk : Bool) (s : State) : Out :=
  hostCmdSafe .operator_ h (decide (copy < 2)) (cfgResolveOp h copy copyOk) s

/-! ## Attestation (R471, R472) -/

/-- A partition's 32 bytes of a report. -/
def attestPtn (s : State) (n : Nat) : List Byte :=
  [0x000, 0x008, 0x00C, 0x018, 0x01C, 0x020, 0x02C, 0x030].flatMap fun o => leBytes ((ptnReg s n o).getD 0) 4

/-- A canvas's 80 bytes. -/
def attestCnv (s : State) (c : Nat) : List Byte :=
  leBytes (cnvOf s c).st 4 ++ List.replicate 12 (0 : Byte)
    ++ leBytes (if (cnvOf s c).st = 0 then 0 else match cnvBundle (cnvOf s c) with | some b => b.hash | none => 0) 64

/-- A class's 80 bytes. -/
def attestFw (s : State) (cls : Nat) : List Byte :=
  let c := fwOf s cls
  let m := runningImg s cls
  leBytes m.meas 64 ++ leBytes m.svn 4 ++ leBytes c.floor 4 ++ leBytes (b2n (if m = activeImg c then c.actB else !c.actB)) 4 ++ leBytes 0 4

/-- Bytes 0x000 to 0x4FF of a report; `view` names the partition of a partition session. -/
def reportBody (s : State) (nonce : Nat) (view : Option Nat) : List Byte :=
  let shown (n : Nat) : Bool := view.all (· == n)
  let cnvShown (c : Nat) : Bool := view.all fun n => (ptnOf s n).canvas == c
  let flags := b2n s.sec.safe + b2n (s.sec.upd.isSome && !s.sec.updNow) * 2 + b2n view.isSome * 4 + b2n s.sec.claimed * 8
  leBytes 1 2 ++ leBytes flags 1 ++ leBytes 0 1 ++ leBytes 1792 4 ++ leBytes s.sec.serial 8 ++ leBytes nonce 32
    ++ Config.sha512 Config.deviceCert
    ++ (if s.sec.claimed then Config.sha512 (leBytes s.sec.ownerKey 512) else List.replicate 64 (0 : Byte))
    ++ Config.sha512 (Config.cfgRecord (if s.sec.cfgB.seq < s.sec.cfgA.seq then s.sec.cfgA.own else s.sec.cfgB.own))
    ++ ([1, 2, 3, 4] : List Nat).flatMap (attestFw s)
    ++ leBytes s.dev.mstate 4 ++ leBytes s.sec.boots 4 ++ leBytes s.clk.cycles 4 ++ leBytes s.clk.hours 4
    ++ (List.range 4).flatMap (fun c => if cnvShown c then attestCnv s c else List.replicate 80 (0 : Byte))
    ++ (List.range 12).flatMap fun n => if shown n then attestPtn s n else List.replicate 32 (0 : Byte)

/-- ATTEST: the signed report. -/
def attestOp (h : Hdr) (nonce : Nat) (s : State) : State :=
  let s1 := { s with sec := { s.sec with serial := (s.sec.serial + 1) % 2 ^ 64, attests := satAdd 32 s.sec.attests 1 } }
  let body := reportBody s1 nonce (if roleH s h < 12 then some (roleH s h) else none)
  replyFull h 0 0 h.handle (body ++ Config.sign 0 body) s1

def execAttest (h : Hdr) (nonce : Nat) (s : State) : Out :=
  okIf (hdrOk h && decide (nonce < 2 ^ 256)) (hostBody .any h none false (roleH s h == 16) (attestOp h nonce) s)

end Sys2Proof.Machine
end

