-- ==== Sys2Proof/Machine/Recorder.lean ====
section
/-! DEFINITION. The event recorder's writing, clearing and committing (R494, R499, R502, R504, R505). -/

namespace Sys2Proof.Machine

/-- The record at the front of the queue is written with its valid mark; while a clear runs it waits, and a full recorder drops it. -/
def recordNext (s : State) : State :=
  let e := s.evr
  match e.queue with
  | [] => s
  | r :: rest =>
    if e.clearing then s
    else if e.full then { s with evr := { e with queue := rest, dropped := satAdd 32 e.dropped 1 } }
    else
      { s with evr := { e with queue := rest, recs := tput none e.recs e.count (some { r with epoch := e.epoch }), count := e.count + 1
                               full := decide (e.count + 1 = 16384), uncomm := e.uncomm + 1 } }

/-- RECORD_WRITE. -/
def execRecordWrite (s : State) : Out := .next (recordNext s)

/-- RECORDER_COMMIT: 256 records are uncommitted, or one has been for 60 s. -/
def execRecorderCommit (s : State) : Out :=
  .next (if 256 ≤ s.evr.uncomm ∨ (0 < s.evr.uncomm ∧ s.evr.dueUs + 60000000 ≤ s.clk.us) then evrCommit s else s)

/-- A clear begins; one that runs already is not affected (R504). -/
def evrClear (s : State) : State := { s with evr := { s.evr with clearing := true } }

/-- The clear ends: every mark is 0, EPOCH is one higher, and a commit that waited is made (R504, R505). -/
def clearEnd (s : State) : State :=
  if !s.evr.clearing then s
  else
    let s1 := { s with evr := { s.evr with clearing := false, count := 0, full := false, uncomm := 0
                                           epoch := if 65535 ≤ s.evr.epoch then 1 else s.evr.epoch + 1 } }
    if s1.evr.cmtWait then evrCommit s1 else s1

/-- RECORDER_CLEAR_END. -/
def execRecorderClearEnd (s : State) : Out := .next (clearEnd s)

end Sys2Proof.Machine
end

