-- ==== Sys2Proof/Machine/Power.lean ====
section
/-! DEFINITION. Power and temperature (R474 to R493): what the module keeps through a loss of power or a reset (R538), the input's limits, hold and
power warning, the housekeeping round, throttling, droop, and the sideband outputs (R519 to R521). -/

namespace Sys2Proof.Machine

/-! ## What survives (R538, R542) -/

/-- A canvas from its record, and what the far tier kept of it. -/
def cnvKept (far : Bool) (v : Canvas) : Canvas :=
  { Canvas.init with
    bundle := v.bundle, recSt := v.recSt, recHash := v.recHash, recDurable := v.recDurable, ownerGen := v.ownerGen
    staged := if far ∧ v.loadPh ≤ 1 then v.staged else none, stagedLen := v.stagedLen, stagedGen := v.stagedGen }

/-- The arrays: conductances, and the settings that the canvas record holds (R100). -/
def arrKept (s : State) : ArrSt :=
  let a := (stopWrites s).arr
  { State.reset.arr with
    cells := a.cells, coeff := a.coeff, fmt := a.fmt, scale := a.scale, remap := a.remap, remapWant := a.remapWant
    rows := a.rows, written := a.written, incomplete := a.incomplete, exhausted := a.exhausted
    digcol := tmapv [] (fun l => l.filter (·.remap)) a.digcol }

/-- The glaze tables of the canvas record; residual tables lie in the far tier. -/
def glzKept (far : Bool) (g : GlzSt) : GlzSt :=
  { State.reset.glz with
    outl := g.outl, glr := g.glr, chans := tmapv [] (fun l => l.filter fun c => !c.runtime) g.chans, freq := g.freq, env := g.env
    expect := g.expect, resid := if far then g.resid else [], residLost := g.residLost, saved := g.saved, savedT := g.savedT }

/-- Unit history as the later copy in flash holds it; audit copies are spares again (R420, R564). -/
def histFrom (c : UhCopy) (h : HistSt) : HistSt :=
  { h with remap := tmapv (0, 0) (fun p => if p.2 = 2 then (31, 1) else p) c.remap
           cycles := c.cycles, records := c.recs, inRepl := c.repl, cause := c.cause }

/-- Unit history after a start or a reset, before R423 decides. -/
def histKept (h : HistSt) : HistSt :=
  histFrom (if h.seqA ≤ h.seqB then h.copyB else h.copyA)
    { State.reset.hist with window := h.window, seqA := h.seqA, seqB := h.seqB, copyA := h.copyA, copyB := h.copyB }

/-- The security core's flash regions. -/
def secKept (c : SecSt) : SecSt :=
  { State.reset.sec with
    claimed := c.claimed, ownerKey := c.ownerKey, ownerGen := c.ownerGen, scrGen := c.scrGen, scrUse := c.scrUse, boots := c.boots, serial := c.serial
    fw := c.fw, fwSeen := c.fwSeen, cfgA := c.cfgA, cfgB := c.cfgB, cfgFloor := c.cfgFloor, stepping := c.stepping, paramset := c.paramset
    order := c.order, serialNo := c.serialNo, macs := c.macs }

/-- The recorder as flash holds it, with its lists and trigger settings (R503, R505). -/
def evrKept (e : EvrSt) : EvrSt :=
  { State.reset.evr with
    trigs := tmapv none (fun t => t.map fun x => { x with supp := 0, lastUs := 0, fired := false }) e.trigs
    listN := e.listN, lists := e.lists, recs := e.fRecs, count := e.fCount, full := decide (e.fCount = 16384), epoch := e.fEpoch
    fCount := e.fCount, fEpoch := e.fEpoch, fRecs := e.fRecs, lastCmt := 0 }

/-- The module after its main rails have failed or RESET_N has been asserted: every register at its reset value, and what survives of the rest.
`near` and `far` say which tiers keep their contents. -/
def survive (near far : Bool) (s : State) : State :=
  let r := State.reset
  { r with
    clk := s.clk
    arr := arrKept s
    glz := glzKept far s.glz
    seq := { r.seq with tables := s.seq.tables }
    kv := { r.kv with
      near := if near then s.kv.near else [], window := if near then s.kv.window else [], owner := if near then s.kv.owner else []
      scrub := if near then s.kv.scrub else [], retired := s.kv.retired, retiredFar := s.kv.retiredFar, attn := s.kv.attn
      master := if far then s.kv.master else [], lostImg := if far then s.kv.lostImg else [], nearKept := near, farKept := far
      keptMark := far, selfRef := true }
    req := { r.req with imported := s.req.imported, expSerial := s.req.expSerial, region := if far then s.req.region else none }
    cnv := tmapv Canvas.init (cnvKept far) s.cnv
    ptn := tmapv Ptn.init (fun p => { Ptn.init with key := p.key }) s.ptn
    hist := histKept s.hist
    sec := secKept s.sec
    pwr := { r.pwr with tshutAo := s.pwr.tshutAo, needEdge := s.pwr.needEdge, disconn := s.pwr.disconn, holdPin := s.pwr.holdPin
                        warnPin := s.pwr.warnPin }
    evr := evrKept s.evr
    brd := { r.brd with pwrEn := s.brd.pwrEn, resetN := s.brd.resetN, prsnt := s.brd.prsnt, straps := s.brd.straps, trst := s.brd.trst
                        taps := s.brd.taps, pwrEnUs := s.brd.pwrEnUs }
    dev := { r.dev with row := 0, railsOk := false, keyCtr := s.dev.keyCtr }
    free := s.free
    pending := s.pending }

/-- The far tier holds contents: this start has taken it into service, or it has kept them since the last one. -/
def farHolds (s : State) : Bool := decide (4 ≤ s.dev.row) || s.kv.farKept

/-- The main rails are off: the far tier keeps its contents only where it stays in self-refresh. -/
def railsOff (far : Bool) (state : Nat) (off : Bool) (s : State) : State :=
  let s1 := survive false far s
  { s1 with pwr := { s1.pwr with state := state, off := off } }

/-! ## Outputs (R519 to R521) -/

/-- The module drives its outputs: powered, and not in reset. -/
def driven (s : State) : Bool := s.brd.prsnt && !s.pwr.off && s.brd.resetN

def readyPin (s : State) : Bool := driven s && s.dev.mstate == 1
def faultPin (s : State) : Bool := driven s && (s.hist.inRepl || s.pwr.state == 5 || (s.sec.safe && s.sec.cause != 5))
def attnPin (s : State) : Bool := driven s && s.pwr.events != 0
def throtPin (s : State) : Bool := driven s && s.pwr.thrott

/-- LED_A: 0 off, 1 on, 2 1 Hz, 3 4 Hz, 4 0.1 s on every 2 s. -/
def ledA (s : State) : Nat :=
  if !driven s || s.pwr.state == 0 then 0
  else if s.hist.inRepl || s.pwr.state == 5 || s.sec.safe then 4
  else if s.dev.mstate = 2 ∨ s.pwr.state = 4 ∨ s.dev.mstate = 3 then 3
  else if s.dev.mstate = 1 then 1 else 2

/-- LED_B: 0 off, 1 on, 2 1 Hz, 3 8 Hz. -/
def ledB (s : State) : Nat :=
  let up (net : Nat) : Bool := (List.range 4).any fun i => (portOf s (4 * net + i)).link
  if !driven s then 0 else if s.dev.locate then 3 else if up 0 && up 1 then 1 else if up 0 || up 1 then 2 else 0

/-! ## PWR_EVENTS and the states -/

/-- Bits of PWR_EVENTS set; with ENEC enabled an in-band interrupt follows when ATTN_N becomes asserted (R493, R525). -/
def setEvents (m : Nat) (s : State) : State :=
  { s with
    pwr := { s.pwr with events := s.pwr.events ||| m }
    brd := { s.brd with ibi := if s.pwr.events = 0 ∧ m ≠ 0 ∧ bitOf s.brd.enec 0 then s.brd.ibi + 1 else s.brd.ibi } }

/-- A hold is in force: HOLD_N, HOLD_REQ or the junction. -/
def held (s : State) : Bool := s.pwr.holdPin || s.pwr.holdReq || s.pwr.tjHold

/-- A power warning is in force. -/
def warned (s : State) : Bool := s.pwr.warnPin || s.pwr.intWarn

/-- The main rails are on and a start has begun. -/
def running_ (s : State) : Bool := !s.pwr.off && decide (1 ≤ s.pwr.state) && decide (s.pwr.state ≤ 4)

/-- The module state that follows from the rest of the state (R380). -/
def mstateOf (s : State) : Nat :=
  if s.hist.inRepl then 4 else if s.hist.draining then 3
  else if s.dev.row < 7 || s.sec.safe then 0
  else if held s || warned s || s.dev.shutting then 2 else 1

def settleMstate (s : State) : State := setMstate (mstateOf s) s

/-- The power state after a hold or a warning ends, or a warning begins: HOLDUP, PARKED, ACTIVE or the start (R491, R492). -/
def settlePower (s : State) : State :=
  if !running_ s then s
  else
    let n := if warned s then 4 else if (held s || s.dev.shutting) && s.pwr.state != 2 && s.pwr.state != 1 then 3
      else if held s && s.pwr.state == 2 then 2
      else if s.dev.row < 7 then 1 else 2
    settleMstate { s with pwr := { s.pwr with state := n } }

/-! ## Hold (R490) -/

/-- A hold begins: writing stops at its iteration, a provisional update is reverted, HOLD is raised on every enabled partition. -/
def quiesce_ (s : State) : State :=
  let s1 := updRevert (stopWrites { s with pwr := { s.pwr with holdUs := s.clk.us } })
  settleMstate (raiseAll (enabledPtns s1) { ty := 5, flags := 0, unit := 0, level := 0, args := [] } s1)

/-- HOLD_N or HOLD_REQ asserted. -/
def holdOn (pin : Bool) (s : State) : State :=
  let s1 := if pin then { s with pwr := { s.pwr with holdPin := true } } else { s with pwr := { s.pwr with holdReq := true } }
  if !running_ s then s1
  else
    let s2 := fire 21 0 0 1 0 (setEvents 128 s1)
    if held s || s.dev.shutting then s2 else quiesce_ s2

/-- HOLD_N or HOLD_REQ released: with no hold left, steps resume. -/
def holdOff (pin : Bool) (s : State) : State :=
  let s1 := if pin then { s with pwr := { s.pwr with holdPin := false } } else { s with pwr := { s.pwr with holdReq := false } }
  if running_ s then settlePower (fire 21 0 0 0 0 s1) else s1

/-- HOLD_N_ASSERT, after its deglitch. -/
def execHoldNAssert (s : State) : Out := .next (if s.pwr.holdPin then s else holdOn true s)

/-- HOLD_N_RELEASE: HOLD_N has been deasserted for 1 ms. -/
def execHoldNRelease (s : State) : Out := .next (if s.pwr.holdPin then holdOff true s else s)

/-- HOLD_QUIESCE_TIMEOUT: 1.5 ms after a hold the step in flight is abandoned without re-execution, and the module is PARKED; during a start it
parks at the calibration row (R490, and the events during start). -/
def holdQuiesce (s : State) : State :=
  if !(held s || s.dev.shutting) || warned s || decide (s.clk.us < s.pwr.holdUs + 1500) then s
  else if s.pwr.state = 2 ∨ (s.pwr.state = 1 ∧ 5 ≤ s.dev.row) then
    let s1 := if s.sch.cur.any (fun c => !c.abandoning) then sendAbandon false s else s
    { s1 with pwr := { s1.pwr with state := 3 } }
  else s

def execHoldQuiesceTimeout (s : State) : Out := .next (holdQuiesce s)

/-! ## Power warning (R475, R491) -/

/-- A warning acts: the step in flight is abandoned without re-execution, writing stops, ramps are lost, records and unit history are committed,
and the module is in HOLDUP. -/
def warnOn (s : State) : State :=
  let s1 := if s.sch.cur.any (fun c => !c.abandoning) then sendAbandon false s else s
  let s2 := stopWrites { s1 with glz := { s1.glz with ramps := [] } }
  settlePower (evrCommit (uhWrite (setEvents 64 s2)))

/-- A warning is released: HOLDUP ends when no other warning is in force. -/
def warnOff (s : State) : State := if warned s then s else settlePower (fire 22 0 0 0 (s.pwr.vin / 10) s)

/-- PWRWARN_N_ASSERT. -/
def execPwrwarnNAssert (s : State) : Out :=
  .next (
    let s1 := { s with pwr := { s.pwr with warnPin := true } }
    if s.pwr.warnPin || !running_ s then s1
    else
      let s2 := fire 22 0 0 1 (s.pwr.vin / 10) s1
      if warned s then s2 else warnOn s2)

/-- PWRWARN_N_RELEASE: deasserted for 10 ms with the input good. -/
def execPwrwarnNRelease (s : State) : Out :=
  .next (if s.pwr.warnPin then
      (let s1 := { s with pwr := { s.pwr with warnPin := false } }
       if running_ s1 then warnOff s1 else s1)
    else s)

/-! ## The input (R474, R475, R512) -/

/-- The input voltage as the module reads it, in 10 mV (R493). -/
def seeInput (mv : Nat) (s : State) : State := { s with pwr := { s.pwr with vin := min 65535 (mv / 10) } }

/-- The input stage disconnects, as an unannounced power loss. -/
def disconnect (s : State) : State :=
  let s1 := railsOff false 0 true s
  { s1 with pwr := { s1.pwr with disconn := true } }

/-- INPUT_OVERVOLTAGE: above 60 V; above 80 V the stage disconnects at once. -/
def overvolt (mv : Nat) (s : State) : State :=
  if mv ≤ 60000 || s.pwr.off then s
  else
    let s1 := fire 23 0 0 9 (mv / 100) (setEvents 512 (seeInput mv s))
    if 80000 < mv then disconnect s1 else s1

def execInputOvervoltage (mv : Nat) (s : State) : Out := .next (overvolt mv s)

/-- INPUT_STAGE_DISCONNECT: above 64 V for more than 100 ms. -/
def execInputStageDisconnect (mv : Nat) (s : State) : Out := .next (if 64000 < mv ∧ !s.pwr.off then disconnect s else s)

/-- INPUT_RECONNECT: the input has stayed within 40 V to 60 V for 1 s; the module stands in STANDBY until PWR_EN is asserted again. -/
def execInputReconnect (mv : Nat) (s : State) : Out :=
  .next (if s.pwr.disconn ∧ 40000 ≤ mv ∧ mv ≤ 60000 then
      { s with pwr := { s.pwr with disconn := false, off := false, state := 0, needEdge := s.brd.pwrEn } }
    else s)

/-- INPUT_UNDERVOLTAGE: below 39 V while ACTIVE or PARKED. -/
def undervolt (mv : Nat) (s : State) : State :=
  if 39000 ≤ mv || s.pwr.intWarn || s.pwr.off || !(s.pwr.state == 2 || s.pwr.state == 3) then s
  else
    let s1 := fire 23 0 0 8 (mv / 100) (setEvents 256 (seeInput mv s))
    warnOn (fire 22 0 0 2 (mv / 100) { s1 with pwr := { s1.pwr with intWarn := true } })

def execInputUndervoltage (mv : Nat) (s : State) : Out := .next (undervolt mv s)

/-- INPUT_UV_RELEASE: at or above 40 V for 10 ms. -/
def execInputUvRelease (mv : Nat) (s : State) : Out :=
  .next (if s.pwr.intWarn ∧ 40000 ≤ mv then
      (let s1 := seeInput mv { s with pwr := { s.pwr with intWarn := false } }
       if running_ s1 then warnOff s1 else s1)
    else s)

/-- INPUT_LOCKOUT: below the falling lockout, which lies between 35 V and 37 V. -/
def execInputLockout (mv : Nat) (s : State) : Out := .next (if mv < 37000 ∧ !s.pwr.off then railsOff false 0 true s else s)

/-- INPUT_APPLIED: above the rising lockout, which lies between 37 V and 39 V; a module that was off stands in STANDBY. An input that reaches the
module finds it inserted (R512; log entry 35). -/
def execInputApplied (mv : Nat) (s : State) : Out :=
  .next (if s.pwr.off ∧ !s.pwr.disconn ∧ 37000 < mv then
      { seeInput mv s with pwr := { (seeInput mv s).pwr with off := false, state := 0 }, brd := { s.brd with prsnt := true } }
    else s)

/-- MODULE_REMOVAL: PRSNT_N goes high. -/
def execModuleRemoval (s : State) : Out :=
  .next (let s1 := if s.pwr.off then s else railsOff false 0 true s
    { s1 with brd := { s1.brd with prsnt := false } })

/-- STANDBY_READING_REFRESH: input voltage, input current and the eight board inputs, in STANDBY only. -/
def standbyRead (mv ma10 : Nat) (board : List (Int × Bool)) (s : State) : State :=
  if s.pwr.off || s.pwr.state != 0 then s
  else
    let put (t : Tab (Nat × Bool)) (ch : Nat) (v : Int) (ok : Bool) : Tab (Nat × Bool) :=
      tput (0, false) t ch (if ok then trunc 16 v else (tget (0, false) t ch).1, ok)
    let c0 := put (put s.pwr.chans 166 ((mv / 10 : Nat) : Int) true) 167 ((ma10 : Nat) : Int) true
    let c1 := (List.range 8).foldl (fun t k => match board[k]? with | some b => put t (158 + k) b.1 b.2 | none => t) c0
    { s with pwr := { s.pwr with vin := min 65535 (mv / 10), iin := min 65535 ma10, chans := c1 } }

def execStandbyReadingRefresh (mv ma10 : Nat) (board : List (Int × Bool)) (s : State) : Out :=
  okIf (decide (board.length = 8)) (standbyRead mv ma10 board s)

/-! ## Thermal shutdown, droop, peaks (R479, R481, R488) -/

/-- THERMAL_COMPARATOR_TRIP: every rail but the always-on and standby rails turns off; nothing is committed. -/
def execThermalComparatorTrip (unit : Nat) (s : State) : Out :=
  okIf (decide (unit < 2 ^ 32) && dieKey unit == unit && decide (dieOf unit < 40))
    (if running_ s then
      (let s1 := railsOff (farHolds s) 5 false s
       { s1 with pwr := { s1.pwr with tshutAo := true, needEdge := true } })
     else s)

/-- Droop threshold in mV. -/
def droopMv (s : State) : Nat := 600 + 5 * s.pwr.droopTh

/-- DROOP_DETECT: below the threshold the cluster's clock stretches. -/
def execDroopDetect (cluster : Nat) (mv : Nat) (s : State) : Out :=
  okIf (isArrCluster cluster)
    (if mv < droopMv s ∧ !s.pwr.stretching.contains cluster then { s with pwr := { s.pwr with stretching := s.pwr.stretching ++ [cluster] } } else s)

/-- STRETCH_END: 15 mV above the threshold for 64 stretched cycles; the cycles stretched are counted. -/
def execStretchEnd (cluster : Nat) (cycles : Nat) (s : State) : Out :=
  okIf (isArrCluster cluster)
    (if s.pwr.stretching.contains cluster ∧ 64 ≤ cycles then
      { s with pwr := { s.pwr with stretching := s.pwr.stretching.erase cluster
                                   stretch := tmod 0 s.pwr.stretch (clNum cluster) (fun n => satAdd 32 n cycles) } }
     else s)

/-- PEAK_LIMIT: the 100 µs average exceeds 7.2 kW. -/
def execPeakLimit (watts : Nat) (s : State) : Out := .next (if 7200 < watts ∧ running_ s then fire 18 0 0 0 0 (setEvents 2 s) else s)

/-! ## The housekeeping round (R483 to R487, R489) -/

/-- A channel's last valid reading, when it is valid now; in 0.25 °C for the temperatures. -/
def reading (s : State) (ch : Nat) : Option Int :=
  let c := tget (0, false) s.pwr.chans ch
  if c.2 then some (sext 16 c.1) else none

/-- A reading of one channel: VALUE and VALID, the runs of invalid rounds, SENSOR, and the board inputs' thresholds. -/
def channelRead (ch : Nat) (value : Int) (valid : Bool) (s : State) : State :=
  if !running_ s then s
  else
    let old := tget (0, false) s.pwr.chans ch
    let st := tget 0 s.pwr.stale ch
    let st' := if valid then 1 else st + 2
    let s1 := { s with pwr := { s.pwr with
      chans := tput (0, false) s.pwr.chans ch (if valid then trunc 16 value else old.1, valid), stale := tput 0 s.pwr.stale ch st'
      vin := if ch = 166 ∧ valid then trunc 16 value else s.pwr.vin, iin := if ch = 167 ∧ valid then trunc 16 value else s.pwr.iin } }
    let s2 := if st / 2 + 1 = 4 ∧ !valid then fire 20 0 0 10 ch (setEvents 1024 s1)
      else if 4 ≤ st / 2 ∧ valid then fire 20 0 0 10 ch s1 else s1
    let w := tget (340, true) s.pwr.warn (ch - 158)
    if 158 ≤ ch ∧ ch ≤ 165 ∧ valid ∧ w.2 ∧ sext 12 w.1 ≤ value then setEvents 4096 s2 else s2

/-- HOUSEKEEPING_CHANNEL. -/
def execHousekeepingChannel (ch : Nat) (value : Int) (valid : Bool) (s : State) : Out := okIf (decide (ch < 256)) (channelRead ch value valid s)

/-- The hottest valid die diode, with its channel. -/
def hottest (s : State) : Option (Nat × Int) :=
  (List.range 126).foldl (fun a ch => match reading s ch, a with
    | some v, some b => if b.2 < v then some (ch, v) else a
    | some v, none => some (ch, v)
    | none, _ => a) none

/-- Some valid channel of a range reads at or above a value. -/
def anyAbove (s : State) (lo n : Nat) (v : Int) : Bool := (List.range n).any fun k => match reading s (lo + k) with | some t => decide (v ≤ t) | none => false

/-- A condition that sets after 4 rounds in a row and clears after 4 without it: the flag and its run. -/
def fourRounds (flag cond : Bool) (run : Nat) : Bool × Nat :=
  if cond = flag then (flag, 0) else if run + 1 = 4 then (cond, 0) else (flag, run + 1)

/-- INLET_HOT and FLOW_LOW (R489); with NTC0 or NTC1 invalid the checks are suspended (R486). -/
def coolantRound (s : State) : State :=
  match reading s 162, reading s 163 with
  | some a, some b =>
    let i := fourRounds s.pwr.inletHot (decide (160 < a)) s.pwr.inletRun
    let f := fourRounds s.pwr.flowLow (s.pwr.flowchk && decide (8 * ((s.pwr.pin : Nat) : Int) + 10000 < 1250 * (b - a))) s.pwr.flowRun
    let s1 := { s with pwr := { s.pwr with inletHot := i.1, inletRun := i.2, flowLow := f.1, flowRun := f.2 } }
    let s2 := if i.1 = s.pwr.inletHot then s1 else fire 20 0 0 5 162 (if i.1 then setEvents 32 s1 else s1)
    if f.1 = s.pwr.flowLow then s2 else fire 20 0 0 4 163 (if f.1 then setEvents 16 s2 else s2)
  | _, _ => { s with pwr := { s.pwr with inletRun := 0, flowRun := 0 } }

/-- The coolant checks are not suspended. -/
def coolantSeen (s : State) : Bool := (reading s 162).isSome && (reading s 163).isSome

/-- Throttle triggers of a round as a mask: junction, memory, power, inlet, flow (R480). -/
def throttleMask (s : State) (hot : Option (Nat × Int)) : Nat :=
  b2n (match hot with | some h => decide (380 ≤ h.2) | none => false)
    + 2 * b2n (anyAbove s 126 16 360 || anyAbove s 142 16 340) + 4 * b2n (decide (10 * s.pwr.plim < s.pwr.pin))
    + 8 * b2n (s.pwr.inletHot && coolantSeen s) + 16 * b2n (s.pwr.flowLow && coolantSeen s)

/-- The enforced limit after a round, with the count of clear rounds (R477, R480); it is held while an update of PMC is provisional (R455). -/
def limitAfter (s : State) (mask : Nat) (jmax : Bool) : Nat × Nat :=
  if s.sec.upd.any fun u => u.cls == 3 then (s.pwr.lim, s.pwr.clear)
  else if jmax then (150, 0)
  else
    let l0 := min s.pwr.lim s.pwr.plim
    if mask ≠ 0 then (max 150 (975 * l0 / 1000), 0)
    else if s.pwr.clear + 1 = 20 then (min s.pwr.plim (1025 * l0 / 1000), 0)
    else (l0, s.pwr.clear + 1)

/-- Throttling at the end of a round (R480). -/
def throttleRound (jmax : Bool) (hot : Option (Nat × Int)) (s : State) : State :=
  let mask := throttleMask s hot
  let l := limitAfter s mask jmax
  let on := decide (l.1 < s.pwr.plim) || mask != 0
  let s1 := { s with pwr := { s.pwr with lim := l.1, clear := l.2, thrott := on } }
  let s2 := if bitOf mask 1 then setEvents 2048 s1 else s1
  if on = s.pwr.thrott then s2 else if on then fire 17 0 0 1 mask (setEvents 1 s2) else fire 17 0 0 0 mask s2

/-- The junction at its maximum parks the module until the hottest diode reads below 100 °C (R487). -/
def junctionRound (hot : Option (Nat × Int)) (s : State) : State :=
  match hot with
  | none => s
  | some h =>
    if 420 ≤ h.2 ∧ !s.pwr.tjHold then
      let s1 := fire 19 0 0 1 h.1 (fire 19 0 0 0 h.1 (setEvents 4 { s with pwr := { s.pwr with tjHold := true } }))
      if held s || s.dev.shutting then s1 else quiesce_ s1
    else if h.2 < 400 ∧ s.pwr.tjHold then settlePower (fire 19 0 0 2 h.1 { s with pwr := { s.pwr with tjHold := false } })
    else s

/-- TEMP (R424, R425): two adjacent valid rounds away from the temperature of the last accepted calibration. -/
def tempRound (s : State) (cl : Nat) : State :=
  let k := calOf s cl
  let away := match reading s (diodeOf cl) with
    | some t => decide (2 * s.cal.tdelta < (t - sext 12 k.tlast).natAbs)
    | none => false
  if !s.cal.tempEn || k.count == 0 || !away then (if k.hot = 0 then s else modCal cl (fun c => { c with hot := 0 }) s)
  else if k.hot + 1 < 2 then modCal cl (fun c => { c with hot := c.hot + 1 }) s
  else calDue 3 cl s

/-- HOUSEKEEPING_ROUND_END. -/
def roundEnd (watts pump : Nat) (s : State) : State :=
  if !running_ s then s
  else
    let s1 := { s with pwr := { s.pwr with rounds := satAdd 32 s.pwr.rounds 1, pin := min 65535 watts, pump := pump } }
    let hot := hottest s1
    let s2 := match hot with
      | some h => { s1 with pwr := { s1.pwr with tjHot := trunc 12 h.2, hotch := h.1 } }
      | none => s1
    let s3 := coolantRound s2
    let jmax := match hot with | some h => decide (420 ≤ h.2) && !s3.pwr.tjHold | none => false
    allClusters.foldl tempRound (throttleRound jmax hot (junctionRound hot s3))

def execHousekeepingRoundEnd (watts pump : Nat) (s : State) : Out := .next (roundEnd watts pump s)

end Sys2Proof.Machine
end

