-- ==== Sys2Proof/Machine/RegAccess.lean ====
section
/-! DEFINITION. Access to the register space (R7, R8, R546 to R564): the paths and their reach, the outcome of an access, what a read clears,
what a write of each register does, the register messages, and the writes that have a row of their own. -/

namespace Sys2Proof.Machine

/-! ## Paths (R547, R548, R557, R558, R527) -/

/-- The path exists: its session is live, and its role is the one the path names. -/
def pathLive (s : State) : Path → Bool
  | .operator k _ => (sesOf s k).live && !(sesOf s k).ended && (sesOf s k).sid == k && (sesOf s k).role == 16
  | .partition k n => (sesOf s k).live && !(sesOf s k).ended && (sesOf s k).sid == k && decide (n < 12) && (sesOf s k).role == n
  | .sideband => true

/-- The query value of a path (R564). -/
def pathQuery (s : State) : Path → Word
  | .operator k _ | .partition k _ => (sesOf s k).qAddr
  | .sideband => s.hist.sbQuery

/-- An address with the alias of R548 resolved. -/
def aliasOf (p : Path) (a : Nat) : Option Nat :=
  if 0xF00000 ≤ a ∧ a < 0xF00040 then
    match p with
    | .operator _ n | .partition _ n => if n < 12 then some (a - 0xF00000 + 0x100000 + n * 0x10000) else none
    | .sideband => none
  else some a

/-- Blocks that a path reaches, for a read or a write (R547, R549). -/
def reaches (p : Path) (write : Bool) (b : Block) (o : Nat) : Bool :=
  match p, b with
  | .operator _ _, _ => true
  | .partition _ _, .dev => !write && decide (o < 0x40)
  | .partition _ n, .ptn m => n == m && (!write || o == 0x028)
  | .partition _ _, _ => false
  | .sideband, .dev | .sideband, .pwr | .sideband, .evr | .sideband, .hlth => true
  | .sideband, _ => false

/-- The block's owner does not serve the path yet. -/
def blockBusy (s : State) (p : Path) (b : Block) : Bool :=
  match p with
  | .sideband =>
    s.sec.romRec || (if s.pwr.state = 0 ∨ s.pwr.state = 5 then b != .pwr else decide (s.dev.row < 3))
  | _ =>
    match b with
    | .dev | .pwr | .evr | .sec => false
    | .hlth => s.pwr.state == 1 && !s.sec.safe
    | _ => s.pwr.state == 1 || s.sec.safe

/-- The outcome of an access (R550), with the block and offset it reaches when it is made. -/
def accessOf (s : State) (p : Path) (write : Bool) (a : Nat) : Nat × Option (Block × Nat) :=
  match aliasOf p a with
  | none => (2, none)
  | some x =>
    match regVal s (pathQuery s p) x, blockOf x with
    | some _, some (b, o) => if !reaches p write b o then (1, none) else if blockBusy s p b then (3, none) else (0, some (b, o))
    | _, _ => (2, none)

/-! ## Reads (R553, R559) -/

/-- RC fields clear (R7). -/
def clearRC (b : Block) (o : Nat) (s : State) : State :=
  match b with
  | .pwr => if 0x1000 ≤ o then { s with pwr := { s.pwr with stretch := tput 0 s.pwr.stretch ((o - 0x1000) / 4) 0 } } else s
  | .evr =>
    if o = 0x010 then { s with evr := { s.evr with dropped := 0 } }
    else if o = 0x014 then { s with evr := { s.evr with lost := 0 } } else s
  | .cal =>
    if o = 0x014 then { s with cal := { s.cal with discards := 0 } }
    else if o = 0x018 then { s with cal := { s.cal with calRemaps := 0 } } else s
  | .hlth =>
    if o = 0x018 then { s with hist := { s.hist with faultsT := 0 } }
    else if o = 0x01C then { s with hist := { s.hist with faultsP := 0 } }
    else if o = 0x020 then { s with hist := { s.hist with ceNear := 0 } }
    else if o = 0x024 then { s with hist := { s.hist with ceFar := 0 } }
    else if o = 0x028 then { s with hist := { s.hist with ceCache := 0 } }
    else if o = 0x030 then { s with hist := { s.hist with skips := 0 } }
    else if o = 0x034 then { s with hist := { s.hist with diffs := 0 } }
    else if o = 0x038 then { s with hist := { s.hist with loneCnt := 0 } } else s
  | .cnv c =>
    modCnv c (fun v =>
      if o = 0x028 then { v with rewinds := 0 } else if o = 0x02C then { v with reexecs := 0 }
      else if o = 0x030 then { v with abandons := 0 } else if o = 0x034 then { v with d16Tiles := 0 }
      else if o = 0x038 then { v with floorRises := 0 } else v) s
  | .port n =>
    modPort n (fun p =>
      if o = 0x040 then { p with fecCorr := 0 } else if o = 0x044 then { p with fecUnc := 0 }
      else if o = 0x048 then { p with rxDrop := 0 } else p) s
  | .sec =>
    if o = 0x034 then { s with sec := { s.sec with attests := 0 } }
    else if o = 0x038 then { s with sec := { s.sec with hsFail := 0 } }
    else if o = 0x03C then { s with sec := { s.sec with sigFail := 0 } } else s
  | .dev | .ptn _ => s

/-- One register read: outcome, value, state. -/
def readReg (p : Path) (a : Nat) (s : State) : Nat × Word × State :=
  match accessOf s p false a with
  | (0, some (b, o)) => (0, BitVec.ofNat 32 ((blockReg s (pathQuery s p) b o).getD 0), clearRC b o s)
  | (e, _) => (e, 0, s)

/-! ## Writes, block by block (R551) -/

/-- A field takes a legal value and keeps its own otherwise. -/
def legal {α : Type} (ok : Bool) (new old : α) : α := if ok then new else old

/-- A written value of a numeric field within its range. -/
def ranged (lo hi n old : Nat) : Nat := legal (decide (lo ≤ n) && decide (n ≤ hi)) n old

/-- DEV (R560). -/
def writeDev (o : Nat) (v : Word) (s : State) : State :=
  let w := v.toNat
  if o = 0x040 then { s with dev := { s.dev with locate := bitOf w 0 } }
  else if o = 0x044 then
    { s with dev := { s.dev with opLease := ranged 1 60 (fld w 0 8) s.dev.opLease, opGrace := ranged 0 3600 (fld w 8 12) s.dev.opGrace } }
  else if o = 0x048 then { s with dev := { s.dev with budget := ranged 0 600 (fld w 0 10) s.dev.budget } }
  else if o = 0x050 then { s with dev := { s.dev with scratch := v } }
  else s

/-- HOLD_REQ set or cleared: an edge acts as HOLD_N does (R490). -/
def setHoldReq (on : Bool) (s : State) : State :=
  if on = s.pwr.holdReq then s else if on then holdOn false s else holdOff false s

/-- PWR_CTRL (R493): PLIM, FLOWCHK_EN, DROOP_TH and HOLD_REQ. -/
def writePwrCtrl (w : Nat) (s : State) : State :=
  setHoldReq (bitOf w 10)
    { s with pwr := { s.pwr with plim := ranged 200 720 (fld w 0 10) s.pwr.plim, flowchk := bitOf w 11
                                 droopTh := ranged 16 26 (fld w 12 5) s.pwr.droopTh } }

/-- PWR (R493). -/
def writePwr (o : Nat) (v : Word) (s : State) : State :=
  let w := v.toNat
  if o = 0x000 then writePwrCtrl w s
  else if o = 0x018 then { s with pwr := { s.pwr with events := s.pwr.events &&& (8191 - w % 8192) } }
  else if 0x040 ≤ o ∧ o < 0x060 then
    { s with pwr := { s.pwr with warn := tput (340, true) s.pwr.warn ((o - 0x40) / 4) (fld w 0 12, bitOf w 12) } }
  else s

/-- An address that a snapshot list may hold (R503). -/
def listable (s : State) (v : Word) : Bool :=
  (regVal s 0 v.toNat).isSome &&
    match blockOf v.toNat with
    | some (.evr, _) | some (.sec, _) | none => false
    | some _ => true

/-- EVR_CTRL: ARM takes its value; CLEAR and SWTRIG act (R496, R504, R509). -/
def writeEvrCtrl (w : Nat) (s : State) : State :=
  let s1 := { s with evr := { s.evr with arm := bitOf w 0 } }
  let s2 := if bitOf w 1 then evrClear s1 else s1
  if bitOf w 2 then fireArg 31 0 0 0 0 s2.evr.swarg.toNat s2 else s2

/-- EVR (R509); lists and their counts change only while COUNT is 0 (R503). -/
def writeEvr (o : Nat) (v : Word) (s : State) : State :=
  let w := v.toNat
  if o = 0x000 then writeEvrCtrl w s
  else if o = 0x00C then { s with evr := { s.evr with cursor := fld w 0 14 } }
  else if o = 0x01C then { s with evr := { s.evr with swarg := v } }
  else if 0x100 ≤ o ∧ o < 0x180 then
    let t := (o - 0x100) / 4
    { s with evr := { s.evr with
      trigs := tput none s.evr.trigs t (some { trigOf s t with en := bitOf w 0, list := fld w 1 3, holdoff := fld w 4 12 }) } }
  else if 0x200 ≤ o ∧ o < 0x220 ∧ s.evr.count = 0 ∧ fld w 0 6 ≤ 48 then
    let l := (o - 0x200) / 4
    { s with evr := { s.evr with listN := tput (listNInit l) s.evr.listN l (fld w 0 6) } }
  else if 0x400 ≤ o ∧ o < 0xA00 ∧ s.evr.count = 0 ∧ listable s v then
    let k := 48 * ((o - 0x400) / 192) + (o - 0x400) % 192 / 4
    { s with evr := { s.evr with lists := tput (listInit k) s.evr.lists k v } }
  else s

/-- CAL_CMD (R424): a 1 in ALL makes every array cluster due. -/
def writeCalCmd (w : Nat) (s : State) : State := if bitOf w 0 then allClusters.foldl (fun t cl => calDue 6 cl t) s else s

/-- CAL (R443). -/
def writeCal (o : Nat) (v : Word) (s : State) : State :=
  let w := v.toNat
  let m := fld w 16 16
  if o = 0x000 then
    { s with cal := { s.cal with
      tempEn := bitOf w 0, tdelta := ranged 2 40 (fld w 1 7) s.cal.tdelta, gapMin := ranged 8 240 (fld w 8 8) s.cal.gapMin
      maxint := legal (m == 0 || decide (60 ≤ m)) m s.cal.maxint } }
  else if o = 0x004 then writeCalCmd w s
  else s

/-- AUDIT (R406, R564). -/
def writeAudit (w : Nat) (s : State) : State :=
  let s1 := { s with hist := { s.hist with auditEn := bitOf w 0, frac := ranged 6 12 (fld w 1 4) s.hist.frac
                                           period := ranged 60 86400 (fld w 15 17) s.hist.period } }
  if s.hist.auditEn && !bitOf w 0 then auditOff s1 else s1

/-- QUERY of a path (R564). -/
def writeQuery (p : Path) (v : Word) (s : State) : State :=
  match p with
  | .operator k _ | .partition k _ => modSes k (fun e => { e with qAddr := v }) s
  | .sideband => { s with hist := { s.hist with sbQuery := v } }

/-- HLTH (R563). -/
def writeHlth (p : Path) (o : Nat) (v : Word) (s : State) : State :=
  if o = 0x004 then writeAudit v.toNat s else if o = 0x080 then writeQuery p v s else s

/-- CNV_CTRL (R341, R342, R561): a set is in force at once, a clear at the next step boundary. -/
def writeCnvCtrl (c w : Nat) (s : State) : State :=
  modCnv c (fun v => { v with enable := bitOf w 0, enabled := v.enabled || bitOf w 0, sketchEn := bitOf w 1
                              sketchOn := v.sketchOn || bitOf w 1 }) s

/-- WSTEP of a canvas in µs. -/
def wstepOf (v : Canvas) : Nat := if v.st = 0 then 0 else match cnvBundle v with | some b => wStep b | none => 0

/-- CNV (R561, R562). -/
def writeCnv (c o : Nat) (v : Word) (s : State) : State :=
  let w := v.toNat
  if o = 0x000 then writeCnvCtrl c w s
  else if o = 0x008 then
    let ms := fld w 0 10
    modCnv c (fun x =>
      { x with watchdog := legal (decide (1 ≤ ms) && decide (ms ≤ 1000) && decide (2 * wstepOf x ≤ 1000 * ms)) ms x.watchdog }) s
  else if o = 0x00C then
    modCnv c (fun x => { x with admWait := ranged 0 600 (fld w 0 10) x.admWait, loadDrain := ranged 0 600 (fld w 16 10) x.loadDrain }) s
  else s

/-- PORT_CTRL (R395): a port that is disabled has no link. -/
def writePortCtrl (n w : Nat) (s : State) : State :=
  let s1 := modPort n (fun p =>
    { p with enable := bitOf w 0, macsec := bitOf w 1, ipv4En := bitOf w 2, slaac := bitOf w 3, pfcEn := bitOf w 4, pfcPrio := fld w 5 3 }) s
  if bitOf w 0 then s1 else portLoss n s1

/-- A 128-bit address with one word replaced. -/
def setAddrWord (a i w : Nat) : Nat := a - fld a (32 * i) 32 * 2 ^ (32 * i) + w * 2 ^ (32 * i)

/-- PORT (R395). -/
def writePort (n o : Nat) (v : Word) (s : State) : State :=
  let w := v.toNat
  if o = 0x000 then writePortCtrl n w s
  else modPort n (fun p =>
    if o = 0x004 then { p with nbrchg := p.nbrchg && !bitOf w 2 }
    else if 0x010 ≤ o ∧ o < 0x020 then { p with ipv6 := setAddrWord p.ipv6 ((o - 0x10) / 4) w }
    else if o = 0x020 then { p with plen6 := ranged 0 128 (fld w 0 8) p.plen6 }
    else if o = 0x024 then { p with ipv4 := w }
    else if o = 0x028 then { p with plen4 := ranged 0 32 (fld w 0 6) p.plen4 }
    else if o = 0x02C then { p with udp := fld w 0 16 }
    else if o = 0x030 then { p with mgmtVid := fld w 0 12 }
    else p) s

/-! ## Partitions (R341, R386, R387, R396, R469) -/

/-- A disabled partition that holds no entry and no page: its sealed flag and its canvas can change. -/
def ptnBare (s : State) (n : Nat) : Bool :=
  let p := ptnOf s n
  !p.enabled && !p.enable && entryUsed s n == 0 && farUsed s n == 0 && !(s.kv.owner.any fun e => e.2 == n + 1)

/-- The lane shares of the other partitions bound to a canvas. -/
def shareBut (s : State) (n c : Nat) : Nat :=
  (allPtns.filter fun m => m != n && (ptnOf s m).canvas == c).foldl (fun a m => a + (ptnOf s m).share) 0

/-- The key of a partition that is enabled sealed: a new one, unless it still holds one. The state keeps a key as its number + 1. -/
def sealPtn (n : Nat) (s : State) : State :=
  if (ptnOf s n).sealed && (ptnOf s n).key == 0 then
    modPtn n (fun p => { p with key := (drawKey s).1 + 1 }) (drawKey s).2
  else s

/-- A partition is enabled; the conversations of one whose key failed its check at start are lost (R469). -/
def enablePtn (n : Nat) (s : State) : State :=
  let s1 := if (ptnOf s n).keyBad then
      modPtn n (fun p => { p with keyBad := false }) ((entriesWhere s fun e => e.ptn == n && e.st != .free && e.st != .retiring).foldl (fun t ix => expire ix t) s)
    else s
  modPtn n (fun p => { p with enabled := true }) (sealPtn n s1)

/-- A disable takes effect at the next step boundary; on a sealed partition its running requests end at once. -/
def disableNow (n : Nat) (s : State) : State :=
  if (ptnOf s n).sealed then (entriesWhere s fun e => e.ptn == n && running e).foldl (fun t ix => endRequest ix 4 t) s else s

/-- PTN_CTRL. -/
def writePtnCtrl (n w : Nat) (s : State) : State :=
  let p := ptnOf s n
  let bare := ptnBare s n
  let s1 := modPtn n (fun q => { q with
    enable := bitOf w 0, sealed := legal bare (bitOf w 1) p.sealed
    canvas := legal (bare && decide (shareBut s n (fld w 2 2) + p.share ≤ 256)) (fld w 2 2) p.canvas
    kvfmt := fld w 4 1, prioMin := fld w 5 2 }) s
  if bitOf w 0 && !p.enabled then enablePtn n s1 else if p.enable && !bitOf w 0 then disableNow n s1 else s1

/-- PTN (R396); `full` is false for a partition session, which changes COAL_US only. -/
def writePtn (n o : Nat) (full : Bool) (v : Word) (s : State) : State :=
  let w := v.toNat
  if o = 0x000 then writePtnCtrl n w s
  else modPtn n (fun p =>
    if o = 0x008 then { p with nearQ := fld w 0 21 }
    else if o = 0x00C then { p with farQ := fld w 0 22 }
    else if o = 0x018 then { p with share := legal (decide (shareBut s n p.canvas + fld w 0 9 ≤ 256)) (fld w 0 9) p.share }
    else if o = 0x01C then { p with entryMax := ranged 0 16384 (fld w 0 15) p.entryMax }
    else if o = 0x020 then { p with lease := ranged 1 60 (fld w 0 8) p.lease, grace := ranged 0 3600 (fld w 8 12) p.grace }
    else if o = 0x024 then { p with idleThr := ranged 1 86400 (fld w 0 17) p.idleThr }
    else if o = 0x028 then { p with coal := ranged 0 1000 (fld w 0 10) p.coal, evqOvf := p.evqOvf && !(full && bitOf w 16) }
    else if o = 0x02C then { p with vidA := fld w 0 12, pcpA := fld w 12 3, vidB := fld w 16 12, pcpB := fld w 28 3 }
    else p) s

/-! ## One access (R550, R553, R554) -/

/-- The effect of a write that is made. -/
def writeBlock (p : Path) (b : Block) (o : Nat) (v : Word) (s : State) : State :=
  match b with
  | .dev => writeDev o v s
  | .pwr => writePwr o v s
  | .evr => writeEvr o v s
  | .cal => writeCal o v s
  | .hlth => writeHlth p o v s
  | .cnv c => writeCnv c o v s
  | .port n => writePort n o v s
  | .sec => s
  | .ptn n => writePtn n o (match p with | .partition _ _ => false | _ => true) v s

/-- One register written: outcome, state. -/
def writeReg (p : Path) (a : Nat) (v : Word) (s : State) : Nat × State :=
  match accessOf s p true a with
  | (0, some (b, o)) => (0, writeBlock p b o v s)
  | (e, _) => (e, s)

/-- Registers read in ascending address: the values, how many were done, and the first outcome that is not done with its index. -/
def readMany (p : Path) (a : Nat) : Nat → Nat → State → List Word × Nat × Option (Nat × Nat) × State
  | _, 0, s => ([], 0, none, s)
  | ix, k + 1, s =>
    let r := readReg p (a + 4 * ix) s
    let t := readMany p a (ix + 1) k r.2.2
    (r.2.1 :: t.1, t.2.1 + b2n (r.1 == 0), if r.1 = 0 then t.2.2.1 else some (r.1, ix), t.2.2.2)

/-- Registers written in ascending address, up to the first that is not done. -/
def writeMany (p : Path) (a : Nat) : Nat → List Word → State → Nat × Option (Nat × Nat) × State
  | ix, [], s => (ix, none, s)
  | ix, v :: vs, s =>
    let r := writeReg p (a + 4 * ix) v s
    if r.1 = 0 then writeMany p a (ix + 1) vs r.2 else (ix, some (r.1, ix), s)

/-! ## REG_READ and REG_WRITE (R552) -/

/-- The REPLY body. -/
def regBody (a done : Nat) (err : Option (Nat × Nat)) (vals : List Word) : List Byte :=
  leBytes a 4 ++ leBytes done 2 ++ leBytes (match err with | some e => e.1 | none => 0) 1 ++ [(0 : Byte)]
    ++ leBytes (match err with | some e => e.2 | none => 0) 2 ++ List.replicate 6 (0 : Byte) ++ vals.flatMap fun v => leBytes v.toNat 4

/-- The path of a session's message. -/
def pathOfHdr (s : State) (h : Hdr) : Path := if roleH s h = 16 then .operator h.ses h.ptn else .partition h.ses (roleH s h)

/-- COUNT and the range are legal. -/
def rangeOk (a count : Nat) : Bool := decide (1 ≤ count) && decide (count ≤ 256) && decide (a + 4 * count ≤ 2 ^ 24)

/-- REG_READ. -/
def regReadOp (h : Hdr) (a count : Nat) (s : State) : State :=
  if roleH s h = 17 then reply h 8 s
  else if !rangeOk a count then replyFull h 8 0 h.handle (regBody a 0 none []) s
  else
    let r := readMany (pathOfHdr s h) a 0 count s
    replyFull h (if r.2.2.1.isNone then 0 else 8) 0 h.handle (regBody a r.2.1 r.2.2.1 r.1) r.2.2.2

def execRegRead (h : Hdr) (addr count : Nat) (s : State) : Out :=
  okIf (hdrOk h && decide (addr < 2 ^ 32) && decide (count < 2 ^ 16)) (hostBody .any h none false (roleH s h == 16) (regReadOp h addr count) s)

/-- REG_WRITE; in safe state it is answered BAD_REQUEST before any access (R451, R558). -/
def regWriteOp (h : Hdr) (a count : Nat) (vs : List Word) (s : State) : State :=
  if roleH s h = 17 then reply h 8 s
  else if !rangeOk a count || vs.length != count then replyFull h 8 0 h.handle (regBody a 0 none []) s
  else
    let r := writeMany (pathOfHdr s h) a 0 vs s
    replyFull h (if r.2.1.isNone then 0 else 8) 0 h.handle (regBody a r.1 r.2.1 []) r.2.2

def execRegWrite (h : Hdr) (addr count : Nat) (values : List Word) (s : State) : Out :=
  okIf (hdrOk h && decide (addr < 2 ^ 32) && decide (count < 2 ^ 16)) (hostBody .any h none false false (regWriteOp h addr count values) s)

/-! ## Writes with a row of their own -/

/-- A write of one register on a path: a session's does not reach its register in safe state (R451). -/
def rowWrite (p : Path) (a : Nat) (v : Word) (s : State) : State :=
  if !pathLive s p || (s.sec.safe && p != .sideband) then s else (writeReg p a v s).2

/-- CAL_CMD_ALL: CAL_CMD. -/
def execCalCmdAll (path : Path) (v : Word) (s : State) : Out := .next (rowWrite path 0x30004 v s)

/-- CLEAR: EVR_CTRL. -/
def execClear (path : Path) (v : Word) (s : State) : Out := .next (rowWrite path 0x20000 v s)

/-- SWTRIG: EVR_CTRL. -/
def execSwtrig (path : Path) (v : Word) (s : State) : Out := .next (rowWrite path 0x20000 v s)

/-- HOLD_REQ: PWR_CTRL. -/
def execHoldReq (path : Path) (v : Word) (s : State) : Out := .next (rowWrite path 0x10000 v s)

/-- PLIM: PWR_CTRL. -/
def execPlim (path : Path) (v : Word) (s : State) : Out := .next (rowWrite path 0x10000 v s)

/-- PTN_ENABLE: PTN_CTRL of a partition; a number past the last block names an unmapped register, and nothing is written (R546, R550). -/
def execPtnEnable (path : Path) (n : Nat) (v : Word) (s : State) : Out := .next (if n < 12 then rowWrite path (0x100000 + n * 0x10000) v s else s)

/-- CNV_ENABLE: CNV_CTRL of a canvas; a number past CV3 names no register. -/
def execCnvEnable (path : Path) (c : Nat) (v : Word) (s : State) : Out := .next (if c < 4 then rowWrite path (0x50000 + c * 0x1000) v s else s)

/-- SKETCH_EN: CNV_CTRL of a canvas; a number past CV3 names no register. -/
def execSketchEn (path : Path) (c : Nat) (v : Word) (s : State) : Out := .next (if c < 4 then rowWrite path (0x50000 + c * 0x1000) v s else s)

/-- AUDIT_EN: AUDIT. -/
def execAuditEn (path : Path) (v : Word) (s : State) : Out := .next (rowWrite path 0x40004 v s)

/-- QUERY. -/
def execQuery (path : Path) (v : Word) (s : State) : Out := .next (rowWrite path 0x40080 v s)

/-- REGISTER_WRITE: any register; an address without one is unmapped, and nothing is written (R550). -/
def execRegisterWrite (path : Path) (addr : Nat) (v : Word) (s : State) : Out := .next (rowWrite path addr v s)

end Sys2Proof.Machine
end

