-- ==== Sys2Proof/Machine/Sideband.lean ====
section
/-! DEFINITION. The management interface and boundary scan (R525 to R529, R452). -/

namespace Sys2Proof.Machine

/-! ## Transfers (R526, R527) -/

/-- The interface answers: the module is present, powered and not in reset (R519). -/
def sbAlive (s : State) : Bool := driven s

/-- The answer of a transfer: acknowledged with the bytes or words it returns, and what STATUS reads. -/
def sbAnswer (st : Nat) (out : List Word) (s : State) : State :=
  { s with brd := { s.brd with sbLast := st, sbOut := out, sbNack := false } }

/-- NACK; STATUS keeps what it reads. -/
def sbRefuse (s : State) : State := { s with brd := { s.brd with sbOut := [], sbNack := true } }

/-- A transfer: one whose PEC fails is answered NACK on its last byte and has no effect. -/
def sbDo (pecOk : Bool) (act : State → State) (s : State) : State :=
  if !sbAlive s then s
  else if !pecOk then { s with brd := { s.brd with sbLast := 4, sbOut := [], sbNack := true } }
  else act s

/-- A register command: in ROM recovery it reports busy. -/
def sbReg (pecOk : Bool) (act : State → State) (s : State) : State :=
  sbDo pecOk (fun t => if t.sec.romRec then sbAnswer 3 [] t else act t) s

/-- A command of the recovery window, which exists in ROM recovery only. -/
def sbRcv (pecOk : Bool) (act : State → State) (s : State) : State :=
  sbDo pecOk (fun t => if t.sec.romRec then act t else sbRefuse t) s

/-- The pointer moves on by `n` registers. -/
def stepPtr (n : Nat) (s : State) : State := { s with brd := { s.brd with ptr := (s.brd.ptr + 4 * n) % 2 ^ 32 } }

/-- The code that STATUS reads after the accesses of a transfer. -/
def errCode (e : Option (Nat × Nat)) : Nat := match e with | some x => x.1 | none => 0

/-- ADDR. -/
def execAddr (pecOk : Bool) (a : Word) (s : State) : Out :=
  .next (sbReg pecOk (fun t => sbAnswer 0 [] { t with brd := { t.brd with ptr := a.toNat } }) s)

/-- READ: `n` registers from the pointer. -/
def sbRead (n : Nat) (s : State) : State :=
  if n < 1 ∨ 8 < n then sbRefuse s
  else
    let r := readMany .sideband s.brd.ptr 0 n s
    stepPtr n (sbAnswer (errCode r.2.2.1) r.1 r.2.2.2)

def execRead (pecOk : Bool) (n : Nat) (s : State) : Out := okIf (decide (n < 256)) (sbReg pecOk (sbRead n) s)

/-- WRITE: registers from the pointer, up to the first that is not done. -/
def sbWrite (vs : List Word) (s : State) : State :=
  if vs.length < 1 ∨ 8 < vs.length then sbRefuse s
  else
    let r := writeMany .sideband s.brd.ptr 0 vs s
    stepPtr r.1 (sbAnswer (errCode r.2.1) [] r.2.2)

def execWrite (pecOk : Bool) (vs : List Word) (s : State) : Out := .next (sbReg pecOk (sbWrite vs) s)

/-- STATUS: what the last transfer left. -/
def execStatus (pecOk : Bool) (s : State) : Out :=
  .next (sbReg pecOk (fun t => sbAnswer t.brd.sbLast [BitVec.ofNat 32 t.brd.sbLast] t) s)

/-! ## ROM recovery (R452) -/

/-- RCV_STATUS: 0 waiting, 1 receiving, 2 verifying, 3 failed, 4 written. -/
def execRcvStatus (pecOk : Bool) (s : State) : Out :=
  .next (sbRcv pecOk (fun t => sbAnswer 0 [BitVec.ofNat 32 t.sec.rcv] t) s)

/-- RCV_DATA: the next bytes of the image; after a failure they begin a new one. -/
def rcvTake (bytes : List Byte) (s : State) : State :=
  if bytes.length < 1 ∨ 32 < bytes.length then sbRefuse s
  else sbAnswer 0 [] { s with sec := { s.sec with
    rcvBytes := if s.sec.rcv = 1 then s.sec.rcvBytes ++ bytes else bytes, rcv := 1 } }

def execRcvData (pecOk : Bool) (bytes : List Byte) (s : State) : Out := .next (sbRcv pecOk (rcvTake bytes) s)

/-- The image of the received bytes: its measurement is theirs; its version, which is at least the floor, and its schemas stand in a header that
the manual does not lay out (log entry 1). -/
def rcvImage (s : State) : Img × State :=
  let d := draw s
  let w := d.1.toNat
  let f := (fwOf s 1).floor
  ({ valid := true, svn := f + fld w 0 16 % (65536 - f), raise_ := bitOf w 16, rlo := fld w 17 15, rhi := fld w 32 16, wr := fld w 48 16
     meas := leNat (Config.sha512 s.sec.rcvBytes) }, d.2)

/-- RCV_DONE: a good image is written to slot A, and M0 is reset: the boot runs again. -/
def rcvFinish (byte : Byte) (imageOk : Bool) (s : State) : State :=
  if byte ≠ 0xA5 ∨ s.sec.rcv ≠ 1 then sbRefuse s
  else if !imageOk then sbAnswer 0 [] { s with sec := { s.sec with rcv := 3, rcvBytes := [] } }
  else
    let i := rcvImage s
    let s1 := modFw 1 (fun c => { c with a := i.1, actB := false, staged := false }) i.2
    sbAnswer 0 [] { s1 with sec := { s1.sec with rcv := 4, rcvBytes := [] }, dev := { s1.dev with row := 2 } }

def execRcvDone (pecOk : Bool) (byte : Byte) (imageOk : Bool) (s : State) : Out := .next (sbRcv pecOk (rcvFinish byte imageOk) s)

/-! ## I3C addresses and interrupts (R525) -/

/-- The static address: 0x50 + STRAP_ADDR. -/
def staticAddr (s : State) : Nat := 0x50 + s.brd.straps % 4

/-- A dynamic address for a target that has none. -/
def giveAddr (a : Nat) (s : State) : State :=
  if sbAlive s && s.brd.dynAddr.isNone then { s with brd := { s.brd with dynAddr := some a } } else s

/-- ENTDAA. -/
def execEntdaa (a : Nat) (s : State) : Out := okIf (decide (a < 128)) (giveAddr a s)

/-- SETDASA, which names the static address. -/
def execSetdasa (static_ dyn : Nat) (s : State) : Out :=
  okIf (decide (static_ < 128) && decide (dyn < 128)) (if static_ = staticAddr s then giveAddr dyn s else s)

/-- ENEC: bit 0 enables in-band interrupts. -/
def execEnec (bits : Nat) (s : State) : Out :=
  okIf (decide (bits < 256)) (if sbAlive s then { s with brd := { s.brd with enec := s.brd.enec ||| bits } } else s)

/-- SMBUS_CLOCK_LOW_TIMEOUT: between 25 and 35 ms the transfer under way is dropped; which of the two it takes is open (log entry 1). -/
def clockLow (ms : Nat) (s : State) : State :=
  if ms < 25 then s
  else
    let d := draw s
    if ms < 35 ∧ d.1.toNat % 2 = 0 then d.2 else { d.2 with brd := { d.2.brd with sbOut := [] } }

def execSmbusClockLowTimeout (ms : Nat) (s : State) : Out := .next (clockLow ms s)

/-! ## Boundary scan (R446, R528, R529). Instructions: 0 BYPASS, 1 IDCODE, 2 SAMPLE/PRELOAD, 3 EXTEST, 4 EXTEST_PULSE, 5 EXTEST_TRAIN,
6 CLAMP, 7 HIGHZ. -/

/-- The instructions other than BYPASS and IDCODE are available: RESET_N is asserted and PWR_EN has been asserted for 200 ms. -/
def tapOpen (s : State) : Bool := !s.brd.resetN && s.brd.pwrEn && decide (s.brd.pwrEnUs + 200000 ≤ s.clk.us)

/-- TAP_INSTRUCTION_LOAD, with TRST_N driven high: one outside its condition acts as BYPASS. The TAPs are those of M1 and E0 to E3. -/
def tapLoad (tap op : Nat) (s : State) : State :=
  if s.pwr.off || !s.brd.prsnt then s
  else
    let eff := if op = 1 then 1 else if op < 8 ∧ tapOpen s then op else 0
    { s with brd := { s.brd with trst := false, taps := tput 1 s.brd.taps tap eff } }

def execTapInstructionLoad (tap : Nat) (op : Nat) (s : State) : Out := okIf (decide (tap < 5)) (tapLoad tap op s)

/-- TRST_N_ASSERT: every TAP is held in reset, with IDCODE. -/
def execTrstNAssert (s : State) : Out := .next { s with brd := { s.brd with trst := true, taps := [] } }

/-- What a TAP's data register shows under IDCODE: M1, then the port dies (R528). -/
def tapIdcode (tap : Nat) : Word := if tap = 0 then 0x19402C5B else 0x19403C5B

end Sys2Proof.Machine
end

