-- ==== Sys2Proof/Machine/Start.lean ====
section
/-! DEFINITION. Start-up, reset and shutdown (R533 to R545), with the boot of R449, the copies of R423 and R466, the retention check of R106 to
R109, and the end of a calibration gap, after which canvases begin to serve. -/

namespace Sys2Proof.Machine

/-! ## Power-up (R500, R522, R533) -/

/-- A start begins: the power-cycle count rises, and PWR_STATUS shows STARTING. -/
def beginStart (s : State) : State :=
  { s with
    clk := { s.clk with cycles := satAdd 32 s.clk.cycles 1 }
    pwr := { s.pwr with state := 1 }
    dev := { s.dev with row := 0, railsOk := false } }

/-- PWR_EN_ASSERT, after its deglitch: from STANDBY and, once PWR_EN has been deasserted, from SHUTDOWN (R488); during a shutdown it starts the
module when STANDBY is reached (R545). -/
def pwrEnOn (s : State) : State :=
  if s.brd.pwrEn then s
  else
    let s1 := { s with brd := { s.brd with pwrEn := true, pwrEnUs := s.clk.us } }
    if !s.pwr.off && (s.pwr.state == 0 || s.pwr.state == 5) && !s.pwr.needEdge then beginStart s1 else s1

def execPwrEnAssert (s : State) : Out := .next (pwrEnOn s)

/-- POWER_GOOD: every rail is good; or, by 60 ms, some rail is not, and the module returns to STANDBY with INPUT_UV set. -/
def execPowerGood (ok : Bool) (s : State) : Out :=
  .next (if s.pwr.state != 1 || s.dev.row != 0 || s.pwr.off then s
    else if ok then { s with dev := { s.dev with row := 1, railsOk := true } }
    else setEvents 256 { s with pwr := { s.pwr with state := 0 } })

/-- The start goes on: no power warning stops it, it has not stopped in safe state or REPLACE, and no shutdown waits for its row to end. -/
def advances (s : State) : Bool :=
  running_ s && !warned s && !s.sec.safe && !s.sec.romRec && !s.hist.inRepl && !s.dev.shutting

def toRow (n : Nat) (s : State) : State := { s with dev := { s.dev with row := n } }

/-! ## RESET_N (R523, R542) -/

/-- The module is reset: what R538 keeps of it, and the row that waits for the release of internal reset. A tier that this start has not brought
into service keeps what it had, or nothing. -/
def resetModule (s : State) : State :=
  let s1 := survive (decide (4 ≤ s.dev.row) || s.kv.nearKept) (farHolds s) s
  { s1 with
    pwr := { s1.pwr with state := 1 }
    dev := { s1.dev with row := if s.dev.railsOk then 1 else 0, railsOk := s.dev.railsOk, shutting := s.dev.shutting } }

/-- RESET_N_ASSERT: for 10 µs or more; a shorter pulse may or may not reset the module (log entry 1). -/
def resetOn (long : Bool) (s : State) : State :=
  let d := draw s
  let s0 := if long then s else d.2
  if !long && d.1.toNat % 2 == 0 then s0
  else
    let s1 := { s0 with brd := { s0.brd with resetN := false } }
    if running_ s1 then resetModule s1 else s1

def execResetNAssert (long : Bool) (s : State) : Out := .next (resetOn long s)

/-- RESET_N_RELEASE, and the release of internal reset that ends the power-up: the straps are latched (R468, R524). -/
def execResetNRelease (straps : Nat) (s : State) : Out :=
  okIf (decide (straps < 8))
    (let s1 := { s with brd := { s.brd with resetN := true, straps := straps } }
     if s1.pwr.state = 1 ∧ s1.dev.row = 1 ∧ !s1.pwr.off ∧ !warned s1 then toRow 2 s1 else s1)

/-- CFG_RESOLVE_RESET: 100 ms after the reply the module resets, and the boot runs again (R467). -/
def execCfgResolveReset (s : State) : Out :=
  .next (match s.sec.resolve with
    | some t => if t + 100000 ≤ s.clk.us then toRow 2 (resetModule s) else s
    | none => s)

/-! ## The boot of the security core (R423, R449, R466, R506) -/

/-- Safe state with a cause (R451): the start stops here, and the sideband serves. -/
def enterSafe (cause : Nat) (s : State) : State := settleMstate (toRow 3 { s with sec := { s.sec with safe := true, cause := cause } })

/-- The slot of a class that boots: the active one when it passes, otherwise the other, which becomes active; none when both fail. -/
def bootSlot (cls : Nat) (okA okB : Bool) (s : State) : Option State :=
  let c := fwOf s cls
  let good (b : Bool) : Bool :=
    let m := if b then c.b else c.a
    (if b then okB else okA) && m.valid && decide (c.floor ≤ m.svn)
  if good c.actB then some s
  else if good (!c.actB) then some (fire 24 0 0 8 cls (modFw cls (fun x => { x with actB := !x.actB, staged := false }) s))
  else none

/-- A configuration copy won; a copy that differs from it is rewritten (R466). -/
def cfgWins (a : Bool) (seq : Nat) (rewrite : Bool) (s : State) : State :=
  let c : CfgCopy := { ok := true, seq := seq, own := if a then s.sec.cfgA.own else s.sec.cfgB.own }
  let s1 := { s with sec := { s.sec with cfgA := c, cfgB := c } }
  if rewrite then fire 27 0 0 1 (b2n a) s1 else s1

/-- The configuration copies: a safe state's cause, or the module with the record in force. -/
def bootCfg (f : BootFind) (s : State) : Nat × State :=
  if !f.cfgSig || (!f.cfgA && !f.cfgB) then (3, s)
  else if f.cfgA && f.cfgB then
    if f.cfgSeqA = f.cfgSeqB then
      (if f.cfgSame then (0, cfgWins true f.cfgSeqA false s)
       else (4, fire 25 0 0 7 (s.sec.ownerGen % 65536) { s with sec := { s.sec with cfgConf := true } }))
    else (0, cfgWins (decide (f.cfgSeqB < f.cfgSeqA)) (max f.cfgSeqA f.cfgSeqB) true s)
  else (0, cfgWins f.cfgA (if f.cfgA then f.cfgSeqA else f.cfgSeqB) true s)

/-- SCH, PMC and CCC. -/
def bootOthers (f : BootFind) (s : State) : Option State :=
  [2, 3, 4].foldl (fun o cls => o.bind fun t => bootSlot cls (nth false f.otherA (cls - 2)) (nth false f.otherB (cls - 2)) t) (some s)

/-- The operator's defaults of the configuration record: port enables, lease and grace of operator sessions, drain budget, watchdog, admission
wait (R465, R560, R561). -/
def cfgDefaults (s : State) : State :=
  let own := s.sec.cfgA.own
  let pick (i lo hi d : Nat) : Nat := match own[i]? with | some v => ranged lo hi v d | none => d
  let s1 := { s with dev := { s.dev with opLease := pick 1 1 60 10, opGrace := pick 2 0 3600 120, budget := pick 3 0 600 10 } }
  let s2 := (List.range 4).foldl (fun t c => modCnv c (fun v => { v with watchdog := pick 4 1 1000 50, admWait := pick 5 0 600 20 }) t) s1
  (List.range 8).foldl (fun t n => modPort n (fun p => { p with enable := bitOf (own.headD 255) n }) t) s2

/-- The copy of unit history that wins, when one is intact, and whether the other is rewritten. -/
def histWinner (f : BootFind) : Option (Bool × Bool) :=
  match f.histA, f.histB with
  | true, true =>
    if f.histSeqA ≠ f.histSeqB then some (decide (f.histSeqB < f.histSeqA), true)
    else if f.histSame then some (true, false)
    else if f.histRecA ≠ f.histRecB then some (decide (f.histRecB < f.histRecA), true)
    else some (decide (f.histPermB ≤ f.histPermA), true)
  | true, false => some (true, true)
  | false, true => some (false, true)
  | false, false => none

/-- A fence that was in progress when power was lost: its spare is written again from its first plane (R423). -/
def resumeFences (s : State) : State :=
  let spares := (s.hist.remap.filter fun e => e.2.2 == 4).map (·.1)
  spares.foldl (fun t sp =>
    match (coresIn t (clusterOf sp) 3).find? fun c => (roleOf t c).1 != 31 && (corePos t (clusterOf sp) (roleOf t c).1).isNone
        && !t.hist.fences.any (·.core == c) with
    | some c =>
      let t1 := { t with hist := { t.hist with fences := t.hist.fences ++ [{ core := c, spare := sp, ph := 1, us := t.clk.us }] } }
      (canvasesOn t1 (clusterOf sp)).foldl (fun u d => modCnv d (fun v => { v with fence := true }) u) (unwrite sp t1)
    | none => t) s

/-- Cores with a permanent fault in unit history that are not fenced yet are due (R413, R414). -/
def dueFences (s : State) : State :=
  (((s.hist.records.filter fun r => r.perm && decide (2 ≤ r.level)).map fun r => coreOf r.unit).dedup).foldl (fun t c => fenceDue c t) s

/-- Unit history, or the drain for its loss. -/
def bootHistory (f : BootFind) (s : State) : State :=
  match histWinner f with
  | none => drainDecision 9 0 0 { s with hist := { histFrom UhCopy.init s.hist with copyA := UhCopy.init, copyB := UhCopy.init } }
  | some (a, rewrite) =>
    let c := if a then s.hist.copyA else s.hist.copyB
    let n := if a then f.histSeqA else f.histSeqB
    let s1 := { s with hist := { histFrom c s.hist with copyA := c, copyB := c, seqA := n, seqB := n } }
    let s2 := if rewrite then fire 27 0 0 0 (b2n a) s1 else s1
    if c.repl then settleMstate s2 else dueFences (resumeFences s2)

/-- The recorder's slots up to the first that fails, or COUNT (R506); TSHUT of the always-on domain makes its record after that. -/
def bootRecorder (f : BootFind) (s : State) : State :=
  let n := min s.evr.fCount f.evrGood
  let s1 := { s with evr := { s.evr with count := n, full := decide (n = 16384) } }
  if s.pwr.tshutAo then fire 19 0 0 3 0 (setEvents 8 s1) else s1

/-- Sealed keys that fail their check are lost, and their partitions stay disabled (R469). -/
def dropKey (s : State) (n : Nat) : State :=
  if (ptnOf s n).key = 0 then s else modPtn n (fun p => { p with key := 0, keyBad := true }) s

/-- The security core writes the routing controls of the scramble in force into every engine's store (R73). -/
def writeRouting (s : State) : State := { s with arr := { s.arr with scrGen := s.sec.scrUse } }

/-- The steps of R449 in order. -/
def boot (f : BootFind) (s : State) : State :=
  let s0 := bootRecorder f { s with sec := { s.sec with boots := satAdd 32 s.sec.boots 1, romRec := false, rcv := 0, rcvBytes := [] } }
  if !f.puf then enterSafe 1 s0
  else match bootSlot 1 f.secA f.secB s0 with
    | none => { s0 with sec := { s0.sec with romRec := true } }
    | some s1 =>
      if bitOf s1.brd.straps 2 then enterSafe 5 { s1 with sec := { s1.sec with recovery := true } }
      else
        let c := bootCfg f s1
        if c.1 ≠ 0 then enterSafe c.1 c.2
        else match bootOthers f (cfgDefaults c.2) with
          | none => enterSafe 2 (cfgDefaults c.2)
          | some s2 =>
            if !f.keysOk then enterSafe 1 s2
            else toRow 3 (bootHistory f (f.badKeys.foldl dropKey (writeRouting s2)))

/-- SECURITY_BOOT. -/
def execSecurityBoot (f : BootFind) (s : State) : Out :=
  okIf (f.badKeys.all fun n => decide (n < 12))
    (if s.dev.row = 2 ∧ running_ s ∧ !warned s then boot f s else s)

/-! ## Self-test and restoring the requests (R535 to R540) -/

/-- One failed unit (R537); for a token-network hop `unit` is the hop and `level` the plane, for a link of the data fabric `unit` is the die whose
link failed. -/
def testFail (s : State) (t : TestFail) : State :=
  if t.kind = 0 then recordFault (coreOf t.unit) 2 7 0x40 true s
  else if t.kind = 2 then planeFailure (t.level % 2) t.unit s
  else if t.kind = 3 then planeFailure 1 t.unit (planeFailure 0 t.unit s)
  else unitFailure t.unit t.level (drainCauseOf t.unit t.level) s

/-- A failed unit that the module has. -/
def testFailOk (t : TestFail) : Bool :=
  if t.kind = 0 then isCore t.unit
  else if t.kind = 2 then isHop t.unit && decide (t.level < 2)
  else if t.kind = 3 then isHop t.unit
  else if t.kind = 4 then unitOk t.unit 0 && t.level == 0
  else decide (t.kind < 7) && drainsOn t.unit t.level (drainCauseOf t.unit t.level)

/-- The far tier was not kept: its regions are empty (R536). -/
def loseFar (s : State) : State :=
  { s with
    kv := { s.kv with master := [], lostImg := [], farKept := false }
    glz := { s.glz with resid := [], residLost := s.arr.written.map (·.1) }
    req := { s.req with region := none }
    cnv := tmapv Canvas.init (fun v => { v with staged := none }) s.cnv }

/-- Nothing of the near tier is held. -/
def emptyNear (s : State) : State := { s with kv := { s.kv with near := [], window := [], owner := [], scrub := [] } }

/-- A session of the request region: its attach token names it until grace, which runs from READY, is over. -/
def ghostSes (sid role token : Nat) : Ses :=
  { Ses.init with sid := sid, role := role, live := true, lapsed := true, ended := true, attach := token, attachOk := true, graceEnd := 2 ^ 32 }

/-- One entry of the request region (R540). An entry that was resuming still has its pages in the far tier. -/
def restoreEntry (near : Bool) (s : State) (ix : Nat) : State :=
  let e := entryOf s ix
  let e0 : Entry := { e with waitHdr := none, saved := none, exWait := [], exporting := false, pendPause := false, drainPause := false }
  match e.st with
  | .free => s
  | .retiring => freeEntry ix (modEntry ix (fun _ => { e0 with pages := [] }) s)
  | .paused => modEntry ix (fun _ => e0) s
  | .resuming => modEntry ix (fun _ => { e0 with st := .paused, pages := [], resv := 0, pendResume := false }) s
  | _ =>
    if !near then retireWith ix 13 (modEntry ix (fun _ => { e0 with pages := [], tpages := [], mpages := [] }) s)
    else if e.deadline ≠ 0 ∧ e.fin.isNone then retireWith ix 3 (modEntry ix (fun _ => e0) s)
    else setPresence ix (modEntry ix (fun _ => { e0 with st := .suspended, ret := if e.st = .pausing then e.ret else baseState e }) s)

/-- The pages of a partition whose key is lost are scrubbed (R469). -/
def scrubLost (s : State) (n : Nat) : State :=
  if (ptnOf s n).keyBad then
    (entriesWhere s fun e => e.ptn == n && e.st != .free).foldl (fun t ix => freePages ix 0 (freeFar ix 0 t)) s
  else s

/-- The request table, completion queues, attach tokens and tint versions come back from the region. -/
def restoreRegion (near : Bool) (r : Region) (s : State) : State :=
  let s1 := { s with
    req := { s.req with entries := r.entries, retired := r.retired, fresh := r.fresh }
    net := { s.net with sess := r.sess.foldl (fun t e => tput Ses.init t e.1 (ghostSes e.1 e.2.1 e.2.2)) s.net.sess } }
  let s2 := allPtns.foldl (fun t n => modPtn n (fun p => { p with
    cqs := (List.range 4).foldl (fun q k => tput [] q k (tget [] r.cqs (n * 4 + k))) p.cqs
    tints := if near then (List.range 16).foldl (fun q k => tput TintSlot.init q k (tget TintSlot.init r.tints (n * 16 + k))) p.tints
             else p.tints }) t) s1
  allPtns.foldl scrubLost ((r.entries.map (·.1)).foldl (restoreEntry near) s2)

/-- Whether the far tier kept its content through the supply loss (R536). -/
def keepFar (kept : Bool) (s : State) : State :=
  let s1 := { s with kv := { s.kv with keptMark := false, selfRef := false } }
  if kept && s.kv.farKept then s1 else loseFar s1

/-- The region written at shutdown is taken back, or what the near tier held is gone (R538, R540). -/
def takeRegion (regionOk : Bool) (s : State) : State :=
  match s.req.region with
  | some r => if regionOk then restoreRegion s.kv.nearKept r (if s.kv.nearKept then s else emptyNear s) else emptyNear s
  | none => emptyNear s

/-- A thermal shutdown has been waited out. -/
def endTshut (s : State) : State := { s with pwr := { s.pwr with tshutAo := false } }

/-- Self-test has decided: the tiers, the fences, the requests. -/
def testEnd (fails : List TestFail) (kept regionOk : Bool) (s : State) : State :=
  settleMstate (endTshut (takeRegion regionOk (keepFar kept (fails.foldl testFail s))))

/-- Canvases with a record that the retention check has not decided. -/
def unchecked (s : State) : List Nat := (List.range 4).filter fun c => (cnvOf s c).recSt != 0 && (cnvOf s c).st == 0

/-- Every canvas is checked: every cluster is due for START (R424). -/
def checksDone (s : State) : State := if (unchecked s).isEmpty then toRow 5 (allClusters.foldl (fun t cl => calDue 1 cl t) s) else s

/-- SELF_TEST; after a thermal shutdown it waits until every die diode reads below 95 °C (R535). -/
def execSelfTest (fails : List TestFail) (kept regionOk : Bool) (s : State) : Out :=
  okIf (fails.all testFailOk)
    (if s.dev.row = 3 && advances s && (!s.pwr.tshutAo || match hottest s with | some h => decide (h.2 < 380) | none => false) then
      checksDone (toRow 4 (testEnd fails kept regionOk s))
    else s)

/-! ## The retention check (R106 to R109, R437) -/

/-- The master copy rebuilt by readback (R107). -/
def rebuildMaster (b : Bundle) (s : State) : State :=
  b.images.foldl (fun t m => match homePlane t m with
    | some pk => { t with kv := { t.kv with master := tput none t.kv.master pk (some (readImage s pk m)) } }
    | none => t) s

/-- Every image that the cells hold has the CRC-32C of the canvas record. -/
def cellsMatch (s : State) (b : Bundle) : Bool :=
  b.images.all fun m => match homePlane s m with | some pk => imageMatches s pk m | none => false

/-- The gain measured on one column (key; gain; drift per input unit) lies outside ±5 % (R108). -/
def gainOut (x : Nat × Word × Word) : Bool :=
  dyLt ⟨1, 0⟩ (dyMul (dyOfInt 20) (dyAbs (dySub (f32Dy x.2.1) (dyOfInt 1)))) || !fin32 x.2.1

/-- Cores on which the check found a column outside ±5 % of gain, or ±6 LSB of offset, which comes in 1/16 LSB (R108). -/
def coresOut (gains : List (Nat × Word × Word)) (offsets : List (Nat × Int)) : List Nat :=
  (((gains.filter gainOut).map (·.1) ++ (offsets.filter fun x => decide (96 < x.2.natAbs)).map (·.1)).map fun k => coreOf (k / 64)).dedup

/-- The change of a saved drift entry by the sum of `n` measured gains and drifts (R434, R437). -/
def combineDrift (old : Int × Int) (a b : Dy) (n : Nat) : Int × Int :=
  (dyDivAway (dyOfInt ((n : Int) * (65536 + old.1))) a - 65536, dyDivAway (dyAdd (dyOfInt ((n : Int) * old.2)) (dyScale b 14)) a)

/-- The changes that a column of a tile takes: its own; else those of the tiles sampled on its engine and plane; else those on its engine. -/
def changesFor (ch : List (Nat × Word × Word)) (key : Nat) : List (Nat × Word × Word) :=
  let tile := key / 64
  let col (x : Nat × Word × Word) : Bool := x.1 % 64 == key % 64
  let own := ch.filter fun x => x.1 == key
  let plane := ch.filter fun x => col x && engineOf (x.1 / 64) == engineOf tile && planeNo (x.1 / 64) == planeNo tile
  let eng := ch.filter fun x => col x && engineOf (x.1 / 64) == engineOf tile
  if !own.isEmpty then own else if !plane.isEmpty then plane else eng

/-- One drift entry at start. -/
def startDrift (ch : List (Nat × Word × Word)) (s : State) (key : Nat) : State :=
  let l := changesFor ch key
  let old := tget (0, 0) s.glz.saved key
  let v := if l.isEmpty then old
    else combineDrift old (l.foldl (fun a x => dyAdd a (f32Dy x.2.1)) (dyOfInt 0)) (l.foldl (fun a x => dyAdd a (f32Dy x.2.2)) (dyOfInt 0)) l.length
  { s with arr := { s.arr with drift := tput (0, 0) s.arr.drift key v } }

/-- The drift entries of a canvas's saved tiles; the others start at 0. -/
def startDrifts (b : Bundle) (ch : List (Nat × Word × Word)) (s : State) : State :=
  let mine := ((clustersWith b).flatMap (bundleTiles s b)).filter fun k => s.glz.savedT.contains k
  (mine.flatMap fun k => (List.range 64).map fun j => k * 64 + j).foldl (startDrift ch) s

/-- A canvas that waits for its bundle from the operator (R108, R539). -/
def awaitBundle (c : Nat) (s : State) : State := canvasEvent c 3 (modCnv c (fun v => { v with st := 3, await := true }) s)

/-- Cores of a canvas are written again from the master copy, with the remaps that their engines wait for. -/
def rewriteCores (cores : List Nat) (s : State) : State := cores.foldl (fun t k => wearCore (programCore k (unwrite k t)) k) s

/-- The decision of R108 for one canvas. -/
def retain (c : Nat) (b : Bundle) (recOk crcOk : Bool) (ch : List (Nat × Word × Word)) (offs : List (Nat × Int)) (s : State) : State :=
  let v := cnvOf s c
  let far := s.kv.farKept
  let broken := v.recSt == 1 || !recOk
  let s0 := if v.recSt = 1 then fire 28 0 0 3 c s else s
  if broken then
    (if far then
      let cores := bundleCores s0 b
      rewriteCores cores (modCnv c (fun x => { x with st := 3, warm := true, recSt := 1, reprog := cores }) s0)
     else awaitBundle c s0)
  else if !far && !(crcOk && cellsMatch s b) then awaitBundle c s0
  else
    let out := (coresOut ch offs).filter fun k => (bundleCores s b).contains k
    let s1 := if far then s0 else rebuildMaster b s0
    rewriteCores out (startDrifts b ch (modCnv c (fun x => { x with st := 3, warm := true, reprog := out }) s1))

/-- RETENTION_CHECK of a canvas with a record: `gains` and `offsets` are the changes of gain, drift and offset measured (R106). -/
def retention (c : Nat) (recOk crcOk : Bool) (ch : List (Nat × Word × Word)) (offs : List (Nat × Int)) (s : State) : State :=
  if s.dev.row != 4 || !advances s || !(unchecked s).contains c then s
  else checksDone (match (cnvOf s c).bundle with
    | some b => retain c b recOk crcOk ch offs s
    | none => awaitBundle c s)

def execRetentionCheck (canvas : Nat) (recOk crcOk : Bool) (gains : List (Nat × Word × Word)) (offsets : List (Nat × Int)) (s : State) : Out :=
  okIf (decide (canvas < 4)) (retention canvas recOk crcOk gains offsets s)

/-! ## Calibration, and the canvases that begin to serve (R424, R539) -/

/-- A checked canvas can serve: its cores stand written, and its clusters are calibrated. -/
def canServe (s : State) (c : Nat) (b : Bundle) : Bool :=
  (cnvOf s c).warm && (bundleCores s b).all (coreDone s) && (clustersWith b).all fun cl => !gapAtOnce (calOf s cl).due

/-- A canvas begins to serve after a start, unless a fence holds it. -/
def serveWarm (s : State) (c : Nat) : State :=
  match (cnvOf s c).bundle with
  | some b => if canServe s c b then unhold c (modCnv c (fun v => { v with warm := false, reprog := [], recPend := v.recSt == 1 }) (installTables c b s)) else s
  | none => s

/-- After a gap: canvases serve, and the start passes its calibration row once no cluster is due for START. -/
def afterGap (s : State) : State :=
  let s1 := (List.range 4).foldl serveWarm s
  if s1.dev.row = 5 ∧ !(s1.cal.cls.any fun e => bitOf e.2.due 1) then toRow 6 s1 else s1

/-- CALIBRATION_GAP_CLOSE. -/
def execCalibrationGapClose (s : State) : Out := .next (if s.cal.gap && !(gapClose s).cal.gap then afterGap (gapClose s) else gapClose s)

/-- Every canvas with a complete record serves, is being reprogrammed, or waits for its bundle (R539). -/
def settled (s : State) : Bool :=
  (List.range 4).all fun c =>
    let v := cnvOf s c
    v.recSt != 2 || v.st == 2 || !v.reprog.isEmpty || v.await

/-- READY_ENTRY: ACTIVE, and grace begins to run for the sessions of the request region (R539, R540). -/
def readyEntry (s : State) : State :=
  if s.dev.row != 6 || !advances s || !settled s then s
  else
    let s1 := { s with net := { s.net with sess := tmapv Ses.init (fun e =>
      if e.live && e.lapsed && e.ended then { e with graceEnd := afterSec s (graceOf s e.role) } else e) s.net.sess } }
    settlePower (toRow 7 s1)

def execReadyEntry (s : State) : Out := .next (readyEntry s)

/-! ## Orderly shutdown (R544, R545) -/

/-- PWR_EN_DEASSERT, after its deglitch: the module quiesces as under HOLD_N. -/
def pwrEnOff (s : State) : State :=
  let s1 := { s with brd := { s.brd with pwrEn := false }, pwr := { s.pwr with needEdge := false } }
  if !running_ s || s.dev.shutting then s1
  else
    let s2 := { s1 with dev := { s1.dev with shutting := true } }
    if held s then settleMstate s2 else quiesce_ s2

def execPwrEnDeassert (s : State) : Out := .next (pwrEnOff s)

/-- A request is paused for the shutdown, outside its partition's quota, or expires when the far tier is full. -/
def pauseForShutdown (s : State) (ix : Nat) : State :=
  let e := entryOf s ix
  if e.st = .free ∨ e.st = .retiring ∨ e.st = .paused then s
  else if e.st = .resuming then modEntry ix (fun x => { x with st := .paused, pages := [], resv := 0, pendResume := false }) s
  else if farFits s (524288 * farFrames s ix) then
    pauseDone ix (modEntry ix (fun x => { x with st := .pausing, ret := if x.st = .pausing then x.ret else baseState x }) s)
  else expire ix s

/-- The entries in priority order. -/
def byPriority (s : State) : List Nat :=
  (List.range 4).flatMap fun p => (s.req.entries.filter fun e => e.2.prio == p).map (·.1)

/-- SHUTDOWN_COMPLETE: requests paused, drift tables saved, records committed, the far tier in self-refresh; STANDBY. A PWR_EN asserted in the
meantime starts the module again. -/
def shutdownEnd (s : State) : State :=
  if !s.dev.shutting || !running_ s || warned s || s.sch.cur.isSome || (s.dev.row == 7 && s.pwr.state != 3) then s
  else
    let s1 := if s.dev.row < 4 then s else (byPriority s).foldl pauseForShutdown s
    let s2 := if s.dev.row < 6 then s1 else allClusters.foldl (fun t cl => saveDrift cl t) s1
    let s3 := railsOff (farHolds s) 0 false (settleMstate (evrCommit (uhWrite (if s.dev.row < 4 then s2 else writeRegion s2))))
    if s3.brd.pwrEn then beginStart s3 else s3

def execShutdownComplete (s : State) : Out := .next (shutdownEnd s)

end Sys2Proof.Machine
end

