-- ==== Sys2Proof/Machine/Dispatch.lean ====
section
/-! DEFINITION. The command table: one arm for each constructor of `Instr`, calling its meaning. -/

namespace Sys2Proof.Machine

def exec (i : Instr) (s : State) : Host.Outcome State Fault Refusal :=
  match i with
  -- ARRAY slot, core sequencers
  | .nopa iss => Sys2Proof.Machine.execNopa iss s
  | .strk iss f => Sys2Proof.Machine.execStrk iss f s
  | .stkv iss f => Sys2Proof.Machine.execStkv iss f s
  | .psel iss emask amask plane => Sys2Proof.Machine.execPsel iss emask amask plane s
  | .strokeEnd engine dev tree => Sys2Proof.Machine.execStrokeEnd engine dev tree s
  | .strokeFlagsReport engine => Sys2Proof.Machine.execStrokeFlagsReport engine s
  -- ACC slot
  | .aclr iss tile count => Sys2Proof.Machine.execAclr iss tile count s
  | .acn iss ntrm => Sys2Proof.Machine.execAcn iss ntrm s
  | .apro iss eng ntr tile vp => Sys2Proof.Machine.execApro iss eng ntr tile vp s
  | .awid iss dtile srcsp saddr tcnt fold => Sys2Proof.Machine.execAwid iss dtile srcsp saddr tcnt fold s
  | .rsum iss f sq => Sys2Proof.Machine.execRsum iss f sq s
  | .rmax iss f => Sys2Proof.Machine.execRmax iss f s
  | .rmin iss f => Sys2Proof.Machine.execRmin iss f s
  | .rarg iss f => Sys2Proof.Machine.execRarg iss f s
  | .rand iss f => Sys2Proof.Machine.execRand iss f s
  | .ror iss f => Sys2Proof.Machine.execRor iss f s
  | .rxor iss f => Sys2Proof.Machine.execRxor iss f s
  | .rcnt iss f => Sys2Proof.Machine.execRcnt iss f s
  -- GLAZE slot
  | .nopg iss => Sys2Proof.Machine.execNopg iss s
  | .gcol iss f => Sys2Proof.Machine.execGcol iss f s
  | .gout iss f => Sys2Proof.Machine.execGout iss f s
  | .gact iss f => Sys2Proof.Machine.execGact iss f s
  | .glr iss f => Sys2Proof.Machine.execGlr iss f s
  | .gtnt iss f => Sys2Proof.Machine.execGtnt iss f s
  | .enorm iss f sr lix => Sys2Proof.Machine.execEnorm iss f sr lix s
  | .eact iss f fn => Sys2Proof.Machine.execEact iss f fn s
  | .emul iss f srcb => Sys2Proof.Machine.execEmul iss f srcb s
  | .eadd iss f srcb => Sys2Proof.Machine.execEadd iss f srcb s
  | .erot iss f fid pair => Sys2Proof.Machine.execErot iss f fid pair s
  | .ecvt iss f => Sys2Proof.Machine.execEcvt iss f s
  -- MOVE slot
  | .nopm iss => Sys2Proof.Machine.execNopm iss s
  | .mvb iss ssp dsp saddr daddr len ty => Sys2Proof.Machine.execMvb iss ssp dsp saddr daddr len ty s
  | .mvf iss ssp saddr route len ty => Sys2Proof.Machine.execMvf iss ssp saddr route len ty s
  | .mvk iss ssp saddr layer kind vp => Sys2Proof.Machine.execMvk iss ssp saddr layer kind vp s
  | .mck iss ssp saddr len lix => Sys2Proof.Machine.execMck iss ssp saddr len lix s
  -- SYNC slot
  | .twait iss tch count => Sys2Proof.Machine.execTwait iss tch count s
  | .tsend iss tch => Sys2Proof.Machine.execTsend iss tch s
  | .cred iss cch op n => Sys2Proof.Machine.execCred iss cch op n s
  | .chk iss tile vp eid => Sys2Proof.Machine.execChk iss tile vp eid s
  | .csum iss emask ntr => Sys2Proof.Machine.execCsum iss emask ntr s
  | .flor iss => Sys2Proof.Machine.execFlor iss s
  | .step iss => Sys2Proof.Machine.execStep iss s
  | .rplw iss close => Sys2Proof.Machine.execRplw iss close s
  | .replaySlot iss => Sys2Proof.Machine.execReplaySlot iss s
  -- attention and head sequencers
  | .score iss kvh layer qaddr sbuf mask nqh => Sys2Proof.Machine.execScore iss kvh layer qaddr sbuf mask nqh s
  | .snorm iss sbuf paddr nqh => Sys2Proof.Machine.execSnorm iss sbuf paddr nqh s
  | .smix iss kvh layer paddr oaddr mask nqh => Sys2Proof.Machine.execSmix iss kvh layer paddr oaddr mask nqh s
  | .kvput iss kvh layer kaddr => Sys2Proof.Machine.execKvput iss kvh layer kaddr s
  | .samp iss laddr pos => Sys2Proof.Machine.execSamp iss laddr pos s
  | .skdr iss nprop tree daddr cands => Sys2Proof.Machine.execSkdr iss nprop tree daddr cands s
  | .vrfy iss laddr daddr tree => Sys2Proof.Machine.execVrfy iss laddr daddr tree s
  -- fabric, tokens, scheduling
  | .fabricDelivery ix => Sys2Proof.Machine.execFabricDelivery ix s
  | .glazeTableFetch cluster tid crcOk again => Sys2Proof.Machine.execGlazeTableFetch cluster tid crcOk again s
  | .flagSegmentClose sid flagIx => Sys2Proof.Machine.execFlagSegmentClose sid flagIx s
  | .syncToken dest tok => Sys2Proof.Machine.execSyncToken dest tok s
  | .credit dest tok => Sys2Proof.Machine.execCredit dest tok s
  | .stepBoundary dest tok => Sys2Proof.Machine.execStepBoundary dest tok s
  | .stepDone tok => Sys2Proof.Machine.execStepDone tok s
  | .segment tok => Sys2Proof.Machine.execSegment tok s
  | .retract dest tok => Sys2Proof.Machine.execRetract dest tok s
  | .rewindGatherExpiry => Sys2Proof.Machine.execRewindGatherExpiry s
  | .rewind dest tok => Sys2Proof.Machine.execRewind dest tok s
  | .quiesced tok => Sys2Proof.Machine.execQuiesced tok s
  | .resumeToken dest tok => Sys2Proof.Machine.execResumeToken dest tok s
  | .commit => Sys2Proof.Machine.execCommit s
  | .laneKill dest tok => Sys2Proof.Machine.execLaneKill dest tok s
  | .seqFault tok => Sys2Proof.Machine.execSeqFault tok s
  | .abandon dest tok => Sys2Proof.Machine.execAbandon dest tok s
  | .stepWatchdogExpiry => Sys2Proof.Machine.execStepWatchdogExpiry s
  | .stepCompose => Sys2Proof.Machine.execStepCompose s
  | .hotCacheFill cluster slice => Sys2Proof.Machine.execHotCacheFill cluster slice s
  | .spacingTimeout => Sys2Proof.Machine.execSpacingTimeout s
  | .energyMeterSample uj => Sys2Proof.Machine.execEnergyMeterSample uj s
  | .formatFloorExpiry canvas => Sys2Proof.Machine.execFormatFloorExpiry canvas s
  | .persistentColumnRelease core array plane col => Sys2Proof.Machine.execPersistentColumnRelease core array plane col s
  | .runtimeChannelAdd canvas set index => Sys2Proof.Machine.execRuntimeChannelAdd canvas set index s
  | .runtimeChannelLeave canvas set index => Sys2Proof.Machine.execRuntimeChannelLeave canvas set index s
  | .digcolEntryFetch core array plane col => Sys2Proof.Machine.execDigcolEntryFetch core array plane col s
  -- calibration
  | .calibrationGapOpen meas => Sys2Proof.Machine.execCalibrationGapOpen meas s
  | .calibrationGapClose => Sys2Proof.Machine.execCalibrationGapClose s
  | .calIntervalExpiry cluster => Sys2Proof.Machine.execCalIntervalExpiry cluster s
  | .driftTableSave cluster => Sys2Proof.Machine.execDriftTableSave cluster s
  -- integrity
  | .fenceStart core => Sys2Proof.Machine.execFenceStart core s
  | .fenceComplete cluster => Sys2Proof.Machine.execFenceComplete cluster s
  | .drainBudgetExpiry => Sys2Proof.Machine.execDrainBudgetExpiry s
  | .replaceEntry => Sys2Proof.Machine.execReplaceEntry s
  | .unitHistoryPeriodicWrite => Sys2Proof.Machine.execUnitHistoryPeriodicWrite s
  | .auditRotation cluster => Sys2Proof.Machine.execAuditRotation cluster s
  | .auditArbitration cluster again => Sys2Proof.Machine.execAuditArbitration cluster again s
  | .tokenPlaneFailure plane hop => Sys2Proof.Machine.execTokenPlaneFailure plane hop s
  -- writing weights
  | .programIteration array plane row read => Sys2Proof.Machine.execProgramIteration array plane row read s
  | .planeWriteComplete array plane => Sys2Proof.Machine.execPlaneWriteComplete array plane s
  | .programmingWaveStart canvas => Sys2Proof.Machine.execProgrammingWaveStart canvas s
  | .loadComplete canvas => Sys2Proof.Machine.execLoadComplete canvas s
  | .canvasRecordDurable canvas => Sys2Proof.Machine.execCanvasRecordDurable canvas s
  | .eraseComplete => Sys2Proof.Machine.execEraseComplete s
  | .stagePartTimeout canvas => Sys2Proof.Machine.execStagePartTimeout canvas s
  -- memory
  | .farTierPatrol hub => Sys2Proof.Machine.execFarTierPatrol hub s
  | .farTierUncorrectable r => Sys2Proof.Machine.execFarTierUncorrectable r s
  | .masterCopyReadback canvas plane crcOk => Sys2Proof.Machine.execMasterCopyReadback canvas plane crcOk s
  | .memoryCorrectableError tier => Sys2Proof.Machine.execMemoryCorrectableError tier s
  | .hotCacheUncorrectable cluster slice => Sys2Proof.Machine.execHotCacheUncorrectable cluster slice s
  | .poisonRepair index => Sys2Proof.Machine.execPoisonRepair index s
  -- requests
  | .submit h b => Sys2Proof.Machine.execSubmit h b s
  | .prompt h words maskBytes last => Sys2Proof.Machine.execPrompt h words maskBytes last s
  | .commandPartTimeout ptn queue => Sys2Proof.Machine.execCommandPartTimeout ptn queue s
  | .continue_ h b => Sys2Proof.Machine.execContinue h b s
  | .cancel h => Sys2Proof.Machine.execCancel h s
  | .pause h => Sys2Proof.Machine.execPause h s
  | .resume h => Sys2Proof.Machine.execResume h s
  | .discard h => Sys2Proof.Machine.execDiscard h s
  | .export_ h release peer => Sys2Proof.Machine.execExport h release peer s
  | .exportRelease index => Sys2Proof.Machine.execExportRelease index s
  | .import_ h p => Sys2Proof.Machine.execImport h p s
  | .tintLoad h slot rebind whole hash pairs => Sys2Proof.Machine.execTintLoad h slot rebind whole hash pairs s
  | .tintDelete h slot => Sys2Proof.Machine.execTintDelete h slot s
  | .cqRead h cq count => Sys2Proof.Machine.execCqRead h cq count s
  | .regRead h addr count => Sys2Proof.Machine.execRegRead h addr count s
  | .regWrite h addr count values => Sys2Proof.Machine.execRegWrite h addr count values s
  | .attest h nonce => Sys2Proof.Machine.execAttest h nonce s
  | .stage h canvas offset len total bundle => Sys2Proof.Machine.execStage h canvas offset len total bundle s
  | .load h canvas => Sys2Proof.Machine.execLoad h canvas s
  | .abort h canvas => Sys2Proof.Machine.execAbort h canvas s
  | .erase h canvas module_ => Sys2Proof.Machine.execErase h canvas module_ s
  | .cfgWrite h sigOk svn owner => Sys2Proof.Machine.execCfgWrite h sigOk svn owner s
  | .cfgResolve h copy copyOk => Sys2Proof.Machine.execCfgResolve h copy copyOk s
  | .fwStage h cls imgCls svn sigOk raise rlo rhi wr meas => Sys2Proof.Machine.execFwStage h cls imgCls svn sigOk raise rlo rhi wr meas s
  | .fwUpdate h cls => Sys2Proof.Machine.execFwUpdate h cls s
  | .fwProvisionalEnd => Sys2Proof.Machine.execFwProvisionalEnd s
  | .fwRevert => Sys2Proof.Machine.execFwRevert s
  | .fwFloor h cls => Sys2Proof.Machine.execFwFloor h cls s
  | .fwActivate h cls => Sys2Proof.Machine.execFwActivate h cls s
  | .firmwareWatchdog cls unit => Sys2Proof.Machine.execFirmwareWatchdog cls unit s
  | .claim h key => Sys2Proof.Machine.execClaim h key s
  | .ownerRotate h key sigOk => Sys2Proof.Machine.execOwnerRotate h key sigOk s
  | .release h sigOk => Sys2Proof.Machine.execRelease h sigOk s
  | .keyRotate h => Sys2Proof.Machine.execKeyRotate h s
  | .admissionWaitExpiry index => Sys2Proof.Machine.execAdmissionWaitExpiry index s
  | .deadlineExpiry index => Sys2Proof.Machine.execDeadlineExpiry index s
  | .timeToLiveExpiry index => Sys2Proof.Machine.execTimeToLiveExpiry index s
  | .idleThresholdExpiry index => Sys2Proof.Machine.execIdleThresholdExpiry index s
  | .pauseMoveComplete index => Sys2Proof.Machine.execPauseMoveComplete index s
  | .resumeMoveComplete index => Sys2Proof.Machine.execResumeMoveComplete index s
  | .frameScrubComplete ptn frame far => Sys2Proof.Machine.execFrameScrubComplete ptn frame far s
  | .loadDrainExpiry canvas => Sys2Proof.Machine.execLoadDrainExpiry canvas s
  | .leaseTest => Sys2Proof.Machine.execLeaseTest s
  | .graceExpiry ses => Sys2Proof.Machine.execGraceExpiry ses s
  | .tokensSend index => Sys2Proof.Machine.execTokensSend index s
  | .eventCoalesceExpiry ptn => Sys2Proof.Machine.execEventCoalesceExpiry ptn s
  -- transport
  | .dataSegmentReceive g => Sys2Proof.Machine.execDataSegmentReceive g s
  | .ackReceive a => Sys2Proof.Machine.execAckReceive a s
  | .ackTimer ses path => Sys2Proof.Machine.execAckTimer ses path s
  | .retransmitTimeout ses seq => Sys2Proof.Machine.execRetransmitTimeout ses seq s
  | .hsInit m => Sys2Proof.Machine.execHsInit m s
  | .hsKey port hsid sigOk secret => Sys2Proof.Machine.execHsKey port hsid sigOk secret s
  | .handshakeTimeout hsid => Sys2Proof.Machine.execHandshakeTimeout hsid s
  | .announceTimer port => Sys2Proof.Machine.execAnnounceTimer port s
  | .solicit port => Sys2Proof.Machine.execSolicit port s
  | .probe g pnum => Sys2Proof.Machine.execProbe g pnum s
  | .probeAck g pnum => Sys2Proof.Machine.execProbeAck g pnum s
  | .pathProbeTimer ses net => Sys2Proof.Machine.execPathProbeTimer ses net s
  | .close g reason keep => Sys2Proof.Machine.execClose g reason keep s
  | .portLinkLoss port => Sys2Proof.Machine.execPortLinkLoss port s
  | .lldpTimer port => Sys2Proof.Machine.execLldpTimer port s
  | .lldpReceive port chassis portid => Sys2Proof.Machine.execLldpReceive port chassis portid s
  | .pfcPauseReceive port prio quanta => Sys2Proof.Machine.execPfcPauseReceive port prio quanta s
  -- register writes with a row of their own
  | .calCmdAll path v => Sys2Proof.Machine.execCalCmdAll path v s
  | .clear path v => Sys2Proof.Machine.execClear path v s
  | .recorderClearEnd => Sys2Proof.Machine.execRecorderClearEnd s
  | .swtrig path v => Sys2Proof.Machine.execSwtrig path v s
  | .holdReq path v => Sys2Proof.Machine.execHoldReq path v s
  | .plim path v => Sys2Proof.Machine.execPlim path v s
  | .ptnEnable path n v => Sys2Proof.Machine.execPtnEnable path n v s
  | .cnvEnable path c v => Sys2Proof.Machine.execCnvEnable path c v s
  | .sketchEn path c v => Sys2Proof.Machine.execSketchEn path c v s
  | .auditEn path v => Sys2Proof.Machine.execAuditEn path v s
  | .query path v => Sys2Proof.Machine.execQuery path v s
  | .registerWrite path addr v => Sys2Proof.Machine.execRegisterWrite path addr v s
  -- sideband
  | .addr pecOk a => Sys2Proof.Machine.execAddr pecOk a s
  | .read pecOk n => Sys2Proof.Machine.execRead pecOk n s
  | .write pecOk vs => Sys2Proof.Machine.execWrite pecOk vs s
  | .status pecOk => Sys2Proof.Machine.execStatus pecOk s
  | .rcvStatus pecOk => Sys2Proof.Machine.execRcvStatus pecOk s
  | .rcvData pecOk bytes => Sys2Proof.Machine.execRcvData pecOk bytes s
  | .rcvDone pecOk byte imageOk => Sys2Proof.Machine.execRcvDone pecOk byte imageOk s
  | .entdaa a => Sys2Proof.Machine.execEntdaa a s
  | .setdasa static_ dyn => Sys2Proof.Machine.execSetdasa static_ dyn s
  | .tapInstructionLoad tap op => Sys2Proof.Machine.execTapInstructionLoad tap op s
  -- start, power, pins
  | .pwrEnAssert => Sys2Proof.Machine.execPwrEnAssert s
  | .securityBoot f => Sys2Proof.Machine.execSecurityBoot f s
  | .selfTest fails kept regionOk => Sys2Proof.Machine.execSelfTest fails kept regionOk s
  | .retentionCheck canvas recOk crcOk gains offsets => Sys2Proof.Machine.execRetentionCheck canvas recOk crcOk gains offsets s
  | .readyEntry => Sys2Proof.Machine.execReadyEntry s
  | .pwrEnDeassert => Sys2Proof.Machine.execPwrEnDeassert s
  | .shutdownComplete => Sys2Proof.Machine.execShutdownComplete s
  | .resetNAssert long => Sys2Proof.Machine.execResetNAssert long s
  | .resetNRelease straps => Sys2Proof.Machine.execResetNRelease straps s
  | .pwrwarnNAssert => Sys2Proof.Machine.execPwrwarnNAssert s
  | .pwrwarnNRelease => Sys2Proof.Machine.execPwrwarnNRelease s
  | .holdNAssert => Sys2Proof.Machine.execHoldNAssert s
  | .holdQuiesceTimeout => Sys2Proof.Machine.execHoldQuiesceTimeout s
  | .holdNRelease => Sys2Proof.Machine.execHoldNRelease s
  | .moduleRemoval => Sys2Proof.Machine.execModuleRemoval s
  | .inputOvervoltage mv => Sys2Proof.Machine.execInputOvervoltage mv s
  | .inputUndervoltage mv => Sys2Proof.Machine.execInputUndervoltage mv s
  | .inputLockout mv => Sys2Proof.Machine.execInputLockout mv s
  | .inputReconnect mv => Sys2Proof.Machine.execInputReconnect mv s
  | .thermalComparatorTrip unit => Sys2Proof.Machine.execThermalComparatorTrip unit s
  | .droopDetect cluster mv => Sys2Proof.Machine.execDroopDetect cluster mv s
  | .stretchEnd cluster cycles => Sys2Proof.Machine.execStretchEnd cluster cycles s
  | .peakLimit watts => Sys2Proof.Machine.execPeakLimit watts s
  | .housekeepingChannel ch value valid => Sys2Proof.Machine.execHousekeepingChannel ch value valid s
  | .housekeepingRoundEnd watts pump => Sys2Proof.Machine.execHousekeepingRoundEnd watts pump s
  | .recordWrite => Sys2Proof.Machine.execRecordWrite s
  | .recorderCommit => Sys2Proof.Machine.execRecorderCommit s
  | .inputApplied mv => Sys2Proof.Machine.execInputApplied mv s
  | .inputUvRelease mv => Sys2Proof.Machine.execInputUvRelease mv s
  | .inputStageDisconnect mv => Sys2Proof.Machine.execInputStageDisconnect mv s
  | .powerGood ok => Sys2Proof.Machine.execPowerGood ok s
  | .portLinkUp port => Sys2Proof.Machine.execPortLinkUp port s
  | .mkaFrameReceive port up => Sys2Proof.Machine.execMkaFrameReceive port up s
  | .ipv6NeighbourDiscovery port solicitation prefix_ plen => Sys2Proof.Machine.execIpv6NeighbourDiscovery port solicitation prefix_ plen s
  | .pfcReceiveBufferDrain port percent => Sys2Proof.Machine.execPfcReceiveBufferDrain port percent s
  | .nonfenceFaultDetect unit level cause => Sys2Proof.Machine.execNonfenceFaultDetect unit level cause s
  | .calModuleEventTimer => Sys2Proof.Machine.execCalModuleEventTimer s
  | .smbusClockLowTimeout ms => Sys2Proof.Machine.execSmbusClockLowTimeout ms s
  | .enec bits => Sys2Proof.Machine.execEnec bits s
  | .trstNAssert => Sys2Proof.Machine.execTrstNAssert s
  | .cfgResolveReset => Sys2Proof.Machine.execCfgResolveReset s
  | .standbyReadingRefresh mv ma10 board => Sys2Proof.Machine.execStandbyReadingRefresh mv ma10 board s

end Sys2Proof.Machine
end

