-- ==== Sys2Proof/Machine/Tick.lean ====
section
/-! DEFINITION. What a microsecond of the hub clock does with no command waiting (log entry 19). -/

namespace Sys2Proof.Machine

/-- Operating hours count in every power state but OFF and STANDBY (R500). -/
def hoursRun (s : State) : Bool := !s.pwr.off && s.pwr.state != 0

/-- One microsecond: the clocks advance, and sessions send what they may. -/
def tick (s : State) : State := netTick { s with clk := tickClk (hoursRun s) s.clk }

end Sys2Proof.Machine
end

