-- ==== Sys2Proof/Safety.lean ====
section
/-! DEFINITION. Runs of the module, and what counts as a safe one. -/

namespace Sys2Proof

open Sys2Proof.Machine

/-- The state after `n` steps, when every one of them answers a next state. -/
def runs : Nat → State → Option State
  | 0, s => some s
  | n + 1, s => match step s with
    | .next t => runs n t
    | .fault _ => none
    | .refused _ => none

/-- A run of `n` steps is safe: none of its steps stops. -/
def SafeRun (n : Nat) (s : State) : Prop := (runs n s).isSome = true

/-- A command given to the module, ahead of those that wait. -/
def given (c : Instr) (s : State) : State := { s with pending := c :: s.pending }

/-- The command runs on the module as it stands. -/
def Completes (c : Instr) (s : State) : Prop := ∃ t, exec c s = .next t

/-- The parts of the state, but for the queue of commands. -/
inductive Part where
  | clk
  | arr
  | core
  | glz
  | seq
  | sch
  | kv
  | head
  | req
  | cnv
  | ptn
  | net
  | hist
  | cal
  | sec
  | pwr
  | evr
  | brd
  | dev
  | free
  deriving DecidableEq, Repr

/-- A part is the same in two states. -/
def same (s t : State) : Part → Prop
  | .clk => t.clk = s.clk
  | .arr => t.arr = s.arr
  | .core => t.core = s.core
  | .glz => t.glz = s.glz
  | .seq => t.seq = s.seq
  | .sch => t.sch = s.sch
  | .kv => t.kv = s.kv
  | .head => t.head = s.head
  | .req => t.req = s.req
  | .cnv => t.cnv = s.cnv
  | .ptn => t.ptn = s.ptn
  | .net => t.net = s.net
  | .hist => t.hist = s.hist
  | .cal => t.cal = s.cal
  | .sec => t.sec = s.sec
  | .pwr => t.pwr = s.pwr
  | .evr => t.evr = s.evr
  | .brd => t.brd = s.brd
  | .dev => t.dev = s.dev
  | .free => t.free = s.free

/-- The frame of a step from `s` to `t`: every part but the listed ones, and the queue, is as it was. -/
def changesOnly (ps : List Part) (s t : State) : Prop := t.pending = s.pending ∧ ∀ p, p ∉ ps → same s t p

/-- The parts of the state that a command may change; the queue is no part. -/
def touches : Instr → List Part
  | .nopa .. => [.seq]
  | .strk .. => [.arr, .core, .seq]
  | .stkv .. => [.arr, .core, .seq, .free]
  | .psel .. => [.arr, .seq]
  | .strokeEnd .. => [.arr, .core, .glz, .seq, .sch, .kv, .head, .req, .ptn, .net, .hist, .evr, .free]
  | .strokeFlagsReport .. => [.arr, .seq, .sch, .cnv, .ptn, .net, .hist, .sec, .evr, .dev]
  | .aclr .. | .acn .. => [.core, .seq]
  | .apro .. => [.core, .seq, .free]
  | .awid .. | .rsum .. | .rmax .. | .rmin .. | .rarg .. | .rand .. | .ror .. | .rxor .. | .rcnt .. => [.core, .seq]
  | .nopg .. => [.seq]
  | .gcol .. => [.arr, .core, .glz, .seq, .sch, .kv, .head, .req, .ptn, .net, .evr, .free]
  | .gout .. | .gact .. | .glr .. | .gtnt .. => [.core, .seq, .free]
  | .enorm .. | .eact .. | .emul .. | .eadd .. | .erot .. => [.core, .seq]
  | .ecvt .. => [.core, .glz, .seq]
  | .nopm .. => [.seq]
  | .mvb .. => [.core, .seq]
  | .mvf .. => [.seq]
  | .mvk .. => [.seq, .free]
  | .mck .. => [.core, .seq]
  | .twait .. | .tsend .. | .cred .. => [.seq]
  | .chk .. => [.glz, .seq, .sch, .req, .ptn, .net, .evr, .free]
  | .csum .. | .flor .. | .step .. | .rplw .. => [.seq]
  | .replaySlot .. => [.arr, .core, .glz, .seq, .sch, .kv, .head, .req, .ptn, .net, .evr, .free]
  | .score .. => [.seq, .kv, .free]
  | .snorm .. => [.core, .glz, .seq, .kv]
  | .smix .. => [.core, .seq, .kv, .free]
  | .kvput .. => [.glz, .seq, .kv, .free]
  | .samp .. => [.seq, .sch]
  | .skdr .. => [.core, .seq, .head]
  | .vrfy .. => [.core, .seq, .sch, .free]
  | .fabricDelivery .. => [.arr, .core, .glz, .seq, .sch, .kv, .head, .req, .ptn, .net, .evr, .free]
  | .glazeTableFetch .. => [.arr, .core, .glz, .seq, .sch, .kv, .head, .req, .ptn, .net, .hist, .evr, .free]
  | .flagSegmentClose .. => [.arr, .seq, .sch, .cnv, .ptn, .net, .hist, .cal, .sec, .evr, .dev]
  | .syncToken .. | .credit .. => [.arr, .core, .glz, .seq, .sch, .kv, .head, .req, .ptn, .net, .evr, .free]
  | .stepBoundary .. => [.seq, .kv]
  | .stepDone .. | .segment .. => [.seq, .sch, .req]
  | .retract .. => [.seq]
  | .rewindGatherExpiry => [.seq, .sch, .cnv, .ptn, .net, .hist, .evr]
  | .rewind .. => [.arr, .core, .glz, .seq, .kv]
  | .quiesced .. => [.arr, .core, .glz, .seq, .sch, .kv, .head, .req, .net]
  | .resumeToken .. => [.seq]
  | .commit => [.arr, .core, .glz, .seq, .sch, .kv, .head, .req, .cnv, .ptn, .net, .cal, .evr, .free]
  | .laneKill .. => [.arr, .core, .glz, .seq, .sch, .kv, .head, .req, .ptn, .net, .evr, .free]
  | .seqFault .. => [.seq, .sch, .kv, .req, .cnv, .ptn, .net, .hist, .sec, .evr, .dev]
  | .abandon .. => [.arr, .core, .glz, .seq, .kv]
  | .stepWatchdogExpiry => [.seq, .sch, .cnv, .ptn, .net, .hist, .sec, .evr, .dev]
  | .stepCompose => [.arr, .core, .glz, .seq, .sch, .kv, .head, .req, .cnv, .ptn, .net, .hist, .sec]
  | .hotCacheFill .. => [.kv]
  | .spacingTimeout => [.sch]
  | .energyMeterSample .. => [.sch, .pwr]
  | .formatFloorExpiry .. => [.cnv, .ptn, .net, .evr]
  | .persistentColumnRelease .. => [.arr]
  | .runtimeChannelAdd .. => [.glz, .evr]
  | .runtimeChannelLeave .. => [.glz]
  | .digcolEntryFetch .. => [.arr]
  | .calibrationGapOpen .. => [.arr, .seq, .sch, .cnv, .ptn, .net, .hist, .cal, .sec, .evr, .dev]
  | .calibrationGapClose => [.arr, .glz, .seq, .kv, .cnv, .ptn, .net, .hist, .cal, .dev]
  | .calIntervalExpiry .. => [.cal]
  | .driftTableSave .. => [.glz, .cal]
  | .fenceStart .. => [.arr, .glz, .seq, .sch, .kv, .cnv, .ptn, .net, .hist, .cal, .sec, .evr, .dev]
  | .fenceComplete .. => [.arr, .glz, .kv, .cnv, .ptn, .net, .hist, .evr]
  | .drainBudgetExpiry => [.req]
  | .replaceEntry => [.ptn, .net, .hist, .evr, .dev]
  | .unitHistoryPeriodicWrite => [.hist]
  | .auditRotation .. => [.arr, .glz, .seq, .sch, .kv, .cnv, .ptn, .net, .hist, .sec, .evr, .dev]
  | .auditArbitration .. | .tokenPlaneFailure .. => [.seq, .sch, .cnv, .ptn, .net, .hist, .sec, .evr, .dev]
  | .programIteration .. => [.arr, .glz]
  | .planeWriteComplete .. => [.arr, .glz, .seq, .sch, .kv, .cnv, .ptn, .net, .hist, .cal, .sec, .evr, .dev]
  | .programmingWaveStart .. => [.arr, .glz, .seq, .sch, .kv, .cnv, .ptn, .net, .hist, .sec, .evr, .dev]
  | .loadComplete .. => [.glz, .seq, .kv, .head, .req, .cnv, .ptn, .net, .evr]
  | .canvasRecordDurable .. => [.cnv]
  | .eraseComplete => [.arr, .glz, .seq, .sch, .kv, .cnv, .ptn, .net, .hist, .sec, .evr, .dev]
  | .stagePartTimeout .. => [.cnv, .net]
  | .farTierPatrol .. => [.kv]
  | .farTierUncorrectable .. => [.arr, .glz, .seq, .kv, .head, .req, .cnv, .ptn, .net, .evr]
  | .masterCopyReadback .. => [.kv, .cnv, .ptn, .net]
  | .memoryCorrectableError .. => [.hist]
  | .hotCacheUncorrectable .. => [.kv, .evr]
  | .poisonRepair .. => [.kv, .req]
  | .submit .. | .prompt .. => [.head, .req, .cnv, .ptn, .net]
  | .commandPartTimeout .. => [.ptn, .net]
  | .continue_ .. => [.head, .req, .cnv, .ptn, .net]
  | .cancel .. => [.seq, .sch, .kv, .head, .req, .cnv, .ptn, .net]
  | .pause .. | .resume .. | .discard .. => [.req, .cnv, .ptn, .net]
  | .export_ .. => [.head, .req, .cnv, .ptn, .net, .dev]
  | .exportRelease .. => [.kv, .head, .req, .net]
  | .import_ .. | .tintLoad .. => [.req, .cnv, .ptn, .net]
  | .tintDelete .. => [.seq, .sch, .kv, .head, .req, .cnv, .ptn, .net]
  | .cqRead .. => [.cnv, .ptn, .net]
  | .regRead .. => [.cnv, .ptn, .net, .hist, .cal, .sec, .pwr, .evr]
  | .regWrite .. => [.arr, .glz, .seq, .sch, .kv, .head, .req, .cnv, .ptn, .net, .hist, .cal, .sec, .pwr, .evr, .brd, .dev]
  | .attest .. => [.cnv, .ptn, .net, .sec]
  | .stage .. => [.kv, .cnv, .ptn, .net, .sec, .evr]
  | .load .. => [.cnv, .ptn, .net, .evr]
  | .abort .. => [.arr, .glz, .seq, .kv, .cnv, .ptn, .net, .evr]
  | .erase .. => [.cnv, .ptn, .net, .sec]
  | .cfgWrite .. => [.cnv, .ptn, .net, .sec, .evr]
  | .cfgResolve .. => [.cnv, .ptn, .net, .sec]
  | .fwStage .. => [.cnv, .ptn, .net, .sec, .evr]
  | .fwUpdate .. => [.cnv, .ptn, .net, .sec]
  | .fwProvisionalEnd => [.net, .sec, .evr]
  | .fwRevert => [.seq, .sch, .cnv, .net, .hist, .sec, .evr]
  | .fwFloor .. | .fwActivate .. => [.cnv, .ptn, .net, .sec]
  | .firmwareWatchdog .. => [.seq, .sch, .cnv, .ptn, .net, .hist, .sec, .evr, .dev]
  | .claim .. | .ownerRotate .. | .release .. | .keyRotate .. => [.cnv, .ptn, .net, .sec, .evr]
  | .admissionWaitExpiry .. => [.head, .req, .net]
  | .deadlineExpiry .. => [.seq, .sch, .kv, .head, .req, .ptn, .net]
  | .timeToLiveExpiry .. => [.kv, .head, .req, .ptn, .net]
  | .idleThresholdExpiry .. => [.req]
  | .pauseMoveComplete .. => [.kv, .req, .ptn, .net]
  | .resumeMoveComplete .. | .frameScrubComplete .. => [.kv, .head, .req]
  | .loadDrainExpiry .. => [.seq, .sch, .kv, .head, .req, .ptn, .net]
  | .leaseTest => [.ptn, .net, .evr]
  | .graceExpiry .. => [.seq, .sch, .kv, .head, .req, .ptn, .net, .evr]
  | .tokensSend .. => [.req, .ptn, .net]
  | .eventCoalesceExpiry .. => [.ptn, .net]
  | .dataSegmentReceive .. => [.net]
  | .ackReceive .. => [.ptn, .net]
  | .ackTimer .. => [.net]
  | .retransmitTimeout .. => [.ptn, .net]
  | .hsInit .. => [.net, .sec, .evr, .dev]
  | .hsKey .. => [.req, .ptn, .net, .sec, .evr, .dev]
  | .handshakeTimeout .. => [.net, .sec]
  | .announceTimer .. | .solicit .. => [.net]
  | .probe .. | .probeAck .. => [.ptn, .net]
  | .pathProbeTimer .. => [.net]
  | .close .. => [.seq, .sch, .kv, .head, .req, .ptn, .net, .evr]
  | .portLinkLoss .. => [.ptn, .net, .evr]
  | .lldpTimer .. => [.net]
  | .lldpReceive .. => [.net, .evr]
  | .pfcPauseReceive .. => [.net]
  | .calCmdAll .. | .clear .. => [.arr, .glz, .seq, .sch, .kv, .head, .req, .cnv, .ptn, .net, .hist, .cal, .sec, .pwr, .evr, .brd, .dev]
  | .recorderClearEnd => [.evr]
  | .swtrig .. | .holdReq .. | .plim .. | .ptnEnable .. | .cnvEnable .. | .sketchEn .. | .auditEn .. | .query .. | .registerWrite .. => [.arr, .glz, .seq, .sch, .kv, .head, .req, .cnv, .ptn, .net, .hist, .cal, .sec, .pwr, .evr, .brd, .dev]
  | .addr .. => [.brd]
  | .read .. => [.cnv, .net, .hist, .cal, .sec, .pwr, .evr, .brd]
  | .write .. => [.arr, .glz, .seq, .sch, .kv, .head, .req, .cnv, .ptn, .net, .hist, .cal, .sec, .pwr, .evr, .brd, .dev]
  | .status .. | .rcvStatus .. => [.brd]
  | .rcvData .. => [.sec, .brd]
  | .rcvDone .. => [.sec, .brd, .dev, .free]
  | .entdaa .. | .setdasa .. | .tapInstructionLoad .. => [.brd]
  | .pwrEnAssert => [.clk, .pwr, .brd, .dev]
  | .securityBoot .. => [.arr, .seq, .sch, .cnv, .ptn, .net, .hist, .sec, .pwr, .evr, .brd, .dev]
  | .selfTest .. => [.glz, .seq, .sch, .kv, .head, .req, .cnv, .ptn, .net, .hist, .cal, .sec, .pwr, .evr, .dev]
  | .retentionCheck .. => [.arr, .seq, .sch, .kv, .cnv, .ptn, .net, .hist, .cal, .sec, .evr, .dev]
  | .readyEntry => [.net, .pwr, .evr, .dev]
  | .pwrEnDeassert => [.arr, .seq, .sch, .cnv, .ptn, .net, .hist, .sec, .pwr, .evr, .brd, .dev]
  | .shutdownComplete => [.clk, .arr, .core, .glz, .seq, .sch, .kv, .head, .req, .cnv, .ptn, .net, .hist, .cal, .sec, .pwr, .evr, .brd, .dev]
  | .resetNAssert .. => [.arr, .core, .glz, .seq, .sch, .kv, .head, .req, .cnv, .ptn, .net, .hist, .cal, .sec, .pwr, .evr, .brd, .dev, .free]
  | .resetNRelease .. => [.brd, .dev]
  | .pwrwarnNAssert => [.arr, .glz, .seq, .sch, .cnv, .hist, .pwr, .evr, .brd, .dev]
  | .pwrwarnNRelease => [.pwr, .evr, .dev]
  | .holdNAssert => [.arr, .seq, .sch, .cnv, .ptn, .net, .hist, .sec, .pwr, .evr, .brd, .dev]
  | .holdQuiesceTimeout => [.seq, .sch, .cnv, .hist, .pwr]
  | .holdNRelease => [.pwr, .evr, .dev]
  | .moduleRemoval | .inputOvervoltage .. => [.arr, .core, .glz, .seq, .sch, .kv, .head, .req, .cnv, .ptn, .net, .hist, .cal, .sec, .pwr, .evr, .brd, .dev]
  | .inputUndervoltage .. => [.arr, .glz, .seq, .sch, .cnv, .hist, .pwr, .evr, .brd, .dev]
  | .inputLockout .. => [.arr, .core, .glz, .seq, .sch, .kv, .head, .req, .cnv, .ptn, .net, .hist, .cal, .sec, .pwr, .evr, .brd, .dev]
  | .inputReconnect .. => [.pwr]
  | .thermalComparatorTrip .. => [.arr, .core, .glz, .seq, .sch, .kv, .head, .req, .cnv, .ptn, .net, .hist, .cal, .sec, .pwr, .evr, .brd, .dev]
  | .droopDetect .. | .stretchEnd .. => [.pwr]
  | .peakLimit .. | .housekeepingChannel .. => [.pwr, .evr, .brd]
  | .housekeepingRoundEnd .. => [.arr, .seq, .sch, .cnv, .ptn, .net, .hist, .cal, .sec, .pwr, .evr, .brd, .dev]
  | .recordWrite | .recorderCommit => [.evr]
  | .inputApplied .. => [.pwr, .brd]
  | .inputUvRelease .. => [.pwr, .evr, .dev]
  | .inputStageDisconnect .. => [.arr, .core, .glz, .seq, .sch, .kv, .head, .req, .cnv, .ptn, .net, .hist, .cal, .sec, .pwr, .evr, .brd, .dev]
  | .powerGood .. => [.pwr, .brd, .dev]
  | .portLinkUp .. | .mkaFrameReceive .. => [.net, .evr]
  | .ipv6NeighbourDiscovery .. | .pfcReceiveBufferDrain .. => [.net]
  | .nonfenceFaultDetect .. => [.seq, .sch, .cnv, .ptn, .net, .hist, .sec, .evr, .dev]
  | .calModuleEventTimer => [.ptn, .net, .cal]
  | .smbusClockLowTimeout .. => [.brd, .free]
  | .enec .. | .trstNAssert => [.brd]
  | .cfgResolveReset => [.arr, .core, .glz, .seq, .sch, .kv, .head, .req, .cnv, .ptn, .net, .hist, .cal, .sec, .pwr, .evr, .brd, .dev]
  | .standbyReadingRefresh .. => [.pwr]

/-- A sequencer takes an instruction (R187, R191, R219, R223, R245): it is one of the module's, it takes part in steps, it is in a step and
nothing holds its bundle, and the instruction does not belong to a killed lane. `reads` says that the instruction reads the current lane's descriptor. -/
def runsAt (s : State) (i : Iss) (reads : Bool) : Bool :=
  isSid i.sid && takesPart s i.sid && issuing s i && !laneDead s i reads

/-- A sequencer takes an operation and no earlier one of its queues stands before it (R189). -/
def runsNow (s : State) (c : Instr) (i : Iss) (reads : Bool) : Bool := runsAt s i reads && !opsOf (seqOf s i.sid) (opClass c)

/-- A sequencer holds no bundle and no operation. -/
def calm (s : State) (sid : Nat) : Bool := (seqOf s sid).held.isEmpty && (seqOf s sid).ops.isEmpty

/-- An instruction whose VP bit is `vp` passes the issue-time check of the verify width (R218). -/
def vpOk (s : State) (i : Iss) (vp : Nat) : Bool := vp == 0 || widthOk s i

/-- No group of the step's strokes is held for a replay entry or for a tile computed in D16 (R250, R402). -/
def noReplays (s : State) (sid : Nat) : Prop := (seqOf s sid).replays = [] ∧ ∀ c, s.sch.cur = some c → c.d16Tile = []

/-- The byte memories are in their canonical form: those of the cores and clusters, the near tier and the score buffers. -/
def memWf (s : State) : Bool :=
  Memory.wf s.core.ib && Memory.wf s.core.ob && Memory.wf s.core.ab && Memory.wf s.core.rx && Memory.wf s.core.sram
    && Memory.wf s.kv.near && Memory.wf s.kv.sbuf

/-! ## What the statements say of a command -/

/-- A core sequencer takes an instruction. -/
def coreRuns (s : State) (i : Iss) (reads : Bool) : Prop := isCoreSid i.sid = true ∧ runsAt s i reads = true

/-- A core sequencer takes an operation that begins at once in its queues. -/
def coreRunsNow (s : State) (c : Instr) (i : Iss) (reads : Bool) : Prop := isCoreSid i.sid = true ∧ runsNow s c i reads = true

/-- An operation joined its sequencer's queues and nothing else changed. -/
def queued (s : State) (c : Instr) (i : Iss) : State := modSeq i.sid (fun q => { q with ops := q.ops ++ [(q.flagIx, c)] }) s

/-- Strokes in the queue of engine `e` of a sequencer's core. -/
def strokesOn (s : State) (i : Iss) (e : Nat) : List Stroke := tget [] s.arr.strokes (mkEngine (sidCore i.sid) e)

/-- What a stroke of `w` positions does to its core (R197, R198, R202): one more stroke a position in the queue of every named engine,
two when the pair format takes a digit each, each with the arrays of AMASK; the narrow tile registers it will fill hold no closed tile until then; the ACN
binding is used up; nothing else of the core, and nothing outside the array, core and sequencer parts, changes. -/
def strokesJoin (s t : State) (i : Iss) (f : StrokeF) (w : Nat) : Prop :=
  (∀ e, e < 16 → ∃ ks, strokesOn t i e = strokesOn s i e ++ ks ∧
    ks.length = (if bitOf f.emask e then (if f.ifmt = 3 then 2 * w else w) else 0) ∧
    ∀ k ∈ ks, k.sid = i.sid ∧ k.plane = f.plane ∧ k.arrays.map (·.arr) = (maskBits f.amask 16).map (mkArray (mkEngine (sidCore i.sid) e))) ∧
    t.core = { s.core with acn := tput 0 s.core.acn (sidCore i.sid) 0, ntr := t.core.ntr } ∧
    (∀ e p g, e < 16 → bitOf f.emask e = true → p < w → g < tileCount f →
      (tget Tile.init t.core.ntr (ntrKey (mkEngine (sidCore i.sid) e) (f.ntr + p * tileCount f + g))).ready = false) ∧
    changesOnly [.arr, .core, .seq] s t

/-- The accumulator banks are all that changes, and only in `n` tiles of a core from `tile` on. -/
def abOnly (s t : State) (core tile n : Nat) : Prop :=
  t = { s with core := { s.core with ab := t.core.ab } } ∧
    ∀ a, a < abAddr core tile 0 ∨ abAddr core tile 0 + n * 512 ≤ a → rdByte t.core.ab a = rdByte s.core.ab a

/-- The positions an instruction with a VP bit covers, as a count. -/
def vpCount (s : State) (i : Iss) (vp : Nat) : Nat := if vp = 0 then 1 else curW s i

/-- The tile or scalar register a reduction writes, and the key of its reduction order. -/
def redDst (s : State) (i : Iss) (f : RedF) : Nat := if f.dsr = 1 then f.dst else offset s i 1 f.dst

/-- The cores that a reduction joins, in the recorded order. -/
def redCores (s : State) (i : Iss) (f : RedF) : List Nat :=
  ((redOrder s i.sid (if f.dsr = 1 then srOrder f.dst else redDst s i f)).filterMap (seqOfTable s)).map sidCore

/-- A reduction's result is in its place and nothing else changed: the values `loc` of the core's own tiles, then those of the cores of the
recorded order, joined by `comb`. -/
def redDone (s t : State) (i : Iss) (f : RedF) (loc : List (Pair × Nat) → Pair) (comb : Pair → Pair → Pair) : Prop :=
  redGet t (sidCore i.sid) (redDst s i f) f.dsr
      = ((redCores s i f).map fun c => redGet s c (redDst s i f) f.dsr).foldl comb
          (loc (redElems s (sidCore i.sid) (offset s i 1 f.src) f.nt f.idxb)) ∧
  (f.dsr = 1 → t = { s with core := { s.core with sr := t.core.sr } } ∧
    ∀ k, k ≠ coreIx (sidCore i.sid) * 8 + f.dst % 8 → tget Pair.zero t.core.sr k = tget Pair.zero s.core.sr k) ∧
  (f.dsr ≠ 1 → t = { s with core := { s.core with ab := t.core.ab } } ∧
    ∀ a, a < abAddr (sidCore i.sid) (redDst s i f) 0 ∨ abAddr (sidCore i.sid) (redDst s i f) 0 + 8 ≤ a →
      rdByte t.core.ab a = rdByte s.core.ab a)

/-- First byte of the OB vector an element instruction writes, and its bytes. -/
def elBase (s : State) (i : Iss) (f : ElF) : Nat := obBase (sidCore i.sid) + offset s i 0 f.dst * 128

/-- Bytes an element instruction writes. -/
def elBytes (f : ElF) : Nat := elCount f * (if f.ty = 1 then 4 else 2)

/-- An element instruction's results stand in OB in the TY format and nothing else changed. -/
def elDone (s t : State) (i : Iss) (f : ElF) (val : Nat → Word) : Prop :=
  (∀ k, k < elCount f → if f.ty = 1 then rdWord t.core.ob (elBase s i f + 4 * k) = val k
      else rdHalf t.core.ob (elBase s i f + 2 * k) = f32ToBf16 (val k)) ∧
  t = { s with core := { s.core with ob := t.core.ob } } ∧
  ∀ a, a < elBase s i f ∨ elBase s i f + elBytes f ≤ a → rdByte t.core.ob a = rdByte s.core.ob a

/-- Element `k` of a vector operand of an element instruction. -/
def elArg (s : State) (i : Iss) (f : ElF) (unit k : Nat) : Word := obElem s (sidCore i.sid) (offset s i 0 unit) f.ty k

/-- A core sequencer takes an operation of the GLAZE queue that begins at once. -/
def glazeRuns (s : State) (i : Iss) (reads : Bool) : Prop :=
  isCoreSid i.sid = true ∧ runsAt s i reads = true ∧ opsOf (seqOf s i.sid) 2 = false

/-- Blocks an ECVT writes for each of its source blocks. -/
def ecvtDigits (f : EcvtF) : Nat := if f.tfmt = 3 then 2 else 1

/-- The channel set of an ECVT. -/
def ecvtKey (s : State) (i : Iss) (f : EcvtF) : Nat := chanKey (seqOf s i.sid).canvas (lixOf s i.sid f.lix).chans

/-- Source values of block `b` of an ECVT, element by element. -/
def ecvtSrc (s : State) (i : Iss) (f : EcvtF) (b : Nat) : List Fv :=
  srcBlock s (sidCore i.sid) (offset s i 0 f.src + b) f.sfmt (channels s (ecvtKey s i f)) (inputIx (lixOf s i.sid f.lix) b)

/-- A sequencer takes an instruction whatever its lane: tokens and transfers of a killed lane still go (R219). -/
def seqRuns (s : State) (i : Iss) : Bool := isSid i.sid && takesPart s i.sid && issuing s i

/-- The bytes `bs` stand at `a`, and every other byte of the memory is as it was. -/
def bytesAt (m m' : Mem) (a : Nat) (bs : List Byte) : Prop :=
  (∀ k, k < bs.length → rdByte m' (a + k) = nth 0 bs k) ∧ ∀ j, j < a ∨ a + bs.length ≤ j → rdByte m' j = rdByte m j

/-- The other sequencers are as they were. -/
def otherSeqs (s t : State) (sid : Nat) : Prop := ∀ r, r ≠ sid → seqOf t r = seqOf s r

/-- No hop of the token network has failed. -/
def planesUp (s : State) : Prop := s.seq.planeBad = []

/-- Tokens were sent, one for each destination on each plane that carries it, with the sequencer's step tag. -/
def tokensSent (s t : State) (src kind arg : Nat) (dests : List Nat) : Prop :=
  ∃ xs, t.seq.sent = s.seq.sent ++ xs ∧ (planesUp s → xs.length = 2 * dests.length) ∧
    (∀ x ∈ xs, x.1 ∈ dests ∧ x.2.kind = kind ∧ x.2.arg = arg ∧ x.2.src = src ∧ x.2.step = (seqOf s src).step % 2 ^ 24 ∧
      x.2.att = (seqOf s src).att % 16) ∧
    ∀ d ∈ dests, ∀ pl, pl < 2 → planeCarries s pl src d = true → ∃ x ∈ xs, x.1 = d ∧ x.2.plane = pl

/-- An attention sequencer takes an instruction for lane `l`. -/
def attRuns (s : State) (i : Iss) (l : Lane) : Prop :=
  isAttSid i.sid = true ∧ runsAt s i true = true ∧ ∃ p, curLane s i = some (l, p)

/-- A head sequencer takes an instruction for lane `l`. -/
def headRuns (s : State) (i : Iss) (l : Lane) : Prop :=
  isHeadSid i.sid = true ∧ runsAt s i true = true ∧ ∃ p, curLane s i = some (l, p)

/-- MODE of an attention instruction's mask, and its canvas's window. -/
def attMode (s : State) (l : Lane) (layer mask : Nat) : Nat := maskMode mask l.mask (attnRec s l.canvas layer).win

/-- The window of a layer. -/
def attWin (s : State) (l : Lane) (layer : Nat) : Nat := (attnRec s l.canvas layer).win

/-- The pages an attention instruction reads, when nothing stops its walks. -/
def attPages (s : State) (sid : Nat) (l : Lane) (layer mask : Nat) : Option (List (Nat × Leaf)) :=
  if !laneInWindow s l then none
  else if attMode s l layer mask = 2 ∧ ((frameOf s l.ptn l.mroot).isNone ∨ maskBad s (attDie sid) l.ptn l.mroot l.npos) then none
  else match walkAll s (attDie sid) l.ptn l.ptroot layer (pagesRead s (attDie sid) (attCl sid) l (attMode s l layer mask) (attWin s l layer)) with
    | .at ps => some ps
    | .fault _ => none

/-- A well-formed token at a sequencer that takes part in steps, not a second copy and behind no other of its source. -/
def arrives (s : State) (dest : Nat) (tok : Token) (kind : Nat) : Prop :=
  isSid dest = true ∧ tokenOk tok kind = true ∧ takesPart s dest = true ∧ isDup (seqOf s dest) tok = false ∧ behind s dest tok = false

/-- The module with a token taken off the network at its destination, which has now seen it. -/
def tokenTaken (s : State) (dest : Nat) (tok : Token) : State :=
  modSeq dest (fun q => { q with seen := tput 0 q.seen tok.src (tok.seq % 32768 + 1) })
    { s with seq := { s.seq with sent := s.seq.sent.erase (dest, tok) } }

/-- A token of a kind was sent to a destination. -/
def sentTo (t : State) (dest kind : Nat) : Prop := ∃ tok : Token, (dest, tok) ∈ t.seq.sent ∧ tok.kind = kind

/-- A well-formed token at the scheduler core, of the current attempt of the step in flight, not a second copy and behind no other of its source. -/
def arrivesSched (s : State) (tok : Token) (kind : Nat) (c : StepRec) : Prop :=
  tokenOk tok kind = true ∧ isDup (seqOf s schedSid) tok = false ∧ behind s schedSid tok = false ∧ s.sch.cur = some c ∧ schedCurrent c tok = true

/-- A command from a live, open session that may send it, with room on its queue and the module not in safe state; no staging is open. -/
def cmdReady (s : State) (r : Rights) (h : Hdr) : Prop :=
  hdrOk h = true ∧ sesLive s h = true ∧ (sesOf s h.ses).closed = false ∧ outstanding s h < 64 ∧ mayClass s r h = true ∧ s.sec.safe = false ∧
    ∀ c, (cnvOf s c).stOpen = false

/-- The same with no command of any queue half received: what is left is the command's own effect. -/
def cmdRuns (s : State) (r : Rights) (h : Hdr) : Prop := cmdReady s r h ∧ ∀ n q, tget none (ptnOf s n).parts q = none

/-- The command was answered: a reply with its tag, queue and status, and the given leading bytes, is among the messages that joined its session's queue. -/
def answered (s t : State) (h : Hdr) (status : Nat) (body : List Byte) : Prop :=
  ∃ xs m, (sesOf t h.ses).queue = (sesOf s h.ses).queue ++ xs ∧ m ∈ xs ∧ m.ty = 0x80 ∧ m.queue = h.queue ∧ m.tag = h.tag ∧ m.status = status ∧
    body <+: m.body

/-- The session of a command can still be sent messages. -/
def canAnswer (s : State) (h : Hdr) : Prop := (sesOf s h.ses).sid = h.ses ∧ (sesOf s h.ses).closed = false

/-- An entry has left the table, or waits for its frames to be scrubbed. -/
def gone (t : State) (ix : Nat) : Prop := (entryOf t ix).st = .free ∨ (entryOf t ix).st = .retiring

/-- An operator's command that safe state accepts too: its session may send it, with room on its queue; no staging is open and no command is half received. -/
def opRuns (s : State) (h : Hdr) : Prop :=
  hdrOk h = true ∧ sesLive s h = true ∧ (sesOf s h.ses).closed = false ∧ outstanding s h < 64 ∧ roleH s h = 16 ∧
    (∀ c, (cnvOf s c).stOpen = false) ∧ ∀ n q, tget none (ptnOf s n).parts q = none

/-- The command was answered with an outcome: OK for 0, BAD_REQUEST otherwise. -/
def outcomeIs (s t : State) (h : Hdr) (o : Nat) : Prop := answered s t h (if o = 0 then 0 else 8) (leBytes o 4)

/-- A write of one register that has a row of its own reaches its register. -/
def rowRuns (s : State) (p : Path) (a : Nat) (b : Block) (o : Nat) : Prop :=
  pathLive s p = true ∧ (s.sec.safe = false ∨ p = .sideband) ∧ accessOf s p true a = (0, some (b, o))

end Sys2Proof
end

