-- ==== Sys2Proof/Certificates/Slice0/Obligations.lean ====
section
/-! DEFINITION. The statements for the provers. -/

open Sys2Proof Sys2Proof.Machine

/-- A step takes the command at the front of the queue: it is exec of that command on the module with the queue's rest. -/
def Obligations.StepRunsFront : Prop :=
  ∀ (c : Instr) (s : State),
  (∀ rest, s.pending = c :: rest → step s = exec c { s with pending := rest }) ∧ step (given c s) = exec c s

/-- With no command waiting a microsecond passes (log entry 19, the model's choice): the clock counts it, operating hours count it in every power
state but OFF and STANDBY and saturate, and nothing changes but the clock and what sessions and ports send. -/
def Obligations.ClockAdvances : Prop :=
  ∀ (s : State), s.pending = [] →
  ∃ t, step s = .next t ∧ changesOnly [.clk, .net] s t ∧ t.clk.us = s.clk.us + 1 ∧ t.clk.cycles = s.clk.cycles ∧
    ((s.pwr.off = true ∨ s.pwr.state = 0) → t.clk.hours = s.clk.hours ∧ t.clk.micro = s.clk.micro) ∧
    (s.pwr.off = false → s.pwr.state ≠ 0 →
      (s.clk.micro + 1 < 100000 → t.clk.hours = s.clk.hours ∧ t.clk.micro = s.clk.micro + 1) ∧
      (100000 ≤ s.clk.micro + 1 → t.clk.hours = min (s.clk.hours + 1) 0xFFFFFFFF ∧ t.clk.micro = 0)) ∧
    (∀ n, n < 8 → portOf t n = { portOf s n with pauseRx := (portOf s n).pauseRx - 100000 })

/-- Every command changes only the parts that its row of `touches` lists, and leaves the queue of commands as it is. Where the manual is silent it
states the model's choices of log entry 82. -/
def Obligations.CommandFrames : Prop :=
  ∀ (c : Instr) (s t : State), exec c s = .next t → changesOnly (touches c) s t

/-- Every step keeps the byte memories of the cores, the clusters, the near tier and the score buffers in their canonical form. Where the manual is
silent it states the model's choices of log entry 14. -/
def Obligations.MemoriesCanonical : Prop :=
  ∀ (s t : State), memWf s = true → step s = .next t → memWf t = true

/-- At reset the byte memories are in their canonical form, and list nothing. Where the manual is silent it states the model's choices of log entries
14, 17. -/
def Obligations.ResetMemoriesCanonical : Prop :=
  memWf State.reset = true ∧ State.reset.pending = [] ∧ State.reset.core.ab = [] ∧ State.reset.kv.near = []

/-- Every well-formed instruction of a sequencer slot is the one its encoded word decodes to, in a sequencer of its class, and the word fits its slot. -/
def Obligations.SlotRoundTrip : Prop :=
  ∀ (c : Instr) (k : SlotKind) (w : Nat), c.wf = true → encodeSlot c = some (k, w) →
  w < 2 ^ k.width ∧ ∃ i, decodeSlot c.cls k i w = some c

/-- Words written out bit by bit from the encoding tables of R195, R201, R205, R208, R210, R212 and R214 decode to the instructions they stand for; a
reserved BAND, a reserved opcode and a reserved field that is not 0 are refused. -/
def Obligations.SlotWords : Prop :=
  ∀ i : Iss,
  decodeSlot 0 .array i 0xF1FF063000280011
    = some (.strk i { emask := 0x8001, amask := 2, plane := 3, ibs := 7942, esh := 1, ifmt := 3, band := 1, gsz := 2, ntr := 7 }) ∧
  decodeSlot 0 .array i 0x00000058000F0013 = some (.psel i 0xF001 0x8000 5) ∧
  decodeSlot 1 .array i 0x000000BFEFBBFFD8 = some (.score i 5 127 0xBEEF 15 3 11) ∧
  decodeSlot 2 .array i 0x000000000071234C = some (.samp i 0x1234 7) ∧
  decodeSlot 0 .acc i 0xFFFEFF803FF4 = some (.rsum i { src := 1023, dst := 512, dsr := 1, nt := 63, idxb := 0xFFFE } 1) ∧
  decodeSlot 0 .acc i 0x000001000070 = some (.aclr i 7 1024) ∧
  decodeSlot 0 .glaze i 0x87ABCDFFA7F5
    = some (.gtnt i { eng := 15, grp := 3, plane := 9, tile := 1022, tid := 0xABCD, vp := 1, ph := 1, lix := 33 }) ∧
  decodeSlot 0 .glaze i 0xFEF00F837FFB
    = some (.ecvt i { src := 2047, dst := 7942, nblk := 0, sfmt := 3, tfmt := 3, mode := 2, lix := 63 }) ∧
  decodeSlot 0 .move i 0xF8003FFF71 = some (.mvb i 3 1 16383 8192 7 1) ∧
  decodeSlot 0 .sync i 0x0FFFF0 = some (.twait i 4095 15) ∧
  decodeSlot 0 .sync i 0xFFFFF3 = some (.chk i 1023 1 511) ∧
  decodeSlot 0 .array i 0x0500000000100011 = none ∧ decodeSlot 0 .array i 0x0000000000000004 = none ∧
  decodeSlot 0 .sync i 0x000037 = none ∧ decodeSlot 1 .array i 0x00000058000F0013 = none

/-- R543: RESET_N commits no record: what flash holds of the recorder is as it was. -/
def Obligations.ResetCommitsNoRecord : Prop :=
  ∀ (long : Bool) (s : State),
  ∃ t, exec (.resetNAssert long) s = .next t ∧ t.evr.fRecs = s.evr.fRecs ∧ t.evr.fCount = s.evr.fCount ∧ t.evr.fEpoch = s.evr.fEpoch

/-- R548: an access at 0x00F0_0000 + x is an access at 0x0010_0000 + n × 0x0001_0000 + x, n being the partition that the path names; for an operator
session whose header names PTN 12 to 15 it is unmapped. -/
def Obligations.AliasReachesOwnBlock : Prop :=
  ∀ (s : State) (k n x : Nat), x < 0x40 →
  (n < 12 → ∀ p ∈ [Path.operator k n, .partition k n],
    readReg p (0xF00000 + x) s = readReg p (0x100000 + n * 0x10000 + x) s ∧ ∀ v, writeReg p (0xF00000 + x) v s = writeReg p (0x100000 + n * 0x10000 + x) v s) ∧
  (12 ≤ n → n < 16 → readReg (.operator k n) (0xF00000 + x) s = (2, 0, s) ∧ ∀ v, writeReg (.operator k n) (0xF00000 + x) v s = (2, s))

/-- PSEL (R39, R199): the named arrays take the plane at once, or at the end of their running stroke; no other array changes. An array that no later
stroke waits for takes the plane that a PSEL left it at its stroke's end. -/
def Obligations.PselSelectsPlane : Prop :=
  (∀ (i : Iss) (emask amask plane : Nat) (s : State), coreRuns s i false → 0 < emask → emask < 65536 → 0 < amask → amask < 65536 → plane < 16 →
    ∃ t, exec (.psel i emask amask plane) s = .next t ∧ t = { s with arr := { s.arr with sel := t.arr.sel, pend := t.arr.pend } } ∧
      (∀ a, a ∉ namedArrays (sidCore i.sid) emask amask →
        tget 0 t.arr.sel a = tget 0 s.arr.sel a ∧ tget 0 t.arr.pend a = tget 0 s.arr.pend a) ∧
      ∀ a, a ∈ namedArrays (sidCore i.sid) emask amask →
        if arrayBusy s a = true then tget 0 t.arr.sel a = tget 0 s.arr.sel a ∧ tget 0 t.arr.pend a = plane + 1
        else tget 0 t.arr.sel a = plane ∧ tget 0 t.arr.pend a = 0) ∧
  ∀ (eng tree p a : Nat) (dev : Tab Int) (s : State) (k : Stroke) (ks : List Stroke), isEngine eng = true → tree < 4 → tget [] s.arr.strokes eng = k :: ks →
    calm s (coreSid (coreOf eng)) = true → a ∈ k.arrays.map (·.arr) → engineOf a = eng → (∀ q ∈ ks, a ∉ q.arrays.map (·.arr)) →
    ∃ t, exec (.strokeEnd eng dev tree) s = .next t ∧ tget 0 t.arr.pend a = 0 ∧
      (tget 0 s.arr.pend a = p + 1 → tget 0 t.arr.sel a = p) ∧ (tget 0 s.arr.pend a = 0 → tget 0 t.arr.sel a = tget 0 s.arr.sel a)

/-- STRK and STKV (R197, R198, R219): a stroke joins the queue of every engine that EMASK names, one for each verify position with STKV, two for the
pair format; one of a killed lane joins none; a stroke whose BAND names no band stops. NOP of the ARRAY, GLAZE and MOVE slots (R195, R205, R208):
nothing changes. Bundles issue in order (R187, R189, R223): an instruction whose sequencer waits, or whose WAITM classes have not drained, is held
behind the earlier ones; a sequencer that takes no part, or is not in a step, takes none; an operation whose queue holds an earlier one waits in its
queue with the flag segment it issued in. Where the manual is silent it states the model's choices of log entries 20, 49. -/
def Obligations.StrokesJoinQueues : Prop :=
  (∀ (i : Iss) (f : StrokeF) (s : State), isCoreSid i.sid = true →
    (f.band = 4 → exec (.strk i f) s = .fault .noSuchUnit ∧ exec (.stkv i f) s = .fault .noSuchUnit) ∧
    (strokeOk f = true → noReplays s i.sid →
      (runsAt s i false = true → ∃ t, exec (.strk i f) s = .next t ∧ strokesJoin s t i f 1) ∧
      (runsAt s i true = true → widthOk s i = true → ∃ t, exec (.stkv i f) s = .next t ∧ strokesJoin s t i f (curW s i))) ∧
    (strokeOk f = true → takesPart s i.sid = true → issuing s i = true → laneDead s i true = true →
      ∃ t, exec (.stkv i f) s = .next t ∧ changesOnly [.seq] s t)) ∧
  (∀ (i : Iss) (s : State),
  (isSid i.sid = true → exec (.nopa i) s = .next s ∧ exec (.nopm i) s = .next s) ∧ (isCoreSid i.sid = true → exec (.nopg i) s = .next s)) ∧
  (∀ (c : Instr) (s : State), (encodeSlot c).isSome = true → exec c s ≠ .fault .noSuchUnit →
  (takesPart s (slotIss c).sid = false ∨ inStep s (slotIss c) = false → exec c s = .next s) ∧
  (takesPart s (slotIss c).sid = true → inStep s (slotIss c) = true → issuing s (slotIss c) = false →
    ∃ t, exec c s = .next t ∧ t = { s with seq := t.seq } ∧ otherSeqs s t (slotIss c).sid ∧
      seqOf t (slotIss c).sid = { seqOf s (slotIss c).sid with held := (seqOf s (slotIss c).sid).held ++ [c] }) ∧
  (takesPart s (slotIss c).sid = true → issuing s (slotIss c) = true → opClass c &&& 7 ≠ 0 → opsOf (seqOf s (slotIss c).sid) (opClass c) = true →
    exec c s = .next (queued s c (slotIss c))))

/-- STROKE_END (R39, R50, R51, R219): the stroke at the front of the engine's queue leaves it; its flags wait for their report, but a killed lane's
are dropped with its tiles; every tile of a group it drives is ready, under the stroke's plane, and holds what drove it. STROKE_FLAGS_REPORT (R51,
R399): the oldest ended stroke of the engine reports; nonzero flags, and those of a replay stroke, join the flag segments of its sequencer, and each
lone swatch flag is counted. Where the manual is silent it states the model's choices of log entries 56, 87. -/
def Obligations.StrokesEndAndReport : Prop :=
  (∀ (eng tree : Nat) (dev : Tab Int) (s : State) (k : Stroke) (ks : List Stroke), isEngine eng = true → tree < 4 →
    tget [] s.arr.strokes eng = k :: ks → calm s (coreSid (coreOf eng)) = true →
    ∃ t, exec (.strokeEnd eng dev tree) s = .next t ∧
      (∀ e, tget [] t.arr.strokes e = if e = eng then ks else tget [] s.arr.strokes e) ∧
      (∀ e, (tget [] t.arr.waiting e).length
        = (tget [] s.arr.waiting e).length + if e = eng ∧ strokeDropped s k = false then 1 else 0) ∧
      (strokeDropped s k = true → t.core = s.core) ∧
      (strokeDropped s k = false → ∀ g ∈ ownGroups k, (tget Tile.init t.core.ntr (ntrKey eng (k.ntr + g.2))).ready = true ∧
        (tget Tile.init t.core.ntr (ntrKey eng (k.ntr + g.2))).plane = k.plane)) ∧
  (∀ (eng : Nat) (s : State) (f : StrokeFlags) (fs : List StrokeFlags), isEngine eng = true → tget [] s.arr.waiting eng = f :: fs →
    ∃ t, exec (.strokeFlagsReport eng) s = .next t ∧
      (∀ e, tget [] t.arr.waiting e = if e = eng then fs else tget [] s.arr.waiting e) ∧
      t.hist.loneCnt = satAdd 32 s.hist.loneCnt (loneRemoved f) ∧
      (flagByte f ≠ 0 ∨ f.stroke.replay = true → (f.flagIx, f) ∈ (seqOf t f.sid).failed))

/-- ACLR and ACN (R134, R202): COUNT tiles read as zero and the rest of the accumulator banks is as it was; the registers of the core's next stroke
are bound. APRO (R133, R137, R202, R203, R206): when its GCOL is bound and its tile has closed, the tile's runs, in closing order, are promoted with
the bound tables and added to the accumulator tile, where no column of it is replaced; the binding is used up. Until then it waits in its queue. AWID
(R134, R202, R203, R219, R235): the two-sum of each pair of the source tile into the destination tile; a receive slot gives up its arrival credit, the
one its route entries name, and while the credit is missing the operation waits in its queue; a killed transfer adds nothing. Where the manual is
silent it states the model's choices of log entries 49, 89. -/
def Obligations.AccumulatorRows : Prop :=
  (∀ (i : Iss) (s : State),
  (∀ tile count, tile + count ≤ 1024 → coreRunsNow s (.aclr i tile count) i false → ∃ t, exec (.aclr i tile count) s = .next t ∧
      t = { s with core := { s.core with ab := t.core.ab } } ∧
      ∀ a, rdByte t.core.ab a = if abAddr (sidCore i.sid) (offset s i 1 tile) 0 ≤ a ∧ a < abAddr (sidCore i.sid) (offset s i 1 tile) 0 + count * 512
        then 0 else rdByte s.core.ab a) ∧
  (∀ ntrm, ntrm < 256 → coreRuns s i false → ∃ t, exec (.acn i ntrm) s = .next t ∧ t = { s with core := { s.core with acn := t.core.acn } } ∧
      ∀ c, tget 0 t.core.acn c = if c = sidCore i.sid then ntrm else tget 0 s.core.acn c)) ∧
  (∀ (i : Iss) (eng ntr tile vp : Nat) (s : State), isCoreSid i.sid = true → runsNow s (.apro i eng ntr tile vp) i (vp != 0) = true →
  eng < 16 → ntr < 8 → tile < 1024 → vp < 2 → vpOk s i vp = true →
  (aproReady s i eng ntr vp = false → exec (.apro i eng ntr tile vp) s = .next (queued s (.apro i eng ntr tile vp) i)) ∧
  ∀ b, bindOf s (sidCore i.sid) eng = some b →
    (∀ n ∈ aproRegs s i eng ntr vp, (tget Tile.init s.core.ntr (ntrKey (mkEngine (sidCore i.sid) eng) n)).ready = true) →
    ∃ t, exec (.apro i eng ntr tile vp) s = .next t ∧
    tget [] t.core.bind (sidCore i.sid) = dropBind eng (tget [] s.core.bind (sidCore i.sid)) ∧ changesOnly [.core, .free] s t ∧
    t.core.ob = s.core.ob ∧ t.core.ntr = s.core.ntr ∧
    (vp = 0 → ∀ j, j < 64 →
      let e := mkEngine (sidCore i.sid) eng
      let tl := tget Tile.init s.core.ntr (ntrKey e ntr)
      let tin := tget TileIn.init s.core.tin (tileKey e tl.grp tl.plane * 8 + tl.posIx)
      tileMarked s i.sid (offset s i 1 tile) = false →
      (∀ c, replaced s tl.d16 c tl.plane j = false) →
      abGet t (sidCore i.sid) (offset s i 1 tile) j = (tileRuns tl).foldl (fun p r =>
        awidP p (promoteCol s tl.d16 (dirTile s (seqOf s i.sid).canvas (sidCore i.sid) b.tid (tileKey e b.grp b.plane)) tl.plane r
          (match tileArrays tin with | a :: _ => colScale s a tl.plane j | [] => 0) j))
        (abGet s (sidCore i.sid) (offset s i 1 tile) j))) ∧
  (∀ (i : Iss) (dtile srcsp saddr tcnt fold : Nat) (s : State), isCoreSid i.sid = true →
  runsNow s (.awid i dtile srcsp saddr tcnt fold) i false = true → dtile < 1024 → 1 ≤ tcnt → tcnt ≤ 16 → fold < 2 →
  (srcsp = 0 → saddr < 1024 → ∃ t, exec (.awid i dtile srcsp saddr tcnt fold) s = .next t ∧
    abOnly s t (sidCore i.sid) (offset s i 1 dtile) (if fold = 1 then 1 else tcnt) ∧
    (tcnt = 1 → ∀ j, j < 64 → abGet t (sidCore i.sid) (offset s i 1 dtile) j
      = awidP (abGet s (sidCore i.sid) (offset s i 1 dtile) j) (abGet s (sidCore i.sid) (offset s i 1 saddr) j))) ∧
  (srcsp = 1 → saddr < 256 → awidReady s i 1 saddr tcnt = false →
    exec (.awid i dtile srcsp saddr tcnt fold) s = .next (queued s (.awid i dtile srcsp saddr tcnt fold) i)) ∧
  (srcsp = 1 → saddr < 256 → tcnt = 1 → (rxCred s i.sid (offset s i 4 saddr) = 0 ∨
      1 ≤ tget 0 (seqOf s i.sid).cred (credCtr s i.sid (rxCred s i.sid (offset s i 4 saddr)))) →
    ∃ t, exec (.awid i dtile srcsp saddr tcnt fold) s = .next t ∧
    (rxCred s i.sid (offset s i 4 saddr) ≠ 0 → ∀ c, tget 0 (seqOf t i.sid).cred c
      = tget 0 (seqOf s i.sid).cred c - if c = credCtr s i.sid (rxCred s i.sid (offset s i 4 saddr)) then 1 else 0) ∧
    ∀ j, j < 64 → abGet t (sidCore i.sid) (offset s i 1 dtile) j
      = if s.core.rxKill.contains (coreIx (sidCore i.sid) * 256 + offset s i 4 saddr) then abGet s (sidCore i.sid) (offset s i 1 dtile) j
        else awidP (abGet s (sidCore i.sid) (offset s i 1 dtile) j)
          (rdPair s.core.rx (rxBase (sidCore i.sid) + offset s i 4 saddr * 512 + 8 * j))))

/-- RSUM, RMAX, RMIN, RARG, RAND, ROR, RXOR and RCNT (R140, R141, R202, R204): the value of each over the elements of its tiles, then over the
recorded order of cores, stands in the scalar register or in column 0 of the destination tile, and nothing else changes. Where the manual is silent it
states the model's choices of log entry 25. -/
def Obligations.ReductionResults : Prop :=
  ∀ (i : Iss) (f : RedF) (s : State), isCoreSid i.sid = true → redOk f = true →
  (∀ sq, sq < 2 → runsNow s (.rsum i f sq) i false = true → ∃ t, exec (.rsum i f sq) s = .next t ∧ redDone s t i f (redSum sq) awidP) ∧
  (runsNow s (.rmax i f) i false = true →
  (∃ t, exec (.rmax i f) s = .next t ∧
    redDone s t i f (fun es => ⟨fold1 maxW negInf (es.map fun e => readF32 e.1), 0⟩) (fun a b => ⟨maxW a.s b.s, 0⟩)) ∧
  (∃ t, exec (.rmin i f) s = .next t ∧
    redDone s t i f (fun es => ⟨fold1 minW posInf (es.map fun e => readF32 e.1), 0⟩) (fun a b => ⟨minW a.s b.s, 0⟩)) ∧
  (∃ t, exec (.rarg i f) s = .next t ∧
    redDone s t i f
      (fun es => let r := fold1 argBetter (negInf, 0) (es.map fun e => (readF32 e.1, e.2))
        ⟨if nan32 r.1 then canonNan else r.1, BitVec.ofNat 32 r.2⟩)
      (fun a b => let r := argBetter (a.s, a.c.toNat) (b.s, b.c.toNat); ⟨r.1, BitVec.ofNat 32 r.2⟩)) ∧
  (∃ t, exec (.rand i f) s = .next t ∧
    redDone s t i f (fun es => ⟨fold1 (· &&& ·) 0 (es.map fun e => e.1.s), 0⟩) (fun a b => ⟨a.s &&& b.s, 0⟩)) ∧
  (∃ t, exec (.ror i f) s = .next t ∧
    redDone s t i f (fun es => ⟨fold1 (· ||| ·) 0 (es.map fun e => e.1.s), 0⟩) (fun a b => ⟨a.s ||| b.s, 0⟩)) ∧
  (∃ t, exec (.rxor i f) s = .next t ∧
    redDone s t i f (fun es => ⟨fold1 (· ^^^ ·) 0 (es.map fun e => e.1.s), 0⟩) (fun a b => ⟨a.s ^^^ b.s, 0⟩)) ∧
  (∃ t, exec (.rcnt i f) s = .next t ∧
    redDone s t i f (fun es => ⟨BitVec.ofNat 32 (es.foldl (fun n e => n + popc e.1.s) 0), 0⟩) (fun a b => ⟨a.s + b.s, 0⟩)))

/-- GCOL, GOUT, GACT and GLR (R153, R157, R162, R168, R174, R206): GCOL binds its engine, group, plane and table behind the core's earlier bindings;
GOUT, GACT and GLR PH 1 change only the accumulator tiles of the positions they cover, and a tile with no listed weight, no channel, or no low-rank
table not at all; GLR PH 0 changes no accumulator, and its bundle's stroke is marked for a replay. GTNT (R175, R176, R218): a lane bound to a tint
whose version is not resident stops the sequencer with SEQ_FAULT; a lane without a tint is left alone; PH 0 forms one partial for each rank and
position, and changes no accumulator; PH 1 changes only the tiles of its positions. Where the manual is silent it states the model's choices of log
entries 23, 24, 88, 90, 91. -/
def Obligations.TileTermRows : Prop :=
  (∀ (i : Iss) (f : GlzF) (s : State), isCoreSid i.sid = true → glzOk f = true →
  (runsAt s i (f.vp != 0) = true → calm s i.sid = true → f.tile = 0 → f.ph = 0 → ∃ t, exec (.gcol i f) s = .next t ∧
    t = { s with core := { s.core with bind := t.core.bind } } ∧
    ∀ c, tget [] t.core.bind c = if c = sidCore i.sid then tget [] s.core.bind c ++ [{ eng := f.eng, grp := f.grp, plane := f.plane, tid := f.tid }]
      else tget [] s.core.bind c) ∧
  (runsNow s (.gout i f) i (f.vp != 0) = true → vpOk s i f.vp = true →
    (f.ph = 0 → (∃ t, exec (.gout i f) s = .next t ∧ abOnly s t (sidCore i.sid) (offset s i 1 f.tile) (vpCount s i f.vp) ∧
        (tget ([], []) s.glz.outl (glzTab s i f) = ([], []) → t = s)) ∧
      (∃ t, exec (.gact i f) s = .next t ∧ abOnly s t (sidCore i.sid) (offset s i 1 f.tile) (vpCount s i f.vp) ∧
        (channels s (lixSet s i.sid f.lix) = [] → t = s))) ∧
    (f.ph = 0 → f.eng = 0 → f.grp = 0 → f.tile = 0 → ∃ t, exec (.glr i f) s = .next t ∧ t.core.ab = s.core.ab ∧ changesOnly [.core, .seq] s t ∧
      (seqOf t i.sid).glrAt = (seqOf s i.sid).glrAt ++ [glrKey i.seg (ordOf (seqOf s i.sid) i.seg - 1)]) ∧
    (f.ph = 1 → ∃ t, exec (.glr i f) s = .next t ∧ abOnly s t (sidCore i.sid) (offset s i 1 f.tile) (vpCount s i f.vp) ∧
        ((tget GlrTab.init s.glz.glr (glzTab s i f)).k = 0 → t = s)))) ∧
  (∀ (i : Iss) (f : GlzF) (s : State) (l : Lane) (p : Nat), glazeRuns s i true → glzOk f = true →
  opsOf (seqOf s i.sid) 6 = false → vpOk s i f.vp = true → curLane s i = some (l, p) →
  (tintMissing s l = true → ∃ t, exec (.gtnt i f) s = .next t ∧ (seqOf t i.sid).phase = 2 ∧ t.core = s.core ∧
    ∃ tok : Token, tok.kind = 11 ∧ tok.src = i.sid ∧ (schedSid, tok) ∈ t.seq.sent) ∧
  (l.tbound = false → exec (.gtnt i f) s = .next s) ∧
  (∀ q, tintMissing s l = false → tintPair s l f.tid = some q →
    (f.ph = 0 → ∃ t, exec (.gtnt i f) s = .next t ∧ t = { s with core := { s.core with tintH := t.core.tintH } } ∧
      ∀ n, n < vpCount s i f.vp → (tget ([], []) t.core.tintH (hKey (sidCore i.sid) f.tid l.lane n)).2.length = q.rank) ∧
    (f.ph = 1 → ∃ t, exec (.gtnt i f) s = .next t ∧ abOnly s t (sidCore i.sid) (offset s i 1 f.tile) (vpCount s i f.vp))))

/-- ENORM, EACT, EMUL, EADD and EROT (R192, R205, R207): each result, computed from the operands as they were before, stands in OB in the format TY
names; nothing else changes. Where the manual is silent it states the model's choices of log entries 5, 6, 26, 51. -/
def Obligations.ElementResults : Prop :=
  ∀ (i : Iss) (f : ElF) (s : State), elOk f = true →
  (glazeRuns s i false →
    (∀ sr lix, sr < 8 → lix < 64 → ∃ t, exec (.enorm i f sr lix) s = .next t ∧ elDone s t i f fun k =>
      let r := lixOf s i.sid lix
      fdiv (fmul (elArg s i f f.src k) (bfToF32 (rdHalf s.core.sram (sramBase i.sid + r.gain * 2048 + 2 * k))))
        (fsqrt (fadd (fdiv (readF32 (tget Pair.zero s.core.sr (coreIx (sidCore i.sid) * 8 + sr))) (toF32 (dyOfInt r.len))) r.eps))) ∧
    (∃ t, exec (.eact i f 0) s = .next t ∧ elDone s t i f fun k => siluW (elArg s i f f.src k)) ∧
    (∃ t, exec (.eact i f 1) s = .next t ∧ elDone s t i f fun k => geluW (elArg s i f f.src k)) ∧
    (∃ t, exec (.eact i f 2) s = .next t ∧ elDone s t i f fun k =>
      let x := elArg s i f f.src k
      if nan32 x then mkNan x x else if fLt 0 x then fmul x x else 0) ∧
    (∃ t, exec (.eact i f 3) s = .next t ∧ elDone s t i f fun k => elArg s i f f.src k) ∧
    (∀ srcb, srcb < 2048 →
      (∃ t, exec (.emul i f srcb) s = .next t ∧ elDone s t i f fun k => fmul (elArg s i f f.src k) (elArg s i f srcb k)) ∧
      (∃ t, exec (.eadd i f srcb) s = .next t ∧ elDone s t i f fun k => fadd (elArg s i f f.src k) (elArg s i f srcb k)))) ∧
  (glazeRuns s i true → ∀ fid pair, fid < 1024 → pair < 2 → ∃ t, exec (.erot i f fid pair) s = .next t ∧ elDone s t i f fun k =>
    let r := rotPair pair k
    let w := nth 0 (tget [] s.glz.freq ((seqOf s i.sid).canvas * 1024 + fid)) r.2.2
    if r.2.1 then (rotateW (elArg s i f f.src k) (elArg s i f f.src r.1) (curPos s i) w).1
    else (rotateW (elArg s i f f.src r.1) (elArg s i f f.src k) (curPos s i) w).2)

/-- ECVT (R121 to R125, R145, R167): every block stands in its IB slots with the exponent of its mode, an A8 target in two slots; every slot records
the checkpoint values it came from; no other byte of the memories changes. Where the manual is silent it states the model's choices of log entries 34,
50, 93, 105. -/
def Obligations.EcvtWritesBlocks : Prop :=
  ∀ (i : Iss) (f : EcvtF) (s : State), glazeRuns s i false →
  f.src < 2048 → f.dst < 7943 → f.nblk < 256 → f.sfmt < 4 → f.tfmt < 4 → f.mode < 3 → f.lix < 64 →
  let core := sidCore i.sid
  let l := lixOf s i.sid f.lix
  let n := len256 f.nblk
  let first := ibBase core + 33 * offset s i 3 f.dst
  ∃ t, exec (.ecvt i f) s = .next t ∧
    (∀ b, b < n → ∀ k, k < 33 * ecvtDigits f → rdByte t.core.ib (first + 33 * ecvtDigits f * b + k)
      = nth 0 (outBlocks f.tfmt (modeExp ((List.range n).map (ecvtSrc s i f)) (qOf f.tfmt) f.mode l.group l.pred b) (ecvtSrc s i f b)).1.flatten k) ∧
    (∀ b, b < n → ∀ k, k < ecvtDigits f → provOf t core (offset s i 3 f.dst + ecvtDigits f * b + k)
      = (ckptAddr s i.sid f.lix (curLaneNo s i) + 1, ecvtKey s i f, inputIx l b, b)) ∧
    (∀ a, a < first ∨ first + 33 * ecvtDigits f * n ≤ a → rdByte t.core.ib a = rdByte s.core.ib a) ∧
    t = { s with core := { s.core with ib := t.core.ib, prov := t.core.prov }, glz := { s.glz with rep := t.glz.rep } }

/-- MVB and MCK (R145, R194, R209): the bytes of the source stand at the destination, or at the checkpoint of the current lane, and no other byte of a
memory changes. MVF and MVK (R25, R136, R209, R219, R264): one transfer along the route, with the step tag and, for a killed lane, no bytes and a kill
mark; for MVK one transfer for each position, to the cluster of an attention die that holds the position's page. FABRIC_DELIVERY (R24, R219, R242):
the oldest transfer between the two units leaves the fabric; its bytes land where it says when its step and attempt are the receiver's, and otherwise
nothing does. Where the manual is silent it states the model's choices of log entries 27, 50, 92. -/
def Obligations.MovesAndTransfers : Prop :=
  ((∀ (i : Iss) (ssp dsp saddr daddr len ty : Nat) (s : State), runsAt s i false = true → spaceOk i.sid ssp = true → spaceOk i.sid dsp = true →
    inSpace i.sid ssp saddr = true → inSpace i.sid dsp daddr = true → len < 8 → ty < 2 →
    ∃ t, exec (.mvb i ssp dsp saddr daddr len ty) s = .next t ∧ changesOnly [.core] s t ∧
      bytesAt (spaceMem s dsp) (spaceMem t dsp) (spaceByte i.sid dsp (offset s i dsp daddr))
        (moveBytes s i.sid ssp (offset s i ssp saddr) (moveLen dsp len) (ty == 1)) ∧
      ∀ sp, sp < 5 → sp ≠ dsp → spaceMem t sp = spaceMem s sp) ∧
  (∀ (i : Iss) (ssp saddr len lix : Nat) (s : State), coreRuns s i true → ssp < 4 → inSpace i.sid ssp saddr = true → len < 8 → lix < 64 →
    ∃ t, exec (.mck i ssp saddr len lix) s = .next t ∧ t = { s with core := { s.core with sram := t.core.sram, ckForm := t.core.ckForm } } ∧
      bytesAt s.core.sram t.core.sram (ckptAddr s i.sid lix (curLaneNo s i))
        (moveBytes s i.sid ssp (offset s i ssp saddr) (128 * 2 ^ len) false) ∧
      ∀ c, tget false t.core.ckForm c = if c = ckptAddr s i.sid lix (curLaneNo s i) then ssp == 1 else tget false s.core.ckForm c)) ∧
  ((∀ (i : Iss) (ssp saddr route len ty : Nat) (s : State) (d sp a c : Nat), seqRuns s i = true → spaceOk i.sid ssp = true →
    inSpace i.sid ssp saddr = true → route < 1024 → len ≤ 12 → ty < 2 → routeOf s i.sid route = some (d, sp, a, c) →
    ∃ t x, exec (.mvf i ssp saddr route len ty) s = .next t ∧ t = { s with seq := { s.seq with fabric := s.seq.fabric ++ [x] } } ∧
      x.src = i.sid ∧ x.dst = d ∧ x.space = sp ∧ x.addr = a ∧ x.cred = c ∧ x.step = (seqOf s i.sid).step ∧ x.att = (seqOf s i.sid).att ∧
      x.kill = laneDead s i false ∧ x.tent = true ∧
      x.bytes = if laneDead s i false then [] else if ssp = 1 ∧ ty = 0 then rdBytes s.core.ab (spaceByte i.sid 1 (offset s i ssp saddr)) (moveLen sp len)
        else moveBytes s i.sid ssp (offset s i ssp saddr) (moveLen sp len) true) ∧
  (∀ (i : Iss) (ssp saddr layer kind vp : Nat) (s : State) (l : Lane) (p : Nat), coreRuns s i true → ssp < 4 → inSpace i.sid ssp saddr = true →
    layer < 128 → kind < 3 → vp < 2 → vpOk s i vp = true → curLane s i = some (l, p) →
    ∃ t xs, exec (.mvk i ssp saddr layer kind vp) s = .next t ∧ t = { s with seq := { s.seq with fabric := s.seq.fabric ++ xs }, free := t.free } ∧
      xs.length = vpCount s i vp ∧
      ∀ k x, xs[k]? = some x → x.src = i.sid ∧ isAttSid x.dst = true ∧ sidCl x.dst = (l.pos + p + k) / 256 % 4 ∧ x.layer = layer ∧ x.tent = true ∧ x.bytes.length = mvkLen kind)) ∧
  (∀ (ix : Nat) (s : State) (x0 x : Xfer), s.seq.fabric[ix]? = some x0 →
  s.seq.fabric[fabricFirst s x0]? = some x → calm s x0.dst = true →
  x.src = x0.src ∧ x.dst = x0.dst ∧ fabricFirst s x0 ≤ ix ∧
  ∃ t, exec (.fabricDelivery ix) s = .next t ∧ t.seq.fabric = s.seq.fabric.eraseIdx (fabricFirst s x0) ∧
    (xferCurrent s x = false → t = { s with seq := { s.seq with fabric := t.seq.fabric } }) ∧
    (xferCurrent s x = true → x.kill = true → changesOnly [.core, .seq, .free] s t ∧ ∀ sp, sp < 5 → spaceMem t sp = spaceMem s sp) ∧
    (xferCurrent s x = true → x.kill = false → x.space < 5 →
      bytesAt (spaceMem s x.space) (spaceMem t x.space) (spaceByte x.dst x.space x.addr) x.bytes))

/-- TWAIT, TSEND and CRED (R211, R234, R235): a wait takes its tokens or credits and goes on, or holds its sequencer and takes none; TSEND and a
credit return send a token to each destination of the channel; no other sequencer changes. Where the manual is silent it states the model's choices of
log entries 48, 49. -/
def Obligations.WaitsAndTokens : Prop :=
  ∀ (i : Iss) (s : State), seqRuns s i = true →
  (exec (.twait i 0 0) s = .next s) ∧
  (∀ tch count, 1 ≤ tch → tch < 4096 → 1 ≤ count → count ≤ 15 →
    ∃ t, exec (.twait i tch count) s = .next t ∧ changesOnly [.seq] s t ∧ otherSeqs s t i.sid ∧
      (∀ c, tget 0 (seqOf t i.sid).tok c = tget 0 (seqOf s i.sid).tok c
        - if c = tokCtr s i.sid tch ∧ count ≤ tget 0 (seqOf s i.sid).tok c then count else 0) ∧
      (seqOf t i.sid).wait = if count ≤ tget 0 (seqOf s i.sid).tok (tokCtr s i.sid tch) then .none else .tokens (tokCtr s i.sid tch) count) ∧
  (∀ cch n, 1 ≤ cch → cch < 4096 → 1 ≤ n → n ≤ 15 →
    (∃ t, exec (.cred i cch 0 n) s = .next t ∧ changesOnly [.seq] s t ∧ otherSeqs s t i.sid ∧
      (∀ c, tget 0 (seqOf t i.sid).cred c = tget 0 (seqOf s i.sid).cred c
        - if c = credCtr s i.sid cch ∧ n ≤ tget 0 (seqOf s i.sid).cred c then n else 0) ∧
      (seqOf t i.sid).wait = if n ≤ tget 0 (seqOf s i.sid).cred (credCtr s i.sid cch) then .none else .credits (credCtr s i.sid cch) n) ∧
    (∃ t, exec (.cred i cch 1 n) s = .next t ∧ changesOnly [.seq] s t ∧ otherSeqs s t i.sid ∧
      tokensSent s t i.sid 1 (cch + n * 4096) (chanDests s i.sid (4096 + cch)))) ∧
  (∀ tch, 1 ≤ tch → tch < 4096 → ∃ t, exec (.tsend i tch) s = .next t ∧ changesOnly [.seq] s t ∧ otherSeqs s t i.sid ∧
    tokensSent s t i.sid 0 tch (chanDests s i.sid tch))

/-- FLOR, STEP, RPLW and CSUM (R211, R243, R246, R398): FLOR closes the open flag segment with the flags of its checks; STEP closes an open one and
sends the step-done token; RPLW opens the next replay window of its segment, or closes it; CSUM, once the strokes of its register have ended, enters a
difference of the tree as a flag of the tile's stroke. Where the manual is silent it states the model's choices of log entry 49. -/
def Obligations.FlagSegmentsAndSteps : Prop :=
  ∀ (i : Iss) (s : State),
  (seqRuns s i = true →
    (∃ t, exec (.flor i) s = .next t ∧ changesOnly [.seq] s t ∧ otherSeqs s t i.sid ∧ (seqOf t i.sid).curSeg = none ∧ (seqOf t i.sid).chkFlags = 0 ∧
      (seqOf t i.sid).flagIx = (seqOf s i.sid).flagIx + 1 ∧
      (seqOf t i.sid).segs = (seqOf s i.sid).segs ++ [((seqOf s i.sid).flagIx, i.seg, (seqOf s i.sid).chkFlags)]) ∧
    (∃ t, exec (.step i) s = .next t ∧ changesOnly [.seq] s t ∧ otherSeqs s t i.sid ∧ (seqOf t i.sid).phase = 3 ∧
      ((seqOf s i.sid).curSeg.isSome = true → (seqOf t i.sid).curSeg = none ∧ (seqOf t i.sid).segs.length = (seqOf s i.sid).segs.length + 1) ∧
      tokensSent s t i.sid 3 0 [schedSid])) ∧
  (seqRuns s i = true → ∀ close, close < 2 →
    ∃ t, exec (.rplw i close) s = .next t ∧ changesOnly [.seq] s t ∧ otherSeqs s t i.sid ∧
      seqOf t i.sid = { enterSeg i.seg (seqOf s i.sid) with
        window := close == 0, winNo := winIndex (seqOf s i.sid) i.seg + if close = 0 then 1 else 0 }) ∧
  (∀ emask ntr, coreRunsNow s (.csum i emask ntr) i false → csumReady s i emask ntr = true → emask < 65536 → ntr < 8 →
    ∃ t, exec (.csum i emask ntr) s = .next t ∧ changesOnly [.seq] s t ∧ otherSeqs s t i.sid ∧ (seqOf t i.sid).curSeg = some i.seg ∧
      (seqOf t i.sid).failed.length = (seqOf s i.sid).failed.length + ((maskBits emask 16).filter fun e =>
        (tget none s.arr.tileFl (ntrKey (mkEngine (sidCore i.sid) e) ntr)).isSome &&
          tget 0 s.arr.treeErr (ntrKey (mkEngine (sidCore i.sid) e) ntr) != 0).length)

/-- CHK (R182 to R184, R402, R403): a check reads its tiles and changes no value; a lane without a tint moves its estimate; its flags join those of
the open segment with the tile's name, but for a tile computed in D16, whose flag is suppressed and, for finite values, whose estimate is reset at
commit. FLAG_SEGMENT_CLOSE (R243, R245): once every stroke of the segment has ended and reported, the segment closes and its flags go to the scheduler
core in a SEGMENT token; a segment without a flag changes nothing but its sequencer. REPLAY_SLOT (R219, R238, R247 to R251): outside a window, with no
entry left for the window, or past the window's slots a replay slot does nothing; the next entry is marked as issued, and its strokes join its
engine's queue or its kept tile returns to its register; one of a killed lane is empty. Where the manual is silent it states the model's choices of
log entries 28, 37, 49, 94. -/
def Obligations.ChecksAndReplay : Prop :=
  (∀ (i : Iss) (tile vp eid : Nat) (s : State) (l : Lane) (p : Nat), coreRuns s i true → tile < 1024 → vp < 2 →
  eid < 512 → vpOk s i vp = true → curLane s i = some (l, p) →
  let key := envKey s i.sid eid
  let e := tget Envelope.init s.glz.env key
  let r := chkRun s (sidCore i.sid) (offset s i 1 tile) e l.tbound (vpList s i vp) (varNow s key)
  ∃ t, exec (.chk i tile vp eid) s = .next t ∧ t.core = s.core ∧ (seqOf t i.sid).curSeg = some i.seg ∧
    (l.tbound = false → tget none t.glz.varNew key = some (r.2.1, i.seg)) ∧
    (l.tbound = true → t.glz.varNew = s.glz.varNew) ∧
    (r.1 = 0 → changesOnly [.glz, .seq] s t ∧ (seqOf t i.sid).chkFlags = (seqOf s i.sid).chkFlags) ∧
    (r.1 ≠ 0 → tileMarked s i.sid (offset s i 1 tile) = false → changesOnly [.glz, .seq] s t ∧
      (seqOf t i.sid).chkFlags = (seqOf s i.sid).chkFlags ||| r.1 ∧
      (seqOf t i.sid).envTile = (seqOf s i.sid).envTile ++ [(offset s i 1 tile, eid)]) ∧
    (r.1 ≠ 0 → tileMarked s i.sid (offset s i 1 tile) = true → (seqOf t i.sid).chkFlags = (seqOf s i.sid).chkFlags ∧
      (r.2.2 = true → t.glz.varReset = s.glz.varReset ++ [(key, bfToF32 e.vinit)]))) ∧
  (∀ (sid fx seg chk : Nat) (s : State), isSid sid = true →
  (seqOf s sid).segs.find? (·.1 == fx) = some (fx, seg, chk) →
  (segKnown s sid fx = false → exec (.flagSegmentClose sid fx) s = .next s) ∧
  (segKnown s sid fx = true → planesUp s →
    let xs := ((seqOf s sid).failed.filter (·.1 == fx)).map (·.2)
    let fl := xs.foldl (fun a x => a ||| flagByte x) chk
    ∃ t tok, exec (.flagSegmentClose sid fx) s = .next t ∧ (∀ x ∈ (seqOf t sid).segs, x.1 ≠ fx) ∧ (∀ x ∈ (seqOf t sid).failed, x.1 ≠ fx) ∧
      (schedSid, tok) ∈ t.seq.sent ∧ tok.kind = 4 ∧ tok.src = sid ∧ tok.arg = fl % 256 + seg * 256 + fx % 4096 * 32768 ∧
      (chk = 0 → xs = [] → changesOnly [.seq] s t ∧ t.seq.sent.length = s.seq.sent.length + 2))) ∧
  (∀ (i : Iss) (s : State), isCoreSid i.sid = true → takesPart s i.sid = true → issuing s i = true → calm s i.sid = true →
  ((seqOf s i.sid).window = false ∨ (∀ r ∈ (seqOf s i.sid).replays, r.seg ≠ i.seg ∨ r.kind = 4 ∨ r.issued = true) → exec (.replaySlot i) s = .next s) ∧
  (∀ r, nextEntry s i = some r → r ∈ (seqOf s i.sid).replays ∧ r.issued = false ∧ r.seg = i.seg ∧
    ∃ t, exec (.replaySlot i) s = .next t ∧ changesOnly [.arr, .core, .seq, .free] s t ∧ otherSeqs s t i.sid ∧
      (seqOf t i.sid).replays = ((seqOf s i.sid).replays.map fun q => if sameGroup r q && q.kind == r.kind then { q with issued := true } else q) ∧
      (r.desc = true → r.lane ∈ (seqOf s i.sid).killed → t.arr = s.arr ∧ t.core = s.core) ∧
      ((r.desc = false ∨ r.lane ∉ (seqOf s i.sid).killed) → r.kept = none → (r.glr = false → t.core = s.core) ∧ ∀ e, tget [] t.arr.strokes e
        = if e = r.engine then tget [] s.arr.strokes e ++ (replayStrokes s i r).filter (fun k => !k.arrays.isEmpty) else tget [] s.arr.strokes e) ∧
      (∀ x, (r.desc = false ∨ r.lane ∉ (seqOf s i.sid).killed) → r.kept = some x → t.arr = s.arr ∧ ∀ n, tget Tile.init t.core.ntr n
        = if n = ntrKey r.engine r.ntr then { x.1 with ready := true } else tget Tile.init s.core.ntr n)))

/-- SCORE (R218, R276, R280, R286): the scores of every row over the pages read stand in the score buffer, negative infinity where the mask hides a
slot; a run that would pass the last buffer, or a walk that fails, stops the sequencer instead. Where the manual is silent it states the model's
choices of log entry 31. -/
def Obligations.ScoreRows : Prop :=
  ∀ (i : Iss) (kvh layer qaddr sbuf mask nqh : Nat) (s : State) (l : Lane), attRuns s i l →
  attOk kvh layer qaddr mask nqh = true → sbuf < 16 → planesUp s →
  (attPages s i.sid l layer mask = none → ∃ t, exec (.score i kvh layer qaddr sbuf mask nqh) s = .next t ∧
    (seqOf t i.sid).phase = 2 ∧ t.kv.sbuf = s.kv.sbuf ∧ ∃ tok : Token, (schedSid, tok) ∈ t.seq.sent ∧ tok.kind = 11) ∧
  ∀ ps : List (Nat × Leaf), attPages s i.sid l layer mask = some ps →
  (131072 * (16 - sbuf) < nqh * l.npos * (256 * ps.length) → ∃ t, exec (.score i kvh layer qaddr sbuf mask nqh) s = .next t ∧
    (seqOf t i.sid).phase = 2 ∧ t.kv.sbuf = s.kv.sbuf ∧ ∃ tok : Token, (schedSid, tok) ∈ t.seq.sent ∧ tok.kind = 11 ∧ tok.arg = 0x23) ∧
  (nqh * l.npos * (256 * ps.length) ≤ 131072 * (16 - sbuf) → ∃ t, exec (.score i kvh layer qaddr sbuf mask nqh) s = .next t ∧
    changesOnly [.seq, .kv] s t ∧ lamOf t i.sid sbuf = 256 * ps.length ∧
    (∀ p h x j leaf k, p < l.npos → h < nqh → ps[x]? = some (j, leaf) → k < 256 →
      scoreAt t i.sid sbuf (256 * ps.length) (p * nqh + h) (256 * x + k)
        = if visible s (attDie i.sid) l (attMode s l layer mask) (attWin s l layer) p (256 * j + k) then
            scoreOf s i.sid (offset s i 2 qaddr) (p * nqh + h) (attDie i.sid) leaf kvh k else negInf) ∧
    ∀ a, a < sbufAddr i.sid sbuf ∨ sbufAddr i.sid sbuf + 4 * (nqh * l.npos * (256 * ps.length)) ≤ a → rdByte t.kv.sbuf a = rdByte s.kv.sbuf a)

/-- SNORM (R281, R282): probabilities go to the working SRAM and (m, Z) of each row behind the scores, and no other byte changes; with a single row
they are those of the die's four clusters. SMIX (R283): the output pair of every row and element stands in the working SRAM, and no other byte of it
changes. KVPUT (R269, R270): a position whose page lies in another cluster writes nothing; one FP8 position writes its 128 keys and values under the
page's scales, which the first write of the attempt into an open page sets. Where the manual is silent it states the model's choices of log entries
29, 30, 32, 33, 106. -/
def Obligations.AttentionRows : Prop :=
  (∀ (i : Iss) (sbuf paddr nqh : Nat) (s : State) (l : Lane), attRuns s i l → attOk 0 0 paddr 0 nqh = true → sbuf < 16 →
  let lam := lamOf s i.sid sbuf
  let rows := nqh * l.npos
  let tail := sbufAddr i.sid sbuf + 4 * rows * lam
  let m := rowStats s i.sid sbuf 0
  ∃ t, exec (.snorm i sbuf paddr nqh) s = .next t ∧ changesOnly [.core, .glz, .kv] s t ∧
    (∀ a, a < attAddr i.sid (offset s i 2 paddr) ∨ attAddr i.sid (offset s i 2 paddr) + 2 * rows * lam ≤ a → rdByte t.core.sram a = rdByte s.core.sram a) ∧
    (∀ a, a < tail ∨ tail + 8 * rows ≤ a → rdByte t.kv.sbuf a = rdByte s.kv.sbuf a) ∧
    (rows = 1 → rdWord t.kv.sbuf tail = m.1 ∧ rdWord t.kv.sbuf (tail + 4) = m.2 ∧
      ∀ k, k < lam → rdHalf t.core.sram (attAddr i.sid (offset s i 2 paddr) + 2 * k)
        = if m.1 = negInf then 0 else probOf (expScore (scoreAt s i.sid sbuf lam 0 k) m.1) m.2)) ∧
  (∀ (i : Iss) (kvh layer paddr oaddr mask nqh : Nat) (s : State) (l : Lane) (ps : List (Nat × Leaf)), attRuns s i l →
  attOk kvh layer paddr mask nqh = true → oaddr < 65536 → attPages s i.sid l layer mask = some ps →
  ∃ t, exec (.smix i kvh layer paddr oaddr mask nqh) s = .next t ∧ changesOnly [.core, .seq, .kv] s t ∧
    t.core = { s.core with sram := t.core.sram } ∧
    (∀ p h d, p < l.npos → h < nqh → d < 128 → rdPair t.core.sram (attAddr i.sid (offset s i 2 oaddr) + 1024 * (p * nqh + h) + 8 * d)
      = mixElem s i (offset s i 2 paddr) (256 * ps.length) (p * nqh + h) kvh (attMode s l layer mask) (attWin s l layer) l ps p d) ∧
    ∀ a, a < attAddr i.sid (offset s i 2 oaddr) ∨ attAddr i.sid (offset s i 2 oaddr) + 1024 * (l.npos * nqh) ≤ a → rdByte t.core.sram a = rdByte s.core.sram a) ∧
  (∀ (i : Iss) (kvh layer kaddr : Nat) (s : State) (l : Lane) (p : Leaf), attRuns s i l →
  attOk kvh layer kaddr 0 1 = true → laneInWindow s l = true → l.npos = 1 →
  let n := attDie i.sid
  let j := l.ctx / 256
  let key := (i.sid, l.lane, layer * 2048 + j, kvh)
  (j % 4 ≠ attCl i.sid → exec (.kvput i kvh layer kaddr) s = .next s) ∧
  (j % 4 = attCl i.sid → walkPage s n l.ptn l.ptroot layer j = .at p → p.mx = false →
    p.addr + 96 ≤ nearAddr n p.frame 0 ∨ nearAddr n p.frame 0 + 524288 ≤ p.addr →
    ∃ t, exec (.kvput i kvh layer kaddr) s = .next t ∧ t.core = s.core ∧ (n, l.lane, layer, j) ∈ t.kv.wrote ∧
      (∀ kind d, kind < 2 → d < 128 → rdByte t.kv.near (nearAddr n p.frame (elemOff p kvh kind (l.ctx % 256) 0) + d)
        = (fp8Elem (kvIn s i.sid (offset s i 2 kaddr) 0 kind d) (pageScale t p kvh kind)).1) ∧
      (opensPage s p key = false → pageScale t p kvh 0 = pageScale s p kvh 0 ∧ pageScale t p kvh 1 = pageScale s p kvh 1) ∧
      (opensPage s p key = true →
        pageScale t p kvh 0 = newScale (nth 0 (attnRec s l.canvas layer).kscl (kvh * 8 + n)) (pageMax s i.sid (offset s i 2 kaddr) 0 [0]) ∧
        pageScale t p kvh 1 = newScale (nth 0 (attnRec s l.canvas layer).vscl (kvh * 8 + n)) (pageMax s i.sid (offset s i 2 kaddr) 1 [0]))))

/-- SAMP, VRFY and SKDR (R215, R304, R311, R312, R317): the token drawn or the greedy one becomes the lane's verdict; VRFY keeps the accepted path
with its bonus token and writes its 64-byte record; SKDR keeps a draft and writes its records, unless the lane asks for no proposals of the sketch.
Where the manual is silent it states the model's choices of log entry 44. -/
def Obligations.HeadVerdicts : Prop :=
  ∀ (i : Iss) (s : State) (l : Lane) (c : StepRec), headRuns s i l → s.sch.cur = some c →
  (∀ laddr pos, laddr < 65536 → pos < 8 →
    let ls := penalisedAll l.ctl (presentAt s l pos) (logits s l.canvas (offset s i 2 laddr) (if 2 ≤ l.w then pos else 0))
    ∃ t v, exec (.samp i laddr pos) s = .next t ∧
      t = { s with sch := { s.sch with cur := some { c with verdicts := c.verdicts.filter (·.lane != l.lane) ++ [v] } } } ∧
      v.lane = l.lane ∧ v.acc = 0 ∧ v.toks = [v.bonus] ∧
      v.bonus = if (bfDy l.ctl.temp).m = 0 then greedy ls
        else drawTok ls.length (genBits l.ctl.seed (sampleIndex l pos)) (filtered l.ctl (expAll l.ctl.temp ls))) ∧
  (∀ laddr daddr tree, laddr < 65536 → daddr < 65536 → tree < 2 → widthOk s i = true →
    let w := vrfyWalk s { l with ctl := { l.ctl with tree := tree } } (offset s i 2 laddr) 0 [0] 8
    ∃ t v, exec (.vrfy i laddr daddr tree) s = .next t ∧ changesOnly [.core, .sch] s t ∧
      t.sch.cur = some { c with verdicts := c.verdicts.filter (·.lane != l.lane) ++ [v] } ∧
      v.lane = l.lane ∧ v.path = w.1 ∧ v.acc + 1 = w.1.length ∧ v.bonus = w.2 ∧ v.toks = (w.1.drop 1).map (fun k => nth 0 l.inputs k) ++ [w.2] ∧
      bytesAt s.core.sram t.core.sram (headAddr i.sid (offset s i 2 daddr)) (vrfyBytes v)) ∧
  (∀ nprop tree daddr cands, 1 ≤ nprop → nprop ≤ (if tree = 1 then 16 else 8) → tree < 2 → daddr < 65536 →
    (l.ctl.nprop < 2 ∨ l.ctl.psrc = 1 → exec (.skdr i nprop tree daddr cands) s = .next s) ∧
    (2 ≤ l.ctl.nprop → l.ctl.psrc ≠ 1 → ∃ t, exec (.skdr i nprop tree daddr cands) s = .next t ∧ changesOnly [.core, .head] s t ∧
      tget [] t.head.drafts l.lane = draftOf (min nprop l.ctl.nprop) tree cands ∧ (tget [] t.head.drafts l.lane).length ≤ min nprop l.ctl.nprop ∧
      bytesAt s.core.sram t.core.sram (headAddr i.sid (offset s i 2 daddr)) (draftBytes (tget [] t.head.drafts l.lane))))

/-- Every token travels twice and in order (R28, R237): the second copy only leaves the network, one still behind another of its source does not
arrive yet, and a token of another step or attempt only leaves the network and is noted (R242). The 96 bits of a token (R232) spell it again. SYNC,
CREDIT, RETRACT, RESUME and LANE_KILL of the receiver's step and attempt (R219, R234, R235, R245, R254): the counter goes up or, full, the sequencer
faults; the segment stops, once forwarded; a quiet sequencer goes on with fresh counters; the lane is killed. Where the manual is silent it states the
model's choices of log entries 86, 95. -/
def Obligations.TokensAtSequencers : Prop :=
  ((∀ (tok : Token) (k : Nat), tokenOk tok k = true → k < 16 → tokenWord tok < 2 ^ 96 ∧ tokenOfWord (tokenWord tok) tok.plane = tok) ∧
  ∀ (dest : Nat) (tok : Token) (s : State) (c : Instr) (k : Nat),
  (c, k) ∈ [(.syncToken dest tok, 0), (.credit dest tok, 1), (.stepBoundary dest tok, 2), (.retract dest tok, 5), (.rewind dest tok, 6),
    (.resumeToken dest tok, 8), (.laneKill dest tok, 10), (.abandon dest tok, 12)] →
  isSid dest = true → tokenOk tok k = true → takesPart s dest = true →
  (isDup (seqOf s dest) tok = true → exec c s = .next { s with seq := { s.seq with sent := s.seq.sent.erase (dest, tok) } }) ∧
  (isDup (seqOf s dest) tok = false → behind s dest tok = true → exec c s = .next s) ∧
  (isDup (seqOf s dest) tok = false → behind s dest tok = false → k ≠ 2 →
    (tok.step ≠ (seqOf s dest).step ∨ (k ∉ [6, 12] ∧ tok.att ≠ (seqOf s dest).att)) → exec c s = .next (tokenTaken s dest tok))) ∧
  (∀ (dest : Nat) (tok : Token) (s : State), current s dest tok = true → (seqOf s dest).wait = .none →
  calm s dest = true → planesUp s →
  (arrives s dest tok 0 →
    let k := tokCtr s dest (tok.arg % 4096)
    ∃ t, exec (.syncToken dest tok) s = .next t ∧ otherSeqs s t dest ∧
      (tget 0 (seqOf s dest).tok k < 255 → tget 0 (seqOf t dest).tok k = tget 0 (seqOf s dest).tok k + 1 ∧ changesOnly [.seq] s t) ∧
      (255 ≤ tget 0 (seqOf s dest).tok k → (seqOf t dest).tok = (seqOf s dest).tok ∧ (seqOf t dest).phase = 2 ∧ sentTo t schedSid 11)) ∧
  (arrives s dest tok 1 →
    let k := credCtr s dest (tok.arg % 4096)
    let n := fld tok.arg 12 4
    ∃ t, exec (.credit dest tok) s = .next t ∧ otherSeqs s t dest ∧
      (tget 0 (seqOf s dest).cred k + n ≤ 4095 → tget 0 (seqOf t dest).cred k = tget 0 (seqOf s dest).cred k + n ∧ changesOnly [.seq] s t) ∧
      (4095 < tget 0 (seqOf s dest).cred k + n → (seqOf t dest).cred = (seqOf s dest).cred ∧ (seqOf t dest).phase = 2 ∧ sentTo t schedSid 11)) ∧
  (arrives s dest tok 5 →
    ∃ t, exec (.retract dest tok) s = .next t ∧ otherSeqs s t dest ∧ changesOnly [.seq] s t ∧ (seqOf t dest).fwded = true ∧
      (seqOf t dest).stopSeg = some (match (seqOf s dest).stopSeg with | some x => min x (fld tok.arg 8 7) | none => fld tok.arg 8 7) ∧
      ((seqOf s dest).fwded = true → t.seq.sent = s.seq.sent.erase (dest, tok))) ∧
  (arrives s dest tok 8 →
    ∃ t, exec (.resumeToken dest tok) s = .next t ∧ otherSeqs s t dest ∧ changesOnly [.seq] s t ∧
      ((seqOf s dest).phase = 2 → (seqOf t dest).phase = 1 ∧ (seqOf t dest).tok = [] ∧
        (seqOf t dest).cred = resumeCredits s dest (seqOf s dest).resumeSeg) ∧
      ((seqOf s dest).phase ≠ 2 → t = tokenTaken s dest tok)) ∧
  (arrives s dest tok 10 →
    ∃ t, exec (.laneKill dest tok) s = .next t ∧ otherSeqs s t dest ∧ changesOnly [.arr, .seq] s t ∧
      ∀ l, l ∈ (seqOf t dest).killed ↔ l = tok.arg % 256 ∨ l ∈ (seqOf s dest).killed))

/-- STEP_BOUNDARY (R229, R233, R235, R236, R275): the sequencer latches the step, attempt, canvas, template and variant, starts with empty token
counters and the credits of the table, and keeps the killed lanes of the same step; an attention cluster's walk buffers are cleared. -/
def Obligations.StepBoundaryStarts : Prop :=
  ∀ (dest : Nat) (tok : Token) (s : State), arrives s dest tok 2 →
  ∃ t, exec (.stepBoundary dest tok) s = .next t ∧ otherSeqs s t dest ∧ changesOnly [.seq, .kv] s t ∧
    (seqOf t dest).phase = 1 ∧ (seqOf t dest).wait = .none ∧ (seqOf t dest).step = tok.step ∧ (seqOf t dest).att = tok.att ∧
    (seqOf t dest).tmpl = fld tok.arg 0 4 ∧ (seqOf t dest).var = fld tok.arg 4 1 ∧ (seqOf t dest).canvas = fld tok.arg 5 2 ∧
    (seqOf t dest).tok = [] ∧ (seqOf t dest).cred = creditTable t dest 0 ∧ (seqOf t dest).stopSeg = none ∧
    (seqOf t dest).killed = (if (seqOf s dest).step = tok.step then (seqOf s dest).killed else []) ∧
    (isAttSid dest = true → ∀ x, (x ∈ t.kv.look ↔ x ∈ s.kv.look ∧ x.1 ≠ sidCluster dest) ∧ (x ∈ t.kv.dirs ↔ x ∈ s.kv.dirs ∧ x.1 ≠ sidCluster dest)) ∧
    (isAttSid dest = false → t.kv = s.kv)

/-- REWIND and ABANDON (R254, R262): a participant under another attempt stops, drops its strokes of the named segment and later, and answers QUIESCED
under the new attempt; a rewind keeps the replay entries up to its segment (log entry 94), an abandon none. -/
def Obligations.QuiesceOnRewind : Prop :=
  ∀ (dest : Nat) (tok : Token) (s : State) (rew : Bool), planesUp s →
  let seg := if rew then tok.arg % 128 else 0
  arrives s dest tok (if rew then 6 else 12) →
  ∃ t, exec (if rew then .rewind dest tok else .abandon dest tok) s = .next t ∧
    (nextAttempt s dest tok = false → t = tokenTaken s dest tok) ∧
    (nextAttempt s dest tok = true → otherSeqs s t dest ∧ (seqOf t dest).phase = 2 ∧ (seqOf t dest).wait = .none ∧ (seqOf t dest).att = tok.att ∧
      (seqOf t dest).resumeSeg = seg ∧ (seqOf t dest).stopSeg = none ∧ (seqOf t dest).tok = [] ∧ (seqOf t dest).held = [] ∧
      (seqOf t dest).replays = (if rew then ((seqOf s dest).replays.filter fun r => decide (r.seg ≤ seg)).map fun r => { r with issued := false } else []) ∧
      (∀ e k, k ∈ tget [] t.arr.strokes e → k.sid ≠ dest ∨ k.seg < seg) ∧
      ∃ q : Token, (schedSid, q) ∈ t.seq.sent ∧ q.kind = 7 ∧ q.src = dest ∧ q.att = tok.att % 16)

/-- STEP_DONE, SEGMENT and QUIESCED of the current attempt (R244, R254, R257): a participant is noted as done, and COMMIT goes out, to the port dies
as well, when nothing more is missing; a clear report is noted, a failed one starts or joins the gathering time; when the last participant is quiet
the step resumes, starts its re-execution, or ends. Where the manual is silent it states the model's choices of log entries 37, 100. -/
def Obligations.SchedulerTokens : Prop :=
  ∀ (tok : Token) (s : State) (c : StepRec), planesUp s →
  (arrivesSched s tok 3 c →
    let c1 : StepRec := { c with done := if c.done.contains tok.src then c.done else c.done ++ [tok.src] }
    let u := modCur (fun _ => c1) (tokenTaken s schedSid tok)
    ∃ t d, exec (.stepDone tok) s = .next t ∧ t.sch.cur = some d ∧ tok.src ∈ d.done ∧ d.num = c.num ∧ d.att = c.att ∧
      d.cmtReady = (c.cmtReady || commitReady u c1) ∧
      (commitReady u c1 = true → ∀ p ∈ c.parts ++ portSids, sentTo t p 9)) ∧
  (arrivesSched s tok 4 c →
    ∃ t d, exec (.segment tok) s = .next t ∧ t.sch.cur = some d ∧
      (tok.src, fld tok.arg 15 12, fld tok.arg 8 7, tok.arg % 256) ∈ d.segs ∧
      (tok.arg % 256 = 0 → d.gather = c.gather) ∧
      (tok.arg % 256 ≠ 0 → d.gather = some (match c.gather with | some g => min g (fld tok.arg 8 7) | none => fld tok.arg 8 7) ∧
        d.gatherUs = if c.gather.isNone then s.clk.us else c.gatherUs)) ∧
  (arrivesSched s tok 7 c →
    let quiet := if c.quiet.contains tok.src then c.quiet else c.quiet ++ [tok.src]
    let all := c.rewind.isSome && c.parts.all quiet.contains
    ∃ t, exec (.quiesced tok) s = .next t ∧
      (all = false → t.sch.cur = some { c with quiet := quiet }) ∧
      (all = true → c.abandoning = true → t.sch.cur = none) ∧
      (all = true → c.abandoning = false → (∃ d, t.sch.cur = some d ∧ d.rewind = none ∧ d.att = c.att) ∧
        ∀ p ∈ c.parts, sentTo t p (if c.redo then 2 else 8)))

/-- SEQ_FAULT (R218, R262, R276, R297): a memory error, or the first other fault of a step, executes it again from segment 0; a second fault abandons
it. COMMIT, REWIND_GATHER_EXPIRY and STEP_WATCHDOG_EXPIRY (R253, R254, R258, R259, R261, R262): a committed step ends, counted, with nothing tentative
left and its participants idle; the gathering time ends in a rewind, or in the re-execution with variant 1; a step that would need D16 from a lost
image ends with its canvas held (R298); a step past its watchdog is executed again once, then ended, and with no participant missing the module
drains. Where the manual is silent it states the model's choices of log entry 38. -/
def Obligations.StepEndsAndFaults : Prop :=
  (∀ (tok : Token) (s : State) (c : StepRec), planesUp s → arrivesSched s tok 11 c →
  ∃ t d, exec (.seqFault tok) s = .next t ∧ t.sch.cur = some d ∧ d.num = c.num ∧
    (0x28 ≤ tok.arg % 256 → tok.arg % 256 ≤ 0x2A → d.rewind = some 0 ∧ d.seqSrc = c.seqSrc ∧ ∀ p ∈ c.parts, sentTo t p 6) ∧
    ((tok.arg % 256 < 0x28 ∨ 0x2A < tok.arg % 256) → c.seqSrc = [] → d.rewind = some 0 ∧ d.seqSrc = [tok.src] ∧ ∀ p ∈ c.parts, sentTo t p 6) ∧
    ((tok.arg % 256 < 0x28 ∨ 0x2A < tok.arg % 256) → c.seqSrc ≠ [] → d.abandoning = true ∧ ∀ p ∈ c.parts, sentTo t p 12)) ∧
  (∀ (s : State), planesUp s →
  (s.sch.cur = none → exec .commit s = .next s ∧ exec .rewindGatherExpiry s = .next s ∧ exec .stepWatchdogExpiry s = .next s) ∧
  (∀ c, s.sch.cur = some c →
    (c.cmtReady = false → exec .commit s = .next s) ∧
    (c.cmtReady = true → ∃ t, exec .commit s = .next t ∧ t.sch.cur = none ∧ t.sch.steps = satAdd 64 s.sch.steps 1 ∧
      (cnvOf t c.canvas).steps = satAdd 64 (cnvOf s c.canvas).steps 1 ∧ t.glz.varNew = [] ∧ t.core.samples = [] ∧ t.kv.wrote = [] ∧
      ∀ p ∈ c.parts, (seqOf t p).phase = 0 ∧ (seqOf t p).replays = []) ∧
    (c.gather = none → exec .rewindGatherExpiry s = .next s) ∧
    (∀ seg, c.gather = some seg → needsLost s c = false → ∃ t d, exec .rewindGatherExpiry s = .next t ∧ t.sch.cur = some d ∧ d.gather = none ∧
      d.att = c.att + 1 ∧ (∀ p ∈ c.parts, sentTo t p 6) ∧
      (if (c.redo || decide (8 ≤ c.rewinds)) && !c.reexec then d.rewind = some 0 ∧ d.reexec = true ∧ d.var = 1 ∧ d.rewinds = 0
       else d.rewind = some seg ∧ d.rewinds = c.rewinds + 1)) ∧
    (∀ seg, c.gather = some seg → needsLost s c = true → ∃ t d, exec .rewindGatherExpiry s = .next t ∧ t.sch.cur = some d ∧ d.abandoning = true ∧
      (∀ p ∈ c.parts, sentTo t p 12) ∧ (cnvOf t c.canvas).lostHold = true) ∧
    (watchdogDue s c = false → exec .stepWatchdogExpiry s = .next s) ∧
    (watchdogDue s c = true → missingParts s c ≠ [] → ∃ t d, exec .stepWatchdogExpiry s = .next t ∧ t.sch.cur = some d ∧
      (∀ p ∈ c.parts, sentTo t p 12) ∧
      (c.wdFired = false → d.abandoning = false ∧ d.wdFired = true ∧ d.missing = missingParts s c ∧ d.rewind = some 0) ∧
      (c.wdFired = true → d.abandoning = true)) ∧
    (watchdogDue s c = true → missingParts s c = [] → s.hist.draining = false → s.hist.inRepl = false →
      ∃ t d, exec .stepWatchdogExpiry s = .next t ∧ t.sch.cur = some d ∧ d.abandoning = true ∧ (∀ p ∈ c.parts, sentTo t p 12) ∧
        t.hist.draining = true ∧ t.hist.cause = 8 ∧ t.hist.budgetNow = true)))

/-- STEP_COMPOSE (R227 to R231, R260, R332, R333, R540): between steps everything pending takes effect and the request table is copied; when a step
may begin, the canvas whose turn it is starts the next step, numbered one higher, with the lanes taken in order, their descriptors stand in every
participant's cluster, and STEP_BOUNDARY goes to every participant. Where the manual is silent it states the model's choices of log entries 57, 96,
100, 102, 105. -/
def Obligations.StepComposes : Prop :=
  ∀ (s : State), planesUp s →
  let s1 := planCaches (writeRegion (boundaryWork s))
  (s.sch.cur.isSome = true ∨ s.cal.gap = true ∨ s.dev.row ≠ 7 → exec .stepCompose s = .next s) ∧
  (s.sch.cur = none → s.cal.gap = false → s.dev.row = 7 →
    (mayStep s1 = false → ∃ t, exec .stepCompose s = .next t ∧ t.sch.cur = none ∧ t.req.region.isSome = true) ∧
    (∀ c b tm, mayStep s1 = true → nextCanvas s1 = some c → (cnvOf s1 c).bundle = some b →
      let s2 := retireNoa8 c s1
      let ls := takeLanes s2 b (takeOrder s2 (readyOf s2 c)) { lanes := 0, pos := 0, w := 1, ctx := 0 } []
      let a := ls.foldl addLoad { lanes := 0, pos := 0, w := 1, ctx := 0 }
      ls ≠ [] → (orderBy smaller (covering b a.lanes a.pos a.w a.ctx)).head? = some tm →
      ∃ t r, exec .stepCompose s = .next t ∧ t.sch.cur = some r ∧ r.num = s.sch.stepNo + 1 ∧ t.sch.stepNo = s.sch.stepNo + 1 ∧ r.canvas = c ∧
        r.tmpl = tm.2 ∧ r.var = b2n (cnvOf s2 c).floor ∧ r.att = 0 ∧ r.lanes.map (·.index) = ls.map (·.index) ∧ t.sch.turn = c ∧
        (∀ p ∈ r.parts, sentTo t p 2) ∧
        ∀ p ∈ r.parts, ∀ l ∈ r.lanes, tget [] t.seq.descs (sidCluster p + l.lane) = descWords l))

/-- HOT_CACHE_FILL, SPACING_TIMEOUT, ENERGY_METER_SAMPLE and FORMAT_FLOOR_EXPIRY (R146, R293, R478, R493): a planned slice is filled; 25.6 ms after
the last boundary the spacing bound allows a step; a sample moves the account up to its cap and the ENERGY counter by whole joules, but not in STANDBY
or SHUTDOWN; a floor whose steps are used up is released. RUNTIME_CHANNEL_ADD and RUNTIME_CHANNEL_LEAVE (R170 to R172): between steps a wanted channel
joins its set in force, and a runtime channel without a report in 65,536 committed steps leaves it; otherwise nothing happens. GLAZE_TABLE_FETCH,
DIGCOL_ENTRY_FETCH and PERSISTENT_COLUMN_RELEASE (R146, R161, R178, R179): the next table of the template's order that passes its CRC is present; one
that fails is fetched again; one that fails again is derived again and taken, and the step in flight is retracted to its first segment; a table out of
that order changes nothing. A column's entry takes the master weights of its column and takes effect when they arrive between steps; a persistent
column is released after 4,096 clean steps. Where the manual is silent it states the model's choices of log entries 8, 38, 73, 96. -/
def Obligations.BetweenSteps : Prop :=
  (∀ (s : State),
  (∀ cl ix x, isAttCluster cl = true → (tget [] s.kv.plan cl)[ix]? = some x → ∃ t, exec (.hotCacheFill cl ix) s = .next t ∧ changesOnly [.kv] s t ∧
    (∀ y, y ∈ tget [] t.kv.filled cl ↔ y = x ∨ y ∈ tget [] s.kv.filled cl) ∧ t.kv.near = s.kv.near) ∧
  (∃ t, exec .spacingTimeout s = .next t ∧ changesOnly [.sch] s t ∧
    (s.sch.lastBndUs + 25600 ≤ s.clk.us → t.sch.spaced = true) ∧ (s.clk.us < s.sch.lastBndUs + 25600 → t = s)) ∧
  (∀ uj : Nat, ∃ t, exec (.energyMeterSample uj) s = .next t ∧ changesOnly [.pwr, .sch] s t ∧
    (s.pwr.off = true ∨ s.pwr.state = 0 ∨ s.pwr.state = 5 → t = s) ∧
    (s.pwr.off = false → s.pwr.state ≠ 0 → s.pwr.state ≠ 5 →
      t.sch.account = min ((s.pwr.lim : Int) * 256000) (s.sch.account + (s.pwr.lim : Int) * 100 - (uj : Int)) ∧
      t.pwr.energy = satAdd 64 s.pwr.energy ((s.pwr.uj + uj) / 1000000) ∧ t.pwr.uj = (s.pwr.uj + uj) % 1000000)) ∧
  (∀ c, c < 4 → ∃ t, exec (.formatFloorExpiry c) s = .next t ∧
    ((cnvOf s c).floor = true → (cnvOf s c).floorLeft = 0 → (cnvOf t c).floor = false ∧ ∀ d, d ≠ c → cnvOf t d = cnvOf s d) ∧
    ((cnvOf s c).floor = false ∨ (cnvOf s c).floorLeft ≠ 0 → t = s))) ∧
  (∀ (canvas set ix : Nat) (s : State), canvas < 4 → set < 65536 → ix < 1048576 →
  let k := chanKey canvas set
  (s.sch.cur.isSome = true ∨ (k, ix) ∉ s.glz.chanWant → exec (.runtimeChannelAdd canvas set ix) s = .next s) ∧
  (s.sch.cur = none → (k, ix) ∈ s.glz.chanWant → ∃ t, exec (.runtimeChannelAdd canvas set ix) s = .next t ∧ changesOnly [.glz, .evr] s t ∧
    t.glz.chanWant = s.glz.chanWant.erase (k, ix) ∧ (∀ x, x ∈ channels t k ↔ x = ix ∨ x ∈ channels s k) ∧
    ∀ j, j ≠ k → channels t j = channels s j) ∧
  (s.sch.cur.isSome = true → exec (.runtimeChannelLeave canvas set ix) s = .next s) ∧
  (s.sch.cur = none → (∃ d ∈ tget [] s.glz.chans k, d.index = ix ∧ d.runtime = true) →
    (tget [] s.glz.repHist (k * 1048576 + ix)).getLast?.getD 0 + 65536 ≤ (cnvOf s canvas).steps →
    ∃ t, exec (.runtimeChannelLeave canvas set ix) s = .next t ∧ changesOnly [.glz] s t ∧
      (∀ x, x ∈ channels t k ↔ x ≠ ix ∧ x ∈ channels s k) ∧ ∀ j, j ≠ k → channels t j = channels s j)) ∧
  (∀ (s : State),
  (∀ cluster tid ok again, isArrCluster cluster = true → tid < 65536 →
    ((fetchQueue s cluster).head? ≠ some tid → exec (.glazeTableFetch cluster tid ok again) s = .next s) ∧
    ((fetchQueue s cluster).head? = some tid → (∀ k ∈ coresOf cluster, calm s (coreSid k) = true) →
      (∃ t, exec (.glazeTableFetch cluster tid true again) s = .next t ∧ t = { s with glz := { s.glz with fetched := s.glz.fetched ++ [cluster + tid] } }) ∧
      (∃ t, exec (.glazeTableFetch cluster tid false false) s = .next t ∧ t.glz = s.glz ∧ changesOnly [.evr] s t) ∧
      (∃ t, exec (.glazeTableFetch cluster tid false true) s = .next t ∧ cluster + tid ∈ t.glz.fetched ∧
        ∀ c, s.sch.cur = some c → c.rewind = none → c.cmtReady = false →
          ∃ k, t.sch.cur = some k ∧ k.rewind = some 0 ∧ k.att = c.att + 1 ∧ k.done = []))) ∧
  (∀ core array plane col, isCore core = true → isArray array = true → coreOf array = core → plane < 16 → col < 64 →
    (s.sch.cur.isSome = true → exec (.digcolEntryFetch core array plane col) s = .next s) ∧
    (s.sch.cur = none → ∃ t, exec (.digcolEntryFetch core array plane col) s = .next t ∧ changesOnly [.arr] s t ∧
      ∀ c, tget [] t.arr.digcol c = if c = core then (tget [] s.arr.digcol c).map fun d => if isDigCol array plane col d then
          { d with w := (List.range 64).map fun r => masterW s array plane r col, active := true } else d
        else tget [] s.arr.digcol c) ∧
    ∃ t, exec (.persistentColumnRelease core array plane col) s = .next t ∧ changesOnly [.arr] s t ∧
      (∀ c d, d ∈ tget [] t.arr.digcol c ↔ d ∈ tget [] s.arr.digcol c ∧
        ¬(c = core ∧ isDigCol array plane col d = true ∧ d.persist = true ∧ 4096 ≤ d.clean))))

/-- CALIBRATION_GAP_OPEN and CALIBRATION_GAP_CLOSE (R426, R427, R443, R444): a due gap opens between steps over every due cluster, counted; 1.2 ms
later it closes, and each of its clusters counts a calibration and is due for nothing, or, after a discard, is due for RETRY. CAL_INTERVAL_EXPIRY,
CAL_MODULE_EVENT_TIMER and DRIFT_TABLE_SAVE (R424, R437, R444): a cluster whose interval has passed is due for cause 4; the counts go out 60 s after
the last event; a cluster's drift table is saved at most once an hour of operation, and no other cluster's. Where the manual is silent it states the
model's choices of log entry 58. -/
def Obligations.CalibrationRows : Prop :=
  (∀ (s : State),
  (∀ meas, (meas.all fun m => isArray m.array) = true →
    (s.sch.cur.isSome = true ∨ s.cal.gap = true ∨ gapDue s = false ∨ s.dev.row = 0 → exec (.calibrationGapOpen meas) s = .next s) ∧
    (s.sch.cur = none → s.cal.gap = false → gapDue s = true → s.dev.row ≠ 0 → ∃ t, exec (.calibrationGapOpen meas) s = .next t ∧
      t.cal.gap = true ∧ t.cal.gapUs = s.clk.us ∧ t.cal.gapSet = (s.cal.cls.filter fun e => e.2.due != 0).map (·.1) ∧
      t.cal.modCount = satAdd 32 s.cal.modCount 1 ∧ t.cal.modLast = s.clk.hours)) ∧
  (s.cal.gap = false ∨ s.clk.us < s.cal.gapUs + 1200 → exec .calibrationGapClose s = .next s) ∧
  (s.cal.gap = true → s.cal.gapUs + 1200 ≤ s.clk.us → s.cal.gapSet.Nodup → ∃ t, exec .calibrationGapClose s = .next t ∧
    t.cal.gap = false ∧ t.cal.gapSet = [] ∧ t.cal.placing = [] ∧ t.cal.whole = [] ∧
    ∀ cl ∈ s.cal.gapSet,
      ((calOf s cl).gapDisc = false → (calOf t cl).count = satAdd 32 (calOf s cl).count 1 ∧ (calOf t cl).due = 0 ∧ (calOf t cl).last = s.clk.hours) ∧
      ((calOf s cl).gapDisc = true → (calOf t cl).count = (calOf s cl).count ∧ bitOf (calOf t cl).due 7 = true))) ∧
  (∀ (s : State),
  (∀ cl, isArrCluster cl = true →
    (s.cal.maxint ≠ 0 → (calOf s cl).last + 10 * s.cal.maxint ≤ s.clk.hours → ∃ t, exec (.calIntervalExpiry cl) s = .next t ∧ changesOnly [.cal] s t ∧
      bitOf (calOf t cl).due 4 = true ∧ ∀ d, d ≠ cl → calOf t d = calOf s d) ∧
    (s.cal.maxint = 0 ∨ s.clk.hours < (calOf s cl).last + 10 * s.cal.maxint → exec (.calIntervalExpiry cl) s = .next s) ∧
    (s.clk.hours < (calOf s cl).lastSave + 36000 → exec (.driftTableSave cl) s = .next s) ∧
    ((calOf s cl).lastSave + 36000 ≤ s.clk.hours → ∃ t, exec (.driftTableSave cl) s = .next t ∧ changesOnly [.glz, .cal] s t ∧
      (calOf t cl).lastSave = s.clk.hours ∧
      (∀ k, clusterOf (k / 64) ≠ cl → tget (0, 0) t.glz.saved k = tget (0, 0) s.glz.saved k) ∧
      (∀ k, clusterOf (k / 64) = cl → tget (0, 0) t.glz.saved k = tget (0, 0) s.arr.drift k))) ∧
  (s.cal.evDue = false ∨ s.clk.us < s.cal.evUs + 60000000 → exec .calModuleEventTimer s = .next s) ∧
  (s.cal.evDue = true → s.cal.evUs + 60000000 ≤ s.clk.us → ∃ t, exec .calModuleEventTimer s = .next t ∧ changesOnly [.cal, .ptn, .net] s t ∧
    t.cal = { s.cal with evUs := s.clk.us, evAny := true, evDue := false }))

/-- FENCE_START and FENCE_COMPLETE (R103, R180, R222, R411, R414 to R416): between steps a due fence takes the lowest spare that may be written, whose
writing costs a program cycle, and holds the canvases on its cluster, once an audit copy it takes has ended its plane; with no spare left the module
drains; a core that holds no position goes to STATE 3; once the spare is calibrated it takes the fenced core's position. A remap still wanted on the
spare is made with its writing, and may exhaust it. DRAIN_BUDGET_EXPIRY and REPLACE_ENTRY (R351, R372, R380, R418, R419): past the budget every
running request is to pause; with none running the module enters REPLACE and closes every live session with reason 2. Where the manual is silent it
states the model's choices of log entries 36, 40, 61. -/
def Obligations.FencesAndDrain : Prop :=
  (∀ (s : State),
  (∀ core f, isCore core = true → s.hist.fences.find? (·.core == core) = some f →
    (s.sch.cur.isSome = true → exec (.fenceStart core) s = .next s) ∧
    (s.sch.cur = none → (roleOf s core).2 ≠ 0 → (roleOf s core).2 ≠ 3 → ∃ t, exec (.fenceStart core) s = .next t ∧ changesOnly [.hist] s t ∧
      roleOf t core = (31, 3) ∧ ∀ g ∈ t.hist.fences, g.core ≠ core) ∧
    ((roleOf s core).2 = 0 → s.sch.cur = none → s.cal.gap = false → holding s = false → fenceStartable s f = true →
      (∀ sp, spareFor s (clusterOf core) = some sp →
        ((roleOf s sp).2 = 2 → coreInPass s sp = true → exec (.fenceStart core) s = .next s) ∧
        ((roleOf s sp).2 ≠ 2 ∨ coreInPass s sp = false → ∃ t, exec (.fenceStart core) s = .next t ∧
          roleOf t core = ((roleOf s core).1, 3) ∧ tget 0 s.hist.cycles sp + 1 ≤ tget 0 t.hist.cycles sp ∧
          (∀ c ∈ canvasesOn s (clusterOf core), (cnvOf t c).fence = true) ∧
          ((∀ w ∈ s.arr.remapWant, coreOf w.1 ≠ sp) → roleOf t sp = (31, 4) ∧ tget 0 t.hist.cycles sp = tget 0 s.hist.cycles sp + 1 ∧
            ∃ g ∈ t.hist.fences, g.core = core ∧ g.spare = sp ∧ (g.ph = 1 ∨ g.ph = 2)))) ∧
      (spareFor s (clusterOf core) = none → ∃ t, exec (.fenceStart core) s = .next t ∧ (t.hist.draining || t.hist.inRepl) = true))) ∧
  (∀ cl f, isArrCluster cl = true → (s.hist.fences.find? fun f => f.ph == 3 && clusterOf f.core == cl) = some f →
    (s.sch.cur.isSome = true ∨ s.cal.gap = true → exec (.fenceComplete cl) s = .next s) ∧
    (s.sch.cur = none → s.cal.gap = false → ∃ t, exec (.fenceComplete cl) s = .next t ∧
      roleOf t f.spare = ((roleOf s f.core).1, 0) ∧ ∀ g ∈ t.hist.fences, g.core ≠ f.core))) ∧
  (∀ (s : State),
  (s.hist.draining = false → exec .drainBudgetExpiry s = .next s ∧ exec .replaceEntry s = .next s) ∧
  (s.hist.draining = true → (s.hist.budgetNow = true ∨ s.hist.drainUs + 1000000 * s.dev.budget ≤ s.clk.us) →
    ∃ t, exec .drainBudgetExpiry s = .next t ∧ changesOnly [.req] s t ∧
      ∀ ix ∈ entriesWhere s (fun e => running e && e.st != .pausing && e.st != .resuming),
        (entryOf t ix).pendPause = true ∧ (entryOf t ix).drainPause = true ∧ (entryOf t ix).st = (entryOf s ix).st) ∧
  (s.hist.draining = true → s.hist.inRepl = false → s.sch.cur = none → entriesWhere s (fun e => running e) = [] →
    ∃ t, exec .replaceEntry s = .next t ∧ t.hist.inRepl = true ∧ t.hist.draining = false ∧ t.dev.mstate = 4 ∧
      ∀ k, (sesOf s k).live = true → (sesOf t k).closeOut = some 2))

/-- UNIT_HISTORY_PERIODIC_WRITE, TOKEN_PLANE_FAILURE and NONFENCE_FAULT_DETECT (R28, R412, R417, R418, R422): a changed history is written over the
older copy every 60 s with a sequence number one higher; a token plane that fails at a hop is noted, and both planes failed there, like a permanent
fault of a unit that cannot be fenced, drain the module; a port die's fault takes its ports away too (R15). AUDIT_ROTATION and AUDIT_ARBITRATION
(R224, R406 to R408, R410, R411): between steps the first copy of a cluster goes to its highest spare and each later one to the next position after
the period, each costing a program cycle; a copy at 9,000 cycles is given up once its plane has ended; between steps the oldest sample is settled, and
one that differs is counted. Where the manual is silent it states the model's choices of log entries 40, 60, 85. -/
def Obligations.HistoryAndAudit : Prop :=
  (∀ (s : State),
  (s.hist.dirty = false ∨ s.clk.us < s.hist.lastWr + 60000000 → exec .unitHistoryPeriodicWrite s = .next s) ∧
  (s.hist.dirty = true → s.hist.lastWr + 60000000 ≤ s.clk.us → ∃ t, exec .unitHistoryPeriodicWrite s = .next t ∧ changesOnly [.hist] s t ∧
    t.hist.dirty = false ∧ t.hist.lastWr = s.clk.us ∧ max t.hist.seqA t.hist.seqB = max s.hist.seqA s.hist.seqB + 1 ∧
    (s.hist.seqA ≤ s.hist.seqB → t.hist.copyA = uhNow s.hist ∧ t.hist.copyB = s.hist.copyB) ∧
    (s.hist.seqB < s.hist.seqA → t.hist.copyB = uhNow s.hist ∧ t.hist.copyA = s.hist.copyA)) ∧
  (∀ pl hop, pl < 2 → isHop hop = true →
    ((pl, hop) ∈ s.seq.planeBad → exec (.tokenPlaneFailure pl hop) s = .next s) ∧
    ((pl, hop) ∉ s.seq.planeBad → ∃ t, exec (.tokenPlaneFailure pl hop) s = .next t ∧ t.seq.planeBad = s.seq.planeBad ++ [(pl, hop)] ∧
      t.hist.toknet = true ∧ ((1 - pl, hop) ∈ s.seq.planeBad → (t.hist.draining || t.hist.inRepl) = true))) ∧
  (∀ unit level cause, drainsOn unit level cause = true → ∃ t, exec (.nonfenceFaultDetect unit level cause) s = .next t ∧
    (t.hist.draining || t.hist.inRepl) = true ∧ t.hist.faultsP = satAdd 32 s.hist.faultsP 1 ∧
    (∀ p ∈ portsOfDie (dieOf unit), (portOf t p).link = false) ∧
    (s.hist.draining = false → s.hist.inRepl = false → t.hist.cause = cause))) ∧
  (∀ (cl : Nat) (s : State), isArrCluster cl = true →
  (s.hist.auditEn = false ∨ s.sch.cur.isSome = true → exec (.auditRotation cl) s = .next s) ∧
  (s.sch.cur = none → s.hist.auditEn = true → (auditOf s cl).stopped = false → holding s = false → (∀ f ∈ s.hist.fences, clusterOf f.core ≠ cl) →
    (∀ sp, auditSpare s cl = none → (coresIn s cl 1).getLast? = some sp → tget 0 s.hist.cycles sp < 9000 →
      ∃ t, exec (.auditRotation cl) s = .next t ∧ (auditOf t cl).pos = (auditOf s cl).pos ∧ (auditOf t cl).ready = false ∧
        ((∀ w ∈ s.arr.remapWant, coreOf w.1 ≠ sp) → roleOf t sp = (31, 2) ∧ tget 0 t.hist.cycles sp = tget 0 s.hist.cycles sp
          + (if (corePos s cl (auditOf s cl).pos).isSome then 1 else 0))) ∧
    (∀ sp, auditSpare s cl = some sp → (auditOf s cl).us + 1000000 * (auditOf s cl).period ≤ s.clk.us → tget 0 s.hist.cycles sp < 9000 →
      ∃ t, exec (.auditRotation cl) s = .next t ∧ (auditOf t cl).pos = ((auditOf s cl).pos + 1) % 30 ∧ (auditOf t cl).us = s.clk.us ∧
        (auditOf t cl).queue = [] ∧
        ((∀ w ∈ s.arr.remapWant, coreOf w.1 ≠ sp) → roleOf t sp = (31, 2) ∧ tget 0 t.hist.cycles sp = tget 0 s.hist.cycles sp
          + (if (corePos s cl (((auditOf s cl).pos + 1) % 30)).isSome then 1 else 0))) ∧
    (∀ sp, auditSpare s cl = some sp → 9000 ≤ tget 0 s.hist.cycles sp →
      (coreInPass s sp = true → exec (.auditRotation cl) s = .next s) ∧
      (coreInPass s sp = false → ∃ t, exec (.auditRotation cl) s = .next t ∧ roleOf t sp = (31, 1) ∧ (auditOf t cl).stopped = true))) ∧
  (∀ r rs sp again, (auditOf s cl).queue = r :: rs → auditSpare s cl = some sp →
    (s.sch.cur.isSome = true → exec (.auditArbitration cl again) s = .next s) ∧
    (s.sch.cur = none → ∃ t, exec (.auditArbitration cl again) s = .next t ∧ (auditOf t cl).queue = rs ∧
      t.hist.diffs = (if r.bad then satAdd 32 s.hist.diffs 1 else s.hist.diffs) ∧ (r.bad = false → changesOnly [.hist] s t))))

/-- PROGRAM_ITERATION and PLANE_WRITE_COMPLETE (R78 to R82, R91, R95): an iteration of the row in turn of a plane that may be written counts, and
touches no other plane; a plane whose last row has ended with no failed column stands written with its format and coefficient. Where the manual is
silent it states the model's choices of log entry 53. -/
def Obligations.RowsAreProgrammed : Prop :=
  ∀ (array plane : Nat) (s : State) (m : PlaneImage), isArray array = true → plane < 16 →
  let pk := planeKey array plane
  tget none s.kv.master pk = some m →
  (∀ row read, row < 64 → (read.all fun e => decide (e.1 ≤ 72)) = true →
    let r := nextRow (tget RowProg.init s.arr.rows pk)
    (mayProgram s array plane = false ∨ row ≠ r.row →
      exec (.programIteration array plane row read) s = .next s) ∧
    (mayProgram s array plane = true → row = r.row →
      ∃ t, exec (.programIteration array plane row read) s = .next t ∧ changesOnly [.arr, .glz] s t ∧
        (tget RowProg.init t.arr.rows pk).row = row ∧ (tget RowProg.init t.arr.rows pk).iters = r.iters + 1 ∧
        ((tget RowProg.init t.arr.rows pk).done = false → t.arr.cells = s.arr.cells ∧ t.glz = s.glz) ∧
        (24 ≤ r.iters + 1 → (tget RowProg.init t.arr.rows pk).done = true) ∧
        (∀ q, q ≠ pk → tget RowProg.init t.arr.rows q = tget RowProg.init s.arr.rows q) ∧ t.arr.written = s.arr.written)) ∧
  (let r := tget RowProg.init s.arr.rows pk;
    (r.done = false ∨ r.row ≠ 63 → exec (.planeWriteComplete array plane) s = .next s) ∧
    (r.done = true → r.row = 63 → r.failed = [] → (∀ c, (cnvOf s c).aborting = none) → ∃ t, exec (.planeWriteComplete array plane) s = .next t ∧
      tget false t.arr.written pk = true ∧ tget 0 t.arr.fmt pk = m.fmt ∧ tget 0 t.arr.coeff pk = m.coeff ∧ tget RowProg.init t.arr.rows pk = RowProg.init ∧
      t.arr.cells = s.arr.cells))

/-- PROGRAMMING_WAVE_START, LOAD_COMPLETE and CANVAS_RECORD_DURABLE (R91 to R94, R101, R108): the first wave starts once the canvas is drained and
makes it loading, a later one once every core of the last stands written, each within the pumps' budget; a finished load serves with its tables
installed, and its record becomes durable. ERASE_COMPLETE and STAGE_PART_TIMEOUT (R93, R97, R104, R105, R462): where the module may write and no step
is in flight, every erase that runs ends with its canvas empty, and that of a release leaves the module unclaimed; a staging whose next part is late
ends with outcome 7. Where the manual is silent it states the model's choices of log entry 62. -/
def Obligations.LoadsAndErases : Prop :=
  (∀ (c : Nat) (s : State), c < 4 →
  (∀ b, (cnvOf s c).staged = some b → (cnvOf s c).aborting = none → mayWrite s = true →
    waveLimit s - otherWriters s c ≠ 0 →
    ((cnvOf s c).loadPh = 1 → canvasBusy s c = false → (neighboursOf s c b).any (cnvInStep s) = false → ∃ t, exec (.programmingWaveStart c) s = .next t ∧
      (cnvOf t c).st = 1 ∧ (cnvOf t c).loadPh = 2 ∧ (cnvOf t c).bundle = some (recordOf b) ∧ (cnvOf t c).recSt = 1 ∧ (cnvOf t c).recHash = b.hash ∧
      (cnvOf t c).recDurable = false) ∧
    ((cnvOf s c).loadPh = 1 → canvasBusy s c = true → exec (.programmingWaveStart c) s = .next s) ∧
    (2 ≤ (cnvOf s c).loadPh → waveDone s c b = true → (cnvOf s c).waveCores < (bundleCores s b).length ∨ (cnvOf s c).loadPh = 2 →
      ∃ t, exec (.programmingWaveStart c) s = .next t ∧ changesOnly [.cnv] s t ∧ (cnvOf t c).loadPh = 3 ∧
        (cnvOf t c).waveCores = min ((cnvOf s c).waveCores + (waveLimit s - otherWriters s c
          - (if (cnvOf s c).loadPh = 2 then ((takenCores s c b).filter (isLarge s b)).length else 0))) (bundleCores s b).length)) ∧
  (waveLimit s - otherWriters s c = 0 → exec (.programmingWaveStart c) s = .next s) ∧
  (∀ b, (cnvOf s c).staged = some b →
    (loadReady s c b = false → exec (.loadComplete c) s = .next s) ∧
    (loadReady s c b = true → ∃ t, exec (.loadComplete c) s = .next t ∧ (cnvOf t c).st = 2 ∧ (cnvOf t c).staged = none ∧ (cnvOf t c).loadPh = 0 ∧
      tget [] t.seq.tables c = b.templates)) ∧
  ((cnvOf s c).recPend = false → exec (.canvasRecordDurable c) s = .next s) ∧
  ((cnvOf s c).recPend = true → ∃ t, exec (.canvasRecordDurable c) s = .next t ∧ changesOnly [.cnv] s t ∧ (cnvOf t c).recDurable = true ∧
    (cnvOf t c).recSt = 2 ∧ (cnvOf t c).recPend = false)) ∧
  (∀ (s : State),
  (mayWrite s = false → exec .eraseComplete s = .next s) ∧
  (mayWrite s = true → s.sch.cur.isSome = true → ∃ t, exec .eraseComplete s = .next t ∧ t.sec.modErase = s.sec.modErase ∧
    t.sec.relErase = s.sec.relErase) ∧
  (mayWrite s = true → s.sch.cur = none → ∃ t, exec .eraseComplete s = .next t ∧ t.sec.modErase = none ∧ t.sec.relErase = none ∧
    (s.sec.relErase.isSome = true → t.sec.claimed = false ∧ t.sec.ownerKey = 0 ∧ ∀ n, n < 12 → (ptnOf t n).key = 0) ∧
    ∀ c, c < 4 → (cnvOf s c).erasing.isSome = true → (cnvOf t c).erasing = none ∧ (cnvOf t c).bundle = none ∧ (cnvOf t c).staged = none ∧ (cnvOf t c).st = 0) ∧
  (∀ c, c < 4 →
    ((cnvOf s c).stOpen = false ∨ s.clk.us < (cnvOf s c).stUs + 1000000 → exec (.stagePartTimeout c) s = .next s) ∧
    ((cnvOf s c).stOpen = true → (cnvOf s c).stUs + 1000000 ≤ s.clk.us → ∃ t, exec (.stagePartTimeout c) s = .next t ∧ changesOnly [.cnv, .net] s t ∧
      (cnvOf t c).stOpen = false ∧
      (canAnswer s (cnvOf s c).stHdr → answered s t (cnvOf s c).stHdr 8 [7]))))

/-- STAGE, LOAD, ABORT and ERASE (R95 to R98, R104, R105): the first part of a bundle opens a staging and the last one decides its outcome; an
accepted load drains the canvas and its neighbours; an abort ends a load at a plane boundary; an erase waits for no partition bound; each refusal is
answered with its outcome. Where the manual is silent it states the model's choices of log entries 62, 65, 97. -/
def Obligations.CanvasCommands : Prop :=
  ∀ (h : Hdr) (c : Nat) (s : State), cmdRuns s .operator_ h → c < 4 →
  (∀ len total b, total < 2 ^ 64 →
    (cnvBlocked s c = true ∨ (cnvOf s c).loadPh ≠ 0 → ∃ t, exec (.stage h c 0 len total b) s = .next t ∧ answered s t h 8 [6] ∧ cnvOf t c = cnvOf s c) ∧
    (cnvBlocked s c = false → (cnvOf s c).loadPh = 0 →
      (total < len → ∃ t, exec (.stage h c 0 len total b) s = .next t ∧ answered s t h 8 [7]) ∧
      (len < total → ∃ t, exec (.stage h c 0 len total b) s = .next t ∧ changesOnly [.cnv, .net] s t ∧ (cnvOf t c).stOpen = true ∧ (cnvOf t c).stNext = len ∧
        (cnvOf t c).stTotal = total ∧ (cnvOf t c).stHdr = h ∧ (sesOf t h.ses).queue = (sesOf s h.ses).queue) ∧
      (len = total → ∃ t o, exec (.stage h c 0 len total b) s = .next t ∧ (cnvOf t c).stOpen = false ∧ answered s t h (if o = 0 then 0 else 8) (leBytes o 4) ∧
        (o = 0 → (cnvOf t c).staged = some b) ∧ (o ≠ 0 → (cnvOf t c).staged = (cnvOf s c).staged)))) ∧
  ((∀ o, loadRefused s c = some o → ∃ t, exec (.load h c) s = .next t ∧ answered s t h 8 (leBytes o 4) ∧ changesOnly [.net] s t) ∧
    (∀ b, loadRefused s c = none → (cnvOf s c).staged = some b → ∃ t, exec (.load h c) s = .next t ∧ (cnvOf t c).loadPh = 1 ∧ (cnvOf t c).loadHdr = h ∧
      (cnvOf t c).loadEnd = s.clk.us + 1000000 * (cnvOf s c).loadDrain ∧ ∀ d ∈ neighboursOf s c b, (cnvOf t d).neighbour = true)) ∧
  (((cnvOf s c).loadPh = 0 → ∃ t, exec (.abort h c) s = .next t ∧ answered s t h 8 [11] ∧ changesOnly [.net] s t) ∧
    ((cnvOf s c).loadPh ≠ 0 → cnvBlocked s c = false → (cnvOf s c).aborting = none → (cnvOf s c).bundle.any (midPlane s) = false → h.ses ≠ 0 →
      ∃ t, exec (.abort h c) s = .next t ∧ (cnvOf t c).loadPh = 0 ∧ (cnvOf t c).st = 0 ∧ (cnvOf t c).bundle = none ∧ (cnvOf t c).staged = (cnvOf s c).staged ∧
        (cnvOf t c).aborting = none)) ∧
  ((s.hist.draining || s.hist.inRepl || holding s) = true → ∀ all, ∃ t, exec (.erase h c all) s = .next t ∧ answered s t h 8 [6] ∧ changesOnly [.net] s t) ∧
  (cnvBlocked s c = false → (cnvOf s c).loadPh = 0 → boundTo s c = [] → ∃ t, exec (.erase h c false) s = .next t ∧ (cnvOf t c).st = 0 ∧
    (cnvOf t c).erasing = some h ∧ (cnvOf t c).bundle = (cnvOf s c).bundle) ∧
  ((s.hist.draining || s.hist.inRepl || holding s) = false → anyLoad s = false → anyErase s = false → enabledPtns s = [] →
    ∃ t, exec (.erase h c true) s = .next t ∧ t.sec.modErase = some h ∧ ∀ d, d < 4 → (cnvOf t d).st = 0)

/-- FAR_TIER_PATROL, FAR_TIER_UNCORRECTABLE, MASTER_COPY_READBACK, MEMORY_CORRECTABLE_ERROR, HOT_CACHE_UNCORRECTABLE and POISON_REPAIR (R107, R297,
R298): each counts or drops what was lost; a lost master image is held until a matching copy is read back, read out of the cells, else its canvas
awaits the bundle; between steps an entry's poisoned pages are repaired. Where the manual is silent it states the model's choices of log entries 65,
98. -/
def Obligations.MemoryErrors : Prop :=
  ∀ (s : State),
  (∀ hub, hub < 2 → ∃ t, exec (.farTierPatrol hub) s = .next t ∧ changesOnly [.kv] s t ∧
    ∀ d, tget 0 t.kv.patrol d = if d = hub then s.clk.hours + 1 else tget 0 s.kv.patrol d) ∧
  (∀ tier, tier < 3 → ∃ t, exec (.memoryCorrectableError tier) s = .next t ∧ t = { s with hist := { s.hist with
    ceNear := if tier = 0 then satAdd 32 s.hist.ceNear 1 else s.hist.ceNear
    ceFar := if tier = 1 then satAdd 32 s.hist.ceFar 1 else s.hist.ceFar
    ceCache := if tier = 2 then satAdd 32 s.hist.ceCache 1 else s.hist.ceCache } }) ∧
  (∀ cl k, isAttCluster cl = true →
    ((tget [] s.kv.filled cl).length ≤ k → exec (.hotCacheUncorrectable cl k) s = .next s) ∧
    (k < (tget [] s.kv.filled cl).length → ∃ t, exec (.hotCacheUncorrectable cl k) s = .next t ∧ t.kv.near = s.kv.near ∧
      tget [] t.kv.filled cl = (tget [] s.kv.filled cl).eraseIdx k ∧ changesOnly [.kv, .evr] s t)) ∧
  (∀ r, regionExists r = true → ∃ t, exec (.farTierUncorrectable r) s = .next t ∧ t.kv.retiredFar = satAdd 22 s.kv.retiredFar 1 ∧
    ((∀ c, r ≠ .staged c) → t.kv.master = s.kv.master) ∧
    (∀ c pk, r = .image c pk → (tget none s.kv.master pk).isSome = true → (c, pk) ∈ t.kv.lostImg) ∧
    (∀ pk, r = .residual pk → ∀ k, k / 8192 * 16 = pk → tget 0 t.glz.resid k = 0) ∧
    (r = .region → t.req.region = none) ∧
    (∀ ix, r = .paused ix → (entryOf s ix).st = .paused → (entryOf s ix).far ≠ 0 → gone t ix) ∧
    (∀ c, r = .staged c → (cnvOf s c).loadPh = 0 → (cnvOf t c).staged = none ∧ t.kv.master = s.kv.master)) ∧
  (∀ c pk, regionExists (.image c pk) = true → (c, pk) ∈ s.kv.lostImg → (cnvOf s c).awaitImg = false → (cnvOf s c).lostHold = true →
    ∀ crcOk, (crcOk = true → (tget none s.kv.master pk).any (imageMatches s pk) = true →
      ∃ t, exec (.masterCopyReadback c pk crcOk) s = .next t ∧ t.kv.lostImg = s.kv.lostImg.filter (· != (c, pk)) ∧
        (∀ k, tget none t.kv.master k = if k = pk then (tget none s.kv.master pk).map (readImage s pk) else tget none s.kv.master k) ∧
        (engineUsed s c (engineOf pk) = true → (cnvOf t c).lostHold = false)) ∧
      (crcOk = false ∨ (tget none s.kv.master pk).any (imageMatches s pk) = false →
        ∃ t, exec (.masterCopyReadback c pk crcOk) s = .next t ∧ (cnvOf t c).await = true ∧ (cnvOf t c).awaitImg = true ∧ t.kv = s.kv)) ∧
  (∀ ix, ix < 16384 →
    (s.sch.cur.isSome = true → exec (.poisonRepair ix) s = .next s) ∧
    (s.sch.cur = none → ∃ t, exec (.poisonRepair ix) s = .next t ∧ (entryOf t ix).poison = [] ∧ changesOnly [.kv, .req] s t))

/-- SUBMIT (R323, R329, R393): the first condition that refuses it answers it; an admitted request takes an entry with a new generation, queued with
its prompt and limits, and is answered at once or once its canvas serves; a body in parts waits for them. Where the manual is silent it states the
model's choices of log entries 63, 64. -/
def Obligations.SubmitAdmission : Prop :=
  ∀ (h : Hdr) (b : SubmitBody) (s : State), cmdRuns s .partition h →
  let n := cmdPtn s h
  let p := ptnOf s n
  let ok := bodyOk b 0 && decide (b.prio < 4) && decide (p.prioMin ≤ b.prio) && decide (b.tint < 16)
  (b.part = true → ∃ t, exec (.submit h b) s = .next t ∧ changesOnly [.ptn, .net] s t ∧ (sesOf t h.ses).queue = (sesOf s h.ses).queue ∧
    tget none (ptnOf t n).parts h.queue = some { h := h, cont := false, b := b, us := s.clk.us }) ∧
  (∀ st arg, b.part = false → refuse s n ok (b.nprompt + b.maxnew) b.noa8 b.ctl = some (st, arg) →
    ∃ t, exec (.submit h b) s = .next t ∧ answered s t h st [] ∧ changesOnly [.net] s t) ∧
  (∀ d ix, b.part = false → refuse s n ok (b.nprompt + b.maxnew) b.noa8 b.ctl = none → declared s p.canvas = some d → freeIndex s = some ix →
    (b.tbound = true → tintCurrent s n b.tint = 0 → ∃ t, exec (.submit h b) s = .next t ∧ answered s t h 7 [] ∧ changesOnly [.net] s t) ∧
    ((b.tbound = false ∨ tintCurrent s n b.tint ≠ 0) → p.entryMax ≤ entryUsed s n →
      ∃ t, exec (.submit h b) s = .next t ∧ answered s t h 6 [] ∧ changesOnly [.net] s t) ∧
    ((b.tbound = false ∨ tintCurrent s n b.tint ≠ 0) → entryUsed s n < p.entryMax → nearUsed s n + (newEntry s h n b d).resv ≤ p.nearQ →
      ∃ t, exec (.submit h b) s = .next t ∧ (entryOf t ix).st = .queued ∧ (entryOf t ix).ptn = n ∧ (entryOf t ix).toks = b.prompt ∧
        (entryOf t ix).maxnew = b.maxnew ∧ (entryOf t ix).canvas = p.canvas ∧ (entryOf t ix).ses = h.ses ∧
        (entryOf t ix).gen = (if (entryOf s ix).gen = 16383 then 1 else (entryOf s ix).gen + 1) ∧
        (∀ j, j ≠ ix → entryOf t j = entryOf s j) ∧
        (admitting s p.canvas = true → answered s t h 0 []) ∧
        (admitting s p.canvas = false → (entryOf t ix).waitHdr = some h ∧ (sesOf t h.ses).queue = (sesOf s h.ses).queue)))

/-- CONTINUE, PROMPT and COMMAND_PART_TIMEOUT (R329, R340, R348, R352, R382, R393): a kept conversation takes the new tokens and limits and runs,
waits for its canvas, or is to be resumed; one for a conversation being exported waits for that; further parts join the open command and the last one
decides it; a late one ends it. Where the manual is silent it states the model's choices of log entries 63, 64. -/
def Obligations.ContinueAndParts : Prop :=
  ∀ (h : Hdr) (s : State),
  (∀ b ix, cmdRuns s .partition h → b.part = false → handleEntry s h = some ix → (entryOf s ix).exporting = true →
    ∃ t, exec (.continue_ h b) s = .next t ∧ (entryOf t ix).exWait = (entryOf s ix).exWait ++ [(h, some b)] ∧
      (sesOf t h.ses).queue = (sesOf s h.ses).queue ∧ changesOnly [.req, .net] s t) ∧
  (∀ b ix, cmdRuns s .partition h → b.part = false → handleEntry s h = some ix → (entryOf s ix).exporting = false →
    let n := cmdPtn s h
    let e := entryOf s ix
    let kept := (e.st == .idle || e.st == .paused) && !e.pendDiscard && e.waitHdr.isNone
    let total := e.toks.length + b.nprompt + b.maxnew
    (∀ st arg, refuse s n (bodyOk b e.toks.length && kept) total b.noa8 b.ctl = some (st, arg) →
      ∃ t, exec (.continue_ h b) s = .next t ∧ answered s t h st [] ∧ changesOnly [.net] s t) ∧
    (∀ d, refuse s n (bodyOk b e.toks.length && kept) total b.noa8 b.ctl = none → declared s e.canvas = some d →
      (tintGone s e = true → ∃ t, exec (.continue_ h b) s = .next t ∧ answered s t h 7 [] ∧ (entryOf t ix).pendDiscard = true) ∧
      (tintGone s e = false → resvFits s n ix (resvFor d total e.kvfmt) = true → ∃ t, exec (.continue_ h b) s = .next t ∧
        (entryOf t ix).toks = e.toks ++ b.prompt ∧ (entryOf t ix).gend = 0 ∧ (entryOf t ix).maxnew = b.maxnew ∧ (entryOf t ix).ctl.seed = e.ctl.seed ∧
        (entryOf t ix).st = (if e.st = .idle then (if admitting s e.canvas then .prefill else .queued) else .paused) ∧ (entryOf t ix).fin = none ∧
        (admitting s e.canvas = true → answered s t h 0 [] ∧ (e.st = .paused → (entryOf t ix).pendResume = true)) ∧
        (admitting s e.canvas = false → (entryOf t ix).waitHdr = some h)))) ∧
  (∀ words bytes last, cmdReady s .partition h →
    (tget none (ptnOf s (cmdPtn s h)).parts h.queue = none → ∃ t, exec (.prompt h words bytes last) s = .next t ∧ answered s t h 8 [] ∧ changesOnly [.net] s t) ∧
    (∀ p, tget none (ptnOf s (cmdPtn s h)).parts h.queue = some p →
      let whole := decide (p.b.nprompt ≤ (p.b.prompt ++ words).length) && decide (p.b.masklen ≤ (p.b.maskArea ++ bytes).length)
      ((last || whole) = false → ∃ t, exec (.prompt h words bytes last) s = .next t ∧ changesOnly [.ptn, .net] s t ∧
        (sesOf t h.ses).queue = (sesOf s h.ses).queue ∧
        ∃ p', tget none (ptnOf t (cmdPtn s h)).parts h.queue = some p' ∧ p'.b.prompt = p.b.prompt ++ words ∧ p'.b.maskArea = p.b.maskArea ++ bytes ∧
          p'.us = s.clk.us ∧ p'.h = p.h) ∧
      ((last || whole) = true → ∃ t, exec (.prompt h words bytes last) s = .next t ∧ tget none (ptnOf t (cmdPtn s h)).parts h.queue = none))) ∧
  (∀ n q, n < 12 → q < 4 →
    (tget none (ptnOf s n).parts q = none → exec (.commandPartTimeout n q) s = .next s) ∧
    (∀ p, tget none (ptnOf s n).parts q = some p →
      (s.clk.us < p.us + 1000000 → exec (.commandPartTimeout n q) s = .next s) ∧
      (p.us + 1000000 ≤ s.clk.us → ∃ t, exec (.commandPartTimeout n q) s = .next t ∧ changesOnly [.ptn, .net] s t ∧
        tget none (ptnOf t n).parts q = none ∧ (canAnswer s p.h → answered s t p.h 8 []))))

/-- CANCEL, PAUSE, RESUME and DISCARD (R334 to R336, R345 to R347, R352): a running request on an open partition is marked to end, to pause, to resume
with its reservation made again, or to be discarded, and the command is answered; one that has completed answers ALREADY_DONE, a wrong handle
BAD_REQUEST; a RESUME of a conversation being exported waits for that. Where the manual is silent it states the model's choices of log entries 64,
101. -/
def Obligations.RequestControls : Prop :=
  ∀ (h : Hdr) (s : State), cmdRuns s .partition h →
  (handleEntry s h = none → handleRetired s h = false → ∀ c ∈ [Instr.cancel h, .pause h, .resume h, .discard h],
    ∃ t, exec c s = .next t ∧ answered s t h 8 [] ∧ changesOnly [.net] s t) ∧
  (handleRetired s h = true → ∃ t, exec (.cancel h) s = .next t ∧ answered s t h 2 [] ∧ changesOnly [.net] s t) ∧
  (∀ ix, handleEntry s h = some ix →
    let e := entryOf s ix
    let p := ptnOf s e.ptn
    (e.fin.isSome = true ∨ e.st = .idle → ∃ t, exec (.cancel h) s = .next t ∧ answered s t h 2 [] ∧ changesOnly [.net] s t) ∧
    (e.fin = none → running e = true → p.sealed = false → ∃ t, exec (.cancel h) s = .next t ∧ answered s t h 0 [] ∧
      (entryOf t ix).pendCancel = some (e.pendCancel.getD 1) ∧ (entryOf t ix).st = e.st ∧ ∀ j, j ≠ ix → entryOf t j = entryOf s j) ∧
    ((running e || e.st == .idle) = true → e.st ≠ .pausing → e.waitHdr = none →
      (pauseFits s ix = false → ∃ t, exec (.pause h) s = .next t ∧ answered s t h 6 [] ∧ changesOnly [.net] s t) ∧
      (pauseFits s ix = true → ∃ t, exec (.pause h) s = .next t ∧ answered s t h 0 [] ∧ (entryOf t ix).pendPause = true ∧ (entryOf t ix).st = e.st)) ∧
    (e.exporting = true → ∃ t, exec (.resume h) s = .next t ∧ (entryOf t ix).exWait = e.exWait ++ [(h, none)] ∧
      (sesOf t h.ses).queue = (sesOf s h.ses).queue ∧ changesOnly [.req, .net] s t) ∧
    (∀ d, e.st = .paused → e.exporting = false → e.pendDiscard = false → e.waitHdr = none → p.enabled = true → (cnvOf s e.canvas).enabled = true → tintGone s e = false →
      declared s e.canvas = some d →
      (resvFits s e.ptn ix (resvFor d e.bound e.kvfmt) = true → ∃ t, exec (.resume h) s = .next t ∧ answered s t h 0 [] ∧
        (entryOf t ix).pendResume = true ∧ (entryOf t ix).resv = resvFor d e.bound e.kvfmt ∧ (entryOf t ix).st = .paused) ∧
      (resvFits s e.ptn ix (resvFor d e.bound e.kvfmt) = false → ∃ t, exec (.resume h) s = .next t ∧ answered s t h 6 [] ∧ changesOnly [.net] s t)) ∧
    (e.st = .pausing → e.exporting = false → e.pendDiscard = false → e.waitHdr = none → p.enabled = true → (cnvOf s e.canvas).enabled = true →
      tintGone s e = false → ∃ t, exec (.resume h) s = .next t ∧ answered s t h 0 [] ∧ (entryOf t ix).pendResume = true ∧ (entryOf t ix).st = .pausing) ∧
    (e.st = .idle ∨ e.st = .paused → e.waitHdr = none → ∃ t, exec (.discard h) s = .next t ∧ answered s t h 0 [] ∧ (entryOf t ix).pendDiscard = true) ∧
    ((e.st ≠ .idle ∧ e.st ≠ .paused) ∨ e.waitHdr.isSome = true → ∃ t, exec (.discard h) s = .next t ∧ answered s t h 8 [] ∧ changesOnly [.net] s t))

/-- EXPORT, EXPORT_RELEASE and IMPORT (R352 to R354): an idle or paused conversation is marked for export with the next serial; once its package is
acknowledged the export ends, and a released one is retired; a package that passes every check makes a paused entry and its serial is kept. Where the
manual is silent it states the model's choices of log entries 64, 79, 103. -/
def Obligations.ExportAndImport : Prop :=
  ∀ (h : Hdr) (s : State),
  (∀ rel peer ix, cmdRuns s .partition h → handleEntry s h = some ix →
    let e := entryOf s ix
    (e.st ≠ .idle → e.st ≠ .paused → ∃ t, exec (.export_ h rel peer) s = .next t ∧ answered s t h 8 [] ∧ changesOnly [.net] s t) ∧
    (e.st = .paused ∨ (e.st = .idle ∧ pauseFits s ix = true) → e.exporting = false → e.pendDiscard = false → e.waitHdr = none →
      ∃ t, exec (.export_ h rel peer) s = .next t ∧ answered s t h 0 [] ∧ (entryOf t ix).exporting = true ∧ (entryOf t ix).exRelease = rel ∧
        (entryOf t ix).exPeer = peer ∧ (entryOf t ix).exSerial = s.req.expSerial ∧ t.req.expSerial = (s.req.expSerial + 1) % 2 ^ 64 ∧
        (e.st = .idle → (entryOf t ix).pendPause = true))) ∧
  (∀ ix, ix < 16384 →
    ((entryOf s ix).exporting = false ∨ (entryOf s ix).st ≠ .paused ∨ packageOut ix s = true → exec (.exportRelease ix) s = .next s) ∧
    ((entryOf s ix).exporting = true → (entryOf s ix).st = .paused → packageOut ix s = false → ∃ t, exec (.exportRelease ix) s = .next t ∧
      (entryOf t ix).exporting = false ∧ ((entryOf s ix).exRelease = true → (sesOf s (entryOf s ix).exSession).live = true → gone t ix) ∧ ((entryOf s ix).exRelease = false → (entryOf t ix).st = .paused))) ∧
  (∀ p, cmdRuns s .partition h → s.hist.draining = false → s.hist.inRepl = false →
    let n := cmdPtn s h
    (ptnClosed s n = true → ∃ t, exec (.import_ h p) s = .next t ∧ answered s t h 4 [] ∧ changesOnly [.net] s t) ∧
    (ptnClosed s n = false → p.sigOk = false ∨ p.forUs = false ∨ (p.peer, p.serial) ∈ s.req.imported → ∃ t, exec (.import_ h p) s = .next t ∧ answered s t h 8 [] ∧ changesOnly [.net] s t) ∧
    (∀ b ix, ptnClosed s n = false → p.sigOk = true → p.forUs = true → (p.peer, p.serial) ∉ s.req.imported → (cnvOf s (ptnOf s n).canvas).bundle = some b → b.hash = p.hash →
      (p.tbound = false ∨ (tintWithHash s n p.tint p.tintHash).isSome = true) → freeIndex s = some ix → entryUsed s n < (ptnOf s n).entryMax →
      quotaTakes s n 16384 p.frames = true → ∃ t, exec (.import_ h p) s = .next t ∧ answered s t h 0 [] ∧
        (entryOf t ix).st = .paused ∧ (entryOf t ix).toks = p.tokens ∧ (entryOf t ix).kv = p.kv ∧ (entryOf t ix).ptn = n ∧ (entryOf t ix).farPages = p.pages ∧
        (entryOf t ix).ret = .idle ∧ (entryOf t ix).fin = some 0 ∧ (p.peer, p.serial) ∈ t.req.imported))

/-- TINT_LOAD, TINT_DELETE and CQ_READ (R339, R340, R384): a loaded tint becomes its slot's current version, one whose parts broke off is refused; a
deleted one leaves the slot with none and ends the running requests bound to it; a read takes the oldest entries of a completion queue. Where the
manual is silent it states the model's choices of log entries 64, 65, 103. -/
def Obligations.TintsAndCompletionQueues : Prop :=
  ∀ (h : Hdr) (s : State), cmdRuns s .partition h →
  let n := cmdPtn s h
  (∀ slot rebind whole hash pairs, 16 ≤ slot → ∀ c ∈ [Instr.tintLoad h slot rebind whole hash pairs, .tintDelete h slot],
    ∃ t, exec c s = .next t ∧ answered s t h 8 [] ∧ changesOnly [.net] s t) ∧
  (∀ slot rebind hash pairs, ∃ t, exec (.tintLoad h slot rebind false hash pairs) s = .next t ∧ answered s t h 8 [] ∧ changesOnly [.net] s t) ∧
  (∀ slot rebind hash pairs, slot < 16 →
    let sl := tintSlot s n slot
    let ver := if sl.last = 65535 then 1 else sl.last + 1
    let named := (declared s (ptnOf s n).canvas).any fun b => pairs.all (pairOk b)
    (ptnClosed s n = true → ∃ t, exec (.tintLoad h slot rebind true hash pairs) s = .next t ∧ answered s t h 4 [] ∧ changesOnly [.net] s t) ∧
    (ptnClosed s n = false → named = false → ∃ t, exec (.tintLoad h slot rebind true hash pairs) s = .next t ∧ answered s t h 8 [] ∧ changesOnly [.net] s t) ∧
    (ptnClosed s n = false → named = true → (sl.live.filter fun v => !v.gone && tintBound s n slot v.ver).length < 4 → nearUsed s n + tintFrames pairs ≤ (ptnOf s n).nearQ →
      ∃ t, exec (.tintLoad h slot rebind true hash pairs) s = .next t ∧ answered s t h 0 [] ∧ tintCurrent t n slot = ver ∧
        (tintSlot t n slot).last = ver ∧
        (rebind = true → ∀ ix, (entryOf s ix).st ≠ .free → (entryOf s ix).ptn = n → (entryOf s ix).tbound = true → (entryOf s ix).tint = slot →
          (entryOf t ix).pendRebind = true))) ∧
  (∀ slot, slot < 16 →
    (tintCurrent s n slot = 0 → ∃ t, exec (.tintDelete h slot) s = .next t ∧ answered s t h 7 [] ∧ changesOnly [.net] s t) ∧
    (tintCurrent s n slot ≠ 0 → ∃ t, exec (.tintDelete h slot) s = .next t ∧ answered s t h 0 [] ∧ tintCurrent t n slot = 0 ∧
      ∀ ix, (entryOf s ix).ptn = n → (entryOf s ix).tbound = true → (entryOf s ix).tint = slot → running (entryOf s ix) = true →
        (ptnOf s n).sealed = false → (entryOf t ix).pendCancel = some ((entryOf s ix).pendCancel.getD 7))) ∧
  (∀ cq count, cq < 4 →
    (64 < count → ∃ t, exec (.cqRead h cq count) s = .next t ∧ answered s t h 8 [] ∧ changesOnly [.net] s t) ∧
    (count ≤ 64 → ∃ t, exec (.cqRead h cq count) s = .next t ∧ changesOnly [.ptn, .net] s t ∧
      tget [] (ptnOf t n).cqs cq = (tget [] (ptnOf s n).cqs cq).drop count ∧
      ((sesOf s h.ses).lapsed = false → answered s t h 0 (((tget [] (ptnOf s n).cqs cq).take count).flatMap cqBytes))))

/-- ADMISSION_WAIT_EXPIRY, DEADLINE_EXPIRY, TIME_TO_LIVE_EXPIRY and IDLE_THRESHOLD_EXPIRY (R329, R330, R338, R345, R346): a submission that waited too
long is answered RETRY_AFTER and leaves nothing; a paused request past its deadline completes, a conversation past its time to live is gone, an idle
one past its threshold is to pause. PAUSE_MOVE_COMPLETE, RESUME_MOVE_COMPLETE, FRAME_SCRUB_COMPLETE and LOAD_DRAIN_EXPIRY (R295, R296, R343, R345,
R347, R470): a moved request is paused with its far-tier frames and no reservation, or runs again; a scrubbed frame reads as zeros on every die and
has no owner; requests that still run when a load's drain ends are ended. Where the manual is silent it states the model's choices of log entries 99,
101. -/
def Obligations.RequestTimersAndMoves : Prop :=
  (∀ (ix : Nat) (s : State), ix < 16384 →
  let e := entryOf s ix
  (e.waitHdr = none → exec (.admissionWaitExpiry ix) s = .next s) ∧
  (∀ h, e.waitHdr = some h →
    (s.clk.us < e.waitEnd ∨ admitting s e.canvas = true → exec (.admissionWaitExpiry ix) s = .next s) ∧
    (e.waitEnd ≤ s.clk.us → admitting s e.canvas = false → ∃ t, exec (.admissionWaitExpiry ix) s = .next t ∧ (entryOf t ix).waitHdr = none ∧
      (e.saved = none → (entryOf t ix).st = .free) ∧ (∀ v, e.saved = some v → (entryOf t ix).st = v.st ∧ (entryOf t ix).toks = e.toks.take v.len) ∧
      (canAnswer s h → answered s t h 5 []))) ∧
  (deadlinePassed s e = false → exec (.deadlineExpiry ix) s = .next s) ∧
  (deadlinePassed s e = true → (e.st = .pausing ∨ e.st = .paused) → ∃ t, exec (.deadlineExpiry ix) s = .next t ∧
    (e.keep = true → (entryOf t ix).fin = some 3 ∧ (entryOf t ix).st = e.st) ∧ (e.keep = false → gone t ix)) ∧
  (e.st = .paused → e.exporting = false →
    (s.clk.hours < e.ttlEnd → exec (.timeToLiveExpiry ix) s = .next s) ∧
    (e.ttlEnd ≤ s.clk.hours → ∃ t, exec (.timeToLiveExpiry ix) s = .next t ∧ gone t ix)) ∧
  (e.st = .idle → pauseFits s ix = true → e.lastAct + 1000000 * idleLimit s e ≤ s.clk.us →
    ∃ t, exec (.idleThresholdExpiry ix) s = .next t ∧ changesOnly [.req] s t ∧ (entryOf t ix).pendPause = true ∧ (entryOf t ix).st = .idle) ∧
  (e.st ≠ .idle → exec (.idleThresholdExpiry ix) s = .next s)) ∧
  (∀ (s : State),
  (∀ ix, ix < 16384 →
    ((entryOf s ix).st ≠ .pausing → exec (.pauseMoveComplete ix) s = .next s) ∧
    ((entryOf s ix).st = .pausing → ∃ t, exec (.pauseMoveComplete ix) s = .next t ∧ (entryOf t ix).st = .paused ∧ (entryOf t ix).resv = 0 ∧
      (entryOf t ix).far = farFrames s ix ∧ (entryOf t ix).farPages = farCopy s ix) ∧
    ((entryOf s ix).st ≠ .resuming → exec (.resumeMoveComplete ix) s = .next s) ∧
    ((entryOf s ix).st = .resuming → ∃ t, exec (.resumeMoveComplete ix) s = .next t ∧ (entryOf t ix).far = 0 ∧ (entryOf t ix).farPages = [] ∧
      (entryOf t ix).st = if (entryOf s ix).cont then .prefill else (entryOf s ix).ret)) ∧
  (∀ n frame x, n < 12 → frame < 1048576 → (s.kv.scrub.find? fun x => x.1 == n && x.2.1 == frame) = some x →
    ∃ t, exec (.frameScrubComplete n frame false) s = .next t ∧ t.kv.scrub = s.kv.scrub.erase x ∧ tget 0 t.kv.owner frame = 0 ∧
      (∀ die off, die < 8 → off < 524288 → rdByte t.kv.near (nearAddr die frame off) = 0) ∧
      ∀ die f off, f ≠ frame → f < 1048576 → off < 524288 → rdByte t.kv.near (nearAddr die f off) = rdByte s.kv.near (nearAddr die f off)) ∧
  (∀ n frame x, n < 12 → (s.kv.scrubFar.find? (·.1 == n)) = some x → ∃ t, exec (.frameScrubComplete n frame true) s = .next t ∧
    t.kv.scrubFar = s.kv.scrubFar.erase x ∧ t.kv.near = s.kv.near) ∧
  (∀ c, c < 4 →
    ((cnvOf s c).loadPh ≠ 1 ∨ s.clk.us < (cnvOf s c).loadEnd → exec (.loadDrainExpiry c) s = .next s) ∧
    ((cnvOf s c).loadPh = 1 → (cnvOf s c).loadEnd ≤ s.clk.us → ∃ t, exec (.loadDrainExpiry c) s = .next t ∧
      ∀ ix, (entryOf s ix).canvas = c → running (entryOf s ix) = true → (entryOf s ix).waitHdr = none → (ptnOf s (entryOf s ix).ptn).sealed = false →
        (entryOf t ix).pendCancel = some ((entryOf s ix).pendCancel.getD 4))))

/-- LEASE_TEST, GRACE_EXPIRY, TOKENS_SEND and EVENT_COALESCE_EXPIRY (R349, R370, R372, R389, R390): sessions whose lease has run out lapse, and no
others; after grace a session is over; released tokens go out at most every 50 µs; pending events go out when their time has come. Where the manual is
silent it states the model's choices of log entries 47, 66. -/
def Obligations.LeasesAndMessages : Prop :=
  ∀ (s : State),
  (∃ t, exec .leaseTest s = .next t ∧
    (∀ k, (sesOf s k).live = true → (sesOf s k).lapsed = false → (sesOf s k).leaseEnd ≤ s.clk.hours →
      (sesOf t k).lapsed = true ∧ (sesOf t k).graceEnd = s.clk.hours + 10 * graceOf s (sesOf s k).role) ∧
    (∀ k, (sesOf s k).live = true → s.clk.hours < (sesOf s k).leaseEnd → (sesOf t k).lapsed = (sesOf s k).lapsed)) ∧
  (∀ k, k < 2 ^ 32 →
    ((sesOf s k).live = false ∨ (sesOf s k).lapsed = false ∨ s.clk.hours < (sesOf s k).graceEnd → exec (.graceExpiry k) s = .next s) ∧
    ((sesOf s k).live = true → (sesOf s k).lapsed = true → (sesOf s k).graceEnd ≤ s.clk.hours → ∃ t, exec (.graceExpiry k) s = .next t ∧
      (sesOf t k).live = false ∧ (sesOf t k).closed = true ∧ (sesOf t k).queue = [] ∧ (sesOf t k).sent = [])) ∧
  (∀ ix, ix < 16384 →
    ((entryOf s ix).out = [] ∨ ((entryOf s ix).sentAny = true ∧ s.clk.us < (entryOf s ix).sentUs + 50) → exec (.tokensSend ix) s = .next s) ∧
    ((entryOf s ix).out ≠ [] → ((entryOf s ix).sentAny = false ∨ (entryOf s ix).sentUs + 50 ≤ s.clk.us) → ∃ t, exec (.tokensSend ix) s = .next t ∧
      (entryOf t ix).out = [] ∧ (entryOf t ix).sentUs = s.clk.us ∧ (entryOf t ix).sentAny = true ∧
      ((sesOf s (entryOf s ix).ses).sid = (entryOf s ix).ses → (sesOf s (entryOf s ix).ses).closed = false →
        ∃ xs m, (sesOf t (entryOf s ix).ses).queue = (sesOf s (entryOf s ix).ses).queue ++ xs ∧ m ∈ xs ∧ m.ty = 0x82 ∧ m.body = tokensBody (entryOf s ix)))) ∧
  (∀ n us, n < 12 → (ptnOf s n).coalUs = some us →
    (s.clk.us < us + (ptnOf s n).coal → exec (.eventCoalesceExpiry n) s = .next s) ∧
    (us + (ptnOf s n).coal ≤ s.clk.us → liveSes s n ≠ [] → ∃ t, exec (.eventCoalesceExpiry n) s = .next t ∧ changesOnly [.ptn, .net] s t ∧
      (ptnOf t n).coalUs = none ∧ ((ptnOf s n).events ≠ [] → (ptnOf t n).events = [] ∧ (ptnOf t n).lost = 0)))

/-- DATA_SEGMENT_RECEIVE, ACK_RECEIVE, ACK_TIMER and RETRANSMIT_TIMEOUT (R359, R360, R370, R374 to R376): an authenticated segment on its session's
VLAN renews the lease and is taken once, the next whole message passes to the receiver; a bad one is counted and dropped; acknowledged segments leave
flight; a path whose oldest segment waits too long sends it again and goes down the third time. Where the manual is silent it states the model's
choices of log entries 15, 67. -/
def Obligations.SegmentsAndAcks : Prop :=
  ∀ (s : State),
  (∀ g, segFields g = true →
    (takesSeg s g = false ∨ (sesTakes s g.sid = true ∧ vlanOk s g.port (sesOf s g.sid).role g.vid = false) → g.fill ≤ 75 → exec (.dataSegmentReceive g) s = .next s) ∧
    (takesSeg s g = true → sesTakes s g.sid = true → vlanOk s g.port (sesOf s g.sid).role g.vid = true → dataOk s g = false → ∃ t, exec (.dataSegmentReceive g) s = .next t ∧ changesOnly [.net] s t ∧
      (portOf t g.port).rxDrop = satAdd 32 (portOf s g.port).rxDrop 1 ∧ ∀ k, sesOf t k = sesOf s k) ∧
    (takesSeg s g = true → sesTakes s g.sid = true → vlanOk s g.port (sesOf s g.sid).role g.vid = true → dataOk s g = true → ∃ t, exec (.dataSegmentReceive g) s = .next t ∧ changesOnly [.net] s t ∧
      (∀ k, k ≠ g.sid → sesOf t k = sesOf s k) ∧
      (75 < g.fill → (portOf s g.port).pfcEn = true → (portOf t g.port).pauseTx = true) ∧
      ((sesOf s g.sid).lapsed = false → (sesOf t g.sid).leaseEnd = afterSec s (leaseOf s (sesOf s g.sid).role)) ∧
      ((sesOf s g.sid).rxSince < 3 → (sesOf t g.sid).rxSince = (sesOf s g.sid).rxSince + 1 ∧ (sesOf t g.sid).acksOut = (sesOf s g.sid).acksOut) ∧
      (3 ≤ (sesOf s g.sid).rxSince → (sesOf s g.sid).closing = false →
        (sesOf t g.sid).rxSince = 0 ∧ (sesOf t g.sid).acksOut.length = (sesOf s g.sid).acksOut.length + 1) ∧
      ((g.seq < (sesOf s g.sid).rxCum ∨ g.seq ∈ (sesOf s g.sid).rxSeen) →
        (sesOf t g.sid).inbox = (sesOf s g.sid).inbox ∧ (sesOf t g.sid).rxCum = (sesOf s g.sid).rxCum) ∧
      (g.seq = (sesOf s g.sid).rxCum → g.seq ∉ (sesOf s g.sid).rxSeen → (sesOf s g.sid).rxMax ≤ g.seq + 65536 → g.segcnt = 1 →
        g.msgid = (sesOf s g.sid).rxMsg → (∀ x ∈ (sesOf s g.sid).asm, x.1 ≠ g.msgid) →
        (sesOf s g.sid).inbox ++ [g.body] <+: (sesOf t g.sid).inbox ∧ (sesOf s g.sid).rxCum < (sesOf t g.sid).rxCum ∧
          (sesOf s g.sid).rxMsg < (sesOf t g.sid).rxMsg))) ∧
  (∀ a, a.port < 8 → a.vid < 4096 → a.sid < 2 ^ 32 → a.seq < 2 ^ 32 → (∀ b ∈ a.bits, b < 256) → portTakes s a.port = true → sesTakes s a.sid = true →
    vlanOk s a.port (sesOf s a.sid).role a.vid = true → a.tagOk = true →
    ∃ t, exec (.ackReceive a) s = .next t ∧ changesOnly [.ptn, .net] s t ∧ (∀ k, k ≠ a.sid → sesOf t k = sesOf s k) ∧
      (∀ y ∈ (sesOf t a.sid).flight, ackCovers a y = false) ∧
      (∀ x ∈ (sesOf s a.sid).flight, ackCovers a x = false → ∃ y ∈ (sesOf t a.sid).flight, y.seq = x.seq ∧ y.body = x.body) ∧
      (pathOf (sesOf t a.sid) (netOf a.port)).tmo = 1 ∧ (pathOf (sesOf t a.sid) (netOf a.port)).fails = 0 ∧
      (a.ece = true → (pathOf (sesOf t a.sid) (netOf a.port)).window = max 4 ((pathOf (sesOf s a.sid) (netOf a.port)).window / 2))) ∧
  (∀ k path u, k < 2 ^ 32 → path < 2 → (sesOf s k).ackUs = some u →
    ((s.clk.us < u + 20 ∨ (sesOf s k).ackPath ≠ path) → exec (.ackTimer k path) s = .next s) ∧
    (u + 20 ≤ s.clk.us → (sesOf s k).ackPath = path → (sesOf s k).closing = false → ∃ t, exec (.ackTimer k path) s = .next t ∧ changesOnly [.net] s t ∧
      (sesOf t k).ackUs = none ∧ (sesOf t k).rxSince = 0 ∧ ∃ bits ce, (sesOf t k).acksOut = (sesOf s k).acksOut ++ [(path, (sesOf s k).rxCum, bits, ce)])) ∧
  (∀ k seq x, k < 2 ^ 32 → seq < 2 ^ 32 → ((sesOf s k).flight.find? fun x => x.seq == seq) = some x → (sesOf s k).live = true → (sesOf s k).closing = false →
    (sesOf s k).ended = false →
    (s.clk.us < x.sentUs + 1000 * (pathOf (sesOf s k) x.net).tmo → exec (.retransmitTimeout k seq) s = .next s) ∧
    (timesOut s (sesOf s k) x = true → ∃ t, exec (.retransmitTimeout k seq) s = .next t ∧ changesOnly [.ptn, .net] s t ∧
      ((pathOf (sesOf s k) x.net).fails + 1 = 3 → (pathOf (sesOf t k) x.net).up = false) ∧
      ((pathOf (sesOf s k) x.net).fails + 1 ≠ 3 → (pathOf (sesOf t k) x.net).tmo = min 64 (2 * (pathOf (sesOf s k) x.net).tmo) ∧
        (pathOf (sesOf t k) x.net).fails = (pathOf (sesOf s k) x.net).fails + 1 ∧
        ∀ y ∈ (sesOf t k).flight, y.seq = seq → y.retx = true ∧ y.sentUs = s.clk.us)))

/-- HS_INIT, HS_KEY and HANDSHAKE_TIMEOUT (R365 to R371, R473): a refused handshake is answered with its first reason and counted; an accepted one is
answered with a signed nonce, and its key makes a session on the arrival network; attaching moves the earlier session's requests; a handshake not
finished in 2 s is dropped. Where the manual is silent it states the model's choices of log entries 9, 10, 66. -/
def Obligations.Handshakes : Prop :=
  ∀ (s : State),
  (∀ m, m.port < 8 → m.vid < 4096 → m.hsid < 2 ^ 32 → m.role < 256 → m.flags < 256 → m.idle < 2 ^ 32 →
    ((portTakes s m.port = false ∨ vlanOk s m.port (roleCode m.role) m.vid = false ∨ s.sec.romRec = true) → exec (.hsInit m) s = .next s) ∧
    (portTakes s m.port = true → vlanOk s m.port (roleCode m.role) m.vid = true → s.sec.romRec = false →
      (∀ x, (s.net.shakes.find? fun x => x.hsid == m.hsid) = some x → ∃ t, exec (.hsInit m) s = .next t ∧ changesOnly [.net] s t ∧
        t.net.hsOut = s.net.hsOut ++ [x.answer] ∧ t.net.shakes = s.net.shakes ∧ t.net.sess = s.net.sess) ∧
      ((s.net.shakes.find? fun x => x.hsid == m.hsid) = none →
        (∀ r, hsReason s m = some r → ∃ t, exec (.hsInit m) s = .next t ∧ changesOnly [.net, .sec, .evr] s t ∧
          t.net.hsOut = s.net.hsOut ++ [HsOut.reject m.hsid r] ∧ t.sec.hsFail = satAdd 32 s.sec.hsFail 1 ∧ t.net.shakes = s.net.shakes ∧
          t.net.sess = s.net.sess) ∧
        (hsReason s m = none → ∃ t o x, exec (.hsInit m) s = .next t ∧ changesOnly [.net, .dev] s t ∧ t.net.hsOut = s.net.hsOut ++ [o] ∧ o.ty = 2 ∧
          o.hsid = m.hsid ∧ o.sig = Config.sign 0 (Config.sha512 (m.msg ++ o.nonce)) ∧ t.net.shakes = s.net.shakes ++ [x] ∧ x.hsid = m.hsid ∧ x.m = m ∧
          x.us = s.clk.us ∧ x.answer = o ∧ x.done = false ∧ t.net.sess = s.net.sess)))) ∧
  (∀ port hsid sigOk secret x, port < 8 → hsid < 2 ^ 32 → secret < 2 ^ 512 → portTakes s port = true →
    (s.net.shakes.find? fun x => x.hsid == hsid) = some x → x.done = false →
    (x.us + 2000000 < s.clk.us → exec (.hsKey port hsid sigOk secret) s = .next s) ∧
    (s.clk.us ≤ x.us + 2000000 → sigOk = false → ∃ t, exec (.hsKey port hsid sigOk secret) s = .next t ∧
      t.net.hsOut = s.net.hsOut ++ [HsOut.reject hsid 1] ∧ t.sec.hsFail = satAdd 32 s.sec.hsFail 1 ∧ t.net.sess = s.net.sess ∧
      ∀ y ∈ t.net.shakes, y.hsid ≠ hsid) ∧
    (s.clk.us ≤ x.us + 2000000 → sigOk = true → sesFull s x.m.role = true → ∃ t, exec (.hsKey port hsid sigOk secret) s = .next t ∧
      t.net.hsOut = s.net.hsOut ++ [HsOut.reject hsid 2] ∧ t.net.sess = s.net.sess) ∧
    (s.clk.us ≤ x.us + 2000000 → sigOk = true → sesFull s x.m.role = false →
      let sid := freeSid s (s.net.sess.length + 2) s.net.nextSid
      ∃ t, exec (.hsKey port hsid sigOk secret) s = .next t ∧
        (attachTo s x.m = none → changesOnly [.net, .dev] s t ∧ (∀ k, k ≠ sid → sesOf t k = sesOf s k) ∧
          (sesOf t sid).live = true ∧ (sesOf t sid).lapsed = false ∧ (sesOf t sid).ended = false ∧ (sesOf t sid).closed = false ∧ (sesOf t sid).sid = sid ∧
          (sesOf t sid).role = roleCode x.m.role ∧ (sesOf t sid).pref = x.m.flags % 2 ∧
          (sesOf t sid).keys = (Config.hkdf secret (leBytes x.m.hnonce 32 ++ x.answer.nonce)).toNat ∧
          (sesOf t sid).leaseEnd = afterSec s (leaseOf s (roleCode x.m.role)) ∧ (pathOf (sesOf t sid) (netOf x.m.port)).up = true ∧
          ∃ o, t.net.hsOut = s.net.hsOut ++ [o] ∧ o.ty = 4 ∧ o.arg = sid ∧ o.lease = leaseOf s (roleCode x.m.role) ∧ o.attach = (sesOf t sid).attach) ∧
        (∀ k, attachTo s x.m = some k → k ≠ sid → (sesOf t k).live = false ∧ (sesOf t k).closed = true ∧ (sesOf t k).attachOk = false ∧
          (sesOf t sid).live = true ∧ ∀ ix, (entryOf s ix).st ≠ .free → (entryOf s ix).ses = k → (entryOf t ix).ses = sid))) ∧
  (∀ hsid, hsid < 2 ^ 32 →
    ((s.net.shakes.find? fun x => x.hsid == hsid) = none → exec (.handshakeTimeout hsid) s = .next s) ∧
    (∀ x, (s.net.shakes.find? fun x => x.hsid == hsid) = some x →
      (s.clk.us < x.us + 2000000 → exec (.handshakeTimeout hsid) s = .next s) ∧
      (x.us + 2000000 ≤ s.clk.us → ∃ t, exec (.handshakeTimeout hsid) s = .next t ∧ changesOnly [.net, .sec] s t ∧ (∀ y ∈ t.net.shakes, y.hsid ≠ hsid) ∧
        t.sec.hsFail = (if x.done then s.sec.hsFail else satAdd 32 s.sec.hsFail 1))))

/-- PROBE, PROBE_ACK, PATH_PROBE_TIMER, CLOSE, PORT_LINK_LOSS and PORT_LINK_UP (R357, R372, R373, R378, R379): a probe opens a path and is answered;
three answers in a row bring a down path up; a closed session is over, or kept to be attached; a lost link takes its paths down. Where the manual is
silent it states the model's choices of log entries 66, 67. -/
def Obligations.PathsAndClose : Prop :=
  ∀ (s : State),
  (∀ g pnum, segFields g = true → pnum < 2 ^ 32 → takesSeg s g = true → sesTakes s g.sid = true →
    vlanOk s g.port (sesOf s g.sid).role g.vid = true → g.tagOk = true →
    (∃ t, exec (.probe g pnum) s = .next t ∧ changesOnly [.ptn, .net] s t ∧
      ((sesOf s g.sid).closing = false → (6, netOf g.port, pnum) ∈ (sesOf t g.sid).probesOut) ∧
      ((pathOf (sesOf s g.sid) (netOf g.port)).open_ = false → (pathOf (sesOf t g.sid) (netOf g.port)).open_ = true ∧
        (pathOf (sesOf t g.sid) (netOf g.port)).up = true ∧ (pathOf (sesOf t g.sid) (netOf g.port)).port = g.port) ∧
      ((pathOf (sesOf s g.sid) (netOf g.port)).open_ = true → g.port ∉ (sesOf s g.sid).offer →
        (pathOf (sesOf t g.sid) (netOf g.port)).port = (pathOf (sesOf s g.sid) (netOf g.port)).port ∧
        (pathOf (sesOf t g.sid) (netOf g.port)).up = (pathOf (sesOf s g.sid) (netOf g.port)).up)) ∧
    (let p := pathOf (sesOf s g.sid) (netOf g.port)
     p.open_ = true → p.up = false → p.await = true → pnum + 1 = p.pnum → ∃ t, exec (.probeAck g pnum) s = .next t ∧ changesOnly [.ptn, .net] s t ∧
      (p.acks < 2 → (pathOf (sesOf t g.sid) (netOf g.port)).acks = p.acks + 1 ∧ (pathOf (sesOf t g.sid) (netOf g.port)).up = false) ∧
      (2 ≤ p.acks → (pathOf (sesOf t g.sid) (netOf g.port)).up = true ∧ (pathOf (sesOf t g.sid) (netOf g.port)).tmo = 1)) ∧
    (∀ keep, ∃ t, exec (.close g 0 keep) s = .next t ∧
      (keep = true → t.req = s.req ∧ (sesOf t g.sid).ended = true ∧ (sesOf t g.sid).lapsed = true ∧
        ((sesOf s g.sid).lapsed = false → (sesOf t g.sid).graceEnd = afterSec s (graceOf s (sesOf s g.sid).role))) ∧
      (keep = false → (sesOf t g.sid).live = false ∧ (sesOf t g.sid).closed = true ∧ (sesOf t g.sid).queue = [] ∧ (sesOf t g.sid).flight = []))) ∧
  (∀ k net, k < 2 ^ 32 → net < 2 →
    let p := pathOf (sesOf s k) net
    (((sesOf s k).live = false ∨ p.open_ = false ∨ p.up = true ∨ portServes s p.port = false) → exec (.pathProbeTimer k net) s = .next s) ∧
    ((sesOf s k).live = true → (sesOf s k).ended = false → (sesOf s k).closing = false → p.open_ = true → p.up = false → portServes s p.port = true →
      ∃ t, exec (.pathProbeTimer k net) s = .next t ∧ changesOnly [.net] s t ∧ (sesOf t k).probesOut = (sesOf s k).probesOut ++ [(5, net, p.pnum)] ∧
        (pathOf (sesOf t k) net).pnum = (p.pnum + 1) % 2 ^ 32 ∧ (pathOf (sesOf t k) net).await = true ∧
        (pathOf (sesOf t k) net).acks = (if p.await then 0 else p.acks))) ∧
  (∀ n, n < 8 →
    ((portOf s n).link = false → exec (.portLinkLoss n) s = .next s) ∧
    ((portOf s n).link = true → ∃ t, exec (.portLinkLoss n) s = .next t ∧ changesOnly [.ptn, .net, .evr] s t ∧ (portOf t n).link = false ∧
      (portOf t n).macUp = false ∧ (∀ j, j ≠ n → portOf t j = portOf s j) ∧
      ∀ k, (sesOf s k).live = true → (pathOf (sesOf s k) (netOf n)).open_ = true → (pathOf (sesOf s k) (netOf n)).port = n →
        (pathOf (sesOf t k) (netOf n)).up = false) ∧
    ((portOf s n).enable = false ∨ (portOf s n).link = true ∨ portDieFailed s n = true → exec (.portLinkUp n) s = .next s) ∧
    ((portOf s n).enable = true → (portOf s n).link = false → portDieFailed s n = false → ∃ t, exec (.portLinkUp n) s = .next t ∧ changesOnly [.net, .evr] s t ∧
      (portOf t n).link = true ∧ ∀ j, j ≠ n → portOf t j = portOf s j))

/-- ANNOUNCE_TIMER, SOLICIT, LLDP_TIMER, LLDP_RECEIVE, PFC_PAUSE_RECEIVE, PFC_RECEIVE_BUFFER_DRAIN, MKA_FRAME_RECEIVE and IPV6_NEIGHBOUR_DISCOVERY
(R358 to R360, R380, R381): what each sends on its port, and what it leaves there; a port without link sends and takes nothing. Where the manual is
silent it states the model's choices of log entry 68. -/
def Obligations.DiscoveryAndFlowControl : Prop :=
  ∀ (n : Nat) (s : State), n < 8 →
  (portServes s n = false → ∀ c ∈ [Instr.announceTimer n, .solicit n, .lldpTimer n, .lldpReceive n 1 2, .pfcPauseReceive n 3 9, .mkaFrameReceive n true,
    .ipv6NeighbourDiscovery n true 0 0], exec c s = .next s) ∧
  (portServes s n = true → ∃ t, exec (.announceTimer n) s = .next t ∧ changesOnly [.net] s t ∧ (portOf t n).announces = (portOf s n).announces + 1 ∧
    t.net.announce = s.net.announce ++ [(n, 0, announceBytes s n)] ++ (if (portOf s n).ipv4En then [(n, 1, announceBytes s n)] else [])) ∧
  (portTakes s n = true →
    ((portOf s n).solCnt < 100 → ∃ t, exec (.solicit n) s = .next t ∧ changesOnly [.net] s t ∧ t.net.announce = s.net.announce ++ [(n, 2, announceBytes s n)]) ∧
    (100 ≤ (portOf s n).solCnt → s.clk.us < (portOf s n).solUs + 1000000 → exec (.solicit n) s = .next s) ∧
    (∃ t, exec (.ipv6NeighbourDiscovery n true 0 0) s = .next t ∧ (portOf t n).ndAnswers = (portOf s n).ndAnswers + 1 ∧ changesOnly [.net] s t) ∧
    (∀ pre, pre < 2 ^ 128 → (portOf s n).slaac = true → (portOf s n).ipv6 = 0 → ∃ t, exec (.ipv6NeighbourDiscovery n false pre 64) s = .next t ∧
      changesOnly [.net] s t ∧ (portOf t n).slaacAddr = pre / 2 ^ 64 * 2 ^ 64 + eui64 (tget 0 s.sec.macs n)) ∧
    (∀ pre plen, pre < 2 ^ 128 → plen ≤ 128 → ((portOf s n).slaac = false ∨ (portOf s n).ipv6 ≠ 0 ∨ plen ≠ 64) →
      exec (.ipv6NeighbourDiscovery n false pre plen) s = .next s)) ∧
  (portServes s n = true → ∃ t bs, exec (.lldpTimer n) s = .next t ∧ changesOnly [.net] s t ∧ (portOf t n).lldps = (portOf s n).lldps + 1 ∧
    t.net.announce = s.net.announce ++ [(n, 3, bs)] ∧ (s.sec.serialNo.flatMap fun w => leBytes w.toNat 4) ++ portName n ++ leBytes 120 2 <+: bs) ∧
  (∀ c p, portServes s n = true →
    ((portOf s n).chassis = c → (portOf s n).portid = p → exec (.lldpReceive n c p) s = .next s) ∧
    ((portOf s n).chassis ≠ c ∨ (portOf s n).portid ≠ p → ∃ t, exec (.lldpReceive n c p) s = .next t ∧ changesOnly [.net, .evr] s t ∧
      (portOf t n).chassis = c ∧ (portOf t n).portid = p ∧ (portOf t n).nbrchg = true)) ∧
  (∀ prio q, prio < 8 → q < 65536 →
    ((portOf s n).pfcEn = false ∨ (portOf s n).pfcPrio ≠ prio → exec (.pfcPauseReceive n prio q) s = .next s) ∧
    (portServes s n = true → (portOf s n).pfcEn = true → (portOf s n).pfcPrio = prio → ∃ t, exec (.pfcPauseReceive n prio q) s = .next t ∧
      changesOnly [.net] s t ∧ (portOf t n).pauseRx = 128 * q ∧ ∀ j, j ≠ n → portOf t j = portOf s j)) ∧
  (∀ p, p ≤ 100 → (50 ≤ p → exec (.pfcReceiveBufferDrain n p) s = .next s) ∧
    (p < 50 → ∃ t, exec (.pfcReceiveBufferDrain n p) s = .next t ∧ changesOnly [.net] s t ∧ (portOf t n).pauseTx = false)) ∧
  (∀ up, portServes s n = true → ((portOf s n).macUp = up → exec (.mkaFrameReceive n up) s = .next s) ∧
    ((portOf s n).macUp ≠ up → ∃ t, exec (.mkaFrameReceive n up) s = .next t ∧ changesOnly [.net, .evr] s t ∧ (portOf t n).macUp = up))

/-- FW_STAGE, FW_UPDATE, FW_PROVISIONAL_END, FW_REVERT, FW_FLOOR, FW_ACTIVATE and FIRMWARE_WATCHDOG (R453 to R459): an image is staged in the spare
slot when nothing refuses it; an update ends after 400 ms with that slot active and the floor as the image says, or with the old image; floors never
fall; a command that names no class is refused; a processor that hangs abandons the step, twice it drains the module. Where the manual is silent it
states the model's choices of log entries 69, 104. -/
def Obligations.FirmwareUpdates : Prop :=
  ∀ (h : Hdr) (cls : Nat) (s : State),
  (fwClassOk cls = false →
    (cmdRuns s .operator_ h → ∀ c ∈ [Instr.fwUpdate h cls, .fwFloor h cls], ∃ t, exec c s = .next t ∧ answered s t h 8 [] ∧ changesOnly [.net] s t) ∧
    (opRuns s h → (∃ t, exec (.fwActivate h cls) s = .next t ∧ answered s t h 8 [] ∧ changesOnly [.net] s t) ∧
      ∀ imgCls svn raise rlo rhi wr meas, svn < 65536 → meas < 2 ^ 512 → (∀ u, s.sec.upd = some u → u.cls ≠ cls) →
        ∃ t, exec (.fwStage h cls imgCls svn true raise rlo rhi wr meas) s = .next t ∧ outcomeIs s t h 3 ∧ changesOnly [.net] s t)) ∧
  (1 ≤ cls → cls ≤ 4 →
  (∀ imgCls svn sigOk raise rlo rhi wr meas, opRuns s h → svn < 65536 → meas < 2 ^ 512 →
    let c := Instr.fwStage h cls imgCls svn sigOk raise rlo rhi wr meas
    ((∃ u, s.sec.upd = some u ∧ u.cls = cls) → ∃ t, exec c s = .next t ∧ outcomeIs s t h 6 ∧ changesOnly [.net] s t) ∧
    ((∀ u, s.sec.upd = some u → u.cls ≠ cls) →
      (sigOk = false → ∃ t, exec c s = .next t ∧ outcomeIs s t h 1 ∧ t.sec.fw = s.sec.fw ∧ t.sec.sigFail = satAdd 32 s.sec.sigFail 1) ∧
      (sigOk = true → imgCls ≠ cls → ∃ t, exec c s = .next t ∧ outcomeIs s t h 3 ∧ changesOnly [.net] s t) ∧
      (sigOk = true → imgCls = cls → svn < (fwOf s cls).floor → ∃ t, exec c s = .next t ∧ outcomeIs s t h 2 ∧ changesOnly [.net] s t) ∧
      (sigOk = true → imgCls = cls → (fwOf s cls).floor ≤ svn → ∃ t, exec c s = .next t ∧ outcomeIs s t h 0 ∧ changesOnly [.net, .sec] s t ∧
        spareImg (fwOf t cls) = { valid := true, svn := svn, raise_ := raise, rlo := rlo, rhi := rhi, wr := wr, meas := meas } ∧
        activeImg (fwOf t cls) = activeImg (fwOf s cls) ∧ (fwOf t cls).staged = true ∧ ∀ k, k ≠ cls → fwOf t k = fwOf s k))) ∧
  (cmdRuns s .operator_ h →
    ((fwOf s cls).staged = false ∨ (spareImg (fwOf s cls)).valid = false → ∃ t, exec (.fwUpdate h cls) s = .next t ∧ outcomeIs s t h 5 ∧ changesOnly [.net] s t) ∧
    ((fwOf s cls).staged = true → (spareImg (fwOf s cls)).valid = true →
      (s.sec.upd ≠ none ∨ s.hist.draining = true ∨ s.hist.inRepl = true ∨ holding s = true ∨
          schemaOk (activeImg (fwOf s cls)) (spareImg (fwOf s cls)) = false ∨ (spareImg (fwOf s cls)).svn < (fwOf s cls).floor →
        ∃ t, exec (.fwUpdate h cls) s = .next t ∧ outcomeIs s t h 6 ∧ changesOnly [.net] s t) ∧
      (s.sec.upd = none → s.hist.draining = false → s.hist.inRepl = false → holding s = false →
          schemaOk (activeImg (fwOf s cls)) (spareImg (fwOf s cls)) = true → (fwOf s cls).floor ≤ (spareImg (fwOf s cls)).svn →
        ∃ t, exec (.fwUpdate h cls) s = .next t ∧ changesOnly [.net, .sec] s t ∧ (sesOf t h.ses).queue = (sesOf s h.ses).queue ∧ t.sec.fw = s.sec.fw ∧
          t.sec.upd = some { cls := cls, h := h, us := s.clk.us, step := s.sch.stepNo } ∧
          t.sec.updNow = ((cls == 2 || cls == 4) && s.sch.cur.isSome))) ∧
    (∃ t, exec (.fwFloor h cls) s = .next t ∧ outcomeIs s t h 0 ∧ changesOnly [.net, .sec] s t ∧
      (fwOf t cls).floor = max (fwOf s cls).floor (activeImg (fwOf s cls)).svn)) ∧
  (opRuns s h → s.sec.safe = false → ∃ t, exec (.fwActivate h cls) s = .next t ∧ outcomeIs s t h 6 ∧ changesOnly [.net] s t) ∧
  (opRuns s h → s.sec.safe = true →
    ((spareImg (fwOf s cls)).valid = false → ∃ t, exec (.fwActivate h cls) s = .next t ∧ outcomeIs s t h 5 ∧ changesOnly [.net] s t) ∧
    ((spareImg (fwOf s cls)).valid = true → (spareImg (fwOf s cls)).svn < (fwOf s cls).floor →
      ∃ t, exec (.fwActivate h cls) s = .next t ∧ outcomeIs s t h 2 ∧ changesOnly [.net] s t) ∧
    ((spareImg (fwOf s cls)).valid = true → (fwOf s cls).floor ≤ (spareImg (fwOf s cls)).svn → ∃ t, exec (.fwActivate h cls) s = .next t ∧ outcomeIs s t h 0 ∧
      activeImg (fwOf t cls) = spareImg (fwOf s cls) ∧ (fwOf t cls).staged = false ∧ changesOnly [.net, .sec] s t)) ∧
  (∀ u, s.sec.upd = some u → s.sec.updNow = false →
    (s.clk.us < u.us + 400000 ∨ warned s = true → exec .fwProvisionalEnd s = .next s) ∧
    (u.us + 400000 ≤ s.clk.us → warned s = false → ∃ t, exec .fwProvisionalEnd s = .next t ∧ t.sec.upd = none ∧
      activeImg (fwOf t u.cls) = spareImg (fwOf s u.cls) ∧ (fwOf t u.cls).staged = false ∧
      (fwOf t u.cls).floor = (if (spareImg (fwOf s u.cls)).raise_ then max (fwOf s u.cls).floor (spareImg (fwOf s u.cls)).svn else (fwOf s u.cls).floor) ∧
      (canAnswer s u.h → outcomeIs s t u.h 0)) ∧
    (s.clk.us < u.us + 500000 → exec .fwRevert s = .next s) ∧
    (u.us + 500000 ≤ s.clk.us → ∃ t, exec .fwRevert s = .next t ∧ t.sec.upd = none ∧ t.sec.fw = s.sec.fw ∧ (canAnswer s u.h → outcomeIs s t u.h 4))) ∧
  (s.sec.upd = none → exec .fwProvisionalEnd s = .next s ∧ exec .fwRevert s = .next s) ∧
  (∀ unit, fwUnitOk cls unit = true →
    ((∃ u, s.sec.upd = some u ∧ u.cls = cls) → s.sec.updNow = false → ∃ t, exec (.firmwareWatchdog cls unit) s = .next t ∧ t.sec.upd = none ∧
      t.sec.fw = s.sec.fw) ∧
    ((∀ u, s.sec.upd = some u → u.cls ≠ cls) →
      ((∀ e ∈ s.sec.fwSeen, e.1 = cls * 2 ^ 32 + unit → e.2 + 36000000 < s.clk.hours) → ∃ t, exec (.firmwareWatchdog cls unit) s = .next t ∧
        (cls * 2 ^ 32 + unit, s.clk.hours) ∈ t.sec.fwSeen ∧ t.hist = { s.hist with audit := t.hist.audit } ∧
        ∀ c, s.sch.cur = some c → ∃ c', t.sch.cur = some c' ∧ c'.abandoning = true ∧ c'.att = c.att + 1 ∧ c'.redo = false) ∧
      ((∃ e ∈ s.sec.fwSeen, e.1 = cls * 2 ^ 32 + unit ∧ s.clk.hours ≤ e.2 + 36000000) → ∃ t, exec (.firmwareWatchdog cls unit) s = .next t ∧
        (t.hist.draining || t.hist.inRepl) = true ∧ t.hist.faultsP = satAdd 32 s.hist.faultsP 1))))

/-- CLAIM, OWNER_ROTATE, RELEASE, KEY_ROTATE, CFG_WRITE, CFG_RESOLVE, CFG_RESOLVE_RESET and ATTEST (R462 to R467, R471): an unclaimed module takes an
owner key once, only its owner replaces it; the scramble key changes with no canvas resident; the copy of the lower sequence number takes a new owner
section; a report is signed and its serial rises. Where the manual is silent it states the model's choices of log entries 9, 10, 69, 70, 104. -/
def Obligations.OwnershipAndConfiguration : Prop :=
  ∀ (h : Hdr) (s : State),
  (∀ key, key < 2 ^ 4096 → cmdRuns s .claimant h →
    (s.sec.claimed = true ∨ roleH s h ≠ 17 → ∃ t, exec (.claim h key) s = .next t ∧ answered s t h 8 [] ∧ changesOnly [.net] s t) ∧
    (s.sec.claimed = false → roleH s h = 17 → ∃ t, exec (.claim h key) s = .next t ∧ answered s t h 0 [] ∧ t.sec.claimed = true ∧ t.sec.ownerKey = key ∧
      t.sec.ownerGen = 1 ∧ (sesOf t h.ses).closeOut = some 0 ∧ changesOnly [.net, .sec, .evr] s t)) ∧
  (cmdRuns s .operator_ h →
    (∀ key, key < 2 ^ 4096 →
      (∃ t, exec (.ownerRotate h key true) s = .next t ∧ answered s t h 0 [] ∧ t.sec.ownerKey = key ∧ t.sec.ownerGen = s.sec.ownerGen + 1 ∧
        changesOnly [.net, .sec, .evr] s t) ∧
      (∃ t, exec (.ownerRotate h key false) s = .next t ∧ answered s t h 8 [] ∧ t.sec.ownerKey = s.sec.ownerKey ∧ t.sec.ownerGen = s.sec.ownerGen ∧
        t.sec.sigFail = satAdd 32 s.sec.sigFail 1)) ∧
    (anyResident s = true → ∃ t, exec (.keyRotate h) s = .next t ∧ answered s t h 8 [] ∧ changesOnly [.net] s t) ∧
    (anyResident s = false → ∃ t, exec (.keyRotate h) s = .next t ∧ answered s t h 0 [] ∧ t.sec.scrGen = s.sec.scrGen + 1 ∧
      changesOnly [.net, .sec, .evr] s t) ∧
    (s.sec.recovery = false →
      (∃ t, exec (.release h false) s = .next t ∧ answered s t h 8 [] ∧ t.sec.sigFail = satAdd 32 s.sec.sigFail 1 ∧ t.sec.relErase = s.sec.relErase) ∧
      ((anyLoad s || anyErase s || s.hist.draining || s.hist.inRepl || holding s || !(enabledPtns s).isEmpty) = true →
        ∃ t, exec (.release h true) s = .next t ∧ answered s t h 8 [] ∧ changesOnly [.net] s t) ∧
      ((anyLoad s || anyErase s || s.hist.draining || s.hist.inRepl || holding s || !(enabledPtns s).isEmpty) = false →
        ∃ t, exec (.release h true) s = .next t ∧ t.sec.relErase = some h ∧ (∀ c, c < 4 → (cnvOf t c).st = 0) ∧
          (sesOf t h.ses).queue = (sesOf s h.ses).queue ∧ changesOnly [.cnv, .net, .sec] s t)) ∧
    (∀ sigOk svn own, svn < 65536 →
      let c := Instr.cfgWrite h sigOk svn own
      (s.hist.draining = true ∨ s.hist.inRepl = true → ∃ t, exec c s = .next t ∧ outcomeIs s t h 6 ∧ changesOnly [.net] s t) ∧
      (s.hist.draining = false → s.hist.inRepl = false →
        (sigOk = false → ∃ t, exec c s = .next t ∧ outcomeIs s t h 1 ∧ t.sec.cfgA = s.sec.cfgA ∧ t.sec.cfgB = s.sec.cfgB) ∧
        (sigOk = true → svn < s.sec.cfgFloor → ∃ t, exec c s = .next t ∧ outcomeIs s t h 2 ∧ changesOnly [.net] s t) ∧
        (sigOk = true → s.sec.cfgFloor ≤ svn → ∃ t, exec c s = .next t ∧ outcomeIs s t h 0 ∧ changesOnly [.net, .sec] s t ∧
          let n : CfgCopy := { ok := true, seq := max s.sec.cfgA.seq s.sec.cfgB.seq + 1, own := own }
          (s.sec.cfgA.seq ≤ s.sec.cfgB.seq → t.sec.cfgA = n ∧ t.sec.cfgB = s.sec.cfgB) ∧
          (s.sec.cfgB.seq < s.sec.cfgA.seq → t.sec.cfgA = s.sec.cfgA ∧ t.sec.cfgB = n))))) ∧
  (opRuns s h → ∀ copy copyOk, copy < 2 →
    (s.sec.cfgConf = false → ∃ t, exec (.cfgResolve h copy copyOk) s = .next t ∧ outcomeIs s t h 6 ∧ changesOnly [.net] s t) ∧
    (s.sec.cfgConf = true → copyOk = false → ∃ t, exec (.cfgResolve h copy copyOk) s = .next t ∧ outcomeIs s t h 1 ∧ changesOnly [.net] s t) ∧
    (s.sec.cfgConf = true → copyOk = true → ∃ t, exec (.cfgResolve h copy copyOk) s = .next t ∧ outcomeIs s t h 0 ∧ changesOnly [.net, .sec] s t ∧
      t.sec.cfgA = (if copy = 0 then s.sec.cfgA else s.sec.cfgB) ∧ t.sec.cfgB = t.sec.cfgA ∧ t.sec.resolve = some s.clk.us)) ∧
  (s.sec.resolve = none → exec .cfgResolveReset s = .next s) ∧
  (∀ u, s.sec.resolve = some u →
    (s.clk.us < u + 100000 → exec .cfgResolveReset s = .next s) ∧
    (u + 100000 ≤ s.clk.us → ∃ t, exec .cfgResolveReset s = .next t ∧ t.dev.row = 2 ∧ t.sec.resolve = none ∧ t.sec.cfgA = s.sec.cfgA ∧
      t.sec.cfgB = s.sec.cfgB ∧ t.sch.cur = none ∧ t.net = State.reset.net ∧ t.pending = s.pending)) ∧
  (opRuns s h → ∀ nonce, nonce < 2 ^ 256 → ∃ t b, exec (.attest h nonce) s = .next t ∧ answered s t h 0 (b ++ Config.sign 0 b) ∧
    t.sec.serial = (s.sec.serial + 1) % 2 ^ 64 ∧ t.sec.attests = satAdd 32 s.sec.attests 1 ∧ changesOnly [.net, .sec] s t ∧
    leBytes 1 2 ++ leBytes (b2n s.sec.safe + b2n (s.sec.upd.isSome && !s.sec.updNow) * 2 + b2n s.sec.claimed * 8) 1 ++ leBytes 0 1 ++ leBytes 1792 4 ++
      leBytes t.sec.serial 8 ++ leBytes nonce 32 ++ Config.sha512 Config.deviceCert <+: b)

/-- REG_READ and REG_WRITE (R549 to R554, R558): registers are read or written in ascending order up to the first that the path does not reach; the
reply says how many were done and why it stopped; a partition session reaches its own block only, and in safe state no register is written. Where the
manual is silent it states the model's choices of log entry 71. -/
def Obligations.RegisterMessages : Prop :=
  ∀ (h : Hdr) (s : State),
  let u := takeMessage h s
  let p := pathOfHdr s h
  (opRuns s h → ∀ a count, a < 2 ^ 32 → count < 2 ^ 16 →
    (rangeOk a count = false → ∃ t, exec (.regRead h a count) s = .next t ∧ answered s t h 8 (regBody a 0 none []) ∧ changesOnly [.net] s t) ∧
    (rangeOk a count = true → ∃ t, exec (.regRead h a count) s = .next t ∧ changesOnly [.net] (readMany p a 0 count u).2.2.2 t)) ∧
  (opRuns s h → ∀ a, a + 4 ≤ 2 ^ 24 →
    (∀ b o, accessOf u p false a = (0, some (b, o)) → ∃ t, exec (.regRead h a 1) s = .next t ∧
      answered s t h 0 (regBody a 1 none [BitVec.ofNat 32 ((blockReg u (pathQuery u p) b o).getD 0)]) ∧
      (b = .evr → o = 0x010 → t.evr.dropped = 0) ∧ (b = .hlth → o = 0x018 → t.hist.faultsT = 0) ∧ (b = .sec → o = 0x034 → t.sec.attests = 0) ∧
      ((∃ n, b = .ptn n) ∨ b = .dev → changesOnly [.net] s t)) ∧
    (∀ e, e ≠ 0 → accessOf u p false a = (e, none) → ∃ t, exec (.regRead h a 1) s = .next t ∧ answered s t h 8 (regBody a 0 (some (e, 0)) [0]) ∧
      changesOnly [.net] s t)) ∧
  (cmdRuns s .any h → roleH s h = 16 → ∀ v w : Word,
    (∀ a vs, a < 2 ^ 32 → rangeOk a vs.length = true → ∃ t, exec (.regWrite h a vs.length vs) s = .next t ∧ changesOnly [.net] (writeMany p a 0 vs u).2.2 t) ∧
    (∃ t, exec (.regWrite h 0x050 1 [v]) s = .next t ∧ answered s t h 0 (regBody 0x050 1 none []) ∧ t.dev = { s.dev with scratch := v } ∧
      changesOnly [.net, .dev] s t) ∧
    (∃ t, exec (.regWrite h 0x044 2 [v, w]) s = .next t ∧ answered s t h 0 (regBody 0x044 2 none []) ∧ changesOnly [.net, .dev] s t ∧
      t.dev.opLease = (if 1 ≤ fld v.toNat 0 8 ∧ fld v.toNat 0 8 ≤ 60 then fld v.toNat 0 8 else s.dev.opLease) ∧
      t.dev.opGrace = (if fld v.toNat 8 12 ≤ 3600 then fld v.toNat 8 12 else s.dev.opGrace) ∧
      t.dev.budget = (if fld w.toNat 0 10 ≤ 600 then fld w.toNat 0 10 else s.dev.budget)) ∧
    (∃ t, exec (.regWrite h 0x000 1 [v]) s = .next t ∧ answered s t h 0 (regBody 0x000 1 none []) ∧ changesOnly [.net] s t)) ∧
  (opRuns s h → s.sec.safe = true → ∀ a count vs, a < 2 ^ 32 → count < 2 ^ 16 → ∃ t, exec (.regWrite h a count vs) s = .next t ∧ answered s t h 8 [] ∧
    changesOnly [.net] s t) ∧
  (cmdRuns s .any h → roleH s h < 12 → ∀ v : Word, ∃ t, exec (.regWrite h 0x10000 1 [v]) s = .next t ∧
    answered s t h 8 (regBody 0x10000 0 (some (1, 0)) []) ∧ changesOnly [.net] s t)

/-- CAL_CMD_ALL, CLEAR, SWTRIG, HOLD_REQ, PLIM, PTN_ENABLE, CNV_ENABLE, SKETCH_EN, AUDIT_EN, QUERY and REGISTER_WRITE (R341, R342, R424, R493, R504,
R509, R551, R561, R564): what each write of its register does; an access that is refused or whose session is gone does nothing. Where the manual is
silent it states the model's choices of log entries 71, 72. -/
def Obligations.RegisterRows : Prop :=
  ∀ (p : Path) (v : Word) (s : State),
  (rowRuns s p 0x30004 .cal 4 → ∃ t, exec (.calCmdAll p v) s = .next t ∧ changesOnly [.cal] s t ∧
    (bitOf v.toNat 0 = true → ∀ cl ∈ allClusters, bitOf (calOf t cl).due 6 = true) ∧ (bitOf v.toNat 0 = false → t = s)) ∧
  (rowRuns s p 0x20000 .evr 0 →
    (bitOf v.toNat 1 = true → ∃ t, exec (.clear p v) s = .next t ∧ changesOnly [.evr] s t ∧ t.evr.clearing = true ∧ t.evr.arm = bitOf v.toNat 0 ∧
      t.evr.recs = s.evr.recs) ∧
    (bitOf v.toNat 0 = true → bitOf v.toNat 1 = false → bitOf v.toNat 2 = true → (trigOf s 31).en = true → (trigOf s 31).holdoff = 0 → s.evr.full = false →
      s.evr.queue.length < 64 → ∃ t r, exec (.swtrig p v) s = .next t ∧ changesOnly [.evr] s t ∧ t.evr.queue = s.evr.queue ++ [r] ∧ r.trig = 31 ∧
        r.arg = s.evr.swarg.toNat ∧ r.hours = s.clk.hours)) ∧
  (rowRuns s p 0x10000 .pwr 0 →
    (bitOf v.toNat 10 = s.pwr.holdReq → ∃ t, exec (.plim p v) s = .next t ∧ changesOnly [.pwr] s t ∧
      t.pwr.plim = (if 200 ≤ fld v.toNat 0 10 ∧ fld v.toNat 0 10 ≤ 720 then fld v.toNat 0 10 else s.pwr.plim) ∧ t.pwr.flowchk = bitOf v.toNat 11 ∧
      t.pwr.holdReq = s.pwr.holdReq) ∧
    (bitOf v.toNat 10 = true → s.pwr.holdReq = false → running_ s = true → ∃ t, exec (.holdReq p v) s = .next t ∧ t.pwr.holdReq = true ∧
      holding t = true ∧ bitOf t.pwr.events 7 = true) ∧
    (bitOf v.toNat 10 = false → s.pwr.holdReq = true → ∃ t, exec (.holdReq p v) s = .next t ∧ t.pwr.holdReq = false ∧
      (running_ s = true → s.pwr.holdPin = false → s.pwr.tjHold = false → warned s = false → s.dev.shutting = false →
        t.pwr.state = if s.dev.row < 7 then 1 else 2))) ∧
  (∀ n, n < 12 → rowRuns s p (0x100000 + n * 0x10000) (.ptn n) 0 →
    (bitOf v.toNat 0 = true → (ptnOf s n).enabled = false → (ptnOf s n).keyBad = false → ∃ t, exec (.ptnEnable p n v) s = .next t ∧
      changesOnly [.ptn, .dev] s t ∧ (ptnOf t n).enable = true ∧ (ptnOf t n).enabled = true ∧ ((ptnOf t n).sealed = true → (ptnOf t n).key ≠ 0) ∧
      ∀ m, m ≠ n → ptnOf t m = ptnOf s m) ∧
    (bitOf v.toNat 0 = false → (ptnOf s n).enable = true → (ptnOf s n).sealed = false → ∃ t, exec (.ptnEnable p n v) s = .next t ∧
      changesOnly [.ptn] s t ∧ (ptnOf t n).enable = false ∧ (ptnOf t n).enabled = (ptnOf s n).enabled ∧ (ptnOf t n).canvas = (ptnOf s n).canvas)) ∧
  (∀ c, c < 4 → rowRuns s p (0x50000 + c * 0x1000) (.cnv c) 0 → ∀ i ∈ [Instr.cnvEnable p c v, .sketchEn p c v], ∃ t, exec i s = .next t ∧
    changesOnly [.cnv] s t ∧ (cnvOf t c).enable = bitOf v.toNat 0 ∧ (cnvOf t c).enabled = ((cnvOf s c).enabled || bitOf v.toNat 0) ∧
    (cnvOf t c).sketchEn = bitOf v.toNat 1 ∧ (cnvOf t c).sketchOn = ((cnvOf s c).sketchOn || bitOf v.toNat 1) ∧ ∀ d, d ≠ c → cnvOf t d = cnvOf s d) ∧
  (rowRuns s p 0x40004 .hlth 4 → ∃ t, exec (.auditEn p v) s = .next t ∧ t.hist.auditEn = bitOf v.toNat 0 ∧
    t.hist.frac = (if 6 ≤ fld v.toNat 1 4 ∧ fld v.toNat 1 4 ≤ 12 then fld v.toNat 1 4 else s.hist.frac) ∧
    (s.hist.auditEn = false ∨ bitOf v.toNat 0 = true → changesOnly [.hist] s t ∧ t.hist.audit = s.hist.audit)) ∧
  (rowRuns s p 0x40080 .hlth 0x80 → ∃ t, exec (.query p v) s = .next t ∧ pathQuery t p = v ∧ changesOnly [.net, .hist] s t) ∧
  (∀ n c, 12 ≤ n → 4 ≤ c → ∀ i ∈ [Instr.ptnEnable p n v, .cnvEnable p c v, .sketchEn p c v], exec i s = .next s) ∧
  (∀ a b o, rowRuns s p a b o → exec (.registerWrite p a v) s = .next (writeBlock p b o v s)) ∧
  (∀ a e, accessOf s p true a = (e, none) → exec (.registerWrite p a v) s = .next s) ∧
  (pathLive s p = false ∨ (s.sec.safe = true ∧ p ≠ .sideband) → ∀ n c a,
    ∀ i ∈ [Instr.calCmdAll p v, .clear p v, .swtrig p v, .holdReq p v, .plim p v, .ptnEnable p n v, .cnvEnable p c v, .sketchEn p c v, .auditEn p v,
      .query p v, .registerWrite p a v], exec i s = .next s)

/-- RECORD_WRITE, RECORDER_COMMIT and RECORDER_CLEAR_END (R494, R499, R502, R504, R505): the oldest waiting record takes the next slot with the
present EPOCH; a full recorder drops it; a commit puts what is held into flash; a clear empties the recorder and raises EPOCH. Where the manual is
silent it states the model's choices of log entry 71. -/
def Obligations.RecorderRows : Prop :=
  ∀ (s : State),
  (s.evr.queue = [] ∨ s.evr.clearing = true → exec .recordWrite s = .next s) ∧
  (∀ r rest, s.evr.queue = r :: rest → s.evr.clearing = false → ∃ t, exec .recordWrite s = .next t ∧ changesOnly [.evr] s t ∧ t.evr.queue = rest ∧
    (s.evr.full = true → t.evr.dropped = satAdd 32 s.evr.dropped 1 ∧ t.evr.recs = s.evr.recs ∧ t.evr.count = s.evr.count) ∧
    (s.evr.full = false → t.evr.count = s.evr.count + 1 ∧ t.evr.full = decide (s.evr.count + 1 = 16384) ∧ t.evr.uncomm = s.evr.uncomm + 1 ∧
      t.evr.fRecs = s.evr.fRecs ∧
      ∀ k, tget none t.evr.recs k = if k = s.evr.count then some { r with epoch := s.evr.epoch } else tget none s.evr.recs k)) ∧
  (s.evr.uncomm < 256 → (s.evr.uncomm = 0 ∨ s.clk.us < s.evr.dueUs + 60000000) → exec .recorderCommit s = .next s) ∧
  (256 ≤ s.evr.uncomm ∨ (0 < s.evr.uncomm ∧ s.evr.dueUs + 60000000 ≤ s.clk.us) → ∃ t, exec .recorderCommit s = .next t ∧ changesOnly [.evr] s t ∧
    t.evr.recs = s.evr.recs ∧ t.evr.count = s.evr.count ∧
    (s.evr.clearing = true → t.evr.cmtWait = true ∧ t.evr.fRecs = s.evr.fRecs) ∧
    (s.evr.clearing = false → t.evr.fRecs = s.evr.recs ∧ t.evr.fCount = s.evr.count ∧ t.evr.fEpoch = s.evr.epoch ∧ t.evr.uncomm = 0 ∧
      t.evr.lastCmt = s.clk.hours)) ∧
  (s.evr.clearing = false → exec .recorderClearEnd s = .next s) ∧
  (s.evr.clearing = true → ∃ t, exec .recorderClearEnd s = .next t ∧ changesOnly [.evr] s t ∧ t.evr.clearing = false ∧ t.evr.count = 0 ∧
    t.evr.full = false ∧ t.evr.epoch = (if 65535 ≤ s.evr.epoch then 1 else s.evr.epoch + 1) ∧ t.evr.queue = s.evr.queue ∧
    (s.evr.cmtWait = true → t.evr.fCount = 0 ∧ t.evr.fEpoch = t.evr.epoch))

/-- ADDR, READ, WRITE, STATUS, RCV_STATUS, RCV_DATA and RCV_DONE (R452, R526, R527): a transfer whose PEC fails is refused; register transfers move
the pointer; in ROM recovery they report busy, and the recovery window takes an image into slot A. ENTDAA, SETDASA, ENEC, TAP_INSTRUCTION_LOAD,
TRST_N_ASSERT and SMBUS_CLOCK_LOW_TIMEOUT (R525, R526, R528, R529): a target with no dynamic address takes one; in-band interrupts are enabled; a TAP
takes its instruction, as BYPASS outside its condition; a clock held low drops the transfer after 35 ms and not before 25 ms. Where the manual is
silent it states the model's choices of log entries 1, 74. -/
def Obligations.SidebandRows : Prop :=
  (∀ (s : State), sbAlive s = true →
  (∀ a n vs bytes byte ok, n < 256 → ∀ c ∈ [Instr.addr false a, .read false n, .write false vs, .status false, .rcvStatus false, .rcvData false bytes,
      .rcvDone false byte ok], exec c s = .next { s with brd := { s.brd with sbLast := 4, sbOut := [], sbNack := true } }) ∧
  (s.sec.romRec = false →
    (∀ a, exec (.addr true a) s = .next { s with brd := { s.brd with ptr := a.toNat, sbLast := 0, sbOut := [], sbNack := false } }) ∧
    (exec (.status true) s = .next { s with brd := { s.brd with sbOut := [BitVec.ofNat 32 s.brd.sbLast], sbNack := false } }) ∧
    (∀ n, n < 256 → (n < 1 ∨ 8 < n) → exec (.read true n) s = .next { s with brd := { s.brd with sbOut := [], sbNack := true } }) ∧
    (∀ n, 1 ≤ n → n ≤ 8 →
      let r := readMany .sideband s.brd.ptr 0 n s
      ∃ t, exec (.read true n) s = .next t ∧ changesOnly [.brd] r.2.2.2 t ∧ t.brd.sbOut = r.1 ∧ t.brd.sbOut.length = n ∧ t.brd.sbLast = errCode r.2.2.1 ∧
        t.brd.sbNack = false ∧ t.brd.ptr = (s.brd.ptr + 4 * n) % 2 ^ 32) ∧
    (∀ vs : List Word, (vs.length < 1 ∨ 8 < vs.length) → exec (.write true vs) s = .next { s with brd := { s.brd with sbOut := [], sbNack := true } }) ∧
    (∀ vs : List Word, 1 ≤ vs.length → vs.length ≤ 8 →
      let r := writeMany .sideband s.brd.ptr 0 vs s
      ∃ t, exec (.write true vs) s = .next t ∧ changesOnly [.brd] r.2.2 t ∧ t.brd.sbLast = errCode r.2.1 ∧ t.brd.sbNack = false ∧
        t.brd.ptr = (r.2.2.brd.ptr + 4 * r.1) % 2 ^ 32 ∧ r.1 ≤ vs.length ∧ (r.2.1 = none → r.1 = vs.length)) ∧
    (∀ bytes byte ok, ∀ c ∈ [Instr.rcvStatus true, .rcvData true bytes, .rcvDone true byte ok],
      exec c s = .next { s with brd := { s.brd with sbOut := [], sbNack := true } })) ∧
  (s.sec.romRec = true →
    (∀ a n vs, n < 256 → ∀ c ∈ [Instr.addr true a, .read true n, .write true vs, .status true],
      exec c s = .next { s with brd := { s.brd with sbLast := 3, sbOut := [], sbNack := false } }) ∧
    (exec (.rcvStatus true) s = .next { s with brd := { s.brd with sbLast := 0, sbOut := [BitVec.ofNat 32 s.sec.rcv], sbNack := false } }) ∧
    (∀ bytes, 1 ≤ bytes.length → bytes.length ≤ 32 → ∃ t, exec (.rcvData true bytes) s = .next t ∧ changesOnly [.sec, .brd] s t ∧ t.brd.sbNack = false ∧
      t.sec.rcv = 1 ∧ t.sec.rcvBytes = (if s.sec.rcv = 1 then s.sec.rcvBytes ++ bytes else bytes)) ∧
    (∀ byte ok, (byte ≠ 0xA5 ∨ s.sec.rcv ≠ 1) → exec (.rcvDone true byte ok) s = .next { s with brd := { s.brd with sbOut := [], sbNack := true } }) ∧
    (s.sec.rcv = 1 →
      (∃ t, exec (.rcvDone true 0xA5 false) s = .next t ∧ t.sec.rcv = 3 ∧ t.sec.rcvBytes = [] ∧ t.sec.fw = s.sec.fw ∧ changesOnly [.sec, .brd] s t) ∧
      (∃ t, exec (.rcvDone true 0xA5 true) s = .next t ∧ t.sec.rcv = 4 ∧ t.dev.row = 2 ∧ (fwOf t 1).a.valid = true ∧ (fwOf t 1).actB = false ∧
        (fwOf t 1).a.meas = leNat (Config.sha512 s.sec.rcvBytes) ∧ (fwOf t 1).floor = (fwOf s 1).floor ∧ (fwOf t 1).b = (fwOf s 1).b ∧
        ∀ k, k ≠ 1 → fwOf t k = fwOf s k)))) ∧
  (∀ (s : State),
  (∀ a, a < 128 →
    (sbAlive s = true → s.brd.dynAddr = none → exec (.entdaa a) s = .next { s with brd := { s.brd with dynAddr := some a } } ∧
      exec (.setdasa (0x50 + s.brd.straps % 4) a) s = .next { s with brd := { s.brd with dynAddr := some a } }) ∧
    (sbAlive s = false ∨ s.brd.dynAddr ≠ none → exec (.entdaa a) s = .next s) ∧
    (∀ x, x < 128 → x ≠ 0x50 + s.brd.straps % 4 → exec (.setdasa x a) s = .next s)) ∧
  (∀ bits, bits < 256 → (sbAlive s = false → exec (.enec bits) s = .next s) ∧
    (sbAlive s = true → exec (.enec bits) s = .next { s with brd := { s.brd with enec := s.brd.enec ||| bits } })) ∧
  (∀ tap op, tap < 5 →
    (s.pwr.off = true ∨ s.brd.prsnt = false → exec (.tapInstructionLoad tap op) s = .next s) ∧
    (s.pwr.off = false → s.brd.prsnt = true → ∃ t, exec (.tapInstructionLoad tap op) s = .next t ∧ changesOnly [.brd] s t ∧ t.brd.trst = false ∧
      tget 1 t.brd.taps tap = (if op = 1 then 1 else if op < 8 ∧ tapOpen s = true then op else 0) ∧
      ∀ j, j ≠ tap → tget 1 t.brd.taps j = tget 1 s.brd.taps j)) ∧
  (∃ t, exec .trstNAssert s = .next t ∧ changesOnly [.brd] s t ∧ t.brd.trst = true ∧ ∀ j, tget 1 t.brd.taps j = 1) ∧
  (∀ ms, (ms < 25 → exec (.smbusClockLowTimeout ms) s = .next s) ∧
    (25 ≤ ms → ∃ t, exec (.smbusClockLowTimeout ms) s = .next t ∧ changesOnly [.brd, .free] s t ∧ (t.brd.sbOut = [] ∨ (ms < 35 ∧ t.brd = s.brd)))))

/-- HOLD_N_ASSERT, HOLD_N_RELEASE, HOLD_QUIESCE_TIMEOUT, PWRWARN_N_ASSERT, PWRWARN_N_RELEASE, INPUT_UNDERVOLTAGE and INPUT_UV_RELEASE (R475, R490,
R491): a hold stops writing and, 1.5 ms on, parks the module with the step in flight abandoned; a warning does so at once, commits unit history and
the recorder, and holds the module up; with none left the module goes on. Where the manual is silent it states the model's choices of log entry 73. -/
def Obligations.HoldsAndWarnings : Prop :=
  ∀ (s : State),
  (s.pwr.holdPin = true → exec .holdNAssert s = .next s) ∧
  (s.pwr.holdPin = false →
    (running_ s = false → exec .holdNAssert s = .next { s with pwr := { s.pwr with holdPin := true } }) ∧
    (running_ s = true → ∃ t, exec .holdNAssert s = .next t ∧ t.pwr.holdPin = true ∧ bitOf t.pwr.events 7 = true ∧ t.pwr.state = s.pwr.state ∧
      (held s = false → s.dev.shutting = false → t.pwr.holdUs = s.clk.us ∧
        ∀ k, (tget RowProg.init t.arr.rows k).row = 0 ∧ (tget RowProg.init t.arr.rows k).iters = 0))) ∧
  (s.pwr.holdPin = false → exec .holdNRelease s = .next s) ∧
  (s.pwr.holdPin = true → ∃ t, exec .holdNRelease s = .next t ∧ t.pwr.holdPin = false ∧ t.pwr.holdReq = s.pwr.holdReq ∧
    (running_ s = true → s.pwr.holdReq = false → s.pwr.tjHold = false → warned s = false → s.dev.shutting = false →
      t.pwr.state = if s.dev.row < 7 then 1 else 2)) ∧
  (held s = false → s.dev.shutting = false → exec .holdQuiesceTimeout s = .next s) ∧
  (s.clk.us < s.pwr.holdUs + 1500 → exec .holdQuiesceTimeout s = .next s) ∧
  (held s = true → warned s = false → s.pwr.holdUs + 1500 ≤ s.clk.us → (s.pwr.state = 2 ∨ (s.pwr.state = 1 ∧ 5 ≤ s.dev.row)) →
    ∃ t, exec .holdQuiesceTimeout s = .next t ∧ changesOnly [.seq, .sch, .cnv, .pwr, .hist] s t ∧ t.pwr = { s.pwr with state := 3 } ∧
      ∀ c, s.sch.cur = some c → ∃ c', t.sch.cur = some c' ∧ c'.abandoning = true) ∧
  (s.pwr.warnPin = true → exec .pwrwarnNAssert s = .next s) ∧
  (s.pwr.warnPin = false → running_ s = false → exec .pwrwarnNAssert s = .next { s with pwr := { s.pwr with warnPin := true } }) ∧
  (s.pwr.warnPin = false → s.pwr.intWarn = false → running_ s = true → ∃ t, exec .pwrwarnNAssert s = .next t ∧ t.pwr.warnPin = true ∧ t.pwr.state = 4 ∧
    bitOf t.pwr.events 6 = true ∧ t.glz.ramps = [] ∧ max t.hist.seqA t.hist.seqB = max s.hist.seqA s.hist.seqB + 1 ∧
    (s.evr.clearing = false → t.evr.fRecs = s.evr.recs ∧ t.evr.fCount = s.evr.count) ∧
    (∀ c, s.sch.cur = some c → ∃ c', t.sch.cur = some c' ∧ c'.abandoning = true) ∧
    ∀ k, (tget RowProg.init t.arr.rows k).row = 0 ∧ (tget RowProg.init t.arr.rows k).iters = 0) ∧
  (s.pwr.warnPin = false → exec .pwrwarnNRelease s = .next s) ∧
  (s.pwr.warnPin = true → ∃ t, exec .pwrwarnNRelease s = .next t ∧ t.pwr.warnPin = false ∧
    (running_ s = true → s.pwr.intWarn = false → held s = false → s.dev.shutting = false → t.pwr.state = if s.dev.row < 7 then 1 else 2)) ∧
  (∀ mv,
    (39000 ≤ mv ∨ s.pwr.intWarn = true → exec (.inputUndervoltage mv) s = .next s) ∧
    (mv < 39000 → s.pwr.intWarn = false → s.pwr.off = false → (s.pwr.state = 2 ∨ s.pwr.state = 3) → ∃ t, exec (.inputUndervoltage mv) s = .next t ∧
      t.pwr.intWarn = true ∧ t.pwr.state = 4 ∧ t.pwr.vin = mv / 10 ∧ bitOf t.pwr.events 8 = true ∧
      ∀ c, s.sch.cur = some c → ∃ c', t.sch.cur = some c' ∧ c'.abandoning = true) ∧
    (s.pwr.intWarn = false ∨ mv < 40000 → exec (.inputUvRelease mv) s = .next s) ∧
    (s.pwr.intWarn = true → 40000 ≤ mv → ∃ t, exec (.inputUvRelease mv) s = .next t ∧ t.pwr.intWarn = false ∧ t.pwr.vin = min 65535 (mv / 10) ∧
      (running_ s = true → s.pwr.warnPin = false → held s = false → s.dev.shutting = false → t.pwr.state = if s.dev.row < 7 then 1 else 2)))

/-- INPUT_OVERVOLTAGE, INPUT_STAGE_DISCONNECT, INPUT_LOCKOUT, MODULE_REMOVAL, INPUT_RECONNECT, INPUT_APPLIED and THERMAL_COMPARATOR_TRIP (R474, R488,
R512, R538): what survives the loss of the rails, and how the module comes back to STANDBY. Where the manual is silent it states the model's choices
of log entries 35, 73. -/
def Obligations.InputLosses : Prop :=
  ∀ (s : State),
  (∀ i t, (∃ mv, 80000 < mv ∧ s.pwr.off = false ∧ i = .inputOvervoltage mv) ∨ (∃ mv, 64000 < mv ∧ s.pwr.off = false ∧ i = .inputStageDisconnect mv) ∨
      (∃ mv, mv < 37000 ∧ s.pwr.off = false ∧ i = .inputLockout mv) ∨ (s.pwr.off = false ∧ i = .moduleRemoval) →
    exec i s = .next t → t.pwr.off = true ∧ t.pwr.state = 0 ∧ t.arr.cells = s.arr.cells ∧ t.arr.written = s.arr.written ∧ t.hist.copyA = s.hist.copyA ∧
      t.hist.copyB = s.hist.copyB ∧ t.sec.fw = s.sec.fw ∧ t.sec.ownerKey = s.sec.ownerKey ∧ t.kv.near = [] ∧ t.kv.master = [] ∧
      t.sch = State.reset.sch ∧ t.core = State.reset.core ∧ t.net = State.reset.net ∧ t.evr.recs = s.evr.fRecs ∧ t.evr.count = s.evr.fCount ∧
      t.clk = s.clk ∧ t.pending = s.pending) ∧
  (∀ mv,
    (s.pwr.off = true ∨ mv ≤ 60000 → exec (.inputOvervoltage mv) s = .next s) ∧
    (s.pwr.off = false → 60000 < mv → mv ≤ 80000 → ∃ t, exec (.inputOvervoltage mv) s = .next t ∧ changesOnly [.pwr, .evr, .brd] s t ∧
      bitOf t.pwr.events 9 = true ∧ t.pwr.off = false ∧ t.pwr.vin = mv / 10) ∧
    (s.pwr.off = false → 80000 < mv → ∃ t, exec (.inputOvervoltage mv) s = .next t ∧ t.pwr.disconn = true) ∧
    (s.pwr.off = false → 64000 < mv → ∃ t, exec (.inputStageDisconnect mv) s = .next t ∧ t.pwr.disconn = true) ∧
    (s.pwr.off = true ∨ mv ≤ 64000 → exec (.inputStageDisconnect mv) s = .next s) ∧
    (s.pwr.off = false → mv < 37000 → ∃ t, exec (.inputLockout mv) s = .next t ∧ t.pwr.disconn = s.pwr.disconn) ∧
    (s.pwr.off = true ∨ 37000 ≤ mv → exec (.inputLockout mv) s = .next s) ∧
    (s.pwr.disconn = false ∨ mv < 40000 ∨ 60000 < mv → exec (.inputReconnect mv) s = .next s) ∧
    (s.pwr.disconn = true → 40000 ≤ mv → mv ≤ 60000 → exec (.inputReconnect mv) s =
      .next { s with pwr := { s.pwr with disconn := false, off := false, state := 0, needEdge := s.brd.pwrEn } }) ∧
    (s.pwr.off = false ∨ s.pwr.disconn = true ∨ mv ≤ 37000 → exec (.inputApplied mv) s = .next s) ∧
    (s.pwr.off = true → s.pwr.disconn = false → 37000 < mv → exec (.inputApplied mv) s =
      .next { s with pwr := { s.pwr with off := false, state := 0, vin := min 65535 (mv / 10) }, brd := { s.brd with prsnt := true } })) ∧
  (∃ t, exec .moduleRemoval s = .next t ∧ t.brd.prsnt = false ∧ t.pwr.off = true) ∧
  (∀ u, u < 2 ^ 32 → dieKey u = u → dieOf u < 40 →
    (running_ s = false → exec (.thermalComparatorTrip u) s = .next s) ∧
    (running_ s = true → ∃ t, exec (.thermalComparatorTrip u) s = .next t ∧ t.pwr.state = 5 ∧ t.pwr.off = false ∧ t.pwr.tshutAo = true ∧
      t.pwr.needEdge = true ∧ t.arr.cells = s.arr.cells ∧ t.sch = State.reset.sch ∧ t.kv.near = [] ∧ t.evr.recs = s.evr.fRecs))

/-- HOUSEKEEPING_CHANNEL, HOUSEKEEPING_ROUND_END, STANDBY_READING_REFRESH, DROOP_DETECT, STRETCH_END and PEAK_LIMIT (R477, R479 to R487): a valid
reading takes its channel, an invalid one keeps the last; a round over the power limit lowers the enforced limit by 2.5 %, a junction at 105 °C parks
the module at 1.5 kW; a cluster below the droop threshold stretches its clock. Where the manual is silent it states the model's choices of log entry
73. -/
def Obligations.ReadingsAndLimits : Prop :=
  ∀ (s : State),
  (running_ s = false → (∀ ch v ok, ch < 256 → exec (.housekeepingChannel ch v ok) s = .next s) ∧
    ∀ w p, exec (.housekeepingRoundEnd w p) s = .next s ∧ exec (.peakLimit w) s = .next s) ∧
  (running_ s = true →
    (∀ ch v, ch < 256 →
      (∃ t, exec (.housekeepingChannel ch v true) s = .next t ∧ changesOnly [.pwr, .evr, .brd] s t ∧ tget (0, false) t.pwr.chans ch = (trunc 16 v, true) ∧
        tget 0 t.pwr.stale ch = 1 ∧ ∀ k, k ≠ ch → tget (0, false) t.pwr.chans k = tget (0, false) s.pwr.chans k) ∧
      (∃ t, exec (.housekeepingChannel ch v false) s = .next t ∧ changesOnly [.pwr, .evr, .brd] s t ∧
        tget (0, false) t.pwr.chans ch = ((tget (0, false) s.pwr.chans ch).1, false) ∧ tget 0 t.pwr.stale ch = tget 0 s.pwr.stale ch + 2 ∧
        (tget 0 s.pwr.stale ch / 2 = 3 → bitOf t.pwr.events 10 = true))) ∧
    (∀ w p, ∃ t, exec (.housekeepingRoundEnd w p) s = .next t ∧ t.pwr.rounds = satAdd 32 s.pwr.rounds 1 ∧ t.pwr.pin = min 65535 w ∧ t.pwr.pump = p ∧
      (∀ ch v, hottest s = some (ch, v) → t.pwr.tjHot = trunc 12 v ∧ t.pwr.hotch = ch) ∧
      (10 * s.pwr.plim < min 65535 w → s.sec.upd = none → (∀ ch v, hottest s = some (ch, v) → v < 420) →
        t.pwr.lim = max 150 (975 * min s.pwr.lim s.pwr.plim / 1000) ∧ t.pwr.thrott = true) ∧
      (∀ ch v, hottest s = some (ch, v) → 420 ≤ v → s.pwr.tjHold = false → s.sec.upd = none → t.pwr.tjHold = true ∧ t.pwr.lim = 150 ∧
        bitOf t.pwr.events 2 = true) ∧
      (∀ ch v, hottest s = some (ch, v) → v < 400 → t.pwr.tjHold = false)) ∧
    (∀ w, (w ≤ 7200 → exec (.peakLimit w) s = .next s) ∧
      (7200 < w → ∃ t, exec (.peakLimit w) s = .next t ∧ changesOnly [.pwr, .evr, .brd] s t ∧ bitOf t.pwr.events 1 = true))) ∧
  (∀ mv ma (board : List (Int × Bool)), board.length = 8 →
    (s.pwr.off = true ∨ s.pwr.state ≠ 0 → exec (.standbyReadingRefresh mv ma board) s = .next s) ∧
    (s.pwr.off = false → s.pwr.state = 0 → ∃ t, exec (.standbyReadingRefresh mv ma board) s = .next t ∧ changesOnly [.pwr] s t ∧
      t.pwr.vin = min 65535 (mv / 10) ∧ t.pwr.iin = min 65535 ma ∧ tget (0, false) t.pwr.chans 166 = (trunc 16 ((mv / 10 : Nat) : Int), true) ∧
      tget (0, false) t.pwr.chans 167 = (trunc 16 (ma : Int), true) ∧
      ∀ k v, board[k]? = some (v, true) → tget (0, false) t.pwr.chans (158 + k) = (trunc 16 v, true))) ∧
  (∀ cl, isArrCluster cl = true →
    (∀ mv, (droopMv s ≤ mv ∨ cl ∈ s.pwr.stretching → exec (.droopDetect cl mv) s = .next s) ∧
      (mv < droopMv s → cl ∉ s.pwr.stretching → exec (.droopDetect cl mv) s = .next { s with pwr := { s.pwr with stretching := s.pwr.stretching ++ [cl] } })) ∧
    (∀ n, (cl ∉ s.pwr.stretching ∨ n < 64 → exec (.stretchEnd cl n) s = .next s) ∧
      (cl ∈ s.pwr.stretching → 64 ≤ n → ∃ t, exec (.stretchEnd cl n) s = .next t ∧ changesOnly [.pwr] s t ∧
        t.pwr.stretching = s.pwr.stretching.erase cl ∧ tget 0 t.pwr.stretch (clNum cl) = satAdd 32 (tget 0 s.pwr.stretch (clNum cl)) n)))

/-- PWR_EN_ASSERT, POWER_GOOD, RESET_N_ASSERT, RESET_N_RELEASE, SECURITY_BOOT and SELF_TEST (R423, R449, R451, R452, R500, R523, R533, R535, R536,
R538, R542): a start counts a power cycle; rails and the release of reset bring it on; RESET_N puts every register to its reset value and keeps what
survives; the boot ends in the next row, in safe state or in ROM recovery. Where the manual is silent it states the model's choices of log entries 1,
16, 17, 75. -/
def Obligations.PowerUpAndReset : Prop :=
  ∀ (s : State),
  (s.brd.pwrEn = true → exec .pwrEnAssert s = .next s) ∧
  (s.brd.pwrEn = false → ∃ t, exec .pwrEnAssert s = .next t ∧ changesOnly [.clk, .pwr, .brd, .dev] s t ∧ t.brd.pwrEn = true ∧ t.brd.pwrEnUs = s.clk.us ∧
    (s.pwr.off = false → (s.pwr.state = 0 ∨ s.pwr.state = 5) → s.pwr.needEdge = false →
      t.pwr.state = 1 ∧ t.clk.cycles = satAdd 32 s.clk.cycles 1 ∧ t.dev.row = 0) ∧
    ((s.pwr.off = true ∨ s.pwr.needEdge = true ∨ (s.pwr.state ≠ 0 ∧ s.pwr.state ≠ 5)) → t.pwr = s.pwr ∧ t.clk = s.clk ∧ t.dev = s.dev)) ∧
  (∀ ok, (s.pwr.state ≠ 1 ∨ s.dev.row ≠ 0 ∨ s.pwr.off = true) → exec (.powerGood ok) s = .next s) ∧
  (s.pwr.state = 1 → s.dev.row = 0 → s.pwr.off = false → exec (.powerGood true) s = .next { s with dev := { s.dev with row := 1, railsOk := true } } ∧
    ∃ t, exec (.powerGood false) s = .next t ∧ t.pwr.state = 0 ∧ bitOf t.pwr.events 8 = true ∧ t.dev = s.dev) ∧
  (∀ straps, straps < 8 → ∃ t, exec (.resetNRelease straps) s = .next t ∧ t.brd = { s.brd with resetN := true, straps := straps } ∧
    changesOnly [.brd, .dev] s t ∧
    t.dev = (if s.pwr.state = 1 ∧ s.dev.row = 1 ∧ s.pwr.off = false ∧ warned s = false then { s.dev with row := 2 } else s.dev)) ∧
  (running_ s = false → exec (.resetNAssert true) s = .next { s with brd := { s.brd with resetN := false } }) ∧
  (running_ s = true → ∃ t, exec (.resetNAssert true) s = .next t ∧ t.brd.resetN = false ∧ t.pwr.state = 1 ∧
    t.dev.row = (if s.dev.railsOk then 1 else 0) ∧ t.core = State.reset.core ∧ t.sch = State.reset.sch ∧ t.net = State.reset.net ∧ t.arr.cells = s.arr.cells ∧
    t.seq.tables = s.seq.tables ∧ t.seq.seqs = [] ∧ t.sec.fw = s.sec.fw ∧ t.sec.claimed = s.sec.claimed ∧ t.hist.copyA = s.hist.copyA ∧
    t.hist.copyB = s.hist.copyB ∧ t.evr.recs = s.evr.fRecs ∧ t.clk = s.clk ∧ (4 ≤ s.dev.row → t.kv.near = s.kv.near ∧ t.kv.master = s.kv.master)) ∧
  (exec (.resetNAssert false) s = .next { s with free := s.free + 1 } ∨
    exec (.resetNAssert false) s = exec (.resetNAssert true) { s with free := s.free + 1 }) ∧
  (∀ f, f.badKeys.all (fun n => decide (n < 12)) = true →
    ((s.dev.row ≠ 2 ∨ running_ s = false ∨ warned s = true) → exec (.securityBoot f) s = .next s) ∧
    (s.dev.row = 2 → running_ s = true → warned s = false → ∃ t, exec (.securityBoot f) s = .next t ∧ t.sec.boots = satAdd 32 s.sec.boots 1 ∧
      (f.puf = false → t.sec.safe = true ∧ t.sec.cause = 1 ∧ t.dev.row = 3) ∧
      (f.puf = true → f.secA = false → f.secB = false → t.sec.romRec = true ∧ t.dev.row = 2) ∧
      (f.puf = true → f.secA = true → (fwOf s 1).actB = false → (fwOf s 1).a.valid = true → (fwOf s 1).floor ≤ (fwOf s 1).a.svn →
        (bitOf s.brd.straps 2 = true → t.sec.safe = true ∧ t.sec.cause = 5 ∧ t.sec.recovery = true ∧ t.dev.row = 3) ∧
        (bitOf s.brd.straps 2 = false → f.cfgSig = false ∨ (f.cfgA = false ∧ f.cfgB = false) → t.sec.safe = true ∧ t.sec.cause = 3) ∧
        (bitOf s.brd.straps 2 = false → f.cfgSig = true → f.cfgA = true → f.cfgB = true → f.cfgSeqA = f.cfgSeqB → f.cfgSame = false →
          t.sec.safe = true ∧ t.sec.cause = 4 ∧ t.sec.cfgConf = true) ∧
        (bitOf s.brd.straps 2 = false → f.cfgSig = true → f.cfgA = true → f.cfgB = true → f.cfgSeqA = f.cfgSeqB → f.cfgSame = true →
          (∀ cls, 2 ≤ cls → cls ≤ 4 → nth false f.otherA (cls - 2) = true ∧ (fwOf s cls).actB = false ∧ (fwOf s cls).a.valid = true ∧
            (fwOf s cls).floor ≤ (fwOf s cls).a.svn) →
          (f.keysOk = false → t.sec.safe = true ∧ t.sec.cause = 1) ∧
          (f.keysOk = true → t.dev.row = 3 ∧ t.sec.safe = s.sec.safe ∧ t.sec.fw = s.sec.fw))))) ∧
  (∀ fails kept regionOk, fails.all testFailOk = true →
    (s.dev.row ≠ 3 ∨ advances s = false → exec (.selfTest fails kept regionOk) s = .next s) ∧
    (s.pwr.tshutAo = true → (∀ ch v, hottest s = some (ch, v) → 380 ≤ v) → exec (.selfTest fails kept regionOk) s = .next s) ∧
    (s.dev.row = 3 → advances s = true → s.pwr.tshutAo = false → ∃ t, exec (.selfTest fails kept regionOk) s = .next t ∧
      t.dev.row = (if (unchecked t).isEmpty then 5 else 4) ∧ t.kv.farKept = (kept && s.kv.farKept) ∧
      ((unchecked t).isEmpty = true → ∀ cl ∈ allClusters, bitOf (calOf t cl).due 1 = true)))

/-- RETENTION_CHECK, READY_ENTRY, PWR_EN_DEASSERT and SHUTDOWN_COMPLETE (R106 to R109, R380, R539, R540, R544, R545): a canvas with a record is kept,
reprogrammed or waits for its bundle; the last row makes the module READY; a shutdown ends in STANDBY, or in a new start. Where the manual is silent
it states the model's choices of log entries 77, 78. -/
def Obligations.ReadinessAndShutdown : Prop :=
  ∀ (s : State),
  (∀ c recOk crcOk ch offs, c < 4 →
    let i := Instr.retentionCheck c recOk crcOk ch offs
    (s.dev.row ≠ 4 ∨ advances s = false ∨ c ∉ unchecked s → exec i s = .next s) ∧
    (s.dev.row = 4 → advances s = true → c ∈ unchecked s →
      ((cnvOf s c).bundle = none → ∃ t, exec i s = .next t ∧ (cnvOf t c).st = 3 ∧ (cnvOf t c).await = true) ∧
      (∀ b, (cnvOf s c).bundle = some b →
        let broken := (cnvOf s c).recSt = 1 ∨ recOk = false
        (broken → s.kv.farKept = true → ∃ t, exec i s = .next t ∧ (cnvOf t c).st = 3 ∧ (cnvOf t c).warm = true ∧
          (cnvOf t c).recSt = 1 ∧ (cnvOf t c).reprog = bundleCores s b) ∧
        (broken ∨ crcOk = false ∨ cellsMatch s b = false → s.kv.farKept = false → ∃ t, exec i s = .next t ∧ (cnvOf t c).st = 3 ∧
          (cnvOf t c).await = true) ∧
        (¬broken → s.kv.farKept = true ∨ (crcOk = true ∧ cellsMatch s b = true) → ∃ t, exec i s = .next t ∧ (cnvOf t c).st = 3 ∧
          (cnvOf t c).warm = true ∧
          (cnvOf t c).reprog = (coresOut ch offs).filter fun k => (bundleCores s b).contains k)))) ∧
  (s.dev.row ≠ 6 ∨ advances s = false ∨ settled s = false → exec .readyEntry s = .next s) ∧
  (s.dev.row = 6 → advances s = true → settled s = true → held s = false → s.hist.draining = false → ∃ t, exec .readyEntry s = .next t ∧
    changesOnly [.net, .pwr, .evr, .dev] s t ∧ t.dev.row = 7 ∧ t.pwr.state = 2 ∧ t.dev.mstate = 1) ∧
  (s.dev.row = 6 → advances s = true → settled s = true → ∃ t, exec .readyEntry s = .next t ∧ t.dev.row = 7) ∧
  (∃ t, exec .pwrEnDeassert s = .next t ∧ t.brd.pwrEn = false ∧ t.pwr.needEdge = false ∧
    (running_ s = true → t.dev.shutting = true) ∧ (running_ s = false → t.dev = s.dev) ∧
    (running_ s = true → s.dev.shutting = false → held s = false → t.pwr.holdUs = s.clk.us)) ∧
  (s.dev.shutting = false ∨ running_ s = false ∨ warned s = true ∨ s.sch.cur.isSome = true ∨ (s.dev.row = 7 ∧ s.pwr.state ≠ 3) →
    exec .shutdownComplete s = .next s) ∧
  (s.dev.shutting = true → running_ s = true → warned s = false → s.sch.cur = none → (s.dev.row ≠ 7 ∨ s.pwr.state = 3) →
    ∃ t, exec .shutdownComplete s = .next t ∧ t.pwr.off = false ∧ t.arr.cells = s.arr.cells ∧ t.sch = State.reset.sch ∧
      max t.hist.seqA t.hist.seqB = max s.hist.seqA s.hist.seqB + 1 ∧
      (s.brd.pwrEn = false → t.pwr.state = 0 ∧ t.clk = s.clk) ∧ (s.brd.pwrEn = true → t.pwr.state = 1 ∧ t.clk.cycles = satAdd 32 s.clk.cycles 1 ∧ t.dev.row = 0))
end

