-- ==== Sys2Proof/Laws/Tab.lean ====
section
/-! SUPPORT. The laws of sparse tables and byte memories: a read after a write, what a write leaves alone, and the canonical
form under every operation. -/

namespace Sys2Proof.Machine

/-! ## Reads and writes of a table -/

theorem tget_drop {α : Type} (d : α) (t : Tab α) (k j : Nat) :
    tget d (t.filter fun e => e.1 != k) j = if j = k then d else tget d t j := by
  induction t with
  | nil => simp [tget]
  | cons e t ih =>
    obtain ⟨k0, v0⟩ := e
    rw [List.filter_cons]
    by_cases hk : k0 = k
    · subst hk
      simp only [bne_self_eq_false, Bool.false_eq_true, if_false, ih, tget]
      split <;> rfl
    · rw [if_pos (by simpa using hk)]
      simp only [tget, ih]
      by_cases hj : j = k0
      · subst hj; simp [hk]
      · simp [hj]

theorem tget_tins {α : Type} (d : α) (t : Tab α) (k j : Nat) (v : α) (hk : ∀ e ∈ t, e.1 ≠ k) :
    tget d (tins k v t) j = if j = k then v else tget d t j := by
  induction t with
  | nil => simp [tins, tget]
  | cons e t ih =>
    obtain ⟨k0, v0⟩ := e
    have h0 : k0 ≠ k := hk (k0, v0) (List.mem_cons_self ..)
    have h1 : ∀ e ∈ t, e.1 ≠ k := fun e he => hk e (List.mem_cons_of_mem _ he)
    unfold tins
    split
    · rfl
    · simp only [tget, ih h1]
      by_cases hj : j = k0
      · subst hj; simp [h0]
      · simp [hj]

/-- What a table reads after a put. -/
theorem tget_tput {α : Type} [DecidableEq α] (d : α) (t : Tab α) (k j : Nat) (v : α) :
    tget d (tput d t k v) j = if j = k then v else tget d t j := by
  unfold tput
  by_cases hv : v = d
  · subst hv; simp only [if_true, tget_drop]
  · simp only [if_neg hv]
    rw [tget_tins _ _ _ _ _ (fun e he => by simpa using (List.mem_filter.mp he).2), tget_drop]
    split <;> rfl

/-- A key reads what was put there. -/
@[simp] theorem tget_tput_same {α : Type} [DecidableEq α] (d : α) (t : Tab α) (k : Nat) (v : α) : tget d (tput d t k v) k = v := by
  rw [tget_tput, if_pos rfl]

/-- Every other key reads as before. -/
@[simp] theorem tget_tput_ne {α : Type} [DecidableEq α] (d : α) (t : Tab α) (k j : Nat) (v : α) (h : j ≠ k) :
    tget d (tput d t k v) j = tget d t j := by
  rw [tget_tput, if_neg h]

/-- A replaced value reads as its image. -/
@[simp] theorem tget_tmod_same {α : Type} [DecidableEq α] (d : α) (t : Tab α) (k : Nat) (f : α → α) :
    tget d (tmod d t k f) k = f (tget d t k) := tget_tput_same d t k _

@[simp] theorem tget_tmod_ne {α : Type} [DecidableEq α] (d : α) (t : Tab α) (k j : Nat) (f : α → α) (h : j ≠ k) :
    tget d (tmod d t k f) j = tget d t j := tget_tput_ne d t k j _ h

/-! ## The canonical form -/

theorem tabWfFrom_mono {α : Type} [DecidableEq α] (d : α) (t : Tab α) {lo hi : Nat} (hlo : lo ≤ hi) (h : tabWfFrom d hi t = true) :
    tabWfFrom d lo t = true := by
  cases t with
  | nil => rfl
  | cons e t =>
    simp only [tabWfFrom, Bool.and_eq_true, decide_eq_true_eq] at h ⊢
    exact ⟨⟨hlo.trans h.1.1, h.1.2⟩, h.2⟩

theorem tabWfFrom_filter {α : Type} [DecidableEq α] (d : α) (p : Nat × α → Bool) (t : Tab α) (lo : Nat) (h : tabWfFrom d lo t = true) :
    tabWfFrom d lo (t.filter p) = true := by
  induction t generalizing lo with
  | nil => rfl
  | cons e t ih =>
    simp only [tabWfFrom, Bool.and_eq_true, decide_eq_true_eq] at h
    rw [List.filter_cons]
    split
    · simp only [tabWfFrom, Bool.and_eq_true, decide_eq_true_eq]; exact ⟨h.1, ih _ h.2⟩
    · exact tabWfFrom_mono d _ (by omega) (ih _ h.2)

theorem tabWfFrom_tins {α : Type} [DecidableEq α] (d : α) (t : Tab α) (lo k : Nat) (v : α) (hv : v ≠ d) (hlo : lo ≤ k)
    (hk : ∀ e ∈ t, e.1 ≠ k) (h : tabWfFrom d lo t = true) : tabWfFrom d lo (tins k v t) = true := by
  induction t generalizing lo with
  | nil => simp [tins, tabWfFrom, hv, hlo]
  | cons e t ih =>
    obtain ⟨k0, v0⟩ := e
    have h0 : k0 ≠ k := hk (k0, v0) (List.mem_cons_self ..)
    simp only [tabWfFrom, Bool.and_eq_true, decide_eq_true_eq] at h
    unfold tins
    split
    · simp only [tabWfFrom, Bool.and_eq_true, decide_eq_true_eq]
      exact ⟨⟨hlo, hv⟩, ⟨by omega, h.1.2⟩, h.2⟩
    · simp only [tabWfFrom, Bool.and_eq_true, decide_eq_true_eq]
      exact ⟨h.1, ih _ (by omega) (fun e he => hk e (List.mem_cons_of_mem _ he)) h.2⟩

/-- A put keeps the canonical form. -/
@[simp] theorem tabWf_tput {α : Type} [DecidableEq α] (d : α) (t : Tab α) (k : Nat) (v : α) (h : tabWf d t = true) :
    tabWf d (tput d t k v) = true := by
  unfold tput
  have h1 := tabWfFrom_filter d (fun e => e.1 != k) t 0 h
  split
  · exact h1
  · rename_i hv
    exact tabWfFrom_tins d _ 0 k v hv (Nat.zero_le k) (fun e he => by simpa using (List.mem_filter.mp he).2) h1

/-- A replaced value keeps it. -/
@[simp] theorem tabWf_tmod {α : Type} [DecidableEq α] (d : α) (t : Tab α) (k : Nat) (f : α → α) (h : tabWf d t = true) :
    tabWf d (tmod d t k f) = true := tabWf_tput d t k _ h

/-- Dropped entries keep it. -/
@[simp] theorem tabWf_tkeep {α : Type} [DecidableEq α] (d : α) (p : Nat → Bool) (t : Tab α) (h : tabWf d t = true) :
    tabWf d (tkeep p t) = true := tabWfFrom_filter d _ t 0 h

/-- Entries put one after another keep it. -/
theorem tabWf_foldl {α β : Type} [DecidableEq α] (d : α) (g : Tab α → β → Tab α) (hg : ∀ t x, tabWf d t = true → tabWf d (g t x) = true)
    (l : List β) (t : Tab α) (h : tabWf d t = true) : tabWf d (l.foldl g t) = true := by
  induction l generalizing t with
  | nil => exact h
  | cons x xs ih => exact ih _ (hg t x h)

/-! ## Byte memories -/

@[simp] theorem wf_nil : Memory.wf [] = true := rfl

@[simp] theorem wf_wrByte (m : Mem) (a : Nat) (b : Byte) (h : Memory.wf m = true) : Memory.wf (wrByte m a b) = true :=
  tabWf_tput 0 m a b h

@[simp] theorem wf_wrBytes (m : Mem) (a : Nat) (bs : List Byte) (h : Memory.wf m = true) : Memory.wf (wrBytes m a bs) = true := by
  induction bs generalizing m a with
  | nil => exact h
  | cons b bs ih => exact ih _ _ (wf_wrByte m a b h)

@[simp] theorem wf_wrWord (m : Mem) (a : Nat) (w : Word) (h : Memory.wf m = true) : Memory.wf (wrWord m a w) = true := wf_wrBytes _ _ _ h

@[simp] theorem wf_wrHalf (m : Mem) (a : Nat) (w : Half) (h : Memory.wf m = true) : Memory.wf (wrHalf m a w) = true := wf_wrBytes _ _ _ h

@[simp] theorem wf_wrPair (m : Mem) (a : Nat) (p : Pair) (h : Memory.wf m = true) : Memory.wf (wrPair m a p) = true :=
  wf_wrWord _ _ _ (wf_wrWord _ _ _ h)

@[simp] theorem wf_zeroRange (m : Mem) (a n : Nat) (h : Memory.wf m = true) : Memory.wf (zeroRange m a n) = true :=
  tabWfFrom_filter 0 _ m 0 h

@[simp] theorem wf_foldl {β : Type} (g : Mem → β → Mem) (hg : ∀ m x, Memory.wf m = true → Memory.wf (g m x) = true)
    (l : List β) (m : Mem) (h : Memory.wf m = true) : Memory.wf (l.foldl g m) = true := tabWf_foldl 0 g hg l m h

/-- A byte written reads back. -/
@[simp] theorem rdByte_wrByte_same (m : Mem) (a : Nat) (b : Byte) : rdByte (wrByte m a b) a = b :=
  tget_tput_same 0 m a b

/-- Every other byte reads as before. -/
@[simp] theorem rdByte_wrByte_ne (m : Mem) (a j : Nat) (b : Byte) (h : j ≠ a) : rdByte (wrByte m a b) j = rdByte m j :=
  tget_tput_ne 0 m a j b h

/-- Bytes outside the written ones read as before. -/
@[simp] theorem rdByte_wrBytes_out (m : Mem) (a j : Nat) (bs : List Byte) (h : j < a ∨ a + bs.length ≤ j) :
    rdByte (wrBytes m a bs) j = rdByte m j := by
  induction bs generalizing m a with
  | nil => rfl
  | cons b bs ih =>
    simp only [List.length_cons] at h
    rw [wrBytes, ih _ _ (by omega), rdByte_wrByte_ne _ _ _ _ (by omega)]

/-- Written bytes read back. -/
theorem rdByte_wrBytes_in (m : Mem) (a i : Nat) (bs : List Byte) (h : i < bs.length) :
    rdByte (wrBytes m a bs) (a + i) = bs[i] := by
  induction bs generalizing m a i with
  | nil => simp at h
  | cons b bs ih =>
    cases i with
    | zero => simp only [Nat.add_zero, wrBytes]; rw [rdByte_wrBytes_out _ _ _ _ (by omega), rdByte_wrByte_same]; rfl
    | succ i =>
      have := ih (wrByte m a b) (a + 1) i (by simpa using h)
      rw [wrBytes, show a + (i + 1) = a + 1 + i by omega, this]; rfl

/-- Bytes outside a zeroed range read as before; bytes in it read as 0. -/
theorem rdByte_zeroRange (m : Mem) (a n j : Nat) :
    rdByte (zeroRange m a n) j = if a ≤ j ∧ j < a + n then 0 else rdByte m j := by
  unfold rdByte zeroRange
  induction m with
  | nil => simp [tget]
  | cons e m ih =>
    obtain ⟨k, v⟩ := e
    rw [List.filter_cons]
    by_cases hk : k < a ∨ a + n ≤ k
    · rw [if_pos (by simpa using hk)]
      by_cases hj : j = k
      · subst hj; simp only [tget, if_true]; rw [if_neg (by omega)]
      · simp only [tget, if_neg hj, ih]
    · rw [if_neg (by simpa using hk), ih]
      by_cases hj : j = k
      · subst hj; rw [if_pos (by omega), if_pos (by omega)]
      · simp only [tget, if_neg hj]

end Sys2Proof.Machine
end

