-- ==== Sys2Proof/Laws/Bytes.lean ====
section
/-! SUPPORT. Words, halves and pairs in a byte memory: read after write, and what a write leaves alone; the tiles of the
accumulator banks. -/

namespace Sys2Proof.Machine

/-! ## Little-endian numbers -/

@[simp] theorem leBytes_length (v n : Nat) : (leBytes v n).length = n := by
  induction n generalizing v with
  | zero => rfl
  | succ n ih => simp [leBytes, ih]

theorem leNat_leBytes (v n : Nat) : leNat (leBytes v n) = v % 256 ^ n := by
  induction n generalizing v with
  | zero => simp [leBytes, leNat, Nat.mod_one]
  | succ n ih =>
    simp only [leBytes, leNat, ih, BitVec.toNat_ofNat]
    have : v % 256 ^ (n + 1) = v % 256 + 256 * (v / 256 % 256 ^ n) := by rw [Nat.pow_succ', Nat.mod_mul]
    rw [this]

/-- A byte string read back where it was written. -/
theorem rdBytes_wrBytes (m : Mem) (a : Nat) (bs : List Byte) : rdBytes (wrBytes m a bs) a bs.length = bs := by
  induction bs generalizing m a with
  | nil => rfl
  | cons b bs ih =>
    simp only [wrBytes, List.length_cons, rdBytes]
    rw [ih, rdByte_wrBytes_out _ _ _ _ (by omega), rdByte_wrByte_same]

@[simp] theorem rdWord_wrWord (m : Mem) (a : Nat) (w : Word) : rdWord (wrWord m a w) a = w := by
  have := rdBytes_wrBytes m a (leBytes w.toNat 4)
  simp only [leBytes_length] at this
  simp only [rdWord, wrWord, this, leNat_leBytes]
  apply BitVec.eq_of_toNat_eq
  have := w.isLt
  simp; omega

@[simp] theorem rdHalf_wrHalf (m : Mem) (a : Nat) (h : Half) : rdHalf (wrHalf m a h) a = h := by
  have := rdBytes_wrBytes m a (leBytes h.toNat 2)
  simp only [leBytes_length] at this
  simp only [rdHalf, wrHalf, this, leNat_leBytes]
  apply BitVec.eq_of_toNat_eq
  have := h.isLt
  simp; omega

/-! ## Frames -/

theorem rdByte_wrWord_out (m : Mem) (a j : Nat) (w : Word) (h : j < a ∨ a + 4 ≤ j) : rdByte (wrWord m a w) j = rdByte m j :=
  rdByte_wrBytes_out _ _ _ _ (by rw [leBytes_length]; exact h)

theorem rdByte_wrHalf_out (m : Mem) (a j : Nat) (w : Half) (h : j < a ∨ a + 2 ≤ j) : rdByte (wrHalf m a w) j = rdByte m j :=
  rdByte_wrBytes_out _ _ _ _ (by rw [leBytes_length]; exact h)

theorem rdByte_wrPair_out (m : Mem) (a j : Nat) (p : Pair) (h : j < a ∨ a + 8 ≤ j) : rdByte (wrPair m a p) j = rdByte m j := by
  unfold wrPair
  rw [rdByte_wrWord_out _ _ _ _ (by omega), rdByte_wrWord_out _ _ _ _ (by omega)]

/-- Bytes that agree read as the same byte string. -/
theorem rdBytes_congr (m m' : Mem) (a n : Nat) (h : ∀ j, a ≤ j → j < a + n → rdByte m j = rdByte m' j) :
    rdBytes m a n = rdBytes m' a n := by
  induction n generalizing a with
  | zero => rfl
  | succ n ih =>
    simp only [rdBytes]
    rw [h a (by omega) (by omega), ih (a + 1) (fun j h1 h2 => h j (by omega) (by omega))]

theorem rdWord_congr (m m' : Mem) (a : Nat) (h : ∀ j, a ≤ j → j < a + 4 → rdByte m j = rdByte m' j) : rdWord m a = rdWord m' a := by
  unfold rdWord; rw [rdBytes_congr _ _ _ _ h]

theorem rdWord_wrWord_out (m : Mem) (a b : Nat) (w : Word) (h : b + 4 ≤ a ∨ a + 4 ≤ b) : rdWord (wrWord m a w) b = rdWord m b :=
  rdWord_congr _ _ _ (fun _ h1 h2 => rdByte_wrWord_out _ _ _ _ (by omega))

@[simp] theorem rdPair_wrPair (m : Mem) (a : Nat) (p : Pair) : rdPair (wrPair m a p) a = p := by
  simp only [rdPair, wrPair, rdWord_wrWord]
  rw [rdWord_wrWord_out _ _ _ _ (by omega), rdWord_wrWord]

theorem rdPair_wrPair_out (m : Mem) (a b : Nat) (p : Pair) (h : b + 8 ≤ a ∨ a + 8 ≤ b) : rdPair (wrPair m a p) b = rdPair m b := by
  unfold rdPair
  rw [rdWord_congr _ m b (fun _ h1 h2 => rdByte_wrPair_out _ _ _ _ (by omega)),
    rdWord_congr _ m (b + 4) (fun _ h1 h2 => rdByte_wrPair_out _ _ _ _ (by omega))]

/-- A fold of writes that all leave a byte alone leaves it alone. -/
theorem rdByte_foldl {β : Type} (g : Mem → β → Mem) (j : Nat) (l : List β) (h : ∀ m, ∀ x ∈ l, rdByte (g m x) j = rdByte m j) (m : Mem) :
    rdByte (l.foldl g m) j = rdByte m j := by
  induction l generalizing m with
  | nil => rfl
  | cons x xs ih =>
    rw [List.foldl_cons, ih (fun m y hy => h m y (List.mem_cons_of_mem _ hy)), h m x (List.mem_cons_self ..)]

/-! ## Tiles of the accumulator banks -/

theorem abAddr_tile (core tile k : Nat) : abAddr core (tile + k) 0 = abAddr core tile 0 + k * 512 := by unfold abAddr; omega

theorem rdByte_setAb_out (ab : Mem) (core tile j : Nat) (ps : List Pair) (hl : ps.length = 64)
    (h : j < abAddr core tile 0 ∨ abAddr core tile 0 + 512 ≤ j) : rdByte (setAb ab core tile ps) j = rdByte ab j := by
  unfold setAb
  apply rdByte_foldl
  intro m x hx
  have hx2 : x.2 < 64 := by
    have := List.snd_lt_of_mem_zipIdx hx
    omega
  apply rdByte_wrPair_out
  unfold abAddr at *
  omega

theorem rdByte_abAdd_out (core tile j : Nat) (ps : List Pair) (s : State)
    (h : j < abAddr core tile 0 ∨ abAddr core tile 0 + 512 ≤ j) : rdByte (abAdd core tile ps s).core.ab j = rdByte s.core.ab j :=
  rdByte_setAb_out _ _ _ _ _ (by simp) h

theorem rdByte_abAddCols_out (core tile j : Nat) (cols : List (Nat × Pair)) (s : State) (hc : ∀ c ∈ cols, c.1 < 64)
    (h : j < abAddr core tile 0 ∨ abAddr core tile 0 + 512 ≤ j) : rdByte (abAddCols core tile cols s).core.ab j = rdByte s.core.ab j := by
  unfold abAddCols
  induction cols generalizing s with
  | nil => rfl
  | cons c cs ih =>
    rw [List.foldl_cons, ih _ (fun x hx => hc x (List.mem_cons_of_mem _ hx))]
    have := hc c (List.mem_cons_self ..)
    apply rdByte_wrPair_out
    unfold abAddr at *
    omega

end Sys2Proof.Machine
end

