-- ==== Sys2Proof/Laws/MemUnits.lean ====
section
/-! SUPPORT. The canonical form of the memories under the array, stroke and Glaze operations. -/

namespace Sys2Proof.Machine

/-- The canonical form, as the laws carry it. -/
structure MemWf (s : State) : Prop where
  ib : Memory.wf s.core.ib = true
  ob : Memory.wf s.core.ob = true
  ab : Memory.wf s.core.ab = true
  rx : Memory.wf s.core.rx = true
  sram : Memory.wf s.core.sram = true
  near : Memory.wf s.kv.near = true
  sbuf : Memory.wf s.kv.sbuf = true

theorem memWf_iff (s : State) : memWf s = true ↔ MemWf s := by
  simp only [memWf, Bool.and_eq_true]
  exact ⟨fun ⟨⟨⟨⟨⟨⟨a, b⟩, c⟩, d⟩, e⟩, f⟩, g⟩ => ⟨a, b, c, d, e, f, g⟩, fun ⟨a, b, c, d, e, f, g⟩ => ⟨⟨⟨⟨⟨⟨a, b⟩, c⟩, d⟩, e⟩, f⟩, g⟩⟩

@[simp] theorem memWf_ib {s : State} (h : MemWf s) : Memory.wf s.core.ib = true := h.ib
@[simp] theorem memWf_ob {s : State} (h : MemWf s) : Memory.wf s.core.ob = true := h.ob
@[simp] theorem memWf_ab {s : State} (h : MemWf s) : Memory.wf s.core.ab = true := h.ab
@[simp] theorem memWf_rx {s : State} (h : MemWf s) : Memory.wf s.core.rx = true := h.rx
@[simp] theorem memWf_sram {s : State} (h : MemWf s) : Memory.wf s.core.sram = true := h.sram
@[simp] theorem memWf_near {s : State} (h : MemWf s) : Memory.wf s.kv.near = true := h.near
@[simp] theorem memWf_sbuf {s : State} (h : MemWf s) : Memory.wf s.kv.sbuf = true := h.sbuf

/-- A state built from parts. -/
@[simp] theorem memWf_mk (a1 a2 a3 a4 a5 a6 a7 a8 a9 a10 a11 a12 a13 a14 a15 a16 a17 a18 a19 a20 a21) :
    MemWf (State.mk a1 a2 a3 a4 a5 a6 a7 a8 a9 a10 a11 a12 a13 a14 a15 a16 a17 a18 a19 a20 a21) ↔
      (Memory.wf a3.ib = true ∧ Memory.wf a3.ob = true ∧ Memory.wf a3.ab = true ∧ Memory.wf a3.rx = true ∧ Memory.wf a3.sram = true)
        ∧ Memory.wf a7.near = true ∧ Memory.wf a7.sbuf = true :=
  ⟨fun ⟨a, b, c, d, e, f, g⟩ => ⟨⟨a, b, c, d, e⟩, f, g⟩, fun ⟨⟨a, b, c, d, e⟩, f, g⟩ => ⟨a, b, c, d, e, f, g⟩⟩

@[simp] theorem memWf_foldl {β : Type} (g : State → β → State) (hg : ∀ t x, MemWf t → MemWf (g t x)) (l : List β) (s : State) (h : MemWf s) :
    MemWf (l.foldl g s) := by
  induction l generalizing s with
  | nil => exact h
  | cons x xs ih => exact ih _ (hg s x h)

@[simp] theorem memWf_ite (c : Prop) [Decidable c] (a b : State) (ha : MemWf a) (hb : MemWf b) : MemWf (if c then a else b) := by
  split <;> assumption

theorem memWf_same {s t : State} (hc : t.core = s.core) (hk : t.kv = s.kv) (h : MemWf s) : MemWf t := by
  obtain ⟨a, b, c, d, e, f, g⟩ := h
  constructor <;> first | rw [hc]; assumption | rw [hk]; assumption
@[simp] theorem wf_setAb (m : Mem) (core tile : Nat) (ps : List Pair) (h : Memory.wf m = true) : Memory.wf (setAb m core tile ps) = true := by
  unfold setAb
  exact wf_foldl _ (fun m x hm => wf_wrPair m _ _ hm) _ _ h
@[simp] theorem wf_obPut (m : Mem) (core unit ty k : Nat) (w : Word) (h : Memory.wf m = true) : Memory.wf (obPut m core unit ty k w) = true := by
  unfold obPut
  split <;> simp [h]
/-! ### Units -/
@[simp] theorem mem_setRole (core pos st : Nat) (s : State) (hw : MemWf s) : MemWf (setRole core pos st s) := by
  simp [setRole, *]
@[simp] theorem mem_modCnv (c : Nat) (f : Canvas → Canvas) (s : State) (hw : MemWf s) : MemWf (modCnv c f s) := by
  simp [modCnv, *]
@[simp] theorem mem_modPtn (n : Nat) (f : Ptn → Ptn) (s : State) (hw : MemWf s) : MemWf (modPtn n f s) := by
  simp [modPtn, *]
@[simp] theorem mem_modPort (n : Nat) (f : Port → Port) (s : State) (hw : MemWf s) : MemWf (modPort n f s) := by
  simp [modPort, *]
@[simp] theorem mem_modSes (k : Nat) (f : Ses → Ses) (s : State) (hw : MemWf s) : MemWf (modSes k f s) := by
  simp [modSes, *]
@[simp] theorem mem_modEntry (ix : Nat) (f : Entry → Entry) (s : State) (hw : MemWf s) : MemWf (modEntry ix f s) := by
  simp [modEntry, *]
@[simp] theorem mem_modSeq (sid : Nat) (f : Seq → Seq) (s : State) (hw : MemWf s) : MemWf (modSeq sid f s) := by
  simp [modSeq, *]
@[simp] theorem mem_modCal (cl : Nat) (f : CalCl → CalCl) (s : State) (hw : MemWf s) : MemWf (modCal cl f s) := by
  simp [modCal, *]
/-! ### Ops -/
@[simp] theorem mem_draw (s : State) (hw : MemWf s) : MemWf (draw s).2 := memWf_same (s := s) rfl rfl hw
@[simp] theorem mem_fireArg (t unit level code detail arg : Nat) (s : State) (hw : MemWf s) : MemWf (fireArg t unit level code detail arg s) := by
  unfold fireArg
  repeat' (first | with_reducible (first | assumption | intro t x ht | intro t ht | apply memWf_foldl | apply wf_foldl | apply wf_wrBytes | apply wf_wrByte | apply wf_wrWord | apply wf_wrHalf | apply wf_wrPair | apply wf_zeroRange | apply wf_obPut |  apply wf_setAb | (fail_if_no_progress refine memWf_same rfl rfl ?_)) | split | (rename_i he; have hd := congrArg Prod.snd he; dsimp only at hd; subst hd) | dsimp only | constructor | with_reducible (first | apply MemWf.ib | apply MemWf.ob | apply MemWf.ab | apply MemWf.rx | apply MemWf.sram | apply MemWf.near | apply MemWf.sbuf) | (simp [*]; done))
@[simp] theorem mem_fire (t unit level code detail : Nat) (s : State) (hw : MemWf s) : MemWf (fire t unit level code detail s) := by
  simp [fire, *]
@[simp] theorem mem_evrCommit (s : State) (hw : MemWf s) : MemWf (evrCommit s) := by
  simp [evrCommit, *]
@[simp] theorem mem_post (k : Nat) (m : Msg) (s : State) (hw : MemWf s) : MemWf (post k m s) := by
  simp [post, *]
@[simp] theorem mem_replyFull (h : Hdr) (status arg handle : Nat) (body : List Byte) (s : State) (hw : MemWf s) : MemWf (replyFull h status arg handle body s) := by
  simp [replyFull, *]
@[simp] theorem mem_reply (h : Hdr) (status : Nat) (s : State) (hw : MemWf s) : MemWf (reply h status s) := by
  simp [reply, *]
@[simp] theorem mem_replyLate (h : Hdr) (status arg handle : Nat) (body : List Byte) (s : State) (hw : MemWf s) : MemWf (replyLate h status arg handle body s) := by
  simp [replyLate, *]
@[simp] theorem mem_leaveOut (h : Hdr) (s : State) (hw : MemWf s) : MemWf (leaveOut h s) := by
  simp [leaveOut, *]
@[simp] theorem mem_flushEvents (n : Nat) (s : State) (hw : MemWf s) : MemWf (flushEvents n s) := by
  unfold flushEvents
  repeat' (first | with_reducible (first | assumption | intro t x ht | intro t ht | apply mem_modPtn | apply mem_post | apply memWf_foldl | apply wf_foldl | apply wf_wrBytes | apply wf_wrByte | apply wf_wrWord | apply wf_wrHalf | apply wf_wrPair | apply wf_zeroRange | apply wf_obPut |  apply wf_setAb | (fail_if_no_progress refine memWf_same rfl rfl ?_)) | split | (rename_i he; have hd := congrArg Prod.snd he; dsimp only at hd; subst hd) | dsimp only | constructor | with_reducible (first | apply MemWf.ib | apply MemWf.ob | apply MemWf.ab | apply MemWf.rx | apply MemWf.sram | apply MemWf.near | apply MemWf.sbuf) | (simp [*]; done))
@[simp] theorem mem_raise (n : Nat) (e : Event) (s : State) (hw : MemWf s) : MemWf (raise n e s) := by
  unfold raise
  repeat' (first | with_reducible (first | assumption | intro t x ht | intro t ht | apply mem_modPtn | apply mem_flushEvents | apply memWf_foldl | apply wf_foldl | apply wf_wrBytes | apply wf_wrByte | apply wf_wrWord | apply wf_wrHalf | apply wf_wrPair | apply wf_zeroRange | apply wf_obPut |  apply wf_setAb | (fail_if_no_progress refine memWf_same rfl rfl ?_)) | split | (rename_i he; have hd := congrArg Prod.snd he; dsimp only at hd; subst hd) | dsimp only | constructor | with_reducible (first | apply MemWf.ib | apply MemWf.ob | apply MemWf.ab | apply MemWf.rx | apply MemWf.sram | apply MemWf.near | apply MemWf.sbuf) | (simp [*]; done))
@[simp] theorem mem_raiseAll (ns : List Nat) (e : Event) (s : State) (hw : MemWf s) : MemWf (raiseAll ns e s) := by
  unfold raiseAll
  repeat' (first | with_reducible (first | assumption | intro t x ht | intro t ht | apply mem_raise | apply memWf_foldl | apply wf_foldl | apply wf_wrBytes | apply wf_wrByte | apply wf_wrWord | apply wf_wrHalf | apply wf_wrPair | apply wf_zeroRange | apply wf_obPut |  apply wf_setAb | (fail_if_no_progress refine memWf_same rfl rfl ?_)) | split | (rename_i he; have hd := congrArg Prod.snd he; dsimp only at hd; subst hd) | dsimp only | constructor | with_reducible (first | apply MemWf.ib | apply MemWf.ob | apply MemWf.ab | apply MemWf.rx | apply MemWf.sram | apply MemWf.near | apply MemWf.sbuf) | (simp [*]; done))
@[simp] theorem mem_canvasEvent (c what : Nat) (s : State) (hw : MemWf s) : MemWf (canvasEvent c what s) := by
  simp [canvasEvent, *]
@[simp] theorem mem_healthCanvas (c unit level what : Nat) (s : State) (hw : MemWf s) : MemWf (healthCanvas c unit level what s) := by
  simp [healthCanvas, *]
@[simp] theorem mem_healthUnit (unit level what : Nat) (s : State) (hw : MemWf s) : MemWf (healthUnit unit level what s) := by
  unfold healthUnit
  repeat' (first | with_reducible (first | assumption | intro t x ht | intro t ht | apply mem_healthCanvas | apply memWf_foldl | apply wf_foldl | apply wf_wrBytes | apply wf_wrByte | apply wf_wrWord | apply wf_wrHalf | apply wf_wrPair | apply wf_zeroRange | apply wf_obPut |  apply wf_setAb | (fail_if_no_progress refine memWf_same rfl rfl ?_)) | split | (rename_i he; have hd := congrArg Prod.snd he; dsimp only at hd; subst hd) | dsimp only | constructor | with_reducible (first | apply MemWf.ib | apply MemWf.ob | apply MemWf.ab | apply MemWf.rx | apply MemWf.sram | apply MemWf.near | apply MemWf.sbuf) | (simp [*]; done))
@[simp] theorem mem_setMstate (n : Nat) (s : State) (hw : MemWf s) : MemWf (setMstate n s) := by
  unfold setMstate; split <;> simp [*]
@[simp] theorem mem_uhWrite (s : State) (hw : MemWf s) : MemWf (uhWrite s) := by
  simp [uhWrite, *]
@[simp] theorem mem_storeRecord (r : FaultRec) (s : State) (hw : MemWf s) : MemWf (storeRecord r s) := by
  unfold storeRecord
  repeat' (first | with_reducible (first | assumption | intro t x ht | intro t ht | apply memWf_foldl | apply wf_foldl | apply wf_wrBytes | apply wf_wrByte | apply wf_wrWord | apply wf_wrHalf | apply wf_wrPair | apply wf_zeroRange | apply wf_obPut |  apply wf_setAb | (fail_if_no_progress refine memWf_same rfl rfl ?_)) | split | (rename_i he; have hd := congrArg Prod.snd he; dsimp only at hd; subst hd) | dsimp only | constructor | with_reducible (first | apply MemWf.ib | apply MemWf.ob | apply MemWf.ab | apply MemWf.rx | apply MemWf.sram | apply MemWf.near | apply MemWf.sbuf) | (simp [*]; done))
@[simp] theorem mem_modAudit (cl : Nat) (f : AuditCl → AuditCl) (s : State) (hw : MemWf s) : MemWf (modAudit cl f s) := by
  simp [modAudit, *]
@[simp] theorem mem_clearPos (core : Nat) (s : State) (hw : MemWf s) : MemWf (clearPos core s) := by
  simp [clearPos, *]
@[simp] theorem mem_auditOff (s : State) (hw : MemWf s) : MemWf (auditOff s) := by
  unfold auditOff
  repeat' (first | with_reducible (first | assumption | intro t x ht | intro t ht | apply mem_clearPos | apply mem_setRole | apply mem_modAudit | apply memWf_foldl | apply wf_foldl | apply wf_wrBytes | apply wf_wrByte | apply wf_wrWord | apply wf_wrHalf | apply wf_wrPair | apply wf_zeroRange | apply wf_obPut |  apply wf_setAb | (fail_if_no_progress refine memWf_same rfl rfl ?_)) | split | (rename_i he; have hd := congrArg Prod.snd he; dsimp only at hd; subst hd) | dsimp only | constructor | with_reducible (first | apply MemWf.ib | apply MemWf.ob | apply MemWf.ab | apply MemWf.rx | apply MemWf.sram | apply MemWf.near | apply MemWf.sbuf) | (simp [*]; done))
@[simp] theorem mem_putToken (dest : Nat) (t : Token) (s : State) (hw : MemWf s) : MemWf (putToken dest t s) := by
  simp [putToken, *]
@[simp] theorem mem_sendTagged (src kind arg step att dest : Nat) (s : State) (hw : MemWf s) : MemWf (sendTagged src kind arg step att dest s) := by
  simp [sendTagged, *]
@[simp] theorem mem_schedToAll (kind arg att : Nat) (s : State) (hw : MemWf s) : MemWf (schedToAll kind arg att s) := by
  unfold schedToAll
  repeat' (first | with_reducible (first | assumption | intro t x ht | intro t ht | apply mem_sendTagged | apply memWf_foldl | apply wf_foldl | apply wf_wrBytes | apply wf_wrByte | apply wf_wrWord | apply wf_wrHalf | apply wf_wrPair | apply wf_zeroRange | apply wf_obPut |  apply wf_setAb | (fail_if_no_progress refine memWf_same rfl rfl ?_)) | split | (rename_i he; have hd := congrArg Prod.snd he; dsimp only at hd; subst hd) | dsimp only | constructor | with_reducible (first | apply MemWf.ib | apply MemWf.ob | apply MemWf.ab | apply MemWf.rx | apply MemWf.sram | apply MemWf.near | apply MemWf.sbuf) | (simp [*]; done))
@[simp] theorem mem_modCur (f : StepRec → StepRec) (s : State) (hw : MemWf s) : MemWf (modCur f s) := by
  simp [modCur, *]
@[simp] theorem mem_dropSamples (step seg : Nat) (s : State) (hw : MemWf s) : MemWf (dropSamples step seg s) := by
  simp [dropSamples, *]
@[simp] theorem mem_sendAbandon (again : Bool) (s : State) (hw : MemWf s) : MemWf (sendAbandon again s) := by
  unfold sendAbandon
  repeat' (first | with_reducible (first | assumption | intro t x ht | intro t ht | apply mem_modCnv | apply mem_dropSamples | apply mem_schedToAll | apply mem_modCur | apply memWf_foldl | apply wf_foldl | apply wf_wrBytes | apply wf_wrByte | apply wf_wrWord | apply wf_wrHalf | apply wf_wrPair | apply wf_zeroRange | apply wf_obPut |  apply wf_setAb | (fail_if_no_progress refine memWf_same rfl rfl ?_)) | split | (rename_i he; have hd := congrArg Prod.snd he; dsimp only at hd; subst hd) | dsimp only | constructor | with_reducible (first | apply MemWf.ib | apply MemWf.ob | apply MemWf.ab | apply MemWf.rx | apply MemWf.sram | apply MemWf.near | apply MemWf.sbuf) | (simp [*]; done))
@[simp] theorem mem_updRevert (s : State) (hw : MemWf s) : MemWf (updRevert s) := by
  unfold updRevert
  repeat' (first | with_reducible (first | assumption | intro t x ht | intro t ht | apply mem_sendAbandon | apply mem_fire | apply mem_replyLate | apply memWf_foldl | apply wf_foldl | apply wf_wrBytes | apply wf_wrByte | apply wf_wrWord | apply wf_wrHalf | apply wf_wrPair | apply wf_zeroRange | apply wf_obPut |  apply wf_setAb | (fail_if_no_progress refine memWf_same rfl rfl ?_)) | split | (rename_i he; have hd := congrArg Prod.snd he; dsimp only at hd; subst hd) | dsimp only | constructor | with_reducible (first | apply MemWf.ib | apply MemWf.ob | apply MemWf.ab | apply MemWf.rx | apply MemWf.sram | apply MemWf.near | apply MemWf.sbuf) | (simp [*]; done))
@[simp] theorem mem_drainDecision (cause unit level : Nat) (s : State) (hw : MemWf s) : MemWf (drainDecision cause unit level s) := by
  unfold drainDecision
  repeat' (first | with_reducible (first | assumption | intro t x ht | intro t ht | apply mem_updRevert | apply mem_fire | apply mem_raiseAll | apply mem_evrCommit | apply mem_setMstate | apply mem_uhWrite | apply memWf_foldl | apply wf_foldl | apply wf_wrBytes | apply wf_wrByte | apply wf_wrWord | apply wf_wrHalf | apply wf_wrPair | apply wf_zeroRange | apply wf_obPut |  apply wf_setAb | (fail_if_no_progress refine memWf_same rfl rfl ?_)) | split | (rename_i he; have hd := congrArg Prod.snd he; dsimp only at hd; subst hd) | dsimp only | constructor | with_reducible (first | apply MemWf.ib | apply MemWf.ob | apply MemWf.ab | apply MemWf.rx | apply MemWf.sram | apply MemWf.near | apply MemWf.sbuf) | (simp [*]; done))
@[simp] theorem mem_addFence (core : Nat) (s : State) (hw : MemWf s) : MemWf (addFence core s) := by
  unfold addFence
  repeat' (first | with_reducible (first | assumption | intro t x ht | intro t ht | apply mem_drainDecision | apply mem_fire | apply memWf_foldl | apply wf_foldl | apply wf_wrBytes | apply wf_wrByte | apply wf_wrWord | apply wf_wrHalf | apply wf_wrPair | apply wf_zeroRange | apply wf_obPut |  apply wf_setAb | (fail_if_no_progress refine memWf_same rfl rfl ?_)) | split | (rename_i he; have hd := congrArg Prod.snd he; dsimp only at hd; subst hd) | dsimp only | constructor | with_reducible (first | apply MemWf.ib | apply MemWf.ob | apply MemWf.ab | apply MemWf.rx | apply MemWf.sram | apply MemWf.near | apply MemWf.sbuf) | (simp [*]; done))
@[simp] theorem mem_retireSpare (core : Nat) (s : State) (hw : MemWf s) : MemWf (retireSpare core s) := by
  simp [retireSpare, *]
@[simp] theorem mem_nextSpare (core : Nat) (s : State) (hw : MemWf s) : MemWf (nextSpare core s) := by
  unfold nextSpare
  repeat' (first | with_reducible (first | assumption | intro t x ht | intro t ht | apply mem_retireSpare | apply mem_drainDecision | apply memWf_foldl | apply wf_foldl | apply wf_wrBytes | apply wf_wrByte | apply wf_wrWord | apply wf_wrHalf | apply wf_wrPair | apply wf_zeroRange | apply wf_obPut |  apply wf_setAb | (fail_if_no_progress refine memWf_same rfl rfl ?_)) | split | (rename_i he; have hd := congrArg Prod.snd he; dsimp only at hd; subst hd) | dsimp only | constructor | with_reducible (first | apply MemWf.ib | apply MemWf.ob | apply MemWf.ab | apply MemWf.rx | apply MemWf.sram | apply MemWf.near | apply MemWf.sbuf) | (simp [*]; done))
@[simp] theorem mem_fenceDue (core : Nat) (s : State) (hw : MemWf s) : MemWf (fenceDue core s) := by
  unfold fenceDue
  repeat' (first | with_reducible (first | assumption | intro t x ht | intro t ht | apply mem_nextSpare | apply mem_retireSpare | apply mem_addFence | apply memWf_foldl | apply wf_foldl | apply wf_wrBytes | apply wf_wrByte | apply wf_wrWord | apply wf_wrHalf | apply wf_wrPair | apply wf_zeroRange | apply wf_obPut |  apply wf_setAb | (fail_if_no_progress refine memWf_same rfl rfl ?_)) | split | (rename_i he; have hd := congrArg Prod.snd he; dsimp only at hd; subst hd) | dsimp only | constructor | with_reducible (first | apply MemWf.ib | apply MemWf.ob | apply MemWf.ab | apply MemWf.rx | apply MemWf.sram | apply MemWf.near | apply MemWf.sbuf) | (simp [*]; done))
@[simp] theorem mem_recordFault (unit level kind detail : Nat) (recurs : Bool) (s : State) (hw : MemWf s) : MemWf (recordFault unit level kind detail recurs s) := by
  unfold recordFault
  repeat' (first | with_reducible (first | assumption | intro t x ht | intro t ht | apply mem_storeRecord | apply mem_fire | apply mem_healthUnit | apply mem_fenceDue | apply mem_uhWrite | apply mem_drainDecision | apply memWf_foldl | apply wf_foldl | apply wf_wrBytes | apply wf_wrByte | apply wf_wrWord | apply wf_wrHalf | apply wf_wrPair | apply wf_zeroRange | apply wf_obPut |  apply wf_setAb | (fail_if_no_progress refine memWf_same rfl rfl ?_)) | split | (rename_i he; have hd := congrArg Prod.snd he; dsimp only at hd; subst hd) | dsimp only | constructor | with_reducible (first | apply MemWf.ib | apply MemWf.ob | apply MemWf.ab | apply MemWf.rx | apply MemWf.sram | apply MemWf.near | apply MemWf.sbuf) | (simp [*]; done))
/-! ### Operands -/
@[simp] theorem mem_hold (c : Instr) (i : Iss) (s : State) (hw : MemWf s) : MemWf (hold c i s) := by
  simp [hold, *]
@[simp] theorem mem_enqueueOp (c : Instr) (i : Iss) (rdy : State → Bool) (act : State → State) (s : State) (h_act : ∀ y0, MemWf y0 → MemWf (act y0)) (hw : MemWf s) : MemWf (enqueueOp c i rdy act s) := by
  simp [enqueueOp, *]
@[simp] theorem mem_alive (i : Iss) (reads : Bool) (op : State → State) (s : State) (h_op : ∀ y0, MemWf y0 → MemWf (op y0)) (hw : MemWf s) : MemWf (alive i reads op s) := by
  simp [alive, *]
@[simp] theorem mem_laneOp (i : Iss) (op : Lane → State → State) (s : State) (h_op : ∀ y0 y1, MemWf y1 → MemWf (op y0 y1)) (hw : MemWf s) : MemWf (laneOp i op s) := by
  unfold laneOp
  repeat' (first | with_reducible (first | assumption | intro t x ht | intro t ht | apply mem_alive | apply h_op | apply memWf_foldl | apply wf_foldl | apply wf_wrBytes | apply wf_wrByte | apply wf_wrWord | apply wf_wrHalf | apply wf_wrPair | apply wf_zeroRange | apply wf_obPut |  apply wf_setAb | (fail_if_no_progress refine memWf_same rfl rfl ?_)) | split | (rename_i he; have hd := congrArg Prod.snd he; dsimp only at hd; subst hd) | dsimp only | constructor | with_reducible (first | apply MemWf.ib | apply MemWf.ob | apply MemWf.ab | apply MemWf.rx | apply MemWf.sram | apply MemWf.near | apply MemWf.sbuf) | (simp [*]; done))
@[simp] theorem mem_sendToken (src : Nat) (kind arg dest : Nat) (s : State) (hw : MemWf s) : MemWf (sendToken src kind arg dest s) := by
  simp [sendToken, *]
@[simp] theorem mem_seqFault (sid cause : Nat) (s : State) (hw : MemWf s) : MemWf (seqFault sid cause s) := by
  simp [seqFault, *]
@[simp] theorem mem_seqFaultOpen (sid : Nat) (s : State) (hw : MemWf s) : MemWf (seqFaultOpen sid s) := by
  simp [seqFaultOpen, *]
@[simp] theorem mem_checkWidth (i : Iss) (op : State → State) (s : State) (h_op : ∀ y0, MemWf y0 → MemWf (op y0)) (hw : MemWf s) : MemWf (checkWidth i op s) := by
  simp [checkWidth, *]
@[simp] theorem mem_checkVp (i : Iss) (vp : Nat) (op : State → State) (s : State) (h_op : ∀ y0, MemWf y0 → MemWf (op y0)) (hw : MemWf s) : MemWf (checkVp i vp op s) := by
  unfold checkVp
  repeat' (first | with_reducible (first | assumption | intro t x ht | intro t ht | apply mem_checkWidth | apply h_op | apply memWf_foldl | apply wf_foldl | apply wf_wrBytes | apply wf_wrByte | apply wf_wrWord | apply wf_wrHalf | apply wf_wrPair | apply wf_zeroRange | apply wf_obPut |  apply wf_setAb | (fail_if_no_progress refine memWf_same rfl rfl ?_)) | split | (rename_i he; have hd := congrArg Prod.snd he; dsimp only at hd; subst hd) | dsimp only | constructor | with_reducible (first | apply MemWf.ib | apply MemWf.ob | apply MemWf.ab | apply MemWf.rx | apply MemWf.sram | apply MemWf.near | apply MemWf.sbuf) | (simp [*]; done))
@[simp] theorem mem_abAdd (core tile : Nat) (ps : List Pair) (s : State) (hw : MemWf s) : MemWf (abAdd core tile ps s) := by
  simp [abAdd, *]
@[simp] theorem mem_abAddCols (core tile : Nat) (cols : List (Nat × Pair)) (s : State) (hw : MemWf s) : MemWf (abAddCols core tile cols s) := by
  unfold abAddCols
  repeat' (first | with_reducible (first | assumption | intro t x ht | intro t ht | apply memWf_foldl | apply wf_foldl | apply wf_wrBytes | apply wf_wrByte | apply wf_wrWord | apply wf_wrHalf | apply wf_wrPair | apply wf_zeroRange | apply wf_obPut |  apply wf_setAb | (fail_if_no_progress refine memWf_same rfl rfl ?_)) | split | (rename_i he; have hd := congrArg Prod.snd he; dsimp only at hd; subst hd) | dsimp only | constructor | with_reducible (first | apply MemWf.ib | apply MemWf.ob | apply MemWf.ab | apply MemWf.rx | apply MemWf.sram | apply MemWf.near | apply MemWf.sbuf) | (simp [*]; done))
/-! ### Array -/
@[simp] theorem mem_selectPlane (plane : Nat) (s : State) (array : Nat) (hw : MemWf s) : MemWf (selectPlane plane s array) := by
  simp [selectPlane, *]
@[simp] theorem mem_enqueueStroke (eng : Nat) (k : Stroke) (s : State) (hw : MemWf s) : MemWf (enqueueStroke eng k s) := by
  simp [enqueueStroke, *]
@[simp] theorem mem_pendReg (i : Iss) (f : StrokeF) (p eng : Nat) (s : State) (g : Nat × Nat) (hw : MemWf s) : MemWf (pendReg i f p eng s g) := by
  simp [pendReg, *]
@[simp] theorem mem_strokePos (i : Iss) (f : StrokeF) (ibs p : Nat) (desc : Bool) (s : State) (e : Nat) (hw : MemWf s) : MemWf (strokePos i f ibs p desc s e) := by
  unfold strokePos
  repeat' (first | with_reducible (first | assumption | intro t x ht | intro t ht | apply mem_pendReg | apply mem_enqueueStroke | apply memWf_foldl | apply wf_foldl | apply wf_wrBytes | apply wf_wrByte | apply wf_wrWord | apply wf_wrHalf | apply wf_wrPair | apply wf_zeroRange | apply wf_obPut |  apply wf_setAb | (fail_if_no_progress refine memWf_same rfl rfl ?_)) | split | (rename_i he; have hd := congrArg Prod.snd he; dsimp only at hd; subst hd) | dsimp only | constructor | with_reducible (first | apply MemWf.ib | apply MemWf.ob | apply MemWf.ab | apply MemWf.rx | apply MemWf.sram | apply MemWf.near | apply MemWf.sbuf) | (simp [*]; done))
@[simp] theorem mem_clearAcn (core : Nat) (s : State) (hw : MemWf s) : MemWf (clearAcn core s) := by
  simp [clearAcn, *]
@[simp] theorem mem_openSeg (i : Iss) (s : State) (hw : MemWf s) : MemWf (openSeg i s) := by
  simp [openSeg, *]
@[simp] theorem mem_strokeAll (i : Iss) (f : StrokeF) (desc : Bool) (ps : List Nat) (s : State) (hw : MemWf s) : MemWf (strokeAll i f desc ps s) := by
  unfold strokeAll
  repeat' (first | with_reducible (first | assumption | intro t x ht | intro t ht | apply mem_strokePos | apply mem_clearAcn | apply mem_openSeg | apply memWf_foldl | apply wf_foldl | apply wf_wrBytes | apply wf_wrByte | apply wf_wrWord | apply wf_wrHalf | apply wf_wrPair | apply wf_zeroRange | apply wf_obPut |  apply wf_setAb | (fail_if_no_progress refine memWf_same rfl rfl ?_)) | split | (rename_i he; have hd := congrArg Prod.snd he; dsimp only at hd; subst hd) | dsimp only | constructor | with_reducible (first | apply MemWf.ib | apply MemWf.ob | apply MemWf.ab | apply MemWf.rx | apply MemWf.sram | apply MemWf.near | apply MemWf.sbuf) | (simp [*]; done))
@[simp] theorem mem_countStroke (i : Iss) (op : State → State) (s : State) (h_op : ∀ y0, MemWf y0 → MemWf (op y0)) (hw : MemWf s) : MemWf (countStroke i op s) := by
  unfold countStroke
  repeat' (first | with_reducible (first | assumption | intro t x ht | intro t ht | apply mem_modSeq | apply h_op | apply memWf_foldl | apply wf_foldl | apply wf_wrBytes | apply wf_wrByte | apply wf_wrWord | apply wf_wrHalf | apply wf_wrPair | apply wf_zeroRange | apply wf_obPut |  apply wf_setAb | (fail_if_no_progress refine memWf_same rfl rfl ?_)) | split | (rename_i he; have hd := congrArg Prod.snd he; dsimp only at hd; subst hd) | dsimp only | constructor | with_reducible (first | apply MemWf.ib | apply MemWf.ob | apply MemWf.ab | apply MemWf.rx | apply MemWf.sram | apply MemWf.near | apply MemWf.sbuf) | (simp [*]; done))
@[simp] theorem mem_strkAct (i : Iss) (f : StrokeF) (s : State) (hw : MemWf s) : MemWf (strkAct i f s) := by
  unfold strkAct
  repeat' (first | with_reducible (first | assumption | intro t x ht | intro t ht | apply mem_countStroke | apply mem_alive | apply mem_strokeAll | apply memWf_foldl | apply wf_foldl | apply wf_wrBytes | apply wf_wrByte | apply wf_wrWord | apply wf_wrHalf | apply wf_wrPair | apply wf_zeroRange | apply wf_obPut |  apply wf_setAb | (fail_if_no_progress refine memWf_same rfl rfl ?_)) | split | (rename_i he; have hd := congrArg Prod.snd he; dsimp only at hd; subst hd) | dsimp only | constructor | with_reducible (first | apply MemWf.ib | apply MemWf.ob | apply MemWf.ab | apply MemWf.rx | apply MemWf.sram | apply MemWf.near | apply MemWf.sbuf) | (simp [*]; done))
@[simp] theorem mem_stkvAct (i : Iss) (f : StrokeF) (s : State) (hw : MemWf s) : MemWf (stkvAct i f s) := by
  unfold stkvAct
  repeat' (first | with_reducible (first | assumption | intro t x ht | intro t ht | apply mem_countStroke | apply mem_alive | apply mem_checkWidth | apply mem_strokeAll | apply memWf_foldl | apply wf_foldl | apply wf_wrBytes | apply wf_wrByte | apply wf_wrWord | apply wf_wrHalf | apply wf_wrPair | apply wf_zeroRange | apply wf_obPut |  apply wf_setAb | (fail_if_no_progress refine memWf_same rfl rfl ?_)) | split | (rename_i he; have hd := congrArg Prod.snd he; dsimp only at hd; subst hd) | dsimp only | constructor | with_reducible (first | apply MemWf.ib | apply MemWf.ob | apply MemWf.ab | apply MemWf.rx | apply MemWf.sram | apply MemWf.near | apply MemWf.sbuf) | (simp [*]; done))
@[simp] theorem mem_pselAct (i : Iss) (emask amask plane : Nat) (s : State) (hw : MemWf s) : MemWf (pselAct i emask amask plane s) := by
  unfold pselAct
  repeat' (first | with_reducible (first | assumption | intro t x ht | intro t ht | apply mem_alive | apply mem_selectPlane | apply memWf_foldl | apply wf_foldl | apply wf_wrBytes | apply wf_wrByte | apply wf_wrWord | apply wf_wrHalf | apply wf_wrPair | apply wf_zeroRange | apply wf_obPut |  apply wf_setAb | (fail_if_no_progress refine memWf_same rfl rfl ?_)) | split | (rename_i he; have hd := congrArg Prod.snd he; dsimp only at hd; subst hd) | dsimp only | constructor | with_reducible (first | apply MemWf.ib | apply MemWf.ob | apply MemWf.ab | apply MemWf.rx | apply MemWf.sram | apply MemWf.near | apply MemWf.sbuf) | (simp [*]; done))
@[simp] theorem mem_loadTiles (s : State) (eng : Nat) (k : Stroke) (dev : Tab Int) (hw : MemWf s) : MemWf (loadTiles s eng k dev) := by
  unfold loadTiles
  repeat' (first | with_reducible (first | assumption | intro t x ht | intro t ht | apply memWf_foldl | apply wf_foldl | apply wf_wrBytes | apply wf_wrByte | apply wf_wrWord | apply wf_wrHalf | apply wf_wrPair | apply wf_zeroRange | apply wf_obPut |  apply wf_setAb | (fail_if_no_progress refine memWf_same rfl rfl ?_)) | split | (rename_i he; have hd := congrArg Prod.snd he; dsimp only at hd; subst hd) | dsimp only | constructor | with_reducible (first | apply MemWf.ib | apply MemWf.ob | apply MemWf.ab | apply MemWf.rx | apply MemWf.sram | apply MemWf.near | apply MemWf.sbuf) | (simp [*]; done))
@[simp] theorem mem_releasePlanes (as : List ArrStroke) (s : State) (hw : MemWf s) : MemWf (releasePlanes as s) := by
  unfold releasePlanes
  repeat' (first | with_reducible (first | assumption | intro t x ht | intro t ht | apply memWf_foldl | apply wf_foldl | apply wf_wrBytes | apply wf_wrByte | apply wf_wrWord | apply wf_wrHalf | apply wf_wrPair | apply wf_zeroRange | apply wf_obPut |  apply wf_setAb | (fail_if_no_progress refine memWf_same rfl rfl ?_)) | split | (rename_i he; have hd := congrArg Prod.snd he; dsimp only at hd; subst hd) | dsimp only | constructor | with_reducible (first | apply MemWf.ib | apply MemWf.ob | apply MemWf.ab | apply MemWf.rx | apply MemWf.sram | apply MemWf.near | apply MemWf.sbuf) | (simp [*]; done))
@[simp] theorem mem_keepTiles (s : State) (eng : Nat) (k : Stroke) (hw : MemWf s) : MemWf (keepTiles s eng k) := by
  unfold keepTiles
  repeat' (first | with_reducible (first | assumption | intro t x ht | intro t ht | apply mem_modSeq | apply memWf_foldl | apply wf_foldl | apply wf_wrBytes | apply wf_wrByte | apply wf_wrWord | apply wf_wrHalf | apply wf_wrPair | apply wf_zeroRange | apply wf_obPut |  apply wf_setAb | (fail_if_no_progress refine memWf_same rfl rfl ?_)) | split | (rename_i he; have hd := congrArg Prod.snd he; dsimp only at hd; subst hd) | dsimp only | constructor | with_reducible (first | apply MemWf.ib | apply MemWf.ob | apply MemWf.ab | apply MemWf.rx | apply MemWf.sram | apply MemWf.near | apply MemWf.sbuf) | (simp [*]; done))
@[simp] theorem mem_strokeEndOp (eng : Nat) (dev : Tab Int) (tree : Nat) (s : State) (hw : MemWf s) : MemWf (strokeEndOp eng dev tree s) := by
  unfold strokeEndOp
  repeat' (first | with_reducible (first | assumption | intro t x ht | intro t ht | apply mem_releasePlanes | apply mem_keepTiles | apply mem_loadTiles | apply memWf_foldl | apply wf_foldl | apply wf_wrBytes | apply wf_wrByte | apply wf_wrWord | apply wf_wrHalf | apply wf_wrPair | apply wf_zeroRange | apply wf_obPut |  apply wf_setAb | (fail_if_no_progress refine memWf_same rfl rfl ?_)) | split | (rename_i he; have hd := congrArg Prod.snd he; dsimp only at hd; subst hd) | dsimp only | constructor | with_reducible (first | apply MemWf.ib | apply MemWf.ob | apply MemWf.ab | apply MemWf.rx | apply MemWf.sram | apply MemWf.near | apply MemWf.sbuf) | (simp [*]; done))
/-! ### Flags -/
@[simp] theorem mem_swatchFailed (array col : Nat) (s : State) (hw : MemWf s) : MemWf (swatchFailed array col s) := by
  unfold swatchFailed; split <;> simp [*]
@[simp] theorem mem_countLone (array col : Nat) (lone : Bool) (s : State) (hw : MemWf s) : MemWf (countLone array col lone s) := by
  unfold countLone
  repeat' (first | with_reducible (first | assumption | intro t x ht | intro t ht | apply mem_swatchFailed | apply memWf_foldl | apply wf_foldl | apply wf_wrBytes | apply wf_wrByte | apply wf_wrWord | apply wf_wrHalf | apply wf_wrPair | apply wf_zeroRange | apply wf_obPut |  apply wf_setAb | (fail_if_no_progress refine memWf_same rfl rfl ?_)) | split | (rename_i he; have hd := congrArg Prod.snd he; dsimp only at hd; subst hd) | dsimp only | constructor | with_reducible (first | apply MemWf.ib | apply MemWf.ob | apply MemWf.ab | apply MemWf.rx | apply MemWf.sram | apply MemWf.near | apply MemWf.sbuf) | (simp [*]; done))
@[simp] theorem mem_arbitrate (f : StrokeFlags) (s : State) (hw : MemWf s) : MemWf (arbitrate f s) := by
  unfold arbitrate
  repeat' (first | with_reducible (first | assumption | intro t x ht | intro t ht | apply mem_countLone | apply memWf_foldl | apply wf_foldl | apply wf_wrBytes | apply wf_wrByte | apply wf_wrWord | apply wf_wrHalf | apply wf_wrPair | apply wf_zeroRange | apply wf_obPut |  apply wf_setAb | (fail_if_no_progress refine memWf_same rfl rfl ?_)) | split | (rename_i he; have hd := congrArg Prod.snd he; dsimp only at hd; subst hd) | dsimp only | constructor | with_reducible (first | apply MemWf.ib | apply MemWf.ob | apply MemWf.ab | apply MemWf.rx | apply MemWf.sram | apply MemWf.near | apply MemWf.sbuf) | (simp [*]; done))
@[simp] theorem mem_reportFlags (eng : Nat) (s : State) (hw : MemWf s) : MemWf (reportFlags eng s) := by
  unfold reportFlags
  repeat' (first | with_reducible (first | assumption | intro t x ht | intro t ht | apply mem_arbitrate | apply mem_modSeq | apply memWf_foldl | apply wf_foldl | apply wf_wrBytes | apply wf_wrByte | apply wf_wrWord | apply wf_wrHalf | apply wf_wrPair | apply wf_zeroRange | apply wf_obPut |  apply wf_setAb | (fail_if_no_progress refine memWf_same rfl rfl ?_)) | split | (rename_i he; have hd := congrArg Prod.snd he; dsimp only at hd; subst hd) | dsimp only | constructor | with_reducible (first | apply MemWf.ib | apply MemWf.ob | apply MemWf.ab | apply MemWf.rx | apply MemWf.sram | apply MemWf.near | apply MemWf.sbuf) | (simp [*]; done))
/-! ### GlazeOps -/
@[simp] theorem mem_addD16 (core abTile plane : Nat) (t : TileIn) (array : Nat) (cols : List Nat) (s : State) (hw : MemWf s) : MemWf (addD16 core abTile plane t array cols s) := by
  simp [addD16, *]
theorem mem_addRun (core abTile tile plane : Nat) (d16 : List (Nat × List Nat)) (t : TileIn) (sc : Nat → Half) (z : State × List Nat) (r : Run)
    (hw : MemWf z.1) : MemWf (addRun core abTile tile plane d16 t sc z r).1 := by
  unfold addRun
  dsimp only
  apply memWf_foldl
  · intro t x ht; exact mem_addD16 _ _ _ _ _ _ _ ht
  · exact mem_abAdd _ _ _ _ hw
theorem mem_addRuns (core abTile tile plane : Nat) (d16 : List (Nat × List Nat)) (t : TileIn) (sc : Nat → Half) (l : List Run) (z : State × List Nat)
    (hw : MemWf z.1) : MemWf (l.foldl (addRun core abTile tile plane d16 t sc) z).1 := by
  induction l generalizing z with
  | nil => exact hw
  | cons x xs ih => exact ih _ (mem_addRun _ _ _ _ _ _ _ _ _ hw)
@[simp] theorem mem_aproTile (core abTile eng n gt : Nat) (whole : Bool) (s : State) (hw : MemWf s) : MemWf (aproTile core abTile eng n gt whole s) := by
  unfold aproTile
  repeat' (first | with_reducible (first | assumption | intro t x ht | intro t ht | apply mem_addRun | apply mem_addD16 | apply mem_addRuns | apply memWf_foldl | apply wf_foldl | apply wf_wrBytes | apply wf_wrByte | apply wf_wrWord | apply wf_wrHalf | apply wf_wrPair | apply wf_zeroRange | apply wf_obPut |  apply wf_setAb | (fail_if_no_progress refine memWf_same rfl rfl ?_)) | split | (rename_i he; have hd := congrArg Prod.snd he; dsimp only at hd; subst hd) | dsimp only | constructor | with_reducible (first | apply MemWf.ib | apply MemWf.ob | apply MemWf.ab | apply MemWf.rx | apply MemWf.sram | apply MemWf.near | apply MemWf.sbuf) | (simp [*]; done))
@[simp] theorem mem_goutTile (i : Iss) (lix eng grp plane gt abTile p : Nat) (s : State) (hw : MemWf s) : MemWf (goutTile i lix eng grp plane gt abTile p s) := by
  simp [goutTile, *]
@[simp] theorem mem_gactTile (i : Iss) (lix eng grp plane abTile p : Nat) (s : State) (hw : MemWf s) : MemWf (gactTile i lix eng grp plane abTile p s) := by
  simp [gactTile, *]
@[simp] theorem mem_glrStroke (s : State) (k : Stroke) (hw : MemWf s) : MemWf (glrStroke s k) := by
  unfold glrStroke
  repeat' (first | with_reducible (first | assumption | intro t x ht | intro t ht | apply memWf_foldl | apply wf_foldl | apply wf_wrBytes | apply wf_wrByte | apply wf_wrWord | apply wf_wrHalf | apply wf_wrPair | apply wf_zeroRange | apply wf_obPut |  apply wf_setAb | (fail_if_no_progress refine memWf_same rfl rfl ?_)) | split | (rename_i he; have hd := congrArg Prod.snd he; dsimp only at hd; subst hd) | dsimp only | constructor | with_reducible (first | apply MemWf.ib | apply MemWf.ob | apply MemWf.ab | apply MemWf.rx | apply MemWf.sram | apply MemWf.near | apply MemWf.sbuf) | (simp [*]; done))
@[simp] theorem mem_glrIn (i : Iss) (s : State) (hw : MemWf s) : MemWf (glrIn i s) := by
  unfold glrIn
  repeat' (first | with_reducible (first | assumption | intro t x ht | intro t ht | apply mem_modSeq | apply mem_glrStroke | apply memWf_foldl | apply wf_foldl | apply wf_wrBytes | apply wf_wrByte | apply wf_wrWord | apply wf_wrHalf | apply wf_wrPair | apply wf_zeroRange | apply wf_obPut |  apply wf_setAb | (fail_if_no_progress refine memWf_same rfl rfl ?_)) | split | (rename_i he; have hd := congrArg Prod.snd he; dsimp only at hd; subst hd) | dsimp only | constructor | with_reducible (first | apply MemWf.ib | apply MemWf.ob | apply MemWf.ab | apply MemWf.rx | apply MemWf.sram | apply MemWf.near | apply MemWf.sbuf) | (simp [*]; done))
@[simp] theorem mem_glrOut (core eng grp plane gt abTile p : Nat) (s : State) (hw : MemWf s) : MemWf (glrOut core eng grp plane gt abTile p s) := by
  simp [glrOut, *]
@[simp] theorem mem_gtntIn (i : Iss) (lix eng grp plane p : Nat) (l : Lane) (tid : Nat) (s : State) (hw : MemWf s) : MemWf (gtntIn i lix eng grp plane p l tid s) := by
  unfold gtntIn; split <;> simp [*]
@[simp] theorem mem_gtntOut (sid eng grp plane abTile p : Nat) (l : Lane) (tid : Nat) (s : State) (hw : MemWf s) : MemWf (gtntOut sid eng grp plane abTile p l tid s) := by
  unfold gtntOut; split <;> simp [*]
/-! ### Acc -/
@[simp] theorem mem_aclrAct (i : Iss) (tile count : Nat) (s : State) (hw : MemWf s) : MemWf (aclrAct i tile count s) := by
  unfold aclrAct
  repeat' (first | with_reducible (first | assumption | intro t x ht | intro t ht | apply mem_alive | apply memWf_foldl | apply wf_foldl | apply wf_wrBytes | apply wf_wrByte | apply wf_wrWord | apply wf_wrHalf | apply wf_wrPair | apply wf_zeroRange | apply wf_obPut |  apply wf_setAb | (fail_if_no_progress refine memWf_same rfl rfl ?_)) | split | (rename_i he; have hd := congrArg Prod.snd he; dsimp only at hd; subst hd) | dsimp only | constructor | with_reducible (first | apply MemWf.ib | apply MemWf.ob | apply MemWf.ab | apply MemWf.rx | apply MemWf.sram | apply MemWf.near | apply MemWf.sbuf) | (simp [*]; done))
@[simp] theorem mem_aclrRun (i : Iss) (tile count : Nat) (x0 : State) (hw : MemWf x0) : MemWf (aclrRun i tile count x0) := by
  unfold aclrRun
  repeat' (first | with_reducible (first | assumption | intro t x ht | intro t ht | apply mem_enqueueOp | apply mem_aclrAct | apply memWf_foldl | apply wf_foldl | apply wf_wrBytes | apply wf_wrByte | apply wf_wrWord | apply wf_wrHalf | apply wf_wrPair | apply wf_zeroRange | apply wf_obPut |  apply wf_setAb | (fail_if_no_progress refine memWf_same rfl rfl ?_)) | split | (rename_i he; have hd := congrArg Prod.snd he; dsimp only at hd; subst hd) | dsimp only | constructor | with_reducible (first | apply MemWf.ib | apply MemWf.ob | apply MemWf.ab | apply MemWf.rx | apply MemWf.sram | apply MemWf.near | apply MemWf.sbuf) | (simp [*]; done))
@[simp] theorem mem_acnAct (i : Iss) (ntrm : Nat) (s : State) (hw : MemWf s) : MemWf (acnAct i ntrm s) := by
  unfold acnAct
  repeat' (first | with_reducible (first | assumption | intro t x ht | intro t ht | apply mem_alive | apply memWf_foldl | apply wf_foldl | apply wf_wrBytes | apply wf_wrByte | apply wf_wrWord | apply wf_wrHalf | apply wf_wrPair | apply wf_zeroRange | apply wf_obPut |  apply wf_setAb | (fail_if_no_progress refine memWf_same rfl rfl ?_)) | split | (rename_i he; have hd := congrArg Prod.snd he; dsimp only at hd; subst hd) | dsimp only | constructor | with_reducible (first | apply MemWf.ib | apply MemWf.ob | apply MemWf.ab | apply MemWf.rx | apply MemWf.sram | apply MemWf.near | apply MemWf.sbuf) | (simp [*]; done))
@[simp] theorem mem_aproAll (i : Iss) (eng ntr tile vp : Nat) (s : State) (hw : MemWf s) : MemWf (aproAll i eng ntr tile vp s) := by
  unfold aproAll
  repeat' (first | with_reducible (first | assumption | intro t x ht | intro t ht | apply mem_aproTile | apply memWf_foldl | apply wf_foldl | apply wf_wrBytes | apply wf_wrByte | apply wf_wrWord | apply wf_wrHalf | apply wf_wrPair | apply wf_zeroRange | apply wf_obPut |  apply wf_setAb | (fail_if_no_progress refine memWf_same rfl rfl ?_)) | split | (rename_i he; have hd := congrArg Prod.snd he; dsimp only at hd; subst hd) | dsimp only | constructor | with_reducible (first | apply MemWf.ib | apply MemWf.ob | apply MemWf.ab | apply MemWf.rx | apply MemWf.sram | apply MemWf.near | apply MemWf.sbuf) | (simp [*]; done))
@[simp] theorem mem_aproAct (i : Iss) (eng ntr tile vp : Nat) (s : State) (hw : MemWf s) : MemWf (aproAct i eng ntr tile vp s) := by
  unfold aproAct
  repeat' (first | with_reducible (first | assumption | intro t x ht | intro t ht | apply mem_alive | apply mem_checkVp | apply mem_aproAll | apply memWf_foldl | apply wf_foldl | apply wf_wrBytes | apply wf_wrByte | apply wf_wrWord | apply wf_wrHalf | apply wf_wrPair | apply wf_zeroRange | apply wf_obPut |  apply wf_setAb | (fail_if_no_progress refine memWf_same rfl rfl ?_)) | split | (rename_i he; have hd := congrArg Prod.snd he; dsimp only at hd; subst hd) | dsimp only | constructor | with_reducible (first | apply MemWf.ib | apply MemWf.ob | apply MemWf.ab | apply MemWf.rx | apply MemWf.sram | apply MemWf.near | apply MemWf.sbuf) | (simp [*]; done))
@[simp] theorem mem_aproRun (i : Iss) (eng ntr tile vp : Nat) (x0 : State) (hw : MemWf x0) : MemWf (aproRun i eng ntr tile vp x0) := by
  unfold aproRun
  repeat' (first | with_reducible (first | assumption | intro t x ht | intro t ht | apply mem_enqueueOp | apply mem_aproAct | apply memWf_foldl | apply wf_foldl | apply wf_wrBytes | apply wf_wrByte | apply wf_wrWord | apply wf_wrHalf | apply wf_wrPair | apply wf_zeroRange | apply wf_obPut |  apply wf_setAb | (fail_if_no_progress refine memWf_same rfl rfl ?_)) | split | (rename_i he; have hd := congrArg Prod.snd he; dsimp only at hd; subst hd) | dsimp only | constructor | with_reducible (first | apply MemWf.ib | apply MemWf.ob | apply MemWf.ab | apply MemWf.rx | apply MemWf.sram | apply MemWf.near | apply MemWf.sbuf) | (simp [*]; done))
@[simp] theorem mem_awidOne (sid srcsp src dst : Nat) (s : State) (hw : MemWf s) : MemWf (awidOne sid srcsp src dst s) := by
  unfold awidOne
  repeat' (first | with_reducible (first | assumption | intro t x ht | intro t ht | apply mem_abAdd | apply mem_modSeq | apply memWf_foldl | apply wf_foldl | apply wf_wrBytes | apply wf_wrByte | apply wf_wrWord | apply wf_wrHalf | apply wf_wrPair | apply wf_zeroRange | apply wf_obPut |  apply wf_setAb | (fail_if_no_progress refine memWf_same rfl rfl ?_)) | split | (rename_i he; have hd := congrArg Prod.snd he; dsimp only at hd; subst hd) | dsimp only | constructor | with_reducible (first | apply MemWf.ib | apply MemWf.ob | apply MemWf.ab | apply MemWf.rx | apply MemWf.sram | apply MemWf.near | apply MemWf.sbuf) | (simp [*]; done))
@[simp] theorem mem_awidAll (i : Iss) (dtile srcsp saddr tcnt fold : Nat) (s : State) (hw : MemWf s) : MemWf (awidAll i dtile srcsp saddr tcnt fold s) := by
  unfold awidAll
  repeat' (first | with_reducible (first | assumption | intro t x ht | intro t ht | apply mem_awidOne | apply memWf_foldl | apply wf_foldl | apply wf_wrBytes | apply wf_wrByte | apply wf_wrWord | apply wf_wrHalf | apply wf_wrPair | apply wf_zeroRange | apply wf_obPut |  apply wf_setAb | (fail_if_no_progress refine memWf_same rfl rfl ?_)) | split | (rename_i he; have hd := congrArg Prod.snd he; dsimp only at hd; subst hd) | dsimp only | constructor | with_reducible (first | apply MemWf.ib | apply MemWf.ob | apply MemWf.ab | apply MemWf.rx | apply MemWf.sram | apply MemWf.near | apply MemWf.sbuf) | (simp [*]; done))
@[simp] theorem mem_awidAct (i : Iss) (dtile srcsp saddr tcnt fold : Nat) (s : State) (hw : MemWf s) : MemWf (awidAct i dtile srcsp saddr tcnt fold s) := by
  unfold awidAct
  repeat' (first | with_reducible (first | assumption | intro t x ht | intro t ht | apply mem_alive | apply mem_awidAll | apply memWf_foldl | apply wf_foldl | apply wf_wrBytes | apply wf_wrByte | apply wf_wrWord | apply wf_wrHalf | apply wf_wrPair | apply wf_zeroRange | apply wf_obPut |  apply wf_setAb | (fail_if_no_progress refine memWf_same rfl rfl ?_)) | split | (rename_i he; have hd := congrArg Prod.snd he; dsimp only at hd; subst hd) | dsimp only | constructor | with_reducible (first | apply MemWf.ib | apply MemWf.ob | apply MemWf.ab | apply MemWf.rx | apply MemWf.sram | apply MemWf.near | apply MemWf.sbuf) | (simp [*]; done))
@[simp] theorem mem_awidRun (i : Iss) (dtile srcsp saddr tcnt fold : Nat) (x0 : State) (hw : MemWf x0) : MemWf (awidRun i dtile srcsp saddr tcnt fold x0) := by
  unfold awidRun
  repeat' (first | with_reducible (first | assumption | intro t x ht | intro t ht | apply mem_enqueueOp | apply mem_awidAct | apply memWf_foldl | apply wf_foldl | apply wf_wrBytes | apply wf_wrByte | apply wf_wrWord | apply wf_wrHalf | apply wf_wrPair | apply wf_zeroRange | apply wf_obPut |  apply wf_setAb | (fail_if_no_progress refine memWf_same rfl rfl ?_)) | split | (rename_i he; have hd := congrArg Prod.snd he; dsimp only at hd; subst hd) | dsimp only | constructor | with_reducible (first | apply MemWf.ib | apply MemWf.ob | apply MemWf.ab | apply MemWf.rx | apply MemWf.sram | apply MemWf.near | apply MemWf.sbuf) | (simp [*]; done))
@[simp] theorem mem_redPut (core dst dsr : Nat) (p : Pair) (s : State) (hw : MemWf s) : MemWf (redPut core dst dsr p s) := by
  unfold redPut; split <;> simp [*]
@[simp] theorem mem_reduce (i : Iss) (f : RedF) (loc : List (Pair × Nat) → Pair) (comb : Pair → Pair → Pair) (s : State) (hw : MemWf s) : MemWf (reduce i f loc comb s) := by
  simp [reduce, *]
@[simp] theorem mem_rsumAct (i : Iss) (f : RedF) (sq : Nat) (s : State) (hw : MemWf s) : MemWf (rsumAct i f sq s) := by
  unfold rsumAct
  repeat' (first | with_reducible (first | assumption | intro t x ht | intro t ht | apply mem_alive | apply mem_reduce | apply memWf_foldl | apply wf_foldl | apply wf_wrBytes | apply wf_wrByte | apply wf_wrWord | apply wf_wrHalf | apply wf_wrPair | apply wf_zeroRange | apply wf_obPut |  apply wf_setAb | (fail_if_no_progress refine memWf_same rfl rfl ?_)) | split | (rename_i he; have hd := congrArg Prod.snd he; dsimp only at hd; subst hd) | dsimp only | constructor | with_reducible (first | apply MemWf.ib | apply MemWf.ob | apply MemWf.ab | apply MemWf.rx | apply MemWf.sram | apply MemWf.near | apply MemWf.sbuf) | (simp [*]; done))
@[simp] theorem mem_rmaxAct (i : Iss) (f : RedF) (s : State) (hw : MemWf s) : MemWf (rmaxAct i f s) := by
  unfold rmaxAct
  repeat' (first | with_reducible (first | assumption | intro t x ht | intro t ht | apply mem_alive | apply mem_reduce | apply memWf_foldl | apply wf_foldl | apply wf_wrBytes | apply wf_wrByte | apply wf_wrWord | apply wf_wrHalf | apply wf_wrPair | apply wf_zeroRange | apply wf_obPut |  apply wf_setAb | (fail_if_no_progress refine memWf_same rfl rfl ?_)) | split | (rename_i he; have hd := congrArg Prod.snd he; dsimp only at hd; subst hd) | dsimp only | constructor | with_reducible (first | apply MemWf.ib | apply MemWf.ob | apply MemWf.ab | apply MemWf.rx | apply MemWf.sram | apply MemWf.near | apply MemWf.sbuf) | (simp [*]; done))
@[simp] theorem mem_rminAct (i : Iss) (f : RedF) (s : State) (hw : MemWf s) : MemWf (rminAct i f s) := by
  unfold rminAct
  repeat' (first | with_reducible (first | assumption | intro t x ht | intro t ht | apply mem_alive | apply mem_reduce | apply memWf_foldl | apply wf_foldl | apply wf_wrBytes | apply wf_wrByte | apply wf_wrWord | apply wf_wrHalf | apply wf_wrPair | apply wf_zeroRange | apply wf_obPut |  apply wf_setAb | (fail_if_no_progress refine memWf_same rfl rfl ?_)) | split | (rename_i he; have hd := congrArg Prod.snd he; dsimp only at hd; subst hd) | dsimp only | constructor | with_reducible (first | apply MemWf.ib | apply MemWf.ob | apply MemWf.ab | apply MemWf.rx | apply MemWf.sram | apply MemWf.near | apply MemWf.sbuf) | (simp [*]; done))
@[simp] theorem mem_rargAct (i : Iss) (f : RedF) (s : State) (hw : MemWf s) : MemWf (rargAct i f s) := by
  unfold rargAct
  repeat' (first | with_reducible (first | assumption | intro t x ht | intro t ht | apply mem_alive | apply mem_reduce | apply memWf_foldl | apply wf_foldl | apply wf_wrBytes | apply wf_wrByte | apply wf_wrWord | apply wf_wrHalf | apply wf_wrPair | apply wf_zeroRange | apply wf_obPut |  apply wf_setAb | (fail_if_no_progress refine memWf_same rfl rfl ?_)) | split | (rename_i he; have hd := congrArg Prod.snd he; dsimp only at hd; subst hd) | dsimp only | constructor | with_reducible (first | apply MemWf.ib | apply MemWf.ob | apply MemWf.ab | apply MemWf.rx | apply MemWf.sram | apply MemWf.near | apply MemWf.sbuf) | (simp [*]; done))
@[simp] theorem mem_randAct (i : Iss) (f : RedF) (s : State) (hw : MemWf s) : MemWf (randAct i f s) := by
  unfold randAct
  repeat' (first | with_reducible (first | assumption | intro t x ht | intro t ht | apply mem_alive | apply mem_reduce | apply memWf_foldl | apply wf_foldl | apply wf_wrBytes | apply wf_wrByte | apply wf_wrWord | apply wf_wrHalf | apply wf_wrPair | apply wf_zeroRange | apply wf_obPut |  apply wf_setAb | (fail_if_no_progress refine memWf_same rfl rfl ?_)) | split | (rename_i he; have hd := congrArg Prod.snd he; dsimp only at hd; subst hd) | dsimp only | constructor | with_reducible (first | apply MemWf.ib | apply MemWf.ob | apply MemWf.ab | apply MemWf.rx | apply MemWf.sram | apply MemWf.near | apply MemWf.sbuf) | (simp [*]; done))
@[simp] theorem mem_rorAct (i : Iss) (f : RedF) (s : State) (hw : MemWf s) : MemWf (rorAct i f s) := by
  unfold rorAct
  repeat' (first | with_reducible (first | assumption | intro t x ht | intro t ht | apply mem_alive | apply mem_reduce | apply memWf_foldl | apply wf_foldl | apply wf_wrBytes | apply wf_wrByte | apply wf_wrWord | apply wf_wrHalf | apply wf_wrPair | apply wf_zeroRange | apply wf_obPut |  apply wf_setAb | (fail_if_no_progress refine memWf_same rfl rfl ?_)) | split | (rename_i he; have hd := congrArg Prod.snd he; dsimp only at hd; subst hd) | dsimp only | constructor | with_reducible (first | apply MemWf.ib | apply MemWf.ob | apply MemWf.ab | apply MemWf.rx | apply MemWf.sram | apply MemWf.near | apply MemWf.sbuf) | (simp [*]; done))
@[simp] theorem mem_rxorAct (i : Iss) (f : RedF) (s : State) (hw : MemWf s) : MemWf (rxorAct i f s) := by
  unfold rxorAct
  repeat' (first | with_reducible (first | assumption | intro t x ht | intro t ht | apply mem_alive | apply mem_reduce | apply memWf_foldl | apply wf_foldl | apply wf_wrBytes | apply wf_wrByte | apply wf_wrWord | apply wf_wrHalf | apply wf_wrPair | apply wf_zeroRange | apply wf_obPut |  apply wf_setAb | (fail_if_no_progress refine memWf_same rfl rfl ?_)) | split | (rename_i he; have hd := congrArg Prod.snd he; dsimp only at hd; subst hd) | dsimp only | constructor | with_reducible (first | apply MemWf.ib | apply MemWf.ob | apply MemWf.ab | apply MemWf.rx | apply MemWf.sram | apply MemWf.near | apply MemWf.sbuf) | (simp [*]; done))
@[simp] theorem mem_rcntAct (i : Iss) (f : RedF) (s : State) (hw : MemWf s) : MemWf (rcntAct i f s) := by
  unfold rcntAct
  repeat' (first | with_reducible (first | assumption | intro t x ht | intro t ht | apply mem_alive | apply mem_reduce | apply memWf_foldl | apply wf_foldl | apply wf_wrBytes | apply wf_wrByte | apply wf_wrWord | apply wf_wrHalf | apply wf_wrPair | apply wf_zeroRange | apply wf_obPut |  apply wf_setAb | (fail_if_no_progress refine memWf_same rfl rfl ?_)) | split | (rename_i he; have hd := congrArg Prod.snd he; dsimp only at hd; subst hd) | dsimp only | constructor | with_reducible (first | apply MemWf.ib | apply MemWf.ob | apply MemWf.ab | apply MemWf.rx | apply MemWf.sram | apply MemWf.near | apply MemWf.sbuf) | (simp [*]; done))
@[simp] theorem mem_redRun (c : Instr) (i : Iss) (act : State → State) (x0 : State) (h_act : ∀ y0, MemWf y0 → MemWf (act y0)) (hw : MemWf x0) : MemWf (redRun c i act x0) := by
  unfold redRun
  repeat' (first | with_reducible (first | assumption | intro t x ht | intro t ht | apply mem_enqueueOp | apply h_act | apply memWf_foldl | apply wf_foldl | apply wf_wrBytes | apply wf_wrByte | apply wf_wrWord | apply wf_wrHalf | apply wf_wrPair | apply wf_zeroRange | apply wf_obPut |  apply wf_setAb | (fail_if_no_progress refine memWf_same rfl rfl ?_)) | split | (rename_i he; have hd := congrArg Prod.snd he; dsimp only at hd; subst hd) | dsimp only | constructor | with_reducible (first | apply MemWf.ib | apply MemWf.ob | apply MemWf.ab | apply MemWf.rx | apply MemWf.sram | apply MemWf.near | apply MemWf.sbuf) | (simp [*]; done))
/-! ### Glaze -/
@[simp] theorem mem_eachPos (i : Iss) (f : GlzF) (term : Nat → Nat → State → State) (s : State) (h_term : ∀ y0 y1 y2, MemWf y2 → MemWf (term y0 y1 y2)) (hw : MemWf s) : MemWf (eachPos i f term s) := by
  unfold eachPos
  repeat' (first | with_reducible (first | assumption | intro t x ht | intro t ht | apply h_term | apply memWf_foldl | apply wf_foldl | apply wf_wrBytes | apply wf_wrByte | apply wf_wrWord | apply wf_wrHalf | apply wf_wrPair | apply wf_zeroRange | apply wf_obPut |  apply wf_setAb | (fail_if_no_progress refine memWf_same rfl rfl ?_)) | split | (rename_i he; have hd := congrArg Prod.snd he; dsimp only at hd; subst hd) | dsimp only | constructor | with_reducible (first | apply MemWf.ib | apply MemWf.ob | apply MemWf.ab | apply MemWf.rx | apply MemWf.sram | apply MemWf.near | apply MemWf.sbuf) | (simp [*]; done))
@[simp] theorem mem_glzAct (i : Iss) (f : GlzF) (term : Nat → Nat → State → State) (s : State) (h_term : ∀ y0 y1 y2, MemWf y2 → MemWf (term y0 y1 y2)) (hw : MemWf s) : MemWf (glzAct i f term s) := by
  unfold glzAct
  repeat' (first | with_reducible (first | assumption | intro t x ht | intro t ht | apply mem_alive | apply mem_checkVp | apply mem_eachPos | apply h_term | apply memWf_foldl | apply wf_foldl | apply wf_wrBytes | apply wf_wrByte | apply wf_wrWord | apply wf_wrHalf | apply wf_wrPair | apply wf_zeroRange | apply wf_obPut |  apply wf_setAb | (fail_if_no_progress refine memWf_same rfl rfl ?_)) | split | (rename_i he; have hd := congrArg Prod.snd he; dsimp only at hd; subst hd) | dsimp only | constructor | with_reducible (first | apply MemWf.ib | apply MemWf.ob | apply MemWf.ab | apply MemWf.rx | apply MemWf.sram | apply MemWf.near | apply MemWf.sbuf) | (simp [*]; done))
@[simp] theorem mem_glzRun (c : Instr) (i : Iss) (act : State → State) (x0 : State) (h_act : ∀ y0, MemWf y0 → MemWf (act y0)) (hw : MemWf x0) : MemWf (glzRun c i act x0) := by
  unfold glzRun
  repeat' (first | with_reducible (first | assumption | intro t x ht | intro t ht | apply mem_enqueueOp | apply h_act | apply memWf_foldl | apply wf_foldl | apply wf_wrBytes | apply wf_wrByte | apply wf_wrWord | apply wf_wrHalf | apply wf_wrPair | apply wf_zeroRange | apply wf_obPut |  apply wf_setAb | (fail_if_no_progress refine memWf_same rfl rfl ?_)) | split | (rename_i he; have hd := congrArg Prod.snd he; dsimp only at hd; subst hd) | dsimp only | constructor | with_reducible (first | apply MemWf.ib | apply MemWf.ob | apply MemWf.ab | apply MemWf.rx | apply MemWf.sram | apply MemWf.near | apply MemWf.sbuf) | (simp [*]; done))
@[simp] theorem mem_gcolAct (i : Iss) (f : GlzF) (s : State) (hw : MemWf s) : MemWf (gcolAct i f s) := by
  unfold gcolAct
  repeat' (first | with_reducible (first | assumption | intro t x ht | intro t ht | apply mem_alive | apply memWf_foldl | apply wf_foldl | apply wf_wrBytes | apply wf_wrByte | apply wf_wrWord | apply wf_wrHalf | apply wf_wrPair | apply wf_zeroRange | apply wf_obPut |  apply wf_setAb | (fail_if_no_progress refine memWf_same rfl rfl ?_)) | split | (rename_i he; have hd := congrArg Prod.snd he; dsimp only at hd; subst hd) | dsimp only | constructor | with_reducible (first | apply MemWf.ib | apply MemWf.ob | apply MemWf.ab | apply MemWf.rx | apply MemWf.sram | apply MemWf.near | apply MemWf.sbuf) | (simp [*]; done))
@[simp] theorem mem_goutAct (i : Iss) (f : GlzF) (s : State) (hw : MemWf s) : MemWf (goutAct i f s) := by
  unfold goutAct
  repeat' (first | with_reducible (first | assumption | intro t x ht | intro t ht | apply mem_glzAct | apply mem_goutTile | apply memWf_foldl | apply wf_foldl | apply wf_wrBytes | apply wf_wrByte | apply wf_wrWord | apply wf_wrHalf | apply wf_wrPair | apply wf_zeroRange | apply wf_obPut |  apply wf_setAb | (fail_if_no_progress refine memWf_same rfl rfl ?_)) | split | (rename_i he; have hd := congrArg Prod.snd he; dsimp only at hd; subst hd) | dsimp only | constructor | with_reducible (first | apply MemWf.ib | apply MemWf.ob | apply MemWf.ab | apply MemWf.rx | apply MemWf.sram | apply MemWf.near | apply MemWf.sbuf) | (simp [*]; done))
@[simp] theorem mem_gactAct (i : Iss) (f : GlzF) (s : State) (hw : MemWf s) : MemWf (gactAct i f s) := by
  unfold gactAct
  repeat' (first | with_reducible (first | assumption | intro t x ht | intro t ht | apply mem_glzAct | apply mem_gactTile | apply memWf_foldl | apply wf_foldl | apply wf_wrBytes | apply wf_wrByte | apply wf_wrWord | apply wf_wrHalf | apply wf_wrPair | apply wf_zeroRange | apply wf_obPut |  apply wf_setAb | (fail_if_no_progress refine memWf_same rfl rfl ?_)) | split | (rename_i he; have hd := congrArg Prod.snd he; dsimp only at hd; subst hd) | dsimp only | constructor | with_reducible (first | apply MemWf.ib | apply MemWf.ob | apply MemWf.ab | apply MemWf.rx | apply MemWf.sram | apply MemWf.near | apply MemWf.sbuf) | (simp [*]; done))
@[simp] theorem mem_glrAct (i : Iss) (f : GlzF) (s : State) (hw : MemWf s) : MemWf (glrAct i f s) := by
  unfold glrAct
  repeat' (first | with_reducible (first | assumption | intro t x ht | intro t ht | apply mem_alive | apply mem_glrIn | apply mem_glzAct | apply mem_glrOut | apply memWf_foldl | apply wf_foldl | apply wf_wrBytes | apply wf_wrByte | apply wf_wrWord | apply wf_wrHalf | apply wf_wrPair | apply wf_zeroRange | apply wf_obPut |  apply wf_setAb | (fail_if_no_progress refine memWf_same rfl rfl ?_)) | split | (rename_i he; have hd := congrArg Prod.snd he; dsimp only at hd; subst hd) | dsimp only | constructor | with_reducible (first | apply MemWf.ib | apply MemWf.ob | apply MemWf.ab | apply MemWf.rx | apply MemWf.sram | apply MemWf.near | apply MemWf.sbuf) | (simp [*]; done))
@[simp] theorem mem_glrRun (i : Iss) (f : GlzF) (x0 : State) (hw : MemWf x0) : MemWf (glrRun i f x0) := by
  unfold glrRun
  repeat' (first | with_reducible (first | assumption | intro t x ht | intro t ht | apply mem_glrAct | apply mem_glzRun | apply memWf_foldl | apply wf_foldl | apply wf_wrBytes | apply wf_wrByte | apply wf_wrWord | apply wf_wrHalf | apply wf_wrPair | apply wf_zeroRange | apply wf_obPut |  apply wf_setAb | (fail_if_no_progress refine memWf_same rfl rfl ?_)) | split | (rename_i he; have hd := congrArg Prod.snd he; dsimp only at hd; subst hd) | dsimp only | constructor | with_reducible (first | apply MemWf.ib | apply MemWf.ob | apply MemWf.ab | apply MemWf.rx | apply MemWf.sram | apply MemWf.near | apply MemWf.sbuf) | (simp [*]; done))
@[simp] theorem mem_gtntAll (i : Iss) (f : GlzF) (s : State) (hw : MemWf s) : MemWf (gtntAll i f s) := by
  unfold gtntAll
  repeat' (first | with_reducible (first | assumption | intro t x ht | intro t ht | apply mem_seqFaultOpen | apply mem_eachPos | apply mem_gtntIn | apply mem_gtntOut | apply memWf_foldl | apply wf_foldl | apply wf_wrBytes | apply wf_wrByte | apply wf_wrWord | apply wf_wrHalf | apply wf_wrPair | apply wf_zeroRange | apply wf_obPut |  apply wf_setAb | (fail_if_no_progress refine memWf_same rfl rfl ?_)) | split | (rename_i he; have hd := congrArg Prod.snd he; dsimp only at hd; subst hd) | dsimp only | constructor | with_reducible (first | apply MemWf.ib | apply MemWf.ob | apply MemWf.ab | apply MemWf.rx | apply MemWf.sram | apply MemWf.near | apply MemWf.sbuf) | (simp [*]; done))
@[simp] theorem mem_gtntAct (i : Iss) (f : GlzF) (s : State) (hw : MemWf s) : MemWf (gtntAct i f s) := by
  unfold gtntAct
  repeat' (first | with_reducible (first | assumption | intro t x ht | intro t ht | apply mem_alive | apply mem_checkVp | apply mem_gtntAll | apply memWf_foldl | apply wf_foldl | apply wf_wrBytes | apply wf_wrByte | apply wf_wrWord | apply wf_wrHalf | apply wf_wrPair | apply wf_zeroRange | apply wf_obPut |  apply wf_setAb | (fail_if_no_progress refine memWf_same rfl rfl ?_)) | split | (rename_i he; have hd := congrArg Prod.snd he; dsimp only at hd; subst hd) | dsimp only | constructor | with_reducible (first | apply MemWf.ib | apply MemWf.ob | apply MemWf.ab | apply MemWf.rx | apply MemWf.sram | apply MemWf.near | apply MemWf.sbuf) | (simp [*]; done))
/-! ### Element -/
@[simp] theorem mem_elWrite (i : Iss) (f : ElF) (vals : List Word) (s : State) (hw : MemWf s) : MemWf (elWrite i f vals s) := by
  unfold elWrite
  repeat' (first | with_reducible (first | assumption | intro t x ht | intro t ht | apply memWf_foldl | apply wf_foldl | apply wf_wrBytes | apply wf_wrByte | apply wf_wrWord | apply wf_wrHalf | apply wf_wrPair | apply wf_zeroRange | apply wf_obPut |  apply wf_setAb | (fail_if_no_progress refine memWf_same rfl rfl ?_)) | split | (rename_i he; have hd := congrArg Prod.snd he; dsimp only at hd; subst hd) | dsimp only | constructor | with_reducible (first | apply MemWf.ib | apply MemWf.ob | apply MemWf.ab | apply MemWf.rx | apply MemWf.sram | apply MemWf.near | apply MemWf.sbuf) | (simp [*]; done))
@[simp] theorem mem_elMap (i : Iss) (f : ElF) (g : Nat → Word → Word) (s : State) (hw : MemWf s) : MemWf (elMap i f g s) := by
  simp [elMap, *]
@[simp] theorem mem_elRun (c : Instr) (i : Iss) (act : State → State) (x0 : State) (h_act : ∀ y0, MemWf y0 → MemWf (act y0)) (hw : MemWf x0) : MemWf (elRun c i act x0) := by
  unfold elRun
  repeat' (first | with_reducible (first | assumption | intro t x ht | intro t ht | apply mem_enqueueOp | apply h_act | apply memWf_foldl | apply wf_foldl | apply wf_wrBytes | apply wf_wrByte | apply wf_wrWord | apply wf_wrHalf | apply wf_wrPair | apply wf_zeroRange | apply wf_obPut |  apply wf_setAb | (fail_if_no_progress refine memWf_same rfl rfl ?_)) | split | (rename_i he; have hd := congrArg Prod.snd he; dsimp only at hd; subst hd) | dsimp only | constructor | with_reducible (first | apply MemWf.ib | apply MemWf.ob | apply MemWf.ab | apply MemWf.rx | apply MemWf.sram | apply MemWf.near | apply MemWf.sbuf) | (simp [*]; done))
@[simp] theorem mem_enormAct (i : Iss) (f : ElF) (sr lix : Nat) (s : State) (hw : MemWf s) : MemWf (enormAct i f sr lix s) := by
  unfold enormAct
  repeat' (first | with_reducible (first | assumption | intro t x ht | intro t ht | apply mem_alive | apply mem_elMap | apply memWf_foldl | apply wf_foldl | apply wf_wrBytes | apply wf_wrByte | apply wf_wrWord | apply wf_wrHalf | apply wf_wrPair | apply wf_zeroRange | apply wf_obPut |  apply wf_setAb | (fail_if_no_progress refine memWf_same rfl rfl ?_)) | split | (rename_i he; have hd := congrArg Prod.snd he; dsimp only at hd; subst hd) | dsimp only | constructor | with_reducible (first | apply MemWf.ib | apply MemWf.ob | apply MemWf.ab | apply MemWf.rx | apply MemWf.sram | apply MemWf.near | apply MemWf.sbuf) | (simp [*]; done))
@[simp] theorem mem_eactAct (i : Iss) (f : ElF) (fn : Nat) (s : State) (hw : MemWf s) : MemWf (eactAct i f fn s) := by
  unfold eactAct
  repeat' (first | with_reducible (first | assumption | intro t x ht | intro t ht | apply mem_alive | apply mem_elMap | apply memWf_foldl | apply wf_foldl | apply wf_wrBytes | apply wf_wrByte | apply wf_wrWord | apply wf_wrHalf | apply wf_wrPair | apply wf_zeroRange | apply wf_obPut |  apply wf_setAb | (fail_if_no_progress refine memWf_same rfl rfl ?_)) | split | (rename_i he; have hd := congrArg Prod.snd he; dsimp only at hd; subst hd) | dsimp only | constructor | with_reducible (first | apply MemWf.ib | apply MemWf.ob | apply MemWf.ab | apply MemWf.rx | apply MemWf.sram | apply MemWf.near | apply MemWf.sbuf) | (simp [*]; done))
@[simp] theorem mem_elZip (i : Iss) (f : ElF) (srcb : Nat) (g : Word → Word → Word) (s : State) (hw : MemWf s) : MemWf (elZip i f srcb g s) := by
  unfold elZip
  repeat' (first | with_reducible (first | assumption | intro t x ht | intro t ht | apply mem_alive | apply mem_elMap | apply memWf_foldl | apply wf_foldl | apply wf_wrBytes | apply wf_wrByte | apply wf_wrWord | apply wf_wrHalf | apply wf_wrPair | apply wf_zeroRange | apply wf_obPut |  apply wf_setAb | (fail_if_no_progress refine memWf_same rfl rfl ?_)) | split | (rename_i he; have hd := congrArg Prod.snd he; dsimp only at hd; subst hd) | dsimp only | constructor | with_reducible (first | apply MemWf.ib | apply MemWf.ob | apply MemWf.ab | apply MemWf.rx | apply MemWf.sram | apply MemWf.near | apply MemWf.sbuf) | (simp [*]; done))
@[simp] theorem mem_emulAct (i : Iss) (f : ElF) (srcb : Nat) (s : State) (hw : MemWf s) : MemWf (emulAct i f srcb s) := by
  simp [emulAct, *]
@[simp] theorem mem_eaddAct (i : Iss) (f : ElF) (srcb : Nat) (s : State) (hw : MemWf s) : MemWf (eaddAct i f srcb s) := by
  simp [eaddAct, *]
@[simp] theorem mem_erotAct (i : Iss) (f : ElF) (fid pair : Nat) (s : State) (hw : MemWf s) : MemWf (erotAct i f fid pair s) := by
  unfold erotAct
  repeat' (first | with_reducible (first | assumption | intro t x ht | intro t ht | apply mem_alive | apply mem_elMap | apply memWf_foldl | apply wf_foldl | apply wf_wrBytes | apply wf_wrByte | apply wf_wrWord | apply wf_wrHalf | apply wf_wrPair | apply wf_zeroRange | apply wf_obPut |  apply wf_setAb | (fail_if_no_progress refine memWf_same rfl rfl ?_)) | split | (rename_i he; have hd := congrArg Prod.snd he; dsimp only at hd; subst hd) | dsimp only | constructor | with_reducible (first | apply MemWf.ib | apply MemWf.ob | apply MemWf.ab | apply MemWf.rx | apply MemWf.sram | apply MemWf.near | apply MemWf.sbuf) | (simp [*]; done))
@[simp] theorem mem_ecvtAll (i : Iss) (f : EcvtF) (s : State) (hw : MemWf s) : MemWf (ecvtAll i f s) := by
  unfold ecvtAll
  repeat' (first | with_reducible (first | assumption | intro t x ht | intro t ht | apply memWf_foldl | apply wf_foldl | apply wf_wrBytes | apply wf_wrByte | apply wf_wrWord | apply wf_wrHalf | apply wf_wrPair | apply wf_zeroRange | apply wf_obPut |  apply wf_setAb | (fail_if_no_progress refine memWf_same rfl rfl ?_)) | split | (rename_i he; have hd := congrArg Prod.snd he; dsimp only at hd; subst hd) | dsimp only | constructor | with_reducible (first | apply MemWf.ib | apply MemWf.ob | apply MemWf.ab | apply MemWf.rx | apply MemWf.sram | apply MemWf.near | apply MemWf.sbuf) | (simp [*]; done))
@[simp] theorem mem_ecvtAct (i : Iss) (f : EcvtF) (s : State) (hw : MemWf s) : MemWf (ecvtAct i f s) := by
  unfold ecvtAct
  repeat' (first | with_reducible (first | assumption | intro t x ht | intro t ht | apply mem_alive | apply mem_ecvtAll | apply memWf_foldl | apply wf_foldl | apply wf_wrBytes | apply wf_wrByte | apply wf_wrWord | apply wf_wrHalf | apply wf_wrPair | apply wf_zeroRange | apply wf_obPut |  apply wf_setAb | (fail_if_no_progress refine memWf_same rfl rfl ?_)) | split | (rename_i he; have hd := congrArg Prod.snd he; dsimp only at hd; subst hd) | dsimp only | constructor | with_reducible (first | apply MemWf.ib | apply MemWf.ob | apply MemWf.ab | apply MemWf.rx | apply MemWf.sram | apply MemWf.near | apply MemWf.sbuf) | (simp [*]; done))

end Sys2Proof.Machine
end

