-- ==== Sys2Proof/Laws/MemMove.lean ====
section
/-! SUPPORT. The canonical form of the memories under the moves, tokens, replay and attention operations. -/

namespace Sys2Proof.Machine

/-! ### Move -/
@[simp] theorem mem_setSpaceMem (space : Nat) (m : Mem) (s : State) (hm : Memory.wf m = true) (hw : MemWf s) : MemWf (setSpaceMem space m s) := by
  unfold setSpaceMem
  obtain ⟨a, b, c, d, e, f, g⟩ := hw
  split
  · exact ⟨a, hm, c, d, e, f, g⟩
  · split
    · exact ⟨a, b, hm, d, e, f, g⟩
    · split
      · exact ⟨a, b, c, d, hm, f, g⟩
      · split
        · exact ⟨hm, b, c, d, e, f, g⟩
        · exact ⟨a, b, c, hm, e, f, g⟩
@[simp] theorem wf_spaceMem (s : State) (space : Nat) (hw : MemWf s) : Memory.wf (spaceMem s space) = true := by
  unfold spaceMem
  repeat' (first | split | simp [hw])
@[simp] theorem mem_setProv (core a : Nat) (ps : List (Nat × Nat × Nat × Nat)) (s : State) (hw : MemWf s) : MemWf (setProv core a ps s) := by
  simp [setProv, *]
@[simp] theorem mem_mvbAll (i : Iss) (ssp dsp saddr daddr len ty : Nat) (s : State) (hw : MemWf s) : MemWf (mvbAll i ssp dsp saddr daddr len ty s) := by
  unfold mvbAll
  repeat' (first | with_reducible (first | assumption | intro t x ht | intro t ht | apply mem_setSpaceMem | apply mem_setProv | apply memWf_foldl | apply wf_foldl | apply wf_wrBytes | apply wf_wrByte | apply wf_wrWord | apply wf_wrHalf | apply wf_wrPair | apply wf_zeroRange | apply wf_obPut | apply wf_spaceMem | apply wf_setAb | (fail_if_no_progress refine memWf_same rfl rfl ?_)) | split | (rename_i he; have hd := congrArg Prod.snd he; dsimp only at hd; subst hd) | dsimp only | constructor | with_reducible (first | apply MemWf.ib | apply MemWf.ob | apply MemWf.ab | apply MemWf.rx | apply MemWf.sram | apply MemWf.near | apply MemWf.sbuf) | (simp [*]; done))
@[simp] theorem mem_mvbAct (i : Iss) (ssp dsp saddr daddr len ty : Nat) (s : State) (hw : MemWf s) : MemWf (mvbAct i ssp dsp saddr daddr len ty s) := by
  unfold mvbAct
  repeat' (first | with_reducible (first | assumption | intro t x ht | intro t ht | apply mem_alive | apply mem_mvbAll | apply memWf_foldl | apply wf_foldl | apply wf_wrBytes | apply wf_wrByte | apply wf_wrWord | apply wf_wrHalf | apply wf_wrPair | apply wf_zeroRange | apply wf_obPut |  apply wf_setAb | (fail_if_no_progress refine memWf_same rfl rfl ?_)) | split | (rename_i he; have hd := congrArg Prod.snd he; dsimp only at hd; subst hd) | dsimp only | constructor | with_reducible (first | apply MemWf.ib | apply MemWf.ob | apply MemWf.ab | apply MemWf.rx | apply MemWf.sram | apply MemWf.near | apply MemWf.sbuf) | (simp [*]; done))
@[simp] theorem mem_sendXfer (sid dst space addr cred : Nat) (kill : Bool) (layer : Nat) (bytes : List Byte) (prov : List (Nat × Nat × Nat × Nat)) (s : State) (hw : MemWf s) : MemWf (sendXfer sid dst space addr cred kill layer bytes prov s) := by
  simp [sendXfer, *]
@[simp] theorem mem_mvfAct (i : Iss) (ssp saddr route len ty : Nat) (s : State) (hw : MemWf s) : MemWf (mvfAct i ssp saddr route len ty s) := by
  unfold mvfAct; split <;> simp [*]
@[simp] theorem mem_mvkAll (i : Iss) (ssp saddr layer kind vp : Nat) (s : State) (hw : MemWf s) : MemWf (mvkAll i ssp saddr layer kind vp s) := by
  unfold mvkAll
  repeat' (first | with_reducible (first | assumption | intro t x ht | intro t ht | apply mem_draw | apply mem_sendXfer | apply memWf_foldl | apply wf_foldl | apply wf_wrBytes | apply wf_wrByte | apply wf_wrWord | apply wf_wrHalf | apply wf_wrPair | apply wf_zeroRange | apply wf_obPut | apply wf_spaceMem | apply wf_setAb | (fail_if_no_progress refine memWf_same rfl rfl ?_)) | split | (rename_i he; have hd := congrArg Prod.snd he; dsimp only at hd; subst hd) | dsimp only | constructor | with_reducible (first | apply MemWf.ib | apply MemWf.ob | apply MemWf.ab | apply MemWf.rx | apply MemWf.sram | apply MemWf.near | apply MemWf.sbuf) | (simp [*]; done))
@[simp] theorem mem_mvkAct (i : Iss) (ssp saddr layer kind vp : Nat) (s : State) (hw : MemWf s) : MemWf (mvkAct i ssp saddr layer kind vp s) := by
  unfold mvkAct
  repeat' (first | with_reducible (first | assumption | intro t x ht | intro t ht | apply mem_alive | apply mem_checkVp | apply mem_mvkAll | apply memWf_foldl | apply wf_foldl | apply wf_wrBytes | apply wf_wrByte | apply wf_wrWord | apply wf_wrHalf | apply wf_wrPair | apply wf_zeroRange | apply wf_obPut |  apply wf_setAb | (fail_if_no_progress refine memWf_same rfl rfl ?_)) | split | (rename_i he; have hd := congrArg Prod.snd he; dsimp only at hd; subst hd) | dsimp only | constructor | with_reducible (first | apply MemWf.ib | apply MemWf.ob | apply MemWf.ab | apply MemWf.rx | apply MemWf.sram | apply MemWf.near | apply MemWf.sbuf) | (simp [*]; done))
@[simp] theorem mem_mckAll (i : Iss) (ssp saddr len lix : Nat) (s : State) (hw : MemWf s) : MemWf (mckAll i ssp saddr len lix s) := by
  simp [mckAll, *]
@[simp] theorem mem_mckAct (i : Iss) (ssp saddr len lix : Nat) (s : State) (hw : MemWf s) : MemWf (mckAct i ssp saddr len lix s) := by
  unfold mckAct
  repeat' (first | with_reducible (first | assumption | intro t x ht | intro t ht | apply mem_alive | apply mem_mckAll | apply memWf_foldl | apply wf_foldl | apply wf_wrBytes | apply wf_wrByte | apply wf_wrWord | apply wf_wrHalf | apply wf_wrPair | apply wf_zeroRange | apply wf_obPut |  apply wf_setAb | (fail_if_no_progress refine memWf_same rfl rfl ?_)) | split | (rename_i he; have hd := congrArg Prod.snd he; dsimp only at hd; subst hd) | dsimp only | constructor | with_reducible (first | apply MemWf.ib | apply MemWf.ob | apply MemWf.ab | apply MemWf.rx | apply MemWf.sram | apply MemWf.near | apply MemWf.sbuf) | (simp [*]; done))
@[simp] theorem mem_addCredit (sid ch n : Nat) (s : State) (hw : MemWf s) : MemWf (addCredit sid ch n s) := by
  simp [addCredit, *]
@[simp] theorem mem_tryWait (sid : Nat) (s : State) (hw : MemWf s) : MemWf (tryWait sid s) := by
  unfold tryWait
  repeat' (first | with_reducible (first | assumption | intro t x ht | intro t ht | apply mem_modSeq | apply memWf_foldl | apply wf_foldl | apply wf_wrBytes | apply wf_wrByte | apply wf_wrWord | apply wf_wrHalf | apply wf_wrPair | apply wf_zeroRange | apply wf_obPut |  apply wf_setAb | (fail_if_no_progress refine memWf_same rfl rfl ?_)) | split | (rename_i he; have hd := congrArg Prod.snd he; dsimp only at hd; subst hd) | dsimp only | constructor | with_reducible (first | apply MemWf.ib | apply MemWf.ob | apply MemWf.ab | apply MemWf.rx | apply MemWf.sram | apply MemWf.near | apply MemWf.sbuf) | (simp [*]; done))
@[simp] theorem mem_landXfer (x : Xfer) (s : State) (hw : MemWf s) : MemWf (landXfer x s) := by
  unfold landXfer
  repeat' (first | with_reducible (first | assumption | intro t x ht | intro t ht | apply mem_setSpaceMem | apply mem_setProv | apply mem_tryWait | apply mem_addCredit | apply memWf_foldl | apply wf_foldl | apply wf_wrBytes | apply wf_wrByte | apply wf_wrWord | apply wf_wrHalf | apply wf_wrPair | apply wf_zeroRange | apply wf_obPut | apply wf_spaceMem | apply wf_setAb | (fail_if_no_progress refine memWf_same rfl rfl ?_)) | split | (rename_i he; have hd := congrArg Prod.snd he; dsimp only at hd; subst hd) | dsimp only | constructor | with_reducible (first | apply MemWf.ib | apply MemWf.ob | apply MemWf.ab | apply MemWf.rx | apply MemWf.sram | apply MemWf.near | apply MemWf.sbuf) | (simp [*]; done))
@[simp] theorem mem_deliver (x0 : Xfer) (s : State) (hw : MemWf s) : MemWf (deliver x0 s) := by
  unfold deliver
  repeat' (first | with_reducible (first | assumption | intro t x ht | intro t ht | apply mem_landXfer | apply memWf_foldl | apply wf_foldl | apply wf_wrBytes | apply wf_wrByte | apply wf_wrWord | apply wf_wrHalf | apply wf_wrPair | apply wf_zeroRange | apply wf_obPut |  apply wf_setAb | (fail_if_no_progress refine memWf_same rfl rfl ?_)) | split | (rename_i he; have hd := congrArg Prod.snd he; dsimp only at hd; subst hd) | dsimp only | constructor | with_reducible (first | apply MemWf.ib | apply MemWf.ob | apply MemWf.ab | apply MemWf.rx | apply MemWf.sram | apply MemWf.near | apply MemWf.sbuf) | (simp [*]; done))
/-! ### Sync -/
@[simp] theorem mem_killLane (lane : Nat) (s : State) (hw : MemWf s) : MemWf (killLane lane s) := by
  unfold killLane
  repeat' (first | (simp [*]; done) | split)
@[simp] theorem mem_twaitOp (sid ch count : Nat) (s : State) (hw : MemWf s) : MemWf (twaitOp sid ch count s) := by
  simp [twaitOp, *]
@[simp] theorem mem_twaitAct (i : Iss) (tch count : Nat) (x0 : State) (hw : MemWf x0) : MemWf (twaitAct i tch count x0) := by
  unfold twaitAct; split <;> simp [*]
@[simp] theorem mem_tsendOp (sid tch : Nat) (s : State) (hw : MemWf s) : MemWf (tsendOp sid tch s) := by
  unfold tsendOp
  repeat' (first | with_reducible (first | assumption | intro t x ht | intro t ht | apply mem_sendToken | apply memWf_foldl | apply wf_foldl | apply wf_wrBytes | apply wf_wrByte | apply wf_wrWord | apply wf_wrHalf | apply wf_wrPair | apply wf_zeroRange | apply wf_obPut |  apply wf_setAb | (fail_if_no_progress refine memWf_same rfl rfl ?_)) | split | (rename_i he; have hd := congrArg Prod.snd he; dsimp only at hd; subst hd) | dsimp only | constructor | with_reducible (first | apply MemWf.ib | apply MemWf.ob | apply MemWf.ab | apply MemWf.rx | apply MemWf.sram | apply MemWf.near | apply MemWf.sbuf) | (simp [*]; done))
@[simp] theorem mem_credOp (sid cch op n : Nat) (s : State) (hw : MemWf s) : MemWf (credOp sid cch op n s) := by
  unfold credOp
  repeat' (first | with_reducible (first | assumption | intro t x ht | intro t ht | apply mem_tryWait | apply mem_modSeq | apply mem_sendToken | apply memWf_foldl | apply wf_foldl | apply wf_wrBytes | apply wf_wrByte | apply wf_wrWord | apply wf_wrHalf | apply wf_wrPair | apply wf_zeroRange | apply wf_obPut |  apply wf_setAb | (fail_if_no_progress refine memWf_same rfl rfl ?_)) | split | (rename_i he; have hd := congrArg Prod.snd he; dsimp only at hd; subst hd) | dsimp only | constructor | with_reducible (first | apply MemWf.ib | apply MemWf.ob | apply MemWf.ab | apply MemWf.rx | apply MemWf.sram | apply MemWf.near | apply MemWf.sbuf) | (simp [*]; done))
@[simp] theorem mem_setVar (key seg : Nat) (r : Word) (s : State) (hw : MemWf s) : MemWf (setVar key seg r s) := by
  simp [setVar, *]
@[simp] theorem mem_d16Failed (sid eid seg key : Nat) (e : Envelope) (fin : Bool) (lane : Option Lane) (s : State) (hw : MemWf s) : MemWf (d16Failed sid eid seg key e fin lane s) := by
  unfold d16Failed
  repeat' (first | with_reducible (first | assumption | intro t x ht | intro t ht | apply mem_fireArg | apply mem_raise | apply mem_modEntry | apply mem_killLane | apply memWf_foldl | apply wf_foldl | apply wf_wrBytes | apply wf_wrByte | apply wf_wrWord | apply wf_wrHalf | apply wf_wrPair | apply wf_zeroRange | apply wf_obPut |  apply wf_setAb | (fail_if_no_progress refine memWf_same rfl rfl ?_)) | split | (rename_i he; have hd := congrArg Prod.snd he; dsimp only at hd; subst hd) | dsimp only | constructor | with_reducible (first | apply MemWf.ib | apply MemWf.ob | apply MemWf.ab | apply MemWf.rx | apply MemWf.sram | apply MemWf.near | apply MemWf.sbuf) | (simp [*]; done))
@[simp] theorem mem_chkAll (i : Iss) (tile vp eid : Nat) (s : State) (hw : MemWf s) : MemWf (chkAll i tile vp eid s) := by
  unfold chkAll
  repeat' (first | with_reducible (first | assumption | intro t x ht | intro t ht | apply mem_setVar | apply mem_openSeg | apply mem_d16Failed | apply mem_modSeq | apply memWf_foldl | apply wf_foldl | apply wf_wrBytes | apply wf_wrByte | apply wf_wrWord | apply wf_wrHalf | apply wf_wrPair | apply wf_zeroRange | apply wf_obPut |  apply wf_setAb | (fail_if_no_progress refine memWf_same rfl rfl ?_)) | split | (rename_i he; have hd := congrArg Prod.snd he; dsimp only at hd; subst hd) | dsimp only | constructor | with_reducible (first | apply MemWf.ib | apply MemWf.ob | apply MemWf.ab | apply MemWf.rx | apply MemWf.sram | apply MemWf.near | apply MemWf.sbuf) | (simp [*]; done))
@[simp] theorem mem_chkAct (i : Iss) (tile vp eid : Nat) (s : State) (hw : MemWf s) : MemWf (chkAct i tile vp eid s) := by
  unfold chkAct
  repeat' (first | with_reducible (first | assumption | intro t x ht | intro t ht | apply mem_alive | apply mem_checkVp | apply mem_chkAll | apply memWf_foldl | apply wf_foldl | apply wf_wrBytes | apply wf_wrByte | apply wf_wrWord | apply wf_wrHalf | apply wf_wrPair | apply wf_zeroRange | apply wf_obPut |  apply wf_setAb | (fail_if_no_progress refine memWf_same rfl rfl ?_)) | split | (rename_i he; have hd := congrArg Prod.snd he; dsimp only at hd; subst hd) | dsimp only | constructor | with_reducible (first | apply MemWf.ib | apply MemWf.ob | apply MemWf.ab | apply MemWf.rx | apply MemWf.sram | apply MemWf.near | apply MemWf.sbuf) | (simp [*]; done))
@[simp] theorem mem_csumEng (i : Iss) (fx ntr : Nat) (s : State) (e : Nat) (hw : MemWf s) : MemWf (csumEng i fx ntr s e) := by
  unfold csumEng
  repeat' (first | with_reducible (first | assumption | intro t x ht | intro t ht | apply mem_modSeq | apply memWf_foldl | apply wf_foldl | apply wf_wrBytes | apply wf_wrByte | apply wf_wrWord | apply wf_wrHalf | apply wf_wrPair | apply wf_zeroRange | apply wf_obPut |  apply wf_setAb | (fail_if_no_progress refine memWf_same rfl rfl ?_)) | split | (rename_i he; have hd := congrArg Prod.snd he; dsimp only at hd; subst hd) | dsimp only | constructor | with_reducible (first | apply MemWf.ib | apply MemWf.ob | apply MemWf.ab | apply MemWf.rx | apply MemWf.sram | apply MemWf.near | apply MemWf.sbuf) | (simp [*]; done))
@[simp] theorem mem_csumAct (i : Iss) (emask ntr fx : Nat) (s : State) (hw : MemWf s) : MemWf (csumAct i emask ntr fx s) := by
  unfold csumAct
  repeat' (first | with_reducible (first | assumption | intro t x ht | intro t ht | apply mem_alive | apply mem_csumEng | apply memWf_foldl | apply wf_foldl | apply wf_wrBytes | apply wf_wrByte | apply wf_wrWord | apply wf_wrHalf | apply wf_wrPair | apply wf_zeroRange | apply wf_obPut |  apply wf_setAb | (fail_if_no_progress refine memWf_same rfl rfl ?_)) | split | (rename_i he; have hd := congrArg Prod.snd he; dsimp only at hd; subst hd) | dsimp only | constructor | with_reducible (first | apply MemWf.ib | apply MemWf.ob | apply MemWf.ab | apply MemWf.rx | apply MemWf.sram | apply MemWf.near | apply MemWf.sbuf) | (simp [*]; done))
@[simp] theorem mem_csumRun (i : Iss) (emask ntr : Nat) (s : State) (hw : MemWf s) : MemWf (csumRun i emask ntr s) := by
  unfold csumRun
  repeat' (first | with_reducible (first | assumption | intro t x ht | intro t ht | apply mem_enqueueOp | apply mem_csumAct | apply mem_alive | apply mem_openSeg | apply memWf_foldl | apply wf_foldl | apply wf_wrBytes | apply wf_wrByte | apply wf_wrWord | apply wf_wrHalf | apply wf_wrPair | apply wf_zeroRange | apply wf_obPut |  apply wf_setAb | (fail_if_no_progress refine memWf_same rfl rfl ?_)) | split | (rename_i he; have hd := congrArg Prod.snd he; dsimp only at hd; subst hd) | dsimp only | constructor | with_reducible (first | apply MemWf.ib | apply MemWf.ob | apply MemWf.ab | apply MemWf.rx | apply MemWf.sram | apply MemWf.near | apply MemWf.sbuf) | (simp [*]; done))
@[simp] theorem mem_closeSeg (i : Iss) (s : State) (hw : MemWf s) : MemWf (closeSeg i s) := by
  simp [closeSeg, *]
@[simp] theorem mem_stepOp (i : Iss) (s : State) (hw : MemWf s) : MemWf (stepOp i s) := by
  unfold stepOp
  repeat' (first | with_reducible (first | assumption | intro t x ht | intro t ht | apply mem_closeSeg | apply mem_sendToken | apply mem_modSeq | apply memWf_foldl | apply wf_foldl | apply wf_wrBytes | apply wf_wrByte | apply wf_wrWord | apply wf_wrHalf | apply wf_wrPair | apply wf_zeroRange | apply wf_obPut |  apply wf_setAb | (fail_if_no_progress refine memWf_same rfl rfl ?_)) | split | (rename_i he; have hd := congrArg Prod.snd he; dsimp only at hd; subst hd) | dsimp only | constructor | with_reducible (first | apply MemWf.ib | apply MemWf.ob | apply MemWf.ab | apply MemWf.rx | apply MemWf.sram | apply MemWf.near | apply MemWf.sbuf) | (simp [*]; done))
@[simp] theorem mem_rplwAct (i : Iss) (close : Nat) (s : State) (hw : MemWf s) : MemWf (rplwAct i close s) := by
  simp [rplwAct, *]
/-! ### Replay -/
@[simp] theorem mem_countD16 (canvas n : Nat) (s : State) (hw : MemWf s) : MemWf (countD16 canvas n s) := by
  simp [countD16, *]
@[simp] theorem mem_finishInPlace (sid : Nat) (rs : List Replay) (s : State) (hw : MemWf s) : MemWf (finishInPlace sid rs s) := by
  unfold finishInPlace
  repeat' (first | with_reducible (first | assumption | intro t x ht | intro t ht | apply mem_recordFault | apply mem_countD16 | apply mem_modSeq | apply mem_fire | apply memWf_foldl | apply wf_foldl | apply wf_wrBytes | apply wf_wrByte | apply wf_wrWord | apply wf_wrHalf | apply wf_wrPair | apply wf_zeroRange | apply wf_obPut |  apply wf_setAb | (fail_if_no_progress refine memWf_same rfl rfl ?_)) | split | (rename_i he; have hd := congrArg Prod.snd he; dsimp only at hd; subst hd) | dsimp only | constructor | with_reducible (first | apply MemWf.ib | apply MemWf.ob | apply MemWf.ab | apply MemWf.rx | apply MemWf.sram | apply MemWf.near | apply MemWf.sbuf) | (simp [*]; done))
@[simp] theorem mem_classReplay (x : StrokeFlags) (s : State) (hw : MemWf s) : MemWf (classReplay x s) := by
  unfold classReplay
  repeat' (first | with_reducible (first | assumption | intro t x ht | intro t ht | apply mem_recordFault | apply memWf_foldl | apply wf_foldl | apply wf_wrBytes | apply wf_wrByte | apply wf_wrWord | apply wf_wrHalf | apply wf_wrPair | apply wf_zeroRange | apply wf_obPut |  apply wf_setAb | (fail_if_no_progress refine memWf_same rfl rfl ?_)) | split | (rename_i he; have hd := congrArg Prod.snd he; dsimp only at hd; subst hd) | dsimp only | constructor | with_reducible (first | apply MemWf.ib | apply MemWf.ob | apply MemWf.ab | apply MemWf.rx | apply MemWf.sram | apply MemWf.near | apply MemWf.sbuf) | (simp [*]; done))
@[simp] theorem mem_failReplays (sid : Nat) (again : List StrokeFlags) (s : State) (hw : MemWf s) : MemWf (failReplays sid again s) := by
  unfold failReplays
  repeat' (first | with_reducible (first | assumption | intro t x ht | intro t ht | apply mem_modSeq | apply mem_countD16 | apply memWf_foldl | apply wf_foldl | apply wf_wrBytes | apply wf_wrByte | apply wf_wrWord | apply wf_wrHalf | apply wf_wrPair | apply wf_zeroRange | apply wf_obPut |  apply wf_setAb | (fail_if_no_progress refine memWf_same rfl rfl ?_)) | split | (rename_i he; have hd := congrArg Prod.snd he; dsimp only at hd; subst hd) | dsimp only | constructor | with_reducible (first | apply MemWf.ib | apply MemWf.ob | apply MemWf.ab | apply MemWf.rx | apply MemWf.sram | apply MemWf.near | apply MemWf.sbuf) | (simp [*]; done))
@[simp] theorem mem_buildEntries (sid seg : Nat) (xs : List StrokeFlags) (s : State) (hw : MemWf s) : MemWf (buildEntries sid seg xs s) := by
  unfold buildEntries
  repeat' (first | with_reducible (first | assumption | intro t x ht | intro t ht | apply mem_failReplays | apply mem_classReplay | apply mem_finishInPlace | apply mem_modSeq | apply mem_fire | apply mem_modCur | apply memWf_foldl | apply wf_foldl | apply wf_wrBytes | apply wf_wrByte | apply wf_wrWord | apply wf_wrHalf | apply wf_wrPair | apply wf_zeroRange | apply wf_obPut |  apply wf_setAb | (fail_if_no_progress refine memWf_same rfl rfl ?_)) | split | (rename_i he; have hd := congrArg Prod.snd he; dsimp only at hd; subst hd) | dsimp only | constructor | with_reducible (first | apply MemWf.ib | apply MemWf.ob | apply MemWf.ab | apply MemWf.rx | apply MemWf.sram | apply MemWf.near | apply MemWf.sbuf) | (simp [*]; done))
@[simp] theorem mem_sendRetract (sid seg flags : Nat) (s : State) (hw : MemWf s) : MemWf (sendRetract sid seg flags s) := by
  unfold sendRetract
  repeat' (first | with_reducible (first | assumption | intro t x ht | intro t ht | apply mem_sendToken | apply memWf_foldl | apply wf_foldl | apply wf_wrBytes | apply wf_wrByte | apply wf_wrWord | apply wf_wrHalf | apply wf_wrPair | apply wf_zeroRange | apply wf_obPut |  apply wf_setAb | (fail_if_no_progress refine memWf_same rfl rfl ?_)) | split | (rename_i he; have hd := congrArg Prod.snd he; dsimp only at hd; subst hd) | dsimp only | constructor | with_reducible (first | apply MemWf.ib | apply MemWf.ob | apply MemWf.ab | apply MemWf.rx | apply MemWf.sram | apply MemWf.near | apply MemWf.sbuf) | (simp [*]; done))
@[simp] theorem mem_reportEnv (sid : Nat) (tiles : List (Nat × Nat)) (s : State) (hw : MemWf s) : MemWf (reportEnv sid tiles s) := by
  simp [reportEnv, *]
@[simp] theorem mem_closeFlags (sid flagIx : Nat) (s : State) (hw : MemWf s) : MemWf (closeFlags sid flagIx s) := by
  unfold closeFlags
  repeat' (first | with_reducible (first | assumption | intro t x ht | intro t ht | apply mem_modSeq | apply mem_sendToken | apply mem_buildEntries | apply mem_sendRetract | apply mem_reportEnv | apply memWf_foldl | apply wf_foldl | apply wf_wrBytes | apply wf_wrByte | apply wf_wrWord | apply wf_wrHalf | apply wf_wrPair | apply wf_zeroRange | apply wf_obPut |  apply wf_setAb | (fail_if_no_progress refine memWf_same rfl rfl ?_)) | split | (rename_i he; have hd := congrArg Prod.snd he; dsimp only at hd; subst hd) | dsimp only | constructor | with_reducible (first | apply MemWf.ib | apply MemWf.ob | apply MemWf.ab | apply MemWf.rx | apply MemWf.sram | apply MemWf.near | apply MemWf.sbuf) | (simp [*]; done))
@[simp] theorem mem_reloadTile (r : Replay) (t : Tile) (tin : TileIn) (s : State) (hw : MemWf s) : MemWf (reloadTile r t tin s) := by
  simp [reloadTile, *]
@[simp] theorem mem_runEntry (i : Iss) (r : Replay) (s : State) (hw : MemWf s) : MemWf (runEntry i r s) := by
  unfold runEntry
  repeat' (first | with_reducible (first | assumption | intro t x ht | intro t ht | apply mem_reloadTile | apply mem_enqueueStroke | apply mem_openSeg | apply mem_glrStroke | apply memWf_foldl | apply wf_foldl | apply wf_wrBytes | apply wf_wrByte | apply wf_wrWord | apply wf_wrHalf | apply wf_wrPair | apply wf_zeroRange | apply wf_obPut |  apply wf_setAb | (fail_if_no_progress refine memWf_same rfl rfl ?_)) | split | (rename_i he; have hd := congrArg Prod.snd he; dsimp only at hd; subst hd) | dsimp only | constructor | with_reducible (first | apply MemWf.ib | apply MemWf.ob | apply MemWf.ab | apply MemWf.rx | apply MemWf.sram | apply MemWf.near | apply MemWf.sbuf) | (simp [*]; done))
@[simp] theorem mem_replaySlotAct (i : Iss) (s : State) (hw : MemWf s) : MemWf (replaySlotAct i s) := by
  unfold replaySlotAct
  repeat' (first | (simp [*]; done) | split)
/-! ### Head -/
@[simp] theorem mem_setVerdict (v : Verdict) (s : State) (hw : MemWf s) : MemWf (setVerdict v s) := by
  simp [setVerdict, *]
@[simp] theorem mem_sampAll (laddr pos : Nat) (l : Lane) (s : State) (hw : MemWf s) : MemWf (sampAll laddr pos l s) := by
  simp [sampAll, *]
@[simp] theorem mem_sampAct (i : Iss) (laddr pos : Nat) (s : State) (hw : MemWf s) : MemWf (sampAct i laddr pos s) := by
  unfold sampAct
  repeat' (first | with_reducible (first | assumption | intro t x ht | intro t ht | apply mem_laneOp | apply mem_sampAll | apply memWf_foldl | apply wf_foldl | apply wf_wrBytes | apply wf_wrByte | apply wf_wrWord | apply wf_wrHalf | apply wf_wrPair | apply wf_zeroRange | apply wf_obPut |  apply wf_setAb | (fail_if_no_progress refine memWf_same rfl rfl ?_)) | split | (rename_i he; have hd := congrArg Prod.snd he; dsimp only at hd; subst hd) | dsimp only | constructor | with_reducible (first | apply MemWf.ib | apply MemWf.ob | apply MemWf.ab | apply MemWf.rx | apply MemWf.sram | apply MemWf.near | apply MemWf.sbuf) | (simp [*]; done))
@[simp] theorem mem_vrfyAll (i : Iss) (laddr daddr : Nat) (l : Lane) (s : State) (hw : MemWf s) : MemWf (vrfyAll i laddr daddr l s) := by
  unfold vrfyAll
  repeat' (first | with_reducible (first | assumption | intro t x ht | intro t ht | apply mem_checkWidth | apply mem_setVerdict | apply memWf_foldl | apply wf_foldl | apply wf_wrBytes | apply wf_wrByte | apply wf_wrWord | apply wf_wrHalf | apply wf_wrPair | apply wf_zeroRange | apply wf_obPut |  apply wf_setAb | (fail_if_no_progress refine memWf_same rfl rfl ?_)) | split | (rename_i he; have hd := congrArg Prod.snd he; dsimp only at hd; subst hd) | dsimp only | constructor | with_reducible (first | apply MemWf.ib | apply MemWf.ob | apply MemWf.ab | apply MemWf.rx | apply MemWf.sram | apply MemWf.near | apply MemWf.sbuf) | (simp [*]; done))
@[simp] theorem mem_vrfyAct (i : Iss) (laddr daddr tree : Nat) (s : State) (hw : MemWf s) : MemWf (vrfyAct i laddr daddr tree s) := by
  unfold vrfyAct
  repeat' (first | with_reducible (first | assumption | intro t x ht | intro t ht | apply mem_laneOp | apply mem_vrfyAll | apply memWf_foldl | apply wf_foldl | apply wf_wrBytes | apply wf_wrByte | apply wf_wrWord | apply wf_wrHalf | apply wf_wrPair | apply wf_zeroRange | apply wf_obPut |  apply wf_setAb | (fail_if_no_progress refine memWf_same rfl rfl ?_)) | split | (rename_i he; have hd := congrArg Prod.snd he; dsimp only at hd; subst hd) | dsimp only | constructor | with_reducible (first | apply MemWf.ib | apply MemWf.ob | apply MemWf.ab | apply MemWf.rx | apply MemWf.sram | apply MemWf.near | apply MemWf.sbuf) | (simp [*]; done))
@[simp] theorem mem_skdrAll (i : Iss) (nprop tree daddr : Nat) (cands : List (List (Nat × Word))) (l : Lane) (s : State) (hw : MemWf s) : MemWf (skdrAll i nprop tree daddr cands l s) := by
  unfold skdrAll; split <;> simp [*]
@[simp] theorem mem_skdrAct (i : Iss) (nprop tree daddr : Nat) (cands : List (List (Nat × Word))) (s : State) (hw : MemWf s) : MemWf (skdrAct i nprop tree daddr cands s) := by
  unfold skdrAct
  repeat' (first | with_reducible (first | assumption | intro t x ht | intro t ht | apply mem_laneOp | apply mem_skdrAll | apply memWf_foldl | apply wf_foldl | apply wf_wrBytes | apply wf_wrByte | apply wf_wrWord | apply wf_wrHalf | apply wf_wrPair | apply wf_zeroRange | apply wf_obPut |  apply wf_setAb | (fail_if_no_progress refine memWf_same rfl rfl ?_)) | split | (rename_i he; have hd := congrArg Prod.snd he; dsimp only at hd; subst hd) | dsimp only | constructor | with_reducible (first | apply MemWf.ib | apply MemWf.ob | apply MemWf.ab | apply MemWf.rx | apply MemWf.sram | apply MemWf.near | apply MemWf.sbuf) | (simp [*]; done))
/-! ### Kv -/
@[simp] theorem mem_touchWalk (cl root layer j : Nat) (s : State) (hw : MemWf s) : MemWf (touchWalk cl root layer j s) := by
  simp [touchWalk, *]
@[simp] theorem mem_nearAll (frame off : Nat) (bs : List Byte) (s : State) (hw : MemWf s) : MemWf (nearAll frame off bs s) := by
  unfold nearAll
  repeat' (first | with_reducible (first | assumption | intro t x ht | intro t ht | apply memWf_foldl | apply wf_foldl | apply wf_wrBytes | apply wf_wrByte | apply wf_wrWord | apply wf_wrHalf | apply wf_wrPair | apply wf_zeroRange | apply wf_obPut |  apply wf_setAb | (fail_if_no_progress refine memWf_same rfl rfl ?_)) | split | (rename_i he; have hd := congrArg Prod.snd he; dsimp only at hd; subst hd) | dsimp only | constructor | with_reducible (first | apply MemWf.ib | apply MemWf.ob | apply MemWf.ab | apply MemWf.rx | apply MemWf.sram | apply MemWf.near | apply MemWf.sbuf) | (simp [*]; done))
@[simp] theorem mem_setFill (p : Leaf) (v : Nat) (s : State) (hw : MemWf s) : MemWf (setFill p v s) := by
  simp [setFill, *]
@[simp] theorem mem_markPoison (ptn root layer j : Nat) (s : State) (hw : MemWf s) : MemWf (markPoison ptn root layer j s) := by
  unfold markPoison
  repeat' (first | with_reducible (first | assumption | intro t x ht | intro t ht | apply memWf_foldl | apply wf_foldl | apply wf_wrBytes | apply wf_wrByte | apply wf_wrWord | apply wf_wrHalf | apply wf_wrPair | apply wf_zeroRange | apply wf_obPut |  apply wf_setAb | (fail_if_no_progress refine memWf_same rfl rfl ?_)) | split | (rename_i he; have hd := congrArg Prod.snd he; dsimp only at hd; subst hd) | dsimp only | constructor | with_reducible (first | apply MemWf.ib | apply MemWf.ob | apply MemWf.ab | apply MemWf.rx | apply MemWf.sram | apply MemWf.near | apply MemWf.sbuf) | (simp [*]; done))
@[simp] theorem mem_copySlot (n : Nat) (src dst : Leaf) (ts td : Nat) (s : State) (hw : MemWf s) : MemWf (copySlot n src dst ts td s) := by
  have hn : Memory.wf (copySlot n src dst ts td s).kv.near = true := by
    unfold copySlot
    refine wf_foldl _ (fun m u hm => wf_foldl _ (fun m k hm => ?_) _ _ hm) _ _ hw.near
    dsimp only
    split
    · exact wf_wrBytes _ _ _ (wf_wrBytes _ _ _ hm)
    · exact wf_wrBytes _ _ _ hm
  exact ⟨hw.ib, hw.ob, hw.ab, hw.rx, hw.sram, hn, hw.sbuf⟩
@[simp] theorem mem_moveNode (l : Lane) (layer node d : Nat) (s : State) (hw : MemWf s) : MemWf (moveNode l layer node d s) := by
  unfold moveNode
  repeat' (first | with_reducible (first | assumption | intro t x ht | intro t ht | apply mem_copySlot | apply memWf_foldl | apply wf_foldl | apply wf_wrBytes | apply wf_wrByte | apply wf_wrWord | apply wf_wrHalf | apply wf_wrPair | apply wf_zeroRange | apply wf_obPut |  apply wf_setAb | (fail_if_no_progress refine memWf_same rfl rfl ?_)) | split | (rename_i he; have hd := congrArg Prod.snd he; dsimp only at hd; subst hd) | dsimp only | constructor | with_reducible (first | apply MemWf.ib | apply MemWf.ob | apply MemWf.ab | apply MemWf.rx | apply MemWf.sram | apply MemWf.near | apply MemWf.sbuf) | (simp [*]; done))
@[simp] theorem mem_fillPage (l : Lane) (upto n layer j : Nat) (s : State) (hw : MemWf s) : MemWf (fillPage l upto n layer j s) := by
  unfold fillPage; split <;> simp [*]
/-! ### Attention -/
@[simp] theorem mem_noteAccess (sid lane layer j : Nat) (s : State) (hw : MemWf s) : MemWf (noteAccess sid lane layer j s) := by
  simp [noteAccess, *]
@[simp] theorem mem_walkFault (sid cause : Nat) (l : Lane) (layer j : Nat) (s : State) (hw : MemWf s) : MemWf (walkFault sid cause l layer j s) := by
  simp [walkFault, *]
@[simp] theorem mem_issuePages (sid : Nat) (l : Lane) (layer mask : Nat) (k : List (Nat × Leaf) → State → State) (s : State) (h_k : ∀ y0 y1, MemWf y1 → MemWf (k y0 y1)) (hw : MemWf s) : MemWf (issuePages sid l layer mask k s) := by
  unfold issuePages
  repeat' (first | with_reducible (first | assumption | intro t x ht | intro t ht | apply mem_seqFaultOpen | apply mem_seqFault | apply mem_walkFault | apply mem_touchWalk | apply mem_noteAccess | apply h_k | apply memWf_foldl | apply wf_foldl | apply wf_wrBytes | apply wf_wrByte | apply wf_wrWord | apply wf_wrHalf | apply wf_wrPair | apply wf_zeroRange | apply wf_obPut |  apply wf_setAb | (fail_if_no_progress refine memWf_same rfl rfl ?_)) | split | (rename_i he; have hd := congrArg Prod.snd he; dsimp only at hd; subst hd) | dsimp only | constructor | with_reducible (first | apply MemWf.ib | apply MemWf.ob | apply MemWf.ab | apply MemWf.rx | apply MemWf.sram | apply MemWf.near | apply MemWf.sbuf) | (simp [*]; done))
@[simp] theorem mem_prefetchNext (sid : Nat) (l : Lane) (layer : Nat) (s : State) (hw : MemWf s) : MemWf (prefetchNext sid l layer s) := by
  unfold prefetchNext
  repeat' (first | with_reducible (first | assumption | intro t x ht | intro t ht | apply mem_touchWalk | apply memWf_foldl | apply wf_foldl | apply wf_wrBytes | apply wf_wrByte | apply wf_wrWord | apply wf_wrHalf | apply wf_wrPair | apply wf_zeroRange | apply wf_obPut |  apply wf_setAb | (fail_if_no_progress refine memWf_same rfl rfl ?_)) | split | (rename_i he; have hd := congrArg Prod.snd he; dsimp only at hd; subst hd) | dsimp only | constructor | with_reducible (first | apply MemWf.ib | apply MemWf.ob | apply MemWf.ab | apply MemWf.rx | apply MemWf.sram | apply MemWf.near | apply MemWf.sbuf) | (simp [*]; done))
@[simp] theorem mem_scoreAll (i : Iss) (kvh layer qaddr sbuf mask nqh : Nat) (l : Lane) (s : State) (hw : MemWf s) : MemWf (scoreAll i kvh layer qaddr sbuf mask nqh l s) := by
  unfold scoreAll
  repeat' (first | with_reducible (first | assumption | intro t x ht | intro t ht | apply mem_issuePages | apply mem_seqFault | apply mem_prefetchNext | apply memWf_foldl | apply wf_foldl | apply wf_wrBytes | apply wf_wrByte | apply wf_wrWord | apply wf_wrHalf | apply wf_wrPair | apply wf_zeroRange | apply wf_obPut |  apply wf_setAb | (fail_if_no_progress refine memWf_same rfl rfl ?_)) | split | (rename_i he; have hd := congrArg Prod.snd he; dsimp only at hd; subst hd) | dsimp only | constructor | with_reducible (first | apply MemWf.ib | apply MemWf.ob | apply MemWf.ab | apply MemWf.rx | apply MemWf.sram | apply MemWf.near | apply MemWf.sbuf) | (simp [*]; done))
@[simp] theorem mem_scoreAct (i : Iss) (kvh layer qaddr sbuf mask nqh : Nat) (s : State) (hw : MemWf s) : MemWf (scoreAct i kvh layer qaddr sbuf mask nqh s) := by
  unfold scoreAct
  repeat' (first | with_reducible (first | assumption | intro t x ht | intro t ht | apply mem_laneOp | apply mem_scoreAll | apply memWf_foldl | apply wf_foldl | apply wf_wrBytes | apply wf_wrByte | apply wf_wrWord | apply wf_wrHalf | apply wf_wrPair | apply wf_zeroRange | apply wf_obPut |  apply wf_setAb | (fail_if_no_progress refine memWf_same rfl rfl ?_)) | split | (rename_i he; have hd := congrArg Prod.snd he; dsimp only at hd; subst hd) | dsimp only | constructor | with_reducible (first | apply MemWf.ib | apply MemWf.ob | apply MemWf.ab | apply MemWf.rx | apply MemWf.sram | apply MemWf.near | apply MemWf.sbuf) | (simp [*]; done))
@[simp] theorem mem_snormRow (i : Iss) (sbuf paddr rows : Nat) (s : State) (r : Nat) (hw : MemWf s) : MemWf (snormRow i sbuf paddr rows s r) := by
  unfold snormRow
  repeat' (first | with_reducible (first | assumption | intro t x ht | intro t ht | apply memWf_foldl | apply wf_foldl | apply wf_wrBytes | apply wf_wrByte | apply wf_wrWord | apply wf_wrHalf | apply wf_wrPair | apply wf_zeroRange | apply wf_obPut |  apply wf_setAb | (fail_if_no_progress refine memWf_same rfl rfl ?_)) | split | (rename_i he; have hd := congrArg Prod.snd he; dsimp only at hd; subst hd) | dsimp only | constructor | with_reducible (first | apply MemWf.ib | apply MemWf.ob | apply MemWf.ab | apply MemWf.rx | apply MemWf.sram | apply MemWf.near | apply MemWf.sbuf) | (simp [*]; done))
@[simp] theorem mem_countBound (i : Iss) (sbuf rows : Nat) (l : Lane) (s : State) (hw : MemWf s) : MemWf (countBound i sbuf rows l s) := by
  simp [countBound, *]
@[simp] theorem mem_snormAll (i : Iss) (sbuf paddr nqh : Nat) (l : Lane) (s : State) (hw : MemWf s) : MemWf (snormAll i sbuf paddr nqh l s) := by
  unfold snormAll
  repeat' (first | with_reducible (first | assumption | intro t x ht | intro t ht | apply mem_snormRow | apply mem_countBound | apply memWf_foldl | apply wf_foldl | apply wf_wrBytes | apply wf_wrByte | apply wf_wrWord | apply wf_wrHalf | apply wf_wrPair | apply wf_zeroRange | apply wf_obPut |  apply wf_setAb | (fail_if_no_progress refine memWf_same rfl rfl ?_)) | split | (rename_i he; have hd := congrArg Prod.snd he; dsimp only at hd; subst hd) | dsimp only | constructor | with_reducible (first | apply MemWf.ib | apply MemWf.ob | apply MemWf.ab | apply MemWf.rx | apply MemWf.sram | apply MemWf.near | apply MemWf.sbuf) | (simp [*]; done))
@[simp] theorem mem_snormAct (i : Iss) (sbuf paddr nqh : Nat) (s : State) (hw : MemWf s) : MemWf (snormAct i sbuf paddr nqh s) := by
  unfold snormAct
  repeat' (first | with_reducible (first | assumption | intro t x ht | intro t ht | apply mem_laneOp | apply mem_snormAll | apply memWf_foldl | apply wf_foldl | apply wf_wrBytes | apply wf_wrByte | apply wf_wrWord | apply wf_wrHalf | apply wf_wrPair | apply wf_zeroRange | apply wf_obPut |  apply wf_setAb | (fail_if_no_progress refine memWf_same rfl rfl ?_)) | split | (rename_i he; have hd := congrArg Prod.snd he; dsimp only at hd; subst hd) | dsimp only | constructor | with_reducible (first | apply MemWf.ib | apply MemWf.ob | apply MemWf.ab | apply MemWf.rx | apply MemWf.sram | apply MemWf.near | apply MemWf.sbuf) | (simp [*]; done))
@[simp] theorem mem_smixAll (i : Iss) (kvh layer paddr oaddr mask nqh : Nat) (l : Lane) (s : State) (hw : MemWf s) : MemWf (smixAll i kvh layer paddr oaddr mask nqh l s) := by
  unfold smixAll
  repeat' (first | with_reducible (first | assumption | intro t x ht | intro t ht | apply mem_issuePages | apply memWf_foldl | apply wf_foldl | apply wf_wrBytes | apply wf_wrByte | apply wf_wrWord | apply wf_wrHalf | apply wf_wrPair | apply wf_zeroRange | apply wf_obPut |  apply wf_setAb | (fail_if_no_progress refine memWf_same rfl rfl ?_)) | split | (rename_i he; have hd := congrArg Prod.snd he; dsimp only at hd; subst hd) | dsimp only | constructor | with_reducible (first | apply MemWf.ib | apply MemWf.ob | apply MemWf.ab | apply MemWf.rx | apply MemWf.sram | apply MemWf.near | apply MemWf.sbuf) | (simp [*]; done))
@[simp] theorem mem_smixAct (i : Iss) (kvh layer paddr oaddr mask nqh : Nat) (s : State) (hw : MemWf s) : MemWf (smixAct i kvh layer paddr oaddr mask nqh s) := by
  unfold smixAct
  repeat' (first | with_reducible (first | assumption | intro t x ht | intro t ht | apply mem_laneOp | apply mem_smixAll | apply memWf_foldl | apply wf_foldl | apply wf_wrBytes | apply wf_wrByte | apply wf_wrWord | apply wf_wrHalf | apply wf_wrPair | apply wf_zeroRange | apply wf_obPut |  apply wf_setAb | (fail_if_no_progress refine memWf_same rfl rfl ?_)) | split | (rename_i he; have hd := congrArg Prod.snd he; dsimp only at hd; subst hd) | dsimp only | constructor | with_reducible (first | apply MemWf.ib | apply MemWf.ob | apply MemWf.ab | apply MemWf.rx | apply MemWf.sram | apply MemWf.near | apply MemWf.sbuf) | (simp [*]; done))
@[simp] theorem mem_setScales (sid kvh kaddr layer j : Nat) (l : Lane) (p : Leaf) (ps : List Nat) (s : State) (hw : MemWf s) : MemWf (setScales sid kvh kaddr layer j l p ps s) := by
  unfold setScales
  repeat' (first | with_reducible (first | assumption | intro t x ht | intro t ht | apply memWf_foldl | apply wf_foldl | apply wf_wrBytes | apply wf_wrByte | apply wf_wrWord | apply wf_wrHalf | apply wf_wrPair | apply wf_zeroRange | apply wf_obPut |  apply wf_setAb | (fail_if_no_progress refine memWf_same rfl rfl ?_)) | split | (rename_i he; have hd := congrArg Prod.snd he; dsimp only at hd; subst hd) | dsimp only | constructor | with_reducible (first | apply MemWf.ib | apply MemWf.ob | apply MemWf.ab | apply MemWf.rx | apply MemWf.sram | apply MemWf.near | apply MemWf.sbuf) | (simp [*]; done))
@[simp] theorem mem_putPos (i : Iss) (kvh layer kaddr : Nat) (l : Lane) (p : Leaf) (s : State) (pos : Nat) (hw : MemWf s) : MemWf (putPos i kvh layer kaddr l p s pos) := by
  unfold putPos
  repeat' (first | with_reducible (first | assumption | intro t x ht | intro t ht | apply memWf_foldl | apply wf_foldl | apply wf_wrBytes | apply wf_wrByte | apply wf_wrWord | apply wf_wrHalf | apply wf_wrPair | apply wf_zeroRange | apply wf_obPut |  apply wf_setAb | (fail_if_no_progress refine memWf_same rfl rfl ?_)) | split | (rename_i he; have hd := congrArg Prod.snd he; dsimp only at hd; subst hd) | dsimp only | constructor | with_reducible (first | apply MemWf.ib | apply MemWf.ob | apply MemWf.ab | apply MemWf.rx | apply MemWf.sram | apply MemWf.near | apply MemWf.sbuf) | (simp [*]; done))
@[simp] theorem mem_putPage (i : Iss) (kvh layer kaddr : Nat) (l : Lane) (s : State) (j : Nat) (hw : MemWf s) : MemWf (putPage i kvh layer kaddr l s j) := by
  unfold putPage
  repeat' (first | with_reducible (first | assumption | intro t x ht | intro t ht | apply mem_noteAccess | apply mem_touchWalk | apply mem_seqFault | apply mem_putPos | apply mem_setScales | apply memWf_foldl | apply wf_foldl | apply wf_wrBytes | apply wf_wrByte | apply wf_wrWord | apply wf_wrHalf | apply wf_wrPair | apply wf_zeroRange | apply wf_obPut |  apply wf_setAb | (fail_if_no_progress refine memWf_same rfl rfl ?_)) | split | (rename_i he; have hd := congrArg Prod.snd he; dsimp only at hd; subst hd) | dsimp only | constructor | with_reducible (first | apply MemWf.ib | apply MemWf.ob | apply MemWf.ab | apply MemWf.rx | apply MemWf.sram | apply MemWf.near | apply MemWf.sbuf) | (simp [*]; done))
@[simp] theorem mem_kvputAll (i : Iss) (kvh layer kaddr : Nat) (l : Lane) (s : State) (hw : MemWf s) : MemWf (kvputAll i kvh layer kaddr l s) := by
  unfold kvputAll
  repeat' (first | with_reducible (first | assumption | intro t x ht | intro t ht | apply mem_seqFaultOpen | apply mem_putPage | apply memWf_foldl | apply wf_foldl | apply wf_wrBytes | apply wf_wrByte | apply wf_wrWord | apply wf_wrHalf | apply wf_wrPair | apply wf_zeroRange | apply wf_obPut |  apply wf_setAb | (fail_if_no_progress refine memWf_same rfl rfl ?_)) | split | (rename_i he; have hd := congrArg Prod.snd he; dsimp only at hd; subst hd) | dsimp only | constructor | with_reducible (first | apply MemWf.ib | apply MemWf.ob | apply MemWf.ab | apply MemWf.rx | apply MemWf.sram | apply MemWf.near | apply MemWf.sbuf) | (simp [*]; done))
@[simp] theorem mem_kvputAct (i : Iss) (kvh layer kaddr : Nat) (s : State) (hw : MemWf s) : MemWf (kvputAct i kvh layer kaddr s) := by
  unfold kvputAct
  repeat' (first | with_reducible (first | assumption | intro t x ht | intro t ht | apply mem_laneOp | apply mem_kvputAll | apply memWf_foldl | apply wf_foldl | apply wf_wrBytes | apply wf_wrByte | apply wf_wrWord | apply wf_wrHalf | apply wf_wrPair | apply wf_zeroRange | apply wf_obPut |  apply wf_setAb | (fail_if_no_progress refine memWf_same rfl rfl ?_)) | split | (rename_i he; have hd := congrArg Prod.snd he; dsimp only at hd; subst hd) | dsimp only | constructor | with_reducible (first | apply MemWf.ib | apply MemWf.ob | apply MemWf.ab | apply MemWf.rx | apply MemWf.sram | apply MemWf.near | apply MemWf.sbuf) | (simp [*]; done))
/-! ### Queue -/
@[simp] theorem mem_slotRun (c : Instr) (s : State) (hw : MemWf s) : MemWf (slotRun c s) := by
  cases c with
  | strk _ _ => exact mem_strkAct (hw := hw) ..
  | stkv _ _ => exact mem_stkvAct (hw := hw) ..
  | psel _ _ _ _ => exact mem_pselAct (hw := hw) ..
  | aclr _ _ _ => exact mem_aclrRun (hw := hw) ..
  | acn _ _ => exact mem_acnAct (hw := hw) ..
  | apro _ _ _ _ _ => exact mem_aproRun (hw := hw) ..
  | awid _ _ _ _ _ _ => exact mem_awidRun (hw := hw) ..
  | rsum _ _ _ => exact mem_redRun (h_act := fun _ h => mem_rsumAct (hw := h) ..) (hw := hw) ..
  | rmax _ _ => exact mem_redRun (h_act := fun _ h => mem_rmaxAct (hw := h) ..) (hw := hw) ..
  | rmin _ _ => exact mem_redRun (h_act := fun _ h => mem_rminAct (hw := h) ..) (hw := hw) ..
  | rarg _ _ => exact mem_redRun (h_act := fun _ h => mem_rargAct (hw := h) ..) (hw := hw) ..
  | rand _ _ => exact mem_redRun (h_act := fun _ h => mem_randAct (hw := h) ..) (hw := hw) ..
  | ror _ _ => exact mem_redRun (h_act := fun _ h => mem_rorAct (hw := h) ..) (hw := hw) ..
  | rxor _ _ => exact mem_redRun (h_act := fun _ h => mem_rxorAct (hw := h) ..) (hw := hw) ..
  | rcnt _ _ => exact mem_redRun (h_act := fun _ h => mem_rcntAct (hw := h) ..) (hw := hw) ..
  | gcol _ _ => exact mem_gcolAct (hw := hw) ..
  | gout _ _ => exact mem_glzRun (h_act := fun _ h => mem_goutAct (hw := h) ..) (hw := hw) ..
  | gact _ _ => exact mem_glzRun (h_act := fun _ h => mem_gactAct (hw := h) ..) (hw := hw) ..
  | glr _ _ => exact mem_glrRun (hw := hw) ..
  | gtnt _ _ => exact mem_glzRun (h_act := fun _ h => mem_gtntAct (hw := h) ..) (hw := hw) ..
  | enorm _ _ _ _ => exact mem_elRun (h_act := fun _ h => mem_enormAct (hw := h) ..) (hw := hw) ..
  | eact _ _ _ => exact mem_elRun (h_act := fun _ h => mem_eactAct (hw := h) ..) (hw := hw) ..
  | emul _ _ _ => exact mem_elRun (h_act := fun _ h => mem_emulAct (hw := h) ..) (hw := hw) ..
  | eadd _ _ _ => exact mem_elRun (h_act := fun _ h => mem_eaddAct (hw := h) ..) (hw := hw) ..
  | erot _ _ _ _ => exact mem_elRun (h_act := fun _ h => mem_erotAct (hw := h) ..) (hw := hw) ..
  | ecvt _ _ => exact mem_elRun (h_act := fun _ h => mem_ecvtAct (hw := h) ..) (hw := hw) ..
  | mvb _ _ _ _ _ _ _ => exact mem_mvbAct (hw := hw) ..
  | mvf _ _ _ _ _ _ => exact mem_mvfAct (hw := hw) ..
  | mvk _ _ _ _ _ _ => exact mem_mvkAct (hw := hw) ..
  | mck _ _ _ _ _ => exact mem_mckAct (hw := hw) ..
  | twait _ _ _ => exact mem_twaitAct (hw := hw) ..
  | tsend _ _ => exact mem_tsendOp (hw := hw) ..
  | cred _ _ _ _ => exact mem_credOp (hw := hw) ..
  | chk _ _ _ _ => exact mem_chkAct (hw := hw) ..
  | csum _ _ _ => exact mem_csumRun (hw := hw) ..
  | flor _ => exact mem_closeSeg (hw := hw) ..
  | step _ => exact mem_stepOp (hw := hw) ..
  | rplw _ _ => exact mem_rplwAct (hw := hw) ..
  | replaySlot _ => exact mem_replaySlotAct (hw := hw) ..
  | score _ _ _ _ _ _ _ => exact mem_scoreAct (hw := hw) ..
  | snorm _ _ _ _ => exact mem_snormAct (hw := hw) ..
  | smix _ _ _ _ _ _ _ => exact mem_smixAct (hw := hw) ..
  | kvput _ _ _ _ => exact mem_kvputAct (hw := hw) ..
  | samp _ _ _ => exact mem_sampAct (hw := hw) ..
  | skdr _ _ _ _ _ => exact mem_skdrAct (hw := hw) ..
  | vrfy _ _ _ _ => exact mem_vrfyAct (hw := hw) ..
  | _ => exact hw
@[simp] theorem mem_beginOp (fx : Nat) (x0 : Instr) (x1 : State) (hw : MemWf x1) : MemWf (beginOp fx x0 x1) := by
  unfold beginOp; split <;> simp [*]
@[simp] theorem mem_settleN (sid n : Nat) (s : State) (hw : MemWf s) : MemWf (settleN sid n s) := by
  induction n generalizing s with
  | zero => exact hw
  | succ k ih =>
    unfold settleN
    split
    · exact ih _ (mem_beginOp _ _ _ (mem_modSeq _ _ _ hw))
    · split
      · exact hw
      · dsimp only
        split
        · exact ih _ (mem_modSeq _ _ _ (mem_slotRun _ _ (mem_modSeq _ _ _ hw)))
        · exact hw
@[simp] theorem mem_settle (sid : Nat) (s : State) (hw : MemWf s) : MemWf (settle sid s) := by
  simp [settle, *]
@[simp] theorem mem_settleCores (cl : Nat) (s : State) (hw : MemWf s) : MemWf (settleCores cl s) := by
  unfold settleCores
  repeat' (first | with_reducible (first | assumption | intro t x ht | intro t ht | apply mem_settle | apply memWf_foldl | apply wf_foldl | apply wf_wrBytes | apply wf_wrByte | apply wf_wrWord | apply wf_wrHalf | apply wf_wrPair | apply wf_zeroRange | apply wf_obPut |  apply wf_setAb | (fail_if_no_progress refine memWf_same rfl rfl ?_)) | split | (rename_i he; have hd := congrArg Prod.snd he; dsimp only at hd; subst hd) | dsimp only | constructor | with_reducible (first | apply MemWf.ib | apply MemWf.ob | apply MemWf.ab | apply MemWf.rx | apply MemWf.sram | apply MemWf.near | apply MemWf.sbuf) | (simp [*]; done))

end Sys2Proof.Machine
end

