-- ==== Sys2Proof/Laws/MemStep.lean ====
section
/-! SUPPORT. The canonical form of the memories under the operations of a step. -/

namespace Sys2Proof.Machine

/-! ### Life -/
@[simp] theorem mem_mapPage (ptn page : Nat) (s : State) (hw : MemWf s) : MemWf (mapPage ptn page s) := by
  unfold mapPage; split <;> simp [*]
@[simp] theorem mem_takePages (ix n : Nat) (s : State) (hw : MemWf s) : MemWf (takePages ix n s).2 := by
  unfold takePages
  repeat' (first | with_reducible (first | assumption | intro t x ht | intro t ht | apply mem_modEntry | apply mem_mapPage | apply memWf_foldl | apply wf_foldl | apply wf_wrBytes | apply wf_wrByte | apply wf_wrWord | apply wf_wrHalf | apply wf_wrPair | apply wf_zeroRange | apply wf_obPut |  apply wf_setAb | (fail_if_no_progress refine memWf_same rfl rfl ?_)) | split | (rename_i he; have hd := congrArg Prod.snd he; dsimp only at hd; subst hd) | dsimp only | constructor | with_reducible (first | apply MemWf.ib | apply MemWf.ob | apply MemWf.ab | apply MemWf.rx | apply MemWf.sram | apply MemWf.near | apply MemWf.sbuf) | (simp [*]; done))
@[simp] theorem mem_freePage (ptn ix page : Nat) (s : State) (hw : MemWf s) : MemWf (freePage ptn ix page s) := by
  unfold freePage; split <;> simp [*]
@[simp] theorem mem_freePages (ix mark : Nat) (s : State) (hw : MemWf s) : MemWf (freePages ix mark s) := by
  unfold freePages
  repeat' (first | with_reducible (first | assumption | intro t x ht | intro t ht | apply mem_freePage | apply mem_modEntry | apply memWf_foldl | apply wf_foldl | apply wf_wrBytes | apply wf_wrByte | apply wf_wrWord | apply wf_wrHalf | apply wf_wrPair | apply wf_zeroRange | apply wf_obPut |  apply wf_setAb | (fail_if_no_progress refine memWf_same rfl rfl ?_)) | split | (rename_i he; have hd := congrArg Prod.snd he; dsimp only at hd; subst hd) | dsimp only | constructor | with_reducible (first | apply MemWf.ib | apply MemWf.ob | apply MemWf.ab | apply MemWf.rx | apply MemWf.sram | apply MemWf.near | apply MemWf.sbuf) | (simp [*]; done))
@[simp] theorem mem_newBlock (ix : Nat) (s : State) (hw : MemWf s) : MemWf (newBlock ix s).2 := by
  unfold newBlock
  repeat' (first | with_reducible (first | assumption | intro t x ht | intro t ht | apply mem_takePages | apply mem_modEntry | apply memWf_foldl | apply wf_foldl | apply wf_wrBytes | apply wf_wrByte | apply wf_wrWord | apply wf_wrHalf | apply wf_wrPair | apply wf_zeroRange | apply wf_obPut |  apply wf_setAb | (fail_if_no_progress refine memWf_same rfl rfl ?_)) | split | (rename_i he; have hd := congrArg Prod.snd he; dsimp only at hd; subst hd) | dsimp only | constructor | with_reducible (first | apply MemWf.ib | apply MemWf.ob | apply MemWf.ab | apply MemWf.rx | apply MemWf.sram | apply MemWf.near | apply MemWf.sbuf) | (simp [*]; done))
@[simp] theorem mem_ensureEntry (ix ptr off : Nat) (s : State) (hw : MemWf s) : MemWf (ensureEntry ix ptr off s).2 := by
  unfold ensureEntry
  repeat' (first | with_reducible (first | assumption | intro t x ht | intro t ht | apply mem_newBlock | apply mem_nearAll | apply memWf_foldl | apply wf_foldl | apply wf_wrBytes | apply wf_wrByte | apply wf_wrWord | apply wf_wrHalf | apply wf_wrPair | apply wf_zeroRange | apply wf_obPut |  apply wf_setAb | (fail_if_no_progress refine memWf_same rfl rfl ?_)) | split | (rename_i he; have hd := congrArg Prod.snd he; dsimp only at hd; subst hd) | dsimp only | constructor | with_reducible (first | apply MemWf.ib | apply MemWf.ob | apply MemWf.ab | apply MemWf.rx | apply MemWf.sram | apply MemWf.near | apply MemWf.sbuf) | (simp [*]; done))
@[simp] theorem mem_dataPage (ix : Nat) (e : Entry) (s : State) (hw : MemWf s) : MemWf (dataPage ix e s).2 := by
  unfold dataPage; split <;> simp [*]
@[simp] theorem mem_scalePage (ix : Nat) (e : Entry) (s : State) (hw : MemWf s) : MemWf (scalePage ix e s).2 := by
  unfold scalePage; split <;> simp [*]
@[simp] theorem mem_newPage (ix : Nat) (s : State) (hw : MemWf s) : MemWf (newPage ix s).2 := by
  unfold newPage
  repeat' (first | with_reducible (first | assumption | intro t x ht | intro t ht | apply mem_takePages | apply mem_dataPage | apply mem_scalePage | apply mem_modEntry | apply memWf_foldl | apply wf_foldl | apply wf_wrBytes | apply wf_wrByte | apply wf_wrWord | apply wf_wrHalf | apply wf_wrPair | apply wf_zeroRange | apply wf_obPut |  apply wf_setAb | (fail_if_no_progress refine memWf_same rfl rfl ?_)) | split | (rename_i he; have hd := congrArg Prod.snd he; dsimp only at hd; subst hd) | dsimp only | constructor | with_reducible (first | apply MemWf.ib | apply MemWf.ob | apply MemWf.ab | apply MemWf.rx | apply MemWf.sram | apply MemWf.near | apply MemWf.sbuf) | (simp [*]; done))
@[simp] theorem mem_ensureRoot (ix : Nat) (s : State) (hw : MemWf s) : MemWf (ensureRoot ix s) := by
  unfold ensureRoot; split <;> simp [*]
@[simp] theorem mem_ensurePage (ix layer j : Nat) (s : State) (hw : MemWf s) : MemWf (ensurePage ix layer j s) := by
  unfold ensurePage
  repeat' (first | with_reducible (first | assumption | intro t x ht | intro t ht | apply mem_ensureRoot | apply mem_ensureEntry | apply mem_newPage | apply mem_nearAll | apply memWf_foldl | apply wf_foldl | apply wf_wrBytes | apply wf_wrByte | apply wf_wrWord | apply wf_wrHalf | apply wf_wrPair | apply wf_zeroRange | apply wf_obPut |  apply wf_setAb | (fail_if_no_progress refine memWf_same rfl rfl ?_)) | split | (rename_i he; have hd := congrArg Prod.snd he; dsimp only at hd; subst hd) | dsimp only | constructor | with_reducible (first | apply MemWf.ib | apply MemWf.ob | apply MemWf.ab | apply MemWf.rx | apply MemWf.sram | apply MemWf.near | apply MemWf.sbuf) | (simp [*]; done))
@[simp] theorem mem_ensureSlots (ix : Nat) (layers : List Nat) (lo hi : Nat) (s : State) (hw : MemWf s) : MemWf (ensureSlots ix layers lo hi s) := by
  unfold ensureSlots
  repeat' (first | with_reducible (first | assumption | intro t x ht | intro t ht | apply mem_ensurePage | apply memWf_foldl | apply wf_foldl | apply wf_wrBytes | apply wf_wrByte | apply wf_wrWord | apply wf_wrHalf | apply wf_wrPair | apply wf_zeroRange | apply wf_obPut |  apply wf_setAb | (fail_if_no_progress refine memWf_same rfl rfl ?_)) | split | (rename_i he; have hd := congrArg Prod.snd he; dsimp only at hd; subst hd) | dsimp only | constructor | with_reducible (first | apply MemWf.ib | apply MemWf.ob | apply MemWf.ab | apply MemWf.rx | apply MemWf.sram | apply MemWf.near | apply MemWf.sbuf) | (simp [*]; done))
@[simp] theorem mem_writeMask (ix : Nat) (area : List Byte) (s : State) (hw : MemWf s) : MemWf (writeMask ix area s) := by
  unfold writeMask
  repeat' (first | with_reducible (first | assumption | intro t x ht | intro t ht | apply mem_takePages | apply mem_modEntry | apply mem_nearAll | apply memWf_foldl | apply wf_foldl | apply wf_wrBytes | apply wf_wrByte | apply wf_wrWord | apply wf_wrHalf | apply wf_wrPair | apply wf_zeroRange | apply wf_obPut |  apply wf_setAb | (fail_if_no_progress refine memWf_same rfl rfl ?_)) | split | (rename_i he; have hd := congrArg Prod.snd he; dsimp only at hd; subst hd) | dsimp only | constructor | with_reducible (first | apply MemWf.ib | apply MemWf.ob | apply MemWf.ab | apply MemWf.rx | apply MemWf.sram | apply MemWf.near | apply MemWf.sbuf) | (simp [*]; done))
@[simp] theorem mem_putImage (ptn root layer j fill : Nat) (bs : List Byte) (s : State) (hw : MemWf s) : MemWf (putImage ptn root layer j fill bs s) := by
  unfold putImage
  repeat' (first | with_reducible (first | assumption | intro t x ht | intro t ht | apply memWf_foldl | apply wf_foldl | apply wf_wrBytes | apply wf_wrByte | apply wf_wrWord | apply wf_wrHalf | apply wf_wrPair | apply wf_zeroRange | apply wf_obPut |  apply wf_setAb | (fail_if_no_progress refine memWf_same rfl rfl ?_)) | split | (rename_i he; have hd := congrArg Prod.snd he; dsimp only at hd; subst hd) | dsimp only | constructor | with_reducible (first | apply MemWf.ib | apply MemWf.ob | apply MemWf.ab | apply MemWf.rx | apply MemWf.sram | apply MemWf.near | apply MemWf.sbuf) | (simp [*]; done))
@[simp] theorem mem_farReturn (ix : Nat) (s : State) (hw : MemWf s) : MemWf (farReturn ix s) := by
  unfold farReturn
  repeat' (first | with_reducible (first | assumption | intro t x ht | intro t ht | apply mem_ensurePage | apply mem_putImage | apply mem_modEntry | apply memWf_foldl | apply wf_foldl | apply wf_wrBytes | apply wf_wrByte | apply wf_wrWord | apply wf_wrHalf | apply wf_wrPair | apply wf_zeroRange | apply wf_obPut |  apply wf_setAb | (fail_if_no_progress refine memWf_same rfl rfl ?_)) | split | (rename_i he; have hd := congrArg Prod.snd he; dsimp only at hd; subst hd) | dsimp only | constructor | with_reducible (first | apply MemWf.ib | apply MemWf.ob | apply MemWf.ab | apply MemWf.rx | apply MemWf.sram | apply MemWf.near | apply MemWf.sbuf) | (simp [*]; done))
@[simp] theorem mem_sendCompletion (ix : Nat) (s : State) (hw : MemWf s) : MemWf (sendCompletion ix s) := by
  unfold sendCompletion
  repeat' (first | with_reducible (first | assumption | intro t x ht | intro t ht | apply mem_modPtn | apply mem_modEntry | apply mem_post | apply memWf_foldl | apply wf_foldl | apply wf_wrBytes | apply wf_wrByte | apply wf_wrWord | apply wf_wrHalf | apply wf_wrPair | apply wf_zeroRange | apply wf_obPut |  apply wf_setAb | (fail_if_no_progress refine memWf_same rfl rfl ?_)) | split | (rename_i he; have hd := congrArg Prod.snd he; dsimp only at hd; subst hd) | dsimp only | constructor | with_reducible (first | apply MemWf.ib | apply MemWf.ob | apply MemWf.ab | apply MemWf.rx | apply MemWf.sram | apply MemWf.near | apply MemWf.sbuf) | (simp [*]; done))
@[simp] theorem mem_answerWaiting (ix status after : Nat) (s : State) (hw : MemWf s) : MemWf (answerWaiting ix status after s) := by
  unfold answerWaiting
  repeat' (first | with_reducible (first | assumption | intro t x ht | intro t ht | apply mem_modEntry | apply mem_replyLate | apply memWf_foldl | apply wf_foldl | apply wf_wrBytes | apply wf_wrByte | apply wf_wrWord | apply wf_wrHalf | apply wf_wrPair | apply wf_zeroRange | apply wf_obPut |  apply wf_setAb | (fail_if_no_progress refine memWf_same rfl rfl ?_)) | split | (rename_i he; have hd := congrArg Prod.snd he; dsimp only at hd; subst hd) | dsimp only | constructor | with_reducible (first | apply MemWf.ib | apply MemWf.ob | apply MemWf.ab | apply MemWf.rx | apply MemWf.sram | apply MemWf.near | apply MemWf.sbuf) | (simp [*]; done))
@[simp] theorem mem_complete (ix status : Nat) (s : State) (hw : MemWf s) : MemWf (complete ix status s) := by
  unfold complete
  repeat' (first | with_reducible (first | assumption | intro t x ht | intro t ht | apply mem_modEntry | apply mem_answerWaiting | apply mem_sendCompletion | apply memWf_foldl | apply wf_foldl | apply wf_wrBytes | apply wf_wrByte | apply wf_wrWord | apply wf_wrHalf | apply wf_wrPair | apply wf_zeroRange | apply wf_obPut |  apply wf_setAb | (fail_if_no_progress refine memWf_same rfl rfl ?_)) | split | (rename_i he; have hd := congrArg Prod.snd he; dsimp only at hd; subst hd) | dsimp only | constructor | with_reducible (first | apply MemWf.ib | apply MemWf.ob | apply MemWf.ab | apply MemWf.rx | apply MemWf.sram | apply MemWf.near | apply MemWf.sbuf) | (simp [*]; done))
@[simp] theorem mem_sendTokens (ix : Nat) (s : State) (hw : MemWf s) : MemWf (sendTokens ix s) := by
  unfold sendTokens
  repeat' (first | with_reducible (first | assumption | intro t x ht | intro t ht | apply mem_post | apply mem_modEntry | apply mem_sendCompletion | apply memWf_foldl | apply wf_foldl | apply wf_wrBytes | apply wf_wrByte | apply wf_wrWord | apply wf_wrHalf | apply wf_wrPair | apply wf_zeroRange | apply wf_obPut |  apply wf_setAb | (fail_if_no_progress refine memWf_same rfl rfl ?_)) | split | (rename_i he; have hd := congrArg Prod.snd he; dsimp only at hd; subst hd) | dsimp only | constructor | with_reducible (first | apply MemWf.ib | apply MemWf.ob | apply MemWf.ab | apply MemWf.rx | apply MemWf.sram | apply MemWf.near | apply MemWf.sbuf) | (simp [*]; done))
@[simp] theorem mem_freeEntry (ix : Nat) (s : State) (hw : MemWf s) : MemWf (freeEntry ix s) := by
  simp [freeEntry, *]
@[simp] theorem mem_freeFar (ix mark : Nat) (s : State) (hw : MemWf s) : MemWf (freeFar ix mark s) := by
  unfold freeFar
  repeat' (first | with_reducible (first | assumption | intro t x ht | intro t ht | apply mem_modEntry | apply memWf_foldl | apply wf_foldl | apply wf_wrBytes | apply wf_wrByte | apply wf_wrWord | apply wf_wrHalf | apply wf_wrPair | apply wf_zeroRange | apply wf_obPut |  apply wf_setAb | (fail_if_no_progress refine memWf_same rfl rfl ?_)) | split | (rename_i he; have hd := congrArg Prod.snd he; dsimp only at hd; subst hd) | dsimp only | constructor | with_reducible (first | apply MemWf.ib | apply MemWf.ob | apply MemWf.ab | apply MemWf.rx | apply MemWf.sram | apply MemWf.near | apply MemWf.sbuf) | (simp [*]; done))
@[simp] theorem mem_retire (ix : Nat) (s : State) (hw : MemWf s) : MemWf (retire ix s) := by
  unfold retire
  repeat' (first | with_reducible (first | assumption | intro t x ht | intro t ht | apply mem_answerWaiting | apply mem_modEntry | apply mem_freePages | apply mem_freeFar | apply mem_freeEntry | apply memWf_foldl | apply wf_foldl | apply wf_wrBytes | apply wf_wrByte | apply wf_wrWord | apply wf_wrHalf | apply wf_wrPair | apply wf_zeroRange | apply wf_obPut |  apply wf_setAb | (fail_if_no_progress refine memWf_same rfl rfl ?_)) | split | (rename_i he; have hd := congrArg Prod.snd he; dsimp only at hd; subst hd) | dsimp only | constructor | with_reducible (first | apply MemWf.ib | apply MemWf.ob | apply MemWf.ab | apply MemWf.rx | apply MemWf.sram | apply MemWf.near | apply MemWf.sbuf) | (simp [*]; done))
@[simp] theorem mem_retireWith (ix status : Nat) (s : State) (hw : MemWf s) : MemWf (retireWith ix status s) := by
  simp [retireWith, *]
@[simp] theorem mem_killNow (ix status : Nat) (s : State) (hw : MemWf s) : MemWf (killNow ix status s) := by
  unfold killNow
  repeat' (first | with_reducible (first | assumption | intro t x ht | intro t ht | apply mem_modEntry | apply mem_complete | apply mem_killLane | apply mem_retireWith | apply memWf_foldl | apply wf_foldl | apply wf_wrBytes | apply wf_wrByte | apply wf_wrWord | apply wf_wrHalf | apply wf_wrPair | apply wf_zeroRange | apply wf_obPut |  apply wf_setAb | (fail_if_no_progress refine memWf_same rfl rfl ?_)) | split | (rename_i he; have hd := congrArg Prod.snd he; dsimp only at hd; subst hd) | dsimp only | constructor | with_reducible (first | apply MemWf.ib | apply MemWf.ob | apply MemWf.ab | apply MemWf.rx | apply MemWf.sram | apply MemWf.near | apply MemWf.sbuf) | (simp [*]; done))
@[simp] theorem mem_endRequest (ix status : Nat) (s : State) (hw : MemWf s) : MemWf (endRequest ix status s) := by
  unfold endRequest
  repeat' (first | with_reducible (first | assumption | intro t x ht | intro t ht | apply mem_killNow | apply mem_modEntry | apply memWf_foldl | apply wf_foldl | apply wf_wrBytes | apply wf_wrByte | apply wf_wrWord | apply wf_wrHalf | apply wf_wrPair | apply wf_zeroRange | apply wf_obPut |  apply wf_setAb | (fail_if_no_progress refine memWf_same rfl rfl ?_)) | split | (rename_i he; have hd := congrArg Prod.snd he; dsimp only at hd; subst hd) | dsimp only | constructor | with_reducible (first | apply MemWf.ib | apply MemWf.ob | apply MemWf.ab | apply MemWf.rx | apply MemWf.sram | apply MemWf.near | apply MemWf.sbuf) | (simp [*]; done))
@[simp] theorem mem_raiseExpired (ix : Nat) (s : State) (hw : MemWf s) : MemWf (raiseExpired ix s) := by
  simp [raiseExpired, *]
@[simp] theorem mem_expire (ix : Nat) (s : State) (hw : MemWf s) : MemWf (expire ix s) := by
  unfold expire
  repeat' (first | with_reducible (first | assumption | intro t x ht | intro t ht | apply mem_raiseExpired | apply mem_answerWaiting | apply mem_retireWith | apply mem_retire | apply memWf_foldl | apply wf_foldl | apply wf_wrBytes | apply wf_wrByte | apply wf_wrWord | apply wf_wrHalf | apply wf_wrPair | apply wf_zeroRange | apply wf_obPut |  apply wf_setAb | (fail_if_no_progress refine memWf_same rfl rfl ?_)) | split | (rename_i he; have hd := congrArg Prod.snd he; dsimp only at hd; subst hd) | dsimp only | constructor | with_reducible (first | apply MemWf.ib | apply MemWf.ob | apply MemWf.ab | apply MemWf.rx | apply MemWf.sram | apply MemWf.near | apply MemWf.sbuf) | (simp [*]; done))
@[simp] theorem mem_freeTints (n k : Nat) (s : State) (hw : MemWf s) : MemWf (freeTints n k s) := by
  unfold freeTints
  repeat' (first | with_reducible (first | assumption | intro t x ht | intro t ht | apply mem_raise | apply mem_modPtn | apply memWf_foldl | apply wf_foldl | apply wf_wrBytes | apply wf_wrByte | apply wf_wrWord | apply wf_wrHalf | apply wf_wrPair | apply wf_zeroRange | apply wf_obPut |  apply wf_setAb | (fail_if_no_progress refine memWf_same rfl rfl ?_)) | split | (rename_i he; have hd := congrArg Prod.snd he; dsimp only at hd; subst hd) | dsimp only | constructor | with_reducible (first | apply MemWf.ib | apply MemWf.ob | apply MemWf.ab | apply MemWf.rx | apply MemWf.sram | apply MemWf.near | apply MemWf.sbuf) | (simp [*]; done))
/-! ### Tokens -/
@[simp] theorem mem_takeToken (dest : Nat) (t : Token) (act : State → State) (s : State) (h_act : ∀ y0, MemWf y0 → MemWf (act y0)) (hw : MemWf s) : MemWf (takeToken dest t act s) := by
  unfold takeToken
  repeat' (first | with_reducible (first | assumption | intro t x ht | intro t ht | apply mem_modSeq | apply h_act | apply memWf_foldl | apply wf_foldl | apply wf_wrBytes | apply wf_wrByte | apply wf_wrWord | apply wf_wrHalf | apply wf_wrPair | apply wf_zeroRange | apply wf_obPut |  apply wf_setAb | (fail_if_no_progress refine memWf_same rfl rfl ?_)) | split | (rename_i he; have hd := congrArg Prod.snd he; dsimp only at hd; subst hd) | dsimp only | constructor | with_reducible (first | apply MemWf.ib | apply MemWf.ob | apply MemWf.ab | apply MemWf.rx | apply MemWf.sram | apply MemWf.near | apply MemWf.sbuf) | (simp [*]; done))
@[simp] theorem mem_syncOp (dest ch : Nat) (s : State) (hw : MemWf s) : MemWf (syncOp dest ch s) := by
  unfold syncOp
  repeat' (first | with_reducible (first | assumption | intro t x ht | intro t ht | apply mem_seqFaultOpen | apply mem_tryWait | apply mem_modSeq | apply memWf_foldl | apply wf_foldl | apply wf_wrBytes | apply wf_wrByte | apply wf_wrWord | apply wf_wrHalf | apply wf_wrPair | apply wf_zeroRange | apply wf_obPut |  apply wf_setAb | (fail_if_no_progress refine memWf_same rfl rfl ?_)) | split | (rename_i he; have hd := congrArg Prod.snd he; dsimp only at hd; subst hd) | dsimp only | constructor | with_reducible (first | apply MemWf.ib | apply MemWf.ob | apply MemWf.ab | apply MemWf.rx | apply MemWf.sram | apply MemWf.near | apply MemWf.sbuf) | (simp [*]; done))
@[simp] theorem mem_latchStep (dest : Nat) (t : Token) (s : State) (hw : MemWf s) : MemWf (latchStep dest t s) := by
  simp [latchStep, *]
@[simp] theorem mem_clearWalks (dest : Nat) (s : State) (hw : MemWf s) : MemWf (clearWalks dest s) := by
  simp [clearWalks, *]
@[simp] theorem mem_retractOp (dest : Nat) (tok : Token) (s : State) (hw : MemWf s) : MemWf (retractOp dest tok s) := by
  unfold retractOp
  repeat' (first | with_reducible (first | assumption | intro t x ht | intro t ht | apply mem_modSeq | apply mem_sendRetract | apply memWf_foldl | apply wf_foldl | apply wf_wrBytes | apply wf_wrByte | apply wf_wrWord | apply wf_wrHalf | apply wf_wrPair | apply wf_zeroRange | apply wf_obPut |  apply wf_setAb | (fail_if_no_progress refine memWf_same rfl rfl ?_)) | split | (rename_i he; have hd := congrArg Prod.snd he; dsimp only at hd; subst hd) | dsimp only | constructor | with_reducible (first | apply MemWf.ib | apply MemWf.ob | apply MemWf.ab | apply MemWf.rx | apply MemWf.sram | apply MemWf.near | apply MemWf.sbuf) | (simp [*]; done))
@[simp] theorem mem_dropStrokes (sid seg : Nat) (s : State) (hw : MemWf s) : MemWf (dropStrokes sid seg s) := by
  simp [dropStrokes, *]
@[simp] theorem mem_dropTentative (seg : Nat) (s : State) (hw : MemWf s) : MemWf (dropTentative seg s) := by
  simp [dropTentative, *]
@[simp] theorem mem_quiesce (dest seg att : Nat) (keep : Bool) (s : State) (hw : MemWf s) : MemWf (quiesce dest seg att keep s) := by
  unfold quiesce
  repeat' (first | with_reducible (first | assumption | intro t x ht | intro t ht | apply mem_dropTentative | apply mem_dropStrokes | apply mem_modSeq | apply mem_sendToken | apply memWf_foldl | apply wf_foldl | apply wf_wrBytes | apply wf_wrByte | apply wf_wrWord | apply wf_wrHalf | apply wf_wrPair | apply wf_zeroRange | apply wf_obPut |  apply wf_setAb | (fail_if_no_progress refine memWf_same rfl rfl ?_)) | split | (rename_i he; have hd := congrArg Prod.snd he; dsimp only at hd; subst hd) | dsimp only | constructor | with_reducible (first | apply MemWf.ib | apply MemWf.ob | apply MemWf.ab | apply MemWf.rx | apply MemWf.sram | apply MemWf.near | apply MemWf.sbuf) | (simp [*]; done))
@[simp] theorem mem_resumeOp (dest : Nat) (s : State) (hw : MemWf s) : MemWf (resumeOp dest s) := by
  simp [resumeOp, *]
@[simp] theorem mem_laneKillOp (dest lane : Nat) (s : State) (hw : MemWf s) : MemWf (laneKillOp dest lane s) := by
  unfold laneKillOp
  repeat' (first | with_reducible (first | assumption | intro t x ht | intro t ht | apply mem_modSeq | apply mem_settle | apply memWf_foldl | apply wf_foldl | apply wf_wrBytes | apply wf_wrByte | apply wf_wrWord | apply wf_wrHalf | apply wf_wrPair | apply wf_zeroRange | apply wf_obPut |  apply wf_setAb | (fail_if_no_progress refine memWf_same rfl rfl ?_)) | split | (rename_i he; have hd := congrArg Prod.snd he; dsimp only at hd; subst hd) | dsimp only | constructor | with_reducible (first | apply MemWf.ib | apply MemWf.ob | apply MemWf.ab | apply MemWf.rx | apply MemWf.sram | apply MemWf.near | apply MemWf.sbuf) | (simp [*]; done))
/-! ### Rewind -/
@[simp] theorem mem_withhold (l : Lane) (s : State) (hw : MemWf s) : MemWf (withhold l s) := by
  unfold withhold
  repeat' (first | with_reducible (first | assumption | intro t x ht | intro t ht | apply mem_modEntry | apply mem_modCur | apply memWf_foldl | apply wf_foldl | apply wf_wrBytes | apply wf_wrByte | apply wf_wrWord | apply wf_wrHalf | apply wf_wrPair | apply wf_zeroRange | apply wf_obPut |  apply wf_setAb | (fail_if_no_progress refine memWf_same rfl rfl ?_)) | split | (rename_i he; have hd := congrArg Prod.snd he; dsimp only at hd; subst hd) | dsimp only | constructor | with_reducible (first | apply MemWf.ib | apply MemWf.ob | apply MemWf.ab | apply MemWf.rx | apply MemWf.sram | apply MemWf.near | apply MemWf.sbuf) | (simp [*]; done))
@[simp] theorem mem_sendCommit (c : StepRec) (s : State) (hw : MemWf s) : MemWf (sendCommit c s) := by
  unfold sendCommit
  repeat' (first | with_reducible (first | assumption | intro t x ht | intro t ht | apply mem_sendTagged | apply mem_schedToAll | apply memWf_foldl | apply wf_foldl | apply wf_wrBytes | apply wf_wrByte | apply wf_wrWord | apply wf_wrHalf | apply wf_wrPair | apply wf_zeroRange | apply wf_obPut |  apply wf_setAb | (fail_if_no_progress refine memWf_same rfl rfl ?_)) | split | (rename_i he; have hd := congrArg Prod.snd he; dsimp only at hd; subst hd) | dsimp only | constructor | with_reducible (first | apply MemWf.ib | apply MemWf.ob | apply MemWf.ab | apply MemWf.rx | apply MemWf.sram | apply MemWf.near | apply MemWf.sbuf) | (simp [*]; done))
@[simp] theorem mem_tryCommit (s : State) (hw : MemWf s) : MemWf (tryCommit s) := by
  unfold tryCommit
  repeat' (first | with_reducible (first | assumption | intro t x ht | intro t ht | apply mem_sendCommit | apply mem_modCur | apply mem_withhold | apply memWf_foldl | apply wf_foldl | apply wf_wrBytes | apply wf_wrByte | apply wf_wrWord | apply wf_wrHalf | apply wf_wrPair | apply wf_zeroRange | apply wf_obPut |  apply wf_setAb | (fail_if_no_progress refine memWf_same rfl rfl ?_)) | split | (rename_i he; have hd := congrArg Prod.snd he; dsimp only at hd; subst hd) | dsimp only | constructor | with_reducible (first | apply MemWf.ib | apply MemWf.ob | apply MemWf.ab | apply MemWf.rx | apply MemWf.sram | apply MemWf.near | apply MemWf.sbuf) | (simp [*]; done))
@[simp] theorem mem_stepDoneOp (t : Token) (s : State) (hw : MemWf s) : MemWf (stepDoneOp t s) := by
  simp [stepDoneOp, *]
@[simp] theorem mem_segmentOp (t : Token) (s : State) (hw : MemWf s) : MemWf (segmentOp t s) := by
  unfold segmentOp; split <;> simp [*]
@[simp] theorem mem_clearStep (s : State) (hw : MemWf s) : MemWf (clearStep s) := by
  unfold clearStep
  repeat' (first | with_reducible (first | assumption | intro t x ht | intro t ht | apply mem_modSeq | apply memWf_foldl | apply wf_foldl | apply wf_wrBytes | apply wf_wrByte | apply wf_wrWord | apply wf_wrHalf | apply wf_wrPair | apply wf_zeroRange | apply wf_obPut |  apply wf_setAb | (fail_if_no_progress refine memWf_same rfl rfl ?_)) | split | (rename_i he; have hd := congrArg Prod.snd he; dsimp only at hd; subst hd) | dsimp only | constructor | with_reducible (first | apply MemWf.ib | apply MemWf.ob | apply MemWf.ab | apply MemWf.rx | apply MemWf.sram | apply MemWf.near | apply MemWf.sbuf) | (simp [*]; done))
@[simp] theorem mem_retireKilled (s : State) (hw : MemWf s) : MemWf (retireKilled s) := by
  unfold retireKilled
  repeat' (first | with_reducible (first | assumption | intro t x ht | intro t ht | apply mem_retire | apply memWf_foldl | apply wf_foldl | apply wf_wrBytes | apply wf_wrByte | apply wf_wrWord | apply wf_wrHalf | apply wf_wrPair | apply wf_zeroRange | apply wf_obPut |  apply wf_setAb | (fail_if_no_progress refine memWf_same rfl rfl ?_)) | split | (rename_i he; have hd := congrArg Prod.snd he; dsimp only at hd; subst hd) | dsimp only | constructor | with_reducible (first | apply MemWf.ib | apply MemWf.ob | apply MemWf.ab | apply MemWf.rx | apply MemWf.sram | apply MemWf.near | apply MemWf.sbuf) | (simp [*]; done))
@[simp] theorem mem_endAbandoned (s : State) (hw : MemWf s) : MemWf (endAbandoned s) := by
  simp [endAbandoned, *]
@[simp] theorem mem_sendRewind (seg : Nat) (s : State) (hw : MemWf s) : MemWf (sendRewind seg s) := by
  unfold sendRewind
  repeat' (first | with_reducible (first | assumption | intro t x ht | intro t ht | apply mem_fire | apply mem_schedToAll | apply mem_modCur | apply mem_dropSamples | apply memWf_foldl | apply wf_foldl | apply wf_wrBytes | apply wf_wrByte | apply wf_wrWord | apply wf_wrHalf | apply wf_wrPair | apply wf_zeroRange | apply wf_obPut |  apply wf_setAb | (fail_if_no_progress refine memWf_same rfl rfl ?_)) | split | (rename_i he; have hd := congrArg Prod.snd he; dsimp only at hd; subst hd) | dsimp only | constructor | with_reducible (first | apply MemWf.ib | apply MemWf.ob | apply MemWf.ab | apply MemWf.rx | apply MemWf.sram | apply MemWf.near | apply MemWf.sbuf) | (simp [*]; done))
@[simp] theorem mem_reexecute (seg : Nat) (s : State) (hw : MemWf s) : MemWf (reexecute seg s) := by
  unfold reexecute
  repeat' (first | with_reducible (first | assumption | intro t x ht | intro t ht | apply mem_modCnv | apply mem_fire | apply mem_sendRewind | apply mem_modCur | apply memWf_foldl | apply wf_foldl | apply wf_wrBytes | apply wf_wrByte | apply wf_wrWord | apply wf_wrHalf | apply wf_wrPair | apply wf_zeroRange | apply wf_obPut |  apply wf_setAb | (fail_if_no_progress refine memWf_same rfl rfl ?_)) | split | (rename_i he; have hd := congrArg Prod.snd he; dsimp only at hd; subst hd) | dsimp only | constructor | with_reducible (first | apply MemWf.ib | apply MemWf.ob | apply MemWf.ab | apply MemWf.rx | apply MemWf.sram | apply MemWf.near | apply MemWf.sbuf) | (simp [*]; done))
@[simp] theorem mem_markEnvelopes (s : State) (hw : MemWf s) : MemWf (markEnvelopes s) := by
  unfold markEnvelopes; split <;> simp [*]
@[simp] theorem mem_holdCanvas (c : Nat) (s : State) (hw : MemWf s) : MemWf (holdCanvas c s) := by
  unfold holdCanvas; split <;> simp [*]
@[simp] theorem mem_gatherEnd (c : StepRec) (seg : Nat) (s : State) (hw : MemWf s) : MemWf (gatherEnd c seg s) := by
  unfold gatherEnd
  repeat' (first | with_reducible (first | assumption | intro t x ht | intro t ht | apply mem_modCnv | apply mem_holdCanvas | apply mem_sendAbandon | apply mem_reexecute | apply mem_sendRewind | apply mem_modCur | apply mem_markEnvelopes | apply memWf_foldl | apply wf_foldl | apply wf_wrBytes | apply wf_wrByte | apply wf_wrWord | apply wf_wrHalf | apply wf_wrPair | apply wf_zeroRange | apply wf_obPut |  apply wf_setAb | (fail_if_no_progress refine memWf_same rfl rfl ?_)) | split | (rename_i he; have hd := congrArg Prod.snd he; dsimp only at hd; subst hd) | dsimp only | constructor | with_reducible (first | apply MemWf.ib | apply MemWf.ob | apply MemWf.ab | apply MemWf.rx | apply MemWf.sram | apply MemWf.near | apply MemWf.sbuf) | (simp [*]; done))
@[simp] theorem mem_gatherExpiry (s : State) (hw : MemWf s) : MemWf (gatherExpiry s) := by
  unfold gatherExpiry
  repeat' (first | (simp [*]; done) | split)
@[simp] theorem mem_fetchRows (s : State) (hw : MemWf s) : MemWf (fetchRows s) := by
  unfold fetchRows
  repeat' (first | with_reducible (first | assumption | intro t x ht | intro t ht | apply memWf_foldl | apply wf_foldl | apply wf_wrBytes | apply wf_wrByte | apply wf_wrWord | apply wf_wrHalf | apply wf_wrPair | apply wf_zeroRange | apply wf_obPut |  apply wf_setAb | (fail_if_no_progress refine memWf_same rfl rfl ?_)) | split | (rename_i he; have hd := congrArg Prod.snd he; dsimp only at hd; subst hd) | dsimp only | constructor | with_reducible (first | apply MemWf.ib | apply MemWf.ob | apply MemWf.ab | apply MemWf.rx | apply MemWf.sram | apply MemWf.near | apply MemWf.sbuf) | (simp [*]; done))
@[simp] theorem mem_allQuiet (s : State) (hw : MemWf s) : MemWf (allQuiet s) := by
  unfold allQuiet
  repeat' (first | with_reducible (first | assumption | intro t x ht | intro t ht | apply mem_endAbandoned | apply mem_schedToAll | apply mem_fetchRows | apply mem_modCur | apply memWf_foldl | apply wf_foldl | apply wf_wrBytes | apply wf_wrByte | apply wf_wrWord | apply wf_wrHalf | apply wf_wrPair | apply wf_zeroRange | apply wf_obPut |  apply wf_setAb | (fail_if_no_progress refine memWf_same rfl rfl ?_)) | split | (rename_i he; have hd := congrArg Prod.snd he; dsimp only at hd; subst hd) | dsimp only | constructor | with_reducible (first | apply MemWf.ib | apply MemWf.ob | apply MemWf.ab | apply MemWf.rx | apply MemWf.sram | apply MemWf.near | apply MemWf.sbuf) | (simp [*]; done))
@[simp] theorem mem_quiescedOp (t : Token) (s : State) (hw : MemWf s) : MemWf (quiescedOp t s) := by
  unfold quiescedOp
  repeat' (first | with_reducible (first | assumption | intro t x ht | intro t ht | apply mem_modCur | apply mem_allQuiet | apply memWf_foldl | apply wf_foldl | apply wf_wrBytes | apply wf_wrByte | apply wf_wrWord | apply wf_wrHalf | apply wf_wrPair | apply wf_zeroRange | apply wf_obPut |  apply wf_setAb | (fail_if_no_progress refine memWf_same rfl rfl ?_)) | split | (rename_i he; have hd := congrArg Prod.snd he; dsimp only at hd; subst hd) | dsimp only | constructor | with_reducible (first | apply MemWf.ib | apply MemWf.ob | apply MemWf.ab | apply MemWf.rx | apply MemWf.sram | apply MemWf.near | apply MemWf.sbuf) | (simp [*]; done))
@[simp] theorem mem_moveFrame (ptn page : Nat) (s : State) (hw : MemWf s) : MemWf (moveFrame ptn page s) := by
  unfold moveFrame
  repeat' (first | with_reducible (first | assumption | intro t x ht | intro t ht | apply memWf_foldl | apply wf_foldl | apply wf_wrBytes | apply wf_wrByte | apply wf_wrWord | apply wf_wrHalf | apply wf_wrPair | apply wf_zeroRange | apply wf_obPut |  apply wf_setAb | (fail_if_no_progress refine memWf_same rfl rfl ?_)) | split | (rename_i he; have hd := congrArg Prod.snd he; dsimp only at hd; subst hd) | dsimp only | constructor | with_reducible (first | apply MemWf.ib | apply MemWf.ob | apply MemWf.ab | apply MemWf.rx | apply MemWf.sram | apply MemWf.near | apply MemWf.sbuf) | (simp [*]; done))
@[simp] theorem mem_retireFrameOf (ptn page : Nat) (s : State) (hw : MemWf s) : MemWf (retireFrameOf ptn page s) := by
  unfold retireFrameOf; split <;> simp [*]
@[simp] theorem mem_memFault (l : Lane) (layer j cause : Nat) (s : State) (hw : MemWf s) : MemWf (memFault l layer j cause s) := by
  unfold memFault
  repeat' (first | with_reducible (first | assumption | intro t x ht | intro t ht | apply mem_fire | apply mem_retireFrameOf | apply mem_killLane | apply mem_markPoison | apply mem_modEntry | apply mem_moveFrame | apply memWf_foldl | apply wf_foldl | apply wf_wrBytes | apply wf_wrByte | apply wf_wrWord | apply wf_wrHalf | apply wf_wrPair | apply wf_zeroRange | apply wf_obPut |  apply wf_setAb | (fail_if_no_progress refine memWf_same rfl rfl ?_)) | split | (rename_i he; have hd := congrArg Prod.snd he; dsimp only at hd; subst hd) | dsimp only | constructor | with_reducible (first | apply MemWf.ib | apply MemWf.ob | apply MemWf.ab | apply MemWf.rx | apply MemWf.sram | apply MemWf.near | apply MemWf.sbuf) | (simp [*]; done))
@[simp] theorem mem_seqFaultAct (t : Token) (c : StepRec) (s : State) (hw : MemWf s) : MemWf (seqFaultAct t c s) := by
  unfold seqFaultAct
  repeat' (first | with_reducible (first | assumption | intro t x ht | intro t ht | apply mem_fire | apply mem_sendRewind | apply mem_modCur | apply mem_memFault | apply mem_recordFault | apply mem_sendAbandon | apply memWf_foldl | apply wf_foldl | apply wf_wrBytes | apply wf_wrByte | apply wf_wrWord | apply wf_wrHalf | apply wf_wrPair | apply wf_zeroRange | apply wf_obPut |  apply wf_setAb | (fail_if_no_progress refine memWf_same rfl rfl ?_)) | split | (rename_i he; have hd := congrArg Prod.snd he; dsimp only at hd; subst hd) | dsimp only | constructor | with_reducible (first | apply MemWf.ib | apply MemWf.ob | apply MemWf.ab | apply MemWf.rx | apply MemWf.sram | apply MemWf.near | apply MemWf.sbuf) | (simp [*]; done))
@[simp] theorem mem_nameMissing (n : Nat) (ms : List Nat) (s : State) (hw : MemWf s) : MemWf (nameMissing n ms s) := by
  unfold nameMissing
  repeat' (first | with_reducible (first | assumption | intro t x ht | intro t ht | apply mem_fire | apply memWf_foldl | apply wf_foldl | apply wf_wrBytes | apply wf_wrByte | apply wf_wrWord | apply wf_wrHalf | apply wf_wrPair | apply wf_zeroRange | apply wf_obPut |  apply wf_setAb | (fail_if_no_progress refine memWf_same rfl rfl ?_)) | split | (rename_i he; have hd := congrArg Prod.snd he; dsimp only at hd; subst hd) | dsimp only | constructor | with_reducible (first | apply MemWf.ib | apply MemWf.ob | apply MemWf.ab | apply MemWf.rx | apply MemWf.sram | apply MemWf.near | apply MemWf.sbuf) | (simp [*]; done))
@[simp] theorem mem_watchdogDrain (s : State) (hw : MemWf s) : MemWf (watchdogDrain s) := by
  unfold watchdogDrain
  repeat' (first | with_reducible (first | assumption | intro t x ht | intro t ht | apply mem_drainDecision | apply mem_sendAbandon | apply memWf_foldl | apply wf_foldl | apply wf_wrBytes | apply wf_wrByte | apply wf_wrWord | apply wf_wrHalf | apply wf_wrPair | apply wf_zeroRange | apply wf_obPut |  apply wf_setAb | (fail_if_no_progress refine memWf_same rfl rfl ?_)) | split | (rename_i he; have hd := congrArg Prod.snd he; dsimp only at hd; subst hd) | dsimp only | constructor | with_reducible (first | apply MemWf.ib | apply MemWf.ob | apply MemWf.ab | apply MemWf.rx | apply MemWf.sram | apply MemWf.near | apply MemWf.sbuf) | (simp [*]; done))
@[simp] theorem mem_watchdogOp (c : StepRec) (s : State) (hw : MemWf s) : MemWf (watchdogOp c s) := by
  unfold watchdogOp
  repeat' (first | with_reducible (first | assumption | intro t x ht | intro t ht | apply mem_nameMissing | apply mem_watchdogDrain | apply mem_sendAbandon | apply mem_modCur | apply mem_recordFault | apply memWf_foldl | apply wf_foldl | apply wf_wrBytes | apply wf_wrByte | apply wf_wrWord | apply wf_wrHalf | apply wf_wrPair | apply wf_zeroRange | apply wf_obPut |  apply wf_setAb | (fail_if_no_progress refine memWf_same rfl rfl ?_)) | split | (rename_i he; have hd := congrArg Prod.snd he; dsimp only at hd; subst hd) | dsimp only | constructor | with_reducible (first | apply MemWf.ib | apply MemWf.ob | apply MemWf.ab | apply MemWf.rx | apply MemWf.sram | apply MemWf.near | apply MemWf.sbuf) | (simp [*]; done))
@[simp] theorem mem_stepWatchdog (s : State) (hw : MemWf s) : MemWf (stepWatchdog s) := by
  unfold stepWatchdog; split <;> simp [*]
/-! ### Commit -/
@[simp] theorem mem_calDue (cause cl : Nat) (s : State) (hw : MemWf s) : MemWf (calDue cause cl s) := by
  simp [calDue, *]
@[simp] theorem mem_setStop (v : Verdict) (s : State) (hw : MemWf s) : MemWf (setStop v s) := by
  unfold setStop
  repeat' (first | with_reducible (first | assumption | intro t x ht | intro t ht | apply memWf_foldl | apply wf_foldl | apply wf_wrBytes | apply wf_wrByte | apply wf_wrWord | apply wf_wrHalf | apply wf_wrPair | apply wf_zeroRange | apply wf_obPut |  apply wf_setAb | (fail_if_no_progress refine memWf_same rfl rfl ?_)) | split | (rename_i he; have hd := congrArg Prod.snd he; dsimp only at hd; subst hd) | dsimp only | constructor | with_reducible (first | apply MemWf.ib | apply MemWf.ob | apply MemWf.ab | apply MemWf.rx | apply MemWf.sram | apply MemWf.near | apply MemWf.sbuf) | (simp [*]; done))
@[simp] theorem mem_release (ix num : Nat) (ts : List Nat) (s : State) (hw : MemWf s) : MemWf (release ix num ts s) := by
  unfold release
  repeat' (first | with_reducible (first | assumption | intro t x ht | intro t ht | apply mem_modEntry | apply mem_modPtn | apply memWf_foldl | apply wf_foldl | apply wf_wrBytes | apply wf_wrByte | apply wf_wrWord | apply wf_wrHalf | apply wf_wrPair | apply wf_zeroRange | apply wf_obPut |  apply wf_setAb | (fail_if_no_progress refine memWf_same rfl rfl ?_)) | split | (rename_i he; have hd := congrArg Prod.snd he; dsimp only at hd; subst hd) | dsimp only | constructor | with_reducible (first | apply MemWf.ib | apply MemWf.ob | apply MemWf.ab | apply MemWf.rx | apply MemWf.sram | apply MemWf.near | apply MemWf.sbuf) | (simp [*]; done))
@[simp] theorem mem_finish (ix : Nat) (s : State) (hw : MemWf s) : MemWf (finish ix s) := by
  unfold finish; split <;> simp [*]
theorem mem_drafts (f : List Node × State → Nat → List Node × State) (h : ∀ z k, MemWf z.2 → MemWf (f z k).2) (l : List Nat) (z : List Node × State)
    (hw : MemWf z.2) : MemWf (l.foldl f z).2 := by
  induction l generalizing z with
  | nil => exact hw
  | cons x xs ih => exact ih _ (h _ _ hw)
@[simp] theorem mem_nextDraft (l : Lane) (s : State) (hw : MemWf s) : MemWf (nextDraft l s).2 := by
  unfold nextDraft
  split
  · exact hw
  · split
    · exact hw
    · apply mem_drafts
      · intro z k hz; exact mem_draw _ hz
      · exact hw
@[simp] theorem mem_advance (l : Lane) (num kv : Nat) (v : Verdict) (ts : List Nat) (fin : Bool) (s : State) (hw : MemWf s) : MemWf (advance l num kv v ts fin s) := by
  unfold advance
  repeat' (first | with_reducible (first | assumption | intro t x ht | intro t ht | apply mem_setStop | apply mem_release | apply mem_nextDraft | apply mem_modEntry | apply mem_finish | apply memWf_foldl | apply wf_foldl | apply wf_wrBytes | apply wf_wrByte | apply wf_wrWord | apply wf_wrHalf | apply wf_wrPair | apply wf_zeroRange | apply wf_obPut |  apply wf_setAb | (fail_if_no_progress refine memWf_same rfl rfl ?_)) | split | (rename_i he; have hd := congrArg Prod.snd he; dsimp only at hd; subst hd) | dsimp only | constructor | with_reducible (first | apply MemWf.ib | apply MemWf.ob | apply MemWf.ab | apply MemWf.rx | apply MemWf.sram | apply MemWf.near | apply MemWf.sbuf) | (simp [*]; done))
@[simp] theorem mem_fillLane (l : Lane) (kv : Nat) (s : State) (hw : MemWf s) : MemWf (fillLane l kv s) := by
  unfold fillLane
  repeat' (first | with_reducible (first | assumption | intro t x ht | intro t ht | apply mem_fillPage | apply memWf_foldl | apply wf_foldl | apply wf_wrBytes | apply wf_wrByte | apply wf_wrWord | apply wf_wrHalf | apply wf_wrPair | apply wf_zeroRange | apply wf_obPut |  apply wf_setAb | (fail_if_no_progress refine memWf_same rfl rfl ?_)) | split | (rename_i he; have hd := congrArg Prod.snd he; dsimp only at hd; subst hd) | dsimp only | constructor | with_reducible (first | apply MemWf.ib | apply MemWf.ob | apply MemWf.ab | apply MemWf.rx | apply MemWf.sram | apply MemWf.near | apply MemWf.sbuf) | (simp [*]; done))
@[simp] theorem mem_moveTree (l : Lane) (path : List Nat) (s : State) (hw : MemWf s) : MemWf (moveTree l path s) := by
  unfold moveTree
  repeat' (first | with_reducible (first | assumption | intro t x ht | intro t ht | apply mem_moveNode | apply memWf_foldl | apply wf_foldl | apply wf_wrBytes | apply wf_wrByte | apply wf_wrWord | apply wf_wrHalf | apply wf_wrPair | apply wf_zeroRange | apply wf_obPut |  apply wf_setAb | (fail_if_no_progress refine memWf_same rfl rfl ?_)) | split | (rename_i he; have hd := congrArg Prod.snd he; dsimp only at hd; subst hd) | dsimp only | constructor | with_reducible (first | apply MemWf.ib | apply MemWf.ob | apply MemWf.ab | apply MemWf.rx | apply MemWf.sram | apply MemWf.near | apply MemWf.sbuf) | (simp [*]; done))
@[simp] theorem mem_laneOutcome (c : StepRec) (l : Lane) (s : State) (hw : MemWf s) : MemWf (laneOutcome c l s) := by
  unfold laneOutcome
  repeat' (first | with_reducible (first | assumption | intro t x ht | intro t ht | apply mem_modEntry | apply mem_fillLane | apply mem_advance | apply mem_moveTree | apply memWf_foldl | apply wf_foldl | apply wf_wrBytes | apply wf_wrByte | apply wf_wrWord | apply wf_wrHalf | apply wf_wrPair | apply wf_zeroRange | apply wf_obPut |  apply wf_setAb | (fail_if_no_progress refine memWf_same rfl rfl ?_)) | split | (rename_i he; have hd := congrArg Prod.snd he; dsimp only at hd; subst hd) | dsimp only | constructor | with_reducible (first | apply MemWf.ib | apply MemWf.ob | apply MemWf.ab | apply MemWf.rx | apply MemWf.sram | apply MemWf.near | apply MemWf.sbuf) | (simp [*]; done))
@[simp] theorem mem_addDigCol (array plane col : Nat) (persist : Bool) (s : State) (hw : MemWf s) : MemWf (addDigCol array plane col persist s) := by
  unfold addDigCol
  repeat' (first | with_reducible (first | assumption | intro t x ht | intro t ht | apply mem_fire | apply memWf_foldl | apply wf_foldl | apply wf_wrBytes | apply wf_wrByte | apply wf_wrWord | apply wf_wrHalf | apply wf_wrPair | apply wf_zeroRange | apply wf_obPut |  apply wf_setAb | (fail_if_no_progress refine memWf_same rfl rfl ?_)) | split | (rename_i he; have hd := congrArg Prod.snd he; dsimp only at hd; subst hd) | dsimp only | constructor | with_reducible (first | apply MemWf.ib | apply MemWf.ob | apply MemWf.ab | apply MemWf.rx | apply MemWf.sram | apply MemWf.near | apply MemWf.sbuf) | (simp [*]; done))
@[simp] theorem mem_modDigcol (core : Nat) (f : List DigCol → List DigCol) (s : State) (hw : MemWf s) : MemWf (modDigcol core f s) := by
  simp [modDigcol, *]
@[simp] theorem mem_satColumn (pk col : Nat) (s : State) (hw : MemWf s) : MemWf (satColumn pk col s) := by
  unfold satColumn
  repeat' (first | with_reducible (first | assumption | intro t x ht | intro t ht | apply mem_addDigCol | apply memWf_foldl | apply wf_foldl | apply wf_wrBytes | apply wf_wrByte | apply wf_wrWord | apply wf_wrHalf | apply wf_wrPair | apply wf_zeroRange | apply wf_obPut |  apply wf_setAb | (fail_if_no_progress refine memWf_same rfl rfl ?_)) | split | (rename_i he; have hd := congrArg Prod.snd he; dsimp only at hd; subst hd) | dsimp only | constructor | with_reducible (first | apply MemWf.ib | apply MemWf.ob | apply MemWf.ab | apply MemWf.rx | apply MemWf.sram | apply MemWf.near | apply MemWf.sbuf) | (simp [*]; done))
@[simp] theorem mem_satCommit (s : State) (hw : MemWf s) : MemWf (satCommit s) := by
  unfold satCommit
  repeat' (first | with_reducible (first | assumption | intro t x ht | intro t ht | apply mem_satColumn | apply memWf_foldl | apply wf_foldl | apply wf_wrBytes | apply wf_wrByte | apply wf_wrWord | apply wf_wrHalf | apply wf_wrPair | apply wf_zeroRange | apply wf_obPut |  apply wf_setAb | (fail_if_no_progress refine memWf_same rfl rfl ?_)) | split | (rename_i he; have hd := congrArg Prod.snd he; dsimp only at hd; subst hd) | dsimp only | constructor | with_reducible (first | apply MemWf.ib | apply MemWf.ob | apply MemWf.ab | apply MemWf.rx | apply MemWf.sram | apply MemWf.near | apply MemWf.sbuf) | (simp [*]; done))
@[simp] theorem mem_cleanCommit (s : State) (hw : MemWf s) : MemWf (cleanCommit s) := by
  simp [cleanCommit, *]
@[simp] theorem mem_countReport (step : Nat) (k : Nat) (s : State) (hw : MemWf s) : MemWf (countReport step k s) := by
  unfold countReport
  repeat' (first | with_reducible (first | assumption | intro t x ht | intro t ht | apply mem_fireArg | apply memWf_foldl | apply wf_foldl | apply wf_wrBytes | apply wf_wrByte | apply wf_wrWord | apply wf_wrHalf | apply wf_wrPair | apply wf_zeroRange | apply wf_obPut |  apply wf_setAb | (fail_if_no_progress refine memWf_same rfl rfl ?_)) | split | (rename_i he; have hd := congrArg Prod.snd he; dsimp only at hd; subst hd) | dsimp only | constructor | with_reducible (first | apply MemWf.ib | apply MemWf.ob | apply MemWf.ab | apply MemWf.rx | apply MemWf.sram | apply MemWf.near | apply MemWf.sbuf) | (simp [*]; done))
@[simp] theorem mem_reportCommit (step : Nat) (s : State) (hw : MemWf s) : MemWf (reportCommit step s) := by
  unfold reportCommit
  repeat' (first | with_reducible (first | assumption | intro t x ht | intro t ht | apply mem_countReport | apply memWf_foldl | apply wf_foldl | apply wf_wrBytes | apply wf_wrByte | apply wf_wrWord | apply wf_wrHalf | apply wf_wrPair | apply wf_zeroRange | apply wf_obPut |  apply wf_setAb | (fail_if_no_progress refine memWf_same rfl rfl ?_)) | split | (rename_i he; have hd := congrArg Prod.snd he; dsimp only at hd; subst hd) | dsimp only | constructor | with_reducible (first | apply MemWf.ib | apply MemWf.ob | apply MemWf.ab | apply MemWf.rx | apply MemWf.sram | apply MemWf.near | apply MemWf.sbuf) | (simp [*]; done))
@[simp] theorem mem_layerCounts (canvas step : Nat) (s : State) (hw : MemWf s) : MemWf (layerCounts canvas step s) := by
  unfold layerCounts
  repeat' (first | with_reducible (first | assumption | intro t x ht | intro t ht | apply mem_fireArg | apply memWf_foldl | apply wf_foldl | apply wf_wrBytes | apply wf_wrByte | apply wf_wrWord | apply wf_wrHalf | apply wf_wrPair | apply wf_zeroRange | apply wf_obPut |  apply wf_setAb | (fail_if_no_progress refine memWf_same rfl rfl ?_)) | split | (rename_i he; have hd := congrArg Prod.snd he; dsimp only at hd; subst hd) | dsimp only | constructor | with_reducible (first | apply MemWf.ib | apply MemWf.ob | apply MemWf.ab | apply MemWf.rx | apply MemWf.sram | apply MemWf.near | apply MemWf.sbuf) | (simp [*]; done))
@[simp] theorem mem_varCommit (s : State) (hw : MemWf s) : MemWf (varCommit s) := by
  simp [varCommit, *]
@[simp] theorem mem_addSample (half : Nat) (x : Sample) (s : State) (hw : MemWf s) : MemWf (addSample half x s) := by
  simp [addSample, *]
@[simp] theorem mem_statCommit (num : Nat) (s : State) (hw : MemWf s) : MemWf (statCommit num s) := by
  unfold statCommit
  repeat' (first | with_reducible (first | assumption | intro t x ht | intro t ht | apply mem_addSample | apply memWf_foldl | apply wf_foldl | apply wf_wrBytes | apply wf_wrByte | apply wf_wrWord | apply wf_wrHalf | apply wf_wrPair | apply wf_zeroRange | apply wf_obPut |  apply wf_setAb | (fail_if_no_progress refine memWf_same rfl rfl ?_)) | split | (rename_i he; have hd := congrArg Prod.snd he; dsimp only at hd; subst hd) | dsimp only | constructor | with_reducible (first | apply MemWf.ib | apply MemWf.ob | apply MemWf.ab | apply MemWf.rx | apply MemWf.sram | apply MemWf.near | apply MemWf.sbuf) | (simp [*]; done))
@[simp] theorem mem_setEntry (drift : Bool) (key : Nat) (v : Int × Int) (s : State) (hw : MemWf s) : MemWf (setEntry drift key v s) := by
  simp [setEntry, *]
@[simp] theorem mem_stepRamps (p : Ramp → Bool) (s : State) (hw : MemWf s) : MemWf (stepRamps p s) := by
  unfold stepRamps
  repeat' (first | with_reducible (first | assumption | intro t x ht | intro t ht | apply mem_setEntry | apply memWf_foldl | apply wf_foldl | apply wf_wrBytes | apply wf_wrByte | apply wf_wrWord | apply wf_wrHalf | apply wf_wrPair | apply wf_zeroRange | apply wf_obPut |  apply wf_setAb | (fail_if_no_progress refine memWf_same rfl rfl ?_)) | split | (rename_i he; have hd := congrArg Prod.snd he; dsimp only at hd; subst hd) | dsimp only | constructor | with_reducible (first | apply MemWf.ib | apply MemWf.ob | apply MemWf.ab | apply MemWf.rx | apply MemWf.sram | apply MemWf.near | apply MemWf.sbuf) | (simp [*]; done))
@[simp] theorem mem_raiseFloor (c : Nat) (s : State) (hw : MemWf s) : MemWf (raiseFloor c s) := by
  unfold raiseFloor
  repeat' (first | with_reducible (first | assumption | intro t x ht | intro t ht | apply mem_modCnv | apply mem_raiseAll | apply mem_fire | apply mem_calDue | apply memWf_foldl | apply wf_foldl | apply wf_wrBytes | apply wf_wrByte | apply wf_wrWord | apply wf_wrHalf | apply wf_wrPair | apply wf_zeroRange | apply wf_obPut |  apply wf_setAb | (fail_if_no_progress refine memWf_same rfl rfl ?_)) | split | (rename_i he; have hd := congrArg Prod.snd he; dsimp only at hd; subst hd) | dsimp only | constructor | with_reducible (first | apply MemWf.ib | apply MemWf.ob | apply MemWf.ab | apply MemWf.rx | apply MemWf.sram | apply MemWf.near | apply MemWf.sbuf) | (simp [*]; done))
@[simp] theorem mem_floorCommit (c : StepRec) (s : State) (hw : MemWf s) : MemWf (floorCommit c s) := by
  unfold floorCommit
  repeat' (first | with_reducible (first | assumption | intro t x ht | intro t ht | apply mem_modCnv | apply mem_raiseFloor | apply memWf_foldl | apply wf_foldl | apply wf_wrBytes | apply wf_wrByte | apply wf_wrWord | apply wf_wrHalf | apply wf_wrPair | apply wf_zeroRange | apply wf_obPut |  apply wf_setAb | (fail_if_no_progress refine memWf_same rfl rfl ?_)) | split | (rename_i he; have hd := congrArg Prod.snd he; dsimp only at hd; subst hd) | dsimp only | constructor | with_reducible (first | apply MemWf.ib | apply MemWf.ob | apply MemWf.ab | apply MemWf.rx | apply MemWf.sram | apply MemWf.near | apply MemWf.sbuf) | (simp [*]; done))
@[simp] theorem mem_commitHolders (c : StepRec) (s : State) (hw : MemWf s) : MemWf (commitHolders c s) := by
  unfold commitHolders
  repeat' (first | with_reducible (first | assumption | intro t x ht | intro t ht | apply mem_laneOutcome | apply mem_layerCounts | apply mem_reportCommit | apply mem_cleanCommit | apply mem_satCommit | apply mem_floorCommit | apply mem_stepRamps | apply mem_statCommit | apply mem_varCommit | apply memWf_foldl | apply wf_foldl | apply wf_wrBytes | apply wf_wrByte | apply wf_wrWord | apply wf_wrHalf | apply wf_wrPair | apply wf_zeroRange | apply wf_obPut |  apply wf_setAb | (fail_if_no_progress refine memWf_same rfl rfl ?_)) | split | (rename_i he; have hd := congrArg Prod.snd he; dsimp only at hd; subst hd) | dsimp only | constructor | with_reducible (first | apply MemWf.ib | apply MemWf.ob | apply MemWf.ab | apply MemWf.rx | apply MemWf.sram | apply MemWf.near | apply MemWf.sbuf) | (simp [*]; done))
@[simp] theorem mem_settleXfers (c : StepRec) (s : State) (hw : MemWf s) : MemWf (settleXfers c s) := by
  simp [settleXfers, *]
@[simp] theorem mem_countStep (s : State) (hw : MemWf s) : MemWf (countStep s) := by
  simp [countStep, *]
@[simp] theorem mem_commitOp (s : State) (hw : MemWf s) : MemWf (commitOp s) := by
  unfold commitOp
  repeat' (first | with_reducible (first | assumption | intro t x ht | intro t ht | apply mem_countStep | apply mem_retireKilled | apply mem_clearStep | apply mem_commitHolders | apply mem_settleXfers | apply memWf_foldl | apply wf_foldl | apply wf_wrBytes | apply wf_wrByte | apply wf_wrWord | apply wf_wrHalf | apply wf_wrPair | apply wf_zeroRange | apply wf_obPut |  apply wf_setAb | (fail_if_no_progress refine memWf_same rfl rfl ?_)) | split | (rename_i he; have hd := congrArg Prod.snd he; dsimp only at hd; subst hd) | dsimp only | constructor | with_reducible (first | apply MemWf.ib | apply MemWf.ob | apply MemWf.ab | apply MemWf.rx | apply MemWf.sram | apply MemWf.near | apply MemWf.sbuf) | (simp [*]; done))
/-! ### Boundary -/
@[simp] theorem mem_beginPause (ix : Nat) (s : State) (hw : MemWf s) : MemWf (beginPause ix s) := by
  unfold beginPause
  repeat' (first | with_reducible (first | assumption | intro t x ht | intro t ht | apply mem_modEntry | apply mem_complete | apply memWf_foldl | apply wf_foldl | apply wf_wrBytes | apply wf_wrByte | apply wf_wrWord | apply wf_wrHalf | apply wf_wrPair | apply wf_zeroRange | apply wf_obPut |  apply wf_setAb | (fail_if_no_progress refine memWf_same rfl rfl ?_)) | split | (rename_i he; have hd := congrArg Prod.snd he; dsimp only at hd; subst hd) | dsimp only | constructor | with_reducible (first | apply MemWf.ib | apply MemWf.ob | apply MemWf.ab | apply MemWf.rx | apply MemWf.sram | apply MemWf.near | apply MemWf.sbuf) | (simp [*]; done))
@[simp] theorem mem_beginResume (ix : Nat) (s : State) (hw : MemWf s) : MemWf (beginResume ix s) := by
  unfold beginResume
  repeat' (first | with_reducible (first | assumption | intro t x ht | intro t ht | apply mem_modEntry | apply memWf_foldl | apply wf_foldl | apply wf_wrBytes | apply wf_wrByte | apply wf_wrWord | apply wf_wrHalf | apply wf_wrPair | apply wf_zeroRange | apply wf_obPut |  apply wf_setAb | (fail_if_no_progress refine memWf_same rfl rfl ?_)) | split | (rename_i he; have hd := congrArg Prod.snd he; dsimp only at hd; subst hd) | dsimp only | constructor | with_reducible (first | apply MemWf.ib | apply MemWf.ob | apply MemWf.ab | apply MemWf.rx | apply MemWf.sram | apply MemWf.near | apply MemWf.sbuf) | (simp [*]; done))
@[simp] theorem mem_suspendOp (ix : Nat) (s : State) (hw : MemWf s) : MemWf (suspendOp ix s) := by
  unfold suspendOp
  repeat' (first | with_reducible (first | assumption | intro t x ht | intro t ht | apply mem_modEntry | apply memWf_foldl | apply wf_foldl | apply wf_wrBytes | apply wf_wrByte | apply wf_wrWord | apply wf_wrHalf | apply wf_wrPair | apply wf_zeroRange | apply wf_obPut |  apply wf_setAb | (fail_if_no_progress refine memWf_same rfl rfl ?_)) | split | (rename_i he; have hd := congrArg Prod.snd he; dsimp only at hd; subst hd) | dsimp only | constructor | with_reducible (first | apply MemWf.ib | apply MemWf.ob | apply MemWf.ab | apply MemWf.rx | apply MemWf.sram | apply MemWf.near | apply MemWf.sbuf) | (simp [*]; done))
@[simp] theorem mem_heldOp (ix : Nat) (s : State) (hw : MemWf s) : MemWf (heldOp ix s) := by
  unfold heldOp
  repeat' (first | with_reducible (first | assumption | intro t x ht | intro t ht | apply mem_hold | apply mem_modEntry | apply memWf_foldl | apply wf_foldl | apply wf_wrBytes | apply wf_wrByte | apply wf_wrWord | apply wf_wrHalf | apply wf_wrPair | apply wf_zeroRange | apply wf_obPut |  apply wf_setAb | (fail_if_no_progress refine memWf_same rfl rfl ?_)) | split | (rename_i he; have hd := congrArg Prod.snd he; dsimp only at hd; subst hd) | dsimp only | constructor | with_reducible (first | apply MemWf.ib | apply MemWf.ob | apply MemWf.ab | apply MemWf.rx | apply MemWf.sram | apply MemWf.near | apply MemWf.sbuf) | (simp [*]; done))
@[simp] theorem mem_admitWaiting (ix : Nat) (s : State) (hw : MemWf s) : MemWf (admitWaiting ix s) := by
  unfold admitWaiting
  repeat' (first | with_reducible (first | assumption | intro t x ht | intro t ht | apply mem_replyLate | apply mem_modEntry | apply memWf_foldl | apply wf_foldl | apply wf_wrBytes | apply wf_wrByte | apply wf_wrWord | apply wf_wrHalf | apply wf_wrPair | apply wf_zeroRange | apply wf_obPut |  apply wf_setAb | (fail_if_no_progress refine memWf_same rfl rfl ?_)) | split | (rename_i he; have hd := congrArg Prod.snd he; dsimp only at hd; subst hd) | dsimp only | constructor | with_reducible (first | apply MemWf.ib | apply MemWf.ob | apply MemWf.ab | apply MemWf.rx | apply MemWf.sram | apply MemWf.near | apply MemWf.sbuf) | (simp [*]; done))
@[simp] theorem mem_boundaryEntry (s : State) (ix : Nat) (hw : MemWf s) : MemWf (boundaryEntry s ix) := by
  unfold boundaryEntry
  repeat' (first | with_reducible (first | assumption | intro t x ht | intro t ht | apply mem_retire | apply mem_retireWith | apply mem_modEntry | apply mem_beginPause | apply mem_beginResume | apply mem_heldOp | apply mem_suspendOp | apply mem_admitWaiting | apply memWf_foldl | apply wf_foldl | apply wf_wrBytes | apply wf_wrByte | apply wf_wrWord | apply wf_wrHalf | apply wf_wrPair | apply wf_zeroRange | apply wf_obPut |  apply wf_setAb | (fail_if_no_progress refine memWf_same rfl rfl ?_)) | split | (rename_i he; have hd := congrArg Prod.snd he; dsimp only at hd; subst hd) | dsimp only | constructor | with_reducible (first | apply MemWf.ib | apply MemWf.ob | apply MemWf.ab | apply MemWf.rx | apply MemWf.sram | apply MemWf.near | apply MemWf.sbuf) | (simp [*]; done))
@[simp] theorem mem_disablePtn (s : State) (n : Nat) (hw : MemWf s) : MemWf (disablePtn s n) := by
  unfold disablePtn
  repeat' (first | with_reducible (first | assumption | intro t x ht | intro t ht | apply mem_modPtn | apply memWf_foldl | apply wf_foldl | apply wf_wrBytes | apply wf_wrByte | apply wf_wrWord | apply wf_wrHalf | apply wf_wrPair | apply wf_zeroRange | apply wf_obPut |  apply wf_setAb | (fail_if_no_progress refine memWf_same rfl rfl ?_)) | split | (rename_i he; have hd := congrArg Prod.snd he; dsimp only at hd; subst hd) | dsimp only | constructor | with_reducible (first | apply MemWf.ib | apply MemWf.ob | apply MemWf.ab | apply MemWf.rx | apply MemWf.sram | apply MemWf.near | apply MemWf.sbuf) | (simp [*]; done))
@[simp] theorem mem_settleCnv (s : State) (c : Nat) (hw : MemWf s) : MemWf (settleCnv s c) := by
  unfold settleCnv
  repeat' (first | with_reducible (first | assumption | intro t x ht | intro t ht | apply mem_modEntry | apply mem_modCnv | apply memWf_foldl | apply wf_foldl | apply wf_wrBytes | apply wf_wrByte | apply wf_wrWord | apply wf_wrHalf | apply wf_wrPair | apply wf_zeroRange | apply wf_obPut |  apply wf_setAb | (fail_if_no_progress refine memWf_same rfl rfl ?_)) | split | (rename_i he; have hd := congrArg Prod.snd he; dsimp only at hd; subst hd) | dsimp only | constructor | with_reducible (first | apply MemWf.ib | apply MemWf.ob | apply MemWf.ab | apply MemWf.rx | apply MemWf.sram | apply MemWf.near | apply MemWf.sbuf) | (simp [*]; done))
@[simp] theorem mem_holdLost (s : State) (hw : MemWf s) : MemWf (holdLost s) := by
  unfold holdLost
  repeat' (first | with_reducible (first | assumption | intro t x ht | intro t ht | apply mem_modCnv | apply mem_holdCanvas | apply memWf_foldl | apply wf_foldl | apply wf_wrBytes | apply wf_wrByte | apply wf_wrWord | apply wf_wrHalf | apply wf_wrPair | apply wf_zeroRange | apply wf_obPut |  apply wf_setAb | (fail_if_no_progress refine memWf_same rfl rfl ?_)) | split | (rename_i he; have hd := congrArg Prod.snd he; dsimp only at hd; subst hd) | dsimp only | constructor | with_reducible (first | apply MemWf.ib | apply MemWf.ob | apply MemWf.ab | apply MemWf.rx | apply MemWf.sram | apply MemWf.near | apply MemWf.sbuf) | (simp [*]; done))
@[simp] theorem mem_updateWork (s : State) (hw : MemWf s) : MemWf (updateWork s) := by
  unfold updateWork
  repeat' (first | (simp [*]; done) | split)
@[simp] theorem mem_boundaryWork (s : State) (hw : MemWf s) : MemWf (boundaryWork s) := by
  unfold boundaryWork
  repeat' (first | with_reducible (first | assumption | intro t x ht | intro t ht | apply mem_updateWork | apply mem_holdLost | apply mem_auditOff | apply mem_boundaryEntry | apply mem_settleCnv | apply mem_disablePtn | apply mem_freeTints | apply memWf_foldl | apply wf_foldl | apply wf_wrBytes | apply wf_wrByte | apply wf_wrWord | apply wf_wrHalf | apply wf_wrPair | apply wf_zeroRange | apply wf_obPut |  apply wf_setAb | (fail_if_no_progress refine memWf_same rfl rfl ?_)) | split | (rename_i he; have hd := congrArg Prod.snd he; dsimp only at hd; subst hd) | dsimp only | constructor | with_reducible (first | apply MemWf.ib | apply MemWf.ob | apply MemWf.ab | apply MemWf.rx | apply MemWf.sram | apply MemWf.near | apply MemWf.sbuf) | (simp [*]; done))
@[simp] theorem mem_writeRegion (s : State) (hw : MemWf s) : MemWf (writeRegion s) := by
  simp [writeRegion, *]
/-! ### Compose -/
@[simp] theorem mem_prepareLane (b : Bundle) (s : State) (l : Lane) (hw : MemWf s) : MemWf (prepareLane b s l) := by
  unfold prepareLane
  repeat' (first | with_reducible (first | assumption | intro t x ht | intro t ht | apply mem_ensureSlots | apply mem_writeMask | apply mem_modEntry | apply memWf_foldl | apply wf_foldl | apply wf_wrBytes | apply wf_wrByte | apply wf_wrWord | apply wf_wrHalf | apply wf_wrPair | apply wf_zeroRange | apply wf_obPut |  apply wf_setAb | (fail_if_no_progress refine memWf_same rfl rfl ?_)) | split | (rename_i he; have hd := congrArg Prod.snd he; dsimp only at hd; subst hd) | dsimp only | constructor | with_reducible (first | apply MemWf.ib | apply MemWf.ob | apply MemWf.ab | apply MemWf.rx | apply MemWf.sram | apply MemWf.near | apply MemWf.sbuf) | (simp [*]; done))
@[simp] theorem mem_setPlan (cl : Nat) (p : List SliceId) (s : State) (hw : MemWf s) : MemWf (setPlan cl p s) := by
  simp [setPlan, *]
@[simp] theorem mem_planCaches (s : State) (hw : MemWf s) : MemWf (planCaches s) := by
  unfold planCaches
  repeat' (first | with_reducible (first | assumption | intro t x ht | intro t ht | apply mem_setPlan | apply memWf_foldl | apply wf_foldl | apply wf_wrBytes | apply wf_wrByte | apply wf_wrWord | apply wf_wrHalf | apply wf_wrPair | apply wf_zeroRange | apply wf_obPut |  apply wf_setAb | (fail_if_no_progress refine memWf_same rfl rfl ?_)) | split | (rename_i he; have hd := congrArg Prod.snd he; dsimp only at hd; subst hd) | dsimp only | constructor | with_reducible (first | apply MemWf.ib | apply MemWf.ob | apply MemWf.ab | apply MemWf.rx | apply MemWf.sram | apply MemWf.near | apply MemWf.sbuf) | (simp [*]; done))
@[simp] theorem mem_retireNoa8 (c : Nat) (s : State) (hw : MemWf s) : MemWf (retireNoa8 c s) := by
  unfold retireNoa8
  repeat' (first | with_reducible (first | assumption | intro t x ht | intro t ht | apply mem_retireWith | apply memWf_foldl | apply wf_foldl | apply wf_wrBytes | apply wf_wrByte | apply wf_wrWord | apply wf_wrHalf | apply wf_wrPair | apply wf_zeroRange | apply wf_obPut |  apply wf_setAb | (fail_if_no_progress refine memWf_same rfl rfl ?_)) | split | (rename_i he; have hd := congrArg Prod.snd he; dsimp only at hd; subst hd) | dsimp only | constructor | with_reducible (first | apply MemWf.ib | apply MemWf.ob | apply MemWf.ab | apply MemWf.rx | apply MemWf.sram | apply MemWf.near | apply MemWf.sbuf) | (simp [*]; done))
@[simp] theorem mem_writeDescs (ls : List Lane) (s : State) (cl : Nat) (hw : MemWf s) : MemWf (writeDescs ls s cl) := by
  simp [writeDescs, *]
@[simp] theorem mem_sendDescs (r : StepRec) (s : State) (hw : MemWf s) : MemWf (sendDescs r s) := by
  unfold sendDescs
  repeat' (first | with_reducible (first | assumption | intro t x ht | intro t ht | apply mem_writeDescs | apply memWf_foldl | apply wf_foldl | apply wf_wrBytes | apply wf_wrByte | apply wf_wrWord | apply wf_wrHalf | apply wf_wrPair | apply wf_zeroRange | apply wf_obPut |  apply wf_setAb | (fail_if_no_progress refine memWf_same rfl rfl ?_)) | split | (rename_i he; have hd := congrArg Prod.snd he; dsimp only at hd; subst hd) | dsimp only | constructor | with_reducible (first | apply MemWf.ib | apply MemWf.ob | apply MemWf.ab | apply MemWf.rx | apply MemWf.sram | apply MemWf.near | apply MemWf.sbuf) | (simp [*]; done))
@[simp] theorem mem_startStep (b : Bundle) (c : Nat) (s : State) (hw : MemWf s) : MemWf (startStep b c s) := by
  unfold startStep
  repeat' (first | with_reducible (first | assumption | intro t x ht | intro t ht | apply mem_stepRamps | apply mem_prepareLane | apply mem_schedToAll | apply mem_fetchRows | apply mem_sendDescs | apply memWf_foldl | apply wf_foldl | apply wf_wrBytes | apply wf_wrByte | apply wf_wrWord | apply wf_wrHalf | apply wf_wrPair | apply wf_zeroRange | apply wf_obPut |  apply wf_setAb | (fail_if_no_progress refine memWf_same rfl rfl ?_)) | split | (rename_i he; have hd := congrArg Prod.snd he; dsimp only at hd; subst hd) | dsimp only | constructor | with_reducible (first | apply MemWf.ib | apply MemWf.ob | apply MemWf.ab | apply MemWf.rx | apply MemWf.sram | apply MemWf.near | apply MemWf.sbuf) | (simp [*]; done))
@[simp] theorem mem_composeOp (s : State) (hw : MemWf s) : MemWf (composeOp s) := by
  unfold composeOp
  repeat' (first | with_reducible (first | assumption | intro t x ht | intro t ht | apply mem_planCaches | apply mem_writeRegion | apply mem_boundaryWork | apply mem_startStep | apply mem_retireNoa8 | apply memWf_foldl | apply wf_foldl | apply wf_wrBytes | apply wf_wrByte | apply wf_wrWord | apply wf_wrHalf | apply wf_wrPair | apply wf_zeroRange | apply wf_obPut |  apply wf_setAb | (fail_if_no_progress refine memWf_same rfl rfl ?_)) | split | (rename_i he; have hd := congrArg Prod.snd he; dsimp only at hd; subst hd) | dsimp only | constructor | with_reducible (first | apply MemWf.ib | apply MemWf.ob | apply MemWf.ab | apply MemWf.rx | apply MemWf.sram | apply MemWf.near | apply MemWf.sbuf) | (simp [*]; done))
@[simp] theorem mem_energySample (uj : Nat) (s : State) (hw : MemWf s) : MemWf (energySample uj s) := by
  simp [energySample, *]
@[simp] theorem mem_floorExpire (c : Nat) (s : State) (hw : MemWf s) : MemWf (floorExpire c s) := by
  unfold floorExpire
  repeat' (first | with_reducible (first | assumption | intro t x ht | intro t ht | apply mem_raiseAll | apply mem_fire | apply mem_modCnv | apply memWf_foldl | apply wf_foldl | apply wf_wrBytes | apply wf_wrByte | apply wf_wrWord | apply wf_wrHalf | apply wf_wrPair | apply wf_zeroRange | apply wf_obPut |  apply wf_setAb | (fail_if_no_progress refine memWf_same rfl rfl ?_)) | split | (rename_i he; have hd := congrArg Prod.snd he; dsimp only at hd; subst hd) | dsimp only | constructor | with_reducible (first | apply MemWf.ib | apply MemWf.ob | apply MemWf.ab | apply MemWf.rx | apply MemWf.sram | apply MemWf.near | apply MemWf.sbuf) | (simp [*]; done))

end Sys2Proof.Machine
end

