-- ==== Sys2Proof/Laws/MemHost.lean ====
section
/-! SUPPORT. The canonical form of the memories under the calibration, fences, host commands, staging and programming. -/

namespace Sys2Proof.Machine

/-! ### Calibrate -/
@[simp] theorem mem_exhaustArray (array detail : Nat) (s : State) (hw : MemWf s) : MemWf (exhaustArray array detail s) := by
  unfold exhaustArray; split <;> simp [*]
@[simp] theorem mem_wantRemap (array plane col : Nat) (s : State) (hw : MemWf s) : MemWf (wantRemap array plane col s) := by
  unfold wantRemap
  repeat' (first | with_reducible (first | assumption | intro t x ht | intro t ht | apply mem_addDigCol | apply mem_modDigcol | apply memWf_foldl | apply wf_foldl | apply wf_wrBytes | apply wf_wrByte | apply wf_wrWord | apply wf_wrHalf | apply wf_wrPair | apply wf_zeroRange | apply wf_obPut |  apply wf_setAb | (fail_if_no_progress refine memWf_same rfl rfl ?_)) | split | (rename_i he; have hd := congrArg Prod.snd he; dsimp only at hd; subst hd) | dsimp only | constructor | with_reducible (first | apply MemWf.ib | apply MemWf.ob | apply MemWf.ab | apply MemWf.rx | apply MemWf.sram | apply MemWf.near | apply MemWf.sbuf) | (simp [*]; done))
@[simp] theorem mem_place (core : Nat) (drift : Bool) (key : Nat) (v : Int × Int) (s : State) (hw : MemWf s) : MemWf (place core drift key v s) := by
  simp [place, *]
@[simp] theorem mem_discard (cl key unit level col : Nat) (s : State) (hw : MemWf s) : MemWf (discard cl key unit level col s) := by
  unfold discard
  repeat' (first | with_reducible (first | assumption | intro t x ht | intro t ht | apply mem_fire | apply mem_modCal | apply memWf_foldl | apply wf_foldl | apply wf_wrBytes | apply wf_wrByte | apply wf_wrWord | apply wf_wrHalf | apply wf_wrPair | apply wf_zeroRange | apply wf_obPut |  apply wf_setAb | (fail_if_no_progress refine memWf_same rfl rfl ?_)) | split | (rename_i he; have hd := congrArg Prod.snd he; dsimp only at hd; subst hd) | dsimp only | constructor | with_reducible (first | apply MemWf.ib | apply MemWf.ob | apply MemWf.ab | apply MemWf.rx | apply MemWf.sram | apply MemWf.near | apply MemWf.sbuf) | (simp [*]; done))
@[simp] theorem mem_accept (key : Nat) (s : State) (hw : MemWf s) : MemWf (accept key s) := by
  simp [accept, *]
@[simp] theorem mem_measConv (m : CalMeas) (s : State) (hw : MemWf s) : MemWf (measConv m s) := by
  unfold measConv
  repeat' (first | with_reducible (first | assumption | intro t x ht | intro t ht | apply mem_discard | apply mem_exhaustArray | apply mem_place | apply mem_accept | apply memWf_foldl | apply wf_foldl | apply wf_wrBytes | apply wf_wrByte | apply wf_wrWord | apply wf_wrHalf | apply wf_wrPair | apply wf_zeroRange | apply wf_obPut |  apply wf_setAb | (fail_if_no_progress refine memWf_same rfl rfl ?_)) | split | (rename_i he; have hd := congrArg Prod.snd he; dsimp only at hd; subst hd) | dsimp only | constructor | with_reducible (first | apply MemWf.ib | apply MemWf.ob | apply MemWf.ab | apply MemWf.rx | apply MemWf.sram | apply MemWf.near | apply MemWf.sbuf) | (simp [*]; done))
@[simp] theorem mem_measSwatch (m : CalMeas) (s : State) (hw : MemWf s) : MemWf (measSwatch m s) := by
  unfold measSwatch
  repeat' (first | with_reducible (first | assumption | intro t x ht | intro t ht | apply mem_discard | apply mem_exhaustArray | apply mem_accept | apply memWf_foldl | apply wf_foldl | apply wf_wrBytes | apply wf_wrByte | apply wf_wrWord | apply wf_wrHalf | apply wf_wrPair | apply wf_zeroRange | apply wf_obPut |  apply wf_setAb | (fail_if_no_progress refine memWf_same rfl rfl ?_)) | split | (rename_i he; have hd := congrArg Prod.snd he; dsimp only at hd; subst hd) | dsimp only | constructor | with_reducible (first | apply MemWf.ib | apply MemWf.ob | apply MemWf.ab | apply MemWf.rx | apply MemWf.sram | apply MemWf.near | apply MemWf.sbuf) | (simp [*]; done))
@[simp] theorem mem_measure (s : State) (m : CalMeas) (hw : MemWf s) : MemWf (measure s m) := by
  unfold measure; split <;> simp [*]
@[simp] theorem mem_sendColumn (tile col : Nat) (s : State) (hw : MemWf s) : MemWf (sendColumn tile col s) := by
  unfold sendColumn
  repeat' (first | with_reducible (first | assumption | intro t x ht | intro t ht | apply mem_wantRemap | apply mem_healthUnit | apply mem_fire | apply memWf_foldl | apply wf_foldl | apply wf_wrBytes | apply wf_wrByte | apply wf_wrWord | apply wf_wrHalf | apply wf_wrPair | apply wf_zeroRange | apply wf_obPut |  apply wf_setAb | (fail_if_no_progress refine memWf_same rfl rfl ?_)) | split | (rename_i he; have hd := congrArg Prod.snd he; dsimp only at hd; subst hd) | dsimp only | constructor | with_reducible (first | apply MemWf.ib | apply MemWf.ob | apply MemWf.ab | apply MemWf.rx | apply MemWf.sram | apply MemWf.near | apply MemWf.sbuf) | (simp [*]; done))
@[simp] theorem mem_measDrift (tile : Nat) (h0 h1 : Stats) (s : State) (col : Nat) (hw : MemWf s) : MemWf (measDrift tile h0 h1 s col) := by
  unfold measDrift
  repeat' (first | with_reducible (first | assumption | intro t x ht | intro t ht | apply mem_discard | apply mem_recordFault | apply mem_sendColumn | apply mem_accept | apply mem_place | apply memWf_foldl | apply wf_foldl | apply wf_wrBytes | apply wf_wrByte | apply wf_wrWord | apply wf_wrHalf | apply wf_wrPair | apply wf_zeroRange | apply wf_obPut |  apply wf_setAb | (fail_if_no_progress refine memWf_same rfl rfl ?_)) | split | (rename_i he; have hd := congrArg Prod.snd he; dsimp only at hd; subst hd) | dsimp only | constructor | with_reducible (first | apply MemWf.ib | apply MemWf.ob | apply MemWf.ab | apply MemWf.rx | apply MemWf.sram | apply MemWf.near | apply MemWf.sbuf) | (simp [*]; done))
@[simp] theorem mem_measTile (s : State) (tile : Nat) (hw : MemWf s) : MemWf (measTile s tile) := by
  unfold measTile
  repeat' (first | with_reducible (first | assumption | intro t x ht | intro t ht | apply mem_measDrift | apply memWf_foldl | apply wf_foldl | apply wf_wrBytes | apply wf_wrByte | apply wf_wrWord | apply wf_wrHalf | apply wf_wrPair | apply wf_zeroRange | apply wf_obPut |  apply wf_setAb | (fail_if_no_progress refine memWf_same rfl rfl ?_)) | split | (rename_i he; have hd := congrArg Prod.snd he; dsimp only at hd; subst hd) | dsimp only | constructor | with_reducible (first | apply MemWf.ib | apply MemWf.ob | apply MemWf.ab | apply MemWf.rx | apply MemWf.sram | apply MemWf.near | apply MemWf.sbuf) | (simp [*]; done))
@[simp] theorem mem_calEvent (s : State) (hw : MemWf s) : MemWf (calEvent s) := by
  simp [calEvent, *]
@[simp] theorem mem_gapOpen (meas : List CalMeas) (s : State) (hw : MemWf s) : MemWf (gapOpen meas s) := by
  unfold gapOpen
  repeat' (first | with_reducible (first | assumption | intro t x ht | intro t ht | apply mem_calEvent | apply mem_modCal | apply mem_measTile | apply mem_measure | apply memWf_foldl | apply wf_foldl | apply wf_wrBytes | apply wf_wrByte | apply wf_wrWord | apply wf_wrHalf | apply wf_wrPair | apply wf_zeroRange | apply wf_obPut |  apply wf_setAb | (fail_if_no_progress refine memWf_same rfl rfl ?_)) | split | (rename_i he; have hd := congrArg Prod.snd he; dsimp only at hd; subst hd) | dsimp only | constructor | with_reducible (first | apply MemWf.ib | apply MemWf.ob | apply MemWf.ab | apply MemWf.rx | apply MemWf.sram | apply MemWf.near | apply MemWf.sbuf) | (simp [*]; done))
@[simp] theorem mem_writeWhole (w : Nat × Nat × (Int × Int)) (s : State) (hw : MemWf s) : MemWf (writeWhole w s) := by
  unfold writeWhole; split <;> simp [*]
@[simp] theorem mem_startRamp (r : Ramp) (s : State) (hw : MemWf s) : MemWf (startRamp r s) := by
  simp [startRamp, *]
@[simp] theorem mem_closeCluster (s : State) (cl : Nat) (hw : MemWf s) : MemWf (closeCluster s cl) := by
  unfold closeCluster
  repeat' (first | with_reducible (first | assumption | intro t x ht | intro t ht | apply mem_calDue | apply mem_modCal | apply memWf_foldl | apply wf_foldl | apply wf_wrBytes | apply wf_wrByte | apply wf_wrWord | apply wf_wrHalf | apply wf_wrPair | apply wf_zeroRange | apply wf_obPut |  apply wf_setAb | (fail_if_no_progress refine memWf_same rfl rfl ?_)) | split | (rename_i he; have hd := congrArg Prod.snd he; dsimp only at hd; subst hd) | dsimp only | constructor | with_reducible (first | apply MemWf.ib | apply MemWf.ob | apply MemWf.ab | apply MemWf.rx | apply MemWf.sram | apply MemWf.near | apply MemWf.sbuf) | (simp [*]; done))
@[simp] theorem mem_settleSpares (s : State) (hw : MemWf s) : MemWf (settleSpares s) := by
  simp [settleSpares, *]
@[simp] theorem mem_gapClose (s : State) (hw : MemWf s) : MemWf (gapClose s) := by
  unfold gapClose
  repeat' (first | with_reducible (first | assumption | intro t x ht | intro t ht | apply mem_startRamp | apply mem_writeWhole | apply mem_settleSpares | apply mem_closeCluster | apply memWf_foldl | apply wf_foldl | apply wf_wrBytes | apply wf_wrByte | apply wf_wrWord | apply wf_wrHalf | apply wf_wrPair | apply wf_zeroRange | apply wf_obPut |  apply wf_setAb | (fail_if_no_progress refine memWf_same rfl rfl ?_)) | split | (rename_i he; have hd := congrArg Prod.snd he; dsimp only at hd; subst hd) | dsimp only | constructor | with_reducible (first | apply MemWf.ib | apply MemWf.ob | apply MemWf.ab | apply MemWf.rx | apply MemWf.sram | apply MemWf.near | apply MemWf.sbuf) | (simp [*]; done))
/-! ### Integrity -/
@[simp] theorem mem_sampleGroup (eng spare : Nat) (k : Stroke) (dev : Tab Int) (s : State) (grp : Nat) (hw : MemWf s) : MemWf (sampleGroup eng spare k dev s grp) := by
  unfold sampleGroup
  repeat' (first | with_reducible (first | assumption | intro t x ht | intro t ht | apply mem_modAudit | apply memWf_foldl | apply wf_foldl | apply wf_wrBytes | apply wf_wrByte | apply wf_wrWord | apply wf_wrHalf | apply wf_wrPair | apply wf_zeroRange | apply wf_obPut |  apply wf_setAb | (fail_if_no_progress refine memWf_same rfl rfl ?_)) | split | (rename_i he; have hd := congrArg Prod.snd he; dsimp only at hd; subst hd) | dsimp only | constructor | with_reducible (first | apply MemWf.ib | apply MemWf.ob | apply MemWf.ab | apply MemWf.rx | apply MemWf.sram | apply MemWf.near | apply MemWf.sbuf) | (simp [*]; done))
@[simp] theorem mem_auditSample (eng : Nat) (k : Stroke) (dev : Tab Int) (s : State) (hw : MemWf s) : MemWf (auditSample eng k dev s) := by
  unfold auditSample
  repeat' (first | with_reducible (first | assumption | intro t x ht | intro t ht | apply mem_sampleGroup | apply memWf_foldl | apply wf_foldl | apply wf_wrBytes | apply wf_wrByte | apply wf_wrWord | apply wf_wrHalf | apply wf_wrPair | apply wf_zeroRange | apply wf_obPut |  apply wf_setAb | (fail_if_no_progress refine memWf_same rfl rfl ?_)) | split | (rename_i he; have hd := congrArg Prod.snd he; dsimp only at hd; subst hd) | dsimp only | constructor | with_reducible (first | apply MemWf.ib | apply MemWf.ob | apply MemWf.ab | apply MemWf.rx | apply MemWf.sram | apply MemWf.near | apply MemWf.sbuf) | (simp [*]; done))
@[simp] theorem mem_strokeEndAll (eng : Nat) (dev : Tab Int) (tree : Nat) (s : State) (hw : MemWf s) : MemWf (strokeEndAll eng dev tree s) := by
  unfold strokeEndAll
  repeat' (first | (simp [*]; done) | split)
@[simp] theorem mem_auditHealth (r : AuditRec) (s : State) (hw : MemWf s) : MemWf (auditHealth r s) := by
  simp [auditHealth, *]
@[simp] theorem mem_settleAudit (spare : Nat) (r : AuditRec) (again : List Int) (s : State) (hw : MemWf s) : MemWf (settleAudit spare r again s) := by
  unfold settleAudit
  repeat' (first | with_reducible (first | assumption | intro t x ht | intro t ht | apply mem_fire | apply mem_recordFault | apply mem_auditHealth | apply memWf_foldl | apply wf_foldl | apply wf_wrBytes | apply wf_wrByte | apply wf_wrWord | apply wf_wrHalf | apply wf_wrPair | apply wf_zeroRange | apply wf_obPut |  apply wf_setAb | (fail_if_no_progress refine memWf_same rfl rfl ?_)) | split | (rename_i he; have hd := congrArg Prod.snd he; dsimp only at hd; subst hd) | dsimp only | constructor | with_reducible (first | apply MemWf.ib | apply MemWf.ob | apply MemWf.ab | apply MemWf.rx | apply MemWf.sram | apply MemWf.near | apply MemWf.sbuf) | (simp [*]; done))
@[simp] theorem mem_auditArbitrate (cl : Nat) (again : List Int) (s : State) (hw : MemWf s) : MemWf (auditArbitrate cl again s) := by
  unfold auditArbitrate
  repeat' (first | (simp [*]; done) | split)
@[simp] theorem mem_addCycle (core : Nat) (s : State) (hw : MemWf s) : MemWf (addCycle core s) := by
  unfold addCycle
  repeat' (first | with_reducible (first | assumption | intro t x ht | intro t ht | apply mem_healthUnit | apply memWf_foldl | apply wf_foldl | apply wf_wrBytes | apply wf_wrByte | apply wf_wrWord | apply wf_wrHalf | apply wf_wrPair | apply wf_zeroRange | apply wf_obPut |  apply wf_setAb | (fail_if_no_progress refine memWf_same rfl rfl ?_)) | split | (rename_i he; have hd := congrArg Prod.snd he; dsimp only at hd; subst hd) | dsimp only | constructor | with_reducible (first | apply MemWf.ib | apply MemWf.ob | apply MemWf.ab | apply MemWf.rx | apply MemWf.sram | apply MemWf.near | apply MemWf.sbuf) | (simp [*]; done))
@[simp] theorem mem_wearCore (s : State) (core : Nat) (hw : MemWf s) : MemWf (wearCore s core) := by
  simp [wearCore, *]
@[simp] theorem mem_unwrite (core : Nat) (s : State) (hw : MemWf s) : MemWf (unwrite core s) := by
  simp [unwrite, *]
@[simp] theorem mem_sparePass (col : Nat) (s : State) (pk : Nat) (hw : MemWf s) : MemWf (sparePass col s pk) := by
  simp [sparePass, *]
@[simp] theorem mem_remapCol (array col : Nat) (s : State) (hw : MemWf s) : MemWf (remapCol array col s) := by
  unfold remapCol
  repeat' (first | with_reducible (first | assumption | intro t x ht | intro t ht | apply mem_exhaustArray | apply mem_wearCore | apply mem_sparePass | apply mem_addCycle | apply memWf_foldl | apply wf_foldl | apply wf_wrBytes | apply wf_wrByte | apply wf_wrWord | apply wf_wrHalf | apply wf_wrPair | apply wf_zeroRange | apply wf_obPut |  apply wf_setAb | (fail_if_no_progress refine memWf_same rfl rfl ?_)) | split | (rename_i he; have hd := congrArg Prod.snd he; dsimp only at hd; subst hd) | dsimp only | constructor | with_reducible (first | apply MemWf.ib | apply MemWf.ob | apply MemWf.ab | apply MemWf.rx | apply MemWf.sram | apply MemWf.near | apply MemWf.sbuf) | (simp [*]; done))
@[simp] theorem mem_programEngine (eng : Nat) (s : State) (hw : MemWf s) : MemWf (programEngine eng s) := by
  unfold programEngine
  repeat' (first | with_reducible (first | assumption | intro t x ht | intro t ht | apply mem_remapCol | apply memWf_foldl | apply wf_foldl | apply wf_wrBytes | apply wf_wrByte | apply wf_wrWord | apply wf_wrHalf | apply wf_wrPair | apply wf_zeroRange | apply wf_obPut |  apply wf_setAb | (fail_if_no_progress refine memWf_same rfl rfl ?_)) | split | (rename_i he; have hd := congrArg Prod.snd he; dsimp only at hd; subst hd) | dsimp only | constructor | with_reducible (first | apply MemWf.ib | apply MemWf.ob | apply MemWf.ab | apply MemWf.rx | apply MemWf.sram | apply MemWf.near | apply MemWf.sbuf) | (simp [*]; done))
@[simp] theorem mem_programCore (core : Nat) (s : State) (hw : MemWf s) : MemWf (programCore core s) := by
  unfold programCore
  repeat' (first | with_reducible (first | assumption | intro t x ht | intro t ht | apply mem_programEngine | apply memWf_foldl | apply wf_foldl | apply wf_wrBytes | apply wf_wrByte | apply wf_wrWord | apply wf_wrHalf | apply wf_wrPair | apply wf_zeroRange | apply wf_obPut |  apply wf_setAb | (fail_if_no_progress refine memWf_same rfl rfl ?_)) | split | (rename_i he; have hd := congrArg Prod.snd he; dsimp only at hd; subst hd) | dsimp only | constructor | with_reducible (first | apply MemWf.ib | apply MemWf.ob | apply MemWf.ab | apply MemWf.rx | apply MemWf.sram | apply MemWf.near | apply MemWf.sbuf) | (simp [*]; done))
@[simp] theorem mem_copyPos (src dst : Nat) (s : State) (hw : MemWf s) : MemWf (copyPos src dst s) := by
  simp [copyPos, *]
@[simp] theorem mem_auditStop (cl : Nat) (s : State) (hw : MemWf s) : MemWf (auditStop cl s) := by
  unfold auditStop
  repeat' (first | with_reducible (first | assumption | intro t x ht | intro t ht | apply mem_clearPos | apply mem_setRole | apply mem_fire | apply mem_modAudit | apply memWf_foldl | apply wf_foldl | apply wf_wrBytes | apply wf_wrByte | apply wf_wrWord | apply wf_wrHalf | apply wf_wrPair | apply wf_zeroRange | apply wf_obPut |  apply wf_setAb | (fail_if_no_progress refine memWf_same rfl rfl ?_)) | split | (rename_i he; have hd := congrArg Prod.snd he; dsimp only at hd; subst hd) | dsimp only | constructor | with_reducible (first | apply MemWf.ib | apply MemWf.ob | apply MemWf.ab | apply MemWf.rx | apply MemWf.sram | apply MemWf.near | apply MemWf.sbuf) | (simp [*]; done))
@[simp] theorem mem_dropSilicon (core : Nat) (s : State) (hw : MemWf s) : MemWf (dropSilicon core s) := by
  simp [dropSilicon, *]
@[simp] theorem mem_fillSpare (core spare : Nat) (s : State) (hw : MemWf s) : MemWf (fillSpare core spare s) := by
  unfold fillSpare
  repeat' (first | with_reducible (first | assumption | intro t x ht | intro t ht | apply mem_addCycle | apply mem_programCore | apply mem_dropSilicon | apply mem_unwrite | apply mem_copyPos | apply memWf_foldl | apply wf_foldl | apply wf_wrBytes | apply wf_wrByte | apply wf_wrWord | apply wf_wrHalf | apply wf_wrPair | apply wf_zeroRange | apply wf_obPut |  apply wf_setAb | (fail_if_no_progress refine memWf_same rfl rfl ?_)) | split | (rename_i he; have hd := congrArg Prod.snd he; dsimp only at hd; subst hd) | dsimp only | constructor | with_reducible (first | apply MemWf.ib | apply MemWf.ob | apply MemWf.ab | apply MemWf.rx | apply MemWf.sram | apply MemWf.near | apply MemWf.sbuf) | (simp [*]; done))
@[simp] theorem mem_auditMove (cl spare pos : Nat) (s : State) (hw : MemWf s) : MemWf (auditMove cl spare pos s) := by
  unfold auditMove
  repeat' (first | with_reducible (first | assumption | intro t x ht | intro t ht | apply mem_modAudit | apply mem_fillSpare | apply mem_setRole | apply memWf_foldl | apply wf_foldl | apply wf_wrBytes | apply wf_wrByte | apply wf_wrWord | apply wf_wrHalf | apply wf_wrPair | apply wf_zeroRange | apply wf_obPut |  apply wf_setAb | (fail_if_no_progress refine memWf_same rfl rfl ?_)) | split | (rename_i he; have hd := congrArg Prod.snd he; dsimp only at hd; subst hd) | dsimp only | constructor | with_reducible (first | apply MemWf.ib | apply MemWf.ob | apply MemWf.ab | apply MemWf.rx | apply MemWf.sram | apply MemWf.near | apply MemWf.sbuf) | (simp [*]; done))
@[simp] theorem mem_auditRotate (cl : Nat) (s : State) (hw : MemWf s) : MemWf (auditRotate cl s) := by
  unfold auditRotate
  repeat' (first | with_reducible (first | assumption | intro t x ht | intro t ht | apply mem_auditStop | apply mem_auditMove | apply memWf_foldl | apply wf_foldl | apply wf_wrBytes | apply wf_wrByte | apply wf_wrWord | apply wf_wrHalf | apply wf_wrPair | apply wf_zeroRange | apply wf_obPut |  apply wf_setAb | (fail_if_no_progress refine memWf_same rfl rfl ?_)) | split | (rename_i he; have hd := congrArg Prod.snd he; dsimp only at hd; subst hd) | dsimp only | constructor | with_reducible (first | apply MemWf.ib | apply MemWf.ob | apply MemWf.ab | apply MemWf.rx | apply MemWf.sram | apply MemWf.near | apply MemWf.sbuf) | (simp [*]; done))
@[simp] theorem mem_holdForFence (s : State) (c : Nat) (hw : MemWf s) : MemWf (holdForFence s c) := by
  simp [holdForFence, *]
@[simp] theorem mem_unhold (c : Nat) (s : State) (hw : MemWf s) : MemWf (unhold c s) := by
  unfold unhold
  repeat' (first | with_reducible (first | assumption | intro t x ht | intro t ht | apply mem_canvasEvent | apply mem_modCnv | apply memWf_foldl | apply wf_foldl | apply wf_wrBytes | apply wf_wrByte | apply wf_wrWord | apply wf_wrHalf | apply wf_wrPair | apply wf_zeroRange | apply wf_obPut |  apply wf_setAb | (fail_if_no_progress refine memWf_same rfl rfl ?_)) | split | (rename_i he; have hd := congrArg Prod.snd he; dsimp only at hd; subst hd) | dsimp only | constructor | with_reducible (first | apply MemWf.ib | apply MemWf.ob | apply MemWf.ab | apply MemWf.rx | apply MemWf.sram | apply MemWf.near | apply MemWf.sbuf) | (simp [*]; done))
@[simp] theorem mem_settleWrite (s : State) (hw : MemWf s) : MemWf (settleWrite s) := by
  unfold settleWrite
  repeat' (first | with_reducible (first | assumption | intro t x ht | intro t ht | apply mem_calDue | apply memWf_foldl | apply wf_foldl | apply wf_wrBytes | apply wf_wrByte | apply wf_wrWord | apply wf_wrHalf | apply wf_wrPair | apply wf_zeroRange | apply wf_obPut |  apply wf_setAb | (fail_if_no_progress refine memWf_same rfl rfl ?_)) | split | (rename_i he; have hd := congrArg Prod.snd he; dsimp only at hd; subst hd) | dsimp only | constructor | with_reducible (first | apply MemWf.ib | apply MemWf.ob | apply MemWf.ab | apply MemWf.rx | apply MemWf.sram | apply MemWf.near | apply MemWf.sbuf) | (simp [*]; done))
@[simp] theorem mem_beginFence (core spare : Nat) (s : State) (hw : MemWf s) : MemWf (beginFence core spare s) := by
  unfold beginFence
  repeat' (first | with_reducible (first | assumption | intro t x ht | intro t ht | apply mem_fire | apply mem_auditStop | apply mem_setRole | apply mem_holdForFence | apply mem_dropSilicon | apply mem_fillSpare | apply mem_settleWrite | apply mem_uhWrite | apply mem_healthUnit | apply memWf_foldl | apply wf_foldl | apply wf_wrBytes | apply wf_wrByte | apply wf_wrWord | apply wf_wrHalf | apply wf_wrPair | apply wf_zeroRange | apply wf_obPut |  apply wf_setAb | (fail_if_no_progress refine memWf_same rfl rfl ?_)) | split | (rename_i he; have hd := congrArg Prod.snd he; dsimp only at hd; subst hd) | dsimp only | constructor | with_reducible (first | apply MemWf.ib | apply MemWf.ob | apply MemWf.ab | apply MemWf.rx | apply MemWf.sram | apply MemWf.near | apply MemWf.sbuf) | (simp [*]; done))
@[simp] theorem mem_fenceStart (core : Nat) (s : State) (hw : MemWf s) : MemWf (fenceStart core s) := by
  unfold fenceStart
  repeat' (first | (simp [*]; done) | split)
@[simp] theorem mem_endFence (f : Fence) (s : State) (hw : MemWf s) : MemWf (endFence f s) := by
  unfold endFence
  repeat' (first | with_reducible (first | assumption | intro t x ht | intro t ht | apply mem_setRole | apply mem_clearPos | apply mem_unhold | apply mem_modCnv | apply mem_uhWrite | apply mem_fire | apply mem_healthUnit | apply memWf_foldl | apply wf_foldl | apply wf_wrBytes | apply wf_wrByte | apply wf_wrWord | apply wf_wrHalf | apply wf_wrPair | apply wf_zeroRange | apply wf_obPut |  apply wf_setAb | (fail_if_no_progress refine memWf_same rfl rfl ?_)) | split | (rename_i he; have hd := congrArg Prod.snd he; dsimp only at hd; subst hd) | dsimp only | constructor | with_reducible (first | apply MemWf.ib | apply MemWf.ob | apply MemWf.ab | apply MemWf.rx | apply MemWf.sram | apply MemWf.near | apply MemWf.sbuf) | (simp [*]; done))
@[simp] theorem mem_fenceComplete (cl : Nat) (s : State) (hw : MemWf s) : MemWf (fenceComplete cl s) := by
  unfold fenceComplete; split <;> simp [*]
@[simp] theorem mem_drainBudget (s : State) (hw : MemWf s) : MemWf (drainBudget s) := by
  unfold drainBudget
  repeat' (first | with_reducible (first | assumption | intro t x ht | intro t ht | apply mem_modEntry | apply memWf_foldl | apply wf_foldl | apply wf_wrBytes | apply wf_wrByte | apply wf_wrWord | apply wf_wrHalf | apply wf_wrPair | apply wf_zeroRange | apply wf_obPut |  apply wf_setAb | (fail_if_no_progress refine memWf_same rfl rfl ?_)) | split | (rename_i he; have hd := congrArg Prod.snd he; dsimp only at hd; subst hd) | dsimp only | constructor | with_reducible (first | apply MemWf.ib | apply MemWf.ob | apply MemWf.ab | apply MemWf.rx | apply MemWf.sram | apply MemWf.near | apply MemWf.sbuf) | (simp [*]; done))
@[simp] theorem mem_moduleClose (reason k : Nat) (s : State) (hw : MemWf s) : MemWf (moduleClose reason k s) := by
  simp [moduleClose, *]
@[simp] theorem mem_replaceEntry (s : State) (hw : MemWf s) : MemWf (replaceEntry s) := by
  unfold replaceEntry
  repeat' (first | with_reducible (first | assumption | intro t x ht | intro t ht | apply mem_fire | apply mem_raiseAll | apply mem_uhWrite | apply mem_moduleClose | apply mem_setMstate | apply memWf_foldl | apply wf_foldl | apply wf_wrBytes | apply wf_wrByte | apply wf_wrWord | apply wf_wrHalf | apply wf_wrPair | apply wf_zeroRange | apply wf_obPut |  apply wf_setAb | (fail_if_no_progress refine memWf_same rfl rfl ?_)) | split | (rename_i he; have hd := congrArg Prod.snd he; dsimp only at hd; subst hd) | dsimp only | constructor | with_reducible (first | apply MemWf.ib | apply MemWf.ob | apply MemWf.ab | apply MemWf.rx | apply MemWf.sram | apply MemWf.near | apply MemWf.sbuf) | (simp [*]; done))
@[simp] theorem mem_nonfence (unit level cause : Nat) (s : State) (hw : MemWf s) : MemWf (nonfence unit level cause s) := by
  unfold nonfence
  repeat' (first | with_reducible (first | assumption | intro t x ht | intro t ht | apply mem_drainDecision | apply mem_recordFault | apply memWf_foldl | apply wf_foldl | apply wf_wrBytes | apply wf_wrByte | apply wf_wrWord | apply wf_wrHalf | apply wf_wrPair | apply wf_zeroRange | apply wf_obPut |  apply wf_setAb | (fail_if_no_progress refine memWf_same rfl rfl ?_)) | split | (rename_i he; have hd := congrArg Prod.snd he; dsimp only at hd; subst hd) | dsimp only | constructor | with_reducible (first | apply MemWf.ib | apply MemWf.ob | apply MemWf.ab | apply MemWf.rx | apply MemWf.sram | apply MemWf.near | apply MemWf.sbuf) | (simp [*]; done))
@[simp] theorem mem_planeFailure (plane hop : Nat) (s : State) (hw : MemWf s) : MemWf (planeFailure plane hop s) := by
  unfold planeFailure
  repeat' (first | with_reducible (first | assumption | intro t x ht | intro t ht | apply mem_fire | apply mem_nonfence | apply memWf_foldl | apply wf_foldl | apply wf_wrBytes | apply wf_wrByte | apply wf_wrWord | apply wf_wrHalf | apply wf_wrPair | apply wf_zeroRange | apply wf_obPut |  apply wf_setAb | (fail_if_no_progress refine memWf_same rfl rfl ?_)) | split | (rename_i he; have hd := congrArg Prod.snd he; dsimp only at hd; subst hd) | dsimp only | constructor | with_reducible (first | apply MemWf.ib | apply MemWf.ob | apply MemWf.ab | apply MemWf.rx | apply MemWf.sram | apply MemWf.near | apply MemWf.sbuf) | (simp [*]; done))
/-! ### HostCmd -/
@[simp] theorem mem_replyOutcome (h : Hdr) (o : Nat) (s : State) (hw : MemWf s) : MemWf (replyOutcome h o s) := by
  simp [replyOutcome, *]
@[simp] theorem mem_replyOutcomeLate (h : Hdr) (o : Nat) (s : State) (hw : MemWf s) : MemWf (replyOutcomeLate h o s) := by
  simp [replyOutcomeLate, *]
@[simp] theorem mem_endStaging (c : Nat) (s : State) (hw : MemWf s) : MemWf (endStaging c s) := by
  simp [endStaging, *]
@[simp] theorem mem_breakStaging (h : Hdr) (own : Option Nat) (s : State) (hw : MemWf s) : MemWf (breakStaging h own s) := by
  unfold breakStaging
  repeat' (first | with_reducible (first | assumption | intro t x ht | intro t ht | apply mem_endStaging | apply memWf_foldl | apply wf_foldl | apply wf_wrBytes | apply wf_wrByte | apply wf_wrWord | apply wf_wrHalf | apply wf_wrPair | apply wf_zeroRange | apply wf_obPut |  apply wf_setAb | (fail_if_no_progress refine memWf_same rfl rfl ?_)) | split | (rename_i he; have hd := congrArg Prod.snd he; dsimp only at hd; subst hd) | dsimp only | constructor | with_reducible (first | apply MemWf.ib | apply MemWf.ob | apply MemWf.ab | apply MemWf.rx | apply MemWf.sram | apply MemWf.near | apply MemWf.sbuf) | (simp [*]; done))
@[simp] theorem mem_breakParts (n queue : Nat) (s : State) (hw : MemWf s) : MemWf (breakParts n queue s) := by
  unfold breakParts; split <;> simp [*]
@[simp] theorem mem_takeMessage (h : Hdr) (s : State) (hw : MemWf s) : MemWf (takeMessage h s) := by
  simp [takeMessage, *]
@[simp] theorem mem_hostBody (r : Rights) (h : Hdr) (own : Option Nat) (cont safe : Bool) (act : State → State) (s : State) (h_act : ∀ y0, MemWf y0 → MemWf (act y0)) (hw : MemWf s) : MemWf (hostBody r h own cont safe act s) := by
  unfold hostBody
  repeat' (first | with_reducible (first | assumption | intro t x ht | intro t ht | apply mem_reply | apply mem_takeMessage | apply mem_breakStaging | apply mem_breakParts | apply h_act | apply memWf_foldl | apply wf_foldl | apply wf_wrBytes | apply wf_wrByte | apply wf_wrWord | apply wf_wrHalf | apply wf_wrPair | apply wf_zeroRange | apply wf_obPut |  apply wf_setAb | (fail_if_no_progress refine memWf_same rfl rfl ?_)) | split | (rename_i he; have hd := congrArg Prod.snd he; dsimp only at hd; subst hd) | dsimp only | constructor | with_reducible (first | apply MemWf.ib | apply MemWf.ob | apply MemWf.ab | apply MemWf.rx | apply MemWf.sram | apply MemWf.near | apply MemWf.sbuf) | (simp [*]; done))
/-! ### Staging -/
/-! ### Program -/
@[simp] theorem mem_endCell (m : PlaneImage) (array : Nat) (r : RowProg) (s : State) (col : Nat) (hw : MemWf s) : MemWf (endCell m array r s col) := by
  unfold endCell
  repeat' (first | (simp [*]; done) | split)
@[simp] theorem mem_programRow (array plane row : Nat) (read : List (Nat × Nat × Nat)) (s : State) (hw : MemWf s) : MemWf (programRow array plane row read s) := by
  unfold programRow
  repeat' (first | with_reducible (first | assumption | intro t x ht | intro t ht | apply mem_endCell | apply memWf_foldl | apply wf_foldl | apply wf_wrBytes | apply wf_wrByte | apply wf_wrWord | apply wf_wrHalf | apply wf_wrPair | apply wf_zeroRange | apply wf_obPut |  apply wf_setAb | (fail_if_no_progress refine memWf_same rfl rfl ?_)) | split | (rename_i he; have hd := congrArg Prod.snd he; dsimp only at hd; subst hd) | dsimp only | constructor | with_reducible (first | apply MemWf.ib | apply MemWf.ob | apply MemWf.ab | apply MemWf.rx | apply MemWf.sram | apply MemWf.near | apply MemWf.sbuf) | (simp [*]; done))
@[simp] theorem mem_stopWrites (s : State) (hw : MemWf s) : MemWf (stopWrites s) := by
  simp [stopWrites, *]
@[simp] theorem mem_writeCorr (b : Bundle) (k : Nat) (kept : List Cand) (s : State) (x : Nat × Nat) (hw : MemWf s) : MemWf (writeCorr b k kept s x) := by
  simp [writeCorr, *]
@[simp] theorem mem_deriveTile (b : Bundle) (tile core : Nat) (s : State) (hw : MemWf s) : MemWf (deriveTile b tile core s) := by
  unfold deriveTile
  repeat' (first | with_reducible (first | assumption | intro t x ht | intro t ht | apply mem_writeCorr | apply mem_fireArg | apply memWf_foldl | apply wf_foldl | apply wf_wrBytes | apply wf_wrByte | apply wf_wrWord | apply wf_wrHalf | apply wf_wrPair | apply wf_zeroRange | apply wf_obPut |  apply wf_setAb | (fail_if_no_progress refine memWf_same rfl rfl ?_)) | split | (rename_i he; have hd := congrArg Prod.snd he; dsimp only at hd; subst hd) | dsimp only | constructor | with_reducible (first | apply MemWf.ib | apply MemWf.ob | apply MemWf.ab | apply MemWf.rx | apply MemWf.sram | apply MemWf.near | apply MemWf.sbuf) | (simp [*]; done))
@[simp] theorem mem_deriveFor (array plane : Nat) (s : State) (hw : MemWf s) : MemWf (deriveFor array plane s) := by
  unfold deriveFor; split <;> simp [*]
@[simp] theorem mem_failColumn (array : Nat) (s : State) (col : Nat) (hw : MemWf s) : MemWf (failColumn array s col) := by
  unfold failColumn
  repeat' (first | with_reducible (first | assumption | intro t x ht | intro t ht | apply mem_remapCol | apply mem_exhaustArray | apply memWf_foldl | apply wf_foldl | apply wf_wrBytes | apply wf_wrByte | apply wf_wrWord | apply wf_wrHalf | apply wf_wrPair | apply wf_zeroRange | apply wf_obPut |  apply wf_setAb | (fail_if_no_progress refine memWf_same rfl rfl ?_)) | split | (rename_i he; have hd := congrArg Prod.snd he; dsimp only at hd; subst hd) | dsimp only | constructor | with_reducible (first | apply MemWf.ib | apply MemWf.ob | apply MemWf.ab | apply MemWf.rx | apply MemWf.sram | apply MemWf.near | apply MemWf.sbuf) | (simp [*]; done))
@[simp] theorem mem_installPlane (array : Nat) (m : PlaneImage) (s : State) (hw : MemWf s) : MemWf (installPlane array m s) := by
  simp [installPlane, *]
@[simp] theorem mem_freshTile (array plane : Nat) (whole : Bool) (s : State) (hw : MemWf s) : MemWf (freshTile array plane whole s) := by
  unfold freshTile; split <;> simp [*]
@[simp] theorem mem_coreEnds (core : Nat) (s : State) (hw : MemWf s) : MemWf (coreEnds core s) := by
  unfold coreEnds; split <;> simp [*]
@[simp] theorem mem_dropBundle (b : Bundle) (s : State) (hw : MemWf s) : MemWf (dropBundle b s) := by
  simp [dropBundle, *]
@[simp] theorem mem_dropTables (c : Nat) (s : State) (hw : MemWf s) : MemWf (dropTables c s) := by
  simp [dropTables, *]
@[simp] theorem mem_settleHolds (s : State) (hw : MemWf s) : MemWf (settleHolds s) := by
  unfold settleHolds
  repeat' (first | with_reducible (first | assumption | intro t x ht | intro t ht | apply mem_unhold | apply mem_modCnv | apply memWf_foldl | apply wf_foldl | apply wf_wrBytes | apply wf_wrByte | apply wf_wrWord | apply wf_wrHalf | apply wf_wrPair | apply wf_zeroRange | apply wf_obPut |  apply wf_setAb | (fail_if_no_progress refine memWf_same rfl rfl ?_)) | split | (rename_i he; have hd := congrArg Prod.snd he; dsimp only at hd; subst hd) | dsimp only | constructor | with_reducible (first | apply MemWf.ib | apply MemWf.ob | apply MemWf.ab | apply MemWf.rx | apply MemWf.sram | apply MemWf.near | apply MemWf.sbuf) | (simp [*]; done))
@[simp] theorem mem_emptyCanvas (c : Nat) (s : State) (hw : MemWf s) : MemWf (emptyCanvas c s) := by
  unfold emptyCanvas
  repeat' (first | with_reducible (first | assumption | intro t x ht | intro t ht | apply mem_dropBundle | apply mem_dropTables | apply mem_modCnv | apply memWf_foldl | apply wf_foldl | apply wf_wrBytes | apply wf_wrByte | apply wf_wrWord | apply wf_wrHalf | apply wf_wrPair | apply wf_zeroRange | apply wf_obPut |  apply wf_setAb | (fail_if_no_progress refine memWf_same rfl rfl ?_)) | split | (rename_i he; have hd := congrArg Prod.snd he; dsimp only at hd; subst hd) | dsimp only | constructor | with_reducible (first | apply MemWf.ib | apply MemWf.ob | apply MemWf.ab | apply MemWf.rx | apply MemWf.sram | apply MemWf.near | apply MemWf.sbuf) | (simp [*]; done))
@[simp] theorem mem_stopLoad (c o : Nat) (s : State) (hw : MemWf s) : MemWf (stopLoad c o s) := by
  unfold stopLoad
  repeat' (first | with_reducible (first | assumption | intro t x ht | intro t ht | apply mem_settleHolds | apply mem_emptyCanvas | apply mem_canvasEvent | apply mem_fire | apply mem_replyOutcomeLate | apply memWf_foldl | apply wf_foldl | apply wf_wrBytes | apply wf_wrByte | apply wf_wrWord | apply wf_wrHalf | apply wf_wrPair | apply wf_zeroRange | apply wf_obPut |  apply wf_setAb | (fail_if_no_progress refine memWf_same rfl rfl ?_)) | split | (rename_i he; have hd := congrArg Prod.snd he; dsimp only at hd; subst hd) | dsimp only | constructor | with_reducible (first | apply MemWf.ib | apply MemWf.ob | apply MemWf.ab | apply MemWf.rx | apply MemWf.sram | apply MemWf.near | apply MemWf.sbuf) | (simp [*]; done))
@[simp] theorem mem_tryAbort (c : Nat) (s : State) (hw : MemWf s) : MemWf (tryAbort c s) := by
  unfold tryAbort
  repeat' (first | with_reducible (first | assumption | intro t x ht | intro t ht | apply mem_modCnv | apply mem_stopLoad | apply mem_replyOutcomeLate | apply memWf_foldl | apply wf_foldl | apply wf_wrBytes | apply wf_wrByte | apply wf_wrWord | apply wf_wrHalf | apply wf_wrPair | apply wf_zeroRange | apply wf_obPut |  apply wf_setAb | (fail_if_no_progress refine memWf_same rfl rfl ?_)) | split | (rename_i he; have hd := congrArg Prod.snd he; dsimp only at hd; subst hd) | dsimp only | constructor | with_reducible (first | apply MemWf.ib | apply MemWf.ob | apply MemWf.ab | apply MemWf.rx | apply MemWf.sram | apply MemWf.near | apply MemWf.sbuf) | (simp [*]; done))
@[simp] theorem mem_planeEnd (array plane : Nat) (s : State) (hw : MemWf s) : MemWf (planeEnd array plane s) := by
  unfold planeEnd
  repeat' (first | with_reducible (first | assumption | intro t x ht | intro t ht | apply mem_failColumn | apply mem_freshTile | apply mem_installPlane | apply mem_coreEnds | apply mem_deriveFor | apply mem_settleHolds | apply mem_tryAbort | apply memWf_foldl | apply wf_foldl | apply wf_wrBytes | apply wf_wrByte | apply wf_wrWord | apply wf_wrHalf | apply wf_wrPair | apply wf_zeroRange | apply wf_obPut |  apply wf_setAb | (fail_if_no_progress refine memWf_same rfl rfl ?_)) | split | (rename_i he; have hd := congrArg Prod.snd he; dsimp only at hd; subst hd) | dsimp only | constructor | with_reducible (first | apply MemWf.ib | apply MemWf.ob | apply MemWf.ab | apply MemWf.rx | apply MemWf.sram | apply MemWf.near | apply MemWf.sbuf) | (simp [*]; done))
@[simp] theorem mem_placeImage (s : State) (m : PlaneImage) (hw : MemWf s) : MemWf (placeImage s m) := by
  unfold placeImage
  repeat' (first | with_reducible (first | assumption | intro t x ht | intro t ht | apply memWf_foldl | apply wf_foldl | apply wf_wrBytes | apply wf_wrByte | apply wf_wrWord | apply wf_wrHalf | apply wf_wrPair | apply wf_zeroRange | apply wf_obPut |  apply wf_setAb | (fail_if_no_progress refine memWf_same rfl rfl ?_)) | split | (rename_i he; have hd := congrArg Prod.snd he; dsimp only at hd; subst hd) | dsimp only | constructor | with_reducible (first | apply MemWf.ib | apply MemWf.ob | apply MemWf.ab | apply MemWf.rx | apply MemWf.sram | apply MemWf.near | apply MemWf.sbuf) | (simp [*]; done))
@[simp] theorem mem_placeOutliers (b : Bundle) (s : State) (hw : MemWf s) : MemWf (placeOutliers b s) := by
  unfold placeOutliers
  repeat' (first | with_reducible (first | assumption | intro t x ht | intro t ht | apply memWf_foldl | apply wf_foldl | apply wf_wrBytes | apply wf_wrByte | apply wf_wrWord | apply wf_wrHalf | apply wf_wrPair | apply wf_zeroRange | apply wf_obPut |  apply wf_setAb | (fail_if_no_progress refine memWf_same rfl rfl ?_)) | split | (rename_i he; have hd := congrArg Prod.snd he; dsimp only at hd; subst hd) | dsimp only | constructor | with_reducible (first | apply MemWf.ib | apply MemWf.ob | apply MemWf.ab | apply MemWf.rx | apply MemWf.sram | apply MemWf.near | apply MemWf.sbuf) | (simp [*]; done))
@[simp] theorem mem_staleAudits (b : Bundle) (s : State) (hw : MemWf s) : MemWf (staleAudits b s) := by
  unfold staleAudits
  repeat' (first | with_reducible (first | assumption | intro t x ht | intro t ht | apply mem_modAudit | apply memWf_foldl | apply wf_foldl | apply wf_wrBytes | apply wf_wrByte | apply wf_wrWord | apply wf_wrHalf | apply wf_wrPair | apply wf_zeroRange | apply wf_obPut |  apply wf_setAb | (fail_if_no_progress refine memWf_same rfl rfl ?_)) | split | (rename_i he; have hd := congrArg Prod.snd he; dsimp only at hd; subst hd) | dsimp only | constructor | with_reducible (first | apply MemWf.ib | apply MemWf.ob | apply MemWf.ab | apply MemWf.rx | apply MemWf.sram | apply MemWf.near | apply MemWf.sbuf) | (simp [*]; done))
@[simp] theorem mem_takeScramble (c : Nat) (s : State) (hw : MemWf s) : MemWf (takeScramble c s) := by
  simp [takeScramble, *]
@[simp] theorem mem_beginLoad (c : Nat) (b : Bundle) (s : State) (hw : MemWf s) : MemWf (beginLoad c b s) := by
  unfold beginLoad
  repeat' (first | with_reducible (first | assumption | intro t x ht | intro t ht | apply mem_modCnv | apply mem_takeScramble | apply mem_emptyCanvas | apply mem_staleAudits | apply mem_placeOutliers | apply mem_placeImage | apply mem_wearCore | apply mem_programEngine | apply mem_canvasEvent | apply memWf_foldl | apply wf_foldl | apply wf_wrBytes | apply wf_wrByte | apply wf_wrWord | apply wf_wrHalf | apply wf_wrPair | apply wf_zeroRange | apply wf_obPut |  apply wf_setAb | (fail_if_no_progress refine memWf_same rfl rfl ?_)) | split | (rename_i he; have hd := congrArg Prod.snd he; dsimp only at hd; subst hd) | dsimp only | constructor | with_reducible (first | apply MemWf.ib | apply MemWf.ob | apply MemWf.ab | apply MemWf.rx | apply MemWf.sram | apply MemWf.near | apply MemWf.sbuf) | (simp [*]; done))
@[simp] theorem mem_nextWave (c : Nat) (b : Bundle) (s : State) (hw : MemWf s) : MemWf (nextWave c b s) := by
  simp [nextWave, *]
@[simp] theorem mem_waveStart (c : Nat) (s : State) (hw : MemWf s) : MemWf (waveStart c s) := by
  unfold waveStart
  repeat' (first | with_reducible (first | assumption | intro t x ht | intro t ht | apply mem_beginLoad | apply mem_nextWave | apply memWf_foldl | apply wf_foldl | apply wf_wrBytes | apply wf_wrByte | apply wf_wrWord | apply wf_wrHalf | apply wf_wrPair | apply wf_zeroRange | apply wf_obPut |  apply wf_setAb | (fail_if_no_progress refine memWf_same rfl rfl ?_)) | split | (rename_i he; have hd := congrArg Prod.snd he; dsimp only at hd; subst hd) | dsimp only | constructor | with_reducible (first | apply MemWf.ib | apply MemWf.ob | apply MemWf.ab | apply MemWf.rx | apply MemWf.sram | apply MemWf.near | apply MemWf.sbuf) | (simp [*]; done))
@[simp] theorem mem_installTables (c : Nat) (b : Bundle) (s : State) (hw : MemWf s) : MemWf (installTables c b s) :=
  ⟨hw.ib, hw.ob, hw.ab, hw.rx, hw.sram,
    wf_foldl _ (fun _ _ hm => wf_foldl _ (fun _ _ hm => wf_wrBytes _ _ _ hm) _ _ hm) _ _ hw.near, hw.sbuf⟩
@[simp] theorem mem_dropConversations (c : Nat) (s : State) (hw : MemWf s) : MemWf (dropConversations c s) := by
  unfold dropConversations
  repeat' (first | with_reducible (first | assumption | intro t x ht | intro t ht | apply mem_expire | apply memWf_foldl | apply wf_foldl | apply wf_wrBytes | apply wf_wrByte | apply wf_wrWord | apply wf_wrHalf | apply wf_wrPair | apply wf_zeroRange | apply wf_obPut |  apply wf_setAb | (fail_if_no_progress refine memWf_same rfl rfl ?_)) | split | (rename_i he; have hd := congrArg Prod.snd he; dsimp only at hd; subst hd) | dsimp only | constructor | with_reducible (first | apply MemWf.ib | apply MemWf.ob | apply MemWf.ab | apply MemWf.rx | apply MemWf.sram | apply MemWf.near | apply MemWf.sbuf) | (simp [*]; done))
@[simp] theorem mem_serveCanvas (c : Nat) (b : Bundle) (s : State) (hw : MemWf s) : MemWf (serveCanvas c b s) := by
  unfold serveCanvas
  repeat' (first | with_reducible (first | assumption | intro t x ht | intro t ht | apply mem_canvasEvent | apply mem_modCnv | apply mem_installTables | apply memWf_foldl | apply wf_foldl | apply wf_wrBytes | apply wf_wrByte | apply wf_wrWord | apply wf_wrHalf | apply wf_wrPair | apply wf_zeroRange | apply wf_obPut |  apply wf_setAb | (fail_if_no_progress refine memWf_same rfl rfl ?_)) | split | (rename_i he; have hd := congrArg Prod.snd he; dsimp only at hd; subst hd) | dsimp only | constructor | with_reducible (first | apply MemWf.ib | apply MemWf.ob | apply MemWf.ab | apply MemWf.rx | apply MemWf.sram | apply MemWf.near | apply MemWf.sbuf) | (simp [*]; done))
@[simp] theorem mem_loadDone (c : Nat) (s : State) (hw : MemWf s) : MemWf (loadDone c s) := by
  unfold loadDone
  repeat' (first | with_reducible (first | assumption | intro t x ht | intro t ht | apply mem_serveCanvas | apply mem_dropConversations | apply mem_modCnv | apply mem_replyOutcomeLate | apply mem_fire | apply mem_settleHolds | apply memWf_foldl | apply wf_foldl | apply wf_wrBytes | apply wf_wrByte | apply wf_wrWord | apply wf_wrHalf | apply wf_wrPair | apply wf_zeroRange | apply wf_obPut |  apply wf_setAb | (fail_if_no_progress refine memWf_same rfl rfl ?_)) | split | (rename_i he; have hd := congrArg Prod.snd he; dsimp only at hd; subst hd) | dsimp only | constructor | with_reducible (first | apply MemWf.ib | apply MemWf.ob | apply MemWf.ab | apply MemWf.rx | apply MemWf.sram | apply MemWf.near | apply MemWf.sbuf) | (simp [*]; done))
@[simp] theorem mem_saveDrift (cl : Nat) (s : State) (hw : MemWf s) : MemWf (saveDrift cl s) := by
  simp [saveDrift, *]
@[simp] theorem mem_recordDurable (c : Nat) (s : State) (hw : MemWf s) : MemWf (recordDurable c s) := by
  simp [recordDurable, *]
@[simp] theorem mem_putLost (c : Nat) (s : State) (m : PlaneImage) (hw : MemWf s) : MemWf (putLost c s m) := by
  unfold putLost; split <;> simp [*]
@[simp] theorem mem_acceptBundle (c total : Nat) (b : Bundle) (s : State) (hw : MemWf s) : MemWf (acceptBundle c total b s) := by
  unfold acceptBundle
  repeat' (first | with_reducible (first | assumption | intro t x ht | intro t ht | apply mem_modCnv | apply mem_unhold | apply mem_putLost | apply memWf_foldl | apply wf_foldl | apply wf_wrBytes | apply wf_wrByte | apply wf_wrWord | apply wf_wrHalf | apply wf_wrPair | apply wf_zeroRange | apply wf_obPut |  apply wf_setAb | (fail_if_no_progress refine memWf_same rfl rfl ?_)) | split | (rename_i he; have hd := congrArg Prod.snd he; dsimp only at hd; subst hd) | dsimp only | constructor | with_reducible (first | apply MemWf.ib | apply MemWf.ob | apply MemWf.ab | apply MemWf.rx | apply MemWf.sram | apply MemWf.near | apply MemWf.sbuf) | (simp [*]; done))
@[simp] theorem mem_stagePart (h : Hdr) (c off len total : Nat) (b : Bundle) (s : State) (hw : MemWf s) : MemWf (stagePart h c off len total b s) := by
  unfold stagePart
  repeat' (first | with_reducible (first | assumption | intro t x ht | intro t ht | apply mem_modCnv | apply mem_fire | apply mem_replyOutcome | apply mem_acceptBundle | apply memWf_foldl | apply wf_foldl | apply wf_wrBytes | apply wf_wrByte | apply wf_wrWord | apply wf_wrHalf | apply wf_wrPair | apply wf_zeroRange | apply wf_obPut |  apply wf_setAb | (fail_if_no_progress refine memWf_same rfl rfl ?_)) | split | (rename_i he; have hd := congrArg Prod.snd he; dsimp only at hd; subst hd) | dsimp only | constructor | with_reducible (first | apply MemWf.ib | apply MemWf.ob | apply MemWf.ab | apply MemWf.rx | apply MemWf.sram | apply MemWf.near | apply MemWf.sbuf) | (simp [*]; done))
@[simp] theorem mem_lateStaging (c : Nat) (s : State) (hw : MemWf s) : MemWf (lateStaging c s) := by
  simp [lateStaging, *]
@[simp] theorem mem_stageIn (h : Hdr) (c off len total : Nat) (b : Bundle) (s : State) (hw : MemWf s) : MemWf (stageIn h c off len total b s) := by
  unfold stageIn
  repeat' (first | with_reducible (first | assumption | intro t x ht | intro t ht | apply mem_replyOutcome | apply mem_endStaging | apply mem_stagePart | apply mem_modCnv | apply memWf_foldl | apply wf_foldl | apply wf_wrBytes | apply wf_wrByte | apply wf_wrWord | apply wf_wrHalf | apply wf_wrPair | apply wf_zeroRange | apply wf_obPut |  apply wf_setAb | (fail_if_no_progress refine memWf_same rfl rfl ?_)) | split | (rename_i he; have hd := congrArg Prod.snd he; dsimp only at hd; subst hd) | dsimp only | constructor | with_reducible (first | apply MemWf.ib | apply MemWf.ob | apply MemWf.ab | apply MemWf.rx | apply MemWf.sram | apply MemWf.near | apply MemWf.sbuf) | (simp [*]; done))
@[simp] theorem mem_stageOp (h : Hdr) (c off len total : Nat) (b : Bundle) (s : State) (hw : MemWf s) : MemWf (stageOp h c off len total b s) := by
  unfold stageOp
  repeat' (first | with_reducible (first | assumption | intro t x ht | intro t ht | apply mem_stageIn | apply mem_lateStaging | apply memWf_foldl | apply wf_foldl | apply wf_wrBytes | apply wf_wrByte | apply wf_wrWord | apply wf_wrHalf | apply wf_wrPair | apply wf_zeroRange | apply wf_obPut |  apply wf_setAb | (fail_if_no_progress refine memWf_same rfl rfl ?_)) | split | (rename_i he; have hd := congrArg Prod.snd he; dsimp only at hd; subst hd) | dsimp only | constructor | with_reducible (first | apply MemWf.ib | apply MemWf.ob | apply MemWf.ab | apply MemWf.rx | apply MemWf.sram | apply MemWf.near | apply MemWf.sbuf) | (simp [*]; done))
@[simp] theorem mem_drainNeighbour (s : State) (d : Nat) (hw : MemWf s) : MemWf (drainNeighbour s d) := by
  simp [drainNeighbour, *]
@[simp] theorem mem_loadOp (h : Hdr) (c : Nat) (s : State) (hw : MemWf s) : MemWf (loadOp h c s) := by
  unfold loadOp
  repeat' (first | with_reducible (first | assumption | intro t x ht | intro t ht | apply mem_modCnv | apply mem_leaveOut | apply mem_fire | apply mem_drainNeighbour | apply mem_replyOutcome | apply memWf_foldl | apply wf_foldl | apply wf_wrBytes | apply wf_wrByte | apply wf_wrWord | apply wf_wrHalf | apply wf_wrPair | apply wf_zeroRange | apply wf_obPut |  apply wf_setAb | (fail_if_no_progress refine memWf_same rfl rfl ?_)) | split | (rename_i he; have hd := congrArg Prod.snd he; dsimp only at hd; subst hd) | dsimp only | constructor | with_reducible (first | apply MemWf.ib | apply MemWf.ob | apply MemWf.ab | apply MemWf.rx | apply MemWf.sram | apply MemWf.near | apply MemWf.sbuf) | (simp [*]; done))
@[simp] theorem mem_abortOp (h : Hdr) (c : Nat) (s : State) (hw : MemWf s) : MemWf (abortOp h c s) := by
  unfold abortOp
  repeat' (first | with_reducible (first | assumption | intro t x ht | intro t ht | apply mem_replyOutcome | apply mem_tryAbort | apply mem_modCnv | apply mem_leaveOut | apply memWf_foldl | apply wf_foldl | apply wf_wrBytes | apply wf_wrByte | apply wf_wrWord | apply wf_wrHalf | apply wf_wrPair | apply wf_zeroRange | apply wf_obPut |  apply wf_setAb | (fail_if_no_progress refine memWf_same rfl rfl ?_)) | split | (rename_i he; have hd := congrArg Prod.snd he; dsimp only at hd; subst hd) | dsimp only | constructor | with_reducible (first | apply MemWf.ib | apply MemWf.ob | apply MemWf.ab | apply MemWf.rx | apply MemWf.sram | apply MemWf.near | apply MemWf.sbuf) | (simp [*]; done))
@[simp] theorem mem_startErase (c : Nat) (s : State) (hw : MemWf s) : MemWf (startErase c s) := by
  unfold startErase
  repeat' (first | with_reducible (first | assumption | intro t x ht | intro t ht | apply mem_canvasEvent | apply mem_drainNeighbour | apply mem_modCnv | apply memWf_foldl | apply wf_foldl | apply wf_wrBytes | apply wf_wrByte | apply wf_wrWord | apply wf_wrHalf | apply wf_wrPair | apply wf_zeroRange | apply wf_obPut |  apply wf_setAb | (fail_if_no_progress refine memWf_same rfl rfl ?_)) | split | (rename_i he; have hd := congrArg Prod.snd he; dsimp only at hd; subst hd) | dsimp only | constructor | with_reducible (first | apply MemWf.ib | apply MemWf.ob | apply MemWf.ab | apply MemWf.rx | apply MemWf.sram | apply MemWf.near | apply MemWf.sbuf) | (simp [*]; done))
@[simp] theorem mem_eraseOp (h : Hdr) (c : Nat) (all : Bool) (s : State) (hw : MemWf s) : MemWf (eraseOp h c all s) := by
  unfold eraseOp
  repeat' (first | with_reducible (first | assumption | intro t x ht | intro t ht | apply mem_replyOutcome | apply mem_modCnv | apply mem_leaveOut | apply mem_startErase | apply memWf_foldl | apply wf_foldl | apply wf_wrBytes | apply wf_wrByte | apply wf_wrWord | apply wf_wrHalf | apply wf_wrPair | apply wf_zeroRange | apply wf_obPut |  apply wf_setAb | (fail_if_no_progress refine memWf_same rfl rfl ?_)) | split | (rename_i he; have hd := congrArg Prod.snd he; dsimp only at hd; subst hd) | dsimp only | constructor | with_reducible (first | apply MemWf.ib | apply MemWf.ob | apply MemWf.ab | apply MemWf.rx | apply MemWf.sram | apply MemWf.near | apply MemWf.sbuf) | (simp [*]; done))
@[simp] theorem mem_clearPlanes (p : Nat → Bool) (s : State) (hw : MemWf s) : MemWf (clearPlanes p s) := by
  simp [clearPlanes, *]
@[simp] theorem mem_wipeCanvas (c : Nat) (s : State) (hw : MemWf s) : MemWf (wipeCanvas c s) := by
  unfold wipeCanvas
  repeat' (first | with_reducible (first | assumption | intro t x ht | intro t ht | apply mem_endStaging | apply mem_modCnv | apply mem_emptyCanvas | apply memWf_foldl | apply wf_foldl | apply wf_wrBytes | apply wf_wrByte | apply wf_wrWord | apply wf_wrHalf | apply wf_wrPair | apply wf_zeroRange | apply wf_obPut |  apply wf_setAb | (fail_if_no_progress refine memWf_same rfl rfl ?_)) | split | (rename_i he; have hd := congrArg Prod.snd he; dsimp only at hd; subst hd) | dsimp only | constructor | with_reducible (first | apply MemWf.ib | apply MemWf.ob | apply MemWf.ab | apply MemWf.rx | apply MemWf.sram | apply MemWf.near | apply MemWf.sbuf) | (simp [*]; done))
@[simp] theorem mem_eraseCells (c : Nat) (s : State) (hw : MemWf s) : MemWf (eraseCells c s) := by
  unfold eraseCells
  repeat' (first | with_reducible (first | assumption | intro t x ht | intro t ht | apply mem_wearCore | apply mem_clearPlanes | apply memWf_foldl | apply wf_foldl | apply wf_wrBytes | apply wf_wrByte | apply wf_wrWord | apply wf_wrHalf | apply wf_wrPair | apply wf_zeroRange | apply wf_obPut |  apply wf_setAb | (fail_if_no_progress refine memWf_same rfl rfl ?_)) | split | (rename_i he; have hd := congrArg Prod.snd he; dsimp only at hd; subst hd) | dsimp only | constructor | with_reducible (first | apply MemWf.ib | apply MemWf.ob | apply MemWf.ab | apply MemWf.rx | apply MemWf.sram | apply MemWf.near | apply MemWf.sbuf) | (simp [*]; done))
@[simp] theorem mem_wipeModule (s : State) (hw : MemWf s) : MemWf (wipeModule s) := by
  unfold wipeModule
  extract_lets s1 s2
  have h2 : MemWf s2 := mem_clearPlanes _ _ (memWf_foldl _ (fun t x ht => mem_wipeCanvas x t ht) _ _ (memWf_foldl _ (fun t x ht => mem_wearCore _ _ ht) _ _ hw))
  clear_value s2
  exact memWf_same (s := s2) rfl rfl h2
@[simp] theorem mem_endRelease (s : State) (hw : MemWf s) : MemWf (endRelease s) := by
  unfold endRelease
  extract_lets s1
  have h1 : MemWf s1 := memWf_foldl _ (fun t x ht => mem_modPtn x _ t ht) _ _ (mem_wipeModule s hw)
  clear_value s1
  exact mem_fire _ _ _ _ _ _ (memWf_same (s := s1) rfl rfl h1)
@[simp] theorem mem_eraseCanvas (s : State) (c : Nat) (hw : MemWf s) : MemWf (eraseCanvas s c) := by
  unfold eraseCanvas
  repeat' (first | with_reducible (first | assumption | intro t x ht | intro t ht | apply mem_replyOutcomeLate | apply mem_settleHolds | apply mem_modCnv | apply mem_wipeCanvas | apply mem_eraseCells | apply memWf_foldl | apply wf_foldl | apply wf_wrBytes | apply wf_wrByte | apply wf_wrWord | apply wf_wrHalf | apply wf_wrPair | apply wf_zeroRange | apply wf_obPut |  apply wf_setAb | (fail_if_no_progress refine memWf_same rfl rfl ?_)) | split | (rename_i he; have hd := congrArg Prod.snd he; dsimp only at hd; subst hd) | dsimp only | constructor | with_reducible (first | apply MemWf.ib | apply MemWf.ob | apply MemWf.ab | apply MemWf.rx | apply MemWf.sram | apply MemWf.near | apply MemWf.sbuf) | (simp [*]; done))
@[simp] theorem mem_eraseModule (s : State) (hw : MemWf s) : MemWf (eraseModule s) := by
  have h1 := mem_wipeModule s hw
  unfold eraseModule
  split
  · split
    · exact hw
    · extract_lets w
      change MemWf w at h1
      clear_value w
      exact mem_replyOutcomeLate _ _ _ (memWf_same (s := w) rfl rfl h1)
  · exact hw
@[simp] theorem mem_eraseRelease (s : State) (hw : MemWf s) : MemWf (eraseRelease s) := by
  unfold eraseRelease
  repeat' (first | (simp [*]; done) | split)
@[simp] theorem mem_eraseDone (s : State) (hw : MemWf s) : MemWf (eraseDone s) := by
  unfold eraseDone
  repeat' (first | with_reducible (first | assumption | intro t x ht | intro t ht | apply mem_eraseRelease | apply mem_eraseModule | apply mem_eraseCanvas | apply memWf_foldl | apply wf_foldl | apply wf_wrBytes | apply wf_wrByte | apply wf_wrWord | apply wf_wrHalf | apply wf_wrPair | apply wf_zeroRange | apply wf_obPut |  apply wf_setAb | (fail_if_no_progress refine memWf_same rfl rfl ?_)) | split | (rename_i he; have hd := congrArg Prod.snd he; dsimp only at hd; subst hd) | dsimp only | constructor | with_reducible (first | apply MemWf.ib | apply MemWf.ob | apply MemWf.ab | apply MemWf.rx | apply MemWf.sram | apply MemWf.near | apply MemWf.sbuf) | (simp [*]; done))
/-! ### Tables -/
@[simp] theorem mem_fetchColumn (core array plane col : Nat) (s : State) (hw : MemWf s) : MemWf (fetchColumn core array plane col s) := by
  simp [fetchColumn, *]
@[simp] theorem mem_resetSetStats (canvas set : Nat) (s : State) (hw : MemWf s) : MemWf (resetSetStats canvas set s) := by
  simp [resetSetStats, *]
@[simp] theorem mem_channelAdd (canvas set index : Nat) (s : State) (hw : MemWf s) : MemWf (channelAdd canvas set index s) := by
  unfold channelAdd
  repeat' (first | with_reducible (first | assumption | intro t x ht | intro t ht | apply mem_fireArg | apply mem_resetSetStats | apply memWf_foldl | apply wf_foldl | apply wf_wrBytes | apply wf_wrByte | apply wf_wrWord | apply wf_wrHalf | apply wf_wrPair | apply wf_zeroRange | apply wf_obPut |  apply wf_setAb | (fail_if_no_progress refine memWf_same rfl rfl ?_)) | split | (rename_i he; have hd := congrArg Prod.snd he; dsimp only at hd; subst hd) | dsimp only | constructor | with_reducible (first | apply MemWf.ib | apply MemWf.ob | apply MemWf.ab | apply MemWf.rx | apply MemWf.sram | apply MemWf.near | apply MemWf.sbuf) | (simp [*]; done))
@[simp] theorem mem_channelLeave (canvas set index : Nat) (s : State) (hw : MemWf s) : MemWf (channelLeave canvas set index s) := by
  unfold channelLeave
  repeat' (first | with_reducible (first | assumption | intro t x ht | intro t ht | apply mem_resetSetStats | apply memWf_foldl | apply wf_foldl | apply wf_wrBytes | apply wf_wrByte | apply wf_wrWord | apply wf_wrHalf | apply wf_wrPair | apply wf_zeroRange | apply wf_obPut |  apply wf_setAb | (fail_if_no_progress refine memWf_same rfl rfl ?_)) | split | (rename_i he; have hd := congrArg Prod.snd he; dsimp only at hd; subst hd) | dsimp only | constructor | with_reducible (first | apply MemWf.ib | apply MemWf.ob | apply MemWf.ab | apply MemWf.rx | apply MemWf.sram | apply MemWf.near | apply MemWf.sbuf) | (simp [*]; done))
@[simp] theorem mem_tableHere (cluster tid : Nat) (s : State) (hw : MemWf s) : MemWf (tableHere cluster tid s) := by
  simp [tableHere, *]
@[simp] theorem mem_deriveAgain (cluster tid : Nat) (s : State) (hw : MemWf s) : MemWf (deriveAgain cluster tid s) := by
  unfold deriveAgain
  repeat' (first | (simp [*]; done) | split)
@[simp] theorem mem_retractStep (s : State) (hw : MemWf s) : MemWf (retractStep s) := by
  unfold retractStep; split <;> simp [*]
@[simp] theorem mem_tableFetch (cluster tid : Nat) (crcOk again : Bool) (s : State) (hw : MemWf s) : MemWf (tableFetch cluster tid crcOk again s) := by
  unfold tableFetch
  repeat' (first | with_reducible (first | assumption | intro t x ht | intro t ht | apply mem_tableHere | apply mem_retractStep | apply mem_deriveAgain | apply mem_fire | apply memWf_foldl | apply wf_foldl | apply wf_wrBytes | apply wf_wrByte | apply wf_wrWord | apply wf_wrHalf | apply wf_wrPair | apply wf_zeroRange | apply wf_obPut |  apply wf_setAb | (fail_if_no_progress refine memWf_same rfl rfl ?_)) | split | (rename_i he; have hd := congrArg Prod.snd he; dsimp only at hd; subst hd) | dsimp only | constructor | with_reducible (first | apply MemWf.ib | apply MemWf.ob | apply MemWf.ab | apply MemWf.rx | apply MemWf.sram | apply MemWf.near | apply MemWf.sbuf) | (simp [*]; done))

end Sys2Proof.Machine
end

