-- ==== Sys2Proof/Laws/MemModule.lean ====
section
/-! SUPPORT. The canonical form of the memories under the memory, requests, recorder, power, network, firmware, registers, sideband and start. -/

namespace Sys2Proof.Machine

/-! ### Memory -/
@[simp] theorem mem_countCe (tier : Nat) (s : State) (hw : MemWf s) : MemWf (countCe tier s) := by
  simp [countCe, *]
@[simp] theorem mem_dropSlice (cluster slice : Nat) (s : State) (hw : MemWf s) : MemWf (dropSlice cluster slice s) := by
  simp [dropSlice, *]
@[simp] theorem mem_losePaused (ix : Nat) (s : State) (hw : MemWf s) : MemWf (losePaused ix s) := by
  simp [losePaused, *]
@[simp] theorem mem_loseStaged (c : Nat) (s : State) (hw : MemWf s) : MemWf (loseStaged c s) := by
  unfold loseStaged
  repeat' (first | with_reducible (first | assumption | intro t x ht | intro t ht | apply mem_canvasEvent | apply mem_modCnv | apply mem_tryAbort | apply memWf_foldl | apply wf_foldl | apply wf_wrBytes | apply wf_wrByte | apply wf_wrWord | apply wf_wrHalf | apply wf_wrPair | apply wf_zeroRange | apply wf_obPut |  apply wf_setAb | (fail_if_no_progress refine memWf_same rfl rfl ?_)) | split | (rename_i he; have hd := congrArg Prod.snd he; dsimp only at hd; subst hd) | dsimp only | constructor | with_reducible (first | apply MemWf.ib | apply MemWf.ob | apply MemWf.ab | apply MemWf.rx | apply MemWf.sram | apply MemWf.near | apply MemWf.sbuf) | (simp [*]; done))
@[simp] theorem mem_loseRegion (r : FarRegion) (s : State) (hw : MemWf s) : MemWf (loseRegion r s) := by
  unfold loseRegion; split <;> simp [*]
@[simp] theorem mem_farError (r : FarRegion) (s : State) (hw : MemWf s) : MemWf (farError r s) := by
  unfold farError
  repeat' (first | with_reducible (first | assumption | intro t x ht | intro t ht | apply mem_loseRegion | apply mem_fire | apply memWf_foldl | apply wf_foldl | apply wf_wrBytes | apply wf_wrByte | apply wf_wrWord | apply wf_wrHalf | apply wf_wrPair | apply wf_zeroRange | apply wf_obPut |  apply wf_setAb | (fail_if_no_progress refine memWf_same rfl rfl ?_)) | split | (rename_i he; have hd := congrArg Prod.snd he; dsimp only at hd; subst hd) | dsimp only | constructor | with_reducible (first | apply MemWf.ib | apply MemWf.ob | apply MemWf.ab | apply MemWf.rx | apply MemWf.sram | apply MemWf.near | apply MemWf.sbuf) | (simp [*]; done))
@[simp] theorem mem_endReadback (eng : Nat) (s : State) (hw : MemWf s) : MemWf (endReadback eng s) := by
  unfold endReadback
  repeat' (first | with_reducible (first | assumption | intro t x ht | intro t ht | apply mem_unhold | apply mem_modCnv | apply memWf_foldl | apply wf_foldl | apply wf_wrBytes | apply wf_wrByte | apply wf_wrWord | apply wf_wrHalf | apply wf_wrPair | apply wf_zeroRange | apply wf_obPut |  apply wf_setAb | (fail_if_no_progress refine memWf_same rfl rfl ?_)) | split | (rename_i he; have hd := congrArg Prod.snd he; dsimp only at hd; subst hd) | dsimp only | constructor | with_reducible (first | apply MemWf.ib | apply MemWf.ob | apply MemWf.ab | apply MemWf.rx | apply MemWf.sram | apply MemWf.near | apply MemWf.sbuf) | (simp [*]; done))
@[simp] theorem mem_readback (c pk : Nat) (crcOk : Bool) (s : State) (hw : MemWf s) : MemWf (readback c pk crcOk s) := by
  unfold readback
  repeat' (first | with_reducible (first | assumption | intro t x ht | intro t ht | apply mem_endReadback | apply mem_healthCanvas | apply mem_modCnv | apply memWf_foldl | apply wf_foldl | apply wf_wrBytes | apply wf_wrByte | apply wf_wrWord | apply wf_wrHalf | apply wf_wrPair | apply wf_zeroRange | apply wf_obPut |  apply wf_setAb | (fail_if_no_progress refine memWf_same rfl rfl ?_)) | split | (rename_i he; have hd := congrArg Prod.snd he; dsimp only at hd; subst hd) | dsimp only | constructor | with_reducible (first | apply MemWf.ib | apply MemWf.ob | apply MemWf.ab | apply MemWf.rx | apply MemWf.sram | apply MemWf.near | apply MemWf.sbuf) | (simp [*]; done))
@[simp] theorem mem_repairPage (ix : Nat) (s : State) (p : Nat × Nat) (hw : MemWf s) : MemWf (repairPage ix s p) := by
  unfold repairPage
  repeat' (first | with_reducible (first | assumption | intro t x ht | intro t ht | apply mem_moveFrame | apply mem_nearAll | apply memWf_foldl | apply wf_foldl | apply wf_wrBytes | apply wf_wrByte | apply wf_wrWord | apply wf_wrHalf | apply wf_wrPair | apply wf_zeroRange | apply wf_obPut |  apply wf_setAb | (fail_if_no_progress refine memWf_same rfl rfl ?_)) | split | (rename_i he; have hd := congrArg Prod.snd he; dsimp only at hd; subst hd) | dsimp only | constructor | with_reducible (first | apply MemWf.ib | apply MemWf.ob | apply MemWf.ab | apply MemWf.rx | apply MemWf.sram | apply MemWf.near | apply MemWf.sbuf) | (simp [*]; done))
@[simp] theorem mem_repairPoison (ix : Nat) (s : State) (hw : MemWf s) : MemWf (repairPoison ix s) := by
  unfold repairPoison
  repeat' (first | with_reducible (first | assumption | intro t x ht | intro t ht | apply mem_modEntry | apply mem_repairPage | apply memWf_foldl | apply wf_foldl | apply wf_wrBytes | apply wf_wrByte | apply wf_wrWord | apply wf_wrHalf | apply wf_wrPair | apply wf_zeroRange | apply wf_obPut |  apply wf_setAb | (fail_if_no_progress refine memWf_same rfl rfl ?_)) | split | (rename_i he; have hd := congrArg Prod.snd he; dsimp only at hd; subst hd) | dsimp only | constructor | with_reducible (first | apply MemWf.ib | apply MemWf.ob | apply MemWf.ab | apply MemWf.rx | apply MemWf.sram | apply MemWf.near | apply MemWf.sbuf) | (simp [*]; done))
/-! ### Requests -/
@[simp] theorem mem_answer (late : Bool) (h : Hdr) (st arg handle : Nat) (s : State) (hw : MemWf s) : MemWf (answer late h st arg handle s) := by
  simp [answer, *]
@[simp] theorem mem_takeEntry (ix : Nat) (e : Entry) (s : State) (hw : MemWf s) : MemWf (takeEntry ix e s) := by
  simp [takeEntry, *]
@[simp] theorem mem_setPresence (ix : Nat) (s : State) (hw : MemWf s) : MemWf (setPresence ix s) := by
  simp [setPresence, *]
@[simp] theorem mem_admitEntry (late : Bool) (h : Hdr) (ix c : Nat) (sv : Option Saved) (s : State) (hw : MemWf s) : MemWf (admitEntry late h ix c sv s) := by
  unfold admitEntry
  repeat' (first | (simp [*]; done) | split)
@[simp] theorem mem_submitDecide (late : Bool) (h : Hdr) (b : SubmitBody) (s : State) (hw : MemWf s) : MemWf (submitDecide late h b s) := by
  unfold submitDecide
  repeat' (first | with_reducible (first | assumption | intro t x ht | intro t ht | apply mem_answer | apply mem_admitEntry | apply mem_setPresence | apply mem_takeEntry | apply memWf_foldl | apply wf_foldl | apply wf_wrBytes | apply wf_wrByte | apply wf_wrWord | apply wf_wrHalf | apply wf_wrPair | apply wf_zeroRange | apply wf_obPut |  apply wf_setAb | (fail_if_no_progress refine memWf_same rfl rfl ?_)) | split | (rename_i he; have hd := congrArg Prod.snd he; dsimp only at hd; subst hd) | dsimp only | constructor | with_reducible (first | apply MemWf.ib | apply MemWf.ob | apply MemWf.ab | apply MemWf.rx | apply MemWf.sram | apply MemWf.near | apply MemWf.sbuf) | (simp [*]; done))
@[simp] theorem mem_continueDecide (late : Bool) (h : Hdr) (b : SubmitBody) (s : State) (hw : MemWf s) : MemWf (continueDecide late h b s) := by
  unfold continueDecide
  repeat' (first | with_reducible (first | assumption | intro t x ht | intro t ht | apply mem_answer | apply mem_modEntry | apply mem_setPresence | apply mem_admitEntry | apply memWf_foldl | apply wf_foldl | apply wf_wrBytes | apply wf_wrByte | apply wf_wrWord | apply wf_wrHalf | apply wf_wrPair | apply wf_zeroRange | apply wf_obPut |  apply wf_setAb | (fail_if_no_progress refine memWf_same rfl rfl ?_)) | split | (rename_i he; have hd := congrArg Prod.snd he; dsimp only at hd; subst hd) | dsimp only | constructor | with_reducible (first | apply MemWf.ib | apply MemWf.ob | apply MemWf.ab | apply MemWf.rx | apply MemWf.sram | apply MemWf.near | apply MemWf.sbuf) | (simp [*]; done))
@[simp] theorem mem_holdForExport (ix : Nat) (h : Hdr) (b : Option SubmitBody) (s : State) (hw : MemWf s) : MemWf (holdForExport ix h b s) := by
  simp [holdForExport, *]
@[simp] theorem mem_continueCmd (late : Bool) (h : Hdr) (b : SubmitBody) (s : State) (hw : MemWf s) : MemWf (continueCmd late h b s) := by
  unfold continueCmd
  repeat' (first | (simp [*]; done) | split)
@[simp] theorem mem_openParts (h : Hdr) (cont : Bool) (b : SubmitBody) (s : State) (hw : MemWf s) : MemWf (openParts h cont b s) := by
  simp [openParts, *]
@[simp] theorem mem_promptOp (h : Hdr) (words : List Nat) (bytes : List Byte) (last : Bool) (s : State) (hw : MemWf s) : MemWf (promptOp h words bytes last s) := by
  unfold promptOp
  repeat' (first | with_reducible (first | assumption | intro t x ht | intro t ht | apply mem_reply | apply mem_modPtn | apply mem_continueCmd | apply mem_submitDecide | apply memWf_foldl | apply wf_foldl | apply wf_wrBytes | apply wf_wrByte | apply wf_wrWord | apply wf_wrHalf | apply wf_wrPair | apply wf_zeroRange | apply wf_obPut |  apply wf_setAb | (fail_if_no_progress refine memWf_same rfl rfl ?_)) | split | (rename_i he; have hd := congrArg Prod.snd he; dsimp only at hd; subst hd) | dsimp only | constructor | with_reducible (first | apply MemWf.ib | apply MemWf.ob | apply MemWf.ab | apply MemWf.rx | apply MemWf.sram | apply MemWf.near | apply MemWf.sbuf) | (simp [*]; done))
@[simp] theorem mem_cancelEntry (ix : Nat) (s : State) (hw : MemWf s) : MemWf (cancelEntry ix s) := by
  unfold cancelEntry
  repeat' (first | with_reducible (first | assumption | intro t x ht | intro t ht | apply mem_retireWith | apply mem_modEntry | apply mem_endRequest | apply memWf_foldl | apply wf_foldl | apply wf_wrBytes | apply wf_wrByte | apply wf_wrWord | apply wf_wrHalf | apply wf_wrPair | apply wf_zeroRange | apply wf_obPut |  apply wf_setAb | (fail_if_no_progress refine memWf_same rfl rfl ?_)) | split | (rename_i he; have hd := congrArg Prod.snd he; dsimp only at hd; subst hd) | dsimp only | constructor | with_reducible (first | apply MemWf.ib | apply MemWf.ob | apply MemWf.ab | apply MemWf.rx | apply MemWf.sram | apply MemWf.near | apply MemWf.sbuf) | (simp [*]; done))
@[simp] theorem mem_cancelOp (h : Hdr) (s : State) (hw : MemWf s) : MemWf (cancelOp h s) := by
  unfold cancelOp
  repeat' (first | with_reducible (first | assumption | intro t x ht | intro t ht | apply mem_reply | apply mem_cancelEntry | apply memWf_foldl | apply wf_foldl | apply wf_wrBytes | apply wf_wrByte | apply wf_wrWord | apply wf_wrHalf | apply wf_wrPair | apply wf_zeroRange | apply wf_obPut |  apply wf_setAb | (fail_if_no_progress refine memWf_same rfl rfl ?_)) | split | (rename_i he; have hd := congrArg Prod.snd he; dsimp only at hd; subst hd) | dsimp only | constructor | with_reducible (first | apply MemWf.ib | apply MemWf.ob | apply MemWf.ab | apply MemWf.rx | apply MemWf.sram | apply MemWf.near | apply MemWf.sbuf) | (simp [*]; done))
@[simp] theorem mem_pauseOp (h : Hdr) (s : State) (hw : MemWf s) : MemWf (pauseOp h s) := by
  unfold pauseOp
  repeat' (first | with_reducible (first | assumption | intro t x ht | intro t ht | apply mem_reply | apply mem_modEntry | apply memWf_foldl | apply wf_foldl | apply wf_wrBytes | apply wf_wrByte | apply wf_wrWord | apply wf_wrHalf | apply wf_wrPair | apply wf_zeroRange | apply wf_obPut |  apply wf_setAb | (fail_if_no_progress refine memWf_same rfl rfl ?_)) | split | (rename_i he; have hd := congrArg Prod.snd he; dsimp only at hd; subst hd) | dsimp only | constructor | with_reducible (first | apply MemWf.ib | apply MemWf.ob | apply MemWf.ab | apply MemWf.rx | apply MemWf.sram | apply MemWf.near | apply MemWf.sbuf) | (simp [*]; done))
@[simp] theorem mem_resumeDecide (late : Bool) (h : Hdr) (s : State) (hw : MemWf s) : MemWf (resumeDecide late h s) := by
  unfold resumeDecide
  repeat' (first | with_reducible (first | assumption | intro t x ht | intro t ht | apply mem_answer | apply mem_modEntry | apply memWf_foldl | apply wf_foldl | apply wf_wrBytes | apply wf_wrByte | apply wf_wrWord | apply wf_wrHalf | apply wf_wrPair | apply wf_zeroRange | apply wf_obPut |  apply wf_setAb | (fail_if_no_progress refine memWf_same rfl rfl ?_)) | split | (rename_i he; have hd := congrArg Prod.snd he; dsimp only at hd; subst hd) | dsimp only | constructor | with_reducible (first | apply MemWf.ib | apply MemWf.ob | apply MemWf.ab | apply MemWf.rx | apply MemWf.sram | apply MemWf.near | apply MemWf.sbuf) | (simp [*]; done))
@[simp] theorem mem_resumeCmd (h : Hdr) (s : State) (hw : MemWf s) : MemWf (resumeCmd h s) := by
  unfold resumeCmd
  repeat' (first | with_reducible (first | assumption | intro t x ht | intro t ht | apply mem_holdForExport | apply mem_leaveOut | apply mem_resumeDecide | apply memWf_foldl | apply wf_foldl | apply wf_wrBytes | apply wf_wrByte | apply wf_wrWord | apply wf_wrHalf | apply wf_wrPair | apply wf_zeroRange | apply wf_obPut |  apply wf_setAb | (fail_if_no_progress refine memWf_same rfl rfl ?_)) | split | (rename_i he; have hd := congrArg Prod.snd he; dsimp only at hd; subst hd) | dsimp only | constructor | with_reducible (first | apply MemWf.ib | apply MemWf.ob | apply MemWf.ab | apply MemWf.rx | apply MemWf.sram | apply MemWf.near | apply MemWf.sbuf) | (simp [*]; done))
@[simp] theorem mem_discardOp (h : Hdr) (s : State) (hw : MemWf s) : MemWf (discardOp h s) := by
  unfold discardOp
  repeat' (first | with_reducible (first | assumption | intro t x ht | intro t ht | apply mem_reply | apply mem_modEntry | apply memWf_foldl | apply wf_foldl | apply wf_wrBytes | apply wf_wrByte | apply wf_wrWord | apply wf_wrHalf | apply wf_wrPair | apply wf_zeroRange | apply wf_obPut |  apply wf_setAb | (fail_if_no_progress refine memWf_same rfl rfl ?_)) | split | (rename_i he; have hd := congrArg Prod.snd he; dsimp only at hd; subst hd) | dsimp only | constructor | with_reducible (first | apply MemWf.ib | apply MemWf.ob | apply MemWf.ab | apply MemWf.rx | apply MemWf.sram | apply MemWf.near | apply MemWf.sbuf) | (simp [*]; done))
@[simp] theorem mem_sendPackage (ix : Nat) (s : State) (hw : MemWf s) : MemWf (sendPackage ix s) := by
  unfold sendPackage
  repeat' (first | with_reducible (first | assumption | intro t x ht | intro t ht | apply mem_post | apply memWf_foldl | apply wf_foldl | apply wf_wrBytes | apply wf_wrByte | apply wf_wrWord | apply wf_wrHalf | apply wf_wrPair | apply wf_zeroRange | apply wf_obPut |  apply wf_setAb | (fail_if_no_progress refine memWf_same rfl rfl ?_)) | split | (rename_i he; have hd := congrArg Prod.snd he; dsimp only at hd; subst hd) | dsimp only | constructor | with_reducible (first | apply MemWf.ib | apply MemWf.ob | apply MemWf.ab | apply MemWf.rx | apply MemWf.sram | apply MemWf.near | apply MemWf.sbuf) | (simp [*]; done))
@[simp] theorem mem_exportOp (h : Hdr) (release : Bool) (peer : Nat) (s : State) (hw : MemWf s) : MemWf (exportOp h release peer s) := by
  unfold exportOp
  repeat' (first | with_reducible (first | assumption | intro t x ht | intro t ht | apply mem_release | apply mem_reply | apply mem_modEntry | apply mem_sendPackage | apply memWf_foldl | apply wf_foldl | apply wf_wrBytes | apply wf_wrByte | apply wf_wrWord | apply wf_wrHalf | apply wf_wrPair | apply wf_zeroRange | apply wf_obPut |  apply wf_setAb | (fail_if_no_progress refine memWf_same rfl rfl ?_)) | split | (rename_i he; have hd := congrArg Prod.snd he; dsimp only at hd; subst hd) | dsimp only | constructor | with_reducible (first | apply MemWf.ib | apply MemWf.ob | apply MemWf.ab | apply MemWf.rx | apply MemWf.sram | apply MemWf.near | apply MemWf.sbuf) | (simp [*]; done))
@[simp] theorem mem_decideWaiting (s : State) (w : Hdr × Option SubmitBody) (hw : MemWf s) : MemWf (decideWaiting s w) := by
  unfold decideWaiting; split <;> simp [*]
@[simp] theorem mem_exportEnd (ix : Nat) (s : State) (hw : MemWf s) : MemWf (exportEnd ix s) := by
  unfold exportEnd
  repeat' (first | with_reducible (first | assumption | intro t x ht | intro t ht | apply mem_modEntry | apply mem_decideWaiting | apply mem_retire | apply memWf_foldl | apply wf_foldl | apply wf_wrBytes | apply wf_wrByte | apply wf_wrWord | apply wf_wrHalf | apply wf_wrPair | apply wf_zeroRange | apply wf_obPut |  apply wf_setAb | (fail_if_no_progress refine memWf_same rfl rfl ?_)) | split | (rename_i he; have hd := congrArg Prod.snd he; dsimp only at hd; subst hd) | dsimp only | constructor | with_reducible (first | apply MemWf.ib | apply MemWf.ob | apply MemWf.ab | apply MemWf.rx | apply MemWf.sram | apply MemWf.near | apply MemWf.sbuf) | (simp [*]; done))
@[simp] theorem mem_importOp (h : Hdr) (p : Package) (s : State) (hw : MemWf s) : MemWf (importOp h p s) := by
  unfold importOp
  repeat' (first | with_reducible (first | assumption | intro t x ht | intro t ht | apply mem_reply | apply mem_takeEntry | apply mem_replyFull | apply memWf_foldl | apply wf_foldl | apply wf_wrBytes | apply wf_wrByte | apply wf_wrWord | apply wf_wrHalf | apply wf_wrPair | apply wf_zeroRange | apply wf_obPut |  apply wf_setAb | (fail_if_no_progress refine memWf_same rfl rfl ?_)) | split | (rename_i he; have hd := congrArg Prod.snd he; dsimp only at hd; subst hd) | dsimp only | constructor | with_reducible (first | apply MemWf.ib | apply MemWf.ob | apply MemWf.ab | apply MemWf.rx | apply MemWf.sram | apply MemWf.near | apply MemWf.sbuf) | (simp [*]; done))
@[simp] theorem mem_tintLoadOp (h : Hdr) (slot : Nat) (rebind : Bool) (hash : Nat) (pairs : List TintPair) (s : State) (hw : MemWf s) : MemWf (tintLoadOp h slot rebind hash pairs s) := by
  unfold tintLoadOp
  repeat' (first | with_reducible (first | assumption | intro t x ht | intro t ht | apply mem_reply | apply mem_modPtn | apply mem_modEntry | apply memWf_foldl | apply wf_foldl | apply wf_wrBytes | apply wf_wrByte | apply wf_wrWord | apply wf_wrHalf | apply wf_wrPair | apply wf_zeroRange | apply wf_obPut |  apply wf_setAb | (fail_if_no_progress refine memWf_same rfl rfl ?_)) | split | (rename_i he; have hd := congrArg Prod.snd he; dsimp only at hd; subst hd) | dsimp only | constructor | with_reducible (first | apply MemWf.ib | apply MemWf.ob | apply MemWf.ab | apply MemWf.rx | apply MemWf.sram | apply MemWf.near | apply MemWf.sbuf) | (simp [*]; done))
@[simp] theorem mem_tintDeleteOp (h : Hdr) (slot : Nat) (s : State) (hw : MemWf s) : MemWf (tintDeleteOp h slot s) := by
  unfold tintDeleteOp
  repeat' (first | with_reducible (first | assumption | intro t x ht | intro t ht | apply mem_reply | apply mem_endRequest | apply mem_modPtn | apply memWf_foldl | apply wf_foldl | apply wf_wrBytes | apply wf_wrByte | apply wf_wrWord | apply wf_wrHalf | apply wf_wrPair | apply wf_zeroRange | apply wf_obPut |  apply wf_setAb | (fail_if_no_progress refine memWf_same rfl rfl ?_)) | split | (rename_i he; have hd := congrArg Prod.snd he; dsimp only at hd; subst hd) | dsimp only | constructor | with_reducible (first | apply MemWf.ib | apply MemWf.ob | apply MemWf.ab | apply MemWf.rx | apply MemWf.sram | apply MemWf.near | apply MemWf.sbuf) | (simp [*]; done))
@[simp] theorem mem_dropCompletion (q : Nat) (s : State) (c : CqEnt) (hw : MemWf s) : MemWf (dropCompletion q s c) := by
  simp [dropCompletion, *]
@[simp] theorem mem_cqReadOp (h : Hdr) (cq count : Nat) (s : State) (hw : MemWf s) : MemWf (cqReadOp h cq count s) := by
  unfold cqReadOp
  repeat' (first | with_reducible (first | assumption | intro t x ht | intro t ht | apply mem_replyFull | apply mem_dropCompletion | apply mem_modPtn | apply memWf_foldl | apply wf_foldl | apply wf_wrBytes | apply wf_wrByte | apply wf_wrWord | apply wf_wrHalf | apply wf_wrPair | apply wf_zeroRange | apply wf_obPut |  apply wf_setAb | (fail_if_no_progress refine memWf_same rfl rfl ?_)) | split | (rename_i he; have hd := congrArg Prod.snd he; dsimp only at hd; subst hd) | dsimp only | constructor | with_reducible (first | apply MemWf.ib | apply MemWf.ob | apply MemWf.ab | apply MemWf.rx | apply MemWf.sram | apply MemWf.near | apply MemWf.sbuf) | (simp [*]; done))
@[simp] theorem mem_admissionWait (ix : Nat) (s : State) (hw : MemWf s) : MemWf (admissionWait ix s) := by
  unfold admissionWait
  repeat' (first | with_reducible (first | assumption | intro t x ht | intro t ht | apply mem_setPresence | apply mem_modEntry | apply mem_freeEntry | apply mem_replyLate | apply memWf_foldl | apply wf_foldl | apply wf_wrBytes | apply wf_wrByte | apply wf_wrWord | apply wf_wrHalf | apply wf_wrPair | apply wf_zeroRange | apply wf_obPut |  apply wf_setAb | (fail_if_no_progress refine memWf_same rfl rfl ?_)) | split | (rename_i he; have hd := congrArg Prod.snd he; dsimp only at hd; subst hd) | dsimp only | constructor | with_reducible (first | apply MemWf.ib | apply MemWf.ob | apply MemWf.ab | apply MemWf.rx | apply MemWf.sram | apply MemWf.near | apply MemWf.sbuf) | (simp [*]; done))
@[simp] theorem mem_deadlineOp (ix : Nat) (s : State) (hw : MemWf s) : MemWf (deadlineOp ix s) := by
  unfold deadlineOp
  repeat' (first | with_reducible (first | assumption | intro t x ht | intro t ht | apply mem_complete | apply mem_retireWith | apply mem_killNow | apply memWf_foldl | apply wf_foldl | apply wf_wrBytes | apply wf_wrByte | apply wf_wrWord | apply wf_wrHalf | apply wf_wrPair | apply wf_zeroRange | apply wf_obPut |  apply wf_setAb | (fail_if_no_progress refine memWf_same rfl rfl ?_)) | split | (rename_i he; have hd := congrArg Prod.snd he; dsimp only at hd; subst hd) | dsimp only | constructor | with_reducible (first | apply MemWf.ib | apply MemWf.ob | apply MemWf.ab | apply MemWf.rx | apply MemWf.sram | apply MemWf.near | apply MemWf.sbuf) | (simp [*]; done))
@[simp] theorem mem_ttlOp (ix : Nat) (s : State) (hw : MemWf s) : MemWf (ttlOp ix s) := by
  simp [ttlOp, *]
@[simp] theorem mem_idleOp (ix : Nat) (s : State) (hw : MemWf s) : MemWf (idleOp ix s) := by
  simp [idleOp, *]
@[simp] theorem mem_pauseDone (ix : Nat) (s : State) (hw : MemWf s) : MemWf (pauseDone ix s) := by
  unfold pauseDone
  repeat' (first | with_reducible (first | assumption | intro t x ht | intro t ht | apply mem_freePages | apply mem_modEntry | apply mem_sendPackage | apply mem_complete | apply memWf_foldl | apply wf_foldl | apply wf_wrBytes | apply wf_wrByte | apply wf_wrWord | apply wf_wrHalf | apply wf_wrPair | apply wf_zeroRange | apply wf_obPut |  apply wf_setAb | (fail_if_no_progress refine memWf_same rfl rfl ?_)) | split | (rename_i he; have hd := congrArg Prod.snd he; dsimp only at hd; subst hd) | dsimp only | constructor | with_reducible (first | apply MemWf.ib | apply MemWf.ob | apply MemWf.ab | apply MemWf.rx | apply MemWf.sram | apply MemWf.near | apply MemWf.sbuf) | (simp [*]; done))
@[simp] theorem mem_resumeDone (ix : Nat) (s : State) (hw : MemWf s) : MemWf (resumeDone ix s) := by
  unfold resumeDone
  repeat' (first | with_reducible (first | assumption | intro t x ht | intro t ht | apply mem_farReturn | apply mem_setPresence | apply mem_modEntry | apply memWf_foldl | apply wf_foldl | apply wf_wrBytes | apply wf_wrByte | apply wf_wrWord | apply wf_wrHalf | apply wf_wrPair | apply wf_zeroRange | apply wf_obPut |  apply wf_setAb | (fail_if_no_progress refine memWf_same rfl rfl ?_)) | split | (rename_i he; have hd := congrArg Prod.snd he; dsimp only at hd; subst hd) | dsimp only | constructor | with_reducible (first | apply MemWf.ib | apply MemWf.ob | apply MemWf.ab | apply MemWf.rx | apply MemWf.sram | apply MemWf.near | apply MemWf.sbuf) | (simp [*]; done))
@[simp] theorem mem_scrubEnds (mark : Nat) (s : State) (hw : MemWf s) : MemWf (scrubEnds mark s) := by
  unfold scrubEnds; split <;> simp [*]
@[simp] theorem mem_scrubbed (ptn frame : Nat) (far : Bool) (s : State) (hw : MemWf s) : MemWf (scrubbed ptn frame far s) := by
  unfold scrubbed
  repeat' (first | with_reducible (first | assumption | intro t x ht | intro t ht | apply mem_scrubEnds | apply memWf_foldl | apply wf_foldl | apply wf_wrBytes | apply wf_wrByte | apply wf_wrWord | apply wf_wrHalf | apply wf_wrPair | apply wf_zeroRange | apply wf_obPut |  apply wf_setAb | (fail_if_no_progress refine memWf_same rfl rfl ?_)) | split | (rename_i he; have hd := congrArg Prod.snd he; dsimp only at hd; subst hd) | dsimp only | constructor | with_reducible (first | apply MemWf.ib | apply MemWf.ob | apply MemWf.ab | apply MemWf.rx | apply MemWf.sram | apply MemWf.near | apply MemWf.sbuf) | (simp [*]; done))
@[simp] theorem mem_loadDrain (c : Nat) (s : State) (hw : MemWf s) : MemWf (loadDrain c s) := by
  unfold loadDrain
  repeat' (first | with_reducible (first | assumption | intro t x ht | intro t ht | apply mem_endRequest | apply memWf_foldl | apply wf_foldl | apply wf_wrBytes | apply wf_wrByte | apply wf_wrWord | apply wf_wrHalf | apply wf_wrPair | apply wf_zeroRange | apply wf_obPut |  apply wf_setAb | (fail_if_no_progress refine memWf_same rfl rfl ?_)) | split | (rename_i he; have hd := congrArg Prod.snd he; dsimp only at hd; subst hd) | dsimp only | constructor | with_reducible (first | apply MemWf.ib | apply MemWf.ob | apply MemWf.ab | apply MemWf.rx | apply MemWf.sram | apply MemWf.near | apply MemWf.sbuf) | (simp [*]; done))
@[simp] theorem mem_leaseEvent (role what ses : Nat) (s : State) (hw : MemWf s) : MemWf (leaseEvent role what ses s) := by
  unfold leaseEvent; split <;> simp [*]
@[simp] theorem mem_leaseTest (s : State) (hw : MemWf s) : MemWf (leaseTest s) := by
  unfold leaseTest
  repeat' (first | with_reducible (first | assumption | intro t x ht | intro t ht | apply mem_leaseEvent | apply mem_modSes | apply memWf_foldl | apply wf_foldl | apply wf_wrBytes | apply wf_wrByte | apply wf_wrWord | apply wf_wrHalf | apply wf_wrPair | apply wf_zeroRange | apply wf_obPut |  apply wf_setAb | (fail_if_no_progress refine memWf_same rfl rfl ?_)) | split | (rename_i he; have hd := congrArg Prod.snd he; dsimp only at hd; subst hd) | dsimp only | constructor | with_reducible (first | apply MemWf.ib | apply MemWf.ob | apply MemWf.ab | apply MemWf.rx | apply MemWf.sram | apply MemWf.near | apply MemWf.sbuf) | (simp [*]; done))
@[simp] theorem mem_endSession (k : Nat) (s : State) (hw : MemWf s) : MemWf (endSession k s) := by
  unfold endSession
  repeat' (first | with_reducible (first | assumption | intro t x ht | intro t ht | apply mem_modPtn | apply mem_modSes | apply memWf_foldl | apply wf_foldl | apply wf_wrBytes | apply wf_wrByte | apply wf_wrWord | apply wf_wrHalf | apply wf_wrPair | apply wf_zeroRange | apply wf_obPut |  apply wf_setAb | (fail_if_no_progress refine memWf_same rfl rfl ?_)) | split | (rename_i he; have hd := congrArg Prod.snd he; dsimp only at hd; subst hd) | dsimp only | constructor | with_reducible (first | apply MemWf.ib | apply MemWf.ob | apply MemWf.ab | apply MemWf.rx | apply MemWf.sram | apply MemWf.near | apply MemWf.sbuf) | (simp [*]; done))
@[simp] theorem mem_graceOver (k : Nat) (s : State) (hw : MemWf s) : MemWf (graceOver k s) := by
  unfold graceOver
  repeat' (first | with_reducible (first | assumption | intro t x ht | intro t ht | apply mem_modEntry | apply mem_endRequest | apply mem_leaseEvent | apply mem_endSession | apply memWf_foldl | apply wf_foldl | apply wf_wrBytes | apply wf_wrByte | apply wf_wrWord | apply wf_wrHalf | apply wf_wrPair | apply wf_zeroRange | apply wf_obPut |  apply wf_setAb | (fail_if_no_progress refine memWf_same rfl rfl ?_)) | split | (rename_i he; have hd := congrArg Prod.snd he; dsimp only at hd; subst hd) | dsimp only | constructor | with_reducible (first | apply MemWf.ib | apply MemWf.ob | apply MemWf.ab | apply MemWf.rx | apply MemWf.sram | apply MemWf.near | apply MemWf.sbuf) | (simp [*]; done))
/-! ### Net -/
@[simp] theorem mem_modPath (k net : Nat) (f : PathRec → PathRec) (s : State) (hw : MemWf s) : MemWf (modPath k net f s) := by
  simp [modPath, *]
@[simp] theorem mem_pumpAll (s : State) (hw : MemWf s) : MemWf (pumpAll s) := by
  simp [pumpAll, *]
@[simp] theorem mem_netTick (s : State) (hw : MemWf s) : MemWf (netTick s) := by
  simp [netTick, *]
@[simp] theorem mem_resendAll (k : Nat) (s : State) (hw : MemWf s) : MemWf (resendAll k s) := by
  simp [resendAll, *]
@[simp] theorem mem_pathEvent (k what port : Nat) (s : State) (hw : MemWf s) : MemWf (pathEvent k what port s) := by
  simp [pathEvent, *]
@[simp] theorem mem_pathDown (k net : Nat) (s : State) (hw : MemWf s) : MemWf (pathDown k net s) := by
  unfold pathDown
  repeat' (first | with_reducible (first | assumption | intro t x ht | intro t ht | apply mem_pathEvent | apply mem_resendAll | apply mem_modPath | apply memWf_foldl | apply wf_foldl | apply wf_wrBytes | apply wf_wrByte | apply wf_wrWord | apply wf_wrHalf | apply wf_wrPair | apply wf_zeroRange | apply wf_obPut |  apply wf_setAb | (fail_if_no_progress refine memWf_same rfl rfl ?_)) | split | (rename_i he; have hd := congrArg Prod.snd he; dsimp only at hd; subst hd) | dsimp only | constructor | with_reducible (first | apply MemWf.ib | apply MemWf.ob | apply MemWf.ab | apply MemWf.rx | apply MemWf.sram | apply MemWf.near | apply MemWf.sbuf) | (simp [*]; done))
@[simp] theorem mem_pathUp (k net : Nat) (s : State) (hw : MemWf s) : MemWf (pathUp k net s) := by
  unfold pathUp
  repeat' (first | with_reducible (first | assumption | intro t x ht | intro t ht | apply mem_modPath | apply mem_resendAll | apply mem_pathEvent | apply memWf_foldl | apply wf_foldl | apply wf_wrBytes | apply wf_wrByte | apply wf_wrWord | apply wf_wrHalf | apply wf_wrPair | apply wf_zeroRange | apply wf_obPut |  apply wf_setAb | (fail_if_no_progress refine memWf_same rfl rfl ?_)) | split | (rename_i he; have hd := congrArg Prod.snd he; dsimp only at hd; subst hd) | dsimp only | constructor | with_reducible (first | apply MemWf.ib | apply MemWf.ob | apply MemWf.ab | apply MemWf.rx | apply MemWf.sram | apply MemWf.near | apply MemWf.sbuf) | (simp [*]; done))
@[simp] theorem mem_dropSeg (port : Nat) (s : State) (hw : MemWf s) : MemWf (dropSeg port s) := by
  simp [dropSeg, *]
@[simp] theorem mem_renew (k net tsval : Nat) (s : State) (hw : MemWf s) : MemWf (renew k net tsval s) := by
  simp [renew, *]
@[simp] theorem mem_segIn (port vid sid seq tsval : Nat) (taken good : Bool) (act : State → State) (s : State) (h_act : ∀ y0, MemWf y0 → MemWf (act y0)) (hw : MemWf s) : MemWf (segIn port vid sid seq tsval taken good act s) := by
  unfold segIn
  repeat' (first | (simp [*]; done) | split)
@[simp] theorem mem_bufferFill (port fill : Nat) (s : State) (hw : MemWf s) : MemWf (bufferFill port fill s) := by
  simp [bufferFill, *]
@[simp] theorem mem_ackedMsg (role : Nat) (m : Msg) (s : State) (hw : MemWf s) : MemWf (ackedMsg role m s) := by
  unfold ackedMsg
  repeat' (first | (simp [*]; done) | split)
@[simp] theorem mem_takeAck (a : AckInfo) (s : State) (hw : MemWf s) : MemWf (takeAck a s) := by
  unfold takeAck
  repeat' (first | with_reducible (first | assumption | intro t x ht | intro t ht | apply mem_modSes | apply mem_ackedMsg | apply memWf_foldl | apply wf_foldl | apply wf_wrBytes | apply wf_wrByte | apply wf_wrWord | apply wf_wrHalf | apply wf_wrPair | apply wf_zeroRange | apply wf_obPut |  apply wf_setAb | (fail_if_no_progress refine memWf_same rfl rfl ?_)) | split | (rename_i he; have hd := congrArg Prod.snd he; dsimp only at hd; subst hd) | dsimp only | constructor | with_reducible (first | apply MemWf.ib | apply MemWf.ob | apply MemWf.ab | apply MemWf.rx | apply MemWf.sram | apply MemWf.near | apply MemWf.sbuf) | (simp [*]; done))
@[simp] theorem mem_retransmit (k seq : Nat) (s : State) (hw : MemWf s) : MemWf (retransmit k seq s) := by
  unfold retransmit
  repeat' (first | with_reducible (first | assumption | intro t x ht | intro t ht | apply mem_modPath | apply mem_pathDown | apply mem_modSes | apply memWf_foldl | apply wf_foldl | apply wf_wrBytes | apply wf_wrByte | apply wf_wrWord | apply wf_wrHalf | apply wf_wrPair | apply wf_zeroRange | apply wf_obPut |  apply wf_setAb | (fail_if_no_progress refine memWf_same rfl rfl ?_)) | split | (rename_i he; have hd := congrArg Prod.snd he; dsimp only at hd; subst hd) | dsimp only | constructor | with_reducible (first | apply MemWf.ib | apply MemWf.ob | apply MemWf.ab | apply MemWf.rx | apply MemWf.sram | apply MemWf.near | apply MemWf.sbuf) | (simp [*]; done))
@[simp] theorem mem_sendHs (o : HsOut) (s : State) (hw : MemWf s) : MemWf (sendHs o s) := by
  simp [sendHs, *]
@[simp] theorem mem_rejectHs (hsid reason : Nat) (s : State) (hw : MemWf s) : MemWf (rejectHs hsid reason s) := by
  unfold rejectHs
  repeat' (first | with_reducible (first | assumption | intro t x ht | intro t ht | apply mem_sendHs | apply mem_fire | apply memWf_foldl | apply wf_foldl | apply wf_wrBytes | apply wf_wrByte | apply wf_wrWord | apply wf_wrHalf | apply wf_wrPair | apply wf_zeroRange | apply wf_obPut |  apply wf_setAb | (fail_if_no_progress refine memWf_same rfl rfl ?_)) | split | (rename_i he; have hd := congrArg Prod.snd he; dsimp only at hd; subst hd) | dsimp only | constructor | with_reducible (first | apply MemWf.ib | apply MemWf.ob | apply MemWf.ab | apply MemWf.rx | apply MemWf.sram | apply MemWf.near | apply MemWf.sbuf) | (simp [*]; done))
@[simp] theorem mem_drawKey (s : State) (hw : MemWf s) : MemWf (drawKey s).2 := by
  simp [drawKey, *]
@[simp] theorem mem_hsInit (m : HsInit) (s : State) (hw : MemWf s) : MemWf (hsInit m s) := by
  unfold hsInit
  repeat' (first | with_reducible (first | assumption | intro t x ht | intro t ht | apply mem_sendHs | apply mem_rejectHs | apply mem_drawKey | apply memWf_foldl | apply wf_foldl | apply wf_wrBytes | apply wf_wrByte | apply wf_wrWord | apply wf_wrHalf | apply wf_wrPair | apply wf_zeroRange | apply wf_obPut |  apply wf_setAb | (fail_if_no_progress refine memWf_same rfl rfl ?_)) | split | (rename_i he; have hd := congrArg Prod.snd he; dsimp only at hd; subst hd) | dsimp only | constructor | with_reducible (first | apply MemWf.ib | apply MemWf.ob | apply MemWf.ab | apply MemWf.rx | apply MemWf.sram | apply MemWf.near | apply MemWf.sbuf) | (simp [*]; done))
@[simp] theorem mem_attachFrom (old new : Nat) (s : State) (hw : MemWf s) : MemWf (attachFrom old new s) := by
  unfold attachFrom
  repeat' (first | with_reducible (first | assumption | intro t x ht | intro t ht | apply mem_modEntry | apply mem_modPtn | apply mem_modSes | apply mem_leaseEvent | apply memWf_foldl | apply wf_foldl | apply wf_wrBytes | apply wf_wrByte | apply wf_wrWord | apply wf_wrHalf | apply wf_wrPair | apply wf_zeroRange | apply wf_obPut |  apply wf_setAb | (fail_if_no_progress refine memWf_same rfl rfl ?_)) | split | (rename_i he; have hd := congrArg Prod.snd he; dsimp only at hd; subst hd) | dsimp only | constructor | with_reducible (first | apply MemWf.ib | apply MemWf.ob | apply MemWf.ab | apply MemWf.rx | apply MemWf.sram | apply MemWf.near | apply MemWf.sbuf) | (simp [*]; done))
@[simp] theorem mem_establish (x : Hs) (secret : Nat) (s : State) (hw : MemWf s) : MemWf (establish x secret s) := by
  unfold establish
  repeat' (first | with_reducible (first | assumption | intro t x ht | intro t ht | apply mem_drawKey | apply mem_sendHs | apply mem_attachFrom | apply memWf_foldl | apply wf_foldl | apply wf_wrBytes | apply wf_wrByte | apply wf_wrWord | apply wf_wrHalf | apply wf_wrPair | apply wf_zeroRange | apply wf_obPut |  apply wf_setAb | (fail_if_no_progress refine memWf_same rfl rfl ?_)) | split | (rename_i he; have hd := congrArg Prod.snd he; dsimp only at hd; subst hd) | dsimp only | constructor | with_reducible (first | apply MemWf.ib | apply MemWf.ob | apply MemWf.ab | apply MemWf.rx | apply MemWf.sram | apply MemWf.near | apply MemWf.sbuf) | (simp [*]; done))
@[simp] theorem mem_dropShake (hsid : Nat) (s : State) (hw : MemWf s) : MemWf (dropShake hsid s) := by
  simp [dropShake, *]
@[simp] theorem mem_hsKey (hsid : Nat) (sigOk : Bool) (secret : Nat) (s : State) (hw : MemWf s) : MemWf (hsKey hsid sigOk secret s) := by
  unfold hsKey
  repeat' (first | (simp [*]; done) | split)
@[simp] theorem mem_takeProbe (port pnum k : Nat) (s : State) (hw : MemWf s) : MemWf (takeProbe port pnum k s) := by
  unfold takeProbe
  repeat' (first | with_reducible (first | assumption | intro t x ht | intro t ht | apply mem_modSes | apply mem_resendAll | apply mem_pathEvent | apply memWf_foldl | apply wf_foldl | apply wf_wrBytes | apply wf_wrByte | apply wf_wrWord | apply wf_wrHalf | apply wf_wrPair | apply wf_zeroRange | apply wf_obPut |  apply wf_setAb | (fail_if_no_progress refine memWf_same rfl rfl ?_)) | split | (rename_i he; have hd := congrArg Prod.snd he; dsimp only at hd; subst hd) | dsimp only | constructor | with_reducible (first | apply MemWf.ib | apply MemWf.ob | apply MemWf.ab | apply MemWf.rx | apply MemWf.sram | apply MemWf.near | apply MemWf.sbuf) | (simp [*]; done))
@[simp] theorem mem_takeProbeAck (net pnum k : Nat) (s : State) (hw : MemWf s) : MemWf (takeProbeAck net pnum k s) := by
  unfold takeProbeAck
  repeat' (first | with_reducible (first | assumption | intro t x ht | intro t ht | apply mem_modPath | apply mem_pathUp | apply memWf_foldl | apply wf_foldl | apply wf_wrBytes | apply wf_wrByte | apply wf_wrWord | apply wf_wrHalf | apply wf_wrPair | apply wf_zeroRange | apply wf_obPut |  apply wf_setAb | (fail_if_no_progress refine memWf_same rfl rfl ?_)) | split | (rename_i he; have hd := congrArg Prod.snd he; dsimp only at hd; subst hd) | dsimp only | constructor | with_reducible (first | apply MemWf.ib | apply MemWf.ob | apply MemWf.ab | apply MemWf.rx | apply MemWf.sram | apply MemWf.near | apply MemWf.sbuf) | (simp [*]; done))
@[simp] theorem mem_pathProbe (k net : Nat) (s : State) (hw : MemWf s) : MemWf (pathProbe k net s) := by
  simp [pathProbe, *]
@[simp] theorem mem_takeClose (seq k : Nat) (keep : Bool) (s : State) (hw : MemWf s) : MemWf (takeClose seq k keep s) := by
  unfold takeClose
  repeat' (first | with_reducible (first | assumption | intro t x ht | intro t ht | apply mem_modSes | apply mem_leaseEvent | apply mem_endSession | apply mem_cancelEntry | apply memWf_foldl | apply wf_foldl | apply wf_wrBytes | apply wf_wrByte | apply wf_wrWord | apply wf_wrHalf | apply wf_wrPair | apply wf_zeroRange | apply wf_obPut |  apply wf_setAb | (fail_if_no_progress refine memWf_same rfl rfl ?_)) | split | (rename_i he; have hd := congrArg Prod.snd he; dsimp only at hd; subst hd) | dsimp only | constructor | with_reducible (first | apply MemWf.ib | apply MemWf.ob | apply MemWf.ab | apply MemWf.rx | apply MemWf.sram | apply MemWf.near | apply MemWf.sbuf) | (simp [*]; done))
@[simp] theorem mem_losePath (port k : Nat) (s : State) (hw : MemWf s) : MemWf (losePath port k s) := by
  unfold losePath
  repeat' (first | with_reducible (first | assumption | intro t x ht | intro t ht | apply mem_pathDown | apply mem_pathEvent | apply mem_modSes | apply memWf_foldl | apply wf_foldl | apply wf_wrBytes | apply wf_wrByte | apply wf_wrWord | apply wf_wrHalf | apply wf_wrPair | apply wf_zeroRange | apply wf_obPut |  apply wf_setAb | (fail_if_no_progress refine memWf_same rfl rfl ?_)) | split | (rename_i he; have hd := congrArg Prod.snd he; dsimp only at hd; subst hd) | dsimp only | constructor | with_reducible (first | apply MemWf.ib | apply MemWf.ob | apply MemWf.ab | apply MemWf.rx | apply MemWf.sram | apply MemWf.near | apply MemWf.sbuf) | (simp [*]; done))
@[simp] theorem mem_portLoss (port : Nat) (s : State) (hw : MemWf s) : MemWf (portLoss port s) := by
  unfold portLoss
  repeat' (first | with_reducible (first | assumption | intro t x ht | intro t ht | apply mem_fire | apply mem_modPort | apply mem_losePath | apply memWf_foldl | apply wf_foldl | apply wf_wrBytes | apply wf_wrByte | apply wf_wrWord | apply wf_wrHalf | apply wf_wrPair | apply wf_zeroRange | apply wf_obPut |  apply wf_setAb | (fail_if_no_progress refine memWf_same rfl rfl ?_)) | split | (rename_i he; have hd := congrArg Prod.snd he; dsimp only at hd; subst hd) | dsimp only | constructor | with_reducible (first | apply MemWf.ib | apply MemWf.ob | apply MemWf.ab | apply MemWf.rx | apply MemWf.sram | apply MemWf.near | apply MemWf.sbuf) | (simp [*]; done))
@[simp] theorem mem_unitFailure (unit level cause : Nat) (s : State) (hw : MemWf s) : MemWf (unitFailure unit level cause s) := by
  unfold unitFailure
  repeat' (first | with_reducible (first | assumption | intro t x ht | intro t ht | apply mem_portLoss | apply mem_nonfence | apply memWf_foldl | apply wf_foldl | apply wf_wrBytes | apply wf_wrByte | apply wf_wrWord | apply wf_wrHalf | apply wf_wrPair | apply wf_zeroRange | apply wf_obPut |  apply wf_setAb | (fail_if_no_progress refine memWf_same rfl rfl ?_)) | split | (rename_i he; have hd := congrArg Prod.snd he; dsimp only at hd; subst hd) | dsimp only | constructor | with_reducible (first | apply MemWf.ib | apply MemWf.ob | apply MemWf.ab | apply MemWf.rx | apply MemWf.sram | apply MemWf.near | apply MemWf.sbuf) | (simp [*]; done))
@[simp] theorem mem_sendFrame (port dst : Nat) (bs : List Byte) (s : State) (hw : MemWf s) : MemWf (sendFrame port dst bs s) := by
  simp [sendFrame, *]
@[simp] theorem mem_announce (port : Nat) (s : State) (hw : MemWf s) : MemWf (announce port s) := by
  unfold announce
  repeat' (first | with_reducible (first | assumption | intro t x ht | intro t ht | apply mem_sendFrame | apply mem_modPort | apply memWf_foldl | apply wf_foldl | apply wf_wrBytes | apply wf_wrByte | apply wf_wrWord | apply wf_wrHalf | apply wf_wrPair | apply wf_zeroRange | apply wf_obPut |  apply wf_setAb | (fail_if_no_progress refine memWf_same rfl rfl ?_)) | split | (rename_i he; have hd := congrArg Prod.snd he; dsimp only at hd; subst hd) | dsimp only | constructor | with_reducible (first | apply MemWf.ib | apply MemWf.ob | apply MemWf.ab | apply MemWf.rx | apply MemWf.sram | apply MemWf.near | apply MemWf.sbuf) | (simp [*]; done))
@[simp] theorem mem_solicited (port : Nat) (s : State) (hw : MemWf s) : MemWf (solicited port s) := by
  unfold solicited
  repeat' (first | with_reducible (first | assumption | intro t x ht | intro t ht | apply mem_sendFrame | apply mem_modPort | apply memWf_foldl | apply wf_foldl | apply wf_wrBytes | apply wf_wrByte | apply wf_wrWord | apply wf_wrHalf | apply wf_wrPair | apply wf_zeroRange | apply wf_obPut |  apply wf_setAb | (fail_if_no_progress refine memWf_same rfl rfl ?_)) | split | (rename_i he; have hd := congrArg Prod.snd he; dsimp only at hd; subst hd) | dsimp only | constructor | with_reducible (first | apply MemWf.ib | apply MemWf.ob | apply MemWf.ab | apply MemWf.rx | apply MemWf.sram | apply MemWf.near | apply MemWf.sbuf) | (simp [*]; done))
@[simp] theorem mem_lldpSend (port : Nat) (s : State) (hw : MemWf s) : MemWf (lldpSend port s) := by
  unfold lldpSend; split <;> simp [*]
@[simp] theorem mem_lldpTake (port chassis portid : Nat) (s : State) (hw : MemWf s) : MemWf (lldpTake port chassis portid s) := by
  unfold lldpTake
  repeat' (first | with_reducible (first | assumption | intro t x ht | intro t ht | apply mem_fire | apply mem_modPort | apply memWf_foldl | apply wf_foldl | apply wf_wrBytes | apply wf_wrByte | apply wf_wrWord | apply wf_wrHalf | apply wf_wrPair | apply wf_zeroRange | apply wf_obPut |  apply wf_setAb | (fail_if_no_progress refine memWf_same rfl rfl ?_)) | split | (rename_i he; have hd := congrArg Prod.snd he; dsimp only at hd; subst hd) | dsimp only | constructor | with_reducible (first | apply MemWf.ib | apply MemWf.ob | apply MemWf.ab | apply MemWf.rx | apply MemWf.sram | apply MemWf.near | apply MemWf.sbuf) | (simp [*]; done))
@[simp] theorem mem_neighbour (port : Nat) (sol : Bool) (pre plen : Nat) (s : State) (hw : MemWf s) : MemWf (neighbour port sol pre plen s) := by
  unfold neighbour
  repeat' (first | (simp [*]; done) | split)
/-! ### Firmware -/
@[simp] theorem mem_modFw (cls : Nat) (f : FwCls → FwCls) (s : State) (hw : MemWf s) : MemWf (modFw cls f s) := by
  simp [modFw, *]
@[simp] theorem mem_badSig (s : State) (hw : MemWf s) : MemWf (badSig s) := by
  simp [badSig, *]
@[simp] theorem mem_fwStageOp (h : Hdr) (cls imgCls : Nat) (m : Img) (sigOk : Bool) (s : State) (hw : MemWf s) : MemWf (fwStageOp h cls imgCls m sigOk s) := by
  unfold fwStageOp
  repeat' (first | with_reducible (first | assumption | intro t x ht | intro t ht | apply mem_replyOutcome | apply mem_modFw | apply mem_badSig | apply memWf_foldl | apply wf_foldl | apply wf_wrBytes | apply wf_wrByte | apply wf_wrWord | apply wf_wrHalf | apply wf_wrPair | apply wf_zeroRange | apply wf_obPut |  apply wf_setAb | (fail_if_no_progress refine memWf_same rfl rfl ?_)) | split | (rename_i he; have hd := congrArg Prod.snd he; dsimp only at hd; subst hd) | dsimp only | constructor | with_reducible (first | apply MemWf.ib | apply MemWf.ob | apply MemWf.ab | apply MemWf.rx | apply MemWf.sram | apply MemWf.near | apply MemWf.sbuf) | (simp [*]; done))
@[simp] theorem mem_fwUpdateOp (h : Hdr) (cls : Nat) (s : State) (hw : MemWf s) : MemWf (fwUpdateOp h cls s) := by
  unfold fwUpdateOp
  repeat' (first | with_reducible (first | assumption | intro t x ht | intro t ht | apply mem_replyOutcome | apply mem_leaveOut | apply memWf_foldl | apply wf_foldl | apply wf_wrBytes | apply wf_wrByte | apply wf_wrWord | apply wf_wrHalf | apply wf_wrPair | apply wf_zeroRange | apply wf_obPut |  apply wf_setAb | (fail_if_no_progress refine memWf_same rfl rfl ?_)) | split | (rename_i he; have hd := congrArg Prod.snd he; dsimp only at hd; subst hd) | dsimp only | constructor | with_reducible (first | apply MemWf.ib | apply MemWf.ob | apply MemWf.ab | apply MemWf.rx | apply MemWf.sram | apply MemWf.near | apply MemWf.sbuf) | (simp [*]; done))
@[simp] theorem mem_provisionalEnd (s : State) (hw : MemWf s) : MemWf (provisionalEnd s) := by
  unfold provisionalEnd
  repeat' (first | with_reducible (first | assumption | intro t x ht | intro t ht | apply mem_modFw | apply mem_replyOutcomeLate | apply mem_fire | apply memWf_foldl | apply wf_foldl | apply wf_wrBytes | apply wf_wrByte | apply wf_wrWord | apply wf_wrHalf | apply wf_wrPair | apply wf_zeroRange | apply wf_obPut |  apply wf_setAb | (fail_if_no_progress refine memWf_same rfl rfl ?_)) | split | (rename_i he; have hd := congrArg Prod.snd he; dsimp only at hd; subst hd) | dsimp only | constructor | with_reducible (first | apply MemWf.ib | apply MemWf.ob | apply MemWf.ab | apply MemWf.rx | apply MemWf.sram | apply MemWf.near | apply MemWf.sbuf) | (simp [*]; done))
@[simp] theorem mem_fwActivateOp (h : Hdr) (cls : Nat) (s : State) (hw : MemWf s) : MemWf (fwActivateOp h cls s) := by
  unfold fwActivateOp
  repeat' (first | with_reducible (first | assumption | intro t x ht | intro t ht | apply mem_replyOutcome | apply mem_modFw | apply memWf_foldl | apply wf_foldl | apply wf_wrBytes | apply wf_wrByte | apply wf_wrWord | apply wf_wrHalf | apply wf_wrPair | apply wf_zeroRange | apply wf_obPut |  apply wf_setAb | (fail_if_no_progress refine memWf_same rfl rfl ?_)) | split | (rename_i he; have hd := congrArg Prod.snd he; dsimp only at hd; subst hd) | dsimp only | constructor | with_reducible (first | apply MemWf.ib | apply MemWf.ob | apply MemWf.ab | apply MemWf.rx | apply MemWf.sram | apply MemWf.near | apply MemWf.sbuf) | (simp [*]; done))
@[simp] theorem mem_fwWatchdog (cls unit : Nat) (s : State) (hw : MemWf s) : MemWf (fwWatchdog cls unit s) := by
  unfold fwWatchdog
  repeat' (first | with_reducible (first | assumption | intro t x ht | intro t ht | apply mem_updRevert | apply mem_fire | apply mem_nonfence | apply mem_sendAbandon | apply memWf_foldl | apply wf_foldl | apply wf_wrBytes | apply wf_wrByte | apply wf_wrWord | apply wf_wrHalf | apply wf_wrPair | apply wf_zeroRange | apply wf_obPut |  apply wf_setAb | (fail_if_no_progress refine memWf_same rfl rfl ?_)) | split | (rename_i he; have hd := congrArg Prod.snd he; dsimp only at hd; subst hd) | dsimp only | constructor | with_reducible (first | apply MemWf.ib | apply MemWf.ob | apply MemWf.ab | apply MemWf.rx | apply MemWf.sram | apply MemWf.near | apply MemWf.sbuf) | (simp [*]; done))
@[simp] theorem mem_claimOp (h : Hdr) (key : Nat) (s : State) (hw : MemWf s) : MemWf (claimOp h key s) := by
  unfold claimOp
  repeat' (first | with_reducible (first | assumption | intro t x ht | intro t ht | apply mem_reply | apply mem_modSes | apply mem_fire | apply memWf_foldl | apply wf_foldl | apply wf_wrBytes | apply wf_wrByte | apply wf_wrWord | apply wf_wrHalf | apply wf_wrPair | apply wf_zeroRange | apply wf_obPut |  apply wf_setAb | (fail_if_no_progress refine memWf_same rfl rfl ?_)) | split | (rename_i he; have hd := congrArg Prod.snd he; dsimp only at hd; subst hd) | dsimp only | constructor | with_reducible (first | apply MemWf.ib | apply MemWf.ob | apply MemWf.ab | apply MemWf.rx | apply MemWf.sram | apply MemWf.near | apply MemWf.sbuf) | (simp [*]; done))
@[simp] theorem mem_ownerRotateOp (h : Hdr) (key : Nat) (sigOk : Bool) (s : State) (hw : MemWf s) : MemWf (ownerRotateOp h key sigOk s) := by
  unfold ownerRotateOp
  repeat' (first | with_reducible (first | assumption | intro t x ht | intro t ht | apply mem_reply | apply mem_badSig | apply mem_fire | apply memWf_foldl | apply wf_foldl | apply wf_wrBytes | apply wf_wrByte | apply wf_wrWord | apply wf_wrHalf | apply wf_wrPair | apply wf_zeroRange | apply wf_obPut |  apply wf_setAb | (fail_if_no_progress refine memWf_same rfl rfl ?_)) | split | (rename_i he; have hd := congrArg Prod.snd he; dsimp only at hd; subst hd) | dsimp only | constructor | with_reducible (first | apply MemWf.ib | apply MemWf.ob | apply MemWf.ab | apply MemWf.rx | apply MemWf.sram | apply MemWf.near | apply MemWf.sbuf) | (simp [*]; done))
@[simp] theorem mem_releaseOp (h : Hdr) (sigOk : Bool) (s : State) (hw : MemWf s) : MemWf (releaseOp h sigOk s) := by
  unfold releaseOp
  repeat' (first | with_reducible (first | assumption | intro t x ht | intro t ht | apply mem_reply | apply mem_badSig | apply mem_modCnv | apply mem_leaveOut | apply memWf_foldl | apply wf_foldl | apply wf_wrBytes | apply wf_wrByte | apply wf_wrWord | apply wf_wrHalf | apply wf_wrPair | apply wf_zeroRange | apply wf_obPut |  apply wf_setAb | (fail_if_no_progress refine memWf_same rfl rfl ?_)) | split | (rename_i he; have hd := congrArg Prod.snd he; dsimp only at hd; subst hd) | dsimp only | constructor | with_reducible (first | apply MemWf.ib | apply MemWf.ob | apply MemWf.ab | apply MemWf.rx | apply MemWf.sram | apply MemWf.near | apply MemWf.sbuf) | (simp [*]; done))
@[simp] theorem mem_keyRotateOp (h : Hdr) (s : State) (hw : MemWf s) : MemWf (keyRotateOp h s) := by
  unfold keyRotateOp
  repeat' (first | with_reducible (first | assumption | intro t x ht | intro t ht | apply mem_reply | apply mem_fire | apply memWf_foldl | apply wf_foldl | apply wf_wrBytes | apply wf_wrByte | apply wf_wrWord | apply wf_wrHalf | apply wf_wrPair | apply wf_zeroRange | apply wf_obPut |  apply wf_setAb | (fail_if_no_progress refine memWf_same rfl rfl ?_)) | split | (rename_i he; have hd := congrArg Prod.snd he; dsimp only at hd; subst hd) | dsimp only | constructor | with_reducible (first | apply MemWf.ib | apply MemWf.ob | apply MemWf.ab | apply MemWf.rx | apply MemWf.sram | apply MemWf.near | apply MemWf.sbuf) | (simp [*]; done))
@[simp] theorem mem_cfgWriteOp (h : Hdr) (sigOk : Bool) (svn : Nat) (own : List Nat) (s : State) (hw : MemWf s) : MemWf (cfgWriteOp h sigOk svn own s) := by
  unfold cfgWriteOp
  repeat' (first | (simp [*]; done) | split)
@[simp] theorem mem_cfgResolveOp (h : Hdr) (copy : Nat) (copyOk : Bool) (s : State) (hw : MemWf s) : MemWf (cfgResolveOp h copy copyOk s) := by
  unfold cfgResolveOp
  repeat' (first | (simp [*]; done) | split)
@[simp] theorem mem_attestOp (h : Hdr) (nonce : Nat) (s : State) (hw : MemWf s) : MemWf (attestOp h nonce s) := by
  simp [attestOp, *]
/-! ### Recorder -/
@[simp] theorem mem_recordNext (s : State) (hw : MemWf s) : MemWf (recordNext s) := by
  unfold recordNext
  repeat' (first | with_reducible (first | assumption | intro t x ht | intro t ht | apply memWf_foldl | apply wf_foldl | apply wf_wrBytes | apply wf_wrByte | apply wf_wrWord | apply wf_wrHalf | apply wf_wrPair | apply wf_zeroRange | apply wf_obPut |  apply wf_setAb | (fail_if_no_progress refine memWf_same rfl rfl ?_)) | split | (rename_i he; have hd := congrArg Prod.snd he; dsimp only at hd; subst hd) | dsimp only | constructor | with_reducible (first | apply MemWf.ib | apply MemWf.ob | apply MemWf.ab | apply MemWf.rx | apply MemWf.sram | apply MemWf.near | apply MemWf.sbuf) | (simp [*]; done))
@[simp] theorem mem_evrClear (s : State) (hw : MemWf s) : MemWf (evrClear s) := by
  simp [evrClear, *]
@[simp] theorem mem_clearEnd (s : State) (hw : MemWf s) : MemWf (clearEnd s) := by
  unfold clearEnd
  repeat' (first | with_reducible (first | assumption | intro t x ht | intro t ht | apply mem_evrCommit | apply memWf_foldl | apply wf_foldl | apply wf_wrBytes | apply wf_wrByte | apply wf_wrWord | apply wf_wrHalf | apply wf_wrPair | apply wf_zeroRange | apply wf_obPut |  apply wf_setAb | (fail_if_no_progress refine memWf_same rfl rfl ?_)) | split | (rename_i he; have hd := congrArg Prod.snd he; dsimp only at hd; subst hd) | dsimp only | constructor | with_reducible (first | apply MemWf.ib | apply MemWf.ob | apply MemWf.ab | apply MemWf.rx | apply MemWf.sram | apply MemWf.near | apply MemWf.sbuf) | (simp [*]; done))
/-! ### Power -/
@[simp] theorem mem_survive (near far : Bool) (s : State) (hw : MemWf s) : MemWf (survive near far s) := by
  unfold survive
  repeat' (first | with_reducible (first | assumption | intro t x ht | intro t ht | apply memWf_foldl | apply wf_foldl | apply wf_wrBytes | apply wf_wrByte | apply wf_wrWord | apply wf_wrHalf | apply wf_wrPair | apply wf_zeroRange | apply wf_obPut |  apply wf_setAb | (fail_if_no_progress refine memWf_same rfl rfl ?_)) | split | (rename_i he; have hd := congrArg Prod.snd he; dsimp only at hd; subst hd) | dsimp only | constructor | with_reducible (first | apply MemWf.ib | apply MemWf.ob | apply MemWf.ab | apply MemWf.rx | apply MemWf.sram | apply MemWf.near | apply MemWf.sbuf) | (simp [*]; done))
@[simp] theorem mem_railsOff (far : Bool) (state : Nat) (off : Bool) (s : State) (hw : MemWf s) : MemWf (railsOff far state off s) := by
  simp [railsOff, *]
@[simp] theorem mem_setEvents (m : Nat) (s : State) (hw : MemWf s) : MemWf (setEvents m s) := by
  simp [setEvents, *]
@[simp] theorem mem_settleMstate (s : State) (hw : MemWf s) : MemWf (settleMstate s) := by
  simp [settleMstate, *]
@[simp] theorem mem_settlePower (s : State) (hw : MemWf s) : MemWf (settlePower s) := by
  unfold settlePower; split <;> simp [*]
@[simp] theorem mem_quiesce_ (s : State) (hw : MemWf s) : MemWf (quiesce_ s) := by
  unfold quiesce_
  repeat' (first | with_reducible (first | assumption | intro t x ht | intro t ht | apply mem_updRevert | apply mem_stopWrites | apply mem_settleMstate | apply mem_raiseAll | apply memWf_foldl | apply wf_foldl | apply wf_wrBytes | apply wf_wrByte | apply wf_wrWord | apply wf_wrHalf | apply wf_wrPair | apply wf_zeroRange | apply wf_obPut |  apply wf_setAb | (fail_if_no_progress refine memWf_same rfl rfl ?_)) | split | (rename_i he; have hd := congrArg Prod.snd he; dsimp only at hd; subst hd) | dsimp only | constructor | with_reducible (first | apply MemWf.ib | apply MemWf.ob | apply MemWf.ab | apply MemWf.rx | apply MemWf.sram | apply MemWf.near | apply MemWf.sbuf) | (simp [*]; done))
@[simp] theorem mem_holdOn (pin : Bool) (s : State) (hw : MemWf s) : MemWf (holdOn pin s) := by
  unfold holdOn
  repeat' (first | with_reducible (first | assumption | intro t x ht | intro t ht | apply mem_fire | apply mem_setEvents | apply mem_quiesce_ | apply memWf_foldl | apply wf_foldl | apply wf_wrBytes | apply wf_wrByte | apply wf_wrWord | apply wf_wrHalf | apply wf_wrPair | apply wf_zeroRange | apply wf_obPut |  apply wf_setAb | (fail_if_no_progress refine memWf_same rfl rfl ?_)) | split | (rename_i he; have hd := congrArg Prod.snd he; dsimp only at hd; subst hd) | dsimp only | constructor | with_reducible (first | apply MemWf.ib | apply MemWf.ob | apply MemWf.ab | apply MemWf.rx | apply MemWf.sram | apply MemWf.near | apply MemWf.sbuf) | (simp [*]; done))
@[simp] theorem mem_holdOff (pin : Bool) (s : State) (hw : MemWf s) : MemWf (holdOff pin s) := by
  unfold holdOff
  repeat' (first | with_reducible (first | assumption | intro t x ht | intro t ht | apply mem_settlePower | apply mem_fire | apply memWf_foldl | apply wf_foldl | apply wf_wrBytes | apply wf_wrByte | apply wf_wrWord | apply wf_wrHalf | apply wf_wrPair | apply wf_zeroRange | apply wf_obPut |  apply wf_setAb | (fail_if_no_progress refine memWf_same rfl rfl ?_)) | split | (rename_i he; have hd := congrArg Prod.snd he; dsimp only at hd; subst hd) | dsimp only | constructor | with_reducible (first | apply MemWf.ib | apply MemWf.ob | apply MemWf.ab | apply MemWf.rx | apply MemWf.sram | apply MemWf.near | apply MemWf.sbuf) | (simp [*]; done))
@[simp] theorem mem_holdQuiesce (s : State) (hw : MemWf s) : MemWf (holdQuiesce s) := by
  unfold holdQuiesce
  repeat' (first | (simp [*]; done) | split)
@[simp] theorem mem_warnOn (s : State) (hw : MemWf s) : MemWf (warnOn s) := by
  unfold warnOn
  repeat' (first | with_reducible (first | assumption | intro t x ht | intro t ht | apply mem_sendAbandon | apply mem_stopWrites | apply mem_settlePower | apply mem_evrCommit | apply mem_uhWrite | apply mem_setEvents | apply memWf_foldl | apply wf_foldl | apply wf_wrBytes | apply wf_wrByte | apply wf_wrWord | apply wf_wrHalf | apply wf_wrPair | apply wf_zeroRange | apply wf_obPut |  apply wf_setAb | (fail_if_no_progress refine memWf_same rfl rfl ?_)) | split | (rename_i he; have hd := congrArg Prod.snd he; dsimp only at hd; subst hd) | dsimp only | constructor | with_reducible (first | apply MemWf.ib | apply MemWf.ob | apply MemWf.ab | apply MemWf.rx | apply MemWf.sram | apply MemWf.near | apply MemWf.sbuf) | (simp [*]; done))
@[simp] theorem mem_warnOff (s : State) (hw : MemWf s) : MemWf (warnOff s) := by
  unfold warnOff; split <;> simp [*]
@[simp] theorem mem_seeInput (mv : Nat) (s : State) (hw : MemWf s) : MemWf (seeInput mv s) := by
  simp [seeInput, *]
@[simp] theorem mem_disconnect (s : State) (hw : MemWf s) : MemWf (disconnect s) := by
  simp [disconnect, *]
@[simp] theorem mem_overvolt (mv : Nat) (s : State) (hw : MemWf s) : MemWf (overvolt mv s) := by
  unfold overvolt
  repeat' (first | with_reducible (first | assumption | intro t x ht | intro t ht | apply mem_fire | apply mem_setEvents | apply mem_seeInput | apply mem_disconnect | apply memWf_foldl | apply wf_foldl | apply wf_wrBytes | apply wf_wrByte | apply wf_wrWord | apply wf_wrHalf | apply wf_wrPair | apply wf_zeroRange | apply wf_obPut |  apply wf_setAb | (fail_if_no_progress refine memWf_same rfl rfl ?_)) | split | (rename_i he; have hd := congrArg Prod.snd he; dsimp only at hd; subst hd) | dsimp only | constructor | with_reducible (first | apply MemWf.ib | apply MemWf.ob | apply MemWf.ab | apply MemWf.rx | apply MemWf.sram | apply MemWf.near | apply MemWf.sbuf) | (simp [*]; done))
@[simp] theorem mem_undervolt (mv : Nat) (s : State) (hw : MemWf s) : MemWf (undervolt mv s) := by
  unfold undervolt
  repeat' (first | with_reducible (first | assumption | intro t x ht | intro t ht | apply mem_fire | apply mem_setEvents | apply mem_seeInput | apply mem_warnOn | apply memWf_foldl | apply wf_foldl | apply wf_wrBytes | apply wf_wrByte | apply wf_wrWord | apply wf_wrHalf | apply wf_wrPair | apply wf_zeroRange | apply wf_obPut |  apply wf_setAb | (fail_if_no_progress refine memWf_same rfl rfl ?_)) | split | (rename_i he; have hd := congrArg Prod.snd he; dsimp only at hd; subst hd) | dsimp only | constructor | with_reducible (first | apply MemWf.ib | apply MemWf.ob | apply MemWf.ab | apply MemWf.rx | apply MemWf.sram | apply MemWf.near | apply MemWf.sbuf) | (simp [*]; done))
@[simp] theorem mem_standbyRead (mv ma10 : Nat) (board : List (Int × Bool)) (s : State) (hw : MemWf s) : MemWf (standbyRead mv ma10 board s) := by
  simp [standbyRead, *]
@[simp] theorem mem_channelRead (ch : Nat) (value : Int) (valid : Bool) (s : State) (hw : MemWf s) : MemWf (channelRead ch value valid s) := by
  unfold channelRead
  repeat' (first | with_reducible (first | assumption | intro t x ht | intro t ht | apply mem_fire | apply mem_setEvents | apply memWf_foldl | apply wf_foldl | apply wf_wrBytes | apply wf_wrByte | apply wf_wrWord | apply wf_wrHalf | apply wf_wrPair | apply wf_zeroRange | apply wf_obPut |  apply wf_setAb | (fail_if_no_progress refine memWf_same rfl rfl ?_)) | split | (rename_i he; have hd := congrArg Prod.snd he; dsimp only at hd; subst hd) | dsimp only | constructor | with_reducible (first | apply MemWf.ib | apply MemWf.ob | apply MemWf.ab | apply MemWf.rx | apply MemWf.sram | apply MemWf.near | apply MemWf.sbuf) | (simp [*]; done))
@[simp] theorem mem_coolantRound (s : State) (hw : MemWf s) : MemWf (coolantRound s) := by
  unfold coolantRound
  repeat' (first | with_reducible (first | assumption | intro t x ht | intro t ht | apply mem_fire | apply mem_setEvents | apply memWf_foldl | apply wf_foldl | apply wf_wrBytes | apply wf_wrByte | apply wf_wrWord | apply wf_wrHalf | apply wf_wrPair | apply wf_zeroRange | apply wf_obPut |  apply wf_setAb | (fail_if_no_progress refine memWf_same rfl rfl ?_)) | split | (rename_i he; have hd := congrArg Prod.snd he; dsimp only at hd; subst hd) | dsimp only | constructor | with_reducible (first | apply MemWf.ib | apply MemWf.ob | apply MemWf.ab | apply MemWf.rx | apply MemWf.sram | apply MemWf.near | apply MemWf.sbuf) | (simp [*]; done))
@[simp] theorem mem_throttleRound (jmax : Bool) (hot : Option (Nat × Int)) (s : State) (hw : MemWf s) : MemWf (throttleRound jmax hot s) := by
  unfold throttleRound
  repeat' (first | with_reducible (first | assumption | intro t x ht | intro t ht | apply mem_setEvents | apply mem_fire | apply memWf_foldl | apply wf_foldl | apply wf_wrBytes | apply wf_wrByte | apply wf_wrWord | apply wf_wrHalf | apply wf_wrPair | apply wf_zeroRange | apply wf_obPut |  apply wf_setAb | (fail_if_no_progress refine memWf_same rfl rfl ?_)) | split | (rename_i he; have hd := congrArg Prod.snd he; dsimp only at hd; subst hd) | dsimp only | constructor | with_reducible (first | apply MemWf.ib | apply MemWf.ob | apply MemWf.ab | apply MemWf.rx | apply MemWf.sram | apply MemWf.near | apply MemWf.sbuf) | (simp [*]; done))
@[simp] theorem mem_junctionRound (hot : Option (Nat × Int)) (s : State) (hw : MemWf s) : MemWf (junctionRound hot s) := by
  unfold junctionRound
  repeat' (first | with_reducible (first | assumption | intro t x ht | intro t ht | apply mem_fire | apply mem_setEvents | apply mem_quiesce_ | apply mem_settlePower | apply memWf_foldl | apply wf_foldl | apply wf_wrBytes | apply wf_wrByte | apply wf_wrWord | apply wf_wrHalf | apply wf_wrPair | apply wf_zeroRange | apply wf_obPut |  apply wf_setAb | (fail_if_no_progress refine memWf_same rfl rfl ?_)) | split | (rename_i he; have hd := congrArg Prod.snd he; dsimp only at hd; subst hd) | dsimp only | constructor | with_reducible (first | apply MemWf.ib | apply MemWf.ob | apply MemWf.ab | apply MemWf.rx | apply MemWf.sram | apply MemWf.near | apply MemWf.sbuf) | (simp [*]; done))
@[simp] theorem mem_tempRound (s : State) (cl : Nat) (hw : MemWf s) : MemWf (tempRound s cl) := by
  unfold tempRound
  repeat' (first | with_reducible (first | assumption | intro t x ht | intro t ht | apply mem_modCal | apply mem_calDue | apply memWf_foldl | apply wf_foldl | apply wf_wrBytes | apply wf_wrByte | apply wf_wrWord | apply wf_wrHalf | apply wf_wrPair | apply wf_zeroRange | apply wf_obPut |  apply wf_setAb | (fail_if_no_progress refine memWf_same rfl rfl ?_)) | split | (rename_i he; have hd := congrArg Prod.snd he; dsimp only at hd; subst hd) | dsimp only | constructor | with_reducible (first | apply MemWf.ib | apply MemWf.ob | apply MemWf.ab | apply MemWf.rx | apply MemWf.sram | apply MemWf.near | apply MemWf.sbuf) | (simp [*]; done))
@[simp] theorem mem_roundEnd (watts pump : Nat) (s : State) (hw : MemWf s) : MemWf (roundEnd watts pump s) := by
  unfold roundEnd
  repeat' (first | with_reducible (first | assumption | intro t x ht | intro t ht | apply mem_coolantRound | apply mem_tempRound | apply mem_throttleRound | apply mem_junctionRound | apply memWf_foldl | apply wf_foldl | apply wf_wrBytes | apply wf_wrByte | apply wf_wrWord | apply wf_wrHalf | apply wf_wrPair | apply wf_zeroRange | apply wf_obPut |  apply wf_setAb | (fail_if_no_progress refine memWf_same rfl rfl ?_)) | split | (rename_i he; have hd := congrArg Prod.snd he; dsimp only at hd; subst hd) | dsimp only | constructor | with_reducible (first | apply MemWf.ib | apply MemWf.ob | apply MemWf.ab | apply MemWf.rx | apply MemWf.sram | apply MemWf.near | apply MemWf.sbuf) | (simp [*]; done))
/-! ### RegAccess -/
@[simp] theorem mem_clearRC (b : Block) (o : Nat) (s : State) (hw : MemWf s) : MemWf (clearRC b o s) := by
  unfold clearRC
  repeat' (first | (simp [*]; done) | split)
@[simp] theorem mem_readReg (p : Path) (a : Nat) (s : State) (hw : MemWf s) : MemWf (readReg p a s).2.2 := by
  unfold readReg; split <;> simp [*]
@[simp] theorem mem_writeDev (o : Nat) (v : Word) (s : State) (hw : MemWf s) : MemWf (writeDev o v s) := by
  unfold writeDev
  repeat' (first | (simp [*]; done) | split)
@[simp] theorem mem_setHoldReq (on : Bool) (s : State) (hw : MemWf s) : MemWf (setHoldReq on s) := by
  unfold setHoldReq; split <;> simp [*]
@[simp] theorem mem_writePwrCtrl (w : Nat) (s : State) (hw : MemWf s) : MemWf (writePwrCtrl w s) := by
  simp [writePwrCtrl, *]
@[simp] theorem mem_writePwr (o : Nat) (v : Word) (s : State) (hw : MemWf s) : MemWf (writePwr o v s) := by
  unfold writePwr
  repeat' (first | (simp [*]; done) | split)
@[simp] theorem mem_writeEvrCtrl (w : Nat) (s : State) (hw : MemWf s) : MemWf (writeEvrCtrl w s) := by
  unfold writeEvrCtrl
  repeat' (first | with_reducible (first | assumption | intro t x ht | intro t ht | apply mem_evrClear | apply mem_fireArg | apply memWf_foldl | apply wf_foldl | apply wf_wrBytes | apply wf_wrByte | apply wf_wrWord | apply wf_wrHalf | apply wf_wrPair | apply wf_zeroRange | apply wf_obPut |  apply wf_setAb | (fail_if_no_progress refine memWf_same rfl rfl ?_)) | split | (rename_i he; have hd := congrArg Prod.snd he; dsimp only at hd; subst hd) | dsimp only | constructor | with_reducible (first | apply MemWf.ib | apply MemWf.ob | apply MemWf.ab | apply MemWf.rx | apply MemWf.sram | apply MemWf.near | apply MemWf.sbuf) | (simp [*]; done))
@[simp] theorem mem_writeEvr (o : Nat) (v : Word) (s : State) (hw : MemWf s) : MemWf (writeEvr o v s) := by
  unfold writeEvr
  repeat' (first | (simp [*]; done) | split)
@[simp] theorem mem_writeCalCmd (w : Nat) (s : State) (hw : MemWf s) : MemWf (writeCalCmd w s) := by
  unfold writeCalCmd
  repeat' (first | with_reducible (first | assumption | intro t x ht | intro t ht | apply mem_calDue | apply memWf_foldl | apply wf_foldl | apply wf_wrBytes | apply wf_wrByte | apply wf_wrWord | apply wf_wrHalf | apply wf_wrPair | apply wf_zeroRange | apply wf_obPut |  apply wf_setAb | (fail_if_no_progress refine memWf_same rfl rfl ?_)) | split | (rename_i he; have hd := congrArg Prod.snd he; dsimp only at hd; subst hd) | dsimp only | constructor | with_reducible (first | apply MemWf.ib | apply MemWf.ob | apply MemWf.ab | apply MemWf.rx | apply MemWf.sram | apply MemWf.near | apply MemWf.sbuf) | (simp [*]; done))
@[simp] theorem mem_writeCal (o : Nat) (v : Word) (s : State) (hw : MemWf s) : MemWf (writeCal o v s) := by
  unfold writeCal; split <;> simp [*]
@[simp] theorem mem_writeAudit (w : Nat) (s : State) (hw : MemWf s) : MemWf (writeAudit w s) := by
  unfold writeAudit; split <;> simp [*]
@[simp] theorem mem_writeQuery (p : Path) (v : Word) (s : State) (hw : MemWf s) : MemWf (writeQuery p v s) := by
  unfold writeQuery; split <;> simp [*]
@[simp] theorem mem_writeHlth (p : Path) (o : Nat) (v : Word) (s : State) (hw : MemWf s) : MemWf (writeHlth p o v s) := by
  unfold writeHlth; split <;> simp [*]
@[simp] theorem mem_writeCnvCtrl (c w : Nat) (s : State) (hw : MemWf s) : MemWf (writeCnvCtrl c w s) := by
  simp [writeCnvCtrl, *]
@[simp] theorem mem_writeCnv (c o : Nat) (v : Word) (s : State) (hw : MemWf s) : MemWf (writeCnv c o v s) := by
  unfold writeCnv
  repeat' (first | (simp [*]; done) | split)
@[simp] theorem mem_writePortCtrl (n w : Nat) (s : State) (hw : MemWf s) : MemWf (writePortCtrl n w s) := by
  unfold writePortCtrl; split <;> simp [*]
@[simp] theorem mem_writePort (n o : Nat) (v : Word) (s : State) (hw : MemWf s) : MemWf (writePort n o v s) := by
  simp [writePort, *]
@[simp] theorem mem_sealPtn (n : Nat) (s : State) (hw : MemWf s) : MemWf (sealPtn n s) := by
  unfold sealPtn; split <;> simp [*]
@[simp] theorem mem_enablePtn (n : Nat) (s : State) (hw : MemWf s) : MemWf (enablePtn n s) := by
  unfold enablePtn
  repeat' (first | with_reducible (first | assumption | intro t x ht | intro t ht | apply mem_modPtn | apply mem_expire | apply mem_sealPtn | apply memWf_foldl | apply wf_foldl | apply wf_wrBytes | apply wf_wrByte | apply wf_wrWord | apply wf_wrHalf | apply wf_wrPair | apply wf_zeroRange | apply wf_obPut |  apply wf_setAb | (fail_if_no_progress refine memWf_same rfl rfl ?_)) | split | (rename_i he; have hd := congrArg Prod.snd he; dsimp only at hd; subst hd) | dsimp only | constructor | with_reducible (first | apply MemWf.ib | apply MemWf.ob | apply MemWf.ab | apply MemWf.rx | apply MemWf.sram | apply MemWf.near | apply MemWf.sbuf) | (simp [*]; done))
@[simp] theorem mem_disableNow (n : Nat) (s : State) (hw : MemWf s) : MemWf (disableNow n s) := by
  unfold disableNow
  repeat' (first | with_reducible (first | assumption | intro t x ht | intro t ht | apply mem_endRequest | apply memWf_foldl | apply wf_foldl | apply wf_wrBytes | apply wf_wrByte | apply wf_wrWord | apply wf_wrHalf | apply wf_wrPair | apply wf_zeroRange | apply wf_obPut |  apply wf_setAb | (fail_if_no_progress refine memWf_same rfl rfl ?_)) | split | (rename_i he; have hd := congrArg Prod.snd he; dsimp only at hd; subst hd) | dsimp only | constructor | with_reducible (first | apply MemWf.ib | apply MemWf.ob | apply MemWf.ab | apply MemWf.rx | apply MemWf.sram | apply MemWf.near | apply MemWf.sbuf) | (simp [*]; done))
@[simp] theorem mem_writePtnCtrl (n w : Nat) (s : State) (hw : MemWf s) : MemWf (writePtnCtrl n w s) := by
  unfold writePtnCtrl
  repeat' (first | with_reducible (first | assumption | intro t x ht | intro t ht | apply mem_modPtn | apply mem_enablePtn | apply mem_disableNow | apply memWf_foldl | apply wf_foldl | apply wf_wrBytes | apply wf_wrByte | apply wf_wrWord | apply wf_wrHalf | apply wf_wrPair | apply wf_zeroRange | apply wf_obPut |  apply wf_setAb | (fail_if_no_progress refine memWf_same rfl rfl ?_)) | split | (rename_i he; have hd := congrArg Prod.snd he; dsimp only at hd; subst hd) | dsimp only | constructor | with_reducible (first | apply MemWf.ib | apply MemWf.ob | apply MemWf.ab | apply MemWf.rx | apply MemWf.sram | apply MemWf.near | apply MemWf.sbuf) | (simp [*]; done))
@[simp] theorem mem_writePtn (n o : Nat) (full : Bool) (v : Word) (s : State) (hw : MemWf s) : MemWf (writePtn n o full v s) := by
  simp [writePtn, *]
@[simp] theorem mem_writeBlock (p : Path) (b : Block) (o : Nat) (v : Word) (s : State) (hw : MemWf s) : MemWf (writeBlock p b o v s) := by
  unfold writeBlock; split <;> simp [*]
@[simp] theorem mem_writeReg (p : Path) (a : Nat) (v : Word) (s : State) (hw : MemWf s) : MemWf (writeReg p a v s).2 := by
  unfold writeReg; split <;> simp [*]
@[simp] theorem mem_readMany (p : Path) (a ix n : Nat) (s : State) (hw : MemWf s) : MemWf (readMany p a ix n s).2.2.2 := by
  induction n generalizing ix s with
  | zero => exact hw
  | succ k ih => exact ih _ _ (mem_readReg _ _ _ hw)
@[simp] theorem mem_writeMany (p : Path) (a ix : Nat) (l : List Word) (s : State) (hw : MemWf s) : MemWf (writeMany p a ix l s).2.2 := by
  induction l generalizing ix s with
  | nil => exact hw
  | cons v vs ih =>
    simp only [writeMany]
    split
    · exact ih _ _ (mem_writeReg _ _ _ _ hw)
    · exact hw
@[simp] theorem mem_regReadOp (h : Hdr) (a count : Nat) (s : State) (hw : MemWf s) : MemWf (regReadOp h a count s) := by
  unfold regReadOp
  repeat' (first | (simp [*]; done) | split)
@[simp] theorem mem_regWriteOp (h : Hdr) (a count : Nat) (vs : List Word) (s : State) (hw : MemWf s) : MemWf (regWriteOp h a count vs s) := by
  unfold regWriteOp
  repeat' (first | (simp [*]; done) | split)
@[simp] theorem mem_rowWrite (p : Path) (a : Nat) (v : Word) (s : State) (hw : MemWf s) : MemWf (rowWrite p a v s) := by
  simp [rowWrite, *]
/-! ### Sideband -/
@[simp] theorem mem_sbAnswer (st : Nat) (out : List Word) (s : State) (hw : MemWf s) : MemWf (sbAnswer st out s) := by
  simp [sbAnswer, *]
@[simp] theorem mem_sbRefuse (s : State) (hw : MemWf s) : MemWf (sbRefuse s) := by
  simp [sbRefuse, *]
@[simp] theorem mem_sbDo (pecOk : Bool) (act : State → State) (s : State) (h_act : ∀ y0, MemWf y0 → MemWf (act y0)) (hw : MemWf s) : MemWf (sbDo pecOk act s) := by
  unfold sbDo; split <;> simp [*]
@[simp] theorem mem_sbReg (pecOk : Bool) (act : State → State) (s : State) (h_act : ∀ y0, MemWf y0 → MemWf (act y0)) (hw : MemWf s) : MemWf (sbReg pecOk act s) := by
  unfold sbReg
  repeat' (first | with_reducible (first | assumption | intro t x ht | intro t ht | apply mem_sbDo | apply mem_sbAnswer | apply h_act | apply memWf_foldl | apply wf_foldl | apply wf_wrBytes | apply wf_wrByte | apply wf_wrWord | apply wf_wrHalf | apply wf_wrPair | apply wf_zeroRange | apply wf_obPut |  apply wf_setAb | (fail_if_no_progress refine memWf_same rfl rfl ?_)) | split | (rename_i he; have hd := congrArg Prod.snd he; dsimp only at hd; subst hd) | dsimp only | constructor | with_reducible (first | apply MemWf.ib | apply MemWf.ob | apply MemWf.ab | apply MemWf.rx | apply MemWf.sram | apply MemWf.near | apply MemWf.sbuf) | (simp [*]; done))
@[simp] theorem mem_sbRcv (pecOk : Bool) (act : State → State) (s : State) (h_act : ∀ y0, MemWf y0 → MemWf (act y0)) (hw : MemWf s) : MemWf (sbRcv pecOk act s) := by
  unfold sbRcv
  repeat' (first | with_reducible (first | assumption | intro t x ht | intro t ht | apply mem_sbDo | apply mem_sbRefuse | apply h_act | apply memWf_foldl | apply wf_foldl | apply wf_wrBytes | apply wf_wrByte | apply wf_wrWord | apply wf_wrHalf | apply wf_wrPair | apply wf_zeroRange | apply wf_obPut |  apply wf_setAb | (fail_if_no_progress refine memWf_same rfl rfl ?_)) | split | (rename_i he; have hd := congrArg Prod.snd he; dsimp only at hd; subst hd) | dsimp only | constructor | with_reducible (first | apply MemWf.ib | apply MemWf.ob | apply MemWf.ab | apply MemWf.rx | apply MemWf.sram | apply MemWf.near | apply MemWf.sbuf) | (simp [*]; done))
@[simp] theorem mem_stepPtr (n : Nat) (s : State) (hw : MemWf s) : MemWf (stepPtr n s) := by
  simp [stepPtr, *]
@[simp] theorem mem_sbRead (n : Nat) (s : State) (hw : MemWf s) : MemWf (sbRead n s) := by
  unfold sbRead
  repeat' (first | with_reducible (first | assumption | intro t x ht | intro t ht | apply mem_sbRefuse | apply mem_readMany | apply mem_stepPtr | apply mem_sbAnswer | apply memWf_foldl | apply wf_foldl | apply wf_wrBytes | apply wf_wrByte | apply wf_wrWord | apply wf_wrHalf | apply wf_wrPair | apply wf_zeroRange | apply wf_obPut |  apply wf_setAb | (fail_if_no_progress refine memWf_same rfl rfl ?_)) | split | (rename_i he; have hd := congrArg Prod.snd he; dsimp only at hd; subst hd) | dsimp only | constructor | with_reducible (first | apply MemWf.ib | apply MemWf.ob | apply MemWf.ab | apply MemWf.rx | apply MemWf.sram | apply MemWf.near | apply MemWf.sbuf) | (simp [*]; done))
@[simp] theorem mem_sbWrite (vs : List Word) (s : State) (hw : MemWf s) : MemWf (sbWrite vs s) := by
  unfold sbWrite
  repeat' (first | with_reducible (first | assumption | intro t x ht | intro t ht | apply mem_sbRefuse | apply mem_writeMany | apply mem_stepPtr | apply mem_sbAnswer | apply memWf_foldl | apply wf_foldl | apply wf_wrBytes | apply wf_wrByte | apply wf_wrWord | apply wf_wrHalf | apply wf_wrPair | apply wf_zeroRange | apply wf_obPut |  apply wf_setAb | (fail_if_no_progress refine memWf_same rfl rfl ?_)) | split | (rename_i he; have hd := congrArg Prod.snd he; dsimp only at hd; subst hd) | dsimp only | constructor | with_reducible (first | apply MemWf.ib | apply MemWf.ob | apply MemWf.ab | apply MemWf.rx | apply MemWf.sram | apply MemWf.near | apply MemWf.sbuf) | (simp [*]; done))
@[simp] theorem mem_rcvTake (bytes : List Byte) (s : State) (hw : MemWf s) : MemWf (rcvTake bytes s) := by
  unfold rcvTake; split <;> simp [*]
@[simp] theorem mem_rcvImage (s : State) (hw : MemWf s) : MemWf (rcvImage s).2 := by
  simp [rcvImage, *]
@[simp] theorem mem_rcvFinish (byte : Byte) (imageOk : Bool) (s : State) (hw : MemWf s) : MemWf (rcvFinish byte imageOk s) := by
  unfold rcvFinish
  repeat' (first | with_reducible (first | assumption | intro t x ht | intro t ht | apply mem_sbRefuse | apply mem_sbAnswer | apply mem_rcvImage | apply mem_modFw | apply memWf_foldl | apply wf_foldl | apply wf_wrBytes | apply wf_wrByte | apply wf_wrWord | apply wf_wrHalf | apply wf_wrPair | apply wf_zeroRange | apply wf_obPut |  apply wf_setAb | (fail_if_no_progress refine memWf_same rfl rfl ?_)) | split | (rename_i he; have hd := congrArg Prod.snd he; dsimp only at hd; subst hd) | dsimp only | constructor | with_reducible (first | apply MemWf.ib | apply MemWf.ob | apply MemWf.ab | apply MemWf.rx | apply MemWf.sram | apply MemWf.near | apply MemWf.sbuf) | (simp [*]; done))
@[simp] theorem mem_giveAddr (a : Nat) (s : State) (hw : MemWf s) : MemWf (giveAddr a s) := by
  simp [giveAddr, *]
@[simp] theorem mem_clockLow (ms : Nat) (s : State) (hw : MemWf s) : MemWf (clockLow ms s) := by
  unfold clockLow
  repeat' (first | with_reducible (first | assumption | intro t x ht | intro t ht | apply mem_draw | apply memWf_foldl | apply wf_foldl | apply wf_wrBytes | apply wf_wrByte | apply wf_wrWord | apply wf_wrHalf | apply wf_wrPair | apply wf_zeroRange | apply wf_obPut |  apply wf_setAb | (fail_if_no_progress refine memWf_same rfl rfl ?_)) | split | (rename_i he; have hd := congrArg Prod.snd he; dsimp only at hd; subst hd) | dsimp only | constructor | with_reducible (first | apply MemWf.ib | apply MemWf.ob | apply MemWf.ab | apply MemWf.rx | apply MemWf.sram | apply MemWf.near | apply MemWf.sbuf) | (simp [*]; done))
@[simp] theorem mem_tapLoad (tap op : Nat) (s : State) (hw : MemWf s) : MemWf (tapLoad tap op s) := by
  simp [tapLoad, *]
/-! ### Start -/
@[simp] theorem mem_beginStart (s : State) (hw : MemWf s) : MemWf (beginStart s) := by
  simp [beginStart, *]
@[simp] theorem mem_pwrEnOn (s : State) (hw : MemWf s) : MemWf (pwrEnOn s) := by
  unfold pwrEnOn
  repeat' (first | (simp [*]; done) | split)
@[simp] theorem mem_toRow (n : Nat) (s : State) (hw : MemWf s) : MemWf (toRow n s) := by
  simp [toRow, *]
@[simp] theorem mem_resetModule (s : State) (hw : MemWf s) : MemWf (resetModule s) := by
  simp [resetModule, *]
@[simp] theorem mem_resetOn (long : Bool) (s : State) (hw : MemWf s) : MemWf (resetOn long s) := by
  unfold resetOn
  repeat' (first | with_reducible (first | assumption | intro t x ht | intro t ht | apply mem_draw | apply mem_resetModule | apply memWf_foldl | apply wf_foldl | apply wf_wrBytes | apply wf_wrByte | apply wf_wrWord | apply wf_wrHalf | apply wf_wrPair | apply wf_zeroRange | apply wf_obPut |  apply wf_setAb | (fail_if_no_progress refine memWf_same rfl rfl ?_)) | split | (rename_i he; have hd := congrArg Prod.snd he; dsimp only at hd; subst hd) | dsimp only | constructor | with_reducible (first | apply MemWf.ib | apply MemWf.ob | apply MemWf.ab | apply MemWf.rx | apply MemWf.sram | apply MemWf.near | apply MemWf.sbuf) | (simp [*]; done))
@[simp] theorem mem_enterSafe (cause : Nat) (s : State) (hw : MemWf s) : MemWf (enterSafe cause s) := by
  unfold enterSafe
  repeat' (first | with_reducible (first | assumption | intro t x ht | intro t ht | apply mem_settleMstate | apply mem_toRow | apply memWf_foldl | apply wf_foldl | apply wf_wrBytes | apply wf_wrByte | apply wf_wrWord | apply wf_wrHalf | apply wf_wrPair | apply wf_zeroRange | apply wf_obPut |  apply wf_setAb | (fail_if_no_progress refine memWf_same rfl rfl ?_)) | split | (rename_i he; have hd := congrArg Prod.snd he; dsimp only at hd; subst hd) | dsimp only | constructor | with_reducible (first | apply MemWf.ib | apply MemWf.ob | apply MemWf.ab | apply MemWf.rx | apply MemWf.sram | apply MemWf.near | apply MemWf.sbuf) | (simp [*]; done))
theorem mem_bootSlot {cls : Nat} {okA okB : Bool} {s t : State} (h : bootSlot cls okA okB s = some t) (hw : MemWf s) : MemWf t := by
  unfold bootSlot at h
  dsimp only at h
  generalize hc : (fwOf s cls).actB = c at h
  cases c <;> simp only [if_true, Bool.not_true, Bool.not_false, Bool.false_eq_true, if_false] at h <;>
    (split at h
     · rw [← Option.some.inj h]; exact hw
     · split at h
       · rw [← Option.some.inj h]; exact mem_fire _ _ _ _ _ _ (mem_modFw _ _ _ hw)
       · exact absurd h (by simp))
@[simp] theorem mem_cfgWins (a : Bool) (seq : Nat) (rewrite : Bool) (s : State) (hw : MemWf s) : MemWf (cfgWins a seq rewrite s) := by
  unfold cfgWins
  repeat' (first | (simp [*]; done) | split)
@[simp] theorem mem_bootCfg (f : BootFind) (s : State) (hw : MemWf s) : MemWf (bootCfg f s).2 := by
  unfold bootCfg
  repeat' (first | (simp [*]; done) | split)
theorem mem_bootOthers {f : BootFind} {s t : State} (h : bootOthers f s = some t) (hw : MemWf s) : MemWf t := by
  simp only [bootOthers, List.foldl_cons, List.foldl_nil, Option.bind_eq_some_iff, Option.some.injEq] at h
  obtain ⟨a, ⟨b, ⟨c, hc, hb⟩, ha⟩, ht⟩ := h
  subst hc
  exact mem_bootSlot ht (mem_bootSlot ha (mem_bootSlot hb hw))
@[simp] theorem mem_cfgDefaults (s : State) (hw : MemWf s) : MemWf (cfgDefaults s) := by
  unfold cfgDefaults
  repeat' (first | with_reducible (first | assumption | intro t x ht | intro t ht | apply mem_modCnv | apply mem_modPort | apply memWf_foldl | apply wf_foldl | apply wf_wrBytes | apply wf_wrByte | apply wf_wrWord | apply wf_wrHalf | apply wf_wrPair | apply wf_zeroRange | apply wf_obPut |  apply wf_setAb | (fail_if_no_progress refine memWf_same rfl rfl ?_)) | split | (rename_i he; have hd := congrArg Prod.snd he; dsimp only at hd; subst hd) | dsimp only | constructor | with_reducible (first | apply MemWf.ib | apply MemWf.ob | apply MemWf.ab | apply MemWf.rx | apply MemWf.sram | apply MemWf.near | apply MemWf.sbuf) | (simp [*]; done))
@[simp] theorem mem_resumeFences (s : State) (hw : MemWf s) : MemWf (resumeFences s) := by
  unfold resumeFences
  repeat' (first | with_reducible (first | assumption | intro t x ht | intro t ht | apply mem_modCnv | apply mem_unwrite | apply memWf_foldl | apply wf_foldl | apply wf_wrBytes | apply wf_wrByte | apply wf_wrWord | apply wf_wrHalf | apply wf_wrPair | apply wf_zeroRange | apply wf_obPut |  apply wf_setAb | (fail_if_no_progress refine memWf_same rfl rfl ?_)) | split | (rename_i he; have hd := congrArg Prod.snd he; dsimp only at hd; subst hd) | dsimp only | constructor | with_reducible (first | apply MemWf.ib | apply MemWf.ob | apply MemWf.ab | apply MemWf.rx | apply MemWf.sram | apply MemWf.near | apply MemWf.sbuf) | (simp [*]; done))
@[simp] theorem mem_dueFences (s : State) (hw : MemWf s) : MemWf (dueFences s) := by
  unfold dueFences
  repeat' (first | with_reducible (first | assumption | intro t x ht | intro t ht | apply mem_fenceDue | apply memWf_foldl | apply wf_foldl | apply wf_wrBytes | apply wf_wrByte | apply wf_wrWord | apply wf_wrHalf | apply wf_wrPair | apply wf_zeroRange | apply wf_obPut |  apply wf_setAb | (fail_if_no_progress refine memWf_same rfl rfl ?_)) | split | (rename_i he; have hd := congrArg Prod.snd he; dsimp only at hd; subst hd) | dsimp only | constructor | with_reducible (first | apply MemWf.ib | apply MemWf.ob | apply MemWf.ab | apply MemWf.rx | apply MemWf.sram | apply MemWf.near | apply MemWf.sbuf) | (simp [*]; done))
@[simp] theorem mem_bootHistory (f : BootFind) (s : State) (hw : MemWf s) : MemWf (bootHistory f s) := by
  unfold bootHistory
  repeat' (first | with_reducible (first | assumption | intro t x ht | intro t ht | apply mem_drainDecision | apply mem_fire | apply mem_settleMstate | apply mem_dueFences | apply mem_resumeFences | apply memWf_foldl | apply wf_foldl | apply wf_wrBytes | apply wf_wrByte | apply wf_wrWord | apply wf_wrHalf | apply wf_wrPair | apply wf_zeroRange | apply wf_obPut |  apply wf_setAb | (fail_if_no_progress refine memWf_same rfl rfl ?_)) | split | (rename_i he; have hd := congrArg Prod.snd he; dsimp only at hd; subst hd) | dsimp only | constructor | with_reducible (first | apply MemWf.ib | apply MemWf.ob | apply MemWf.ab | apply MemWf.rx | apply MemWf.sram | apply MemWf.near | apply MemWf.sbuf) | (simp [*]; done))
@[simp] theorem mem_bootRecorder (f : BootFind) (s : State) (hw : MemWf s) : MemWf (bootRecorder f s) := by
  unfold bootRecorder
  repeat' (first | with_reducible (first | assumption | intro t x ht | intro t ht | apply mem_fire | apply mem_setEvents | apply memWf_foldl | apply wf_foldl | apply wf_wrBytes | apply wf_wrByte | apply wf_wrWord | apply wf_wrHalf | apply wf_wrPair | apply wf_zeroRange | apply wf_obPut |  apply wf_setAb | (fail_if_no_progress refine memWf_same rfl rfl ?_)) | split | (rename_i he; have hd := congrArg Prod.snd he; dsimp only at hd; subst hd) | dsimp only | constructor | with_reducible (first | apply MemWf.ib | apply MemWf.ob | apply MemWf.ab | apply MemWf.rx | apply MemWf.sram | apply MemWf.near | apply MemWf.sbuf) | (simp [*]; done))
@[simp] theorem mem_dropKey (s : State) (n : Nat) (hw : MemWf s) : MemWf (dropKey s n) := by
  simp [dropKey, *]
@[simp] theorem mem_writeRouting (s : State) (hw : MemWf s) : MemWf (writeRouting s) := by
  simp [writeRouting, *]
@[simp] theorem mem_boot (f : BootFind) (s : State) (hw : MemWf s) : MemWf (boot f s) := by
  unfold boot
  dsimp only
  have h0 := mem_bootRecorder f { s with sec := { s.sec with boots := satAdd 32 s.sec.boots 1, romRec := false, rcv := 0, rcvBytes := [] } }
    (memWf_same (s := s) rfl rfl hw)
  split
  · exact mem_enterSafe _ _ h0
  · split
    · generalize bootRecorder f _ = s0 at h0 ⊢; exact memWf_same (s := s0) rfl rfl h0
    · rename_i s1 h1
      have k1 := mem_bootSlot h1 h0
      split
      · exact mem_enterSafe _ _ (memWf_same (s := s1) rfl rfl k1)
      · split
        · exact mem_enterSafe _ _ (mem_bootCfg _ _ k1)
        · have k3 := mem_cfgDefaults _ (mem_bootCfg f _ k1)
          split
          · exact mem_enterSafe _ _ k3
          · rename_i s2 h2
            have k2 := mem_bootOthers h2 k3
            split
            · exact mem_enterSafe _ _ k2
            · exact mem_toRow _ _ (mem_bootHistory _ _ (memWf_foldl _ (fun t x ht => mem_dropKey _ _ ht) _ _ (mem_writeRouting _ k2)))
@[simp] theorem mem_testFail (s : State) (t : TestFail) (hw : MemWf s) : MemWf (testFail s t) := by
  unfold testFail
  repeat' (first | (simp [*]; done) | split)
@[simp] theorem mem_loseFar (s : State) (hw : MemWf s) : MemWf (loseFar s) := by
  simp [loseFar, *]
@[simp] theorem mem_emptyNear (s : State) (hw : MemWf s) : MemWf (emptyNear s) := by
  simp [emptyNear, *]
@[simp] theorem mem_restoreEntry (near : Bool) (s : State) (ix : Nat) (hw : MemWf s) : MemWf (restoreEntry near s ix) := by
  unfold restoreEntry
  repeat' (first | with_reducible (first | assumption | intro t x ht | intro t ht | apply mem_freeEntry | apply mem_modEntry | apply mem_retireWith | apply mem_setPresence | apply memWf_foldl | apply wf_foldl | apply wf_wrBytes | apply wf_wrByte | apply wf_wrWord | apply wf_wrHalf | apply wf_wrPair | apply wf_zeroRange | apply wf_obPut |  apply wf_setAb | (fail_if_no_progress refine memWf_same rfl rfl ?_)) | split | (rename_i he; have hd := congrArg Prod.snd he; dsimp only at hd; subst hd) | dsimp only | constructor | with_reducible (first | apply MemWf.ib | apply MemWf.ob | apply MemWf.ab | apply MemWf.rx | apply MemWf.sram | apply MemWf.near | apply MemWf.sbuf) | (simp [*]; done))
@[simp] theorem mem_scrubLost (s : State) (n : Nat) (hw : MemWf s) : MemWf (scrubLost s n) := by
  unfold scrubLost
  repeat' (first | with_reducible (first | assumption | intro t x ht | intro t ht | apply mem_freePages | apply mem_freeFar | apply memWf_foldl | apply wf_foldl | apply wf_wrBytes | apply wf_wrByte | apply wf_wrWord | apply wf_wrHalf | apply wf_wrPair | apply wf_zeroRange | apply wf_obPut |  apply wf_setAb | (fail_if_no_progress refine memWf_same rfl rfl ?_)) | split | (rename_i he; have hd := congrArg Prod.snd he; dsimp only at hd; subst hd) | dsimp only | constructor | with_reducible (first | apply MemWf.ib | apply MemWf.ob | apply MemWf.ab | apply MemWf.rx | apply MemWf.sram | apply MemWf.near | apply MemWf.sbuf) | (simp [*]; done))
@[simp] theorem mem_restoreRegion (near : Bool) (r : Region) (s : State) (hw : MemWf s) : MemWf (restoreRegion near r s) := by
  unfold restoreRegion
  repeat' (first | with_reducible (first | assumption | intro t x ht | intro t ht | apply mem_modPtn | apply mem_scrubLost | apply mem_restoreEntry | apply memWf_foldl | apply wf_foldl | apply wf_wrBytes | apply wf_wrByte | apply wf_wrWord | apply wf_wrHalf | apply wf_wrPair | apply wf_zeroRange | apply wf_obPut |  apply wf_setAb | (fail_if_no_progress refine memWf_same rfl rfl ?_)) | split | (rename_i he; have hd := congrArg Prod.snd he; dsimp only at hd; subst hd) | dsimp only | constructor | with_reducible (first | apply MemWf.ib | apply MemWf.ob | apply MemWf.ab | apply MemWf.rx | apply MemWf.sram | apply MemWf.near | apply MemWf.sbuf) | (simp [*]; done))
@[simp] theorem mem_keepFar (kept : Bool) (s : State) (hw : MemWf s) : MemWf (keepFar kept s) := by
  unfold keepFar; split <;> simp [*]
@[simp] theorem mem_takeRegion (regionOk : Bool) (s : State) (hw : MemWf s) : MemWf (takeRegion regionOk s) := by
  unfold takeRegion
  repeat' (first | (simp [*]; done) | split)
@[simp] theorem mem_endTshut (s : State) (hw : MemWf s) : MemWf (endTshut s) := by
  simp [endTshut, *]
@[simp] theorem mem_testEnd (fails : List TestFail) (kept regionOk : Bool) (s : State) (hw : MemWf s) : MemWf (testEnd fails kept regionOk s) := by
  unfold testEnd
  repeat' (first | with_reducible (first | assumption | intro t x ht | intro t ht | apply mem_settleMstate | apply mem_endTshut | apply mem_takeRegion | apply mem_keepFar | apply mem_testFail | apply memWf_foldl | apply wf_foldl | apply wf_wrBytes | apply wf_wrByte | apply wf_wrWord | apply wf_wrHalf | apply wf_wrPair | apply wf_zeroRange | apply wf_obPut |  apply wf_setAb | (fail_if_no_progress refine memWf_same rfl rfl ?_)) | split | (rename_i he; have hd := congrArg Prod.snd he; dsimp only at hd; subst hd) | dsimp only | constructor | with_reducible (first | apply MemWf.ib | apply MemWf.ob | apply MemWf.ab | apply MemWf.rx | apply MemWf.sram | apply MemWf.near | apply MemWf.sbuf) | (simp [*]; done))
@[simp] theorem mem_checksDone (s : State) (hw : MemWf s) : MemWf (checksDone s) := by
  unfold checksDone
  repeat' (first | with_reducible (first | assumption | intro t x ht | intro t ht | apply mem_toRow | apply mem_calDue | apply memWf_foldl | apply wf_foldl | apply wf_wrBytes | apply wf_wrByte | apply wf_wrWord | apply wf_wrHalf | apply wf_wrPair | apply wf_zeroRange | apply wf_obPut |  apply wf_setAb | (fail_if_no_progress refine memWf_same rfl rfl ?_)) | split | (rename_i he; have hd := congrArg Prod.snd he; dsimp only at hd; subst hd) | dsimp only | constructor | with_reducible (first | apply MemWf.ib | apply MemWf.ob | apply MemWf.ab | apply MemWf.rx | apply MemWf.sram | apply MemWf.near | apply MemWf.sbuf) | (simp [*]; done))
@[simp] theorem mem_rebuildMaster (b : Bundle) (s : State) (hw : MemWf s) : MemWf (rebuildMaster b s) := by
  unfold rebuildMaster
  repeat' (first | with_reducible (first | assumption | intro t x ht | intro t ht | apply memWf_foldl | apply wf_foldl | apply wf_wrBytes | apply wf_wrByte | apply wf_wrWord | apply wf_wrHalf | apply wf_wrPair | apply wf_zeroRange | apply wf_obPut |  apply wf_setAb | (fail_if_no_progress refine memWf_same rfl rfl ?_)) | split | (rename_i he; have hd := congrArg Prod.snd he; dsimp only at hd; subst hd) | dsimp only | constructor | with_reducible (first | apply MemWf.ib | apply MemWf.ob | apply MemWf.ab | apply MemWf.rx | apply MemWf.sram | apply MemWf.near | apply MemWf.sbuf) | (simp [*]; done))
@[simp] theorem mem_startDrift (ch : List (Nat × Word × Word)) (s : State) (key : Nat) (hw : MemWf s) : MemWf (startDrift ch s key) := by
  simp [startDrift, *]
@[simp] theorem mem_startDrifts (b : Bundle) (ch : List (Nat × Word × Word)) (s : State) (hw : MemWf s) : MemWf (startDrifts b ch s) := by
  unfold startDrifts
  repeat' (first | with_reducible (first | assumption | intro t x ht | intro t ht | apply mem_startDrift | apply memWf_foldl | apply wf_foldl | apply wf_wrBytes | apply wf_wrByte | apply wf_wrWord | apply wf_wrHalf | apply wf_wrPair | apply wf_zeroRange | apply wf_obPut |  apply wf_setAb | (fail_if_no_progress refine memWf_same rfl rfl ?_)) | split | (rename_i he; have hd := congrArg Prod.snd he; dsimp only at hd; subst hd) | dsimp only | constructor | with_reducible (first | apply MemWf.ib | apply MemWf.ob | apply MemWf.ab | apply MemWf.rx | apply MemWf.sram | apply MemWf.near | apply MemWf.sbuf) | (simp [*]; done))
@[simp] theorem mem_awaitBundle (c : Nat) (s : State) (hw : MemWf s) : MemWf (awaitBundle c s) := by
  simp [awaitBundle, *]
@[simp] theorem mem_rewriteCores (cores : List Nat) (s : State) (hw : MemWf s) : MemWf (rewriteCores cores s) := by
  unfold rewriteCores
  repeat' (first | with_reducible (first | assumption | intro t x ht | intro t ht | apply mem_wearCore | apply mem_programCore | apply mem_unwrite | apply memWf_foldl | apply wf_foldl | apply wf_wrBytes | apply wf_wrByte | apply wf_wrWord | apply wf_wrHalf | apply wf_wrPair | apply wf_zeroRange | apply wf_obPut |  apply wf_setAb | (fail_if_no_progress refine memWf_same rfl rfl ?_)) | split | (rename_i he; have hd := congrArg Prod.snd he; dsimp only at hd; subst hd) | dsimp only | constructor | with_reducible (first | apply MemWf.ib | apply MemWf.ob | apply MemWf.ab | apply MemWf.rx | apply MemWf.sram | apply MemWf.near | apply MemWf.sbuf) | (simp [*]; done))
@[simp] theorem mem_retain (c : Nat) (b : Bundle) (recOk crcOk : Bool) (ch : List (Nat × Word × Word)) (offs : List (Nat × Int)) (s : State) (hw : MemWf s) : MemWf (retain c b recOk crcOk ch offs s) := by
  unfold retain
  repeat' (first | with_reducible (first | assumption | intro t x ht | intro t ht | apply mem_fire | apply mem_rewriteCores | apply mem_modCnv | apply mem_awaitBundle | apply mem_rebuildMaster | apply mem_startDrifts | apply memWf_foldl | apply wf_foldl | apply wf_wrBytes | apply wf_wrByte | apply wf_wrWord | apply wf_wrHalf | apply wf_wrPair | apply wf_zeroRange | apply wf_obPut |  apply wf_setAb | (fail_if_no_progress refine memWf_same rfl rfl ?_)) | split | (rename_i he; have hd := congrArg Prod.snd he; dsimp only at hd; subst hd) | dsimp only | constructor | with_reducible (first | apply MemWf.ib | apply MemWf.ob | apply MemWf.ab | apply MemWf.rx | apply MemWf.sram | apply MemWf.near | apply MemWf.sbuf) | (simp [*]; done))
@[simp] theorem mem_retention (c : Nat) (recOk crcOk : Bool) (ch : List (Nat × Word × Word)) (offs : List (Nat × Int)) (s : State) (hw : MemWf s) : MemWf (retention c recOk crcOk ch offs s) := by
  unfold retention
  repeat' (first | (simp [*]; done) | split)
@[simp] theorem mem_serveWarm (s : State) (c : Nat) (hw : MemWf s) : MemWf (serveWarm s c) := by
  unfold serveWarm
  repeat' (first | with_reducible (first | assumption | intro t x ht | intro t ht | apply mem_unhold | apply mem_modCnv | apply mem_installTables | apply memWf_foldl | apply wf_foldl | apply wf_wrBytes | apply wf_wrByte | apply wf_wrWord | apply wf_wrHalf | apply wf_wrPair | apply wf_zeroRange | apply wf_obPut |  apply wf_setAb | (fail_if_no_progress refine memWf_same rfl rfl ?_)) | split | (rename_i he; have hd := congrArg Prod.snd he; dsimp only at hd; subst hd) | dsimp only | constructor | with_reducible (first | apply MemWf.ib | apply MemWf.ob | apply MemWf.ab | apply MemWf.rx | apply MemWf.sram | apply MemWf.near | apply MemWf.sbuf) | (simp [*]; done))
@[simp] theorem mem_afterGap (s : State) (hw : MemWf s) : MemWf (afterGap s) := by
  unfold afterGap
  repeat' (first | with_reducible (first | assumption | intro t x ht | intro t ht | apply mem_serveWarm | apply mem_toRow | apply memWf_foldl | apply wf_foldl | apply wf_wrBytes | apply wf_wrByte | apply wf_wrWord | apply wf_wrHalf | apply wf_wrPair | apply wf_zeroRange | apply wf_obPut |  apply wf_setAb | (fail_if_no_progress refine memWf_same rfl rfl ?_)) | split | (rename_i he; have hd := congrArg Prod.snd he; dsimp only at hd; subst hd) | dsimp only | constructor | with_reducible (first | apply MemWf.ib | apply MemWf.ob | apply MemWf.ab | apply MemWf.rx | apply MemWf.sram | apply MemWf.near | apply MemWf.sbuf) | (simp [*]; done))
@[simp] theorem mem_readyEntry (s : State) (hw : MemWf s) : MemWf (readyEntry s) := by
  unfold readyEntry
  repeat' (first | with_reducible (first | assumption | intro t x ht | intro t ht | apply mem_settlePower | apply mem_toRow | apply memWf_foldl | apply wf_foldl | apply wf_wrBytes | apply wf_wrByte | apply wf_wrWord | apply wf_wrHalf | apply wf_wrPair | apply wf_zeroRange | apply wf_obPut |  apply wf_setAb | (fail_if_no_progress refine memWf_same rfl rfl ?_)) | split | (rename_i he; have hd := congrArg Prod.snd he; dsimp only at hd; subst hd) | dsimp only | constructor | with_reducible (first | apply MemWf.ib | apply MemWf.ob | apply MemWf.ab | apply MemWf.rx | apply MemWf.sram | apply MemWf.near | apply MemWf.sbuf) | (simp [*]; done))
@[simp] theorem mem_pwrEnOff (s : State) (hw : MemWf s) : MemWf (pwrEnOff s) := by
  unfold pwrEnOff
  repeat' (first | (simp [*]; done) | split)
@[simp] theorem mem_pauseForShutdown (s : State) (ix : Nat) (hw : MemWf s) : MemWf (pauseForShutdown s ix) := by
  unfold pauseForShutdown
  repeat' (first | with_reducible (first | assumption | intro t x ht | intro t ht | apply mem_modEntry | apply mem_pauseDone | apply mem_expire | apply memWf_foldl | apply wf_foldl | apply wf_wrBytes | apply wf_wrByte | apply wf_wrWord | apply wf_wrHalf | apply wf_wrPair | apply wf_zeroRange | apply wf_obPut |  apply wf_setAb | (fail_if_no_progress refine memWf_same rfl rfl ?_)) | split | (rename_i he; have hd := congrArg Prod.snd he; dsimp only at hd; subst hd) | dsimp only | constructor | with_reducible (first | apply MemWf.ib | apply MemWf.ob | apply MemWf.ab | apply MemWf.rx | apply MemWf.sram | apply MemWf.near | apply MemWf.sbuf) | (simp [*]; done))
@[simp] theorem mem_shutdownEnd (s : State) (hw : MemWf s) : MemWf (shutdownEnd s) := by
  unfold shutdownEnd
  repeat' (first | with_reducible (first | assumption | intro t x ht | intro t ht | apply mem_pauseForShutdown | apply mem_saveDrift | apply mem_railsOff | apply mem_settleMstate | apply mem_evrCommit | apply mem_uhWrite | apply mem_writeRegion | apply mem_beginStart | apply memWf_foldl | apply wf_foldl | apply wf_wrBytes | apply wf_wrByte | apply wf_wrWord | apply wf_wrHalf | apply wf_wrPair | apply wf_zeroRange | apply wf_obPut |  apply wf_setAb | (fail_if_no_progress refine memWf_same rfl rfl ?_)) | split | (rename_i he; have hd := congrArg Prod.snd he; dsimp only at hd; subst hd) | dsimp only | constructor | with_reducible (first | apply MemWf.ib | apply MemWf.ob | apply MemWf.ab | apply MemWf.rx | apply MemWf.sram | apply MemWf.near | apply MemWf.sbuf) | (simp [*]; done))
/-! ### Tick -/
@[simp] theorem mem_tick (s : State) (hw : MemWf s) : MemWf (tick s) := by
  simp [tick, *]

end Sys2Proof.Machine
end

