-- ==== Sys2Proof/Laws/Out.lean ====
section
/-! SUPPORT. The answers of a meaning. -/

namespace Sys2Proof.Machine

/-- A guarded effect answers a next state exactly when its guard holds. -/
theorem okIf_next {b : Bool} {s t : State} : okIf b s = .next t ↔ b = true ∧ s = t := by
  cases b <;> simp [okIf]

/-- A guarded effect whose guard holds. -/
@[simp] theorem okIf_true {s : State} : okIf true s = .next s := rfl

end Sys2Proof.Machine
end

