-- ==== Sys2Proof/Laws/MemExec.lean ====
section
/-! SUPPORT. Every command keeps the canonical form of the memories. -/

namespace Sys2Proof.Machine

theorem mem_execNopa {i : Iss} {s : State} {t : State} (h : execNopa i s = .next t) (hw : MemWf s) : MemWf t := by
  simp only [execNopa, anyOp, slotOp, okIf_next] at h
  obtain ⟨-, rfl⟩ := h
  split <;> simp [*]
theorem mem_execStrk {i : Iss} {f : StrokeF} {s : State} {t : State} (h : execStrk i f s = .next t) (hw : MemWf s) : MemWf t := by
  simp only [execStrk, coreOp, slotOp, okIf_next] at h
  obtain ⟨-, rfl⟩ := h
  repeat' (first | assumption | intro y hy | apply mem_strkAct | apply mem_hold | apply mem_hostBody | apply mem_takeToken | split | (simp [*]; done))
theorem mem_execStkv {i : Iss} {f : StrokeF} {s : State} {t : State} (h : execStkv i f s = .next t) (hw : MemWf s) : MemWf t := by
  simp only [execStkv, coreOp, slotOp, okIf_next] at h
  obtain ⟨-, rfl⟩ := h
  repeat' (first | assumption | intro y hy | apply mem_stkvAct | apply mem_hold | apply mem_hostBody | apply mem_takeToken | split | (simp [*]; done))
theorem mem_execPsel {i : Iss} {emask amask plane : Nat} {s : State} {t : State} (h : execPsel i emask amask plane s = .next t) (hw : MemWf s) : MemWf t := by
  simp only [execPsel, coreOp, slotOp, okIf_next] at h
  obtain ⟨-, rfl⟩ := h
  repeat' (first | with_reducible (first | assumption | intro t x ht | intro t ht | apply mem_pselAct | apply mem_hold | apply mem_hostBody | apply mem_takeToken | apply memWf_foldl | apply wf_foldl | apply wf_wrBytes | apply wf_wrByte | apply wf_wrWord | apply wf_wrHalf | apply wf_wrPair | apply wf_zeroRange | apply wf_obPut |  apply wf_setAb | (fail_if_no_progress refine memWf_same rfl rfl ?_)) | split |  dsimp only | constructor | with_reducible (first | apply MemWf.ib | apply MemWf.ob | apply MemWf.ab | apply MemWf.rx | apply MemWf.sram | apply MemWf.near | apply MemWf.sbuf) | (simp [*]; done))
theorem mem_execStrokeFlagsReport {engine : Nat} {s : State} {t : State} (h : execStrokeFlagsReport engine s = .next t) (hw : MemWf s) : MemWf t := by
  simp only [execStrokeFlagsReport, okIf_next] at h
  obtain ⟨-, rfl⟩ := h
  simp [*]
theorem mem_execAclr {i : Iss} {tile count : Nat} {s : State} {t : State} (h : execAclr i tile count s = .next t) (hw : MemWf s) : MemWf t := by
  simp only [execAclr, coreOp, slotOp, okIf_next] at h
  obtain ⟨-, rfl⟩ := h
  repeat' (first | assumption | intro y hy | apply mem_aclrRun | apply mem_hold | apply mem_hostBody | apply mem_takeToken | split | (simp [*]; done))
theorem mem_execAcn {i : Iss} {ntrm : Nat} {s : State} {t : State} (h : execAcn i ntrm s = .next t) (hw : MemWf s) : MemWf t := by
  simp only [execAcn, coreOp, slotOp, okIf_next] at h
  obtain ⟨-, rfl⟩ := h
  repeat' (first | assumption | intro y hy | apply mem_acnAct | apply mem_hold | apply mem_hostBody | apply mem_takeToken | split | (simp [*]; done))
theorem mem_execApro {i : Iss} {eng ntr tile vp : Nat} {s : State} {t : State} (h : execApro i eng ntr tile vp s = .next t) (hw : MemWf s) : MemWf t := by
  simp only [execApro, coreOp, slotOp, okIf_next] at h
  obtain ⟨-, rfl⟩ := h
  repeat' (first | assumption | intro y hy | apply mem_aproRun | apply mem_hold | apply mem_hostBody | apply mem_takeToken | split | (simp [*]; done))
theorem mem_execAwid {i : Iss} {dtile srcsp saddr tcnt fold : Nat} {s : State} {t : State} (h : execAwid i dtile srcsp saddr tcnt fold s = .next t) (hw : MemWf s) : MemWf t := by
  simp only [execAwid, coreOp, slotOp, okIf_next] at h
  obtain ⟨-, rfl⟩ := h
  repeat' (first | assumption | intro y hy | apply mem_awidRun | apply mem_hold | apply mem_hostBody | apply mem_takeToken | split | (simp [*]; done))
theorem mem_execRsum {i : Iss} {f : RedF} {sq : Nat} {s : State} {t : State} (h : execRsum i f sq s = .next t) (hw : MemWf s) : MemWf t := by
  simp only [execRsum, coreOp, slotOp, okIf_next] at h
  obtain ⟨-, rfl⟩ := h
  repeat' (first | assumption | intro y hy | apply mem_redRun | apply mem_rsumAct | apply mem_hold | apply mem_hostBody | apply mem_takeToken | split | (simp [*]; done))
theorem mem_execRmax {i : Iss} {f : RedF} {s : State} {t : State} (h : execRmax i f s = .next t) (hw : MemWf s) : MemWf t := by
  simp only [execRmax, coreOp, slotOp, okIf_next] at h
  obtain ⟨-, rfl⟩ := h
  repeat' (first | assumption | intro y hy | apply mem_redRun | apply mem_rmaxAct | apply mem_hold | apply mem_hostBody | apply mem_takeToken | split | (simp [*]; done))
theorem mem_execRmin {i : Iss} {f : RedF} {s : State} {t : State} (h : execRmin i f s = .next t) (hw : MemWf s) : MemWf t := by
  simp only [execRmin, coreOp, slotOp, okIf_next] at h
  obtain ⟨-, rfl⟩ := h
  repeat' (first | assumption | intro y hy | apply mem_redRun | apply mem_rminAct | apply mem_hold | apply mem_hostBody | apply mem_takeToken | split | (simp [*]; done))
theorem mem_execRarg {i : Iss} {f : RedF} {s : State} {t : State} (h : execRarg i f s = .next t) (hw : MemWf s) : MemWf t := by
  simp only [execRarg, coreOp, slotOp, okIf_next] at h
  obtain ⟨-, rfl⟩ := h
  repeat' (first | assumption | intro y hy | apply mem_redRun | apply mem_rargAct | apply mem_hold | apply mem_hostBody | apply mem_takeToken | split | (simp [*]; done))
theorem mem_execRand {i : Iss} {f : RedF} {s : State} {t : State} (h : execRand i f s = .next t) (hw : MemWf s) : MemWf t := by
  simp only [execRand, coreOp, slotOp, okIf_next] at h
  obtain ⟨-, rfl⟩ := h
  repeat' (first | assumption | intro y hy | apply mem_redRun | apply mem_randAct | apply mem_hold | apply mem_hostBody | apply mem_takeToken | split | (simp [*]; done))
theorem mem_execRor {i : Iss} {f : RedF} {s : State} {t : State} (h : execRor i f s = .next t) (hw : MemWf s) : MemWf t := by
  simp only [execRor, coreOp, slotOp, okIf_next] at h
  obtain ⟨-, rfl⟩ := h
  repeat' (first | assumption | intro y hy | apply mem_redRun | apply mem_rorAct | apply mem_hold | apply mem_hostBody | apply mem_takeToken | split | (simp [*]; done))
theorem mem_execRxor {i : Iss} {f : RedF} {s : State} {t : State} (h : execRxor i f s = .next t) (hw : MemWf s) : MemWf t := by
  simp only [execRxor, coreOp, slotOp, okIf_next] at h
  obtain ⟨-, rfl⟩ := h
  repeat' (first | assumption | intro y hy | apply mem_redRun | apply mem_rxorAct | apply mem_hold | apply mem_hostBody | apply mem_takeToken | split | (simp [*]; done))
theorem mem_execRcnt {i : Iss} {f : RedF} {s : State} {t : State} (h : execRcnt i f s = .next t) (hw : MemWf s) : MemWf t := by
  simp only [execRcnt, coreOp, slotOp, okIf_next] at h
  obtain ⟨-, rfl⟩ := h
  repeat' (first | assumption | intro y hy | apply mem_redRun | apply mem_rcntAct | apply mem_hold | apply mem_hostBody | apply mem_takeToken | split | (simp [*]; done))
theorem mem_execNopg {i : Iss} {s : State} {t : State} (h : execNopg i s = .next t) (hw : MemWf s) : MemWf t := by
  simp only [execNopg, coreOp, slotOp, okIf_next] at h
  obtain ⟨-, rfl⟩ := h
  split <;> simp [*]
theorem mem_execGout {i : Iss} {f : GlzF} {s : State} {t : State} (h : execGout i f s = .next t) (hw : MemWf s) : MemWf t := by
  simp only [execGout, coreOp, slotOp, okIf_next] at h
  obtain ⟨-, rfl⟩ := h
  repeat' (first | assumption | intro y hy | apply mem_glzRun | apply mem_goutAct | apply mem_hold | apply mem_hostBody | apply mem_takeToken | split | (simp [*]; done))
theorem mem_execGact {i : Iss} {f : GlzF} {s : State} {t : State} (h : execGact i f s = .next t) (hw : MemWf s) : MemWf t := by
  simp only [execGact, coreOp, slotOp, okIf_next] at h
  obtain ⟨-, rfl⟩ := h
  repeat' (first | assumption | intro y hy | apply mem_glzRun | apply mem_gactAct | apply mem_hold | apply mem_hostBody | apply mem_takeToken | split | (simp [*]; done))
theorem mem_execGlr {i : Iss} {f : GlzF} {s : State} {t : State} (h : execGlr i f s = .next t) (hw : MemWf s) : MemWf t := by
  simp only [execGlr, coreOp, slotOp, okIf_next] at h
  obtain ⟨-, rfl⟩ := h
  repeat' (first | with_reducible (first | assumption | intro t x ht | intro t ht | apply mem_glrRun | apply mem_hold | apply mem_hostBody | apply mem_takeToken | apply memWf_foldl | apply wf_foldl | apply wf_wrBytes | apply wf_wrByte | apply wf_wrWord | apply wf_wrHalf | apply wf_wrPair | apply wf_zeroRange | apply wf_obPut |  apply wf_setAb | (fail_if_no_progress refine memWf_same rfl rfl ?_)) | split |  dsimp only | constructor | with_reducible (first | apply MemWf.ib | apply MemWf.ob | apply MemWf.ab | apply MemWf.rx | apply MemWf.sram | apply MemWf.near | apply MemWf.sbuf) | (simp [*]; done))
theorem mem_execGtnt {i : Iss} {f : GlzF} {s : State} {t : State} (h : execGtnt i f s = .next t) (hw : MemWf s) : MemWf t := by
  simp only [execGtnt, coreOp, slotOp, okIf_next] at h
  obtain ⟨-, rfl⟩ := h
  repeat' (first | assumption | intro y hy | apply mem_glzRun | apply mem_gtntAct | apply mem_hold | apply mem_hostBody | apply mem_takeToken | split | (simp [*]; done))
theorem mem_execEnorm {i : Iss} {f : ElF} {sr lix : Nat} {s : State} {t : State} (h : execEnorm i f sr lix s = .next t) (hw : MemWf s) : MemWf t := by
  simp only [execEnorm, coreOp, slotOp, okIf_next] at h
  obtain ⟨-, rfl⟩ := h
  repeat' (first | assumption | intro y hy | apply mem_elRun | apply mem_enormAct | apply mem_hold | apply mem_hostBody | apply mem_takeToken | split | (simp [*]; done))
theorem mem_execEact {i : Iss} {f : ElF} {fn : Nat} {s : State} {t : State} (h : execEact i f fn s = .next t) (hw : MemWf s) : MemWf t := by
  simp only [execEact, coreOp, slotOp, okIf_next] at h
  obtain ⟨-, rfl⟩ := h
  repeat' (first | assumption | intro y hy | apply mem_elRun | apply mem_eactAct | apply mem_hold | apply mem_hostBody | apply mem_takeToken | split | (simp [*]; done))
theorem mem_execEmul {i : Iss} {f : ElF} {srcb : Nat} {s : State} {t : State} (h : execEmul i f srcb s = .next t) (hw : MemWf s) : MemWf t := by
  simp only [execEmul, coreOp, slotOp, okIf_next] at h
  obtain ⟨-, rfl⟩ := h
  repeat' (first | assumption | intro y hy | apply mem_elRun | apply mem_emulAct | apply mem_hold | apply mem_hostBody | apply mem_takeToken | split | (simp [*]; done))
theorem mem_execEadd {i : Iss} {f : ElF} {srcb : Nat} {s : State} {t : State} (h : execEadd i f srcb s = .next t) (hw : MemWf s) : MemWf t := by
  simp only [execEadd, coreOp, slotOp, okIf_next] at h
  obtain ⟨-, rfl⟩ := h
  repeat' (first | assumption | intro y hy | apply mem_elRun | apply mem_eaddAct | apply mem_hold | apply mem_hostBody | apply mem_takeToken | split | (simp [*]; done))
theorem mem_execErot {i : Iss} {f : ElF} {fid pair : Nat} {s : State} {t : State} (h : execErot i f fid pair s = .next t) (hw : MemWf s) : MemWf t := by
  simp only [execErot, coreOp, slotOp, okIf_next] at h
  obtain ⟨-, rfl⟩ := h
  repeat' (first | assumption | intro y hy | apply mem_elRun | apply mem_erotAct | apply mem_hold | apply mem_hostBody | apply mem_takeToken | split | (simp [*]; done))
theorem mem_execEcvt {i : Iss} {f : EcvtF} {s : State} {t : State} (h : execEcvt i f s = .next t) (hw : MemWf s) : MemWf t := by
  simp only [execEcvt, coreOp, slotOp, okIf_next] at h
  obtain ⟨-, rfl⟩ := h
  repeat' (first | assumption | intro y hy | apply mem_elRun | apply mem_ecvtAct | apply mem_hold | apply mem_hostBody | apply mem_takeToken | split | (simp [*]; done))
theorem mem_execNopm {i : Iss} {s : State} {t : State} (h : execNopm i s = .next t) (hw : MemWf s) : MemWf t := by
  simp only [execNopm, anyOp, slotOp, okIf_next] at h
  obtain ⟨-, rfl⟩ := h
  split <;> simp [*]
theorem mem_execMvb {i : Iss} {ssp dsp saddr daddr len ty : Nat} {s : State} {t : State} (h : execMvb i ssp dsp saddr daddr len ty s = .next t) (hw : MemWf s) : MemWf t := by
  simp only [execMvb, anyOp, slotOp, okIf_next] at h
  obtain ⟨-, rfl⟩ := h
  repeat' (first | assumption | intro y hy | apply mem_mvbAct | apply mem_hold | apply mem_hostBody | apply mem_takeToken | split | (simp [*]; done))
theorem mem_execMvf {i : Iss} {ssp saddr route len ty : Nat} {s : State} {t : State} (h : execMvf i ssp saddr route len ty s = .next t) (hw : MemWf s) : MemWf t := by
  simp only [execMvf, anyOp, slotOp, okIf_next] at h
  obtain ⟨-, rfl⟩ := h
  split <;> simp [*]
theorem mem_execMvk {i : Iss} {ssp saddr layer kind vp : Nat} {s : State} {t : State} (h : execMvk i ssp saddr layer kind vp s = .next t) (hw : MemWf s) : MemWf t := by
  simp only [execMvk, coreOp, slotOp, okIf_next] at h
  obtain ⟨-, rfl⟩ := h
  repeat' (first | assumption | intro y hy | apply mem_mvkAct | apply mem_hold | apply mem_hostBody | apply mem_takeToken | split | (simp [*]; done))
theorem mem_execMck {i : Iss} {ssp saddr len lix : Nat} {s : State} {t : State} (h : execMck i ssp saddr len lix s = .next t) (hw : MemWf s) : MemWf t := by
  simp only [execMck, coreOp, slotOp, okIf_next] at h
  obtain ⟨-, rfl⟩ := h
  repeat' (first | assumption | intro y hy | apply mem_mckAct | apply mem_hold | apply mem_hostBody | apply mem_takeToken | split | (simp [*]; done))
theorem mem_execTwait {i : Iss} {tch count : Nat} {s : State} {t : State} (h : execTwait i tch count s = .next t) (hw : MemWf s) : MemWf t := by
  simp only [execTwait, anyOp, slotOp, okIf_next] at h
  obtain ⟨-, rfl⟩ := h
  repeat' (first | assumption | intro y hy | apply mem_twaitAct | apply mem_hold | apply mem_hostBody | apply mem_takeToken | split | (simp [*]; done))
theorem mem_execTsend {i : Iss} {tch : Nat} {s : State} {t : State} (h : execTsend i tch s = .next t) (hw : MemWf s) : MemWf t := by
  simp only [execTsend, anyOp, slotOp, okIf_next] at h
  obtain ⟨-, rfl⟩ := h
  repeat' (first | assumption | intro y hy | apply mem_tsendOp | apply mem_hold | apply mem_hostBody | apply mem_takeToken | split | (simp [*]; done))
theorem mem_execCred {i : Iss} {cch op n : Nat} {s : State} {t : State} (h : execCred i cch op n s = .next t) (hw : MemWf s) : MemWf t := by
  simp only [execCred, anyOp, slotOp, okIf_next] at h
  obtain ⟨-, rfl⟩ := h
  repeat' (first | assumption | intro y hy | apply mem_credOp | apply mem_hold | apply mem_hostBody | apply mem_takeToken | split | (simp [*]; done))
theorem mem_execChk {i : Iss} {tile vp eid : Nat} {s : State} {t : State} (h : execChk i tile vp eid s = .next t) (hw : MemWf s) : MemWf t := by
  simp only [execChk, coreOp, slotOp, okIf_next] at h
  obtain ⟨-, rfl⟩ := h
  repeat' (first | assumption | intro y hy | apply mem_chkAct | apply mem_hold | apply mem_hostBody | apply mem_takeToken | split | (simp [*]; done))
theorem mem_execCsum {i : Iss} {emask ntr : Nat} {s : State} {t : State} (h : execCsum i emask ntr s = .next t) (hw : MemWf s) : MemWf t := by
  simp only [execCsum, coreOp, slotOp, okIf_next] at h
  obtain ⟨-, rfl⟩ := h
  repeat' (first | with_reducible (first | assumption | intro t x ht | intro t ht | apply mem_csumRun | apply mem_hold | apply mem_hostBody | apply mem_takeToken | apply memWf_foldl | apply wf_foldl | apply wf_wrBytes | apply wf_wrByte | apply wf_wrWord | apply wf_wrHalf | apply wf_wrPair | apply wf_zeroRange | apply wf_obPut |  apply wf_setAb | (fail_if_no_progress refine memWf_same rfl rfl ?_)) | split |  dsimp only | constructor | with_reducible (first | apply MemWf.ib | apply MemWf.ob | apply MemWf.ab | apply MemWf.rx | apply MemWf.sram | apply MemWf.near | apply MemWf.sbuf) | (simp [*]; done))
theorem mem_execFlor {i : Iss} {s : State} {t : State} (h : execFlor i s = .next t) (hw : MemWf s) : MemWf t := by
  simp only [execFlor, anyOp, slotOp, okIf_next] at h
  obtain ⟨-, rfl⟩ := h
  repeat' (first | assumption | intro y hy | apply mem_closeSeg | apply mem_hold | apply mem_hostBody | apply mem_takeToken | split | (simp [*]; done))
theorem mem_execStep {i : Iss} {s : State} {t : State} (h : execStep i s = .next t) (hw : MemWf s) : MemWf t := by
  simp only [execStep, anyOp, slotOp, okIf_next] at h
  obtain ⟨-, rfl⟩ := h
  repeat' (first | assumption | intro y hy | apply mem_stepOp | apply mem_hold | apply mem_hostBody | apply mem_takeToken | split | (simp [*]; done))
theorem mem_execRplw {i : Iss} {close : Nat} {s : State} {t : State} (h : execRplw i close s = .next t) (hw : MemWf s) : MemWf t := by
  simp only [execRplw, anyOp, slotOp, okIf_next] at h
  obtain ⟨-, rfl⟩ := h
  repeat' (first | assumption | intro y hy | apply mem_rplwAct | apply mem_hold | apply mem_hostBody | apply mem_takeToken | split | (simp [*]; done))
theorem mem_execFlagSegmentClose {sid flagIx : Nat} {s : State} {t : State} (h : execFlagSegmentClose sid flagIx s = .next t) (hw : MemWf s) : MemWf t := by
  simp only [execFlagSegmentClose, okIf_next] at h
  obtain ⟨-, rfl⟩ := h
  simp [*]
theorem mem_execSamp {i : Iss} {laddr pos : Nat} {s : State} {t : State} (h : execSamp i laddr pos s = .next t) (hw : MemWf s) : MemWf t := by
  simp only [execSamp, headOp, slotOp, okIf_next] at h
  obtain ⟨-, rfl⟩ := h
  repeat' (first | assumption | intro y hy | apply mem_sampAct | apply mem_hold | apply mem_hostBody | apply mem_takeToken | split | (simp [*]; done))
theorem mem_execVrfy {i : Iss} {laddr daddr tree : Nat} {s : State} {t : State} (h : execVrfy i laddr daddr tree s = .next t) (hw : MemWf s) : MemWf t := by
  simp only [execVrfy, headOp, slotOp, okIf_next] at h
  obtain ⟨-, rfl⟩ := h
  repeat' (first | assumption | intro y hy | apply mem_vrfyAct | apply mem_hold | apply mem_hostBody | apply mem_takeToken | split | (simp [*]; done))
theorem mem_execSkdr {i : Iss} {nprop tree daddr : Nat} {cands : List (List (Nat × Word))} {s : State} {t : State} (h : execSkdr i nprop tree daddr cands s = .next t) (hw : MemWf s) : MemWf t := by
  simp only [execSkdr, headOp, slotOp, okIf_next] at h
  obtain ⟨-, rfl⟩ := h
  repeat' (first | assumption | intro y hy | apply mem_skdrAct | apply mem_hold | apply mem_hostBody | apply mem_takeToken | split | (simp [*]; done))
theorem mem_execScore {i : Iss} {kvh layer qaddr sbuf mask nqh : Nat} {s : State} {t : State} (h : execScore i kvh layer qaddr sbuf mask nqh s = .next t) (hw : MemWf s) : MemWf t := by
  simp only [execScore, attOp, slotOp, okIf_next] at h
  obtain ⟨-, rfl⟩ := h
  repeat' (first | assumption | intro y hy | apply mem_scoreAct | apply mem_hold | apply mem_hostBody | apply mem_takeToken | split | (simp [*]; done))
theorem mem_execSnorm {i : Iss} {sbuf paddr nqh : Nat} {s : State} {t : State} (h : execSnorm i sbuf paddr nqh s = .next t) (hw : MemWf s) : MemWf t := by
  simp only [execSnorm, attOp, slotOp, okIf_next] at h
  obtain ⟨-, rfl⟩ := h
  repeat' (first | assumption | intro y hy | apply mem_snormAct | apply mem_hold | apply mem_hostBody | apply mem_takeToken | split | (simp [*]; done))
theorem mem_execSmix {i : Iss} {kvh layer paddr oaddr mask nqh : Nat} {s : State} {t : State} (h : execSmix i kvh layer paddr oaddr mask nqh s = .next t) (hw : MemWf s) : MemWf t := by
  simp only [execSmix, attOp, slotOp, okIf_next] at h
  obtain ⟨-, rfl⟩ := h
  repeat' (first | assumption | intro y hy | apply mem_smixAct | apply mem_hold | apply mem_hostBody | apply mem_takeToken | split | (simp [*]; done))
theorem mem_execKvput {i : Iss} {kvh layer kaddr : Nat} {s : State} {t : State} (h : execKvput i kvh layer kaddr s = .next t) (hw : MemWf s) : MemWf t := by
  simp only [execKvput, attOp, slotOp, okIf_next] at h
  obtain ⟨-, rfl⟩ := h
  repeat' (first | assumption | intro y hy | apply mem_kvputAct | apply mem_hold | apply mem_hostBody | apply mem_takeToken | split | (simp [*]; done))
theorem mem_execFabricDelivery {ix : Nat} {s : State} {t : State} (h : execFabricDelivery ix s = .next t) (hw : MemWf s) : MemWf t := by
  simp only [execFabricDelivery, Host.Outcome.next.injEq] at h
  obtain rfl := h
  split <;> simp [*]
theorem mem_execGcol {i : Iss} {f : GlzF} {s : State} {t : State} (h : execGcol i f s = .next t) (hw : MemWf s) : MemWf t := by
  simp only [execGcol, coreOp, slotOp, okIf_next] at h
  obtain ⟨-, rfl⟩ := h
  repeat' (first | assumption | intro y hy | apply mem_settle | apply mem_gcolAct | apply mem_hold | apply mem_hostBody | apply mem_takeToken | split | (simp [*]; done))
theorem mem_execReplaySlot {i : Iss} {s : State} {t : State} (h : execReplaySlot i s = .next t) (hw : MemWf s) : MemWf t := by
  simp only [execReplaySlot, coreOp, slotOp, okIf_next] at h
  obtain ⟨-, rfl⟩ := h
  repeat' (first | assumption | intro y hy | apply mem_settle | apply mem_replaySlotAct | apply mem_hold | apply mem_hostBody | apply mem_takeToken | split | (simp [*]; done))
theorem mem_execSyncToken {dest : Nat} {tok : Token} {s : State} {t : State} (h : execSyncToken dest tok s = .next t) (hw : MemWf s) : MemWf t := by
  simp only [execSyncToken, currentToken, seqToken, okIf_next] at h
  obtain ⟨-, rfl⟩ := h
  repeat' (first | assumption | intro y hy | apply mem_settle | apply mem_syncOp | apply mem_hold | apply mem_hostBody | apply mem_takeToken | split | (simp [*]; done))
theorem mem_execCredit {dest : Nat} {tok : Token} {s : State} {t : State} (h : execCredit dest tok s = .next t) (hw : MemWf s) : MemWf t := by
  simp only [execCredit, currentToken, seqToken, okIf_next] at h
  obtain ⟨-, rfl⟩ := h
  repeat' (first | assumption | intro y hy | apply mem_settle | apply mem_tryWait | apply mem_addCredit | apply mem_hold | apply mem_hostBody | apply mem_takeToken | split | (simp [*]; done))
theorem mem_execStepBoundary {dest : Nat} {tok : Token} {s : State} {t : State} (h : execStepBoundary dest tok s = .next t) (hw : MemWf s) : MemWf t := by
  simp only [execStepBoundary, seqToken, okIf_next] at h
  obtain ⟨-, rfl⟩ := h
  repeat' (first | assumption | intro y hy | apply mem_clearWalks | apply mem_latchStep | apply mem_hold | apply mem_hostBody | apply mem_takeToken | split | (simp [*]; done))
theorem mem_execRetract {dest : Nat} {tok : Token} {s : State} {t : State} (h : execRetract dest tok s = .next t) (hw : MemWf s) : MemWf t := by
  simp only [execRetract, currentToken, seqToken, okIf_next] at h
  obtain ⟨-, rfl⟩ := h
  repeat' (first | assumption | intro y hy | apply mem_retractOp | apply mem_hold | apply mem_hostBody | apply mem_takeToken | split | (simp [*]; done))
theorem mem_execRewind {dest : Nat} {tok : Token} {s : State} {t : State} (h : execRewind dest tok s = .next t) (hw : MemWf s) : MemWf t := by
  simp only [execRewind, seqToken, okIf_next] at h
  obtain ⟨-, rfl⟩ := h
  repeat' (first | assumption | intro y hy | apply mem_quiesce | apply mem_hold | apply mem_hostBody | apply mem_takeToken | split | (simp [*]; done))
theorem mem_execAbandon {dest : Nat} {tok : Token} {s : State} {t : State} (h : execAbandon dest tok s = .next t) (hw : MemWf s) : MemWf t := by
  simp only [execAbandon, seqToken, okIf_next] at h
  obtain ⟨-, rfl⟩ := h
  repeat' (first | assumption | intro y hy | apply mem_quiesce | apply mem_hold | apply mem_hostBody | apply mem_takeToken | split | (simp [*]; done))
theorem mem_execResumeToken {dest : Nat} {tok : Token} {s : State} {t : State} (h : execResumeToken dest tok s = .next t) (hw : MemWf s) : MemWf t := by
  simp only [execResumeToken, currentToken, seqToken, okIf_next] at h
  obtain ⟨-, rfl⟩ := h
  repeat' (first | assumption | intro y hy | apply mem_resumeOp | apply mem_hold | apply mem_hostBody | apply mem_takeToken | split | (simp [*]; done))
theorem mem_execLaneKill {dest : Nat} {tok : Token} {s : State} {t : State} (h : execLaneKill dest tok s = .next t) (hw : MemWf s) : MemWf t := by
  simp only [execLaneKill, currentToken, seqToken, okIf_next] at h
  obtain ⟨-, rfl⟩ := h
  repeat' (first | assumption | intro y hy | apply mem_laneKillOp | apply mem_hold | apply mem_hostBody | apply mem_takeToken | split | (simp [*]; done))
theorem mem_execStepDone {tok : Token} {s : State} {t : State} (h : execStepDone tok s = .next t) (hw : MemWf s) : MemWf t := by
  simp only [execStepDone, schedToken, okIf_next] at h
  obtain ⟨-, rfl⟩ := h
  repeat' (first | assumption | intro y hy | apply mem_stepDoneOp | apply mem_hold | apply mem_hostBody | apply mem_takeToken | split | (simp [*]; done))
theorem mem_execSegment {tok : Token} {s : State} {t : State} (h : execSegment tok s = .next t) (hw : MemWf s) : MemWf t := by
  simp only [execSegment, schedToken, okIf_next] at h
  obtain ⟨-, rfl⟩ := h
  repeat' (first | assumption | intro y hy | apply mem_segmentOp | apply mem_hold | apply mem_hostBody | apply mem_takeToken | split | (simp [*]; done))
theorem mem_execRewindGatherExpiry {s : State} {t : State} (h : execRewindGatherExpiry s = .next t) (hw : MemWf s) : MemWf t := by
  simp only [execRewindGatherExpiry, Host.Outcome.next.injEq] at h
  obtain rfl := h
  simp [*]
theorem mem_execQuiesced {tok : Token} {s : State} {t : State} (h : execQuiesced tok s = .next t) (hw : MemWf s) : MemWf t := by
  simp only [execQuiesced, schedToken, okIf_next] at h
  obtain ⟨-, rfl⟩ := h
  repeat' (first | assumption | intro y hy | apply mem_quiescedOp | apply mem_hold | apply mem_hostBody | apply mem_takeToken | split | (simp [*]; done))
theorem mem_execSeqFault {tok : Token} {s : State} {t : State} (h : execSeqFault tok s = .next t) (hw : MemWf s) : MemWf t := by
  simp only [execSeqFault, schedToken, okIf_next] at h
  obtain ⟨-, rfl⟩ := h
  repeat' (first | assumption | intro y hy | apply mem_seqFaultAct | apply mem_hold | apply mem_hostBody | apply mem_takeToken | split | (simp [*]; done))
theorem mem_execStepWatchdogExpiry {s : State} {t : State} (h : execStepWatchdogExpiry s = .next t) (hw : MemWf s) : MemWf t := by
  simp only [execStepWatchdogExpiry, Host.Outcome.next.injEq] at h
  obtain rfl := h
  simp [*]
theorem mem_execCommit {s : State} {t : State} (h : execCommit s = .next t) (hw : MemWf s) : MemWf t := by
  simp only [execCommit, Host.Outcome.next.injEq] at h
  obtain rfl := h
  simp [*]
theorem mem_execStepCompose {s : State} {t : State} (h : execStepCompose s = .next t) (hw : MemWf s) : MemWf t := by
  simp only [execStepCompose, Host.Outcome.next.injEq] at h
  obtain rfl := h
  simp [*]
theorem mem_execHotCacheFill {cluster slice : Nat} {s : State} {t : State} (h : execHotCacheFill cluster slice s = .next t) (hw : MemWf s) : MemWf t := by
  simp only [execHotCacheFill, okIf_next] at h
  obtain ⟨-, rfl⟩ := h
  split <;> simp [*]
theorem mem_execSpacingTimeout {s : State} {t : State} (h : execSpacingTimeout s = .next t) (hw : MemWf s) : MemWf t := by
  simp only [execSpacingTimeout, Host.Outcome.next.injEq] at h
  obtain rfl := h
  simp [*]
theorem mem_execEnergyMeterSample {uj : Nat} {s : State} {t : State} (h : execEnergyMeterSample uj s = .next t) (hw : MemWf s) : MemWf t := by
  simp only [execEnergyMeterSample, Host.Outcome.next.injEq] at h
  obtain rfl := h
  simp [*]
theorem mem_execFormatFloorExpiry {canvas : Nat} {s : State} {t : State} (h : execFormatFloorExpiry canvas s = .next t) (hw : MemWf s) : MemWf t := by
  simp only [execFormatFloorExpiry, okIf_next] at h
  obtain ⟨-, rfl⟩ := h
  simp [*]
theorem mem_execCalibrationGapOpen {meas : List CalMeas} {s : State} {t : State} (h : execCalibrationGapOpen meas s = .next t) (hw : MemWf s) : MemWf t := by
  simp only [execCalibrationGapOpen, okIf_next] at h
  obtain ⟨-, rfl⟩ := h
  simp [*]
theorem mem_execCalIntervalExpiry {cluster : Nat} {s : State} {t : State} (h : execCalIntervalExpiry cluster s = .next t) (hw : MemWf s) : MemWf t := by
  simp only [execCalIntervalExpiry, okIf_next] at h
  obtain ⟨-, rfl⟩ := h
  simp [*]
theorem mem_execCalModuleEventTimer {s : State} {t : State} (h : execCalModuleEventTimer s = .next t) (hw : MemWf s) : MemWf t := by
  simp only [execCalModuleEventTimer, Host.Outcome.next.injEq] at h
  obtain rfl := h
  simp [*]
theorem mem_execStrokeEnd {engine : Nat} {dev : Tab Int} {tree : Nat} {s : State} {t : State} (h : execStrokeEnd engine dev tree s = .next t) (hw : MemWf s) : MemWf t := by
  simp only [execStrokeEnd, okIf_next] at h
  obtain ⟨-, rfl⟩ := h
  simp [*]
theorem mem_execAuditArbitration {cluster : Nat} {again : List Int} {s : State} {t : State} (h : execAuditArbitration cluster again s = .next t) (hw : MemWf s) : MemWf t := by
  simp only [execAuditArbitration, okIf_next] at h
  obtain ⟨-, rfl⟩ := h
  simp [*]
theorem mem_execAuditRotation {cluster : Nat} {s : State} {t : State} (h : execAuditRotation cluster s = .next t) (hw : MemWf s) : MemWf t := by
  simp only [execAuditRotation, okIf_next] at h
  obtain ⟨-, rfl⟩ := h
  simp [*]
theorem mem_execFenceStart {core : Nat} {s : State} {t : State} (h : execFenceStart core s = .next t) (hw : MemWf s) : MemWf t := by
  simp only [execFenceStart, okIf_next] at h
  obtain ⟨-, rfl⟩ := h
  simp [*]
theorem mem_execFenceComplete {cluster : Nat} {s : State} {t : State} (h : execFenceComplete cluster s = .next t) (hw : MemWf s) : MemWf t := by
  simp only [execFenceComplete, okIf_next] at h
  obtain ⟨-, rfl⟩ := h
  simp [*]
theorem mem_execDrainBudgetExpiry {s : State} {t : State} (h : execDrainBudgetExpiry s = .next t) (hw : MemWf s) : MemWf t := by
  simp only [execDrainBudgetExpiry, Host.Outcome.next.injEq] at h
  obtain rfl := h
  simp [*]
theorem mem_execReplaceEntry {s : State} {t : State} (h : execReplaceEntry s = .next t) (hw : MemWf s) : MemWf t := by
  simp only [execReplaceEntry, Host.Outcome.next.injEq] at h
  obtain rfl := h
  simp [*]
theorem mem_execUnitHistoryPeriodicWrite {s : State} {t : State} (h : execUnitHistoryPeriodicWrite s = .next t) (hw : MemWf s) : MemWf t := by
  simp only [execUnitHistoryPeriodicWrite, Host.Outcome.next.injEq] at h
  obtain rfl := h
  simp [*]
theorem mem_execTokenPlaneFailure {plane hop : Nat} {s : State} {t : State} (h : execTokenPlaneFailure plane hop s = .next t) (hw : MemWf s) : MemWf t := by
  simp only [execTokenPlaneFailure, okIf_next] at h
  obtain ⟨-, rfl⟩ := h
  simp [*]
theorem mem_execProgramIteration {array plane row : Nat} {read : List (Nat × Nat × Nat)} {s : State} {t : State} (h : execProgramIteration array plane row read s = .next t) (hw : MemWf s) : MemWf t := by
  simp only [execProgramIteration, okIf_next] at h
  obtain ⟨-, rfl⟩ := h
  simp [*]
theorem mem_execPlaneWriteComplete {array plane : Nat} {s : State} {t : State} (h : execPlaneWriteComplete array plane s = .next t) (hw : MemWf s) : MemWf t := by
  simp only [execPlaneWriteComplete, okIf_next] at h
  obtain ⟨-, rfl⟩ := h
  simp [*]
theorem mem_execProgrammingWaveStart {canvas : Nat} {s : State} {t : State} (h : execProgrammingWaveStart canvas s = .next t) (hw : MemWf s) : MemWf t := by
  simp only [execProgrammingWaveStart, okIf_next] at h
  obtain ⟨-, rfl⟩ := h
  simp [*]
theorem mem_execLoadComplete {canvas : Nat} {s : State} {t : State} (h : execLoadComplete canvas s = .next t) (hw : MemWf s) : MemWf t := by
  simp only [execLoadComplete, okIf_next] at h
  obtain ⟨-, rfl⟩ := h
  simp [*]
theorem mem_execDriftTableSave {cluster : Nat} {s : State} {t : State} (h : execDriftTableSave cluster s = .next t) (hw : MemWf s) : MemWf t := by
  simp only [execDriftTableSave, okIf_next] at h
  obtain ⟨-, rfl⟩ := h
  simp [*]
theorem mem_execCanvasRecordDurable {canvas : Nat} {s : State} {t : State} (h : execCanvasRecordDurable canvas s = .next t) (hw : MemWf s) : MemWf t := by
  simp only [execCanvasRecordDurable, okIf_next] at h
  obtain ⟨-, rfl⟩ := h
  simp [*]
theorem mem_execStage {h : Hdr} {canvas offset len total : Nat} {bundle : Bundle} {s : State} {t : State} (h : execStage h canvas offset len total bundle s = .next t) (hw : MemWf s) : MemWf t := by
  simp only [execStage, okIf_next] at h
  obtain ⟨-, rfl⟩ := h
  repeat' (first | assumption | intro y hy | apply mem_hostBody | apply mem_stageOp | apply mem_hold | apply mem_takeToken | split | (simp [*]; done))
theorem mem_execStagePartTimeout {canvas : Nat} {s : State} {t : State} (h : execStagePartTimeout canvas s = .next t) (hw : MemWf s) : MemWf t := by
  simp only [execStagePartTimeout, okIf_next] at h
  obtain ⟨-, rfl⟩ := h
  simp [*]
theorem mem_execLoad {h : Hdr} {canvas : Nat} {s : State} {t : State} (h : execLoad h canvas s = .next t) (hw : MemWf s) : MemWf t := by
  simp only [execLoad, hostCmd, okIf_next] at h
  obtain ⟨-, rfl⟩ := h
  repeat' (first | assumption | intro y hy | apply mem_loadOp | apply mem_hold | apply mem_hostBody | apply mem_takeToken | split | (simp [*]; done))
theorem mem_execAbort {h : Hdr} {canvas : Nat} {s : State} {t : State} (h : execAbort h canvas s = .next t) (hw : MemWf s) : MemWf t := by
  simp only [execAbort, hostCmd, okIf_next] at h
  obtain ⟨-, rfl⟩ := h
  repeat' (first | assumption | intro y hy | apply mem_abortOp | apply mem_hold | apply mem_hostBody | apply mem_takeToken | split | (simp [*]; done))
theorem mem_execErase {h : Hdr} {canvas : Nat} {module_ : Bool} {s : State} {t : State} (h : execErase h canvas module_ s = .next t) (hw : MemWf s) : MemWf t := by
  simp only [execErase, hostCmd, okIf_next] at h
  obtain ⟨-, rfl⟩ := h
  repeat' (first | assumption | intro y hy | apply mem_eraseOp | apply mem_hold | apply mem_hostBody | apply mem_takeToken | split | (simp [*]; done))
theorem mem_execEraseComplete {s : State} {t : State} (h : execEraseComplete s = .next t) (hw : MemWf s) : MemWf t := by
  simp only [execEraseComplete, Host.Outcome.next.injEq] at h
  obtain rfl := h
  simp [*]
theorem mem_execPersistentColumnRelease {core array plane col : Nat} {s : State} {t : State} (h : execPersistentColumnRelease core array plane col s = .next t) (hw : MemWf s) : MemWf t := by
  simp only [execPersistentColumnRelease, okIf_next] at h
  obtain ⟨-, rfl⟩ := h
  simp [*]
theorem mem_execDigcolEntryFetch {core array plane col : Nat} {s : State} {t : State} (h : execDigcolEntryFetch core array plane col s = .next t) (hw : MemWf s) : MemWf t := by
  simp only [execDigcolEntryFetch, okIf_next] at h
  obtain ⟨-, rfl⟩ := h
  simp [*]
theorem mem_execRuntimeChannelAdd {canvas set index : Nat} {s : State} {t : State} (h : execRuntimeChannelAdd canvas set index s = .next t) (hw : MemWf s) : MemWf t := by
  simp only [execRuntimeChannelAdd, okIf_next] at h
  obtain ⟨-, rfl⟩ := h
  simp [*]
theorem mem_execRuntimeChannelLeave {canvas set index : Nat} {s : State} {t : State} (h : execRuntimeChannelLeave canvas set index s = .next t) (hw : MemWf s) : MemWf t := by
  simp only [execRuntimeChannelLeave, okIf_next] at h
  obtain ⟨-, rfl⟩ := h
  simp [*]
theorem mem_execGlazeTableFetch {cluster tid : Nat} {crcOk again : Bool} {s : State} {t : State} (h : execGlazeTableFetch cluster tid crcOk again s = .next t) (hw : MemWf s) : MemWf t := by
  simp only [execGlazeTableFetch, okIf_next] at h
  obtain ⟨-, rfl⟩ := h
  repeat' (first | assumption | intro y hy | apply mem_tableFetch | apply mem_hold | apply mem_hostBody | apply mem_takeToken | split | (simp [*]; done))
theorem mem_execMemoryCorrectableError {tier : Nat} {s : State} {t : State} (h : execMemoryCorrectableError tier s = .next t) (hw : MemWf s) : MemWf t := by
  simp only [execMemoryCorrectableError, okIf_next] at h
  obtain ⟨-, rfl⟩ := h
  simp [*]
theorem mem_execFarTierPatrol {hub : Nat} {s : State} {t : State} (h : execFarTierPatrol hub s = .next t) (hw : MemWf s) : MemWf t := by
  simp only [execFarTierPatrol, okIf_next] at h
  obtain ⟨-, rfl⟩ := h
  simp [*]
theorem mem_execHotCacheUncorrectable {cluster slice : Nat} {s : State} {t : State} (h : execHotCacheUncorrectable cluster slice s = .next t) (hw : MemWf s) : MemWf t := by
  simp only [execHotCacheUncorrectable, okIf_next] at h
  obtain ⟨-, rfl⟩ := h
  simp [*]
theorem mem_execFarTierUncorrectable {r : FarRegion} {s : State} {t : State} (h : execFarTierUncorrectable r s = .next t) (hw : MemWf s) : MemWf t := by
  simp only [execFarTierUncorrectable, okIf_next] at h
  obtain ⟨-, rfl⟩ := h
  simp [*]
theorem mem_execMasterCopyReadback {canvas plane : Nat} {crcOk : Bool} {s : State} {t : State} (h : execMasterCopyReadback canvas plane crcOk s = .next t) (hw : MemWf s) : MemWf t := by
  simp only [execMasterCopyReadback, okIf_next] at h
  obtain ⟨-, rfl⟩ := h
  simp [*]
theorem mem_execPoisonRepair {index : Nat} {s : State} {t : State} (h : execPoisonRepair index s = .next t) (hw : MemWf s) : MemWf t := by
  simp only [execPoisonRepair, okIf_next] at h
  obtain ⟨-, rfl⟩ := h
  simp [*]
theorem mem_execSubmit {h : Hdr} {b : SubmitBody} {s : State} {t : State} (h : execSubmit h b s = .next t) (hw : MemWf s) : MemWf t := by
  simp only [execSubmit, hostCmd, okIf_next] at h
  obtain ⟨-, rfl⟩ := h
  repeat' (first | assumption | intro y hy | apply mem_openParts | apply mem_submitDecide | apply mem_hold | apply mem_hostBody | apply mem_takeToken | split | (simp [*]; done))
theorem mem_execContinue {h : Hdr} {b : SubmitBody} {s : State} {t : State} (h : execContinue h b s = .next t) (hw : MemWf s) : MemWf t := by
  simp only [execContinue, hostCmd, okIf_next] at h
  obtain ⟨-, rfl⟩ := h
  repeat' (first | assumption | intro y hy | apply mem_openParts | apply mem_continueCmd | apply mem_hold | apply mem_hostBody | apply mem_takeToken | split | (simp [*]; done))
theorem mem_execPrompt {h : Hdr} {words : List Nat} {maskBytes : List Byte} {last : Bool} {s : State} {t : State} (h : execPrompt h words maskBytes last s = .next t) (hw : MemWf s) : MemWf t := by
  simp only [execPrompt, okIf_next] at h
  obtain ⟨-, rfl⟩ := h
  repeat' (first | assumption | intro y hy | apply mem_hostBody | apply mem_promptOp | apply mem_hold | apply mem_takeToken | split | (simp [*]; done))
theorem mem_execCommandPartTimeout {ptn queue : Nat} {s : State} {t : State} (h : execCommandPartTimeout ptn queue s = .next t) (hw : MemWf s) : MemWf t := by
  simp only [execCommandPartTimeout, okIf_next] at h
  obtain ⟨-, rfl⟩ := h
  split <;> simp [*]
theorem mem_execCancel {h : Hdr} {s : State} {t : State} (h : execCancel h s = .next t) (hw : MemWf s) : MemWf t := by
  simp only [execCancel, hostCmd, okIf_next] at h
  obtain ⟨-, rfl⟩ := h
  repeat' (first | assumption | intro y hy | apply mem_cancelOp | apply mem_hold | apply mem_hostBody | apply mem_takeToken | split | (simp [*]; done))
theorem mem_execPause {h : Hdr} {s : State} {t : State} (h : execPause h s = .next t) (hw : MemWf s) : MemWf t := by
  simp only [execPause, hostCmd, okIf_next] at h
  obtain ⟨-, rfl⟩ := h
  repeat' (first | assumption | intro y hy | apply mem_pauseOp | apply mem_hold | apply mem_hostBody | apply mem_takeToken | split | (simp [*]; done))
theorem mem_execResume {h : Hdr} {s : State} {t : State} (h : execResume h s = .next t) (hw : MemWf s) : MemWf t := by
  simp only [execResume, hostCmd, okIf_next] at h
  obtain ⟨-, rfl⟩ := h
  repeat' (first | assumption | intro y hy | apply mem_resumeCmd | apply mem_hold | apply mem_hostBody | apply mem_takeToken | split | (simp [*]; done))
theorem mem_execDiscard {h : Hdr} {s : State} {t : State} (h : execDiscard h s = .next t) (hw : MemWf s) : MemWf t := by
  simp only [execDiscard, hostCmd, okIf_next] at h
  obtain ⟨-, rfl⟩ := h
  repeat' (first | assumption | intro y hy | apply mem_discardOp | apply mem_hold | apply mem_hostBody | apply mem_takeToken | split | (simp [*]; done))
theorem mem_execExport {h : Hdr} {release : Bool} {peer : Nat} {s : State} {t : State} (h : execExport h release peer s = .next t) (hw : MemWf s) : MemWf t := by
  simp only [execExport, hostCmd, okIf_next] at h
  obtain ⟨-, rfl⟩ := h
  repeat' (first | assumption | intro y hy | apply mem_exportOp | apply mem_release | apply mem_hold | apply mem_hostBody | apply mem_takeToken | split | (simp [*]; done))
theorem mem_execExportRelease {index : Nat} {s : State} {t : State} (h : execExportRelease index s = .next t) (hw : MemWf s) : MemWf t := by
  simp only [execExportRelease, okIf_next] at h
  obtain ⟨-, rfl⟩ := h
  simp [*]
theorem mem_execImport {h : Hdr} {p : Package} {s : State} {t : State} (h : execImport h p s = .next t) (hw : MemWf s) : MemWf t := by
  simp only [execImport, hostCmd, okIf_next] at h
  obtain ⟨-, rfl⟩ := h
  repeat' (first | assumption | intro y hy | apply mem_importOp | apply mem_hold | apply mem_hostBody | apply mem_takeToken | split | (simp [*]; done))
theorem mem_execTintLoad {h : Hdr} {slot : Nat} {rebind whole : Bool} {hash : Nat} {pairs : List TintPair} {s : State} {t : State} (h : execTintLoad h slot rebind whole hash pairs s = .next t) (hw : MemWf s) : MemWf t := by
  simp only [execTintLoad, hostCmd, okIf_next] at h
  obtain ⟨-, rfl⟩ := h
  repeat' (first | assumption | intro y hy | apply mem_reply | apply mem_tintLoadOp | apply mem_hold | apply mem_hostBody | apply mem_takeToken | split | (simp [*]; done))
theorem mem_execTintDelete {h : Hdr} {slot : Nat} {s : State} {t : State} (h : execTintDelete h slot s = .next t) (hw : MemWf s) : MemWf t := by
  simp only [execTintDelete, hostCmd, okIf_next] at h
  obtain ⟨-, rfl⟩ := h
  repeat' (first | assumption | intro y hy | apply mem_reply | apply mem_tintDeleteOp | apply mem_hold | apply mem_hostBody | apply mem_takeToken | split | (simp [*]; done))
theorem mem_execCqRead {h : Hdr} {cq count : Nat} {s : State} {t : State} (h : execCqRead h cq count s = .next t) (hw : MemWf s) : MemWf t := by
  simp only [execCqRead, hostCmd, okIf_next] at h
  obtain ⟨-, rfl⟩ := h
  repeat' (first | assumption | intro y hy | apply mem_reply | apply mem_cqReadOp | apply mem_hold | apply mem_hostBody | apply mem_takeToken | split | (simp [*]; done))
theorem mem_execAdmissionWaitExpiry {index : Nat} {s : State} {t : State} (h : execAdmissionWaitExpiry index s = .next t) (hw : MemWf s) : MemWf t := by
  simp only [execAdmissionWaitExpiry, okIf_next] at h
  obtain ⟨-, rfl⟩ := h
  simp [*]
theorem mem_execDeadlineExpiry {index : Nat} {s : State} {t : State} (h : execDeadlineExpiry index s = .next t) (hw : MemWf s) : MemWf t := by
  simp only [execDeadlineExpiry, okIf_next] at h
  obtain ⟨-, rfl⟩ := h
  simp [*]
theorem mem_execTimeToLiveExpiry {index : Nat} {s : State} {t : State} (h : execTimeToLiveExpiry index s = .next t) (hw : MemWf s) : MemWf t := by
  simp only [execTimeToLiveExpiry, okIf_next] at h
  obtain ⟨-, rfl⟩ := h
  simp [*]
theorem mem_execIdleThresholdExpiry {index : Nat} {s : State} {t : State} (h : execIdleThresholdExpiry index s = .next t) (hw : MemWf s) : MemWf t := by
  simp only [execIdleThresholdExpiry, okIf_next] at h
  obtain ⟨-, rfl⟩ := h
  simp [*]
theorem mem_execPauseMoveComplete {index : Nat} {s : State} {t : State} (h : execPauseMoveComplete index s = .next t) (hw : MemWf s) : MemWf t := by
  simp only [execPauseMoveComplete, okIf_next] at h
  obtain ⟨-, rfl⟩ := h
  simp [*]
theorem mem_execResumeMoveComplete {index : Nat} {s : State} {t : State} (h : execResumeMoveComplete index s = .next t) (hw : MemWf s) : MemWf t := by
  simp only [execResumeMoveComplete, okIf_next] at h
  obtain ⟨-, rfl⟩ := h
  simp [*]
theorem mem_execFrameScrubComplete {ptn frame : Nat} {far : Bool} {s : State} {t : State} (h : execFrameScrubComplete ptn frame far s = .next t) (hw : MemWf s) : MemWf t := by
  simp only [execFrameScrubComplete, okIf_next] at h
  obtain ⟨-, rfl⟩ := h
  simp [*]
theorem mem_execLoadDrainExpiry {canvas : Nat} {s : State} {t : State} (h : execLoadDrainExpiry canvas s = .next t) (hw : MemWf s) : MemWf t := by
  simp only [execLoadDrainExpiry, okIf_next] at h
  obtain ⟨-, rfl⟩ := h
  simp [*]
theorem mem_execLeaseTest {s : State} {t : State} (h : execLeaseTest s = .next t) (hw : MemWf s) : MemWf t := by
  simp only [execLeaseTest, Host.Outcome.next.injEq] at h
  obtain rfl := h
  simp [*]
theorem mem_execGraceExpiry {ses : Nat} {s : State} {t : State} (h : execGraceExpiry ses s = .next t) (hw : MemWf s) : MemWf t := by
  simp only [execGraceExpiry, okIf_next] at h
  obtain ⟨-, rfl⟩ := h
  simp [*]
theorem mem_execTokensSend {index : Nat} {s : State} {t : State} (h : execTokensSend index s = .next t) (hw : MemWf s) : MemWf t := by
  simp only [execTokensSend, okIf_next] at h
  obtain ⟨-, rfl⟩ := h
  simp [*]
theorem mem_execEventCoalesceExpiry {ptn : Nat} {s : State} {t : State} (h : execEventCoalesceExpiry ptn s = .next t) (hw : MemWf s) : MemWf t := by
  simp only [execEventCoalesceExpiry, okIf_next] at h
  obtain ⟨-, rfl⟩ := h
  split <;> simp [*]
theorem mem_execDataSegmentReceive {g : Segment} {s : State} {t : State} (h : execDataSegmentReceive g s = .next t) (hw : MemWf s) : MemWf t := by
  simp only [execDataSegmentReceive, okIf_next] at h
  obtain ⟨-, rfl⟩ := h
  repeat' (first | assumption | intro y hy | apply mem_bufferFill | apply mem_segIn | apply mem_modSes | apply mem_hold | apply mem_hostBody | apply mem_takeToken | split | (simp [*]; done))
theorem mem_execAckReceive {a : AckInfo} {s : State} {t : State} (h : execAckReceive a s = .next t) (hw : MemWf s) : MemWf t := by
  simp only [execAckReceive, okIf_next] at h
  obtain ⟨-, rfl⟩ := h
  repeat' (first | assumption | intro y hy | apply mem_segIn | apply mem_takeAck | apply mem_hold | apply mem_hostBody | apply mem_takeToken | split | (simp [*]; done))
theorem mem_execAckTimer {ses path : Nat} {s : State} {t : State} (h : execAckTimer ses path s = .next t) (hw : MemWf s) : MemWf t := by
  simp only [execAckTimer, okIf_next] at h
  obtain ⟨-, rfl⟩ := h
  split <;> simp [*]
theorem mem_execRetransmitTimeout {ses seq : Nat} {s : State} {t : State} (h : execRetransmitTimeout ses seq s = .next t) (hw : MemWf s) : MemWf t := by
  simp only [execRetransmitTimeout, okIf_next] at h
  obtain ⟨-, rfl⟩ := h
  simp [*]
theorem mem_execHsInit {m : HsInit} {s : State} {t : State} (h : execHsInit m s = .next t) (hw : MemWf s) : MemWf t := by
  simp only [execHsInit, okIf_next] at h
  obtain ⟨-, rfl⟩ := h
  simp [*]
theorem mem_execHsKey {port hsid : Nat} {sigOk : Bool} {secret : Nat} {s : State} {t : State} (h : execHsKey port hsid sigOk secret s = .next t) (hw : MemWf s) : MemWf t := by
  simp only [execHsKey, okIf_next] at h
  obtain ⟨-, rfl⟩ := h
  simp [*]
theorem mem_execHandshakeTimeout {hsid : Nat} {s : State} {t : State} (h : execHandshakeTimeout hsid s = .next t) (hw : MemWf s) : MemWf t := by
  simp only [execHandshakeTimeout, okIf_next] at h
  obtain ⟨-, rfl⟩ := h
  repeat' (first | assumption | intro y hy | apply mem_dropShake | apply mem_hold | apply mem_hostBody | apply mem_takeToken | split | (simp [*]; done))
theorem mem_execProbe {g : Segment} {pnum : Nat} {s : State} {t : State} (h : execProbe g pnum s = .next t) (hw : MemWf s) : MemWf t := by
  simp only [execProbe, okIf_next] at h
  obtain ⟨-, rfl⟩ := h
  repeat' (first | assumption | intro y hy | apply mem_segIn | apply mem_takeProbe | apply mem_hold | apply mem_hostBody | apply mem_takeToken | split | (simp [*]; done))
theorem mem_execProbeAck {g : Segment} {pnum : Nat} {s : State} {t : State} (h : execProbeAck g pnum s = .next t) (hw : MemWf s) : MemWf t := by
  simp only [execProbeAck, okIf_next] at h
  obtain ⟨-, rfl⟩ := h
  repeat' (first | assumption | intro y hy | apply mem_segIn | apply mem_takeProbeAck | apply mem_hold | apply mem_hostBody | apply mem_takeToken | split | (simp [*]; done))
theorem mem_execPathProbeTimer {ses net : Nat} {s : State} {t : State} (h : execPathProbeTimer ses net s = .next t) (hw : MemWf s) : MemWf t := by
  simp only [execPathProbeTimer, okIf_next] at h
  obtain ⟨-, rfl⟩ := h
  simp [*]
theorem mem_execClose {g : Segment} {reason : Nat} {keep : Bool} {s : State} {t : State} (h : execClose g reason keep s = .next t) (hw : MemWf s) : MemWf t := by
  simp only [execClose, okIf_next] at h
  obtain ⟨-, rfl⟩ := h
  repeat' (first | assumption | intro y hy | apply mem_segIn | apply mem_takeClose | apply mem_hold | apply mem_hostBody | apply mem_takeToken | split | (simp [*]; done))
theorem mem_execPortLinkLoss {port : Nat} {s : State} {t : State} (h : execPortLinkLoss port s = .next t) (hw : MemWf s) : MemWf t := by
  simp only [execPortLinkLoss, okIf_next] at h
  obtain ⟨-, rfl⟩ := h
  simp [*]
theorem mem_execNonfenceFaultDetect {unit level cause : Nat} {s : State} {t : State} (h : execNonfenceFaultDetect unit level cause s = .next t) (hw : MemWf s) : MemWf t := by
  simp only [execNonfenceFaultDetect, okIf_next] at h
  obtain ⟨-, rfl⟩ := h
  simp [*]
theorem mem_execPortLinkUp {port : Nat} {s : State} {t : State} (h : execPortLinkUp port s = .next t) (hw : MemWf s) : MemWf t := by
  simp only [execPortLinkUp, okIf_next] at h
  obtain ⟨-, rfl⟩ := h
  split <;> simp [*]
theorem mem_execAnnounceTimer {port : Nat} {s : State} {t : State} (h : execAnnounceTimer port s = .next t) (hw : MemWf s) : MemWf t := by
  simp only [execAnnounceTimer, okIf_next] at h
  obtain ⟨-, rfl⟩ := h
  simp [*]
theorem mem_execSolicit {port : Nat} {s : State} {t : State} (h : execSolicit port s = .next t) (hw : MemWf s) : MemWf t := by
  simp only [execSolicit, okIf_next] at h
  obtain ⟨-, rfl⟩ := h
  simp [*]
theorem mem_execLldpTimer {port : Nat} {s : State} {t : State} (h : execLldpTimer port s = .next t) (hw : MemWf s) : MemWf t := by
  simp only [execLldpTimer, okIf_next] at h
  obtain ⟨-, rfl⟩ := h
  simp [*]
theorem mem_execLldpReceive {port chassis portid : Nat} {s : State} {t : State} (h : execLldpReceive port chassis portid s = .next t) (hw : MemWf s) : MemWf t := by
  simp only [execLldpReceive, okIf_next] at h
  obtain ⟨-, rfl⟩ := h
  simp [*]
theorem mem_execPfcPauseReceive {port prio quanta : Nat} {s : State} {t : State} (h : execPfcPauseReceive port prio quanta s = .next t) (hw : MemWf s) : MemWf t := by
  simp only [execPfcPauseReceive, okIf_next] at h
  obtain ⟨-, rfl⟩ := h
  simp [*]
theorem mem_execPfcReceiveBufferDrain {port percent : Nat} {s : State} {t : State} (h : execPfcReceiveBufferDrain port percent s = .next t) (hw : MemWf s) : MemWf t := by
  simp only [execPfcReceiveBufferDrain, okIf_next] at h
  obtain ⟨-, rfl⟩ := h
  simp [*]
theorem mem_execMkaFrameReceive {port : Nat} {up : Bool} {s : State} {t : State} (h : execMkaFrameReceive port up s = .next t) (hw : MemWf s) : MemWf t := by
  simp only [execMkaFrameReceive, okIf_next] at h
  obtain ⟨-, rfl⟩ := h
  split <;> simp [*]
theorem mem_execIpv6NeighbourDiscovery {port : Nat} {solicitation : Bool} {prefix_ : Nat} {plen : Nat} {s : State} {t : State} (h : execIpv6NeighbourDiscovery port solicitation prefix_ plen s = .next t) (hw : MemWf s) : MemWf t := by
  simp only [execIpv6NeighbourDiscovery, okIf_next] at h
  obtain ⟨-, rfl⟩ := h
  simp [*]
theorem mem_execFwStage {h : Hdr} {cls imgCls svn : Nat} {sigOk raise : Bool} {rlo rhi wr meas : Nat} {s : State} {t : State} (h : execFwStage h cls imgCls svn sigOk raise rlo rhi wr meas s = .next t) (hw : MemWf s) : MemWf t := by
  simp only [execFwStage, hostCmdSafe, okIf_next] at h
  obtain ⟨-, rfl⟩ := h
  repeat' (first | assumption | intro y hy | apply mem_fwStageOp | apply mem_raise | apply mem_hold | apply mem_hostBody | apply mem_takeToken | split | (simp [*]; done))
theorem mem_execFwUpdate {h : Hdr} {cls : Nat} {s : State} {t : State} (h : execFwUpdate h cls s = .next t) (hw : MemWf s) : MemWf t := by
  simp only [execFwUpdate, hostCmd, okIf_next] at h
  obtain ⟨-, rfl⟩ := h
  repeat' (first | assumption | intro y hy | apply mem_fwUpdateOp | apply mem_reply | apply mem_hold | apply mem_hostBody | apply mem_takeToken | split | (simp [*]; done))
theorem mem_execFwProvisionalEnd {s : State} {t : State} (h : execFwProvisionalEnd s = .next t) (hw : MemWf s) : MemWf t := by
  simp only [execFwProvisionalEnd, Host.Outcome.next.injEq] at h
  obtain rfl := h
  simp [*]
theorem mem_execFwRevert {s : State} {t : State} (h : execFwRevert s = .next t) (hw : MemWf s) : MemWf t := by
  simp only [execFwRevert, Host.Outcome.next.injEq] at h
  obtain rfl := h
  simp [*]
theorem mem_execFwFloor {h : Hdr} {cls : Nat} {s : State} {t : State} (h : execFwFloor h cls s = .next t) (hw : MemWf s) : MemWf t := by
  simp only [execFwFloor, hostCmd, okIf_next] at h
  obtain ⟨-, rfl⟩ := h
  repeat' (first | assumption | intro y hy | apply mem_replyOutcome | apply mem_modFw | apply mem_reply | apply mem_hold | apply mem_hostBody | apply mem_takeToken | split | (simp [*]; done))
theorem mem_execFwActivate {h : Hdr} {cls : Nat} {s : State} {t : State} (h : execFwActivate h cls s = .next t) (hw : MemWf s) : MemWf t := by
  simp only [execFwActivate, hostCmdSafe, okIf_next] at h
  obtain ⟨-, rfl⟩ := h
  repeat' (first | assumption | intro y hy | apply mem_fwActivateOp | apply mem_reply | apply mem_hold | apply mem_hostBody | apply mem_takeToken | split | (simp [*]; done))
theorem mem_execFirmwareWatchdog {cls unit : Nat} {s : State} {t : State} (h : execFirmwareWatchdog cls unit s = .next t) (hw : MemWf s) : MemWf t := by
  simp only [execFirmwareWatchdog, okIf_next] at h
  obtain ⟨-, rfl⟩ := h
  simp [*]
theorem mem_execClaim {h : Hdr} {key : Nat} {s : State} {t : State} (h : execClaim h key s = .next t) (hw : MemWf s) : MemWf t := by
  simp only [execClaim, hostCmd, okIf_next] at h
  obtain ⟨-, rfl⟩ := h
  repeat' (first | assumption | intro y hy | apply mem_claimOp | apply mem_hold | apply mem_hostBody | apply mem_takeToken | split | (simp [*]; done))
theorem mem_execOwnerRotate {h : Hdr} {key : Nat} {sigOk : Bool} {s : State} {t : State} (h : execOwnerRotate h key sigOk s = .next t) (hw : MemWf s) : MemWf t := by
  simp only [execOwnerRotate, hostCmd, okIf_next] at h
  obtain ⟨-, rfl⟩ := h
  repeat' (first | assumption | intro y hy | apply mem_ownerRotateOp | apply mem_hold | apply mem_hostBody | apply mem_takeToken | split | (simp [*]; done))
theorem mem_execRelease {h : Hdr} {sigOk : Bool} {s : State} {t : State} (h : execRelease h sigOk s = .next t) (hw : MemWf s) : MemWf t := by
  simp only [execRelease, okIf_next] at h
  obtain ⟨-, rfl⟩ := h
  repeat' (first | assumption | intro y hy | apply mem_hostBody | apply mem_releaseOp | apply mem_hold | apply mem_takeToken | split | (simp [*]; done))
theorem mem_execKeyRotate {h : Hdr} {s : State} {t : State} (h : execKeyRotate h s = .next t) (hw : MemWf s) : MemWf t := by
  simp only [execKeyRotate, hostCmd, okIf_next] at h
  obtain ⟨-, rfl⟩ := h
  repeat' (first | assumption | intro y hy | apply mem_keyRotateOp | apply mem_hold | apply mem_hostBody | apply mem_takeToken | split | (simp [*]; done))
theorem mem_execCfgWrite {h : Hdr} {sigOk : Bool} {svn : Nat} {owner : List Nat} {s : State} {t : State} (h : execCfgWrite h sigOk svn owner s = .next t) (hw : MemWf s) : MemWf t := by
  simp only [execCfgWrite, hostCmd, okIf_next] at h
  obtain ⟨-, rfl⟩ := h
  repeat' (first | assumption | intro y hy | apply mem_cfgWriteOp | apply mem_hold | apply mem_hostBody | apply mem_takeToken | split | (simp [*]; done))
theorem mem_execCfgResolve {h : Hdr} {copy : Nat} {copyOk : Bool} {s : State} {t : State} (h : execCfgResolve h copy copyOk s = .next t) (hw : MemWf s) : MemWf t := by
  simp only [execCfgResolve, hostCmdSafe, okIf_next] at h
  obtain ⟨-, rfl⟩ := h
  repeat' (first | assumption | intro y hy | apply mem_cfgResolveOp | apply mem_hold | apply mem_hostBody | apply mem_takeToken | split | (simp [*]; done))
theorem mem_execAttest {h : Hdr} {nonce : Nat} {s : State} {t : State} (h : execAttest h nonce s = .next t) (hw : MemWf s) : MemWf t := by
  simp only [execAttest, okIf_next] at h
  obtain ⟨-, rfl⟩ := h
  repeat' (first | assumption | intro y hy | apply mem_hostBody | apply mem_attestOp | apply mem_hold | apply mem_takeToken | split | (simp [*]; done))
theorem mem_execRecordWrite {s : State} {t : State} (h : execRecordWrite s = .next t) (hw : MemWf s) : MemWf t := by
  simp only [execRecordWrite, Host.Outcome.next.injEq] at h
  obtain rfl := h
  simp [*]
theorem mem_execRecorderCommit {s : State} {t : State} (h : execRecorderCommit s = .next t) (hw : MemWf s) : MemWf t := by
  simp only [execRecorderCommit, Host.Outcome.next.injEq] at h
  obtain rfl := h
  simp [*]
theorem mem_execRecorderClearEnd {s : State} {t : State} (h : execRecorderClearEnd s = .next t) (hw : MemWf s) : MemWf t := by
  simp only [execRecorderClearEnd, Host.Outcome.next.injEq] at h
  obtain rfl := h
  simp [*]
theorem mem_execHoldNAssert {s : State} {t : State} (h : execHoldNAssert s = .next t) (hw : MemWf s) : MemWf t := by
  simp only [execHoldNAssert, Host.Outcome.next.injEq] at h
  obtain rfl := h
  simp [*]
theorem mem_execHoldNRelease {s : State} {t : State} (h : execHoldNRelease s = .next t) (hw : MemWf s) : MemWf t := by
  simp only [execHoldNRelease, Host.Outcome.next.injEq] at h
  obtain rfl := h
  simp [*]
theorem mem_execHoldQuiesceTimeout {s : State} {t : State} (h : execHoldQuiesceTimeout s = .next t) (hw : MemWf s) : MemWf t := by
  simp only [execHoldQuiesceTimeout, Host.Outcome.next.injEq] at h
  obtain rfl := h
  simp [*]
theorem mem_execPwrwarnNAssert {s : State} {t : State} (h : execPwrwarnNAssert s = .next t) (hw : MemWf s) : MemWf t := by
  simp only [execPwrwarnNAssert, Host.Outcome.next.injEq] at h
  obtain rfl := h
  repeat' (first | assumption | intro y hy | apply mem_fire | apply mem_warnOn | apply mem_hold | apply mem_hostBody | apply mem_takeToken | split | (simp [*]; done))
theorem mem_execPwrwarnNRelease {s : State} {t : State} (h : execPwrwarnNRelease s = .next t) (hw : MemWf s) : MemWf t := by
  simp only [execPwrwarnNRelease, Host.Outcome.next.injEq] at h
  obtain rfl := h
  repeat' (first | assumption | intro y hy | apply mem_warnOff | apply mem_hold | apply mem_hostBody | apply mem_takeToken | split | (simp [*]; done))
theorem mem_execInputOvervoltage {mv : Nat} {s : State} {t : State} (h : execInputOvervoltage mv s = .next t) (hw : MemWf s) : MemWf t := by
  simp only [execInputOvervoltage, Host.Outcome.next.injEq] at h
  obtain rfl := h
  simp [*]
theorem mem_execInputStageDisconnect {mv : Nat} {s : State} {t : State} (h : execInputStageDisconnect mv s = .next t) (hw : MemWf s) : MemWf t := by
  simp only [execInputStageDisconnect, Host.Outcome.next.injEq] at h
  obtain rfl := h
  simp [*]
theorem mem_execInputReconnect {mv : Nat} {s : State} {t : State} (h : execInputReconnect mv s = .next t) (hw : MemWf s) : MemWf t := by
  simp only [execInputReconnect, Host.Outcome.next.injEq] at h
  obtain rfl := h
  simp [*]
theorem mem_execInputUndervoltage {mv : Nat} {s : State} {t : State} (h : execInputUndervoltage mv s = .next t) (hw : MemWf s) : MemWf t := by
  simp only [execInputUndervoltage, Host.Outcome.next.injEq] at h
  obtain rfl := h
  simp [*]
theorem mem_execInputUvRelease {mv : Nat} {s : State} {t : State} (h : execInputUvRelease mv s = .next t) (hw : MemWf s) : MemWf t := by
  simp only [execInputUvRelease, Host.Outcome.next.injEq] at h
  obtain rfl := h
  repeat' (first | assumption | intro y hy | apply mem_seeInput | apply mem_warnOff | apply mem_hold | apply mem_hostBody | apply mem_takeToken | split | (simp [*]; done))
theorem mem_execInputLockout {mv : Nat} {s : State} {t : State} (h : execInputLockout mv s = .next t) (hw : MemWf s) : MemWf t := by
  simp only [execInputLockout, Host.Outcome.next.injEq] at h
  obtain rfl := h
  simp [*]
theorem mem_execInputApplied {mv : Nat} {s : State} {t : State} (h : execInputApplied mv s = .next t) (hw : MemWf s) : MemWf t := by
  simp only [execInputApplied, Host.Outcome.next.injEq] at h
  obtain rfl := h
  split <;> simp [*]
theorem mem_execModuleRemoval {s : State} {t : State} (h : execModuleRemoval s = .next t) (hw : MemWf s) : MemWf t := by
  simp only [execModuleRemoval, Host.Outcome.next.injEq] at h
  obtain rfl := h
  split <;> simp [*]
theorem mem_execStandbyReadingRefresh {mv ma10 : Nat} {board : List (Int × Bool)} {s : State} {t : State} (h : execStandbyReadingRefresh mv ma10 board s = .next t) (hw : MemWf s) : MemWf t := by
  simp only [execStandbyReadingRefresh, okIf_next] at h
  obtain ⟨-, rfl⟩ := h
  simp [*]
theorem mem_execThermalComparatorTrip {unit : Nat} {s : State} {t : State} (h : execThermalComparatorTrip unit s = .next t) (hw : MemWf s) : MemWf t := by
  simp only [execThermalComparatorTrip, okIf_next] at h
  obtain ⟨-, rfl⟩ := h
  split <;> simp [*]
theorem mem_execDroopDetect {cluster : Nat} {mv : Nat} {s : State} {t : State} (h : execDroopDetect cluster mv s = .next t) (hw : MemWf s) : MemWf t := by
  simp only [execDroopDetect, okIf_next] at h
  obtain ⟨-, rfl⟩ := h
  simp [*]
theorem mem_execStretchEnd {cluster : Nat} {cycles : Nat} {s : State} {t : State} (h : execStretchEnd cluster cycles s = .next t) (hw : MemWf s) : MemWf t := by
  simp only [execStretchEnd, okIf_next] at h
  obtain ⟨-, rfl⟩ := h
  simp [*]
theorem mem_execPeakLimit {watts : Nat} {s : State} {t : State} (h : execPeakLimit watts s = .next t) (hw : MemWf s) : MemWf t := by
  simp only [execPeakLimit, Host.Outcome.next.injEq] at h
  obtain rfl := h
  split <;> simp [*]
theorem mem_execHousekeepingChannel {ch : Nat} {value : Int} {valid : Bool} {s : State} {t : State} (h : execHousekeepingChannel ch value valid s = .next t) (hw : MemWf s) : MemWf t := by
  simp only [execHousekeepingChannel, okIf_next] at h
  obtain ⟨-, rfl⟩ := h
  simp [*]
theorem mem_execHousekeepingRoundEnd {watts pump : Nat} {s : State} {t : State} (h : execHousekeepingRoundEnd watts pump s = .next t) (hw : MemWf s) : MemWf t := by
  simp only [execHousekeepingRoundEnd, Host.Outcome.next.injEq] at h
  obtain rfl := h
  simp [*]
theorem mem_execRegRead {h : Hdr} {addr count : Nat} {s : State} {t : State} (h : execRegRead h addr count s = .next t) (hw : MemWf s) : MemWf t := by
  simp only [execRegRead, okIf_next] at h
  obtain ⟨-, rfl⟩ := h
  repeat' (first | assumption | intro y hy | apply mem_hostBody | apply mem_regReadOp | apply mem_hold | apply mem_takeToken | split | (simp [*]; done))
theorem mem_execRegWrite {h : Hdr} {addr count : Nat} {values : List Word} {s : State} {t : State} (h : execRegWrite h addr count values s = .next t) (hw : MemWf s) : MemWf t := by
  simp only [execRegWrite, okIf_next] at h
  obtain ⟨-, rfl⟩ := h
  repeat' (first | assumption | intro y hy | apply mem_hostBody | apply mem_regWriteOp | apply mem_hold | apply mem_takeToken | split | (simp [*]; done))
theorem mem_execCalCmdAll {path : Path} {v : Word} {s : State} {t : State} (h : execCalCmdAll path v s = .next t) (hw : MemWf s) : MemWf t := by
  simp only [execCalCmdAll, Host.Outcome.next.injEq] at h
  obtain rfl := h
  simp [*]
theorem mem_execClear {path : Path} {v : Word} {s : State} {t : State} (h : execClear path v s = .next t) (hw : MemWf s) : MemWf t := by
  simp only [execClear, Host.Outcome.next.injEq] at h
  obtain rfl := h
  simp [*]
theorem mem_execSwtrig {path : Path} {v : Word} {s : State} {t : State} (h : execSwtrig path v s = .next t) (hw : MemWf s) : MemWf t := by
  simp only [execSwtrig, Host.Outcome.next.injEq] at h
  obtain rfl := h
  simp [*]
theorem mem_execHoldReq {path : Path} {v : Word} {s : State} {t : State} (h : execHoldReq path v s = .next t) (hw : MemWf s) : MemWf t := by
  simp only [execHoldReq, Host.Outcome.next.injEq] at h
  obtain rfl := h
  simp [*]
theorem mem_execPlim {path : Path} {v : Word} {s : State} {t : State} (h : execPlim path v s = .next t) (hw : MemWf s) : MemWf t := by
  simp only [execPlim, Host.Outcome.next.injEq] at h
  obtain rfl := h
  simp [*]
theorem mem_execPtnEnable {path : Path} {n : Nat} {v : Word} {s : State} {t : State} (h : execPtnEnable path n v s = .next t) (hw : MemWf s) : MemWf t := by
  simp only [execPtnEnable, Host.Outcome.next.injEq] at h
  obtain rfl := h
  simp [*]
theorem mem_execCnvEnable {path : Path} {c : Nat} {v : Word} {s : State} {t : State} (h : execCnvEnable path c v s = .next t) (hw : MemWf s) : MemWf t := by
  simp only [execCnvEnable, Host.Outcome.next.injEq] at h
  obtain rfl := h
  simp [*]
theorem mem_execSketchEn {path : Path} {c : Nat} {v : Word} {s : State} {t : State} (h : execSketchEn path c v s = .next t) (hw : MemWf s) : MemWf t := by
  simp only [execSketchEn, Host.Outcome.next.injEq] at h
  obtain rfl := h
  simp [*]
theorem mem_execAuditEn {path : Path} {v : Word} {s : State} {t : State} (h : execAuditEn path v s = .next t) (hw : MemWf s) : MemWf t := by
  simp only [execAuditEn, Host.Outcome.next.injEq] at h
  obtain rfl := h
  simp [*]
theorem mem_execQuery {path : Path} {v : Word} {s : State} {t : State} (h : execQuery path v s = .next t) (hw : MemWf s) : MemWf t := by
  simp only [execQuery, Host.Outcome.next.injEq] at h
  obtain rfl := h
  simp [*]
theorem mem_execRegisterWrite {path : Path} {addr : Nat} {v : Word} {s : State} {t : State} (h : execRegisterWrite path addr v s = .next t) (hw : MemWf s) : MemWf t := by
  simp only [execRegisterWrite, Host.Outcome.next.injEq] at h
  obtain rfl := h
  simp [*]
theorem mem_execAddr {pecOk : Bool} {a : Word} {s : State} {t : State} (h : execAddr pecOk a s = .next t) (hw : MemWf s) : MemWf t := by
  simp only [execAddr, Host.Outcome.next.injEq] at h
  obtain rfl := h
  repeat' (first | assumption | intro y hy | apply mem_sbReg | apply mem_sbAnswer | apply mem_hold | apply mem_hostBody | apply mem_takeToken | split | (simp [*]; done))
theorem mem_execRead {pecOk : Bool} {n : Nat} {s : State} {t : State} (h : execRead pecOk n s = .next t) (hw : MemWf s) : MemWf t := by
  simp only [execRead, okIf_next] at h
  obtain ⟨-, rfl⟩ := h
  repeat' (first | assumption | intro y hy | apply mem_sbReg | apply mem_sbRead | apply mem_hold | apply mem_hostBody | apply mem_takeToken | split | (simp [*]; done))
theorem mem_execWrite {pecOk : Bool} {vs : List Word} {s : State} {t : State} (h : execWrite pecOk vs s = .next t) (hw : MemWf s) : MemWf t := by
  simp only [execWrite, Host.Outcome.next.injEq] at h
  obtain rfl := h
  repeat' (first | assumption | intro y hy | apply mem_sbReg | apply mem_sbWrite | apply mem_hold | apply mem_hostBody | apply mem_takeToken | split | (simp [*]; done))
theorem mem_execStatus {pecOk : Bool} {s : State} {t : State} (h : execStatus pecOk s = .next t) (hw : MemWf s) : MemWf t := by
  simp only [execStatus, Host.Outcome.next.injEq] at h
  obtain rfl := h
  repeat' (first | assumption | intro y hy | apply mem_sbReg | apply mem_sbAnswer | apply mem_hold | apply mem_hostBody | apply mem_takeToken | split | (simp [*]; done))
theorem mem_execRcvStatus {pecOk : Bool} {s : State} {t : State} (h : execRcvStatus pecOk s = .next t) (hw : MemWf s) : MemWf t := by
  simp only [execRcvStatus, Host.Outcome.next.injEq] at h
  obtain rfl := h
  repeat' (first | assumption | intro y hy | apply mem_sbRcv | apply mem_sbAnswer | apply mem_hold | apply mem_hostBody | apply mem_takeToken | split | (simp [*]; done))
theorem mem_execRcvData {pecOk : Bool} {bytes : List Byte} {s : State} {t : State} (h : execRcvData pecOk bytes s = .next t) (hw : MemWf s) : MemWf t := by
  simp only [execRcvData, Host.Outcome.next.injEq] at h
  obtain rfl := h
  repeat' (first | assumption | intro y hy | apply mem_sbRcv | apply mem_rcvTake | apply mem_hold | apply mem_hostBody | apply mem_takeToken | split | (simp [*]; done))
theorem mem_execRcvDone {pecOk : Bool} {byte : Byte} {imageOk : Bool} {s : State} {t : State} (h : execRcvDone pecOk byte imageOk s = .next t) (hw : MemWf s) : MemWf t := by
  simp only [execRcvDone, Host.Outcome.next.injEq] at h
  obtain rfl := h
  repeat' (first | assumption | intro y hy | apply mem_sbRcv | apply mem_rcvFinish | apply mem_hold | apply mem_hostBody | apply mem_takeToken | split | (simp [*]; done))
theorem mem_execEntdaa {a : Nat} {s : State} {t : State} (h : execEntdaa a s = .next t) (hw : MemWf s) : MemWf t := by
  simp only [execEntdaa, okIf_next] at h
  obtain ⟨-, rfl⟩ := h
  simp [*]
theorem mem_execSetdasa {static_ dyn : Nat} {s : State} {t : State} (h : execSetdasa static_ dyn s = .next t) (hw : MemWf s) : MemWf t := by
  simp only [execSetdasa, okIf_next] at h
  obtain ⟨-, rfl⟩ := h
  simp [*]
theorem mem_execEnec {bits : Nat} {s : State} {t : State} (h : execEnec bits s = .next t) (hw : MemWf s) : MemWf t := by
  simp only [execEnec, okIf_next] at h
  obtain ⟨-, rfl⟩ := h
  simp [*]
theorem mem_execSmbusClockLowTimeout {ms : Nat} {s : State} {t : State} (h : execSmbusClockLowTimeout ms s = .next t) (hw : MemWf s) : MemWf t := by
  simp only [execSmbusClockLowTimeout, Host.Outcome.next.injEq] at h
  obtain rfl := h
  simp [*]
theorem mem_execTapInstructionLoad {tap : Nat} {op : Nat} {s : State} {t : State} (h : execTapInstructionLoad tap op s = .next t) (hw : MemWf s) : MemWf t := by
  simp only [execTapInstructionLoad, okIf_next] at h
  obtain ⟨-, rfl⟩ := h
  simp [*]
theorem mem_execTrstNAssert {s : State} {t : State} (h : execTrstNAssert s = .next t) (hw : MemWf s) : MemWf t := by
  simp only [execTrstNAssert, Host.Outcome.next.injEq] at h
  obtain rfl := h
  simp [*]
theorem mem_execPwrEnAssert {s : State} {t : State} (h : execPwrEnAssert s = .next t) (hw : MemWf s) : MemWf t := by
  simp only [execPwrEnAssert, Host.Outcome.next.injEq] at h
  obtain rfl := h
  simp [*]
theorem mem_execPowerGood {ok : Bool} {s : State} {t : State} (h : execPowerGood ok s = .next t) (hw : MemWf s) : MemWf t := by
  simp only [execPowerGood, Host.Outcome.next.injEq] at h
  obtain rfl := h
  repeat' (first | assumption | intro y hy | apply mem_setEvents | apply mem_hold | apply mem_hostBody | apply mem_takeToken | split | (simp [*]; done))
theorem mem_execResetNAssert {long : Bool} {s : State} {t : State} (h : execResetNAssert long s = .next t) (hw : MemWf s) : MemWf t := by
  simp only [execResetNAssert, Host.Outcome.next.injEq] at h
  obtain rfl := h
  simp [*]
theorem mem_execResetNRelease {straps : Nat} {s : State} {t : State} (h : execResetNRelease straps s = .next t) (hw : MemWf s) : MemWf t := by
  simp only [execResetNRelease, okIf_next] at h
  obtain ⟨-, rfl⟩ := h
  split <;> simp [*]
theorem mem_execCfgResolveReset {s : State} {t : State} (h : execCfgResolveReset s = .next t) (hw : MemWf s) : MemWf t := by
  simp only [execCfgResolveReset, Host.Outcome.next.injEq] at h
  obtain rfl := h
  repeat' (first | with_reducible (first | assumption | intro t x ht | intro t ht | apply mem_toRow | apply mem_resetModule | apply mem_hold | apply mem_hostBody | apply mem_takeToken | apply memWf_foldl | apply wf_foldl | apply wf_wrBytes | apply wf_wrByte | apply wf_wrWord | apply wf_wrHalf | apply wf_wrPair | apply wf_zeroRange | apply wf_obPut |  apply wf_setAb | (fail_if_no_progress refine memWf_same rfl rfl ?_)) | split |  dsimp only | constructor | with_reducible (first | apply MemWf.ib | apply MemWf.ob | apply MemWf.ab | apply MemWf.rx | apply MemWf.sram | apply MemWf.near | apply MemWf.sbuf) | (simp [*]; done))
theorem mem_execSecurityBoot {f : BootFind} {s : State} {t : State} (h : execSecurityBoot f s = .next t) (hw : MemWf s) : MemWf t := by
  simp only [execSecurityBoot, okIf_next] at h
  obtain ⟨-, rfl⟩ := h
  simp [*]
theorem mem_execSelfTest {fails : List TestFail} {kept regionOk : Bool} {s : State} {t : State} (h : execSelfTest fails kept regionOk s = .next t) (hw : MemWf s) : MemWf t := by
  simp only [execSelfTest, okIf_next] at h
  obtain ⟨-, rfl⟩ := h
  repeat' (first | with_reducible (first | assumption | intro t x ht | intro t ht | apply mem_checksDone | apply mem_toRow | apply mem_testEnd | apply mem_hold | apply mem_hostBody | apply mem_takeToken | apply memWf_foldl | apply wf_foldl | apply wf_wrBytes | apply wf_wrByte | apply wf_wrWord | apply wf_wrHalf | apply wf_wrPair | apply wf_zeroRange | apply wf_obPut |  apply wf_setAb | (fail_if_no_progress refine memWf_same rfl rfl ?_)) | split |  dsimp only | constructor | with_reducible (first | apply MemWf.ib | apply MemWf.ob | apply MemWf.ab | apply MemWf.rx | apply MemWf.sram | apply MemWf.near | apply MemWf.sbuf) | (simp [*]; done))
theorem mem_execRetentionCheck {canvas : Nat} {recOk crcOk : Bool} {gains : List (Nat × Word × Word)} {offsets : List (Nat × Int)} {s : State} {t : State} (h : execRetentionCheck canvas recOk crcOk gains offsets s = .next t) (hw : MemWf s) : MemWf t := by
  simp only [execRetentionCheck, okIf_next] at h
  obtain ⟨-, rfl⟩ := h
  simp [*]
theorem mem_execCalibrationGapClose {s : State} {t : State} (h : execCalibrationGapClose s = .next t) (hw : MemWf s) : MemWf t := by
  simp only [execCalibrationGapClose, Host.Outcome.next.injEq] at h
  obtain rfl := h
  split <;> simp [*]
theorem mem_execReadyEntry {s : State} {t : State} (h : execReadyEntry s = .next t) (hw : MemWf s) : MemWf t := by
  simp only [execReadyEntry, Host.Outcome.next.injEq] at h
  obtain rfl := h
  simp [*]
theorem mem_execPwrEnDeassert {s : State} {t : State} (h : execPwrEnDeassert s = .next t) (hw : MemWf s) : MemWf t := by
  simp only [execPwrEnDeassert, Host.Outcome.next.injEq] at h
  obtain rfl := h
  simp [*]
theorem mem_execShutdownComplete {s : State} {t : State} (h : execShutdownComplete s = .next t) (hw : MemWf s) : MemWf t := by
  simp only [execShutdownComplete, Host.Outcome.next.injEq] at h
  obtain rfl := h
  simp [*]

end Sys2Proof.Machine
end

