-- ==== Sys2Proof/Laws/State.lean ====
section
/-! SUPPORT. The named updates of the state, field by field: what each leaves alone, and what an accessor reads after it. -/

namespace Sys2Proof.Machine

/-! ## `modCnv` -/

@[simp] theorem modCnv_clk (c : Nat) (f : Canvas → Canvas) (s : State) : (modCnv c f s).clk = s.clk := rfl
@[simp] theorem modCnv_arr (c : Nat) (f : Canvas → Canvas) (s : State) : (modCnv c f s).arr = s.arr := rfl
@[simp] theorem modCnv_core (c : Nat) (f : Canvas → Canvas) (s : State) : (modCnv c f s).core = s.core := rfl
@[simp] theorem modCnv_glz (c : Nat) (f : Canvas → Canvas) (s : State) : (modCnv c f s).glz = s.glz := rfl
@[simp] theorem modCnv_seq (c : Nat) (f : Canvas → Canvas) (s : State) : (modCnv c f s).seq = s.seq := rfl
@[simp] theorem modCnv_sch (c : Nat) (f : Canvas → Canvas) (s : State) : (modCnv c f s).sch = s.sch := rfl
@[simp] theorem modCnv_kv (c : Nat) (f : Canvas → Canvas) (s : State) : (modCnv c f s).kv = s.kv := rfl
@[simp] theorem modCnv_head (c : Nat) (f : Canvas → Canvas) (s : State) : (modCnv c f s).head = s.head := rfl
@[simp] theorem modCnv_req (c : Nat) (f : Canvas → Canvas) (s : State) : (modCnv c f s).req = s.req := rfl
@[simp] theorem modCnv_ptn (c : Nat) (f : Canvas → Canvas) (s : State) : (modCnv c f s).ptn = s.ptn := rfl
@[simp] theorem modCnv_net (c : Nat) (f : Canvas → Canvas) (s : State) : (modCnv c f s).net = s.net := rfl
@[simp] theorem modCnv_hist (c : Nat) (f : Canvas → Canvas) (s : State) : (modCnv c f s).hist = s.hist := rfl
@[simp] theorem modCnv_cal (c : Nat) (f : Canvas → Canvas) (s : State) : (modCnv c f s).cal = s.cal := rfl
@[simp] theorem modCnv_sec (c : Nat) (f : Canvas → Canvas) (s : State) : (modCnv c f s).sec = s.sec := rfl
@[simp] theorem modCnv_pwr (c : Nat) (f : Canvas → Canvas) (s : State) : (modCnv c f s).pwr = s.pwr := rfl
@[simp] theorem modCnv_evr (c : Nat) (f : Canvas → Canvas) (s : State) : (modCnv c f s).evr = s.evr := rfl
@[simp] theorem modCnv_brd (c : Nat) (f : Canvas → Canvas) (s : State) : (modCnv c f s).brd = s.brd := rfl
@[simp] theorem modCnv_dev (c : Nat) (f : Canvas → Canvas) (s : State) : (modCnv c f s).dev = s.dev := rfl
@[simp] theorem modCnv_free (c : Nat) (f : Canvas → Canvas) (s : State) : (modCnv c f s).free = s.free := rfl
@[simp] theorem modCnv_pending (c : Nat) (f : Canvas → Canvas) (s : State) : (modCnv c f s).pending = s.pending := rfl
@[simp] theorem ptnOf_modCnv (c : Nat) (f : Canvas → Canvas) (s : State) (k : Nat) : ptnOf (modCnv c f s) k = ptnOf s k := rfl
@[simp] theorem portOf_modCnv (c : Nat) (f : Canvas → Canvas) (s : State) (k : Nat) : portOf (modCnv c f s) k = portOf s k := rfl
@[simp] theorem sesOf_modCnv (c : Nat) (f : Canvas → Canvas) (s : State) (k : Nat) : sesOf (modCnv c f s) k = sesOf s k := rfl
@[simp] theorem entryOf_modCnv (c : Nat) (f : Canvas → Canvas) (s : State) (k : Nat) : entryOf (modCnv c f s) k = entryOf s k := rfl
@[simp] theorem seqOf_modCnv (c : Nat) (f : Canvas → Canvas) (s : State) (k : Nat) : seqOf (modCnv c f s) k = seqOf s k := rfl
@[simp] theorem calOf_modCnv (c : Nat) (f : Canvas → Canvas) (s : State) (k : Nat) : calOf (modCnv c f s) k = calOf s k := rfl
@[simp] theorem roleOf_modCnv (c : Nat) (f : Canvas → Canvas) (s : State) (k : Nat) : roleOf (modCnv c f s) k = roleOf s k := rfl

/-! ## `modPtn` -/

@[simp] theorem modPtn_clk (n : Nat) (f : Ptn → Ptn) (s : State) : (modPtn n f s).clk = s.clk := rfl
@[simp] theorem modPtn_arr (n : Nat) (f : Ptn → Ptn) (s : State) : (modPtn n f s).arr = s.arr := rfl
@[simp] theorem modPtn_core (n : Nat) (f : Ptn → Ptn) (s : State) : (modPtn n f s).core = s.core := rfl
@[simp] theorem modPtn_glz (n : Nat) (f : Ptn → Ptn) (s : State) : (modPtn n f s).glz = s.glz := rfl
@[simp] theorem modPtn_seq (n : Nat) (f : Ptn → Ptn) (s : State) : (modPtn n f s).seq = s.seq := rfl
@[simp] theorem modPtn_sch (n : Nat) (f : Ptn → Ptn) (s : State) : (modPtn n f s).sch = s.sch := rfl
@[simp] theorem modPtn_kv (n : Nat) (f : Ptn → Ptn) (s : State) : (modPtn n f s).kv = s.kv := rfl
@[simp] theorem modPtn_head (n : Nat) (f : Ptn → Ptn) (s : State) : (modPtn n f s).head = s.head := rfl
@[simp] theorem modPtn_req (n : Nat) (f : Ptn → Ptn) (s : State) : (modPtn n f s).req = s.req := rfl
@[simp] theorem modPtn_cnv (n : Nat) (f : Ptn → Ptn) (s : State) : (modPtn n f s).cnv = s.cnv := rfl
@[simp] theorem modPtn_net (n : Nat) (f : Ptn → Ptn) (s : State) : (modPtn n f s).net = s.net := rfl
@[simp] theorem modPtn_hist (n : Nat) (f : Ptn → Ptn) (s : State) : (modPtn n f s).hist = s.hist := rfl
@[simp] theorem modPtn_cal (n : Nat) (f : Ptn → Ptn) (s : State) : (modPtn n f s).cal = s.cal := rfl
@[simp] theorem modPtn_sec (n : Nat) (f : Ptn → Ptn) (s : State) : (modPtn n f s).sec = s.sec := rfl
@[simp] theorem modPtn_pwr (n : Nat) (f : Ptn → Ptn) (s : State) : (modPtn n f s).pwr = s.pwr := rfl
@[simp] theorem modPtn_evr (n : Nat) (f : Ptn → Ptn) (s : State) : (modPtn n f s).evr = s.evr := rfl
@[simp] theorem modPtn_brd (n : Nat) (f : Ptn → Ptn) (s : State) : (modPtn n f s).brd = s.brd := rfl
@[simp] theorem modPtn_dev (n : Nat) (f : Ptn → Ptn) (s : State) : (modPtn n f s).dev = s.dev := rfl
@[simp] theorem modPtn_free (n : Nat) (f : Ptn → Ptn) (s : State) : (modPtn n f s).free = s.free := rfl
@[simp] theorem modPtn_pending (n : Nat) (f : Ptn → Ptn) (s : State) : (modPtn n f s).pending = s.pending := rfl
@[simp] theorem cnvOf_modPtn (n : Nat) (f : Ptn → Ptn) (s : State) (k : Nat) : cnvOf (modPtn n f s) k = cnvOf s k := rfl
@[simp] theorem portOf_modPtn (n : Nat) (f : Ptn → Ptn) (s : State) (k : Nat) : portOf (modPtn n f s) k = portOf s k := rfl
@[simp] theorem sesOf_modPtn (n : Nat) (f : Ptn → Ptn) (s : State) (k : Nat) : sesOf (modPtn n f s) k = sesOf s k := rfl
@[simp] theorem entryOf_modPtn (n : Nat) (f : Ptn → Ptn) (s : State) (k : Nat) : entryOf (modPtn n f s) k = entryOf s k := rfl
@[simp] theorem seqOf_modPtn (n : Nat) (f : Ptn → Ptn) (s : State) (k : Nat) : seqOf (modPtn n f s) k = seqOf s k := rfl
@[simp] theorem calOf_modPtn (n : Nat) (f : Ptn → Ptn) (s : State) (k : Nat) : calOf (modPtn n f s) k = calOf s k := rfl
@[simp] theorem roleOf_modPtn (n : Nat) (f : Ptn → Ptn) (s : State) (k : Nat) : roleOf (modPtn n f s) k = roleOf s k := rfl

/-! ## `modPort` -/

@[simp] theorem modPort_clk (n : Nat) (f : Port → Port) (s : State) : (modPort n f s).clk = s.clk := rfl
@[simp] theorem modPort_arr (n : Nat) (f : Port → Port) (s : State) : (modPort n f s).arr = s.arr := rfl
@[simp] theorem modPort_core (n : Nat) (f : Port → Port) (s : State) : (modPort n f s).core = s.core := rfl
@[simp] theorem modPort_glz (n : Nat) (f : Port → Port) (s : State) : (modPort n f s).glz = s.glz := rfl
@[simp] theorem modPort_seq (n : Nat) (f : Port → Port) (s : State) : (modPort n f s).seq = s.seq := rfl
@[simp] theorem modPort_sch (n : Nat) (f : Port → Port) (s : State) : (modPort n f s).sch = s.sch := rfl
@[simp] theorem modPort_kv (n : Nat) (f : Port → Port) (s : State) : (modPort n f s).kv = s.kv := rfl
@[simp] theorem modPort_head (n : Nat) (f : Port → Port) (s : State) : (modPort n f s).head = s.head := rfl
@[simp] theorem modPort_req (n : Nat) (f : Port → Port) (s : State) : (modPort n f s).req = s.req := rfl
@[simp] theorem modPort_cnv (n : Nat) (f : Port → Port) (s : State) : (modPort n f s).cnv = s.cnv := rfl
@[simp] theorem modPort_ptn (n : Nat) (f : Port → Port) (s : State) : (modPort n f s).ptn = s.ptn := rfl
@[simp] theorem modPort_hist (n : Nat) (f : Port → Port) (s : State) : (modPort n f s).hist = s.hist := rfl
@[simp] theorem modPort_cal (n : Nat) (f : Port → Port) (s : State) : (modPort n f s).cal = s.cal := rfl
@[simp] theorem modPort_sec (n : Nat) (f : Port → Port) (s : State) : (modPort n f s).sec = s.sec := rfl
@[simp] theorem modPort_pwr (n : Nat) (f : Port → Port) (s : State) : (modPort n f s).pwr = s.pwr := rfl
@[simp] theorem modPort_evr (n : Nat) (f : Port → Port) (s : State) : (modPort n f s).evr = s.evr := rfl
@[simp] theorem modPort_brd (n : Nat) (f : Port → Port) (s : State) : (modPort n f s).brd = s.brd := rfl
@[simp] theorem modPort_dev (n : Nat) (f : Port → Port) (s : State) : (modPort n f s).dev = s.dev := rfl
@[simp] theorem modPort_free (n : Nat) (f : Port → Port) (s : State) : (modPort n f s).free = s.free := rfl
@[simp] theorem modPort_pending (n : Nat) (f : Port → Port) (s : State) : (modPort n f s).pending = s.pending := rfl
@[simp] theorem cnvOf_modPort (n : Nat) (f : Port → Port) (s : State) (k : Nat) : cnvOf (modPort n f s) k = cnvOf s k := rfl
@[simp] theorem ptnOf_modPort (n : Nat) (f : Port → Port) (s : State) (k : Nat) : ptnOf (modPort n f s) k = ptnOf s k := rfl
@[simp] theorem sesOf_modPort (n : Nat) (f : Port → Port) (s : State) (k : Nat) : sesOf (modPort n f s) k = sesOf s k := rfl
@[simp] theorem entryOf_modPort (n : Nat) (f : Port → Port) (s : State) (k : Nat) : entryOf (modPort n f s) k = entryOf s k := rfl
@[simp] theorem seqOf_modPort (n : Nat) (f : Port → Port) (s : State) (k : Nat) : seqOf (modPort n f s) k = seqOf s k := rfl
@[simp] theorem calOf_modPort (n : Nat) (f : Port → Port) (s : State) (k : Nat) : calOf (modPort n f s) k = calOf s k := rfl
@[simp] theorem roleOf_modPort (n : Nat) (f : Port → Port) (s : State) (k : Nat) : roleOf (modPort n f s) k = roleOf s k := rfl

/-! ## `modSes` -/

@[simp] theorem modSes_clk (k : Nat) (f : Ses → Ses) (s : State) : (modSes k f s).clk = s.clk := rfl
@[simp] theorem modSes_arr (k : Nat) (f : Ses → Ses) (s : State) : (modSes k f s).arr = s.arr := rfl
@[simp] theorem modSes_core (k : Nat) (f : Ses → Ses) (s : State) : (modSes k f s).core = s.core := rfl
@[simp] theorem modSes_glz (k : Nat) (f : Ses → Ses) (s : State) : (modSes k f s).glz = s.glz := rfl
@[simp] theorem modSes_seq (k : Nat) (f : Ses → Ses) (s : State) : (modSes k f s).seq = s.seq := rfl
@[simp] theorem modSes_sch (k : Nat) (f : Ses → Ses) (s : State) : (modSes k f s).sch = s.sch := rfl
@[simp] theorem modSes_kv (k : Nat) (f : Ses → Ses) (s : State) : (modSes k f s).kv = s.kv := rfl
@[simp] theorem modSes_head (k : Nat) (f : Ses → Ses) (s : State) : (modSes k f s).head = s.head := rfl
@[simp] theorem modSes_req (k : Nat) (f : Ses → Ses) (s : State) : (modSes k f s).req = s.req := rfl
@[simp] theorem modSes_cnv (k : Nat) (f : Ses → Ses) (s : State) : (modSes k f s).cnv = s.cnv := rfl
@[simp] theorem modSes_ptn (k : Nat) (f : Ses → Ses) (s : State) : (modSes k f s).ptn = s.ptn := rfl
@[simp] theorem modSes_hist (k : Nat) (f : Ses → Ses) (s : State) : (modSes k f s).hist = s.hist := rfl
@[simp] theorem modSes_cal (k : Nat) (f : Ses → Ses) (s : State) : (modSes k f s).cal = s.cal := rfl
@[simp] theorem modSes_sec (k : Nat) (f : Ses → Ses) (s : State) : (modSes k f s).sec = s.sec := rfl
@[simp] theorem modSes_pwr (k : Nat) (f : Ses → Ses) (s : State) : (modSes k f s).pwr = s.pwr := rfl
@[simp] theorem modSes_evr (k : Nat) (f : Ses → Ses) (s : State) : (modSes k f s).evr = s.evr := rfl
@[simp] theorem modSes_brd (k : Nat) (f : Ses → Ses) (s : State) : (modSes k f s).brd = s.brd := rfl
@[simp] theorem modSes_dev (k : Nat) (f : Ses → Ses) (s : State) : (modSes k f s).dev = s.dev := rfl
@[simp] theorem modSes_free (k : Nat) (f : Ses → Ses) (s : State) : (modSes k f s).free = s.free := rfl
@[simp] theorem modSes_pending (k : Nat) (f : Ses → Ses) (s : State) : (modSes k f s).pending = s.pending := rfl
@[simp] theorem cnvOf_modSes (k0 : Nat) (f : Ses → Ses) (s : State) (k : Nat) : cnvOf (modSes k0 f s) k = cnvOf s k := rfl
@[simp] theorem ptnOf_modSes (k0 : Nat) (f : Ses → Ses) (s : State) (k : Nat) : ptnOf (modSes k0 f s) k = ptnOf s k := rfl
@[simp] theorem portOf_modSes (k0 : Nat) (f : Ses → Ses) (s : State) (k : Nat) : portOf (modSes k0 f s) k = portOf s k := rfl
@[simp] theorem entryOf_modSes (k0 : Nat) (f : Ses → Ses) (s : State) (k : Nat) : entryOf (modSes k0 f s) k = entryOf s k := rfl
@[simp] theorem seqOf_modSes (k0 : Nat) (f : Ses → Ses) (s : State) (k : Nat) : seqOf (modSes k0 f s) k = seqOf s k := rfl
@[simp] theorem calOf_modSes (k0 : Nat) (f : Ses → Ses) (s : State) (k : Nat) : calOf (modSes k0 f s) k = calOf s k := rfl
@[simp] theorem roleOf_modSes (k0 : Nat) (f : Ses → Ses) (s : State) (k : Nat) : roleOf (modSes k0 f s) k = roleOf s k := rfl

/-! ## `modEntry` -/

@[simp] theorem modEntry_clk (ix : Nat) (f : Entry → Entry) (s : State) : (modEntry ix f s).clk = s.clk := rfl
@[simp] theorem modEntry_arr (ix : Nat) (f : Entry → Entry) (s : State) : (modEntry ix f s).arr = s.arr := rfl
@[simp] theorem modEntry_core (ix : Nat) (f : Entry → Entry) (s : State) : (modEntry ix f s).core = s.core := rfl
@[simp] theorem modEntry_glz (ix : Nat) (f : Entry → Entry) (s : State) : (modEntry ix f s).glz = s.glz := rfl
@[simp] theorem modEntry_seq (ix : Nat) (f : Entry → Entry) (s : State) : (modEntry ix f s).seq = s.seq := rfl
@[simp] theorem modEntry_sch (ix : Nat) (f : Entry → Entry) (s : State) : (modEntry ix f s).sch = s.sch := rfl
@[simp] theorem modEntry_kv (ix : Nat) (f : Entry → Entry) (s : State) : (modEntry ix f s).kv = s.kv := rfl
@[simp] theorem modEntry_head (ix : Nat) (f : Entry → Entry) (s : State) : (modEntry ix f s).head = s.head := rfl
@[simp] theorem modEntry_cnv (ix : Nat) (f : Entry → Entry) (s : State) : (modEntry ix f s).cnv = s.cnv := rfl
@[simp] theorem modEntry_ptn (ix : Nat) (f : Entry → Entry) (s : State) : (modEntry ix f s).ptn = s.ptn := rfl
@[simp] theorem modEntry_net (ix : Nat) (f : Entry → Entry) (s : State) : (modEntry ix f s).net = s.net := rfl
@[simp] theorem modEntry_hist (ix : Nat) (f : Entry → Entry) (s : State) : (modEntry ix f s).hist = s.hist := rfl
@[simp] theorem modEntry_cal (ix : Nat) (f : Entry → Entry) (s : State) : (modEntry ix f s).cal = s.cal := rfl
@[simp] theorem modEntry_sec (ix : Nat) (f : Entry → Entry) (s : State) : (modEntry ix f s).sec = s.sec := rfl
@[simp] theorem modEntry_pwr (ix : Nat) (f : Entry → Entry) (s : State) : (modEntry ix f s).pwr = s.pwr := rfl
@[simp] theorem modEntry_evr (ix : Nat) (f : Entry → Entry) (s : State) : (modEntry ix f s).evr = s.evr := rfl
@[simp] theorem modEntry_brd (ix : Nat) (f : Entry → Entry) (s : State) : (modEntry ix f s).brd = s.brd := rfl
@[simp] theorem modEntry_dev (ix : Nat) (f : Entry → Entry) (s : State) : (modEntry ix f s).dev = s.dev := rfl
@[simp] theorem modEntry_free (ix : Nat) (f : Entry → Entry) (s : State) : (modEntry ix f s).free = s.free := rfl
@[simp] theorem modEntry_pending (ix : Nat) (f : Entry → Entry) (s : State) : (modEntry ix f s).pending = s.pending := rfl
@[simp] theorem cnvOf_modEntry (ix : Nat) (f : Entry → Entry) (s : State) (k : Nat) : cnvOf (modEntry ix f s) k = cnvOf s k := rfl
@[simp] theorem ptnOf_modEntry (ix : Nat) (f : Entry → Entry) (s : State) (k : Nat) : ptnOf (modEntry ix f s) k = ptnOf s k := rfl
@[simp] theorem portOf_modEntry (ix : Nat) (f : Entry → Entry) (s : State) (k : Nat) : portOf (modEntry ix f s) k = portOf s k := rfl
@[simp] theorem sesOf_modEntry (ix : Nat) (f : Entry → Entry) (s : State) (k : Nat) : sesOf (modEntry ix f s) k = sesOf s k := rfl
@[simp] theorem seqOf_modEntry (ix : Nat) (f : Entry → Entry) (s : State) (k : Nat) : seqOf (modEntry ix f s) k = seqOf s k := rfl
@[simp] theorem calOf_modEntry (ix : Nat) (f : Entry → Entry) (s : State) (k : Nat) : calOf (modEntry ix f s) k = calOf s k := rfl
@[simp] theorem roleOf_modEntry (ix : Nat) (f : Entry → Entry) (s : State) (k : Nat) : roleOf (modEntry ix f s) k = roleOf s k := rfl

/-! ## `modSeq` -/

@[simp] theorem modSeq_clk (sid : Nat) (f : Seq → Seq) (s : State) : (modSeq sid f s).clk = s.clk := rfl
@[simp] theorem modSeq_arr (sid : Nat) (f : Seq → Seq) (s : State) : (modSeq sid f s).arr = s.arr := rfl
@[simp] theorem modSeq_core (sid : Nat) (f : Seq → Seq) (s : State) : (modSeq sid f s).core = s.core := rfl
@[simp] theorem modSeq_glz (sid : Nat) (f : Seq → Seq) (s : State) : (modSeq sid f s).glz = s.glz := rfl
@[simp] theorem modSeq_sch (sid : Nat) (f : Seq → Seq) (s : State) : (modSeq sid f s).sch = s.sch := rfl
@[simp] theorem modSeq_kv (sid : Nat) (f : Seq → Seq) (s : State) : (modSeq sid f s).kv = s.kv := rfl
@[simp] theorem modSeq_head (sid : Nat) (f : Seq → Seq) (s : State) : (modSeq sid f s).head = s.head := rfl
@[simp] theorem modSeq_req (sid : Nat) (f : Seq → Seq) (s : State) : (modSeq sid f s).req = s.req := rfl
@[simp] theorem modSeq_cnv (sid : Nat) (f : Seq → Seq) (s : State) : (modSeq sid f s).cnv = s.cnv := rfl
@[simp] theorem modSeq_ptn (sid : Nat) (f : Seq → Seq) (s : State) : (modSeq sid f s).ptn = s.ptn := rfl
@[simp] theorem modSeq_net (sid : Nat) (f : Seq → Seq) (s : State) : (modSeq sid f s).net = s.net := rfl
@[simp] theorem modSeq_hist (sid : Nat) (f : Seq → Seq) (s : State) : (modSeq sid f s).hist = s.hist := rfl
@[simp] theorem modSeq_cal (sid : Nat) (f : Seq → Seq) (s : State) : (modSeq sid f s).cal = s.cal := rfl
@[simp] theorem modSeq_sec (sid : Nat) (f : Seq → Seq) (s : State) : (modSeq sid f s).sec = s.sec := rfl
@[simp] theorem modSeq_pwr (sid : Nat) (f : Seq → Seq) (s : State) : (modSeq sid f s).pwr = s.pwr := rfl
@[simp] theorem modSeq_evr (sid : Nat) (f : Seq → Seq) (s : State) : (modSeq sid f s).evr = s.evr := rfl
@[simp] theorem modSeq_brd (sid : Nat) (f : Seq → Seq) (s : State) : (modSeq sid f s).brd = s.brd := rfl
@[simp] theorem modSeq_dev (sid : Nat) (f : Seq → Seq) (s : State) : (modSeq sid f s).dev = s.dev := rfl
@[simp] theorem modSeq_free (sid : Nat) (f : Seq → Seq) (s : State) : (modSeq sid f s).free = s.free := rfl
@[simp] theorem modSeq_pending (sid : Nat) (f : Seq → Seq) (s : State) : (modSeq sid f s).pending = s.pending := rfl
@[simp] theorem cnvOf_modSeq (sid : Nat) (f : Seq → Seq) (s : State) (k : Nat) : cnvOf (modSeq sid f s) k = cnvOf s k := rfl
@[simp] theorem ptnOf_modSeq (sid : Nat) (f : Seq → Seq) (s : State) (k : Nat) : ptnOf (modSeq sid f s) k = ptnOf s k := rfl
@[simp] theorem portOf_modSeq (sid : Nat) (f : Seq → Seq) (s : State) (k : Nat) : portOf (modSeq sid f s) k = portOf s k := rfl
@[simp] theorem sesOf_modSeq (sid : Nat) (f : Seq → Seq) (s : State) (k : Nat) : sesOf (modSeq sid f s) k = sesOf s k := rfl
@[simp] theorem entryOf_modSeq (sid : Nat) (f : Seq → Seq) (s : State) (k : Nat) : entryOf (modSeq sid f s) k = entryOf s k := rfl
@[simp] theorem calOf_modSeq (sid : Nat) (f : Seq → Seq) (s : State) (k : Nat) : calOf (modSeq sid f s) k = calOf s k := rfl
@[simp] theorem roleOf_modSeq (sid : Nat) (f : Seq → Seq) (s : State) (k : Nat) : roleOf (modSeq sid f s) k = roleOf s k := rfl

/-! ## `modCal` -/

@[simp] theorem modCal_clk (cl : Nat) (f : CalCl → CalCl) (s : State) : (modCal cl f s).clk = s.clk := rfl
@[simp] theorem modCal_arr (cl : Nat) (f : CalCl → CalCl) (s : State) : (modCal cl f s).arr = s.arr := rfl
@[simp] theorem modCal_core (cl : Nat) (f : CalCl → CalCl) (s : State) : (modCal cl f s).core = s.core := rfl
@[simp] theorem modCal_glz (cl : Nat) (f : CalCl → CalCl) (s : State) : (modCal cl f s).glz = s.glz := rfl
@[simp] theorem modCal_seq (cl : Nat) (f : CalCl → CalCl) (s : State) : (modCal cl f s).seq = s.seq := rfl
@[simp] theorem modCal_sch (cl : Nat) (f : CalCl → CalCl) (s : State) : (modCal cl f s).sch = s.sch := rfl
@[simp] theorem modCal_kv (cl : Nat) (f : CalCl → CalCl) (s : State) : (modCal cl f s).kv = s.kv := rfl
@[simp] theorem modCal_head (cl : Nat) (f : CalCl → CalCl) (s : State) : (modCal cl f s).head = s.head := rfl
@[simp] theorem modCal_req (cl : Nat) (f : CalCl → CalCl) (s : State) : (modCal cl f s).req = s.req := rfl
@[simp] theorem modCal_cnv (cl : Nat) (f : CalCl → CalCl) (s : State) : (modCal cl f s).cnv = s.cnv := rfl
@[simp] theorem modCal_ptn (cl : Nat) (f : CalCl → CalCl) (s : State) : (modCal cl f s).ptn = s.ptn := rfl
@[simp] theorem modCal_net (cl : Nat) (f : CalCl → CalCl) (s : State) : (modCal cl f s).net = s.net := rfl
@[simp] theorem modCal_hist (cl : Nat) (f : CalCl → CalCl) (s : State) : (modCal cl f s).hist = s.hist := rfl
@[simp] theorem modCal_sec (cl : Nat) (f : CalCl → CalCl) (s : State) : (modCal cl f s).sec = s.sec := rfl
@[simp] theorem modCal_pwr (cl : Nat) (f : CalCl → CalCl) (s : State) : (modCal cl f s).pwr = s.pwr := rfl
@[simp] theorem modCal_evr (cl : Nat) (f : CalCl → CalCl) (s : State) : (modCal cl f s).evr = s.evr := rfl
@[simp] theorem modCal_brd (cl : Nat) (f : CalCl → CalCl) (s : State) : (modCal cl f s).brd = s.brd := rfl
@[simp] theorem modCal_dev (cl : Nat) (f : CalCl → CalCl) (s : State) : (modCal cl f s).dev = s.dev := rfl
@[simp] theorem modCal_free (cl : Nat) (f : CalCl → CalCl) (s : State) : (modCal cl f s).free = s.free := rfl
@[simp] theorem modCal_pending (cl : Nat) (f : CalCl → CalCl) (s : State) : (modCal cl f s).pending = s.pending := rfl
@[simp] theorem cnvOf_modCal (cl : Nat) (f : CalCl → CalCl) (s : State) (k : Nat) : cnvOf (modCal cl f s) k = cnvOf s k := rfl
@[simp] theorem ptnOf_modCal (cl : Nat) (f : CalCl → CalCl) (s : State) (k : Nat) : ptnOf (modCal cl f s) k = ptnOf s k := rfl
@[simp] theorem portOf_modCal (cl : Nat) (f : CalCl → CalCl) (s : State) (k : Nat) : portOf (modCal cl f s) k = portOf s k := rfl
@[simp] theorem sesOf_modCal (cl : Nat) (f : CalCl → CalCl) (s : State) (k : Nat) : sesOf (modCal cl f s) k = sesOf s k := rfl
@[simp] theorem entryOf_modCal (cl : Nat) (f : CalCl → CalCl) (s : State) (k : Nat) : entryOf (modCal cl f s) k = entryOf s k := rfl
@[simp] theorem seqOf_modCal (cl : Nat) (f : CalCl → CalCl) (s : State) (k : Nat) : seqOf (modCal cl f s) k = seqOf s k := rfl
@[simp] theorem roleOf_modCal (cl : Nat) (f : CalCl → CalCl) (s : State) (k : Nat) : roleOf (modCal cl f s) k = roleOf s k := rfl

/-! ## `setRole` -/

@[simp] theorem setRole_clk (core pos st : Nat) (s : State) : (setRole core pos st s).clk = s.clk := rfl
@[simp] theorem setRole_arr (core pos st : Nat) (s : State) : (setRole core pos st s).arr = s.arr := rfl
@[simp] theorem setRole_core (core pos st : Nat) (s : State) : (setRole core pos st s).core = s.core := rfl
@[simp] theorem setRole_glz (core pos st : Nat) (s : State) : (setRole core pos st s).glz = s.glz := rfl
@[simp] theorem setRole_seq (core pos st : Nat) (s : State) : (setRole core pos st s).seq = s.seq := rfl
@[simp] theorem setRole_sch (core pos st : Nat) (s : State) : (setRole core pos st s).sch = s.sch := rfl
@[simp] theorem setRole_kv (core pos st : Nat) (s : State) : (setRole core pos st s).kv = s.kv := rfl
@[simp] theorem setRole_head (core pos st : Nat) (s : State) : (setRole core pos st s).head = s.head := rfl
@[simp] theorem setRole_req (core pos st : Nat) (s : State) : (setRole core pos st s).req = s.req := rfl
@[simp] theorem setRole_cnv (core pos st : Nat) (s : State) : (setRole core pos st s).cnv = s.cnv := rfl
@[simp] theorem setRole_ptn (core pos st : Nat) (s : State) : (setRole core pos st s).ptn = s.ptn := rfl
@[simp] theorem setRole_net (core pos st : Nat) (s : State) : (setRole core pos st s).net = s.net := rfl
@[simp] theorem setRole_cal (core pos st : Nat) (s : State) : (setRole core pos st s).cal = s.cal := rfl
@[simp] theorem setRole_sec (core pos st : Nat) (s : State) : (setRole core pos st s).sec = s.sec := rfl
@[simp] theorem setRole_pwr (core pos st : Nat) (s : State) : (setRole core pos st s).pwr = s.pwr := rfl
@[simp] theorem setRole_evr (core pos st : Nat) (s : State) : (setRole core pos st s).evr = s.evr := rfl
@[simp] theorem setRole_brd (core pos st : Nat) (s : State) : (setRole core pos st s).brd = s.brd := rfl
@[simp] theorem setRole_dev (core pos st : Nat) (s : State) : (setRole core pos st s).dev = s.dev := rfl
@[simp] theorem setRole_free (core pos st : Nat) (s : State) : (setRole core pos st s).free = s.free := rfl
@[simp] theorem setRole_pending (core pos st : Nat) (s : State) : (setRole core pos st s).pending = s.pending := rfl
@[simp] theorem cnvOf_setRole (core pos st : Nat) (s : State) (k : Nat) : cnvOf (setRole core pos st s) k = cnvOf s k := rfl
@[simp] theorem ptnOf_setRole (core pos st : Nat) (s : State) (k : Nat) : ptnOf (setRole core pos st s) k = ptnOf s k := rfl
@[simp] theorem portOf_setRole (core pos st : Nat) (s : State) (k : Nat) : portOf (setRole core pos st s) k = portOf s k := rfl
@[simp] theorem sesOf_setRole (core pos st : Nat) (s : State) (k : Nat) : sesOf (setRole core pos st s) k = sesOf s k := rfl
@[simp] theorem entryOf_setRole (core pos st : Nat) (s : State) (k : Nat) : entryOf (setRole core pos st s) k = entryOf s k := rfl
@[simp] theorem seqOf_setRole (core pos st : Nat) (s : State) (k : Nat) : seqOf (setRole core pos st s) k = seqOf s k := rfl
@[simp] theorem calOf_setRole (core pos st : Nat) (s : State) (k : Nat) : calOf (setRole core pos st s) k = calOf s k := rfl

/-! ## `modCur` -/

@[simp] theorem modCur_clk (f : StepRec → StepRec) (s : State) : (modCur f s).clk = s.clk := rfl
@[simp] theorem modCur_arr (f : StepRec → StepRec) (s : State) : (modCur f s).arr = s.arr := rfl
@[simp] theorem modCur_core (f : StepRec → StepRec) (s : State) : (modCur f s).core = s.core := rfl
@[simp] theorem modCur_glz (f : StepRec → StepRec) (s : State) : (modCur f s).glz = s.glz := rfl
@[simp] theorem modCur_seq (f : StepRec → StepRec) (s : State) : (modCur f s).seq = s.seq := rfl
@[simp] theorem modCur_kv (f : StepRec → StepRec) (s : State) : (modCur f s).kv = s.kv := rfl
@[simp] theorem modCur_head (f : StepRec → StepRec) (s : State) : (modCur f s).head = s.head := rfl
@[simp] theorem modCur_req (f : StepRec → StepRec) (s : State) : (modCur f s).req = s.req := rfl
@[simp] theorem modCur_cnv (f : StepRec → StepRec) (s : State) : (modCur f s).cnv = s.cnv := rfl
@[simp] theorem modCur_ptn (f : StepRec → StepRec) (s : State) : (modCur f s).ptn = s.ptn := rfl
@[simp] theorem modCur_net (f : StepRec → StepRec) (s : State) : (modCur f s).net = s.net := rfl
@[simp] theorem modCur_hist (f : StepRec → StepRec) (s : State) : (modCur f s).hist = s.hist := rfl
@[simp] theorem modCur_cal (f : StepRec → StepRec) (s : State) : (modCur f s).cal = s.cal := rfl
@[simp] theorem modCur_sec (f : StepRec → StepRec) (s : State) : (modCur f s).sec = s.sec := rfl
@[simp] theorem modCur_pwr (f : StepRec → StepRec) (s : State) : (modCur f s).pwr = s.pwr := rfl
@[simp] theorem modCur_evr (f : StepRec → StepRec) (s : State) : (modCur f s).evr = s.evr := rfl
@[simp] theorem modCur_brd (f : StepRec → StepRec) (s : State) : (modCur f s).brd = s.brd := rfl
@[simp] theorem modCur_dev (f : StepRec → StepRec) (s : State) : (modCur f s).dev = s.dev := rfl
@[simp] theorem modCur_free (f : StepRec → StepRec) (s : State) : (modCur f s).free = s.free := rfl
@[simp] theorem modCur_pending (f : StepRec → StepRec) (s : State) : (modCur f s).pending = s.pending := rfl
@[simp] theorem cnvOf_modCur (f : StepRec → StepRec) (s : State) (k : Nat) : cnvOf (modCur f s) k = cnvOf s k := rfl
@[simp] theorem ptnOf_modCur (f : StepRec → StepRec) (s : State) (k : Nat) : ptnOf (modCur f s) k = ptnOf s k := rfl
@[simp] theorem portOf_modCur (f : StepRec → StepRec) (s : State) (k : Nat) : portOf (modCur f s) k = portOf s k := rfl
@[simp] theorem sesOf_modCur (f : StepRec → StepRec) (s : State) (k : Nat) : sesOf (modCur f s) k = sesOf s k := rfl
@[simp] theorem entryOf_modCur (f : StepRec → StepRec) (s : State) (k : Nat) : entryOf (modCur f s) k = entryOf s k := rfl
@[simp] theorem seqOf_modCur (f : StepRec → StepRec) (s : State) (k : Nat) : seqOf (modCur f s) k = seqOf s k := rfl
@[simp] theorem calOf_modCur (f : StepRec → StepRec) (s : State) (k : Nat) : calOf (modCur f s) k = calOf s k := rfl
@[simp] theorem roleOf_modCur (f : StepRec → StepRec) (s : State) (k : Nat) : roleOf (modCur f s) k = roleOf s k := rfl

/-! ## `setSpaceMem` -/

@[simp] theorem setSpaceMem_clk (space : Nat) (m : Mem) (s : State) : (setSpaceMem space m s).clk = s.clk := rfl
@[simp] theorem setSpaceMem_arr (space : Nat) (m : Mem) (s : State) : (setSpaceMem space m s).arr = s.arr := rfl
@[simp] theorem setSpaceMem_glz (space : Nat) (m : Mem) (s : State) : (setSpaceMem space m s).glz = s.glz := rfl
@[simp] theorem setSpaceMem_seq (space : Nat) (m : Mem) (s : State) : (setSpaceMem space m s).seq = s.seq := rfl
@[simp] theorem setSpaceMem_sch (space : Nat) (m : Mem) (s : State) : (setSpaceMem space m s).sch = s.sch := rfl
@[simp] theorem setSpaceMem_kv (space : Nat) (m : Mem) (s : State) : (setSpaceMem space m s).kv = s.kv := rfl
@[simp] theorem setSpaceMem_head (space : Nat) (m : Mem) (s : State) : (setSpaceMem space m s).head = s.head := rfl
@[simp] theorem setSpaceMem_req (space : Nat) (m : Mem) (s : State) : (setSpaceMem space m s).req = s.req := rfl
@[simp] theorem setSpaceMem_cnv (space : Nat) (m : Mem) (s : State) : (setSpaceMem space m s).cnv = s.cnv := rfl
@[simp] theorem setSpaceMem_ptn (space : Nat) (m : Mem) (s : State) : (setSpaceMem space m s).ptn = s.ptn := rfl
@[simp] theorem setSpaceMem_net (space : Nat) (m : Mem) (s : State) : (setSpaceMem space m s).net = s.net := rfl
@[simp] theorem setSpaceMem_hist (space : Nat) (m : Mem) (s : State) : (setSpaceMem space m s).hist = s.hist := rfl
@[simp] theorem setSpaceMem_cal (space : Nat) (m : Mem) (s : State) : (setSpaceMem space m s).cal = s.cal := rfl
@[simp] theorem setSpaceMem_sec (space : Nat) (m : Mem) (s : State) : (setSpaceMem space m s).sec = s.sec := rfl
@[simp] theorem setSpaceMem_pwr (space : Nat) (m : Mem) (s : State) : (setSpaceMem space m s).pwr = s.pwr := rfl
@[simp] theorem setSpaceMem_evr (space : Nat) (m : Mem) (s : State) : (setSpaceMem space m s).evr = s.evr := rfl
@[simp] theorem setSpaceMem_brd (space : Nat) (m : Mem) (s : State) : (setSpaceMem space m s).brd = s.brd := rfl
@[simp] theorem setSpaceMem_dev (space : Nat) (m : Mem) (s : State) : (setSpaceMem space m s).dev = s.dev := rfl
@[simp] theorem setSpaceMem_free (space : Nat) (m : Mem) (s : State) : (setSpaceMem space m s).free = s.free := rfl
@[simp] theorem setSpaceMem_pending (space : Nat) (m : Mem) (s : State) : (setSpaceMem space m s).pending = s.pending := rfl
@[simp] theorem cnvOf_setSpaceMem (space : Nat) (m : Mem) (s : State) (k : Nat) : cnvOf (setSpaceMem space m s) k = cnvOf s k := rfl
@[simp] theorem ptnOf_setSpaceMem (space : Nat) (m : Mem) (s : State) (k : Nat) : ptnOf (setSpaceMem space m s) k = ptnOf s k := rfl
@[simp] theorem portOf_setSpaceMem (space : Nat) (m : Mem) (s : State) (k : Nat) : portOf (setSpaceMem space m s) k = portOf s k := rfl
@[simp] theorem sesOf_setSpaceMem (space : Nat) (m : Mem) (s : State) (k : Nat) : sesOf (setSpaceMem space m s) k = sesOf s k := rfl
@[simp] theorem entryOf_setSpaceMem (space : Nat) (m : Mem) (s : State) (k : Nat) : entryOf (setSpaceMem space m s) k = entryOf s k := rfl
@[simp] theorem seqOf_setSpaceMem (space : Nat) (m : Mem) (s : State) (k : Nat) : seqOf (setSpaceMem space m s) k = seqOf s k := rfl
@[simp] theorem calOf_setSpaceMem (space : Nat) (m : Mem) (s : State) (k : Nat) : calOf (setSpaceMem space m s) k = calOf s k := rfl
@[simp] theorem roleOf_setSpaceMem (space : Nat) (m : Mem) (s : State) (k : Nat) : roleOf (setSpaceMem space m s) k = roleOf s k := rfl

/-! ## `setProv` -/

@[simp] theorem setProv_clk (core a : Nat) (ps : List (Nat × Nat × Nat × Nat)) (s : State) : (setProv core a ps s).clk = s.clk := rfl
@[simp] theorem setProv_arr (core a : Nat) (ps : List (Nat × Nat × Nat × Nat)) (s : State) : (setProv core a ps s).arr = s.arr := rfl
@[simp] theorem setProv_glz (core a : Nat) (ps : List (Nat × Nat × Nat × Nat)) (s : State) : (setProv core a ps s).glz = s.glz := rfl
@[simp] theorem setProv_seq (core a : Nat) (ps : List (Nat × Nat × Nat × Nat)) (s : State) : (setProv core a ps s).seq = s.seq := rfl
@[simp] theorem setProv_sch (core a : Nat) (ps : List (Nat × Nat × Nat × Nat)) (s : State) : (setProv core a ps s).sch = s.sch := rfl
@[simp] theorem setProv_kv (core a : Nat) (ps : List (Nat × Nat × Nat × Nat)) (s : State) : (setProv core a ps s).kv = s.kv := rfl
@[simp] theorem setProv_head (core a : Nat) (ps : List (Nat × Nat × Nat × Nat)) (s : State) : (setProv core a ps s).head = s.head := rfl
@[simp] theorem setProv_req (core a : Nat) (ps : List (Nat × Nat × Nat × Nat)) (s : State) : (setProv core a ps s).req = s.req := rfl
@[simp] theorem setProv_cnv (core a : Nat) (ps : List (Nat × Nat × Nat × Nat)) (s : State) : (setProv core a ps s).cnv = s.cnv := rfl
@[simp] theorem setProv_ptn (core a : Nat) (ps : List (Nat × Nat × Nat × Nat)) (s : State) : (setProv core a ps s).ptn = s.ptn := rfl
@[simp] theorem setProv_net (core a : Nat) (ps : List (Nat × Nat × Nat × Nat)) (s : State) : (setProv core a ps s).net = s.net := rfl
@[simp] theorem setProv_hist (core a : Nat) (ps : List (Nat × Nat × Nat × Nat)) (s : State) : (setProv core a ps s).hist = s.hist := rfl
@[simp] theorem setProv_cal (core a : Nat) (ps : List (Nat × Nat × Nat × Nat)) (s : State) : (setProv core a ps s).cal = s.cal := rfl
@[simp] theorem setProv_sec (core a : Nat) (ps : List (Nat × Nat × Nat × Nat)) (s : State) : (setProv core a ps s).sec = s.sec := rfl
@[simp] theorem setProv_pwr (core a : Nat) (ps : List (Nat × Nat × Nat × Nat)) (s : State) : (setProv core a ps s).pwr = s.pwr := rfl
@[simp] theorem setProv_evr (core a : Nat) (ps : List (Nat × Nat × Nat × Nat)) (s : State) : (setProv core a ps s).evr = s.evr := rfl
@[simp] theorem setProv_brd (core a : Nat) (ps : List (Nat × Nat × Nat × Nat)) (s : State) : (setProv core a ps s).brd = s.brd := rfl
@[simp] theorem setProv_dev (core a : Nat) (ps : List (Nat × Nat × Nat × Nat)) (s : State) : (setProv core a ps s).dev = s.dev := rfl
@[simp] theorem setProv_free (core a : Nat) (ps : List (Nat × Nat × Nat × Nat)) (s : State) : (setProv core a ps s).free = s.free := rfl
@[simp] theorem setProv_pending (core a : Nat) (ps : List (Nat × Nat × Nat × Nat)) (s : State) : (setProv core a ps s).pending = s.pending := rfl
@[simp] theorem cnvOf_setProv (core a : Nat) (ps : List (Nat × Nat × Nat × Nat)) (s : State) (k : Nat) : cnvOf (setProv core a ps s) k = cnvOf s k := rfl
@[simp] theorem ptnOf_setProv (core a : Nat) (ps : List (Nat × Nat × Nat × Nat)) (s : State) (k : Nat) : ptnOf (setProv core a ps s) k = ptnOf s k := rfl
@[simp] theorem portOf_setProv (core a : Nat) (ps : List (Nat × Nat × Nat × Nat)) (s : State) (k : Nat) : portOf (setProv core a ps s) k = portOf s k := rfl
@[simp] theorem sesOf_setProv (core a : Nat) (ps : List (Nat × Nat × Nat × Nat)) (s : State) (k : Nat) : sesOf (setProv core a ps s) k = sesOf s k := rfl
@[simp] theorem entryOf_setProv (core a : Nat) (ps : List (Nat × Nat × Nat × Nat)) (s : State) (k : Nat) : entryOf (setProv core a ps s) k = entryOf s k := rfl
@[simp] theorem seqOf_setProv (core a : Nat) (ps : List (Nat × Nat × Nat × Nat)) (s : State) (k : Nat) : seqOf (setProv core a ps s) k = seqOf s k := rfl
@[simp] theorem calOf_setProv (core a : Nat) (ps : List (Nat × Nat × Nat × Nat)) (s : State) (k : Nat) : calOf (setProv core a ps s) k = calOf s k := rfl
@[simp] theorem roleOf_setProv (core a : Nat) (ps : List (Nat × Nat × Nat × Nat)) (s : State) (k : Nat) : roleOf (setProv core a ps s) k = roleOf s k := rfl

/-! ## `abAdd` -/

@[simp] theorem abAdd_clk (core tile : Nat) (ps : List Pair) (s : State) : (abAdd core tile ps s).clk = s.clk := rfl
@[simp] theorem abAdd_arr (core tile : Nat) (ps : List Pair) (s : State) : (abAdd core tile ps s).arr = s.arr := rfl
@[simp] theorem abAdd_glz (core tile : Nat) (ps : List Pair) (s : State) : (abAdd core tile ps s).glz = s.glz := rfl
@[simp] theorem abAdd_seq (core tile : Nat) (ps : List Pair) (s : State) : (abAdd core tile ps s).seq = s.seq := rfl
@[simp] theorem abAdd_sch (core tile : Nat) (ps : List Pair) (s : State) : (abAdd core tile ps s).sch = s.sch := rfl
@[simp] theorem abAdd_kv (core tile : Nat) (ps : List Pair) (s : State) : (abAdd core tile ps s).kv = s.kv := rfl
@[simp] theorem abAdd_head (core tile : Nat) (ps : List Pair) (s : State) : (abAdd core tile ps s).head = s.head := rfl
@[simp] theorem abAdd_req (core tile : Nat) (ps : List Pair) (s : State) : (abAdd core tile ps s).req = s.req := rfl
@[simp] theorem abAdd_cnv (core tile : Nat) (ps : List Pair) (s : State) : (abAdd core tile ps s).cnv = s.cnv := rfl
@[simp] theorem abAdd_ptn (core tile : Nat) (ps : List Pair) (s : State) : (abAdd core tile ps s).ptn = s.ptn := rfl
@[simp] theorem abAdd_net (core tile : Nat) (ps : List Pair) (s : State) : (abAdd core tile ps s).net = s.net := rfl
@[simp] theorem abAdd_hist (core tile : Nat) (ps : List Pair) (s : State) : (abAdd core tile ps s).hist = s.hist := rfl
@[simp] theorem abAdd_cal (core tile : Nat) (ps : List Pair) (s : State) : (abAdd core tile ps s).cal = s.cal := rfl
@[simp] theorem abAdd_sec (core tile : Nat) (ps : List Pair) (s : State) : (abAdd core tile ps s).sec = s.sec := rfl
@[simp] theorem abAdd_pwr (core tile : Nat) (ps : List Pair) (s : State) : (abAdd core tile ps s).pwr = s.pwr := rfl
@[simp] theorem abAdd_evr (core tile : Nat) (ps : List Pair) (s : State) : (abAdd core tile ps s).evr = s.evr := rfl
@[simp] theorem abAdd_brd (core tile : Nat) (ps : List Pair) (s : State) : (abAdd core tile ps s).brd = s.brd := rfl
@[simp] theorem abAdd_dev (core tile : Nat) (ps : List Pair) (s : State) : (abAdd core tile ps s).dev = s.dev := rfl
@[simp] theorem abAdd_free (core tile : Nat) (ps : List Pair) (s : State) : (abAdd core tile ps s).free = s.free := rfl
@[simp] theorem abAdd_pending (core tile : Nat) (ps : List Pair) (s : State) : (abAdd core tile ps s).pending = s.pending := rfl
@[simp] theorem cnvOf_abAdd (core tile : Nat) (ps : List Pair) (s : State) (k : Nat) : cnvOf (abAdd core tile ps s) k = cnvOf s k := rfl
@[simp] theorem ptnOf_abAdd (core tile : Nat) (ps : List Pair) (s : State) (k : Nat) : ptnOf (abAdd core tile ps s) k = ptnOf s k := rfl
@[simp] theorem portOf_abAdd (core tile : Nat) (ps : List Pair) (s : State) (k : Nat) : portOf (abAdd core tile ps s) k = portOf s k := rfl
@[simp] theorem sesOf_abAdd (core tile : Nat) (ps : List Pair) (s : State) (k : Nat) : sesOf (abAdd core tile ps s) k = sesOf s k := rfl
@[simp] theorem entryOf_abAdd (core tile : Nat) (ps : List Pair) (s : State) (k : Nat) : entryOf (abAdd core tile ps s) k = entryOf s k := rfl
@[simp] theorem seqOf_abAdd (core tile : Nat) (ps : List Pair) (s : State) (k : Nat) : seqOf (abAdd core tile ps s) k = seqOf s k := rfl
@[simp] theorem calOf_abAdd (core tile : Nat) (ps : List Pair) (s : State) (k : Nat) : calOf (abAdd core tile ps s) k = calOf s k := rfl
@[simp] theorem roleOf_abAdd (core tile : Nat) (ps : List Pair) (s : State) (k : Nat) : roleOf (abAdd core tile ps s) k = roleOf s k := rfl

/-! ## Reads after updates -/

@[simp] theorem cnvOf_modCnv_same (i : Nat) (f : Canvas → Canvas) (s : State) : cnvOf (modCnv i f s) i = f (cnvOf s i) := tget_tmod_same _ _ _ _
@[simp] theorem cnvOf_modCnv_ne (i j : Nat) (f : Canvas → Canvas) (s : State) (h : j ≠ i) : cnvOf (modCnv i f s) j = cnvOf s j := tget_tmod_ne _ _ _ _ _ h
theorem cnvOf_modCnv (i j : Nat) (f : Canvas → Canvas) (s : State) : cnvOf (modCnv i f s) j = if j = i then f (cnvOf s j) else cnvOf s j := by
  split
  · subst_vars; exact cnvOf_modCnv_same _ _ _
  · exact cnvOf_modCnv_ne _ _ _ _ ‹_›
@[simp] theorem ptnOf_modPtn_same (i : Nat) (f : Ptn → Ptn) (s : State) : ptnOf (modPtn i f s) i = f (ptnOf s i) := tget_tmod_same _ _ _ _
@[simp] theorem ptnOf_modPtn_ne (i j : Nat) (f : Ptn → Ptn) (s : State) (h : j ≠ i) : ptnOf (modPtn i f s) j = ptnOf s j := tget_tmod_ne _ _ _ _ _ h
theorem ptnOf_modPtn (i j : Nat) (f : Ptn → Ptn) (s : State) : ptnOf (modPtn i f s) j = if j = i then f (ptnOf s j) else ptnOf s j := by
  split
  · subst_vars; exact ptnOf_modPtn_same _ _ _
  · exact ptnOf_modPtn_ne _ _ _ _ ‹_›
@[simp] theorem portOf_modPort_same (i : Nat) (f : Port → Port) (s : State) : portOf (modPort i f s) i = f (portOf s i) := tget_tmod_same _ _ _ _
@[simp] theorem portOf_modPort_ne (i j : Nat) (f : Port → Port) (s : State) (h : j ≠ i) : portOf (modPort i f s) j = portOf s j := tget_tmod_ne _ _ _ _ _ h
theorem portOf_modPort (i j : Nat) (f : Port → Port) (s : State) : portOf (modPort i f s) j = if j = i then f (portOf s j) else portOf s j := by
  split
  · subst_vars; exact portOf_modPort_same _ _ _
  · exact portOf_modPort_ne _ _ _ _ ‹_›
@[simp] theorem sesOf_modSes_same (i : Nat) (f : Ses → Ses) (s : State) : sesOf (modSes i f s) i = f (sesOf s i) := tget_tmod_same _ _ _ _
@[simp] theorem sesOf_modSes_ne (i j : Nat) (f : Ses → Ses) (s : State) (h : j ≠ i) : sesOf (modSes i f s) j = sesOf s j := tget_tmod_ne _ _ _ _ _ h
theorem sesOf_modSes (i j : Nat) (f : Ses → Ses) (s : State) : sesOf (modSes i f s) j = if j = i then f (sesOf s j) else sesOf s j := by
  split
  · subst_vars; exact sesOf_modSes_same _ _ _
  · exact sesOf_modSes_ne _ _ _ _ ‹_›
@[simp] theorem entryOf_modEntry_same (i : Nat) (f : Entry → Entry) (s : State) : entryOf (modEntry i f s) i = f (entryOf s i) := tget_tmod_same _ _ _ _
@[simp] theorem entryOf_modEntry_ne (i j : Nat) (f : Entry → Entry) (s : State) (h : j ≠ i) : entryOf (modEntry i f s) j = entryOf s j := tget_tmod_ne _ _ _ _ _ h
theorem entryOf_modEntry (i j : Nat) (f : Entry → Entry) (s : State) : entryOf (modEntry i f s) j = if j = i then f (entryOf s j) else entryOf s j := by
  split
  · subst_vars; exact entryOf_modEntry_same _ _ _
  · exact entryOf_modEntry_ne _ _ _ _ ‹_›
@[simp] theorem seqOf_modSeq_same (i : Nat) (f : Seq → Seq) (s : State) : seqOf (modSeq i f s) i = f (seqOf s i) := tget_tmod_same _ _ _ _
@[simp] theorem seqOf_modSeq_ne (i j : Nat) (f : Seq → Seq) (s : State) (h : j ≠ i) : seqOf (modSeq i f s) j = seqOf s j := tget_tmod_ne _ _ _ _ _ h
theorem seqOf_modSeq (i j : Nat) (f : Seq → Seq) (s : State) : seqOf (modSeq i f s) j = if j = i then f (seqOf s j) else seqOf s j := by
  split
  · subst_vars; exact seqOf_modSeq_same _ _ _
  · exact seqOf_modSeq_ne _ _ _ _ ‹_›
@[simp] theorem calOf_modCal_same (i : Nat) (f : CalCl → CalCl) (s : State) : calOf (modCal i f s) i = f (calOf s i) := tget_tmod_same _ _ _ _
@[simp] theorem calOf_modCal_ne (i j : Nat) (f : CalCl → CalCl) (s : State) (h : j ≠ i) : calOf (modCal i f s) j = calOf s j := tget_tmod_ne _ _ _ _ _ h
theorem calOf_modCal (i j : Nat) (f : CalCl → CalCl) (s : State) : calOf (modCal i f s) j = if j = i then f (calOf s j) else calOf s j := by
  split
  · subst_vars; exact calOf_modCal_same _ _ _
  · exact calOf_modCal_ne _ _ _ _ ‹_›

/-- A core's entry of the remap table after one entry is set. -/
theorem roleOf_setRole (core pos st c : Nat) (s : State) : roleOf (setRole core pos st s) c = if c = core then (pos, st) else roleOf s c := by
  unfold roleOf setRole
  dsimp only
  by_cases h : c = core
  · subst h; simp
  · rw [if_neg h]
    unfold tput
    split
    · rw [tget_drop, if_neg h]
    · rw [tget_tins _ _ _ _ _ (fun e he => by simpa using (List.mem_filter.mp he).2), if_neg h, tget_drop, if_neg h]

end Sys2Proof.Machine
end

