-- ==== Sys2Proof/Laws/TouchUnits.lean ====
section
/-! SUPPORT. Which parts of the state change: array, stroke and Glaze operations. `co_f` says that `f` changes no part outside its list. -/

namespace Sys2Proof.Machine

/-- A list of parts within another. -/
def sub (a b : List Part) : Bool := a.all fun p => b.contains p

theorem sub_trans {a b c : List Part} (h : sub a b = true) (k : sub b c = true) : sub a c = true := by
  simp only [sub, List.all_eq_true, List.contains_iff_mem] at *
  exact fun x hx => k x (h x hx)

theorem co_refl (L : List Part) (s : State) : changesOnly L s s := ⟨rfl, fun p _ => by cases p <;> rfl⟩

/-- More parts may change from `s0` to `t` when those of `X` do from `u` to `t`. -/
theorem co_upd {L : List Part} {s0 t u : State} (X : List Part) (hs : sub X L = true) (h0 : t.pending = u.pending)
    (h : ∀ p, p ∉ X → same u t p) (hw : changesOnly L s0 u) : changesOnly L s0 t := by
  refine ⟨h0.trans hw.1, fun p hp => ?_⟩
  have hX : p ∉ X := fun hx => hp (by
    simp only [sub, List.all_eq_true, List.contains_iff_mem] at hs; exact hs p hx)
  have a := h p hX
  have b := hw.2 p hp
  cases p <;> exact a.trans b

theorem co_foldl {L : List Part} {s0 : State} {β : Type} (g : State → β → State) (hg : ∀ t x, changesOnly L s0 t → changesOnly L s0 (g t x))
    (l : List β) (s : State) (h : changesOnly L s0 s) : changesOnly L s0 (l.foldl g s) := by
  induction l generalizing s with
  | nil => exact h
  | cons x xs ih => exact ih _ (hg s x h)

theorem co_set_arr {L : List Part} {s0 u : State} (x_arr : ArrSt) (hs : sub [.arr] L = true) (hw : changesOnly L s0 u) :
    changesOnly L s0 { u with arr := x_arr } :=
  co_upd (u := u) [.arr] hs rfl (fun p hp => by cases p <;> first | rfl | exact absurd (by decide) hp) hw
theorem co_set_arr_core_glz_kv {L : List Part} {s0 u : State} (x_arr : ArrSt) (x_core : CoreSt) (x_glz : GlzSt) (x_kv : KvSt) (hs : sub [.arr, .core, .glz, .kv] L = true) (hw : changesOnly L s0 u) :
    changesOnly L s0 { u with arr := x_arr, core := x_core, glz := x_glz, kv := x_kv } :=
  co_upd (u := u) [.arr, .core, .glz, .kv] hs rfl (fun p hp => by cases p <;> first | rfl | exact absurd (by decide) hp) hw
theorem co_set_arr_core_glz_sch_kv_head {L : List Part} {s0 u : State} (x_arr : ArrSt) (x_core : CoreSt) (x_glz : GlzSt) (x_sch : SchedSt) (x_kv : KvSt) (x_head : HeadSt) (hs : sub [.arr, .core, .glz, .sch, .kv, .head] L = true) (hw : changesOnly L s0 u) :
    changesOnly L s0 { u with arr := x_arr, core := x_core, glz := x_glz, sch := x_sch, kv := x_kv, head := x_head } :=
  co_upd (u := u) [.arr, .core, .glz, .sch, .kv, .head] hs rfl (fun p hp => by cases p <;> first | rfl | exact absurd (by decide) hp) hw
theorem co_set_arr_glz {L : List Part} {s0 u : State} (x_arr : ArrSt) (x_glz : GlzSt) (hs : sub [.arr, .glz] L = true) (hw : changesOnly L s0 u) :
    changesOnly L s0 { u with arr := x_arr, glz := x_glz } :=
  co_upd (u := u) [.arr, .glz] hs rfl (fun p hp => by cases p <;> first | rfl | exact absurd (by decide) hp) hw
theorem co_set_arr_glz_kv {L : List Part} {s0 u : State} (x_arr : ArrSt) (x_glz : GlzSt) (x_kv : KvSt) (hs : sub [.arr, .glz, .kv] L = true) (hw : changesOnly L s0 u) :
    changesOnly L s0 { u with arr := x_arr, glz := x_glz, kv := x_kv } :=
  co_upd (u := u) [.arr, .glz, .kv] hs rfl (fun p hp => by cases p <;> first | rfl | exact absurd (by decide) hp) hw
theorem co_set_arr_kv {L : List Part} {s0 u : State} (x_arr : ArrSt) (x_kv : KvSt) (hs : sub [.arr, .kv] L = true) (hw : changesOnly L s0 u) :
    changesOnly L s0 { u with arr := x_arr, kv := x_kv } :=
  co_upd (u := u) [.arr, .kv] hs rfl (fun p hp => by cases p <;> first | rfl | exact absurd (by decide) hp) hw
theorem co_set_arr_sec {L : List Part} {s0 u : State} (x_arr : ArrSt) (x_sec : SecSt) (hs : sub [.arr, .sec] L = true) (hw : changesOnly L s0 u) :
    changesOnly L s0 { u with arr := x_arr, sec := x_sec } :=
  co_upd (u := u) [.arr, .sec] hs rfl (fun p hp => by cases p <;> first | rfl | exact absurd (by decide) hp) hw
theorem co_set_brd {L : List Part} {s0 u : State} (x_brd : BrdSt) (hs : sub [.brd] L = true) (hw : changesOnly L s0 u) :
    changesOnly L s0 { u with brd := x_brd } :=
  co_upd (u := u) [.brd] hs rfl (fun p hp => by cases p <;> first | rfl | exact absurd (by decide) hp) hw
theorem co_set_cal {L : List Part} {s0 u : State} (x_cal : CalSt) (hs : sub [.cal] L = true) (hw : changesOnly L s0 u) :
    changesOnly L s0 { u with cal := x_cal } :=
  co_upd (u := u) [.cal] hs rfl (fun p hp => by cases p <;> first | rfl | exact absurd (by decide) hp) hw
theorem co_set_clk {L : List Part} {s0 u : State} (x_clk : ClkSt) (hs : sub [.clk] L = true) (hw : changesOnly L s0 u) :
    changesOnly L s0 { u with clk := x_clk } :=
  co_upd (u := u) [.clk] hs rfl (fun p hp => by cases p <;> first | rfl | exact absurd (by decide) hp) hw
theorem co_set_clk_pwr_dev {L : List Part} {s0 u : State} (x_clk : ClkSt) (x_pwr : PwrSt) (x_dev : DevSt) (hs : sub [.clk, .pwr, .dev] L = true) (hw : changesOnly L s0 u) :
    changesOnly L s0 { u with clk := x_clk, pwr := x_pwr, dev := x_dev } :=
  co_upd (u := u) [.clk, .pwr, .dev] hs rfl (fun p hp => by cases p <;> first | rfl | exact absurd (by decide) hp) hw
theorem co_set_cnv {L : List Part} {s0 u : State} (x_cnv : Tab Canvas) (hs : sub [.cnv] L = true) (hw : changesOnly L s0 u) :
    changesOnly L s0 { u with cnv := x_cnv } :=
  co_upd (u := u) [.cnv] hs rfl (fun p hp => by cases p <;> first | rfl | exact absurd (by decide) hp) hw
theorem co_set_core {L : List Part} {s0 u : State} (x_core : CoreSt) (hs : sub [.core] L = true) (hw : changesOnly L s0 u) :
    changesOnly L s0 { u with core := x_core } :=
  co_upd (u := u) [.core] hs rfl (fun p hp => by cases p <;> first | rfl | exact absurd (by decide) hp) hw
theorem co_set_core_free {L : List Part} {s0 u : State} (x_core : CoreSt) (x_free : Nat) (hs : sub [.core, .free] L = true) (hw : changesOnly L s0 u) :
    changesOnly L s0 { u with core := x_core, free := x_free } :=
  co_upd (u := u) [.core, .free] hs rfl (fun p hp => by cases p <;> first | rfl | exact absurd (by decide) hp) hw
theorem co_set_core_glz {L : List Part} {s0 u : State} (x_core : CoreSt) (x_glz : GlzSt) (hs : sub [.core, .glz] L = true) (hw : changesOnly L s0 u) :
    changesOnly L s0 { u with core := x_core, glz := x_glz } :=
  co_upd (u := u) [.core, .glz] hs rfl (fun p hp => by cases p <;> first | rfl | exact absurd (by decide) hp) hw
theorem co_set_core_head {L : List Part} {s0 u : State} (x_core : CoreSt) (x_head : HeadSt) (hs : sub [.core, .head] L = true) (hw : changesOnly L s0 u) :
    changesOnly L s0 { u with core := x_core, head := x_head } :=
  co_upd (u := u) [.core, .head] hs rfl (fun p hp => by cases p <;> first | rfl | exact absurd (by decide) hp) hw
theorem co_set_core_kv {L : List Part} {s0 u : State} (x_core : CoreSt) (x_kv : KvSt) (hs : sub [.core, .kv] L = true) (hw : changesOnly L s0 u) :
    changesOnly L s0 { u with core := x_core, kv := x_kv } :=
  co_upd (u := u) [.core, .kv] hs rfl (fun p hp => by cases p <;> first | rfl | exact absurd (by decide) hp) hw
theorem co_set_dev {L : List Part} {s0 u : State} (x_dev : DevSt) (hs : sub [.dev] L = true) (hw : changesOnly L s0 u) :
    changesOnly L s0 { u with dev := x_dev } :=
  co_upd (u := u) [.dev] hs rfl (fun p hp => by cases p <;> first | rfl | exact absurd (by decide) hp) hw
theorem co_set_evr {L : List Part} {s0 u : State} (x_evr : EvrSt) (hs : sub [.evr] L = true) (hw : changesOnly L s0 u) :
    changesOnly L s0 { u with evr := x_evr } :=
  co_upd (u := u) [.evr] hs rfl (fun p hp => by cases p <;> first | rfl | exact absurd (by decide) hp) hw
theorem co_set_free {L : List Part} {s0 u : State} (x_free : Nat) (hs : sub [.free] L = true) (hw : changesOnly L s0 u) :
    changesOnly L s0 { u with free := x_free } :=
  co_upd (u := u) [.free] hs rfl (fun p hp => by cases p <;> first | rfl | exact absurd (by decide) hp) hw
theorem co_set_glz {L : List Part} {s0 u : State} (x_glz : GlzSt) (hs : sub [.glz] L = true) (hw : changesOnly L s0 u) :
    changesOnly L s0 { u with glz := x_glz } :=
  co_upd (u := u) [.glz] hs rfl (fun p hp => by cases p <;> first | rfl | exact absurd (by decide) hp) hw
theorem co_set_glz_kv {L : List Part} {s0 u : State} (x_glz : GlzSt) (x_kv : KvSt) (hs : sub [.glz, .kv] L = true) (hw : changesOnly L s0 u) :
    changesOnly L s0 { u with glz := x_glz, kv := x_kv } :=
  co_upd (u := u) [.glz, .kv] hs rfl (fun p hp => by cases p <;> first | rfl | exact absurd (by decide) hp) hw
theorem co_set_glz_kv_req {L : List Part} {s0 u : State} (x_glz : GlzSt) (x_kv : KvSt) (x_req : ReqSt) (hs : sub [.glz, .kv, .req] L = true) (hw : changesOnly L s0 u) :
    changesOnly L s0 { u with glz := x_glz, kv := x_kv, req := x_req } :=
  co_upd (u := u) [.glz, .kv, .req] hs rfl (fun p hp => by cases p <;> first | rfl | exact absurd (by decide) hp) hw
theorem co_set_glz_kv_req_cnv {L : List Part} {s0 u : State} (x_glz : GlzSt) (x_kv : KvSt) (x_req : ReqSt) (x_cnv : Tab Canvas) (hs : sub [.glz, .kv, .req, .cnv] L = true) (hw : changesOnly L s0 u) :
    changesOnly L s0 { u with glz := x_glz, kv := x_kv, req := x_req, cnv := x_cnv } :=
  co_upd (u := u) [.glz, .kv, .req, .cnv] hs rfl (fun p hp => by cases p <;> first | rfl | exact absurd (by decide) hp) hw
theorem co_set_glz_seq_kv {L : List Part} {s0 u : State} (x_glz : GlzSt) (x_seq : SeqSt) (x_kv : KvSt) (hs : sub [.glz, .seq, .kv] L = true) (hw : changesOnly L s0 u) :
    changesOnly L s0 { u with glz := x_glz, seq := x_seq, kv := x_kv } :=
  co_upd (u := u) [.glz, .seq, .kv] hs rfl (fun p hp => by cases p <;> first | rfl | exact absurd (by decide) hp) hw
theorem co_set_head {L : List Part} {s0 u : State} (x_head : HeadSt) (hs : sub [.head] L = true) (hw : changesOnly L s0 u) :
    changesOnly L s0 { u with head := x_head } :=
  co_upd (u := u) [.head] hs rfl (fun p hp => by cases p <;> first | rfl | exact absurd (by decide) hp) hw
theorem co_set_head_req {L : List Part} {s0 u : State} (x_head : HeadSt) (x_req : ReqSt) (hs : sub [.head, .req] L = true) (hw : changesOnly L s0 u) :
    changesOnly L s0 { u with head := x_head, req := x_req } :=
  co_upd (u := u) [.head, .req] hs rfl (fun p hp => by cases p <;> first | rfl | exact absurd (by decide) hp) hw
theorem co_set_hist {L : List Part} {s0 u : State} (x_hist : HistSt) (hs : sub [.hist] L = true) (hw : changesOnly L s0 u) :
    changesOnly L s0 { u with hist := x_hist } :=
  co_upd (u := u) [.hist] hs rfl (fun p hp => by cases p <;> first | rfl | exact absurd (by decide) hp) hw
theorem co_set_hist_cal_sec_pwr_evr {L : List Part} {s0 u : State} (x_hist : HistSt) (x_cal : CalSt) (x_sec : SecSt) (x_pwr : PwrSt) (x_evr : EvrSt) (hs : sub [.hist, .cal, .sec, .pwr, .evr] L = true) (hw : changesOnly L s0 u) :
    changesOnly L s0 { u with hist := x_hist, cal := x_cal, sec := x_sec, pwr := x_pwr, evr := x_evr } :=
  co_upd (u := u) [.hist, .cal, .sec, .pwr, .evr] hs rfl (fun p hp => by cases p <;> first | rfl | exact absurd (by decide) hp) hw
theorem co_set_kv {L : List Part} {s0 u : State} (x_kv : KvSt) (hs : sub [.kv] L = true) (hw : changesOnly L s0 u) :
    changesOnly L s0 { u with kv := x_kv } :=
  co_upd (u := u) [.kv] hs rfl (fun p hp => by cases p <;> first | rfl | exact absurd (by decide) hp) hw
theorem co_set_net {L : List Part} {s0 u : State} (x_net : NetSt) (hs : sub [.net] L = true) (hw : changesOnly L s0 u) :
    changesOnly L s0 { u with net := x_net } :=
  co_upd (u := u) [.net] hs rfl (fun p hp => by cases p <;> first | rfl | exact absurd (by decide) hp) hw
theorem co_set_ptn {L : List Part} {s0 u : State} (x_ptn : Tab Ptn) (hs : sub [.ptn] L = true) (hw : changesOnly L s0 u) :
    changesOnly L s0 { u with ptn := x_ptn } :=
  co_upd (u := u) [.ptn] hs rfl (fun p hp => by cases p <;> first | rfl | exact absurd (by decide) hp) hw
theorem co_set_pwr {L : List Part} {s0 u : State} (x_pwr : PwrSt) (hs : sub [.pwr] L = true) (hw : changesOnly L s0 u) :
    changesOnly L s0 { u with pwr := x_pwr } :=
  co_upd (u := u) [.pwr] hs rfl (fun p hp => by cases p <;> first | rfl | exact absurd (by decide) hp) hw
theorem co_set_pwr_brd {L : List Part} {s0 u : State} (x_pwr : PwrSt) (x_brd : BrdSt) (hs : sub [.pwr, .brd] L = true) (hw : changesOnly L s0 u) :
    changesOnly L s0 { u with pwr := x_pwr, brd := x_brd } :=
  co_upd (u := u) [.pwr, .brd] hs rfl (fun p hp => by cases p <;> first | rfl | exact absurd (by decide) hp) hw
theorem co_set_pwr_brd_dev {L : List Part} {s0 u : State} (x_pwr : PwrSt) (x_brd : BrdSt) (x_dev : DevSt) (hs : sub [.pwr, .brd, .dev] L = true) (hw : changesOnly L s0 u) :
    changesOnly L s0 { u with pwr := x_pwr, brd := x_brd, dev := x_dev } :=
  co_upd (u := u) [.pwr, .brd, .dev] hs rfl (fun p hp => by cases p <;> first | rfl | exact absurd (by decide) hp) hw
theorem co_set_pwr_dev {L : List Part} {s0 u : State} (x_pwr : PwrSt) (x_dev : DevSt) (hs : sub [.pwr, .dev] L = true) (hw : changesOnly L s0 u) :
    changesOnly L s0 { u with pwr := x_pwr, dev := x_dev } :=
  co_upd (u := u) [.pwr, .dev] hs rfl (fun p hp => by cases p <;> first | rfl | exact absurd (by decide) hp) hw
theorem co_set_req {L : List Part} {s0 u : State} (x_req : ReqSt) (hs : sub [.req] L = true) (hw : changesOnly L s0 u) :
    changesOnly L s0 { u with req := x_req } :=
  co_upd (u := u) [.req] hs rfl (fun p hp => by cases p <;> first | rfl | exact absurd (by decide) hp) hw
theorem co_set_req_dev {L : List Part} {s0 u : State} (x_req : ReqSt) (x_dev : DevSt) (hs : sub [.req, .dev] L = true) (hw : changesOnly L s0 u) :
    changesOnly L s0 { u with req := x_req, dev := x_dev } :=
  co_upd (u := u) [.req, .dev] hs rfl (fun p hp => by cases p <;> first | rfl | exact absurd (by decide) hp) hw
theorem co_set_req_net {L : List Part} {s0 u : State} (x_req : ReqSt) (x_net : NetSt) (hs : sub [.req, .net] L = true) (hw : changesOnly L s0 u) :
    changesOnly L s0 { u with req := x_req, net := x_net } :=
  co_upd (u := u) [.req, .net] hs rfl (fun p hp => by cases p <;> first | rfl | exact absurd (by decide) hp) hw
theorem co_set_sch {L : List Part} {s0 u : State} (x_sch : SchedSt) (hs : sub [.sch] L = true) (hw : changesOnly L s0 u) :
    changesOnly L s0 { u with sch := x_sch } :=
  co_upd (u := u) [.sch] hs rfl (fun p hp => by cases p <;> first | rfl | exact absurd (by decide) hp) hw
theorem co_set_sch_pwr {L : List Part} {s0 u : State} (x_sch : SchedSt) (x_pwr : PwrSt) (hs : sub [.sch, .pwr] L = true) (hw : changesOnly L s0 u) :
    changesOnly L s0 { u with sch := x_sch, pwr := x_pwr } :=
  co_upd (u := u) [.sch, .pwr] hs rfl (fun p hp => by cases p <;> first | rfl | exact absurd (by decide) hp) hw
theorem co_set_sec {L : List Part} {s0 u : State} (x_sec : SecSt) (hs : sub [.sec] L = true) (hw : changesOnly L s0 u) :
    changesOnly L s0 { u with sec := x_sec } :=
  co_upd (u := u) [.sec] hs rfl (fun p hp => by cases p <;> first | rfl | exact absurd (by decide) hp) hw
theorem co_set_sec_dev {L : List Part} {s0 u : State} (x_sec : SecSt) (x_dev : DevSt) (hs : sub [.sec, .dev] L = true) (hw : changesOnly L s0 u) :
    changesOnly L s0 { u with sec := x_sec, dev := x_dev } :=
  co_upd (u := u) [.sec, .dev] hs rfl (fun p hp => by cases p <;> first | rfl | exact absurd (by decide) hp) hw
theorem co_set_seq {L : List Part} {s0 u : State} (x_seq : SeqSt) (hs : sub [.seq] L = true) (hw : changesOnly L s0 u) :
    changesOnly L s0 { u with seq := x_seq } :=
  co_upd (u := u) [.seq] hs rfl (fun p hp => by cases p <;> first | rfl | exact absurd (by decide) hp) hw
theorem co_set_seq_hist {L : List Part} {s0 u : State} (x_seq : SeqSt) (x_hist : HistSt) (hs : sub [.seq, .hist] L = true) (hw : changesOnly L s0 u) :
    changesOnly L s0 { u with seq := x_seq, hist := x_hist } :=
  co_upd (u := u) [.seq, .hist] hs rfl (fun p hp => by cases p <;> first | rfl | exact absurd (by decide) hp) hw
/-! ### Units -/
theorem co_setRole {L : List Part} {s0 : State} (core pos st : Nat) (s : State) (hs : sub [.hist] L = true) (hw : changesOnly L s0 s) : changesOnly L s0 (setRole core pos st s) := by
  unfold setRole
  repeat' (first | with_reducible (first | assumption | intro t x ht | intro t ht) | exact sub_trans (by decide) hs | (fail_if_no_progress with_reducible apply co_set_hist))
theorem co_modCnv {L : List Part} {s0 : State} (c : Nat) (f : Canvas → Canvas) (s : State) (hs : sub [.cnv] L = true) (hw : changesOnly L s0 s) : changesOnly L s0 (modCnv c f s) := by
  unfold modCnv
  repeat' (first | with_reducible (first | assumption | intro t x ht | intro t ht) | exact sub_trans (by decide) hs | (fail_if_no_progress with_reducible apply co_set_cnv))
theorem co_modPtn {L : List Part} {s0 : State} (n : Nat) (f : Ptn → Ptn) (s : State) (hs : sub [.ptn] L = true) (hw : changesOnly L s0 s) : changesOnly L s0 (modPtn n f s) := by
  unfold modPtn
  repeat' (first | with_reducible (first | assumption | intro t x ht | intro t ht) | exact sub_trans (by decide) hs | (fail_if_no_progress with_reducible apply co_set_ptn))
theorem co_modPort {L : List Part} {s0 : State} (n : Nat) (f : Port → Port) (s : State) (hs : sub [.net] L = true) (hw : changesOnly L s0 s) : changesOnly L s0 (modPort n f s) := by
  unfold modPort
  repeat' (first | with_reducible (first | assumption | intro t x ht | intro t ht) | exact sub_trans (by decide) hs | (fail_if_no_progress with_reducible apply co_set_net))
theorem co_modSes {L : List Part} {s0 : State} (k : Nat) (f : Ses → Ses) (s : State) (hs : sub [.net] L = true) (hw : changesOnly L s0 s) : changesOnly L s0 (modSes k f s) := by
  unfold modSes
  repeat' (first | with_reducible (first | assumption | intro t x ht | intro t ht) | exact sub_trans (by decide) hs | (fail_if_no_progress with_reducible apply co_set_net))
theorem co_modEntry {L : List Part} {s0 : State} (ix : Nat) (f : Entry → Entry) (s : State) (hs : sub [.req] L = true) (hw : changesOnly L s0 s) : changesOnly L s0 (modEntry ix f s) := by
  unfold modEntry
  repeat' (first | with_reducible (first | assumption | intro t x ht | intro t ht) | exact sub_trans (by decide) hs | (fail_if_no_progress with_reducible apply co_set_req))
theorem co_modSeq {L : List Part} {s0 : State} (sid : Nat) (f : Seq → Seq) (s : State) (hs : sub [.seq] L = true) (hw : changesOnly L s0 s) : changesOnly L s0 (modSeq sid f s) := by
  unfold modSeq
  repeat' (first | with_reducible (first | assumption | intro t x ht | intro t ht) | exact sub_trans (by decide) hs | (fail_if_no_progress with_reducible apply co_set_seq))
theorem co_modCal {L : List Part} {s0 : State} (cl : Nat) (f : CalCl → CalCl) (s : State) (hs : sub [.cal] L = true) (hw : changesOnly L s0 s) : changesOnly L s0 (modCal cl f s) := by
  unfold modCal
  repeat' (first | with_reducible (first | assumption | intro t x ht | intro t ht) | exact sub_trans (by decide) hs | (fail_if_no_progress with_reducible apply co_set_cal))
/-! ### Ops -/
theorem co_draw {L : List Part} {s0 : State} (s : State) (hs : sub [.free] L = true) (hw : changesOnly L s0 s) : changesOnly L s0 (draw s).2 :=
  co_upd (u := s) [.free] hs rfl (fun p hp => by cases p <;> first | rfl | exact absurd (by decide) hp) hw
theorem co_fireArg {L : List Part} {s0 : State} (t unit level code detail arg : Nat) (s : State) (hs : sub [.evr] L = true) (hw : changesOnly L s0 s) : changesOnly L s0 (fireArg t unit level code detail arg s) := by
  unfold fireArg
  repeat' (first | with_reducible (first | assumption | intro t x ht | intro t ht) | exact sub_trans (by decide) hs | split | (fail_if_no_progress with_reducible apply co_set_evr) | dsimp only)
theorem co_fire {L : List Part} {s0 : State} (t unit level code detail : Nat) (s : State) (hs : sub [.evr] L = true) (hw : changesOnly L s0 s) : changesOnly L s0 (fire t unit level code detail s) := by
  unfold fire
  repeat' (first | with_reducible (first | assumption | intro t x ht | intro t ht | apply co_fireArg) | exact sub_trans (by decide) hs)
theorem co_evrCommit {L : List Part} {s0 : State} (s : State) (hs : sub [.evr] L = true) (hw : changesOnly L s0 s) : changesOnly L s0 (evrCommit s) := by
  unfold evrCommit
  repeat' (first | with_reducible (first | assumption | intro t x ht | intro t ht) | exact sub_trans (by decide) hs | split | (fail_if_no_progress with_reducible apply co_set_evr) | dsimp only)
theorem co_post {L : List Part} {s0 : State} (k : Nat) (m : Msg) (s : State) (hs : sub [.net] L = true) (hw : changesOnly L s0 s) : changesOnly L s0 (post k m s) := by
  unfold post
  repeat' (first | with_reducible (first | assumption | intro t x ht | intro t ht | apply co_modSes) | exact sub_trans (by decide) hs | split | dsimp only)
theorem co_replyFull {L : List Part} {s0 : State} (h : Hdr) (status arg handle : Nat) (body : List Byte) (s : State) (hs : sub [.net] L = true) (hw : changesOnly L s0 s) : changesOnly L s0 (replyFull h status arg handle body s) := by
  unfold replyFull
  repeat' (first | with_reducible (first | assumption | intro t x ht | intro t ht | apply co_post) | exact sub_trans (by decide) hs)
theorem co_reply {L : List Part} {s0 : State} (h : Hdr) (status : Nat) (s : State) (hs : sub [.net] L = true) (hw : changesOnly L s0 s) : changesOnly L s0 (reply h status s) := by
  unfold reply
  repeat' (first | with_reducible (first | assumption | intro t x ht | intro t ht | apply co_replyFull) | exact sub_trans (by decide) hs)
theorem co_replyLate {L : List Part} {s0 : State} (h : Hdr) (status arg handle : Nat) (body : List Byte) (s : State) (hs : sub [.net] L = true) (hw : changesOnly L s0 s) : changesOnly L s0 (replyLate h status arg handle body s) := by
  unfold replyLate
  repeat' (first | with_reducible (first | assumption | intro t x ht | intro t ht | apply co_replyFull | apply co_modSes) | exact sub_trans (by decide) hs | dsimp only)
theorem co_leaveOut {L : List Part} {s0 : State} (h : Hdr) (s : State) (hs : sub [.net] L = true) (hw : changesOnly L s0 s) : changesOnly L s0 (leaveOut h s) := by
  unfold leaveOut
  repeat' (first | with_reducible (first | assumption | intro t x ht | intro t ht | apply co_modSes) | exact sub_trans (by decide) hs | dsimp only)
theorem co_flushEvents {L : List Part} {s0 : State} (n : Nat) (s : State) (hs : sub [.ptn, .net] L = true) (hw : changesOnly L s0 s) : changesOnly L s0 (flushEvents n s) := by
  unfold flushEvents
  repeat' (first | with_reducible (first | assumption | intro t x ht | intro t ht | apply co_modPtn | apply co_post | apply co_foldl) | exact sub_trans (by decide) hs | split | dsimp only)
theorem co_raise {L : List Part} {s0 : State} (n : Nat) (e : Event) (s : State) (hs : sub [.ptn, .net] L = true) (hw : changesOnly L s0 s) : changesOnly L s0 (raise n e s) := by
  unfold raise
  repeat' (first | with_reducible (first | assumption | intro t x ht | intro t ht | apply co_modPtn | apply co_flushEvents) | exact sub_trans (by decide) hs | split | dsimp only)
theorem co_raiseAll {L : List Part} {s0 : State} (ns : List Nat) (e : Event) (s : State) (hs : sub [.ptn, .net] L = true) (hw : changesOnly L s0 s) : changesOnly L s0 (raiseAll ns e s) := by
  unfold raiseAll
  repeat' (first | with_reducible (first | assumption | intro t x ht | intro t ht | apply co_raise | apply co_foldl) | exact sub_trans (by decide) hs | dsimp only)
theorem co_canvasEvent {L : List Part} {s0 : State} (c what : Nat) (s : State) (hs : sub [.ptn, .net] L = true) (hw : changesOnly L s0 s) : changesOnly L s0 (canvasEvent c what s) := by
  unfold canvasEvent
  repeat' (first | with_reducible (first | assumption | intro t x ht | intro t ht | apply co_raiseAll) | exact sub_trans (by decide) hs)
theorem co_healthCanvas {L : List Part} {s0 : State} (c unit level what : Nat) (s : State) (hs : sub [.ptn, .net] L = true) (hw : changesOnly L s0 s) : changesOnly L s0 (healthCanvas c unit level what s) := by
  unfold healthCanvas
  repeat' (first | with_reducible (first | assumption | intro t x ht | intro t ht | apply co_raiseAll) | exact sub_trans (by decide) hs)
theorem co_healthUnit {L : List Part} {s0 : State} (unit level what : Nat) (s : State) (hs : sub [.ptn, .net] L = true) (hw : changesOnly L s0 s) : changesOnly L s0 (healthUnit unit level what s) := by
  unfold healthUnit
  repeat' (first | with_reducible (first | assumption | intro t x ht | intro t ht | apply co_healthCanvas | apply co_foldl) | exact sub_trans (by decide) hs | dsimp only)
theorem co_setMstate {L : List Part} {s0 : State} (n : Nat) (s : State) (hs : sub [.evr, .dev] L = true) (hw : changesOnly L s0 s) : changesOnly L s0 (setMstate n s) := by
  unfold setMstate
  repeat' (first | with_reducible (first | assumption | intro t x ht | intro t ht | apply co_fire) | exact sub_trans (by decide) hs | split | (fail_if_no_progress with_reducible apply co_set_dev))
theorem co_uhWrite {L : List Part} {s0 : State} (s : State) (hs : sub [.hist] L = true) (hw : changesOnly L s0 s) : changesOnly L s0 (uhWrite s) := by
  unfold uhWrite
  repeat' (first | with_reducible (first | assumption | intro t x ht | intro t ht) | exact sub_trans (by decide) hs | split | (fail_if_no_progress with_reducible apply co_set_hist) | dsimp only)
theorem co_storeRecord {L : List Part} {s0 : State} (r : FaultRec) (s : State) (hs : sub [.hist] L = true) (hw : changesOnly L s0 s) : changesOnly L s0 (storeRecord r s) := by
  unfold storeRecord
  repeat' (first | with_reducible (first | assumption | intro t x ht | intro t ht) | exact sub_trans (by decide) hs | split | (fail_if_no_progress with_reducible apply co_set_hist) | dsimp only)
theorem co_modAudit {L : List Part} {s0 : State} (cl : Nat) (f : AuditCl → AuditCl) (s : State) (hs : sub [.hist] L = true) (hw : changesOnly L s0 s) : changesOnly L s0 (modAudit cl f s) := by
  unfold modAudit
  repeat' (first | with_reducible (first | assumption | intro t x ht | intro t ht) | exact sub_trans (by decide) hs | (fail_if_no_progress with_reducible apply co_set_hist))
theorem co_clearPos {L : List Part} {s0 : State} (core : Nat) (s : State) (hs : sub [.arr, .glz, .kv] L = true) (hw : changesOnly L s0 s) : changesOnly L s0 (clearPos core s) := by
  unfold clearPos
  repeat' (first | with_reducible (first | assumption | intro t x ht | intro t ht) | exact sub_trans (by decide) hs | (fail_if_no_progress with_reducible apply co_set_arr_glz_kv) | dsimp only)
theorem co_auditOff {L : List Part} {s0 : State} (s : State) (hs : sub [.arr, .glz, .kv, .hist] L = true) (hw : changesOnly L s0 s) : changesOnly L s0 (auditOff s) := by
  unfold auditOff
  repeat' (first | with_reducible (first | assumption | intro t x ht | intro t ht | apply co_clearPos | apply co_setRole | apply co_modAudit | apply co_foldl) | exact sub_trans (by decide) hs | split | dsimp only)
theorem co_putToken {L : List Part} {s0 : State} (dest : Nat) (t : Token) (s : State) (hs : sub [.seq] L = true) (hw : changesOnly L s0 s) : changesOnly L s0 (putToken dest t s) := by
  unfold putToken
  repeat' (first | with_reducible (first | assumption | intro t x ht | intro t ht) | exact sub_trans (by decide) hs | (fail_if_no_progress with_reducible apply co_set_seq) | dsimp only)
theorem co_sendTagged {L : List Part} {s0 : State} (src kind arg step att dest : Nat) (s : State) (hs : sub [.seq] L = true) (hw : changesOnly L s0 s) : changesOnly L s0 (sendTagged src kind arg step att dest s) := by
  unfold sendTagged
  repeat' (first | with_reducible (first | assumption | intro t x ht | intro t ht | apply co_putToken | apply co_modSeq) | exact sub_trans (by decide) hs | dsimp only)
theorem co_schedToAll {L : List Part} {s0 : State} (kind arg att : Nat) (s : State) (hs : sub [.seq] L = true) (hw : changesOnly L s0 s) : changesOnly L s0 (schedToAll kind arg att s) := by
  unfold schedToAll
  repeat' (first | with_reducible (first | assumption | intro t x ht | intro t ht | apply co_sendTagged | apply co_foldl) | exact sub_trans (by decide) hs | split | dsimp only)
theorem co_modCur {L : List Part} {s0 : State} (f : StepRec → StepRec) (s : State) (hs : sub [.sch] L = true) (hw : changesOnly L s0 s) : changesOnly L s0 (modCur f s) := by
  unfold modCur
  repeat' (first | with_reducible (first | assumption | intro t x ht | intro t ht) | exact sub_trans (by decide) hs | (fail_if_no_progress with_reducible apply co_set_sch))
theorem co_dropSamples {L : List Part} {s0 : State} (step seg : Nat) (s : State) (hs : sub [.hist] L = true) (hw : changesOnly L s0 s) : changesOnly L s0 (dropSamples step seg s) := by
  unfold dropSamples
  repeat' (first | with_reducible (first | assumption | intro t x ht | intro t ht) | exact sub_trans (by decide) hs | (fail_if_no_progress with_reducible apply co_set_hist) | dsimp only)
theorem co_sendAbandon {L : List Part} {s0 : State} (again : Bool) (s : State) (hs : sub [.seq, .sch, .cnv, .hist] L = true) (hw : changesOnly L s0 s) : changesOnly L s0 (sendAbandon again s) := by
  unfold sendAbandon
  repeat' (first | with_reducible (first | assumption | intro t x ht | intro t ht | apply co_modCnv | apply co_dropSamples | apply co_schedToAll | apply co_modCur) | exact sub_trans (by decide) hs | split | dsimp only)
theorem co_updRevert {L : List Part} {s0 : State} (s : State) (hs : sub [.seq, .sch, .cnv, .net, .hist, .sec, .evr] L = true) (hw : changesOnly L s0 s) : changesOnly L s0 (updRevert s) := by
  unfold updRevert
  repeat' (first | with_reducible (first | assumption | intro t x ht | intro t ht | apply co_sendAbandon | apply co_fire | apply co_replyLate) | exact sub_trans (by decide) hs | split | (fail_if_no_progress with_reducible apply co_set_sec) | dsimp only)
theorem co_drainDecision {L : List Part} {s0 : State} (cause unit level : Nat) (s : State) (hs : sub [.seq, .sch, .cnv, .ptn, .net, .hist, .sec, .evr, .dev] L = true) (hw : changesOnly L s0 s) : changesOnly L s0 (drainDecision cause unit level s) := by
  unfold drainDecision
  repeat' (first | with_reducible (first | assumption | intro t x ht | intro t ht | apply co_updRevert | apply co_fire | apply co_raiseAll | apply co_evrCommit | apply co_setMstate | apply co_uhWrite) | exact sub_trans (by decide) hs | split | (fail_if_no_progress with_reducible apply co_set_hist) | dsimp only)
theorem co_addFence {L : List Part} {s0 : State} (core : Nat) (s : State) (hs : sub [.seq, .sch, .cnv, .ptn, .net, .hist, .sec, .evr, .dev] L = true) (hw : changesOnly L s0 s) : changesOnly L s0 (addFence core s) := by
  unfold addFence
  repeat' (first | with_reducible (first | assumption | intro t x ht | intro t ht | apply co_drainDecision | apply co_fire) | exact sub_trans (by decide) hs | split | (fail_if_no_progress with_reducible apply co_set_hist) | dsimp only)
theorem co_retireSpare {L : List Part} {s0 : State} (core : Nat) (s : State) (hs : sub [.hist] L = true) (hw : changesOnly L s0 s) : changesOnly L s0 (retireSpare core s) := by
  unfold retireSpare
  repeat' (first | with_reducible (first | assumption | intro t x ht | intro t ht | apply co_setRole) | exact sub_trans (by decide) hs | split | (fail_if_no_progress with_reducible apply co_set_hist))
theorem co_nextSpare {L : List Part} {s0 : State} (core : Nat) (s : State) (hs : sub [.seq, .sch, .cnv, .ptn, .net, .hist, .sec, .evr, .dev] L = true) (hw : changesOnly L s0 s) : changesOnly L s0 (nextSpare core s) := by
  unfold nextSpare
  repeat' (first | with_reducible (first | assumption | intro t x ht | intro t ht | apply co_retireSpare | apply co_drainDecision) | exact sub_trans (by decide) hs | split | (fail_if_no_progress with_reducible apply co_set_hist) | dsimp only)
theorem co_fenceDue {L : List Part} {s0 : State} (core : Nat) (s : State) (hs : sub [.seq, .sch, .cnv, .ptn, .net, .hist, .sec, .evr, .dev] L = true) (hw : changesOnly L s0 s) : changesOnly L s0 (fenceDue core s) := by
  unfold fenceDue
  repeat' (first | with_reducible (first | assumption | intro t x ht | intro t ht | apply co_nextSpare | apply co_retireSpare | apply co_addFence) | exact sub_trans (by decide) hs | split | dsimp only)
theorem co_recordFault {L : List Part} {s0 : State} (unit level kind detail : Nat) (recurs : Bool) (s : State) (hs : sub [.seq, .sch, .cnv, .ptn, .net, .hist, .sec, .evr, .dev] L = true) (hw : changesOnly L s0 s) : changesOnly L s0 (recordFault unit level kind detail recurs s) := by
  unfold recordFault
  repeat' (first | with_reducible (first | assumption | intro t x ht | intro t ht | apply co_storeRecord | apply co_fire | apply co_healthUnit | apply co_fenceDue | apply co_uhWrite | apply co_drainDecision) | exact sub_trans (by decide) hs | split | (fail_if_no_progress with_reducible apply co_set_hist) | dsimp only)
/-! ### Operands -/
theorem co_hold {L : List Part} {s0 : State} (c : Instr) (i : Iss) (s : State) (hs : sub [.seq] L = true) (hw : changesOnly L s0 s) : changesOnly L s0 (hold c i s) := by
  unfold hold
  repeat' (first | with_reducible (first | assumption | intro t x ht | intro t ht | apply co_modSeq) | exact sub_trans (by decide) hs | dsimp only)
theorem co_enqueueOp {L : List Part} {s0 : State} (c : Instr) (i : Iss) (rdy : State → Bool) (act : State → State) (s : State) (h_act : ∀ y0, changesOnly L s0 y0 → changesOnly L s0 (act y0)) (hs : sub [.seq] L = true) (hw : changesOnly L s0 s) : changesOnly L s0 (enqueueOp c i rdy act s) := by
  unfold enqueueOp
  repeat' (first | with_reducible (first | assumption | intro t x ht | intro t ht | apply co_modSeq | apply h_act) | exact sub_trans (by decide) hs | split | dsimp only)
theorem co_alive {L : List Part} {s0 : State} (i : Iss) (reads : Bool) (op : State → State) (s : State) (h_op : ∀ y0, changesOnly L s0 y0 → changesOnly L s0 (op y0)) (hw : changesOnly L s0 s) : changesOnly L s0 (alive i reads op s) := by
  unfold alive
  repeat' (first | with_reducible (first | assumption | intro t x ht | intro t ht | apply h_op) | split)
theorem co_laneOp {L : List Part} {s0 : State} (i : Iss) (op : Lane → State → State) (s : State) (h_op : ∀ y0 y1, changesOnly L s0 y1 → changesOnly L s0 (op y0 y1)) (hw : changesOnly L s0 s) : changesOnly L s0 (laneOp i op s) := by
  unfold laneOp
  repeat' (first | with_reducible (first | assumption | intro t x ht | intro t ht | apply co_alive | apply h_op) | split)
theorem co_sendToken {L : List Part} {s0 : State} (src : Nat) (kind arg dest : Nat) (s : State) (hs : sub [.seq] L = true) (hw : changesOnly L s0 s) : changesOnly L s0 (sendToken src kind arg dest s) := by
  unfold sendToken
  repeat' (first | with_reducible (first | assumption | intro t x ht | intro t ht | apply co_putToken | apply co_modSeq) | exact sub_trans (by decide) hs | dsimp only)
theorem co_seqFault {L : List Part} {s0 : State} (sid cause : Nat) (s : State) (hs : sub [.seq] L = true) (hw : changesOnly L s0 s) : changesOnly L s0 (seqFault sid cause s) := by
  unfold seqFault
  repeat' (first | with_reducible (first | assumption | intro t x ht | intro t ht | apply co_sendToken | apply co_modSeq) | exact sub_trans (by decide) hs | dsimp only)
theorem co_seqFaultOpen {L : List Part} {s0 : State} (sid : Nat) (s : State) (hs : sub [.seq, .free] L = true) (hw : changesOnly L s0 s) : changesOnly L s0 (seqFaultOpen sid s) := by
  unfold seqFaultOpen
  repeat' (first | with_reducible (first | assumption | intro t x ht | intro t ht | apply co_draw | apply co_seqFault) | exact sub_trans (by decide) hs | split | (rename_i he; have hd := congrArg Prod.snd he; dsimp only at hd; subst hd) | dsimp only)
theorem co_checkWidth {L : List Part} {s0 : State} (i : Iss) (op : State → State) (s : State) (h_op : ∀ y0, changesOnly L s0 y0 → changesOnly L s0 (op y0)) (hs : sub [.seq, .free] L = true) (hw : changesOnly L s0 s) : changesOnly L s0 (checkWidth i op s) := by
  unfold checkWidth
  repeat' (first | with_reducible (first | assumption | intro t x ht | intro t ht | apply co_seqFaultOpen | apply h_op) | exact sub_trans (by decide) hs | split)
theorem co_checkVp {L : List Part} {s0 : State} (i : Iss) (vp : Nat) (op : State → State) (s : State) (h_op : ∀ y0, changesOnly L s0 y0 → changesOnly L s0 (op y0)) (hs : sub [.seq, .free] L = true) (hw : changesOnly L s0 s) : changesOnly L s0 (checkVp i vp op s) := by
  unfold checkVp
  repeat' (first | with_reducible (first | assumption | intro t x ht | intro t ht | apply co_checkWidth | apply h_op) | exact sub_trans (by decide) hs | split)
theorem co_abAdd {L : List Part} {s0 : State} (core tile : Nat) (ps : List Pair) (s : State) (hs : sub [.core] L = true) (hw : changesOnly L s0 s) : changesOnly L s0 (abAdd core tile ps s) := by
  unfold abAdd
  repeat' (first | with_reducible (first | assumption | intro t x ht | intro t ht) | exact sub_trans (by decide) hs | (fail_if_no_progress with_reducible apply co_set_core) | dsimp only)
theorem co_abAddCols {L : List Part} {s0 : State} (core tile : Nat) (cols : List (Nat × Pair)) (s : State) (hs : sub [.core] L = true) (hw : changesOnly L s0 s) : changesOnly L s0 (abAddCols core tile cols s) := by
  unfold abAddCols
  repeat' (first | with_reducible (first | assumption | intro t x ht | intro t ht | apply co_foldl) | exact sub_trans (by decide) hs | (fail_if_no_progress with_reducible apply co_set_core) | dsimp only)
/-! ### Array -/
theorem co_selectPlane {L : List Part} {s0 : State} (plane : Nat) (s : State) (array : Nat) (hs : sub [.arr] L = true) (hw : changesOnly L s0 s) : changesOnly L s0 (selectPlane plane s array) := by
  unfold selectPlane
  repeat' (first | with_reducible (first | assumption | intro t x ht | intro t ht) | exact sub_trans (by decide) hs | split | (fail_if_no_progress with_reducible apply co_set_arr))
theorem co_enqueueStroke {L : List Part} {s0 : State} (eng : Nat) (k : Stroke) (s : State) (hs : sub [.arr] L = true) (hw : changesOnly L s0 s) : changesOnly L s0 (enqueueStroke eng k s) := by
  unfold enqueueStroke
  repeat' (first | with_reducible (first | assumption | intro t x ht | intro t ht | apply co_foldl) | exact sub_trans (by decide) hs | split | (fail_if_no_progress with_reducible apply co_set_arr) | dsimp only)
theorem co_pendReg {L : List Part} {s0 : State} (i : Iss) (f : StrokeF) (p eng : Nat) (s : State) (g : Nat × Nat) (hs : sub [.core] L = true) (hw : changesOnly L s0 s) : changesOnly L s0 (pendReg i f p eng s g) := by
  unfold pendReg
  repeat' (first | with_reducible (first | assumption | intro t x ht | intro t ht) | exact sub_trans (by decide) hs | split | (fail_if_no_progress with_reducible apply co_set_core) | dsimp only)
theorem co_strokePos {L : List Part} {s0 : State} (i : Iss) (f : StrokeF) (ibs p : Nat) (desc : Bool) (s : State) (e : Nat) (hs : sub [.arr, .core] L = true) (hw : changesOnly L s0 s) : changesOnly L s0 (strokePos i f ibs p desc s e) := by
  unfold strokePos
  repeat' (first | with_reducible (first | assumption | intro t x ht | intro t ht | apply co_pendReg | apply co_enqueueStroke | apply co_foldl) | exact sub_trans (by decide) hs | split | dsimp only)
theorem co_clearAcn {L : List Part} {s0 : State} (core : Nat) (s : State) (hs : sub [.core] L = true) (hw : changesOnly L s0 s) : changesOnly L s0 (clearAcn core s) := by
  unfold clearAcn
  repeat' (first | with_reducible (first | assumption | intro t x ht | intro t ht) | exact sub_trans (by decide) hs | (fail_if_no_progress with_reducible apply co_set_core))
theorem co_openSeg {L : List Part} {s0 : State} (i : Iss) (s : State) (hs : sub [.seq] L = true) (hw : changesOnly L s0 s) : changesOnly L s0 (openSeg i s) := by
  unfold openSeg
  repeat' (first | with_reducible (first | assumption | intro t x ht | intro t ht | apply co_modSeq) | exact sub_trans (by decide) hs | dsimp only)
theorem co_strokeAll {L : List Part} {s0 : State} (i : Iss) (f : StrokeF) (desc : Bool) (ps : List Nat) (s : State) (hs : sub [.arr, .core, .seq] L = true) (hw : changesOnly L s0 s) : changesOnly L s0 (strokeAll i f desc ps s) := by
  unfold strokeAll
  repeat' (first | with_reducible (first | assumption | intro t x ht | intro t ht | apply co_strokePos | apply co_clearAcn | apply co_openSeg | apply co_foldl) | exact sub_trans (by decide) hs | dsimp only)
theorem co_countStroke {L : List Part} {s0 : State} (i : Iss) (op : State → State) (s : State) (h_op : ∀ y0, changesOnly L s0 y0 → changesOnly L s0 (op y0)) (hs : sub [.seq] L = true) (hw : changesOnly L s0 s) : changesOnly L s0 (countStroke i op s) := by
  unfold countStroke
  repeat' (first | with_reducible (first | assumption | intro t x ht | intro t ht | apply co_modSeq | apply h_op) | exact sub_trans (by decide) hs | dsimp only)
theorem co_strkAct {L : List Part} {s0 : State} (i : Iss) (f : StrokeF) (s : State) (hs : sub [.arr, .core, .seq] L = true) (hw : changesOnly L s0 s) : changesOnly L s0 (strkAct i f s) := by
  unfold strkAct
  repeat' (first | with_reducible (first | assumption | intro t x ht | intro t ht | apply co_countStroke | apply co_alive | apply co_strokeAll) | exact sub_trans (by decide) hs)
theorem co_stkvAct {L : List Part} {s0 : State} (i : Iss) (f : StrokeF) (s : State) (hs : sub [.arr, .core, .seq, .free] L = true) (hw : changesOnly L s0 s) : changesOnly L s0 (stkvAct i f s) := by
  unfold stkvAct
  repeat' (first | with_reducible (first | assumption | intro t x ht | intro t ht | apply co_countStroke | apply co_alive | apply co_checkWidth | apply co_strokeAll) | exact sub_trans (by decide) hs | dsimp only)
theorem co_pselAct {L : List Part} {s0 : State} (i : Iss) (emask amask plane : Nat) (s : State) (hs : sub [.arr] L = true) (hw : changesOnly L s0 s) : changesOnly L s0 (pselAct i emask amask plane s) := by
  unfold pselAct
  repeat' (first | with_reducible (first | assumption | intro t x ht | intro t ht | apply co_alive | apply co_selectPlane | apply co_foldl) | exact sub_trans (by decide) hs | dsimp only)
theorem co_loadTiles {L : List Part} {s0 : State} (s : State) (eng : Nat) (k : Stroke) (dev : Tab Int) (hs : sub [.core] L = true) (hw : changesOnly L s0 s) : changesOnly L s0 (loadTiles s eng k dev) := by
  unfold loadTiles
  repeat' (first | with_reducible (first | assumption | intro t x ht | intro t ht | apply co_foldl) | exact sub_trans (by decide) hs | (fail_if_no_progress with_reducible apply co_set_core) | dsimp only)
theorem co_releasePlanes {L : List Part} {s0 : State} (as : List ArrStroke) (s : State) (hs : sub [.arr] L = true) (hw : changesOnly L s0 s) : changesOnly L s0 (releasePlanes as s) := by
  unfold releasePlanes
  repeat' (first | with_reducible (first | assumption | intro t x ht | intro t ht | apply co_foldl) | exact sub_trans (by decide) hs | split | (fail_if_no_progress with_reducible apply co_set_arr) | dsimp only)
theorem co_keepTiles {L : List Part} {s0 : State} (s : State) (eng : Nat) (k : Stroke) (hs : sub [.seq] L = true) (hw : changesOnly L s0 s) : changesOnly L s0 (keepTiles s eng k) := by
  unfold keepTiles
  repeat' (first | with_reducible (first | assumption | intro t x ht | intro t ht | apply co_modSeq | apply co_foldl) | exact sub_trans (by decide) hs | split | dsimp only)
theorem co_strokeEndOp {L : List Part} {s0 : State} (eng : Nat) (dev : Tab Int) (tree : Nat) (s : State) (hs : sub [.arr, .core, .seq] L = true) (hw : changesOnly L s0 s) : changesOnly L s0 (strokeEndOp eng dev tree s) := by
  unfold strokeEndOp
  repeat' (first | with_reducible (first | assumption | intro t x ht | intro t ht | apply co_releasePlanes | apply co_keepTiles | apply co_loadTiles | apply co_foldl) | exact sub_trans (by decide) hs | split | (fail_if_no_progress with_reducible apply co_set_arr) | dsimp only)
/-! ### Flags -/
theorem co_swatchFailed {L : List Part} {s0 : State} (array col : Nat) (s : State) (hs : sub [.arr, .seq, .sch, .cnv, .ptn, .net, .hist, .sec, .evr, .dev] L = true) (hw : changesOnly L s0 s) : changesOnly L s0 (swatchFailed array col s) := by
  unfold swatchFailed
  repeat' (first | with_reducible (first | assumption | intro t x ht | intro t ht | apply co_recordFault) | exact sub_trans (by decide) hs | split | (fail_if_no_progress with_reducible apply co_set_arr))
theorem co_countLone {L : List Part} {s0 : State} (array col : Nat) (lone : Bool) (s : State) (hs : sub [.arr, .seq, .sch, .cnv, .ptn, .net, .hist, .sec, .evr, .dev] L = true) (hw : changesOnly L s0 s) : changesOnly L s0 (countLone array col lone s) := by
  unfold countLone
  repeat' (first | with_reducible (first | assumption | intro t x ht | intro t ht | apply co_swatchFailed | apply co_foldl) | exact sub_trans (by decide) hs | split | (fail_if_no_progress with_reducible apply co_set_arr) | dsimp only)
theorem co_arbitrate {L : List Part} {s0 : State} (f : StrokeFlags) (s : State) (hs : sub [.arr, .seq, .sch, .cnv, .ptn, .net, .hist, .sec, .evr, .dev] L = true) (hw : changesOnly L s0 s) : changesOnly L s0 (arbitrate f s) := by
  unfold arbitrate
  repeat' (first | with_reducible (first | assumption | intro t x ht | intro t ht | apply co_countLone | apply co_foldl) | exact sub_trans (by decide) hs | (fail_if_no_progress with_reducible apply co_set_hist) | dsimp only)
theorem co_reportFlags {L : List Part} {s0 : State} (eng : Nat) (s : State) (hs : sub [.arr, .seq, .sch, .cnv, .ptn, .net, .hist, .sec, .evr, .dev] L = true) (hw : changesOnly L s0 s) : changesOnly L s0 (reportFlags eng s) := by
  unfold reportFlags
  repeat' (first | with_reducible (first | assumption | intro t x ht | intro t ht | apply co_arbitrate | apply co_modSeq) | exact sub_trans (by decide) hs | split | (fail_if_no_progress with_reducible apply co_set_arr) | dsimp only)
/-! ### GlazeOps -/
theorem co_addD16 {L : List Part} {s0 : State} (core abTile plane : Nat) (t : TileIn) (array : Nat) (cols : List Nat) (s : State) (hs : sub [.core] L = true) (hw : changesOnly L s0 s) : changesOnly L s0 (addD16 core abTile plane t array cols s) := by
  unfold addD16
  repeat' (first | with_reducible (first | assumption | intro t x ht | intro t ht | apply co_abAddCols) | exact sub_trans (by decide) hs | dsimp only)
theorem co_addRun {L : List Part} {s0 : State} (core abTile tile plane : Nat) (d16 : List (Nat × List Nat)) (t : TileIn) (sc : Nat → Half) (z : State × List Nat) (r : Run)
    (hs : sub [.core] L = true) (hw : changesOnly L s0 z.1) : changesOnly L s0 (addRun core abTile tile plane d16 t sc z r).1 := by
  unfold addRun
  dsimp only
  apply co_foldl
  · intro t x ht; exact co_addD16 _ _ _ _ _ _ _ hs ht
  · exact co_abAdd _ _ _ _ hs hw
theorem co_addRuns {L : List Part} {s0 : State} (core abTile tile plane : Nat) (d16 : List (Nat × List Nat)) (t : TileIn) (sc : Nat → Half) (l : List Run) (z : State × List Nat)
    (hs : sub [.core] L = true) (hw : changesOnly L s0 z.1) : changesOnly L s0 (l.foldl (addRun core abTile tile plane d16 t sc) z).1 := by
  induction l generalizing z with
  | nil => exact hw
  | cons x xs ih => exact ih _ (co_addRun _ _ _ _ _ _ _ _ _ hs hw)
theorem co_aproTile {L : List Part} {s0 : State} (core abTile eng n gt : Nat) (whole : Bool) (s : State) (hs : sub [.core, .free] L = true) (hw : changesOnly L s0 s) : changesOnly L s0 (aproTile core abTile eng n gt whole s) := by
  unfold aproTile
  repeat' (first | with_reducible (first | assumption | intro t x ht | intro t ht | apply co_addRun | apply co_addD16 | apply co_addRuns | apply co_foldl) | exact sub_trans (by decide) hs | split | (fail_if_no_progress with_reducible apply co_set_core_free) | dsimp only)
theorem co_goutTile {L : List Part} {s0 : State} (i : Iss) (lix eng grp plane gt abTile p : Nat) (s : State) (hs : sub [.core] L = true) (hw : changesOnly L s0 s) : changesOnly L s0 (goutTile i lix eng grp plane gt abTile p s) := by
  unfold goutTile
  repeat' (first | with_reducible (first | assumption | intro t x ht | intro t ht | apply co_abAddCols | apply co_foldl) | exact sub_trans (by decide) hs | split | dsimp only)
theorem co_gactTile {L : List Part} {s0 : State} (i : Iss) (lix eng grp plane abTile p : Nat) (s : State) (hs : sub [.core] L = true) (hw : changesOnly L s0 s) : changesOnly L s0 (gactTile i lix eng grp plane abTile p s) := by
  unfold gactTile
  repeat' (first | with_reducible (first | assumption | intro t x ht | intro t ht | apply co_abAddCols | apply co_foldl) | exact sub_trans (by decide) hs | split | dsimp only)
theorem co_glrStroke {L : List Part} {s0 : State} (s : State) (k : Stroke) (hs : sub [.core] L = true) (hw : changesOnly L s0 s) : changesOnly L s0 (glrStroke s k) := by
  unfold glrStroke
  repeat' (first | with_reducible (first | assumption | intro t x ht | intro t ht | apply co_foldl) | exact sub_trans (by decide) hs | split | (fail_if_no_progress with_reducible apply co_set_core) | dsimp only)
theorem co_glrIn {L : List Part} {s0 : State} (i : Iss) (s : State) (hs : sub [.core, .seq] L = true) (hw : changesOnly L s0 s) : changesOnly L s0 (glrIn i s) := by
  unfold glrIn
  repeat' (first | with_reducible (first | assumption | intro t x ht | intro t ht | apply co_modSeq | apply co_glrStroke | apply co_foldl) | exact sub_trans (by decide) hs | dsimp only)
theorem co_glrOut {L : List Part} {s0 : State} (core eng grp plane gt abTile p : Nat) (s : State) (hs : sub [.core] L = true) (hw : changesOnly L s0 s) : changesOnly L s0 (glrOut core eng grp plane gt abTile p s) := by
  unfold glrOut
  repeat' (first | with_reducible (first | assumption | intro t x ht | intro t ht | apply co_abAddCols | apply co_foldl) | exact sub_trans (by decide) hs | split | dsimp only)
theorem co_gtntIn {L : List Part} {s0 : State} (i : Iss) (lix eng grp plane p : Nat) (l : Lane) (tid : Nat) (s : State) (hs : sub [.core] L = true) (hw : changesOnly L s0 s) : changesOnly L s0 (gtntIn i lix eng grp plane p l tid s) := by
  unfold gtntIn
  repeat' (first | with_reducible (first | assumption | intro t x ht | intro t ht | apply co_foldl) | exact sub_trans (by decide) hs | split | (fail_if_no_progress with_reducible apply co_set_core) | dsimp only)
theorem co_gtntOut {L : List Part} {s0 : State} (sid eng grp plane abTile p : Nat) (l : Lane) (tid : Nat) (s : State) (hs : sub [.core] L = true) (hw : changesOnly L s0 s) : changesOnly L s0 (gtntOut sid eng grp plane abTile p l tid s) := by
  unfold gtntOut
  repeat' (first | with_reducible (first | assumption | intro t x ht | intro t ht | apply co_abAdd | apply co_foldl) | exact sub_trans (by decide) hs | split | dsimp only)
/-! ### Acc -/
theorem co_aclrAct {L : List Part} {s0 : State} (i : Iss) (tile count : Nat) (s : State) (hs : sub [.core] L = true) (hw : changesOnly L s0 s) : changesOnly L s0 (aclrAct i tile count s) := by
  unfold aclrAct
  repeat' (first | with_reducible (first | assumption | intro t x ht | intro t ht | apply co_alive) | exact sub_trans (by decide) hs | (fail_if_no_progress with_reducible apply co_set_core) | dsimp only)
theorem co_aclrRun {L : List Part} {s0 : State} (i : Iss) (tile count : Nat) (x0 : State) (hs : sub [.core, .seq] L = true) (hw : changesOnly L s0 x0) : changesOnly L s0 (aclrRun i tile count x0) := by
  unfold aclrRun
  repeat' (first | with_reducible (first | assumption | intro t x ht | intro t ht | apply co_enqueueOp | apply co_aclrAct) | exact sub_trans (by decide) hs | dsimp only)
theorem co_acnAct {L : List Part} {s0 : State} (i : Iss) (ntrm : Nat) (s : State) (hs : sub [.core] L = true) (hw : changesOnly L s0 s) : changesOnly L s0 (acnAct i ntrm s) := by
  unfold acnAct
  repeat' (first | with_reducible (first | assumption | intro t x ht | intro t ht | apply co_alive) | exact sub_trans (by decide) hs | (fail_if_no_progress with_reducible apply co_set_core) | dsimp only)
theorem co_aproAll {L : List Part} {s0 : State} (i : Iss) (eng ntr tile vp : Nat) (s : State) (hs : sub [.core, .free] L = true) (hw : changesOnly L s0 s) : changesOnly L s0 (aproAll i eng ntr tile vp s) := by
  unfold aproAll
  repeat' (first | with_reducible (first | assumption | intro t x ht | intro t ht | apply co_aproTile | apply co_foldl) | exact sub_trans (by decide) hs | split | (fail_if_no_progress with_reducible apply co_set_core) | dsimp only)
theorem co_aproAct {L : List Part} {s0 : State} (i : Iss) (eng ntr tile vp : Nat) (s : State) (hs : sub [.core, .seq, .free] L = true) (hw : changesOnly L s0 s) : changesOnly L s0 (aproAct i eng ntr tile vp s) := by
  unfold aproAct
  repeat' (first | with_reducible (first | assumption | intro t x ht | intro t ht | apply co_alive | apply co_checkVp | apply co_aproAll) | exact sub_trans (by decide) hs)
theorem co_aproRun {L : List Part} {s0 : State} (i : Iss) (eng ntr tile vp : Nat) (x0 : State) (hs : sub [.core, .seq, .free] L = true) (hw : changesOnly L s0 x0) : changesOnly L s0 (aproRun i eng ntr tile vp x0) := by
  unfold aproRun
  repeat' (first | with_reducible (first | assumption | intro t x ht | intro t ht | apply co_enqueueOp | apply co_aproAct) | exact sub_trans (by decide) hs | dsimp only)
theorem co_awidOne {L : List Part} {s0 : State} (sid srcsp src dst : Nat) (s : State) (hs : sub [.core, .seq] L = true) (hw : changesOnly L s0 s) : changesOnly L s0 (awidOne sid srcsp src dst s) := by
  unfold awidOne
  repeat' (first | with_reducible (first | assumption | intro t x ht | intro t ht | apply co_abAdd | apply co_modSeq) | exact sub_trans (by decide) hs | split | (fail_if_no_progress with_reducible apply co_set_core) | dsimp only)
theorem co_awidAll {L : List Part} {s0 : State} (i : Iss) (dtile srcsp saddr tcnt fold : Nat) (s : State) (hs : sub [.core, .seq] L = true) (hw : changesOnly L s0 s) : changesOnly L s0 (awidAll i dtile srcsp saddr tcnt fold s) := by
  unfold awidAll
  repeat' (first | with_reducible (first | assumption | intro t x ht | intro t ht | apply co_awidOne | apply co_foldl) | exact sub_trans (by decide) hs | split | dsimp only)
theorem co_awidAct {L : List Part} {s0 : State} (i : Iss) (dtile srcsp saddr tcnt fold : Nat) (s : State) (hs : sub [.core, .seq] L = true) (hw : changesOnly L s0 s) : changesOnly L s0 (awidAct i dtile srcsp saddr tcnt fold s) := by
  unfold awidAct
  repeat' (first | with_reducible (first | assumption | intro t x ht | intro t ht | apply co_alive | apply co_awidAll) | exact sub_trans (by decide) hs)
theorem co_awidRun {L : List Part} {s0 : State} (i : Iss) (dtile srcsp saddr tcnt fold : Nat) (x0 : State) (hs : sub [.core, .seq] L = true) (hw : changesOnly L s0 x0) : changesOnly L s0 (awidRun i dtile srcsp saddr tcnt fold x0) := by
  unfold awidRun
  repeat' (first | with_reducible (first | assumption | intro t x ht | intro t ht | apply co_enqueueOp | apply co_awidAct) | exact sub_trans (by decide) hs | dsimp only)
theorem co_redPut {L : List Part} {s0 : State} (core dst dsr : Nat) (p : Pair) (s : State) (hs : sub [.core] L = true) (hw : changesOnly L s0 s) : changesOnly L s0 (redPut core dst dsr p s) := by
  unfold redPut
  repeat' (first | with_reducible (first | assumption | intro t x ht | intro t ht) | exact sub_trans (by decide) hs | split | (fail_if_no_progress with_reducible apply co_set_core))
theorem co_reduce {L : List Part} {s0 : State} (i : Iss) (f : RedF) (loc : List (Pair × Nat) → Pair) (comb : Pair → Pair → Pair) (s : State) (hs : sub [.core] L = true) (hw : changesOnly L s0 s) : changesOnly L s0 (reduce i f loc comb s) := by
  unfold reduce
  repeat' (first | with_reducible (first | assumption | intro t x ht | intro t ht | apply co_redPut | apply co_foldl) | exact sub_trans (by decide) hs | split | dsimp only)
theorem co_rsumAct {L : List Part} {s0 : State} (i : Iss) (f : RedF) (sq : Nat) (s : State) (hs : sub [.core] L = true) (hw : changesOnly L s0 s) : changesOnly L s0 (rsumAct i f sq s) := by
  unfold rsumAct
  repeat' (first | with_reducible (first | assumption | intro t x ht | intro t ht | apply co_alive | apply co_reduce) | exact sub_trans (by decide) hs)
theorem co_rmaxAct {L : List Part} {s0 : State} (i : Iss) (f : RedF) (s : State) (hs : sub [.core] L = true) (hw : changesOnly L s0 s) : changesOnly L s0 (rmaxAct i f s) := by
  unfold rmaxAct
  repeat' (first | with_reducible (first | assumption | intro t x ht | intro t ht | apply co_alive | apply co_reduce) | exact sub_trans (by decide) hs | dsimp only)
theorem co_rminAct {L : List Part} {s0 : State} (i : Iss) (f : RedF) (s : State) (hs : sub [.core] L = true) (hw : changesOnly L s0 s) : changesOnly L s0 (rminAct i f s) := by
  unfold rminAct
  repeat' (first | with_reducible (first | assumption | intro t x ht | intro t ht | apply co_alive | apply co_reduce) | exact sub_trans (by decide) hs | dsimp only)
theorem co_rargAct {L : List Part} {s0 : State} (i : Iss) (f : RedF) (s : State) (hs : sub [.core] L = true) (hw : changesOnly L s0 s) : changesOnly L s0 (rargAct i f s) := by
  unfold rargAct
  repeat' (first | with_reducible (first | assumption | intro t x ht | intro t ht | apply co_alive | apply co_reduce) | exact sub_trans (by decide) hs | split | dsimp only)
theorem co_randAct {L : List Part} {s0 : State} (i : Iss) (f : RedF) (s : State) (hs : sub [.core] L = true) (hw : changesOnly L s0 s) : changesOnly L s0 (randAct i f s) := by
  unfold randAct
  repeat' (first | with_reducible (first | assumption | intro t x ht | intro t ht | apply co_alive | apply co_reduce) | exact sub_trans (by decide) hs | dsimp only)
theorem co_rorAct {L : List Part} {s0 : State} (i : Iss) (f : RedF) (s : State) (hs : sub [.core] L = true) (hw : changesOnly L s0 s) : changesOnly L s0 (rorAct i f s) := by
  unfold rorAct
  repeat' (first | with_reducible (first | assumption | intro t x ht | intro t ht | apply co_alive | apply co_reduce) | exact sub_trans (by decide) hs | dsimp only)
theorem co_rxorAct {L : List Part} {s0 : State} (i : Iss) (f : RedF) (s : State) (hs : sub [.core] L = true) (hw : changesOnly L s0 s) : changesOnly L s0 (rxorAct i f s) := by
  unfold rxorAct
  repeat' (first | with_reducible (first | assumption | intro t x ht | intro t ht | apply co_alive | apply co_reduce) | exact sub_trans (by decide) hs | dsimp only)
theorem co_rcntAct {L : List Part} {s0 : State} (i : Iss) (f : RedF) (s : State) (hs : sub [.core] L = true) (hw : changesOnly L s0 s) : changesOnly L s0 (rcntAct i f s) := by
  unfold rcntAct
  repeat' (first | with_reducible (first | assumption | intro t x ht | intro t ht | apply co_alive | apply co_reduce | apply co_foldl) | exact sub_trans (by decide) hs | dsimp only)
theorem co_redRun {L : List Part} {s0 : State} (c : Instr) (i : Iss) (act : State → State) (x0 : State) (h_act : ∀ y0, changesOnly L s0 y0 → changesOnly L s0 (act y0)) (hs : sub [.seq] L = true) (hw : changesOnly L s0 x0) : changesOnly L s0 (redRun c i act x0) := by
  unfold redRun
  repeat' (first | with_reducible (first | assumption | intro t x ht | intro t ht | apply co_enqueueOp | apply h_act) | exact sub_trans (by decide) hs | dsimp only)
/-! ### Glaze -/
theorem co_eachPos {L : List Part} {s0 : State} (i : Iss) (f : GlzF) (term : Nat → Nat → State → State) (s : State) (h_term : ∀ y0 y1 y2, changesOnly L s0 y2 → changesOnly L s0 (term y0 y1 y2)) (hw : changesOnly L s0 s) : changesOnly L s0 (eachPos i f term s) := by
  unfold eachPos
  repeat' (first | with_reducible (first | assumption | intro t x ht | intro t ht | apply h_term | apply co_foldl) | dsimp only)
theorem co_glzAct {L : List Part} {s0 : State} (i : Iss) (f : GlzF) (term : Nat → Nat → State → State) (s : State) (h_term : ∀ y0 y1 y2, changesOnly L s0 y2 → changesOnly L s0 (term y0 y1 y2)) (hs : sub [.seq, .free] L = true) (hw : changesOnly L s0 s) : changesOnly L s0 (glzAct i f term s) := by
  unfold glzAct
  repeat' (first | with_reducible (first | assumption | intro t x ht | intro t ht | apply co_alive | apply co_checkVp | apply co_eachPos | apply h_term) | exact sub_trans (by decide) hs)
theorem co_glzRun {L : List Part} {s0 : State} (c : Instr) (i : Iss) (act : State → State) (x0 : State) (h_act : ∀ y0, changesOnly L s0 y0 → changesOnly L s0 (act y0)) (hs : sub [.seq] L = true) (hw : changesOnly L s0 x0) : changesOnly L s0 (glzRun c i act x0) := by
  unfold glzRun
  repeat' (first | with_reducible (first | assumption | intro t x ht | intro t ht | apply co_enqueueOp | apply h_act) | exact sub_trans (by decide) hs | dsimp only)
theorem co_gcolAct {L : List Part} {s0 : State} (i : Iss) (f : GlzF) (s : State) (hs : sub [.core] L = true) (hw : changesOnly L s0 s) : changesOnly L s0 (gcolAct i f s) := by
  unfold gcolAct
  repeat' (first | with_reducible (first | assumption | intro t x ht | intro t ht | apply co_alive) | exact sub_trans (by decide) hs | (fail_if_no_progress with_reducible apply co_set_core) | dsimp only)
theorem co_goutAct {L : List Part} {s0 : State} (i : Iss) (f : GlzF) (s : State) (hs : sub [.core, .seq, .free] L = true) (hw : changesOnly L s0 s) : changesOnly L s0 (goutAct i f s) := by
  unfold goutAct
  repeat' (first | with_reducible (first | assumption | intro t x ht | intro t ht | apply co_glzAct | apply co_goutTile) | exact sub_trans (by decide) hs | dsimp only)
theorem co_gactAct {L : List Part} {s0 : State} (i : Iss) (f : GlzF) (s : State) (hs : sub [.core, .seq, .free] L = true) (hw : changesOnly L s0 s) : changesOnly L s0 (gactAct i f s) := by
  unfold gactAct
  repeat' (first | with_reducible (first | assumption | intro t x ht | intro t ht | apply co_glzAct | apply co_gactTile) | exact sub_trans (by decide) hs | dsimp only)
theorem co_glrAct {L : List Part} {s0 : State} (i : Iss) (f : GlzF) (s : State) (hs : sub [.core, .seq, .free] L = true) (hw : changesOnly L s0 s) : changesOnly L s0 (glrAct i f s) := by
  unfold glrAct
  repeat' (first | with_reducible (first | assumption | intro t x ht | intro t ht | apply co_alive | apply co_glrIn | apply co_glzAct | apply co_glrOut) | exact sub_trans (by decide) hs | split | dsimp only)
theorem co_glrRun {L : List Part} {s0 : State} (i : Iss) (f : GlzF) (x0 : State) (hs : sub [.core, .seq, .free] L = true) (hw : changesOnly L s0 x0) : changesOnly L s0 (glrRun i f x0) := by
  unfold glrRun
  repeat' (first | with_reducible (first | assumption | intro t x ht | intro t ht | apply co_glrAct | apply co_glzRun) | exact sub_trans (by decide) hs | split)
theorem co_gtntAll {L : List Part} {s0 : State} (i : Iss) (f : GlzF) (s : State) (hs : sub [.core, .seq, .free] L = true) (hw : changesOnly L s0 s) : changesOnly L s0 (gtntAll i f s) := by
  unfold gtntAll
  repeat' (first | with_reducible (first | assumption | intro t x ht | intro t ht | apply co_seqFaultOpen | apply co_eachPos | apply co_gtntIn | apply co_gtntOut) | exact sub_trans (by decide) hs | split | dsimp only)
theorem co_gtntAct {L : List Part} {s0 : State} (i : Iss) (f : GlzF) (s : State) (hs : sub [.core, .seq, .free] L = true) (hw : changesOnly L s0 s) : changesOnly L s0 (gtntAct i f s) := by
  unfold gtntAct
  repeat' (first | with_reducible (first | assumption | intro t x ht | intro t ht | apply co_alive | apply co_checkVp | apply co_gtntAll) | exact sub_trans (by decide) hs)
/-! ### Element -/
theorem co_elWrite {L : List Part} {s0 : State} (i : Iss) (f : ElF) (vals : List Word) (s : State) (hs : sub [.core] L = true) (hw : changesOnly L s0 s) : changesOnly L s0 (elWrite i f vals s) := by
  unfold elWrite
  repeat' (first | with_reducible (first | assumption | intro t x ht | intro t ht | apply co_foldl) | exact sub_trans (by decide) hs | (fail_if_no_progress with_reducible apply co_set_core) | dsimp only)
theorem co_elMap {L : List Part} {s0 : State} (i : Iss) (f : ElF) (g : Nat → Word → Word) (s : State) (hs : sub [.core] L = true) (hw : changesOnly L s0 s) : changesOnly L s0 (elMap i f g s) := by
  unfold elMap
  repeat' (first | with_reducible (first | assumption | intro t x ht | intro t ht | apply co_elWrite) | exact sub_trans (by decide) hs | dsimp only)
theorem co_elRun {L : List Part} {s0 : State} (c : Instr) (i : Iss) (act : State → State) (x0 : State) (h_act : ∀ y0, changesOnly L s0 y0 → changesOnly L s0 (act y0)) (hs : sub [.seq] L = true) (hw : changesOnly L s0 x0) : changesOnly L s0 (elRun c i act x0) := by
  unfold elRun
  repeat' (first | with_reducible (first | assumption | intro t x ht | intro t ht | apply co_enqueueOp | apply h_act) | exact sub_trans (by decide) hs | dsimp only)
theorem co_enormAct {L : List Part} {s0 : State} (i : Iss) (f : ElF) (sr lix : Nat) (s : State) (hs : sub [.core] L = true) (hw : changesOnly L s0 s) : changesOnly L s0 (enormAct i f sr lix s) := by
  unfold enormAct
  repeat' (first | with_reducible (first | assumption | intro t x ht | intro t ht | apply co_alive | apply co_elMap) | exact sub_trans (by decide) hs | dsimp only)
theorem co_eactAct {L : List Part} {s0 : State} (i : Iss) (f : ElF) (fn : Nat) (s : State) (hs : sub [.core] L = true) (hw : changesOnly L s0 s) : changesOnly L s0 (eactAct i f fn s) := by
  unfold eactAct
  repeat' (first | with_reducible (first | assumption | intro t x ht | intro t ht | apply co_alive | apply co_elMap) | exact sub_trans (by decide) hs | dsimp only)
theorem co_elZip {L : List Part} {s0 : State} (i : Iss) (f : ElF) (srcb : Nat) (g : Word → Word → Word) (s : State) (hs : sub [.core] L = true) (hw : changesOnly L s0 s) : changesOnly L s0 (elZip i f srcb g s) := by
  unfold elZip
  repeat' (first | with_reducible (first | assumption | intro t x ht | intro t ht | apply co_alive | apply co_elMap) | exact sub_trans (by decide) hs | dsimp only)
theorem co_emulAct {L : List Part} {s0 : State} (i : Iss) (f : ElF) (srcb : Nat) (s : State) (hs : sub [.core] L = true) (hw : changesOnly L s0 s) : changesOnly L s0 (emulAct i f srcb s) := by
  unfold emulAct
  repeat' (first | with_reducible (first | assumption | intro t x ht | intro t ht | apply co_elZip) | exact sub_trans (by decide) hs)
theorem co_eaddAct {L : List Part} {s0 : State} (i : Iss) (f : ElF) (srcb : Nat) (s : State) (hs : sub [.core] L = true) (hw : changesOnly L s0 s) : changesOnly L s0 (eaddAct i f srcb s) := by
  unfold eaddAct
  repeat' (first | with_reducible (first | assumption | intro t x ht | intro t ht | apply co_elZip) | exact sub_trans (by decide) hs)
theorem co_erotAct {L : List Part} {s0 : State} (i : Iss) (f : ElF) (fid pair : Nat) (s : State) (hs : sub [.core] L = true) (hw : changesOnly L s0 s) : changesOnly L s0 (erotAct i f fid pair s) := by
  unfold erotAct
  repeat' (first | with_reducible (first | assumption | intro t x ht | intro t ht | apply co_alive | apply co_elMap) | exact sub_trans (by decide) hs | split | dsimp only)
theorem co_ecvtAll {L : List Part} {s0 : State} (i : Iss) (f : EcvtF) (s : State) (hs : sub [.core, .glz] L = true) (hw : changesOnly L s0 s) : changesOnly L s0 (ecvtAll i f s) := by
  unfold ecvtAll
  repeat' (first | with_reducible (first | assumption | intro t x ht | intro t ht | apply co_foldl) | exact sub_trans (by decide) hs | split | (fail_if_no_progress with_reducible apply co_set_core_glz) | dsimp only)
theorem co_ecvtAct {L : List Part} {s0 : State} (i : Iss) (f : EcvtF) (s : State) (hs : sub [.core, .glz] L = true) (hw : changesOnly L s0 s) : changesOnly L s0 (ecvtAct i f s) := by
  unfold ecvtAct
  repeat' (first | with_reducible (first | assumption | intro t x ht | intro t ht | apply co_alive | apply co_ecvtAll) | exact sub_trans (by decide) hs)

end Sys2Proof.Machine
end

