-- ==== Sys2Proof/Laws/TouchMove.lean ====
section
/-! SUPPORT. Which parts of the state change: moves, tokens, replay and attention operations. `co_f` says that `f` changes no part outside its list. -/

namespace Sys2Proof.Machine

/-! ### Move -/
theorem co_setSpaceMem {L : List Part} {s0 : State} (space : Nat) (m : Mem) (s : State) (hs : sub [.core] L = true) (hw : changesOnly L s0 s) : changesOnly L s0 (setSpaceMem space m s) := by
  unfold setSpaceMem
  repeat' (first | with_reducible (first | assumption | intro t x ht | intro t ht) | exact sub_trans (by decide) hs | split | (fail_if_no_progress with_reducible apply co_set_core))
theorem co_setProv {L : List Part} {s0 : State} (core a : Nat) (ps : List (Nat × Nat × Nat × Nat)) (s : State) (hs : sub [.core] L = true) (hw : changesOnly L s0 s) : changesOnly L s0 (setProv core a ps s) := by
  unfold setProv
  repeat' (first | with_reducible (first | assumption | intro t x ht | intro t ht | apply co_foldl) | exact sub_trans (by decide) hs | (fail_if_no_progress with_reducible apply co_set_core) | dsimp only)
theorem co_mvbAll {L : List Part} {s0 : State} (i : Iss) (ssp dsp saddr daddr len ty : Nat) (s : State) (hs : sub [.core] L = true) (hw : changesOnly L s0 s) : changesOnly L s0 (mvbAll i ssp dsp saddr daddr len ty s) := by
  unfold mvbAll
  repeat' (first | with_reducible (first | assumption | intro t x ht | intro t ht | apply co_setSpaceMem | apply co_setProv) | exact sub_trans (by decide) hs | split | dsimp only)
theorem co_mvbAct {L : List Part} {s0 : State} (i : Iss) (ssp dsp saddr daddr len ty : Nat) (s : State) (hs : sub [.core] L = true) (hw : changesOnly L s0 s) : changesOnly L s0 (mvbAct i ssp dsp saddr daddr len ty s) := by
  unfold mvbAct
  repeat' (first | with_reducible (first | assumption | intro t x ht | intro t ht | apply co_alive | apply co_mvbAll) | exact sub_trans (by decide) hs)
theorem co_sendXfer {L : List Part} {s0 : State} (sid dst space addr cred : Nat) (kill : Bool) (layer : Nat) (bytes : List Byte) (prov : List (Nat × Nat × Nat × Nat)) (s : State) (hs : sub [.seq] L = true) (hw : changesOnly L s0 s) : changesOnly L s0 (sendXfer sid dst space addr cred kill layer bytes prov s) := by
  unfold sendXfer
  repeat' (first | with_reducible (first | assumption | intro t x ht | intro t ht) | exact sub_trans (by decide) hs | (fail_if_no_progress with_reducible apply co_set_seq) | dsimp only)
theorem co_mvfAct {L : List Part} {s0 : State} (i : Iss) (ssp saddr route len ty : Nat) (s : State) (hs : sub [.seq] L = true) (hw : changesOnly L s0 s) : changesOnly L s0 (mvfAct i ssp saddr route len ty s) := by
  unfold mvfAct
  repeat' (first | with_reducible (first | assumption | intro t x ht | intro t ht | apply co_sendXfer) | exact sub_trans (by decide) hs | split | dsimp only)
theorem co_mvkAll {L : List Part} {s0 : State} (i : Iss) (ssp saddr layer kind vp : Nat) (s : State) (hs : sub [.seq, .free] L = true) (hw : changesOnly L s0 s) : changesOnly L s0 (mvkAll i ssp saddr layer kind vp s) := by
  unfold mvkAll
  repeat' (first | with_reducible (first | assumption | intro t x ht | intro t ht | apply co_draw | apply co_sendXfer | apply co_foldl) | exact sub_trans (by decide) hs | split | (rename_i he; have hd := congrArg Prod.snd he; dsimp only at hd; subst hd) | dsimp only)
theorem co_mvkAct {L : List Part} {s0 : State} (i : Iss) (ssp saddr layer kind vp : Nat) (s : State) (hs : sub [.seq, .free] L = true) (hw : changesOnly L s0 s) : changesOnly L s0 (mvkAct i ssp saddr layer kind vp s) := by
  unfold mvkAct
  repeat' (first | with_reducible (first | assumption | intro t x ht | intro t ht | apply co_alive | apply co_checkVp | apply co_mvkAll) | exact sub_trans (by decide) hs)
theorem co_mckAll {L : List Part} {s0 : State} (i : Iss) (ssp saddr len lix : Nat) (s : State) (hs : sub [.core] L = true) (hw : changesOnly L s0 s) : changesOnly L s0 (mckAll i ssp saddr len lix s) := by
  unfold mckAll
  repeat' (first | with_reducible (first | assumption | intro t x ht | intro t ht) | exact sub_trans (by decide) hs | (fail_if_no_progress with_reducible apply co_set_core) | dsimp only)
theorem co_mckAct {L : List Part} {s0 : State} (i : Iss) (ssp saddr len lix : Nat) (s : State) (hs : sub [.core] L = true) (hw : changesOnly L s0 s) : changesOnly L s0 (mckAct i ssp saddr len lix s) := by
  unfold mckAct
  repeat' (first | with_reducible (first | assumption | intro t x ht | intro t ht | apply co_alive | apply co_mckAll) | exact sub_trans (by decide) hs)
theorem co_addCredit {L : List Part} {s0 : State} (sid ch n : Nat) (s : State) (hs : sub [.seq, .free] L = true) (hw : changesOnly L s0 s) : changesOnly L s0 (addCredit sid ch n s) := by
  unfold addCredit
  repeat' (first | with_reducible (first | assumption | intro t x ht | intro t ht | apply co_seqFaultOpen | apply co_modSeq) | exact sub_trans (by decide) hs | split | dsimp only)
theorem co_tryWait {L : List Part} {s0 : State} (sid : Nat) (s : State) (hs : sub [.seq] L = true) (hw : changesOnly L s0 s) : changesOnly L s0 (tryWait sid s) := by
  unfold tryWait
  repeat' (first | with_reducible (first | assumption | intro t x ht | intro t ht | apply co_modSeq) | exact sub_trans (by decide) hs | split | dsimp only)
theorem co_landXfer {L : List Part} {s0 : State} (x : Xfer) (s : State) (hs : sub [.core, .seq, .free] L = true) (hw : changesOnly L s0 s) : changesOnly L s0 (landXfer x s) := by
  unfold landXfer
  repeat' (first | with_reducible (first | assumption | intro t x ht | intro t ht | apply co_setSpaceMem | apply co_setProv | apply co_tryWait | apply co_addCredit) | exact sub_trans (by decide) hs | split | (fail_if_no_progress with_reducible apply co_set_core) | dsimp only)
theorem co_deliver {L : List Part} {s0 : State} (x0 : Xfer) (s : State) (hs : sub [.core, .seq, .free] L = true) (hw : changesOnly L s0 s) : changesOnly L s0 (deliver x0 s) := by
  unfold deliver
  repeat' (first | with_reducible (first | assumption | intro t x ht | intro t ht | apply co_landXfer) | exact sub_trans (by decide) hs | split | (fail_if_no_progress with_reducible apply co_set_seq) | dsimp only)
/-! ### Sync -/
theorem co_killLane {L : List Part} {s0 : State} (lane : Nat) (s : State) (hs : sub [.seq, .sch] L = true) (hw : changesOnly L s0 s) : changesOnly L s0 (killLane lane s) := by
  unfold killLane
  repeat' (first | with_reducible (first | assumption | intro t x ht | intro t ht | apply co_schedToAll | apply co_modCur) | exact sub_trans (by decide) hs | split | dsimp only)
theorem co_twaitOp {L : List Part} {s0 : State} (sid ch count : Nat) (s : State) (hs : sub [.seq] L = true) (hw : changesOnly L s0 s) : changesOnly L s0 (twaitOp sid ch count s) := by
  unfold twaitOp
  repeat' (first | with_reducible (first | assumption | intro t x ht | intro t ht | apply co_tryWait | apply co_modSeq) | exact sub_trans (by decide) hs | dsimp only)
theorem co_twaitAct {L : List Part} {s0 : State} (i : Iss) (tch count : Nat) (s : State) (hs : sub [.seq] L = true) (hw : changesOnly L s0 s) :
    changesOnly L s0 (twaitAct i tch count s) := by
  unfold twaitAct
  split
  · exact hw
  · exact co_twaitOp (hs := hs) (hw := hw) ..
theorem co_tsendOp {L : List Part} {s0 : State} (sid tch : Nat) (s : State) (hs : sub [.seq] L = true) (hw : changesOnly L s0 s) : changesOnly L s0 (tsendOp sid tch s) := by
  unfold tsendOp
  repeat' (first | with_reducible (first | assumption | intro t x ht | intro t ht | apply co_sendToken | apply co_foldl) | exact sub_trans (by decide) hs | dsimp only)
theorem co_credOp {L : List Part} {s0 : State} (sid cch op n : Nat) (s : State) (hs : sub [.seq] L = true) (hw : changesOnly L s0 s) : changesOnly L s0 (credOp sid cch op n s) := by
  unfold credOp
  repeat' (first | with_reducible (first | assumption | intro t x ht | intro t ht | apply co_tryWait | apply co_modSeq | apply co_sendToken | apply co_foldl) | exact sub_trans (by decide) hs | split | dsimp only)
theorem co_setVar {L : List Part} {s0 : State} (key seg : Nat) (r : Word) (s : State) (hs : sub [.glz] L = true) (hw : changesOnly L s0 s) : changesOnly L s0 (setVar key seg r s) := by
  unfold setVar
  repeat' (first | with_reducible (first | assumption | intro t x ht | intro t ht) | exact sub_trans (by decide) hs | (fail_if_no_progress with_reducible apply co_set_glz))
theorem co_d16Failed {L : List Part} {s0 : State} (sid eid seg key : Nat) (e : Envelope) (fin : Bool) (lane : Option Lane) (s : State) (hs : sub [.glz, .seq, .sch, .req, .ptn, .net, .evr] L = true) (hw : changesOnly L s0 s) : changesOnly L s0 (d16Failed sid eid seg key e fin lane s) := by
  unfold d16Failed
  repeat' (first | with_reducible (first | assumption | intro t x ht | intro t ht | apply co_fireArg | apply co_raise | apply co_modEntry | apply co_killLane) | exact sub_trans (by decide) hs | split | (fail_if_no_progress with_reducible apply co_set_glz) | dsimp only)
theorem co_chkAll {L : List Part} {s0 : State} (i : Iss) (tile vp eid : Nat) (s : State) (hs : sub [.glz, .seq, .sch, .req, .ptn, .net, .evr] L = true) (hw : changesOnly L s0 s) : changesOnly L s0 (chkAll i tile vp eid s) := by
  unfold chkAll
  repeat' (first | with_reducible (first | assumption | intro t x ht | intro t ht | apply co_setVar | apply co_openSeg | apply co_d16Failed | apply co_modSeq) | exact sub_trans (by decide) hs | split | (rename_i he; have hd := congrArg Prod.snd he; dsimp only at hd; subst hd) | dsimp only)
theorem co_chkAct {L : List Part} {s0 : State} (i : Iss) (tile vp eid : Nat) (s : State) (hs : sub [.glz, .seq, .sch, .req, .ptn, .net, .evr, .free] L = true) (hw : changesOnly L s0 s) : changesOnly L s0 (chkAct i tile vp eid s) := by
  unfold chkAct
  repeat' (first | with_reducible (first | assumption | intro t x ht | intro t ht | apply co_alive | apply co_checkVp | apply co_chkAll) | exact sub_trans (by decide) hs)
theorem co_csumEng {L : List Part} {s0 : State} (i : Iss) (fx ntr : Nat) (s : State) (e : Nat) (hs : sub [.seq] L = true) (hw : changesOnly L s0 s) : changesOnly L s0 (csumEng i fx ntr s e) := by
  unfold csumEng
  repeat' (first | with_reducible (first | assumption | intro t x ht | intro t ht | apply co_modSeq) | exact sub_trans (by decide) hs | split | dsimp only)
theorem co_csumAct {L : List Part} {s0 : State} (i : Iss) (emask ntr fx : Nat) (s : State) (hs : sub [.seq] L = true) (hw : changesOnly L s0 s) : changesOnly L s0 (csumAct i emask ntr fx s) := by
  unfold csumAct
  repeat' (first | with_reducible (first | assumption | intro t x ht | intro t ht | apply co_alive | apply co_csumEng | apply co_foldl) | exact sub_trans (by decide) hs | dsimp only)
theorem co_csumRun {L : List Part} {s0 : State} (i : Iss) (emask ntr : Nat) (s : State) (hs : sub [.seq] L = true) (hw : changesOnly L s0 s) : changesOnly L s0 (csumRun i emask ntr s) := by
  unfold csumRun
  repeat' (first | with_reducible (first | assumption | intro t x ht | intro t ht | apply co_enqueueOp | apply co_csumAct | apply co_alive | apply co_openSeg) | exact sub_trans (by decide) hs | dsimp only)
theorem co_closeSeg {L : List Part} {s0 : State} (i : Iss) (s : State) (hs : sub [.seq] L = true) (hw : changesOnly L s0 s) : changesOnly L s0 (closeSeg i s) := by
  unfold closeSeg
  repeat' (first | with_reducible (first | assumption | intro t x ht | intro t ht | apply co_modSeq) | exact sub_trans (by decide) hs | dsimp only)
theorem co_stepOp {L : List Part} {s0 : State} (i : Iss) (s : State) (hs : sub [.seq] L = true) (hw : changesOnly L s0 s) : changesOnly L s0 (stepOp i s) := by
  unfold stepOp
  repeat' (first | with_reducible (first | assumption | intro t x ht | intro t ht | apply co_closeSeg | apply co_sendToken | apply co_modSeq) | exact sub_trans (by decide) hs | split | dsimp only)
theorem co_rplwAct {L : List Part} {s0 : State} (i : Iss) (close : Nat) (s : State) (hs : sub [.seq] L = true) (hw : changesOnly L s0 s) : changesOnly L s0 (rplwAct i close s) := by
  unfold rplwAct
  repeat' (first | with_reducible (first | assumption | intro t x ht | intro t ht | apply co_modSeq) | exact sub_trans (by decide) hs | split | dsimp only)
/-! ### Replay -/
theorem co_countD16 {L : List Part} {s0 : State} (canvas n : Nat) (s : State) (hs : sub [.cnv] L = true) (hw : changesOnly L s0 s) : changesOnly L s0 (countD16 canvas n s) := by
  unfold countD16
  repeat' (first | with_reducible (first | assumption | intro t x ht | intro t ht | apply co_modCnv) | exact sub_trans (by decide) hs | dsimp only)
theorem co_finishInPlace {L : List Part} {s0 : State} (sid : Nat) (rs : List Replay) (s : State) (hs : sub [.seq, .sch, .cnv, .ptn, .net, .hist, .sec, .evr, .dev] L = true) (hw : changesOnly L s0 s) : changesOnly L s0 (finishInPlace sid rs s) := by
  unfold finishInPlace
  repeat' (first | with_reducible (first | assumption | intro t x ht | intro t ht | apply co_recordFault | apply co_countD16 | apply co_modSeq | apply co_fire | apply co_foldl) | exact sub_trans (by decide) hs | dsimp only)
theorem co_classReplay {L : List Part} {s0 : State} (x : StrokeFlags) (s : State) (hs : sub [.seq, .sch, .cnv, .ptn, .net, .hist, .sec, .evr, .dev] L = true) (hw : changesOnly L s0 s) : changesOnly L s0 (classReplay x s) := by
  unfold classReplay
  repeat' (first | with_reducible (first | assumption | intro t x ht | intro t ht | apply co_recordFault | apply co_foldl) | exact sub_trans (by decide) hs | dsimp only)
theorem co_failReplays {L : List Part} {s0 : State} (sid : Nat) (again : List StrokeFlags) (s : State) (hs : sub [.arr, .seq, .cnv] L = true) (hw : changesOnly L s0 s) : changesOnly L s0 (failReplays sid again s) := by
  unfold failReplays
  repeat' (first | with_reducible (first | assumption | intro t x ht | intro t ht | apply co_modSeq | apply co_countD16) | exact sub_trans (by decide) hs | (fail_if_no_progress with_reducible apply co_set_arr) | dsimp only)
theorem co_buildEntries {L : List Part} {s0 : State} (sid seg : Nat) (xs : List StrokeFlags) (s : State) (hs : sub [.arr, .seq, .sch, .cnv, .ptn, .net, .hist, .cal, .sec, .evr, .dev] L = true) (hw : changesOnly L s0 s) : changesOnly L s0 (buildEntries sid seg xs s) := by
  unfold buildEntries
  repeat' (first | with_reducible (first | assumption | intro t x ht | intro t ht | apply co_failReplays | apply co_classReplay | apply co_finishInPlace | apply co_modSeq | apply co_fire | apply co_modCur | apply co_foldl) | exact sub_trans (by decide) hs | split | (rename_i he; have hd := congrArg Prod.snd he; dsimp only at hd; subst hd) | dsimp only)
theorem co_sendRetract {L : List Part} {s0 : State} (sid seg flags : Nat) (s : State) (hs : sub [.seq] L = true) (hw : changesOnly L s0 s) : changesOnly L s0 (sendRetract sid seg flags s) := by
  unfold sendRetract
  repeat' (first | with_reducible (first | assumption | intro t x ht | intro t ht | apply co_sendToken | apply co_foldl) | exact sub_trans (by decide) hs | split | dsimp only)
theorem co_reportEnv {L : List Part} {s0 : State} (sid : Nat) (tiles : List (Nat × Nat)) (s : State) (hs : sub [.sch] L = true) (hw : changesOnly L s0 s) : changesOnly L s0 (reportEnv sid tiles s) := by
  unfold reportEnv
  repeat' (first | with_reducible (first | assumption | intro t x ht | intro t ht | apply co_modCur) | exact sub_trans (by decide) hs | dsimp only)
theorem co_closeFlags {L : List Part} {s0 : State} (sid flagIx : Nat) (s : State) (hs : sub [.arr, .seq, .sch, .cnv, .ptn, .net, .hist, .cal, .sec, .evr, .dev] L = true) (hw : changesOnly L s0 s) : changesOnly L s0 (closeFlags sid flagIx s) := by
  unfold closeFlags
  repeat' (first | with_reducible (first | assumption | intro t x ht | intro t ht | apply co_modSeq | apply co_sendToken | apply co_buildEntries | apply co_sendRetract | apply co_reportEnv | apply co_foldl) | exact sub_trans (by decide) hs | split | dsimp only)
theorem co_reloadTile {L : List Part} {s0 : State} (r : Replay) (t : Tile) (tin : TileIn) (s : State) (hs : sub [.core] L = true) (hw : changesOnly L s0 s) : changesOnly L s0 (reloadTile r t tin s) := by
  unfold reloadTile
  repeat' (first | with_reducible (first | assumption | intro t x ht | intro t ht) | exact sub_trans (by decide) hs | (fail_if_no_progress with_reducible apply co_set_core))
theorem co_runEntry {L : List Part} {s0 : State} (i : Iss) (r : Replay) (s : State) (hs : sub [.arr, .core, .seq, .free] L = true) (hw : changesOnly L s0 s) : changesOnly L s0 (runEntry i r s) := by
  unfold runEntry
  repeat' (first | with_reducible (first | assumption | intro t x ht | intro t ht | apply co_reloadTile | apply co_enqueueStroke | apply co_openSeg | apply co_glrStroke | apply co_foldl) | exact sub_trans (by decide) hs | split | (fail_if_no_progress with_reducible apply co_set_free) | dsimp only)
theorem co_replaySlotAct {L : List Part} {s0 : State} (i : Iss) (s : State) (hs : sub [.arr, .core, .seq, .free] L = true) (hw : changesOnly L s0 s) : changesOnly L s0 (replaySlotAct i s) := by
  unfold replaySlotAct
  repeat' (first | with_reducible (first | assumption | intro t x ht | intro t ht | apply co_modSeq | apply co_runEntry) | exact sub_trans (by decide) hs | split | dsimp only)
/-! ### Head -/
theorem co_setVerdict {L : List Part} {s0 : State} (v : Verdict) (s : State) (hs : sub [.sch] L = true) (hw : changesOnly L s0 s) : changesOnly L s0 (setVerdict v s) := by
  unfold setVerdict
  repeat' (first | with_reducible (first | assumption | intro t x ht | intro t ht | apply co_modCur) | exact sub_trans (by decide) hs | dsimp only)
theorem co_sampAll {L : List Part} {s0 : State} (laddr pos : Nat) (l : Lane) (s : State) (hs : sub [.sch] L = true) (hw : changesOnly L s0 s) : changesOnly L s0 (sampAll laddr pos l s) := by
  unfold sampAll
  repeat' (first | with_reducible (first | assumption | intro t x ht | intro t ht | apply co_setVerdict) | exact sub_trans (by decide) hs | dsimp only)
theorem co_sampAct {L : List Part} {s0 : State} (i : Iss) (laddr pos : Nat) (s : State) (hs : sub [.sch] L = true) (hw : changesOnly L s0 s) : changesOnly L s0 (sampAct i laddr pos s) := by
  unfold sampAct
  repeat' (first | with_reducible (first | assumption | intro t x ht | intro t ht | apply co_laneOp | apply co_sampAll) | exact sub_trans (by decide) hs)
theorem co_vrfyAll {L : List Part} {s0 : State} (i : Iss) (laddr daddr : Nat) (l : Lane) (s : State) (hs : sub [.core, .seq, .sch, .free] L = true) (hw : changesOnly L s0 s) : changesOnly L s0 (vrfyAll i laddr daddr l s) := by
  unfold vrfyAll
  repeat' (first | with_reducible (first | assumption | intro t x ht | intro t ht | apply co_checkWidth | apply co_setVerdict) | exact sub_trans (by decide) hs | split | (rename_i he; have hd := congrArg Prod.snd he; dsimp only at hd; subst hd) | (fail_if_no_progress with_reducible apply co_set_core) | dsimp only)
theorem co_vrfyAct {L : List Part} {s0 : State} (i : Iss) (laddr daddr tree : Nat) (s : State) (hs : sub [.core, .seq, .sch, .free] L = true) (hw : changesOnly L s0 s) : changesOnly L s0 (vrfyAct i laddr daddr tree s) := by
  unfold vrfyAct
  repeat' (first | with_reducible (first | assumption | intro t x ht | intro t ht | apply co_laneOp | apply co_vrfyAll) | exact sub_trans (by decide) hs | dsimp only)
theorem co_skdrAll {L : List Part} {s0 : State} (i : Iss) (nprop tree daddr : Nat) (cands : List (List (Nat × Word))) (l : Lane) (s : State) (hs : sub [.core, .head] L = true) (hw : changesOnly L s0 s) : changesOnly L s0 (skdrAll i nprop tree daddr cands l s) := by
  unfold skdrAll
  repeat' (first | with_reducible (first | assumption | intro t x ht | intro t ht) | exact sub_trans (by decide) hs | split | (fail_if_no_progress with_reducible apply co_set_core_head) | dsimp only)
theorem co_skdrAct {L : List Part} {s0 : State} (i : Iss) (nprop tree daddr : Nat) (cands : List (List (Nat × Word))) (s : State) (hs : sub [.core, .head] L = true) (hw : changesOnly L s0 s) : changesOnly L s0 (skdrAct i nprop tree daddr cands s) := by
  unfold skdrAct
  repeat' (first | with_reducible (first | assumption | intro t x ht | intro t ht | apply co_laneOp | apply co_skdrAll) | exact sub_trans (by decide) hs)
/-! ### Kv -/
theorem co_touchWalk {L : List Part} {s0 : State} (cl root layer j : Nat) (s : State) (hs : sub [.kv] L = true) (hw : changesOnly L s0 s) : changesOnly L s0 (touchWalk cl root layer j s) := by
  unfold touchWalk
  repeat' (first | with_reducible (first | assumption | intro t x ht | intro t ht) | exact sub_trans (by decide) hs | (fail_if_no_progress with_reducible apply co_set_kv) | dsimp only)
theorem co_nearAll {L : List Part} {s0 : State} (frame off : Nat) (bs : List Byte) (s : State) (hs : sub [.kv] L = true) (hw : changesOnly L s0 s) : changesOnly L s0 (nearAll frame off bs s) := by
  unfold nearAll
  repeat' (first | with_reducible (first | assumption | intro t x ht | intro t ht | apply co_foldl) | exact sub_trans (by decide) hs | (fail_if_no_progress with_reducible apply co_set_kv) | dsimp only)
theorem co_setFill {L : List Part} {s0 : State} (p : Leaf) (v : Nat) (s : State) (hs : sub [.kv] L = true) (hw : changesOnly L s0 s) : changesOnly L s0 (setFill p v s) := by
  unfold setFill
  repeat' (first | with_reducible (first | assumption | intro t x ht | intro t ht) | exact sub_trans (by decide) hs | (fail_if_no_progress with_reducible apply co_set_kv))
theorem co_markPoison {L : List Part} {s0 : State} (ptn root layer j : Nat) (s : State) (hs : sub [.kv] L = true) (hw : changesOnly L s0 s) : changesOnly L s0 (markPoison ptn root layer j s) := by
  unfold markPoison
  repeat' (first | with_reducible (first | assumption | intro t x ht | intro t ht | apply co_foldl) | exact sub_trans (by decide) hs | split | (fail_if_no_progress with_reducible apply co_set_kv) | dsimp only)
theorem co_copySlot {L : List Part} {s0 : State} (n : Nat) (src dst : Leaf) (ts td : Nat) (s : State) (hs : sub [.kv] L = true) (hw : changesOnly L s0 s) : changesOnly L s0 (copySlot n src dst ts td s) := by
  unfold copySlot
  repeat' (first | with_reducible (first | assumption | intro t x ht | intro t ht | apply co_foldl) | exact sub_trans (by decide) hs | split | (fail_if_no_progress with_reducible apply co_set_kv) | dsimp only)
theorem co_moveNode {L : List Part} {s0 : State} (l : Lane) (layer node d : Nat) (s : State) (hs : sub [.kv] L = true) (hw : changesOnly L s0 s) : changesOnly L s0 (moveNode l layer node d s) := by
  unfold moveNode
  repeat' (first | with_reducible (first | assumption | intro t x ht | intro t ht | apply co_copySlot | apply co_foldl) | exact sub_trans (by decide) hs | split | dsimp only)
theorem co_fillPage {L : List Part} {s0 : State} (l : Lane) (upto n layer j : Nat) (s : State) (hs : sub [.kv] L = true) (hw : changesOnly L s0 s) : changesOnly L s0 (fillPage l upto n layer j s) := by
  unfold fillPage
  repeat' (first | with_reducible (first | assumption | intro t x ht | intro t ht | apply co_setFill) | exact sub_trans (by decide) hs | split)
/-! ### Attention -/
theorem co_noteAccess {L : List Part} {s0 : State} (sid lane layer j : Nat) (s : State) (hs : sub [.seq] L = true) (hw : changesOnly L s0 s) : changesOnly L s0 (noteAccess sid lane layer j s) := by
  unfold noteAccess
  repeat' (first | with_reducible (first | assumption | intro t x ht | intro t ht | apply co_modSeq) | exact sub_trans (by decide) hs | dsimp only)
theorem co_walkFault {L : List Part} {s0 : State} (sid cause : Nat) (l : Lane) (layer j : Nat) (s : State) (hs : sub [.seq] L = true) (hw : changesOnly L s0 s) : changesOnly L s0 (walkFault sid cause l layer j s) := by
  unfold walkFault
  repeat' (first | with_reducible (first | assumption | intro t x ht | intro t ht | apply co_seqFault | apply co_noteAccess) | exact sub_trans (by decide) hs)
theorem co_issuePages {L : List Part} {s0 : State} (sid : Nat) (l : Lane) (layer mask : Nat) (k : List (Nat × Leaf) → State → State) (s : State) (h_k : ∀ y0 y1, changesOnly L s0 y1 → changesOnly L s0 (k y0 y1)) (hs : sub [.seq, .kv, .free] L = true) (hw : changesOnly L s0 s) : changesOnly L s0 (issuePages sid l layer mask k s) := by
  unfold issuePages
  repeat' (first | with_reducible (first | assumption | intro t x ht | intro t ht | apply co_seqFaultOpen | apply co_seqFault | apply co_walkFault | apply co_touchWalk | apply co_noteAccess | apply h_k | apply co_foldl) | exact sub_trans (by decide) hs | split | dsimp only)
theorem co_prefetchNext {L : List Part} {s0 : State} (sid : Nat) (l : Lane) (layer : Nat) (s : State) (hs : sub [.kv] L = true) (hw : changesOnly L s0 s) : changesOnly L s0 (prefetchNext sid l layer s) := by
  unfold prefetchNext
  repeat' (first | with_reducible (first | assumption | intro t x ht | intro t ht | apply co_touchWalk | apply co_foldl) | exact sub_trans (by decide) hs | split | dsimp only)
theorem co_scoreAll {L : List Part} {s0 : State} (i : Iss) (kvh layer qaddr sbuf mask nqh : Nat) (l : Lane) (s : State) (hs : sub [.seq, .kv, .free] L = true) (hw : changesOnly L s0 s) : changesOnly L s0 (scoreAll i kvh layer qaddr sbuf mask nqh l s) := by
  unfold scoreAll
  repeat' (first | with_reducible (first | assumption | intro t x ht | intro t ht | apply co_issuePages | apply co_seqFault | apply co_prefetchNext) | exact sub_trans (by decide) hs | split | (fail_if_no_progress with_reducible apply co_set_kv) | dsimp only)
theorem co_scoreAct {L : List Part} {s0 : State} (i : Iss) (kvh layer qaddr sbuf mask nqh : Nat) (s : State) (hs : sub [.seq, .kv, .free] L = true) (hw : changesOnly L s0 s) : changesOnly L s0 (scoreAct i kvh layer qaddr sbuf mask nqh s) := by
  unfold scoreAct
  repeat' (first | with_reducible (first | assumption | intro t x ht | intro t ht | apply co_laneOp | apply co_scoreAll) | exact sub_trans (by decide) hs)
theorem co_snormRow {L : List Part} {s0 : State} (i : Iss) (sbuf paddr rows : Nat) (s : State) (r : Nat) (hs : sub [.core, .kv] L = true) (hw : changesOnly L s0 s) : changesOnly L s0 (snormRow i sbuf paddr rows s r) := by
  unfold snormRow
  repeat' (first | with_reducible (first | assumption | intro t x ht | intro t ht) | exact sub_trans (by decide) hs | split | (rename_i he; have hd := congrArg Prod.snd he; dsimp only at hd; subst hd) | (fail_if_no_progress with_reducible apply co_set_core_kv) | dsimp only)
theorem co_countBound {L : List Part} {s0 : State} (i : Iss) (sbuf rows : Nat) (l : Lane) (s : State) (hs : sub [.glz] L = true) (hw : changesOnly L s0 s) : changesOnly L s0 (countBound i sbuf rows l s) := by
  unfold countBound
  repeat' (first | with_reducible (first | assumption | intro t x ht | intro t ht) | exact sub_trans (by decide) hs | split | (fail_if_no_progress with_reducible apply co_set_glz) | dsimp only)
theorem co_snormAll {L : List Part} {s0 : State} (i : Iss) (sbuf paddr nqh : Nat) (l : Lane) (s : State) (hs : sub [.core, .glz, .kv] L = true) (hw : changesOnly L s0 s) : changesOnly L s0 (snormAll i sbuf paddr nqh l s) := by
  unfold snormAll
  repeat' (first | with_reducible (first | assumption | intro t x ht | intro t ht | apply co_snormRow | apply co_countBound | apply co_foldl) | exact sub_trans (by decide) hs)
theorem co_snormAct {L : List Part} {s0 : State} (i : Iss) (sbuf paddr nqh : Nat) (s : State) (hs : sub [.core, .glz, .kv] L = true) (hw : changesOnly L s0 s) : changesOnly L s0 (snormAct i sbuf paddr nqh s) := by
  unfold snormAct
  repeat' (first | with_reducible (first | assumption | intro t x ht | intro t ht | apply co_laneOp | apply co_snormAll) | exact sub_trans (by decide) hs)
theorem co_smixAll {L : List Part} {s0 : State} (i : Iss) (kvh layer paddr oaddr mask nqh : Nat) (l : Lane) (s : State) (hs : sub [.core, .seq, .kv, .free] L = true) (hw : changesOnly L s0 s) : changesOnly L s0 (smixAll i kvh layer paddr oaddr mask nqh l s) := by
  unfold smixAll
  repeat' (first | with_reducible (first | assumption | intro t x ht | intro t ht | apply co_issuePages) | exact sub_trans (by decide) hs | (fail_if_no_progress with_reducible apply co_set_core) | dsimp only)
theorem co_smixAct {L : List Part} {s0 : State} (i : Iss) (kvh layer paddr oaddr mask nqh : Nat) (s : State) (hs : sub [.core, .seq, .kv, .free] L = true) (hw : changesOnly L s0 s) : changesOnly L s0 (smixAct i kvh layer paddr oaddr mask nqh s) := by
  unfold smixAct
  repeat' (first | with_reducible (first | assumption | intro t x ht | intro t ht | apply co_laneOp | apply co_smixAll) | exact sub_trans (by decide) hs)
theorem co_setScales {L : List Part} {s0 : State} (sid kvh kaddr layer j : Nat) (l : Lane) (p : Leaf) (ps : List Nat) (s : State) (hs : sub [.kv] L = true) (hw : changesOnly L s0 s) : changesOnly L s0 (setScales sid kvh kaddr layer j l p ps s) := by
  unfold setScales
  repeat' (first | with_reducible (first | assumption | intro t x ht | intro t ht) | exact sub_trans (by decide) hs | split | (fail_if_no_progress with_reducible apply co_set_kv) | dsimp only)
theorem co_putPos {L : List Part} {s0 : State} (i : Iss) (kvh layer kaddr : Nat) (l : Lane) (p : Leaf) (s : State) (pos : Nat) (hs : sub [.glz, .kv] L = true) (hw : changesOnly L s0 s) : changesOnly L s0 (putPos i kvh layer kaddr l p s pos) := by
  unfold putPos
  repeat' (first | with_reducible (first | assumption | intro t x ht | intro t ht | apply co_foldl) | exact sub_trans (by decide) hs | split | (rename_i he; have hd := congrArg Prod.snd he; dsimp only at hd; subst hd) | (fail_if_no_progress with_reducible apply co_set_glz_kv) | dsimp only)
theorem co_putPage {L : List Part} {s0 : State} (i : Iss) (kvh layer kaddr : Nat) (l : Lane) (s : State) (j : Nat) (hs : sub [.glz, .seq, .kv] L = true) (hw : changesOnly L s0 s) : changesOnly L s0 (putPage i kvh layer kaddr l s j) := by
  unfold putPage
  repeat' (first | with_reducible (first | assumption | intro t x ht | intro t ht | apply co_noteAccess | apply co_touchWalk | apply co_seqFault | apply co_putPos | apply co_setScales | apply co_foldl) | exact sub_trans (by decide) hs | split | (fail_if_no_progress with_reducible apply co_set_kv) | dsimp only)
theorem co_kvputAll {L : List Part} {s0 : State} (i : Iss) (kvh layer kaddr : Nat) (l : Lane) (s : State) (hs : sub [.glz, .seq, .kv, .free] L = true) (hw : changesOnly L s0 s) : changesOnly L s0 (kvputAll i kvh layer kaddr l s) := by
  unfold kvputAll
  repeat' (first | with_reducible (first | assumption | intro t x ht | intro t ht | apply co_seqFaultOpen | apply co_putPage | apply co_foldl) | exact sub_trans (by decide) hs | split | dsimp only)
theorem co_kvputAct {L : List Part} {s0 : State} (i : Iss) (kvh layer kaddr : Nat) (s : State) (hs : sub [.glz, .seq, .kv, .free] L = true) (hw : changesOnly L s0 s) : changesOnly L s0 (kvputAct i kvh layer kaddr s) := by
  unfold kvputAct
  repeat' (first | with_reducible (first | assumption | intro t x ht | intro t ht | apply co_laneOp | apply co_kvputAll) | exact sub_trans (by decide) hs)
/-! ### Queue -/
theorem co_slotRun {L : List Part} {s0 : State} (c : Instr) (s : State) (hs : sub [.arr, .core, .glz, .seq, .sch, .kv, .head, .req, .ptn, .net, .evr, .free] L = true) (hw : changesOnly L s0 s) : changesOnly L s0 (slotRun c s) := by
  cases c with
  | strk _ _ => exact co_strkAct (hs := sub_trans (by decide) hs) (hw := hw) ..
  | stkv _ _ => exact co_stkvAct (hs := sub_trans (by decide) hs) (hw := hw) ..
  | psel _ _ _ _ => exact co_pselAct (hs := sub_trans (by decide) hs) (hw := hw) ..
  | aclr _ _ _ => exact co_aclrRun (hs := sub_trans (by decide) hs) (hw := hw) ..
  | acn _ _ => exact co_acnAct (hs := sub_trans (by decide) hs) (hw := hw) ..
  | apro _ _ _ _ _ => exact co_aproRun (hs := sub_trans (by decide) hs) (hw := hw) ..
  | awid _ _ _ _ _ _ => exact co_awidRun (hs := sub_trans (by decide) hs) (hw := hw) ..
  | rsum _ _ _ => exact co_redRun (h_act := fun _ h => co_rsumAct (hs := sub_trans (by decide) hs) (hw := h) ..) (hs := sub_trans (by decide) hs) (hw := hw) ..
  | rmax _ _ => exact co_redRun (h_act := fun _ h => co_rmaxAct (hs := sub_trans (by decide) hs) (hw := h) ..) (hs := sub_trans (by decide) hs) (hw := hw) ..
  | rmin _ _ => exact co_redRun (h_act := fun _ h => co_rminAct (hs := sub_trans (by decide) hs) (hw := h) ..) (hs := sub_trans (by decide) hs) (hw := hw) ..
  | rarg _ _ => exact co_redRun (h_act := fun _ h => co_rargAct (hs := sub_trans (by decide) hs) (hw := h) ..) (hs := sub_trans (by decide) hs) (hw := hw) ..
  | rand _ _ => exact co_redRun (h_act := fun _ h => co_randAct (hs := sub_trans (by decide) hs) (hw := h) ..) (hs := sub_trans (by decide) hs) (hw := hw) ..
  | ror _ _ => exact co_redRun (h_act := fun _ h => co_rorAct (hs := sub_trans (by decide) hs) (hw := h) ..) (hs := sub_trans (by decide) hs) (hw := hw) ..
  | rxor _ _ => exact co_redRun (h_act := fun _ h => co_rxorAct (hs := sub_trans (by decide) hs) (hw := h) ..) (hs := sub_trans (by decide) hs) (hw := hw) ..
  | rcnt _ _ => exact co_redRun (h_act := fun _ h => co_rcntAct (hs := sub_trans (by decide) hs) (hw := h) ..) (hs := sub_trans (by decide) hs) (hw := hw) ..
  | gcol _ _ => exact co_gcolAct (hs := sub_trans (by decide) hs) (hw := hw) ..
  | gout _ _ => exact co_glzRun (h_act := fun _ h => co_goutAct (hs := sub_trans (by decide) hs) (hw := h) ..) (hs := sub_trans (by decide) hs) (hw := hw) ..
  | gact _ _ => exact co_glzRun (h_act := fun _ h => co_gactAct (hs := sub_trans (by decide) hs) (hw := h) ..) (hs := sub_trans (by decide) hs) (hw := hw) ..
  | glr _ _ => exact co_glrRun (hs := sub_trans (by decide) hs) (hw := hw) ..
  | gtnt _ _ => exact co_glzRun (h_act := fun _ h => co_gtntAct (hs := sub_trans (by decide) hs) (hw := h) ..) (hs := sub_trans (by decide) hs) (hw := hw) ..
  | enorm _ _ _ _ => exact co_elRun (h_act := fun _ h => co_enormAct (hs := sub_trans (by decide) hs) (hw := h) ..) (hs := sub_trans (by decide) hs) (hw := hw) ..
  | eact _ _ _ => exact co_elRun (h_act := fun _ h => co_eactAct (hs := sub_trans (by decide) hs) (hw := h) ..) (hs := sub_trans (by decide) hs) (hw := hw) ..
  | emul _ _ _ => exact co_elRun (h_act := fun _ h => co_emulAct (hs := sub_trans (by decide) hs) (hw := h) ..) (hs := sub_trans (by decide) hs) (hw := hw) ..
  | eadd _ _ _ => exact co_elRun (h_act := fun _ h => co_eaddAct (hs := sub_trans (by decide) hs) (hw := h) ..) (hs := sub_trans (by decide) hs) (hw := hw) ..
  | erot _ _ _ _ => exact co_elRun (h_act := fun _ h => co_erotAct (hs := sub_trans (by decide) hs) (hw := h) ..) (hs := sub_trans (by decide) hs) (hw := hw) ..
  | ecvt _ _ => exact co_elRun (h_act := fun _ h => co_ecvtAct (hs := sub_trans (by decide) hs) (hw := h) ..) (hs := sub_trans (by decide) hs) (hw := hw) ..
  | mvb _ _ _ _ _ _ _ => exact co_mvbAct (hs := sub_trans (by decide) hs) (hw := hw) ..
  | mvf _ _ _ _ _ _ => exact co_mvfAct (hs := sub_trans (by decide) hs) (hw := hw) ..
  | mvk _ _ _ _ _ _ => exact co_mvkAct (hs := sub_trans (by decide) hs) (hw := hw) ..
  | mck _ _ _ _ _ => exact co_mckAct (hs := sub_trans (by decide) hs) (hw := hw) ..
  | twait _ _ _ => exact co_twaitAct (hs := sub_trans (by decide) hs) (hw := hw) ..
  | tsend _ _ => exact co_tsendOp (hs := sub_trans (by decide) hs) (hw := hw) ..
  | cred _ _ _ _ => exact co_credOp (hs := sub_trans (by decide) hs) (hw := hw) ..
  | chk _ _ _ _ => exact co_chkAct (hs := sub_trans (by decide) hs) (hw := hw) ..
  | csum _ _ _ => exact co_csumRun (hs := sub_trans (by decide) hs) (hw := hw) ..
  | flor _ => exact co_closeSeg (hs := sub_trans (by decide) hs) (hw := hw) ..
  | step _ => exact co_stepOp (hs := sub_trans (by decide) hs) (hw := hw) ..
  | rplw _ _ => exact co_rplwAct (hs := sub_trans (by decide) hs) (hw := hw) ..
  | replaySlot _ => exact co_replaySlotAct (hs := sub_trans (by decide) hs) (hw := hw) ..
  | score _ _ _ _ _ _ _ => exact co_scoreAct (hs := sub_trans (by decide) hs) (hw := hw) ..
  | snorm _ _ _ _ => exact co_snormAct (hs := sub_trans (by decide) hs) (hw := hw) ..
  | smix _ _ _ _ _ _ _ => exact co_smixAct (hs := sub_trans (by decide) hs) (hw := hw) ..
  | kvput _ _ _ _ => exact co_kvputAct (hs := sub_trans (by decide) hs) (hw := hw) ..
  | samp _ _ _ => exact co_sampAct (hs := sub_trans (by decide) hs) (hw := hw) ..
  | skdr _ _ _ _ _ => exact co_skdrAct (hs := sub_trans (by decide) hs) (hw := hw) ..
  | vrfy _ _ _ _ => exact co_vrfyAct (hs := sub_trans (by decide) hs) (hw := hw) ..
  | _ => exact hw
theorem co_beginOp {L : List Part} {s0 : State} (fx : Nat) (c : Instr) (s : State) (hs : sub [.core, .glz, .seq, .free] L = true) (hw : changesOnly L s0 s) : changesOnly L s0 (beginOp fx c s) := by
  cases c with
  | aclr _ _ _ => exact co_aclrAct (hs := sub_trans (by decide) hs) (hw := hw) ..
  | apro _ _ _ _ _ => exact co_aproAct (hs := sub_trans (by decide) hs) (hw := hw) ..
  | awid _ _ _ _ _ _ => exact co_awidAct (hs := sub_trans (by decide) hs) (hw := hw) ..
  | rsum _ _ _ => exact co_rsumAct (hs := sub_trans (by decide) hs) (hw := hw) ..
  | rmax _ _ => exact co_rmaxAct (hs := sub_trans (by decide) hs) (hw := hw) ..
  | rmin _ _ => exact co_rminAct (hs := sub_trans (by decide) hs) (hw := hw) ..
  | rarg _ _ => exact co_rargAct (hs := sub_trans (by decide) hs) (hw := hw) ..
  | rand _ _ => exact co_randAct (hs := sub_trans (by decide) hs) (hw := hw) ..
  | ror _ _ => exact co_rorAct (hs := sub_trans (by decide) hs) (hw := hw) ..
  | rxor _ _ => exact co_rxorAct (hs := sub_trans (by decide) hs) (hw := hw) ..
  | rcnt _ _ => exact co_rcntAct (hs := sub_trans (by decide) hs) (hw := hw) ..
  | gout _ _ => exact co_goutAct (hs := sub_trans (by decide) hs) (hw := hw) ..
  | gact _ _ => exact co_gactAct (hs := sub_trans (by decide) hs) (hw := hw) ..
  | glr _ _ => exact co_glrAct (hs := sub_trans (by decide) hs) (hw := hw) ..
  | gtnt _ _ => exact co_gtntAct (hs := sub_trans (by decide) hs) (hw := hw) ..
  | enorm _ _ _ _ => exact co_enormAct (hs := sub_trans (by decide) hs) (hw := hw) ..
  | eact _ _ _ => exact co_eactAct (hs := sub_trans (by decide) hs) (hw := hw) ..
  | emul _ _ _ => exact co_emulAct (hs := sub_trans (by decide) hs) (hw := hw) ..
  | eadd _ _ _ => exact co_eaddAct (hs := sub_trans (by decide) hs) (hw := hw) ..
  | erot _ _ _ _ => exact co_erotAct (hs := sub_trans (by decide) hs) (hw := hw) ..
  | ecvt _ _ => exact co_ecvtAct (hs := sub_trans (by decide) hs) (hw := hw) ..
  | csum _ _ _ => exact co_csumAct (hs := sub_trans (by decide) hs) (hw := hw) ..
  | _ => exact hw
theorem co_settleN {L : List Part} {s0 : State} (sid n : Nat) (s : State) (hs : sub [.arr, .core, .glz, .seq, .sch, .kv, .head, .req, .ptn, .net, .evr, .free] L = true) (hw : changesOnly L s0 s) :
    changesOnly L s0 (settleN sid n s) := by
  induction n generalizing s with
  | zero => exact hw
  | succ k ih =>
    unfold settleN
    split
    · exact ih _ (co_beginOp _ _ _ (sub_trans (by decide) hs) (co_modSeq _ _ _ (sub_trans (by decide) hs) hw))
    · split
      · exact hw
      · dsimp only
        split
        · exact ih _ (co_modSeq _ _ _ (sub_trans (by decide) hs) (co_slotRun _ _ (sub_trans (by decide) hs) (co_modSeq _ _ _ (sub_trans (by decide) hs) hw)))
        · exact hw
theorem co_settle {L : List Part} {s0 : State} (sid : Nat) (s : State) (hs : sub [.arr, .core, .glz, .seq, .sch, .kv, .head, .req, .ptn, .net, .evr, .free] L = true) (hw : changesOnly L s0 s) : changesOnly L s0 (settle sid s) := by
  unfold settle
  repeat' (first | with_reducible (first | assumption | intro t x ht | intro t ht | apply co_settleN) | exact sub_trans (by decide) hs)
theorem co_settleCores {L : List Part} {s0 : State} (cl : Nat) (s : State) (hs : sub [.arr, .core, .glz, .seq, .sch, .kv, .head, .req, .ptn, .net, .evr, .free] L = true) (hw : changesOnly L s0 s) : changesOnly L s0 (settleCores cl s) := by
  unfold settleCores
  repeat' (first | with_reducible (first | assumption | intro t x ht | intro t ht | apply co_settle | apply co_foldl) | exact sub_trans (by decide) hs | dsimp only)

end Sys2Proof.Machine
end

