-- ==== Sys2Proof/Laws/TouchStep.lean ====
section
/-! SUPPORT. Which parts of the state change: operations of a step. `co_f` says that `f` changes no part outside its list. -/

namespace Sys2Proof.Machine

/-! ### Life -/
theorem co_mapPage {L : List Part} {s0 : State} (ptn page : Nat) (s : State) (hs : sub [.kv] L = true) (hw : changesOnly L s0 s) : changesOnly L s0 (mapPage ptn page s) := by
  unfold mapPage
  repeat' (first | with_reducible (first | assumption | intro t x ht | intro t ht) | exact sub_trans (by decide) hs | split | (fail_if_no_progress with_reducible apply co_set_kv))
theorem co_takePages {L : List Part} {s0 : State} (ix n : Nat) (s : State) (hs : sub [.kv, .req] L = true) (hw : changesOnly L s0 s) : changesOnly L s0 (takePages ix n s).2 := by
  unfold takePages
  repeat' (first | with_reducible (first | assumption | intro t x ht | intro t ht | apply co_modEntry | apply co_mapPage | apply co_foldl) | exact sub_trans (by decide) hs | dsimp only)
theorem co_freePage {L : List Part} {s0 : State} (ptn ix page : Nat) (s : State) (hs : sub [.kv] L = true) (hw : changesOnly L s0 s) : changesOnly L s0 (freePage ptn ix page s) := by
  unfold freePage
  repeat' (first | with_reducible (first | assumption | intro t x ht | intro t ht) | exact sub_trans (by decide) hs | split | (fail_if_no_progress with_reducible apply co_set_kv))
theorem co_freePages {L : List Part} {s0 : State} (ix mark : Nat) (s : State) (hs : sub [.kv, .req] L = true) (hw : changesOnly L s0 s) : changesOnly L s0 (freePages ix mark s) := by
  unfold freePages
  repeat' (first | with_reducible (first | assumption | intro t x ht | intro t ht | apply co_freePage | apply co_modEntry | apply co_foldl) | exact sub_trans (by decide) hs | (fail_if_no_progress with_reducible apply co_set_kv) | dsimp only)
theorem co_newBlock {L : List Part} {s0 : State} (ix : Nat) (s : State) (hs : sub [.kv, .req] L = true) (hw : changesOnly L s0 s) : changesOnly L s0 (newBlock ix s).2 := by
  unfold newBlock
  repeat' (first | with_reducible (first | assumption | intro t x ht | intro t ht | apply co_takePages | apply co_modEntry) | exact sub_trans (by decide) hs | split | dsimp only)
theorem co_ensureEntry {L : List Part} {s0 : State} (ix ptr off : Nat) (s : State) (hs : sub [.kv, .req] L = true) (hw : changesOnly L s0 s) : changesOnly L s0 (ensureEntry ix ptr off s).2 := by
  unfold ensureEntry
  repeat' (first | with_reducible (first | assumption | intro t x ht | intro t ht | apply co_newBlock | apply co_nearAll) | exact sub_trans (by decide) hs | split | (rename_i he; have hd := congrArg Prod.snd he; dsimp only at hd; subst hd) | dsimp only)
theorem co_dataPage {L : List Part} {s0 : State} (ix : Nat) (e : Entry) (s : State) (hs : sub [.kv, .req] L = true) (hw : changesOnly L s0 s) : changesOnly L s0 (dataPage ix e s).2 := by
  unfold dataPage
  repeat' (first | with_reducible (first | assumption | intro t x ht | intro t ht | apply co_takePages | apply co_modEntry) | exact sub_trans (by decide) hs | split | dsimp only)
theorem co_scalePage {L : List Part} {s0 : State} (ix : Nat) (e : Entry) (s : State) (hs : sub [.kv, .req] L = true) (hw : changesOnly L s0 s) : changesOnly L s0 (scalePage ix e s).2 := by
  unfold scalePage
  repeat' (first | with_reducible (first | assumption | intro t x ht | intro t ht | apply co_takePages | apply co_modEntry) | exact sub_trans (by decide) hs | split | dsimp only)
theorem co_newPage {L : List Part} {s0 : State} (ix : Nat) (s : State) (hs : sub [.kv, .req] L = true) (hw : changesOnly L s0 s) : changesOnly L s0 (newPage ix s).2 := by
  unfold newPage
  repeat' (first | with_reducible (first | assumption | intro t x ht | intro t ht | apply co_takePages | apply co_dataPage | apply co_scalePage | apply co_modEntry) | exact sub_trans (by decide) hs | split | dsimp only)
theorem co_ensureRoot {L : List Part} {s0 : State} (ix : Nat) (s : State) (hs : sub [.kv, .req] L = true) (hw : changesOnly L s0 s) : changesOnly L s0 (ensureRoot ix s) := by
  unfold ensureRoot
  repeat' (first | with_reducible (first | assumption | intro t x ht | intro t ht | apply co_newBlock | apply co_modEntry) | exact sub_trans (by decide) hs | split | (rename_i he; have hd := congrArg Prod.snd he; dsimp only at hd; subst hd) | dsimp only)
theorem co_ensurePage {L : List Part} {s0 : State} (ix layer j : Nat) (s : State) (hs : sub [.kv, .req] L = true) (hw : changesOnly L s0 s) : changesOnly L s0 (ensurePage ix layer j s) := by
  unfold ensurePage
  repeat' (first | with_reducible (first | assumption | intro t x ht | intro t ht | apply co_ensureRoot | apply co_ensureEntry | apply co_newPage | apply co_nearAll) | exact sub_trans (by decide) hs | split | (rename_i he; have hd := congrArg Prod.snd he; dsimp only at hd; subst hd) | dsimp only)
theorem co_ensureSlots {L : List Part} {s0 : State} (ix : Nat) (layers : List Nat) (lo hi : Nat) (s : State) (hs : sub [.kv, .req] L = true) (hw : changesOnly L s0 s) : changesOnly L s0 (ensureSlots ix layers lo hi s) := by
  unfold ensureSlots
  repeat' (first | with_reducible (first | assumption | intro t x ht | intro t ht | apply co_ensurePage | apply co_foldl) | exact sub_trans (by decide) hs | dsimp only)
theorem co_writeMask {L : List Part} {s0 : State} (ix : Nat) (area : List Byte) (s : State) (hs : sub [.kv, .req] L = true) (hw : changesOnly L s0 s) : changesOnly L s0 (writeMask ix area s) := by
  unfold writeMask
  repeat' (first | with_reducible (first | assumption | intro t x ht | intro t ht | apply co_takePages | apply co_modEntry | apply co_nearAll | apply co_foldl) | exact sub_trans (by decide) hs | split | (rename_i he; have hd := congrArg Prod.snd he; dsimp only at hd; subst hd) | dsimp only)
theorem co_putImage {L : List Part} {s0 : State} (ptn root layer j fill : Nat) (bs : List Byte) (s : State) (hs : sub [.kv] L = true) (hw : changesOnly L s0 s) : changesOnly L s0 (putImage ptn root layer j fill bs s) := by
  unfold putImage
  repeat' (first | with_reducible (first | assumption | intro t x ht | intro t ht | apply co_foldl) | exact sub_trans (by decide) hs | split | (fail_if_no_progress with_reducible apply co_set_kv) | dsimp only)
theorem co_farReturn {L : List Part} {s0 : State} (ix : Nat) (s : State) (hs : sub [.kv, .req] L = true) (hw : changesOnly L s0 s) : changesOnly L s0 (farReturn ix s) := by
  unfold farReturn
  repeat' (first | with_reducible (first | assumption | intro t x ht | intro t ht | apply co_ensurePage | apply co_putImage | apply co_modEntry | apply co_foldl) | exact sub_trans (by decide) hs | dsimp only)
theorem co_sendCompletion {L : List Part} {s0 : State} (ix : Nat) (s : State) (hs : sub [.req, .ptn, .net] L = true) (hw : changesOnly L s0 s) : changesOnly L s0 (sendCompletion ix s) := by
  unfold sendCompletion
  repeat' (first | with_reducible (first | assumption | intro t x ht | intro t ht | apply co_modPtn | apply co_modEntry | apply co_post) | exact sub_trans (by decide) hs | dsimp only)
theorem co_answerWaiting {L : List Part} {s0 : State} (ix status after : Nat) (s : State) (hs : sub [.req, .net] L = true) (hw : changesOnly L s0 s) : changesOnly L s0 (answerWaiting ix status after s) := by
  unfold answerWaiting
  repeat' (first | with_reducible (first | assumption | intro t x ht | intro t ht | apply co_modEntry | apply co_replyLate | apply co_foldl) | exact sub_trans (by decide) hs | split | dsimp only)
theorem co_complete {L : List Part} {s0 : State} (ix status : Nat) (s : State) (hs : sub [.req, .ptn, .net] L = true) (hw : changesOnly L s0 s) : changesOnly L s0 (complete ix status s) := by
  unfold complete
  repeat' (first | with_reducible (first | assumption | intro t x ht | intro t ht | apply co_modEntry | apply co_answerWaiting | apply co_sendCompletion) | exact sub_trans (by decide) hs | split | dsimp only)
theorem co_sendTokens {L : List Part} {s0 : State} (ix : Nat) (s : State) (hs : sub [.req, .ptn, .net] L = true) (hw : changesOnly L s0 s) : changesOnly L s0 (sendTokens ix s) := by
  unfold sendTokens
  repeat' (first | with_reducible (first | assumption | intro t x ht | intro t ht | apply co_post | apply co_modEntry | apply co_sendCompletion) | exact sub_trans (by decide) hs | split | dsimp only)
theorem co_freeEntry {L : List Part} {s0 : State} (ix : Nat) (s : State) (hs : sub [.head, .req] L = true) (hw : changesOnly L s0 s) : changesOnly L s0 (freeEntry ix s) := by
  unfold freeEntry
  repeat' (first | with_reducible (first | assumption | intro t x ht | intro t ht | apply co_modEntry) | exact sub_trans (by decide) hs | (fail_if_no_progress with_reducible apply co_set_head_req) | dsimp only)
theorem co_freeFar {L : List Part} {s0 : State} (ix mark : Nat) (s : State) (hs : sub [.kv, .req] L = true) (hw : changesOnly L s0 s) : changesOnly L s0 (freeFar ix mark s) := by
  unfold freeFar
  repeat' (first | with_reducible (first | assumption | intro t x ht | intro t ht | apply co_modEntry) | exact sub_trans (by decide) hs | split | (fail_if_no_progress with_reducible apply co_set_kv) | dsimp only)
theorem co_retire {L : List Part} {s0 : State} (ix : Nat) (s : State) (hs : sub [.kv, .head, .req, .net] L = true) (hw : changesOnly L s0 s) : changesOnly L s0 (retire ix s) := by
  unfold retire
  repeat' (first | with_reducible (first | assumption | intro t x ht | intro t ht | apply co_answerWaiting | apply co_modEntry | apply co_freePages | apply co_freeFar | apply co_freeEntry) | exact sub_trans (by decide) hs | split | dsimp only)
theorem co_retireWith {L : List Part} {s0 : State} (ix status : Nat) (s : State) (hs : sub [.kv, .head, .req, .ptn, .net] L = true) (hw : changesOnly L s0 s) : changesOnly L s0 (retireWith ix status s) := by
  unfold retireWith
  repeat' (first | with_reducible (first | assumption | intro t x ht | intro t ht | apply co_retire | apply co_complete) | exact sub_trans (by decide) hs | dsimp only)
theorem co_killNow {L : List Part} {s0 : State} (ix status : Nat) (s : State) (hs : sub [.seq, .sch, .kv, .head, .req, .ptn, .net] L = true) (hw : changesOnly L s0 s) : changesOnly L s0 (killNow ix status s) := by
  unfold killNow
  repeat' (first | with_reducible (first | assumption | intro t x ht | intro t ht | apply co_modEntry | apply co_complete | apply co_killLane | apply co_retireWith) | exact sub_trans (by decide) hs | split | dsimp only)
theorem co_endRequest {L : List Part} {s0 : State} (ix status : Nat) (s : State) (hs : sub [.seq, .sch, .kv, .head, .req, .ptn, .net] L = true) (hw : changesOnly L s0 s) : changesOnly L s0 (endRequest ix status s) := by
  unfold endRequest
  repeat' (first | with_reducible (first | assumption | intro t x ht | intro t ht | apply co_killNow | apply co_modEntry) | exact sub_trans (by decide) hs | split | dsimp only)
theorem co_raiseExpired {L : List Part} {s0 : State} (ix : Nat) (s : State) (hs : sub [.ptn, .net] L = true) (hw : changesOnly L s0 s) : changesOnly L s0 (raiseExpired ix s) := by
  unfold raiseExpired
  repeat' (first | with_reducible (first | assumption | intro t x ht | intro t ht | apply co_raise) | exact sub_trans (by decide) hs | dsimp only)
theorem co_expire {L : List Part} {s0 : State} (ix : Nat) (s : State) (hs : sub [.kv, .head, .req, .ptn, .net] L = true) (hw : changesOnly L s0 s) : changesOnly L s0 (expire ix s) := by
  unfold expire
  repeat' (first | with_reducible (first | assumption | intro t x ht | intro t ht | apply co_raiseExpired | apply co_answerWaiting | apply co_retireWith | apply co_retire) | exact sub_trans (by decide) hs | split | dsimp only)
theorem co_freeTints {L : List Part} {s0 : State} (n k : Nat) (s : State) (hs : sub [.ptn, .net] L = true) (hw : changesOnly L s0 s) : changesOnly L s0 (freeTints n k s) := by
  unfold freeTints
  repeat' (first | with_reducible (first | assumption | intro t x ht | intro t ht | apply co_raise | apply co_modPtn | apply co_foldl) | exact sub_trans (by decide) hs | split | dsimp only)
/-! ### Tokens -/
theorem co_takeToken {L : List Part} {s0 : State} (dest : Nat) (t : Token) (act : State → State) (s : State) (h_act : ∀ y0, changesOnly L s0 y0 → changesOnly L s0 (act y0)) (hs : sub [.seq] L = true) (hw : changesOnly L s0 s) : changesOnly L s0 (takeToken dest t act s) := by
  unfold takeToken
  repeat' (first | with_reducible (first | assumption | intro t x ht | intro t ht | apply co_modSeq | apply h_act) | exact sub_trans (by decide) hs | split | (fail_if_no_progress with_reducible apply co_set_seq) | dsimp only)
theorem co_syncOp {L : List Part} {s0 : State} (dest ch : Nat) (s : State) (hs : sub [.seq, .free] L = true) (hw : changesOnly L s0 s) : changesOnly L s0 (syncOp dest ch s) := by
  unfold syncOp
  repeat' (first | with_reducible (first | assumption | intro t x ht | intro t ht | apply co_seqFaultOpen | apply co_tryWait | apply co_modSeq) | exact sub_trans (by decide) hs | split | dsimp only)
theorem co_latchStep {L : List Part} {s0 : State} (dest : Nat) (t : Token) (s : State) (hs : sub [.seq] L = true) (hw : changesOnly L s0 s) : changesOnly L s0 (latchStep dest t s) := by
  unfold latchStep
  repeat' (first | with_reducible (first | assumption | intro t x ht | intro t ht | apply co_modSeq) | exact sub_trans (by decide) hs | split | dsimp only)
theorem co_clearWalks {L : List Part} {s0 : State} (dest : Nat) (s : State) (hs : sub [.kv] L = true) (hw : changesOnly L s0 s) : changesOnly L s0 (clearWalks dest s) := by
  unfold clearWalks
  repeat' (first | with_reducible (first | assumption | intro t x ht | intro t ht) | exact sub_trans (by decide) hs | split | (fail_if_no_progress with_reducible apply co_set_kv))
theorem co_retractOp {L : List Part} {s0 : State} (dest : Nat) (tok : Token) (s : State) (hs : sub [.seq] L = true) (hw : changesOnly L s0 s) : changesOnly L s0 (retractOp dest tok s) := by
  unfold retractOp
  repeat' (first | with_reducible (first | assumption | intro t x ht | intro t ht | apply co_modSeq | apply co_sendRetract) | exact sub_trans (by decide) hs | split | dsimp only)
theorem co_dropStrokes {L : List Part} {s0 : State} (sid seg : Nat) (s : State) (hs : sub [.arr] L = true) (hw : changesOnly L s0 s) : changesOnly L s0 (dropStrokes sid seg s) := by
  unfold dropStrokes
  repeat' (first | with_reducible (first | assumption | intro t x ht | intro t ht | apply co_releasePlanes) | exact sub_trans (by decide) hs | (fail_if_no_progress with_reducible apply co_set_arr) | dsimp only)
theorem co_dropTentative {L : List Part} {s0 : State} (seg : Nat) (s : State) (hs : sub [.arr, .core, .glz, .kv] L = true) (hw : changesOnly L s0 s) : changesOnly L s0 (dropTentative seg s) := by
  unfold dropTentative
  repeat' (first | with_reducible (first | assumption | intro t x ht | intro t ht) | exact sub_trans (by decide) hs | split | (fail_if_no_progress with_reducible apply co_set_arr_core_glz_kv) | dsimp only)
theorem co_quiesce {L : List Part} {s0 : State} (dest seg att : Nat) (keep : Bool) (s : State) (hs : sub [.arr, .core, .glz, .seq, .kv] L = true) (hw : changesOnly L s0 s) : changesOnly L s0 (quiesce dest seg att keep s) := by
  unfold quiesce
  repeat' (first | with_reducible (first | assumption | intro t x ht | intro t ht | apply co_dropTentative | apply co_dropStrokes | apply co_modSeq | apply co_sendToken) | exact sub_trans (by decide) hs | split | dsimp only)
theorem co_resumeOp {L : List Part} {s0 : State} (dest : Nat) (s : State) (hs : sub [.seq] L = true) (hw : changesOnly L s0 s) : changesOnly L s0 (resumeOp dest s) := by
  unfold resumeOp
  repeat' (first | with_reducible (first | assumption | intro t x ht | intro t ht | apply co_modSeq) | exact sub_trans (by decide) hs | split | dsimp only)
theorem co_laneKillOp {L : List Part} {s0 : State} (dest lane : Nat) (s : State) (hs : sub [.arr, .core, .glz, .seq, .sch, .kv, .head, .req, .ptn, .net, .evr, .free] L = true) (hw : changesOnly L s0 s) : changesOnly L s0 (laneKillOp dest lane s) := by
  unfold laneKillOp
  repeat' (first | with_reducible (first | assumption | intro t x ht | intro t ht | apply co_modSeq | apply co_settle) | exact sub_trans (by decide) hs | split | (fail_if_no_progress with_reducible apply co_set_arr) | dsimp only)
/-! ### Rewind -/
theorem co_withhold {L : List Part} {s0 : State} (l : Lane) (s : State) (hs : sub [.sch, .req] L = true) (hw : changesOnly L s0 s) : changesOnly L s0 (withhold l s) := by
  unfold withhold
  repeat' (first | with_reducible (first | assumption | intro t x ht | intro t ht | apply co_modEntry | apply co_modCur) | exact sub_trans (by decide) hs | split | dsimp only)
theorem co_sendCommit {L : List Part} {s0 : State} (c : StepRec) (s : State) (hs : sub [.seq] L = true) (hw : changesOnly L s0 s) : changesOnly L s0 (sendCommit c s) := by
  unfold sendCommit
  repeat' (first | with_reducible (first | assumption | intro t x ht | intro t ht | apply co_sendTagged | apply co_schedToAll | apply co_foldl) | exact sub_trans (by decide) hs | dsimp only)
theorem co_tryCommit {L : List Part} {s0 : State} (s : State) (hs : sub [.seq, .sch, .req] L = true) (hw : changesOnly L s0 s) : changesOnly L s0 (tryCommit s) := by
  unfold tryCommit
  repeat' (first | with_reducible (first | assumption | intro t x ht | intro t ht | apply co_sendCommit | apply co_modCur | apply co_withhold | apply co_foldl) | exact sub_trans (by decide) hs | split | dsimp only)
theorem co_stepDoneOp {L : List Part} {s0 : State} (t : Token) (s : State) (hs : sub [.seq, .sch, .req] L = true) (hw : changesOnly L s0 s) : changesOnly L s0 (stepDoneOp t s) := by
  unfold stepDoneOp
  repeat' (first | with_reducible (first | assumption | intro t x ht | intro t ht | apply co_tryCommit | apply co_modCur) | exact sub_trans (by decide) hs | split | dsimp only)
theorem co_segmentOp {L : List Part} {s0 : State} (t : Token) (s : State) (hs : sub [.seq, .sch, .req] L = true) (hw : changesOnly L s0 s) : changesOnly L s0 (segmentOp t s) := by
  unfold segmentOp
  repeat' (first | with_reducible (first | assumption | intro t x ht | intro t ht | apply co_tryCommit | apply co_modCur) | exact sub_trans (by decide) hs | split | dsimp only)
theorem co_clearStep {L : List Part} {s0 : State} (s : State) (hs : sub [.arr, .core, .glz, .seq, .sch, .kv, .head] L = true) (hw : changesOnly L s0 s) : changesOnly L s0 (clearStep s) := by
  unfold clearStep
  repeat' (first | with_reducible (first | assumption | intro t x ht | intro t ht | apply co_modSeq | apply co_foldl) | exact sub_trans (by decide) hs | split | (fail_if_no_progress with_reducible apply co_set_arr_core_glz_sch_kv_head) | dsimp only)
theorem co_retireKilled {L : List Part} {s0 : State} (s : State) (hs : sub [.kv, .head, .req, .net] L = true) (hw : changesOnly L s0 s) : changesOnly L s0 (retireKilled s) := by
  unfold retireKilled
  repeat' (first | with_reducible (first | assumption | intro t x ht | intro t ht | apply co_retire | apply co_foldl) | exact sub_trans (by decide) hs | dsimp only)
theorem co_endAbandoned {L : List Part} {s0 : State} (s : State) (hs : sub [.arr, .core, .glz, .seq, .sch, .kv, .head, .req, .net] L = true) (hw : changesOnly L s0 s) : changesOnly L s0 (endAbandoned s) := by
  unfold endAbandoned
  repeat' (first | with_reducible (first | assumption | intro t x ht | intro t ht | apply co_retireKilled | apply co_clearStep) | exact sub_trans (by decide) hs)
theorem co_sendRewind {L : List Part} {s0 : State} (seg : Nat) (s : State) (hs : sub [.seq, .sch, .hist, .evr] L = true) (hw : changesOnly L s0 s) : changesOnly L s0 (sendRewind seg s) := by
  unfold sendRewind
  repeat' (first | with_reducible (first | assumption | intro t x ht | intro t ht | apply co_fire | apply co_schedToAll | apply co_modCur | apply co_dropSamples) | exact sub_trans (by decide) hs | split)
theorem co_reexecute {L : List Part} {s0 : State} (seg : Nat) (s : State) (hs : sub [.seq, .sch, .cnv, .hist, .evr] L = true) (hw : changesOnly L s0 s) : changesOnly L s0 (reexecute seg s) := by
  unfold reexecute
  repeat' (first | with_reducible (first | assumption | intro t x ht | intro t ht | apply co_modCnv | apply co_fire | apply co_sendRewind | apply co_modCur) | exact sub_trans (by decide) hs | split | dsimp only)
theorem co_markEnvelopes {L : List Part} {s0 : State} (s : State) (hs : sub [.sch, .cnv] L = true) (hw : changesOnly L s0 s) : changesOnly L s0 (markEnvelopes s) := by
  unfold markEnvelopes
  repeat' (first | with_reducible (first | assumption | intro t x ht | intro t ht | apply co_countD16 | apply co_modCur) | exact sub_trans (by decide) hs | split | dsimp only)
theorem co_holdCanvas {L : List Part} {s0 : State} (c : Nat) (s : State) (hs : sub [.cnv, .ptn, .net] L = true) (hw : changesOnly L s0 s) : changesOnly L s0 (holdCanvas c s) := by
  unfold holdCanvas
  repeat' (first | with_reducible (first | assumption | intro t x ht | intro t ht | apply co_canvasEvent | apply co_modCnv) | exact sub_trans (by decide) hs | split | dsimp only)
theorem co_gatherEnd {L : List Part} {s0 : State} (c : StepRec) (seg : Nat) (s : State) (hs : sub [.seq, .sch, .cnv, .ptn, .net, .hist, .evr] L = true) (hw : changesOnly L s0 s) : changesOnly L s0 (gatherEnd c seg s) := by
  unfold gatherEnd
  repeat' (first | with_reducible (first | assumption | intro t x ht | intro t ht | apply co_modCnv | apply co_holdCanvas | apply co_sendAbandon | apply co_reexecute | apply co_sendRewind | apply co_modCur | apply co_markEnvelopes) | exact sub_trans (by decide) hs | split | dsimp only)
theorem co_gatherExpiry {L : List Part} {s0 : State} (s : State) (hs : sub [.seq, .sch, .cnv, .ptn, .net, .hist, .evr] L = true) (hw : changesOnly L s0 s) : changesOnly L s0 (gatherExpiry s) := by
  unfold gatherExpiry
  repeat' (first | with_reducible (first | assumption | intro t x ht | intro t ht | apply co_gatherEnd) | exact sub_trans (by decide) hs | split)
theorem co_fetchRows {L : List Part} {s0 : State} (s : State) (hs : sub [.core] L = true) (hw : changesOnly L s0 s) : changesOnly L s0 (fetchRows s) := by
  unfold fetchRows
  repeat' (first | with_reducible (first | assumption | intro t x ht | intro t ht | apply co_foldl) | exact sub_trans (by decide) hs | split | (fail_if_no_progress with_reducible apply co_set_core) | dsimp only)
theorem co_allQuiet {L : List Part} {s0 : State} (s : State) (hs : sub [.arr, .core, .glz, .seq, .sch, .kv, .head, .req, .net] L = true) (hw : changesOnly L s0 s) : changesOnly L s0 (allQuiet s) := by
  unfold allQuiet
  repeat' (first | with_reducible (first | assumption | intro t x ht | intro t ht | apply co_endAbandoned | apply co_schedToAll | apply co_fetchRows | apply co_modCur) | exact sub_trans (by decide) hs | split | dsimp only)
theorem co_quiescedOp {L : List Part} {s0 : State} (t : Token) (s : State) (hs : sub [.arr, .core, .glz, .seq, .sch, .kv, .head, .req, .net] L = true) (hw : changesOnly L s0 s) : changesOnly L s0 (quiescedOp t s) := by
  unfold quiescedOp
  repeat' (first | with_reducible (first | assumption | intro t x ht | intro t ht | apply co_modCur | apply co_allQuiet) | exact sub_trans (by decide) hs | split | dsimp only)
theorem co_moveFrame {L : List Part} {s0 : State} (ptn page : Nat) (s : State) (hs : sub [.kv] L = true) (hw : changesOnly L s0 s) : changesOnly L s0 (moveFrame ptn page s) := by
  unfold moveFrame
  repeat' (first | with_reducible (first | assumption | intro t x ht | intro t ht | apply co_foldl) | exact sub_trans (by decide) hs | split | (fail_if_no_progress with_reducible apply co_set_kv) | dsimp only)
theorem co_retireFrameOf {L : List Part} {s0 : State} (ptn page : Nat) (s : State) (hs : sub [.kv] L = true) (hw : changesOnly L s0 s) : changesOnly L s0 (retireFrameOf ptn page s) := by
  unfold retireFrameOf
  repeat' (first | with_reducible (first | assumption | intro t x ht | intro t ht) | exact sub_trans (by decide) hs | split | (fail_if_no_progress with_reducible apply co_set_kv))
theorem co_memFault {L : List Part} {s0 : State} (l : Lane) (layer j cause : Nat) (s : State) (hs : sub [.seq, .sch, .kv, .req, .evr] L = true) (hw : changesOnly L s0 s) : changesOnly L s0 (memFault l layer j cause s) := by
  unfold memFault
  repeat' (first | with_reducible (first | assumption | intro t x ht | intro t ht | apply co_fire | apply co_retireFrameOf | apply co_killLane | apply co_markPoison | apply co_modEntry | apply co_moveFrame) | exact sub_trans (by decide) hs | split | dsimp only)
theorem co_seqFaultAct {L : List Part} {s0 : State} (t : Token) (c : StepRec) (s : State) (hs : sub [.seq, .sch, .kv, .req, .cnv, .ptn, .net, .hist, .sec, .evr, .dev] L = true) (hw : changesOnly L s0 s) : changesOnly L s0 (seqFaultAct t c s) := by
  unfold seqFaultAct
  repeat' (first | with_reducible (first | assumption | intro t x ht | intro t ht | apply co_fire | apply co_sendRewind | apply co_modCur | apply co_memFault | apply co_recordFault | apply co_sendAbandon) | exact sub_trans (by decide) hs | split | (rename_i he; have hd := congrArg Prod.snd he; dsimp only at hd; subst hd) | dsimp only)
theorem co_nameMissing {L : List Part} {s0 : State} (n : Nat) (ms : List Nat) (s : State) (hs : sub [.evr] L = true) (hw : changesOnly L s0 s) : changesOnly L s0 (nameMissing n ms s) := by
  unfold nameMissing
  repeat' (first | with_reducible (first | assumption | intro t x ht | intro t ht | apply co_fire | apply co_foldl) | exact sub_trans (by decide) hs | dsimp only)
theorem co_watchdogDrain {L : List Part} {s0 : State} (s : State) (hs : sub [.seq, .sch, .cnv, .ptn, .net, .hist, .sec, .evr, .dev] L = true) (hw : changesOnly L s0 s) : changesOnly L s0 (watchdogDrain s) := by
  unfold watchdogDrain
  repeat' (first | with_reducible (first | assumption | intro t x ht | intro t ht | apply co_drainDecision | apply co_sendAbandon) | exact sub_trans (by decide) hs | (fail_if_no_progress with_reducible apply co_set_hist) | dsimp only)
theorem co_watchdogOp {L : List Part} {s0 : State} (c : StepRec) (s : State) (hs : sub [.seq, .sch, .cnv, .ptn, .net, .hist, .sec, .evr, .dev] L = true) (hw : changesOnly L s0 s) : changesOnly L s0 (watchdogOp c s) := by
  unfold watchdogOp
  repeat' (first | with_reducible (first | assumption | intro t x ht | intro t ht | apply co_nameMissing | apply co_watchdogDrain | apply co_sendAbandon | apply co_modCur | apply co_recordFault | apply co_foldl) | exact sub_trans (by decide) hs | split | dsimp only)
theorem co_stepWatchdog {L : List Part} {s0 : State} (s : State) (hs : sub [.seq, .sch, .cnv, .ptn, .net, .hist, .sec, .evr, .dev] L = true) (hw : changesOnly L s0 s) : changesOnly L s0 (stepWatchdog s) := by
  unfold stepWatchdog
  repeat' (first | with_reducible (first | assumption | intro t x ht | intro t ht | apply co_watchdogOp) | exact sub_trans (by decide) hs | split)
/-! ### Commit -/
theorem co_calDue {L : List Part} {s0 : State} (cause cl : Nat) (s : State) (hs : sub [.cal] L = true) (hw : changesOnly L s0 s) : changesOnly L s0 (calDue cause cl s) := by
  unfold calDue
  repeat' (first | with_reducible (first | assumption | intro t x ht | intro t ht | apply co_modCal) | exact sub_trans (by decide) hs | split | dsimp only)
theorem co_setStop {L : List Part} {s0 : State} (v : Verdict) (s : State) (hs : sub [.core] L = true) (hw : changesOnly L s0 s) : changesOnly L s0 (setStop v s) := by
  unfold setStop
  repeat' (first | with_reducible (first | assumption | intro t x ht | intro t ht | apply co_foldl) | exact sub_trans (by decide) hs | split | (fail_if_no_progress with_reducible apply co_set_core) | dsimp only)
theorem co_release {L : List Part} {s0 : State} (ix num : Nat) (ts : List Nat) (s : State) (hs : sub [.head, .req, .ptn] L = true) (hw : changesOnly L s0 s) : changesOnly L s0 (release ix num ts s) := by
  unfold release
  repeat' (first | with_reducible (first | assumption | intro t x ht | intro t ht | apply co_modEntry | apply co_modPtn) | exact sub_trans (by decide) hs | split | (fail_if_no_progress with_reducible apply co_set_head) | dsimp only)
theorem co_finish {L : List Part} {s0 : State} (ix : Nat) (s : State) (hs : sub [.kv, .head, .req, .ptn, .net] L = true) (hw : changesOnly L s0 s) : changesOnly L s0 (finish ix s) := by
  unfold finish
  repeat' (first | with_reducible (first | assumption | intro t x ht | intro t ht | apply co_modEntry | apply co_complete | apply co_retireWith) | exact sub_trans (by decide) hs | split | dsimp only)
theorem co_drafts {L : List Part} {s0 : State} (f : List Node × State → Nat → List Node × State) (h : ∀ z k, changesOnly L s0 z.2 → changesOnly L s0 (f z k).2) (l : List Nat)
    (z : List Node × State) (hw : changesOnly L s0 z.2) : changesOnly L s0 (l.foldl f z).2 := by
  induction l generalizing z with
  | nil => exact hw
  | cons x xs ih => exact ih _ (h _ _ hw)
theorem co_nextDraft {L : List Part} {s0 : State} (l : Lane) (s : State) (hs : sub [.free] L = true) (hw : changesOnly L s0 s) : changesOnly L s0 (nextDraft l s).2 := by
  unfold nextDraft
  split
  · exact hw
  · split
    · exact hw
    · apply co_drafts
      · intro z k hz; exact co_draw _ hs hz
      · exact hw
theorem co_advance {L : List Part} {s0 : State} (l : Lane) (num kv : Nat) (v : Verdict) (ts : List Nat) (fin : Bool) (s : State) (hs : sub [.core, .kv, .head, .req, .ptn, .net, .free] L = true) (hw : changesOnly L s0 s) : changesOnly L s0 (advance l num kv v ts fin s) := by
  unfold advance
  repeat' (first | with_reducible (first | assumption | intro t x ht | intro t ht | apply co_setStop | apply co_release | apply co_nextDraft | apply co_modEntry | apply co_finish) | exact sub_trans (by decide) hs | split | (rename_i he; have hd := congrArg Prod.snd he; dsimp only at hd; subst hd) | dsimp only)
theorem co_fillLane {L : List Part} {s0 : State} (l : Lane) (kv : Nat) (s : State) (hs : sub [.kv] L = true) (hw : changesOnly L s0 s) : changesOnly L s0 (fillLane l kv s) := by
  unfold fillLane
  repeat' (first | with_reducible (first | assumption | intro t x ht | intro t ht | apply co_fillPage | apply co_foldl) | exact sub_trans (by decide) hs | dsimp only)
theorem co_moveTree {L : List Part} {s0 : State} (l : Lane) (path : List Nat) (s : State) (hs : sub [.kv] L = true) (hw : changesOnly L s0 s) : changesOnly L s0 (moveTree l path s) := by
  unfold moveTree
  repeat' (first | with_reducible (first | assumption | intro t x ht | intro t ht | apply co_moveNode | apply co_foldl) | exact sub_trans (by decide) hs | split | dsimp only)
theorem co_laneOutcome {L : List Part} {s0 : State} (c : StepRec) (l : Lane) (s : State) (hs : sub [.core, .kv, .head, .req, .ptn, .net, .free] L = true) (hw : changesOnly L s0 s) : changesOnly L s0 (laneOutcome c l s) := by
  unfold laneOutcome
  repeat' (first | with_reducible (first | assumption | intro t x ht | intro t ht | apply co_modEntry | apply co_fillLane | apply co_advance | apply co_moveTree) | exact sub_trans (by decide) hs | split | (rename_i he; have hd := congrArg Prod.snd he; dsimp only at hd; subst hd) | dsimp only)
theorem co_addDigCol {L : List Part} {s0 : State} (array plane col : Nat) (persist : Bool) (s : State) (hs : sub [.arr, .evr] L = true) (hw : changesOnly L s0 s) : changesOnly L s0 (addDigCol array plane col persist s) := by
  unfold addDigCol
  repeat' (first | with_reducible (first | assumption | intro t x ht | intro t ht | apply co_fire) | exact sub_trans (by decide) hs | split | (fail_if_no_progress with_reducible apply co_set_arr) | dsimp only)
theorem co_modDigcol {L : List Part} {s0 : State} (core : Nat) (f : List DigCol → List DigCol) (s : State) (hs : sub [.arr] L = true) (hw : changesOnly L s0 s) : changesOnly L s0 (modDigcol core f s) := by
  unfold modDigcol
  repeat' (first | with_reducible (first | assumption | intro t x ht | intro t ht) | exact sub_trans (by decide) hs | (fail_if_no_progress with_reducible apply co_set_arr))
theorem co_satColumn {L : List Part} {s0 : State} (pk col : Nat) (s : State) (hs : sub [.arr, .evr] L = true) (hw : changesOnly L s0 s) : changesOnly L s0 (satColumn pk col s) := by
  unfold satColumn
  repeat' (first | with_reducible (first | assumption | intro t x ht | intro t ht | apply co_addDigCol) | exact sub_trans (by decide) hs | split | (fail_if_no_progress with_reducible apply co_set_arr) | dsimp only)
theorem co_satCommit {L : List Part} {s0 : State} (s : State) (hs : sub [.arr, .evr] L = true) (hw : changesOnly L s0 s) : changesOnly L s0 (satCommit s) := by
  unfold satCommit
  repeat' (first | with_reducible (first | assumption | intro t x ht | intro t ht | apply co_satColumn | apply co_foldl) | exact sub_trans (by decide) hs | dsimp only)
theorem co_cleanCommit {L : List Part} {s0 : State} (s : State) (hs : sub [.arr] L = true) (hw : changesOnly L s0 s) : changesOnly L s0 (cleanCommit s) := by
  unfold cleanCommit
  repeat' (first | with_reducible (first | assumption | intro t x ht | intro t ht) | exact sub_trans (by decide) hs | split | (fail_if_no_progress with_reducible apply co_set_arr) | dsimp only)
theorem co_countReport {L : List Part} {s0 : State} (step : Nat) (k : Nat) (s : State) (hs : sub [.glz, .evr] L = true) (hw : changesOnly L s0 s) : changesOnly L s0 (countReport step k s) := by
  unfold countReport
  repeat' (first | with_reducible (first | assumption | intro t x ht | intro t ht | apply co_fireArg) | exact sub_trans (by decide) hs | split | (fail_if_no_progress with_reducible apply co_set_glz) | dsimp only)
theorem co_reportCommit {L : List Part} {s0 : State} (step : Nat) (s : State) (hs : sub [.glz, .evr] L = true) (hw : changesOnly L s0 s) : changesOnly L s0 (reportCommit step s) := by
  unfold reportCommit
  repeat' (first | with_reducible (first | assumption | intro t x ht | intro t ht | apply co_countReport | apply co_foldl) | exact sub_trans (by decide) hs | dsimp only)
theorem co_layerCounts {L : List Part} {s0 : State} (canvas step : Nat) (s : State) (hs : sub [.glz, .evr] L = true) (hw : changesOnly L s0 s) : changesOnly L s0 (layerCounts canvas step s) := by
  unfold layerCounts
  repeat' (first | with_reducible (first | assumption | intro t x ht | intro t ht | apply co_fireArg | apply co_foldl) | exact sub_trans (by decide) hs | split | (rename_i he; have hd := congrArg Prod.snd he; dsimp only at hd; subst hd) | (fail_if_no_progress with_reducible apply co_set_glz) | dsimp only)
theorem co_varCommit {L : List Part} {s0 : State} (s : State) (hs : sub [.glz] L = true) (hw : changesOnly L s0 s) : changesOnly L s0 (varCommit s) := by
  unfold varCommit
  repeat' (first | with_reducible (first | assumption | intro t x ht | intro t ht | apply co_foldl) | exact sub_trans (by decide) hs | split | (fail_if_no_progress with_reducible apply co_set_glz) | dsimp only)
theorem co_addSample {L : List Part} {s0 : State} (half : Nat) (x : Sample) (s : State) (hs : sub [.glz] L = true) (hw : changesOnly L s0 s) : changesOnly L s0 (addSample half x s) := by
  unfold addSample
  repeat' (first | with_reducible (first | assumption | intro t x ht | intro t ht) | exact sub_trans (by decide) hs | (fail_if_no_progress with_reducible apply co_set_glz) | dsimp only)
theorem co_statCommit {L : List Part} {s0 : State} (num : Nat) (s : State) (hs : sub [.glz] L = true) (hw : changesOnly L s0 s) : changesOnly L s0 (statCommit num s) := by
  unfold statCommit
  repeat' (first | with_reducible (first | assumption | intro t x ht | intro t ht | apply co_addSample | apply co_foldl) | exact sub_trans (by decide) hs | dsimp only)
theorem co_setEntry {L : List Part} {s0 : State} (drift : Bool) (key : Nat) (v : Int × Int) (s : State) (hs : sub [.arr] L = true) (hw : changesOnly L s0 s) : changesOnly L s0 (setEntry drift key v s) := by
  unfold setEntry
  repeat' (first | with_reducible (first | assumption | intro t x ht | intro t ht) | exact sub_trans (by decide) hs | split | (fail_if_no_progress with_reducible apply co_set_arr))
theorem co_stepRamps {L : List Part} {s0 : State} (p : Ramp → Bool) (s : State) (hs : sub [.arr, .glz] L = true) (hw : changesOnly L s0 s) : changesOnly L s0 (stepRamps p s) := by
  unfold stepRamps
  repeat' (first | with_reducible (first | assumption | intro t x ht | intro t ht | apply co_setEntry | apply co_foldl) | exact sub_trans (by decide) hs | split | (fail_if_no_progress with_reducible apply co_set_glz) | dsimp only)
theorem co_raiseFloor {L : List Part} {s0 : State} (c : Nat) (s : State) (hs : sub [.cnv, .ptn, .net, .cal, .evr] L = true) (hw : changesOnly L s0 s) : changesOnly L s0 (raiseFloor c s) := by
  unfold raiseFloor
  repeat' (first | with_reducible (first | assumption | intro t x ht | intro t ht | apply co_modCnv | apply co_raiseAll | apply co_fire | apply co_calDue | apply co_foldl) | exact sub_trans (by decide) hs | split | dsimp only)
theorem co_floorCommit {L : List Part} {s0 : State} (c : StepRec) (s : State) (hs : sub [.cnv, .ptn, .net, .cal, .evr] L = true) (hw : changesOnly L s0 s) : changesOnly L s0 (floorCommit c s) := by
  unfold floorCommit
  repeat' (first | with_reducible (first | assumption | intro t x ht | intro t ht | apply co_modCnv | apply co_raiseFloor) | exact sub_trans (by decide) hs | split | dsimp only)
theorem co_commitHolders {L : List Part} {s0 : State} (c : StepRec) (s : State) (hs : sub [.arr, .core, .glz, .kv, .head, .req, .cnv, .ptn, .net, .cal, .evr, .free] L = true) (hw : changesOnly L s0 s) : changesOnly L s0 (commitHolders c s) := by
  unfold commitHolders
  repeat' (first | with_reducible (first | assumption | intro t x ht | intro t ht | apply co_laneOutcome | apply co_layerCounts | apply co_reportCommit | apply co_cleanCommit | apply co_satCommit | apply co_floorCommit | apply co_stepRamps | apply co_statCommit | apply co_varCommit | apply co_foldl) | exact sub_trans (by decide) hs | dsimp only)
theorem co_settleXfers {L : List Part} {s0 : State} (c : StepRec) (s : State) (hs : sub [.seq] L = true) (hw : changesOnly L s0 s) : changesOnly L s0 (settleXfers c s) := by
  unfold settleXfers
  repeat' (first | with_reducible (first | assumption | intro t x ht | intro t ht) | exact sub_trans (by decide) hs | split | (fail_if_no_progress with_reducible apply co_set_seq) | dsimp only)
theorem co_countStep {L : List Part} {s0 : State} (s : State) (hs : sub [.sch] L = true) (hw : changesOnly L s0 s) : changesOnly L s0 (countStep s) := by
  unfold countStep
  repeat' (first | with_reducible (first | assumption | intro t x ht | intro t ht) | exact sub_trans (by decide) hs | (fail_if_no_progress with_reducible apply co_set_sch))
theorem co_commitOp {L : List Part} {s0 : State} (s : State) (hs : sub [.arr, .core, .glz, .seq, .sch, .kv, .head, .req, .cnv, .ptn, .net, .cal, .evr, .free] L = true) (hw : changesOnly L s0 s) : changesOnly L s0 (commitOp s) := by
  unfold commitOp
  repeat' (first | with_reducible (first | assumption | intro t x ht | intro t ht | apply co_countStep | apply co_retireKilled | apply co_clearStep | apply co_commitHolders | apply co_settleXfers) | exact sub_trans (by decide) hs | split)
/-! ### Boundary -/
theorem co_beginPause {L : List Part} {s0 : State} (ix : Nat) (s : State) (hs : sub [.req, .ptn, .net] L = true) (hw : changesOnly L s0 s) : changesOnly L s0 (beginPause ix s) := by
  unfold beginPause
  repeat' (first | with_reducible (first | assumption | intro t x ht | intro t ht | apply co_modEntry | apply co_complete) | exact sub_trans (by decide) hs | split | dsimp only)
theorem co_beginResume {L : List Part} {s0 : State} (ix : Nat) (s : State) (hs : sub [.req] L = true) (hw : changesOnly L s0 s) : changesOnly L s0 (beginResume ix s) := by
  unfold beginResume
  repeat' (first | with_reducible (first | assumption | intro t x ht | intro t ht | apply co_modEntry) | exact sub_trans (by decide) hs | split | dsimp only)
theorem co_suspendOp {L : List Part} {s0 : State} (ix : Nat) (s : State) (hs : sub [.req] L = true) (hw : changesOnly L s0 s) : changesOnly L s0 (suspendOp ix s) := by
  unfold suspendOp
  repeat' (first | with_reducible (first | assumption | intro t x ht | intro t ht | apply co_modEntry) | exact sub_trans (by decide) hs | split | dsimp only)
theorem co_heldOp {L : List Part} {s0 : State} (ix : Nat) (s : State) (hs : sub [.seq, .req] L = true) (hw : changesOnly L s0 s) : changesOnly L s0 (heldOp ix s) := by
  unfold heldOp
  repeat' (first | with_reducible (first | assumption | intro t x ht | intro t ht | apply co_hold | apply co_modEntry) | exact sub_trans (by decide) hs | split | dsimp only)
theorem co_admitWaiting {L : List Part} {s0 : State} (ix : Nat) (s : State) (hs : sub [.req, .net] L = true) (hw : changesOnly L s0 s) : changesOnly L s0 (admitWaiting ix s) := by
  unfold admitWaiting
  repeat' (first | with_reducible (first | assumption | intro t x ht | intro t ht | apply co_replyLate | apply co_modEntry) | exact sub_trans (by decide) hs | split | dsimp only)
theorem co_boundaryEntry {L : List Part} {s0 : State} (s : State) (ix : Nat) (hs : sub [.seq, .kv, .head, .req, .ptn, .net] L = true) (hw : changesOnly L s0 s) : changesOnly L s0 (boundaryEntry s ix) := by
  unfold boundaryEntry
  repeat' (first | with_reducible (first | assumption | intro t x ht | intro t ht | apply co_retire | apply co_retireWith | apply co_modEntry | apply co_beginPause | apply co_beginResume | apply co_heldOp | apply co_suspendOp | apply co_admitWaiting) | exact sub_trans (by decide) hs | split | dsimp only)
theorem co_disablePtn {L : List Part} {s0 : State} (s : State) (n : Nat) (hs : sub [.ptn] L = true) (hw : changesOnly L s0 s) : changesOnly L s0 (disablePtn s n) := by
  unfold disablePtn
  repeat' (first | with_reducible (first | assumption | intro t x ht | intro t ht | apply co_modPtn) | exact sub_trans (by decide) hs | split | dsimp only)
theorem co_settleCnv {L : List Part} {s0 : State} (s : State) (c : Nat) (hs : sub [.req, .cnv] L = true) (hw : changesOnly L s0 s) : changesOnly L s0 (settleCnv s c) := by
  unfold settleCnv
  repeat' (first | with_reducible (first | assumption | intro t x ht | intro t ht | apply co_modEntry | apply co_modCnv | apply co_foldl) | exact sub_trans (by decide) hs | split | dsimp only)
theorem co_holdLost {L : List Part} {s0 : State} (s : State) (hs : sub [.cnv, .ptn, .net] L = true) (hw : changesOnly L s0 s) : changesOnly L s0 (holdLost s) := by
  unfold holdLost
  repeat' (first | with_reducible (first | assumption | intro t x ht | intro t ht | apply co_modCnv | apply co_holdCanvas | apply co_foldl) | exact sub_trans (by decide) hs | dsimp only)
theorem co_updateWork {L : List Part} {s0 : State} (s : State) (hs : sub [.sec] L = true) (hw : changesOnly L s0 s) : changesOnly L s0 (updateWork s) := by
  unfold updateWork
  repeat' (first | with_reducible (first | assumption | intro t x ht | intro t ht) | exact sub_trans (by decide) hs | split | (fail_if_no_progress with_reducible apply co_set_sec))
theorem co_boundaryWork {L : List Part} {s0 : State} (s : State) (hs : sub [.arr, .glz, .seq, .kv, .head, .req, .cnv, .ptn, .net, .hist, .sec] L = true) (hw : changesOnly L s0 s) : changesOnly L s0 (boundaryWork s) := by
  unfold boundaryWork
  repeat' (first | with_reducible (first | assumption | intro t x ht | intro t ht | apply co_updateWork | apply co_holdLost | apply co_auditOff | apply co_boundaryEntry | apply co_settleCnv | apply co_disablePtn | apply co_freeTints | apply co_foldl) | exact sub_trans (by decide) hs | dsimp only)
theorem co_writeRegion {L : List Part} {s0 : State} (s : State) (hs : sub [.req] L = true) (hw : changesOnly L s0 s) : changesOnly L s0 (writeRegion s) := by
  unfold writeRegion
  repeat' (first | with_reducible (first | assumption | intro t x ht | intro t ht | apply co_foldl) | exact sub_trans (by decide) hs | (fail_if_no_progress with_reducible apply co_set_req) | dsimp only)
/-! ### Compose -/
theorem co_prepareLane {L : List Part} {s0 : State} (b : Bundle) (s : State) (l : Lane) (hs : sub [.kv, .req] L = true) (hw : changesOnly L s0 s) : changesOnly L s0 (prepareLane b s l) := by
  unfold prepareLane
  repeat' (first | with_reducible (first | assumption | intro t x ht | intro t ht | apply co_ensureSlots | apply co_writeMask | apply co_modEntry) | exact sub_trans (by decide) hs | split | dsimp only)
theorem co_setPlan {L : List Part} {s0 : State} (cl : Nat) (p : List SliceId) (s : State) (hs : sub [.kv] L = true) (hw : changesOnly L s0 s) : changesOnly L s0 (setPlan cl p s) := by
  unfold setPlan
  repeat' (first | with_reducible (first | assumption | intro t x ht | intro t ht) | exact sub_trans (by decide) hs | (fail_if_no_progress with_reducible apply co_set_kv))
theorem co_planCaches {L : List Part} {s0 : State} (s : State) (hs : sub [.kv] L = true) (hw : changesOnly L s0 s) : changesOnly L s0 (planCaches s) := by
  unfold planCaches
  repeat' (first | with_reducible (first | assumption | intro t x ht | intro t ht | apply co_setPlan | apply co_foldl) | exact sub_trans (by decide) hs | dsimp only)
theorem co_retireNoa8 {L : List Part} {s0 : State} (c : Nat) (s : State) (hs : sub [.kv, .head, .req, .ptn, .net] L = true) (hw : changesOnly L s0 s) : changesOnly L s0 (retireNoa8 c s) := by
  unfold retireNoa8
  repeat' (first | with_reducible (first | assumption | intro t x ht | intro t ht | apply co_retireWith | apply co_foldl) | exact sub_trans (by decide) hs | split | dsimp only)
theorem co_writeDescs {L : List Part} {s0 : State} (ls : List Lane) (s : State) (cl : Nat) (hs : sub [.seq] L = true) (hw : changesOnly L s0 s) : changesOnly L s0 (writeDescs ls s cl) := by
  unfold writeDescs
  repeat' (first | with_reducible (first | assumption | intro t x ht | intro t ht | apply co_foldl) | exact sub_trans (by decide) hs | (fail_if_no_progress with_reducible apply co_set_seq) | dsimp only)
theorem co_sendDescs {L : List Part} {s0 : State} (r : StepRec) (s : State) (hs : sub [.seq] L = true) (hw : changesOnly L s0 s) : changesOnly L s0 (sendDescs r s) := by
  unfold sendDescs
  repeat' (first | with_reducible (first | assumption | intro t x ht | intro t ht | apply co_writeDescs | apply co_foldl) | exact sub_trans (by decide) hs)
theorem co_startStep {L : List Part} {s0 : State} (b : Bundle) (c : Nat) (s : State) (hs : sub [.arr, .core, .glz, .seq, .sch, .kv, .req] L = true) (hw : changesOnly L s0 s) : changesOnly L s0 (startStep b c s) := by
  unfold startStep
  repeat' (first | with_reducible (first | assumption | intro t x ht | intro t ht | apply co_stepRamps | apply co_prepareLane | apply co_schedToAll | apply co_fetchRows | apply co_sendDescs | apply co_foldl) | exact sub_trans (by decide) hs | split | (fail_if_no_progress with_reducible apply co_set_sch) | dsimp only)
theorem co_composeOp {L : List Part} {s0 : State} (s : State) (hs : sub [.arr, .core, .glz, .seq, .sch, .kv, .head, .req, .cnv, .ptn, .net, .hist, .sec] L = true) (hw : changesOnly L s0 s) : changesOnly L s0 (composeOp s) := by
  unfold composeOp
  repeat' (first | with_reducible (first | assumption | intro t x ht | intro t ht | apply co_planCaches | apply co_writeRegion | apply co_boundaryWork | apply co_startStep | apply co_retireNoa8) | exact sub_trans (by decide) hs | split | dsimp only)
theorem co_energySample {L : List Part} {s0 : State} (uj : Nat) (s : State) (hs : sub [.sch, .pwr] L = true) (hw : changesOnly L s0 s) : changesOnly L s0 (energySample uj s) := by
  unfold energySample
  repeat' (first | with_reducible (first | assumption | intro t x ht | intro t ht) | exact sub_trans (by decide) hs | split | (fail_if_no_progress with_reducible apply co_set_sch_pwr) | dsimp only)
theorem co_floorExpire {L : List Part} {s0 : State} (c : Nat) (s : State) (hs : sub [.cnv, .ptn, .net, .evr] L = true) (hw : changesOnly L s0 s) : changesOnly L s0 (floorExpire c s) := by
  unfold floorExpire
  repeat' (first | with_reducible (first | assumption | intro t x ht | intro t ht | apply co_raiseAll | apply co_fire | apply co_modCnv) | exact sub_trans (by decide) hs | split | dsimp only)

end Sys2Proof.Machine
end

