-- ==== Sys2Proof/Laws/TouchHost.lean ====
section
/-! SUPPORT. Which parts of the state change: calibration, fences, host commands, staging and programming. `co_f` says that `f` changes no part outside its list. -/

namespace Sys2Proof.Machine

/-! ### Calibrate -/
theorem co_exhaustArray {L : List Part} {s0 : State} (array detail : Nat) (s : State) (hs : sub [.arr, .seq, .sch, .cnv, .ptn, .net, .hist, .sec, .evr, .dev] L = true) (hw : changesOnly L s0 s) : changesOnly L s0 (exhaustArray array detail s) := by
  unfold exhaustArray
  repeat' (first | with_reducible (first | assumption | intro t x ht | intro t ht | apply co_recordFault) | exact sub_trans (by decide) hs | split | (fail_if_no_progress with_reducible apply co_set_arr))
theorem co_wantRemap {L : List Part} {s0 : State} (array plane col : Nat) (s : State) (hs : sub [.arr, .evr] L = true) (hw : changesOnly L s0 s) : changesOnly L s0 (wantRemap array plane col s) := by
  unfold wantRemap
  repeat' (first | with_reducible (first | assumption | intro t x ht | intro t ht | apply co_addDigCol | apply co_modDigcol) | exact sub_trans (by decide) hs | split | (fail_if_no_progress with_reducible apply co_set_arr) | dsimp only)
theorem co_place {L : List Part} {s0 : State} (core : Nat) (drift : Bool) (key : Nat) (v : Int × Int) (s : State) (hs : sub [.cal] L = true) (hw : changesOnly L s0 s) : changesOnly L s0 (place core drift key v s) := by
  unfold place
  repeat' (first | with_reducible (first | assumption | intro t x ht | intro t ht) | exact sub_trans (by decide) hs | split | (fail_if_no_progress with_reducible apply co_set_cal))
theorem co_discard {L : List Part} {s0 : State} (cl key unit level col : Nat) (s : State) (hs : sub [.cal, .evr] L = true) (hw : changesOnly L s0 s) : changesOnly L s0 (discard cl key unit level col s) := by
  unfold discard
  repeat' (first | with_reducible (first | assumption | intro t x ht | intro t ht | apply co_fire | apply co_modCal) | exact sub_trans (by decide) hs | (fail_if_no_progress with_reducible apply co_set_cal) | dsimp only)
theorem co_accept {L : List Part} {s0 : State} (key : Nat) (s : State) (hs : sub [.cal] L = true) (hw : changesOnly L s0 s) : changesOnly L s0 (accept key s) := by
  unfold accept
  repeat' (first | with_reducible (first | assumption | intro t x ht | intro t ht) | exact sub_trans (by decide) hs | (fail_if_no_progress with_reducible apply co_set_cal))
theorem co_measConv {L : List Part} {s0 : State} (m : CalMeas) (s : State) (hs : sub [.arr, .seq, .sch, .cnv, .ptn, .net, .hist, .cal, .sec, .evr, .dev] L = true) (hw : changesOnly L s0 s) : changesOnly L s0 (measConv m s) := by
  unfold measConv
  repeat' (first | with_reducible (first | assumption | intro t x ht | intro t ht | apply co_discard | apply co_exhaustArray | apply co_place | apply co_accept | apply co_foldl) | exact sub_trans (by decide) hs | split | dsimp only)
theorem co_measSwatch {L : List Part} {s0 : State} (m : CalMeas) (s : State) (hs : sub [.arr, .seq, .sch, .cnv, .ptn, .net, .hist, .cal, .sec, .evr, .dev] L = true) (hw : changesOnly L s0 s) : changesOnly L s0 (measSwatch m s) := by
  unfold measSwatch
  repeat' (first | with_reducible (first | assumption | intro t x ht | intro t ht | apply co_discard | apply co_exhaustArray | apply co_accept) | exact sub_trans (by decide) hs | split | (fail_if_no_progress with_reducible apply co_set_cal) | dsimp only)
theorem co_measure {L : List Part} {s0 : State} (s : State) (m : CalMeas) (hs : sub [.arr, .seq, .sch, .cnv, .ptn, .net, .hist, .cal, .sec, .evr, .dev] L = true) (hw : changesOnly L s0 s) : changesOnly L s0 (measure s m) := by
  unfold measure
  repeat' (first | with_reducible (first | assumption | intro t x ht | intro t ht | apply co_measSwatch | apply co_measConv) | exact sub_trans (by decide) hs | split)
theorem co_sendColumn {L : List Part} {s0 : State} (tile col : Nat) (s : State) (hs : sub [.arr, .ptn, .net, .cal, .evr] L = true) (hw : changesOnly L s0 s) : changesOnly L s0 (sendColumn tile col s) := by
  unfold sendColumn
  repeat' (first | with_reducible (first | assumption | intro t x ht | intro t ht | apply co_wantRemap | apply co_healthUnit | apply co_fire | apply co_foldl) | exact sub_trans (by decide) hs | (fail_if_no_progress with_reducible apply co_set_cal) | dsimp only)
theorem co_measDrift {L : List Part} {s0 : State} (tile : Nat) (h0 h1 : Stats) (s : State) (col : Nat) (hs : sub [.arr, .seq, .sch, .cnv, .ptn, .net, .hist, .cal, .sec, .evr, .dev] L = true) (hw : changesOnly L s0 s) : changesOnly L s0 (measDrift tile h0 h1 s col) := by
  unfold measDrift
  repeat' (first | with_reducible (first | assumption | intro t x ht | intro t ht | apply co_discard | apply co_recordFault | apply co_sendColumn | apply co_accept | apply co_place) | exact sub_trans (by decide) hs | split | (rename_i he; have hd := congrArg Prod.snd he; dsimp only at hd; subst hd) | dsimp only)
theorem co_measTile {L : List Part} {s0 : State} (s : State) (tile : Nat) (hs : sub [.arr, .seq, .sch, .cnv, .ptn, .net, .hist, .cal, .sec, .evr, .dev] L = true) (hw : changesOnly L s0 s) : changesOnly L s0 (measTile s tile) := by
  unfold measTile
  repeat' (first | with_reducible (first | assumption | intro t x ht | intro t ht | apply co_measDrift | apply co_foldl) | exact sub_trans (by decide) hs)
theorem co_calEvent {L : List Part} {s0 : State} (s : State) (hs : sub [.ptn, .net, .cal] L = true) (hw : changesOnly L s0 s) : changesOnly L s0 (calEvent s) := by
  unfold calEvent
  repeat' (first | with_reducible (first | assumption | intro t x ht | intro t ht | apply co_raiseAll) | exact sub_trans (by decide) hs | (fail_if_no_progress with_reducible apply co_set_cal))
theorem co_gapOpen {L : List Part} {s0 : State} (meas : List CalMeas) (s : State) (hs : sub [.arr, .seq, .sch, .cnv, .ptn, .net, .hist, .cal, .sec, .evr, .dev] L = true) (hw : changesOnly L s0 s) : changesOnly L s0 (gapOpen meas s) := by
  unfold gapOpen
  repeat' (first | with_reducible (first | assumption | intro t x ht | intro t ht | apply co_calEvent | apply co_modCal | apply co_measTile | apply co_measure | apply co_foldl) | exact sub_trans (by decide) hs | split | (fail_if_no_progress with_reducible apply co_set_cal) | dsimp only)
theorem co_writeWhole {L : List Part} {s0 : State} (w : Nat × Nat × (Int × Int)) (s : State) (hs : sub [.arr, .glz] L = true) (hw : changesOnly L s0 s) : changesOnly L s0 (writeWhole w s) := by
  unfold writeWhole
  repeat' (first | with_reducible (first | assumption | intro t x ht | intro t ht | apply co_setEntry) | exact sub_trans (by decide) hs | split | (fail_if_no_progress with_reducible apply co_set_arr_glz) | dsimp only)
theorem co_startRamp {L : List Part} {s0 : State} (r : Ramp) (s : State) (hs : sub [.glz] L = true) (hw : changesOnly L s0 s) : changesOnly L s0 (startRamp r s) := by
  unfold startRamp
  repeat' (first | with_reducible (first | assumption | intro t x ht | intro t ht) | exact sub_trans (by decide) hs | split | (fail_if_no_progress with_reducible apply co_set_glz) | dsimp only)
theorem co_closeCluster {L : List Part} {s0 : State} (s : State) (cl : Nat) (hs : sub [.glz, .cal] L = true) (hw : changesOnly L s0 s) : changesOnly L s0 (closeCluster s cl) := by
  unfold closeCluster
  repeat' (first | with_reducible (first | assumption | intro t x ht | intro t ht | apply co_calDue | apply co_modCal) | exact sub_trans (by decide) hs | split | (fail_if_no_progress with_reducible apply co_set_glz) | dsimp only)
theorem co_settleSpares {L : List Part} {s0 : State} (s : State) (hs : sub [.hist] L = true) (hw : changesOnly L s0 s) : changesOnly L s0 (settleSpares s) := by
  unfold settleSpares
  repeat' (first | with_reducible (first | assumption | intro t x ht | intro t ht) | exact sub_trans (by decide) hs | split | (fail_if_no_progress with_reducible apply co_set_hist) | dsimp only)
theorem co_gapClose {L : List Part} {s0 : State} (s : State) (hs : sub [.arr, .glz, .hist, .cal] L = true) (hw : changesOnly L s0 s) : changesOnly L s0 (gapClose s) := by
  unfold gapClose
  repeat' (first | with_reducible (first | assumption | intro t x ht | intro t ht | apply co_startRamp | apply co_writeWhole | apply co_settleSpares | apply co_closeCluster | apply co_foldl) | exact sub_trans (by decide) hs | split | (fail_if_no_progress with_reducible apply co_set_cal) | dsimp only)
/-! ### Integrity -/
theorem co_sampleGroup {L : List Part} {s0 : State} (eng spare : Nat) (k : Stroke) (dev : Tab Int) (s : State) (grp : Nat) (hs : sub [.hist] L = true) (hw : changesOnly L s0 s) : changesOnly L s0 (sampleGroup eng spare k dev s grp) := by
  unfold sampleGroup
  repeat' (first | with_reducible (first | assumption | intro t x ht | intro t ht | apply co_modAudit) | exact sub_trans (by decide) hs | split | (fail_if_no_progress with_reducible apply co_set_hist) | dsimp only)
theorem co_auditSample {L : List Part} {s0 : State} (eng : Nat) (k : Stroke) (dev : Tab Int) (s : State) (hs : sub [.hist] L = true) (hw : changesOnly L s0 s) : changesOnly L s0 (auditSample eng k dev s) := by
  unfold auditSample
  repeat' (first | with_reducible (first | assumption | intro t x ht | intro t ht | apply co_sampleGroup | apply co_foldl) | exact sub_trans (by decide) hs | split | dsimp only)
theorem co_strokeEndAll {L : List Part} {s0 : State} (eng : Nat) (dev : Tab Int) (tree : Nat) (s : State) (hs : sub [.arr, .core, .seq, .hist] L = true) (hw : changesOnly L s0 s) : changesOnly L s0 (strokeEndAll eng dev tree s) := by
  unfold strokeEndAll
  repeat' (first | with_reducible (first | assumption | intro t x ht | intro t ht | apply co_strokeEndOp | apply co_auditSample) | exact sub_trans (by decide) hs | split)
theorem co_auditHealth {L : List Part} {s0 : State} (r : AuditRec) (s : State) (hs : sub [.ptn, .net] L = true) (hw : changesOnly L s0 s) : changesOnly L s0 (auditHealth r s) := by
  unfold auditHealth
  repeat' (first | with_reducible (first | assumption | intro t x ht | intro t ht | apply co_raiseAll) | exact sub_trans (by decide) hs)
theorem co_settleAudit {L : List Part} {s0 : State} (spare : Nat) (r : AuditRec) (again : List Int) (s : State) (hs : sub [.seq, .sch, .cnv, .ptn, .net, .hist, .sec, .evr, .dev] L = true) (hw : changesOnly L s0 s) : changesOnly L s0 (settleAudit spare r again s) := by
  unfold settleAudit
  repeat' (first | with_reducible (first | assumption | intro t x ht | intro t ht | apply co_fire | apply co_recordFault | apply co_auditHealth) | exact sub_trans (by decide) hs | split | (fail_if_no_progress with_reducible apply co_set_hist) | dsimp only)
theorem co_auditArbitrate {L : List Part} {s0 : State} (cl : Nat) (again : List Int) (s : State) (hs : sub [.seq, .sch, .cnv, .ptn, .net, .hist, .sec, .evr, .dev] L = true) (hw : changesOnly L s0 s) : changesOnly L s0 (auditArbitrate cl again s) := by
  unfold auditArbitrate
  repeat' (first | with_reducible (first | assumption | intro t x ht | intro t ht | apply co_modAudit | apply co_settleAudit) | exact sub_trans (by decide) hs | split | dsimp only)
theorem co_addCycle {L : List Part} {s0 : State} (core : Nat) (s : State) (hs : sub [.ptn, .net, .hist] L = true) (hw : changesOnly L s0 s) : changesOnly L s0 (addCycle core s) := by
  unfold addCycle
  repeat' (first | with_reducible (first | assumption | intro t x ht | intro t ht | apply co_healthUnit) | exact sub_trans (by decide) hs | split | (fail_if_no_progress with_reducible apply co_set_hist) | dsimp only)
theorem co_wearCore {L : List Part} {s0 : State} (s : State) (core : Nat) (hs : sub [.seq, .sch, .cnv, .ptn, .net, .hist, .sec, .evr, .dev] L = true) (hw : changesOnly L s0 s) : changesOnly L s0 (wearCore s core) := by
  unfold wearCore
  repeat' (first | with_reducible (first | assumption | intro t x ht | intro t ht | apply co_recordFault | apply co_addCycle) | exact sub_trans (by decide) hs | split)
theorem co_unwrite {L : List Part} {s0 : State} (core : Nat) (s : State) (hs : sub [.arr] L = true) (hw : changesOnly L s0 s) : changesOnly L s0 (unwrite core s) := by
  unfold unwrite
  repeat' (first | with_reducible (first | assumption | intro t x ht | intro t ht) | exact sub_trans (by decide) hs | (fail_if_no_progress with_reducible apply co_set_arr) | dsimp only)
theorem co_sparePass {L : List Part} {s0 : State} (col : Nat) (s : State) (pk : Nat) (hs : sub [.arr] L = true) (hw : changesOnly L s0 s) : changesOnly L s0 (sparePass col s pk) := by
  unfold sparePass
  repeat' (first | with_reducible (first | assumption | intro t x ht | intro t ht) | exact sub_trans (by decide) hs | (fail_if_no_progress with_reducible apply co_set_arr) | dsimp only)
theorem co_remapCol {L : List Part} {s0 : State} (array col : Nat) (s : State) (hs : sub [.arr, .seq, .sch, .cnv, .ptn, .net, .hist, .sec, .evr, .dev] L = true) (hw : changesOnly L s0 s) : changesOnly L s0 (remapCol array col s) := by
  unfold remapCol
  repeat' (first | with_reducible (first | assumption | intro t x ht | intro t ht | apply co_exhaustArray | apply co_wearCore | apply co_sparePass | apply co_addCycle | apply co_foldl) | exact sub_trans (by decide) hs | split | (fail_if_no_progress with_reducible apply co_set_arr) | dsimp only)
theorem co_programEngine {L : List Part} {s0 : State} (eng : Nat) (s : State) (hs : sub [.arr, .seq, .sch, .cnv, .ptn, .net, .hist, .sec, .evr, .dev] L = true) (hw : changesOnly L s0 s) : changesOnly L s0 (programEngine eng s) := by
  unfold programEngine
  repeat' (first | with_reducible (first | assumption | intro t x ht | intro t ht | apply co_remapCol | apply co_foldl) | exact sub_trans (by decide) hs | (fail_if_no_progress with_reducible apply co_set_arr) | dsimp only)
theorem co_programCore {L : List Part} {s0 : State} (core : Nat) (s : State) (hs : sub [.arr, .seq, .sch, .cnv, .ptn, .net, .hist, .sec, .evr, .dev] L = true) (hw : changesOnly L s0 s) : changesOnly L s0 (programCore core s) := by
  unfold programCore
  repeat' (first | with_reducible (first | assumption | intro t x ht | intro t ht | apply co_programEngine | apply co_foldl) | exact sub_trans (by decide) hs | dsimp only)
theorem co_copyPos {L : List Part} {s0 : State} (src dst : Nat) (s : State) (hs : sub [.arr, .glz, .kv] L = true) (hw : changesOnly L s0 s) : changesOnly L s0 (copyPos src dst s) := by
  unfold copyPos
  repeat' (first | with_reducible (first | assumption | intro t x ht | intro t ht | apply co_clearPos | apply co_foldl) | exact sub_trans (by decide) hs | (fail_if_no_progress with_reducible apply co_set_glz_kv) | dsimp only)
theorem co_auditStop {L : List Part} {s0 : State} (cl : Nat) (s : State) (hs : sub [.arr, .glz, .kv, .hist, .evr] L = true) (hw : changesOnly L s0 s) : changesOnly L s0 (auditStop cl s) := by
  unfold auditStop
  repeat' (first | with_reducible (first | assumption | intro t x ht | intro t ht | apply co_clearPos | apply co_setRole | apply co_fire | apply co_modAudit) | exact sub_trans (by decide) hs | split | dsimp only)
theorem co_dropSilicon {L : List Part} {s0 : State} (core : Nat) (s : State) (hs : sub [.arr, .glz] L = true) (hw : changesOnly L s0 s) : changesOnly L s0 (dropSilicon core s) := by
  unfold dropSilicon
  repeat' (first | with_reducible (first | assumption | intro t x ht | intro t ht) | exact sub_trans (by decide) hs | (fail_if_no_progress with_reducible apply co_set_arr_glz) | dsimp only)
theorem co_fillSpare {L : List Part} {s0 : State} (core spare : Nat) (s : State) (hs : sub [.arr, .glz, .seq, .sch, .kv, .cnv, .ptn, .net, .hist, .sec, .evr, .dev] L = true) (hw : changesOnly L s0 s) : changesOnly L s0 (fillSpare core spare s) := by
  unfold fillSpare
  repeat' (first | with_reducible (first | assumption | intro t x ht | intro t ht | apply co_addCycle | apply co_programCore | apply co_dropSilicon | apply co_unwrite | apply co_copyPos) | exact sub_trans (by decide) hs)
theorem co_auditMove {L : List Part} {s0 : State} (cl spare pos : Nat) (s : State) (hs : sub [.arr, .glz, .seq, .sch, .kv, .cnv, .ptn, .net, .hist, .sec, .evr, .dev] L = true) (hw : changesOnly L s0 s) : changesOnly L s0 (auditMove cl spare pos s) := by
  unfold auditMove
  repeat' (first | with_reducible (first | assumption | intro t x ht | intro t ht | apply co_modAudit | apply co_fillSpare | apply co_setRole) | exact sub_trans (by decide) hs | split | dsimp only)
theorem co_auditRotate {L : List Part} {s0 : State} (cl : Nat) (s : State) (hs : sub [.arr, .glz, .seq, .sch, .kv, .cnv, .ptn, .net, .hist, .sec, .evr, .dev] L = true) (hw : changesOnly L s0 s) : changesOnly L s0 (auditRotate cl s) := by
  unfold auditRotate
  repeat' (first | with_reducible (first | assumption | intro t x ht | intro t ht | apply co_auditStop | apply co_auditMove) | exact sub_trans (by decide) hs | split | dsimp only)
theorem co_holdForFence {L : List Part} {s0 : State} (s : State) (c : Nat) (hs : sub [.cnv, .ptn, .net] L = true) (hw : changesOnly L s0 s) : changesOnly L s0 (holdForFence s c) := by
  unfold holdForFence
  repeat' (first | with_reducible (first | assumption | intro t x ht | intro t ht | apply co_modCnv | apply co_holdCanvas) | exact sub_trans (by decide) hs | dsimp only)
theorem co_unhold {L : List Part} {s0 : State} (c : Nat) (s : State) (hs : sub [.cnv, .ptn, .net] L = true) (hw : changesOnly L s0 s) : changesOnly L s0 (unhold c s) := by
  unfold unhold
  repeat' (first | with_reducible (first | assumption | intro t x ht | intro t ht | apply co_canvasEvent | apply co_modCnv) | exact sub_trans (by decide) hs | split | dsimp only)
theorem co_settleWrite {L : List Part} {s0 : State} (s : State) (hs : sub [.hist, .cal] L = true) (hw : changesOnly L s0 s) : changesOnly L s0 (settleWrite s) := by
  unfold settleWrite
  repeat' (first | with_reducible (first | assumption | intro t x ht | intro t ht | apply co_calDue | apply co_foldl) | exact sub_trans (by decide) hs | split | (fail_if_no_progress with_reducible apply co_set_hist) | dsimp only)
theorem co_beginFence {L : List Part} {s0 : State} (core spare : Nat) (s : State) (hs : sub [.arr, .glz, .seq, .sch, .kv, .cnv, .ptn, .net, .hist, .cal, .sec, .evr, .dev] L = true) (hw : changesOnly L s0 s) : changesOnly L s0 (beginFence core spare s) := by
  unfold beginFence
  repeat' (first | with_reducible (first | assumption | intro t x ht | intro t ht | apply co_fire | apply co_auditStop | apply co_setRole | apply co_holdForFence | apply co_dropSilicon | apply co_fillSpare | apply co_settleWrite | apply co_uhWrite | apply co_healthUnit | apply co_foldl) | exact sub_trans (by decide) hs | split | (fail_if_no_progress with_reducible apply co_set_hist) | dsimp only)
theorem co_fenceStart {L : List Part} {s0 : State} (core : Nat) (s : State) (hs : sub [.arr, .glz, .seq, .sch, .kv, .cnv, .ptn, .net, .hist, .cal, .sec, .evr, .dev] L = true) (hw : changesOnly L s0 s) : changesOnly L s0 (fenceStart core s) := by
  unfold fenceStart
  repeat' (first | with_reducible (first | assumption | intro t x ht | intro t ht | apply co_setRole | apply co_beginFence | apply co_drainDecision) | exact sub_trans (by decide) hs | split | (fail_if_no_progress with_reducible apply co_set_hist))
theorem co_endFence {L : List Part} {s0 : State} (f : Fence) (s : State) (hs : sub [.arr, .glz, .kv, .cnv, .ptn, .net, .hist, .evr] L = true) (hw : changesOnly L s0 s) : changesOnly L s0 (endFence f s) := by
  unfold endFence
  repeat' (first | with_reducible (first | assumption | intro t x ht | intro t ht | apply co_setRole | apply co_clearPos | apply co_unhold | apply co_modCnv | apply co_uhWrite | apply co_fire | apply co_healthUnit | apply co_foldl) | exact sub_trans (by decide) hs | (fail_if_no_progress with_reducible apply co_set_hist) | dsimp only)
theorem co_fenceComplete {L : List Part} {s0 : State} (cl : Nat) (s : State) (hs : sub [.arr, .glz, .kv, .cnv, .ptn, .net, .hist, .evr] L = true) (hw : changesOnly L s0 s) : changesOnly L s0 (fenceComplete cl s) := by
  unfold fenceComplete
  repeat' (first | with_reducible (first | assumption | intro t x ht | intro t ht | apply co_endFence) | exact sub_trans (by decide) hs | split | dsimp only)
theorem co_drainBudget {L : List Part} {s0 : State} (s : State) (hs : sub [.req] L = true) (hw : changesOnly L s0 s) : changesOnly L s0 (drainBudget s) := by
  unfold drainBudget
  repeat' (first | with_reducible (first | assumption | intro t x ht | intro t ht | apply co_modEntry | apply co_foldl) | exact sub_trans (by decide) hs | split | dsimp only)
theorem co_moduleClose {L : List Part} {s0 : State} (reason k : Nat) (s : State) (hs : sub [.net] L = true) (hw : changesOnly L s0 s) : changesOnly L s0 (moduleClose reason k s) := by
  unfold moduleClose
  repeat' (first | with_reducible (first | assumption | intro t x ht | intro t ht | apply co_modSes) | exact sub_trans (by decide) hs | dsimp only)
theorem co_replaceEntry {L : List Part} {s0 : State} (s : State) (hs : sub [.ptn, .net, .hist, .evr, .dev] L = true) (hw : changesOnly L s0 s) : changesOnly L s0 (replaceEntry s) := by
  unfold replaceEntry
  repeat' (first | with_reducible (first | assumption | intro t x ht | intro t ht | apply co_fire | apply co_raiseAll | apply co_uhWrite | apply co_moduleClose | apply co_setMstate | apply co_foldl) | exact sub_trans (by decide) hs | split | (fail_if_no_progress with_reducible apply co_set_hist) | dsimp only)
theorem co_nonfence {L : List Part} {s0 : State} (unit level cause : Nat) (s : State) (hs : sub [.seq, .sch, .cnv, .ptn, .net, .hist, .sec, .evr, .dev] L = true) (hw : changesOnly L s0 s) : changesOnly L s0 (nonfence unit level cause s) := by
  unfold nonfence
  repeat' (first | with_reducible (first | assumption | intro t x ht | intro t ht | apply co_drainDecision | apply co_recordFault) | exact sub_trans (by decide) hs | split | (fail_if_no_progress with_reducible apply co_set_hist) | dsimp only)
theorem co_planeFailure {L : List Part} {s0 : State} (plane hop : Nat) (s : State) (hs : sub [.seq, .sch, .cnv, .ptn, .net, .hist, .sec, .evr, .dev] L = true) (hw : changesOnly L s0 s) : changesOnly L s0 (planeFailure plane hop s) := by
  unfold planeFailure
  repeat' (first | with_reducible (first | assumption | intro t x ht | intro t ht | apply co_fire | apply co_nonfence) | exact sub_trans (by decide) hs | split | (fail_if_no_progress with_reducible apply co_set_seq_hist) | dsimp only)
/-! ### HostCmd -/
theorem co_replyOutcome {L : List Part} {s0 : State} (h : Hdr) (o : Nat) (s : State) (hs : sub [.net] L = true) (hw : changesOnly L s0 s) : changesOnly L s0 (replyOutcome h o s) := by
  unfold replyOutcome
  repeat' (first | with_reducible (first | assumption | intro t x ht | intro t ht | apply co_replyFull) | exact sub_trans (by decide) hs | split)
theorem co_replyOutcomeLate {L : List Part} {s0 : State} (h : Hdr) (o : Nat) (s : State) (hs : sub [.net] L = true) (hw : changesOnly L s0 s) : changesOnly L s0 (replyOutcomeLate h o s) := by
  unfold replyOutcomeLate
  repeat' (first | with_reducible (first | assumption | intro t x ht | intro t ht | apply co_replyLate) | exact sub_trans (by decide) hs | split)
theorem co_endStaging {L : List Part} {s0 : State} (c : Nat) (s : State) (hs : sub [.cnv, .net] L = true) (hw : changesOnly L s0 s) : changesOnly L s0 (endStaging c s) := by
  unfold endStaging
  repeat' (first | with_reducible (first | assumption | intro t x ht | intro t ht | apply co_replyOutcome | apply co_modCnv) | exact sub_trans (by decide) hs | split | dsimp only)
theorem co_breakStaging {L : List Part} {s0 : State} (h : Hdr) (own : Option Nat) (s : State) (hs : sub [.cnv, .net] L = true) (hw : changesOnly L s0 s) : changesOnly L s0 (breakStaging h own s) := by
  unfold breakStaging
  repeat' (first | with_reducible (first | assumption | intro t x ht | intro t ht | apply co_endStaging | apply co_foldl) | exact sub_trans (by decide) hs | dsimp only)
theorem co_breakParts {L : List Part} {s0 : State} (n queue : Nat) (s : State) (hs : sub [.ptn, .net] L = true) (hw : changesOnly L s0 s) : changesOnly L s0 (breakParts n queue s) := by
  unfold breakParts
  repeat' (first | with_reducible (first | assumption | intro t x ht | intro t ht | apply co_replyLate | apply co_modPtn) | exact sub_trans (by decide) hs | split | dsimp only)
theorem co_takeMessage {L : List Part} {s0 : State} (h : Hdr) (s : State) (hs : sub [.net] L = true) (hw : changesOnly L s0 s) : changesOnly L s0 (takeMessage h s) := by
  unfold takeMessage
  repeat' (first | with_reducible (first | assumption | intro t x ht | intro t ht | apply co_modSes) | exact sub_trans (by decide) hs | dsimp only)
theorem co_hostBody {L : List Part} {s0 : State} (r : Rights) (h : Hdr) (own : Option Nat) (cont safe : Bool) (act : State → State) (s : State) (h_act : ∀ y0, changesOnly L s0 y0 → changesOnly L s0 (act y0)) (hs : sub [.cnv, .ptn, .net] L = true) (hw : changesOnly L s0 s) : changesOnly L s0 (hostBody r h own cont safe act s) := by
  unfold hostBody
  repeat' (first | with_reducible (first | assumption | intro t x ht | intro t ht | apply co_reply | apply co_takeMessage | apply co_breakStaging | apply co_breakParts | apply h_act) | exact sub_trans (by decide) hs | split | dsimp only)
/-! ### Staging -/
/-! ### Program -/
theorem co_endCell {L : List Part} {s0 : State} (m : PlaneImage) (array : Nat) (r : RowProg) (s : State) (col : Nat) (hs : sub [.arr, .glz] L = true) (hw : changesOnly L s0 s) : changesOnly L s0 (endCell m array r s col) := by
  unfold endCell
  repeat' (first | with_reducible (first | assumption | intro t x ht | intro t ht) | exact sub_trans (by decide) hs | split | (fail_if_no_progress with_reducible apply co_set_arr_glz) | dsimp only)
theorem co_programRow {L : List Part} {s0 : State} (array plane row : Nat) (read : List (Nat × Nat × Nat)) (s : State) (hs : sub [.arr, .glz] L = true) (hw : changesOnly L s0 s) : changesOnly L s0 (programRow array plane row read s) := by
  unfold programRow
  repeat' (first | with_reducible (first | assumption | intro t x ht | intro t ht | apply co_endCell | apply co_foldl) | exact sub_trans (by decide) hs | split | (fail_if_no_progress with_reducible apply co_set_arr) | dsimp only)
theorem co_stopWrites {L : List Part} {s0 : State} (s : State) (hs : sub [.arr] L = true) (hw : changesOnly L s0 s) : changesOnly L s0 (stopWrites s) := by
  unfold stopWrites
  repeat' (first | with_reducible (first | assumption | intro t x ht | intro t ht | apply co_foldl) | exact sub_trans (by decide) hs | (fail_if_no_progress with_reducible apply co_set_arr) | dsimp only)
theorem co_writeCorr {L : List Part} {s0 : State} (b : Bundle) (k : Nat) (kept : List Cand) (s : State) (x : Nat × Nat) (hs : sub [.glz] L = true) (hw : changesOnly L s0 s) : changesOnly L s0 (writeCorr b k kept s x) := by
  unfold writeCorr
  repeat' (first | with_reducible (first | assumption | intro t x ht | intro t ht) | exact sub_trans (by decide) hs | split | (fail_if_no_progress with_reducible apply co_set_glz) | dsimp only)
theorem co_deriveTile {L : List Part} {s0 : State} (b : Bundle) (tile core : Nat) (s : State) (hs : sub [.glz, .evr] L = true) (hw : changesOnly L s0 s) : changesOnly L s0 (deriveTile b tile core s) := by
  unfold deriveTile
  repeat' (first | with_reducible (first | assumption | intro t x ht | intro t ht | apply co_writeCorr | apply co_fireArg | apply co_foldl) | exact sub_trans (by decide) hs | split | (rename_i he; have hd := congrArg Prod.snd he; dsimp only at hd; subst hd) | dsimp only)
theorem co_deriveFor {L : List Part} {s0 : State} (array plane : Nat) (s : State) (hs : sub [.glz, .evr] L = true) (hw : changesOnly L s0 s) : changesOnly L s0 (deriveFor array plane s) := by
  unfold deriveFor
  repeat' (first | with_reducible (first | assumption | intro t x ht | intro t ht | apply co_deriveTile) | exact sub_trans (by decide) hs | split | dsimp only)
theorem co_failColumn {L : List Part} {s0 : State} (array : Nat) (s : State) (col : Nat) (hs : sub [.arr, .seq, .sch, .cnv, .ptn, .net, .hist, .sec, .evr, .dev] L = true) (hw : changesOnly L s0 s) : changesOnly L s0 (failColumn array s col) := by
  unfold failColumn
  repeat' (first | with_reducible (first | assumption | intro t x ht | intro t ht | apply co_remapCol | apply co_exhaustArray) | exact sub_trans (by decide) hs | split | dsimp only)
theorem co_installPlane {L : List Part} {s0 : State} (array : Nat) (m : PlaneImage) (s : State) (hs : sub [.arr, .glz] L = true) (hw : changesOnly L s0 s) : changesOnly L s0 (installPlane array m s) := by
  unfold installPlane
  repeat' (first | with_reducible (first | assumption | intro t x ht | intro t ht | apply co_foldl) | exact sub_trans (by decide) hs | split | (fail_if_no_progress with_reducible apply co_set_arr_glz) | dsimp only)
theorem co_freshTile {L : List Part} {s0 : State} (array plane : Nat) (whole : Bool) (s : State) (hs : sub [.arr, .glz] L = true) (hw : changesOnly L s0 s) : changesOnly L s0 (freshTile array plane whole s) := by
  unfold freshTile
  repeat' (first | with_reducible (first | assumption | intro t x ht | intro t ht) | exact sub_trans (by decide) hs | split | (fail_if_no_progress with_reducible apply co_set_arr_glz) | dsimp only)
theorem co_coreEnds {L : List Part} {s0 : State} (core : Nat) (s : State) (hs : sub [.hist, .cal] L = true) (hw : changesOnly L s0 s) : changesOnly L s0 (coreEnds core s) := by
  unfold coreEnds
  repeat' (first | with_reducible (first | assumption | intro t x ht | intro t ht | apply co_settleWrite | apply co_calDue) | exact sub_trans (by decide) hs | split)
theorem co_dropBundle {L : List Part} {s0 : State} (b : Bundle) (s : State) (hs : sub [.arr, .glz, .kv] L = true) (hw : changesOnly L s0 s) : changesOnly L s0 (dropBundle b s) := by
  unfold dropBundle
  repeat' (first | with_reducible (first | assumption | intro t x ht | intro t ht) | exact sub_trans (by decide) hs | (fail_if_no_progress with_reducible apply co_set_arr_glz_kv) | dsimp only)
theorem co_dropTables {L : List Part} {s0 : State} (c : Nat) (s : State) (hs : sub [.glz, .seq, .kv] L = true) (hw : changesOnly L s0 s) : changesOnly L s0 (dropTables c s) := by
  unfold dropTables
  repeat' (first | with_reducible (first | assumption | intro t x ht | intro t ht) | exact sub_trans (by decide) hs | (fail_if_no_progress with_reducible apply co_set_glz_seq_kv) | dsimp only)
theorem co_settleHolds {L : List Part} {s0 : State} (s : State) (hs : sub [.cnv, .ptn, .net] L = true) (hw : changesOnly L s0 s) : changesOnly L s0 (settleHolds s) := by
  unfold settleHolds
  repeat' (first | with_reducible (first | assumption | intro t x ht | intro t ht | apply co_unhold | apply co_modCnv | apply co_foldl) | exact sub_trans (by decide) hs | split | dsimp only)
theorem co_emptyCanvas {L : List Part} {s0 : State} (c : Nat) (s : State) (hs : sub [.arr, .glz, .seq, .kv, .cnv] L = true) (hw : changesOnly L s0 s) : changesOnly L s0 (emptyCanvas c s) := by
  unfold emptyCanvas
  repeat' (first | with_reducible (first | assumption | intro t x ht | intro t ht | apply co_dropBundle | apply co_dropTables | apply co_modCnv) | exact sub_trans (by decide) hs | split | dsimp only)
theorem co_stopLoad {L : List Part} {s0 : State} (c o : Nat) (s : State) (hs : sub [.arr, .glz, .seq, .kv, .cnv, .ptn, .net, .evr] L = true) (hw : changesOnly L s0 s) : changesOnly L s0 (stopLoad c o s) := by
  unfold stopLoad
  repeat' (first | with_reducible (first | assumption | intro t x ht | intro t ht | apply co_settleHolds | apply co_emptyCanvas | apply co_canvasEvent | apply co_fire | apply co_replyOutcomeLate) | exact sub_trans (by decide) hs | split | dsimp only)
theorem co_tryAbort {L : List Part} {s0 : State} (c : Nat) (s : State) (hs : sub [.arr, .glz, .seq, .kv, .cnv, .ptn, .net, .evr] L = true) (hw : changesOnly L s0 s) : changesOnly L s0 (tryAbort c s) := by
  unfold tryAbort
  repeat' (first | with_reducible (first | assumption | intro t x ht | intro t ht | apply co_modCnv | apply co_stopLoad | apply co_replyOutcomeLate) | exact sub_trans (by decide) hs | split | dsimp only)
theorem co_planeEnd {L : List Part} {s0 : State} (array plane : Nat) (s : State) (hs : sub [.arr, .glz, .seq, .sch, .kv, .cnv, .ptn, .net, .hist, .cal, .sec, .evr, .dev] L = true) (hw : changesOnly L s0 s) : changesOnly L s0 (planeEnd array plane s) := by
  unfold planeEnd
  repeat' (first | with_reducible (first | assumption | intro t x ht | intro t ht | apply co_failColumn | apply co_freshTile | apply co_installPlane | apply co_coreEnds | apply co_deriveFor | apply co_settleHolds | apply co_tryAbort | apply co_foldl) | exact sub_trans (by decide) hs | split | dsimp only)
theorem co_placeImage {L : List Part} {s0 : State} (s : State) (m : PlaneImage) (hs : sub [.arr, .kv] L = true) (hw : changesOnly L s0 s) : changesOnly L s0 (placeImage s m) := by
  unfold placeImage
  repeat' (first | with_reducible (first | assumption | intro t x ht | intro t ht | apply co_foldl) | exact sub_trans (by decide) hs | (fail_if_no_progress with_reducible apply co_set_arr_kv) | dsimp only)
theorem co_placeOutliers {L : List Part} {s0 : State} (b : Bundle) (s : State) (hs : sub [.glz] L = true) (hw : changesOnly L s0 s) : changesOnly L s0 (placeOutliers b s) := by
  unfold placeOutliers
  repeat' (first | with_reducible (first | assumption | intro t x ht | intro t ht | apply co_foldl) | exact sub_trans (by decide) hs | (fail_if_no_progress with_reducible apply co_set_glz) | dsimp only)
theorem co_staleAudits {L : List Part} {s0 : State} (b : Bundle) (s : State) (hs : sub [.hist] L = true) (hw : changesOnly L s0 s) : changesOnly L s0 (staleAudits b s) := by
  unfold staleAudits
  repeat' (first | with_reducible (first | assumption | intro t x ht | intro t ht | apply co_modAudit | apply co_foldl) | exact sub_trans (by decide) hs | split | dsimp only)
theorem co_takeScramble {L : List Part} {s0 : State} (c : Nat) (s : State) (hs : sub [.arr, .sec] L = true) (hw : changesOnly L s0 s) : changesOnly L s0 (takeScramble c s) := by
  unfold takeScramble
  repeat' (first | with_reducible (first | assumption | intro t x ht | intro t ht) | exact sub_trans (by decide) hs | split | (fail_if_no_progress with_reducible apply co_set_arr_sec) | dsimp only)
theorem co_beginLoad {L : List Part} {s0 : State} (c : Nat) (b : Bundle) (s : State) (hs : sub [.arr, .glz, .seq, .sch, .kv, .cnv, .ptn, .net, .hist, .sec, .evr, .dev] L = true) (hw : changesOnly L s0 s) : changesOnly L s0 (beginLoad c b s) := by
  unfold beginLoad
  repeat' (first | with_reducible (first | assumption | intro t x ht | intro t ht | apply co_modCnv | apply co_takeScramble | apply co_emptyCanvas | apply co_staleAudits | apply co_placeOutliers | apply co_placeImage | apply co_wearCore | apply co_programEngine | apply co_canvasEvent | apply co_foldl) | exact sub_trans (by decide) hs | split | dsimp only)
theorem co_nextWave {L : List Part} {s0 : State} (c : Nat) (b : Bundle) (s : State) (hs : sub [.cnv] L = true) (hw : changesOnly L s0 s) : changesOnly L s0 (nextWave c b s) := by
  unfold nextWave
  repeat' (first | with_reducible (first | assumption | intro t x ht | intro t ht | apply co_modCnv) | exact sub_trans (by decide) hs | split | dsimp only)
theorem co_waveStart {L : List Part} {s0 : State} (c : Nat) (s : State) (hs : sub [.arr, .glz, .seq, .sch, .kv, .cnv, .ptn, .net, .hist, .sec, .evr, .dev] L = true) (hw : changesOnly L s0 s) : changesOnly L s0 (waveStart c s) := by
  unfold waveStart
  repeat' (first | with_reducible (first | assumption | intro t x ht | intro t ht | apply co_beginLoad | apply co_nextWave) | exact sub_trans (by decide) hs | split | dsimp only)
theorem co_installTables {L : List Part} {s0 : State} (c : Nat) (b : Bundle) (s : State) (hs : sub [.glz, .seq, .kv] L = true) (hw : changesOnly L s0 s) : changesOnly L s0 (installTables c b s) := by
  unfold installTables
  repeat' (first | with_reducible (first | assumption | intro t x ht | intro t ht | apply co_foldl) | exact sub_trans (by decide) hs | split | (fail_if_no_progress with_reducible apply co_set_glz_seq_kv) | dsimp only)
theorem co_dropConversations {L : List Part} {s0 : State} (c : Nat) (s : State) (hs : sub [.kv, .head, .req, .ptn, .net] L = true) (hw : changesOnly L s0 s) : changesOnly L s0 (dropConversations c s) := by
  unfold dropConversations
  repeat' (first | with_reducible (first | assumption | intro t x ht | intro t ht | apply co_expire | apply co_foldl) | exact sub_trans (by decide) hs | dsimp only)
theorem co_serveCanvas {L : List Part} {s0 : State} (c : Nat) (b : Bundle) (s : State) (hs : sub [.glz, .seq, .kv, .cnv, .ptn, .net] L = true) (hw : changesOnly L s0 s) : changesOnly L s0 (serveCanvas c b s) := by
  unfold serveCanvas
  repeat' (first | with_reducible (first | assumption | intro t x ht | intro t ht | apply co_canvasEvent | apply co_modCnv | apply co_installTables) | exact sub_trans (by decide) hs | dsimp only)
theorem co_loadDone {L : List Part} {s0 : State} (c : Nat) (s : State) (hs : sub [.glz, .seq, .kv, .head, .req, .cnv, .ptn, .net, .evr] L = true) (hw : changesOnly L s0 s) : changesOnly L s0 (loadDone c s) := by
  unfold loadDone
  repeat' (first | with_reducible (first | assumption | intro t x ht | intro t ht | apply co_serveCanvas | apply co_dropConversations | apply co_modCnv | apply co_replyOutcomeLate | apply co_fire | apply co_settleHolds) | exact sub_trans (by decide) hs | split | dsimp only)
theorem co_saveDrift {L : List Part} {s0 : State} (cl : Nat) (s : State) (hs : sub [.glz, .cal] L = true) (hw : changesOnly L s0 s) : changesOnly L s0 (saveDrift cl s) := by
  unfold saveDrift
  repeat' (first | with_reducible (first | assumption | intro t x ht | intro t ht | apply co_modCal | apply co_foldl) | exact sub_trans (by decide) hs | (fail_if_no_progress with_reducible apply co_set_glz) | dsimp only)
theorem co_recordDurable {L : List Part} {s0 : State} (c : Nat) (s : State) (hs : sub [.cnv] L = true) (hw : changesOnly L s0 s) : changesOnly L s0 (recordDurable c s) := by
  unfold recordDurable
  repeat' (first | with_reducible (first | assumption | intro t x ht | intro t ht | apply co_modCnv) | exact sub_trans (by decide) hs | split | dsimp only)
theorem co_putLost {L : List Part} {s0 : State} (c : Nat) (s : State) (m : PlaneImage) (hs : sub [.kv] L = true) (hw : changesOnly L s0 s) : changesOnly L s0 (putLost c s m) := by
  unfold putLost
  repeat' (first | with_reducible (first | assumption | intro t x ht | intro t ht) | exact sub_trans (by decide) hs | split | (fail_if_no_progress with_reducible apply co_set_kv))
theorem co_acceptBundle {L : List Part} {s0 : State} (c total : Nat) (b : Bundle) (s : State) (hs : sub [.kv, .cnv, .ptn, .net] L = true) (hw : changesOnly L s0 s) : changesOnly L s0 (acceptBundle c total b s) := by
  unfold acceptBundle
  repeat' (first | with_reducible (first | assumption | intro t x ht | intro t ht | apply co_modCnv | apply co_unhold | apply co_putLost | apply co_foldl) | exact sub_trans (by decide) hs | split | dsimp only)
theorem co_stagePart {L : List Part} {s0 : State} (h : Hdr) (c off len total : Nat) (b : Bundle) (s : State) (hs : sub [.kv, .cnv, .ptn, .net, .sec, .evr] L = true) (hw : changesOnly L s0 s) : changesOnly L s0 (stagePart h c off len total b s) := by
  unfold stagePart
  repeat' (first | with_reducible (first | assumption | intro t x ht | intro t ht | apply co_modCnv | apply co_fire | apply co_replyOutcome | apply co_acceptBundle) | exact sub_trans (by decide) hs | split | (fail_if_no_progress with_reducible apply co_set_sec) | dsimp only)
theorem co_lateStaging {L : List Part} {s0 : State} (c : Nat) (s : State) (hs : sub [.cnv, .net] L = true) (hw : changesOnly L s0 s) : changesOnly L s0 (lateStaging c s) := by
  unfold lateStaging
  repeat' (first | with_reducible (first | assumption | intro t x ht | intro t ht | apply co_endStaging) | exact sub_trans (by decide) hs | split)
theorem co_stageIn {L : List Part} {s0 : State} (h : Hdr) (c off len total : Nat) (b : Bundle) (s : State) (hs : sub [.kv, .cnv, .ptn, .net, .sec, .evr] L = true) (hw : changesOnly L s0 s) : changesOnly L s0 (stageIn h c off len total b s) := by
  unfold stageIn
  repeat' (first | with_reducible (first | assumption | intro t x ht | intro t ht | apply co_replyOutcome | apply co_endStaging | apply co_stagePart | apply co_modCnv) | exact sub_trans (by decide) hs | split | dsimp only)
theorem co_stageOp {L : List Part} {s0 : State} (h : Hdr) (c off len total : Nat) (b : Bundle) (s : State) (hs : sub [.kv, .cnv, .ptn, .net, .sec, .evr] L = true) (hw : changesOnly L s0 s) : changesOnly L s0 (stageOp h c off len total b s) := by
  unfold stageOp
  repeat' (first | with_reducible (first | assumption | intro t x ht | intro t ht | apply co_stageIn | apply co_lateStaging) | exact sub_trans (by decide) hs)
theorem co_drainNeighbour {L : List Part} {s0 : State} (s : State) (d : Nat) (hs : sub [.cnv, .ptn, .net] L = true) (hw : changesOnly L s0 s) : changesOnly L s0 (drainNeighbour s d) := by
  unfold drainNeighbour
  repeat' (first | with_reducible (first | assumption | intro t x ht | intro t ht | apply co_modCnv | apply co_holdCanvas) | exact sub_trans (by decide) hs | dsimp only)
theorem co_loadOp {L : List Part} {s0 : State} (h : Hdr) (c : Nat) (s : State) (hs : sub [.cnv, .ptn, .net, .evr] L = true) (hw : changesOnly L s0 s) : changesOnly L s0 (loadOp h c s) := by
  unfold loadOp
  repeat' (first | with_reducible (first | assumption | intro t x ht | intro t ht | apply co_modCnv | apply co_leaveOut | apply co_fire | apply co_drainNeighbour | apply co_replyOutcome | apply co_foldl) | exact sub_trans (by decide) hs | split | dsimp only)
theorem co_abortOp {L : List Part} {s0 : State} (h : Hdr) (c : Nat) (s : State) (hs : sub [.arr, .glz, .seq, .kv, .cnv, .ptn, .net, .evr] L = true) (hw : changesOnly L s0 s) : changesOnly L s0 (abortOp h c s) := by
  unfold abortOp
  repeat' (first | with_reducible (first | assumption | intro t x ht | intro t ht | apply co_replyOutcome | apply co_tryAbort | apply co_modCnv | apply co_leaveOut) | exact sub_trans (by decide) hs | split | dsimp only)
theorem co_startErase {L : List Part} {s0 : State} (c : Nat) (s : State) (hs : sub [.cnv, .ptn, .net] L = true) (hw : changesOnly L s0 s) : changesOnly L s0 (startErase c s) := by
  unfold startErase
  repeat' (first | with_reducible (first | assumption | intro t x ht | intro t ht | apply co_canvasEvent | apply co_drainNeighbour | apply co_modCnv | apply co_foldl) | exact sub_trans (by decide) hs | split | dsimp only)
theorem co_eraseOp {L : List Part} {s0 : State} (h : Hdr) (c : Nat) (all : Bool) (s : State) (hs : sub [.cnv, .ptn, .net, .sec] L = true) (hw : changesOnly L s0 s) : changesOnly L s0 (eraseOp h c all s) := by
  unfold eraseOp
  repeat' (first | with_reducible (first | assumption | intro t x ht | intro t ht | apply co_replyOutcome | apply co_modCnv | apply co_leaveOut | apply co_startErase | apply co_foldl) | exact sub_trans (by decide) hs | split | (fail_if_no_progress with_reducible apply co_set_sec) | dsimp only)
theorem co_clearPlanes {L : List Part} {s0 : State} (p : Nat → Bool) (s : State) (hs : sub [.arr, .glz] L = true) (hw : changesOnly L s0 s) : changesOnly L s0 (clearPlanes p s) := by
  unfold clearPlanes
  repeat' (first | with_reducible (first | assumption | intro t x ht | intro t ht) | exact sub_trans (by decide) hs | (fail_if_no_progress with_reducible apply co_set_arr_glz) | dsimp only)
theorem co_wipeCanvas {L : List Part} {s0 : State} (c : Nat) (s : State) (hs : sub [.arr, .glz, .seq, .kv, .cnv, .net] L = true) (hw : changesOnly L s0 s) : changesOnly L s0 (wipeCanvas c s) := by
  unfold wipeCanvas
  repeat' (first | with_reducible (first | assumption | intro t x ht | intro t ht | apply co_endStaging | apply co_modCnv | apply co_emptyCanvas) | exact sub_trans (by decide) hs | split | dsimp only)
theorem co_eraseCells {L : List Part} {s0 : State} (c : Nat) (s : State) (hs : sub [.arr, .glz, .seq, .sch, .cnv, .ptn, .net, .hist, .sec, .evr, .dev] L = true) (hw : changesOnly L s0 s) : changesOnly L s0 (eraseCells c s) := by
  unfold eraseCells
  repeat' (first | with_reducible (first | assumption | intro t x ht | intro t ht | apply co_wearCore | apply co_clearPlanes | apply co_foldl) | exact sub_trans (by decide) hs | split | dsimp only)
theorem co_wipeModule {L : List Part} {s0 : State} (s : State) (hs : sub [.arr, .glz, .seq, .sch, .kv, .cnv, .ptn, .net, .hist, .sec, .evr, .dev] L = true) (hw : changesOnly L s0 s) : changesOnly L s0 (wipeModule s) := by
  unfold wipeModule
  repeat' (first | with_reducible (first | assumption | intro t x ht | intro t ht | apply co_wearCore | apply co_clearPlanes | apply co_wipeCanvas | apply co_foldl) | exact sub_trans (by decide) hs | (fail_if_no_progress with_reducible apply co_set_arr) | dsimp only)
theorem co_endRelease {L : List Part} {s0 : State} (s : State) (hs : sub [.arr, .glz, .seq, .sch, .kv, .cnv, .ptn, .net, .hist, .sec, .evr, .dev] L = true) (hw : changesOnly L s0 s) : changesOnly L s0 (endRelease s) := by
  unfold endRelease
  repeat' (first | with_reducible (first | assumption | intro t x ht | intro t ht | apply co_modPtn | apply co_wipeModule | apply co_fire | apply co_foldl) | exact sub_trans (by decide) hs | (fail_if_no_progress with_reducible apply co_set_sec) | dsimp only)
theorem co_eraseCanvas {L : List Part} {s0 : State} (s : State) (c : Nat) (hs : sub [.arr, .glz, .seq, .sch, .kv, .cnv, .ptn, .net, .hist, .sec, .evr, .dev] L = true) (hw : changesOnly L s0 s) : changesOnly L s0 (eraseCanvas s c) := by
  unfold eraseCanvas
  repeat' (first | with_reducible (first | assumption | intro t x ht | intro t ht | apply co_replyOutcomeLate | apply co_settleHolds | apply co_modCnv | apply co_wipeCanvas | apply co_eraseCells) | exact sub_trans (by decide) hs | split | dsimp only)
theorem co_eraseModule {L : List Part} {s0 : State} (s : State) (hs : sub [.arr, .glz, .seq, .sch, .kv, .cnv, .ptn, .net, .hist, .sec, .evr, .dev] L = true) (hw : changesOnly L s0 s) : changesOnly L s0 (eraseModule s) := by
  unfold eraseModule
  repeat' (first | with_reducible (first | assumption | intro t x ht | intro t ht | apply co_wipeModule | apply co_replyOutcomeLate) | exact sub_trans (by decide) hs | split | (fail_if_no_progress with_reducible apply co_set_sec) | dsimp only)
theorem co_eraseRelease {L : List Part} {s0 : State} (s : State) (hs : sub [.arr, .glz, .seq, .sch, .kv, .cnv, .ptn, .net, .hist, .sec, .evr, .dev] L = true) (hw : changesOnly L s0 s) : changesOnly L s0 (eraseRelease s) := by
  unfold eraseRelease
  repeat' (first | with_reducible (first | assumption | intro t x ht | intro t ht | apply co_replyLate | apply co_endRelease) | exact sub_trans (by decide) hs | split)
theorem co_eraseDone {L : List Part} {s0 : State} (s : State) (hs : sub [.arr, .glz, .seq, .sch, .kv, .cnv, .ptn, .net, .hist, .sec, .evr, .dev] L = true) (hw : changesOnly L s0 s) : changesOnly L s0 (eraseDone s) := by
  unfold eraseDone
  repeat' (first | with_reducible (first | assumption | intro t x ht | intro t ht | apply co_eraseRelease | apply co_eraseModule | apply co_eraseCanvas | apply co_foldl) | exact sub_trans (by decide) hs | split)
/-! ### Tables -/
theorem co_fetchColumn {L : List Part} {s0 : State} (core array plane col : Nat) (s : State) (hs : sub [.arr] L = true) (hw : changesOnly L s0 s) : changesOnly L s0 (fetchColumn core array plane col s) := by
  unfold fetchColumn
  repeat' (first | with_reducible (first | assumption | intro t x ht | intro t ht | apply co_modDigcol) | exact sub_trans (by decide) hs | split | dsimp only)
theorem co_resetSetStats {L : List Part} {s0 : State} (canvas set : Nat) (s : State) (hs : sub [.glz] L = true) (hw : changesOnly L s0 s) : changesOnly L s0 (resetSetStats canvas set s) := by
  unfold resetSetStats
  repeat' (first | with_reducible (first | assumption | intro t x ht | intro t ht) | exact sub_trans (by decide) hs | (fail_if_no_progress with_reducible apply co_set_glz) | dsimp only)
theorem co_channelAdd {L : List Part} {s0 : State} (canvas set index : Nat) (s : State) (hs : sub [.glz, .evr] L = true) (hw : changesOnly L s0 s) : changesOnly L s0 (channelAdd canvas set index s) := by
  unfold channelAdd
  repeat' (first | with_reducible (first | assumption | intro t x ht | intro t ht | apply co_fireArg | apply co_resetSetStats) | exact sub_trans (by decide) hs | split | (fail_if_no_progress with_reducible apply co_set_glz) | dsimp only)
theorem co_channelLeave {L : List Part} {s0 : State} (canvas set index : Nat) (s : State) (hs : sub [.glz] L = true) (hw : changesOnly L s0 s) : changesOnly L s0 (channelLeave canvas set index s) := by
  unfold channelLeave
  repeat' (first | with_reducible (first | assumption | intro t x ht | intro t ht | apply co_resetSetStats) | exact sub_trans (by decide) hs | split | (fail_if_no_progress with_reducible apply co_set_glz) | dsimp only)
theorem co_tableHere {L : List Part} {s0 : State} (cluster tid : Nat) (s : State) (hs : sub [.arr, .core, .glz, .seq, .sch, .kv, .head, .req, .ptn, .net, .evr, .free] L = true) (hw : changesOnly L s0 s) : changesOnly L s0 (tableHere cluster tid s) := by
  unfold tableHere
  repeat' (first | with_reducible (first | assumption | intro t x ht | intro t ht | apply co_settleCores) | exact sub_trans (by decide) hs | (fail_if_no_progress with_reducible apply co_set_glz))
theorem co_deriveAgain {L : List Part} {s0 : State} (cluster tid : Nat) (s : State) (hs : sub [.glz, .evr] L = true) (hw : changesOnly L s0 s) : changesOnly L s0 (deriveAgain cluster tid s) := by
  unfold deriveAgain
  repeat' (first | with_reducible (first | assumption | intro t x ht | intro t ht | apply co_deriveTile) | exact sub_trans (by decide) hs | split)
theorem co_retractStep {L : List Part} {s0 : State} (s : State) (hs : sub [.seq, .sch, .hist, .evr] L = true) (hw : changesOnly L s0 s) : changesOnly L s0 (retractStep s) := by
  unfold retractStep
  repeat' (first | with_reducible (first | assumption | intro t x ht | intro t ht | apply co_sendRewind) | exact sub_trans (by decide) hs | split)
theorem co_tableFetch {L : List Part} {s0 : State} (cluster tid : Nat) (crcOk again : Bool) (s : State) (hs : sub [.arr, .core, .glz, .seq, .sch, .kv, .head, .req, .ptn, .net, .hist, .evr, .free] L = true) (hw : changesOnly L s0 s) : changesOnly L s0 (tableFetch cluster tid crcOk again s) := by
  unfold tableFetch
  repeat' (first | with_reducible (first | assumption | intro t x ht | intro t ht | apply co_tableHere | apply co_retractStep | apply co_deriveAgain | apply co_fire) | exact sub_trans (by decide) hs | split)

end Sys2Proof.Machine
end

