-- ==== Sys2Proof/Laws/TouchModule.lean ====
section
/-! SUPPORT. Which parts of the state change: memory, requests, recorder, power, network, firmware, registers, sideband and start. `co_f` says that `f` changes no part outside its list. -/

namespace Sys2Proof.Machine

/-! ### Memory -/
theorem co_countCe {L : List Part} {s0 : State} (tier : Nat) (s : State) (hs : sub [.hist] L = true) (hw : changesOnly L s0 s) : changesOnly L s0 (countCe tier s) := by
  unfold countCe
  repeat' (first | with_reducible (first | assumption | intro t x ht | intro t ht) | exact sub_trans (by decide) hs | split | (fail_if_no_progress with_reducible apply co_set_hist))
theorem co_dropSlice {L : List Part} {s0 : State} (cluster slice : Nat) (s : State) (hs : sub [.kv, .evr] L = true) (hw : changesOnly L s0 s) : changesOnly L s0 (dropSlice cluster slice s) := by
  unfold dropSlice
  repeat' (first | with_reducible (first | assumption | intro t x ht | intro t ht | apply co_fire) | exact sub_trans (by decide) hs | (fail_if_no_progress with_reducible apply co_set_kv))
theorem co_losePaused {L : List Part} {s0 : State} (ix : Nat) (s : State) (hs : sub [.kv, .head, .req, .ptn, .net] L = true) (hw : changesOnly L s0 s) : changesOnly L s0 (losePaused ix s) := by
  unfold losePaused
  repeat' (first | with_reducible (first | assumption | intro t x ht | intro t ht | apply co_expire) | exact sub_trans (by decide) hs | split | dsimp only)
theorem co_loseStaged {L : List Part} {s0 : State} (c : Nat) (s : State) (hs : sub [.arr, .glz, .seq, .kv, .cnv, .ptn, .net, .evr] L = true) (hw : changesOnly L s0 s) : changesOnly L s0 (loseStaged c s) := by
  unfold loseStaged
  repeat' (first | with_reducible (first | assumption | intro t x ht | intro t ht | apply co_canvasEvent | apply co_modCnv | apply co_tryAbort) | exact sub_trans (by decide) hs | split | dsimp only)
theorem co_loseRegion {L : List Part} {s0 : State} (r : FarRegion) (s : State) (hs : sub [.arr, .glz, .seq, .kv, .head, .req, .cnv, .ptn, .net, .evr] L = true) (hw : changesOnly L s0 s) : changesOnly L s0 (loseRegion r s) := by
  unfold loseRegion
  repeat' (first | with_reducible (first | assumption | intro t x ht | intro t ht | apply co_losePaused | apply co_loseStaged) | exact sub_trans (by decide) hs | split | (fail_if_no_progress with_reducible apply co_set_glz_kv_req) | dsimp only)
theorem co_farError {L : List Part} {s0 : State} (r : FarRegion) (s : State) (hs : sub [.arr, .glz, .seq, .kv, .head, .req, .cnv, .ptn, .net, .evr] L = true) (hw : changesOnly L s0 s) : changesOnly L s0 (farError r s) := by
  unfold farError
  repeat' (first | with_reducible (first | assumption | intro t x ht | intro t ht | apply co_loseRegion | apply co_fire) | exact sub_trans (by decide) hs | (fail_if_no_progress with_reducible apply co_set_kv))
theorem co_endReadback {L : List Part} {s0 : State} (eng : Nat) (s : State) (hs : sub [.cnv, .ptn, .net] L = true) (hw : changesOnly L s0 s) : changesOnly L s0 (endReadback eng s) := by
  unfold endReadback
  repeat' (first | with_reducible (first | assumption | intro t x ht | intro t ht | apply co_unhold | apply co_modCnv | apply co_foldl) | exact sub_trans (by decide) hs | dsimp only)
theorem co_readback {L : List Part} {s0 : State} (c pk : Nat) (crcOk : Bool) (s : State) (hs : sub [.kv, .cnv, .ptn, .net] L = true) (hw : changesOnly L s0 s) : changesOnly L s0 (readback c pk crcOk s) := by
  unfold readback
  repeat' (first | with_reducible (first | assumption | intro t x ht | intro t ht | apply co_endReadback | apply co_healthCanvas | apply co_modCnv) | exact sub_trans (by decide) hs | split | (fail_if_no_progress with_reducible apply co_set_kv) | dsimp only)
theorem co_repairPage {L : List Part} {s0 : State} (ix : Nat) (s : State) (p : Nat × Nat) (hs : sub [.kv] L = true) (hw : changesOnly L s0 s) : changesOnly L s0 (repairPage ix s p) := by
  unfold repairPage
  repeat' (first | with_reducible (first | assumption | intro t x ht | intro t ht | apply co_moveFrame | apply co_nearAll) | exact sub_trans (by decide) hs | split | dsimp only)
theorem co_repairPoison {L : List Part} {s0 : State} (ix : Nat) (s : State) (hs : sub [.kv, .req] L = true) (hw : changesOnly L s0 s) : changesOnly L s0 (repairPoison ix s) := by
  unfold repairPoison
  repeat' (first | with_reducible (first | assumption | intro t x ht | intro t ht | apply co_modEntry | apply co_repairPage | apply co_foldl) | exact sub_trans (by decide) hs | split | dsimp only)
/-! ### Requests -/
theorem co_answer {L : List Part} {s0 : State} (late : Bool) (h : Hdr) (st arg handle : Nat) (s : State) (hs : sub [.net] L = true) (hw : changesOnly L s0 s) : changesOnly L s0 (answer late h st arg handle s) := by
  unfold answer
  repeat' (first | with_reducible (first | assumption | intro t x ht | intro t ht | apply co_replyLate | apply co_replyFull) | exact sub_trans (by decide) hs | split)
theorem co_takeEntry {L : List Part} {s0 : State} (ix : Nat) (e : Entry) (s : State) (hs : sub [.req] L = true) (hw : changesOnly L s0 s) : changesOnly L s0 (takeEntry ix e s) := by
  unfold takeEntry
  repeat' (first | with_reducible (first | assumption | intro t x ht | intro t ht | apply co_modEntry) | exact sub_trans (by decide) hs | split | (fail_if_no_progress with_reducible apply co_set_req) | dsimp only)
theorem co_setPresence {L : List Part} {s0 : State} (ix : Nat) (s : State) (hs : sub [.head] L = true) (hw : changesOnly L s0 s) : changesOnly L s0 (setPresence ix s) := by
  unfold setPresence
  repeat' (first | with_reducible (first | assumption | intro t x ht | intro t ht) | exact sub_trans (by decide) hs | (fail_if_no_progress with_reducible apply co_set_head))
theorem co_admitEntry {L : List Part} {s0 : State} (late : Bool) (h : Hdr) (ix c : Nat) (sv : Option Saved) (s : State) (hs : sub [.req, .net] L = true) (hw : changesOnly L s0 s) : changesOnly L s0 (admitEntry late h ix c sv s) := by
  unfold admitEntry
  repeat' (first | with_reducible (first | assumption | intro t x ht | intro t ht | apply co_answer | apply co_modEntry | apply co_leaveOut) | exact sub_trans (by decide) hs | split | dsimp only)
theorem co_submitDecide {L : List Part} {s0 : State} (late : Bool) (h : Hdr) (b : SubmitBody) (s : State) (hs : sub [.head, .req, .net] L = true) (hw : changesOnly L s0 s) : changesOnly L s0 (submitDecide late h b s) := by
  unfold submitDecide
  repeat' (first | with_reducible (first | assumption | intro t x ht | intro t ht | apply co_answer | apply co_admitEntry | apply co_setPresence | apply co_takeEntry) | exact sub_trans (by decide) hs | split | dsimp only)
theorem co_continueDecide {L : List Part} {s0 : State} (late : Bool) (h : Hdr) (b : SubmitBody) (s : State) (hs : sub [.head, .req, .net] L = true) (hw : changesOnly L s0 s) : changesOnly L s0 (continueDecide late h b s) := by
  unfold continueDecide
  repeat' (first | with_reducible (first | assumption | intro t x ht | intro t ht | apply co_answer | apply co_modEntry | apply co_setPresence | apply co_admitEntry) | exact sub_trans (by decide) hs | split | dsimp only)
theorem co_holdForExport {L : List Part} {s0 : State} (ix : Nat) (h : Hdr) (b : Option SubmitBody) (s : State) (hs : sub [.req] L = true) (hw : changesOnly L s0 s) : changesOnly L s0 (holdForExport ix h b s) := by
  unfold holdForExport
  repeat' (first | with_reducible (first | assumption | intro t x ht | intro t ht | apply co_modEntry) | exact sub_trans (by decide) hs | dsimp only)
theorem co_continueCmd {L : List Part} {s0 : State} (late : Bool) (h : Hdr) (b : SubmitBody) (s : State) (hs : sub [.head, .req, .net] L = true) (hw : changesOnly L s0 s) : changesOnly L s0 (continueCmd late h b s) := by
  unfold continueCmd
  repeat' (first | with_reducible (first | assumption | intro t x ht | intro t ht | apply co_holdForExport | apply co_leaveOut | apply co_continueDecide) | exact sub_trans (by decide) hs | split)
theorem co_openParts {L : List Part} {s0 : State} (h : Hdr) (cont : Bool) (b : SubmitBody) (s : State) (hs : sub [.ptn, .net] L = true) (hw : changesOnly L s0 s) : changesOnly L s0 (openParts h cont b s) := by
  unfold openParts
  repeat' (first | with_reducible (first | assumption | intro t x ht | intro t ht | apply co_leaveOut | apply co_modPtn) | exact sub_trans (by decide) hs | dsimp only)
theorem co_promptOp {L : List Part} {s0 : State} (h : Hdr) (words : List Nat) (bytes : List Byte) (last : Bool) (s : State) (hs : sub [.head, .req, .ptn, .net] L = true) (hw : changesOnly L s0 s) : changesOnly L s0 (promptOp h words bytes last s) := by
  unfold promptOp
  repeat' (first | with_reducible (first | assumption | intro t x ht | intro t ht | apply co_reply | apply co_modPtn | apply co_continueCmd | apply co_submitDecide) | exact sub_trans (by decide) hs | split | dsimp only)
theorem co_cancelEntry {L : List Part} {s0 : State} (ix : Nat) (s : State) (hs : sub [.seq, .sch, .kv, .head, .req, .ptn, .net] L = true) (hw : changesOnly L s0 s) : changesOnly L s0 (cancelEntry ix s) := by
  unfold cancelEntry
  repeat' (first | with_reducible (first | assumption | intro t x ht | intro t ht | apply co_retireWith | apply co_modEntry | apply co_endRequest) | exact sub_trans (by decide) hs | split | dsimp only)
theorem co_cancelOp {L : List Part} {s0 : State} (h : Hdr) (s : State) (hs : sub [.seq, .sch, .kv, .head, .req, .ptn, .net] L = true) (hw : changesOnly L s0 s) : changesOnly L s0 (cancelOp h s) := by
  unfold cancelOp
  repeat' (first | with_reducible (first | assumption | intro t x ht | intro t ht | apply co_reply | apply co_cancelEntry) | exact sub_trans (by decide) hs | split | dsimp only)
theorem co_pauseOp {L : List Part} {s0 : State} (h : Hdr) (s : State) (hs : sub [.req, .net] L = true) (hw : changesOnly L s0 s) : changesOnly L s0 (pauseOp h s) := by
  unfold pauseOp
  repeat' (first | with_reducible (first | assumption | intro t x ht | intro t ht | apply co_reply | apply co_modEntry) | exact sub_trans (by decide) hs | split | dsimp only)
theorem co_resumeDecide {L : List Part} {s0 : State} (late : Bool) (h : Hdr) (s : State) (hs : sub [.req, .net] L = true) (hw : changesOnly L s0 s) : changesOnly L s0 (resumeDecide late h s) := by
  unfold resumeDecide
  repeat' (first | with_reducible (first | assumption | intro t x ht | intro t ht | apply co_answer | apply co_modEntry) | exact sub_trans (by decide) hs | split | dsimp only)
theorem co_resumeCmd {L : List Part} {s0 : State} (h : Hdr) (s : State) (hs : sub [.req, .net] L = true) (hw : changesOnly L s0 s) : changesOnly L s0 (resumeCmd h s) := by
  unfold resumeCmd
  repeat' (first | with_reducible (first | assumption | intro t x ht | intro t ht | apply co_holdForExport | apply co_leaveOut | apply co_resumeDecide) | exact sub_trans (by decide) hs | split)
theorem co_discardOp {L : List Part} {s0 : State} (h : Hdr) (s : State) (hs : sub [.req, .net] L = true) (hw : changesOnly L s0 s) : changesOnly L s0 (discardOp h s) := by
  unfold discardOp
  repeat' (first | with_reducible (first | assumption | intro t x ht | intro t ht | apply co_reply | apply co_modEntry) | exact sub_trans (by decide) hs | split | dsimp only)
theorem co_sendPackage {L : List Part} {s0 : State} (ix : Nat) (s : State) (hs : sub [.net] L = true) (hw : changesOnly L s0 s) : changesOnly L s0 (sendPackage ix s) := by
  unfold sendPackage
  repeat' (first | with_reducible (first | assumption | intro t x ht | intro t ht | apply co_post | apply co_foldl) | exact sub_trans (by decide) hs | split | dsimp only)
theorem co_exportOp {L : List Part} {s0 : State} (h : Hdr) (release : Bool) (peer : Nat) (s : State) (hs : sub [.head, .req, .ptn, .net, .dev] L = true) (hw : changesOnly L s0 s) : changesOnly L s0 (exportOp h release peer s) := by
  unfold exportOp
  repeat' (first | with_reducible (first | assumption | intro t x ht | intro t ht | apply co_release | apply co_reply | apply co_modEntry | apply co_sendPackage) | exact sub_trans (by decide) hs | split | (fail_if_no_progress with_reducible apply co_set_req_dev) | dsimp only)
theorem co_decideWaiting {L : List Part} {s0 : State} (s : State) (w : Hdr × Option SubmitBody) (hs : sub [.head, .req, .net] L = true) (hw : changesOnly L s0 s) : changesOnly L s0 (decideWaiting s w) := by
  unfold decideWaiting
  repeat' (first | with_reducible (first | assumption | intro t x ht | intro t ht | apply co_continueDecide | apply co_resumeDecide) | exact sub_trans (by decide) hs | split)
theorem co_exportEnd {L : List Part} {s0 : State} (ix : Nat) (s : State) (hs : sub [.kv, .head, .req, .net] L = true) (hw : changesOnly L s0 s) : changesOnly L s0 (exportEnd ix s) := by
  unfold exportEnd
  repeat' (first | with_reducible (first | assumption | intro t x ht | intro t ht | apply co_modEntry | apply co_decideWaiting | apply co_retire | apply co_foldl) | exact sub_trans (by decide) hs | split | dsimp only)
theorem co_importOp {L : List Part} {s0 : State} (h : Hdr) (p : Package) (s : State) (hs : sub [.req, .net] L = true) (hw : changesOnly L s0 s) : changesOnly L s0 (importOp h p s) := by
  unfold importOp
  repeat' (first | with_reducible (first | assumption | intro t x ht | intro t ht | apply co_reply | apply co_takeEntry | apply co_replyFull) | exact sub_trans (by decide) hs | split | (fail_if_no_progress with_reducible apply co_set_req) | dsimp only)
theorem co_tintLoadOp {L : List Part} {s0 : State} (h : Hdr) (slot : Nat) (rebind : Bool) (hash : Nat) (pairs : List TintPair) (s : State) (hs : sub [.req, .ptn, .net] L = true) (hw : changesOnly L s0 s) : changesOnly L s0 (tintLoadOp h slot rebind hash pairs s) := by
  unfold tintLoadOp
  repeat' (first | with_reducible (first | assumption | intro t x ht | intro t ht | apply co_reply | apply co_modPtn | apply co_modEntry | apply co_foldl) | exact sub_trans (by decide) hs | split | dsimp only)
theorem co_tintDeleteOp {L : List Part} {s0 : State} (h : Hdr) (slot : Nat) (s : State) (hs : sub [.seq, .sch, .kv, .head, .req, .ptn, .net] L = true) (hw : changesOnly L s0 s) : changesOnly L s0 (tintDeleteOp h slot s) := by
  unfold tintDeleteOp
  repeat' (first | with_reducible (first | assumption | intro t x ht | intro t ht | apply co_reply | apply co_endRequest | apply co_modPtn | apply co_foldl) | exact sub_trans (by decide) hs | split | dsimp only)
theorem co_dropCompletion {L : List Part} {s0 : State} (q : Nat) (s : State) (c : CqEnt) (hs : sub [.net] L = true) (hw : changesOnly L s0 s) : changesOnly L s0 (dropCompletion q s c) := by
  unfold dropCompletion
  repeat' (first | with_reducible (first | assumption | intro t x ht | intro t ht | apply co_modSes) | exact sub_trans (by decide) hs | split | dsimp only)
theorem co_cqReadOp {L : List Part} {s0 : State} (h : Hdr) (cq count : Nat) (s : State) (hs : sub [.ptn, .net] L = true) (hw : changesOnly L s0 s) : changesOnly L s0 (cqReadOp h cq count s) := by
  unfold cqReadOp
  repeat' (first | with_reducible (first | assumption | intro t x ht | intro t ht | apply co_replyFull | apply co_dropCompletion | apply co_modPtn | apply co_foldl) | exact sub_trans (by decide) hs | dsimp only)
theorem co_admissionWait {L : List Part} {s0 : State} (ix : Nat) (s : State) (hs : sub [.head, .req, .net] L = true) (hw : changesOnly L s0 s) : changesOnly L s0 (admissionWait ix s) := by
  unfold admissionWait
  repeat' (first | with_reducible (first | assumption | intro t x ht | intro t ht | apply co_setPresence | apply co_modEntry | apply co_freeEntry | apply co_replyLate) | exact sub_trans (by decide) hs | split | dsimp only)
theorem co_deadlineOp {L : List Part} {s0 : State} (ix : Nat) (s : State) (hs : sub [.seq, .sch, .kv, .head, .req, .ptn, .net] L = true) (hw : changesOnly L s0 s) : changesOnly L s0 (deadlineOp ix s) := by
  unfold deadlineOp
  repeat' (first | with_reducible (first | assumption | intro t x ht | intro t ht | apply co_complete | apply co_retireWith | apply co_killNow) | exact sub_trans (by decide) hs | split | dsimp only)
theorem co_ttlOp {L : List Part} {s0 : State} (ix : Nat) (s : State) (hs : sub [.kv, .head, .req, .ptn, .net] L = true) (hw : changesOnly L s0 s) : changesOnly L s0 (ttlOp ix s) := by
  unfold ttlOp
  repeat' (first | with_reducible (first | assumption | intro t x ht | intro t ht | apply co_expire) | exact sub_trans (by decide) hs | split | dsimp only)
theorem co_idleOp {L : List Part} {s0 : State} (ix : Nat) (s : State) (hs : sub [.req] L = true) (hw : changesOnly L s0 s) : changesOnly L s0 (idleOp ix s) := by
  unfold idleOp
  repeat' (first | with_reducible (first | assumption | intro t x ht | intro t ht | apply co_modEntry) | exact sub_trans (by decide) hs | split | dsimp only)
theorem co_pauseDone {L : List Part} {s0 : State} (ix : Nat) (s : State) (hs : sub [.kv, .req, .ptn, .net] L = true) (hw : changesOnly L s0 s) : changesOnly L s0 (pauseDone ix s) := by
  unfold pauseDone
  repeat' (first | with_reducible (first | assumption | intro t x ht | intro t ht | apply co_freePages | apply co_modEntry | apply co_sendPackage | apply co_complete) | exact sub_trans (by decide) hs | split | dsimp only)
theorem co_resumeDone {L : List Part} {s0 : State} (ix : Nat) (s : State) (hs : sub [.kv, .head, .req] L = true) (hw : changesOnly L s0 s) : changesOnly L s0 (resumeDone ix s) := by
  unfold resumeDone
  repeat' (first | with_reducible (first | assumption | intro t x ht | intro t ht | apply co_farReturn | apply co_setPresence | apply co_modEntry) | exact sub_trans (by decide) hs | split | (fail_if_no_progress with_reducible apply co_set_kv) | dsimp only)
theorem co_scrubEnds {L : List Part} {s0 : State} (mark : Nat) (s : State) (hs : sub [.head, .req] L = true) (hw : changesOnly L s0 s) : changesOnly L s0 (scrubEnds mark s) := by
  unfold scrubEnds
  repeat' (first | with_reducible (first | assumption | intro t x ht | intro t ht | apply co_freeEntry) | exact sub_trans (by decide) hs | split | dsimp only)
theorem co_scrubbed {L : List Part} {s0 : State} (ptn frame : Nat) (far : Bool) (s : State) (hs : sub [.kv, .head, .req] L = true) (hw : changesOnly L s0 s) : changesOnly L s0 (scrubbed ptn frame far s) := by
  unfold scrubbed
  repeat' (first | with_reducible (first | assumption | intro t x ht | intro t ht | apply co_scrubEnds | apply co_foldl) | exact sub_trans (by decide) hs | split | (fail_if_no_progress with_reducible apply co_set_kv) | dsimp only)
theorem co_loadDrain {L : List Part} {s0 : State} (c : Nat) (s : State) (hs : sub [.seq, .sch, .kv, .head, .req, .ptn, .net] L = true) (hw : changesOnly L s0 s) : changesOnly L s0 (loadDrain c s) := by
  unfold loadDrain
  repeat' (first | with_reducible (first | assumption | intro t x ht | intro t ht | apply co_endRequest | apply co_foldl) | exact sub_trans (by decide) hs | split | dsimp only)
theorem co_leaseEvent {L : List Part} {s0 : State} (role what ses : Nat) (s : State) (hs : sub [.ptn, .net, .evr] L = true) (hw : changesOnly L s0 s) : changesOnly L s0 (leaseEvent role what ses s) := by
  unfold leaseEvent
  repeat' (first | with_reducible (first | assumption | intro t x ht | intro t ht | apply co_fireArg | apply co_raise) | exact sub_trans (by decide) hs | split | dsimp only)
theorem co_leaseTest {L : List Part} {s0 : State} (s : State) (hs : sub [.ptn, .net, .evr] L = true) (hw : changesOnly L s0 s) : changesOnly L s0 (leaseTest s) := by
  unfold leaseTest
  repeat' (first | with_reducible (first | assumption | intro t x ht | intro t ht | apply co_leaseEvent | apply co_modSes | apply co_foldl) | exact sub_trans (by decide) hs | dsimp only)
theorem co_endSession {L : List Part} {s0 : State} (k : Nat) (s : State) (hs : sub [.ptn, .net] L = true) (hw : changesOnly L s0 s) : changesOnly L s0 (endSession k s) := by
  unfold endSession
  repeat' (first | with_reducible (first | assumption | intro t x ht | intro t ht | apply co_modPtn | apply co_modSes | apply co_foldl) | exact sub_trans (by decide) hs | split | dsimp only)
theorem co_graceOver {L : List Part} {s0 : State} (k : Nat) (s : State) (hs : sub [.seq, .sch, .kv, .head, .req, .ptn, .net, .evr] L = true) (hw : changesOnly L s0 s) : changesOnly L s0 (graceOver k s) := by
  unfold graceOver
  repeat' (first | with_reducible (first | assumption | intro t x ht | intro t ht | apply co_modEntry | apply co_endRequest | apply co_leaseEvent | apply co_endSession | apply co_foldl) | exact sub_trans (by decide) hs | split | dsimp only)
/-! ### Net -/
theorem co_modPath {L : List Part} {s0 : State} (k net : Nat) (f : PathRec → PathRec) (s : State) (hs : sub [.net] L = true) (hw : changesOnly L s0 s) : changesOnly L s0 (modPath k net f s) := by
  unfold modPath
  repeat' (first | with_reducible (first | assumption | intro t x ht | intro t ht | apply co_modSes) | exact sub_trans (by decide) hs | dsimp only)
theorem co_pumpAll {L : List Part} {s0 : State} (s : State) (hs : sub [.net] L = true) (hw : changesOnly L s0 s) : changesOnly L s0 (pumpAll s) := by
  unfold pumpAll
  repeat' (first | with_reducible (first | assumption | intro t x ht | intro t ht) | exact sub_trans (by decide) hs | (fail_if_no_progress with_reducible apply co_set_net) | dsimp only)
theorem co_netTick {L : List Part} {s0 : State} (s : State) (hs : sub [.net] L = true) (hw : changesOnly L s0 s) : changesOnly L s0 (netTick s) := by
  unfold netTick
  repeat' (first | with_reducible (first | assumption | intro t x ht | intro t ht | apply co_pumpAll | apply co_foldl) | exact sub_trans (by decide) hs | (fail_if_no_progress with_reducible apply co_set_net) | dsimp only)
theorem co_resendAll {L : List Part} {s0 : State} (k : Nat) (s : State) (hs : sub [.net] L = true) (hw : changesOnly L s0 s) : changesOnly L s0 (resendAll k s) := by
  unfold resendAll
  repeat' (first | with_reducible (first | assumption | intro t x ht | intro t ht | apply co_modSes) | exact sub_trans (by decide) hs | split | dsimp only)
theorem co_pathEvent {L : List Part} {s0 : State} (k what port : Nat) (s : State) (hs : sub [.ptn, .net] L = true) (hw : changesOnly L s0 s) : changesOnly L s0 (pathEvent k what port s) := by
  unfold pathEvent
  repeat' (first | with_reducible (first | assumption | intro t x ht | intro t ht | apply co_raise | apply co_post) | exact sub_trans (by decide) hs | split | dsimp only)
theorem co_pathDown {L : List Part} {s0 : State} (k net : Nat) (s : State) (hs : sub [.ptn, .net] L = true) (hw : changesOnly L s0 s) : changesOnly L s0 (pathDown k net s) := by
  unfold pathDown
  repeat' (first | with_reducible (first | assumption | intro t x ht | intro t ht | apply co_pathEvent | apply co_resendAll | apply co_modPath) | exact sub_trans (by decide) hs | dsimp only)
theorem co_pathUp {L : List Part} {s0 : State} (k net : Nat) (s : State) (hs : sub [.ptn, .net] L = true) (hw : changesOnly L s0 s) : changesOnly L s0 (pathUp k net s) := by
  unfold pathUp
  repeat' (first | with_reducible (first | assumption | intro t x ht | intro t ht | apply co_modPath | apply co_resendAll | apply co_pathEvent) | exact sub_trans (by decide) hs | split | dsimp only)
theorem co_dropSeg {L : List Part} {s0 : State} (port : Nat) (s : State) (hs : sub [.net] L = true) (hw : changesOnly L s0 s) : changesOnly L s0 (dropSeg port s) := by
  unfold dropSeg
  repeat' (first | with_reducible (first | assumption | intro t x ht | intro t ht | apply co_modPort) | exact sub_trans (by decide) hs | dsimp only)
theorem co_renew {L : List Part} {s0 : State} (k net tsval : Nat) (s : State) (hs : sub [.net] L = true) (hw : changesOnly L s0 s) : changesOnly L s0 (renew k net tsval s) := by
  unfold renew
  repeat' (first | with_reducible (first | assumption | intro t x ht | intro t ht | apply co_modPath | apply co_modSes) | exact sub_trans (by decide) hs | split | dsimp only)
theorem co_segIn {L : List Part} {s0 : State} (port vid sid seq tsval : Nat) (taken good : Bool) (act : State → State) (s : State) (h_act : ∀ y0, changesOnly L s0 y0 → changesOnly L s0 (act y0)) (hs : sub [.net] L = true) (hw : changesOnly L s0 s) : changesOnly L s0 (segIn port vid sid seq tsval taken good act s) := by
  unfold segIn
  repeat' (first | with_reducible (first | assumption | intro t x ht | intro t ht | apply co_dropSeg | apply co_renew | apply h_act) | exact sub_trans (by decide) hs | split)
theorem co_bufferFill {L : List Part} {s0 : State} (port fill : Nat) (s : State) (hs : sub [.net] L = true) (hw : changesOnly L s0 s) : changesOnly L s0 (bufferFill port fill s) := by
  unfold bufferFill
  repeat' (first | with_reducible (first | assumption | intro t x ht | intro t ht | apply co_modPort) | exact sub_trans (by decide) hs | split | dsimp only)
theorem co_ackedMsg {L : List Part} {s0 : State} (role : Nat) (m : Msg) (s : State) (hs : sub [.ptn] L = true) (hw : changesOnly L s0 s) : changesOnly L s0 (ackedMsg role m s) := by
  unfold ackedMsg
  repeat' (first | with_reducible (first | assumption | intro t x ht | intro t ht | apply co_modPtn) | exact sub_trans (by decide) hs | split | dsimp only)
theorem co_takeAck {L : List Part} {s0 : State} (a : AckInfo) (s : State) (hs : sub [.ptn, .net] L = true) (hw : changesOnly L s0 s) : changesOnly L s0 (takeAck a s) := by
  unfold takeAck
  repeat' (first | with_reducible (first | assumption | intro t x ht | intro t ht | apply co_modSes | apply co_ackedMsg | apply co_foldl) | exact sub_trans (by decide) hs | dsimp only)
theorem co_retransmit {L : List Part} {s0 : State} (k seq : Nat) (s : State) (hs : sub [.ptn, .net] L = true) (hw : changesOnly L s0 s) : changesOnly L s0 (retransmit k seq s) := by
  unfold retransmit
  repeat' (first | with_reducible (first | assumption | intro t x ht | intro t ht | apply co_modPath | apply co_pathDown | apply co_modSes) | exact sub_trans (by decide) hs | split | dsimp only)
theorem co_sendHs {L : List Part} {s0 : State} (o : HsOut) (s : State) (hs : sub [.net] L = true) (hw : changesOnly L s0 s) : changesOnly L s0 (sendHs o s) := by
  unfold sendHs
  repeat' (first | with_reducible (first | assumption | intro t x ht | intro t ht) | exact sub_trans (by decide) hs | (fail_if_no_progress with_reducible apply co_set_net))
theorem co_rejectHs {L : List Part} {s0 : State} (hsid reason : Nat) (s : State) (hs : sub [.net, .sec, .evr] L = true) (hw : changesOnly L s0 s) : changesOnly L s0 (rejectHs hsid reason s) := by
  unfold rejectHs
  repeat' (first | with_reducible (first | assumption | intro t x ht | intro t ht | apply co_sendHs | apply co_fire) | exact sub_trans (by decide) hs | (fail_if_no_progress with_reducible apply co_set_sec) | dsimp only)
theorem co_drawKey {L : List Part} {s0 : State} (s : State) (hs : sub [.dev] L = true) (hw : changesOnly L s0 s) : changesOnly L s0 (drawKey s).2 := by
  unfold drawKey
  repeat' (first | with_reducible (first | assumption | intro t x ht | intro t ht) | exact sub_trans (by decide) hs | (fail_if_no_progress with_reducible apply co_set_dev))
theorem co_hsInit {L : List Part} {s0 : State} (m : HsInit) (s : State) (hs : sub [.net, .sec, .evr, .dev] L = true) (hw : changesOnly L s0 s) : changesOnly L s0 (hsInit m s) := by
  unfold hsInit
  repeat' (first | with_reducible (first | assumption | intro t x ht | intro t ht | apply co_sendHs | apply co_rejectHs | apply co_drawKey) | exact sub_trans (by decide) hs | split | (fail_if_no_progress with_reducible apply co_set_net) | dsimp only)
theorem co_attachFrom {L : List Part} {s0 : State} (old new : Nat) (s : State) (hs : sub [.req, .ptn, .net, .evr] L = true) (hw : changesOnly L s0 s) : changesOnly L s0 (attachFrom old new s) := by
  unfold attachFrom
  repeat' (first | with_reducible (first | assumption | intro t x ht | intro t ht | apply co_modEntry | apply co_modPtn | apply co_modSes | apply co_leaseEvent | apply co_foldl) | exact sub_trans (by decide) hs | split | dsimp only)
theorem co_establish {L : List Part} {s0 : State} (x : Hs) (secret : Nat) (s : State) (hs : sub [.req, .ptn, .net, .evr, .dev] L = true) (hw : changesOnly L s0 s) : changesOnly L s0 (establish x secret s) := by
  unfold establish
  repeat' (first | with_reducible (first | assumption | intro t x ht | intro t ht | apply co_drawKey | apply co_sendHs | apply co_attachFrom) | exact sub_trans (by decide) hs | split | (fail_if_no_progress with_reducible apply co_set_net) | dsimp only)
theorem co_dropShake {L : List Part} {s0 : State} (hsid : Nat) (s : State) (hs : sub [.net] L = true) (hw : changesOnly L s0 s) : changesOnly L s0 (dropShake hsid s) := by
  unfold dropShake
  repeat' (first | with_reducible (first | assumption | intro t x ht | intro t ht) | exact sub_trans (by decide) hs | (fail_if_no_progress with_reducible apply co_set_net) | dsimp only)
theorem co_hsKey {L : List Part} {s0 : State} (hsid : Nat) (sigOk : Bool) (secret : Nat) (s : State) (hs : sub [.req, .ptn, .net, .sec, .evr, .dev] L = true) (hw : changesOnly L s0 s) : changesOnly L s0 (hsKey hsid sigOk secret s) := by
  unfold hsKey
  repeat' (first | with_reducible (first | assumption | intro t x ht | intro t ht | apply co_sendHs | apply co_rejectHs | apply co_dropShake | apply co_establish) | exact sub_trans (by decide) hs | split | dsimp only)
theorem co_takeProbe {L : List Part} {s0 : State} (port pnum k : Nat) (s : State) (hs : sub [.ptn, .net] L = true) (hw : changesOnly L s0 s) : changesOnly L s0 (takeProbe port pnum k s) := by
  unfold takeProbe
  repeat' (first | with_reducible (first | assumption | intro t x ht | intro t ht | apply co_modSes | apply co_resendAll | apply co_pathEvent) | exact sub_trans (by decide) hs | split | dsimp only)
theorem co_takeProbeAck {L : List Part} {s0 : State} (net pnum k : Nat) (s : State) (hs : sub [.ptn, .net] L = true) (hw : changesOnly L s0 s) : changesOnly L s0 (takeProbeAck net pnum k s) := by
  unfold takeProbeAck
  repeat' (first | with_reducible (first | assumption | intro t x ht | intro t ht | apply co_modPath | apply co_pathUp) | exact sub_trans (by decide) hs | split | dsimp only)
theorem co_pathProbe {L : List Part} {s0 : State} (k net : Nat) (s : State) (hs : sub [.net] L = true) (hw : changesOnly L s0 s) : changesOnly L s0 (pathProbe k net s) := by
  unfold pathProbe
  repeat' (first | with_reducible (first | assumption | intro t x ht | intro t ht | apply co_modSes) | exact sub_trans (by decide) hs | split | dsimp only)
theorem co_takeClose {L : List Part} {s0 : State} (seq k : Nat) (keep : Bool) (s : State) (hs : sub [.seq, .sch, .kv, .head, .req, .ptn, .net, .evr] L = true) (hw : changesOnly L s0 s) : changesOnly L s0 (takeClose seq k keep s) := by
  unfold takeClose
  repeat' (first | with_reducible (first | assumption | intro t x ht | intro t ht | apply co_modSes | apply co_leaseEvent | apply co_endSession | apply co_cancelEntry | apply co_foldl) | exact sub_trans (by decide) hs | split | dsimp only)
theorem co_losePath {L : List Part} {s0 : State} (port k : Nat) (s : State) (hs : sub [.ptn, .net] L = true) (hw : changesOnly L s0 s) : changesOnly L s0 (losePath port k s) := by
  unfold losePath
  repeat' (first | with_reducible (first | assumption | intro t x ht | intro t ht | apply co_pathDown | apply co_pathEvent | apply co_modSes) | exact sub_trans (by decide) hs | split | dsimp only)
theorem co_portLoss {L : List Part} {s0 : State} (port : Nat) (s : State) (hs : sub [.ptn, .net, .evr] L = true) (hw : changesOnly L s0 s) : changesOnly L s0 (portLoss port s) := by
  unfold portLoss
  repeat' (first | with_reducible (first | assumption | intro t x ht | intro t ht | apply co_fire | apply co_modPort | apply co_losePath | apply co_foldl) | exact sub_trans (by decide) hs | split | dsimp only)
theorem co_unitFailure {L : List Part} {s0 : State} (unit level cause : Nat) (s : State) (hs : sub [.seq, .sch, .cnv, .ptn, .net, .hist, .sec, .evr, .dev] L = true) (hw : changesOnly L s0 s) : changesOnly L s0 (unitFailure unit level cause s) := by
  unfold unitFailure
  repeat' (first | with_reducible (first | assumption | intro t x ht | intro t ht | apply co_portLoss | apply co_nonfence | apply co_foldl) | exact sub_trans (by decide) hs | dsimp only)
theorem co_sendFrame {L : List Part} {s0 : State} (port dst : Nat) (bs : List Byte) (s : State) (hs : sub [.net] L = true) (hw : changesOnly L s0 s) : changesOnly L s0 (sendFrame port dst bs s) := by
  unfold sendFrame
  repeat' (first | with_reducible (first | assumption | intro t x ht | intro t ht) | exact sub_trans (by decide) hs | (fail_if_no_progress with_reducible apply co_set_net))
theorem co_announce {L : List Part} {s0 : State} (port : Nat) (s : State) (hs : sub [.net] L = true) (hw : changesOnly L s0 s) : changesOnly L s0 (announce port s) := by
  unfold announce
  repeat' (first | with_reducible (first | assumption | intro t x ht | intro t ht | apply co_sendFrame | apply co_modPort) | exact sub_trans (by decide) hs | split | dsimp only)
theorem co_solicited {L : List Part} {s0 : State} (port : Nat) (s : State) (hs : sub [.net] L = true) (hw : changesOnly L s0 s) : changesOnly L s0 (solicited port s) := by
  unfold solicited
  repeat' (first | with_reducible (first | assumption | intro t x ht | intro t ht | apply co_sendFrame | apply co_modPort) | exact sub_trans (by decide) hs | split | dsimp only)
theorem co_lldpSend {L : List Part} {s0 : State} (port : Nat) (s : State) (hs : sub [.net] L = true) (hw : changesOnly L s0 s) : changesOnly L s0 (lldpSend port s) := by
  unfold lldpSend
  repeat' (first | with_reducible (first | assumption | intro t x ht | intro t ht | apply co_sendFrame | apply co_modPort) | exact sub_trans (by decide) hs | split | dsimp only)
theorem co_lldpTake {L : List Part} {s0 : State} (port chassis portid : Nat) (s : State) (hs : sub [.net, .evr] L = true) (hw : changesOnly L s0 s) : changesOnly L s0 (lldpTake port chassis portid s) := by
  unfold lldpTake
  repeat' (first | with_reducible (first | assumption | intro t x ht | intro t ht | apply co_fire | apply co_modPort) | exact sub_trans (by decide) hs | split | dsimp only)
theorem co_neighbour {L : List Part} {s0 : State} (port : Nat) (sol : Bool) (pre plen : Nat) (s : State) (hs : sub [.net] L = true) (hw : changesOnly L s0 s) : changesOnly L s0 (neighbour port sol pre plen s) := by
  unfold neighbour
  repeat' (first | with_reducible (first | assumption | intro t x ht | intro t ht | apply co_modPort) | exact sub_trans (by decide) hs | split | dsimp only)
/-! ### Firmware -/
theorem co_modFw {L : List Part} {s0 : State} (cls : Nat) (f : FwCls → FwCls) (s : State) (hs : sub [.sec] L = true) (hw : changesOnly L s0 s) : changesOnly L s0 (modFw cls f s) := by
  unfold modFw
  repeat' (first | with_reducible (first | assumption | intro t x ht | intro t ht) | exact sub_trans (by decide) hs | (fail_if_no_progress with_reducible apply co_set_sec))
theorem co_badSig {L : List Part} {s0 : State} (s : State) (hs : sub [.sec, .evr] L = true) (hw : changesOnly L s0 s) : changesOnly L s0 (badSig s) := by
  unfold badSig
  repeat' (first | with_reducible (first | assumption | intro t x ht | intro t ht | apply co_fire) | exact sub_trans (by decide) hs | (fail_if_no_progress with_reducible apply co_set_sec))
theorem co_fwStageOp {L : List Part} {s0 : State} (h : Hdr) (cls imgCls : Nat) (m : Img) (sigOk : Bool) (s : State) (hs : sub [.net, .sec, .evr] L = true) (hw : changesOnly L s0 s) : changesOnly L s0 (fwStageOp h cls imgCls m sigOk s) := by
  unfold fwStageOp
  repeat' (first | with_reducible (first | assumption | intro t x ht | intro t ht | apply co_replyOutcome | apply co_modFw | apply co_badSig) | exact sub_trans (by decide) hs | split | dsimp only)
theorem co_fwUpdateOp {L : List Part} {s0 : State} (h : Hdr) (cls : Nat) (s : State) (hs : sub [.net, .sec] L = true) (hw : changesOnly L s0 s) : changesOnly L s0 (fwUpdateOp h cls s) := by
  unfold fwUpdateOp
  repeat' (first | with_reducible (first | assumption | intro t x ht | intro t ht | apply co_replyOutcome | apply co_leaveOut) | exact sub_trans (by decide) hs | split | (fail_if_no_progress with_reducible apply co_set_sec) | dsimp only)
theorem co_provisionalEnd {L : List Part} {s0 : State} (s : State) (hs : sub [.net, .sec, .evr] L = true) (hw : changesOnly L s0 s) : changesOnly L s0 (provisionalEnd s) := by
  unfold provisionalEnd
  repeat' (first | with_reducible (first | assumption | intro t x ht | intro t ht | apply co_modFw | apply co_replyOutcomeLate | apply co_fire) | exact sub_trans (by decide) hs | split | (fail_if_no_progress with_reducible apply co_set_sec) | dsimp only)
theorem co_fwActivateOp {L : List Part} {s0 : State} (h : Hdr) (cls : Nat) (s : State) (hs : sub [.net, .sec] L = true) (hw : changesOnly L s0 s) : changesOnly L s0 (fwActivateOp h cls s) := by
  unfold fwActivateOp
  repeat' (first | with_reducible (first | assumption | intro t x ht | intro t ht | apply co_replyOutcome | apply co_modFw) | exact sub_trans (by decide) hs | split | dsimp only)
theorem co_fwWatchdog {L : List Part} {s0 : State} (cls unit : Nat) (s : State) (hs : sub [.seq, .sch, .cnv, .ptn, .net, .hist, .sec, .evr, .dev] L = true) (hw : changesOnly L s0 s) : changesOnly L s0 (fwWatchdog cls unit s) := by
  unfold fwWatchdog
  repeat' (first | with_reducible (first | assumption | intro t x ht | intro t ht | apply co_updRevert | apply co_fire | apply co_nonfence | apply co_sendAbandon) | exact sub_trans (by decide) hs | split | (fail_if_no_progress with_reducible apply co_set_sec) | dsimp only)
theorem co_claimOp {L : List Part} {s0 : State} (h : Hdr) (key : Nat) (s : State) (hs : sub [.net, .sec, .evr] L = true) (hw : changesOnly L s0 s) : changesOnly L s0 (claimOp h key s) := by
  unfold claimOp
  repeat' (first | with_reducible (first | assumption | intro t x ht | intro t ht | apply co_reply | apply co_modSes | apply co_fire) | exact sub_trans (by decide) hs | split | (fail_if_no_progress with_reducible apply co_set_sec) | dsimp only)
theorem co_ownerRotateOp {L : List Part} {s0 : State} (h : Hdr) (key : Nat) (sigOk : Bool) (s : State) (hs : sub [.net, .sec, .evr] L = true) (hw : changesOnly L s0 s) : changesOnly L s0 (ownerRotateOp h key sigOk s) := by
  unfold ownerRotateOp
  repeat' (first | with_reducible (first | assumption | intro t x ht | intro t ht | apply co_reply | apply co_badSig | apply co_fire) | exact sub_trans (by decide) hs | split | (fail_if_no_progress with_reducible apply co_set_sec) | dsimp only)
theorem co_releaseOp {L : List Part} {s0 : State} (h : Hdr) (sigOk : Bool) (s : State) (hs : sub [.cnv, .net, .sec, .evr] L = true) (hw : changesOnly L s0 s) : changesOnly L s0 (releaseOp h sigOk s) := by
  unfold releaseOp
  repeat' (first | with_reducible (first | assumption | intro t x ht | intro t ht | apply co_reply | apply co_badSig | apply co_modCnv | apply co_leaveOut | apply co_foldl) | exact sub_trans (by decide) hs | split | (fail_if_no_progress with_reducible apply co_set_sec) | dsimp only)
theorem co_keyRotateOp {L : List Part} {s0 : State} (h : Hdr) (s : State) (hs : sub [.net, .sec, .evr] L = true) (hw : changesOnly L s0 s) : changesOnly L s0 (keyRotateOp h s) := by
  unfold keyRotateOp
  repeat' (first | with_reducible (first | assumption | intro t x ht | intro t ht | apply co_reply | apply co_fire) | exact sub_trans (by decide) hs | split | (fail_if_no_progress with_reducible apply co_set_sec) | dsimp only)
theorem co_cfgWriteOp {L : List Part} {s0 : State} (h : Hdr) (sigOk : Bool) (svn : Nat) (own : List Nat) (s : State) (hs : sub [.net, .sec, .evr] L = true) (hw : changesOnly L s0 s) : changesOnly L s0 (cfgWriteOp h sigOk svn own s) := by
  unfold cfgWriteOp
  repeat' (first | with_reducible (first | assumption | intro t x ht | intro t ht | apply co_replyOutcome | apply co_badSig) | exact sub_trans (by decide) hs | split | (fail_if_no_progress with_reducible apply co_set_sec) | dsimp only)
theorem co_cfgResolveOp {L : List Part} {s0 : State} (h : Hdr) (copy : Nat) (copyOk : Bool) (s : State) (hs : sub [.net, .sec] L = true) (hw : changesOnly L s0 s) : changesOnly L s0 (cfgResolveOp h copy copyOk s) := by
  unfold cfgResolveOp
  repeat' (first | with_reducible (first | assumption | intro t x ht | intro t ht | apply co_replyOutcome) | exact sub_trans (by decide) hs | split | (fail_if_no_progress with_reducible apply co_set_sec) | dsimp only)
theorem co_attestOp {L : List Part} {s0 : State} (h : Hdr) (nonce : Nat) (s : State) (hs : sub [.net, .sec] L = true) (hw : changesOnly L s0 s) : changesOnly L s0 (attestOp h nonce s) := by
  unfold attestOp
  repeat' (first | with_reducible (first | assumption | intro t x ht | intro t ht | apply co_replyFull) | exact sub_trans (by decide) hs | split | (fail_if_no_progress with_reducible apply co_set_sec) | dsimp only)
/-! ### Recorder -/
theorem co_recordNext {L : List Part} {s0 : State} (s : State) (hs : sub [.evr] L = true) (hw : changesOnly L s0 s) : changesOnly L s0 (recordNext s) := by
  unfold recordNext
  repeat' (first | with_reducible (first | assumption | intro t x ht | intro t ht) | exact sub_trans (by decide) hs | split | (fail_if_no_progress with_reducible apply co_set_evr) | dsimp only)
theorem co_evrClear {L : List Part} {s0 : State} (s : State) (hs : sub [.evr] L = true) (hw : changesOnly L s0 s) : changesOnly L s0 (evrClear s) := by
  unfold evrClear
  repeat' (first | with_reducible (first | assumption | intro t x ht | intro t ht) | exact sub_trans (by decide) hs | (fail_if_no_progress with_reducible apply co_set_evr))
theorem co_clearEnd {L : List Part} {s0 : State} (s : State) (hs : sub [.evr] L = true) (hw : changesOnly L s0 s) : changesOnly L s0 (clearEnd s) := by
  unfold clearEnd
  repeat' (first | with_reducible (first | assumption | intro t x ht | intro t ht | apply co_evrCommit) | exact sub_trans (by decide) hs | split | (fail_if_no_progress with_reducible apply co_set_evr) | dsimp only)
/-! ### Power -/
theorem co_survive {L : List Part} {s0 : State} (near far : Bool) (s : State) (hs : sub [.arr, .core, .glz, .seq, .sch, .kv, .head, .req, .cnv, .ptn, .net, .hist, .cal, .sec, .pwr, .evr, .brd, .dev] L = true) (hw : changesOnly L s0 s) : changesOnly L s0 (survive near far s) :=
  co_upd (u := s) [.arr, .core, .glz, .seq, .sch, .kv, .head, .req, .cnv, .ptn, .net, .hist, .cal, .sec, .pwr, .evr, .brd, .dev] hs rfl (fun p hp => by cases p <;> first | rfl | exact absurd (by decide) hp) hw
theorem co_railsOff {L : List Part} {s0 : State} (far : Bool) (state : Nat) (off : Bool) (s : State) (hs : sub [.arr, .core, .glz, .seq, .sch, .kv, .head, .req, .cnv, .ptn, .net, .hist, .cal, .sec, .pwr, .evr, .brd, .dev] L = true) (hw : changesOnly L s0 s) : changesOnly L s0 (railsOff far state off s) := by
  unfold railsOff
  repeat' (first | with_reducible (first | assumption | intro t x ht | intro t ht | apply co_survive) | exact sub_trans (by decide) hs | (fail_if_no_progress with_reducible apply co_set_pwr) | dsimp only)
theorem co_setEvents {L : List Part} {s0 : State} (m : Nat) (s : State) (hs : sub [.pwr, .brd] L = true) (hw : changesOnly L s0 s) : changesOnly L s0 (setEvents m s) := by
  unfold setEvents
  repeat' (first | with_reducible (first | assumption | intro t x ht | intro t ht) | exact sub_trans (by decide) hs | split | (fail_if_no_progress with_reducible apply co_set_pwr_brd))
theorem co_settleMstate {L : List Part} {s0 : State} (s : State) (hs : sub [.evr, .dev] L = true) (hw : changesOnly L s0 s) : changesOnly L s0 (settleMstate s) := by
  unfold settleMstate
  repeat' (first | with_reducible (first | assumption | intro t x ht | intro t ht | apply co_setMstate) | exact sub_trans (by decide) hs)
theorem co_settlePower {L : List Part} {s0 : State} (s : State) (hs : sub [.pwr, .evr, .dev] L = true) (hw : changesOnly L s0 s) : changesOnly L s0 (settlePower s) := by
  unfold settlePower
  repeat' (first | with_reducible (first | assumption | intro t x ht | intro t ht | apply co_settleMstate) | exact sub_trans (by decide) hs | split | (fail_if_no_progress with_reducible apply co_set_pwr) | dsimp only)
theorem co_quiesce_ {L : List Part} {s0 : State} (s : State) (hs : sub [.arr, .seq, .sch, .cnv, .ptn, .net, .hist, .sec, .pwr, .evr, .dev] L = true) (hw : changesOnly L s0 s) : changesOnly L s0 (quiesce_ s) := by
  unfold quiesce_
  repeat' (first | with_reducible (first | assumption | intro t x ht | intro t ht | apply co_updRevert | apply co_stopWrites | apply co_settleMstate | apply co_raiseAll) | exact sub_trans (by decide) hs | (fail_if_no_progress with_reducible apply co_set_pwr) | dsimp only)
theorem co_holdOn {L : List Part} {s0 : State} (pin : Bool) (s : State) (hs : sub [.arr, .seq, .sch, .cnv, .ptn, .net, .hist, .sec, .pwr, .evr, .brd, .dev] L = true) (hw : changesOnly L s0 s) : changesOnly L s0 (holdOn pin s) := by
  unfold holdOn
  repeat' (first | with_reducible (first | assumption | intro t x ht | intro t ht | apply co_fire | apply co_setEvents | apply co_quiesce_) | exact sub_trans (by decide) hs | split | (fail_if_no_progress with_reducible apply co_set_pwr) | dsimp only)
theorem co_holdOff {L : List Part} {s0 : State} (pin : Bool) (s : State) (hs : sub [.pwr, .evr, .dev] L = true) (hw : changesOnly L s0 s) : changesOnly L s0 (holdOff pin s) := by
  unfold holdOff
  repeat' (first | with_reducible (first | assumption | intro t x ht | intro t ht | apply co_settlePower | apply co_fire) | exact sub_trans (by decide) hs | split | (fail_if_no_progress with_reducible apply co_set_pwr) | dsimp only)
theorem co_holdQuiesce {L : List Part} {s0 : State} (s : State) (hs : sub [.seq, .sch, .cnv, .hist, .pwr] L = true) (hw : changesOnly L s0 s) : changesOnly L s0 (holdQuiesce s) := by
  unfold holdQuiesce
  repeat' (first | with_reducible (first | assumption | intro t x ht | intro t ht | apply co_sendAbandon) | exact sub_trans (by decide) hs | split | (fail_if_no_progress with_reducible apply co_set_pwr) | dsimp only)
theorem co_warnOn {L : List Part} {s0 : State} (s : State) (hs : sub [.arr, .glz, .seq, .sch, .cnv, .hist, .pwr, .evr, .brd, .dev] L = true) (hw : changesOnly L s0 s) : changesOnly L s0 (warnOn s) := by
  unfold warnOn
  repeat' (first | with_reducible (first | assumption | intro t x ht | intro t ht | apply co_sendAbandon | apply co_stopWrites | apply co_settlePower | apply co_evrCommit | apply co_uhWrite | apply co_setEvents) | exact sub_trans (by decide) hs | split | (fail_if_no_progress with_reducible apply co_set_glz) | dsimp only)
theorem co_warnOff {L : List Part} {s0 : State} (s : State) (hs : sub [.pwr, .evr, .dev] L = true) (hw : changesOnly L s0 s) : changesOnly L s0 (warnOff s) := by
  unfold warnOff
  repeat' (first | with_reducible (first | assumption | intro t x ht | intro t ht | apply co_settlePower | apply co_fire) | exact sub_trans (by decide) hs | split)
theorem co_seeInput {L : List Part} {s0 : State} (mv : Nat) (s : State) (hs : sub [.pwr] L = true) (hw : changesOnly L s0 s) : changesOnly L s0 (seeInput mv s) := by
  unfold seeInput
  repeat' (first | with_reducible (first | assumption | intro t x ht | intro t ht) | exact sub_trans (by decide) hs | (fail_if_no_progress with_reducible apply co_set_pwr))
theorem co_disconnect {L : List Part} {s0 : State} (s : State) (hs : sub [.arr, .core, .glz, .seq, .sch, .kv, .head, .req, .cnv, .ptn, .net, .hist, .cal, .sec, .pwr, .evr, .brd, .dev] L = true) (hw : changesOnly L s0 s) : changesOnly L s0 (disconnect s) := by
  unfold disconnect
  repeat' (first | with_reducible (first | assumption | intro t x ht | intro t ht | apply co_railsOff) | exact sub_trans (by decide) hs | (fail_if_no_progress with_reducible apply co_set_pwr) | dsimp only)
theorem co_overvolt {L : List Part} {s0 : State} (mv : Nat) (s : State) (hs : sub [.arr, .core, .glz, .seq, .sch, .kv, .head, .req, .cnv, .ptn, .net, .hist, .cal, .sec, .pwr, .evr, .brd, .dev] L = true) (hw : changesOnly L s0 s) : changesOnly L s0 (overvolt mv s) := by
  unfold overvolt
  repeat' (first | with_reducible (first | assumption | intro t x ht | intro t ht | apply co_fire | apply co_setEvents | apply co_seeInput | apply co_disconnect) | exact sub_trans (by decide) hs | split | dsimp only)
theorem co_undervolt {L : List Part} {s0 : State} (mv : Nat) (s : State) (hs : sub [.arr, .glz, .seq, .sch, .cnv, .hist, .pwr, .evr, .brd, .dev] L = true) (hw : changesOnly L s0 s) : changesOnly L s0 (undervolt mv s) := by
  unfold undervolt
  repeat' (first | with_reducible (first | assumption | intro t x ht | intro t ht | apply co_fire | apply co_setEvents | apply co_seeInput | apply co_warnOn) | exact sub_trans (by decide) hs | split | (fail_if_no_progress with_reducible apply co_set_pwr) | dsimp only)
theorem co_standbyRead {L : List Part} {s0 : State} (mv ma10 : Nat) (board : List (Int × Bool)) (s : State) (hs : sub [.pwr] L = true) (hw : changesOnly L s0 s) : changesOnly L s0 (standbyRead mv ma10 board s) := by
  unfold standbyRead
  repeat' (first | with_reducible (first | assumption | intro t x ht | intro t ht | apply co_foldl) | exact sub_trans (by decide) hs | split | (fail_if_no_progress with_reducible apply co_set_pwr) | dsimp only)
theorem co_channelRead {L : List Part} {s0 : State} (ch : Nat) (value : Int) (valid : Bool) (s : State) (hs : sub [.pwr, .evr, .brd] L = true) (hw : changesOnly L s0 s) : changesOnly L s0 (channelRead ch value valid s) := by
  unfold channelRead
  repeat' (first | with_reducible (first | assumption | intro t x ht | intro t ht | apply co_fire | apply co_setEvents) | exact sub_trans (by decide) hs | split | (fail_if_no_progress with_reducible apply co_set_pwr) | dsimp only)
theorem co_coolantRound {L : List Part} {s0 : State} (s : State) (hs : sub [.pwr, .evr, .brd] L = true) (hw : changesOnly L s0 s) : changesOnly L s0 (coolantRound s) := by
  unfold coolantRound
  repeat' (first | with_reducible (first | assumption | intro t x ht | intro t ht | apply co_fire | apply co_setEvents) | exact sub_trans (by decide) hs | split | (fail_if_no_progress with_reducible apply co_set_pwr) | dsimp only)
theorem co_throttleRound {L : List Part} {s0 : State} (jmax : Bool) (hot : Option (Nat × Int)) (s : State) (hs : sub [.pwr, .evr, .brd] L = true) (hw : changesOnly L s0 s) : changesOnly L s0 (throttleRound jmax hot s) := by
  unfold throttleRound
  repeat' (first | with_reducible (first | assumption | intro t x ht | intro t ht | apply co_setEvents | apply co_fire) | exact sub_trans (by decide) hs | split | (fail_if_no_progress with_reducible apply co_set_pwr) | dsimp only)
theorem co_junctionRound {L : List Part} {s0 : State} (hot : Option (Nat × Int)) (s : State) (hs : sub [.arr, .seq, .sch, .cnv, .ptn, .net, .hist, .sec, .pwr, .evr, .brd, .dev] L = true) (hw : changesOnly L s0 s) : changesOnly L s0 (junctionRound hot s) := by
  unfold junctionRound
  repeat' (first | with_reducible (first | assumption | intro t x ht | intro t ht | apply co_fire | apply co_setEvents | apply co_quiesce_ | apply co_settlePower) | exact sub_trans (by decide) hs | split | (fail_if_no_progress with_reducible apply co_set_pwr) | dsimp only)
theorem co_tempRound {L : List Part} {s0 : State} (s : State) (cl : Nat) (hs : sub [.cal] L = true) (hw : changesOnly L s0 s) : changesOnly L s0 (tempRound s cl) := by
  unfold tempRound
  repeat' (first | with_reducible (first | assumption | intro t x ht | intro t ht | apply co_modCal | apply co_calDue) | exact sub_trans (by decide) hs | split | dsimp only)
theorem co_roundEnd {L : List Part} {s0 : State} (watts pump : Nat) (s : State) (hs : sub [.arr, .seq, .sch, .cnv, .ptn, .net, .hist, .cal, .sec, .pwr, .evr, .brd, .dev] L = true) (hw : changesOnly L s0 s) : changesOnly L s0 (roundEnd watts pump s) := by
  unfold roundEnd
  repeat' (first | with_reducible (first | assumption | intro t x ht | intro t ht | apply co_coolantRound | apply co_tempRound | apply co_throttleRound | apply co_junctionRound | apply co_foldl) | exact sub_trans (by decide) hs | split | (fail_if_no_progress with_reducible apply co_set_pwr) | dsimp only)
/-! ### RegAccess -/
theorem co_clearRC {L : List Part} {s0 : State} (b : Block) (o : Nat) (s : State) (hs : sub [.cnv, .net, .hist, .cal, .sec, .pwr, .evr] L = true) (hw : changesOnly L s0 s) : changesOnly L s0 (clearRC b o s) := by
  unfold clearRC
  repeat' (first | with_reducible (first | assumption | intro t x ht | intro t ht | apply co_modCnv | apply co_modPort) | exact sub_trans (by decide) hs | split | (fail_if_no_progress with_reducible apply co_set_hist_cal_sec_pwr_evr) | dsimp only)
theorem co_readReg {L : List Part} {s0 : State} (p : Path) (a : Nat) (s : State) (hs : sub [.cnv, .net, .hist, .cal, .sec, .pwr, .evr] L = true) (hw : changesOnly L s0 s) : changesOnly L s0 (readReg p a s).2.2 := by
  unfold readReg
  repeat' (first | with_reducible (first | assumption | intro t x ht | intro t ht | apply co_clearRC) | exact sub_trans (by decide) hs | split)
theorem co_writeDev {L : List Part} {s0 : State} (o : Nat) (v : Word) (s : State) (hs : sub [.dev] L = true) (hw : changesOnly L s0 s) : changesOnly L s0 (writeDev o v s) := by
  unfold writeDev
  repeat' (first | with_reducible (first | assumption | intro t x ht | intro t ht) | exact sub_trans (by decide) hs | split | (fail_if_no_progress with_reducible apply co_set_dev) | dsimp only)
theorem co_setHoldReq {L : List Part} {s0 : State} (on : Bool) (s : State) (hs : sub [.arr, .seq, .sch, .cnv, .ptn, .net, .hist, .sec, .pwr, .evr, .brd, .dev] L = true) (hw : changesOnly L s0 s) : changesOnly L s0 (setHoldReq on s) := by
  unfold setHoldReq
  repeat' (first | with_reducible (first | assumption | intro t x ht | intro t ht | apply co_holdOn | apply co_holdOff) | exact sub_trans (by decide) hs | split)
theorem co_writePwrCtrl {L : List Part} {s0 : State} (w : Nat) (s : State) (hs : sub [.arr, .seq, .sch, .cnv, .ptn, .net, .hist, .sec, .pwr, .evr, .brd, .dev] L = true) (hw : changesOnly L s0 s) : changesOnly L s0 (writePwrCtrl w s) := by
  unfold writePwrCtrl
  repeat' (first | with_reducible (first | assumption | intro t x ht | intro t ht | apply co_setHoldReq) | exact sub_trans (by decide) hs | (fail_if_no_progress with_reducible apply co_set_pwr))
theorem co_writePwr {L : List Part} {s0 : State} (o : Nat) (v : Word) (s : State) (hs : sub [.arr, .seq, .sch, .cnv, .ptn, .net, .hist, .sec, .pwr, .evr, .brd, .dev] L = true) (hw : changesOnly L s0 s) : changesOnly L s0 (writePwr o v s) := by
  unfold writePwr
  repeat' (first | with_reducible (first | assumption | intro t x ht | intro t ht | apply co_writePwrCtrl) | exact sub_trans (by decide) hs | split | (fail_if_no_progress with_reducible apply co_set_pwr) | dsimp only)
theorem co_writeEvrCtrl {L : List Part} {s0 : State} (w : Nat) (s : State) (hs : sub [.evr] L = true) (hw : changesOnly L s0 s) : changesOnly L s0 (writeEvrCtrl w s) := by
  unfold writeEvrCtrl
  repeat' (first | with_reducible (first | assumption | intro t x ht | intro t ht | apply co_evrClear | apply co_fireArg) | exact sub_trans (by decide) hs | split | (fail_if_no_progress with_reducible apply co_set_evr) | dsimp only)
theorem co_writeEvr {L : List Part} {s0 : State} (o : Nat) (v : Word) (s : State) (hs : sub [.evr] L = true) (hw : changesOnly L s0 s) : changesOnly L s0 (writeEvr o v s) := by
  unfold writeEvr
  repeat' (first | with_reducible (first | assumption | intro t x ht | intro t ht | apply co_writeEvrCtrl) | exact sub_trans (by decide) hs | split | (fail_if_no_progress with_reducible apply co_set_evr) | dsimp only)
theorem co_writeCalCmd {L : List Part} {s0 : State} (w : Nat) (s : State) (hs : sub [.cal] L = true) (hw : changesOnly L s0 s) : changesOnly L s0 (writeCalCmd w s) := by
  unfold writeCalCmd
  repeat' (first | with_reducible (first | assumption | intro t x ht | intro t ht | apply co_calDue | apply co_foldl) | exact sub_trans (by decide) hs | split | dsimp only)
theorem co_writeCal {L : List Part} {s0 : State} (o : Nat) (v : Word) (s : State) (hs : sub [.cal] L = true) (hw : changesOnly L s0 s) : changesOnly L s0 (writeCal o v s) := by
  unfold writeCal
  repeat' (first | with_reducible (first | assumption | intro t x ht | intro t ht | apply co_writeCalCmd) | exact sub_trans (by decide) hs | split | (fail_if_no_progress with_reducible apply co_set_cal) | dsimp only)
theorem co_writeAudit {L : List Part} {s0 : State} (w : Nat) (s : State) (hs : sub [.arr, .glz, .kv, .hist] L = true) (hw : changesOnly L s0 s) : changesOnly L s0 (writeAudit w s) := by
  unfold writeAudit
  repeat' (first | with_reducible (first | assumption | intro t x ht | intro t ht | apply co_auditOff) | exact sub_trans (by decide) hs | split | (fail_if_no_progress with_reducible apply co_set_hist) | dsimp only)
theorem co_writeQuery {L : List Part} {s0 : State} (p : Path) (v : Word) (s : State) (hs : sub [.net, .hist] L = true) (hw : changesOnly L s0 s) : changesOnly L s0 (writeQuery p v s) := by
  unfold writeQuery
  repeat' (first | with_reducible (first | assumption | intro t x ht | intro t ht | apply co_modSes) | exact sub_trans (by decide) hs | split | (fail_if_no_progress with_reducible apply co_set_hist) | dsimp only)
theorem co_writeHlth {L : List Part} {s0 : State} (p : Path) (o : Nat) (v : Word) (s : State) (hs : sub [.arr, .glz, .kv, .net, .hist] L = true) (hw : changesOnly L s0 s) : changesOnly L s0 (writeHlth p o v s) := by
  unfold writeHlth
  repeat' (first | with_reducible (first | assumption | intro t x ht | intro t ht | apply co_writeAudit | apply co_writeQuery) | exact sub_trans (by decide) hs | split)
theorem co_writeCnvCtrl {L : List Part} {s0 : State} (c w : Nat) (s : State) (hs : sub [.cnv] L = true) (hw : changesOnly L s0 s) : changesOnly L s0 (writeCnvCtrl c w s) := by
  unfold writeCnvCtrl
  repeat' (first | with_reducible (first | assumption | intro t x ht | intro t ht | apply co_modCnv) | exact sub_trans (by decide) hs | dsimp only)
theorem co_writeCnv {L : List Part} {s0 : State} (c o : Nat) (v : Word) (s : State) (hs : sub [.cnv] L = true) (hw : changesOnly L s0 s) : changesOnly L s0 (writeCnv c o v s) := by
  unfold writeCnv
  repeat' (first | with_reducible (first | assumption | intro t x ht | intro t ht | apply co_writeCnvCtrl | apply co_modCnv) | exact sub_trans (by decide) hs | split | dsimp only)
theorem co_writePortCtrl {L : List Part} {s0 : State} (n w : Nat) (s : State) (hs : sub [.ptn, .net, .evr] L = true) (hw : changesOnly L s0 s) : changesOnly L s0 (writePortCtrl n w s) := by
  unfold writePortCtrl
  repeat' (first | with_reducible (first | assumption | intro t x ht | intro t ht | apply co_modPort | apply co_portLoss) | exact sub_trans (by decide) hs | split | dsimp only)
theorem co_writePort {L : List Part} {s0 : State} (n o : Nat) (v : Word) (s : State) (hs : sub [.ptn, .net, .evr] L = true) (hw : changesOnly L s0 s) : changesOnly L s0 (writePort n o v s) := by
  unfold writePort
  repeat' (first | with_reducible (first | assumption | intro t x ht | intro t ht | apply co_writePortCtrl | apply co_modPort) | exact sub_trans (by decide) hs | split | dsimp only)
theorem co_sealPtn {L : List Part} {s0 : State} (n : Nat) (s : State) (hs : sub [.ptn, .dev] L = true) (hw : changesOnly L s0 s) : changesOnly L s0 (sealPtn n s) := by
  unfold sealPtn
  repeat' (first | with_reducible (first | assumption | intro t x ht | intro t ht | apply co_modPtn | apply co_drawKey) | exact sub_trans (by decide) hs | split | dsimp only)
theorem co_enablePtn {L : List Part} {s0 : State} (n : Nat) (s : State) (hs : sub [.kv, .head, .req, .ptn, .net, .dev] L = true) (hw : changesOnly L s0 s) : changesOnly L s0 (enablePtn n s) := by
  unfold enablePtn
  repeat' (first | with_reducible (first | assumption | intro t x ht | intro t ht | apply co_modPtn | apply co_expire | apply co_sealPtn | apply co_foldl) | exact sub_trans (by decide) hs | split | dsimp only)
theorem co_disableNow {L : List Part} {s0 : State} (n : Nat) (s : State) (hs : sub [.seq, .sch, .kv, .head, .req, .ptn, .net] L = true) (hw : changesOnly L s0 s) : changesOnly L s0 (disableNow n s) := by
  unfold disableNow
  repeat' (first | with_reducible (first | assumption | intro t x ht | intro t ht | apply co_endRequest | apply co_foldl) | exact sub_trans (by decide) hs | split | dsimp only)
theorem co_writePtnCtrl {L : List Part} {s0 : State} (n w : Nat) (s : State) (hs : sub [.seq, .sch, .kv, .head, .req, .ptn, .net, .dev] L = true) (hw : changesOnly L s0 s) : changesOnly L s0 (writePtnCtrl n w s) := by
  unfold writePtnCtrl
  repeat' (first | with_reducible (first | assumption | intro t x ht | intro t ht | apply co_modPtn | apply co_enablePtn | apply co_disableNow) | exact sub_trans (by decide) hs | split | dsimp only)
theorem co_writePtn {L : List Part} {s0 : State} (n o : Nat) (full : Bool) (v : Word) (s : State) (hs : sub [.seq, .sch, .kv, .head, .req, .ptn, .net, .dev] L = true) (hw : changesOnly L s0 s) : changesOnly L s0 (writePtn n o full v s) := by
  unfold writePtn
  repeat' (first | with_reducible (first | assumption | intro t x ht | intro t ht | apply co_writePtnCtrl | apply co_modPtn) | exact sub_trans (by decide) hs | split | dsimp only)
theorem co_writeBlock {L : List Part} {s0 : State} (p : Path) (b : Block) (o : Nat) (v : Word) (s : State) (hs : sub [.arr, .glz, .seq, .sch, .kv, .head, .req, .cnv, .ptn, .net, .hist, .cal, .sec, .pwr, .evr, .brd, .dev] L = true) (hw : changesOnly L s0 s) : changesOnly L s0 (writeBlock p b o v s) := by
  unfold writeBlock
  repeat' (first | with_reducible (first | assumption | intro t x ht | intro t ht | apply co_writeDev | apply co_writePwr | apply co_writeEvr | apply co_writeCal | apply co_writeHlth | apply co_writeCnv | apply co_writePort | apply co_writePtn) | exact sub_trans (by decide) hs | split)
theorem co_writeReg {L : List Part} {s0 : State} (p : Path) (a : Nat) (v : Word) (s : State) (hs : sub [.arr, .glz, .seq, .sch, .kv, .head, .req, .cnv, .ptn, .net, .hist, .cal, .sec, .pwr, .evr, .brd, .dev] L = true) (hw : changesOnly L s0 s) : changesOnly L s0 (writeReg p a v s).2 := by
  unfold writeReg
  repeat' (first | with_reducible (first | assumption | intro t x ht | intro t ht | apply co_writeBlock) | exact sub_trans (by decide) hs | split)
theorem co_readMany {L : List Part} {s0 : State} (p : Path) (a ix n : Nat) (s : State) (hs : sub [.cnv, .net, .hist, .cal, .sec, .pwr, .evr] L = true) (hw : changesOnly L s0 s) : changesOnly L s0 (readMany p a ix n s).2.2.2 := by
  induction n generalizing ix s with
  | zero => exact hw
  | succ k ih => exact ih _ _ (co_readReg _ _ _ hs hw)
theorem co_writeMany {L : List Part} {s0 : State} (p : Path) (a ix : Nat) (l : List Word) (s : State) (hs : sub [.arr, .glz, .seq, .sch, .kv, .head, .req, .cnv, .ptn, .net, .hist, .cal, .sec, .pwr, .evr, .brd, .dev] L = true) (hw : changesOnly L s0 s) : changesOnly L s0 (writeMany p a ix l s).2.2 := by
  induction l generalizing ix s with
  | nil => exact hw
  | cons v vs ih =>
    simp only [writeMany]
    split
    · exact ih _ _ (co_writeReg _ _ _ _ hs hw)
    · exact hw
theorem co_regReadOp {L : List Part} {s0 : State} (h : Hdr) (a count : Nat) (s : State) (hs : sub [.cnv, .net, .hist, .cal, .sec, .pwr, .evr] L = true) (hw : changesOnly L s0 s) : changesOnly L s0 (regReadOp h a count s) := by
  unfold regReadOp
  repeat' (first | with_reducible (first | assumption | intro t x ht | intro t ht | apply co_reply | apply co_replyFull | apply co_readMany) | exact sub_trans (by decide) hs | split | dsimp only)
theorem co_regWriteOp {L : List Part} {s0 : State} (h : Hdr) (a count : Nat) (vs : List Word) (s : State) (hs : sub [.arr, .glz, .seq, .sch, .kv, .head, .req, .cnv, .ptn, .net, .hist, .cal, .sec, .pwr, .evr, .brd, .dev] L = true) (hw : changesOnly L s0 s) : changesOnly L s0 (regWriteOp h a count vs s) := by
  unfold regWriteOp
  repeat' (first | with_reducible (first | assumption | intro t x ht | intro t ht | apply co_reply | apply co_replyFull | apply co_writeMany) | exact sub_trans (by decide) hs | split | dsimp only)
theorem co_rowWrite {L : List Part} {s0 : State} (p : Path) (a : Nat) (v : Word) (s : State) (hs : sub [.arr, .glz, .seq, .sch, .kv, .head, .req, .cnv, .ptn, .net, .hist, .cal, .sec, .pwr, .evr, .brd, .dev] L = true) (hw : changesOnly L s0 s) : changesOnly L s0 (rowWrite p a v s) := by
  unfold rowWrite
  repeat' (first | with_reducible (first | assumption | intro t x ht | intro t ht | apply co_writeReg) | exact sub_trans (by decide) hs | split)
/-! ### Sideband -/
theorem co_sbAnswer {L : List Part} {s0 : State} (st : Nat) (out : List Word) (s : State) (hs : sub [.brd] L = true) (hw : changesOnly L s0 s) : changesOnly L s0 (sbAnswer st out s) := by
  unfold sbAnswer
  repeat' (first | with_reducible (first | assumption | intro t x ht | intro t ht) | exact sub_trans (by decide) hs | (fail_if_no_progress with_reducible apply co_set_brd))
theorem co_sbRefuse {L : List Part} {s0 : State} (s : State) (hs : sub [.brd] L = true) (hw : changesOnly L s0 s) : changesOnly L s0 (sbRefuse s) := by
  unfold sbRefuse
  repeat' (first | with_reducible (first | assumption | intro t x ht | intro t ht) | exact sub_trans (by decide) hs | (fail_if_no_progress with_reducible apply co_set_brd))
theorem co_sbDo {L : List Part} {s0 : State} (pecOk : Bool) (act : State → State) (s : State) (h_act : ∀ y0, changesOnly L s0 y0 → changesOnly L s0 (act y0)) (hs : sub [.brd] L = true) (hw : changesOnly L s0 s) : changesOnly L s0 (sbDo pecOk act s) := by
  unfold sbDo
  repeat' (first | with_reducible (first | assumption | intro t x ht | intro t ht | apply h_act) | exact sub_trans (by decide) hs | split | (fail_if_no_progress with_reducible apply co_set_brd))
theorem co_sbReg {L : List Part} {s0 : State} (pecOk : Bool) (act : State → State) (s : State) (h_act : ∀ y0, changesOnly L s0 y0 → changesOnly L s0 (act y0)) (hs : sub [.brd] L = true) (hw : changesOnly L s0 s) : changesOnly L s0 (sbReg pecOk act s) := by
  unfold sbReg
  repeat' (first | with_reducible (first | assumption | intro t x ht | intro t ht | apply co_sbDo | apply co_sbAnswer | apply h_act) | exact sub_trans (by decide) hs | split | dsimp only)
theorem co_sbRcv {L : List Part} {s0 : State} (pecOk : Bool) (act : State → State) (s : State) (h_act : ∀ y0, changesOnly L s0 y0 → changesOnly L s0 (act y0)) (hs : sub [.brd] L = true) (hw : changesOnly L s0 s) : changesOnly L s0 (sbRcv pecOk act s) := by
  unfold sbRcv
  repeat' (first | with_reducible (first | assumption | intro t x ht | intro t ht | apply co_sbDo | apply co_sbRefuse | apply h_act) | exact sub_trans (by decide) hs | split | dsimp only)
theorem co_stepPtr {L : List Part} {s0 : State} (n : Nat) (s : State) (hs : sub [.brd] L = true) (hw : changesOnly L s0 s) : changesOnly L s0 (stepPtr n s) := by
  unfold stepPtr
  repeat' (first | with_reducible (first | assumption | intro t x ht | intro t ht) | exact sub_trans (by decide) hs | (fail_if_no_progress with_reducible apply co_set_brd))
theorem co_sbRead {L : List Part} {s0 : State} (n : Nat) (s : State) (hs : sub [.cnv, .net, .hist, .cal, .sec, .pwr, .evr, .brd] L = true) (hw : changesOnly L s0 s) : changesOnly L s0 (sbRead n s) := by
  unfold sbRead
  repeat' (first | with_reducible (first | assumption | intro t x ht | intro t ht | apply co_sbRefuse | apply co_readMany | apply co_stepPtr | apply co_sbAnswer) | exact sub_trans (by decide) hs | split | dsimp only)
theorem co_sbWrite {L : List Part} {s0 : State} (vs : List Word) (s : State) (hs : sub [.arr, .glz, .seq, .sch, .kv, .head, .req, .cnv, .ptn, .net, .hist, .cal, .sec, .pwr, .evr, .brd, .dev] L = true) (hw : changesOnly L s0 s) : changesOnly L s0 (sbWrite vs s) := by
  unfold sbWrite
  repeat' (first | with_reducible (first | assumption | intro t x ht | intro t ht | apply co_sbRefuse | apply co_writeMany | apply co_stepPtr | apply co_sbAnswer) | exact sub_trans (by decide) hs | split | dsimp only)
theorem co_rcvTake {L : List Part} {s0 : State} (bytes : List Byte) (s : State) (hs : sub [.sec, .brd] L = true) (hw : changesOnly L s0 s) : changesOnly L s0 (rcvTake bytes s) := by
  unfold rcvTake
  repeat' (first | with_reducible (first | assumption | intro t x ht | intro t ht | apply co_sbRefuse | apply co_sbAnswer) | exact sub_trans (by decide) hs | split | (fail_if_no_progress with_reducible apply co_set_sec))
theorem co_rcvImage {L : List Part} {s0 : State} (s : State) (hs : sub [.free] L = true) (hw : changesOnly L s0 s) : changesOnly L s0 (rcvImage s).2 := by
  unfold rcvImage
  repeat' (first | with_reducible (first | assumption | intro t x ht | intro t ht | apply co_draw) | exact sub_trans (by decide) hs | dsimp only)
theorem co_rcvFinish {L : List Part} {s0 : State} (byte : Byte) (imageOk : Bool) (s : State) (hs : sub [.sec, .brd, .dev, .free] L = true) (hw : changesOnly L s0 s) : changesOnly L s0 (rcvFinish byte imageOk s) := by
  unfold rcvFinish
  repeat' (first | with_reducible (first | assumption | intro t x ht | intro t ht | apply co_sbRefuse | apply co_sbAnswer | apply co_rcvImage | apply co_modFw) | exact sub_trans (by decide) hs | split | (fail_if_no_progress with_reducible apply co_set_sec_dev) | dsimp only)
theorem co_giveAddr {L : List Part} {s0 : State} (a : Nat) (s : State) (hs : sub [.brd] L = true) (hw : changesOnly L s0 s) : changesOnly L s0 (giveAddr a s) := by
  unfold giveAddr
  repeat' (first | with_reducible (first | assumption | intro t x ht | intro t ht) | exact sub_trans (by decide) hs | split | (fail_if_no_progress with_reducible apply co_set_brd))
theorem co_clockLow {L : List Part} {s0 : State} (ms : Nat) (s : State) (hs : sub [.brd, .free] L = true) (hw : changesOnly L s0 s) : changesOnly L s0 (clockLow ms s) := by
  unfold clockLow
  repeat' (first | with_reducible (first | assumption | intro t x ht | intro t ht | apply co_draw) | exact sub_trans (by decide) hs | split | (fail_if_no_progress with_reducible apply co_set_brd) | dsimp only)
theorem co_tapLoad {L : List Part} {s0 : State} (tap op : Nat) (s : State) (hs : sub [.brd] L = true) (hw : changesOnly L s0 s) : changesOnly L s0 (tapLoad tap op s) := by
  unfold tapLoad
  repeat' (first | with_reducible (first | assumption | intro t x ht | intro t ht) | exact sub_trans (by decide) hs | split | (fail_if_no_progress with_reducible apply co_set_brd) | dsimp only)
/-! ### Start -/
theorem co_beginStart {L : List Part} {s0 : State} (s : State) (hs : sub [.clk, .pwr, .dev] L = true) (hw : changesOnly L s0 s) : changesOnly L s0 (beginStart s) := by
  unfold beginStart
  repeat' (first | with_reducible (first | assumption | intro t x ht | intro t ht) | exact sub_trans (by decide) hs | (fail_if_no_progress with_reducible apply co_set_clk_pwr_dev))
theorem co_pwrEnOn {L : List Part} {s0 : State} (s : State) (hs : sub [.clk, .pwr, .brd, .dev] L = true) (hw : changesOnly L s0 s) : changesOnly L s0 (pwrEnOn s) := by
  unfold pwrEnOn
  repeat' (first | with_reducible (first | assumption | intro t x ht | intro t ht | apply co_beginStart) | exact sub_trans (by decide) hs | split | (fail_if_no_progress with_reducible apply co_set_brd) | dsimp only)
theorem co_toRow {L : List Part} {s0 : State} (n : Nat) (s : State) (hs : sub [.dev] L = true) (hw : changesOnly L s0 s) : changesOnly L s0 (toRow n s) := by
  unfold toRow
  repeat' (first | with_reducible (first | assumption | intro t x ht | intro t ht) | exact sub_trans (by decide) hs | (fail_if_no_progress with_reducible apply co_set_dev))
theorem co_resetModule {L : List Part} {s0 : State} (s : State) (hs : sub [.arr, .core, .glz, .seq, .sch, .kv, .head, .req, .cnv, .ptn, .net, .hist, .cal, .sec, .pwr, .evr, .brd, .dev] L = true) (hw : changesOnly L s0 s) : changesOnly L s0 (resetModule s) := by
  unfold resetModule
  repeat' (first | with_reducible (first | assumption | intro t x ht | intro t ht | apply co_survive) | exact sub_trans (by decide) hs | split | (fail_if_no_progress with_reducible apply co_set_pwr_dev) | dsimp only)
theorem co_resetOn {L : List Part} {s0 : State} (long : Bool) (s : State) (hs : sub [.arr, .core, .glz, .seq, .sch, .kv, .head, .req, .cnv, .ptn, .net, .hist, .cal, .sec, .pwr, .evr, .brd, .dev, .free] L = true) (hw : changesOnly L s0 s) : changesOnly L s0 (resetOn long s) := by
  unfold resetOn
  repeat' (first | with_reducible (first | assumption | intro t x ht | intro t ht | apply co_draw | apply co_resetModule) | exact sub_trans (by decide) hs | split | (fail_if_no_progress with_reducible apply co_set_brd) | dsimp only)
theorem co_enterSafe {L : List Part} {s0 : State} (cause : Nat) (s : State) (hs : sub [.sec, .evr, .dev] L = true) (hw : changesOnly L s0 s) : changesOnly L s0 (enterSafe cause s) := by
  unfold enterSafe
  repeat' (first | with_reducible (first | assumption | intro t x ht | intro t ht | apply co_settleMstate | apply co_toRow) | exact sub_trans (by decide) hs | (fail_if_no_progress with_reducible apply co_set_sec))
theorem co_bootSlot {L : List Part} {s0 : State} {cls : Nat} {okA okB : Bool} {s t : State} (h : bootSlot cls okA okB s = some t)
    (hs : sub [.sec, .evr] L = true) (hw : changesOnly L s0 s) : changesOnly L s0 t := by
  unfold bootSlot at h
  dsimp only at h
  generalize hc : (fwOf s cls).actB = c at h
  cases c <;> simp only [if_true, Bool.not_true, Bool.not_false, Bool.false_eq_true, if_false] at h <;>
    (split at h
     · rw [← Option.some.inj h]; exact hw
     · split at h
       · rw [← Option.some.inj h]; exact co_fire _ _ _ _ _ _ (sub_trans (by decide) hs) (co_modFw _ _ _ (sub_trans (by decide) hs) hw)
       · exact absurd h (by simp))
theorem co_cfgWins {L : List Part} {s0 : State} (a : Bool) (seq : Nat) (rewrite : Bool) (s : State) (hs : sub [.sec, .evr] L = true) (hw : changesOnly L s0 s) : changesOnly L s0 (cfgWins a seq rewrite s) := by
  unfold cfgWins
  repeat' (first | with_reducible (first | assumption | intro t x ht | intro t ht | apply co_fire) | exact sub_trans (by decide) hs | split | (fail_if_no_progress with_reducible apply co_set_sec) | dsimp only)
theorem co_bootCfg {L : List Part} {s0 : State} (f : BootFind) (s : State) (hs : sub [.sec, .evr] L = true) (hw : changesOnly L s0 s) : changesOnly L s0 (bootCfg f s).2 := by
  unfold bootCfg
  repeat' (first | with_reducible (first | assumption | intro t x ht | intro t ht | apply co_cfgWins | apply co_fire) | exact sub_trans (by decide) hs | split | (fail_if_no_progress with_reducible apply co_set_sec))
theorem co_bootOthers {L : List Part} {s0 : State} {f : BootFind} {s t : State} (h : bootOthers f s = some t) (hs : sub [.sec, .evr] L = true)
    (hw : changesOnly L s0 s) : changesOnly L s0 t := by
  simp only [bootOthers, List.foldl_cons, List.foldl_nil, Option.bind_eq_some_iff, Option.some.injEq] at h
  obtain ⟨a, ⟨b, ⟨c, hc, hb⟩, ha⟩, ht⟩ := h
  subst hc
  exact co_bootSlot ht hs (co_bootSlot ha hs (co_bootSlot hb hs hw))
theorem co_cfgDefaults {L : List Part} {s0 : State} (s : State) (hs : sub [.cnv, .net, .dev] L = true) (hw : changesOnly L s0 s) : changesOnly L s0 (cfgDefaults s) := by
  unfold cfgDefaults
  repeat' (first | with_reducible (first | assumption | intro t x ht | intro t ht | apply co_modCnv | apply co_modPort | apply co_foldl) | exact sub_trans (by decide) hs | split | (fail_if_no_progress with_reducible apply co_set_dev) | dsimp only)
theorem co_resumeFences {L : List Part} {s0 : State} (s : State) (hs : sub [.arr, .cnv, .hist] L = true) (hw : changesOnly L s0 s) : changesOnly L s0 (resumeFences s) := by
  unfold resumeFences
  repeat' (first | with_reducible (first | assumption | intro t x ht | intro t ht | apply co_modCnv | apply co_unwrite | apply co_foldl) | exact sub_trans (by decide) hs | split | (fail_if_no_progress with_reducible apply co_set_hist) | dsimp only)
theorem co_dueFences {L : List Part} {s0 : State} (s : State) (hs : sub [.seq, .sch, .cnv, .ptn, .net, .hist, .sec, .evr, .dev] L = true) (hw : changesOnly L s0 s) : changesOnly L s0 (dueFences s) := by
  unfold dueFences
  repeat' (first | with_reducible (first | assumption | intro t x ht | intro t ht | apply co_fenceDue | apply co_foldl) | exact sub_trans (by decide) hs | dsimp only)
theorem co_bootHistory {L : List Part} {s0 : State} (f : BootFind) (s : State) (hs : sub [.arr, .seq, .sch, .cnv, .ptn, .net, .hist, .sec, .evr, .dev] L = true) (hw : changesOnly L s0 s) : changesOnly L s0 (bootHistory f s) := by
  unfold bootHistory
  repeat' (first | with_reducible (first | assumption | intro t x ht | intro t ht | apply co_drainDecision | apply co_fire | apply co_settleMstate | apply co_dueFences | apply co_resumeFences) | exact sub_trans (by decide) hs | split | (fail_if_no_progress with_reducible apply co_set_hist) | dsimp only)
theorem co_bootRecorder {L : List Part} {s0 : State} (f : BootFind) (s : State) (hs : sub [.pwr, .evr, .brd] L = true) (hw : changesOnly L s0 s) : changesOnly L s0 (bootRecorder f s) := by
  unfold bootRecorder
  repeat' (first | with_reducible (first | assumption | intro t x ht | intro t ht | apply co_fire | apply co_setEvents) | exact sub_trans (by decide) hs | split | (fail_if_no_progress with_reducible apply co_set_evr) | dsimp only)
theorem co_dropKey {L : List Part} {s0 : State} (s : State) (n : Nat) (hs : sub [.ptn] L = true) (hw : changesOnly L s0 s) : changesOnly L s0 (dropKey s n) := by
  unfold dropKey
  repeat' (first | with_reducible (first | assumption | intro t x ht | intro t ht | apply co_modPtn) | exact sub_trans (by decide) hs | split | dsimp only)
theorem co_writeRouting {L : List Part} {s0 : State} (s : State) (hs : sub [.arr] L = true) (hw : changesOnly L s0 s) : changesOnly L s0 (writeRouting s) := by
  unfold writeRouting
  repeat' (first | with_reducible (first | assumption | intro t x ht | intro t ht) | exact sub_trans (by decide) hs | (fail_if_no_progress with_reducible apply co_set_arr))
theorem co_boot {L : List Part} {s0 : State} (f : BootFind) (s : State) (hs : sub [.arr, .seq, .sch, .cnv, .ptn, .net, .hist, .sec, .pwr, .evr, .brd, .dev] L = true) (hw : changesOnly L s0 s) : changesOnly L s0 (boot f s) := by
  unfold boot
  dsimp only
  have hu : ∀ (u : State) (x : SecSt), changesOnly L s0 u → changesOnly L s0 { u with sec := x } := fun u x h =>
    co_upd (u := u) [.sec] (sub_trans (by decide) hs) rfl (fun p hp => by cases p <;> first | rfl | exact absurd (by decide) hp) h
  have h0 := co_bootRecorder f _ (sub_trans (by decide) hs) (hu s { s.sec with boots := satAdd 32 s.sec.boots 1, romRec := false, rcv := 0, rcvBytes := [] } hw)
  split
  · exact co_enterSafe _ _ (sub_trans (by decide) hs) h0
  · split
    · exact hu _ _ h0
    · rename_i s1 h1
      have k1 := co_bootSlot h1 (sub_trans (by decide) hs) h0
      split
      · exact co_enterSafe _ _ (sub_trans (by decide) hs) (hu _ _ k1)
      · split
        · exact co_enterSafe _ _ (sub_trans (by decide) hs) (co_bootCfg _ _ (sub_trans (by decide) hs) k1)
        · have k3 := co_cfgDefaults _ (sub_trans (by decide) hs) (co_bootCfg f _ (sub_trans (by decide) hs) k1)
          split
          · exact co_enterSafe _ _ (sub_trans (by decide) hs) k3
          · rename_i s2 h2
            have k2 := co_bootOthers h2 (sub_trans (by decide) hs) k3
            split
            · exact co_enterSafe _ _ (sub_trans (by decide) hs) k2
            · exact co_toRow _ _ (sub_trans (by decide) hs) (co_bootHistory _ _ (sub_trans (by decide) hs) (co_foldl _ (fun t x ht => co_dropKey _ _ (sub_trans (by decide) hs) ht) _ _ (co_writeRouting _ (sub_trans (by decide) hs) k2)))
theorem co_testFail {L : List Part} {s0 : State} (s : State) (t : TestFail) (hs : sub [.seq, .sch, .cnv, .ptn, .net, .hist, .sec, .evr, .dev] L = true) (hw : changesOnly L s0 s) : changesOnly L s0 (testFail s t) := by
  unfold testFail
  repeat' (first | with_reducible (first | assumption | intro t x ht | intro t ht | apply co_recordFault | apply co_planeFailure | apply co_unitFailure) | exact sub_trans (by decide) hs | split)
theorem co_loseFar {L : List Part} {s0 : State} (s : State) (hs : sub [.glz, .kv, .req, .cnv] L = true) (hw : changesOnly L s0 s) : changesOnly L s0 (loseFar s) := by
  unfold loseFar
  repeat' (first | with_reducible (first | assumption | intro t x ht | intro t ht) | exact sub_trans (by decide) hs | (fail_if_no_progress with_reducible apply co_set_glz_kv_req_cnv) | dsimp only)
theorem co_emptyNear {L : List Part} {s0 : State} (s : State) (hs : sub [.kv] L = true) (hw : changesOnly L s0 s) : changesOnly L s0 (emptyNear s) := by
  unfold emptyNear
  repeat' (first | with_reducible (first | assumption | intro t x ht | intro t ht) | exact sub_trans (by decide) hs | (fail_if_no_progress with_reducible apply co_set_kv))
theorem co_restoreEntry {L : List Part} {s0 : State} (near : Bool) (s : State) (ix : Nat) (hs : sub [.kv, .head, .req, .ptn, .net] L = true) (hw : changesOnly L s0 s) : changesOnly L s0 (restoreEntry near s ix) := by
  unfold restoreEntry
  repeat' (first | with_reducible (first | assumption | intro t x ht | intro t ht | apply co_freeEntry | apply co_modEntry | apply co_retireWith | apply co_setPresence) | exact sub_trans (by decide) hs | split | dsimp only)
theorem co_scrubLost {L : List Part} {s0 : State} (s : State) (n : Nat) (hs : sub [.kv, .req] L = true) (hw : changesOnly L s0 s) : changesOnly L s0 (scrubLost s n) := by
  unfold scrubLost
  repeat' (first | with_reducible (first | assumption | intro t x ht | intro t ht | apply co_freePages | apply co_freeFar | apply co_foldl) | exact sub_trans (by decide) hs | split | dsimp only)
theorem co_restoreRegion {L : List Part} {s0 : State} (near : Bool) (r : Region) (s : State) (hs : sub [.kv, .head, .req, .ptn, .net] L = true) (hw : changesOnly L s0 s) : changesOnly L s0 (restoreRegion near r s) := by
  unfold restoreRegion
  repeat' (first | with_reducible (first | assumption | intro t x ht | intro t ht | apply co_modPtn | apply co_scrubLost | apply co_restoreEntry | apply co_foldl) | exact sub_trans (by decide) hs | split | (fail_if_no_progress with_reducible apply co_set_req_net) | dsimp only)
theorem co_keepFar {L : List Part} {s0 : State} (kept : Bool) (s : State) (hs : sub [.glz, .kv, .req, .cnv] L = true) (hw : changesOnly L s0 s) : changesOnly L s0 (keepFar kept s) := by
  unfold keepFar
  repeat' (first | with_reducible (first | assumption | intro t x ht | intro t ht | apply co_loseFar) | exact sub_trans (by decide) hs | split | (fail_if_no_progress with_reducible apply co_set_kv) | dsimp only)
theorem co_takeRegion {L : List Part} {s0 : State} (regionOk : Bool) (s : State) (hs : sub [.kv, .head, .req, .ptn, .net] L = true) (hw : changesOnly L s0 s) : changesOnly L s0 (takeRegion regionOk s) := by
  unfold takeRegion
  repeat' (first | with_reducible (first | assumption | intro t x ht | intro t ht | apply co_restoreRegion | apply co_emptyNear) | exact sub_trans (by decide) hs | split)
theorem co_endTshut {L : List Part} {s0 : State} (s : State) (hs : sub [.pwr] L = true) (hw : changesOnly L s0 s) : changesOnly L s0 (endTshut s) := by
  unfold endTshut
  repeat' (first | with_reducible (first | assumption | intro t x ht | intro t ht) | exact sub_trans (by decide) hs | (fail_if_no_progress with_reducible apply co_set_pwr))
theorem co_testEnd {L : List Part} {s0 : State} (fails : List TestFail) (kept regionOk : Bool) (s : State) (hs : sub [.glz, .seq, .sch, .kv, .head, .req, .cnv, .ptn, .net, .hist, .sec, .pwr, .evr, .dev] L = true) (hw : changesOnly L s0 s) : changesOnly L s0 (testEnd fails kept regionOk s) := by
  unfold testEnd
  repeat' (first | with_reducible (first | assumption | intro t x ht | intro t ht | apply co_settleMstate | apply co_endTshut | apply co_takeRegion | apply co_keepFar | apply co_testFail | apply co_foldl) | exact sub_trans (by decide) hs)
theorem co_checksDone {L : List Part} {s0 : State} (s : State) (hs : sub [.cal, .dev] L = true) (hw : changesOnly L s0 s) : changesOnly L s0 (checksDone s) := by
  unfold checksDone
  repeat' (first | with_reducible (first | assumption | intro t x ht | intro t ht | apply co_toRow | apply co_calDue | apply co_foldl) | exact sub_trans (by decide) hs | split | dsimp only)
theorem co_rebuildMaster {L : List Part} {s0 : State} (b : Bundle) (s : State) (hs : sub [.kv] L = true) (hw : changesOnly L s0 s) : changesOnly L s0 (rebuildMaster b s) := by
  unfold rebuildMaster
  repeat' (first | with_reducible (first | assumption | intro t x ht | intro t ht | apply co_foldl) | exact sub_trans (by decide) hs | split | (fail_if_no_progress with_reducible apply co_set_kv) | dsimp only)
theorem co_startDrift {L : List Part} {s0 : State} (ch : List (Nat × Word × Word)) (s : State) (key : Nat) (hs : sub [.arr] L = true) (hw : changesOnly L s0 s) : changesOnly L s0 (startDrift ch s key) := by
  unfold startDrift
  repeat' (first | with_reducible (first | assumption | intro t x ht | intro t ht | apply co_foldl) | exact sub_trans (by decide) hs | split | (fail_if_no_progress with_reducible apply co_set_arr) | dsimp only)
theorem co_startDrifts {L : List Part} {s0 : State} (b : Bundle) (ch : List (Nat × Word × Word)) (s : State) (hs : sub [.arr] L = true) (hw : changesOnly L s0 s) : changesOnly L s0 (startDrifts b ch s) := by
  unfold startDrifts
  repeat' (first | with_reducible (first | assumption | intro t x ht | intro t ht | apply co_startDrift | apply co_foldl) | exact sub_trans (by decide) hs | dsimp only)
theorem co_awaitBundle {L : List Part} {s0 : State} (c : Nat) (s : State) (hs : sub [.cnv, .ptn, .net] L = true) (hw : changesOnly L s0 s) : changesOnly L s0 (awaitBundle c s) := by
  unfold awaitBundle
  repeat' (first | with_reducible (first | assumption | intro t x ht | intro t ht | apply co_canvasEvent | apply co_modCnv) | exact sub_trans (by decide) hs | dsimp only)
theorem co_rewriteCores {L : List Part} {s0 : State} (cores : List Nat) (s : State) (hs : sub [.arr, .seq, .sch, .cnv, .ptn, .net, .hist, .sec, .evr, .dev] L = true) (hw : changesOnly L s0 s) : changesOnly L s0 (rewriteCores cores s) := by
  unfold rewriteCores
  repeat' (first | with_reducible (first | assumption | intro t x ht | intro t ht | apply co_wearCore | apply co_programCore | apply co_unwrite | apply co_foldl) | exact sub_trans (by decide) hs | dsimp only)
theorem co_retain {L : List Part} {s0 : State} (c : Nat) (b : Bundle) (recOk crcOk : Bool) (ch : List (Nat × Word × Word)) (offs : List (Nat × Int)) (s : State) (hs : sub [.arr, .seq, .sch, .kv, .cnv, .ptn, .net, .hist, .sec, .evr, .dev] L = true) (hw : changesOnly L s0 s) : changesOnly L s0 (retain c b recOk crcOk ch offs s) := by
  unfold retain
  repeat' (first | with_reducible (first | assumption | intro t x ht | intro t ht | apply co_fire | apply co_rewriteCores | apply co_modCnv | apply co_awaitBundle | apply co_rebuildMaster | apply co_startDrifts) | exact sub_trans (by decide) hs | split | dsimp only)
theorem co_retention {L : List Part} {s0 : State} (c : Nat) (recOk crcOk : Bool) (ch : List (Nat × Word × Word)) (offs : List (Nat × Int)) (s : State) (hs : sub [.arr, .seq, .sch, .kv, .cnv, .ptn, .net, .hist, .cal, .sec, .evr, .dev] L = true) (hw : changesOnly L s0 s) : changesOnly L s0 (retention c recOk crcOk ch offs s) := by
  unfold retention
  repeat' (first | with_reducible (first | assumption | intro t x ht | intro t ht | apply co_checksDone | apply co_retain | apply co_awaitBundle) | exact sub_trans (by decide) hs | split)
theorem co_serveWarm {L : List Part} {s0 : State} (s : State) (c : Nat) (hs : sub [.glz, .seq, .kv, .cnv, .ptn, .net] L = true) (hw : changesOnly L s0 s) : changesOnly L s0 (serveWarm s c) := by
  unfold serveWarm
  repeat' (first | with_reducible (first | assumption | intro t x ht | intro t ht | apply co_unhold | apply co_modCnv | apply co_installTables) | exact sub_trans (by decide) hs | split | dsimp only)
theorem co_afterGap {L : List Part} {s0 : State} (s : State) (hs : sub [.glz, .seq, .kv, .cnv, .ptn, .net, .dev] L = true) (hw : changesOnly L s0 s) : changesOnly L s0 (afterGap s) := by
  unfold afterGap
  repeat' (first | with_reducible (first | assumption | intro t x ht | intro t ht | apply co_serveWarm | apply co_toRow | apply co_foldl) | exact sub_trans (by decide) hs | split | dsimp only)
theorem co_readyEntry {L : List Part} {s0 : State} (s : State) (hs : sub [.net, .pwr, .evr, .dev] L = true) (hw : changesOnly L s0 s) : changesOnly L s0 (readyEntry s) := by
  unfold readyEntry
  repeat' (first | with_reducible (first | assumption | intro t x ht | intro t ht | apply co_settlePower | apply co_toRow) | exact sub_trans (by decide) hs | split | (fail_if_no_progress with_reducible apply co_set_net) | dsimp only)
theorem co_pwrEnOff {L : List Part} {s0 : State} (s : State) (hs : sub [.arr, .seq, .sch, .cnv, .ptn, .net, .hist, .sec, .pwr, .evr, .brd, .dev] L = true) (hw : changesOnly L s0 s) : changesOnly L s0 (pwrEnOff s) := by
  unfold pwrEnOff
  repeat' (first | with_reducible (first | assumption | intro t x ht | intro t ht | apply co_settleMstate | apply co_quiesce_) | exact sub_trans (by decide) hs | split | (fail_if_no_progress with_reducible apply co_set_pwr_brd_dev) | dsimp only)
theorem co_pauseForShutdown {L : List Part} {s0 : State} (s : State) (ix : Nat) (hs : sub [.kv, .head, .req, .ptn, .net] L = true) (hw : changesOnly L s0 s) : changesOnly L s0 (pauseForShutdown s ix) := by
  unfold pauseForShutdown
  repeat' (first | with_reducible (first | assumption | intro t x ht | intro t ht | apply co_modEntry | apply co_pauseDone | apply co_expire) | exact sub_trans (by decide) hs | split | dsimp only)
theorem co_shutdownEnd {L : List Part} {s0 : State} (s : State) (hs : sub [.clk, .arr, .core, .glz, .seq, .sch, .kv, .head, .req, .cnv, .ptn, .net, .hist, .cal, .sec, .pwr, .evr, .brd, .dev] L = true) (hw : changesOnly L s0 s) : changesOnly L s0 (shutdownEnd s) := by
  unfold shutdownEnd
  repeat' (first | with_reducible (first | assumption | intro t x ht | intro t ht | apply co_pauseForShutdown | apply co_saveDrift | apply co_railsOff | apply co_settleMstate | apply co_evrCommit | apply co_uhWrite | apply co_writeRegion | apply co_beginStart | apply co_foldl) | exact sub_trans (by decide) hs | split | dsimp only)
/-! ### Tick -/
theorem co_tick {L : List Part} {s0 : State} (s : State) (hs : sub [.clk, .net] L = true) (hw : changesOnly L s0 s) : changesOnly L s0 (tick s) := by
  unfold tick
  repeat' (first | with_reducible (first | assumption | intro t x ht | intro t ht | apply co_netTick) | exact sub_trans (by decide) hs | (fail_if_no_progress with_reducible apply co_set_clk))

end Sys2Proof.Machine
end

