-- ==== Sys2Proof/Laws/TouchExec.lean ====
section
/-! SUPPORT. Which parts of the state each command changes. -/

namespace Sys2Proof.Machine

theorem co_execNopa {i : Iss} {s : State} {t : State} (h : execNopa i s = .next t) : changesOnly [.seq] s t := by
  have hw := co_refl [.seq] s
  simp only [execNopa, anyOp, slotOp, okIf_next] at h
  obtain ⟨-, rfl⟩ := h
  repeat' (first | with_reducible (first | assumption | intro t x ht | intro t ht | apply co_hold | apply co_hostBody | apply co_takeToken) | decide | split | dsimp only)
  exact hw
theorem co_execStrk {i : Iss} {f : StrokeF} {s : State} {t : State} (h : execStrk i f s = .next t) : changesOnly [.arr, .core, .seq] s t := by
  have hw := co_refl [.arr, .core, .seq] s
  simp only [execStrk, coreOp, slotOp, okIf_next] at h
  obtain ⟨-, rfl⟩ := h
  repeat' (first | with_reducible (first | assumption | intro t x ht | intro t ht | apply co_strkAct | apply co_hold | apply co_hostBody | apply co_takeToken) | decide | split | dsimp only)
theorem co_execStkv {i : Iss} {f : StrokeF} {s : State} {t : State} (h : execStkv i f s = .next t) : changesOnly [.arr, .core, .seq, .free] s t := by
  have hw := co_refl [.arr, .core, .seq, .free] s
  simp only [execStkv, coreOp, slotOp, okIf_next] at h
  obtain ⟨-, rfl⟩ := h
  repeat' (first | with_reducible (first | assumption | intro t x ht | intro t ht | apply co_stkvAct | apply co_hold | apply co_hostBody | apply co_takeToken) | decide | split | dsimp only)
theorem co_execPsel {i : Iss} {emask amask plane : Nat} {s : State} {t : State} (h : execPsel i emask amask plane s = .next t) : changesOnly [.arr, .seq] s t := by
  have hw := co_refl [.arr, .seq] s
  simp only [execPsel, coreOp, slotOp, okIf_next] at h
  obtain ⟨-, rfl⟩ := h
  repeat' (first | with_reducible (first | assumption | intro t x ht | intro t ht | apply co_pselAct | apply co_hold | apply co_hostBody | apply co_takeToken) | decide | split | dsimp only)
theorem co_execStrokeFlagsReport {engine : Nat} {s : State} {t : State} (h : execStrokeFlagsReport engine s = .next t) : changesOnly [.arr, .seq, .sch, .cnv, .ptn, .net, .hist, .sec, .evr, .dev] s t := by
  have hw := co_refl [.arr, .seq, .sch, .cnv, .ptn, .net, .hist, .sec, .evr, .dev] s
  simp only [execStrokeFlagsReport, okIf_next] at h
  obtain ⟨-, rfl⟩ := h
  repeat' (first | with_reducible (first | assumption | intro t x ht | intro t ht | apply co_reportFlags | apply co_hold | apply co_hostBody | apply co_takeToken) | decide | split | dsimp only)
theorem co_execAclr {i : Iss} {tile count : Nat} {s : State} {t : State} (h : execAclr i tile count s = .next t) : changesOnly [.core, .seq] s t := by
  have hw := co_refl [.core, .seq] s
  simp only [execAclr, coreOp, slotOp, okIf_next] at h
  obtain ⟨-, rfl⟩ := h
  repeat' (first | with_reducible (first | assumption | intro t x ht | intro t ht | apply co_aclrRun | apply co_hold | apply co_hostBody | apply co_takeToken) | decide | split | dsimp only)
theorem co_execAcn {i : Iss} {ntrm : Nat} {s : State} {t : State} (h : execAcn i ntrm s = .next t) : changesOnly [.core, .seq] s t := by
  have hw := co_refl [.core, .seq] s
  simp only [execAcn, coreOp, slotOp, okIf_next] at h
  obtain ⟨-, rfl⟩ := h
  repeat' (first | with_reducible (first | assumption | intro t x ht | intro t ht | apply co_acnAct | apply co_hold | apply co_hostBody | apply co_takeToken) | decide | split | dsimp only)
theorem co_execApro {i : Iss} {eng ntr tile vp : Nat} {s : State} {t : State} (h : execApro i eng ntr tile vp s = .next t) : changesOnly [.core, .seq, .free] s t := by
  have hw := co_refl [.core, .seq, .free] s
  simp only [execApro, coreOp, slotOp, okIf_next] at h
  obtain ⟨-, rfl⟩ := h
  repeat' (first | with_reducible (first | assumption | intro t x ht | intro t ht | apply co_aproRun | apply co_hold | apply co_hostBody | apply co_takeToken) | decide | split | dsimp only)
theorem co_execAwid {i : Iss} {dtile srcsp saddr tcnt fold : Nat} {s : State} {t : State} (h : execAwid i dtile srcsp saddr tcnt fold s = .next t) : changesOnly [.core, .seq] s t := by
  have hw := co_refl [.core, .seq] s
  simp only [execAwid, coreOp, slotOp, okIf_next] at h
  obtain ⟨-, rfl⟩ := h
  repeat' (first | with_reducible (first | assumption | intro t x ht | intro t ht | apply co_awidRun | apply co_hold | apply co_hostBody | apply co_takeToken) | decide | split | dsimp only)
theorem co_execRsum {i : Iss} {f : RedF} {sq : Nat} {s : State} {t : State} (h : execRsum i f sq s = .next t) : changesOnly [.core, .seq] s t := by
  have hw := co_refl [.core, .seq] s
  simp only [execRsum, coreOp, slotOp, okIf_next] at h
  obtain ⟨-, rfl⟩ := h
  repeat' (first | with_reducible (first | assumption | intro t x ht | intro t ht | apply co_redRun | apply co_rsumAct | apply co_hold | apply co_hostBody | apply co_takeToken) | decide | split | dsimp only)
theorem co_execRmax {i : Iss} {f : RedF} {s : State} {t : State} (h : execRmax i f s = .next t) : changesOnly [.core, .seq] s t := by
  have hw := co_refl [.core, .seq] s
  simp only [execRmax, coreOp, slotOp, okIf_next] at h
  obtain ⟨-, rfl⟩ := h
  repeat' (first | with_reducible (first | assumption | intro t x ht | intro t ht | apply co_redRun | apply co_rmaxAct | apply co_hold | apply co_hostBody | apply co_takeToken) | decide | split | dsimp only)
theorem co_execRmin {i : Iss} {f : RedF} {s : State} {t : State} (h : execRmin i f s = .next t) : changesOnly [.core, .seq] s t := by
  have hw := co_refl [.core, .seq] s
  simp only [execRmin, coreOp, slotOp, okIf_next] at h
  obtain ⟨-, rfl⟩ := h
  repeat' (first | with_reducible (first | assumption | intro t x ht | intro t ht | apply co_redRun | apply co_rminAct | apply co_hold | apply co_hostBody | apply co_takeToken) | decide | split | dsimp only)
theorem co_execRarg {i : Iss} {f : RedF} {s : State} {t : State} (h : execRarg i f s = .next t) : changesOnly [.core, .seq] s t := by
  have hw := co_refl [.core, .seq] s
  simp only [execRarg, coreOp, slotOp, okIf_next] at h
  obtain ⟨-, rfl⟩ := h
  repeat' (first | with_reducible (first | assumption | intro t x ht | intro t ht | apply co_redRun | apply co_rargAct | apply co_hold | apply co_hostBody | apply co_takeToken) | decide | split | dsimp only)
theorem co_execRand {i : Iss} {f : RedF} {s : State} {t : State} (h : execRand i f s = .next t) : changesOnly [.core, .seq] s t := by
  have hw := co_refl [.core, .seq] s
  simp only [execRand, coreOp, slotOp, okIf_next] at h
  obtain ⟨-, rfl⟩ := h
  repeat' (first | with_reducible (first | assumption | intro t x ht | intro t ht | apply co_redRun | apply co_randAct | apply co_hold | apply co_hostBody | apply co_takeToken) | decide | split | dsimp only)
theorem co_execRor {i : Iss} {f : RedF} {s : State} {t : State} (h : execRor i f s = .next t) : changesOnly [.core, .seq] s t := by
  have hw := co_refl [.core, .seq] s
  simp only [execRor, coreOp, slotOp, okIf_next] at h
  obtain ⟨-, rfl⟩ := h
  repeat' (first | with_reducible (first | assumption | intro t x ht | intro t ht | apply co_redRun | apply co_rorAct | apply co_hold | apply co_hostBody | apply co_takeToken) | decide | split | dsimp only)
theorem co_execRxor {i : Iss} {f : RedF} {s : State} {t : State} (h : execRxor i f s = .next t) : changesOnly [.core, .seq] s t := by
  have hw := co_refl [.core, .seq] s
  simp only [execRxor, coreOp, slotOp, okIf_next] at h
  obtain ⟨-, rfl⟩ := h
  repeat' (first | with_reducible (first | assumption | intro t x ht | intro t ht | apply co_redRun | apply co_rxorAct | apply co_hold | apply co_hostBody | apply co_takeToken) | decide | split | dsimp only)
theorem co_execRcnt {i : Iss} {f : RedF} {s : State} {t : State} (h : execRcnt i f s = .next t) : changesOnly [.core, .seq] s t := by
  have hw := co_refl [.core, .seq] s
  simp only [execRcnt, coreOp, slotOp, okIf_next] at h
  obtain ⟨-, rfl⟩ := h
  repeat' (first | with_reducible (first | assumption | intro t x ht | intro t ht | apply co_redRun | apply co_rcntAct | apply co_hold | apply co_hostBody | apply co_takeToken) | decide | split | dsimp only)
theorem co_execNopg {i : Iss} {s : State} {t : State} (h : execNopg i s = .next t) : changesOnly [.seq] s t := by
  have hw := co_refl [.seq] s
  simp only [execNopg, coreOp, slotOp, okIf_next] at h
  obtain ⟨-, rfl⟩ := h
  repeat' (first | with_reducible (first | assumption | intro t x ht | intro t ht | apply co_hold | apply co_hostBody | apply co_takeToken) | decide | split | dsimp only)
  exact hw
theorem co_execGout {i : Iss} {f : GlzF} {s : State} {t : State} (h : execGout i f s = .next t) : changesOnly [.core, .seq, .free] s t := by
  have hw := co_refl [.core, .seq, .free] s
  simp only [execGout, coreOp, slotOp, okIf_next] at h
  obtain ⟨-, rfl⟩ := h
  repeat' (first | with_reducible (first | assumption | intro t x ht | intro t ht | apply co_glzRun | apply co_goutAct | apply co_hold | apply co_hostBody | apply co_takeToken) | decide | split | dsimp only)
theorem co_execGact {i : Iss} {f : GlzF} {s : State} {t : State} (h : execGact i f s = .next t) : changesOnly [.core, .seq, .free] s t := by
  have hw := co_refl [.core, .seq, .free] s
  simp only [execGact, coreOp, slotOp, okIf_next] at h
  obtain ⟨-, rfl⟩ := h
  repeat' (first | with_reducible (first | assumption | intro t x ht | intro t ht | apply co_glzRun | apply co_gactAct | apply co_hold | apply co_hostBody | apply co_takeToken) | decide | split | dsimp only)
theorem co_execGlr {i : Iss} {f : GlzF} {s : State} {t : State} (h : execGlr i f s = .next t) : changesOnly [.core, .seq, .free] s t := by
  have hw := co_refl [.core, .seq, .free] s
  simp only [execGlr, coreOp, slotOp, okIf_next] at h
  obtain ⟨-, rfl⟩ := h
  repeat' (first | with_reducible (first | assumption | intro t x ht | intro t ht | apply co_glrRun | apply co_hold | apply co_hostBody | apply co_takeToken) | decide | split | dsimp only)
theorem co_execGtnt {i : Iss} {f : GlzF} {s : State} {t : State} (h : execGtnt i f s = .next t) : changesOnly [.core, .seq, .free] s t := by
  have hw := co_refl [.core, .seq, .free] s
  simp only [execGtnt, coreOp, slotOp, okIf_next] at h
  obtain ⟨-, rfl⟩ := h
  repeat' (first | with_reducible (first | assumption | intro t x ht | intro t ht | apply co_glzRun | apply co_gtntAct | apply co_hold | apply co_hostBody | apply co_takeToken) | decide | split | dsimp only)
theorem co_execEnorm {i : Iss} {f : ElF} {sr lix : Nat} {s : State} {t : State} (h : execEnorm i f sr lix s = .next t) : changesOnly [.core, .seq] s t := by
  have hw := co_refl [.core, .seq] s
  simp only [execEnorm, coreOp, slotOp, okIf_next] at h
  obtain ⟨-, rfl⟩ := h
  repeat' (first | with_reducible (first | assumption | intro t x ht | intro t ht | apply co_elRun | apply co_enormAct | apply co_hold | apply co_hostBody | apply co_takeToken) | decide | split | dsimp only)
theorem co_execEact {i : Iss} {f : ElF} {fn : Nat} {s : State} {t : State} (h : execEact i f fn s = .next t) : changesOnly [.core, .seq] s t := by
  have hw := co_refl [.core, .seq] s
  simp only [execEact, coreOp, slotOp, okIf_next] at h
  obtain ⟨-, rfl⟩ := h
  repeat' (first | with_reducible (first | assumption | intro t x ht | intro t ht | apply co_elRun | apply co_eactAct | apply co_hold | apply co_hostBody | apply co_takeToken) | decide | split | dsimp only)
theorem co_execEmul {i : Iss} {f : ElF} {srcb : Nat} {s : State} {t : State} (h : execEmul i f srcb s = .next t) : changesOnly [.core, .seq] s t := by
  have hw := co_refl [.core, .seq] s
  simp only [execEmul, coreOp, slotOp, okIf_next] at h
  obtain ⟨-, rfl⟩ := h
  repeat' (first | with_reducible (first | assumption | intro t x ht | intro t ht | apply co_elRun | apply co_emulAct | apply co_hold | apply co_hostBody | apply co_takeToken) | decide | split | dsimp only)
theorem co_execEadd {i : Iss} {f : ElF} {srcb : Nat} {s : State} {t : State} (h : execEadd i f srcb s = .next t) : changesOnly [.core, .seq] s t := by
  have hw := co_refl [.core, .seq] s
  simp only [execEadd, coreOp, slotOp, okIf_next] at h
  obtain ⟨-, rfl⟩ := h
  repeat' (first | with_reducible (first | assumption | intro t x ht | intro t ht | apply co_elRun | apply co_eaddAct | apply co_hold | apply co_hostBody | apply co_takeToken) | decide | split | dsimp only)
theorem co_execErot {i : Iss} {f : ElF} {fid pair : Nat} {s : State} {t : State} (h : execErot i f fid pair s = .next t) : changesOnly [.core, .seq] s t := by
  have hw := co_refl [.core, .seq] s
  simp only [execErot, coreOp, slotOp, okIf_next] at h
  obtain ⟨-, rfl⟩ := h
  repeat' (first | with_reducible (first | assumption | intro t x ht | intro t ht | apply co_elRun | apply co_erotAct | apply co_hold | apply co_hostBody | apply co_takeToken) | decide | split | dsimp only)
theorem co_execEcvt {i : Iss} {f : EcvtF} {s : State} {t : State} (h : execEcvt i f s = .next t) : changesOnly [.core, .glz, .seq] s t := by
  have hw := co_refl [.core, .glz, .seq] s
  simp only [execEcvt, coreOp, slotOp, okIf_next] at h
  obtain ⟨-, rfl⟩ := h
  repeat' (first | with_reducible (first | assumption | intro t x ht | intro t ht | apply co_elRun | apply co_ecvtAct | apply co_hold | apply co_hostBody | apply co_takeToken) | decide | split | dsimp only)
theorem co_execNopm {i : Iss} {s : State} {t : State} (h : execNopm i s = .next t) : changesOnly [.seq] s t := by
  have hw := co_refl [.seq] s
  simp only [execNopm, anyOp, slotOp, okIf_next] at h
  obtain ⟨-, rfl⟩ := h
  repeat' (first | with_reducible (first | assumption | intro t x ht | intro t ht | apply co_hold | apply co_hostBody | apply co_takeToken) | decide | split | dsimp only)
  exact hw
theorem co_execMvb {i : Iss} {ssp dsp saddr daddr len ty : Nat} {s : State} {t : State} (h : execMvb i ssp dsp saddr daddr len ty s = .next t) : changesOnly [.core, .seq] s t := by
  have hw := co_refl [.core, .seq] s
  simp only [execMvb, anyOp, slotOp, okIf_next] at h
  obtain ⟨-, rfl⟩ := h
  repeat' (first | with_reducible (first | assumption | intro t x ht | intro t ht | apply co_mvbAct | apply co_hold | apply co_hostBody | apply co_takeToken) | decide | split | dsimp only)
theorem co_execMvf {i : Iss} {ssp saddr route len ty : Nat} {s : State} {t : State} (h : execMvf i ssp saddr route len ty s = .next t) : changesOnly [.seq] s t := by
  have hw := co_refl [.seq] s
  simp only [execMvf, anyOp, slotOp, okIf_next] at h
  obtain ⟨-, rfl⟩ := h
  repeat' (first | with_reducible (first | assumption | intro t x ht | intro t ht | apply co_mvfAct | apply co_hold | apply co_hostBody | apply co_takeToken) | decide | split | dsimp only)
theorem co_execMvk {i : Iss} {ssp saddr layer kind vp : Nat} {s : State} {t : State} (h : execMvk i ssp saddr layer kind vp s = .next t) : changesOnly [.seq, .free] s t := by
  have hw := co_refl [.seq, .free] s
  simp only [execMvk, coreOp, slotOp, okIf_next] at h
  obtain ⟨-, rfl⟩ := h
  repeat' (first | with_reducible (first | assumption | intro t x ht | intro t ht | apply co_mvkAct | apply co_hold | apply co_hostBody | apply co_takeToken) | decide | split | dsimp only)
theorem co_execMck {i : Iss} {ssp saddr len lix : Nat} {s : State} {t : State} (h : execMck i ssp saddr len lix s = .next t) : changesOnly [.core, .seq] s t := by
  have hw := co_refl [.core, .seq] s
  simp only [execMck, coreOp, slotOp, okIf_next] at h
  obtain ⟨-, rfl⟩ := h
  repeat' (first | with_reducible (first | assumption | intro t x ht | intro t ht | apply co_mckAct | apply co_hold | apply co_hostBody | apply co_takeToken) | decide | split | dsimp only)
theorem co_execTwait {i : Iss} {tch count : Nat} {s : State} {t : State} (h : execTwait i tch count s = .next t) : changesOnly [.seq] s t := by
  have hw := co_refl [.seq] s
  simp only [execTwait, anyOp, slotOp, okIf_next] at h
  obtain ⟨-, rfl⟩ := h
  repeat' (first | with_reducible (first | assumption | intro t x ht | intro t ht | apply co_twaitAct | apply co_hold | apply co_hostBody | apply co_takeToken) | decide | split | dsimp only)
theorem co_execTsend {i : Iss} {tch : Nat} {s : State} {t : State} (h : execTsend i tch s = .next t) : changesOnly [.seq] s t := by
  have hw := co_refl [.seq] s
  simp only [execTsend, anyOp, slotOp, okIf_next] at h
  obtain ⟨-, rfl⟩ := h
  repeat' (first | with_reducible (first | assumption | intro t x ht | intro t ht | apply co_tsendOp | apply co_hold | apply co_hostBody | apply co_takeToken) | decide | split | dsimp only)
theorem co_execCred {i : Iss} {cch op n : Nat} {s : State} {t : State} (h : execCred i cch op n s = .next t) : changesOnly [.seq] s t := by
  have hw := co_refl [.seq] s
  simp only [execCred, anyOp, slotOp, okIf_next] at h
  obtain ⟨-, rfl⟩ := h
  repeat' (first | with_reducible (first | assumption | intro t x ht | intro t ht | apply co_credOp | apply co_hold | apply co_hostBody | apply co_takeToken) | decide | split | dsimp only)
theorem co_execChk {i : Iss} {tile vp eid : Nat} {s : State} {t : State} (h : execChk i tile vp eid s = .next t) : changesOnly [.glz, .seq, .sch, .req, .ptn, .net, .evr, .free] s t := by
  have hw := co_refl [.glz, .seq, .sch, .req, .ptn, .net, .evr, .free] s
  simp only [execChk, coreOp, slotOp, okIf_next] at h
  obtain ⟨-, rfl⟩ := h
  repeat' (first | with_reducible (first | assumption | intro t x ht | intro t ht | apply co_chkAct | apply co_hold | apply co_hostBody | apply co_takeToken) | decide | split | dsimp only)
theorem co_execCsum {i : Iss} {emask ntr : Nat} {s : State} {t : State} (h : execCsum i emask ntr s = .next t) : changesOnly [.seq] s t := by
  have hw := co_refl [.seq] s
  simp only [execCsum, coreOp, slotOp, okIf_next] at h
  obtain ⟨-, rfl⟩ := h
  repeat' (first | with_reducible (first | assumption | intro t x ht | intro t ht | apply co_csumRun | apply co_hold | apply co_hostBody | apply co_takeToken) | decide | split | dsimp only)
theorem co_execFlor {i : Iss} {s : State} {t : State} (h : execFlor i s = .next t) : changesOnly [.seq] s t := by
  have hw := co_refl [.seq] s
  simp only [execFlor, anyOp, slotOp, okIf_next] at h
  obtain ⟨-, rfl⟩ := h
  repeat' (first | with_reducible (first | assumption | intro t x ht | intro t ht | apply co_closeSeg | apply co_hold | apply co_hostBody | apply co_takeToken) | decide | split | dsimp only)
theorem co_execStep {i : Iss} {s : State} {t : State} (h : execStep i s = .next t) : changesOnly [.seq] s t := by
  have hw := co_refl [.seq] s
  simp only [execStep, anyOp, slotOp, okIf_next] at h
  obtain ⟨-, rfl⟩ := h
  repeat' (first | with_reducible (first | assumption | intro t x ht | intro t ht | apply co_stepOp | apply co_hold | apply co_hostBody | apply co_takeToken) | decide | split | dsimp only)
theorem co_execRplw {i : Iss} {close : Nat} {s : State} {t : State} (h : execRplw i close s = .next t) : changesOnly [.seq] s t := by
  have hw := co_refl [.seq] s
  simp only [execRplw, anyOp, slotOp, okIf_next] at h
  obtain ⟨-, rfl⟩ := h
  repeat' (first | with_reducible (first | assumption | intro t x ht | intro t ht | apply co_rplwAct | apply co_hold | apply co_hostBody | apply co_takeToken) | decide | split | dsimp only)
theorem co_execFlagSegmentClose {sid flagIx : Nat} {s : State} {t : State} (h : execFlagSegmentClose sid flagIx s = .next t) : changesOnly [.arr, .seq, .sch, .cnv, .ptn, .net, .hist, .cal, .sec, .evr, .dev] s t := by
  have hw := co_refl [.arr, .seq, .sch, .cnv, .ptn, .net, .hist, .cal, .sec, .evr, .dev] s
  simp only [execFlagSegmentClose, okIf_next] at h
  obtain ⟨-, rfl⟩ := h
  repeat' (first | with_reducible (first | assumption | intro t x ht | intro t ht | apply co_closeFlags | apply co_hold | apply co_hostBody | apply co_takeToken) | decide | split | dsimp only)
theorem co_execSamp {i : Iss} {laddr pos : Nat} {s : State} {t : State} (h : execSamp i laddr pos s = .next t) : changesOnly [.seq, .sch] s t := by
  have hw := co_refl [.seq, .sch] s
  simp only [execSamp, headOp, slotOp, okIf_next] at h
  obtain ⟨-, rfl⟩ := h
  repeat' (first | with_reducible (first | assumption | intro t x ht | intro t ht | apply co_sampAct | apply co_hold | apply co_hostBody | apply co_takeToken) | decide | split | dsimp only)
theorem co_execVrfy {i : Iss} {laddr daddr tree : Nat} {s : State} {t : State} (h : execVrfy i laddr daddr tree s = .next t) : changesOnly [.core, .seq, .sch, .free] s t := by
  have hw := co_refl [.core, .seq, .sch, .free] s
  simp only [execVrfy, headOp, slotOp, okIf_next] at h
  obtain ⟨-, rfl⟩ := h
  repeat' (first | with_reducible (first | assumption | intro t x ht | intro t ht | apply co_vrfyAct | apply co_hold | apply co_hostBody | apply co_takeToken) | decide | split | dsimp only)
theorem co_execSkdr {i : Iss} {nprop tree daddr : Nat} {cands : List (List (Nat × Word))} {s : State} {t : State} (h : execSkdr i nprop tree daddr cands s = .next t) : changesOnly [.core, .seq, .head] s t := by
  have hw := co_refl [.core, .seq, .head] s
  simp only [execSkdr, headOp, slotOp, okIf_next] at h
  obtain ⟨-, rfl⟩ := h
  repeat' (first | with_reducible (first | assumption | intro t x ht | intro t ht | apply co_skdrAct | apply co_hold | apply co_hostBody | apply co_takeToken) | decide | split | dsimp only)
theorem co_execScore {i : Iss} {kvh layer qaddr sbuf mask nqh : Nat} {s : State} {t : State} (h : execScore i kvh layer qaddr sbuf mask nqh s = .next t) : changesOnly [.seq, .kv, .free] s t := by
  have hw := co_refl [.seq, .kv, .free] s
  simp only [execScore, attOp, slotOp, okIf_next] at h
  obtain ⟨-, rfl⟩ := h
  repeat' (first | with_reducible (first | assumption | intro t x ht | intro t ht | apply co_scoreAct | apply co_hold | apply co_hostBody | apply co_takeToken) | decide | split | dsimp only)
theorem co_execSnorm {i : Iss} {sbuf paddr nqh : Nat} {s : State} {t : State} (h : execSnorm i sbuf paddr nqh s = .next t) : changesOnly [.core, .glz, .seq, .kv] s t := by
  have hw := co_refl [.core, .glz, .seq, .kv] s
  simp only [execSnorm, attOp, slotOp, okIf_next] at h
  obtain ⟨-, rfl⟩ := h
  repeat' (first | with_reducible (first | assumption | intro t x ht | intro t ht | apply co_snormAct | apply co_hold | apply co_hostBody | apply co_takeToken) | decide | split | dsimp only)
theorem co_execSmix {i : Iss} {kvh layer paddr oaddr mask nqh : Nat} {s : State} {t : State} (h : execSmix i kvh layer paddr oaddr mask nqh s = .next t) : changesOnly [.core, .seq, .kv, .free] s t := by
  have hw := co_refl [.core, .seq, .kv, .free] s
  simp only [execSmix, attOp, slotOp, okIf_next] at h
  obtain ⟨-, rfl⟩ := h
  repeat' (first | with_reducible (first | assumption | intro t x ht | intro t ht | apply co_smixAct | apply co_hold | apply co_hostBody | apply co_takeToken) | decide | split | dsimp only)
theorem co_execKvput {i : Iss} {kvh layer kaddr : Nat} {s : State} {t : State} (h : execKvput i kvh layer kaddr s = .next t) : changesOnly [.glz, .seq, .kv, .free] s t := by
  have hw := co_refl [.glz, .seq, .kv, .free] s
  simp only [execKvput, attOp, slotOp, okIf_next] at h
  obtain ⟨-, rfl⟩ := h
  repeat' (first | with_reducible (first | assumption | intro t x ht | intro t ht | apply co_kvputAct | apply co_hold | apply co_hostBody | apply co_takeToken) | decide | split | dsimp only)
theorem co_execFabricDelivery {ix : Nat} {s : State} {t : State} (h : execFabricDelivery ix s = .next t) : changesOnly [.arr, .core, .glz, .seq, .sch, .kv, .head, .req, .ptn, .net, .evr, .free] s t := by
  have hw := co_refl [.arr, .core, .glz, .seq, .sch, .kv, .head, .req, .ptn, .net, .evr, .free] s
  simp only [execFabricDelivery, Host.Outcome.next.injEq] at h
  obtain rfl := h
  repeat' (first | with_reducible (first | assumption | intro t x ht | intro t ht | apply co_settle | apply co_deliver | apply co_hold | apply co_hostBody | apply co_takeToken) | decide | split | dsimp only)
theorem co_execGcol {i : Iss} {f : GlzF} {s : State} {t : State} (h : execGcol i f s = .next t) : changesOnly [.arr, .core, .glz, .seq, .sch, .kv, .head, .req, .ptn, .net, .evr, .free] s t := by
  have hw := co_refl [.arr, .core, .glz, .seq, .sch, .kv, .head, .req, .ptn, .net, .evr, .free] s
  simp only [execGcol, coreOp, slotOp, okIf_next] at h
  obtain ⟨-, rfl⟩ := h
  repeat' (first | with_reducible (first | assumption | intro t x ht | intro t ht | apply co_settle | apply co_gcolAct | apply co_hold | apply co_hostBody | apply co_takeToken) | decide | split | dsimp only)
theorem co_execReplaySlot {i : Iss} {s : State} {t : State} (h : execReplaySlot i s = .next t) : changesOnly [.arr, .core, .glz, .seq, .sch, .kv, .head, .req, .ptn, .net, .evr, .free] s t := by
  have hw := co_refl [.arr, .core, .glz, .seq, .sch, .kv, .head, .req, .ptn, .net, .evr, .free] s
  simp only [execReplaySlot, coreOp, slotOp, okIf_next] at h
  obtain ⟨-, rfl⟩ := h
  repeat' (first | with_reducible (first | assumption | intro t x ht | intro t ht | apply co_settle | apply co_replaySlotAct | apply co_hold | apply co_hostBody | apply co_takeToken) | decide | split | dsimp only)
theorem co_execSyncToken {dest : Nat} {tok : Token} {s : State} {t : State} (h : execSyncToken dest tok s = .next t) : changesOnly [.arr, .core, .glz, .seq, .sch, .kv, .head, .req, .ptn, .net, .evr, .free] s t := by
  have hw := co_refl [.arr, .core, .glz, .seq, .sch, .kv, .head, .req, .ptn, .net, .evr, .free] s
  simp only [execSyncToken, currentToken, seqToken, okIf_next] at h
  obtain ⟨-, rfl⟩ := h
  repeat' (first | with_reducible (first | assumption | intro t x ht | intro t ht | apply co_settle | apply co_syncOp | apply co_hold | apply co_hostBody | apply co_takeToken) | decide | split | dsimp only)
theorem co_execCredit {dest : Nat} {tok : Token} {s : State} {t : State} (h : execCredit dest tok s = .next t) : changesOnly [.arr, .core, .glz, .seq, .sch, .kv, .head, .req, .ptn, .net, .evr, .free] s t := by
  have hw := co_refl [.arr, .core, .glz, .seq, .sch, .kv, .head, .req, .ptn, .net, .evr, .free] s
  simp only [execCredit, currentToken, seqToken, okIf_next] at h
  obtain ⟨-, rfl⟩ := h
  repeat' (first | with_reducible (first | assumption | intro t x ht | intro t ht | apply co_settle | apply co_tryWait | apply co_addCredit | apply co_hold | apply co_hostBody | apply co_takeToken) | decide | split | dsimp only)
theorem co_execStepBoundary {dest : Nat} {tok : Token} {s : State} {t : State} (h : execStepBoundary dest tok s = .next t) : changesOnly [.seq, .kv] s t := by
  have hw := co_refl [.seq, .kv] s
  simp only [execStepBoundary, seqToken, okIf_next] at h
  obtain ⟨-, rfl⟩ := h
  repeat' (first | with_reducible (first | assumption | intro t x ht | intro t ht | apply co_clearWalks | apply co_latchStep | apply co_hold | apply co_hostBody | apply co_takeToken) | decide | split | dsimp only)
theorem co_execRetract {dest : Nat} {tok : Token} {s : State} {t : State} (h : execRetract dest tok s = .next t) : changesOnly [.seq] s t := by
  have hw := co_refl [.seq] s
  simp only [execRetract, currentToken, seqToken, okIf_next] at h
  obtain ⟨-, rfl⟩ := h
  repeat' (first | with_reducible (first | assumption | intro t x ht | intro t ht | apply co_retractOp | apply co_hold | apply co_hostBody | apply co_takeToken) | decide | split | dsimp only)
theorem co_execRewind {dest : Nat} {tok : Token} {s : State} {t : State} (h : execRewind dest tok s = .next t) : changesOnly [.arr, .core, .glz, .seq, .kv] s t := by
  have hw := co_refl [.arr, .core, .glz, .seq, .kv] s
  simp only [execRewind, seqToken, okIf_next] at h
  obtain ⟨-, rfl⟩ := h
  repeat' (first | with_reducible (first | assumption | intro t x ht | intro t ht | apply co_quiesce | apply co_hold | apply co_hostBody | apply co_takeToken) | decide | split | dsimp only)
theorem co_execAbandon {dest : Nat} {tok : Token} {s : State} {t : State} (h : execAbandon dest tok s = .next t) : changesOnly [.arr, .core, .glz, .seq, .kv] s t := by
  have hw := co_refl [.arr, .core, .glz, .seq, .kv] s
  simp only [execAbandon, seqToken, okIf_next] at h
  obtain ⟨-, rfl⟩ := h
  repeat' (first | with_reducible (first | assumption | intro t x ht | intro t ht | apply co_quiesce | apply co_hold | apply co_hostBody | apply co_takeToken) | decide | split | dsimp only)
theorem co_execResumeToken {dest : Nat} {tok : Token} {s : State} {t : State} (h : execResumeToken dest tok s = .next t) : changesOnly [.seq] s t := by
  have hw := co_refl [.seq] s
  simp only [execResumeToken, currentToken, seqToken, okIf_next] at h
  obtain ⟨-, rfl⟩ := h
  repeat' (first | with_reducible (first | assumption | intro t x ht | intro t ht | apply co_resumeOp | apply co_hold | apply co_hostBody | apply co_takeToken) | decide | split | dsimp only)
theorem co_execLaneKill {dest : Nat} {tok : Token} {s : State} {t : State} (h : execLaneKill dest tok s = .next t) : changesOnly [.arr, .core, .glz, .seq, .sch, .kv, .head, .req, .ptn, .net, .evr, .free] s t := by
  have hw := co_refl [.arr, .core, .glz, .seq, .sch, .kv, .head, .req, .ptn, .net, .evr, .free] s
  simp only [execLaneKill, currentToken, seqToken, okIf_next] at h
  obtain ⟨-, rfl⟩ := h
  repeat' (first | with_reducible (first | assumption | intro t x ht | intro t ht | apply co_laneKillOp | apply co_hold | apply co_hostBody | apply co_takeToken) | decide | split | dsimp only)
theorem co_execStepDone {tok : Token} {s : State} {t : State} (h : execStepDone tok s = .next t) : changesOnly [.seq, .sch, .req] s t := by
  have hw := co_refl [.seq, .sch, .req] s
  simp only [execStepDone, schedToken, okIf_next] at h
  obtain ⟨-, rfl⟩ := h
  repeat' (first | with_reducible (first | assumption | intro t x ht | intro t ht | apply co_stepDoneOp | apply co_hold | apply co_hostBody | apply co_takeToken) | decide | split | dsimp only)
theorem co_execSegment {tok : Token} {s : State} {t : State} (h : execSegment tok s = .next t) : changesOnly [.seq, .sch, .req] s t := by
  have hw := co_refl [.seq, .sch, .req] s
  simp only [execSegment, schedToken, okIf_next] at h
  obtain ⟨-, rfl⟩ := h
  repeat' (first | with_reducible (first | assumption | intro t x ht | intro t ht | apply co_segmentOp | apply co_hold | apply co_hostBody | apply co_takeToken) | decide | split | dsimp only)
theorem co_execRewindGatherExpiry {s : State} {t : State} (h : execRewindGatherExpiry s = .next t) : changesOnly [.seq, .sch, .cnv, .ptn, .net, .hist, .evr] s t := by
  have hw := co_refl [.seq, .sch, .cnv, .ptn, .net, .hist, .evr] s
  simp only [execRewindGatherExpiry, Host.Outcome.next.injEq] at h
  obtain rfl := h
  repeat' (first | with_reducible (first | assumption | intro t x ht | intro t ht | apply co_gatherExpiry | apply co_hold | apply co_hostBody | apply co_takeToken) | decide | split | dsimp only)
theorem co_execQuiesced {tok : Token} {s : State} {t : State} (h : execQuiesced tok s = .next t) : changesOnly [.arr, .core, .glz, .seq, .sch, .kv, .head, .req, .net] s t := by
  have hw := co_refl [.arr, .core, .glz, .seq, .sch, .kv, .head, .req, .net] s
  simp only [execQuiesced, schedToken, okIf_next] at h
  obtain ⟨-, rfl⟩ := h
  repeat' (first | with_reducible (first | assumption | intro t x ht | intro t ht | apply co_quiescedOp | apply co_hold | apply co_hostBody | apply co_takeToken) | decide | split | dsimp only)
theorem co_execSeqFault {tok : Token} {s : State} {t : State} (h : execSeqFault tok s = .next t) : changesOnly [.seq, .sch, .kv, .req, .cnv, .ptn, .net, .hist, .sec, .evr, .dev] s t := by
  have hw := co_refl [.seq, .sch, .kv, .req, .cnv, .ptn, .net, .hist, .sec, .evr, .dev] s
  simp only [execSeqFault, schedToken, okIf_next] at h
  obtain ⟨-, rfl⟩ := h
  repeat' (first | with_reducible (first | assumption | intro t x ht | intro t ht | apply co_seqFaultAct | apply co_hold | apply co_hostBody | apply co_takeToken) | decide | split | dsimp only)
theorem co_execStepWatchdogExpiry {s : State} {t : State} (h : execStepWatchdogExpiry s = .next t) : changesOnly [.seq, .sch, .cnv, .ptn, .net, .hist, .sec, .evr, .dev] s t := by
  have hw := co_refl [.seq, .sch, .cnv, .ptn, .net, .hist, .sec, .evr, .dev] s
  simp only [execStepWatchdogExpiry, Host.Outcome.next.injEq] at h
  obtain rfl := h
  repeat' (first | with_reducible (first | assumption | intro t x ht | intro t ht | apply co_stepWatchdog | apply co_hold | apply co_hostBody | apply co_takeToken) | decide | split | dsimp only)
theorem co_execCommit {s : State} {t : State} (h : execCommit s = .next t) : changesOnly [.arr, .core, .glz, .seq, .sch, .kv, .head, .req, .cnv, .ptn, .net, .cal, .evr, .free] s t := by
  have hw := co_refl [.arr, .core, .glz, .seq, .sch, .kv, .head, .req, .cnv, .ptn, .net, .cal, .evr, .free] s
  simp only [execCommit, Host.Outcome.next.injEq] at h
  obtain rfl := h
  repeat' (first | with_reducible (first | assumption | intro t x ht | intro t ht | apply co_commitOp | apply co_hold | apply co_hostBody | apply co_takeToken) | decide | split | dsimp only)
theorem co_execStepCompose {s : State} {t : State} (h : execStepCompose s = .next t) : changesOnly [.arr, .core, .glz, .seq, .sch, .kv, .head, .req, .cnv, .ptn, .net, .hist, .sec] s t := by
  have hw := co_refl [.arr, .core, .glz, .seq, .sch, .kv, .head, .req, .cnv, .ptn, .net, .hist, .sec] s
  simp only [execStepCompose, Host.Outcome.next.injEq] at h
  obtain rfl := h
  repeat' (first | with_reducible (first | assumption | intro t x ht | intro t ht | apply co_composeOp | apply co_hold | apply co_hostBody | apply co_takeToken) | decide | split | dsimp only)
theorem co_execHotCacheFill {cluster slice : Nat} {s : State} {t : State} (h : execHotCacheFill cluster slice s = .next t) : changesOnly [.kv] s t := by
  have hw := co_refl [.kv] s
  simp only [execHotCacheFill, okIf_next] at h
  obtain ⟨-, rfl⟩ := h
  repeat' (first | with_reducible (first | assumption | intro t x ht | intro t ht | apply co_hold | apply co_hostBody | apply co_takeToken) | decide | split | (fail_if_no_progress with_reducible apply co_set_kv) | dsimp only)
theorem co_execSpacingTimeout {s : State} {t : State} (h : execSpacingTimeout s = .next t) : changesOnly [.sch] s t := by
  have hw := co_refl [.sch] s
  simp only [execSpacingTimeout, Host.Outcome.next.injEq] at h
  obtain rfl := h
  repeat' (first | with_reducible (first | assumption | intro t x ht | intro t ht | apply co_hold | apply co_hostBody | apply co_takeToken) | decide | split | (fail_if_no_progress with_reducible apply co_set_sch) | dsimp only)
theorem co_execEnergyMeterSample {uj : Nat} {s : State} {t : State} (h : execEnergyMeterSample uj s = .next t) : changesOnly [.sch, .pwr] s t := by
  have hw := co_refl [.sch, .pwr] s
  simp only [execEnergyMeterSample, Host.Outcome.next.injEq] at h
  obtain rfl := h
  repeat' (first | with_reducible (first | assumption | intro t x ht | intro t ht | apply co_energySample | apply co_hold | apply co_hostBody | apply co_takeToken) | decide | split | dsimp only)
theorem co_execFormatFloorExpiry {canvas : Nat} {s : State} {t : State} (h : execFormatFloorExpiry canvas s = .next t) : changesOnly [.cnv, .ptn, .net, .evr] s t := by
  have hw := co_refl [.cnv, .ptn, .net, .evr] s
  simp only [execFormatFloorExpiry, okIf_next] at h
  obtain ⟨-, rfl⟩ := h
  repeat' (first | with_reducible (first | assumption | intro t x ht | intro t ht | apply co_floorExpire | apply co_hold | apply co_hostBody | apply co_takeToken) | decide | split | dsimp only)
theorem co_execCalibrationGapOpen {meas : List CalMeas} {s : State} {t : State} (h : execCalibrationGapOpen meas s = .next t) : changesOnly [.arr, .seq, .sch, .cnv, .ptn, .net, .hist, .cal, .sec, .evr, .dev] s t := by
  have hw := co_refl [.arr, .seq, .sch, .cnv, .ptn, .net, .hist, .cal, .sec, .evr, .dev] s
  simp only [execCalibrationGapOpen, okIf_next] at h
  obtain ⟨-, rfl⟩ := h
  repeat' (first | with_reducible (first | assumption | intro t x ht | intro t ht | apply co_gapOpen | apply co_hold | apply co_hostBody | apply co_takeToken) | decide | split | dsimp only)
theorem co_execCalIntervalExpiry {cluster : Nat} {s : State} {t : State} (h : execCalIntervalExpiry cluster s = .next t) : changesOnly [.cal] s t := by
  have hw := co_refl [.cal] s
  simp only [execCalIntervalExpiry, okIf_next] at h
  obtain ⟨-, rfl⟩ := h
  repeat' (first | with_reducible (first | assumption | intro t x ht | intro t ht | apply co_calDue | apply co_hold | apply co_hostBody | apply co_takeToken) | decide | split | dsimp only)
theorem co_execCalModuleEventTimer {s : State} {t : State} (h : execCalModuleEventTimer s = .next t) : changesOnly [.ptn, .net, .cal] s t := by
  have hw := co_refl [.ptn, .net, .cal] s
  simp only [execCalModuleEventTimer, Host.Outcome.next.injEq] at h
  obtain rfl := h
  repeat' (first | with_reducible (first | assumption | intro t x ht | intro t ht | apply co_calEvent | apply co_hold | apply co_hostBody | apply co_takeToken) | decide | split | dsimp only)
theorem co_execStrokeEnd {engine : Nat} {dev : Tab Int} {tree : Nat} {s : State} {t : State} (h : execStrokeEnd engine dev tree s = .next t) : changesOnly [.arr, .core, .glz, .seq, .sch, .kv, .head, .req, .ptn, .net, .hist, .evr, .free] s t := by
  have hw := co_refl [.arr, .core, .glz, .seq, .sch, .kv, .head, .req, .ptn, .net, .hist, .evr, .free] s
  simp only [execStrokeEnd, okIf_next] at h
  obtain ⟨-, rfl⟩ := h
  repeat' (first | with_reducible (first | assumption | intro t x ht | intro t ht | apply co_settle | apply co_strokeEndAll | apply co_hold | apply co_hostBody | apply co_takeToken) | decide | split | dsimp only)
theorem co_execAuditArbitration {cluster : Nat} {again : List Int} {s : State} {t : State} (h : execAuditArbitration cluster again s = .next t) : changesOnly [.seq, .sch, .cnv, .ptn, .net, .hist, .sec, .evr, .dev] s t := by
  have hw := co_refl [.seq, .sch, .cnv, .ptn, .net, .hist, .sec, .evr, .dev] s
  simp only [execAuditArbitration, okIf_next] at h
  obtain ⟨-, rfl⟩ := h
  repeat' (first | with_reducible (first | assumption | intro t x ht | intro t ht | apply co_auditArbitrate | apply co_hold | apply co_hostBody | apply co_takeToken) | decide | split | dsimp only)
theorem co_execAuditRotation {cluster : Nat} {s : State} {t : State} (h : execAuditRotation cluster s = .next t) : changesOnly [.arr, .glz, .seq, .sch, .kv, .cnv, .ptn, .net, .hist, .sec, .evr, .dev] s t := by
  have hw := co_refl [.arr, .glz, .seq, .sch, .kv, .cnv, .ptn, .net, .hist, .sec, .evr, .dev] s
  simp only [execAuditRotation, okIf_next] at h
  obtain ⟨-, rfl⟩ := h
  repeat' (first | with_reducible (first | assumption | intro t x ht | intro t ht | apply co_auditRotate | apply co_hold | apply co_hostBody | apply co_takeToken) | decide | split | dsimp only)
theorem co_execFenceStart {core : Nat} {s : State} {t : State} (h : execFenceStart core s = .next t) : changesOnly [.arr, .glz, .seq, .sch, .kv, .cnv, .ptn, .net, .hist, .cal, .sec, .evr, .dev] s t := by
  have hw := co_refl [.arr, .glz, .seq, .sch, .kv, .cnv, .ptn, .net, .hist, .cal, .sec, .evr, .dev] s
  simp only [execFenceStart, okIf_next] at h
  obtain ⟨-, rfl⟩ := h
  repeat' (first | with_reducible (first | assumption | intro t x ht | intro t ht | apply co_fenceStart | apply co_hold | apply co_hostBody | apply co_takeToken) | decide | split | dsimp only)
theorem co_execFenceComplete {cluster : Nat} {s : State} {t : State} (h : execFenceComplete cluster s = .next t) : changesOnly [.arr, .glz, .kv, .cnv, .ptn, .net, .hist, .evr] s t := by
  have hw := co_refl [.arr, .glz, .kv, .cnv, .ptn, .net, .hist, .evr] s
  simp only [execFenceComplete, okIf_next] at h
  obtain ⟨-, rfl⟩ := h
  repeat' (first | with_reducible (first | assumption | intro t x ht | intro t ht | apply co_fenceComplete | apply co_hold | apply co_hostBody | apply co_takeToken) | decide | split | dsimp only)
theorem co_execDrainBudgetExpiry {s : State} {t : State} (h : execDrainBudgetExpiry s = .next t) : changesOnly [.req] s t := by
  have hw := co_refl [.req] s
  simp only [execDrainBudgetExpiry, Host.Outcome.next.injEq] at h
  obtain rfl := h
  repeat' (first | with_reducible (first | assumption | intro t x ht | intro t ht | apply co_drainBudget | apply co_hold | apply co_hostBody | apply co_takeToken) | decide | split | dsimp only)
theorem co_execReplaceEntry {s : State} {t : State} (h : execReplaceEntry s = .next t) : changesOnly [.ptn, .net, .hist, .evr, .dev] s t := by
  have hw := co_refl [.ptn, .net, .hist, .evr, .dev] s
  simp only [execReplaceEntry, Host.Outcome.next.injEq] at h
  obtain rfl := h
  repeat' (first | with_reducible (first | assumption | intro t x ht | intro t ht | apply co_replaceEntry | apply co_hold | apply co_hostBody | apply co_takeToken) | decide | split | dsimp only)
theorem co_execUnitHistoryPeriodicWrite {s : State} {t : State} (h : execUnitHistoryPeriodicWrite s = .next t) : changesOnly [.hist] s t := by
  have hw := co_refl [.hist] s
  simp only [execUnitHistoryPeriodicWrite, Host.Outcome.next.injEq] at h
  obtain rfl := h
  repeat' (first | with_reducible (first | assumption | intro t x ht | intro t ht | apply co_uhWrite | apply co_hold | apply co_hostBody | apply co_takeToken) | decide | split | dsimp only)
theorem co_execTokenPlaneFailure {plane hop : Nat} {s : State} {t : State} (h : execTokenPlaneFailure plane hop s = .next t) : changesOnly [.seq, .sch, .cnv, .ptn, .net, .hist, .sec, .evr, .dev] s t := by
  have hw := co_refl [.seq, .sch, .cnv, .ptn, .net, .hist, .sec, .evr, .dev] s
  simp only [execTokenPlaneFailure, okIf_next] at h
  obtain ⟨-, rfl⟩ := h
  repeat' (first | with_reducible (first | assumption | intro t x ht | intro t ht | apply co_planeFailure | apply co_hold | apply co_hostBody | apply co_takeToken) | decide | split | dsimp only)
theorem co_execProgramIteration {array plane row : Nat} {read : List (Nat × Nat × Nat)} {s : State} {t : State} (h : execProgramIteration array plane row read s = .next t) : changesOnly [.arr, .glz] s t := by
  have hw := co_refl [.arr, .glz] s
  simp only [execProgramIteration, okIf_next] at h
  obtain ⟨-, rfl⟩ := h
  repeat' (first | with_reducible (first | assumption | intro t x ht | intro t ht | apply co_programRow | apply co_hold | apply co_hostBody | apply co_takeToken) | decide | split | dsimp only)
theorem co_execPlaneWriteComplete {array plane : Nat} {s : State} {t : State} (h : execPlaneWriteComplete array plane s = .next t) : changesOnly [.arr, .glz, .seq, .sch, .kv, .cnv, .ptn, .net, .hist, .cal, .sec, .evr, .dev] s t := by
  have hw := co_refl [.arr, .glz, .seq, .sch, .kv, .cnv, .ptn, .net, .hist, .cal, .sec, .evr, .dev] s
  simp only [execPlaneWriteComplete, okIf_next] at h
  obtain ⟨-, rfl⟩ := h
  repeat' (first | with_reducible (first | assumption | intro t x ht | intro t ht | apply co_planeEnd | apply co_hold | apply co_hostBody | apply co_takeToken) | decide | split | dsimp only)
theorem co_execProgrammingWaveStart {canvas : Nat} {s : State} {t : State} (h : execProgrammingWaveStart canvas s = .next t) : changesOnly [.arr, .glz, .seq, .sch, .kv, .cnv, .ptn, .net, .hist, .sec, .evr, .dev] s t := by
  have hw := co_refl [.arr, .glz, .seq, .sch, .kv, .cnv, .ptn, .net, .hist, .sec, .evr, .dev] s
  simp only [execProgrammingWaveStart, okIf_next] at h
  obtain ⟨-, rfl⟩ := h
  repeat' (first | with_reducible (first | assumption | intro t x ht | intro t ht | apply co_waveStart | apply co_hold | apply co_hostBody | apply co_takeToken) | decide | split | dsimp only)
theorem co_execLoadComplete {canvas : Nat} {s : State} {t : State} (h : execLoadComplete canvas s = .next t) : changesOnly [.glz, .seq, .kv, .head, .req, .cnv, .ptn, .net, .evr] s t := by
  have hw := co_refl [.glz, .seq, .kv, .head, .req, .cnv, .ptn, .net, .evr] s
  simp only [execLoadComplete, okIf_next] at h
  obtain ⟨-, rfl⟩ := h
  repeat' (first | with_reducible (first | assumption | intro t x ht | intro t ht | apply co_loadDone | apply co_hold | apply co_hostBody | apply co_takeToken) | decide | split | dsimp only)
theorem co_execDriftTableSave {cluster : Nat} {s : State} {t : State} (h : execDriftTableSave cluster s = .next t) : changesOnly [.glz, .cal] s t := by
  have hw := co_refl [.glz, .cal] s
  simp only [execDriftTableSave, okIf_next] at h
  obtain ⟨-, rfl⟩ := h
  repeat' (first | with_reducible (first | assumption | intro t x ht | intro t ht | apply co_saveDrift | apply co_hold | apply co_hostBody | apply co_takeToken) | decide | split | dsimp only)
theorem co_execCanvasRecordDurable {canvas : Nat} {s : State} {t : State} (h : execCanvasRecordDurable canvas s = .next t) : changesOnly [.cnv] s t := by
  have hw := co_refl [.cnv] s
  simp only [execCanvasRecordDurable, okIf_next] at h
  obtain ⟨-, rfl⟩ := h
  repeat' (first | with_reducible (first | assumption | intro t x ht | intro t ht | apply co_recordDurable | apply co_hold | apply co_hostBody | apply co_takeToken) | decide | split | dsimp only)
theorem co_execStage {h : Hdr} {canvas offset len total : Nat} {bundle : Bundle} {s : State} {t : State} (h : execStage h canvas offset len total bundle s = .next t) : changesOnly [.kv, .cnv, .ptn, .net, .sec, .evr] s t := by
  have hw := co_refl [.kv, .cnv, .ptn, .net, .sec, .evr] s
  simp only [execStage, okIf_next] at h
  obtain ⟨-, rfl⟩ := h
  repeat' (first | with_reducible (first | assumption | intro t x ht | intro t ht | apply co_hostBody | apply co_stageOp | apply co_hold | apply co_takeToken) | decide | split | dsimp only)
theorem co_execStagePartTimeout {canvas : Nat} {s : State} {t : State} (h : execStagePartTimeout canvas s = .next t) : changesOnly [.cnv, .net] s t := by
  have hw := co_refl [.cnv, .net] s
  simp only [execStagePartTimeout, okIf_next] at h
  obtain ⟨-, rfl⟩ := h
  repeat' (first | with_reducible (first | assumption | intro t x ht | intro t ht | apply co_endStaging | apply co_hold | apply co_hostBody | apply co_takeToken) | decide | split | dsimp only)
theorem co_execLoad {h : Hdr} {canvas : Nat} {s : State} {t : State} (h : execLoad h canvas s = .next t) : changesOnly [.cnv, .ptn, .net, .evr] s t := by
  have hw := co_refl [.cnv, .ptn, .net, .evr] s
  simp only [execLoad, hostCmd, okIf_next] at h
  obtain ⟨-, rfl⟩ := h
  repeat' (first | with_reducible (first | assumption | intro t x ht | intro t ht | apply co_loadOp | apply co_hold | apply co_hostBody | apply co_takeToken) | decide | split | dsimp only)
theorem co_execAbort {h : Hdr} {canvas : Nat} {s : State} {t : State} (h : execAbort h canvas s = .next t) : changesOnly [.arr, .glz, .seq, .kv, .cnv, .ptn, .net, .evr] s t := by
  have hw := co_refl [.arr, .glz, .seq, .kv, .cnv, .ptn, .net, .evr] s
  simp only [execAbort, hostCmd, okIf_next] at h
  obtain ⟨-, rfl⟩ := h
  repeat' (first | with_reducible (first | assumption | intro t x ht | intro t ht | apply co_abortOp | apply co_hold | apply co_hostBody | apply co_takeToken) | decide | split | dsimp only)
theorem co_execErase {h : Hdr} {canvas : Nat} {module_ : Bool} {s : State} {t : State} (h : execErase h canvas module_ s = .next t) : changesOnly [.cnv, .ptn, .net, .sec] s t := by
  have hw := co_refl [.cnv, .ptn, .net, .sec] s
  simp only [execErase, hostCmd, okIf_next] at h
  obtain ⟨-, rfl⟩ := h
  repeat' (first | with_reducible (first | assumption | intro t x ht | intro t ht | apply co_eraseOp | apply co_hold | apply co_hostBody | apply co_takeToken) | decide | split | dsimp only)
theorem co_execEraseComplete {s : State} {t : State} (h : execEraseComplete s = .next t) : changesOnly [.arr, .glz, .seq, .sch, .kv, .cnv, .ptn, .net, .hist, .sec, .evr, .dev] s t := by
  have hw := co_refl [.arr, .glz, .seq, .sch, .kv, .cnv, .ptn, .net, .hist, .sec, .evr, .dev] s
  simp only [execEraseComplete, Host.Outcome.next.injEq] at h
  obtain rfl := h
  repeat' (first | with_reducible (first | assumption | intro t x ht | intro t ht | apply co_eraseDone | apply co_hold | apply co_hostBody | apply co_takeToken) | decide | split | dsimp only)
theorem co_execPersistentColumnRelease {core array plane col : Nat} {s : State} {t : State} (h : execPersistentColumnRelease core array plane col s = .next t) : changesOnly [.arr] s t := by
  have hw := co_refl [.arr] s
  simp only [execPersistentColumnRelease, okIf_next] at h
  obtain ⟨-, rfl⟩ := h
  repeat' (first | with_reducible (first | assumption | intro t x ht | intro t ht | apply co_modDigcol | apply co_hold | apply co_hostBody | apply co_takeToken) | decide | split | dsimp only)
theorem co_execDigcolEntryFetch {core array plane col : Nat} {s : State} {t : State} (h : execDigcolEntryFetch core array plane col s = .next t) : changesOnly [.arr] s t := by
  have hw := co_refl [.arr] s
  simp only [execDigcolEntryFetch, okIf_next] at h
  obtain ⟨-, rfl⟩ := h
  repeat' (first | with_reducible (first | assumption | intro t x ht | intro t ht | apply co_fetchColumn | apply co_hold | apply co_hostBody | apply co_takeToken) | decide | split | dsimp only)
theorem co_execRuntimeChannelAdd {canvas set index : Nat} {s : State} {t : State} (h : execRuntimeChannelAdd canvas set index s = .next t) : changesOnly [.glz, .evr] s t := by
  have hw := co_refl [.glz, .evr] s
  simp only [execRuntimeChannelAdd, okIf_next] at h
  obtain ⟨-, rfl⟩ := h
  repeat' (first | with_reducible (first | assumption | intro t x ht | intro t ht | apply co_channelAdd | apply co_hold | apply co_hostBody | apply co_takeToken) | decide | split | dsimp only)
theorem co_execRuntimeChannelLeave {canvas set index : Nat} {s : State} {t : State} (h : execRuntimeChannelLeave canvas set index s = .next t) : changesOnly [.glz] s t := by
  have hw := co_refl [.glz] s
  simp only [execRuntimeChannelLeave, okIf_next] at h
  obtain ⟨-, rfl⟩ := h
  repeat' (first | with_reducible (first | assumption | intro t x ht | intro t ht | apply co_channelLeave | apply co_hold | apply co_hostBody | apply co_takeToken) | decide | split | dsimp only)
theorem co_execGlazeTableFetch {cluster tid : Nat} {crcOk again : Bool} {s : State} {t : State} (h : execGlazeTableFetch cluster tid crcOk again s = .next t) : changesOnly [.arr, .core, .glz, .seq, .sch, .kv, .head, .req, .ptn, .net, .hist, .evr, .free] s t := by
  have hw := co_refl [.arr, .core, .glz, .seq, .sch, .kv, .head, .req, .ptn, .net, .hist, .evr, .free] s
  simp only [execGlazeTableFetch, okIf_next] at h
  obtain ⟨-, rfl⟩ := h
  repeat' (first | with_reducible (first | assumption | intro t x ht | intro t ht | apply co_tableFetch | apply co_hold | apply co_hostBody | apply co_takeToken) | decide | split | dsimp only)
theorem co_execMemoryCorrectableError {tier : Nat} {s : State} {t : State} (h : execMemoryCorrectableError tier s = .next t) : changesOnly [.hist] s t := by
  have hw := co_refl [.hist] s
  simp only [execMemoryCorrectableError, okIf_next] at h
  obtain ⟨-, rfl⟩ := h
  repeat' (first | with_reducible (first | assumption | intro t x ht | intro t ht | apply co_countCe | apply co_hold | apply co_hostBody | apply co_takeToken) | decide | split | dsimp only)
theorem co_execFarTierPatrol {hub : Nat} {s : State} {t : State} (h : execFarTierPatrol hub s = .next t) : changesOnly [.kv] s t := by
  have hw := co_refl [.kv] s
  simp only [execFarTierPatrol, okIf_next] at h
  obtain ⟨-, rfl⟩ := h
  repeat' (first | with_reducible (first | assumption | intro t x ht | intro t ht | apply co_hold | apply co_hostBody | apply co_takeToken) | decide | split | (fail_if_no_progress with_reducible apply co_set_kv) | dsimp only)
theorem co_execHotCacheUncorrectable {cluster slice : Nat} {s : State} {t : State} (h : execHotCacheUncorrectable cluster slice s = .next t) : changesOnly [.kv, .evr] s t := by
  have hw := co_refl [.kv, .evr] s
  simp only [execHotCacheUncorrectable, okIf_next] at h
  obtain ⟨-, rfl⟩ := h
  repeat' (first | with_reducible (first | assumption | intro t x ht | intro t ht | apply co_dropSlice | apply co_hold | apply co_hostBody | apply co_takeToken) | decide | split | dsimp only)
theorem co_execFarTierUncorrectable {r : FarRegion} {s : State} {t : State} (h : execFarTierUncorrectable r s = .next t) : changesOnly [.arr, .glz, .seq, .kv, .head, .req, .cnv, .ptn, .net, .evr] s t := by
  have hw := co_refl [.arr, .glz, .seq, .kv, .head, .req, .cnv, .ptn, .net, .evr] s
  simp only [execFarTierUncorrectable, okIf_next] at h
  obtain ⟨-, rfl⟩ := h
  repeat' (first | with_reducible (first | assumption | intro t x ht | intro t ht | apply co_farError | apply co_hold | apply co_hostBody | apply co_takeToken) | decide | split | dsimp only)
theorem co_execMasterCopyReadback {canvas plane : Nat} {crcOk : Bool} {s : State} {t : State} (h : execMasterCopyReadback canvas plane crcOk s = .next t) : changesOnly [.kv, .cnv, .ptn, .net] s t := by
  have hw := co_refl [.kv, .cnv, .ptn, .net] s
  simp only [execMasterCopyReadback, okIf_next] at h
  obtain ⟨-, rfl⟩ := h
  repeat' (first | with_reducible (first | assumption | intro t x ht | intro t ht | apply co_readback | apply co_hold | apply co_hostBody | apply co_takeToken) | decide | split | dsimp only)
theorem co_execPoisonRepair {index : Nat} {s : State} {t : State} (h : execPoisonRepair index s = .next t) : changesOnly [.kv, .req] s t := by
  have hw := co_refl [.kv, .req] s
  simp only [execPoisonRepair, okIf_next] at h
  obtain ⟨-, rfl⟩ := h
  repeat' (first | with_reducible (first | assumption | intro t x ht | intro t ht | apply co_repairPoison | apply co_hold | apply co_hostBody | apply co_takeToken) | decide | split | dsimp only)
theorem co_execSubmit {h : Hdr} {b : SubmitBody} {s : State} {t : State} (h : execSubmit h b s = .next t) : changesOnly [.head, .req, .cnv, .ptn, .net] s t := by
  have hw := co_refl [.head, .req, .cnv, .ptn, .net] s
  simp only [execSubmit, hostCmd, okIf_next] at h
  obtain ⟨-, rfl⟩ := h
  repeat' (first | with_reducible (first | assumption | intro t x ht | intro t ht | apply co_openParts | apply co_submitDecide | apply co_hold | apply co_hostBody | apply co_takeToken) | decide | split | dsimp only)
theorem co_execContinue {h : Hdr} {b : SubmitBody} {s : State} {t : State} (h : execContinue h b s = .next t) : changesOnly [.head, .req, .cnv, .ptn, .net] s t := by
  have hw := co_refl [.head, .req, .cnv, .ptn, .net] s
  simp only [execContinue, hostCmd, okIf_next] at h
  obtain ⟨-, rfl⟩ := h
  repeat' (first | with_reducible (first | assumption | intro t x ht | intro t ht | apply co_openParts | apply co_continueCmd | apply co_hold | apply co_hostBody | apply co_takeToken) | decide | split | dsimp only)
theorem co_execPrompt {h : Hdr} {words : List Nat} {maskBytes : List Byte} {last : Bool} {s : State} {t : State} (h : execPrompt h words maskBytes last s = .next t) : changesOnly [.head, .req, .cnv, .ptn, .net] s t := by
  have hw := co_refl [.head, .req, .cnv, .ptn, .net] s
  simp only [execPrompt, okIf_next] at h
  obtain ⟨-, rfl⟩ := h
  repeat' (first | with_reducible (first | assumption | intro t x ht | intro t ht | apply co_hostBody | apply co_promptOp | apply co_hold | apply co_takeToken) | decide | split | dsimp only)
theorem co_execCommandPartTimeout {ptn queue : Nat} {s : State} {t : State} (h : execCommandPartTimeout ptn queue s = .next t) : changesOnly [.ptn, .net] s t := by
  have hw := co_refl [.ptn, .net] s
  simp only [execCommandPartTimeout, okIf_next] at h
  obtain ⟨-, rfl⟩ := h
  repeat' (first | with_reducible (first | assumption | intro t x ht | intro t ht | apply co_breakParts | apply co_hold | apply co_hostBody | apply co_takeToken) | decide | split | dsimp only)
theorem co_execCancel {h : Hdr} {s : State} {t : State} (h : execCancel h s = .next t) : changesOnly [.seq, .sch, .kv, .head, .req, .cnv, .ptn, .net] s t := by
  have hw := co_refl [.seq, .sch, .kv, .head, .req, .cnv, .ptn, .net] s
  simp only [execCancel, hostCmd, okIf_next] at h
  obtain ⟨-, rfl⟩ := h
  repeat' (first | with_reducible (first | assumption | intro t x ht | intro t ht | apply co_cancelOp | apply co_hold | apply co_hostBody | apply co_takeToken) | decide | split | dsimp only)
theorem co_execPause {h : Hdr} {s : State} {t : State} (h : execPause h s = .next t) : changesOnly [.req, .cnv, .ptn, .net] s t := by
  have hw := co_refl [.req, .cnv, .ptn, .net] s
  simp only [execPause, hostCmd, okIf_next] at h
  obtain ⟨-, rfl⟩ := h
  repeat' (first | with_reducible (first | assumption | intro t x ht | intro t ht | apply co_pauseOp | apply co_hold | apply co_hostBody | apply co_takeToken) | decide | split | dsimp only)
theorem co_execResume {h : Hdr} {s : State} {t : State} (h : execResume h s = .next t) : changesOnly [.req, .cnv, .ptn, .net] s t := by
  have hw := co_refl [.req, .cnv, .ptn, .net] s
  simp only [execResume, hostCmd, okIf_next] at h
  obtain ⟨-, rfl⟩ := h
  repeat' (first | with_reducible (first | assumption | intro t x ht | intro t ht | apply co_resumeCmd | apply co_hold | apply co_hostBody | apply co_takeToken) | decide | split | dsimp only)
theorem co_execDiscard {h : Hdr} {s : State} {t : State} (h : execDiscard h s = .next t) : changesOnly [.req, .cnv, .ptn, .net] s t := by
  have hw := co_refl [.req, .cnv, .ptn, .net] s
  simp only [execDiscard, hostCmd, okIf_next] at h
  obtain ⟨-, rfl⟩ := h
  repeat' (first | with_reducible (first | assumption | intro t x ht | intro t ht | apply co_discardOp | apply co_hold | apply co_hostBody | apply co_takeToken) | decide | split | dsimp only)
theorem co_execExport {h : Hdr} {release : Bool} {peer : Nat} {s : State} {t : State} (h : execExport h release peer s = .next t) : changesOnly [.head, .req, .cnv, .ptn, .net, .dev] s t := by
  have hw := co_refl [.head, .req, .cnv, .ptn, .net, .dev] s
  simp only [execExport, hostCmd, okIf_next] at h
  obtain ⟨-, rfl⟩ := h
  repeat' (first | with_reducible (first | assumption | intro t x ht | intro t ht | apply co_exportOp | apply co_release | apply co_hold | apply co_hostBody | apply co_takeToken) | decide | split | dsimp only)
theorem co_execExportRelease {index : Nat} {s : State} {t : State} (h : execExportRelease index s = .next t) : changesOnly [.kv, .head, .req, .net] s t := by
  have hw := co_refl [.kv, .head, .req, .net] s
  simp only [execExportRelease, okIf_next] at h
  obtain ⟨-, rfl⟩ := h
  repeat' (first | with_reducible (first | assumption | intro t x ht | intro t ht | apply co_exportEnd | apply co_hold | apply co_hostBody | apply co_takeToken) | decide | split | dsimp only)
theorem co_execImport {h : Hdr} {p : Package} {s : State} {t : State} (h : execImport h p s = .next t) : changesOnly [.req, .cnv, .ptn, .net] s t := by
  have hw := co_refl [.req, .cnv, .ptn, .net] s
  simp only [execImport, hostCmd, okIf_next] at h
  obtain ⟨-, rfl⟩ := h
  repeat' (first | with_reducible (first | assumption | intro t x ht | intro t ht | apply co_importOp | apply co_hold | apply co_hostBody | apply co_takeToken) | decide | split | dsimp only)
theorem co_execTintLoad {h : Hdr} {slot : Nat} {rebind whole : Bool} {hash : Nat} {pairs : List TintPair} {s : State} {t : State} (h : execTintLoad h slot rebind whole hash pairs s = .next t) : changesOnly [.req, .cnv, .ptn, .net] s t := by
  have hw := co_refl [.req, .cnv, .ptn, .net] s
  simp only [execTintLoad, hostCmd, okIf_next] at h
  obtain ⟨-, rfl⟩ := h
  repeat' (first | with_reducible (first | assumption | intro t x ht | intro t ht | apply co_reply | apply co_tintLoadOp | apply co_hold | apply co_hostBody | apply co_takeToken) | decide | split | dsimp only)
theorem co_execTintDelete {h : Hdr} {slot : Nat} {s : State} {t : State} (h : execTintDelete h slot s = .next t) : changesOnly [.seq, .sch, .kv, .head, .req, .cnv, .ptn, .net] s t := by
  have hw := co_refl [.seq, .sch, .kv, .head, .req, .cnv, .ptn, .net] s
  simp only [execTintDelete, hostCmd, okIf_next] at h
  obtain ⟨-, rfl⟩ := h
  repeat' (first | with_reducible (first | assumption | intro t x ht | intro t ht | apply co_reply | apply co_tintDeleteOp | apply co_hold | apply co_hostBody | apply co_takeToken) | decide | split | dsimp only)
theorem co_execCqRead {h : Hdr} {cq count : Nat} {s : State} {t : State} (h : execCqRead h cq count s = .next t) : changesOnly [.cnv, .ptn, .net] s t := by
  have hw := co_refl [.cnv, .ptn, .net] s
  simp only [execCqRead, hostCmd, okIf_next] at h
  obtain ⟨-, rfl⟩ := h
  repeat' (first | with_reducible (first | assumption | intro t x ht | intro t ht | apply co_reply | apply co_cqReadOp | apply co_hold | apply co_hostBody | apply co_takeToken) | decide | split | dsimp only)
theorem co_execAdmissionWaitExpiry {index : Nat} {s : State} {t : State} (h : execAdmissionWaitExpiry index s = .next t) : changesOnly [.head, .req, .net] s t := by
  have hw := co_refl [.head, .req, .net] s
  simp only [execAdmissionWaitExpiry, okIf_next] at h
  obtain ⟨-, rfl⟩ := h
  repeat' (first | with_reducible (first | assumption | intro t x ht | intro t ht | apply co_admissionWait | apply co_hold | apply co_hostBody | apply co_takeToken) | decide | split | dsimp only)
theorem co_execDeadlineExpiry {index : Nat} {s : State} {t : State} (h : execDeadlineExpiry index s = .next t) : changesOnly [.seq, .sch, .kv, .head, .req, .ptn, .net] s t := by
  have hw := co_refl [.seq, .sch, .kv, .head, .req, .ptn, .net] s
  simp only [execDeadlineExpiry, okIf_next] at h
  obtain ⟨-, rfl⟩ := h
  repeat' (first | with_reducible (first | assumption | intro t x ht | intro t ht | apply co_deadlineOp | apply co_hold | apply co_hostBody | apply co_takeToken) | decide | split | dsimp only)
theorem co_execTimeToLiveExpiry {index : Nat} {s : State} {t : State} (h : execTimeToLiveExpiry index s = .next t) : changesOnly [.kv, .head, .req, .ptn, .net] s t := by
  have hw := co_refl [.kv, .head, .req, .ptn, .net] s
  simp only [execTimeToLiveExpiry, okIf_next] at h
  obtain ⟨-, rfl⟩ := h
  repeat' (first | with_reducible (first | assumption | intro t x ht | intro t ht | apply co_ttlOp | apply co_hold | apply co_hostBody | apply co_takeToken) | decide | split | dsimp only)
theorem co_execIdleThresholdExpiry {index : Nat} {s : State} {t : State} (h : execIdleThresholdExpiry index s = .next t) : changesOnly [.req] s t := by
  have hw := co_refl [.req] s
  simp only [execIdleThresholdExpiry, okIf_next] at h
  obtain ⟨-, rfl⟩ := h
  repeat' (first | with_reducible (first | assumption | intro t x ht | intro t ht | apply co_idleOp | apply co_hold | apply co_hostBody | apply co_takeToken) | decide | split | dsimp only)
theorem co_execPauseMoveComplete {index : Nat} {s : State} {t : State} (h : execPauseMoveComplete index s = .next t) : changesOnly [.kv, .req, .ptn, .net] s t := by
  have hw := co_refl [.kv, .req, .ptn, .net] s
  simp only [execPauseMoveComplete, okIf_next] at h
  obtain ⟨-, rfl⟩ := h
  repeat' (first | with_reducible (first | assumption | intro t x ht | intro t ht | apply co_pauseDone | apply co_hold | apply co_hostBody | apply co_takeToken) | decide | split | dsimp only)
theorem co_execResumeMoveComplete {index : Nat} {s : State} {t : State} (h : execResumeMoveComplete index s = .next t) : changesOnly [.kv, .head, .req] s t := by
  have hw := co_refl [.kv, .head, .req] s
  simp only [execResumeMoveComplete, okIf_next] at h
  obtain ⟨-, rfl⟩ := h
  repeat' (first | with_reducible (first | assumption | intro t x ht | intro t ht | apply co_resumeDone | apply co_hold | apply co_hostBody | apply co_takeToken) | decide | split | dsimp only)
theorem co_execFrameScrubComplete {ptn frame : Nat} {far : Bool} {s : State} {t : State} (h : execFrameScrubComplete ptn frame far s = .next t) : changesOnly [.kv, .head, .req] s t := by
  have hw := co_refl [.kv, .head, .req] s
  simp only [execFrameScrubComplete, okIf_next] at h
  obtain ⟨-, rfl⟩ := h
  repeat' (first | with_reducible (first | assumption | intro t x ht | intro t ht | apply co_scrubbed | apply co_hold | apply co_hostBody | apply co_takeToken) | decide | split | dsimp only)
theorem co_execLoadDrainExpiry {canvas : Nat} {s : State} {t : State} (h : execLoadDrainExpiry canvas s = .next t) : changesOnly [.seq, .sch, .kv, .head, .req, .ptn, .net] s t := by
  have hw := co_refl [.seq, .sch, .kv, .head, .req, .ptn, .net] s
  simp only [execLoadDrainExpiry, okIf_next] at h
  obtain ⟨-, rfl⟩ := h
  repeat' (first | with_reducible (first | assumption | intro t x ht | intro t ht | apply co_loadDrain | apply co_hold | apply co_hostBody | apply co_takeToken) | decide | split | dsimp only)
theorem co_execLeaseTest {s : State} {t : State} (h : execLeaseTest s = .next t) : changesOnly [.ptn, .net, .evr] s t := by
  have hw := co_refl [.ptn, .net, .evr] s
  simp only [execLeaseTest, Host.Outcome.next.injEq] at h
  obtain rfl := h
  repeat' (first | with_reducible (first | assumption | intro t x ht | intro t ht | apply co_leaseTest | apply co_hold | apply co_hostBody | apply co_takeToken) | decide | split | dsimp only)
theorem co_execGraceExpiry {ses : Nat} {s : State} {t : State} (h : execGraceExpiry ses s = .next t) : changesOnly [.seq, .sch, .kv, .head, .req, .ptn, .net, .evr] s t := by
  have hw := co_refl [.seq, .sch, .kv, .head, .req, .ptn, .net, .evr] s
  simp only [execGraceExpiry, okIf_next] at h
  obtain ⟨-, rfl⟩ := h
  repeat' (first | with_reducible (first | assumption | intro t x ht | intro t ht | apply co_graceOver | apply co_hold | apply co_hostBody | apply co_takeToken) | decide | split | dsimp only)
theorem co_execTokensSend {index : Nat} {s : State} {t : State} (h : execTokensSend index s = .next t) : changesOnly [.req, .ptn, .net] s t := by
  have hw := co_refl [.req, .ptn, .net] s
  simp only [execTokensSend, okIf_next] at h
  obtain ⟨-, rfl⟩ := h
  repeat' (first | with_reducible (first | assumption | intro t x ht | intro t ht | apply co_sendTokens | apply co_hold | apply co_hostBody | apply co_takeToken) | decide | split | dsimp only)
theorem co_execEventCoalesceExpiry {ptn : Nat} {s : State} {t : State} (h : execEventCoalesceExpiry ptn s = .next t) : changesOnly [.ptn, .net] s t := by
  have hw := co_refl [.ptn, .net] s
  simp only [execEventCoalesceExpiry, okIf_next] at h
  obtain ⟨-, rfl⟩ := h
  repeat' (first | with_reducible (first | assumption | intro t x ht | intro t ht | apply co_flushEvents | apply co_hold | apply co_hostBody | apply co_takeToken) | decide | split | dsimp only)
theorem co_execDataSegmentReceive {g : Segment} {s : State} {t : State} (h : execDataSegmentReceive g s = .next t) : changesOnly [.net] s t := by
  have hw := co_refl [.net] s
  simp only [execDataSegmentReceive, okIf_next] at h
  obtain ⟨-, rfl⟩ := h
  repeat' (first | with_reducible (first | assumption | intro t x ht | intro t ht | apply co_bufferFill | apply co_segIn | apply co_modSes | apply co_hold | apply co_hostBody | apply co_takeToken) | decide | split | dsimp only)
theorem co_execAckReceive {a : AckInfo} {s : State} {t : State} (h : execAckReceive a s = .next t) : changesOnly [.ptn, .net] s t := by
  have hw := co_refl [.ptn, .net] s
  simp only [execAckReceive, okIf_next] at h
  obtain ⟨-, rfl⟩ := h
  repeat' (first | with_reducible (first | assumption | intro t x ht | intro t ht | apply co_segIn | apply co_takeAck | apply co_hold | apply co_hostBody | apply co_takeToken) | decide | split | dsimp only)
theorem co_execAckTimer {ses path : Nat} {s : State} {t : State} (h : execAckTimer ses path s = .next t) : changesOnly [.net] s t := by
  have hw := co_refl [.net] s
  simp only [execAckTimer, okIf_next] at h
  obtain ⟨-, rfl⟩ := h
  repeat' (first | with_reducible (first | assumption | intro t x ht | intro t ht | apply co_modSes | apply co_hold | apply co_hostBody | apply co_takeToken) | decide | split | dsimp only)
theorem co_execRetransmitTimeout {ses seq : Nat} {s : State} {t : State} (h : execRetransmitTimeout ses seq s = .next t) : changesOnly [.ptn, .net] s t := by
  have hw := co_refl [.ptn, .net] s
  simp only [execRetransmitTimeout, okIf_next] at h
  obtain ⟨-, rfl⟩ := h
  repeat' (first | with_reducible (first | assumption | intro t x ht | intro t ht | apply co_retransmit | apply co_hold | apply co_hostBody | apply co_takeToken) | decide | split | dsimp only)
theorem co_execHsInit {m : HsInit} {s : State} {t : State} (h : execHsInit m s = .next t) : changesOnly [.net, .sec, .evr, .dev] s t := by
  have hw := co_refl [.net, .sec, .evr, .dev] s
  simp only [execHsInit, okIf_next] at h
  obtain ⟨-, rfl⟩ := h
  repeat' (first | with_reducible (first | assumption | intro t x ht | intro t ht | apply co_hsInit | apply co_hold | apply co_hostBody | apply co_takeToken) | decide | split | dsimp only)
theorem co_execHsKey {port hsid : Nat} {sigOk : Bool} {secret : Nat} {s : State} {t : State} (h : execHsKey port hsid sigOk secret s = .next t) : changesOnly [.req, .ptn, .net, .sec, .evr, .dev] s t := by
  have hw := co_refl [.req, .ptn, .net, .sec, .evr, .dev] s
  simp only [execHsKey, okIf_next] at h
  obtain ⟨-, rfl⟩ := h
  repeat' (first | with_reducible (first | assumption | intro t x ht | intro t ht | apply co_hsKey | apply co_hold | apply co_hostBody | apply co_takeToken) | decide | split | dsimp only)
theorem co_execHandshakeTimeout {hsid : Nat} {s : State} {t : State} (h : execHandshakeTimeout hsid s = .next t) : changesOnly [.net, .sec] s t := by
  have hw := co_refl [.net, .sec] s
  simp only [execHandshakeTimeout, okIf_next] at h
  obtain ⟨-, rfl⟩ := h
  repeat' (first | with_reducible (first | assumption | intro t x ht | intro t ht | apply co_dropShake | apply co_hold | apply co_hostBody | apply co_takeToken) | decide | split | (fail_if_no_progress with_reducible apply co_set_sec) | dsimp only)
theorem co_execProbe {g : Segment} {pnum : Nat} {s : State} {t : State} (h : execProbe g pnum s = .next t) : changesOnly [.ptn, .net] s t := by
  have hw := co_refl [.ptn, .net] s
  simp only [execProbe, okIf_next] at h
  obtain ⟨-, rfl⟩ := h
  repeat' (first | with_reducible (first | assumption | intro t x ht | intro t ht | apply co_segIn | apply co_takeProbe | apply co_hold | apply co_hostBody | apply co_takeToken) | decide | split | dsimp only)
theorem co_execProbeAck {g : Segment} {pnum : Nat} {s : State} {t : State} (h : execProbeAck g pnum s = .next t) : changesOnly [.ptn, .net] s t := by
  have hw := co_refl [.ptn, .net] s
  simp only [execProbeAck, okIf_next] at h
  obtain ⟨-, rfl⟩ := h
  repeat' (first | with_reducible (first | assumption | intro t x ht | intro t ht | apply co_segIn | apply co_takeProbeAck | apply co_hold | apply co_hostBody | apply co_takeToken) | decide | split | dsimp only)
theorem co_execPathProbeTimer {ses net : Nat} {s : State} {t : State} (h : execPathProbeTimer ses net s = .next t) : changesOnly [.net] s t := by
  have hw := co_refl [.net] s
  simp only [execPathProbeTimer, okIf_next] at h
  obtain ⟨-, rfl⟩ := h
  repeat' (first | with_reducible (first | assumption | intro t x ht | intro t ht | apply co_pathProbe | apply co_hold | apply co_hostBody | apply co_takeToken) | decide | split | dsimp only)
theorem co_execClose {g : Segment} {reason : Nat} {keep : Bool} {s : State} {t : State} (h : execClose g reason keep s = .next t) : changesOnly [.seq, .sch, .kv, .head, .req, .ptn, .net, .evr] s t := by
  have hw := co_refl [.seq, .sch, .kv, .head, .req, .ptn, .net, .evr] s
  simp only [execClose, okIf_next] at h
  obtain ⟨-, rfl⟩ := h
  repeat' (first | with_reducible (first | assumption | intro t x ht | intro t ht | apply co_segIn | apply co_takeClose | apply co_hold | apply co_hostBody | apply co_takeToken) | decide | split | dsimp only)
theorem co_execPortLinkLoss {port : Nat} {s : State} {t : State} (h : execPortLinkLoss port s = .next t) : changesOnly [.ptn, .net, .evr] s t := by
  have hw := co_refl [.ptn, .net, .evr] s
  simp only [execPortLinkLoss, okIf_next] at h
  obtain ⟨-, rfl⟩ := h
  repeat' (first | with_reducible (first | assumption | intro t x ht | intro t ht | apply co_portLoss | apply co_hold | apply co_hostBody | apply co_takeToken) | decide | split | dsimp only)
theorem co_execNonfenceFaultDetect {unit level cause : Nat} {s : State} {t : State} (h : execNonfenceFaultDetect unit level cause s = .next t) : changesOnly [.seq, .sch, .cnv, .ptn, .net, .hist, .sec, .evr, .dev] s t := by
  have hw := co_refl [.seq, .sch, .cnv, .ptn, .net, .hist, .sec, .evr, .dev] s
  simp only [execNonfenceFaultDetect, okIf_next] at h
  obtain ⟨-, rfl⟩ := h
  repeat' (first | with_reducible (first | assumption | intro t x ht | intro t ht | apply co_unitFailure | apply co_hold | apply co_hostBody | apply co_takeToken) | decide | split | dsimp only)
theorem co_execPortLinkUp {port : Nat} {s : State} {t : State} (h : execPortLinkUp port s = .next t) : changesOnly [.net, .evr] s t := by
  have hw := co_refl [.net, .evr] s
  simp only [execPortLinkUp, okIf_next] at h
  obtain ⟨-, rfl⟩ := h
  repeat' (first | with_reducible (first | assumption | intro t x ht | intro t ht | apply co_fire | apply co_modPort | apply co_hold | apply co_hostBody | apply co_takeToken) | decide | split | dsimp only)
theorem co_execAnnounceTimer {port : Nat} {s : State} {t : State} (h : execAnnounceTimer port s = .next t) : changesOnly [.net] s t := by
  have hw := co_refl [.net] s
  simp only [execAnnounceTimer, okIf_next] at h
  obtain ⟨-, rfl⟩ := h
  repeat' (first | with_reducible (first | assumption | intro t x ht | intro t ht | apply co_announce | apply co_hold | apply co_hostBody | apply co_takeToken) | decide | split | dsimp only)
theorem co_execSolicit {port : Nat} {s : State} {t : State} (h : execSolicit port s = .next t) : changesOnly [.net] s t := by
  have hw := co_refl [.net] s
  simp only [execSolicit, okIf_next] at h
  obtain ⟨-, rfl⟩ := h
  repeat' (first | with_reducible (first | assumption | intro t x ht | intro t ht | apply co_solicited | apply co_hold | apply co_hostBody | apply co_takeToken) | decide | split | dsimp only)
theorem co_execLldpTimer {port : Nat} {s : State} {t : State} (h : execLldpTimer port s = .next t) : changesOnly [.net] s t := by
  have hw := co_refl [.net] s
  simp only [execLldpTimer, okIf_next] at h
  obtain ⟨-, rfl⟩ := h
  repeat' (first | with_reducible (first | assumption | intro t x ht | intro t ht | apply co_lldpSend | apply co_hold | apply co_hostBody | apply co_takeToken) | decide | split | dsimp only)
theorem co_execLldpReceive {port chassis portid : Nat} {s : State} {t : State} (h : execLldpReceive port chassis portid s = .next t) : changesOnly [.net, .evr] s t := by
  have hw := co_refl [.net, .evr] s
  simp only [execLldpReceive, okIf_next] at h
  obtain ⟨-, rfl⟩ := h
  repeat' (first | with_reducible (first | assumption | intro t x ht | intro t ht | apply co_lldpTake | apply co_hold | apply co_hostBody | apply co_takeToken) | decide | split | dsimp only)
theorem co_execPfcPauseReceive {port prio quanta : Nat} {s : State} {t : State} (h : execPfcPauseReceive port prio quanta s = .next t) : changesOnly [.net] s t := by
  have hw := co_refl [.net] s
  simp only [execPfcPauseReceive, okIf_next] at h
  obtain ⟨-, rfl⟩ := h
  repeat' (first | with_reducible (first | assumption | intro t x ht | intro t ht | apply co_modPort | apply co_hold | apply co_hostBody | apply co_takeToken) | decide | split | dsimp only)
theorem co_execPfcReceiveBufferDrain {port percent : Nat} {s : State} {t : State} (h : execPfcReceiveBufferDrain port percent s = .next t) : changesOnly [.net] s t := by
  have hw := co_refl [.net] s
  simp only [execPfcReceiveBufferDrain, okIf_next] at h
  obtain ⟨-, rfl⟩ := h
  repeat' (first | with_reducible (first | assumption | intro t x ht | intro t ht | apply co_modPort | apply co_hold | apply co_hostBody | apply co_takeToken) | decide | split | dsimp only)
theorem co_execMkaFrameReceive {port : Nat} {up : Bool} {s : State} {t : State} (h : execMkaFrameReceive port up s = .next t) : changesOnly [.net, .evr] s t := by
  have hw := co_refl [.net, .evr] s
  simp only [execMkaFrameReceive, okIf_next] at h
  obtain ⟨-, rfl⟩ := h
  repeat' (first | with_reducible (first | assumption | intro t x ht | intro t ht | apply co_fire | apply co_modPort | apply co_hold | apply co_hostBody | apply co_takeToken) | decide | split | dsimp only)
theorem co_execIpv6NeighbourDiscovery {port : Nat} {solicitation : Bool} {prefix_ : Nat} {plen : Nat} {s : State} {t : State} (h : execIpv6NeighbourDiscovery port solicitation prefix_ plen s = .next t) : changesOnly [.net] s t := by
  have hw := co_refl [.net] s
  simp only [execIpv6NeighbourDiscovery, okIf_next] at h
  obtain ⟨-, rfl⟩ := h
  repeat' (first | with_reducible (first | assumption | intro t x ht | intro t ht | apply co_neighbour | apply co_hold | apply co_hostBody | apply co_takeToken) | decide | split | dsimp only)
theorem co_execFwStage {h : Hdr} {cls imgCls svn : Nat} {sigOk raise : Bool} {rlo rhi wr meas : Nat} {s : State} {t : State} (h : execFwStage h cls imgCls svn sigOk raise rlo rhi wr meas s = .next t) : changesOnly [.cnv, .ptn, .net, .sec, .evr] s t := by
  have hw := co_refl [.cnv, .ptn, .net, .sec, .evr] s
  simp only [execFwStage, hostCmdSafe, okIf_next] at h
  obtain ⟨-, rfl⟩ := h
  repeat' (first | with_reducible (first | assumption | intro t x ht | intro t ht | apply co_fwStageOp | apply co_raise | apply co_hold | apply co_hostBody | apply co_takeToken) | decide | split | dsimp only)
theorem co_execFwUpdate {h : Hdr} {cls : Nat} {s : State} {t : State} (h : execFwUpdate h cls s = .next t) : changesOnly [.cnv, .ptn, .net, .sec] s t := by
  have hw := co_refl [.cnv, .ptn, .net, .sec] s
  simp only [execFwUpdate, hostCmd, okIf_next] at h
  obtain ⟨-, rfl⟩ := h
  repeat' (first | with_reducible (first | assumption | intro t x ht | intro t ht | apply co_fwUpdateOp | apply co_reply | apply co_hold | apply co_hostBody | apply co_takeToken) | decide | split | dsimp only)
theorem co_execFwProvisionalEnd {s : State} {t : State} (h : execFwProvisionalEnd s = .next t) : changesOnly [.net, .sec, .evr] s t := by
  have hw := co_refl [.net, .sec, .evr] s
  simp only [execFwProvisionalEnd, Host.Outcome.next.injEq] at h
  obtain rfl := h
  repeat' (first | with_reducible (first | assumption | intro t x ht | intro t ht | apply co_provisionalEnd | apply co_hold | apply co_hostBody | apply co_takeToken) | decide | split | dsimp only)
theorem co_execFwRevert {s : State} {t : State} (h : execFwRevert s = .next t) : changesOnly [.seq, .sch, .cnv, .net, .hist, .sec, .evr] s t := by
  have hw := co_refl [.seq, .sch, .cnv, .net, .hist, .sec, .evr] s
  simp only [execFwRevert, Host.Outcome.next.injEq] at h
  obtain rfl := h
  repeat' (first | with_reducible (first | assumption | intro t x ht | intro t ht | apply co_updRevert | apply co_hold | apply co_hostBody | apply co_takeToken) | decide | split | dsimp only)
theorem co_execFwFloor {h : Hdr} {cls : Nat} {s : State} {t : State} (h : execFwFloor h cls s = .next t) : changesOnly [.cnv, .ptn, .net, .sec] s t := by
  have hw := co_refl [.cnv, .ptn, .net, .sec] s
  simp only [execFwFloor, hostCmd, okIf_next] at h
  obtain ⟨-, rfl⟩ := h
  repeat' (first | with_reducible (first | assumption | intro t x ht | intro t ht | apply co_replyOutcome | apply co_modFw | apply co_reply | apply co_hold | apply co_hostBody | apply co_takeToken) | decide | split | dsimp only)
theorem co_execFwActivate {h : Hdr} {cls : Nat} {s : State} {t : State} (h : execFwActivate h cls s = .next t) : changesOnly [.cnv, .ptn, .net, .sec] s t := by
  have hw := co_refl [.cnv, .ptn, .net, .sec] s
  simp only [execFwActivate, hostCmdSafe, okIf_next] at h
  obtain ⟨-, rfl⟩ := h
  repeat' (first | with_reducible (first | assumption | intro t x ht | intro t ht | apply co_fwActivateOp | apply co_reply | apply co_hold | apply co_hostBody | apply co_takeToken) | decide | split | dsimp only)
theorem co_execFirmwareWatchdog {cls unit : Nat} {s : State} {t : State} (h : execFirmwareWatchdog cls unit s = .next t) : changesOnly [.seq, .sch, .cnv, .ptn, .net, .hist, .sec, .evr, .dev] s t := by
  have hw := co_refl [.seq, .sch, .cnv, .ptn, .net, .hist, .sec, .evr, .dev] s
  simp only [execFirmwareWatchdog, okIf_next] at h
  obtain ⟨-, rfl⟩ := h
  repeat' (first | with_reducible (first | assumption | intro t x ht | intro t ht | apply co_fwWatchdog | apply co_hold | apply co_hostBody | apply co_takeToken) | decide | split | dsimp only)
theorem co_execClaim {h : Hdr} {key : Nat} {s : State} {t : State} (h : execClaim h key s = .next t) : changesOnly [.cnv, .ptn, .net, .sec, .evr] s t := by
  have hw := co_refl [.cnv, .ptn, .net, .sec, .evr] s
  simp only [execClaim, hostCmd, okIf_next] at h
  obtain ⟨-, rfl⟩ := h
  repeat' (first | with_reducible (first | assumption | intro t x ht | intro t ht | apply co_claimOp | apply co_hold | apply co_hostBody | apply co_takeToken) | decide | split | dsimp only)
theorem co_execOwnerRotate {h : Hdr} {key : Nat} {sigOk : Bool} {s : State} {t : State} (h : execOwnerRotate h key sigOk s = .next t) : changesOnly [.cnv, .ptn, .net, .sec, .evr] s t := by
  have hw := co_refl [.cnv, .ptn, .net, .sec, .evr] s
  simp only [execOwnerRotate, hostCmd, okIf_next] at h
  obtain ⟨-, rfl⟩ := h
  repeat' (first | with_reducible (first | assumption | intro t x ht | intro t ht | apply co_ownerRotateOp | apply co_hold | apply co_hostBody | apply co_takeToken) | decide | split | dsimp only)
theorem co_execRelease {h : Hdr} {sigOk : Bool} {s : State} {t : State} (h : execRelease h sigOk s = .next t) : changesOnly [.cnv, .ptn, .net, .sec, .evr] s t := by
  have hw := co_refl [.cnv, .ptn, .net, .sec, .evr] s
  simp only [execRelease, okIf_next] at h
  obtain ⟨-, rfl⟩ := h
  repeat' (first | with_reducible (first | assumption | intro t x ht | intro t ht | apply co_hostBody | apply co_releaseOp | apply co_hold | apply co_takeToken) | decide | split | dsimp only)
theorem co_execKeyRotate {h : Hdr} {s : State} {t : State} (h : execKeyRotate h s = .next t) : changesOnly [.cnv, .ptn, .net, .sec, .evr] s t := by
  have hw := co_refl [.cnv, .ptn, .net, .sec, .evr] s
  simp only [execKeyRotate, hostCmd, okIf_next] at h
  obtain ⟨-, rfl⟩ := h
  repeat' (first | with_reducible (first | assumption | intro t x ht | intro t ht | apply co_keyRotateOp | apply co_hold | apply co_hostBody | apply co_takeToken) | decide | split | dsimp only)
theorem co_execCfgWrite {h : Hdr} {sigOk : Bool} {svn : Nat} {owner : List Nat} {s : State} {t : State} (h : execCfgWrite h sigOk svn owner s = .next t) : changesOnly [.cnv, .ptn, .net, .sec, .evr] s t := by
  have hw := co_refl [.cnv, .ptn, .net, .sec, .evr] s
  simp only [execCfgWrite, hostCmd, okIf_next] at h
  obtain ⟨-, rfl⟩ := h
  repeat' (first | with_reducible (first | assumption | intro t x ht | intro t ht | apply co_cfgWriteOp | apply co_hold | apply co_hostBody | apply co_takeToken) | decide | split | dsimp only)
theorem co_execCfgResolve {h : Hdr} {copy : Nat} {copyOk : Bool} {s : State} {t : State} (h : execCfgResolve h copy copyOk s = .next t) : changesOnly [.cnv, .ptn, .net, .sec] s t := by
  have hw := co_refl [.cnv, .ptn, .net, .sec] s
  simp only [execCfgResolve, hostCmdSafe, okIf_next] at h
  obtain ⟨-, rfl⟩ := h
  repeat' (first | with_reducible (first | assumption | intro t x ht | intro t ht | apply co_cfgResolveOp | apply co_hold | apply co_hostBody | apply co_takeToken) | decide | split | dsimp only)
theorem co_execAttest {h : Hdr} {nonce : Nat} {s : State} {t : State} (h : execAttest h nonce s = .next t) : changesOnly [.cnv, .ptn, .net, .sec] s t := by
  have hw := co_refl [.cnv, .ptn, .net, .sec] s
  simp only [execAttest, okIf_next] at h
  obtain ⟨-, rfl⟩ := h
  repeat' (first | with_reducible (first | assumption | intro t x ht | intro t ht | apply co_hostBody | apply co_attestOp | apply co_hold | apply co_takeToken) | decide | split | dsimp only)
theorem co_execRecordWrite {s : State} {t : State} (h : execRecordWrite s = .next t) : changesOnly [.evr] s t := by
  have hw := co_refl [.evr] s
  simp only [execRecordWrite, Host.Outcome.next.injEq] at h
  obtain rfl := h
  repeat' (first | with_reducible (first | assumption | intro t x ht | intro t ht | apply co_recordNext | apply co_hold | apply co_hostBody | apply co_takeToken) | decide | split | dsimp only)
theorem co_execRecorderCommit {s : State} {t : State} (h : execRecorderCommit s = .next t) : changesOnly [.evr] s t := by
  have hw := co_refl [.evr] s
  simp only [execRecorderCommit, Host.Outcome.next.injEq] at h
  obtain rfl := h
  repeat' (first | with_reducible (first | assumption | intro t x ht | intro t ht | apply co_evrCommit | apply co_hold | apply co_hostBody | apply co_takeToken) | decide | split | dsimp only)
theorem co_execRecorderClearEnd {s : State} {t : State} (h : execRecorderClearEnd s = .next t) : changesOnly [.evr] s t := by
  have hw := co_refl [.evr] s
  simp only [execRecorderClearEnd, Host.Outcome.next.injEq] at h
  obtain rfl := h
  repeat' (first | with_reducible (first | assumption | intro t x ht | intro t ht | apply co_clearEnd | apply co_hold | apply co_hostBody | apply co_takeToken) | decide | split | dsimp only)
theorem co_execHoldNAssert {s : State} {t : State} (h : execHoldNAssert s = .next t) : changesOnly [.arr, .seq, .sch, .cnv, .ptn, .net, .hist, .sec, .pwr, .evr, .brd, .dev] s t := by
  have hw := co_refl [.arr, .seq, .sch, .cnv, .ptn, .net, .hist, .sec, .pwr, .evr, .brd, .dev] s
  simp only [execHoldNAssert, Host.Outcome.next.injEq] at h
  obtain rfl := h
  repeat' (first | with_reducible (first | assumption | intro t x ht | intro t ht | apply co_holdOn | apply co_hold | apply co_hostBody | apply co_takeToken) | decide | split | dsimp only)
theorem co_execHoldNRelease {s : State} {t : State} (h : execHoldNRelease s = .next t) : changesOnly [.pwr, .evr, .dev] s t := by
  have hw := co_refl [.pwr, .evr, .dev] s
  simp only [execHoldNRelease, Host.Outcome.next.injEq] at h
  obtain rfl := h
  repeat' (first | with_reducible (first | assumption | intro t x ht | intro t ht | apply co_holdOff | apply co_hold | apply co_hostBody | apply co_takeToken) | decide | split | dsimp only)
theorem co_execHoldQuiesceTimeout {s : State} {t : State} (h : execHoldQuiesceTimeout s = .next t) : changesOnly [.seq, .sch, .cnv, .hist, .pwr] s t := by
  have hw := co_refl [.seq, .sch, .cnv, .hist, .pwr] s
  simp only [execHoldQuiesceTimeout, Host.Outcome.next.injEq] at h
  obtain rfl := h
  repeat' (first | with_reducible (first | assumption | intro t x ht | intro t ht | apply co_holdQuiesce | apply co_hold | apply co_hostBody | apply co_takeToken) | decide | split | dsimp only)
theorem co_execPwrwarnNAssert {s : State} {t : State} (h : execPwrwarnNAssert s = .next t) : changesOnly [.arr, .glz, .seq, .sch, .cnv, .hist, .pwr, .evr, .brd, .dev] s t := by
  have hw := co_refl [.arr, .glz, .seq, .sch, .cnv, .hist, .pwr, .evr, .brd, .dev] s
  simp only [execPwrwarnNAssert, Host.Outcome.next.injEq] at h
  obtain rfl := h
  repeat' (first | with_reducible (first | assumption | intro t x ht | intro t ht | apply co_fire | apply co_warnOn | apply co_hold | apply co_hostBody | apply co_takeToken) | decide | split | (fail_if_no_progress with_reducible apply co_set_pwr) | dsimp only)
theorem co_execPwrwarnNRelease {s : State} {t : State} (h : execPwrwarnNRelease s = .next t) : changesOnly [.pwr, .evr, .dev] s t := by
  have hw := co_refl [.pwr, .evr, .dev] s
  simp only [execPwrwarnNRelease, Host.Outcome.next.injEq] at h
  obtain rfl := h
  repeat' (first | with_reducible (first | assumption | intro t x ht | intro t ht | apply co_warnOff | apply co_hold | apply co_hostBody | apply co_takeToken) | decide | split | (fail_if_no_progress with_reducible apply co_set_pwr) | dsimp only)
theorem co_execInputOvervoltage {mv : Nat} {s : State} {t : State} (h : execInputOvervoltage mv s = .next t) : changesOnly [.arr, .core, .glz, .seq, .sch, .kv, .head, .req, .cnv, .ptn, .net, .hist, .cal, .sec, .pwr, .evr, .brd, .dev] s t := by
  have hw := co_refl [.arr, .core, .glz, .seq, .sch, .kv, .head, .req, .cnv, .ptn, .net, .hist, .cal, .sec, .pwr, .evr, .brd, .dev] s
  simp only [execInputOvervoltage, Host.Outcome.next.injEq] at h
  obtain rfl := h
  repeat' (first | with_reducible (first | assumption | intro t x ht | intro t ht | apply co_overvolt | apply co_hold | apply co_hostBody | apply co_takeToken) | decide | split | dsimp only)
theorem co_execInputStageDisconnect {mv : Nat} {s : State} {t : State} (h : execInputStageDisconnect mv s = .next t) : changesOnly [.arr, .core, .glz, .seq, .sch, .kv, .head, .req, .cnv, .ptn, .net, .hist, .cal, .sec, .pwr, .evr, .brd, .dev] s t := by
  have hw := co_refl [.arr, .core, .glz, .seq, .sch, .kv, .head, .req, .cnv, .ptn, .net, .hist, .cal, .sec, .pwr, .evr, .brd, .dev] s
  simp only [execInputStageDisconnect, Host.Outcome.next.injEq] at h
  obtain rfl := h
  repeat' (first | with_reducible (first | assumption | intro t x ht | intro t ht | apply co_disconnect | apply co_hold | apply co_hostBody | apply co_takeToken) | decide | split | dsimp only)
theorem co_execInputReconnect {mv : Nat} {s : State} {t : State} (h : execInputReconnect mv s = .next t) : changesOnly [.pwr] s t := by
  have hw := co_refl [.pwr] s
  simp only [execInputReconnect, Host.Outcome.next.injEq] at h
  obtain rfl := h
  repeat' (first | with_reducible (first | assumption | intro t x ht | intro t ht | apply co_hold | apply co_hostBody | apply co_takeToken) | decide | split | (fail_if_no_progress with_reducible apply co_set_pwr) | dsimp only)
theorem co_execInputUndervoltage {mv : Nat} {s : State} {t : State} (h : execInputUndervoltage mv s = .next t) : changesOnly [.arr, .glz, .seq, .sch, .cnv, .hist, .pwr, .evr, .brd, .dev] s t := by
  have hw := co_refl [.arr, .glz, .seq, .sch, .cnv, .hist, .pwr, .evr, .brd, .dev] s
  simp only [execInputUndervoltage, Host.Outcome.next.injEq] at h
  obtain rfl := h
  repeat' (first | with_reducible (first | assumption | intro t x ht | intro t ht | apply co_undervolt | apply co_hold | apply co_hostBody | apply co_takeToken) | decide | split | dsimp only)
theorem co_execInputUvRelease {mv : Nat} {s : State} {t : State} (h : execInputUvRelease mv s = .next t) : changesOnly [.pwr, .evr, .dev] s t := by
  have hw := co_refl [.pwr, .evr, .dev] s
  simp only [execInputUvRelease, Host.Outcome.next.injEq] at h
  obtain rfl := h
  repeat' (first | with_reducible (first | assumption | intro t x ht | intro t ht | apply co_seeInput | apply co_warnOff | apply co_hold | apply co_hostBody | apply co_takeToken) | decide | split | (fail_if_no_progress with_reducible apply co_set_pwr) | dsimp only)
theorem co_execInputLockout {mv : Nat} {s : State} {t : State} (h : execInputLockout mv s = .next t) : changesOnly [.arr, .core, .glz, .seq, .sch, .kv, .head, .req, .cnv, .ptn, .net, .hist, .cal, .sec, .pwr, .evr, .brd, .dev] s t := by
  have hw := co_refl [.arr, .core, .glz, .seq, .sch, .kv, .head, .req, .cnv, .ptn, .net, .hist, .cal, .sec, .pwr, .evr, .brd, .dev] s
  simp only [execInputLockout, Host.Outcome.next.injEq] at h
  obtain rfl := h
  repeat' (first | with_reducible (first | assumption | intro t x ht | intro t ht | apply co_railsOff | apply co_hold | apply co_hostBody | apply co_takeToken) | decide | split | dsimp only)
theorem co_execInputApplied {mv : Nat} {s : State} {t : State} (h : execInputApplied mv s = .next t) : changesOnly [.pwr, .brd] s t := by
  have hw := co_refl [.pwr, .brd] s
  simp only [execInputApplied, Host.Outcome.next.injEq] at h
  obtain rfl := h
  repeat' (first | with_reducible (first | assumption | intro t x ht | intro t ht | apply co_seeInput | apply co_hold | apply co_hostBody | apply co_takeToken) | decide | split | (fail_if_no_progress with_reducible apply co_set_pwr_brd) | dsimp only)
theorem co_execModuleRemoval {s : State} {t : State} (h : execModuleRemoval s = .next t) : changesOnly [.arr, .core, .glz, .seq, .sch, .kv, .head, .req, .cnv, .ptn, .net, .hist, .cal, .sec, .pwr, .evr, .brd, .dev] s t := by
  have hw := co_refl [.arr, .core, .glz, .seq, .sch, .kv, .head, .req, .cnv, .ptn, .net, .hist, .cal, .sec, .pwr, .evr, .brd, .dev] s
  simp only [execModuleRemoval, Host.Outcome.next.injEq] at h
  obtain rfl := h
  repeat' (first | with_reducible (first | assumption | intro t x ht | intro t ht | apply co_railsOff | apply co_hold | apply co_hostBody | apply co_takeToken) | decide | split | (fail_if_no_progress with_reducible apply co_set_brd) | dsimp only)
theorem co_execStandbyReadingRefresh {mv ma10 : Nat} {board : List (Int × Bool)} {s : State} {t : State} (h : execStandbyReadingRefresh mv ma10 board s = .next t) : changesOnly [.pwr] s t := by
  have hw := co_refl [.pwr] s
  simp only [execStandbyReadingRefresh, okIf_next] at h
  obtain ⟨-, rfl⟩ := h
  repeat' (first | with_reducible (first | assumption | intro t x ht | intro t ht | apply co_standbyRead | apply co_hold | apply co_hostBody | apply co_takeToken) | decide | split | dsimp only)
theorem co_execThermalComparatorTrip {unit : Nat} {s : State} {t : State} (h : execThermalComparatorTrip unit s = .next t) : changesOnly [.arr, .core, .glz, .seq, .sch, .kv, .head, .req, .cnv, .ptn, .net, .hist, .cal, .sec, .pwr, .evr, .brd, .dev] s t := by
  have hw := co_refl [.arr, .core, .glz, .seq, .sch, .kv, .head, .req, .cnv, .ptn, .net, .hist, .cal, .sec, .pwr, .evr, .brd, .dev] s
  simp only [execThermalComparatorTrip, okIf_next] at h
  obtain ⟨-, rfl⟩ := h
  repeat' (first | with_reducible (first | assumption | intro t x ht | intro t ht | apply co_railsOff | apply co_hold | apply co_hostBody | apply co_takeToken) | decide | split | (fail_if_no_progress with_reducible apply co_set_pwr) | dsimp only)
theorem co_execDroopDetect {cluster : Nat} {mv : Nat} {s : State} {t : State} (h : execDroopDetect cluster mv s = .next t) : changesOnly [.pwr] s t := by
  have hw := co_refl [.pwr] s
  simp only [execDroopDetect, okIf_next] at h
  obtain ⟨-, rfl⟩ := h
  repeat' (first | with_reducible (first | assumption | intro t x ht | intro t ht | apply co_hold | apply co_hostBody | apply co_takeToken) | decide | split | (fail_if_no_progress with_reducible apply co_set_pwr) | dsimp only)
theorem co_execStretchEnd {cluster : Nat} {cycles : Nat} {s : State} {t : State} (h : execStretchEnd cluster cycles s = .next t) : changesOnly [.pwr] s t := by
  have hw := co_refl [.pwr] s
  simp only [execStretchEnd, okIf_next] at h
  obtain ⟨-, rfl⟩ := h
  repeat' (first | with_reducible (first | assumption | intro t x ht | intro t ht | apply co_hold | apply co_hostBody | apply co_takeToken) | decide | split | (fail_if_no_progress with_reducible apply co_set_pwr) | dsimp only)
theorem co_execPeakLimit {watts : Nat} {s : State} {t : State} (h : execPeakLimit watts s = .next t) : changesOnly [.pwr, .evr, .brd] s t := by
  have hw := co_refl [.pwr, .evr, .brd] s
  simp only [execPeakLimit, Host.Outcome.next.injEq] at h
  obtain rfl := h
  repeat' (first | with_reducible (first | assumption | intro t x ht | intro t ht | apply co_fire | apply co_setEvents | apply co_hold | apply co_hostBody | apply co_takeToken) | decide | split | dsimp only)
theorem co_execHousekeepingChannel {ch : Nat} {value : Int} {valid : Bool} {s : State} {t : State} (h : execHousekeepingChannel ch value valid s = .next t) : changesOnly [.pwr, .evr, .brd] s t := by
  have hw := co_refl [.pwr, .evr, .brd] s
  simp only [execHousekeepingChannel, okIf_next] at h
  obtain ⟨-, rfl⟩ := h
  repeat' (first | with_reducible (first | assumption | intro t x ht | intro t ht | apply co_channelRead | apply co_hold | apply co_hostBody | apply co_takeToken) | decide | split | dsimp only)
theorem co_execHousekeepingRoundEnd {watts pump : Nat} {s : State} {t : State} (h : execHousekeepingRoundEnd watts pump s = .next t) : changesOnly [.arr, .seq, .sch, .cnv, .ptn, .net, .hist, .cal, .sec, .pwr, .evr, .brd, .dev] s t := by
  have hw := co_refl [.arr, .seq, .sch, .cnv, .ptn, .net, .hist, .cal, .sec, .pwr, .evr, .brd, .dev] s
  simp only [execHousekeepingRoundEnd, Host.Outcome.next.injEq] at h
  obtain rfl := h
  repeat' (first | with_reducible (first | assumption | intro t x ht | intro t ht | apply co_roundEnd | apply co_hold | apply co_hostBody | apply co_takeToken) | decide | split | dsimp only)
theorem co_execRegRead {h : Hdr} {addr count : Nat} {s : State} {t : State} (h : execRegRead h addr count s = .next t) : changesOnly [.cnv, .ptn, .net, .hist, .cal, .sec, .pwr, .evr] s t := by
  have hw := co_refl [.cnv, .ptn, .net, .hist, .cal, .sec, .pwr, .evr] s
  simp only [execRegRead, okIf_next] at h
  obtain ⟨-, rfl⟩ := h
  repeat' (first | with_reducible (first | assumption | intro t x ht | intro t ht | apply co_hostBody | apply co_regReadOp | apply co_hold | apply co_takeToken) | decide | split | dsimp only)
theorem co_execRegWrite {h : Hdr} {addr count : Nat} {values : List Word} {s : State} {t : State} (h : execRegWrite h addr count values s = .next t) : changesOnly [.arr, .glz, .seq, .sch, .kv, .head, .req, .cnv, .ptn, .net, .hist, .cal, .sec, .pwr, .evr, .brd, .dev] s t := by
  have hw := co_refl [.arr, .glz, .seq, .sch, .kv, .head, .req, .cnv, .ptn, .net, .hist, .cal, .sec, .pwr, .evr, .brd, .dev] s
  simp only [execRegWrite, okIf_next] at h
  obtain ⟨-, rfl⟩ := h
  repeat' (first | with_reducible (first | assumption | intro t x ht | intro t ht | apply co_hostBody | apply co_regWriteOp | apply co_hold | apply co_takeToken) | decide | split | dsimp only)
theorem co_execCalCmdAll {path : Path} {v : Word} {s : State} {t : State} (h : execCalCmdAll path v s = .next t) : changesOnly [.arr, .glz, .seq, .sch, .kv, .head, .req, .cnv, .ptn, .net, .hist, .cal, .sec, .pwr, .evr, .brd, .dev] s t := by
  have hw := co_refl [.arr, .glz, .seq, .sch, .kv, .head, .req, .cnv, .ptn, .net, .hist, .cal, .sec, .pwr, .evr, .brd, .dev] s
  simp only [execCalCmdAll, Host.Outcome.next.injEq] at h
  obtain rfl := h
  repeat' (first | with_reducible (first | assumption | intro t x ht | intro t ht | apply co_rowWrite | apply co_hold | apply co_hostBody | apply co_takeToken) | decide | split | dsimp only)
theorem co_execClear {path : Path} {v : Word} {s : State} {t : State} (h : execClear path v s = .next t) : changesOnly [.arr, .glz, .seq, .sch, .kv, .head, .req, .cnv, .ptn, .net, .hist, .cal, .sec, .pwr, .evr, .brd, .dev] s t := by
  have hw := co_refl [.arr, .glz, .seq, .sch, .kv, .head, .req, .cnv, .ptn, .net, .hist, .cal, .sec, .pwr, .evr, .brd, .dev] s
  simp only [execClear, Host.Outcome.next.injEq] at h
  obtain rfl := h
  repeat' (first | with_reducible (first | assumption | intro t x ht | intro t ht | apply co_rowWrite | apply co_hold | apply co_hostBody | apply co_takeToken) | decide | split | dsimp only)
theorem co_execSwtrig {path : Path} {v : Word} {s : State} {t : State} (h : execSwtrig path v s = .next t) : changesOnly [.arr, .glz, .seq, .sch, .kv, .head, .req, .cnv, .ptn, .net, .hist, .cal, .sec, .pwr, .evr, .brd, .dev] s t := by
  have hw := co_refl [.arr, .glz, .seq, .sch, .kv, .head, .req, .cnv, .ptn, .net, .hist, .cal, .sec, .pwr, .evr, .brd, .dev] s
  simp only [execSwtrig, Host.Outcome.next.injEq] at h
  obtain rfl := h
  repeat' (first | with_reducible (first | assumption | intro t x ht | intro t ht | apply co_rowWrite | apply co_hold | apply co_hostBody | apply co_takeToken) | decide | split | dsimp only)
theorem co_execHoldReq {path : Path} {v : Word} {s : State} {t : State} (h : execHoldReq path v s = .next t) : changesOnly [.arr, .glz, .seq, .sch, .kv, .head, .req, .cnv, .ptn, .net, .hist, .cal, .sec, .pwr, .evr, .brd, .dev] s t := by
  have hw := co_refl [.arr, .glz, .seq, .sch, .kv, .head, .req, .cnv, .ptn, .net, .hist, .cal, .sec, .pwr, .evr, .brd, .dev] s
  simp only [execHoldReq, Host.Outcome.next.injEq] at h
  obtain rfl := h
  repeat' (first | with_reducible (first | assumption | intro t x ht | intro t ht | apply co_rowWrite | apply co_hold | apply co_hostBody | apply co_takeToken) | decide | split | dsimp only)
theorem co_execPlim {path : Path} {v : Word} {s : State} {t : State} (h : execPlim path v s = .next t) : changesOnly [.arr, .glz, .seq, .sch, .kv, .head, .req, .cnv, .ptn, .net, .hist, .cal, .sec, .pwr, .evr, .brd, .dev] s t := by
  have hw := co_refl [.arr, .glz, .seq, .sch, .kv, .head, .req, .cnv, .ptn, .net, .hist, .cal, .sec, .pwr, .evr, .brd, .dev] s
  simp only [execPlim, Host.Outcome.next.injEq] at h
  obtain rfl := h
  repeat' (first | with_reducible (first | assumption | intro t x ht | intro t ht | apply co_rowWrite | apply co_hold | apply co_hostBody | apply co_takeToken) | decide | split | dsimp only)
theorem co_execPtnEnable {path : Path} {n : Nat} {v : Word} {s : State} {t : State} (h : execPtnEnable path n v s = .next t) : changesOnly [.arr, .glz, .seq, .sch, .kv, .head, .req, .cnv, .ptn, .net, .hist, .cal, .sec, .pwr, .evr, .brd, .dev] s t := by
  have hw := co_refl [.arr, .glz, .seq, .sch, .kv, .head, .req, .cnv, .ptn, .net, .hist, .cal, .sec, .pwr, .evr, .brd, .dev] s
  simp only [execPtnEnable, Host.Outcome.next.injEq] at h
  obtain rfl := h
  repeat' (first | with_reducible (first | assumption | intro t x ht | intro t ht | apply co_rowWrite | apply co_hold | apply co_hostBody | apply co_takeToken) | decide | split | dsimp only)
theorem co_execCnvEnable {path : Path} {c : Nat} {v : Word} {s : State} {t : State} (h : execCnvEnable path c v s = .next t) : changesOnly [.arr, .glz, .seq, .sch, .kv, .head, .req, .cnv, .ptn, .net, .hist, .cal, .sec, .pwr, .evr, .brd, .dev] s t := by
  have hw := co_refl [.arr, .glz, .seq, .sch, .kv, .head, .req, .cnv, .ptn, .net, .hist, .cal, .sec, .pwr, .evr, .brd, .dev] s
  simp only [execCnvEnable, Host.Outcome.next.injEq] at h
  obtain rfl := h
  repeat' (first | with_reducible (first | assumption | intro t x ht | intro t ht | apply co_rowWrite | apply co_hold | apply co_hostBody | apply co_takeToken) | decide | split | dsimp only)
theorem co_execSketchEn {path : Path} {c : Nat} {v : Word} {s : State} {t : State} (h : execSketchEn path c v s = .next t) : changesOnly [.arr, .glz, .seq, .sch, .kv, .head, .req, .cnv, .ptn, .net, .hist, .cal, .sec, .pwr, .evr, .brd, .dev] s t := by
  have hw := co_refl [.arr, .glz, .seq, .sch, .kv, .head, .req, .cnv, .ptn, .net, .hist, .cal, .sec, .pwr, .evr, .brd, .dev] s
  simp only [execSketchEn, Host.Outcome.next.injEq] at h
  obtain rfl := h
  repeat' (first | with_reducible (first | assumption | intro t x ht | intro t ht | apply co_rowWrite | apply co_hold | apply co_hostBody | apply co_takeToken) | decide | split | dsimp only)
theorem co_execAuditEn {path : Path} {v : Word} {s : State} {t : State} (h : execAuditEn path v s = .next t) : changesOnly [.arr, .glz, .seq, .sch, .kv, .head, .req, .cnv, .ptn, .net, .hist, .cal, .sec, .pwr, .evr, .brd, .dev] s t := by
  have hw := co_refl [.arr, .glz, .seq, .sch, .kv, .head, .req, .cnv, .ptn, .net, .hist, .cal, .sec, .pwr, .evr, .brd, .dev] s
  simp only [execAuditEn, Host.Outcome.next.injEq] at h
  obtain rfl := h
  repeat' (first | with_reducible (first | assumption | intro t x ht | intro t ht | apply co_rowWrite | apply co_hold | apply co_hostBody | apply co_takeToken) | decide | split | dsimp only)
theorem co_execQuery {path : Path} {v : Word} {s : State} {t : State} (h : execQuery path v s = .next t) : changesOnly [.arr, .glz, .seq, .sch, .kv, .head, .req, .cnv, .ptn, .net, .hist, .cal, .sec, .pwr, .evr, .brd, .dev] s t := by
  have hw := co_refl [.arr, .glz, .seq, .sch, .kv, .head, .req, .cnv, .ptn, .net, .hist, .cal, .sec, .pwr, .evr, .brd, .dev] s
  simp only [execQuery, Host.Outcome.next.injEq] at h
  obtain rfl := h
  repeat' (first | with_reducible (first | assumption | intro t x ht | intro t ht | apply co_rowWrite | apply co_hold | apply co_hostBody | apply co_takeToken) | decide | split | dsimp only)
theorem co_execRegisterWrite {path : Path} {addr : Nat} {v : Word} {s : State} {t : State} (h : execRegisterWrite path addr v s = .next t) : changesOnly [.arr, .glz, .seq, .sch, .kv, .head, .req, .cnv, .ptn, .net, .hist, .cal, .sec, .pwr, .evr, .brd, .dev] s t := by
  have hw := co_refl [.arr, .glz, .seq, .sch, .kv, .head, .req, .cnv, .ptn, .net, .hist, .cal, .sec, .pwr, .evr, .brd, .dev] s
  simp only [execRegisterWrite, Host.Outcome.next.injEq] at h
  obtain rfl := h
  repeat' (first | with_reducible (first | assumption | intro t x ht | intro t ht | apply co_rowWrite | apply co_hold | apply co_hostBody | apply co_takeToken) | decide | split | dsimp only)
theorem co_execAddr {pecOk : Bool} {a : Word} {s : State} {t : State} (h : execAddr pecOk a s = .next t) : changesOnly [.brd] s t := by
  have hw := co_refl [.brd] s
  simp only [execAddr, Host.Outcome.next.injEq] at h
  obtain rfl := h
  repeat' (first | with_reducible (first | assumption | intro t x ht | intro t ht | apply co_sbReg | apply co_sbAnswer | apply co_hold | apply co_hostBody | apply co_takeToken) | decide | split | (fail_if_no_progress with_reducible apply co_set_brd) | dsimp only)
theorem co_execRead {pecOk : Bool} {n : Nat} {s : State} {t : State} (h : execRead pecOk n s = .next t) : changesOnly [.cnv, .net, .hist, .cal, .sec, .pwr, .evr, .brd] s t := by
  have hw := co_refl [.cnv, .net, .hist, .cal, .sec, .pwr, .evr, .brd] s
  simp only [execRead, okIf_next] at h
  obtain ⟨-, rfl⟩ := h
  repeat' (first | with_reducible (first | assumption | intro t x ht | intro t ht | apply co_sbReg | apply co_sbRead | apply co_hold | apply co_hostBody | apply co_takeToken) | decide | split | dsimp only)
theorem co_execWrite {pecOk : Bool} {vs : List Word} {s : State} {t : State} (h : execWrite pecOk vs s = .next t) : changesOnly [.arr, .glz, .seq, .sch, .kv, .head, .req, .cnv, .ptn, .net, .hist, .cal, .sec, .pwr, .evr, .brd, .dev] s t := by
  have hw := co_refl [.arr, .glz, .seq, .sch, .kv, .head, .req, .cnv, .ptn, .net, .hist, .cal, .sec, .pwr, .evr, .brd, .dev] s
  simp only [execWrite, Host.Outcome.next.injEq] at h
  obtain rfl := h
  repeat' (first | with_reducible (first | assumption | intro t x ht | intro t ht | apply co_sbReg | apply co_sbWrite | apply co_hold | apply co_hostBody | apply co_takeToken) | decide | split | dsimp only)
theorem co_execStatus {pecOk : Bool} {s : State} {t : State} (h : execStatus pecOk s = .next t) : changesOnly [.brd] s t := by
  have hw := co_refl [.brd] s
  simp only [execStatus, Host.Outcome.next.injEq] at h
  obtain rfl := h
  repeat' (first | with_reducible (first | assumption | intro t x ht | intro t ht | apply co_sbReg | apply co_sbAnswer | apply co_hold | apply co_hostBody | apply co_takeToken) | decide | split | dsimp only)
theorem co_execRcvStatus {pecOk : Bool} {s : State} {t : State} (h : execRcvStatus pecOk s = .next t) : changesOnly [.brd] s t := by
  have hw := co_refl [.brd] s
  simp only [execRcvStatus, Host.Outcome.next.injEq] at h
  obtain rfl := h
  repeat' (first | with_reducible (first | assumption | intro t x ht | intro t ht | apply co_sbRcv | apply co_sbAnswer | apply co_hold | apply co_hostBody | apply co_takeToken) | decide | split | dsimp only)
theorem co_execRcvData {pecOk : Bool} {bytes : List Byte} {s : State} {t : State} (h : execRcvData pecOk bytes s = .next t) : changesOnly [.sec, .brd] s t := by
  have hw := co_refl [.sec, .brd] s
  simp only [execRcvData, Host.Outcome.next.injEq] at h
  obtain rfl := h
  repeat' (first | with_reducible (first | assumption | intro t x ht | intro t ht | apply co_sbRcv | apply co_rcvTake | apply co_hold | apply co_hostBody | apply co_takeToken) | decide | split | dsimp only)
theorem co_execRcvDone {pecOk : Bool} {byte : Byte} {imageOk : Bool} {s : State} {t : State} (h : execRcvDone pecOk byte imageOk s = .next t) : changesOnly [.sec, .brd, .dev, .free] s t := by
  have hw := co_refl [.sec, .brd, .dev, .free] s
  simp only [execRcvDone, Host.Outcome.next.injEq] at h
  obtain rfl := h
  repeat' (first | with_reducible (first | assumption | intro t x ht | intro t ht | apply co_sbRcv | apply co_rcvFinish | apply co_hold | apply co_hostBody | apply co_takeToken) | decide | split | dsimp only)
theorem co_execEntdaa {a : Nat} {s : State} {t : State} (h : execEntdaa a s = .next t) : changesOnly [.brd] s t := by
  have hw := co_refl [.brd] s
  simp only [execEntdaa, okIf_next] at h
  obtain ⟨-, rfl⟩ := h
  repeat' (first | with_reducible (first | assumption | intro t x ht | intro t ht | apply co_giveAddr | apply co_hold | apply co_hostBody | apply co_takeToken) | decide | split | dsimp only)
theorem co_execSetdasa {static_ dyn : Nat} {s : State} {t : State} (h : execSetdasa static_ dyn s = .next t) : changesOnly [.brd] s t := by
  have hw := co_refl [.brd] s
  simp only [execSetdasa, okIf_next] at h
  obtain ⟨-, rfl⟩ := h
  repeat' (first | with_reducible (first | assumption | intro t x ht | intro t ht | apply co_giveAddr | apply co_hold | apply co_hostBody | apply co_takeToken) | decide | split | dsimp only)
theorem co_execEnec {bits : Nat} {s : State} {t : State} (h : execEnec bits s = .next t) : changesOnly [.brd] s t := by
  have hw := co_refl [.brd] s
  simp only [execEnec, okIf_next] at h
  obtain ⟨-, rfl⟩ := h
  repeat' (first | with_reducible (first | assumption | intro t x ht | intro t ht | apply co_hold | apply co_hostBody | apply co_takeToken) | decide | split | (fail_if_no_progress with_reducible apply co_set_brd) | dsimp only)
theorem co_execSmbusClockLowTimeout {ms : Nat} {s : State} {t : State} (h : execSmbusClockLowTimeout ms s = .next t) : changesOnly [.brd, .free] s t := by
  have hw := co_refl [.brd, .free] s
  simp only [execSmbusClockLowTimeout, Host.Outcome.next.injEq] at h
  obtain rfl := h
  repeat' (first | with_reducible (first | assumption | intro t x ht | intro t ht | apply co_clockLow | apply co_hold | apply co_hostBody | apply co_takeToken) | decide | split | dsimp only)
theorem co_execTapInstructionLoad {tap : Nat} {op : Nat} {s : State} {t : State} (h : execTapInstructionLoad tap op s = .next t) : changesOnly [.brd] s t := by
  have hw := co_refl [.brd] s
  simp only [execTapInstructionLoad, okIf_next] at h
  obtain ⟨-, rfl⟩ := h
  repeat' (first | with_reducible (first | assumption | intro t x ht | intro t ht | apply co_tapLoad | apply co_hold | apply co_hostBody | apply co_takeToken) | decide | split | dsimp only)
theorem co_execTrstNAssert {s : State} {t : State} (h : execTrstNAssert s = .next t) : changesOnly [.brd] s t := by
  have hw := co_refl [.brd] s
  simp only [execTrstNAssert, Host.Outcome.next.injEq] at h
  obtain rfl := h
  repeat' (first | with_reducible (first | assumption | intro t x ht | intro t ht | apply co_hold | apply co_hostBody | apply co_takeToken) | decide | split | (fail_if_no_progress with_reducible apply co_set_brd) | dsimp only)
theorem co_execPwrEnAssert {s : State} {t : State} (h : execPwrEnAssert s = .next t) : changesOnly [.clk, .pwr, .brd, .dev] s t := by
  have hw := co_refl [.clk, .pwr, .brd, .dev] s
  simp only [execPwrEnAssert, Host.Outcome.next.injEq] at h
  obtain rfl := h
  repeat' (first | with_reducible (first | assumption | intro t x ht | intro t ht | apply co_pwrEnOn | apply co_hold | apply co_hostBody | apply co_takeToken) | decide | split | dsimp only)
theorem co_execPowerGood {ok : Bool} {s : State} {t : State} (h : execPowerGood ok s = .next t) : changesOnly [.pwr, .brd, .dev] s t := by
  have hw := co_refl [.pwr, .brd, .dev] s
  simp only [execPowerGood, Host.Outcome.next.injEq] at h
  obtain rfl := h
  repeat' (first | with_reducible (first | assumption | intro t x ht | intro t ht | apply co_setEvents | apply co_hold | apply co_hostBody | apply co_takeToken) | decide | split | (fail_if_no_progress with_reducible apply co_set_pwr_dev) | dsimp only)
theorem co_execResetNAssert {long : Bool} {s : State} {t : State} (h : execResetNAssert long s = .next t) : changesOnly [.arr, .core, .glz, .seq, .sch, .kv, .head, .req, .cnv, .ptn, .net, .hist, .cal, .sec, .pwr, .evr, .brd, .dev, .free] s t := by
  have hw := co_refl [.arr, .core, .glz, .seq, .sch, .kv, .head, .req, .cnv, .ptn, .net, .hist, .cal, .sec, .pwr, .evr, .brd, .dev, .free] s
  simp only [execResetNAssert, Host.Outcome.next.injEq] at h
  obtain rfl := h
  repeat' (first | with_reducible (first | assumption | intro t x ht | intro t ht | apply co_resetOn | apply co_hold | apply co_hostBody | apply co_takeToken) | decide | split | dsimp only)
theorem co_execResetNRelease {straps : Nat} {s : State} {t : State} (h : execResetNRelease straps s = .next t) : changesOnly [.brd, .dev] s t := by
  have hw := co_refl [.brd, .dev] s
  simp only [execResetNRelease, okIf_next] at h
  obtain ⟨-, rfl⟩ := h
  repeat' (first | with_reducible (first | assumption | intro t x ht | intro t ht | apply co_toRow | apply co_hold | apply co_hostBody | apply co_takeToken) | decide | split | (fail_if_no_progress with_reducible apply co_set_brd) | dsimp only)
theorem co_execCfgResolveReset {s : State} {t : State} (h : execCfgResolveReset s = .next t) : changesOnly [.arr, .core, .glz, .seq, .sch, .kv, .head, .req, .cnv, .ptn, .net, .hist, .cal, .sec, .pwr, .evr, .brd, .dev] s t := by
  have hw := co_refl [.arr, .core, .glz, .seq, .sch, .kv, .head, .req, .cnv, .ptn, .net, .hist, .cal, .sec, .pwr, .evr, .brd, .dev] s
  simp only [execCfgResolveReset, Host.Outcome.next.injEq] at h
  obtain rfl := h
  repeat' (first | with_reducible (first | assumption | intro t x ht | intro t ht | apply co_toRow | apply co_resetModule | apply co_hold | apply co_hostBody | apply co_takeToken) | decide | split | dsimp only)
theorem co_execSecurityBoot {f : BootFind} {s : State} {t : State} (h : execSecurityBoot f s = .next t) : changesOnly [.arr, .seq, .sch, .cnv, .ptn, .net, .hist, .sec, .pwr, .evr, .brd, .dev] s t := by
  have hw := co_refl [.arr, .seq, .sch, .cnv, .ptn, .net, .hist, .sec, .pwr, .evr, .brd, .dev] s
  simp only [execSecurityBoot, okIf_next] at h
  obtain ⟨-, rfl⟩ := h
  repeat' (first | with_reducible (first | assumption | intro t x ht | intro t ht | apply co_boot | apply co_hold | apply co_hostBody | apply co_takeToken) | decide | split | dsimp only)
theorem co_execSelfTest {fails : List TestFail} {kept regionOk : Bool} {s : State} {t : State} (h : execSelfTest fails kept regionOk s = .next t) : changesOnly [.glz, .seq, .sch, .kv, .head, .req, .cnv, .ptn, .net, .hist, .cal, .sec, .pwr, .evr, .dev] s t := by
  have hw := co_refl [.glz, .seq, .sch, .kv, .head, .req, .cnv, .ptn, .net, .hist, .cal, .sec, .pwr, .evr, .dev] s
  simp only [execSelfTest, okIf_next] at h
  obtain ⟨-, rfl⟩ := h
  repeat' (first | with_reducible (first | assumption | intro t x ht | intro t ht | apply co_checksDone | apply co_toRow | apply co_testEnd | apply co_hold | apply co_hostBody | apply co_takeToken) | decide | split | dsimp only)
theorem co_execRetentionCheck {canvas : Nat} {recOk crcOk : Bool} {gains : List (Nat × Word × Word)} {offsets : List (Nat × Int)} {s : State} {t : State} (h : execRetentionCheck canvas recOk crcOk gains offsets s = .next t) : changesOnly [.arr, .seq, .sch, .kv, .cnv, .ptn, .net, .hist, .cal, .sec, .evr, .dev] s t := by
  have hw := co_refl [.arr, .seq, .sch, .kv, .cnv, .ptn, .net, .hist, .cal, .sec, .evr, .dev] s
  simp only [execRetentionCheck, okIf_next] at h
  obtain ⟨-, rfl⟩ := h
  repeat' (first | with_reducible (first | assumption | intro t x ht | intro t ht | apply co_retention | apply co_hold | apply co_hostBody | apply co_takeToken) | decide | split | dsimp only)
theorem co_execCalibrationGapClose {s : State} {t : State} (h : execCalibrationGapClose s = .next t) : changesOnly [.arr, .glz, .seq, .kv, .cnv, .ptn, .net, .hist, .cal, .dev] s t := by
  have hw := co_refl [.arr, .glz, .seq, .kv, .cnv, .ptn, .net, .hist, .cal, .dev] s
  simp only [execCalibrationGapClose, Host.Outcome.next.injEq] at h
  obtain rfl := h
  repeat' (first | with_reducible (first | assumption | intro t x ht | intro t ht | apply co_gapClose | apply co_afterGap | apply co_hold | apply co_hostBody | apply co_takeToken) | decide | split | dsimp only)
theorem co_execReadyEntry {s : State} {t : State} (h : execReadyEntry s = .next t) : changesOnly [.net, .pwr, .evr, .dev] s t := by
  have hw := co_refl [.net, .pwr, .evr, .dev] s
  simp only [execReadyEntry, Host.Outcome.next.injEq] at h
  obtain rfl := h
  repeat' (first | with_reducible (first | assumption | intro t x ht | intro t ht | apply co_readyEntry | apply co_hold | apply co_hostBody | apply co_takeToken) | decide | split | dsimp only)
theorem co_execPwrEnDeassert {s : State} {t : State} (h : execPwrEnDeassert s = .next t) : changesOnly [.arr, .seq, .sch, .cnv, .ptn, .net, .hist, .sec, .pwr, .evr, .brd, .dev] s t := by
  have hw := co_refl [.arr, .seq, .sch, .cnv, .ptn, .net, .hist, .sec, .pwr, .evr, .brd, .dev] s
  simp only [execPwrEnDeassert, Host.Outcome.next.injEq] at h
  obtain rfl := h
  repeat' (first | with_reducible (first | assumption | intro t x ht | intro t ht | apply co_pwrEnOff | apply co_hold | apply co_hostBody | apply co_takeToken) | decide | split | dsimp only)
theorem co_execShutdownComplete {s : State} {t : State} (h : execShutdownComplete s = .next t) : changesOnly [.clk, .arr, .core, .glz, .seq, .sch, .kv, .head, .req, .cnv, .ptn, .net, .hist, .cal, .sec, .pwr, .evr, .brd, .dev] s t := by
  have hw := co_refl [.clk, .arr, .core, .glz, .seq, .sch, .kv, .head, .req, .cnv, .ptn, .net, .hist, .cal, .sec, .pwr, .evr, .brd, .dev] s
  simp only [execShutdownComplete, Host.Outcome.next.injEq] at h
  obtain rfl := h
  repeat' (first | with_reducible (first | assumption | intro t x ht | intro t ht | apply co_shutdownEnd | apply co_hold | apply co_hostBody | apply co_takeToken) | decide | split | dsimp only)

end Sys2Proof.Machine
end

