-- ==== Sys2Proof/Tests/Slice0.lean ====
section
/-! SUPPORT. The author's tests: forms that well-formedness refuses, slots of the spec's encoding tables, small cases whose expected
results are hand calculations from the rules the names cite, and, for every statement that has hypotheses, states and operands that meet
them. -/

namespace Sys2Proof.Tests

set_option Elab.async false

open Sys2Proof.Machine

/-! ## Small states -/

/-- A lane of one position at `ctx` tokens. -/
def lane (k ctx : Nat) : Lane := { (default : Lane) with lane := k, npos := 1, w := 1, ctx := ctx, ctl := Ctl.init, inputs := [7] }

/-- A step in flight with the given lanes and participants. -/
def aStep (ls : List Lane) (ps : List Nat) : StepRec := { (default : StepRec) with num := 1, lanes := ls, parts := ps }

/-- The module in that step, its sequencer `sid` issuing for the given lanes. -/
def inStepOf (sid : Nat) (ls : List Lane) (s : State) : State :=
  modSeq sid (fun q => { q with phase := 1, step := 1, lanes := ls.map (·.lane) }) { s with sch := { s.sch with cur := some (aStep ls [sid]) } }

/-- The core of the tests: die A00, cluster 0, core 0; an attention and a head sequencer. -/
def core0 : Nat := 0
def att0 : Nat := 24 * 2048 + 33
def head0 : Nat := 32 * 2048 + 34

def iss (sid : Nat) : Iss := { sid := sid, reps := 0, r := 0, seg := 3 }

def sCore : State := inStepOf core0 [lane 0 5] State.reset
def sAtt : State := inStepOf att0 [lane 0 5] State.reset
def sHead : State := inStepOf head0 [lane 0 5] State.reset

/-- The module READY. -/
def sReady : State := { State.reset with dev := { State.reset.dev with row := 7 }, pwr := { State.reset.pwr with state := 2 } }

/-- A live session of a role. -/
def ses (k role : Nat) : Ses := { Ses.init with sid := k, role := role, live := true, leaseEnd := 100, pathA := { PathRec.init with open_ := true, up := true } }

/-- READY, with an operator session 1, a session 2 of partition 0, a claim session 3, and partition 0 enabled. -/
def sHost : State :=
  { sReady with
    net := { sReady.net with sess := [(1, ses 1 16), (2, ses 2 0), (3, ses 3 17)], ports := [(0, { Port.init with link := true, macUp := true })] }
    ptn := [(0, { Ptn.init with enable := true, enabled := true, nearQ := 1000, farQ := 1000, entryMax := 4, share := 16 })] }

def hOp : Hdr := { ses := 1, queue := 0, ptn := 0, tag := 7, handle := 0 }
def hPart : Hdr := { ses := 2, queue := 0, ptn := 0, tag := 7, handle := 0 }
def hClm : Hdr := { ses := 3, queue := 0, ptn := 0, tag := 7, handle := 0 }

/-- A token from source `src`. -/
def tok (kind src arg : Nat) : Token := { kind := kind, att := 0, step := 1, src := src, seq := 0, arg := arg, plane := 0 }

/-! ## A bundle of one template -/

/-- One sequencer table of a one-template bundle; route 0 delivers to receive slot 255 and names credit 1. -/
def aTable (sid : Nat) : SeqTable := { (default : SeqTable) with sid := sid, routes := [(0, 4, 255, 1)] }
def aVar : Variant :=
  { (default : Variant) with tables := [aTable core0, aTable head0], decl := { lanes := 256, npos := 512, wmax := 8, ctx := 16384, wUs := 20000 } }
def aTmpl : Template := { v0 := aVar, hasA8 := true, v1 := aVar }
def anImage : PlaneImage := { (default : PlaneImage) with array := 0, plane := 0 }
def aBundle : Bundle :=
  { (default : Bundle) with hash := 99, sigOk := true, paramset := 1, images := [anImage], tileLayer := [(0, 0)], policy := [(0, 100, 0)]
                            templates := [aTmpl], kvHeads := 8, layers := 1, vocab := 512 }
def serving : Canvas := { Canvas.init with st := 2, bundle := some aBundle }

/-- The core of the tests with the bundle in canvas 0. -/
def sTable : State := { sCore with cnv := [(0, serving)] }

/-! ## Hypotheses that speak of every canvas or queue -/

theorem tget_all {α : Type} (d : α) (p : α → Bool) (hd : p d = true) :
    ∀ t : Tab α, (t.all fun e => p e.2) = true → ∀ k, p (tget d t k) = true := by
  intro t
  induction t with
  | nil => intro _ k; exact hd
  | cons e t ih =>
    intro h k
    simp only [List.all_cons, Bool.and_eq_true] at h
    unfold tget
    split
    · exact h.1
    · exact ih h.2 k

theorem no_staging {s : State} (h : (s.cnv.all fun e => !e.2.stOpen) = true) : ∀ c, (cnvOf s c).stOpen = false := by
  intro c
  have := tget_all Canvas.init (fun v => !v.stOpen) rfl s.cnv h c
  simpa [cnvOf] using this

theorem no_parts {s : State} (h : (s.ptn.all fun e => e.2.parts.isEmpty) = true) : ∀ n q, tget none (ptnOf s n).parts q = none := by
  intro n q
  have := tget_all Ptn.init (fun v => v.parts.isEmpty) rfl s.ptn h n
  show tget none (tget Ptn.init s.ptn n).parts q = none
  rw [List.isEmpty_iff.mp this]
  rfl

theorem ready_of {s : State} {r : Rights} {h : Hdr}
    (h1 : (hdrOk h && sesLive s h && !(sesOf s h.ses).closed && decide (outstanding s h < 64) && mayClass s r h && !s.sec.safe
      && s.cnv.all fun e => !e.2.stOpen) = true) : cmdReady s r h := by
  simp only [Bool.and_eq_true, Bool.not_eq_true', decide_eq_true_eq] at h1
  obtain ⟨⟨⟨⟨⟨⟨a, b⟩, c⟩, d⟩, e⟩, f⟩, g⟩ := h1
  exact ⟨a, b, c, d, e, f, no_staging g⟩

theorem runs_of {s : State} {r : Rights} {h : Hdr}
    (h1 : (hdrOk h && sesLive s h && !(sesOf s h.ses).closed && decide (outstanding s h < 64) && mayClass s r h && !s.sec.safe
      && s.cnv.all fun e => !e.2.stOpen) = true) (h2 : (s.ptn.all fun e => e.2.parts.isEmpty) = true) : cmdRuns s r h :=
  ⟨ready_of h1, no_parts h2⟩

theorem op_of {s : State} {h : Hdr}
    (h1 : (hdrOk h && sesLive s h && !(sesOf s h.ses).closed && decide (outstanding s h < 64) && decide (roleH s h = 16)
      && (s.cnv.all fun e => !e.2.stOpen) && s.ptn.all fun e => e.2.parts.isEmpty) = true) : opRuns s h := by
  simp only [Bool.and_eq_true, Bool.not_eq_true', decide_eq_true_eq] at h1
  obtain ⟨⟨⟨⟨⟨⟨a, b⟩, c⟩, d⟩, e⟩, f⟩, g⟩ := h1
  exact ⟨a, b, c, d, e, no_staging f, no_parts g⟩

theorem witness_commands : cmdRuns sHost .partition hPart ∧ cmdRuns sHost .operator_ hOp ∧ cmdRuns sHost .claimant hClm
    ∧ cmdRuns sHost .any hOp ∧ opRuns sHost hOp := by
  exact ⟨runs_of (by decide) (by decide), runs_of (by decide) (by decide), runs_of (by decide) (by decide), runs_of (by decide) (by decide),
    op_of (by decide)⟩

/-! ## States and operands that meet the hypotheses of the statements -/

theorem witness_StepRunsFront : (given (.nopa (iss core0)) State.reset).pending = .nopa (iss core0) :: [] := rfl

theorem witness_ClockAdvances : State.reset.pending = [] ∧ State.reset.pwr.off = false ∧ State.reset.pwr.state ≠ 0
    ∧ State.reset.clk.micro + 1 < 100000 ∧ 7 < 8
    ∧ 100000 ≤ ({ State.reset.clk with micro := 99999 }).micro + 1
    ∧ ({ State.reset.pwr with off := true }).off = true ∧ ({ State.reset.pwr with state := 0 }).state = 0 := by decide

theorem witness_CommandFrames : ∃ t, exec (.acn (iss core0) 255) sCore = .next t ∧ t ≠ sCore := ⟨_, rfl, by decide⟩

theorem witness_MemoriesCanonical : memWf State.reset = true ∧ ∃ t, step (given (.nopa (iss core0)) State.reset) = .next t := ⟨by decide, _, rfl⟩

/-- A stroke that names one array. -/
def aStroke (band : Nat) : StrokeF :=
  { emask := 1, amask := 1, plane := 15, ibs := 7942, esh := 1, ifmt := 3, band := band, gsz := 2, ntr := 7 }

theorem witness_SlotRoundTrip : (Instr.strk default (aStroke 3)).wf = true ∧ ∃ k w, encodeSlot (Instr.strk default (aStroke 3)) = some (k, w) :=
  ⟨by decide, _, _, rfl⟩

theorem witness_AliasReachesOwnBlock : 0x3F < 0x40 ∧ 11 < 12 ∧ Path.partition 2 11 ∈ [Path.operator 2 11, .partition 2 11] ∧ 12 ≤ 12 ∧ 15 < 16 := by decide

/-- The same core with a running stroke of array 0 and another waiting for its flags. -/
def strokeAt (a : Nat) : Stroke :=
  { (default : Stroke) with arrays := [{ (default : ArrStroke) with arr := a }], gsz := 2, plane := 2, amask := 1, f := { (default : StrokeF) with amask := 1, emask := 1, gsz := 2 } }

def sStroke : State := { sCore with arr := { sCore.arr with strokes := [(0, [strokeAt 0])], pend := [(0, 6)] } }

theorem witness_PselSelectsPlane : coreRuns sCore (iss core0) false ∧ 15 < 16 ∧ 1 ∈ ([1] : List Nat)
    ∧ 0 ∈ namedArrays (sidCore core0) 1 1 ∧ 256 ∉ namedArrays (sidCore core0) 1 1 ∧ arrayBusy sStroke 0 = true ∧ arrayBusy sCore 0 = false
    ∧ coreRuns sStroke (iss core0) false ∧ isEngine 0 = true ∧ tget [] sStroke.arr.strokes 0 = strokeAt 0 :: []
    ∧ 0 ∈ (strokeAt 0).arrays.map (·.arr) ∧ engineOf 0 = 0 ∧ tget 0 sStroke.arr.pend 0 = 5 + 1
    ∧ calm sStroke (coreSid (coreOf 0)) = true ∧ ∀ q ∈ ([] : List Stroke), 0 ∉ q.arrays.map (·.arr) := by
  unfold coreRuns; decide

theorem witness_StrokesJoinQueues : isCoreSid (iss core0).sid = true ∧ (aStroke 4).band = 4 ∧ strokeOk (aStroke 3) = true
    ∧ runsAt sCore (iss core0) false = true ∧ runsAt sCore (iss core0) true = true ∧ widthOk sCore (iss core0) = true
    ∧ isSid (iss att0).sid = true ∧ takesPart sCore core0 = true ∧ issuing sCore (iss core0) = true
    ∧ laneDead (modSeq 0 (fun q => { q with killed := [0] }) sCore) (iss core0) true = true
    ∧ issuing (modSeq 0 (fun q => { q with killed := [0] }) sCore) (iss core0) = true := by decide

theorem witness_StrokesJoinQueues_noReplays : noReplays sCore core0 := ⟨by decide, fun c h => by cases h; rfl⟩

/-- The core's sequencer waiting for a token, and with an ACLR in its ACC queue. -/
def sWaits : State := modSeq 0 (fun q => { q with wait := .tokens 5 1 }) sCore
def sQueue : State := modSeq 0 (fun q => { q with ops := [(0, .aclr (iss core0) 0 1)] }) sCore

theorem witness_StrokesJoinQueues_held : (encodeSlot (.aclr (iss core0) 7 1)).isSome = true ∧ inStep State.reset (iss core0) = false
    ∧ inStep sWaits (iss core0) = true ∧ issuing sWaits (iss core0) = false ∧ takesPart sWaits core0 = true
    ∧ opClass (.aclr (iss core0) 7 1) &&& 7 ≠ 0 ∧ opsOf (seqOf sQueue core0) (opClass (.aclr (iss core0) 7 1)) = true
    ∧ issuing sQueue (iss core0) = true := by decide

theorem witness_StrokesJoinQueues_taken : exec (.aclr (iss core0) 7 1) sWaits ≠ .fault .noSuchUnit ∧ exec (.aclr (iss core0) 7 1) sQueue ≠ .fault .noSuchUnit :=
  ⟨by (intro h; cases h), by (intro h; cases h)⟩

theorem witness_StrokesEndAndReport : isEngine 0 = true ∧ 3 < 4 ∧ tget [] sStroke.arr.strokes 0 = strokeAt 0 :: [] ∧ strokeDropped sStroke (strokeAt 0) = false
    ∧ calm sStroke (coreSid (coreOf 0)) = true
    ∧ strokeDropped (modSeq 0 (fun q => { q with killed := [0] }) sStroke) { strokeAt 0 with desc := true } = true ∧ (ownGroups (strokeAt 0)).length = 1
    ∧ tget [] ({ sCore.arr with waiting := [(0, [({ (default : StrokeFlags) with ovf := [0] })])] }).waiting 0 = { (default : StrokeFlags) with ovf := [0] } :: []
    ∧ flagByte { (default : StrokeFlags) with ovf := [0] } ≠ 0 := by decide

/-- A core whose GCOL is bound and whose register 0 of engine 0 holds a closed tile; a receive slot with a transfer. -/
def aBind : GBind := { eng := 0, grp := 0, plane := 0, tid := 0 }
def sBound : State :=
  modSeq 0 (fun q => { q with cred := [(1, 1)] })
    { sTable with core := { sCore.core with bind := [(0, [aBind])], ntr := [(0, { Tile.init with ready := true, tiles := 1 })] } }

theorem witness_AccumulatorRows : coreRunsNow sBound (.aclr (iss core0) 1023 1) (iss core0) false ∧ 1023 + 1 ≤ 1024 ∧ 255 < 256 ∧ coreRuns sBound (iss core0) false
    ∧ runsNow sCore (.apro (iss core0) 15 7 1023 1) (iss core0) true = true ∧ vpOk sCore (iss core0) 1 = true
    ∧ aproReady sCore (iss core0) 15 7 1 = false ∧ runsNow sBound (.apro (iss core0) 0 0 1023 0) (iss core0) false = true
    ∧ bindOf sBound core0 0 = some aBind
    ∧ ((aproRegs sBound (iss core0) 0 0 0).all fun n => (tget Tile.init sBound.core.ntr (ntrKey (mkEngine core0 0) n)).ready) = true
    ∧ tileMarked sBound core0 1023 = false ∧ replaced sBound (tget Tile.init sBound.core.ntr 0).d16 0 0 63 = false
    ∧ runsNow sTable (.awid (iss core0) 1023 1 255 1 1) (iss core0) false = true
    ∧ awidReady sTable (iss core0) 1 255 1 = false ∧ runsNow sBound (.awid (iss core0) 1023 1 255 1 1) (iss core0) false = true
    ∧ rxCred sBound core0 (offset sBound (iss core0) 4 255) ≠ 0
    ∧ 1 ≤ tget 0 (seqOf sBound core0).cred (credCtr sBound core0 (rxCred sBound core0 (offset sBound (iss core0) 4 255))) := by
  unfold coreRuns coreRunsNow; decide

def aRed : RedF := { src := 1023, dst := 1023, dsr := 1, nt := 63, idxb := 65535 }

theorem witness_ReductionResults : coreRuns sCore (iss core0) false ∧ redOk aRed = true ∧ redOk { aRed with dsr := 0, nt := 1 } = true
    ∧ runsNow sCore (.rsum (iss core0) aRed 1) (iss core0) false = true ∧ runsNow sCore (.rmax (iss core0) aRed) (iss core0) false = true := by
  unfold coreRuns; decide

def aGlz : GlzF := { eng := 0, grp := 0, plane := 15, tile := 0, tid := 65535, vp := 0, ph := 0, lix := 63 }

/-- A core whose current lane has tint version 3 of slot 2 of partition 0, resident or not. -/
def tintLane : Lane := { lane 0 5 with tbound := true, tint := 2, tver := 3 }
def aPair : TintPair := { tid := 65535, rank := 1, alpha := 0x3F80, a := [[0x3F80]], b := [[0x3F80]] }
def sTint (n : Nat) : State :=
  { inStepOf core0 [tintLane] State.reset with
    ptn := [(0, { Ptn.init with tints := [(2, { last := 3, live := [{ (default : TintVer) with ver := n, pairs := [aPair] }] })] })] }

theorem witness_TileTermRows : isCoreSid (iss core0).sid = true ∧ glzOk aGlz = true ∧ runsAt sCore (iss core0) (aGlz.vp != 0) = true
    ∧ calm sCore core0 = true ∧ aGlz.tile = 0 ∧ aGlz.ph = 0 ∧ runsNow sCore (.gout (iss core0) aGlz) (iss core0) (aGlz.vp != 0) = true
    ∧ runsNow sCore (.gout (iss core0) { aGlz with vp := 1 }) (iss core0) true = true ∧ vpOk sCore (iss core0) 1 = true
    ∧ tget ([], []) sCore.glz.outl (glzTab sCore (iss core0) aGlz) = ([], []) ∧ aGlz.eng = 0 ∧ aGlz.grp = 0
    ∧ channels sCore (lixSet sCore core0 aGlz.lix) = []
    ∧ glzOk { aGlz with ph := 1, tile := 1023, eng := 15, grp := 3 } = true
    ∧ (tget GlrTab.init sCore.glz.glr (glzTab sCore (iss core0) { aGlz with ph := 1, tile := 1023, eng := 15, grp := 3 })).k = 0 := by decide

theorem witness_TileTermRows_tint : glazeRuns sCore (iss core0) true ∧ opsOf (seqOf sCore core0) 6 = false ∧ vpOk sCore (iss core0) 1 = true
    ∧ curLane sCore (iss core0) = some (lane 0 5, 0) ∧ (lane 0 5).tbound = false ∧ glazeRuns (sTint 3) (iss core0) true ∧ glazeRuns (sTint 4) (iss core0) true
    ∧ opsOf (seqOf (sTint 3) core0) 6 = false ∧ opsOf (seqOf (sTint 4) core0) 6 = false
    ∧ curLane (sTint 3) (iss core0) = some (tintLane, 0) ∧ tintMissing (sTint 4) tintLane = true ∧ tintMissing (sTint 3) tintLane = false
    ∧ tintPair (sTint 3) tintLane 65535 = some aPair := by
  unfold glazeRuns; decide

def anEl : ElF := { src := 2047, dst := 2047, len := 255, ty := 1 }

theorem witness_ElementResults : elOk anEl = true ∧ glazeRuns sCore (iss core0) false ∧ glazeRuns sCore (iss core0) true ∧ 7 < 8 ∧ 63 < 64 ∧ 2047 < 2048
    ∧ 1023 < 1024 ∧ 1 < 2 := by
  unfold glazeRuns; decide

theorem witness_EcvtWritesBlocks : glazeRuns sCore (iss core0) false ∧ 2047 < 2048 ∧ 7942 < 7943 ∧ 255 < 256 ∧ 3 < 4 ∧ 2 < 3 ∧ 63 < 64 := by
  unfold glazeRuns; decide

def anXfer (kill : Bool) : Xfer :=
  { (default : Xfer) with src := 0, dst := 0, space := 4, addr := 255, cred := 1, step := 1, att := 0, tent := true, kill := kill, bytes := [1] }
def sFabric (kill : Bool) : State := { sCore with seq := { sCore.seq with fabric := [anXfer kill] } }

theorem witness_MovesAndTransfers : runsAt sCore (iss core0) false = true ∧ spaceOk core0 3 = true ∧ spaceOk core0 2 = true ∧ inSpace core0 3 7942 = true
    ∧ inSpace core0 2 12287 = true ∧ 7 < 8 ∧ 1 < 2 ∧ coreRuns sCore (iss core0) true ∧ 3 < 4 ∧ 63 < 64
    ∧ seqRuns sCore (iss core0) = true ∧ 12 ≤ 12 ∧ 1023 < 1024 ∧ routeOf sTable core0 0 = some (0, 4, 255, 1) ∧ seqRuns sTable (iss core0) = true
    ∧ 127 < 128 ∧ 2 < 3 ∧ vpOk sCore (iss core0) 1 = true ∧ curLane sCore (iss core0) = some (lane 0 5, 0) := by
  unfold coreRuns; decide

theorem witness_MovesAndTransfers_delivery : (sFabric true).seq.fabric[0]? = some (anXfer true)
    ∧ (sFabric true).seq.fabric[fabricFirst (sFabric true) (anXfer true)]? = some (anXfer true) ∧ calm (sFabric true) (anXfer true).dst = true
    ∧ xferCurrent (sFabric true) (anXfer true) = true ∧ (anXfer true).kill = true ∧ (sFabric false).seq.fabric[0]? = some (anXfer false)
    ∧ xferCurrent (sFabric false) (anXfer false) = true ∧ (anXfer false).kill = false ∧ (anXfer false).space < 5
    ∧ xferCurrent (modSeq 0 (fun q => { q with att := 1 }) (sFabric false)) (anXfer false) = false := by decide

theorem witness_WaitsAndTokens : seqRuns sCore (iss core0) = true ∧ 1 ≤ 1 ∧ 4095 < 4096 ∧ 1 ≤ 15 ∧ 15 ≤ 15 := by decide

theorem witness_WaitsAndTokens_planes : planesUp sCore ∧ planeCarries sCore 1 core0 core0 = true := by unfold planesUp; decide

theorem witness_FlagSegmentsAndSteps : seqRuns sCore (iss core0) = true ∧ 1 < 2 ∧ coreRunsNow sCore (.csum (iss core0) 65535 7) (iss core0) false
    ∧ csumReady sCore (iss core0) 65535 7 = true ∧ 65535 < 65536 ∧ 7 < 8
    ∧ (seqOf (modSeq 0 (fun q => { q with curSeg := some 3 }) sCore) 0).curSeg.isSome = true := by
  unfold coreRunsNow; decide

/-- A core inside the one replay window of segment 3, of one slot, with one entry: a stroke again, or a kept tile. -/
def anEntry (k : Option (Tile × TileIn)) : Replay :=
  { (default : Replay) with seg := 3, f := { (default : StrokeF) with amask := 1, emask := 1, gsz := 2 }, kept := k }
def winBundle : Bundle :=
  let v : Variant := { aVar with windows := [(core0 * 128 + 3, 7, 1)] }
  { aBundle with templates := [{ aTmpl with v0 := v, v1 := v }] }
def sReplay (k : Option (Tile × TileIn)) : State :=
  modSeq 0 (fun q => { q with window := true, winSeg := 3, winNo := 1, replays := [anEntry k] })
    { sCore with cnv := [(0, { serving with bundle := some winBundle })] }
/-- A closed segment whose strokes have all reported. -/
def sSegs : State := modSeq 0 (fun q => { q with segs := [(4, 3, 0)], flagIx := 5 }) sCore
/-- An envelope that every value but 0 leaves, and a tile that is not 0; the same with the tile marked for D16. -/
def sEnv : State := { sCore with core := { sCore.core with ab := wrPair [] (abAddr 0 0 0) ⟨0x3F800000, 0⟩ } }
def sMarked : State := { sEnv with sch := { sEnv.sch with cur := sEnv.sch.cur.map fun c => { c with d16Tile := [(core0, 0)] } } }

theorem witness_ChecksAndReplay : coreRuns sCore (iss core0) true ∧ 1023 < 1024 ∧ 511 < 512 ∧ vpOk sCore (iss core0) 1 = true
    ∧ curLane sCore (iss core0) = some (lane 0 5, 0) ∧ (lane 0 5).tbound = false ∧ curLane (sTint 3) (iss core0) = some (tintLane, 0) ∧ tintLane.tbound = true
    ∧ isSid 0 = true ∧ (seqOf sSegs 0).segs.find? (·.1 == 4) = some (4, 3, 0) ∧ segKnown sSegs 0 4 = true
    ∧ segKnown { sSegs with arr := { sSegs.arr with strokes := [(0, [{ strokeAt 0 with flagIx := 4 }])] } } 0 4 = false := by
  unfold coreRuns; decide

theorem witness_ChecksAndReplay_slots : takesPart (sReplay none) core0 = true ∧ issuing (sReplay none) (iss core0) = true ∧ calm (sReplay none) core0 = true
    ∧ nextEntry (sReplay none) (iss core0) = some (anEntry none) ∧ (anEntry none).kept = none ∧ (anEntry none).desc = false
    ∧ nextEntry (sReplay (some (Tile.init, TileIn.init))) (iss core0) = some (anEntry (some (Tile.init, TileIn.init)))
    ∧ issuing sCore (iss core0) = true ∧ calm sCore core0 = true ∧ (seqOf sCore core0).window = false := by decide

theorem witness_ChecksAndReplay_planes : planesUp sSegs := rfl

theorem witness_ChecksAndReplay_flags : (chkRun sEnv 0 0 Envelope.init false [0] 0).1 ≠ 0 ∧ (chkRun sCore 0 1023 Envelope.init false [0] 0).1 = 0
    ∧ tileMarked sEnv core0 0 = false ∧ tileMarked sMarked core0 0 = true ∧ (chkRun sMarked 0 0 Envelope.init false [0] 0).2.2 = true := by decide +kernel

/-- An attention cluster whose lane's page table has one open page, page 1 in frame 1, for layer 0 and page 0. -/
def sKv : State :=
  { sAtt with kv := { sAtt.kv with
      window := [(0, 1), (1, 2)]
      near := [(0, 1), (4, 1), (4096, 2), (4100, 1), (8192, 1), (8195, 0x10)] } }

def aLeaf : Leaf := { frame := 1, mx := false, half := 0, fill := 0, sframe := 0, sslot := 0, addr := 8192 }

theorem att_runs (s : State) (l : Lane) (h : (isAttSid (iss att0).sid && runsAt s (iss att0) true && decide (curLane s (iss att0) = some (l, 0))) = true) :
    attRuns s (iss att0) l := by
  simp only [Bool.and_eq_true, decide_eq_true_eq] at h
  exact ⟨h.1.1, h.1.2, 0, h.2⟩

theorem witness_ScoreRows : attRuns sKv (iss att0) (lane 0 5) ∧ attOk 7 127 65535 3 15 = true ∧ attPages sKv att0 (lane 0 5) 0 3 = some [(0, aLeaf)]
    ∧ 15 < 16 ∧ 131072 * (16 - 15) < 15 * 40 * (256 * 1) ∧ 15 * (lane 0 5).npos * (256 * [((0 : Nat), aLeaf)].length) ≤ 131072 * (16 - 15)
    ∧ 0 < (lane 0 5).npos ∧ 14 < 15 ∧ [((0 : Nat), aLeaf)][0]? = some (0, aLeaf) ∧ 255 < 256
    ∧ attPages sKv att0 (lane 0 5) 127 3 = none :=
  ⟨att_runs sKv _ (by decide +kernel), by decide, by decide +kernel, by decide, by decide, by decide, by decide, by decide, rfl, by decide, by decide +kernel⟩

/-- A lane of 40 positions over 32 pages of one cluster passes the last score buffer. -/
def longLane : Lane := { lane 0 5 with npos := 40 }

theorem witness_ScoreRows_full : attRuns ({ inStepOf att0 [longLane] State.reset with kv := sKv.kv }) (iss att0) longLane
    ∧ attPages ({ inStepOf att0 [longLane] State.reset with kv := sKv.kv }) att0 longLane 0 3 = some [(0, aLeaf)]
    ∧ 131072 * (16 - 15) < 15 * longLane.npos * (256 * [((0 : Nat), aLeaf)].length) :=
  ⟨att_runs _ _ (by decide +kernel), by decide +kernel, by decide⟩

theorem witness_AttentionRows : attRuns sKv (iss att0) (lane 0 5) ∧ attOk 0 0 65535 0 15 = true ∧ attOk 7 0 65535 3 15 = true ∧ 65535 < 65536
    ∧ attPages sKv att0 (lane 0 5) 0 3 = some [(0, aLeaf)] ∧ attOk 7 0 65535 0 1 = true ∧ laneInWindow sKv (lane 0 5) = true ∧ (lane 0 5).npos = 1
    ∧ (lane 0 5).ctx / 256 % 4 = attCl att0 ∧ (lane 0 256).ctx / 256 % 4 ≠ attCl att0
    ∧ aLeaf.mx = false ∧ aLeaf.addr + 96 ≤ nearAddr (attDie att0) aLeaf.frame 0 ∧ opensPage sKv aLeaf (att0, 0, 0, 7) = true
    ∧ opensPage { sKv with kv := { sKv.kv with opened := [(att0, 0, 0, 7)] } } aLeaf (att0, 0, 0, 7) = false :=
  ⟨att_runs sKv _ (by decide +kernel), by decide, by decide, by decide, by decide +kernel, by decide, by decide, by decide, by decide, by decide, by decide,
    by decide, by decide, by decide⟩

theorem witness_AttentionRows_walk : (match walkPage sKv (attDie att0) 0 0 0 0 with | .at p => decide (p = aLeaf) | .fault _ => false) = true := by
  decide +kernel

theorem witness_HeadVerdicts : isHeadSid (iss head0).sid = true ∧ runsAt sHead (iss head0) true = true ∧ curLane sHead (iss head0) = some (lane 0 5, 0)
    ∧ sHead.sch.cur = some (aStep [lane 0 5] [head0]) ∧ 65535 < 65536 ∧ 7 < 8 ∧ widthOk sHead (iss head0) = true
    ∧ 16 ≤ (if 1 = 1 then 16 else 8) ∧ (lane 0 5).ctl.nprop < 2 ∧ 2 ≤ ({ Ctl.init with nprop := 4 }).nprop ∧ ({ Ctl.init with nprop := 4 }).psrc ≠ 1
    ∧ ({ Ctl.init with psrc := 1 }).psrc = 1 := by decide

theorem witness_HeadVerdicts_runs : headRuns sHead (iss head0) (lane 0 5) := ⟨by decide, by decide, 0, by decide⟩

/-- A step in flight whose template orders the fetch of table 65535 for cluster 0. -/
def fetchBundle : Bundle :=
  let v : Variant := { aVar with fetches := [(0, 0, 65535)] }
  { aBundle with templates := [{ aTmpl with v0 := v, v1 := v }] }
def sFetch : State := { sCore with cnv := [(0, { serving with bundle := some fetchBundle })] }
def aDigCol (active : Bool) : DigCol := { (default : DigCol) with array := 0, plane := 15, col := 63, persist := true, clean := 4096, active := active }
def sDigCol : State := { State.reset with arr := { State.reset.arr with digcol := [(0, [aDigCol false])] } }

theorem witness_BetweenSteps_tables : isArrCluster 0 = true ∧ 65535 < 65536 ∧ (fetchQueue sFetch 0).head? = some 65535 ∧ (fetchQueue sCore 0).head? ≠ some 65535
    ∧ ((coresOf 0).all fun k => calm sFetch (coreSid k)) = true ∧ (sFetch.sch.cur.map fun c => (c.rewind, c.cmtReady)) = some (none, false)
    ∧ isCore 0 = true ∧ isArray 0 = true ∧ coreOf 0 = 0 ∧ 15 < 16 ∧ 63 < 64 ∧ sFetch.sch.cur.isSome = true ∧ sDigCol.sch.cur = none
    ∧ isDigCol 0 15 63 (aDigCol false) = true ∧ tget [] sDigCol.arr.digcol 0 = [aDigCol false] := by decide

theorem witness_ScoreRows_planes : planesUp sKv := rfl

theorem witness_TokensAtSequencers : isSid core0 = true ∧ tokenOk (tok 0 att0 4095) 0 = true ∧ takesPart sCore core0 = true
    ∧ isDup (seqOf sCore core0) (tok 0 att0 4095) = false ∧ isDup (seqOf (modSeq 0 (fun q => { q with seen := [(att0, 1)] }) sCore) core0) (tok 0 att0 4095) = true
    ∧ ({ tok 0 att0 0 with step := 2 }).step ≠ (seqOf sCore core0).step ∧ ({ tok 0 att0 0 with att := 1 }).att ≠ (seqOf sCore core0).att
    ∧ (0 : Nat) ∉ [6, 12] ∧ current sCore core0 (tok 0 att0 4095) = true ∧ (seqOf sCore core0).wait = .none
    ∧ tget 0 (seqOf sCore core0).tok 5 < 255 ∧ 255 ≤ tget 0 (seqOf (modSeq 0 (fun q => { q with tok := [(5, 255)] }) sCore) core0).tok 5
    ∧ tokenOk (tok 1 att0 0xF001) 1 = true ∧ tget 0 (seqOf sCore core0).cred 5 + 15 ≤ 4095
    ∧ 4095 < tget 0 (seqOf (modSeq 0 (fun q => { q with cred := [(5, 4095)] }) sCore) core0).cred 5 + 1
    ∧ tokenOk (tok 5 att0 0x7F00) 5 = true ∧ (seqOf (modSeq 0 (fun q => { q with fwded := true }) sCore) core0).fwded = true
    ∧ tokenOk (tok 8 schedSid 0) 8 = true ∧ (seqOf (modSeq 0 (fun q => { q with phase := 2 }) sCore) core0).phase = 2 ∧ (seqOf sCore core0).phase ≠ 2
    ∧ tokenOk (tok 10 schedSid 255) 10 = true := by decide

theorem witness_StepBoundaryStarts : arrives sCore core0 (tok 2 schedSid 0x7F) 2 ∧ arrives sAtt att0 (tok 2 schedSid 0x7F) 2 ∧ isAttSid att0 = true
    ∧ isAttSid core0 = false := by
  unfold arrives; decide

theorem witness_QuiesceOnRewind : arrives sCore core0 { tok 6 schedSid 127 with att := 1 } 6 ∧ arrives sCore core0 { tok 12 schedSid 0 with att := 15 } 12
    ∧ nextAttempt sCore core0 { tok 6 schedSid 127 with att := 1 } = true ∧ nextAttempt sCore core0 (tok 6 schedSid 127) = false := by
  unfold arrives; decide

/-- The step of the tests as another record. -/
def withStep (f : StepRec → StepRec) (s : State) : State := { s with sch := { s.sch with cur := s.sch.cur.map f } }
def stepOf (s : State) : StepRec := s.sch.cur.getD default
/-- The step with its STEP arrived and no report open. -/
def sDone : State := withStep (fun c => { c with cmtReady := true }) sCore

theorem witness_SchedulerTokens : arrivesSched sCore (tok 3 core0 0) 3 (stepOf sCore) ∧ arrivesSched sCore (tok 4 core0 0x380) 4 (stepOf sCore)
    ∧ (tok 4 core0 0x380).arg % 256 ≠ 0 ∧ (tok 4 core0 0x300).arg % 256 = 0 ∧ arrivesSched sCore (tok 7 core0 0) 7 (stepOf sCore)
    ∧ ((stepOf (withStep (fun c => { c with rewind := some 3 }) sCore)).rewind.isSome && [core0].all [core0].contains) = true
    ∧ ((stepOf sCore).rewind.isSome && [core0].all [core0].contains) = false ∧ (stepOf sCore).abandoning = false
    ∧ (stepOf (withStep (fun c => { c with abandoning := true }) sCore)).abandoning = true := by
  unfold arrivesSched; decide

theorem witness_SchedulerTokens_commit : commitReady (modCur (fun c => { c with done := [core0] }) (modSeq 0 (fun q => { q with phase := 3 }) sCore))
    { stepOf sCore with done := [core0] } = true := by decide

theorem witness_StepEndsAndFaults : arrivesSched sCore (tok 11 core0 0x2A) 11 (stepOf sCore) ∧ 0x28 ≤ (tok 11 core0 0x2A).arg % 256
    ∧ (tok 11 core0 0x27).arg % 256 < 0x28 ∧ 0x2A < (tok 11 core0 0x2B).arg % 256 ∧ (stepOf sCore).seqSrc = [] ∧ (stepOf (withStep (fun c => { c with seqSrc := [core0] }) sCore)).seqSrc ≠ []
    ∧ State.reset.sch.cur = none ∧ sDone.sch.cur = some (stepOf sDone) ∧ (stepOf sDone).cmtReady = true ∧ (stepOf sCore).cmtReady = false
    ∧ (stepOf sCore).gather = none ∧ (stepOf (withStep (fun c => { c with gather := some 3 }) sCore)).gather = some 3
    ∧ needsLost sCore (stepOf sCore) = false ∧ watchdogDue sCore (stepOf sCore) = false
    ∧ watchdogDue { sCore with clk := { sCore.clk with us := 50000 } } (stepOf sCore) = true
    ∧ missingParts { sCore with clk := { sCore.clk with us := 50000 } } (stepOf sCore) ≠ [] ∧ (stepOf sCore).wdFired = false
    ∧ ({ stepOf sCore with wdFired := true }).wdFired = true := by
  unfold arrivesSched; decide

/-- Two tokens of one source on their way to the core, the second still behind the first. -/
def laterTok : Token := { tok 0 att0 4095 with seq := 1 }
def sBehind : State := { sCore with seq := { sCore.seq with sent := [(core0, tok 0 att0 5), (core0, laterTok)] } }

theorem witness_TokensAtSequencers_order : behind sCore core0 (tok 0 att0 4095) = false ∧ behind sBehind core0 laterTok = true
    ∧ isDup (seqOf sBehind core0) laterTok = false ∧ tokenOk laterTok 0 = true ∧ calm sCore core0 = true ∧ planesUp sCore
    ∧ arrives sCore core0 (tok 0 att0 4095) 0 ∧ arrives sCore core0 (tok 1 att0 0xF001) 1 ∧ arrives sCore core0 (tok 5 att0 0x7F00) 5
    ∧ arrives sCore core0 (tok 8 schedSid 0) 8 ∧ arrives sCore core0 (tok 10 schedSid 255) 10 ∧ current sCore core0 (tok 10 schedSid 255) = true := by
  unfold arrives planesUp; decide

/-- Every participant is done; a replay needs D16 from a plane whose image is lost. -/
def sNoneMissing : State := withStep (fun c => { c with done := [core0] }) { sCore with clk := { sCore.clk with us := 50000 } }
def sNeedsLost : State :=
  withStep (fun c => { c with gather := some 3 })
    { modSeq 0 (fun q => { q with replays := [{ (default : Replay) with kind := 4, four := [0] }] }) sCore with kv := { sCore.kv with lostImg := [(0, 0)] } }

theorem witness_StepEndsAndFaults_lost : needsLost sNeedsLost (stepOf sNeedsLost) = true ∧ (stepOf sNeedsLost).gather = some 3
    ∧ watchdogDue sNoneMissing (stepOf sNoneMissing) = true ∧ missingParts sNoneMissing (stepOf sNoneMissing) = []
    ∧ sNoneMissing.hist.draining = false ∧ sNoneMissing.hist.inRepl = false ∧ planesUp sNeedsLost ∧ planesUp sNoneMissing := by
  unfold planesUp; decide

/-- READY, canvas 0 serving, a request of partition 0 in DECODE with one slot to fill. -/
def sServe : State :=
  { sHost with
    cnv := [(0, serving)]
    req := { sHost.req with
      fresh := 1
      entries := [(0, { Entry.init with st := .decode, gen := 1, toks := [5, 6], kv := 1, maxnew := 4, bound := 6, resv := 4, ses := 2 })] } }

theorem witness_StepComposes : sCore.sch.cur.isSome = true ∧ sServe.sch.cur = none ∧ sServe.cal.gap = false ∧ sServe.dev.row = 7 ∧ State.reset.dev.row ≠ 7
    ∧ mayStep (planCaches (writeRegion (boundaryWork sServe))) = true
    ∧ mayStep (planCaches (writeRegion (boundaryWork { sServe with pwr := { sServe.pwr with holdPin := true } }))) = false
    ∧ nextCanvas (planCaches (writeRegion (boundaryWork sServe))) = some 0
    ∧ (cnvOf (planCaches (writeRegion (boundaryWork sServe))) 0).bundle = some aBundle := by
  decide +kernel

theorem witness_StepComposes_planes : planesUp sServe := rfl

theorem witness_StepComposes_lanes :
    let s2 := retireNoa8 0 (planCaches (writeRegion (boundaryWork sServe)))
    let ls := takeLanes s2 aBundle (takeOrder s2 (readyOf s2 0)) { lanes := 0, pos := 0, w := 1, ctx := 0 } []
    let a := ls.foldl addLoad { lanes := 0, pos := 0, w := 1, ctx := 0 }
    ls ≠ [] ∧ (orderBy smaller (covering aBundle a.lanes a.pos a.w a.ctx)).head? = some (aTmpl, 0) := by
  decide +kernel

def cl0 : Nat := 0
def attCl0 : Nat := mkCluster 24 0

theorem witness_BetweenSteps : isAttCluster attCl0 = true
    ∧ (tget [] ({ State.reset.kv with plan := [(attCl0, [(default : SliceId)])] }).plan attCl0)[0]? = some default
    ∧ State.reset.sch.lastBndUs + 25600 ≤ ({ State.reset.clk with us := 25600 }).us ∧ State.reset.clk.us < State.reset.sch.lastBndUs + 25600
    ∧ State.reset.pwr.off = false ∧ State.reset.pwr.state ≠ 0 ∧ State.reset.pwr.state ≠ 5 ∧ 3 < 4
    ∧ (cnvOf { State.reset with cnv := [(3, { Canvas.init with floor := true })] } 3).floor = true ∧ (cnvOf State.reset 3).floorLeft = 0
    ∧ (cnvOf State.reset 3).floor = false
    ∧ 65535 < 65536 ∧ 1048575 < 1048576 ∧ sCore.sch.cur.isSome = true ∧ State.reset.sch.cur = none
    ∧ (chanKey 3 65535, 1048575) ∈ ({ State.reset.glz with chanWant := [(chanKey 3 65535, 1048575)] }).chanWant ∧ (chanKey 3 65535, 0) ∉ State.reset.glz.chanWant
    ∧ (∃ d ∈ tget [] ({ State.reset.glz with chans := [(7, [{ (default : Chan) with index := 9, runtime := true, active := true }])] }).chans 7, d.index = 9 ∧ d.runtime = true)
    ∧ (tget [] State.reset.glz.repHist 9).getLast?.getD 0 + 65536 ≤ ({ Canvas.init with steps := 65536 }).steps
    ∧ isArrCluster cl0 = true ∧ isCore 0 = true ∧ isArray 3840 = true ∧ coreOf 3840 = 0 ∧ 15 < 16 ∧ 63 < 64 := by decide

/-- A due calibration of cluster 0; an open gap over it; the module 2 ms on. -/
def sDue : State := { sReady with cal := { sReady.cal with cls := [(0, { CalCl.init with due := 2 })] } }
def sGap (disc : Bool) : State :=
  { sReady with
    clk := { sReady.clk with us := 1200 }
    cal := { sReady.cal with gap := true, gapSet := [0], cls := [(0, { CalCl.init with due := 2, gapDisc := disc })] } }

theorem witness_CalibrationRows : ([{ (default : CalMeas) with array := 3840 }].all fun m => isArray m.array) = true ∧ sCore.sch.cur.isSome = true
    ∧ sDue.sch.cur = none ∧ sDue.cal.gap = false ∧ gapDue sDue = true ∧ sDue.dev.row ≠ 0 ∧ (sGap false).cal.gap = true
    ∧ (sGap false).cal.gapUs + 1200 ≤ (sGap false).clk.us ∧ (sGap false).cal.gapSet.Nodup ∧ (calOf (sGap false) 0).gapDisc = false
    ∧ (calOf (sGap true) 0).gapDisc = true ∧ State.reset.cal.gap = false
    ∧ isArrCluster cl0 = true ∧ sReady.cal.maxint ≠ 0 ∧ (calOf sReady 0).last + 10 * sReady.cal.maxint ≤ ({ sReady.clk with hours := 9000 }).hours
    ∧ sReady.clk.hours < (calOf sReady 0).last + 10 * sReady.cal.maxint ∧ sReady.clk.hours < (calOf sReady 0).lastSave + 36000
    ∧ (calOf sReady 0).lastSave + 36000 ≤ ({ sReady.clk with hours := 36000 }).hours
    ∧ clusterOf (0 / 64) = 0 ∧ clusterOf (2 ^ 27 / 64) ≠ 0 ∧ sReady.cal.evDue = false ∧ ({ sReady.cal with evDue := true }).evDue = true
    ∧ sReady.cal.evUs + 60000000 ≤ ({ sReady.clk with us := 60000000 }).us := by decide

/-- A fence due on core 0; with every spare of its cluster worn; with its spare calibrated. -/
def aFence (ph sp : Nat) : Fence := { core := 0, spare := sp, ph := ph, us := 0 }
def sFence (ph : Nat) (worn : Tab Nat) : State := { sReady with hist := { sReady.hist with fences := [aFence ph (30 * 65536)], cycles := worn } }

theorem witness_FencesAndDrain : isCore 0 = true ∧ (sFence 0 []).hist.fences.find? (·.core == 0) = some (aFence 0 (30 * 65536))
    ∧ (roleOf (sFence 0 []) 0).2 = 0 ∧ (sFence 0 []).sch.cur = none ∧ (sFence 0 []).cal.gap = false ∧ holding (sFence 0 []) = false
    ∧ fenceStartable (sFence 0 []) (aFence 0 (30 * 65536)) = true ∧ spareFor (sFence 0 []) (clusterOf 0) = some (30 * 65536)
    ∧ (roleOf (sFence 0 []) (30 * 65536)).2 ≠ 2 ∧ (∀ w ∈ (sFence 0 []).arr.remapWant, coreOf w.1 ≠ 30 * 65536)
    ∧ spareFor (sFence 0 [(30 * 65536, 10000), (31 * 65536, 10000)]) (clusterOf 0) = none ∧ isArrCluster cl0 = true
    ∧ ((sFence 3 []).hist.fences.find? fun f => f.ph == 3 && clusterOf f.core == cl0) = some (aFence 3 (30 * 65536))
    ∧ sCore.sch.cur.isSome = true ∧ sReady.hist.draining = false ∧ ({ sReady.hist with draining := true }).draining = true
    ∧ ({ sReady.hist with budgetNow := true }).budgetNow = true ∧ sReady.hist.drainUs + 1000000 * sReady.dev.budget ≤ ({ sReady.clk with us := 10000000 }).us
    ∧ 0 ∈ entriesWhere sServe (fun e => running e && e.st != .pausing && e.st != .resuming) ∧ sReady.hist.inRepl = false
    ∧ entriesWhere sReady (fun e => running e) = [] ∧ (sesOf sHost 2).live = true := by decide

/-- The lower spare worn out and the higher one an audit copy whose plane is being written; a core that holds no position. -/
def sAuditPass : State :=
  setRole (31 * 65536) 31 2 { sFence 0 [(30 * 65536, 10000)] with
    arr := { (sFence 0 []).arr with rows := [(planeKey (mkArray (mkEngine (31 * 65536) 0) 0) 0, { RowProg.init with row := 5 })] } }

theorem witness_FencesAndDrain_audit : spareFor sAuditPass (clusterOf 0) = some (31 * 65536) ∧ (roleOf sAuditPass (31 * 65536)).2 = 2
    ∧ coreInPass sAuditPass (31 * 65536) = true ∧ (roleOf (setRole 0 31 1 (sFence 0 [])) 0).2 = 1
    ∧ sAuditPass.hist.fences.find? (·.core == 0) = some (aFence 0 (30 * 65536)) ∧ fenceStartable sAuditPass (aFence 0 (30 * 65536)) = true
    ∧ holding sAuditPass = false ∧ sAuditPass.cal.gap = false := by decide

/-- The hop between dies A00 and A01. -/
def aHop : Nat := hopOf 0 1

theorem witness_HistoryAndAudit : sReady.hist.dirty = false ∧ ({ sReady.hist with dirty := true }).dirty = true
    ∧ sReady.hist.lastWr + 60000000 ≤ ({ sReady.clk with us := 60000000 }).us ∧ sReady.hist.seqA ≤ sReady.hist.seqB
    ∧ ({ sReady.hist with seqA := 1 }).seqB < ({ sReady.hist with seqA := 1 }).seqA ∧ 1 < 2 ∧ isHop aHop = true
    ∧ ((1, aHop) : Nat × Nat) ∈ ({ sReady.seq with planeBad := [(1, aHop)] }).planeBad ∧ ((0, aHop) : Nat × Nat) ∉ ({ sReady.seq with planeBad := [(1, aHop)] }).planeBad
    ∧ (1 - 0, aHop) ∈ ({ sReady.seq with planeBad := [(1, aHop)] }).planeBad ∧ drainsOn (39 * 2 ^ 26) 0 2 = true ∧ drainsOn (37 * 2 ^ 26) 0 3 = true
    ∧ drainsOn attCl0 1 7 = true ∧ drainsOn 0 1 6 = true ∧ portsOfDie (dieOf (37 * 2 ^ 26)) ≠ []
    ∧ isArrCluster cl0 = true ∧ sReady.hist.auditEn = false ∧ ({ sReady.hist with auditEn := true }).auditEn = true ∧ (auditOf sReady 0).stopped = false
    ∧ holding sReady = false ∧ auditSpare sReady 0 = none ∧ (coresIn sReady 0 1).getLast? = some (31 * 65536) ∧ tget 0 sReady.hist.cycles (31 * 65536) < 9000
    ∧ (∀ w ∈ sReady.arr.remapWant, coreOf w.1 ≠ 31 * 65536) ∧ auditSpare (setRole (31 * 65536) 31 2 sReady) 0 = some (31 * 65536)
    ∧ (auditOf sReady 0).us + 1000000 * (auditOf sReady 0).period ≤ ({ sReady.clk with us := 600000000 }).us
    ∧ 9000 ≤ tget 0 ({ sReady.hist with cycles := [(31 * 65536, 9000)] }).cycles (31 * 65536) ∧ coreInPass sReady (31 * 65536) = false
    ∧ coreInPass sAuditPass (31 * 65536) = true
    ∧ (auditOf { sReady with hist := { sReady.hist with audit := [(0, { AuditCl.init with queue := [default] })] } } 0).queue = default :: []
    ∧ sCore.sch.cur.isSome = true ∧ sReady.sch.cur = none ∧ (default : AuditRec).bad = false ∧ ∀ f ∈ sReady.hist.fences, clusterOf f.core ≠ 0 := by decide

/-- READY with a plane of core 0 to be written, its row `row` after `n` iterations. -/
def sRow (row n : Nat) (done : Bool) : State :=
  { sReady with
    kv := { sReady.kv with master := [(0, some anImage)] }
    arr := { sReady.arr with rows := [(0, { RowProg.init with row := row, iters := n, done := done })] } }

theorem witness_RowsAreProgrammed : isArray 0 = true ∧ 0 < 16 ∧ tget none (sRow 0 0 false).kv.master (planeKey 0 0) = some anImage ∧ 63 < 64
    ∧ ([((72 : Nat), (50 : Nat), (50 : Nat))].all fun e => decide (e.1 ≤ 72)) = true ∧ mayProgram (sRow 0 0 false) 0 0 = true
    ∧ mayProgram (sRow 62 4 true) 0 0 = true ∧ (nextRow (tget RowProg.init (sRow 62 4 true).arr.rows 0)).row = 63
    ∧ 24 ≤ (tget RowProg.init (sRow 0 23 false).arr.rows 0).iters + 1
    ∧ mayProgram { sRow 0 0 false with arr := { (sRow 0 0 false).arr with written := [(0, true)] } } 0 0 = false
    ∧ (tget RowProg.init (sRow 63 3 true).arr.rows 0).done = true ∧ (tget RowProg.init (sRow 63 3 true).arr.rows 0).row = 63
    ∧ (tget RowProg.init (sRow 63 3 true).arr.rows 0).failed = [] ∧ (tget RowProg.init (sRow 63 3 false).arr.rows 0).done = false
    ∧ (tget RowProg.init (sRow 62 3 true).arr.rows 0).row ≠ 63 := by decide

theorem witness_RowsAreProgrammed_abort : ∀ c, (cnvOf (sRow 63 3 true) c).aborting = none := fun _ => rfl

/-- Canvas 0 with the staged bundle, in phase `ph` of its load with `n` cores let in. -/
def sLoad (ph n : Nat) (written : Bool) : State :=
  { sHost with
    cnv := [(0, { Canvas.init with staged := some aBundle, bundle := if 2 ≤ ph then some (recordOf aBundle) else none, loadPh := ph, waveCores := n })]
    kv := { sHost.kv with master := [(0, some anImage)] }
    arr := { sHost.arr with written := if written then [(0, true)] else [] } }
/-- The same with no room for a core in the pumps' budget. -/
def sNoRoom : State := { sLoad 1 0 false with pwr := { (sLoad 1 0 false).pwr with pin := 6000, lim := 600 } }

theorem witness_LoadsAndErases : (cnvOf (sLoad 1 0 false) 0).staged = some aBundle ∧ (cnvOf (sLoad 1 0 false) 0).aborting = none
    ∧ mayWrite (sLoad 1 0 false) = true ∧ waveLimit (sLoad 1 0 false) - otherWriters (sLoad 1 0 false) 0 ≠ 0
    ∧ (cnvOf (sLoad 1 0 false) 0).loadPh = 1 ∧ canvasBusy (sLoad 1 0 false) 0 = false
    ∧ (neighboursOf (sLoad 1 0 false) 0 aBundle).any (cnvInStep (sLoad 1 0 false)) = false ∧ canvasBusy sServe 0 = true
    ∧ waveLimit sNoRoom - otherWriters sNoRoom 0 = 0
    ∧ waveDone (sLoad 2 0 true) 0 aBundle = true ∧ (cnvOf (sLoad 2 0 true) 0).waveCores < (bundleCores (sLoad 2 0 true) aBundle).length
    ∧ mayWrite (sLoad 2 0 true) = true ∧ waveLimit (sLoad 2 0 true) - otherWriters (sLoad 2 0 true) 0 ≠ 0 := by decide +kernel

theorem witness_LoadsAndErases_complete : loadReady (sLoad 3 1 true) 0 aBundle = true ∧ loadReady (sLoad 2 1 false) 0 aBundle = false
    ∧ (cnvOf (sLoad 3 1 true) 0).staged = some aBundle ∧ (cnvOf sServe 0).recPend = false
    ∧ (cnvOf { sServe with cnv := [(0, { serving with recPend := true })] } 0).recPend = true := by decide +kernel

theorem witness_LoadsAndErases_erase : mayWrite { sReady with pwr := { sReady.pwr with holdPin := true } } = false ∧ mayWrite sReady = true
    ∧ sReady.sch.cur = none ∧ mayWrite { sCore with dev := sReady.dev, pwr := sReady.pwr } = true ∧ sCore.sch.cur.isSome = true
    ∧ ({ sHost.sec with relErase := some hOp }).relErase.isSome = true
    ∧ (cnvOf { sHost with cnv := [(3, { Canvas.init with erasing := some hOp })] } 3).erasing.isSome = true
    ∧ (cnvOf sHost 3).stOpen = false ∧ (cnvOf { sHost with cnv := [(3, { Canvas.init with stOpen := true, stHdr := hOp })] } 3).stOpen = true
    ∧ (cnvOf sHost 3).stUs + 1000000 ≤ ({ sHost.clk with us := 1000000 }).us := by decide +kernel

theorem witness_LoadsAndErases_answer : canAnswer sHost hOp := by unfold canAnswer; decide

theorem witness_CanvasCommands : cmdRuns sHost .operator_ hOp ∧ 3 < 4 ∧ 2 ^ 64 - 1 < 2 ^ 64 ∧ cnvBlocked sHost 3 = false ∧ (cnvOf sHost 3).loadPh = 0
    ∧ cmdRuns (sLoad 1 0 false) .operator_ hOp ∧ (cnvOf (sLoad 1 0 false) 0).loadPh ≠ 0 ∧ cnvBlocked (sLoad 1 0 false) 0 = false
    ∧ (cnvOf (sLoad 1 0 false) 0).aborting = none ∧ (cnvOf (sLoad 1 0 false) 0).bundle.any (midPlane (sLoad 1 0 false)) = false ∧ hOp.ses ≠ 0 ∧ loadRefused sHost 3 = some 9
    ∧ loadRefused (sLoad 0 0 false) 0 = none ∧ cmdRuns (sLoad 0 0 false) .operator_ hOp ∧ boundTo sHost 3 = []
    ∧ cmdRuns { sHost with hist := { sHost.hist with draining := true } } .operator_ hOp
    ∧ anyLoad sReady = false ∧ anyErase sReady = false ∧ enabledPtns { sHost with ptn := [] } = [] ∧ cmdRuns { sHost with ptn := [] } .operator_ hOp :=
  ⟨runs_of (by decide) (by decide), by decide, by decide, by decide, by decide, runs_of (by decide) (by decide), by decide, by decide, by decide, by decide, by decide,
    by decide, by decide, runs_of (by decide) (by decide), by decide, runs_of (by decide) (by decide), by decide, by decide, by decide,
    runs_of (by decide) (by decide)⟩

/-- Canvas 0 serving with a lost image of plane 0 of array 0. -/
def sLost : State :=
  { sServe with
    kv := { sServe.kv with lostImg := [(0, 0)], master := [(0, some anImage)] }
    cnv := [(0, { serving with lostHold := true, st := 3 })] }

theorem witness_MemoryErrors : 1 < 2 ∧ 2 < 3 ∧ isAttCluster attCl0 = true ∧ (tget [] State.reset.kv.filled attCl0).length ≤ 0
    ∧ 0 < (tget [] ({ State.reset.kv with filled := [(attCl0, [(default : SliceId)])] }).filled attCl0).length
    ∧ regionExists (.image 3 240) = true ∧ regionExists (.residual 240) = true ∧ regionExists (.paused 16383) = true ∧ regionExists .region = true
    ∧ regionExists (.staged 3) = true ∧ (tget none sLost.kv.master 0).isSome = true ∧ 8191 / 8192 * 16 = 0
    ∧ (entryOf { sServe with req := { sServe.req with entries := [(0, { Entry.init with st := .paused, far := 3 })] } } 0).st = .paused
    ∧ (entryOf { sServe with req := { sServe.req with entries := [(0, { Entry.init with st := .paused, far := 3 })] } } 0).far ≠ 0
    ∧ (cnvOf sServe 0).loadPh = 0 ∧ regionExists (.image 0 0) = true ∧ ((0, 0) : Nat × Nat) ∈ sLost.kv.lostImg ∧ (cnvOf sLost 0).awaitImg = false
    ∧ (cnvOf sLost 0).lostHold = true ∧ engineUsed sLost 0 (engineOf 0) = true ∧ 16383 < 16384 ∧ sCore.sch.cur.isSome = true ∧ sServe.sch.cur = none := by
  decide

/-- The lost image, with the CRC-32C that what the cells hold has. -/
def matching : PlaneImage := { anImage with crc := crc32c (readImage sLost 0 anImage).bytes }
def sRead : State := { sLost with kv := { sLost.kv with master := [(0, some matching)] } }

theorem readImage_matches (s : State) (k : KvSt) (pk : Nat) (m : PlaneImage) :
    imageMatches { s with kv := k } pk { m with crc := crc32c (readImage s pk m).bytes } = true := by
  have h1 : ∀ p i j, cellAt { s with kv := k } p i j = cellAt s p i j := fun _ _ _ => rfl
  have h2 : ∀ p, rowPerm { s with kv := k } p = rowPerm s p := fun _ => rfl
  have h3 : ∀ a j, physCol { s with kv := k } a j = physCol s a j := fun _ _ => rfl
  have h4 : ∀ p j, flipOf { s with kv := k } p j = flipOf s p j := fun _ _ => rfl
  simp only [imageMatches, readImage, h1, h2, h3, h4, beq_self_eq_true]

theorem witness_MemoryErrors_readback : tget none sRead.kv.master 0 = some matching ∧ imageMatches sRead 0 matching = true :=
  ⟨rfl, readImage_matches sLost sRead.kv 0 anImage⟩

theorem witness_MemoryErrors_lost : ((0, 0) : Nat × Nat) ∈ sRead.kv.lostImg ∧ (cnvOf sRead 0).awaitImg = false ∧ (cnvOf sRead 0).lostHold = true
    ∧ regionExists (.image 0 0) = true ∧ (tget none ({ sLost.kv with master := [] }).master 0).any (imageMatches sLost 0) = false := by decide

/-- A SUBMIT of three tokens; the same as the first part of one. -/
def aBody : SubmitBody := { (default : SubmitBody) with maxnew := 2, nprompt := 3, prompt := [5, 6, 7], ctl := Ctl.init, prio := 3 }

/-- READY with canvas 0 serving and an entry of partition 0 in a state. -/
def sEnt (f : Entry → Entry) : State :=
  { sServe with req := { sServe.req with entries := [(0, f { Entry.init with st := .decode, gen := 1, toks := [5, 6], kv := 1, maxnew := 4, bound := 6, resv := 4, ses := 2 })] } }
/-- The header that names that entry: index 0, generation 1. -/
def hEnt : Hdr := { hPart with handle := handleOf 0 0 1 }

theorem witness_SubmitAdmission : cmdRuns sServe .partition hPart ∧ ({ aBody with part := true }).part = true ∧ aBody.part = false
    ∧ refuse sHost 0 true 5 false Ctl.init = some (8, 0) ∧ refuse sServe 0 true 5 false Ctl.init = none ∧ declared sServe 0 = some aBundle
    ∧ freeIndex sServe = some 1 ∧ aBody.tbound = false ∧ ({ aBody with tbound := true }).tbound = true ∧ tintCurrent sServe 0 15 = 0
    ∧ (ptnOf { sServe with ptn := [(0, { Ptn.init with entryMax := 1 })] } 0).entryMax ≤ entryUsed sServe 0 ∧ entryUsed sServe 0 < (ptnOf sServe 0).entryMax
    ∧ nearUsed sServe 0 + (newEntry sServe hPart 0 aBody aBundle).resv ≤ (ptnOf sServe 0).nearQ ∧ admitting sServe 0 = true
    ∧ admitting { sServe with cnv := [(0, { serving with fence := true })] } 0 = false :=
  ⟨runs_of (by decide) (by decide), by decide, by decide, by decide, by decide, by decide, by decide, by decide, by decide, by decide, by decide,
    by decide, by decide, by decide, by decide⟩

/-- The same with nothing of the request in a cache, and a canvas whose bundle takes no room of the far tier. -/
def lightBundle : Bundle := { aBundle with images := [], projs := [{ tid := 65535, inW := 1, outW := 0, sketch := false }] }
def light (f : Entry → Entry) : State :=
  { sEnt (fun e => f { e with kv := 0 }) with cnv := [(0, { serving with bundle := some lightBundle })] }

/-- A pause of nothing fits the far tier, whatever the request region takes. -/
theorem takes_nothing {s : State} {n ix : Nat} (h1 : farUsed s n + farPromised s (fun e => e.ptn == n) ix ≤ (ptnOf s n).farQ)
    (h2 : farOfBundles s = 0) (h3 : allPtns.foldl (fun a k => a + farUsed s k) 0 + s.kv.retiredFar = 0) (h4 : farPromised s (fun _ => true) ix = 0) :
    quotaTakes s n ix 0 = true := by
  have hr : Config.regionBytes.val < 2 ^ 40 + 1 := Config.regionBytes.isLt
  have hf : farTierBytes = 2 ^ 40 := by decide
  simp only [quotaTakes, farTakes, farFits, farBytes, h2, h3, h4, hf, Bool.and_eq_true, decide_eq_true_eq]
  omega

theorem pause_fits {s : State} {ix : Nat} (h0 : farFrames s ix = 0)
    (h1 : farUsed s (entryOf s ix).ptn + farPromised s (fun e => e.ptn == (entryOf s ix).ptn) ix ≤ (ptnOf s (entryOf s ix).ptn).farQ)
    (h2 : farOfBundles s = 0) (h3 : allPtns.foldl (fun a k => a + farUsed s k) 0 + s.kv.retiredFar = 0) (h4 : farPromised s (fun _ => true) ix = 0) :
    pauseFits s ix = true := by
  unfold pauseFits
  rw [h0]
  exact takes_nothing h1 h2 h3 h4

theorem no_quota {s : State} {n ix k : Nat} (h : (ptnOf s n).farQ < farUsed s n + farPromised s (fun e => e.ptn == n) ix + k) :
    quotaTakes s n ix k = false := by
  simp only [quotaTakes, Bool.and_eq_false_iff, decide_eq_false_iff_not]
  exact .inl (by omega)

/-- The half-received command of queue 3 of partition 0, and the module with it. -/
def aPart : PartCmd := { h := { hPart with queue := 3 }, cont := false, b := { aBody with part := true, prompt := [] }, us := 0 }
def sPart : State := { sServe with ptn := [(0, { ptnOf sServe 0 with parts := [(3, some aPart)] })] }

theorem witness_ContinueAndParts : cmdRuns (sEnt fun e => { e with st := .idle }) .partition hEnt ∧ handleEntry (sEnt fun e => { e with st := .idle }) hEnt = some 0
    ∧ refuse (sEnt fun e => { e with st := .idle }) 0 (bodyOk aBody 2 && true) 7 false Ctl.init = none ∧ refuse sServe 0 false 7 false Ctl.init = some (8, 0)
    ∧ tintGone (sEnt fun e => { e with tbound := true, tver := 1 }) (entryOf (sEnt fun e => { e with tbound := true, tver := 1 }) 0) = true
    ∧ tintGone (sEnt id) (entryOf (sEnt id) 0) = false ∧ resvFits (sEnt fun e => { e with st := .idle }) 0 0 (resvFor aBundle 7 0) = true
    ∧ cmdReady sPart .partition { hPart with queue := 3 } ∧ tget none (ptnOf sPart 0).parts 3 = some aPart ∧ tget none (ptnOf sPart 0).parts 2 = none
    ∧ (false || decide (aPart.b.nprompt ≤ (aPart.b.prompt ++ [5]).length)) = false ∧ 11 < 12 ∧ 3 < 4 ∧ sPart.clk.us < aPart.us + 1000000
    ∧ aPart.us + 1000000 ≤ ({ sPart.clk with us := 1000000 }).us ∧ canAnswer sPart aPart.h :=
  ⟨runs_of (by decide) (by decide), by decide, by decide, by decide, by decide, by decide, by decide, ready_of (by decide), by decide, by decide,
    by decide, by decide, by decide, by decide, by decide, by unfold canAnswer; decide⟩

theorem witness_ContinueAndParts_export : cmdRuns (sEnt fun e => { e with st := .paused, exporting := true }) .partition hEnt ∧ aBody.part = false
    ∧ handleEntry (sEnt fun e => { e with st := .paused, exporting := true }) hEnt = some 0
    ∧ (entryOf (sEnt fun e => { e with st := .paused, exporting := true }) 0).exporting = true
    ∧ (entryOf (sEnt fun e => { e with st := .idle }) 0).exporting = false :=
  ⟨runs_of (by decide) (by decide), by decide, by decide, by decide, by decide⟩

theorem witness_RequestControls : cmdRuns (sEnt id) .partition hEnt ∧ handleEntry (sEnt id) hEnt = some 0 ∧ handleEntry sHost hEnt = none
    ∧ handleRetired sHost hEnt = false ∧ handleRetired (sEnt fun e => { e with st := .free }) hEnt = true
    ∧ cmdRuns (sEnt fun e => { e with st := .free }) .partition hEnt ∧ (entryOf (sEnt fun e => { e with fin := some 0 }) 0).fin.isSome = true
    ∧ (entryOf (sEnt id) 0).fin = none ∧ running (entryOf (sEnt id) 0) = true ∧ (ptnOf (sEnt id) 0).sealed = false ∧ (entryOf (sEnt id) 0).waitHdr = none
    ∧ pauseFits (light id) 0 = true ∧ pauseFits { sEnt id with ptn := [(0, { Ptn.init with farQ := 0 })] } 0 = false
    ∧ (entryOf (sEnt fun e => { e with st := .paused, exporting := true }) 0).exporting = true ∧ tintGone (sEnt id) (entryOf (sEnt id) 0) = false
    ∧ (entryOf (sEnt fun e => { e with st := .pausing }) 0).st = .pausing ∧ (entryOf (sEnt id) 0).pendDiscard = false
    ∧ (entryOf (sEnt fun e => { e with st := .paused }) 0).st = .paused ∧ (ptnOf (sEnt id) 0).enabled = true ∧ (cnvOf (sEnt id) 0).enabled = true
    ∧ declared (sEnt id) 0 = some aBundle ∧ resvFits (sEnt fun e => { e with st := .paused }) 0 0 (resvFor aBundle 6 0) = true
    ∧ resvFits { sEnt (fun e => { e with st := .paused, resv := 0 }) with ptn := [(0, { Ptn.init with nearQ := 0 })] } 0 0 (resvFor aBundle 6 0) = false :=
  ⟨runs_of (by decide) (by decide), by decide, by decide, by decide, by decide, runs_of (by decide) (by decide), by decide, by decide, by decide, by decide,
    by decide, pause_fits (by decide) (by decide) (by decide) (by decide) (by decide), no_quota (by decide), by decide, by decide, by decide, by decide,
    by decide, by decide, by decide, by decide, by decide, by decide⟩

/-- An export package for this module, its bundle and partition 0. -/
def aPackage : Package := { (default : Package) with sigOk := true, forUs := true, peer := 4, serial := 9, hash := 99, tokens := [5, 6] }

theorem witness_ExportAndImport : cmdRuns (sEnt fun e => { e with st := .paused }) .partition hEnt
    ∧ handleEntry (sEnt fun e => { e with st := .paused }) hEnt = some 0 ∧ (entryOf (sEnt id) 0).st ≠ .idle ∧ (entryOf (sEnt id) 0).st ≠ .paused
    ∧ (entryOf (sEnt fun e => { e with st := .paused }) 0).exporting = false ∧ (entryOf (sEnt fun e => { e with st := .paused }) 0).pendDiscard = false
    ∧ pauseFits (light fun e => { e with st := .idle }) 0 = true ∧ 16383 < 16384
    ∧ (entryOf (sEnt fun e => { e with st := .paused, exporting := true }) 0).exporting = true
    ∧ packageOut 0 (sEnt fun e => { e with st := .paused, exporting := true, exSession := 2 }) = false :=
  ⟨runs_of (by decide) (by decide), by decide, by decide, by decide, by decide, by decide,
    pause_fits (by decide) (by decide) (by decide) (by decide) (by decide), by decide, by decide, by decide⟩

theorem witness_ExportAndImport_package : cmdRuns (light id) .partition hPart ∧ (light id).hist.draining = false ∧ (light id).hist.inRepl = false
    ∧ ptnClosed (light id) 0 = false ∧ ptnClosed { light id with ptn := [(0, { Ptn.init with enabled := false })] } 0 = true
    ∧ ({ aPackage with sigOk := false }).sigOk = false ∧ aPackage.sigOk = true ∧ aPackage.forUs = true
    ∧ (aPackage.peer, aPackage.serial) ∉ (light id).req.imported ∧ (cnvOf (light id) (ptnOf (light id) 0).canvas).bundle = some lightBundle
    ∧ lightBundle.hash = aPackage.hash ∧ aPackage.tbound = false ∧ freeIndex (light id) = some 1 ∧ entryUsed (light id) 0 < (ptnOf (light id) 0).entryMax
    ∧ quotaTakes (light id) 0 16384 aPackage.frames = true :=
  ⟨runs_of (by decide) (by decide), by decide, by decide, by decide, by decide, by decide, by decide, by decide, by decide, by decide, by decide,
    by decide, by decide, by decide, takes_nothing (by decide) (by decide) (by decide) (by decide)⟩

/-- READY with version 1 of tint slot 15 of partition 0 current. -/
def sTints : State :=
  { light id with ptn := [(0, { ptnOf sServe 0 with tints := [(15, { last := 1, live := [{ (default : TintVer) with ver := 1, current := true }] })] })] }
def goodPair : TintPair := { aPair with rank := 4, a := [[0, 0, 0, 0]], b := [[], [], [], []] }

theorem witness_TintsAndCompletionQueues : cmdRuns sTints .partition hPart ∧ 15 < 16 ∧ 16 ≤ 16 ∧ ptnClosed sTints 0 = false
    ∧ ((declared sTints (ptnOf sTints 0).canvas).any fun b => [aPair].all (pairOk b)) = false
    ∧ ((declared sTints (ptnOf sTints 0).canvas).any fun b => [goodPair].all (pairOk b)) = true
    ∧ ((tintSlot sTints 0 15).live.filter fun v => !v.gone && tintBound sTints 0 15 v.ver).length < 4
    ∧ nearUsed sTints 0 + tintFrames [goodPair] ≤ (ptnOf sTints 0).nearQ
    ∧ tintCurrent sTints 0 15 ≠ 0 ∧ tintCurrent sTints 0 14 = 0 ∧ 3 < 4 ∧ 64 ≤ 64 ∧ 64 < 65 ∧ (sesOf sTints 2).lapsed = false :=
  ⟨runs_of (by decide) (by decide), by decide, by decide, by decide, by decide, by decide, by decide, by decide, by decide, by decide, by decide, by decide,
    by decide, by decide⟩

/-- Partition 0 disabled: its commands are refused. -/
def sClosed : State := { sServe with ptn := [(0, { ptnOf sServe 0 with enabled := false })] }

theorem witness_TintsAndCompletionQueues_closed : cmdRuns sClosed .partition hPart ∧ ptnClosed sClosed 0 = true := ⟨runs_of (by decide) (by decide), by decide⟩

theorem witness_RequestTimersAndMoves_idle : (entryOf (light fun e => { e with st := .idle }) 0).st = .idle
    ∧ pauseFits (light fun e => { e with st := .idle }) 0 = true :=
  ⟨by decide, pause_fits (by decide) (by decide) (by decide) (by decide) (by decide)⟩

theorem witness_RequestTimersAndMoves : 16383 < 16384 ∧ (entryOf sServe 0).waitHdr = none
    ∧ (entryOf (sEnt fun e => { e with waitHdr := some hPart, waitEnd := 5 }) 0).waitHdr = some hPart
    ∧ admitting { sServe with cnv := [(0, { serving with fence := true })] } 0 = false ∧ (entryOf sServe 0).saved = none
    ∧ deadlinePassed sServe (entryOf sServe 0) = false
    ∧ deadlinePassed { sEnt (fun e => { e with deadline := 9, st := .paused, keep := true }) with clk := { sServe.clk with us := 9 } }
        (entryOf (sEnt (fun e => { e with deadline := 9, st := .paused, keep := true })) 0) = true
    ∧ (entryOf (sEnt fun e => { e with st := .paused, ttlEnd := 6000 }) 0).st = .paused ∧ sServe.clk.hours < 6000
    ∧ (entryOf (sEnt fun e => { e with st := .idle }) 0).st = .idle
    ∧ (entryOf (light fun e => { e with st := .idle }) 0).lastAct + 1000000 * idleLimit (light fun e => { e with st := .idle }) (entryOf (light fun e => { e with st := .idle }) 0) ≤ ({ sServe.clk with us := 60000000 }).us
    ∧ (entryOf (sEnt fun e => { e with st := .pausing }) 0).st = .pausing ∧ (entryOf (sEnt fun e => { e with st := .resuming }) 0).st = .resuming
    ∧ (({ sServe.kv with scrub := [(11, 1048575, 3)] }).scrub.find? fun x => x.1 == 11 && x.2.1 == 1048575) = some (11, 1048575, 3) ∧ 1048575 < 1048576
    ∧ (({ sServe.kv with scrubFar := [(11, 3)] }).scrubFar.find? (·.1 == 11)) = some (11, 3) ∧ 3 < 4 ∧ (cnvOf sServe 3).loadPh ≠ 1
    ∧ (cnvOf (sLoad 1 0 false) 0).loadPh = 1 ∧ (cnvOf (sLoad 1 0 false) 0).loadEnd ≤ (sLoad 1 0 false).clk.us := by decide +kernel

theorem witness_LeasesAndMessages : (sesOf sHost 2).live = true ∧ (sesOf sHost 2).lapsed = false
    ∧ (sesOf sHost 2).leaseEnd ≤ ({ sHost.clk with hours := 100 }).hours ∧ sHost.clk.hours < (sesOf sHost 2).leaseEnd ∧ 2 ^ 32 - 1 < 2 ^ 32
    ∧ (sesOf (modSes 2 (fun e => { e with lapsed := true }) sHost) 2).lapsed = true
    ∧ (sesOf (modSes 2 (fun e => { e with lapsed := true }) sHost) 2).graceEnd ≤ sHost.clk.hours ∧ (entryOf sServe 0).out = []
    ∧ (entryOf (sEnt fun e => { e with out := [9] }) 0).out ≠ [] ∧ (entryOf (sEnt fun e => { e with out := [9] }) 0).sentAny = false
    ∧ (sesOf sServe (entryOf sServe 0).ses).sid = (entryOf sServe 0).ses ∧ (sesOf sServe (entryOf sServe 0).ses).closed = false ∧ 11 < 12
    ∧ (ptnOf { sServe with ptn := [(0, { ptnOf sServe 0 with coalUs := some 0, events := [default] })] } 0).coalUs = some 0
    ∧ sServe.clk.us < 0 + (ptnOf sServe 0).coal ∧ 0 + (ptnOf sServe 0).coal ≤ ({ sServe.clk with us := 100 }).us ∧ liveSes sServe 0 ≠ [] := by decide

/-- A segment for session 2 on port 0, and an acknowledgement. -/
def aSeg : Segment :=
  { (default : Segment) with port := 0, sid := 2, seq := 0, msgid := 0, segix := 0, segcnt := 1, tagOk := true, fill := 75, body := [1] }
def anAck : AckInfo := { (default : AckInfo) with port := 0, sid := 2, cum := 4, bits := [255], tagOk := true, ece := true }
/-- Session 2 with a segment in flight since 0, and with an acknowledgement due on path 0. -/
def aFlight : OutSeg := { (default : OutSeg) with seq := 9, cnt := 1 }
def sFlight (us : Nat) : State :=
  { modSes 2 (fun e => { e with flight := [aFlight], ackUs := some 0 }) sHost with clk := { sHost.clk with us := us } }

theorem witness_SegmentsAndAcks : segFields aSeg = true ∧ takesSeg sReady aSeg = false ∧ aSeg.fill ≤ 75 ∧ takesSeg sHost aSeg = true ∧ sesTakes sHost 2 = true
    ∧ dataOk sHost aSeg = true ∧ dataOk sHost { aSeg with tagOk := false } = false ∧ segFields { aSeg with fill := 100 } = true
    ∧ (portOf { sHost with net := { sHost.net with ports := [(0, { Port.init with pfcEn := true })] } } 0).pfcEn = true ∧ (sesOf sHost 2).lapsed = false
    ∧ (sesOf sHost 2).rxSince < 3 ∧ 3 ≤ (sesOf (modSes 2 (fun e => { e with rxSince := 3 }) sHost) 2).rxSince ∧ (sesOf sHost 2).closing = false
    ∧ aSeg.seq = (sesOf sHost 2).rxCum ∧ aSeg.seq ∉ (sesOf sHost 2).rxSeen ∧ (sesOf sHost 2).rxMax ≤ aSeg.seq + 65536 ∧ aSeg.msgid = (sesOf sHost 2).rxMsg
    ∧ (∀ x ∈ (sesOf sHost 2).asm, x.1 ≠ aSeg.msgid) ∧ aSeg.seq < (sesOf (modSes 2 (fun e => { e with rxCum := 1 }) sHost) 2).rxCum
    ∧ anAck.port < 8 ∧ (∀ b ∈ anAck.bits, b < 256) ∧ portTakes sHost 0 = true ∧ ackCovers anAck { aFlight with seq := 3 } = true ∧ ackCovers anAck aFlight = false
    ∧ (sesOf (sFlight 20) 2).ackUs = some 0 ∧ (sFlight 19).clk.us < 0 + 20 ∧ (sesOf (sFlight 20) 2).ackPath = 0
    ∧ ((sesOf (sFlight 0) 2).flight.find? fun x => x.seq == 9) = some aFlight ∧ (sesOf (sFlight 0) 2).ended = false
    ∧ (sFlight 999).clk.us < aFlight.sentUs + 1000 * (pathOf (sesOf (sFlight 0) 2) aFlight.net).tmo
    ∧ timesOut (sFlight 1000) (sesOf (sFlight 1000) 2) aFlight = true
    ∧ (pathOf { ses 2 0 with pathA := { PathRec.init with fails := 2 } } 0).fails + 1 = 3 ∧ (pathOf (ses 2 0) 0).fails + 1 ≠ 3 := by decide

theorem witness_SegmentsAndAcks_vlan : vlanOk sHost aSeg.port (sesOf sHost 2).role aSeg.vid = true
    ∧ vlanOk { sHost with ptn := [(0, { ptnOf sHost 0 with vidA := 5 })] } 0 0 0 = false ∧ aSeg.vid < 4096 ∧ anAck.vid < 4096 ∧ anAck.sid < 2 ^ 32
    ∧ sesTakes sHost anAck.sid = true ∧ vlanOk sHost anAck.port (sesOf sHost anAck.sid).role anAck.vid = true ∧ anAck.tagOk = true
    ∧ (sesOf (sFlight 1000) 2).live = true ∧ (sesOf (sFlight 1000) 2).closing = false := by decide

/-- A handshake of an operator, and the module with it begun. -/
def aShake : HsInit := { (default : HsInit) with port := 0, hsid := 5, role := 0, certOk := true, certRole := 0 }
def sClaimed : State := { sHost with sec := { sHost.sec with claimed := true } }
def aHs (done : Bool) : Hs := { hsid := 5, m := aShake, us := 0, answer := default, done := done }
def sShake (us : Nat) (done : Bool) : State := { sClaimed with net := { sClaimed.net with shakes := [aHs done] }, clk := { sClaimed.clk with us := us } }

theorem witness_Handshakes : aShake.port < 8 ∧ portTakes sReady 0 = false ∧ portTakes sClaimed 0 = true ∧ sClaimed.sec.romRec = false
    ∧ (sClaimed.net.shakes.find? fun x => x.hsid == 5) = none ∧ hsReason sClaimed aShake = none ∧ hsReason sClaimed { aShake with certOk := false } = some 1
    ∧ (({ sClaimed.sec with romRec := true }).romRec = true) ∧ ((sShake 0 false).net.shakes.find? fun x => x.hsid == 5) = some (aHs false)
    ∧ (aHs false).done = false ∧ (sShake 2000000 false).clk.us ≤ (aHs false).us + 2000000 ∧ (aHs false).us + 2000000 < (sShake 2000001 false).clk.us
    ∧ sesFull (sShake 0 false) 0 = false ∧ 2 ^ 512 - 1 < 2 ^ 512 ∧ attachTo sClaimed aShake = none
    ∧ sesFull { sClaimed with net := { sClaimed.net with sess := [(1, ses 1 16), (4, ses 4 16), (5, ses 5 16), (6, ses 6 16)] } } 0 = true
    ∧ attachTo (modSes 1 (fun e => { e with attach := 8, attachOk := true }) sClaimed) { aShake with attach := 8 } = some 1
    ∧ freeSid sClaimed (sClaimed.net.sess.length + 2) sClaimed.net.nextSid = 4
    ∧ (sShake 1999999 false).clk.us < (aHs false).us + 2000000 ∧ (aHs true).us + 2000000 ≤ (sShake 2000000 true).clk.us := by decide +kernel

theorem witness_Handshakes_vlan : vlanOk sClaimed aShake.port (roleCode aShake.role) aShake.vid = true
    ∧ vlanOk sClaimed aShake.port (roleCode aShake.role) 4095 = false ∧ aShake.vid < 4096 := by decide

/-- Session 2 with its path on network 0 down. -/
def sDown (acks pnum : Nat) (await : Bool) : State :=
  modSes 2 (fun e => { e with pathA := { e.pathA with up := false, acks := acks, pnum := pnum, await := await } }) sHost

theorem witness_PathsAndClose : segFields aSeg = true ∧ takesSeg sHost aSeg = true ∧ sesTakes sHost aSeg.sid = true ∧ aSeg.tagOk = true
    ∧ (sesOf sHost 2).closing = false ∧ (pathOf (sesOf (modSes 2 (fun e => { e with pathA := PathRec.init }) sHost) 2) 0).open_ = false
    ∧ (pathOf (sesOf sHost 2) (netOf 0)).open_ = true ∧ 0 ∉ (sesOf sHost 2).offer ∧ (pathOf (sesOf (sDown 2 8 true) 2) 0).up = false
    ∧ (pathOf (sesOf (sDown 2 8 true) 2) 0).await = true ∧ 7 + 1 = (pathOf (sesOf (sDown 2 8 true) 2) 0).pnum
    ∧ 2 ≤ (pathOf (sesOf (sDown 2 8 true) 2) 0).acks ∧ (pathOf (sesOf (sDown 1 8 true) 2) 0).acks < 2 ∧ 1 < 2
    ∧ (pathOf (sesOf sHost 2) 0).up = true ∧ portServes (sDown 0 0 false) (pathOf (sesOf (sDown 0 0 false) 2) 0).port = true
    ∧ (sesOf (sDown 0 0 false) 2).live = true ∧ (sesOf (sDown 0 0 false) 2).ended = false ∧ (portOf sHost 7).link = false ∧ (portOf sHost 0).link = true
    ∧ (pathOf (sesOf sHost 2) (netOf 0)).port = 0 ∧ (portOf sHost 7).enable = true
    ∧ (portOf { sHost with net := { sHost.net with ports := [(7, { Port.init with enable := false })] } } 7).enable = false := by decide

theorem witness_DiscoveryAndFlowControl : 7 < 8 ∧ portServes sHost 7 = false ∧ portServes sHost 0 = true ∧ portTakes sHost 0 = true
    ∧ (portOf sHost 0).solCnt < 100 ∧ 100 ≤ ({ Port.init with solCnt := 100 }).solCnt ∧ sHost.clk.us < (portOf sHost 0).solUs + 1000000
    ∧ 2 ^ 128 - 1 < 2 ^ 128 ∧ (portOf sHost 0).slaac = true ∧ (portOf sHost 0).ipv6 = 0 ∧ 128 ≤ 128 ∧ 63 ≠ 64
    ∧ (portOf sHost 0).chassis = 0 ∧ (portOf sHost 0).chassis ≠ 1 ∧ 65535 < 65536 ∧ (portOf sHost 0).pfcEn = false
    ∧ ({ Port.init with pfcEn := true, pfcPrio := 7 }).pfcEn = true ∧ 50 ≤ 50 ∧ 49 < 50 ∧ (portOf sHost 0).macUp = true ∧ (portOf sHost 0).macUp ≠ false := by
  decide

/-- The port die of ports 6 and 7 has failed. -/
def sPortDie : State :=
  { sHost with hist := { sHost.hist with records := [{ (default : FaultRec) with perm := true, level := 0, unit := 37 * 2 ^ 26 }] } }

theorem witness_PathsAndClose_die : portDieFailed sHost 7 = false ∧ portDieFailed sPortDie 7 = true
    ∧ vlanOk sHost aSeg.port (sesOf sHost aSeg.sid).role aSeg.vid = true := by decide

/-- READY with firmware class 2 staged in slot B; with an update of it open since 0. -/
def anImg : Img := { Img.init with valid := true, svn := 3, rhi := 1 }
def sFw : State := { sHost with sec := { sHost.sec with fw := [(2, { FwCls.init with b := anImg, staged := true, floor := 3 })] } }
def anUpd : FwUpd := { cls := 2, h := hOp, us := 0, step := 0 }
def sUpd (us : Nat) : State := { sFw with sec := { sFw.sec with upd := some anUpd }, clk := { sFw.clk with us := us } }
def sSafe : State := { sFw with sec := { sFw.sec with safe := true } }

theorem witness_FirmwareUpdates_class : fwClassOk 0 = false ∧ fwClassOk 5 = false ∧ ∀ u, sFw.sec.upd = some u → u.cls ≠ 5 := by
  refine ⟨by decide, by decide, ?_⟩
  intro u h; cases h

theorem witness_FirmwareUpdates : 1 ≤ 2 ∧ 4 ≤ 4 ∧ opRuns sFw hOp ∧ opRuns (sUpd 0) hOp ∧ opRuns sSafe hOp ∧ cmdRuns sFw .operator_ hOp ∧ 65535 < 65536
    ∧ 2 ^ 512 - 1 < 2 ^ 512 ∧ (sUpd 0).sec.upd = some anUpd ∧ anUpd.cls = 2 ∧ anUpd.cls ≠ 4 ∧ sFw.sec.upd = none ∧ 2 < (fwOf sFw 2).floor
    ∧ (fwOf sFw 2).floor ≤ 3 ∧ (fwOf sFw 1).staged = false ∧ (fwOf sFw 2).staged = true ∧ (spareImg (fwOf sFw 2)).valid = true
    ∧ (spareImg (fwOf sFw 1)).valid = false ∧ schemaOk (activeImg (fwOf sFw 2)) (spareImg (fwOf sFw 2)) = true ∧ holding sFw = false
    ∧ (fwOf sFw 2).floor ≤ (spareImg (fwOf sFw 2)).svn ∧ sFw.hist.draining = false ∧ sFw.hist.inRepl = false ∧ sFw.sec.safe = false ∧ sSafe.sec.safe = true
    ∧ (sUpd 0).sec.updNow = false ∧ (sUpd 399999).clk.us < anUpd.us + 400000 ∧ anUpd.us + 400000 ≤ (sUpd 400000).clk.us ∧ warned (sUpd 400000) = false
    ∧ (sUpd 499999).clk.us < anUpd.us + 500000 ∧ anUpd.us + 500000 ≤ (sUpd 500000).clk.us ∧ canAnswer (sUpd 0) hOp ∧ fwUnitOk 4 attCl0 = true
    ∧ fwUnitOk 1 0 = true ∧ (∀ e ∈ sFw.sec.fwSeen, e.1 = 4 * 2 ^ 32 + attCl0 → e.2 + 36000000 < sFw.clk.hours)
    ∧ (∃ e ∈ ({ sFw.sec with fwSeen := [(2 ^ 32, 0)] }).fwSeen, e.1 = 1 * 2 ^ 32 + 0 ∧ ({ sFw.clk with hours := 36000000 }).hours ≤ e.2 + 36000000) := by
  refine ⟨by decide, by decide, op_of (by decide), op_of (by decide), op_of (by decide), runs_of (by decide) (by decide), by decide, ?_, ?_⟩
  · decide +kernel
  · unfold canAnswer; decide

theorem witness_OwnershipAndConfiguration : 2 ^ 4096 - 1 < 2 ^ 4096 ∧ cmdRuns sHost .claimant hClm ∧ sHost.sec.claimed = false ∧ sClaimed.sec.claimed = true
    ∧ roleH sHost hClm = 17 ∧ cmdRuns sClaimed .operator_ hOp ∧ anyResident sServe = true ∧ anyResident sHost = false ∧ sHost.sec.recovery = false
    ∧ cmdRuns { sHost with ptn := [] } .operator_ hOp
    ∧ (anyLoad sHost || anyErase sHost || sHost.hist.draining || sHost.hist.inRepl || holding sHost || !(enabledPtns sHost).isEmpty) = true
    ∧ (anyLoad sReady || anyErase sReady || sReady.hist.draining || sReady.hist.inRepl || holding sReady || !(enabledPtns sReady).isEmpty) = false
    ∧ 65535 < 65536 ∧ 2 < ({ sHost.sec with cfgFloor := 3 }).cfgFloor ∧ sHost.sec.cfgFloor ≤ 0 ∧ sHost.sec.cfgA.seq ≤ sHost.sec.cfgB.seq
    ∧ ({ sHost.sec with cfgA := { ok := true, seq := 1, own := [] } }).cfgB.seq < ({ sHost.sec with cfgA := { ok := true, seq := 1, own := [] } }).cfgA.seq
    ∧ opRuns sHost hOp ∧ 1 < 2 ∧ sHost.sec.cfgConf = false ∧ ({ sHost.sec with cfgConf := true }).cfgConf = true ∧ sHost.sec.resolve = none
    ∧ ({ sHost.sec with resolve := some 0 }).resolve = some 0 ∧ 0 + 100000 ≤ ({ sHost.clk with us := 100000 }).us ∧ 2 ^ 256 - 1 < 2 ^ 256 :=
  ⟨by decide +kernel, runs_of (by decide) (by decide), by decide, by decide, by decide, runs_of (by decide) (by decide), by decide, by decide, by decide,
    runs_of (by decide) (by decide), by decide, by decide, by decide, by decide, by decide, by decide, by decide, op_of (by decide), by decide, by decide,
    by decide, by decide, by decide, by decide, by decide +kernel⟩

theorem witness_RegisterMessages : opRuns sHost hOp ∧ 2 ^ 32 - 1 < 2 ^ 32 ∧ 65535 < 2 ^ 16 ∧ rangeOk 0xFFFC00 256 = true ∧ rangeOk 0 257 = false
    ∧ 0xFFFFFC + 4 ≤ 2 ^ 24 ∧ accessOf sHost (.operator 1 0) false 0x050 = (0, some (.dev, 0x050)) ∧ accessOf sHost (.operator 1 0) false 0xFFFFFC = (2, none)
    ∧ accessOf sHost (.operator 1 0) false 0x20010 = (0, some (.evr, 0x010)) ∧ accessOf sHost (.operator 1 0) false 0x1B0000 = (0, some (.ptn 11, 0))
    ∧ cmdRuns sHost .any hOp ∧ roleH sHost hOp = 16 ∧ opRuns sSafe hOp ∧ sSafe.sec.safe = true ∧ cmdRuns sHost .any hPart ∧ roleH sHost hPart < 12 :=
  ⟨op_of (by decide), by decide, by decide, by decide, by decide, by decide, by decide +kernel, by decide +kernel, by decide +kernel, by decide +kernel,
    runs_of (by decide) (by decide), by decide, op_of (by decide), by decide, runs_of (by decide) (by decide), by decide⟩

theorem witness_RegisterRows : rowRuns sHost (.operator 1 0) 0x30004 .cal 4 ∧ rowRuns sHost .sideband 0x20000 .evr 0
    ∧ rowRuns sHost (.operator 1 0) 0x10000 .pwr 0 ∧ rowRuns sHost (.operator 1 0) 0x1B0000 (.ptn 11) 0 := by
  unfold rowRuns; exact ⟨by decide +kernel, by decide +kernel, by decide +kernel, by decide +kernel⟩

theorem witness_RegisterRows_blocks : rowRuns sHost (.operator 1 0) 0x53000 (.cnv 3) 0 ∧ rowRuns sHost (.operator 1 0) 0x40004 .hlth 4
    ∧ rowRuns sHost (.operator 1 0) 0x40080 .hlth 0x80 := by
  unfold rowRuns; exact ⟨by decide +kernel, by decide +kernel, by decide +kernel⟩

theorem witness_RegisterRows_refused : accessOf sHost (.partition 2 0) true 0x10000 = (1, none) ∧ pathLive sHost (.operator 9 0) = false
    ∧ sSafe.sec.safe = true ∧ Path.operator 1 0 ≠ .sideband := by
  decide +kernel

theorem witness_RegisterRows_fields : (trigOf sHost 31).en = true ∧ (trigOf sHost 31).holdoff = 0 ∧ sHost.evr.full = false ∧ sHost.evr.queue.length < 64
    ∧ bitOf (0x245 : Word).toNat 0 = true ∧ bitOf (0x245 : Word).toNat 1 = false ∧ bitOf (0x245 : Word).toNat 2 = true ∧ bitOf (0x2 : Word).toNat 1 = true
    ∧ bitOf (0x2D0 : Word).toNat 10 = sHost.pwr.holdReq ∧ 200 ≤ fld (0x2D0 : Word).toNat 0 10 ∧ fld (0x2D0 : Word).toNat 0 10 ≤ 720
    ∧ bitOf (0x400 : Word).toNat 10 = true ∧ sHost.pwr.holdReq = false ∧ running_ sHost = true ∧ ({ sHost.pwr with holdReq := true }).holdReq = true
    ∧ sHost.pwr.holdPin = false ∧ sHost.pwr.tjHold = false ∧ warned sHost = false ∧ sHost.dev.shutting = false
    ∧ bitOf (1 : Word).toNat 0 = true ∧ (ptnOf sHost 11).enabled = false ∧ (ptnOf sHost 11).keyBad = false ∧ (ptnOf sHost 0).enable = true
    ∧ (ptnOf sHost 0).sealed = false ∧ 6 ≤ fld (0x18 : Word).toNat 1 4 ∧ fld (0x18 : Word).toNat 1 4 ≤ 12 ∧ sHost.hist.auditEn = false := by decide

/-- A record that waits; a recorder with one slot left; one that clears. -/
def aRec : EvRec := default

theorem witness_RecorderRows : sReady.evr.queue = [] ∧ ({ sReady.evr with queue := [aRec] }).queue = aRec :: [] ∧ sReady.evr.clearing = false
    ∧ ({ sReady.evr with clearing := true }).clearing = true ∧ ({ sReady.evr with full := true }).full = true ∧ sReady.evr.full = false
    ∧ ({ sReady.evr with count := 16383 }).count + 1 = 16384 ∧ ({ sReady.evr with uncomm := 255 }).uncomm < 256
    ∧ 256 ≤ ({ sReady.evr with uncomm := 256 }).uncomm ∧ sReady.evr.uncomm = 0 ∧ 0 < ({ sReady.evr with uncomm := 1 }).uncomm
    ∧ sReady.evr.dueUs + 60000000 ≤ ({ sReady.clk with us := 60000000 }).us ∧ 65535 ≤ ({ sReady.evr with epoch := 65535 }).epoch := by decide

def sRom (rcv : Nat) : State := { State.reset with sec := { State.reset.sec with romRec := true, rcv := rcv } }

theorem witness_SidebandRows : sbAlive State.reset = true ∧ State.reset.sec.romRec = false ∧ 255 < 256 ∧ 8 < 9 ∧ 0 < 1 ∧ 1 ≤ 8 ∧ 8 ≤ 8
    ∧ ([1, 2, 3, 4, 5, 6, 7, 8] : List Word).length ≤ 8 ∧ 8 < ([1, 2, 3, 4, 5, 6, 7, 8, 9] : List Word).length ∧ ([] : List Word).length < 1
    ∧ sbAlive (sRom 1) = true ∧ (sRom 1).sec.romRec = true ∧ (sRom 1).sec.rcv = 1 ∧ (sRom 0).sec.rcv ≠ 1 ∧ (0xA4 : Byte) ≠ 0xA5
    ∧ 1 ≤ (List.replicate 32 (7 : Byte)).length ∧ (List.replicate 32 (7 : Byte)).length ≤ 32 ∧ 127 < 128 ∧ State.reset.brd.dynAddr = none
    ∧ ({ State.reset.brd with dynAddr := some 9 }).dynAddr ≠ none ∧ 0x52 ≠ 0x50 + State.reset.brd.straps % 4 ∧ 4 < 5 ∧ State.reset.pwr.off = false
    ∧ State.reset.brd.prsnt = true ∧ ({ State.reset.brd with prsnt := false }).prsnt = false ∧ 24 < 25 ∧ 25 ≤ 25
    ∧ sbAlive { State.reset with pwr := { State.reset.pwr with off := true } } = false := by decide

theorem witness_HoldsAndWarnings : sReady.pwr.holdPin = false ∧ ({ sReady.pwr with holdPin := true }).holdPin = true ∧ running_ sReady = true
    ∧ running_ { sReady with pwr := { sReady.pwr with state := 0 } } = false ∧ held sReady = false ∧ sReady.dev.shutting = false ∧ sReady.pwr.holdReq = false
    ∧ sReady.pwr.tjHold = false ∧ warned sReady = false ∧ sReady.clk.us < sReady.pwr.holdUs + 1500
    ∧ held { sReady with pwr := { sReady.pwr with holdPin := true } } = true ∧ sReady.pwr.holdUs + 1500 ≤ ({ sReady.clk with us := 1500 }).us
    ∧ sReady.pwr.state = 2 ∧ ({ State.reset.pwr with state := 1 }).state = 1 ∧ 5 ≤ ({ State.reset.dev with row := 5 }).row
    ∧ ({ sReady.pwr with warnPin := true }).warnPin = true ∧ sReady.pwr.warnPin = false ∧ sReady.pwr.intWarn = false ∧ sReady.evr.clearing = false
    ∧ 39000 ≤ 39000 ∧ 38999 < 39000 ∧ sReady.pwr.off = false ∧ ({ sReady.pwr with intWarn := true }).intWarn = true ∧ 40000 ≤ 40000 ∧ 39999 < 40000 := by
  decide

theorem witness_InputLosses : 80000 < 80001 ∧ 64000 < 64001 ∧ 36999 < 37000 ∧ sReady.pwr.off = false ∧ 60000 ≤ 60000 ∧ 60000 < 60001 ∧ 80000 ≤ 80000
    ∧ sReady.pwr.disconn = false ∧ ({ sReady.pwr with disconn := true }).disconn = true ∧ ({ sReady.pwr with off := true }).off = true ∧ 39999 < 40000
    ∧ 37000 < 37001 ∧ dieKey (39 * 2 ^ 26) = 39 * 2 ^ 26 ∧ 39 * 2 ^ 26 < 2 ^ 32 ∧ dieOf (39 * 2 ^ 26) < 40 ∧ running_ sReady = true
    ∧ running_ { sReady with pwr := { sReady.pwr with state := 5 } } = false := by decide

theorem witness_InputLosses_next : ∃ t, exec (.inputLockout 36999) sReady = .next t := ⟨_, rfl⟩

/-- READY with one junction diode at 105 °C, and at 99 °C. -/
def sHot (v : Nat) : State := { sReady with pwr := { sReady.pwr with chans := [(0, (v, true))] } }

theorem witness_ReadingsAndLimits : running_ sReady = true ∧ running_ { sReady with pwr := { sReady.pwr with state := 0 } } = false ∧ 255 < 256
    ∧ tget 0 ({ sReady.pwr with stale := [(9, 6)] }).stale 9 / 2 = 3 ∧ hottest (sHot 420) = some (0, 420) ∧ hottest (sHot 399) = some (0, 399)
    ∧ 10 * sReady.pwr.plim < min 65535 5801 ∧ sReady.sec.upd = none ∧ (sHot 420).pwr.tjHold = false ∧ 7200 ≤ 7200 ∧ 7200 < 7201
    ∧ (List.replicate 8 ((250 : Int), true)).length = 8 ∧ ({ sReady.pwr with state := 0 }).state = 0 ∧ sReady.pwr.state ≠ 0
    ∧ (List.replicate 8 ((250 : Int), true))[7]? = some (250, true) ∧ isArrCluster cl0 = true ∧ droopMv sReady ≤ droopMv sReady
    ∧ 0 < droopMv sReady ∧ cl0 ∉ sReady.pwr.stretching ∧ cl0 ∈ ({ sReady.pwr with stretching := [cl0] }).stretching ∧ 63 < 64 ∧ 64 ≤ 64 := by decide

/-- A boot that finds everything in order. -/
def aBoot : BootFind :=
  { puf := true, secA := true, secB := true, cfgA := true, cfgB := true, cfgSeqA := 0, cfgSeqB := 0, cfgSame := true, cfgSig := true
    otherA := [true, true, true], otherB := [true, true, true], keysOk := true, badKeys := [11], histA := true, histB := true, histSeqA := 0, histSeqB := 0
    histSame := true, histRecA := 0, histRecB := 0, histPermA := 0, histPermB := 0, evrGood := 0 }
def atRow (r st : Nat) : State := { State.reset with dev := { State.reset.dev with row := r }, pwr := { State.reset.pwr with state := st } }

theorem witness_PowerUpAndReset : State.reset.brd.pwrEn = true ∧ ({ State.reset.brd with pwrEn := false }).pwrEn = false ∧ State.reset.pwr.off = false
    ∧ (atRow 0 0).pwr.state = 0 ∧ State.reset.pwr.needEdge = false ∧ (atRow 0 1).pwr.state = 1 ∧ (atRow 0 1).dev.row = 0 ∧ State.reset.dev.row ≠ 0 ∧ 7 < 8
    ∧ running_ (atRow 0 0) = false ∧ running_ State.reset = true ∧ 4 ≤ (atRow 4 1).dev.row ∧ (aBoot.badKeys.all fun n => decide (n < 12)) = true
    ∧ State.reset.dev.row = 2 ∧ (atRow 1 1).dev.row ≠ 2 ∧ warned State.reset = false ∧ aBoot.puf = true ∧ ({ aBoot with puf := false }).puf = false
    ∧ aBoot.secA = true ∧ (fwOf State.reset 1).actB = false ∧ (fwOf State.reset 1).a.valid = true ∧ (fwOf State.reset 1).floor ≤ (fwOf State.reset 1).a.svn
    ∧ bitOf ({ State.reset.brd with straps := 7 }).straps 2 = true ∧ bitOf State.reset.brd.straps 2 = false ∧ aBoot.cfgSig = true ∧ aBoot.cfgA = true
    ∧ aBoot.cfgSeqA = aBoot.cfgSeqB ∧ aBoot.cfgSame = true
    ∧ (∀ cls ∈ [2, 3, 4], nth false aBoot.otherA (cls - 2) = true ∧ (fwOf State.reset cls).actB = false ∧ (fwOf State.reset cls).a.valid = true
      ∧ (fwOf State.reset cls).floor ≤ (fwOf State.reset cls).a.svn)
    ∧ aBoot.keysOk = true ∧ ([{ kind := 6, unit := 39 * 2 ^ 26, level := 0 }, { kind := 2, unit := aHop, level := 1 }, { kind := 0, unit := 65536, level := 2 }] : List TestFail).all testFailOk = true ∧ (atRow 3 1).dev.row = 3
    ∧ advances (atRow 3 1) = true ∧ advances (atRow 3 0) = false ∧ (atRow 3 1).pwr.tshutAo = false
    ∧ (unchecked (atRow 3 1)).isEmpty = true ∧ hottest (atRow 3 1) = none := by decide

/-- Retention of canvas 0, whose record is complete. -/
def sRet (far : Bool) : State := { atRow 4 1 with cnv := [(0, { Canvas.init with recSt := 2, bundle := some aBundle })], kv := { State.reset.kv with farKept := far } }

theorem witness_ReadinessAndShutdown : 3 < 4 ∧ (sRet true).dev.row = 4 ∧ advances (sRet true) = true
    ∧ 0 ∈ unchecked (sRet true) ∧ 3 ∉ unchecked (sRet true) ∧ (cnvOf (sRet true) 0).bundle = some aBundle ∧ (cnvOf (sRet true) 0).recSt ≠ 1
    ∧ (sRet true).kv.farKept = true ∧ (sRet false).kv.farKept = false
    ∧ (cnvOf { sRet false with cnv := [(0, { Canvas.init with recSt := 1 })] } 0).recSt = 1
    ∧ (cnvOf { sRet false with cnv := [(0, { Canvas.init with recSt := 1 })] } 0).bundle = none
    ∧ (atRow 6 1).dev.row = 6 ∧ advances (atRow 6 1) = true ∧ settled (atRow 6 1) = true ∧ held (atRow 6 1) = false ∧ (atRow 6 1).hist.draining = false ∧ running_ sReady = true
    ∧ sReady.dev.shutting = false ∧ held sReady = false ∧ ({ sReady.dev with shutting := true }).shutting = true ∧ warned sReady = false ∧ sReady.sch.cur = none
    ∧ (atRow 5 1).dev.row ≠ 7 ∧ (atRow 7 3).pwr.state = 3 ∧ ({ sReady.brd with pwrEn := false }).pwrEn = false ∧ sReady.brd.pwrEn = true := by decide

/-- Retention of a canvas whose bundle holds no image, and of one whose image has no core. -/
def sRetLight : State := { sRet false with cnv := [(0, { Canvas.init with recSt := 2, bundle := some lightBundle })] }

theorem witness_ReadinessAndShutdown_cells : cellsMatch sRetLight lightBundle = true ∧ cellsMatch (setRole 0 31 1 (sRet false)) aBundle = false
    ∧ (cnvOf sRetLight 0).bundle = some lightBundle ∧ 0 ∈ unchecked sRetLight ∧ advances sRetLight = true
    ∧ settled { atRow 6 1 with cnv := [(0, { Canvas.init with recSt := 2, st := 3 })] } = false := by decide

/-! ## Forms that well-formedness refuses, one for each check -/

theorem refuses_stroke : (Instr.strk (iss 0) { (default : StrokeF) with emask := 0, amask := 1 }).wf = false
    ∧ (Instr.strk (iss 0) { (default : StrokeF) with emask := 1, amask := 0 }).wf = false
    ∧ (Instr.strk (iss 0) { (default : StrokeF) with emask := 1, amask := 1, ibs := 7943 }).wf = false
    ∧ (Instr.stkv (iss 0) { (default : StrokeF) with emask := 1, amask := 1, band := 5 }).wf = false
    ∧ (Instr.stkv (iss 0) { (default : StrokeF) with emask := 1, amask := 1, gsz := 3 }).wf = false
    ∧ (Instr.strk (iss 0) { (default : StrokeF) with emask := 65536, amask := 1 }).wf = false
    ∧ (Instr.strk (iss 0) { (default : StrokeF) with emask := 1, amask := 65536 }).wf = false
    ∧ (Instr.strk (iss 0) { (default : StrokeF) with emask := 1, amask := 1, plane := 16 }).wf = false
    ∧ (Instr.strk (iss 0) { (default : StrokeF) with emask := 1, amask := 1, esh := 2 }).wf = false
    ∧ (Instr.strk (iss 0) { (default : StrokeF) with emask := 1, amask := 1, ifmt := 4 }).wf = false
    ∧ (Instr.strk (iss 0) { (default : StrokeF) with emask := 1, amask := 1, ntr := 8 }).wf = false := by decide

theorem refuses_array_acc : (Instr.psel (iss 0) 0 1 0).wf = false ∧ (Instr.psel (iss 0) 1 0 0).wf = false ∧ (Instr.psel (iss 0) 1 1 16).wf = false
    ∧ (Instr.aclr (iss 0) 1024 1).wf = false ∧ (Instr.aclr (iss 0) 0 1025).wf = false ∧ (Instr.acn (iss 0) 256).wf = false
    ∧ (Instr.apro (iss 0) 16 0 0 0).wf = false ∧ (Instr.apro (iss 0) 0 8 0 0).wf = false ∧ (Instr.apro (iss 0) 0 0 1024 0).wf = false
    ∧ (Instr.apro (iss 0) 0 0 0 2).wf = false ∧ (Instr.awid (iss 0) 1024 0 0 1 0).wf = false ∧ (Instr.awid (iss 0) 0 2 0 1 0).wf = false
    ∧ (Instr.awid (iss 0) 0 0 0 0 0).wf = false ∧ (Instr.awid (iss 0) 0 0 0 17 0).wf = false ∧ (Instr.awid (iss 0) 0 0 0 1 2).wf = false
    ∧ (Instr.rsum (iss 0) { (default : RedF) with nt := 0 } 0).wf = false ∧ (Instr.rsum (iss 0) { (default : RedF) with nt := 1 } 2).wf = false
    ∧ (Instr.rmax (iss 0) { (default : RedF) with nt := 1, src := 1024 }).wf = false ∧ (Instr.rarg (iss 0) { (default : RedF) with nt := 1, idxb := 65536 }).wf = false := by
  decide

theorem refuses_glaze_move : (Instr.gcol (iss 0) { (default : GlzF) with ph := 1 }).wf = false ∧ (Instr.glr (iss 0) { (default : GlzF) with ph := 2 }).wf = false
    ∧ (Instr.gout (iss 0) { (default : GlzF) with grp := 4 }).wf = false ∧ (Instr.gtnt (iss 0) { (default : GlzF) with lix := 64 }).wf = false
    ∧ (Instr.enorm (iss 0) default 8 0).wf = false ∧ (Instr.eact (iss 0) default 4).wf = false ∧ (Instr.emul (iss 0) default 2048).wf = false
    ∧ (Instr.erot (iss 0) default 1024 0).wf = false ∧ (Instr.ecvt (iss 0) { (default : EcvtF) with mode := 3 }).wf = false
    ∧ (Instr.ecvt (iss 0) { (default : EcvtF) with dst := 7943 }).wf = false ∧ (Instr.mvb (iss 0) 4 0 0 0 0 0).wf = false
    ∧ (Instr.mvf (iss 0) 0 0 0 13 0).wf = false ∧ (Instr.mvk (iss 0) 0 0 0 3 0).wf = false ∧ (Instr.mck (iss 0) 0 0 8 0).wf = false := by decide

theorem refuses_sync_attention_head : (Instr.twait (iss 0) 0 1).wf = false ∧ (Instr.twait (iss 0) 1 0).wf = false ∧ (Instr.tsend (iss 0) 0).wf = false
    ∧ (Instr.cred (iss 0) 0 0 1).wf = false ∧ (Instr.cred (iss 0) 1 0 0).wf = false ∧ (Instr.chk (iss 0) 0 0 512).wf = false ∧ (Instr.csum (iss 0) 65536 0).wf = false
    ∧ (Instr.rplw (iss 0) 2).wf = false ∧ (Instr.score (iss 0) 8 0 0 0 0 1).wf = false ∧ (Instr.score (iss 0) 0 0 0 0 0 0).wf = false
    ∧ (Instr.snorm (iss 0) 16 0 1).wf = false ∧ (Instr.smix (iss 0) 0 128 0 0 0 1).wf = false ∧ (Instr.kvput (iss 0) 0 0 65536).wf = false
    ∧ (Instr.samp (iss 0) 0 8).wf = false ∧ (Instr.skdr (iss 0) 9 0 0 []).wf = false ∧ (Instr.skdr (iss 0) 17 1 0 []).wf = false
    ∧ (Instr.vrfy (iss 0) 0 0 2).wf = false := by decide

/-! ## Slots of the spec's worked examples, and slots it refuses -/

/-- Bundle 1 of the gate-and-up fragment of the instruction set: EMASK 0x0018, AMASK 0xFFFF, PLANE 9, IBS 0, AUTO, GSZ 16, NTR 0. -/
theorem decode_gate_and_up : decodeSlot 0 .array (iss 0) 0x1000009FFFF00181
    = some (.strk (iss 0) { emask := 0x18, amask := 0xFFFF, plane := 9, ibs := 0, esh := 0, ifmt := 0, band := 0, gsz := 2, ntr := 0 }) := by decide

/-- The SCORE word of "opening a page": KVH 0, LAYER 60, QADDR 0x0100, SBUF 0, MASK 3, NQH 11. -/
theorem decode_score : decodeSlot 1 .array (iss att0) 0x000000BC00401E08 = some (.score (iss att0) 0 60 0x100 0 3 11) := by decide

theorem decode_rests : decodeSlot 0 .array (iss 0) 0 = some (.nopa (iss 0)) ∧ decodeSlot 0 .glaze (iss 0) 0 = some (.nopg (iss 0))
    ∧ decodeSlot 0 .move (iss 0) 0 = some (.nopm (iss 0)) ∧ decodeSlot 2 .array (iss head0) 0x000000000071234C = some (.samp (iss head0) 0x1234 7) := by decide

theorem table_words_spell_nothing : decodeTableWord 32 0x12345678 = none ∧ (State.reset.withFetchWord 32 0x12345678).pending = [] := by decide

/-! ## Hand calculations from the spec's worked examples -/

/-- Plane 4 of A07/12/05/03/11 packs as 0x1D85_3B40, its engine as 0x1D85_3000 (R9). -/
theorem test_packed_address : planeKey (mkArray (mkEngine (mkCore (mkCluster 7 12) 5) 3) 11) 4 = 0x1D853B40
    ∧ engineOf (arrayOf 0x1D853B40) = 0x1D853000 ∧ isArray (arrayOf 0x1D853B40) = true := by decide

/-- Request 0x7128_0005: partition 7, entry 1,184, generation 5 (R323). -/
theorem test_handle : handleOf 7 1184 5 = 0x71280005 ∧ hIndex 0x71280005 = 1184 ∧ hGen 0x71280005 = 5 := by decide

/-- A saturated column: coefficient 1.5, magnitude sum 140 is ONE; a sum of +270 at full gain converts to 255 (R43, R55). -/
theorem test_saturated_column : bandMode 48 0 (List.replicate 35 4) = .one ∧ codeOf 270 2 0 = 255 ∧ codeOf (-270) 2 0 = 0 ∧ codeOf 0 2 0 = 128
    ∧ isSat [(mkBand [] 0 64 false, 255)] = true := by decide

/-- One row: 3.53 and 0.49 µS against +3 is a residual of 3; 0.47 and 6.21 µS against -6 is a tail cell of residual 17; 2.10 µS against 0
fails (R79, R80, R82). -/
theorem test_one_row : devicePass 48 3 353 = true ∧ residualOf false 3 (353, 49) = 3 ∧ devicePass 48 6 621 = false ∧ residualOf false (-6) (47, 621) = 17
    ∧ cellFails false (-6) (47, 621) = false ∧ cellFails false 0 (210, 48) = true := by decide

/-- Compensated promotion: w × s and AWID with the errors kept, in units of 2^-26 (R133, R134). -/
theorem test_compensated_promotion :
    let p := awidP ⟨0x40400000, 0⟩ (twoProd (toF32 ⟨308657, -14⟩) (bfToF32 0x3D47))
    p = ⟨toF32 ⟨262749344, -26⟩, toF32 ⟨-9, -26⟩⟩ ∧ readF32 p = toF32 ⟨262749328, -26⟩ := by decide +kernel

/-- Requantisation overflow: 1.375 leaves the A4 grid at E = 124 and needs E = 121 in A8, with digits 6 and -8 (R119, R122, R123). -/
theorem test_requantisation : (convBlock 7 124 (List.replicate 64 (.fin false ⟨11, -3⟩))).2.1 = 255 ∧ blockExp 119 ⟨11, -3⟩ = 121
    ∧ dyRne (dyScale ⟨11, -3⟩ 6) = 88 ∧ digitHi 88 = 6 ∧ digitLo 88 = -8 ∧ digitHi 20 = 1 ∧ digitLo 20 = 4 ∧ digitHi 3 = 0 ∧ digitLo 3 = 3 := by
  decide +kernel

/-- Arrays 00 to 02 of the glaze path's example: u of column 9 is 1.002197265625 × 399.5 × 0.998046875 - 2 (R157). -/
theorem test_column_correction :
    let s := { State.reset with arr := { State.reset.arr with conv := [(9, (24, 40)), (73, (-8, -20)), (137, (12, 8))], drift := [(9, (-128, 1024))] } }
    let k (a b f : Nat) (n x : Int) : Contrib := { array := a, c := List.replicate 9 0 ++ [n], eps := 118, beta := b, f := f, sig := x }
    gcolU s [] 0 0 { n := List.replicate 9 0 ++ [402], e := 118, b := 508, ks := [k 0 127 1 250 30, k 256 127 1 (-48) (-12), k 512 254 2 200 46] } 9
      = toF32 ⟨4105 * 799 * 511 - 2 * 2 ^ 22, -22⟩ := by decide +kernel

/-- Swatch codes 137 and 125 both fail at σ = +40 and α = +6; codes within 2 LSB pass (R62). -/
theorem test_swatch_pair : swatchFails 137 (0, 0) 40 false = true ∧ swatchFails 125 (0, 0) 6 false = true ∧ swatchFails 135 (0, 0) 40 false = false
    ∧ swatchFails 127 (0, 0) 6 false = false := by decide

/-- Opening a page: 9.5 / 448 rounds up to 0x3CAE; 5.0 / 448 leaves the predicted 0x3C80; 9.5 under it is 448, 0x7E (R269, R270). -/
theorem test_opening_a_page : newScale 0x3C80 ⟨19, -1⟩ = 0x3CAE ∧ newScale 0x3C80 ⟨5, 0⟩ = 0x3C80 ∧ fp8Elem 0x4118 0x3CAE = (0x7E, false) := by
  decide +kernel

/-- From A00 to A13, one column to the east and two rows to the south: along the column first (R22, R24). -/
theorem test_column_first : dieRoute 0 13 = [6, 12, 13] ∧ linked 0 6 = true ∧ linked 0 7 = false := by decide

/-- A SYNC of channel 0xABC from the cluster control core of A05/03, step 0x123456, attempt 2, sequence number 1 (R232). -/
theorem test_token_word : tokenWord { kind := 0, att := 2, step := 0x123456, src := 5 * 2048 + 3 * 64 + 32, seq := 1, arg := 0xABC, plane := 0 }
    = 0x00000ABC000228E012345620 := by decide

/-! ## Single commands -/

/-- R134: AWID of a pair into an empty tile, and ACLR of it. -/
theorem test_awid_then_aclr :
    let s := { sCore with core := { sCore.core with ab := wrPair [] (abAddr 0 3 63) ⟨0x40400000, 0x33800000⟩ } }
    (match exec (.awid (iss 0) 1023 0 3 1 0) s with | .next t => abGet t 0 1023 63 == ⟨0x40400000, 0x33800000⟩ | _ => false) = true
    ∧ (match exec (.aclr (iss 0) 3 1) s with | .next t => t.core.ab == [] | _ => false) = true := by decide +kernel

/-- R140: RCNT of one tile with 0xFF in one column. -/
theorem test_rcnt :
    let s := { sCore with core := { sCore.core with ab := wrPair [] (abAddr 0 3 5) ⟨0xFF, 0⟩ } }
    (match exec (.rcnt (iss 0) { src := 3, dst := 2, dsr := 1, nt := 1, idxb := 0 }) s with | .next t => (tget Pair.zero t.core.sr 2).s == 8 | _ => false) = true := by
  decide +kernel

/-- R204: RARG names the first of two equal maxima, by IDXB × 64 + column. -/
theorem test_rarg_tie :
    let s := { sCore with core := { sCore.core with ab := wrPair (wrPair [] (abAddr 0 3 9) ⟨0x3F800000, 0⟩) (abAddr 0 3 40) ⟨0x3F800000, 0⟩ } }
    (match exec (.rarg (iss 0) { src := 3, dst := 2, dsr := 1, nt := 1, idxb := 2 }) s with
      | .next t => tget Pair.zero t.core.sr 2 == ⟨0x3F800000, 137⟩ | _ => false) = true := by decide +kernel

/-- R207: EMUL of 3 and 2 in FP32 is 6, and the next byte of the bank is untouched. -/
theorem test_emul :
    let s := { sCore with core := { sCore.core with ob := wrWord (wrWord [] 0 0x40400000) 256 0x40000000 } }
    (match exec (.emul (iss 0) { src := 0, dst := 0, len := 1, ty := 1 } 2) s with
      | .next t => rdWord t.core.ob 0 == 0x40C00000 && rdWord t.core.ob 256 == 0x40000000 | _ => false) = true := by decide +kernel

/-- R145: MCK puts the FP32 read-out of a tile into its layer input's checkpoint; MVB moves bytes as they are. -/
theorem test_moves :
    let s := { sCore with core := { sCore.core with ab := wrPair [] 0 ⟨0x40490FDB, 0⟩, ob := [(0, 7)] } }
    (match exec (.mck (iss 0) 1 0 0 0) s with | .next t => rdWord t.core.sram 0 == 0x40490FDB | _ => false) = true
    ∧ (match exec (.mvb (iss 0) 0 2 0 5 0 0) s with | .next t => rdByte t.core.sram 10240 == 7 | _ => false) = true := by decide +kernel

/-- R234: a SYNC token lets the wait go on; the duplicate of the other plane does nothing (R28). -/
theorem test_sync_once :
    let s := modSeq 0 (fun q => { q with wait := .tokens 5 1 }) sCore
    (match exec (.syncToken 0 (tok 0 att0 5)) s with
      | .next t => (seqOf t 0).wait == .none && (match exec (.syncToken 0 { tok 0 att0 5 with plane := 1 }) t with
        | .next u => u.seq.seqs == t.seq.seqs | _ => false)
      | _ => false) = true := by decide +kernel

/-- R493: PWR_CTRL at its reset value: PLIM 580 × 10 W, FLOWCHK 1, the droop threshold 22. -/
theorem test_reset_registers : (accessOf sHost (.operator 1 0) false 0x000).1 = 0 ∧ regVal State.reset 0 0x10000 = some (580 + 2048 + 22 * 4096) := by decide +kernel

/-- R549: a write of SCRATCH is read back; a partition session may not write PWR_CTRL. -/
theorem test_register_write :
    (match exec (.registerWrite (.operator 1 0) 0x050 0xDEADBEEF) sHost with | .next t => regVal t 0 0x050 == some 0xDEADBEEF | _ => false) = true
    ∧ exec (.registerWrite (.partition 2 0) 0x10000 0) sHost = .next sHost := ⟨by decide +kernel, by rfl⟩

/-- R323, R393: a SUBMIT of three tokens takes entry 1 with generation 1, and its reply names handle 0x0000_4001. -/
theorem test_submit : (match exec (.submit hPart aBody) sServe with
      | .next t => (entryOf t 1).st == .queued && ((sesOf t 2).queue.map (·.handle)) == [handleOf 0 1 1]
      | _ => false) = true := by decide +kernel

/-- R499: a record joins slot 0 with EPOCH 1. -/
theorem test_record : (match exec .recordWrite { sReady with evr := { sReady.evr with queue := [aRec] } } with
      | .next t => t.evr.count == 1 && (tget none t.evr.recs 0).map (·.epoch) == some 1
      | _ => false) = true := by decide +kernel

/-- R526: a transfer whose PEC fails is refused. -/
theorem test_pec : (match exec (.addr false 0x10) State.reset with | .next t => t.brd.sbNack && t.brd.ptr == 0 | _ => false) = true := by decide +kernel

/-- R376, R378: the third timeout of a path takes it down, and its segments go out on the other. -/
theorem test_third_timeout :
    let s := modSes 2 (fun e => { e with pathA := { e.pathA with fails := 2, tmo := 4 }, pathB := { PathRec.init with open_ := true, up := true } }) (sFlight 7000)
    (match exec (.retransmitTimeout 2 9) s with
      | .next t => !(pathOf (sesOf t 2) 0).up && (sesOf t 2).flight.map (fun x => (x.seq, x.net)) == [(9, 1)]
      | _ => false) = true := by decide +kernel

/-- R491: PWRWARN_N holds the module up and abandons the step in flight. -/
theorem test_pwrwarn : (match exec .pwrwarnNAssert { sCore with pwr := { sCore.pwr with state := 2 } } with
      | .next t => t.pwr.state == 4 && (stepOf t).abandoning
      | _ => false) = true := by decide +kernel

/-- R462: an unclaimed module takes an owner once. -/
theorem test_claim : (match exec (.claim hClm 5) sHost with
      | .next t => t.sec.claimed && t.sec.ownerKey == 5 && t.sec.ownerGen == 1
      | _ => false) = true := by decide +kernel

/-- Log entry 20: an operand that names no unit stops the command. -/
theorem test_no_such_unit : exec (.strokeFlagsReport 0xFC000000) State.reset = .fault .noSuchUnit
    ∧ exec (.chk (iss 0) 0 0 512) sCore = .fault .noSuchUnit := ⟨by rfl, by rfl⟩

end Sys2Proof.Tests
end

section
/-! What PSEL and the end of a stroke do to the plane selections (R38, R39, R199). -/

namespace Sys2Proof.Machine

/-! ## A core instruction that its sequencer takes -/

/-- An instruction that its core takes, with legal fields, has its effect. -/
theorem coreOp_of_coreRuns {s : State} {i : Iss} {reads : Bool} (c : Instr) (run : State → State) (h : coreRuns s i reads) {ok : Bool} (hok : ok = true) :
    coreOp c i ok run s = .next (run s) := by
  obtain ⟨hsid, hrun⟩ := h
  simp only [runsAt, Bool.and_eq_true] at hrun
  obtain ⟨⟨⟨-, hpart⟩, hiss⟩, -⟩ := hrun
  have hin : inStep s i = true := by
    simp only [issuing, Bool.and_eq_true] at hiss
    exact hiss.1.1.1
  simp [coreOp, slotOp, okIf, hsid, hok, hpart, hin, hiss]

/-- An operation that its core takes belongs to no killed lane. -/
theorem alive_of_coreRuns {s : State} {i : Iss} {reads : Bool} (op : State → State) (h : coreRuns s i reads) : alive i reads op s = op s := by
  have hlane : laneDead s i reads = false := by
    have hrun := h.2
    simp only [runsAt, Bool.and_eq_true, Bool.not_eq_true'] at hrun
    exact hrun.2
  simp [alive, hlane]

/-! ## The selection of a plane (R39, R199) -/

@[simp] theorem selectPlane_strokes (plane : Nat) (s : State) (x : Nat) : (selectPlane plane s x).arr.strokes = s.arr.strokes := by
  unfold selectPlane; split <;> rfl

@[simp] theorem arrayBusy_selectPlane (plane : Nat) (s : State) (x a : Nat) : arrayBusy (selectPlane plane s x) a = arrayBusy s a := by
  simp [arrayBusy]

theorem selectPlane_changes_selections (plane : Nat) (s : State) (x : Nat) :
    selectPlane plane s x = { s with arr := { s.arr with sel := (selectPlane plane s x).arr.sel, pend := (selectPlane plane s x).arr.pend } } := by
  unfold selectPlane; split <;> rfl

/-- The plane in force changes at once, and only where no stroke runs. -/
theorem sel_selectPlane (plane : Nat) (s : State) (x a : Nat) :
    tget 0 (selectPlane plane s x).arr.sel a = if a = x ∧ arrayBusy s a = false then plane else tget 0 s.arr.sel a := by
  unfold selectPlane
  by_cases hx : a = x
  · subst hx
    cases arrayBusy s a <;> simp
  · split <;> simp [hx]

/-- A switch waits, as the plane and 1, where a stroke runs. -/
theorem pend_selectPlane (plane : Nat) (s : State) (x a : Nat) :
    tget 0 (selectPlane plane s x).arr.pend a =
      if a = x then (if arrayBusy s a = true then plane + 1 else 0) else tget 0 s.arr.pend a := by
  unfold selectPlane
  by_cases hx : a = x
  · subst hx
    cases arrayBusy s a <;> simp
  · split <;> simp [hx]

/-! ### A list of arrays -/

theorem selectPlanes_change_selections (plane : Nat) (as : List Nat) (s : State) :
    as.foldl (selectPlane plane) s = { s with arr := { s.arr with
      sel := (as.foldl (selectPlane plane) s).arr.sel, pend := (as.foldl (selectPlane plane) s).arr.pend } } := by
  induction as generalizing s with
  | nil => rfl
  | cons x as ih =>
    rw [List.foldl_cons]
    refine (ih _).trans ?_
    rw [selectPlane_changes_selections plane s x]

theorem sel_selectPlanes (plane : Nat) (as : List Nat) (s : State) (a : Nat) :
    tget 0 (as.foldl (selectPlane plane) s).arr.sel a = if a ∈ as ∧ arrayBusy s a = false then plane else tget 0 s.arr.sel a := by
  induction as generalizing s with
  | nil => simp
  | cons x as ih =>
    rw [List.foldl_cons, ih, sel_selectPlane, arrayBusy_selectPlane]
    rcases eq_or_ne a x with rfl | hx
    · cases arrayBusy s a <;> simp
    · simp [hx]

theorem pend_selectPlanes (plane : Nat) (as : List Nat) (s : State) (a : Nat) :
    tget 0 (as.foldl (selectPlane plane) s).arr.pend a =
      if a ∈ as then (if arrayBusy s a = true then plane + 1 else 0) else tget 0 s.arr.pend a := by
  induction as generalizing s with
  | nil => simp
  | cons x as ih =>
    rw [List.foldl_cons, ih, pend_selectPlane, arrayBusy_selectPlane]
    rcases eq_or_ne a x with rfl | hx
    · simp
    · simp [hx]

theorem exec_psel_of_coreRuns {s : State} {i : Iss} {emask amask plane : Nat} (h : coreRuns s i false) (he0 : 0 < emask) (he : emask < 65536)
    (ha0 : 0 < amask) (ha : amask < 65536) (hp : plane < 16) :
    exec (.psel i emask amask plane) s = .next ((namedArrays (sidCore i.sid) emask amask).foldl (selectPlane plane) s) := by
  change execPsel i emask amask plane s = _
  rw [execPsel, coreOp_of_coreRuns _ _ h (by simp [*]), pselAct, alive_of_coreRuns _ h]

/-! ## The planes of the arrays of an ended stroke (R38, R39, R50) -/

/-- The plane an array goes on with when its stroke ends: that of its next stroke, else that of the switch that waits, else its own. -/
def planeAfter (s : State) (a : Nat) : Nat :=
  match nextStroke s a with
  | some k => k.plane
  | none => (match tget 0 s.arr.pend a with | 0 => tget 0 s.arr.sel a | p + 1 => p)

theorem planeAfter_of_pend {s : State} {a p : Nat} (hn : nextStroke s a = none) (hp : tget 0 s.arr.pend a = p + 1) : planeAfter s a = p := by
  simp [planeAfter, hn, hp]

theorem planeAfter_of_no_pend {s : State} {a : Nat} (hn : nextStroke s a = none) (hp : tget 0 s.arr.pend a = 0) :
    planeAfter s a = tget 0 s.arr.sel a := by
  simp [planeAfter, hn, hp]

/-- One array of an ended stroke takes the plane it goes on with. -/
def releasePlane (s : State) (a : Nat) : State :=
  { s with arr := { s.arr with sel := tput 0 s.arr.sel a (planeAfter s a), pend := tput 0 s.arr.pend a 0 } }

theorem releasePlanes_cons (x : ArrStroke) (as : List ArrStroke) (s : State) :
    releasePlanes (x :: as) s = releasePlanes as (releasePlane s x.arr) := rfl

@[simp] theorem nextStroke_releasePlane (s : State) (x a : Nat) : nextStroke (releasePlane s x) a = nextStroke s a := rfl

/-- A released array goes on with the plane it took; every other array as before. -/
@[simp] theorem planeAfter_releasePlane (s : State) (x a : Nat) : planeAfter (releasePlane s x) a = planeAfter s a := by
  by_cases hx : a = x
  · subst hx
    cases hn : nextStroke s a with
    | some k => simp [planeAfter, hn]
    | none =>
      rw [planeAfter_of_no_pend (by simpa using hn) (by simp [releasePlane])]
      simp [releasePlane]
  · simp [planeAfter, releasePlane, nextStroke, hx]

theorem sel_releasePlanes (as : List ArrStroke) (s : State) (a : Nat) :
    tget 0 (releasePlanes as s).arr.sel a = if a ∈ as.map (·.arr) then planeAfter s a else tget 0 s.arr.sel a := by
  induction as generalizing s with
  | nil => rfl
  | cons x as ih =>
    rw [releasePlanes_cons, ih, planeAfter_releasePlane]
    by_cases hx : a = x.arr
    · simp [releasePlane, hx]
    · simp [releasePlane, hx]

theorem pend_releasePlanes (as : List ArrStroke) (s : State) (a : Nat) :
    tget 0 (releasePlanes as s).arr.pend a = if a ∈ as.map (·.arr) then 0 else tget 0 s.arr.pend a := by
  induction as generalizing s with
  | nil => rfl
  | cons x as ih =>
    rw [releasePlanes_cons, ih]
    by_cases hx : a = x.arr
    · simp [releasePlane, hx]
    · simp [releasePlane, hx]

/-! ## The end of a stroke -/

/-- The strokes of an engine replaced: as its front stroke leaves the queue. -/
def setStrokes (eng : Nat) (ks : List Stroke) (s : State) : State :=
  { s with arr := { s.arr with strokes := tput [] s.arr.strokes eng ks } }

/-- No stroke is next on an array that none of its engine's names. -/
theorem nextStroke_setStrokes_none {eng a : Nat} {ks : List Stroke} (s : State) (ha : engineOf a = eng) (hk : ∀ q ∈ ks, a ∉ q.arrays.map (·.arr)) :
    nextStroke (setStrokes eng ks s) a = none := by
  simp only [nextStroke, setStrokes, ha, tget_tput_same, List.find?_eq_none, List.any_eq_true, beq_iff_eq, not_exists, not_and]
  exact fun q hq x hx hxa => hk q hq (List.mem_map.mpr ⟨x, hx, hxa⟩)

theorem keepTiles_loadTiles_arr (eng : Nat) (k : Stroke) (dev : Tab Int) (s : State) : (keepTiles (loadTiles s eng k dev) eng k).arr = s.arr :=
  (co_keepTiles (L := [.core, .seq]) _ eng k (by decide) (co_loadTiles s eng k dev (by decide) (co_refl _ s))).2 .arr (by decide)

theorem auditSample_arr (eng : Nat) (k : Stroke) (dev : Tab Int) (s : State) : (auditSample eng k dev s).arr = s.arr :=
  (co_auditSample (L := [.hist]) eng k dev s (by decide) (co_refl _ s)).2 .arr (by decide)

/-- Past the release of its planes, a stroke's end leaves the selections alone. -/
theorem strokeEndOp_selections {eng : Nat} {s : State} {k : Stroke} {ks : List Stroke} (dev : Tab Int) (tree : Nat) (hk : tget [] s.arr.strokes eng = k :: ks) :
    (strokeEndOp eng dev tree s).arr.sel = (releasePlanes k.arrays (setStrokes eng ks s)).arr.sel ∧
      (strokeEndOp eng dev tree s).arr.pend = (releasePlanes k.arrays (setStrokes eng ks s)).arr.pend := by
  have harr := keepTiles_loadTiles_arr eng k dev (releasePlanes k.arrays (setStrokes eng ks s))
  unfold strokeEndOp
  rw [hk]
  dsimp only
  split
  · exact ⟨rfl, rfl⟩
  · exact ⟨(congrArg ArrSt.sel harr :), (congrArg ArrSt.pend harr :)⟩

theorem strokeEndAll_arr (eng : Nat) (dev : Tab Int) (tree : Nat) (s : State) : (strokeEndAll eng dev tree s).arr = (strokeEndOp eng dev tree s).arr := by
  unfold strokeEndAll
  cases hk : tget [] s.arr.strokes eng with
  | nil => simp [strokeEndOp, hk]
  | cons k ks =>
    dsimp only
    split
    · rfl
    · exact auditSample_arr ..

/-! ## A sequencer that holds nothing -/

theorem calm_of_seq {s t : State} (h : t.seq = s.seq) (sid : Nat) : calm t sid = calm s sid := by
  simp only [calm, seqOf, h]

theorem calm_modSeq (n : Nat) (f : Seq → Seq) (hf : ∀ q, (f q).held = q.held ∧ (f q).ops = q.ops) (s : State) (sid : Nat) :
    calm (modSeq n f s) sid = calm s sid := by
  unfold calm
  rw [seqOf_modSeq]
  split
  · rw [(hf _).1, (hf _).2]
  · rfl

theorem calm_keepTiles (s : State) (eng : Nat) (k : Stroke) (sid : Nat) : calm (keepTiles s eng k) sid = calm s sid := by
  unfold keepTiles
  split
  · rfl
  · refine List.foldlRecOn (motive := fun t => calm t sid = calm s sid) _ _ rfl fun t ht g _ => ?_
    refine (calm_modSeq _ _ ?_ t sid).trans ht
    exact fun _ => ⟨rfl, rfl⟩

theorem releasePlanes_seq (as : List ArrStroke) (s : State) : (releasePlanes as s).seq = s.seq :=
  (co_releasePlanes (L := [.arr]) as s (by decide) (co_refl _ s)).2 .seq (by decide)

theorem loadTiles_seq (s : State) (eng : Nat) (k : Stroke) (dev : Tab Int) : (loadTiles s eng k dev).seq = s.seq :=
  (co_loadTiles (L := [.core]) s eng k dev (by decide) (co_refl _ s)).2 .seq (by decide)

theorem auditSample_seq (eng : Nat) (k : Stroke) (dev : Tab Int) (s : State) : (auditSample eng k dev s).seq = s.seq :=
  (co_auditSample (L := [.hist]) eng k dev s (by decide) (co_refl _ s)).2 .seq (by decide)

theorem calm_strokeEndOp (eng : Nat) (dev : Tab Int) (tree : Nat) (s : State) (sid : Nat) : calm (strokeEndOp eng dev tree s) sid = calm s sid := by
  unfold strokeEndOp
  cases tget [] s.arr.strokes eng with
  | nil => rfl
  | cons k ks =>
    have hrel : (releasePlanes k.arrays (setStrokes eng ks s)).seq = s.seq := releasePlanes_seq ..
    dsimp only
    split
    · exact calm_of_seq hrel sid
    · exact (calm_keepTiles _ eng k sid).trans (calm_of_seq ((loadTiles_seq ..).trans hrel) sid)

theorem calm_strokeEndAll (eng : Nat) (dev : Tab Int) (tree : Nat) (s : State) (sid : Nat) : calm (strokeEndAll eng dev tree s) sid = calm s sid := by
  unfold strokeEndAll
  cases tget [] s.arr.strokes eng with
  | nil => rfl
  | cons k ks =>
    dsimp only
    split
    · exact calm_strokeEndOp eng dev tree s sid
    · exact (calm_of_seq (auditSample_seq ..) sid).trans (calm_strokeEndOp eng dev tree s sid)

/-- A sequencer that holds nothing has nothing to go on with. -/
theorem settle_of_calm {s : State} {sid : Nat} (h : calm s sid = true) : settle sid s = s := by
  simp only [calm, Bool.and_eq_true, List.isEmpty_iff] at h
  simp [settle, h, settleN]

theorem exec_strokeEnd_of_calm {eng tree : Nat} {s : State} (dev : Tab Int) (he : isEngine eng = true) (ht : tree < 4)
    (hc : calm s (coreSid (coreOf eng)) = true) : exec (.strokeEnd eng dev tree) s = .next (strokeEndAll eng dev tree s) := by
  change execStrokeEnd eng dev tree s = _
  rw [execStrokeEnd, settle_of_calm (by rwa [calm_strokeEndAll])]
  simp [okIf, he, ht]

/-! ## The obligation -/

/-- Settles O10: PSEL is a fold of the selection of one plane over the named arrays, and past the release of the planes nothing that STROKE_END does
reaches the selections. The stroke that ends is the front one of its engine (log entry 87). -/
theorem pselSelectsPlane : Obligations.PselSelectsPlane := by
  unfold Obligations.PselSelectsPlane
  constructor
  · intro i emask amask plane s hrun he0 he ha0 ha hp
    refine ⟨_, exec_psel_of_coreRuns hrun he0 he ha0 ha hp, selectPlanes_change_selections .., fun a hna => ?_, fun a hin => ?_⟩
    · simp [sel_selectPlanes, pend_selectPlanes, hna]
    · split <;> simp [sel_selectPlanes, pend_selectPlanes, *]
  · intro eng tree p a dev s k ks he ht hk hc hin ha hlater
    have hnext := nextStroke_setStrokes_none s ha hlater
    obtain ⟨hsel, hpend⟩ := strokeEndOp_selections dev tree hk
    refine ⟨_, exec_strokeEnd_of_calm dev he ht hc, ?_⟩
    rw [strokeEndAll_arr, hsel, hpend, sel_releasePlanes, pend_releasePlanes, if_pos hin, if_pos hin]
    exact ⟨rfl, planeAfter_of_pend hnext, planeAfter_of_no_pend hnext⟩

end Sys2Proof.Machine
end

section
/-! What flash holds of the event recorder through a reset of the module (R503, R543). -/

namespace Sys2Proof.Machine

/-- The recorder's part that stands in flash: the records written, their count and the epoch of the last commit. -/
def flashOf (s : State) : Tab (Option EvRec) × Nat × Nat := (s.evr.fRecs, s.evr.fCount, s.evr.fEpoch)

theorem flashOf_of_evr {s t : State} (h : t.evr = s.evr) : flashOf t = flashOf s := by
  rw [flashOf, flashOf, h]

@[simp] theorem flashOf_draw (s : State) : flashOf (draw s).2 = flashOf s := rfl

/-- What survives a reset reads the recorder back from flash and writes nothing to it. -/
@[simp] theorem flashOf_survive (near far : Bool) (s : State) : flashOf (survive near far s) = flashOf s := rfl

@[simp] theorem flashOf_resetModule (s : State) : flashOf (resetModule s) = flashOf s :=
  flashOf_survive (decide (4 ≤ s.dev.row) || s.kv.nearKept) (farHolds s) s

/-- RESET_N resets a module that runs, and otherwise only its pin changes; a short pulse may do neither, having drawn its value (log entry 1). -/
theorem flashOf_resetOn (long : Bool) (s : State) : flashOf (resetOn long s) = flashOf s := by
  have hdrawn : flashOf (if long then s else (draw s).2) = flashOf s := by
    cases long
    · exact flashOf_draw s
    · rfl
  unfold resetOn
  dsimp only
  generalize (if long then s else (draw s).2) = s0 at hdrawn ⊢
  split
  case isTrue => exact hdrawn
  case isFalse =>
    split
    case isTrue => exact (flashOf_resetModule _).trans ((flashOf_of_evr rfl).trans hdrawn)
    case isFalse => exact (flashOf_of_evr rfl).trans hdrawn

/-- Settles O8: RESET_N always answers a next state, and of the recorder's flash that state holds what stood before. -/
theorem resetCommitsNoRecord : Obligations.ResetCommitsNoRecord := by
  unfold Obligations.ResetCommitsNoRecord
  intro long s
  have hflash := flashOf_resetOn long s
  simp only [flashOf, Prod.mk.injEq] at hflash
  exact ⟨resetOn long s, rfl, hflash⟩

end Sys2Proof.Machine
end

section
/-! PTN_SELF, the second address of a partition's register block (R547, R548). -/

namespace Sys2Proof.Machine

/-! ## The resolution of an address -/

theorem aliasOf_outside_alias (p : Path) {a : Nat} (ha : a < 0xF00000) : aliasOf p a = some a :=
  if_neg fun h => absurd h.1 (Nat.not_le.mpr ha)

theorem alias_window {x : Nat} (hx : x < 0x40) : 0xF00000 ≤ 0xF00000 + x ∧ 0xF00000 + x < 0xF00040 := by omega

/-- PTN_SELF resolves to the block of the partition that the path names (R548). -/
theorem aliasOf_alias_of_partition {p : Path} {k n x : Nat} (hp : p ∈ [Path.operator k n, .partition k n]) (hx : x < 0x40) (hn : n < 12) :
    aliasOf p (0xF00000 + x) = some (0x100000 + n * 0x10000 + x) := by
  have haddr : 0xF00000 + x - 0xF00000 + 0x100000 + n * 0x10000 = 0x100000 + n * 0x10000 + x := by omega
  simp only [List.mem_cons, List.not_mem_nil, or_false] at hp
  rcases hp with rfl | rfl <;> simp only [aliasOf, if_pos (alias_window hx), if_pos hn, haddr]

/-- A header that names no partition leaves PTN_SELF without a block (R548). -/
theorem aliasOf_alias_of_no_partition (k : Nat) {n x : Nat} (hx : x < 0x40) (hn : 12 ≤ n) : aliasOf (.operator k n) (0xF00000 + x) = none := by
  simp only [aliasOf, if_pos (alias_window hx), if_neg (Nat.not_lt.mpr hn)]

/-! ## An access sees an address through its resolution only -/

theorem accessOf_congr_alias (s : State) {p : Path} (write : Bool) {a b : Nat} (h : aliasOf p a = aliasOf p b) :
    accessOf s p write a = accessOf s p write b := by
  unfold accessOf; rw [h]

theorem accessOf_of_no_alias (s : State) {p : Path} (write : Bool) {a : Nat} (h : aliasOf p a = none) : accessOf s p write a = (2, none) := by
  unfold accessOf; rw [h]

theorem readReg_congr_access {p : Path} {a b : Nat} {s : State} (h : accessOf s p false a = accessOf s p false b) : readReg p a s = readReg p b s := by
  unfold readReg; rw [h]

theorem writeReg_congr_access {p : Path} {a b : Nat} {s : State} (v : Word) (h : accessOf s p true a = accessOf s p true b) :
    writeReg p a v s = writeReg p b v s := by
  unfold writeReg; rw [h]

/-- A read that is not made returns 0 and has no side effect (R550). -/
theorem readReg_of_not_made {p : Path} {a e : Nat} {s : State} (h : accessOf s p false a = (e, none)) : readReg p a s = (e, 0, s) := by
  unfold readReg; rw [h]
  cases e <;> rfl

/-- A write that is not made changes nothing (R550). -/
theorem writeReg_of_not_made {p : Path} {a e : Nat} {s : State} (v : Word) (h : accessOf s p true a = (e, none)) : writeReg p a v s = (e, s) := by
  unfold writeReg; rw [h]
  cases e <;> rfl

/-! ## The obligation -/

/-- Settles O9: a PTN_SELF address and the block's own one resolve to the same address, on which alone an access depends; a header that names PTN 12 to 15
resolves PTN_SELF to none, and the access is unmapped. -/
theorem aliasReachesOwnBlock : Obligations.AliasReachesOwnBlock := by
  unfold Obligations.AliasReachesOwnBlock
  intro s k n x hx
  constructor
  · intro hn p hp
    have hbelow : 0x100000 + n * 0x10000 + x < 0xF00000 := by omega
    have halias : aliasOf p (0xF00000 + x) = aliasOf p (0x100000 + n * 0x10000 + x) :=
      (aliasOf_alias_of_partition hp hx hn).trans (aliasOf_outside_alias p hbelow).symm
    exact ⟨readReg_congr_access (accessOf_congr_alias s false halias), fun v => writeReg_congr_access v (accessOf_congr_alias s true halias)⟩
  · intro hn _
    have hnone := aliasOf_alias_of_no_partition k hx hn
    exact ⟨readReg_of_not_made (accessOf_of_no_alias s false hnone), fun v => writeReg_of_not_made v (accessOf_of_no_alias s true hnone)⟩

end Sys2Proof.Machine
end

section
/-! Laws of every command, assembled from one law of each meaning: the parts of the state a command may change, the canonical form of the memories,
and the step that runs the front of the queue (R187, log entries 14, 19, 82). -/

namespace Sys2Proof.Machine

/-! ## The parts of the state that a command may change -/

theorem exec_touches {c : Instr} {s t : State} (h : exec c s = .next t) : changesOnly (touches c) s t := by
  cases c with
  | nopa => exact co_execNopa h
  | strk => exact co_execStrk h
  | stkv => exact co_execStkv h
  | psel => exact co_execPsel h
  | strokeEnd => exact co_execStrokeEnd h
  | strokeFlagsReport => exact co_execStrokeFlagsReport h
  | aclr => exact co_execAclr h
  | acn => exact co_execAcn h
  | apro => exact co_execApro h
  | awid => exact co_execAwid h
  | rsum => exact co_execRsum h
  | rmax => exact co_execRmax h
  | rmin => exact co_execRmin h
  | rarg => exact co_execRarg h
  | rand => exact co_execRand h
  | ror => exact co_execRor h
  | rxor => exact co_execRxor h
  | rcnt => exact co_execRcnt h
  | nopg => exact co_execNopg h
  | gcol => exact co_execGcol h
  | gout => exact co_execGout h
  | gact => exact co_execGact h
  | glr => exact co_execGlr h
  | gtnt => exact co_execGtnt h
  | enorm => exact co_execEnorm h
  | eact => exact co_execEact h
  | emul => exact co_execEmul h
  | eadd => exact co_execEadd h
  | erot => exact co_execErot h
  | ecvt => exact co_execEcvt h
  | nopm => exact co_execNopm h
  | mvb => exact co_execMvb h
  | mvf => exact co_execMvf h
  | mvk => exact co_execMvk h
  | mck => exact co_execMck h
  | twait => exact co_execTwait h
  | tsend => exact co_execTsend h
  | cred => exact co_execCred h
  | chk => exact co_execChk h
  | csum => exact co_execCsum h
  | flor => exact co_execFlor h
  | step => exact co_execStep h
  | rplw => exact co_execRplw h
  | replaySlot => exact co_execReplaySlot h
  | score => exact co_execScore h
  | snorm => exact co_execSnorm h
  | smix => exact co_execSmix h
  | kvput => exact co_execKvput h
  | samp => exact co_execSamp h
  | skdr => exact co_execSkdr h
  | vrfy => exact co_execVrfy h
  | fabricDelivery => exact co_execFabricDelivery h
  | glazeTableFetch => exact co_execGlazeTableFetch h
  | flagSegmentClose => exact co_execFlagSegmentClose h
  | syncToken => exact co_execSyncToken h
  | credit => exact co_execCredit h
  | stepBoundary => exact co_execStepBoundary h
  | stepDone => exact co_execStepDone h
  | segment => exact co_execSegment h
  | retract => exact co_execRetract h
  | rewindGatherExpiry => exact co_execRewindGatherExpiry h
  | rewind => exact co_execRewind h
  | quiesced => exact co_execQuiesced h
  | resumeToken => exact co_execResumeToken h
  | commit => exact co_execCommit h
  | laneKill => exact co_execLaneKill h
  | seqFault => exact co_execSeqFault h
  | abandon => exact co_execAbandon h
  | stepWatchdogExpiry => exact co_execStepWatchdogExpiry h
  | stepCompose => exact co_execStepCompose h
  | hotCacheFill => exact co_execHotCacheFill h
  | spacingTimeout => exact co_execSpacingTimeout h
  | energyMeterSample => exact co_execEnergyMeterSample h
  | formatFloorExpiry => exact co_execFormatFloorExpiry h
  | persistentColumnRelease => exact co_execPersistentColumnRelease h
  | runtimeChannelAdd => exact co_execRuntimeChannelAdd h
  | runtimeChannelLeave => exact co_execRuntimeChannelLeave h
  | digcolEntryFetch => exact co_execDigcolEntryFetch h
  | calibrationGapOpen => exact co_execCalibrationGapOpen h
  | calibrationGapClose => exact co_execCalibrationGapClose h
  | calIntervalExpiry => exact co_execCalIntervalExpiry h
  | driftTableSave => exact co_execDriftTableSave h
  | fenceStart => exact co_execFenceStart h
  | fenceComplete => exact co_execFenceComplete h
  | drainBudgetExpiry => exact co_execDrainBudgetExpiry h
  | replaceEntry => exact co_execReplaceEntry h
  | unitHistoryPeriodicWrite => exact co_execUnitHistoryPeriodicWrite h
  | auditRotation => exact co_execAuditRotation h
  | auditArbitration => exact co_execAuditArbitration h
  | tokenPlaneFailure => exact co_execTokenPlaneFailure h
  | programIteration => exact co_execProgramIteration h
  | planeWriteComplete => exact co_execPlaneWriteComplete h
  | programmingWaveStart => exact co_execProgrammingWaveStart h
  | loadComplete => exact co_execLoadComplete h
  | canvasRecordDurable => exact co_execCanvasRecordDurable h
  | eraseComplete => exact co_execEraseComplete h
  | stagePartTimeout => exact co_execStagePartTimeout h
  | farTierPatrol => exact co_execFarTierPatrol h
  | farTierUncorrectable => exact co_execFarTierUncorrectable h
  | masterCopyReadback => exact co_execMasterCopyReadback h
  | memoryCorrectableError => exact co_execMemoryCorrectableError h
  | hotCacheUncorrectable => exact co_execHotCacheUncorrectable h
  | poisonRepair => exact co_execPoisonRepair h
  | submit => exact co_execSubmit h
  | prompt => exact co_execPrompt h
  | commandPartTimeout => exact co_execCommandPartTimeout h
  | continue_ => exact co_execContinue h
  | cancel => exact co_execCancel h
  | pause => exact co_execPause h
  | resume => exact co_execResume h
  | discard => exact co_execDiscard h
  | export_ => exact co_execExport h
  | exportRelease => exact co_execExportRelease h
  | import_ => exact co_execImport h
  | tintLoad => exact co_execTintLoad h
  | tintDelete => exact co_execTintDelete h
  | cqRead => exact co_execCqRead h
  | regRead => exact co_execRegRead h
  | regWrite => exact co_execRegWrite h
  | attest => exact co_execAttest h
  | stage => exact co_execStage h
  | load => exact co_execLoad h
  | abort => exact co_execAbort h
  | erase => exact co_execErase h
  | cfgWrite => exact co_execCfgWrite h
  | cfgResolve => exact co_execCfgResolve h
  | fwStage => exact co_execFwStage h
  | fwUpdate => exact co_execFwUpdate h
  | fwProvisionalEnd => exact co_execFwProvisionalEnd h
  | fwRevert => exact co_execFwRevert h
  | fwFloor => exact co_execFwFloor h
  | fwActivate => exact co_execFwActivate h
  | firmwareWatchdog => exact co_execFirmwareWatchdog h
  | claim => exact co_execClaim h
  | ownerRotate => exact co_execOwnerRotate h
  | release => exact co_execRelease h
  | keyRotate => exact co_execKeyRotate h
  | admissionWaitExpiry => exact co_execAdmissionWaitExpiry h
  | deadlineExpiry => exact co_execDeadlineExpiry h
  | timeToLiveExpiry => exact co_execTimeToLiveExpiry h
  | idleThresholdExpiry => exact co_execIdleThresholdExpiry h
  | pauseMoveComplete => exact co_execPauseMoveComplete h
  | resumeMoveComplete => exact co_execResumeMoveComplete h
  | frameScrubComplete => exact co_execFrameScrubComplete h
  | loadDrainExpiry => exact co_execLoadDrainExpiry h
  | leaseTest => exact co_execLeaseTest h
  | graceExpiry => exact co_execGraceExpiry h
  | tokensSend => exact co_execTokensSend h
  | eventCoalesceExpiry => exact co_execEventCoalesceExpiry h
  | dataSegmentReceive => exact co_execDataSegmentReceive h
  | ackReceive => exact co_execAckReceive h
  | ackTimer => exact co_execAckTimer h
  | retransmitTimeout => exact co_execRetransmitTimeout h
  | hsInit => exact co_execHsInit h
  | hsKey => exact co_execHsKey h
  | handshakeTimeout => exact co_execHandshakeTimeout h
  | announceTimer => exact co_execAnnounceTimer h
  | solicit => exact co_execSolicit h
  | probe => exact co_execProbe h
  | probeAck => exact co_execProbeAck h
  | pathProbeTimer => exact co_execPathProbeTimer h
  | close => exact co_execClose h
  | portLinkLoss => exact co_execPortLinkLoss h
  | lldpTimer => exact co_execLldpTimer h
  | lldpReceive => exact co_execLldpReceive h
  | pfcPauseReceive => exact co_execPfcPauseReceive h
  | calCmdAll => exact co_execCalCmdAll h
  | clear => exact co_execClear h
  | recorderClearEnd => exact co_execRecorderClearEnd h
  | swtrig => exact co_execSwtrig h
  | holdReq => exact co_execHoldReq h
  | plim => exact co_execPlim h
  | ptnEnable => exact co_execPtnEnable h
  | cnvEnable => exact co_execCnvEnable h
  | sketchEn => exact co_execSketchEn h
  | auditEn => exact co_execAuditEn h
  | query => exact co_execQuery h
  | registerWrite => exact co_execRegisterWrite h
  | addr => exact co_execAddr h
  | read => exact co_execRead h
  | write => exact co_execWrite h
  | status => exact co_execStatus h
  | rcvStatus => exact co_execRcvStatus h
  | rcvData => exact co_execRcvData h
  | rcvDone => exact co_execRcvDone h
  | entdaa => exact co_execEntdaa h
  | setdasa => exact co_execSetdasa h
  | tapInstructionLoad => exact co_execTapInstructionLoad h
  | pwrEnAssert => exact co_execPwrEnAssert h
  | securityBoot => exact co_execSecurityBoot h
  | selfTest => exact co_execSelfTest h
  | retentionCheck => exact co_execRetentionCheck h
  | readyEntry => exact co_execReadyEntry h
  | pwrEnDeassert => exact co_execPwrEnDeassert h
  | shutdownComplete => exact co_execShutdownComplete h
  | resetNAssert => exact co_execResetNAssert h
  | resetNRelease => exact co_execResetNRelease h
  | pwrwarnNAssert => exact co_execPwrwarnNAssert h
  | pwrwarnNRelease => exact co_execPwrwarnNRelease h
  | holdNAssert => exact co_execHoldNAssert h
  | holdQuiesceTimeout => exact co_execHoldQuiesceTimeout h
  | holdNRelease => exact co_execHoldNRelease h
  | moduleRemoval => exact co_execModuleRemoval h
  | inputOvervoltage => exact co_execInputOvervoltage h
  | inputUndervoltage => exact co_execInputUndervoltage h
  | inputLockout => exact co_execInputLockout h
  | inputReconnect => exact co_execInputReconnect h
  | thermalComparatorTrip => exact co_execThermalComparatorTrip h
  | droopDetect => exact co_execDroopDetect h
  | stretchEnd => exact co_execStretchEnd h
  | peakLimit => exact co_execPeakLimit h
  | housekeepingChannel => exact co_execHousekeepingChannel h
  | housekeepingRoundEnd => exact co_execHousekeepingRoundEnd h
  | recordWrite => exact co_execRecordWrite h
  | recorderCommit => exact co_execRecorderCommit h
  | inputApplied => exact co_execInputApplied h
  | inputUvRelease => exact co_execInputUvRelease h
  | inputStageDisconnect => exact co_execInputStageDisconnect h
  | powerGood => exact co_execPowerGood h
  | portLinkUp => exact co_execPortLinkUp h
  | mkaFrameReceive => exact co_execMkaFrameReceive h
  | ipv6NeighbourDiscovery => exact co_execIpv6NeighbourDiscovery h
  | pfcReceiveBufferDrain => exact co_execPfcReceiveBufferDrain h
  | nonfenceFaultDetect => exact co_execNonfenceFaultDetect h
  | calModuleEventTimer => exact co_execCalModuleEventTimer h
  | smbusClockLowTimeout => exact co_execSmbusClockLowTimeout h
  | enec => exact co_execEnec h
  | trstNAssert => exact co_execTrstNAssert h
  | cfgResolveReset => exact co_execCfgResolveReset h
  | standbyReadingRefresh => exact co_execStandbyReadingRefresh h

/-- Settles O3: each command's meaning keeps what its row does not list. -/
theorem commandFrames : Obligations.CommandFrames := by
  unfold Obligations.CommandFrames
  exact fun _ _ _ h => exec_touches h

/-! ## The canonical form of the memories -/

theorem exec_memWf {c : Instr} {s t : State} (h : exec c s = .next t) (hw : MemWf s) : MemWf t := by
  cases c with
  | nopa => exact mem_execNopa h hw
  | strk => exact mem_execStrk h hw
  | stkv => exact mem_execStkv h hw
  | psel => exact mem_execPsel h hw
  | strokeEnd => exact mem_execStrokeEnd h hw
  | strokeFlagsReport => exact mem_execStrokeFlagsReport h hw
  | aclr => exact mem_execAclr h hw
  | acn => exact mem_execAcn h hw
  | apro => exact mem_execApro h hw
  | awid => exact mem_execAwid h hw
  | rsum => exact mem_execRsum h hw
  | rmax => exact mem_execRmax h hw
  | rmin => exact mem_execRmin h hw
  | rarg => exact mem_execRarg h hw
  | rand => exact mem_execRand h hw
  | ror => exact mem_execRor h hw
  | rxor => exact mem_execRxor h hw
  | rcnt => exact mem_execRcnt h hw
  | nopg => exact mem_execNopg h hw
  | gcol => exact mem_execGcol h hw
  | gout => exact mem_execGout h hw
  | gact => exact mem_execGact h hw
  | glr => exact mem_execGlr h hw
  | gtnt => exact mem_execGtnt h hw
  | enorm => exact mem_execEnorm h hw
  | eact => exact mem_execEact h hw
  | emul => exact mem_execEmul h hw
  | eadd => exact mem_execEadd h hw
  | erot => exact mem_execErot h hw
  | ecvt => exact mem_execEcvt h hw
  | nopm => exact mem_execNopm h hw
  | mvb => exact mem_execMvb h hw
  | mvf => exact mem_execMvf h hw
  | mvk => exact mem_execMvk h hw
  | mck => exact mem_execMck h hw
  | twait => exact mem_execTwait h hw
  | tsend => exact mem_execTsend h hw
  | cred => exact mem_execCred h hw
  | chk => exact mem_execChk h hw
  | csum => exact mem_execCsum h hw
  | flor => exact mem_execFlor h hw
  | step => exact mem_execStep h hw
  | rplw => exact mem_execRplw h hw
  | replaySlot => exact mem_execReplaySlot h hw
  | score => exact mem_execScore h hw
  | snorm => exact mem_execSnorm h hw
  | smix => exact mem_execSmix h hw
  | kvput => exact mem_execKvput h hw
  | samp => exact mem_execSamp h hw
  | skdr => exact mem_execSkdr h hw
  | vrfy => exact mem_execVrfy h hw
  | fabricDelivery => exact mem_execFabricDelivery h hw
  | glazeTableFetch => exact mem_execGlazeTableFetch h hw
  | flagSegmentClose => exact mem_execFlagSegmentClose h hw
  | syncToken => exact mem_execSyncToken h hw
  | credit => exact mem_execCredit h hw
  | stepBoundary => exact mem_execStepBoundary h hw
  | stepDone => exact mem_execStepDone h hw
  | segment => exact mem_execSegment h hw
  | retract => exact mem_execRetract h hw
  | rewindGatherExpiry => exact mem_execRewindGatherExpiry h hw
  | rewind => exact mem_execRewind h hw
  | quiesced => exact mem_execQuiesced h hw
  | resumeToken => exact mem_execResumeToken h hw
  | commit => exact mem_execCommit h hw
  | laneKill => exact mem_execLaneKill h hw
  | seqFault => exact mem_execSeqFault h hw
  | abandon => exact mem_execAbandon h hw
  | stepWatchdogExpiry => exact mem_execStepWatchdogExpiry h hw
  | stepCompose => exact mem_execStepCompose h hw
  | hotCacheFill => exact mem_execHotCacheFill h hw
  | spacingTimeout => exact mem_execSpacingTimeout h hw
  | energyMeterSample => exact mem_execEnergyMeterSample h hw
  | formatFloorExpiry => exact mem_execFormatFloorExpiry h hw
  | persistentColumnRelease => exact mem_execPersistentColumnRelease h hw
  | runtimeChannelAdd => exact mem_execRuntimeChannelAdd h hw
  | runtimeChannelLeave => exact mem_execRuntimeChannelLeave h hw
  | digcolEntryFetch => exact mem_execDigcolEntryFetch h hw
  | calibrationGapOpen => exact mem_execCalibrationGapOpen h hw
  | calibrationGapClose => exact mem_execCalibrationGapClose h hw
  | calIntervalExpiry => exact mem_execCalIntervalExpiry h hw
  | driftTableSave => exact mem_execDriftTableSave h hw
  | fenceStart => exact mem_execFenceStart h hw
  | fenceComplete => exact mem_execFenceComplete h hw
  | drainBudgetExpiry => exact mem_execDrainBudgetExpiry h hw
  | replaceEntry => exact mem_execReplaceEntry h hw
  | unitHistoryPeriodicWrite => exact mem_execUnitHistoryPeriodicWrite h hw
  | auditRotation => exact mem_execAuditRotation h hw
  | auditArbitration => exact mem_execAuditArbitration h hw
  | tokenPlaneFailure => exact mem_execTokenPlaneFailure h hw
  | programIteration => exact mem_execProgramIteration h hw
  | planeWriteComplete => exact mem_execPlaneWriteComplete h hw
  | programmingWaveStart => exact mem_execProgrammingWaveStart h hw
  | loadComplete => exact mem_execLoadComplete h hw
  | canvasRecordDurable => exact mem_execCanvasRecordDurable h hw
  | eraseComplete => exact mem_execEraseComplete h hw
  | stagePartTimeout => exact mem_execStagePartTimeout h hw
  | farTierPatrol => exact mem_execFarTierPatrol h hw
  | farTierUncorrectable => exact mem_execFarTierUncorrectable h hw
  | masterCopyReadback => exact mem_execMasterCopyReadback h hw
  | memoryCorrectableError => exact mem_execMemoryCorrectableError h hw
  | hotCacheUncorrectable => exact mem_execHotCacheUncorrectable h hw
  | poisonRepair => exact mem_execPoisonRepair h hw
  | submit => exact mem_execSubmit h hw
  | prompt => exact mem_execPrompt h hw
  | commandPartTimeout => exact mem_execCommandPartTimeout h hw
  | continue_ => exact mem_execContinue h hw
  | cancel => exact mem_execCancel h hw
  | pause => exact mem_execPause h hw
  | resume => exact mem_execResume h hw
  | discard => exact mem_execDiscard h hw
  | export_ => exact mem_execExport h hw
  | exportRelease => exact mem_execExportRelease h hw
  | import_ => exact mem_execImport h hw
  | tintLoad => exact mem_execTintLoad h hw
  | tintDelete => exact mem_execTintDelete h hw
  | cqRead => exact mem_execCqRead h hw
  | regRead => exact mem_execRegRead h hw
  | regWrite => exact mem_execRegWrite h hw
  | attest => exact mem_execAttest h hw
  | stage => exact mem_execStage h hw
  | load => exact mem_execLoad h hw
  | abort => exact mem_execAbort h hw
  | erase => exact mem_execErase h hw
  | cfgWrite => exact mem_execCfgWrite h hw
  | cfgResolve => exact mem_execCfgResolve h hw
  | fwStage => exact mem_execFwStage h hw
  | fwUpdate => exact mem_execFwUpdate h hw
  | fwProvisionalEnd => exact mem_execFwProvisionalEnd h hw
  | fwRevert => exact mem_execFwRevert h hw
  | fwFloor => exact mem_execFwFloor h hw
  | fwActivate => exact mem_execFwActivate h hw
  | firmwareWatchdog => exact mem_execFirmwareWatchdog h hw
  | claim => exact mem_execClaim h hw
  | ownerRotate => exact mem_execOwnerRotate h hw
  | release => exact mem_execRelease h hw
  | keyRotate => exact mem_execKeyRotate h hw
  | admissionWaitExpiry => exact mem_execAdmissionWaitExpiry h hw
  | deadlineExpiry => exact mem_execDeadlineExpiry h hw
  | timeToLiveExpiry => exact mem_execTimeToLiveExpiry h hw
  | idleThresholdExpiry => exact mem_execIdleThresholdExpiry h hw
  | pauseMoveComplete => exact mem_execPauseMoveComplete h hw
  | resumeMoveComplete => exact mem_execResumeMoveComplete h hw
  | frameScrubComplete => exact mem_execFrameScrubComplete h hw
  | loadDrainExpiry => exact mem_execLoadDrainExpiry h hw
  | leaseTest => exact mem_execLeaseTest h hw
  | graceExpiry => exact mem_execGraceExpiry h hw
  | tokensSend => exact mem_execTokensSend h hw
  | eventCoalesceExpiry => exact mem_execEventCoalesceExpiry h hw
  | dataSegmentReceive => exact mem_execDataSegmentReceive h hw
  | ackReceive => exact mem_execAckReceive h hw
  | ackTimer => exact mem_execAckTimer h hw
  | retransmitTimeout => exact mem_execRetransmitTimeout h hw
  | hsInit => exact mem_execHsInit h hw
  | hsKey => exact mem_execHsKey h hw
  | handshakeTimeout => exact mem_execHandshakeTimeout h hw
  | announceTimer => exact mem_execAnnounceTimer h hw
  | solicit => exact mem_execSolicit h hw
  | probe => exact mem_execProbe h hw
  | probeAck => exact mem_execProbeAck h hw
  | pathProbeTimer => exact mem_execPathProbeTimer h hw
  | close => exact mem_execClose h hw
  | portLinkLoss => exact mem_execPortLinkLoss h hw
  | lldpTimer => exact mem_execLldpTimer h hw
  | lldpReceive => exact mem_execLldpReceive h hw
  | pfcPauseReceive => exact mem_execPfcPauseReceive h hw
  | calCmdAll => exact mem_execCalCmdAll h hw
  | clear => exact mem_execClear h hw
  | recorderClearEnd => exact mem_execRecorderClearEnd h hw
  | swtrig => exact mem_execSwtrig h hw
  | holdReq => exact mem_execHoldReq h hw
  | plim => exact mem_execPlim h hw
  | ptnEnable => exact mem_execPtnEnable h hw
  | cnvEnable => exact mem_execCnvEnable h hw
  | sketchEn => exact mem_execSketchEn h hw
  | auditEn => exact mem_execAuditEn h hw
  | query => exact mem_execQuery h hw
  | registerWrite => exact mem_execRegisterWrite h hw
  | addr => exact mem_execAddr h hw
  | read => exact mem_execRead h hw
  | write => exact mem_execWrite h hw
  | status => exact mem_execStatus h hw
  | rcvStatus => exact mem_execRcvStatus h hw
  | rcvData => exact mem_execRcvData h hw
  | rcvDone => exact mem_execRcvDone h hw
  | entdaa => exact mem_execEntdaa h hw
  | setdasa => exact mem_execSetdasa h hw
  | tapInstructionLoad => exact mem_execTapInstructionLoad h hw
  | pwrEnAssert => exact mem_execPwrEnAssert h hw
  | securityBoot => exact mem_execSecurityBoot h hw
  | selfTest => exact mem_execSelfTest h hw
  | retentionCheck => exact mem_execRetentionCheck h hw
  | readyEntry => exact mem_execReadyEntry h hw
  | pwrEnDeassert => exact mem_execPwrEnDeassert h hw
  | shutdownComplete => exact mem_execShutdownComplete h hw
  | resetNAssert => exact mem_execResetNAssert h hw
  | resetNRelease => exact mem_execResetNRelease h hw
  | pwrwarnNAssert => exact mem_execPwrwarnNAssert h hw
  | pwrwarnNRelease => exact mem_execPwrwarnNRelease h hw
  | holdNAssert => exact mem_execHoldNAssert h hw
  | holdQuiesceTimeout => exact mem_execHoldQuiesceTimeout h hw
  | holdNRelease => exact mem_execHoldNRelease h hw
  | moduleRemoval => exact mem_execModuleRemoval h hw
  | inputOvervoltage => exact mem_execInputOvervoltage h hw
  | inputUndervoltage => exact mem_execInputUndervoltage h hw
  | inputLockout => exact mem_execInputLockout h hw
  | inputReconnect => exact mem_execInputReconnect h hw
  | thermalComparatorTrip => exact mem_execThermalComparatorTrip h hw
  | droopDetect => exact mem_execDroopDetect h hw
  | stretchEnd => exact mem_execStretchEnd h hw
  | peakLimit => exact mem_execPeakLimit h hw
  | housekeepingChannel => exact mem_execHousekeepingChannel h hw
  | housekeepingRoundEnd => exact mem_execHousekeepingRoundEnd h hw
  | recordWrite => exact mem_execRecordWrite h hw
  | recorderCommit => exact mem_execRecorderCommit h hw
  | inputApplied => exact mem_execInputApplied h hw
  | inputUvRelease => exact mem_execInputUvRelease h hw
  | inputStageDisconnect => exact mem_execInputStageDisconnect h hw
  | powerGood => exact mem_execPowerGood h hw
  | portLinkUp => exact mem_execPortLinkUp h hw
  | mkaFrameReceive => exact mem_execMkaFrameReceive h hw
  | ipv6NeighbourDiscovery => exact mem_execIpv6NeighbourDiscovery h hw
  | pfcReceiveBufferDrain => exact mem_execPfcReceiveBufferDrain h hw
  | nonfenceFaultDetect => exact mem_execNonfenceFaultDetect h hw
  | calModuleEventTimer => exact mem_execCalModuleEventTimer h hw
  | smbusClockLowTimeout => exact mem_execSmbusClockLowTimeout h hw
  | enec => exact mem_execEnec h hw
  | trstNAssert => exact mem_execTrstNAssert h hw
  | cfgResolveReset => exact mem_execCfgResolveReset h hw
  | standbyReadingRefresh => exact mem_execStandbyReadingRefresh h hw

/-- A step is a tick or a command on the module with the queue's rest, whose memories are the same. -/
theorem step_memWf {s t : State} (h : step s = .next t) (hw : MemWf s) : MemWf t := by
  unfold step at h
  split at h
  · obtain rfl := Host.Outcome.next.inj h
    exact mem_tick s hw
  · exact exec_memWf h (memWf_same (s := s) rfl rfl hw)

/-- Settles O4: the canonical form is kept by every step. -/
theorem memoriesCanonical : Obligations.MemoriesCanonical := by
  unfold Obligations.MemoriesCanonical
  exact fun s t hw h => (memWf_iff t).mpr (step_memWf h ((memWf_iff s).mp hw))

/-! ## One step -/

theorem step_of_front {c : Instr} {s : State} {rest : List Instr} (h : s.pending = c :: rest) : step s = exec c { s with pending := rest } := by
  rw [step, h]

/-- Settles O1: the step takes the command in front; a command given ahead of the queue leaves the queue as it was. -/
theorem stepRunsFront : Obligations.StepRunsFront := by
  unfold Obligations.StepRunsFront
  exact fun c s => ⟨fun _ h => step_of_front h, step_of_front (s := given c s) rfl⟩

/-! ## A microsecond of the hub clock -/

theorem tget_foldl_tmod_range {α : Type} [DecidableEq α] (d : α) (f : α → α) (n : Nat) (tb : Tab α) (k : Nat) :
    tget d ((List.range n).foldl (fun u j => tmod d u j f) tb) k = if k < n then f (tget d tb k) else tget d tb k := by
  induction n with
  | zero => rfl
  | succ n ih =>
    rw [List.range_succ, List.foldl_concat, tmod, tget_tput]
    by_cases hk : k = n
    · subst hk; simp [ih]
    · rw [if_neg hk, ih]; exact if_congr (by omega) rfl rfl

/-- In a microsecond the received pause of each of the eight ports runs down (R360). -/
theorem portOf_tick {s : State} {n : Nat} (hn : n < 8) : portOf (tick s) n = pauseRuns (portOf s n) := by
  simp [portOf, tick, netTick, tget_foldl_tmod_range, hn]

theorem hoursRun_iff (s : State) : hoursRun s = true ↔ s.pwr.off = false ∧ s.pwr.state ≠ 0 := by
  simp [hoursRun]

/-- Settles O2: the clock takes the tick of R500, the ports run down, and of the rest only the network part moves. -/
theorem clockAdvances : Obligations.ClockAdvances := by
  unfold Obligations.ClockAdvances
  intro s hs
  have hclk : (tick s).clk = tickClk (hoursRun s) s.clk := rfl
  refine ⟨tick s, by rw [step, hs], co_tick s (by decide) (co_refl _ s), ?_, ?_, fun hoff => ?_, fun hon hst => ?_, fun n hn => portOf_tick hn⟩
  · rw [hclk, tickClk]; split_ifs <;> rfl
  · rw [hclk, tickClk]; split_ifs <;> rfl
  · have hrun : hoursRun s = false := by
      rw [Bool.eq_false_iff, Ne, hoursRun_iff]
      rintro ⟨h1, h2⟩
      rcases hoff with h | h
      · simp [h1] at h
      · exact h2 h
    simp [hclk, tickClk, hrun]
  · have hrun : hoursRun s = true := (hoursRun_iff s).mpr ⟨hon, hst⟩
    refine ⟨fun hlt => ?_, fun hge => ?_⟩
    · simp [hclk, tickClk, hrun, hlt]
    · simp [hclk, tickClk, hrun, Nat.not_lt.mpr hge, satAdd]

end Sys2Proof.Machine
end

section
/-! The bits of the slot instructions (R185 to R214): every well-formed instruction is what its encoded word decodes to. -/

namespace Sys2Proof.Machine

/-! ## Field groups: what an opcode and the bits of a group read back as -/

theorem opcode_add_strokeBits {o : Nat} (ho : o < 16) (f : StrokeF) : (o + strokeBits f) % 16 = o := by
  simp only [strokeBits]; omega

theorem strokeOf_add_strokeBits {o : Nat} (ho : o < 16) {f : StrokeF} (hf : f.wf = true) : strokeOf (o + strokeBits f) = f := by
  obtain ⟨emask, amask, plane, ibs, esh, ifmt, band, gsz, ntr⟩ := f
  simp only [StrokeF.wf, bits, Bool.and_eq_true, decide_eq_true_eq] at hf
  simp only [strokeOf, strokeBits, fld, StrokeF.mk.injEq]
  omega

theorem add_strokeBits_lt {o : Nat} (ho : o < 16) {f : StrokeF} (hf : f.wf = true) : o + strokeBits f < 2 ^ 64 := by
  simp only [StrokeF.wf, bits, Bool.and_eq_true, decide_eq_true_eq] at hf
  simp only [strokeBits]
  omega

theorem opcode_add_redBits {o : Nat} (ho : o < 16) (f : RedF) : (o + redBits f) % 16 = o := by
  simp only [redBits]; omega

theorem redOf_add_redBits {o : Nat} (ho : o < 16) {f : RedF} (hf : f.wf = true) : redOf (o + redBits f) = f := by
  obtain ⟨src, dst, dsr, nt, idxb⟩ := f
  simp only [RedF.wf, bits, Bool.and_eq_true, decide_eq_true_eq] at hf
  simp only [redOf, redBits, fld, RedF.mk.injEq]
  omega

theorem add_redBits_lt {o : Nat} (ho : o < 16) {f : RedF} (hf : f.wf = true) : o + redBits f < 2 ^ 48 := by
  simp only [RedF.wf, bits, Bool.and_eq_true, decide_eq_true_eq] at hf
  simp only [redBits]
  omega

theorem opcode_add_glzBits {o : Nat} (ho : o < 16) (f : GlzF) : (o + glzBits f) % 16 = o := by
  simp only [glzBits]; omega

/-- PH is one bit whether or not the instruction has phases. -/
theorem glzF_bounds {f : GlzF} {phased : Bool} (hf : f.wf phased = true) :
    f.eng < 16 ∧ f.grp < 4 ∧ f.plane < 16 ∧ f.tile < 1024 ∧ f.tid < 65536 ∧ f.vp < 2 ∧ f.ph < 2 ∧ f.lix < 64 := by
  cases phased <;> simp only [GlzF.wf, bits, Bool.and_eq_true, decide_eq_true_eq, if_true, Bool.false_eq_true, if_false, beq_iff_eq] at hf <;> omega

theorem glzOf_add_glzBits {o : Nat} (ho : o < 16) {f : GlzF} {phased : Bool} (hf : f.wf phased = true) : glzOf (o + glzBits f) = f := by
  have hb := glzF_bounds hf
  obtain ⟨eng, grp, plane, tile, tid, vp, ph, lix⟩ := f
  simp only [glzOf, glzBits, fld, GlzF.mk.injEq] at hb ⊢
  omega

theorem add_glzBits_lt {o : Nat} (ho : o < 16) {f : GlzF} {phased : Bool} (hf : f.wf phased = true) : o + glzBits f < 2 ^ 48 := by
  have hb := glzF_bounds hf
  simp only [glzBits]
  omega

theorem opcode_add_ecvtBits {o : Nat} (ho : o < 16) (f : EcvtF) : (o + ecvtBits f) % 16 = o := by
  simp only [ecvtBits]; omega

theorem ecvtOf_add_ecvtBits {o : Nat} (ho : o < 16) {f : EcvtF} (hf : f.wf = true) : ecvtOf (o + ecvtBits f) = f := by
  obtain ⟨src, dst, nblk, sfmt, tfmt, mode, lix⟩ := f
  simp only [EcvtF.wf, bits, Bool.and_eq_true, decide_eq_true_eq] at hf
  simp only [ecvtOf, ecvtBits, fld, EcvtF.mk.injEq]
  omega

theorem add_ecvtBits_lt {o : Nat} (ho : o < 16) {f : EcvtF} (hf : f.wf = true) : o + ecvtBits f < 2 ^ 48 := by
  simp only [EcvtF.wf, bits, Bool.and_eq_true, decide_eq_true_eq] at hf
  simp only [ecvtBits]
  omega

/-! ## One slot -/

/-- The word fits its slot, and before any check it names the instruction. -/
def SpelledBy (c : Instr) (k : SlotKind) (w : Nat) : Prop := w < 2 ^ k.width ∧ rawSlot c.cls k (slotIss c) w = some c

/-- An instruction of a class is one that its class accepts. -/
theorem slotInClass_cls {c : Instr} {k : SlotKind} {w : Nat} (h : encodeSlot c = some (k, w)) : slotInClass c.cls k w c = true := by
  unfold Instr.cls
  split
  all_goals first
    | rfl
    | (simp only [encodeSlot, Option.some.injEq, Prod.mk.injEq] at h
       obtain ⟨rfl, -⟩ := h
       rfl)

theorem decodeSlot_of_spelled {c : Instr} {k : SlotKind} {w : Nat} (hc : c.wf = true) (he : encodeSlot c = some (k, w)) (h : SpelledBy c k w) :
    decodeSlot c.cls k (slotIss c) w = some c := by
  simp [decodeSlot, h.2, hc, slotInClass_cls he, he]

theorem redOf_eq_iff (w : Nat) (f : RedF) :
    redOf w = f ↔ fld w 4 10 = f.src ∧ fld w 14 10 = f.dst ∧ fld w 24 1 = f.dsr ∧ fld w 25 6 = f.nt ∧ fld w 32 16 = f.idxb := by
  cases f; simp [redOf]

theorem elOf_eq_iff (w : Nat) (f : ElF) : elOf w = f ↔ fld w 4 11 = f.src ∧ fld w 15 11 = f.dst ∧ fld w 26 8 = f.len ∧ fld w 34 1 = f.ty := by
  cases f; simp [elOf]

/-- A slot is read by its opcode first. -/
theorem spelledBy_of_opcode {c : Instr} {k : SlotKind} {w : Nat} (o : Nat) (hw : w < 2 ^ k.width) (ho : w % 16 = o)
    (h : ∀ v, v % 16 = o → v = w → rawSlot c.cls k (slotIss c) v = some c) : SpelledBy c k w := ⟨hw, h w ho rfl⟩

/-- The slot and word of an encoded instruction. -/
theorem encodeSlot_parts {k k' : SlotKind} {w w' : Nat} (h : some (k', w') = some (k, w)) : k' = k ∧ w' = w := by
  simpa using h

/-- The word of every well-formed slot instruction spells it: the groups by their own lemmas, an instruction with other fields by its opcode. -/
theorem spelledBy_of_encode {c : Instr} {k : SlotKind} {w : Nat} (hc : c.wf = true) (he : encodeSlot c = some (k, w)) : SpelledBy c k w := by
  cases c
  case nopa | nopg | nopm | flor | step =>
    obtain ⟨rfl, rfl⟩ := encodeSlot_parts he
    exact ⟨by decide, rfl⟩
  case strk | stkv =>
    obtain ⟨rfl, rfl⟩ := encodeSlot_parts he
    exact ⟨add_strokeBits_lt (by decide) hc, by simp [rawSlot, Instr.cls, slotIss, opcode_add_strokeBits, strokeOf_add_strokeBits _ hc]⟩
  case rmax | rmin | rarg | rand | ror | rxor | rcnt =>
    obtain ⟨rfl, rfl⟩ := encodeSlot_parts he
    exact ⟨add_redBits_lt (by decide) hc, by simp [rawSlot, slotIss, opcode_add_redBits, redOf_add_redBits _ hc]⟩
  case gcol | gout | gact | glr | gtnt =>
    obtain ⟨rfl, rfl⟩ := encodeSlot_parts he
    exact ⟨add_glzBits_lt (by decide) hc, by simp [rawSlot, slotIss, opcode_add_glzBits, glzOf_add_glzBits _ hc]⟩
  case ecvt =>
    obtain ⟨rfl, rfl⟩ := encodeSlot_parts he
    exact ⟨add_ecvtBits_lt (by decide) hc, by simp [rawSlot, slotIss, opcode_add_ecvtBits, ecvtOf_add_ecvtBits _ hc]⟩
  case aclr =>
    obtain ⟨rfl, rfl⟩ := encodeSlot_parts he
    simp only [Instr.wf, bits, Bool.and_eq_true, decide_eq_true_eq] at hc
    exact spelledBy_of_opcode 0 (by simp only [SlotKind.width]; omega) (by omega) fun v hv hw => by
      simp [rawSlot, hv, slotIss, fld]; omega
  case acn | mvb | tsend =>
    obtain ⟨rfl, rfl⟩ := encodeSlot_parts he
    simp only [Instr.wf, bits, Bool.and_eq_true, decide_eq_true_eq] at hc
    exact spelledBy_of_opcode 1 (by simp only [SlotKind.width]; omega) (by omega) fun v hv hw => by
      simp [rawSlot, hv, slotIss, fld]; omega
  case apro | mvf | cred =>
    obtain ⟨rfl, rfl⟩ := encodeSlot_parts he
    simp only [Instr.wf, bits, Bool.and_eq_true, decide_eq_true_eq] at hc
    exact spelledBy_of_opcode 2 (by simp only [SlotKind.width]; omega) (by omega) fun v hv hw => by
      simp [rawSlot, hv, slotIss, fld]; omega
  case psel | awid | mvk | chk =>
    obtain ⟨rfl, rfl⟩ := encodeSlot_parts he
    simp only [Instr.wf, bits, Bool.and_eq_true, decide_eq_true_eq] at hc
    exact spelledBy_of_opcode 3 (by simp only [SlotKind.width]; omega) (by omega) fun v hv hw => by
      simp [rawSlot, hv, Instr.cls, slotIss, fld]; omega
  case mck | csum =>
    obtain ⟨rfl, rfl⟩ := encodeSlot_parts he
    simp only [Instr.wf, bits, Bool.and_eq_true, decide_eq_true_eq] at hc
    exact spelledBy_of_opcode 4 (by simp only [SlotKind.width]; omega) (by omega) fun v hv hw => by
      simp [rawSlot, hv, slotIss, fld]; omega
  case rplw =>
    obtain ⟨rfl, rfl⟩ := encodeSlot_parts he
    simp only [Instr.wf, bits, decide_eq_true_eq] at hc
    exact spelledBy_of_opcode 7 (by simp only [SlotKind.width]; omega) (by omega) fun v hv hw => by
      simp [rawSlot, hv, slotIss, fld]; omega
  case score =>
    obtain ⟨rfl, rfl⟩ := encodeSlot_parts he
    simp only [Instr.wf, bits, attWf, nqhWf, Bool.and_eq_true, decide_eq_true_eq] at hc
    exact spelledBy_of_opcode 8 (by simp only [SlotKind.width]; omega) (by omega) fun v hv hw => by
      simp [rawSlot, hv, Instr.cls, slotIss, fld]; omega
  case snorm =>
    obtain ⟨rfl, rfl⟩ := encodeSlot_parts he
    simp only [Instr.wf, bits, nqhWf, Bool.and_eq_true, decide_eq_true_eq] at hc
    exact spelledBy_of_opcode 9 (by simp only [SlotKind.width]; omega) (by omega) fun v hv hw => by
      simp [rawSlot, hv, Instr.cls, slotIss, fld]; omega
  case smix =>
    obtain ⟨rfl, rfl⟩ := encodeSlot_parts he
    simp only [Instr.wf, bits, attWf, nqhWf, Bool.and_eq_true, decide_eq_true_eq] at hc
    exact spelledBy_of_opcode 10 (by simp only [SlotKind.width]; omega) (by omega) fun v hv hw => by
      simp [rawSlot, hv, Instr.cls, slotIss, fld]; omega
  case kvput =>
    obtain ⟨rfl, rfl⟩ := encodeSlot_parts he
    simp only [Instr.wf, bits, attWf, Bool.and_eq_true, decide_eq_true_eq] at hc
    exact spelledBy_of_opcode 11 (by simp only [SlotKind.width]; omega) (by omega) fun v hv hw => by
      simp [rawSlot, hv, Instr.cls, slotIss, fld]; omega
  case samp =>
    obtain ⟨rfl, rfl⟩ := encodeSlot_parts he
    simp only [Instr.wf, bits, Bool.and_eq_true, decide_eq_true_eq] at hc
    exact spelledBy_of_opcode 12 (by simp only [SlotKind.width]; omega) (by omega) fun v hv hw => by
      simp [rawSlot, hv, Instr.cls, slotIss, fld]; omega
  case vrfy =>
    obtain ⟨rfl, rfl⟩ := encodeSlot_parts he
    simp only [Instr.wf, bits, Bool.and_eq_true, decide_eq_true_eq] at hc
    exact spelledBy_of_opcode 14 (by simp only [SlotKind.width]; omega) (by omega) fun v hv hw => by
      simp [rawSlot, hv, Instr.cls, slotIss, fld]; omega
  case twait ch n =>
    obtain ⟨rfl, rfl⟩ := encodeSlot_parts he
    simp only [Instr.wf, bits, Bool.and_eq_true, decide_eq_true_eq] at hc
    have hn : n < 16 := by
      have := hc.2
      split at this <;> simp_all
    exact spelledBy_of_opcode 0 (by simp only [SlotKind.width]; omega) (by omega) fun v hv hw => by
      simp [rawSlot, hv, slotIss, fld]; omega
  case skdr n tree a cands =>
    obtain ⟨rfl, rfl⟩ := encodeSlot_parts he
    simp only [Instr.wf, bits, Bool.and_eq_true, decide_eq_true_eq, List.isEmpty_iff] at hc
    have hn : n ≤ 16 := hc.1.1.1.2.trans (by split <;> omega)
    exact spelledBy_of_opcode 13 (by simp only [SlotKind.width]; omega) (by omega) fun v hv hw => by
      simp [rawSlot, hv, Instr.cls, slotIss, fld, hc.2]; omega
  case rsum =>
    obtain ⟨rfl, rfl⟩ := encodeSlot_parts he
    simp only [Instr.wf, bits, RedF.wf, Bool.and_eq_true, decide_eq_true_eq] at hc
    exact spelledBy_of_opcode 4 (by simp only [SlotKind.width, redBits]; omega) (by simp only [redBits]; omega) fun v hv hw => by
      simp [rawSlot, hv, slotIss, fld, redOf_eq_iff]; simp only [redBits] at hw; omega
  case enorm =>
    obtain ⟨rfl, rfl⟩ := encodeSlot_parts he
    simp only [Instr.wf, bits, ElF.wf, Bool.and_eq_true, decide_eq_true_eq] at hc
    exact spelledBy_of_opcode 6 (by simp only [SlotKind.width, elBits]; omega) (by simp only [elBits]; omega) fun v hv hw => by
      simp [rawSlot, hv, slotIss, fld, elOf_eq_iff]; simp only [elBits] at hw; omega
  case eact =>
    obtain ⟨rfl, rfl⟩ := encodeSlot_parts he
    simp only [Instr.wf, bits, ElF.wf, Bool.and_eq_true, decide_eq_true_eq] at hc
    exact spelledBy_of_opcode 7 (by simp only [SlotKind.width, elBits]; omega) (by simp only [elBits]; omega) fun v hv hw => by
      simp [rawSlot, hv, slotIss, fld, elOf_eq_iff]; simp only [elBits] at hw; omega
  case emul =>
    obtain ⟨rfl, rfl⟩ := encodeSlot_parts he
    simp only [Instr.wf, bits, ElF.wf, Bool.and_eq_true, decide_eq_true_eq] at hc
    exact spelledBy_of_opcode 8 (by simp only [SlotKind.width, elBits]; omega) (by simp only [elBits]; omega) fun v hv hw => by
      simp [rawSlot, hv, slotIss, fld, elOf_eq_iff]; simp only [elBits] at hw; omega
  case eadd =>
    obtain ⟨rfl, rfl⟩ := encodeSlot_parts he
    simp only [Instr.wf, bits, ElF.wf, Bool.and_eq_true, decide_eq_true_eq] at hc
    exact spelledBy_of_opcode 9 (by simp only [SlotKind.width, elBits]; omega) (by simp only [elBits]; omega) fun v hv hw => by
      simp [rawSlot, hv, slotIss, fld, elOf_eq_iff]; simp only [elBits] at hw; omega
  case erot =>
    obtain ⟨rfl, rfl⟩ := encodeSlot_parts he
    simp only [Instr.wf, bits, ElF.wf, Bool.and_eq_true, decide_eq_true_eq] at hc
    exact spelledBy_of_opcode 10 (by simp only [SlotKind.width, elBits]; omega) (by simp only [elBits]; omega) fun v hv hw => by
      simp [rawSlot, hv, slotIss, fld, elOf_eq_iff]; simp only [elBits] at hw; omega
  all_goals simp [encodeSlot] at he

/-- Settles O6: the encoded word spells its instruction, and the checks of the decoder hold of it. -/
theorem slotRoundTrip : Obligations.SlotRoundTrip := by
  unfold Obligations.SlotRoundTrip
  intro c k w hc he
  have hspell := spelledBy_of_encode hc he
  exact ⟨hspell.1, slotIss c, decodeSlot_of_spelled hc he hspell⟩

/-- Settles O7: each word is read, checked and encoded again. -/
theorem slotWords : Obligations.SlotWords := by
  unfold Obligations.SlotWords
  exact fun i => ⟨rfl, rfl, rfl, rfl, rfl, rfl, rfl, rfl, rfl, rfl, rfl, rfl, rfl, rfl, rfl⟩

end Sys2Proof.Machine
end

section
/-! The issue of a slot instruction (R187, R189, R223): when a sequencer takes it, holds it, or lets it wait in a queue. -/

namespace Sys2Proof.Machine

/-! ## When an instruction issues -/

theorem inStep_of_issuing {s : State} {i : Iss} (h : issuing s i = true) : inStep s i = true := by
  simp only [issuing, Bool.and_eq_true] at h
  exact h.1.1.1

theorem runsAt_iff {s : State} {i : Iss} {reads : Bool} :
    runsAt s i reads = true ↔ isSid i.sid = true ∧ takesPart s i.sid = true ∧ issuing s i = true ∧ laneDead s i reads = false := by
  simp [runsAt, and_assoc]

theorem runsNow_iff {s : State} {c : Instr} {i : Iss} {reads : Bool} :
    runsNow s c i reads = true ↔ runsAt s i reads = true ∧ opsOf (seqOf s i.sid) (opClass c) = false := by
  simp [runsNow]

theorem seqRuns_iff {s : State} {i : Iss} :
    seqRuns s i = true ↔ isSid i.sid = true ∧ takesPart s i.sid = true ∧ issuing s i = true := by
  simp [seqRuns, and_assoc]

theorem slotOp_of_issuing {s : State} {i : Iss} (c : Instr) (run : State → State) (hpart : takesPart s i.sid = true) (hiss : issuing s i = true) :
    slotOp c i true run s = .next (run s) := by
  simp [slotOp, hpart, hiss, inStep_of_issuing hiss]

/-- In a step, an instruction whose bundle waits stands behind the earlier ones. -/
theorem slotOp_of_waiting {s : State} {i : Iss} (c : Instr) (run : State → State) (hpart : takesPart s i.sid = true) (hin : inStep s i = true)
    (hiss : issuing s i = false) : slotOp c i true run s = .next (hold c i s) := by
  simp [slotOp, hpart, hin, hiss]

theorem coreOp_of_runsAt {s : State} {i : Iss} {reads : Bool} (c : Instr) (run : State → State) (hsid : isCoreSid i.sid = true)
    (hrun : runsAt s i reads = true) {ok : Bool} (hok : ok = true) : coreOp c i ok run s = .next (run s) :=
  coreOp_of_coreRuns c run ⟨hsid, hrun⟩ hok

theorem anyOp_of_seqRuns {s : State} {i : Iss} (c : Instr) (run : State → State) (h : seqRuns s i = true) {ok : Bool} (hok : ok = true) :
    anyOp c i ok run s = .next (run s) := by
  obtain ⟨hsid, hpart, hiss⟩ := seqRuns_iff.mp h
  rw [anyOp, hsid, hok, Bool.and_self, slotOp_of_issuing c run hpart hiss]

theorem seqRuns_of_runsAt {s : State} {i : Iss} {reads : Bool} (h : runsAt s i reads = true) : seqRuns s i = true := by
  obtain ⟨hsid, hpart, hiss, -⟩ := runsAt_iff.mp h
  exact seqRuns_iff.mpr ⟨hsid, hpart, hiss⟩

theorem laneDead_of_runsAt {s : State} {i : Iss} {reads : Bool} (h : runsAt s i reads = true) : laneDead s i reads = false := by
  obtain ⟨-, -, -, hdead⟩ := runsAt_iff.mp h
  exact hdead

theorem alive_of_runsAt {s : State} {i : Iss} {reads : Bool} (op : State → State) (h : runsAt s i reads = true) : alive i reads op s = op s := by
  simp [alive, laneDead_of_runsAt h]

/-! ## The execution queues -/

theorem enqueueOp_begins {c : Instr} {i : Iss} {s : State} (rdy : State → Bool) (act : State → State)
    (hops : opsOf (seqOf s i.sid) (opClass c) = false) (hrdy : rdy s = true) : enqueueOp c i rdy act s = act s := by
  simp [enqueueOp, hops, hrdy]

/-- An operation whose queue holds an earlier one, or that waits for something, joins its queue. -/
theorem enqueueOp_waits {c : Instr} {i : Iss} {s : State} (rdy : State → Bool) (act : State → State)
    (h : opsOf (seqOf s i.sid) (opClass c) = true ∨ rdy s = false) : enqueueOp c i rdy act s = queued s c i := by
  rcases h with h | h <;> simp [enqueueOp, queued, h]

end Sys2Proof.Machine
end

section
/-! The NOP of the ARRAY slot while its sequencer waits (R187, R195). -/

namespace Sys2Proof.Machine

/-- Sequencer 0, of core 0, in a step and waiting for a token. -/
def waitingSeq : State :=
  { State.reset with seq := { State.reset.seq with seqs := [(0, { Seq.init with phase := 1, wait := .tokens 0 1 })] } }

/-- An issue of sequencer 0 without repetition. -/
def plainIss : Iss := { sid := 0, seg := 0, reps := 0, r := 0, waitm := 0 }

/-- An instruction in the place of a held one changes its sequencer. -/
theorem hold_ne (c : Instr) (i : Iss) (s : State) : hold c i s ≠ s := by
  intro h
  have hheld := congrArg (fun t => (seqOf t i.sid).held.length) h
  simp [hold] at hheld

theorem exec_nopa_waitingSeq : exec (.nopa plainIss) waitingSeq = .next (hold (.nopa plainIss) plainIss waitingSeq) :=
  slotOp_of_waiting _ _ (by decide) (by decide) (by decide)

/-- Refutes O11: a NOP whose sequencer waits is held with its bundle, as the statement's last part says of every slot instruction, so that the state
is not as it was. -/
theorem not_strokesJoinQueues : ¬ Obligations.StrokesJoinQueues := by
  unfold Obligations.StrokesJoinQueues
  intro h
  have hnop := ((h.2.1 plainIss waitingSeq).1 (by decide)).1
  rw [exec_nopa_waitingSeq, Host.Outcome.next.injEq] at hnop
  exact hold_ne _ _ _ hnop

end Sys2Proof.Machine
end

section
/-! The accumulator banks (R134): tiles after a sum into them, and operations that change nothing else. -/

namespace Sys2Proof.Machine

/-! ## Pairs of a tile -/

theorem abAddr_col (core tile col : Nat) : abAddr core tile col = abAddr core tile 0 + col * 8 := by unfold abAddr; omega

/-- Values put one after another, each in a place of its own, read back. -/
theorem read_foldl_zipIdx {σ β ρ : Type} (put : σ → β × Nat → σ) (rd : σ → Nat → ρ) (enc : β → ρ) (hsame : ∀ m v k, rd (put m (v, k)) k = enc v)
    (hother : ∀ m v k j, j ≠ k → rd (put m (v, k)) j = rd m j) (vs : List β) (k j : Nat) (hj : j < vs.length) (m : σ) :
    rd ((vs.zipIdx k).foldl put m) (k + j) = enc vs[j] := by
  have hbefore : ∀ (vs : List β) (k j : Nat) (m : σ), j < k → rd ((vs.zipIdx k).foldl put m) j = rd m j := by
    intro vs
    induction vs with
    | nil => exact fun _ _ _ _ => rfl
    | cons v vs ih => exact fun k j m h => (ih (k + 1) j _ (by omega)).trans (hother m v k j (by omega))
  induction vs generalizing k j m with
  | nil => simp at hj
  | cons v vs ih =>
    rw [List.zipIdx_cons, List.foldl_cons]
    cases j with
    | zero => exact (hbefore vs (k + 1) k _ (Nat.lt_succ_self k)).trans (hsame ..)
    | succ j => rw [show k + (j + 1) = k + 1 + j by omega, ih (k + 1) j (by simpa using hj)]; rfl

theorem rdPair_setAb (ab : Mem) (core tile : Nat) {ps : List Pair} {j : Nat} (hj : j < ps.length) :
    rdPair (setAb ab core tile ps) (abAddr core tile j) = ps[j] := by
  have h := read_foldl_zipIdx (fun m (p : Pair × Nat) => wrPair m (abAddr core tile p.2) p.1) (fun m k => rdPair m (abAddr core tile k)) id
    (fun m v k => rdPair_wrPair ..)
    (fun m v k j hne => rdPair_wrPair_out _ _ _ _ (by rw [abAddr_col core tile k, abAddr_col core tile j]; omega)) ps 0 j hj ab
  simpa [setAb] using h

theorem nth_map_range {α : Type} (d : α) (f : Nat → α) {n j : Nat} (hj : j < n) : nth d ((List.range n).map f) j = f j := by
  simp [nth, List.getElem?_range hj]

/-- Each column of a tile takes the sum with its pair. -/
theorem abGet_abAdd (core tile : Nat) (ps : List Pair) (s : State) {j : Nat} (hj : j < 64) :
    abGet (abAdd core tile ps s) core tile j = awidP (abGet s core tile j) (nth Pair.zero ps j) := by
  rw [abGet, abAdd, rdPair_setAb _ _ _ (by simpa using hj)]
  simp

/-- A column that none of some sums names stays as it was. -/
theorem abGet_abAddCols_of_not_mem (core tile : Nat) (cols : List (Nat × Pair)) (s : State) {j : Nat} (hj : ∀ c ∈ cols, c.1 ≠ j) :
    abGet (abAddCols core tile cols s) core tile j = abGet s core tile j := by
  unfold abAddCols
  induction cols generalizing s with
  | nil => rfl
  | cons c cs ih =>
    rw [List.foldl_cons, ih _ (fun x hx => hj x (List.mem_cons_of_mem _ hx))]
    have hne := hj c (List.mem_cons_self ..)
    exact rdPair_wrPair_out _ _ _ _ (by rw [abAddr_col core tile c.1, abAddr_col core tile j]; omega)

/-! ## Operations that change the accumulator banks only -/

/-- Nothing but the accumulator banks changed. -/
def changesAb (s t : State) : Prop := t = { s with core := { s.core with ab := t.core.ab } }

theorem changesAb_refl (s : State) : changesAb s s := rfl

theorem changesAb_trans {s t u : State} (h : changesAb s t) (k : changesAb t u) : changesAb s u := by
  unfold changesAb at *
  rw [k, h]

theorem changesAb_foldl {β : Type} (g : State → β → State) (hg : ∀ t x, changesAb t (g t x)) (l : List β) (s : State) : changesAb s (l.foldl g s) := by
  induction l generalizing s with
  | nil => exact changesAb_refl s
  | cons x xs ih => exact changesAb_trans (hg s x) (ih _)

theorem changesAb_abAdd (core tile : Nat) (ps : List Pair) (s : State) : changesAb s (abAdd core tile ps s) := rfl

theorem changesAb_abAddCols (core tile : Nat) (cols : List (Nat × Pair)) (s : State) : changesAb s (abAddCols core tile cols s) := by
  unfold abAddCols
  refine changesAb_foldl _ (fun _ _ => ?_) cols s
  rfl

theorem abOnly_refl (s : State) (core tile n : Nat) : abOnly s s core tile n := ⟨rfl, fun _ _ => rfl⟩

theorem abOnly_trans {s t u : State} {core tile n : Nat} (h : abOnly s t core tile n) (k : abOnly t u core tile n) : abOnly s u core tile n :=
  ⟨changesAb_trans h.1 k.1, fun a ha => (k.2 a ha).trans (h.2 a ha)⟩

/-- More tiles may change. -/
theorem abOnly_mono {s t : State} {core tile n tile' n' : Nat} (h : abOnly s t core tile n) (hlo : tile' ≤ tile) (hhi : tile + n ≤ tile' + n') :
    abOnly s t core tile' n' := by
  refine ⟨h.1, fun a ha => h.2 a ?_⟩
  have h1 := abAddr_tile core 0 tile
  have h2 := abAddr_tile core 0 tile'
  simp only [Nat.zero_add] at h1 h2
  omega

theorem abOnly_foldl {β : Type} (g : State → β → State) {core tile n : Nat} (l : List β) (hg : ∀ t, ∀ x ∈ l, abOnly t (g t x) core tile n) (s : State) :
    abOnly s (l.foldl g s) core tile n := by
  induction l generalizing s with
  | nil => exact abOnly_refl s ..
  | cons x xs ih => exact abOnly_trans (hg s x (List.mem_cons_self ..)) (ih (fun t y hy => hg t y (List.mem_cons_of_mem _ hy)) _)

theorem abOnly_abAdd (core tile : Nat) (ps : List Pair) (s : State) : abOnly s (abAdd core tile ps s) core tile 1 :=
  ⟨changesAb_abAdd core tile ps s, fun a ha => rdByte_abAdd_out core tile a ps s (by omega)⟩

theorem abOnly_abAddCols (core tile : Nat) (cols : List (Nat × Pair)) (s : State) (hc : ∀ c ∈ cols, c.1 < 64) :
    abOnly s (abAddCols core tile cols s) core tile 1 :=
  ⟨changesAb_abAddCols core tile cols s, fun a ha => rdByte_abAddCols_out core tile a cols s hc (by omega)⟩

end Sys2Proof.Machine
end

section
/-! ACLR, ACN, APRO and AWID (R133, R134, R202, R203). -/

namespace Sys2Proof.Machine

/-! ## Operations of the ACC queue that begin at once -/

section
variable {s : State} {c : Instr} {i : Iss} {reads : Bool}

theorem coreRuns_of_now (h : coreRunsNow s c i reads) : coreRuns s i reads := ⟨h.1, (runsNow_iff.mp h.2).1⟩

/-- An operation of a core's queues that begins as it issues. -/
theorem coreOp_enqueueOp_begins (h : coreRunsNow s c i reads) (rdy : State → Bool) (act : State → State) {ok : Bool} (hok : ok = true) (hrdy : rdy s = true) :
    coreOp c i ok (enqueueOp c i rdy act) s = .next (act s) := by
  rw [coreOp_of_coreRuns c _ (coreRuns_of_now h) hok, enqueueOp_begins rdy act (runsNow_iff.mp h.2).2 hrdy]

/-- An operation that waits for something joins its queue. -/
theorem coreOp_enqueueOp_waits (h : coreRunsNow s c i reads) (rdy : State → Bool) (act : State → State) {ok : Bool} (hok : ok = true) (hrdy : rdy s = false) :
    coreOp c i ok (enqueueOp c i rdy act) s = .next (queued s c i) := by
  rw [coreOp_of_coreRuns c _ (coreRuns_of_now h) hok, enqueueOp_waits rdy act (Or.inr hrdy)]

end

/-! ## APRO -/

theorem changesAb_addD16 (core abTile plane : Nat) (t : TileIn) (array : Nat) (cols : List Nat) (s : State) :
    changesAb s (addD16 core abTile plane t array cols s) := changesAb_abAddCols ..

/-- The D16 pairs of an array leave the columns alone that they do not name. -/
theorem abGet_addD16_of_not_mem (core abTile plane : Nat) (t : TileIn) (array : Nat) {cols : List Nat} {j : Nat} (hj : j ∉ cols) (s : State) :
    abGet (addD16 core abTile plane t array cols s) core abTile j = abGet s core abTile j :=
  abGet_abAddCols_of_not_mem core abTile _ s (by
    rintro c hc rfl
    obtain ⟨k, hk, rfl⟩ := List.mem_map.mp hc
    exact hj hk)

/-- D16 pairs change only the accumulator banks. -/
theorem changesAb_addD16s (core abTile plane : Nat) (t : TileIn) (arrays : List Nat) (cols : State → Nat → List Nat) (s : State) :
    changesAb s (arrays.foldl (fun u a => addD16 core abTile plane t a (cols u a) u) s) :=
  changesAb_foldl _ (fun _ _ => changesAb_addD16 ..) arrays s

theorem abGet_addD16s_of_not_mem (core abTile plane : Nat) (t : TileIn) {cols : State → Nat → List Nat} {j : Nat} (arrays : List Nat) (s : State)
    (hj : ∀ u a, changesAb s u → j ∉ cols u a) :
    abGet (arrays.foldl (fun u a => addD16 core abTile plane t a (cols u a) u) s) core abTile j = abGet s core abTile j := by
  induction arrays generalizing s with
  | nil => rfl
  | cons a as ih =>
    have hstep := changesAb_addD16 core abTile plane t a (cols s a) s
    rw [List.foldl_cons, ih _ fun u b hu => hj u b (changesAb_trans hstep hu), abGet_addD16_of_not_mem core abTile plane t a (hj s a (changesAb_refl s))]

theorem changesAb_addRun (core abTile tile plane : Nat) (d16 : List (Nat × List Nat)) (t : TileIn) (sc : Nat → Half) (z : State × List Nat) (r : Run) :
    changesAb z.1 (addRun core abTile tile plane d16 t sc z r).1 :=
  changesAb_trans (changesAb_abAdd core abTile _ z.1) (changesAb_addD16s core abTile plane t _ (fun _ a => d16Cols z.1 d16 plane a) _)

theorem changesAb_addRuns (core abTile tile plane : Nat) (d16 : List (Nat × List Nat)) (t : TileIn) (sc : Nat → Half) (rs : List Run)
    (z : State × List Nat) : changesAb z.1 (rs.foldl (addRun core abTile tile plane d16 t sc) z).1 := by
  induction rs generalizing z with
  | nil => exact changesAb_refl _
  | cons r rs ih => exact changesAb_trans (changesAb_addRun core abTile tile plane d16 t sc z r) (ih _)

/-- A column that no array's D16 finishes is in none of the lists of columns that it does. -/
theorem not_mem_d16Cols {s u : State} {d16 : List (Nat × List Nat)} {plane j : Nat} (hu : changesAb s u) (hj : ∀ c, replaced s d16 c plane j = false)
    (a : Nat) : j ∉ d16Cols u d16 plane a := by
  have hrep : ∀ c, replaced u d16 c plane j = false := fun c => by rw [hu]; exact hj c
  unfold d16Cols
  split <;> simp [hrep]

/-- A run adds its promoted value to a column without D16. -/
theorem abGet_addRun {s : State} {core abTile tile plane : Nat} {d16 : List (Nat × List Nat)} {t : TileIn} {sc : Nat → Half} {z : State × List Nat}
    {r : Run} {j : Nat} (hz : changesAb s z.1) (hlt : j < 64) (hj : ∀ c, replaced s d16 c plane j = false) :
    abGet (addRun core abTile tile plane d16 t sc z r).1 core abTile j
      = awidP (abGet z.1 core abTile j) (promoteCol s d16 tile plane r (sc j) j) := by
  have hval : promoteCol z.1 d16 tile plane r (sc j) j = promoteCol s d16 tile plane r (sc j) j := by rw [hz]; rfl
  rw [addRun]
  dsimp only
  rw [abGet_addD16s_of_not_mem core abTile plane t (cols := fun u a => d16Cols z.1 d16 plane a) _ _ fun u a hu => not_mem_d16Cols hz hj a,
    abGet_abAdd _ _ _ _ hlt, nth_map_range _ _ hlt, hval]

theorem abGet_addRuns {s : State} {core abTile tile plane : Nat} {d16 : List (Nat × List Nat)} {t : TileIn} {sc : Nat → Half} {j : Nat} (hlt : j < 64)
    (hj : ∀ c, replaced s d16 c plane j = false) (rs : List Run) (z : State × List Nat) (hz : changesAb s z.1) :
    abGet (rs.foldl (addRun core abTile tile plane d16 t sc) z).1 core abTile j
      = rs.foldl (fun p r => awidP p (promoteCol s d16 tile plane r (sc j) j)) (abGet z.1 core abTile j) := by
  induction rs generalizing z with
  | nil => rfl
  | cons r rs ih =>
    rw [List.foldl_cons, ih _ (changesAb_trans hz (changesAb_addRun core abTile tile plane d16 t sc z r)), abGet_addRun hz hlt hj, List.foldl_cons]

/-- Of the core, one tile's APRO changes the accumulator banks and the inputs kept for the tile's terms. -/
def changesTile (s t : State) : Prop := t.core = { s.core with ab := t.core.ab, tin := t.core.tin }

theorem changesTile_trans {s t u : State} (h : changesTile s t) (k : changesTile t u) : changesTile s u := by
  unfold changesTile at *
  rw [k, h]

theorem changesTile_of_changesAb {s t : State} (h : changesAb s t) : changesTile s t := by
  unfold changesTile
  rw [h]

/-- What APRO of one tile adds: its runs, if it is not computed whole in D16, and then the D16 pairs of the arrays that no run held. -/
def aproSums (core abTile eng n gt : Nat) (whole : Bool) (s : State) : State :=
  let tl := tget Tile.init s.core.ntr (ntrKey eng n)
  let t := tget TileIn.init s.core.tin (tileKey eng tl.grp tl.plane * 8 + tl.posIx)
  let arrays := tileArrays t
  let z := if whole then (s, []) else
    (tileRuns tl).foldl (addRun core abTile gt tl.plane tl.d16 t fun j => match arrays with | a :: _ => colScale s a tl.plane j | [] => 0) (s, [])
  (arrays.filter fun a => !z.2.contains a).foldl (fun u a => addD16 core abTile tl.plane t a
    (if whole then (if leadArray s a tl.plane = a then List.range 64 else []) else d16Cols s tl.d16 tl.plane a) u) z.1

/-- Beside its sums, APRO of a tile keeps the inputs of the tile's terms and draws the free values of its checkpoints. -/
theorem aproTile_eq (core abTile eng n gt : Nat) (whole : Bool) (s : State) : ∃ k x,
    aproTile core abTile eng n gt whole s =
      { aproSums core abTile eng n gt whole s with
        core := { (aproSums core abTile eng n gt whole s).core with tin := tput TileIn.init (aproSums core abTile eng n gt whole s).core.tin k x }
        free := (aproSums core abTile eng n gt whole s).free + ckptFree } := ⟨_, _, rfl⟩

theorem changesAb_aproSums (core abTile eng n gt : Nat) (whole : Bool) (s : State) : changesAb s (aproSums core abTile eng n gt whole s) := by
  unfold aproSums
  dsimp only
  refine changesAb_trans ?_ (changesAb_addD16s ..)
  split
  · exact changesAb_refl s
  · exact changesAb_addRuns ..

theorem changesTile_aproTile (core abTile eng n gt : Nat) (whole : Bool) (s : State) : changesTile s (aproTile core abTile eng n gt whole s) := by
  obtain ⟨k, x, h⟩ := aproTile_eq core abTile eng n gt whole s
  have hsum := changesTile_of_changesAb (changesAb_aproSums core abTile eng n gt whole s)
  rw [changesTile, h]
  dsimp only
  rw [hsum]

theorem changesTile_foldl {β : Type} (g : State → β → State) (hg : ∀ t x, changesTile t (g t x)) (l : List β) (s : State) : changesTile s (l.foldl g s) := by
  induction l generalizing s with
  | nil => rfl
  | cons x xs ih => exact changesTile_trans (hg s x) (ih _)

/-- A column without D16 holds, after the APRO of a tile that is not computed whole in D16, the promoted values of the runs in closing order. -/
theorem abGet_aproTile {s : State} {core abTile eng n gt j : Nat} (hlt : j < 64)
    (hj : ∀ c, replaced s (tget Tile.init s.core.ntr (ntrKey eng n)).d16 c (tget Tile.init s.core.ntr (ntrKey eng n)).plane j = false) :
    let tl := tget Tile.init s.core.ntr (ntrKey eng n)
    let tin := tget TileIn.init s.core.tin (tileKey eng tl.grp tl.plane * 8 + tl.posIx)
    abGet (aproTile core abTile eng n gt false s) core abTile j
      = (tileRuns tl).foldl (fun p r => awidP p (promoteCol s tl.d16 gt tl.plane r
          (match tileArrays tin with | a :: _ => colScale s a tl.plane j | [] => 0) j)) (abGet s core abTile j) := by
  intro tl tin
  obtain ⟨k, x, h⟩ := aproTile_eq core abTile eng n gt false s
  have hsame : abGet (aproTile core abTile eng n gt false s) core abTile j = abGet (aproSums core abTile eng n gt false s) core abTile j := by
    rw [h]; rfl
  rw [hsame, aproSums]
  simp only [Bool.false_eq_true, if_false]
  rw [abGet_addD16s_of_not_mem core abTile _ _ (cols := fun _ a => d16Cols s tl.d16 tl.plane a) _ _
      fun u a _ => not_mem_d16Cols (changesAb_refl s) hj a,
    abGet_addRuns (s := s) hlt hj _ _ (changesAb_refl s)]

/-- What the APRO of every position does to the core: the tiles, the inputs of their terms, the binding and the samples. -/
theorem aproAll_core (i : Iss) (eng ntr tile vp : Nat) (s : State) :
    (aproAll i eng ntr tile vp s).core = { s.core with
      ab := (aproAll i eng ntr tile vp s).core.ab
      tin := (aproAll i eng ntr tile vp s).core.tin
      bind := tput [] s.core.bind (sidCore i.sid) (dropBind eng (tget [] s.core.bind (sidCore i.sid)))
      samples := (aproAll i eng ntr tile vp s).core.samples } := by
  unfold aproAll
  dsimp only
  generalize hu : List.foldl _ s _ = u
  have hcore : changesTile s u := hu ▸ changesTile_foldl _ (fun _ _ => changesTile_aproTile ..) _ s
  rw [hcore]

theorem checkVp_of_vpOk {s : State} {i : Iss} {vp : Nat} (op : State → State) (h : vpOk s i vp = true) : checkVp i vp op s = op s := by
  simp only [vpOk, Bool.or_eq_true, beq_iff_eq] at h
  rcases h with h | h <;> simp [checkVp, checkWidth, h]

/-- Without the VP bit an APRO reads the one register it names. -/
theorem aproRegs_zero (s : State) (i : Iss) (eng ntr : Nat) : aproRegs s i eng ntr 0 = [ntr] := by
  simp [aproRegs, vpList]

theorem exec_apro_of_not_ready {s : State} {i : Iss} {eng ntr tile vp : Nat} (h : coreRunsNow s (.apro i eng ntr tile vp) i (vp != 0))
    (he : eng < 16) (hn : ntr < 8) (ht : tile < 1024) (hv : vp < 2) (hrdy : aproReady s i eng ntr vp = false) :
    exec (.apro i eng ntr tile vp) s = .next (queued s (.apro i eng ntr tile vp) i) :=
  coreOp_enqueueOp_waits h _ _ (by simp [*]) hrdy

theorem exec_apro_of_ready {s : State} {i : Iss} {eng ntr tile vp : Nat} (h : coreRunsNow s (.apro i eng ntr tile vp) i (vp != 0))
    (he : eng < 16) (hn : ntr < 8) (ht : tile < 1024) (hv : vp < 2) (hok : vpOk s i vp = true) (hrdy : aproReady s i eng ntr vp = true) :
    exec (.apro i eng ntr tile vp) s = .next (aproAll i eng ntr tile vp s) := by
  refine (coreOp_enqueueOp_begins h (fun t => aproReady t i eng ntr vp) (aproAct i eng ntr tile vp) (by simp [*]) hrdy).trans ?_
  rw [aproAct, alive_of_coreRuns _ (coreRuns_of_now h), checkVp_of_vpOk _ hok]

/-- A column without D16 after the APRO of one tile (R133, R137). -/
theorem abGet_aproAll {s : State} {i : Iss} {eng ntr tile j : Nat} {b : GBind} (hb : bindOf s (sidCore i.sid) eng = some b) (hlt : j < 64)
    (hmark : tileMarked s i.sid (offset s i 1 tile) = false) :
    let e := mkEngine (sidCore i.sid) eng
    let tl := tget Tile.init s.core.ntr (ntrKey e ntr)
    let tin := tget TileIn.init s.core.tin (tileKey e tl.grp tl.plane * 8 + tl.posIx)
    (∀ c, replaced s tl.d16 c tl.plane j = false) →
    abGet (aproAll i eng ntr tile 0 s) (sidCore i.sid) (offset s i 1 tile) j = (tileRuns tl).foldl (fun p r =>
      awidP p (promoteCol s tl.d16 (dirTile s (seqOf s i.sid).canvas (sidCore i.sid) b.tid (tileKey e b.grp b.plane)) tl.plane r
        (match tileArrays tin with | a :: _ => colScale s a tl.plane j | [] => 0) j))
      (abGet s (sidCore i.sid) (offset s i 1 tile) j) := by
  intro e tl tin hrep
  have hone : abGet (aproAll i eng ntr tile 0 s) (sidCore i.sid) (offset s i 1 tile) j
      = abGet (aproTile (sidCore i.sid) (offset s i 1 tile) e ntr
          (dirTile s (seqOf s i.sid).canvas (sidCore i.sid) b.tid (tileKey e b.grp b.plane)) false s) (sidCore i.sid) (offset s i 1 tile) j := by
    unfold aproAll
    simp only [aproRegs_zero, hb, List.zipIdx_cons, List.zipIdx_nil, List.foldl_cons, List.foldl_nil, Nat.add_zero, hmark]
    rfl
  rw [hone, abGet_aproTile hlt hrep]

/-! ## AWID -/

theorem exec_awid_of_ready {s : State} {i : Iss} {dtile srcsp saddr tcnt fold : Nat} (h : coreRunsNow s (.awid i dtile srcsp saddr tcnt fold) i false)
    (hd : dtile < 1024) (hsp : srcsp < 2) (ha : saddr < if srcsp = 0 then 1024 else 256) (h1 : 1 ≤ tcnt) (h16 : tcnt ≤ 16) (hf : fold < 2)
    (hrdy : awidReady s i srcsp saddr tcnt = true) :
    exec (.awid i dtile srcsp saddr tcnt fold) s = .next (awidAll i dtile srcsp saddr tcnt fold s) := by
  refine (coreOp_enqueueOp_begins h (fun t => awidReady t i srcsp saddr tcnt) (awidAct i dtile srcsp saddr tcnt fold) (by simp [*]) hrdy).trans ?_
  rw [awidAct, alive_of_coreRuns _ (coreRuns_of_now h)]

theorem exec_awid_of_not_ready {s : State} {i : Iss} {dtile srcsp saddr tcnt fold : Nat} (h : coreRunsNow s (.awid i dtile srcsp saddr tcnt fold) i false)
    (hd : dtile < 1024) (hsp : srcsp < 2) (ha : saddr < if srcsp = 0 then 1024 else 256) (h1 : 1 ≤ tcnt) (h16 : tcnt ≤ 16) (hf : fold < 2)
    (hrdy : awidReady s i srcsp saddr tcnt = false) :
    exec (.awid i dtile srcsp saddr tcnt fold) s = .next (queued s (.awid i dtile srcsp saddr tcnt fold) i) :=
  coreOp_enqueueOp_waits h (fun t => awidReady t i srcsp saddr tcnt) _ (by simp [*]) hrdy

/-- From AB, AWID changes the tiles it names, one with FOLD. -/
theorem abOnly_awidAll {s : State} {i : Iss} (dtile saddr tcnt : Nat) {fold : Nat} :
    abOnly s (awidAll i dtile 0 saddr tcnt fold s) (sidCore i.sid) (offset s i 1 dtile) (if fold = 1 then 1 else tcnt) := by
  unfold awidAll
  refine abOnly_foldl _ _ (fun t k hk => ?_) s
  have hk := List.mem_range.mp hk
  simp only [awidOne, if_true]
  split
  · exact abOnly_abAdd ..
  · exact abOnly_mono (abOnly_abAdd ..) (Nat.le_add_right ..) (by omega)

/-- One tile of AB into another. -/
theorem abGet_awidAll_ab {s : State} {i : Iss} (dtile saddr : Nat) {fold j : Nat} (hj : j < 64) :
    abGet (awidAll i dtile 0 saddr 1 fold s) (sidCore i.sid) (offset s i 1 dtile) j
      = awidP (abGet s (sidCore i.sid) (offset s i 1 dtile) j) (abGet s (sidCore i.sid) (offset s i 1 saddr) j) := by
  simp only [awidAll, awidOne, List.range_one, List.foldl_cons, List.foldl_nil, if_true, Nat.add_zero, ite_self]
  rw [abGet_abAdd _ _ _ _ hj, abTile, nth_map_range _ _ hj]

theorem awidCreds_one {s : State} {i : Iss} {saddr : Nat} : awidCreds s i saddr 1 =
    if rxCred s i.sid (offset s i 4 saddr) = 0 then [] else [credCtr s i.sid (rxCred s i.sid (offset s i 4 saddr))] := by
  simp only [awidCreds, List.range_one, List.filterMap_cons, List.filterMap_nil, Nat.add_zero]
  generalize rxCred s i.sid (offset s i 4 saddr) = c
  cases c <;> rfl

/-- One receive slot is ready when its routes name no credit, or the credit has arrived. -/
theorem awidReady_rx_one {s : State} {i : Iss} {saddr : Nat} (h : rxCred s i.sid (offset s i 4 saddr) = 0 ∨
      1 ≤ tget 0 (seqOf s i.sid).cred (credCtr s i.sid (rxCred s i.sid (offset s i 4 saddr)))) : awidReady s i 1 saddr 1 = true := by
  rw [awidReady, awidCreds_one]
  split
  · simp
  · simpa using Or.inr (h.resolve_left ‹_›)

/-- A receive slot gives up its arrival credit. -/
def takeRxCred (s : State) (sid slot : Nat) : State :=
  if rxCred s sid slot = 0 then s else modSeq sid (fun q => { q with cred := tmod 0 q.cred (credCtr s sid (rxCred s sid slot)) (· - 1) }) s

theorem takeRxCred_core (s : State) (sid slot : Nat) : (takeRxCred s sid slot).core = s.core := by
  unfold takeRxCred; split <;> rfl

theorem cred_takeRxCred {s : State} {sid slot : Nat} (h : rxCred s sid slot ≠ 0) (c : Nat) :
    tget 0 (seqOf (takeRxCred s sid slot) sid).cred c = tget 0 (seqOf s sid).cred c - if c = credCtr s sid (rxCred s sid slot) then 1 else 0 := by
  rw [takeRxCred, if_neg h, seqOf_modSeq_same, tmod, tget_tput]
  split <;> simp [*]

theorem awidOne_rx (sid src dst : Nat) (s : State) : awidOne sid 1 src dst s =
    if s.core.rxKill.contains (coreIx (sidCore sid) * 256 + src) then
      { takeRxCred s sid src with core := { (takeRxCred s sid src).core with
          rxKill := (takeRxCred s sid src).core.rxKill.filter (· != coreIx (sidCore sid) * 256 + src) } }
    else abAdd (sidCore sid) dst (rxTile s (sidCore sid) src) (takeRxCred s sid src) := by
  rw [awidOne, if_neg (by decide)]
  rfl

theorem seqOf_awidOne_rx (sid src dst : Nat) (s : State) (k : Nat) : seqOf (awidOne sid 1 src dst s) k = seqOf (takeRxCred s sid src) k := by
  rw [awidOne_rx]; split <;> rfl

theorem abGet_awidOne_rx (sid src dst : Nat) (s : State) {j : Nat} (hj : j < 64) : abGet (awidOne sid 1 src dst s) (sidCore sid) dst j =
    if s.core.rxKill.contains (coreIx (sidCore sid) * 256 + src) then abGet s (sidCore sid) dst j
    else awidP (abGet s (sidCore sid) dst j) (rdPair s.core.rx (rxBase (sidCore sid) + src * 512 + 8 * j)) := by
  have hab : abGet (takeRxCred s sid src) (sidCore sid) dst j = abGet s (sidCore sid) dst j := by rw [abGet, takeRxCred_core, abGet]
  rw [awidOne_rx]
  split
  · exact hab
  · rw [abGet_abAdd _ _ _ _ hj, hab, rxTile, nth_map_range _ _ hj]

theorem awidAll_rx_one {s : State} {i : Iss} (dtile saddr fold : Nat) :
    awidAll i dtile 1 saddr 1 fold s = awidOne i.sid 1 (offset s i 4 saddr) (offset s i 1 dtile) s := by
  simp [awidAll]

/-! ## The obligation -/

theorem exec_aclr_of_now {s : State} {i : Iss} {tile count : Nat} (h : coreRunsNow s (.aclr i tile count) i false) (ht : tile + count ≤ 1024) :
    exec (.aclr i tile count) s = .next { s with core := { s.core with
      ab := zeroRange s.core.ab (abAddr (sidCore i.sid) (offset s i 1 tile) 0) (count * 512) } } := by
  refine (coreOp_enqueueOp_begins h (fun _ => true) (aclrAct i tile count) (by simpa using ht) rfl).trans ?_
  rw [aclrAct, alive_of_coreRuns _ (coreRuns_of_now h)]

theorem exec_acn_of_coreRuns {s : State} {i : Iss} {ntrm : Nat} (h : coreRuns s i false) (hn : ntrm < 256) :
    exec (.acn i ntrm) s = .next { s with core := { s.core with acn := tput 0 s.core.acn (sidCore i.sid) ntrm } } := by
  refine (coreOp_of_coreRuns (.acn i ntrm) (acnAct i ntrm) h (by simpa using hn)).trans ?_
  rw [acnAct, alive_of_coreRuns _ h]

/-- Settles O13: ACLR zeroes its range of the banks, APRO folds its runs into the tile once its binding and registers are there, and AWID is a fold of
sums of tiles, of which a receive slot's takes its credit. -/
theorem accumulatorRows : Obligations.AccumulatorRows := by
  unfold Obligations.AccumulatorRows
  refine ⟨fun i s => ⟨fun tile count ht h => ?_, fun ntrm hn h => ?_⟩, ?_, ?_⟩
  · exact ⟨_, exec_aclr_of_now h ht, rfl, fun a => rdByte_zeroRange ..⟩
  · exact ⟨_, exec_acn_of_coreRuns h hn, rfl, fun c => tget_tput ..⟩
  · intro i eng ntr tile vp s hsid hrun he hn ht hv hok
    have hnow : coreRunsNow s (.apro i eng ntr tile vp) i (vp != 0) := ⟨hsid, hrun⟩
    refine ⟨exec_apro_of_not_ready hnow he hn ht hv, fun b hb hreg => ?_⟩
    have hrdy : aproReady s i eng ntr vp = true := by simpa [aproReady, hb] using Or.inr hreg
    have hcore := aproAll_core i eng ntr tile vp s
    refine ⟨_, exec_apro_of_ready hnow he hn ht hv hok hrdy, ?_, co_aproAll i eng ntr tile vp s (by decide) (co_refl _ s), ?_, ?_, ?_⟩
    · rw [hcore]; exact tget_tput_same ..
    · rw [hcore]
    · rw [hcore]
    · rintro rfl j hj e tl tin hmark hrep
      exact abGet_aproAll hb hj hmark hrep
  · intro i dtile srcsp saddr tcnt fold s hsid hrun hd h1 h16 hf
    have hnow : coreRunsNow s (.awid i dtile srcsp saddr tcnt fold) i false := ⟨hsid, hrun⟩
    refine ⟨?_, ?_, ?_⟩
    · rintro rfl ha
      refine ⟨_, exec_awid_of_ready hnow hd (by decide) ha h1 h16 hf (by simp [awidReady]), abOnly_awidAll dtile saddr tcnt, ?_⟩
      rintro rfl j hj
      exact abGet_awidAll_ab dtile saddr hj
    · rintro rfl ha hrdy
      exact exec_awid_of_not_ready hnow hd (by decide) ha h1 h16 hf hrdy
    · rintro rfl ha rfl hcred
      refine ⟨_, exec_awid_of_ready hnow hd (by decide) ha h1 h16 hf (awidReady_rx_one hcred), fun hne c => ?_, fun j hj => ?_⟩
      · rw [awidAll_rx_one, seqOf_awidOne_rx, cred_takeRxCred hne]
      · rw [awidAll_rx_one, abGet_awidOne_rx _ _ _ _ hj]

end Sys2Proof.Machine
end

section
/-! The reductions (R140, R141, R202, R204). -/

namespace Sys2Proof.Machine

/-! ## Where a reduction's result lies -/

theorem redGet_redPut (core dst dsr : Nat) (p : Pair) (s : State) : redGet (redPut core dst dsr p s) core dst dsr = p := by
  unfold redGet redPut
  split
  · exact tget_tput_same ..
  · exact rdPair_wrPair ..

theorem redPut_sr (core dst : Nat) (p : Pair) (s : State) :
    redPut core dst 1 p s = { s with core := { s.core with sr := tput Pair.zero s.core.sr (coreIx core * 8 + dst % 8) p } } := rfl

theorem redPut_ab {dsr : Nat} (h : dsr ≠ 1) (core dst : Nat) (p : Pair) (s : State) :
    redPut core dst dsr p s = { s with core := { s.core with ab := wrPair s.core.ab (abAddr core dst 0) p } } := if_neg h

/-- A reduction puts the fold over its own elements and the recorded cores in its place. -/
theorem reduce_eq (i : Iss) (f : RedF) (loc : List (Pair × Nat) → Pair) (comb : Pair → Pair → Pair) (s : State) :
    reduce i f loc comb s = redPut (sidCore i.sid) (redDst s i f) f.dsr
      (((redCores s i f).map fun c => redGet s c (redDst s i f) f.dsr).foldl comb
        (loc (redElems s (sidCore i.sid) (offset s i 1 f.src) f.nt f.idxb))) s := by
  unfold reduce redCores redDst
  rw [List.map_map]
  rfl

theorem redDone_reduce (i : Iss) (f : RedF) (loc : List (Pair × Nat) → Pair) (comb : Pair → Pair → Pair) (s : State) :
    redDone s (reduce i f loc comb s) i f loc comb := by
  rw [reduce_eq]
  refine ⟨redGet_redPut .., fun h => ?_, fun h => ?_⟩
  · have hdst : redDst s i f = f.dst := if_pos h
    rw [h, hdst, redPut_sr]
    exact ⟨rfl, fun k hk => tget_tput_ne _ _ _ _ _ hk⟩
  · rw [redPut_ab h]
    exact ⟨rfl, fun a ha => rdByte_wrPair_out _ _ _ _ ha⟩

/-- A reduction that its core takes at once is done (R189, R202). -/
theorem redRun_done {s : State} {i : Iss} {f : RedF} (c : Instr) {ok : Bool} (h : coreRunsNow s c i false) (hok : ok = true)
    (loc : List (Pair × Nat) → Pair) (comb : Pair → Pair → Pair) :
    ∃ t, coreOp c i ok (redRun c i (alive i false (reduce i f loc comb))) s = .next t ∧ redDone s t i f loc comb := by
  refine ⟨_, coreOp_enqueueOp_begins h _ _ hok rfl, ?_⟩
  rw [alive_of_coreRuns _ (coreRuns_of_now h)]
  exact redDone_reduce ..

/-- Settles O14: every mnemonic is the one reduction with its own fold within a core and across cores. -/
theorem reductionResults : Obligations.ReductionResults := by
  unfold Obligations.ReductionResults
  intro i f s hsid hok
  refine ⟨fun sq hsq hrun => ?_, fun hrun => ?_⟩
  · exact redRun_done (.rsum i f sq) ⟨hsid, hrun⟩ (by simp [hok, hsq]) _ _
  · have hnow : coreRunsNow s (.rmax i f) i false := ⟨hsid, hrun⟩
    exact ⟨redRun_done (.rmax i f) hnow hok _ _, redRun_done (.rmin i f) hnow hok _ _, redRun_done (.rarg i f) hnow hok _ _,
      redRun_done (.rand i f) hnow hok _ _, redRun_done (.ror i f) hnow hok _ _, redRun_done (.rxor i f) hnow hok _ _,
      redRun_done (.rcnt i f) hnow hok _ _⟩

end Sys2Proof.Machine
end

section
/-! The element instructions (R192, R205, R207) and the conversion to B4 (R121 to R125, R145, R167). -/

namespace Sys2Proof.Machine

/-! ## Halves of a byte memory -/

theorem rdHalf_congr {m m' : Mem} {a : Nat} (h : ∀ j, a ≤ j → j < a + 2 → rdByte m j = rdByte m' j) : rdHalf m a = rdHalf m' a := by
  unfold rdHalf; rw [rdBytes_congr _ _ _ _ h]

theorem rdHalf_wrHalf_out (m : Mem) (a b : Nat) (w : Half) (h : b + 2 ≤ a ∨ a + 2 ≤ b) : rdHalf (wrHalf m a w) b = rdHalf m b :=
  rdHalf_congr fun _ h1 h2 => rdByte_wrHalf_out _ _ _ _ (by omega)

/-! ## A vector in OB -/

/-- Results written in FP32 read back. -/
theorem rdWord_foldl_obPut (core d : Nat) (vals : List Word) (m : Mem) {k : Nat} (hk : k < vals.length) :
    rdWord ((vals.zipIdx).foldl (fun m v => obPut m core d 1 v.2 v.1) m) (obBase core + d * 128 + 4 * k) = vals[k] := by
  have h := read_foldl_zipIdx (fun m (v : Word × Nat) => obPut m core d 1 v.2 v.1) (fun m k => rdWord m (obBase core + d * 128 + 4 * k)) id
    (fun m v k => rdWord_wrWord ..) (fun m v k j hne => rdWord_wrWord_out _ _ _ _ (by omega)) vals 0 k hk m
  simpa using h

/-- Results written in BF16 read back rounded. -/
theorem rdHalf_foldl_obPut (core d : Nat) (vals : List Word) (m : Mem) {ty k : Nat} (hty : ty ≠ 1) (hk : k < vals.length) :
    rdHalf ((vals.zipIdx).foldl (fun m v => obPut m core d ty v.2 v.1) m) (obBase core + d * 128 + 2 * k) = f32ToBf16 vals[k] := by
  have hput : ∀ m v k, obPut m core d ty k v = wrHalf m (obBase core + d * 128 + 2 * k) (f32ToBf16 v) := fun _ _ _ => if_neg hty
  have h := read_foldl_zipIdx (fun m (v : Word × Nat) => obPut m core d ty v.2 v.1) (fun m k => rdHalf m (obBase core + d * 128 + 2 * k)) f32ToBf16
    (fun m v k => by simp [hput]) (fun m v k j hne => by rw [hput]; exact rdHalf_wrHalf_out _ _ _ _ (by omega)) vals 0 k hk m
  simpa using h

/-- Bytes outside the vector stay as they were. -/
theorem rdByte_foldl_obPut_out (core d ty a : Nat) (vals : List Word) (m : Mem)
    (h : a < obBase core + d * 128 ∨ obBase core + d * 128 + vals.length * (if ty = 1 then 4 else 2) ≤ a) :
    rdByte ((vals.zipIdx).foldl (fun m v => obPut m core d ty v.2 v.1) m) a = rdByte m a := by
  refine rdByte_foldl _ a _ (fun m x hx => ?_) m
  have hlt : x.2 < vals.length := by simpa using List.snd_lt_of_mem_zipIdx hx
  unfold obPut
  split_ifs at h ⊢
  · exact rdByte_wrWord_out _ _ _ _ (by omega)
  · exact rdByte_wrHalf_out _ _ _ _ (by omega)

/-- An elementwise function of the old operands is done. -/
theorem elDone_elMap (s : State) (i : Iss) (f : ElF) (g : Nat → Word → Word) : elDone s (elMap i f g s) i f fun k => g k (elArg s i f f.src k) := by
  have hlen : ((List.range (elCount f)).map fun k => g k (elArg s i f f.src k)).length = elCount f := by simp
  refine ⟨fun k hk => ?_, rfl, fun a ha => rdByte_foldl_obPut_out _ _ _ _ _ _ ?_⟩
  · split
    case isTrue hty =>
      have h := rdWord_foldl_obPut (sidCore i.sid) (offset s i 0 f.dst) ((List.range (elCount f)).map fun k => g k (elArg s i f f.src k)) s.core.ob
        (k := k) (by simpa using hk)
      simp only [List.getElem_map, List.getElem_range, ← hty] at h
      exact h
    case isFalse hty =>
      have h := rdHalf_foldl_obPut (sidCore i.sid) (offset s i 0 f.dst) ((List.range (elCount f)).map fun k => g k (elArg s i f f.src k)) s.core.ob
        hty (k := k) (by simpa using hk)
      simp only [List.getElem_map, List.getElem_range] at h
      exact h
  · simpa [elBase, elBytes, hlen] using ha

/-- An element instruction that its core takes at once maps its function over its vector (R189, R219). -/
theorem elRun_done {s : State} {i : Iss} {f : ElF} {reads : Bool} (c : Instr) (hc : opClass c = 2) {ok : Bool} (h : glazeRuns s i reads) (hok : ok = true)
    (g : State → Nat → Word → Word) :
    ∃ t, coreOp c i ok (elRun c i (alive i reads fun t => elMap i f (g t) t)) s = .next t ∧ elDone s t i f fun k => g s k (elArg s i f f.src k) := by
  obtain ⟨hsid, hrun, hops⟩ := h
  have hnow : coreRunsNow s c i reads := ⟨hsid, runsNow_iff.mpr ⟨hrun, by rw [hc]; exact hops⟩⟩
  refine ⟨_, coreOp_enqueueOp_begins hnow _ _ hok rfl, ?_⟩
  rw [alive_of_runsAt _ hrun]
  exact elDone_elMap s i f (g s)

/-- Settles O16: each mnemonic maps its function of the old operands over its vector. -/
theorem elementResults : Obligations.ElementResults := by
  unfold Obligations.ElementResults
  intro i f s hok
  refine ⟨fun h => ⟨fun sr lix hsr hlix => ?_, ?_, ?_, ?_, ?_, fun srcb hsrcb => ⟨?_, ?_⟩⟩, fun h fid pair hfid hpair => ?_⟩
  · exact elRun_done (.enorm i f sr lix) rfl h (by simp [*]) _
  · exact elRun_done (.eact i f 0) rfl h (by simp [*]) _
  · exact elRun_done (.eact i f 1) rfl h (by simp [*]) _
  · exact elRun_done (.eact i f 2) rfl h (by simp [*]) _
  · exact elRun_done (.eact i f 3) rfl h (by simp [*]) _
  · exact elRun_done (.emul i f srcb) rfl h (by simp [*]) _
  · exact elRun_done (.eadd i f srcb) rfl h (by simp [*]) _
  · exact elRun_done (.erot i f fid pair) rfl h (by simp [*]) _

end Sys2Proof.Machine
end

section
/-! The conversion to B4 (R121 to R125, R145, R167): where its blocks and their provenance stand. -/

namespace Sys2Proof.Machine

/-! ## What a fold over a range leaves in each place -/

/-- Places that no step of a fold writes stay as they were. -/
theorem read_foldl_of_not_written {σ β ρ : Type} (put : σ → β → σ) (rd : σ → ρ) (l : List β) (h : ∀ m, ∀ x ∈ l, rd (put m x) = rd m) (m : σ) :
    rd (l.foldl put m) = rd m := by
  induction l generalizing m with
  | nil => rfl
  | cons x xs ih => rw [List.foldl_cons, ih (fun m y hy => h m y (List.mem_cons_of_mem _ hy)), h m x (List.mem_cons_self ..)]

/-- Each place that one step of a fold over a range writes holds what that step wrote. -/
theorem read_foldl_range {σ ρ : Type} (put : σ → Nat → σ) (rd : σ → Nat → ρ) (v : Nat → ρ) (hsame : ∀ m k, rd (put m k) k = v k)
    (hother : ∀ m k j, j ≠ k → rd (put m k) j = rd m j) {n j : Nat} (hj : j < n) (m : σ) : rd ((List.range n).foldl put m) j = v j := by
  induction n with
  | zero => omega
  | succ n ih =>
    rw [List.range_succ, List.foldl_concat]
    by_cases h : j = n
    · rw [h, hsame]
    · rw [hother _ _ _ h, ih (by omega)]

/-! ## The blocks of a conversion -/

theorem length_blockBytes (x : List Int) (e : Nat) : (blockBytes x e).length = 33 := by simp [blockBytes]

/-- A conversion writes 33 bytes for each digit of its target. -/
theorem length_outBlocks (tfmt e : Nat) (v : List Fv) : ((outBlocks tfmt e v).1.flatten).length = 33 * (if tfmt = 3 then 2 else 1) := by
  by_cases h : tfmt = 3 <;> simp [outBlocks, h, length_blockBytes]

/-- The exponent and the bytes of block `b` of an ECVT. -/
def ecvtExp (s : State) (i : Iss) (f : EcvtF) (b : Nat) : Nat :=
  modeExp ((List.range (len256 f.nblk)).map (ecvtSrc s i f)) (qOf f.tfmt) f.mode (lixOf s i.sid f.lix).group (lixOf s i.sid f.lix).pred b

def ecvtBytes (s : State) (i : Iss) (f : EcvtF) (b : Nat) : List Byte := (outBlocks f.tfmt (ecvtExp s i f b) (ecvtSrc s i f b)).1.flatten

theorem length_ecvtBytes (s : State) (i : Iss) (f : EcvtF) (b : Nat) : (ecvtBytes s i f b).length = 33 * ecvtDigits f := length_outBlocks ..

/-- The first byte that an ECVT writes, and that of its block `b`. -/
def ecvtFirst (s : State) (i : Iss) (f : EcvtF) : Nat := ibBase (sidCore i.sid) + 33 * offset s i 3 f.dst

def ecvtAddr (s : State) (i : Iss) (f : EcvtF) (b : Nat) : Nat := ecvtFirst s i f + 33 * ecvtDigits f * b

/-- The provenance of block `b`. -/
def ecvtProv (s : State) (i : Iss) (f : EcvtF) (b : Nat) : Nat × Nat × Nat × Nat :=
  (ckptAddr s i.sid f.lix (curLaneNo s i) + 1, ecvtKey s i f, inputIx (lixOf s i.sid f.lix) b, b)

/-- What one block of an ECVT does. -/
def ecvtPut (s : State) (i : Iss) (f : EcvtF) (t : State) (b : Nat) : State :=
  { t with
    core := { t.core with
      ib := wrBytes t.core.ib (ecvtAddr s i f b) (ecvtBytes s i f b)
      prov := (List.range (ecvtDigits f)).foldl (fun p k =>
        tput (0, 0, 0, 0) p (coreIx (sidCore i.sid) * 8192 + offset s i 3 f.dst + ecvtDigits f * b + k) (ecvtProv s i f b)) t.core.prov }
    glz := { t.glz with rep := t.glz.rep ++
      (reports (srcBlock s (sidCore i.sid) (offset s i 0 f.src + b) f.sfmt [] 0) (outBlocks f.tfmt (ecvtExp s i f b) (ecvtSrc s i f b)).2 f.mode
        (inputIx (lixOf s i.sid f.lix) b)).map fun x => (i.seg, ecvtKey s i f * 1048576 + x) } }

theorem ecvtAll_eq (s : State) (i : Iss) (f : EcvtF) : ecvtAll i f s = (List.range (len256 f.nblk)).foldl (ecvtPut s i f) s := by
  unfold ecvtAll
  refine List.foldl_ext _ _ _ fun t b hb => ?_
  have hsrc : nth [] ((List.range (len256 f.nblk)).map (ecvtSrc s i f)) b = ecvtSrc s i f b := nth_map_range _ _ (List.mem_range.mp hb)
  have haddr : ecvtAddr s i f b = ibBase (sidCore i.sid) + 33 * (offset s i 3 f.dst + ecvtDigits f * b) := by
    unfold ecvtAddr ecvtFirst; ring
  rw [ecvtPut, ecvtBytes, ← hsrc, haddr]
  rfl

theorem ecvtAll_frame (s : State) (i : Iss) (f : EcvtF) : ecvtAll i f s = { s with
    core := { s.core with ib := (ecvtAll i f s).core.ib, prov := (ecvtAll i f s).core.prov }
    glz := { s.glz with rep := (ecvtAll i f s).glz.rep } } := by
  rw [ecvtAll_eq]
  generalize List.range (len256 f.nblk) = bs
  suffices h : ∀ t, bs.foldl (ecvtPut s i f) t = { t with
      core := { t.core with ib := (bs.foldl (ecvtPut s i f) t).core.ib, prov := (bs.foldl (ecvtPut s i f) t).core.prov }
      glz := { t.glz with rep := (bs.foldl (ecvtPut s i f) t).glz.rep } } from h s
  induction bs with
  | nil => exact fun t => rfl
  | cons b bs ih => exact fun t => ih (ecvtPut s i f t b)

theorem ecvtAll_ib (s : State) (i : Iss) (f : EcvtF) : (ecvtAll i f s).core.ib =
    (List.range (len256 f.nblk)).foldl (fun m b => wrBytes m (ecvtAddr s i f b) (ecvtBytes s i f b)) s.core.ib := by
  rw [ecvtAll_eq]
  exact (List.foldl_hom (fun t : State => t.core.ib) fun _ _ => rfl).symm

theorem ecvtAll_prov (s : State) (i : Iss) (f : EcvtF) : (ecvtAll i f s).core.prov =
    (List.range (len256 f.nblk)).foldl (fun m b => (List.range (ecvtDigits f)).foldl (fun p k =>
      tput (0, 0, 0, 0) p (coreIx (sidCore i.sid) * 8192 + offset s i 3 f.dst + ecvtDigits f * b + k) (ecvtProv s i f b)) m) s.core.prov := by
  rw [ecvtAll_eq]
  exact (List.foldl_hom (fun t : State => t.core.prov) fun _ _ => rfl).symm

/-- Blocks do not overlap. -/
theorem block_disjoint {d b b' k k' : Nat} (hb : b ≠ b') (hk : k < d) (hk' : k' < d) : d * b + k ≠ d * b' + k' := by
  intro h
  have h1 : (d * b + k) / d = b := by rw [Nat.mul_add_div (by omega), Nat.div_eq_of_lt hk, Nat.add_zero]
  have h2 : (d * b' + k') / d = b' := by rw [Nat.mul_add_div (by omega), Nat.div_eq_of_lt hk', Nat.add_zero]
  exact hb (by rw [← h1, h, h2])

theorem rdByte_ecvtAll_in {s : State} {i : Iss} {f : EcvtF} {b k : Nat} (hb : b < len256 f.nblk) (hk : k < 33 * ecvtDigits f) :
    rdByte (ecvtAll i f s).core.ib (ecvtAddr s i f b + k) = nth 0 (ecvtBytes s i f b) k := by
  rw [ecvtAll_ib]
  refine read_foldl_range _ (fun m b => rdByte m (ecvtAddr s i f b + k)) (fun b => nth 0 (ecvtBytes s i f b) k) (fun m b => ?_) (fun m b c hne => ?_) hb _
  · have hlt : k < (ecvtBytes s i f b).length := by rwa [length_ecvtBytes]
    simp only [rdByte_wrBytes_in _ _ _ _ hlt, nth, List.getElem?_eq_getElem hlt, Option.getD_some]
  · refine rdByte_wrBytes_out _ _ _ _ ?_
    rw [length_ecvtBytes]
    by_contra hin
    have hlt : ecvtAddr s i f c + k - ecvtAddr s i f b < 33 * ecvtDigits f := by omega
    exact block_disjoint hne hk hlt (by unfold ecvtAddr at *; omega)

theorem rdByte_ecvtAll_out {s : State} {i : Iss} {f : EcvtF} {a : Nat} (h : a < ecvtFirst s i f ∨ ecvtAddr s i f (len256 f.nblk) ≤ a) :
    rdByte (ecvtAll i f s).core.ib a = rdByte s.core.ib a := by
  rw [ecvtAll_ib]
  refine read_foldl_of_not_written _ (fun m => rdByte m a) _ (fun m b hb => rdByte_wrBytes_out _ _ _ _ ?_) _
  have hle : 33 * ecvtDigits f * (b + 1) ≤ 33 * ecvtDigits f * len256 f.nblk := Nat.mul_le_mul_left _ (List.mem_range.mp hb)
  rw [length_ecvtBytes]
  unfold ecvtAddr at *
  rw [Nat.mul_add] at hle
  omega

theorem provOf_ecvtAll {s : State} {i : Iss} {f : EcvtF} {b k : Nat} (hb : b < len256 f.nblk) (hk : k < ecvtDigits f) :
    provOf (ecvtAll i f s) (sidCore i.sid) (offset s i 3 f.dst + ecvtDigits f * b + k) = ecvtProv s i f b := by
  have hkey : ∀ b, coreIx (sidCore i.sid) * 8192 + (offset s i 3 f.dst + ecvtDigits f * b + k)
      = coreIx (sidCore i.sid) * 8192 + offset s i 3 f.dst + ecvtDigits f * b + k := fun b => by omega
  rw [provOf, hkey, ecvtAll_prov]
  refine read_foldl_range _ (fun m b => tget (0, 0, 0, 0) m (coreIx (sidCore i.sid) * 8192 + offset s i 3 f.dst + ecvtDigits f * b + k)) (ecvtProv s i f)
    (fun m b => ?_) (fun m b c hne => ?_) hb _
  · exact read_foldl_range _ (fun m k => tget (0, 0, 0, 0) m (coreIx (sidCore i.sid) * 8192 + offset s i 3 f.dst + ecvtDigits f * b + k))
      (fun _ => ecvtProv s i f b) (fun _ _ => tget_tput_same ..) (fun _ _ _ hne => tget_tput_ne _ _ _ _ _ (by omega)) hk _
  · refine read_foldl_of_not_written _ (fun m => tget (0, 0, 0, 0) m _) _ (fun m x hx => tget_tput_ne _ _ _ _ _ ?_) _
    have := block_disjoint hne hk (List.mem_range.mp hx)
    omega

/-- Settles O17: block by block, the bytes and provenance that the block's step wrote stand where no other block's step writes. -/
theorem ecvtWritesBlocks : Obligations.EcvtWritesBlocks := by
  unfold Obligations.EcvtWritesBlocks
  intro i f s ⟨hsid, hrun, hops⟩ hsrc hdst hnblk hsfmt htfmt hmode hlix core l n first
  have hnow : coreRunsNow s (.ecvt i f) i false := ⟨hsid, runsNow_iff.mpr ⟨hrun, hops⟩⟩
  have hexec : exec (.ecvt i f) s = .next (ecvtAll i f s) := by
    refine (coreOp_enqueueOp_begins hnow (fun _ => true) (ecvtAct i f) (by simp [*]) rfl).trans ?_
    rw [ecvtAct, alive_of_runsAt _ hrun]
  exact ⟨_, hexec, fun b hb k hk => rdByte_ecvtAll_in hb hk, fun b hb k hk => provOf_ecvtAll hb hk, fun a ha => rdByte_ecvtAll_out ha,
    ecvtAll_frame s i f⟩

end Sys2Proof.Machine
end

section
/-! Tokens as they are sent (R26, R28, R232): the copies that join the network, and what stays as it was. -/

namespace Sys2Proof.Machine

/-! ## One token -/

/-- The copies of a token that the planes carry (R28). -/
def tokenCopies (s : State) (dest : Nat) (tok : Token) : List (Nat × Token) :=
  ([0, 1].filter fun p => planeCarries s p tok.src dest).map fun p => (dest, { tok with plane := p })

/-- A token as a sequencer sends it, with its next sequence number. -/
def newToken (s : State) (src kind arg step att : Nat) : Token :=
  { kind := kind, att := att % 16, step := step % 2 ^ 24, src := src, seq := (seqOf s src).sendSeq % 2 ^ 15, arg := arg, plane := 0 }

theorem sendToken_eq_sendTagged (src kind arg dest : Nat) (s : State) :
    sendToken src kind arg dest s = sendTagged src kind arg (seqOf s src).step (seqOf s src).att dest s := rfl

theorem planeCarries_congr {s t : State} (h : t.seq.planeBad = s.seq.planeBad) (plane src dest : Nat) :
    planeCarries t plane src dest = planeCarries s plane src dest := by
  simp only [planeCarries, h]

theorem planeCarries_of_planesUp {s : State} (h : planesUp s) (plane src dest : Nat) : planeCarries s plane src dest = true := by
  have hbad : s.seq.planeBad = [] := h
  simp [planeCarries, hbad]

theorem sent_sendTagged (src kind arg step att dest : Nat) (s : State) :
    (sendTagged src kind arg step att dest s).seq.sent = s.seq.sent ++ tokenCopies s dest (newToken s src kind arg step att) := rfl

@[simp] theorem planeBad_sendTagged (src kind arg step att dest : Nat) (s : State) :
    (sendTagged src kind arg step att dest s).seq.planeBad = s.seq.planeBad := rfl

@[simp] theorem fabric_sendTagged (src kind arg step att dest : Nat) (s : State) : (sendTagged src kind arg step att dest s).seq.fabric = s.seq.fabric := rfl

theorem seqOf_sendTagged (src kind arg step att dest : Nat) (s : State) (k : Nat) : seqOf (sendTagged src kind arg step att dest s) k =
    if k = src then { seqOf s k with sendSeq := ((seqOf s k).sendSeq + 1) % 2 ^ 15 } else seqOf s k := by
  exact seqOf_modSeq src k (fun e => { e with sendSeq := (e.sendSeq + 1) % 2 ^ 15 }) s

theorem seqOf_sendTagged_ne {src k : Nat} (h : k ≠ src) (kind arg step att dest : Nat) (s : State) :
    seqOf (sendTagged src kind arg step att dest s) k = seqOf s k := by
  rw [seqOf_sendTagged, if_neg h]

theorem mem_tokenCopies {s : State} {dest : Nat} {tok : Token} {x : Nat × Token} :
    x ∈ tokenCopies s dest tok ↔ ∃ p, p < 2 ∧ planeCarries s p tok.src dest = true ∧ x = (dest, { tok with plane := p }) := by
  simp only [tokenCopies, List.mem_map, List.mem_filter, List.mem_cons, List.not_mem_nil, or_false]
  constructor
  · rintro ⟨p, ⟨hp, hc⟩, rfl⟩
    exact ⟨p, by omega, hc, rfl⟩
  · rintro ⟨p, hp, hc, rfl⟩
    exact ⟨p, ⟨by omega, hc⟩, rfl⟩

theorem length_tokenCopies_of_planesUp {s : State} (h : planesUp s) (dest : Nat) (tok : Token) : (tokenCopies s dest tok).length = 2 := by
  simp [tokenCopies, planeCarries_of_planesUp h]

/-! ## A token to each of some destinations -/

/-- Tokens with one tag went to some destinations, one on each plane that carries it. -/
def sentAll (s t : State) (src kind arg step att : Nat) (dests : List Nat) : Prop :=
  ∃ xs, t.seq.sent = s.seq.sent ++ xs ∧ (planesUp s → xs.length = 2 * dests.length) ∧
    (∀ x ∈ xs, x.1 ∈ dests ∧ x.2.kind = kind ∧ x.2.arg = arg ∧ x.2.src = src ∧ x.2.step = step % 2 ^ 24 ∧ x.2.att = att % 16) ∧
    ∀ d ∈ dests, ∀ pl, pl < 2 → planeCarries s pl src d = true → ∃ x ∈ xs, x.1 = d ∧ x.2.plane = pl

theorem sentAll_sendTagged (src kind arg step att : Nat) (dests : List Nat) (s : State) :
    sentAll s (dests.foldl (fun t d => sendTagged src kind arg step att d t) s) src kind arg step att dests := by
  induction dests generalizing s with
  | nil => exact ⟨[], by simp⟩
  | cons d ds ih =>
    obtain ⟨xs, hsent, hlen, hfields, hcarried⟩ := ih (sendTagged src kind arg step att d s)
    refine ⟨tokenCopies s d (newToken s src kind arg step att) ++ xs, ?_, fun hup => ?_, fun x hx => ?_, fun e he pl hpl hc => ?_⟩
    · rw [List.foldl_cons, hsent, sent_sendTagged, List.append_assoc]
    · rw [List.length_append, length_tokenCopies_of_planesUp hup, hlen hup, List.length_cons]
      omega
    · rcases List.mem_append.mp hx with hx | hx
      · obtain ⟨p, -, -, rfl⟩ := mem_tokenCopies.mp hx
        exact ⟨List.mem_cons_self .., rfl, rfl, rfl, rfl, rfl⟩
      · obtain ⟨hd, hrest⟩ := hfields x hx
        exact ⟨List.mem_cons_of_mem _ hd, hrest⟩
    · rcases List.mem_cons.mp he with rfl | he
      · exact ⟨_, List.mem_append_left _ (mem_tokenCopies.mpr ⟨pl, hpl, hc, rfl⟩), rfl, rfl⟩
      · obtain ⟨x, hx, hxd⟩ := hcarried e he pl hpl (by rwa [planeCarries_congr (planeBad_sendTagged ..)])
        exact ⟨x, List.mem_append_right _ hx, hxd⟩

/-- A sequencer's step tag stays as it sends, so that each of its tokens carries the same. -/
theorem foldl_sendToken_eq (src kind arg : Nat) (dests : List Nat) (s : State) : dests.foldl (fun t d => sendToken src kind arg d t) s =
    dests.foldl (fun t d => sendTagged src kind arg (seqOf s src).step (seqOf s src).att d t) s := by
  induction dests generalizing s with
  | nil => rfl
  | cons d ds ih =>
    rw [List.foldl_cons, ih, List.foldl_cons, sendToken_eq_sendTagged, seqOf_sendTagged, if_pos rfl]

theorem tokensSent_foldl_sendToken (src kind arg : Nat) (dests : List Nat) (s : State) :
    tokensSent s (dests.foldl (fun t d => sendToken src kind arg d t) s) src kind arg dests := by
  rw [foldl_sendToken_eq]
  exact sentAll_sendTagged ..

theorem tokensSent_sendToken (src kind arg dest : Nat) (s : State) : tokensSent s (sendToken src kind arg dest s) src kind arg [dest] :=
  tokensSent_foldl_sendToken src kind arg [dest] s

/-- What went out after an update that leaves the network and the sender's tag alone. -/
theorem tokensSent_of_eq {s u t : State} {src kind arg : Nat} {dests : List Nat} (hsent : u.seq.sent = s.seq.sent)
    (hbad : u.seq.planeBad = s.seq.planeBad) (hstep : (seqOf u src).step = (seqOf s src).step) (hatt : (seqOf u src).att = (seqOf s src).att)
    (h : tokensSent u t src kind arg dests) : tokensSent s t src kind arg dests := by
  obtain ⟨xs, h1, h2, h3, h4⟩ := h
  refine ⟨xs, by rw [h1, hsent], fun hup => h2 (hbad.trans hup), fun x hx => ?_, fun d hd pl hpl hc => h4 d hd pl hpl (by rwa [planeCarries_congr hbad])⟩
  rw [← hstep, ← hatt]
  exact h3 x hx

/-- The other sequencers stay as they were when one sends. -/
theorem otherSeqs_sendToken (src kind arg dest : Nat) (s : State) : otherSeqs s (sendToken src kind arg dest s) src :=
  fun _ h => seqOf_sendTagged_ne h ..

theorem otherSeqs_refl (s : State) (sid : Nat) : otherSeqs s s sid := fun _ _ => rfl

theorem otherSeqs_trans {s t u : State} {sid : Nat} (h : otherSeqs s t sid) (k : otherSeqs t u sid) : otherSeqs s u sid :=
  fun r hr => (k r hr).trans (h r hr)

theorem otherSeqs_modSeq (sid : Nat) (f : Seq → Seq) (s : State) : otherSeqs s (modSeq sid f s) sid := fun _ h => seqOf_modSeq_ne _ _ _ _ h

theorem otherSeqs_foldl {β : Type} {sid : Nat} (g : State → β → State) (hg : ∀ t x, otherSeqs t (g t x) sid) (l : List β) (s : State) :
    otherSeqs s (l.foldl g s) sid := by
  induction l generalizing s with
  | nil => exact otherSeqs_refl s sid
  | cons x xs ih => exact otherSeqs_trans (hg s x) (ih _)

/-! ## SEQ_FAULT -/

/-- A failed check stops its sequencer, also past the token that says so. -/
theorem phase_seqFault (sid cause : Nat) (s : State) : (seqOf (seqFault sid cause s) sid).phase = 2 := by
  rw [seqFault, sendToken_eq_sendTagged, seqOf_sendTagged, if_pos rfl, seqOf_modSeq_same]

theorem sent_seqFault (sid cause : Nat) (s : State) : ∃ tok : Token, tok.kind = 11 ∧ tok.arg = cause ∧ tok.src = sid ∧
    (seqFault sid cause s).seq.sent = s.seq.sent ++ tokenCopies s schedSid tok :=
  ⟨newToken (modSeq sid (fun q => { q with phase := 2 }) s) sid 11 cause _ _, rfl, rfl, rfl, rfl⟩

/-- With its planes up the network carries the fault's token. -/
theorem sentTo_seqFault {s : State} (h : planesUp s) (sid cause : Nat) :
    ∃ tok : Token, (schedSid, tok) ∈ (seqFault sid cause s).seq.sent ∧ tok.kind = 11 ∧ tok.arg = cause ∧ tok.src = sid := by
  obtain ⟨tok, hkind, harg, hsrc, hsent⟩ := sent_seqFault sid cause s
  refine ⟨{ tok with plane := 0 }, ?_, hkind, harg, hsrc⟩
  rw [hsent]
  exact List.mem_append_right _ (mem_tokenCopies.mpr ⟨0, by decide, planeCarries_of_planesUp h .., rfl⟩)

theorem otherSeqs_seqFault (sid cause : Nat) (s : State) : otherSeqs s (seqFault sid cause s) sid :=
  otherSeqs_trans (otherSeqs_modSeq sid _ s) (otherSeqs_sendToken sid 11 cause schedSid _)

end Sys2Proof.Machine
end

section
/-! GTNT of a lane whose tint is not resident while no plane of the token network reaches the scheduler core (R28, R218). -/

namespace Sys2Proof.Machine

/-- A lane bound to a tint. -/
def tintLane : Lane := { (default : Lane) with tbound := true }

/-- Core 0 in a step with that lane; the partition has no tint, and the hop from die 0 to M0 has failed on both planes. -/
def cutOffCore : State :=
  { State.reset with
    seq := { State.reset.seq with seqs := [(0, { Seq.init with phase := 1, lanes := [0] })], planeBad := [(0, 38), (1, 38)] }
    sch := { State.reset.sch with cur := some { (default : StepRec) with lanes := [tintLane] } } }

def cutOffGtnt : GlzF := { eng := 0, grp := 0, plane := 0, tile := 0, tid := 0, vp := 0, ph := 0, lix := 0 }

def cutOffIss : Iss := { sid := 0, reps := 0, r := 0, seg := 0 }

theorem cutOffCore_takes_gtnt : coreRunsNow cutOffCore (.gtnt cutOffIss cutOffGtnt) cutOffIss true := ⟨by decide, by decide⟩

/-- A GTNT that begins, of a lane whose tint is not resident, is a failed issue-time check. -/
theorem exec_gtnt_of_tintMissing {s : State} {i : Iss} {f : GlzF} {l : Lane} {p : Nat} (h : coreRunsNow s (.gtnt i f) i true) (hok : glzOk f = true)
    (hvp : vpOk s i f.vp = true) (hl : curLane s i = some (l, p)) (hm : tintMissing s l = true) : exec (.gtnt i f) s = .next (seqFaultOpen i.sid s) := by
  refine (coreOp_enqueueOp_begins h (fun _ => true) (gtntAct i f) hok rfl).trans ?_
  rw [gtntAct, alive_of_coreRuns _ (coreRuns_of_now h), checkVp_of_vpOk _ hvp, gtntAll, hl]
  simp [hm]

theorem sent_seqFaultOpen_cutOffCore : (seqFaultOpen 0 cutOffCore).seq.sent = [] := by
  obtain ⟨tok, -, -, hsrc, hsent⟩ := sent_seqFault 0 ((draw cutOffCore).1.toNat % 256) (draw cutOffCore).2
  have hcut : ∀ p, p < 2 → planeCarries cutOffCore p 0 schedSid = false := by decide
  have hnone : tokenCopies cutOffCore schedSid tok = [] := by
    refine List.eq_nil_iff_forall_not_mem.mpr fun x hx => ?_
    obtain ⟨p, hp, hc, -⟩ := mem_tokenCopies.mp hx
    rw [hsrc, hcut p hp] at hc
    exact Bool.false_ne_true hc
  exact hsent.trans hnone

/-- Refutes O15: a GTNT of a lane whose tint is not resident stops its sequencer, but its SEQ_FAULT reaches nobody when both planes of the token network
have failed on the way to the scheduler core; the statement does not ask that the planes are up. -/
theorem not_tileTermRows : ¬ Obligations.TileTermRows := by
  unfold Obligations.TileTermRows
  intro h
  obtain ⟨hcore, hrun⟩ := cutOffCore_takes_gtnt
  have hruns := (runsNow_iff.mp hrun).1
  have hlane : curLane cutOffCore cutOffIss = some (tintLane, 0) := by decide
  have hfault := (h.2 cutOffIss cutOffGtnt cutOffCore tintLane 0 ⟨hcore, hruns, by decide⟩ (by decide) (by decide) (by decide) hlane).1 (by decide)
  obtain ⟨t, hexec, -, -, tok, -, -, hmem⟩ := hfault
  rw [exec_gtnt_of_tintMissing cutOffCore_takes_gtnt (by decide) (by decide) hlane (by decide), Host.Outcome.next.injEq] at hexec
  have hsent : t.seq.sent = [] := hexec ▸ sent_seqFaultOpen_cutOffCore
  rw [hsent] at hmem
  exact List.not_mem_nil hmem

end Sys2Proof.Machine
end

section
/-! The SYNC slot (R210, R211): waits, tokens, credits, flag segments and replay windows. -/

namespace Sys2Proof.Machine

/-! ## Waits -/

/-- A sequencer that waits for tokens takes them, or waits on. -/
theorem seqOf_tryWait_tokens {sid ch n : Nat} {s : State} (h : (seqOf s sid).wait = .tokens ch n) : seqOf (tryWait sid s) sid =
    if n ≤ tget 0 (seqOf s sid).tok ch then { seqOf s sid with wait := .none, tok := tmod 0 (seqOf s sid).tok ch (· - n) } else seqOf s sid := by
  rw [tryWait, h]
  dsimp only
  split
  · exact seqOf_modSeq_same ..
  · rfl

theorem seqOf_tryWait_credits {sid ch n : Nat} {s : State} (h : (seqOf s sid).wait = .credits ch n) : seqOf (tryWait sid s) sid =
    if n ≤ tget 0 (seqOf s sid).cred ch then { seqOf s sid with wait := .none, cred := tmod 0 (seqOf s sid).cred ch (· - n) } else seqOf s sid := by
  rw [tryWait, h]
  dsimp only
  split
  · exact seqOf_modSeq_same ..
  · rfl

theorem otherSeqs_tryWait (sid : Nat) (s : State) : otherSeqs s (tryWait sid s) sid := by
  unfold tryWait
  dsimp only
  split
  · split
    · exact otherSeqs_modSeq _ _ _
    · exact otherSeqs_refl _ _
  · split
    · exact otherSeqs_modSeq _ _ _
    · exact otherSeqs_refl _ _
  · exact otherSeqs_refl _ _

/-! ## TWAIT, CRED, TSEND -/

/-- TWAIT takes its tokens at once, or leaves its sequencer waiting for them. -/
theorem twaitOp_spec (s : State) (sid tch count : Nat) : otherSeqs s (twaitOp sid tch count s) sid ∧
    (∀ c, tget 0 (seqOf (twaitOp sid tch count s) sid).tok c = tget 0 (seqOf s sid).tok c
      - if c = tokCtr s sid tch ∧ count ≤ tget 0 (seqOf s sid).tok c then count else 0) ∧
    (seqOf (twaitOp sid tch count s) sid).wait =
      if count ≤ tget 0 (seqOf s sid).tok (tokCtr s sid tch) then .none else .tokens (tokCtr s sid tch) count := by
  refine ⟨otherSeqs_trans (otherSeqs_modSeq sid _ s) (otherSeqs_tryWait sid _), ?_⟩
  rw [twaitOp, seqOf_tryWait_tokens (ch := tokCtr s sid tch) (n := count) (by rw [seqOf_modSeq_same]), seqOf_modSeq_same]
  dsimp only
  split
  case isTrue hn =>
    refine ⟨fun c => ?_, rfl⟩
    by_cases hc : c = tokCtr s sid tch
    · subst hc
      simp [hn]
    · simp [hc]
  case isFalse hn =>
    refine ⟨fun c => ?_, rfl⟩
    rw [if_neg (by rintro ⟨rfl, h⟩; exact hn h), Nat.sub_zero]

/-- CRED 0 takes its credits at once, or leaves its sequencer waiting for them. -/
theorem credOp_take_spec (s : State) (sid cch n : Nat) : otherSeqs s (credOp sid cch 0 n s) sid ∧
    (∀ c, tget 0 (seqOf (credOp sid cch 0 n s) sid).cred c = tget 0 (seqOf s sid).cred c
      - if c = credCtr s sid cch ∧ n ≤ tget 0 (seqOf s sid).cred c then n else 0) ∧
    (seqOf (credOp sid cch 0 n s) sid).wait =
      if n ≤ tget 0 (seqOf s sid).cred (credCtr s sid cch) then .none else .credits (credCtr s sid cch) n := by
  refine ⟨otherSeqs_trans (otherSeqs_modSeq sid _ s) (otherSeqs_tryWait sid _), ?_⟩
  rw [credOp, if_pos rfl, seqOf_tryWait_credits (ch := credCtr s sid cch) (n := n) (by rw [seqOf_modSeq_same]), seqOf_modSeq_same]
  dsimp only
  split
  case isTrue hn =>
    refine ⟨fun c => ?_, rfl⟩
    by_cases hc : c = credCtr s sid cch
    · subst hc
      simp [hn]
    · simp [hc]
  case isFalse hn =>
    refine ⟨fun c => ?_, rfl⟩
    rw [if_neg (by rintro ⟨rfl, h⟩; exact hn h), Nat.sub_zero]

theorem otherSeqs_sendTokens (src kind arg : Nat) (dests : List Nat) (s : State) :
    otherSeqs s (dests.foldl (fun t d => sendToken src kind arg d t) s) src :=
  otherSeqs_foldl _ (fun t d => otherSeqs_sendToken src kind arg d t) dests s

/-- Settles O19: a wait either finds what it asks for and takes it or stands in its sequencer; the tokens of TSEND and CRED 1 are one send after
another. -/
theorem waitsAndTokens : Obligations.WaitsAndTokens := by
  unfold Obligations.WaitsAndTokens
  intro i s hrun
  refine ⟨anyOp_of_seqRuns (.twait i 0 0) _ hrun rfl, fun tch count h1 h2 h3 h4 => ?_, fun cch n h1 h2 h3 h4 => ⟨?_, ?_⟩, fun tch h1 h2 => ?_⟩
  · have hne : tch ≠ 0 := by omega
    refine ⟨_, (anyOp_of_seqRuns (.twait i tch count) _ hrun (by simp [*])).trans (by rw [twaitAct, if_neg hne]),
      co_twaitOp _ _ _ s (by decide) (co_refl _ s), twaitOp_spec s i.sid tch count⟩
  · exact ⟨_, anyOp_of_seqRuns (.cred i cch 0 n) _ hrun (by simp [*]), co_credOp _ _ _ _ s (by decide) (co_refl _ s), credOp_take_spec s i.sid cch n⟩
  · exact ⟨_, anyOp_of_seqRuns (.cred i cch 1 n) _ hrun (by simp [*]), co_credOp _ _ _ _ s (by decide) (co_refl _ s), otherSeqs_sendTokens _ _ _ _ _,
      tokensSent_foldl_sendToken ..⟩
  · exact ⟨_, anyOp_of_seqRuns (.tsend i tch) _ hrun (by simp [*]), co_tsendOp _ _ s (by decide) (co_refl _ s), otherSeqs_sendTokens _ _ _ _ _,
      tokensSent_foldl_sendToken ..⟩

/-! ## FLOR, STEP, RPLW -/

theorem seqOf_closeSeg (i : Iss) (s : State) : seqOf (closeSeg i s) i.sid = { seqOf s i.sid with
    segs := (seqOf s i.sid).segs ++ [((seqOf s i.sid).flagIx, i.seg, (seqOf s i.sid).chkFlags)], flagIx := (seqOf s i.sid).flagIx + 1,
    chkFlags := 0, curSeg := none } := seqOf_modSeq_same ..

theorem otherSeqs_closeSeg (i : Iss) (s : State) : otherSeqs s (closeSeg i s) i.sid := otherSeqs_modSeq i.sid _ s

/-- STEP on the module whose open flag segment, if any, has been closed. -/
def segClosed (i : Iss) (s : State) : State := if (seqOf s i.sid).curSeg.isSome then closeSeg i s else s

theorem stepOp_eq (i : Iss) (s : State) : stepOp i s = sendToken i.sid 3 0 schedSid (modSeq i.sid (fun q => { q with phase := 3 }) (segClosed i s)) := rfl

theorem seqOf_stepOp (i : Iss) (s : State) : seqOf (stepOp i s) i.sid =
    { seqOf (segClosed i s) i.sid with phase := 3, sendSeq := ((seqOf (segClosed i s) i.sid).sendSeq + 1) % 2 ^ 15 } := by
  rw [stepOp_eq, sendToken_eq_sendTagged, seqOf_sendTagged, if_pos rfl, seqOf_modSeq_same]

theorem otherSeqs_stepOp (i : Iss) (s : State) : otherSeqs s (stepOp i s) i.sid := by
  rw [stepOp_eq]
  refine otherSeqs_trans ?_ (otherSeqs_trans (otherSeqs_modSeq i.sid _ _) (otherSeqs_sendToken i.sid 3 0 schedSid _))
  unfold segClosed
  split
  · exact otherSeqs_closeSeg i s
  · exact otherSeqs_refl s _

theorem tokensSent_stepOp (i : Iss) (s : State) : tokensSent s (stepOp i s) i.sid 3 0 [schedSid] := by
  rw [stepOp_eq]
  refine tokensSent_of_eq ?_ ?_ ?_ ?_ (tokensSent_sendToken ..)
  · simp only [modSeq, segClosed]
    split <;> rfl
  · simp only [modSeq, segClosed]
    split <;> rfl
  · rw [seqOf_modSeq_same, segClosed]
    split
    · rw [seqOf_closeSeg]
    · rfl
  · rw [seqOf_modSeq_same, segClosed]
    split
    · rw [seqOf_closeSeg]
    · rfl

theorem winNo_enterSeg (seg : Nat) (q : Seq) : (enterSeg seg q).winNo = winIndex q seg := by
  unfold enterSeg winIndex
  split <;> rfl

/-- RPLW opens the next window of its segment, or closes it. -/
theorem seqOf_rplwAct (i : Iss) (close : Nat) (s : State) : seqOf (rplwAct i close s) i.sid = { enterSeg i.seg (seqOf s i.sid) with
    window := close == 0, winNo := winIndex (seqOf s i.sid) i.seg + if close = 0 then 1 else 0 } := by
  rw [rplwAct, seqOf_modSeq_same]
  by_cases hc : close = 0
  · simp [hc, winNo_enterSeg]
  · simp only [if_neg hc, ← winNo_enterSeg, beq_eq_false_iff_ne.mpr hc]
    rfl

/-! ## CSUM -/

/-- The tile of an engine's register is there and its tree sums differ (R398). -/
def csumDiffers (s : State) (i : Iss) (ntr e : Nat) : Bool :=
  (tget none s.arr.tileFl (ntrKey (mkEngine (sidCore i.sid) e) ntr)).isSome && tget 0 s.arr.treeErr (ntrKey (mkEngine (sidCore i.sid) e) ntr) != 0

/-- What the comparison of an engine's tile changes: it enters a flag where the tree sums differ. -/
theorem csumEng_spec (i : Iss) (fx ntr : Nat) (s : State) (e : Nat) : (csumEng i fx ntr s e).arr = s.arr ∧ otherSeqs s (csumEng i fx ntr s e) i.sid ∧
    (seqOf (csumEng i fx ntr s e) i.sid).curSeg = (seqOf s i.sid).curSeg ∧
    (seqOf (csumEng i fx ntr s e) i.sid).failed.length = (seqOf s i.sid).failed.length + if csumDiffers s i ntr e then 1 else 0 := by
  unfold csumEng csumDiffers
  dsimp only
  split
  case h_1 f hf =>
    split
    case isTrue hd => simp [hd, otherSeqs_refl]
    case isFalse hd => exact ⟨rfl, otherSeqs_modSeq i.sid _ s, by rw [seqOf_modSeq_same], by rw [seqOf_modSeq_same]; simp [hf, hd]⟩
  case h_2 hf => simp [hf, otherSeqs_refl]

/-- What the comparison of some engines' tiles changes: a flag for each tile whose tree sums differ. -/
theorem csumEngs_spec (i : Iss) (fx ntr : Nat) (es : List Nat) (s : State) : (es.foldl (csumEng i fx ntr) s).arr = s.arr ∧
    otherSeqs s (es.foldl (csumEng i fx ntr) s) i.sid ∧
    (seqOf (es.foldl (csumEng i fx ntr) s) i.sid).curSeg = (seqOf s i.sid).curSeg ∧
    (seqOf (es.foldl (csumEng i fx ntr) s) i.sid).failed.length = (seqOf s i.sid).failed.length + (es.filter (csumDiffers s i ntr)).length := by
  induction es generalizing s with
  | nil => simp [otherSeqs_refl]
  | cons e es ih =>
    obtain ⟨harr, hother, hseg, hlen⟩ := csumEng_spec i fx ntr s e
    obtain ⟨iharr, ihother, ihseg, ihlen⟩ := ih (csumEng i fx ntr s e)
    have hdiff : csumDiffers (csumEng i fx ntr s e) i ntr = csumDiffers s i ntr := by
      funext k
      simp only [csumDiffers, harr]
    refine ⟨iharr.trans harr, otherSeqs_trans hother ihother, ihseg.trans hseg, ?_⟩
    rw [List.foldl_cons, ihlen, hlen, hdiff, List.filter_cons]
    split <;> simp_all <;> omega

/-- The opening of a segment changes neither the queues nor what kills a lane. -/
theorem seqOf_openSeg (i : Iss) (s : State) : seqOf (openSeg i s) i.sid = { seqOf s i.sid with curSeg := some i.seg } := seqOf_modSeq_same ..

theorem lanesOf_openSeg (i : Iss) (s : State) : curLane (openSeg i s) i = curLane s i := by
  simp only [curLane, seqOf_openSeg]
  rfl

theorem laneDead_openSeg (i : Iss) (reads : Bool) (s : State) : laneDead (openSeg i s) i reads = laneDead s i reads := by
  simp only [laneDead, curLaneNo, seqOf_openSeg, lanesOf_openSeg]

theorem csumReady_openSeg (i : Iss) (s : State) (emask ntr : Nat) : csumReady (openSeg i s) i emask ntr = csumReady s i emask ntr := by
  simp only [csumReady, laneDead_openSeg]
  rfl

/-- A CSUM that is ready compares its tiles in the flag segment that it opens. -/
theorem csumRun_of_ready {i : Iss} {emask ntr : Nat} {s : State} (hnow : coreRunsNow s (.csum i emask ntr) i false)
    (hrdy : csumReady s i emask ntr = true) :
    csumRun i emask ntr s = (maskBits emask 16).foldl (csumEng i (seqOf s i.sid).flagIx ntr) (openSeg i s) := by
  obtain ⟨hrun, hops⟩ := runsNow_iff.mp hnow.2
  have hdead : laneDead (openSeg i s) i false = false := (laneDead_openSeg i false s).trans (laneDead_of_runsAt hrun)
  rw [csumRun, alive_of_runsAt _ hrun, enqueueOp_begins _ _ (by rw [seqOf_openSeg]; exact hops) (by rw [csumReady_openSeg, hrdy]), csumAct, alive, hdead]
  rfl

/-- Settles O20: what each of the four changes in its sequencer, by what it does to the sequencer's record. -/
theorem flagSegmentsAndSteps : Obligations.FlagSegmentsAndSteps := by
  unfold Obligations.FlagSegmentsAndSteps
  intro i s
  refine ⟨fun hrun => ⟨?_, ?_⟩, fun hrun close hclose => ?_, fun emask ntr hnow hrdy hmask hntr => ?_⟩
  · refine ⟨_, anyOp_of_seqRuns (.flor i) _ hrun rfl, co_closeSeg i s (by decide) (co_refl _ s), otherSeqs_closeSeg i s, ?_⟩
    rw [seqOf_closeSeg]
    exact ⟨rfl, rfl, rfl, rfl⟩
  · refine ⟨_, anyOp_of_seqRuns (.step i) _ hrun rfl, co_stepOp i s (by decide) (co_refl _ s), otherSeqs_stepOp i s, by rw [seqOf_stepOp], fun hopen => ?_,
      tokensSent_stepOp i s⟩
    rw [seqOf_stepOp, segClosed, if_pos hopen, seqOf_closeSeg]
    exact ⟨rfl, List.length_append⟩
  · exact ⟨_, anyOp_of_seqRuns (.rplw i close) _ hrun (by simpa using hclose), co_rplwAct i close s (by decide) (co_refl _ s), otherSeqs_modSeq i.sid _ s,
      seqOf_rplwAct i close s⟩
  · obtain ⟨-, hother, hseg, hlen⟩ := csumEngs_spec i (seqOf s i.sid).flagIx ntr (maskBits emask 16) (openSeg i s)
    refine ⟨_, coreOp_of_runsAt (.csum i emask ntr) _ hnow.1 (runsNow_iff.mp hnow.2).1 (by simp [*]),
      co_csumRun i emask ntr s (by decide) (co_refl _ s), ?_⟩
    rw [csumRun_of_ready hnow hrdy]
    refine ⟨otherSeqs_trans (otherSeqs_modSeq i.sid _ s) hother, by rw [hseg, seqOf_openSeg], ?_⟩
    rw [hlen, seqOf_openSeg]
    rfl

end Sys2Proof.Machine
end

section
/-! Moves within a core and transfers over the fabric (R24, R25, R209, R242). -/

namespace Sys2Proof.Machine

/-! ## Bytes of a space -/

theorem nth_eq_getElem {α : Type} (d : α) {l : List α} {k : Nat} (h : k < l.length) : nth d l k = l[k] := by
  rw [nth, List.getElem?_eq_getElem h]
  rfl

theorem bytesAt_wrBytes (m : Mem) (a : Nat) (bs : List Byte) : bytesAt m (wrBytes m a bs) a bs :=
  ⟨fun k hk => by rw [rdByte_wrBytes_in m a k bs hk, nth_eq_getElem 0 hk], fun j hj => rdByte_wrBytes_out m a j bs hj⟩

theorem spaceMem_setSpaceMem_same {sp : Nat} (h : sp < 5) (m : Mem) (s : State) : spaceMem (setSpaceMem sp m s) sp = m := by
  simp only [spaceMem, setSpaceMem]
  repeat' split
  all_goals first | rfl | omega

theorem spaceMem_setSpaceMem_ne {sp dsp : Nat} (h : sp < 5) (hd : dsp < 5) (hne : sp ≠ dsp) (m : Mem) (s : State) :
    spaceMem (setSpaceMem dsp m s) sp = spaceMem s sp := by
  simp only [spaceMem, setSpaceMem]
  repeat' split
  all_goals first | rfl | omega

theorem spaceMem_setProv (core a : Nat) (ps : List (Nat × Nat × Nat × Nat)) (s : State) (sp : Nat) : spaceMem (setProv core a ps s) sp = spaceMem s sp := rfl

theorem spaceMem_congr {s t : State} (h : t.core = s.core) (sp : Nat) : spaceMem t sp = spaceMem s sp := by
  simp only [spaceMem, h]

theorem lt_of_spaceOk {sid sp : Nat} (h : spaceOk sid sp = true) : sp < 5 := by
  unfold spaceOk at h
  split at h
  · have := of_decide_eq_true h
    omega
  · have := eq_of_beq h
    omega

/-! ## MVB, MCK -/

theorem spaceMem_mvbAll {i : Iss} {dsp : Nat} (hd : dsp < 5) (ssp saddr daddr len ty : Nat) (s : State) {sp : Nat} (h : sp < 5) :
    spaceMem (mvbAll i ssp dsp saddr daddr len ty s) sp = if sp = dsp then wrBytes (spaceMem s dsp) (spaceByte i.sid dsp (offset s i dsp daddr))
      (moveBytes s i.sid ssp (offset s i ssp saddr) (moveLen dsp len) (ty == 1)) else spaceMem s sp := by
  have hset : ∀ m, spaceMem (setSpaceMem dsp m s) sp = if sp = dsp then m else spaceMem s sp := by
    intro m
    split
    case isTrue he => exact he ▸ spaceMem_setSpaceMem_same h m s
    case isFalse he => exact spaceMem_setSpaceMem_ne h hd he m s
  rw [mvbAll]
  split
  · exact (spaceMem_setProv ..).trans (hset _)
  · exact hset _

theorem exec_mvb {i : Iss} {ssp dsp saddr daddr len ty : Nat} {s : State} (hrun : runsAt s i false = true) (hs : spaceOk i.sid ssp = true)
    (hd : spaceOk i.sid dsp = true) (hsa : inSpace i.sid ssp saddr = true) (hda : inSpace i.sid dsp daddr = true) (hlen : len < 8) (hty : ty < 2) :
    exec (.mvb i ssp dsp saddr daddr len ty) s = .next (mvbAll i ssp dsp saddr daddr len ty s) := by
  refine (anyOp_of_seqRuns (.mvb i ssp dsp saddr daddr len ty) _ (seqRuns_of_runsAt hrun) (by simp [*])).trans ?_
  rw [mvbAct, alive_of_runsAt _ hrun]

theorem exec_mck {i : Iss} {ssp saddr len lix : Nat} {s : State} (h : coreRuns s i true) (hs : ssp < 4) (hsa : inSpace i.sid ssp saddr = true)
    (hlen : len < 8) (hlix : lix < 64) : exec (.mck i ssp saddr len lix) s = .next (mckAll i ssp saddr len lix s) := by
  refine (coreOp_of_runsAt (.mck i ssp saddr len lix) _ h.1 h.2 (by simp [*])).trans ?_
  rw [mckAct, alive_of_coreRuns _ h]

/-! ## MVF, MVK -/

/-- The transfer that `sendXfer` puts on the fabric. -/
def newXfer (s : State) (sid dst space addr cred : Nat) (kill : Bool) (layer : Nat) (bytes : List Byte) (prov : List (Nat × Nat × Nat × Nat)) : Xfer :=
  { src := sid, dst := dst, space := space, addr := addr, cred := cred, step := (seqOf s sid).step, att := (seqOf s sid).att, tent := true, kill := kill,
    layer := layer, bytes := bytes, prov := prov }

theorem sendXfer_eq (sid dst space addr cred : Nat) (kill : Bool) (layer : Nat) (bytes : List Byte) (prov : List (Nat × Nat × Nat × Nat)) (s : State) :
    sendXfer sid dst space addr cred kill layer bytes prov s =
      { s with seq := { s.seq with fabric := s.seq.fabric ++ [newXfer s sid dst space addr cred kill layer bytes prov] } } := rfl

theorem exec_mvf {i : Iss} {ssp saddr route len ty : Nat} {s : State} (h : seqRuns s i = true) (hs : spaceOk i.sid ssp = true)
    (hsa : inSpace i.sid ssp saddr = true) (hr : route < 1024) (hlen : len ≤ 12) (hty : ty < 2) :
    exec (.mvf i ssp saddr route len ty) s = .next (mvfAct i ssp saddr route len ty s) :=
  anyOp_of_seqRuns (.mvf i ssp saddr route len ty) _ h (by simp [*])

theorem length_rdBytes (m : Mem) (a n : Nat) : (rdBytes m a n).length = n := by
  induction n generalizing a with
  | zero => rfl
  | succ n ih => rw [rdBytes, List.length_cons, ih]

/-- A read-out in BF16 has two bytes an element. -/
theorem length_readOut_half (s : State) (core tile n : Nat) : (readOut s core tile true n).length = 2 * (n / 2) := by
  simp [readOut, List.length_flatMap, Nat.mul_comm]

/-- Bytes of one position of MVK. -/
def mvkBytes (s : State) (i : Iss) (ssp a n k : Nat) : List Byte :=
  if ssp = 1 then (readOut s (sidCore i.sid) a true (n * (k + 1))).drop (n * k) else rdBytes (spaceMem s ssp) (spaceByte i.sid ssp a + n * k) n

theorem length_mvkBytes (s : State) (i : Iss) (ssp a k : Nat) (kind : Nat) : (mvkBytes s i ssp a (mvkLen kind) k).length = mvkLen kind := by
  unfold mvkBytes
  split
  · rw [List.length_drop, length_readOut_half]
    simp only [mvkLen]
    split <;> omega
  · exact length_rdBytes ..

/-- Every attention cluster has a sequencer, in that cluster. -/
theorem attSid_attCluster : ∀ d : Fin 8, ∀ c : Fin 4,
    isAttSid (attSid (mkCluster (24 + d.val) c.val)) = true ∧ sidCl (attSid (mkCluster (24 + d.val) c.val)) = c.val := by decide

/-- One position of MVK on its way: to an attention die that is a free value, to the cluster of the position's page. -/
def mvkSend (i : Iss) (layer page : Nat) (bytes : List Byte) (t : State) : State :=
  sendXfer i.sid (attSid (mkCluster (24 + (draw t).1.toNat % 8) (page / 256 % 4))) 2 ((draw t).1.toNat / 8 % 65536) 0 false layer bytes [] (draw t).2

theorem mvkSend_spec (i : Iss) (layer page : Nat) (bytes : List Byte) (t : State) : ∃ x, mvkSend i layer page bytes t =
    { t with seq := { t.seq with fabric := t.seq.fabric ++ [x] }, free := t.free + 1 } ∧ x.src = i.sid ∧ isAttSid x.dst = true ∧
      sidCl x.dst = page / 256 % 4 ∧ x.layer = layer ∧ x.tent = true ∧ x.bytes = bytes := by
  have hatt := attSid_attCluster ⟨(draw t).1.toNat % 8, Nat.mod_lt _ (by decide)⟩ ⟨page / 256 % 4, Nat.mod_lt _ (by decide)⟩
  exact ⟨_, rfl, rfl, hatt.1, hatt.2, rfl, rfl, rfl⟩

/-- What MVK puts on the fabric for some positions: one transfer for each, in their order. -/
theorem mvkSends_spec (i : Iss) (layer base : Nat) (bytes : Nat → List Byte) (ps : List Nat) (s : State) :
    ∃ xs, ps.foldl (fun t k => mvkSend i layer (base + k) (bytes k) t) s =
      { s with seq := { s.seq with fabric := s.seq.fabric ++ xs }, free := s.free + ps.length } ∧ xs.length = ps.length ∧
      ∀ (j : Nat) (x : Xfer), xs[j]? = some x → ∃ k, ps[j]? = some k ∧ x.src = i.sid ∧ isAttSid x.dst = true ∧ sidCl x.dst = (base + k) / 256 % 4 ∧ x.layer = layer ∧
        x.tent = true ∧ x.bytes = bytes k := by
  induction ps generalizing s with
  | nil => exact ⟨[], by simp⟩
  | cons k ks ih =>
    obtain ⟨x, hx, hxs⟩ := mvkSend_spec i layer (base + k) (bytes k) s
    obtain ⟨ys, hys, hlen, hall⟩ := ih (mvkSend i layer (base + k) (bytes k) s)
    refine ⟨x :: ys, ?_, by simp [hlen], fun j y hy => ?_⟩
    · rw [List.foldl_cons, hys, hx]
      simp [Nat.add_assoc, Nat.add_comm 1]
    · cases j with
      | zero =>
        obtain rfl : x = y := by simpa using hy
        exact ⟨k, rfl, hxs⟩
      | succ j => exact hall j y hy

theorem mvkAll_eq {i : Iss} {s : State} {l : Lane} {p : Nat} (hl : curLane s i = some (l, p)) (ssp saddr layer kind vp : Nat) :
    mvkAll i ssp saddr layer kind vp s =
      (vpList s i vp).foldl (fun t k => mvkSend i layer (l.pos + p + k) (mvkBytes s i ssp (offset s i ssp saddr) (mvkLen kind) k) t) s := by
  rw [mvkAll, hl]
  rfl

theorem length_vpList (s : State) (i : Iss) (vp : Nat) : (vpList s i vp).length = vpCount s i vp := by
  unfold vpList vpCount
  split <;> simp

/-- The position of the `j`-th transfer is `j`. -/
theorem vpList_getElem? {s : State} {i : Iss} {vp j k : Nat} (h : (vpList s i vp)[j]? = some k) : k = j := by
  unfold vpList at h
  split at h
  · cases j with
    | zero => simpa using h.symm
    | succ j => simp at h
  · obtain ⟨hlt, heq⟩ := List.getElem?_eq_some_iff.mp h
    simpa using heq.symm

theorem exec_mvk {i : Iss} {ssp saddr layer kind vp : Nat} {s : State} (h : coreRuns s i true) (hs : ssp < 4) (hsa : inSpace i.sid ssp saddr = true)
    (hlayer : layer < 128) (hkind : kind < 3) (hvp : vp < 2) (hok : vpOk s i vp = true) :
    exec (.mvk i ssp saddr layer kind vp) s = .next (mvkAll i ssp saddr layer kind vp s) := by
  refine (coreOp_of_runsAt (.mvk i ssp saddr layer kind vp) _ h.1 h.2 (by simp [*])).trans ?_
  rw [mvkAct, alive_of_coreRuns _ h, checkVp_of_vpOk _ hok]

/-! ## FABRIC_DELIVERY -/

/-- The first element of a list that satisfies `p` stands at the index found, and not after any other that does. -/
theorem findIx_spec {α : Type} {p : α → Bool} {l : List α} {n j : Nat} {x : α} (hx : l[j]? = some x) (hp : p x = true) :
    ∃ k y, findIx p l n = some (n + k) ∧ k ≤ j ∧ l[k]? = some y ∧ p y = true := by
  induction l generalizing n j with
  | nil => simp at hx
  | cons a l ih =>
    rw [findIx]
    split
    case isTrue ha => exact ⟨0, a, rfl, by omega, rfl, ha⟩
    case isFalse ha =>
      cases j with
      | zero =>
        obtain rfl : a = x := by simpa using hx
        exact absurd hp ha
      | succ j =>
        obtain ⟨k, y, hk, hle, hy, hpy⟩ := ih (n := n + 1) (j := j) (by simpa using hx)
        exact ⟨k + 1, y, by rw [hk]; congr 1; omega, by omega, by simpa using hy, hpy⟩

theorem fabricFirst_spec {s : State} {ix : Nat} {x0 : Xfer} (h : s.seq.fabric[ix]? = some x0) :
    ∃ x, s.seq.fabric[fabricFirst s x0]? = some x ∧ x.src = x0.src ∧ x.dst = x0.dst ∧ fabricFirst s x0 ≤ ix := by
  obtain ⟨k, y, hk, hle, hy, hp⟩ := findIx_spec (p := fun y => y.src == x0.src && y.dst == x0.dst) (n := 0) h (by simp)
  have hfirst : fabricFirst s x0 = k := by simp [fabricFirst, hk]
  simp only [Bool.and_eq_true, beq_iff_eq] at hp
  rw [hfirst]
  exact ⟨y, hy, hp.1, hp.2, hle⟩

/-- The transfer's credit, if its route entry names one, added to counter `ch`. -/
def landCredit (x : Xfer) (ch : Nat) (s : State) : State := if x.cred = 0 then s else tryWait x.dst (addCredit x.dst ch 1 s)

/-- The transfer's bytes, in their space, with their provenance in IB. -/
def landBytes (x : Xfer) (s : State) : State :=
  let t := setSpaceMem x.space (wrBytes (spaceMem s x.space) (spaceByte x.dst x.space x.addr) x.bytes) s
  if x.space = 3 then setProv (sidCore x.dst) x.addr x.prov t else t

/-- The kill mark of a receive slot. -/
def landKill (x : Xfer) (s : State) : State :=
  if x.space = 4 then { s with core := { s.core with rxKill := s.core.rxKill ++ [coreIx (sidCore x.dst) * 256 + x.addr] } } else s

theorem calm_tryWait (n : Nat) (s : State) (sid : Nat) : calm (tryWait n s) sid = calm s sid := by
  unfold tryWait
  dsimp only
  split
  · split
    · refine calm_modSeq n _ ?_ s sid; exact fun _ => ⟨rfl, rfl⟩
    · rfl
  · split
    · refine calm_modSeq n _ ?_ s sid; exact fun _ => ⟨rfl, rfl⟩
    · rfl
  · rfl

theorem calm_sendToken (src kind arg dest : Nat) (s : State) (sid : Nat) : calm (sendToken src kind arg dest s) sid = calm s sid := by
  unfold calm
  rw [sendToken_eq_sendTagged, seqOf_sendTagged]
  split <;> rfl

theorem calm_seqFault (n cause : Nat) (s : State) (sid : Nat) : calm (seqFault n cause s) sid = calm s sid :=
  (calm_sendToken n 11 cause schedSid _ sid).trans (calm_modSeq n (fun q => { q with phase := 2 }) (fun _ => ⟨rfl, rfl⟩) s sid)

theorem calm_addCredit (n ch k : Nat) (s : State) (sid : Nat) : calm (addCredit n ch k s) sid = calm s sid := by
  unfold addCredit
  split
  · exact calm_seqFault n _ (draw s).2 sid
  · refine calm_modSeq n _ ?_ s sid; exact fun _ => ⟨rfl, rfl⟩

theorem calm_landCredit (x : Xfer) (ch : Nat) (s : State) (sid : Nat) : calm (landCredit x ch s) sid = calm s sid := by
  unfold landCredit
  split
  · rfl
  · rw [calm_tryWait, calm_addCredit]

theorem landXfer_eq (x : Xfer) (s : State) : landXfer x s = landCredit x (credCtr s x.dst x.cred) (if x.kill then landKill x s else landBytes x s) := by
  rfl

theorem landCredit_core (x : Xfer) (ch : Nat) (s : State) : (landCredit x ch s).core = s.core := by
  have hco : changesOnly [.seq, .free] s (landCredit x ch s) := by
    unfold landCredit
    split
    · exact co_refl _ s
    · exact co_tryWait _ _ (by decide) (co_addCredit _ _ _ s (by decide) (co_refl _ s))
  exact hco.2 .core (by decide)

theorem fabric_tryWait (sid : Nat) (s : State) : (tryWait sid s).seq.fabric = s.seq.fabric := by
  unfold tryWait
  dsimp only
  repeat' split
  all_goals rfl

theorem fabric_landCredit (x : Xfer) (ch : Nat) (s : State) : (landCredit x ch s).seq.fabric = s.seq.fabric := by
  unfold landCredit addCredit
  split
  · rfl
  · rw [fabric_tryWait]
    split <;> rfl

theorem landKill_seq (x : Xfer) (s : State) : (landKill x s).seq = s.seq := by
  unfold landKill
  split <;> rfl

theorem spaceMem_landKill (x : Xfer) (s : State) (sp : Nat) : spaceMem (landKill x s) sp = spaceMem s sp := by
  unfold landKill
  split <;> rfl

theorem landBytes_seq (x : Xfer) (s : State) : (landBytes x s).seq = s.seq := by
  unfold landBytes
  dsimp only
  split <;> rfl

theorem spaceMem_landBytes {x : Xfer} (h : x.space < 5) (s : State) :
    spaceMem (landBytes x s) x.space = wrBytes (spaceMem s x.space) (spaceByte x.dst x.space x.addr) x.bytes := by
  unfold landBytes
  dsimp only
  split
  · exact (spaceMem_setProv ..).trans (spaceMem_setSpaceMem_same h _ s)
  · exact spaceMem_setSpaceMem_same h _ s

theorem landXfer_seqs (x : Xfer) (s : State) : (if x.kill then landKill x s else landBytes x s).seq = s.seq := by
  split
  · exact landKill_seq x s
  · exact landBytes_seq x s

/-- The transfer's own effect on the module that has taken it off the fabric. -/
def delivered (x : Xfer) (k : Nat) (s : State) : State :=
  let s1 := { s with seq := { s.seq with fabric := s.seq.fabric.eraseIdx k } }
  if xferCurrent s x then landXfer x s1 else s1

theorem calm_delivered (x : Xfer) (k : Nat) (s : State) (sid : Nat) : calm (delivered x k s) sid = calm s sid := by
  unfold delivered
  dsimp only
  split
  · rw [landXfer_eq, calm_landCredit, calm_of_seq (landXfer_seqs x _)]
    rfl
  · rfl

theorem fabric_delivered (x : Xfer) (k : Nat) (s : State) : (delivered x k s).seq.fabric = s.seq.fabric.eraseIdx k := by
  unfold delivered
  dsimp only
  split
  · rw [landXfer_eq, fabric_landCredit, landXfer_seqs]
  · rfl

theorem exec_fabricDelivery {ix : Nat} {s : State} {x0 x : Xfer} (h0 : s.seq.fabric[ix]? = some x0) (h : s.seq.fabric[fabricFirst s x0]? = some x)
    (hc : calm s x0.dst = true) : exec (.fabricDelivery ix) s = .next (delivered x (fabricFirst s x0) s) := by
  change execFabricDelivery ix s = _
  have hdel : deliver x0 s = delivered x (fabricFirst s x0) s := by
    rw [deliver, h]
    rfl
  rw [execFabricDelivery, h0]
  dsimp only
  rw [hdel, settle_of_calm (by rwa [calm_delivered])]

/-- Settles O18: copies write one run of bytes; what goes over the fabric is appended to it, and the oldest transfer of a pair of units leaves it. -/
theorem movesAndTransfers : Obligations.MovesAndTransfers := by
  unfold Obligations.MovesAndTransfers
  refine ⟨⟨?_, ?_⟩, ⟨?_, ?_⟩, ?_⟩
  · intro i ssp dsp saddr daddr len ty s hrun hs hd hsa hda hlen hty
    have hd5 := lt_of_spaceOk hd
    refine ⟨_, exec_mvb hrun hs hd hsa hda hlen hty, co_mvbAll _ _ _ _ _ _ _ s (by decide) (co_refl _ s), ?_, fun sp hsp hne => ?_⟩
    · rw [spaceMem_mvbAll hd5 _ _ _ _ _ s hd5, if_pos rfl]
      exact bytesAt_wrBytes ..
    · rw [spaceMem_mvbAll hd5 _ _ _ _ _ s hsp, if_neg hne]
  · intro i ssp saddr len lix s h hs hsa hlen hlix
    exact ⟨_, exec_mck h hs hsa hlen hlix, rfl, bytesAt_wrBytes _ _ _, fun c => tget_tput ..⟩
  · intro i ssp saddr route len ty s d sp a c hrun hs hsa hr hlen hty hroute
    have hexec := exec_mvf hrun hs hsa hr hlen hty
    rw [mvfAct, hroute] at hexec
    dsimp only at hexec
    cases hdead : laneDead s i false with
    | true =>
      rw [hdead, if_pos rfl, sendXfer_eq] at hexec
      exact ⟨_, _, hexec, rfl, rfl, rfl, rfl, rfl, rfl, rfl, rfl, rfl, rfl, rfl⟩
    | false =>
      rw [hdead, if_neg Bool.false_ne_true, sendXfer_eq] at hexec
      exact ⟨_, _, hexec, rfl, rfl, rfl, rfl, rfl, rfl, rfl, rfl, rfl, rfl, rfl⟩
  · intro i ssp saddr layer kind vp s l p h hs hsa hlayer hkind hvp hok hl
    obtain ⟨xs, hfold, hlen, hall⟩ := mvkSends_spec i layer (l.pos + p) (mvkBytes s i ssp (offset s i ssp saddr) (mvkLen kind)) (vpList s i vp) s
    rw [← mvkAll_eq hl] at hfold
    refine ⟨_, xs, exec_mvk h hs hsa hlayer hkind hvp hok, by rw [hfold], by rw [hlen, length_vpList], fun k x hx => ?_⟩
    obtain ⟨k', hk, hsrc, hatt, hcl, hlay, htent, hbytes⟩ := hall k x hx
    obtain rfl := vpList_getElem? hk
    exact ⟨hsrc, hatt, hcl, hlay, htent, by rw [hbytes, length_mvkBytes]⟩
  · intro ix s x0 x h0 h hc
    obtain ⟨y, hy, hsrc, hdst, hle⟩ := fabricFirst_spec h0
    obtain rfl : x = y := Option.some.inj (h.symm.trans hy)
    refine ⟨hsrc, hdst, hle, _, exec_fabricDelivery h0 h hc, fabric_delivered .., fun hcur => ?_, fun hcur hkill => ?_, fun hcur hkill hsp => ?_⟩
    · rw [delivered, hcur]
      rfl
    · rw [delivered, if_pos hcur]
      refine ⟨co_landXfer x _ (by decide) (co_set_seq _ (by decide) (co_refl _ s)), fun sp _ => ?_⟩
      rw [landXfer_eq, if_pos hkill, spaceMem_congr (landCredit_core ..), spaceMem_landKill]
      rfl
    · rw [delivered, if_pos hcur, landXfer_eq, if_neg (by simp [hkill]), spaceMem_congr (landCredit_core ..), spaceMem_landBytes hsp]
      exact bytesAt_wrBytes ..

end Sys2Proof.Machine
end

section
/-! Runs of equally long pieces in a byte memory, and the page walks of the attention sequencers (R274 to R276). -/

namespace Sys2Proof.Machine

/-! ## Pieces of one length, one after another -/

theorem length_flatMap_of {α β : Type} {f : α → List β} {n : Nat} (hf : ∀ x, (f x).length = n) (l : List α) : (l.flatMap f).length = l.length * n := by
  induction l with
  | nil => simp
  | cons x l ih => rw [List.flatMap_cons, List.length_append, ih, hf, List.length_cons, Nat.succ_mul, Nat.add_comm]

/-- Element `r` of piece `q`. -/
theorem flatMap_getElem? {α β : Type} {f : α → List β} {n : Nat} (hf : ∀ x, (f x).length = n) {l : List α} {q r : Nat} {x : α} (hx : l[q]? = some x)
    (hr : r < n) : (l.flatMap f)[q * n + r]? = (f x)[r]? := by
  induction l generalizing q with
  | nil => simp at hx
  | cons y l ih =>
    rw [List.flatMap_cons]
    cases q with
    | zero =>
      obtain rfl : y = x := by simpa using hx
      rw [Nat.zero_mul, Nat.zero_add, List.getElem?_append_left (by rwa [hf])]
    | succ q =>
      rw [List.getElem?_append_right (by rw [hf, Nat.succ_mul]; omega), ← ih (by simpa using hx), hf, Nat.succ_mul]
      congr 1
      omega

theorem rdBytes_append (m : Mem) (a : Nat) (bs cs : List Byte) : rdBytes (wrBytes m a (bs ++ cs)) a bs.length = bs := by
  induction bs generalizing m a with
  | nil => rfl
  | cons b bs ih =>
    rw [List.cons_append, wrBytes, List.length_cons, rdBytes, ih, rdByte_wrBytes_out _ _ _ _ (by omega), rdByte_wrByte_same]

theorem wrBytes_append (m : Mem) (a : Nat) (bs cs : List Byte) : wrBytes m a (bs ++ cs) = wrBytes (wrBytes m a bs) (a + bs.length) cs := by
  induction bs generalizing m a with
  | nil => rfl
  | cons b bs ih => rw [List.cons_append, wrBytes, ih, wrBytes, List.length_cons, Nat.add_assoc, Nat.add_comm 1]

/-- Piece `q` of the pieces written reads back. -/
theorem rdBytes_wrBytes_flatMap {α : Type} {f : α → List Byte} {n : Nat} (hf : ∀ x, (f x).length = n) {l : List α} {q : Nat} {x : α}
    (hx : l[q]? = some x) (m : Mem) (a : Nat) : rdBytes (wrBytes m a (l.flatMap f)) (a + q * n) n = f x := by
  induction l generalizing q m a with
  | nil => simp at hx
  | cons y l ih =>
    rw [List.flatMap_cons]
    cases q with
    | zero =>
      obtain rfl : y = x := by simpa using hx
      rw [Nat.zero_mul, Nat.add_zero, ← hf y]
      exact rdBytes_append m a (f y) _
    | succ q =>
      rw [wrBytes_append, hf, Nat.succ_mul, show a + (q * n + n) = a + n + q * n by omega]
      exact ih (by simpa using hx) _ _

theorem rdWord_of_rdBytes {m : Mem} {a : Nat} {w : Word} (h : rdBytes m a 4 = leBytes w.toNat 4) : rdWord m a = w := by
  rw [rdWord, h, leNat_leBytes]
  exact BitVec.eq_of_toNat_eq (by simpa using w.isLt)

theorem rdHalf_of_rdBytes {m : Mem} {a : Nat} {w : Half} (h : rdBytes m a 2 = leBytes w.toNat 2) : rdHalf m a = w := by
  rw [rdHalf, h, leNat_leBytes]
  exact BitVec.eq_of_toNat_eq (by simpa using w.isLt)

/-- Words written one after another read back. -/
theorem rdWord_wrBytes_words {l : List Word} {k : Nat} {w : Word} (h : l[k]? = some w) (m : Mem) (a : Nat) :
    rdWord (wrBytes m a (l.flatMap fun w => leBytes w.toNat 4)) (a + 4 * k) = w := by
  rw [Nat.mul_comm]
  exact rdWord_of_rdBytes (rdBytes_wrBytes_flatMap (f := fun w : Word => leBytes w.toNat 4) (fun _ => leBytes_length ..) h m a)

/-- Halves written one after another read back. -/
theorem rdHalf_wrBytes_halves {f : Nat → Half} {n k : Nat} (h : k < n) (m : Mem) (a : Nat) :
    rdHalf (wrBytes m a ((List.range n).flatMap fun k => leBytes (f k).toNat 2)) (a + 2 * k) = f k := by
  rw [Nat.mul_comm]
  exact rdHalf_of_rdBytes
    (rdBytes_wrBytes_flatMap (f := fun k => leBytes (f k).toNat 2) (fun _ => leBytes_length ..) (List.getElem?_range h) m a)

theorem length_leBytes_pair (p : Pair) : (leBytes p.s.toNat 4 ++ leBytes p.c.toNat 4).length = 8 := by simp

/-- The eight bytes of a pair. -/
theorem rdPair_of_rdBytes {m : Mem} {a : Nat} {p : Pair} (h : rdBytes m a 8 = leBytes p.s.toNat 4 ++ leBytes p.c.toNat 4) : rdPair m a = p := by
  have hsplit : rdBytes m a 8 = rdBytes m a 4 ++ rdBytes m (a + 4) 4 := rfl
  rw [hsplit] at h
  obtain ⟨hs, hc⟩ := List.append_inj h (by simp [length_rdBytes])
  rw [rdPair, rdWord_of_rdBytes hs, rdWord_of_rdBytes hc]

/-! ## The walker's tags (R275) -/

/-- The module with other tags in the walkers' buffers. -/
def looked (s : State) (look dirs : List (Nat × Nat × Nat)) : State := { s with kv := { s.kv with look := look, dirs := dirs } }

theorem foldl_touchWalk (cl root layer : Nat) (js : List Nat) (s : State) :
    ∃ a b, js.foldl (fun t j => touchWalk cl root layer j t) s = looked s a b := by
  induction js generalizing s with
  | nil => exact ⟨_, _, rfl⟩
  | cons j js ih =>
    obtain ⟨a, b, h⟩ := ih (touchWalk cl root layer j s)
    exact ⟨a, b, h⟩

theorem prefetchNext_eq (sid : Nat) (l : Lane) (layer : Nat) (s : State) : ∃ a b, prefetchNext sid l layer s = looked s a b := by
  unfold prefetchNext
  split
  · exact ⟨_, _, rfl⟩
  · exact foldl_touchWalk ..

/-- The module after the walks of an attention instruction: tags in the walkers' buffers, and the sequencer's last access. -/
structure Walked (s t : State) (sid : Nat) : Prop where
  eq : ∃ q a b, t = { looked s a b with seq := q }
  bad : t.seq.planeBad = s.seq.planeBad
  phase : (seqOf t sid).phase = (seqOf s sid).phase

theorem walked_looked (s : State) (a b : List (Nat × Nat × Nat)) (sid : Nat) : Walked s (looked s a b) sid := ⟨⟨s.seq, a, b, rfl⟩, rfl, rfl⟩

theorem walked_noteAccess (sid lane layer j : Nat) {s t : State} (h : Walked s t sid) : Walked s (noteAccess sid lane layer j t) sid := by
  obtain ⟨⟨q, a, b, rfl⟩, hbad, hphase⟩ := h
  refine ⟨⟨_, a, b, rfl⟩, hbad, ?_⟩
  rw [noteAccess, seqOf_modSeq_same]
  exact hphase

theorem changesOnly_walked {L : List Part} (hL : sub [.seq, .kv] L = true) {s t : State} {sid : Nat} (h : Walked s t sid) : changesOnly L s t := by
  obtain ⟨⟨q, a, b, rfl⟩, -, -⟩ := h
  exact co_set_seq q (sub_trans (by decide) hL) (co_set_kv _ (sub_trans (by decide) hL) (co_refl _ s))

/-! ## The pages of an issue -/

/-- Nothing stops the walks. -/
theorem issuePages_of_pages {s : State} {sid layer mask : Nat} {l : Lane} {ps : List (Nat × Leaf)} (h : attPages s sid l layer mask = some ps)
    (k : List (Nat × Leaf) → State → State) : ∃ t, issuePages sid l layer mask k s = k ps t ∧ Walked s t sid := by
  unfold attPages attMode attWin at h
  split at h
  · cases h
  rename_i hwin
  split at h
  · cases h
  rename_i hmask
  split at h
  case h_2 => cases h
  rename_i qs hwalk
  obtain rfl : qs = ps := Option.some.inj h
  simp only [not_and_or, not_or] at hmask
  have hmask1 : ¬ (maskMode mask l.mask (attnRec s l.canvas layer).win = 2 ∧ (frameOf s l.ptn l.mroot).isNone = true) := by tauto
  have hmask2 : ¬ (maskMode mask l.mask (attnRec s l.canvas layer).win = 2 ∧ maskBad s (attDie sid) l.ptn l.mroot l.npos = true) := by tauto
  unfold issuePages
  dsimp only
  rw [if_neg hwin, if_neg hmask1, if_neg hmask2, hwalk]
  dsimp only
  refine ⟨_, rfl, ?_⟩
  obtain ⟨a, b, hfold⟩ := foldl_touchWalk (sidCluster sid) l.ptroot layer
    (pagesRead s (attDie sid) (attCl sid) l (maskMode mask l.mask (attnRec s l.canvas layer).win) (attnRec s l.canvas layer).win) s
  rw [hfold]
  split
  · exact walked_noteAccess _ _ _ _ (walked_looked s a b sid)
  · exact walked_looked s a b sid

/-- Something stops them: a fault of the sequencer. -/
theorem issuePages_of_none {s : State} {sid layer mask : Nat} {l : Lane} (h : attPages s sid l layer mask = none)
    (k : List (Nat × Leaf) → State → State) : ∃ cause u, issuePages sid l layer mask k s = seqFault sid cause u ∧ u.kv = s.kv ∧
      u.seq.planeBad = s.seq.planeBad := by
  unfold attPages attMode attWin at h
  unfold issuePages
  dsimp only
  split at h
  case isTrue hwin => exact ⟨_, (draw s).2, by rw [if_pos hwin]; rfl, rfl, rfl⟩
  case isFalse hwin =>
    rw [if_neg hwin]
    by_cases hframe : maskMode mask l.mask (attnRec s l.canvas layer).win = 2 ∧ (frameOf s l.ptn l.mroot).isNone = true
    · exact ⟨0x21, s, if_pos hframe, rfl, rfl⟩
    rw [if_neg hframe]
    by_cases hmask : maskMode mask l.mask (attnRec s l.canvas layer).win = 2 ∧ maskBad s (attDie sid) l.ptn l.mroot l.npos = true
    · exact ⟨0x22, s, if_pos hmask, rfl, rfl⟩
    rw [if_neg hmask]
    rw [if_neg (by tauto)] at h
    split at h
    · cases h
    rename_i c hwalk
    rw [hwalk]
    exact ⟨c, noteAccess sid l.lane layer _ s, rfl, rfl, rfl⟩

/-! ## An attention instruction that issues -/

theorem laneOp_of_curLane {s : State} {i : Iss} {l : Lane} {q : Nat} (op : Lane → State → State) (hrun : runsAt s i true = true)
    (hl : curLane s i = some (l, q)) : laneOp i op s = op l s := by
  rw [laneOp, hl]
  exact alive_of_runsAt _ hrun

theorem attOp_of_attRuns {s : State} {i : Iss} {l : Lane} (c : Instr) {run : State → State} {op : Lane → State → State} (h : attRuns s i l)
    {ok : Bool} (hok : ok = true) (hop : run s = laneOp i op s) : attOp c i ok run s = .next (op l s) := by
  obtain ⟨hsid, hrun, p, hl⟩ := h
  obtain ⟨-, hpart, hiss, -⟩ := runsAt_iff.mp hrun
  rw [attOp, hsid, hok, Bool.and_self, slotOp_of_issuing c _ hpart hiss, hop, laneOp_of_curLane op hrun hl]

/-- A fault stops the sequencer and tells the scheduler core, past an update that leaves the network alone. -/
theorem seqFault_spec {s u : State} (hup : planesUp s) (hbad : u.seq.planeBad = s.seq.planeBad) (sid cause : Nat) :
    (seqOf (seqFault sid cause u) sid).phase = 2 ∧ (seqFault sid cause u).kv = u.kv ∧
      ∃ tok : Token, (schedSid, tok) ∈ (seqFault sid cause u).seq.sent ∧ tok.kind = 11 ∧ tok.arg = cause := by
  obtain ⟨tok, hmem, hkind, harg, -⟩ := sentTo_seqFault (s := u) (hbad.trans hup) sid cause
  exact ⟨phase_seqFault .., rfl, tok, hmem, hkind, harg⟩

end Sys2Proof.Machine
end

section
/-! SCORE (R280): the rows of scores in the score buffers. -/

namespace Sys2Proof.Machine

/-- The rows of scores of an issue. -/
def rowsOfScores (s : State) (i : Iss) (kvh layer qaddr mask nqh : Nat) (l : Lane) (ps : List (Nat × Leaf)) : List Word :=
  (List.range l.npos).flatMap fun p => (List.range nqh).flatMap fun h =>
    scoreRow s i.sid l qaddr nqh kvh (attMode s l layer mask) (attWin s l layer) ps p h

/-- The score of one row and slot of a page, or what the mask leaves of it. -/
def maskedScore (s : State) (i : Iss) (kvh layer qaddr mask nqh : Nat) (l : Lane) (p h : Nat) (jp : Nat × Leaf) (k : Nat) : Word :=
  if visible s (attDie i.sid) l (attMode s l layer mask) (attWin s l layer) p (256 * jp.1 + k) then
    scoreOf s i.sid qaddr (p * nqh + h) (attDie i.sid) jp.2 kvh k else negInf

theorem length_scoreRow (s : State) (sid : Nat) (l : Lane) (qaddr nqh u mode win : Nat) (ps : List (Nat × Leaf)) (p h : Nat) :
    (scoreRow s sid l qaddr nqh u mode win ps p h).length = 256 * ps.length := by
  rw [scoreRow, length_flatMap_of (n := 256) (by simp), Nat.mul_comm]

theorem length_rowsOfScores (s : State) (i : Iss) (kvh layer qaddr mask nqh : Nat) (l : Lane) (ps : List (Nat × Leaf)) :
    (rowsOfScores s i kvh layer qaddr mask nqh l ps).length = nqh * l.npos * (256 * ps.length) := by
  rw [rowsOfScores, length_flatMap_of (n := nqh * (256 * ps.length)), List.length_range, ← Nat.mul_assoc, Nat.mul_comm l.npos]
  intro p
  rw [length_flatMap_of (fun h => length_scoreRow ..), List.length_range]

theorem rowsOfScores_getElem? (s : State) (i : Iss) (kvh layer qaddr mask nqh : Nat) (l : Lane) {ps : List (Nat × Leaf)} {p h x k : Nat}
    {jp : Nat × Leaf} (hp : p < l.npos) (hh : h < nqh) (hx : ps[x]? = some jp) (hk : k < 256) :
    (rowsOfScores s i kvh layer qaddr mask nqh l ps)[(p * nqh + h) * (256 * ps.length) + (256 * x + k)]? =
      some (maskedScore s i kvh layer qaddr mask nqh l p h jp k) := by
  have hrow : 256 * x + k < 256 * ps.length := by
    have := (List.getElem?_eq_some_iff.mp hx).1
    omega
  have hrows : h * (256 * ps.length) + (256 * x + k) < nqh * (256 * ps.length) := by
    have := Nat.mul_le_mul_right (256 * ps.length) (Nat.succ_le_of_lt hh)
    rw [Nat.succ_mul] at this
    omega
  rw [rowsOfScores, Nat.add_mul, Nat.mul_assoc, Nat.add_assoc]
  rw [flatMap_getElem? (fun p => by rw [length_flatMap_of (fun h => length_scoreRow ..), List.length_range]) (List.getElem?_range hp) hrows,
    flatMap_getElem? (fun h => length_scoreRow ..) (List.getElem?_range hh) hrow, scoreRow, Nat.mul_comm 256 x,
    flatMap_getElem? (n := 256) (by simp) hx hk, List.getElem?_map, List.getElem?_range hk]
  rfl

/-- What a SCORE whose rows fit leaves: the rows in the buffer with their length, and tags in the walkers' buffers. -/
def scored (s : State) (i : Iss) (layer sbuf : Nat) (lam : Nat) (rows : List Word) : State :=
  { s with kv := { s.kv with sbuf := wrBytes s.kv.sbuf (sbufAddr i.sid sbuf) (rows.flatMap fun w => leBytes w.toNat 4)
                             sinfo := tput [] s.kv.sinfo (sramIx i.sid * 16 + sbuf) [lam, layer, i.seg] } }

theorem scoreAll_of_fits {s : State} {i : Iss} {kvh layer qaddr sbuf mask nqh : Nat} {l : Lane} {ps : List (Nat × Leaf)}
    (h : attPages s i.sid l layer mask = some ps) (hfit : nqh * l.npos * (256 * ps.length) ≤ 131072 * (16 - sbuf)) :
    ∃ u a b, Walked s u i.sid ∧ scoreAll i kvh layer qaddr sbuf mask nqh l s =
      looked (scored u i layer sbuf (256 * ps.length) (rowsOfScores s i kvh layer qaddr mask nqh l ps)) a b := by
  obtain ⟨u, hu, hwalk⟩ := issuePages_of_pages h _
  obtain ⟨a, b, hpre⟩ := prefetchNext_eq i.sid l layer
    (scored u i layer sbuf (256 * ps.length) (rowsOfScores s i kvh layer qaddr mask nqh l ps))
  refine ⟨u, a, b, hwalk, ?_⟩
  rw [scoreAll, hu, ← hpre]
  dsimp only
  rw [if_neg (by omega)]
  obtain ⟨⟨q, a', b', rfl⟩, -, -⟩ := hwalk
  rfl

/-- Settles O22: a fault where the walks or the buffers stop it, else the rows of scores one after another in the buffer. -/
theorem scoreRows : Obligations.ScoreRows := by
  unfold Obligations.ScoreRows
  intro i kvh layer qaddr sbuf mask nqh s l hatt hok hsbuf hup
  have hexec : exec (.score i kvh layer qaddr sbuf mask nqh) s = .next (scoreAll i kvh layer (offset s i 2 qaddr) sbuf mask nqh l s) := by
    change execScore i kvh layer qaddr sbuf mask nqh s = _
    exact attOp_of_attRuns (op := scoreAll i kvh layer (offset s i 2 qaddr) sbuf mask nqh) _ hatt (by rw [hok, decide_eq_true hsbuf, Bool.and_self]) rfl
  refine ⟨fun hnone => ?_, fun ps hps => ⟨fun hover => ?_, fun hfit => ?_⟩⟩
  · obtain ⟨cause, u, hu, hkv, hbad⟩ := issuePages_of_none hnone _
    rw [scoreAll, hu] at hexec
    obtain ⟨hphase, hkv', tok, hmem, hkind, -⟩ := seqFault_spec hup hbad i.sid cause
    exact ⟨_, hexec, hphase, by rw [hkv', hkv], tok, hmem, hkind⟩
  · obtain ⟨u, hu, hwalk⟩ := issuePages_of_pages hps _
    rw [scoreAll, hu] at hexec
    dsimp only at hexec
    rw [if_pos hover] at hexec
    obtain ⟨hphase, hkv', tok, hmem, hkind, harg⟩ := seqFault_spec hup hwalk.bad i.sid 0x23
    obtain ⟨⟨q, a, b, rfl⟩, -, -⟩ := hwalk
    exact ⟨_, hexec, hphase, by rw [hkv']; rfl, tok, hmem, hkind, harg⟩
  · obtain ⟨u, a, b, hwalk, hall⟩ := scoreAll_of_fits (kvh := kvh) (qaddr := offset s i 2 qaddr) hps hfit
    rw [hall] at hexec
    have hco := changesOnly_walked (L := [.seq, .kv]) (by decide) hwalk
    obtain ⟨⟨q, a', b', rfl⟩, -, -⟩ := hwalk
    refine ⟨_, hexec, co_set_kv _ (by decide) (co_set_kv _ (by decide) hco), ?_, fun p h x j leaf k hp hh hx hk => ?_, fun c hc => ?_⟩
    · exact congrArg (fun e => nth 0 e 0) (tget_tput_same [] s.kv.sinfo (sramIx i.sid * 16 + sbuf) [256 * ps.length, layer, i.seg])
    · exact rdWord_wrBytes_words (rowsOfScores_getElem? s i kvh layer (offset s i 2 qaddr) mask nqh l hp hh hx hk) ..
    · refine rdByte_wrBytes_out _ _ _ _ ?_
      rwa [length_flatMap_of (n := 4) (fun _ => leBytes_length ..), length_rowsOfScores, Nat.mul_comm _ 4]

end Sys2Proof.Machine
end

section
/-! SNORM and SMIX (R281 to R283): probabilities and output pairs in the working SRAM. -/

namespace Sys2Proof.Machine

/-! ## SNORM -/

/-- The probability of slot `k` of a row. -/
def rowProb (s : State) (sid sbuf r k : Nat) : Half :=
  if (rowStats s sid sbuf r).1 = negInf then 0
  else probOf (expScore (scoreAt s sid sbuf (lamOf s sid sbuf) r k) (rowStats s sid sbuf r).1) (rowStats s sid sbuf r).2

/-- The pair (m, Z) of a row behind the scores. -/
def rowPairAt (s : State) (sid sbuf rows r : Nat) : Nat := sbufAddr sid sbuf + 4 * rows * lamOf s sid sbuf + 8 * r

/-- The bytes of a row's probabilities. -/
def rowBytes (s : State) (sid sbuf r : Nat) : List Byte := (List.range (lamOf s sid sbuf)).flatMap fun k => leBytes (rowProb s sid sbuf r k).toNat 2

theorem sram_snormRow (i : Iss) (sbuf paddr rows : Nat) (s : State) (r : Nat) : (snormRow i sbuf paddr rows s r).core.sram =
    wrBytes s.core.sram (attAddr i.sid paddr + 2 * r * lamOf s i.sid sbuf) (rowBytes s i.sid sbuf r) := rfl

theorem sbuf_snormRow (i : Iss) (sbuf paddr rows : Nat) (s : State) (r : Nat) : (snormRow i sbuf paddr rows s r).kv.sbuf =
    wrWord (wrWord s.kv.sbuf (rowPairAt s i.sid sbuf rows r) (rowStats s i.sid sbuf r).1) (rowPairAt s i.sid sbuf rows r + 4)
      (rowStats s i.sid sbuf r).2 := rfl

theorem length_rowBytes (s : State) (sid sbuf r : Nat) : (rowBytes s sid sbuf r).length = 2 * lamOf s sid sbuf := by
  rw [rowBytes, length_flatMap_of (n := 2) (fun _ => leBytes_length ..), List.length_range, Nat.mul_comm]

theorem lamOf_snormRow (i : Iss) (sbuf paddr rows : Nat) (s : State) (r : Nat) : lamOf (snormRow i sbuf paddr rows s r) i.sid sbuf = lamOf s i.sid sbuf := rfl

/-- What some of the rows leave alone. -/
theorem snormRows_frame (i : Iss) (sbuf paddr rows : Nat) (rs : List Nat) (hrs : ∀ r ∈ rs, r < rows) (s : State) :
    (∀ a, a < attAddr i.sid paddr ∨ attAddr i.sid paddr + 2 * rows * lamOf s i.sid sbuf ≤ a →
      rdByte (rs.foldl (snormRow i sbuf paddr rows) s).core.sram a = rdByte s.core.sram a) ∧
    ∀ a, a < rowPairAt s i.sid sbuf rows 0 ∨ rowPairAt s i.sid sbuf rows 0 + 8 * rows ≤ a →
      rdByte (rs.foldl (snormRow i sbuf paddr rows) s).kv.sbuf a = rdByte s.kv.sbuf a := by
  induction rs generalizing s with
  | nil => exact ⟨fun _ _ => rfl, fun _ _ => rfl⟩
  | cons r rs ih =>
    have hr : r < rows := hrs r (List.mem_cons_self ..)
    obtain ⟨hsram, hsbuf⟩ := ih (fun x hx => hrs x (List.mem_cons_of_mem _ hx)) (snormRow i sbuf paddr rows s r)
    rw [List.foldl_cons]
    refine ⟨fun a ha => (hsram a ha).trans ?_, fun a ha => (hsbuf a ha).trans ?_⟩
    · have hmul := Nat.mul_le_mul_right (lamOf s i.sid sbuf) (show 2 * (r + 1) ≤ 2 * rows by omega)
      have hsucc : 2 * (r + 1) * lamOf s i.sid sbuf = 2 * r * lamOf s i.sid sbuf + 2 * lamOf s i.sid sbuf := by ring
      rw [sram_snormRow, rdByte_wrBytes_out _ _ _ _ (by rw [length_rowBytes]; omega)]
    · simp only [rowPairAt] at ha
      rw [sbuf_snormRow, rdByte_wrWord_out _ _ _ _ (by simp only [rowPairAt]; omega), rdByte_wrWord_out _ _ _ _ (by simp only [rowPairAt]; omega)]

/-- The count of R285 changes nothing that a row reads. -/
theorem countBound_frame (i : Iss) (sbuf rows : Nat) (l : Lane) (s : State) :
    (countBound i sbuf rows l s).core = s.core ∧ (countBound i sbuf rows l s).kv = s.kv := by
  unfold countBound
  dsimp only
  split <;> exact ⟨rfl, rfl⟩

theorem rowStats_congr {s t : State} (h : t.kv = s.kv) (sid sbuf r : Nat) : rowStats t sid sbuf r = rowStats s sid sbuf r := by
  cases s; cases t; cases h; rfl

theorem lamOf_congr {s t : State} (h : t.kv = s.kv) (sid sbuf : Nat) : lamOf t sid sbuf = lamOf s sid sbuf := by
  rw [lamOf, h, lamOf]

theorem rowProb_congr {s t : State} (h : t.kv = s.kv) (sid sbuf r k : Nat) : rowProb t sid sbuf r k = rowProb s sid sbuf r k := by
  rw [rowProb, rowStats_congr h, lamOf_congr h, scoreAt, h, rowProb, scoreAt]

theorem exec_snorm {i : Iss} {sbuf paddr nqh : Nat} {s : State} {l : Lane} (h : attRuns s i l) (hok : attOk 0 0 paddr 0 nqh = true) (hsbuf : sbuf < 16) :
    exec (.snorm i sbuf paddr nqh) s = .next (snormAll i sbuf (offset s i 2 paddr) nqh l s) := by
  change execSnorm i sbuf paddr nqh s = _
  exact attOp_of_attRuns (op := snormAll i sbuf (offset s i 2 paddr) nqh) _ h (by rw [hok, decide_eq_true hsbuf, Bool.and_self]) rfl

/-- The only row of a SNORM with one row. -/
theorem snormRow_reads (i : Iss) (sbuf paddr : Nat) (s : State) :
    rdWord (snormRow i sbuf paddr 1 s 0).kv.sbuf (rowPairAt s i.sid sbuf 1 0) = (rowStats s i.sid sbuf 0).1 ∧
    rdWord (snormRow i sbuf paddr 1 s 0).kv.sbuf (rowPairAt s i.sid sbuf 1 0 + 4) = (rowStats s i.sid sbuf 0).2 ∧
    ∀ k, k < lamOf s i.sid sbuf → rdHalf (snormRow i sbuf paddr 1 s 0).core.sram (attAddr i.sid paddr + 2 * k) = rowProb s i.sid sbuf 0 k := by
  rw [sbuf_snormRow, sram_snormRow]
  refine ⟨?_, rdWord_wrWord .., fun k hk => ?_⟩
  · exact (rdWord_wrWord_out _ _ _ _ (by omega)).trans (rdWord_wrWord ..)
  · rw [Nat.mul_zero, Nat.zero_mul, Nat.add_zero]
    exact rdHalf_wrBytes_halves hk ..

/-! ## SMIX -/

/-- The output pairs of an issue, one after another. -/
def mixBytes (s : State) (i : Iss) (kvh layer paddr mask nqh : Nat) (l : Lane) (ps : List (Nat × Leaf)) : List Byte :=
  (List.range l.npos).flatMap fun p => (List.range nqh).flatMap fun h => (List.range 128).flatMap fun d =>
    let e := mixElem s i paddr (256 * ps.length) (p * nqh + h) kvh (attMode s l layer mask) (attWin s l layer) l ps p d
    leBytes e.s.toNat 4 ++ leBytes e.c.toNat 4

/-- The bytes of one row's output pairs. -/
theorem length_mixRow {f : Nat → Pair} : ((List.range 128).flatMap fun d => leBytes (f d).s.toNat 4 ++ leBytes (f d).c.toNat 4).length = 1024 := by
  rw [length_flatMap_of (n := 8) (fun d => length_leBytes_pair (f d)), List.length_range]

theorem length_mixBytes (s : State) (i : Iss) (kvh layer paddr mask nqh : Nat) (l : Lane) (ps : List (Nat × Leaf)) :
    (mixBytes s i kvh layer paddr mask nqh l ps).length = 1024 * (l.npos * nqh) := by
  rw [mixBytes, length_flatMap_of (n := nqh * 1024), List.length_range, Nat.mul_comm 1024, Nat.mul_assoc]
  intro p
  rw [length_flatMap_of (fun h => length_mixRow), List.length_range]

/-- A run of pieces inside a run of pieces reads back. -/
theorem rdBytes_of_rdBytes_flatMap {α : Type} {f : α → List Byte} {n : Nat} (hf : ∀ x, (f x).length = n) {l : List α} {q : Nat} {x : α}
    (hx : l[q]? = some x) {m : Mem} {a len : Nat} (hlen : len = l.length * n) (h : rdBytes m a len = l.flatMap f) : rdBytes m (a + q * n) n = f x := by
  subst hlen
  induction l generalizing q a with
  | nil => simp at hx
  | cons y l ih =>
    have hsplit : ∀ k j b, rdBytes m b (k + j) = rdBytes m b k ++ rdBytes m (b + k) j := by
      intro k
      induction k with
      | zero => simp [rdBytes]
      | succ k ihk =>
        intro j b
        rw [Nat.succ_add, rdBytes, ihk, rdBytes, List.cons_append, Nat.add_assoc, Nat.add_comm 1]
    rw [List.length_cons, Nat.succ_mul, Nat.add_comm, hsplit, List.flatMap_cons] at h
    obtain ⟨hy, hl⟩ := List.append_inj h (by rw [length_rdBytes, hf])
    cases q with
    | zero =>
      obtain rfl : y = x := by simpa using hx
      rw [Nat.zero_mul, Nat.add_zero, hy]
    | succ q =>
      rw [Nat.succ_mul, show a + (q * n + n) = a + n + q * n by omega]
      exact ih (by simpa using hx) hl

theorem rdPair_mixBytes (s : State) (i : Iss) (kvh layer paddr mask nqh : Nat) (l : Lane) (ps : List (Nat × Leaf)) {p h d : Nat} (hp : p < l.npos)
    (hh : h < nqh) (hd : d < 128) (m : Mem) (a : Nat) :
    rdPair (wrBytes m a (mixBytes s i kvh layer paddr mask nqh l ps)) (a + 1024 * (p * nqh + h) + 8 * d) =
      mixElem s i paddr (256 * ps.length) (p * nqh + h) kvh (attMode s l layer mask) (attWin s l layer) l ps p d := by
  have hpos := rdBytes_wrBytes_flatMap (n := nqh * 1024) (f := fun p => (List.range nqh).flatMap fun h => (List.range 128).flatMap fun d =>
    let e := mixElem s i paddr (256 * ps.length) (p * nqh + h) kvh (attMode s l layer mask) (attWin s l layer) l ps p d
    leBytes e.s.toNat 4 ++ leBytes e.c.toNat 4)
    (fun p => by rw [length_flatMap_of (fun h => length_mixRow), List.length_range]) (List.getElem?_range hp) m a
  have hrow := rdBytes_of_rdBytes_flatMap (n := 1024) (fun h => length_mixRow) (List.getElem?_range hh) (by rw [List.length_range]) hpos
  have hpair := rdBytes_of_rdBytes_flatMap (n := 8) (fun d => length_leBytes_pair _) (List.getElem?_range hd) (by rw [List.length_range]) hrow
  rw [show a + 1024 * (p * nqh + h) + 8 * d = a + p * (nqh * 1024) + h * 1024 + d * 8 by ring]
  exact rdPair_of_rdBytes hpair

theorem exec_smix {i : Iss} {kvh layer paddr oaddr mask nqh : Nat} {s : State} {l : Lane} (h : attRuns s i l) (hok : attOk kvh layer paddr mask nqh = true)
    (ho : oaddr < 65536) : exec (.smix i kvh layer paddr oaddr mask nqh) s =
      .next (smixAll i kvh layer (offset s i 2 paddr) (offset s i 2 oaddr) mask nqh l s) := by
  change execSmix i kvh layer paddr oaddr mask nqh s = _
  exact attOp_of_attRuns (op := smixAll i kvh layer (offset s i 2 paddr) (offset s i 2 oaddr) mask nqh) _ h
    (by rw [hok, decide_eq_true ho, Bool.and_self]) rfl

theorem smixAll_of_pages {s : State} {i : Iss} {layer mask : Nat} {l : Lane} {ps : List (Nat × Leaf)} (h : attPages s i.sid l layer mask = some ps)
    (kvh paddr oaddr nqh : Nat) : ∃ u, Walked s u i.sid ∧ smixAll i kvh layer paddr oaddr mask nqh l s =
      { u with core := { s.core with sram := wrBytes s.core.sram (attAddr i.sid oaddr) (mixBytes s i kvh layer paddr mask nqh l ps) } } := by
  obtain ⟨u, hu, hwalk⟩ := issuePages_of_pages h _
  refine ⟨u, hwalk, ?_⟩
  rw [smixAll, hu]
  obtain ⟨⟨q, a, b, rfl⟩, -, -⟩ := hwalk
  rfl

end Sys2Proof.Machine
end

section
/-! KVPUT (R269, R270): one position into its page. -/

namespace Sys2Proof.Machine

theorem exec_kvput {i : Iss} {kvh layer kaddr : Nat} {s : State} {l : Lane} (h : attRuns s i l) (hok : attOk kvh layer kaddr 0 1 = true) :
    exec (.kvput i kvh layer kaddr) s = .next (kvputAll i kvh layer (offset s i 2 kaddr) l s) := by
  change execKvput i kvh layer kaddr s = _
  exact attOp_of_attRuns (op := kvputAll i kvh layer (offset s i 2 kaddr)) _ h hok rfl

/-- The pages of one position: its own, where the cluster holds it. -/
theorem kvput_pages (ctx c : Nat) : ((List.range ((ctx + 1 + 255) / 256)).filter fun j => decide (ctx / 256 ≤ j) && j % 4 == c) =
    if ctx / 256 % 4 = c then [ctx / 256] else [] := by
  have hlow : (List.range (ctx / 256)).filter (fun j => decide (ctx / 256 ≤ j) && j % 4 == c) = [] := by
    refine List.filter_eq_nil_iff.mpr fun j hj => ?_
    have := List.mem_range.mp hj
    simp only [Bool.and_eq_true, decide_eq_true_eq, not_and]
    omega
  rw [show (ctx + 1 + 255) / 256 = ctx / 256 + 1 by omega, List.range_succ, List.filter_append, hlow, List.nil_append, List.filter_cons, List.filter_nil]
  simp

/-- One position of one FP8 kind in its page: its bytes in its slot, and the count of saturated elements. -/
def putKind (i : Iss) (kvh layer kaddr t : Nat) (p : Leaf) (u : State) (kind : Nat) : State :=
  let b := kvBytes u i.sid kaddr 0 kind p (pageScale u p kvh kind)
  { u with
    kv := { u.kv with near := wrBytes u.kv.near (nearAddr (attDie i.sid) p.frame (elemOff p kvh kind t 0)) b.1 }
    glz := { u.glz with kvNew := tmod 0 u.glz.kvNew (i.seg * 128 + layer) (· + b.2.2) } }

theorem near_putKind (i : Iss) (kvh layer kaddr t : Nat) (p : Leaf) (u : State) (kind : Nat) : (putKind i kvh layer kaddr t p u kind).kv.near =
    wrBytes u.kv.near (nearAddr (attDie i.sid) p.frame (elemOff p kvh kind t 0)) (kvBytes u i.sid kaddr 0 kind p (pageScale u p kvh kind)).1 := rfl

theorem putPos_of_fp8 {p : Leaf} (hmx : p.mx = false) (i : Iss) (kvh layer kaddr : Nat) (l : Lane) (s : State) :
    putPos i kvh layer kaddr l p s 0 =
      putKind i kvh layer kaddr (l.ctx % 256) p (putKind i kvh layer kaddr (l.ctx % 256) p s 0) 1 := by
  simp only [putPos, List.foldl_cons, List.foldl_nil, putKind, hmx, Nat.add_zero]
  rfl

/-- The FP8 bytes of a position. -/
theorem kvBytes_of_fp8 {p : Leaf} (hmx : p.mx = false) (s : State) (sid kaddr kind : Nat) (sc : Half) :
    (kvBytes s sid kaddr 0 kind p sc).1 = (List.range 128).map fun d => (fp8Elem (kvIn s sid kaddr 0 kind d) sc).1 := by
  simp [kvBytes, hmx]

/-- A leaf entry outside the frame it names. -/
def leafApart (n : Nat) (p : Leaf) : Prop := p.addr + 96 ≤ nearAddr n p.frame 0 ∨ nearAddr n p.frame 0 + 524288 ≤ p.addr

theorem nearAddr_eq (n frame off : Nat) : nearAddr n frame off = nearAddr n frame 0 + off := by simp [nearAddr]

theorem elemOff_of_fp8 {p : Leaf} (hmx : p.mx = false) (kvh kind t d : Nat) : elemOff p kvh kind t d = kvh * 65536 + kind * 32768 + 128 * t + d := by
  simp [elemOff, hmx]

/-- The bytes of a kind stand in its slot, and everything else of the near tier is as it was. -/
theorem rdByte_putKind {p : Leaf} (hmx : p.mx = false) (i : Iss) (kvh layer kaddr t : Nat) (u : State) (kind : Nat) :
    (∀ d, d < 128 → rdByte (putKind i kvh layer kaddr t p u kind).kv.near (nearAddr (attDie i.sid) p.frame (elemOff p kvh kind t 0) + d) =
      (fp8Elem (kvIn u i.sid kaddr 0 kind d) (pageScale u p kvh kind)).1) ∧
    ∀ a, a < nearAddr (attDie i.sid) p.frame (elemOff p kvh kind t 0) ∨ nearAddr (attDie i.sid) p.frame (elemOff p kvh kind t 0) + 128 ≤ a →
      rdByte (putKind i kvh layer kaddr t p u kind).kv.near a = rdByte u.kv.near a := by
  have hbytes := kvBytes_of_fp8 hmx u i.sid kaddr kind (pageScale u p kvh kind)
  refine ⟨fun d hd => ?_, fun a ha => ?_⟩
  · have hlen : d < (kvBytes u i.sid kaddr 0 kind p (pageScale u p kvh kind)).1.length := by rw [hbytes]; simpa using hd
    rw [near_putKind, rdByte_wrBytes_in _ _ d _ hlen]
    simp [hbytes]
  · rw [near_putKind, rdByte_wrBytes_out _ _ _ _ (by rw [hbytes]; simpa using ha)]

/-- A leaf entry apart from its frame keeps its scales. -/
theorem pageScale_putKind {p : Leaf} (hmx : p.mx = false) {i : Iss} (hap : leafApart (attDie i.sid) p) {kvh kind : Nat} (hkvh : kvh < 8)
    (hkind : kind < 2) (layer kaddr : Nat) {t : Nat} (ht : t < 256) (u : State) {k : Nat} (hk : k < 2) :
    pageScale (putKind i kvh layer kaddr t p u kind) p kvh k = pageScale u p kvh k := by
  refine rdHalf_congr fun j h1 h2 => (rdByte_putKind hmx i kvh layer kaddr t u kind).2 j ?_
  rw [nearAddr_eq, elemOff_of_fp8 hmx]
  unfold leafApart at hap
  omega

/-- One position of keys and values in its page. -/
theorem putPos_spec {p : Leaf} (hmx : p.mx = false) {i : Iss} (hap : leafApart (attDie i.sid) p) {kvh : Nat} (hkvh : kvh < 8) (layer kaddr : Nat)
    (l : Lane) (u : State) :
    (putPos i kvh layer kaddr l p u 0).core = u.core ∧ (putPos i kvh layer kaddr l p u 0).kv.wrote = u.kv.wrote ∧
    (∀ k, k < 2 → pageScale (putPos i kvh layer kaddr l p u 0) p kvh k = pageScale u p kvh k) ∧
    ∀ kind d, kind < 2 → d < 128 →
      rdByte (putPos i kvh layer kaddr l p u 0).kv.near (nearAddr (attDie i.sid) p.frame (elemOff p kvh kind (l.ctx % 256) 0) + d) =
        (fp8Elem (kvIn u i.sid kaddr 0 kind d) (pageScale u p kvh kind)).1 := by
  have ht : l.ctx % 256 < 256 := Nat.mod_lt _ (by decide)
  rw [putPos_of_fp8 hmx]
  refine ⟨rfl, rfl, fun k hk => ?_, fun kind d hkind hd => ?_⟩
  · rw [pageScale_putKind hmx hap hkvh (by decide) _ _ ht _ hk, pageScale_putKind hmx hap hkvh (by decide) _ _ ht _ hk]
  · obtain rfl | rfl : kind = 0 ∨ kind = 1 := by omega
    · rw [(rdByte_putKind hmx i kvh layer kaddr (l.ctx % 256) _ 1).2 _ (by rw [nearAddr_eq, nearAddr_eq _ _ (elemOff p kvh 1 _ _), elemOff_of_fp8 hmx, elemOff_of_fp8 hmx]; omega)]
      exact (rdByte_putKind hmx i kvh layer kaddr (l.ctx % 256) u 0).1 d hd
    · refine ((rdByte_putKind hmx i kvh layer kaddr (l.ctx % 256) _ 1).1 d hd).trans ?_
      rw [pageScale_putKind hmx hap hkvh (by decide) _ _ ht _ (by decide)]
      rfl

/-- The scales after the first KVPUT of the attempt into an open page. -/
theorem setScales_spec {p : Leaf} (hmx : p.mx = false) (sid kvh kaddr layer j : Nat) (l : Lane) (ps : List Nat) (s : State) :
    (setScales sid kvh kaddr layer j l p ps s).core = s.core ∧
    (opensPage s p (sid, l.lane, layer * 2048 + j, kvh) = false → setScales sid kvh kaddr layer j l p ps s = s) ∧
    (opensPage s p (sid, l.lane, layer * 2048 + j, kvh) = true →
      pageScale (setScales sid kvh kaddr layer j l p ps s) p kvh 0 =
        newScale (nth 0 (attnRec s l.canvas layer).kscl (kvh * 8 + attDie sid)) (pageMax s sid kaddr 0 ps) ∧
      pageScale (setScales sid kvh kaddr layer j l p ps s) p kvh 1 =
        newScale (nth 0 (attnRec s l.canvas layer).vscl (kvh * 8 + attDie sid)) (pageMax s sid kaddr 1 ps)) := by
  unfold setScales
  dsimp only
  cases hopen : opensPage s p (sid, l.lane, layer * 2048 + j, kvh) with
  | false => simp
  | true =>
    rw [hmx, if_neg (by simp)]
    refine ⟨rfl, fun h => absurd h (by decide), fun _ => ⟨?_, ?_⟩⟩
    · exact (rdHalf_wrHalf_out _ _ _ _ (by omega)).trans (rdHalf_wrHalf ..)
    · rw [pageScale, show p.addr + 16 + 4 * kvh + 2 * 1 = p.addr + 18 + 4 * kvh by omega]
      exact rdHalf_wrHalf ..

/-- The module after the walk of the position's page. -/
def putWalked (s : State) (i : Iss) (layer : Nat) (l : Lane) (j : Nat) : State :=
  noteAccess i.sid l.lane layer j (touchWalk (sidCluster i.sid) l.ptroot layer j s)

/-- The page's own update. -/
def putScaled (s : State) (i : Iss) (kvh layer kaddr : Nat) (l : Lane) (p : Leaf) (j : Nat) : State :=
  setScales i.sid kvh kaddr layer j l p [0] (putWalked s i layer l j)

/-- A page of the die written in this attempt. -/
def markWrote (key : Nat × Nat × Nat × Nat) (s : State) : State :=
  { s with kv := { s.kv with wrote := if s.kv.wrote.contains key then s.kv.wrote else s.kv.wrote ++ [key] } }

theorem mem_markWrote (key : Nat × Nat × Nat × Nat) (s : State) : key ∈ (markWrote key s).kv.wrote := by
  unfold markWrote
  dsimp only
  split
  case isTrue h => exact List.contains_iff_mem.mp h
  case isFalse => simp

theorem putPage_of_walk {s : State} {i : Iss} {layer : Nat} {l : Lane} {p : Leaf} (hphase : (seqOf s i.sid).phase = 1) (hn : l.npos = 1)
    (hwalk : walkPage s (attDie i.sid) l.ptn l.ptroot layer (l.ctx / 256) = .at p) (kvh kaddr : Nat) :
    putPage i kvh layer kaddr l s (l.ctx / 256) = markWrote (attDie i.sid, l.lane, layer, l.ctx / 256)
      (putPos i kvh layer kaddr l p (putScaled s i kvh layer kaddr l p (l.ctx / 256)) 0) := by
  have hwalk' : walkPage (putWalked s i layer l (l.ctx / 256)) (attDie i.sid) l.ptn l.ptroot layer (l.ctx / 256) = .at p := hwalk
  have hpos : ((List.range l.npos).filter fun p => (l.ctx + p) / 256 == l.ctx / 256) = [0] := by simp [hn]
  unfold putPage
  rw [hphase, if_neg (by decide)]
  dsimp only
  rw [hpos]
  change (match walkPage (putWalked s i layer l (l.ctx / 256)) (attDie i.sid) l.ptn l.ptroot layer (l.ctx / 256) with
    | .fault c => seqFault i.sid c (putWalked s i layer l (l.ctx / 256)) | .at q => _) = _
  rw [hwalk']
  rfl

theorem phase_of_runsAt {s : State} {i : Iss} {reads : Bool} (h : runsAt s i reads = true) : (seqOf s i.sid).phase = 1 := by
  have hin := inStep_of_issuing (runsAt_iff.mp h).2.2.1
  simp only [inStep, Bool.and_eq_true, beq_iff_eq] at hin
  exact hin.1

/-- Settles O23: the rows of SNORM and SMIX lie one after another; the two slots of a position lie apart from each other and from the page's scales. -/
theorem attentionRows : Obligations.AttentionRows := by
  unfold Obligations.AttentionRows
  refine ⟨?_, ?_, ?_⟩
  · intro i sbuf paddr nqh s l hatt hok hsbuf lam rows tail m
    obtain ⟨hcore, hkv⟩ := countBound_frame i sbuf rows l s
    obtain ⟨hsram, hscores⟩ := snormRows_frame i sbuf (offset s i 2 paddr) rows (List.range rows) (fun r hr => List.mem_range.mp hr)
      (countBound i sbuf rows l s)
    have hall : snormAll i sbuf (offset s i 2 paddr) nqh l s =
        (List.range rows).foldl (snormRow i sbuf (offset s i 2 paddr) rows) (countBound i sbuf rows l s) := rfl
    have htail : rowPairAt (countBound i sbuf rows l s) i.sid sbuf rows 0 = tail := by
      rw [rowPairAt, lamOf_congr hkv, Nat.mul_zero, Nat.add_zero]
    refine ⟨_, exec_snorm hatt hok hsbuf, co_snormAll _ _ _ _ _ s (by decide) (co_refl _ s), fun a ha => ?_, fun a ha => ?_, fun hone => ?_⟩
    · rw [lamOf_congr hkv] at hsram
      rw [hall, hsram a ha, hcore]
    · rw [htail] at hscores
      rw [hall, hscores a ha, hkv]
    · obtain ⟨hm, hz, hp⟩ := snormRow_reads i sbuf (offset s i 2 paddr) (countBound i sbuf rows l s)
      rw [← hone, htail, rowStats_congr hkv] at hm hz
      rw [hall, show List.range rows = [0] from congrArg List.range hone, List.foldl_cons, List.foldl_nil]
      refine ⟨hm, hz, fun k hk => ?_⟩
      have hprob := hp k (by rwa [lamOf_congr hkv])
      rw [← hone, rowProb_congr hkv] at hprob
      exact hprob
  · intro i kvh layer paddr oaddr mask nqh s l ps hatt hok ho hps
    obtain ⟨u, hwalk, hall⟩ := smixAll_of_pages hps kvh (offset s i 2 paddr) (offset s i 2 oaddr) nqh
    have hexec := exec_smix hatt hok ho
    rw [hall] at hexec
    refine ⟨_, hexec, co_set_core _ (by decide) (changesOnly_walked (by decide) hwalk), rfl, fun p h d hp hh hd => ?_, fun a ha => ?_⟩
    · exact rdPair_mixBytes s i kvh layer (offset s i 2 paddr) mask nqh l ps hp hh hd ..
    · exact rdByte_wrBytes_out _ _ _ _ (by rwa [length_mixBytes])
  · intro i kvh layer kaddr s l p hatt hok hwin hn n j key
    have hexec := exec_kvput (layer := layer) hatt hok
    rw [kvputAll, hwin, if_neg (by decide)] at hexec
    dsimp only at hexec
    rw [hn, kvput_pages] at hexec
    refine ⟨fun hne => ?_, fun heq hwalk hmx hap => ?_⟩
    · rw [hexec, if_neg hne]
      rfl
    · rw [if_pos heq, List.foldl_cons, List.foldl_nil, putPage_of_walk (phase_of_runsAt hatt.2.1) hn hwalk] at hexec
      have hkvh : kvh < 8 := by
        simp only [attOk, Bool.and_eq_true, decide_eq_true_eq] at hok
        exact hok.1.1.1.1.1
      obtain ⟨hscore, hkeep, hset⟩ := setScales_spec hmx i.sid kvh (offset s i 2 kaddr) layer (l.ctx / 256) l [0] (putWalked s i layer l (l.ctx / 256))
      obtain ⟨hcore, hwrote, hscale, hbytes⟩ := putPos_spec hmx hap hkvh layer (offset s i 2 kaddr) l
        (putScaled s i kvh layer (offset s i 2 kaddr) l p (l.ctx / 256))
      refine ⟨_, hexec, hcore.trans hscore, mem_markWrote .., fun kind d hkind hd => ?_, fun hopen => ⟨?_, ?_⟩, fun hopen => ⟨?_, ?_⟩⟩
      · refine (hbytes kind d hkind hd).trans ?_
        rw [← hscale kind hkind]
        congr 2
        simp only [kvIn, putScaled, hscore]
        rfl
      · refine (hscale 0 (by decide)).trans ?_
        rw [putScaled, hkeep hopen]
        rfl
      · refine (hscale 1 (by decide)).trans ?_
        rw [putScaled, hkeep hopen]
        rfl
      · exact (hscale 0 (by decide)).trans (hset hopen).1
      · exact (hscale 1 (by decide)).trans (hset hopen).2

end Sys2Proof.Machine
end

section
/-! The head sequencers (R215, R304, R311, R312, R317): verdicts and drafts. -/

namespace Sys2Proof.Machine

theorem headOp_of_headRuns {s : State} {i : Iss} {l : Lane} (c : Instr) {run : State → State} {op : Lane → State → State} (h : headRuns s i l)
    {ok : Bool} (hok : ok = true) (hop : run s = laneOp i op s) : headOp c i ok run s = .next (op l s) := by
  obtain ⟨hsid, hrun, p, hl⟩ := h
  obtain ⟨-, hpart, hiss, -⟩ := runsAt_iff.mp hrun
  rw [headOp, hsid, hok, Bool.and_self, slotOp_of_issuing c _ hpart hiss, hop, laneOp_of_curLane op hrun hl]

/-- The step in flight with one more verdict, which replaces an earlier one of its lane. -/
def withVerdict (c : StepRec) (v : Verdict) : StepRec := { c with verdicts := c.verdicts.filter (·.lane != v.lane) ++ [v] }

theorem setVerdict_of_cur {s : State} {c : StepRec} (h : s.sch.cur = some c) (v : Verdict) :
    setVerdict v s = { s with sch := { s.sch with cur := some (withVerdict c v) } } := by
  rw [setVerdict, modCur, h]
  rfl

/-! ## VRFY -/

/-- The path only grows. -/
theorem length_le_vrfyWalk (s : State) (l : Lane) (laddr p : Nat) (path : List Nat) (n : Nat) : path.length ≤ (vrfyWalk s l laddr p path n).1.length := by
  induction n generalizing p path with
  | zero => exact Nat.le_refl _
  | succ n ih =>
    rw [vrfyWalk]
    split
    · exact Nat.le_trans (by simp) (ih _ _)
    · exact Nat.le_refl _

/-- The verdict of VRFY. -/
def vrfyVerdict (s : State) (l : Lane) (laddr daddr : Nat) : Verdict :=
  let w := vrfyWalk s l laddr 0 [0] 8
  { lane := l.lane, acc := w.1.length - 1, bonus := w.2, path := w.1, toks := (w.1.drop 1).map (fun k => nth 0 l.inputs k) ++ [w.2],
    ghit := ghitOf s l.lane w.2, daddr := some daddr }

theorem vrfyAll_of_widthOk {s : State} {i : Iss} (hw : widthOk s i = true) (laddr daddr : Nat) (l : Lane) :
    vrfyAll i laddr daddr l s =
      { setVerdict (vrfyVerdict s l laddr daddr) s with
        core := { s.core with sram := wrBytes s.core.sram (headAddr i.sid daddr) (vrfyBytes (vrfyVerdict s l laddr daddr)) } } := by
  rw [vrfyAll, checkWidth, hw, if_pos rfl]
  rfl

/-! ## Drafts -/

theorem length_children_le (ns : List Node) (k room : Nat) (cs : List (Nat × Word)) : (children ns k room cs).length ≤ room := by
  simp only [children, List.length_map, List.length_take]
  omega

theorem length_growTree_le {n : Nat} (cs : List (List (Nat × Word))) (ns : List Node) (done : List Nat) (h : ns.length ≤ n) :
    (growTree n cs ns done).length ≤ n := by
  induction cs generalizing ns done with
  | nil => exact h
  | cons c rest ih =>
    rw [growTree]
    split
    · exact h
    · split
      · exact h
      · refine ih _ _ ?_
        rw [List.length_append]
        have := length_children_le ns ‹_› (n - ns.length) c
        omega

theorem length_growLine_le {n : Nat} (cs : List (List (Nat × Word))) (ns : List Node) (h : ns.length ≤ n) : (growLine n cs ns).length ≤ n := by
  induction cs generalizing ns with
  | nil => exact h
  | cons c rest ih =>
    unfold growLine
    split
    · exact h
    · split
      · exact h
      · refine ih _ ?_
        rw [List.length_append]
        exact Nat.le_trans (Nat.add_le_add_left (length_children_le ..) _) (by omega)

theorem length_draftOf_le {n : Nat} (hn : 1 ≤ n) (tree : Nat) (cands : List (List (Nat × Word))) : (draftOf n tree cands).length ≤ n := by
  unfold draftOf
  split
  · dsimp only
    split
    · exact length_growTree_le _ _ _ hn
    · exact length_growLine_le _ _ hn
  · exact Nat.zero_le n

/-- Settles O24: each of the three is an update of the step's verdicts, or of the lane's draft, and one run of bytes. -/
theorem headVerdicts : Obligations.HeadVerdicts := by
  unfold Obligations.HeadVerdicts
  intro i s l c hrun hc
  refine ⟨?_, ?_, ?_⟩
  · intro laddr pos hl hp ls
    have hexec : exec (.samp i laddr pos) s = .next (sampAll (offset s i 2 laddr) pos l s) := by
      change execSamp i laddr pos s = _
      exact headOp_of_headRuns (op := sampAll (offset s i 2 laddr) pos) _ hrun (by simp [*]) rfl
    rw [sampAll, setVerdict_of_cur hc] at hexec
    exact ⟨_, _, hexec, rfl, rfl, rfl, rfl, rfl⟩
  · intro laddr daddr tree hl hd ht hw w
    have hexec : exec (.vrfy i laddr daddr tree) s =
        .next (vrfyAll i (offset s i 2 laddr) (offset s i 2 daddr) { l with ctl := { l.ctl with tree := tree } } s) := by
      change execVrfy i laddr daddr tree s = _
      exact headOp_of_headRuns
        (op := fun l => vrfyAll i (offset s i 2 laddr) (offset s i 2 daddr) { l with ctl := { l.ctl with tree := tree } }) _ hrun (by simp [*]) rfl
    rw [vrfyAll_of_widthOk hw] at hexec
    have hpos : 1 ≤ w.1.length := length_le_vrfyWalk s _ _ 0 [0] 8
    exact ⟨_, _, hexec, co_set_core (L := [.core, .sch]) _ (by decide) (co_setVerdict _ s (by decide) (co_refl _ s)),
      congrArg (·.sch.cur) (setVerdict_of_cur hc (vrfyVerdict s _ _ _)), rfl, rfl, Nat.sub_add_cancel hpos, rfl, rfl,
      bytesAt_wrBytes ..⟩
  · intro nprop tree daddr cands h1 hn ht hd
    have hexec : exec (.skdr i nprop tree daddr cands) s = .next (skdrAll i nprop tree (offset s i 2 daddr) cands l s) := by
      change execSkdr i nprop tree daddr cands s = _
      exact headOp_of_headRuns (op := skdrAll i nprop tree (offset s i 2 daddr) cands) _ hrun
        (by rw [decide_eq_true h1, decide_eq_true hn, decide_eq_true ht, decide_eq_true hd]; rfl) rfl
    refine ⟨fun hno => by rw [hexec, skdrAll, if_pos hno], fun h2 hsrc => ?_⟩
    rw [skdrAll, if_neg (by omega)] at hexec
    have hdraft : ∀ d, tget [] (tput [] s.head.drafts l.lane d) l.lane = d := fun d => tget_tput_same ..
    refine ⟨_, hexec, co_set_core_head _ _ (by decide) (co_refl _ s), hdraft _, ?_, ?_⟩
    · exact (congrArg List.length (hdraft _)).le.trans (length_draftOf_le (by omega) tree cands)
    · dsimp only
      rw [hdraft]
      exact bytesAt_wrBytes ..

end Sys2Proof.Machine
end

section
/-! A table put twice, and the words of tokens (R232). -/

namespace Sys2Proof.Machine

theorem filter_tins {α : Type} (k : Nat) (v : α) (t : Tab α) (h : ∀ e ∈ t, e.1 ≠ k) : (tins k v t).filter (fun e => e.1 != k) = t := by
  induction t with
  | nil => simp [tins]
  | cons e t ih =>
    obtain ⟨k0, v0⟩ := e
    have hk0 : k0 ≠ k := h (k0, v0) (List.mem_cons_self ..)
    have ht : ∀ e ∈ t, e.1 ≠ k := fun e he => h e (List.mem_cons_of_mem _ he)
    rw [tins]
    split
    · simpa [hk0] using ht
    · simp [hk0, ih ht]

/-- The last value put at a key is the one that stands. -/
theorem tput_tput {α : Type} [DecidableEq α] (d : α) (t : Tab α) (k : Nat) (v w : α) : tput d (tput d t k v) k w = tput d t k w := by
  have hdrop : (tput d t k v).filter (fun e => e.1 != k) = t.filter fun e => e.1 != k := by
    unfold tput
    dsimp only
    split
    · simp
    · exact filter_tins _ _ _ (by simp)
  change (if w = d then (tput d t k v).filter _ else tins k w ((tput d t k v).filter _)) = _
  rw [hdrop]
  rfl

theorem modSeq_modSeq (sid : Nat) (f g : Seq → Seq) (s : State) : modSeq sid g (modSeq sid f s) = modSeq sid (fun q => g (f q)) s := by
  have htab : tmod Seq.init (tmod Seq.init s.seq.seqs sid f) sid g = tmod Seq.init s.seq.seqs sid fun q => g (f q) := by
    rw [tmod, tget_tmod_same, tmod, tput_tput, tmod]
  simp only [modSeq, htab]

/-- The 96 bits of a token spell it again. -/
theorem tokenOfWord_tokenWord {tok : Token} {k : Nat} (h : tokenOk tok k = true) (hk : k < 16) :
    tokenWord tok < 2 ^ 96 ∧ tokenOfWord (tokenWord tok) tok.plane = tok := by
  simp only [tokenOk, Bool.and_eq_true, beq_iff_eq, decide_eq_true_eq] at h
  obtain ⟨⟨⟨⟨⟨⟨hkind, hatt⟩, hstep⟩, hsrc⟩, hseq⟩, harg⟩, -⟩ := h
  obtain ⟨kind, att, step, src, seq, arg, plane⟩ := tok
  simp only [tokenWord, tokenOfWord, Token.mk.injEq] at *
  refine ⟨by omega, by omega, by omega, by omega, by omega, by omega, by omega, trivial⟩

end Sys2Proof.Machine
end

section
/-! Tokens that arrive at sequencers (R28, R234 to R237, R242). -/

namespace Sys2Proof.Machine

/-! ## Copies and order -/

/-- What the network carries of the same source and number is as much a second copy. -/
theorem isDup_congr {q : Seq} {t u : Token} (hsrc : u.src = t.src) (hseq : u.seq = t.seq) : isDup q u = isDup q t := by
  rw [isDup, isDup, hsrc, hseq]

/-- A second copy stands behind nothing. -/
theorem not_behind_of_isDup {s : State} {dest : Nat} {tok : Token} (h : isDup (seqOf s dest) tok = true) : behind s dest tok = false := by
  unfold behind
  dsimp only
  split
  case h_2 => rfl
  case h_1 e rest heq =>
    have hnone : rest.any (fun x => x.2.seq == tok.seq) = false := by
      refine List.any_eq_false.mpr fun x hx hseq => ?_
      have hmem : x ∈ s.seq.sent.filter fun e => e.1 == dest && e.2.src == tok.src && !isDup (seqOf s dest) e.2 := by
        rw [heq]
        exact List.mem_cons_of_mem _ hx
      have hkeep := (List.mem_filter.mp hmem).2
      simp only [Bool.and_eq_true, beq_iff_eq, Bool.not_eq_true'] at hkeep
      obtain ⟨⟨-, hsrc⟩, hdup⟩ := hkeep
      rw [isDup_congr hsrc (beq_iff_eq.mp hseq), h] at hdup
      exact Bool.noConfusion hdup
    rw [hnone, Bool.and_false]

theorem takeToken_of_isDup {s : State} {dest : Nat} {tok : Token} (h : isDup (seqOf s dest) tok = true) (act : State → State) :
    takeToken dest tok act s = { s with seq := { s.seq with sent := s.seq.sent.erase (dest, tok) } } := by
  simp [takeToken, not_behind_of_isDup h, h]

theorem takeToken_of_behind {s : State} {dest : Nat} {tok : Token} (h : behind s dest tok = true) (act : State → State) : takeToken dest tok act s = s := by
  simp [takeToken, h]

theorem takeToken_of_first {s : State} {dest : Nat} {tok : Token} (hdup : isDup (seqOf s dest) tok = false) (hbehind : behind s dest tok = false)
    (act : State → State) : takeToken dest tok act s = act (tokenTaken s dest tok) := by
  simp [takeToken, hdup, hbehind, tokenTaken]

/-! ## The module that has taken a token -/

theorem seqOf_tokenTaken_same (s : State) (dest : Nat) (tok : Token) :
    seqOf (tokenTaken s dest tok) dest = { seqOf s dest with seen := tput 0 (seqOf s dest).seen tok.src (tok.seq % 32768 + 1) } :=
  seqOf_modSeq_same dest _ { s with seq := { s.seq with sent := s.seq.sent.erase (dest, tok) } }

theorem otherSeqs_tokenTaken (s : State) (dest : Nat) (tok : Token) : otherSeqs s (tokenTaken s dest tok) dest :=
  otherSeqs_modSeq dest _ { s with seq := { s.seq with sent := s.seq.sent.erase (dest, tok) } }

theorem changesOnly_tokenTaken {L : List Part} (hL : sub [.seq] L = true) (s : State) (dest : Nat) (tok : Token) : changesOnly L s (tokenTaken s dest tok) :=
  co_modSeq _ _ _ hL (co_set_seq _ hL (co_refl _ s))

theorem planesUp_tokenTaken {s : State} (h : planesUp s) (dest : Nat) (tok : Token) : planesUp (tokenTaken s dest tok) := h

theorem calm_tokenTaken (s : State) (dest : Nat) (tok : Token) : calm (tokenTaken s dest tok) dest = calm s dest := by
  rw [calm, seqOf_tokenTaken_same, calm]

theorem current_tokenTaken (s : State) (dest : Nat) (tok : Token) : current (tokenTaken s dest tok) dest tok = current s dest tok := by
  rw [current, seqOf_tokenTaken_same, current]

/-- The tables of a sequencer follow from the step it is in. -/
theorem tableOf_congr {s t : State} {sid : Nat} (hcnv : t.cnv = s.cnv) (hhist : t.hist = s.hist) (hcanvas : (seqOf t sid).canvas = (seqOf s sid).canvas)
    (htmpl : (seqOf t sid).tmpl = (seqOf s sid).tmpl) (hvar : (seqOf t sid).var = (seqOf s sid).var) : tableOf t sid = tableOf s sid := by
  simp only [tableOf, variantOf, cnvOf, tableSid, roleOf, hcnv, hhist, hcanvas, htmpl, hvar]

theorem tableOf_tokenTaken (s : State) (dest : Nat) (tok : Token) : tableOf (tokenTaken s dest tok) dest = tableOf s dest :=
  tableOf_congr rfl rfl (by rw [seqOf_tokenTaken_same]) (by rw [seqOf_tokenTaken_same]) (by rw [seqOf_tokenTaken_same])

theorem resumeCredits_congr {s t : State} {sid : Nat} (h : tableOf t sid = tableOf s sid) (seg : Nat) : resumeCredits t sid seg = resumeCredits s sid seg := by
  simp only [resumeCredits, creditTable, h]

/-! ## What a sequencer's token does -/

theorem seqToken_eq {dest : Nat} {tok : Token} {kind : Nat} {s : State} (hsid : isSid dest = true) (hok : tokenOk tok kind = true)
    (hpart : takesPart s dest = true) (act : State → State) : seqToken dest tok kind act s = .next (takeToken dest tok act s) := by
  rw [seqToken, hsid, hok, hpart]
  rfl

theorem seqToken_of_arrives {dest : Nat} {tok : Token} {kind : Nat} {s : State} (h : arrives s dest tok kind) (act : State → State) :
    seqToken dest tok kind act s = .next (act (tokenTaken s dest tok)) := by
  obtain ⟨hsid, hok, hpart, hdup, hbehind⟩ := h
  rw [seqToken_eq hsid hok hpart, takeToken_of_first hdup hbehind]

/-- What a token of the current step and attempt only does. -/
def ifCurrent (dest : Nat) (tok : Token) (act : State → State) (u : State) : State := if current u dest tok then act u else u

theorem currentToken_of_arrives {dest : Nat} {tok : Token} {kind : Nat} {s : State} (h : arrives s dest tok kind) (hcur : current s dest tok = true)
    (act : State → State) : currentToken dest tok kind act s = .next (act (tokenTaken s dest tok)) := by
  rw [currentToken, seqToken_of_arrives h]
  simp only [current_tokenTaken, hcur, if_true]

theorem nextAttempt_tokenTaken (s : State) (dest : Nat) (tok : Token) : nextAttempt (tokenTaken s dest tok) dest tok = nextAttempt s dest tok := by
  rw [nextAttempt, seqOf_tokenTaken_same, nextAttempt]

theorem ifCurrent_of_ne {s : State} {dest : Nat} {tok : Token} (h : tok.step ≠ (seqOf s dest).step ∨ tok.att ≠ (seqOf s dest).att) (act : State → State) :
    ifCurrent dest tok act (tokenTaken s dest tok) = tokenTaken s dest tok := by
  have hcur : current s dest tok = false := by
    rcases h with h | h <;> simp [current, h]
  rw [ifCurrent, current_tokenTaken, hcur]
  rfl

/-- What a token of the receiver's next attempt only does. -/
def ifNext (dest : Nat) (tok : Token) (act : State → State) (u : State) : State := if nextAttempt u dest tok then act u else u

theorem ifNext_of_ne {s : State} {dest : Nat} {tok : Token} (h : tok.step ≠ (seqOf s dest).step) (act : State → State) :
    ifNext dest tok act (tokenTaken s dest tok) = tokenTaken s dest tok := by
  have hnext : nextAttempt s dest tok = false := by simp [nextAttempt, h]
  rw [ifNext, nextAttempt_tokenTaken, hnext]
  rfl

/-- A token and its command. -/
def tokenCmds (dest : Nat) (tok : Token) : List (Instr × Nat) :=
  [(.syncToken dest tok, 0), (.credit dest tok, 1), (.stepBoundary dest tok, 2), (.retract dest tok, 5), (.rewind dest tok, 6),
    (.resumeToken dest tok, 8), (.laneKill dest tok, 10), (.abandon dest tok, 12)]

/-- Each of these commands is its token's act; the act of another step's or attempt's token does nothing more. -/
theorem exec_of_tokenCmds {dest : Nat} {tok : Token} {c : Instr} {k : Nat} (h : (c, k) ∈ tokenCmds dest tok) (s : State) :
    ∃ act, exec c s = seqToken dest tok k act s ∧
      (k ≠ 2 → tok.step ≠ (seqOf s dest).step ∨ (k ∉ [6, 12] ∧ tok.att ≠ (seqOf s dest).att) →
        act (tokenTaken s dest tok) = tokenTaken s dest tok) := by
  simp only [tokenCmds, List.mem_cons, Prod.mk.injEq, List.not_mem_nil, or_false] at h
  rcases h with ⟨rfl, rfl⟩ | ⟨rfl, rfl⟩ | ⟨rfl, rfl⟩ | ⟨rfl, rfl⟩ | ⟨rfl, rfl⟩ | ⟨rfl, rfl⟩ | ⟨rfl, rfl⟩ | ⟨rfl, rfl⟩
  case inr.inr.inl => exact ⟨fun t => clearWalks dest (latchStep dest tok t), rfl, fun h2 => absurd rfl h2⟩
  case inr.inr.inr.inr.inl =>
    exact ⟨ifNext dest tok (quiesce dest (tok.arg % 128) tok.att true), rfl, fun _ ho => ifNext_of_ne (ho.resolve_right fun h => h.1 (by decide)) _⟩
  case inr.inr.inr.inr.inr.inr.inr =>
    exact ⟨ifNext dest tok (quiesce dest 0 tok.att false), rfl, fun _ ho => ifNext_of_ne (ho.resolve_right fun h => h.1 (by decide)) _⟩
  all_goals exact ⟨ifCurrent dest tok _, rfl, fun _ ho => ifCurrent_of_ne (ho.imp_right And.right) _⟩

/-! ## Sends and faults, as they leave the sequencer -/

theorem seqOf_sendTokens (src kind arg : Nat) (dests : List Nat) (s : State) :
    ∃ n, seqOf (dests.foldl (fun t d => sendToken src kind arg d t) s) src = { seqOf s src with sendSeq := n } := by
  induction dests generalizing s with
  | nil => exact ⟨_, rfl⟩
  | cons d ds ih =>
    obtain ⟨n, hn⟩ := ih (sendToken src kind arg d s)
    exact ⟨n, by rw [List.foldl_cons, hn, sendToken_eq_sendTagged, seqOf_sendTagged, if_pos rfl]⟩

theorem seqOf_sendRetract (sid seg flags : Nat) (s : State) : ∃ n, seqOf (sendRetract sid seg flags s) sid = { seqOf s sid with sendSeq := n } := by
  unfold sendRetract
  split
  · exact seqOf_sendTokens ..
  · exact ⟨_, rfl⟩

theorem otherSeqs_sendRetract (sid seg flags : Nat) (s : State) : otherSeqs s (sendRetract sid seg flags s) sid := by
  unfold sendRetract
  split
  · exact otherSeqs_sendTokens _ _ _ _ _
  · exact otherSeqs_refl _ _

theorem seqOf_seqFault (sid cause : Nat) (s : State) :
    seqOf (seqFault sid cause s) sid = { seqOf s sid with phase := 2, sendSeq := ((seqOf s sid).sendSeq + 1) % 2 ^ 15 } := by
  rw [seqFault, sendToken_eq_sendTagged, seqOf_sendTagged, if_pos rfl, seqOf_modSeq_same]

/-- A fault whose code the spec leaves open. -/
theorem seqFaultOpen_spec {s : State} (h : planesUp s) (sid : Nat) : otherSeqs s (seqFaultOpen sid s) sid ∧ calm (seqFaultOpen sid s) sid = calm s sid ∧
    (∃ n, seqOf (seqFaultOpen sid s) sid = { seqOf s sid with phase := 2, sendSeq := n }) ∧ sentTo (seqFaultOpen sid s) schedSid 11 := by
  obtain ⟨tok, hmem, hkind, -, -⟩ := sentTo_seqFault (s := (draw s).2) h sid ((draw s).1.toNat % 256)
  exact ⟨otherSeqs_seqFault sid _ (draw s).2, calm_seqFault sid _ (draw s).2 sid, ⟨_, seqOf_seqFault sid _ (draw s).2⟩, tok, hmem, hkind⟩

theorem tryWait_of_none {s : State} {sid : Nat} (h : (seqOf s sid).wait = .none) : tryWait sid s = s := by
  rw [tryWait, h]

/-! ## SYNC and CREDIT -/

theorem tokCtr_congr {s t : State} {sid : Nat} (h : tableOf t sid = tableOf s sid) (ch : Nat) : tokCtr t sid ch = tokCtr s sid ch := by
  simp only [tokCtr, h]

theorem credCtr_congr {s t : State} {sid : Nat} (h : tableOf t sid = tableOf s sid) (ch : Nat) : credCtr t sid ch = credCtr s sid ch := by
  simp only [credCtr, h]

/-- A counter with room goes up by one. -/
theorem syncOp_of_room {s : State} {dest ch : Nat} (hwait : (seqOf s dest).wait = .none) (h : tget 0 (seqOf s dest).tok (tokCtr s dest ch) < 255) :
    syncOp dest ch s = modSeq dest (fun q => { q with tok := tmod 0 q.tok (tokCtr s dest ch) (· + 1) }) s := by
  unfold syncOp
  dsimp only
  rw [if_neg (by omega), tryWait_of_none]
  rw [seqOf_modSeq_same]
  exact hwait

theorem syncOp_of_full {s : State} {dest ch : Nat} (h : 255 ≤ tget 0 (seqOf s dest).tok (tokCtr s dest ch)) : syncOp dest ch s = seqFaultOpen dest s :=
  if_pos h

theorem addCredit_of_room {s : State} {dest ch n : Nat} (h : tget 0 (seqOf s dest).cred ch + n ≤ 4095) :
    addCredit dest ch n s = modSeq dest (fun q => { q with cred := tmod 0 q.cred ch (· + n) }) s :=
  if_neg (by omega)

theorem addCredit_of_full {s : State} {dest ch n : Nat} (h : 4095 < tget 0 (seqOf s dest).cred ch + n) : addCredit dest ch n s = seqFaultOpen dest s :=
  if_pos h

/-! ## LANE_KILL -/

/-- The killed lanes of a sequencer with one more. -/
def withKilled (q : Seq) (lane : Nat) : Seq := { q with killed := if q.killed.contains lane then q.killed else q.killed ++ [lane] }

theorem mem_withKilled (q : Seq) (lane l : Nat) : l ∈ (withKilled q lane).killed ↔ l = lane ∨ l ∈ q.killed := by
  unfold withKilled
  dsimp only
  split
  case isTrue h =>
    refine ⟨Or.inr, fun hl => hl.elim (fun e => e ▸ List.contains_iff_mem.mp h) id⟩
  case isFalse => simp [or_comm]

/-- The strokes that a killed lane's have not begun are not stroked. -/
def dropLane (dest lane : Nat) (s : State) : State :=
  { s with arr := { s.arr with strokes := (s.arr.strokes.map fun e => (e.1, dropQueued dest lane [] e.2)).filter fun e => !e.2.isEmpty } }

theorem laneKillOp_eq (dest lane : Nat) (s : State) : laneKillOp dest lane s = settle dest (dropLane dest lane (modSeq dest (fun q => withKilled q lane) s)) :=
  rfl

theorem laneKillOp_of_calm {s : State} {dest : Nat} (h : calm s dest = true) (lane : Nat) :
    laneKillOp dest lane s = dropLane dest lane (modSeq dest (fun q => withKilled q lane) s) := by
  rw [laneKillOp_eq, settle_of_calm]
  refine Eq.trans (calm_modSeq dest (fun q => withKilled q lane) ?_ s dest) h
  exact fun _ => ⟨rfl, rfl⟩

/-! ## RETRACT and RESUME -/

/-- A retraction of a segment in a sequencer's record. -/
def withRetract (seg : Nat) (q : Seq) : Seq :=
  { q with stopSeg := some (match q.stopSeg with | some k => min k seg | none => seg), fwded := true }

theorem retractOp_eq (dest : Nat) (tok : Token) (s : State) : retractOp dest tok s =
    if (seqOf s dest).fwded then modSeq dest (withRetract (fld tok.arg 8 7)) s
    else sendRetract dest (fld tok.arg 8 7) (tok.arg % 256) (modSeq dest (withRetract (fld tok.arg 8 7)) s) := rfl

theorem modSeq_congr {sid : Nat} {f g : Seq → Seq} {s : State} (h : f (seqOf s sid) = g (seqOf s sid)) : modSeq sid f s = modSeq sid g s := by
  have htab : tmod Seq.init s.seq.seqs sid f = tmod Seq.init s.seq.seqs sid g := congrArg (tput Seq.init s.seq.seqs sid) h
  simp only [modSeq, htab]

end Sys2Proof.Machine
end

section
/-! The tokens of O25 one by one, on the module that has taken them off the network. -/

namespace Sys2Proof.Machine

variable {dest : Nat} {tok : Token} {s : State}

theorem sync_spec (harr : arrives s dest tok 0) (hcur : current s dest tok = true) (hwait : (seqOf s dest).wait = .none) (hcalm : calm s dest = true)
    (hup : planesUp s) {k : Nat} (hk : k = tokCtr s dest (tok.arg % 4096)) :
    ∃ t, exec (.syncToken dest tok) s = .next t ∧ otherSeqs s t dest ∧
      (tget 0 (seqOf s dest).tok k < 255 → tget 0 (seqOf t dest).tok k = tget 0 (seqOf s dest).tok k + 1 ∧ changesOnly [.seq] s t) ∧
      (255 ≤ tget 0 (seqOf s dest).tok k → (seqOf t dest).tok = (seqOf s dest).tok ∧ (seqOf t dest).phase = 2 ∧ sentTo t schedSid 11) := by
  have hseq := seqOf_tokenTaken_same s dest tok
  have hcalmT : calm (tokenTaken s dest tok) dest = true := (calm_tokenTaken s dest tok).trans hcalm
  have hctr : tokCtr (tokenTaken s dest tok) dest (tok.arg % 4096) = k := (tokCtr_congr (tableOf_tokenTaken s dest tok) _).trans hk.symm
  have hexec : exec (.syncToken dest tok) s = .next (settle dest (syncOp dest (tok.arg % 4096) (tokenTaken s dest tok))) :=
    currentToken_of_arrives harr hcur fun t => settle dest (syncOp dest (tok.arg % 4096) t)
  by_cases hroom : tget 0 (seqOf s dest).tok k < 255
  · have hcalmK : calm (modSeq dest (fun q => { q with tok := tmod 0 q.tok k (· + 1) }) (tokenTaken s dest tok)) dest = true := by
      refine Eq.trans (calm_modSeq dest _ ?_ _ dest) hcalmT
      exact fun _ => ⟨rfl, rfl⟩
    rw [syncOp_of_room (by rw [hseq]; exact hwait) (by rw [hctr, hseq]; exact hroom), hctr, settle_of_calm hcalmK] at hexec
    refine ⟨_, hexec, otherSeqs_trans (otherSeqs_tokenTaken s dest tok) (otherSeqs_modSeq dest _ _), fun _ => ⟨?_, ?_⟩, fun h => absurd hroom (by omega)⟩
    · rw [seqOf_modSeq_same, tget_tmod_same, hseq]
    · exact co_modSeq _ _ _ (by decide) (changesOnly_tokenTaken (by decide) s dest tok)
  · obtain ⟨hother, hcalmF, ⟨m, hseqF⟩, hsent⟩ := seqFaultOpen_spec (planesUp_tokenTaken hup dest tok) dest
    rw [syncOp_of_full (by rw [hctr, hseq]; exact Nat.le_of_not_lt hroom), settle_of_calm (hcalmF.trans hcalmT)] at hexec
    exact ⟨_, hexec, otherSeqs_trans (otherSeqs_tokenTaken s dest tok) hother, fun h => absurd h hroom,
      fun _ => ⟨by rw [hseqF, hseq], by rw [hseqF], hsent⟩⟩

theorem credit_spec (harr : arrives s dest tok 1) (hcur : current s dest tok = true) (hwait : (seqOf s dest).wait = .none) (hcalm : calm s dest = true)
    (hup : planesUp s) {k n : Nat} (hk : k = credCtr s dest (tok.arg % 4096)) (hn : n = fld tok.arg 12 4) :
    ∃ t, exec (.credit dest tok) s = .next t ∧ otherSeqs s t dest ∧
      (tget 0 (seqOf s dest).cred k + n ≤ 4095 → tget 0 (seqOf t dest).cred k = tget 0 (seqOf s dest).cred k + n ∧ changesOnly [.seq] s t) ∧
      (4095 < tget 0 (seqOf s dest).cred k + n → (seqOf t dest).cred = (seqOf s dest).cred ∧ (seqOf t dest).phase = 2 ∧ sentTo t schedSid 11) := by
  have hseq := seqOf_tokenTaken_same s dest tok
  have hcalmT : calm (tokenTaken s dest tok) dest = true := (calm_tokenTaken s dest tok).trans hcalm
  have hctr : credCtr (tokenTaken s dest tok) dest (tok.arg % 4096) = k := (credCtr_congr (tableOf_tokenTaken s dest tok) _).trans hk.symm
  have hexec : exec (.credit dest tok) s = .next (settle dest (tryWait dest (addCredit dest (credCtr (tokenTaken s dest tok) dest (tok.arg % 4096))
      (fld tok.arg 12 4) (tokenTaken s dest tok)))) :=
    currentToken_of_arrives harr hcur fun t => settle dest (tryWait dest (addCredit dest (credCtr t dest (tok.arg % 4096)) (fld tok.arg 12 4) t))
  rw [hctr, ← hn] at hexec
  by_cases hroom : tget 0 (seqOf s dest).cred k + n ≤ 4095
  · have hcalmK : calm (modSeq dest (fun q => { q with cred := tmod 0 q.cred k (· + n) }) (tokenTaken s dest tok)) dest = true := by
      refine Eq.trans (calm_modSeq dest _ ?_ _ dest) hcalmT
      exact fun _ => ⟨rfl, rfl⟩
    rw [addCredit_of_room (by rw [hseq]; exact hroom), tryWait_of_none (by rw [seqOf_modSeq_same, hseq]; exact hwait), settle_of_calm hcalmK] at hexec
    refine ⟨_, hexec, otherSeqs_trans (otherSeqs_tokenTaken s dest tok) (otherSeqs_modSeq dest _ _), fun _ => ⟨?_, ?_⟩, fun h => absurd hroom (by omega)⟩
    · rw [seqOf_modSeq_same, tget_tmod_same, hseq]
    · exact co_modSeq _ _ _ (by decide) (changesOnly_tokenTaken (by decide) s dest tok)
  · obtain ⟨hother, hcalmF, ⟨m, hseqF⟩, hsent⟩ := seqFaultOpen_spec (planesUp_tokenTaken hup dest tok) dest
    rw [addCredit_of_full (by rw [hseq]; exact Nat.lt_of_not_le hroom), tryWait_of_none (by rw [hseqF, hseq]; exact hwait),
      settle_of_calm (hcalmF.trans hcalmT)] at hexec
    exact ⟨_, hexec, otherSeqs_trans (otherSeqs_tokenTaken s dest tok) hother, fun h => absurd h hroom,
      fun _ => ⟨by rw [hseqF, hseq], by rw [hseqF], hsent⟩⟩

theorem retract_spec (harr : arrives s dest tok 5) (hcur : current s dest tok = true) :
    ∃ t, exec (.retract dest tok) s = .next t ∧ otherSeqs s t dest ∧ changesOnly [.seq] s t ∧ (seqOf t dest).fwded = true ∧
      (seqOf t dest).stopSeg = some (match (seqOf s dest).stopSeg with | some x => min x (fld tok.arg 8 7) | none => fld tok.arg 8 7) ∧
      ((seqOf s dest).fwded = true → t.seq.sent = s.seq.sent.erase (dest, tok)) := by
  have hseq := seqOf_tokenTaken_same s dest tok
  have hother := otherSeqs_trans (otherSeqs_tokenTaken s dest tok) (otherSeqs_modSeq dest (withRetract (fld tok.arg 8 7)) (tokenTaken s dest tok))
  have hexec : exec (.retract dest tok) s = .next (retractOp dest tok (tokenTaken s dest tok)) := currentToken_of_arrives harr hcur (retractOp dest tok)
  have hco : changesOnly [.seq] s (retractOp dest tok (tokenTaken s dest tok)) :=
    co_retractOp _ _ _ (by decide) (changesOnly_tokenTaken (by decide) s dest tok)
  rw [retractOp_eq, hseq] at hexec hco
  refine ⟨_, hexec, ?_, hco, ?_⟩
  · split
    · exact hother
    · exact otherSeqs_trans hother (otherSeqs_sendRetract _ _ _ _)
  · split
    case isTrue => exact ⟨by rw [seqOf_modSeq_same, withRetract], by rw [seqOf_modSeq_same, withRetract, hseq] <;> rfl, fun _ => rfl⟩
    case isFalse hf =>
      obtain ⟨m, hm⟩ := seqOf_sendRetract dest (fld tok.arg 8 7) (tok.arg % 256) (modSeq dest (withRetract (fld tok.arg 8 7)) (tokenTaken s dest tok))
      exact ⟨by rw [hm, seqOf_modSeq_same, withRetract], by rw [hm, seqOf_modSeq_same, withRetract, hseq] <;> rfl, fun h => absurd h hf⟩

theorem resume_spec (harr : arrives s dest tok 8) (hcur : current s dest tok = true) :
    ∃ t, exec (.resumeToken dest tok) s = .next t ∧ otherSeqs s t dest ∧ changesOnly [.seq] s t ∧
      ((seqOf s dest).phase = 2 → (seqOf t dest).phase = 1 ∧ (seqOf t dest).tok = [] ∧
        (seqOf t dest).cred = resumeCredits s dest (seqOf s dest).resumeSeg) ∧
      ((seqOf s dest).phase ≠ 2 → t = tokenTaken s dest tok) := by
  have hseq := seqOf_tokenTaken_same s dest tok
  have hexec : exec (.resumeToken dest tok) s = .next (resumeOp dest (tokenTaken s dest tok)) := currentToken_of_arrives harr hcur (resumeOp dest)
  refine ⟨_, hexec, otherSeqs_trans (otherSeqs_tokenTaken s dest tok) (otherSeqs_modSeq dest _ _),
    co_modSeq _ _ _ (by decide) (changesOnly_tokenTaken (by decide) s dest tok), fun h2 => ?_, fun h2 => ?_⟩
  · rw [resumeOp, seqOf_modSeq_same, hseq]
    simp only [h2, if_true, true_and]
    exact resumeCredits_congr (tableOf_tokenTaken s dest tok) _
  · rw [resumeOp, tokenTaken, modSeq_modSeq]
    exact modSeq_congr (if_neg h2)

theorem laneKill_spec (harr : arrives s dest tok 10) (hcur : current s dest tok = true) (hcalm : calm s dest = true) :
    ∃ t, exec (.laneKill dest tok) s = .next t ∧ otherSeqs s t dest ∧ changesOnly [.arr, .seq] s t ∧
      ∀ l, l ∈ (seqOf t dest).killed ↔ l = tok.arg % 256 ∨ l ∈ (seqOf s dest).killed := by
  have hexec : exec (.laneKill dest tok) s = .next (laneKillOp dest (tok.arg % 256) (tokenTaken s dest tok)) :=
    currentToken_of_arrives harr hcur (laneKillOp dest (tok.arg % 256))
  rw [laneKillOp_of_calm ((calm_tokenTaken s dest tok).trans hcalm)] at hexec
  refine ⟨_, hexec, otherSeqs_trans (otherSeqs_tokenTaken s dest tok) (otherSeqs_modSeq dest _ _),
    co_set_arr _ (by decide) (co_modSeq _ _ _ (by decide) (changesOnly_tokenTaken (by decide) s dest tok)), fun l => ?_⟩
  have hq : seqOf (dropLane dest (tok.arg % 256) (modSeq dest (fun q => withKilled q (tok.arg % 256)) (tokenTaken s dest tok))) dest =
      withKilled (seqOf (tokenTaken s dest tok) dest) (tok.arg % 256) := seqOf_modSeq_same dest _ _
  rw [hq, mem_withKilled, seqOf_tokenTaken_same]

end Sys2Proof.Machine
end

section
namespace Sys2Proof.Machine

/-- Settles O25: a token acts on the module that has taken it off the network, once, and only on the receiver's own step and attempt. -/
theorem tokensAtSequencers : Obligations.TokensAtSequencers := by
  unfold Obligations.TokensAtSequencers
  refine ⟨⟨fun tok k hok hk => tokenOfWord_tokenWord hok hk, fun dest tok s c k hmem hsid hok hpart => ?_⟩, fun dest tok s hcur hwait hcalm hup =>
    ⟨?_, ?_, fun harr => retract_spec harr hcur, fun harr => resume_spec harr hcur, fun harr => laneKill_spec harr hcur hcalm⟩⟩
  · obtain ⟨act, hexec, hother⟩ := exec_of_tokenCmds hmem s
    rw [hexec, seqToken_eq hsid hok hpart]
    refine ⟨fun hdup => by rw [takeToken_of_isDup hdup], fun _ hbehind => by rw [takeToken_of_behind hbehind], fun hdup hbehind hk ho => ?_⟩
    rw [takeToken_of_first hdup hbehind, hother hk ho]
  · intro harr k
    exact sync_spec harr hcur hwait hcalm hup rfl
  · intro harr k n
    exact credit_spec harr hcur hwait hcalm hup rfl rfl

end Sys2Proof.Machine
end

section
/-! STEP_BOUNDARY, REWIND and ABANDON at a sequencer (R236, R254, R262, R275). -/

namespace Sys2Proof.Machine

/-! ## STEP_BOUNDARY -/

/-- A sequencer's record at the start of an attempt of a step, without its credits. -/
def latchedSeq (tok : Token) (lanes : List Nat) (q : Seq) : Seq :=
  { Seq.init with
    phase := 1, step := tok.step, att := tok.att, canvas := fld tok.arg 5 2, tmpl := fld tok.arg 0 4, var := fld tok.arg 4 1
    lanes := lanes, sendSeq := q.sendSeq, seen := q.seen, killed := if q.step = tok.step then q.killed else [] }

/-- The lanes of the step in flight. -/
def stepLanes (s : State) : List Nat := match s.sch.cur with | some c => c.lanes.map (·.lane) | none => []

theorem latchStep_eq (dest : Nat) (tok : Token) (s : State) : latchStep dest tok s =
    modSeq dest (fun q => { q with cred := creditTable (modSeq dest (latchedSeq tok (stepLanes s)) s) dest 0 })
      (modSeq dest (latchedSeq tok (stepLanes s)) s) := rfl

theorem seqOf_latchStep (dest : Nat) (tok : Token) (s : State) : seqOf (latchStep dest tok s) dest =
    { latchedSeq tok (stepLanes s) (seqOf s dest) with cred := creditTable (latchStep dest tok s) dest 0 } := by
  have htab : tableOf (latchStep dest tok s) dest = tableOf (modSeq dest (latchedSeq tok (stepLanes s)) s) dest :=
    tableOf_congr rfl rfl (by rw [latchStep_eq, seqOf_modSeq_same]) (by rw [latchStep_eq, seqOf_modSeq_same]) (by rw [latchStep_eq, seqOf_modSeq_same])
  rw [creditTable, htab, latchStep_eq, seqOf_modSeq_same, seqOf_modSeq_same, creditTable]

theorem otherSeqs_latchStep (dest : Nat) (tok : Token) (s : State) : otherSeqs s (latchStep dest tok s) dest :=
  otherSeqs_trans (otherSeqs_modSeq dest _ s) (otherSeqs_modSeq dest _ _)

theorem clearWalks_seq (dest : Nat) (s : State) : (clearWalks dest s).seq = s.seq := by
  unfold clearWalks
  split <;> rfl

theorem tableOf_clearWalks (dest : Nat) (s : State) (sid : Nat) : tableOf (clearWalks dest s) sid = tableOf s sid := by
  unfold clearWalks
  split <;> rfl

/-- Settles O26: the token's fields and the table's credits in an otherwise fresh record. -/
theorem stepBoundaryStarts : Obligations.StepBoundaryStarts := by
  unfold Obligations.StepBoundaryStarts
  intro dest tok s harr
  have hexec : exec (.stepBoundary dest tok) s = .next (clearWalks dest (latchStep dest tok (tokenTaken s dest tok))) :=
    seqToken_of_arrives harr fun t => clearWalks dest (latchStep dest tok t)
  have hseqs : ∀ k, seqOf (clearWalks dest (latchStep dest tok (tokenTaken s dest tok))) k = seqOf (latchStep dest tok (tokenTaken s dest tok)) k :=
    fun k => by rw [seqOf, clearWalks_seq, seqOf]
  have hq := seqOf_latchStep dest tok (tokenTaken s dest tok)
  have htaken := seqOf_tokenTaken_same s dest tok
  refine ⟨_, hexec, ?_, co_clearWalks _ _ (by decide) (co_latchStep _ _ _ (by decide) (changesOnly_tokenTaken (by decide) s dest tok)), ?_⟩
  · intro r hr
    rw [hseqs]
    exact otherSeqs_trans (otherSeqs_tokenTaken s dest tok) (otherSeqs_latchStep dest tok _) r hr
  · rw [hseqs, hq]
    refine ⟨rfl, rfl, rfl, rfl, rfl, rfl, rfl, rfl, ?_, rfl, ?_, fun hatt x => ?_, fun hatt => ?_⟩
    · dsimp only
      rw [creditTable, creditTable, tableOf_clearWalks]
    · dsimp only [latchedSeq]
      rw [htaken]
    · rw [clearWalks, if_pos hatt]
      simp only [List.mem_filter, bne_iff_ne]
      exact ⟨Iff.rfl, Iff.rfl⟩
    · rw [clearWalks, if_neg (by simp [hatt])]
      rfl

/-! ## Quiescing -/

/-- What a table gives is the default or stands in it. -/
theorem tget_mem {α : Type} (d : α) (t : Tab α) (k : Nat) : tget d t k = d ∨ (k, tget d t k) ∈ t := by
  induction t with
  | nil => exact Or.inl rfl
  | cons e t ih =>
    obtain ⟨k0, v0⟩ := e
    rw [tget]
    split
    case isTrue h => exact Or.inr (by rw [h]; exact List.mem_cons_self ..)
    case isFalse => exact ih.imp_right (List.mem_cons_of_mem _)

theorem strokes_releasePlanes (as : List ArrStroke) (s : State) : (releasePlanes as s).arr.strokes = s.arr.strokes := by
  unfold releasePlanes
  exact List.foldlRecOn (motive := fun t : State => t.arr.strokes = s.arr.strokes) as _ rfl fun _ ht _ _ => ht

/-- A participant's strokes of the named segment and of later ones are gone. -/
theorem strokes_dropStrokes {sid seg : Nat} {s : State} {e : Nat} {k : Stroke} (h : k ∈ tget [] (dropStrokes sid seg s).arr.strokes e) :
    k.sid ≠ sid ∨ k.seg < seg := by
  rw [dropStrokes, strokes_releasePlanes] at h
  rcases tget_mem [] _ e with hnil | hmem
  · rw [hnil] at h
    exact absurd h List.not_mem_nil
  · obtain ⟨x, -, hx⟩ := List.mem_map.mp (List.mem_filter.mp hmem).1
    have hsnd := congrArg Prod.snd hx
    dsimp only at hsnd h
    rw [← hsnd] at h
    have hkeep := (List.mem_filter.mp h).2
    simp only [Bool.not_eq_true', Bool.and_eq_false_iff, beq_eq_false_iff_ne, decide_eq_false_iff_not] at hkeep
    omega

/-- The record of a participant that has stopped. -/
def quietSeq (seg att : Nat) (keep : Bool) (cred : Tab Nat) (q : Seq) : Seq :=
  { q with phase := 2, wait := .none, held := [], ops := q.ops.filter (fun e => decide ((slotIss e.2).seg < seg)), att := att
           resumeSeg := seg, stopSeg := none, fwded := false, winNo := 0, ord := 0
           glrAt := q.glrAt.filter fun k => decide (k / 65536 < seg)
           segs := q.segs.filter fun x => decide (x.2.1 < seg)
           failed := q.failed.filter fun x => decide (x.2.seg < seg)
           curSeg := none, chkFlags := 0, envTile := [], window := false
           replays := if keep then (q.replays.filter fun r => decide (r.seg ≤ seg)).map fun r => { r with issued := false } else []
           tok := [], cred := cred }

/-- What a participant drops when it stops. -/
def dropped (dest seg : Nat) (s : State) : State := dropTentative seg (dropStrokes dest seg s)

theorem quiesce_eq (dest seg att : Nat) (keep : Bool) (s : State) : quiesce dest seg att keep s =
    sendToken dest 7 0 schedSid (modSeq dest (quietSeq seg att keep (resumeCredits (dropped dest seg s) dest seg)) (dropped dest seg s)) := rfl

theorem dropped_seq (dest seg : Nat) (s : State) : (dropped dest seg s).seq = s.seq :=
  (co_dropTentative (L := [.arr, .core, .glz, .kv]) seg _ (by decide) (co_dropStrokes dest seg s (by decide) (co_refl _ s))).2 .seq (by decide)

theorem seqOf_quiesce (dest seg att : Nat) (keep : Bool) (s : State) : ∃ cred n,
    seqOf (quiesce dest seg att keep s) dest = { quietSeq seg att keep cred (seqOf s dest) with sendSeq := n } := by
  have hdrop : seqOf (dropped dest seg s) dest = seqOf s dest := by rw [seqOf, dropped_seq, seqOf]
  rw [quiesce_eq, sendToken_eq_sendTagged, seqOf_sendTagged, if_pos rfl, seqOf_modSeq_same, hdrop]
  exact ⟨_, _, rfl⟩

theorem otherSeqs_quiesce (dest seg att : Nat) (keep : Bool) (s : State) : otherSeqs s (quiesce dest seg att keep s) dest := by
  have hdrop : otherSeqs s (dropped dest seg s) dest := fun r _ => by rw [seqOf, dropped_seq, seqOf]
  exact otherSeqs_trans hdrop (otherSeqs_trans (otherSeqs_modSeq dest _ _) (otherSeqs_sendToken dest 7 0 schedSid _))

/-- The answer of a participant that has stopped. -/
theorem sent_quiesce {s : State} (hup : planesUp s) (dest seg att : Nat) (keep : Bool) :
    ∃ q : Token, (schedSid, q) ∈ (quiesce dest seg att keep s).seq.sent ∧ q.kind = 7 ∧ q.src = dest ∧ q.att = att % 16 := by
  have hbad : (modSeq dest (quietSeq seg att keep (resumeCredits (dropped dest seg s) dest seg)) (dropped dest seg s)).seq.planeBad = [] :=
    (congrArg SeqSt.planeBad (dropped_seq dest seg s)).trans hup
  rw [quiesce_eq, sendToken_eq_sendTagged, sent_sendTagged]
  refine ⟨_, List.mem_append_right _ (mem_tokenCopies.mpr ⟨0, by decide, planeCarries_of_planesUp hbad .., rfl⟩), rfl, rfl, ?_⟩
  dsimp only [newToken]
  rw [seqOf_modSeq_same]
  rfl

theorem exec_quiesceToken {dest : Nat} {tok : Token} {s : State} {rew : Bool} (harr : arrives s dest tok (if rew then 6 else 12)) :
    exec (if rew then .rewind dest tok else .abandon dest tok) s =
      .next (ifNext dest tok (quiesce dest (if rew then tok.arg % 128 else 0) tok.att rew) (tokenTaken s dest tok)) := by
  cases rew with
  | true => exact seqToken_of_arrives harr (ifNext dest tok (quiesce dest (tok.arg % 128) tok.att true))
  | false => exact seqToken_of_arrives harr (ifNext dest tok (quiesce dest 0 tok.att false))

/-- Settles O27: both are the same stop, at the segment that the token names or at segment 0. -/
theorem quiesceOnRewind : Obligations.QuiesceOnRewind := by
  unfold Obligations.QuiesceOnRewind
  intro dest tok s rew hup seg harr
  have hexec := exec_quiesceToken harr
  rw [ifNext, nextAttempt_tokenTaken] at hexec
  refine ⟨_, hexec, fun hn => by rw [if_neg (by simp [hn])], fun hn => ?_⟩
  rw [if_pos hn]
  obtain ⟨cred, m, hq⟩ := seqOf_quiesce dest seg tok.att rew (tokenTaken s dest tok)
  refine ⟨otherSeqs_trans (otherSeqs_tokenTaken s dest tok) (otherSeqs_quiesce _ _ _ _ _), ?_⟩
  change (seqOf (quiesce dest seg tok.att rew (tokenTaken s dest tok)) dest).phase = 2 ∧ _
  rw [hq]
  refine ⟨rfl, rfl, rfl, rfl, rfl, rfl, rfl, ?_, fun e k hk => strokes_dropStrokes (s := tokenTaken s dest tok) hk,
    sent_quiesce (planesUp_tokenTaken hup dest tok) ..⟩
  dsimp only [quietSeq]
  rw [seqOf_tokenTaken_same]

end Sys2Proof.Machine
end

section
/-! The scheduler core's tokens (R26, R28, R242), and what leaves the step in flight as it is. -/

namespace Sys2Proof.Machine

/-! ## Parts that a change leaves alone -/

theorem seq_of_changesOnly {L : List Part} {s t : State} (h : changesOnly L s t) (hL : Part.seq ∉ L) : t.seq = s.seq := h.2 .seq hL
theorem sch_of_changesOnly {L : List Part} {s t : State} (h : changesOnly L s t) (hL : Part.sch ∉ L) : t.sch = s.sch := h.2 .sch hL
theorem hist_of_changesOnly {L : List Part} {s t : State} (h : changesOnly L s t) (hL : Part.hist ∉ L) : t.hist = s.hist := h.2 .hist hL
theorem cnv_of_changesOnly {L : List Part} {s t : State} (h : changesOnly L s t) (hL : Part.cnv ∉ L) : t.cnv = s.cnv := h.2 .cnv hL

/-! ## A step that goes on -/

/-- Of a step in flight: the same step, with its number, its participants, its canvas and what its sequencers reported. -/
def sameStep (c d : StepRec) : Prop := d.num = c.num ∧ d.parts = c.parts ∧ d.canvas = c.canvas ∧ d.seqSrc = c.seqSrc ∧ (c.abandoning = true → d.abandoning = true)

/-- The step in flight goes on, and the network loses no token and no plane. -/
structure GoesOn (s t : State) : Prop where
  bad : t.seq.planeBad = s.seq.planeBad
  sent : ∀ e ∈ s.seq.sent, e ∈ t.seq.sent
  cur : ∀ c, s.sch.cur = some c → ∃ d, t.sch.cur = some d ∧ sameStep c d

theorem sameStep_refl (c : StepRec) : sameStep c c := ⟨rfl, rfl, rfl, rfl, id⟩

theorem sameStep_trans {c d e : StepRec} (h : sameStep c d) (k : sameStep d e) : sameStep c e := by
  obtain ⟨h1, h2, h3, h4, h5⟩ := h
  obtain ⟨k1, k2, k3, k4, k5⟩ := k
  exact ⟨k1.trans h1, k2.trans h2, k3.trans h3, k4.trans h4, k5 ∘ h5⟩

theorem GoesOn.refl (s : State) : GoesOn s s := ⟨rfl, fun _ h => h, fun c h => ⟨c, h, sameStep_refl c⟩⟩

theorem GoesOn.trans {s t u : State} (h : GoesOn s t) (k : GoesOn t u) : GoesOn s u := by
  refine ⟨k.bad.trans h.bad, fun e he => k.sent e (h.sent e he), fun c hc => ?_⟩
  obtain ⟨d, hd, hcd⟩ := h.cur c hc
  obtain ⟨e, he, hde⟩ := k.cur d hd
  exact ⟨e, he, sameStep_trans hcd hde⟩

/-- A change of other parts of the state. -/
theorem GoesOn.of_changesOnly {L : List Part} {s t : State} (h : changesOnly L s t) (hseq : Part.seq ∉ L) (hsch : Part.sch ∉ L) : GoesOn s t := by
  have hs := seq_of_changesOnly h hseq
  have hc := sch_of_changesOnly h hsch
  exact ⟨by rw [hs], fun e he => by rwa [hs], fun c hcur => ⟨c, by rwa [hc], sameStep_refl c⟩⟩

theorem GoesOn.modCur {f : StepRec → StepRec} (h : ∀ c, sameStep c (f c)) (s : State) : GoesOn s (modCur f s) :=
  ⟨rfl, fun _ he => he, fun c hc => ⟨f c, by rw [Machine.modCur, hc]; rfl, h c⟩⟩

theorem GoesOn.sendTagged (src kind arg step att dest : Nat) (s : State) : GoesOn s (sendTagged src kind arg step att dest s) :=
  ⟨rfl, fun _ he => by rw [sent_sendTagged]; exact List.mem_append_left _ he, fun c hc => ⟨c, hc, sameStep_refl c⟩⟩

theorem GoesOn.foldl {β : Type} {g : State → β → State} (hg : ∀ t x, GoesOn t (g t x)) (l : List β) (s : State) : GoesOn s (l.foldl g s) := by
  induction l generalizing s with
  | nil => exact GoesOn.refl s
  | cons x xs ih => exact (hg s x).trans (ih _)

theorem GoesOn.schedToAll (kind arg att : Nat) (s : State) : GoesOn s (schedToAll kind arg att s) := by
  unfold Machine.schedToAll
  split
  · exact GoesOn.foldl (fun t d => GoesOn.sendTagged ..) _ _
  · exact GoesOn.refl s

theorem sentTo_of_goesOn {s t : State} {dest kind : Nat} (h : GoesOn s t) (k : sentTo s dest kind) : sentTo t dest kind := by
  obtain ⟨tok, hmem, hkind⟩ := k
  exact ⟨tok, h.sent _ hmem, hkind⟩

theorem planesUp_of_goesOn {s t : State} (h : GoesOn s t) (k : planesUp s) : planesUp t := h.bad.trans k

/-! ## A token to every participant -/

theorem sentTo_foldl_sendTagged {s : State} (hup : planesUp s) (src kind arg step att : Nat) {dests : List Nat} {d : Nat} (hd : d ∈ dests) :
    sentTo (dests.foldl (fun t d => sendTagged src kind arg step att d t) s) d kind := by
  obtain ⟨xs, hsent, -, hfields, hcarried⟩ := sentAll_sendTagged src kind arg step att dests s
  obtain ⟨x, hx, hxd, -⟩ := hcarried d hd 0 (by decide) (planeCarries_of_planesUp hup ..)
  obtain ⟨-, hkind, -⟩ := hfields x hx
  refine ⟨x.2, ?_, hkind⟩
  rw [hsent, ← hxd]
  exact List.mem_append_right _ hx

theorem sentTo_schedToAll {s : State} {c : StepRec} (hup : planesUp s) (hc : s.sch.cur = some c) (kind arg att : Nat) {p : Nat} (hp : p ∈ c.parts) :
    sentTo (schedToAll kind arg att s) p kind := by
  unfold schedToAll
  rw [hc]
  exact sentTo_foldl_sendTagged hup _ _ _ _ _ hp

theorem cur_schedToAll (kind arg att : Nat) (s : State) : (schedToAll kind arg att s).sch = s.sch :=
  sch_of_changesOnly (co_schedToAll (L := [.seq]) kind arg att s (by decide) (co_refl _ s)) (by decide)

/-! ## REWIND and ABANDON -/

theorem cur_modCur {s : State} {c : StepRec} (h : s.sch.cur = some c) (f : StepRec → StepRec) : (modCur f s).sch.cur = some (f c) := by
  rw [modCur, h]
  rfl

theorem dropSamples_sch (step seg : Nat) (s : State) : (dropSamples step seg s).sch = s.sch := rfl

/-- REWIND goes to every participant of the step, which is at its next attempt. -/
theorem sendRewind_spec {s : State} {c : StepRec} (hup : planesUp s) (hc : s.sch.cur = some c) (seg : Nat) :
    (sendRewind seg s).sch.cur = some (nextAtt seg c) ∧ (∀ p ∈ c.parts, sentTo (sendRewind seg s) p 6) := by
  have hcur : (modCur (nextAtt seg) (dropSamples c.num seg s)).sch.cur = some (nextAtt seg c) := cur_modCur hc _
  have hfire : ∀ t, (fire 4 0 0 seg ((c.att + 1) % 16) t).seq = t.seq ∧ (fire 4 0 0 seg ((c.att + 1) % 16) t).sch = t.sch := fun t =>
    ⟨seq_of_changesOnly (co_fire (L := [.evr]) _ _ _ _ _ t (by decide) (co_refl _ t)) (by decide),
      sch_of_changesOnly (co_fire (L := [.evr]) _ _ _ _ _ t (by decide) (co_refl _ t)) (by decide)⟩
  unfold sendRewind
  rw [hc]
  refine ⟨?_, fun p hp => ?_⟩
  · dsimp only
    rw [(hfire _).2, cur_schedToAll, hcur]
  · obtain ⟨tok, hmem, hkind⟩ := sentTo_schedToAll (s := modCur (nextAtt seg) (dropSamples c.num seg s)) hup hcur 6 seg (c.att + 1) hp
    exact ⟨tok, by dsimp only; rwa [(hfire _).1], hkind⟩

/-- The step in flight after ABANDON. -/
def abandoned (again : Bool) (c : StepRec) : StepRec := { newExec (nextAtt 0 c) with abandoning := !again, redo := false }

theorem sendAbandon_spec {s : State} {c : StepRec} (hup : planesUp s) (hc : s.sch.cur = some c) (again : Bool) :
    (sendAbandon again s).sch.cur = some (abandoned again c) ∧ ∀ p ∈ c.parts, sentTo (sendAbandon again s) p 12 := by
  have hcur : (modCur (abandoned again) (modCnv c.canvas (fun v => { v with abandons := satAdd 32 v.abandons 1 }) (dropSamples c.num 0 s))).sch.cur =
      some (abandoned again c) := cur_modCur (by exact hc) _
  unfold sendAbandon
  rw [hc]
  exact ⟨(congrArg SchedSt.cur (cur_schedToAll ..)).trans hcur, fun p hp => sentTo_schedToAll (c := abandoned again c) (by exact hup) hcur _ _ _ hp⟩

/-- An abandoned step is still in flight. -/
theorem GoesOn.sendAbandon (s : State) : GoesOn s (sendAbandon false s) := by
  unfold Machine.sendAbandon
  split
  case h_2 => exact GoesOn.refl s
  case h_1 c hc =>
    refine GoesOn.trans (GoesOn.of_changesOnly (L := [.cnv, .hist]) ?_ (by decide) (by decide)) ((GoesOn.modCur ?_ _).trans (GoesOn.schedToAll ..))
    · exact co_modCnv _ _ _ (by decide) (co_dropSamples _ _ s (by decide) (co_refl _ s))
    · exact fun c => ⟨rfl, rfl, rfl, rfl, fun _ => rfl⟩

/-! ## Faults and the drain -/

theorem GoesOn.updRevert (s : State) : GoesOn s (updRevert s) := by
  unfold Machine.updRevert
  split
  · exact GoesOn.refl s
  · dsimp only
    have hreply : ∀ t u, GoesOn t (replyLate u 8 0 u.handle (leBytes 4 4) t) := fun t u =>
      GoesOn.of_changesOnly (L := [.net]) (co_replyLate _ _ _ _ _ t (by decide) (co_refl _ t)) (by decide) (by decide)
    have hfire : ∀ t k, GoesOn t (fire 24 0 0 4 k { t with sec := { t.sec with upd := none, updNow := false } }) := fun t k =>
      GoesOn.of_changesOnly (L := [.evr, .sec]) (co_fire _ _ _ _ _ _ (by decide) (co_set_sec _ (by decide) (co_refl _ t))) (by decide) (by decide)
    refine GoesOn.trans ?_ ((hfire _ _).trans (hreply _ _))
    split
    · exact GoesOn.sendAbandon s
    · exact GoesOn.refl s

/-- What the drain decision does after the end of a live update. -/
def drained (us cause unit level : Nat) (s : State) : State :=
  evrCommit (setMstate 3 (uhWrite (raiseAll allPtns { ty := 5, flags := 1, unit := 0, level := 0, args := [cause] }
    (raiseAll allPtns { ty := 3, flags := 0, unit := unit, level := level, args := [cause] }
      (fire 3 unit level 0 cause { s with hist := { s.hist with draining := true, drainUs := us, cause := cause } })))))

theorem drainDecision_eq (cause unit level : Nat) (s : State) : drainDecision cause unit level s =
    if s.hist.draining || s.hist.inRepl then s else drained s.clk.us cause unit level (updRevert s) := rfl

theorem co_drained {L : List Part} {s0 : State} (us cause unit level : Nat) (s : State) (hs : sub [.ptn, .net, .hist, .evr, .dev] L = true)
    (hw : changesOnly L s0 s) : changesOnly L s0 (drained us cause unit level s) :=
  co_evrCommit _ (sub_trans (by decide) hs) (co_setMstate _ _ (sub_trans (by decide) hs) (co_uhWrite _ (sub_trans (by decide) hs)
    (co_raiseAll _ _ _ (sub_trans (by decide) hs) (co_raiseAll _ _ _ (sub_trans (by decide) hs) (co_fire _ _ _ _ _ _ (sub_trans (by decide) hs)
      (co_set_hist _ (sub_trans (by decide) hs) hw))))))

theorem GoesOn.drainDecision (cause unit level : Nat) (s : State) : GoesOn s (drainDecision cause unit level s) := by
  rw [drainDecision_eq]
  split
  · exact GoesOn.refl s
  · refine (GoesOn.updRevert s).trans (GoesOn.of_changesOnly (L := [.ptn, .net, .hist, .evr, .dev]) ?_ (by decide) (by decide))
    exact co_drained _ _ _ _ _ (by decide) (co_refl _ _)

theorem GoesOn.retireSpare (core : Nat) (s : State) : GoesOn s (retireSpare core s) :=
  GoesOn.of_changesOnly (L := [.hist]) (co_retireSpare _ _ (by decide) (co_refl _ s)) (by decide) (by decide)

theorem GoesOn.nextSpare (core : Nat) (s : State) : GoesOn s (nextSpare core s) := by
  unfold Machine.nextSpare
  dsimp only
  have hret : GoesOn s (Machine.retireSpare core { s with hist := { s.hist with fences := s.hist.fences.map fun f =>
      if f.spare == core && f.ph != 0 then { f with ph := 0, spare := 0, us := s.clk.us } else f } }) :=
    (GoesOn.of_changesOnly (L := [.hist]) (co_set_hist _ (by decide) (co_refl _ s)) (by decide) (by decide)).trans (GoesOn.retireSpare ..)
  split
  · exact hret.trans (GoesOn.drainDecision ..)
  · exact hret

theorem GoesOn.addFence (core : Nat) (s : State) : GoesOn s (addFence core s) := by
  unfold Machine.addFence
  dsimp only
  have hfence : ∀ f, changesOnly [.hist, .evr] s { s with hist := { s.hist with fences := f } } := fun f => co_set_hist _ (by decide) (co_refl _ s)
  split
  · exact GoesOn.drainDecision ..
  · split
    · exact GoesOn.of_changesOnly (co_fire _ _ _ _ _ _ (by decide) (hfence _)) (by decide) (by decide)
    · exact GoesOn.of_changesOnly (hfence _) (by decide) (by decide)

theorem GoesOn.fenceDue (core : Nat) (s : State) : GoesOn s (fenceDue core s) := by
  unfold Machine.fenceDue
  dsimp only
  split
  · exact GoesOn.refl s
  · split
    · exact GoesOn.nextSpare ..
    · split
      · exact GoesOn.retireSpare ..
      · exact GoesOn.addFence ..

/-- The record that a fault makes (R412, R413). -/
def faultRecord (unit level kind detail : Nat) (recurs : Bool) (s : State) : FaultRec :=
  { unit := unit, level := level, perm := faultPermanent unit level kind recurs s, suspect := kind == 5 || kind == 6 || kind == 11, kind := kind,
    detail := detail, hours := s.clk.hours, cycles := s.clk.cycles }

/-- A fault counted by its class. -/
def countFault (perm : Bool) (s : State) : State :=
  { s with hist := { s.hist with faultsT := if perm then s.hist.faultsT else satAdd 32 s.hist.faultsT 1
                                 faultsP := if perm then satAdd 32 s.hist.faultsP 1 else s.hist.faultsP } }

/-- A fault recorded and counted, with its events. -/
def faultNoted (unit level kind detail : Nat) (recurs : Bool) (s : State) : State :=
  let t := fire 1 unit level kind detail (countFault (faultPermanent unit level kind recurs s) (storeRecord (faultRecord unit level kind detail recurs s) s))
  if kind == 5 || kind == 6 || kind == 11 then healthUnit unit level kind t else t

theorem recordFault_eq (unit level kind detail : Nat) (recurs : Bool) (s : State) : recordFault unit level kind detail recurs s =
    if !faultPermanent unit level kind recurs s then faultNoted unit level kind detail recurs s
    else if 2 ≤ level then fenceDue (coreOf unit) (uhWrite (faultNoted unit level kind detail recurs s))
    else drainDecision (drainCauseOf unit level) unit level (uhWrite (faultNoted unit level kind detail recurs s)) := rfl

theorem co_faultNoted {L : List Part} {s0 : State} (unit level kind detail : Nat) (recurs : Bool) (s : State)
    (hs : sub [.ptn, .net, .hist, .evr] L = true) (hw : changesOnly L s0 s) : changesOnly L s0 (faultNoted unit level kind detail recurs s) := by
  have hfire : changesOnly L s0 (fire 1 unit level kind detail (countFault (faultPermanent unit level kind recurs s)
      (storeRecord (faultRecord unit level kind detail recurs s) s))) :=
    co_fire _ _ _ _ _ _ (sub_trans (by decide) hs) (co_set_hist _ (sub_trans (by decide) hs) (co_storeRecord _ _ (sub_trans (by decide) hs) hw))
  unfold faultNoted
  dsimp only
  split
  · exact co_healthUnit _ _ _ _ (sub_trans (by decide) hs) hfire
  · exact hfire

theorem GoesOn.recordFault (unit level kind detail : Nat) (recurs : Bool) (s : State) : GoesOn s (recordFault unit level kind detail recurs s) := by
  have hnoted : GoesOn s (faultNoted unit level kind detail recurs s) :=
    GoesOn.of_changesOnly (L := [.ptn, .net, .hist, .evr]) (co_faultNoted _ _ _ _ _ s (by decide) (co_refl _ s)) (by decide) (by decide)
  have huh : GoesOn s (uhWrite (faultNoted unit level kind detail recurs s)) :=
    hnoted.trans (GoesOn.of_changesOnly (L := [.hist]) (co_uhWrite _ (by decide) (co_refl _ _)) (by decide) (by decide))
  rw [recordFault_eq]
  split
  · exact hnoted
  · split
    · exact huh.trans (GoesOn.fenceDue ..)
    · exact huh.trans (GoesOn.drainDecision ..)

/-! ## Killed lanes and memory faults -/

theorem GoesOn.killLane (lane : Nat) (s : State) : GoesOn s (killLane lane s) := by
  unfold Machine.killLane
  split
  · split
    · exact GoesOn.refl s
    · refine (GoesOn.modCur ?_ s).trans (GoesOn.schedToAll ..)
      exact fun c => ⟨rfl, rfl, rfl, rfl, id⟩
  · exact GoesOn.refl s

/-- A page of a request is poisoned, in its entry and in the near tier (R297). -/
def poisonPage (l : Lane) (layer j : Nat) (s : State) : State :=
  markPoison l.ptn l.ptroot layer j
    (modEntry l.index (fun e => { e with poison := if e.poison.contains (layer, j) then e.poison else e.poison ++ [(layer, j)] }) s)

theorem GoesOn.poisonPage (l : Lane) (layer j : Nat) (s : State) : GoesOn s (poisonPage l layer j s) :=
  GoesOn.of_changesOnly (L := [.kv, .req]) (co_markPoison _ _ _ _ _ (by decide) (co_modEntry _ _ _ (by decide) (co_refl _ s))) (by decide) (by decide)

theorem GoesOn.retireFrameOf (ptn page : Nat) (s : State) : GoesOn s (retireFrameOf ptn page s) :=
  GoesOn.of_changesOnly (L := [.kv]) (co_retireFrameOf _ _ s (by decide) (co_refl _ s)) (by decide) (by decide)

theorem GoesOn.moveFrame (ptn page : Nat) (s : State) : GoesOn s (moveFrame ptn page s) :=
  GoesOn.of_changesOnly (L := [.kv]) (co_moveFrame _ _ s (by decide) (co_refl _ s)) (by decide) (by decide)

theorem memFault_eq (l : Lane) (layer j cause : Nat) (s : State) : memFault l layer j cause s =
    match faultPage (fire 14 0 0 cause 0 s) l layer j cause with
    | none => fire 14 0 0 cause 0 s
    | some p => if cause = 0x28 then retireFrameOf l.ptn p (killLane l.lane (poisonPage l layer j (fire 14 0 0 cause 0 s)))
      else moveFrame l.ptn p (fire 14 0 0 cause 0 s) := rfl

theorem GoesOn.memFault (l : Lane) (layer j cause : Nat) (s : State) : GoesOn s (memFault l layer j cause s) := by
  have hfire : GoesOn s (fire 14 0 0 cause 0 s) :=
    GoesOn.of_changesOnly (L := [.evr]) (co_fire _ _ _ _ _ s (by decide) (co_refl _ s)) (by decide) (by decide)
  rw [memFault_eq]
  split
  · exact hfire
  · split
    · exact hfire.trans ((GoesOn.poisonPage ..).trans ((GoesOn.killLane ..).trans (GoesOn.retireFrameOf ..)))
    · exact hfire.trans (GoesOn.moveFrame ..)

end Sys2Proof.Machine
end

section
/-! STEP_DONE, SEGMENT and QUIESCED at the scheduler core (R244, R254, R257). -/

namespace Sys2Proof.Machine

/-! ## Tokens at the scheduler core -/

theorem schedToken_of_arrives {tok : Token} {kind : Nat} {s : State} {c : StepRec} (h : arrivesSched s tok kind c) (act : StepRec → State → State) :
    schedToken tok kind act s = .next (act c (tokenTaken s schedSid tok)) := by
  obtain ⟨hok, hdup, hbehind, hc, hcur⟩ := h
  have hcT : (tokenTaken s schedSid tok).sch.cur = some c := hc
  rw [schedToken, hok, takeToken_of_first hdup hbehind, hcT]
  dsimp only
  rw [if_pos hcur]
  rfl

theorem modCur_congr {s : State} {c : StepRec} (hc : s.sch.cur = some c) {f g : StepRec → StepRec} (h : f c = g c) : modCur f s = modCur g s := by
  simp only [modCur, hc, Option.map_some, h]

/-! ## The issue of COMMIT (R257, R327) -/

/-- An entry whose deadline has passed is to be cancelled. -/
def deadlineNoted (l : Lane) (s : State) : State :=
  if deadlinePassed s (entryOf s l.index) then modEntry l.index (fun x => { x with pendCancel := some (x.pendCancel.getD 3) }) s else s

theorem deadlineNoted_sch (l : Lane) (s : State) : (deadlineNoted l s).sch = s.sch := by
  unfold deadlineNoted
  split <;> rfl

theorem withhold_eq (l : Lane) (s : State) : withhold l s =
    if (entryOf (deadlineNoted l s) l.index).pendCancel.isSome || disabling (deadlineNoted l s) (entryOf s l.index) then
      modCur (fun c => { c with withheld := if c.withheld.contains l.lane then c.withheld else c.withheld ++ [l.lane] }) (deadlineNoted l s)
    else deadlineNoted l s := rfl

/-- Withholding a lane's tokens notes the lane in the step, and nothing else of the step changes. -/
theorem withhold_spec {s : State} {c : StepRec} (hc : s.sch.cur = some c) (l : Lane) :
    (withhold l s).seq = s.seq ∧ ∃ w, (withhold l s).sch.cur = some { c with withheld := w } := by
  refine ⟨seq_of_changesOnly (L := [.sch, .req]) (co_withhold l s (by decide) (co_refl _ s)) (by decide), ?_⟩
  have hnoted : (deadlineNoted l s).sch.cur = some c := by rw [deadlineNoted_sch, hc]
  rw [withhold_eq]
  split
  · exact ⟨_, cur_modCur hnoted _⟩
  · exact ⟨c.withheld, hnoted⟩

theorem withholds_spec {s : State} {c : StepRec} (hc : s.sch.cur = some c) (ls : List Lane) :
    (ls.foldl (fun t l => withhold l t) s).seq = s.seq ∧ ∃ w, (ls.foldl (fun t l => withhold l t) s).sch.cur = some { c with withheld := w } := by
  induction ls generalizing s c with
  | nil => exact ⟨rfl, c.withheld, hc⟩
  | cons l ls ih =>
    obtain ⟨hseq, w, hw⟩ := withhold_spec hc l
    obtain ⟨ihseq, w', hw'⟩ := ih hw
    exact ⟨ihseq.trans hseq, w', hw'⟩

/-- COMMIT goes out, to every participant and to the port dies, just when the conditions of R257 hold. -/
theorem tryCommit_spec {s : State} {c : StepRec} (hup : planesUp s) (hc : s.sch.cur = some c) :
    (∃ w, (tryCommit s).sch.cur = some { c with withheld := w, cmtReady := c.cmtReady || commitReady s c }) ∧
    (commitReady s c = true → ∀ p ∈ c.parts ++ portSids, sentTo (tryCommit s) p 9) := by
  unfold tryCommit
  rw [hc]
  dsimp only
  cases hready : commitReady s c with
  | false => exact ⟨⟨c.withheld, by simpa using hc⟩, fun h => absurd h (by decide)⟩
  | true =>
    obtain ⟨hseq, w, hw⟩ := withholds_spec hc c.lanes
    have hcur := cur_modCur hw fun k => { k with cmtReady := true }
    have hupW : planesUp (modCur (fun k => { k with cmtReady := true }) (c.lanes.foldl (fun t l => withhold l t) s)) := by
      change (c.lanes.foldl (fun t l => withhold l t) s).seq.planeBad = []
      rw [hseq]
      exact hup
    rw [if_pos rfl, Bool.or_true]
    refine ⟨⟨w, ?_⟩, fun _ p hp => ?_⟩
    · have hports : ∀ t, (portSids.foldl (fun t d => sendTagged schedSid 9 0 c.num c.att d t) t).sch = t.sch := fun t =>
        List.foldlRecOn (motive := fun u : State => u.sch = t.sch) portSids _ rfl fun _ hu _ _ => hu
      rw [sendCommit, hports, cur_schedToAll, hcur]
    · rw [sendCommit]
      rcases List.mem_append.mp hp with hp | hp
      · exact sentTo_of_goesOn (GoesOn.foldl (fun t d => GoesOn.sendTagged ..) _ _) (sentTo_schedToAll hupW hcur 9 0 c.att hp)
      · exact sentTo_foldl_sendTagged (planesUp_of_goesOn (GoesOn.schedToAll ..) hupW) _ _ _ _ _ hp

/-! ## The end of a step -/

theorem retireKilled_sch (s : State) : (retireKilled s).sch = s.sch :=
  sch_of_changesOnly (L := [.kv, .head, .req, .net]) (co_retireKilled s (by decide) (co_refl _ s)) (by decide)

theorem cur_clearStep (s : State) : (clearStep s).sch.cur = none := by
  unfold clearStep
  split
  case h_1 h => exact h
  case h_2 => rfl

theorem cur_endAbandoned (s : State) : (endAbandoned s).sch.cur = none := by
  rw [endAbandoned, retireKilled_sch, cur_clearStep]

/-- Every participant is quiet: the step ends, starts its re-execution, or resumes. -/
theorem allQuiet_spec {s : State} {c : StepRec} (hup : planesUp s) (hc : s.sch.cur = some c) :
    (c.abandoning = true → (allQuiet s).sch.cur = none) ∧
    (c.abandoning = false → (∃ d, (allQuiet s).sch.cur = some d ∧ d.rewind = none ∧ d.att = c.att) ∧
      ∀ p ∈ c.parts, sentTo (allQuiet s) p (if c.redo then 2 else 8)) := by
  unfold allQuiet
  rw [hc]
  dsimp only
  refine ⟨fun hab => by rw [if_pos hab, cur_endAbandoned], fun hab => ?_⟩
  rw [if_neg (by simp [hab])]
  cases hredo : c.redo with
  | true =>
    have hco := co_fetchRows (L := [.core]) (modCur (fun k => { k with rewind := none, redo := false }) s) (by decide) (co_refl _ _)
    have hcur : (fetchRows (modCur (fun k => { k with rewind := none, redo := false }) s)).sch.cur = some { c with rewind := none, redo := false } := by
      rw [sch_of_changesOnly hco (by decide)]
      exact cur_modCur hc _
    have hupF : planesUp (fetchRows (modCur (fun k => { k with rewind := none, redo := false }) s)) := by
      rw [planesUp, seq_of_changesOnly hco (by decide)]
      exact hup
    rw [if_pos rfl, if_pos rfl]
    refine ⟨⟨_, (congrArg SchedSt.cur (cur_schedToAll ..)).trans hcur, rfl, rfl⟩, fun p hp => ?_⟩
    exact sentTo_schedToAll hupF hcur _ _ _ (by exact hp)
  | false =>
    have hcur := cur_modCur hc fun k => { k with rewind := none }
    rw [if_neg (by decide), if_neg (by decide)]
    refine ⟨⟨_, (congrArg SchedSt.cur (cur_schedToAll ..)).trans hcur, rfl, rfl⟩, fun p hp => ?_⟩
    exact sentTo_schedToAll (s := modCur (fun k => { k with rewind := none }) s) hup hcur _ _ _ (by exact hp)

/-- QUIESCED notes its source in the step; the last one lets it go on. -/
theorem quiescedOp_eq {s : State} {c : StepRec} (tok : Token) (hc : s.sch.cur = some c) {q : List Nat}
    (hq : q = if c.quiet.contains tok.src then c.quiet else c.quiet ++ [tok.src]) :
    quiescedOp tok s = if c.rewind.isSome && c.parts.all q.contains then allQuiet (modCur (fun k => { k with quiet := q }) s)
      else modCur (fun k => { k with quiet := q }) s := by
  have hmod : modCur (fun c => { c with quiet := if c.quiet.contains tok.src then c.quiet else c.quiet ++ [tok.src] }) s =
      modCur (fun k => { k with quiet := q }) s := modCur_congr hc (by rw [hq])
  unfold quiescedOp
  dsimp only
  rw [hmod, cur_modCur hc]

/-- The step in flight, seen from the state without the token. -/
theorem cur_of_arrivesSched {tok : Token} {kind : Nat} {s : State} {c : StepRec} (h : arrivesSched s tok kind c) :
    (tokenTaken s schedSid tok).sch.cur = some c := by
  obtain ⟨-, -, -, hc, -⟩ := h
  exact hc

/-- Settles O28: each token changes the step in flight by one field, and what may go out then does. -/
theorem schedulerTokens : Obligations.SchedulerTokens := by
  unfold Obligations.SchedulerTokens
  intro tok s c hup
  have hupT := planesUp_tokenTaken hup schedSid tok
  refine ⟨?_, fun harr => ?_, ?_⟩
  · intro harr c1 u
    have hc : (tokenTaken s schedSid tok).sch.cur = some c := cur_of_arrivesSched harr
    have hexec : exec (.stepDone tok) s = .next (stepDoneOp tok (tokenTaken s schedSid tok)) := schedToken_of_arrives harr fun _ => stepDoneOp tok
    have hu : stepDoneOp tok (tokenTaken s schedSid tok) = tryCommit u := congrArg tryCommit (modCur_congr hc rfl)
    have hcu : u.sch.cur = some c1 := cur_modCur hc _
    obtain ⟨⟨w, hw⟩, hsent⟩ := tryCommit_spec (s := u) hupT hcu
    rw [hu] at hexec
    refine ⟨_, _, hexec, hw, ?_, rfl, rfl, rfl, hsent⟩
    change tok.src ∈ if c.done.contains tok.src then c.done else c.done ++ [tok.src]
    split
    case isTrue h => exact List.contains_iff_mem.mp h
    case isFalse => simp
  · have hc : (tokenTaken s schedSid tok).sch.cur = some c := cur_of_arrivesSched harr
    have hexec : exec (.segment tok) s = .next (segmentOp tok (tokenTaken s schedSid tok)) := schedToken_of_arrives harr fun _ => segmentOp tok
    unfold segmentOp at hexec
    dsimp only at hexec
    by_cases hclear : tok.arg % 256 = 0
    · rw [if_pos hclear] at hexec
      obtain ⟨⟨w, hw⟩, -⟩ := tryCommit_spec (s := modCur (fun c => { c with segs := c.segs ++ [(tok.src, fld tok.arg 15 12, fld tok.arg 8 7, 0)] })
        (tokenTaken s schedSid tok)) hupT (cur_modCur hc _)
      exact ⟨_, _, hexec, hw, by simp [hclear], fun _ => rfl, fun h => absurd hclear h⟩
    · rw [if_neg hclear] at hexec
      exact ⟨_, _, hexec, cur_modCur hc _, by simp, fun h => absurd h hclear, fun _ => ⟨rfl, rfl⟩⟩
  · intro harr quiet all
    have hc : (tokenTaken s schedSid tok).sch.cur = some c := cur_of_arrivesSched harr
    have hexec : exec (.quiesced tok) s = .next (quiescedOp tok (tokenTaken s schedSid tok)) := schedToken_of_arrives harr fun _ => quiescedOp tok
    rw [quiescedOp_eq tok hc (q := quiet) rfl] at hexec
    have hcq := cur_modCur hc fun k => { k with quiet := quiet }
    obtain ⟨hend, hgo⟩ := allQuiet_spec (s := modCur (fun k => { k with quiet := quiet }) (tokenTaken s schedSid tok)) hupT hcq
    refine ⟨_, hexec, fun hall => ?_, fun hall hab => ?_, fun hall hab => ?_⟩
    · rw [if_neg (by rw [show (c.rewind.isSome && c.parts.all quiet.contains) = false from hall]; decide), hcq]
    · rw [if_pos hall]
      exact hend hab
    · rw [if_pos hall]
      exact hgo hab

end Sys2Proof.Machine
end

section
/-! SEQ_FAULT, the gathering time and the step watchdog (R218, R253, R254, R261, R262). -/

namespace Sys2Proof.Machine

/-! ## Changes next to the step in flight -/

theorem fire_sch (t unit level code detail : Nat) (s : State) : (fire t unit level code detail s).sch = s.sch :=
  sch_of_changesOnly (co_fire (L := [.evr]) _ _ _ _ _ s (by decide) (co_refl _ s)) (by decide)

theorem fire_seq (t unit level code detail : Nat) (s : State) : (fire t unit level code detail s).seq = s.seq :=
  seq_of_changesOnly (co_fire (L := [.evr]) _ _ _ _ _ s (by decide) (co_refl _ s)) (by decide)

theorem GoesOn.fire (t unit level code detail : Nat) (s : State) : GoesOn s (fire t unit level code detail s) :=
  GoesOn.of_changesOnly (co_fire (L := [.evr]) _ _ _ _ _ s (by decide) (co_refl _ s)) (by decide) (by decide)

theorem GoesOn.nameMissing (n : Nat) (ms : List Nat) (s : State) : GoesOn s (nameMissing n ms s) :=
  GoesOn.of_changesOnly (co_nameMissing (L := [.evr]) _ _ s (by decide) (co_refl _ s)) (by decide) (by decide)

theorem nameMissing_sch (n : Nat) (ms : List Nat) (s : State) : (nameMissing n ms s).sch = s.sch :=
  sch_of_changesOnly (co_nameMissing (L := [.evr]) _ _ s (by decide) (co_refl _ s)) (by decide)

/-! ## SEQ_FAULT -/

/-- The event of a fault, with the lane that its sequencer's last page access concerns. -/
def faultFired (tok : Token) (c : StepRec) (s : State) : State :=
  fire 7 (sidUnitAddr tok.src).1 (sidUnitAddr tok.src).2 (tok.arg % 256) (match accessLane s c tok.src with | some a => a.1.lane | none => 0) s

/-- A memory error of the sequencer's last page access is repaired. -/
def faultRepaired (tok : Token) (c : StepRec) (s : State) : State :=
  match accessLane s c tok.src with
  | some (l, layer, j) => memFault l layer j (tok.arg % 256) (faultFired tok c s)
  | none => fire 14 0 0 (tok.arg % 256) 0 (faultFired tok c s)

theorem seqFaultAct_eq (tok : Token) (c : StepRec) (s : State) : seqFaultAct tok c s =
    if 0x28 ≤ tok.arg % 256 ∧ tok.arg % 256 ≤ 0x2A then sendRewind 0 (modCur newExec (faultRepaired tok c s))
    else if c.seqSrc.isEmpty then
      sendRewind 0 (modCur (fun k => { newExec k with seqSrc := [tok.src] })
        (recordFault (sidUnitAddr tok.src).1 (sidUnitAddr tok.src).2 7 (tok.arg % 256) false (faultFired tok c s)))
    else sendAbandon false
      (recordFault (sidUnitAddr tok.src).1 (sidUnitAddr tok.src).2 7 (tok.arg % 256) (c.seqSrc.contains tok.src) (faultFired tok c s)) := rfl

theorem GoesOn.faultFired (tok : Token) (c : StepRec) (s : State) : GoesOn s (faultFired tok c s) := GoesOn.fire ..

theorem GoesOn.faultRepaired (tok : Token) (c : StepRec) (s : State) : GoesOn s (faultRepaired tok c s) := by
  unfold Machine.faultRepaired
  split
  · exact (GoesOn.faultFired tok c s).trans (GoesOn.memFault ..)
  · exact (GoesOn.faultFired tok c s).trans (GoesOn.fire ..)

/-- After changes through which the step goes on, a rewind to segment 0 reaches every participant. -/
theorem rewind_of_goesOn {s t : State} {c : StepRec} (hup : planesUp s) (hc : s.sch.cur = some c) (h : GoesOn s t) (f : StepRec → StepRec) :
    ∃ d, sameStep c d ∧ (sendRewind 0 (modCur f t)).sch.cur = some (nextAtt 0 (f d)) ∧ ((f d).parts = d.parts →
      ∀ p ∈ c.parts, sentTo (sendRewind 0 (modCur f t)) p 6) := by
  obtain ⟨d, hd, hcd⟩ := h.cur c hc
  obtain ⟨hcur, hsent⟩ := sendRewind_spec (s := modCur f t) (planesUp_of_goesOn (t := t) h hup) (cur_modCur hd f) 0
  refine ⟨d, hcd, hcur, fun hparts p hp => hsent p ?_⟩
  obtain ⟨-, hp', -⟩ := hcd
  rwa [hparts, hp']

/-- After changes through which the step goes on, an abandonment reaches every participant. -/
theorem abandon_of_goesOn {s t : State} {c : StepRec} (hup : planesUp s) (hc : s.sch.cur = some c) (h : GoesOn s t) (again : Bool) :
    ∃ d, sameStep c d ∧ (sendAbandon again t).sch.cur = some (abandoned again d) ∧ ∀ p ∈ c.parts, sentTo (sendAbandon again t) p 12 := by
  obtain ⟨d, hd, hcd⟩ := h.cur c hc
  obtain ⟨hcur, hsent⟩ := sendAbandon_spec (planesUp_of_goesOn h hup) hd again
  have hparts : d.parts = c.parts := hcd.2.1
  exact ⟨d, hcd, hcur, fun p hp => hsent p (by rwa [hparts])⟩

theorem seqFault_ends (tok : Token) {s : State} {c : StepRec} (hup : planesUp s) (hc : s.sch.cur = some c) :
    ∃ d, (seqFaultAct tok c s).sch.cur = some d ∧ d.num = c.num ∧
    (0x28 ≤ tok.arg % 256 → tok.arg % 256 ≤ 0x2A → d.rewind = some 0 ∧ d.seqSrc = c.seqSrc ∧ ∀ p ∈ c.parts, sentTo (seqFaultAct tok c s) p 6) ∧
    ((tok.arg % 256 < 0x28 ∨ 0x2A < tok.arg % 256) → c.seqSrc = [] → d.rewind = some 0 ∧ d.seqSrc = [tok.src] ∧
      ∀ p ∈ c.parts, sentTo (seqFaultAct tok c s) p 6) ∧
    ((tok.arg % 256 < 0x28 ∨ 0x2A < tok.arg % 256) → c.seqSrc ≠ [] → d.abandoning = true ∧ ∀ p ∈ c.parts, sentTo (seqFaultAct tok c s) p 12) := by
  rw [seqFaultAct_eq]
  by_cases hmem : 0x28 ≤ tok.arg % 256 ∧ tok.arg % 256 ≤ 0x2A
  · rw [if_pos hmem]
    obtain ⟨d, ⟨hnum, -, -, hsrc, -⟩, hcur, hsent⟩ := rewind_of_goesOn hup hc (GoesOn.faultRepaired tok c s) newExec
    exact ⟨_, hcur, hnum, fun _ _ => ⟨rfl, hsrc, hsent rfl⟩, fun h => absurd hmem (by omega), fun h => absurd hmem (by omega)⟩
  · rw [if_neg hmem]
    by_cases hfirst : c.seqSrc = []
    · rw [if_pos (by simp [hfirst])]
      obtain ⟨d, ⟨hnum, -⟩, hcur, hsent⟩ := rewind_of_goesOn hup hc ((GoesOn.faultFired tok c s).trans (GoesOn.recordFault (sidUnitAddr tok.src).1
        (sidUnitAddr tok.src).2 7 (tok.arg % 256) false _)) fun k => { newExec k with seqSrc := [tok.src] }
      exact ⟨_, hcur, hnum, fun h1 h2 => absurd ⟨h1, h2⟩ hmem, fun _ _ => ⟨rfl, rfl, hsent rfl⟩, fun _ h => absurd hfirst h⟩
    · rw [if_neg (by simp [hfirst])]
      obtain ⟨d, ⟨hnum, -⟩, hcur, hsent⟩ := abandon_of_goesOn hup hc ((GoesOn.faultFired tok c s).trans (GoesOn.recordFault (sidUnitAddr tok.src).1
        (sidUnitAddr tok.src).2 7 (tok.arg % 256) (c.seqSrc.contains tok.src) _)) false
      exact ⟨_, hcur, hnum, fun h1 h2 => absurd ⟨h1, h2⟩ hmem, fun _ h => absurd h hfirst, fun _ _ => ⟨rfl, hsent⟩⟩

/-! ## The gathering time -/

theorem markEnvelopes_spec {s : State} {c : StepRec} (hc : s.sch.cur = some c) :
    (markEnvelopes s).seq = s.seq ∧ ∃ x, (markEnvelopes s).sch.cur = some { c with d16Tile := x } := by
  unfold markEnvelopes
  rw [hc]
  exact ⟨rfl, _, cur_modCur hc _⟩

/-- A gathering time that ends in a rewind to its segment. -/
theorem gatherEnd_rewinds {s : State} {c : StepRec} (hup : planesUp s) (hc : s.sch.cur = some c) (seg : Nat) :
    let t := sendRewind seg (modCur (fun k => { k with rewinds := k.rewinds + 1 })
      (modCnv c.canvas (fun v => { v with rewinds := satAdd 32 v.rewinds 1 }) (markEnvelopes s)))
    ∃ x, t.sch.cur = some (nextAtt seg { c with d16Tile := x, rewinds := c.rewinds + 1 }) ∧ ∀ p ∈ c.parts, sentTo t p 6 := by
  intro t
  obtain ⟨hseq, x, hx⟩ := markEnvelopes_spec hc
  have hcur : (modCur (fun k => { k with rewinds := k.rewinds + 1 })
      (modCnv c.canvas (fun v => { v with rewinds := satAdd 32 v.rewinds 1 }) (markEnvelopes s))).sch.cur =
      some { c with d16Tile := x, rewinds := c.rewinds + 1 } := cur_modCur (by exact hx) _
  obtain ⟨h1, h2⟩ := sendRewind_spec (by rw [planesUp]; exact (congrArg SeqSt.planeBad hseq).trans hup) hcur seg
  exact ⟨x, h1, h2⟩

theorem reexecute_spec {s : State} {c : StepRec} (hup : planesUp s) (hc : s.sch.cur = some c) (seg : Nat) :
    (reexecute seg s).sch.cur = some (nextAtt 0 { newExec c with reexec := true, redo := true, var := 1 }) ∧
    ∀ p ∈ c.parts, sentTo (reexecute seg s) p 6 := by
  have hfire : (fire 5 0 0 0 seg s).sch.cur = some c := by rw [fire_sch, hc]
  have hcur : (modCur (fun k => { newExec k with reexec := true, redo := true, var := 1 })
      (modCnv c.canvas (fun v => { v with reexecs := satAdd 32 v.reexecs 1 }) (fire 5 0 0 0 seg s))).sch.cur =
      some { newExec c with reexec := true, redo := true, var := 1 } := cur_modCur (by exact hfire) _
  unfold reexecute
  rw [hc]
  exact sendRewind_spec (by rw [planesUp]; exact (congrArg SeqSt.planeBad (fire_seq ..)).trans hup) hcur 0

/-- A step that would need D16 from a lost image ends with its canvas held (R298). -/
def heldFor (c : Nat) (s : State) : State := modCnv c (fun v => { v with lostHold := true }) (holdCanvas c s)

theorem GoesOn.heldFor (c : Nat) (s : State) : GoesOn s (heldFor c s) :=
  GoesOn.of_changesOnly (L := [.cnv, .ptn, .net]) (co_modCnv _ _ _ (by decide) (co_holdCanvas _ _ (by decide) (co_refl _ s))) (by decide) (by decide)

theorem heldFor_sch (c : Nat) (s : State) : (heldFor c s).sch = s.sch :=
  sch_of_changesOnly (L := [.cnv, .ptn, .net]) (co_modCnv _ _ _ (by decide) (co_holdCanvas _ _ (by decide) (co_refl _ s))) (by decide)

theorem lostHold_heldFor (c : Nat) (s : State) : (cnvOf (heldFor c s) c).lostHold = true := by
  rw [heldFor, cnvOf_modCnv_same]

theorem gatherEnd_eq (c : StepRec) (seg : Nat) (s : State) : gatherEnd c seg s =
    if needsLost s c then heldFor c.canvas (sendAbandon false s)
    else if (c.redo || decide (8 ≤ c.rewinds)) && !c.reexec then reexecute seg s
    else sendRewind seg (modCur (fun k => { k with rewinds := k.rewinds + 1 })
      (modCnv c.canvas (fun v => { v with rewinds := satAdd 32 v.rewinds 1 }) (markEnvelopes s))) := rfl

/-- What the end of the gathering time leaves of a step whose replays need no lost image. -/
theorem gatherEnd_replays {s : State} {c : StepRec} (hup : planesUp s) (hc : s.sch.cur = some c) (seg : Nat) (hlost : needsLost s c = false) :
    ∃ d, (gatherEnd c seg s).sch.cur = some d ∧ d.gather = none ∧ d.att = c.att + 1 ∧ (∀ p ∈ c.parts, sentTo (gatherEnd c seg s) p 6) ∧
      (if (c.redo || decide (8 ≤ c.rewinds)) && !c.reexec then d.rewind = some 0 ∧ d.reexec = true ∧ d.var = 1 ∧ d.rewinds = 0
       else d.rewind = some seg ∧ d.rewinds = c.rewinds + 1) := by
  rw [gatherEnd_eq, if_neg (by simp [hlost])]
  split
  · obtain ⟨hcur, hsent⟩ := reexecute_spec hup hc seg
    exact ⟨_, hcur, rfl, rfl, hsent, rfl, rfl, rfl, rfl⟩
  · obtain ⟨x, hcur, hsent⟩ := gatherEnd_rewinds hup hc seg
    exact ⟨_, hcur, rfl, rfl, hsent, rfl, rfl⟩

theorem gatherEnd_ends {s : State} {c : StepRec} (hup : planesUp s) (hc : s.sch.cur = some c) (seg : Nat) (hlost : needsLost s c = true) :
    ∃ d, (gatherEnd c seg s).sch.cur = some d ∧ d.abandoning = true ∧ (∀ p ∈ c.parts, sentTo (gatherEnd c seg s) p 12) ∧
      (cnvOf (gatherEnd c seg s) c.canvas).lostHold = true := by
  obtain ⟨hcur, hsent⟩ := sendAbandon_spec hup hc false
  rw [gatherEnd_eq, if_pos hlost]
  exact ⟨_, by rw [heldFor_sch, hcur], rfl, fun p hp => sentTo_of_goesOn (GoesOn.heldFor ..) (hsent p hp), lostHold_heldFor ..⟩

/-! ## The watchdog -/

theorem uhWrite_drain (s : State) : (uhWrite s).hist.draining = s.hist.draining ∧ (uhWrite s).hist.cause = s.hist.cause ∧
    (uhWrite s).hist.inRepl = s.hist.inRepl ∧ (uhWrite s).hist.drainUs = s.hist.drainUs := by
  unfold uhWrite
  dsimp only
  split <;> exact ⟨rfl, rfl, rfl, rfl⟩

/-- The module drains, for its cause and from this microsecond on. -/
theorem hist_drained (us cause unit level : Nat) (s : State) : (drained us cause unit level s).hist.draining = true ∧
    (drained us cause unit level s).hist.cause = cause ∧ (drained us cause unit level s).hist.drainUs = us ∧
    (drained us cause unit level s).hist.inRepl = s.hist.inRepl := by
  have hafter : ∀ t : State, (evrCommit (setMstate 3 t)).hist = t.hist := fun t =>
    hist_of_changesOnly (L := [.evr, .dev]) (co_evrCommit _ (by decide) (co_setMstate _ _ (by decide) (co_refl _ t))) (by decide)
  have hraise : ∀ e f (t : State), (raiseAll allPtns e (raiseAll allPtns f (fire 3 unit level 0 cause t))).hist = t.hist := fun e f t =>
    hist_of_changesOnly (L := [.ptn, .net, .evr]) (co_raiseAll _ _ _ (by decide) (co_raiseAll _ _ _ (by decide)
      (co_fire _ _ _ _ _ t (by decide) (co_refl _ t)))) (by decide)
  unfold drained
  rw [hafter]
  obtain ⟨hd, hc, hr, hu⟩ := uhWrite_drain (raiseAll allPtns { ty := 5, flags := 1, unit := 0, level := 0, args := [cause] }
    (raiseAll allPtns { ty := 3, flags := 0, unit := unit, level := level, args := [cause] }
      (fire 3 unit level 0 cause { s with hist := { s.hist with draining := true, drainUs := us, cause := cause } })))
  rw [hd, hc, hr, hu, hraise]
  exact ⟨rfl, rfl, rfl, rfl⟩

theorem sendAbandon_drain (again : Bool) (s : State) : (sendAbandon again s).hist.draining = s.hist.draining ∧
    (sendAbandon again s).hist.inRepl = s.hist.inRepl := by
  unfold sendAbandon
  split
  · have hall : ∀ kind arg att (t : State), (schedToAll kind arg att t).hist = t.hist := fun kind arg att t =>
      hist_of_changesOnly (L := [.seq]) (co_schedToAll _ _ _ t (by decide) (co_refl _ t)) (by decide)
    dsimp only
    rw [hall]
    exact ⟨rfl, rfl⟩
  · exact ⟨rfl, rfl⟩

/-- A drain whose budget is spent at once. -/
def budgetSpent (s : State) : State := { s with hist := { s.hist with budgetNow := true } }

theorem watchdogDrain_eq (s : State) : watchdogDrain s = budgetSpent (drainDecision 8 0 0 (sendAbandon false s)) := rfl

theorem draining_budgetSpent (s : State) : (budgetSpent s).hist.draining = s.hist.draining := rfl
theorem cause_budgetSpent (s : State) : (budgetSpent s).hist.cause = s.hist.cause := rfl
theorem budgetNow_budgetSpent (s : State) : (budgetSpent s).hist.budgetNow = true := rfl

theorem GoesOn.budgetSpent (s : State) : GoesOn s (budgetSpent s) := ⟨rfl, fun _ h => h, fun c hc => ⟨c, hc, sameStep_refl c⟩⟩

theorem watchdogDrain_spec {s : State} {c : StepRec} (hup : planesUp s) (hc : s.sch.cur = some c) (hd : s.hist.draining = false) (hr : s.hist.inRepl = false) :
    ∃ d, (watchdogDrain s).sch.cur = some d ∧ d.abandoning = true ∧ (∀ p ∈ c.parts, sentTo (watchdogDrain s) p 12) ∧
      (watchdogDrain s).hist.draining = true ∧ (watchdogDrain s).hist.cause = 8 ∧ (watchdogDrain s).hist.budgetNow = true := by
  obtain ⟨hcur, hsent⟩ := sendAbandon_spec hup hc false
  obtain ⟨hd', hr'⟩ := sendAbandon_drain false s
  have hgo : GoesOn (sendAbandon false s) (watchdogDrain s) := (GoesOn.drainDecision 8 0 0 (sendAbandon false s)).trans (GoesOn.budgetSpent _)
  obtain ⟨d, hdcur, -, -, -, -, hab⟩ := hgo.cur _ hcur
  have hdrain : watchdogDrain s = budgetSpent (drained (sendAbandon false s).clk.us 8 0 0 (updRevert (sendAbandon false s))) := by
    rw [watchdogDrain_eq, drainDecision_eq, hd', hr', hd, hr, Bool.or_false, if_neg Bool.false_ne_true]
  obtain ⟨h1, h2, -, -⟩ := hist_drained (sendAbandon false s).clk.us 8 0 0 (updRevert (sendAbandon false s))
  refine ⟨d, hdcur, hab rfl, fun p hp => sentTo_of_goesOn hgo (hsent p hp), ?_, ?_, by rw [watchdogDrain_eq, budgetNow_budgetSpent]⟩
  · rw [hdrain, draining_budgetSpent, h1]
  · rw [hdrain, cause_budgetSpent, h2]

theorem watchdogOp_eq (c : StepRec) (s : State) : watchdogOp c s =
    if (missingParts s c).isEmpty then watchdogDrain (nameMissing (if c.wdFired then 2 else 1) (missingParts s c) s)
    else if !c.wdFired then
      sendAbandon true (modCur (fun k => { k with wdFired := true, missing := missingParts s c, startUs := s.clk.us })
        (nameMissing (if c.wdFired then 2 else 1) (missingParts s c) s))
    else sendAbandon false (((missingParts s c).filter c.missing.contains).foldl
      (fun t p => recordFault (sidUnitAddr p).1 (sidUnitAddr p).2 8 0 true t) (nameMissing (if c.wdFired then 2 else 1) (missingParts s c) s)) := rfl

/-- A step past its watchdog with a participant missing is executed again, and the second time ended. -/
theorem watchdogOp_of_missing {s : State} {c : StepRec} (hup : planesUp s) (hc : s.sch.cur = some c) (hm : missingParts s c ≠ []) :
    ∃ d, (watchdogOp c s).sch.cur = some d ∧ (∀ p ∈ c.parts, sentTo (watchdogOp c s) p 12) ∧
      (c.wdFired = false → d.abandoning = false ∧ d.wdFired = true ∧ d.missing = missingParts s c ∧ d.rewind = some 0) ∧
      (c.wdFired = true → d.abandoning = true) := by
  rw [watchdogOp_eq, if_neg (by simpa using hm)]
  cases hfired : c.wdFired with
  | false =>
    have hcur : (modCur (fun k => { k with wdFired := true, missing := missingParts s c, startUs := s.clk.us })
        (nameMissing (if false then 2 else 1) (missingParts s c) s)).sch.cur =
        some { c with wdFired := true, missing := missingParts s c, startUs := s.clk.us } :=
      cur_modCur (by rw [nameMissing_sch, hc]) _
    have hupN : planesUp (nameMissing (if false then 2 else 1) (missingParts s c) s) := planesUp_of_goesOn (GoesOn.nameMissing ..) hup
    obtain ⟨h1, h2⟩ := sendAbandon_spec (s := modCur _ _) hupN hcur true
    exact ⟨_, h1, h2, fun _ => ⟨rfl, rfl, rfl, rfl⟩, fun h => absurd h (by decide)⟩
  | true =>
    have hgo : GoesOn s (((missingParts s c).filter c.missing.contains).foldl
        (fun t p => recordFault (sidUnitAddr p).1 (sidUnitAddr p).2 8 0 true t) (nameMissing (if true then 2 else 1) (missingParts s c) s)) :=
      (GoesOn.nameMissing ..).trans (GoesOn.foldl (fun t p => GoesOn.recordFault ..) _ _)
    obtain ⟨d, -, h1, h2⟩ := abandon_of_goesOn hup hc hgo false
    exact ⟨_, h1, h2, fun h => absurd h (by decide), fun _ => rfl⟩

end Sys2Proof.Machine
end

section
/-! COMMIT (R257 to R259): what ends with the step. -/

namespace Sys2Proof.Machine

theorem wrote_freePage (ptn mark page : Nat) (s : State) : (freePage ptn mark page s).kv.wrote = s.kv.wrote := by
  unfold freePage
  split <;> rfl

theorem wrote_freePages (ix mark : Nat) (s : State) : (freePages ix mark s).kv.wrote = s.kv.wrote := by
  have hpages : ∀ (ps : List Nat) (ptn : Nat) (t : State), (ps.foldl (fun t p => freePage ptn mark p t) t).kv.wrote = t.kv.wrote := by
    intro ps ptn
    induction ps with
    | nil => exact fun _ => rfl
    | cons p ps ih => exact fun t => (ih _).trans (wrote_freePage ptn mark p t)
  exact hpages (entryOf s ix).pages (entryOf s ix).ptn s

theorem wrote_freeFar (ix mark : Nat) (s : State) : (freeFar ix mark s).kv.wrote = s.kv.wrote := by
  unfold freeFar
  dsimp only
  split <;> rfl

theorem freeEntry_kv (ix : Nat) (s : State) : (freeEntry ix s).kv = s.kv := rfl

theorem wrote_retire (ix : Nat) (s : State) : (retire ix s).kv.wrote = s.kv.wrote := by
  have hanswer : ∀ a b, (answerWaiting ix a b s).kv = s.kv := fun a b =>
    (co_answerWaiting (L := [.req, .net]) ix a b s (by decide) (co_refl _ s)).2 .kv (by decide)
  unfold retire
  dsimp only
  split
  · rfl
  · split
    · rw [modEntry_kv, wrote_freePages, wrote_freeFar, hanswer]
    · rw [freeEntry_kv, wrote_freePages, wrote_freeFar, hanswer]

theorem wrote_retireKilled (s : State) : (retireKilled s).kv.wrote = s.kv.wrote := by
  unfold retireKilled
  exact List.foldlRecOn (motive := fun t : State => t.kv.wrote = s.kv.wrote) _ _ rfl fun t ht ix _ => (wrote_retire ix t).trans ht

/-- A sequencer that waits for the next step boundary. -/
def idled (q : Seq) : Seq := { Seq.init with sendSeq := q.sendSeq, seen := q.seen, step := q.step }

def idleParts (ps : List Nat) (s : State) : State := ps.foldl (fun t p => modSeq p idled t) s

theorem idleParts_frame (ps : List Nat) (s : State) : (idleParts ps s).sch = s.sch ∧ (idleParts ps s).cnv = s.cnv :=
  List.foldlRecOn (motive := fun u : State => u.sch = s.sch ∧ u.cnv = s.cnv) ps _ ⟨rfl, rfl⟩ fun _ hu _ _ => hu

theorem seqOf_idleParts (ps : List Nat) (s : State) (p : Nat) (h : p ∈ ps ∨ ∃ q, seqOf s p = idled q) : ∃ q, seqOf (idleParts ps s) p = idled q := by
  induction ps generalizing s with
  | nil => exact h.resolve_left List.not_mem_nil
  | cons x xs ih =>
    refine ih (modSeq x idled s) ?_
    by_cases hx : p = x
    · subst hx
      exact Or.inr ⟨_, seqOf_modSeq_same ..⟩
    · rw [seqOf_modSeq_ne _ _ _ _ hx]
      exact h.imp_left fun hm => (List.mem_cons.mp hm).resolve_left hx

/-- What stays of the scheduler core's record of a step. -/
def stepEnded (c : StepRec) (x : SchedSt) : SchedSt := { x with cur := none, lastStep := c.num % 2 ^ 24, lastCv := c.canvas, lastV := true }

theorem clearStep_of_cur {s : State} {c : StepRec} (hc : s.sch.cur = some c) : clearStep s =
    { idleParts c.parts s with
      sch := stepEnded c (idleParts c.parts s).sch
      core := { (idleParts c.parts s).core with samples := [], rxKill := [], tintH := [], bind := [] }
      glz := { (idleParts c.parts s).glz with varNew := [], varReset := [], rep := [], kvNew := [], boundNew := [], fetched := [] }
      arr := { (idleParts c.parts s).arr with stroked := [], listedSat := [], d16Cols := [] }
      kv := { (idleParts c.parts s).kv with wrote := [], opened := [] }
      head := { (idleParts c.parts s).head with drafts := [] } } := by
  unfold clearStep
  rw [hc]
  rfl

/-- The participants of the step are idle, and nothing of the step is left. -/
theorem clearStep_spec {s : State} {c : StepRec} (hc : s.sch.cur = some c) :
    (clearStep s).sch.steps = s.sch.steps ∧ (clearStep s).cnv = s.cnv ∧ (clearStep s).glz.varNew = [] ∧ (clearStep s).core.samples = [] ∧
    (clearStep s).kv.wrote = [] ∧ ∀ p ∈ c.parts, (seqOf (clearStep s) p).phase = 0 ∧ (seqOf (clearStep s) p).replays = [] := by
  obtain ⟨hsch, hcnv⟩ := idleParts_frame c.parts s
  rw [clearStep_of_cur hc]
  refine ⟨?_, hcnv, rfl, rfl, rfl, fun p hp => ?_⟩
  · change (stepEnded c (idleParts c.parts s).sch).steps = _
    rw [hsch]
    rfl
  obtain ⟨q, hq⟩ := seqOf_idleParts c.parts s p (Or.inl hp)
  change (seqOf (idleParts c.parts s) p).phase = 0 ∧ (seqOf (idleParts c.parts s) p).replays = []
  rw [hq]
  exact ⟨rfl, rfl⟩

theorem cnv_raiseFloor_steps (k c : Nat) (s : State) : (cnvOf (raiseFloor k s) c).steps = (cnvOf s c).steps := by
  have hafter : ∀ ns e (t : State), (raiseAll ns e (fire 8 0 0 1 k t)).cnv = t.cnv := fun ns e t =>
    cnv_of_changesOnly (L := [.ptn, .net, .evr]) (co_raiseAll _ _ _ (by decide) (co_fire _ _ _ _ _ t (by decide) (co_refl _ t))) (by decide)
  have hcal : ∀ (l : List Nat) (t : State), (l.foldl (fun u cl => calDue 5 cl u) t).cnv = t.cnv := fun l t =>
    List.foldlRecOn (motive := fun u : State => u.cnv = t.cnv) l _ rfl fun _ hu _ _ => hu
  have hmod : (cnvOf (modCnv k (fun v => { v with floor := true, floorLeft := 4096, consec := 0, floorRises := satAdd 32 v.floorRises 1 }) s) c).steps =
      (cnvOf s c).steps := by
    rw [cnvOf_modCnv]
    split <;> rfl
  unfold raiseFloor
  dsimp only
  split
  · rw [cnvOf, hcal, hafter, ← cnvOf, hmod]
  · rw [cnvOf, hafter, ← cnvOf, hmod]

/-- A step counted on its canvas. -/
def stepCounted (c : StepRec) (s : State) : State :=
  modCnv c.canvas (fun v => { v with floorLeft := v.floorLeft - 1, consec := if c.reexec then v.consec + 1 else 0, steps := satAdd 64 v.steps 1 }) s

theorem floorCommit_eq (c : StepRec) (s : State) : floorCommit c s =
    if 2 ≤ (cnvOf (stepCounted c s) c.canvas).consec then raiseFloor c.canvas (stepCounted c s) else stepCounted c s := rfl

/-- COMMIT counts the step on its canvas. -/
theorem floorCommit_steps (c : StepRec) (s : State) : (cnvOf (floorCommit c s) c.canvas).steps = satAdd 64 (cnvOf s c.canvas).steps 1 := by
  have hcount : (cnvOf (stepCounted c s) c.canvas).steps = satAdd 64 (cnvOf s c.canvas).steps 1 := by rw [stepCounted, cnvOf_modCnv_same]
  rw [floorCommit_eq]
  split
  · rw [cnv_raiseFloor_steps, hcount]
  · exact hcount

theorem commitHolders_spec (c : StepRec) (s : State) : (commitHolders c s).sch = s.sch ∧
    (cnvOf (commitHolders c s) c.canvas).steps = satAdd 64 (cnvOf s c.canvas).steps 1 := by
  refine ⟨sch_of_changesOnly (L := [.arr, .core, .glz, .kv, .head, .req, .cnv, .ptn, .net, .cal, .evr, .free])
    (co_commitHolders c s (by decide) (co_refl _ s)) (by decide), ?_⟩
  unfold commitHolders
  dsimp only
  rw [floorCommit_steps]
  have hco : changesOnly [.arr, .core, .glz, .kv, .head, .req, .ptn, .net, .evr, .free] s (stepRamps (fun r => 1 ≤ r.k) (statCommit c.num (varCommit
      (layerCounts c.canvas ((cnvOf s c.canvas).steps + 1) (reportCommit ((cnvOf s c.canvas).steps + 1) (cleanCommit (satCommit
        (c.lanes.foldl (fun t l => laneOutcome c l t) s)))))))) :=
    co_stepRamps _ _ (by decide) (co_statCommit _ _ (by decide) (co_varCommit _ (by decide) (co_layerCounts _ _ _ (by decide)
      (co_reportCommit _ _ (by decide) (co_cleanCommit _ (by decide) (co_satCommit _ (by decide)
        (co_foldl _ (fun t l ht => co_laneOutcome c l t (by decide) ht) _ s (co_refl _ s))))))))
  rw [cnvOf, cnv_of_changesOnly hco (by decide), ← cnvOf]

theorem countStep_frame (s : State) : (countStep s).sch.cur = s.sch.cur ∧ (countStep s).sch.steps = satAdd 64 s.sch.steps 1 ∧ (countStep s).cnv = s.cnv ∧
    (countStep s).glz = s.glz ∧ (countStep s).core = s.core ∧ (countStep s).kv = s.kv ∧ (countStep s).seq = s.seq :=
  ⟨rfl, rfl, rfl, rfl, rfl, rfl, rfl⟩

/-- The end of the entries of killed lanes leaves what the step's end cleared. -/
theorem retireKilled_frame (s : State) : (retireKilled s).cnv = s.cnv ∧ (retireKilled s).glz = s.glz ∧ (retireKilled s).core = s.core ∧
    (retireKilled s).seq = s.seq := by
  have hco := co_retireKilled (L := [.kv, .head, .req, .net]) s (by decide) (co_refl _ s)
  exact ⟨hco.2 .cnv (by decide), hco.2 .glz (by decide), hco.2 .core (by decide), hco.2 .seq (by decide)⟩

theorem settleXfers_frame (c : StepRec) (s : State) : (settleXfers c s).sch = s.sch ∧ (settleXfers c s).cnv = s.cnv := ⟨rfl, rfl⟩

theorem commitOp_of_ready {s : State} {c : StepRec} (hc : s.sch.cur = some c) (hr : c.cmtReady = true) :
    (commitOp s).sch.cur = none ∧ (commitOp s).sch.steps = satAdd 64 s.sch.steps 1 ∧
      (cnvOf (commitOp s) c.canvas).steps = satAdd 64 (cnvOf s c.canvas).steps 1 ∧ (commitOp s).glz.varNew = [] ∧ (commitOp s).core.samples = [] ∧
      (commitOp s).kv.wrote = [] ∧ ∀ p ∈ c.parts, (seqOf (commitOp s) p).phase = 0 ∧ (seqOf (commitOp s) p).replays = [] := by
  have hop : commitOp s = countStep (retireKilled (clearStep (commitHolders c (settleXfers c s)))) := by
    unfold commitOp
    rw [hc]
    exact if_pos hr
  obtain ⟨hsch0, hcnv0⟩ := settleXfers_frame c s
  obtain ⟨hsch, hsteps⟩ := commitHolders_spec c (settleXfers c s)
  rw [hsch0] at hsch
  rw [cnvOf, cnvOf, hcnv0, ← cnvOf, ← cnvOf] at hsteps
  obtain ⟨h1, h2, h3, h4, h5, h6⟩ := clearStep_spec (s := commitHolders c (settleXfers c s)) (by rw [hsch, hc])
  obtain ⟨k1, k2, k3, k4, k5, k6, k7⟩ := countStep_frame (retireKilled (clearStep (commitHolders c (settleXfers c s))))
  obtain ⟨m3, m4, m5, m7⟩ := retireKilled_frame (clearStep (commitHolders c (settleXfers c s)))
  rw [hop]
  refine ⟨by rw [k1, retireKilled_sch, cur_clearStep], by rw [k2, retireKilled_sch, h1, hsch], ?_, by rw [k4, m4, h3], by rw [k5, m5, h4],
    by rw [k6, wrote_retireKilled, h5], fun p hp => ?_⟩
  · rw [cnvOf, k3, m3, h2, ← cnvOf, hsteps]
  · rw [seqOf, k7, m7, ← seqOf]
    exact h6 p hp

/-- Settles O29: each way a step ends or goes on, by what it leaves of the step's record and what it sends. -/
theorem stepEndsAndFaults : Obligations.StepEndsAndFaults := by
  unfold Obligations.StepEndsAndFaults
  refine ⟨fun tok s c hup harr => ?_, fun s hup => ⟨fun hnone => ?_, fun c hc => ?_⟩⟩
  · have hc : (tokenTaken s schedSid tok).sch.cur = some c := cur_of_arrivesSched harr
    obtain ⟨d, hd⟩ := seqFault_ends tok (planesUp_tokenTaken hup schedSid tok) hc
    exact ⟨_, d, schedToken_of_arrives harr (seqFaultAct tok), hd⟩
  · have h1 : commitOp s = s := by unfold commitOp; rw [hnone]
    have h2 : gatherExpiry s = s := by unfold gatherExpiry; rw [hnone]
    have h3 : stepWatchdog s = s := by unfold stepWatchdog; rw [hnone]
    exact ⟨congrArg Host.Outcome.next h1, congrArg Host.Outcome.next h2, congrArg Host.Outcome.next h3⟩
  · have hgather : ∀ g, c.gather = g → gatherExpiry s = match g with | some seg => gatherEnd c seg s | none => s := by
      rintro g rfl
      unfold gatherExpiry
      rw [hc] <;> rfl
    have hwatch : stepWatchdog s = if watchdogDue s c then watchdogOp c s else s := by
      unfold stepWatchdog
      rw [hc]
    refine ⟨fun hr => ?_, fun hr => ?_, fun hg => ?_, fun seg hg hlost => ?_, fun seg hg hlost => ?_, fun hw => ?_, fun hw hm => ?_, fun hw hm hd hrep => ?_⟩
    · refine congrArg Host.Outcome.next (?_ : commitOp s = s)
      unfold commitOp
      rw [hc]
      exact if_neg (by simp [hr])
    · exact ⟨_, rfl, commitOp_of_ready hc hr⟩
    · exact congrArg Host.Outcome.next (hgather none hg)
    · obtain ⟨d, hd⟩ := gatherEnd_replays hup hc seg hlost
      exact ⟨_, d, congrArg Host.Outcome.next (hgather (some seg) hg), hd⟩
    · obtain ⟨d, hd⟩ := gatherEnd_ends hup hc seg hlost
      exact ⟨_, d, congrArg Host.Outcome.next (hgather (some seg) hg), hd⟩
    · exact congrArg Host.Outcome.next (hwatch.trans (if_neg (by simp [hw])))
    · obtain ⟨d, hd⟩ := watchdogOp_of_missing hup hc hm
      exact ⟨_, d, congrArg Host.Outcome.next (hwatch.trans (if_pos hw)), hd⟩
    · have hop : watchdogOp c s = watchdogDrain (nameMissing (if c.wdFired then 2 else 1) (missingParts s c) s) := by
        rw [watchdogOp_eq, if_pos (by rw [hm]; rfl)]
      have hgo := GoesOn.nameMissing (if c.wdFired then 2 else 1) (missingParts s c) s
      have hhist : (nameMissing (if c.wdFired then 2 else 1) (missingParts s c) s).hist = s.hist :=
        hist_of_changesOnly (L := [.evr]) (co_nameMissing _ _ s (by decide) (co_refl _ s)) (by decide)
      obtain ⟨d, hd'⟩ := watchdogDrain_spec (planesUp_of_goesOn hgo hup) (by rw [nameMissing_sch, hc]) (by rw [hhist, hd]) (by rw [hhist, hrep])
      rw [← hop] at hd'
      exact ⟨_, d, congrArg Host.Outcome.next (hwatch.trans (if_pos hw)), hd'⟩

end Sys2Proof.Machine
end

section
/-! Calibration: the gap's opening and closing, intervals, counts and saved drift tables (R424 to R444). -/

namespace Sys2Proof.Machine

/-! ## Tables and bits -/

theorem tget_tkeep {α : Type} (d : α) (p : Nat → Bool) (t : Tab α) (k : Nat) : tget d (tkeep p t) k = if p k then tget d t k else d := by
  induction t with
  | nil => simp [tkeep, tget]
  | cons e t ih =>
    obtain ⟨k0, v⟩ := e
    simp only [tkeep] at ih ⊢
    by_cases hp : p k0 = true <;> by_cases hk : k = k0 <;> simp_all [tget]

/-- Keys put one after another read as put, the others as before. -/
theorem tget_foldl_tput {α : Type} [DecidableEq α] (d : α) (g : Nat → α) (ks : List Nat) (t : Tab α) (k : Nat) :
    tget d (ks.foldl (fun t k => tput d t k (g k)) t) k = if k ∈ ks then g k else tget d t k := by
  induction ks generalizing t with
  | nil => simp
  | cons j ks ih =>
    rw [List.foldl_cons, ih, tget_tput]
    by_cases h : k ∈ ks <;> by_cases hj : k = j <;> simp_all

theorem tget_of_not_mem {α : Type} (d : α) (t : Tab α) (k : Nat) (h : k ∉ t.map (·.1)) : tget d t k = d := by
  rcases tget_mem d t k with h1 | h1
  · exact h1
  · exact absurd (List.mem_map_of_mem h1) h

theorem bitOf_add_of_clear {w c : Nat} (h : bitOf w c = false) : bitOf (w + 2 ^ c) c = true := by
  have hdiv : (w + 2 ^ c) / 2 ^ c = w / 2 ^ c + 1 := Nat.add_div_right _ (Nat.two_pow_pos c)
  simp only [bitOf, beq_eq_false_iff_ne, beq_iff_eq, hdiv] at h ⊢
  omega

/-- What every step of a fold keeps, the fold keeps. -/
theorem foldl_keeps {α β γ : Type} (p : α → γ) (f : α → β → α) (h : ∀ t x, p (f t x) = p t) (l : List β) (s : α) : p (l.foldl f s) = p s := by
  induction l generalizing s with
  | nil => rfl
  | cons x l ih => rw [List.foldl_cons, ih, h]

theorem cal_of_changesOnly {L : List Part} {s t : State} (h : changesOnly L s t) (hp : Part.cal ∉ L) : t.cal = s.cal := h.2 .cal hp

theorem calOf_calDue_same (cause cl : Nat) (s : State) : bitOf (calOf (calDue cause cl s) cl).due cause = true := by
  rw [calDue, calOf_modCal_same]
  by_cases h : bitOf (calOf s cl).due cause = true
  · rw [if_pos h]; exact h
  · rw [if_neg h]; exact bitOf_add_of_clear (by simpa using h)

theorem calOf_calDue_count (cause cl : Nat) (s : State) : (calOf (calDue cause cl s) cl).count = (calOf s cl).count := by
  rw [calDue, calOf_modCal_same]

/-! ## The gap opens -/

/-- What the measurements of a gap leave as its opening set it: that it is open, since when, over which clusters, and the counts of gaps. -/
def gapFrame (s : State) : Bool × Nat × List Nat × Nat × Nat := (s.cal.gap, s.cal.gapUs, s.cal.gapSet, s.cal.modCount, s.cal.modLast)

theorem gapFrame_of_changesOnly {L : List Part} {s t : State} (h : changesOnly L s t) (hp : Part.cal ∉ L) : gapFrame t = gapFrame s := by
  rw [gapFrame, cal_of_changesOnly h hp, gapFrame]

theorem gapFrame_exhaustArray (a d : Nat) (s : State) : gapFrame (exhaustArray a d s) = gapFrame s :=
  gapFrame_of_changesOnly (co_exhaustArray (L := [.arr, .seq, .sch, .cnv, .ptn, .net, .hist, .sec, .evr, .dev]) a d s (by decide) (co_refl _ s)) (by decide)

theorem gapFrame_recordFault (u lv c d : Nat) (b : Bool) (s : State) : gapFrame (recordFault u lv c d b s) = gapFrame s :=
  gapFrame_of_changesOnly (co_recordFault (L := [.seq, .sch, .cnv, .ptn, .net, .hist, .sec, .evr, .dev]) u lv c d b s (by decide) (co_refl _ s)) (by decide)

theorem gapFrame_wantRemap (a p c : Nat) (s : State) : gapFrame (wantRemap a p c s) = gapFrame s :=
  gapFrame_of_changesOnly (co_wantRemap (L := [.arr, .evr]) a p c s (by decide) (co_refl _ s)) (by decide)

theorem gapFrame_fire (t u lv c d : Nat) (s : State) : gapFrame (fire t u lv c d s) = gapFrame s :=
  gapFrame_of_changesOnly (co_fire (L := [.evr]) t u lv c d s (by decide) (co_refl _ s)) (by decide)

theorem gapFrame_healthUnit (u lv i : Nat) (s : State) : gapFrame (healthUnit u lv i s) = gapFrame s :=
  gapFrame_of_changesOnly (co_healthUnit (L := [.ptn, .net]) u lv i s (by decide) (co_refl _ s)) (by decide)

theorem gapFrame_modCal (cl : Nat) (f : CalCl → CalCl) (s : State) : gapFrame (modCal cl f s) = gapFrame s := rfl

theorem gapFrame_place (core : Nat) (drift : Bool) (key : Nat) (v : Int × Int) (s : State) : gapFrame (place core drift key v s) = gapFrame s := by
  unfold place
  split <;> rfl

theorem gapFrame_discard (cl key u lv c : Nat) (s : State) : gapFrame (discard cl key u lv c s) = gapFrame s := by
  unfold discard
  rw [gapFrame_fire, gapFrame_modCal]; rfl

theorem gapFrame_accept (key : Nat) (s : State) : gapFrame (accept key s) = gapFrame s := rfl

theorem gapFrame_sendColumn (tile col : Nat) (s : State) : gapFrame (sendColumn tile col s) = gapFrame s := by
  unfold sendColumn
  rw [gapFrame_healthUnit, gapFrame_fire]
  exact foldl_keeps gapFrame _ (fun t a => gapFrame_wantRemap a _ col t) _ s

theorem gapFrame_measConv (m : CalMeas) (s : State) : gapFrame (measConv m s) = gapFrame s := by
  unfold measConv
  dsimp only
  split
  · split
    · rw [gapFrame_exhaustArray, gapFrame_discard]
    · rw [gapFrame_discard]
  · split
    · rw [gapFrame_exhaustArray]
    · rw [foldl_keeps gapFrame _ (fun t e => by split <;> simp only [gapFrame_place]) _ _, gapFrame_accept]

theorem gapFrame_measSwatch (m : CalMeas) (s : State) : gapFrame (measSwatch m s) = gapFrame s := by
  unfold measSwatch
  dsimp only
  split
  · split
    · rw [gapFrame_exhaustArray, gapFrame_discard]
    · rw [gapFrame_discard]
  · split
    · rw [gapFrame_exhaustArray]
    · rfl

theorem gapFrame_measure (s : State) (m : CalMeas) : gapFrame (measure s m) = gapFrame s := by
  unfold measure
  split
  · split
    · rw [gapFrame_measSwatch]
    · rw [gapFrame_measConv]
  · rfl

/-- A column whose two halves disagree, or whose spread is not positive. -/
def driftBad (tile col : Nat) (t : State) : State :=
  let t1 := discard (clusterOf tile) (driftKey tile col) (engineOf tile) 3 col t
  if 3 ≤ tget 0 t1.cal.disc (driftKey tile col) then recordFault (coreOf tile) 2 11 col false (sendColumn tile col t1) else t1

theorem gapFrame_driftBad (tile col : Nat) (s : State) : gapFrame (driftBad tile col s) = gapFrame s := by
  unfold driftBad
  dsimp only
  split
  · rw [gapFrame_recordFault, gapFrame_sendColumn, gapFrame_discard]
  · rw [gapFrame_discard]

theorem gapFrame_measDrift (tile : Nat) (h0 h1 : Stats) (s : State) (col : Nat) : gapFrame (measDrift tile h0 h1 s col) = gapFrame s := by
  unfold measDrift
  dsimp only
  split
  · split
    · exact gapFrame_driftBad tile col s
    · split
      · rw [gapFrame_sendColumn, gapFrame_accept]
      · rw [gapFrame_place, gapFrame_accept]
  · exact gapFrame_driftBad tile col s

theorem gapFrame_measTile (s : State) (tile : Nat) : gapFrame (measTile s tile) = gapFrame s :=
  foldl_keeps gapFrame _ (gapFrame_measDrift tile _ _) _ s

/-- The gap as its opening sets it, before any measurement. -/
def gapOpened (s : State) : State :=
  { s with cal := { s.cal with gap := true, gapUs := s.clk.us, anyGap := true, gapSet := (s.cal.cls.filter fun e => e.2.due != 0).map (·.1), placing := [], whole := [], modCount := satAdd 32 s.cal.modCount 1, modLast := s.clk.hours } }

theorem calEvent_cal (s : State) : (calEvent s).cal = { s.cal with evUs := s.clk.us, evAny := true, evDue := false } :=
  cal_of_changesOnly (co_raiseAll (L := [.ptn, .net]) _ _ _ (by decide) (co_refl _ _)) (by decide)

/-- The counts go out at once, or later. -/
def gapCounted (s : State) : State :=
  if !s.cal.evAny || decide (s.cal.evUs + 60000000 ≤ s.clk.us) then calEvent s else { s with cal := { s.cal with evDue := true } }

theorem gapFrame_gapCounted (s : State) : gapFrame (gapCounted s) = gapFrame s := by
  unfold gapCounted
  split
  · rw [gapFrame, calEvent_cal, gapFrame]
  · rfl

/-- The gap over its due clusters, ready to measure. -/
def gapReady (s : State) : State :=
  ((s.cal.cls.filter fun e => e.2.due != 0).map (·.1)).foldl (fun t cl => modCal cl (fun k =>
    { k with gapDisc := false, gapCause := lowCause k.due, discs := 0, tlast := (clusterTemp t cl).getD k.tlast % 4096 }) t) (gapCounted (gapOpened s))

theorem gapOpen_eq (meas : List CalMeas) (s : State) :
    gapOpen meas s = (driftTiles (gapReady s)).foldl measTile (meas.foldl measure (gapReady s)) := rfl

theorem gapFrame_gapOpen (meas : List CalMeas) (s : State) : gapFrame (gapOpen meas s) = gapFrame (gapOpened s) := by
  rw [gapOpen_eq, foldl_keeps gapFrame measTile gapFrame_measTile, foldl_keeps gapFrame measure gapFrame_measure, gapReady,
    foldl_keeps gapFrame _ (fun t cl => gapFrame_modCal cl _ t), gapFrame_gapCounted]

theorem exec_gapOpen {meas : List CalMeas} {s : State} (hm : (meas.all fun m => isArray m.array) = true) :
    exec (.calibrationGapOpen meas) s = .next (if s.sch.cur.isNone && !s.cal.gap && gapDue s && s.dev.row != 0 then gapOpen meas s else s) := by
  change execCalibrationGapOpen meas s = _
  rw [execCalibrationGapOpen, hm]; rfl

/-! ## The gap closes -/

theorem closeCluster_gapDisc {s : State} {cl : Nat} (h : (calOf s cl).gapDisc = true) : closeCluster s cl = calDue 7 cl s := by
  rw [closeCluster, if_pos h]

theorem closeCluster_ne {s : State} {cl c : Nat} (h : c ≠ cl) : calOf (closeCluster s cl) c = calOf s c := by
  unfold closeCluster
  dsimp only
  split
  · rw [calDue, calOf_modCal_ne _ _ _ _ h]
  · rw [calOf_modCal_ne _ _ _ _ h]; rfl

/-- What a cluster's calibration leaves: accepted and counted, or due for RETRY. -/
theorem closeCluster_same (s : State) (cl : Nat) :
    ((calOf s cl).gapDisc = false → (calOf (closeCluster s cl) cl).count = satAdd 32 (calOf s cl).count 1 ∧
      (calOf (closeCluster s cl) cl).due = 0 ∧ (calOf (closeCluster s cl) cl).last = s.clk.hours) ∧
    ((calOf s cl).gapDisc = true → (calOf (closeCluster s cl) cl).count = (calOf s cl).count ∧ bitOf (calOf (closeCluster s cl) cl).due 7 = true) := by
  constructor
  · intro h
    rw [closeCluster, if_neg (by simp [h]), calOf_modCal_same]
    exact ⟨rfl, rfl, rfl⟩
  · intro h
    rw [closeCluster_gapDisc h]
    exact ⟨calOf_calDue_count 7 cl s, calOf_calDue_same 7 cl s⟩

theorem closeCluster_clk (s : State) (cl : Nat) : (closeCluster s cl).clk = s.clk := by
  unfold closeCluster
  dsimp only
  split <;> rfl

theorem closeClusters_of_not_mem {cls : List Nat} {s : State} {c : Nat} (h : c ∉ cls) : calOf (cls.foldl closeCluster s) c = calOf s c := by
  induction cls generalizing s with
  | nil => rfl
  | cons cl cls ih => rw [List.foldl_cons, ih (fun hm => h (List.mem_cons_of_mem _ hm)), closeCluster_ne (List.ne_of_not_mem_cons h)]

/-- Every cluster of a gap closes once. -/
theorem closeClusters_of_mem {cls : List Nat} (hnd : cls.Nodup) {s : State} {c : Nat} (h : c ∈ cls) :
    ∃ u, calOf (cls.foldl closeCluster s) c = calOf (closeCluster u c) c ∧ calOf u c = calOf s c ∧ u.clk = s.clk := by
  induction cls generalizing s with
  | nil => cases h
  | cons cl cls ih =>
    obtain ⟨hcl, hnd⟩ := List.nodup_cons.1 hnd
    rcases List.mem_cons.1 h with rfl | hm
    · exact ⟨s, by rw [List.foldl_cons, closeClusters_of_not_mem hcl], rfl, rfl⟩
    · obtain ⟨u, h1, h2, h3⟩ := ih hnd (s := closeCluster s cl) hm
      exact ⟨u, h1, h2.trans (closeCluster_ne fun he => hcl (he ▸ hm)), h3.trans (closeCluster_clk s cl)⟩

/-- The values of a gap written whole, and the ramps of the others started. -/
def gapWritten (s : State) : State := s.cal.placing.foldl (fun t r => startRamp r t) (s.cal.whole.foldl (fun t w => writeWhole w t) s)

theorem co_gapWritten (s : State) : changesOnly [.arr, .glz] s (gapWritten s) :=
  co_foldl _ (fun t r h => co_startRamp r t (by decide) h) _ _ (co_foldl _ (fun t w h => co_writeWhole w t (by decide) h) _ _ (co_refl _ s))

/-- The gap of a module as its closing leaves it. -/
def gapClosed (s : State) : State := { s with cal := { s.cal with gap := false, gapSet := [], placing := [], whole := [] } }

theorem gapClose_eq {s : State} (hg : s.cal.gap = true) (hus : s.cal.gapUs + 1200 ≤ s.clk.us) :
    gapClose s = gapClosed (settleSpares (s.cal.gapSet.foldl closeCluster (gapWritten s))) := by
  rw [gapClose, if_pos (by simp [hg, hus])]; rfl

/-- A gap whose time has passed closes, and what waited on it starts, which leaves calibration alone. -/
theorem exec_gapClose {s : State} (hg : s.cal.gap = true) (hus : s.cal.gapUs + 1200 ≤ s.clk.us) :
    ∃ t, exec .calibrationGapClose s = .next t ∧ t.cal = (gapClose s).cal := by
  have hclosed : (gapClose s).cal.gap = false := by rw [gapClose_eq hg hus]; rfl
  refine ⟨afterGap (gapClose s), ?_,
    cal_of_changesOnly (co_afterGap (L := [.glz, .seq, .kv, .cnv, .ptn, .net, .dev]) _ (by decide) (co_refl _ _)) (by decide)⟩
  change execCalibrationGapClose s = _
  rw [execCalibrationGapClose, hg, hclosed]; rfl

theorem gapClose_of_not_due {s : State} (h : s.cal.gap = false ∨ s.clk.us < s.cal.gapUs + 1200) : gapClose s = s := by
  rw [gapClose, if_neg]
  rcases h with h | h
  · simp [h]
  · simp [Nat.not_le.2 h]

theorem gapClose_cluster {s : State} (hg : s.cal.gap = true) (hus : s.cal.gapUs + 1200 ≤ s.clk.us) (hnd : s.cal.gapSet.Nodup) {cl : Nat}
    (hcl : cl ∈ s.cal.gapSet) :
    ((calOf s cl).gapDisc = false → (calOf (gapClose s) cl).count = satAdd 32 (calOf s cl).count 1 ∧ (calOf (gapClose s) cl).due = 0 ∧
      (calOf (gapClose s) cl).last = s.clk.hours) ∧
    ((calOf s cl).gapDisc = true → (calOf (gapClose s) cl).count = (calOf s cl).count ∧ bitOf (calOf (gapClose s) cl).due 7 = true) := by
  obtain ⟨u, h1, h2, h3⟩ := closeClusters_of_mem hnd (s := gapWritten s) hcl
  have h4 : calOf (gapClose s) cl = calOf (closeCluster u cl) cl := by rw [gapClose_eq hg hus]; exact h1
  have h5 : calOf u cl = calOf s cl := h2.trans (congrArg (fun k : CalSt => tget CalCl.init k.cls cl) (cal_of_changesOnly (co_gapWritten s) (by decide)))
  have h6 : u.clk = s.clk := h3.trans ((co_gapWritten s).2 .clk (by decide))
  rw [h4, ← h5, ← h6]
  exact closeCluster_same u cl

/-! ## Saved drift tables -/

theorem tget_saveDrift (cl : Nat) (s : State) (k : Nat) : tget (0, 0) (saveDrift cl s).glz.saved k =
    if clusterOf (k / 64) = cl then tget (0, 0) s.arr.drift k else tget (0, 0) s.glz.saved k := by
  change tget (0, 0) (((s.arr.drift.map (·.1)).filter fun k => clusterOf (k / 64) == cl).foldl (fun t k => tput (0, 0) t k (tget (0, 0) s.arr.drift k))
    (tkeep (fun k => clusterOf (k / 64) != cl) s.glz.saved)) k = _
  rw [tget_foldl_tput (0, 0) (fun k => tget (0, 0) s.arr.drift k), tget_tkeep]
  by_cases hk : clusterOf (k / 64) = cl
  · by_cases hm : k ∈ s.arr.drift.map (·.1)
    · rw [if_pos (by simp [hk, List.mem_map.1 hm]), if_pos hk]
    · rw [if_neg (fun h => hm (List.mem_filter.1 h).1), if_neg (by simp [hk]), if_pos hk, tget_of_not_mem _ _ _ hm]
  · rw [if_neg (fun h => hk (by simpa using (List.mem_filter.1 h).2)), if_pos (by simp [hk]), if_neg hk]

/-- Settles O32: the measurements of a gap leave its frame, and each cluster of the gap closes on its own registers. -/
theorem calibrationRows : Obligations.CalibrationRows := by
  refine ⟨fun s => ⟨fun meas hm => ⟨fun h => ?_, fun hcur hgap hdue hrow => ?_⟩, fun h => ?_, fun hg hus hnd => ?_⟩,
    fun s => ⟨fun cl hcl => ⟨fun hmax hh => ?_, fun h => ?_, fun h => ?_, fun h => ?_⟩, fun h => ?_, fun hdue hus => ?_⟩⟩
  · rw [exec_gapOpen hm, if_neg]
    simp only [Option.isNone_iff_eq_none, Bool.and_eq_true, Bool.not_eq_true', bne_iff_ne, ne_eq]
    rintro ⟨⟨⟨h1, h2⟩, h3⟩, h4⟩
    rcases h with h | h | h | h
    · rw [h1] at h; cases h
    · rw [h2] at h; cases h
    · rw [h3] at h; cases h
    · exact h4 h
  · refine ⟨gapOpen meas s, by rw [exec_gapOpen hm, if_pos (by simp [hcur, hgap, hdue, hrow])], ?_⟩
    have h := gapFrame_gapOpen meas s
    simp only [gapFrame, gapOpened, Prod.mk.injEq] at h
    exact h
  · change execCalibrationGapClose s = _
    rw [execCalibrationGapClose, gapClose_of_not_due h, if_neg (by simp)]
  · obtain ⟨t, hexec, hcal⟩ := exec_gapClose hg hus
    refine ⟨t, hexec, ?_, ?_, ?_, ?_, fun cl hcl => ?_⟩
    · rw [hcal, gapClose_eq hg hus]; rfl
    · rw [hcal, gapClose_eq hg hus]; rfl
    · rw [hcal, gapClose_eq hg hus]; rfl
    · rw [hcal, gapClose_eq hg hus]; rfl
    · have hcl' : calOf t cl = calOf (gapClose s) cl := by rw [calOf, hcal, calOf]
      rw [hcl']
      exact gapClose_cluster hg hus hnd hcl
  · refine ⟨calDue 4 cl s, ?_, co_calDue 4 cl s (by decide) (co_refl _ s), calOf_calDue_same 4 cl s, fun d hd => calOf_modCal_ne _ _ _ _ hd⟩
    change execCalIntervalExpiry cl s = _
    rw [execCalIntervalExpiry, hcl, if_pos (by simp [hmax, hh])]; rfl
  · change execCalIntervalExpiry cl s = _
    rw [execCalIntervalExpiry, hcl, if_neg]
    · rfl
    · rcases h with h | h
      · simp [h]
      · simp [Nat.not_le.2 h]
  · change execDriftTableSave cl s = _
    rw [execDriftTableSave, hcl, if_neg (Nat.not_le.2 h)]; rfl
  · refine ⟨saveDrift cl s, ?_, co_saveDrift cl s (by decide) (co_refl _ s), ?_, fun k hk => ?_, fun k hk => ?_⟩
    · change execDriftTableSave cl s = _
      rw [execDriftTableSave, hcl, if_pos h]; rfl
    · rw [saveDrift, calOf_modCal_same]
    · rw [tget_saveDrift, if_neg hk]
    · rw [tget_saveDrift, if_pos hk]
  · change execCalModuleEventTimer s = _
    rw [execCalModuleEventTimer, if_neg]
    rcases h with h | h
    · simp [h]
    · simp [Nat.not_le.2 h]
  · refine ⟨calEvent s, ?_, co_calEvent s (by decide) (co_refl _ s), calEvent_cal s⟩
    change execCalModuleEventTimer s = _
    rw [execCalModuleEventTimer, if_pos (by simp [hdue, hus])]

end Sys2Proof.Machine
end

section
/-! The event recorder's writing, committing and clearing (R494, R499, R502, R504, R505). -/

namespace Sys2Proof.Machine

theorem evrCommit_of_clearing {s : State} (h : s.evr.clearing = true) : evrCommit s = { s with evr := { s.evr with cmtWait := true } } := by
  rw [evrCommit, if_pos h]

/-- Flash holds what the recorder holds. -/
def committed (us hours : Nat) (e : EvrSt) : EvrSt :=
  { e with fCount := e.count, fEpoch := e.epoch, fRecs := e.recs, uncomm := 0, lastCmt := hours, dueUs := us, cmtWait := false }

theorem evrCommit_of_clear {s : State} (h : s.evr.clearing = false) : evrCommit s = { s with evr := committed s.clk.us s.clk.hours s.evr } := by
  rw [evrCommit, if_neg (by simp [h])]; rfl

theorem recordNext_of_idle {s : State} (h : s.evr.queue = [] ∨ s.evr.clearing = true) : recordNext s = s := by
  unfold recordNext
  dsimp only
  split
  · rfl
  · next r rest hq =>
    rcases h with h | h
    · rw [hq] at h; cases h
    · rw [if_pos h]

theorem recordNext_of_full {s : State} {r : EvRec} {rest : List EvRec} (hq : s.evr.queue = r :: rest) (hc : s.evr.clearing = false)
    (hf : s.evr.full = true) : recordNext s = { s with evr := { s.evr with queue := rest, dropped := satAdd 32 s.evr.dropped 1 } } := by
  unfold recordNext
  dsimp only
  rw [hq]
  dsimp only
  rw [if_neg (by simp [hc]), if_pos hf]

/-- The recorder after a record has taken the next slot. -/
def recorded (r : EvRec) (rest : List EvRec) (e : EvrSt) : EvrSt :=
  { e with queue := rest, recs := tput none e.recs e.count (some { r with epoch := e.epoch }), count := e.count + 1,
           full := decide (e.count + 1 = 16384), uncomm := e.uncomm + 1 }

theorem recs_recorded (r : EvRec) (rest : List EvRec) (e : EvrSt) (k : Nat) :
    tget none (recorded r rest e).recs k = if k = e.count then some { r with epoch := e.epoch } else tget none e.recs k :=
  tget_tput none e.recs e.count k (some { r with epoch := e.epoch })

theorem recordNext_of_room {s : State} {r : EvRec} {rest : List EvRec} (hq : s.evr.queue = r :: rest) (hc : s.evr.clearing = false)
    (hf : s.evr.full = false) : recordNext s = { s with evr := recorded r rest s.evr } := by
  unfold recordNext
  dsimp only
  rw [hq]
  dsimp only
  rw [if_neg (by simp [hc]), if_neg (by simp [hf])]
  rfl

/-- The recorder with every mark at 0 and EPOCH one higher. -/
def cleared (e : EvrSt) : EvrSt :=
  { e with clearing := false, count := 0, full := false, uncomm := 0, epoch := if 65535 ≤ e.epoch then 1 else e.epoch + 1 }

theorem clearEnd_of_clearing {s : State} (h : s.evr.clearing = true) : clearEnd s =
    { s with evr := if s.evr.cmtWait then committed s.clk.us s.clk.hours (cleared s.evr) else cleared s.evr } := by
  rw [clearEnd, if_neg (by simp [h])]
  change (if s.evr.cmtWait = true then evrCommit { s with evr := cleared s.evr } else { s with evr := cleared s.evr }) = _
  split
  · exact evrCommit_of_clear (s := { s with evr := cleared s.evr }) rfl
  · rfl

/-- Settles O54, by the cases of each function of the recorder. -/
theorem recorderRows : Obligations.RecorderRows := by
  refine fun s => ⟨fun h => ?_, fun r rest hq hc => ?_, fun h1 h2 => ?_, fun h => ?_, fun h => ?_, fun h => ?_⟩
  · exact congrArg Host.Outcome.next (recordNext_of_idle h)
  · refine ⟨recordNext s, rfl, co_recordNext s (by decide) (co_refl _ s), ?_⟩
    by_cases hf : s.evr.full = true
    · rw [recordNext_of_full hq hc hf]
      exact ⟨rfl, fun _ => ⟨rfl, rfl, rfl⟩, fun h => absurd hf (by simp [h])⟩
    · rw [recordNext_of_room hq hc (by simpa using hf)]
      exact ⟨rfl, fun h => absurd h hf, fun _ => ⟨rfl, rfl, rfl, rfl, recs_recorded r rest s.evr⟩⟩
  · change Host.Outcome.next _ = _
    rw [if_neg (by omega)]
  · refine ⟨evrCommit s, ?_, co_evrCommit s (by decide) (co_refl _ s), ?_⟩
    · change Host.Outcome.next _ = _
      rw [if_pos h]
    · by_cases hc : s.evr.clearing = true
      · rw [evrCommit_of_clearing hc]
        exact ⟨rfl, rfl, fun _ => ⟨rfl, rfl⟩, fun h => absurd hc (by simp [h])⟩
      · rw [evrCommit_of_clear (by simpa using hc)]
        exact ⟨rfl, rfl, fun h => absurd h hc, fun _ => ⟨rfl, rfl, rfl, rfl, rfl⟩⟩
  · change Host.Outcome.next (clearEnd s) = _
    rw [clearEnd, h]; rfl
  · refine ⟨clearEnd s, rfl, co_clearEnd s (by decide) (co_refl _ s), ?_⟩
    rw [clearEnd_of_clearing h]
    by_cases hw : s.evr.cmtWait = true
    · simp only [hw, if_true]
      exact ⟨rfl, rfl, rfl, rfl, rfl, fun _ => ⟨rfl, rfl⟩⟩
    · simp only [hw, if_false, Bool.false_eq_true]
      exact ⟨rfl, rfl, rfl, rfl, rfl, fun h => by cases h⟩

end Sys2Proof.Machine
end

section
/-! Holds and warnings (R475, R490, R491): what they leave of the power state, the writing, the step in flight, the recorder and unit history. -/

namespace Sys2Proof.Machine

/-! ## Parts that are left alone -/

theorem pwr_of_changesOnly {L : List Part} {s t : State} (h : changesOnly L s t) (hp : Part.pwr ∉ L) : t.pwr = s.pwr := h.2 .pwr hp
theorem evr_of_changesOnly {L : List Part} {s t : State} (h : changesOnly L s t) (hp : Part.evr ∉ L) : t.evr = s.evr := h.2 .evr hp
theorem dev_of_changesOnly {L : List Part} {s t : State} (h : changesOnly L s t) (hp : Part.dev ∉ L) : t.dev = s.dev := h.2 .dev hp
theorem arr_of_changesOnly {L : List Part} {s t : State} (h : changesOnly L s t) (hp : Part.arr ∉ L) : t.arr = s.arr := h.2 .arr hp
theorem glz_of_changesOnly {L : List Part} {s t : State} (h : changesOnly L s t) (hp : Part.glz ∉ L) : t.glz = s.glz := h.2 .glz hp
theorem clk_of_changesOnly {L : List Part} {s t : State} (h : changesOnly L s t) (hp : Part.clk ∉ L) : t.clk = s.clk := h.2 .clk hp

/-- What changes only some parts changes only more of them. -/
theorem changesOnly.widen {L M : List Part} {s t : State} (h : changesOnly L s t) (hs : sub L M = true) : changesOnly M s t :=
  co_upd (u := s) L hs h.1 h.2 (co_refl M s)

@[simp] theorem pwr_fire (t unit level code detail : Nat) (s : State) : (fire t unit level code detail s).pwr = s.pwr :=
  pwr_of_changesOnly (co_fire (L := [.evr]) _ _ _ _ _ s (by decide) (co_refl _ s)) (by decide)
@[simp] theorem pwr_settleMstate (s : State) : (settleMstate s).pwr = s.pwr :=
  pwr_of_changesOnly (co_settleMstate (L := [.evr, .dev]) s (by decide) (co_refl _ s)) (by decide)
@[simp] theorem dev_fire (t unit level code detail : Nat) (s : State) : (fire t unit level code detail s).dev = s.dev :=
  dev_of_changesOnly (co_fire (L := [.evr]) _ _ _ _ _ s (by decide) (co_refl _ s)) (by decide)
@[simp] theorem clk_fire (t unit level code detail : Nat) (s : State) : (fire t unit level code detail s).clk = s.clk :=
  clk_of_changesOnly (co_fire (L := [.evr]) _ _ _ _ _ s (by decide) (co_refl _ s)) (by decide)

/-! ## Bits of PWR_EVENTS -/

theorem bitOf_eq_testBit (w i : Nat) : bitOf w i = w.testBit i := by
  rw [bitOf, Nat.testBit_eq_decide_div_mod_eq, beq_eq_decide]

theorem bitOf_or (a b i : Nat) : bitOf (a ||| b) i = (bitOf a i || bitOf b i) := by
  simp only [bitOf_eq_testBit, Nat.testBit_or]

@[simp] theorem pwr_setEvents (m : Nat) (s : State) : (setEvents m s).pwr = { s.pwr with events := s.pwr.events ||| m } := rfl
@[simp] theorem dev_setEvents (m : Nat) (s : State) : (setEvents m s).dev = s.dev := rfl
@[simp] theorem clk_setEvents (m : Nat) (s : State) : (setEvents m s).clk = s.clk := rfl

/-! ## The power state after a hold or a warning -/

/-- The power state that holds, warnings and the start's row give. -/
def settledState (s : State) : Nat :=
  if warned s then 4 else if (held s || s.dev.shutting) && s.pwr.state != 2 && s.pwr.state != 1 then 3
  else if held s && s.pwr.state == 2 then 2
  else if s.dev.row < 7 then 1 else 2

theorem settlePower_of_running {s : State} (h : running_ s = true) :
    settlePower s = settleMstate { s with pwr := { s.pwr with state := settledState s } } := by
  rw [settlePower, h]; rfl

theorem pwr_settlePower {s : State} (h : running_ s = true) : (settlePower s).pwr = { s.pwr with state := settledState s } := by
  rw [settlePower_of_running h, pwr_settleMstate]

theorem settlePower_keeps_pins (s : State) : (settlePower s).pwr = { s.pwr with state := (settlePower s).pwr.state } := by
  by_cases h : running_ s = true
  · rw [pwr_settlePower h]
  · rw [settlePower, if_pos (by simpa using h)]

theorem settledState_of_warned {s : State} (h : warned s = true) : settledState s = 4 := by rw [settledState, if_pos h]

/-- With no hold, no warning and no shutdown the module goes on where its start stands. -/
theorem settledState_of_free {s : State} (hw : warned s = false) (hh : held s = false) (hsh : s.dev.shutting = false) :
    settledState s = if s.dev.row < 7 then 1 else 2 := by
  rw [settledState, if_neg (by simp [hw]), if_neg (by simp [hh, hsh]), if_neg (by simp [hh])]

/-! ## Writing stops -/

theorem rows_stopWrites (s : State) (k : Nat) :
    (tget RowProg.init (stopWrites s).arr.rows k).row = 0 ∧ (tget RowProg.init (stopWrites s).arr.rows k).iters = 0 := by
  change (tget RowProg.init (s.arr.rows.foldl (fun t e => tput RowProg.init t e.1 { RowProg.init with only := e.2.only }) []) k).row = 0 ∧
    (tget RowProg.init (s.arr.rows.foldl (fun t e => tput RowProg.init t e.1 { RowProg.init with only := e.2.only }) []) k).iters = 0
  refine List.foldlRecOn (motive := fun t : Tab RowProg => (tget RowProg.init t k).row = 0 ∧ (tget RowProg.init t k).iters = 0) _ _ ⟨rfl, rfl⟩ ?_
  intro t ht e _
  rw [tget_tput]
  split
  · exact ⟨rfl, rfl⟩
  · exact ht

/-! ## The step in flight is abandoned -/

/-- The step in flight abandoned without re-execution, unless it is already. -/
def stepDropped (s : State) : State := if s.sch.cur.any (fun c => !c.abandoning) then sendAbandon false s else s

theorem cur_sendAbandon {s : State} {c : StepRec} (hc : s.sch.cur = some c) (again : Bool) :
    (sendAbandon again s).sch.cur = some (abandoned again c) := by
  have hcur : (modCur (abandoned again) (modCnv c.canvas (fun v => { v with abandons := satAdd 32 v.abandons 1 }) (dropSamples c.num 0 s))).sch.cur =
      some (abandoned again c) := cur_modCur (by exact hc) _
  unfold sendAbandon
  rw [hc]
  exact (congrArg SchedSt.cur (cur_schedToAll ..)).trans hcur

theorem cur_stepDropped {s : State} {c : StepRec} (hc : s.sch.cur = some c) : ∃ d, (stepDropped s).sch.cur = some d ∧ d.abandoning = true := by
  unfold stepDropped
  rw [hc]
  by_cases ha : c.abandoning = true
  · rw [if_neg (by simp [ha])]
    exact ⟨c, hc, ha⟩
  · rw [if_pos (by simpa using ha)]
    exact ⟨abandoned false c, cur_sendAbandon hc false, rfl⟩

theorem co_stepDropped (s : State) : changesOnly [.seq, .sch, .cnv, .hist] s (stepDropped s) := by
  unfold stepDropped
  split
  · exact co_sendAbandon false s (by decide) (co_refl _ s)
  · exact co_refl _ s

theorem seqs_schedToAll (kind arg att : Nat) (t : State) : (schedToAll kind arg att t).hist = t.hist :=
  hist_of_changesOnly (L := [.seq]) (co_schedToAll _ _ _ t (by decide) (co_refl _ t)) (by decide)

/-- The copies of unit history keep their sequence numbers. -/
theorem seqs_stepDropped (s : State) : (stepDropped s).hist.seqA = s.hist.seqA ∧ (stepDropped s).hist.seqB = s.hist.seqB := by
  unfold stepDropped
  split
  · unfold sendAbandon
    split
    · dsimp only
      rw [seqs_schedToAll]
      exact ⟨rfl, rfl⟩
    · exact ⟨rfl, rfl⟩
  · exact ⟨rfl, rfl⟩

theorem seqs_uhWrite (s : State) : max (uhWrite s).hist.seqA (uhWrite s).hist.seqB = max s.hist.seqA s.hist.seqB + 1 := by
  unfold uhWrite
  dsimp only
  split
  · exact Nat.max_eq_left (by dsimp only; omega)
  · exact Nat.max_eq_right (by dsimp only; omega)

/-! ## What flash holds of the recorder -/

/-- The records of the recorder, whether a clear runs, and what flash holds of them. -/
def evrStore (e : EvrSt) : Tab (Option EvRec) × Nat × Bool × Tab (Option EvRec) × Nat := (e.recs, e.count, e.clearing, e.fRecs, e.fCount)

theorem evrStore_fire (t unit level code detail : Nat) (s : State) : evrStore (fire t unit level code detail s).evr = evrStore s.evr := by
  unfold fire fireArg
  dsimp only
  split
  · rfl
  · split
    · rfl
    · split
      · rfl
      · split <;> rfl

theorem evrStore_settleMstate (s : State) : evrStore (settleMstate s).evr = evrStore s.evr := by
  unfold settleMstate setMstate
  split
  · rfl
  · rw [evrStore_fire]

theorem evrStore_settlePower (s : State) : evrStore (settlePower s).evr = evrStore s.evr := by
  unfold settlePower
  split
  · rfl
  · dsimp only
    rw [evrStore_settleMstate]

/-! ## A warning acts -/

/-- A warning before its commits: no step goes on, nothing is written, ramps are lost. -/
def warnStopped (s : State) : State := stopWrites { stepDropped s with glz := { (stepDropped s).glz with ramps := [] } }

theorem warnOn_eq (s : State) : warnOn s = settlePower (evrCommit (uhWrite (setEvents 64 (warnStopped s)))) := rfl

theorem co_warnStopped (s : State) : changesOnly [.arr, .glz, .seq, .sch, .cnv, .hist] s (warnStopped s) :=
  co_stopWrites _ (by decide) (co_set_glz _ (by decide) (by
    unfold stepDropped
    split
    · exact co_sendAbandon false s (by decide) (co_refl _ s)
    · exact co_refl _ s))

theorem co_warnOn_after (s : State) : changesOnly [.hist, .pwr, .evr, .brd, .dev] (warnStopped s) (warnOn s) :=
  co_settlePower _ (by decide) (co_evrCommit _ (by decide) (co_uhWrite _ (by decide) (co_setEvents _ _ (by decide) (co_refl _ _))))

theorem pwr_warnOn {s : State} (hr : running_ s = true) (hw : warned s = true) :
    (warnOn s).pwr = { s.pwr with events := s.pwr.events ||| 64, state := 4 } := by
  have hpwr : (evrCommit (uhWrite (setEvents 64 (warnStopped s)))).pwr = { s.pwr with events := s.pwr.events ||| 64 } := by
    rw [pwr_of_changesOnly (co_evrCommit (L := [.evr, .hist]) _ (by decide) (co_uhWrite _ (by decide) (co_refl _ _))) (by decide), pwr_setEvents,
      pwr_of_changesOnly (co_warnStopped s) (by decide)]
  have hrun : running_ (evrCommit (uhWrite (setEvents 64 (warnStopped s)))) = true := by rw [running_, hpwr]; exact hr
  have hwarn : warned (evrCommit (uhWrite (setEvents 64 (warnStopped s)))) = true := by rw [warned, hpwr]; exact hw
  rw [warnOn_eq, pwr_settlePower hrun, settledState_of_warned hwarn, hpwr]

theorem ramps_warnOn (s : State) : (warnOn s).glz.ramps = [] := by
  rw [glz_of_changesOnly (co_warnOn_after s) (by decide)]; rfl

theorem rows_warnOn (s : State) (k : Nat) :
    (tget RowProg.init (warnOn s).arr.rows k).row = 0 ∧ (tget RowProg.init (warnOn s).arr.rows k).iters = 0 := by
  rw [arr_of_changesOnly (co_warnOn_after s) (by decide)]
  exact rows_stopWrites _ k

theorem cur_warnOn {s : State} {c : StepRec} (hc : s.sch.cur = some c) : ∃ d, (warnOn s).sch.cur = some d ∧ d.abandoning = true := by
  rw [sch_of_changesOnly (co_warnOn_after s) (by decide)]
  exact cur_stepDropped hc

theorem seqs_warnOn (s : State) : max (warnOn s).hist.seqA (warnOn s).hist.seqB = max s.hist.seqA s.hist.seqB + 1 := by
  obtain ⟨ha, hb⟩ := seqs_stepDropped s
  rw [warnOn_eq, hist_of_changesOnly (co_settlePower (L := [.pwr, .evr, .dev]) _ (by decide) (co_evrCommit _ (by decide) (co_refl _ _))) (by decide),
    seqs_uhWrite, ← ha, ← hb]
  rfl

/-- The recorder's records reach flash. -/
theorem evr_warnOn {s : State} (hc : s.evr.clearing = false) : (warnOn s).evr.fRecs = s.evr.recs ∧ (warnOn s).evr.fCount = s.evr.count := by
  have hevr : (uhWrite (setEvents 64 (warnStopped s))).evr = s.evr := by
    rw [evr_of_changesOnly (co_uhWrite (L := [.hist, .pwr, .brd]) _ (by decide) (co_setEvents _ _ (by decide) (co_refl _ _))) (by decide)]
    exact evr_of_changesOnly (co_warnStopped s) (by decide)
  have hstore := evrStore_settlePower (evrCommit (uhWrite (setEvents 64 (warnStopped s))))
  rw [← warnOn_eq, evrCommit_of_clear (by rw [hevr]; exact hc), hevr] at hstore
  simp only [evrStore, Prod.mk.injEq] at hstore
  obtain ⟨-, -, -, hrecs, hcount⟩ := hstore
  exact ⟨hrecs, hcount⟩

/-! ## A hold begins and ends -/

/-- HOLD_N asserted while the module runs. -/
def holdSeen (s : State) : State := fire 21 0 0 1 0 (setEvents 128 { s with pwr := { s.pwr with holdPin := true } })

theorem holdOn_of_running {s : State} (h : running_ s = true) :
    holdOn true s = if held s || s.dev.shutting then holdSeen s else quiesce_ (holdSeen s) := by
  have hrun : ¬ (!running_ s) = true := by simp [h]
  rw [holdOn, if_pos rfl]
  exact if_neg hrun

/-- Writing stopped by a hold, with its time noted. -/
def writesHeld (s : State) : State := stopWrites { s with pwr := { s.pwr with holdUs := s.clk.us } }

theorem co_quiesce_after (s : State) : changesOnly [.seq, .sch, .cnv, .ptn, .net, .hist, .sec, .evr, .dev] (writesHeld s) (quiesce_ s) :=
  co_settleMstate _ (by decide) (co_raiseAll _ _ _ (by decide) (co_updRevert _ (by decide) (co_refl _ _)))

theorem pwr_quiesce (s : State) : (quiesce_ s).pwr = { s.pwr with holdUs := s.clk.us } := by
  rw [pwr_of_changesOnly (co_quiesce_after s) (by decide)]; rfl

theorem rows_quiesce (s : State) (k : Nat) :
    (tget RowProg.init (quiesce_ s).arr.rows k).row = 0 ∧ (tget RowProg.init (quiesce_ s).arr.rows k).iters = 0 := by
  rw [arr_of_changesOnly (co_quiesce_after s) (by decide)]
  exact rows_stopWrites _ k

theorem pwr_holdSeen (s : State) : (holdSeen s).pwr = { s.pwr with holdPin := true, events := s.pwr.events ||| 128 } := by
  rw [holdSeen, pwr_fire, pwr_setEvents]

theorem holdOn_spec {s : State} (h : running_ s = true) :
    (holdOn true s).pwr.holdPin = true ∧ bitOf (holdOn true s).pwr.events 7 = true ∧ (holdOn true s).pwr.state = s.pwr.state ∧
    (held s = false → s.dev.shutting = false → (holdOn true s).pwr.holdUs = s.clk.us ∧
      ∀ k, (tget RowProg.init (holdOn true s).arr.rows k).row = 0 ∧ (tget RowProg.init (holdOn true s).arr.rows k).iters = 0) := by
  have hbit : bitOf (s.pwr.events ||| 128) 7 = true := by rw [bitOf_or]; simp [bitOf]
  rw [holdOn_of_running h]
  by_cases hb : (held s || s.dev.shutting) = true
  · rw [if_pos hb, pwr_holdSeen]
    refine ⟨rfl, hbit, rfl, fun h1 h2 => ?_⟩
    rw [h1, h2] at hb
    cases hb
  · rw [if_neg hb, pwr_quiesce, pwr_holdSeen]
    refine ⟨rfl, hbit, rfl, fun _ _ => ⟨?_, rows_quiesce _⟩⟩
    rw [holdSeen, clk_fire, clk_setEvents]

/-- HOLD_N released while the module runs. -/
theorem holdOff_of_running {s : State} (h : running_ s = true) :
    holdOff true s = settlePower (fire 21 0 0 0 0 { s with pwr := { s.pwr with holdPin := false } }) := by
  rw [holdOff, if_pos rfl, if_pos h]

theorem pins_holdOff (s : State) : (holdOff true s).pwr.holdPin = false ∧ (holdOff true s).pwr.holdReq = s.pwr.holdReq := by
  by_cases h : running_ s = true
  · rw [holdOff_of_running h, settlePower_keeps_pins, pwr_fire]
    exact ⟨rfl, rfl⟩
  · rw [holdOff, if_pos rfl, if_neg h]
    exact ⟨rfl, rfl⟩

theorem state_holdOff {s : State} (h : running_ s = true) (hreq : s.pwr.holdReq = false) (htj : s.pwr.tjHold = false) (hw : warned s = false)
    (hsh : s.dev.shutting = false) : (holdOff true s).pwr.state = if s.dev.row < 7 then 1 else 2 := by
  have hpwr : (fire 21 0 0 0 0 { s with pwr := { s.pwr with holdPin := false } }).pwr = { s.pwr with holdPin := false } := pwr_fire ..
  rw [holdOff_of_running h, pwr_settlePower (by rw [running_, hpwr]; exact h)]
  dsimp only
  rw [settledState_of_free (by rw [warned, hpwr]; exact hw) (by simp [held, hpwr, hreq, htj]) (by rw [dev_fire]; exact hsh), dev_fire]

theorem holdQuiesce_of_held {s : State} (hh : held s = true) (hw : warned s = false) (hus : s.pwr.holdUs + 1500 ≤ s.clk.us)
    (hst : s.pwr.state = 2 ∨ (s.pwr.state = 1 ∧ 5 ≤ s.dev.row)) :
    holdQuiesce s = { stepDropped s with pwr := { (stepDropped s).pwr with state := 3 } } := by
  rw [holdQuiesce, if_neg (by simp [hh, hw, Nat.not_lt.2 hus]), if_pos hst]
  rfl

/-! ## A warning ends -/

theorem pins_warnOff (s : State) : (warnOff s).pwr = { s.pwr with state := (warnOff s).pwr.state } := by
  unfold warnOff
  split
  · rfl
  · rw [settlePower_keeps_pins, pwr_fire]

theorem state_warnOff {s : State} (hr : running_ s = true) (hw : warned s = false) (hh : held s = false) (hsh : s.dev.shutting = false) :
    (warnOff s).pwr.state = if s.dev.row < 7 then 1 else 2 := by
  have hpwr : (fire 22 0 0 0 (s.pwr.vin / 10) s).pwr = s.pwr := pwr_fire ..
  rw [warnOff, if_neg (by simp [hw]), pwr_settlePower (by rw [running_, hpwr]; exact hr)]
  dsimp only
  rw [settledState_of_free (by rw [warned, hpwr]; exact hw) (by rw [held, hpwr]; exact hh) (by rw [dev_fire]; exact hsh), dev_fire]

/-! ## The obligation -/

theorem exec_pwrwarnNAssert_of_running {s : State} (hp : s.pwr.warnPin = false) (hi : s.pwr.intWarn = false) (hr : running_ s = true) :
    exec .pwrwarnNAssert s = .next (warnOn (fire 22 0 0 1 (s.pwr.vin / 10) { s with pwr := { s.pwr with warnPin := true } })) := by
  change execPwrwarnNAssert s = _
  rw [execPwrwarnNAssert]
  dsimp only
  rw [if_neg (by simp [hp, hr]), if_neg (by simp [warned, hp, hi])]

theorem pwrwarn_spec {s : State} (hp : s.pwr.warnPin = false) (hi : s.pwr.intWarn = false) (hr : running_ s = true) :
    ∃ t, exec .pwrwarnNAssert s = .next t ∧ t.pwr.warnPin = true ∧ t.pwr.state = 4 ∧
    bitOf t.pwr.events 6 = true ∧ t.glz.ramps = [] ∧ max t.hist.seqA t.hist.seqB = max s.hist.seqA s.hist.seqB + 1 ∧
    (s.evr.clearing = false → t.evr.fRecs = s.evr.recs ∧ t.evr.fCount = s.evr.count) ∧
    (∀ c, s.sch.cur = some c → ∃ c', t.sch.cur = some c' ∧ c'.abandoning = true) ∧
    ∀ k, (tget RowProg.init t.arr.rows k).row = 0 ∧ (tget RowProg.init t.arr.rows k).iters = 0 := by
  let u := fire 22 0 0 1 (s.pwr.vin / 10) { s with pwr := { s.pwr with warnPin := true } }
  have hpwr : u.pwr = { s.pwr with warnPin := true } := pwr_fire ..
  have hfire : changesOnly [.evr] { s with pwr := { s.pwr with warnPin := true } } u := co_fire _ _ _ _ _ _ (by decide) (co_refl _ _)
  have hbit : bitOf (s.pwr.events ||| 64) 6 = true := by rw [bitOf_or]; simp [bitOf]
  have hon : (warnOn u).pwr = { s.pwr with warnPin := true, events := s.pwr.events ||| 64, state := 4 } := by
    rw [pwr_warnOn (by rw [running_, hpwr]; exact hr) (by rw [warned, hpwr]; rfl), hpwr]
  refine ⟨warnOn u, exec_pwrwarnNAssert_of_running hp hi hr, by rw [hon], by rw [hon], by rw [hon]; exact hbit, ramps_warnOn u, ?_, fun hc => ?_,
    fun c hc => cur_warnOn (by rw [sch_of_changesOnly hfire (by decide)]; exact hc), rows_warnOn u⟩
  · rw [seqs_warnOn, hist_of_changesOnly hfire (by decide)]
  · have hstore : evrStore u.evr = evrStore s.evr := evrStore_fire ..
    simp only [evrStore, Prod.mk.injEq] at hstore
    obtain ⟨hrecs, hcount, hclear, -, -⟩ := hstore
    obtain ⟨h1, h2⟩ := evr_warnOn (s := u) (hclear.trans hc)
    exact ⟨h1.trans hrecs, h2.trans hcount⟩

theorem undervolt_spec {s : State} {mv : Nat} (hmv : mv < 39000) (hi : s.pwr.intWarn = false) (hoff : s.pwr.off = false)
    (hst : s.pwr.state = 2 ∨ s.pwr.state = 3) :
    (undervolt mv s).pwr.intWarn = true ∧ (undervolt mv s).pwr.state = 4 ∧ (undervolt mv s).pwr.vin = mv / 10 ∧
    bitOf (undervolt mv s).pwr.events 8 = true ∧ ∀ c, s.sch.cur = some c → ∃ c', (undervolt mv s).sch.cur = some c' ∧ c'.abandoning = true := by
  let u := fire 23 0 0 8 (mv / 100) (setEvents 256 (seeInput mv s))
  let v := fire 22 0 0 2 (mv / 100) { u with pwr := { u.pwr with intWarn := true } }
  have hpwr : v.pwr = { s.pwr with vin := min 65535 (mv / 10), events := s.pwr.events ||| 256, intWarn := true } := by
    rw [pwr_fire, pwr_fire]; rfl
  have hsch : v.sch = s.sch := by rw [fire_sch]; exact fire_sch ..
  have hbit : bitOf (s.pwr.events ||| 256 ||| 64) 8 = true := by rw [bitOf_or, bitOf_or]; simp [bitOf]
  have hrun : running_ v = true := by
    rw [running_, hpwr]
    rcases hst with h | h <;> simp [hoff, h]
  have heq : undervolt mv s = warnOn v := by
    rw [undervolt, if_neg]
    rcases hst with h | h <;> simp [hi, hoff, h, Nat.not_le.2 hmv]
  have hon : (warnOn v).pwr = { s.pwr with vin := min 65535 (mv / 10), events := s.pwr.events ||| 256 ||| 64, intWarn := true, state := 4 } := by
    rw [pwr_warnOn hrun (by rw [warned, hpwr]; simp), hpwr]
  rw [heq]
  refine ⟨by rw [hon], by rw [hon], ?_, by rw [hon]; exact hbit, fun c hc => cur_warnOn (by rw [hsch]; exact hc)⟩
  rw [hon]
  exact Nat.min_eq_right (by omega)

/-- Settles O56: each clause is a branch of the commands of R475, R490 and R491. -/
theorem holdsAndWarnings : Obligations.HoldsAndWarnings := by
  refine fun s => ⟨fun h => ?_, fun h => ⟨fun hr => ?_, fun hr => ?_⟩, fun h => ?_, fun h => ?_, fun h1 h2 => ?_, fun h => ?_, fun hh hw hus hst => ?_,
    fun h => ?_, fun h hr => ?_, fun hp hi hr => pwrwarn_spec hp hi hr, fun h => ?_, fun h => ?_,
    fun mv => ⟨fun h => ?_, fun hmv hi hoff hst => ?_, fun h => ?_, fun hi hmv => ?_⟩⟩
  · change execHoldNAssert s = _
    rw [execHoldNAssert, if_pos h]
  · have hrun : (!running_ s) = true := by simp [hr]
    change execHoldNAssert s = _
    rw [execHoldNAssert, if_neg (by simp [h]), holdOn, if_pos rfl]
    exact congrArg Host.Outcome.next (if_pos hrun)
  · refine ⟨holdOn true s, ?_, holdOn_spec hr⟩
    change execHoldNAssert s = _
    rw [execHoldNAssert, if_neg (by simp [h])]
  · change execHoldNRelease s = _
    rw [execHoldNRelease, if_neg (by simp [h])]
  · obtain ⟨hpin, hreq⟩ := pins_holdOff s
    refine ⟨holdOff true s, ?_, hpin, hreq, fun hr h1 h2 h3 h4 => state_holdOff hr h1 h2 h3 h4⟩
    change execHoldNRelease s = _
    rw [execHoldNRelease, if_pos h]
  · refine congrArg Host.Outcome.next (?_ : holdQuiesce s = s)
    rw [holdQuiesce, if_pos (by simp [h1, h2])]
  · refine congrArg Host.Outcome.next (?_ : holdQuiesce s = s)
    rw [holdQuiesce, if_pos (by simp [h])]
  · refine ⟨holdQuiesce s, rfl, ?_, ?_, fun c hc => ?_⟩
    · rw [holdQuiesce_of_held hh hw hus hst]
      exact co_set_pwr _ (by decide) (changesOnly.widen (co_stepDropped s) (by decide))
    · rw [holdQuiesce_of_held hh hw hus hst, pwr_of_changesOnly (co_stepDropped s) (by decide)]
    · rw [holdQuiesce_of_held hh hw hus hst]
      exact cur_stepDropped hc
  · refine congrArg Host.Outcome.next (?_ : _ = s)
    rw [if_pos (by simp [h]), ← h]
  · change execPwrwarnNAssert s = _
    rw [execPwrwarnNAssert]
    exact congrArg Host.Outcome.next (if_pos (by simp [h, hr]))
  · change execPwrwarnNRelease s = _
    rw [execPwrwarnNRelease, if_neg (by simp [h])]
  · let u : State := { s with pwr := { s.pwr with warnPin := false } }
    have hexec : exec .pwrwarnNRelease s = .next (if running_ u then warnOff u else u) := by
      change execPwrwarnNRelease s = _
      rw [execPwrwarnNRelease, if_pos h]
    refine ⟨_, hexec, ?_, fun hr hi hh hsh => ?_⟩
    · split
      · rw [pins_warnOff]
      · rfl
    · rw [if_pos (show running_ u = true from hr)]
      exact state_warnOff (s := u) hr (by simp [warned, u, hi]) hh hsh
  · refine congrArg Host.Outcome.next (?_ : undervolt mv s = s)
    rw [undervolt, if_pos]
    rcases h with h | h <;> simp [h]
  · exact ⟨undervolt mv s, rfl, undervolt_spec hmv hi hoff hst⟩
  · change execInputUvRelease mv s = _
    rw [execInputUvRelease, if_neg]
    rcases h with h | h <;> simp [h]
  · let u : State := seeInput mv { s with pwr := { s.pwr with intWarn := false } }
    have hexec : exec (.inputUvRelease mv) s = .next (if running_ u then warnOff u else u) := by
      change execInputUvRelease mv s = _
      rw [execInputUvRelease, if_pos ⟨hi, hmv⟩]
    refine ⟨_, hexec, ?_, ?_, fun hr hp hh hsh => ?_⟩
    · split
      · rw [pins_warnOff]; rfl
      · rfl
    · split
      · rw [pins_warnOff]; rfl
      · rfl
    · rw [if_pos (show running_ u = true from hr)]
      exact state_warnOff (s := u) hr (by simp [warned, u, seeInput, hp]) hh hsh

end Sys2Proof.Machine
end

section
/-! The input's losses and returns (R474, R488, R512, R538): what survives the loss of the rails. -/

namespace Sys2Proof.Machine

/-- What an unannounced loss of the input leaves of a module `s`. -/
def inputLost (s t : State) : Prop :=
  t.pwr.off = true ∧ t.pwr.state = 0 ∧ t.arr.cells = s.arr.cells ∧ t.arr.written = s.arr.written ∧ t.hist.copyA = s.hist.copyA ∧
    t.hist.copyB = s.hist.copyB ∧ t.sec.fw = s.sec.fw ∧ t.sec.ownerKey = s.sec.ownerKey ∧ t.kv.near = [] ∧ t.kv.master = [] ∧
    t.sch = State.reset.sch ∧ t.core = State.reset.core ∧ t.net = State.reset.net ∧ t.evr.recs = s.evr.fRecs ∧ t.evr.count = s.evr.fCount ∧
    t.clk = s.clk ∧ t.pending = s.pending

theorem inputLost_railsOff (s : State) : inputLost s (railsOff false 0 true s) :=
  ⟨rfl, rfl, rfl, rfl, rfl, rfl, rfl, rfl, rfl, rfl, rfl, rfl, rfl, rfl, rfl, rfl, rfl⟩

theorem inputLost_disconnect (s : State) : inputLost s (disconnect s) :=
  ⟨rfl, rfl, rfl, rfl, rfl, rfl, rfl, rfl, rfl, rfl, rfl, rfl, rfl, rfl, rfl, rfl, rfl⟩

/-- An event and PWR_EVENTS before the loss change nothing of what survives it. -/
theorem inputLost_of_changesOnly {s u t : State} (h : inputLost u t) (hc : changesOnly [.pwr, .evr, .brd] s u) (he : evrStore u.evr = evrStore s.evr) :
    inputLost s t := by
  obtain ⟨h1, h2, h3, h4, h5, h6, h7, h8, h9, h10, h11, h12, h13, h14, h15, h16, h17⟩ := h
  have harr : u.arr = s.arr := arr_of_changesOnly hc (by decide)
  have hhist : u.hist = s.hist := hist_of_changesOnly hc (by decide)
  have hsec : u.sec = s.sec := hc.2 .sec (by decide)
  simp only [evrStore, Prod.mk.injEq] at he
  obtain ⟨-, -, -, hrecs, hcount⟩ := he
  exact ⟨h1, h2, by rw [h3, harr], by rw [h4, harr], by rw [h5, hhist], by rw [h6, hhist], by rw [h7, hsec], by rw [h8, hsec], h9, h10, h11, h12, h13,
    h14.trans hrecs, h15.trans hcount, h16.trans (clk_of_changesOnly hc (by decide)), h17.trans hc.1⟩

/-- The input above 60 V, as PWR_EVENTS and the recorder see it. -/
def overvoltSeen (mv : Nat) (s : State) : State := fire 23 0 0 9 (mv / 100) (setEvents 512 (seeInput mv s))

theorem overvolt_of_high {s : State} {mv : Nat} (hoff : s.pwr.off = false) (hmv : 60000 < mv) :
    overvolt mv s = if 80000 < mv then disconnect (overvoltSeen mv s) else overvoltSeen mv s := by
  rw [overvolt, if_neg (by simp [hoff, hmv])]
  rfl

theorem co_overvoltSeen (mv : Nat) (s : State) : changesOnly [.pwr, .evr, .brd] s (overvoltSeen mv s) :=
  co_fire _ _ _ _ _ _ (by decide) (co_setEvents _ _ (by decide) (co_seeInput mv s (by decide) (co_refl _ s)))

theorem pwr_overvoltSeen (mv : Nat) (s : State) :
    (overvoltSeen mv s).pwr = { s.pwr with vin := min 65535 (mv / 10), events := s.pwr.events ||| 512 } := by
  rw [overvoltSeen, pwr_fire]; rfl

theorem inputLost_overvolt {s : State} {mv : Nat} (hoff : s.pwr.off = false) (hmv : 80000 < mv) : inputLost s (overvolt mv s) := by
  rw [overvolt_of_high hoff (by omega), if_pos hmv]
  exact inputLost_of_changesOnly (inputLost_disconnect _) (co_overvoltSeen mv s) (evrStore_fire ..)

theorem exec_moduleRemoval_of_on {s : State} (hoff : s.pwr.off = false) : exec .moduleRemoval s =
    .next { railsOff false 0 true s with brd := { (railsOff false 0 true s).brd with prsnt := false } } := by
  change execModuleRemoval s = _
  rw [execModuleRemoval, if_neg (by simp [hoff])]

theorem exec_thermalTrip {u : Nat} {s : State} (hu : u < 2 ^ 32) (hk : dieKey u = u) (hd : dieOf u < 40) : exec (.thermalComparatorTrip u) s =
    .next (if running_ s then { railsOff (farHolds s) 5 false s with pwr := { (railsOff (farHolds s) 5 false s).pwr with tshutAo := true, needEdge := true } }
      else s) := by
  change execThermalComparatorTrip u s = _
  have hg : (decide (u < 2 ^ 32) && dieKey u == u && decide (dieOf u < 40)) = true := by
    simp only [Bool.and_eq_true, decide_eq_true_eq, beq_iff_eq]
    exact ⟨⟨hu, hk⟩, hd⟩
  rw [execThermalComparatorTrip, hg]
  rfl

/-- Settles O57: `survive` says what a loss of the rails keeps, and each command is a guard before it. -/
theorem inputLosses : Obligations.InputLosses := by
  refine fun s => ⟨fun i t hi ht => ?_, fun mv => ⟨fun h => ?_, fun hoff h1 h2 => ?_, fun hoff h => ?_, fun hoff h => ?_, fun h => ?_, fun hoff h => ?_,
    fun h => ?_, fun h => ?_, fun hd h1 h2 => ?_, fun h => ?_, fun hoff hd h => ?_⟩, ?_, fun u hu hk hd => ⟨fun hr => ?_, fun hr => ?_⟩⟩
  · suffices h : ∃ t, exec i s = .next t ∧ inputLost s t by
      obtain ⟨t', ht', hlost⟩ := h
      rw [ht] at ht'
      obtain rfl := Host.Outcome.next.inj ht'
      exact hlost
    rcases hi with ⟨mv, hmv, hoff, rfl⟩ | ⟨mv, hmv, hoff, rfl⟩ | ⟨mv, hmv, hoff, rfl⟩ | ⟨hoff, rfl⟩
    · exact ⟨overvolt mv s, rfl, inputLost_overvolt hoff hmv⟩
    · refine ⟨disconnect s, ?_, inputLost_disconnect s⟩
      change execInputStageDisconnect mv s = _
      rw [execInputStageDisconnect, if_pos (by simp [hmv, hoff])]
    · refine ⟨railsOff false 0 true s, ?_, inputLost_railsOff s⟩
      change execInputLockout mv s = _
      rw [execInputLockout, if_pos (by simp [hmv, hoff])]
    · exact ⟨_, exec_moduleRemoval_of_on hoff, inputLost_railsOff s⟩
  · refine congrArg Host.Outcome.next (?_ : overvolt mv s = s)
    rw [overvolt, if_pos]
    rcases h with h | h <;> simp [h]
  · refine ⟨overvolt mv s, rfl, ?_⟩
    rw [overvolt_of_high hoff h1, if_neg (Nat.not_lt.2 h2)]
    refine ⟨co_overvoltSeen mv s, ?_, ?_, ?_⟩
    · rw [pwr_overvoltSeen, bitOf_or]
      simp [bitOf]
    · rw [pwr_overvoltSeen]
      exact hoff
    · rw [pwr_overvoltSeen]
      exact Nat.min_eq_right (by omega)
  · refine ⟨overvolt mv s, rfl, ?_⟩
    rw [overvolt_of_high hoff (by omega), if_pos h]
    rfl
  · refine ⟨disconnect s, ?_, rfl⟩
    change execInputStageDisconnect mv s = _
    rw [execInputStageDisconnect, if_pos (by simp [h, hoff])]
  · change execInputStageDisconnect mv s = _
    rw [execInputStageDisconnect, if_neg]
    rcases h with h | h <;> simp [h]
  · refine ⟨railsOff false 0 true s, ?_, rfl⟩
    change execInputLockout mv s = _
    rw [execInputLockout, if_pos (by simp [h, hoff])]
  · change execInputLockout mv s = _
    rw [execInputLockout, if_neg]
    rcases h with h | h <;> simp [h]
  · change execInputReconnect mv s = _
    rw [execInputReconnect, if_neg]
    rintro ⟨g1, g2, g3⟩
    rcases h with h | h | h
    · rw [h] at g1; cases g1
    · omega
    · omega
  · change execInputReconnect mv s = _
    rw [execInputReconnect, if_pos ⟨hd, h1, h2⟩]
  · change execInputApplied mv s = _
    rw [execInputApplied, if_neg]
    rintro ⟨g1, g2, g3⟩
    rcases h with h | h | h
    · rw [h] at g1; cases g1
    · rw [h] at g2; cases g2
    · omega
  · change execInputApplied mv s = _
    rw [execInputApplied, if_pos ⟨hoff, by simp [hd], h⟩]
    rfl
  · by_cases hoff : s.pwr.off = true
    · refine ⟨{ s with brd := { s.brd with prsnt := false } }, ?_, rfl, hoff⟩
      change execModuleRemoval s = _
      rw [execModuleRemoval, if_pos hoff]
    · exact ⟨_, exec_moduleRemoval_of_on (by simpa using hoff), rfl, rfl⟩
  · rw [exec_thermalTrip hu hk hd, if_neg (by simp [hr])]
  · refine ⟨_, exec_thermalTrip hu hk hd, ?_⟩
    rw [if_pos hr]
    exact ⟨rfl, rfl, rfl, rfl, rfl, rfl, rfl, rfl⟩

end Sys2Proof.Machine
end

section
/-! Readings, the housekeeping round, droop and peaks (R477, R479 to R487). -/

namespace Sys2Proof.Machine

theorem sec_of_changesOnly {L : List Part} {s t : State} (h : changesOnly L s t) (hp : Part.sec ∉ L) : t.sec = s.sec := h.2 .sec hp

/-! ## One channel -/

/-- A reading's channel and its run of invalid rounds. -/
def channelTaken (ch : Nat) (value : Int) (valid : Bool) (p : PwrSt) : PwrSt :=
  { p with
    chans := tput (0, false) p.chans ch (if valid then trunc 16 value else (tget (0, false) p.chans ch).1, valid)
    stale := tput 0 p.stale ch (if valid then 1 else tget 0 p.stale ch + 2)
    vin := if ch = 166 ∧ valid then trunc 16 value else p.vin, iin := if ch = 167 ∧ valid then trunc 16 value else p.iin }

/-- The sensor event of a channel's fourth invalid round, and of its return. -/
def sensorNoted (ch : Nat) (valid : Bool) (st : Nat) (s : State) : State :=
  if st / 2 + 1 = 4 ∧ !valid then fire 20 0 0 10 ch (setEvents 1024 s)
  else if 4 ≤ st / 2 ∧ valid then fire 20 0 0 10 ch s else s

/-- The warning of a board input at its threshold. -/
def boardWarned (ch : Nat) (value : Int) (valid : Bool) (s u : State) : State :=
  if 158 ≤ ch ∧ ch ≤ 165 ∧ valid ∧ (tget (340, true) s.pwr.warn (ch - 158)).2 ∧ sext 12 (tget (340, true) s.pwr.warn (ch - 158)).1 ≤ value then
    setEvents 4096 u else u

theorem channelRead_of_running {s : State} (h : running_ s = true) (ch : Nat) (value : Int) (valid : Bool) : channelRead ch value valid s =
    boardWarned ch value valid { s with pwr := channelTaken ch value valid s.pwr }
      (sensorNoted ch valid (tget 0 s.pwr.stale ch) { s with pwr := channelTaken ch value valid s.pwr }) := by
  rw [channelRead, if_neg (by simp [h])]
  rfl

/-- The channels and their runs of invalid rounds. -/
def chanFrame (s : State) : Tab (Nat × Bool) × Tab Nat := (s.pwr.chans, s.pwr.stale)

theorem chanFrame_boardWarned (ch : Nat) (value : Int) (valid : Bool) (s u : State) : chanFrame (boardWarned ch value valid s u) = chanFrame u := by
  unfold boardWarned
  split <;> rfl

theorem chanFrame_sensorNoted (ch : Nat) (valid : Bool) (st : Nat) (s : State) : chanFrame (sensorNoted ch valid st s) = chanFrame s := by
  unfold sensorNoted
  split
  · rw [chanFrame, pwr_fire]; rfl
  · split
    · rw [chanFrame, pwr_fire]; rfl
    · rfl

theorem chanFrame_channelRead {s : State} (h : running_ s = true) (ch : Nat) (value : Int) (valid : Bool) :
    (channelRead ch value valid s).pwr.chans = (channelTaken ch value valid s.pwr).chans ∧
    (channelRead ch value valid s).pwr.stale = (channelTaken ch value valid s.pwr).stale := by
  have hframe : chanFrame (channelRead ch value valid s) = chanFrame { s with pwr := channelTaken ch value valid s.pwr } := by
    rw [channelRead_of_running h, chanFrame_boardWarned, chanFrame_sensorNoted]
  simpa only [chanFrame, Prod.mk.injEq] using hframe

theorem sensorEvent_channelRead {s : State} (h : running_ s = true) {ch : Nat} (value : Int) (hst : tget 0 s.pwr.stale ch / 2 = 3) :
    bitOf (channelRead ch value false s).pwr.events 10 = true := by
  rw [channelRead_of_running h, boardWarned, if_neg (by simp), sensorNoted, if_pos (by simp [hst]), pwr_fire, pwr_setEvents, bitOf_or]
  simp [bitOf]

theorem exec_housekeepingChannel {ch : Nat} (hch : ch < 256) (value : Int) (valid : Bool) (s : State) :
    exec (.housekeepingChannel ch value valid) s = .next (channelRead ch value valid s) := by
  change execHousekeepingChannel ch value valid s = _
  rw [execHousekeepingChannel, decide_eq_true hch]; rfl

/-! ## The round's parts -/

/-- The round's counter, power and pump in the registers. -/
def roundTaken (w p : Nat) (s : State) : State :=
  { s with pwr := { s.pwr with rounds := satAdd 32 s.pwr.rounds 1, pin := min 65535 w, pump := p } }

/-- The hottest diode in the registers. -/
def hotTaken (hot : Option (Nat × Int)) (s : State) : State :=
  match hot with
  | some h => { s with pwr := { s.pwr with tjHot := trunc 12 h.2, hotch := h.1 } }
  | none => s

/-- The round before its limits. -/
def roundSeen (w p : Nat) (s : State) : State := coolantRound (hotTaken (hottest s) (roundTaken w p s))

/-- The junction begins to be too hot in this round. -/
def atMaximum (hot : Option (Nat × Int)) (s : State) : Bool :=
  match hot with | some h => decide (420 ≤ h.2) && !s.pwr.tjHold | none => false

theorem roundEnd_of_running {s : State} (h : running_ s = true) (w p : Nat) : roundEnd w p s =
    allClusters.foldl tempRound (throttleRound (atMaximum (hottest s) (roundSeen w p s)) (hottest s) (junctionRound (hottest s) (roundSeen w p s))) := by
  rw [roundEnd, if_neg (by simp [h])]
  rfl

/-- The power state `q` is `p` with bits of PWR_EVENTS set. -/
def raisedFrom (p q : PwrSt) : Prop := ∃ ev, q = { p with events := p.events ||| ev }

theorem raisedFrom.refl (p : PwrSt) : raisedFrom p p := ⟨0, by rw [Nat.or_zero]⟩

theorem raisedFrom.fire {p : PwrSt} {u : State} (h : raisedFrom p u.pwr) (t unit level code detail : Nat) :
    raisedFrom p (fire t unit level code detail u).pwr := by rwa [pwr_fire]

theorem raisedFrom.setEvents {p : PwrSt} {u : State} (h : raisedFrom p u.pwr) (m : Nat) : raisedFrom p (setEvents m u).pwr := by
  obtain ⟨ev, hev⟩ := h
  refine ⟨ev ||| m, ?_⟩
  rw [pwr_setEvents, hev, Nat.or_assoc]

theorem raisedFrom.ite {p : PwrSt} {c : Prop} [Decidable c] {u v : State} (hu : raisedFrom p u.pwr) (hv : raisedFrom p v.pwr) :
    raisedFrom p (if c then u else v).pwr := by
  split
  · exact hu
  · exact hv

/-- A coolant flag and its event, when it changed. -/
def flagNoted (old new : Bool) (code ch m : Nat) (u : State) : State :=
  if new = old then u else fire 20 0 0 code ch (if new then setEvents m u else u)

theorem raisedFrom.flagNoted {p : PwrSt} {u : State} (h : raisedFrom p u.pwr) (old new : Bool) (code ch m : Nat) :
    raisedFrom p (flagNoted old new code ch m u).pwr :=
  h.ite (((h.setEvents m).ite h).fire ..)

/-- The coolant flags with their runs. -/
def coolantMoved (i f : Bool × Nat) (s : State) : State :=
  { s with pwr := { s.pwr with inletHot := i.1, inletRun := i.2, flowLow := f.1, flowRun := f.2 } }

theorem coolantRound_cases (s : State) :
    (∃ i f, coolantRound s = flagNoted s.pwr.flowLow f.1 4 163 16 (flagNoted s.pwr.inletHot i.1 5 162 32 (coolantMoved i f s))) ∨
    coolantRound s = coolantMoved (s.pwr.inletHot, 0) (s.pwr.flowLow, 0) s := by
  unfold coolantRound
  split
  · exact .inl ⟨_, _, rfl⟩
  · exact .inr rfl

/-- The coolant checks move, and PWR_EVENTS gains bits; the rest of the power state is as it was. -/
theorem raised_coolantRound (s : State) : ∃ i f, raisedFrom (coolantMoved i f s).pwr (coolantRound s).pwr := by
  rcases coolantRound_cases s with ⟨i, f, h⟩ | h
  · exact ⟨i, f, h ▸ ((raisedFrom.refl _).flagNoted ..).flagNoted ..⟩
  · exact ⟨(s.pwr.inletHot, 0), (s.pwr.flowLow, 0), by rw [h]; exact raisedFrom.refl _⟩

/-- The limit moves as `limitAfter` says, and PWR_EVENTS gains bits. -/
theorem raised_throttleRound (jmax : Bool) (hot : Option (Nat × Int)) (s : State) :
    raisedFrom { s.pwr with lim := (limitAfter s (throttleMask s hot) jmax).1, clear := (limitAfter s (throttleMask s hot) jmax).2,
                            thrott := decide ((limitAfter s (throttleMask s hot) jmax).1 < s.pwr.plim) || throttleMask s hot != 0 }
      (throttleRound jmax hot s).pwr := by
  unfold throttleRound
  dsimp only
  have hmem := fun p (u : State) (hu : raisedFrom p u.pwr) => (hu.setEvents 2048).ite (c := bitOf (throttleMask s hot) 1 = true) hu
  exact (hmem _ _ (raisedFrom.refl _)).ite ((((hmem _ _ (raisedFrom.refl _)).setEvents 1).fire ..).ite ((hmem _ _ (raisedFrom.refl _)).fire ..))

theorem pwr_tempRounds (cls : List Nat) (s : State) : (cls.foldl tempRound s).pwr = s.pwr :=
  foldl_keeps State.pwr tempRound (fun t cl => pwr_of_changesOnly (co_tempRound (L := [.cal]) t cl (by decide) (co_refl _ t)) (by decide)) cls s

/-- The round's readings in the registers. -/
def readFrame (p : PwrSt) : Nat × Nat × Nat × Nat × Nat × Nat × Nat := (p.rounds, p.pin, p.pump, p.tjHot, p.hotch, p.lim, p.plim)

theorem readFrame_junctionRound (hot : Option (Nat × Int)) (s : State) : readFrame (junctionRound hot s).pwr = readFrame s.pwr := by
  unfold junctionRound
  split
  · rfl
  · split
    · dsimp only
      split
      · rw [pwr_fire, pwr_fire]; rfl
      · rw [pwr_quiesce, pwr_fire, pwr_fire]; rfl
    · split
      · rw [settlePower_keeps_pins, pwr_fire]; rfl
      · rfl

/-! ## The round's results -/

theorem pwr_hotTaken (hot : Option (Nat × Int)) (s : State) :
    (hotTaken hot s).pwr = match hot with | some h => { s.pwr with tjHot := trunc 12 h.2, hotch := h.1 } | none => s.pwr := by
  cases hot <;> rfl

/-- What the readings of a round leave for its limits: the registers of the round, and the enforced limit and the hold as they were. -/
theorem pwr_roundSeen (w p : Nat) (s : State) : (roundSeen w p s).pwr.rounds = satAdd 32 s.pwr.rounds 1 ∧ (roundSeen w p s).pwr.pin = min 65535 w ∧
    (roundSeen w p s).pwr.pump = p ∧ (roundSeen w p s).pwr.lim = s.pwr.lim ∧ (roundSeen w p s).pwr.plim = s.pwr.plim ∧
    (roundSeen w p s).pwr.tjHold = s.pwr.tjHold ∧
    ∀ ch v, hottest s = some (ch, v) → (roundSeen w p s).pwr.tjHot = trunc 12 v ∧ (roundSeen w p s).pwr.hotch = ch := by
  obtain ⟨i, f, ev, hev⟩ := raised_coolantRound (hotTaken (hottest s) (roundTaken w p s))
  rw [roundSeen, hev]
  cases hottest s with
  | none => exact ⟨rfl, rfl, rfl, rfl, rfl, rfl, fun ch v h => by cases h⟩
  | some h => exact ⟨rfl, rfl, rfl, rfl, rfl, rfl, fun ch v h => by cases h; exact ⟨rfl, rfl⟩⟩

theorem sec_roundSeen (w p : Nat) (s : State) : (roundSeen w p s).sec = s.sec := by
  have hcool : changesOnly [.pwr, .evr, .brd] (hotTaken (hottest s) (roundTaken w p s)) (roundSeen w p s) := co_coolantRound _ (by decide) (co_refl _ _)
  rw [sec_of_changesOnly hcool (by decide)]
  cases hottest s <;> rfl

/-- The power state that a round ends in. -/
theorem pwr_roundEnd {s : State} (h : running_ s = true) (w p : Nat) :
    let u := junctionRound (hottest s) (roundSeen w p s)
    let l := limitAfter u (throttleMask u (hottest s)) (atMaximum (hottest s) (roundSeen w p s))
    raisedFrom { u.pwr with lim := l.1, clear := l.2, thrott := decide (l.1 < u.pwr.plim) || throttleMask u (hottest s) != 0 } (roundEnd w p s).pwr := by
  intro u l
  rw [roundEnd_of_running h, pwr_tempRounds]
  exact raised_throttleRound ..

/-- Above the power limit a round has a trigger. -/
theorem throttleMask_of_over {u : State} (hot : Option (Nat × Int)) (h : 10 * u.pwr.plim < u.pwr.pin) : throttleMask u hot ≠ 0 := by
  unfold throttleMask
  rw [decide_eq_true h]
  simp [b2n]

theorem limitAfter_of_trigger {u : State} {mask : Nat} (hupd : u.sec.upd = none) (hmask : mask ≠ 0) :
    limitAfter u mask false = (max 150 (975 * min u.pwr.lim u.pwr.plim / 1000), 0) := by
  rw [limitAfter, hupd]
  simp [hmask]

theorem limitAfter_of_maximum {u : State} (mask : Nat) (hupd : u.sec.upd = none) : limitAfter u mask true = (150, 0) := by
  rw [limitAfter, hupd]
  simp

/-- A junction below its maximum takes no update back. -/
theorem sec_junctionRound_of_below {hot : Option (Nat × Int)} {s : State} (h : ∀ ch v, hot = some (ch, v) → v < 420) :
    (junctionRound hot s).sec = s.sec := by
  unfold junctionRound
  split
  · rfl
  · next h0 =>
    rw [if_neg (fun hc => absurd (h _ _ rfl) (Int.not_lt.2 hc.1))]
    split
    · exact sec_of_changesOnly (L := [.pwr, .evr, .dev]) (co_settlePower _ (by decide) (co_fire _ _ _ _ _ _ (by decide) (co_set_pwr _ (by decide) (co_refl _ _)))) (by decide)
    · rfl

/-- The hold of a junction at its maximum. -/
def junctionHeld (ch : Nat) (s : State) : State := fire 19 0 0 1 ch (fire 19 0 0 0 ch (setEvents 4 { s with pwr := { s.pwr with tjHold := true } }))

theorem junctionRound_of_maximum {ch : Nat} {v : Int} {s : State} (hv : 420 ≤ v) (ht : s.pwr.tjHold = false) : junctionRound (some (ch, v)) s =
    if held s || s.dev.shutting then junctionHeld ch s else quiesce_ (junctionHeld ch s) := by
  rw [junctionRound]
  exact if_pos ⟨hv, by simp [ht]⟩

theorem pwr_junctionHeld (ch : Nat) (s : State) : (junctionHeld ch s).pwr = { s.pwr with tjHold := true, events := s.pwr.events ||| 4 } := by
  rw [junctionHeld, pwr_fire, pwr_fire, pwr_setEvents]

theorem sec_junctionHeld (ch : Nat) (s : State) : (junctionHeld ch s).sec = s.sec :=
  sec_of_changesOnly (L := [.pwr, .evr, .brd]) (co_fire _ _ _ _ _ _ (by decide) (co_fire _ _ _ _ _ _ (by decide)
    (co_setEvents _ _ (by decide) (co_set_pwr _ (by decide) (co_refl _ s))))) (by decide)

/-- With no update provisional a hold leaves the security core alone. -/
theorem sec_quiesce_of_none {s : State} (h : s.sec.upd = none) : (quiesce_ s).sec = s.sec := by
  have hrev : updRevert (writesHeld s) = writesHeld s := by
    unfold updRevert
    rw [show (writesHeld s).sec.upd = none from h]
  have hco : changesOnly [.ptn, .net, .evr, .dev] (updRevert (writesHeld s)) (quiesce_ s) :=
    co_settleMstate _ (by decide) (co_raiseAll _ _ _ (by decide) (co_refl _ _))
  rw [sec_of_changesOnly hco (by decide), hrev]
  rfl

theorem junctionRound_maximum_spec {ch : Nat} {v : Int} {s : State} (hv : 420 ≤ v) (ht : s.pwr.tjHold = false) (hupd : s.sec.upd = none) :
    (junctionRound (some (ch, v)) s).sec = s.sec ∧ (junctionRound (some (ch, v)) s).pwr.tjHold = true ∧
    bitOf (junctionRound (some (ch, v)) s).pwr.events 2 = true := by
  have hbit : bitOf (s.pwr.events ||| 4) 2 = true := by rw [bitOf_or]; simp [bitOf]
  rw [junctionRound_of_maximum hv ht]
  split
  · rw [pwr_junctionHeld]
    exact ⟨sec_junctionHeld ch s, rfl, hbit⟩
  · rw [pwr_quiesce, pwr_junctionHeld, sec_quiesce_of_none (by rw [sec_junctionHeld]; exact hupd)]
    exact ⟨sec_junctionHeld ch s, rfl, hbit⟩

theorem tjHold_junctionRound_of_cool {ch : Nat} {v : Int} (s : State) (hv : v < 400) : (junctionRound (some (ch, v)) s).pwr.tjHold = false := by
  unfold junctionRound
  dsimp only
  rw [if_neg (by omega)]
  split
  · rw [settlePower_keeps_pins, pwr_fire]
  · next h => simpa [hv] using h

/-- A round without a junction at its maximum lowers the limit by 2.5 % when the input power lies above it. -/
theorem roundEnd_over {s : State} (h : running_ s = true) {w p : Nat} (hw : 10 * s.pwr.plim < min 65535 w) (hupd : s.sec.upd = none)
    (hcool : ∀ ch v, hottest s = some (ch, v) → v < 420) :
    (roundEnd w p s).pwr.lim = max 150 (975 * min s.pwr.lim s.pwr.plim / 1000) ∧ (roundEnd w p s).pwr.thrott = true := by
  obtain ⟨-, hpin, -, hlim, hplim, -, -⟩ := pwr_roundSeen w p s
  have hframe := readFrame_junctionRound (hottest s) (roundSeen w p s)
  simp only [readFrame, Prod.mk.injEq] at hframe
  obtain ⟨-, hpin', -, -, -, hlim', hplim'⟩ := hframe
  have hsec : (junctionRound (hottest s) (roundSeen w p s)).sec.upd = none := by rw [sec_junctionRound_of_below hcool, sec_roundSeen, hupd]
  have hmask := throttleMask_of_over (u := junctionRound (hottest s) (roundSeen w p s)) (hottest s) (by rw [hpin', hplim', hpin, hplim]; exact hw)
  have hmax : atMaximum (hottest s) (roundSeen w p s) = false := by
    unfold atMaximum
    split
    · next h0 heq => simp [Int.not_le.2 (hcool h0.1 h0.2 heq)]
    · rfl
  obtain ⟨ev, hev⟩ := pwr_roundEnd h w p
  rw [hev, hmax, limitAfter_of_trigger hsec hmask]
  refine ⟨?_, by simp [hmask]⟩
  dsimp only
  rw [hlim', hplim', hlim, hplim]

theorem roundEnd_maximum {s : State} (h : running_ s = true) (w p : Nat) {ch : Nat} {v : Int} (hhot : hottest s = some (ch, v)) (hv : 420 ≤ v)
    (ht : s.pwr.tjHold = false) (hupd : s.sec.upd = none) :
    (roundEnd w p s).pwr.tjHold = true ∧ (roundEnd w p s).pwr.lim = 150 ∧ bitOf (roundEnd w p s).pwr.events 2 = true := by
  obtain ⟨-, -, -, -, -, hhold, -⟩ := pwr_roundSeen w p s
  have hupd' : (roundSeen w p s).sec.upd = none := by rw [sec_roundSeen, hupd]
  obtain ⟨hsec, hheld, hbit⟩ := junctionRound_maximum_spec (ch := ch) hv (hhold.trans ht) hupd'
  have hmax : atMaximum (some (ch, v)) (roundSeen w p s) = true := by simp [atMaximum, hv, hhold, ht]
  obtain ⟨ev, hev⟩ := pwr_roundEnd h w p
  rw [hhot, hmax, limitAfter_of_maximum _ (by rw [hsec]; exact hupd')] at hev
  rw [hev]
  exact ⟨hheld, rfl, by rw [bitOf_or, hbit]; rfl⟩

/-! ## Standby readings -/

/-- A board input's reading in its channel. -/
def boardRead (board : List (Int × Bool)) (t : Tab (Nat × Bool)) (k : Nat) : Tab (Nat × Bool) :=
  match board[k]? with
  | some b => tput (0, false) t (158 + k) (if b.2 then trunc 16 b.1 else (tget (0, false) t (158 + k)).1, b.2)
  | none => t

/-- The input's voltage and current in their channels. -/
def inputRead (mv ma : Nat) (t : Tab (Nat × Bool)) : Tab (Nat × Bool) :=
  tput (0, false) (tput (0, false) t 166 (trunc 16 ((mv / 10 : Nat) : Int), true)) 167 (trunc 16 (ma : Int), true)

theorem standbyRead_of_standby {s : State} (hoff : s.pwr.off = false) (hst : s.pwr.state = 0) (mv ma : Nat) (board : List (Int × Bool)) :
    standbyRead mv ma board s = { s with pwr := { s.pwr with vin := min 65535 (mv / 10), iin := min 65535 ma, chans := (List.range 8).foldl (boardRead board) (inputRead mv ma s.pwr.chans) } } := by
  rw [standbyRead, if_neg (by simp [hoff, hst])]
  rfl

theorem tget_boardRead_ne (board : List (Int × Bool)) (t : Tab (Nat × Bool)) {j k : Nat} (h : j ≠ 158 + k) :
    tget (0, false) (boardRead board t k) j = tget (0, false) t j := by
  unfold boardRead
  split
  · exact tget_tput_ne _ _ _ _ _ h
  · rfl

theorem tget_boardRead_same {board : List (Int × Bool)} (t : Tab (Nat × Bool)) {k : Nat} {v : Int} (h : board[k]? = some (v, true)) :
    tget (0, false) (boardRead board t k) (158 + k) = (trunc 16 v, true) := by
  unfold boardRead
  rw [h]
  exact tget_tput_same ..

theorem tget_boardReads_ne (board : List (Int × Bool)) (t : Tab (Nat × Bool)) (n : Nat) {j : Nat} (hj : j < 158 ∨ 158 + n ≤ j) :
    tget (0, false) ((List.range n).foldl (boardRead board) t) j = tget (0, false) t j := by
  induction n with
  | zero => rfl
  | succ n ih =>
    rw [List.range_succ, List.foldl_append, List.foldl_cons, List.foldl_nil, tget_boardRead_ne _ _ (by omega)]
    exact ih (by omega)

theorem tget_boardReads_same {board : List (Int × Bool)} (t : Tab (Nat × Bool)) (n : Nat) {k : Nat} {v : Int} (h : board[k]? = some (v, true)) (hk : k < n) :
    tget (0, false) ((List.range n).foldl (boardRead board) t) (158 + k) = (trunc 16 v, true) := by
  induction n with
  | zero => omega
  | succ n ih =>
    rw [List.range_succ, List.foldl_append, List.foldl_cons, List.foldl_nil]
    by_cases hn : k = n
    · rw [← hn, tget_boardRead_same _ h]
    · rw [tget_boardRead_ne _ _ (by omega)]
      exact ih (by omega)

theorem exec_standbyReadingRefresh (mv ma : Nat) {board : List (Int × Bool)} (hb : board.length = 8) (s : State) :
    exec (.standbyReadingRefresh mv ma board) s = .next (standbyRead mv ma board s) := by
  change execStandbyReadingRefresh mv ma board s = _
  rw [execStandbyReadingRefresh, decide_eq_true hb]; rfl

/-! ## Droop, peaks, and the obligation -/

theorem exec_droopDetect {cl : Nat} (hcl : isArrCluster cl = true) (mv : Nat) (s : State) : exec (.droopDetect cl mv) s =
    .next (if mv < droopMv s ∧ !s.pwr.stretching.contains cl then { s with pwr := { s.pwr with stretching := s.pwr.stretching ++ [cl] } } else s) := by
  change execDroopDetect cl mv s = _
  rw [execDroopDetect, hcl]; rfl

/-- A cluster's stretched clock returns, with its stretched cycles counted. -/
def stretchEnded (cl n : Nat) (s : State) : State :=
  { s with pwr := { s.pwr with stretching := s.pwr.stretching.erase cl, stretch := tmod 0 s.pwr.stretch (clNum cl) (fun m => satAdd 32 m n) } }

theorem exec_stretchEnd {cl : Nat} (hcl : isArrCluster cl = true) (n : Nat) (s : State) :
    exec (.stretchEnd cl n) s = .next (if s.pwr.stretching.contains cl ∧ 64 ≤ n then stretchEnded cl n s else s) := by
  change execStretchEnd cl n s = _
  rw [execStretchEnd, hcl]; rfl

theorem housekeepingChannel_spec {s : State} (hr : running_ s = true) {ch : Nat} (hch : ch < 256) (v : Int) :
    (∃ t, exec (.housekeepingChannel ch v true) s = .next t ∧ changesOnly [.pwr, .evr, .brd] s t ∧ tget (0, false) t.pwr.chans ch = (trunc 16 v, true) ∧
      tget 0 t.pwr.stale ch = 1 ∧ ∀ k, k ≠ ch → tget (0, false) t.pwr.chans k = tget (0, false) s.pwr.chans k) ∧
    (∃ t, exec (.housekeepingChannel ch v false) s = .next t ∧ changesOnly [.pwr, .evr, .brd] s t ∧
      tget (0, false) t.pwr.chans ch = ((tget (0, false) s.pwr.chans ch).1, false) ∧ tget 0 t.pwr.stale ch = tget 0 s.pwr.stale ch + 2 ∧
      (tget 0 s.pwr.stale ch / 2 = 3 → bitOf t.pwr.events 10 = true)) := by
  obtain ⟨hchans, hstale⟩ := chanFrame_channelRead hr ch v true
  obtain ⟨hchans', hstale'⟩ := chanFrame_channelRead hr ch v false
  refine ⟨⟨_, exec_housekeepingChannel hch v true s, co_channelRead _ _ _ s (by decide) (co_refl _ s), ?_, ?_, fun k hk => ?_⟩,
    ⟨_, exec_housekeepingChannel hch v false s, co_channelRead _ _ _ s (by decide) (co_refl _ s), ?_, ?_, sensorEvent_channelRead hr v⟩⟩
  · rw [hchans]; exact tget_tput_same (0, false) s.pwr.chans ch _
  · rw [hstale]; exact tget_tput_same 0 s.pwr.stale ch 1
  · rw [hchans]; exact tget_tput_ne (0, false) s.pwr.chans ch k _ hk
  · rw [hchans']; exact tget_tput_same (0, false) s.pwr.chans ch _
  · rw [hstale']; exact tget_tput_same 0 s.pwr.stale ch (tget 0 s.pwr.stale ch + 2)

theorem roundEnd_spec {s : State} (hr : running_ s = true) (w p : Nat) : ∃ t, exec (.housekeepingRoundEnd w p) s = .next t ∧
    t.pwr.rounds = satAdd 32 s.pwr.rounds 1 ∧ t.pwr.pin = min 65535 w ∧ t.pwr.pump = p ∧
    (∀ ch v, hottest s = some (ch, v) → t.pwr.tjHot = trunc 12 v ∧ t.pwr.hotch = ch) ∧
    (10 * s.pwr.plim < min 65535 w → s.sec.upd = none → (∀ ch v, hottest s = some (ch, v) → v < 420) →
      t.pwr.lim = max 150 (975 * min s.pwr.lim s.pwr.plim / 1000) ∧ t.pwr.thrott = true) ∧
    (∀ ch v, hottest s = some (ch, v) → 420 ≤ v → s.pwr.tjHold = false → s.sec.upd = none → t.pwr.tjHold = true ∧ t.pwr.lim = 150 ∧
      bitOf t.pwr.events 2 = true) ∧
    (∀ ch v, hottest s = some (ch, v) → v < 400 → t.pwr.tjHold = false) := by
  obtain ⟨hrounds, hpin, hpump, -, -, -, hhot⟩ := pwr_roundSeen w p s
  have hframe := readFrame_junctionRound (hottest s) (roundSeen w p s)
  simp only [readFrame, Prod.mk.injEq] at hframe
  obtain ⟨hrounds', hpin', hpump', htj', hch', -, -⟩ := hframe
  obtain ⟨ev, hev⟩ := pwr_roundEnd hr w p
  refine ⟨roundEnd w p s, rfl, ?_, ?_, ?_, fun ch v h => ?_, fun h1 h2 h3 => roundEnd_over hr h1 h2 h3, fun ch v h1 h2 h3 h4 => roundEnd_maximum hr w p h1 h2 h3 h4,
    fun ch v h1 h2 => ?_⟩
  · rw [hev]; exact hrounds'.trans hrounds
  · rw [hev]; exact hpin'.trans hpin
  · rw [hev]; exact hpump'.trans hpump
  · obtain ⟨h1, h2⟩ := hhot ch v h
    rw [hev]; exact ⟨htj'.trans h1, hch'.trans h2⟩
  · rw [hev, h1]; exact tjHold_junctionRound_of_cool _ h2

/-- Settles O58: a reading's channel, the round's readings before its limits, and the limits after them. -/
theorem readingsAndLimits : Obligations.ReadingsAndLimits := by
  refine fun s => ⟨fun hr => ⟨fun ch v ok hch => ?_, fun w p => ⟨?_, ?_⟩⟩,
    fun hr => ⟨fun ch v hch => housekeepingChannel_spec hr hch v, fun w p => roundEnd_spec hr w p, fun w => ⟨fun h => ?_, fun h => ?_⟩⟩,
    fun mv ma board hb => ⟨fun h => ?_, fun hoff hst => ?_⟩,
    fun cl hcl => ⟨fun mv => ⟨fun h => ?_, fun h1 h2 => ?_⟩, fun n => ⟨fun h => ?_, fun h1 h2 => ?_⟩⟩⟩
  · rw [exec_housekeepingChannel hch, channelRead, if_pos (by simp [hr])]
  · refine congrArg Host.Outcome.next (?_ : roundEnd w p s = s)
    rw [roundEnd, if_pos (by simp [hr])]
  · change execPeakLimit w s = _
    rw [execPeakLimit, if_neg (by simp [hr])]
  · change execPeakLimit w s = _
    rw [execPeakLimit, if_neg (by omega)]
  · refine ⟨fire 18 0 0 0 0 (setEvents 2 s), ?_, co_fire _ _ _ _ _ _ (by decide) (co_setEvents _ _ (by decide) (co_refl _ s)), ?_⟩
    · change execPeakLimit w s = _
      rw [execPeakLimit, if_pos ⟨h, hr⟩]
    · rw [pwr_fire, pwr_setEvents, bitOf_or]
      simp [bitOf]
  · rw [exec_standbyReadingRefresh mv ma hb, standbyRead, if_pos]
    rcases h with h | h <;> simp [h]
  · refine ⟨_, exec_standbyReadingRefresh mv ma hb s, ?_⟩
    rw [standbyRead_of_standby hoff hst]
    refine ⟨co_set_pwr _ (by decide) (co_refl _ s), rfl, rfl, ?_, ?_, fun k v hk => ?_⟩
    · rw [tget_boardReads_ne _ _ _ (by omega), inputRead, tget_tput_ne _ _ _ _ _ (by omega)]
      exact tget_tput_same ..
    · rw [tget_boardReads_ne _ _ _ (by omega)]
      exact tget_tput_same ..
    · obtain ⟨hlt, -⟩ := List.getElem?_eq_some_iff.1 hk
      exact tget_boardReads_same _ 8 hk (hb ▸ hlt)
  · rw [exec_droopDetect hcl, if_neg]
    rcases h with h | h
    · simp [Nat.not_lt.2 h]
    · simp [h]
  · rw [exec_droopDetect hcl, if_pos ⟨h1, by simpa using h2⟩]
  · rw [exec_stretchEnd hcl, if_neg]
    rcases h with h | h
    · simp [h]
    · simp [Nat.not_le.2 h]
  · refine ⟨stretchEnded cl n s, ?_, co_set_pwr _ (by decide) (co_refl _ s), rfl, tget_tmod_same 0 s.pwr.stretch (clNum cl) fun m => satAdd 32 m n⟩
    rw [exec_stretchEnd hcl, if_pos ⟨by simpa using h1, h2⟩]

end Sys2Proof.Machine
end

section
/-! Faults leave the canvases alone but for their counts of abandoned steps; the retention check, READY and the orderly shutdown (R106 to R109,
R539, R540, R544, R545). -/

namespace Sys2Proof.Machine

theorem changesOnly.brd {L : List Part} {s t : State} (h : changesOnly L s t) (hp : Part.brd ∉ L) : t.brd = s.brd := h.2 .brd hp

/-! ## Canvases but for their counts of abandoned steps -/

/-- From `s` to `t` no canvas changes but in the count of its abandoned steps. -/
structure abandonsOnly (s t : State) : Prop where
  each : ∀ c, ∃ n, cnvOf t c = { cnvOf s c with abandons := n }

theorem abandonsOnly.refl (s : State) : abandonsOnly s s := ⟨fun c => ⟨(cnvOf s c).abandons, rfl⟩⟩

theorem abandonsOnly.trans {s t u : State} (h : abandonsOnly s t) (k : abandonsOnly t u) : abandonsOnly s u := ⟨fun c => by
  obtain ⟨n, hn⟩ := h.each c
  obtain ⟨m, hm⟩ := k.each c
  exact ⟨m, by rw [hm, hn]⟩⟩

theorem abandonsOnly.of_cnv {s t : State} (h : t.cnv = s.cnv) : abandonsOnly s t := ⟨fun c => ⟨(cnvOf s c).abandons, by rw [cnvOf, h]; rfl⟩⟩

/-- A change outside the canvases before it. -/
theorem abandonsOnly.after {s u t : State} (h : abandonsOnly u t) (hc : u.cnv = s.cnv) : abandonsOnly s t := (abandonsOnly.of_cnv hc).trans h

theorem abandonsOnly.of_changesOnly {L : List Part} {s t : State} (h : changesOnly L s t) (hL : Part.cnv ∉ L) : abandonsOnly s t :=
  abandonsOnly.of_cnv (cnv_of_changesOnly h hL)

theorem abandonsOnly.foldl {β : Type} {f : State → β → State} (h : ∀ t x, abandonsOnly t (f t x)) (l : List β) (s : State) :
    abandonsOnly s (l.foldl f s) := by
  induction l generalizing s with
  | nil => exact abandonsOnly.refl s
  | cons x l ih => exact (h s x).trans (ih _)

theorem abandonsOnly.sendAbandon (again : Bool) (s : State) : abandonsOnly s (sendAbandon again s) := by
  unfold Machine.sendAbandon
  split
  case h_2 => exact abandonsOnly.refl s
  case h_1 c hc =>
    have hcount : abandonsOnly s (modCnv c.canvas (fun v => { v with abandons := satAdd 32 v.abandons 1 }) (dropSamples c.num 0 s)) := ⟨fun k => by
      by_cases hk : k = c.canvas
      · subst hk
        exact ⟨_, cnvOf_modCnv_same ..⟩
      · exact ⟨(cnvOf s k).abandons, cnvOf_modCnv_ne _ _ _ _ hk⟩⟩
    exact hcount.trans (abandonsOnly.of_changesOnly (L := [.seq, .sch]) (co_schedToAll _ _ _ _ (by decide) (co_modCur _ _ (by decide) (co_refl _ _))) (by decide))

theorem abandonsOnly.updRevert (s : State) : abandonsOnly s (updRevert s) := by
  unfold Machine.updRevert
  split
  · exact abandonsOnly.refl s
  · next u hu =>
    dsimp only
    have hafter : ∀ t : State, abandonsOnly t (replyLate u.h 8 0 u.h.handle (leBytes 4 4)
        (fire 24 0 0 4 u.cls { t with sec := { t.sec with upd := none, updNow := false } })) := fun t =>
      abandonsOnly.of_changesOnly (L := [.net, .evr, .sec])
        (co_replyLate _ _ _ _ _ _ (by decide) (co_fire _ _ _ _ _ _ (by decide) (co_set_sec _ (by decide) (co_refl _ t)))) (by decide)
    split
    · exact (abandonsOnly.sendAbandon false s).trans (hafter _)
    · exact hafter s

theorem abandonsOnly.drainDecision (cause unit level : Nat) (s : State) : abandonsOnly s (drainDecision cause unit level s) := by
  rw [drainDecision_eq]
  split
  · exact abandonsOnly.refl s
  · exact (abandonsOnly.updRevert s).trans (abandonsOnly.of_changesOnly (L := [.ptn, .net, .hist, .evr, .dev])
      (co_drained _ _ _ _ _ (by decide) (co_refl _ _)) (by decide))

theorem abandonsOnly.retireSpare (core : Nat) (s : State) : abandonsOnly s (retireSpare core s) :=
  abandonsOnly.of_changesOnly (L := [.hist]) (co_retireSpare _ _ (by decide) (co_refl _ s)) (by decide)

theorem abandonsOnly.nextSpare (core : Nat) (s : State) : abandonsOnly s (nextSpare core s) := by
  unfold Machine.nextSpare
  dsimp only
  have hret : ∀ f, abandonsOnly s (Machine.retireSpare core { s with hist := { s.hist with fences := f } }) := fun f =>
    (abandonsOnly.retireSpare core { s with hist := { s.hist with fences := f } }).after rfl
  split
  · exact (hret _).trans (abandonsOnly.drainDecision ..)
  · exact hret _

theorem abandonsOnly.addFence (core : Nat) (s : State) : abandonsOnly s (addFence core s) := by
  unfold Machine.addFence
  dsimp only
  have hfence : ∀ f, changesOnly [.hist, .evr] s { s with hist := { s.hist with fences := f } } := fun f => co_set_hist _ (by decide) (co_refl _ s)
  split
  · exact abandonsOnly.drainDecision ..
  · split
    · exact abandonsOnly.of_changesOnly (co_fire _ _ _ _ _ _ (by decide) (hfence _)) (by decide)
    · exact abandonsOnly.of_changesOnly (hfence _) (by decide)

theorem abandonsOnly.fenceDue (core : Nat) (s : State) : abandonsOnly s (fenceDue core s) := by
  unfold Machine.fenceDue
  dsimp only
  split
  · exact abandonsOnly.refl s
  · split
    · exact abandonsOnly.nextSpare ..
    · split
      · exact abandonsOnly.retireSpare ..
      · exact abandonsOnly.addFence ..

theorem abandonsOnly.recordFault (unit level kind detail : Nat) (recurs : Bool) (s : State) :
    abandonsOnly s (recordFault unit level kind detail recurs s) := by
  have hnoted : abandonsOnly s (faultNoted unit level kind detail recurs s) :=
    abandonsOnly.of_changesOnly (L := [.ptn, .net, .hist, .evr]) (co_faultNoted _ _ _ _ _ s (by decide) (co_refl _ s)) (by decide)
  have huh : abandonsOnly s (uhWrite (faultNoted unit level kind detail recurs s)) :=
    hnoted.trans (abandonsOnly.of_changesOnly (L := [.hist]) (co_uhWrite _ (by decide) (co_refl _ _)) (by decide))
  rw [recordFault_eq]
  split
  · exact hnoted
  · split
    · exact huh.trans (abandonsOnly.fenceDue ..)
    · exact huh.trans (abandonsOnly.drainDecision ..)

theorem abandonsOnly.wearCore (core : Nat) (s : State) : abandonsOnly s (wearCore s core) := by
  unfold Machine.wearCore
  split
  · exact abandonsOnly.recordFault ..
  · exact abandonsOnly.of_changesOnly (L := [.ptn, .net, .hist]) (co_addCycle _ _ (by decide) (co_refl _ s)) (by decide)

theorem abandonsOnly.exhaustArray (array detail : Nat) (s : State) : abandonsOnly s (exhaustArray array detail s) := by
  unfold Machine.exhaustArray
  split
  · exact abandonsOnly.refl s
  · exact (abandonsOnly.recordFault _ _ _ _ _ _).after rfl

theorem abandonsOnly.remapCol (array col : Nat) (s : State) : abandonsOnly s (remapCol array col s) := by
  unfold Machine.remapCol
  dsimp only
  split
  · exact abandonsOnly.exhaustArray ..
  · split
    · exact abandonsOnly.wearCore ..
    · refine abandonsOnly.of_changesOnly (L := [.arr, .ptn, .net, .hist]) (co_foldl _ (fun t pk h => co_sparePass _ _ _ (by decide) h) _ _ ?_) (by decide)
      split
      · exact co_set_arr _ (by decide) (co_refl _ s)
      · exact co_addCycle _ _ (by decide) (co_set_arr _ (by decide) (co_refl _ s))

theorem abandonsOnly.programEngine (eng : Nat) (s : State) : abandonsOnly s (programEngine eng s) := by
  unfold Machine.programEngine
  dsimp only
  exact (abandonsOnly.foldl (fun _ _ => abandonsOnly.remapCol _ _ _) _ _).after rfl

theorem abandonsOnly.programCore (core : Nat) (s : State) : abandonsOnly s (programCore core s) :=
  abandonsOnly.foldl (fun _ _ => abandonsOnly.programEngine _ _) _ _

theorem abandonsOnly.rewriteCores (cores : List Nat) (s : State) : abandonsOnly s (rewriteCores cores s) :=
  abandonsOnly.foldl (fun t k => ((abandonsOnly.programCore k (unwrite k t)).after (s := t) rfl).trans (abandonsOnly.wearCore k _)) _ _

/-! ## The retention check -/

/-- The event of a record that was not durable. -/
def recordSeen (c : Nat) (s : State) : State := if (cnvOf s c).recSt = 1 then fire 28 0 0 3 c s else s

theorem co_recordSeen (c : Nat) (s : State) : changesOnly [.evr] s (recordSeen c s) := by
  unfold recordSeen
  split
  · exact co_fire _ _ _ _ _ s (by decide) (co_refl _ s)
  · exact co_refl _ s

/-- A canvas that is written again from the master copy. -/
def rewritten (c : Nat) (cores : List Nat) (s : State) : State :=
  rewriteCores cores (modCnv c (fun x => { x with st := 3, warm := true, recSt := 1, reprog := cores }) s)

/-- A canvas that is kept, but for the cores out of their range. -/
def keptWarm (c : Nat) (b : Bundle) (ch : List (Nat × Word × Word)) (out : List Nat) (s : State) : State :=
  rewriteCores out (startDrifts b ch (modCnv c (fun x => { x with st := 3, warm := true, reprog := out }) s))

theorem retain_eq (c : Nat) (b : Bundle) (recOk crcOk : Bool) (ch : List (Nat × Word × Word)) (offs : List (Nat × Int)) (s : State) :
    retain c b recOk crcOk ch offs s =
      if (cnvOf s c).recSt == 1 || !recOk then
        (if s.kv.farKept then rewritten c (bundleCores (recordSeen c s) b) (recordSeen c s) else awaitBundle c (recordSeen c s))
      else if !s.kv.farKept && !(crcOk && cellsMatch s b) then awaitBundle c (recordSeen c s)
      else keptWarm c b ch ((coresOut ch offs).filter fun k => (bundleCores s b).contains k)
        (if s.kv.farKept then recordSeen c s else rebuildMaster b (recordSeen c s)) := rfl

theorem bundleCores_congr {s t : State} (h : t.hist = s.hist) (b : Bundle) : bundleCores t b = bundleCores s b := by
  simp only [bundleCores, homeCore, corePos, roleOf, h]

theorem rewritten_spec (c : Nat) (cores : List Nat) (s : State) :
    (cnvOf (rewritten c cores s) c).st = 3 ∧ (cnvOf (rewritten c cores s) c).warm = true ∧ (cnvOf (rewritten c cores s) c).recSt = 1 ∧
    (cnvOf (rewritten c cores s) c).reprog = cores := by
  obtain ⟨n, hn⟩ := (abandonsOnly.rewriteCores cores (modCnv c (fun x => { x with st := 3, warm := true, recSt := 1, reprog := cores }) s)).each c
  rw [rewritten, hn, cnvOf_modCnv_same]
  exact ⟨rfl, rfl, rfl, rfl⟩

theorem spec_keptWarm (c : Nat) (b : Bundle) (ch : List (Nat × Word × Word)) (out : List Nat) (s : State) :
    (cnvOf (keptWarm c b ch out s) c).st = 3 ∧ (cnvOf (keptWarm c b ch out s) c).warm = true ∧ (cnvOf (keptWarm c b ch out s) c).reprog = out := by
  obtain ⟨n, hn⟩ := ((abandonsOnly.of_changesOnly (L := [.arr]) (co_startDrifts b ch _ (by decide) (co_refl _
    (modCnv c (fun x => { x with st := 3, warm := true, reprog := out }) s))) (by decide)).trans (abandonsOnly.rewriteCores out _)).each c
  rw [keptWarm, hn, cnvOf_modCnv_same]
  exact ⟨rfl, rfl, rfl⟩

theorem cnvOf_congr {s t : State} (h : t.cnv = s.cnv) (c : Nat) : cnvOf t c = cnvOf s c := by rw [cnvOf, h, cnvOf]

theorem awaitBundle_spec (c : Nat) (s : State) : (cnvOf (awaitBundle c s) c).st = 3 ∧ (cnvOf (awaitBundle c s) c).await = true := by
  have hev : (awaitBundle c s).cnv = (modCnv c (fun v => { v with st := 3, await := true }) s).cnv :=
    cnv_of_changesOnly (L := [.ptn, .net]) (co_canvasEvent _ _ _ (by decide) (co_refl _ _)) (by decide)
  rw [cnvOf_congr hev, cnvOf_modCnv_same]
  exact ⟨rfl, rfl⟩

theorem cnv_checksDone (s : State) : (checksDone s).cnv = s.cnv :=
  cnv_of_changesOnly (L := [.cal, .dev]) (co_checksDone s (by decide) (co_refl _ s)) (by decide)

/-- What a retention check decides for its canvas. -/
def retained (c : Nat) (recOk crcOk : Bool) (ch : List (Nat × Word × Word)) (offs : List (Nat × Int)) (s : State) : State :=
  match (cnvOf s c).bundle with
  | some b => retain c b recOk crcOk ch offs s
  | none => awaitBundle c s

theorem exec_retentionCheck {c : Nat} (hc : c < 4) (recOk crcOk : Bool) (ch : List (Nat × Word × Word)) (offs : List (Nat × Int)) (s : State) :
    exec (.retentionCheck c recOk crcOk ch offs) s =
      .next (if s.dev.row != 4 || !advances s || !(unchecked s).contains c then s else checksDone (retained c recOk crcOk ch offs s)) := by
  change execRetentionCheck c recOk crcOk ch offs s = _
  rw [execRetentionCheck, decide_eq_true hc]
  rfl

/-- A check that decides leaves the canvas as `retained` says. -/
theorem retentionCheck_decides {s : State} {c : Nat} (hc : c < 4) (hrow : s.dev.row = 4) (hadv : advances s = true) (hun : c ∈ unchecked s)
    (recOk crcOk : Bool) (ch : List (Nat × Word × Word)) (offs : List (Nat × Int)) :
    ∃ t, exec (.retentionCheck c recOk crcOk ch offs) s = .next t ∧ cnvOf t c = cnvOf (retained c recOk crcOk ch offs s) c := by
  refine ⟨_, exec_retentionCheck hc recOk crcOk ch offs s, ?_⟩
  rw [if_neg (by simp [hrow, hadv, hun])]
  exact cnvOf_congr (cnv_checksDone _) c

theorem retentionCheck_spec {s : State} {c : Nat} (hc : c < 4) (recOk crcOk : Bool) (ch : List (Nat × Word × Word)) (offs : List (Nat × Int)) :
    let i := Instr.retentionCheck c recOk crcOk ch offs
    (s.dev.row ≠ 4 ∨ advances s = false ∨ c ∉ unchecked s → exec i s = .next s) ∧
    (s.dev.row = 4 → advances s = true → c ∈ unchecked s →
      ((cnvOf s c).bundle = none → ∃ t, exec i s = .next t ∧ (cnvOf t c).st = 3 ∧ (cnvOf t c).await = true) ∧
      (∀ b, (cnvOf s c).bundle = some b →
        let broken := (cnvOf s c).recSt = 1 ∨ recOk = false
        (broken → s.kv.farKept = true → ∃ t, exec i s = .next t ∧ (cnvOf t c).st = 3 ∧ (cnvOf t c).warm = true ∧
          (cnvOf t c).recSt = 1 ∧ (cnvOf t c).reprog = bundleCores s b) ∧
        (broken ∨ crcOk = false ∨ cellsMatch s b = false → s.kv.farKept = false → ∃ t, exec i s = .next t ∧ (cnvOf t c).st = 3 ∧
          (cnvOf t c).await = true) ∧
        (¬broken → s.kv.farKept = true ∨ (crcOk = true ∧ cellsMatch s b = true) → ∃ t, exec i s = .next t ∧ (cnvOf t c).st = 3 ∧
          (cnvOf t c).warm = true ∧
          (cnvOf t c).reprog = (coresOut ch offs).filter fun k => (bundleCores s b).contains k))) := by
  intro i
  refine ⟨fun h => ?_, fun hrow hadv hun => ?_⟩
  · rw [exec_retentionCheck hc, if_pos]
    rcases h with h | h | h <;> simp [h]
  · obtain ⟨t, ht, hcnv⟩ := retentionCheck_decides hc hrow hadv hun recOk crcOk ch offs
    refine ⟨fun hnone => ⟨t, ht, ?_⟩, fun b hb => ?_⟩
    · rw [hcnv, retained, hnone]
      exact awaitBundle_spec c s
    · have hret : cnvOf t c = cnvOf (retain c b recOk crcOk ch offs s) c := by rw [hcnv, retained, hb]
      refine ⟨fun hbroken hfar => ⟨t, ht, ?_⟩, fun hbad hfar => ⟨t, ht, ?_⟩, fun hok hkeep => ⟨t, ht, ?_⟩⟩
      · rw [hret, retain_eq, if_pos (by simpa using hbroken), if_pos hfar, bundleCores_congr (hist_of_changesOnly (co_recordSeen c s) (by decide))]
        exact rewritten_spec ..
      · rw [hret, retain_eq]
        by_cases hbroken : (cnvOf s c).recSt = 1 ∨ recOk = false
        · rw [if_pos (by simpa using hbroken), if_neg (by simp [hfar])]
          exact awaitBundle_spec ..
        · have hbad' := hbad.resolve_left hbroken
          rw [if_neg (by simpa using hbroken), if_pos (by rcases hbad' with h | h <;> simp [hfar, h])]
          exact awaitBundle_spec ..
      · rw [hret, retain_eq, if_neg (by simpa using hok), if_neg (by rcases hkeep with h | ⟨h1, h2⟩ <;> simp [*])]
        exact spec_keptWarm ..

/-! ## READY and the orderly shutdown -/

theorem running_of_advances {s : State} (h : advances s = true) : running_ s = true ∧ warned s = false ∧ s.sec.safe = false ∧ s.sec.romRec = false ∧
    s.hist.inRepl = false ∧ s.dev.shutting = false := by
  simpa only [advances, Bool.and_eq_true, Bool.not_eq_true', and_assoc] using h

/-- The sessions of the request region run out their grace from here on, and the start is over. -/
def readied (s : State) : State := toRow 7 { s with net := { s.net with sess := tmapv Ses.init (fun e =>
  if e.live && e.lapsed && e.ended then { e with graceEnd := afterSec s (graceOf s e.role) } else e) s.net.sess } }

theorem readyEntry_eq {s : State} (hrow : s.dev.row = 6) (hadv : advances s = true) (hset : settled s = true) :
    readyEntry s = settlePower (readied s) := by
  rw [readyEntry, if_neg (by simp [hrow, hadv, hset])]
  rfl

theorem dev_settleMstate (s : State) : (settleMstate s).dev = { s.dev with mstate := mstateOf s } := by
  unfold settleMstate setMstate
  split
  · next h => rw [← h]
  · rw [dev_fire]

theorem dev_settlePower (s : State) : (settlePower s).dev = { s.dev with mstate := (settlePower s).dev.mstate } := by
  unfold settlePower
  split
  · rfl
  · dsimp only
    rw [dev_settleMstate]

theorem readyEntry_active {s : State} (hrow : s.dev.row = 6) (hadv : advances s = true) (hset : settled s = true) (hheld : held s = false)
    (hdrain : s.hist.draining = false) : (readyEntry s).dev.row = 7 ∧ (readyEntry s).pwr.state = 2 ∧ (readyEntry s).dev.mstate = 1 := by
  obtain ⟨hrun, hwarn, hsafe, -, hrepl, hshut⟩ := running_of_advances hadv
  have hstate : settledState (readied s) = 2 := settledState_of_free (s := readied s) hwarn hheld hshut
  have heq : readyEntry s = settleMstate { readied s with pwr := { (readied s).pwr with state := settledState (readied s) } } := by
    rw [readyEntry_eq hrow hadv hset, settlePower_of_running (s := readied s) hrun]
  have hm : mstateOf { readied s with pwr := { (readied s).pwr with state := settledState (readied s) } } = 1 := by
    have h1 : held { readied s with pwr := { (readied s).pwr with state := settledState (readied s) } } = false := hheld
    have h2 : warned { readied s with pwr := { (readied s).pwr with state := settledState (readied s) } } = false := hwarn
    rw [mstateOf, h1, h2]
    simp [readied, toRow, hrepl, hdrain, hsafe, hshut]
  rw [heq, dev_settleMstate, pwr_settleMstate]
  exact ⟨rfl, hstate, hm⟩

/-- PWR_EN low. -/
def enLow (s : State) : State := { s with brd := { s.brd with pwrEn := false }, pwr := { s.pwr with needEdge := false } }

/-- A shutdown has begun. -/
def shutBegun (s : State) : State := { enLow s with dev := { (enLow s).dev with shutting := true } }

theorem pwrEnOff_eq (s : State) : pwrEnOff s = if !running_ s || s.dev.shutting then enLow s
    else if held s then settleMstate (shutBegun s) else quiesce_ (shutBegun s) := rfl

theorem holdBegins_eq (s : State) : quiesce_ s = settleMstate (raiseAll (enabledPtns (updRevert (writesHeld s)))
    { ty := 5, flags := 0, unit := 0, level := 0, args := [] } (updRevert (writesHeld s))) := rfl

theorem shutting_quiesce (s : State) : (quiesce_ s).dev.shutting = s.dev.shutting := by
  rw [holdBegins_eq, dev_settleMstate, dev_of_changesOnly (L := [.ptn, .net, .seq, .sch, .cnv, .hist, .sec, .evr]) (s := writesHeld s)
      (co_raiseAll _ _ _ (by decide) (co_updRevert _ (by decide) (co_refl _ _))) (by decide)]
  rfl

theorem brd_quiesce (s : State) : (quiesce_ s).brd = s.brd := by
  rw [changesOnly.brd (co_quiesce_after s) (by decide)]
  rfl

theorem pwrEnDeassert_spec (s : State) : (pwrEnOff s).brd.pwrEn = false ∧ (pwrEnOff s).pwr.needEdge = false ∧
    (running_ s = true → (pwrEnOff s).dev.shutting = true) ∧ (running_ s = false → (pwrEnOff s).dev = s.dev) ∧
    (running_ s = true → s.dev.shutting = false → held s = false → (pwrEnOff s).pwr.holdUs = s.clk.us) := by
  rw [pwrEnOff_eq]
  by_cases hr : running_ s = true
  · by_cases hsh : s.dev.shutting = true
    · rw [if_pos (by simp [hsh])]
      exact ⟨rfl, rfl, fun _ => hsh, fun h => absurd hr (by simp [h]), fun _ h => absurd hsh (by simp [h])⟩
    · rw [if_neg (by simp [hr, hsh])]
      by_cases hh : held s = true
      · rw [if_pos hh, dev_settleMstate, pwr_settleMstate, changesOnly.brd (co_settleMstate (L := [.evr, .dev]) _ (by decide) (co_refl _ _)) (by decide)]
        exact ⟨rfl, rfl, fun _ => rfl, fun h => absurd hr (by simp [h]), fun _ _ h => absurd hh (by simp [h])⟩
      · rw [if_neg hh, brd_quiesce, pwr_quiesce, shutting_quiesce]
        exact ⟨rfl, rfl, fun _ => rfl, fun h => absurd hr (by simp [h]), fun _ _ _ => rfl⟩
  · rw [if_pos (by simp [hr])]
    exact ⟨rfl, rfl, fun h => absurd h hr, fun _ => rfl, fun h => absurd h hr⟩

/-- The requests paused for a shutdown. -/
def shutPaused (s : State) : State := if s.dev.row < 4 then s else (byPriority s).foldl pauseForShutdown s

/-- The drift tables saved for a shutdown of a module in `row`. -/
def driftsSaved (row : Nat) (s : State) : State := if row < 6 then s else allClusters.foldl (fun t cl => saveDrift cl t) s

/-- The requests paused, the drift tables saved and the request region written for a shutdown. -/
def shutSaved (s : State) : State :=
  if s.dev.row < 4 then driftsSaved s.dev.row (shutPaused s) else writeRegion (driftsSaved s.dev.row (shutPaused s))

/-- The rails off at the end of a shutdown. -/
def shutOff (s : State) : State := railsOff (farHolds s) 0 false (settleMstate (evrCommit (uhWrite (shutSaved s))))

theorem shutdownEnd_eq {s : State} (h1 : s.dev.shutting = true) (h2 : running_ s = true) (h3 : warned s = false) (h4 : s.sch.cur = none)
    (h5 : s.dev.row ≠ 7 ∨ s.pwr.state = 3) : shutdownEnd s = if (shutOff s).brd.pwrEn then beginStart (shutOff s) else shutOff s := by
  rw [shutdownEnd, if_neg (by rcases h5 with h | h <;> simp [h1, h2, h3, h4, h])]
  rfl

theorem co_shutPaused (s : State) : changesOnly [.kv, .head, .req, .ptn, .net, .glz, .cal] s (shutPaused s) := by
  unfold shutPaused
  split
  · exact co_refl _ s
  · exact co_foldl _ (fun t ix h => co_pauseForShutdown t ix (by decide) h) _ _ (co_refl _ s)

theorem co_driftsSaved {s0 : State} (row : Nat) (s : State) (h : changesOnly [.kv, .head, .req, .ptn, .net, .glz, .cal] s0 s) :
    changesOnly [.kv, .head, .req, .ptn, .net, .glz, .cal] s0 (driftsSaved row s) := by
  unfold driftsSaved
  split
  · exact h
  · exact co_foldl _ (fun t cl h => co_saveDrift cl t (by decide) h) _ _ h

theorem co_shutSaved (s : State) : changesOnly [.kv, .head, .req, .ptn, .net, .glz, .cal] s (shutSaved s) := by
  unfold shutSaved
  split
  · exact co_driftsSaved _ _ (co_shutPaused s)
  · exact co_writeRegion _ (by decide) (co_driftsSaved _ _ (co_shutPaused s))

/-- What the commits of a shutdown leave of the saved module. -/
theorem co_shutCommitted (s : State) : changesOnly [.hist, .evr, .dev] (shutSaved s) (settleMstate (evrCommit (uhWrite (shutSaved s)))) :=
  co_settleMstate _ (by decide) (co_evrCommit _ (by decide) (co_uhWrite _ (by decide) (co_refl _ _)))

theorem lost_railsOff (far : Bool) (st : Nat) (off : Bool) (s : State) : (railsOff far st off s).pwr.off = off ∧ (railsOff far st off s).pwr.state = st ∧
    (railsOff far st off s).sch = State.reset.sch := ⟨rfl, rfl, rfl⟩

theorem begun_beginStart (s : State) : (beginStart s).pwr.off = s.pwr.off ∧ (beginStart s).pwr.state = 1 ∧ (beginStart s).arr = s.arr ∧
    (beginStart s).sch = s.sch ∧ (beginStart s).hist = s.hist ∧ (beginStart s).clk.cycles = satAdd 32 s.clk.cycles 1 ∧ (beginStart s).dev.row = 0 :=
  ⟨rfl, rfl, rfl, rfl, rfl, rfl, rfl⟩

theorem cells_shutOff (s : State) : (shutOff s).arr.cells = s.arr.cells := by
  change (settleMstate (evrCommit (uhWrite (shutSaved s)))).arr.cells = _
  rw [arr_of_changesOnly (co_shutCommitted s) (by decide), arr_of_changesOnly (co_shutSaved s) (by decide)]

theorem clk_shutOff (s : State) : (shutOff s).clk = s.clk := by
  change (settleMstate (evrCommit (uhWrite (shutSaved s)))).clk = _
  rw [clk_of_changesOnly (co_shutCommitted s) (by decide), clk_of_changesOnly (co_shutSaved s) (by decide)]

theorem pwrEn_shutOff (s : State) : (shutOff s).brd.pwrEn = s.brd.pwrEn := by
  change (settleMstate (evrCommit (uhWrite (shutSaved s)))).brd.pwrEn = _
  rw [changesOnly.brd (co_shutCommitted s) (by decide), changesOnly.brd (co_shutSaved s) (by decide)]

theorem seqs_shutOff (s : State) : max (shutOff s).hist.seqA (shutOff s).hist.seqB = max s.hist.seqA s.hist.seqB + 1 := by
  have hkept : (shutOff s).hist = histKept (settleMstate (evrCommit (uhWrite (shutSaved s)))).hist := rfl
  have hseqs : ∀ h : HistSt, (histKept h).seqA = h.seqA ∧ (histKept h).seqB = h.seqB := fun h => ⟨rfl, rfl⟩
  rw [hkept, (hseqs _).1, (hseqs _).2,
    hist_of_changesOnly (co_settleMstate (L := [.evr, .dev]) _ (by decide) (co_evrCommit _ (by decide) (co_refl _ _))) (by decide), seqs_uhWrite,
    hist_of_changesOnly (co_shutSaved s) (by decide)]

theorem shutdownEnd_spec {s : State} (h1 : s.dev.shutting = true) (h2 : running_ s = true) (h3 : warned s = false) (h4 : s.sch.cur = none)
    (h5 : s.dev.row ≠ 7 ∨ s.pwr.state = 3) :
    (shutdownEnd s).pwr.off = false ∧ (shutdownEnd s).arr.cells = s.arr.cells ∧ (shutdownEnd s).sch = State.reset.sch ∧
    max (shutdownEnd s).hist.seqA (shutdownEnd s).hist.seqB = max s.hist.seqA s.hist.seqB + 1 ∧
    (s.brd.pwrEn = false → (shutdownEnd s).pwr.state = 0 ∧ (shutdownEnd s).clk = s.clk) ∧
    (s.brd.pwrEn = true → (shutdownEnd s).pwr.state = 1 ∧ (shutdownEnd s).clk.cycles = satAdd 32 s.clk.cycles 1 ∧ (shutdownEnd s).dev.row = 0) := by
  rw [shutdownEnd_eq h1 h2 h3 h4 h5, pwrEn_shutOff]
  obtain ⟨hoff, hstate, hsch⟩ := lost_railsOff (farHolds s) 0 false (settleMstate (evrCommit (uhWrite (shutSaved s))))
  rw [← shutOff] at hoff hstate hsch
  by_cases hen : s.brd.pwrEn = true
  · obtain ⟨h6, h7, h8, h9, h10, h11, h12⟩ := begun_beginStart (shutOff s)
    rw [if_pos hen, h6, h7, h8, h9, h10, h11, h12, clk_shutOff]
    exact ⟨hoff, cells_shutOff s, hsch, seqs_shutOff s, fun h => absurd hen (by simp [h]), fun _ => ⟨rfl, rfl, rfl⟩⟩
  · rw [if_neg hen]
    exact ⟨hoff, cells_shutOff s, hsch, seqs_shutOff s, fun _ => ⟨hstate, clk_shutOff s⟩, fun h => absurd h hen⟩

/-- Settles O60: the decision of R108 for a canvas, the last row of a start, and the steps of an orderly shutdown. -/
theorem readinessAndShutdown : Obligations.ReadinessAndShutdown := by
  refine fun s => ⟨fun c recOk crcOk ch offs hc => retentionCheck_spec hc recOk crcOk ch offs, fun h => ?_, fun hrow hadv hset hheld hdrain => ?_,
    fun hrow hadv hset => ?_, ⟨pwrEnOff s, rfl, pwrEnDeassert_spec s⟩, fun h => ?_, fun h1 h2 h3 h4 h5 => ⟨shutdownEnd s, rfl, shutdownEnd_spec h1 h2 h3 h4 h5⟩⟩
  · refine congrArg Host.Outcome.next (?_ : readyEntry s = s)
    rw [readyEntry, if_pos]
    rcases h with h | h | h <;> simp [h]
  · refine ⟨readyEntry s, rfl, co_readyEntry s (by decide) (co_refl _ s), readyEntry_active hrow hadv hset hheld hdrain⟩
  · refine ⟨readyEntry s, rfl, ?_⟩
    rw [readyEntry_eq hrow hadv hset, dev_settlePower]
    rfl
  · refine congrArg Host.Outcome.next (?_ : shutdownEnd s = s)
    rw [shutdownEnd, if_pos]
    rcases h with h | h | h | h | ⟨h, h'⟩ <;> simp [*]

end Sys2Proof.Machine
end

section
/-! The management interface, ROM recovery and boundary scan (R452, R525 to R529). -/

namespace Sys2Proof.Machine

/-! ## Transfers -/

theorem sbDo_of_badPec {s : State} (h : sbAlive s = true) (act : State → State) :
    sbDo false act s = { s with brd := { s.brd with sbLast := 4, sbOut := [], sbNack := true } } := by
  rw [sbDo, if_neg (by simp [h]), if_pos (by simp)]

theorem sbDo_of_goodPec {s : State} (h : sbAlive s = true) (act : State → State) : sbDo true act s = act s := by
  rw [sbDo, if_neg (by simp [h]), if_neg (by simp)]

theorem sbReg_of_running {s : State} (h : sbAlive s = true) (hr : s.sec.romRec = false) (act : State → State) : sbReg true act s = act s := by
  rw [sbReg, sbDo_of_goodPec h, if_neg (by simp [hr])]

theorem sbReg_of_recovery {s : State} (h : sbAlive s = true) (hr : s.sec.romRec = true) (act : State → State) : sbReg true act s = sbAnswer 3 [] s := by
  rw [sbReg, sbDo_of_goodPec h, if_pos hr]

theorem sbRcv_of_running {s : State} (h : sbAlive s = true) (hr : s.sec.romRec = false) (act : State → State) : sbRcv true act s = sbRefuse s := by
  rw [sbRcv, sbDo_of_goodPec h, if_neg (by simp [hr])]

theorem sbRcv_of_recovery {s : State} (h : sbAlive s = true) (hr : s.sec.romRec = true) (act : State → State) : sbRcv true act s = act s := by
  rw [sbRcv, sbDo_of_goodPec h, if_pos hr]

theorem exec_read {n : Nat} (hn : n < 256) (pecOk : Bool) (s : State) : exec (.read pecOk n) s = .next (sbReg pecOk (sbRead n) s) := by
  change execRead pecOk n s = _
  rw [execRead, decide_eq_true hn]; rfl

/-- A transfer whose PEC fails is refused, whatever it asks. -/
theorem badPec_refused {s : State} (h : sbAlive s = true) (a : Word) {n : Nat} (hn : n < 256) (vs : List Word) (bytes : List Byte) (byte : Byte) (ok : Bool) :
    ∀ c ∈ [Instr.addr false a, .read false n, .write false vs, .status false, .rcvStatus false, .rcvData false bytes, .rcvDone false byte ok],
      exec c s = .next { s with brd := { s.brd with sbLast := 4, sbOut := [], sbNack := true } } := by
  intro c hc
  simp only [List.mem_cons, List.not_mem_nil, or_false] at hc
  rcases hc with rfl | rfl | rfl | rfl | rfl | rfl | rfl
  case inr.inl => rw [exec_read hn, sbReg, sbDo_of_badPec h]
  all_goals exact congrArg Host.Outcome.next (sbDo_of_badPec h _)

/-! ## Registers from the pointer -/

theorem length_readMany (p : Path) (a ix n : Nat) (s : State) : (readMany p a ix n s).1.length = n := by
  induction n generalizing ix s with
  | zero => rfl
  | succ k ih => exact congrArg (· + 1) (ih (ix + 1) _)

theorem brd_readMany (p : Path) (a ix n : Nat) (s : State) : (readMany p a ix n s).2.2.2.brd = s.brd :=
  changesOnly.brd (co_readMany (L := [.cnv, .net, .hist, .cal, .sec, .pwr, .evr]) p a ix n s (by decide) (co_refl _ s)) (by decide)

/-- As many registers are written as there are words, unless one stops the transfer. -/
theorem done_writeMany (p : Path) (a ix : Nat) (vs : List Word) (s : State) :
    (writeMany p a ix vs s).1 ≤ ix + vs.length ∧ ((writeMany p a ix vs s).2.1 = none → (writeMany p a ix vs s).1 = ix + vs.length) := by
  induction vs generalizing ix s with
  | nil => exact ⟨Nat.le_refl _, fun _ => rfl⟩
  | cons v vs ih =>
    rw [writeMany]
    split
    · obtain ⟨h1, h2⟩ := ih (ix + 1) (writeReg p (a + 4 * ix) v s).2
      rw [List.length_cons]
      exact ⟨by omega, fun h => by rw [h2 h]; omega⟩
    · exact ⟨Nat.le_add_right _ _, fun h => by cases h⟩

/-- The answer of a transfer, with the pointer moved on. -/
theorem co_answered (st n : Nat) (out : List Word) (s : State) : changesOnly [.brd] s (stepPtr n (sbAnswer st out s)) :=
  co_set_brd _ (by decide) (co_set_brd _ (by decide) (co_refl _ s))

theorem brd_answered (st n : Nat) (out : List Word) (s : State) :
    (stepPtr n (sbAnswer st out s)).brd = { s.brd with sbLast := st, sbOut := out, sbNack := false, ptr := (s.brd.ptr + 4 * n) % 2 ^ 32 } := rfl

theorem read_spec {s : State} (h : sbAlive s = true) (hr : s.sec.romRec = false) {n : Nat} (h1 : 1 ≤ n) (h8 : n ≤ 8) :
    let r := readMany .sideband s.brd.ptr 0 n s
    ∃ t, exec (.read true n) s = .next t ∧ changesOnly [.brd] r.2.2.2 t ∧ t.brd.sbOut = r.1 ∧ t.brd.sbOut.length = n ∧ t.brd.sbLast = errCode r.2.2.1 ∧
      t.brd.sbNack = false ∧ t.brd.ptr = (s.brd.ptr + 4 * n) % 2 ^ 32 := by
  intro r
  refine ⟨stepPtr n (sbAnswer (errCode r.2.2.1) r.1 r.2.2.2), ?_, co_answered .., ?_⟩
  · rw [exec_read (by omega), sbReg_of_running h hr, sbRead, if_neg (by omega)]
  · rw [brd_answered, brd_readMany]
    exact ⟨rfl, length_readMany .., rfl, rfl, rfl⟩

theorem write_spec {s : State} (h : sbAlive s = true) (hr : s.sec.romRec = false) {vs : List Word} (h1 : 1 ≤ vs.length) (h8 : vs.length ≤ 8) :
    let r := writeMany .sideband s.brd.ptr 0 vs s
    ∃ t, exec (.write true vs) s = .next t ∧ changesOnly [.brd] r.2.2 t ∧ t.brd.sbLast = errCode r.2.1 ∧ t.brd.sbNack = false ∧
      t.brd.ptr = (r.2.2.brd.ptr + 4 * r.1) % 2 ^ 32 ∧ r.1 ≤ vs.length ∧ (r.2.1 = none → r.1 = vs.length) := by
  intro r
  have hdone := done_writeMany .sideband s.brd.ptr 0 vs s
  rw [Nat.zero_add] at hdone
  refine ⟨stepPtr r.1 (sbAnswer (errCode r.2.1) [] r.2.2), ?_, co_answered .., ?_⟩
  · change Host.Outcome.next (sbReg true (sbWrite vs) s) = _
    rw [sbReg_of_running h hr, sbWrite, if_neg (by omega)]
  · rw [brd_answered]
    exact ⟨rfl, rfl, rfl, hdone⟩

/-! ## ROM recovery -/

theorem fwOf_modFw_same (cls : Nat) (f : FwCls → FwCls) (s : State) : fwOf (modFw cls f s) cls = f (fwOf s cls) := tget_tmod_same ..

theorem fwOf_modFw_ne (cls k : Nat) (f : FwCls → FwCls) (s : State) (h : k ≠ cls) : fwOf (modFw cls f s) k = fwOf s k := tget_tmod_ne _ _ _ _ _ h

/-- The slots after a good image has been received. -/
def rcvWritten (s : State) : State := modFw 1 (fun c => { c with a := (rcvImage s).1, actB := false, staged := false }) (rcvImage s).2

/-- The recovery window reads 4, and the boot runs again. -/
def rcvRestarts (s : State) : State := { s with sec := { s.sec with rcv := 4, rcvBytes := [] }, dev := { s.dev with row := 2 } }

theorem rcvFinish_good {s : State} (h : s.sec.rcv = 1) : rcvFinish 0xA5 true s = sbAnswer 0 [] (rcvRestarts (rcvWritten s)) := by
  rw [rcvFinish, if_neg (by simp [h]), if_neg (by simp)]
  rfl

theorem fwOf_rcvRestarts (s : State) (k : Nat) : fwOf (sbAnswer 0 [] (rcvRestarts (rcvWritten s))) k = fwOf (rcvWritten s) k := rfl

theorem rcvDone_spec {s : State} (h : s.sec.rcv = 1) :
    (rcvFinish 0xA5 true s).sec.rcv = 4 ∧ (rcvFinish 0xA5 true s).dev.row = 2 ∧ (fwOf (rcvFinish 0xA5 true s) 1).a.valid = true ∧
    (fwOf (rcvFinish 0xA5 true s) 1).actB = false ∧ (fwOf (rcvFinish 0xA5 true s) 1).a.meas = leNat (Config.sha512 s.sec.rcvBytes) ∧
    (fwOf (rcvFinish 0xA5 true s) 1).floor = (fwOf s 1).floor ∧ (fwOf (rcvFinish 0xA5 true s) 1).b = (fwOf s 1).b ∧
    ∀ k, k ≠ 1 → fwOf (rcvFinish 0xA5 true s) k = fwOf s k := by
  rw [rcvFinish_good h]
  refine ⟨rfl, rfl, ?_, ?_, ?_, ?_, ?_, fun k hk => ?_⟩
  · rw [fwOf_rcvRestarts, rcvWritten, fwOf_modFw_same]; rfl
  · rw [fwOf_rcvRestarts, rcvWritten, fwOf_modFw_same]
  · rw [fwOf_rcvRestarts, rcvWritten, fwOf_modFw_same]; rfl
  · rw [fwOf_rcvRestarts, rcvWritten, fwOf_modFw_same]; rfl
  · rw [fwOf_rcvRestarts, rcvWritten, fwOf_modFw_same]; rfl
  · rw [fwOf_rcvRestarts, rcvWritten, fwOf_modFw_ne _ _ _ _ hk]; rfl

/-- In ROM recovery register commands report busy. -/
theorem recovery_busy {s : State} (h : sbAlive s = true) (hr : s.sec.romRec = true) (a : Word) {n : Nat} (hn : n < 256) (vs : List Word) :
    ∀ c ∈ [Instr.addr true a, .read true n, .write true vs, .status true],
      exec c s = .next { s with brd := { s.brd with sbLast := 3, sbOut := [], sbNack := false } } := by
  intro c hc
  simp only [List.mem_cons, List.not_mem_nil, or_false] at hc
  rcases hc with rfl | rfl | rfl | rfl
  case inr.inl => rw [exec_read hn, sbReg_of_recovery h hr]; rfl
  all_goals exact congrArg Host.Outcome.next (sbReg_of_recovery h hr _)

theorem running_refuses {s : State} (h : sbAlive s = true) (hr : s.sec.romRec = false) (bytes : List Byte) (byte : Byte) (ok : Bool) :
    ∀ c ∈ [Instr.rcvStatus true, .rcvData true bytes, .rcvDone true byte ok],
      exec c s = .next { s with brd := { s.brd with sbOut := [], sbNack := true } } := by
  intro c hc
  simp only [List.mem_cons, List.not_mem_nil, or_false] at hc
  rcases hc with rfl | rfl | rfl
  all_goals exact congrArg Host.Outcome.next (sbRcv_of_running h hr _)

/-! ## Addresses and TAPs -/

theorem exec_entdaa {a : Nat} (ha : a < 128) (s : State) : exec (.entdaa a) s = .next (giveAddr a s) := by
  change execEntdaa a s = _
  rw [execEntdaa, decide_eq_true ha]; rfl

theorem exec_setdasa {x a : Nat} (hx : x < 128) (ha : a < 128) (s : State) :
    exec (.setdasa x a) s = .next (if x = 0x50 + s.brd.straps % 4 then giveAddr a s else s) := by
  change execSetdasa x a s = _
  rw [execSetdasa, decide_eq_true hx, decide_eq_true ha]; rfl

theorem giveAddr_of_none {s : State} (h : sbAlive s = true) (hd : s.brd.dynAddr = none) (a : Nat) :
    giveAddr a s = { s with brd := { s.brd with dynAddr := some a } } := by
  rw [giveAddr, if_pos (by simp [h, hd])]

theorem exec_enec {bits : Nat} (h : bits < 256) (s : State) :
    exec (.enec bits) s = .next (if sbAlive s then { s with brd := { s.brd with enec := s.brd.enec ||| bits } } else s) := by
  change execEnec bits s = _
  rw [execEnec, decide_eq_true h]; rfl

theorem exec_tapLoad {tap : Nat} (h : tap < 5) (op : Nat) (s : State) : exec (.tapInstructionLoad tap op) s = .next (tapLoad tap op s) := by
  change execTapInstructionLoad tap op s = _
  rw [execTapInstructionLoad, decide_eq_true h]; rfl

/-- The instruction that a TAP takes: BYPASS for one outside its condition. -/
def tapTaken (op : Nat) (s : State) : Nat := if op = 1 then 1 else if op < 8 ∧ tapOpen s = true then op else 0

theorem tapLoad_of_powered {s : State} (hoff : s.pwr.off = false) (hp : s.brd.prsnt = true) (tap op : Nat) :
    tapLoad tap op s = { s with brd := { s.brd with trst := false, taps := tput 1 s.brd.taps tap (tapTaken op s) } } := by
  rw [tapLoad, if_neg (by simp [hoff, hp])]
  rfl

theorem clockLow_spec (s : State) {ms : Nat} (h : 25 ≤ ms) : changesOnly [.brd, .free] s (clockLow ms s) ∧
    ((clockLow ms s).brd.sbOut = [] ∨ (ms < 35 ∧ (clockLow ms s).brd = s.brd)) := by
  have hdraw : changesOnly [.brd, .free] s (draw s).2 := co_draw s (by decide) (co_refl _ s)
  rw [clockLow, if_neg (Nat.not_lt.2 h)]
  dsimp only
  split
  · next hms => exact ⟨hdraw, .inr ⟨hms.1, rfl⟩⟩
  · exact ⟨co_set_brd _ (by decide) hdraw, .inl rfl⟩

theorem recoveryRows {s : State} (h : sbAlive s = true) (hr : s.sec.romRec = true) :
    (exec (.rcvStatus true) s = .next { s with brd := { s.brd with sbLast := 0, sbOut := [BitVec.ofNat 32 s.sec.rcv], sbNack := false } }) ∧
    (∀ bytes, 1 ≤ bytes.length → bytes.length ≤ 32 → ∃ t, exec (.rcvData true bytes) s = .next t ∧ changesOnly [.sec, .brd] s t ∧ t.brd.sbNack = false ∧
      t.sec.rcv = 1 ∧ t.sec.rcvBytes = (if s.sec.rcv = 1 then s.sec.rcvBytes ++ bytes else bytes)) ∧
    (∀ byte ok, (byte ≠ 0xA5 ∨ s.sec.rcv ≠ 1) → exec (.rcvDone true byte ok) s = .next { s with brd := { s.brd with sbOut := [], sbNack := true } }) ∧
    (s.sec.rcv = 1 →
      (∃ t, exec (.rcvDone true 0xA5 false) s = .next t ∧ t.sec.rcv = 3 ∧ t.sec.rcvBytes = [] ∧ t.sec.fw = s.sec.fw ∧ changesOnly [.sec, .brd] s t) ∧
      (∃ t, exec (.rcvDone true 0xA5 true) s = .next t ∧ t.sec.rcv = 4 ∧ t.dev.row = 2 ∧ (fwOf t 1).a.valid = true ∧ (fwOf t 1).actB = false ∧
        (fwOf t 1).a.meas = leNat (Config.sha512 s.sec.rcvBytes) ∧ (fwOf t 1).floor = (fwOf s 1).floor ∧ (fwOf t 1).b = (fwOf s 1).b ∧
        ∀ k, k ≠ 1 → fwOf t k = fwOf s k)) := by
  have hexec : ∀ act : State → State, Host.Outcome.next (sbRcv true act s) = (Host.Outcome.next (act s) : Out) := fun act =>
    congrArg Host.Outcome.next (sbRcv_of_recovery h hr act)
  refine ⟨hexec _, fun bytes h1 h32 => ⟨_, hexec (rcvTake bytes), ?_⟩, fun byte ok hbad => (hexec (rcvFinish byte ok)).trans ?_,
    fun hrcv => ⟨⟨_, hexec (rcvFinish 0xA5 false), ?_⟩, ⟨_, hexec (rcvFinish 0xA5 true), rcvDone_spec hrcv⟩⟩⟩
  · rw [rcvTake, if_neg (by omega)]
    exact ⟨co_set_brd _ (by decide) (co_set_sec _ (by decide) (co_refl _ s)), rfl, rfl, rfl⟩
  · rw [rcvFinish, if_pos hbad]; rfl
  · rw [rcvFinish, if_neg (by simp [hrcv]), if_pos (by simp)]
    exact ⟨rfl, rfl, rfl, co_set_brd _ (by decide) (co_set_sec _ (by decide) (co_refl _ s))⟩

/-- Settles O55: a transfer acts when its PEC is good, its registers outside ROM recovery and the recovery window inside it. -/
theorem sidebandRows : Obligations.SidebandRows := by
  refine ⟨fun s h => ⟨fun a n vs bytes byte ok hn => badPec_refused h a hn vs bytes byte ok,
      fun hr => ⟨fun a => ?_, ?_, fun n hn hbad => ?_, fun n h1 h8 => read_spec h hr h1 h8, fun vs hbad => ?_, fun vs h1 h8 => write_spec h hr h1 h8,
        fun bytes byte ok => running_refuses h hr bytes byte ok⟩,
      fun hr => ⟨fun a n vs hn => recovery_busy h hr a hn vs, recoveryRows h hr⟩⟩,
    fun s => ⟨fun a ha => ⟨fun h hd => ⟨?_, ?_⟩, fun h => ?_, fun x hx hne => ?_⟩, fun bits hb => ⟨fun h => ?_, fun h => ?_⟩,
      fun tap op ht => ⟨fun h => ?_, fun hoff hp => ?_⟩, ?_, fun ms => ⟨fun h => ?_, fun h => ⟨clockLow ms s, rfl, clockLow_spec s h⟩⟩⟩⟩
  · exact congrArg Host.Outcome.next (sbReg_of_running h hr _)
  · exact congrArg Host.Outcome.next (sbReg_of_running h hr _)
  · rw [exec_read hn, sbReg_of_running h hr, sbRead, if_pos hbad]; rfl
  · refine (congrArg Host.Outcome.next (sbReg_of_running h hr (sbWrite vs))).trans ?_
    rw [sbWrite, if_pos hbad]; rfl
  · rw [exec_entdaa ha, giveAddr_of_none h hd]
  · rw [exec_setdasa (by omega) ha, if_pos rfl, giveAddr_of_none h hd]
  · rw [exec_entdaa ha, giveAddr, if_neg]
    rcases h with h | h
    · simp [h]
    · simp [Option.isNone_iff_eq_none, h]
  · rw [exec_setdasa hx ha, if_neg hne]
  · rw [exec_enec hb, if_neg (by simp [h])]
  · rw [exec_enec hb, if_pos h]
  · rw [exec_tapLoad ht, tapLoad, if_pos]
    rcases h with h | h <;> simp [h]
  · refine ⟨_, exec_tapLoad ht op s, ?_⟩
    rw [tapLoad_of_powered hoff hp]
    exact ⟨co_set_brd _ (by decide) (co_refl _ s), rfl, tget_tput_same 1 s.brd.taps tap (tapTaken op s), fun j hj => tget_tput_ne 1 s.brd.taps tap j _ hj⟩
  · exact ⟨_, rfl, co_set_brd _ (by decide) (co_refl _ s), rfl, fun j => rfl⟩
  · refine congrArg Host.Outcome.next (?_ : clockLow ms s = s)
    rw [clockLow, if_pos h]

end Sys2Proof.Machine
end

section
/-! Messages that join the sessions' queues (R377, R384, R388, R389). -/

namespace Sys2Proof.Machine

/-! ## What a message leaves of the sessions -/

/-- From `s` to `t` messages join the queues of open sessions, and commands may leave or join their counts; nothing else of a session changes. -/
structure msgsJoin (s t : State) : Prop where
  each : ∀ k, ∃ xs cm, sesOf t k = { sesOf s k with queue := (sesOf s k).queue ++ xs, cmds := cm } ∧ ((sesOf s k).closed = true → xs = [])

theorem msgsJoin.refl (s : State) : msgsJoin s s := ⟨fun k => ⟨[], (sesOf s k).cmds, by rw [List.append_nil], fun _ => rfl⟩⟩

theorem msgsJoin.of_net {s t : State} (h : t.net.sess = s.net.sess) : msgsJoin s t :=
  ⟨fun k => ⟨[], (sesOf s k).cmds, by rw [sesOf, h, List.append_nil]; rfl, fun _ => rfl⟩⟩

theorem net_of_changesOnly {L : List Part} {s t : State} (h : changesOnly L s t) (hp : Part.net ∉ L) : t.net = s.net := h.2 .net hp

theorem msgsJoin.of_changesOnly {L : List Part} {s t : State} (h : changesOnly L s t) (hp : Part.net ∉ L) : msgsJoin s t :=
  msgsJoin.of_net (by rw [net_of_changesOnly h hp])

theorem msgsJoin.trans {s t u : State} (h : msgsJoin s t) (g : msgsJoin t u) : msgsJoin s u := ⟨fun k => by
  obtain ⟨xs, cm, h1, h2⟩ := h.each k
  obtain ⟨ys, dm, g1, g2⟩ := g.each k
  refine ⟨xs ++ ys, dm, ?_, fun hc => ?_⟩
  · rw [g1, h1, ← List.append_assoc]
  · rw [h2 hc, g2 (by rw [h1]; exact hc)]; rfl⟩

theorem msgsJoin.foldl {β : Type} {f : State → β → State} (h : ∀ t x, msgsJoin t (f t x)) (l : List β) (s : State) : msgsJoin s (l.foldl f s) := by
  induction l generalizing s with
  | nil => exact msgsJoin.refl s
  | cons x l ih => exact (h s x).trans (ih _)

/-- A step before which the sessions are as they were. -/
theorem msgsJoin.after {s u t : State} (h : msgsJoin u t) (hn : u.net.sess = s.net.sess) : msgsJoin s t := (msgsJoin.of_net hn).trans h

theorem msgsJoin.modEntry (ix : Nat) (f : Entry → Entry) (s : State) : msgsJoin s (modEntry ix f s) := msgsJoin.of_net rfl

theorem msgsJoin.modPtn (n : Nat) (f : Ptn → Ptn) (s : State) : msgsJoin s (modPtn n f s) := msgsJoin.of_net rfl

/-- What a step by `msgsJoin` leaves of each session. -/
theorem msgsJoin.queue {s t : State} (h : msgsJoin s t) (k : Nat) : ∃ xs, (sesOf t k).queue = (sesOf s k).queue ++ xs := by
  obtain ⟨xs, cm, h1, -⟩ := h.each k
  exact ⟨xs, by rw [h1]⟩

theorem msgsJoin.live {s t : State} (h : msgsJoin s t) (k : Nat) : (sesOf t k).live = (sesOf s k).live := by
  obtain ⟨xs, cm, h1, -⟩ := h.each k
  rw [h1]

theorem msgsJoin.closed {s t : State} (h : msgsJoin s t) (k : Nat) : (sesOf t k).closed = (sesOf s k).closed := by
  obtain ⟨xs, cm, h1, -⟩ := h.each k
  rw [h1]

theorem msgsJoin.sid {s t : State} (h : msgsJoin s t) (k : Nat) : (sesOf t k).sid = (sesOf s k).sid := by
  obtain ⟨xs, cm, h1, -⟩ := h.each k
  rw [h1]

theorem msgsJoin.paths {s t : State} (h : msgsJoin s t) (k net : Nat) : pathOf (sesOf t k) net = pathOf (sesOf s k) net := by
  obtain ⟨xs, cm, h1, -⟩ := h.each k
  rw [h1]; rfl

/-- A closed session's queue is as it was. -/
theorem msgsJoin.queue_of_closed {s t : State} (h : msgsJoin s t) {k : Nat} (hc : (sesOf s k).closed = true) : (sesOf t k).queue = (sesOf s k).queue := by
  obtain ⟨xs, cm, h1, h2⟩ := h.each k
  rw [h1, h2 hc]
  exact List.append_nil _

/-! ## The functions by which messages join -/

theorem post_of_open {k : Nat} {m : Msg} {s : State} (hc : (sesOf s k).closed = false) (hs : (sesOf s k).sid = k) :
    post k m s = modSes k (fun e => { e with queue := e.queue ++ [m] }) s := by
  rw [post, if_neg (by simp [hc, hs])]

theorem msgsJoin.post (k : Nat) (m : Msg) (s : State) : msgsJoin s (post k m s) := by
  by_cases hc : (sesOf s k).closed = false ∧ (sesOf s k).sid = k
  · rw [post_of_open hc.1 hc.2]
    refine ⟨fun j => ?_⟩
    by_cases hj : j = k
    · subst hj
      exact ⟨[m], (sesOf s j).cmds, by rw [sesOf_modSes_same], fun h => absurd h (by simp [hc.1])⟩
    · exact ⟨[], (sesOf s j).cmds, by rw [sesOf_modSes_ne _ _ _ _ hj, List.append_nil], fun _ => rfl⟩
  · have hid : Machine.post k m s = s := by
      rw [Machine.post, if_pos]
      by_cases h1 : (sesOf s k).closed = true
      · simp [h1]
      · have h2 : (sesOf s k).sid ≠ k := fun h => hc ⟨by simpa using h1, h⟩
        simp [h2]
    rw [hid]
    exact msgsJoin.refl s

theorem msgsJoin.replyFull (h : Hdr) (status arg handle : Nat) (body : List Byte) (s : State) : msgsJoin s (replyFull h status arg handle body s) :=
  msgsJoin.post ..

theorem msgsJoin.reply (h : Hdr) (status : Nat) (s : State) : msgsJoin s (reply h status s) := msgsJoin.replyFull ..

/-- A count of outstanding commands. -/
theorem msgsJoin.cmds (k : Nat) (f : Tab Nat → Tab Nat) (s : State) : msgsJoin s (modSes k (fun e => { e with cmds := f e.cmds }) s) := ⟨fun j => by
  by_cases hj : j = k
  · subst hj
    exact ⟨[], f (sesOf s j).cmds, by rw [sesOf_modSes_same, List.append_nil], fun _ => rfl⟩
  · exact ⟨[], (sesOf s j).cmds, by rw [sesOf_modSes_ne _ _ _ _ hj, List.append_nil], fun _ => rfl⟩⟩

theorem msgsJoin.replyLate (h : Hdr) (status arg handle : Nat) (body : List Byte) (s : State) : msgsJoin s (replyLate h status arg handle body s) :=
  (msgsJoin.cmds h.ses (fun c => tmod 0 c h.queue (· - 1)) s).trans (msgsJoin.replyFull ..)

theorem msgsJoin.leaveOut (h : Hdr) (s : State) : msgsJoin s (leaveOut h s) := msgsJoin.cmds h.ses (fun c => tmod 0 c h.queue (· + 1)) s

/-- The events that a partition has pending, as one message carries them. -/
def eventsOf (p : Ptn) : List Event :=
  p.events.take 256 ++ (if p.lost = 0 then [] else [{ ty := 15, flags := 0, unit := 0, level := 0, args := [p.lost] }])

def eventMsg (evs : List Event) (c : Nat) : Msg :=
  { ty := 0x83, queue := 0, tag := 0, handle := 0, status := 0, arg := 0,
    body := padTo 16 (leBytes evs.length 2) ++ evs.flatMap eventBytes, evN := c, cqe := none }

theorem flushEvents_of_none {n : Nat} {s : State} (h : liveSes s n = []) : flushEvents n s = s := by
  unfold flushEvents
  rw [h]

theorem flushEvents_of_live {n k : Nat} {ks : List Nat} {s : State} (h : liveSes s n = k :: ks) : flushEvents n s =
    if (eventsOf (ptnOf s n)).isEmpty then modPtn n (fun q => { q with coalUs := none }) s
    else modPtn n (fun q => { q with events := [], lost := 0, unacked := q.unacked + (eventsOf (ptnOf s n)).length, coalUs := none })
      (ks.foldl (fun t j => post j (eventMsg (eventsOf (ptnOf s n)) 0) t) (post k (eventMsg (eventsOf (ptnOf s n)) (eventsOf (ptnOf s n)).length) s)) := by
  unfold flushEvents
  rw [h]
  rfl

theorem msgsJoin.flushEvents (n : Nat) (s : State) : msgsJoin s (flushEvents n s) := by
  cases h : liveSes s n with
  | nil => rw [flushEvents_of_none h]; exact msgsJoin.refl s
  | cons k ks =>
    rw [flushEvents_of_live h]
    split
    · exact msgsJoin.of_net rfl
    · exact ((msgsJoin.post k _ s).trans (msgsJoin.foldl (fun t j => msgsJoin.post j _ t) ks _)).trans (msgsJoin.of_net rfl)

theorem msgsJoin.raise (n : Nat) (e : Event) (s : State) : msgsJoin s (raise n e s) := by
  unfold Machine.raise
  dsimp only
  split
  · exact msgsJoin.of_net rfl
  · split
    · exact (msgsJoin.flushEvents n _).after rfl
    · exact msgsJoin.of_net rfl

theorem msgsJoin.raiseAll (ns : List Nat) (e : Event) (s : State) : msgsJoin s (raiseAll ns e s) := msgsJoin.foldl (fun t n => msgsJoin.raise n e t) ns s

theorem msgsJoin.leaseEvent (role what ses : Nat) (s : State) : msgsJoin s (leaseEvent role what ses s) := by
  have hfire : msgsJoin s (fireArg 30 0 0 what (role % 65536) 0 s) :=
    msgsJoin.of_changesOnly (L := [.evr]) (co_fireArg _ _ _ _ _ _ s (by decide) (co_refl _ s)) (by decide)
  unfold Machine.leaseEvent
  dsimp only
  split
  · exact hfire.trans (msgsJoin.raise ..)
  · exact hfire

theorem msgsJoin.sendCompletion (ix : Nat) (s : State) : msgsJoin s (sendCompletion ix s) := (msgsJoin.post ..).after (s := s) rfl

theorem msgsJoin.answerWaiting (ix status after : Nat) (s : State) : msgsJoin s (answerWaiting ix status after s) := by
  unfold Machine.answerWaiting
  dsimp only
  split
  · exact msgsJoin.refl s
  · have hwait : ∀ t, msgsJoin t ((entryOf s ix).exWait.foldl (fun t w => Machine.replyLate w.1 after 0 w.1.handle [] t) t) := fun t =>
      msgsJoin.foldl (fun t (w : Hdr × Option SubmitBody) => msgsJoin.replyLate w.1 after 0 w.1.handle [] t) _ t
    have hclear := msgsJoin.modEntry ix (fun x => { x with waitHdr := none, saved := none, exWait := [] }) s
    split
    · exact (hclear.trans (msgsJoin.replyLate ..)).trans (hwait _)
    · exact hclear.trans (hwait _)

theorem msgsJoin.complete (ix status : Nat) (s : State) : msgsJoin s (complete ix status s) := by
  unfold Machine.complete
  dsimp only
  split
  · exact msgsJoin.refl s
  · split
    · exact ((msgsJoin.answerWaiting ix 0 8 s).trans (msgsJoin.modEntry ..)).trans (msgsJoin.sendCompletion ix _)
    · exact (msgsJoin.answerWaiting ix 0 8 s).trans (msgsJoin.modEntry ..)

/-- A freed entry's pages and frames leave the sessions alone. -/
theorem msgsJoin.retire (ix : Nat) (s : State) : msgsJoin s (retire ix s) := by
  have hfree : ∀ a t, msgsJoin t (freePages ix a (freeFar ix a t)) := fun a t =>
    msgsJoin.of_changesOnly (L := [.kv, .req]) (co_freePages _ _ _ (by decide) (co_freeFar _ _ t (by decide) (co_refl _ t))) (by decide)
  unfold Machine.retire
  dsimp only
  split
  · exact msgsJoin.refl s
  · split
    · exact ((msgsJoin.answerWaiting ix 8 8 s).trans (hfree _ _)).trans (msgsJoin.modEntry ..)
    · exact ((msgsJoin.answerWaiting ix 8 8 s).trans (hfree _ _)).trans
        (msgsJoin.of_changesOnly (L := [.head, .req]) (co_freeEntry ix _ (by decide) (co_refl _ _)) (by decide))

theorem msgsJoin.retireWith (ix status : Nat) (s : State) : msgsJoin s (retireWith ix status s) :=
  (msgsJoin.complete ix status s).trans (msgsJoin.retire ix _)

theorem msgsJoin.killNow (ix status : Nat) (s : State) : msgsJoin s (killNow ix status s) := by
  unfold Machine.killNow
  split
  · next l _ =>
    have hkill : msgsJoin s (killLane l s) := msgsJoin.of_changesOnly (L := [.seq, .sch]) (co_killLane l s (by decide) (co_refl _ s)) (by decide)
    exact (hkill.trans (msgsJoin.complete ix status _)).trans (msgsJoin.modEntry ..)
  · exact msgsJoin.retireWith ix status s

theorem msgsJoin.endRequest (ix status : Nat) (s : State) : msgsJoin s (endRequest ix status s) := by
  unfold Machine.endRequest
  dsimp only
  split
  · exact msgsJoin.refl s
  · split
    · exact msgsJoin.killNow ix status s
    · exact msgsJoin.modEntry ..

theorem msgsJoin.cancelEntry (ix : Nat) (s : State) : msgsJoin s (cancelEntry ix s) := by
  unfold Machine.cancelEntry
  dsimp only
  split
  · exact msgsJoin.refl s
  · split
    · split
      · exact msgsJoin.retireWith ix 1 s
      · exact msgsJoin.modEntry ..
    · exact msgsJoin.endRequest ix 1 s

theorem msgsJoin.raiseExpired (ix : Nat) (s : State) : msgsJoin s (raiseExpired ix s) := msgsJoin.raise ..

theorem msgsJoin.expire (ix : Nat) (s : State) : msgsJoin s (expire ix s) := by
  unfold Machine.expire
  dsimp only
  split
  · exact ((msgsJoin.answerWaiting ix 11 11 s).trans (msgsJoin.raiseExpired ix _)).trans (msgsJoin.retireWith ix 11 _)
  · exact ((msgsJoin.answerWaiting ix 11 11 s).trans (msgsJoin.raiseExpired ix _)).trans (msgsJoin.retire ix _)

end Sys2Proof.Machine
end

section
/-! Leases, grace, token messages and pending events (R349, R370, R372, R389, R390). -/

namespace Sys2Proof.Machine

/-- What a field of a session is when only its queue and its count of commands change. -/
theorem msgsJoin.keeps {α : Type} {s t : State} (h : msgsJoin s t) (p : Ses → α) (hp : ∀ e q c, p { e with queue := q, cmds := c } = p e) (k : Nat) :
    p (sesOf t k) = p (sesOf s k) := by
  obtain ⟨xs, cm, h1, -⟩ := h.each k
  rw [h1, hp]

/-! ## LEASE_TEST -/

/-- One session's lease has run out. -/
def lapseOne (s t : State) (k : Nat) : State :=
  leaseEvent (sesOf s k).role 0 k (modSes k (fun x => { x with lapsed := true, graceEnd := afterSec s (graceOf s (sesOf s k).role) }) t)

/-- The sessions whose lease has run out. -/
def leasesOut (s : State) : List Nat :=
  (s.net.sess.map (·.1)).dedup.filter fun k => (sesOf s k).live && !(sesOf s k).lapsed && decide ((sesOf s k).leaseEnd ≤ s.clk.hours)

theorem leaseTest_eq (s : State) : leaseTest s = (leasesOut s).foldl (lapseOne s) s := rfl

/-- A live session stands in the table. -/
theorem mem_sess_of_live {s : State} {k : Nat} (h : (sesOf s k).live = true) : k ∈ s.net.sess.map (·.1) := by
  by_contra hk
  rw [sesOf, tget_of_not_mem _ _ _ hk] at h
  cases h

theorem mem_leasesOut {s : State} {k : Nat} : k ∈ leasesOut s ↔
    (sesOf s k).live = true ∧ (sesOf s k).lapsed = false ∧ (sesOf s k).leaseEnd ≤ s.clk.hours := by
  simp only [leasesOut, List.mem_filter, List.mem_dedup, Bool.and_eq_true, Bool.not_eq_true', decide_eq_true_eq, and_assoc]
  exact ⟨fun h => h.2, fun h => ⟨mem_sess_of_live h.1, h⟩⟩

theorem lapseOne_same (s t : State) (k : Nat) :
    (sesOf (lapseOne s t k) k).lapsed = true ∧ (sesOf (lapseOne s t k) k).graceEnd = afterSec s (graceOf s (sesOf s k).role) := by
  have hj := msgsJoin.leaseEvent (sesOf s k).role 0 k
    (modSes k (fun x => { x with lapsed := true, graceEnd := afterSec s (graceOf s (sesOf s k).role) }) t)
  rw [lapseOne, hj.keeps Ses.lapsed (fun _ _ _ => rfl), hj.keeps Ses.graceEnd (fun _ _ _ => rfl), sesOf_modSes_same]
  exact ⟨rfl, rfl⟩

theorem lapseOne_ne (s t : State) {k j : Nat} (h : j ≠ k) :
    (sesOf (lapseOne s t k) j).lapsed = (sesOf t j).lapsed ∧ (sesOf (lapseOne s t k) j).graceEnd = (sesOf t j).graceEnd := by
  have hj := msgsJoin.leaseEvent (sesOf s k).role 0 k
    (modSes k (fun x => { x with lapsed := true, graceEnd := afterSec s (graceOf s (sesOf s k).role) }) t)
  rw [lapseOne, hj.keeps Ses.lapsed (fun _ _ _ => rfl), hj.keeps Ses.graceEnd (fun _ _ _ => rfl), sesOf_modSes_ne _ _ _ _ h]
  exact ⟨rfl, rfl⟩

theorem lapses_of_not_mem (s : State) {ks : List Nat} {j : Nat} (h : j ∉ ks) (t : State) :
    (sesOf (ks.foldl (lapseOne s) t) j).lapsed = (sesOf t j).lapsed ∧ (sesOf (ks.foldl (lapseOne s) t) j).graceEnd = (sesOf t j).graceEnd := by
  induction ks generalizing t with
  | nil => exact ⟨rfl, rfl⟩
  | cons k ks ih =>
    obtain ⟨h1, h2⟩ := ih (fun hm => h (List.mem_cons_of_mem _ hm)) (lapseOne s t k)
    obtain ⟨g1, g2⟩ := lapseOne_ne s t (List.ne_of_not_mem_cons h)
    exact ⟨h1.trans g1, h2.trans g2⟩

theorem lapses_of_mem (s : State) {ks : List Nat} (hnd : ks.Nodup) {j : Nat} (h : j ∈ ks) (t : State) :
    (sesOf (ks.foldl (lapseOne s) t) j).lapsed = true ∧ (sesOf (ks.foldl (lapseOne s) t) j).graceEnd = afterSec s (graceOf s (sesOf s j).role) := by
  induction ks generalizing t with
  | nil => cases h
  | cons k ks ih =>
    obtain ⟨hk, hnd⟩ := List.nodup_cons.1 hnd
    rcases List.mem_cons.1 h with rfl | hm
    · obtain ⟨h1, h2⟩ := lapses_of_not_mem s hk (lapseOne s t j)
      obtain ⟨g1, g2⟩ := lapseOne_same s t j
      exact ⟨h1.trans g1, h2.trans g2⟩
    · exact ih hnd hm _

/-! ## GRACE_EXPIRY -/

theorem endSession_spec (k : Nat) (s : State) : (sesOf (endSession k s) k).live = false ∧ (sesOf (endSession k s) k).closed = true ∧
    (sesOf (endSession k s) k).queue = [] ∧ (sesOf (endSession k s) k).sent = [] ∧ (sesOf (endSession k s) k).flight = [] := by
  unfold endSession
  dsimp only
  rw [sesOf_modSes_same]
  exact ⟨rfl, rfl, rfl, rfl, rfl⟩

/-- A session's requests end with SESSION_LOST, and their released tokens are dropped. -/
def sessionLost (k : Nat) (s : State) : State :=
  let s1 := (entriesWhere s fun x => x.ses == k).foldl (fun t ix => modEntry ix (fun x => { x with out := [] }) t) s
  (entriesWhere s1 fun x => x.ses == k && running x).foldl (fun t ix => endRequest ix 13 t) s1

theorem graceOver_eq {s : State} {k : Nat} (hl : (sesOf s k).live = true) (hp : (sesOf s k).lapsed = true) (hg : (sesOf s k).graceEnd ≤ s.clk.hours) :
    graceOver k s = leaseEvent (sesOf s k).role 2 k (endSession k (sessionLost k s)) := by
  rw [graceOver, if_pos (by simp [hl, hp, hg])]
  rfl

theorem graceOver_of_waiting {s : State} {k : Nat} (h : (sesOf s k).live = false ∨ (sesOf s k).lapsed = false ∨ s.clk.hours < (sesOf s k).graceEnd) :
    graceOver k s = s := by
  rw [graceOver, if_neg]
  rcases h with h | h | h
  · simp [h]
  · simp [h]
  · simp [Nat.not_le.2 h]

theorem graceOver_spec {s : State} {k : Nat} (hl : (sesOf s k).live = true) (hp : (sesOf s k).lapsed = true) (hg : (sesOf s k).graceEnd ≤ s.clk.hours) :
    (sesOf (graceOver k s) k).live = false ∧ (sesOf (graceOver k s) k).closed = true ∧ (sesOf (graceOver k s) k).queue = [] ∧
    (sesOf (graceOver k s) k).sent = [] := by
  obtain ⟨hlive, hclosed, hqueue, hsent, -⟩ := endSession_spec k (sessionLost k s)
  have hj := msgsJoin.leaseEvent (sesOf s k).role 2 k (endSession k (sessionLost k s))
  rw [graceOver_eq hl hp hg, hj.live, hj.closed, hj.queue_of_closed hclosed, hj.keeps Ses.sent fun _ _ _ => rfl]
  exact ⟨hlive, hclosed, hqueue, hsent⟩

theorem exec_graceExpiry {k : Nat} (hk : k < 2 ^ 32) (s : State) : exec (.graceExpiry k) s = .next (graceOver k s) := by
  change execGraceExpiry k s = _
  rw [execGraceExpiry, decide_eq_true hk]; rfl

/-! ## TOKENS_SEND -/

theorem entryOf_post (k : Nat) (m : Msg) (s : State) (ix : Nat) : entryOf (post k m s) ix = entryOf s ix :=
  congrArg (fun r : ReqSt => tget Entry.init r.entries ix)
    ((co_post (L := [.net]) k m s (by decide) (co_refl _ s)).2 .req (by decide))

theorem entryOf_sendCompletion (ix : Nat) (s : State) : entryOf (sendCompletion ix s) ix = { entryOf s ix with finPend := false } := by
  unfold sendCompletion
  dsimp only
  rw [entryOf_post, entryOf_modEntry_same, entryOf_modPtn]

/-- The TOKENS message of an entry. -/
def tokensMsg (ix : Nat) (e : Entry) : Msg :=
  { ty := 0x82, queue := e.cq, tag := 0, handle := entryHandle ix e, status := 0, arg := 0, body := tokensBody e, evN := 0, cqe := none }

/-- An entry's released tokens have gone out. -/
def tokensGone (ix : Nat) (s : State) : State :=
  modEntry ix (fun x => { x with out := [], sentUs := s.clk.us, sentAny := true }) (post (entryOf s ix).ses (tokensMsg ix (entryOf s ix)) s)

theorem sendTokens_eq {s : State} {ix : Nat} (h : (entryOf s ix).out ≠ []) :
    sendTokens ix s = if (entryOf s ix).finPend then sendCompletion ix (tokensGone ix s) else tokensGone ix s := by
  rw [sendTokens, if_neg (by simpa using h)]
  rfl

theorem entryOf_tokensGone (ix : Nat) (s : State) :
    entryOf (tokensGone ix s) ix = { entryOf s ix with out := [], sentUs := s.clk.us, sentAny := true } := by
  rw [tokensGone, entryOf_modEntry_same, entryOf_post]

theorem sendTokens_entry {s : State} {ix : Nat} (h : (entryOf s ix).out ≠ []) :
    (entryOf (sendTokens ix s) ix).out = [] ∧ (entryOf (sendTokens ix s) ix).sentUs = s.clk.us ∧ (entryOf (sendTokens ix s) ix).sentAny = true := by
  rw [sendTokens_eq h]
  split
  · rw [entryOf_sendCompletion, entryOf_tokensGone]
    exact ⟨rfl, rfl, rfl⟩
  · rw [entryOf_tokensGone]
    exact ⟨rfl, rfl, rfl⟩

theorem sendTokens_msg {s : State} {ix : Nat} (h : (entryOf s ix).out ≠ []) (hsid : (sesOf s (entryOf s ix).ses).sid = (entryOf s ix).ses)
    (hopen : (sesOf s (entryOf s ix).ses).closed = false) :
    ∃ xs m, (sesOf (sendTokens ix s) (entryOf s ix).ses).queue = (sesOf s (entryOf s ix).ses).queue ++ xs ∧ m ∈ xs ∧ m.ty = 0x82 ∧
      m.body = tokensBody (entryOf s ix) := by
  have hgone : (sesOf (tokensGone ix s) (entryOf s ix).ses).queue = (sesOf s (entryOf s ix).ses).queue ++ [tokensMsg ix (entryOf s ix)] := by
    rw [tokensGone, sesOf_modEntry, post_of_open hopen hsid, sesOf_modSes_same]
  have hrest : msgsJoin (tokensGone ix s) (sendTokens ix s) := by
    rw [sendTokens_eq h]
    split
    · exact msgsJoin.sendCompletion ix _
    · exact msgsJoin.refl _
  obtain ⟨ys, hys⟩ := hrest.queue (entryOf s ix).ses
  exact ⟨tokensMsg ix (entryOf s ix) :: ys, _, by rw [hys, hgone, List.append_assoc]; rfl, List.mem_cons_self .., rfl, rfl⟩

theorem exec_tokensSend {ix : Nat} (h : ix < 16384) (s : State) : exec (.tokensSend ix) s =
    .next (if !(entryOf s ix).sentAny || decide ((entryOf s ix).sentUs + 50 ≤ s.clk.us) then sendTokens ix s else s) := by
  change execTokensSend ix s = _
  rw [execTokensSend, decide_eq_true h]; rfl

/-! ## EVENT_COALESCE_EXPIRY -/

theorem ptnOf_post (k : Nat) (m : Msg) (s : State) (n : Nat) : ptnOf (post k m s) n = ptnOf s n := by
  rw [ptnOf, show (post k m s).ptn = s.ptn from (co_post (L := [.net]) k m s (by decide) (co_refl _ s)).2 .ptn (by decide), ptnOf]

theorem flushEvents_spec {n : Nat} {s : State} (h : liveSes s n ≠ []) : (ptnOf (flushEvents n s) n).coalUs = none ∧
    ((ptnOf s n).events ≠ [] → (ptnOf (flushEvents n s) n).events = [] ∧ (ptnOf (flushEvents n s) n).lost = 0) := by
  obtain ⟨k, ks, hks⟩ := List.exists_cons_of_ne_nil h
  rw [flushEvents_of_live hks]
  by_cases he : (eventsOf (ptnOf s n)).isEmpty = true
  · rw [if_pos he, ptnOf_modPtn_same]
    refine ⟨rfl, fun hev => absurd he ?_⟩
    obtain ⟨e, es, hes⟩ := List.exists_cons_of_ne_nil hev
    simp [eventsOf, hes]
  · rw [if_neg he, ptnOf_modPtn_same]
    exact ⟨rfl, fun _ => ⟨rfl, rfl⟩⟩

theorem exec_eventCoalesceExpiry {n us : Nat} (hn : n < 12) {s : State} (hus : (ptnOf s n).coalUs = some us) :
    exec (.eventCoalesceExpiry n) s = .next (if us + (ptnOf s n).coal ≤ s.clk.us then flushEvents n s else s) := by
  change execEventCoalesceExpiry n s = _
  rw [execEventCoalesceExpiry, decide_eq_true hn, hus]; rfl

/-- Settles O45: what lapses, what a session's end drops, and when messages go out. -/
theorem leasesAndMessages : Obligations.LeasesAndMessages := by
  refine fun s => ⟨⟨leaseTest s, rfl, fun k h1 h2 h3 => ?_, fun k h1 h2 => ?_⟩, fun k hk => ⟨fun h => ?_, fun h1 h2 h3 => ?_⟩,
    fun ix hix => ⟨fun h => ?_, fun h1 h2 => ?_⟩, fun n us hn hus => ⟨fun h => ?_, fun h1 h2 => ?_⟩⟩
  · rw [leaseTest_eq]
    exact lapses_of_mem s ((List.nodup_dedup _).filter _) (mem_leasesOut.2 ⟨h1, h2, h3⟩) s
  · rw [leaseTest_eq]
    exact (lapses_of_not_mem s (fun hm => absurd (mem_leasesOut.1 hm).2.2 (Nat.not_le.2 h2)) s).1
  · rw [exec_graceExpiry hk, graceOver_of_waiting h]
  · exact ⟨_, exec_graceExpiry hk s, graceOver_spec h1 h2 h3⟩
  · rw [exec_tokensSend hix]
    rcases h with h | ⟨h1, h2⟩
    · have hnone : sendTokens ix s = s := by rw [sendTokens, if_pos (by simp [h])]
      rw [hnone, ite_self]
    · rw [if_neg (by simp [h1, Nat.not_le.2 h2])]
  · refine ⟨sendTokens ix s, ?_, ?_⟩
    · rw [exec_tokensSend hix, if_pos (by rcases h2 with h | h <;> simp [h])]
    · obtain ⟨g1, g2, g3⟩ := sendTokens_entry h1
      exact ⟨g1, g2, g3, fun hsid hopen => sendTokens_msg h1 hsid hopen⟩
  · rw [exec_eventCoalesceExpiry hn hus, if_neg (Nat.not_le.2 h)]
  · refine ⟨flushEvents n s, ?_, co_flushEvents n s (by decide) (co_refl _ s), flushEvents_spec h2⟩
    rw [exec_eventCoalesceExpiry hn hus, if_pos h1]

end Sys2Proof.Machine
end

section
/-! Sessions' paths: authenticated segments, probes and their answers, CLOSE, and links lost and found (R357, R370, R372, R373, R378, R379). -/

namespace Sys2Proof.Machine

/-! ## Paths of a session -/

@[simp] theorem pathOf_setPath (net : Nat) (p : PathRec) (e : Ses) : pathOf (setPath net p e) net = p := by
  unfold pathOf setPath
  split <;> rfl

/-- What a field of a session other than its paths is after a path is set. -/
theorem setPath_keeps {α : Type} (p : Ses → α) (hp : ∀ e a b, p { e with pathA := a, pathB := b } = p e) (net : Nat) (q : PathRec) (e : Ses) :
    p (setPath net q e) = p e := by
  unfold setPath
  split
  · exact hp e q e.pathB
  · exact hp e e.pathA q

theorem sesOf_modPath_same (k net : Nat) (f : PathRec → PathRec) (s : State) :
    sesOf (modPath k net f s) k = setPath net (f (pathOf (sesOf s k) net)) (sesOf s k) := sesOf_modSes_same ..

theorem sesOf_modPath_ne (k net : Nat) (f : PathRec → PathRec) (s : State) {j : Nat} (h : j ≠ k) : sesOf (modPath k net f s) j = sesOf s j :=
  sesOf_modSes_ne _ _ _ _ h

theorem pathOf_modPath (k net : Nat) (f : PathRec → PathRec) (s : State) :
    pathOf (sesOf (modPath k net f s) k) net = f (pathOf (sesOf s k) net) := by
  rw [sesOf_modPath_same, pathOf_setPath]

theorem msgsJoin.pathEvent (k what port : Nat) (s : State) : msgsJoin s (pathEvent k what port s) := by
  unfold Machine.pathEvent
  dsimp only
  split
  · exact msgsJoin.raise ..
  · exact msgsJoin.post ..

/-! ## Segments sent again -/

/-- From `s` to `t` only segments in flight change. -/
structure flightOnly (s t : State) : Prop where
  each : ∀ k, ∃ fl, sesOf t k = { sesOf s k with flight := fl }

theorem flightOnly.resendAll (k : Nat) (s : State) : flightOnly s (resendAll k s) := ⟨fun j => by
  by_cases hj : j = k
  · subst hj
    rw [Machine.resendAll, sesOf_modSes_same]
    split
    · exact ⟨_, rfl⟩
    · exact ⟨(sesOf s j).flight, rfl⟩
  · exact ⟨(sesOf s j).flight, sesOf_modSes_ne _ _ _ _ hj⟩⟩

theorem flightOnly.keeps {α : Type} {s t : State} (h : flightOnly s t) (p : Ses → α) (hp : ∀ e fl, p { e with flight := fl } = p e) (k : Nat) :
    p (sesOf t k) = p (sesOf s k) := by
  obtain ⟨fl, h1⟩ := h.each k
  rw [h1, hp]

theorem flightOnly.refl (s : State) : flightOnly s s := ⟨fun k => ⟨(sesOf s k).flight, rfl⟩⟩

/-- Segments sent again, unless they were not waiting. -/
theorem flightOnly.ite {c : Bool} (k : Nat) (s : State) : flightOnly s (if c then Machine.resendAll k s else s) := by
  cases c
  · exact flightOnly.refl s
  · exact flightOnly.resendAll k s

/-! ## An authenticated segment -/

/-- What an authenticated segment renews of its session. -/
theorem sesOf_renew (k net tsval : Nat) (s : State) : sesOf (renew k net tsval s) k =
    setPath net { pathOf (sesOf s k) net with tsecr := tsval }
      { sesOf s k with leaseEnd := if (sesOf s k).lapsed then (sesOf s k).leaseEnd else afterSec s (leaseOf s (sesOf s k).role) } := by
  have hpath : ∀ (e : Ses) (l : Nat), pathOf { e with leaseEnd := l } net = pathOf e net := fun e l => rfl
  rw [renew, sesOf_modPath_same, sesOf_modSes_same, hpath]

theorem sesOf_renew_ne (k net tsval : Nat) (s : State) {j : Nat} (h : j ≠ k) : sesOf (renew k net tsval s) j = sesOf s j := by
  rw [renew, sesOf_modPath_ne _ _ _ _ h, sesOf_modSes_ne _ _ _ _ h]

theorem co_renew' (k net tsval : Nat) (s : State) : changesOnly [.net] s (renew k net tsval s) := co_renew k net tsval s (by decide) (co_refl _ s)

theorem pathOf_renew (k net tsval : Nat) (s : State) : pathOf (sesOf (renew k net tsval s) k) net = { pathOf (sesOf s k) net with tsecr := tsval } := by
  rw [sesOf_renew, pathOf_setPath]

/-- What a field of a session other than its paths and its lease is after a renewal. -/
theorem renew_keeps {α : Type} (p : Ses → α) (hp : ∀ e a b l, p { e with pathA := a, pathB := b, leaseEnd := l } = p e) (k net tsval : Nat) (s : State) :
    p (sesOf (renew k net tsval s) k) = p (sesOf s k) := by
  rw [sesOf_renew]
  unfold setPath
  split
  · exact hp (sesOf s k) _ (sesOf s k).pathB _
  · exact hp (sesOf s k) (sesOf s k).pathA _ _

/-- A segment that its session takes acts on the renewed session. -/
theorem segIn_acts {port vid sid seq tsval : Nat} {s : State} (hs : sesTakes s sid = true) (hv : vlanOk s port (sesOf s sid).role vid = true)
    (act : State → State) : segIn port vid sid seq tsval true true act s = act (renew sid (netOf port) tsval s) := by
  rw [segIn, if_neg (by simp [hv]), if_neg (by simp [hs]), if_neg (by simp [hs])]

/-! ## Probes -/

/-- A path opened or moved by a probe. -/
def pathOpened (port k : Nat) (s : State) : State :=
  modSes k (fun q => setPath (netOf port) { PathRec.init with open_ := true, up := true, port := port, tsecr := (pathOf (sesOf s k) (netOf port)).tsecr }
    { q with offer := q.offer.filter (· != port) }) s

/-- Waiting segments are sent again on an opened path. -/
def pathServed (port k : Nat) (s : State) : State := if (sendNet (sesOf s k)).isNone then resendAll k (pathOpened port k s) else pathOpened port k s

/-- What a probe does before its answer. -/
def probeMoves (port k : Nat) (s : State) : State :=
  if !(pathOf (sesOf s k) (netOf port)).open_ || (sesOf s k).offer.contains port then
    (if (pathOf (sesOf s k) (netOf port)).open_ && !(pathOf (sesOf s k) (netOf port)).up then pathEvent k 1 port (pathServed port k s) else pathServed port k s)
  else s

theorem takeProbe_eq (port pnum k : Nat) (s : State) : takeProbe port pnum k s = modSes k (sendProbe 6 (netOf port) pnum) (probeMoves port k s) := rfl

theorem pathServed_spec (port k : Nat) (s : State) :
    pathOf (sesOf (pathServed port k s) k) (netOf port) =
      { PathRec.init with open_ := true, up := true, port := port, tsecr := (pathOf (sesOf s k) (netOf port)).tsecr } ∧
    (sesOf (pathServed port k s) k).closing = (sesOf s k).closing := by
  have hfl : flightOnly (pathOpened port k s) (pathServed port k s) := flightOnly.ite k _
  rw [hfl.keeps (fun e => pathOf e (netOf port)) (fun _ _ => rfl), hfl.keeps Ses.closing (fun _ _ => rfl), pathOpened, sesOf_modSes_same]
  exact ⟨pathOf_setPath .., setPath_keeps Ses.closing (fun _ _ _ => rfl) _ _ _⟩

theorem probeMoves_of_opens {port k : Nat} {s : State}
    (h : (pathOf (sesOf s k) (netOf port)).open_ = false ∨ port ∈ (sesOf s k).offer) :
    pathOf (sesOf (probeMoves port k s) k) (netOf port) =
      { PathRec.init with open_ := true, up := true, port := port, tsecr := (pathOf (sesOf s k) (netOf port)).tsecr } ∧
    (sesOf (probeMoves port k s) k).closing = (sesOf s k).closing := by
  rw [probeMoves, if_pos (by rcases h with h | h <;> simp [h])]
  split
  · have hj := msgsJoin.pathEvent k 1 port (pathServed port k s)
    rw [hj.paths, hj.keeps Ses.closing fun _ _ _ => rfl]
    exact pathServed_spec port k s
  · exact pathServed_spec port k s

theorem probeMoves_of_known {port k : Nat} {s : State} (ho : (pathOf (sesOf s k) (netOf port)).open_ = true) (hn : port ∉ (sesOf s k).offer) :
    probeMoves port k s = s := by
  rw [probeMoves, if_neg (by simp [ho, hn])]

theorem closing_probeMoves (port k : Nat) (s : State) : (sesOf (probeMoves port k s) k).closing = (sesOf s k).closing := by
  by_cases h : (pathOf (sesOf s k) (netOf port)).open_ = false ∨ port ∈ (sesOf s k).offer
  · exact (probeMoves_of_opens h).2
  · rw [not_or] at h
    rw [probeMoves_of_known (by simpa using h.1) h.2]

theorem pathOf_sendProbe (kind net pnum : Nat) (e : Ses) (n : Nat) : pathOf (sendProbe kind net pnum e) n = pathOf e n := by
  unfold sendProbe
  split <;> rfl

theorem pathOf_takeProbe (port pnum k : Nat) (s : State) (n : Nat) : pathOf (sesOf (takeProbe port pnum k s) k) n = pathOf (sesOf (probeMoves port k s) k) n := by
  rw [takeProbe_eq, sesOf_modSes_same, pathOf_sendProbe]

theorem probesOut_takeProbe {port pnum k : Nat} {s : State} (h : (sesOf s k).closing = false) :
    (6, netOf port, pnum) ∈ (sesOf (takeProbe port pnum k s) k).probesOut := by
  rw [takeProbe_eq, sesOf_modSes_same, sendProbe, if_neg (by rw [closing_probeMoves]; simp [h])]
  exact List.mem_append_right _ (List.mem_singleton.2 rfl)

theorem probe_spec {g : Segment} {pnum : Nat} {s : State} (hg : segFields g = true) (hp : pnum < 2 ^ 32) (ht : takesSeg s g = true)
    (hs : sesTakes s g.sid = true) (hv : vlanOk s g.port (sesOf s g.sid).role g.vid = true) (htag : g.tagOk = true) :
    ∃ t, exec (.probe g pnum) s = .next t ∧ changesOnly [.ptn, .net] s t ∧
      ((sesOf s g.sid).closing = false → (6, netOf g.port, pnum) ∈ (sesOf t g.sid).probesOut) ∧
      ((pathOf (sesOf s g.sid) (netOf g.port)).open_ = false → (pathOf (sesOf t g.sid) (netOf g.port)).open_ = true ∧
        (pathOf (sesOf t g.sid) (netOf g.port)).up = true ∧ (pathOf (sesOf t g.sid) (netOf g.port)).port = g.port) ∧
      ((pathOf (sesOf s g.sid) (netOf g.port)).open_ = true → g.port ∉ (sesOf s g.sid).offer →
        (pathOf (sesOf t g.sid) (netOf g.port)).port = (pathOf (sesOf s g.sid) (netOf g.port)).port ∧
        (pathOf (sesOf t g.sid) (netOf g.port)).up = (pathOf (sesOf s g.sid) (netOf g.port)).up) := by
  have hren := pathOf_renew g.sid (netOf g.port) g.tsval s
  have hclosing := renew_keeps Ses.closing (fun _ _ _ _ => rfl) g.sid (netOf g.port) g.tsval s
  have hoffer := renew_keeps Ses.offer (fun _ _ _ _ => rfl) g.sid (netOf g.port) g.tsval s
  refine ⟨takeProbe g.port pnum g.sid (renew g.sid (netOf g.port) g.tsval s), ?_,
    co_takeProbe _ _ _ _ (by decide) (co_renew _ _ _ s (by decide) (co_refl _ s)), fun hc => probesOut_takeProbe (hclosing.trans hc), fun ho => ?_, fun ho hn => ?_⟩
  · change execProbe g pnum s = _
    rw [execProbe, hg, decide_eq_true hp, ht, htag, segIn_acts hs hv]; rfl
  · rw [pathOf_takeProbe, (probeMoves_of_opens (.inl (by rw [hren]; exact ho))).1]
    exact ⟨rfl, rfl, rfl⟩
  · rw [pathOf_takeProbe, probeMoves_of_known (by rw [hren]; exact ho) (by rw [hoffer]; exact hn), hren]
    exact ⟨rfl, rfl⟩

/-! ## Answers to probes -/

/-- A path that is up again, before its event. -/
def pathRaised (k net : Nat) (s : State) : State := modPath k net (fun p => { p with up := true, fails := 0, tmo := 1, acks := 0, await := false }) s

theorem pathUp_eq (k net : Nat) (s : State) : pathUp k net s = pathEvent k 1 (pathOf (sesOf s k) net).port
    (if (sendNet (sesOf s k)).isNone then resendAll k (pathRaised k net s) else pathRaised k net s) := rfl

theorem pathOf_pathUp (k net : Nat) (s : State) : pathOf (sesOf (pathUp k net s) k) net =
    { pathOf (sesOf s k) net with up := true, fails := 0, tmo := 1, acks := 0, await := false } := by
  have hfl : flightOnly (pathRaised k net s) (if (sendNet (sesOf s k)).isNone then resendAll k (pathRaised k net s) else pathRaised k net s) :=
    flightOnly.ite k _
  rw [pathUp_eq, (msgsJoin.pathEvent ..).paths, hfl.keeps (fun e => pathOf e net) (fun _ _ => rfl), pathRaised, pathOf_modPath]

theorem takeProbeAck_of_awaited {net pnum k : Nat} {s : State} (ho : (pathOf (sesOf s k) net).open_ = true) (hu : (pathOf (sesOf s k) net).up = false)
    (ha : (pathOf (sesOf s k) net).await = true) (hp : pnum + 1 = (pathOf (sesOf s k) net).pnum) : takeProbeAck net pnum k s =
    if (pathOf (sesOf s k) net).acks + 1 < 3 then modPath k net (fun q => { q with acks := q.acks + 1, await := false }) s else pathUp k net s := by
  rw [takeProbeAck, if_neg (by simp [ho, hu, ha, hp])]

theorem probeAck_spec {g : Segment} {pnum : Nat} {s : State} (hg : segFields g = true) (hp : pnum < 2 ^ 32) (ht : takesSeg s g = true)
    (hs : sesTakes s g.sid = true) (hv : vlanOk s g.port (sesOf s g.sid).role g.vid = true) (htag : g.tagOk = true) :
    let p := pathOf (sesOf s g.sid) (netOf g.port)
    p.open_ = true → p.up = false → p.await = true → pnum + 1 = p.pnum → ∃ t, exec (.probeAck g pnum) s = .next t ∧ changesOnly [.ptn, .net] s t ∧
      (p.acks < 2 → (pathOf (sesOf t g.sid) (netOf g.port)).acks = p.acks + 1 ∧ (pathOf (sesOf t g.sid) (netOf g.port)).up = false) ∧
      (2 ≤ p.acks → (pathOf (sesOf t g.sid) (netOf g.port)).up = true ∧ (pathOf (sesOf t g.sid) (netOf g.port)).tmo = 1) := by
  intro p ho hu ha hpn
  have hren := pathOf_renew g.sid (netOf g.port) g.tsval s
  refine ⟨takeProbeAck (netOf g.port) pnum g.sid (renew g.sid (netOf g.port) g.tsval s), ?_,
    co_takeProbeAck _ _ _ _ (by decide) (co_renew _ _ _ s (by decide) (co_refl _ s)), ?_⟩
  · change execProbeAck g pnum s = _
    rw [execProbeAck, hg, decide_eq_true hp, ht, htag, segIn_acts hs hv]; rfl
  · rw [takeProbeAck_of_awaited (by rw [hren]; exact ho) (by rw [hren]; exact hu) (by rw [hren]; exact ha) (by rw [hren]; exact hpn)]
    refine ⟨fun hlt => ?_, fun hge => ?_⟩
    · rw [if_pos (by rw [hren]; exact Nat.succ_lt_succ hlt), pathOf_modPath, hren]
      exact ⟨rfl, hu⟩
    · rw [if_neg (by rw [hren]; exact Nat.not_lt.2 (Nat.succ_le_succ hge)), pathOf_pathUp, hren]
      exact ⟨rfl, rfl⟩

end Sys2Proof.Machine
end

section
/-! CLOSE, the probes of down paths, and links lost and found (R357, R372, R378, R379). -/

namespace Sys2Proof.Machine

/-! ## CLOSE -/

/-- A session that notes the sequence number of its CLOSE. -/
def closeSeen (seq k : Nat) (s : State) : State := modSes k (fun e => { e with ctlSeen := seq :: e.ctlSeen }) s

/-- A session kept to be attached, with its grace. -/
def sessionKept (k : Nat) (s : State) : State :=
  modSes k (fun x => { x with ended := true, lapsed := true, graceEnd := afterSec s (graceOf s (sesOf s k).role) }) s

theorem takeClose_keep (seq k : Nat) (s : State) : takeClose seq k true s =
    if (sesOf (closeSeen seq k s) k).lapsed then modSes k (fun x => { x with ended := true }) (closeSeen seq k s)
    else leaseEvent (sesOf (closeSeen seq k s) k).role 0 k (sessionKept k (closeSeen seq k s)) := rfl

theorem takeClose_drop (seq k : Nat) (s : State) : takeClose seq k false s =
    endSession k ((entriesWhere (closeSeen seq k s) fun x => x.ses == k).foldl (fun t ix => cancelEntry ix t) (closeSeen seq k s)) := rfl

theorem sesOf_closeSeen (seq k : Nat) (s : State) : sesOf (closeSeen seq k s) k = { sesOf s k with ctlSeen := seq :: (sesOf s k).ctlSeen } :=
  sesOf_modSes_same ..

theorem takeClose_keep_spec (seq k : Nat) (s : State) : (takeClose seq k true s).req = s.req ∧ (sesOf (takeClose seq k true s) k).ended = true ∧
    (sesOf (takeClose seq k true s) k).lapsed = true ∧
    ((sesOf s k).lapsed = false → (sesOf (takeClose seq k true s) k).graceEnd = afterSec s (graceOf s (sesOf s k).role)) := by
  rw [takeClose_keep, sesOf_closeSeen]
  by_cases hl : (sesOf s k).lapsed = true
  · rw [if_pos hl, sesOf_modSes_same, sesOf_closeSeen]
    exact ⟨rfl, rfl, hl, fun h => absurd hl (by simp [h])⟩
  · rw [if_neg hl]
    have hj := msgsJoin.leaseEvent (sesOf s k).role 0 k (sessionKept k (closeSeen seq k s))
    have hreq : (leaseEvent (sesOf s k).role 0 k (sessionKept k (closeSeen seq k s))).req = s.req :=
      (co_leaseEvent (L := [.ptn, .net, .evr]) _ _ _ _ (by decide) (co_refl _ _)).2 .req (by decide)
    refine ⟨hreq, ?_, ?_, fun _ => ?_⟩
    · rw [hj.keeps Ses.ended (fun _ _ _ => rfl), sessionKept, sesOf_modSes_same]
    · rw [hj.keeps Ses.lapsed (fun _ _ _ => rfl), sessionKept, sesOf_modSes_same]
    · rw [hj.keeps Ses.graceEnd (fun _ _ _ => rfl), sessionKept, sesOf_modSes_same, sesOf_closeSeen]
      rfl

theorem close_spec {g : Segment} {s : State} (hg : segFields g = true) (ht : takesSeg s g = true)
    (hs : sesTakes s g.sid = true) (hv : vlanOk s g.port (sesOf s g.sid).role g.vid = true) (htag : g.tagOk = true) (keep : Bool) :
    ∃ t, exec (.close g 0 keep) s = .next t ∧
      (keep = true → t.req = s.req ∧ (sesOf t g.sid).ended = true ∧ (sesOf t g.sid).lapsed = true ∧
        ((sesOf s g.sid).lapsed = false → (sesOf t g.sid).graceEnd = afterSec s (graceOf s (sesOf s g.sid).role))) ∧
      (keep = false → (sesOf t g.sid).live = false ∧ (sesOf t g.sid).closed = true ∧ (sesOf t g.sid).queue = [] ∧ (sesOf t g.sid).flight = []) := by
  refine ⟨takeClose g.seq g.sid keep (renew g.sid (netOf g.port) g.tsval s), ?_, fun hk => ?_, fun hk => ?_⟩
  · change execClose g 0 keep s = _
    rw [execClose, hg, ht, htag, show (true && (0 : Nat) == 0) = true from rfl, segIn_acts hs hv]; rfl
  · obtain ⟨h1, h2, h3, h4⟩ := takeClose_keep_spec g.seq g.sid (renew g.sid (netOf g.port) g.tsval s)
    rw [renew_keeps Ses.lapsed (fun _ _ _ _ => rfl), renew_keeps Ses.role (fun _ _ _ _ => rfl)] at h4
    subst hk
    exact ⟨h1, h2, h3, h4⟩
  · subst hk
    rw [takeClose_drop]
    obtain ⟨h1, h2, h3, -, h5⟩ := endSession_spec g.sid ((entriesWhere (closeSeen g.seq g.sid (renew g.sid (netOf g.port) g.tsval s)) fun x => x.ses == g.sid).foldl
      (fun t ix => cancelEntry ix t) (closeSeen g.seq g.sid (renew g.sid (netOf g.port) g.tsval s)))
    exact ⟨h1, h2, h3, h5⟩

/-! ## PATH_PROBE_TIMER -/

/-- A down path that is probed again. -/
def pathProbed (p : PathRec) : PathRec := { p with pnum := (p.pnum + 1) % 2 ^ 32, acks := if p.await then 0 else p.acks, await := true }

theorem pathProbe_eq (k net : Nat) (s : State) : pathProbe k net s =
    if !(sesOf s k).live || (sesOf s k).ended || !(pathOf (sesOf s k) net).open_ || (pathOf (sesOf s k) net).up ||
      !portServes s (pathOf (sesOf s k) net).port then s
    else modSes k (fun q => sendProbe 5 net (pathOf (sesOf s k) net).pnum (setPath net (pathProbed (pathOf (sesOf s k) net)) q)) s := rfl

theorem exec_pathProbeTimer {k net : Nat} (hk : k < 2 ^ 32) (hn : net < 2) (s : State) : exec (.pathProbeTimer k net) s = .next (pathProbe k net s) := by
  change execPathProbeTimer k net s = _
  rw [execPathProbeTimer, decide_eq_true hk, decide_eq_true hn]; rfl

theorem pathProbe_spec {k net : Nat} {s : State} (hl : (sesOf s k).live = true) (he : (sesOf s k).ended = false) (hc : (sesOf s k).closing = false)
    (ho : (pathOf (sesOf s k) net).open_ = true) (hu : (pathOf (sesOf s k) net).up = false) (hp : portServes s (pathOf (sesOf s k) net).port = true) :
    (sesOf (pathProbe k net s) k).probesOut = (sesOf s k).probesOut ++ [(5, net, (pathOf (sesOf s k) net).pnum)] ∧
    pathOf (sesOf (pathProbe k net s) k) net = pathProbed (pathOf (sesOf s k) net) := by
  have hclosing : (setPath net (pathProbed (pathOf (sesOf s k) net)) (sesOf s k)).closing = false :=
    (setPath_keeps Ses.closing (fun _ _ _ => rfl) _ _ _).trans hc
  rw [pathProbe_eq, if_neg (by simp [hl, he, ho, hu, hp]), sesOf_modSes_same, pathOf_sendProbe, pathOf_setPath, sendProbe, if_neg (by simp [hclosing])]
  exact ⟨congrArg (· ++ _) (setPath_keeps Ses.probesOut (fun _ _ _ => rfl) _ _ _), rfl⟩

/-! ## Links -/

/-- From `s` to `t` sessions keep their paths on a network, but for some that go down. -/
structure pathsFall (net : Nat) (s t : State) : Prop where
  each : ∀ k, (sesOf t k).live = (sesOf s k).live ∧ (pathOf (sesOf t k) net).open_ = (pathOf (sesOf s k) net).open_ ∧
    (pathOf (sesOf t k) net).port = (pathOf (sesOf s k) net).port ∧ ((pathOf (sesOf s k) net).up = false → (pathOf (sesOf t k) net).up = false)

theorem pathsFall.refl (net : Nat) (s : State) : pathsFall net s s := ⟨fun _ => ⟨rfl, rfl, rfl, id⟩⟩

theorem pathsFall.trans {net : Nat} {s t u : State} (h : pathsFall net s t) (g : pathsFall net t u) : pathsFall net s u := ⟨fun k => by
  obtain ⟨h1, h2, h3, h4⟩ := h.each k
  obtain ⟨g1, g2, g3, g4⟩ := g.each k
  exact ⟨g1.trans h1, g2.trans h2, g3.trans h3, fun h => g4 (h4 h)⟩⟩

theorem pathsFall.up {net : Nat} {s t : State} (h : pathsFall net s t) {k : Nat} (hu : (pathOf (sesOf s k) net).up = false) :
    (pathOf (sesOf t k) net).up = false := by
  obtain ⟨-, -, -, h4⟩ := h.each k
  exact h4 hu

theorem pathsFall.of_msgsJoin {net : Nat} {s t : State} (h : msgsJoin s t) : pathsFall net s t :=
  ⟨fun k => by rw [h.live, h.paths]; exact ⟨rfl, rfl, rfl, id⟩⟩

theorem pathsFall.of_flightOnly {net : Nat} {s t : State} (h : flightOnly s t) : pathsFall net s t :=
  ⟨fun k => by
    rw [h.keeps Ses.live (fun _ _ => rfl), h.keeps (fun e => pathOf e net) (fun _ _ => rfl)]
    exact ⟨rfl, rfl, rfl, id⟩⟩

/-- A path that goes down, before its event. -/
def pathFallen (k net : Nat) (s : State) : State := resendAll k (modPath k net (fun p => { p with up := false, fails := 0, acks := 0, await := false }) s)

theorem pathDown_eq (k net : Nat) (s : State) : pathDown k net s = pathEvent k 0 (pathOf (sesOf s k) net).port (pathFallen k net s) := rfl

theorem up_pathDown (k net : Nat) (s : State) : (pathOf (sesOf (pathDown k net s) k) net).up = false := by
  rw [pathDown_eq, (msgsJoin.pathEvent ..).paths, pathFallen, (flightOnly.resendAll k _).keeps (fun e => pathOf e net) (fun _ _ => rfl), pathOf_modPath]

theorem pathsFall.pathDown (k net : Nat) (s : State) : pathsFall net s (pathDown k net s) := by
  have hmod : pathsFall net s (modPath k net (fun p => { p with up := false, fails := 0, acks := 0, await := false }) s) := ⟨fun j => by
    by_cases hj : j = k
    · subst hj
      rw [pathOf_modPath, sesOf_modPath_same, setPath_keeps Ses.live (fun _ _ _ => rfl)]
      exact ⟨rfl, rfl, rfl, fun _ => rfl⟩
    · rw [sesOf_modPath_ne _ _ _ _ hj]
      exact ⟨rfl, rfl, rfl, id⟩⟩
  exact (hmod.trans (pathsFall.of_flightOnly (flightOnly.resendAll k _))).trans (pathsFall.of_msgsJoin (msgsJoin.pathEvent ..))

/-- A lost path with its port replaced by an offer. -/
theorem pathsFall.offer (net k : Nat) (qs : List Nat) (s : State) : pathsFall net s (modSes k (fun e => { e with offer := qs }) s) := ⟨fun j => by
  by_cases hj : j = k
  · subst hj
    rw [sesOf_modSes_same]
    exact ⟨rfl, rfl, rfl, id⟩
  · rw [sesOf_modSes_ne _ _ _ _ hj]
    exact ⟨rfl, rfl, rfl, id⟩⟩

/-- The path of a lost port, down. -/
def pathLost (port k : Nat) (s : State) : State := if (pathOf (sesOf s k) (netOf port)).up then pathDown k (netOf port) s else s

/-- Another port of the network is offered, where one serves. -/
def portOffered (port k : Nat) (s : State) : State :=
  match leastPort s (netOf port) port with
  | some q => pathEvent k 2 q (modSes k (fun e => { e with offer := [q] }) s)
  | none => s

theorem losePath_eq (port k : Nat) (s : State) : losePath port k s =
    if !(sesOf s k).live || !(pathOf (sesOf s k) (netOf port)).open_ || (pathOf (sesOf s k) (netOf port)).port != port then s
    else portOffered port k (pathLost port k s) := rfl

theorem pathsFall.portOffered (port k : Nat) (s : State) : pathsFall (netOf port) s (portOffered port k s) := by
  unfold Machine.portOffered
  split
  · exact (pathsFall.offer _ _ _ s).trans (pathsFall.of_msgsJoin (msgsJoin.pathEvent ..))
  · exact pathsFall.refl _ s

theorem pathsFall.pathLost (port k : Nat) (s : State) : pathsFall (netOf port) s (pathLost port k s) := by
  unfold Machine.pathLost
  split
  · exact pathsFall.pathDown k (netOf port) s
  · exact pathsFall.refl _ s

theorem up_pathLost (port k : Nat) (s : State) : (pathOf (sesOf (pathLost port k s) k) (netOf port)).up = false := by
  unfold pathLost
  split
  · exact up_pathDown k (netOf port) s
  · next h => simpa using h

theorem pathsFall.losePath (port k : Nat) (s : State) : pathsFall (netOf port) s (losePath port k s) := by
  rw [losePath_eq]
  split
  · exact pathsFall.refl _ s
  · exact (pathsFall.pathLost port k s).trans (pathsFall.portOffered port k _)

/-- The path that a session loses with its port is down. -/
theorem up_losePath {port k : Nat} {s : State} (hl : (sesOf s k).live = true) (ho : (pathOf (sesOf s k) (netOf port)).open_ = true)
    (hp : (pathOf (sesOf s k) (netOf port)).port = port) : (pathOf (sesOf (losePath port k s) k) (netOf port)).up = false := by
  rw [losePath_eq, if_neg (by simp [hl, ho, hp])]
  exact (pathsFall.portOffered port k _).up (up_pathLost port k s)

theorem pathsFall.losePaths (port : Nat) (ks : List Nat) (s : State) : pathsFall (netOf port) s (ks.foldl (fun t k => Machine.losePath port k t) s) := by
  induction ks generalizing s with
  | nil => exact pathsFall.refl _ s
  | cons k ks ih => exact (pathsFall.losePath port k s).trans (ih _)

theorem up_losePaths {port k : Nat} {ks : List Nat} (hk : k ∈ ks) {s : State} (hl : (sesOf s k).live = true)
    (ho : (pathOf (sesOf s k) (netOf port)).open_ = true) (hp : (pathOf (sesOf s k) (netOf port)).port = port) :
    (pathOf (sesOf (ks.foldl (fun t k => losePath port k t) s) k) (netOf port)).up = false := by
  induction ks generalizing s with
  | nil => cases hk
  | cons j ks ih =>
    rcases List.mem_cons.1 hk with rfl | hm
    · exact (pathsFall.losePaths port ks _).up (up_losePath hl ho hp)
    · obtain ⟨h1, h2, h3, -⟩ := (pathsFall.losePath port j s).each k
      exact ih hm (h1.trans hl) (h2.trans ho) (h3.trans hp)

/-- A port whose link is lost, before its sessions lose their paths. -/
def linkLost (port : Nat) (s : State) : State :=
  fire 26 0 0 0 port (modPort port (fun p => { p with link := false, macUp := false, pauseTx := false, pauseRx := 0 }) s)

theorem portLoss_of_link {port : Nat} {s : State} (h : (portOf s port).link = true) :
    portLoss port s = ((linkLost port s).net.sess.map (·.1)).foldl (fun t k => losePath port k t) (linkLost port s) := by
  rw [portLoss, if_neg (by simp [h])]
  rfl

theorem net_fire (t unit level code detail : Nat) (s : State) : (fire t unit level code detail s).net = s.net :=
  net_of_changesOnly (co_fire (L := [.evr]) _ _ _ _ _ s (by decide) (co_refl _ s)) (by decide)

theorem sess_linkLost (port : Nat) (s : State) : (linkLost port s).net.sess = s.net.sess := by
  rw [linkLost, net_fire]
  rfl

theorem sesOf_linkLost (port : Nat) (s : State) (k : Nat) : sesOf (linkLost port s) k = sesOf s k := by
  rw [sesOf, sess_linkLost, sesOf]

theorem portOf_linkLost_same (port : Nat) (s : State) :
    portOf (linkLost port s) port = { portOf s port with link := false, macUp := false, pauseTx := false, pauseRx := 0 } := by
  rw [linkLost, portOf, net_fire]
  exact portOf_modPort_same port _ s

theorem portOf_linkLost_ne {port j : Nat} (h : j ≠ port) (s : State) : portOf (linkLost port s) j = portOf s j := by
  rw [linkLost, portOf, net_fire]
  exact portOf_modPort_ne port j _ s h

/-! ## Ports stay as they are -/

theorem ports_post (k : Nat) (m : Msg) (s : State) : (post k m s).net.ports = s.net.ports := by
  unfold post
  split <;> rfl

theorem ports_flushEvents (n : Nat) (s : State) : (flushEvents n s).net.ports = s.net.ports := by
  cases h : liveSes s n with
  | nil => rw [flushEvents_of_none h]
  | cons k ks =>
    rw [flushEvents_of_live h]
    split
    · rfl
    · exact (foldl_keeps (fun t : State => t.net.ports) _ (fun t j => ports_post j _ t) ks _).trans (ports_post k _ s)

theorem ports_raise (n : Nat) (e : Event) (s : State) : (raise n e s).net.ports = s.net.ports := by
  unfold raise
  dsimp only
  split
  · rfl
  · split
    · rw [ports_flushEvents]; rfl
    · rfl

theorem ports_pathEvent (k what port : Nat) (s : State) : (pathEvent k what port s).net.ports = s.net.ports := by
  unfold pathEvent
  dsimp only
  split
  · exact ports_raise ..
  · exact ports_post ..

theorem ports_losePath (port k : Nat) (s : State) : (losePath port k s).net.ports = s.net.ports := by
  have hlost : (pathLost port k s).net.ports = s.net.ports := by
    unfold pathLost
    split
    · rw [pathDown_eq, ports_pathEvent]; rfl
    · rfl
  rw [losePath_eq]
  split
  · rfl
  · unfold portOffered
    split
    · rw [ports_pathEvent]; exact hlost
    · exact hlost

theorem portOf_portLoss {port : Nat} {s : State} (h : (portOf s port).link = true) (j : Nat) : portOf (portLoss port s) j = portOf (linkLost port s) j := by
  rw [portLoss_of_link h, portOf, foldl_keeps (fun t : State => t.net.ports) _ (fun t k => ports_losePath port k t), portOf]

theorem exec_portLinkLoss {n : Nat} (hn : n < 8) (s : State) : exec (.portLinkLoss n) s = .next (portLoss n s) := by
  change execPortLinkLoss n s = _
  rw [execPortLinkLoss, decide_eq_true hn]; rfl

theorem portLoss_spec {n : Nat} {s : State} (h : (portOf s n).link = true) : (portOf (portLoss n s) n).link = false ∧
    (portOf (portLoss n s) n).macUp = false ∧ (∀ j, j ≠ n → portOf (portLoss n s) j = portOf s j) ∧
    ∀ k, (sesOf s k).live = true → (pathOf (sesOf s k) (netOf n)).open_ = true → (pathOf (sesOf s k) (netOf n)).port = n →
      (pathOf (sesOf (portLoss n s) k) (netOf n)).up = false := by
  refine ⟨?_, ?_, fun j hj => ?_, fun k hl ho hp => ?_⟩
  · rw [portOf_portLoss h, portOf_linkLost_same]
  · rw [portOf_portLoss h, portOf_linkLost_same]
  · rw [portOf_portLoss h, portOf_linkLost_ne hj]
  · rw [portLoss_of_link h]
    refine up_losePaths ?_ (by rw [sesOf_linkLost]; exact hl) (by rw [sesOf_linkLost]; exact ho) (by rw [sesOf_linkLost]; exact hp)
    rw [sess_linkLost]
    exact mem_sess_of_live hl

/-- A port whose link is up. -/
def linkFound (n : Nat) (s : State) : State := fire 26 0 0 0 n (modPort n (fun p => { p with link := true }) s)

theorem exec_portLinkUp {n : Nat} (hn : n < 8) (s : State) : exec (.portLinkUp n) s =
    .next (if (portOf s n).enable && !(portOf s n).link && !portDieFailed s n then linkFound n s else s) := by
  change execPortLinkUp n s = _
  rw [execPortLinkUp, decide_eq_true hn]; rfl

/-- Settles O48: an authenticated segment acts on its renewed session, and a lost link takes its sessions' paths one after another. -/
theorem pathsAndClose : Obligations.PathsAndClose := by
  refine fun s => ⟨fun g pnum hg hp ht hs hv htag => ⟨probe_spec hg hp ht hs hv htag, probeAck_spec hg hp ht hs hv htag, fun keep => close_spec hg ht hs hv htag keep⟩,
    fun k net hk hn => ⟨fun h => ?_, fun hl he hc ho hu hp => ?_⟩, fun n hn => ⟨fun h => ?_, fun h => ?_, fun h => ?_, fun h1 h2 h3 => ?_⟩⟩
  · rw [exec_pathProbeTimer hk hn, pathProbe_eq, if_pos]
    rcases h with h | h | h | h <;> simp [h]
  · obtain ⟨h1, h2⟩ := pathProbe_spec hl he hc ho hu hp
    refine ⟨pathProbe k net s, exec_pathProbeTimer hk hn s, co_pathProbe k net s (by decide) (co_refl _ s), h1, ?_, ?_, ?_⟩ <;> rw [h2] <;> rfl
  · rw [exec_portLinkLoss hn, portLoss, if_pos (by simp [h])]
  · exact ⟨portLoss n s, exec_portLinkLoss hn s, co_portLoss n s (by decide) (co_refl _ s), portLoss_spec h⟩
  · rw [exec_portLinkUp hn, if_neg]
    rcases h with h | h | h <;> simp [h]
  · refine ⟨linkFound n s, ?_, ?_, ?_, fun j hj => ?_⟩
    · rw [exec_portLinkUp hn, if_pos (by simp [h1, h2, h3])]
    · exact co_fire _ _ _ _ _ _ (by decide) (co_modPort _ _ _ (by decide) (co_refl _ s))
    · rw [linkFound, portOf, net_fire]
      exact congrArg Port.link (portOf_modPort_same n (fun p => { p with link := true }) s)
    · rw [linkFound, portOf, net_fire]
      exact portOf_modPort_ne n j _ s hj

end Sys2Proof.Machine
end

section
/-! Segments, acknowledgements and their timers (R359, R360, R370, R374 to R376). -/

namespace Sys2Proof.Machine

/-! ## A DATA segment in its session -/

/-- The next message, whole, passed to the receiver. -/
def msgDelivered (bs : List Byte) (e : Ses) : Ses :=
  { e with inbox := e.inbox ++ [bs], rxMsg := e.rxMsg + 1, asm := e.asm.filter fun x => x.1 != e.rxMsg }

/-- The bodies of the next message's `cnt` segments. -/
def msgWhole (cnt : Nat) (e : Ses) : List Byte :=
  (List.range cnt).flatMap fun i => match (e.asm.filter fun x => x.1 == e.rxMsg).find? fun x => x.2.1 == i with | some x => x.2.2.2 | none => []

theorem deliverMsgs_cases (n : Nat) (e : Ses) : deliverMsgs (n + 1) e = e ∨ ∃ bs, deliverMsgs (n + 1) e = deliverMsgs n (msgDelivered bs e) := by
  generalize hr : deliverMsgs (n + 1) e = r
  rw [deliverMsgs] at hr
  dsimp only at hr
  split at hr
  · exact .inl hr.symm
  · next f _ =>
    split at hr
    · exact .inr ⟨msgWhole f.2.2.1 e, hr.symm⟩
    · exact .inl hr.symm

/-- Delivered messages join the inbox, and the number of the next one rises. -/
theorem deliverMsgs_grows (n : Nat) (e : Ses) : e.inbox <+: (deliverMsgs n e).inbox ∧ e.rxMsg ≤ (deliverMsgs n e).rxMsg := by
  induction n generalizing e with
  | zero => exact ⟨List.prefix_refl _, Nat.le_refl _⟩
  | succ n ih =>
    rcases deliverMsgs_cases n e with h | ⟨bs, h⟩
    · rw [h]
      exact ⟨List.prefix_refl _, Nat.le_refl _⟩
    · rw [h]
      obtain ⟨h1, h2⟩ := ih (msgDelivered bs e)
      exact ⟨(List.prefix_append _ _).trans h1, (Nat.le_succ _).trans h2⟩

/-- What a field of a session that delivery does not write is after it. -/
theorem deliverMsgs_keeps {α : Type} (p : Ses → α) (hp : ∀ e i r a, p { e with inbox := i, rxMsg := r, asm := a } = p e) (n : Nat) (e : Ses) :
    p (deliverMsgs n e) = p e := by
  induction n generalizing e with
  | zero => rfl
  | succ n ih =>
    rcases deliverMsgs_cases n e with h | ⟨bs, h⟩
    · rw [h]
    · rw [h, ih]
      exact hp e _ _ _

/-- A message of one segment, the next in order, is delivered. -/
theorem deliverMsgs_one {e : Ses} {body : List Byte} (n : Nat) (h : (e.asm.filter fun x => x.1 == e.rxMsg) = [(e.rxMsg, 0, 1, body)]) :
    e.inbox ++ [body] <+: (deliverMsgs (n + 1) e).inbox ∧ e.rxMsg < (deliverMsgs (n + 1) e).rxMsg := by
  have hstep : deliverMsgs (n + 1) e = deliverMsgs n (msgDelivered body e) := by
    rw [deliverMsgs, h]
    simp [msgDelivered]
  rw [hstep]
  exact deliverMsgs_grows n (msgDelivered body e)

theorem rxAdvance_le (n c : Nat) (l : List Nat) : c ≤ (rxAdvance n c l).1 := by
  induction n generalizing c l with
  | zero => exact Nat.le_refl _
  | succ n ih =>
    unfold rxAdvance
    split
    · exact (Nat.le_succ _).trans (ih _ _)
    · exact Nat.le_refl _

theorem rxAdvance_lt {n c : Nat} {l : List Nat} (h : c ∈ l) : c < (rxAdvance (n + 1) c l).1 := by
  rw [rxAdvance, if_pos (by simpa using h)]
  exact rxAdvance_le n (c + 1) _

/-- A segment that its session has had. -/
def segHad (g : Segment) (e : Ses) : Bool := decide (g.seq < e.rxCum) || e.rxSeen.contains g.seq || decide (g.seq + 65536 < e.rxMax)

/-- A segment noted as received, before delivery. -/
def segNoted (g : Segment) (e : Ses) : Ses :=
  { e with rxMax := max e.rxMax g.seq, rxCum := (rxAdvance (e.rxSeen.length + 1) e.rxCum (g.seq :: e.rxSeen)).1,
           rxSeen := (rxAdvance (e.rxSeen.length + 1) e.rxCum (g.seq :: e.rxSeen)).2,
           asm := if g.msgid < e.rxMsg then e.asm else e.asm ++ [(g.msgid, g.segix, g.segcnt, g.body)] }

/-- A segment taken once. -/
def segOnce (g : Segment) (e : Ses) : Ses := if segHad g e then e else deliverMsgs ((segNoted g e).asm.length + 1) (segNoted g e)

/-- A segment counted for its acknowledgement. -/
def segCounted (now : Nat) (g : Segment) (e : Ses) : Ses :=
  { e with rxSince := e.rxSince + 1, rxCe := e.rxCe || g.ce, ackUs := some (e.ackUs.getD now), ackPath := netOf g.port }

/-- The fourth segment since the last acknowledgement is acknowledged at once. -/
def segAcked (net : Nat) (e : Ses) : Ses := if 4 ≤ e.rxSince then sendAck net e else e

/-- A space of sequence numbers that runs out asks for a new session. -/
def spaceAsked (g : Segment) (e : Ses) : Ses := if 0xF0000000 ≤ g.seq ∧ e.closeOut = none then { e with closeOut := some 1 } else e

theorem takeData_eq (now : Nat) (g : Segment) (e : Ses) :
    takeData now g e = spaceAsked g (segAcked (netOf g.port) (segCounted now g (segOnce g e))) := rfl

theorem spaceAsked_keeps {α : Type} (p : Ses → α) (hp : ∀ e c, p { e with closeOut := c } = p e) (g : Segment) (e : Ses) : p (spaceAsked g e) = p e := by
  unfold spaceAsked
  split
  · exact hp e _
  · rfl

theorem segAcked_keeps {α : Type} (p : Ses → α) (hp : ∀ e a r c u x, p { e with acksOut := a, rxSince := r, rxCe := c, ackUs := u, txCtl := x } = p e)
    (net : Nat) (e : Ses) : p (segAcked net e) = p e := by
  unfold segAcked sendAck
  dsimp only
  split
  · split
    · rfl
    · exact hp e _ _ _ _ _
  · rfl

theorem segOnce_keeps {α : Type} (p : Ses → α) (hp : ∀ e m c s a i r, p { e with rxMax := m, rxCum := c, rxSeen := s, asm := a, inbox := i, rxMsg := r } = p e)
    (g : Segment) (e : Ses) : p (segOnce g e) = p e := by
  unfold segOnce
  split
  · rfl
  · rw [deliverMsgs_keeps p (fun e i r a => hp e e.rxMax e.rxCum e.rxSeen a i r)]
    exact hp e _ _ _ _ e.inbox e.rxMsg

/-- What a DATA segment leaves of what it received: the same as taking it once. -/
theorem received_takeData (now : Nat) (g : Segment) (e : Ses) : (takeData now g e).inbox = (segOnce g e).inbox ∧
    (takeData now g e).rxCum = (segOnce g e).rxCum ∧ (takeData now g e).rxMsg = (segOnce g e).rxMsg ∧ (takeData now g e).leaseEnd = e.leaseEnd := by
  rw [takeData_eq]
  refine ⟨?_, ?_, ?_, ?_⟩
  · rw [spaceAsked_keeps Ses.inbox (fun _ _ => rfl), segAcked_keeps Ses.inbox (fun _ _ _ _ _ _ => rfl)]; rfl
  · rw [spaceAsked_keeps Ses.rxCum (fun _ _ => rfl), segAcked_keeps Ses.rxCum (fun _ _ _ _ _ _ => rfl)]; rfl
  · rw [spaceAsked_keeps Ses.rxMsg (fun _ _ => rfl), segAcked_keeps Ses.rxMsg (fun _ _ _ _ _ _ => rfl)]; rfl
  · rw [spaceAsked_keeps Ses.leaseEnd (fun _ _ => rfl), segAcked_keeps Ses.leaseEnd (fun _ _ _ _ _ _ => rfl)]
    exact segOnce_keeps Ses.leaseEnd (fun _ _ _ _ _ _ _ => rfl) g e

theorem acks_takeData_few {e : Ses} (h : e.rxSince < 3) (now : Nat) (g : Segment) :
    (takeData now g e).rxSince = e.rxSince + 1 ∧ (takeData now g e).acksOut = e.acksOut := by
  have hsince : (segCounted now g (segOnce g e)).rxSince = e.rxSince + 1 := congrArg (· + 1) (segOnce_keeps Ses.rxSince (fun _ _ _ _ _ _ _ => rfl) g e)
  have hacks : (segCounted now g (segOnce g e)).acksOut = e.acksOut := segOnce_keeps Ses.acksOut (fun _ _ _ _ _ _ _ => rfl) g e
  rw [takeData_eq, spaceAsked_keeps Ses.rxSince (fun _ _ => rfl), spaceAsked_keeps Ses.acksOut (fun _ _ => rfl), segAcked, if_neg (by omega)]
  exact ⟨hsince, hacks⟩

theorem acks_takeData_fourth {e : Ses} (h : 3 ≤ e.rxSince) (hc : e.closing = false) (now : Nat) (g : Segment) :
    (takeData now g e).rxSince = 0 ∧ (takeData now g e).acksOut.length = e.acksOut.length + 1 := by
  have hsince : (segCounted now g (segOnce g e)).rxSince = e.rxSince + 1 := congrArg (· + 1) (segOnce_keeps Ses.rxSince (fun _ _ _ _ _ _ _ => rfl) g e)
  have hclosing : (segCounted now g (segOnce g e)).closing = false := (segOnce_keeps Ses.closing (fun _ _ _ _ _ _ _ => rfl) g e).trans hc
  have hacks : (segCounted now g (segOnce g e)).acksOut = e.acksOut := segOnce_keeps Ses.acksOut (fun _ _ _ _ _ _ _ => rfl) g e
  rw [takeData_eq, spaceAsked_keeps Ses.rxSince (fun _ _ => rfl), spaceAsked_keeps Ses.acksOut (fun _ _ => rfl), segAcked, if_pos (by omega), sendAck,
    if_neg (by simp [hclosing])]
  refine ⟨rfl, ?_⟩
  dsimp only
  rw [List.length_append, hacks]
  rfl

theorem segOnce_of_known {g : Segment} {e : Ses} (h : g.seq < e.rxCum ∨ g.seq ∈ e.rxSeen) : segOnce g e = e := by
  rw [segOnce, if_pos]
  rcases h with h | h <;> simp [segHad, h]

/-- The next segment, a whole message, passes to the receiver. -/
theorem segOnce_of_next {g : Segment} {e : Ses} (hseq : g.seq = e.rxCum) (hseen : g.seq ∉ e.rxSeen) (hmax : e.rxMax ≤ g.seq + 65536)
    (hix : g.segix = 0) (hcnt : g.segcnt = 1) (hmsg : g.msgid = e.rxMsg) (hasm : ∀ x ∈ e.asm, x.1 ≠ g.msgid) :
    e.inbox ++ [g.body] <+: (segOnce g e).inbox ∧ e.rxCum < (segOnce g e).rxCum ∧ e.rxMsg < (segOnce g e).rxMsg := by
  have hnew : segHad g e = false := by
    simp only [segHad, Bool.or_eq_false_iff, decide_eq_false_iff_not, List.contains_eq_mem]
    exact ⟨⟨by omega, hseen⟩, by omega⟩
  have hmine : ((segNoted g e).asm.filter fun x => x.1 == (segNoted g e).rxMsg) = [((segNoted g e).rxMsg, 0, 1, g.body)] := by
    have hold : (e.asm.filter fun x => x.1 == e.rxMsg) = [] := by
      rw [List.filter_eq_nil_iff]
      intro x hx
      simpa [← hmsg] using hasm x hx
    change ((if g.msgid < e.rxMsg then e.asm else e.asm ++ [(g.msgid, g.segix, g.segcnt, g.body)]).filter fun x => x.1 == e.rxMsg) = _
    rw [if_neg (by omega), List.filter_append, hold, hix, hcnt, hmsg]
    simp [segNoted]
  obtain ⟨h1, h2⟩ := deliverMsgs_one (segNoted g e).asm.length hmine
  rw [segOnce, hnew, if_neg (by simp)]
  refine ⟨h1, ?_, h2⟩
  rw [deliverMsgs_keeps Ses.rxCum (fun _ _ _ _ => rfl)]
  exact rxAdvance_lt (by rw [hseq]; exact List.mem_cons_self ..)

/-! ## DATA_SEGMENT_RECEIVE -/

theorem exec_dataSegment {g : Segment} (hg : segFields g = true) (s : State) : exec (.dataSegmentReceive g) s = .next (bufferFill g.port g.fill
    (segIn g.port g.vid g.sid g.seq g.tsval (takesSeg s g) (dataOk s g) (fun t => modSes g.sid (takeData t.clk.us g) t) s)) := by
  change execDataSegmentReceive g s = _
  rw [execDataSegmentReceive, hg]; rfl

theorem sesOf_bufferFill (port fill : Nat) (s : State) (k : Nat) : sesOf (bufferFill port fill s) k = sesOf s k := by
  unfold bufferFill
  split <;> rfl

theorem rxDrop_bufferFill (port fill : Nat) (s : State) : (portOf (bufferFill port fill s) port).rxDrop = (portOf s port).rxDrop := by
  unfold bufferFill
  split
  · rw [portOf_modPort_same]
  · rfl

theorem segIn_bad {port vid sid seq tsval : Nat} {s : State} (hs : sesTakes s sid = true) (hv : vlanOk s port (sesOf s sid).role vid = true)
    (act : State → State) : segIn port vid sid seq tsval true false act s = dropSeg port s := by
  rw [segIn, if_neg (by simp [hv]), if_neg (by simp [hs]), if_pos (by simp)]

/-- A good DATA segment in its session. -/
def dataTaken (g : Segment) (s : State) : State := modSes g.sid (takeData s.clk.us g) (renew g.sid (netOf g.port) g.tsval s)

theorem sesOf_dataTaken_ne (g : Segment) (s : State) {k : Nat} (h : k ≠ g.sid) : sesOf (dataTaken g s) k = sesOf s k := by
  rw [dataTaken, sesOf_modSes_ne _ _ _ _ h, sesOf_renew_ne _ _ _ _ h]

theorem sesOf_dataTaken (g : Segment) (s : State) :
    sesOf (dataTaken g s) g.sid = takeData s.clk.us g (sesOf (renew g.sid (netOf g.port) g.tsval s) g.sid) := sesOf_modSes_same ..

theorem portOf_dataTaken (g : Segment) (s : State) (n : Nat) : portOf (dataTaken g s) n = portOf s n := rfl

theorem leaseEnd_renew {k : Nat} {s : State} (h : (sesOf s k).lapsed = false) (net tsval : Nat) :
    (sesOf (renew k net tsval s) k).leaseEnd = afterSec s (leaseOf s (sesOf s k).role) := by
  rw [sesOf_renew, setPath_keeps Ses.leaseEnd (fun _ _ _ => rfl), if_neg (by simp [h])]

theorem dataSegment_good {g : Segment} {s : State} (hg : segFields g = true) (ht : takesSeg s g = true) (hs : sesTakes s g.sid = true)
    (hv : vlanOk s g.port (sesOf s g.sid).role g.vid = true) (hd : dataOk s g = true) :
    ∃ t, exec (.dataSegmentReceive g) s = .next t ∧ changesOnly [.net] s t ∧
      (∀ k, k ≠ g.sid → sesOf t k = sesOf s k) ∧
      (75 < g.fill → (portOf s g.port).pfcEn = true → (portOf t g.port).pauseTx = true) ∧
      ((sesOf s g.sid).lapsed = false → (sesOf t g.sid).leaseEnd = afterSec s (leaseOf s (sesOf s g.sid).role)) ∧
      ((sesOf s g.sid).rxSince < 3 → (sesOf t g.sid).rxSince = (sesOf s g.sid).rxSince + 1 ∧ (sesOf t g.sid).acksOut = (sesOf s g.sid).acksOut) ∧
      (3 ≤ (sesOf s g.sid).rxSince → (sesOf s g.sid).closing = false →
        (sesOf t g.sid).rxSince = 0 ∧ (sesOf t g.sid).acksOut.length = (sesOf s g.sid).acksOut.length + 1) ∧
      ((g.seq < (sesOf s g.sid).rxCum ∨ g.seq ∈ (sesOf s g.sid).rxSeen) →
        (sesOf t g.sid).inbox = (sesOf s g.sid).inbox ∧ (sesOf t g.sid).rxCum = (sesOf s g.sid).rxCum) ∧
      (g.seq = (sesOf s g.sid).rxCum → g.seq ∉ (sesOf s g.sid).rxSeen → (sesOf s g.sid).rxMax ≤ g.seq + 65536 → g.segcnt = 1 →
        g.msgid = (sesOf s g.sid).rxMsg → (∀ x ∈ (sesOf s g.sid).asm, x.1 ≠ g.msgid) →
        (sesOf s g.sid).inbox ++ [g.body] <+: (sesOf t g.sid).inbox ∧ (sesOf s g.sid).rxCum < (sesOf t g.sid).rxCum ∧
          (sesOf s g.sid).rxMsg < (sesOf t g.sid).rxMsg) := by
  have hkeep : ∀ {α : Type} (p : Ses → α), (∀ e a b l, p { e with pathA := a, pathB := b, leaseEnd := l } = p e) →
      p (sesOf (renew g.sid (netOf g.port) g.tsval s) g.sid) = p (sesOf s g.sid) := fun p hp => renew_keeps p hp g.sid (netOf g.port) g.tsval s
  obtain ⟨hinbox, hcum, hmsg, hlease⟩ := received_takeData s.clk.us g (sesOf (renew g.sid (netOf g.port) g.tsval s) g.sid)
  refine ⟨bufferFill g.port g.fill (dataTaken g s), ?_, ?_, fun k hk => ?_, fun hf hp => ?_, fun hl => ?_, fun h => ?_, fun h hc => ?_, fun h => ?_,
    fun h1 h2 h3 h4 h5 h6 => ?_⟩
  · rw [exec_dataSegment hg, ht, hd, segIn_acts hs hv]
    rfl
  · exact co_bufferFill _ _ _ (by decide) (co_modSes _ _ _ (by decide) (co_renew _ _ _ s (by decide) (co_refl _ s)))
  · rw [sesOf_bufferFill, sesOf_dataTaken_ne g s hk]
  · rw [bufferFill, if_pos ⟨hf, by rw [portOf_dataTaken]; exact hp⟩, portOf_modPort_same]
  · rw [sesOf_bufferFill, sesOf_dataTaken, hlease, leaseEnd_renew hl]
  · rw [sesOf_bufferFill, sesOf_dataTaken]
    obtain ⟨h1, h2⟩ := acks_takeData_few (e := sesOf (renew g.sid (netOf g.port) g.tsval s) g.sid) (by rw [hkeep Ses.rxSince fun _ _ _ _ => rfl]; exact h) s.clk.us g
    rw [h1, h2, hkeep Ses.rxSince (fun _ _ _ _ => rfl), hkeep Ses.acksOut (fun _ _ _ _ => rfl)]
    exact ⟨rfl, rfl⟩
  · rw [sesOf_bufferFill, sesOf_dataTaken, ← hkeep Ses.acksOut (fun _ _ _ _ => rfl)]
    exact acks_takeData_fourth (by rw [hkeep Ses.rxSince fun _ _ _ _ => rfl]; exact h) (by rw [hkeep Ses.closing fun _ _ _ _ => rfl]; exact hc) s.clk.us g
  · have honce : segOnce g (sesOf (renew g.sid (netOf g.port) g.tsval s) g.sid) = sesOf (renew g.sid (netOf g.port) g.tsval s) g.sid :=
      segOnce_of_known (by rw [hkeep Ses.rxCum fun _ _ _ _ => rfl, hkeep Ses.rxSeen fun _ _ _ _ => rfl]; exact h)
    rw [sesOf_bufferFill, sesOf_dataTaken, hinbox, hcum, honce, hkeep Ses.inbox (fun _ _ _ _ => rfl), hkeep Ses.rxCum (fun _ _ _ _ => rfl)]
    exact ⟨rfl, rfl⟩
  · have hix : g.segix = 0 := by
      simp only [dataOk, Bool.and_eq_true, decide_eq_true_eq] at hd
      omega
    rw [sesOf_bufferFill, sesOf_dataTaken, hinbox, hcum, hmsg, ← hkeep Ses.inbox (fun _ _ _ _ => rfl), ← hkeep Ses.rxCum (fun _ _ _ _ => rfl),
      ← hkeep Ses.rxMsg (fun _ _ _ _ => rfl)]
    refine segOnce_of_next ?_ ?_ ?_ hix h4 ?_ ?_
    · rw [hkeep Ses.rxCum fun _ _ _ _ => rfl]; exact h1
    · rw [hkeep Ses.rxSeen fun _ _ _ _ => rfl]; exact h2
    · rw [hkeep Ses.rxMax fun _ _ _ _ => rfl]; exact h3
    · rw [hkeep Ses.rxMsg fun _ _ _ _ => rfl]; exact h5
    · rw [hkeep Ses.asm fun _ _ _ _ => rfl]; exact h6

/-! ## ACK_RECEIVE -/

theorem missOne_seq (now : Nat) (a : AckInfo) (cur : Option Nat) (x : OutSeg) : (missOne now a cur x).seq = x.seq ∧ (missOne now a cur x).body = x.body := by
  unfold missOne
  split
  · split <;> exact ⟨rfl, rfl⟩
  · exact ⟨rfl, rfl⟩

/-- The segments that an acknowledgement leaves in flight. -/
def flightLeft (a : AckInfo) (s : State) : List OutSeg :=
  ((sesOf s a.sid).flight.filter fun x => !ackCovers a x).map (missOne s.clk.us a (sendNet (sesOf s a.sid)))

theorem flightLeft_uncovered {a : AckInfo} {s : State} {y : OutSeg} (h : y ∈ flightLeft a s) : ackCovers a y = false := by
  obtain ⟨x, hx, rfl⟩ := List.mem_map.1 h
  have hu := (List.mem_filter.1 hx).2
  simpa only [ackCovers, (missOne_seq s.clk.us a (sendNet (sesOf s a.sid)) x).1, Bool.not_eq_true'] using hu

theorem flightLeft_of_uncovered {a : AckInfo} {s : State} {x : OutSeg} (h : x ∈ (sesOf s a.sid).flight) (hu : ackCovers a x = false) :
    ∃ y ∈ flightLeft a s, y.seq = x.seq ∧ y.body = x.body :=
  ⟨_, List.mem_map_of_mem (List.mem_filter.2 ⟨h, by simp [hu]⟩), missOne_seq ..⟩

/-- A message all of whose segments are acknowledged. -/
def msgWholly (a : AckInfo) (s : State) (m : Nat × Msg) : Bool :=
  decide (m.1 < (sesOf s a.sid).txMsg) && !(flightLeft a s).any fun x => x.msgid == m.1

/-- The session after an acknowledgement, before what its messages clear. -/
def ackTaken (a : AckInfo) (s : State) : State :=
  modSes a.sid (fun x => setPath (netOf a.port) (windowAfter a (sesOf s a.sid).txSeq (pathOf (sesOf s a.sid) (netOf a.port)))
    { x with flight := flightLeft a s, sent := (sesOf s a.sid).sent.filter fun m => !msgWholly a s m }) s

theorem takeAck_eq (a : AckInfo) (s : State) : takeAck a s =
    ((sesOf s a.sid).sent.filter (msgWholly a s)).foldl (fun t m => ackedMsg (sesOf s a.sid).role m.2 t) (ackTaken a s) := rfl

theorem net_ackedMsg (role : Nat) (m : Msg) (s : State) : (ackedMsg role m s).net = s.net :=
  net_of_changesOnly (co_ackedMsg (L := [.ptn]) role m s (by decide) (co_refl _ s)) (by decide)

theorem sesOf_takeAck (a : AckInfo) (s : State) (k : Nat) : sesOf (takeAck a s) k = sesOf (ackTaken a s) k := by
  rw [takeAck_eq, sesOf, foldl_keeps State.net _ (fun t (m : Nat × Msg) => net_ackedMsg (sesOf s a.sid).role m.2 t), sesOf]

theorem windowAfter_tmo (a : AckInfo) (tx : Nat) (p : PathRec) : (windowAfter a tx p).tmo = 1 ∧ (windowAfter a tx p).fails = 0 := by
  unfold windowAfter
  split
  · exact ⟨rfl, rfl⟩
  · split <;> exact ⟨rfl, rfl⟩

theorem takeAck_flight (a : AckInfo) (s : State) : (sesOf (takeAck a s) a.sid).flight = flightLeft a s := by
  rw [sesOf_takeAck, ackTaken, sesOf_modSes_same, setPath_keeps Ses.flight fun _ _ _ => rfl]

theorem takeAck_path (a : AckInfo) (s : State) : pathOf (sesOf (takeAck a s) a.sid) (netOf a.port) =
    windowAfter a (sesOf s a.sid).txSeq (pathOf (sesOf s a.sid) (netOf a.port)) := by
  rw [sesOf_takeAck, ackTaken, sesOf_modSes_same, pathOf_setPath]

theorem ackReceive_spec {a : AckInfo} {s : State} (h1 : a.port < 8) (h2 : a.vid < 4096) (h3 : a.sid < 2 ^ 32) (h4 : a.seq < 2 ^ 32)
    (h5 : ∀ b ∈ a.bits, b < 256) (ht : portTakes s a.port = true) (hs : sesTakes s a.sid = true)
    (hv : vlanOk s a.port (sesOf s a.sid).role a.vid = true) (htag : a.tagOk = true) :
    ∃ t, exec (.ackReceive a) s = .next t ∧ changesOnly [.ptn, .net] s t ∧ (∀ k, k ≠ a.sid → sesOf t k = sesOf s k) ∧
      (∀ y ∈ (sesOf t a.sid).flight, ackCovers a y = false) ∧
      (∀ x ∈ (sesOf s a.sid).flight, ackCovers a x = false → ∃ y ∈ (sesOf t a.sid).flight, y.seq = x.seq ∧ y.body = x.body) ∧
      (pathOf (sesOf t a.sid) (netOf a.port)).tmo = 1 ∧ (pathOf (sesOf t a.sid) (netOf a.port)).fails = 0 ∧
      (a.ece = true → (pathOf (sesOf t a.sid) (netOf a.port)).window = max 4 ((pathOf (sesOf s a.sid) (netOf a.port)).window / 2)) := by
  have hguard : (decide (a.port < 8) && decide (a.vid < 4096) && decide (a.sid < 2 ^ 32) && decide (a.seq < 2 ^ 32) && a.bits.all fun b => decide (b < 256)) = true := by
    simp only [Bool.and_eq_true, decide_eq_true_eq, List.all_eq_true]
    exact ⟨⟨⟨⟨h1, h2⟩, h3⟩, h4⟩, h5⟩
  have hflight := renew_keeps Ses.flight (fun _ _ _ _ => rfl) a.sid (netOf a.port) a.tsval s
  refine ⟨takeAck a (renew a.sid (netOf a.port) a.tsval s), ?_, co_takeAck _ _ (by decide) (co_renew _ _ _ s (by decide) (co_refl _ s)), fun k hk => ?_,
    fun y hy => ?_, fun x hx hu => ?_, ?_, ?_, fun he => ?_⟩
  · change execAckReceive a s = _
    rw [execAckReceive, hguard, ht, htag, segIn_acts hs hv]; rfl
  · rw [sesOf_takeAck, ackTaken, sesOf_modSes_ne _ _ _ _ hk, sesOf_renew_ne _ _ _ _ hk]
  · rw [takeAck_flight] at hy
    exact flightLeft_uncovered hy
  · rw [takeAck_flight]
    exact flightLeft_of_uncovered (by rw [hflight]; exact hx) hu
  · rw [takeAck_path]
    exact (windowAfter_tmo ..).1
  · rw [takeAck_path]
    exact (windowAfter_tmo ..).2
  · rw [takeAck_path, windowAfter, if_pos he, pathOf_renew]

/-! ## ACK_TIMER and RETRANSMIT_TIMEOUT -/

theorem exec_ackTimer {k path u : Nat} (hk : k < 2 ^ 32) (hp : path < 2) {s : State} (hu : (sesOf s k).ackUs = some u) : exec (.ackTimer k path) s =
    .next (if u + 20 ≤ s.clk.us ∧ (sesOf s k).ackPath = path then modSes k (sendAck path) s else s) := by
  change execAckTimer k path s = _
  rw [execAckTimer, decide_eq_true hk, decide_eq_true hp, hu]; rfl

theorem sendAck_spec {e : Ses} (h : e.closing = false) (net : Nat) : (sendAck net e).ackUs = none ∧ (sendAck net e).rxSince = 0 ∧
    ∃ bits ce, (sendAck net e).acksOut = e.acksOut ++ [(net, e.rxCum, bits, ce)] := by
  rw [sendAck, if_neg (by simp [h])]
  exact ⟨rfl, rfl, _, _, rfl⟩

theorem exec_retransmit {k seq : Nat} (hk : k < 2 ^ 32) (hq : seq < 2 ^ 32) (s : State) : exec (.retransmitTimeout k seq) s = .next (retransmit k seq s) := by
  change execRetransmitTimeout k seq s = _
  rw [execRetransmitTimeout, decide_eq_true hk, decide_eq_true hq]; rfl

/-- A path that has timed out once more. -/
def pathLate (k net : Nat) (s : State) : State := modPath k net (fun p => { p with tmo := min 64 (2 * p.tmo), fails := p.fails + 1 }) s

/-- The segments of a number sent again. -/
def segResent (k seq now : Nat) (s : State) : State :=
  modSes k (fun q => { q with flight := q.flight.map fun y => if y.seq == seq then resend now ((sendNet q).getD y.net) y else y }) s

theorem retransmit_of_late {k seq : Nat} {s : State} {x : OutSeg} (hx : ((sesOf s k).flight.find? fun x => x.seq == seq) = some x)
    (hl : (sesOf s k).live = true) (hc : (sesOf s k).closing = false) (he : (sesOf s k).ended = false) : retransmit k seq s =
    if timesOut s (sesOf s k) x then
      (if (pathOf (sesOf s k) x.net).fails + 1 = 3 then pathDown k x.net (pathLate k x.net s) else segResent k seq s.clk.us (pathLate k x.net s))
    else s := by
  unfold retransmit
  dsimp only
  rw [hx]
  dsimp only
  cases timesOut s (sesOf s k) x
  · rw [if_pos (by simp), if_neg (by simp)]
  · rw [if_neg (by simp [hl, hc, he]), if_pos rfl]
    rfl

theorem segResent_spec (k seq now net : Nat) (s : State) : pathOf (sesOf (segResent k seq now s) k) net = pathOf (sesOf s k) net ∧
    ∀ y ∈ (sesOf (segResent k seq now s) k).flight, y.seq = seq → y.retx = true ∧ y.sentUs = now := by
  rw [segResent, sesOf_modSes_same]
  refine ⟨rfl, fun y hy hseq => ?_⟩
  obtain ⟨x, -, rfl⟩ := List.mem_map.1 hy
  by_cases hx : (x.seq == seq) = true
  · rw [if_pos hx]
    exact ⟨rfl, rfl⟩
  · rw [if_neg hx] at hseq
    exact absurd (by simpa using hseq) hx

/-- Settles O46: a good segment is taken in its renewed session, an acknowledgement and the timers act on what is in flight. -/
theorem segmentsAndAcks : Obligations.SegmentsAndAcks := by
  refine fun s => ⟨fun g hg => ⟨fun h hf => ?_, fun ht hs hv hd => ?_, fun ht hs hv hd => dataSegment_good hg ht hs hv hd⟩,
    fun a h1 h2 h3 h4 h5 h6 h7 h8 h9 => ackReceive_spec h1 h2 h3 h4 h5 h6 h7 h8 h9, fun k path u hk hp hu => ⟨fun h => ?_, fun h1 h2 hc => ?_⟩,
    fun k seq x hk hq hx hl hc he => ⟨fun h => ?_, fun h => ?_⟩⟩
  · rw [exec_dataSegment hg, segIn, if_pos (by rcases h with h | ⟨h1, h2⟩ <;> simp [*]), bufferFill, if_neg (by omega)]
  · refine ⟨bufferFill g.port g.fill (dropSeg g.port s), ?_, co_bufferFill _ _ _ (by decide) (co_dropSeg _ _ (by decide) (co_refl _ s)), ?_, fun k => ?_⟩
    · rw [exec_dataSegment hg, ht, hd, segIn_bad hs hv]
    · rw [rxDrop_bufferFill, dropSeg, portOf_modPort_same]
    · rw [sesOf_bufferFill]; rfl
  · rw [exec_ackTimer hk hp hu, if_neg (by omega)]
  · refine ⟨modSes k (sendAck path) s, ?_, co_modSes _ _ _ (by decide) (co_refl _ s), ?_⟩
    · rw [exec_ackTimer hk hp hu, if_pos ⟨h1, h2⟩]
    · rw [sesOf_modSes_same]
      exact sendAck_spec hc path
  · have hno : timesOut s (sesOf s k) x = false := by simp [timesOut, Nat.not_le.2 h]
    rw [exec_retransmit hk hq, retransmit_of_late hx hl hc he, hno, if_neg (by simp)]
  · refine ⟨retransmit k seq s, exec_retransmit hk hq s, co_retransmit k seq s (by decide) (co_refl _ s), fun hf => ?_, fun hf => ?_⟩
    · rw [retransmit_of_late hx hl hc he, h, if_pos rfl, if_pos hf]
      exact up_pathDown ..
    · rw [retransmit_of_late hx hl hc he, h, if_pos rfl, if_neg hf]
      obtain ⟨h1, h2⟩ := segResent_spec k seq s.clk.us x.net (pathLate k x.net s)
      rw [h1, pathLate, pathOf_modPath]
      exact ⟨rfl, rfl, h2⟩

end Sys2Proof.Machine
end

section
/-! Handshakes: HS_INIT, HS_KEY and their timeout (R365 to R371, R473). -/

namespace Sys2Proof.Machine

/-! ## HS_INIT -/

theorem exec_hsInit {m : HsInit} (h1 : m.port < 8) (h2 : m.vid < 4096) (h3 : m.hsid < 2 ^ 32) (h4 : m.role < 256) (h5 : m.flags < 256) (h6 : m.idle < 2 ^ 32)
    (s : State) : exec (.hsInit m) s =
    .next (if portTakes s m.port && vlanOk s m.port (roleCode m.role) m.vid && !s.sec.romRec then hsInit m s else s) := by
  change execHsInit m s = _
  rw [execHsInit, decide_eq_true h1, decide_eq_true h2, decide_eq_true h3, decide_eq_true h4, decide_eq_true h5, decide_eq_true h6]; rfl

theorem hsInit_of_repeat {m : HsInit} {s : State} {x : Hs} (h : (s.net.shakes.find? fun x => x.hsid == m.hsid) = some x) : hsInit m s = sendHs x.answer s := by
  rw [hsInit, h]

theorem hsInit_of_reason {m : HsInit} {s : State} {r : Nat} (h : (s.net.shakes.find? fun x => x.hsid == m.hsid) = none) (hr : hsReason s m = some r) :
    hsInit m s = rejectHs m.hsid r s := by
  rw [hsInit, h]
  dsimp only
  rw [hr]

/-- HS_REPLY, with the nonce that the security core draws. -/
def hsReply (m : HsInit) (s : State) : HsOut :=
  { HsOut.reject m.hsid 0 with
    ty := 2, nonce := leBytes (drawKey s).1 32, sig := Config.sign 0 (Config.sha512 (m.msg ++ leBytes (drawKey s).1 32)) }

/-- A handshake that was answered. -/
def hsOpen (m : HsInit) (s : State) : Hs := { hsid := m.hsid, m := m, us := s.clk.us, answer := hsReply m s, done := false }

/-- A handshake is held. -/
def holdHs (x : Hs) (s : State) : State := { s with net := { s.net with shakes := s.net.shakes ++ [x] } }

theorem hsInit_of_accepted {m : HsInit} {s : State} (h : (s.net.shakes.find? fun x => x.hsid == m.hsid) = none) (hr : hsReason s m = none) :
    hsInit m s = sendHs (hsReply m s) (holdHs (hsOpen m s) (drawKey s).2) := by
  rw [hsInit, h]
  dsimp only
  rw [hr]
  rfl

theorem co_hsInit_accepted (m : HsInit) (s : State) : changesOnly [.net, .dev] s (sendHs (hsReply m s) (holdHs (hsOpen m s) (drawKey s).2)) :=
  co_set_net _ (by decide) (co_set_net _ (by decide) (co_set_dev _ (by decide) (co_refl _ s)))

/-- HS_REJECT goes out, is counted, and no handshake or session changes. -/
theorem rejectHs_spec (hsid reason : Nat) (s : State) : (rejectHs hsid reason s).net.hsOut = s.net.hsOut ++ [HsOut.reject hsid reason] ∧
    (rejectHs hsid reason s).sec.hsFail = satAdd 32 s.sec.hsFail 1 ∧ (rejectHs hsid reason s).net.shakes = s.net.shakes ∧
    (rejectHs hsid reason s).net.sess = s.net.sess := by
  unfold rejectHs
  dsimp only
  generalize hu : fire 25 0 0 reason s.sec.ownerGen { s with sec := { s.sec with hsFail := satAdd 32 s.sec.hsFail 1 } } = u
  have hn : u.net = s.net := by rw [← hu, net_fire]
  have hs : u.sec = { s.sec with hsFail := satAdd 32 s.sec.hsFail 1 } := by
    rw [← hu]
    exact sec_of_changesOnly (co_fire (L := [.evr]) _ _ _ _ _ _ (by decide) (co_refl _ _)) (by decide)
  refine ⟨?_, ?_, ?_, ?_⟩
  · change u.net.hsOut ++ _ = _
    rw [hn]
  · change u.sec.hsFail = _
    rw [hs]
  · change u.net.shakes = _
    rw [hn]
  · change u.net.sess = _
    rw [hn]

theorem hsInit_spec {m : HsInit} {s : State} (hx : (s.net.shakes.find? fun x => x.hsid == m.hsid) = none) (hr : hsReason s m = none) :
    changesOnly [.net, .dev] s (hsInit m s) ∧ (hsInit m s).net.hsOut = s.net.hsOut ++ [hsReply m s] ∧
    (hsInit m s).net.shakes = s.net.shakes ++ [hsOpen m s] ∧ (hsInit m s).net.sess = s.net.sess := by
  rw [hsInit_of_accepted hx hr]
  exact ⟨co_hsInit_accepted m s, rfl, rfl, rfl⟩

/-! ## The new session -/

theorem freeSid_congr {s t : State} (h : t.net.sess = s.net.sess) (k n : Nat) : freeSid t k n = freeSid s k n := by
  induction k generalizing n with
  | zero => rfl
  | succ k ih =>
    have hs : sesOf t n = sesOf s n := by rw [sesOf, h, sesOf]
    rw [freeSid, freeSid, hs, ih]

/-- The number a new session takes. -/
def sidOf (s : State) : Nat := freeSid s (s.net.sess.length + 2) s.net.nextSid

/-- The session that a finished handshake makes. -/
def sesMade (x : Hs) (secret : Nat) (s : State) : Ses := newSes (drawKey s).2 x.m x.answer.nonce secret (sidOf s) (drawKey s).1

/-- HS_DONE. -/
def hsDone (x : Hs) (secret : Nat) (s : State) : HsOut :=
  { HsOut.reject x.hsid (sidOf s) with
    ty := 4, attach := (drawKey s).1, lease := leaseOf s (sesMade x secret s).role, grace := graceOf s (sesMade x secret s).role
    idle := (sesMade x secret s).idle
    port := (leastPort (drawKey s).2 (1 - netOf x.m.port) 8).getD (4 * (1 - netOf x.m.port)), segsz := (sesMade x secret s).segsz }

/-- The session stands, and the handshake is finished with its answer. -/
def sesHeld (x : Hs) (sid : Nat) (e : Ses) (o : HsOut) (s : State) : State :=
  { s with net := { s.net with sess := tput Ses.init s.net.sess sid e, nextSid := (sid + 1) % 2 ^ 32
                               shakes := s.net.shakes.map fun y => if y.hsid == x.hsid then { y with answer := o, done := true } else y } }

/-- The state with the new session, before anything is attached to it. -/
def sesStarted (x : Hs) (secret : Nat) (s : State) : State := sesHeld x (sidOf s) (sesMade x secret s) (hsDone x secret s) (drawKey s).2

theorem sidOf_drawKey (s : State) : freeSid (drawKey s).2 (s.net.sess.length + 2) (drawKey s).2.net.nextSid = sidOf s :=
  freeSid_congr (s := s) (t := (drawKey s).2) rfl _ _

theorem establish_of_new {x : Hs} {secret : Nat} {s : State} (h : attachTo s x.m = none) :
    establish x secret s = sendHs (hsDone x secret s) (sesStarted x secret s) := by
  unfold establish
  dsimp only
  rw [h, sidOf_drawKey]
  rfl

theorem establish_of_attach {x : Hs} {secret k : Nat} {s : State} (h : attachTo s x.m = some k) :
    establish x secret s = sendHs (hsDone x secret s) (attachFrom k (sidOf s) (sesStarted x secret s)) := by
  unfold establish
  dsimp only
  rw [h, sidOf_drawKey]
  rfl

theorem sesOf_sesStarted_same (x : Hs) (secret : Nat) (s : State) : sesOf (sesStarted x secret s) (sidOf s) = sesMade x secret s :=
  tget_tput_same Ses.init s.net.sess (sidOf s) (sesMade x secret s)

theorem sesOf_sesStarted_ne {x : Hs} {secret k : Nat} {s : State} (h : k ≠ sidOf s) : sesOf (sesStarted x secret s) k = sesOf s k :=
  tget_tput_ne Ses.init s.net.sess (sidOf s) k (sesMade x secret s) h

theorem sesOf_sendHs (o : HsOut) (s : State) (k : Nat) : sesOf (sendHs o s) k = sesOf s k := rfl

/-- The session before its path is set. -/
def sesBare (x : Hs) (secret : Nat) (s : State) : Ses :=
  { Ses.init with
    sid := sidOf s, role := roleCode x.m.role, live := true, keys := (Config.hkdf secret (leBytes x.m.hnonce 32 ++ x.answer.nonce)).toNat
    pref := x.m.flags % 2, segsz := if bitOf x.m.flags 1 then 8192 else 1024, idle := idleOf s x.m
    leaseEnd := afterSec s (leaseOf s (roleCode x.m.role)), attach := (drawKey s).1, attachOk := true }

/-- The fields of the session that a handshake makes. -/
theorem sesMade_spec (x : Hs) (secret : Nat) (s : State) : (sesMade x secret s).live = true ∧ (sesMade x secret s).lapsed = false ∧
    (sesMade x secret s).ended = false ∧ (sesMade x secret s).closed = false ∧ (sesMade x secret s).sid = sidOf s ∧
    (sesMade x secret s).role = roleCode x.m.role ∧ (sesMade x secret s).pref = x.m.flags % 2 ∧
    (sesMade x secret s).keys = (Config.hkdf secret (leBytes x.m.hnonce 32 ++ x.answer.nonce)).toNat ∧
    (sesMade x secret s).leaseEnd = afterSec s (leaseOf s (roleCode x.m.role)) ∧ (pathOf (sesMade x secret s) (netOf x.m.port)).up = true ∧
    (hsDone x secret s).attach = (sesMade x secret s).attach ∧ (hsDone x secret s).lease = leaseOf s (roleCode x.m.role) := by
  have hk {α : Type} (p : Ses → α) (h : ∀ e a b, p { e with pathA := a, pathB := b } = p e) : p (sesMade x secret s) = p (sesBare x secret s) :=
    setPath_keeps p h _ _ _
  have hrole : (sesMade x secret s).role = roleCode x.m.role := hk Ses.role fun _ _ _ => rfl
  exact ⟨hk Ses.live fun _ _ _ => rfl, hk Ses.lapsed fun _ _ _ => rfl, hk Ses.ended fun _ _ _ => rfl, hk Ses.closed fun _ _ _ => rfl,
    hk Ses.sid fun _ _ _ => rfl, hrole, hk Ses.pref fun _ _ _ => rfl, hk Ses.keys fun _ _ _ => rfl, hk Ses.leaseEnd fun _ _ _ => rfl,
    by rw [sesMade, newSes, pathOf_setPath], (hk Ses.attach fun _ _ _ => rfl).symm, congrArg (leaseOf s) hrole⟩

theorem co_establish_of_new {x : Hs} {secret : Nat} {s : State} (h : attachTo s x.m = none) : changesOnly [.net, .dev] s (establish x secret s) := by
  rw [establish_of_new h]
  exact co_set_net _ (by decide) (co_set_net _ (by decide) (co_set_dev _ (by decide) (co_refl _ s)))

/-! ## Attaching (R371) -/

/-- An entry's session and its EXPORT's session move from one to the other. -/
def sesMoved (old new : Nat) (x : Entry) : Entry :=
  { x with ses := if x.ses = old then new else x.ses, exSession := if x.exSession = old then new else x.exSession }

/-- The entries of a list move to another session. -/
def entriesMove (old new : Nat) (l : List Nat) (s : State) : State := l.foldl (fun t ix => modEntry ix (sesMoved old new) t) s

theorem entriesMove_cons (old new i : Nat) (l : List Nat) (s : State) :
    entriesMove old new (i :: l) s = entriesMove old new l (modEntry i (sesMoved old new) s) := rfl

theorem ses_entriesMove_of_new {old new ix : Nat} (h : new ≠ old) (l : List Nat) {s : State} (hn : (entryOf s ix).ses = new) :
    (entryOf (entriesMove old new l s) ix).ses = new := by
  induction l generalizing s with
  | nil => exact hn
  | cons i l ih =>
    rw [entriesMove_cons]
    refine ih ?_
    rw [entryOf_modEntry]
    split
    · rw [sesMoved]
      exact (if_neg (by rw [hn]; exact h)).trans hn
    · exact hn

theorem ses_entriesMove {old new ix : Nat} (h : new ≠ old) {l : List Nat} {s : State} (hm : ix ∈ l) (ho : (entryOf s ix).ses = old) :
    (entryOf (entriesMove old new l s) ix).ses = new := by
  induction l generalizing s with
  | nil => cases hm
  | cons i l ih =>
    rw [entriesMove_cons]
    by_cases hi : ix = i
    · refine ses_entriesMove_of_new h l ?_
      rw [hi, entryOf_modEntry_same, sesMoved]
      exact if_pos (by rw [← hi]; exact ho)
    · refine ih ((List.mem_cons.1 hm).resolve_left hi) ?_
      rw [entryOf_modEntry_ne _ _ _ _ hi]
      exact ho

theorem entry_mem {s : State} {ix : Nat} (h : (entryOf s ix).st ≠ .free) (p : Entry → Bool) (hp : p (entryOf s ix) = true) : ix ∈ entriesWhere s p := by
  rcases tget_mem Entry.init s.req.entries ix with hi | hi
  · exact absurd (congrArg Entry.st hi) h
  · exact List.mem_map.2 ⟨_, List.mem_filter.2 ⟨hi, hp⟩, rfl⟩

/-- A session's entries moved to another session. -/
def entriesMoved (old new : Nat) (s : State) : State := entriesMove old new (entriesWhere s fun x => x.ses == old || x.exSession == old) s

/-- The completions of the earlier session's queues moved as well. -/
def queuesMoved (old new role : Nat) (s : State) : State :=
  if role < 12 then modPtn role (fun p => { p with cqs := tmapv [] (fun l => l.map fun c => if c.ses = old then { c with ses := new } else c) p.cqs }) s
  else s

/-- The messages put before the new session's, and the earlier session closed. -/
def sessionsSwapped (old new : Nat) (mine : List Msg) (s : State) : State :=
  modSes old (fun q => { q with live := false, closed := true, attachOk := false, queue := [], txIx := 0, sent := [], flight := [] })
    (modSes new (fun q => { q with queue := mine ++ q.queue }) s)

/-- What an attach leaves to be sent in the new session. -/
def sesMessages (old : Nat) (s : State) : List Msg :=
  (((sesOf s old).sent.filter fun m => decide (m.1 < (sesOf s old).txMsg)).map (·.2) ++ (sesOf s old).queue).filter (stillDue s)

theorem attachFrom_eq (old new : Nat) (s : State) : attachFrom old new s = leaseEvent (sesOf s old).role 1 new
    (sessionsSwapped old new (sesMessages old s) (queuesMoved old new (sesOf s old).role (entriesMoved old new s))) := rfl

theorem req_queuesMoved (old new role : Nat) (s : State) : (queuesMoved old new role s).req = s.req := by
  rw [queuesMoved]
  split <;> rfl

theorem sess_entriesMove (old new : Nat) (l : List Nat) (s : State) : (entriesMove old new l s).net = s.net :=
  foldl_keeps (fun t : State => t.net) (fun t ix => modEntry ix (sesMoved old new) t) (fun _ _ => rfl) l s

theorem net_queuesMoved (old new role : Nat) (s : State) : (queuesMoved old new role s).net = s.net := by
  rw [queuesMoved]
  split <;> rfl

/-- An attach closes the earlier session and moves its requests to the new one. -/
theorem attachFrom_spec {old new : Nat} (h : new ≠ old) (s : State) : (sesOf (attachFrom old new s) old).live = false ∧
    (sesOf (attachFrom old new s) old).closed = true ∧ (sesOf (attachFrom old new s) old).attachOk = false ∧
    (sesOf (attachFrom old new s) new).live = (sesOf s new).live ∧
    ∀ ix, (entryOf s ix).st ≠ .free → (entryOf s ix).ses = old → (entryOf (attachFrom old new s) ix).ses = new := by
  rw [attachFrom_eq]
  generalize hu : queuesMoved old new (sesOf s old).role (entriesMoved old new s) = u
  generalize (sesOf s old).role = role
  generalize sesMessages old s = mine
  have hnet : u.net = s.net := by rw [← hu, net_queuesMoved, entriesMoved, sess_entriesMove]
  have hold : sesOf (sessionsSwapped old new mine u) old = { sesOf u old with
      live := false, closed := true, attachOk := false, queue := [], txIx := 0, sent := [], flight := [] } := by
    rw [sessionsSwapped, sesOf_modSes_same, sesOf_modSes_ne _ _ _ _ h.symm]
  have hnew : (sesOf (sessionsSwapped old new mine u) new).live = (sesOf s new).live := by
    rw [sessionsSwapped, sesOf_modSes_ne _ _ _ _ h, sesOf_modSes_same, sesOf, hnet]; rfl
  have hj := msgsJoin.leaseEvent role 1 new (sessionsSwapped old new mine u)
  refine ⟨?_, ?_, ?_, ?_, fun ix hf ho => ?_⟩
  · rw [hj.live, hold]
  · rw [hj.closed, hold]
  · rw [hj.keeps (fun e => e.attachOk) (fun _ _ _ => rfl), hold]
  · rw [hj.live, hnew]
  · have hreq : (leaseEvent role 1 new (sessionsSwapped old new mine u)).req = (entriesMoved old new s).req := by
      rw [(co_leaseEvent (L := [.ptn, .net, .evr]) role 1 new _ (by decide) (co_refl _ _)).2 .req (by decide)]
      exact (congrArg State.req hu).symm.trans (req_queuesMoved ..)
    rw [entryOf, hreq]
    exact ses_entriesMove h (entry_mem hf _ (by simp [ho])) ho

/-! ## HS_KEY and the timeout -/

theorem exec_hsKey {port hsid secret : Nat} (h1 : port < 8) (h2 : hsid < 2 ^ 32) (h3 : secret < 2 ^ 512) {s : State} (ht : portTakes s port = true)
    (sigOk : Bool) : exec (.hsKey port hsid sigOk secret) s = .next (hsKey hsid sigOk secret s) := by
  change execHsKey port hsid sigOk secret s = _
  rw [execHsKey, decide_eq_true h1, decide_eq_true h2, decide_eq_true h3, ht]; rfl

theorem hsKey_eq {hsid secret : Nat} {sigOk : Bool} {s : State} {x : Hs} (hx : (s.net.shakes.find? fun x => x.hsid == hsid) = some x)
    (hd : x.done = false) : hsKey hsid sigOk secret s =
    if x.us + 2000000 < s.clk.us then s else if !sigOk then rejectHs hsid 1 (dropShake hsid s)
    else if sesFull s x.m.role then rejectHs hsid 2 (dropShake hsid s) else establish x secret s := by
  rw [hsKey, hx]
  dsimp only
  rw [hd, if_neg (by simp)]

theorem shakes_dropShake {hsid : Nat} {s : State} {y : Hs} (h : y ∈ (dropShake hsid s).net.shakes) : y.hsid ≠ hsid := by
  have := (List.mem_filter.1 h).2
  simpa using this

/-- A handshake that ends without a session. -/
def shakeLate (hsid : Nat) (done : Bool) (s : State) : State :=
  if done then dropShake hsid s
  else { dropShake hsid s with sec := { (dropShake hsid s).sec with hsFail := satAdd 32 (dropShake hsid s).sec.hsFail 1 } }

theorem exec_handshakeTimeout_of_none {hsid : Nat} (h : hsid < 2 ^ 32) {s : State} (hx : (s.net.shakes.find? fun x => x.hsid == hsid) = none) :
    exec (.handshakeTimeout hsid) s = .next s := by
  change execHandshakeTimeout hsid s = _
  rw [execHandshakeTimeout, decide_eq_true h, hx]; rfl

theorem exec_handshakeTimeout {hsid : Nat} (h : hsid < 2 ^ 32) {s : State} {x : Hs} (hx : (s.net.shakes.find? fun x => x.hsid == hsid) = some x) :
    exec (.handshakeTimeout hsid) s = .next (if x.us + 2000000 ≤ s.clk.us then shakeLate hsid x.done s else s) := by
  change execHandshakeTimeout hsid s = _
  rw [execHandshakeTimeout, decide_eq_true h, hx]; rfl

theorem shakeLate_spec (hsid : Nat) (done : Bool) (s : State) : changesOnly [.net, .sec] s (shakeLate hsid done s) ∧
    (∀ y ∈ (shakeLate hsid done s).net.shakes, y.hsid ≠ hsid) ∧
    (shakeLate hsid done s).sec.hsFail = if done then s.sec.hsFail else satAdd 32 s.sec.hsFail 1 := by
  have hd : changesOnly [.net, .sec] s (dropShake hsid s) := co_set_net _ (by decide) (co_refl _ s)
  cases done with
  | true => exact ⟨hd, fun y hy => shakes_dropShake hy, rfl⟩
  | false => exact ⟨co_set_sec _ (by decide) hd, fun y hy => shakes_dropShake hy, rfl⟩

/-- Settles O47: a handshake is answered, finished as a session, or dropped; an attach moves the earlier session's requests. -/
theorem handshakes : Obligations.Handshakes := by
  refine fun s => ⟨fun m h1 h2 h3 h4 h5 h6 => ⟨fun h => ?_, fun hp hv hrom => ⟨fun x hx => ?_, fun hx => ⟨fun r hr => ?_, fun hr => ?_⟩⟩⟩,
    fun port hsid sigOk secret x h1 h2 h3 ht hx hd => ⟨fun h => ?_, fun h hs => ?_, fun h hs hf => ?_, fun h hs hf => ?_⟩,
    fun hsid h => ⟨exec_handshakeTimeout_of_none h, fun x hx => ⟨fun hu => ?_, fun hu => ?_⟩⟩⟩
  · rw [exec_hsInit h1 h2 h3 h4 h5 h6, if_neg]
    rcases h with h | h | h <;> simp [h]
  · refine ⟨sendHs x.answer s, ?_, co_set_net _ (by decide) (co_refl _ s), rfl, rfl, rfl⟩
    rw [exec_hsInit h1 h2 h3 h4 h5 h6, if_pos (by simp [hp, hv, hrom]), hsInit_of_repeat hx]
  · refine ⟨rejectHs m.hsid r s, ?_, co_rejectHs _ _ _ (by decide) (co_refl _ s), rejectHs_spec m.hsid r s⟩
    rw [exec_hsInit h1 h2 h3 h4 h5 h6, if_pos (by simp [hp, hv, hrom]), hsInit_of_reason hx hr]
  · obtain ⟨hco, ho, hk, he⟩ := hsInit_spec hx hr
    refine ⟨hsInit m s, hsReply m s, hsOpen m s, ?_, hco, ho, rfl, rfl, rfl, hk, rfl, rfl, rfl, rfl, rfl, he⟩
    rw [exec_hsInit h1 h2 h3 h4 h5 h6, if_pos (by simp [hp, hv, hrom])]
  · rw [exec_hsKey h1 h2 h3 ht, hsKey_eq hx hd, if_pos h]
  · obtain ⟨ho, hc, hk, he⟩ := rejectHs_spec hsid 1 (dropShake hsid s)
    refine ⟨rejectHs hsid 1 (dropShake hsid s), ?_, ho, hc, he, fun y hy => shakes_dropShake (s := s) (by rw [← hk]; exact hy)⟩
    rw [exec_hsKey h1 h2 h3 ht, hsKey_eq hx hd, if_neg (by omega), if_pos (by simp [hs])]
  · obtain ⟨ho, -, -, he⟩ := rejectHs_spec hsid 2 (dropShake hsid s)
    refine ⟨rejectHs hsid 2 (dropShake hsid s), ?_, ho, he⟩
    rw [exec_hsKey h1 h2 h3 ht, hsKey_eq hx hd, if_neg (by omega), if_neg (by simp [hs]), if_pos hf]
  · intro sid
    have hsid : sid = sidOf s := rfl
    clear_value sid
    subst hsid
    refine ⟨establish x secret s, ?_, fun ha => ?_, fun k ha hk => ?_⟩
    · rw [exec_hsKey h1 h2 h3 ht, hsKey_eq hx hd, if_neg (by omega), if_neg (by simp [hs]), if_neg (by simp [hf])]
    · refine ⟨co_establish_of_new ha, fun k hk => ?_, ?_⟩
      · rw [establish_of_new ha, sesOf_sendHs, sesOf_sesStarted_ne hk]
      · rw [establish_of_new ha, sesOf_sendHs, sesOf_sesStarted_same]
        obtain ⟨m1, m2, m3, m4, m5, m6, m7, m8, m9, m10, m11, m12⟩ := sesMade_spec x secret s
        exact ⟨m1, m2, m3, m4, m5, m6, m7, m8, m9, m10, hsDone x secret s, rfl, rfl, rfl, m12, m11⟩
    · obtain ⟨a1, a2, a3, a4, a5⟩ := attachFrom_spec (old := k) hk.symm (sesStarted x secret s)
      rw [establish_of_attach ha, sesOf_sendHs, sesOf_sendHs]
      exact ⟨a1, a2, a3, a4.trans (by rw [sesOf_sesStarted_same]; exact (sesMade_spec x secret s).1), a5⟩
  · rw [exec_handshakeTimeout h hx, if_neg (by omega)]
  · refine ⟨shakeLate hsid x.done s, ?_, shakeLate_spec hsid x.done s⟩
    rw [exec_handshakeTimeout h hx, if_pos hu]

end Sys2Proof.Machine
end

section
/-! What faults, drains and the writing of a spare leave of unit history (R412 to R418). -/

namespace Sys2Proof.Machine

/-! ## Values of unit history that a drain leaves alone -/

/-- A value of unit history that neither the drain decision, a saved copy nor a stored record writes. -/
structure beside {α : Type} (p : HistSt → α) : Prop where
  drain : ∀ h d u c, p { h with draining := d, drainUs := u, cause := c } = p h
  saved : ∀ h d l x y a b, p { h with dirty := d, lastWr := l, copyA := x, copyB := y, seqA := a, seqB := b } = p h
  stored : ∀ h r w d, p { h with records := r, window := w, dirty := d } = p h

/-- A value of unit history stays under an abandon: none is in flight, or the value does not speak of the audit samples. -/
def offStep {α : Type} (p : HistSt → α) (s : State) : Prop := s.sch.cur = none ∨ ∀ h a, p { h with audit := a } = p h

theorem hist_sendAbandon {α : Type} {p : HistSt → α} {s : State} (ho : offStep p s) (again : Bool) : p (sendAbandon again s).hist = p s.hist := by
  unfold sendAbandon
  split
  case h_2 => rfl
  case h_1 c hc =>
    rcases ho with h | h
    · rw [h] at hc; cases hc
    · dsimp only
      rw [seqs_schedToAll]
      exact h s.hist _

theorem hist_updReplied (u : Hdr) (cls : Nat) (s : State) :
    (replyLate u 8 0 u.handle (leBytes 4 4) (fire 24 0 0 4 cls { s with sec := { s.sec with upd := none, updNow := false } })).hist = s.hist :=
  hist_of_changesOnly (L := [.net, .evr, .sec]) (co_replyLate _ _ _ _ _ _ (by decide) (co_fire _ _ _ _ _ _ (by decide)
    (co_set_sec _ (by decide) (co_refl _ s)))) (by decide)

theorem hist_updRevert {α : Type} {p : HistSt → α} {s : State} (ho : offStep p s) : p (updRevert s).hist = p s.hist := by
  unfold updRevert
  split
  · rfl
  · dsimp only
    rw [hist_updReplied]
    split
    · exact hist_sendAbandon ho false
    · rfl

theorem beside.uhWrite {α : Type} {p : HistSt → α} (hp : beside p) (s : State) : p (uhWrite s).hist = p s.hist := by
  unfold Machine.uhWrite
  dsimp only
  split
  · exact hp.saved s.hist false s.clk.us _ _ _ _
  · exact hp.saved s.hist false s.clk.us _ _ _ _

theorem beside.drained {α : Type} {p : HistSt → α} (hp : beside p) (us cause unit level : Nat) (s : State) :
    p (drained us cause unit level s).hist = p s.hist := by
  unfold Machine.drained
  rw [hist_of_changesOnly (co_evrCommit (L := [.evr, .dev]) _ (by decide) (co_setMstate _ _ (by decide) (co_refl _ _))) (by decide), hp.uhWrite,
    hist_of_changesOnly (co_raiseAll (L := [.ptn, .net, .evr]) _ _ _ (by decide) (co_raiseAll _ _ _ (by decide)
      (co_fire _ _ _ _ _ _ (by decide) (co_refl _ _)))) (by decide)]
  exact hp.drain s.hist true us cause

theorem beside.drainDecision {α : Type} {p : HistSt → α} (hp : beside p) (cause unit level : Nat) {s : State} (ho : offStep p s) :
    p (drainDecision cause unit level s).hist = p s.hist := by
  rw [drainDecision_eq]
  split
  · rfl
  · rw [hp.drained, hist_updRevert ho]

/-- After the drain decision the module drains or is in REPLACE. -/
theorem drains_drainDecision (cause unit level : Nat) (s : State) :
    ((Machine.drainDecision cause unit level s).hist.draining || (Machine.drainDecision cause unit level s).hist.inRepl) = true := by
  rw [drainDecision_eq]
  split
  · assumption
  · rw [(hist_drained s.clk.us cause unit level (updRevert s)).1]
    rfl

theorem beside.storeRecord {α : Type} {p : HistSt → α} (hp : beside p) (r : FaultRec) (s : State) : p (storeRecord r s).hist = p s.hist := by
  unfold Machine.storeRecord
  dsimp only
  split
  · exact hp.stored s.hist _ s.hist.window true
  · split
    · exact hp.stored s.hist _ s.hist.window true
    · exact hp.stored s.hist s.hist.records _ true

theorem hist_faultNoted (unit level kind detail : Nat) (recurs : Bool) (s : State) : (faultNoted unit level kind detail recurs s).hist =
    (countFault (faultPermanent unit level kind recurs s) (storeRecord (faultRecord unit level kind detail recurs s) s)).hist := by
  unfold faultNoted
  dsimp only
  split
  · exact hist_of_changesOnly (co_healthUnit (L := [.ptn, .net, .evr]) _ _ _ _ (by decide) (co_fire _ _ _ _ _ _ (by decide) (co_refl _ _))) (by decide)
  · exact hist_of_changesOnly (co_fire (L := [.evr]) _ _ _ _ _ _ (by decide) (co_refl _ _)) (by decide)

/-- A value of unit history that a fault's counters do not change either. -/
structure besideFaults {α : Type} (p : HistSt → α) : Prop extends beside p where
  counted : ∀ h a b, p { h with faultsT := a, faultsP := b } = p h

theorem besideFaults.faultNoted {α : Type} {p : HistSt → α} (hp : besideFaults p) (unit level kind detail : Nat) (recurs : Bool) (s : State) :
    p (faultNoted unit level kind detail recurs s).hist = p s.hist := by
  rw [hist_faultNoted, ← hp.storeRecord (faultRecord unit level kind detail recurs s) s]
  exact hp.counted _ _ _

/-- A value of unit history that a fence which becomes due does not change either. -/
structure besideFences {α : Type} (p : HistSt → α) : Prop extends besideFaults p where
  role : ∀ h r f, p { h with remap := r, fences := f } = p h

theorem besideFences.retireSpare {α : Type} {p : HistSt → α} (hp : besideFences p) (core : Nat) (s : State) : p (retireSpare core s).hist = p s.hist := by
  unfold Machine.retireSpare
  split
  · exact hp.role s.hist _ s.hist.fences
  · exact hp.role s.hist s.hist.remap _

theorem cur_retireSpare (core : Nat) (s : State) : (retireSpare core s).sch.cur = s.sch.cur := by
  unfold retireSpare
  split <;> rfl

theorem besideFences.nextSpare {α : Type} {p : HistSt → α} (hp : besideFences p) (core : Nat) {s : State} (ho : offStep p s) :
    p (nextSpare core s).hist = p s.hist := by
  unfold Machine.nextSpare
  dsimp only
  generalize hu : Machine.retireSpare core { s with hist := { s.hist with fences := s.hist.fences.map fun f =>
    if f.spare == core && f.ph != 0 then { f with ph := 0, spare := 0, us := s.clk.us } else f } } = u
  have h1 : p u.hist = p s.hist := by
    rw [← hu, hp.retireSpare]
    exact hp.role s.hist s.hist.remap _
  have h2 : offStep p u := ho.imp_left fun h => by rw [← hu, cur_retireSpare]; exact h
  split
  · rw [hp.drainDecision _ _ _ h2, h1]
  · exact h1

theorem besideFences.addFence {α : Type} {p : HistSt → α} (hp : besideFences p) (core : Nat) {s : State} (ho : offStep p s) :
    p (addFence core s).hist = p s.hist := by
  unfold Machine.addFence
  dsimp only
  split
  · exact hp.drainDecision _ _ _ ho
  · split
    · rw [hist_of_changesOnly (co_fire (L := [.evr]) _ _ _ _ _ _ (by decide) (co_refl _ _)) (by decide)]
      exact hp.role s.hist s.hist.remap _
    · exact hp.role s.hist s.hist.remap _

theorem besideFences.fenceDue {α : Type} {p : HistSt → α} (hp : besideFences p) (core : Nat) {s : State} (ho : offStep p s) :
    p (fenceDue core s).hist = p s.hist := by
  unfold Machine.fenceDue
  dsimp only
  split
  · rfl
  · split
    · exact hp.nextSpare core ho
    · split
      · exact hp.retireSpare core s
      · exact hp.addFence core ho

theorem sch_faultSaved (unit level kind detail : Nat) (recurs : Bool) (s : State) : (uhWrite (faultNoted unit level kind detail recurs s)).sch = s.sch :=
  (co_uhWrite (L := [.ptn, .net, .hist, .evr]) _ (by decide) (co_faultNoted _ _ _ _ _ s (by decide) (co_refl _ s))).2 .sch (by decide)

theorem offStep.saved {α : Type} {p : HistSt → α} {s : State} (ho : offStep p s) (unit level kind detail : Nat) (recurs : Bool) :
    offStep p (uhWrite (faultNoted unit level kind detail recurs s)) := ho.imp_left fun h => by rw [sch_faultSaved]; exact h

theorem besideFences.recordFault {α : Type} {p : HistSt → α} (hp : besideFences p) (unit level kind detail : Nat) (recurs : Bool) {s : State}
    (ho : offStep p s) : p (recordFault unit level kind detail recurs s).hist = p s.hist := by
  have hsaved : p (Machine.uhWrite (Machine.faultNoted unit level kind detail recurs s)).hist = p s.hist := by rw [hp.uhWrite, hp.faultNoted]
  rw [recordFault_eq]
  split
  · exact hp.faultNoted ..
  · split
    · rw [hp.fenceDue _ (ho.saved ..), hsaved]
    · rw [hp.drainDecision _ _ _ (ho.saved ..), hsaved]

theorem besideFaults_remap : besideFaults HistSt.remap := ⟨⟨fun _ _ _ _ => rfl, fun _ _ _ _ _ _ _ => rfl, fun _ _ _ _ => rfl⟩, fun _ _ _ => rfl⟩
theorem besideFaults_cycles : besideFaults HistSt.cycles := ⟨⟨fun _ _ _ _ => rfl, fun _ _ _ _ _ _ _ => rfl, fun _ _ _ _ => rfl⟩, fun _ _ _ => rfl⟩
theorem besideFaults_fences : besideFaults HistSt.fences := ⟨⟨fun _ _ _ _ => rfl, fun _ _ _ _ _ _ _ => rfl, fun _ _ _ _ => rfl⟩, fun _ _ _ => rfl⟩

/-! ## Work on a spare -/

/-- Only one core's role may have changed, and its program cycles have not fallen. -/
structure spareWork (sp : Nat) (s t : State) : Prop where
  role : ∀ k, k ≠ sp → roleOf t k = roleOf s k
  worn : ∀ n, n ≤ 65535 → n ≤ tget 0 s.hist.cycles sp → n ≤ tget 0 t.hist.cycles sp

theorem spareWork.of_cores {sp : Nat} {s t : State} (hr : t.hist.remap = s.hist.remap) (hc : t.hist.cycles = s.hist.cycles) : spareWork sp s t :=
  ⟨fun k _ => by rw [roleOf, hr, roleOf], fun n _ h => by rw [hc]; exact h⟩

theorem spareWork.of_hist {sp : Nat} {s t : State} (h : t.hist = s.hist) : spareWork sp s t := .of_cores (by rw [h]) (by rw [h])

theorem spareWork.refl (sp : Nat) (s : State) : spareWork sp s s := .of_hist rfl

theorem spareWork.trans {sp : Nat} {s t u : State} (h : spareWork sp s t) (k : spareWork sp t u) : spareWork sp s u :=
  ⟨fun c hc => (k.role c hc).trans (h.role c hc), fun n hn hs => k.worn n hn (h.worn n hn hs)⟩

theorem spareWork.after {sp : Nat} {s u t : State} (h : spareWork sp u t) (hu : u.hist = s.hist) : spareWork sp s t := (spareWork.of_hist hu).trans h

theorem spareWork.after_cores {sp : Nat} {s u t : State} (h : spareWork sp u t) (hr : u.hist.remap = s.hist.remap) (hc : u.hist.cycles = s.hist.cycles) :
    spareWork sp s t := (spareWork.of_cores hr hc).trans h

theorem spareWork.foldl {β : Type} {sp : Nat} {f : State → β → State} (P : β → Prop) (h : ∀ t x, P x → spareWork sp t (f t x)) (l : List β)
    (hl : ∀ x ∈ l, P x) (s : State) : spareWork sp s (l.foldl f s) := by
  induction l generalizing s with
  | nil => exact spareWork.refl sp s
  | cons x l ih => exact (h s x (hl x List.mem_cons_self)).trans (ih (fun y hy => hl y (List.mem_cons_of_mem x hy)) _)

theorem roleOf_setRole_same (core pos st : Nat) (s : State) : roleOf (setRole core pos st s) core = (pos, st) :=
  tget_tput_same (remapInit core) s.hist.remap core (pos, st)

theorem tget_tput_ne_of {α : Type} [DecidableEq α] (d d' : α) (t : Tab α) (k j : Nat) (v : α) (h : j ≠ k) : tget d (tput d' t k v) j = tget d t j := by
  unfold tput
  dsimp only
  split
  · rw [tget_drop, if_neg h]
  · rw [tget_tins _ _ _ _ _ (fun e he => by simpa using (List.mem_filter.mp he).2), if_neg h, tget_drop, if_neg h]

theorem roleOf_setRole_ne {core k : Nat} (h : k ≠ core) (pos st : Nat) (s : State) : roleOf (setRole core pos st s) k = roleOf s k :=
  tget_tput_ne_of (remapInit k) (remapInit core) s.hist.remap core k (pos, st) h

theorem spareWork.setRole (sp pos st : Nat) (s : State) : spareWork sp s (setRole sp pos st s) :=
  ⟨fun _ h => roleOf_setRole_ne h pos st s, fun _ _ h => h⟩

theorem spareWork.drainDecision (sp cause unit level : Nat) (s : State) : spareWork sp s (drainDecision cause unit level s) :=
  .of_cores (besideFaults_remap.drainDecision _ _ _ (.inr fun _ _ => rfl)) (besideFaults_cycles.drainDecision _ _ _ (.inr fun _ _ => rfl))

theorem spareWork.retireSpare (sp : Nat) (s : State) : spareWork sp s (retireSpare sp s) := by
  unfold Machine.retireSpare
  split
  · exact spareWork.setRole ..
  · exact .of_cores rfl rfl

theorem spareWork.nextSpare (sp : Nat) (s : State) : spareWork sp s (nextSpare sp s) := by
  unfold Machine.nextSpare
  dsimp only
  have hret : spareWork sp s (Machine.retireSpare sp { s with hist := { s.hist with fences := s.hist.fences.map fun f =>
      if f.spare == sp && f.ph != 0 then { f with ph := 0, spare := 0, us := s.clk.us } else f } }) :=
    (spareWork.retireSpare sp _).after_cores rfl rfl
  split
  · exact hret.trans (spareWork.drainDecision ..)
  · exact hret

theorem spareWork.addFence (sp core : Nat) (s : State) : spareWork sp s (addFence core s) := by
  unfold Machine.addFence
  dsimp only
  split
  · exact spareWork.drainDecision ..
  · split
    · have hf := hist_of_changesOnly (co_fire (L := [.evr]) 29 (clusterOf core) 1 0 (clNum (clusterOf core))
        { s with hist := { s.hist with fences := s.hist.fences ++ [{ core := core, spare := 0, ph := 0, us := s.clk.us }] } } (by decide) (co_refl _ _)) (by decide)
      exact .of_cores (by rw [hf]) (by rw [hf])
    · exact .of_cores rfl rfl

theorem spareWork.fenceDue (sp : Nat) (s : State) : spareWork sp s (fenceDue sp s) := by
  unfold Machine.fenceDue
  dsimp only
  split
  · exact spareWork.refl sp s
  · split
    · exact spareWork.nextSpare ..
    · split
      · exact spareWork.retireSpare ..
      · exact spareWork.addFence ..

/-- A fault of a spare, or one outside the cores. -/
theorem spareWork.recordFault {sp unit level : Nat} (h : 2 ≤ level → coreOf unit = sp) (kind detail : Nat) (recurs : Bool) (s : State) :
    spareWork sp s (recordFault unit level kind detail recurs s) := by
  have hnoted : spareWork sp s (faultNoted unit level kind detail recurs s) := .of_cores (besideFaults_remap.faultNoted ..) (besideFaults_cycles.faultNoted ..)
  have huh : spareWork sp s (uhWrite (faultNoted unit level kind detail recurs s)) :=
    hnoted.trans (.of_cores (besideFaults_remap.uhWrite _) (besideFaults_cycles.uhWrite _))
  rw [recordFault_eq]
  split
  · exact hnoted
  · split
    · next hl => rw [h hl]; exact huh.trans (spareWork.fenceDue ..)
    · exact huh.trans (spareWork.drainDecision ..)

/-! ## Program cycles -/

/-- A core's program cycles counted. -/
def cycleCounted (core : Nat) (s : State) : State :=
  { s with hist := { s.hist with cycles := tput 0 s.hist.cycles core (satAdd 16 (tget 0 s.hist.cycles core) 1), dirty := true } }

theorem hist_addCycle (core : Nat) (s : State) : (addCycle core s).hist = (cycleCounted core s).hist := by
  unfold addCycle
  dsimp only
  split
  · exact hist_of_changesOnly (co_healthUnit (L := [.ptn, .net]) core 2 18 (cycleCounted core s) (by decide) (co_refl _ _)) (by decide)
  · rfl

theorem cycles_addCycle_same (core : Nat) (s : State) : tget 0 (addCycle core s).hist.cycles core = min (tget 0 s.hist.cycles core + 1) 65535 := by
  rw [hist_addCycle]
  exact tget_tput_same 0 s.hist.cycles core (satAdd 16 (tget 0 s.hist.cycles core) 1)

theorem roleOf_addCycle (core : Nat) (s : State) (k : Nat) : roleOf (addCycle core s) k = roleOf s k := by
  rw [roleOf, hist_addCycle]; rfl

theorem spareWork.addCycle (sp core : Nat) (s : State) : spareWork sp s (addCycle core s) := by
  refine ⟨fun k _ => roleOf_addCycle core s k, fun n hn h => ?_⟩
  by_cases hc : sp = core
  · rw [← hc, cycles_addCycle_same]
    omega
  · rw [hist_addCycle]
    exact h.trans_eq (tget_tput_ne 0 s.hist.cycles core sp _ hc).symm

theorem spareWork.wearCore {sp core : Nat} (h : coreOf core = sp) (s : State) : spareWork sp s (wearCore s core) := by
  unfold Machine.wearCore
  split
  · exact spareWork.recordFault (fun _ => h) ..
  · exact spareWork.addCycle ..

theorem spareWork.exhaustArray {sp array : Nat} (h : coreOf array = sp) (detail : Nat) (s : State) : spareWork sp s (exhaustArray array detail s) := by
  unfold Machine.exhaustArray
  split
  · exact spareWork.refl sp s
  · exact (spareWork.recordFault (fun _ => h) ..).after rfl

theorem coreOf_coreOf (u : Nat) : coreOf (coreOf u) = coreOf u := by
  unfold coreOf upTo
  omega

theorem spareWork.remapCol {sp array : Nat} (h : coreOf array = sp) (col : Nat) (s : State) : spareWork sp s (remapCol array col s) := by
  unfold Machine.remapCol
  dsimp only
  split
  · exact spareWork.exhaustArray h col s
  · split
    · exact spareWork.wearCore (by rw [coreOf_coreOf, h]) s
    · refine spareWork.trans ?_ (spareWork.of_hist (foldl_keeps (fun t : State => t.hist) (sparePass _) (fun _ _ => rfl) _ _))
      split
      · exact .of_hist rfl
      · exact (spareWork.addCycle ..).after rfl

/-- The list entries of an engine, and the remaps wanted on it, leave. -/
def wantsTaken (eng : Nat) (s : State) : State :=
  { s with arr := { s.arr with
    remapWant := s.arr.remapWant.filter fun w => engineOf w.1 != eng
    digcol := s.arr.digcol.foldl (fun t e => tput [] t e.1 (e.2.filter fun d => engineOf d.array != eng)) [] } }

/-- The remaps that R89 asked for on an engine's arrays. -/
def wantsOf (eng : Nat) (s : State) : List (Nat × Nat) := s.arr.remapWant.filter fun w => engineOf w.1 == eng

theorem programEngine_eq (eng : Nat) (s : State) : programEngine eng s =
    (wantsOf eng s).foldl (fun t w => remapCol w.1 (nth w.2 (colPerm t w.1) w.2) t) (wantsTaken eng s) := rfl

theorem coreOf_of_engineOf {u sp e : Nat} (hs : coreOf sp = sp) (he : e < 16) (h : engineOf u = mkEngine sp e) : coreOf u = sp := by
  simp only [engineOf, mkEngine, upTo, Nat.reducePow] at h
  simp only [coreOf, upTo, Nat.reducePow] at hs ⊢
  have hcore : u / 65536 = u / 4096 / 16 := by rw [Nat.div_div_eq_div_mul]
  generalize u / 4096 = a at h hcore
  have hq : a / 16 = sp / 65536 := by omega
  rw [hcore, hq, hs]

theorem hist_wantsTaken (eng : Nat) (s : State) : (wantsTaken eng s).hist = s.hist := rfl

theorem mem_wantsOf {w : Nat × Nat} {sp e : Nat} {s : State} (hs : coreOf sp = sp) (he : e < 16) (h : w ∈ wantsOf (mkEngine sp e) s) :
    w ∈ s.arr.remapWant ∧ coreOf w.1 = sp :=
  ⟨(List.mem_filter.1 h).1, coreOf_of_engineOf hs he (by simpa using (List.mem_filter.1 h).2)⟩

theorem spareWork.programEngine {sp e : Nat} (hs : coreOf sp = sp) (he : e < 16) (s : State) : spareWork sp s (programEngine (mkEngine sp e) s) := by
  rw [programEngine_eq]
  refine spareWork.after (u := wantsTaken (mkEngine sp e) s) ?_ (hist_wantsTaken _ s)
  exact spareWork.foldl (fun w : Nat × Nat => coreOf w.1 = sp) (fun t w hw => spareWork.remapCol hw _ t) _ (fun w hw => (mem_wantsOf hs he hw).2) _

theorem spareWork.programCore {sp : Nat} (hs : coreOf sp = sp) (s : State) : spareWork sp s (programCore sp s) :=
  spareWork.foldl (fun e => e < 16) (fun t _ he => spareWork.programEngine hs he t) (List.range 16) (fun _ he => List.mem_range.1 he) s

/-- No remap is wanted on a core. -/
def unwanted (core : Nat) (s : State) : Prop := ∀ w ∈ s.arr.remapWant, coreOf w.1 ≠ core

theorem programEngine_of_unwanted {sp e : Nat} (hs : coreOf sp = sp) (he : e < 16) {s : State} (hu : unwanted sp s) :
    programEngine (mkEngine sp e) s = wantsTaken (mkEngine sp e) s := by
  have hw : wantsOf (mkEngine sp e) s = [] := List.eq_nil_iff_forall_not_mem.2 fun w hw =>
    hu w (mem_wantsOf hs he hw).1 (mem_wantsOf hs he hw).2
  rw [programEngine_eq, hw]
  rfl

theorem hist_programEngines {sp : Nat} (hs : coreOf sp = sp) (l : List Nat) (hl : ∀ e ∈ l, e < 16) {s : State} (hu : unwanted sp s) :
    (l.foldl (fun t e => programEngine (mkEngine sp e) t) s).hist = s.hist := by
  induction l generalizing s with
  | nil => rfl
  | cons e l ih =>
    rw [List.foldl_cons, programEngine_of_unwanted hs (hl e List.mem_cons_self) hu,
      ih (fun x hx => hl x (List.mem_cons_of_mem e hx)) fun w hw => hu w (List.mem_filter.1 hw).1]
    rfl

/-- Programming a core on which no remap is wanted leaves unit history as it is. -/
theorem hist_programCore {sp : Nat} (hs : coreOf sp = sp) {s : State} (hu : unwanted sp s) : (programCore sp s).hist = s.hist :=
  hist_programEngines hs _ (fun _ he => List.mem_range.1 he) hu

/-! ## Filling a spare -/

/-- A spare with what belongs to a position, before it is written. -/
def spareLoaded (core sp : Nat) (s : State) : State := dropSilicon sp (unwrite sp (copyPos core sp s))

theorem fillSpare_eq (core sp : Nat) (s : State) : fillSpare core sp s = addCycle sp (programCore sp (spareLoaded core sp s)) := rfl

theorem hist_spareLoaded (core sp : Nat) (s : State) : (spareLoaded core sp s).hist = s.hist := rfl

theorem roleOf_fillSpare_ne {core sp k : Nat} (hs : coreOf sp = sp) (hk : k ≠ sp) (s : State) : roleOf (fillSpare core sp s) k = roleOf s k := by
  rw [fillSpare_eq, roleOf_addCycle, (spareWork.programCore hs _).role k hk]
  rfl

/-- Writing a spare costs it a program cycle. -/
theorem cycles_fillSpare_le {core sp : Nat} (hs : coreOf sp = sp) {s : State} (hc : tget 0 s.hist.cycles sp < 10000) :
    tget 0 s.hist.cycles sp + 1 ≤ tget 0 (fillSpare core sp s).hist.cycles sp := by
  have h := (spareWork.programCore hs (spareLoaded core sp s)).worn (tget 0 s.hist.cycles sp) (by omega) (by rw [hist_spareLoaded])
  rw [fillSpare_eq, cycles_addCycle_same]
  omega

theorem hist_fillSpare {core sp : Nat} (hs : coreOf sp = sp) {s : State} (hu : unwanted sp s) :
    (fillSpare core sp s).hist = (cycleCounted sp s).hist := by
  have hp : (programCore sp (spareLoaded core sp s)).hist = s.hist := hist_programCore hs (s := spareLoaded core sp s) hu
  rw [fillSpare_eq, hist_addCycle, cycleCounted, hp]
  rfl

theorem cycles_fillSpare_of_unwanted {core sp : Nat} (hs : coreOf sp = sp) {s : State} (hu : unwanted sp s) (hc : tget 0 s.hist.cycles sp < 10000) :
    tget 0 (fillSpare core sp s).hist.cycles sp = tget 0 s.hist.cycles sp + 1 := by
  rw [hist_fillSpare hs hu]
  refine (tget_tput_same 0 s.hist.cycles sp (satAdd 16 (tget 0 s.hist.cycles sp) 1)).trans ?_
  have : satAdd 16 (tget 0 s.hist.cycles sp) 1 = min (tget 0 s.hist.cycles sp + 1) 65535 := rfl
  rw [this]
  omega

theorem unwanted_of_wants {sp : Nat} {s t : State} (h : t.arr.remapWant = s.arr.remapWant) (hu : unwanted sp s) : unwanted sp t := fun w hw =>
  hu w (by rw [← h]; exact hw)

theorem mem_coresOf {cl sp : Nat} (h : sp ∈ coresOf (clusterOf cl)) : coreOf sp = sp := by
  obtain ⟨c, hc, rfl⟩ := List.mem_map.1 h
  unfold mkCore clusterOf coreOf upTo
  omega

theorem mem_coresIn {s : State} {cl st sp : Nat} (h : sp ∈ coresIn s cl st) : sp ∈ coresOf cl ∧ (roleOf s sp).2 = st :=
  ⟨(List.mem_filter.1 h).1, by simpa using (List.mem_filter.1 h).2⟩

end Sys2Proof.Machine
end

section
/-! Fences, the drain budget and REPLACE (R103, R180, R351, R372, R411, R414 to R419). -/

namespace Sys2Proof.Machine

/-! ## Starting a fence -/

theorem exec_fenceStart {core : Nat} (h : isCore core = true) (s : State) : exec (.fenceStart core) s = .next (fenceStart core s) := by
  change execFenceStart core s = _
  rw [execFenceStart, h]; rfl

/-- A due fence by the spare it takes, once nothing keeps it from beginning. -/
def fenceTaken (core : Nat) (s : State) : Option Nat → State
  | some sp => if (roleOf s sp).2 = 2 ∧ coreInPass s sp then s else beginFence core sp s
  | none => drainDecision 1 core 2 s

/-- A core that holds no position leaves the fences for STATE 3. -/
def spareRetired (core : Nat) (s : State) : State :=
  setRole core 31 3 { s with hist := { s.hist with fences := s.hist.fences.filter (·.core != core) } }

theorem fenceStart_eq {core : Nat} {s : State} {f : Fence} (hf : s.hist.fences.find? (·.core == core) = some f) : fenceStart core s =
    if s.sch.cur.isSome then s
    else if (roleOf s core).2 != 0 && (roleOf s core).2 != 3 then spareRetired core s
    else if s.cal.gap || holding s || !fenceStartable s f then s
    else fenceTaken core s (spareFor s (clusterOf core)) := by
  unfold fenceStart
  rw [hf]
  dsimp only
  cases spareFor s (clusterOf core) <;> rfl

/-- The spare of a fence: a core in STATE 1 or 2 of its cluster, under its rated cycles. -/
theorem spareFor_spec {s : State} {core sp : Nat} (h : spareFor s (clusterOf core) = some sp) : coreOf sp = sp ∧
    ((roleOf s sp).2 = 1 ∨ (roleOf s sp).2 = 2) ∧ tget 0 s.hist.cycles sp < 10000 := by
  obtain ⟨hm, hf⟩ := List.mem_filter.1 (List.mem_of_head? h)
  have hc : tget 0 s.hist.cycles sp < 10000 := by
    have := (Bool.and_eq_true_iff.1 hf).2
    simpa using this
  rcases List.mem_append.1 hm with hm | hm
  · exact ⟨mem_coresOf (mem_coresIn hm).1, .inl (mem_coresIn hm).2, hc⟩
  · exact ⟨mem_coresOf (mem_coresIn hm).1, .inr (mem_coresIn hm).2, hc⟩

/-- The audit copy that a fence takes is given up first. -/
def copyGivenUp (core sp : Nat) (s : State) : State :=
  if (roleOf s sp).2 = 2 then fire 2 (clusterOf core) 1 2 (coreNo sp) (auditStop (clusterOf core) s) else s

/-- The fence with its spare. -/
def fenceWith (sp us core : Nat) (f : Fence) : Fence := if f.core == core then { f with spare := sp, ph := 1, us := us } else f

/-- Roles and fences as a fence begins. -/
def fenceBegun (core sp : Nat) (s : State) : State :=
  let s1 := setRole sp 31 4 (setRole core (roleOf s core).1 3 (copyGivenUp core sp s))
  { s1 with hist := { s1.hist with fences := s1.hist.fences.map (fenceWith sp s.clk.us core) } }

/-- The spare is filled, and the fenced core's silicon dropped. -/
def fenceFilled (core sp : Nat) (s : State) : State := dropSilicon core (fillSpare core sp (fenceBegun core sp s))

/-- The canvases on the cluster are held. -/
def fenceHeld (core sp : Nat) (s : State) : State :=
  (canvasesOn (fenceBegun core sp s) (clusterOf core)).foldl holdForFence (fenceFilled core sp s)

/-- The fence's records. -/
def fenceRecorded (core sp : Nat) (s : State) : State := fire 2 core 2 0 (coreNo sp) (healthUnit core 2 16 (fenceHeld core sp s))

theorem beginFence_eq (core sp : Nat) (s : State) : beginFence core sp s = settleWrite (uhWrite (fenceRecorded core sp s)) := rfl

/-! ### What an audit copy that is given up leaves -/

/-- The audit copy's core of a cluster back in STATE 1. -/
def copyReturned (cl : Nat) (s : State) : State := match auditSpare s cl with | some c => clearPos c (setRole c 31 1 s) | none => s

/-- The audit of a cluster stopped. -/
def copyStopped (x : AuditCl) : AuditCl := { x with stopped := true, ready := false, queue := [] }

theorem auditStop_eq (cl : Nat) (s : State) : auditStop cl s = fire 13 cl 1 4 0 (modAudit cl copyStopped (copyReturned cl s)) := rfl

theorem copyReturned_hist (cl : Nat) (s : State) : (copyReturned cl s).hist.fences = s.hist.fences ∧ (copyReturned cl s).hist.cycles = s.hist.cycles ∧
    (copyReturned cl s).arr.remapWant = s.arr.remapWant ∧ (copyReturned cl s).cnv = s.cnv := by
  unfold copyReturned
  split <;> exact ⟨rfl, rfl, rfl, rfl⟩

theorem auditStop_hist (cl : Nat) (s : State) : (auditStop cl s).hist.fences = s.hist.fences ∧ (auditStop cl s).hist.cycles = s.hist.cycles ∧
    (auditStop cl s).arr.remapWant = s.arr.remapWant ∧ (auditStop cl s).cnv = s.cnv := by
  have hc := co_fire (L := [.evr]) 13 cl 1 4 0 (modAudit cl copyStopped (copyReturned cl s)) (by decide) (co_refl _ _)
  rw [auditStop_eq, hc.2 .hist (by decide), hc.2 .arr (by decide), hc.2 .cnv (by decide)]
  exact copyReturned_hist cl s

theorem copyGivenUp_hist (core sp : Nat) (s : State) : (copyGivenUp core sp s).hist.fences = s.hist.fences ∧
    (copyGivenUp core sp s).hist.cycles = s.hist.cycles ∧ (copyGivenUp core sp s).arr.remapWant = s.arr.remapWant ∧ (copyGivenUp core sp s).cnv = s.cnv := by
  unfold copyGivenUp
  split
  · have hc := co_fire (L := [.evr]) 2 (clusterOf core) 1 2 (coreNo sp) (auditStop (clusterOf core) s) (by decide) (co_refl _ _)
    rw [hc.2 .hist (by decide), hc.2 .arr (by decide), hc.2 .cnv (by decide)]
    exact auditStop_hist _ s
  · exact ⟨rfl, rfl, rfl, rfl⟩

theorem fenceBegun_spec {core sp : Nat} (h : core ≠ sp) (s : State) : roleOf (fenceBegun core sp s) core = ((roleOf s core).1, 3) ∧
    roleOf (fenceBegun core sp s) sp = (31, 4) ∧ (fenceBegun core sp s).hist.cycles = s.hist.cycles ∧
    (fenceBegun core sp s).hist.fences = s.hist.fences.map (fenceWith sp s.clk.us core) ∧ (fenceBegun core sp s).arr.remapWant = s.arr.remapWant ∧
    (fenceBegun core sp s).cnv = s.cnv := by
  obtain ⟨h1, h2, h3, h4⟩ := copyGivenUp_hist core sp s
  refine ⟨?_, ?_, h2, congrArg (List.map _) h1, h3, h4⟩
  · exact (roleOf_setRole_ne h 31 4 _).trans (roleOf_setRole_same core _ 3 _)
  · exact roleOf_setRole_same sp 31 4 _

theorem canvasesOn_of_cnv {s t : State} (h : t.cnv = s.cnv) (cl : Nat) : canvasesOn t cl = canvasesOn s cl := by
  have hc : ∀ c, cnvOf t c = cnvOf s c := fun c => by rw [cnvOf, h, cnvOf]
  unfold canvasesOn
  refine congrArg (fun p => (List.range 4).filter p) (funext fun c => ?_)
  rw [hc]

/-! ### What follows the filling of the spare -/

/-- A spare stands written. -/
def writeDone (s : State) (f : Fence) : Bool := f.ph == 1 && coreWritten s f.spare (roleOf s f.core).1

/-- A fence whose spare stands written waits for its calibration. -/
def writeMarked (s : State) (f : Fence) : Fence := if writeDone s f then { f with ph := 2 } else f

/-- The fences whose spares stand written are marked. -/
def writesMarked (s : State) : State := { s with hist := { s.hist with fences := s.hist.fences.map (writeMarked s) } }

theorem settleWrite_eq (s : State) : settleWrite s =
    (s.hist.fences.filter (writeDone s)).foldl (fun t f => calDue 2 (clusterOf f.core) t) (writesMarked s) := rfl

theorem hist_settleWrite (s : State) : (settleWrite s).hist = (writesMarked s).hist := by
  rw [settleWrite_eq, foldl_keeps (fun u : State => u.hist) (fun t (f : Fence) => calDue 2 (clusterOf f.core) t) (fun _ _ => rfl)]

/-- After the spare is filled the roles and cycles stand. -/
theorem beginFence_cores (core sp : Nat) (s : State) : (beginFence core sp s).hist.remap = (fillSpare core sp (fenceBegun core sp s)).hist.remap ∧
    (beginFence core sp s).hist.cycles = (fillSpare core sp (fenceBegun core sp s)).hist.cycles := by
  have hco : changesOnly [.arr, .glz, .cnv, .ptn, .net, .evr] (fillSpare core sp (fenceBegun core sp s)) (fenceRecorded core sp s) :=
    co_fire _ _ _ _ _ _ (by decide) (co_healthUnit _ _ _ _ (by decide) (co_foldl _ (fun t c h => co_holdForFence _ _ (by decide) h) _ _
      (co_dropSilicon _ _ (by decide) (co_refl _ _))))
  have hsame : ∀ t : State, (writesMarked t).hist.remap = t.hist.remap ∧ (writesMarked t).hist.cycles = t.hist.cycles := fun t => ⟨rfl, rfl⟩
  rw [beginFence_eq, hist_settleWrite, (hsame _).1, (hsame _).2, besideFaults_remap.uhWrite, besideFaults_cycles.uhWrite,
    hist_of_changesOnly hco (by decide)]
  exact ⟨rfl, rfl⟩

theorem fence_holdForFence (s : State) (d c : Nat) (h : c = d ∨ (cnvOf s c).fence = true) : (cnvOf (holdForFence s d) c).fence = true := by
  have hhold : (cnvOf (holdCanvas d s) c).fence = (cnvOf s c).fence := by
    unfold holdCanvas
    split
    · have hc : (canvasEvent d 3 (modCnv d (fun v => { v with st := 3 }) s)).cnv = (modCnv d (fun v => { v with st := 3 }) s).cnv :=
        (co_canvasEvent (L := [.ptn, .net]) d 3 _ (by decide) (co_refl _ _)).2 .cnv (by decide)
      rw [cnvOf, hc, ← cnvOf]
      by_cases hcd : c = d
      · rw [hcd, cnvOf_modCnv_same]
      · rw [cnvOf_modCnv_ne _ _ _ _ hcd]
    · rfl
  rw [holdForFence]
  by_cases hcd : c = d
  · rw [hcd, cnvOf_modCnv_same]
  · rw [cnvOf_modCnv_ne _ _ _ _ hcd, hhold]
    exact h.resolve_left hcd

theorem fence_foldl_holdForFence (l : List Nat) (s : State) (c : Nat) (h : c ∈ l ∨ (cnvOf s c).fence = true) :
    (cnvOf (l.foldl holdForFence s) c).fence = true := by
  induction l generalizing s with
  | nil => exact h.resolve_left (List.not_mem_nil)
  | cons d l ih =>
    refine ih _ ?_
    by_cases hm : c ∈ l
    · exact .inl hm
    · refine .inr (fence_holdForFence s d c (h.imp_left fun hc => ?_))
      exact (List.mem_cons.1 hc).resolve_right hm

theorem fence_beginFence {core sp c : Nat} {s : State} (hne : core ≠ sp) (h : c ∈ canvasesOn s (clusterOf core)) :
    (cnvOf (beginFence core sp s) c).fence = true := by
  have hco : changesOnly [.ptn, .net, .evr, .hist, .cal] (fenceHeld core sp s) (beginFence core sp s) :=
    co_settleWrite _ (by decide) (co_uhWrite _ (by decide) (co_fire _ _ _ _ _ _ (by decide) (co_healthUnit _ _ _ _ (by decide) (co_refl _ _))))
  rw [cnvOf, hco.2 .cnv (by decide)]
  refine fence_foldl_holdForFence _ _ c (.inl ?_)
  obtain ⟨-, -, -, -, -, hcnv⟩ := fenceBegun_spec hne s
  rw [canvasesOn_of_cnv hcnv]
  exact h

/-- Where no remap is wanted on the spare, the fence stands with it. -/
theorem fences_beginFence {core sp : Nat} {s : State} {f : Fence} (hne : core ≠ sp) (hs : coreOf sp = sp) (hu : unwanted sp s)
    (hf : s.hist.fences.find? (·.core == core) = some f) :
    ∃ g ∈ (beginFence core sp s).hist.fences, g.core = core ∧ g.spare = sp ∧ (g.ph = 1 ∨ g.ph = 2) := by
  obtain ⟨-, -, -, hfen, hwant, -⟩ := fenceBegun_spec hne s
  have hco : changesOnly [.arr, .glz, .cnv, .ptn, .net, .evr] (fillSpare core sp (fenceBegun core sp s)) (fenceRecorded core sp s) :=
    co_fire _ _ _ _ _ _ (by decide) (co_healthUnit _ _ _ _ (by decide) (co_foldl _ (fun t c h => co_holdForFence _ _ (by decide) h) _ _
      (co_dropSilicon _ _ (by decide) (co_refl _ _))))
  have hrec : (uhWrite (fenceRecorded core sp s)).hist.fences = s.hist.fences.map (fenceWith sp s.clk.us core) := by
    rw [besideFaults_fences.uhWrite, hist_of_changesOnly hco (by decide), hist_fillSpare hs (unwanted_of_wants hwant hu), ← hfen]
    rfl
  have hcore : f.core = core := by simpa using List.find?_some hf
  have hmem : fenceWith sp s.clk.us core f ∈ (uhWrite (fenceRecorded core sp s)).hist.fences := by
    rw [hrec]
    exact List.mem_map_of_mem (List.mem_of_find?_eq_some hf)
  have hwith : fenceWith sp s.clk.us core f = { f with spare := sp, ph := 1, us := s.clk.us } := if_pos (by simp [hcore])
  rw [beginFence_eq, hist_settleWrite]
  refine ⟨_, List.mem_map_of_mem hmem, ?_⟩
  rw [hwith, writeMarked]
  split
  · exact ⟨hcore, rfl, .inr rfl⟩
  · exact ⟨hcore, rfl, .inl rfl⟩

/-- A fence begins: the core goes to STATE 3, the spare is written at the cost of a cycle, and the cluster's canvases are held. -/
theorem beginFence_spec {core sp : Nat} {s : State} {f : Fence} (hf : s.hist.fences.find? (·.core == core) = some f) (hne : core ≠ sp)
    (hs : coreOf sp = sp) (hc : tget 0 s.hist.cycles sp < 10000) : roleOf (beginFence core sp s) core = ((roleOf s core).1, 3) ∧
    tget 0 s.hist.cycles sp + 1 ≤ tget 0 (beginFence core sp s).hist.cycles sp ∧
    (∀ c ∈ canvasesOn s (clusterOf core), (cnvOf (beginFence core sp s) c).fence = true) ∧
    (unwanted sp s → roleOf (beginFence core sp s) sp = (31, 4) ∧
      tget 0 (beginFence core sp s).hist.cycles sp = tget 0 s.hist.cycles sp + 1 ∧
      ∃ g ∈ (beginFence core sp s).hist.fences, g.core = core ∧ g.spare = sp ∧ (g.ph = 1 ∨ g.ph = 2)) := by
  obtain ⟨hrole, hcyc⟩ := beginFence_cores core sp s
  obtain ⟨hcore, hspare, hcycles, -, hwant, -⟩ := fenceBegun_spec hne s
  have hr : ∀ k, roleOf (beginFence core sp s) k = roleOf (fillSpare core sp (fenceBegun core sp s)) k := fun k => by rw [roleOf, hrole, roleOf]
  refine ⟨?_, ?_, fun c hm => fence_beginFence hne hm, fun hu => ⟨?_, ?_, fences_beginFence hne hs hu hf⟩⟩
  · rw [hr, roleOf_fillSpare_ne hs hne, hcore]
  · rw [hcyc, ← hcycles]
    exact cycles_fillSpare_le hs (by rw [hcycles]; exact hc)
  · rw [hr, roleOf, hist_fillSpare hs (unwanted_of_wants hwant hu)]
    exact hspare
  · rw [hcyc, cycles_fillSpare_of_unwanted hs (unwanted_of_wants hwant hu) (by rw [hcycles]; exact hc), hcycles]

/-! ## The end of a fence -/

theorem exec_fenceComplete {cl : Nat} (h : isArrCluster cl = true) (s : State) : exec (.fenceComplete cl) s = .next (fenceComplete cl s) := by
  change execFenceComplete cl s = _
  rw [execFenceComplete, h]; rfl

theorem fenceComplete_eq {cl : Nat} {s : State} {f : Fence} (hf : (s.hist.fences.find? fun f => f.ph == 3 && clusterOf f.core == cl) = some f) :
    fenceComplete cl s = if s.sch.cur.isSome || s.cal.gap then s else endFence f s := by
  rw [fenceComplete, hf]

/-- The spare with the fenced core's position, and the fence gone. -/
def fenceGone (f : Fence) (s : State) : State :=
  let s1 := setRole f.spare (roleOf s f.core).1 0 s
  clearPos f.core { s1 with hist := { s1.hist with fences := s1.hist.fences.filter (·.core != f.core) } }

/-- A canvas that no fence holds any more. -/
def fenceLifted (t : State) (c : Nat) : State := unhold c (modCnv c (fun v => { v with fence := false }) t)

/-- The canvases of a cluster that no other fence holds. -/
def fencesFree (cl : Nat) (s : State) : List Nat := (canvasesOn s cl).filter fun c => !(fenceCanvases s).contains c

theorem endFence_eq (f : Fence) (s : State) : endFence f s = uhWrite (fire 2 f.core 2 1 (coreNo f.spare) (healthUnit f.core 2 17
    ((fencesFree (clusterOf f.core) (fenceGone f s)).foldl fenceLifted (fenceGone f s)))) := rfl

theorem endFence_spec (f : Fence) (s : State) : roleOf (endFence f s) f.spare = ((roleOf s f.core).1, 0) ∧
    ∀ g ∈ (endFence f s).hist.fences, g.core ≠ f.core := by
  have hco : changesOnly [.cnv, .ptn, .net, .evr] (fenceGone f s) (fire 2 f.core 2 1 (coreNo f.spare) (healthUnit f.core 2 17
      ((fencesFree (clusterOf f.core) (fenceGone f s)).foldl fenceLifted (fenceGone f s)))) :=
    co_fire _ _ _ _ _ _ (by decide) (co_healthUnit _ _ _ _ (by decide) (co_foldl _ (fun t c h => co_unhold _ _ (by decide)
      (co_modCnv _ _ _ (by decide) h)) _ _ (co_refl _ _)))
  rw [endFence_eq]
  refine ⟨?_, fun g hg => ?_⟩
  · rw [roleOf, besideFaults_remap.uhWrite, hist_of_changesOnly hco (by decide)]
    exact roleOf_setRole_same f.spare (roleOf s f.core).1 0 s
  · rw [besideFaults_fences.uhWrite, hist_of_changesOnly hco (by decide)] at hg
    have := (List.mem_filter.1 (show g ∈ s.hist.fences.filter (·.core != f.core) from hg)).2
    simpa using this

/-! ## The drain budget and REPLACE -/

/-- A request that the drain pauses. -/
def drainPaused (e : Entry) : Entry := { e with pendPause := true, drainPause := true }

theorem drainBudget_eq (s : State) : drainBudget s =
    if s.hist.draining && (s.hist.budgetNow || decide (s.hist.drainUs + 1000000 * s.dev.budget ≤ s.clk.us)) then
      (entriesWhere s fun e => running e && e.st != .pausing).foldl (fun t ix => modEntry ix drainPaused t) s
    else s := rfl

theorem entryOf_foldl_drainPaused (l : List Nat) (s : State) (ix : Nat) :
    (entryOf (l.foldl (fun t i => modEntry i drainPaused t) s) ix).st = (entryOf s ix).st ∧
    (ix ∈ l ∨ (entryOf s ix).pendPause = true ∧ (entryOf s ix).drainPause = true →
      (entryOf (l.foldl (fun t i => modEntry i drainPaused t) s) ix).pendPause = true ∧
      (entryOf (l.foldl (fun t i => modEntry i drainPaused t) s) ix).drainPause = true) := by
  induction l generalizing s with
  | nil => exact ⟨rfl, fun h => h.resolve_left List.not_mem_nil⟩
  | cons i l ih =>
    obtain ⟨h1, h2⟩ := ih (modEntry i drainPaused s)
    rw [List.foldl_cons]
    refine ⟨h1.trans ?_, fun h => h2 ?_⟩
    · rw [entryOf_modEntry]
      split <;> rfl
    · rw [entryOf_modEntry]
      by_cases hi : ix = i
      · exact .inr (by rw [if_pos hi]; exact ⟨rfl, rfl⟩)
      · rw [if_neg hi]
        exact h.imp_left fun h => (List.mem_cons.1 h).resolve_left hi

theorem mem_entriesWhere_of_imp {s : State} {p q : Entry → Bool} (h : ∀ e, p e = true → q e = true) {ix : Nat} (hm : ix ∈ entriesWhere s p) :
    ix ∈ entriesWhere s q := by
  obtain ⟨e, he, rfl⟩ := List.mem_map.1 hm
  obtain ⟨h1, h2⟩ := List.mem_filter.1 he
  exact List.mem_map_of_mem (List.mem_filter.2 ⟨h1, h _ h2⟩)

/-- The module in REPLACE, before its sessions are closed. -/
def replaceShown (s : State) : State :=
  setMstate 4 (raiseAll allPtns { ty := 5, flags := 2, unit := 0, level := 0, args := [s.hist.cause] }
    (uhWrite (fire 3 0 0 1 s.hist.cause { s with hist := { s.hist with inRepl := true, draining := false } })))

/-- The numbers of the live sessions. -/
def liveSids (s : State) : List Nat := (s.net.sess.filter fun e => e.2.live).map (·.1)

theorem net_setMstate (n : Nat) (s : State) : (setMstate n s).net = s.net :=
  net_of_changesOnly (co_setMstate (L := [.evr, .dev]) n s (by decide) (co_refl _ s)) (by decide)

theorem replaceEntry_of_idle {s : State} (h1 : s.hist.draining = true) (h2 : s.hist.inRepl = false) (h3 : s.sch.cur = none)
    (h4 : entriesWhere s (fun e => running e) = []) : replaceEntry s = (liveSids (replaceShown s)).foldl (fun t k => moduleClose 2 k t) (replaceShown s) := by
  rw [replaceEntry, if_pos (by rw [h1, h2, h3, h4]; rfl), liveSids, replaceShown, net_setMstate]

theorem msgsJoin_replaceShown (s : State) : msgsJoin s (replaceShown s) := by
  have hu : (uhWrite (fire 3 0 0 1 s.hist.cause { s with hist := { s.hist with inRepl := true, draining := false } })).net.sess = s.net.sess := by
    rw [net_of_changesOnly (co_uhWrite (L := [.evr, .hist]) _ (by decide) (co_fire _ _ _ _ _ _ (by decide) (co_set_hist _ (by decide) (co_refl _ s)))) (by decide)]
  exact ((msgsJoin.raiseAll _ _ _).after hu).trans (msgsJoin.of_net (congrArg NetSt.sess (net_setMstate 4 _)))

theorem hist_replaceShown (s : State) : (replaceShown s).hist.inRepl = true ∧ (replaceShown s).hist.draining = false := by
  unfold replaceShown
  rw [hist_of_changesOnly (co_setMstate (L := [.ptn, .net, .evr, .dev]) _ _ (by decide) (co_raiseAll _ _ _ (by decide) (co_refl _ _))) (by decide)]
  obtain ⟨h1, -, h2, -⟩ := uhWrite_drain (fire 3 0 0 1 s.hist.cause { s with hist := { s.hist with inRepl := true, draining := false } })
  rw [h1, h2, hist_of_changesOnly (co_fire (L := [.evr]) _ _ _ _ _ _ (by decide) (co_refl _ _)) (by decide)]
  exact ⟨rfl, rfl⟩

theorem mstate_setMstate (n : Nat) (s : State) : (setMstate n s).dev.mstate = n := by
  unfold setMstate
  split
  · next h => exact h
  · rw [dev_fire]

theorem mstate_replaceShown (s : State) : (replaceShown s).dev.mstate = 4 := by
  rw [replaceShown, mstate_setMstate]

theorem closeOut_moduleClose (k j : Nat) (s : State) (h : j = k ∨ (sesOf s j).closeOut = some 2) : (sesOf (moduleClose 2 k s) j).closeOut = some 2 := by
  rw [moduleClose]
  by_cases hj : j = k
  · rw [hj, sesOf_modSes_same]
  · rw [sesOf_modSes_ne _ _ _ _ hj]
    exact h.resolve_left hj

theorem closeOut_foldl (l : List Nat) (s : State) (j : Nat) (h : j ∈ l ∨ (sesOf s j).closeOut = some 2) :
    (sesOf (l.foldl (fun t k => moduleClose 2 k t) s) j).closeOut = some 2 := by
  induction l generalizing s with
  | nil => exact h.resolve_left List.not_mem_nil
  | cons k l ih =>
    refine ih _ ?_
    by_cases hm : j ∈ l
    · exact .inl hm
    · exact .inr (closeOut_moduleClose k j s (h.imp_left fun hj => (List.mem_cons.1 hj).resolve_right hm))

theorem co_closes (l : List Nat) (s : State) : changesOnly [.net] s (l.foldl (fun t k => moduleClose 2 k t) s) :=
  co_foldl _ (fun _ _ h => co_moduleClose _ _ _ (by decide) h) _ _ (co_refl _ s)

theorem mem_liveSids {s : State} {k : Nat} (h : (sesOf s k).live = true) : k ∈ liveSids s := by
  rcases tget_mem Ses.init s.net.sess k with hk | hk
  · rw [sesOf, hk] at h
    cases h
  · exact List.mem_map.2 ⟨_, List.mem_filter.2 ⟨hk, h⟩, rfl⟩

theorem replaceEntry_spec {s : State} (h1 : s.hist.draining = true) (h2 : s.hist.inRepl = false) (h3 : s.sch.cur = none)
    (h4 : entriesWhere s (fun e => running e) = []) : (replaceEntry s).hist.inRepl = true ∧ (replaceEntry s).hist.draining = false ∧
    (replaceEntry s).dev.mstate = 4 ∧ ∀ k, (sesOf s k).live = true → (sesOf (replaceEntry s) k).closeOut = some 2 := by
  have hco := co_closes (liveSids (replaceShown s)) (replaceShown s)
  have hj := msgsJoin_replaceShown s
  obtain ⟨hr, hd⟩ := hist_replaceShown s
  have hm : (replaceShown s).dev.mstate = 4 := mstate_replaceShown s
  rw [replaceEntry_of_idle h1 h2 h3 h4]
  generalize replaceShown s = u at hco hj hr hd hm ⊢
  rw [hist_of_changesOnly hco (by decide), dev_of_changesOnly hco (by decide)]
  refine ⟨hr, hd, hm, fun k hl => ?_⟩
  exact closeOut_foldl (liveSids u) u k (.inl (mem_liveSids (by rw [hj.live, hl])))

theorem exec_drainBudgetExpiry (s : State) : exec .drainBudgetExpiry s = .next (drainBudget s) := rfl
theorem exec_replaceEntry (s : State) : exec .replaceEntry s = .next (replaceEntry s) := rfl

theorem drainBudget_spec {s : State} (hd : s.hist.draining = true) (hb : s.hist.budgetNow = true ∨ s.hist.drainUs + 1000000 * s.dev.budget ≤ s.clk.us) :
    ∀ ix ∈ entriesWhere s (fun e => running e && e.st != .pausing && e.st != .resuming),
      (entryOf (drainBudget s) ix).pendPause = true ∧ (entryOf (drainBudget s) ix).drainPause = true ∧
      (entryOf (drainBudget s) ix).st = (entryOf s ix).st := by
  intro ix hm
  have hmem : ix ∈ entriesWhere s fun e => running e && e.st != .pausing :=
    mem_entriesWhere_of_imp (fun e he => (Bool.and_eq_true_iff.1 he).1) hm
  rw [drainBudget_eq, if_pos (by rcases hb with hb | hb <;> simp [hd, hb])]
  obtain ⟨h1, h2⟩ := entryOf_foldl_drainPaused (entriesWhere s fun e => running e && e.st != .pausing) s ix
  exact ⟨(h2 (.inl hmem)).1, (h2 (.inl hmem)).2, h1⟩

/-- Settles O33: a fence fills its spare at the cost of a cycle and ends with the spare in the core's position; the drain ends in REPLACE. -/
theorem fencesAndDrain : Obligations.FencesAndDrain := by
  refine ⟨fun s => ⟨fun core f hcore hf => ⟨fun hc => ?_, fun hc h0 h3 => ?_, fun h0 hc hgap hh hst => ⟨fun sp hsp => ⟨fun h2 hp => ?_, fun h => ?_⟩, fun hsp => ?_⟩⟩,
    fun cl f hcl hf => ⟨fun h => ?_, fun hc hg => ?_⟩⟩, fun s => ⟨fun hd => ⟨?_, ?_⟩, fun hd hb => ?_, fun h1 h2 h3 h4 => ?_⟩⟩
  · rw [exec_fenceStart hcore, fenceStart_eq hf, if_pos hc]
  · refine ⟨spareRetired core s, ?_, co_setRole _ _ _ _ (by decide) (co_set_hist _ (by decide) (co_refl _ s)), roleOf_setRole_same core 31 3 _, fun g hg => ?_⟩
    · rw [exec_fenceStart hcore, fenceStart_eq hf, if_neg (by simp [hc]), if_pos (by simp [h0, h3])]
    · have := (List.mem_filter.1 (show g ∈ s.hist.fences.filter (·.core != core) from hg)).2
      simpa using this
  · rw [exec_fenceStart hcore, fenceStart_eq hf, if_neg (by simp [hc]), if_neg (by simp [h0]), if_neg (by simp [hgap, hh, hst]), hsp, fenceTaken,
      if_pos ⟨h2, hp⟩]
  · obtain ⟨hal, hst12, hcyc⟩ := spareFor_spec hsp
    have hne : core ≠ sp := fun he => by rw [← he, h0] at hst12; omega
    refine ⟨beginFence core sp s, ?_, beginFence_spec hf hne hal hcyc⟩
    rw [exec_fenceStart hcore, fenceStart_eq hf, if_neg (by simp [hc]), if_neg (by simp [h0]), if_neg (by simp [hgap, hh, hst]), hsp, fenceTaken, if_neg]
    rintro ⟨h2, hp⟩
    rcases h with h | h
    · exact h h2
    · rw [h] at hp; cases hp
  · refine ⟨drainDecision 1 core 2 s, ?_, drains_drainDecision 1 core 2 s⟩
    rw [exec_fenceStart hcore, fenceStart_eq hf, if_neg (by simp [hc]), if_neg (by simp [h0]), if_neg (by simp [hgap, hh, hst]), hsp, fenceTaken]
  · rw [exec_fenceComplete hcl, fenceComplete_eq hf, if_pos (by rcases h with h | h <;> simp [h])]
  · refine ⟨endFence f s, ?_, endFence_spec f s⟩
    rw [exec_fenceComplete hcl, fenceComplete_eq hf, if_neg (by simp [hc, hg])]
  · rw [exec_drainBudgetExpiry, drainBudget_eq, if_neg (by simp [hd])]
  · rw [exec_replaceEntry, replaceEntry, if_neg (by simp [hd])]
  · exact ⟨drainBudget s, exec_drainBudgetExpiry s, co_drainBudget _ (by decide) (co_refl _ s), drainBudget_spec hd hb⟩
  · exact ⟨replaceEntry s, exec_replaceEntry s, replaceEntry_spec h1 h2 h3 h4⟩

end Sys2Proof.Machine
end

section
/-! Unit history, token planes, faults outside the cores, audit rotation and arbitration (R14, R15, R28, R224, R406 to R412, R417, R418, R422). -/

namespace Sys2Proof.Machine

/-! ## Unit history -/

theorem exec_unitHistoryPeriodicWrite (s : State) : exec .unitHistoryPeriodicWrite s =
    .next (if s.hist.dirty && decide (s.hist.lastWr + 60000000 ≤ s.clk.us) then uhWrite s else s) := rfl

/-- A write of unit history goes over the older copy. -/
theorem uhWrite_spec (s : State) : (uhWrite s).hist.dirty = false ∧ (uhWrite s).hist.lastWr = s.clk.us ∧
    (s.hist.seqA ≤ s.hist.seqB → (uhWrite s).hist.copyA = uhNow s.hist ∧ (uhWrite s).hist.copyB = s.hist.copyB) ∧
    (s.hist.seqB < s.hist.seqA → (uhWrite s).hist.copyB = uhNow s.hist ∧ (uhWrite s).hist.copyA = s.hist.copyA) := by
  unfold uhWrite
  dsimp only
  split
  · exact ⟨rfl, rfl, fun _ => ⟨rfl, rfl⟩, fun h => by omega⟩
  · exact ⟨rfl, rfl, fun h => by omega, fun _ => ⟨rfl, rfl⟩⟩

/-! ## Faults outside the cores -/

theorem faultPermanent_twelve (unit level : Nat) (s : State) : faultPermanent unit level 12 true s = true := by
  simp [faultPermanent, alwaysPermanent]

/-- The drain's budget is spent at once for two causes. -/
def budgetCut (cause : Nat) (s : State) : State := if cause = 2 ∨ cause = 4 then { s with hist := { s.hist with budgetNow := true } } else s

theorem nonfence_eq (unit level cause : Nat) (s : State) :
    nonfence unit level cause s = recordFault unit level 12 0 true (budgetCut cause (drainDecision cause unit level s)) := rfl

/-- A permanent fault outside the cores, recorded and saved. -/
def nonfenceSaved (unit level cause : Nat) (s : State) : State :=
  uhWrite (faultNoted unit level 12 0 true (budgetCut cause (drainDecision cause unit level s)))

theorem nonfence_of_level {level : Nat} (h : level < 2) (unit cause : Nat) (s : State) :
    nonfence unit level cause s = drainDecision (drainCauseOf unit level) unit level (nonfenceSaved unit level cause s) := by
  rw [nonfence_eq, recordFault_eq, faultPermanent_twelve, if_neg (by simp), if_neg (by omega)]
  rfl

theorem budgetCut_spec (cause : Nat) (s : State) : (budgetCut cause s).hist.draining = s.hist.draining ∧ (budgetCut cause s).hist.cause = s.hist.cause ∧
    (budgetCut cause s).hist.inRepl = s.hist.inRepl ∧ (budgetCut cause s).hist.faultsP = s.hist.faultsP ∧ (budgetCut cause s).hist.toknet = s.hist.toknet ∧
    (budgetCut cause s).seq = s.seq := by
  unfold budgetCut
  split <;> exact ⟨rfl, rfl, rfl, rfl, rfl, rfl⟩

theorem storeRecord_drain (r : FaultRec) (s : State) : (storeRecord r s).hist.draining = s.hist.draining ∧ (storeRecord r s).hist.cause = s.hist.cause := by
  unfold storeRecord
  dsimp only
  split
  · exact ⟨rfl, rfl⟩
  · split <;> exact ⟨rfl, rfl⟩

theorem faultNoted_drain (unit level kind detail : Nat) (recurs : Bool) (s : State) :
    (faultNoted unit level kind detail recurs s).hist.draining = s.hist.draining ∧
    (faultNoted unit level kind detail recurs s).hist.cause = s.hist.cause := by
  rw [hist_faultNoted]
  exact storeRecord_drain _ s

theorem beside_faultsP : beside HistSt.faultsP := ⟨fun _ _ _ _ => rfl, fun _ _ _ _ _ _ _ => rfl, fun _ _ _ _ => rfl⟩

theorem faultsP_faultNoted (unit level detail : Nat) (s : State) :
    (faultNoted unit level 12 detail true s).hist.faultsP = satAdd 32 s.hist.faultsP 1 := by
  rw [hist_faultNoted, faultPermanent_twelve, ← beside_faultsP.storeRecord (faultRecord unit level 12 detail true s) s]
  rfl

theorem GoesOn.nonfence (unit level cause : Nat) (s : State) : GoesOn s (nonfence unit level cause s) := by
  rw [nonfence_eq]
  refine ((GoesOn.drainDecision cause unit level s).trans ?_).trans (GoesOn.recordFault ..)
  unfold budgetCut
  split
  · exact GoesOn.of_changesOnly (L := [.hist]) (co_set_hist _ (by decide) (co_refl _ _)) (by decide) (by decide)
  · exact GoesOn.refl _

theorem besideFences_toknet : besideFences HistSt.toknet :=
  ⟨⟨⟨fun _ _ _ _ => rfl, fun _ _ _ _ _ _ _ => rfl, fun _ _ _ _ => rfl⟩, fun _ _ _ => rfl⟩, fun _ _ _ => rfl⟩
theorem besideFences_diffs : besideFences HistSt.diffs :=
  ⟨⟨⟨fun _ _ _ _ => rfl, fun _ _ _ _ _ _ _ => rfl, fun _ _ _ _ => rfl⟩, fun _ _ _ => rfl⟩, fun _ _ _ => rfl⟩
theorem besideFences_audit : besideFences HistSt.audit :=
  ⟨⟨⟨fun _ _ _ _ => rfl, fun _ _ _ _ _ _ _ => rfl, fun _ _ _ _ => rfl⟩, fun _ _ _ => rfl⟩, fun _ _ _ => rfl⟩

theorem toknet_nonfence (unit level cause : Nat) (s : State) : (nonfence unit level cause s).hist.toknet = s.hist.toknet := by
  obtain ⟨-, -, -, -, hcut, -⟩ := budgetCut_spec cause (drainDecision cause unit level s)
  rw [nonfence_eq, besideFences_toknet.recordFault _ _ _ _ _ (.inr fun _ _ => rfl), hcut]
  exact besideFences_toknet.drainDecision _ _ _ (.inr fun _ _ => rfl)

theorem faultsP_nonfence {level : Nat} (h : level < 2) (unit cause : Nat) (s : State) :
    (nonfence unit level cause s).hist.faultsP = satAdd 32 s.hist.faultsP 1 := by
  obtain ⟨-, -, -, hcut, -⟩ := budgetCut_spec cause (drainDecision cause unit level s)
  rw [nonfence_of_level h, beside_faultsP.drainDecision _ _ _ (.inr fun _ _ => rfl), nonfenceSaved, beside_faultsP.uhWrite, faultsP_faultNoted, hcut, beside_faultsP.drainDecision _ _ _ (.inr fun _ _ => rfl)]

/-- The drain's cause is that of the fault which began it. -/
theorem cause_nonfence {level : Nat} (h : level < 2) (unit cause : Nat) {s : State} (hd : s.hist.draining = false) (hr : s.hist.inRepl = false) :
    (nonfence unit level cause s).hist.cause = cause := by
  have hdrain : (drainDecision cause unit level s).hist.draining = true ∧ (drainDecision cause unit level s).hist.cause = cause := by
    rw [drainDecision_eq, if_neg (by simp [hd, hr])]
    exact ⟨(hist_drained ..).1, (hist_drained ..).2.1⟩
  have hsaved : (nonfenceSaved unit level cause s).hist.draining = true ∧ (nonfenceSaved unit level cause s).hist.cause = cause := by
    rw [nonfenceSaved, (uhWrite_drain _).1, (uhWrite_drain _).2.1, (faultNoted_drain ..).1, (faultNoted_drain ..).2, (budgetCut_spec ..).1,
      (budgetCut_spec ..).2.1]
    exact hdrain
  rw [nonfence_of_level h, drainDecision_eq, if_pos (by rw [hsaved.1]; rfl)]
  exact hsaved.2

theorem drains_nonfence {level : Nat} (h : level < 2) (unit cause : Nat) (s : State) :
    ((nonfence unit level cause s).hist.draining || (nonfence unit level cause s).hist.inRepl) = true := by
  rw [nonfence_of_level h]
  exact drains_drainDecision ..

/-! ### A token plane -/

/-- A token plane noted as failed at a hop. -/
def planeNoted (pl hop : Nat) (s : State) : State :=
  fire 15 0 0 pl hop { s with seq := { s.seq with planeBad := s.seq.planeBad ++ [(pl, hop)] }, hist := { s.hist with toknet := true } }

theorem planeFailure_eq (pl hop : Nat) (s : State) : planeFailure pl hop s =
    if s.seq.planeBad.contains (pl, hop) then s
    else if (planeNoted pl hop s).seq.planeBad.contains (1 - pl, hop) then nonfence (hop / 64 * 2 ^ 26) 0 4 (planeNoted pl hop s)
    else planeNoted pl hop s := rfl

theorem planeNoted_spec (pl hop : Nat) (s : State) : (planeNoted pl hop s).seq.planeBad = s.seq.planeBad ++ [(pl, hop)] ∧
    (planeNoted pl hop s).hist.toknet = true := by
  have hc := co_fire (L := [.evr]) 15 0 0 pl hop { s with seq := { s.seq with planeBad := s.seq.planeBad ++ [(pl, hop)] }
                                                          hist := { s.hist with toknet := true } } (by decide) (co_refl _ _)
  rw [planeNoted, hc.2 .seq (by decide), hc.2 .hist (by decide)]
  exact ⟨rfl, rfl⟩

theorem planeFailure_spec {pl hop : Nat} {s : State} (hpl : pl < 2) (h : (pl, hop) ∉ s.seq.planeBad) :
    (planeFailure pl hop s).seq.planeBad = s.seq.planeBad ++ [(pl, hop)] ∧ (planeFailure pl hop s).hist.toknet = true ∧
    ((1 - pl, hop) ∈ s.seq.planeBad → ((planeFailure pl hop s).hist.draining || (planeFailure pl hop s).hist.inRepl) = true) := by
  obtain ⟨hbad, htok⟩ := planeNoted_spec pl hop s
  have hother : (planeNoted pl hop s).seq.planeBad.contains (1 - pl, hop) = true ↔ (1 - pl, hop) ∈ s.seq.planeBad := by
    rw [List.contains_iff_mem, hbad, List.mem_append, List.mem_singleton, Prod.mk.injEq]
    exact or_iff_left fun hx => by omega
  rw [planeFailure_eq, if_neg (by simpa using h)]
  split
  · rw [(GoesOn.nonfence ..).bad, toknet_nonfence]
    exact ⟨hbad, htok, fun _ => drains_nonfence (by omega) ..⟩
  · next hn => exact ⟨hbad, htok, fun hm => absurd (hother.2 hm) hn⟩

/-! ### The ports of a die -/

theorem portLoss_off (p : Nat) (s : State) : (portOf (portLoss p s) p).link = false ∧
    ∀ j, (portOf s j).link = false → (portOf (portLoss p s) j).link = false := by
  by_cases hl : (portOf s p).link = true
  · obtain ⟨h1, -, h3, -⟩ := portLoss_spec hl
    refine ⟨h1, fun j hj => ?_⟩
    by_cases hjp : j = p
    · rw [hjp]; exact h1
    · rw [h3 j hjp]; exact hj
  · have hs : portLoss p s = s := by rw [portLoss, if_pos (by simpa using hl)]
    rw [hs]
    exact ⟨by simpa using hl, fun _ h => h⟩

theorem link_foldl_portLoss (l : List Nat) (s : State) (p : Nat) (h : p ∈ l ∨ (portOf s p).link = false) :
    (portOf (l.foldl (fun t p => portLoss p t) s) p).link = false := by
  induction l generalizing s with
  | nil => exact h.resolve_left List.not_mem_nil
  | cons q l ih =>
    refine ih _ ?_
    by_cases hm : p ∈ l
    · exact .inl hm
    · refine .inr ?_
      rcases h with h | h
      · rw [(List.mem_cons.1 h).resolve_right hm]
        exact (portLoss_off q s).1
      · exact (portLoss_off q s).2 p h

theorem hist_unitFailure (unit level cause : Nat) (s : State) : (unitFailure unit level cause s).hist = (nonfence unit level cause s).hist :=
  hist_of_changesOnly (L := [.ptn, .net, .evr]) (co_foldl _ (fun _ _ h => co_portLoss _ _ (by decide) h) _ _ (co_refl _ _)) (by decide)

theorem level_of_drainsOn {unit level cause : Nat} (h : drainsOn unit level cause = true) : level < 2 := by
  have h1 := (Bool.and_eq_true_iff.1 (Bool.and_eq_true_iff.1 h).1).2
  split at h1
  · rw [beq_iff_eq] at h1; omega
  · exact of_decide_eq_true h1

/-! ## Audit rotation -/

theorem exec_auditRotation {cl : Nat} (h : isArrCluster cl = true) (s : State) : exec (.auditRotation cl) s = .next (auditRotate cl s) := by
  change execAuditRotation cl s = _
  rw [execAuditRotation, h]; rfl

/-- The rotation of a cluster whose copy stands, or has yet to be made. -/
def rotated (cl : Nat) (s : State) : Option Nat → State
  | some sp =>
    if 9000 ≤ tget 0 s.hist.cycles sp then (if coreInPass s sp then s else auditStop cl s)
    else if s.clk.us < (auditOf s cl).us + 1000000 * (auditOf s cl).period then s
    else auditMove cl sp (((auditOf s cl).pos + 1) % 30) s
  | none => match (coresIn s cl 1).getLast? with
    | some sp => if 9000 ≤ tget 0 s.hist.cycles sp then auditStop cl s else auditMove cl sp (auditOf s cl).pos s
    | none => s

theorem rotated_of_first {cl sp : Nat} {s : State} (h : (coresIn s cl 1).getLast? = some sp) (hc : tget 0 s.hist.cycles sp < 9000) :
    rotated cl s none = auditMove cl sp (auditOf s cl).pos s := by
  rw [rotated, h]
  exact if_neg (Nat.not_le.2 hc)

theorem auditRotate_eq (cl : Nat) (s : State) : auditRotate cl s =
    if s.sch.cur.isSome || !s.hist.auditEn || (auditOf s cl).stopped || holding s || s.hist.fences.any (fun f => clusterOf f.core == cl) then s
    else rotated cl s (auditSpare s cl) := by
  unfold auditRotate
  dsimp only
  split
  · rfl
  · cases auditSpare s cl <;> rfl

/-- An audited cluster at a position whose copy is still to be written. -/
def auditMoved (pos us frac period : Nat) (x : AuditCl) : AuditCl :=
  { x with pos := pos, us := us, ready := false, queue := [], frac := frac, period := period }

/-- The copy's core with what belongs to a position, if a core holds it. -/
def copyFilled (spare : Nat) (s : State) : Option Nat → State
  | some c => fillSpare c spare (setRole spare 31 2 s)
  | none => setRole spare 31 2 s

theorem auditMove_eq (cl spare pos : Nat) (s : State) : auditMove cl spare pos s =
    modAudit cl (auditMoved pos s.clk.us s.hist.frac s.hist.period) (copyFilled spare s (corePos s cl pos)) := by
  unfold auditMove
  cases corePos s cl pos <;> rfl

theorem auditOf_modAudit (cl : Nat) (f : AuditCl → AuditCl) (s : State) : auditOf (modAudit cl f s) cl = f (auditOf s cl) :=
  tget_tmod_same AuditCl.init s.hist.audit cl f

theorem modAudit_cores (cl : Nat) (f : AuditCl → AuditCl) (s : State) : (modAudit cl f s).hist.remap = s.hist.remap ∧
    (modAudit cl f s).hist.cycles = s.hist.cycles := ⟨rfl, rfl⟩

/-- The copy's core takes STATE 2, and a cycle when it is written. -/
theorem copyFilled_spec {sp : Nat} {s : State} (hs : coreOf sp = sp) (hu : unwanted sp s) (hc : tget 0 s.hist.cycles sp < 9000) (c : Option Nat) :
    roleOf (copyFilled sp s c) sp = (31, 2) ∧ tget 0 (copyFilled sp s c).hist.cycles sp = tget 0 s.hist.cycles sp + if c.isSome then 1 else 0 := by
  have hrole : roleOf (setRole sp 31 2 s) sp = (31, 2) := roleOf_setRole_same sp 31 2 s
  cases c with
  | none => exact ⟨hrole, rfl⟩
  | some c =>
    have hh : (fillSpare c sp (setRole sp 31 2 s)).hist = (cycleCounted sp (setRole sp 31 2 s)).hist := hist_fillSpare hs hu
    refine ⟨?_, ?_⟩
    · rw [copyFilled, roleOf, hh]
      exact hrole
    · rw [copyFilled, hh]
      refine (tget_tput_same 0 s.hist.cycles sp (satAdd 16 (tget 0 s.hist.cycles sp) 1)).trans ?_
      have : satAdd 16 (tget 0 s.hist.cycles sp) 1 = min (tget 0 s.hist.cycles sp + 1) 65535 := rfl
      rw [this, Option.isSome_some, if_pos rfl]
      omega

theorem auditMove_spec (cl : Nat) {sp : Nat} (pos : Nat) {s : State} (hs : coreOf sp = sp) (hc : tget 0 s.hist.cycles sp < 9000) :
    (auditOf (auditMove cl sp pos s) cl).pos = pos ∧ (auditOf (auditMove cl sp pos s) cl).us = s.clk.us ∧
    (auditOf (auditMove cl sp pos s) cl).ready = false ∧ (auditOf (auditMove cl sp pos s) cl).queue = [] ∧
    (unwanted sp s → roleOf (auditMove cl sp pos s) sp = (31, 2) ∧
      tget 0 (auditMove cl sp pos s).hist.cycles sp = tget 0 s.hist.cycles sp + if (corePos s cl pos).isSome then 1 else 0) := by
  rw [auditMove_eq, auditOf_modAudit, roleOf, (modAudit_cores ..).1, (modAudit_cores ..).2, ← roleOf]
  exact ⟨rfl, rfl, rfl, rfl, fun hu => copyFilled_spec hs hu hc _⟩

theorem clusterOf_of_isArrCluster {cl : Nat} (h : isArrCluster cl = true) : clusterOf cl = cl := by
  have h1 := (Bool.and_eq_true_iff.1 (Bool.and_eq_true_iff.1 h).1).2
  simpa using h1

theorem coreOf_of_mem_coresIn {s : State} {cl st sp : Nat} (h : isArrCluster cl = true) (hm : sp ∈ coresIn s cl st) : coreOf sp = sp :=
  mem_coresOf (cl := cl) (by rw [clusterOf_of_isArrCluster h]; exact (mem_coresIn hm).1)

theorem auditStop_spec {cl sp : Nat} {s : State} (h : auditSpare s cl = some sp) : roleOf (auditStop cl s) sp = (31, 1) ∧
    (auditOf (auditStop cl s) cl).stopped = true := by
  have hh : (auditStop cl s).hist = (modAudit cl copyStopped (copyReturned cl s)).hist :=
    hist_of_changesOnly (co_fire (L := [.evr]) 13 cl 1 4 0 _ (by decide) (co_refl _ _)) (by decide)
  have hret : roleOf (copyReturned cl s) sp = (31, 1) := by
    rw [copyReturned, h]
    exact roleOf_setRole_same sp 31 1 s
  refine ⟨?_, ?_⟩
  · rw [roleOf, hh]
    exact hret
  · rw [auditOf, hh, ← auditOf, auditOf_modAudit]
    rfl

/-! ## Arbitration -/

theorem exec_auditArbitration {cl : Nat} (h : isArrCluster cl = true) (again : List Int) (s : State) :
    exec (.auditArbitration cl again) s = .next (auditArbitrate cl again s) := by
  change execAuditArbitration cl again s = _
  rw [execAuditArbitration, h]; rfl

/-- The oldest sample leaves its cluster's queue. -/
def sampleTaken (cl : Nat) (rs : List AuditRec) (s : State) : State := modAudit cl (fun x => { x with queue := rs }) s

theorem queue_sampleTaken (cl : Nat) (rs : List AuditRec) (s : State) : (auditOf (sampleTaken cl rs s) cl).queue = rs := by
  rw [sampleTaken, auditOf_modAudit]

theorem auditArbitrate_eq {cl sp : Nat} {again : List Int} {s : State} {r : AuditRec} {rs : List AuditRec} (hq : (auditOf s cl).queue = r :: rs)
    (hsp : auditSpare s cl = some sp) : auditArbitrate cl again s =
    if s.sch.cur.isSome then s else if r.bad then settleAudit sp r again (sampleTaken cl rs s) else sampleTaken cl rs s := by
  unfold auditArbitrate
  rw [hq, hsp]
  rfl

theorem sch_updRevert_of_idle {s : State} (h : s.sch.cur = none) : (updRevert s).sch = s.sch := by
  have hs : sendAbandon false s = s := by
    unfold sendAbandon
    split
    · next c hc => rw [h] at hc; cases hc
    · rfl
  unfold updRevert
  split
  · rfl
  · dsimp only
    rw [hs, ite_self]
    exact (co_replyLate (L := [.net, .evr, .sec]) _ _ _ _ _ _ (by decide) (co_fire _ _ _ _ _ _ (by decide)
      (co_set_sec _ (by decide) (co_refl _ s)))).2 .sch (by decide)

theorem sch_drainDecision_of_idle {s : State} (h : s.sch.cur = none) (cause unit level : Nat) : (drainDecision cause unit level s).sch = s.sch := by
  rw [drainDecision_eq]
  split
  · rfl
  · rw [(co_drained (L := [.ptn, .net, .hist, .evr, .dev]) _ _ _ _ _ (by decide) (co_refl _ _)).2 .sch (by decide), sch_updRevert_of_idle h]

theorem sch_fenceDue_of_idle {s : State} (h : s.sch.cur = none) (core : Nat) : (fenceDue core s).sch = s.sch := by
  have hret : ∀ t : State, (retireSpare core t).sch = t.sch := fun t =>
    (co_retireSpare (L := [.hist]) core t (by decide) (co_refl _ t)).2 .sch (by decide)
  have hnext : (nextSpare core s).sch = s.sch := by
    unfold nextSpare
    dsimp only
    split
    · rw [sch_drainDecision_of_idle (by rw [hret]; exact h), hret]
    · rw [hret]
  have hadd : (addFence core s).sch = s.sch := by
    unfold addFence
    dsimp only
    split
    · exact sch_drainDecision_of_idle h ..
    · split
      · rw [fire_sch]
      · rfl
  unfold fenceDue
  dsimp only
  split
  · rfl
  · split
    · exact hnext
    · split
      · exact hret s
      · exact hadd

theorem sch_recordFault_of_idle {s : State} (h : s.sch.cur = none) (unit level kind detail : Nat) (recurs : Bool) :
    (recordFault unit level kind detail recurs s).sch = s.sch := by
  have hsaved := sch_faultSaved unit level kind detail recurs s
  have hc : (uhWrite (faultNoted unit level kind detail recurs s)).sch.cur = none := by rw [hsaved]; exact h
  rw [recordFault_eq]
  split
  · exact (co_faultNoted (L := [.ptn, .net, .hist, .evr]) _ _ _ _ _ s (by decide) (co_refl _ s)).2 .sch (by decide)
  · split
    · rw [sch_fenceDue_of_idle hc, hsaved]
    · rw [sch_drainDecision_of_idle hc, hsaved]

theorem offStep.recordFault {α : Type} {p : HistSt → α} {s : State} (h : offStep p s) (unit level kind detail : Nat) (recurs : Bool) :
    offStep p (recordFault unit level kind detail recurs s) := h.imp_left fun hc => by rw [sch_recordFault_of_idle hc]; exact hc

/-- A disagreement counted. -/
def diffCounted (s : State) : State := { s with hist := { s.hist with diffs := satAdd 32 s.hist.diffs 1 } }

theorem hist_auditHealth (r : AuditRec) (s : State) : (auditHealth r s).hist = s.hist :=
  hist_of_changesOnly (co_auditHealth (L := [.ptn, .net]) r s (by decide) (co_refl _ s)) (by decide)

theorem hist_settleAudit {α : Type} {p : HistSt → α} (hp : besideFences p) {s : State} (ho : offStep p s) (spare : Nat) (r : AuditRec) (again : List Int) :
    p (settleAudit spare r again s).hist = p (diffCounted s).hist := by
  have hrow : ∀ n d, (fire 13 r.engine 3 n d (diffCounted s)).hist = (diffCounted s).hist := fun n d =>
    hist_of_changesOnly (co_fire (L := [.evr]) _ _ _ _ _ _ (by decide) (co_refl _ _)) (by decide)
  have hoff : ∀ n d, offStep p (fire 13 r.engine 3 n d (diffCounted s)) := fun n d => ho.imp_left fun h => by rw [fire_sch]; exact h
  have hfault : ∀ n d unit level kind detail recurs,
      p (recordFault unit level kind detail recurs (fire 13 r.engine 3 n d (diffCounted s))).hist = p (diffCounted s).hist :=
    fun n d unit level kind detail recurs => by rw [hp.recordFault _ _ _ _ _ (hoff n d), hrow]
  change p (if _ then fire 13 r.engine 3 0 _ (diffCounted s) else if _ then recordFault _ 3 5 _ false (fire 13 r.engine 3 1 _ (diffCounted s))
    else if _ then auditHealth r (recordFault _ 3 4 _ false (fire 13 r.engine 3 2 _ (diffCounted s)))
    else auditHealth r (recordFault _ 3 6 _ false (recordFault _ 3 6 _ false (fire 13 r.engine 3 3 _ (diffCounted s))))).hist = _
  split
  · rw [hrow]
  · split
    · exact hfault ..
    · split
      · rw [hist_auditHealth]
        exact hfault ..
      · rw [hist_auditHealth, hp.recordFault _ _ _ _ _ ((hoff ..).recordFault ..)]
        exact hfault ..

theorem arbitrated_spec {cl sp : Nat} {s : State} (hc : s.sch.cur = none) (r : AuditRec) (rs : List AuditRec) (again : List Int) :
    (auditOf (settleAudit sp r again (sampleTaken cl rs s)) cl).queue = rs ∧
    (settleAudit sp r again (sampleTaken cl rs s)).hist.diffs = satAdd 32 s.hist.diffs 1 := by
  refine ⟨?_, hist_settleAudit besideFences_diffs (.inr fun _ _ => rfl) ..⟩
  rw [auditOf, hist_settleAudit besideFences_audit (s := sampleTaken cl rs s) (.inl hc)]
  exact queue_sampleTaken cl rs s

/-- Settles O34: unit history goes over its older copy, faults outside the cores drain the module, and the audit copies move and are settled. -/
theorem historyAndAudit : Obligations.HistoryAndAudit := by
  refine ⟨fun s => ⟨fun h => ?_, fun hd hl => ?_, fun pl hop hpl hhop => ⟨fun h => ?_, fun h => ?_⟩, fun unit level cause h => ?_⟩,
    fun cl s hcl => ⟨fun h => ?_, fun hc hen hst hh hf => ⟨fun sp hn hsp hcyc => ?_, fun sp hsp hus hcyc => ?_, fun sp hsp hcyc => ⟨fun hp => ?_, fun hp => ?_⟩⟩,
      fun r rs sp again hq hsp => ⟨fun hc => ?_, fun hc => ?_⟩⟩⟩
  · rw [exec_unitHistoryPeriodicWrite, if_neg]
    rcases h with h | h
    · simp [h]
    · simp [Nat.not_le.2 h]
  · obtain ⟨h1, h2, h3, h4⟩ := uhWrite_spec s
    refine ⟨uhWrite s, ?_, co_uhWrite _ (by decide) (co_refl _ s), h1, h2, seqs_uhWrite s, h3, h4⟩
    rw [exec_unitHistoryPeriodicWrite, if_pos (by simp [hd, hl])]
  · change execTokenPlaneFailure pl hop s = _
    rw [execTokenPlaneFailure, decide_eq_true hpl, hhop, planeFailure_eq, if_pos (by simpa using h)]; rfl
  · refine ⟨planeFailure pl hop s, ?_, planeFailure_spec hpl h⟩
    change execTokenPlaneFailure pl hop s = _
    rw [execTokenPlaneFailure, decide_eq_true hpl, hhop]; rfl
  · have hl := level_of_drainsOn h
    refine ⟨unitFailure unit level cause s, ?_, ?_, ?_, fun p hp => link_foldl_portLoss _ _ p (.inl hp), fun hd hr => ?_⟩
    · change execNonfenceFaultDetect unit level cause s = _
      rw [execNonfenceFaultDetect, h]; rfl
    · rw [hist_unitFailure]
      exact drains_nonfence hl ..
    · rw [hist_unitFailure]
      exact faultsP_nonfence hl ..
    · rw [hist_unitFailure]
      exact cause_nonfence hl unit cause hd hr
  · rw [exec_auditRotation hcl, auditRotate_eq, if_pos]
    rcases h with h | h <;> simp [h]
  · have hfen : s.hist.fences.any (fun f => clusterOf f.core == cl) = false := by simpa using hf
    have hal := coreOf_of_mem_coresIn hcl (List.mem_of_getLast? hsp)
    obtain ⟨h1, -, h3, -, h5⟩ := auditMove_spec cl (auditOf s cl).pos hal hcyc
    refine ⟨auditMove cl sp (auditOf s cl).pos s, ?_, h1, h3, h5⟩
    rw [exec_auditRotation hcl, auditRotate_eq, if_neg (by simp [hc, hen, hst, hh, hfen]), hn, rotated_of_first hsp hcyc]
  · have hfen : s.hist.fences.any (fun f => clusterOf f.core == cl) = false := by simpa using hf
    have hal := coreOf_of_mem_coresIn hcl (List.mem_of_head? hsp)
    obtain ⟨h1, h2, -, h4, h5⟩ := auditMove_spec cl (((auditOf s cl).pos + 1) % 30) hal hcyc
    refine ⟨auditMove cl sp (((auditOf s cl).pos + 1) % 30) s, ?_, h1, h2, h4, h5⟩
    rw [exec_auditRotation hcl, auditRotate_eq, if_neg (by simp [hc, hen, hst, hh, hfen]), hsp, rotated, if_neg (by omega), if_neg (by omega)]
  · have hfen : s.hist.fences.any (fun f => clusterOf f.core == cl) = false := by simpa using hf
    rw [exec_auditRotation hcl, auditRotate_eq, if_neg (by simp [hc, hen, hst, hh, hfen]), hsp, rotated, if_pos hcyc, if_pos hp]
  · have hfen : s.hist.fences.any (fun f => clusterOf f.core == cl) = false := by simpa using hf
    refine ⟨auditStop cl s, ?_, auditStop_spec hsp⟩
    rw [exec_auditRotation hcl, auditRotate_eq, if_neg (by simp [hc, hen, hst, hh, hfen]), hsp, rotated, if_pos hcyc, if_neg (by simp [hp])]
  · rw [exec_auditArbitration hcl, auditArbitrate_eq hq hsp, if_pos hc]
  · rw [exec_auditArbitration hcl, auditArbitrate_eq hq hsp, if_neg (by simp [hc])]
    cases hb : r.bad with
    | true =>
      obtain ⟨h1, h2⟩ := arbitrated_spec (cl := cl) (sp := sp) hc r rs again
      exact ⟨_, by rw [if_pos rfl], h1, h2, fun h => by cases h⟩
    | false =>
      refine ⟨sampleTaken cl rs s, rfl, ?_, rfl, fun _ => co_set_hist _ (by decide) (co_refl _ s)⟩
      exact queue_sampleTaken cl rs s

end Sys2Proof.Machine
end

section
/-! Commands of a host: how one reaches its own effect, and how it is answered (R383, R384, R391 to R393). -/

namespace Sys2Proof.Machine

/-! ## Answers -/

theorem canAnswer_join {s t : State} {h : Hdr} (hc : canAnswer s h) (hj : msgsJoin s t) : canAnswer t h :=
  ⟨(hj.sid h.ses).trans hc.1, (hj.closed h.ses).trans hc.2⟩

/-- A reply joins the queue of its session. -/
theorem answered_replyFull {s : State} {h : Hdr} (hc : canAnswer s h) (status arg handle : Nat) {pre body : List Byte} (hp : pre <+: body) :
    answered s (replyFull h status arg handle body s) h status pre := by
  rw [replyFull, post_of_open hc.2 hc.1]
  exact ⟨_, _, congrArg Ses.queue (sesOf_modSes_same _ _ s), List.mem_singleton.2 rfl, rfl, rfl, rfl, rfl, hp⟩

/-- Messages that joined before the answer. -/
theorem answered_before {s u t : State} {h : Hdr} {status : Nat} {body : List Byte} (ha : answered u t h status body) (hj : msgsJoin s u) :
    answered s t h status body := by
  obtain ⟨xs, m, hq, hm, hrest⟩ := ha
  obtain ⟨ys, hy⟩ := hj.queue h.ses
  exact ⟨ys ++ xs, m, by rw [hq, hy, List.append_assoc], List.mem_append_right ys hm, hrest⟩

/-- Messages that joined behind the answer. -/
theorem answered_behind {s u t : State} {h : Hdr} {status : Nat} {body : List Byte} (ha : answered s u h status body) (hj : msgsJoin u t) :
    answered s t h status body := by
  obtain ⟨xs, m, hq, hm, hrest⟩ := ha
  obtain ⟨ys, hy⟩ := hj.queue h.ses
  exact ⟨xs ++ ys, m, by rw [hy, hq, List.append_assoc], List.mem_append_left ys hm, hrest⟩

/-- A step before which the queue of the session is as it was. -/
theorem answered_of_queue {s u t : State} {h : Hdr} {status : Nat} {body : List Byte} (ha : answered u t h status body)
    (hq : (sesOf u h.ses).queue = (sesOf s h.ses).queue) : answered s t h status body := by
  obtain ⟨xs, m, hx, hrest⟩ := ha
  exact ⟨xs, m, by rw [hx, hq], hrest⟩

theorem answered_reply {s : State} {h : Hdr} (hc : canAnswer s h) (status : Nat) : answered s (reply h status s) h status [] :=
  answered_replyFull hc _ _ _ (List.nil_prefix)

theorem answered_replyLate {s : State} {h : Hdr} (hc : canAnswer s h) (status arg handle : Nat) {pre body : List Byte} (hp : pre <+: body) :
    answered s (replyLate h status arg handle body s) h status pre := by
  have hj := msgsJoin.cmds h.ses (fun c => tmod 0 c h.queue (· - 1)) s
  exact answered_before (answered_replyFull (canAnswer_join hc hj) status arg handle hp) hj

/-- The first byte of an outcome. -/
theorem byte_prefix (o : Nat) : [BitVec.ofNat 8 o] <+: leBytes o 4 := by
  exact ⟨leBytes (o / 256) 3, rfl⟩

theorem outcomeIs_replyOutcome {s : State} {h : Hdr} (hc : canAnswer s h) (o : Nat) : outcomeIs s (replyOutcome h o s) h o :=
  answered_replyFull hc _ _ _ (List.prefix_refl _)

theorem outcomeIs_replyOutcomeLate {s : State} {h : Hdr} (hc : canAnswer s h) (o : Nat) : outcomeIs s (replyOutcomeLate h o s) h o :=
  answered_replyLate hc _ _ _ (List.prefix_refl _)

theorem msgsJoin.replyOutcome (h : Hdr) (o : Nat) (s : State) : msgsJoin s (replyOutcome h o s) := msgsJoin.replyFull ..
theorem msgsJoin.replyOutcomeLate (h : Hdr) (o : Nat) (s : State) : msgsJoin s (replyOutcomeLate h o s) := msgsJoin.replyLate ..

/-! ## A command that nothing keeps from its effect -/

theorem canAnswer_of_ready {s : State} {r : Rights} {h : Hdr} (hr : cmdReady s r h) : canAnswer s h := by
  obtain ⟨-, hl, hc, -⟩ := hr
  refine ⟨?_, hc⟩
  have := (Bool.and_eq_true_iff.1 hl).2
  simpa using this

theorem sesOf_takeMessage (h : Hdr) (s : State) : sesOf (takeMessage h s) h.ses = { sesOf s h.ses with inbox := (sesOf s h.ses).inbox.tail } :=
  sesOf_modSes_same _ _ _

theorem canAnswer_taken {s : State} {h : Hdr} (hc : canAnswer s h) : canAnswer (takeMessage h s) h := by
  rw [canAnswer, sesOf_takeMessage]
  exact hc

theorem answered_of_taken {s t : State} {h : Hdr} {status : Nat} {body : List Byte} (ha : answered (takeMessage h s) t h status body) :
    answered s t h status body := answered_of_queue ha (by rw [sesOf_takeMessage])

theorem roleH_takeMessage (h : Hdr) (s : State) : roleH (takeMessage h s) h = roleH s h := by
  rw [roleH, sesOf_takeMessage, roleH]

theorem cmdPtn_takeMessage (h : Hdr) (s : State) : cmdPtn (takeMessage h s) h = cmdPtn s h := by
  rw [cmdPtn, roleH_takeMessage, cmdPtn]

theorem mayClass_takeMessage (r : Rights) (h : Hdr) (s : State) : mayClass (takeMessage h s) r h = mayClass s r h := by
  cases r <;> simp only [mayClass, roleH_takeMessage]

theorem breakStaging_of_closed {s : State} (hc : ∀ c, (cnvOf s c).stOpen = false) (h : Hdr) (own : Option Nat) : breakStaging h own s = s := by
  have hl : ((List.range 4).filter fun c => (cnvOf s c).stOpen && (cnvOf s c).stHdr.ses == h.ses && (cnvOf s c).stHdr.queue == h.queue
      && own != some c) = [] := List.filter_eq_nil_iff.2 fun c _ => by simp [hc c]
  rw [breakStaging, hl]
  rfl

theorem interrupts_of_whole {s : State} (hp : ∀ n q, tget none (ptnOf s n).parts q = none) (r : Rights) (h : Hdr) : interrupts r h s = false := by
  rw [interrupts, hp]

/-- The state in which a command's own effect begins. -/
theorem hostBody_of_open {s : State} {r : Rights} {h : Hdr} (hl : sesLive s h = true) (ho : outstanding s h < 64) (hm : mayClass s r h = true)
    (hc : ∀ c, (cnvOf s c).stOpen = false) {cont : Bool} (hp : cont = true ∨ ∀ n q, tget none (ptnOf s n).parts q = none) {safe : Bool}
    (hs : s.sec.safe = false ∨ safe = true) (own : Option Nat) (act : State → State) :
    hostBody r h own cont safe act s = act (takeMessage h s) := by
  have hb : breakStaging h own (takeMessage h s) = takeMessage h s := breakStaging_of_closed (s := takeMessage h s) hc h own
  have hi : (!cont && interrupts r h (takeMessage h s)) = false := by
    rcases hp with hp | hp
    · rw [hp]; rfl
    · rw [interrupts_of_whole (s := takeMessage h s) hp, Bool.and_false]
  have hg : (mayClass (takeMessage h s) r h && (!(takeMessage h s).sec.safe || safe)) = true := by
    rw [mayClass_takeMessage, hm, Bool.true_and]
    rcases hs with hs | hs
    · change (!s.sec.safe || safe) = true
      rw [hs]; rfl
    · rw [hs, Bool.or_true]
  rw [hostBody, if_neg (by simp [hl]), if_neg (by omega)]
  dsimp only
  rw [hb, hi, if_neg Bool.false_ne_true, if_pos hg]

theorem hostBody_of_runs {s : State} {r : Rights} {h : Hdr} (hr : cmdRuns s r h) (own : Option Nat) (cont safe : Bool) (act : State → State) :
    hostBody r h own cont safe act s = act (takeMessage h s) := by
  obtain ⟨⟨-, hl, -, ho, hm, hs, hc⟩, hp⟩ := hr
  exact hostBody_of_open hl ho hm hc (.inr hp) (.inl hs) own act

theorem hostCmd_of_runs {s : State} {r : Rights} {h : Hdr} (hr : cmdRuns s r h) {ok : Bool} (hok : ok = true) (act : State → State) :
    hostCmd r h ok act s = .next (act (takeMessage h s)) := by
  rw [hostCmd, hr.1.1, hok, hostBody_of_runs hr]
  rfl

theorem hostCmdSafe_of_runs {s : State} {r : Rights} {h : Hdr} (hr : cmdRuns s r h) {ok : Bool} (hok : ok = true) (act : State → State) :
    hostCmdSafe r h ok act s = .next (act (takeMessage h s)) := by
  rw [hostCmdSafe, hr.1.1, hok, hostBody_of_runs hr]
  rfl

/-- An operator's command that safe state accepts too. -/
theorem hostCmdSafe_of_opRuns {s : State} {r : Rights} {h : Hdr} (hr : opRuns s h) (hm : mayClass s r h = true) {ok : Bool} (hok : ok = true)
    (act : State → State) : hostCmdSafe r h ok act s = .next (act (takeMessage h s)) := by
  obtain ⟨hh, hl, -, ho, hrole, hc, hp⟩ := hr
  rw [hostCmdSafe, hh, hok, hostBody_of_open hl ho hm hc (.inr hp) (.inr (by simp [hrole]))]
  rfl

theorem canAnswer_of_opRuns {s : State} {h : Hdr} (hr : opRuns s h) : canAnswer s h := by
  obtain ⟨-, hl, hc, -⟩ := hr
  refine ⟨?_, hc⟩
  have := (Bool.and_eq_true_iff.1 hl).2
  simpa using this

theorem co_takeMessage_net (h : Hdr) (s : State) : changesOnly [.net] s (takeMessage h s) := co_modSes _ _ _ (by decide) (co_refl _ s)

theorem handleEntry_takeMessage (h : Hdr) (s : State) : handleEntry (takeMessage h s) h = handleEntry s h := by
  rw [handleEntry, cmdPtn_takeMessage, handleEntry]
  rfl

theorem handleRetired_takeMessage (h : Hdr) (s : State) : handleRetired (takeMessage h s) h = handleRetired s h := by
  rw [handleRetired, cmdPtn_takeMessage, handleRetired]
  rfl

end Sys2Proof.Machine
end

section
/-! Waves, finished loads, durable records, erases and stale stagings (R91 to R94, R97, R101, R104, R105, R108, R462). -/

namespace Sys2Proof.Machine

theorem answered_replyOutcome {s : State} {h : Hdr} (hc : canAnswer s h) {o : Nat} (ho : o ≠ 0) :
    answered s (replyOutcome h o s) h 8 [BitVec.ofNat 8 o] := by
  rw [replyOutcome, if_neg ho]
  exact answered_replyFull hc 8 0 h.handle (byte_prefix o)

/-! ## Relations that faults and drains satisfy -/

/-- A relation of states that the parts of a fault, and the end of a live update, satisfy. -/
structure faultSteps (R : State → State → Prop) : Prop where
  refl : ∀ s, R s s
  trans : ∀ {s t u}, R s t → R t u → R s u
  parts : ∀ {s t}, changesOnly [.ptn, .net, .hist, .evr, .dev] s t → R s t
  revert : ∀ s, R s (updRevert s)

theorem faultSteps.foldl {β : Type} {R : State → State → Prop} (hR : faultSteps R) {f : State → β → State} (h : ∀ t x, R t (f t x)) (l : List β)
    (s : State) : R s (l.foldl f s) := by
  induction l generalizing s with
  | nil => exact hR.refl s
  | cons x l ih => exact hR.trans (h s x) (ih _)

theorem faultSteps.drainDecision {R : State → State → Prop} (hR : faultSteps R) (cause unit level : Nat) (s : State) :
    R s (drainDecision cause unit level s) := by
  rw [drainDecision_eq]
  split
  · exact hR.refl s
  · exact hR.trans (hR.revert s) (hR.parts (co_drained _ _ _ _ _ (by decide) (co_refl _ _)))

theorem faultSteps.fenceDue {R : State → State → Prop} (hR : faultSteps R) (core : Nat) (s : State) : R s (fenceDue core s) := by
  have hret : ∀ t : State, R t (retireSpare core t) := fun t => hR.parts (co_retireSpare _ _ (by decide) (co_refl _ t))
  have hfen : ∀ (t : State) f, R t { t with hist := { t.hist with fences := f } } := fun t f => hR.parts (co_set_hist _ (by decide) (co_refl _ t))
  have hnext : R s (nextSpare core s) := by
    unfold nextSpare
    dsimp only
    split
    · exact hR.trans (hR.trans (hfen s _) (hret _)) (hR.drainDecision ..)
    · exact hR.trans (hfen s _) (hret _)
  have hadd : R s (addFence core s) := by
    unfold addFence
    dsimp only
    split
    · exact hR.drainDecision ..
    · split
      · exact hR.trans (hfen s _) (hR.parts (co_fire _ _ _ _ _ _ (by decide) (co_refl _ _)))
      · exact hfen s _
  unfold Machine.fenceDue
  dsimp only
  split
  · exact hR.refl s
  · split
    · exact hnext
    · split
      · exact hret s
      · exact hadd

theorem faultSteps.recordFault {R : State → State → Prop} (hR : faultSteps R) (unit level kind detail : Nat) (recurs : Bool) (s : State) :
    R s (recordFault unit level kind detail recurs s) := by
  have hnoted : R s (faultNoted unit level kind detail recurs s) := hR.parts (co_faultNoted _ _ _ _ _ s (by decide) (co_refl _ s))
  have huh : R s (uhWrite (faultNoted unit level kind detail recurs s)) := hR.trans hnoted (hR.parts (co_uhWrite _ (by decide) (co_refl _ _)))
  rw [recordFault_eq]
  split
  · exact hnoted
  · split
    · exact hR.trans huh (hR.fenceDue ..)
    · exact hR.trans huh (hR.drainDecision ..)

theorem faultSteps.wearCore {R : State → State → Prop} (hR : faultSteps R) (s : State) (core : Nat) : R s (wearCore s core) := by
  unfold Machine.wearCore
  split
  · exact hR.recordFault ..
  · exact hR.parts (co_addCycle _ _ (by decide) (co_refl _ s))

/-- A step is in flight as before, and the security state but for a live update is as it was. -/
structure updOnly (s t : State) : Prop where
  inStep : t.sch.cur.isSome = s.sch.cur.isSome
  sec : ∃ u b, t.sec = { s.sec with upd := u, updNow := b }

theorem updOnly.refl (s : State) : updOnly s s := ⟨rfl, s.sec.upd, s.sec.updNow, rfl⟩

theorem updOnly.trans {s t u : State} (h : updOnly s t) (k : updOnly t u) : updOnly s u := by
  obtain ⟨x, a, hx⟩ := h.sec
  obtain ⟨y, b, hy⟩ := k.sec
  exact ⟨k.inStep.trans h.inStep, y, b, by rw [hy, hx]⟩

theorem updOnly.of_changesOnly {L : List Part} {s t : State} (h : changesOnly L s t) (h1 : Part.sch ∉ L) (h2 : Part.sec ∉ L) : updOnly s t :=
  ⟨by rw [h.2 .sch h1], s.sec.upd, s.sec.updNow, h.2 .sec h2⟩

theorem updOnly.updRevert (s : State) : updOnly s (updRevert s) := by
  constructor
  · cases hc : s.sch.cur with
    | none => rw [sch_updRevert_of_idle hc, hc]
    | some c =>
      obtain ⟨d, hd, -⟩ := (GoesOn.updRevert s).cur c hc
      rw [hd]; rfl
  · unfold Machine.updRevert
    split
    · exact ⟨_, _, rfl⟩
    · dsimp only
      refine ⟨none, false, ?_⟩
      have hk : ∀ (t : State) u cls, t.sec = s.sec → (replyLate u 8 0 u.handle (leBytes 4 4)
          (fire 24 0 0 4 cls { t with sec := { t.sec with upd := none, updNow := false } })).sec = { s.sec with upd := none, updNow := false } := fun t u cls ht => by
        rw [sec_of_changesOnly (co_replyLate (L := [.net, .evr]) _ _ _ _ _ _ (by decide) (co_fire _ _ _ _ _ _ (by decide) (co_refl _ _))) (by decide), ← ht]
      refine hk _ _ _ ?_
      split
      · exact sec_of_changesOnly (co_sendAbandon (L := [.seq, .sch, .cnv, .hist]) _ s (by decide) (co_refl _ s)) (by decide)
      · rfl

theorem faultSteps_updOnly : faultSteps updOnly :=
  ⟨updOnly.refl, updOnly.trans, fun h => updOnly.of_changesOnly h (by decide) (by decide), updOnly.updRevert⟩

/-! ## Canvases under settled holds -/

/-- A canvas but for what an abandon counts and what the end of a hold changes. -/
def cnvSettled (v w : Canvas) : Prop := ∃ n x b, w = { v with abandons := n, st := x, neighbour := b } ∧ (v.st ≠ 3 → x = v.st)

/-- Canvases at most counted an abandon, or are no longer held. -/
structure holdsSettle (s t : State) : Prop where
  each : ∀ c, cnvSettled (cnvOf s c) (cnvOf t c)

theorem cnvSettled_refl (v : Canvas) : cnvSettled v v := ⟨v.abandons, v.st, v.neighbour, rfl, fun _ => rfl⟩

theorem cnvSettled_trans {u v w : Canvas} (h : cnvSettled u v) (k : cnvSettled v w) : cnvSettled u w := by
  obtain ⟨n, x, b, rfl, hx⟩ := h
  obtain ⟨m, y, a, rfl, hy⟩ := k
  exact ⟨m, y, a, rfl, fun hu => (hy (by rw [hx hu]; exact hu)).trans (hx hu)⟩

theorem holdsSettle.refl (s : State) : holdsSettle s s := ⟨fun _ => cnvSettled_refl _⟩
theorem holdsSettle.trans {s t u : State} (h : holdsSettle s t) (k : holdsSettle t u) : holdsSettle s u :=
  ⟨fun c => cnvSettled_trans (h.each c) (k.each c)⟩

theorem holdsSettle.of_abandons {s t : State} (h : abandonsOnly s t) : holdsSettle s t := ⟨fun c => by
  obtain ⟨n, hn⟩ := h.each c
  exact ⟨n, (cnvOf s c).st, (cnvOf s c).neighbour, hn, fun _ => rfl⟩⟩

theorem holdsSettle.of_changesOnly {L : List Part} {s t : State} (h : changesOnly L s t) (hL : Part.cnv ∉ L) : holdsSettle s t :=
  .of_abandons (.of_changesOnly h hL)

theorem holdsSettle.modCnv {f : Canvas → Canvas} (c : Nat) (s : State) (hf : cnvSettled (cnvOf s c) (f (cnvOf s c))) : holdsSettle s (modCnv c f s) :=
  ⟨fun d => by
    by_cases hd : d = c
    · rw [hd, cnvOf_modCnv_same]; exact hf
    · rw [cnvOf_modCnv_ne _ _ _ _ hd]; exact cnvSettled_refl _⟩

theorem holdsSettle.unhold (c : Nat) (s : State) : holdsSettle s (unhold c s) := by
  unfold Machine.unhold
  dsimp only
  split
  · next h =>
    have h3 : (cnvOf s c).st = 3 := by
      simp only [Bool.and_eq_true, decide_eq_true_eq] at h
      exact h.1.1.1.1.1.1
    refine (holdsSettle.modCnv (f := fun x => { x with st := 2 }) c s
      ⟨(cnvOf s c).abandons, 2, (cnvOf s c).neighbour, rfl, fun hn => absurd h3 hn⟩).trans ?_
    exact .of_changesOnly (L := [.ptn, .net]) (co_canvasEvent _ _ _ (by decide) (co_refl _ _)) (by decide)
  · exact .refl s

theorem holdsSettle.settleHolds (s : State) : holdsSettle s (settleHolds s) := by
  unfold Machine.settleHolds
  generalize List.range 4 = l
  induction l generalizing s with
  | nil => exact .refl s
  | cons c l ih =>
    refine holdsSettle.trans (holdsSettle.trans ?_ (holdsSettle.unhold c _)) (ih _)
    split
    · exact .refl s
    · exact .modCnv (f := fun v => { v with neighbour := false }) c s ⟨(cnvOf s c).abandons, (cnvOf s c).st, false, rfl, fun _ => rfl⟩

/-! ## The first wave -/

theorem exec_programmingWaveStart {c : Nat} (h : c < 4) (s : State) : exec (.programmingWaveStart c) s = .next (waveStart c s) := by
  change execProgrammingWaveStart c s = _
  rw [execProgrammingWaveStart, decide_eq_true h]; rfl

theorem waveStart_eq {c : Nat} {s : State} {b : Bundle} (hb : (cnvOf s c).staged = some b) : waveStart c s =
    if !mayWrite s || (cnvOf s c).aborting.isSome || waveLimit s - otherWriters s c = 0 then s
    else if (cnvOf s c).loadPh = 1 then
      if canvasBusy s c || (neighboursOf s c b).any (cnvInStep s) then s else beginLoad c b s
    else if 2 ≤ (cnvOf s c).loadPh && waveDone s c b && (decide ((cnvOf s c).waveCores < (bundleCores s b).length) || (cnvOf s c).loadPh == 2) then
      nextWave c b s
    else s := by
  rw [waveStart, hb]

theorem waveStart_of_full {c : Nat} {s : State} (h : waveLimit s - otherWriters s c = 0) : waveStart c s = s := by
  cases hb : (cnvOf s c).staged with
  | none => rw [waveStart, hb]
  | some b => rw [waveStart_eq hb, if_pos (by simp [h])]

/-- A canvas as the load of a bundle begins. -/
def loadOpened (b : Bundle) (v x : Canvas) : Canvas :=
  { x with
    bundle := some (recordOf b), st := 1, loadPh := 2, recSt := 1, recHash := b.hash, recDurable := false
    sameHash := (match v.bundle with | some o => o.hash == b.hash | none => v.recHash == b.hash)
    ownerGen := v.stagedGen }

/-- The canvas emptied and opened for its load. -/
def loadEmptied (c : Nat) (b : Bundle) (s : State) : State := modCnv c (loadOpened b (cnvOf s c)) (takeScramble c (emptyCanvas c s))

/-- The bundle's images and excluded weights in their places. -/
def loadPlaced (c : Nat) (b : Bundle) (s : State) : State := staleAudits b (placeOutliers b (b.images.foldl placeImage (loadEmptied c b s)))

/-- The engines and cores that the bundle's planes lie on, programmed and worn. -/
def coresTaken (b : Bundle) (s : State) : State :=
  (((b.images.flatMap (imagePlanes s)).map coreOf).dedup).foldl wearCore
    ((((b.images.flatMap (imagePlanes s)).map engineOf).dedup).foldl (fun t e => programEngine e t) s)

/-- The cores of the first wave. -/
def firstWave (c : Nat) (b : Bundle) (s : State) : State :=
  modCnv c (fun x => { x with waveCores := min (waveLimit s - otherWriters s c) (bundleCores s b).length }) s

theorem beginLoad_eq (c : Nat) (b : Bundle) (s : State) :
    beginLoad c b s = canvasEvent c 1 (firstWave c b (coresTaken b (loadPlaced c b s))) := rfl

theorem abandonsOnly.coresTaken (b : Bundle) (s : State) : abandonsOnly s (coresTaken b s) :=
  (abandonsOnly.foldl (fun t e => abandonsOnly.programEngine e t) _ s).trans (abandonsOnly.foldl (fun t k => abandonsOnly.wearCore k t) _ _)

theorem beginLoad_spec (c : Nat) (b : Bundle) (s : State) : (cnvOf (beginLoad c b s) c).st = 1 ∧ (cnvOf (beginLoad c b s) c).loadPh = 2 ∧
    (cnvOf (beginLoad c b s) c).bundle = some (recordOf b) ∧ (cnvOf (beginLoad c b s) c).recSt = 1 ∧ (cnvOf (beginLoad c b s) c).recHash = b.hash ∧
    (cnvOf (beginLoad c b s) c).recDurable = false := by
  have hplaced : changesOnly [.arr, .kv, .glz, .hist] (loadEmptied c b s) (loadPlaced c b s) :=
    co_staleAudits _ _ (by decide) (co_placeOutliers _ _ (by decide) (co_foldl _ (fun t m h => co_placeImage _ _ (by decide) h) _ _ (co_refl _ _)))
  obtain ⟨n, hn⟩ := ((abandonsOnly.of_changesOnly hplaced (by decide)).trans (abandonsOnly.coresTaken b _)).each c
  have hev : ∀ t : State, cnvOf (canvasEvent c 1 t) c = cnvOf t c := fun t =>
    cnvOf_congr ((co_canvasEvent (L := [.ptn, .net]) c 1 t (by decide) (co_refl _ t)).2 .cnv (by decide)) c
  rw [beginLoad_eq, hev, firstWave, cnvOf_modCnv_same, hn, loadEmptied, cnvOf_modCnv_same]
  exact ⟨rfl, rfl, rfl, rfl, rfl, rfl⟩

/-! ## A finished load -/

theorem exec_loadComplete {c : Nat} (h : c < 4) (s : State) : exec (.loadComplete c) s = .next (loadDone c s) := by
  change execLoadComplete c s = _
  rw [execLoadComplete, decide_eq_true h]; rfl

/-- A canvas whose load is done. -/
def loadClosed (c : Nat) (s : State) : State := modCnv c (fun x => { x with staged := none, loadPh := 0, waveCores := 0 }) s

/-- The canvas serves its staged bundle. -/
def loadServed (c : Nat) (b : Bundle) (s : State) : State :=
  loadClosed c (serveCanvas c b (if (cnvOf s c).sameHash then s else dropConversations c s))

theorem loadDone_eq {c : Nat} {s : State} {b : Bundle} (hb : (cnvOf s c).staged = some b) : loadDone c s =
    if loadReady s c b then replyOutcomeLate (cnvOf s c).loadHdr 0 (fire 28 0 0 1 c (settleHolds (loadServed c b s))) else s := by
  rw [loadDone]
  dsimp only
  rw [hb]
  rfl

/-- A canvas that serves with its tables. -/
def cnvServing (x : Canvas) : Canvas := { x with st := 2, await := false, awaitImg := false, recPend := true }

theorem serveCanvas_eq (c : Nat) (b : Bundle) (s : State) : serveCanvas c b s = canvasEvent c 2 (modCnv c cnvServing (installTables c b s)) := rfl

theorem loadServed_spec (c : Nat) (b : Bundle) (s : State) : (cnvOf (loadServed c b s) c).st = 2 ∧ (cnvOf (loadServed c b s) c).staged = none ∧
    (cnvOf (loadServed c b s) c).loadPh = 0 ∧ tget [] (loadServed c b s).seq.tables c = b.templates := by
  unfold loadServed
  generalize (if (cnvOf s c).sameHash then s else dropConversations c s) = u
  have hco := co_canvasEvent (L := [.ptn, .net]) c 2 (modCnv c cnvServing (installTables c b u)) (by decide) (co_refl _ _)
  have hst : (cnvOf (serveCanvas c b u) c).st = 2 := by
    rw [serveCanvas_eq, cnvOf_congr (hco.2 .cnv (by decide)), cnvOf_modCnv_same]
    rfl
  have hseq : (serveCanvas c b u).seq = (installTables c b u).seq := by
    rw [serveCanvas_eq, hco.2 .seq (by decide)]
    rfl
  rw [loadClosed, cnvOf_modCnv_same]
  refine ⟨hst, rfl, rfl, ?_⟩
  change tget [] (serveCanvas c b u).seq.tables c = _
  rw [hseq]
  exact tget_tput_same [] u.seq.tables c b.templates

theorem loadDone_spec (c h : Nat) (b : Bundle) (s : State) (hdr : Hdr) :
    let t := replyOutcomeLate hdr 0 (fire 28 0 0 1 h (settleHolds (loadServed c b s)))
    (cnvOf t c).st = 2 ∧ (cnvOf t c).staged = none ∧ (cnvOf t c).loadPh = 0 ∧ tget [] t.seq.tables c = b.templates := by
  intro t
  obtain ⟨h1, h2, h3, h4⟩ := loadServed_spec c b s
  have hco : changesOnly [.net, .evr] (settleHolds (loadServed c b s)) t :=
    co_replyOutcomeLate _ _ _ (by decide) (co_fire _ _ _ _ _ _ (by decide) (co_refl _ _))
  obtain ⟨n, x, a, hv, hx⟩ := (holdsSettle.settleHolds (loadServed c b s)).each c
  have hseq : t.seq = (loadServed c b s).seq := by
    rw [hco.2 .seq (by decide)]
    exact (co_settleHolds (L := [.cnv, .ptn, .net]) _ (by decide) (co_refl _ _)).2 .seq (by decide)
  rw [cnvOf_congr (hco.2 .cnv (by decide)), hv, hseq]
  exact ⟨(hx (by rw [h1]; decide)).trans h1, h2, h3, h4⟩

/-! ## Erases -/

/-- Nothing of a canvas is left, and it is not being erased. -/
def wiped (v : Canvas) : Prop := v.erasing = none ∧ v.bundle = none ∧ v.staged = none ∧ v.st = 0

theorem wiped_settled {v w : Canvas} (h : wiped v) (hs : cnvSettled v w) : wiped w := by
  obtain ⟨n, x, b, rfl, hx⟩ := hs
  obtain ⟨h1, h2, h3, h4⟩ := h
  exact ⟨h1, h2, h3, (hx (by rw [h4]; decide)).trans h4⟩

theorem erasing_settled {v w : Canvas} (hs : cnvSettled v w) : w.erasing = v.erasing := by
  obtain ⟨n, x, b, rfl, -⟩ := hs
  rfl

/-- A canvas with nothing resident. -/
def cnvEmptied (x : Canvas) : Canvas :=
  { x with bundle := none, st := 0, loadPh := 0, waveCores := 0, recSt := 0, recHash := 0, recDurable := false, recPend := false,
           await := false, awaitImg := false, floor := false, floorLeft := 0, reprog := [], warm := false }

/-- The resident bundle's copies dropped. -/
def residentDropped (c : Nat) (s : State) : State := match (cnvOf s c).bundle with | some b => dropBundle b s | none => s

theorem emptyCanvas_eq (c : Nat) (s : State) : emptyCanvas c s = dropTables c (modCnv c cnvEmptied (residentDropped c s)) := rfl

theorem cnvOf_emptyCanvas (c d : Nat) (s : State) : cnvOf (emptyCanvas c s) d = if d = c then cnvEmptied (cnvOf s d) else cnvOf s d := by
  have hr : (residentDropped c s).cnv = s.cnv := by
    unfold residentDropped
    split <;> rfl
  rw [emptyCanvas_eq, cnvOf_congr (t := dropTables c _) (s := modCnv c cnvEmptied (residentDropped c s)) rfl]
  split
  · next h => rw [h, cnvOf_modCnv_same, cnvOf_congr hr]
  · next h => rw [cnvOf_modCnv_ne _ _ _ _ h, cnvOf_congr hr]

/-- A canvas whose staging has ended. -/
def cnvUnstaging (x : Canvas) : Canvas := { x with stOpen := false, stNext := 0, stTotal := if x.staged.isSome then x.stTotal else 0 }

theorem endStaging_eq (c : Nat) (s : State) : endStaging c s = replyOutcome (cnvOf s c).stHdr 7 (modCnv c cnvUnstaging s) := rfl

theorem cnvOf_endStaging (c d : Nat) (s : State) : cnvOf (endStaging c s) d = if d = c then cnvUnstaging (cnvOf s d) else cnvOf s d := by
  rw [endStaging_eq, cnvOf_congr ((co_replyOutcome (L := [.net]) _ _ _ (by decide) (co_refl _ _)).2 .cnv (by decide))]
  split
  · next h => rw [h, cnvOf_modCnv_same]
  · next h => rw [cnvOf_modCnv_ne _ _ _ _ h]

/-- The open staging of a canvas ends, if there is one. -/
def stagingEnded (c : Nat) (s : State) : State := if (cnvOf s c).stOpen then endStaging c s else s

theorem wipeCanvas_eq (c : Nat) (s : State) : wipeCanvas c s = modCnv c (fun x => { x with staged := none }) (emptyCanvas c (stagingEnded c s)) := rfl

theorem cnvOf_wipeCanvas_ne {c d : Nat} (h : d ≠ c) (s : State) : cnvOf (wipeCanvas c s) d = cnvOf s d := by
  rw [wipeCanvas_eq, cnvOf_modCnv_ne _ _ _ _ h, cnvOf_emptyCanvas, if_neg h, stagingEnded]
  split
  · rw [cnvOf_endStaging, if_neg h]
  · rfl

theorem cnvOf_wipeCanvas_same (c : Nat) (s : State) : (cnvOf (wipeCanvas c s) c).bundle = none ∧ (cnvOf (wipeCanvas c s) c).staged = none ∧
    (cnvOf (wipeCanvas c s) c).st = 0 ∧ (cnvOf (wipeCanvas c s) c).erasing = (cnvOf s c).erasing := by
  have he : (cnvOf (stagingEnded c s) c).erasing = (cnvOf s c).erasing := by
    rw [stagingEnded]
    split
    · rw [cnvOf_endStaging, if_pos rfl]; rfl
    · rfl
  rw [wipeCanvas_eq, cnvOf_modCnv_same, cnvOf_emptyCanvas, if_pos rfl]
  exact ⟨rfl, rfl, rfl, he⟩

theorem wiped_wipeCanvas {c d : Nat} {s : State} (h : wiped (cnvOf s d)) : wiped (cnvOf (wipeCanvas c s) d) := by
  by_cases hd : d = c
  · subst hd
    obtain ⟨h1, h2, h3, h4⟩ := cnvOf_wipeCanvas_same d s
    exact ⟨h4.trans h.1, h1, h2, h3⟩
  · rw [cnvOf_wipeCanvas_ne hd]
    exact h

theorem holdsSettle.eraseCells (c : Nat) (s : State) : holdsSettle s (eraseCells c s) := by
  unfold Machine.eraseCells
  exact (holdsSettle.of_abandons (abandonsOnly.foldl (fun t k => abandonsOnly.wearCore k t) _ s)).trans
    (.of_changesOnly (L := [.arr, .glz]) (co_clearPlanes _ _ (by decide) (co_refl _ _)) (by decide))

/-- A canvas's erase taken to its end. -/
def cnvErased (c : Nat) (s : State) : State := modCnv c (fun x => { x with erasing := none }) (wipeCanvas c (eraseCells c s))

theorem eraseCanvas_eq {c : Nat} {s : State} {h : Hdr} (he : (cnvOf s c).erasing = some h) : eraseCanvas s c =
    if eraseWaits s c then s else replyOutcomeLate h 0 (settleHolds (cnvErased c s)) := by
  rw [eraseCanvas, he]
  rfl

theorem eraseCanvas_of_none {c : Nat} {s : State} (he : (cnvOf s c).erasing = none) : eraseCanvas s c = s := by
  rw [eraseCanvas, he]

theorem holdsSettle_closed (h : Hdr) (o : Nat) (s : State) : holdsSettle s (replyOutcomeLate h o (settleHolds s)) :=
  (holdsSettle.settleHolds s).trans (.of_changesOnly (L := [.net]) (co_replyOutcomeLate _ _ _ (by decide) (co_refl _ _)) (by decide))

theorem wiped_eraseCanvas {c d : Nat} {s : State} (h : wiped (cnvOf s d)) : wiped (cnvOf (eraseCanvas s c) d) := by
  cases he : (cnvOf s c).erasing with
  | none => rw [eraseCanvas_of_none he]; exact h
  | some hdr =>
    have hne : d ≠ c := fun hdc => by rw [hdc, wiped, he] at h; cases h.1
    rw [eraseCanvas_eq he]
    split
    · exact h
    · refine wiped_settled ?_ ((holdsSettle_closed hdr 0 _).each d)
      rw [cnvErased, cnvOf_modCnv_ne _ _ _ _ hne]
      exact wiped_wipeCanvas (wiped_settled h ((holdsSettle.eraseCells c s).each d))

theorem erasing_eraseCanvas_ne {c d : Nat} (h : d ≠ c) (s : State) : (cnvOf (eraseCanvas s c) d).erasing = (cnvOf s d).erasing := by
  cases he : (cnvOf s c).erasing with
  | none => rw [eraseCanvas_of_none he]
  | some hdr =>
    rw [eraseCanvas_eq he]
    split
    · rfl
    · rw [erasing_settled ((holdsSettle_closed hdr 0 _).each d), cnvErased, cnvOf_modCnv_ne _ _ _ _ h, cnvOf_wipeCanvas_ne h,
        erasing_settled ((holdsSettle.eraseCells c s).each d)]

theorem cnvInStep_of_idle {s : State} (h : s.sch.cur.isSome = false) (c : Nat) : cnvInStep s c = false := by
  rw [cnvInStep]
  cases hc : s.sch.cur with
  | none => rfl
  | some k => rw [hc] at h; cases h

theorem eraseWaits_of_idle {s : State} (h : s.sch.cur.isSome = false) (c : Nat) : eraseWaits s c = false := by
  have hn : ∀ l : List Nat, l.any (cnvInStep s) = false := fun l => by
    simp [cnvInStep_of_idle h]
  rw [eraseWaits, cnvInStep_of_idle h]
  split
  · rw [hn]; rfl
  · rfl

theorem eraseCanvas_wipes {c : Nat} {s : State} (h : s.sch.cur.isSome = false) (he : (cnvOf s c).erasing.isSome = true) :
    wiped (cnvOf (eraseCanvas s c) c) := by
  obtain ⟨hdr, hh⟩ := Option.isSome_iff_exists.1 he
  rw [eraseCanvas_eq hh, eraseWaits_of_idle h, if_neg (by simp)]
  refine wiped_settled ?_ ((holdsSettle_closed hdr 0 _).each c)
  obtain ⟨h1, h2, h3, -⟩ := cnvOf_wipeCanvas_same c (eraseCells c s)
  rw [cnvErased, cnvOf_modCnv_same]
  exact ⟨rfl, h1, h2, h3⟩

theorem updOnly.eraseCells (c : Nat) (s : State) : updOnly s (eraseCells c s) := by
  unfold Machine.eraseCells
  exact (faultSteps_updOnly.foldl (fun t k => faultSteps_updOnly.wearCore t k) _ s).trans
    (.of_changesOnly (L := [.arr, .glz]) (co_clearPlanes _ _ (by decide) (co_refl _ _)) (by decide) (by decide))

theorem updOnly.eraseCanvas (s : State) (c : Nat) : updOnly s (eraseCanvas s c) := by
  cases he : (cnvOf s c).erasing with
  | none => rw [eraseCanvas_of_none he]; exact .refl s
  | some hdr =>
    rw [eraseCanvas_eq he]
    split
    · exact .refl s
    · refine (updOnly.eraseCells c s).trans (.of_changesOnly (L := [.arr, .glz, .seq, .kv, .cnv, .net, .ptn]) ?_ (by decide) (by decide))
      exact co_replyOutcomeLate _ _ _ (by decide) (co_settleHolds _ (by decide) (co_modCnv _ _ _ (by decide) (co_wipeCanvas _ _ (by decide) (co_refl _ _))))

theorem updOnly.eraseCanvases (l : List Nat) (s : State) : updOnly s (l.foldl Machine.eraseCanvas s) := faultSteps_updOnly.foldl (updOnly.eraseCanvas) l s

theorem wiped_eraseCanvases (l : List Nat) {s : State} (h : s.sch.cur.isSome = false) {c : Nat}
    (hc : c ∈ l ∧ (cnvOf s c).erasing.isSome = true ∨ wiped (cnvOf s c)) : wiped (cnvOf (l.foldl Machine.eraseCanvas s) c) := by
  induction l generalizing s with
  | nil => exact hc.resolve_left fun h => absurd h.1 List.not_mem_nil
  | cons d l ih =>
    refine ih ((updOnly.eraseCanvas s d).inStep.trans h) ?_
    rcases hc with ⟨hm, he⟩ | hw
    · by_cases hcd : c = d
      · subst hcd
        exact .inr (eraseCanvas_wipes h he)
      · exact .inl ⟨(List.mem_cons.1 hm).resolve_left hcd, by rw [erasing_eraseCanvas_ne hcd]; exact he⟩
    · exact .inr (wiped_eraseCanvas hw)

/-! ### The whole module -/

/-- The module's canvases wiped on worn cores. -/
def canvasesWiped (s : State) : State := (List.range 4).foldl (fun t c => wipeCanvas c t) ((allCores s).foldl wearCore s)

theorem co_wipeModule_wiped (s : State) : changesOnly [.arr, .glz] (canvasesWiped s) (wipeModule s) :=
  co_set_arr _ (by decide) (co_clearPlanes _ _ (by decide) (co_refl _ _))

theorem updOnly.wipeModule (s : State) : updOnly s (wipeModule s) := by
  refine updOnly.trans ?_ (.of_changesOnly (co_wipeModule_wiped s) (by decide) (by decide))
  refine (faultSteps_updOnly.foldl (fun t k => faultSteps_updOnly.wearCore t k) (allCores s) s).trans
    (.of_changesOnly (L := [.arr, .glz, .seq, .kv, .cnv, .net]) ?_ (by decide) (by decide))
  exact co_foldl _ (fun t c h => co_wipeCanvas _ _ (by decide) h) _ _ (co_refl _ _)

theorem wiped_foldl_wipeCanvas (l : List Nat) {s : State} {c : Nat} (h : wiped (cnvOf s c)) : wiped (cnvOf (l.foldl (fun t d => wipeCanvas d t) s) c) := by
  induction l generalizing s with
  | nil => exact h
  | cons d l ih => exact ih (wiped_wipeCanvas h)

theorem wiped_wipeModule {s : State} {c : Nat} (h : wiped (cnvOf s c)) : wiped (cnvOf (wipeModule s) c) := by
  rw [cnvOf_congr ((co_wipeModule_wiped s).2 .cnv (by decide))]
  exact wiped_foldl_wipeCanvas _ (wiped_settled h ((holdsSettle.of_abandons (abandonsOnly.foldl (fun t k => abandonsOnly.wearCore k t) _ s)).each c))

/-- No erase of the module runs any more. -/
def modErased (s : State) : State := { s with sec := { s.sec with modErase := none } }

theorem modErased_spec (s : State) : (modErased s).sch = s.sch ∧ (modErased s).sec.modErase = none ∧ (modErased s).sec.relErase = s.sec.relErase ∧
    (modErased s).cnv = s.cnv := ⟨rfl, rfl, rfl, rfl⟩

theorem eraseModule_of_idle {s : State} (h : s.sch.cur.isSome = false) : (s.sec.modErase = none ∧ eraseModule s = s) ∨
    ∃ hdr, eraseModule s = replyOutcomeLate hdr 0 (modErased (wipeModule s)) := by
  cases hm : s.sec.modErase with
  | none => exact .inl ⟨rfl, by rw [eraseModule, hm]⟩
  | some hdr =>
    refine .inr ⟨hdr, ?_⟩
    rw [eraseModule, hm]
    dsimp only
    rw [h, if_neg (by simp)]
    rfl

theorem eraseModule_of_busy {s : State} (h : s.sch.cur.isSome = true) : eraseModule s = s := by
  rw [eraseModule]
  split
  · rw [if_pos h]
  · rfl

theorem eraseRelease_of_busy {s : State} (h : s.sch.cur.isSome = true) : eraseRelease s = s := by
  rw [eraseRelease]
  split
  · rw [if_pos h]
  · rfl

/-- With no step in flight the module's erase ends, and a release's stays. -/
theorem eraseModule_spec {s : State} (h : s.sch.cur.isSome = false) : (eraseModule s).sch.cur.isSome = false ∧ (eraseModule s).sec.modErase = none ∧
    (eraseModule s).sec.relErase = s.sec.relErase ∧ ∀ c, wiped (cnvOf s c) → wiped (cnvOf (eraseModule s) c) := by
  rcases eraseModule_of_idle h with ⟨hm, he⟩ | ⟨hdr, he⟩
  · rw [he]
    exact ⟨h, hm, rfl, fun _ hc => hc⟩
  · have hco := co_replyOutcomeLate (L := [.net]) hdr 0 (modErased (wipeModule s)) (by decide) (co_refl _ _)
    obtain ⟨u, b, hsec⟩ := (updOnly.wipeModule s).sec
    obtain ⟨e1, e2, e3, e4⟩ := modErased_spec (wipeModule s)
    rw [he, hco.2 .sch (by decide), hco.2 .sec (by decide), e1, e2, e3]
    refine ⟨(updOnly.wipeModule s).inStep.trans h, rfl, ?_, fun c hc => ?_⟩
    · rw [hsec]
    · rw [cnvOf_congr ((hco.2 .cnv (by decide)).trans e4)]
      exact wiped_wipeModule hc

/-- The partition keys destroyed. -/
def keysDestroyed (l : List Nat) (s : State) : State := l.foldl (fun t n => modPtn n (fun p => { p with key := 0 }) t) s

theorem key_keysDestroyed (l : List Nat) {s : State} {n : Nat} (h : n ∈ l ∨ (ptnOf s n).key = 0) : (ptnOf (keysDestroyed l s) n).key = 0 := by
  induction l generalizing s with
  | nil => exact h.resolve_left List.not_mem_nil
  | cons m l ih =>
    refine ih ?_
    by_cases hm : n = m
    · exact .inr (by rw [hm, ptnOf_modPtn_same])
    · exact h.imp (fun hc => (List.mem_cons.1 hc).resolve_left hm) fun hc => by rw [ptnOf_modPtn_ne _ _ _ _ hm]; exact hc

/-- The module unclaimed. -/
def unclaimed (s : State) : State := { s with sec := { s.sec with relErase := none, claimed := false, ownerKey := 0, ownerGen := 0 } }

theorem unclaimed_spec (s : State) : (unclaimed s).sec.modErase = s.sec.modErase ∧ (unclaimed s).sec.relErase = none ∧
    (unclaimed s).sec.claimed = false ∧ (unclaimed s).sec.ownerKey = 0 ∧ (unclaimed s).cnv = s.cnv ∧ (unclaimed s).ptn = s.ptn :=
  ⟨rfl, rfl, rfl, rfl, rfl, rfl⟩

theorem endRelease_eq (s : State) : endRelease s = fire 25 0 0 3 ((keysDestroyed allPtns (wipeModule s)).sec.ownerGen % 65536)
    (unclaimed (keysDestroyed allPtns (wipeModule s))) := rfl

theorem co_keysDestroyed (l : List Nat) (s : State) : changesOnly [.ptn] s (keysDestroyed l s) :=
  co_foldl _ (fun _ _ h => co_modPtn _ _ _ (by decide) h) _ _ (co_refl _ s)

theorem eraseRelease_of_idle {s : State} (h : s.sch.cur.isSome = false) : (s.sec.relErase = none ∧ eraseRelease s = s) ∨
    ∃ hdr, eraseRelease s = replyLate hdr 0 0 hdr.handle [] (endRelease s) := by
  cases hm : s.sec.relErase with
  | none => exact .inl ⟨rfl, by rw [eraseRelease, hm]⟩
  | some hdr =>
    refine .inr ⟨hdr, ?_⟩
    rw [eraseRelease, hm]
    dsimp only
    rw [h, if_neg (by simp)]

theorem eraseRelease_spec {s : State} (h : s.sch.cur.isSome = false) (hm : s.sec.modErase = none) : (eraseRelease s).sec.modErase = none ∧
    (eraseRelease s).sec.relErase = none ∧ (∀ c, wiped (cnvOf s c) → wiped (cnvOf (eraseRelease s) c)) ∧
    (s.sec.relErase.isSome = true → (eraseRelease s).sec.claimed = false ∧ (eraseRelease s).sec.ownerKey = 0 ∧
      ∀ n, n < 12 → (ptnOf (eraseRelease s) n).key = 0) := by
  rcases eraseRelease_of_idle h with ⟨hr, he⟩ | ⟨hdr, he⟩
  · rw [he]
    exact ⟨hm, hr, fun _ hc => hc, fun hs => by rw [hr] at hs; cases hs⟩
  · have hco : changesOnly [.net, .evr] (unclaimed (keysDestroyed allPtns (wipeModule s))) (eraseRelease s) := by
      rw [he, endRelease_eq]
      exact co_replyLate _ _ _ _ _ _ (by decide) (co_fire _ _ _ _ _ _ (by decide) (co_refl _ _))
    obtain ⟨u, b, hsec⟩ := (updOnly.wipeModule s).sec
    have hkeys := co_keysDestroyed allPtns (wipeModule s)
    obtain ⟨e1, e2, e3, e4, e5, e6⟩ := unclaimed_spec (keysDestroyed allPtns (wipeModule s))
    rw [hco.2 .sec (by decide), e1, e2, e3, e4]
    refine ⟨?_, rfl, fun c hc => ?_, fun _ => ⟨rfl, rfl, fun n hn => ?_⟩⟩
    · rw [hkeys.2 .sec (by decide), hsec]
      exact hm
    · rw [cnvOf_congr ((hco.2 .cnv (by decide)).trans (e5.trans (hkeys.2 .cnv (by decide))))]
      exact wiped_wipeModule hc
    · rw [ptnOf, hco.2 .ptn (by decide), e6, ← ptnOf]
      exact key_keysDestroyed allPtns (.inl (List.mem_range.2 hn))

theorem exec_eraseComplete (s : State) : exec .eraseComplete s =
    .next (if mayWrite s then eraseRelease (eraseModule ((List.range 4).foldl eraseCanvas s)) else s) := rfl

/-- Settles O36: a wave opens its canvas, a finished load serves it, and every erase that runs ends with nothing left. -/
theorem loadsAndErases : Obligations.LoadsAndErases := by
  refine ⟨fun c s hc => ⟨fun b hb ha hw hl => ⟨fun hp h1 h2 => ?_, fun hp h1 => ?_, fun hp hd hx => ?_⟩, fun hl => ?_,
      fun b hb => ⟨fun hr => ?_, fun hr => ?_⟩, fun hr => ?_, fun hr => ?_⟩,
    fun s => ⟨fun hw => ?_, fun hw hcur => ?_, fun hw hcur => ?_, fun c hc => ⟨fun h => ?_, fun h1 h2 => ?_⟩⟩⟩
  · refine ⟨beginLoad c b s, ?_, beginLoad_spec c b s⟩
    rw [exec_programmingWaveStart hc, waveStart_eq hb, if_neg (by simp [hw, ha, hl]), if_pos hp, if_neg (by rw [h1, h2]; simp)]
  · rw [exec_programmingWaveStart hc, waveStart_eq hb, if_neg (by simp [hw, ha, hl]), if_pos hp, if_pos (by rw [h1]; rfl)]
  · refine ⟨nextWave c b s, ?_, co_nextWave _ _ _ (by decide) (co_refl _ s), ?_, ?_⟩
    · rw [exec_programmingWaveStart hc, waveStart_eq hb, if_neg (by simp [hw, ha, hl]), if_neg (by omega), if_pos (by rcases hx with hx | hx <;> simp [hp, hd, hx])]
    · rw [nextWave, cnvOf_modCnv_same]
    · rw [nextWave, cnvOf_modCnv_same]
  · rw [exec_programmingWaveStart hc, waveStart_of_full hl]
  · rw [exec_loadComplete hc, loadDone_eq hb, hr, if_neg (by simp)]
  · exact ⟨_, by rw [exec_loadComplete hc, loadDone_eq hb, if_pos hr], loadDone_spec c c b s _⟩
  · change execCanvasRecordDurable c s = _
    rw [execCanvasRecordDurable, decide_eq_true hc, recordDurable, hr]; rfl
  · refine ⟨modCnv c (fun x => { x with recSt := 2, recDurable := true, recPend := false }) s, ?_, co_modCnv _ _ _ (by decide) (co_refl _ s), ?_, ?_, ?_⟩
    · change execCanvasRecordDurable c s = _
      rw [execCanvasRecordDurable, decide_eq_true hc, recordDurable, hr]; rfl
    all_goals rw [cnvOf_modCnv_same]
  · rw [exec_eraseComplete, hw, if_neg (by simp)]
  · have hk := updOnly.eraseCanvases (List.range 4) s
    obtain ⟨u, b, hsec⟩ := hk.sec
    have hb := hk.inStep.trans hcur
    refine ⟨_, by rw [exec_eraseComplete, if_pos hw, eraseModule_of_busy hb, eraseRelease_of_busy hb], ?_, ?_⟩ <;> rw [hsec]
  · have hk := updOnly.eraseCanvases (List.range 4) s
    obtain ⟨u, b, hsec⟩ := hk.sec
    have hidle : s.sch.cur.isSome = false := by rw [hcur]; rfl
    obtain ⟨m1, m2, m3, m4⟩ := eraseModule_spec (hk.inStep.trans hidle)
    obtain ⟨r1, r2, r3, r4⟩ := eraseRelease_spec m1 m2
    refine ⟨_, by rw [exec_eraseComplete, if_pos hw], r1, r2, fun hr => r4 (by rw [m3, hsec]; exact hr), fun c hc he => ?_⟩
    exact r3 c (m4 c (wiped_eraseCanvases _ hidle (.inl ⟨List.mem_range.2 hc, he⟩)))
  · change execStagePartTimeout c s = _
    rw [execStagePartTimeout, decide_eq_true hc, if_neg]
    · rfl
    · rcases h with h | h
      · simp [h]
      · simp [Nat.not_le.2 h]
  · refine ⟨endStaging c s, ?_, co_endStaging _ _ (by decide) (co_refl _ s), ?_, fun ha => ?_⟩
    · change execStagePartTimeout c s = _
      rw [execStagePartTimeout, decide_eq_true hc, if_pos (by simp [h1, h2])]; rfl
    · rw [cnvOf_endStaging, if_pos rfl]; rfl
    · rw [endStaging_eq]
      have hj : msgsJoin s (modCnv c cnvUnstaging s) := msgsJoin.of_net rfl
      exact answered_before (answered_replyOutcome (canAnswer_join ha hj) (by decide)) hj

end Sys2Proof.Machine
end

section
/-! Memory errors (R107, R297, R298), and what the retirement of an entry leaves (R323, R325, R336). -/

namespace Sys2Proof.Machine

/-! ## Retired entries -/

/-- An entry that has become free. -/
def entryFreed (e : Entry) : Entry :=
  { e with st := .free, resv := 0, far := 0, farPages := [], poison := [], pendCancel := none, pendPause := false, pendResume := false,
           pendRebind := false, pendDiscard := false, killAcct := false, next := [] }

theorem entryOf_freeEntry (ix j : Nat) (s : State) : entryOf (freeEntry ix s) j = entryOf (modEntry ix entryFreed s) j := rfl

theorem st_freeEntry (ix : Nat) (s : State) : (entryOf (freeEntry ix s) ix).st = .free := by
  rw [entryOf_freeEntry, entryOf_modEntry_same]
  rfl

/-- A retired entry is gone. -/
theorem gone_retire (ix : Nat) (s : State) : gone (retire ix s) ix := by
  unfold retire
  dsimp only
  split
  · assumption
  · split
    · refine .inr ?_
      rw [entryOf_modEntry_same]
    · exact .inl (st_freeEntry ..)

theorem gone_retireWith (ix status : Nat) (s : State) : gone (retireWith ix status s) ix := gone_retire ..

theorem gone_expire (ix : Nat) (s : State) : gone (expire ix s) ix := by
  unfold expire
  dsimp only
  split
  · exact gone_retireWith ..
  · exact gone_retire ..

/-- A value of the memories' state that freed frames do not change. -/
structure besideFrames {α : Type} (p : KvSt → α) : Prop where
  freed : ∀ k w x y f g, p { k with window := w, scrub := x, scrubFar := y, plan := f, filled := g } = p k

/-- An entry with no pages, and what was read of it dropped. -/
def pagesForgotten (ix : Nat) (s : State) : State :=
  let t := modEntry ix (fun x => { x with pages := [], tpages := [], tblk := 0, mxn := 0, mxf := [], sff := [], mpages := [],
                                          ptroot := 0, mroot := 0 }) s
  { t with kv := { t.kv with plan := tmapv [] (fun l => l.filter (·.index != ix)) t.kv.plan
                             filled := tmapv [] (fun l => l.filter (·.index != ix)) t.kv.filled } }

theorem freePages_eq (ix mark : Nat) (s : State) : freePages ix mark s =
    pagesForgotten ix ((entryOf s ix).pages.foldl (fun t q => freePage (entryOf s ix).ptn mark q t) s) := rfl

theorem besideFrames.pagesForgotten {α : Type} {p : KvSt → α} (hp : besideFrames p) (ix : Nat) (s : State) : p (pagesForgotten ix s).kv = p s.kv :=
  hp.freed s.kv s.kv.window s.kv.scrub s.kv.scrubFar _ _

theorem besideFrames.freePages {α : Type} {p : KvSt → α} (hp : besideFrames p) (ix mark : Nat) (s : State) :
    p (freePages ix mark s).kv = p s.kv := by
  have hpage : ∀ ptn (t : State) q, p (freePage ptn mark q t).kv = p t.kv := fun ptn t q => by
    unfold freePage
    split
    · exact hp.freed t.kv _ _ t.kv.scrubFar t.kv.plan t.kv.filled
    · rfl
  have hall : p ((entryOf s ix).pages.foldl (fun t q => freePage (entryOf s ix).ptn mark q t) s).kv = p s.kv :=
    foldl_keeps (fun t : State => p t.kv) (fun t q => freePage (entryOf s ix).ptn mark q t) (fun t q => hpage _ t q) _ s
  rw [freePages_eq, hp.pagesForgotten, hall]

theorem besideFrames.freeFar {α : Type} {p : KvSt → α} (hp : besideFrames p) (ix mark : Nat) (s : State) : p (freeFar ix mark s).kv = p s.kv := by
  unfold Machine.freeFar
  dsimp only
  split
  · rfl
  · exact hp.freed s.kv s.kv.window s.kv.scrub _ s.kv.plan s.kv.filled

theorem kv_answerWaiting (ix a b : Nat) (s : State) : (answerWaiting ix a b s).kv = s.kv :=
  (co_answerWaiting (L := [.req, .net]) ix a b s (by decide) (co_refl _ s)).2 .kv (by decide)

theorem besideFrames.retire {α : Type} {p : KvSt → α} (hp : besideFrames p) (ix : Nat) (s : State) : p (retire ix s).kv = p s.kv := by
  unfold Machine.retire
  dsimp only
  split
  · rfl
  · split
    · rw [modEntry_kv, hp.freePages, hp.freeFar, kv_answerWaiting]
    · rw [freeEntry_kv, hp.freePages, hp.freeFar, kv_answerWaiting]

theorem besideFrames.expire {α : Type} {p : KvSt → α} (hp : besideFrames p) (ix : Nat) (s : State) : p (expire ix s).kv = p s.kv := by
  have hraise : (raiseExpired ix (answerWaiting ix 11 11 s)).kv = s.kv :=
    (co_raiseExpired (L := [.ptn, .net, .req]) _ _ (by decide) (co_answerWaiting _ _ _ _ (by decide) (co_refl _ s))).2 .kv (by decide)
  have hcomplete : ∀ t : State, (complete ix 11 t).kv = t.kv := fun t =>
    (co_complete (L := [.req, .ptn, .net]) _ _ t (by decide) (co_refl _ t)).2 .kv (by decide)
  unfold Machine.expire
  dsimp only
  split
  · rw [retireWith, hp.retire, hcomplete, hraise]
  · rw [hp.retire, hraise]

theorem besideFrames_master : besideFrames KvSt.master := ⟨fun _ _ _ _ _ _ => rfl⟩
theorem besideFrames_retiredFar : besideFrames KvSt.retiredFar := ⟨fun _ _ _ _ _ _ => rfl⟩

/-! ## The far tier -/

/-- A frame of the far tier retired and recorded. -/
def frameRetired (s : State) : State := fire 14 0 0 0 1 { s with kv := { s.kv with retiredFar := satAdd 22 s.kv.retiredFar 1 } }

theorem exec_farTierUncorrectable {r : FarRegion} (h : regionExists r = true) (s : State) :
    exec (.farTierUncorrectable r) s = .next (loseRegion r (frameRetired s)) := by
  change execFarTierUncorrectable r s = _
  rw [execFarTierUncorrectable, h]; rfl

theorem co_frameRetired (s : State) : changesOnly [.kv, .evr] s (frameRetired s) :=
  co_fire _ _ _ _ _ _ (by decide) (co_set_kv _ (by decide) (co_refl _ s))

theorem kv_frameRetired (s : State) : (frameRetired s).kv = { s.kv with retiredFar := satAdd 22 s.kv.retiredFar 1 } :=
  (co_fire (L := [.evr]) 14 0 0 0 1 { s with kv := { s.kv with retiredFar := satAdd 22 s.kv.retiredFar 1 } } (by decide) (co_refl _ _)).2 .kv (by decide)

theorem cnvOf_frameRetired (c : Nat) (s : State) : cnvOf (frameRetired s) c = cnvOf s c := cnvOf_congr ((co_frameRetired s).2 .cnv (by decide)) c
theorem entryOf_frameRetired (ix : Nat) (s : State) : entryOf (frameRetired s) ix = entryOf s ix := by
  rw [entryOf, (co_frameRetired s).2 .req (by decide), entryOf]

theorem kv_losePaused {α : Type} {p : KvSt → α} (hp : besideFrames p) (ix : Nat) (s : State) : p (losePaused ix s).kv = p s.kv := by
  unfold losePaused
  dsimp only
  split
  · exact hp.expire ix s
  · rfl

theorem retiredFar_emptyCanvas (c : Nat) (s : State) : (emptyCanvas c s).kv.retiredFar = s.kv.retiredFar := by
  have hr : (residentDropped c s).kv.retiredFar = s.kv.retiredFar := by
    unfold residentDropped
    split <;> rfl
  rw [emptyCanvas_eq, ← hr]
  rfl

theorem retiredFar_stopLoad (c o : Nat) (s : State) : (stopLoad c o s).kv.retiredFar = s.kv.retiredFar := by
  unfold stopLoad
  dsimp only
  have hafter : ∀ t : State, (canvasEvent c 0 (fire 28 0 0 2 c t)).kv = t.kv := fun t =>
    (co_canvasEvent (L := [.ptn, .net, .evr]) _ _ _ (by decide) (co_fire _ _ _ _ _ t (by decide) (co_refl _ t))).2 .kv (by decide)
  have hsettle : (settleHolds (emptyCanvas c s)).kv = (emptyCanvas c s).kv :=
    (co_settleHolds (L := [.cnv, .ptn, .net]) _ (by decide) (co_refl _ _)).2 .kv (by decide)
  have hlate : ∀ h (t : State), (replyOutcomeLate h o t).kv = t.kv := fun h t =>
    (co_replyOutcomeLate (L := [.net]) _ _ t (by decide) (co_refl _ t)).2 .kv (by decide)
  rw [hafter, ← retiredFar_emptyCanvas c s]
  split
  · rw [hsettle]
  · rw [hlate, hsettle]

theorem retiredFar_tryAbort (c : Nat) (s : State) : (tryAbort c s).kv.retiredFar = s.kv.retiredFar := by
  unfold tryAbort
  dsimp only
  split
  · split
    · rfl
    · split
      · exact retiredFar_stopLoad ..
      · rw [(co_replyOutcomeLate (L := [.net]) _ _ _ (by decide) (co_refl _ _)).2 .kv (by decide)]
        exact retiredFar_stopLoad ..
  · rfl

/-- A staged bundle that no load writes is dropped. -/
def stagedDropped (c : Nat) (s : State) : State := modCnv c (fun x => { x with staged := none }) s

theorem loseStaged_eq (c : Nat) (s : State) : loseStaged c s =
    if (cnvOf s c).staged.isNone then s
    else if (cnvOf s c).loadPh = 0 then canvasEvent c (cnvOf s c).st (stagedDropped c s)
    else if (cnvOf s c).aborting.isSome then s
    else tryAbort c (modCnv c (fun x => { x with aborting := some Hdr.init }) s) := rfl

theorem retiredFar_loseStaged (c : Nat) (s : State) : (loseStaged c s).kv.retiredFar = s.kv.retiredFar := by
  rw [loseStaged_eq]
  split
  · rfl
  · split
    · rw [(co_canvasEvent (L := [.ptn, .net]) _ _ _ (by decide) (co_refl _ _)).2 .kv (by decide)]
      rfl
    · split
      · rfl
      · exact retiredFar_tryAbort ..

theorem loseStaged_of_waiting {c : Nat} {s : State} (h : (cnvOf s c).loadPh = 0) : (cnvOf (loseStaged c s) c).staged = none ∧
    (loseStaged c s).kv = s.kv := by
  have hco := co_canvasEvent (L := [.ptn, .net]) c (cnvOf s c).st (stagedDropped c s) (by decide) (co_refl _ _)
  rw [loseStaged_eq]
  split
  · next hn => exact ⟨Option.isNone_iff_eq_none.1 hn, rfl⟩
  · rw [cnvOf_congr (hco.2 .cnv (by decide)), hco.2 .kv (by decide), stagedDropped, cnvOf_modCnv_same]
    exact ⟨rfl, rfl⟩

theorem retiredFar_loseRegion (r : FarRegion) (s : State) : (loseRegion r s).kv.retiredFar = s.kv.retiredFar := by
  cases r with
  | image c pk =>
    unfold loseRegion
    dsimp only
    split <;> rfl
  | residual pk => rfl
  | paused ix => exact kv_losePaused besideFrames_retiredFar ix s
  | region => rfl
  | staged c => exact retiredFar_loseStaged c s

theorem master_loseRegion {r : FarRegion} (h : ∀ c, r ≠ .staged c) (s : State) : (loseRegion r s).kv.master = s.kv.master := by
  cases r with
  | image c pk =>
    unfold loseRegion
    dsimp only
    split <;> rfl
  | residual pk => rfl
  | paused ix => exact kv_losePaused besideFrames_master ix s
  | region => rfl
  | staged c => exact absurd rfl (h c)

theorem lost_of_image {c pk : Nat} {s : State} (h : (tget none s.kv.master pk).isSome = true) : (c, pk) ∈ (loseRegion (.image c pk) s).kv.lostImg := by
  unfold loseRegion
  dsimp only
  split
  · exact List.mem_append_right _ (List.mem_singleton.2 rfl)
  · next hn =>
    rw [h] at hn
    simpa using hn

/-- Settles the far tier's uncorrectable errors: what each region loses. -/
theorem farTierUncorrectable_spec {r : FarRegion} (hr : regionExists r = true) (s : State) : ∃ t, exec (.farTierUncorrectable r) s = .next t ∧
    t.kv.retiredFar = satAdd 22 s.kv.retiredFar 1 ∧
    ((∀ c, r ≠ .staged c) → t.kv.master = s.kv.master) ∧
    (∀ c pk, r = .image c pk → (tget none s.kv.master pk).isSome = true → (c, pk) ∈ t.kv.lostImg) ∧
    (∀ pk, r = .residual pk → ∀ k, k / 8192 * 16 = pk → tget 0 t.glz.resid k = 0) ∧
    (r = .region → t.req.region = none) ∧
    (∀ ix, r = .paused ix → (entryOf s ix).st = .paused → (entryOf s ix).far ≠ 0 → gone t ix) ∧
    (∀ c, r = .staged c → (cnvOf s c).loadPh = 0 → (cnvOf t c).staged = none ∧ t.kv.master = s.kv.master) := by
  have hmaster : (frameRetired s).kv.master = s.kv.master := by rw [kv_frameRetired]
  refine ⟨_, exec_farTierUncorrectable hr s, ?_, fun h => ?_, ?_, ?_, ?_, ?_, ?_⟩
  · rw [retiredFar_loseRegion, kv_frameRetired]
  · rw [master_loseRegion h, hmaster]
  · rintro c pk rfl hm
    exact lost_of_image (by rw [hmaster]; exact hm)
  · rintro pk rfl k rfl
    change tget 0 (tkeep (fun j => j / 8192 * 16 != k / 8192 * 16) (frameRetired s).glz.resid) k = 0
    rw [tget_tkeep, if_neg (by simp)]
  · rintro rfl
    rfl
  · rintro ix rfl hst hfar
    have hi : losePaused ix (frameRetired s) = expire ix (frameRetired s) := by
      rw [losePaused, if_pos (by rw [entryOf_frameRetired]; exact ⟨.inl hst, hfar⟩)]
    change gone (losePaused ix (frameRetired s)) ix
    rw [hi]
    exact gone_expire ..
  · rintro c rfl hph
    obtain ⟨h1, h2⟩ := loseStaged_of_waiting (c := c) (s := frameRetired s) (by rw [cnvOf_frameRetired]; exact hph)
    refine ⟨h1, ?_⟩
    change (loseStaged c (frameRetired s)).kv.master = _
    rw [h2, hmaster]

/-! ## Readback -/

theorem exec_masterCopyReadback {c pk : Nat} (h : regionExists (.image c pk) = true) (crcOk : Bool) (s : State) :
    exec (.masterCopyReadback c pk crcOk) s = .next (readback c pk crcOk s) := by
  change execMasterCopyReadback c pk crcOk s = _
  rw [execMasterCopyReadback, h]; rfl

/-- An image read back into a new frame. -/
def imageRestored (c pk : Nat) (s : State) : State :=
  { s with kv := { s.kv with master := tput none s.kv.master pk ((tget none s.kv.master pk).map (readImage s pk))
                             lostImg := s.kv.lostImg.filter (· != (c, pk)) } }

/-- A canvas that awaits its bundle for a lost image. -/
def imageAwaited (c : Nat) (s : State) : State := modCnv c (fun v => { v with await := true, awaitImg := true }) s

theorem readback_eq {c pk : Nat} {s : State} (hl : (c, pk) ∈ s.kv.lostImg) (ha : (cnvOf s c).awaitImg = false) (hh : (cnvOf s c).lostHold = true)
    (crcOk : Bool) : readback c pk crcOk s =
    if crcOk && (tget none s.kv.master pk).any (imageMatches s pk) then endReadback (engineOf pk) (imageRestored c pk s)
    else healthCanvas c pk 5 19 (imageAwaited c (endReadback (engineOf pk) s)) := by
  rw [readback]
  dsimp only
  rw [if_neg (by simp [hl, ha, hh])]
  rfl

theorem co_endReadback_canvases (eng : Nat) (s : State) : changesOnly [.cnv, .ptn, .net] s (endReadback eng s) :=
  co_endReadback _ _ (by decide) (co_refl _ s)

/-- A canvas is no longer held for a readback. -/
def readbackLifted (t : State) (c : Nat) : State := unhold c (modCnv c (fun v => { v with lostHold := false }) t)

theorem lostHold_unhold (c d : Nat) (s : State) : (cnvOf (unhold c s) d).lostHold = (cnvOf s d).lostHold := by
  obtain ⟨n, x, b, hv, -⟩ := (holdsSettle.unhold c s).each d
  rw [hv]

theorem lostHold_foldl (l : List Nat) (s : State) (c : Nat) (h : c ∈ l ∨ (cnvOf s c).lostHold = false) :
    (cnvOf (l.foldl readbackLifted s) c).lostHold = false := by
  induction l generalizing s with
  | nil => exact h.resolve_left List.not_mem_nil
  | cons d l ih =>
    refine ih _ ?_
    by_cases hd : c = d
    · refine .inr ?_
      rw [readbackLifted, lostHold_unhold, hd, cnvOf_modCnv_same]
    · refine h.imp (fun hm => (List.mem_cons.1 hm).resolve_left hd) fun hc => ?_
      rw [readbackLifted, lostHold_unhold, cnvOf_modCnv_ne _ _ _ _ hd]
      exact hc

/-- The canvases held for the readback of an image of an engine. -/
def readbackHeld (eng : Nat) (s : State) : List Nat := (List.range 4).filter fun c => (cnvOf s c).lostHold && engineUsed s c eng

theorem endReadback_eq (eng : Nat) (s : State) : endReadback eng s = (readbackHeld eng s).foldl readbackLifted s := rfl

theorem lostHold_endReadback {c eng : Nat} {s : State} (hc : c < 4) (hh : (cnvOf s c).lostHold = true) (hu : engineUsed s c eng = true) :
    (cnvOf (endReadback eng s) c).lostHold = false := by
  rw [endReadback_eq]
  refine lostHold_foldl _ _ _ (.inl (List.mem_filter.2 ⟨List.mem_range.2 hc, ?_⟩))
  rw [hh, hu]
  rfl

theorem lt_of_regionExists {c pk : Nat} (h : regionExists (.image c pk) = true) : c < 4 := by
  have := (Bool.and_eq_true_iff.1 (Bool.and_eq_true_iff.1 h).1).1
  simpa using this

theorem imageAwaited_spec (c pk eng : Nat) (s : State) :
    (cnvOf (healthCanvas c pk 5 19 (imageAwaited c (endReadback eng s))) c).await = true ∧
    (cnvOf (healthCanvas c pk 5 19 (imageAwaited c (endReadback eng s))) c).awaitImg = true ∧
    (healthCanvas c pk 5 19 (imageAwaited c (endReadback eng s))).kv = s.kv := by
  have hco := co_healthCanvas (L := [.ptn, .net]) c pk 5 19 (imageAwaited c (endReadback eng s)) (by decide) (co_refl _ _)
  rw [cnvOf_congr (hco.2 .cnv (by decide)), hco.2 .kv (by decide), imageAwaited, cnvOf_modCnv_same]
  exact ⟨rfl, rfl, (co_endReadback_canvases eng s).2 .kv (by decide)⟩

theorem exec_hotCacheUncorrectable {cl : Nat} (h : isAttCluster cl = true) (k : Nat) (s : State) : exec (.hotCacheUncorrectable cl k) s =
    .next (if decide (k < (tget [] s.kv.filled cl).length) then dropSlice cl k s else s) := by
  change execHotCacheUncorrectable cl k s = _
  rw [execHotCacheUncorrectable, h]; rfl

/-- A slice that has left the cache. -/
def sliceGone (cl k : Nat) (s : State) : State :=
  { s with kv := { s.kv with filled := tput [] s.kv.filled cl ((tget [] s.kv.filled cl).eraseIdx k) } }

theorem kv_dropSlice (cl k : Nat) (s : State) : (dropSlice cl k s).kv = (sliceGone cl k s).kv :=
  (co_fire (L := [.evr]) 14 cl 1 0 0 (sliceGone cl k s) (by decide) (co_refl _ _)).2 .kv (by decide)

theorem exec_poisonRepair {ix : Nat} (h : ix < 16384) (s : State) : exec (.poisonRepair ix) s = .next (repairPoison ix s) := by
  change execPoisonRepair ix s = _
  rw [execPoisonRepair, decide_eq_true h]; rfl

/-- Settles O38: each memory error counts or drops what was lost, by its region. -/
theorem memoryErrors : Obligations.MemoryErrors := by
  refine fun s => ⟨fun hub hh => ?_, fun tier ht => ?_, fun cl k hcl => ⟨fun h => ?_, fun h => ?_⟩, fun r hr => farTierUncorrectable_spec hr s,
    fun c pk hr hl ha hh crcOk => ⟨fun h1 h2 => ?_, fun h => ?_⟩, fun ix hix => ⟨fun h => ?_, fun h => ?_⟩⟩
  · refine ⟨{ s with kv := { s.kv with patrol := tput 0 s.kv.patrol hub (s.clk.hours + 1) } }, ?_, co_set_kv _ (by decide) (co_refl _ s),
      fun d => tget_tput 0 s.kv.patrol hub d (s.clk.hours + 1)⟩
    change execFarTierPatrol hub s = _
    rw [execFarTierPatrol, decide_eq_true hh]; rfl
  · refine ⟨countCe tier s, ?_, rfl⟩
    change execMemoryCorrectableError tier s = _
    rw [execMemoryCorrectableError, decide_eq_true ht]; rfl
  · rw [exec_hotCacheUncorrectable hcl, if_neg (by simp [h])]
  · refine ⟨dropSlice cl k s, ?_, ?_, ?_, co_fire _ _ _ _ _ _ (by decide) (co_set_kv _ (by decide) (co_refl _ s))⟩
    · rw [exec_hotCacheUncorrectable hcl, if_pos (by simp [h])]
    · rw [kv_dropSlice]; rfl
    · rw [kv_dropSlice]
      exact tget_tput_same [] s.kv.filled cl _
  · refine ⟨endReadback (engineOf pk) (imageRestored c pk s), ?_, ?_, fun k => ?_, fun hu => ?_⟩
    · rw [exec_masterCopyReadback hr, readback_eq hl ha hh, if_pos (by simp [h1, h2])]
    · rw [(co_endReadback_canvases ..).2 .kv (by decide)]; rfl
    · rw [(co_endReadback_canvases ..).2 .kv (by decide)]
      exact tget_tput none s.kv.master pk k _
    · exact lostHold_endReadback (s := imageRestored c pk s) (lt_of_regionExists hr) hh hu
  · refine ⟨_, ?_, imageAwaited_spec c pk (engineOf pk) s⟩
    rw [exec_masterCopyReadback hr, readback_eq hl ha hh, if_neg (by rcases h with h | h <;> simp [h])]
  · rw [exec_poisonRepair hix, repairPoison, if_pos h]
  · refine ⟨repairPoison ix s, exec_poisonRepair hix s, ?_, co_repairPoison _ _ (by decide) (co_refl _ s)⟩
    rw [repairPoison, if_neg (by simp [h]), entryOf_modEntry_same]

end Sys2Proof.Machine
end

section
/-! CANCEL, PAUSE, RESUME and DISCARD (R334 to R336, R345 to R347, R352). -/

namespace Sys2Proof.Machine

/-! ## What a reply leaves of the requests -/

theorem entryOf_replyFull (h : Hdr) (st arg handle : Nat) (body : List Byte) (s : State) (ix : Nat) :
    entryOf (replyFull h st arg handle body s) ix = entryOf s ix := entryOf_post ..

theorem entryOf_reply (h : Hdr) (st : Nat) (s : State) (ix : Nat) : entryOf (reply h st s) ix = entryOf s ix := entryOf_replyFull ..

theorem entryOf_takeMessage (h : Hdr) (s : State) (ix : Nat) : entryOf (takeMessage h s) ix = entryOf s ix := rfl

theorem entryOf_leaveOut (h : Hdr) (s : State) (ix : Nat) : entryOf (leaveOut h s) ix = entryOf s ix := rfl

theorem entryOf_replyLate (h : Hdr) (st arg handle : Nat) (body : List Byte) (s : State) (ix : Nat) :
    entryOf (replyLate h st arg handle body s) ix = entryOf s ix := entryOf_replyFull ..

/-- A command that is only answered. -/
theorem replied {s : State} {h : Hdr} (hc : canAnswer s h) (st : Nat) : answered s (reply h st (takeMessage h s)) h st [] ∧
    changesOnly [.net] s (reply h st (takeMessage h s)) :=
  ⟨answered_of_taken (answered_reply (canAnswer_taken hc) st), co_reply _ _ _ (by decide) (co_takeMessage_net h s)⟩

/-- A command that changes requests, and is then answered. -/
theorem replied_after {s t : State} {h : Hdr} (hc : canAnswer s h) (hj : msgsJoin (takeMessage h s) t) (st : Nat) : answered s (reply h st t) h st [] :=
  answered_of_taken (answered_before (answered_reply (canAnswer_join (canAnswer_taken hc) hj) st) hj)

/-- The entry of a handle: it is not free, and its handle is not that of a retired one. -/
theorem handleEntry_spec {s : State} {h : Hdr} {ix : Nat} (hx : handleEntry s h = some ix) : hIndex h.handle = ix ∧ (entryOf s ix).st ≠ .free ∧
    (entryOf s ix).ptn = cmdPtn s h ∧ handleRetired s h = false := by
  rw [handleEntry] at hx
  split at hx
  · next hif =>
    obtain ⟨-, hst, -, hptn⟩ := hif
    cases hx
    exact ⟨rfl, hst, hptn, by simp [handleRetired, hst]⟩
  · cases hx

/-! ## The commands -/

theorem exec_cancel {s : State} {h : Hdr} (hr : cmdRuns s .partition h) : exec (.cancel h) s = .next (cancelOp h (takeMessage h s)) :=
  hostCmd_of_runs hr rfl _
theorem exec_pause {s : State} {h : Hdr} (hr : cmdRuns s .partition h) : exec (.pause h) s = .next (pauseOp h (takeMessage h s)) :=
  hostCmd_of_runs hr rfl _
theorem exec_resume {s : State} {h : Hdr} (hr : cmdRuns s .partition h) : exec (.resume h) s = .next (resumeCmd h (takeMessage h s)) :=
  hostCmd_of_runs hr rfl _
theorem exec_discard {s : State} {h : Hdr} (hr : cmdRuns s .partition h) : exec (.discard h) s = .next (discardOp h (takeMessage h s)) :=
  hostCmd_of_runs hr rfl _

theorem cancelOp_of_entry {s : State} {h : Hdr} {ix : Nat} (hx : handleEntry s h = some ix) : cancelOp h s =
    if (entryOf s ix).fin.isSome || (entryOf s ix).st == .idle then reply h 2 s else reply h 0 (cancelEntry ix s) := by
  obtain ⟨-, -, -, hret⟩ := handleEntry_spec hx
  rw [cancelOp, hret, hx]
  exact if_neg Bool.false_ne_true

theorem pauseOp_of_entry {s : State} {h : Hdr} {ix : Nat} (hx : handleEntry s h = some ix) : pauseOp h s =
    if !(running (entryOf s ix) || (entryOf s ix).st == .idle) || (entryOf s ix).st == .pausing || (entryOf s ix).waitHdr.isSome then reply h 8 s
    else if !pauseFits s ix then reply h 6 s
    else reply h 0 (modEntry ix (fun x => { x with pendPause := true }) s) := by
  rw [pauseOp, hx]

theorem discardOp_of_entry {s : State} {h : Hdr} {ix : Nat} (hx : handleEntry s h = some ix) : discardOp h s =
    if ((entryOf s ix).st == .idle || (entryOf s ix).st == .paused) && (entryOf s ix).waitHdr.isNone then
      reply h 0 (modEntry ix (fun x => { x with pendDiscard := true }) s)
    else reply h 8 s := by
  rw [discardOp, hx]

/-- A running request on an open partition is marked to end. -/
theorem cancelEntry_of_running {s : State} {ix : Nat} (hf : (entryOf s ix).fin = none) (hr : running (entryOf s ix) = true)
    (hs : (ptnOf s (entryOf s ix).ptn).sealed = false) :
    cancelEntry ix s = modEntry ix (fun x => { x with pendCancel := some (x.pendCancel.getD 1) }) s := by
  have hst := hr
  simp only [running, Bool.and_eq_true, bne_iff_ne, ne_eq] at hst
  obtain ⟨⟨⟨⟨h1, h2⟩, h3⟩, -⟩, -⟩ := hst
  rw [cancelEntry, if_neg (by simp [h1, h2, hf]), if_neg h3, endRequest, if_neg (by simp [hr]), if_neg (by simp [hs])]

/-! ### RESUME -/

theorem exportOf_of_entry {s : State} {h : Hdr} {ix : Nat} (hx : handleEntry s h = some ix) :
    exportOf s h = if (entryOf s ix).exporting then some ix else none := by
  rw [exportOf, hx, Option.filter_some]

theorem exportOf_of_none {s : State} {h : Hdr} (hx : handleEntry s h = none) : exportOf s h = none := by
  rw [exportOf, hx]; rfl

theorem resumeCmd_of_exporting {s : State} {h : Hdr} {ix : Nat} (hx : handleEntry s h = some ix) (he : (entryOf s ix).exporting = true) :
    resumeCmd h s = holdForExport ix h none (leaveOut h s) := by
  rw [resumeCmd, exportOf_of_entry hx, he]
  rfl

/-- The reservation of a conversation that is resumed. -/
def resvMade (late : Bool) (h : Hdr) (ix : Nat) (s : State) : Option Bundle → State
  | none => answer late h 8 0 h.handle s
  | some d =>
    if !resvFits s (entryOf s ix).ptn ix (resvFor d (entryOf s ix).bound (entryOf s ix).kvfmt) then answer late h 6 0 h.handle s
    else answer late h 0 0 h.handle (modEntry ix (fun x =>
      { x with resv := resvFor d (entryOf s ix).bound (entryOf s ix).kvfmt, pendResume := true }) s)

theorem resumeDecide_of_entry {late : Bool} {s : State} {h : Hdr} {ix : Nat} (hx : handleEntry s h = some ix) : resumeDecide late h s =
    if ((entryOf s ix).st != .paused && (entryOf s ix).st != .pausing) || (entryOf s ix).pendDiscard || (entryOf s ix).waitHdr.isSome then
      answer late h 8 0 h.handle s
    else if !(ptnOf s (entryOf s ix).ptn).enabled || !(cnvOf s (entryOf s ix).canvas).enabled then answer late h 4 0 h.handle s
    else if tintGone s (entryOf s ix) then answer late h 7 0 h.handle (modEntry ix (fun x => { x with pendDiscard := true }) s)
    else if (entryOf s ix).st = .pausing then answer late h 0 0 h.handle (modEntry ix (fun x => { x with pendResume := true }) s)
    else resvMade late h ix s (declared s (entryOf s ix).canvas) := by
  rw [resumeDecide, hx]
  dsimp only
  cases declared s (entryOf s ix).canvas <;> rfl

theorem resumeCmd_of_free {s : State} {h : Hdr} {ix : Nat} (hx : handleEntry s h = some ix) (he : (entryOf s ix).exporting = false) :
    resumeCmd h s = resumeDecide false h s := by
  rw [resumeCmd, exportOf_of_entry hx, he]
  rfl

theorem answer_now (h : Hdr) (st arg handle : Nat) (s : State) : answer false h st arg handle s = replyFull h st arg handle [] s := rfl

/-- A RESUME decided at once is answered. -/
theorem replied_now {s t : State} {h : Hdr} (hc : canAnswer s h) (hj : msgsJoin (takeMessage h s) t) (st : Nat) :
    answered s (answer false h st 0 h.handle t) h st [] := replied_after hc hj st

/-- A RESUME of a conversation that may be resumed. -/
theorem resumeDecide_of_open {s : State} {h : Hdr} {ix : Nat} (hx : handleEntry s h = some ix) (hst : (entryOf s ix).st = .paused ∨ (entryOf s ix).st = .pausing)
    (hd : (entryOf s ix).pendDiscard = false) (hw : (entryOf s ix).waitHdr = none) (hp : (ptnOf s (entryOf s ix).ptn).enabled = true)
    (hv : (cnvOf s (entryOf s ix).canvas).enabled = true) (ht : tintGone s (entryOf s ix) = false) : resumeDecide false h s =
    if (entryOf s ix).st = .pausing then answer false h 0 0 h.handle (modEntry ix (fun x => { x with pendResume := true }) s)
    else resvMade false h ix s (declared s (entryOf s ix).canvas) := by
  rw [resumeDecide_of_entry hx, if_neg (by rcases hst with h | h <;> simp [h, hd, hw]), if_neg (by simp [hp, hv]), if_neg (by simp [ht])]

/-- Settles O41: each control marks its request and is answered, or is refused and changes nothing. -/
theorem requestControls : Obligations.RequestControls := by
  intro h s hr
  have hc := canAnswer_of_ready hr.1
  refine ⟨fun hx hret c hm => ?_, fun hret => ?_, fun ix hx => ?_⟩
  · have hx' : handleEntry (takeMessage h s) h = none := by rw [handleEntry_takeMessage, hx]
    have hret' : handleRetired (takeMessage h s) h = false := by rw [handleRetired_takeMessage, hret]
    refine ⟨reply h 8 (takeMessage h s), ?_, replied hc 8⟩
    simp only [List.mem_cons, List.not_mem_nil, or_false] at hm
    rcases hm with rfl | rfl | rfl | rfl
    · rw [exec_cancel hr, cancelOp, hret', if_neg Bool.false_ne_true, hx']
    · rw [exec_pause hr, pauseOp, hx']
    · rw [exec_resume hr, resumeCmd, exportOf_of_none hx']
      dsimp only
      rw [resumeDecide, hx']
      rfl
    · rw [exec_discard hr, discardOp, hx']
  · refine ⟨reply h 2 (takeMessage h s), ?_, replied hc 2⟩
    rw [exec_cancel hr, cancelOp, handleRetired_takeMessage, if_pos hret]
  · have hx' : handleEntry (takeMessage h s) h = some ix := by rw [handleEntry_takeMessage, hx]
    intro e p
    refine ⟨fun hf => ?_, fun hf hrun hsl => ?_, fun hrun hst hw => ⟨fun hpf => ?_, fun hpf => ?_⟩, fun hex => ?_,
      fun d hst hex hd hw hp hv ht hdecl => ⟨fun hfit => ?_, fun hfit => ?_⟩, fun hst hex hd hw hp hv ht => ?_, fun hst hw => ?_, fun hst => ?_⟩
    · refine ⟨reply h 2 (takeMessage h s), ?_, replied hc 2⟩
      rw [exec_cancel hr, cancelOp_of_entry hx', if_pos]
      rw [entryOf_takeMessage]
      rcases hf with hf | hf
      · rw [hf]; rfl
      · simp [show (entryOf s ix).st = .idle from hf]
    · have hst := hrun
      simp only [running, Bool.and_eq_true, bne_iff_ne, ne_eq] at hst
      have hidle : (entryOf s ix).st ≠ .idle := hst.1.1.1.2
      have hmark : cancelEntry ix (takeMessage h s) = modEntry ix (fun x => { x with pendCancel := some (x.pendCancel.getD 1) }) (takeMessage h s) :=
        cancelEntry_of_running hf hrun hsl
      refine ⟨reply h 0 (cancelEntry ix (takeMessage h s)), ?_, ?_, ?_, ?_, fun j hj => ?_⟩
      · rw [exec_cancel hr, cancelOp_of_entry hx', if_neg]
        rw [entryOf_takeMessage]
        simp [show (entryOf s ix).fin = none from hf, hidle]
      · exact replied_after hc (msgsJoin.cancelEntry ix _) 0
      · rw [entryOf_reply, hmark, entryOf_modEntry_same]; rfl
      · rw [entryOf_reply, hmark, entryOf_modEntry_same]; rfl
      · rw [entryOf_reply, hmark, entryOf_modEntry_ne _ _ _ _ hj]; rfl
    · refine ⟨reply h 6 (takeMessage h s), ?_, replied hc 6⟩
      rw [exec_pause hr, pauseOp_of_entry hx', if_neg, if_pos]
      · change (!pauseFits s ix) = true
        rw [hpf]; rfl
      · rw [entryOf_takeMessage, show (running (entryOf s ix) || (entryOf s ix).st == .idle) = true from hrun]
        simp [show (entryOf s ix).st ≠ .pausing from hst, show (entryOf s ix).waitHdr = none from hw]
    · refine ⟨reply h 0 (modEntry ix (fun x => { x with pendPause := true }) (takeMessage h s)), ?_, replied_after hc (msgsJoin.modEntry ..) 0, ?_, ?_⟩
      · rw [exec_pause hr, pauseOp_of_entry hx', if_neg, if_neg]
        · change ¬(!pauseFits s ix) = true
          rw [hpf]
          exact Bool.false_ne_true
        · rw [entryOf_takeMessage, show (running (entryOf s ix) || (entryOf s ix).st == .idle) = true from hrun]
          simp [show (entryOf s ix).st ≠ .pausing from hst, show (entryOf s ix).waitHdr = none from hw]
      · rw [entryOf_reply, entryOf_modEntry_same]
      · rw [entryOf_reply, entryOf_modEntry_same]; rfl
    · refine ⟨holdForExport ix h none (leaveOut h (takeMessage h s)), ?_, ?_, ?_, ?_⟩
      · rw [exec_resume hr, resumeCmd_of_exporting hx' hex]
      · rw [holdForExport, entryOf_modEntry_same]; rfl
      · change (sesOf (leaveOut h (takeMessage h s)) h.ses).queue = _
        rw [leaveOut, sesOf_modSes_same, sesOf_takeMessage]
      · exact co_holdForExport _ _ _ _ (by decide) (co_leaveOut _ _ (by decide) (co_modSes _ _ _ (by decide) (co_refl _ s)))
    · refine ⟨answer false h 0 0 h.handle (modEntry ix (fun x =>
        { x with resv := resvFor d (entryOf s ix).bound (entryOf s ix).kvfmt, pendResume := true }) (takeMessage h s)), ?_,
        replied_now hc (msgsJoin.modEntry ..) 0, ?_, ?_, ?_⟩
      · rw [exec_resume hr, resumeCmd_of_free hx' hex, resumeDecide_of_open hx' (.inl hst) hd hw hp hv ht, if_neg]
        · rw [show declared (takeMessage h s) (entryOf (takeMessage h s) ix).canvas = some d from hdecl, resvMade, if_neg]
          · rfl
          · change ¬(!resvFits s (entryOf s ix).ptn ix (resvFor d (entryOf s ix).bound (entryOf s ix).kvfmt)) = true
            rw [show resvFits s (entryOf s ix).ptn ix (resvFor d (entryOf s ix).bound (entryOf s ix).kvfmt) = true from hfit]
            exact Bool.false_ne_true
        · rw [entryOf_takeMessage, show (entryOf s ix).st = .paused from hst]
          decide
      · rw [answer_now, entryOf_replyFull, entryOf_modEntry_same]
      · rw [answer_now, entryOf_replyFull, entryOf_modEntry_same]
      · rw [answer_now, entryOf_replyFull, entryOf_modEntry_same]; exact hst
    · refine ⟨reply h 6 (takeMessage h s), ?_, replied hc 6⟩
      rw [exec_resume hr, resumeCmd_of_free hx' hex, resumeDecide_of_open hx' (.inl hst) hd hw hp hv ht, if_neg]
      · rw [show declared (takeMessage h s) (entryOf (takeMessage h s) ix).canvas = some d from hdecl, resvMade, if_pos]
        · rfl
        · change (!resvFits s (entryOf s ix).ptn ix (resvFor d (entryOf s ix).bound (entryOf s ix).kvfmt)) = true
          rw [show resvFits s (entryOf s ix).ptn ix (resvFor d (entryOf s ix).bound (entryOf s ix).kvfmt) = false from hfit]
          rfl
      · rw [entryOf_takeMessage, show (entryOf s ix).st = .paused from hst]
        decide
    · refine ⟨answer false h 0 0 h.handle (modEntry ix (fun x => { x with pendResume := true }) (takeMessage h s)), ?_,
        replied_now hc (msgsJoin.modEntry ..) 0, ?_, ?_⟩
      · rw [exec_resume hr, resumeCmd_of_free hx' hex, resumeDecide_of_open hx' (.inr hst) hd hw hp hv ht,
          if_pos (show (entryOf (takeMessage h s) ix).st = .pausing from hst)]
      · rw [answer_now, entryOf_replyFull, entryOf_modEntry_same]
      · rw [answer_now, entryOf_replyFull, entryOf_modEntry_same]; exact hst
    · refine ⟨reply h 0 (modEntry ix (fun x => { x with pendDiscard := true }) (takeMessage h s)), ?_, replied_after hc (msgsJoin.modEntry ..) 0, ?_⟩
      · rw [exec_discard hr, discardOp_of_entry hx', if_pos]
        rw [entryOf_takeMessage, show (entryOf s ix).waitHdr = none from hw]
        rcases hst with hst | hst <;> simp [show (entryOf s ix).st = _ from hst]
      · rw [entryOf_reply, entryOf_modEntry_same]
    · refine ⟨reply h 8 (takeMessage h s), ?_, replied hc 8⟩
      rw [exec_discard hr, discardOp_of_entry hx', if_neg]
      rw [entryOf_takeMessage]
      rcases hst with ⟨h1, h2⟩ | hw
      · simp [show (entryOf s ix).st ≠ .idle from h1, show (entryOf s ix).st ≠ .paused from h2]
      · obtain ⟨w, hw⟩ := Option.isSome_iff_exists.1 hw
        simp [show (entryOf s ix).waitHdr = some w from hw]

end Sys2Proof.Machine
end

section
/-! EXPORT, EXPORT_RELEASE and IMPORT (R352 to R354), and the decision on a CONTINUE (R348). -/

namespace Sys2Proof.Machine

/-! ## The decision on a CONTINUE -/

/-- A request's entry as its continued conversation goes on. -/
def contMoved (now : Bool) (st : RState) (x : Entry) : Entry :=
  { x with st := if st = .idle then (if now then .prefill else .queued) else .paused
           pendResume := x.pendResume || (now && st == .paused), cont := now && st == .paused }

/-- The conversation with its new tokens and limits, in its new state. -/
def contReady (h : Hdr) (b : SubmitBody) (d : Bundle) (ix : Nat) (s : State) : State :=
  modEntry ix (contMoved (admitting s (entryOf s ix).canvas) (entryOf s ix).st) (setPresence ix (modEntry ix (continued s h b d) s))

/-- A CONTINUE that nothing refused, by the bundle its canvas declares. -/
def contResv (late : Bool) (h : Hdr) (b : SubmitBody) (ix : Nat) (s : State) : Option Bundle → State
  | none => answer late h 8 0 h.handle s
  | some d =>
    if tintGone s (entryOf s ix) then answer late h 7 0 h.handle (modEntry ix (fun x => { x with pendDiscard := true }) s)
    else if !resvFits s (cmdPtn s h) ix (resvFor d ((entryOf s ix).toks.length + b.nprompt + b.maxnew) (entryOf s ix).kvfmt) then
      answer late h 6 0 h.handle s
    else admitEntry late h ix (entryOf s ix).canvas (some (savedOf (entryOf s ix))) (contReady h b d ix s)

/-- A CONTINUE by what refuses it. -/
def contDecided (late : Bool) (h : Hdr) (b : SubmitBody) (ix : Nat) (s : State) : Option (Nat × Nat) → State
  | some (st, arg) => answer late h st arg h.handle s
  | none => contResv late h b ix s (declared s (entryOf s ix).canvas)

/-- The conversation is kept, and no other command has it. -/
def convKept (e : Entry) : Bool := (e.st == .idle || e.st == .paused) && !e.pendDiscard && e.waitHdr.isNone

/-- What refuses a CONTINUE of an entry. -/
def contRefused (h : Hdr) (b : SubmitBody) (ix : Nat) (s : State) : Option (Nat × Nat) :=
  refuse s (cmdPtn s h) (bodyOk b (entryOf s ix).toks.length && convKept (entryOf s ix)) ((entryOf s ix).toks.length + b.nprompt + b.maxnew) b.noa8 b.ctl

theorem continueDecide_of_entry {late : Bool} {h : Hdr} {b : SubmitBody} {s : State} {ix : Nat} (hx : handleEntry s h = some ix) :
    continueDecide late h b s = contDecided late h b ix s (contRefused h b ix s) := by
  rw [continueDecide, hx]
  dsimp only
  change (match contRefused h b ix s with | some (st, arg) => _ | none => _) = _
  rcases contRefused h b ix s with _ | ⟨st, arg⟩
  · rw [contDecided]
    dsimp only
    cases declared s (entryOf s ix).canvas <;> rfl
  · rfl

theorem ok_of_refuse_none {s : State} {n total : Nat} {ok noa8 : Bool} {ctl : Ctl} (h : refuse s n ok total noa8 ctl = none) : ok = true := by
  rw [refuse] at h
  split at h
  · cases h
  · split at h
    · cases h
    · split at h
      · cases h
      · split at h
        · cases h
        · next hn =>
          by_contra hok
          exact hn (by simp [hok])

theorem st_of_convKept {e : Entry} (h : convKept e = true) : e.st = .idle ∨ e.st = .paused := by
  have h1 := (Bool.and_eq_true_iff.1 (Bool.and_eq_true_iff.1 h).1).1
  simpa using h1

/-! ## What a command that waited leaves of an entry -/

/-- An entry is exported as before, and stays in its state but for an idle one. -/
structure waitKeeps (ix : Nat) (s t : State) : Prop where
  exporting : (entryOf t ix).exporting = (entryOf s ix).exporting
  st : (entryOf s ix).st ≠ .idle → (entryOf t ix).st = (entryOf s ix).st

theorem waitKeeps.refl (ix : Nat) (s : State) : waitKeeps ix s s := ⟨rfl, fun _ => rfl⟩

theorem waitKeeps.trans {ix : Nat} {s t u : State} (h : waitKeeps ix s t) (k : waitKeeps ix t u) : waitKeeps ix s u :=
  ⟨k.exporting.trans h.exporting, fun hs => (k.st (by rw [h.st hs]; exact hs)).trans (h.st hs)⟩

theorem waitKeeps.of_entry {ix : Nat} {s t : State} (h : entryOf t ix = entryOf s ix) : waitKeeps ix s t := ⟨by rw [h], fun _ => by rw [h]⟩

theorem waitKeeps.modEntry {ix : Nat} {f : Entry → Entry} (j : Nat) (s : State) (he : (f (entryOf s j)).exporting = (entryOf s j).exporting)
    (hs : (entryOf s j).st ≠ .idle → (f (entryOf s j)).st = (entryOf s j).st) : waitKeeps ix s (modEntry j f s) := by
  by_cases hj : ix = j
  · subst hj
    exact ⟨by rw [entryOf_modEntry_same, he], fun h => by rw [entryOf_modEntry_same, hs h]⟩
  · exact .of_entry (entryOf_modEntry_ne _ _ _ _ hj)

theorem entryOf_answer (late : Bool) (h : Hdr) (st arg handle : Nat) (s : State) (ix : Nat) : entryOf (answer late h st arg handle s) ix = entryOf s ix := by
  cases late with
  | false => exact entryOf_replyFull ..
  | true => exact entryOf_replyLate ..

theorem waitKeeps.answer {ix : Nat} {s t : State} (hk : waitKeeps ix s t) (late : Bool) (h : Hdr) (st arg handle : Nat) :
    waitKeeps ix s (answer late h st arg handle t) := hk.trans (.of_entry (entryOf_answer ..))

theorem waitKeeps.admitEntry {ix : Nat} (late : Bool) (h : Hdr) (j c : Nat) (sv : Option Saved) (s : State) :
    waitKeeps ix s (admitEntry late h j c sv s) := by
  unfold Machine.admitEntry
  split
  · exact (waitKeeps.refl ix s).answer ..
  · dsimp only
    have hm : waitKeeps ix s (Machine.modEntry j (fun e => { e with waitHdr := some h, waitEnd := s.clk.us + 100000 * (cnvOf s c).admWait, saved := sv }) s) :=
      waitKeeps.modEntry j s rfl fun _ => rfl
    split
    · exact hm
    · exact hm.trans (.of_entry (entryOf_leaveOut ..))

theorem entryOf_setPresence (j : Nat) (s : State) (ix : Nat) : entryOf (setPresence j s) ix = entryOf s ix := rfl

theorem entryOf_contReady_same (h : Hdr) (b : SubmitBody) (d : Bundle) (ix : Nat) (s : State) : entryOf (contReady h b d ix s) ix =
    contMoved (admitting s (entryOf s ix).canvas) (entryOf s ix).st (continued s h b d (entryOf s ix)) := by
  rw [contReady, entryOf_modEntry_same, entryOf_setPresence, entryOf_modEntry_same]

theorem entryOf_contReady_ne {ix j : Nat} (hj : j ≠ ix) (h : Hdr) (b : SubmitBody) (d : Bundle) (s : State) :
    entryOf (contReady h b d ix s) j = entryOf s j := by
  rw [contReady, entryOf_modEntry_ne _ _ _ _ hj, entryOf_setPresence, entryOf_modEntry_ne _ _ _ _ hj]

theorem waitKeeps.contReady {ix j : Nat} (h : Hdr) (b : SubmitBody) (d : Bundle) {s : State} (hk : convKept (entryOf s j) = true) :
    waitKeeps ix s (contReady h b d j s) := by
  by_cases hj : ix = j
  · subst hj
    refine ⟨?_, fun hs => ?_⟩
    · rw [entryOf_contReady_same]; rfl
    · rw [entryOf_contReady_same, (st_of_convKept hk).resolve_left hs]; rfl
  · exact .of_entry (entryOf_contReady_ne hj ..)

theorem waitKeeps.continueDecide (ix : Nat) (late : Bool) (h : Hdr) (b : SubmitBody) (s : State) : waitKeeps ix s (continueDecide late h b s) := by
  have hr := waitKeeps.refl ix s
  cases hx : handleEntry s h with
  | none =>
    rw [Machine.continueDecide, hx]
    dsimp only
    split
    · exact hr.answer ..
    · exact hr.answer ..
    · exact hr.answer ..
  | some j =>
    rw [continueDecide_of_entry hx]
    rcases href : contRefused h b j s with _ | ⟨st, arg⟩
    · rw [contDecided]
      have hkept : convKept (entryOf s j) = true := (Bool.and_eq_true_iff.1 (ok_of_refuse_none href)).2
      cases declared s (entryOf s j).canvas with
      | none => exact hr.answer ..
      | some d =>
        rw [contResv]
        split
        · exact (waitKeeps.modEntry (f := fun x => { x with pendDiscard := true }) j s rfl fun _ => rfl).answer ..
        · split
          · exact hr.answer ..
          · exact (waitKeeps.contReady h b d hkept).trans (waitKeeps.admitEntry ..)
    · exact hr.answer ..

theorem waitKeeps.resumeDecide (ix : Nat) (late : Bool) (h : Hdr) (s : State) : waitKeeps ix s (resumeDecide late h s) := by
  have hr := waitKeeps.refl ix s
  have hm : ∀ (j : Nat) (f : Entry → Entry), (∀ e, (f e).exporting = e.exporting) → (∀ e, (f e).st = e.st) → waitKeeps ix s (Machine.modEntry j f s) :=
    fun j f h1 h2 => waitKeeps.modEntry j s (h1 _) fun _ => h2 _
  cases hx : handleEntry s h with
  | none =>
    rw [Machine.resumeDecide, hx]
    exact hr.answer ..
  | some j =>
    rw [resumeDecide_of_entry hx]
    split
    · exact hr.answer ..
    · split
      · exact hr.answer ..
      · split
        · exact (hm j (fun x => { x with pendDiscard := true }) (fun _ => rfl) fun _ => rfl).answer ..
        · split
          · exact (hm j (fun x => { x with pendResume := true }) (fun _ => rfl) fun _ => rfl).answer ..
          · cases declared s (entryOf s j).canvas with
            | none => exact hr.answer ..
            | some d =>
              rw [resvMade]
              split
              · exact hr.answer ..
              · exact (hm j (fun x => { x with resv := resvFor d (entryOf s j).bound (entryOf s j).kvfmt, pendResume := true }) (fun _ => rfl) fun _ => rfl).answer ..

theorem waitKeeps.decideWaiting (ix : Nat) (s : State) (w : Hdr × Option SubmitBody) : waitKeeps ix s (decideWaiting s w) := by
  unfold Machine.decideWaiting
  split
  · exact waitKeeps.continueDecide ..
  · exact waitKeeps.resumeDecide ..

theorem waitKeeps.foldl (ix : Nat) (l : List (Hdr × Option SubmitBody)) (s : State) : waitKeeps ix s (l.foldl Machine.decideWaiting s) := by
  induction l generalizing s with
  | nil => exact .refl ix s
  | cons w l ih => exact (waitKeeps.decideWaiting ix s w).trans (ih _)

/-! ## The end of an EXPORT -/

theorem exporting_answerWaiting (ix a b : Nat) (s : State) : (entryOf (answerWaiting ix a b s) ix).exporting = (entryOf s ix).exporting := by
  have hfold : ∀ (l : List (Hdr × Option SubmitBody)) (t : State),
      entryOf (l.foldl (fun u w => replyLate w.1 b 0 w.1.handle [] u) t) ix = entryOf t ix := fun l t =>
    foldl_keeps (fun u : State => entryOf u ix) (fun u (w : Hdr × Option SubmitBody) => replyLate w.1 b 0 w.1.handle [] u) (fun _ _ => entryOf_replyLate ..) l t
  unfold answerWaiting
  dsimp only
  split
  · rfl
  · rw [hfold]
    split
    · rw [entryOf_replyLate, entryOf_modEntry_same]
    · rw [entryOf_modEntry_same]

theorem entryOf_freePage (ptn mark q : Nat) (s : State) (ix : Nat) : entryOf (freePage ptn mark q s) ix = entryOf s ix := by
  unfold freePage
  split <;> rfl

/-- An entry without its pages, as `freePages` leaves it. -/
def pagesDropped (x : Entry) : Entry :=
  { x with pages := [], tpages := [], tblk := 0, mxn := 0, mxf := [], sff := [], mpages := [], ptroot := 0, mroot := 0 }

/-- An entry without its far-tier frames. -/
def farDropped (x : Entry) : Entry := { x with far := 0, farPages := [] }

/-- An entry that waits for the scrub of its frames. -/
def entryRetiring (x : Entry) : Entry := { x with st := .retiring, killAcct := false }

theorem exporting_modEntry_keeps {f : Entry → Entry} (hf : ∀ x, (f x).exporting = x.exporting) (ix : Nat) (s : State) :
    (entryOf (modEntry ix f s) ix).exporting = (entryOf s ix).exporting := by rw [entryOf_modEntry_same, hf]

theorem entryOf_pagesForgotten (ix : Nat) (s : State) : entryOf (pagesForgotten ix s) ix = entryOf (modEntry ix pagesDropped s) ix := rfl

theorem exporting_freePages (ix mark : Nat) (s : State) : (entryOf (freePages ix mark s) ix).exporting = (entryOf s ix).exporting := by
  rw [freePages_eq, entryOf_pagesForgotten, exporting_modEntry_keeps (f := pagesDropped) (fun _ => rfl)]
  exact congrArg Entry.exporting (foldl_keeps (fun u : State => entryOf u ix) (fun t q => freePage (entryOf s ix).ptn mark q t)
    (fun _ _ => entryOf_freePage ..) _ s)

/-- The state with an entry's far-tier frames given up to be scrubbed. -/
def farFreed (ix mark : Nat) (s : State) : State :=
  { modEntry ix farDropped s with
    kv := { s.kv with scrubFar := s.kv.scrubFar ++ List.replicate (entryOf s ix).far ((entryOf s ix).ptn, mark) } }

theorem freeFar_eq (ix mark : Nat) (s : State) : freeFar ix mark s = if (entryOf s ix).far = 0 then s else farFreed ix mark s := rfl

theorem entryOf_farFreed (ix mark j : Nat) (s : State) : entryOf (farFreed ix mark s) j = entryOf (modEntry ix farDropped s) j := rfl

theorem exporting_freeFar (ix mark : Nat) (s : State) : (entryOf (freeFar ix mark s) ix).exporting = (entryOf s ix).exporting := by
  rw [freeFar_eq]
  split
  · rfl
  · rw [entryOf_farFreed, exporting_modEntry_keeps (f := farDropped) (fun _ => rfl)]

theorem retire_eq (ix : Nat) (s : State) : retire ix s =
    if (entryOf s ix).st = .free ∨ (entryOf s ix).st = .retiring then s
    else if (ptnOf s (entryOf s ix).ptn).sealed ∧ ((entryOf s ix).pages ≠ [] ∨ (entryOf s ix).far ≠ 0) then
      modEntry ix entryRetiring (freePages ix (ix + 1) (freeFar ix (ix + 1) (answerWaiting ix 8 8 s)))
    else freeEntry ix (freePages ix 0 (freeFar ix 0 (answerWaiting ix 8 8 s))) := rfl

theorem exporting_retire (ix : Nat) (s : State) : (entryOf (retire ix s) ix).exporting = (entryOf s ix).exporting := by
  rw [retire_eq]
  split
  · rfl
  · split
    · rw [exporting_modEntry_keeps (f := entryRetiring) (fun _ => rfl), exporting_freePages, exporting_freeFar, exporting_answerWaiting]
    · rw [entryOf_freeEntry, exporting_modEntry_keeps (f := entryFreed) (fun _ => rfl), exporting_freePages, exporting_freeFar, exporting_answerWaiting]

theorem exec_exportRelease {ix : Nat} (h : ix < 16384) (s : State) : exec (.exportRelease ix) s = .next (exportEnd ix s) := by
  change execExportRelease ix s = _
  rw [execExportRelease, decide_eq_true h]; rfl

/-- The EXPORT is over; with the package acknowledged, a released conversation is retired. -/
def exportOver (ix : Nat) (s : State) : State :=
  let t := modEntry ix (fun x => { x with exporting := false, exRelease := false, exWait := [] }) s
  if (entryOf s ix).exRelease && (sesOf s (entryOf s ix).exSession).live then retire ix t else t

theorem exportEnd_eq (ix : Nat) (s : State) : exportEnd ix s =
    if (entryOf s ix).exporting && (entryOf s ix).st == .paused && !packageOut ix s then (entryOf s ix).exWait.foldl decideWaiting (exportOver ix s)
    else s := rfl

theorem exportEnd_spec {ix : Nat} {s : State} (he : (entryOf s ix).exporting = true) (hs : (entryOf s ix).st = .paused) (hp : packageOut ix s = false) :
    (entryOf (exportEnd ix s) ix).exporting = false ∧
    ((entryOf s ix).exRelease = true → (sesOf s (entryOf s ix).exSession).live = true → gone (exportEnd ix s) ix) ∧
    ((entryOf s ix).exRelease = false → (entryOf (exportEnd ix s) ix).st = .paused) := by
  have hk := waitKeeps.foldl ix (entryOf s ix).exWait (exportOver ix s)
  rw [exportEnd_eq, if_pos (by simp [he, hs, hp])]
  refine ⟨?_, fun hr hl => ?_, fun hr => ?_⟩
  · rw [hk.exporting, exportOver]
    split
    · rw [exporting_retire, entryOf_modEntry_same]
    · rw [entryOf_modEntry_same]
  · have hg : gone (exportOver ix s) ix := by
      rw [exportOver]
      rw [if_pos (by simp [hr, hl])]
      exact gone_retire ..
    have hst := hk.st (by rcases hg with hg | hg <;> rw [hg] <;> decide)
    exact hg.imp (fun h => by rw [hst, h]) fun h => by rw [hst, h]
  · have ho : (entryOf (exportOver ix s) ix).st = .paused := by
      rw [exportOver]
      rw [if_neg (by simp [hr]), entryOf_modEntry_same]
      exact hs
    rw [hk.st (by rw [ho]; decide), ho]

/-! ## EXPORT -/

theorem exec_export {s : State} {h : Hdr} (hr : cmdRuns s .partition h) (rel : Bool) (peer : Nat) :
    exec (.export_ h rel peer) s = .next (exportOp h rel peer (takeMessage h s)) := hostCmd_of_runs hr rfl _

/-- An entry marked for EXPORT. -/
def exportMarked (rel : Bool) (ses peer key serial : Nat) (x : Entry) (idle : Bool) : Entry :=
  { x with exporting := true, exRelease := rel, exSession := ses, exPeer := peer, exKey := key, exSerial := serial, pendPause := x.pendPause || idle }

/-- The conversation marked for EXPORT with the next serial. -/
def exportBegun (h : Hdr) (rel : Bool) (peer ix : Nat) (s : State) : State :=
  modEntry ix (fun x => exportMarked rel h.ses peer (Config.keyBits s.dev.keyCtr).toNat s.req.expSerial x ((entryOf s ix).st == .idle))
    { s with req := { s.req with expSerial := (s.req.expSerial + 1) % 2 ^ 64 }, dev := { s.dev with keyCtr := s.dev.keyCtr + 1 } }

theorem exportOp_of_entry {s : State} {h : Hdr} {ix : Nat} (hx : handleEntry s h = some ix) (rel : Bool) (peer : Nat) : exportOp h rel peer s =
    if !((entryOf s ix).st == .idle || (entryOf s ix).st == .paused) || (entryOf s ix).exporting || (entryOf s ix).pendDiscard
      || (entryOf s ix).waitHdr.isSome then reply h 8 s
    else if (entryOf s ix).st = .idle ∧ !pauseFits s ix then reply h 6 s
    else sendPackage ix (reply h 0 (exportBegun h rel peer ix s)) := by
  rw [exportOp, hx]
  rfl

theorem msgsJoin.sendPackage (ix : Nat) (s : State) : msgsJoin s (sendPackage ix s) := by
  unfold Machine.sendPackage
  dsimp only
  split
  · exact msgsJoin.foldl (fun t p => msgsJoin.post _ _ t) _ s
  · exact msgsJoin.refl s

theorem req_sendPackage (ix : Nat) (s : State) : (sendPackage ix s).req = s.req :=
  (co_sendPackage (L := [.net]) ix s (by decide) (co_refl _ s)).2 .req (by decide)

theorem req_reply (h : Hdr) (st : Nat) (s : State) : (reply h st s).req = s.req :=
  (co_reply (L := [.net]) h st s (by decide) (co_refl _ s)).2 .req (by decide)

theorem entryOf_exportBegun (h : Hdr) (rel : Bool) (peer ix : Nat) (s : State) : entryOf (exportBegun h rel peer ix s) ix =
    exportMarked rel h.ses peer (Config.keyBits s.dev.keyCtr).toNat s.req.expSerial (entryOf s ix) ((entryOf s ix).st == .idle) := by
  rw [exportBegun, entryOf_modEntry_same]
  rfl

theorem expSerial_exportBegun (h : Hdr) (rel : Bool) (peer ix : Nat) (s : State) :
    (exportBegun h rel peer ix s).req.expSerial = (s.req.expSerial + 1) % 2 ^ 64 := rfl

theorem net_exportBegun (h : Hdr) (rel : Bool) (peer ix : Nat) (s : State) : (exportBegun h rel peer ix s).net = s.net := rfl

/-- A conversation that may be exported is marked, and its package goes out once it is paused. -/
theorem export_spec {s : State} {h : Hdr} (hr : cmdRuns s .partition h) {ix : Nat} (hx : handleEntry s h = some ix) (rel : Bool) (peer : Nat)
    (hst : (entryOf s ix).st = .paused ∨ (entryOf s ix).st = .idle ∧ pauseFits s ix = true) (he : (entryOf s ix).exporting = false)
    (hd : (entryOf s ix).pendDiscard = false) (hw : (entryOf s ix).waitHdr = none) : ∃ t, exec (.export_ h rel peer) s = .next t ∧ answered s t h 0 [] ∧
    (entryOf t ix).exporting = true ∧ (entryOf t ix).exRelease = rel ∧ (entryOf t ix).exPeer = peer ∧ (entryOf t ix).exSerial = s.req.expSerial ∧
    t.req.expSerial = (s.req.expSerial + 1) % 2 ^ 64 ∧ ((entryOf s ix).st = .idle → (entryOf t ix).pendPause = true) := by
  have hx' : handleEntry (takeMessage h s) h = some ix := by rw [handleEntry_takeMessage, hx]
  have hreq : (sendPackage ix (reply h 0 (exportBegun h rel peer ix (takeMessage h s)))).req = (exportBegun h rel peer ix (takeMessage h s)).req := by
    rw [req_sendPackage, req_reply]
  have hent : entryOf (sendPackage ix (reply h 0 (exportBegun h rel peer ix (takeMessage h s)))) ix =
      entryOf (exportBegun h rel peer ix (takeMessage h s)) ix := by rw [entryOf, hreq, entryOf]
  have hj : msgsJoin (takeMessage h s) (exportBegun h rel peer ix (takeMessage h s)) :=
    msgsJoin.of_net (congrArg NetSt.sess (net_exportBegun h rel peer ix (takeMessage h s)))
  refine ⟨sendPackage ix (reply h 0 (exportBegun h rel peer ix (takeMessage h s))), ?_,
    answered_behind (replied_after (canAnswer_of_ready hr.1) hj 0) (msgsJoin.sendPackage ..), ?_⟩
  · rw [exec_export hr, exportOp_of_entry hx', if_neg, if_neg]
    · rintro ⟨h1, h2⟩
      have h1' : (entryOf s ix).st = .idle := h1
      have h2' : (!pauseFits s ix) = true := h2
      rcases hst with hst | ⟨-, hf⟩
      · rw [hst] at h1'; cases h1'
      · rw [hf] at h2'; cases h2'
    · rw [entryOf_takeMessage, he, hd, hw]
      rcases hst with hst | ⟨hst, -⟩ <;> simp [hst]
  · rw [hreq, hent, entryOf_exportBegun, entryOf_takeMessage, expSerial_exportBegun]
    exact ⟨rfl, rfl, rfl, rfl, rfl, fun hi => by simp [exportMarked, hi]⟩

/-! ## IMPORT -/

theorem exec_import {s : State} {h : Hdr} (hr : cmdRuns s .partition h) (p : Package) :
    exec (.import_ h p) s = .next (importOp h p (takeMessage h s)) := hostCmd_of_runs hr rfl _

/-- A new entry under its next generation. -/
def nextGen (e : Entry) (g : Nat) : Entry := { e with gen := if g = 16383 then 1 else g + 1 }

theorem entryOf_takeEntry (ix j : Nat) (e : Entry) (s : State) :
    entryOf (takeEntry ix e s) j = entryOf (modEntry ix (fun _ => nextGen e (entryOf s ix).gen) s) j := rfl

theorem entryOf_takeEntry_same (ix : Nat) (e : Entry) (s : State) : entryOf (takeEntry ix e s) ix = nextGen e (entryOf s ix).gen := by
  rw [entryOf_takeEntry, entryOf_modEntry_same]

theorem entryOf_takeEntry_ne {ix j : Nat} (h : j ≠ ix) (e : Entry) (s : State) : entryOf (takeEntry ix e s) j = entryOf s j := by
  rw [entryOf_takeEntry, entryOf_modEntry_ne ix j _ s h]

/-- The serials of imported packages with one more, at most 4,096 of each peer. -/
def serialsWith (x : Nat × Nat) (l : List (Nat × Nat)) : List (Nat × Nat) :=
  let mine := (l.filter fun i => i.1 == x.1) ++ [x]
  (l.filter fun i => i.1 != x.1) ++ mine.drop (mine.length - 4096)

theorem mem_serialsWith (x : Nat × Nat) (l : List (Nat × Nat)) : x ∈ serialsWith x l := by
  refine List.mem_append_right _ ?_
  rw [List.drop_append_of_le_length (by simp only [List.length_append, List.length_singleton]; omega)]
  exact List.mem_append_right _ (List.mem_singleton.2 rfl)

/-- The serial of an imported package kept. -/
def serialKept (x : Nat × Nat) (s : State) : State := { s with req := { s.req with imported := serialsWith x s.req.imported } }

/-- The paused entry that a package makes, its serial kept. -/
def imported (h : Hdr) (n ix : Nat) (p : Package) (s : State) : State :=
  serialKept (p.peer, p.serial) (takeEntry ix (importEntry s h n p ((tintWithHash s n p.tint p.tintHash).getD 0)) s)

/-- The hash of the bundle that is resident on a partition's canvas. -/
def residentHash (n : Nat) (s : State) : Nat := match (cnvOf s (ptnOf s n).canvas).bundle with | some b => b.hash | none => 0

/-- An import by the entry it can take. -/
def importInto (h : Hdr) (p : Package) (s : State) : Option Nat → State
  | none => reply h 6 s
  | some ix =>
    if (ptnOf s (cmdPtn s h)).entryMax ≤ entryUsed s (cmdPtn s h) || !quotaTakes s (cmdPtn s h) 16384 p.frames then reply h 6 s
    else replyFull h 0 0 (entryHandle ix (entryOf (imported h (cmdPtn s h) ix p s) ix)) [] (imported h (cmdPtn s h) ix p s)

theorem importOp_eq (h : Hdr) (p : Package) (s : State) : importOp h p s =
    if s.hist.draining || s.hist.inRepl then reply h 9 s
    else if ptnClosed s (cmdPtn s h) then reply h 4 s
    else if !p.sigOk || !p.forUs then reply h 8 s
    else if s.req.imported.contains (p.peer, p.serial) then reply h 8 s
    else if residentHash (cmdPtn s h) s ≠ p.hash || (cnvOf s (ptnOf s (cmdPtn s h)).canvas).bundle.isNone then reply h 8 s
    else if p.tbound && (tintWithHash s (cmdPtn s h) p.tint p.tintHash).isNone then reply h 7 s
    else importInto h p s (freeIndex s) := by
  unfold importOp
  dsimp only
  cases freeIndex s <;> rfl

theorem importEntry_spec (h : Hdr) (n ix : Nat) (p : Package) (s : State) : (entryOf (imported h n ix p s) ix).st = .paused ∧
    (entryOf (imported h n ix p s) ix).toks = p.tokens ∧ (entryOf (imported h n ix p s) ix).kv = p.kv ∧ (entryOf (imported h n ix p s) ix).ptn = n ∧
    (entryOf (imported h n ix p s) ix).farPages = p.pages ∧ (entryOf (imported h n ix p s) ix).ret = .idle ∧
    (entryOf (imported h n ix p s) ix).fin = some 0 := by
  have he : entryOf (imported h n ix p s) ix = entryOf (takeEntry ix (importEntry s h n p ((tintWithHash s n p.tint p.tintHash).getD 0)) s) ix := rfl
  rw [he, entryOf_takeEntry_same]
  exact ⟨rfl, rfl, rfl, rfl, rfl, rfl, rfl⟩

theorem imported_list (h : Hdr) (n ix : Nat) (p : Package) (s : State) : (p.peer, p.serial) ∈ (imported h n ix p s).req.imported := mem_serialsWith ..

theorem net_imported (h : Hdr) (n ix : Nat) (p : Package) (s : State) : (imported h n ix p s).net = s.net := rfl

/-- A package that passes every check. -/
theorem import_spec {s : State} {h : Hdr} (hr : cmdRuns s .partition h) {p : Package} (hd : s.hist.draining = false) (hi : s.hist.inRepl = false)
    {b : Bundle} {ix : Nat} (hcl : ptnClosed s (cmdPtn s h) = false) (hsig : p.sigOk = true) (hfor : p.forUs = true)
    (hnew : (p.peer, p.serial) ∉ s.req.imported) (hb : (cnvOf s (ptnOf s (cmdPtn s h)).canvas).bundle = some b) (hhash : b.hash = p.hash)
    (ht : p.tbound = false ∨ (tintWithHash s (cmdPtn s h) p.tint p.tintHash).isSome = true) (hix : freeIndex s = some ix)
    (hmax : entryUsed s (cmdPtn s h) < (ptnOf s (cmdPtn s h)).entryMax) (hq : quotaTakes s (cmdPtn s h) 16384 p.frames = true) :
    ∃ t, exec (.import_ h p) s = .next t ∧ answered s t h 0 [] ∧
        (entryOf t ix).st = .paused ∧ (entryOf t ix).toks = p.tokens ∧ (entryOf t ix).kv = p.kv ∧ (entryOf t ix).ptn = cmdPtn s h ∧
        (entryOf t ix).farPages = p.pages ∧ (entryOf t ix).ret = .idle ∧ (entryOf t ix).fin = some 0 ∧ (p.peer, p.serial) ∈ t.req.imported := by
  have hj : msgsJoin (takeMessage h s) (imported h (cmdPtn s h) ix p (takeMessage h s)) :=
    msgsJoin.of_net (congrArg NetSt.sess (net_imported h (cmdPtn s h) ix p (takeMessage h s)))
  have hc := canAnswer_taken (canAnswer_of_ready hr.1)
  obtain ⟨e1, e2, e3, e4, e5, e6, e7⟩ := importEntry_spec h (cmdPtn s h) ix p (takeMessage h s)
  refine ⟨replyFull h 0 0 (entryHandle ix (entryOf (imported h (cmdPtn s h) ix p (takeMessage h s)) ix)) [] (imported h (cmdPtn s h) ix p (takeMessage h s)),
    ?_, answered_of_taken (answered_before (answered_replyFull (canAnswer_join hc hj) _ _ _ List.nil_prefix) hj), ?_⟩
  · have hres : residentHash (cmdPtn s h) s = p.hash := by rw [residentHash, hb]; exact hhash
    rw [exec_import hr, importOp_eq, cmdPtn_takeMessage]
    change Host.Outcome.next (if s.hist.draining || s.hist.inRepl then _ else if ptnClosed s (cmdPtn s h) then _ else if _ then _
      else if s.req.imported.contains (p.peer, p.serial) then _
      else if residentHash (cmdPtn s h) s ≠ p.hash || (cnvOf s (ptnOf s (cmdPtn s h)).canvas).bundle.isNone then _
      else if p.tbound && (tintWithHash s (cmdPtn s h) p.tint p.tintHash).isNone then _
      else importInto h p (takeMessage h s) (freeIndex s)) = _
    rw [if_neg (by simp [hd, hi]), if_neg (by simp [hcl]), if_neg (by simp [hsig, hfor]), if_neg (by simpa using hnew), if_neg (by simp [hres, hb]),
      if_neg, hix, importInto, cmdPtn_takeMessage, if_neg]
    · change ¬((ptnOf s (cmdPtn s h)).entryMax ≤ entryUsed s (cmdPtn s h) || !quotaTakes s (cmdPtn s h) 16384 p.frames) = true
      rw [hq]
      simp only [Bool.not_true, Bool.or_false, decide_eq_true_eq]
      omega
    · rcases ht with ht | ht
      · simp [ht]
      · obtain ⟨v, hv⟩ := Option.isSome_iff_exists.1 ht
        simp [hv]
  · rw [entryOf_replyFull, (co_replyFull (L := [.net]) _ _ _ _ _ _ (by decide) (co_refl _ _)).2 .req (by decide)]
    exact ⟨e1, e2, e3, e4, e5, e6, e7, imported_list ..⟩

/-- Settles O42: an EXPORT marks its conversation and ends with its commands decided, an import makes a paused entry. -/
theorem exportAndImport : Obligations.ExportAndImport := by
  refine fun h s => ⟨fun rel peer ix hr hx => ⟨fun h1 h2 => ?_, fun hst he hd hw => export_spec hr hx rel peer hst he hd hw⟩,
    fun ix hix => ⟨fun hn => ?_, fun he hs hp => ⟨exportEnd ix s, exec_exportRelease hix s, exportEnd_spec he hs hp⟩⟩,
    fun p hr hd hi => ⟨fun hcl => ?_, fun hcl hbad => ?_,
      fun b ix hcl hsig hfor hnew hb hhash ht hfree hmax hq => import_spec hr hd hi hcl hsig hfor hnew hb hhash ht hfree hmax hq⟩⟩
  · have hx' : handleEntry (takeMessage h s) h = some ix := by rw [handleEntry_takeMessage, hx]
    refine ⟨reply h 8 (takeMessage h s), ?_, replied (canAnswer_of_ready hr.1) 8⟩
    rw [exec_export hr, exportOp_of_entry hx', if_pos]
    rw [entryOf_takeMessage]
    simp [show (entryOf s ix).st ≠ .idle from h1, show (entryOf s ix).st ≠ .paused from h2]
  · rw [exec_exportRelease hix, exportEnd_eq, if_neg]
    rcases hn with hn | hn | hn <;> simp [hn]
  · refine ⟨reply h 4 (takeMessage h s), ?_, replied (canAnswer_of_ready hr.1) 4⟩
    rw [exec_import hr, importOp_eq, cmdPtn_takeMessage]
    change Host.Outcome.next (if s.hist.draining || s.hist.inRepl then _ else if ptnClosed s (cmdPtn s h) then _ else _) = _
    rw [if_neg (by simp [hd, hi]), if_pos hcl]
  · refine ⟨reply h 8 (takeMessage h s), ?_, replied (canAnswer_of_ready hr.1) 8⟩
    rw [exec_import hr, importOp_eq, cmdPtn_takeMessage]
    change Host.Outcome.next (if s.hist.draining || s.hist.inRepl then _ else if ptnClosed s (cmdPtn s h) then _ else if _ then _
      else if s.req.imported.contains (p.peer, p.serial) then _ else _) = _
    rw [if_neg (by simp [hd, hi]), if_neg (by simp [hcl])]
    by_cases hs : p.sigOk = true ∧ p.forUs = true
    · have hm : (p.peer, p.serial) ∈ s.req.imported := by
        rcases hbad with h1 | h1 | h1
        · rw [hs.1] at h1; cases h1
        · rw [hs.2] at h1; cases h1
        · exact h1
      rw [if_neg (by simp [hs.1, hs.2]), if_pos (by simpa using hm)]
    · rw [if_pos]
      by_cases h1 : p.sigOk = true
      · simp [show p.forUs = false by simpa [h1] using hs]
      · simp [h1]

end Sys2Proof.Machine
end

section
/-! What a step about one request leaves of the other requests and of the partitions. -/

namespace Sys2Proof.Machine

/-! ## Steps about one entry -/

/-- A step about the entry `j`: the other entries are as they were, and of the partitions only completion queues change. -/
structure onlyEntry (j : Nat) (s t : State) : Prop where
  others : ∀ i, i ≠ j → entryOf t i = entryOf s i
  ptns : ∀ n, ∃ q, ptnOf t n = { ptnOf s n with cqs := q }

theorem onlyEntry.refl (j : Nat) (s : State) : onlyEntry j s s := ⟨fun _ _ => rfl, fun n => ⟨(ptnOf s n).cqs, rfl⟩⟩

theorem onlyEntry.trans {j : Nat} {s t u : State} (h : onlyEntry j s t) (k : onlyEntry j t u) : onlyEntry j s u :=
  ⟨fun i hi => (k.others i hi).trans (h.others i hi), fun n => by
    obtain ⟨q, hq⟩ := h.ptns n
    obtain ⟨r, hr⟩ := k.ptns n
    exact ⟨r, by rw [hr, hq]⟩⟩

theorem onlyEntry.of_parts {j : Nat} {s t : State} (hr : t.req = s.req) (hp : t.ptn = s.ptn) : onlyEntry j s t :=
  ⟨fun i _ => by rw [entryOf, hr, entryOf], fun n => ⟨(ptnOf s n).cqs, by rw [ptnOf, hp, ptnOf]⟩⟩

theorem onlyEntry.of_entries {j : Nat} {s t : State} (hr : ∀ i, entryOf t i = entryOf s i) (hp : t.ptn = s.ptn) : onlyEntry j s t :=
  ⟨fun i _ => hr i, fun n => ⟨(ptnOf s n).cqs, by rw [ptnOf, hp, ptnOf]⟩⟩

theorem onlyEntry.of_changesOnly {j : Nat} {L : List Part} {s t : State} (h : changesOnly L s t) (hr : Part.req ∉ L) (hp : Part.ptn ∉ L) :
    onlyEntry j s t := .of_parts (h.2 .req hr) (h.2 .ptn hp)

theorem onlyEntry.modEntry (j : Nat) (f : Entry → Entry) (s : State) : onlyEntry j s (modEntry j f s) :=
  ⟨fun i hi => entryOf_modEntry_ne j i f s hi, fun n => ⟨(ptnOf s n).cqs, rfl⟩⟩

theorem onlyEntry.post (j k : Nat) (m : Msg) (s : State) : onlyEntry j s (post k m s) :=
  .of_changesOnly (co_post (L := [.net]) k m s (by decide) (co_refl _ s)) (by decide) (by decide)

theorem onlyEntry.replyLate (j : Nat) (h : Hdr) (st arg handle : Nat) (body : List Byte) (s : State) : onlyEntry j s (replyLate h st arg handle body s) :=
  .of_changesOnly (co_replyLate (L := [.net]) h st arg handle body s (by decide) (co_refl _ s)) (by decide) (by decide)

theorem onlyEntry.foldl {β : Type} {j : Nat} {f : State → β → State} (h : ∀ t x, onlyEntry j t (f t x)) (l : List β) (s : State) :
    onlyEntry j s (l.foldl f s) := by
  induction l generalizing s with
  | nil => exact .refl j s
  | cons x l ih => exact (h s x).trans (ih _)

theorem onlyEntry.queued (j n : Nat) (f : Ptn → Tab (List CqEnt)) (s : State) : onlyEntry j s (modPtn n (fun p => { p with cqs := f p }) s) :=
  ⟨fun _ _ => rfl, fun m => by
    rw [ptnOf_modPtn]
    split
    · exact ⟨f (ptnOf s m), rfl⟩
    · exact ⟨(ptnOf s m).cqs, rfl⟩⟩

theorem onlyEntry.sendCompletion (j : Nat) (s : State) : onlyEntry j s (sendCompletion j s) := by
  unfold Machine.sendCompletion
  exact (onlyEntry.queued j _ _ s).trans ((onlyEntry.modEntry j _ _).trans (onlyEntry.post j _ _ _))

theorem onlyEntry.answerWaiting (j a b : Nat) (s : State) : onlyEntry j s (answerWaiting j a b s) := by
  have hf : ∀ (l : List (Hdr × Option SubmitBody)) (t : State),
      onlyEntry j t (l.foldl (fun u w => Machine.replyLate w.1 b 0 w.1.handle [] u) t) := .foldl fun _ _ => .replyLate ..
  unfold Machine.answerWaiting
  dsimp only
  split
  · exact .refl j s
  · refine onlyEntry.trans ?_ (hf _ _)
    split
    · exact (onlyEntry.modEntry j _ s).trans (.replyLate ..)
    · exact .modEntry j _ s

theorem onlyEntry.complete (j status : Nat) (s : State) : onlyEntry j s (complete j status s) := by
  unfold Machine.complete
  split
  · exact .refl j s
  · have h := (onlyEntry.answerWaiting j 0 8 s).trans (.modEntry j (fun x => { x with fin := some status, finPend := true }) _)
    dsimp only
    split
    · exact h.trans (.sendCompletion j _)
    · exact h

theorem onlyEntry.freePages (j mark : Nat) (s : State) : onlyEntry j s (freePages j mark s) := by
  rw [freePages_eq]
  have h : onlyEntry j s ((entryOf s j).pages.foldl (fun t q => freePage (entryOf s j).ptn mark q t) s) :=
    .foldl (fun t q => .of_changesOnly (co_freePage (L := [.kv]) _ mark q t (by decide) (co_refl _ t)) (by decide) (by decide)) _ s
  have hp : ∀ t, onlyEntry j t (pagesForgotten j t) := fun t =>
    ⟨fun i hi => entryOf_modEntry_ne j i pagesDropped t hi, fun n => ⟨(ptnOf t n).cqs, rfl⟩⟩
  exact h.trans (hp _)

theorem onlyEntry.freeFar (j mark : Nat) (s : State) : onlyEntry j s (freeFar j mark s) := by
  rw [freeFar_eq]
  split
  · exact .refl j s
  · exact ⟨fun i hi => (entryOf_farFreed ..).trans (entryOf_modEntry_ne j i farDropped s hi), fun n => ⟨(ptnOf s n).cqs, rfl⟩⟩

theorem onlyEntry.freeEntry (j : Nat) (s : State) : onlyEntry j s (freeEntry j s) :=
  ⟨fun i hi => (entryOf_freeEntry ..).trans (entryOf_modEntry_ne j i entryFreed s hi), fun n => ⟨(ptnOf s n).cqs, rfl⟩⟩

theorem onlyEntry.retire (j : Nat) (s : State) : onlyEntry j s (retire j s) := by
  rw [retire_eq]
  have h := fun mark => (onlyEntry.answerWaiting j 8 8 s).trans ((onlyEntry.freeFar j mark _).trans (onlyEntry.freePages j mark _))
  split
  · exact .refl j s
  · split
    · exact (h _).trans (.modEntry ..)
    · exact (h _).trans (.freeEntry ..)

theorem onlyEntry.retireWith (j status : Nat) (s : State) : onlyEntry j s (retireWith j status s) :=
  (onlyEntry.complete j status s).trans (.retire j _)

theorem onlyEntry.killNow (j status : Nat) (s : State) : onlyEntry j s (killNow j status s) := by
  unfold Machine.killNow
  split
  · next l _ =>
    have hk : onlyEntry j s (killLane l s) :=
      .of_changesOnly (co_killLane (L := [.seq, .sch]) l s (by decide) (co_refl _ s)) (by decide) (by decide)
    exact hk.trans ((onlyEntry.complete j status _).trans (.modEntry ..))
  · exact .retireWith j status s

/-- The mark of an event that ends a running request at the boundary. -/
def endMarked (status : Nat) (e : Entry) : Entry := { e with pendCancel := some (e.pendCancel.getD status) }

theorem endRequest_eq (j status : Nat) (s : State) : endRequest j status s =
    if !running (entryOf s j) then s else if (ptnOf s (entryOf s j).ptn).sealed then killNow j status s else modEntry j (endMarked status) s := rfl

theorem onlyEntry.endRequest (j status : Nat) (s : State) : onlyEntry j s (endRequest j status s) := by
  rw [endRequest_eq]
  split
  · exact .refl j s
  · split
    · exact .killNow j status s
    · exact .modEntry j _ s

theorem onlyEntry.sealed {j : Nat} {s t : State} (h : onlyEntry j s t) (n : Nat) : (ptnOf t n).sealed = (ptnOf s n).sealed := by
  obtain ⟨q, hq⟩ := h.ptns n
  rw [hq]

theorem running_endMarked (status : Nat) (e : Entry) : running (endMarked status e) = running e := rfl

theorem endMarked_twice (status : Nat) (e : Entry) : endMarked status (endMarked status e) = endMarked status e := rfl

theorem entryOf_endRequest_open {ix status : Nat} {s : State} (hr : running (entryOf s ix) = true) (hs : (ptnOf s (entryOf s ix).ptn).sealed = false) :
    entryOf (endRequest ix status s) ix = endMarked status (entryOf s ix) := by
  rw [endRequest_eq, if_neg (by simp [hr]), if_neg (by simp [hs]), entryOf_modEntry_same]

/-- A request that is marked already stays so while running requests are ended. -/
theorem endRequests_marked {ix status : Nat} {e : Entry} (hr : running e = true) (l : List Nat) {s : State}
    (he : entryOf s ix = endMarked status e) (hs : (ptnOf s e.ptn).sealed = false) :
    entryOf (l.foldl (fun t j => endRequest j status t) s) ix = endMarked status e := by
  induction l generalizing s with
  | nil => exact he
  | cons j l ih =>
    refine ih ?_ (by rw [(onlyEntry.endRequest j status s).sealed, hs])
    by_cases hj : ix = j
    · subst hj
      rw [entryOf_endRequest_open (by rw [he]; exact hr) (by rw [he]; exact hs), he, endMarked_twice]
    · rw [(onlyEntry.endRequest j status s).others ix hj, he]

/-- Of the running requests that an event ends, one on an open partition is marked. -/
theorem endRequests_marks {ix status : Nat} {s : State} (hr : running (entryOf s ix) = true) (hs : (ptnOf s (entryOf s ix).ptn).sealed = false)
    {l : List Nat} (hm : ix ∈ l) : entryOf (l.foldl (fun t j => endRequest j status t) s) ix = endMarked status (entryOf s ix) := by
  induction l generalizing s with
  | nil => cases hm
  | cons j l ih =>
    have hk := onlyEntry.endRequest j status s
    by_cases hj : ix = j
    · subst hj
      exact endRequests_marked hr l (entryOf_endRequest_open hr hs) (by rw [hk.sealed, hs])
    · have he := hk.others ix hj
      rw [List.foldl_cons, ih (by rw [he]; exact hr) (by rw [he, hk.sealed]; exact hs) ((List.mem_cons.1 hm).resolve_left hj), he]

end Sys2Proof.Machine
end

section
/-! TINT_LOAD, TINT_DELETE and CQ_READ (R339, R340, R384). -/

namespace Sys2Proof.Machine

/-! ## TINT_LOAD -/

theorem exec_tintLoad {s : State} {h : Hdr} (hr : cmdRuns s .partition h) (slot : Nat) (rebind whole : Bool) (hash : Nat) (pairs : List TintPair) :
    exec (.tintLoad h slot rebind whole hash pairs) s = .next (if 16 ≤ slot ∨ whole = false then reply h 8 (takeMessage h s)
      else tintLoadOp h slot rebind hash pairs (takeMessage h s)) := hostCmd_of_runs hr rfl _

/-- The serial of the next version of a slot. -/
def nextVer (sl : TintSlot) : Nat := if sl.last = 65535 then 1 else sl.last + 1

/-- A slot with a new current version. -/
def withVersion (sl : TintSlot) (frames hash : Nat) (pairs : List TintPair) : TintSlot :=
  { last := nextVer sl
    live := sl.live.map (fun x => { x with current := false }) ++
      [{ ver := nextVer sl, frames := frames, hash := hash, pairs := pairs, current := true, gone := false }] }

/-- The state with a slot of a partition written. -/
def slotSet (n slot : Nat) (sl : TintSlot) (s : State) : State := modPtn n (fun p => { p with tints := tput TintSlot.init p.tints slot sl }) s

/-- An entry that takes the current version at the next boundary. -/
def toRebind (e : Entry) : Entry := { e with pendRebind := true }

/-- The entries bound to a slot, where wanted, are to take its new version. -/
def rebound (rebind : Bool) (n slot : Nat) (s : State) : State :=
  if rebind then (entriesWhere s fun e => e.ptn == n && e.tbound && e.tint == slot).foldl (fun t ix => modEntry ix toRebind t) s else s

theorem tintLoadOp_eq (h : Hdr) (slot : Nat) (rebind : Bool) (hash : Nat) (pairs : List TintPair) (s : State) : tintLoadOp h slot rebind hash pairs s =
    if ptnClosed s (cmdPtn s h) then reply h 4 s
    else if !(declared s (ptnOf s (cmdPtn s h)).canvas).any (fun b => pairs.all (pairOk b)) then reply h 8 s
    else if 4 ≤ ((tintSlot s (cmdPtn s h) slot).live.filter fun v => !v.gone && tintBound s (cmdPtn s h) slot v.ver).length
        || decide ((ptnOf s (cmdPtn s h)).nearQ < nearUsed s (cmdPtn s h) + tintFrames pairs) then reply h 6 s
    else reply h 0 (rebound rebind (cmdPtn s h) slot
      (slotSet (cmdPtn s h) slot (withVersion (tintSlot s (cmdPtn s h) slot) (tintFrames pairs) hash pairs) s)) := rfl

theorem tintSlot_slotSet (n slot : Nat) (sl : TintSlot) (s : State) : tintSlot (slotSet n slot sl s) n slot = sl := by
  rw [tintSlot, slotSet, ptnOf_modPtn_same]
  exact tget_tput_same ..

/-- The version that a slot's current entry shows. -/
def currentOf (sl : TintSlot) : Nat := match sl.live.find? (·.current) with | some v => v.ver | none => 0

theorem tintCurrent_eq (s : State) (n k : Nat) : tintCurrent s n k = currentOf (tintSlot s n k) := rfl

theorem find_none_of_cleared (l : List TintVer) (f : TintVer → TintVer) (hf : ∀ v, (f v).current = false) : (l.map f).find? (·.current) = none := by
  rw [List.find?_eq_none]
  intro v hv
  obtain ⟨w, -, rfl⟩ := List.mem_map.1 hv
  rw [hf]; decide

theorem currentOf_withVersion (sl : TintSlot) (frames hash : Nat) (pairs : List TintPair) : currentOf (withVersion sl frames hash pairs) = nextVer sl := by
  rw [currentOf, withVersion, List.find?_append, find_none_of_cleared _ _ fun _ => rfl]
  rfl

/-- Entries written with a mark, each once or more. -/
theorem foldl_modEntry_mem {f : Entry → Entry} (hf : ∀ e, f (f e) = f e) {ix : Nat} (l : List Nat) (s : State) :
    entryOf (l.foldl (fun t j => modEntry j f t) s) ix = if ix ∈ l then f (entryOf s ix) else entryOf s ix := by
  induction l generalizing s with
  | nil => rfl
  | cons j l ih =>
    rw [List.foldl_cons, ih]
    by_cases hj : ix = j
    · subst hj
      rw [entryOf_modEntry_same, hf, ite_self, if_pos List.mem_cons_self]
    · rw [entryOf_modEntry_ne _ _ _ _ hj]
      simp only [List.mem_cons, hj, false_or]

theorem ptn_rebound (rebind : Bool) (n slot : Nat) (s : State) : (rebound rebind n slot s).ptn = s.ptn := by
  unfold rebound
  split
  · exact foldl_keeps (fun t : State => t.ptn) (fun t ix => modEntry ix toRebind t) (fun _ _ => rfl) _ s
  · rfl

theorem net_rebound (rebind : Bool) (n slot : Nat) (s : State) : (rebound rebind n slot s).net = s.net := by
  unfold rebound
  split
  · exact foldl_keeps (fun t : State => t.net) (fun t ix => modEntry ix toRebind t) (fun _ _ => rfl) _ s
  · rfl

theorem entryOf_rebound {n slot ix : Nat} {s : State} (hst : (entryOf s ix).st ≠ .free) (hn : (entryOf s ix).ptn = n)
    (hb : (entryOf s ix).tbound = true) (ht : (entryOf s ix).tint = slot) : entryOf (rebound true n slot s) ix = toRebind (entryOf s ix) := by
  rw [rebound, if_pos rfl, foldl_modEntry_mem (f := toRebind) (fun _ => rfl), if_pos (entry_mem hst _ (by simp [hn, hb, ht]))]

theorem tintSlot_of_ptn {s t : State} (h : t.ptn = s.ptn) (n k : Nat) : tintSlot t n k = tintSlot s n k := by
  rw [tintSlot, ptnOf, h, tintSlot, ptnOf]

theorem tintSlot_reply (h : Hdr) (st : Nat) (s : State) (n k : Nat) : tintSlot (reply h st s) n k = tintSlot s n k :=
  tintSlot_of_ptn ((co_reply (L := [.net]) h st s (by decide) (co_refl _ s)).2 .ptn (by decide)) n k

theorem tintLoad_spec {s : State} {h : Hdr} (hr : cmdRuns s .partition h) {slot : Nat} {rebind : Bool} {hash : Nat} {pairs : List TintPair}
    (hs : slot < 16) (hc : ptnClosed s (cmdPtn s h) = false)
    (hn : ((declared s (ptnOf s (cmdPtn s h)).canvas).any fun b => pairs.all (pairOk b)) = true)
    (hl : ((tintSlot s (cmdPtn s h) slot).live.filter fun v => !v.gone && tintBound s (cmdPtn s h) slot v.ver).length < 4)
    (hq : nearUsed s (cmdPtn s h) + tintFrames pairs ≤ (ptnOf s (cmdPtn s h)).nearQ) :
    ∃ t, exec (.tintLoad h slot rebind true hash pairs) s = .next t ∧ answered s t h 0 [] ∧
      tintCurrent t (cmdPtn s h) slot = nextVer (tintSlot s (cmdPtn s h) slot) ∧
      (tintSlot t (cmdPtn s h) slot).last = nextVer (tintSlot s (cmdPtn s h) slot) ∧
      (rebind = true → ∀ ix, (entryOf s ix).st ≠ .free → (entryOf s ix).ptn = cmdPtn s h → (entryOf s ix).tbound = true →
        (entryOf s ix).tint = slot → (entryOf t ix).pendRebind = true) := by
  have hslot : ∀ u : State, tintSlot (rebound rebind (cmdPtn s h) slot (slotSet (cmdPtn s h) slot
      (withVersion (tintSlot s (cmdPtn s h) slot) (tintFrames pairs) hash pairs) u)) (cmdPtn s h) slot =
      withVersion (tintSlot s (cmdPtn s h) slot) (tintFrames pairs) hash pairs := fun u => by
    rw [tintSlot_of_ptn (ptn_rebound ..), tintSlot_slotSet]
  have hj : ∀ (sl : TintSlot) (u : State), msgsJoin u (rebound rebind (cmdPtn s h) slot (slotSet (cmdPtn s h) slot sl u)) := fun sl u =>
    msgsJoin.of_net (congrArg NetSt.sess (net_rebound ..))
  refine ⟨reply h 0 (rebound rebind (cmdPtn s h) slot (slotSet (cmdPtn s h) slot
    (withVersion (tintSlot s (cmdPtn s h) slot) (tintFrames pairs) hash pairs) (takeMessage h s))), ?_,
    replied_after (canAnswer_of_ready hr.1) (hj _ _) 0, ?_, ?_, fun hreb ix h1 h2 h3 h4 => ?_⟩
  · rw [exec_tintLoad hr, if_neg (by simp; omega), tintLoadOp_eq, cmdPtn_takeMessage]
    change Host.Outcome.next (if ptnClosed s (cmdPtn s h) then _
      else if !(declared s (ptnOf s (cmdPtn s h)).canvas).any (fun b => pairs.all (pairOk b)) then _
      else if 4 ≤ ((tintSlot s (cmdPtn s h) slot).live.filter fun v => !v.gone && tintBound s (cmdPtn s h) slot v.ver).length
        || decide ((ptnOf s (cmdPtn s h)).nearQ < nearUsed s (cmdPtn s h) + tintFrames pairs) then _ else _) = _
    rw [if_neg (by simp [hc]), if_neg (by simp [hn]), if_neg]
    · rfl
    · simp only [Bool.or_eq_true, decide_eq_true_eq]
      omega
  · rw [tintCurrent_eq, tintSlot_reply, hslot, currentOf_withVersion]
  · rw [tintSlot_reply, hslot]
    rfl
  · subst hreb
    have he : ∀ sl, entryOf (rebound true (cmdPtn s h) slot (slotSet (cmdPtn s h) slot sl (takeMessage h s))) ix = toRebind (entryOf s ix) := fun sl =>
      entryOf_rebound (s := slotSet (cmdPtn s h) slot sl (takeMessage h s)) h1 h2 h3 h4
    rw [entryOf_reply, he]
    rfl

/-! ## TINT_DELETE -/

theorem exec_tintDelete {s : State} {h : Hdr} (hr : cmdRuns s .partition h) (slot : Nat) :
    exec (.tintDelete h slot) s = .next (if 16 ≤ slot then reply h 8 (takeMessage h s) else tintDeleteOp h slot (takeMessage h s)) :=
  hostCmd_of_runs hr rfl _

/-- A slot whose tint is deleted. -/
def deletedSlot (sl : TintSlot) : TintSlot := { sl with live := sl.live.map fun v => { v with current := false, gone := true } }

/-- The running requests bound to a slot are ended. -/
def boundEnded (n slot : Nat) (s : State) : State :=
  (entriesWhere s fun e => e.ptn == n && e.tbound && e.tint == slot && running e).foldl (fun t ix => endRequest ix 7 t) s

theorem tintDeleteOp_eq (h : Hdr) (slot : Nat) (s : State) : tintDeleteOp h slot s =
    if tintCurrent s (cmdPtn s h) slot = 0 then reply h 7 s
    else reply h 0 (slotSet (cmdPtn s h) slot (deletedSlot (tintSlot (boundEnded (cmdPtn s h) slot s) (cmdPtn s h) slot))
      (boundEnded (cmdPtn s h) slot s)) := rfl

theorem msgsJoin.boundEnded (n slot : Nat) (s : State) : msgsJoin s (boundEnded n slot s) := .foldl (fun t ix => msgsJoin.endRequest ix 7 t) _ s

theorem running_not_free {e : Entry} (h : running e = true) : e.st ≠ .free := by
  intro hf
  simp [running, hf] at h

theorem entryOf_boundEnded {n slot ix : Nat} {s : State} (hn : (entryOf s ix).ptn = n) (hb : (entryOf s ix).tbound = true)
    (ht : (entryOf s ix).tint = slot) (hr : running (entryOf s ix) = true) (hs : (ptnOf s n).sealed = false) :
    entryOf (boundEnded n slot s) ix = endMarked 7 (entryOf s ix) :=
  endRequests_marks hr (by rw [hn]; exact hs) (entry_mem (running_not_free hr) _ (by simp [hn, hb, ht, hr]))

theorem tintDelete_spec {s : State} {h : Hdr} (hr : cmdRuns s .partition h) {slot : Nat} (hs : slot < 16)
    (ht : tintCurrent s (cmdPtn s h) slot ≠ 0) : ∃ t, exec (.tintDelete h slot) s = .next t ∧ answered s t h 0 [] ∧ tintCurrent t (cmdPtn s h) slot = 0 ∧
      ∀ ix, (entryOf s ix).ptn = cmdPtn s h → (entryOf s ix).tbound = true → (entryOf s ix).tint = slot → running (entryOf s ix) = true →
        (ptnOf s (cmdPtn s h)).sealed = false → (entryOf t ix).pendCancel = some ((entryOf s ix).pendCancel.getD 7) := by
  have hj : msgsJoin (takeMessage h s) (slotSet (cmdPtn s h) slot (deletedSlot (tintSlot (boundEnded (cmdPtn s h) slot (takeMessage h s)) (cmdPtn s h) slot))
      (boundEnded (cmdPtn s h) slot (takeMessage h s))) := (msgsJoin.boundEnded _ _ _).trans (msgsJoin.modPtn ..)
  refine ⟨_, ?_, replied_after (canAnswer_of_ready hr.1) hj 0, ?_, fun ix h1 h2 h3 h4 h5 => ?_⟩
  · rw [exec_tintDelete hr, if_neg (by omega), tintDeleteOp_eq, cmdPtn_takeMessage]
    change Host.Outcome.next (if tintCurrent s (cmdPtn s h) slot = 0 then _ else _) = _
    rw [if_neg ht]
  · rw [tintCurrent_eq, tintSlot_reply, tintSlot_slotSet, currentOf, deletedSlot, find_none_of_cleared _ _ fun _ => rfl]
  · have he : entryOf (boundEnded (cmdPtn s h) slot (takeMessage h s)) ix = endMarked 7 (entryOf (takeMessage h s) ix) :=
      entryOf_boundEnded h1 h2 h3 h4 h5
    rw [entryOf_reply, slotSet]
    exact congrArg Entry.pendCancel he

/-! ## CQ_READ -/

theorem exec_cqRead {s : State} {h : Hdr} (hr : cmdRuns s .partition h) {cq : Nat} (hc : cq < 4) (count : Nat) :
    exec (.cqRead h cq count) s = .next (if 64 < count then reply h 8 (takeMessage h s) else cqReadOp h cq count (takeMessage h s)) :=
  hostCmd_of_runs hr (decide_eq_true hc) _

/-- The completion queue of a partition without its oldest entries. -/
def cqTaken (n cq count : Nat) (s : State) : State :=
  modPtn n (fun p => { p with cqs := tput [] p.cqs cq ((tget [] (ptnOf s n).cqs cq).drop count) }) s

/-- The messages of completions that were read are dropped. -/
def cqDropped (n cq : Nat) (l : List CqEnt) (s : State) : State := l.foldl (dropCompletion (n * 4 + cq)) s

theorem cqReadOp_eq (h : Hdr) (cq count : Nat) (s : State) : cqReadOp h cq count s =
    replyFull h 0 0 h.handle (((tget [] (ptnOf s (cmdPtn s h)).cqs cq).take count).flatMap cqBytes)
      (cqDropped (cmdPtn s h) cq ((tget [] (ptnOf s (cmdPtn s h)).cqs cq).take count) (cqTaken (cmdPtn s h) cq count s)) := rfl

theorem filterMap_zipIdx_all {α : Type} (l : List α) (k : Nat) (p : α × Nat → Option α) (h : ∀ m, p m = some m.1) : (l.zipIdx k).filterMap p = l := by
  rw [show p = some ∘ Prod.fst from funext h, List.filterMap_eq_map, List.zipIdx_map_fst]

/-- A session whose lease stands keeps its messages. -/
theorem sesOf_dropCompletion {k : Nat} (q : Nat) {s : State} (hl : (sesOf s k).lapsed = false) (c : CqEnt) : sesOf (dropCompletion q s c) k = sesOf s k := by
  unfold dropCompletion
  by_cases hk : k = c.ses
  · subst hk
    have hq : ((sesOf s c.ses).queue.zipIdx).filterMap (fun m => if (sesOf s c.ses).lapsed ∧ m.1.cqe = some (q, c.handle) ∧
        (m.2 ≠ 0 ∨ (sesOf s c.ses).txIx = 0) then none else some m.1) = (sesOf s c.ses).queue :=
      filterMap_zipIdx_all _ _ _ fun m => if_neg fun h => by rw [hl] at h; cases h.1
    rw [sesOf_modSes_same, hq]
  · exact sesOf_modSes_ne _ _ _ _ hk

theorem sesOf_cqDropped {k : Nat} (n cq : Nat) (l : List CqEnt) {s : State} (hl : (sesOf s k).lapsed = false) :
    sesOf (cqDropped n cq l s) k = sesOf s k := by
  unfold cqDropped
  induction l generalizing s with
  | nil => rfl
  | cons c l ih =>
    have h := sesOf_dropCompletion (n * 4 + cq) hl c
    rw [List.foldl_cons, ih (by rw [h]; exact hl), h]

theorem co_cqDropped {L : List Part} {s0 : State} (n cq : Nat) (l : List CqEnt) (s : State) (hs : sub [.net] L = true) (hw : changesOnly L s0 s) :
    changesOnly L s0 (cqDropped n cq l s) := co_foldl (dropCompletion (n * 4 + cq)) (fun t c ht => co_dropCompletion _ t c hs ht) l s hw

theorem cqRead_spec {s : State} {h : Hdr} (hr : cmdRuns s .partition h) {cq count : Nat} (hcq : cq < 4) (hn : count ≤ 64) :
    ∃ t, exec (.cqRead h cq count) s = .next t ∧ changesOnly [.ptn, .net] s t ∧
      tget [] (ptnOf t (cmdPtn s h)).cqs cq = (tget [] (ptnOf s (cmdPtn s h)).cqs cq).drop count ∧
      ((sesOf s h.ses).lapsed = false → answered s t h 0 (((tget [] (ptnOf s (cmdPtn s h)).cqs cq).take count).flatMap cqBytes)) := by
  have hm : changesOnly [.ptn, .net] s (takeMessage h s) := co_modSes _ _ _ (by decide) (co_refl _ s)
  have ht : changesOnly [.ptn, .net] s (cqTaken (cmdPtn s h) cq count (takeMessage h s)) := co_modPtn _ _ _ (by decide) hm
  have hp : ∀ (body : List Byte) (l : List CqEnt) (u : State),
      (replyFull h 0 0 h.handle body (cqDropped (cmdPtn s h) cq l u)).ptn = u.ptn := fun body l u =>
    (co_replyFull (L := [.net]) h 0 0 h.handle body _ (by decide) (co_cqDropped _ _ l u (by decide) (co_refl _ u))).2 .ptn (by decide)
  refine ⟨_, ?_, co_replyFull h 0 0 h.handle (((tget [] (ptnOf s (cmdPtn s h)).cqs cq).take count).flatMap cqBytes) _ (by decide)
    (co_cqDropped (cmdPtn s h) cq ((tget [] (ptnOf s (cmdPtn s h)).cqs cq).take count) _ (by decide) ht), ?_, fun hl => ?_⟩
  · rw [exec_cqRead hr hcq, if_neg (by omega), cqReadOp_eq, cmdPtn_takeMessage]
    rfl
  · rw [ptnOf, hp]
    change tget [] (ptnOf (cqTaken (cmdPtn s h) cq count (takeMessage h s)) (cmdPtn s h)).cqs cq = _
    rw [cqTaken, ptnOf_modPtn_same]
    exact tget_tput_same ..
  · have hk : sesOf (cqDropped (cmdPtn s h) cq ((tget [] (ptnOf s (cmdPtn s h)).cqs cq).take count)
        (cqTaken (cmdPtn s h) cq count (takeMessage h s))) h.ses = sesOf (takeMessage h s) h.ses :=
      sesOf_cqDropped _ _ _ (by rw [cqTaken, sesOf_modPtn, sesOf_takeMessage]; exact hl)
    have hc := canAnswer_taken (canAnswer_of_ready hr.1)
    exact answered_of_taken (answered_of_queue (answered_replyFull (by rw [canAnswer, hk]; exact hc) _ _ _ (List.prefix_refl _)) (by rw [hk]))

/-- Settles O43: a loaded tint becomes current, a deleted one ends the requests bound to it, a read takes the oldest completions. -/
theorem tintsAndCompletionQueues : Obligations.TintsAndCompletionQueues := by
  intro h s hr
  have hc := canAnswer_of_ready hr.1
  refine ⟨fun slot rebind whole hash pairs hs c hm => ?_, fun slot rebind hash pairs => ?_, fun slot rebind hash pairs hs =>
    ⟨fun hcl => ?_, fun hcl hn => ?_, fun hcl hn hl hq => tintLoad_spec hr hs hcl hn hl hq⟩,
    fun slot hs => ⟨fun ht => ?_, fun ht => tintDelete_spec hr hs ht⟩, fun cq count hcq => ⟨fun hn => ?_, fun hn => cqRead_spec hr hcq hn⟩⟩
  · refine ⟨reply h 8 (takeMessage h s), ?_, replied hc 8⟩
    simp only [List.mem_cons, List.not_mem_nil, or_false] at hm
    rcases hm with rfl | rfl
    · rw [exec_tintLoad hr, if_pos (.inl hs)]
    · rw [exec_tintDelete hr, if_pos hs]
  · refine ⟨reply h 8 (takeMessage h s), ?_, replied hc 8⟩
    rw [exec_tintLoad hr, if_pos (.inr rfl)]
  · refine ⟨reply h 4 (takeMessage h s), ?_, replied hc 4⟩
    rw [exec_tintLoad hr, if_neg (by simp; omega), tintLoadOp_eq, cmdPtn_takeMessage]
    change Host.Outcome.next (if ptnClosed s (cmdPtn s h) then _ else _) = _
    rw [if_pos hcl]
  · refine ⟨reply h 8 (takeMessage h s), ?_, replied hc 8⟩
    rw [exec_tintLoad hr, if_neg (by simp; omega), tintLoadOp_eq, cmdPtn_takeMessage]
    change Host.Outcome.next (if ptnClosed s (cmdPtn s h) then _
      else if !(declared s (ptnOf s (cmdPtn s h)).canvas).any (fun b => pairs.all (pairOk b)) then _ else _) = _
    rw [if_neg (by simp [hcl]), if_pos]
    rw [show ((declared s (ptnOf s (cmdPtn s h)).canvas).any fun b => pairs.all (pairOk b)) = false from hn]
    rfl
  · refine ⟨reply h 7 (takeMessage h s), ?_, replied hc 7⟩
    rw [exec_tintDelete hr, if_neg (by omega), tintDeleteOp_eq, cmdPtn_takeMessage]
    change Host.Outcome.next (if tintCurrent s (cmdPtn s h) slot = 0 then _ else _) = _
    rw [if_pos ht]
  · refine ⟨reply h 8 (takeMessage h s), ?_, replied hc 8⟩
    rw [exec_cqRead hr hcq, if_pos hn]

end Sys2Proof.Machine
end

section
/-! SUBMIT (R323, R329, R393). -/

namespace Sys2Proof.Machine

/-! ## An entry whose command is answered, or waits for its canvas -/

/-- An entry whose command waits for the canvas. -/
def entryWaits (h : Hdr) (waitEnd : Nat) (sv : Option Saved) (e : Entry) : Entry := { e with waitHdr := some h, waitEnd := waitEnd, saved := sv }

/-- The entry waits until its canvas serves, or until a time has passed. -/
def waitsFor (h : Hdr) (ix c : Nat) (sv : Option Saved) (s : State) : State :=
  modEntry ix (entryWaits h (s.clk.us + 100000 * (cnvOf s c).admWait) sv) s

theorem admitEntry_now (h : Hdr) (ix c : Nat) (sv : Option Saved) (s : State) : admitEntry false h ix c sv s =
    if admitting s c then replyFull h 0 0 (entryHandle ix (entryOf s ix)) [] s else leaveOut h (waitsFor h ix c sv s) := rfl

theorem queue_leaveOut (h : Hdr) (s : State) (k : Nat) : (sesOf (leaveOut h s) k).queue = (sesOf s k).queue := by
  unfold leaveOut
  by_cases hk : k = h.ses
  · subst hk; rw [sesOf_modSes_same]
  · rw [sesOf_modSes_ne _ _ _ _ hk]

theorem queue_takeMessage (h : Hdr) (s : State) : (sesOf (takeMessage h s) h.ses).queue = (sesOf s h.ses).queue := by
  rw [sesOf_takeMessage]

/-- What a command that took an entry leaves: the entry but for what it waits for, the other entries, and its answer. -/
theorem admitEntry_spec {s : State} {h : Hdr} (hc : canAnswer s h) (ix c : Nat) (sv : Option Saved) :
    (∃ w, entryOf (admitEntry false h ix c sv s) ix = w (entryOf s ix) ∧ (w = id ∨ ∃ us, w = entryWaits h us sv)) ∧
    (∀ j, j ≠ ix → entryOf (admitEntry false h ix c sv s) j = entryOf s j) ∧
    (admitting s c = true → answered s (admitEntry false h ix c sv s) h 0 []) ∧
    (admitting s c = false → (entryOf (admitEntry false h ix c sv s) ix).waitHdr = some h ∧
      (sesOf (admitEntry false h ix c sv s) h.ses).queue = (sesOf s h.ses).queue) := by
  rw [admitEntry_now]
  cases admitting s c with
  | true =>
    rw [if_pos rfl]
    exact ⟨⟨id, entryOf_replyFull .., .inl rfl⟩, fun j _ => entryOf_replyFull .., fun _ => answered_replyFull hc _ _ _ List.nil_prefix, fun h => absurd h (by decide)⟩
  | false =>
    rw [if_neg (by decide)]
    have he := entryOf_modEntry_same ix (entryWaits h (s.clk.us + 100000 * (cnvOf s c).admWait) sv) s
    refine ⟨⟨_, (entryOf_leaveOut ..).trans he, .inr ⟨_, rfl⟩⟩, fun j hj => (entryOf_leaveOut ..).trans (entryOf_modEntry_ne _ _ _ _ hj),
      fun h => absurd h (by decide), fun _ => ⟨?_, ?_⟩⟩
    · rw [entryOf_leaveOut, waitsFor, he]
      rfl
    · rw [queue_leaveOut, waitsFor, sesOf_modEntry]

/-! ## The decision on a SUBMIT -/

/-- The fields of a SUBMIT are legal. -/
def submitOk (p : Ptn) (b : SubmitBody) : Bool := bodyOk b 0 && decide (b.prio < 4) && decide (p.prioMin ≤ b.prio) && decide (b.tint < 16)

/-- What refuses a SUBMIT. -/
def submitRefused (n : Nat) (b : SubmitBody) (s : State) : Option (Nat × Nat) :=
  refuse s n (submitOk (ptnOf s n) b) (b.nprompt + b.maxnew) b.noa8 b.ctl

/-- The request takes its entry. -/
def submitTaken (h : Hdr) (n ix : Nat) (b : SubmitBody) (d : Bundle) (s : State) : State :=
  setPresence ix (takeEntry ix (newEntry s h n b d) s)

/-- A SUBMIT that nothing refused, by the bundle that its canvas declares and the entry that it can take. -/
def submitInto (late : Bool) (h : Hdr) (n : Nat) (b : SubmitBody) (s : State) : Option Bundle → Option Nat → State
  | some d, some ix =>
    if b.tbound && tintCurrent s n b.tint == 0 then answer late h 7 0 h.handle s
    else if (ptnOf s n).entryMax ≤ entryUsed s n || !(decide (nearUsed s n + (newEntry s h n b d).resv ≤ (ptnOf s n).nearQ)) then
      answer late h 6 0 h.handle s
    else admitEntry late h ix (ptnOf s n).canvas none (submitTaken h n ix b d s)
  | _, _ => answer late h 6 0 h.handle s

/-- A SUBMIT by what refuses it. -/
def submitDecided (late : Bool) (h : Hdr) (n : Nat) (b : SubmitBody) (s : State) : Option (Nat × Nat) → State
  | some (st, arg) => answer late h st arg h.handle s
  | none => submitInto late h n b s (declared s (ptnOf s n).canvas) (freeIndex s)

theorem submitDecide_eq (late : Bool) (h : Hdr) (b : SubmitBody) (s : State) :
    submitDecide late h b s = submitDecided late h (cmdPtn s h) b s (submitRefused (cmdPtn s h) b s) := by
  unfold submitDecide
  change (match submitRefused (cmdPtn s h) b s with | some (st, arg) => _ | none => _) = _
  rcases submitRefused (cmdPtn s h) b s with _ | ⟨st, arg⟩
  · rw [submitDecided]
    dsimp only
    cases declared s (ptnOf s (cmdPtn s h)).canvas <;> cases freeIndex s <;> rfl
  · rfl

theorem exec_submit {s : State} {h : Hdr} (hr : cmdRuns s .partition h) (b : SubmitBody) : exec (.submit h b) s =
    .next (if b.part then openParts h false b (takeMessage h s) else submitDecide false h b (takeMessage h s)) := hostCmd_of_runs hr rfl _

theorem exec_submit_whole {s : State} {h : Hdr} (hr : cmdRuns s .partition h) {b : SubmitBody} (hb : b.part = false) : exec (.submit h b) s =
    .next (submitDecided false h (cmdPtn s h) b (takeMessage h s) (submitRefused (cmdPtn s h) b s)) := by
  rw [exec_submit hr, hb, if_neg (by decide), submitDecide_eq, cmdPtn_takeMessage]
  rfl

theorem exec_submit_free {s : State} {h : Hdr} (hr : cmdRuns s .partition h) {b : SubmitBody} (hb : b.part = false)
    (hn : submitRefused (cmdPtn s h) b s = none) {d : Bundle} {ix : Nat} (hd : declared s (ptnOf s (cmdPtn s h)).canvas = some d)
    (hx : freeIndex s = some ix) : exec (.submit h b) s =
      .next (submitInto false h (cmdPtn s h) b (takeMessage h s) (some d) (some ix)) := by
  rw [exec_submit_whole hr hb, hn, submitDecided]
  change Host.Outcome.next (submitInto false h (cmdPtn s h) b (takeMessage h s) (declared s (ptnOf s (cmdPtn s h)).canvas) (freeIndex s)) = _
  rw [hd, hx]

theorem submitInto_of_tint {late : Bool} {h : Hdr} {n : Nat} {b : SubmitBody} {s : State} (d : Bundle) (ix : Nat)
    (ht : b.tbound = false ∨ tintCurrent s n b.tint ≠ 0) : submitInto late h n b s (some d) (some ix) =
      if (ptnOf s n).entryMax ≤ entryUsed s n || !(decide (nearUsed s n + (newEntry s h n b d).resv ≤ (ptnOf s n).nearQ)) then
        answer late h 6 0 h.handle s
      else admitEntry late h ix (ptnOf s n).canvas none (submitTaken h n ix b d s) := by
  rw [submitInto, if_neg]
  rcases ht with h | h <;> simp [h]

theorem entryOf_submitTaken_same (h : Hdr) (n ix : Nat) (b : SubmitBody) (d : Bundle) (s : State) :
    entryOf (submitTaken h n ix b d s) ix = nextGen (newEntry s h n b d) (entryOf s ix).gen := by
  rw [submitTaken, entryOf_setPresence, entryOf_takeEntry_same]

theorem entryOf_submitTaken_ne {ix j : Nat} (hj : j ≠ ix) (h : Hdr) (n : Nat) (b : SubmitBody) (d : Bundle) (s : State) :
    entryOf (submitTaken h n ix b d s) j = entryOf s j := by
  rw [submitTaken, entryOf_setPresence, entryOf_takeEntry_ne hj]

/-- The fields of a new request that say whose it is and what it asks for. -/
theorem newEntry_fields (s : State) (h : Hdr) (n : Nat) (b : SubmitBody) (d : Bundle) (g : Nat) :
    (nextGen (newEntry s h n b d) g).st = .queued ∧ (nextGen (newEntry s h n b d) g).ptn = n ∧ (nextGen (newEntry s h n b d) g).toks = b.prompt ∧
    (nextGen (newEntry s h n b d) g).maxnew = b.maxnew ∧ (nextGen (newEntry s h n b d) g).canvas = (ptnOf s n).canvas ∧
    (nextGen (newEntry s h n b d) g).ses = h.ses ∧ (nextGen (newEntry s h n b d) g).gen = (if g = 16383 then 1 else g + 1) :=
  ⟨rfl, rfl, rfl, rfl, rfl, rfl, rfl⟩

/-- What an entry waits for is none of these fields. -/
theorem newEntry_waits {w : Entry → Entry} {h0 : Hdr} {sv : Option Saved} (hw : w = id ∨ ∃ us, w = entryWaits h0 us sv)
    (s : State) (h : Hdr) (n : Nat) (b : SubmitBody) (d : Bundle) (g : Nat) :
    (w (nextGen (newEntry s h n b d) g)).st = .queued ∧ (w (nextGen (newEntry s h n b d) g)).ptn = n ∧
    (w (nextGen (newEntry s h n b d) g)).toks = b.prompt ∧ (w (nextGen (newEntry s h n b d) g)).maxnew = b.maxnew ∧
    (w (nextGen (newEntry s h n b d) g)).canvas = (ptnOf s n).canvas ∧ (w (nextGen (newEntry s h n b d) g)).ses = h.ses ∧
    (w (nextGen (newEntry s h n b d) g)).gen = (if g = 16383 then 1 else g + 1) := by
  rcases hw with rfl | ⟨us, rfl⟩
  · exact newEntry_fields s h n b d g
  · exact newEntry_fields s h n b d g

theorem net_submitTaken (h : Hdr) (n ix : Nat) (b : SubmitBody) (d : Bundle) (s : State) : (submitTaken h n ix b d s).net = s.net := rfl

theorem admitting_submitTaken (h : Hdr) (n ix : Nat) (b : SubmitBody) (d : Bundle) (s : State) (c : Nat) :
    admitting (submitTaken h n ix b d s) c = admitting s c := rfl

theorem admitting_takeMessage (h : Hdr) (s : State) (c : Nat) : admitting (takeMessage h s) c = admitting s c := rfl

/-- An admitted request. -/
theorem submit_spec {s : State} {h : Hdr} (hr : cmdRuns s .partition h) {b : SubmitBody} (hb : b.part = false)
    (hn : submitRefused (cmdPtn s h) b s = none) {d : Bundle} {ix : Nat} (hd : declared s (ptnOf s (cmdPtn s h)).canvas = some d)
    (hx : freeIndex s = some ix) (ht : b.tbound = false ∨ tintCurrent s (cmdPtn s h) b.tint ≠ 0)
    (he : entryUsed s (cmdPtn s h) < (ptnOf s (cmdPtn s h)).entryMax)
    (hq : nearUsed s (cmdPtn s h) + (newEntry s h (cmdPtn s h) b d).resv ≤ (ptnOf s (cmdPtn s h)).nearQ) :
    ∃ t, exec (.submit h b) s = .next t ∧ (entryOf t ix).st = .queued ∧ (entryOf t ix).ptn = cmdPtn s h ∧ (entryOf t ix).toks = b.prompt ∧
      (entryOf t ix).maxnew = b.maxnew ∧ (entryOf t ix).canvas = (ptnOf s (cmdPtn s h)).canvas ∧ (entryOf t ix).ses = h.ses ∧
      (entryOf t ix).gen = (if (entryOf s ix).gen = 16383 then 1 else (entryOf s ix).gen + 1) ∧
      (∀ j, j ≠ ix → entryOf t j = entryOf s j) ∧
      (admitting s (ptnOf s (cmdPtn s h)).canvas = true → answered s t h 0 []) ∧
      (admitting s (ptnOf s (cmdPtn s h)).canvas = false →
        (entryOf t ix).waitHdr = some h ∧ (sesOf t h.ses).queue = (sesOf s h.ses).queue) := by
  have hj : msgsJoin (takeMessage h s) (submitTaken h (cmdPtn s h) ix b d (takeMessage h s)) := msgsJoin.of_net (congrArg NetSt.sess (net_submitTaken ..))
  have hq' : (sesOf (submitTaken h (cmdPtn s h) ix b d (takeMessage h s)) h.ses).queue = (sesOf s h.ses).queue := by
    rw [sesOf, net_submitTaken]
    exact queue_takeMessage h s
  obtain ⟨⟨w, hw, hws⟩, hne, hnow, hlate⟩ := admitEntry_spec (canAnswer_join (canAnswer_taken (canAnswer_of_ready hr.1)) hj) ix
    (ptnOf s (cmdPtn s h)).canvas none
  rw [entryOf_submitTaken_same, entryOf_takeMessage] at hw
  rw [admitting_submitTaken, admitting_takeMessage] at hnow hlate
  refine ⟨admitEntry false h ix (ptnOf s (cmdPtn s h)).canvas none (submitTaken h (cmdPtn s h) ix b d (takeMessage h s)), ?_, ?_⟩
  · rw [exec_submit_free hr hb hn hd hx, submitInto_of_tint (s := takeMessage h s) d ix ht]
    change Host.Outcome.next (if (ptnOf s (cmdPtn s h)).entryMax ≤ entryUsed s (cmdPtn s h) ||
      !(decide (nearUsed s (cmdPtn s h) + (newEntry s h (cmdPtn s h) b d).resv ≤ (ptnOf s (cmdPtn s h)).nearQ)) then _ else _) = _
    rw [if_neg]
    · rfl
    · rw [decide_eq_true hq]
      simp only [Bool.not_true, Bool.or_false, decide_eq_true_eq]
      omega
  · have hothers : ∀ j, j ≠ ix → entryOf (admitEntry false h ix (ptnOf s (cmdPtn s h)).canvas none
        (submitTaken h (cmdPtn s h) ix b d (takeMessage h s))) j = entryOf s j := fun j hj => by
      rw [hne j hj, entryOf_submitTaken_ne hj, entryOf_takeMessage]
    have hrest := And.intro hothers (And.intro (fun hc => answered_of_taken (answered_before (hnow hc) hj))
      fun hc => And.intro (hlate hc).1 ((hlate hc).2.trans hq'))
    have hfields := newEntry_waits hws (takeMessage h s) h (cmdPtn s h) b d (entryOf s ix).gen
    rw [← hw] at hfields
    obtain ⟨f1, f2, f3, f4, f5, f6, f7⟩ := hfields
    exact ⟨f1, f2, f3, f4, f5, f6, f7, hrest⟩

/-! ## A body in parts -/

/-- The open command of a queue. -/
def partsSet (n q : Nat) (p : Option PartCmd) (s : State) : State := modPtn n (fun x => { x with parts := tput none x.parts q p }) s

theorem openParts_eq (h : Hdr) (cont : Bool) (b : SubmitBody) (s : State) :
    openParts h cont b s = leaveOut h (partsSet (cmdPtn s h) h.queue (some { h := h, cont := cont, b := b, us := s.clk.us }) s) := rfl

theorem parts_partsSet (n q : Nat) (p : Option PartCmd) (s : State) : tget none (ptnOf (partsSet n q p s) n).parts q = p := by
  rw [partsSet, ptnOf_modPtn_same]
  exact tget_tput_same ..

theorem ptnOf_leaveOut (h : Hdr) (s : State) (n : Nat) : ptnOf (leaveOut h s) n = ptnOf s n := rfl

theorem submit_part {s : State} {h : Hdr} (hr : cmdRuns s .partition h) {b : SubmitBody} (hb : b.part = true) :
    ∃ t, exec (.submit h b) s = .next t ∧ changesOnly [.ptn, .net] s t ∧ (sesOf t h.ses).queue = (sesOf s h.ses).queue ∧
      tget none (ptnOf t (cmdPtn s h)).parts h.queue = some { h := h, cont := false, b := b, us := s.clk.us } := by
  refine ⟨openParts h false b (takeMessage h s), by rw [exec_submit hr, hb, if_pos rfl],
    co_leaveOut _ _ (by decide) (co_modPtn _ _ _ (by decide) (co_modSes _ _ _ (by decide) (co_refl _ s))), ?_, ?_⟩
  · rw [openParts_eq, queue_leaveOut, partsSet, sesOf_modPtn, queue_takeMessage]
  · rw [openParts_eq, ptnOf_leaveOut, cmdPtn_takeMessage, parts_partsSet]
    rfl

/-- Settles O39: a SUBMIT is kept for its further parts, refused with its first reason, or takes the free entry. -/
theorem submitAdmission : Obligations.SubmitAdmission := by
  refine fun h b s hr => ⟨fun hb => submit_part hr hb, fun st arg hb href => ?_, fun d ix hb hn hd hx =>
    ⟨fun hb1 ht => ?_, fun ht he => ?_, fun ht he hq => submit_spec hr hb hn hd hx ht he hq⟩⟩
  · have hc := canAnswer_of_ready hr.1
    refine ⟨answer false h st arg h.handle (takeMessage h s), ?_, ?_, ?_⟩
    · rw [exec_submit_whole hr hb, show submitRefused (cmdPtn s h) b s = some (st, arg) from href]
      rfl
    · exact answered_of_taken (answered_replyFull (canAnswer_taken hc) _ _ _ List.nil_prefix)
    · exact co_replyFull _ _ _ _ _ _ (by decide) (co_takeMessage_net h s)
  · refine ⟨reply h 7 (takeMessage h s), ?_, replied (canAnswer_of_ready hr.1) 7⟩
    rw [exec_submit_free hr hb hn hd hx, submitInto]
    change Host.Outcome.next (if b.tbound && tintCurrent s (cmdPtn s h) b.tint == 0 then _ else _) = _
    rw [if_pos (by simp [hb1, ht])]
    rfl
  · refine ⟨reply h 6 (takeMessage h s), ?_, replied (canAnswer_of_ready hr.1) 6⟩
    rw [exec_submit_free hr hb hn hd hx, submitInto_of_tint (s := takeMessage h s) d ix ht]
    change Host.Outcome.next (if (ptnOf s (cmdPtn s h)).entryMax ≤ entryUsed s (cmdPtn s h) || _ then _ else _) = _
    rw [if_pos (by simp [show (ptnOf s (cmdPtn s h)).entryMax ≤ entryUsed s (cmdPtn s h) from he])]
    rfl

end Sys2Proof.Machine
end

section
/-! CONTINUE, PROMPT and COMMAND_PART_TIMEOUT (R329, R340, R348, R352, R393). -/

namespace Sys2Proof.Machine

/-! ## CONTINUE -/

theorem exec_continue {s : State} {h : Hdr} (hr : cmdRuns s .partition h) {b : SubmitBody} (hb : b.part = false) :
    exec (.continue_ h b) s = .next (continueCmd false h b (takeMessage h s)) := by
  have he : exec (.continue_ h b) s =
      .next (if b.part then openParts h true b (takeMessage h s) else continueCmd false h b (takeMessage h s)) := hostCmd_of_runs hr rfl _
  rw [he, hb, if_neg (by decide)]

theorem exportOf_takeMessage {s : State} {h : Hdr} {ix : Nat} (hx : handleEntry s h = some ix) :
    exportOf (takeMessage h s) h = if (entryOf s ix).exporting then some ix else none :=
  exportOf_of_entry (by rw [handleEntry_takeMessage, hx])

theorem continueCmd_of_export {s : State} {h : Hdr} {ix : Nat} (hx : exportOf s h = some ix) (b : SubmitBody) :
    continueCmd false h b s = holdForExport ix h (some b) (leaveOut h s) := by
  rw [continueCmd, hx]
  rfl

theorem continueCmd_of_none {s : State} {h : Hdr} (hx : exportOf s h = none) (late : Bool) (b : SubmitBody) :
    continueCmd late h b s = continueDecide late h b s := by
  rw [continueCmd, hx]

/-- A command that waits for an EXPORT stands last among those that do. -/
theorem holdForExport_spec (ix : Nat) (h : Hdr) (b : Option SubmitBody) (s : State) :
    (entryOf (holdForExport ix h b s) ix).exWait = (entryOf s ix).exWait ++ [(h, b)] := by
  rw [holdForExport, entryOf_modEntry_same]

theorem continue_of_export {s : State} {h : Hdr} (hr : cmdRuns s .partition h) {b : SubmitBody} (hb : b.part = false) {ix : Nat}
    (hx : handleEntry s h = some ix) (he : (entryOf s ix).exporting = true) : ∃ t, exec (.continue_ h b) s = .next t ∧
      (entryOf t ix).exWait = (entryOf s ix).exWait ++ [(h, some b)] ∧ (sesOf t h.ses).queue = (sesOf s h.ses).queue ∧ changesOnly [.req, .net] s t := by
  refine ⟨holdForExport ix h (some b) (leaveOut h (takeMessage h s)), ?_, ?_, ?_,
    co_modEntry _ _ _ (by decide) (co_leaveOut _ _ (by decide) (co_modSes _ _ _ (by decide) (co_refl _ s)))⟩
  · rw [exec_continue hr hb, continueCmd_of_export]
    rw [exportOf_takeMessage hx, he]
    rfl
  · rw [holdForExport_spec, entryOf_leaveOut, entryOf_takeMessage]
  · rw [holdForExport, sesOf_modEntry, queue_leaveOut, queue_takeMessage]

/-- A CONTINUE of a conversation that is not being exported is decided. -/
theorem exec_continue_free {s : State} {h : Hdr} (hr : cmdRuns s .partition h) {b : SubmitBody} (hb : b.part = false) {ix : Nat}
    (hx : handleEntry s h = some ix) (he : (entryOf s ix).exporting = false) :
    exec (.continue_ h b) s = .next (contDecided false h b ix (takeMessage h s) (contRefused h b ix s)) := by
  rw [exec_continue hr hb, continueCmd_of_none, continueDecide_of_entry (ix := ix) (by rw [handleEntry_takeMessage, hx])]
  · rw [contRefused, cmdPtn_takeMessage]
    rfl
  · rw [exportOf_takeMessage hx, he]
    rfl

theorem exec_continue_ok {s : State} {h : Hdr} (hr : cmdRuns s .partition h) {b : SubmitBody} (hb : b.part = false) {ix : Nat}
    (hx : handleEntry s h = some ix) (he : (entryOf s ix).exporting = false) (hn : contRefused h b ix s = none) {d : Bundle}
    (hd : declared s (entryOf s ix).canvas = some d) : exec (.continue_ h b) s = .next (contResv false h b ix (takeMessage h s) (some d)) := by
  rw [exec_continue_free hr hb hx he, hn, contDecided]
  change Host.Outcome.next (contResv false h b ix (takeMessage h s) (declared s (entryOf s ix).canvas)) = _
  rw [hd]

theorem tintGone_takeMessage (h : Hdr) (s : State) (ix : Nat) :
    tintGone (takeMessage h s) (entryOf (takeMessage h s) ix) = tintGone s (entryOf s ix) := rfl

theorem net_contReady (h : Hdr) (b : SubmitBody) (d : Bundle) (ix : Nat) (s : State) : (contReady h b d ix s).net = s.net := rfl

theorem cnv_contReady (h : Hdr) (b : SubmitBody) (d : Bundle) (ix : Nat) (s : State) : (contReady h b d ix s).cnv = s.cnv := rfl

theorem admitting_of_cnv {s t : State} (h : t.cnv = s.cnv) (c : Nat) : admitting t c = admitting s c := by
  rw [admitting, serving, cnvOf_congr h, admitting, serving]

theorem admitting_contReady (h : Hdr) (b : SubmitBody) (d : Bundle) (ix : Nat) (s : State) (c : Nat) :
    admitting (contReady h b d ix s) c = admitting s c := admitting_of_cnv (cnv_contReady ..) c

/-- The fields of a continued conversation. -/
theorem continued_fields (s : State) (h : Hdr) (b : SubmitBody) (d : Bundle) (now : Bool) (e : Entry) :
    (contMoved now e.st (continued s h b d e)).toks = e.toks ++ b.prompt ∧ (contMoved now e.st (continued s h b d e)).gend = 0 ∧
    (contMoved now e.st (continued s h b d e)).maxnew = b.maxnew ∧ (contMoved now e.st (continued s h b d e)).ctl.seed = e.ctl.seed ∧
    (contMoved now e.st (continued s h b d e)).st = (if e.st = .idle then (if now then .prefill else .queued) else .paused) ∧
    (contMoved now e.st (continued s h b d e)).fin = none ∧
    (now = true → e.st = .paused → (contMoved now e.st (continued s h b d e)).pendResume = true) :=
  ⟨rfl, rfl, rfl, rfl, rfl, rfl, fun hn hs => by simp [contMoved, hn, hs]⟩

/-- What an entry waits for is none of these fields. -/
theorem continued_waits {w : Entry → Entry} {h0 : Hdr} {sv : Option Saved} (hw : w = id ∨ ∃ us, w = entryWaits h0 us sv)
    (s : State) (h : Hdr) (b : SubmitBody) (d : Bundle) (now : Bool) (e : Entry) :
    (w (contMoved now e.st (continued s h b d e))).toks = e.toks ++ b.prompt ∧ (w (contMoved now e.st (continued s h b d e))).gend = 0 ∧
    (w (contMoved now e.st (continued s h b d e))).maxnew = b.maxnew ∧ (w (contMoved now e.st (continued s h b d e))).ctl.seed = e.ctl.seed ∧
    (w (contMoved now e.st (continued s h b d e))).st = (if e.st = .idle then (if now then .prefill else .queued) else .paused) ∧
    (w (contMoved now e.st (continued s h b d e))).fin = none ∧
    (now = true → e.st = .paused → (w (contMoved now e.st (continued s h b d e))).pendResume = true) := by
  rcases hw with rfl | ⟨us, rfl⟩
  · exact continued_fields s h b d now e
  · exact continued_fields s h b d now e

/-- A conversation that goes on. -/
theorem continue_spec {s : State} {h : Hdr} (hr : cmdRuns s .partition h) {b : SubmitBody} (hb : b.part = false) {ix : Nat}
    (hx : handleEntry s h = some ix) (he : (entryOf s ix).exporting = false) (hn : contRefused h b ix s = none) {d : Bundle}
    (hd : declared s (entryOf s ix).canvas = some d) (ht : tintGone s (entryOf s ix) = false)
    (hq : resvFits s (cmdPtn s h) ix (resvFor d ((entryOf s ix).toks.length + b.nprompt + b.maxnew) (entryOf s ix).kvfmt) = true) :
    ∃ t, exec (.continue_ h b) s = .next t ∧ (entryOf t ix).toks = (entryOf s ix).toks ++ b.prompt ∧ (entryOf t ix).gend = 0 ∧
      (entryOf t ix).maxnew = b.maxnew ∧ (entryOf t ix).ctl.seed = (entryOf s ix).ctl.seed ∧
      (entryOf t ix).st = (if (entryOf s ix).st = .idle then (if admitting s (entryOf s ix).canvas then .prefill else .queued) else .paused) ∧
      (entryOf t ix).fin = none ∧
      (admitting s (entryOf s ix).canvas = true → answered s t h 0 [] ∧ ((entryOf s ix).st = .paused → (entryOf t ix).pendResume = true)) ∧
      (admitting s (entryOf s ix).canvas = false → (entryOf t ix).waitHdr = some h) := by
  have hj : msgsJoin (takeMessage h s) (contReady h b d ix (takeMessage h s)) := msgsJoin.of_net (congrArg NetSt.sess (net_contReady ..))
  obtain ⟨⟨w, hw, hws⟩, -, hnow, hlate⟩ := admitEntry_spec (canAnswer_join (canAnswer_taken (canAnswer_of_ready hr.1)) hj) ix
    (entryOf s ix).canvas (some (savedOf (entryOf s ix)))
  rw [entryOf_contReady_same, entryOf_takeMessage, admitting_takeMessage] at hw
  rw [admitting_contReady, admitting_takeMessage] at hnow hlate
  have hfields := continued_waits hws (takeMessage h s) h b d (admitting s (entryOf s ix).canvas) (entryOf s ix)
  rw [← hw] at hfields
  obtain ⟨f1, f2, f3, f4, f5, f6, f7⟩ := hfields
  refine ⟨admitEntry false h ix (entryOf s ix).canvas (some (savedOf (entryOf s ix))) (contReady h b d ix (takeMessage h s)), ?_,
    f1, f2, f3, f4, f5, f6, fun hc => ⟨answered_of_taken (answered_before (hnow hc) hj), f7 hc⟩, fun hc => (hlate hc).1⟩
  rw [exec_continue_ok hr hb hx he hn hd, contResv, tintGone_takeMessage, ht, if_neg (by decide), cmdPtn_takeMessage]
  change Host.Outcome.next (if !resvFits s (cmdPtn s h) ix (resvFor d ((entryOf s ix).toks.length + b.nprompt + b.maxnew) (entryOf s ix).kvfmt)
    then _ else _) = _
  rw [hq]
  rfl

theorem continue_of_tintGone {s : State} {h : Hdr} (hr : cmdRuns s .partition h) {b : SubmitBody} (hb : b.part = false) {ix : Nat}
    (hx : handleEntry s h = some ix) (he : (entryOf s ix).exporting = false) (hn : contRefused h b ix s = none) {d : Bundle}
    (hd : declared s (entryOf s ix).canvas = some d) (ht : tintGone s (entryOf s ix) = true) :
    ∃ t, exec (.continue_ h b) s = .next t ∧ answered s t h 7 [] ∧ (entryOf t ix).pendDiscard = true := by
  refine ⟨answer false h 7 0 h.handle (modEntry ix (fun x => { x with pendDiscard := true }) (takeMessage h s)), ?_,
    replied_now (canAnswer_of_ready hr.1) (msgsJoin.modEntry ..) 7, ?_⟩
  · rw [exec_continue_ok hr hb hx he hn hd, contResv, tintGone_takeMessage, ht, if_pos rfl]
  · rw [entryOf_answer, entryOf_modEntry_same]

/-! ## PROMPT -/

/-- A body with the further words and mask bytes. -/
def bodyJoined (b : SubmitBody) (words : List Nat) (bytes : List Byte) : SubmitBody :=
  { b with prompt := b.prompt ++ words, maskArea := b.maskArea ++ bytes }

/-- The decision on a command whose last part has come. -/
def decideParts (p : PartCmd) (b : SubmitBody) (s : State) : State := if p.cont then continueCmd true p.h b s else submitDecide true p.h b s

/-- A body is whole. -/
def bodyWhole (b : SubmitBody) : Bool := decide (b.nprompt ≤ b.prompt.length) && decide (b.masklen ≤ b.maskArea.length)

/-- A PROMPT by the open command of its queue. -/
def promptJoined (h : Hdr) (words : List Nat) (bytes : List Byte) (last : Bool) (s : State) : Option PartCmd → State
  | none => reply h 8 s
  | some p =>
    if last || bodyWhole (bodyJoined p.b words bytes) then decideParts p (bodyJoined p.b words bytes) (partsSet (cmdPtn s h) h.queue none s)
    else partsSet (cmdPtn s h) h.queue (some { p with b := bodyJoined p.b words bytes, us := s.clk.us }) s

theorem promptOp_eq (h : Hdr) (words : List Nat) (bytes : List Byte) (last : Bool) (s : State) : promptOp h words bytes last s =
    promptJoined h words bytes last s (tget none (ptnOf s (cmdPtn s h)).parts h.queue) := by
  unfold promptOp
  dsimp only
  cases tget none (ptnOf s (cmdPtn s h)).parts h.queue <;> rfl

theorem exec_prompt {s : State} {h : Hdr} (hr : cmdReady s .partition h) (words : List Nat) (bytes : List Byte) (last : Bool) :
    exec (.prompt h words bytes last) s = .next (promptJoined h words bytes last (takeMessage h s) (tget none (ptnOf s (cmdPtn s h)).parts h.queue)) := by
  obtain ⟨hh, hl, -, ho, hm, hs, hc⟩ := hr
  have he : exec (.prompt h words bytes last) s = okIf (hdrOk h) (hostBody .partition h none true false (promptOp h words bytes last) s) := rfl
  rw [he, hh, hostBody_of_open hl ho hm hc (.inl rfl) (.inl hs), promptOp_eq, cmdPtn_takeMessage]
  rfl

/-- The decision leaves no part of a command open that was closed. -/
theorem ptn_decideParts (p : PartCmd) (b : SubmitBody) (s : State) : (decideParts p b s).ptn = s.ptn := by
  unfold decideParts
  split
  · exact (co_continueCmd (L := [.head, .req, .net]) _ _ _ s (by decide) (co_refl _ s)).2 .ptn (by decide)
  · exact (co_submitDecide (L := [.head, .req, .net]) _ _ _ s (by decide) (co_refl _ s)).2 .ptn (by decide)

theorem prompt_joins {s : State} {h : Hdr} (hr : cmdReady s .partition h) (words : List Nat) (bytes : List Byte) {last : Bool} {p : PartCmd}
    (hp : tget none (ptnOf s (cmdPtn s h)).parts h.queue = some p) (hw : (last || bodyWhole (bodyJoined p.b words bytes)) = false) :
    ∃ t, exec (.prompt h words bytes last) s = .next t ∧ changesOnly [.ptn, .net] s t ∧ (sesOf t h.ses).queue = (sesOf s h.ses).queue ∧
      tget none (ptnOf t (cmdPtn s h)).parts h.queue = some { p with b := bodyJoined p.b words bytes, us := s.clk.us } := by
  refine ⟨partsSet (cmdPtn s h) h.queue (some { p with b := bodyJoined p.b words bytes, us := s.clk.us }) (takeMessage h s), ?_,
    co_modPtn _ _ _ (by decide) (co_modSes _ _ _ (by decide) (co_refl _ s)), ?_, parts_partsSet ..⟩
  · rw [exec_prompt hr, hp, promptJoined, hw, if_neg (by decide), cmdPtn_takeMessage]
    rfl
  · rw [partsSet, sesOf_modPtn, queue_takeMessage]

theorem prompt_ends {s : State} {h : Hdr} (hr : cmdReady s .partition h) (words : List Nat) (bytes : List Byte) {last : Bool} {p : PartCmd}
    (hp : tget none (ptnOf s (cmdPtn s h)).parts h.queue = some p) (hw : (last || bodyWhole (bodyJoined p.b words bytes)) = true) :
    ∃ t, exec (.prompt h words bytes last) s = .next t ∧ tget none (ptnOf t (cmdPtn s h)).parts h.queue = none := by
  refine ⟨_, by rw [exec_prompt hr, hp, promptJoined, hw, if_pos rfl, cmdPtn_takeMessage], ?_⟩
  rw [ptnOf, ptn_decideParts]
  exact parts_partsSet ..

/-! ## COMMAND_PART_TIMEOUT -/

/-- An open command by its age. -/
def partsTimed (n q : Nat) (s : State) : Option PartCmd → State
  | some p => if p.us + 1000000 ≤ s.clk.us then breakParts n q s else s
  | none => s

theorem exec_commandPartTimeout {n q : Nat} (hn : n < 12) (hq : q < 4) (s : State) :
    exec (.commandPartTimeout n q) s = .next (partsTimed n q s (tget none (ptnOf s n).parts q)) := by
  change execCommandPartTimeout n q s = _
  rw [execCommandPartTimeout, decide_eq_true hn, decide_eq_true hq]
  cases tget none (ptnOf s n).parts q <;> rfl

theorem breakParts_of_some {n q : Nat} {s : State} {p : PartCmd} (hp : tget none (ptnOf s n).parts q = some p) :
    breakParts n q s = replyLate p.h 8 0 p.h.handle [] (partsSet n q none s) := by
  rw [breakParts, hp]
  rfl

theorem breakParts_spec {n q : Nat} {s : State} {p : PartCmd} (hp : tget none (ptnOf s n).parts q = some p) : changesOnly [.ptn, .net] s (breakParts n q s) ∧
    tget none (ptnOf (breakParts n q s) n).parts q = none ∧ (canAnswer s p.h → answered s (breakParts n q s) p.h 8 []) := by
  rw [breakParts_of_some hp]
  have hj : msgsJoin s (partsSet n q none s) := msgsJoin.modPtn ..
  refine ⟨co_replyLate _ _ _ _ _ _ (by decide) (co_modPtn _ _ _ (by decide) (co_refl _ s)), ?_, fun hc =>
    answered_before (answered_replyLate (canAnswer_join hc hj) _ _ _ List.nil_prefix) hj⟩
  rw [ptnOf, (co_replyLate (L := [.net]) _ _ _ _ _ _ (by decide) (co_refl _ _)).2 .ptn (by decide)]
  exact parts_partsSet ..

/-- Settles O40: a CONTINUE waits, is refused, or lets its conversation go on; further parts join their command, and a late one ends it. -/
theorem continueAndParts : Obligations.ContinueAndParts := by
  refine fun h s => ⟨fun b ix hr hb hx he => continue_of_export hr hb hx he, fun b ix hr hb hx he => ⟨fun st arg href => ?_, fun d hn hd =>
    ⟨fun ht => continue_of_tintGone hr hb hx he hn hd ht, fun ht hq => continue_spec hr hb hx he hn hd ht hq⟩⟩,
    fun words bytes last hr => ⟨fun hp => ?_, fun p hp => ⟨fun hw => ?_, fun hw => prompt_ends hr words bytes hp hw⟩⟩,
    fun n q hn hq => ⟨fun hp => ?_, fun p hp => ⟨fun hlt => ?_, fun hle => ?_⟩⟩⟩
  · refine ⟨answer false h st arg h.handle (takeMessage h s), ?_,
      answered_of_taken (answered_replyFull (canAnswer_taken (canAnswer_of_ready hr.1)) _ _ _ List.nil_prefix),
      co_replyFull _ _ _ _ _ _ (by decide) (co_takeMessage_net h s)⟩
    rw [exec_continue_free hr hb hx he, show contRefused h b ix s = some (st, arg) from href]
    rfl
  · refine ⟨reply h 8 (takeMessage h s), ?_, replied (canAnswer_of_ready hr) 8⟩
    rw [exec_prompt hr, hp]
    rfl
  · obtain ⟨t, h1, h2, h3, h4⟩ := prompt_joins hr words bytes hp hw
    exact ⟨t, h1, h2, h3, _, h4, rfl, rfl, rfl, rfl⟩
  · rw [exec_commandPartTimeout hn hq, hp]
    rfl
  · rw [exec_commandPartTimeout hn hq, hp, partsTimed, if_neg (by omega)]
  · exact ⟨breakParts n q s, by rw [exec_commandPartTimeout hn hq, hp, partsTimed, if_pos hle], breakParts_spec hp⟩

end Sys2Proof.Machine
end

section
/-! Request timers, finished moves, scrubs and the end of a load's drain (R295, R296, R329, R330, R338, R343, R345 to R347, R470). -/

namespace Sys2Proof.Machine

/-! ## ADMISSION_WAIT_EXPIRY -/

/-- What becomes of the entry of a command that waited too long. -/
def waitEnded (ix : Nat) (s : State) : Option Saved → State
  | some v => setPresence ix (modEntry ix (putBack v) s)
  | none => freeEntry ix (modEntry ix (fun x => { x with waitHdr := none }) s)

/-- An admission that waits, by its time. -/
def waitTimed (ix : Nat) (s : State) : Option Hdr → State
  | none => s
  | some h =>
    if s.clk.us < (entryOf s ix).waitEnd || admitting s (entryOf s ix).canvas then s
    else replyLate h 5 (retryMs s (entryOf s ix).canvas) h.handle [] (waitEnded ix s (entryOf s ix).saved)

theorem exec_admissionWaitExpiry {ix : Nat} (h : ix < 16384) (s : State) :
    exec (.admissionWaitExpiry ix) s = .next (waitTimed ix s (entryOf s ix).waitHdr) := by
  change execAdmissionWaitExpiry ix s = _
  rw [execAdmissionWaitExpiry, decide_eq_true h, admissionWait]
  cases (entryOf s ix).waitHdr with
  | none => rfl
  | some w =>
    rw [waitTimed]
    cases (entryOf s ix).saved <;> rfl

theorem net_waitEnded (ix : Nat) (s : State) (v : Option Saved) : (waitEnded ix s v).net = s.net := by cases v <;> rfl

/-- The entry of a command that waited too long. -/
def entryWaitEnded (e : Entry) : Option Saved → Entry
  | some v => putBack v e
  | none => entryFreed { e with waitHdr := none }

theorem entryOf_waitEnded (ix : Nat) (s : State) (v : Option Saved) : entryOf (waitEnded ix s v) ix = entryWaitEnded (entryOf s ix) v := by
  cases v with
  | some v => exact (entryOf_setPresence ..).trans (entryOf_modEntry_same ..)
  | none =>
    rw [waitEnded, entryOf_freeEntry, entryOf_modEntry_same, entryOf_modEntry_same]
    rfl

/-- A submission that waited too long leaves nothing; a CONTINUE leaves its conversation as it was. -/
theorem entryWaitEnded_spec (e : Entry) : (entryWaitEnded e e.saved).waitHdr = none ∧ (e.saved = none → (entryWaitEnded e e.saved).st = .free) ∧
    ∀ v, e.saved = some v → (entryWaitEnded e e.saved).st = v.st ∧ (entryWaitEnded e e.saved).toks = e.toks.take v.len := by
  cases hs : e.saved with
  | none => exact ⟨rfl, fun _ => rfl, fun v hv => absurd hv (by simp)⟩
  | some w =>
    refine ⟨rfl, fun hv => absurd hv (by simp), fun v hv => ?_⟩
    cases hv
    exact ⟨rfl, rfl⟩

theorem answered_waitEnded {ix : Nat} {s : State} {h : Hdr} (hc : canAnswer s h) (arg handle : Nat) (v : Option Saved) :
    answered s (replyLate h 5 arg handle [] (waitEnded ix s v)) h 5 [] := by
  have hj : msgsJoin s (waitEnded ix s v) := msgsJoin.of_net (congrArg NetSt.sess (net_waitEnded ix s v))
  exact answered_before (answered_replyLate (canAnswer_join hc hj) _ _ _ List.nil_prefix) hj

/-! ## DEADLINE_EXPIRY -/

theorem exec_deadlineExpiry {ix : Nat} (h : ix < 16384) (s : State) : exec (.deadlineExpiry ix) s = .next (deadlineOp ix s) := by
  change execDeadlineExpiry ix s = _
  rw [execDeadlineExpiry, decide_eq_true h]; rfl

/-- What an entry keeps while the commands that wait for it are answered. -/
theorem entryOf_answerWaiting (ix a b : Nat) (s : State) : entryOf (answerWaiting ix a b s) ix = entryOf s ix ∨
    entryOf (answerWaiting ix a b s) ix = { entryOf s ix with waitHdr := none, saved := none, exWait := [] } := by
  have hfold : ∀ (l : List (Hdr × Option SubmitBody)) (t : State),
      entryOf (l.foldl (fun u w => replyLate w.1 b 0 w.1.handle [] u) t) ix = entryOf t ix := fun l t =>
    foldl_keeps (fun u : State => entryOf u ix) (fun u (w : Hdr × Option SubmitBody) => replyLate w.1 b 0 w.1.handle [] u) (fun _ _ => entryOf_replyLate ..) l t
  unfold answerWaiting
  dsimp only
  split
  · exact .inl rfl
  · right
    rw [hfold]
    split
    · rw [entryOf_replyLate, entryOf_modEntry_same]
    · rw [entryOf_modEntry_same]

/-- The entry of a request that has just completed. -/
def completedAs (status : Nat) (x : Entry) : Entry := { x with fin := some status, finPend := true }

theorem complete_eq (ix status : Nat) (s : State) : complete ix status s =
    if (entryOf s ix).fin.isSome then s
    else if (entryOf s ix).out.isEmpty then sendCompletion ix (modEntry ix (completedAs status) (answerWaiting ix 0 8 s))
    else modEntry ix (completedAs status) (answerWaiting ix 0 8 s) := rfl

/-- A completed request has its status, and the rest of its entry but for what waited for it. -/
theorem entryOf_complete {ix status : Nat} {s : State} (hf : (entryOf s ix).fin = none) : (entryOf (complete ix status s) ix).fin = some status ∧
    (entryOf (complete ix status s) ix).st = (entryOf s ix).st ∧ (entryOf (complete ix status s) ix).resv = (entryOf s ix).resv ∧
    (entryOf (complete ix status s) ix).far = (entryOf s ix).far ∧ (entryOf (complete ix status s) ix).farPages = (entryOf s ix).farPages := by
  have ha : ∀ e : Entry, (e = entryOf s ix ∨ e = { entryOf s ix with waitHdr := none, saved := none, exWait := [] }) →
      (completedAs status e).fin = some status ∧ (completedAs status e).st = (entryOf s ix).st ∧ (completedAs status e).resv = (entryOf s ix).resv ∧
      (completedAs status e).far = (entryOf s ix).far ∧ (completedAs status e).farPages = (entryOf s ix).farPages := by
    rintro e (rfl | rfl) <;> exact ⟨rfl, rfl, rfl, rfl, rfl⟩
  have h := ha _ (entryOf_answerWaiting ix 0 8 s)
  rw [complete_eq, hf, if_neg (by decide)]
  split
  · rw [entryOf_sendCompletion, entryOf_modEntry_same]
    exact h
  · rw [entryOf_modEntry_same]
    exact h

theorem fin_of_deadlinePassed {s : State} {e : Entry} (h : deadlinePassed s e = true) : e.fin = none :=
  Option.isNone_iff_eq_none.1 (Bool.and_eq_true_iff.1 h).2

/-- A paused or moving request past its deadline. -/
theorem deadlineOp_of_moving {ix : Nat} {s : State} (hd : deadlinePassed s (entryOf s ix) = true)
    (hst : (entryOf s ix).st = .pausing ∨ (entryOf s ix).st = .paused) :
    deadlineOp ix s = if (entryOf s ix).keep then complete ix 3 s else retireWith ix 3 s := by
  rw [deadlineOp, if_neg (by rcases hst with h | h <;> simp [h, hd]), if_pos hst]

/-! ## TIME_TO_LIVE_EXPIRY and IDLE_THRESHOLD_EXPIRY -/

theorem exec_timeToLiveExpiry {ix : Nat} (h : ix < 16384) (s : State) : exec (.timeToLiveExpiry ix) s =
    .next (if (entryOf s ix).st = .paused && decide ((entryOf s ix).ttlEnd ≤ s.clk.hours) && !(entryOf s ix).exporting then expire ix s else s) := by
  change execTimeToLiveExpiry ix s = _
  rw [execTimeToLiveExpiry, decide_eq_true h]; rfl

theorem exec_idleThresholdExpiry {ix : Nat} (h : ix < 16384) (s : State) : exec (.idleThresholdExpiry ix) s =
    .next (if idleDue s (entryOf s ix) && pauseFits s ix then modEntry ix (fun x => { x with pendPause := true }) s else s) := by
  change execIdleThresholdExpiry ix s = _
  rw [execIdleThresholdExpiry, decide_eq_true h]; rfl

/-! ## PAUSE_MOVE_COMPLETE -/

theorem exec_pauseMoveComplete {ix : Nat} (h : ix < 16384) (s : State) : exec (.pauseMoveComplete ix) s = .next (pauseDone ix s) := by
  change execPauseMoveComplete ix s = _
  rw [execPauseMoveComplete, decide_eq_true h]; rfl

/-- The entry of a request whose pages stand in the far tier. -/
def pausedAs (us : Nat → Nat) (far : Nat) (pages : List (Nat × Nat × Nat × List Byte)) (x : Entry) : Entry :=
  { x with st := .paused, far := far, farPages := pages, resv := 0, ttlEnd := us x.ttl, pendResume := false }

/-- The paused entry of a request that has moved. -/
def movedOut (ix : Nat) (s : State) : State := modEntry ix (pausedAs (afterSec s) (farFrames s ix) (farCopy s ix)) (freePages ix 0 s)

theorem pauseDone_eq (ix : Nat) (s : State) : pauseDone ix s =
    if (entryOf s ix).st ≠ .pausing then s
    else sendPackage ix (if (entryOf s ix).drainPause then complete ix 10 (movedOut ix s) else movedOut ix s) := rfl

theorem entryOf_sendPackage (ix : Nat) (s : State) (j : Nat) : entryOf (sendPackage ix s) j = entryOf s j := by
  rw [entryOf, req_sendPackage, entryOf]

/-- A completion, where one is due, leaves what a paused entry holds. -/
theorem entryOf_complete_paused (ix status : Nat) (s : State) : (entryOf (complete ix status s) ix).st = (entryOf s ix).st ∧
    (entryOf (complete ix status s) ix).resv = (entryOf s ix).resv ∧ (entryOf (complete ix status s) ix).far = (entryOf s ix).far ∧
    (entryOf (complete ix status s) ix).farPages = (entryOf s ix).farPages := by
  cases hf : (entryOf s ix).fin with
  | none => exact (entryOf_complete hf).2
  | some v =>
    rw [complete_eq, hf, Option.isSome_some, if_pos rfl]
    exact ⟨rfl, rfl, rfl, rfl⟩

theorem movedOut_spec (ix : Nat) (s : State) : (entryOf (movedOut ix s) ix).st = .paused ∧ (entryOf (movedOut ix s) ix).resv = 0 ∧
    (entryOf (movedOut ix s) ix).far = farFrames s ix ∧ (entryOf (movedOut ix s) ix).farPages = farCopy s ix := by
  rw [movedOut, entryOf_modEntry_same]
  exact ⟨rfl, rfl, rfl, rfl⟩

/-- A moved request is paused, with its far-tier frames and no reservation. -/
theorem pauseDone_spec {ix : Nat} {s : State} (h : (entryOf s ix).st = .pausing) : (entryOf (pauseDone ix s) ix).st = .paused ∧
    (entryOf (pauseDone ix s) ix).resv = 0 ∧ (entryOf (pauseDone ix s) ix).far = farFrames s ix ∧
    (entryOf (pauseDone ix s) ix).farPages = farCopy s ix := by
  obtain ⟨m1, m2, m3, m4⟩ := movedOut_spec ix s
  rw [pauseDone_eq, if_neg (by simp [h]), entryOf_sendPackage]
  split
  · obtain ⟨c1, c2, c3, c4⟩ := entryOf_complete_paused ix 10 (movedOut ix s)
    exact ⟨c1.trans m1, c2.trans m2, c3.trans m3, c4.trans m4⟩
  · exact ⟨m1, m2, m3, m4⟩

/-! ## RESUME_MOVE_COMPLETE -/

/-- A step that changes of an entry only its pages. -/
structure pagesOnly (ix : Nat) (s t : State) : Prop where
  entry : pagesDropped (entryOf t ix) = pagesDropped (entryOf s ix)

theorem pagesOnly.refl (ix : Nat) (s : State) : pagesOnly ix s s := ⟨rfl⟩

theorem pagesOnly.trans {ix : Nat} {s t u : State} (h : pagesOnly ix s t) (k : pagesOnly ix t u) : pagesOnly ix s u := ⟨k.entry.trans h.entry⟩

theorem pagesOnly.of_req {ix : Nat} {s t : State} (h : t.req = s.req) : pagesOnly ix s t := ⟨by rw [entryOf, h, entryOf]⟩

theorem pagesOnly.of_kv {ix : Nat} {s t : State} (h : changesOnly [.kv] s t) : pagesOnly ix s t := .of_req (h.2 .req (by decide))

theorem pagesOnly.modEntry {ix : Nat} {f : Entry → Entry} (hf : ∀ e, pagesDropped (f e) = pagesDropped e) (s : State) :
    pagesOnly ix s (modEntry ix f s) := ⟨by rw [entryOf_modEntry_same, hf]⟩

theorem pagesOnly.takePages (ix n : Nat) (s : State) : pagesOnly ix s (takePages ix n s).2 := by
  have h : ∀ k, pagesOnly ix s ((List.range n).foldl (fun t j => mapPage (entryOf s ix).ptn (k + j) t) s) := fun k =>
    .of_kv (co_foldl _ (fun t j ht => co_mapPage _ _ t (by decide) ht) _ s (co_refl _ s))
  exact (h _).trans (.modEntry (f := fun e => { e with pages := e.pages ++ (List.range n).map (_ + ·) }) (fun _ => rfl) _)

/-- An entry with one more table page. -/
def tpageAdded (k : Nat) (x : Entry) : Entry := { x with tpages := x.tpages ++ [k] }

/-- The page of a new table block: a new one for every 16th. -/
def blockPage (ix : Nat) (s : State) : Nat × State :=
  if (entryOf s ix).tblk % 16 = 0 then ((takePages ix 1 s).1, modEntry ix (tpageAdded (takePages ix 1 s).1) (takePages ix 1 s).2)
  else (nth 0 (entryOf s ix).tpages ((entryOf s ix).tblk / 16), s)

theorem newBlock_eq (ix : Nat) (s : State) : newBlock ix s =
    ((blockPage ix s).1 * 16 + (entryOf s ix).tblk % 16, modEntry ix (fun x => { x with tblk := x.tblk + 1 }) (blockPage ix s).2) := rfl

theorem pagesOnly.blockPage (ix : Nat) (s : State) : pagesOnly ix s (blockPage ix s).2 := by
  unfold Machine.blockPage
  split
  · exact (pagesOnly.takePages ix 1 s).trans (.modEntry (f := tpageAdded (Machine.takePages ix 1 s).1) (fun _ => rfl) _)
  · exact .refl ix s

theorem pagesOnly.newBlock (ix : Nat) (s : State) : pagesOnly ix s (newBlock ix s).2 := by
  rw [newBlock_eq]
  exact (pagesOnly.blockPage ix s).trans (.modEntry (f := fun x => { x with tblk := x.tblk + 1 }) (fun _ => rfl) _)

theorem pagesOnly.nearAll (ix f o : Nat) (bs : List Byte) (s : State) : pagesOnly ix s (nearAll f o bs s) :=
  .of_kv (co_nearAll _ _ _ _ (by decide) (co_refl _ s))

theorem pagesOnly.ensureEntry (ix ptr off : Nat) (s : State) : pagesOnly ix s (ensureEntry ix ptr off s).2 := by
  unfold Machine.ensureEntry
  dsimp only
  split
  · exact .refl ix s
  · exact (pagesOnly.newBlock ix s).trans (.nearAll ..)

theorem pagesOnly.ensureRoot (ix : Nat) (s : State) : pagesOnly ix s (ensureRoot ix s) := by
  unfold Machine.ensureRoot
  split
  · exact (pagesOnly.newBlock ix s).trans (.modEntry (f := fun x => { x with ptroot := (Machine.newBlock ix s).1 / 16 }) (fun _ => rfl) _)
  · exact .refl ix s

theorem pagesOnly.dataPage (ix : Nat) (e : Entry) (s : State) : pagesOnly ix s (dataPage ix e s).2 := by
  unfold Machine.dataPage
  split
  · exact (pagesOnly.takePages ix 1 s).trans (.modEntry (f := fun x => { x with mxf := x.mxf ++ [(Machine.takePages ix 1 s).1] }) (fun _ => rfl) _)
  · exact .refl ix s

theorem pagesOnly.scalePage (ix : Nat) (e : Entry) (s : State) : pagesOnly ix s (scalePage ix e s).2 := by
  unfold Machine.scalePage
  split
  · exact (pagesOnly.takePages ix 1 s).trans (.modEntry (f := fun x => { x with sff := x.sff ++ [(Machine.takePages ix 1 s).1] }) (fun _ => rfl) _)
  · exact .refl ix s

theorem pagesOnly.newPage (ix : Nat) (s : State) : pagesOnly ix s (newPage ix s).2 := by
  unfold Machine.newPage
  dsimp only
  split
  · exact .takePages ix 1 s
  · exact (pagesOnly.dataPage ix _ s).trans ((pagesOnly.scalePage ix _ _).trans (.modEntry (f := fun x => { x with mxn := x.mxn + 1 }) (fun _ => rfl) _))

theorem pagesOnly.ensurePage (ix layer j : Nat) (s : State) : pagesOnly ix s (ensurePage ix layer j s) := by
  have h1 := pagesOnly.ensureRoot ix s
  have h2 := h1.trans (.ensureEntry ix ((entryOf (Machine.ensureRoot ix s) ix).ptroot * 16) (8 * (layer / 8)) _)
  have h3 := h2.trans (.ensureEntry ix (Machine.ensureEntry ix ((entryOf (Machine.ensureRoot ix s) ix).ptroot * 16) (8 * (layer / 8))
    (Machine.ensureRoot ix s)).1 (8 * (j / 8)) _)
  unfold Machine.ensurePage
  dsimp only
  split
  · exact h3
  · exact (h3.trans (.newPage ix _)).trans (.nearAll ..)

theorem pagesOnly.putImage (ix ptn root layer j fill : Nat) (bs : List Byte) (s : State) : pagesOnly ix s (putImage ptn root layer j fill bs s) :=
  .of_kv (co_putImage _ _ _ _ _ _ _ (by decide) (co_refl _ s))

theorem pagesOnly.foldl {β : Type} {ix : Nat} {f : State → β → State} (h : ∀ t x, pagesOnly ix t (f t x)) (l : List β) (s : State) :
    pagesOnly ix s (l.foldl f s) := by
  induction l generalizing s with
  | nil => exact .refl ix s
  | cons x l ih => exact (h s x).trans (ih _)

/-- One page of an entry written to a frame of the near tier. -/
def pageBack (ix : Nat) (t : State) (p : Nat × Nat × Nat × List Byte) : State :=
  putImage (entryOf (ensurePage ix p.1 p.2.1 t) ix).ptn (entryOf (ensurePage ix p.1 p.2.1 t) ix).ptroot p.1 p.2.1 p.2.2.1 p.2.2.2
    (ensurePage ix p.1 p.2.1 t)

theorem pagesOnly.pageBack (ix : Nat) (t : State) (p : Nat × Nat × Nat × List Byte) : pagesOnly ix t (pageBack ix t p) := by
  unfold Machine.pageBack
  exact (pagesOnly.ensurePage ix p.1 p.2.1 t).trans (.putImage ..)

/-- The pages of an entry written to frames of the near tier. -/
def pagesBack (ix : Nat) (s : State) : State := (entryOf s ix).farPages.foldl (pageBack ix) s

theorem pagesOnly.pagesBack (ix : Nat) (s : State) : pagesOnly ix s (pagesBack ix s) := .foldl (pagesOnly.pageBack ix) _ s

theorem pagesOnly.cont {ix : Nat} {s t : State} (h : pagesOnly ix s t) : (entryOf t ix).cont = (entryOf s ix).cont := by
  have hc : (pagesDropped (entryOf t ix)).cont = (pagesDropped (entryOf s ix)).cont := by rw [h.entry]
  exact hc

theorem pagesOnly.ret {ix : Nat} {s t : State} (h : pagesOnly ix s t) : (entryOf t ix).ret = (entryOf s ix).ret := by
  have hr : (pagesDropped (entryOf t ix)).ret = (pagesDropped (entryOf s ix)).ret := by rw [h.entry]
  exact hr

/-- An entry whose pages stand in the near tier again. -/
def farEmptied (x : Entry) : Entry := { x with farPages := [], far := 0 }

/-- A request that runs again. -/
def runsAgain (us : Nat) (x : Entry) : Entry := { x with st := if x.cont then .prefill else x.ret, cont := false, lastAct := us }

/-- A request moved back, its far-tier frames to be scrubbed. -/
def movedIn (ix : Nat) (s : State) : State :=
  { modEntry ix farEmptied (pagesBack ix s) with
    kv := { (pagesBack ix s).kv with
            scrubFar := (pagesBack ix s).kv.scrubFar ++ List.replicate (entryOf s ix).far ((entryOf s ix).ptn, 0) } }

theorem resumeDone_eq (ix : Nat) (s : State) : resumeDone ix s =
    if (entryOf s ix).st ≠ .resuming then s else setPresence ix (modEntry ix (runsAgain s.clk.us) (movedIn ix s)) := rfl

theorem exec_resumeMoveComplete {ix : Nat} (h : ix < 16384) (s : State) : exec (.resumeMoveComplete ix) s = .next (resumeDone ix s) := by
  change execResumeMoveComplete ix s = _
  rw [execResumeMoveComplete, decide_eq_true h]; rfl

theorem entryOf_movedIn (ix : Nat) (s : State) : entryOf (movedIn ix s) ix = entryOf (modEntry ix farEmptied (pagesBack ix s)) ix := rfl

theorem resumeDone_spec {ix : Nat} {s : State} (h : (entryOf s ix).st = .resuming) : (entryOf (resumeDone ix s) ix).far = 0 ∧
    (entryOf (resumeDone ix s) ix).farPages = [] ∧
    (entryOf (resumeDone ix s) ix).st = if (entryOf s ix).cont then .prefill else (entryOf s ix).ret := by
  have hb := pagesOnly.pagesBack ix s
  rw [resumeDone_eq, if_neg (by simp [h]), entryOf_setPresence, entryOf_modEntry_same, entryOf_movedIn, entryOf_modEntry_same, ← hb.cont, ← hb.ret]
  exact ⟨rfl, rfl, rfl⟩

end Sys2Proof.Machine
end

section
/-! FRAME_SCRUB_COMPLETE and LOAD_DRAIN_EXPIRY (R295, R343, R470), and the statement on request timers and moves. -/

namespace Sys2Proof.Machine

/-! ## FRAME_SCRUB_COMPLETE -/

/-- A frame with zeros on every die of a list. -/
def frameZeroed (frame : Nat) (l : List Nat) (m : Mem) : Mem := l.foldl (fun m n => zeroRange m (nearAddr n frame 0) 524288) m

theorem rdByte_frameZeroed (frame a : Nat) (l : List Nat) (m : Mem) : rdByte (frameZeroed frame l m) a =
    if ∃ n ∈ l, nearAddr n frame 0 ≤ a ∧ a < nearAddr n frame 0 + 524288 then 0 else rdByte m a := by
  unfold frameZeroed
  induction l generalizing m with
  | nil => simp
  | cons n l ih =>
    rw [List.foldl_cons, ih, rdByte_zeroRange]
    by_cases h1 : ∃ k ∈ l, nearAddr k frame 0 ≤ a ∧ a < nearAddr k frame 0 + 524288
    · obtain ⟨k, hk, hr⟩ := h1
      rw [if_pos ⟨k, hk, hr⟩, if_pos ⟨k, List.mem_cons_of_mem n hk, hr⟩]
    · rw [if_neg h1]
      simp only [List.exists_mem_cons_iff, h1, or_false]

theorem rdByte_frameZeroed_in (frame : Nat) {die off : Nat} (hd : die < 8) (ho : off < 524288) (m : Mem) :
    rdByte (frameZeroed frame (List.range 8) m) (nearAddr die frame off) = 0 := by
  rw [rdByte_frameZeroed, if_pos]
  refine ⟨die, List.mem_range.2 hd, ?_⟩
  simp only [nearAddr]
  omega

theorem rdByte_frameZeroed_out {frame f : Nat} (hne : f ≠ frame) (hf : f < 1048576) (hfr : frame < 1048576) (die : Nat) {off : Nat} (ho : off < 524288)
    (m : Mem) : rdByte (frameZeroed frame (List.range 8) m) (nearAddr die f off) = rdByte m (nearAddr die f off) := by
  rw [rdByte_frameZeroed, if_neg]
  rintro ⟨n, -, h1, h2⟩
  simp only [nearAddr, Nat.reducePow] at h1 h2
  omega

/-- The state with a frame of the near tier scrubbed. -/
def frameCleared (frame : Nat) (x : Nat × Nat × Nat) (s : State) : State :=
  { s with kv := { s.kv with near := frameZeroed frame (List.range 8) s.kv.near, scrub := s.kv.scrub.erase x, owner := tput 0 s.kv.owner frame 0 } }

/-- The state with a frame of the far tier scrubbed. -/
def farCleared (x : Nat × Nat) (s : State) : State := { s with kv := { s.kv with scrubFar := s.kv.scrubFar.erase x } }

/-- A frame's scrub, by what is to be scrubbed. -/
def nearScrubbed (frame : Nat) (s : State) : Option (Nat × Nat × Nat) → State
  | some x => scrubEnds x.2.2 (frameCleared frame x s)
  | none => s

/-- The scrub of a far-tier frame, by what is to be scrubbed. -/
def farScrubbed (s : State) : Option (Nat × Nat) → State
  | some x => scrubEnds x.2 (farCleared x s)
  | none => s

theorem exec_frameScrub {n frame : Nat} (hn : n < 12) (hf : frame < 1048576) (s : State) : exec (.frameScrubComplete n frame false) s =
    .next (nearScrubbed frame s (s.kv.scrub.find? fun x => x.1 == n && x.2.1 == frame)) := by
  change execFrameScrubComplete n frame false s = _
  rw [execFrameScrubComplete, decide_eq_true hn, decide_eq_true hf, scrubbed, if_neg (by decide)]
  cases s.kv.scrub.find? fun x => x.1 == n && x.2.1 == frame <;> rfl

theorem exec_farScrub {n : Nat} (hn : n < 12) (frame : Nat) (s : State) : exec (.frameScrubComplete n frame true) s =
    .next (farScrubbed s (s.kv.scrubFar.find? (·.1 == n))) := by
  change execFrameScrubComplete n frame true s = _
  rw [execFrameScrubComplete, decide_eq_true hn, scrubbed, if_pos rfl]
  cases s.kv.scrubFar.find? (·.1 == n) <;> rfl

theorem kv_scrubEnds (mark : Nat) (s : State) : (scrubEnds mark s).kv = s.kv :=
  (co_scrubEnds (L := [.head, .req]) mark s (by decide) (co_refl _ s)).2 .kv (by decide)

/-- A scrubbed frame has no owner and reads as zeros on every die, and no other frame changes. -/
theorem nearScrubbed_spec {frame : Nat} (hf : frame < 1048576) (x : Nat × Nat × Nat) (s : State) :
    (nearScrubbed frame s (some x)).kv.scrub = s.kv.scrub.erase x ∧ tget 0 (nearScrubbed frame s (some x)).kv.owner frame = 0 ∧
    (∀ die off, die < 8 → off < 524288 → rdByte (nearScrubbed frame s (some x)).kv.near (nearAddr die frame off) = 0) ∧
    ∀ die f off, f ≠ frame → f < 1048576 → off < 524288 →
      rdByte (nearScrubbed frame s (some x)).kv.near (nearAddr die f off) = rdByte s.kv.near (nearAddr die f off) := by
  rw [nearScrubbed, kv_scrubEnds]
  exact ⟨rfl, tget_tput_same 0 s.kv.owner frame 0, fun die off hd ho => rdByte_frameZeroed_in frame hd ho _,
    fun die f off hne hf' ho => rdByte_frameZeroed_out hne hf' hf die ho _⟩

/-! ## LOAD_DRAIN_EXPIRY -/

/-- The requests of a canvas that still run are ended. -/
def drainEnded (c : Nat) (s : State) : State :=
  (entriesWhere s fun e => e.canvas == c && running e && e.waitHdr.isNone).foldl (fun t ix => endRequest ix 4 t) s

theorem exec_loadDrainExpiry {c : Nat} (hc : c < 4) (s : State) : exec (.loadDrainExpiry c) s =
    .next (if (cnvOf s c).loadPh = 1 && decide ((cnvOf s c).loadEnd ≤ s.clk.us) then drainEnded c s else s) := by
  change execLoadDrainExpiry c s = _
  rw [execLoadDrainExpiry, decide_eq_true hc]; rfl

theorem entryOf_drainEnded {ix : Nat} {s : State} (hr : running (entryOf s ix) = true) (hw : (entryOf s ix).waitHdr = none)
    (hs : (ptnOf s (entryOf s ix).ptn).sealed = false) : entryOf (drainEnded (entryOf s ix).canvas s) ix = endMarked 4 (entryOf s ix) :=
  endRequests_marks hr hs (entry_mem (running_not_free hr) _ (by simp [hr, hw]))

/-- Settles O44: each timer waits or ends what it is for, a finished move leaves its request paused or running, a scrubbed frame is empty. -/
theorem requestTimersAndMoves : Obligations.RequestTimersAndMoves := by
  refine ⟨fun ix s hix => ⟨fun hw => ?_, fun h hw => ⟨fun hwait => ?_, fun hle hadm => ?_⟩, fun hd => ?_, fun hd hst => ?_, fun hst he => ⟨fun hlt => ?_, fun hle => ?_⟩,
    fun hst hfit hle => ?_, fun hst => ?_⟩, fun s => ⟨fun ix hix => ⟨fun hst => ?_, fun hst => ?_, fun hst => ?_, fun hst => ?_⟩,
      fun n frame x hn hf hx => ?_, fun n frame x hn hx => ?_, fun c hc => ⟨fun hno => ?_, fun hph hle => ?_⟩⟩⟩
  · rw [exec_admissionWaitExpiry hix, hw]
    rfl
  · rw [exec_admissionWaitExpiry hix, hw, waitTimed, if_pos]
    rcases hwait with h | h <;> simp [h]
  · refine ⟨_, by rw [exec_admissionWaitExpiry hix, hw, waitTimed, if_neg (by simp [hadm, hle])], ?_⟩
    obtain ⟨h1, h2, h3⟩ := entryWaitEnded_spec (entryOf s ix)
    rw [entryOf_replyLate, entryOf_waitEnded]
    exact ⟨h1, h2, h3, fun hc => answered_waitEnded hc _ _ _⟩
  · rw [exec_deadlineExpiry hix, deadlineOp, if_pos (by simp [hd])]
  · refine ⟨_, by rw [exec_deadlineExpiry hix, deadlineOp_of_moving hd hst], fun hk => ?_, fun hk => ?_⟩
    · obtain ⟨h1, h2, -⟩ := entryOf_complete (status := 3) (fin_of_deadlinePassed hd)
      rw [if_pos hk]
      exact ⟨h1, h2⟩
    · rw [if_neg (by simp [hk])]
      exact gone_retireWith ..
  · rw [exec_timeToLiveExpiry hix, if_neg]
    simp only [Bool.and_eq_true, decide_eq_true_eq]
    omega
  · refine ⟨expire ix s, ?_, gone_expire ..⟩
    rw [exec_timeToLiveExpiry hix, if_pos (by simp [hst, he, hle])]
  · refine ⟨modEntry ix (fun x => { x with pendPause := true }) s, ?_, co_modEntry _ _ _ (by decide) (co_refl _ s), ?_, ?_⟩
    · rw [exec_idleThresholdExpiry hix, if_pos (by simp [idleDue, hst, hfit, hle])]
    · rw [entryOf_modEntry_same]
    · rw [entryOf_modEntry_same]
      exact hst
  · rw [exec_idleThresholdExpiry hix, if_neg (by simp [idleDue, hst])]
  · rw [exec_pauseMoveComplete hix, pauseDone_eq, if_pos hst]
  · exact ⟨_, exec_pauseMoveComplete hix s, pauseDone_spec hst⟩
  · rw [exec_resumeMoveComplete hix, resumeDone_eq, if_pos hst]
  · exact ⟨_, exec_resumeMoveComplete hix s, resumeDone_spec hst⟩
  · exact ⟨_, by rw [exec_frameScrub hn hf, hx], nearScrubbed_spec hf x s⟩
  · refine ⟨_, by rw [exec_farScrub hn, hx], ?_⟩
    rw [farScrubbed, kv_scrubEnds]
    exact ⟨rfl, rfl⟩
  · rw [exec_loadDrainExpiry hc, if_neg]
    simp only [Bool.and_eq_true, decide_eq_true_eq]
    omega
  · refine ⟨drainEnded c s, by rw [exec_loadDrainExpiry hc, if_pos (by simp [hph, hle])], fun ix hcv hr hw hs => ?_⟩
    subst hcv
    rw [entryOf_drainEnded hr hw hs]
    rfl

end Sys2Proof.Machine
end

section
/-! Firmware images, live updates and their watchdogs (R453 to R459). -/

namespace Sys2Proof.Machine

/-! ## Commands answered with an outcome -/

theorem mayClass_of_opRuns {s : State} {h : Hdr} (hr : opRuns s h) : mayClass s .operator_ h = true := by
  obtain ⟨-, -, -, -, hrole, -⟩ := hr
  rw [mayClass, hrole]
  rfl

/-- A command that changes nothing else is answered with its outcome. -/
theorem outcomed {s : State} {h : Hdr} (hc : canAnswer s h) (o : Nat) : outcomeIs s (replyOutcome h o (takeMessage h s)) h o ∧
    changesOnly [.net] s (replyOutcome h o (takeMessage h s)) :=
  ⟨answered_of_taken (outcomeIs_replyOutcome (canAnswer_taken hc) o), co_replyOutcome _ _ _ (by decide) (co_takeMessage_net h s)⟩

/-- A command that has its effect, and is then answered with its outcome. -/
theorem outcomed_after {s t : State} {h : Hdr} (hc : canAnswer s h) (hj : msgsJoin (takeMessage h s) t) (o : Nat) :
    outcomeIs s (replyOutcome h o t) h o :=
  answered_of_taken (answered_before (outcomeIs_replyOutcome (canAnswer_join (canAnswer_taken hc) hj) o) hj)

theorem sec_replyOutcome (h : Hdr) (o : Nat) (s : State) : (replyOutcome h o s).sec = s.sec :=
  sec_of_changesOnly (co_replyOutcome (L := [.net]) h o s (by decide) (co_refl _ s)) (by decide)

theorem sec_replyOutcomeLate (h : Hdr) (o : Nat) (s : State) : (replyOutcomeLate h o s).sec = s.sec :=
  sec_of_changesOnly (co_replyOutcomeLate (L := [.net]) h o s (by decide) (co_refl _ s)) (by decide)

theorem sec_fire (t unit level code detail : Nat) (s : State) : (fire t unit level code detail s).sec = s.sec :=
  sec_of_changesOnly (co_fire (L := [.evr]) t unit level code detail s (by decide) (co_refl _ s)) (by decide)

theorem fwOf_of_sec {s t : State} (h : t.sec.fw = s.sec.fw) (cls : Nat) : fwOf t cls = fwOf s cls := by rw [fwOf, h, fwOf]

theorem fwOf_replyOutcome (h : Hdr) (o : Nat) (s : State) (cls : Nat) : fwOf (replyOutcome h o s) cls = fwOf s cls :=
  fwOf_of_sec (congrArg SecSt.fw (sec_replyOutcome h o s)) cls

/-- A refused signature counted. -/
def sigFailed (s : State) : State := { s with sec := { s.sec with sigFail := satAdd 32 s.sec.sigFail 1 } }

theorem badSig_eq (s : State) : badSig s = fire 25 0 0 1 (s.sec.ownerGen % 65536) (sigFailed s) := rfl

theorem sec_badSig (s : State) : (badSig s).sec = { s.sec with sigFail := satAdd 32 s.sec.sigFail 1 } := by
  rw [badSig_eq, sec_fire]
  rfl

theorem msgsJoin.badSig (s : State) : msgsJoin s (badSig s) :=
  .of_changesOnly (co_badSig (L := [.sec, .evr]) s (by decide) (co_refl _ s)) (by decide)

theorem msgsJoin.modFw (cls : Nat) (f : FwCls → FwCls) (s : State) : msgsJoin s (modFw cls f s) := msgsJoin.of_net rfl

/-! ## FW_STAGE -/

/-- What a staging does by its outcome. -/
def fwStaged (cls : Nat) (m : Img) (s : State) (o : Nat) : State :=
  if o = 0 then modFw cls (setSpare m) s else if o = 1 then badSig s else s

theorem exec_fwStage {s : State} {h : Hdr} (hr : opRuns s h) (cls imgCls : Nat) {svn meas : Nat} (hs : svn < 65536) (hm : meas < 2 ^ 512)
    (sigOk raise : Bool) (rlo rhi wr : Nat) : exec (.fwStage h cls imgCls svn sigOk raise rlo rhi wr meas) s =
      .next (replyOutcome h (stageFwOutcome s cls imgCls svn sigOk)
        (fwStaged cls { valid := true, svn := svn, raise_ := raise, rlo := rlo, rhi := rhi, wr := wr, meas := meas } (takeMessage h s)
          (stageFwOutcome s cls imgCls svn sigOk))) :=
  hostCmdSafe_of_opRuns hr (mayClass_of_opRuns hr) (by rw [decide_eq_true hs, decide_eq_true hm]; rfl) _

/-- A staging that is refused, other than for its signature. -/
theorem fwStage_refused {s : State} {h : Hdr} (hr : opRuns s h) {cls imgCls svn meas o : Nat} (hs : svn < 65536) (hm : meas < 2 ^ 512)
    {sigOk : Bool} (raise : Bool) (rlo rhi wr : Nat) (ho : stageFwOutcome s cls imgCls svn sigOk = o) (h0 : o ≠ 0) (h1 : o ≠ 1) :
    ∃ t, exec (.fwStage h cls imgCls svn sigOk raise rlo rhi wr meas) s = .next t ∧ outcomeIs s t h o ∧ changesOnly [.net] s t := by
  refine ⟨replyOutcome h o (takeMessage h s), ?_, outcomed (canAnswer_of_opRuns hr) o⟩
  rw [exec_fwStage hr cls imgCls hs hm, ho, fwStaged, if_neg h0, if_neg h1]

theorem upd_any_iff {s : State} {cls : Nat} : (s.sec.upd.any fun u => u.cls == cls) = true ↔ ∃ u, s.sec.upd = some u ∧ u.cls = cls := by
  cases s.sec.upd <;> simp

theorem upd_any_false {s : State} {cls : Nat} (h : ∀ u, s.sec.upd = some u → u.cls ≠ cls) : (s.sec.upd.any fun u => u.cls == cls) = false := by
  rw [Bool.eq_false_iff, Ne, upd_any_iff]
  rintro ⟨u, hu, hcls⟩
  exact h u hu hcls

theorem fwStage_badSig {s : State} {h : Hdr} (hr : opRuns s h) {cls imgCls svn meas : Nat} (hs : svn < 65536) (hm : meas < 2 ^ 512)
    (raise : Bool) (rlo rhi wr : Nat) (hu : ∀ u, s.sec.upd = some u → u.cls ≠ cls) :
    ∃ t, exec (.fwStage h cls imgCls svn false raise rlo rhi wr meas) s = .next t ∧ outcomeIs s t h 1 ∧ t.sec.fw = s.sec.fw ∧
      t.sec.sigFail = satAdd 32 s.sec.sigFail 1 := by
  have ho : stageFwOutcome s cls imgCls svn false = 1 := by rw [stageFwOutcome, if_neg (by simp [upd_any_false hu])]; rfl
  refine ⟨replyOutcome h 1 (badSig (takeMessage h s)), ?_, outcomed_after (canAnswer_of_opRuns hr) (.badSig _) 1, ?_⟩
  · rw [exec_fwStage hr cls imgCls hs hm, ho, fwStaged, if_neg (by decide), if_pos rfl]
  · rw [sec_replyOutcome, sec_badSig]
    exact ⟨rfl, rfl⟩

theorem spareImg_setSpare (m : Img) (c : FwCls) : spareImg (setSpare m c) = m := by
  unfold spareImg setSpare
  cases hb : c.actB <;> simp [hb]

theorem activeImg_setSpare (m : Img) (c : FwCls) : activeImg (setSpare m c) = activeImg c := by
  unfold activeImg setSpare
  cases hb : c.actB <;> simp [hb]

theorem staged_setSpare (m : Img) (c : FwCls) : (setSpare m c).staged = true := by
  unfold setSpare
  split <;> rfl

theorem fwStage_spec {s : State} {h : Hdr} (hr : opRuns s h) {cls svn meas : Nat} (hs : svn < 65536) (hm : meas < 2 ^ 512)
    (raise : Bool) (rlo rhi wr : Nat) (ho : stageFwOutcome s cls cls svn true = 0) :
    ∃ t, exec (.fwStage h cls cls svn true raise rlo rhi wr meas) s = .next t ∧ outcomeIs s t h 0 ∧ changesOnly [.net, .sec] s t ∧
      spareImg (fwOf t cls) = { valid := true, svn := svn, raise_ := raise, rlo := rlo, rhi := rhi, wr := wr, meas := meas } ∧
      activeImg (fwOf t cls) = activeImg (fwOf s cls) ∧ (fwOf t cls).staged = true ∧ ∀ k, k ≠ cls → fwOf t k = fwOf s k := by
  refine ⟨replyOutcome h 0 (modFw cls (setSpare { valid := true, svn := svn, raise_ := raise, rlo := rlo, rhi := rhi, wr := wr, meas := meas })
    (takeMessage h s)), ?_, outcomed_after (canAnswer_of_opRuns hr) (.modFw ..) 0,
    co_replyOutcome _ _ _ (by decide) (co_modFw _ _ _ (by decide) (co_modSes _ _ _ (by decide) (co_refl _ s))), ?_, ?_, ?_, fun k hk => ?_⟩
  · rw [exec_fwStage hr cls cls hs hm, ho, fwStaged, if_pos rfl]
  · rw [fwOf_replyOutcome, fwOf_modFw_same, spareImg_setSpare]
  · rw [fwOf_replyOutcome, fwOf_modFw_same, activeImg_setSpare]
    rfl
  · rw [fwOf_replyOutcome, fwOf_modFw_same, staged_setSpare]
  · rw [fwOf_replyOutcome, fwOf_modFw_ne _ _ _ _ hk]
    rfl

/-! ## FW_UPDATE and FW_FLOOR -/

theorem exec_fwUpdate {s : State} {h : Hdr} (hr : cmdRuns s .operator_ h) (cls : Nat) : exec (.fwUpdate h cls) s =
    .next (if fwClassOk cls then fwUpdateOp h cls (takeMessage h s) else reply h 8 (takeMessage h s)) := hostCmd_of_runs hr rfl _

/-- The update of a class begun. -/
def updBegun (h : Hdr) (cls : Nat) (now : Nat) (s : State) : State :=
  { s with sec := { s.sec with upd := some { cls := cls, h := h, us := now, step := s.sch.stepNo }
                               updNow := (cls == 2 || cls == 4) && s.sch.cur.isSome, revert := s.sch.stepNo } }

theorem fwUpdateOp_eq (h : Hdr) (cls : Nat) (s : State) : fwUpdateOp h cls s =
    if updateOutcome s cls ≠ 0 then replyOutcome h (updateOutcome s cls) s else updBegun h cls s.clk.us (leaveOut h s) := rfl

theorem fwUpdate_refused {s : State} {h : Hdr} (hr : cmdRuns s .operator_ h) {cls o : Nat} (hk : fwClassOk cls = true)
    (ho : updateOutcome s cls = o) (h0 : o ≠ 0) : ∃ t, exec (.fwUpdate h cls) s = .next t ∧ outcomeIs s t h o ∧ changesOnly [.net] s t := by
  refine ⟨replyOutcome h o (takeMessage h s), ?_, outcomed (canAnswer_of_ready hr.1) o⟩
  rw [exec_fwUpdate hr, if_pos hk, fwUpdateOp_eq, show updateOutcome (takeMessage h s) cls = o from ho, if_pos h0]

theorem updateOutcome_of_staged {s : State} {cls : Nat} (h1 : (fwOf s cls).staged = true) (h2 : (spareImg (fwOf s cls)).valid = true) :
    updateOutcome s cls = if s.sec.upd.isSome || s.hist.draining || s.hist.inRepl || holding s
      || !schemaOk (activeImg (fwOf s cls)) (spareImg (fwOf s cls)) || decide ((spareImg (fwOf s cls)).svn < (fwOf s cls).floor) then 6 else 0 := by
  rw [updateOutcome, if_neg (by simp [h1, h2])]

theorem fwUpdate_spec {s : State} {h : Hdr} (hr : cmdRuns s .operator_ h) {cls : Nat} (hk : fwClassOk cls = true) (ho : updateOutcome s cls = 0) :
    ∃ t, exec (.fwUpdate h cls) s = .next t ∧ changesOnly [.net, .sec] s t ∧ (sesOf t h.ses).queue = (sesOf s h.ses).queue ∧ t.sec.fw = s.sec.fw ∧
      t.sec.upd = some { cls := cls, h := h, us := s.clk.us, step := s.sch.stepNo } ∧
      t.sec.updNow = ((cls == 2 || cls == 4) && s.sch.cur.isSome) := by
  refine ⟨updBegun h cls s.clk.us (leaveOut h (takeMessage h s)), ?_,
    co_set_sec _ (by decide) (co_leaveOut _ _ (by decide) (co_modSes _ _ _ (by decide) (co_refl _ s))), ?_, rfl, rfl, rfl⟩
  · rw [exec_fwUpdate hr, if_pos hk, fwUpdateOp_eq, show updateOutcome (takeMessage h s) cls = 0 from ho, if_neg (by decide)]
    rfl
  · have hq : (sesOf (updBegun h cls s.clk.us (leaveOut h (takeMessage h s))) h.ses).queue = (sesOf (leaveOut h (takeMessage h s)) h.ses).queue := rfl
    rw [hq, queue_leaveOut, queue_takeMessage]

/-- The floor of a class is that of its active image, where that is higher. -/
def floorRaised (c : FwCls) : FwCls := { c with floor := max c.floor (activeImg c).svn }

theorem exec_fwFloor {s : State} {h : Hdr} (hr : cmdRuns s .operator_ h) (cls : Nat) : exec (.fwFloor h cls) s =
    .next (if fwClassOk cls then replyOutcome h 0 (modFw cls floorRaised (takeMessage h s)) else reply h 8 (takeMessage h s)) :=
  hostCmd_of_runs hr rfl _

theorem fwFloor_spec {s : State} {h : Hdr} (hr : cmdRuns s .operator_ h) {cls : Nat} (hk : fwClassOk cls = true) :
    ∃ t, exec (.fwFloor h cls) s = .next t ∧ outcomeIs s t h 0 ∧ changesOnly [.net, .sec] s t ∧
      (fwOf t cls).floor = max (fwOf s cls).floor (activeImg (fwOf s cls)).svn := by
  refine ⟨replyOutcome h 0 (modFw cls floorRaised (takeMessage h s)), by rw [exec_fwFloor hr, if_pos hk],
    outcomed_after (canAnswer_of_ready hr.1) (.modFw ..) 0,
    co_replyOutcome _ _ _ (by decide) (co_modFw _ _ _ (by decide) (co_modSes _ _ _ (by decide) (co_refl _ s))), ?_⟩
  rw [fwOf_replyOutcome, fwOf_modFw_same]
  rfl

/-! ## FW_ACTIVATE -/

theorem exec_fwActivate {s : State} {h : Hdr} (hr : opRuns s h) (cls : Nat) : exec (.fwActivate h cls) s =
    .next (if fwClassOk cls then fwActivateOp h cls (takeMessage h s) else reply h 8 (takeMessage h s)) :=
  hostCmdSafe_of_opRuns hr (mayClass_of_opRuns hr) rfl _

/-- A class with its spare image active. -/
def slotSwapped (c : FwCls) : FwCls := { c with actB := !c.actB, staged := false }

theorem activeImg_slotSwapped (c : FwCls) : activeImg (slotSwapped c) = spareImg c := by
  unfold activeImg spareImg slotSwapped
  cases hb : c.actB <;> simp [hb]

theorem fwActivateOp_eq (h : Hdr) (cls : Nat) (s : State) : fwActivateOp h cls s =
    if !s.sec.safe then replyOutcome h 6 s
    else if !(spareImg (fwOf s cls)).valid then replyOutcome h 5 s
    else if (spareImg (fwOf s cls)).svn < (fwOf s cls).floor then replyOutcome h 2 s
    else replyOutcome h 0 (modFw cls slotSwapped s) := rfl

theorem exec_fwActivate_safe {s : State} {h : Hdr} (hr : opRuns s h) {cls : Nat} (hk : fwClassOk cls = true) (hs : s.sec.safe = true) :
    exec (.fwActivate h cls) s = .next (if !(spareImg (fwOf s cls)).valid then replyOutcome h 5 (takeMessage h s)
      else if (spareImg (fwOf s cls)).svn < (fwOf s cls).floor then replyOutcome h 2 (takeMessage h s)
      else replyOutcome h 0 (modFw cls slotSwapped (takeMessage h s))) := by
  rw [exec_fwActivate hr, if_pos hk, fwActivateOp_eq]
  change Host.Outcome.next (if !s.sec.safe then _ else _) = _
  rw [hs]
  rfl

theorem fwActivate_spec {s : State} {h : Hdr} (hr : opRuns s h) {cls : Nat} (hk : fwClassOk cls = true) (hs : s.sec.safe = true)
    (hv : (spareImg (fwOf s cls)).valid = true) (hf : (fwOf s cls).floor ≤ (spareImg (fwOf s cls)).svn) :
    ∃ t, exec (.fwActivate h cls) s = .next t ∧ outcomeIs s t h 0 ∧ activeImg (fwOf t cls) = spareImg (fwOf s cls) ∧
      (fwOf t cls).staged = false ∧ changesOnly [.net, .sec] s t := by
  refine ⟨replyOutcome h 0 (modFw cls slotSwapped (takeMessage h s)), ?_, outcomed_after (canAnswer_of_opRuns hr) (.modFw ..) 0, ?_, ?_,
    co_replyOutcome _ _ _ (by decide) (co_modFw _ _ _ (by decide) (co_modSes _ _ _ (by decide) (co_refl _ s)))⟩
  · rw [exec_fwActivate_safe hr hk hs, if_neg (by simp [hv]), if_neg (by omega)]
  · rw [fwOf_replyOutcome, fwOf_modFw_same, activeImg_slotSwapped]
    rfl
  · rw [fwOf_replyOutcome, fwOf_modFw_same]
    rfl

end Sys2Proof.Machine
end

section
/-! The end of a live update and the firmware watchdogs (R453, R455, R458, R459), and the statement on firmware updates. -/

namespace Sys2Proof.Machine

/-! ## FW_PROVISIONAL_END -/

/-- A class whose new image has been acknowledged. -/
def acknowledged (m : Img) (c : FwCls) : FwCls :=
  { c with actB := !c.actB, staged := false, floor := if m.raise_ then max c.floor m.svn else c.floor }

/-- No update runs any more. -/
def updOver (s : State) : State := { s with sec := { s.sec with upd := none } }

/-- An update that ends with its new image. -/
def updAcked (u : FwUpd) (s : State) : State := updOver (modFw u.cls (acknowledged (spareImg (fwOf s u.cls))) s)

/-- The end of the provisional period, by the update that runs. -/
def provisional (s : State) : Option FwUpd → State
  | some u =>
    if s.sec.updNow || decide (s.clk.us < u.us + 400000) || s.pwr.warnPin || s.pwr.intWarn then s
    else replyOutcomeLate u.h 0 (fire 24 0 0 0 u.cls (updAcked u s))
  | none => s

theorem exec_fwProvisionalEnd (s : State) : exec .fwProvisionalEnd s = .next (provisional s s.sec.upd) := by
  change Host.Outcome.next (provisionalEnd s) = _
  rw [provisionalEnd]
  cases s.sec.upd <;> rfl

theorem sec_updAcked (u : FwUpd) (s : State) : (updAcked u s).sec =
    { (modFw u.cls (acknowledged (spareImg (fwOf s u.cls))) s).sec with upd := none } := rfl

theorem net_updAcked (u : FwUpd) (s : State) : (updAcked u s).net = s.net := rfl

theorem fwOf_updAcked (u : FwUpd) (s : State) : fwOf (updAcked u s) u.cls = acknowledged (spareImg (fwOf s u.cls)) (fwOf s u.cls) := by
  have h : fwOf (updAcked u s) u.cls = fwOf (modFw u.cls (acknowledged (spareImg (fwOf s u.cls))) s) u.cls := rfl
  rw [h, fwOf_modFw_same]

theorem activeImg_acknowledged (m : Img) (c : FwCls) : activeImg (acknowledged m c) = spareImg c := by
  unfold activeImg spareImg acknowledged
  cases hb : c.actB <;> simp [hb]

theorem provisional_spec (u : FwUpd) (s : State) : (replyOutcomeLate u.h 0 (fire 24 0 0 0 u.cls (updAcked u s))).sec.upd = none ∧
    activeImg (fwOf (replyOutcomeLate u.h 0 (fire 24 0 0 0 u.cls (updAcked u s))) u.cls) = spareImg (fwOf s u.cls) ∧
    (fwOf (replyOutcomeLate u.h 0 (fire 24 0 0 0 u.cls (updAcked u s))) u.cls).staged = false ∧
    (fwOf (replyOutcomeLate u.h 0 (fire 24 0 0 0 u.cls (updAcked u s))) u.cls).floor =
      (if (spareImg (fwOf s u.cls)).raise_ then max (fwOf s u.cls).floor (spareImg (fwOf s u.cls)).svn else (fwOf s u.cls).floor) ∧
    (canAnswer s u.h → outcomeIs s (replyOutcomeLate u.h 0 (fire 24 0 0 0 u.cls (updAcked u s))) u.h 0) := by
  have hsec : (replyOutcomeLate u.h 0 (fire 24 0 0 0 u.cls (updAcked u s))).sec = (updAcked u s).sec := by rw [sec_replyOutcomeLate, sec_fire]
  have hfw := fwOf_of_sec (congrArg SecSt.fw hsec) u.cls
  have hj : msgsJoin s (fire 24 0 0 0 u.cls (updAcked u s)) := msgsJoin.of_net (by rw [net_fire, net_updAcked])
  rw [hsec, hfw, fwOf_updAcked, activeImg_acknowledged]
  exact ⟨by rw [sec_updAcked], rfl, rfl, rfl, fun hc => answered_before (outcomeIs_replyOutcomeLate (canAnswer_join hc hj) 0) hj⟩

/-! ## FW_REVERT -/

/-- No update runs, nor waits for a step. -/
def updGone (s : State) : State := { s with sec := { s.sec with upd := none, updNow := false } }

/-- The step in flight abandoned, where the class of the update runs in steps. -/
def revertCut (u : FwUpd) (s : State) : State := if (u.cls = 2 ∨ u.cls = 4) ∧ !s.sec.updNow then sendAbandon false s else s

theorem updRevert_of_some {s : State} {u : FwUpd} (hu : s.sec.upd = some u) :
    updRevert s = replyLate u.h 8 0 u.h.handle (leBytes 4 4) (fire 24 0 0 4 u.cls (updGone (revertCut u s))) := by
  rw [updRevert, hu]
  rfl

theorem co_revertCut (u : FwUpd) (s : State) : changesOnly [.seq, .sch, .cnv, .hist] s (revertCut u s) := by
  unfold revertCut
  split
  · exact co_sendAbandon _ s (by decide) (co_refl _ s)
  · exact co_refl _ s

theorem updGone_sec (s : State) : (updGone s).sec.upd = none ∧ (updGone s).sec.fw = s.sec.fw ∧ (updGone s).net = s.net := ⟨rfl, rfl, rfl⟩

/-- An update that is reverted leaves the images as they were, and its command is answered with outcome 4. -/
theorem updRevert_spec {s : State} {u : FwUpd} (hu : s.sec.upd = some u) : (updRevert s).sec.upd = none ∧ (updRevert s).sec.fw = s.sec.fw ∧
    (canAnswer s u.h → outcomeIs s (updRevert s) u.h 4) := by
  obtain ⟨g1, g2, g3⟩ := updGone_sec (revertCut u s)
  have hcut := co_revertCut u s
  have hj : msgsJoin s (fire 24 0 0 4 u.cls (updGone (revertCut u s))) :=
    msgsJoin.of_net (by rw [net_fire, g3, net_of_changesOnly hcut (by decide)])
  have hsec : (updRevert s).sec = (updGone (revertCut u s)).sec := by
    rw [updRevert_of_some hu, sec_of_changesOnly (co_replyLate (L := [.net]) _ _ _ _ _ _ (by decide) (co_refl _ _)) (by decide), sec_fire]
  refine ⟨by rw [hsec, g1], by rw [hsec, g2, sec_of_changesOnly hcut (by decide)], fun hc => ?_⟩
  rw [updRevert_of_some hu]
  exact answered_before (outcomeIs_replyOutcomeLate (canAnswer_join hc hj) 4) hj

theorem exec_fwRevert (s : State) : exec .fwRevert s =
    .next (if s.sec.upd.any (fun u => decide (u.us + 500000 ≤ s.clk.us)) && !s.sec.updNow then updRevert s else s) := rfl

/-! ## FIRMWARE_WATCHDOG -/

/-- A first expiry of a processor's watchdog noted. -/
def fwNoted (key : Nat) (s : State) : State :=
  { s with sec := { s.sec with fwSeen := s.sec.fwSeen.filter (·.1 != key) ++ [(key, s.clk.hours)] } }

/-- The key of a firmware processor. -/
def fwKey (cls unit : Nat) : Nat := cls * 2 ^ 32 + unit

theorem exec_firmwareWatchdog {cls unit : Nat} (hu : fwUnitOk cls unit = true) (s : State) : exec (.firmwareWatchdog cls unit) s =
    .next (if s.sec.upd.any (fun u => u.cls == cls) && !s.sec.updNow then updRevert s
      else if s.sec.fwSeen.any (fun e => e.1 == fwKey cls unit && decide (s.clk.hours ≤ e.2 + 36000000)) then
        nonfence (fwUnit cls unit).1 (fwUnit cls unit).2 10 (fire 24 (fwUnit cls unit).1 (fwUnit cls unit).2 9 cls s)
      else sendAbandon false (fwNoted (fwKey cls unit) (fire 24 (fwUnit cls unit).1 (fwUnit cls unit).2 9 cls s))) := by
  have hsec := sec_fire 24 (fwUnit cls unit).1 (fwUnit cls unit).2 9 cls s
  have he : exec (.firmwareWatchdog cls unit) s = okIf (fwUnitOk cls unit) (fwWatchdog cls unit s) := rfl
  rw [he, hu, fwWatchdog]
  dsimp only
  rw [hsec, clk_fire]
  rw [fwNoted, hsec, clk_fire]
  rfl

theorem fwUnit_level (cls unit : Nat) : (fwUnit cls unit).2 < 2 := by
  unfold fwUnit
  split
  · exact Nat.one_lt_two
  · split <;> exact Nat.two_pos

theorem hist_fire (t unit level code detail : Nat) (s : State) : (fire t unit level code detail s).hist = s.hist :=
  hist_of_changesOnly (L := [.evr]) (co_fire _ _ _ _ _ s (by decide) (co_refl _ s)) (by decide)

/-- The fault history apart from its audit samples. -/
theorem hist_sendAbandon_audit (again : Bool) (s : State) : (sendAbandon again s).hist = { s.hist with audit := (sendAbandon again s).hist.audit } := by
  unfold sendAbandon
  split
  · rw [seqs_schedToAll]
    rfl
  · rfl

theorem sec_sendAbandon (again : Bool) (s : State) : (sendAbandon again s).sec = s.sec :=
  sec_of_changesOnly (co_sendAbandon (L := [.seq, .sch, .cnv, .hist]) again s (by decide) (co_refl _ s)) (by decide)

theorem fwNoted_parts (key : Nat) (s : State) : (key, s.clk.hours) ∈ (fwNoted key s).sec.fwSeen ∧ (fwNoted key s).hist = s.hist ∧
    (fwNoted key s).sch = s.sch := ⟨List.mem_append_right _ (List.mem_singleton.2 rfl), rfl, rfl⟩

/-- A first expiry is noted, and abandons the step in flight. -/
theorem watchdog_first {cls unit : Nat} (s : State) :
    (fwKey cls unit, s.clk.hours) ∈ (sendAbandon false (fwNoted (fwKey cls unit) (fire 24 (fwUnit cls unit).1 (fwUnit cls unit).2 9 cls s))).sec.fwSeen ∧
    (sendAbandon false (fwNoted (fwKey cls unit) (fire 24 (fwUnit cls unit).1 (fwUnit cls unit).2 9 cls s))).hist = { s.hist with audit :=
      (sendAbandon false (fwNoted (fwKey cls unit) (fire 24 (fwUnit cls unit).1 (fwUnit cls unit).2 9 cls s))).hist.audit } ∧
    ∀ c, s.sch.cur = some c →
      ∃ c', (sendAbandon false (fwNoted (fwKey cls unit) (fire 24 (fwUnit cls unit).1 (fwUnit cls unit).2 9 cls s))).sch.cur = some c' ∧
        c'.abandoning = true ∧ c'.att = c.att + 1 ∧ c'.redo = false := by
  obtain ⟨n1, n2, n3⟩ := fwNoted_parts (fwKey cls unit) (fire 24 (fwUnit cls unit).1 (fwUnit cls unit).2 9 cls s)
  rw [clk_fire] at n1
  refine ⟨by rw [sec_sendAbandon]; exact n1, ?_, fun c hc => ⟨abandoned false c, cur_sendAbandon ?_ false, rfl, rfl, rfl⟩⟩
  · have hh := hist_sendAbandon_audit false (fwNoted (fwKey cls unit) (fire 24 (fwUnit cls unit).1 (fwUnit cls unit).2 9 cls s))
    rw [n2, hist_fire] at hh
    exact hh
  · rw [n3, fire_sch]
    exact hc

/-- Settles O50: an image is staged, made active or given up by its first reason, and a processor that hangs twice drains the module. -/
theorem firmwareUpdates : Obligations.FirmwareUpdates := by
  intro h cls s
  refine ⟨fun hk => ⟨fun hr c hm => ?_, fun hr => ⟨?_, fun imgCls svn raise rlo rhi wr meas hs hm hu => ?_⟩⟩, fun h1 h4 => ?_⟩
  · refine ⟨reply h 8 (takeMessage h s), ?_, replied (canAnswer_of_ready hr.1) 8⟩
    simp only [List.mem_cons, List.not_mem_nil, or_false] at hm
    rcases hm with rfl | rfl
    · rw [exec_fwUpdate hr, hk, if_neg (by decide)]
    · rw [exec_fwFloor hr, hk, if_neg (by decide)]
  · exact ⟨reply h 8 (takeMessage h s), by rw [exec_fwActivate hr, hk, if_neg (by decide)], replied (canAnswer_of_opRuns hr) 8⟩
  · refine fwStage_refused hr hs hm raise rlo rhi wr ?_ (by decide) (by decide)
    rw [stageFwOutcome, if_neg (by simp [upd_any_false hu]), if_neg (by decide), if_pos (.inr (by simp [hk]))]
  have hk : fwClassOk cls = true := by simp [fwClassOk, h1, h4]
  refine ⟨fun imgCls svn sigOk raise rlo rhi wr meas hr hs hm => ⟨fun hu => ?_, fun hu => ⟨fun hsig => ?_, fun hsig hi => ?_, fun hsig hi hf => ?_, fun hsig hi hf => ?_⟩⟩,
    fun hr => ⟨fun hno => ?_, fun hst hv => ⟨fun hbad => ?_, fun a1 a2 a3 a4 a5 a6 => ?_⟩, fwFloor_spec hr hk⟩, fun hr hs => ?_,
    fun hr hs => ⟨fun hv => ?_, fun hv hf => ?_, fun hv hf => fwActivate_spec hr hk hs hv hf⟩,
    fun u hu hn => ⟨fun hw => ?_, fun hle hw => ?_, fun hlt => ?_, fun hle => ?_⟩, fun hu => ⟨?_, ?_⟩,
    fun unit hok => ⟨fun hu hn => ?_, fun hu => ⟨fun hfirst => ?_, fun hagain => ?_⟩⟩⟩
  · refine fwStage_refused hr hs hm raise rlo rhi wr ?_ (by decide) (by decide)
    rw [stageFwOutcome, if_pos (upd_any_iff.2 hu)]
  · subst hsig
    exact fwStage_badSig hr hs hm raise rlo rhi wr hu
  · refine fwStage_refused hr hs hm raise rlo rhi wr ?_ (by decide) (by decide)
    rw [stageFwOutcome, if_neg (by simp [upd_any_false hu]), if_neg (by simp [hsig]), if_pos (.inl hi)]
  · refine fwStage_refused hr hs hm raise rlo rhi wr ?_ (by decide) (by decide)
    rw [stageFwOutcome, if_neg (by simp [upd_any_false hu]), if_neg (by simp [hsig]), if_neg (by simp [hi, hk]), if_pos hf]
  · subst hsig hi
    refine fwStage_spec hr hs hm raise rlo rhi wr ?_
    rw [stageFwOutcome, if_neg (by simp [upd_any_false hu]), if_neg (by decide), if_neg (by simp [hk]), if_neg (by omega)]
  · refine fwUpdate_refused hr hk ?_ (by decide)
    rw [updateOutcome, if_pos]
    rcases hno with h | h <;> simp [h]
  · refine fwUpdate_refused hr hk ?_ (by decide)
    rw [updateOutcome_of_staged hst hv, if_pos]
    rcases hbad with h | h | h | h | h | h
    · simp [Option.isSome_iff_ne_none.2 h]
    all_goals simp [h]
  · refine fwUpdate_spec hr hk ?_
    rw [updateOutcome_of_staged hst hv, if_neg]
    simp [a1, a2, a3, a4, a5, a6]
  · refine ⟨replyOutcome h 6 (takeMessage h s), ?_, outcomed (canAnswer_of_opRuns hr) 6⟩
    rw [exec_fwActivate hr, if_pos hk, fwActivateOp_eq]
    change Host.Outcome.next (if !s.sec.safe then _ else _) = _
    rw [hs]
    rfl
  · refine ⟨replyOutcome h 5 (takeMessage h s), ?_, outcomed (canAnswer_of_opRuns hr) 5⟩
    rw [exec_fwActivate_safe hr hk hs, if_pos (by simp [hv])]
  · refine ⟨replyOutcome h 2 (takeMessage h s), ?_, outcomed (canAnswer_of_opRuns hr) 2⟩
    rw [exec_fwActivate_safe hr hk hs, if_neg (by simp [hv]), if_pos hf]
  · rw [exec_fwProvisionalEnd, hu, provisional, if_pos]
    rcases hw with h | h
    · simp [h]
    · simp only [warned, Bool.or_eq_true] at h
      rcases h with h | h <;> simp [h]
  · simp only [warned, Bool.or_eq_false_iff] at hw
    exact ⟨_, by rw [exec_fwProvisionalEnd, hu, provisional, if_neg (by simp [hn, hw.1, hw.2, hle])], provisional_spec u s⟩
  · rw [exec_fwRevert, hu, if_neg]
    simp only [Option.any_some, Bool.and_eq_true, decide_eq_true_eq]
    omega
  · exact ⟨updRevert s, by rw [exec_fwRevert, hu, if_pos (by simp [hn, hle])], updRevert_spec hu⟩
  · rw [exec_fwProvisionalEnd, hu]
    rfl
  · rw [exec_fwRevert, hu]
    rfl
  · obtain ⟨u, hu1, hu2⟩ := hu
    obtain ⟨r1, r2, -⟩ := updRevert_spec hu1
    exact ⟨updRevert s, by rw [exec_firmwareWatchdog hok, if_pos (by simp [hu1, hu2, hn])], r1, r2⟩
  · refine ⟨_, ?_, watchdog_first s⟩
    rw [exec_firmwareWatchdog hok, upd_any_false hu, if_neg (by simp), if_neg]
    simp only [List.any_eq_true, Bool.and_eq_true, beq_iff_eq, decide_eq_true_eq, not_exists, not_and, not_le]
    exact fun e he hkey => hfirst e he hkey
  · obtain ⟨e, he, hkey, hle⟩ := hagain
    refine ⟨nonfence (fwUnit cls unit).1 (fwUnit cls unit).2 10 (fire 24 (fwUnit cls unit).1 (fwUnit cls unit).2 9 cls s), ?_,
      drains_nonfence (fwUnit_level cls unit) .., ?_⟩
    · rw [exec_firmwareWatchdog hok, upd_any_false hu, if_neg (by simp), if_pos]
      simp only [List.any_eq_true, Bool.and_eq_true, beq_iff_eq, decide_eq_true_eq]
      exact ⟨e, he, hkey, hle⟩
    · rw [faultsP_nonfence (fwUnit_level cls unit), hist_fire]

end Sys2Proof.Machine
end

section
/-! Owner, keys, the configuration record and attestation (R462 to R467, R471). -/

namespace Sys2Proof.Machine

/-! ## CLAIM -/

theorem exec_claim {s : State} {h : Hdr} (hr : cmdRuns s .claimant h) {key : Nat} (hk : key < 2 ^ 4096) :
    exec (.claim h key) s = .next (claimOp h key (takeMessage h s)) := hostCmd_of_runs hr (decide_eq_true hk) _

/-- The first owner key. -/
def ownerSet (key gen : Nat) (s : State) : State := { s with sec := { s.sec with ownerKey := key, ownerGen := gen } }

/-- The module claimed with its first owner key. -/
def claimedBy (key : Nat) (s : State) : State := { s with sec := { s.sec with claimed := true, ownerKey := key, ownerGen := 1 } }

/-- A session that ends with reason 0 once its messages have been acknowledged. -/
def closing (h : Hdr) (s : State) : State := modSes h.ses (fun e => { e with closeOut := some 0 }) s

theorem claimOp_eq (h : Hdr) (key : Nat) (s : State) : claimOp h key s =
    if s.sec.claimed || roleH s h != 17 then reply h 8 s else closing h (reply h 0 (fire 25 0 0 4 1 (claimedBy key s))) := rfl

theorem sec_reply (h : Hdr) (st : Nat) (s : State) : (reply h st s).sec = s.sec :=
  sec_of_changesOnly (co_reply (L := [.net]) h st s (by decide) (co_refl _ s)) (by decide)

theorem queue_closing (h : Hdr) (s : State) : (sesOf (closing h s) h.ses).queue = (sesOf s h.ses).queue ∧ (sesOf (closing h s) h.ses).closeOut = some 0 := by
  rw [closing, sesOf_modSes_same]
  exact ⟨rfl, rfl⟩

theorem answered_closing {s t : State} {h : Hdr} {st : Nat} {body : List Byte} (ha : answered s t h st body) : answered s (closing h t) h st body := by
  obtain ⟨xs, m, hq, hrest⟩ := ha
  exact ⟨xs, m, (queue_closing h t).1.trans hq, hrest⟩

theorem msgsJoin.fire (t unit level code detail : Nat) (s : State) : msgsJoin s (fire t unit level code detail s) :=
  msgsJoin.of_net (by rw [net_fire])

theorem msgsJoin.set_sec (f : SecSt) (s : State) : msgsJoin s { s with sec := f } := msgsJoin.of_net rfl

theorem claim_spec {s : State} {h : Hdr} (hr : cmdRuns s .claimant h) {key : Nat} (hk : key < 2 ^ 4096) (hc : s.sec.claimed = false) (h17 : roleH s h = 17) :
    ∃ t, exec (.claim h key) s = .next t ∧ answered s t h 0 [] ∧ t.sec.claimed = true ∧ t.sec.ownerKey = key ∧
      t.sec.ownerGen = 1 ∧ (sesOf t h.ses).closeOut = some 0 ∧ changesOnly [.net, .sec, .evr] s t := by
  have hj : msgsJoin (takeMessage h s) (fire 25 0 0 4 1 (claimedBy key (takeMessage h s))) := (msgsJoin.set_sec _ _).trans (.fire ..)
  have hsec : (closing h (reply h 0 (fire 25 0 0 4 1 (claimedBy key (takeMessage h s))))).sec = (claimedBy key (takeMessage h s)).sec := by
    have h1 : ∀ t, (closing h t).sec = t.sec := fun _ => rfl
    rw [h1, sec_reply, sec_fire]
  refine ⟨closing h (reply h 0 (fire 25 0 0 4 1 (claimedBy key (takeMessage h s)))), ?_,
    answered_closing (replied_after (canAnswer_of_ready hr.1) hj 0), by rw [hsec]; rfl, by rw [hsec]; rfl, by rw [hsec]; rfl, (queue_closing ..).2,
    co_modSes _ _ _ (by decide) (co_reply _ _ _ (by decide) (co_fire _ _ _ _ _ _ (by decide) (co_set_sec _ (by decide)
      (co_modSes _ _ _ (by decide) (co_refl _ s)))))⟩
  rw [exec_claim hr hk, claimOp_eq, roleH_takeMessage]
  change Host.Outcome.next (if s.sec.claimed || roleH s h != 17 then _ else _) = _
  rw [if_neg (by simp [hc, h17])]

/-! ## OWNER_ROTATE and KEY_ROTATE -/

theorem exec_ownerRotate {s : State} {h : Hdr} (hr : cmdRuns s .operator_ h) {key : Nat} (hk : key < 2 ^ 4096) (sigOk : Bool) :
    exec (.ownerRotate h key sigOk) s = .next (ownerRotateOp h key sigOk (takeMessage h s)) := hostCmd_of_runs hr (decide_eq_true hk) _

theorem ownerRotateOp_eq (h : Hdr) (key : Nat) (sigOk : Bool) (s : State) : ownerRotateOp h key sigOk s =
    if !sigOk then reply h 8 (badSig s)
    else reply h 0 (fire 25 0 0 5 ((s.sec.ownerGen + 1) % 65536) (ownerSet key (s.sec.ownerGen + 1) s)) := rfl

theorem ownerRotate_spec {s : State} {h : Hdr} (hr : cmdRuns s .operator_ h) {key : Nat} (hk : key < 2 ^ 4096) :
    ∃ t, exec (.ownerRotate h key true) s = .next t ∧ answered s t h 0 [] ∧ t.sec.ownerKey = key ∧ t.sec.ownerGen = s.sec.ownerGen + 1 ∧
      changesOnly [.net, .sec, .evr] s t := by
  have hj : ∀ d g, msgsJoin (takeMessage h s) (fire 25 0 0 5 d (ownerSet key g (takeMessage h s))) := fun d g => (msgsJoin.set_sec _ _).trans (.fire ..)
  refine ⟨_, by rw [exec_ownerRotate hr hk, ownerRotateOp_eq, if_neg (by decide)], replied_after (canAnswer_of_ready hr.1) (hj _ _) 0, ?_, ?_,
    co_reply _ _ _ (by decide) (co_fire _ _ _ _ _ _ (by decide) (co_set_sec _ (by decide) (co_modSes _ _ _ (by decide) (co_refl _ s))))⟩
  · rw [sec_reply, sec_fire]
    rfl
  · rw [sec_reply, sec_fire]
    rfl

/-- A refused signature is answered and counted, and changes nothing of the owner. -/
theorem badSig_spec {s : State} {h : Hdr} (hc : canAnswer s h) (st : Nat) : answered s (reply h st (badSig (takeMessage h s))) h st [] ∧
    (reply h st (badSig (takeMessage h s))).sec = { s.sec with sigFail := satAdd 32 s.sec.sigFail 1 } :=
  ⟨replied_after hc (.badSig _) st, by rw [sec_reply, sec_badSig]; rfl⟩

theorem exec_keyRotate {s : State} {h : Hdr} (hr : cmdRuns s .operator_ h) :
    exec (.keyRotate h) s = .next (keyRotateOp h (takeMessage h s)) := hostCmd_of_runs hr rfl _

/-- The next scramble key. -/
def scrambleNext (s : State) : State := { s with sec := { s.sec with scrGen := s.sec.scrGen + 1 } }

theorem keyRotateOp_eq (h : Hdr) (s : State) : keyRotateOp h s =
    if anyResident s then reply h 8 s else reply h 0 (fire 25 0 0 6 (s.sec.ownerGen % 65536) (scrambleNext s)) := rfl

theorem anyResident_takeMessage (h : Hdr) (s : State) : anyResident (takeMessage h s) = anyResident s := rfl

theorem keyRotate_spec {s : State} {h : Hdr} (hr : cmdRuns s .operator_ h) (hn : anyResident s = false) :
    ∃ t, exec (.keyRotate h) s = .next t ∧ answered s t h 0 [] ∧ t.sec.scrGen = s.sec.scrGen + 1 ∧ changesOnly [.net, .sec, .evr] s t := by
  have hj : ∀ d, msgsJoin (takeMessage h s) (fire 25 0 0 6 d (scrambleNext (takeMessage h s))) := fun d => (msgsJoin.set_sec _ _).trans (.fire ..)
  refine ⟨_, by rw [exec_keyRotate hr, keyRotateOp_eq, anyResident_takeMessage, hn, if_neg (by decide)],
    replied_after (canAnswer_of_ready hr.1) (hj _) 0, ?_,
    co_reply _ _ _ (by decide) (co_fire _ _ _ _ _ _ (by decide) (co_set_sec _ (by decide) (co_modSes _ _ _ (by decide) (co_refl _ s))))⟩
  rw [sec_reply, sec_fire]
  rfl

/-! ## RELEASE -/

/-- What keeps a module from being released. -/
def releaseBusy (s : State) : Bool := anyLoad s || anyErase s || s.hist.draining || s.hist.inRepl || holding s || !(enabledPtns s).isEmpty

/-- Every canvas out of service. -/
def canvasesOut (s : State) : State := (List.range 4).foldl (fun t d => modCnv d (fun x => { x with st := 0 }) t) s

/-- The erase of a release begun. -/
def releaseBegun (h : Hdr) (s : State) : State := { canvasesOut s with sec := { (canvasesOut s).sec with relErase := some h } }

theorem releaseOp_eq (h : Hdr) (sigOk : Bool) (s : State) : releaseOp h sigOk s =
    if !s.sec.recovery && roleH s h != 16 then reply h 8 s
    else if !s.sec.recovery && !sigOk then reply h 8 (badSig s)
    else if releaseBusy s then reply h 8 s
    else releaseBegun h (leaveOut h s) := rfl

theorem releaseBusy_takeMessage (h : Hdr) (s : State) : releaseBusy (takeMessage h s) = releaseBusy s := rfl

theorem role_of_operator {s : State} {h : Hdr} (hr : cmdRuns s .operator_ h) : roleH s h = 16 := by
  obtain ⟨⟨-, -, -, -, hm, -⟩, -⟩ := hr
  simpa [mayClass] using hm

theorem exec_release {s : State} {h : Hdr} (hr : cmdRuns s .operator_ h) (hrec : s.sec.recovery = false) (sigOk : Bool) :
    exec (.release h sigOk) s = .next (if !sigOk then reply h 8 (badSig (takeMessage h s)) else if releaseBusy s then reply h 8 (takeMessage h s)
      else releaseBegun h (leaveOut h (takeMessage h s))) := by
  have h16 := role_of_operator hr
  obtain ⟨⟨hh, hl, -, ho, -, hs, hc⟩, hp⟩ := hr
  have he : exec (.release h sigOk) s = okIf (hdrOk h) (hostBody .any h none false s.sec.recovery (releaseOp h sigOk) s) := rfl
  rw [he, hh, hostBody_of_open hl ho rfl hc (.inr hp) (.inl hs), releaseOp_eq, roleH_takeMessage, releaseBusy_takeMessage, h16]
  change Host.Outcome.next (if !s.sec.recovery && _ then _ else if !s.sec.recovery && !sigOk then _ else _) = _
  rw [hrec]
  cases sigOk <;> rfl

theorem cnvOf_canvasesOut (s : State) {c : Nat} (hc : c < 4) : (cnvOf (canvasesOut s) c).st = 0 := by
  have hk : ∀ (l : List Nat) (t : State), c ∈ l ∨ (cnvOf t c).st = 0 →
      (cnvOf (l.foldl (fun t d => modCnv d (fun x => { x with st := 0 }) t) t) c).st = 0 := by
    intro l
    induction l with
    | nil => exact fun t ht => ht.resolve_left List.not_mem_nil
    | cons d l ih =>
      refine fun t ht => ih _ ?_
      by_cases hd : c = d
      · subst hd
        exact .inr (by rw [cnvOf_modCnv_same])
      · rcases ht with ht | ht
        · exact .inl ((List.mem_cons.1 ht).resolve_left hd)
        · exact .inr (by rw [cnvOf_modCnv_ne _ _ _ _ hd]; exact ht)
  exact hk _ s (.inl (List.mem_range.2 hc))

theorem co_canvasesOut {L : List Part} {s0 : State} (s : State) (hs : sub [.cnv] L = true) (hw : changesOnly L s0 s) : changesOnly L s0 (canvasesOut s) :=
  co_foldl _ (fun t d ht => co_modCnv _ _ t hs ht) _ s hw

theorem parts_releaseBegun (h : Hdr) (s : State) : (releaseBegun h s).sec.relErase = some h ∧ (releaseBegun h s).net = (canvasesOut s).net ∧
    ∀ c, cnvOf (releaseBegun h s) c = cnvOf (canvasesOut s) c := ⟨rfl, rfl, fun _ => rfl⟩

theorem release_spec {s : State} {h : Hdr} (hr : cmdRuns s .operator_ h) (hrec : s.sec.recovery = false) (hb : releaseBusy s = false) :
    ∃ t, exec (.release h true) s = .next t ∧ t.sec.relErase = some h ∧ (∀ c, c < 4 → (cnvOf t c).st = 0) ∧
      (sesOf t h.ses).queue = (sesOf s h.ses).queue ∧ changesOnly [.cnv, .net, .sec] s t := by
  obtain ⟨p1, p2, p3⟩ := parts_releaseBegun h (leaveOut h (takeMessage h s))
  have hnet : (canvasesOut (leaveOut h (takeMessage h s))).net = (leaveOut h (takeMessage h s)).net :=
    net_of_changesOnly (co_canvasesOut (L := [.cnv]) _ (by decide) (co_refl _ _)) (by decide)
  refine ⟨releaseBegun h (leaveOut h (takeMessage h s)), ?_, p1, fun c hc => by rw [p3, cnvOf_canvasesOut _ hc], ?_,
    co_set_sec _ (by decide) (co_canvasesOut _ (by decide) (co_leaveOut _ _ (by decide) (co_modSes _ _ _ (by decide) (co_refl _ s))))⟩
  · rw [exec_release hr hrec, hb, if_neg (by decide), if_neg (by decide)]
  · rw [sesOf, p2, hnet, ← sesOf, queue_leaveOut, queue_takeMessage]

/-! ## The configuration record -/

theorem exec_cfgWrite {s : State} {h : Hdr} (hr : cmdRuns s .operator_ h) {svn : Nat} (hs : svn < 65536) (sigOk : Bool) (own : List Nat) :
    exec (.cfgWrite h sigOk svn own) s = .next (cfgWriteOp h sigOk svn own (takeMessage h s)) := hostCmd_of_runs hr (decide_eq_true hs) _

/-- The new copy of the configuration record. -/
def newCopy (own : List Nat) (s : State) : CfgCopy := { ok := true, seq := max s.sec.cfgA.seq s.sec.cfgB.seq + 1, own := own }

/-- The copy of the lower sequence number written. -/
def copyWritten (own : List Nat) (s : State) : State :=
  { s with sec := if s.sec.cfgA.seq ≤ s.sec.cfgB.seq then { s.sec with cfgA := newCopy own s } else { s.sec with cfgB := newCopy own s } }

theorem cfgWriteOp_eq (h : Hdr) (sigOk : Bool) (svn : Nat) (own : List Nat) (s : State) : cfgWriteOp h sigOk svn own s =
    if s.hist.draining || s.hist.inRepl then replyOutcome h 6 s
    else if !sigOk then replyOutcome h 1 (badSig s)
    else if svn < s.sec.cfgFloor then replyOutcome h 2 s
    else replyOutcome h 0 (copyWritten own s) := rfl

theorem exec_cfgWrite_open {s : State} {h : Hdr} (hr : cmdRuns s .operator_ h) {svn : Nat} (hs : svn < 65536) (sigOk : Bool) (own : List Nat)
    (hd : s.hist.draining = false) (hi : s.hist.inRepl = false) : exec (.cfgWrite h sigOk svn own) s =
      .next (if !sigOk then replyOutcome h 1 (badSig (takeMessage h s)) else if svn < s.sec.cfgFloor then replyOutcome h 2 (takeMessage h s)
        else replyOutcome h 0 (copyWritten own (takeMessage h s))) := by
  rw [exec_cfgWrite hr hs, cfgWriteOp_eq]
  change Host.Outcome.next (if s.hist.draining || s.hist.inRepl then _ else _) = _
  rw [hd, hi]
  rfl

theorem copyWritten_low {own : List Nat} {s : State} (h : s.sec.cfgA.seq ≤ s.sec.cfgB.seq) :
    (copyWritten own s).sec.cfgA = newCopy own s ∧ (copyWritten own s).sec.cfgB = s.sec.cfgB := by
  rw [copyWritten, if_pos h]
  exact ⟨rfl, rfl⟩

theorem copyWritten_high {own : List Nat} {s : State} (h : s.sec.cfgB.seq < s.sec.cfgA.seq) :
    (copyWritten own s).sec.cfgA = s.sec.cfgA ∧ (copyWritten own s).sec.cfgB = newCopy own s := by
  rw [copyWritten, if_neg (by omega)]
  exact ⟨rfl, rfl⟩

theorem cfgWrite_spec {s : State} {h : Hdr} (hr : cmdRuns s .operator_ h) {svn : Nat} (hs : svn < 65536) (own : List Nat)
    (hd : s.hist.draining = false) (hi : s.hist.inRepl = false) (hf : s.sec.cfgFloor ≤ svn) :
    ∃ t, exec (.cfgWrite h true svn own) s = .next t ∧ outcomeIs s t h 0 ∧ changesOnly [.net, .sec] s t ∧
      (s.sec.cfgA.seq ≤ s.sec.cfgB.seq → t.sec.cfgA = newCopy own s ∧ t.sec.cfgB = s.sec.cfgB) ∧
      (s.sec.cfgB.seq < s.sec.cfgA.seq → t.sec.cfgA = s.sec.cfgA ∧ t.sec.cfgB = newCopy own s) := by
  refine ⟨replyOutcome h 0 (copyWritten own (takeMessage h s)), ?_, outcomed_after (canAnswer_of_ready hr.1) (.set_sec _ _) 0,
    co_replyOutcome _ _ _ (by decide) (co_set_sec _ (by decide) (co_modSes _ _ _ (by decide) (co_refl _ s))), ?_, ?_⟩
  · rw [exec_cfgWrite_open hr hs true own hd hi, if_neg (by decide), if_neg (by omega)]
  · rw [sec_replyOutcome]
    exact copyWritten_low (s := takeMessage h s)
  · rw [sec_replyOutcome]
    exact copyWritten_high (s := takeMessage h s)

theorem exec_cfgResolve {s : State} {h : Hdr} (hr : opRuns s h) {copy : Nat} (hc : copy < 2) (copyOk : Bool) :
    exec (.cfgResolve h copy copyOk) s = .next (cfgResolveOp h copy copyOk (takeMessage h s)) :=
  hostCmdSafe_of_opRuns hr (mayClass_of_opRuns hr) (decide_eq_true hc) _

/-- One copy written over the other. -/
def copyChosen (copy : Nat) (s : State) : State :=
  { s with sec := { (if copy = 0 then { s.sec with cfgB := s.sec.cfgA } else { s.sec with cfgA := s.sec.cfgB }) with resolve := some s.clk.us } }

theorem cfgResolveOp_eq (h : Hdr) (copy : Nat) (copyOk : Bool) (s : State) : cfgResolveOp h copy copyOk s =
    if !s.sec.cfgConf then replyOutcome h 6 s else if !copyOk then replyOutcome h 1 s else replyOutcome h 0 (copyChosen copy s) := rfl

theorem exec_cfgResolve_conf {s : State} {h : Hdr} (hr : opRuns s h) {copy : Nat} (hc : copy < 2) (copyOk : Bool) (hconf : s.sec.cfgConf = true) :
    exec (.cfgResolve h copy copyOk) s = .next (if !copyOk then replyOutcome h 1 (takeMessage h s)
      else replyOutcome h 0 (copyChosen copy (takeMessage h s))) := by
  rw [exec_cfgResolve hr hc, cfgResolveOp_eq]
  change Host.Outcome.next (if !s.sec.cfgConf then _ else _) = _
  rw [hconf]
  rfl

theorem copyChosen_spec (copy : Nat) (s : State) : (copyChosen copy s).sec.cfgA = (if copy = 0 then s.sec.cfgA else s.sec.cfgB) ∧
    (copyChosen copy s).sec.cfgB = (copyChosen copy s).sec.cfgA ∧ (copyChosen copy s).sec.resolve = some s.clk.us := by
  unfold copyChosen
  by_cases hc : copy = 0
  · rw [if_pos hc, if_pos hc]
    exact ⟨rfl, rfl, rfl⟩
  · rw [if_neg hc, if_neg hc]
    exact ⟨rfl, rfl, rfl⟩

theorem cfgResolve_spec {s : State} {h : Hdr} (hr : opRuns s h) {copy : Nat} (hc : copy < 2) (hconf : s.sec.cfgConf = true) :
    ∃ t, exec (.cfgResolve h copy true) s = .next t ∧ outcomeIs s t h 0 ∧ changesOnly [.net, .sec] s t ∧
      t.sec.cfgA = (if copy = 0 then s.sec.cfgA else s.sec.cfgB) ∧ t.sec.cfgB = t.sec.cfgA ∧ t.sec.resolve = some s.clk.us := by
  refine ⟨replyOutcome h 0 (copyChosen copy (takeMessage h s)), by rw [exec_cfgResolve_conf hr hc true hconf]; rfl,
    outcomed_after (canAnswer_of_opRuns hr) (.set_sec _ _) 0,
    co_replyOutcome _ _ _ (by decide) (co_set_sec _ (by decide) (co_modSes _ _ _ (by decide) (co_refl _ s))), ?_⟩
  rw [sec_replyOutcome]
  exact copyChosen_spec copy (takeMessage h s)

/-- A resolution by its time. -/
def resolved (s : State) : Option Nat → State
  | some t => if t + 100000 ≤ s.clk.us then toRow 2 (resetModule s) else s
  | none => s

theorem exec_cfgResolveReset (s : State) : exec .cfgResolveReset s = .next (resolved s s.sec.resolve) := by
  change execCfgResolveReset s = _
  rw [execCfgResolveReset]
  cases s.sec.resolve <;> rfl

theorem resolved_spec (s : State) : (toRow 2 (resetModule s)).dev.row = 2 ∧ (toRow 2 (resetModule s)).sec.resolve = none ∧
    (toRow 2 (resetModule s)).sec.cfgA = s.sec.cfgA ∧ (toRow 2 (resetModule s)).sec.cfgB = s.sec.cfgB ∧ (toRow 2 (resetModule s)).sch.cur = none ∧
    (toRow 2 (resetModule s)).net = State.reset.net ∧ (toRow 2 (resetModule s)).pending = s.pending := ⟨rfl, rfl, rfl, rfl, rfl, rfl, rfl⟩

/-! ## ATTEST -/

theorem exec_attest {s : State} {h : Hdr} (hr : opRuns s h) {nonce : Nat} (hn : nonce < 2 ^ 256) :
    exec (.attest h nonce) s = .next (attestOp h nonce (takeMessage h s)) := by
  obtain ⟨hh, hl, -, ho, hrole, hc, hp⟩ := hr
  have he : exec (.attest h nonce) s =
      okIf (hdrOk h && decide (nonce < 2 ^ 256)) (hostBody .any h none false (roleH s h == 16) (attestOp h nonce) s) := rfl
  rw [he, hh, decide_eq_true hn, hostBody_of_open hl ho rfl hc (.inr hp) (.inr (by simp [hrole]))]
  rfl

/-- A report counted, under the next serial. -/
def reportCounted (s : State) : State :=
  { s with sec := { s.sec with serial := (s.sec.serial + 1) % 2 ^ 64, attests := satAdd 32 s.sec.attests 1 } }

theorem attestOp_of_operator {h : Hdr} {s : State} (hr : roleH s h = 16) (nonce : Nat) : attestOp h nonce s =
    replyFull h 0 0 h.handle (reportBody (reportCounted s) nonce none ++ Config.sign 0 (reportBody (reportCounted s) nonce none)) (reportCounted s) := by
  rw [attestOp, hr]
  rfl

/-- A report begins with its version, flags, size, serial and nonce, and the hash of the device certificate. -/
theorem reportBody_head (s : State) (nonce : Nat) :
    leBytes 1 2 ++ leBytes (b2n s.sec.safe + b2n (s.sec.upd.isSome && !s.sec.updNow) * 2 + b2n s.sec.claimed * 8) 1 ++ leBytes 0 1 ++ leBytes 1792 4 ++
      leBytes s.sec.serial 8 ++ leBytes nonce 32 ++ Config.sha512 Config.deviceCert <+: reportBody s nonce none := by
  simp only [reportBody, List.append_assoc]
  exact ⟨_, by simp only [List.append_assoc]; rfl⟩

theorem attest_spec {s : State} {h : Hdr} (hr : opRuns s h) {nonce : Nat} (hn : nonce < 2 ^ 256) :
    ∃ t b, exec (.attest h nonce) s = .next t ∧ answered s t h 0 (b ++ Config.sign 0 b) ∧
      t.sec.serial = (s.sec.serial + 1) % 2 ^ 64 ∧ t.sec.attests = satAdd 32 s.sec.attests 1 ∧ changesOnly [.net, .sec] s t ∧
      leBytes 1 2 ++ leBytes (b2n s.sec.safe + b2n (s.sec.upd.isSome && !s.sec.updNow) * 2 + b2n s.sec.claimed * 8) 1 ++ leBytes 0 1 ++ leBytes 1792 4 ++
        leBytes t.sec.serial 8 ++ leBytes nonce 32 ++ Config.sha512 Config.deviceCert <+: b := by
  obtain ⟨-, -, -, -, hrole, -⟩ := id hr
  have hj : msgsJoin (takeMessage h s) (reportCounted (takeMessage h s)) := .set_sec _ _
  have hsec : ∀ body, (replyFull h 0 0 h.handle body (reportCounted (takeMessage h s))).sec = (reportCounted (takeMessage h s)).sec := fun body =>
    sec_of_changesOnly (co_replyFull (L := [.net]) _ _ _ _ _ _ (by decide) (co_refl _ _)) (by decide)
  refine ⟨_, reportBody (reportCounted (takeMessage h s)) nonce none,
    by rw [exec_attest hr hn, attestOp_of_operator (by rw [roleH_takeMessage, hrole])],
    answered_of_taken (answered_before (answered_replyFull (canAnswer_join (canAnswer_taken (canAnswer_of_opRuns hr)) hj) _ _ _ (List.prefix_refl _)) hj),
    by rw [hsec]; rfl, by rw [hsec]; rfl,
    co_replyFull _ _ _ _ _ _ (by decide) (co_set_sec _ (by decide) (co_modSes _ _ _ (by decide) (co_refl _ s))), ?_⟩
  rw [hsec]
  exact reportBody_head (reportCounted (takeMessage h s)) nonce

/-- Settles O51: each command of the owner has its effect or is refused with its reason, and a report is signed under the next serial. -/
theorem ownershipAndConfiguration : Obligations.OwnershipAndConfiguration := by
  refine fun h s => ⟨fun key hk hr => ⟨fun hno => ?_, fun hc h17 => claim_spec hr hk hc h17⟩,
    fun hr => ⟨fun key hk => ⟨ownerRotate_spec hr hk, ?_⟩, fun ha => ?_, fun ha => keyRotate_spec hr ha,
      fun hrec => ⟨?_, fun hb => ?_, fun hb => release_spec hr hrec hb⟩,
      fun sigOk svn own hs => ⟨fun hd => ?_, fun hd hi => ⟨fun hsig => ?_, fun hsig hf => ?_, fun hsig hf => ?_⟩⟩⟩,
    fun hr copy copyOk hc => ⟨fun hconf => ?_, fun hconf hok => ?_, fun hconf hok => ?_⟩,
    fun hn => ?_, fun u hu => ⟨fun hlt => ?_, fun hle => ⟨_, by rw [exec_cfgResolveReset, hu, resolved, if_pos hle], resolved_spec s⟩⟩,
    fun hr nonce hn => attest_spec hr hn⟩
  · refine ⟨reply h 8 (takeMessage h s), ?_, replied (canAnswer_of_ready hr.1) 8⟩
    rw [exec_claim hr hk, claimOp_eq, roleH_takeMessage]
    change Host.Outcome.next (if s.sec.claimed || roleH s h != 17 then _ else _) = _
    rw [if_pos]
    rcases hno with hno | hno <;> simp [hno]
  · obtain ⟨b1, b2⟩ := badSig_spec (canAnswer_of_ready hr.1) 8
    exact ⟨reply h 8 (badSig (takeMessage h s)), by rw [exec_ownerRotate hr hk, ownerRotateOp_eq, if_pos (by decide)], b1, by rw [b2], by rw [b2], by rw [b2]⟩
  · refine ⟨reply h 8 (takeMessage h s), ?_, replied (canAnswer_of_ready hr.1) 8⟩
    rw [exec_keyRotate hr, keyRotateOp_eq, anyResident_takeMessage, if_pos ha]
  · obtain ⟨b1, b2⟩ := badSig_spec (canAnswer_of_ready hr.1) 8
    exact ⟨reply h 8 (badSig (takeMessage h s)), by rw [exec_release hr hrec, if_pos (by decide)], b1, by rw [b2], by rw [b2]⟩
  · refine ⟨reply h 8 (takeMessage h s), ?_, replied (canAnswer_of_ready hr.1) 8⟩
    rw [exec_release hr hrec, if_neg (by decide), if_pos (show releaseBusy s = true from hb)]
  · refine ⟨replyOutcome h 6 (takeMessage h s), ?_, outcomed (canAnswer_of_ready hr.1) 6⟩
    rw [exec_cfgWrite hr hs, cfgWriteOp_eq]
    change Host.Outcome.next (if s.hist.draining || s.hist.inRepl then _ else _) = _
    rw [if_pos (by simpa using hd)]
  · subst hsig
    refine ⟨replyOutcome h 1 (badSig (takeMessage h s)), by rw [exec_cfgWrite_open hr hs false own hd hi, if_pos (by decide)],
      outcomed_after (canAnswer_of_ready hr.1) (.badSig _) 1, ?_⟩
    rw [sec_replyOutcome, sec_badSig]
    exact ⟨rfl, rfl⟩
  · refine ⟨replyOutcome h 2 (takeMessage h s), ?_, outcomed (canAnswer_of_ready hr.1) 2⟩
    rw [exec_cfgWrite_open hr hs sigOk own hd hi, if_neg (by simp [hsig]), if_pos hf]
  · subst hsig
    exact cfgWrite_spec hr hs own hd hi hf
  · refine ⟨replyOutcome h 6 (takeMessage h s), ?_, outcomed (canAnswer_of_opRuns hr) 6⟩
    rw [exec_cfgResolve hr hc, cfgResolveOp_eq]
    change Host.Outcome.next (if !s.sec.cfgConf then _ else _) = _
    rw [hconf]
    rfl
  · refine ⟨replyOutcome h 1 (takeMessage h s), ?_, outcomed (canAnswer_of_opRuns hr) 1⟩
    rw [exec_cfgResolve_conf hr hc copyOk hconf, if_pos (by simp [hok])]
  · subst hok
    exact cfgResolve_spec hr hc hconf
  · rw [exec_cfgResolveReset, hn]
    rfl
  · rw [exec_cfgResolveReset, hu, resolved, if_neg (by omega)]

end Sys2Proof.Machine
end
